-- ==== Sys2Proof/Word.lean ====
section
/-! DEFINITION. The word types. -/

namespace Sys2Proof

/-- A scalar register's width. -/
abbrev W64 := BitVec 64
/-- One byte of storage. -/
abbrev Byte := BitVec 8
/-- A vector register (R13). -/
abbrev VWord := BitVec 2048
/-- A sparse table: key and entry, keys rising. -/
abbrev Tbl (α : Type) := List (Nat × α)

end Sys2Proof
end

