-- ==== Sys2Proof/Syntax.lean ====
section
/-! DEFINITION. The instruction type: one constructor for each row of the opcode table (the operations of the seven
slots, the micro-operations of the matrix array, and the indivisible steps of the device), with its operand types. -/

namespace Sys2Proof

/-- A core: 0 to 127 the compute cores by global number (R2), 128 + i the management core of island i. -/
abbrev CoreId := Fin 132
/-- An island, I0 to I3. -/
abbrev Isl := Fin 4

/-- Guard of a scalar slot: predicate field and negate bit (R70, R76). -/
structure Guard where
  p : BitVec 4
  neg : Bool
  deriving DecidableEq, Repr

/-- Vector cluster (R13). -/
inductive Cluster where
  | A | B
  deriving DecidableEq, Repr

/-- Element types, in the order of their codes 0 to 9 (R38). -/
inductive ElemTy where
  | i8 | n8 | i16 | n16 | i32 | n32 | f32 | bf16 | e4m3 | b4
  deriving DecidableEq, Repr

/-- Rounding modes, in the order of their codes 0 to 3 (R43). -/
inductive Rm where
  | rne | rz | rd | ru
  deriving DecidableEq, Repr

/-- What every vector slot carries: its cluster, lane predicate, element type and modifier (R71, R43). -/
structure VH where
  cl : Cluster
  grd : BitVec 4
  ty : ElemTy
  sat : Bool
  rm : Rm
  deriving DecidableEq, Repr

/-- Produced and consumed tokens of an engine operation (R72, R73). -/
structure Toks where
  tp : BitVec 6
  ta : BitVec 6
  tb : BitVec 6
  tc : BitVec 6
  deriving DecidableEq, Repr

/-- Value operand of a micro-operation (R152): parameter register, quarter, add bit, immediate. -/
structure MVal where
  i : BitVec 3
  q : BitVec 2
  e : Bool
  imm : BitVec 16
  deriving DecidableEq, Repr

/-- Grant of a fill (R351). -/
inductive Grant where
  | S | E | M
  deriving DecidableEq, Repr

/-- Registers whose write has no behaviour of its own (R6), by the rule that gives their layout. -/
inductive RegName where
  /-- LWB (R319). -/
  | lwb
  /-- Admission-refused flag, W1C (R327). -/
  | admf
  /-- QSTA, W1C in OVR (R327). -/
  | qsta (q : BitVec 8)
  /-- HWB, HWL, HWO, PTR, SVB, SVN of a context (R331, R361), k as there. -/
  | ctx (cx : BitVec 7) (k : BitVec 3)
  /-- A word of the key (R345). -/
  | keyw (y : Isl) (k : BitVec 3)
  /-- SHQ (R343). -/
  | shq (y : Isl)
  /-- CUT (R368). -/
  | cut (y : Isl)
  /-- RQB, RQH, RQT, RQD (R357). -/
  | rq (y : Isl) (k : BitVec 2)
  /-- Debug control of a local core (R390). -/
  | dbg (y : Isl) (k : BitVec 5)
  /-- TRB, TRW, TRR (R392). -/
  | tr (y : Isl) (k : BitVec 2)
  /-- OPS, W1C in TRP (R373). -/
  | ops (y : Isl)
  /-- LIM (R377). -/
  | lim (y : Isl)
  /-- OPTI and OPTD0 (R376). -/
  | opti (y : Isl)
  | optd0 (y : Isl)
  /-- BFS, W1C in DONE (R344). -/
  | bfs
  /-- SCP (R400). -/
  | scp
  /-- FWA (R403). -/
  | fwa
  /-- A doubleword of the attestation nonce (R404). -/
  | nonce (k : BitVec 2)
  deriving DecidableEq, Repr

/-- Operands of a device step: its agent and what it names. Each step's comment in Instr says which it reads. -/
structure Arg where
  c : CoreId
  y : Isl
  x : Isl
  h : Isl
  id : Nat
  u : Bool
  n : Nat
  k : Nat
  m : Nat
  v : W64
  line : Nat
  flag : Bool
  gr : Grant
  data : BitVec 1024
  rg : RegName
  deriving DecidableEq, Repr

/-- No operands. -/
def Arg.zero : Arg := ⟨0, 0, 0, 0, 0, false, 0, 0, 0, 0, 0, false, .S, 0, .bfs⟩

/-- One row of the opcode table each. A scalar operation carries its guard, a vector operation its header; other
operand names are the field names of the entry. A device step takes its operands from State.arg. -/
inductive Instr where
  /-- NOP: the no-op of any slot (R81). -/
  | nop
  /-- ADD: scalar 0x01 (R88). -/
  | add (g : Guard) (d : BitVec 6) (a : BitVec 6) (b : BitVec 6)
  /-- SUB: scalar 0x02 (R88). -/
  | sub (g : Guard) (d : BitVec 6) (a : BitVec 6) (b : BitVec 6)
  /-- MUL: scalar 0x03 (R88). -/
  | mul (g : Guard) (d : BitVec 6) (a : BitVec 6) (b : BitVec 6)
  /-- MULH: scalar 0x04 (R88). -/
  | mulh (g : Guard) (d : BitVec 6) (a : BitVec 6) (b : BitVec 6)
  /-- MULHN: scalar 0x05 (R88). -/
  | mulhn (g : Guard) (d : BitVec 6) (a : BitVec 6) (b : BitVec 6)
  /-- DIV: scalar 0x06 (R89). -/
  | div (g : Guard) (d : BitVec 6) (a : BitVec 6) (b : BitVec 6)
  /-- DIVN: scalar 0x07 (R89). -/
  | divn (g : Guard) (d : BitVec 6) (a : BitVec 6) (b : BitVec 6)
  /-- REM: scalar 0x08 (R89). -/
  | rem (g : Guard) (d : BitVec 6) (a : BitVec 6) (b : BitVec 6)
  /-- REMN: scalar 0x09 (R89). -/
  | remn (g : Guard) (d : BitVec 6) (a : BitVec 6) (b : BitVec 6)
  /-- ADDI: scalar 0x0A (R90). -/
  | addi (g : Guard) (d : BitVec 6) (a : BitVec 6) (imm : BitVec 33)
  /-- MULI: scalar 0x0B (R90). -/
  | muli (g : Guard) (d : BitVec 6) (a : BitVec 6) (imm : BitVec 33)
  /-- AND: scalar 0x0C (R92). -/
  | and (g : Guard) (d : BitVec 6) (a : BitVec 6) (b : BitVec 6)
  /-- OR: scalar 0x0D (R92). -/
  | or (g : Guard) (d : BitVec 6) (a : BitVec 6) (b : BitVec 6)
  /-- XOR: scalar 0x0E (R92). -/
  | xor (g : Guard) (d : BitVec 6) (a : BitVec 6) (b : BitVec 6)
  /-- ANDN: scalar 0x0F (R92). -/
  | andn (g : Guard) (d : BitVec 6) (a : BitVec 6) (b : BitVec 6)
  /-- ORN: scalar 0x10 (R92). -/
  | orn (g : Guard) (d : BitVec 6) (a : BitVec 6) (b : BitVec 6)
  /-- XNOR: scalar 0x11 (R92). -/
  | xnor (g : Guard) (d : BitVec 6) (a : BitVec 6) (b : BitVec 6)
  /-- ANDI: scalar 0x12 (R92). -/
  | andi (g : Guard) (d : BitVec 6) (a : BitVec 6) (imm : BitVec 33)
  /-- ORI: scalar 0x13 (R92). -/
  | ori (g : Guard) (d : BitVec 6) (a : BitVec 6) (imm : BitVec 33)
  /-- XORI: scalar 0x14 (R92). -/
  | xori (g : Guard) (d : BitVec 6) (a : BitVec 6) (imm : BitVec 33)
  /-- SHL: scalar 0x15 (R93). -/
  | shl (g : Guard) (d : BitVec 6) (a : BitVec 6) (b : BitVec 6)
  /-- SHR: scalar 0x16 (R93). -/
  | shr (g : Guard) (d : BitVec 6) (a : BitVec 6) (b : BitVec 6)
  /-- SAR: scalar 0x17 (R93). -/
  | sar (g : Guard) (d : BitVec 6) (a : BitVec 6) (b : BitVec 6)
  /-- ROL: scalar 0x18 (R93). -/
  | rol (g : Guard) (d : BitVec 6) (a : BitVec 6) (b : BitVec 6)
  /-- ROR: scalar 0x19 (R93). -/
  | ror (g : Guard) (d : BitVec 6) (a : BitVec 6) (b : BitVec 6)
  /-- SHLI: scalar 0x1A (R93). -/
  | shli (g : Guard) (d : BitVec 6) (a : BitVec 6) (sh : BitVec 6)
  /-- SHRI: scalar 0x1B (R93). -/
  | shri (g : Guard) (d : BitVec 6) (a : BitVec 6) (sh : BitVec 6)
  /-- SARI: scalar 0x1C (R93). -/
  | sari (g : Guard) (d : BitVec 6) (a : BitVec 6) (sh : BitVec 6)
  /-- MIN: scalar 0x1D (R94). -/
  | min (g : Guard) (d : BitVec 6) (a : BitVec 6) (b : BitVec 6)
  /-- MAX: scalar 0x1E (R94). -/
  | max (g : Guard) (d : BitVec 6) (a : BitVec 6) (b : BitVec 6)
  /-- MINN: scalar 0x1F (R94). -/
  | minn (g : Guard) (d : BitVec 6) (a : BitVec 6) (b : BitVec 6)
  /-- MAXN: scalar 0x20 (R94). -/
  | maxn (g : Guard) (d : BitVec 6) (a : BitVec 6) (b : BitVec 6)
  /-- ABS: scalar 0x21 (R94). -/
  | abs (g : Guard) (d : BitVec 6) (a : BitVec 6)
  /-- NEG: scalar 0x22 (R94). -/
  | neg (g : Guard) (d : BitVec 6) (a : BitVec 6)
  /-- CLZ: scalar 0x23 (R95). -/
  | clz (g : Guard) (d : BitVec 6) (a : BitVec 6)
  /-- CTZ: scalar 0x24 (R95). -/
  | ctz (g : Guard) (d : BitVec 6) (a : BitVec 6)
  /-- POPC: scalar 0x25 (R95). -/
  | popc (g : Guard) (d : BitVec 6) (a : BitVec 6)
  /-- BSWAP: scalar 0x26 (R95). -/
  | bswap (g : Guard) (d : BitVec 6) (a : BitVec 6)
  /-- BEXS: scalar 0x27 (R96). -/
  | bexs (g : Guard) (d : BitVec 6) (a : BitVec 6) (pos : BitVec 6) (w1 : BitVec 6)
  /-- BEXZ: scalar 0x28 (R96). -/
  | bexz (g : Guard) (d : BitVec 6) (a : BitVec 6) (pos : BitVec 6) (w1 : BitVec 6)
  /-- BINS: scalar 0x29 (R96). -/
  | bins (g : Guard) (d : BitVec 6) (a : BitVec 6) (pos : BitVec 6) (w1 : BitVec 6)
  /-- SEL: scalar 0x2A (R97). -/
  | sel (g : Guard) (d : BitVec 6) (a : BitVec 6) (b : BitVec 6) (j : BitVec 4)
  /-- LI: scalar 0x2B (R97). -/
  | li (g : Guard) (d : BitVec 6) (imm : BitVec 33)
  /-- LIH: scalar 0x2C (R97). -/
  | lih (g : Guard) (d : BitVec 6) (imm : BitVec 32)
  /-- MOV: scalar 0x2D (R97). -/
  | mov (g : Guard) (d : BitVec 6) (a : BitVec 6)
  /-- ADDS: scalar 0x2E (R91). -/
  | adds (g : Guard) (d : BitVec 6) (a : BitVec 6) (b : BitVec 6)
  /-- SUBS: scalar 0x2F (R91). -/
  | subs (g : Guard) (d : BitVec 6) (a : BitVec 6) (b : BitVec 6)
  /-- SEXT: scalar 0x30 (R91). -/
  | sext (g : Guard) (d : BitVec 6) (a : BitVec 6) (w1 : BitVec 6)
  /-- ZEXT: scalar 0x31 (R91). -/
  | zext (g : Guard) (d : BitVec 6) (a : BitVec 6) (w1 : BitVec 6)
  /-- CMPEQ: scalar 0x40 (R98). -/
  | cmpeq (g : Guard) (pd : BitVec 4) (a : BitVec 6) (b : BitVec 6)
  /-- CMPNE: scalar 0x41 (R98). -/
  | cmpne (g : Guard) (pd : BitVec 4) (a : BitVec 6) (b : BitVec 6)
  /-- CMPLT: scalar 0x42 (R98). -/
  | cmplt (g : Guard) (pd : BitVec 4) (a : BitVec 6) (b : BitVec 6)
  /-- CMPLE: scalar 0x43 (R98). -/
  | cmple (g : Guard) (pd : BitVec 4) (a : BitVec 6) (b : BitVec 6)
  /-- CMPLTN: scalar 0x44 (R98). -/
  | cmpltn (g : Guard) (pd : BitVec 4) (a : BitVec 6) (b : BitVec 6)
  /-- CMPLEN: scalar 0x45 (R98). -/
  | cmplen (g : Guard) (pd : BitVec 4) (a : BitVec 6) (b : BitVec 6)
  /-- CMPEQI: scalar 0x46 (R98). -/
  | cmpeqi (g : Guard) (pd : BitVec 4) (a : BitVec 6) (imm : BitVec 33)
  /-- CMPLTI: scalar 0x47 (R98). -/
  | cmplti (g : Guard) (pd : BitVec 4) (a : BitVec 6) (imm : BitVec 33)
  /-- PAND: scalar 0x48 (R99). -/
  | pand (g : Guard) (pd : BitVec 4) (px : BitVec 4) (py : BitVec 4)
  /-- POR: scalar 0x49 (R99). -/
  | por (g : Guard) (pd : BitVec 4) (px : BitVec 4) (py : BitVec 4)
  /-- PXOR: scalar 0x4A (R99). -/
  | pxor (g : Guard) (pd : BitVec 4) (px : BitVec 4) (py : BitVec 4)
  /-- PANDN: scalar 0x4B (R99). -/
  | pandn (g : Guard) (pd : BitVec 4) (px : BitVec 4) (py : BitVec 4)
  /-- PNOT: scalar 0x4C (R99). -/
  | pnot (g : Guard) (pd : BitVec 4) (px : BitVec 4)
  /-- PMOV: scalar 0x4D (R99). -/
  | pmov (g : Guard) (pd : BitVec 4) (px : BitVec 4)
  /-- PSET: scalar 0x4E (R99). -/
  | pset (g : Guard) (pd : BitVec 4) (a : BitVec 6)
  /-- PGET: scalar 0x4F (R99). -/
  | pget (g : Guard) (d : BitVec 6) (px : BitVec 4)
  /-- PCNT: scalar 0x5A (R99). -/
  | pcnt (g : Guard) (d : BitVec 6) (px : BitVec 4)
  /-- BR: scalar 0x50 (R100). -/
  | br (g : Guard) (imm : BitVec 33)
  /-- JMP: scalar 0x51 (R100). -/
  | jmp (g : Guard) (a : BitVec 6)
  /-- CALL: scalar 0x52 (R100). -/
  | call (g : Guard) (d : BitVec 6) (imm : BitVec 33)
  /-- CALLR: scalar 0x53 (R100). -/
  | callr (g : Guard) (d : BitVec 6) (a : BitVec 6)
  /-- RET: scalar 0x54 (R100). -/
  | ret (g : Guard) (a : BitVec 6)
  /-- LOOP: scalar 0x55 (R102). -/
  | loop (g : Guard) (a : BitVec 6) (ii : BitVec 8) (ns1 : BitVec 3)
  /-- SLOOP: scalar 0x56 (R102). -/
  | sloop (g : Guard) (a : BitVec 6) (ii : BitVec 8) (ns1 : BitVec 3)
  /-- SNEXT: scalar 0x57 (R107). -/
  | snext (g : Guard) (imm : BitVec 33)
  /-- MFSP: scalar 0x58 (R112). -/
  | mfsp (g : Guard) (d : BitVec 6) (idx : BitVec 8)
  /-- MTSP: scalar 0x59 (R112). -/
  | mtsp (g : Guard) (a : BitVec 6) (idx : BitVec 8)
  /-- LDB: scalar 0x60 (R180). -/
  | ldb (g : Guard) (d : BitVec 6) (a : BitVec 6) (j : BitVec 4) (sp : BitVec 2) (off : BitVec 22)
  /-- LDBN: scalar 0x61 (R180). -/
  | ldbn (g : Guard) (d : BitVec 6) (a : BitVec 6) (j : BitVec 4) (sp : BitVec 2) (off : BitVec 22)
  /-- LDH: scalar 0x62 (R180). -/
  | ldh (g : Guard) (d : BitVec 6) (a : BitVec 6) (j : BitVec 4) (sp : BitVec 2) (off : BitVec 22)
  /-- LDHN: scalar 0x63 (R180). -/
  | ldhn (g : Guard) (d : BitVec 6) (a : BitVec 6) (j : BitVec 4) (sp : BitVec 2) (off : BitVec 22)
  /-- LDW: scalar 0x64 (R180). -/
  | ldw (g : Guard) (d : BitVec 6) (a : BitVec 6) (j : BitVec 4) (sp : BitVec 2) (off : BitVec 22)
  /-- LDWN: scalar 0x65 (R180). -/
  | ldwn (g : Guard) (d : BitVec 6) (a : BitVec 6) (j : BitVec 4) (sp : BitVec 2) (off : BitVec 22)
  /-- LDD: scalar 0x66 (R180). -/
  | ldd (g : Guard) (d : BitVec 6) (a : BitVec 6) (j : BitVec 4) (sp : BitVec 2) (off : BitVec 22)
  /-- STB: scalar 0x67 (R182). -/
  | stb (g : Guard) (a : BitVec 6) (b : BitVec 6) (sp : BitVec 2) (off : BitVec 22)
  /-- STH: scalar 0x68 (R182). -/
  | sth (g : Guard) (a : BitVec 6) (b : BitVec 6) (sp : BitVec 2) (off : BitVec 22)
  /-- STW: scalar 0x69 (R182). -/
  | stw (g : Guard) (a : BitVec 6) (b : BitVec 6) (sp : BitVec 2) (off : BitVec 22)
  /-- STD: scalar 0x6A (R182). -/
  | std (g : Guard) (a : BitVec 6) (b : BitVec 6) (sp : BitVec 2) (off : BitVec 22)
  /-- LDR: scalar 0x6B (R185). -/
  | ldr (g : Guard) (pd : BitVec 4) (a : BitVec 6) (sp : BitVec 2) (off : BitVec 22)
  /-- LDK: scalar 0x6C (R191). -/
  | ldk (g : Guard) (d : BitVec 6) (a : BitVec 6) (j : BitVec 4) (sp : BitVec 2) (k : BitVec 7) (sz : BitVec 2) (off : BitVec 22)
  /-- LDA: scalar 0x6D (R184). -/
  | lda (g : Guard) (d : BitVec 6) (a : BitVec 6) (j : BitVec 4) (sp : BitVec 2) (scp : BitVec 2) (sz : BitVec 2) (off : BitVec 22)
  /-- STL: scalar 0x6E (R184). -/
  | stl (g : Guard) (a : BitVec 6) (b : BitVec 6) (sp : BitVec 2) (scp : BitVec 2) (sz : BitVec 2) (off : BitVec 22)
  /-- PGIN: scalar 0x6F (R186). -/
  | pgin (g : Guard) (d : BitVec 6) (a : BitVec 6) (sp : BitVec 2) (off : BitVec 22)
  /-- AMOADD: scalar 0x70 (R192). -/
  | amoadd (g : Guard) (d : BitVec 6) (a : BitVec 6) (b : BitVec 6) (sp : BitVec 2) (ord : BitVec 2) (scp : BitVec 2) (sz : BitVec 2) (off : BitVec 22)
  /-- AMOAND: scalar 0x71 (R192). -/
  | amoand (g : Guard) (d : BitVec 6) (a : BitVec 6) (b : BitVec 6) (sp : BitVec 2) (ord : BitVec 2) (scp : BitVec 2) (sz : BitVec 2) (off : BitVec 22)
  /-- AMOOR: scalar 0x72 (R192). -/
  | amoor (g : Guard) (d : BitVec 6) (a : BitVec 6) (b : BitVec 6) (sp : BitVec 2) (ord : BitVec 2) (scp : BitVec 2) (sz : BitVec 2) (off : BitVec 22)
  /-- AMOXOR: scalar 0x73 (R192). -/
  | amoxor (g : Guard) (d : BitVec 6) (a : BitVec 6) (b : BitVec 6) (sp : BitVec 2) (ord : BitVec 2) (scp : BitVec 2) (sz : BitVec 2) (off : BitVec 22)
  /-- AMOMIN: scalar 0x74 (R192). -/
  | amomin (g : Guard) (d : BitVec 6) (a : BitVec 6) (b : BitVec 6) (sp : BitVec 2) (ord : BitVec 2) (scp : BitVec 2) (sz : BitVec 2) (off : BitVec 22)
  /-- AMOMAX: scalar 0x75 (R192). -/
  | amomax (g : Guard) (d : BitVec 6) (a : BitVec 6) (b : BitVec 6) (sp : BitVec 2) (ord : BitVec 2) (scp : BitVec 2) (sz : BitVec 2) (off : BitVec 22)
  /-- AMOMINN: scalar 0x76 (R192). -/
  | amominn (g : Guard) (d : BitVec 6) (a : BitVec 6) (b : BitVec 6) (sp : BitVec 2) (ord : BitVec 2) (scp : BitVec 2) (sz : BitVec 2) (off : BitVec 22)
  /-- AMOMAXN: scalar 0x77 (R192). -/
  | amomaxn (g : Guard) (d : BitVec 6) (a : BitVec 6) (b : BitVec 6) (sp : BitVec 2) (ord : BitVec 2) (scp : BitVec 2) (sz : BitVec 2) (off : BitVec 22)
  /-- AMOSWP: scalar 0x78 (R192). -/
  | amoswp (g : Guard) (d : BitVec 6) (a : BitVec 6) (b : BitVec 6) (sp : BitVec 2) (ord : BitVec 2) (scp : BitVec 2) (sz : BitVec 2) (off : BitVec 22)
  /-- AMOCAS: scalar 0x79 (R192). -/
  | amocas (g : Guard) (d : BitVec 6) (a : BitVec 6) (b : BitVec 6) (sp : BitVec 2) (ord : BitVec 2) (scp : BitVec 2) (sz : BitVec 2) (off : BitVec 22)
  /-- FENCE: scalar 0x7A (R193). -/
  | fence (g : Guard) (ordr : BitVec 4) (scp : BitVec 2) (spc : BitVec 3)
  /-- RPUB: scalar 0x7B (R189). -/
  | rpub (g : Guard) (d : BitVec 6) (a : BitVec 6) (rn : BitVec 12)
  /-- RADV: scalar 0x7C (R190). -/
  | radv (g : Guard) (a : BitVec 6) (rn : BitVec 12)
  /-- RACQ: scalar 0x7D (R190). -/
  | racq (g : Guard) (d : BitVec 6) (a : BitVec 6) (rn : BitVec 12)
  /-- RRND: scalar 0x7E (R190). -/
  | rrnd (g : Guard) (d : BitVec 6) (a : BitVec 6) (rn : BitVec 12) (rw : BitVec 2)
  /-- HOIST: scalar 0x7F (R210). -/
  | hoist (g : Guard) (d : BitVec 6) (a : BitVec 6) (b : BitVec 6) (sp : BitVec 2) (tp : BitVec 6) (ta : BitVec 6) (tb : BitVec 6) (tc : BitVec 6)
  /-- SIGHT: scalar 0x80 (R210). -/
  | sight (g : Guard) (d : BitVec 6) (a : BitVec 6) (b : BitVec 6) (sp : BitVec 2) (tp : BitVec 6) (ta : BitVec 6) (tb : BitVec 6) (tc : BitVec 6)
  /-- HRND: scalar 0x81 (R213). -/
  | hrnd (g : Guard) (d : BitVec 6) (a : BitVec 6)
  /-- BARR: scalar 0x82 (R214). -/
  | barr (g : Guard) (d : BitVec 6) (bn : BitVec 8) (n1 : BitVec 7) (tp : BitVec 6)
  /-- BWAIT: scalar 0x83 (R215). -/
  | bwait (g : Guard) (pd : BitVec 4) (a : BitVec 6) (bn : BitVec 8)
  /-- BGEN: scalar 0x84 (R215). -/
  | bgen (g : Guard) (d : BitVec 6) (bn : BitVec 8)
  /-- TKWAIT: scalar 0x85 (R195). -/
  | tkwait (g : Guard) (ta : BitVec 6) (tb : BitVec 6) (tc : BitVec 6)
  /-- TKPOLL: scalar 0x86 (R195). -/
  | tkpoll (g : Guard) (pd : BitVec 4) (ta : BitVec 6)
  /-- RWAIT: scalar 0x87 (R204). -/
  | rwait (g : Guard) (q : BitVec 4)
  /-- RREL: scalar 0x88 (R204). -/
  | rrel (g : Guard) (q : BitVec 4)
  /-- RNEW: scalar 0x89 (R202). -/
  | rnew (g : Guard) (q : BitVec 4) (a : BitVec 6) (b : BitVec 6)
  /-- RSTAT: scalar 0x8A (R205). -/
  | rstat (g : Guard) (d : BitVec 6) (q : BitVec 4)
  /-- NSW: scalar 0x8B (R196). -/
  | nsw (g : Guard) (k : BitVec 4) (a : BitVec 6) (nw : BitVec 3)
  /-- NGW: scalar 0x8C (R196). -/
  | ngw (g : Guard) (d : BitVec 6) (k : BitVec 4) (nw : BitVec 3)
  /-- MSET: scalar 0xA0 (R147). -/
  | mset (g : Guard) (mi : BitVec 3) (a : BitVec 6)
  /-- MSETI: scalar 0xA1 (R147). -/
  | mseti (g : Guard) (mi : BitVec 3) (imm : BitVec 16) (mq : BitVec 2)
  /-- MGET: scalar 0xA2 (R147). -/
  | mget (g : Guard) (d : BitVec 6) (mi : BitVec 3)
  /-- MPLD: scalar 0xA3 (R149). -/
  | mpld (g : Guard) (a : BitVec 6) (b : BitVec 6) (mw : BitVec 10)
  /-- MPENT: scalar 0xA4 (R149). -/
  | mpent (g : Guard) (a : BitVec 6) (re : BitVec 8)
  /-- MSTAT: scalar 0xA5 (R150). -/
  | mstat (g : Guard) (d : BitVec 6)
  /-- CKST: scalar 0xA6 (R174). -/
  | ckst (g : Guard) (d : BitVec 6) (sel : BitVec 2)
  /-- PULL: scalar 0xC0 (R219). -/
  | pull (g : Guard) (d : BitVec 6) (j : BitVec 4)
  /-- PUSH: scalar 0xC1 (R221). -/
  | push (g : Guard) (d : BitVec 6) (a : BitVec 6) (b : BitVec 6) (st : BitVec 3) (hasB : Bool)
  /-- RETIRE: scalar 0xC2 (R222). -/
  | retire (g : Guard)
  /-- LAUNCH: scalar 0xC3 (R225). -/
  | launch (g : Guard) (d : BitVec 6) (a : BitVec 6)
  /-- LPOLL: scalar 0xC4 (R227). -/
  | lpoll (g : Guard) (d : BitVec 6) (a : BitVec 6)
  /-- CLKDIV: scalar 0xC5 (R228). -/
  | clkdiv (g : Guard) (mask : BitVec 4) (dv : BitVec 5)
  /-- CLKDIV_REG: scalar 0xC5 (R228). -/
  | clkdivReg (g : Guard) (a : BitVec 6) (mask : BitVec 4)
  /-- TRAP: scalar 0xC6 (R238). -/
  | trap (g : Guard) (tn : BitVec 16)
  /-- EJRD: scalar 0xC7 (R240). -/
  | ejrd (g : Guard) (d : BitVec 6) (sel : BitVec 2)
  /-- QDEP: scalar 0xC8 (R224). -/
  | qdep (g : Guard) (d : BitVec 6) (st : BitVec 3)
  /-- BRK: scalar 0xC9 (R239). -/
  | brk (g : Guard) (tn : BitVec 16)
  /-- MFPR: scalar 0xD0 (R241). -/
  | mfpr (g : Guard) (d : BitVec 6) (pidx : BitVec 16)
  /-- MTPR: scalar 0xD1 (R241). -/
  | mtpr (g : Guard) (a : BitVec 6) (pidx : BitVec 16)
  /-- XLINV: scalar 0xD2 (R340). -/
  | xlinv (g : Guard) (d : BitVec 6) (a : BitVec 6) (b : BitVec 6) (psz : BitVec 3)
  /-- PURGE: scalar 0xD3 (R383). -/
  | purge (g : Guard) (d : BitVec 6) (a : BitVec 6)
  /-- ERET: scalar 0xD4 (R360). -/
  | eret (g : Guard) (a : BitVec 6) (em : Bool)
  /-- WFE: scalar 0xD5 (R241). -/
  | wfe (g : Guard) (d : BitVec 6)
  /-- STEST: scalar 0xD6 (R388). -/
  | stest (g : Guard) (d : BitVec 6) (a : BitVec 6)
  /-- HSW: scalar 0xD7 (R241). -/
  | hsw (g : Guard) (a : BitVec 6) (b : BitVec 6)
  /-- VADD: vector 0x01 (R117). -/
  | vadd (h : VH) (vd : BitVec 5) (v1 : BitVec 5) (v2 : BitVec 5)
  /-- VSUB: vector 0x02 (R117). -/
  | vsub (h : VH) (vd : BitVec 5) (v1 : BitVec 5) (v2 : BitVec 5)
  /-- VMUL: vector 0x03 (R117). -/
  | vmul (h : VH) (vd : BitVec 5) (v1 : BitVec 5) (v2 : BitVec 5)
  /-- VMULH: vector 0x04 (R117). -/
  | vmulh (h : VH) (vd : BitVec 5) (v1 : BitVec 5) (v2 : BitVec 5)
  /-- VFMA: vector 0x05 (R118). -/
  | vfma (h : VH) (vd : BitVec 5) (v1 : BitVec 5) (v2 : BitVec 5) (v3 : BitVec 5)
  /-- VFMS: vector 0x06 (R118). -/
  | vfms (h : VH) (vd : BitVec 5) (v1 : BitVec 5) (v2 : BitVec 5) (v3 : BitVec 5)
  /-- VFNMA: vector 0x07 (R118). -/
  | vfnma (h : VH) (vd : BitVec 5) (v1 : BitVec 5) (v2 : BitVec 5) (v3 : BitVec 5)
  /-- VDIV: vector 0x08 (R119). -/
  | vdiv (h : VH) (vd : BitVec 5) (v1 : BitVec 5) (v2 : BitVec 5)
  /-- VSQRT: vector 0x09 (R119). -/
  | vsqrt (h : VH) (vd : BitVec 5) (v1 : BitVec 5)
  /-- VRSQRT: vector 0x0A (R119). -/
  | vrsqrt (h : VH) (vd : BitVec 5) (v1 : BitVec 5)
  /-- VRSQP: vector 0x0B (R119). -/
  | vrsqp (h : VH) (vd : BitVec 5) (v1 : BitVec 5) (j : BitVec 4)
  /-- VMIN: vector 0x0C (R117). -/
  | vmin (h : VH) (vd : BitVec 5) (v1 : BitVec 5) (v2 : BitVec 5)
  /-- VMAX: vector 0x0D (R117). -/
  | vmax (h : VH) (vd : BitVec 5) (v1 : BitVec 5) (v2 : BitVec 5)
  /-- VABS: vector 0x0E (R117). -/
  | vabs (h : VH) (vd : BitVec 5) (v1 : BitVec 5)
  /-- VNEG: vector 0x0F (R117). -/
  | vneg (h : VH) (vd : BitVec 5) (v1 : BitVec 5)
  /-- VAND: vector 0x10 (R120). -/
  | vand (h : VH) (vd : BitVec 5) (v1 : BitVec 5) (v2 : BitVec 5)
  /-- VOR: vector 0x11 (R120). -/
  | vor (h : VH) (vd : BitVec 5) (v1 : BitVec 5) (v2 : BitVec 5)
  /-- VXOR: vector 0x12 (R120). -/
  | vxor (h : VH) (vd : BitVec 5) (v1 : BitVec 5) (v2 : BitVec 5)
  /-- VNOT: vector 0x13 (R120). -/
  | vnot (h : VH) (vd : BitVec 5) (v1 : BitVec 5)
  /-- VSHL: vector 0x14 (R121). -/
  | vshl (h : VH) (vd : BitVec 5) (v1 : BitVec 5) (v2 : BitVec 5)
  /-- VSHL_IMM: vector 0x14 (R121). -/
  | vshlImm (h : VH) (vd : BitVec 5) (v1 : BitVec 5) (sh : BitVec 6)
  /-- VSHR: vector 0x15 (R121). -/
  | vshr (h : VH) (vd : BitVec 5) (v1 : BitVec 5) (v2 : BitVec 5)
  /-- VSHR_IMM: vector 0x15 (R121). -/
  | vshrImm (h : VH) (vd : BitVec 5) (v1 : BitVec 5) (sh : BitVec 6)
  /-- VSAR: vector 0x16 (R121). -/
  | vsar (h : VH) (vd : BitVec 5) (v1 : BitVec 5) (v2 : BitVec 5)
  /-- VSAR_IMM: vector 0x16 (R121). -/
  | vsarImm (h : VH) (vd : BitVec 5) (v1 : BitVec 5) (sh : BitVec 6)
  /-- VRSHR: vector 0x17 (R121). -/
  | vrshr (h : VH) (vd : BitVec 5) (v1 : BitVec 5) (v2 : BitVec 5)
  /-- VRSHR_IMM: vector 0x17 (R121). -/
  | vrshrImm (h : VH) (vd : BitVec 5) (v1 : BitVec 5) (sh : BitVec 6)
  /-- VCMPEQ: vector 0x18 (R124). -/
  | vcmpeq (h : VH) (v1 : BitVec 5) (v2 : BitVec 5) (j : BitVec 4)
  /-- VCMPNE: vector 0x19 (R124). -/
  | vcmpne (h : VH) (v1 : BitVec 5) (v2 : BitVec 5) (j : BitVec 4)
  /-- VCMPLT: vector 0x1A (R124). -/
  | vcmplt (h : VH) (v1 : BitVec 5) (v2 : BitVec 5) (j : BitVec 4)
  /-- VCMPLE: vector 0x1B (R124). -/
  | vcmple (h : VH) (v1 : BitVec 5) (v2 : BitVec 5) (j : BitVec 4)
  /-- VSEL: vector 0x1C (R125). -/
  | vsel (h : VH) (vd : BitVec 5) (v1 : BitVec 5) (v2 : BitVec 5) (j : BitVec 4)
  /-- VCLZ: vector 0x1D (R122). -/
  | vclz (h : VH) (vd : BitVec 5) (v1 : BitVec 5)
  /-- VPOPC: vector 0x1E (R122). -/
  | vpopc (h : VH) (vd : BitVec 5) (v1 : BitVec 5)
  /-- VDOT4: vector 0x1F (R123). -/
  | vdot4 (h : VH) (vd : BitVec 5) (v1 : BitVec 5) (v2 : BitVec 5) (v3 : BitVec 5)
  /-- VREDSUM: vector 0x20 (R126). -/
  | vredsum (h : VH) (vd : BitVec 5) (v1 : BitVec 5)
  /-- VREDMAX: vector 0x21 (R126). -/
  | vredmax (h : VH) (vd : BitVec 5) (v1 : BitVec 5)
  /-- VREDMIN: vector 0x22 (R126). -/
  | vredmin (h : VH) (vd : BitVec 5) (v1 : BitVec 5)
  /-- VCPSGN: vector 0x23 (R117). -/
  | vcpsgn (h : VH) (vd : BitVec 5) (v1 : BitVec 5) (v2 : BitVec 5)
  /-- VMOVI: vector 0x24 (R127). -/
  | vmovi (h : VH) (vd : BitVec 5) (imm : BitVec 24)
  /-- VXMOV: vector 0x25 (R127). -/
  | vxmov (h : VH) (vd : BitVec 5) (v1 : BitVec 5)
  /-- VMOV: vector 0x26 (R127). -/
  | vmov (h : VH) (vd : BitVec 5) (v1 : BitVec 5)
  /-- VLD: vector 0x80 (R135). -/
  | vld (h : VH) (vd : BitVec 5) (off : BitVec 18) (sk : BitVec 6)
  /-- VST: vector 0x81 (R135). -/
  | vst (h : VH) (vd : BitVec 5) (off : BitVec 18) (sk : BitVec 6)
  /-- VLDS: vector 0x82 (R136). -/
  | vlds (h : VH) (vd : BitVec 5) (off : BitVec 12) (sk : BitVec 6) (st : BitVec 6)
  /-- VSTS: vector 0x83 (R136). -/
  | vsts (h : VH) (vd : BitVec 5) (off : BitVec 12) (sk : BitVec 6) (st : BitVec 6)
  /-- VLDX: vector 0x84 (R137). -/
  | vldx (h : VH) (vd : BitVec 5) (v2 : BitVec 5) (off : BitVec 18) (sk : BitVec 6)
  /-- VSTX: vector 0x85 (R137). -/
  | vstx (h : VH) (vd : BitVec 5) (v2 : BitVec 5) (off : BitVec 18) (sk : BitVec 6)
  /-- VLDB: vector 0x86 (R135). -/
  | vldb (h : VH) (vd : BitVec 5) (off : BitVec 18) (sk : BitVec 6)
  /-- VCVT: vector 0xC0 (R131). -/
  | vcvt (h : VH) (vd : BitVec 5) (v1 : BitVec 5) (fm : ElemTy) (hh : BitVec 2)
  /-- VQUANT: vector 0xC1 (R132). -/
  | vquant (h : VH) (vd : BitVec 5) (v1 : BitVec 5) (v2 : BitVec 5) (fm : ElemTy) (bb : BitVec 2) (bt : BitVec 2) (e0 : BitVec 6)
  /-- VDEQUANT: vector 0xC2 (R133). -/
  | vdequant (h : VH) (vd : BitVec 5) (v1 : BitVec 5) (bb : BitVec 2) (hb : Bool)
  /-- VPERM: vector 0xC3 (R129). -/
  | vperm (h : VH) (vd : BitVec 5) (v1 : BitVec 5) (v2 : BitVec 5)
  /-- VSLIDE: vector 0xC4 (R129). -/
  | vslide (h : VH) (vd : BitVec 5) (v1 : BitVec 5) (v2 : BitVec 5) (k9 : BitVec 9)
  /-- VBCAST_ELEM: vector 0xC5 (R128). -/
  | vbcastElem (h : VH) (vd : BitVec 5) (v1 : BitVec 5) (el : BitVec 12)
  /-- VBCAST_SCALAR: vector 0xC5 (R128). -/
  | vbcastScalar (h : VH) (vd : BitVec 5) (sk : BitVec 6)
  /-- VZIP: vector 0xC6 (R129). -/
  | vzip (h : VH) (vd : BitVec 5) (v1 : BitVec 5) (v2 : BitVec 5) (hb : Bool)
  /-- VUNZIP: vector 0xC7 (R129). -/
  | vunzip (h : VH) (vd : BitVec 5) (v1 : BitVec 5) (v2 : BitVec 5) (hb : Bool)
  /-- VPACK: vector 0xC8 (R130). -/
  | vpack (h : VH) (vd : BitVec 5) (v1 : BitVec 5) (v2 : BitVec 5) (sg : Bool)
  /-- VUNPK: vector 0xC9 (R130). -/
  | vunpk (h : VH) (vd : BitVec 5) (v1 : BitVec 5) (hb : Bool)
  /-- MCALL: matrix 0x01 (R165). -/
  | mcall (t : Toks) (e : BitVec 8) (lat : BitVec 3) (acc : BitVec 2) (ck : Bool) (ovw : Bool)
  /-- LLOAD: matrix 0x02 (R162). -/
  | lload (t : Toks) (i : BitVec 3) (lat : BitVec 3)
  /-- DRAIN: matrix 0x03 (R168). -/
  | drain (t : Toks) (i : BitVec 3) (acc : BitVec 2) (ck : Bool) (ovw : Bool)
  /-- AZERO: matrix 0x04 (R166). -/
  | azero (t : Toks) (acc : BitVec 2)
  /-- EPICFG: matrix 0x05 (R167). -/
  | epicfg (t : Toks) (i : BitVec 3)
  /-- CKSNAP: matrix 0x06 (R173). -/
  | cksnap (t : Toks) (i : BitVec 3) (acc : BitVec 2)
  /-- CPY: copy 0x01 (R197). -/
  | cpy (u : Bool) (t : Toks) (nst : BitVec 4) (rng : BitVec 4) (bnd : BitVec 7) (scp : BitVec 2) (be : Bool)
  /-- CPSET: copy 0x02 (R197). -/
  | cpset (u : Bool) (t : Toks) (nst : BitVec 4) (rng : BitVec 4) (scp : BitVec 2)
  /-- BCDRV: copy 0x03 (R206). -/
  | bcdrv (u : Bool) (t : Toks) (nst : BitVec 4)
  /-- BCLAT: copy 0x04 (R207). -/
  | bclat (u : Bool) (t : Toks) (nst : BitVec 4) (rng : BitVec 4)
  /-- SCSET: scale 0x1 (R163). -/
  | scset (b : BitVec 4) (v : BitVec 8)
  /-- SCADD: scale 0x2 (R163). -/
  | scadd (b : BitVec 4) (v : BitVec 8)
  /-- SCSUB: scale 0x3 (R163). -/
  | scsub (b : BitVec 4) (v : BitVec 8)
  /-- SCPAD: scale 0x4 (R163). -/
  | scpad (b : BitVec 4) (v : BitVec 8)
  /-- SCCPY: scale 0x5 (R163). -/
  | sccpy (b : BitVec 4) (v : BitVec 8)
  /-- SCMAX: scale 0x6 (R163). -/
  | scmax (b : BitVec 4) (v : BitVec 8)
  /-- SCMIN: scale 0x7 (R163). -/
  | scmin (b : BitVec 4) (v : BitVec 8)
  /-- FIN: micro-operation 0x0 (R153). -/
  | fin
  /-- FMT: micro-operation 0x1 (R153). -/
  | fmt (ta : BitVec 4) (tb : BitVec 4) (es : Bool)
  /-- USE: micro-operation 0x2 (R153). -/
  | use (l : BitVec 3) (a : BitVec 2)
  /-- ACT: micro-operation 0x3 (R153). -/
  | act (v : MVal)
  /-- LK: micro-operation 0x4 (R153). -/
  | lk (v : MVal)
  /-- BK: micro-operation 0x5 (R153). -/
  | bk (v : MVal)
  /-- LKADD: micro-operation 0x6 (R153). -/
  | lkadd (v : MVal)
  /-- BKADD: micro-operation 0x7 (R153). -/
  | bkadd (v : MVal)
  /-- MAC: micro-operation 0x8 (R153). -/
  | mac (n : BitVec 6)
  /-- MACN: micro-operation 0x9 (R153). -/
  | macn (n : BitVec 6)
  /-- ZERO: micro-operation 0xA (R153). -/
  | zero
  /-- IDLE: micro-operation 0xB (R153). -/
  | idle (n1 : BitVec 12)
  /-- CNT: micro-operation 0xC (R153). -/
  | cnt (v : MVal) (x : Bool)
  /-- REP: micro-operation 0xD (R153). -/
  | rep (x : Bool) (t : BitVec 10)
  /-- BRZ: micro-operation 0xE (R153). -/
  | brz (i : BitVec 3) (q : BitVec 2) (t : BitVec 10)
  /-- SCALE_WRITE_LAND: device step: the scale writes that are due land (R164); operands c. -/
  | scaleWriteLand
  /-- ROUTINE_COMPLETE: device step: the routine on the array path completes (R157); operands c. -/
  | routineComplete
  /-- ROUTINE_FAULT: device step: the routine stops with cause fc (R159); operands c, fc in Arg.k. -/
  | routineFault
  /-- LLOAD_COMPLETE: device step: the latch load completes (R162); operands c. -/
  | lloadComplete
  /-- DRAIN_COMPLETE: device step: the drain completes (R168); operands c. -/
  | drainComplete
  /-- AZERO_COMPLETE: device step: the azero completes its token (R166); operands c. -/
  | azeroComplete
  /-- EPICFG_COMPLETE: device step: the epicfg completes (R167); operands c. -/
  | epicfgComplete
  /-- CKSNAP_COMPLETE: device step: the cksnap completes (R173); operands c. -/
  | cksnapComplete
  /-- CHECKPOINT: device step: the checkpoint of the bundle just issued (R230); operands c. -/
  | checkpoint
  /-- SAFE_POINT: device step: the safe point of the bundle just issued (R233); operands c. -/
  | safePoint
  /-- SWITCH_POINT: device step: the switch point of the bundle just issued (R235); operands c. -/
  | switchPoint
  /-- PHASE_MARKER: device step: the phase marker of the bundle just issued (R237); operands c. -/
  | phaseMarker
  /-- RECORD_POST: device step: the oldest waiting record is written to the queue (R357); operands y. -/
  | recordPost
  /-- SFI_OVERRUN: device step: the safe-point interval is overrun (R234); operands c. -/
  | sfiOverrun
  /-- REQUESTED_STOP: device step: a requested or step stop takes effect (R391); operands c. -/
  | requestedStop
  /-- LOAD_DELIVERY: device step: counted operation id is delivered (R181); operands c, id. -/
  | loadDelivery
  /-- STORE_PERFORM: device step: released store id performs at its home (R349); operands c, id. -/
  | storePerform
  /-- COPY_BEGIN: device step: copy unit u begins its next command (R197); operands c, u. -/
  | copyBegin
  /-- COPY_RESUME: device step: the paused copy of unit u resumes (R199); operands c, u. -/
  | copyResume
  /-- SLACK_EXPIRE: device step: the slack of the paused copy runs out (R305); operands c, u. -/
  | slackExpire
  /-- COPY_PAGE_CROSSING: device step: the copy of unit u retranslates (R198); operands c, u. -/
  | copyPageCrossing
  /-- COPY_COMPLETE: device step: copy id of unit u is complete (R200); operands c, u, id. -/
  | copyComplete
  /-- BROADCAST_BEAT: device step: a beat is driven on channel ch (R206); operands y, ch in Arg.k. -/
  | broadcastBeat
  /-- BCLAT_COMPLETE: device step: the latch window of unit u closes (R207); operands c, u, id. -/
  | bclatComplete
  /-- HOIST_SLOT_TAKE: device step: the hoist takes a slot (R212); operands id. -/
  | hoistSlotTake
  /-- HOIST_LAND: device step: the last byte of the hoist lands (R210); operands id. -/
  | hoistLand
  /-- SIGHT_POINT: device step: the sight takes its sight point (R211); operands id. -/
  | sightPoint
  /-- SIGHT_RELEASE: device step: the pin and seat of the sight are freed (R211); operands id. -/
  | sightRelease
  /-- HALYARD_TOKEN_COMPLETE: device step: the token of the hoist or sight completes (R210); operands id. -/
  | halyardTokenComplete
  /-- PUBLISH: device step: the rpub arrives at the home (R189); operands c, id, k, h. -/
  | publish
  /-- ROUND_TABLE_UPDATE: device step: the round table of island y takes round n (R189); operands y, Arg.k = cx * 4096 + r, n. -/
  | roundTableUpdate
  /-- RACQ_ARRIVAL: device step: the racq reads the producer round (R190); operands c, id, h. -/
  | racqArrival
  /-- REGION_SWEEP: device step: the sweep of one control interval (R262); operands y. -/
  | regionSweep
  /-- BARRIER_ARRIVAL: device step: the barr arrives at the home (R214); operands c, id, k, n. -/
  | barrierArrival
  /-- BARRIER_VIEW_UPDATE: device step: the view of island y takes generation g (R214); operands y, Arg.k = cx * 256 + b, g in Arg.n. -/
  | barrierViewUpdate
  /-- PGIN_SERVICE: device step: firmware serves the oldest page-in request (R342); operands y. -/
  | pginService
  /-- SLEW_GRANT_SLOT: device step: a grant slot of the limiter (R272); operands y. -/
  | slewGrantSlot
  /-- RAMP_WINDOW: device step: a ramp window ends (R273); operands c. -/
  | rampWindow
  /-- RAMP_DOWN: device step: the ramp-down begins (R274); operands c. -/
  | rampDown
  /-- HOST_LAUNCH_TRIGGER: device step: a write of 0x5A to the GO byte of slot m of queue q (R320); operands q in Arg.k, m. -/
  | hostLaunchTrigger
  /-- LAUNCH_STATUS_WRITE: device step: the dispatcher writes STS and clears GO (R320); operands q in Arg.k, m. -/
  | launchStatusWrite
  /-- LAUNCH_START: device step: the launch of pool entry n starts (R328); operands n. -/
  | launchStart
  /-- BIND: device step: core c is bound to stage st of launch n (R330); operands c, n, st in Arg.k. -/
  | bind
  /-- INITIAL_ITEM_APPEND: device step: the next initial item of launch n is appended (R322); operands n. -/
  | initialItemAppend
  /-- PERIOD_BOUNDARY: device step: the period of queue q ends (R328); operands q in Arg.k. -/
  | periodBoundary
  /-- BUDGET_OVERRUN: device step: USED reaches BUD in queue q (R329); operands q in Arg.k. -/
  | budgetOverrun
  /-- PREEMPTION_REQUEST: device step: pre-emption of core c is requested (R363); operands c. -/
  | preemptionRequest
  /-- PREEMPTION_SAVE_DONE: device step: the save slot of core c is written (R363); operands c. -/
  | preemptionSaveDone
  /-- QCTL_WRITE: device step: a write of v to the register of queue q (R327); operands q in Arg.k, v. -/
  | qctlWrite
  /-- QPER_WRITE: device step: a write of v to the register of queue q (R327); operands q in Arg.k, v. -/
  | qperWrite
  /-- QBUD_WRITE: device step: a write of v to the register of queue q (R327); operands q in Arg.k, v. -/
  | qbudWrite
  /-- CTXC_WRITE: device step: a write of v to CTXC of context cx (R361); operands cx in Arg.k, v. -/
  | ctxcWrite
  /-- KEY_LOAD: device step: the key words of island y are loaded into slot k (R345); operands y, k. -/
  | keyLoad
  /-- KEY_ERASE: device step: key slot k is erased (R345); operands y, k. -/
  | keyErase
  /-- BIAS_FLIP_TO_HOST: device step: BFC command: page pg to host bias (R344); operands pg in Arg.n. -/
  | biasFlipToHost
  /-- BIAS_FLIP_TO_DEVICE: device step: BFC command: page pg to device bias (R344); operands pg in Arg.n. -/
  | biasFlipToDevice
  /-- BIAS_FLIP_COMPLETE: device step: the bias flip in progress finishes (R344). -/
  | biasFlipComplete
  /-- XLINV_COMPLETE: device step: no agent can use the invalidated translations (R340); operands c, id. -/
  | xlinvComplete
  /-- PURGE_COMPLETE: device step: the purge of pennant pn in context cx completes (R384); operands cx in Arg.k, pn in Arg.n. -/
  | purgeComplete
  /-- POISON_CONSUMED: device step: core c consumes a poisoned value (R382); operands c, a in Arg.v, un in Arg.n, isReg in Arg.flag. -/
  | poisonConsumed
  /-- SELF_TEST_COMPLETE: device step: the self-test of unit un delivers its verdict (R388); operands y, un in Arg.n. -/
  | selfTestComplete
  /-- FENCE_CORE: device step: core fence bit k is set (R389); operands y, k. -/
  | fenceCore
  /-- FENCE_SLICE: device step: slice fence bit k is set (R389); operands y, k. -/
  | fenceSlice
  /-- FENCE_STRAIT: device step: strait fence bit k is set (R389); operands y, k. -/
  | fenceStrait
  /-- FENCE_DRAM_CHANNEL: device step: DRAM channel fence bit k is set (R389); operands y, k. -/
  | fenceDramChannel
  /-- OPM_WRITE: device step: a write of v to OPM (R372); operands y, v. -/
  | opmWrite
  /-- OPMD_WRITE: device step: a write of v to OPMD (R374); operands y, v. -/
  | opmdWrite
  /-- GOV_WRITE: device step: a write of v to GOV (R375); operands y, v. -/
  | govWrite
  /-- OPTD1_WRITE: device step: a write of v to OPTD1 (R376); operands y, v. -/
  | optd1Write
  /-- SLR_WRITE: device step: a write of v to SLR (R380); operands y, v. -/
  | slrWrite
  /-- PLS_WRITE: device step: a write of v to PLS (R379); operands y, v. -/
  | plsWrite
  /-- OPT_MIRROR_WRITE: device step: a host write to the table mirror (R399); operands k, hi in Arg.flag, v. -/
  | optMirrorWrite
  /-- RAIL_MOVE_STEP: device step: the rail arrives at a level (R373); operands y. -/
  | railMoveStep
  /-- CONTROL_INTERVAL: device step: a control interval starts (R377); operands y. -/
  | controlInterval
  /-- GOVERNOR_WINDOW: device step: a governor window ends (R375); operands y. -/
  | governorWindow
  /-- THERMAL_TRIP: device step: a sensor reads above 115 degrees (R377); operands y. -/
  | thermalTrip
  /-- DIVISOR_CHANGE: device step: new effective divisors reach core c (R378); operands c. -/
  | divisorChange
  /-- SUPPLY_LOSS: device step: the supply fails (R368). -/
  | supplyLoss
  /-- QUIESCE_END: device step: T reaches 40 us (R368). -/
  | quiesceEnd
  /-- SAVE_END: device step: the save ends (R368). -/
  | saveEnd
  /-- SEAL_END: device step: the seal ends (R368). -/
  | sealEnd
  /-- POWER_GOOD: device step: power-good (R317). -/
  | powerGood
  /-- HOST_CONFIG_SPACE_READ: device step: the host reads the configuration space (R317). -/
  | hostConfigSpaceRead
  /-- RDS: device step: request from island y at home h (R353); operands h, line, y. -/
  | rds
  /-- RDO: device step: request from island y at home h (R353); operands h, line, y. -/
  | rdo
  /-- UPG: device step: request from island y at home h (R353); operands h, line, y. -/
  | upg
  /-- FWDS: device step: home asks owner x to supply y (R351); operands x, line, y, wait in Arg.flag. -/
  | fwds
  /-- FWDO: device step: home asks owner x to supply y (R351); operands x, line, y, wait in Arg.flag. -/
  | fwdo
  /-- INV: device step: island x drops its copy (R351); operands x, line. -/
  | inv
  /-- BINV: device step: back-invalidation at island x (R354); operands x, line. -/
  | binv
  /-- DATA: device step: a fill arrives at island y (R352); operands y, line, gr, wait in Arg.flag, d in Arg.data. -/
  | data
  /-- ACK: device step: a sharer reports its copy dropped (R351); operands h, line, x. -/
  | ack
  /-- BACK: device step: clean answer to a back-invalidation (R354); operands h, line, x. -/
  | back
  /-- BACKD: device step: dirty answer to a back-invalidation (R354); operands h, line, x, d in Arg.data. -/
  | backd
  /-- FWDACK: device step: the owner reports a forward answered (R355); operands h, line, x, crossed in Arg.flag. -/
  | fwdack
  /-- GO: device step: every ack is in (R352); operands y, line, and Arg.flag if no data comes. -/
  | go
  /-- WB: device step: a dirty eviction arrives at the home (R355); operands h, line, x, d in Arg.data. -/
  | wb
  /-- CE: device step: a clean eviction arrives at the home (R353); operands h, line, x. -/
  | ce
  /-- WBACK: device step: the writeback buffer entry may be freed (R355); operands x, line. -/
  | wback
  /-- CMP: device step: the requester reports its fill installed (R352); operands h, line, y. -/
  | cmp
  /-- LINE_CACHE_EVICTION: device step: core c evicts a line (R348); operands c, line. -/
  | lineCacheEviction
  /-- HOST_MEM_ACCESS: device step: a host CXL.mem access of a line (R356); operands line, wr in Arg.flag, d in Arg.data. -/
  | hostMemAccess
  /-- HOST_SNOOP: device step: a host snoop of a line (R356); operands line, shared in Arg.flag. -/
  | hostSnoop
  /-- EXPANDER_BACK_INVALIDATION: device step: an expander back-invalidation of a line (R356); operands line. -/
  | expanderBackInvalidation
  /-- PATROL_SCRUB: device step: the scrubber reads a line (R400); operands line, bad in Arg.flag. -/
  | patrolScrub
  /-- TELEMETRY_SNAPSHOT: device step: a write of v to TSN (R396); operands v. -/
  | telemetrySnapshot
  /-- TELEMETRY_SNAPSHOT_DONE: device step: the counter copy ends (R396). -/
  | telemetrySnapshotDone
  /-- INFIELD_TEST_REQUEST: device step: a write of v to ITQ (R401); operands v. -/
  | infieldTestRequest
  /-- FW_PROG: device step: FWC PROG (R403). -/
  | fwProg
  /-- FW_PROG_COMPLETE: device step: programming ends (R403). -/
  | fwProgComplete
  /-- FW_COMMIT: device step: FWC COMMIT (R403). -/
  | fwCommit
  /-- ATTESTATION_START: device step: an attestation start write (R404). -/
  | attestationStart
  /-- ATTESTATION_REPORT: device step: the signed report is written (R404). -/
  | attestationReport
  /-- PARTITION_WRITE: device step: a write of v to PRT (pi = 0) or PCX (pi = 1 + p) (R405); operands pi in Arg.k, v. -/
  | partitionWrite
  /-- REGISTER_WRITE: device step: a write of v to a register with no behaviour of its own (R6); operands rg, v. -/
  | registerWrite
  /-- FORCED_PUBLISH: device step: core c receives a forced publish (R250); operands c. -/
  | forcedPublish
  deriving DecidableEq, Repr

end Sys2Proof
end

