-- ==== Sys2Proof/Decode.lean ====
section
/-! DEFINITION. Decoding of code words, bundles, slots and microwords, total on any bits, and after it the encoder.
A refused slot is the illegal-operation trap of R77 item 4; a refused first code word the illegal-code-word fault of R61. -/

namespace Sys2Proof

/-- Quotient rounded up. -/
def ceilDiv (a b : Nat) : Nat := (a + b - 1) / b

/-- Bits hi down to lo of x (R7 Bits). -/
def natBits (x hi lo : Nat) : Nat := (x >>> lo) % 2 ^ (hi + 1 - lo)

/-- The low n bits of x read as two's complement (R7 SExt). -/
def sext (x n : Nat) : Int :=
  if 2 * (x % 2 ^ n) < 2 ^ n then ((x % 2 ^ n : Nat) : Int) else ((x % 2 ^ n : Nat) : Int) - ((2 ^ n : Nat) : Int)

/-- x modulo 2^n (R7 Wrap). -/
def wrap (x : Int) (n : Nat) : Nat := (x % ((2 ^ n : Nat) : Int)).toNat

/-- Scalar slot fields (R70). -/
structure SWord where
  op : BitVec 8
  dst : BitVec 6
  sra : BitVec 6
  srb : BitVec 6
  grd : BitVec 4
  gn : Bool
  imm : BitVec 33
  deriving DecidableEq, Repr

/-- Vector slot fields (R71). -/
structure VSlot where
  op : BitVec 8
  vd : BitVec 5
  v1 : BitVec 5
  v2 : BitVec 5
  v3 : BitVec 5
  grd : BitVec 4
  ty : BitVec 4
  md : BitVec 4
  imm : BitVec 24
  deriving DecidableEq, Repr

/-- Matrix slot fields (R72). -/
structure MWord where
  op : BitVec 6
  rtn : BitVec 8
  t : Toks
  ck : Bool
  ovw : Bool
  lat : BitVec 3
  acc : BitVec 2
  rsv : BitVec 3
  deriving DecidableEq, Repr

/-- Copy slot fields (R73). -/
structure CWord where
  op : BitVec 6
  nst : BitVec 4
  rng : BitVec 4
  t : Toks
  bnd : BitVec 7
  scp : BitVec 2
  be : Bool
  deriving DecidableEq, Repr

def unpackS (w : W64) : SWord :=
  ⟨w.extractLsb' 56 8, w.extractLsb' 50 6, w.extractLsb' 44 6, w.extractLsb' 38 6, w.extractLsb' 34 4, w.getLsbD 33,
   w.extractLsb' 0 33⟩

def unpackV (w : W64) : VSlot :=
  ⟨w.extractLsb' 56 8, w.extractLsb' 51 5, w.extractLsb' 46 5, w.extractLsb' 41 5, w.extractLsb' 36 5,
   w.extractLsb' 32 4, w.extractLsb' 28 4, w.extractLsb' 24 4, w.extractLsb' 0 24⟩

/-- The token fields of a matrix or copy slot (R72, R73). -/
def unpackT (w : BitVec 48) : Toks :=
  ⟨w.extractLsb' 28 6, w.extractLsb' 22 6, w.extractLsb' 16 6, w.extractLsb' 10 6⟩

def unpackM (w : BitVec 48) : MWord :=
  ⟨w.extractLsb' 42 6, w.extractLsb' 34 8, unpackT w, w.getLsbD 9, w.getLsbD 8, w.extractLsb' 5 3, w.extractLsb' 3 2,
   w.extractLsb' 0 3⟩

def unpackC (w : BitVec 48) : CWord :=
  ⟨w.extractLsb' 42 6, w.extractLsb' 38 4, w.extractLsb' 34 4, unpackT w, w.extractLsb' 3 7, w.extractLsb' 1 2,
   w.getLsbD 0⟩

/-- Element type of a code; 10 to 15 are reserved (R38). -/
def tyOfCode (c : BitVec 4) : Option ElemTy :=
  match c.toNat with
  | 0 => some .i8 | 1 => some .n8 | 2 => some .i16 | 3 => some .n16 | 4 => some .i32
  | 5 => some .n32 | 6 => some .f32 | 7 => some .bf16 | 8 => some .e4m3 | 9 => some .b4
  | _ => none

/-- Code of an element type (R38). -/
def tyCode (t : ElemTy) : BitVec 4 :=
  match t with
  | .i8 => 0 | .n8 => 1 | .i16 => 2 | .n16 => 3 | .i32 => 4
  | .n32 => 5 | .f32 => 6 | .bf16 => 7 | .e4m3 => 8 | .b4 => 9

/-- Width in bits of an element; a block-4 operation works by 32-bit lane (R15, R38). -/
def tyBits (t : ElemTy) : Nat :=
  match t with
  | .i8 | .n8 | .e4m3 => 8
  | .i16 | .n16 | .bf16 => 16
  | .i32 | .n32 | .f32 | .b4 => 32

/-- Width and number of the elements of a vector operation (R113). -/
def VH.w (h : VH) : Nat := tyBits h.ty
def VH.n (h : VH) : Nat := 2048 / h.w

/-- Rounding mode of a code (R43). -/
def rmOfCode (c : BitVec 2) : Rm :=
  match c.toNat with
  | 0 => .rne | 1 => .rz | 2 => .rd | _ => .ru

/-- Code of a rounding mode (R43). -/
def rmCode (m : Rm) : BitVec 2 :=
  match m with
  | .rne => 0 | .rz => 1 | .rd => 2 | .ru => 3

/-- Class I of R116. -/
def tyI (t : ElemTy) : Bool :=
  match t with
  | .i8 | .n8 | .i16 | .n16 | .i32 | .n32 => true
  | _ => false

/-- Class F of R116. -/
def tyF (t : ElemTy) : Bool := t == .f32 || t == .bf16

/-- Class W of R116. -/
def tyW (t : ElemTy) : Bool := t == .i32 || t == .n32 || t == .f32

def tyI8 (t : ElemTy) : Bool := t == .i8 || t == .n8
def tyI16 (t : ElemTy) : Bool := t == .i16 || t == .n16
def tyI32 (t : ElemTy) : Bool := t == .i32 || t == .n32

/-- How many values of h are legal in a conversion (R131). -/
def cvtSpan (dt fm : ElemTy) : Nat := max (tyBits dt) (tyBits fm) / min (tyBits dt) (tyBits fm)


/-- Scalar operations 0x01 to 0x31 (R78, R88 to R97). -/
def decodeSArith (x : SWord) : Option Instr :=
  match x.op.toNat with
  | 0x01 => some (.add ⟨x.grd, x.gn⟩ x.dst x.sra x.srb)
  | 0x02 => some (.sub ⟨x.grd, x.gn⟩ x.dst x.sra x.srb)
  | 0x03 => some (.mul ⟨x.grd, x.gn⟩ x.dst x.sra x.srb)
  | 0x04 => some (.mulh ⟨x.grd, x.gn⟩ x.dst x.sra x.srb)
  | 0x05 => some (.mulhn ⟨x.grd, x.gn⟩ x.dst x.sra x.srb)
  | 0x06 => some (.div ⟨x.grd, x.gn⟩ x.dst x.sra x.srb)
  | 0x07 => some (.divn ⟨x.grd, x.gn⟩ x.dst x.sra x.srb)
  | 0x08 => some (.rem ⟨x.grd, x.gn⟩ x.dst x.sra x.srb)
  | 0x09 => some (.remn ⟨x.grd, x.gn⟩ x.dst x.sra x.srb)
  | 0x0A => some (.addi ⟨x.grd, x.gn⟩ x.dst x.sra x.imm)
  | 0x0B => some (.muli ⟨x.grd, x.gn⟩ x.dst x.sra x.imm)
  | 0x0C => some (.and ⟨x.grd, x.gn⟩ x.dst x.sra x.srb)
  | 0x0D => some (.or ⟨x.grd, x.gn⟩ x.dst x.sra x.srb)
  | 0x0E => some (.xor ⟨x.grd, x.gn⟩ x.dst x.sra x.srb)
  | 0x0F => some (.andn ⟨x.grd, x.gn⟩ x.dst x.sra x.srb)
  | 0x10 => some (.orn ⟨x.grd, x.gn⟩ x.dst x.sra x.srb)
  | 0x11 => some (.xnor ⟨x.grd, x.gn⟩ x.dst x.sra x.srb)
  | 0x12 => some (.andi ⟨x.grd, x.gn⟩ x.dst x.sra x.imm)
  | 0x13 => some (.ori ⟨x.grd, x.gn⟩ x.dst x.sra x.imm)
  | 0x14 => some (.xori ⟨x.grd, x.gn⟩ x.dst x.sra x.imm)
  | 0x15 => some (.shl ⟨x.grd, x.gn⟩ x.dst x.sra x.srb)
  | 0x16 => some (.shr ⟨x.grd, x.gn⟩ x.dst x.sra x.srb)
  | 0x17 => some (.sar ⟨x.grd, x.gn⟩ x.dst x.sra x.srb)
  | 0x18 => some (.rol ⟨x.grd, x.gn⟩ x.dst x.sra x.srb)
  | 0x19 => some (.ror ⟨x.grd, x.gn⟩ x.dst x.sra x.srb)
  | 0x1A => some (.shli ⟨x.grd, x.gn⟩ x.dst x.sra (x.imm.extractLsb' 0 6))
  | 0x1B => some (.shri ⟨x.grd, x.gn⟩ x.dst x.sra (x.imm.extractLsb' 0 6))
  | 0x1C => some (.sari ⟨x.grd, x.gn⟩ x.dst x.sra (x.imm.extractLsb' 0 6))
  | 0x1D => some (.min ⟨x.grd, x.gn⟩ x.dst x.sra x.srb)
  | 0x1E => some (.max ⟨x.grd, x.gn⟩ x.dst x.sra x.srb)
  | 0x1F => some (.minn ⟨x.grd, x.gn⟩ x.dst x.sra x.srb)
  | 0x20 => some (.maxn ⟨x.grd, x.gn⟩ x.dst x.sra x.srb)
  | 0x21 => some (.abs ⟨x.grd, x.gn⟩ x.dst x.sra)
  | 0x22 => some (.neg ⟨x.grd, x.gn⟩ x.dst x.sra)
  | 0x23 => some (.clz ⟨x.grd, x.gn⟩ x.dst x.sra)
  | 0x24 => some (.ctz ⟨x.grd, x.gn⟩ x.dst x.sra)
  | 0x25 => some (.popc ⟨x.grd, x.gn⟩ x.dst x.sra)
  | 0x26 => some (.bswap ⟨x.grd, x.gn⟩ x.dst x.sra)
  | 0x27 => some (.bexs ⟨x.grd, x.gn⟩ x.dst x.sra (x.imm.extractLsb' 0 6) (x.imm.extractLsb' 6 6))
  | 0x28 => some (.bexz ⟨x.grd, x.gn⟩ x.dst x.sra (x.imm.extractLsb' 0 6) (x.imm.extractLsb' 6 6))
  | 0x29 => some (.bins ⟨x.grd, x.gn⟩ x.dst x.sra (x.imm.extractLsb' 0 6) (x.imm.extractLsb' 6 6))
  | 0x2A => some (.sel ⟨x.grd, x.gn⟩ x.dst x.sra x.srb (x.imm.extractLsb' 0 4))
  | 0x2B => some (.li ⟨x.grd, x.gn⟩ x.dst x.imm)
  | 0x2C => some (.lih ⟨x.grd, x.gn⟩ x.dst (x.imm.extractLsb' 0 32))
  | 0x2D => some (.mov ⟨x.grd, x.gn⟩ x.dst x.sra)
  | 0x2E => some (.adds ⟨x.grd, x.gn⟩ x.dst x.sra x.srb)
  | 0x2F => some (.subs ⟨x.grd, x.gn⟩ x.dst x.sra x.srb)
  | 0x30 => some (.sext ⟨x.grd, x.gn⟩ x.dst x.sra (x.imm.extractLsb' 0 6))
  | 0x31 => some (.zext ⟨x.grd, x.gn⟩ x.dst x.sra (x.imm.extractLsb' 0 6))
  | _ => none

/-- Scalar operations 0x40 to 0x5A (R98 to R112). -/
def decodeSPred (x : SWord) : Option Instr :=
  match x.op.toNat with
  | 0x40 => if x.dst.toNat < 16 then some (.cmpeq ⟨x.grd, x.gn⟩ (x.dst.setWidth 4) x.sra x.srb) else none
  | 0x41 => if x.dst.toNat < 16 then some (.cmpne ⟨x.grd, x.gn⟩ (x.dst.setWidth 4) x.sra x.srb) else none
  | 0x42 => if x.dst.toNat < 16 then some (.cmplt ⟨x.grd, x.gn⟩ (x.dst.setWidth 4) x.sra x.srb) else none
  | 0x43 => if x.dst.toNat < 16 then some (.cmple ⟨x.grd, x.gn⟩ (x.dst.setWidth 4) x.sra x.srb) else none
  | 0x44 => if x.dst.toNat < 16 then some (.cmpltn ⟨x.grd, x.gn⟩ (x.dst.setWidth 4) x.sra x.srb) else none
  | 0x45 => if x.dst.toNat < 16 then some (.cmplen ⟨x.grd, x.gn⟩ (x.dst.setWidth 4) x.sra x.srb) else none
  | 0x46 => if x.dst.toNat < 16 then some (.cmpeqi ⟨x.grd, x.gn⟩ (x.dst.setWidth 4) x.sra x.imm) else none
  | 0x47 => if x.dst.toNat < 16 then some (.cmplti ⟨x.grd, x.gn⟩ (x.dst.setWidth 4) x.sra x.imm) else none
  | 0x48 => if x.dst.toNat < 16 ∧ x.sra.toNat < 16 ∧ x.srb.toNat < 16 then some (.pand ⟨x.grd, x.gn⟩ (x.dst.setWidth 4) (x.sra.setWidth 4) (x.srb.setWidth 4)) else none
  | 0x49 => if x.dst.toNat < 16 ∧ x.sra.toNat < 16 ∧ x.srb.toNat < 16 then some (.por ⟨x.grd, x.gn⟩ (x.dst.setWidth 4) (x.sra.setWidth 4) (x.srb.setWidth 4)) else none
  | 0x4A => if x.dst.toNat < 16 ∧ x.sra.toNat < 16 ∧ x.srb.toNat < 16 then some (.pxor ⟨x.grd, x.gn⟩ (x.dst.setWidth 4) (x.sra.setWidth 4) (x.srb.setWidth 4)) else none
  | 0x4B => if x.dst.toNat < 16 ∧ x.sra.toNat < 16 ∧ x.srb.toNat < 16 then some (.pandn ⟨x.grd, x.gn⟩ (x.dst.setWidth 4) (x.sra.setWidth 4) (x.srb.setWidth 4)) else none
  | 0x4C => if x.dst.toNat < 16 ∧ x.sra.toNat < 16 then some (.pnot ⟨x.grd, x.gn⟩ (x.dst.setWidth 4) (x.sra.setWidth 4)) else none
  | 0x4D => if x.dst.toNat < 16 ∧ x.sra.toNat < 16 then some (.pmov ⟨x.grd, x.gn⟩ (x.dst.setWidth 4) (x.sra.setWidth 4)) else none
  | 0x4E => if x.dst.toNat < 16 then some (.pset ⟨x.grd, x.gn⟩ (x.dst.setWidth 4) x.sra) else none
  | 0x4F => if x.sra.toNat < 16 then some (.pget ⟨x.grd, x.gn⟩ x.dst (x.sra.setWidth 4)) else none
  | 0x5A => if x.sra.toNat < 16 then some (.pcnt ⟨x.grd, x.gn⟩ x.dst (x.sra.setWidth 4)) else none
  | 0x50 => some (.br ⟨x.grd, x.gn⟩ x.imm)
  | 0x51 => some (.jmp ⟨x.grd, x.gn⟩ x.sra)
  | 0x52 => some (.call ⟨x.grd, x.gn⟩ x.dst x.imm)
  | 0x53 => some (.callr ⟨x.grd, x.gn⟩ x.dst x.sra)
  | 0x54 => some (.ret ⟨x.grd, x.gn⟩ x.sra)
  | 0x55 => some (.loop ⟨x.grd, x.gn⟩ x.sra (x.imm.extractLsb' 0 8) (x.imm.extractLsb' 8 3))
  | 0x56 => some (.sloop ⟨x.grd, x.gn⟩ x.sra (x.imm.extractLsb' 0 8) (x.imm.extractLsb' 8 3))
  | 0x57 => some (.snext ⟨x.grd, x.gn⟩ x.imm)
  | 0x58 => some (.mfsp ⟨x.grd, x.gn⟩ x.dst (x.imm.extractLsb' 0 8))
  | 0x59 => some (.mtsp ⟨x.grd, x.gn⟩ x.sra (x.imm.extractLsb' 0 8))
  | _ => none

/-- Scalar operations 0x60 to 0x8C (R178 to R215). -/
def decodeSMem (x : SWord) : Option Instr :=
  match x.op.toNat with
  | 0x60 => if x.srb.toNat < 16 then some (.ldb ⟨x.grd, x.gn⟩ x.dst x.sra (x.srb.setWidth 4) (x.imm.extractLsb' 31 2) (x.imm.extractLsb' 0 22)) else none
  | 0x61 => if x.srb.toNat < 16 then some (.ldbn ⟨x.grd, x.gn⟩ x.dst x.sra (x.srb.setWidth 4) (x.imm.extractLsb' 31 2) (x.imm.extractLsb' 0 22)) else none
  | 0x62 => if x.srb.toNat < 16 then some (.ldh ⟨x.grd, x.gn⟩ x.dst x.sra (x.srb.setWidth 4) (x.imm.extractLsb' 31 2) (x.imm.extractLsb' 0 22)) else none
  | 0x63 => if x.srb.toNat < 16 then some (.ldhn ⟨x.grd, x.gn⟩ x.dst x.sra (x.srb.setWidth 4) (x.imm.extractLsb' 31 2) (x.imm.extractLsb' 0 22)) else none
  | 0x64 => if x.srb.toNat < 16 then some (.ldw ⟨x.grd, x.gn⟩ x.dst x.sra (x.srb.setWidth 4) (x.imm.extractLsb' 31 2) (x.imm.extractLsb' 0 22)) else none
  | 0x65 => if x.srb.toNat < 16 then some (.ldwn ⟨x.grd, x.gn⟩ x.dst x.sra (x.srb.setWidth 4) (x.imm.extractLsb' 31 2) (x.imm.extractLsb' 0 22)) else none
  | 0x66 => if x.srb.toNat < 16 then some (.ldd ⟨x.grd, x.gn⟩ x.dst x.sra (x.srb.setWidth 4) (x.imm.extractLsb' 31 2) (x.imm.extractLsb' 0 22)) else none
  | 0x67 => some (.stb ⟨x.grd, x.gn⟩ x.sra x.srb (x.imm.extractLsb' 31 2) (x.imm.extractLsb' 0 22))
  | 0x68 => some (.sth ⟨x.grd, x.gn⟩ x.sra x.srb (x.imm.extractLsb' 31 2) (x.imm.extractLsb' 0 22))
  | 0x69 => some (.stw ⟨x.grd, x.gn⟩ x.sra x.srb (x.imm.extractLsb' 31 2) (x.imm.extractLsb' 0 22))
  | 0x6A => some (.std ⟨x.grd, x.gn⟩ x.sra x.srb (x.imm.extractLsb' 31 2) (x.imm.extractLsb' 0 22))
  | 0x6B => if x.dst.toNat < 16 then some (.ldr ⟨x.grd, x.gn⟩ (x.dst.setWidth 4) x.sra (x.imm.extractLsb' 31 2) (x.imm.extractLsb' 0 22)) else none
  | 0x6C => if x.srb.toNat < 16 then some (.ldk ⟨x.grd, x.gn⟩ x.dst x.sra (x.srb.setWidth 4) (x.imm.extractLsb' 31 2) (x.imm.extractLsb' 24 7) (x.imm.extractLsb' 22 2) (x.imm.extractLsb' 0 22)) else none
  | 0x6D => if x.srb.toNat < 16 then some (.lda ⟨x.grd, x.gn⟩ x.dst x.sra (x.srb.setWidth 4) (x.imm.extractLsb' 31 2) (x.imm.extractLsb' 24 2) (x.imm.extractLsb' 22 2) (x.imm.extractLsb' 0 22)) else none
  | 0x6E => some (.stl ⟨x.grd, x.gn⟩ x.sra x.srb (x.imm.extractLsb' 31 2) (x.imm.extractLsb' 24 2) (x.imm.extractLsb' 22 2) (x.imm.extractLsb' 0 22))
  | 0x6F => some (.pgin ⟨x.grd, x.gn⟩ x.dst x.sra (x.imm.extractLsb' 31 2) (x.imm.extractLsb' 0 22))
  | 0x70 => some (.amoadd ⟨x.grd, x.gn⟩ x.dst x.sra x.srb (x.imm.extractLsb' 31 2) (x.imm.extractLsb' 29 2) (x.imm.extractLsb' 24 2) (x.imm.extractLsb' 22 2) (x.imm.extractLsb' 0 22))
  | 0x71 => some (.amoand ⟨x.grd, x.gn⟩ x.dst x.sra x.srb (x.imm.extractLsb' 31 2) (x.imm.extractLsb' 29 2) (x.imm.extractLsb' 24 2) (x.imm.extractLsb' 22 2) (x.imm.extractLsb' 0 22))
  | 0x72 => some (.amoor ⟨x.grd, x.gn⟩ x.dst x.sra x.srb (x.imm.extractLsb' 31 2) (x.imm.extractLsb' 29 2) (x.imm.extractLsb' 24 2) (x.imm.extractLsb' 22 2) (x.imm.extractLsb' 0 22))
  | 0x73 => some (.amoxor ⟨x.grd, x.gn⟩ x.dst x.sra x.srb (x.imm.extractLsb' 31 2) (x.imm.extractLsb' 29 2) (x.imm.extractLsb' 24 2) (x.imm.extractLsb' 22 2) (x.imm.extractLsb' 0 22))
  | 0x74 => some (.amomin ⟨x.grd, x.gn⟩ x.dst x.sra x.srb (x.imm.extractLsb' 31 2) (x.imm.extractLsb' 29 2) (x.imm.extractLsb' 24 2) (x.imm.extractLsb' 22 2) (x.imm.extractLsb' 0 22))
  | 0x75 => some (.amomax ⟨x.grd, x.gn⟩ x.dst x.sra x.srb (x.imm.extractLsb' 31 2) (x.imm.extractLsb' 29 2) (x.imm.extractLsb' 24 2) (x.imm.extractLsb' 22 2) (x.imm.extractLsb' 0 22))
  | 0x76 => some (.amominn ⟨x.grd, x.gn⟩ x.dst x.sra x.srb (x.imm.extractLsb' 31 2) (x.imm.extractLsb' 29 2) (x.imm.extractLsb' 24 2) (x.imm.extractLsb' 22 2) (x.imm.extractLsb' 0 22))
  | 0x77 => some (.amomaxn ⟨x.grd, x.gn⟩ x.dst x.sra x.srb (x.imm.extractLsb' 31 2) (x.imm.extractLsb' 29 2) (x.imm.extractLsb' 24 2) (x.imm.extractLsb' 22 2) (x.imm.extractLsb' 0 22))
  | 0x78 => some (.amoswp ⟨x.grd, x.gn⟩ x.dst x.sra x.srb (x.imm.extractLsb' 31 2) (x.imm.extractLsb' 29 2) (x.imm.extractLsb' 24 2) (x.imm.extractLsb' 22 2) (x.imm.extractLsb' 0 22))
  | 0x79 => some (.amocas ⟨x.grd, x.gn⟩ x.dst x.sra x.srb (x.imm.extractLsb' 31 2) (x.imm.extractLsb' 29 2) (x.imm.extractLsb' 24 2) (x.imm.extractLsb' 22 2) (x.imm.extractLsb' 0 22))
  | 0x7A => some (.fence ⟨x.grd, x.gn⟩ (x.imm.extractLsb' 0 4) (x.imm.extractLsb' 4 2) (x.imm.extractLsb' 8 3))
  | 0x7B => some (.rpub ⟨x.grd, x.gn⟩ x.dst x.sra (x.imm.extractLsb' 0 12))
  | 0x7C => some (.radv ⟨x.grd, x.gn⟩ x.sra (x.imm.extractLsb' 0 12))
  | 0x7D => some (.racq ⟨x.grd, x.gn⟩ x.dst x.sra (x.imm.extractLsb' 0 12))
  | 0x7E => some (.rrnd ⟨x.grd, x.gn⟩ x.dst x.sra (x.imm.extractLsb' 0 12) (x.imm.extractLsb' 12 2))
  | 0x7F => some (.hoist ⟨x.grd, x.gn⟩ x.dst x.sra x.srb (x.imm.extractLsb' 31 2) (x.imm.extractLsb' 0 6) (x.imm.extractLsb' 6 6) (x.imm.extractLsb' 12 6) (x.imm.extractLsb' 18 6))
  | 0x80 => some (.sight ⟨x.grd, x.gn⟩ x.dst x.sra x.srb (x.imm.extractLsb' 31 2) (x.imm.extractLsb' 0 6) (x.imm.extractLsb' 6 6) (x.imm.extractLsb' 12 6) (x.imm.extractLsb' 18 6))
  | 0x81 => some (.hrnd ⟨x.grd, x.gn⟩ x.dst x.sra)
  | 0x82 => some (.barr ⟨x.grd, x.gn⟩ x.dst (x.imm.extractLsb' 0 8) (x.imm.extractLsb' 8 7) (x.imm.extractLsb' 15 6))
  | 0x83 => some (.bwait ⟨x.grd, x.gn⟩ (x.dst.setWidth 4) x.sra (x.imm.extractLsb' 0 8))
  | 0x84 => some (.bgen ⟨x.grd, x.gn⟩ x.dst (x.imm.extractLsb' 0 8))
  | 0x85 => some (.tkwait ⟨x.grd, x.gn⟩ (x.imm.extractLsb' 0 6) (x.imm.extractLsb' 6 6) (x.imm.extractLsb' 12 6))
  | 0x86 => some (.tkpoll ⟨x.grd, x.gn⟩ (x.dst.setWidth 4) (x.imm.extractLsb' 0 6))
  | 0x87 => some (.rwait ⟨x.grd, x.gn⟩ (x.dst.setWidth 4))
  | 0x88 => some (.rrel ⟨x.grd, x.gn⟩ (x.dst.setWidth 4))
  | 0x89 => if x.dst.toNat < 16 then some (.rnew ⟨x.grd, x.gn⟩ (x.dst.setWidth 4) x.sra x.srb) else none
  | 0x8A => some (.rstat ⟨x.grd, x.gn⟩ x.dst (x.sra.setWidth 4))
  | 0x8B => if x.dst.toNat < 16 then some (.nsw ⟨x.grd, x.gn⟩ (x.dst.setWidth 4) x.sra (x.imm.extractLsb' 0 3)) else none
  | 0x8C => if x.sra.toNat < 16 then some (.ngw ⟨x.grd, x.gn⟩ x.dst (x.sra.setWidth 4) (x.imm.extractLsb' 0 3)) else none
  | _ => none

/-- Scalar operations 0xA0 to 0xD7 (R147, R217 to R241). -/
def decodeSSys (x : SWord) : Option Instr :=
  match x.op.toNat with
  | 0xA0 => if x.dst.toNat < 8 then some (.mset ⟨x.grd, x.gn⟩ (x.dst.setWidth 3) x.sra) else none
  | 0xA1 => if x.dst.toNat < 8 then some (.mseti ⟨x.grd, x.gn⟩ (x.dst.setWidth 3) (x.imm.extractLsb' 0 16) (x.imm.extractLsb' 16 2)) else none
  | 0xA2 => if x.sra.toNat < 8 then some (.mget ⟨x.grd, x.gn⟩ x.dst (x.sra.setWidth 3)) else none
  | 0xA3 => some (.mpld ⟨x.grd, x.gn⟩ x.sra x.srb (x.imm.extractLsb' 0 10))
  | 0xA4 => some (.mpent ⟨x.grd, x.gn⟩ x.sra (x.imm.extractLsb' 0 8))
  | 0xA5 => some (.mstat ⟨x.grd, x.gn⟩ x.dst)
  | 0xA6 => some (.ckst ⟨x.grd, x.gn⟩ x.dst (x.imm.extractLsb' 0 2))
  | 0xC0 => some (.pull ⟨x.grd, x.gn⟩ x.dst (x.imm.extractLsb' 0 4))
  | 0xC1 => some (.push ⟨x.grd, x.gn⟩ x.dst x.sra x.srb (x.imm.extractLsb' 0 3) (x.imm.getLsbD 3))
  | 0xC2 => some (.retire ⟨x.grd, x.gn⟩)
  | 0xC3 => some (.launch ⟨x.grd, x.gn⟩ x.dst x.sra)
  | 0xC4 => some (.lpoll ⟨x.grd, x.gn⟩ x.dst x.sra)
  | 0xC5 => if x.imm.getLsbD 9 then some (.clkdivReg ⟨x.grd, x.gn⟩ x.sra (x.imm.extractLsb' 0 4))
    else some (.clkdiv ⟨x.grd, x.gn⟩ (x.imm.extractLsb' 0 4) (x.imm.extractLsb' 4 5))
  | 0xC6 => some (.trap ⟨x.grd, x.gn⟩ (x.imm.extractLsb' 0 16))
  | 0xC7 => some (.ejrd ⟨x.grd, x.gn⟩ x.dst (x.imm.extractLsb' 0 2))
  | 0xC8 => some (.qdep ⟨x.grd, x.gn⟩ x.dst (x.imm.extractLsb' 0 3))
  | 0xC9 => some (.brk ⟨x.grd, x.gn⟩ (x.imm.extractLsb' 0 16))
  | 0xD0 => some (.mfpr ⟨x.grd, x.gn⟩ x.dst (x.imm.extractLsb' 0 16))
  | 0xD1 => some (.mtpr ⟨x.grd, x.gn⟩ x.sra (x.imm.extractLsb' 0 16))
  | 0xD2 => some (.xlinv ⟨x.grd, x.gn⟩ x.dst x.sra x.srb (x.imm.extractLsb' 0 3))
  | 0xD3 => some (.purge ⟨x.grd, x.gn⟩ x.dst x.sra)
  | 0xD4 => some (.eret ⟨x.grd, x.gn⟩ x.sra (x.imm.getLsbD 0))
  | 0xD5 => some (.wfe ⟨x.grd, x.gn⟩ x.dst)
  | 0xD6 => some (.stest ⟨x.grd, x.gn⟩ x.dst x.sra)
  | 0xD7 => some (.hsw ⟨x.grd, x.gn⟩ x.sra x.srb)
  | _ => none

/-- The scalar slot (R70, R78). OP 0 is the no-op whatever the other bits hold (R81). -/
def decodeScalar (w : W64) : Option Instr :=
  let x := unpackS w
  if x.op = 0 then some .nop
  else if x.op.toNat < 0x40 then decodeSArith x
  else if x.op.toNat < 0x60 then decodeSPred x
  else if x.op.toNat < 0xA0 then decodeSMem x
  else decodeSSys x

/-- Vector operation of header h, before the accepted types are checked (R79). -/
def decodeVOp (h : VH) (x : VSlot) : Option Instr :=
  match x.op.toNat with
  | 0x01 => some (.vadd h x.vd x.v1 x.v2)
  | 0x02 => some (.vsub h x.vd x.v1 x.v2)
  | 0x03 => some (.vmul h x.vd x.v1 x.v2)
  | 0x04 => some (.vmulh h x.vd x.v1 x.v2)
  | 0x05 => some (.vfma h x.vd x.v1 x.v2 x.v3)
  | 0x06 => some (.vfms h x.vd x.v1 x.v2 x.v3)
  | 0x07 => some (.vfnma h x.vd x.v1 x.v2 x.v3)
  | 0x08 => some (.vdiv h x.vd x.v1 x.v2)
  | 0x09 => some (.vsqrt h x.vd x.v1)
  | 0x0A => some (.vrsqrt h x.vd x.v1)
  | 0x0B => some (.vrsqp h x.vd x.v1 (x.imm.extractLsb' 0 4))
  | 0x0C => some (.vmin h x.vd x.v1 x.v2)
  | 0x0D => some (.vmax h x.vd x.v1 x.v2)
  | 0x0E => some (.vabs h x.vd x.v1)
  | 0x0F => some (.vneg h x.vd x.v1)
  | 0x10 => some (.vand h x.vd x.v1 x.v2)
  | 0x11 => some (.vor h x.vd x.v1 x.v2)
  | 0x12 => some (.vxor h x.vd x.v1 x.v2)
  | 0x13 => some (.vnot h x.vd x.v1)
  | 0x14 => if x.imm.getLsbD 6 then some (.vshlImm h x.vd x.v1 (x.imm.extractLsb' 0 6))
    else some (.vshl h x.vd x.v1 x.v2)
  | 0x15 => if x.imm.getLsbD 6 then some (.vshrImm h x.vd x.v1 (x.imm.extractLsb' 0 6))
    else some (.vshr h x.vd x.v1 x.v2)
  | 0x16 => if x.imm.getLsbD 6 then some (.vsarImm h x.vd x.v1 (x.imm.extractLsb' 0 6))
    else some (.vsar h x.vd x.v1 x.v2)
  | 0x17 => if x.imm.getLsbD 6 then some (.vrshrImm h x.vd x.v1 (x.imm.extractLsb' 0 6))
    else some (.vrshr h x.vd x.v1 x.v2)
  | 0x18 => some (.vcmpeq h x.v1 x.v2 (x.imm.extractLsb' 0 4))
  | 0x19 => some (.vcmpne h x.v1 x.v2 (x.imm.extractLsb' 0 4))
  | 0x1A => some (.vcmplt h x.v1 x.v2 (x.imm.extractLsb' 0 4))
  | 0x1B => some (.vcmple h x.v1 x.v2 (x.imm.extractLsb' 0 4))
  | 0x1C => some (.vsel h x.vd x.v1 x.v2 (x.imm.extractLsb' 0 4))
  | 0x1D => some (.vclz h x.vd x.v1)
  | 0x1E => some (.vpopc h x.vd x.v1)
  | 0x1F => some (.vdot4 h x.vd x.v1 x.v2 x.v3)
  | 0x20 => some (.vredsum h x.vd x.v1)
  | 0x21 => some (.vredmax h x.vd x.v1)
  | 0x22 => some (.vredmin h x.vd x.v1)
  | 0x23 => some (.vcpsgn h x.vd x.v1 x.v2)
  | 0x24 => some (.vmovi h x.vd (x.imm.extractLsb' 0 24))
  | 0x25 => some (.vxmov h x.vd x.v1)
  | 0x26 => some (.vmov h x.vd x.v1)
  | 0x80 => some (.vld h x.vd (x.imm.extractLsb' 0 18) (x.imm.extractLsb' 18 6))
  | 0x81 => some (.vst h x.vd (x.imm.extractLsb' 0 18) (x.imm.extractLsb' 18 6))
  | 0x82 => some (.vlds h x.vd (x.imm.extractLsb' 0 12) (x.imm.extractLsb' 18 6) (x.imm.extractLsb' 12 6))
  | 0x83 => some (.vsts h x.vd (x.imm.extractLsb' 0 12) (x.imm.extractLsb' 18 6) (x.imm.extractLsb' 12 6))
  | 0x84 => some (.vldx h x.vd x.v2 (x.imm.extractLsb' 0 18) (x.imm.extractLsb' 18 6))
  | 0x85 => some (.vstx h x.vd x.v2 (x.imm.extractLsb' 0 18) (x.imm.extractLsb' 18 6))
  | 0x86 => some (.vldb h x.vd (x.imm.extractLsb' 0 18) (x.imm.extractLsb' 18 6))
  | 0xC0 => match tyOfCode (x.imm.extractLsb' 0 4) with | some fm => some (.vcvt h x.vd x.v1 fm (x.imm.extractLsb' 4 2)) | none => none
  | 0xC1 => match tyOfCode (x.imm.extractLsb' 0 4) with | some fm => some (.vquant h x.vd x.v1 x.v2 fm (x.imm.extractLsb' 4 2) (x.imm.extractLsb' 6 2) (x.imm.extractLsb' 8 6)) | none => none
  | 0xC2 => some (.vdequant h x.vd x.v1 (x.imm.extractLsb' 4 2) (x.imm.getLsbD 6))
  | 0xC3 => some (.vperm h x.vd x.v1 x.v2)
  | 0xC4 => some (.vslide h x.vd x.v1 x.v2 (x.imm.extractLsb' 0 9))
  | 0xC5 => if x.imm.getLsbD 23 then some (.vbcastScalar h x.vd (x.imm.extractLsb' 0 6))
    else some (.vbcastElem h x.vd x.v1 (x.imm.extractLsb' 0 12))
  | 0xC6 => some (.vzip h x.vd x.v1 x.v2 (x.imm.getLsbD 0))
  | 0xC7 => some (.vunzip h x.vd x.v1 x.v2 (x.imm.getLsbD 0))
  | 0xC8 => some (.vpack h x.vd x.v1 x.v2 (x.imm.getLsbD 0))
  | 0xC9 => some (.vunpk h x.vd x.v1 (x.imm.getLsbD 0))
  | _ => none

/-- What the decode checks of R77 item 4 leave: the accepted element type of each vector operation (R116) and the
immediate values that its entry rules out. Every other constructor's operand types hold exactly what its encoding admits. -/
def accepted (i : Instr) : Bool :=
  match i with
  | .vadd h _ _ _ => tyI h.ty || tyF h.ty
  | .vsub h _ _ _ => tyI h.ty || tyF h.ty
  | .vmul h _ _ _ => tyI h.ty || tyF h.ty
  | .vmulh h _ _ _ => tyI h.ty
  | .vfma h _ _ _ _ => tyI h.ty || tyF h.ty
  | .vfms h _ _ _ _ => tyI h.ty || tyF h.ty
  | .vfnma h _ _ _ _ => tyI h.ty || tyF h.ty
  | .vdiv h _ _ _ => h.ty == .f32
  | .vsqrt h _ _ => h.ty == .f32
  | .vrsqrt h _ _ => h.ty == .f32
  | .vrsqp h _ _ _ => h.ty == .f32
  | .vmin h _ _ _ => tyI h.ty || tyF h.ty
  | .vmax h _ _ _ => tyI h.ty || tyF h.ty
  | .vabs h _ _ => tyI h.ty || tyF h.ty || h.ty == .e4m3
  | .vneg h _ _ => tyI h.ty || tyF h.ty || h.ty == .e4m3
  | .vshl h _ _ _ => tyI h.ty
  | .vshlImm h _ _ _ => tyI h.ty
  | .vshr h _ _ _ => tyI h.ty
  | .vshrImm h _ _ _ => tyI h.ty
  | .vsar h _ _ _ => tyI h.ty
  | .vsarImm h _ _ _ => tyI h.ty
  | .vrshr h _ _ _ => tyI h.ty
  | .vrshrImm h _ _ _ => tyI h.ty
  | .vcmpeq h _ _ _ => tyW h.ty
  | .vcmpne h _ _ _ => tyW h.ty
  | .vcmplt h _ _ _ => tyW h.ty
  | .vcmple h _ _ _ => tyW h.ty
  | .vclz h _ _ => tyI h.ty
  | .vpopc h _ _ => tyI h.ty
  | .vdot4 h _ _ _ _ => h.ty == .i8 || h.ty == .n8
  | .vredsum h _ _ => tyI h.ty || tyF h.ty || h.ty == .e4m3
  | .vredmax h _ _ => tyI h.ty || tyF h.ty || h.ty == .e4m3
  | .vredmin h _ _ => tyI h.ty || tyF h.ty || h.ty == .e4m3
  | .vcpsgn h _ _ _ => tyF h.ty || h.ty == .e4m3
  | .vmovi h _ _ => tyI h.ty || tyF h.ty
  | .vlds h _ _ _ _ => h.ty != .b4
  | .vsts h _ _ _ _ => h.ty != .b4
  | .vldx h _ _ _ _ => tyW h.ty
  | .vstx h _ _ _ _ => tyW h.ty
  | .vldb h _ _ _ => h.ty != .b4
  | .vcvt h _ _ fm hh => h.ty != .b4 && fm != .b4 && decide (hh.toNat < cvtSpan h.ty fm)
  | .vquant h _ _ _ fm _ _ _ => h.ty == .b4 && (fm == .f32 || fm == .bf16 || fm == .e4m3)
  | .vdequant h _ _ _ hb => (tyI h.ty || tyF h.ty || h.ty == .e4m3) && (!hb || tyBits h.ty == 32)
  | .vperm h _ _ _ => h.ty != .b4
  | .vslide h _ _ _ k9 => h.ty != .b4 && decide (k9.toNat ≤ 2048 / tyBits h.ty)
  | .vbcastElem h _ _ el => h.ty != .b4 && decide (el.toNat < 2048 / tyBits h.ty)
  | .vbcastScalar h _ _ => h.ty != .b4
  | .vzip h _ _ _ _ => h.ty != .b4
  | .vunzip h _ _ _ _ => h.ty != .b4
  | .vpack h _ _ _ _ => tyI8 h.ty || tyI16 h.ty
  | .vunpk h _ _ _ => tyI16 h.ty || tyI32 h.ty
  | _ => true

/-- The vector slot of one cluster (R71, R79). MOD[26] must be 0 (R43); a reserved type code or an unaccepted type or
immediate refuses the slot (R116). -/
def decodeVector (cl : Cluster) (w : W64) : Option Instr :=
  let x := unpackV w
  if x.op = 0 then some .nop
  else if x.md.getLsbD 2 then none
  else match tyOfCode x.ty with
    | none => none
    | some ty =>
      match decodeVOp ⟨cl, x.grd, ty, x.md.getLsbD 3, rmOfCode (x.md.setWidth 2)⟩ x with
      | some i => if accepted i then some i else none
      | none => none

/-- The matrix slot (R72, R80, R162 to R173). -/
def decodeMatrix (w : BitVec 48) : Option Instr :=
  let x := unpackM w
  if x.op = 0 then some .nop
  else if x.rsv ≠ 0 then none
  else match x.op.toNat with
  | 1 => some (.mcall x.t x.rtn x.lat x.acc x.ck x.ovw)
  | 2 => if x.rtn.toNat < 8 then some (.lload x.t (x.rtn.setWidth 3) x.lat) else none
  | 3 => if x.rtn.toNat < 8 then some (.drain x.t (x.rtn.setWidth 3) x.acc x.ck x.ovw) else none
  | 4 => some (.azero x.t x.acc)
  | 5 => if x.rtn.toNat < 8 then some (.epicfg x.t (x.rtn.setWidth 3)) else none
  | 6 => if x.rtn.toNat < 8 then some (.cksnap x.t (x.rtn.setWidth 3) x.acc) else none
  | _ => none

/-- A copy slot (R73, R80); u is the unit. -/
def decodeCopy (u : Bool) (w : BitVec 48) : Option Instr :=
  let x := unpackC w
  if x.op = 0 then some .nop
  else match x.op.toNat with
  | 1 => some (.cpy u x.t x.nst x.rng x.bnd x.scp x.be)
  | 2 => some (.cpset u x.t x.nst x.rng x.scp)
  | 3 => some (.bcdrv u x.t x.nst)
  | 4 => some (.bclat u x.t x.nst x.rng)
  | _ => none

/-- The scale slot (R74, R163). -/
def decodeScale (w : BitVec 16) : Option Instr :=
  let b := w.extractLsb' 8 4
  let v := w.extractLsb' 0 8
  match (w.extractLsb' 12 4).toNat with
  | 0 => some .nop
  | 1 => some (.scset b v)
  | 2 => some (.scadd b v)
  | 3 => some (.scsub b v)
  | 4 => some (.scpad b v)
  | 5 => some (.sccpy b v)
  | 6 => some (.scmax b v)
  | 7 => some (.scmin b v)
  | _ => none

/-- A microword (R152, R153). A field that the operation's row does not name must be 0. -/
def decodeMicro (w : BitVec 32) : Option Instr :=
  let v : MVal := ⟨w.extractLsb' 25 3, w.extractLsb' 23 2, w.getLsbD 22, w.extractLsb' 0 16⟩
  match (w.extractLsb' 28 4).toNat with
  | 0 => if w &&& 0x0FFFFFFF = 0 then some (.fin) else none
  | 1 => if w &&& 0x0007FFFF = 0 then some (.fmt (w.extractLsb' 24 4) (w.extractLsb' 20 4) (w.getLsbD 19)) else none
  | 2 => if w &&& 0x0FFFFE3C = 0 then some (.use (w.extractLsb' 6 3) (w.extractLsb' 0 2)) else none
  | 3 => if w &&& 0x003F0000 = 0 then some (.act v) else none
  | 4 => if w &&& 0x003F0000 = 0 then some (.lk v) else none
  | 5 => if w &&& 0x003F0000 = 0 then some (.bk v) else none
  | 6 => if w &&& 0x003F0000 = 0 then some (.lkadd v) else none
  | 7 => if w &&& 0x003F0000 = 0 then some (.bkadd v) else none
  | 8 => if w &&& 0x0FFFFFC0 = 0 then some (.mac (w.extractLsb' 0 6)) else none
  | 9 => if w &&& 0x0FFFFFC0 = 0 then some (.macn (w.extractLsb' 0 6)) else none
  | 10 => if w &&& 0x0FFFFFFF = 0 then some (.zero) else none
  | 11 => if w &&& 0x0FFFF000 = 0 then some (.idle (w.extractLsb' 0 12)) else none
  | 12 => if w &&& 0x001F0000 = 0 then some (.cnt v (w.getLsbD 21)) else none
  | 13 => if w &&& 0x0FDFFC00 = 0 then some (.rep (w.getLsbD 21) (w.extractLsb' 0 10)) else none
  | 14 => if w &&& 0x007FFC00 = 0 then some (.brz (w.extractLsb' 25 3) (w.extractLsb' 23 2) (w.extractLsb' 0 10)) else none
  | _ => none

/-- The 16-bit words of one bundle image or of its slots: which slot, and its bits. -/
inductive SlotWord where
  | sca (w : W64)
  | vec (cl : Cluster) (w : W64)
  | mtx (w : BitVec 48)
  | cpy (u : Bool) (w : BitVec 48)
  | scl (w : BitVec 16)
  | mic (w : BitVec 32)
  | none
  deriving DecidableEq, Repr

/-- Decode one slot word, or one microword. -/
def decodeSlot (x : SlotWord) : Option Instr :=
  match x with
  | .sca w => decodeScalar w
  | .vec cl w => decodeVector cl w
  | .mtx w => decodeMatrix w
  | .cpy u w => decodeCopy u w
  | .scl w => decodeScale w
  | .mic w => decodeMicro w
  | .none => .none

/-- Instruction read from bits numbered as the opcode table numbers them. A 16-bit row is a scale slot, a 32-bit row a
microword, a 64-bit row a scalar slot and a 48-bit row a matrix slot; no other width holds an instruction. -/
def decodeTableWord (nbits w : Nat) : Option Instr :=
  if nbits = 16 then decodeScale (BitVec.ofNat 16 w)
  else if nbits = 32 then decodeMicro (BitVec.ofNat 32 w)
  else if nbits = 48 then decodeMatrix (BitVec.ofNat 48 w)
  else if nbits = 64 then decodeScalar (BitVec.ofNat 64 w)
  else none

/-- Header fields (R67). -/
structure Header where
  wl : BitVec 3
  ws : BitVec 3
  wc : BitVec 3
  wt : BitVec 3
  ckpt : Bool
  safe : Bool
  swpt : Bool
  phase : Bool
  rsv : BitVec 16
  deriving DecidableEq, Repr

def decodeHeader (w : BitVec 32) : Header :=
  ⟨w.extractLsb' 29 3, w.extractLsb' 26 3, w.extractLsb' 23 3, w.extractLsb' 20 3, w.getLsbD 19, w.getLsbD 18,
   w.getLsbD 17, w.getLsbD 16, w.extractLsb' 0 16⟩

/-- A bundle image (R63). -/
abbrev Image := BitVec 384

/-- The seven slot words of an image, in the order of R8. -/
def imageSlots (b : Image) : List SlotWord :=
  [.sca (b.extractLsb' 32 64), .vec .A (b.extractLsb' 96 64), .vec .B (b.extractLsb' 160 64),
   .mtx (b.extractLsb' 224 48), .cpy false (b.extractLsb' 272 48), .cpy true (b.extractLsb' 320 48),
   .scl (b.extractLsb' 368 16)]

/-- The operation field of a slot word, as record detail (R359 cause 0x03). -/
def slotOp (x : SlotWord) : Nat :=
  match x with
  | .sca w => w.toNat >>> 56
  | .vec _ w => w.toNat >>> 56
  | .mtx w => w.toNat >>> 42
  | .cpy _ w => w.toNat >>> 42
  | .scl w => w.toNat >>> 12
  | .mic w => w.toNat >>> 28
  | .none => 0

/-- Number of code words that a first code word makes its bundle take (R61, R64, R65); none if it is illegal. -/
def bundleWords (count : Nat) (w : BitVec 16) : Option Nat :=
  if w.toNat < 0xF000 then (if w.toNat < count then some 1 else none)
  else if w.extractLsb' 0 4 ≠ 0 then none
  else
    let p (k n : Nat) := if w.getLsbD k then n else 0
    some (1 + p 11 2 + p 10 4 + p 9 4 + p 8 4 + p 7 3 + p 6 3 + p 5 3 + p 4 1)

/-- The low bit of a slot in the image, and its parcels, with the escape bit that marks it present (R64, R65). -/
def slotPlaces : List (Nat × Nat × Nat) :=
  [(10, 32, 4), (9, 96, 4), (8, 160, 4), (7, 224, 3), (6, 272, 3), (5, 320, 3), (4, 368, 1)]

/-- Put n parcels at bit lo of an image, least significant first; the rest of the stream follows. -/
def takeParcels (n lo : Nat) (b : Image) (ws : List (BitVec 16)) : Image × List (BitVec 16) :=
  match n, ws with
  | k + 1, x :: rest => takeParcels k (lo + 16) (b ||| (x.setWidth 384 <<< lo)) rest
  | _, rest => (b, rest)

/-- The slots of a literal, in order (R65). -/
def takeSlots (esc : BitVec 16) (pl : List (Nat × Nat × Nat)) (b : Image) (ws : List (BitVec 16)) : Image :=
  match pl with
  | [] => b
  | (k, lo, n) :: rest =>
    if esc.getLsbD k then
      let r := takeParcels n lo b ws
      takeSlots esc rest r.1 r.2
    else takeSlots esc rest b ws

/-- The image of a literal from its escape word and the parcels after it (R64, R65). -/
def literalImage (esc : BitVec 16) (ws : List (BitVec 16)) : Image :=
  if esc.getLsbD 11 then
    let r := takeParcels 2 0 0 ws
    takeSlots esc slotPlaces r.1 r.2
  else takeSlots esc slotPlaces 0 ws

/-- Scope and space of a copy base word (R17, R18). -/
def baseCode (w : W64) : BitVec 3 := w.extractLsb' 61 3

/-! The encoder. -/

def packS (x : SWord) : W64 :=
  (x.op.setWidth 64 <<< 56) ||| (x.dst.setWidth 64 <<< 50) ||| (x.sra.setWidth 64 <<< 44) |||
  (x.srb.setWidth 64 <<< 38) ||| (x.grd.setWidth 64 <<< 34) ||| ((BitVec.ofBool x.gn).setWidth 64 <<< 33) |||
  x.imm.setWidth 64

def packV (x : VSlot) : W64 :=
  (x.op.setWidth 64 <<< 56) ||| (x.vd.setWidth 64 <<< 51) ||| (x.v1.setWidth 64 <<< 46) |||
  (x.v2.setWidth 64 <<< 41) ||| (x.v3.setWidth 64 <<< 36) ||| (x.grd.setWidth 64 <<< 32) |||
  (x.ty.setWidth 64 <<< 28) ||| (x.md.setWidth 64 <<< 24) ||| x.imm.setWidth 64

def packT (t : Toks) : BitVec 48 :=
  (t.tp.setWidth 48 <<< 28) ||| (t.ta.setWidth 48 <<< 22) ||| (t.tb.setWidth 48 <<< 16) ||| (t.tc.setWidth 48 <<< 10)

def packM (x : MWord) : BitVec 48 :=
  (x.op.setWidth 48 <<< 42) ||| (x.rtn.setWidth 48 <<< 34) ||| packT x.t ||| ((BitVec.ofBool x.ck).setWidth 48 <<< 9) |||
  ((BitVec.ofBool x.ovw).setWidth 48 <<< 8) ||| (x.lat.setWidth 48 <<< 5) ||| (x.acc.setWidth 48 <<< 3) |||
  x.rsv.setWidth 48

def packC (x : CWord) : BitVec 48 :=
  (x.op.setWidth 48 <<< 42) ||| (x.nst.setWidth 48 <<< 38) ||| (x.rng.setWidth 48 <<< 34) ||| packT x.t |||
  (x.bnd.setWidth 48 <<< 3) ||| (x.scp.setWidth 48 <<< 1) ||| (BitVec.ofBool x.be).setWidth 48

/-- The value operand of a microword (R152). -/
def packMV (v : MVal) : BitVec 32 :=
  (v.i.setWidth 32 <<< 25) ||| (v.q.setWidth 32 <<< 23) ||| ((BitVec.ofBool v.e).setWidth 32 <<< 22) |||
  v.imm.setWidth 32

/-- The modifier field of a vector header (R43). -/
def modOf (h : VH) : BitVec 4 := ((BitVec.ofBool h.sat).setWidth 4 <<< 3) ||| (rmCode h.rm).setWidth 4

/-- The row has an encoding in some slot or in the microprogram store; the others are device steps. -/
def hasWords (x : SlotWord) : Bool := x != .none


/-- The words of an instruction, written from the same tables. A device step has none. -/
def encode (i : Instr) : SlotWord :=
  match i with
  | .nop => .sca 0
  | .add g d a b => .sca (packS ⟨0x01, d, a, b, g.p, g.neg, 0⟩)
  | .sub g d a b => .sca (packS ⟨0x02, d, a, b, g.p, g.neg, 0⟩)
  | .mul g d a b => .sca (packS ⟨0x03, d, a, b, g.p, g.neg, 0⟩)
  | .mulh g d a b => .sca (packS ⟨0x04, d, a, b, g.p, g.neg, 0⟩)
  | .mulhn g d a b => .sca (packS ⟨0x05, d, a, b, g.p, g.neg, 0⟩)
  | .div g d a b => .sca (packS ⟨0x06, d, a, b, g.p, g.neg, 0⟩)
  | .divn g d a b => .sca (packS ⟨0x07, d, a, b, g.p, g.neg, 0⟩)
  | .rem g d a b => .sca (packS ⟨0x08, d, a, b, g.p, g.neg, 0⟩)
  | .remn g d a b => .sca (packS ⟨0x09, d, a, b, g.p, g.neg, 0⟩)
  | .addi g d a imm => .sca (packS ⟨0x0A, d, a, 0, g.p, g.neg, imm⟩)
  | .muli g d a imm => .sca (packS ⟨0x0B, d, a, 0, g.p, g.neg, imm⟩)
  | .and g d a b => .sca (packS ⟨0x0C, d, a, b, g.p, g.neg, 0⟩)
  | .or g d a b => .sca (packS ⟨0x0D, d, a, b, g.p, g.neg, 0⟩)
  | .xor g d a b => .sca (packS ⟨0x0E, d, a, b, g.p, g.neg, 0⟩)
  | .andn g d a b => .sca (packS ⟨0x0F, d, a, b, g.p, g.neg, 0⟩)
  | .orn g d a b => .sca (packS ⟨0x10, d, a, b, g.p, g.neg, 0⟩)
  | .xnor g d a b => .sca (packS ⟨0x11, d, a, b, g.p, g.neg, 0⟩)
  | .andi g d a imm => .sca (packS ⟨0x12, d, a, 0, g.p, g.neg, imm⟩)
  | .ori g d a imm => .sca (packS ⟨0x13, d, a, 0, g.p, g.neg, imm⟩)
  | .xori g d a imm => .sca (packS ⟨0x14, d, a, 0, g.p, g.neg, imm⟩)
  | .shl g d a b => .sca (packS ⟨0x15, d, a, b, g.p, g.neg, 0⟩)
  | .shr g d a b => .sca (packS ⟨0x16, d, a, b, g.p, g.neg, 0⟩)
  | .sar g d a b => .sca (packS ⟨0x17, d, a, b, g.p, g.neg, 0⟩)
  | .rol g d a b => .sca (packS ⟨0x18, d, a, b, g.p, g.neg, 0⟩)
  | .ror g d a b => .sca (packS ⟨0x19, d, a, b, g.p, g.neg, 0⟩)
  | .shli g d a sh => .sca (packS ⟨0x1A, d, a, 0, g.p, g.neg, (sh.setWidth 33 <<< 0)⟩)
  | .shri g d a sh => .sca (packS ⟨0x1B, d, a, 0, g.p, g.neg, (sh.setWidth 33 <<< 0)⟩)
  | .sari g d a sh => .sca (packS ⟨0x1C, d, a, 0, g.p, g.neg, (sh.setWidth 33 <<< 0)⟩)
  | .min g d a b => .sca (packS ⟨0x1D, d, a, b, g.p, g.neg, 0⟩)
  | .max g d a b => .sca (packS ⟨0x1E, d, a, b, g.p, g.neg, 0⟩)
  | .minn g d a b => .sca (packS ⟨0x1F, d, a, b, g.p, g.neg, 0⟩)
  | .maxn g d a b => .sca (packS ⟨0x20, d, a, b, g.p, g.neg, 0⟩)
  | .abs g d a => .sca (packS ⟨0x21, d, a, 0, g.p, g.neg, 0⟩)
  | .neg g d a => .sca (packS ⟨0x22, d, a, 0, g.p, g.neg, 0⟩)
  | .clz g d a => .sca (packS ⟨0x23, d, a, 0, g.p, g.neg, 0⟩)
  | .ctz g d a => .sca (packS ⟨0x24, d, a, 0, g.p, g.neg, 0⟩)
  | .popc g d a => .sca (packS ⟨0x25, d, a, 0, g.p, g.neg, 0⟩)
  | .bswap g d a => .sca (packS ⟨0x26, d, a, 0, g.p, g.neg, 0⟩)
  | .bexs g d a pos w1 => .sca (packS ⟨0x27, d, a, 0, g.p, g.neg, (pos.setWidth 33 <<< 0) ||| (w1.setWidth 33 <<< 6)⟩)
  | .bexz g d a pos w1 => .sca (packS ⟨0x28, d, a, 0, g.p, g.neg, (pos.setWidth 33 <<< 0) ||| (w1.setWidth 33 <<< 6)⟩)
  | .bins g d a pos w1 => .sca (packS ⟨0x29, d, a, 0, g.p, g.neg, (pos.setWidth 33 <<< 0) ||| (w1.setWidth 33 <<< 6)⟩)
  | .sel g d a b j => .sca (packS ⟨0x2A, d, a, b, g.p, g.neg, (j.setWidth 33 <<< 0)⟩)
  | .li g d imm => .sca (packS ⟨0x2B, d, 0, 0, g.p, g.neg, imm⟩)
  | .lih g d imm => .sca (packS ⟨0x2C, d, 0, 0, g.p, g.neg, (imm.setWidth 33 <<< 0)⟩)
  | .mov g d a => .sca (packS ⟨0x2D, d, a, 0, g.p, g.neg, 0⟩)
  | .adds g d a b => .sca (packS ⟨0x2E, d, a, b, g.p, g.neg, 0⟩)
  | .subs g d a b => .sca (packS ⟨0x2F, d, a, b, g.p, g.neg, 0⟩)
  | .sext g d a w1 => .sca (packS ⟨0x30, d, a, 0, g.p, g.neg, (w1.setWidth 33 <<< 0)⟩)
  | .zext g d a w1 => .sca (packS ⟨0x31, d, a, 0, g.p, g.neg, (w1.setWidth 33 <<< 0)⟩)
  | .cmpeq g pd a b => .sca (packS ⟨0x40, pd.setWidth 6, a, b, g.p, g.neg, 0⟩)
  | .cmpne g pd a b => .sca (packS ⟨0x41, pd.setWidth 6, a, b, g.p, g.neg, 0⟩)
  | .cmplt g pd a b => .sca (packS ⟨0x42, pd.setWidth 6, a, b, g.p, g.neg, 0⟩)
  | .cmple g pd a b => .sca (packS ⟨0x43, pd.setWidth 6, a, b, g.p, g.neg, 0⟩)
  | .cmpltn g pd a b => .sca (packS ⟨0x44, pd.setWidth 6, a, b, g.p, g.neg, 0⟩)
  | .cmplen g pd a b => .sca (packS ⟨0x45, pd.setWidth 6, a, b, g.p, g.neg, 0⟩)
  | .cmpeqi g pd a imm => .sca (packS ⟨0x46, pd.setWidth 6, a, 0, g.p, g.neg, imm⟩)
  | .cmplti g pd a imm => .sca (packS ⟨0x47, pd.setWidth 6, a, 0, g.p, g.neg, imm⟩)
  | .pand g pd px py => .sca (packS ⟨0x48, pd.setWidth 6, px.setWidth 6, py.setWidth 6, g.p, g.neg, 0⟩)
  | .por g pd px py => .sca (packS ⟨0x49, pd.setWidth 6, px.setWidth 6, py.setWidth 6, g.p, g.neg, 0⟩)
  | .pxor g pd px py => .sca (packS ⟨0x4A, pd.setWidth 6, px.setWidth 6, py.setWidth 6, g.p, g.neg, 0⟩)
  | .pandn g pd px py => .sca (packS ⟨0x4B, pd.setWidth 6, px.setWidth 6, py.setWidth 6, g.p, g.neg, 0⟩)
  | .pnot g pd px => .sca (packS ⟨0x4C, pd.setWidth 6, px.setWidth 6, 0, g.p, g.neg, 0⟩)
  | .pmov g pd px => .sca (packS ⟨0x4D, pd.setWidth 6, px.setWidth 6, 0, g.p, g.neg, 0⟩)
  | .pset g pd a => .sca (packS ⟨0x4E, pd.setWidth 6, a, 0, g.p, g.neg, 0⟩)
  | .pget g d px => .sca (packS ⟨0x4F, d, px.setWidth 6, 0, g.p, g.neg, 0⟩)
  | .pcnt g d px => .sca (packS ⟨0x5A, d, px.setWidth 6, 0, g.p, g.neg, 0⟩)
  | .br g imm => .sca (packS ⟨0x50, 0, 0, 0, g.p, g.neg, imm⟩)
  | .jmp g a => .sca (packS ⟨0x51, 0, a, 0, g.p, g.neg, 0⟩)
  | .call g d imm => .sca (packS ⟨0x52, d, 0, 0, g.p, g.neg, imm⟩)
  | .callr g d a => .sca (packS ⟨0x53, d, a, 0, g.p, g.neg, 0⟩)
  | .ret g a => .sca (packS ⟨0x54, 0, a, 0, g.p, g.neg, 0⟩)
  | .loop g a ii ns1 => .sca (packS ⟨0x55, 0, a, 0, g.p, g.neg, (ii.setWidth 33 <<< 0) ||| (ns1.setWidth 33 <<< 8)⟩)
  | .sloop g a ii ns1 => .sca (packS ⟨0x56, 0, a, 0, g.p, g.neg, (ii.setWidth 33 <<< 0) ||| (ns1.setWidth 33 <<< 8)⟩)
  | .snext g imm => .sca (packS ⟨0x57, 0, 0, 0, g.p, g.neg, imm⟩)
  | .mfsp g d idx => .sca (packS ⟨0x58, d, 0, 0, g.p, g.neg, (idx.setWidth 33 <<< 0)⟩)
  | .mtsp g a idx => .sca (packS ⟨0x59, 0, a, 0, g.p, g.neg, (idx.setWidth 33 <<< 0)⟩)
  | .ldb g d a j sp off => .sca (packS ⟨0x60, d, a, j.setWidth 6, g.p, g.neg, (sp.setWidth 33 <<< 31) ||| (off.setWidth 33 <<< 0)⟩)
  | .ldbn g d a j sp off => .sca (packS ⟨0x61, d, a, j.setWidth 6, g.p, g.neg, (sp.setWidth 33 <<< 31) ||| (off.setWidth 33 <<< 0)⟩)
  | .ldh g d a j sp off => .sca (packS ⟨0x62, d, a, j.setWidth 6, g.p, g.neg, (sp.setWidth 33 <<< 31) ||| (off.setWidth 33 <<< 0)⟩)
  | .ldhn g d a j sp off => .sca (packS ⟨0x63, d, a, j.setWidth 6, g.p, g.neg, (sp.setWidth 33 <<< 31) ||| (off.setWidth 33 <<< 0)⟩)
  | .ldw g d a j sp off => .sca (packS ⟨0x64, d, a, j.setWidth 6, g.p, g.neg, (sp.setWidth 33 <<< 31) ||| (off.setWidth 33 <<< 0)⟩)
  | .ldwn g d a j sp off => .sca (packS ⟨0x65, d, a, j.setWidth 6, g.p, g.neg, (sp.setWidth 33 <<< 31) ||| (off.setWidth 33 <<< 0)⟩)
  | .ldd g d a j sp off => .sca (packS ⟨0x66, d, a, j.setWidth 6, g.p, g.neg, (sp.setWidth 33 <<< 31) ||| (off.setWidth 33 <<< 0)⟩)
  | .stb g a b sp off => .sca (packS ⟨0x67, 0, a, b, g.p, g.neg, (sp.setWidth 33 <<< 31) ||| (off.setWidth 33 <<< 0)⟩)
  | .sth g a b sp off => .sca (packS ⟨0x68, 0, a, b, g.p, g.neg, (sp.setWidth 33 <<< 31) ||| (off.setWidth 33 <<< 0)⟩)
  | .stw g a b sp off => .sca (packS ⟨0x69, 0, a, b, g.p, g.neg, (sp.setWidth 33 <<< 31) ||| (off.setWidth 33 <<< 0)⟩)
  | .std g a b sp off => .sca (packS ⟨0x6A, 0, a, b, g.p, g.neg, (sp.setWidth 33 <<< 31) ||| (off.setWidth 33 <<< 0)⟩)
  | .ldr g pd a sp off => .sca (packS ⟨0x6B, pd.setWidth 6, a, 0, g.p, g.neg, (sp.setWidth 33 <<< 31) ||| (off.setWidth 33 <<< 0)⟩)
  | .ldk g d a j sp k sz off => .sca (packS ⟨0x6C, d, a, j.setWidth 6, g.p, g.neg, (sp.setWidth 33 <<< 31) ||| (k.setWidth 33 <<< 24) ||| (sz.setWidth 33 <<< 22) ||| (off.setWidth 33 <<< 0)⟩)
  | .lda g d a j sp scp sz off => .sca (packS ⟨0x6D, d, a, j.setWidth 6, g.p, g.neg, (sp.setWidth 33 <<< 31) ||| (scp.setWidth 33 <<< 24) ||| (sz.setWidth 33 <<< 22) ||| (off.setWidth 33 <<< 0)⟩)
  | .stl g a b sp scp sz off => .sca (packS ⟨0x6E, 0, a, b, g.p, g.neg, (sp.setWidth 33 <<< 31) ||| (scp.setWidth 33 <<< 24) ||| (sz.setWidth 33 <<< 22) ||| (off.setWidth 33 <<< 0)⟩)
  | .pgin g d a sp off => .sca (packS ⟨0x6F, d, a, 0, g.p, g.neg, (sp.setWidth 33 <<< 31) ||| (off.setWidth 33 <<< 0)⟩)
  | .amoadd g d a b sp ord scp sz off => .sca (packS ⟨0x70, d, a, b, g.p, g.neg, (sp.setWidth 33 <<< 31) ||| (ord.setWidth 33 <<< 29) ||| (scp.setWidth 33 <<< 24) ||| (sz.setWidth 33 <<< 22) ||| (off.setWidth 33 <<< 0)⟩)
  | .amoand g d a b sp ord scp sz off => .sca (packS ⟨0x71, d, a, b, g.p, g.neg, (sp.setWidth 33 <<< 31) ||| (ord.setWidth 33 <<< 29) ||| (scp.setWidth 33 <<< 24) ||| (sz.setWidth 33 <<< 22) ||| (off.setWidth 33 <<< 0)⟩)
  | .amoor g d a b sp ord scp sz off => .sca (packS ⟨0x72, d, a, b, g.p, g.neg, (sp.setWidth 33 <<< 31) ||| (ord.setWidth 33 <<< 29) ||| (scp.setWidth 33 <<< 24) ||| (sz.setWidth 33 <<< 22) ||| (off.setWidth 33 <<< 0)⟩)
  | .amoxor g d a b sp ord scp sz off => .sca (packS ⟨0x73, d, a, b, g.p, g.neg, (sp.setWidth 33 <<< 31) ||| (ord.setWidth 33 <<< 29) ||| (scp.setWidth 33 <<< 24) ||| (sz.setWidth 33 <<< 22) ||| (off.setWidth 33 <<< 0)⟩)
  | .amomin g d a b sp ord scp sz off => .sca (packS ⟨0x74, d, a, b, g.p, g.neg, (sp.setWidth 33 <<< 31) ||| (ord.setWidth 33 <<< 29) ||| (scp.setWidth 33 <<< 24) ||| (sz.setWidth 33 <<< 22) ||| (off.setWidth 33 <<< 0)⟩)
  | .amomax g d a b sp ord scp sz off => .sca (packS ⟨0x75, d, a, b, g.p, g.neg, (sp.setWidth 33 <<< 31) ||| (ord.setWidth 33 <<< 29) ||| (scp.setWidth 33 <<< 24) ||| (sz.setWidth 33 <<< 22) ||| (off.setWidth 33 <<< 0)⟩)
  | .amominn g d a b sp ord scp sz off => .sca (packS ⟨0x76, d, a, b, g.p, g.neg, (sp.setWidth 33 <<< 31) ||| (ord.setWidth 33 <<< 29) ||| (scp.setWidth 33 <<< 24) ||| (sz.setWidth 33 <<< 22) ||| (off.setWidth 33 <<< 0)⟩)
  | .amomaxn g d a b sp ord scp sz off => .sca (packS ⟨0x77, d, a, b, g.p, g.neg, (sp.setWidth 33 <<< 31) ||| (ord.setWidth 33 <<< 29) ||| (scp.setWidth 33 <<< 24) ||| (sz.setWidth 33 <<< 22) ||| (off.setWidth 33 <<< 0)⟩)
  | .amoswp g d a b sp ord scp sz off => .sca (packS ⟨0x78, d, a, b, g.p, g.neg, (sp.setWidth 33 <<< 31) ||| (ord.setWidth 33 <<< 29) ||| (scp.setWidth 33 <<< 24) ||| (sz.setWidth 33 <<< 22) ||| (off.setWidth 33 <<< 0)⟩)
  | .amocas g d a b sp ord scp sz off => .sca (packS ⟨0x79, d, a, b, g.p, g.neg, (sp.setWidth 33 <<< 31) ||| (ord.setWidth 33 <<< 29) ||| (scp.setWidth 33 <<< 24) ||| (sz.setWidth 33 <<< 22) ||| (off.setWidth 33 <<< 0)⟩)
  | .fence g ordr scp spc => .sca (packS ⟨0x7A, 0, 0, 0, g.p, g.neg, (ordr.setWidth 33 <<< 0) ||| (scp.setWidth 33 <<< 4) ||| (spc.setWidth 33 <<< 8)⟩)
  | .rpub g d a rn => .sca (packS ⟨0x7B, d, a, 0, g.p, g.neg, (rn.setWidth 33 <<< 0)⟩)
  | .radv g a rn => .sca (packS ⟨0x7C, 0, a, 0, g.p, g.neg, (rn.setWidth 33 <<< 0)⟩)
  | .racq g d a rn => .sca (packS ⟨0x7D, d, a, 0, g.p, g.neg, (rn.setWidth 33 <<< 0)⟩)
  | .rrnd g d a rn rw => .sca (packS ⟨0x7E, d, a, 0, g.p, g.neg, (rn.setWidth 33 <<< 0) ||| (rw.setWidth 33 <<< 12)⟩)
  | .hoist g d a b sp tp ta tb tc => .sca (packS ⟨0x7F, d, a, b, g.p, g.neg, (sp.setWidth 33 <<< 31) ||| (tp.setWidth 33 <<< 0) ||| (ta.setWidth 33 <<< 6) ||| (tb.setWidth 33 <<< 12) ||| (tc.setWidth 33 <<< 18)⟩)
  | .sight g d a b sp tp ta tb tc => .sca (packS ⟨0x80, d, a, b, g.p, g.neg, (sp.setWidth 33 <<< 31) ||| (tp.setWidth 33 <<< 0) ||| (ta.setWidth 33 <<< 6) ||| (tb.setWidth 33 <<< 12) ||| (tc.setWidth 33 <<< 18)⟩)
  | .hrnd g d a => .sca (packS ⟨0x81, d, a, 0, g.p, g.neg, 0⟩)
  | .barr g d bn n1 tp => .sca (packS ⟨0x82, d, 0, 0, g.p, g.neg, (bn.setWidth 33 <<< 0) ||| (n1.setWidth 33 <<< 8) ||| (tp.setWidth 33 <<< 15)⟩)
  | .bwait g pd a bn => .sca (packS ⟨0x83, pd.setWidth 6, a, 0, g.p, g.neg, (bn.setWidth 33 <<< 0)⟩)
  | .bgen g d bn => .sca (packS ⟨0x84, d, 0, 0, g.p, g.neg, (bn.setWidth 33 <<< 0)⟩)
  | .tkwait g ta tb tc => .sca (packS ⟨0x85, 0, 0, 0, g.p, g.neg, (ta.setWidth 33 <<< 0) ||| (tb.setWidth 33 <<< 6) ||| (tc.setWidth 33 <<< 12)⟩)
  | .tkpoll g pd ta => .sca (packS ⟨0x86, pd.setWidth 6, 0, 0, g.p, g.neg, (ta.setWidth 33 <<< 0)⟩)
  | .rwait g q => .sca (packS ⟨0x87, q.setWidth 6, 0, 0, g.p, g.neg, 0⟩)
  | .rrel g q => .sca (packS ⟨0x88, q.setWidth 6, 0, 0, g.p, g.neg, 0⟩)
  | .rnew g q a b => .sca (packS ⟨0x89, q.setWidth 6, a, b, g.p, g.neg, 0⟩)
  | .rstat g d q => .sca (packS ⟨0x8A, d, q.setWidth 6, 0, g.p, g.neg, 0⟩)
  | .nsw g k a nw => .sca (packS ⟨0x8B, k.setWidth 6, a, 0, g.p, g.neg, (nw.setWidth 33 <<< 0)⟩)
  | .ngw g d k nw => .sca (packS ⟨0x8C, d, k.setWidth 6, 0, g.p, g.neg, (nw.setWidth 33 <<< 0)⟩)
  | .mset g mi a => .sca (packS ⟨0xA0, mi.setWidth 6, a, 0, g.p, g.neg, 0⟩)
  | .mseti g mi imm mq => .sca (packS ⟨0xA1, mi.setWidth 6, 0, 0, g.p, g.neg, (imm.setWidth 33 <<< 0) ||| (mq.setWidth 33 <<< 16)⟩)
  | .mget g d mi => .sca (packS ⟨0xA2, d, mi.setWidth 6, 0, g.p, g.neg, 0⟩)
  | .mpld g a b mw => .sca (packS ⟨0xA3, 0, a, b, g.p, g.neg, (mw.setWidth 33 <<< 0)⟩)
  | .mpent g a re => .sca (packS ⟨0xA4, 0, a, 0, g.p, g.neg, (re.setWidth 33 <<< 0)⟩)
  | .mstat g d => .sca (packS ⟨0xA5, d, 0, 0, g.p, g.neg, 0⟩)
  | .ckst g d sel => .sca (packS ⟨0xA6, d, 0, 0, g.p, g.neg, (sel.setWidth 33 <<< 0)⟩)
  | .pull g d j => .sca (packS ⟨0xC0, d, 0, 0, g.p, g.neg, (j.setWidth 33 <<< 0)⟩)
  | .push g d a b st hasB => .sca (packS ⟨0xC1, d, a, b, g.p, g.neg, (st.setWidth 33 <<< 0) ||| ((BitVec.ofBool hasB).setWidth 33 <<< 3)⟩)
  | .retire g => .sca (packS ⟨0xC2, 0, 0, 0, g.p, g.neg, 0⟩)
  | .launch g d a => .sca (packS ⟨0xC3, d, a, 0, g.p, g.neg, 0⟩)
  | .lpoll g d a => .sca (packS ⟨0xC4, d, a, 0, g.p, g.neg, 0⟩)
  | .clkdiv g mask dv => .sca (packS ⟨0xC5, 0, 0, 0, g.p, g.neg, (mask.setWidth 33 <<< 0) ||| (dv.setWidth 33 <<< 4)⟩)
  | .clkdivReg g a mask => .sca (packS ⟨0xC5, 0, a, 0, g.p, g.neg, (mask.setWidth 33 <<< 0) ||| (1 <<< 9)⟩)
  | .trap g tn => .sca (packS ⟨0xC6, 0, 0, 0, g.p, g.neg, (tn.setWidth 33 <<< 0)⟩)
  | .ejrd g d sel => .sca (packS ⟨0xC7, d, 0, 0, g.p, g.neg, (sel.setWidth 33 <<< 0)⟩)
  | .qdep g d st => .sca (packS ⟨0xC8, d, 0, 0, g.p, g.neg, (st.setWidth 33 <<< 0)⟩)
  | .brk g tn => .sca (packS ⟨0xC9, 0, 0, 0, g.p, g.neg, (tn.setWidth 33 <<< 0)⟩)
  | .mfpr g d pidx => .sca (packS ⟨0xD0, d, 0, 0, g.p, g.neg, (pidx.setWidth 33 <<< 0)⟩)
  | .mtpr g a pidx => .sca (packS ⟨0xD1, 0, a, 0, g.p, g.neg, (pidx.setWidth 33 <<< 0)⟩)
  | .xlinv g d a b psz => .sca (packS ⟨0xD2, d, a, b, g.p, g.neg, (psz.setWidth 33 <<< 0)⟩)
  | .purge g d a => .sca (packS ⟨0xD3, d, a, 0, g.p, g.neg, 0⟩)
  | .eret g a em => .sca (packS ⟨0xD4, 0, a, 0, g.p, g.neg, ((BitVec.ofBool em).setWidth 33 <<< 0)⟩)
  | .wfe g d => .sca (packS ⟨0xD5, d, 0, 0, g.p, g.neg, 0⟩)
  | .stest g d a => .sca (packS ⟨0xD6, d, a, 0, g.p, g.neg, 0⟩)
  | .hsw g a b => .sca (packS ⟨0xD7, 0, a, b, g.p, g.neg, 0⟩)
  | .vadd h vd v1 v2 => .vec h.cl (packV ⟨0x01, vd, v1, v2, 0, h.grd, tyCode h.ty, modOf h, 0⟩)
  | .vsub h vd v1 v2 => .vec h.cl (packV ⟨0x02, vd, v1, v2, 0, h.grd, tyCode h.ty, modOf h, 0⟩)
  | .vmul h vd v1 v2 => .vec h.cl (packV ⟨0x03, vd, v1, v2, 0, h.grd, tyCode h.ty, modOf h, 0⟩)
  | .vmulh h vd v1 v2 => .vec h.cl (packV ⟨0x04, vd, v1, v2, 0, h.grd, tyCode h.ty, modOf h, 0⟩)
  | .vfma h vd v1 v2 v3 => .vec h.cl (packV ⟨0x05, vd, v1, v2, v3, h.grd, tyCode h.ty, modOf h, 0⟩)
  | .vfms h vd v1 v2 v3 => .vec h.cl (packV ⟨0x06, vd, v1, v2, v3, h.grd, tyCode h.ty, modOf h, 0⟩)
  | .vfnma h vd v1 v2 v3 => .vec h.cl (packV ⟨0x07, vd, v1, v2, v3, h.grd, tyCode h.ty, modOf h, 0⟩)
  | .vdiv h vd v1 v2 => .vec h.cl (packV ⟨0x08, vd, v1, v2, 0, h.grd, tyCode h.ty, modOf h, 0⟩)
  | .vsqrt h vd v1 => .vec h.cl (packV ⟨0x09, vd, v1, 0, 0, h.grd, tyCode h.ty, modOf h, 0⟩)
  | .vrsqrt h vd v1 => .vec h.cl (packV ⟨0x0A, vd, v1, 0, 0, h.grd, tyCode h.ty, modOf h, 0⟩)
  | .vrsqp h vd v1 j => .vec h.cl (packV ⟨0x0B, vd, v1, 0, 0, h.grd, tyCode h.ty, modOf h, (j.setWidth 24 <<< 0)⟩)
  | .vmin h vd v1 v2 => .vec h.cl (packV ⟨0x0C, vd, v1, v2, 0, h.grd, tyCode h.ty, modOf h, 0⟩)
  | .vmax h vd v1 v2 => .vec h.cl (packV ⟨0x0D, vd, v1, v2, 0, h.grd, tyCode h.ty, modOf h, 0⟩)
  | .vabs h vd v1 => .vec h.cl (packV ⟨0x0E, vd, v1, 0, 0, h.grd, tyCode h.ty, modOf h, 0⟩)
  | .vneg h vd v1 => .vec h.cl (packV ⟨0x0F, vd, v1, 0, 0, h.grd, tyCode h.ty, modOf h, 0⟩)
  | .vand h vd v1 v2 => .vec h.cl (packV ⟨0x10, vd, v1, v2, 0, h.grd, tyCode h.ty, modOf h, 0⟩)
  | .vor h vd v1 v2 => .vec h.cl (packV ⟨0x11, vd, v1, v2, 0, h.grd, tyCode h.ty, modOf h, 0⟩)
  | .vxor h vd v1 v2 => .vec h.cl (packV ⟨0x12, vd, v1, v2, 0, h.grd, tyCode h.ty, modOf h, 0⟩)
  | .vnot h vd v1 => .vec h.cl (packV ⟨0x13, vd, v1, 0, 0, h.grd, tyCode h.ty, modOf h, 0⟩)
  | .vshl h vd v1 v2 => .vec h.cl (packV ⟨0x14, vd, v1, v2, 0, h.grd, tyCode h.ty, modOf h, 0⟩)
  | .vshlImm h vd v1 sh => .vec h.cl (packV ⟨0x14, vd, v1, 0, 0, h.grd, tyCode h.ty, modOf h, (sh.setWidth 24 <<< 0) ||| (1 <<< 6)⟩)
  | .vshr h vd v1 v2 => .vec h.cl (packV ⟨0x15, vd, v1, v2, 0, h.grd, tyCode h.ty, modOf h, 0⟩)
  | .vshrImm h vd v1 sh => .vec h.cl (packV ⟨0x15, vd, v1, 0, 0, h.grd, tyCode h.ty, modOf h, (sh.setWidth 24 <<< 0) ||| (1 <<< 6)⟩)
  | .vsar h vd v1 v2 => .vec h.cl (packV ⟨0x16, vd, v1, v2, 0, h.grd, tyCode h.ty, modOf h, 0⟩)
  | .vsarImm h vd v1 sh => .vec h.cl (packV ⟨0x16, vd, v1, 0, 0, h.grd, tyCode h.ty, modOf h, (sh.setWidth 24 <<< 0) ||| (1 <<< 6)⟩)
  | .vrshr h vd v1 v2 => .vec h.cl (packV ⟨0x17, vd, v1, v2, 0, h.grd, tyCode h.ty, modOf h, 0⟩)
  | .vrshrImm h vd v1 sh => .vec h.cl (packV ⟨0x17, vd, v1, 0, 0, h.grd, tyCode h.ty, modOf h, (sh.setWidth 24 <<< 0) ||| (1 <<< 6)⟩)
  | .vcmpeq h v1 v2 j => .vec h.cl (packV ⟨0x18, 0, v1, v2, 0, h.grd, tyCode h.ty, modOf h, (j.setWidth 24 <<< 0)⟩)
  | .vcmpne h v1 v2 j => .vec h.cl (packV ⟨0x19, 0, v1, v2, 0, h.grd, tyCode h.ty, modOf h, (j.setWidth 24 <<< 0)⟩)
  | .vcmplt h v1 v2 j => .vec h.cl (packV ⟨0x1A, 0, v1, v2, 0, h.grd, tyCode h.ty, modOf h, (j.setWidth 24 <<< 0)⟩)
  | .vcmple h v1 v2 j => .vec h.cl (packV ⟨0x1B, 0, v1, v2, 0, h.grd, tyCode h.ty, modOf h, (j.setWidth 24 <<< 0)⟩)
  | .vsel h vd v1 v2 j => .vec h.cl (packV ⟨0x1C, vd, v1, v2, 0, h.grd, tyCode h.ty, modOf h, (j.setWidth 24 <<< 0)⟩)
  | .vclz h vd v1 => .vec h.cl (packV ⟨0x1D, vd, v1, 0, 0, h.grd, tyCode h.ty, modOf h, 0⟩)
  | .vpopc h vd v1 => .vec h.cl (packV ⟨0x1E, vd, v1, 0, 0, h.grd, tyCode h.ty, modOf h, 0⟩)
  | .vdot4 h vd v1 v2 v3 => .vec h.cl (packV ⟨0x1F, vd, v1, v2, v3, h.grd, tyCode h.ty, modOf h, 0⟩)
  | .vredsum h vd v1 => .vec h.cl (packV ⟨0x20, vd, v1, 0, 0, h.grd, tyCode h.ty, modOf h, 0⟩)
  | .vredmax h vd v1 => .vec h.cl (packV ⟨0x21, vd, v1, 0, 0, h.grd, tyCode h.ty, modOf h, 0⟩)
  | .vredmin h vd v1 => .vec h.cl (packV ⟨0x22, vd, v1, 0, 0, h.grd, tyCode h.ty, modOf h, 0⟩)
  | .vcpsgn h vd v1 v2 => .vec h.cl (packV ⟨0x23, vd, v1, v2, 0, h.grd, tyCode h.ty, modOf h, 0⟩)
  | .vmovi h vd imm => .vec h.cl (packV ⟨0x24, vd, 0, 0, 0, h.grd, tyCode h.ty, modOf h, (imm.setWidth 24 <<< 0)⟩)
  | .vxmov h vd v1 => .vec h.cl (packV ⟨0x25, vd, v1, 0, 0, h.grd, tyCode h.ty, modOf h, 0⟩)
  | .vmov h vd v1 => .vec h.cl (packV ⟨0x26, vd, v1, 0, 0, h.grd, tyCode h.ty, modOf h, 0⟩)
  | .vld h vd off sk => .vec h.cl (packV ⟨0x80, vd, 0, 0, 0, h.grd, tyCode h.ty, modOf h, (off.setWidth 24 <<< 0) ||| (sk.setWidth 24 <<< 18)⟩)
  | .vst h vd off sk => .vec h.cl (packV ⟨0x81, vd, 0, 0, 0, h.grd, tyCode h.ty, modOf h, (off.setWidth 24 <<< 0) ||| (sk.setWidth 24 <<< 18)⟩)
  | .vlds h vd off sk st => .vec h.cl (packV ⟨0x82, vd, 0, 0, 0, h.grd, tyCode h.ty, modOf h, (off.setWidth 24 <<< 0) ||| (sk.setWidth 24 <<< 18) ||| (st.setWidth 24 <<< 12)⟩)
  | .vsts h vd off sk st => .vec h.cl (packV ⟨0x83, vd, 0, 0, 0, h.grd, tyCode h.ty, modOf h, (off.setWidth 24 <<< 0) ||| (sk.setWidth 24 <<< 18) ||| (st.setWidth 24 <<< 12)⟩)
  | .vldx h vd v2 off sk => .vec h.cl (packV ⟨0x84, vd, 0, v2, 0, h.grd, tyCode h.ty, modOf h, (off.setWidth 24 <<< 0) ||| (sk.setWidth 24 <<< 18)⟩)
  | .vstx h vd v2 off sk => .vec h.cl (packV ⟨0x85, vd, 0, v2, 0, h.grd, tyCode h.ty, modOf h, (off.setWidth 24 <<< 0) ||| (sk.setWidth 24 <<< 18)⟩)
  | .vldb h vd off sk => .vec h.cl (packV ⟨0x86, vd, 0, 0, 0, h.grd, tyCode h.ty, modOf h, (off.setWidth 24 <<< 0) ||| (sk.setWidth 24 <<< 18)⟩)
  | .vcvt h vd v1 fm hh => .vec h.cl (packV ⟨0xC0, vd, v1, 0, 0, h.grd, tyCode h.ty, modOf h, ((tyCode fm).setWidth 24 <<< 0) ||| (hh.setWidth 24 <<< 4)⟩)
  | .vquant h vd v1 v2 fm bb bt e0 => .vec h.cl (packV ⟨0xC1, vd, v1, v2, 0, h.grd, tyCode h.ty, modOf h, ((tyCode fm).setWidth 24 <<< 0) ||| (bb.setWidth 24 <<< 4) ||| (bt.setWidth 24 <<< 6) ||| (e0.setWidth 24 <<< 8)⟩)
  | .vdequant h vd v1 bb hb => .vec h.cl (packV ⟨0xC2, vd, v1, 0, 0, h.grd, tyCode h.ty, modOf h, (bb.setWidth 24 <<< 4) ||| ((BitVec.ofBool hb).setWidth 24 <<< 6)⟩)
  | .vperm h vd v1 v2 => .vec h.cl (packV ⟨0xC3, vd, v1, v2, 0, h.grd, tyCode h.ty, modOf h, 0⟩)
  | .vslide h vd v1 v2 k9 => .vec h.cl (packV ⟨0xC4, vd, v1, v2, 0, h.grd, tyCode h.ty, modOf h, (k9.setWidth 24 <<< 0)⟩)
  | .vbcastElem h vd v1 el => .vec h.cl (packV ⟨0xC5, vd, v1, 0, 0, h.grd, tyCode h.ty, modOf h, (el.setWidth 24 <<< 0)⟩)
  | .vbcastScalar h vd sk => .vec h.cl (packV ⟨0xC5, vd, 0, 0, 0, h.grd, tyCode h.ty, modOf h, (sk.setWidth 24 <<< 0) ||| (1 <<< 23)⟩)
  | .vzip h vd v1 v2 hb => .vec h.cl (packV ⟨0xC6, vd, v1, v2, 0, h.grd, tyCode h.ty, modOf h, ((BitVec.ofBool hb).setWidth 24 <<< 0)⟩)
  | .vunzip h vd v1 v2 hb => .vec h.cl (packV ⟨0xC7, vd, v1, v2, 0, h.grd, tyCode h.ty, modOf h, ((BitVec.ofBool hb).setWidth 24 <<< 0)⟩)
  | .vpack h vd v1 v2 sg => .vec h.cl (packV ⟨0xC8, vd, v1, v2, 0, h.grd, tyCode h.ty, modOf h, ((BitVec.ofBool sg).setWidth 24 <<< 0)⟩)
  | .vunpk h vd v1 hb => .vec h.cl (packV ⟨0xC9, vd, v1, 0, 0, h.grd, tyCode h.ty, modOf h, ((BitVec.ofBool hb).setWidth 24 <<< 0)⟩)
  | .mcall t e lat acc ck ovw => .mtx (packM ⟨1, e, t, ck, ovw, lat, acc, 0⟩)
  | .lload t i lat => .mtx (packM ⟨2, i.setWidth 8, t, false, false, lat, 0, 0⟩)
  | .drain t i acc ck ovw => .mtx (packM ⟨3, i.setWidth 8, t, ck, ovw, 0, acc, 0⟩)
  | .azero t acc => .mtx (packM ⟨4, 0, t, false, false, 0, acc, 0⟩)
  | .epicfg t i => .mtx (packM ⟨5, i.setWidth 8, t, false, false, 0, 0, 0⟩)
  | .cksnap t i acc => .mtx (packM ⟨6, i.setWidth 8, t, false, false, 0, acc, 0⟩)
  | .cpy u t nst rng bnd scp be => .cpy u (packC ⟨1, nst, rng, t, bnd, scp, be⟩)
  | .cpset u t nst rng scp => .cpy u (packC ⟨2, nst, rng, t, 0, scp, false⟩)
  | .bcdrv u t nst => .cpy u (packC ⟨3, nst, 0, t, 0, 0, false⟩)
  | .bclat u t nst rng => .cpy u (packC ⟨4, nst, rng, t, 0, 0, false⟩)
  | .scset b v => .scl ((1 : BitVec 4) ++ b ++ v)
  | .scadd b v => .scl ((2 : BitVec 4) ++ b ++ v)
  | .scsub b v => .scl ((3 : BitVec 4) ++ b ++ v)
  | .scpad b v => .scl ((4 : BitVec 4) ++ b ++ v)
  | .sccpy b v => .scl ((5 : BitVec 4) ++ b ++ v)
  | .scmax b v => .scl ((6 : BitVec 4) ++ b ++ v)
  | .scmin b v => .scl ((7 : BitVec 4) ++ b ++ v)
  | .fin => .mic ((0x0 : BitVec 32) <<< 28)
  | .fmt ta tb es => .mic ((0x1 : BitVec 32) <<< 28 ||| (ta.setWidth 32 <<< 24) ||| (tb.setWidth 32 <<< 20) ||| ((BitVec.ofBool es).setWidth 32 <<< 19))
  | .use l a => .mic ((0x2 : BitVec 32) <<< 28 ||| (l.setWidth 32 <<< 6) ||| (a.setWidth 32 <<< 0))
  | .act v => .mic ((0x3 : BitVec 32) <<< 28 ||| packMV v)
  | .lk v => .mic ((0x4 : BitVec 32) <<< 28 ||| packMV v)
  | .bk v => .mic ((0x5 : BitVec 32) <<< 28 ||| packMV v)
  | .lkadd v => .mic ((0x6 : BitVec 32) <<< 28 ||| packMV v)
  | .bkadd v => .mic ((0x7 : BitVec 32) <<< 28 ||| packMV v)
  | .mac n => .mic ((0x8 : BitVec 32) <<< 28 ||| (n.setWidth 32 <<< 0))
  | .macn n => .mic ((0x9 : BitVec 32) <<< 28 ||| (n.setWidth 32 <<< 0))
  | .zero => .mic ((0xA : BitVec 32) <<< 28)
  | .idle n1 => .mic ((0xB : BitVec 32) <<< 28 ||| (n1.setWidth 32 <<< 0))
  | .cnt v x => .mic ((0xC : BitVec 32) <<< 28 ||| packMV v ||| ((BitVec.ofBool x).setWidth 32 <<< 21))
  | .rep x t => .mic ((0xD : BitVec 32) <<< 28 ||| ((BitVec.ofBool x).setWidth 32 <<< 21) ||| (t.setWidth 32 <<< 0))
  | .brz i q t => .mic ((0xE : BitVec 32) <<< 28 ||| (i.setWidth 32 <<< 25) ||| (q.setWidth 32 <<< 23) ||| (t.setWidth 32 <<< 0))
  | _ => .none

end Sys2Proof
end

