-- ==== Sys2Proof/Config.lean ====
section
/-! DEFINITION. What an implementation fixes, and the free values: constants without a body, applied to the counter
`State.free` or to the operands that they depend on. No proof can see a value of them. -/

namespace Sys2Proof.Config

/-- A free number: a delay that the spec leaves open, or a choice among outcomes that it allows (log entry 1). -/
opaque freeNat : Nat → Nat
/-- A free word: a result that the spec leaves open, and what an outside agent or firmware supplies (log entry 1). -/
opaque freeWord : Nat → W64

/-- A free byte for an address whose page cannot be read at the moment it is needed (log entry 1). -/
opaque freeByte : Nat → Nat → Byte
/-- Field i of the must-save descriptor in a byte list; its binary layout is not in the spec (log entry 9). -/
opaque mustSaveField : List Byte → Nat → W64

/-- SHA-256 of a byte list; the function itself is outside the spec (R402, R404; log entry 8). -/
opaque sha256 : List Byte → BitVec 256
/-- The public key that a firmware image supplies; its place in the image is not in the spec (R402; log entry 9). -/
opaque imageKey : List Byte → List Byte
/-- Whether the ECDSA P-256 signature at the end of a byte list verifies under a public key (R402; log entry 8). -/
opaque signatureOk : List Byte → List Byte → Bool
/-- ECDSA P-256 signature of a byte list under a private key (R404; log entry 8). -/
opaque signWith : BitVec 256 → List Byte → BitVec 512
/-- What is fused at manufacture: the hash of the Aznen firmware public key, the attestation key pair, and the device certificate in
DER (R402, R404; log entry 111). -/
opaque fwKeyHash : BitVec 256
opaque attKey : BitVec 256
opaque attPub : BitVec 512
opaque certificate : List Byte

/-- AES-256-XTS of a 128-byte line with a 512-bit key and the line's number as the tweak (R345; log entry 8). -/
opaque xtsEncrypt : BitVec 512 → Nat → BitVec 1024 → BitVec 1024
/-- The decryption that goes with it (R345; log entry 8). -/
opaque xtsDecrypt : BitVec 512 → Nat → BitVec 1024 → BitVec 1024
/-- A line beyond the first tier is of LPDDR6 or an expander, and not of host or peer memory; the spec does not place these
(R345, R346; log entry 8). -/
opaque deviceMemory : Nat → Bool

/-- Place, behind the first tier's lines, of the LPDDR6's line of a number: the spec does not give it (R400; log entry 110). -/
opaque lpddrLine : Nat → Nat

/-- Line i of the page that firmware finds behind a backing tag (R334, R342; log entry 18). -/
opaque backing : Nat → Nat → BitVec 1024

/-- DRAM channel of a line; the interleaving of an island's channels is not in the spec (log entry 19). -/
opaque dramChannel : Nat → Nat
/-- A byte of host memory, by the counter and its host physical address (R403; log entry 7). -/
opaque hostByte : Nat → Nat → Byte

/-- Reference ticks of one microsecond (R11: one tick is 1/6.8 ns). -/
def usTicks : Nat := 6800
/-- Control interval (R377). -/
def intervalTicks : Nat := 340000
/-- End of the pad (R26). -/
def padEnd : Nat := 0x200000
/-- Must-save admission limit MSL (R364). -/
def mslBytes : Nat := 37748736
/-- Seats of the store-withholding buffer (R139). -/
def wstMax : Nat := 96

end Sys2Proof.Config
end

