-- ==== Sys2Proof/Machine/State.lean ====
section
/-! DEFINITION. The state of the device as plain data, the reasons a step can stop, and the state after reset. -/

namespace Sys2Proof.Machine

/-- A round, as it is held (R36, R262). -/
abbrev Round := BitVec 48

/-! Registers of a core. -/

/-- Clock domains of a core (R8, R11). -/
inductive Dom where
  | ctl | vec | mtx | cpy
  deriving DecidableEq, Repr

/-- One divisor for each domain, 3 to 16 (R12, R24). -/
structure Divs where
  ctl : Nat
  vec : Nat
  mtx : Nat
  cpy : Nat
  deriving DecidableEq, Repr

/-- LoopMode (R111). -/
inductive LoopMode where
  | idle | modulo | stepRun | stepWait
  deriving DecidableEq, Repr

/-- A work item: identifier and pennant (R32). -/
structure Item where
  wid : W64
  pen : BitVec 16
  /-- MODEL: pushing core and issue order of its push, whose earlier accesses the puller's later ones follow, and those that the
  pushing core itself still had to follow then (R219, R221, R249). -/
  src : List (CoreId × Nat)
  deriving DecidableEq, Repr

/-- The registers that a rollback restores: the duplicate register set (R87, R116, R175, R216, R231). -/
structure Regs where
  /-- s0 to s63 (R13). -/
  s : Vector W64 64
  /-- va0 to va31 and vb0 to vb31 (R13), physical. -/
  va : Vector VWord 32
  vb : Vector VWord 32
  /-- p0 to p15 (R13), physical. -/
  p : Vector W64 16
  /-- m0 to m7 (R147). -/
  m : Vector W64 8
  /-- n0 to n15 (R17). -/
  n : Vector (BitVec 512) 16
  /-- fst [7:0] (R22). -/
  fst : Byte
  /-- rot.VB and rot.PB (R23). -/
  rotV : BitVec 4
  rotP : BitVec 3
  /-- lct and lsc (R21). -/
  lct : W64
  lsc : W64
  /-- Loop state (R111). -/
  mode : LoopMode
  bodyStart : W64
  bodyLen : Nat
  pos : Nat
  /-- MODEL: the last body bundle has issued and Advance runs at the boundary that follows (R105). -/
  adv : Bool
  /-- Address of the next bundle to issue; the pc of R21 once it issues. -/
  pc : W64
  /-- wid and pen (R21). -/
  wid : W64
  pen : BitVec 16
  /-- Held item (R219). -/
  held : Option Item
  /-- Requested divisors (R228). -/
  req : Divs
  /-- Phase number (R237). -/
  phase : Byte
  /-- Edge scale latch blocks (R163). -/
  scale : Vector Byte 16
  /-- Issue-time copy of the entry valid bits (R149). -/
  entryOk : BitVec 256
  /-- Rr and F by region (R188). -/
  rr : Tbl Round
  fl : Tbl Round
  /-- Tentative read count Rt of q1 to q15 (R202). -/
  ringRt : Vector Nat 16
  /-- Poisoned vector registers, with the bundle that produced each, and the code of the unit that detected the error (R381, R382, R386). -/
  poison : List (Cluster × BitVec 5 × W64 × Nat)
  /-- The same of the blocks of the edge scale latch (R163, R381). -/
  scBad : List (BitVec 4 × W64 × Nat)
  deriving DecidableEq, Repr

/-- Register values at reset and at bind (R12, R13, R14, R148, R163, R188). -/
def Regs.init : Regs where
  s := .replicate 64 0
  va := .replicate 32 0
  vb := .replicate 32 0
  p := (Vector.replicate 16 0).set 0 (BitVec.allOnes 64)
  m := .replicate 8 0
  n := .replicate 16 0
  fst := 0
  rotV := 0
  rotP := 0
  lct := 0
  lsc := 0
  mode := .idle
  bodyStart := 0
  bodyLen := 0
  pos := 0
  adv := false
  pc := 0
  wid := 0
  pen := 0
  held := none
  req := ⟨4, 4, 4, 4⟩
  phase := 0
  scale := .replicate 16 128
  entryOk := 0
  rr := []
  fl := []
  ringRt := .replicate 16 0
  poison := []
  scBad := []

/-- What a delivery writes (R7 Deliver). Register numbers are physical (R16). -/
inductive Eff where
  | s (d : BitVec 6) (v : W64)
  | v (cl : Cluster) (d : BitVec 5) (v mask : VWord)
  | p (d : BitVec 4) (v mask : W64)
  /-- Flags ORed into fst (R47). -/
  | flags (b : Byte)
  | fst (b : Byte)
  | rot (v : BitVec 4) (p : BitVec 3)
  | lct (v : W64)
  | lsc (v : W64)
  | m (i : BitVec 3) (v mask : W64)
  | nest (k : BitVec 4) (w : BitVec 3) (v : W64)
  /-- Rr := Rr + 1 (R190). -/
  | radv (r : Nat)
  /-- Rr and F raised to P (R190). -/
  | racq (r : Nat) (p : Round)
  /-- Ring n created with S slots of T bytes (R202). -/
  | ring (n : BitVec 4) (slots target : Nat)
  | item (wid : W64) (pen : BitVec 16)
  /-- A vector register becomes poisoned; the bundle that produced it, and the unit that detected the error (R381, R382, R386). -/
  | mark (cl : Cluster) (d : BitVec 5) (badr : W64) (unit : Nat)
  /-- A push runs: stage, status register, identifier, pennant (R221). -/
  | push (st : BitVec 3) (d : BitVec 6) (w : W64) (pen : BitVec 16)
  deriving DecidableEq, Repr

/-- A delivery in flight: the domain and the latency of its operation, the tick at which the result is ready, and the
issue order of its slot (bundle number times 8 plus slot). -/
structure Delivery where
  dom : Dom
  lat : Nat
  ready : Nat
  seq : Nat
  eff : Eff
  deriving DecidableEq, Repr

/-! Operations of the memory path. -/

/-- Atomic operations (R192). -/
inductive AmoOp where
  | add | and | or | xor | min | max | minn | maxn | swp | cas
  deriving DecidableEq, Repr

/-- What a counted operation does (R25, R181). -/
inductive CopKind where
  /-- Load of z bytes (R180, R184). -/
  | load (signed : Bool)
  /-- Bounded load: bound, region, and the threshold taken at issue; none for one that an acquire holds (R191, R258). -/
  | bounded (signed : Bool) (k r : Nat) (thr : Option Round)
  /-- Load of a page that is not resident (R180). -/
  | absent
  | amo (op : AmoOp) (b c : W64)
  | rpub (r : Nat)
  | racq (r : Nat)
  | rrnd (r : Nat)
  | barr (b : BitVec 8) (n : Nat) (tok : BitVec 6) (gen : Nat)
  | launch (addr : W64)
  | lpoll (h : BitVec 32)
  /-- Range, the accesses that were translated through it, and the translations of it that copies hold: core, virtual
  base, bytes, physical base (R340). -/
  | xlinv (cx : BitVec 7) (lo hi : Nat) (old : List (CoreId × Nat)) (held : List (CoreId × Nat × Nat × Nat))
  | purge (cx : BitVec 7) (pen : BitVec 16)
  | stest (unit : BitVec 16)
  deriving DecidableEq, Repr

/-- Spaces of R30. -/
inductive Sp where
  | glob | pad | stg
  deriving DecidableEq, Repr

/-- An access on its way: the context whose tables translated it (R340); when it arrived at its slice, in the order of all
arrivals (R349); the widest scope at which a later access of its core has gone ahead of it (R248); the class of its line (R343),
whether its page is shared with the host, and the tick at which the host has answered (R344). -/
structure Trip where
  cx : Option (BitVec 7)
  /-- It lies in a region of its core's launch (R37). -/
  reg : Bool
  arr : Option Nat
  past : Option (BitVec 2)
  cls : BitVec 2
  hs : Bool
  host : Option Nat
  deriving DecidableEq, Repr

def Trip.init : Trip := ⟨none, false, none, none, 0, false, none⟩

/-- A counted operation. `val` is its result once it has performed. -/
structure Cop where
  id : Nat
  seq : Nat
  kind : CopKind
  dst : BitVec 6
  /-- Physical predicate cleared by an absent page. -/
  pj : BitVec 4
  sp : Sp
  /-- Virtual address, and key of the first cell (R332; see Machine/Cells). -/
  va : W64
  addr : Nat
  z : Nat
  /-- Acquire and release order at a scope (R184, R192). -/
  acq : Bool
  rel : Bool
  scp : BitVec 2
  /-- Result, with the predicate write that goes with it. -/
  val : Option (W64 × Bool)
  trip : Trip
  /-- Address of its bundle. -/
  badr : W64
  deriving DecidableEq, Repr

/-- A withheld or released store (R139, R182, R184): the cells it writes. -/
structure Sto where
  id : Nat
  seq : Nat
  sp : Sp
  va : W64
  cells : List Host.Cell
  entries : Nat
  rel : Bool
  scp : BitVec 2
  /-- The bytes are poisoned: the unit that detected the error (R381, R382). -/
  bad : Option Nat
  trip : Trip
  deriving DecidableEq, Repr

/-- MODEL: a pad access that has taken place at its fixed time while older accesses that come before it were still to perform: the
core's engines keep away from its bytes until those have (R246; log entry 79). Issue orders of the older ones. -/
structure Early where
  seq : Nat
  ld : Bool
  st : Bool
  lo : Nat
  z : Nat
  acq : Bool
  rel : Bool
  scp : BitVec 2
  olds : List Nat
  deriving DecidableEq, Repr

/-- A fence in force: accesses issued before `seq` against those after it (R193). -/
structure Fence where
  seq : Nat
  ordr : BitVec 4
  scp : BitVec 2
  spc : BitVec 3
  deriving DecidableEq, Repr

/-- A token: how many producers it has had, whether the last is pending, and whether that one was purged (R20, R194). -/
structure Tok where
  gen : Nat
  pending : Bool
  purged : Bool
  /-- Kind of the last producer, for R394: 0 other, 1 copy to the column store, 2 drain. -/
  src : Nat
  deriving DecidableEq, Repr

/-- Consumed tokens with the producer count that each waits for (R194). -/
abbrev Deps := List (BitVec 6 × Nat)

/-- An uncommitted pull or retire (R220). -/
structure Pop where
  seq : Nat
  isPull : Bool
  item : Item
  deriving DecidableEq, Repr

/-- A copy ring (R19, R202 to R205). -/
structure Ring where
  created : Bool
  slots : Nat
  target : Nat
  w : Nat
  rc : Nat
  arrived : Tbl Nat
  zf : List Nat
  /-- Releases since the last checkpoint (R204). -/
  rels : Nat
  /-- Accepted copies and bclats that name the ring and are not complete (R202). -/
  users : Nat
  deriving DecidableEq, Repr

/-! The matrix paths. -/

/-- Operations of the matrix paths (R144). -/
inductive MxKind where
  | mcall (e : BitVec 8) (lat : BitVec 3) (acc : BitVec 2) (ck ovw : Bool)
  | lload (i : BitVec 3) (lat : BitVec 3)
  | drain (i : BitVec 3) (acc : BitVec 2) (ck clr : Bool)
  | azero (acc : BitVec 2)
  | epicfg (i : BitVec 3)
  | cksnap (i : BitVec 3) (acc : BitVec 2)
  | mpld (a : Nat) (b w : Nat)
  | mpent (e : BitVec 8) (v : BitVec 11)
  deriving DecidableEq, Repr

/-- A matrix operation with its snapshot of m0 to m7 (R146). -/
structure MxOp where
  seq : Nat
  badr : W64
  kind : MxKind
  mp : Vector W64 8
  tok : BitVec 6
  gen : Nat
  deps : Deps
  deriving DecidableEq, Repr

/-- Routine state (R151); micro-operations executed; control operations in a row (R153); cycles left after this one of
what holds the array, whether they are active ones (R272), and whether they only lead to an operation (R153); control
operations run ahead of the array; an array operation has run; matrix cycles since its last array cycle (R157); flags. -/
structure Routine where
  op : MxOp
  pc : Nat
  fa : ElemTy
  fb : ElemTy
  es : Bool
  lat : BitVec 3
  acc : BitVec 2
  ck : Bool
  lk : BitVec 16
  bk : BitVec 16
  l0 : BitVec 16
  l1 : BitVec 16
  nr : Nat
  nc : Nat
  ops : Nat
  ctl : Nat
  left : Nat
  active : Bool
  lead : Bool
  ahead : Bool
  ran : Bool
  since : Nat
  flags : Byte
  deriving DecidableEq, Repr

/-- What holds the array (R144). -/
inductive ARun where
  | idle
  | call (r : Routine)
  | azero (op : MxOp) (left : Nat)
  deriving DecidableEq, Repr

/-- Checksum state of an accumulator (R169): h, g by column as FP32 patterns, step count, valid, every step i8, and
whether an operand was infinite or NaN (R170). -/
structure Check where
  h : Tbl (BitVec 32)
  g : Tbl (BitVec 32)
  steps : Nat
  valid : Bool
  allI8 : Bool
  special : Bool
  deriving DecidableEq, Repr

/-- Carried record of an accumulator (R171, R173, R201): q by column, outcome bits, shape, and the drain's destination. -/
structure Carry where
  q : Tbl (BitVec 32)
  out : BitVec 5
  nrw : BitVec 7
  ncl : BitVec 7
  ot : BitVec 4
  spc : BitVec 3
  adr : BitVec 27
  deriving DecidableEq, Repr

/-- A scale write in flight (R164): edge at which it begins, cycles left before it lands, issue order, operation, block,
value, and the pad byte that it reads at its edge; its bundle, and the unit that detected the error of a poisoned pad byte (R381). -/
structure ScaleWr where
  at_ : Nat
  left : Nat
  seq : Nat
  op : BitVec 3
  blk : BitVec 4
  val : Byte
  src : Option Nat
  badr : W64
  bad : Option Nat
  deriving DecidableEq, Repr

/-- Slew state of an array (R272 to R274). -/
inductive Slew where
  | cold
  /-- A grant is requested. -/
  | asked
  /-- A grant is taken at the next matrix edge, under the parameters of its slot (R380). -/
  | granted (slr : W64)
  /-- Up window: level, cycle within it, allowances after it, the whole list of them, and the cycles of a window. -/
  | up (level pos : Nat) (rest ups : List Nat) (step : Nat)
  /-- Down window: allowance, cycle within it, the up allowances that a restart uses, and the cycles of a window. -/
  | down (level pos : Nat) (ups : List Nat) (step : Nat)
  deriving DecidableEq, Repr

/-- A translation held by a core or copy unit: context, virtual base, size in bytes, physical base, writable, executable,
dirty, shared with the host, class (R334, R337). -/
structure Xlat where
  cx : BitVec 7
  va : Nat
  size : Nat
  pa : Nat
  w : Bool
  x : Bool
  d : Bool
  hs : Bool
  cls : BitVec 2
  deriving DecidableEq, Repr

/-! The copy units. -/

inductive CopyKind where
  | cpy | cpset
  deriving DecidableEq, Repr

/-- A copy command (R17, R197). -/
structure CopyCmd where
  id : Nat
  seq : Nat
  badr : W64
  kind : CopyKind
  nest : BitVec 512
  ring : BitVec 4
  /-- First stream position in the ring (R203). -/
  w0 : Nat
  tok : BitVec 6
  gen : Nat
  deps : Deps
  bnd : Option Nat
  scp : BitVec 2
  /-- Accumulator whose carried record goes with it, and that record (R201). -/
  carry : Option (Nat × Carry)
  deriving DecidableEq, Repr

/-- Why a copy stands still. -/
inductive Pause where
  /-- A page that is not resident or not writable (R198). -/
  | page (va : W64)
  /-- The stall policy on a line of a region (R199). -/
  | region (r : Nat)
  deriving DecidableEq, Repr

/-- A copy that has begun: next walk position, held page translations, and pause. -/
structure CopyRun where
  cmd : CopyCmd
  x : Nat
  /-- Held translations, page of the source and of the destination: virtual page base, page bytes, physical base (R198). -/
  srcPg : Option (Nat × Nat × Nat)
  dstPg : Option (Nat × Nat × Nat)
  pause : Option Pause
  /-- Slack left, in copy cycles (R305), and how often the copy has paused. -/
  slack : Nat
  pauses : Nat
  /-- Sums q' of R201. -/
  q : Tbl (BitVec 32)
  /-- Bytes that have been read and not been written, so that each 4-byte piece is read and written whole: walk position, byte,
  poison (R161, R244, R381). -/
  part : List (Nat × Byte × Option Nat)
  /-- The copy ends at its next 64-byte piece (R368, R383). -/
  stop : Bool
  /-- Class and sharing of the held pages (R343, R344), and the lines for which the host has answered. -/
  srcX : BitVec 2 × Bool
  dstX : BitVec 2 × Bool
  asked : List Nat
  deriving DecidableEq, Repr

/-- A copy unit: elastic buffer, the command that moves bytes, the commands whose writes are all issued or that are
paused behind one that went ahead (R197, R303, R305), and the translation buffer (R337). -/
structure CopyUnit where
  buf : List CopyCmd
  run : Option CopyRun
  side : List CopyRun
  tlb : List Xlat
  deriving DecidableEq, Repr

/-- A bus driver or latcher (R206, R207). -/
structure BusOp where
  id : Nat
  seq : Nat
  drive : Bool
  ch : BitVec 2
  nest : BitVec 512
  total : Nat
  b0 : Nat
  ring : BitVec 4
  w0 : Nat
  tok : BitVec 6
  gen : Nat
  deps : Deps
  /-- Copy cycles that the pad's third port has cost a latcher (R26). -/
  lag : Nat
  /-- MODEL: bytes that a latcher has taken and may not write yet, with their stream positions and poison (log entry 79). -/
  late : List (Nat × Host.Cell × Option Nat)
  deriving DecidableEq, Repr

/-! A core. -/

/-- What a core is doing (R223, R231, R233, R238, R330). -/
inductive Run where
  | unbound
  | running
  /-- Stopped by a trap that rolled back, with the cause (R231). -/
  | trapped (cause : Byte)
  /-- Stopped without rollback (R238, R239, R391). -/
  | stopped (cause : Byte)
  /-- At a safe point, waiting for its operations and then unbound; what it holds is saved first if its pre-emption is
  requested (R223, R233, R363). -/
  | saving
  /-- Compute-core clocks stopped by the hold-up sequence (R368). -/
  | dark
  deriving DecidableEq, Repr

/-- The ring of a loop walk is not kept; a line of the instruction fetch buffer is a virtual fetch line and its bytes. -/
structure FetchLine where
  va : Nat
  data : BitVec 512
  /-- Its bytes are poisoned: the code of the unit that detected the error (R382, R387). -/
  bad : Option (BitVec 16)
  deriving DecidableEq, Repr

/-- A trap record (R358). -/
structure Rec where
  slot : BitVec 3
  pen : BitVec 16
  ctx : BitVec 7
  core : BitVec 7
  kind : BitVec 2
  cause : Byte
  badr : W64
  cyc : W64
  fadr : W64
  dtl : W64
  res : W64
  /-- Bytes 0x38 to 0x3F: the purge count of R383. -/
  last : W64
  /-- Address of the table entry at which a walk ended that the record reports (R336). The 64 bytes of R358 have no place for it: DEDUCED
  (log entry 119). -/
  entry : Nat
  deriving DecidableEq, Repr

/-- A marked bundle (R393): its number and address, fetch and hold cycles, hold cause, cyc at issue, and whether a rollback
undid it. -/
structure Sample where
  num : Nat
  badr : W64
  fetch : Nat
  held : Nat
  cause : Nat
  start : Nat
  undone : Bool
  deriving DecidableEq, Repr

structure CoreSt where
  r : Regs
  /-- Duplicate register set and the last slot order that it covers (R230, R231). -/
  ck : Regs
  ckSeq : Nat
  run : Run
  /-- Context, launch pool entry, stage, and the launch's registers (R21). -/
  ctx : BitVec 7
  launch : Option Nat
  stg : BitVec 3
  wfw : W64
  sfi : W64
  /-- Schedule cycle (R21), cycles since the last safe point (R234), and whether that interval's trap is raised. -/
  cyc : Nat
  since : Nat
  overrun : Bool
  /-- Effective divisors and the boundary that the domains count from (R11, R24). -/
  div : Divs
  base : Nat
  /-- Number of the next bundle; it only grows. -/
  seq : Nat
  /-- Control cycles in which no bundle issues: the two of a taken transfer (R101), the one of a forced checkpoint. -/
  gap : Nat
  /-- The forced checkpoint before the next bundle has been taken (R232). -/
  forced : Bool
  /-- Cycles for which the next bundle has been held, with the last cause (R9, R393). -/
  heldFor : Nat
  heldBy : Nat
  /-- Cycles for which the next bundle is still held by its fetch or by the page walker, with the cause of R393: 0 fetch, 2 the
  walker (R66, R179). -/
  wait : Nat
  waitBy : Nat
  /-- The present hold for a full elastic buffer has been counted (R303). -/
  bufFull : Bool
  /-- Bundle of the first pull that reported closed, or empty, since the last item (R223). -/
  pullClosed : Option Nat
  pullEmpty : Option Nat
  pend : List Delivery
  loads : List Cop
  /-- Withheld stores, released stores not yet performed (R139, R182). -/
  wst : List Sto
  sto : List Sto
  fences : List Fence
  early : List Early
  /-- MODEL: pulls whose items carry a release: order of the pull, pushing core, order of its push (R219, R249). -/
  after : List (Nat × CoreId × Nat)
  /-- ocn.CPC and ocn.TIL (R25). -/
  cpc : Nat
  til : Nat
  wmx : List MxOp
  pops : List Pop
  /-- Trap or stop record that is posted once every kept delivery has landed (R231, R239). -/
  rec_ : Option Rec
  tok : Vector Tok 64
  ring : Vector Ring 16
  codeBase : W64
  dict : List (BitVec 384)
  /-- Switch table: variants present, points per variant, entry 3i + v (R310). -/
  swVpr : BitVec 3
  swCnt : Nat
  sw : Tbl (BitVec 32)
  granted : BitVec 2
  /-- Microprogram store and routine entry table (R148). -/
  ustore : Tbl (BitVec 32)
  uentry : Tbl Nat
  /-- Poisoned microwords, with the bundle that loaded each and the unit that detected the error (R381). -/
  ubad : List (Nat × W64 × Nat)
  /-- Queues of the latch, array and drain path, and what runs on each: a drain with its output and flags (R144, R168). -/
  lq : List MxOp
  aq : List MxOp
  dq : List MxOp
  lrun : Option MxOp
  arun : ARun
  /-- Tick up to which the last array cycle of an operation that has left the array lasts (R273), and the context whose matrix
  bundle started the last one (R274). -/
  arbTo : Nat
  arrCtx : BitVec 7
  /-- Bundle of the last lload into each latch, and of the last routine, azero or clearing drain that wrote each accumulator
  (R382). -/
  latBy : Vector W64 8
  accBy : Vector W64 4
  drun : Option (MxOp × List Host.Cell × Byte)
  /-- Array operations past their last array cycle, oldest first, with their flags (R157, R166). -/
  tail : List (MxOp × Byte)
  slew : Slew
  /-- mstat FC, FA, RIX (R150). -/
  fc : BitVec 4
  fa : BitVec 10
  rix : BitVec 8
  /-- The array path takes nothing until the routine fault has been handled (R159). -/
  astop : Bool
  /-- A routine fault whose trap is due at the next bundle boundary: the mcall (R159). -/
  mxTrap : Option MxOp
  /-- An address fault of a running copy, hoist or sight whose trap is due at the next bundle boundary: address and level (R336). -/
  xlTrap : Option (W64 × Nat)
  epi : W64
  check : Vector Check 4
  carry : Vector Carry 4
  /-- ckst counters (R174). -/
  cks : Vector W64 4
  scw : List ScaleWr
  /-- Copy units 0 and 1, and the bus operations in flight. -/
  cu0 : CopyUnit
  cu1 : CopyUnit
  bus : List BusOp
  /-- Banks whose third port an engine access has taken: copy cycle and bank (R26). -/
  ports : List (Nat × Nat)
  /-- Last vector edge taken by clusters A and B, and last matrix edge taken by the scale slot (R115, R164). -/
  lastA : Option Nat
  lastB : Option Nat
  lastSc : Option Nat
  /-- Line cache (R347): lines held, most recent first. A held line reads as the island's copy does: it is clean, and a
  store drops it before it performs (R349). -/
  lc : List Nat
  tlb : List Xlat
  ifb : List FetchLine
  /-- Invalidation asks for the withheld stores (R340). -/
  invReq : Bool
  /-- 0x1400 + core and 0x1420 + core (R363, R390). -/
  preempt : Bool
  /-- Save slot that the core has taken at its safe point (R363). -/
  saveTo : Option Nat
  dbgEn : Bool
  dbgStop : Bool
  dbgStep : Bool
  /-- Step stop (R390): 0 none, 1 to be taken once a bundle has issued, 2 due at the next boundary. -/
  stepArm : Nat
  /-- An eret in mode 0 has been given, and the core goes on once its record has found a slot (R357, R360). -/
  resumeDue : Bool
  /-- Telemetry doublewords (R395). -/
  tele : Tbl Nat
  /-- Table of R394, last charged first: bundle address, and cycles by class. -/
  mclass : List (W64 × List Nat)
  /-- Tick of the last matrix cycle that has been put into a class. -/
  mlast : Nat
  /-- Bundle address of the last released array-path operation (R394). -/
  lastArr : W64
  /-- Serial number of the next operation of this core. -/
  nid : Nat
  /-- The bundles that sampling has marked, until their records are written (R393). -/
  samples : List Sample
  /-- Fetch cycles of the next bundle (R66, R393). -/
  fetchFor : Nat
  /-- The core was taken in the background, and its time is not counted in its queue's USED (R328). -/
  bg : Bool
  deriving DecidableEq, Repr

def Tok.init : Tok := ⟨0, false, false, 0⟩
def Ring.init : Ring := ⟨false, 0, 0, 0, 0, [], [], 0, 0⟩
def Check.init : Check := ⟨[], [], 0, false, true, false⟩
def Carry.init : Carry := ⟨[], 0, 0, 0, 0, 0, 0⟩
def CopyUnit.init : CopyUnit := ⟨[], none, [], []⟩

/-- A core after reset (R12, R14, R317: cores are unbound). -/
def CoreSt.init : CoreSt where
  r := Regs.init
  ck := Regs.init
  ckSeq := 0
  run := .unbound
  ctx := 0
  launch := none
  stg := 0
  wfw := 0
  sfi := 0
  cyc := 0
  since := 0
  overrun := false
  div := ⟨4, 4, 4, 4⟩
  base := 0
  seq := 1
  gap := 0
  forced := false
  heldFor := 0
  heldBy := 0
  wait := 0
  waitBy := 0
  bufFull := false
  pullClosed := none
  pullEmpty := none
  pend := []
  loads := []
  wst := []
  sto := []
  fences := []
  early := []
  after := []
  cpc := 0
  til := 0
  wmx := []
  pops := []
  rec_ := none
  tok := .replicate 64 Tok.init
  ring := .replicate 16 Ring.init
  codeBase := 0
  dict := []
  swVpr := 0
  swCnt := 0
  sw := []
  granted := 0
  ustore := []
  uentry := []
  ubad := []
  lq := []
  aq := []
  dq := []
  lrun := none
  arun := .idle
  arbTo := 0
  arrCtx := 0
  latBy := .replicate 8 0
  accBy := .replicate 4 0
  drun := none
  tail := []
  slew := .cold
  fc := 0
  fa := 0
  rix := 0
  astop := false
  mxTrap := none
  xlTrap := none
  epi := 0x80
  check := .replicate 4 Check.init
  carry := .replicate 4 Carry.init
  cks := .replicate 4 0
  scw := []
  cu0 := CopyUnit.init
  cu1 := CopyUnit.init
  bus := []
  ports := []
  lastA := none
  lastB := none
  lastSc := none
  lc := []
  tlb := []
  ifb := []
  invReq := false
  preempt := false
  saveTo := none
  dbgEn := false
  dbgStop := false
  dbgStep := false
  stepArm := 0
  resumeDue := false
  tele := []
  mclass := []
  mlast := 0
  lastArr := 0
  nid := 0
  samples := []
  fetchFor := 0
  bg := false

/-! An island. -/

/-- MOESI state of an island's copy of a remote line, with Rg of region lines (R349, R350). -/
inductive LineSt where
  | M | O | E | S | Rg
  deriving DecidableEq, Repr

/-- An island's copy of a line: state, data, for a region line its fill round and region (R36, R349), and the key slot that tags it; a
line that a management core has filled is tagged with none (R345; log entry 8). -/
structure Copy where
  st : LineSt
  data : BitVec 1024
  round : Round
  key : Nat
  tag : Option (BitVec 7 × BitVec 512)
  deriving DecidableEq, Repr

/-- State of a home directory entry (R350). -/
inductive DirSt where
  | S | E | M | O
  deriving DecidableEq, Repr

/-- What the home waits for before the busy flag falls (R352 to R354). -/
structure Busy where
  /-- Requester; the home itself when it equals the home island. -/
  req : Isl
  /-- Sharers whose Ack is awaited. -/
  acks : List Isl
  /-- Go is owed once the acks are in, and no data goes with it (Upg). -/
  go : Bool
  up : Bool
  /-- The owner supplies the line, for FwdO if true. -/
  fwd : Option Bool
  /-- Victim of a back-invalidation: answers awaited. -/
  back : List Isl
  /-- The home itself has installed the line that it asked for (R352). -/
  inst : Bool
  deriving DecidableEq, Repr

/-- A home directory entry (R350): state, owner, sharers, busy, recency. -/
structure DirEnt where
  st : DirSt
  owner : Isl
  share : List Isl
  busy : Option Busy
  used : Nat
  /-- A writeback that crossed a forward (R355). -/
  wb : Option (Isl × BitVec 1024)
  deriving DecidableEq, Repr

/-- A request that waits at the home (R352, R354): 0 RdS, 1 RdO, 2 Upg. -/
structure HomeReq where
  line : Nat
  y : Isl
  kind : Fin 3
  deriving DecidableEq, Repr

/-- A line that an island has asked for: whether Go must come, data with its grant, Go seen (R352). -/
structure Mshr where
  line : Nat
  wantM : Bool
  wait : Bool
  data : Option (Grant × BitVec 1024)
  go : Bool
  deriving DecidableEq, Repr

/-- A line of an island's shelf: its class, the key slot that tags it, none for one that a management core has filled, and whether
memory lacks it (R343, R345; log entry 8). -/
structure ShelfLine where
  line : Nat
  cls : BitVec 2
  slot : Option (BitVec 7 × BitVec 512)
  dirty : Bool
  deriving DecidableEq, Repr

/-- A table entry that a walker holds: context, level and index path of the entry, and the table that it names (R337). -/
structure WalkEnt where
  cx : BitVec 7
  lvl : Nat
  path : Nat
  next : Nat
  deriving DecidableEq, Repr

/-- A page-in request (R186). -/
structure PgReq where
  cx : BitVec 7
  page : Nat
  pen : BitVec 16
  deriving DecidableEq, Repr

/-- An operating point: level and floors (R371). -/
structure Opp where
  vl : Nat
  fl : Divs
  deriving DecidableEq, Repr

structure IslandSt where
  /-- RQB, RQH, RQT, RQD, next record sequence number, records that wait (R357). -/
  rqb : W64
  rqh : Byte
  rqt : Byte
  rqd : W64
  rsn : Nat
  waiting : List Rec
  pgq : List PgReq
  /-- Key words (R345), SHQ (R343), CUT (R368). -/
  keyw : BitVec 512
  shq : W64
  cut : W64
  /-- OPM, OPS (R372, R373). -/
  opPend : Option Opp
  opMove : Option Opp
  rpl : Nat
  ign : Nat
  trp : Bool
  vl : Nat
  floor : Divs
  /-- OPMD, GOV, LIM, PLS, SLR, OPTI, OPTD0, OPTD1 (R374 to R380). -/
  opmd : BitVec 2
  gov : W64
  lim : W64
  pl : Nat
  vman : Bool
  vtb : BitVec 16
  slr : W64
  /-- Parameters of the limiter until its next grant slot, and the tick of that slot (R380). -/
  slrOld : W64
  slrFrom : Nat
  opti : BitVec 10
  optd0 : W64
  optd1 : W64
  /-- Limit divisors (R377), the sensor reading and current of the interval before, as inputs. -/
  dth : Nat
  dcur : Nat
  /-- Governor window: intervals counted, I, M and S cycles (R375). -/
  govN : Nat
  govI : Nat
  govM : Nat
  govS : Nat
  /-- The mode has changed within an interval: the window begins with the next one (log entry 16). -/
  govWait : Bool
  /-- Fence masks 0x1C00 to 0x1C03 (R389). -/
  fcore : BitVec 32
  fslice : BitVec 32
  fstrait : BitVec 4
  fdram : BitVec 16
  /-- TRB, TRW, TRR and dropped trace records (R392). -/
  trb : W64
  trw : Nat
  trr : W64
  trDrop : Nat
  /-- Status bit for a misdirected command (R241). -/
  misdir : Bool
  /-- Shelf and offshore copies of remote lines and Rg copies; write-back buffer; requests in flight (R349, R350, R355). -/
  copies : Tbl Copy
  wbuf : Tbl (BitVec 1024)
  mshr : List Mshr
  /-- Home directory and its queues (R350, R352). -/
  dir : Tbl DirEnt
  hq : List HomeReq
  /-- Directory filters by agent and set (R348): key agent * 64 + set. -/
  filt : Tbl W64
  /-- Lines in the shelf, most recent first (R343); table entries that the page walker holds (R337). -/
  shelf : List ShelfLine
  wc : List WalkEnt
  /-- Round tables: key context * 4096 + region (R36). -/
  rounds : Tbl Round
  /-- Barrier views: key context * 256 + barrier (R214). -/
  views : Tbl (BitVec 32)
  tele : Tbl Nat
  /-- Self-tests in progress and waiting: unit, requester core and operation (R388). -/
  tests : List (BitVec 16 × Option (CoreId × Nat))
  deriving DecidableEq, Repr

/-- An island after reset (R343, R357, R371 to R380). -/
def IslandSt.init : IslandSt where
  rqb := 0
  rqh := 0
  rqt := 0
  rqd := 0
  rsn := 1
  waiting := []
  pgq := []
  keyw := 0
  shq := 0xCCCC
  cut := 0
  opPend := none
  opMove := none
  rpl := 0
  ign := 0
  trp := false
  vl := 6
  floor := ⟨4, 4, 4, 4⟩
  opmd := 0
  gov := 0x32C060
  lim := 720
  pl := 6
  vman := false
  vtb := 0x05AA
  slr := 0x248D10110
  slrOld := 0x248D10110
  slrFrom := 0
  opti := 0
  optd0 := 0
  optd1 := 0xFFFFFFC404040400
  dth := 4
  dcur := 4
  govN := 0
  govI := 0
  govM := 0
  govS := 0
  govWait := false
  fcore := 0
  fslice := 0
  fstrait := 0
  fdram := 0
  trb := 0
  trw := 0
  trr := 0
  trDrop := 0
  misdir := false
  copies := []
  wbuf := []
  mshr := []
  dir := []
  hq := []
  filt := []
  shelf := []
  wc := []
  rounds := []
  views := []
  tele := []
  tests := []

/-! The device. -/

/-- A scheduling queue (R327, R328): registers, values that wait for a period boundary, and the period in progress. -/
structure SchedQ where
  ctx : BitVec 7
  irq : Bool
  hold : Bool
  en : Bool
  per : Nat
  bud : Nat
  perNext : Nat
  budNext : Nat
  /-- Tick at which the current period started, and its index; none when the periods do not run. -/
  start : Option Nat
  index : Nat
  /-- Core ticks bound in the period; the last tick at which it was brought up to date; trap raised; OVR. -/
  used : Nat
  seen : Nat
  raised : Bool
  ovr : Bool
  deriving DecidableEq, Repr

/-- A saved stage instance (R362, R363): slot, stage, launch pool entry, whether it holds an item, the poison marks of its
vector registers, and the pushes whose accesses its own still follow (R219); the marks of its scale blocks and of its microwords. -/
structure Saved where
  slot : Nat
  stg : Nat
  launch : Nat
  item : Bool
  poison : List (Cluster × BitVec 5 × W64 × Nat)
  src : List (CoreId × Nat)
  scBad : List (BitVec 4 × W64 × Nat)
  ubad : List (Nat × W64 × Nat)
  deriving DecidableEq, Repr

/-- A context's registers (R331, R361). -/
structure Ctx where
  ksl : BitVec 7
  en : Bool
  hwb : W64
  hwl : W64
  hwo : W64
  ptr : W64
  svb : W64
  svn : W64
  err : BitVec 3
  /-- Energy charged, filler energy (R240, R370). -/
  energy : W64
  filler : W64
  /-- Save slots in use (R362). -/
  slots : List Saved
  deriving DecidableEq, Repr

/-- State of a launch (R227). -/
inductive LSt where
  | free | pending | running | complete | purged
  deriving DecidableEq, Repr

/-- A stage of a running launch (R32): entry, capacity, items at the tail end last, items taken and not committed,
range and bounds (R325). -/
structure StageSt where
  entry : W64
  cap : Nat
  q : List Item
  out : Nat
  first : Nat
  last : Nat
  minc : Nat
  maxc : Nat
  swAddr : W64
  deriving DecidableEq, Repr

/-- A region of a launch (R187, R323). -/
structure Region where
  index : Nat
  base : Nat
  len : Nat
  home : Isl
  zero : Bool
  slack : Nat
  deriving DecidableEq, Repr

/-- A must-save entry (R276): kind, address, bytes, register class. -/
structure MsvEnt where
  kind : Nat
  addr : W64
  len : Nat
  cls : Nat
  deriving DecidableEq, Repr

/-- A pool entry: a launch (R226, R321 to R325). -/
structure Launch where
  st : LSt
  sn : BitVec 16
  depth : Nat
  ctx : BitVec 7
  que : BitVec 8
  kid : BitVec 32
  img : W64
  wfw : W64
  sfi : W64
  itm : W64
  nit : Nat
  /-- Initial items appended. -/
  fed : Nat
  pen : BitVec 16
  lst : Bool
  rst : Bool
  hsq : BitVec 32
  stw : Nat
  regions : List Region
  halys : List Nat
  stages : List StageSt
  /-- Image parts: code base, dictionary address and count, routine section and count (R324). -/
  code : W64
  dictA : W64
  dictN : Nat
  rtnA : W64
  rtnN : Nat
  /-- Must-save set: report address, stage, entries, bytes (R276). -/
  msvRep : W64
  msvStg : Nat
  msv : List MsvEnt
  msvLen : Nat
  /-- There is a must-save set, be it empty (R276). -/
  msvOn : Bool
  /-- Lead core (R376), and items finished. -/
  lead : Option CoreId
  done : Nat
  /-- Entry of the operating-point table whose point the phase runs at, with start tick and energy; the phase that was looked up
  last (R376). -/
  opt : Option (Nat × Nat × W64)
  phase : Byte
  deriving DecidableEq, Repr

/-- A halyard slot (R35): its round, pins, writer, and whether it has ever been latest. -/
structure HSlot where
  round : Nat
  pins : Nat
  writer : Option Nat
  written : Bool
  deriving DecidableEq, Repr

/-- A halyard (R34, R35). -/
structure Halyard where
  handle : BitVec 16
  ctx : BitVec 7
  tile : Nat
  slots : List HSlot
  seats : Nat
  inUse : Nat
  round : Nat
  latest : Option Nat
  /-- Ranges of its island's staging that its slots take, as address and length; whether it lies in staging (R209). -/
  store : List (Nat × Nat)
  stg : Bool
  deriving DecidableEq, Repr

/-- A hoist or sight in flight (R210). -/
structure HalOp where
  id : Nat
  core : CoreId
  seq : Nat
  hoist : Bool
  hal : Nat
  sp : Sp
  va : W64
  addr : Nat
  dst : BitVec 6
  tok : BitVec 6
  gen : Nat
  deps : Deps
  /-- Slot taken or pinned; status of a sight; abandoned by R212 or R384. -/
  slot : Option Nat
  status : Nat
  gone : Bool
  /-- Next byte of the tile to move; whether it has begun; tick of its begin, then of the hoist or sight point; the bytes that a hoist
  has read, or the tile that a sight has pinned; the poisoned 64-byte parts of what a hoist has read, with the unit that detected each
  error (R381). -/
  x : Nat
  began : Bool
  t0 : Nat
  buf : List Byte
  bad : Tbl Nat
  /-- Address of its bundle, and whether the management core has the record of the page that it waits for (R198). -/
  badr : W64
  told : Bool
  /-- Held translation of the page that it moves through (R340): virtual base, bytes, physical base; its class and sharing (R343, R344);
  the line for which the host has answered, and the tick of the answer. -/
  pg : Option (Nat × Nat × Nat)
  pgX : BitVec 2 × Bool
  asked : Option (Nat × Nat)
  deriving DecidableEq, Repr

/-- A barrier (R214). -/
structure Barrier where
  g : BitVec 32
  c : Nat
  np : Nat
  mismatch : Nat
  deriving DecidableEq, Repr

/-- A line written under a release: the line, the writer, the scope, the issue order of the release, and whether
its forced publish has been sent (R250). -/
structure Narrow where
  line : Nat
  core : CoreId
  scp : BitVec 2
  seq : Nat
  asked : Bool
  deriving DecidableEq, Repr

/-- A memory key slot (R345). -/
structure KeySlot where
  loaded : Bool
  key : BitVec 512
  deriving DecidableEq, Repr

/-- A purge in progress (R383, R384). -/
structure Purge where
  cx : BitVec 7
  pen : BitVec 16
  /-- Requesters: core and operation; the record of R382 is posted at the completion. -/
  by_ : List (CoreId × Nat)
  rec_ : Option Rec
  count : Nat
  deriving DecidableEq, Repr

/-- Phase of the hold-up sequence (R368). -/
inductive Hold where
  | run | quiesce | save | seal | done
  deriving DecidableEq, Repr

/-- An entry written whole by the save: context, entry number, sequence number, bytes, CRC-32C (R366). -/
structure Commit where
  cx : Nat
  e : Nat
  seqn : Nat
  len : Nat
  crc : BitVec 32
  deriving DecidableEq, Repr

structure DevSt where
  /-- Boot status, steps done, port status (R317), LWB (R319), ADMF (R327), window collisions (R320). -/
  boot : Byte
  bootStep : Nat
  port : Tbl Nat
  lwb : W64
  admf : Bool
  collide : Nat
  sq : Vector SchedQ 256
  cx : Vector Ctx 128
  key : Vector KeySlot 128
  /-- Pending-launch pool (R226): entries that have ever been taken; last shared entry taken. -/
  pool : Tbl Launch
  lastShared : Option Nat
  /-- Pool entries in the order in which they were taken. -/
  order : List Nat
  /-- Launch window slots whose record is being parsed: queue * 16 + slot and the record's status to write (R320). -/
  parsing : Tbl W64
  /-- Producer rounds: key context * 4096 + region (R36). -/
  prod : Tbl Round
  hal : Tbl Halyard
  hops : List HalOp
  barr : Tbl Barrier
  /-- Barrier tokens that wait for a view: core, token, producer count, barrier key, captured generation (R214). -/
  btok : List (CoreId × BitVec 6 × Nat × Nat × BitVec 32)
  /-- Page bias: pages in device bias (R344); BFS; accesses held for a flip. -/
  devBias : List Nat
  bfBusy : Option (Nat × Bool)
  /-- Lines of the page whose back-invalidation the host has not answered (R344). -/
  bfInv : List Nat
  bfDone : Bool
  bfIgn : Nat
  /-- Busy writes (R331). -/
  busyWr : Nat
  prt : Byte
  pcx : Vector W64 4
  msu : Nat
  tsn : Bool
  tsnLive : Bool
  /-- A snapshot has been taken since reset. -/
  tsnTaken : Bool
  /-- Shadow of the telemetry: key core * 32 + k, and 0x2000 + island * 128 + k (R396). -/
  shadow : Tbl Nat
  elw : BitVec 10
  elN : Nat
  /-- Error log: records of 32 bytes (R397). -/
  elog : Tbl (BitVec 256)
  opt : Tbl (W64 × W64)
  optd0 : Tbl W64
  itrBusy : Bool
  itr : W64
  scp : W64
  fwa : W64
  fwAct : Bool
  fwNext : Bool
  fwWhy : Byte
  fwSt : BitVec 2
  fuse : Nat
  /-- Firmware banks as byte lists of at most 16 MiB (R402). -/
  bank0 : List Byte
  bank1 : List Byte
  /-- The identity record, fused at manufacture: hash of the Aznen firmware public key, attestation key pair (R402), and the device
  certificate (R404). -/
  idHash : BitVec 256
  attKey : BitVec 256
  attPub : BitVec 512
  cert : List Byte
  nonce : BitVec 256
  attBusy : Bool
  attDone : Bool
  report : List Byte
  /-- Hold-up sequence (R366 to R369): phase, tick of detection, epoch, half, what the save has written. -/
  hold : Hold
  lossAt : Nat
  epoch : BitVec 32
  half : Bool
  commits : List Commit
  saveCtx : List Nat
  /-- Hold-up sequence number of each context (R277), and the payloads in the hold-up store with the slot and the key that they are
  encrypted under: bytes by offset (R345, R368). -/
  hsq : Tbl Nat
  holdTag : Tbl (Nat × BitVec 7 × BitVec 512)
  /-- The supply has returned before the sequence was done (R368). -/
  supplyBack : Bool
  /-- Energy of the last sequence in uJ, device overhead, module total, reserve available (R240, R370, R398). -/
  heldUj : W64
  overhead : W64
  total : W64
  reserve : W64
  /-- The reserve has measured 160 mJ since reset (R364). -/
  resOk : Bool
  purges : List Purge
  /-- Poisoned 64-byte pieces of storage, cell key / 64, with the unit that detected each error (R381, R382). -/
  poison : Tbl Nat
  /-- An input from outside: pieces whose uncorrectable ECC error no read has met yet (R381, R397). -/
  errs : List Nat
  /-- An input from outside: vector results that will fail their residue check, by core and place in the issue order (R386). -/
  upsets : List (CoreId × Nat)
  /-- An input from outside: flits that fail on a strait, by core and place in the issue order of the access, copy or halyard
  operation, and the number of its 64-byte part; of a fetch by place 7 of its bundle and the code line; of a writeback by its island's
  management core, 7 and the piece (R381). -/
  flits : List (CoreId × Nat × Nat)
  /-- Key slot and key under which a context last wrote a line that is encrypted in memory; the lines themselves are held in
  clear (R345). -/
  lineKey : Tbl (BitVec 7 × BitVec 512)
  /-- MODEL: number of the next arrival at a slice (R349). -/
  arrN : Nat
  /-- Lines written under a release, which an acquire at them may pair with (R250). -/
  narrow : List Narrow
  /-- Leaves of pages that firmware is migrating, by their addresses (R341, R342). -/
  migr : List Nat
  /-- Corrected-error times for R397 kind 1: unit key and tick. -/
  ecc : List (Nat × Nat)
  /-- Host messages signalled: MSI-X vectors raised (R320). -/
  msix : List (BitVec 8)
  /-- Serial number of the next hoist or sight. -/
  nid : Nat
  deriving DecidableEq, Repr

def SchedQ.init : SchedQ := ⟨0, false, false, false, 0, 0, 0, 0, none, 0, 0, 0, false, false⟩

/-- A context after reset: KSL is its own number (R331). -/
def Ctx.init (c : Nat) : Ctx := ⟨BitVec.ofNat 7 c, false, 0, 0, 0, 0, 0, 0, 0, 0, 0, []⟩

def DevSt.init : DevSt where
  boot := 0
  bootStep := 0
  port := []
  lwb := 0
  admf := false
  collide := 0
  sq := .replicate 256 SchedQ.init
  cx := Vector.ofFn fun i => Ctx.init i.val
  key := .replicate 128 ⟨false, 0⟩
  pool := []
  lastShared := none
  order := []
  parsing := []
  prod := []
  hal := []
  hops := []
  barr := []
  btok := []
  devBias := []
  bfBusy := none
  bfInv := []
  bfDone := false
  bfIgn := 0
  busyWr := 0
  prt := 0
  pcx := .replicate 4 0
  msu := 0
  tsn := false
  tsnLive := false
  tsnTaken := false
  shadow := []
  elw := 0
  elN := 0
  elog := []
  opt := []
  optd0 := []
  itrBusy := false
  itr := 0
  scp := 24
  fwa := 0
  fwAct := false
  fwNext := false
  fwWhy := 0
  fwSt := 0
  fuse := 0
  bank0 := []
  bank1 := []
  idHash := Config.fwKeyHash
  attKey := Config.attKey
  attPub := Config.attPub
  cert := Config.certificate
  nonce := 0
  attBusy := false
  attDone := false
  report := []
  hold := .run
  lossAt := 0
  epoch := 0
  half := false
  commits := []
  saveCtx := []
  hsq := []
  holdTag := []
  supplyBack := false
  heldUj := 0
  overhead := 0
  total := 0
  reserve := 0
  resOk := false
  purges := []
  poison := []
  errs := []
  upsets := []
  flits := []
  lineKey := []
  arrN := 0
  narrow := []
  migr := []
  ecc := []
  msix := []
  nid := 0

/-! The whole machine. -/

/-- What the agenda holds: an edge of a core's control clock, a cycle of its matrix clock, what its array does in that cycle, a micro-operation at the array
sequencer, an attempt of a counted operation to perform, the next piece of a copy, or a device step. -/
inductive Due where
  | edge (c : CoreId)
  | mcyc (c : CoreId)
  | array (c : CoreId)
  | micro (c : CoreId)
  | perform (c : CoreId) (id : Nat)
  | piece (c : CoreId) (u : Bool)
  | tile (id : Nat)
  | ev (i : Instr) (a : Arg)
  deriving DecidableEq, Repr

/-- An entry of the agenda: tick, rank among the things due at that tick, and what is due. -/
structure Entry where
  at_ : Nat
  rank : Nat
  due : Due
  deriving DecidableEq, Repr

/-- The bundle being issued: core state that the slots of one bundle share. -/
structure Bundle where
  /-- Address, next sequential address, header flags, number, slot in the order of R8. -/
  adr : W64
  nxt : W64
  ckpt : Bool
  safe : Bool
  slot : BitVec 3
  num : Nat
  /-- It issues in a loop body (R110, R235). -/
  body : Bool
  /-- Target of a taken transfer (NextBundle, R101); whether the scalar slot carries the engine slots (R104). -/
  target : Option W64
  squash : Bool
  /-- A trap has been taken. -/
  trap : Bool
  /-- The scalar operation stops issue after the bundle: cause, FADR (R238, R239). Beside `trap`, poison was met: 0x34 in a
  register, 0x35 in storage, and its FADR (R382). -/
  stop : Option (Byte × W64)
  /-- Poison that was met: the unit that detected the error, and the key of the piece in storage (R382). -/
  met : Option (Nat × Option Nat)
  deriving DecidableEq, Repr

def Bundle.init : Bundle := ⟨0, 0, false, false, 0, 0, false, none, false, false, none, none⟩

structure State where
  /-- Reference ticks since device reset (R5, R11). -/
  tick : Nat
  /-- MODEL: what is due, in the order in which it happens (log entry 2). -/
  agenda : List Entry
  /-- MODEL: counter of the free values (log entry 1). -/
  free : Nat
  /-- MODEL: the core whose bundle or micro-operation is being executed, and that bundle (log entry 3). -/
  cur : CoreId
  bun : Bundle
  /-- MODEL: operands of the device step being made (log entry 3). -/
  arg : Arg
  /-- All byte storage, in canonical form (Machine/Cells). -/
  mem : List Host.Cell
  core : Vector CoreSt 132
  isl : Vector IslandSt 4
  dev : DevSt
  deriving DecidableEq, Repr

/-- Why the machine stops. -/
inductive Fault where
  /-- The hold-up sequence has ended and the supply is gone: the device stops (R368). Raised by step. Safe: the device
  makes no further step either. -/
  | supplyGone
  deriving DecidableEq, Repr

/-- Why a step has no meaning. -/
inductive Refusal where
  /-- The instruction has no meaning yet; raised by its arm of exec. Safe: nothing is claimed of it. -/
  | notModelled (mnemonic : String)
  deriving DecidableEq, Repr

/-- The machine right after reset (R12 to R14, R317): power-good is due, and the first control interval of each island. -/
def State.reset : State where
  tick := 0
  agenda := [⟨0, 0, .ev .powerGood Arg.zero⟩,
    ⟨Config.intervalTicks, 0, .ev .controlInterval { Arg.zero with y := 0 }⟩,
    ⟨Config.intervalTicks, 0, .ev .controlInterval { Arg.zero with y := 1 }⟩,
    ⟨Config.intervalTicks, 0, .ev .controlInterval { Arg.zero with y := 2 }⟩,
    ⟨Config.intervalTicks, 0, .ev .controlInterval { Arg.zero with y := 3 }⟩]
  free := 0
  cur := 0
  bun := Bundle.init
  arg := Arg.zero
  mem := []
  core := .replicate 132 CoreSt.init
  isl := .replicate 4 IslandSt.init
  dev := DevSt.init

end Sys2Proof.Machine
end

