-- ==== Sys2Proof/Machine/Cells.lean ====
section
/-! DEFINITION. Sparse tables, the byte storage and where each part of the device's storage lies in it. -/

namespace Sys2Proof.Machine

/-! Sparse tables. -/

/-- Entry of key k, or the default. -/
def tget {α : Type} (d : α) : Tbl α → Nat → α
  | [], _ => d
  | (a, x) :: r, k => if a = k then x else tget d r k

/-- Put an entry; keys stay rising. -/
def tset {α : Type} : Tbl α → Nat → α → Tbl α
  | [], k, v => [(k, v)]
  | (a, x) :: r, k, v =>
    if a = k then (k, v) :: r else if k < a then (k, v) :: (a, x) :: r else (a, x) :: tset r k v

/-- Take an entry away. -/
def tdel {α : Type} (t : Tbl α) (k : Nat) : Tbl α := t.filter fun e => e.1 != k

/-- Entry of key k, if there is one. -/
def tfind {α : Type} : Tbl α → Nat → Option α
  | [], _ => none
  | (a, x) :: r, k => if a = k then some x else tfind r k

/-- Change the entry of key k, the default standing for an absent one. -/
def tmod {α : Type} (d : α) (t : Tbl α) (k : Nat) (f : α → α) : Tbl α := tset t k (f (tget d t k))

/-! Byte storage: cells in rising order, none of them 0; a byte that no cell lists reads 0 (log entry 4). -/

/-- One byte. -/
def memRd : List Host.Cell → Nat → Byte
  | [], _ => 0
  | (a, b) :: r, k => if a = k then b else memRd r k

/-- Insert a cell before the first one whose key is not smaller. -/
def memIns : List Host.Cell → Nat → Byte → List Host.Cell
  | [], k, b => [(k, b)]
  | (a, x) :: r, k, b => if a < k then (a, x) :: memIns r k b else (k, b) :: (a, x) :: r

/-- Write one byte. -/
def memWr (m : List Host.Cell) (k : Nat) (b : Byte) : List Host.Cell :=
  let m' := m.filter fun c => c.1 != k
  if b = 0 then m' else memIns m' k b

/-- Keys rise strictly and no cell holds 0: the one form of a memory's contents. -/
def Memory.wf : List Host.Cell → Bool
  | [] => true
  | [(_, b)] => b != 0
  | (a, b) :: (a', b') :: r => b != 0 && decide (a < a') && Memory.wf ((a', b') :: r)

/-- n bytes from key k, little-endian (R3). -/
def memRdN (m : List Host.Cell) (k : Nat) : Nat → Nat
  | 0 => 0
  | n + 1 => (memRd m k).toNat + 256 * memRdN m (k + 1) n

/-- The cells that hold the low n bytes of v at key k, little-endian (R3). -/
def cellsOf (k : Nat) (v : Nat) : Nat → List Host.Cell
  | 0 => []
  | n + 1 => (k, BitVec.ofNat 8 v) :: cellsOf (k + 1) (v / 256) n

/-- Write cells in their order: the last write of a byte remains. -/
def memWrs (m : List Host.Cell) (cs : List Host.Cell) : List Host.Cell :=
  cs.foldl (fun m c => memWr m c.1 c.2) m

/-- Every byte of keys lo to hi - 1 becomes 0. -/
def memZero (m : List Host.Cell) (lo hi : Nat) : List Host.Cell :=
  m.filter fun c => decide (c.1 < lo) || decide (hi ≤ c.1)

/-- n bytes from key k as a list. -/
def memBytes (m : List Host.Cell) (k : Nat) : Nat → List Byte
  | 0 => []
  | n + 1 => memRd m k :: memBytes m (k + 1) n

/-- Cells of a byte list at key k. -/
def cellsAt (k : Nat) : List Byte → List Host.Cell
  | [] => []
  | b :: r => (k, b) :: cellsAt (k + 1) r

/-! Keys. Physical address a of global memory has key a; every other part of the device's storage lies above 2^52. -/

/-- Pad of core c (R26). -/
def padKey (c : CoreId) (a : Nat) : Nat := 2 ^ 56 + c.val * 0x200000 + a
/-- Column store of core c: column j, offset o (R28). -/
def colKey (c : CoreId) (j o : Nat) : Nat := 2 ^ 57 + c.val * 0x400000 + j * 0x8000 + o
/-- Edge latch: row i, byte b (R27, R160). -/
def latKey (c : CoreId) (l i b : Nat) : Nat := 2 ^ 58 + c.val * 0x40000 + l * 0x8000 + i * 256 + b
/-- Accumulator cell: row i, column j (R27). -/
def accKey (c : CoreId) (a i j : Nat) : Nat := 2 ^ 59 + c.val * 0x40000 + a * 0x10000 + (i * 128 + j) * 4
/-- Shelf staging of island y as key slot g tags it: slice in [26:22], offset in [21:0] (R30, R343, R345; log entry 23). -/
def stgKey (g : BitVec 7) (y : Isl) (a : Nat) : Nat := 2 ^ 60 + g.toNat * 0x20000000 + y.val * 0x8000000 + a
/-- Hold-up store (R366). -/
def holdKey (a : Nat) : Nat := 2 ^ 61 + a
/-- Launch window (R319). -/
def winKey (a : Nat) : Nat := 2 ^ 62 + a
/-- Slots of the halyard with a handle, which only hoists and sights reach (R34, R209, R210). -/
def halKey (h : BitVec 16) (a : Nat) : Nat := 2 ^ 63 + (h.toNat / 2 ^ 14 * 256 + h.toNat % 256) * 0x4000000 + a

/-- Island of a core (R2). -/
def islOf (c : CoreId) : Isl := if h : c.val < 128 then ⟨c.val / 32, by omega⟩ else ⟨c.val - 128, by omega⟩

/-- A management core (R1). -/
def isMgmt (c : CoreId) : Bool := decide (128 ≤ c.val)

/-- Management core of an island. -/
def mgmtOf (y : Isl) : CoreId := ⟨128 + y.val, by omega⟩

/-- Compute core by global number (R2). -/
def coreNo (n : Nat) : CoreId := ⟨n % 128, by omega⟩

/-- Home island of a physical address (R346). -/
def homeOf (pa : Nat) : Isl :=
  if pa < 0x3000000000 then ⟨pa / 0xC00000000 % 4, by omega⟩ else ⟨natBits pa 13 12 % 4, by omega⟩

/-! Rounds (R262). -/

/-- Round a is at least b: the device compares them modulo 2^48. -/
def roundGe (a b : Round) : Bool := decide ((a - b).toNat < 2 ^ 47)

/-- The later of two rounds. -/
def roundMax (a b : Round) : Round := if roundGe a b then a else b

/-! Parts of the state. -/

def State.modC (s : State) (c : CoreId) (f : CoreSt → CoreSt) : State :=
  { s with core := s.core.set c.val (f (s.core.get c)) }

def State.modI (s : State) (y : Isl) (f : IslandSt → IslandSt) : State :=
  { s with isl := s.isl.set y.val (f (s.isl.get y)) }

def State.modD (s : State) (f : DevSt → DevSt) : State := { s with dev := f s.dev }

/-- The core whose bundle is being issued. -/
abbrev State.me (s : State) : CoreSt := s.core.get s.cur

def State.modMe (s : State) (f : CoreSt → CoreSt) : State := s.modC s.cur f

/-- A free number; the counter moves on (log entry 1). -/
def State.pick (s : State) : Nat × State := (Config.freeNat s.free, { s with free := s.free + 1 })

/-- A free word. -/
def State.pickW (s : State) : W64 × State := (Config.freeWord s.free, { s with free := s.free + 1 })

/-- Add to a telemetry counter of a core, which has 64 bits (R395). -/
def CoreSt.count (k : CoreSt) (i n : Nat) : CoreSt := { k with tele := tmod 0 k.tele i fun v => (v + n) % 2 ^ 64 }

def IslandSt.count (k : IslandSt) (i n : Nat) : IslandSt := { k with tele := tmod 0 k.tele i fun v => (v + n) % 2 ^ 64 }

end Sys2Proof.Machine
end

