-- ==== Sys2Proof/Machine/Ops.lean ====
section
/-! DEFINITION. Operations that the meanings share: the agenda, clock edges, deliveries, tokens, rollback, taking a trap and
returning from one. -/

namespace Sys2Proof.Machine

/-! The agenda. -/

/-- Order among the things due at one tick: arrivals first, a halyard controller's events in the order of R212 and by
core, attempts of counted operations, then copies that begin, control edges, and engines, then the limiter's grant slot (R272), then launch triggers by
slot (R320), then requests of an operating point, the governor's, a recall's and firmware's (R372), then the copy of the counters, which
takes what the tick has counted (R396). -/
def rankOf (s : State) : Due → Nat
  | .edge c => 2560 + c.val
  | .perform _ _ => 64
  | .piece c u => 3328 + 2 * c.val + u.toNat
  | .mcyc c => 3840 + c.val
  | .array c => 4096 + c.val
  | .micro c => 4352 + c.val
  | .tile _ => 1280
  | .ev i a =>
    let byCore : Nat := match s.dev.hops.find? (·.id == a.id) with
      | some h => h.core.val
      | none => 0
    match i with
    | .hoistLand => 256 + byCore
    | .sightRelease => 512 + byCore
    | .sightPoint => 768 + byCore
    | .hoistSlotTake => 1024 + byCore
    | .copyBegin => 1536 + a.c.val
    | .slewGrantSlot => 5000
    | .opmWrite => 16384 + a.k
    | .hostLaunchTrigger => 8192 + a.k * 16 + a.m
    | .telemetrySnapshot => 20000
    | _ => 0

/-- Insert behind every entry that is due no later. -/
def insEntry : List Entry → Entry → List Entry
  | [], e => [e]
  | x :: r, e =>
    if x.at_ < e.at_ ∨ (x.at_ = e.at_ ∧ x.rank ≤ e.rank) then x :: insEntry r e else e :: x :: r

/-- Something falls due at tick t. -/
def State.at (s : State) (t : Nat) (d : Due) : State :=
  { s with agenda := insEntry s.agenda ⟨t, rankOf s d, d⟩ }

def State.after (s : State) (dt : Nat) (d : Due) : State := s.at (s.tick + dt) d

/-- A device step follows at once. -/
def State.now (s : State) (i : Instr) (a : Arg) : State :=
  { s with agenda := ⟨s.tick, 0, .ev i a⟩ :: s.agenda }

def argC (c : CoreId) : Arg := { Arg.zero with c := c }
def argCI (c : CoreId) (id : Nat) : Arg := { Arg.zero with c := c, id := id }
def argY (y : Isl) : Arg := { Arg.zero with y := y }

/-- Whether the agenda holds this already. -/
def State.has (s : State) (d : Due) : Bool := s.agenda.any fun e => e.due == d

/-! Clock edges (R11). -/

def Divs.get (d : Divs) : Dom → Nat
  | .ctl => d.ctl | .vec => d.vec | .mtx => d.mtx | .cpy => d.cpy

/-- First edge of a domain at or after tick t. -/
def CoreSt.edge (k : CoreSt) (x : Dom) (t : Nat) : Nat := k.base + ceilDiv (t - k.base) (k.div.get x) * k.div.get x

/-! Deliveries. -/

/-- Order of the slot being issued. -/
def State.order (s : State) : Nat := s.bun.num * 8 + s.bun.slot.toNat

/-- Insert by issue order; among equal orders the later insertion stands behind. -/
def insDel : List Delivery → Delivery → List Delivery
  | [], d => [d]
  | x :: r, d => if x.seq ≤ d.seq then x :: insDel r d else d :: x :: r

/-- A delivery of an operation of domain x that begins at tick b and has latency n (R7 Deliver, R11). -/
def CoreSt.deliver (k : CoreSt) (x : Dom) (b n seq : Nat) (e : Eff) : CoreSt :=
  { k with pend := insDel k.pend ⟨x, n, b + n * k.div.get x, seq, e⟩ }

/-- A delivery of the scalar slot being issued, n control cycles on. -/
def deliver (n : Nat) (e : Eff) (s : State) : State :=
  s.modMe fun k => k.deliver .ctl s.tick n s.order e

/-- Register-file number of a written scalar register; writes of s0 are discarded (R13). -/
def Regs.setS (r : Regs) (d : BitVec 6) (v : W64) : Regs := if d = 0 then r else { r with s := r.s.set d.toNat v d.isLt }

def Regs.setP (r : Regs) (d : BitVec 4) (v mask : W64) : Regs :=
  if d = 0 then r else { r with p := r.p.set d.toNat ((v &&& mask) ||| (r.p[d.toNat]'d.isLt &&& ~~~mask)) d.isLt }

def Regs.setV (r : Regs) (cl : Cluster) (d : BitVec 5) (v mask : VWord) : Regs :=
  match cl with
  | .A => { r with va := r.va.set d.toNat ((v &&& mask) ||| (r.va[d.toNat]'d.isLt &&& ~~~mask)) d.isLt }
  | .B => { r with vb := r.vb.set d.toNat ((v &&& mask) ||| (r.vb[d.toNat]'d.isLt &&& ~~~mask)) d.isLt }

/-- A register that is written whole is no longer poisoned (R381). -/
def Regs.clean (r : Regs) (cl : Cluster) (d : BitVec 5) (mask : VWord) : Regs :=
  if mask = BitVec.allOnes 2048 then { r with poison := r.poison.filter fun e => !(e.1 == cl && e.2.1 == d) } else r

/-- Replace word w of a nest register (R17, R196). -/
def setWord (x : BitVec 512) (w : BitVec 3) (v : W64) : BitVec 512 :=
  (x &&& ~~~((0xFFFFFFFFFFFFFFFF : BitVec 512) <<< (64 * w.toNat))) ||| (v.setWidth 512 <<< (64 * w.toNat))

/-- What a landing delivery does to the registers. -/
def Regs.land (r : Regs) : Eff → Regs
  | .s d v => r.setS d v
  | .v cl d v mask => (r.setV cl d v mask).clean cl d mask
  | .p d v mask => r.setP d v mask
  | .flags b => { r with fst := r.fst ||| b }
  | .fst b => { r with fst := b }
  | .rot v p => { r with rotV := v, rotP := p }
  | .lct v => { r with lct := v }
  | .lsc v => { r with lsc := v }
  | .m i v mask => { r with m := r.m.set i.toNat ((v &&& mask) ||| (r.m[i.toNat]'i.isLt &&& ~~~mask)) i.isLt }
  | .nest k w v => { r with n := r.n.set k.toNat (setWord (r.n[k.toNat]'k.isLt) w v) k.isLt }
  | .radv x => { r with rr := tmod 0 r.rr x (· + 1) }
  | .racq x p => { r with rr := tmod 0 r.rr x (roundMax · p), fl := tmod 0 r.fl x (roundMax · p) }
  | .ring n _ _ => { r with ringRt := r.ringRt.set n.toNat 0 n.isLt }
  | .item w p => { r with wid := w, pen := p }
  | .mark cl d b x => { r with poison := (cl, d, b, x) :: r.poison }
  | .push .. => r

/-- A push that has not run yet (R221). -/
def Eff.isPush : Eff → Bool
  | .push .. => true
  | _ => false

def Eff.isFlags : Eff → Bool
  | .flags _ => true
  | _ => false

/-- What a landing delivery does to the rest of the core: a ring is created (R202). -/
def CoreSt.landRing (k : CoreSt) : Eff → CoreSt
  | .ring n sl t => { k with ring := k.ring.set n.toNat { Ring.init with created := true, slots := sl, target := t } n.isLt }
  | _ => k

/-- Every delivery that is ready lands, in issue order, flags after the rest (R10, R47). One that the checkpoint covers
lands in the duplicate register set too (R230). -/
def CoreSt.landAll (k : CoreSt) (t : Nat) : CoreSt :=
  let due := k.pend.filter fun d => decide (d.ready ≤ t)
  let ord := due.filter (fun d => !d.eff.isFlags) ++ due.filter (fun d => d.eff.isFlags)
  let k1 := ord.foldl (fun k d => k.landRing d.eff) k
  { k1 with
    pend := k.pend.filter fun d => !decide (d.ready ≤ t)
    r := ord.foldl (fun r d => r.land d.eff) k.r
    ck := (ord.filter fun d => decide (d.seq ≤ k.ckSeq)).foldl (fun r d => r.land d.eff) k.ck }

/-! Counters of R25. -/

def CoreSt.ldc (k : CoreSt) : Nat := k.loads.length
def CoreSt.stc (k : CoreSt) : Nat := k.sto.length

/-! Tokens (R20, R194). -/

def CoreSt.tokPending (k : CoreSt) (t : BitVec 6) : Bool := t != 0 && (k.tok[t.toNat]'t.isLt).pending

/-- The token becomes pending; the producer's count. tk0 stands for no token. -/
def CoreSt.produce (k : CoreSt) (t : BitVec 6) (src : Nat) : Nat × CoreSt :=
  if t = 0 then (0, k) else
    let g := (k.tok[t.toNat]'t.isLt).gen + 1
    (g, { k with tok := k.tok.set t.toNat ⟨g, true, false, src⟩ t.isLt })

/-- The producer with count g completes its token. -/
def CoreSt.complete (k : CoreSt) (t : BitVec 6) (g : Nat) : CoreSt :=
  if t = 0 then k else
    let x := k.tok[t.toNat]'t.isLt
    if x.gen = g then { k with tok := k.tok.set t.toNat { x with pending := false } t.isLt } else k

/-- The operation of a pending token is abandoned: the token stays pending until the next bind (R194, R360, R383). -/
def CoreSt.abandon (k : CoreSt) (t : BitVec 6) (g : Nat) : CoreSt :=
  if t = 0 then k else
    let x := k.tok[t.toNat]'t.isLt
    if x.gen = g then { k with tok := k.tok.set t.toNat { x with purged := true } t.isLt } else k

/-- Consumed tokens of an operation, each with its most recent producer (R194). -/
def CoreSt.depsOf (k : CoreSt) (t : Toks) : Deps :=
  ([t.ta, t.tb, t.tc].filter (· != 0)).map fun x => (x, (k.tok[x.toNat]'x.isLt).gen)

def CoreSt.depsReady (k : CoreSt) (d : Deps) : Bool :=
  d.all fun e => let x := k.tok[e.1.toNat]'e.1.isLt; !x.pending || decide (e.2 < x.gen)

/-! Launches and work items. -/

def State.launch? (s : State) (n : Option Nat) : Option Launch := n.bind (tfind s.dev.pool)

def State.modL (s : State) (n : Nat) (f : Launch → Launch) : State :=
  match tfind s.dev.pool n with
  | some l => s.modD fun d => { d with pool := tset d.pool n (f l) }
  | none => s

def Launch.stage? (l : Launch) (t : Nat) : Option StageSt := l.stages[t]?

def Launch.modStage (l : Launch) (t : Nat) (f : StageSt → StageSt) : Launch :=
  match l.stages[t]? with
  | some x => { l with stages := l.stages.set t (f x) }
  | none => l

/-- Core numbers, in order. -/
def coreIds : List CoreId := List.ofFn id
def islIds : List Isl := [0, 1, 2, 3]

/-- Some core, or a saved stage that kept its item, holds an item of stage t of launch n, committed or tentative, or is about to push
one from there (R221, R223, R363). -/
def State.holds (s : State) (n t : Nat) : Bool :=
  (coreIds.any fun c =>
    let k := s.core.get c
    k.launch == some n && k.stg.toNat == t && (k.r.held.isSome || !k.pops.isEmpty || k.pend.any (·.eff.isPush))) ||
    s.dev.cx.toList.any fun x => x.slots.any fun e => e.stg == t && e.launch == n && e.item

/-- Queue t of launch n is closed (R223, R322). -/
def State.closed (s : State) (n : Nat) (l : Launch) : Nat → Bool
  | 0 => decide (l.nit ≤ l.fed)
  | t + 1 => s.closed n l t && (l.stages[t]?.all fun x => x.q.isEmpty && x.out == 0) && !s.holds n t

/-! Rollback and traps. -/

/-- Uncommitted pulls return their items to the head of the queue, in the order in which they were taken (R220). -/
def undoPops (c : CoreId) (s : State) : State :=
  let k := s.core.get c
  let items := (k.pops.filter (·.isPull)).map (·.item)
  match k.launch with
  | some n => s.modL n fun l => l.modStage k.stg.toNat fun x =>
      { x with q := items ++ x.q, out := x.out - items.length }
  | none => s

/-- Steps 2 to 5 of R231: deliveries and operations of bundles after the checkpoint are discarded, the duplicate register
set is the register state, and withheld work and uncommitted pulls and retires are undone. Vector and matrix edges that the
discarded operations took stay taken, those still to come among them: DESIGN CHOICE (log entry 86). -/
def rollback (c : CoreId) (s : State) : State :=
  (undoPops c s).modC c fun k =>
    { k with
      r := k.ck
      pend := k.pend.filter fun d => decide (d.seq ≤ k.ckSeq)
      loads := k.loads.filter fun d => decide (d.seq ≤ k.ckSeq)
      fences := k.fences.filter fun d => decide (d.seq ≤ k.ckSeq)
      early := k.early.filter fun d => decide (d.seq ≤ k.ckSeq)
      after := k.after.filter fun d => decide (d.1 ≤ k.ckSeq)
      scw := k.scw.filter fun d => decide (d.seq ≤ k.ckSeq)
      wst := []
      wmx := []
      pops := []
      ring := k.ring.map fun g => { g with rels := 0 }
      gap := 0
      forced := false
      heldFor := 0
      heldBy := 0
      wait := 0
      waitBy := 0
      bufFull := false
      fetchFor := 0
      pullClosed := k.pullClosed.filter fun n => decide (n * 8 ≤ k.ckSeq)
      pullEmpty := k.pullEmpty.filter fun n => decide (n * 8 ≤ k.ckSeq)
      samples := k.samples.map fun x => if k.ckSeq < x.num * 8 then { x with undone := true } else x }

/-- Pennant of the held item, 0 if none (R358). -/
def CoreSt.penOf (k : CoreSt) : BitVec 16 :=
  match k.r.held with
  | some i => i.pen
  | none => 0

/-- CORE field of a record: the global number; a management core is named by its island. -/
def coreField (c : CoreId) : BitVec 7 := if isMgmt c then BitVec.ofNat 7 (c.val - 128) else BitVec.ofNat 7 c.val

/-- The record of the bundle being issued (R358). -/
def mkRec (s : State) (kind : BitVec 2) (slot : BitVec 3) (cause : Byte) (fadr dtl res : W64) : Rec where
  slot := slot
  pen := s.me.penOf
  ctx := s.me.ctx
  core := coreField s.cur
  kind := kind
  cause := cause
  badr := s.bun.adr
  cyc := BitVec.ofNat 64 s.me.cyc
  fadr := fadr
  dtl := dtl
  res := res
  last := 0
  entry := 0

/-- A record reaches the island's management core: it is posted when the queue has a slot (R357). -/
def sendRec (y : Isl) (r : Rec) (s : State) : State :=
  (s.modI y fun i => { i with waiting := i.waiting ++ [r] }).now .recordPost (argY y)

/-- An event record of a core: KIND 0, no slot (R358, R359). -/
def CoreSt.eventOf (k : CoreSt) (c : CoreId) (cause : Byte) (badr fadr dtl : W64) : Rec :=
  ⟨7, k.penOf, k.ctx, coreField c, 0, cause, badr, BitVec.ofNat 64 k.cyc, fadr, dtl, 0, 0, 0⟩

def eventRec (c : CoreId) (cause : Byte) (badr fadr dtl : W64) (s : State) : State :=
  sendRec (islOf c) ((s.core.get c).eventOf c cause badr fadr dtl) s

/-- Taking a trap (R231): issue stops, the core rolls back, and its record is posted once every kept delivery has landed.
The core resumes at the checkpoint's resume address, which RES names (R358). -/
def takeTrap (cause : Byte) (fadr dtl : W64) (s : State) : State :=
  let rc := mkRec s 2 s.bun.slot cause fadr dtl s.me.ck.pc
  let s1 := rollback s.cur s
  { s1.modMe (fun k => { k with run := .trapped cause, rec_ := some rc }.count 12 1) with
    bun := { s1.bun with trap := true, stop := none } }

/-- Illegal-operation trap of a slot whose OP field is op (R359 cause 0x03). -/
def illegal (op : Nat) (s : State) : State := takeTrap 0x03 0 (BitVec.ofNat 64 op) s

/-- The island's cores share control edges with nothing: the next edge of core c is put into the agenda. -/
def startEdges (c : CoreId) (s : State) : State :=
  if s.has (.edge c) then s else s.at ((s.core.get c).edge .ctl (s.tick + 1)) (.edge c)

/-- Return from a trap or stop, mode 0 of R360: the core resumes at its resume address. With STEP set it issues one bundle
and then stops (R390). -/
def resume (c : CoreId) (s : State) : State :=
  startEdges c (s.modC c fun k => { k with run := .running, rec_ := none, gap := 0, wait := 0, resumeDue := false, stepArm := k.dbgStep.toNat })

/-! Poison (R381, R382): numbers of poisoned 64-byte pieces of storage. -/

/-- An island unit is being tested (R387, R388). -/
def unitOff (i : IslandSt) (kind idx : Nat) : Bool := i.tests.any fun e => e.1.toNat == kind * 256 + idx

/-- A first-tier address lies on a DRAM channel that is fenced, or out of service for a test (R388, R389). -/
def State.onFenced (s : State) (key : Nat) : Bool :=
  decide (key < 0x3000000000) &&
    let i := s.isl.get (homeOf key)
    let ch := Config.dramChannel (key / 128) % 16
    i.fdram.getLsbD ch || unitOff i 0x30 ch

/-- A read of the line at a key goes to its DRAM: the home's shelf does not hold it, nor does an island's copy that its home tracks
(R346, R349). -/
def State.fromDram (s : State) (key : Nat) : Bool :=
  !(s.isl.get (homeOf key)).shelf.any (·.line == key / 128) &&
    islIds.all fun y => (tfind (s.isl.get y).copies (key / 128)).all (·.st == .Rg)

/-- Island and unit (R387) that hold the storage at a key, as island y reads it: for global memory y's offshore cache, the home's shelf
or a DRAM channel; a core's pad or column store; a slice's staging; 0 for what no code names. -/
def storageUnit (s : State) (y : Isl) (key : Nat) : Isl × Nat :=
  let core (n : Nat) : CoreId := ⟨n % 132, by omega⟩
  let line := key / 128
  if key < 2 ^ 52 then
    let h := homeOf key
    if h ≠ y ∧ (tfind (s.isl.get y).copies line).isSome then (y, 0x1100 + line % 32)
    else if (s.isl.get h).shelf.any (·.line == line) then (h, 0x1000 + line % 32)
    else if key < 0x3000000000 then (h, 0x3000 + Config.dramChannel line % 16)
    else (0, 0)
  else if padKey 0 0 ≤ key ∧ key < padKey 0 0 + 132 * 0x200000 then
    let c := core ((key - padKey 0 0) / 0x200000); (islOf c, 0x700 + c.val % 32)
  else if colKey 0 0 0 ≤ key ∧ key < colKey 0 0 0 + 132 * 0x400000 then
    let c := core ((key - colKey 0 0 0) / 0x400000); (islOf c, 0x800 + c.val % 32)
  else if stgKey 0 0 0 ≤ key ∧ key < stgKey 127 3 0x8000000 then
    let a := key - stgKey 0 0 0; (⟨a / 0x8000000 % 4, by omega⟩, 0x1000 + a / 128 % 32)
  else (0, 0)

/-- A numbered piece is among those of n bytes at a key. -/
def inPieces (key n p : Nat) : Bool := decide (key / 64 ≤ p) && decide (p ≤ (key + n - 1) / 64)

/-- A read of n bytes at a key by island y is of poisoned data: the unit that detected the error. It is the DRAM channel of a fenced one,
the unit that holds a piece whose error this read is the first to meet, or the one that the piece's mark carries (R381, R382, R389). -/
def State.badUnit (s : State) (y : Isl) (key n : Nat) : Option Nat :=
  if s.onFenced key && s.fromDram key then some (0x3000 + Config.dramChannel (key / 128) % 16)
  else match s.dev.errs.find? (inPieces key n) with
    | some p => some (storageUnit s y (64 * p)).2
    | none => (s.dev.poison.find? fun e => inPieces key n e.1).map (·.2)

/-- A piece of the n bytes at a key is poisoned as island y reads it. -/
def State.poisoned (s : State) (y : Isl) (key n : Nat) : Bool := (s.badUnit y key n).isSome

/-- Pieces become poisoned, by an error that a unit has detected. -/
def markPieces (ps : List Nat) (unit : Nat) (s : State) : State :=
  s.modD fun d => { d with poison := ps.foldl (fun t p => tset t p unit) d.poison }

/-- The pieces that bytes are written to: poisoned with poisoned bytes, clean once they are written whole. -/
def markCells (cells : List Host.Cell) (bad : Option Nat) (s : State) : State :=
  let ps := (cells.map fun c => c.1 / 64).eraseDups
  match bad with
  | some u => markPieces ps u s
  | none =>
    if s.dev.poison.isEmpty && s.dev.errs.isEmpty then s
    else
      let full := ps.filter fun p => decide (64 ≤ (cells.filter fun c => c.1 / 64 == p).length)
      s.modD fun d => { d with poison := d.poison.filter fun e => !full.contains e.1, errs := d.errs.filter fun p => !full.contains p }

/-- Poison of written bytes: a piece that takes a poisoned byte is poisoned, one that clean bytes fill is clean (R381). -/
def markWritten (cells : List (Host.Cell × Option Nat)) (s : State) : State :=
  let bad := cells.filter (·.2.isSome)
  let ps := (bad.map fun c => c.1.1 / 64).eraseDups
  bad.foldl (fun s c => markCells [c.1] c.2 s) (markCells ((cells.map (·.1)).filter fun c => !ps.contains (c.1 / 64)) none s)

/-! Errors that a read meets (R381, R387, R397). -/

/-- A record enters the error log's ring. -/
def elogPut (r : BitVec 256) (s : State) : State :=
  s.modD fun d => { d with elog := tset d.elog d.elw.toNat r, elw := d.elw + 1, elN := d.elN + 1 }

/-- A record of the error log (R397). -/
def errRecord (kind unit : Nat) (y : Isl) (val : W64) (rsn : Nat) (s : State) : BitVec 256 :=
  BitVec.ofNat 256 (kind + unit % 65536 * 2 ^ 8 + y.val * 2 ^ 24 + s.tick / Config.usTicks % 2 ^ 64 * 2 ^ 64 + val.toNat * 2 ^ 128 +
    rsn * 2 ^ 192)

/-- A read of n bytes at a key by island y meets the uncorrectable errors of their pieces: each is counted and logged once, with its
address, and the piece is poisoned from then on (R381, R395, R397). -/
def noteError (y : Isl) (key n : Nat) (s : State) : State :=
  (s.dev.errs.filter (inPieces key n)).foldl (fun s p =>
    let u := storageUnit s y (64 * p)
    elogPut (errRecord 2 u.2 u.1 (BitVec.ofNat 64 (64 * p)) 0 s) (markPieces [p] u.2 ((s.modI u.1 fun i => i.count 11 1).modD fun d =>
      { d with errs := d.errs.filter (· != p) }))) s

/-- A read of n bytes at a key by island y reaches the storage that serves it: what a fenced channel gives is poisoned, and the errors
are met (R381, R389, R397). -/
def reach (y : Isl) (key n : Nat) (s : State) : State :=
  noteError y key n (if s.onFenced key && s.fromDram key then
    markPieces [2 * (key / 128), 2 * (key / 128) + 1] (0x3000 + Config.dramChannel (key / 128) % 16) s else s)

/-- Reads of the pieces that some keys lie in. -/
def reachKeys (y : Isl) (keys : List Nat) (s : State) : State :=
  ((keys.map (· / 64)).eraseDups).foldl (fun s p => reach y (64 * p) 64 s) s

/-- The n bytes at a key carry the poison of the n bytes at another, which island y has read (R381). -/
def carryPoison (y : Isl) (from_ to_ n : Nat) (s : State) : State :=
  markCells (cellsOf to_ 0 n) (s.badUnit y from_ n) (noteError y from_ n s)

/-- Storage between two keys has been zeroed: its whole pieces are clean (R381). -/
def cleanRange (lo hi : Nat) (s : State) : State :=
  let keep (p : Nat) : Bool := decide (64 * p < lo) || decide (hi < 64 * p + 64)
  s.modD fun d => { d with poison := d.poison.filter fun e => keep e.1, errs := d.errs.filter keep }

/-- A slot meets a poisoned value: a register, or the piece at a virtual address; with the unit that detected the error and the key of
the piece (R382). -/
def consume (reg : Bool) (fadr : W64) (unit : Nat) (key : Option Nat) (s : State) : State :=
  { s with bun := { s.bun with trap := true, stop := some (if reg then 0x34 else 0x35, fadr), met := some (unit, key) } }

/-- One of the unit codes of R387 for island y: which unit has had a corrected error is free (log entry 1). -/
def unitCode (y : Isl) (n : Nat) : Nat :=
  let m := n % 340
  if m < 256 then (1 + m / 32) * 256 + m % 32
  else if m < 288 then 0x1000 + (m - 256)
  else if m < 320 then 0x1100 + (m - 288)
  else if m = 320 then 0x1200
  else if m < 324 then 0x2000 + (y.val + 1 + (m - 321)) % 4
  else 0x3000 + (m - 324)

/-- An engine of core c has met a poisoned value: of a register, by the bundle that produced it, or of the piece at an address; badr
names the engine's own bundle, and unit what detected the error (R382). -/
def engineConsumes (c : CoreId) (reg : Bool) (fadr badr : W64) (unit : Nat) (s : State) : State :=
  s.now .poisonConsumed { argC c with v := fadr, n := unit, flag := reg, m := 7, line := badr.toNat }

/-- Virtual address of the piece that holds an address. -/
def pieceOf (va : W64) : W64 := va &&& ~~~63

/-! Energy (R240, R370, R398): the amounts are free values below 2^32 nJ (log entry 11). -/

/-- Charge a context. -/
def chargeCtx (cx : BitVec 7) (s : State) : State :=
  let (n, s1) := s.pick
  s1.modD fun d =>
    let x := d.cx[cx.toNat]'cx.isLt
    { d with cx := d.cx.set cx.toNat { x with energy := x.energy + BitVec.ofNat 64 (n % 2 ^ 32) } cx.isLt, total := d.total + BitVec.ofNat 64 (n % 2 ^ 32) }

/-- The outcome of every meaning that completes. -/
abbrev Out := Host.Outcome State Fault Refusal

end Sys2Proof.Machine
end

