-- ==== Sys2Proof/Machine/Operands.lean ====
section
/-! DEFINITION. Operand forms: register reads with rotation, guards, immediates, elements of vector registers. -/

namespace Sys2Proof.Machine

/-- S(i): s0 reads 0 (R13, R82). -/
def Regs.getS (r : Regs) (i : BitVec 6) : W64 := if i = 0 then 0 else r.s[i.toNat]'i.isLt

/-- Physical predicate that P(j) names (R16). -/
def Regs.physP (r : Regs) (j : BitVec 4) : BitVec 4 :=
  if j.toNat < 8 then j else 8 + (j.setWidth 3 + r.rotP).setWidth 4

/-- Physical predicate register; p0 reads all ones (R13). -/
def Regs.rawP (r : Regs) (j : BitVec 4) : W64 := if j = 0 then BitVec.allOnes 64 else r.p[j.toNat]'j.isLt

/-- P(j) (R82). -/
def Regs.getP (r : Regs) (j : BitVec 4) : W64 := r.rawP (r.physP j)

/-- Physical vector register that V(i) names (R16). -/
def Regs.physV (r : Regs) (i : BitVec 5) : BitVec 5 :=
  if i.toNat < 16 then i else 16 + (i.setWidth 4 + r.rotV).setWidth 5

/-- V(i) of a cluster (R82). -/
def Regs.getV (r : Regs) (cl : Cluster) (i : BitVec 5) : VWord :=
  match cl with
  | .A => r.va[(r.physV i).toNat]'(r.physV i).isLt
  | .B => r.vb[(r.physV i).toNat]'(r.physV i).isLt

/-- m(i) (R147). -/
def Regs.getM (r : Regs) (i : BitVec 3) : W64 := r.m[i.toNat]'i.isLt

/-- n(k) (R17). -/
def Regs.getN (r : Regs) (k : BitVec 4) : BitVec 512 := r.n[k.toNat]'k.isLt

/-- Word w of a nest register (R17). -/
def nestWord (x : BitVec 512) (w : Nat) : W64 := x.extractLsb' (64 * w) 64

/-- GuardOK() (R76, R82). -/
def guardOk (g : Guard) (s : State) : Bool := (s.me.r.getP g.p).getLsbD 0 != g.neg

/-- A scalar slot acts only under its guard (R76). -/
def guarded (g : Guard) (s : State) (f : State → State) : Out :=
  .next (if guardOk g s then f s else s)

/-- A scalar slot whose fields alone make it an illegal operation traps whatever its guard holds (R76, R77 item 4). -/
def guardedIf (ok : Bool) (op : Nat) (g : Guard) (s : State) (f : State → State) : Out :=
  if ok then guarded g s f else .next (illegal op s)

/-- Imm() as a 64-bit pattern (R82). -/
def immS (i : BitVec 33) : W64 := i.signExtend 64

/-- A result of latency n for a scalar register (R87). -/
def toS (n : Nat) (d : BitVec 6) (v : W64) (s : State) : State := deliver n (.s d v) s

/-- A result of latency n for a whole predicate, in the physical register that it names at issue (R16, R98). -/
def toP (n : Nat) (d : BitVec 4) (v : W64) (s : State) : State :=
  deliver n (.p (s.me.r.physP d) v (BitVec.allOnes 64)) s

/-- A predicate of 64 equal bits (R98). -/
def allBits (b : Bool) : W64 := if b then BitVec.allOnes 64 else 0

/-! Elements of vector registers (R15, R113). -/

/-- Elements of width w in a register. -/
def lanesOf (w : Nat) : Nat := 2048 / w

/-- Lane(v, e, w) as a number (R7). -/
def elem (v : VWord) (e w : Nat) : Nat := natBits v.toNat (e * w + w - 1) (e * w)

/-- Active(e, w): the bit of the 32-bit lane that holds element e (R15). -/
def active (p : W64) (e w : Nat) : Bool := p.getLsbD (e * w / 32)

/-- Sum of x(e) * 2^(e*w) over the elements of a list of pairs of element number and value below 2^w. -/
def joinElems (w : Nat) (xs : List (Nat × Nat)) : VWord :=
  BitVec.ofNat 2048 (xs.foldl (fun a x => a ||| (x.2 % 2 ^ w) <<< (x.1 * w)) 0)

/-- Mask of the elements of a list. -/
def maskElems (w : Nat) (es : List Nat) : VWord :=
  BitVec.ofNat 2048 (es.foldl (fun a e => a ||| (2 ^ w - 1) <<< (e * w)) 0)

/-- Numbers lo to lo + n - 1. -/
def upto (lo n : Nat) : List Nat := List.range' lo n

/-! Walks (R17, R197). -/

/-- A dimension: count and stride. -/
abbrev Dims := List (Nat × Int)

/-- The six dimension words, D0 first. -/
def nestDims (n : BitVec 512) : Dims :=
  (List.range 6).map fun d => let w := (nestWord n (2 + d)).toNat; (natBits w 63 40, sext (natBits w 39 0) 40)

/-- Used dimensions; none if one stands above an unused one. -/
def usedDims (l : Dims) : Option Dims :=
  let u := l.takeWhile (·.1 != 0)
  if (l.dropWhile (·.1 != 0)).any (·.1 != 0) then none else some u

/-- N: a walk without dimensions has no bytes. -/
def dimsTotal (l : Dims) : Nat := if l.isEmpty then 0 else l.foldl (fun n d => n * d.1) 1

/-- off(x). -/
def walkOff : Dims → Nat → Int
  | [], _ => 0
  | (c, t) :: r, x => (x % c : Nat) * t + walkOff r (x / c)

/-- Least and greatest offset of a walk. -/
def walkLo (l : Dims) : Int := l.foldl (fun a d => if d.2 < 0 then a + ((d.1 - 1 : Nat) : Int) * d.2 else a) 0
def walkHi (l : Dims) : Int := l.foldl (fun a d => if 0 < d.2 then a + ((d.1 - 1 : Nat) : Int) * d.2 else a) 0

/-- Space code and address of a base (R17, R18). -/
def baseSp (w : W64) : Nat := (w.extractLsb' 61 3).toNat
def baseAdr (w : W64) : Nat := (w.extractLsb' 0 61).toNat

/-- A copy's walk: dimensions, bases, total. -/
structure Walk2 where
  dims : Dims
  src : W64
  dst : W64
  total : Nat
  /-- cpy walks its source, cpset and a latch their destination. -/
  gather : Bool
  deriving DecidableEq, Repr

def walkOf (n : BitVec 512) (gather : Bool) : Option Walk2 :=
  match usedDims (nestDims n) with
  | none => none
  | some l => if 2 ^ 40 < dimsTotal l then none else some ⟨l, nestWord n 0, nestWord n 1, dimsTotal l, gather⟩

/-- Address of walk position x, before any wrap, in the source and in the destination. -/
def Walk2.srcAt (w : Walk2) (x : Nat) : Int := baseAdr w.src + (if w.gather then walkOff w.dims x else x)
def Walk2.dstOff (w : Walk2) (x : Nat) : Int := if w.gather then x else walkOff w.dims x
def Walk2.dstAt (w : Walk2) (x : Nat) : Int := baseAdr w.dst + w.dstOff x

/-- Least and greatest byte that a side touches. -/
def Walk2.range (w : Walk2) (src : Bool) : Int × Int :=
  let b : Int := baseAdr (if src then w.src else w.dst)
  if src = w.gather then (b + walkLo w.dims, b + walkHi w.dims) else (b, b + (w.total : Int) - 1)

def CopyCmd.walk (m : CopyCmd) : Walk2 := (walkOf m.nest (m.kind == .cpy)).getD ⟨[], 0, 0, 0, true⟩

end Sys2Proof.Machine
end

