-- ==== Sys2Proof/Machine/Flags.lean ====
section
/-! DEFINITION. The flags of fst (R22) and the saturating helpers (R7). -/

namespace Sys2Proof.Machine

/-- NV: invalid operation. -/
def flNV : Byte := 0x01
/-- DZ: divide by zero. -/
def flDZ : Byte := 0x02
/-- OF: overflow. -/
def flOF : Byte := 0x04
/-- UF: underflow. -/
def flUF : Byte := 0x08
/-- NX: inexact. -/
def flNX : Byte := 0x10
/-- SAT: an integer result was clamped. -/
def flSAT : Byte := 0x20
/-- NPP: non-positive pivot. -/
def flNPP : Byte := 0x40
/-- QSAT: the quantiser saturated a block. -/
def flQSAT : Byte := 0x80

/-- The flag, if the event happened. -/
def flagIf (b : Bool) (f : Byte) : Byte := if b then f else 0

/-- SatS(x, n): the clamped value and the SAT flag. -/
def satS (x : Int) (n : Nat) : Int × Byte :=
  let lo : Int := -((2 ^ (n - 1) : Nat) : Int)
  let hi : Int := ((2 ^ (n - 1) : Nat) : Int) - 1
  if x < lo then (lo, flSAT) else if hi < x then (hi, flSAT) else (x, 0)

/-- SatU(x, n). -/
def satU (x : Int) (n : Nat) : Int × Byte :=
  let hi : Int := ((2 ^ n : Nat) : Int) - 1
  if x < 0 then (0, flSAT) else if hi < x then (hi, flSAT) else (x, 0)

/-- A scalar result with its flags, which arrive together (R47, R91). -/
def toSFlags (n : Nat) (d : BitVec 6) (v : W64) (f : Byte) (s : State) : State :=
  deliver n (.flags f) (toS n d v s)

end Sys2Proof.Machine
end

