-- ==== Sys2Proof/Machine/Xlate.lean ====
section
/-! DEFINITION. Coherent reads of physical memory, the heap window, the page walk and the translation buffers
(R332 to R338), and the fetch of code words (R65, R66). -/

namespace Sys2Proof.Machine

/-! Physical memory as a coherent reader sees it. -/

/-- The 128 bytes of a line in memory. -/
def memLine (s : State) (line : Nat) : BitVec 1024 := BitVec.ofNat 1024 (memRdN s.mem (line * 128) 128)

/-- Cells of a whole line. -/
def lineCells (line : Nat) (d : BitVec 1024) : List Host.Cell := cellsOf (line * 128) d.toNat 128

/-- Replace the n bytes at offset o of a line. -/
def putLine (d : BitVec 1024) (o n : Nat) (v : Nat) : BitVec 1024 :=
  let mask : BitVec 1024 := BitVec.ofNat 1024 ((2 ^ (8 * n) - 1) <<< (8 * o))
  (d &&& ~~~mask) ||| (BitVec.ofNat 1024 (v <<< (8 * o)) &&& mask)

/-- The writeback buffer of island x holds the newest copy of a line: the home still takes x for its owner, or has a forward or
a back-invalidation under way that x answers from the buffer (R355). -/
def wbufNew (s : State) (x : Isl) (line : Nat) : Bool :=
  match tfind (s.isl.get (homeOf (line * 128))).dir line with
  | some e => (e.st != .S && e.owner == x) || e.busy.any fun b => b.fwd.isSome || b.back.contains x
  | none => false

/-- The newest copy of a line: the owner's copy, data on its way to a requester or already there while the home's entry is busy, dirty
data on its way back, a writeback buffer, else memory (R349 to R355). -/
def cohLine (s : State) (line : Nat) : BitVec 1024 :=
  let owned := islIds.findSome? fun y =>
    match tfind (s.isl.get y).copies line with
    | some c => if c.st = .M ∨ c.st = .O ∨ c.st = .E then some c.data else none
    | none => none
  let busy : Bool := (tfind (s.isl.get (homeOf (line * 128))).dir line).any (·.busy.isSome)
  let landed := if busy then islIds.findSome? fun y => ((s.isl.get y).mshr.find? (·.line == line)).bind fun m => m.data.map (·.2) else none
  let flying := if busy then s.agenda.findSome? fun e =>
    match e.due with
    | .ev .data a | .ev .backd a => if a.line = line then some a.data else none
    | _ => none
    else none
  let kept := islIds.findSome? fun y => if wbufNew s y line then tfind (s.isl.get y).wbuf line else none
  ((owned.or landed).or (flying.or kept)).getD (memLine s line)

/-- Write into data that a message carries. -/
def flyWr (line o n v : Nat) (e : Entry) : Entry :=
  let a' (a : Arg) : Arg := if a.line = line then { a with data := putLine a.data o n v } else a
  match e.due with
  | .ev .data a => { e with due := .ev .data (a' a) }
  | .ev .wb a => { e with due := .ev .wb (a' a) }
  | .ev .backd a => { e with due := .ev .backd (a' a) }
  | _ => e

/-- n bytes, at most 128, from physical address pa, out of one line or of two that follow; addresses wrap at 2^52 (R332). -/
def splitRd (f : Nat → BitVec 1024) (pa n : Nat) : Nat :=
  let o := pa % 128
  if o + n ≤ 128 then natBits (f (pa / 128)).toNat (8 * o + 8 * n - 1) (8 * o)
  else natBits (f (pa / 128)).toNat 1023 (8 * o) +
    2 ^ (8 * (128 - o)) * natBits (f ((pa / 128 + 1) % 2 ^ 45)).toNat (8 * (o + n - 128) - 1) 0

/-- n bytes at physical address pa. -/
def cohRd (s : State) (pa n : Nat) : Nat := splitRd (cohLine s) pa n

/-- Bytes of v, as a coherent agent of the device writes them at once: memory and every tracked copy (R333, R338). -/
def cohWr (s : State) (pa n v : Nat) : State :=
  let s1 := { s with
    mem := memWrs s.mem (lineCells (pa / 128) (putLine (cohLine s (pa / 128)) (pa % 128) n v))
    agenda := s.agenda.map (flyWr (pa / 128) (pa % 128) n v) }
  islIds.foldl (fun s y => s.modI y fun i =>
    { i with
      copies := i.copies.map fun e =>
        if e.1 = pa / 128 ∧ e.2.st ≠ .Rg then (e.1, { e.2 with data := putLine e.2.data (pa % 128) n v }) else e
      wbuf := i.wbuf.map fun e => if e.1 = pa / 128 then (e.1, putLine e.2 (pa % 128) n v) else e
      mshr := i.mshr.map fun (m : Mshr) =>
        if m.line = pa / 128 then { m with data := m.data.map fun g => (g.1, putLine g.2 (pa % 128) n v) } else m }) s1

/-- Device accesses to the page are held for a bias flip to the host (R344). -/
def State.biasHeld (s : State) (pa : Nat) : Bool :=
  match s.dev.bfBusy with
  | some (p, true) => p == pa / 4096
  | _ => false

/-! The page walk. -/

inductive Walk where
  /-- Address fault at a level, and the address of the entry (R336). -/
  | fault (lvl ea : Nat)
  /-- Entry that is not present, at its address. -/
  | unmapped (ea : Nat)
  /-- A leaf: entry, level, address of the entry, log2 of the page size. -/
  | leaf (e : W64) (lvl ea size : Nat)
  deriving DecidableEq, Repr

/-- log2 of the page bytes of a size code (R335); code 7 is none. -/
def pageBits (sz : Nat) : Nat :=
  match sz with
  | 0 => 12 | 1 => 16 | 2 => 21 | 3 => 25 | 4 => 30 | 5 => 34 | _ => 38

/-- Size codes that R333 allows at a level (root is 0, L3 is 4). -/
def sizeAt (lvl sz : Nat) : Bool :=
  match lvl with
  | 2 => sz == 4 || sz == 5 || sz == 6
  | 3 => sz == 2 || sz == 3
  | 4 => sz == 0 || sz == 1
  | _ => false

/-- Bit that a level's index starts at, and its entries (R333). -/
def lvlShift (lvl : Nat) : Nat := 48 - 9 * lvl
def lvlEntries (lvl : Nat) : Nat := if lvl = 0 then 64 else 512

def ptePresent (e : W64) : Bool := e.getLsbD 0
def pteLeaf (e : W64) : Bool := e.getLsbD 1
def pteRes (e : W64) : Bool := e.getLsbD 2
def pteSz (e : W64) : Nat := (e.extractLsb' 55 3).toNat
def pteAdr (e : W64) : Nat := (e.extractLsb' 12 40).toNat * 4096
def pteW (e : W64) : Bool := e.getLsbD 60
def pteX (e : W64) : Bool := e.getLsbD 61
def pteD (e : W64) : Bool := e.getLsbD 59
def pteHs (e : W64) : Bool := e.getLsbD 58
def pteCls (e : W64) : BitVec 2 := e.extractLsb' 62 2

/-- Reserved bits of R334 that are set. -/
def pteBad (e : W64) : Bool :=
  e.extractLsb' 3 9 != 0 ||
  (if pteLeaf e then e.extractLsb' 52 3 != 0 else e.extractLsb' 52 12 != 0 || e.getLsbD 2)

/-- A leaf that stands for a group of entries, present at the group's first entry (R335). -/
def groupOf (s : State) (table idx lvl : Nat) : Nat :=
  let rd (i : Nat) : W64 := BitVec.ofNat 64 (cohRd s (table + 8 * i) 8)
  let f256 := idx / 256 * 256
  let f16 := idx / 16 * 16
  let isGrp (i : Nat) (ok : Nat → Bool) : Bool := ptePresent (rd i) && pteLeaf (rd i) && ok (pteSz (rd i))
  if lvl = 2 ∧ isGrp f256 (· == 6) then f256
  else if isGrp f16 (fun z => sizeAt lvl z && (z == 1 || z == 3 || z == 5)) then f16
  else idx

/-- The first tier frame of a leaf lies in an island outside the context's partition (R405). -/
def State.partOf (s : State) (y : Isl) : Nat := natBits s.dev.prt.toNat (2 * y.val + 1) (2 * y.val)

def ctxPart (s : State) (cx : Nat) : Nat :=
  match (List.range 4).find? fun p =>
    let w := (s.dev.pcx.toList.getD p 0).toNat
    decide (natBits w 6 0 ≤ cx) && decide (cx < natBits w 6 0 + natBits w 15 8) with
  | some p => p
  | none => 0

def frameOut (s : State) (cx : BitVec 7) (pa : Nat) : Bool :=
  decide (pa < 0x3000000000) && s.dev.pcx.toList.any (· != 0) && s.partOf (homeOf pa) != ctxPart s cx.toNat

/-- The table that the walker of an island holds for an entry of a level, without reading it (R337). -/
def heldTable (i : IslandSt) (cx : BitVec 7) (lvl va : Nat) : Option Nat :=
  (i.wc.find? fun e => e.cx == cx && e.lvl == lvl && e.path == va >>> lvlShift lvl).map (·.next)

/-- Walk of island y's walker from a table at a level, at most n levels (R333 to R337). -/
def walk (s : State) (y : Isl) (cx : BitVec 7) (va : Nat) : Nat → Nat → Nat → Walk
  | 0, _, table => .fault 4 table
  | n + 1, lvl, table =>
    match heldTable (s.isl.get y) cx lvl va with
    | some next => walk s y cx va n (lvl + 1) next
    | none =>
      let idx := groupOf s table ((va >>> lvlShift lvl) % lvlEntries lvl) lvl
      let ea := table + 8 * idx
      let e : W64 := BitVec.ofNat 64 (cohRd s ea 8)
      if !ptePresent e then .unmapped ea
      else if pteBad e then .fault lvl ea
      else if pteLeaf e then
        if !sizeAt lvl (pteSz e) then .fault lvl ea
        else if pteRes e && (pteAdr e % 2 ^ pageBits (pteSz e) != 0 || frameOut s cx (pteAdr e)) then .fault lvl ea
        else .leaf e lvl ea (pageBits (pteSz e))
      else if lvl = 4 then .fault lvl ea
      else walk s y cx va n (lvl + 1) (pteAdr e)

/-- Table entries that a walk passes and the walker does not hold yet. -/
def walkTables (s : State) (y : Isl) (cx : BitVec 7) (va : Nat) : Nat → Nat → Nat → List WalkEnt
  | 0, _, _ => []
  | n + 1, lvl, table =>
    match heldTable (s.isl.get y) cx lvl va with
    | some next => walkTables s y cx va n (lvl + 1) next
    | none =>
      let e : W64 := BitVec.ofNat 64 (cohRd s (table + 8 * ((va >>> lvlShift lvl) % lvlEntries lvl)) 8)
      if !ptePresent e || pteLeaf e || pteBad e || decide (4 ≤ lvl) then []
      else ⟨cx, lvl, va >>> lvlShift lvl, pteAdr e⟩ :: walkTables s y cx va n (lvl + 1) (pteAdr e)

def State.ctxOf (s : State) (cx : BitVec 7) : Ctx := s.dev.cx[cx.toNat]'cx.isLt

/-! Memory encryption (R345). Lines are held in clear with the key slot and the key of their last writer; who reads under
another key reads what the decryption under that key makes of the line, unless a cache holds it tagged with the reader's slot. -/

/-- Key slot and its key. -/
abbrev SlotKey := BitVec 7 × BitVec 512

def State.slotKey (s : State) (g : BitVec 7) : SlotKey := (g, (s.dev.key[g.toNat]'g.isLt).key)

/-- Memory slot of a context, with its key. -/
def State.ctxKey (s : State) (cx : BitVec 7) : Option SlotKey := some (s.slotKey (s.ctxOf cx).ksl)

/-- Key under which a core reads and writes; a management core has no context and reads in clear (log entry 8). -/
def State.coreKey (s : State) (c : CoreId) : Option SlotKey := if isMgmt c then none else s.ctxKey (s.core.get c).ctx

/-- A shelf or an offshore cache holds the line with a slot's tag: the key under which it was fetched. -/
def cachedKey (s : State) (g : BitVec 7) (line : Nat) : Option (BitVec 512) :=
  islIds.findSome? fun y =>
    let i := s.isl.get y
    (((i.shelf.find? fun e => e.line == line && e.slot.any (·.1 == g)).bind (·.slot)).or
      ((tfind i.copies line).bind fun c => c.tag.filter (·.1 == g))).map (·.2)

/-- A line as it reads under a key: a cached copy serves the slot that tags it with what it held when it was fetched, whatever key the
slot holds now; any other reader takes the line from memory and decrypts it (R345). -/
def seenLine (s : State) (k : Option SlotKey) (line : Nat) (d : BitVec 1024) : BitVec 1024 :=
  match k, tfind s.dev.lineKey line with
  | some (g, k), some (_, w) =>
    let u := (cachedKey s g line).getD k
    if w = u then d else Config.xtsDecrypt u line (Config.xtsEncrypt w line d)
  | _, _ => d

/-- Caches that tag a line with the slot of a key keep it under that key from now on. -/
def retag (k : SlotKey) (line : Nat) (s : State) : State :=
  let up (t : Option SlotKey) : Option SlotKey := if t.any (·.1 == k.1) then some k else t
  islIds.foldl (fun s y => s.modI y fun i =>
    { i with
      shelf := i.shelf.map fun e => if e.line = line then { e with slot := up e.slot } else e
      copies := i.copies.map fun e => if e.1 = line then (e.1, { e.2 with tag := up e.2.tag }) else e }) s

/-- A line that is about to be written under a key: it is refetched under that key, if it was written under another one, and the
caches hold it under that key from then on. What a management core writes, every reader reads in clear (R345; log entry 8). -/
def claimLine (k : Option SlotKey) (line : Nat) (s : State) : State :=
  match k with
  | none => if (tfind s.dev.lineKey line).isNone then s else s.modD fun e => { e with lineKey := tdel e.lineKey line }
  | some x =>
    if 0x60000000 ≤ line ∧ Config.deviceMemory line = false then s
    else
      let d := cohLine s line
      let s1 := if seenLine s k line d = d then s else cohWr s (line * 128) 128 (seenLine s k line d).toNat
      (retag x line s1).modD fun e => { e with lineKey := tset e.lineKey line x }

/-- n bytes as they read under a key. -/
def keyRd (s : State) (k : Option SlotKey) (pa n : Nat) : Nat := splitRd (fun l => seenLine s k l (cohLine s l)) pa n

/-- n bytes within one line written under a key. -/
def lineWr (k : Option SlotKey) (pa n v : Nat) (s : State) : State := cohWr (claimLine k (pa / 128) s) pa n v

/-- n bytes, at most 128, written under a key. -/
def keyWr (s : State) (k : Option SlotKey) (pa n v : Nat) : State :=
  let m := 128 - pa % 128
  if n ≤ m then lineWr k pa n v s
  else lineWr k ((pa / 128 + 1) % 2 ^ 45 * 128) (n - m) (v / 2 ^ (8 * m)) (lineWr k pa m (v % 2 ^ (8 * m)) s)

/-- Root table of a context (R331). -/
def State.rootOf (s : State) (cx : BitVec 7) : Nat := natBits (s.ctxOf cx).ptr.toNat 51 12 * 4096

/-- Walk of the context's tables for a virtual address, by island y's walker. -/
def walkVa (s : State) (y : Isl) (cx : BitVec 7) (va : Nat) : Walk := walk s y cx va 5 0 (s.rootOf cx)

/-- A record of an address fault names the address of the table entry at which the walk ended (R336). -/
def nameEntry (s : State) (c : CoreId) (r : Rec) : Rec :=
  if r.cause ≠ 0x0A ∨ 5 < r.dtl.toNat then r
  else match walkVa s (islOf c) r.ctx r.fadr.toNat with
    | .fault _ ea | .unmapped ea => { r with entry := ea }
    | .leaf .. => r

/-! Translation of one access. -/

/-- Kind of access. -/
inductive Acc where
  | rd | wr | ex
  deriving DecidableEq, Repr

inductive XRes where
  /-- Physical address and the translation that gives it; none for the heap window. -/
  | ok (pa : Nat) (x : Option Xlat)
  /-- Address fault with its detail, protection fault with its detail, page not resident (R359). -/
  | addr (dtl : Nat)
  | prot (dtl : Nat)
  | absent
  deriving DecidableEq, Repr

/-- Heap window of a context: first address, end, offset, writable, executable (R331, R332). -/
def heapOf (k : Ctx) : Nat × Nat × Nat × Bool × Bool :=
  let b := natBits k.hwb.toNat 53 12 * 4096
  (b, b + natBits k.hwl.toNat 53 12 * 4096, natBits k.hwo.toNat 51 0, k.hwl.getLsbD 3, k.hwl.getLsbD 2)

/-- A byte of core c lies in its context's heap window, or is reached by a management core: no leaf maps it (R332). -/
def noLeaf (s : State) (c : CoreId) (va : Nat) : Bool :=
  isMgmt c || let (lo, hi, _) := heapOf (s.ctxOf (s.core.get c).ctx); decide (lo ≤ va) && decide (va < hi)

/-- Detail of a protection fault: 1 write, 2 fetch (R359). -/
def protDtl (a : Acc) : Nat := if a = .ex then 2 else 1

/-- Use of a leaf's translation. A fetch of a page that is not executable is the fetch fault of R66, here `absent`. -/
def useLeaf (x : Xlat) (va : Nat) (a : Acc) : XRes :=
  match a with
  | .wr => if x.w then .ok (x.pa + (va - x.va)) (some x) else .prot 1
  | .ex => if x.x then .ok (x.pa + (va - x.va)) (some x) else .absent
  | .rd => .ok (x.pa + (va - x.va)) (some x)

/-- The translation of va that core c's buffer holds for its context (R337). -/
def bufferedXlat (s : State) (c : CoreId) (va : Nat) : Option Xlat :=
  let k := s.core.get c
  k.tlb.find? fun t => t.cx == k.ctx && decide (t.va ≤ va) && decide (va < t.va + t.size)

/-- Translate z bytes at va for core c, through the window, the core's buffer or the walk (R332, R336, R337). Beyond its window a
management core has no tables, and nothing is mapped (log entry 105). -/
def translate (s : State) (c : CoreId) (va z : Nat) (a : Acc) : XRes :=
  if isMgmt c then (if va + z ≤ 2 ^ 52 then .ok va none else .addr (if va < 2 ^ 52 then 6 else 5))
  else
    let cx := (s.core.get c).ctx
    let (lo, hi, ofs, w, x) := heapOf (s.ctxOf cx)
    let i0 := decide (lo ≤ va) && decide (va < hi)
    let i1 := decide (lo ≤ va + z - 1) && decide (va + z - 1 < hi)
    if i0 != i1 then .addr 6
    else if i0 then
      if (a = .wr ∧ !w) ∨ (a = .ex ∧ !x) then .prot (protDtl a) else .ok ((va + ofs) % 2 ^ 52) none
    else
      match bufferedXlat s c va with
      | some t => useLeaf t va a
      | none =>
        match walkVa s (islOf c) cx va with
        | .fault l _ => .addr l
        | .unmapped _ => .addr 5
        | .leaf e _ _ n =>
          if !pteRes e then
            (if a = .wr ∧ !pteW e then .prot 1 else .absent)
          else useLeaf ⟨cx, va / 2 ^ n * 2 ^ n, 2 ^ n, pteAdr e, pteW e, pteX e, pteD e, pteHs e, pteCls e⟩ va a

/-- A buffer takes an entry and may give up an older one: which one, if any, is free (R337; log entry 1). -/
def refill {α : Type} [BEq α] (l : List α) (x : α) (n : Nat) : List α :=
  if l.contains x then l else x :: l.eraseIdx (n % (2 * l.length + 1))

/-- The core's buffer keeps the translation of a resident leaf, and the walker the table entries on the way (R337). -/
def keepXlat (c : CoreId) (r : XRes) (s : State) : State :=
  match r with
  | .ok _ (some x) =>
    if (s.core.get c).tlb.contains x then s
    else
      let (n, s1) := s.pick
      let new := walkTables s1 (islOf c) x.cx x.va 4 0 (s1.rootOf x.cx)
      (s1.modC c fun k => { k with tlb := refill k.tlb x n }).modI (islOf c) fun i =>
        { i with wc := new.foldl (fun w e => refill w e (n / 2)) i.wc }
  | _ => s

/-- Set D of the leaf that maps va for core c, if there is one (R338, R339). -/
def setDirty (c : CoreId) (va : Nat) (s : State) : State :=
  if noLeaf s c va then s
  else match walkVa s (islOf c) (s.core.get c).ctx va with
    | .leaf e _ ea _ => if pteD e then s else cohWr s ea 8 (e ||| (1 <<< 59)).toNat
    | _ => s

/-! Fetch of code words. -/

/-- A fetch that fails: cause, FADR, DTL (R359). -/
structure FetchErr where
  cause : Byte
  fadr : W64
  dtl : W64
  deriving DecidableEq, Repr

/-- The fetch line that holds byte va is in core c's buffer, fetched now if need be (R66). A walk that faults is an address fault, an
unmapped page is the fetch fault of R66's example (R336). -/
def needLine (c : CoreId) (va : Nat) (s : State) : Except FetchErr State :=
  if (s.core.get c).ifb.any (·.va == va / 64) then .ok s
  else if decide (2 ^ 54 ≤ va) then .error ⟨0x04, BitVec.ofNat 64 va, 0⟩
  else match translate s c va 2 .ex with
    | .ok pa x =>
      let at_ := (pa + 2 ^ 52 - va % 64) % 2 ^ 52
      let lost : Option Nat := if homeOf at_ != islOf c && s.dev.flits.contains (c, (s.core.get c).seq * 8 + 7, va / 64) then
        some (0x2000 + (homeOf at_).val) else none
      let bad := ((s.badUnit (islOf c) at_ 64).or lost).map (BitVec.ofNat 16)
      let l : FetchLine := ⟨va / 64, BitVec.ofNat 512 (keyRd s (s.coreKey c) at_ 64), bad⟩
      .ok ((keepXlat c (.ok pa x) (if bad.isSome then reach (islOf c) at_ 64 s else s)).modC c fun k => { k with ifb := l :: k.ifb })
    | .prot d => .error ⟨0x0B, BitVec.ofNat 64 va, BitVec.ofNat 64 d⟩
    | .addr d => if d ≤ 4 then .error ⟨0x0A, BitVec.ofNat 64 va, BitVec.ofNat 64 d⟩ else .error ⟨0x04, BitVec.ofNat 64 va, 0⟩
    | _ => .error ⟨0x04, BitVec.ofNat 64 va, 0⟩

/-- CodeWord(va), once its line is in the buffer. -/
def codeWord (k : CoreSt) (va : Nat) : BitVec 16 :=
  match k.ifb.find? (·.va == va / 64) with
  | some l => l.data.extractLsb' (8 * (va % 64)) 16
  | none => 0

/-- The fetch reads poisoned bytes of the line of va, which is in the buffer (R382). -/
def badLine (k : CoreSt) (va : Nat) : Option (BitVec 16) := (k.ifb.find? fun l => l.va == va / 64).bind (·.bad)

/-- The line of va is in the buffer and its bytes are used: poison in them is the error 0x35, at the piece's address, with the unit
that detected it. -/
def useLine (c : CoreId) (va : Nat) (s : State) : Except FetchErr State :=
  match needLine c va s with
  | .error e => .error e
  | .ok s1 => match badLine (s1.core.get c) va with
    | some u => .error ⟨0x35, BitVec.ofNat 64 (va / 64 * 64), u.setWidth 64⟩
    | none => .ok s1

/-- Class of a page that an access of core c takes, and whether it is shared with the host: its leaf's, or the window's (R343, R344). -/
def pageX (s : State) (c : CoreId) (x : Option Xlat) : BitVec 2 × Bool :=
  match x with
  | some t => (t.cls, t.hs)
  | none => ((s.ctxOf (s.core.get c).ctx).hwl.extractLsb' 0 2, false)

/-- The code line of va lies in a page that is shared with the host and in host bias: the host is asked before it comes (R344). -/
def hostCode (s : State) (c : CoreId) (va : Nat) : Bool :=
  match translate s c va 2 .ex with
  | .ok pa (some x) => x.hs && !s.dev.devBias.contains (pa / 4096)
  | _ => false

/-- The code line of va is not in the buffer, and its page is on its way to host bias: the fetch is held (R344). -/
def codeHeld (s : State) (c : CoreId) (va : Nat) : Bool :=
  !((s.core.get c).ifb.any (·.va == va / 64)) && match translate s c va 2 .ex with | .ok pa _ => s.biasHeld pa | _ => false

/-- Fetch runs ahead by one line: the line after the one of a fetched bundle's last code word comes into the buffer with it, if it can
be fetched without asking the host and is not held, so that only a taken transfer or an invalidation makes a bundle wait for its code words
(log entry 93). -/
def fetchAhead (c : CoreId) (nxt : Nat) (s : State) : State :=
  let va := ((nxt - 1) / 64 + 1) * 64
  if hostCode s c va || codeHeld s c va then s
  else match needLine c va s with
    | .ok s1 => s1
    | .error _ => s

/-- Code words va, va + 2, … of which every line is in the buffer. -/
def codeWords (k : CoreSt) (va : Nat) : Nat → List (BitVec 16)
  | 0 => []
  | n + 1 => codeWord k va :: codeWords k (va + 2) n

/-- Number of code words of the bundle at va, from its first (R61). -/
def bundleLen (c : CoreId) (va : Nat) (s : State) : Except FetchErr (Nat × State) :=
  match useLine c va s with
  | .error e => .error e
  | .ok s1 =>
    let w := codeWord (s1.core.get c) va
    match bundleWords (s1.core.get c).dict.length w with
    | none => .error ⟨0x01, BitVec.ofNat 64 va, w.setWidth 64⟩
    | some n => .ok (n, s1)

/-- FetchBundle(va): image, address after it, and the state with the lines fetched (R65). A literal spans at most two
fetch lines (R66). -/
def fetchBundle (c : CoreId) (va : Nat) (s : State) : Except FetchErr (Image × Nat × State) :=
  match bundleLen c va s with
  | .error e => .error e
  | .ok (n, s1) =>
    match useLine c (if (va + 2 * n - 2) / 64 = va / 64 then va else (va / 64 + 1) * 64) s1 with
    | .error e => .error e
    | .ok s2 =>
      let k := s2.core.get c
      let w := codeWord k va
      let img := if w.toNat < 0xF000 then k.dict.getD w.toNat 0 else literalImage w (codeWords k (va + 2) (n - 1))
      .ok (img, va + 2 * n, s2)

/-- Address after n bundles from va, decoding the first code word of each (R102). -/
def skipBundles (c : CoreId) : Nat → Nat → State → Except FetchErr (Nat × State)
  | 0, va, s => .ok (va, s)
  | n + 1, va, s =>
    match bundleLen c va s with
    | .error e => .error e
    | .ok (k, s1) => skipBundles c n (va + 2 * k) s1

end Sys2Proof.Machine
end

