-- ==== Sys2Proof/Machine/Control.lean ====
section
/-! DEFINITION. Control transfer, loops and special registers (R100 to R112). -/

namespace Sys2Proof.Machine

/-- LoopMode is Modulo or StepRun: a bundle of a loop body issues (R110). -/
def inBody (r : Regs) : Bool := r.mode == .modulo || r.mode == .stepRun

/-- A transfer to t that acts, with its link register if one is written (R101). -/
def jumpTo (t : W64) (link : Option (BitVec 6)) (s : State) : State :=
  if t.getLsbD 0 then takeTrap 0x05 t 0 s
  else if t.extractLsb' 54 10 != 0 then takeTrap 0x0A t 7 s
  else
    let s1 := match link with
      | some d => toS 1 d s.bun.nxt s
      | none => s
    { s1 with bun := { s1.bun with target := some t } }

/-- A transfer: refused in a loop body whatever the guard holds (R110), then guarded. -/
def transfer (op : Nat) (g : Guard) (t : State → W64) (link : Option (BitVec 6)) (s : State) : Out :=
  if inBody s.me.r then .next (illegal op s) else guarded g s (fun s => jumpTo (t s) link s)

/-- pc + 2 × Imm() (R100). -/
def relTarget (imm : BitVec 33) (s : State) : W64 := s.bun.adr + 2 * immS imm

/-- BR (R100, R101). -/
def execBr (g : Guard) (imm : BitVec 33) (s : State) : Out := transfer 0x50 g (relTarget imm) none s

/-- JMP (R100, R101). -/
def execJmp (g : Guard) (a : BitVec 6) (s : State) : Out := transfer 0x51 g (fun s => s.me.r.getS a) none s

/-- CALL (R100, R101): the link is the address of the next bundle. -/
def execCall (g : Guard) (d : BitVec 6) (imm : BitVec 33) (s : State) : Out := transfer 0x52 g (relTarget imm) (some d) s

/-- CALLR (R100, R101). -/
def execCallr (g : Guard) (d a : BitVec 6) (s : State) : Out :=
  transfer 0x53 g (fun s => s.me.r.getS a) (some d) s

/-- RET (R100): the effect of JMP. -/
def execRet (g : Guard) (a : BitVec 6) (s : State) : Out := transfer 0x54 g (fun s => s.me.r.getS a) none s

/-- Rotate(): both bases fall by one (R103). -/
def Regs.rotate (r : Regs) : Regs := { r with rotV := r.rotV - 1, rotP := r.rotP - 1 }

/-- Advance() would return Continue (R103). -/
def Regs.goesOn (r : Regs) : Bool := r.lct != 0 || decide (1 < r.lsc.toNat)

/-- P(8) := v, in the physical register that it names now. -/
def Regs.setP8 (r : Regs) (v : W64) : Regs := r.setP (r.physP 8) v (BitVec.allOnes 64)

/-- Advance() (R103). In modulo mode the body's first bundle is next on Continue (R105). -/
def Regs.advance (r : Regs) : Regs :=
  let r0 := { r with adv := false }
  let again (r : Regs) : Regs := if r.mode = .modulo then { r with pc := r.bodyStart, pos := 0 } else r
  if r.lct ≠ 0 then again ({ r0 with lct := r.lct - 1 }.rotate.setP8 (BitVec.allOnes 64))
  else if 1 < r.lsc.toNat then again ({ r0 with lsc := r.lsc - 1 }.rotate.setP8 0)
  else { r0 with mode := .idle }

/-- Advance at the boundary where it is due, in the registers and in a checkpoint state that holds it (R105, R111). -/
def CoreSt.advance (k : CoreSt) : CoreSt :=
  { k with r := if k.r.adv then k.r.advance else k.r, ck := if k.ck.adv then k.ck.advance else k.ck }

/-- Loop start with trip count a: loop registers and stage predicates reach the first body bundle (R102). -/
def startLoop (m : LoopMode) (a : W64) (ii ns : Nat) (s : State) : State :=
  let r := s.me.r
  let s1 := deliver 1 (.lsc (BitVec.ofNat 64 ns)) (deliver 1 (.lct (a - 1)) s)
  let s2 := deliver 1 (.p (r.physP 8) (BitVec.allOnes 64) (BitVec.allOnes 64)) s1
  let s3 := (List.range 7).foldl
    (fun s j => deliver 1 (.p (r.physP (BitVec.ofNat 4 (9 + j))) 0 (BitVec.allOnes 64)) s) s2
  s3.modMe fun k => { k with r := { k.r with mode := m, bodyStart := s.bun.nxt, bodyLen := ii, pos := 0 } }

/-- The loop instructions (R102). A fault of the walk over the body is taken here, as the operation executes, with SLOT 0: DESIGN CHOICE
(log entry 113). -/
def loopOp (op : Nat) (m : LoopMode) (g : Guard) (a : BitVec 6) (ii : BitVec 8) (ns1 : BitVec 3) (s : State) : Out :=
  if s.me.r.mode ≠ .idle then .next (illegal op s)
  else guarded g s fun s =>
    if ii = 0 then illegal op s
    else match skipBundles s.cur ii.toNat s.bun.nxt.toNat s with
      | .error e => if e.cause = 0x35 then consume false e.fadr e.dtl.toNat none s else takeTrap e.cause e.fadr e.dtl s
      | .ok (after, s1) =>
        if s.me.r.getS a = 0 then { s1 with bun := { s1.bun with target := some (BitVec.ofNat 64 after) } }
        else startLoop m (s.me.r.getS a) ii.toNat (ns1.toNat + 1) s1

/-- LOOP (R102): modulo mode. -/
def execLoop (g : Guard) (a : BitVec 6) (ii : BitVec 8) (ns1 : BitVec 3) (s : State) : Out :=
  loopOp 0x55 .modulo g a ii ns1 s

/-- SLOOP (R102, R106): stepped mode. -/
def execSloop (g : Guard) (a : BitVec 6) (ii : BitVec 8) (ns1 : BitVec 3) (s : State) : Out :=
  loopOp 0x56 .stepRun g a ii ns1 s

/-- SNEXT (R107), once the drain that holds its issue is over: Advance runs at this bundle's boundary (R16). -/
def execSnext (g : Guard) (imm : BitVec 33) (s : State) : Out :=
  if inBody s.me.r then .next (illegal 0x57 s)
  else guarded g s fun s =>
    if s.me.r.mode = .stepWait then
      if s.me.r.goesOn then
        let t := relTarget imm s
        if t.extractLsb' 54 10 ≠ 0 then takeTrap 0x0A t 7 s
        else
          let s1 := s.modMe fun k => { k with r := { k.r with adv := true, mode := .stepRun, pos := 0 } }
          { s1 with bun := { s1.bun with target := some t } }
      else s.modMe fun k => { k with r := { k.r with adv := true } }
    else s

/-! Special registers. -/

/-- div (R24). -/
def divWord (d : Divs) : W64 := BitVec.ofNat 64 (d.ctl + d.vec * 2 ^ 8 + d.mtx * 2 ^ 16 + d.cpy * 2 ^ 24)

/-- ocn (R25). Each field shows the low six bits of its counter: one checkpoint can release more stores than the capacity of STC
(log entry 97). -/
def ocnWord (k : CoreSt) : W64 :=
  BitVec.ofNat 64 (k.ldc % 64 + k.stc % 64 * 2 ^ 8 + k.cpc % 64 * 2 ^ 16 + k.til % 64 * 2 ^ 24)

/-- rot (R23). -/
def rotWord (r : Regs) : W64 := BitVec.ofNat 64 (r.rotV.toNat + r.rotP.toNat * 2 ^ 8)

/-- Value of a special register at issue (R21, R112); none for an index that is not listed. A management core carries no
core number: its cid is a free value (log entry 1). -/
def sprRead (s : State) (idx : BitVec 8) : Option W64 :=
  let k := s.me
  match idx.toNat with
  | 0x00 => some s.bun.adr
  | 0x01 => some (if isMgmt s.cur then Config.freeWord s.free else BitVec.ofNat 64 s.cur.val)
  | 0x02 => some (k.stg.setWidth 64)
  | 0x03 => some k.r.wid
  | 0x04 => some (k.r.pen.setWidth 64)
  | 0x05 => some k.wfw
  | 0x06 => some (BitVec.ofNat 64 k.cyc)
  | 0x07 => some (k.r.fst.setWidth 64)
  | 0x08 => some (rotWord k.r)
  | 0x09 => some (divWord k.div)
  | 0x0A => some (ocnWord k)
  | 0x0B => some k.r.lct
  | 0x0C => some k.r.lsc
  | 0x0D => some k.sfi
  | 0x0E => some (s.ctxOf k.ctx).energy
  | _ => none

/-- Special registers that R21 lists, and those of them that software writes. -/
def sprListed (idx : BitVec 8) : Bool := decide (idx.toNat ≤ 0x0E)
def sprWritten (idx : BitVec 8) : Bool := idx == 0x07 || idx == 0x08 || idx == 0x0B || idx == 0x0C

/-- MFSP (R112); latency 1. -/
def execMfsp (g : Guard) (d : BitVec 6) (idx : BitVec 8) (s : State) : Out :=
  guardedIf (sprListed idx) 0x58 g s fun s0 =>
    let s := if idx = 0x0E then chargeCtx s0.me.ctx s0 else s0
    match sprRead s idx with
    | some v => toS 1 d v { s with free := s.free + 1 }
    | none => illegal 0x58 s

/-- MTSP (R112); latency 1. Read-only and unlisted registers trap (R21), and so does an lsc outside 1 to 8 (R109). -/
def execMtsp (g : Guard) (a : BitVec 6) (idx : BitVec 8) (s : State) : Out :=
  guardedIf (sprWritten idx) 0x59 g s fun s =>
    let v := s.me.r.getS a
    match idx.toNat with
    | 0x07 => deliver 1 (.fst (v.setWidth 8)) s
    | 0x08 => deliver 1 (.rot (v.setWidth 4) (v.extractLsb' 8 3)) s
    | 0x0B => deliver 1 (.lct v) s
    | 0x0C => if v = 0 ∨ 8 < v.toNat then illegal 0x59 s else deliver 1 (.lsc v) s
    | _ => illegal 0x59 s

end Sys2Proof.Machine
end

