-- ==== Sys2Proof/Machine/Access.lean ====
section
/-! DEFINITION. The scalar memory path: address checks, the store-withholding buffer, the order in which a core's accesses
perform, island copies of lines and requests to their homes (R178 to R193, R246 to R260, R346 to R353). -/

namespace Sys2Proof.Machine

/-! Addresses. -/

/-- A slice's data and staging ways are fenced or out of service for a test (R388, R389). -/
def sliceDown (i : IslandSt) (slice : Nat) : Bool := i.fslice.getLsbD slice || unitOff i 0x10 slice

/-- The strait between two islands is fenced or out of service for a test (R388, R389). -/
def straitDown (s : State) (a b : Isl) : Bool :=
  (s.isl.get a).fstrait.getLsbD b.val || (s.isl.get b).fstrait.getLsbD a.val || unitOff (s.isl.get a) 0x20 b.val ||
    unitOff (s.isl.get b) 0x20 a.val

/-- Bytes of staging that launch n may use in a slice: its STW ways, 0 if the slice is fenced (R30, R321, R389). -/
def stagingSize (s : State) (c : CoreId) (slice : Nat) : Nat :=
  let y := islOf c
  if sliceDown (s.isl.get y) slice then 0
  else match s.launch? (s.core.get c).launch with
    | some l => l.stw * 0x40000
    | none => 0

/-- Staging byte a of core c's island, as its context sees it (R345). -/
def stgOf (s : State) (c : CoreId) (a : Nat) : Nat := stgKey (s.ctxOf (s.core.get c).ctx).ksl (islOf c) a

/-- A byte of island staging that a halyard holds (R209). -/
def heldByHalyard (s : State) (y : Isl) (lo n : Nat) : Bool :=
  s.dev.hal.any fun e =>
    decide (e.2.handle.toNat / 2 ^ 14 = y.val) && e.2.store.any fun r => decide (r.1 < lo + n) && decide (lo < r.1 + r.2)

/-- Staging range check of z bytes at offset a of an island's staging (R178 item 3). -/
def stagingOk (s : State) (c : CoreId) (a z : Nat) : Bool :=
  decide (natBits a 21 0 + z ≤ stagingSize s c (natBits a 26 22)) && !heldByHalyard s (islOf c) a z

/-- Result of the checks of R178. -/
inductive Addr where
  | trap (cause : Byte) (fadr dtl : W64)
  /-- Space, effective address, key of the first byte. -/
  | at (sp : Sp) (ea : W64) (key : Nat) (x : XRes)
  /-- The global page is not resident. -/
  | absent (ea : W64)
  deriving DecidableEq, Repr

/-- EA = Wrap(S(SRA) + SExt(OFF, 22), 64) (R178). -/
def effAddr (s : State) (a : BitVec 6) (off : BitVec 22) : W64 := s.me.r.getS a + off.signExtend 64

/-- Checks of R178 for z bytes at ea, in order; op is the slot's OP field. -/
def checkAddr (op : Nat) (sp : BitVec 2) (ea : W64) (z : Nat) (acc : Acc) (s : State) : Addr :=
  if sp = 3 then .trap 0x03 0 (BitVec.ofNat 64 op)
  else if ea.toNat % z ≠ 0 then .trap 0x06 ea (BitVec.ofNat 64 z)
  else if sp = 1 then
    if 0x200000 < ea.toNat + z then .trap 0x07 ea (BitVec.ofNat 64 z)
    else .at .pad ea (padKey s.cur ea.toNat) (.ok 0 none)
  else if sp = 2 then
    if 2 ^ 27 ≤ ea.toNat ∨ !stagingOk s s.cur ea.toNat z then .trap 0x08 ea (BitVec.ofNat 64 z)
    else .at .stg ea (stgOf s s.cur ea.toNat) (.ok 0 none)
  else if 2 ^ 54 ≤ ea.toNat then .trap 0x0A ea 7
  else match translate s s.cur ea.toNat z acc with
    | .ok pa x => .at .glob ea pa (.ok pa x)
    | .addr d => .trap 0x0A ea (BitVec.ofNat 64 d)
    | .prot d => .trap 0x0B ea (BitVec.ofNat 64 d)
    | .absent => .absent ea

/-- Line of a physical address, and its home. -/
def lineOf (pa : Nat) : Nat := pa / 128
def lineHome (line : Nat) : Isl := homeOf (line * 128)

/-- Region of the core's launch that holds va (R37). -/
def regionOf (s : State) (c : CoreId) (va : Nat) : Option Region :=
  match s.launch? (s.core.get c).launch with
  | some l => l.regions.find? fun r => decide (r.base ≤ va) && decide (va < r.base + r.len)
  | none => none

/-- Key of a region's rounds: entry of its launch in the pool, and index; a region's rounds belong to its launch (R36, R187; log entry
35). -/
def roundKey (l : Option Nat) (r : Nat) : Nat := l.getD 4096 * 4096 + r

/-- Island table of region r for core c (R36). -/
def tableOf (s : State) (c : CoreId) (r : Nat) : Round :=
  tget 0 (s.isl.get (islOf c)).rounds (roundKey (s.core.get c).launch r)

/-! The core's own stores. -/

/-- Newest byte that the core's stores older than `seq` hold for a key: withheld, or released and not performed (R183). -/
def ownByte (k : CoreSt) (seq key : Nat) (d : Byte) : Byte :=
  ((k.sto ++ k.wst).filter (fun t => decide (t.seq < seq))).foldl
    (fun b t => t.cells.foldl (fun b c => if c.1 = key then c.2 else b) b) d

/-- n bytes that a load sees: the core's own newer stores over memory bytes m (R183). -/
def ownBytes (k : CoreSt) (seq : Nat) (m : Nat → Byte) (key : Nat) : Nat → Nat
  | 0 => 0
  | n + 1 => (ownByte k seq key (m key)).toNat + 256 * ownBytes k seq m (key + 1) n

/-- Value of z bytes read from the pad at issue (R138, R183). -/
def padValue (s : State) (key z : Nat) : Nat := ownBytes s.me (s.order + 1) (memRd s.mem) key z

/-- The pad bytes that a load of the slot being issued reads are poisoned, in the pad or by the core's own withheld stores, which a
later store of the whole piece cleans: the unit that detected the error (R183, R381). -/
def padPoison (s : State) (key z : Nat) : Option Nat :=
  s.me.wst.foldl (fun b t =>
    let n := if t.sp = .pad then (t.cells.filter fun c => c.1 / 64 == key / 64).length else 0
    if n = 0 then b else if t.bad.isSome then t.bad else if n < 64 then b else none) (s.badUnit (islOf s.cur) key z)

/-- A flit of a transfer of core c fails on the strait to the home of a physical address: what it carried is poisoned (R381). -/
def flitFails (s : State) (c : CoreId) (seq part pa : Nat) : Bool :=
  homeOf pa != islOf c && s.dev.flits.contains (c, seq, part)

/-- Extension of a loaded value of z bytes (R180). -/
def extend (signed : Bool) (z v : Nat) : W64 :=
  if signed then BitVec.ofInt 64 (sext v (8 * z)) else BitVec.ofNat 64 v

/-- Withhold a store of the slot being issued (R139, R182). -/
def withhold (sp : Sp) (va : W64) (cells : List Host.Cell) (entries : Nat) (rel : Bool) (scp : BitVec 2) (bad : Option Nat)
    (trip : Trip) (s : State) : State :=
  s.modMe fun k =>
    { k with wst := k.wst ++ [⟨k.nid, s.order, sp, va, cells, entries, rel, scp, bad, trip⟩], nid := k.nid + 1 }

/-- Entries of the buffer in use (R139). -/
def CoreSt.entries (k : CoreSt) : Nat := k.wst.foldl (fun n t => n + t.entries) 0

/-! Counted operations. -/

/-- Issue a counted operation of the slot being issued, to be tried first after dt ticks (R25). -/
def issueCop (dt : Nat) (f : Nat → Nat → Cop) (s : State) : State :=
  let id := s.me.nid
  let s1 := s.modMe fun k => { k with loads := k.loads ++ [{ f id s.order with badr := s.bun.adr }], nid := id + 1 }
  s1.after dt (.perform s.cur id)

/-- A counted operation that takes a free time. -/
def issueFree (f : Nat → Nat → Cop) (s : State) : State :=
  let (n, s1) := s.pick
  issueCop (n + 1) f s1

/-- Hop count between a core and a slice (R312). -/
def hops (c : CoreId) (slice : Nat) : Nat :=
  let l := c.val % 32
  (max (l / 8) (slice / 8) - min (l / 8) (slice / 8)) + (max (l % 8) (slice % 8) - min (l % 8) (slice % 8))

/-- Slices that core c's requests of its island use now: those of scalar accesses that have not performed, and of copies that
move (R313). -/
def slicesOf (s : State) (c : CoreId) : List Nat :=
  let k := s.core.get c
  let sl (sp : Sp) (a : Nat) : List Nat := match sp with | .glob => [a / 128 % 32] | .stg => [natBits a 26 22] | .pad => []
  let side (b : W64) (a : Nat) : List Nat := match baseSp b with | 0 => [a / 128 % 32] | 2 => [natBits a 26 22] | _ => []
  ((k.loads.filter (·.val.isNone)).flatMap fun o => sl o.sp o.addr) ++
    (k.sto.flatMap fun t => sl t.sp ((t.cells.head?.map (·.1)).getD 0)) ++
    ((k.cu0.run.toList ++ k.cu1.run.toList).flatMap fun r =>
      let w := r.cmd.walk; side w.src (w.srcAt r.x).toNat ++ side w.dst (w.dstAt r.x).toNat)

/-- Rows and columns of the grid between a core and a slice: requests whose rectangles are apart share no path (R312, R313). -/
def apart (c : CoreId) (a : Nat) (d : CoreId) (b : Nat) : Bool :=
  let lo (f : Nat → Nat) (x y : Nat) : Nat := min (f x) (f y)
  let hi (f : Nat → Nat) (x y : Nat) : Nat := max (f x) (f y)
  let l := c.val % 32
  let m := d.val % 32
  decide (hi (· / 8) l a < lo (· / 8) m b) || decide (hi (· / 8) m b < lo (· / 8) l a) ||
    decide (hi (· % 8) l a < lo (· % 8) m b) || decide (hi (· % 8) m b < lo (· % 8) l a)

/-- No other request uses the slice's port or the path to it now (R313). -/
def stagingQuiet (s : State) (c : CoreId) (slice : Nat) : Bool :=
  coreIds.all fun d => islOf d != islOf c || (slicesOf s d).all fun b => b != slice && apart c slice d b

/-- Ticks of a staging load: 12 + 2h control cycles when nothing else uses the slice or the path, longer by a free number
otherwise; a staging atomic takes 2 cycles more (R192, R313). -/
def stagingTicks (s : State) (c : CoreId) (a extra : Nat) : Nat × State :=
  let base := (12 + 2 * hops c (natBits a 26 22) + extra) * s.me.div.ctl
  if stagingQuiet s c (natBits a 26 22) ∧ s.me.div = ⟨4, 4, 4, 4⟩ then (base, s)
  else let (n, s1) := s.pick; (base + n, s1)

/-! The order in which a core's accesses perform (R184, R193, R246 to R253). -/

/-- An access of a core, as the order of its path sees it. -/
structure PathOp where
  id : Nat
  seq : Nat
  ld : Bool
  st : Bool
  sp : Sp
  lo : Nat
  z : Nat
  acq : Bool
  rel : Bool
  scp : BitVec 2
  trip : Trip
  deriving DecidableEq, Repr

def Cop.path (o : Cop) : PathOp :=
  let amo : Bool := match o.kind with | .amo .. => true | _ => false
  ⟨o.id, o.seq, true, amo, o.sp, o.addr, o.z, o.acq, o.rel, o.scp, o.trip⟩

def Sto.path (o : Sto) : PathOp :=
  ⟨o.id, o.seq, false, true, o.sp, (o.cells.head?.map (·.1)).getD 0, o.cells.length, false, o.rel, o.scp, o.trip⟩

/-- Loads, atomics and region acquires order memory; other counted results do not. -/
def Cop.isAccess (o : Cop) : Bool :=
  match o.kind with
  | .load _ | .bounded .. | .absent | .amo .. | .racq _ => true
  | _ => false

/-- It delivers bytes of storage. -/
def Cop.isData (o : Cop) : Bool :=
  match o.kind with
  | .load _ | .bounded .. | .amo .. => true
  | _ => false

/-- Space bit of a fence (R193). -/
def spcBit (sp : Sp) : Nat := match sp with | .glob => 0 | .pad => 1 | .stg => 2

/-- A fence keeps a before b. -/
def Fence.keeps (f : Fence) (a b : PathOp) : Bool :=
  decide (a.seq < f.seq) && decide (f.seq < b.seq) && f.spc.getLsbD (spcBit a.sp) && f.spc.getLsbD (spcBit b.sp) &&
    ((a.ld && b.ld && f.ordr.getLsbD 0) || (a.ld && b.st && f.ordr.getLsbD 1) ||
     (a.st && b.ld && f.ordr.getLsbD 2) || (a.st && b.st && f.ordr.getLsbD 3))

/-- Two accesses share a byte of a space. -/
def PathOp.overlaps (a b : PathOp) : Bool := a.sp == b.sp && decide (a.lo < b.lo + b.z) && decide (b.lo < a.lo + a.z)

/-- The widest of some scopes. -/
def widest : List (BitVec 2) → Option (BitVec 2)
  | [] => none
  | x :: r => match widest r with
    | none => some x
    | some y => some (if y.toNat < x.toNat then x else y)

/-- The widest scope of a space (R31, R248). -/
def widestOf (sp : Sp) : BitVec 2 := match sp with | .glob => 3 | .stg => 1 | .pad => 0

/-- A scope wider than the space's widest acts as the widest (R31). -/
def capScope (sp : Sp) (x : BitVec 2) : BitVec 2 := if (widestOf sp).toNat < x.toNat then widestOf sp else x

/-- Scope of the edge that keeps a before b: two pad accesses; one location, but for a load behind the core's own store, which sees
that store's bytes (R183, R251), though not for an acquire behind the core's own release; an acquire, a release, a fence between
them (R246). A fence between two spaces acts at the wider one's scope. -/
def PathOp.edge (k : CoreSt) (a b : PathOp) : Option (BitVec 2) :=
  if a.seq < b.seq then
    widest ((if a.sp == .pad && b.sp == .pad || a.overlaps b && (a.ld || b.st || (a.rel && b.acq)) then [3] else []) ++
      (if a.acq then [capScope a.sp a.scp] else []) ++ (if b.rel then [capScope b.sp b.scp] else []) ++
      (k.fences.filter fun f => f.keeps a b).map fun f =>
        capScope (if (widestOf a.sp).toNat < (widestOf b.sp).toNat then b.sp else a.sp) f.scp)
  else none

/-- Region acquires whose result has been delivered and has not landed: they hold what follows until Rr and F have their new
values (R190). -/
def CoreSt.landing (k : CoreSt) : List PathOp :=
  (k.pend.filter fun d => match d.eff with | .racq .. => true | _ => false).map fun d =>
    ⟨0, d.seq, true, false, .glob, 0, 0, true, false, 3, Trip.init⟩

/-- Accesses of the core that have not performed. An acquire of a region counts until its delivery has landed (R190). -/
def CoreSt.open_ (k : CoreSt) : List PathOp :=
  (k.loads.filter fun o => o.isAccess && (o.val.isNone || match o.kind with | .racq _ => true | _ => false)).map Cop.path ++
    k.sto.map Sto.path ++ k.landing

/-- A pad access of the core that took place early, as the order of its path sees it. -/
def Early.path (e : Early) : PathOp := ⟨0, e.seq, e.ld, e.st, .pad, e.lo, e.z, e.acq, e.rel, e.scp, Trip.init⟩

/-- What it should have followed has not performed. -/
def CoreSt.ahead (k : CoreSt) : List Early := k.early.filter fun e => k.open_.any fun a => e.olds.contains a.seq

/-- Older accesses of the core that come before pad access b and have not performed (R246). -/
def CoreSt.oldsOf (k : CoreSt) (b : PathOp) : List Nat :=
  (((k.open_.filter fun a => (a.edge k b).isSome).map (·.seq)) ++
    ((k.ahead.filter fun e => (e.path.edge k b).isSome).flatMap (·.olds))).eraseDups

/-- Pad access b of core c takes place at its fixed time; if older accesses come before it, that is kept in mind (log entry 79). -/
def notePad (c : CoreId) (b : PathOp) (s : State) : State :=
  let olds := (s.core.get c).oldsOf b
  if olds.isEmpty then s
  else s.modC c fun k => { k with early := k.ahead ++ [⟨b.seq, b.ld, b.st, b.lo, b.z, b.acq, b.rel, b.scp, olds⟩] }

/-- An engine of core c keeps away from n pad bytes at a key that an early access of the core has read or written, until what
comes before that access has performed (R246; log entry 79). -/
def State.padKept (s : State) (c : CoreId) (key n : Nat) (write : Bool) : Bool :=
  (s.core.get c).ahead.any fun e => decide (e.lo < key + n) && decide (key < e.lo + e.z) && (e.st || write)

/-- The bytes between the first and the last that a pad store writes. -/
def Sto.span (o : Sto) : PathOp :=
  let lo := o.cells.foldl (fun n x => min n x.1) o.path.lo
  { o.path with lo := lo, z := o.cells.foldl (fun n x => max n (x.1 + 1 - lo)) 0 }

/-- Release withheld stores: pad stores reach the pad, others are performed later (R139, R182). -/
def releaseStores (c : CoreId) (s : State) : State :=
  let k := s.core.get c
  let pads := k.wst.filter (·.sp == .pad)
  let rest := k.wst.filter (·.sp != .pad)
  let s1 := pads.foldl (fun s t => markCells t.cells t.bad { s with mem := memWrs s.mem t.cells }) s
  let s2 := pads.foldl (fun s t => notePad c t.span s) (s1.modC c fun k => { k with wst := [], sto := k.sto ++ rest })
  rest.foldl (fun s t => let (n, s) := s.pick; s.after (n + 1) (.ev .storePerform (argCI c t.id))) s2

/-- A pushing core's accesses before its push have not all performed (R221, R249). -/
def State.pushOpen (s : State) (e : Nat × CoreId × Nat) : Bool :=
  (s.core.get e.2.1).open_.any fun a => decide (a.seq ≤ e.2.2) && a.sp != .pad

/-- Lines that an access touches. -/
def PathOp.lines (a : PathOp) : List Nat := [a.lo / 128, (a.lo + a.z - 1) / 128].eraseDups

/-- A release has written a line of access a of core c, and what that release went ahead of has not performed; its own core's later
releases are nothing that a can pair with (R250). -/
def State.narrowOpen (s : State) (c : CoreId) (a : PathOp) : Bool :=
  s.dev.narrow.any fun e => a.lines.contains e.line && !(e.core == c && decide (a.seq < e.seq)) &&
    (s.core.get e.core).open_.any fun x => decide (x.seq < e.seq)

/-- Older access a of core c keeps b back: every agent of the device is to see it first, or it has not arrived at its slice (R31, R184,
R193, R246). -/
def State.keeps (s : State) (c : CoreId) (a b : PathOp) : Bool :=
  match a.edge (s.core.get c) b with
  | none => false
  | some x => decide (2 ≤ x.toNat) || a.trip.arr.isNone

/-- An access of core c that has to wait: for an older access of the core; for what comes before a pad access that took place early;
or for those before the push of an item that the core pulled (R184, R193, R219, R246). A barr holds nothing of its own core: its token
acquires where it is waited for, DESIGN CHOICE (log entry 114). -/
def State.blocked (s : State) (c : CoreId) (b : PathOp) : Bool :=
  let k := s.core.get c
  k.open_.any (s.keeps c · b) || (k.ahead.any fun e => (e.path.edge k b).isSome) ||
    (b.sp != .pad && k.after.any fun e => decide (e.1 < b.seq) && s.pushOpen e)

/-- Older accesses that only a scope narrower than the device puts before b, with that scope: b may go ahead of them, since agents
outside it see no order (R248). -/
def State.passable (s : State) (c : CoreId) (b : PathOp) : List (PathOp × BitVec 2) :=
  let k := s.core.get c
  k.open_.filterMap fun a => match a.edge k b with | some x => if x.toNat < 2 ∧ a.trip.arr.isSome then some (a, x) else none | none => none

/-- Core c lies within scope x of core d (R31). -/
def within (x : BitVec 2) (d c : CoreId) : Bool := c == d || (x == 1 && islOf c == islOf d) || decide (2 ≤ x.toNat)

/-- A release has written a line of the access (R250). -/
def State.released (s : State) (a : PathOp) : Bool := s.dev.narrow.any fun e => a.lines.contains e.line

/-- Access b of core c, were it to perform before access a of core d of which a later one has gone ahead at scope x, could show the
order broken: it shares bytes with a, one of the two writes, and c lies within the scope (R248); or a is an acquire, and b a release or
an atomic at a line of it, with which it could pair, or a is itself an atomic that may pair with a release, since the edges of a pair
count at system scope (R250). -/
def State.crosses (s : State) (x : BitVec 2) (d : CoreId) (a : PathOp) (c : CoreId) (b : PathOp) : Bool :=
  (a.overlaps b && (a.st || b.st) && (within x d c || (a.acq && a.st && s.released a))) ||
    (a.acq && (b.rel || (b.ld && b.st)) && a.lines.any b.lines.contains)

/-- An access of another core, of which a later one has gone ahead, is still to perform: b does not set out for its slice meanwhile
(R248, R250). -/
def State.keptFrom (s : State) (c : CoreId) (b : PathOp) : Bool :=
  coreIds.any fun d => d != c && (s.core.get d).open_.any fun a => a.trip.past.any fun x => s.crosses x d a c b

/-- A later access of core c may go ahead of access a at scope x: no access that would have to keep away from a is at its slice, or has
itself been passed, and a pairs with no release that waits for accesses. So of two accesses that would have to keep away from each other
one at most is passed, and neither waits for the other (R248, R250, R263). -/
def State.mayPass (s : State) (c : CoreId) (a : PathOp) (x : BitVec 2) : Bool :=
  !(a.acq && s.narrowOpen c a) && coreIds.all fun d => d == c || (s.core.get d).open_.all fun e =>
    (e.trip.arr.isNone && e.trip.past.isNone) || !s.crosses x c a d e

/-- An older acquire keeps it waiting (R184, R258). -/
def State.heldByAcquire (s : State) (c : CoreId) (b : PathOp) : Bool :=
  let k := s.core.get c
  (k.open_.any fun a => decide (a.seq < b.seq) && a.acq) || (k.ahead.any fun e => decide (e.seq < b.seq) && e.acq) ||
    k.after.any fun e => decide (e.1 < b.seq) && s.pushOpen e

/-- Change the trip of an access of core c. -/
def State.modTrip (s : State) (c : CoreId) (id : Nat) (f : Trip → Trip) : State :=
  s.modC c fun k =>
    { k with
      loads := k.loads.map fun o => if o.id = id then { o with trip := f o.trip } else o
      sto := k.sto.map fun o => if o.id = id then { o with trip := f o.trip } else o }

/-- An access arrives at its slice (R349). -/
def State.arrive (s : State) (c : CoreId) (id : Nat) : State :=
  (s.modTrip c id fun t => { t with arr := some s.dev.arrN }).modD fun d => { d with arrN := d.arrN + 1 }

/-- Later access b has gone ahead of an access, at a scope. -/
def Trip.passed (t : Trip) (x : BitVec 2) : Trip := { t with past := widest (x :: t.past.toList) }

/-- Access b of core c goes to its slice if nothing keeps it; ahead of accesses that only a narrower scope orders it may go or
not, as it happens (R248, R406; log entries 1 and 118). True if it has arrived. -/
def State.letGo (s : State) (c : CoreId) (b : PathOp) : Bool × State :=
  if b.trip.arr.isSome then (true, s)
  else if s.blocked c b || s.keptFrom c b || (b.sp == .glob && s.biasHeld b.lo) then (false, s)
  else match s.passable c b with
    | [] => (true, s.arrive c b.id)
    | l =>
      let (n, s1) := s.pick
      if n % 2 = 0 || !l.all fun e => s.mayPass c e.1 e.2 then (false, s1)
      else (true, (l.foldl (fun s e => s.modTrip c e.1.id (·.passed e.2)) s1).arrive c b.id)

/-- Home island of the line of a physical address, and the slice at which an access is served: an atomic's is at its home, any
other's on the core's island (R346, R349, R353). -/
def servedAt (c : CoreId) (a : PathOp) : Nat :=
  match a.sp with
  | .glob => (if a.ld && a.st then homeOf a.lo else islOf c).val * 32 + a.lo / 128 % 32
  | _ => (islOf c).val * 32 + natBits a.lo 26 22

/-- Accesses of one slice are served in the order of their arrival (R349). -/
def State.turnOf (s : State) (c : CoreId) (b : PathOp) (n : Nat) : Bool :=
  coreIds.all fun d => (s.core.get d).open_.all fun a =>
    match a.trip.arr with
    | some m => !(decide (m < n) && servedAt d a == servedAt c b)
    | none => true

/-- A page that is shared with the host and in host bias: the host's coherence is asked first (R344). -/
def State.hostAsked (s : State) (b : PathOp) : Bool := b.sp == .glob && b.trip.hs && !s.dev.devBias.contains (b.lo / 4096)

/-- Access b of core c may perform now (R246, R248, R344, R349). A load that the core's line cache serves does not go to the
slice. -/
def State.ready (s : State) (c : CoreId) (b : PathOp) (cached : Bool) : Bool × State :=
  let (ok, s1) := s.letGo c b
  if !ok then (false, s1)
  else match (s1.core.get c).open_.find? (·.id == b.id) with
    | none => (false, s1)
    | some x =>
      if !cached && !s1.turnOf c x (x.trip.arr.getD 0) then (false, s1)
      else if s1.hostAsked x then
        match x.trip.host with
        | some t => (decide (t ≤ s1.tick), s1)
        | none => let (n, s2) := s1.pick; (false, s2.modTrip c b.id fun t => { t with host := some (s1.tick + n + 1) })
      else (true, s1)

/-- An engine of core c that moves bytes of global memory or of staging keeps away from accesses of which later ones have gone
ahead, those of its own core too (R31, R248, R250). -/
def State.engineKept (s : State) (c : CoreId) (key n : Nat) (write : Bool) : Bool :=
  coreIds.any fun d => (s.core.get d).open_.any fun a => a.sp != .pad && a.trip.past.any fun x =>
    s.crosses x d a c ⟨0, 0, !write, write, a.sp, key, n, false, false, 0, Trip.init⟩

/-- Least key of some, and the bytes up to the greatest. -/
def keySpan (l : List Nat) : Nat × Nat :=
  let lo := l.foldl min (l.headD 0)
  (lo, l.foldl (fun n k => max n (k + 1 - lo)) 0)

/-- An engine of core c keeps away from bytes of a space: those that a core has passed within a scope, or that the core's own early pad
accesses have touched (R31, R248; log entry 79). -/
def State.sideKept (s : State) (c : CoreId) (sp : Nat) (keys : List Nat) (write : Bool) : Bool :=
  let (lo, n) := keySpan keys
  !keys.isEmpty && (match sp with
    | 1 => s.padKept c lo n write
    | 4 => false
    | _ => s.engineKept c lo n write)

/-! Island copies. -/

/-- Ticks of a message between two islands: 10 control cycles at divisor 4, 20 when the strait is fenced, 4 within the home
island (R189, R351, R389). -/
def msgTicks (s : State) (a b : Isl) : Nat := if a = b then 16 else if straitDown s a b then 80 else 40

/-- Send a message from island a to island b. -/
def sendMsg (a b : Isl) (i : Instr) (g : Arg) (s : State) : State := s.after (msgTicks s a b) (.ev i g)

/-- The home may use its own memory under an entry: nothing is under way on the line, or what it asked for has come (R352). -/
def homeFree (h : Isl) (e : DirEnt) : Bool := e.busy.all fun b => b.req == h && b.inst

/-- Line as an agent of island y can read it now: its island's copy, or the home's memory when no other island owns it
(R349, R353). A copy of a region line is not coherent, and serves bounded accesses only (R350). -/
def islandLine (s : State) (y : Isl) (line : Nat) : Option (BitVec 1024) :=
  match (tfind (s.isl.get y).copies line).filter fun c => c.st != .Rg with
  | some c => some c.data
  | none =>
    if lineHome line = y then
      match tfind (s.isl.get y).dir line with
      | none => some (memLine s line)
      | some e => if e.st = .S ∧ homeFree y e then some (memLine s line) else none
    else none

/-- Island y asks the home for a line, once (R351 to R353). -/
def askLine (y : Isl) (line : Nat) (own : Bool) (s : State) : State :=
  let i := s.isl.get y
  if i.mshr.any (·.line == line) then s
  else
    let s1 := s.modI y fun i => { i with mshr := ⟨line, own, false, none, false⟩ :: i.mshr }
    let up : Bool := match tfind i.copies line with
      | some c => own && (c.st == .S || c.st == .O)
      | none => false
    let a := { Arg.zero with h := lineHome line, y := y, line := line }
    if up then sendMsg y (lineHome line) .upg a s1
    else if own then sendMsg y (lineHome line) .rdo a s1
    else sendMsg y (lineHome line) .rds a s1

/-- Island y may write the line now (R349): M or E copy, or a local line that no other island holds. -/
def ownsLine (s : State) (y : Isl) (line : Nat) : Bool :=
  match tfind (s.isl.get y).copies line with
  | some c => c.st == .M || c.st == .E
  | none => decide (lineHome line = y) && (tfind (s.isl.get y).dir line).all fun e =>
      e.st == .S && e.share.isEmpty && e.busy.isSome && homeFree y e

/-- Cells written into the island's copy of a line, or into memory on the home island. -/
def putCells (y : Isl) (line : Nat) (cells : List Host.Cell) (s : State) : State :=
  match tfind (s.isl.get y).copies line with
  | some c =>
    let d := cells.foldl (fun d x => putLine d (x.1 % 128) 1 x.2.toNat) c.data
    s.modI y fun i => { i with copies := tset i.copies line { c with st := if c.st = .Rg then .Rg else .M, data := d } }
  | none => { s with mem := memWrs s.mem cells }

/-- Lines that n bytes at a physical address touch; the heap window's offset need not keep an access within one (R332). -/
def linesOf (pa n : Nat) : List Nat :=
  if pa % 128 + n ≤ 128 then [pa / 128] else [pa / 128, (pa / 128 + 1) % 2 ^ 45]

/-! Line caches and their filters (R347, R348). -/

def lineSet (line : Nat) : Nat := natBits (line * 128) 12 7

/-- Filter bits of a line: h1 and h2. -/
def filterBits (line : Nat) : W64 :=
  let pa := line * 128
  (1 <<< natBits pa 18 13) ||| (1 <<< (natBits pa 24 19 ^^^ natBits pa 30 25))

/-- Agent number of a core at its island's directory: 0 to 31, 32 for the management core (R348). -/
def agentOf (c : CoreId) : Nat := if isMgmt c then 32 else c.val % 32

def filtKey (c : CoreId) (line : Nat) : Nat := agentOf c * 64 + lineSet line

/-- The directory names the agent as a holder (R348). -/
def named (s : State) (c : CoreId) (line : Nat) : Bool :=
  let f := tget 0 (s.isl.get (islOf c)).filt (filtKey c line)
  (f &&& filterBits line) == filterBits line

/-- A fill of core c's line cache: the filter takes the address's bits, and the oldest line of a full set is evicted
(R347, R348). -/
def fillLineCache (c : CoreId) (line : Nat) (s : State) : State :=
  let k := s.core.get c
  if k.lc.contains line then s
  else
    let inSet := k.lc.filter fun e => lineSet e == lineSet line
    let s1 := (s.modC c fun k => { k with lc := line :: k.lc }).modI (islOf c) fun i =>
      { i with filt := tmod 0 i.filt (filtKey c line) (· ||| filterBits line) }
    match inSet.getLast? with
    | some old => if 4 ≤ inSet.length then s1.now .lineCacheEviction { Arg.zero with c := c, line := old } else s1
    | none => s1

/-- Agents of the island other than c that the filters name drop the line; a false holder answers with a miss (R348). -/
def invAgents (y : Isl) (line : Nat) (but : Option CoreId) (s : State) : State :=
  coreIds.foldl (fun s c =>
    if islOf c = y ∧ some c ≠ but ∧ named s c line then
      s.modC c fun k => { k with lc := k.lc.filter (· != line) }
    else s) s

/-! The shelf (R343). -/

/-- The largest STW among the running launches with a core on the island or a halyard in its staging (R343). -/
def stagingWays (s : State) (y : Isl) : Nat :=
  s.dev.pool.foldl (fun n e =>
    let here : Bool := (coreIds.any fun c => islOf c == y && (s.core.get c).run != .unbound && (s.core.get c).launch == some e.1) ||
      e.2.halys.any fun h => (tfind s.dev.hal h).any fun x => x.stg && h / 2 ^ 14 == y.val
    if e.2.st = .running ∧ here then max n e.2.stw else n) 0

/-- Two lines lie in one set of one slice: 32 slices, 2,048 sets (R343, R346; log entry 78). -/
def sameSet (a b : Nat) : Bool := a % 65536 == b % 65536

/-- A dirty line leaves the caches: memory takes it encrypted under the key that its slot holds now (R345). -/
def writeBack (e : ShelfLine) (s : State) : State :=
  if e.dirty then
    match tfind s.dev.lineKey e.line with
    | some (g, _) => s.modD fun d => { d with lineKey := tset d.lineKey e.line (s.slotKey g) }
    | none => s
  else s

/-- Ways per set that a class may hold, of those that staging leaves (R343). -/
def quota (s : State) (y : Isl) (cls : BitVec 2) : Nat :=
  min (natBits (s.isl.get y).shq.toNat (4 * cls.toNat + 3) (4 * cls.toNat)) (12 - stagingWays s y)

/-- An access of a line at its home's shelf: a hit needs the slot's tag; a fill replaces the least recently used line of the class
where the class holds its quota, else of a full set; with quota 0, or in a slice that is out of service, it is not filled
(R343, R345, R389). A hit keeps the key under which the line was fetched, but for a write, after which the line is its writer's. A
management core has no slot, and its lines have no tag (log entry 8). -/
def touchShelf (line : Nat) (cls : BitVec 2) (k : Option SlotKey) (dirty : Bool) (s : State) : State :=
  let y := lineHome line
  let i := s.isl.get y
  let old := i.shelf.find? (·.line == line)
  let hit : Bool := old.any fun e => e.slot.map (·.1) == k.map (·.1)
  let e : ShelfLine := ⟨line, cls, if hit && !dirty then old.bind (·.slot) else k, dirty || (hit && old.any (·.dirty))⟩
  let rest := i.shelf.filter (·.line != line)
  let inSet := rest.filter fun x => sameSet x.line line
  let mine := inSet.filter (·.cls == cls)
  let q := quota s y cls
  let put (l : List ShelfLine) (s : State) : State := s.modI y fun i => { i with shelf := l }
  if hit && q != 0 && !sliceDown i (line % 32) then put (e :: rest) s
  else
    let s1 := old.elim s fun x => writeBack x s
    if q = 0 ∨ sliceDown i (line % 32) then writeBack e (put rest s1)
    else
      let out := if q ≤ mine.length then mine.getLast? else if 12 - stagingWays s y ≤ inSet.length then inSet.getLast? else none
      match out with
      | some x => put (e :: rest.filter (·.line != x.line)) (writeBack x s1)
      | none => put (e :: rest) s1

/-- An access of core c through its island's caches: the home's shelf, and the tag of the island's copy, which is the requester's once
it has been refetched for it (R343, R345). -/
def touchLine (c : CoreId) (line : Nat) (cls : BitVec 2) (dirty : Bool) (s : State) : State :=
  let k := s.coreKey c
  (touchShelf line cls k dirty s).modI (islOf c) fun i =>
    match tfind i.copies line with
    | some x => if !dirty && x.tag.map (·.1) == k.map (·.1) then i else { i with copies := tset i.copies line { x with tag := k } }
    | none => i

/-- The lines of a slice leave the shelf, dirty ones to memory: the slice is fenced or out of service (R388, R389). -/
def emptyShelf (y : Isl) (slice : Nat) (s : State) : State :=
  let out := (s.isl.get y).shelf.filter fun e => e.line % 32 == slice
  (out.foldl (fun s e => writeBack e s) s).modI y fun i => { i with shelf := i.shelf.filter fun e => e.line % 32 != slice }

/-- Lines in ways that staging takes are written back and leave the shelf (R343). -/
def trimShelf (y : Isl) (s : State) : State :=
  let w := 12 - stagingWays s y
  let keep := (s.isl.get y).shelf.foldl (fun l e => if (l.filter fun x => sameSet x.line e.line).length < w then l ++ [e] else l) []
  let s1 := ((s.isl.get y).shelf.filter fun e => !keep.contains e).foldl (fun s e => writeBack e s) s
  s1.modI y fun i => { i with shelf := keep }

/-! The offshore cache (R346, R349, R350). -/

/-- Island y gives up a copy of its offshore cache: a clean one is reported, a dirty one waits in the writeback buffer. -/
def evictCopy (y : Isl) (line : Nat) (c : Copy) (s : State) : State :=
  let h := lineHome line
  let s1 := invAgents y line none (s.modI y fun i => { i with copies := tdel i.copies line })
  let a : Arg := { Arg.zero with h := h, line := line, x := y }
  match c.st with
  | .Rg => s1
  | .S | .E => sendMsg y h .ce a s1
  | .M | .O => sendMsg y h .wb { a with data := c.data } (s1.modI y fun i => { i with wbuf := tset i.wbuf line c.data })

/-- The lines of a part of the offshore cache leave it, but for those for which something is under way, which go once that is over
(R388, R389). -/
def emptyPart (y : Isl) (part : Nat) (s : State) : State :=
  ((s.isl.get y).copies.filter fun e => e.1 % 32 == part && !(s.isl.get y).mshr.any fun m => m.line == e.1).foldl
    (fun s e => evictCopy y e.1 e.2 s) s

/-- A part of the offshore cache holds 4,096 lines. Which line of a full part goes is free (log entry 1). -/
def offshoreRoom (y : Isl) (line : Nat) (s : State) : State :=
  let i := s.isl.get y
  let part := i.copies.filter fun e => e.1 % 32 == line % 32
  let may := part.filter fun e => e.1 != line && !i.mshr.any fun m => m.line == e.1
  if part.length < 4096 then s
  else
    let (n, s1) := s.pick
    match may[n % may.length]? with
    | some (l, c) => evictCopy y l c s1
    | none => s1

/-- The cache of island y does not keep a line whose slice or part is out of service (R388, R389). -/
def noKeep (i : IslandSt) (line : Nat) : Bool := sliceDown i (line % 32) || unitOff i 0x11 (line % 32)

/-- Once an access has performed, such a line goes, unless something is under way for it. -/
def settleLine (y : Isl) (line : Nat) (s : State) : State :=
  if noKeep (s.isl.get y) line && !(s.isl.get y).mshr.any fun m => m.line == line then
    match tfind (s.isl.get y).copies line with
    | some c => evictCopy y line c s
    | none => s
  else s

/-! Scope widening (R250). -/

/-- A release has written lines: their directory keeps the writer and the scope. -/
def noteNarrow (c : CoreId) (b : PathOp) (s : State) : State :=
  let x := capScope b.sp b.scp
  if b.rel then
    s.modD fun d =>
      { d with narrow := b.lines.map (⟨·, c, x, b.seq, false⟩) ++ d.narrow.filter fun e => !(b.lines.contains e.line && e.core == c) }
  else s

/-- An acquire of core c at a line that a narrow release has written. One without the release's scope has the directory send the
writer a forced publish, once, after which the release counts as one of system scope; any waits until the writer has performed what
comes before the release, since the edges of a pair count at system scope. True if the acquire may perform; otherwise it leaves its
slice meanwhile. -/
def widen (c : CoreId) (b : PathOp) (s : State) : Bool × State :=
  let out (s : State) : State := s.modTrip c b.id fun t => { t with arr := none }
  if !b.acq then (true, s)
  else match s.dev.narrow.find? fun e => b.lines.contains e.line && !within e.scp e.core c with
    | some e =>
      if !e.asked then
        let home := if b.sp == .glob then homeOf b.lo else islOf c
        (false, out (sendMsg home (islOf e.core) .forcedPublish (argC e.core) ((s.modD fun d =>
          { d with narrow := d.narrow.map fun x => if x = e then { x with asked := true } else x }).modC c fun k => k.count 13 1)))
      else if s.has (.ev .forcedPublish (argC e.core)) || s.narrowOpen c b then (false, out s)
      else (false, out (s.modD fun d => { d with narrow := d.narrow.map fun x => if x = e then { x with scp := 3 } else x }))
    | none => if s.narrowOpen c b then (false, out s) else (true, s)

end Sys2Proof.Machine
end

