-- ==== Sys2Proof/Machine/Memory.lean ====
section
/-! DEFINITION. Scalar loads, stores, residency tests, atomics and fences, and the steps at which counted operations and
stores perform and are delivered (R178 to R193). -/

namespace Sys2Proof.Machine

/-! Loads. -/

/-- A counted operation as it is issued. -/
def newCop (kind : CopKind) (dst : BitVec 6) (pj : BitVec 4) (sp : Sp) (va : W64) (addr z : Nat) (acq rel : Bool)
    (scp : BitVec 2) (val : Option (W64 × Bool)) (id seq : Nat) : Cop :=
  ⟨id, seq, kind, dst, pj, sp, va, addr, z, acq, rel, scp, val, Trip.init, 0⟩

/-- How an access to va through a translation sets out: the context whose tables hold it, whether it lies in a region, the class of its
line and whether its page is shared with the host. -/
def tripOf (s : State) (c : CoreId) (va : W64) (x : XRes) : Trip :=
  let t := { Trip.init with reg := (regionOf s c va.toNat).isSome }
  match x with
  | .ok _ (some x) => { t with cx := some x.cx, cls := x.cls, hs := x.hs }
  | _ => { t with cls := (s.ctxOf (s.core.get c).ctx).hwl.extractLsb' 0 2 }

/-- A counted access to global memory as it is issued. -/
def newAccess (kind : CopKind) (dst : BitVec 6) (pj : BitVec 4) (va : W64) (addr z : Nat) (acq rel : Bool) (scp : BitVec 2)
    (trip : Trip) (id seq : Nat) : Cop :=
  { newCop kind dst pj .glob va addr z acq rel scp none id seq with trip := trip }

/-- A load whose value is 0 and whose predicate is cleared with the delivery, n ticks on (R180, R191). -/
def issueZero (n : Nat) (dst : BitVec 6) (pj : BitVec 4) (va : W64) (z : Nat) (acq : Bool) (scp : BitVec 2) (s : State) : State :=
  let id := s.me.nid
  let s1 := s.modMe fun k =>
    { k with loads := k.loads ++ [{ newCop .absent dst pj .glob va 0 z acq false scp (some (0, true)) id s.order with badr := s.bun.adr }], nid := id + 1 }
  s1.after n (.ev .loadDelivery (argCI s.cur id))

/-- The test of R191 at issue: the island table is below Rr - k. -/
def staleNow (s : State) (c : CoreId) (r k : Nat) : Bool :=
  !roundGe (tableOf s c r) (tget 0 (s.core.get c).r.rr r - BitVec.ofNat 48 k)

/-- Threshold of R258: Max(Rr - k, F). -/
def threshold (s : State) (c : CoreId) (r k : Nat) : Round :=
  roundMax (tget 0 (s.core.get c).r.rr r - BitVec.ofNat 48 k) (tget 0 (s.core.get c).r.fl r)

/-- Threshold that a bounded load takes at its issue; one that an earlier acquire holds takes it when that hold ends
(R258). -/
def issueThreshold (s : State) (r k : Nat) : Option Round :=
  if s.heldByAcquire s.cur ⟨0, s.order, true, false, .glob, 0, 0, false, false, 0, Trip.init⟩ then none
  else some (threshold s s.cur r k)

/-- A pad load of the slot being issued (log entry 79). -/
def padRead (key z : Nat) (acq rel : Bool) (scp : BitVec 2) (s : State) : State :=
  notePad s.cur ⟨0, s.order, true, false, .pad, key, z, acq, rel, scp, Trip.init⟩ s

/-- A load of z bytes at the checked address (R180, R184, R191); k is the bound, 0 for a plain load (R181). A pad load takes its
bytes at issue and has its fixed latency, whatever acquire or fence is open; the core's engines keep its place in the order
(log entry 79). -/
def loadAt (signed : Bool) (z k : Nat) (dst : BitVec 6) (pj : BitVec 4) (acq : Bool) (scp : BitVec 2) (x : Addr) (s : State) : State :=
  match x with
  | .trap c f d => takeTrap c f d s
  | .absent ea => issueZero (4 * s.me.div.ctl) dst pj ea z acq scp s
  | .at .pad ea key _ =>
    match padPoison s key z with
    | some u => consume false (pieceOf ea) u (some key) s
    | none => toS 3 dst (extend signed z (padValue s key z)) (padRead key z acq false scp s)
  | .at .stg ea key _ =>
    let (n, s1) := stagingTicks s s.cur ea.toNat 0
    issueCop n (newCop (.load signed) dst pj .stg ea key z acq false scp none) s1
  | .at .glob ea key xr =>
    let s0 := keepXlat s.cur xr s
    match regionOf s0 s0.cur ea.toNat with
    | none => issueFree (newAccess (.load signed) dst pj ea key z acq false scp (tripOf s0 s0.cur ea xr)) s0
    | some r =>
      if staleNow s0 s0.cur r.index k && r.zero then
        let (n, s1) := s0.pick
        issueZero (n + 1) dst pj ea z acq scp s1
      else
        issueFree (newAccess (.bounded signed k r.index (issueThreshold s0 r.index k)) dst pj ea key z acq false scp
          (tripOf s0 s0.cur ea xr)) s0

/-- The plain loads (R180). -/
def loadOp (op : Nat) (signed : Bool) (z : Nat) (g : Guard) (d a : BitVec 6) (j : BitVec 4) (sp : BitVec 2)
    (off : BitVec 22) (s : State) : Out :=
  guarded g s fun s =>
    loadAt signed z 0 d (s.me.r.physP j) false 0 (checkAddr op sp (effAddr s a off) z .rd s) s

/-- LDB (R180): one byte, sign-extended. -/
def execLdb (g : Guard) (d a : BitVec 6) (j : BitVec 4) (sp : BitVec 2) (off : BitVec 22) (s : State) : Out :=
  loadOp 0x60 true 1 g d a j sp off s

/-- LDBN (R180): one byte, zero-extended. -/
def execLdbn (g : Guard) (d a : BitVec 6) (j : BitVec 4) (sp : BitVec 2) (off : BitVec 22) (s : State) : Out :=
  loadOp 0x61 false 1 g d a j sp off s

/-- LDH (R180). -/
def execLdh (g : Guard) (d a : BitVec 6) (j : BitVec 4) (sp : BitVec 2) (off : BitVec 22) (s : State) : Out :=
  loadOp 0x62 true 2 g d a j sp off s

/-- LDHN (R180). -/
def execLdhn (g : Guard) (d a : BitVec 6) (j : BitVec 4) (sp : BitVec 2) (off : BitVec 22) (s : State) : Out :=
  loadOp 0x63 false 2 g d a j sp off s

/-- LDW (R180). -/
def execLdw (g : Guard) (d a : BitVec 6) (j : BitVec 4) (sp : BitVec 2) (off : BitVec 22) (s : State) : Out :=
  loadOp 0x64 true 4 g d a j sp off s

/-- LDWN (R180). -/
def execLdwn (g : Guard) (d a : BitVec 6) (j : BitVec 4) (sp : BitVec 2) (off : BitVec 22) (s : State) : Out :=
  loadOp 0x65 false 4 g d a j sp off s

/-- LDD (R180). -/
def execLdd (g : Guard) (d a : BitVec 6) (j : BitVec 4) (sp : BitVec 2) (off : BitVec 22) (s : State) : Out :=
  loadOp 0x66 false 8 g d a j sp off s

/-- LDA (R184): a zero-extended load that is an acquire. -/
def execLda (g : Guard) (d a : BitVec 6) (j : BitVec 4) (sp scp sz : BitVec 2) (off : BitVec 22) (s : State) : Out :=
  guarded g s fun s =>
    let z := 2 ^ sz.toNat
    loadAt false z 0 d (s.me.r.physP j) true scp (checkAddr 0x6D sp (effAddr s a off) z .rd s) s

/-- LDK (R191): the bounded load, once the stall test that holds its issue has passed. -/
def execLdk (g : Guard) (d a : BitVec 6) (j : BitVec 4) (sp : BitVec 2) (k : BitVec 7) (sz : BitVec 2) (off : BitVec 22)
    (s : State) : Out :=
  guardedIf (sp == 0) 0x6C g s fun s =>
      let z := 2 ^ sz.toNat
      loadAt false z k.toNat d (s.me.r.physP j) false 0 (checkAddr 0x6C sp (effAddr s a off) z .rd s) s

/-- LDR (R185): all ones if the page is resident, else all zeros; latency 2. -/
def execLdr (g : Guard) (pd : BitVec 4) (a : BitVec 6) (sp : BitVec 2) (off : BitVec 22) (s : State) : Out :=
  guardedIf (sp == 0) 0x6B g s fun s =>
    match checkAddr 0x6B sp (effAddr s a off) 1 .rd s with
      | .trap c f d => takeTrap c f d s
      | .absent _ => toP 2 pd 0 s
      | .at _ _ _ x => toP 2 pd (BitVec.allOnes 64) (keepXlat s.cur x s)

/-- PGIN (R186, R342): requests the page; status at latency 4. A page in migration answers 0 and is not queued. -/
def execPgin (g : Guard) (d a : BitVec 6) (sp : BitVec 2) (off : BitVec 22) (s : State) : Out :=
  guardedIf (sp == 0) 0x6F g s fun s =>
      let ea := effAddr s a off
      match checkAddr 0x6F sp ea 1 .rd s with
      | .trap c f dt => takeTrap c f dt s
      | .at _ _ _ _ => toS 4 d 1 s
      | .absent _ =>
        match walkVa s (islOf s.cur) s.me.ctx ea.toNat with
        | .leaf e _ at_ n =>
          let page := ea.toNat / 2 ^ n * 2 ^ n
          let y := islOf s.cur
          let q := (s.isl.get y).pgq
          if s.dev.migr.contains at_ then toS 4 d 0 s
          else if pteAdr e = 0 then toS 4 d 3 s
          else if q.any fun r => r.cx == s.me.ctx && r.page == page then toS 4 d 0 s
          else if 64 ≤ q.length then toS 4 d 2 s
          else
            let (t, s1) := s.pick
            let s2 := s1.modI y fun i => { i with pgq := i.pgq ++ [⟨s.me.ctx, page, s.me.penOf⟩] }
            toS 4 d 0 (s2.after (t + 1) (.ev .pginService (argY y)))
        | _ => toS 4 d 3 s

/-! Stores. -/

/-- A store of the low z bytes of v at the checked address, withheld (R182, R184). -/
def storeAt (z : Nat) (v : W64) (rel : Bool) (scp : BitVec 2) (x : Addr) (s : State) : State :=
  match x with
  | .trap c f d => takeTrap c f d s
  | .absent ea => takeTrap 0x0C ea 0 s
  | .at sp ea key xr => withhold sp ea (cellsOf key v.toNat z) 1 rel scp none (tripOf s s.cur ea xr) (keepXlat s.cur xr s)

/-- The plain stores (R182). -/
def storeOp (op z : Nat) (g : Guard) (a b : BitVec 6) (sp : BitVec 2) (off : BitVec 22) (s : State) : Out :=
  guarded g s fun s => storeAt z (s.me.r.getS b) false 0 (checkAddr op sp (effAddr s a off) z .wr s) s

/-- STB (R182). -/
def execStb (g : Guard) (a b : BitVec 6) (sp : BitVec 2) (off : BitVec 22) (s : State) : Out := storeOp 0x67 1 g a b sp off s

/-- STH (R182). -/
def execSth (g : Guard) (a b : BitVec 6) (sp : BitVec 2) (off : BitVec 22) (s : State) : Out := storeOp 0x68 2 g a b sp off s

/-- STW (R182). -/
def execStw (g : Guard) (a b : BitVec 6) (sp : BitVec 2) (off : BitVec 22) (s : State) : Out := storeOp 0x69 4 g a b sp off s

/-- STD (R182). -/
def execStd (g : Guard) (a b : BitVec 6) (sp : BitVec 2) (off : BitVec 22) (s : State) : Out := storeOp 0x6A 8 g a b sp off s

/-- STL (R184): a store that is a release. -/
def execStl (g : Guard) (a b : BitVec 6) (sp scp sz : BitVec 2) (off : BitVec 22) (s : State) : Out :=
  guarded g s fun s =>
    let z := 2 ^ sz.toNat
    storeAt z (s.me.r.getS b) true scp (checkAddr 0x6E sp (effAddr s a off) z .wr s) s

/-! Atomics. -/

/-- New memory value of w bits (R192). -/
def amoVal (op : AmoOp) (w old b c : Nat) : Nat :=
  match op with
  | .add => (old + b) % 2 ^ w
  | .and => old &&& b
  | .or => old ||| b
  | .xor => old ^^^ b
  | .min => if sext old w < sext b w then old else b
  | .max => if sext old w < sext b w then b else old
  | .minn => min old b
  | .maxn => max old b
  | .swp => b
  | .cas => if old = c then b else old

/-- An atomic at its checked address (R192): on the pad it takes its place among the slots of its bundle and performs there, with
delivery 4 control cycles on; elsewhere it performs at the line's home. -/
def amoAt (op : AmoOp) (z : Nat) (d b : BitVec 6) (ord scp : BitVec 2) (x : Addr) (s : State) : State :=
  let r := s.me.r
  let vb := (r.getS b).toNat % 2 ^ (8 * z)
  let vd := (r.getS d).toNat % 2 ^ (8 * z)
  let kind := CopKind.amo op (BitVec.ofNat 64 vb) (BitVec.ofNat 64 vd)
  match x with
  | .trap c f dt => takeTrap c f dt s
  | .absent ea => takeTrap 0x0C ea 0 s
  | .at .pad ea key _ =>
    match padPoison s key z with
    | some u => consume false (pieceOf ea) u (some key) s
    | none =>
    let old := padValue s key z
    let s1 := withhold .pad ea (cellsOf key (amoVal op (8 * z) old vb vd) z) 0 (ord.getLsbD 1) scp none Trip.init s
    let id := s1.me.nid
    let o := { newCop kind d 0 .pad ea key z (ord.getLsbD 0) (ord.getLsbD 1) scp (some (BitVec.ofNat 64 old, false)) id s.order with
      badr := s.bun.adr }
    ((padRead key z (ord.getLsbD 0) (ord.getLsbD 1) scp s1).modMe fun k => { k with loads := k.loads ++ [o], nid := id + 1 }).after (4 * s.me.div.ctl) (.ev .loadDelivery (argCI s.cur id))
  | .at .stg ea key _ =>
    let (n, s1) := stagingTicks s s.cur ea.toNat 2
    issueCop n (newCop kind d 0 .stg ea key z (ord.getLsbD 0) (ord.getLsbD 1) scp none) s1
  | .at .glob ea key xr =>
    issueFree (newAccess kind d 0 ea key z (ord.getLsbD 0) (ord.getLsbD 1) scp (tripOf s s.cur ea xr)) (keepXlat s.cur xr s)

/-- The atomics (R192): a size other than word or double is an illegal operation. -/
def amoInstr (code : Nat) (op : AmoOp) (g : Guard) (d a b : BitVec 6) (sp ord scp sz : BitVec 2) (off : BitVec 22) (s : State) : Out :=
  guardedIf (decide (2 ≤ sz.toNat)) code g s fun s =>
    amoAt op (2 ^ sz.toNat) d b ord scp (checkAddr code sp (effAddr s a off) (2 ^ sz.toNat) .wr s) s

/-- AMOADD (R192): Wrap(old + b, w). -/
def execAmoadd (g : Guard) (d a b : BitVec 6) (sp ord scp sz : BitVec 2) (off : BitVec 22) (s : State) : Out :=
  amoInstr 0x70 .add g d a b sp ord scp sz off s

/-- AMOAND (R192): old AND b. -/
def execAmoand (g : Guard) (d a b : BitVec 6) (sp ord scp sz : BitVec 2) (off : BitVec 22) (s : State) : Out :=
  amoInstr 0x71 .and g d a b sp ord scp sz off s

/-- AMOOR (R192): old OR b. -/
def execAmoor (g : Guard) (d a b : BitVec 6) (sp ord scp sz : BitVec 2) (off : BitVec 22) (s : State) : Out :=
  amoInstr 0x72 .or g d a b sp ord scp sz off s

/-- AMOXOR (R192): old XOR b. -/
def execAmoxor (g : Guard) (d a b : BitVec 6) (sp ord scp sz : BitVec 2) (off : BitVec 22) (s : State) : Out :=
  amoInstr 0x73 .xor g d a b sp ord scp sz off s

/-- AMOMIN (R192): the smaller, signed. -/
def execAmomin (g : Guard) (d a b : BitVec 6) (sp ord scp sz : BitVec 2) (off : BitVec 22) (s : State) : Out :=
  amoInstr 0x74 .min g d a b sp ord scp sz off s

/-- AMOMAX (R192): the larger, signed. -/
def execAmomax (g : Guard) (d a b : BitVec 6) (sp ord scp sz : BitVec 2) (off : BitVec 22) (s : State) : Out :=
  amoInstr 0x75 .max g d a b sp ord scp sz off s

/-- AMOMINN (R192): the smaller, unsigned. -/
def execAmominn (g : Guard) (d a b : BitVec 6) (sp ord scp sz : BitVec 2) (off : BitVec 22) (s : State) : Out :=
  amoInstr 0x76 .minn g d a b sp ord scp sz off s

/-- AMOMAXN (R192): the larger, unsigned. -/
def execAmomaxn (g : Guard) (d a b : BitVec 6) (sp ord scp sz : BitVec 2) (off : BitVec 22) (s : State) : Out :=
  amoInstr 0x77 .maxn g d a b sp ord scp sz off s

/-- AMOSWP (R192): b. -/
def execAmoswp (g : Guard) (d a b : BitVec 6) (sp ord scp sz : BitVec 2) (off : BitVec 22) (s : State) : Out :=
  amoInstr 0x78 .swp g d a b sp ord scp sz off s

/-- AMOCAS (R192): b if old = sd as read at issue, otherwise old. -/
def execAmocas (g : Guard) (d a b : BitVec 6) (sp ord scp sz : BitVec 2) (off : BitVec 22) (s : State) : Out :=
  amoInstr 0x79 .cas g d a b sp ord scp sz off s

/-- FENCE (R193): in force until the accesses before it have performed. A mask or a space set of 0 has no effect. Pad loads and
pad stores keep their fixed times, and the core's engines keep their place in the order (log entry 79). -/
def execFence (g : Guard) (ordr : BitVec 4) (scp : BitVec 2) (spc : BitVec 3) (s : State) : Out :=
  guarded g s fun s =>
    if ordr = 0 ∨ spc = 0 then s
    else s.modMe fun k => { k with fences := k.fences ++ [⟨s.order, ordr, scp, spc⟩] }

/-! Performing. -/

/-- The result of a counted operation is known: its delivery follows at once. -/
def finishCop (c : CoreId) (id : Nat) (v : W64) (s : State) : State :=
  (s.modC c fun k => { k with loads := k.loads.map fun o => if o.id = id then { o with val := some (v, false) } else o }).now
    .loadDelivery (argCI c id)

/-- A result fixed now is delivered n ticks later. -/
def finishLater (c : CoreId) (id : Nat) (v : W64) (n : Nat) (s : State) : State :=
  (s.modC c fun k => { k with loads := k.loads.map fun o => if o.id = id then { o with val := some (v, false) } else o }).after n
    (.ev .loadDelivery (argCI c id))

/-- A result fixed now is delivered after a free time: its way back has no figure (R301; log entry 1). -/
def finishFree (c : CoreId) (id : Nat) (v : W64) (s : State) : State :=
  let (n, s1) := s.pick
  finishLater c id v (n + 1) s1

/-- Try again at the core's next control edge. -/
def retryCop (c : CoreId) (id : Nat) (s : State) : State :=
  s.at ((s.core.get c).edge .ctl (s.tick + 1)) (.perform c id)

/-- Bytes that a load of this core sees in lines of memory: its own newer stores over them (R183). -/
def lineValue (k : CoreSt) (o : Cop) (f : Nat → BitVec 1024) : Nat :=
  ownBytes k o.seq (fun key => (f (key / 128 % 2 ^ 45)).extractLsb' (8 * (key % 128)) 8) o.addr o.z

/-- Core c's line cache serves a line (R347). -/
def State.lineCached (s : State) (c : CoreId) (l : Nat) : Bool := (s.core.get c).lc.contains l && (islandLine s (islOf c) l).isSome

/-- Island y's read of the bytes of z at a physical address that lie in a line reaches what serves the line. -/
def reachIn (a z line : Nat) (y : Isl) (s : State) : State :=
  let lo := max a (line * 128)
  let hi := min (a + z) (line * 128 + 128)
  if lo < hi then reach y lo (hi - lo) s else reach y (line * 128) (a + z - 2 ^ 52) s

/-- Value that a load takes now: of staging, or of lines that its island holds, whose caches keep them, or of the copy that holds a
line elsewhere, which passes its home's shelf (R343, R347, R349). -/
def loadNow (c : CoreId) (o : Cop) (signed : Bool) (s : State) : W64 × State :=
  let y := islOf c
  match o.sp with
  | .glob =>
    let ls := linesOf o.addr o.z
    let f (l : Nat) : BitVec 1024 := seenLine s (s.coreKey c) l ((islandLine s y l).getD (cohLine s l))
    (extend signed o.z (lineValue (s.core.get c) o f), (ls.filter fun l => !s.lineCached c l).foldl (fun t l =>
      let t1 := reachIn o.addr o.z l y t
      if (islandLine s y l).isSome then settleLine y l (touchLine c l o.trip.cls false (fillLineCache c l t1))
      else touchLine c l o.trip.cls false t1) s)
  | _ => (extend signed o.z (ownBytes (s.core.get c) o.seq (memRd s.mem) o.addr o.z), reach y o.addr o.z s)

/-- A load performs: the line cache or the island's copy serves it, or the line is asked for (R347, R349). -/
def performLoad (c : CoreId) (o : Cop) (signed : Bool) (s : State) : State :=
  let y := islOf c
  let ls := linesOf o.addr o.z
  let cached : Bool := o.sp == .glob && ls.all (s.lineCached c)
  let (ok, s1) := s.ready c o.path cached
  if !ok then retryCop c o.id s1
  else match o.sp with
    | .glob =>
      let (ok, s2) := widen c o.path s1
      if !ok then retryCop c o.id s2
      else match ls.find? fun l => (islandLine s2 y l).isNone with
        | some l => retryCop c o.id (askLine y l false s2)
        | none => let (v, s3) := loadNow c o signed s2; finishCop c o.id v s3
    | _ =>
      let (ok, s2) := widen c o.path s1
      if !ok then retryCop c o.id s2
      else let (v, s3) := loadNow c o signed s2; finishCop c o.id v s3

/-- Island y takes a copy of a region line at the home's round; a copy that the home tracks goes first, and a part out of service
keeps none (R260, R346, R350, R389). -/
def fillRegion (y : Isl) (line key : Nat) (d : BitVec 1024) (s : State) : State :=
  let s1 := match (tfind (s.isl.get y).copies line).filter fun c => c.st != .Rg && !(s.isl.get y).mshr.any fun m => m.line == line with
    | some c => evictCopy y line c s
    | none => s
  if noKeep (s1.isl.get y) line || (s.isl.get y).mshr.any fun m => m.line == line then s1
  else (offshoreRoom y line s1).modI y fun i => { i with copies := tset i.copies line ⟨.Rg, d, tget 0 s.dev.prod key, key, none⟩ }

/-- Read of a region line with threshold th: a hit, or a refetch from the home that fills the island's copy at the home's
round (R191, R259, R260). A home line is always the home copy; a copy that another launch's region filled is none of this one's. -/
def regionLine (y : Isl) (line key : Nat) (th : Round) (s : State) : BitVec 1024 × State :=
  let d := cohLine s line
  if lineHome line = y then (d, s)
  else match (tfind (s.isl.get y).copies line).filter fun c => c.st == .Rg && c.key == key with
    | some x => if roundGe x.round th then (x.data, s) else (d, fillRegion y line key d s)
    | none => (d, fillRegion y line key d s)

/-- Region lines, each read once. -/
def regionLines (y : Isl) (key : Nat) (th : Round) : List Nat → State → Tbl (BitVec 1024) × State
  | [], s => ([], s)
  | l :: r, s =>
    let (d, s1) := regionLine y l key th s
    let (t, s2) := regionLines y key th r s1
    (tset t l d, s2)

/-- A bounded load that an acquire has held takes Rr and F when that hold ends: nothing holds it any more, or it has gone ahead to its
slice (R258). -/
def fixThreshold (s : State) (c : CoreId) (o : Cop) : Cop :=
  match o.kind with
  | .bounded sg k r none =>
    if o.trip.arr.isSome || !s.heldByAcquire c o.path then { o with kind := .bounded sg k r (some (threshold s c r k)) } else o
  | _ => o

def fixThresholds (c : CoreId) (s : State) : State := s.modC c fun k => { k with loads := k.loads.map (fixThreshold s c) }

/-- The island's copy of a region line serves a read with threshold th (R191, R260). -/
def regionHit (s : State) (y : Isl) (line key : Nat) (th : Round) : Bool :=
  lineHome line != y && ((tfind (s.isl.get y).copies line).filter fun c => c.st == .Rg && c.key == key).any fun x => roundGe x.round th

/-- Value that a bounded load takes now, with threshold th. What the island's copy does not serve is read at the line's home, through
its shelf (R191, R260, R343). -/
def boundedNow (c : CoreId) (o : Cop) (signed : Bool) (r : Nat) (th : Round) (s : State) : W64 × State :=
  let key := roundKey (s.core.get c).launch r
  let (t, s1) := regionLines (islOf c) key th (linesOf o.addr o.z) s
  let f (l : Nat) : BitVec 1024 := seenLine s (s.coreKey c) l (tget 0 t l)
  (extend signed o.z (lineValue (s.core.get c) o f), ((linesOf o.addr o.z).filter fun l =>
    !regionHit s (islOf c) l key th).foldl (fun s l => touchLine c l o.trip.cls false (reachIn o.addr o.z l (islOf c) s)) s1)

/-- A bounded load performs. One that an acquire holds takes Rr and F when the hold ends (R191, R258). -/
def performBounded (c : CoreId) (o : Cop) (signed : Bool) (b r : Nat) (thr : Option Round) (s : State) : State :=
  let (ok, s0) := s.ready c o.path false
  let s1 := fixThresholds c s0
  if !ok then retryCop c o.id s1
  else
    let (ok, s2) := widen c o.path s1
    if !ok then retryCop c o.id s2
    else
      let held := ((s1.core.get c).loads.find? (·.id == o.id)).bind fun x => match x.kind with | .bounded _ _ _ t => t | _ => none
      let (v, s3) := boundedNow c o signed r ((thr.or held).getD (threshold s2 c r b)) s2
      finishCop c o.id v s3

/-- An open load of core c takes its value now and is delivered later, its way back having no figure. Not while another core's access
keeps it away, its page changes its bias or the host has to be asked, nor, for an acquire, before what it may pair with is published;
then nothing is taken (R344, R406; log entry 80). -/
def takeNow (c : CoreId) (o : Cop) (s : State) : Bool × State :=
  let go (read : State → W64 × State) : Bool × State :=
    if o.val.isSome then (true, s)
    else if s.keptFrom c o.path || (o.sp == .glob && s.biasHeld o.addr) || s.hostAsked o.path then (false, s)
    else
      let (ok, s1) := widen c o.path s
      if !ok then (false, s1) else let (v, s2) := read s1; (true, finishFree c o.id v s2)
  match o.kind with
  | .load signed => go (loadNow c o signed)
  | .bounded signed k r thr => go fun s => boundedNow c o signed r (thr.getD (threshold s c r k)) s
  | _ => (true, s)

/-- Cells of a line among those of an access. -/
def cellsIn (line : Nat) (cs : List Host.Cell) : List Host.Cell := cs.filter fun x => x.1 / 128 % 2 ^ 45 == line

/-- The issuer's island copy of a region line takes bytes that have been written through to the home; its fill round stays
(R260). -/
def throughCopy (y : Isl) (line : Nat) (cells : List Host.Cell) (s : State) : State :=
  match (tfind (s.isl.get y).copies line).filter fun c => c.st == .Rg with
  | some _ => putCells y line cells s
  | none => s

/-- Firmware clears RES of a resident leaf and keeps every other field: its page is in migration until the leaf is written otherwise
(R341, R342; log entry 18). `old` is the entry before the write of firmware's core c. -/
def noteLeaf (c : CoreId) (ea : Nat) (old : W64) (s : State) : State :=
  let new : W64 := BitVec.ofNat 64 (cohRd s ea 8)
  if !isMgmt c || new == old then s
  else s.modD fun d =>
    { d with migr := (if ptePresent old && pteLeaf old && pteRes old && new == (old &&& ~~~4#64) then [ea] else []) ++ d.migr.filter (· != ea) }

/-- The entries that n bytes at pa lie in, before and after a write of core c. -/
def noteLeaves (c : CoreId) (pa n : Nat) (before s : State) : State :=
  (List.range' (pa / 8) ((pa + n - 1) / 8 - pa / 8 + 1)).foldl (fun s w =>
    noteLeaf c (8 * w) (BitVec.ofNat 64 (cohRd before (8 * w) 8)) s) s

/-- An atomic performs as one access at the line's home (R192, R353). On the pad it performed at its issue. -/
def performAmo (c : CoreId) (o : Cop) (op : AmoOp) (b e : W64) (s : State) : State :=
  let w := 8 * o.z
  let ls := linesOf o.addr o.z
  let (ok, s1) := s.ready c o.path false
  if !ok then retryCop c o.id s1
  else match o.sp with
  | .pad => s1
  | .stg =>
    let (ok, s2) := widen c o.path s1
    if !ok then retryCop c o.id s2
    else
      let old := memRdN s2.mem o.addr o.z
      let s3 := reach (islOf c) o.addr o.z s2
      finishCop c o.id (BitVec.ofNat 64 old) (noteNarrow c o.path
        { s3 with mem := memWrs s3.mem (cellsOf o.addr (amoVal op w old b.toNat e.toNat) o.z) })
  | .glob =>
    let (ok, s2) := widen c o.path s1
    if !ok then retryCop c o.id s2
    else match ls.find? fun l => !o.trip.reg && !ownsLine s2 (lineHome l) l with
      | some l => retryCop c o.id (askLine (lineHome l) l true (invAgents (lineHome l) l none s2))
      | none =>
        let old := keyRd s2 (s2.coreKey c) o.addr o.z
        let new := amoVal op w old b.toNat e.toNat
        let s3 := keyWr (setDirty c o.va.toNat (ls.foldl (fun s l => reachIn o.addr o.z l (islOf c) s) s2)) (s2.coreKey c) o.addr o.z new
        finishCop c o.id (BitVec.ofNat 64 old) (noteNarrow c o.path (ls.foldl (fun s l =>
          throughCopy (islOf c) l (cellsIn l (cellsOf o.addr new o.z))
            (touchLine c l o.trip.cls true (invAgents (lineHome l) l none s))) (noteLeaves c o.addr o.z s2 s3)))

/-- Deliveries of a counted operation, in the issue order of its slot (R180, R181, R190). -/
def CoreSt.deliverCop (k : CoreSt) (t : Nat) (o : Cop) (v : W64) (clear : Bool) : CoreSt :=
  let k1 := { k with loads := k.loads.filter fun x => x.id != o.id }
  let k2 := k1.deliver .ctl t 0 o.seq (.s o.dst v)
  let k3 := if clear then k2.deliver .ctl t 0 o.seq (.p o.pj 0 (BitVec.allOnes 64)) else k2
  match o.kind with
  | .racq r => k3.deliver .ctl t 0 o.seq (.racq r (v.setWidth 48))
  | _ => k3

/-- What a counted operation would deliver is poisoned: in storage, as it was read, or by a flit that failed on its way; the unit that
detected the error (R381, R382). -/
def copPoison (s : State) (c : CoreId) (o : Cop) : Option Nat :=
  if o.isData && o.sp != .pad then
    ((s.dev.poison.find? fun e => inPieces o.addr o.z e.1).map (·.2)).or
      (if o.sp == .glob && flitFails s c o.seq 0 o.addr then some (0x2000 + (homeOf o.addr).val) else none)
  else none

/-- LOAD_DELIVERY (R181): operation id of core c is delivered, after every older counted operation into its register. An
operation that a rollback discarded delivers nothing. Poison that it would deliver is consumed; the record names the scalar slot and
the bundle at which the core stands then (R382; log entry 101). A pad atomic has consumed it at its issue. -/
def execLoadDelivery (s : State) : Out :=
  let c := s.arg.c
  let k := s.core.get c
  match k.loads.find? (·.id == s.arg.id) with
  | none => .next s
  | some o =>
    match o.val with
    | none => .next s
    | some (v, clear) =>
      if k.loads.any fun x => decide (x.seq < o.seq) && x.dst == o.dst && x.dst != 0 then
        .next (s.at (k.edge .ctl (s.tick + 1)) (.ev .loadDelivery (argCI c o.id)))
      else match copPoison s c o with
        | some u =>
          .next ((s.modC c fun k => { k with loads := k.loads.filter fun x => x.id != o.id }).now .poisonConsumed
            { argC c with v := pieceOf o.va, n := u, m := o.seq % 8, line := k.r.pc.toNat })
        | none => .next (s.modC c fun k => k.deliverCop s.tick o v clear)

/-- A released store performs: its bytes are written at the slice or the home (R182, R349, R260). -/
def performStore (c : CoreId) (t : Sto) (s : State) : State :=
  let y := islOf c
  let ls := linesOf t.path.lo t.path.z
  let lost (s : State) : Option Nat := if t.sp == .glob && flitFails s c t.seq 0 t.path.lo then some (0x2000 + (homeOf t.path.lo).val) else none
  let done (s : State) : State := noteNarrow c t.path (State.modC (markCells t.cells (lost s) s) c
    fun k => { k with sto := k.sto.filter fun x => x.id != t.id })
  let again (s : State) : State := s.at ((s.core.get c).edge .ctl (s.tick + 1)) (.ev .storePerform (argCI c t.id))
  let (ok, s1) := s.ready c t.path false
  if !ok then again s1
  else match t.sp with
    | .glob =>
      let claim (s : State) : State := ls.foldl (fun s l => claimLine (s.coreKey c) l (reachIn t.path.lo t.path.z l y s)) (setDirty c t.va.toNat s)
      if t.trip.reg then
        let s2 := t.cells.foldl (fun s x => cohWr s (x.1 % 2 ^ 52) 1 x.2.toNat) (claim s1)
        done (ls.foldl (fun s l => throughCopy y l (cellsIn l t.cells) (touchLine c l t.trip.cls true s)) s2)
      else match ls.find? fun l => !ownsLine s1 y l with
        | some l => again (askLine y l true (invAgents y l (some c) s1))
        | none =>
          let s2 := claim s1
          done (ls.foldl (fun s l => settleLine y l (touchLine c l t.trip.cls true s))
            (noteLeaves c t.path.lo t.path.z s2 (ls.foldl (fun s l => putCells y l (cellsIn l t.cells) (invAgents y l (some c) s)) s2)))
    | _ => done { s1 with mem := memWrs s1.mem t.cells }

/-- STORE_PERFORM (R349): released store id of core c performs at its home, or waits for older accesses, or for ownership: the other
agents of its island lose the line as the request goes out. -/
def execStorePerform (s : State) : Out :=
  match (s.core.get s.arg.c).sto.find? (·.id == s.arg.id) with
  | none => .next s
  | some t => .next (performStore s.arg.c t s)

/-- FORCED_PUBLISH (R250): core c performs its released stores to system scope. -/
def execForcedPublish (s : State) : Out :=
  .next ((s.core.get s.arg.c).sto.foldl (fun s t => s.now .storePerform (argCI s.arg.c t.id)) s)

/-- LINE_CACHE_EVICTION (R348): core c gives up a line, and the slice rebuilds the filter of its set from the tags that
remain. -/
def execLineCacheEviction (s : State) : Out :=
  let c := s.arg.c
  let rest := (s.core.get c).lc.filter (· != s.arg.line)
  let f := (rest.filter fun l => lineSet l == lineSet s.arg.line).foldl (fun f l => f ||| filterBits l) 0
  .next ((s.modC c fun k => { k with lc := rest }).modI (islOf c) fun i =>
    { i with filt := tset i.filt (filtKey c s.arg.line) f })

end Sys2Proof.Machine
end

