-- ==== Sys2Proof/Machine/Trace.lean ====
section
/-! DEFINITION. Trace records and the accounts of matrix time (R392, R394). -/

namespace Sys2Proof.Machine

/-- Doublewords as bytes at a physical address (R3). -/
def putWords (pa : Nat) : List W64 → State → State
  | [], s => s
  | w :: r, s => putWords (pa + 8) r (cohWr s pa 8 w.toNat)

/-- A bit of TRB on the core's island (R392). -/
def traceOn (s : State) (c : CoreId) (bit : Nat) : Bool := (s.isl.get (islOf c)).trb.getLsbD bit

/-- Write one trace record, or drop it if it would reach TRR (R392). -/
def trace (c : CoreId) (kind : Nat) (badr payload : W64) (s : State) : State :=
  let y := islOf c
  let i := s.isl.get y
  let k := s.core.get c
  let size := natBits i.trb.toNat 7 0 * 65536
  let next := (i.trw + 32) % size
  if size = 0 then s
  else if next = i.trr.toNat % size then s.modI y fun i => { i with trDrop := i.trDrop + 1 }
  else
    let d0 := BitVec.ofNat 64 ((coreField c).toNat + kind * 2 ^ 8 + k.r.phase.toNat * 2 ^ 16 + k.ctx.toNat * 2 ^ 24)
    (putWords (natBits i.trb.toNat 51 16 * 65536 + i.trw) [d0, badr, BitVec.ofNat 64 k.cyc, payload] s).modI y
      fun i => { i with trw := next }

/-- A record of kind n, of the bundle at an address, while the trace is on: 0x01 and the events of kinds 0x04 to 0x09 (R392). -/
def traceEv (c : CoreId) (kind : Nat) (badr payload : W64) (s : State) : State :=
  if traceOn s c 8 then trace c kind badr payload s else s

/-- The record of a marked bundle (R393): the execute cycles end now. -/
def sampleRec (c : CoreId) (x : Sample) (s : State) : State :=
  let sat (n : Nat) : Nat := min n 0xFFFF
  let v := sat x.fetch + sat x.held * 2 ^ 16 + x.cause * 2 ^ 32 + sat ((s.core.get c).cyc - x.start) * 2 ^ 36 + x.undone.toNat * 2 ^ 52
  trace c 0x02 x.badr (BitVec.ofNat 64 v) s

/-- A core is unbound: what its marked bundles have begun ends with that, and their records are written (R393). -/
def endSamples (c : CoreId) (s : State) : State :=
  ((s.core.get c).samples.foldl (fun s x => sampleRec c x s) s).modC c fun k => { k with samples := [] }

/-! Classes of matrix cycles (R394): 0 computing, 1 loading weights, 2 blocked on result drain, 3 awaiting activations,
4 without command. -/

def addAt (l : List Nat) (i n : Nat) : List Nat := l.set i (l.getD i 0 + n)

/-- Charge n cycles of a class to a bundle address; the address charged least recently leaves a full table, as five
account records when those are on. -/
def charge (c : CoreId) (cls n : Nat) (adr : W64) (s : State) : State :=
  let k := s.core.get c
  let old := (k.mclass.find? (·.1 == adr)).map (·.2)
  let rest := k.mclass.filter (·.1 != adr)
  let out := if old.isNone && decide (64 ≤ rest.length) then rest.getLast? else none
  let rest' := if out.isSome then rest.dropLast else rest
  let s1 := s.modC c fun k =>
    { k with mclass := (adr, addAt (old.getD [0, 0, 0, 0, 0]) cls n) :: rest' }.count (16 + cls) n
  match out with
  | some (a, l) =>
    if traceOn s c 14 then
      (List.range 5).foldl (fun s i => trace c 3 a (BitVec.ofNat 64 (i * 2 ^ 61 + l.getD i 0 % 2 ^ 61)) s) s1
    else s1
  | none => s1

/-- Matrix cycles since the last one that was put into a class, the current one not counted, had no command. -/
def classUp (c : CoreId) (s : State) : State :=
  let k := s.core.get c
  let n := ceilDiv (s.tick - k.mlast) k.div.mtx - 1
  if n = 0 ∨ isMgmt c then s
  else (charge c 4 n k.lastArr s).modC c fun k => { k with mlast := k.mlast + n * k.div.mtx }

end Sys2Proof.Machine
end

