-- ==== Sys2Proof/Machine/Sync.lean ====
section
/-! DEFINITION. Regions, barriers, tokens, rings and nest registers: their scalar instructions and the steps that follow
from them (R187 to R205, R214, R215, R262). -/

namespace Sys2Proof.Machine

/-! Staleness regions. -/

/-- Region named by S(SRA) + IMM[11:0], if the launch declares it (R187). -/
def regionNo (s : State) (a : BitVec 6) (rn : BitVec 12) : Nat := (s.me.r.getS a).toNat + rn.toNat

def declared (s : State) (r : Nat) : Option Region :=
  match s.launch? s.me.launch with
  | some l => if r < 4096 then l.regions.find? (·.index == r) else none
  | none => none

/-- Region trap: region number and reader round (R359 cause 0x11). -/
def regionTrap (r : Nat) (s : State) : State :=
  takeTrap 0x11 (BitVec.ofNat 64 r) ((tget 0 s.me.r.rr r).setWidth 64) s

/-- Act on a declared region, or trap (R187). -/
def withRegion (a : BitVec 6) (rn : BitVec 12) (f : Region → State → State) (s : State) : State :=
  match declared s (regionNo s a rn) with
  | some r => f r s
  | none => regionTrap (regionNo s a rn) s

/-- RPUB (R189): leaves once the core's earlier stores have performed; sd receives the round that its arrival makes. -/
def execRpub (g : Guard) (d a : BitVec 6) (rn : BitVec 12) (s : State) : Out :=
  guarded g s (withRegion a rn fun r s => issueCop 0 (newCop (.rpub r.index) d 0 .glob 0 0 0 false true 3 none) s)

/-- Round a exceeds round b by 2^46 or more (R262). -/
def aheadBy46 (a b : Round) : Bool := roundGe a b && decide (2 ^ 46 ≤ (a - b).toNat)

/-- RADV (R190, R262): Rr := Rr + 1 at latency 1. -/
def execRadv (g : Guard) (a : BitVec 6) (rn : BitVec 12) (s : State) : Out :=
  guarded g s (withRegion a rn fun r s =>
    if aheadBy46 (tget 0 s.me.r.rr r.index + 1) (tableOf s s.cur r.index) then regionTrap r.index s
    else deliver 1 (.radv r.index) s)

/-- RACQ (R190): the producer round as read at the home; Rr and F rise with the delivery. An acquire at system scope. -/
def execRacq (g : Guard) (d a : BitVec 6) (rn : BitVec 12) (s : State) : Out :=
  guarded g s (withRegion a rn fun r s =>
    let id := s.me.nid
    let s1 := s.modMe fun k =>
      { k with loads := k.loads ++ [{ newCop (.racq r.index) d 0 .glob 0 0 0 true false 3 none id s.order with badr := s.bun.adr }], nid := id + 1 }
    sendMsg (islOf s.cur) r.home .racqArrival { argCI s.cur id with h := r.home } s1)

/-- RRND (R190): 0 Rr, 1 the island table, 2 the home producer round, 3 F. -/
def execRrnd (g : Guard) (d a : BitVec 6) (rn : BitVec 12) (rw : BitVec 2) (s : State) : Out :=
  guarded g s (withRegion a rn fun r s =>
    match rw.toNat with
    | 0 => toS 1 d ((tget 0 s.me.r.rr r.index).setWidth 64) s
    | 1 => toS 4 d ((tableOf s s.cur r.index).setWidth 64) s
    | 2 => issueCop (msgTicks s (islOf s.cur) r.home) (newCop (.rrnd r.index) d 0 .glob 0 0 0 false false 3 none) s
    | _ => toS 1 d ((tget 0 s.me.r.fl r.index).setWidth 64) s)

/-- Home island of a region of core c's launch. -/
def regionHome (s : State) (c : CoreId) (r : Nat) : Isl :=
  match s.launch? (s.core.get c).launch with
  | some l => match l.regions.find? (·.index == r) with
    | some x => x.home
    | none => islOf c
  | none => islOf c

/-- Accesses of core c before a release have not all performed, or those that a pull before it followed (R219, R246; log entry 106). -/
def State.earlierOpen (s : State) (c : CoreId) (seq : Nat) : Bool :=
  (s.core.get c).open_.any (fun a => decide (a.seq < seq)) || (s.core.get c).after.any fun e => decide (e.1 < seq) && s.pushOpen e

/-- Stores of core c before a release are outstanding: stores and atomics that have not performed; so are an earlier racq until its
delivery has landed, and what a pull before the release followed (R189, R190, R214, R219; log entries 80 and 106). -/
def State.storesOpen (s : State) (c : CoreId) (seq : Nat) : Bool :=
  let k := s.core.get c
  (k.sto.any fun t => decide (t.seq < seq)) ||
    (k.loads.any fun o => decide (o.seq < seq) && match o.kind with | .amo .. => o.val.isNone | .racq _ => true | _ => false) ||
    (k.landing.any fun a => decide (a.seq < seq)) || k.after.any fun e => decide (e.1 < seq) && s.pushOpen e

/-- The loads of core c before a release take their values now, in order, so that it need not wait for their deliveries; false if one
may not yet (R246, R406; log entry 80). -/
def takeEarlier (c : CoreId) (seq : Nat) (s : State) : Bool × State :=
  ((s.core.get c).loads.filter fun o => decide (o.seq < seq)).foldl (fun e o => if e.1 then takeNow c o e.2 else e) (true, s)

/-- A release of core c that waits for its earlier stores alone leaves now, and its earlier loads have their values (R189, R214). -/
def depart (c : CoreId) (seq : Nat) (s : State) : Bool × State :=
  if s.storesOpen c seq then (false, s) else takeEarlier c seq s

/-- The request of an rpub leaves the core once its earlier stores have performed, a region event of its trace (R189, R246, R392;
log entries 80 and 104). -/
def performRpub (c : CoreId) (o : Cop) (r : Nat) (s : State) : State :=
  let (ok, s1) := depart c o.seq s
  if !ok then retryCop c o.id s1
  else
    let h := regionHome s1 c r
    sendMsg (islOf c) h .publish { argCI c o.id with k := roundKey (s1.core.get c).launch r, h := h } (traceEv c 0x07 o.badr (BitVec.ofNat 64 r) s1)

/-- PUBLISH (R189): the producer round advances, the home's table takes it at once and the others 10 cycles later; the
publisher receives the round of its arrival. -/
def execPublish (s : State) : Out :=
  let a := s.arg
  let p := tget 0 s.dev.prod a.k + 1
  let s1 := s.modD fun d => { d with prod := tset d.prod a.k p }
  let s2 := s1.modI a.h fun i => { i with rounds := tset i.rounds a.k p }
  let s3 := islIds.foldl (fun s y =>
    if y = a.h then s else sendMsg a.h y .roundTableUpdate { Arg.zero with y := y, k := a.k, n := p.toNat } s) s2
  .next (finishFree a.c a.id (p.setWidth 64) s3)

/-- ROUND_TABLE_UPDATE (R189): island y's table takes round n. -/
def execRoundTableUpdate (s : State) : Out :=
  .next (s.modI s.arg.y fun i => { i with rounds := tmod 0 i.rounds s.arg.k (roundMax · (BitVec.ofNat 48 s.arg.n)) })

/-- RACQ_ARRIVAL (R190): the producer round is read at the home, a region event of the core's trace (R392; log entry 104). -/
def execRacqArrival (s : State) : Out :=
  let c := s.arg.c
  match (s.core.get c).loads.find? (·.id == s.arg.id) with
  | some o =>
    match o.kind with
    | .racq r =>
      let p := tget 0 s.dev.prod (roundKey (s.core.get c).launch r)
      .next (finishFree c o.id (p.setWidth 64) (traceEv c 0x07 o.badr (BitVec.ofNat 64 r) s))
    | _ => .next s
  | none => .next s

/-- The read of rrnd with w = 2 at the home (R190). -/
def performRrnd (c : CoreId) (o : Cop) (r : Nat) (s : State) : State :=
  let p := tget 0 s.dev.prod (roundKey (s.core.get c).launch r)
  finishFree c o.id (p.setWidth 64) s

/-- A value that lags the table by 2^46 or more is raised (R262). -/
def sweepUp (table v : Round) : Round := if aheadBy46 table v then table - BitVec.ofNat 48 (2 ^ 46) else v

/-- Every round that a core keeps for the regions of its launch, those still at 0 included, is raised to the island's table. -/
def sweepTbl (table : Tbl Round) (l : Option Nat) (t : Tbl Round) : Tbl Round :=
  table.foldl (fun t e => if e.1 / 4096 = l.getD 4096 ∧ aheadBy46 e.2 (tget 0 t (e.1 % 4096)) then
    tset t (e.1 % 4096) (sweepUp e.2 (tget 0 t (e.1 % 4096))) else t) t

/-- REGION_SWEEP (R262): island y drops region lines whose fill round lags its table by 2^46 or more, and raises its cores'
Rr and F that lag so far. -/
def execRegionSweep (s : State) : Out :=
  let y := s.arg.y
  let i := s.isl.get y
  let s1 := s.modI y fun i => { i with copies := i.copies.filter fun e => !(e.2.st == .Rg && aheadBy46 (tget 0 i.rounds e.2.key) e.2.round) }
  .next (coreIds.foldl (fun s c =>
    if islOf c = y then s.modC c fun k =>
      let up : Tbl Round → Tbl Round := sweepTbl i.rounds k.launch
      { k with r := { k.r with rr := up k.r.rr, fl := up k.r.fl }, ck := { k.ck with rr := up k.ck.rr, fl := up k.ck.fl } }
    else s) s1)

/-! Barriers. -/

/-- Key of a barrier: context and name (R214). -/
def barrKey (cx : BitVec 7) (b : BitVec 8) : Nat := cx.toNat * 256 + b.toNat
def barrHome (key : Nat) : Isl := ⟨key % 256 / 64, by omega⟩

/-- This island's view Gv (R214). -/
def viewOf (s : State) (y : Isl) (key : Nat) : BitVec 32 := tget 0 (s.isl.get y).views key

/-- The view has moved forward from a captured generation (R214, R215). -/
def passed (view cap : BitVec 32) : Bool := decide (1 ≤ (view - cap).toNat) && decide ((view - cap).toNat ≤ 2 ^ 31 - 1)

/-- Token-reuse trap (R194). -/
def tokenTrap (t : BitVec 6) (s : State) : State := takeTrap 0x0D (t.setWidth 64) 0 s

/-- BARR (R214): an arrival that leaves once the core's earlier global and staging stores have performed. -/
def execBarr (g : Guard) (d : BitVec 6) (bn : BitVec 8) (n1 : BitVec 7) (tp : BitVec 6) (s : State) : Out :=
  guarded g s fun s =>
    if s.me.tokPending tp then tokenTrap tp s
    else
      let (gen, k) := s.me.produce tp 0
      issueCop 0 (newCop (.barr bn (n1.toNat + 1) tp gen) d 0 .glob 0 0 0 false true 2 none) (s.modMe fun _ => k)

/-- A barr leaves its core once its earlier stores have performed (R214, R246; log entry 80). -/
def performBarr (c : CoreId) (o : Cop) (b : BitVec 8) (n : Nat) (s : State) : State :=
  let (ok, s1) := depart c o.seq s
  if !ok then retryCop c o.id s1
  else
    let key := barrKey (s1.core.get c).ctx b
    sendMsg (islOf c) (barrHome key) .barrierArrival { argCI c o.id with k := key, n := n } s1

/-- Barrier tokens of island y whose view has passed what they captured complete (R214). -/
def settleTokens (y : Isl) (s : State) : State :=
  let ok (e : CoreId × BitVec 6 × Nat × Nat × BitVec 32) : Bool :=
    islOf e.1 == y && passed (viewOf s y e.2.2.2.1) e.2.2.2.2
  let s1 := (s.dev.btok.filter ok).foldl (fun s e => s.modC e.1 fun k => k.complete e.2.1 e.2.2.1) s
  s1.modD fun d => { d with btok := d.btok.filter fun e => !ok e }

/-- The home's reaction to an arrival of phase size n: the barrier, and the captured generation (R214). -/
def Barrier.arrive (b : Barrier) (n : Nat) : BitVec 32 × Barrier :=
  let b1 := if b.c = 0 then { b with np := n } else b
  let b2 := if n ≠ b1.np then { b1 with mismatch := b1.mismatch + 1 } else b1
  let c := b2.c + 1
  (b.g, if c = b2.np then { b2 with g := b2.g + 1, c := 0 } else { b2 with c := c })

/-- BARRIER_ARRIVAL (R214): the arrival reaches the home. -/
def execBarrierArrival (s : State) : Out :=
  let a := s.arg
  let h := barrHome a.k
  let (cap, b) := (tget ⟨0, 0, 0, 0⟩ s.dev.barr a.k).arrive a.n
  let s1 := s.modD fun d => { d with barr := tset d.barr a.k b }
  let s2 := if b.g = cap then s1 else
    islIds.foldl (fun s y =>
      if y = h then s.modI h fun i => { i with views := tset i.views a.k b.g }
      else sendMsg h y .barrierViewUpdate { Arg.zero with y := y, k := a.k, n := b.g.toNat } s) s1
  let s3 := match (s.core.get a.c).loads.find? (·.id == a.id) with
    | some o => match o.kind with
      | .barr _ _ tok gen =>
        if tok = 0 then s2 else s2.modD fun d => { d with btok := d.btok ++ [(a.c, tok, gen, a.k, cap)] }
      | _ => s2
    | none => s2
  let s4 := settleTokens h (settleTokens (islOf a.c) s3)
  .next (finishLater a.c a.id (cap.setWidth 64) (msgTicks s h (islOf a.c)) s4)

/-- BARRIER_VIEW_UPDATE (R214): island y's view takes the generation, and the tokens that it releases complete. -/
def execBarrierViewUpdate (s : State) : Out :=
  .next (settleTokens s.arg.y (s.modI s.arg.y fun i =>
    { i with views := tset i.views s.arg.k (BitVec.ofNat 32 s.arg.n) }))

/-- BWAIT (R215): whether the view has passed the captured generation; latency 4. -/
def execBwait (g : Guard) (pd : BitVec 4) (a : BitVec 6) (bn : BitVec 8) (s : State) : Out :=
  guarded g s (toP 4 pd (allBits (passed (viewOf s (islOf s.cur) (barrKey s.me.ctx bn)) ((s.me.r.getS a).setWidth 32))))

/-- BGEN (R215): the view; latency 4. -/
def execBgen (g : Guard) (d : BitVec 6) (bn : BitVec 8) (s : State) : Out :=
  guarded g s (toS 4 d ((viewOf s (islOf s.cur) (barrKey s.me.ctx bn)).setWidth 64))

/-! Tokens. -/

/-- TKWAIT (R195): its wait holds issue (Machine/Issue); once it issues it does nothing. -/
def execTkwait (_g : Guard) (_ta _tb _tc : BitVec 6) (s : State) : Out := .next s

/-- TKPOLL (R195): all ones if the token is complete; latency 1. -/
def execTkpoll (g : Guard) (pd : BitVec 4) (ta : BitVec 6) (s : State) : Out :=
  guarded g s (toP 1 pd (allBits (!s.me.tokPending ta)))

/-! Copy rings. -/

def CoreSt.getRing (k : CoreSt) (q : BitVec 4) : Ring := k.ring[q.toNat]'q.isLt
def Regs.getRt (r : Regs) (q : BitVec 4) : Nat := r.ringRt[q.toNat]'q.isLt

/-- Ring trap: ring number and write position (R359 causes 0x0E to 0x10). -/
def ringTrap (cause : Byte) (q : BitVec 4) (s : State) : State :=
  takeTrap cause (q.setWidth 64) (BitVec.ofNat 64 (s.me.getRing q).w) s

/-- Slot Rt mod S is filled (R203, R204). -/
def slotFilled (g : Ring) (rt : Nat) : Bool := tget 0 g.arrived (rt % g.slots) == g.target

/-- The positions of slot Rt are not all assigned (R204). -/
def unassigned (g : Ring) (rt : Nat) : Bool := decide (g.w < (rt + 1) * g.target)

/-- RWAIT (R204), once the slot that holds its issue is filled. -/
def execRwait (g : Guard) (q : BitVec 4) (s : State) : Out :=
  guarded g s fun s =>
    let x := s.me.getRing q
    if !x.created then illegal 0x87 s
    else if unassigned x (s.me.r.getRt q) then ringTrap 0x10 q s
    else s

/-- RREL (R204): Rt advances at once; the slot is cleared at the next checkpoint. -/
def execRrel (g : Guard) (q : BitVec 4) (s : State) : Out :=
  guarded g s fun s =>
    let x := s.me.getRing q
    if !x.created then illegal 0x88 s
    else if !slotFilled x (s.me.r.getRt q) then ringTrap 0x10 q s
    else s.modMe fun k =>
      { k with
        r := { k.r with ringRt := k.r.ringRt.set q.toNat (k.r.getRt q + 1) q.isLt }
        ring := k.ring.set q.toNat { x with rels := x.rels + 1 } q.isLt }

/-- RNEW (R202): creates ring n with S slots of T bytes; latency 1. -/
def execRnew (g : Guard) (qn : BitVec 4) (a b : BitVec 6) (s : State) : Out :=
  guardedIf (qn != 0) 0x89 g s fun s =>
    let sl := (s.me.r.getS a).toNat
    let t := (s.me.r.getS b).toNat
    if sl = 0 ∨ 256 < sl ∨ t = 0 ∨ 2 ^ 32 ≤ t then illegal 0x89 s
    else if (s.me.getRing qn).users ≠ 0 then ringTrap 0x0E qn s
    else deliver 1 (.ring qn sl t) s

/-- rstat's word (R205). -/
def ringWord (g : Ring) (rt : Nat) : W64 :=
  let gen := g.w / (g.target * g.slots) % 2 ^ 32
  let zf := if g.zf.contains (rt % g.slots) then 1 else 0
  let fil := if slotFilled g rt then 1 else 0
  BitVec.ofNat 64 (gen * 2 ^ 32 + zf * 2 ^ 17 + fil * 2 ^ 16 + g.w / g.target % g.slots * 2 ^ 8 + rt % g.slots)

/-- RSTAT (R205); latency 1. -/
def execRstat (g : Guard) (d : BitVec 6) (qa : BitVec 4) (s : State) : Out :=
  guarded g s fun s =>
    if !(s.me.getRing qa).created then illegal 0x8A s
    else toS 1 d (ringWord (s.me.getRing qa) (s.me.r.getRt qa)) s

/-! Nest registers. -/

/-- NSW (R196): word w of nest register k := a; latency 1. -/
def execNsw (g : Guard) (nk : BitVec 4) (a : BitVec 6) (nw : BitVec 3) (s : State) : Out :=
  guarded g s (deliver 1 (.nest nk nw (s.me.r.getS a)))

/-- NGW (R196): reads word w of nest register k; latency 1. -/
def execNgw (g : Guard) (d : BitVec 6) (na : BitVec 4) (nw : BitVec 3) (s : State) : Out :=
  guarded g s (toS 1 d (nestWord (s.me.r.getN na) nw.toNat))

end Sys2Proof.Machine
end

