-- ==== Sys2Proof/Machine/Halyard.lean ====
section
/-! DEFINITION. Halyards: hoist, sight, hrnd and the controller's steps (R209 to R213, R255, R256). -/

namespace Sys2Proof.Machine

/-- Tick of the first controller cycle at or after t: every 4 reference ticks from reset (R210). -/
def ctlCycle (t : Nat) : Nat := ceilDiv t 4 * 4

/-- Home island of a handle (R34). -/
def handleHome (h : BitVec 16) : Isl := ⟨h.toNat / 2 ^ 14 % 4, by omega⟩

/-- Controller cycles between a core and a halyard's home: 4 on its island, 10 elsewhere, 20 past a strait that is fenced or being
tested (R210, R388, R389). -/
def halD (s : State) (c : CoreId) (h : BitVec 16) : Nat :=
  if islOf c = handleHome h then 4 else if straitDown s (islOf c) (handleHome h) then 20 else 10

def findHal (s : State) (h : BitVec 16) : Option Halyard :=
  match tfind s.dev.hal h.toNat with
  | some x => if x.ctx = s.me.ctx then some x else none
  | none => none

/-- A page of a global tile without a leaf, or a window that may not be written (R178, R332, R336). A page that is not resident, or a
leaf without W, pauses the operation as it moves. -/
def tilePages (ea : W64) (tile : Nat) (wr : Bool) (s : State) : Option Addr :=
  (List.range ((ea.toNat + tile - 1) / 4096 - ea.toNat / 4096 + 1)).findSome? fun i =>
    let va := max ea.toNat ((ea.toNat / 4096 + i) * 4096)
    match translate s s.cur va 1 (if wr then .wr else .rd) with
    | .addr d => some (.trap 0x0A (BitVec.ofNat 64 va) (BitVec.ofNat 64 d))
    | .prot d => if noLeaf s s.cur va then some (.trap 0x0B (BitVec.ofNat 64 va) (BitVec.ofNat 64 d)) else none
    | _ => none

/-- Checks of one tile's range (R178, R210): space, alignment to 4, extent, and for global memory the window's edges (R332) and a mapping
of every page. -/
def checkTile (op : Nat) (sp : BitVec 2) (ea : W64) (tile : Nat) (wr : Bool) (s : State) : Addr :=
  if sp = 3 then .trap 0x03 0 (BitVec.ofNat 64 op)
  else if ea.toNat % 4 ≠ 0 then .trap 0x06 ea (BitVec.ofNat 64 tile)
  else if sp = 1 then
    if 0x200000 < ea.toNat + tile then .trap 0x07 ea (BitVec.ofNat 64 tile)
    else .at .pad ea (padKey s.cur ea.toNat) (.ok 0 none)
  else if sp = 2 then
    if 2 ^ 27 ≤ ea.toNat ∨ !stagingOk s s.cur ea.toNat tile then .trap 0x08 ea (BitVec.ofNat 64 tile)
    else .at .stg ea (stgOf s s.cur ea.toNat) (.ok 0 none)
  else if 2 ^ 54 < ea.toNat + tile then .trap 0x0A ea 7
  else
    let (lo, hi) := if isMgmt s.cur then (0, 2 ^ 52) else let (lo, hi, _) := heapOf (s.ctxOf s.me.ctx); (lo, hi)
    let a := ea.toNat
    if decide (lo < hi) && decide (a < hi) && decide (lo < a + tile) && !(decide (lo ≤ a) && decide (a + tile ≤ hi)) then .trap 0x0A ea 6
    else (tilePages ea tile wr s).getD (.at .glob ea a (.ok 0 none))

/-- Issue of a hoist or sight: checks, token, count in ocn.TIL, and the wait for its consumed tokens (R210). -/
def halIssue (op : Nat) (hoist : Bool) (d a b : BitVec 6) (sp : BitVec 2) (t : Toks) (s : State) : State :=
  let h : BitVec 16 := (s.me.r.getS a).setWidth 16
  if h.extractLsb' 8 6 ≠ 0 then illegal op s
  else match findHal s h with
    | none => takeTrap 0x12 (h.setWidth 64) 0 s
    | some x =>
      match checkTile op sp (s.me.r.getS b) x.tile (!hoist) s with
      | .trap c f dt => takeTrap c f dt s
      | .absent ea => takeTrap 0x0A ea 5 s
      | .at spc ea key _ =>
        if s.me.tokPending t.tp then tokenTrap t.tp s
        else
          let deps := s.me.depsOf t
          let (gen, k) := s.me.produce t.tp 0
          let id := s.dev.nid
          let op : HalOp := ⟨id, s.cur, s.order, hoist, h.toNat, spc, ea, key, d, t.tp, gen, deps, none, 0, false, 0, false, 0, [], [], s.bun.adr, false, none, (0, false), none⟩
          let s1 := (s.modMe fun _ => { k with til := k.til + 1 }).modD fun v => { v with hops := v.hops ++ [op], nid := id + 1 }
          s1.at (ctlCycle s.tick) (.tile id)

/-- HOIST (R210). -/
def execHoist (g : Guard) (d a b : BitVec 6) (sp : BitVec 2) (tp ta tb tc : BitVec 6) (s : State) : Out :=
  guarded g s (halIssue 0x7F true d a b sp ⟨tp, ta, tb, tc⟩)

/-- SIGHT (R210). -/
def execSight (g : Guard) (d a b : BitVec 6) (sp : BitVec 2) (tp ta tb tc : BitVec 6) (s : State) : Out :=
  guarded g s (halIssue 0x80 false d a b sp ⟨tp, ta, tb, tc⟩)

/-- State word of a halyard (R213). -/
def halWord (x : Halyard) : W64 :=
  let pinned := (x.slots.filter fun e => decide (0 < e.pins)).length
  let lat := match x.latest with | some i => i * 2 ^ 48 + 2 ^ 52 | none => 0
  BitVec.ofNat 64 (x.round % 2 ^ 48 + lat + pinned * 2 ^ 53)

/-- HRND (R213); latency 2d. -/
def execHrnd (g : Guard) (d a : BitVec 6) (s : State) : Out :=
  guarded g s fun s =>
    let h : BitVec 16 := (s.me.r.getS a).setWidth 16
    if h.extractLsb' 8 6 ≠ 0 then illegal 0x81 s
    else match findHal s h with
      | none => takeTrap 0x12 (h.setWidth 64) 0 s
      | some x => toS (2 * halD s s.cur h) d (halWord x) s

/-! The controller. -/

def State.hop? (s : State) (id : Nat) : Option HalOp := s.dev.hops.find? (·.id == id)

def State.modHop (s : State) (id : Nat) (f : HalOp → HalOp) : State :=
  s.modD fun d => { d with hops := d.hops.map fun o => if o.id = id then f o else o }

def State.modHal (s : State) (h : Nat) (f : Halyard → Halyard) : State :=
  match tfind s.dev.hal h with
  | some x => s.modD fun d => { d with hal := tset d.hal h (f x) }
  | none => s

def Halyard.modSlot (x : Halyard) (i : Nat) (f : HSlot → HSlot) : Halyard :=
  match x.slots[i]? with
  | some e => { x with slots := x.slots.set i (f e) }
  | none => x

/-- Deliver a status to the issuing core at an absolute tick (R210). -/
def halDeliver (o : HalOp) (t : Nat) (v : W64) (s : State) : State :=
  s.modC o.core fun k => k.deliver .ctl t 0 o.seq (.s o.dst v)

/-- Pieces of 64 bytes of a tile. -/
def tileU (tile : Nat) : Nat := 1 + ceilDiv tile 64

/-- Slot that a hoist takes (R212 step 4): neither latest nor pinned; one that no hoist writes first; never written first,
then the lowest round, then the lowest index; else the one whose hoist point is earliest, of two in one cycle
the lower index: DESIGN CHOICE (log entry 126). -/
def chooseSlot (s : State) (x : Halyard) : Option Nat :=
  let ok := (List.range x.slots.length).filter fun i =>
    x.latest != some i && (x.slots[i]?.any fun e => e.pins == 0)
  let rd (i : Nat) : HSlot := x.slots.getD i ⟨0, 0, none, false⟩
  let idle := ok.filter fun i => (rd i).writer.isNone
  let better (i j : Nat) : Bool :=
    (!(rd i).written && (rd j).written) ||
      ((rd i).written == (rd j).written && decide ((rd i).round < (rd j).round))
  match idle with
  | i :: r => some (r.foldl (fun b j => if better j b then j else b) i)
  | [] =>
    let t (i : Nat) : Nat := match (rd i).writer.bind s.hop? with | some o => o.t0 | none => 0
    match ok with
    | i :: r => some (r.foldl (fun b j => if t j < t b then j else b) i)
    | [] => none

/-- HOIST_SLOT_TAKE (R212): the hoist takes its slot; a hoist that it displaces is abandoned. -/
def execHoistSlotTake (s : State) : Out :=
  match s.hop? s.arg.id with
  | none => .next s
  | some o =>
    match tfind s.dev.hal o.hal with
    | none => .next s
    | some x =>
      match chooseSlot s x with
      | none => .next s
      | some i =>
        let s1 := match (x.slots[i]?.bind (·.writer)) with
          | some w => s.modHop w fun p => { p with gone := true }
          | none => s
        let s2 := (s1.modHal o.hal fun x => x.modSlot i fun e => { e with writer := some o.id }).modHop o.id fun p =>
          { p with slot := some i, t0 := s.tick }
        let s3 := halDeliver o (s.tick + 4 * halD s o.core x.handle) (BitVec.ofNat 64 i) s2
        .next (if s3.has (.tile o.id) then s3 else s3.after 4 (.tile o.id))

/-- The tile of a hoist is in its slot, with the poison of what was read (R381). -/
def fillSlot (o : HalOp) (x : Halyard) (i : Nat) (s : State) : State :=
  let key := halKey x.handle (i * x.tile)
  let cells := cellsAt key o.buf
  markWritten (cells.map fun c => (c, tfind o.bad ((c.1 - key) / 64))) { s with mem := memWrs s.mem cells }

/-- HOIST_LAND (R210, R212): the last byte is in the slot, which becomes latest, and the round advances, unless the hoist was
abandoned. -/
def execHoistLand (s : State) : Out :=
  match s.hop? s.arg.id with
  | none => .next s
  | some o =>
    let s1 := if o.gone then s else
      match o.slot with
      | some i => ((tfind s.dev.hal o.hal).elim s fun x => fillSlot o x i s).modHal o.hal fun x =>
          { x with round := x.round + 1, latest := some i }.modSlot i fun e =>
            { e with round := x.round + 1, writer := none, written := true }
      | none => s
    .next (s1.after (4 * halD s1 o.core (BitVec.ofNat 16 o.hal)) (.ev .halyardTokenComplete { Arg.zero with id := o.id }))

/-- Status word of a sight (R211). -/
def sightWord (age slot st : Nat) : W64 := BitVec.ofNat 64 (age * 2 ^ 16 + slot * 16 + st)

/-- SIGHT_POINT (R211): empty, no seat, or the latest slot is pinned and its tile read. -/
def execSightPoint (s : State) : Out :=
  match s.hop? s.arg.id with
  | none => .next s
  | some o =>
    match tfind s.dev.hal o.hal with
    | none => .next s
    | some x =>
      let d := 4 * halD s o.core x.handle
      let fin (st : Nat) : State :=
        (halDeliver o (s.tick + d) (sightWord 0 0 st) (s.modHop o.id fun p => { p with status := st })).after d
          (.ev .halyardTokenComplete { Arg.zero with id := o.id })
      match x.latest with
      | none => .next (fin 1)
      | some i =>
        if x.inUse = x.seats then .next (fin 2)
        else
          let e := x.slots.getD i ⟨0, 0, none, false⟩
          let s1 := (s.modHal o.hal fun x => { x with inUse := x.inUse + 1 }.modSlot i fun e => { e with pins := e.pins + 1 }).modHop o.id
            fun p => { p with slot := some i, t0 := s.tick, buf := memBytes s.mem (halKey x.handle (i * x.tile)) x.tile }
          let s2 := halDeliver o (s.tick + d) (sightWord (x.round - e.round) i 0) s1
          .next ((s2.after (4 * tileU x.tile) (.ev .sightRelease { Arg.zero with id := o.id })).after 4 (.tile o.id))

/-- SIGHT_RELEASE (R211): the pin and the seat are freed at U. -/
def execSightRelease (s : State) : Out :=
  match s.hop? s.arg.id with
  | none => .next s
  | some o => match o.slot with
    | none => .next s
    | some i => .next (s.modHal o.hal fun x => { x with inUse := x.inUse - 1 }.modSlot i fun e => { e with pins := e.pins - 1 })

/-- HALYARD_TOKEN_COMPLETE (R210): the token completes and the operation leaves ocn.TIL. -/
def execHalyardTokenComplete (s : State) : Out :=
  match s.hop? s.arg.id with
  | none => .next s
  | some o =>
    .next ((s.modC o.core fun k => { k.complete o.tok o.gen with til := k.til - 1 }).modD fun d =>
      { d with hops := d.hops.filter (·.id != o.id) })

/-- Held page that contains an address (R198): its physical address. -/
def heldAt (p : Option (Nat × Nat × Nat)) (va : Nat) : Option Nat :=
  p.bind fun h => if h.1 ≤ va ∧ va < h.1 + h.2.1 then some (h.2.2 + (va - h.1)) else none

/-- Translation of tile byte x of an operation on global memory: the one that it holds, or a new one (R340), with the page's class and
sharing; none if the page cannot be used now. -/
def tilePage (s : State) (o : HalOp) : Option (Nat × HalOp) :=
  let va := o.va.toNat + o.x
  match heldAt o.pg va with
  | some pa => some (pa, o)
  | none =>
    match translate s o.core va 4 (if o.hoist then .rd else .wr) with
    | .ok pa x =>
      let pg := match x with | some t => (t.va, t.size, t.pa) | none => (va / 4096 * 4096, 4096, (pa + 2 ^ 52 - va % 4096) % 2 ^ 52)
      some (pa, { o with pg := some pg, pgX := pageX s o.core x })
    | _ => none

/-- Key of tile byte x in the operation's own memory, if its page can be used now, and the operation with the translation that it
holds then; otherwise whether the management core is told: the page is not resident, or not writable for a sight (R198, R336). A page
under a bias flip takes no new holder (R344), and accesses that keep the bytes are waited for (R31, R248; log entry 79). -/
def tileKey (s : State) (o : HalOp) (n : Nat) : (Nat × HalOp) ⊕ Bool :=
  match o.sp with
  | .glob =>
    match tilePage s o with
    | none => .inr true
    | some (pa, o1) =>
      if ((heldAt o.pg (o.va.toNat + o.x)).isNone && s.biasHeld pa) || s.engineKept o.core pa n (!o.hoist) then .inr false else .inl (pa, o1)
  | sp =>
    let k := o.addr + o.x
    if s.sideKept o.core (if sp = .pad then 1 else 2) ((List.range n).map (k + ·)) (!o.hoist) then .inr false else .inl (k, o)

/-- An engine of core c cannot use the page of va: the management core is told (R198), or, where the walk itself ends in a fault, the core
takes an address fault at its next bundle boundary (R336; log entry 119). -/
def noPage (c : CoreId) (va : Nat) (ro : Bool) (badr dtl : W64) (s : State) : State :=
  match if ro || noLeaf s c va then none else some (walkVa s (islOf c) (s.core.get c).ctx va) with
  | some (.fault l _) => s.modC c fun k => { k with xlTrap := k.xlTrap.or (some (BitVec.ofNat 64 va, l)) }
  | _ => eventRec c 0x33 badr (BitVec.ofNat 64 va) dtl s

/-- Detail of the record of a page that a hoist or sight waits for: bit 1 for a destination page that is mapped read-only (R359). -/
def tileDetail (s : State) (o : HalOp) : W64 :=
  match translate s o.core (o.va.toNat + o.x) 4 (if o.hoist then .rd else .wr) with
  | .prot _ => (match walkVa s (islOf o.core) (s.core.get o.core).ctx (o.va.toNat + o.x) with | .leaf e _ _ _ => if pteRes e then 2 else 0 | _ => 2)
  | _ => 0

/-- An engine of core c writes one byte: global bytes reach the home, tracked copies and this island's region copy (R260, R349). -/
def writeByte (c : CoreId) (glob : Bool) (key : Nat) (b : Byte) (s : State) : State :=
  if !glob then { s with mem := memWr s.mem key b }
  else (keyWr s (s.coreKey c) key 1 b.toNat).modI (islOf c) fun i =>
    { i with copies := i.copies.map fun e =>
        if e.1 = key / 128 ∧ e.2.st = .Rg then (e.1, { e.2 with data := putLine e.2.data (key % 128) 1 b.toNat }) else e }

/-- Bytes of a halyard path's write (R251, R349). -/
def engineWrite (c : CoreId) (sp : Sp) (va key : Nat) (bs : List Byte) (s : State) : State :=
  match sp with
  | .glob =>
    let s1 := setDirty c va s
    (List.zip (List.range bs.length) bs).foldl (fun s e => writeByte c true (key + e.1) e.2 s) s1
  | _ => { s with mem := memWrs s.mem (cellsAt key bs) }

/-- Bytes that an engine reads (R183, R199). -/
def engineRead (s : State) (c : CoreId) (sp : Sp) (key n : Nat) : List Byte :=
  match sp with
  | .glob => (List.range n).map fun i => BitVec.ofNat 8 (keyRd s (s.coreKey c) (key + i) 1)
  | _ => memBytes s.mem key n

/-- Tick of the point at which the controller has the operation: planned from its begin, then the one it took. -/
def HalOp.point (o : HalOp) (d : Nat) : Nat := if o.slot.isSome then o.t0 else o.t0 + d

/-- Bytes of the tile that move in this controller cycle: R210 leaves the moment of each 4-byte piece open between its bounds, so
their number is a free value, but for the last cycle before the bound, in which the rest moves. A global side moves bytes of one
page at a time, and may go on past the bound, at least a piece in each of its cycles (R210, R256, R301). -/
def tileBytes (o : HalOp) (x : Halyard) (d : Nat) (s : State) : Nat × State :=
  let left := x.tile - o.x
  let last := o.point d + 4 * tileU x.tile + (if o.hoist then 0 else d - 4)
  let (f, s1) := if s.tick < last ∨ o.sp = .glob then s.pick else (0, s)
  let n := if s.tick < last then 4 * (f % (left / 4 + 1)) else if o.sp = .glob then min left (4 * (f % (left / 4 + 1) + 1)) else left
  (match o.sp with | .glob => min n (4096 - (o.va.toNat + o.x) % 4096) | _ => n, s1)

/-- Controller cycles by which a global side is later: free (R210, R300, R301; log entry 1). -/
def globalLate (o : HalOp) (s : State) : Nat × State :=
  match o.sp with
  | .glob => let (n, s1) := s.pick; (4 * n, s1)
  | _ => (0, s)

/-- The whole tile has been read or written: the hoist, which reads until then, lands once it has its slot; the sight's token completes
once its writes have performed (R210, R256). -/
def tileDone (o : HalOp) (x : Halyard) (d : Nat) (s : State) : State :=
  if o.hoist then
    if o.slot.isNone then s
    else s.at (max (s.tick + 4) (o.t0 + 4 * (1 + tileU x.tile))) (.ev .hoistLand { Arg.zero with id := o.id })
  else
    let (g, s1) := globalLate o s
    s1.at (max (s.tick + 4) (o.t0 + 4 * tileU x.tile + d) + g) (.ev .halyardTokenComplete { Arg.zero with id := o.id })

/-- Byte x of a tile has crossed a strait in a flit that failed, to global memory or to the halyard's home: the strait's unit (R381,
R387). -/
def tileLost (s : State) (o : HalOp) (key x : Nat) : Option Nat :=
  if o.sp == .glob && flitFails s o.core o.seq (x / 64) key then some (0x2000 + (homeOf key).val)
  else if o.hal / 2 ^ 14 % 4 != (islOf o.core).val && s.dev.flits.contains (o.core, o.seq, x / 64) then some (0x2000 + o.hal / 2 ^ 14 % 4)
  else none

/-- Lines of global memory that n bytes at a physical address take, at the home's shelf and the island's caches (R343). -/
def tileLines (o : HalOp) (n key : Nat) (s : State) : State :=
  if o.sp ≠ .glob ∨ n = 0 then s
  else ((List.range' (key / 128) ((key + n - 1) / 128 - key / 128 + 1)).map (· % 2 ^ 45)).foldl (fun s l =>
    touchLine o.core l o.pgX.1 (!o.hoist) s) s

/-- The host's coherence is asked before bytes of a page that is shared with it, and in host bias, are read or written: whether it has
answered for the line, and the state in which it has been asked (R344). -/
def tileHost (o : HalOp) (key : Nat) (s : State) : Bool × State :=
  if o.sp ≠ .glob ∨ !o.pgX.2 ∨ s.dev.devBias.contains (key / 4096) then (true, s)
  else match o.asked.filter fun e => e.1 == key / 128 with
    | some e => (decide (e.2 ≤ s.tick), s)
    | none => let (f, s1) := s.pick; (false, s1.modHop o.id fun p => { p with asked := some (key / 128, s.tick + f + 1) })

/-- n bytes of the tile move: a hoist reads them, with the poison of each piece; a sight writes them, with that of theirs (R381). -/
def tileMove (o : HalOp) (x : Halyard) (i n key : Nat) (s : State) : State :=
  let held (p : HalOp) : HalOp := { p with x := o.x + n, told := false, pg := if o.x + n < x.tile then o.pg else none, pgX := o.pgX }
  if o.hoist then
    let bad (p : HalOp) : Tbl Nat := (List.range n).foldl (fun t j =>
      match (s.badUnit (islOf o.core) (key + j) 1).or (tileLost s o (key + j) (o.x + j)) with | some u => tset t ((o.x + j) / 64) u | none => t) p.bad
    (tileLines o n key (reachKeys (islOf o.core) ((List.range n).map (key + ·)) s)).modHop o.id fun p =>
      { held p with buf := p.buf ++ engineRead s o.core o.sp key n, bad := bad p }
  else
    let src := halKey x.handle (i * x.tile + o.x)
    let bad (j : Nat) : Option Nat := (s.badUnit (islOf o.core) (src + j) 1).or (tileLost s o (key + j) (o.x + j))
    (markWritten ((List.range n).map fun j => ((key + j, 0), bad j)) (noteError (islOf o.core) src n
      (engineWrite o.core o.sp (o.va.toNat + o.x) key ((o.buf.drop o.x).take n) (tileLines o n key s)))).modHop o.id held

/-- One controller cycle of a hoist or sight: its begin once the tokens it consumes are complete, then bytes of its tile until the
last. A hoist reads from its begin on, a sight writes from its point on; the begin is a halyard event of the core's trace (log entry
104). A page that cannot be used pauses it (R198, R210, R256, R336, R392). -/
def tileStep (id : Nat) (s : State) : State :=
  match s.hop? id with
  | none => s
  | some o =>
    match tfind s.dev.hal o.hal with
    | none => s
    | some x =>
      let d := 4 * halD s o.core x.handle
      if !o.began then
        if (s.core.get o.core).depsReady o.deps then
          let s1 := (traceEv o.core 0x06 o.badr (x.handle.setWidth 64) (s.modHop id fun p => { p with began := true, t0 := s.tick })).after d
            (.ev (if o.hoist then .hoistSlotTake else .sightPoint) { Arg.zero with id := id })
          if o.hoist then s1.after 4 (.tile id) else s1
        else s.after 4 (.tile id)
      else if x.tile ≤ o.x then tileDone o x d s
      else
        let (n, s1) := tileBytes o x d s
        match tileKey s1 o n with
        | .inr tell =>
          (if tell && !o.told then
            noPage o.core (o.va.toNat + o.x) (tileDetail s1 o != 0) o.badr (tileDetail s1 o) (s1.modHop id fun p => { p with told := true })
          else s1).after 4 (.tile id)
        | .inl (key, o1) =>
          let m := if o1.pgX.2 then min n (128 - key % 128) else n
          let (ok, s2) := tileHost o1 key (s1.modHop id fun p => { p with pg := o1.pg, pgX := o1.pgX })
          if !ok then s2.after 4 (.tile id)
          else
            let s3 := tileMove o1 x (o1.slot.getD 0) m key s2
            if o1.x + m < x.tile then
              let (g, s4) := if o1.point d + 4 * tileU x.tile ≤ s.tick then globalLate o1 s3 else (0, s3)
              s4.after (4 + g) (.tile id)
            else tileDone { o1 with x := o1.x + m } x d s3

end Sys2Proof.Machine
end

