-- ==== Sys2Proof/Machine/Matrix.lean ====
section
/-! DEFINITION. Matrix instructions at issue: parameter registers, microprogram store, status, routine calls, latch loads,
drains and the scale slot (R144 to R174). -/

namespace Sys2Proof.Machine

/-! Scalar side (R147 to R150, R174). -/

/-- MSET (R147); latency 1. -/
def execMset (g : Guard) (mi : BitVec 3) (a : BitVec 6) (s : State) : Out :=
  guarded g s (deliver 1 (.m mi (s.me.r.getS a) (BitVec.allOnes 64)))

/-- MSETI (R147): quarter q of m(i). -/
def execMseti (g : Guard) (mi : BitVec 3) (imm : BitVec 16) (mq : BitVec 2) (s : State) : Out :=
  guarded g s (deliver 1 (.m mi (imm.setWidth 64 <<< (16 * mq.toNat)) ((0xFFFF : W64) <<< (16 * mq.toNat))))

/-- MGET (R147). -/
def execMget (g : Guard) (d : BitVec 6) (mi : BitVec 3) (s : State) : Out := guarded g s (toS 1 d (s.me.r.getM mi))

/-- A path begins an operation at tick t: its head has every token it consumes, and t is a matrix edge. -/
def headBegins (k : CoreSt) (q : List MxOp) (t : Nat) : Bool :=
  match q with
  | o :: _ => k.depsReady o.deps && decide (k.edge .mtx t = t)
  | [] => false

/-- The array has an active cycle to run now: the operation under way, or the micro-operation that begins (R272). -/
def activeNow (k : CoreSt) : Bool :=
  match k.arun with
  | .idle => false
  | .azero .. => true
  | .call r =>
    if r.left ≠ 0 then r.active
    else match decodeMicro (tget 0 k.ustore r.pc) with
      | some (.mac _) | some (.macn _) | some .zero => decide (r.pc < 1024)
      | _ => false

/-- Cycles of a window of level l that are allowed (R380). -/
def allowed (l step : Nat) : Nat := l * step / 4

/-- A window of the ramp is over (R273, R274). -/
def windowOver : Slew → Bool
  | .up _ p _ _ st | .down _ p _ st => decide (st ≤ p)
  | _ => false

/-- The window that follows (R273, R274). -/
def Slew.nextWindow : Slew → Slew
  | .up l _ rest ups st => (match rest with | a :: r => .up a 0 r ups st | [] => .up l 0 [] ups st)
  | .down l _ ups st => if l ≤ 1 then .cold else .down (l - 1) 0 ups st
  | x => x

/-- The matrix cycle that begins now is a filler: the array is not to run an active cycle in it, and it is among the allowed ones of a
down window, or opens one (R274). -/
def fillerBegins (k : CoreSt) (active : Bool) : Bool :=
  !active && match if windowOver k.slew then k.slew.nextWindow else k.slew with
    | .up l p _ _ st => decide (1 < l) && decide (p < allowed l st)
    | .down l p _ st => decide (p < allowed l st)
    | _ => false

/-- The matrix cycle under way is a filler: its window has counted it. -/
def fillerNow (k : CoreSt) : Bool :=
  match k.slew with
  | .down l p _ st => decide (1 ≤ p) && decide (p ≤ allowed l st)
  | _ => false

/-- The matrix cycle of tick t, which begins at t unless it is under way, is a filler. -/
def fillerAt (k : CoreSt) (t : Nat) : Bool :=
  if k.edge .mtx t = t ∧ k.mlast ≠ t then
    fillerBegins k (activeNow k || (k.arun == .idle && !k.astop && headBegins k k.aq t &&
      match k.aq with | o :: _ => (match o.kind with | .azero _ => true | _ => false) | [] => false))
  else fillerNow k

/-- Busy bits of the array, latch and drain path at tick t (R150, R273): an operation runs, or begins now. The array is busy to the end of
the last array cycle, but in no filler cycle (R274), and is not once a routine fault has stopped it: DESIGN CHOICE (log entry 67). -/
def arrayBusy (k : CoreSt) (t : Nat) : Bool :=
  !fillerAt k t && match k.arun with
    | .idle => decide (t < k.arbTo) || (!k.astop && headBegins k k.aq t)
    | _ => true

def latchBusy (k : CoreSt) (t : Nat) : Bool := k.lrun.isSome || headBegins k k.lq t
def drainBusy (k : CoreSt) (t : Nat) : Bool := k.drun.isSome || headBegins k k.dq t

/-- mstat (R150). -/
def mstatWord (k : CoreSt) (t : Nat) : W64 :=
  BitVec.ofNat 64 ((arrayBusy k t).toNat + (latchBusy k t).toNat * 2 + (drainBusy k t).toNat * 4 + k.rix.toNat * 2 ^ 8 +
    k.fa.toNat * 2 ^ 16 + k.fc.toNat * 2 ^ 28)

/-- MSTAT (R150). -/
def execMstat (g : Guard) (d : BitVec 6) (s : State) : Out := guarded g s (toS 1 d (mstatWord s.me s.tick))

/-- CKST (R174). -/
def execCkst (g : Guard) (d : BitVec 6) (sel : BitVec 2) (s : State) : Out :=
  guarded g s (toS 1 d (s.me.cks[sel.toNat]'sel.isLt))

/-- Issue a matrix operation: it is held back until a checkpoint releases it. One that produces a token stands in a
checkpoint bundle, whose release follows at once (R77, R146). -/
def issueMx (kind : MxKind) (t : Toks) (s : State) : State :=
  if s.me.tokPending t.tp then tokenTrap t.tp s
  else
    let deps := s.me.depsOf t
    let src := match kind with | .drain .. => 2 | _ => 0
    let (gen, k) := s.me.produce t.tp src
    s.modMe fun _ => { k with wmx := k.wmx ++ [⟨s.order, s.bun.adr, kind, s.me.r.m, t.tp, gen, deps⟩] }

/-- A matrix operation without tokens. -/
def noToks : Toks := ⟨0, 0, 0, 0⟩

/-- MPLD (R149): b microwords from the pad at a to the store at w. -/
def execMpld (g : Guard) (a b : BitVec 6) (mw : BitVec 10) (s : State) : Out :=
  guarded g s fun s =>
    let p := (s.me.r.getS a).toNat
    let n := (s.me.r.getS b).toNat
    if n = 0 ∨ 1024 < mw.toNat + n then illegal 0xA3 s
    else if p % 4 ≠ 0 then takeTrap 0x06 (s.me.r.getS a) 4 s
    else if 0x200000 ≤ p + 4 * n - 1 then takeTrap 0x07 (s.me.r.getS a) 4 s
    else issueMx (.mpld p n mw.toNat) noToks s

/-- MPENT (R149): the issue-time copy of the valid bit changes now, the entry when it runs. -/
def execMpent (g : Guard) (a : BitVec 6) (re : BitVec 8) (s : State) : Out :=
  guarded g s fun s =>
    let v := s.me.r.getS a
    let bit : BitVec 256 := 1#256 <<< re.toNat
    (issueMx (.mpent re (v.setWidth 11)) noToks s).modMe fun k =>
      { k with r := { k.r with entryOk := if v.getLsbD 10 then k.r.entryOk ||| bit else k.r.entryOk &&& ~~~bit } }

/-! Matrix slot. An engine slot that its loop carrier squashes does not issue (R104). -/

/-- A slot that acts unless it is squashed. -/
def engineSlot (s : State) (f : State → State) : Out := .next (if s.bun.squash then s else f s)

/-- MCALL (R165). -/
def execMcall (t : Toks) (e : BitVec 8) (lat : BitVec 3) (acc : BitVec 2) (ck ovw : Bool) (s : State) : Out :=
  engineSlot s fun s =>
    if s.me.r.entryOk.getLsbD e.toNat then issueMx (.mcall e lat acc ck ovw) t s else illegal 0x01 s

/-- Pad address, row stride, last row, and zero flag of an lload descriptor (R162). -/
def lloadBase (d : W64) : Nat := (d.extractLsb' 0 21).toNat
def lloadStr (d : W64) : Nat := (d.extractLsb' 24 16).toNat
def lloadNrw (d : W64) : Nat := (d.extractLsb' 40 7).toNat

/-- LLOAD (R162). -/
def execLload (t : Toks) (i lat : BitVec 3) (s : State) : Out :=
  engineSlot s fun s =>
    let d := s.me.r.getM i
    let base := lloadBase d
    if d.extractLsb' 48 16 ≠ 0 ∨ d.extractLsb' 21 3 ≠ 0 then illegal 0x02 s
    else if base % 64 ≠ 0 ∨ lloadStr d % 64 ≠ 0 then takeTrap 0x06 (BitVec.ofNat 64 base) 256 s
    else if 0x200000 ≤ base + lloadNrw d * lloadStr d + 255 then takeTrap 0x07 (BitVec.ofNat 64 base) 256 s
    else issueMx (.lload i lat) t s

/-- Drain parameters (R168): destination space code, address, output type, stride, last column, last row. -/
structure DrainArgs where
  spc : BitVec 3
  adr : Nat
  ot : ElemTy
  str : Nat
  ncl : Nat
  nrw : Nat
  deriving DecidableEq, Repr

/-- Parameters of MP(i) and MP(i + 1), if no reserved field or code rules them out (R168). -/
def drainArgs (a b : W64) : Option DrainArgs :=
  let spc := a.extractLsb' 61 3
  if (spc ≠ 1 ∧ spc ≠ 2) ∨ a.extractLsb' 27 34 ≠ 0 ∨ b.extractLsb' 36 28 ≠ 0 ∨ b.getLsbD 15 ∨ b.getLsbD 7 then none
  else match tyOfCode (b.extractLsb' 32 4) with
    | none => none
    | some .b4 => none
    | some ot => some ⟨spc, (a.extractLsb' 0 27).toNat, ot, (b.extractLsb' 16 16).toNat, (b.extractLsb' 8 7).toNat,
        (b.extractLsb' 0 7).toNat⟩

/-- Bytes from ADR to the end of a drain's extent. -/
def DrainArgs.span (x : DrainArgs) : Nat := x.nrw * x.str + (x.ncl + 1) * (tyBits x.ot / 8)

/-- DRAIN (R168): the checks at issue. -/
def execDrain (t : Toks) (i : BitVec 3) (acc : BitVec 2) (ck ovw : Bool) (s : State) : Out :=
  engineSlot s fun s =>
    match drainArgs (s.me.r.getM i) (s.me.r.getM (i + 1)) with
    | none => illegal 0x03 s
    | some x =>
      let z := tyBits x.ot / 8
      let ea := BitVec.ofNat 64 x.adr
      if x.adr % z ≠ 0 ∨ x.str % z ≠ 0 then takeTrap 0x06 ea (BitVec.ofNat 64 z) s
      else if x.spc = 1 ∧ 0x200000 < x.adr + x.span then takeTrap 0x07 ea (BitVec.ofNat 64 z) s
      else if x.spc = 2 ∧ !stagingOk s s.cur x.adr x.span then takeTrap 0x08 ea (BitVec.ofNat 64 z) s
      else issueMx (.drain i acc ck ovw) t s

/-- AZERO (R166). -/
def execAzero (t : Toks) (acc : BitVec 2) (s : State) : Out := engineSlot s (issueMx (.azero acc) t)

/-- EPICFG (R167). -/
def execEpicfg (t : Toks) (i : BitVec 3) (s : State) : Out :=
  engineSlot s fun s =>
    let d := s.me.r.getM i
    if d.extractLsb' 36 28 ≠ 0 ∨ d.getLsbD 11 ∨ d.extractLsb' 9 2 = 3 then illegal 0x05 s
    else if d.getLsbD 8 ∧ (d.extractLsb' 12 21).toNat % 64 ≠ 0 then takeTrap 0x06 ((d.extractLsb' 12 21).setWidth 64) 64 s
    else issueMx (.epicfg i) t s

/-- CKSNAP (R173). -/
def execCksnap (t : Toks) (i : BitVec 3) (acc : BitVec 2) (s : State) : Out :=
  engineSlot s fun s =>
    let a := ((s.me.r.getM i).extractLsb' 0 21)
    if a.toNat % 16 ≠ 0 then takeTrap 0x06 (a.setWidth 64) 528 s
    else if 0x200000 < a.toNat + 528 then takeTrap 0x07 (a.setWidth 64) 528 s
    else issueMx (.cksnap i acc) t s

/-! Scale slot (R163, R164). -/

/-- The matrix clock of core c has work at its next edge. -/
def startMx (c : CoreId) (s : State) : State :=
  if s.has (.mcyc c) then s else s.at ((s.core.get c).edge .mtx s.tick) (.mcyc c)

/-- Issue a scale write of OP op: it begins at the first free matrix edge, and lands 6 matrix cycles on. -/
def issueScale (op : BitVec 3) (b : BitVec 4) (v : Byte) (src : Option Nat) (s : State) : State :=
  let k := s.me
  let e := k.edge .mtx s.tick
  let t := match k.lastSc with
    | some l => if e ≤ l then k.edge .mtx (l + 1) else e
    | none => e
  startMx s.cur (s.modMe fun k => { k with lastSc := some t, scw := k.scw ++ [⟨t, 6, s.order, op, b, v, src, s.bun.adr, none⟩] })

/-- SCSET (R163): VAL. -/
def execScset (b : BitVec 4) (v : BitVec 8) (s : State) : Out := engineSlot s (issueScale 1 b v none)
/-- SCADD (R163): Min(255, v + VAL). -/
def execScadd (b : BitVec 4) (v : BitVec 8) (s : State) : Out := engineSlot s (issueScale 2 b v none)
/-- SCSUB (R163): Max(0, v - VAL). -/
def execScsub (b : BitVec 4) (v : BitVec 8) (s : State) : Out := engineSlot s (issueScale 3 b v none)
/-- SCPAD (R163): a pad byte at m7 + VAL. -/
def execScpad (b : BitVec 4) (v : BitVec 8) (s : State) : Out :=
  engineSlot s fun s =>
    let a := (s.me.r.getM 7).toNat % 2 ^ 21 + v.toNat
    if 0x200000 ≤ a then takeTrap 0x07 (BitVec.ofNat 64 a) 1 s else issueScale 4 b v (some (padKey s.cur a)) s
/-- SCCPY (R163): the value of block VAL[3:0]. -/
def execSccpy (b : BitVec 4) (v : BitVec 8) (s : State) : Out := engineSlot s (issueScale 5 b v none)
/-- SCMAX (R163): Max(v, VAL). -/
def execScmax (b : BitVec 4) (v : BitVec 8) (s : State) : Out := engineSlot s (issueScale 6 b v none)
/-- SCMIN (R163): Min(v, VAL). -/
def execScmin (b : BitVec 4) (v : BitVec 8) (s : State) : Out := engineSlot s (issueScale 7 b v none)

/-- Value that a landing scale write gives its block, from the blocks as they hold before any write of that cycle lands (R163, R164). -/
def scaleVal (x : Vector Byte 16) (w : ScaleWr) : Byte :=
  let v := x[w.blk.toNat]'w.blk.isLt
  match w.op.toNat with
  | 2 => BitVec.ofNat 8 (min 255 (v.toNat + w.val.toNat))
  | 3 => BitVec.ofNat 8 (v.toNat - w.val.toNat)
  | 5 => x[(w.val.setWidth 4).toNat]'(w.val.setWidth 4).isLt
  | 6 => if v.toNat < w.val.toNat then w.val else v
  | 7 => if v.toNat < w.val.toNat then v else w.val
  | _ => w.val

def setScale (old x : Vector Byte 16) (w : ScaleWr) : Vector Byte 16 := x.set w.blk.toNat (scaleVal old w) w.blk.isLt

/-- Poison of the blocks after a write: scset cleans its block, scpad gives it the mark of its byte, sccpy that of the block it copies, and
the others leave it (R381). -/
def scaleBad (old x : List (BitVec 4 × W64 × Nat)) (w : ScaleWr) : List (BitVec 4 × W64 × Nat) :=
  let rest := x.filter fun e => e.1 != w.blk
  match w.op.toNat with
  | 1 => rest
  | 4 => match w.bad with | some u => (w.blk, w.badr, u) :: rest | none => rest
  | 5 => (old.filter fun e => e.1 == w.val.setWidth 4).map (fun e => (w.blk, e.2)) ++ rest
  | _ => x

/-- A scale write lands in registers; the blocks are read in those before any write of the cycle. -/
def Regs.landScale (old r : Regs) (w : ScaleWr) : Regs :=
  { r with scale := setScale old.scale r.scale w, scBad := scaleBad old.scBad r.scBad w }

/-- SCALE_WRITE_LAND (R164, R175): the scale writes whose six cycles are over land, on one block
the later in issue order last: DESIGN CHOICE (log entry 122). -/
def execScaleWriteLand (s : State) : Out :=
  .next (s.modC s.arg.c fun k0 =>
    (k0.scw.filter (·.left == 0)).foldl (fun k w =>
      { k with
        r := k0.r.landScale k.r w
        ck := if w.seq ≤ k.ckSeq then k0.ck.landScale k.ck w else k.ck })
      { k0 with scw := k0.scw.filter (·.left != 0) })

/-! Release (R144, R146, R230). -/

def MxOp.isLatch (o : MxOp) : Bool := match o.kind with | .lload .. => true | _ => false
def MxOp.isDrain (o : MxOp) : Bool := match o.kind with | .drain .. | .epicfg _ | .cksnap .. => true | _ => false
/-- It counts in ocn.TIL (R25, R149). -/
def MxOp.counted (o : MxOp) : Bool := match o.kind with | .mpld .. | .mpent .. => false | _ => true

/-- Release the withheld matrix operations to their paths. The matrix cycles before had no command but an earlier one's (R394). -/
def releaseMx (c : CoreId) (s : State) : State :=
  let w := (s.core.get c).wmx
  if w.isEmpty then s
  else startMx c ((classUp c s).modC c fun k =>
    { k with
      wmx := []
      lq := k.lq ++ w.filter (·.isLatch)
      aq := k.aq ++ w.filter fun o => !o.isLatch && !o.isDrain
      dq := k.dq ++ w.filter (·.isDrain)
      til := k.til + (w.filter (·.counted)).length
      lastArr := match (w.filter fun o => !o.isLatch && !o.isDrain).getLast? with | some o => o.badr | none => k.lastArr })

/-- A released matrix operation is complete: it leaves ocn.TIL, its token completes and its flags reach fst (R47, R157). -/
def finishMx (c : CoreId) (o : MxOp) (fl : Byte) (s : State) : State :=
  s.modC c fun k =>
    let k1 := { k.complete o.tok o.gen with til := k.til - 1 }
    if fl = 0 then k1 else k1.deliver .ctl s.tick 0 o.seq (.flags fl)

end Sys2Proof.Machine
end

