-- ==== Sys2Proof/Machine/Record.lean ====
section
/-! DEFINITION. The launch record: reading it, the record check and the reservations that it makes (R225, R226, R321 to R326,
R364, R405). -/

namespace Sys2Proof.Machine

/-! A context's memory as the device's own agents reach it. -/

/-- Physical address of a context's byte: the window, else a walk to a resident leaf (R332, R336). The dispatcher walks as island 0
does (log entry 92). -/
def xlatCtx (s : State) (cx : BitVec 7) (va : Nat) (wr : Bool) : Option Nat :=
  if 2 ^ 54 ≤ va then none
  else
    let (lo, hi, ofs, w, _) := heapOf (s.ctxOf cx)
    if lo ≤ va ∧ va < hi then (if wr && !w then none else some ((va + ofs) % 2 ^ 52))
    else match walkVa s 0 cx va with
      | .leaf e _ _ n => if pteRes e && (!wr || pteW e) then some (pteAdr e + va % 2 ^ n) else none
      | _ => none

/-- n bytes of a context at va, little-endian; none if a byte cannot be read. -/
def ctxRd (s : State) (cx : BitVec 7) (va : Nat) : Nat → Option Nat
  | 0 => some 0
  | n + 1 =>
    match xlatCtx s cx va false, ctxRd s cx (va + 1) n with
    | some pa, some r => some (keyRd s (s.ctxKey cx) pa 1 + 256 * r)
    | _, _ => none

/-- A byte that is read whatever the page allows: a free value where it cannot be (log entry 1). -/
def ctxByte (s : State) (cx : BitVec 7) (va : Nat) : Byte :=
  match xlatCtx s cx va false with
  | some pa => BitVec.ofNat 8 (keyRd s (s.ctxKey cx) pa 1)
  | none => Config.freeByte s.free va

/-- n bytes of them as a number. -/
def ctxNum (s : State) (cx : BitVec 7) (va : Nat) : Nat → Nat
  | 0 => 0
  | n + 1 => (ctxByte s cx va).toNat + 256 * ctxNum s cx (va + 1) n

/-! Partitions (R405). -/

/-- Partition whose context range holds cx. -/
def partOfCtx (s : State) (cx : Nat) : Option Nat :=
  (List.range 4).find? fun p =>
    let w := (s.dev.pcx.toList.getD p 0).toNat
    decide (natBits w 6 0 ≤ cx) && decide (cx < natBits w 6 0 + natBits w 15 8)

/-- Partition whose queue range holds q; the first one if none does. -/
def partOfQueue (s : State) (q : Nat) : Nat :=
  ((List.range 4).find? fun p =>
    let w := (s.dev.pcx.toList.getD p 0).toNat
    decide (natBits w 23 16 ≤ q) && decide (q < natBits w 23 16 + natBits w 32 24)).getD 0

/-- Must-save quota of a partition in bytes. -/
def quotaOf (s : State) (p : Nat) : Nat := natBits (s.dev.pcx.toList.getD p 0).toNat 63 48 * 4096

/-- A core is fenced (R389). -/
def fenced (s : State) (c : CoreId) : Bool :=
  !isMgmt c && (s.isl.get (islOf c)).fcore.getLsbD (c.val % 32)

/-! The record. -/

/-- Bits hi to lo of the field at a byte offset of a record that is a number. -/
def recBits (r off hi lo : Nat) : Nat := natBits r (8 * off + hi) (8 * off + lo)

/-- Stage count of a record. -/
def recStages (r : Nat) : Nat := recBits r 0 10 8 + 1
/-- Binding entry of stage i. -/
def recBnd (r i : Nat) : Nat := recBits r (0x80 + 8 * i) 63 0

/-- Reserved fields and STW (R321). The host path checks bytes 0xF8 to 0xFE too. -/
def recReserved (r : Nat) (host : Bool) : Bool :=
  recBits r 0 7 0 != 1 || recBits r 0 11 11 != 0 || recBits r 0 19 19 != 0 || recBits r 0 31 28 != 0 ||
    recBits r 0x26 15 3 != 0 || recBits r 0x48 63 4 != 0 || decide (8 < recBits r 0x48 3 0) ||
    recBits r 0x50 383 0 != 0 || recBits r 0xC0 383 0 != 0 || (host && recBits r 0xF8 55 0 != 0) ||
    (List.range 8).any fun i =>
      if i < recStages r then recBnd r i / 2 ^ 32 != 0 || natBits (recBnd r i) 15 15 != 0 || natBits (recBnd r i) 7 7 != 0
      else recBnd r i != 0

/-- A binding breaks R325, or its range holds a core that is fenced or outside the partition (R326). -/
def badBinding (s : State) (cx : Nat) (b : Nat) : Bool :=
  let first := natBits b 6 0
  let last := natBits b 14 8
  let mn := natBits b 23 16
  let mx := natBits b 31 24
  decide (last < first) || decide (128 < mx) || mn == 0 || decide (128 < mn) || decide (last - first + 1 < mn) ||
    (mx != 0 && decide (mx < mn)) ||
    (List.range' first (last + 1 - first)).any fun c =>
      fenced s (coreNo c) || !(partOfCtx s cx).any fun p => s.partOf (islOf (coreNo c)) == p

/-- The widths of a wfw break R33. A nonzero bit of [63:36], of which the spec says nothing, counts as breaking it: DESIGN CHOICE
(log entry 83). -/
def badWidths (w : Nat) : Bool :=
  let l := (List.range 6).map fun j => natBits w (6 * j + 5) (6 * j)
  w == 0 || decide (2 ^ 36 ≤ w) || decide (64 < l.foldl (· + ·) 0) || (l.dropWhile (· != 0)).any (· != 0)

/-- The image descriptor (R324): code base, dictionary, routines, stage table, switch tables, must-save descriptor, widths,
safe-point interval; and whether a limit or a switch table's header is broken. -/
structure ImageDesc where
  code : Nat
  dictN : Nat
  rtnN : Nat
  dictA : Nat
  rtnA : Nat
  stages : List (Nat × Nat)
  sw : List Nat
  msv : Nat
  wfw : Nat
  sfi : Nat
  bad : Bool
  deriving DecidableEq, Repr

/-- Collect the results, if there is one for each. -/
def allSome {α : Type} : List (Option α) → Option (List α)
  | [] => some []
  | none :: _ => none
  | some x :: r => (allSome r).map (x :: ·)

/-- Read the image descriptor with its stage table, the addresses of the switch tables, one for each stage of the image, and the
tables' headers (R310, R324). -/
def readImage (s : State) (cx : BitVec 7) (img : Nat) : Option ImageDesc :=
  match ctxRd s cx img 128 with
  | none => none
  | some d =>
    let w (o : Nat) : Nat := recBits d o 63 0
    let st := allSome ((List.range 8).map fun i => ctxRd s cx (w 0x20 + 8 * i) 8)
    let n := ((st.getD []).filter fun e => natBits e 42 32 != 0).length
    let sw := if w 0x28 = 0 then some [] else allSome ((List.range n).map fun i => ctxRd s cx (w 0x28 + 8 * i) 8)
    match st, sw with
    | some st, some sw =>
      match allSome (sw.map fun a => if a = 0 then some 0 else ctxRd s cx a 8) with
      | none => none
      | some hs =>
        some {
          code := w 0, dictN := recBits d 0xC 15 0, rtnN := recBits d 0xE 15 0, dictA := w 0x10, rtnA := w 0x18
          stages := st.map fun e => (natBits e 31 0, natBits e 42 32)
          sw := sw, msv := w 0x38, wfw := w 0x40, sfi := w 0x48
          bad := hs.any (fun h => h / 2 ^ 15 != 0) || decide (4096 < recBits d 0xC 15 0) ||
            decide (1024 < recBits d 0xE 15 0) || decide (2 ^ 32 ≤ w 0x48) || st.any fun e => decide (1024 < natBits e 42 32) }
    | _, _ => none

/-- Region table entry i, and whether it breaks R323 or R187. -/
def readRegion (s : State) (cx : BitVec 7) (a : Nat) : Option (Region × Bool) :=
  (ctxRd s cx a 32).map fun d =>
    let base := recBits d 0 63 0
    let len := recBits d 8 63 0
    let atr := recBits d 0x10 31 0
    (⟨natBits atr 11 0, base, len, ⟨natBits atr 13 12 % 4, by omega⟩, natBits atr 14 14 == 1, natBits atr 31 16⟩,
      base % 128 != 0 || len % 128 != 0 || len == 0 || decide (2 ^ 54 < base + len) || natBits atr 15 15 != 0 ||
        recBits d 0x14 95 0 != 0)

/-- Halyard table entry: handle, store in memory, slots, seats, tile, and whether it breaks R34. -/
structure HalDef where
  handle : BitVec 16
  memory : Bool
  slots : Nat
  seats : Nat
  tile : Nat
  bad : Bool
  deriving DecidableEq, Repr

def HalDef.bytes (h : HalDef) : Nat := h.slots * h.tile

def readHal (s : State) (cx : BitVec 7) (a : Nat) : Option HalDef :=
  (ctxRd s cx a 16).map fun d =>
    let w := recBits d 0 63 0
    let n := natBits w 20 17 + 1
    let r := natBits w 24 21 + 1
    let tile := natBits w 63 32
    ⟨BitVec.ofNat 16 w, natBits w 16 16 == 1, n, r, tile,
      natBits w 13 8 != 0 || natBits w 31 25 != 0 || recBits d 8 63 0 != 0 || tile == 0 || tile % 4 != 0 ||
        decide (4194304 < tile) || decide (n < 3) || decide (14 < r) || decide (n < r + 2)⟩

def regionsOverlap : List Region → Bool
  | [] => false
  | r :: l => (l.any fun x => decide (r.base < x.base + x.len) && decide (x.base < r.base + r.len)) || regionsOverlap l

def hasDup {α : Type} [BEq α] : List α → Bool
  | [] => false
  | x :: l => l.contains x || hasDup l

/-- Staging and pool bytes of island y that halyards hold. -/
def halHeld (s : State) (y : Isl) (memory : Bool) : Nat :=
  s.dev.hal.foldl (fun n e =>
    if handleHome' e.2.handle = y ∧ e.2.stg ≠ memory then n + e.2.tile * e.2.slots.length else n) 0
where
  /-- Home island of a handle (R34). -/
  handleHome' (h : BitVec 16) : Isl := ⟨h.toNat / 2 ^ 14 % 4, by omega⟩

/-- Some halyard of the list does not fit on its island (R209). -/
def noSpace (s : State) (stw : Nat) (hs : List HalDef) : Bool :=
  islIds.any fun y =>
    let need (m : Bool) : Nat :=
      (hs.filter fun h => h.memory == m && h.handle.toNat / 2 ^ 14 == y.val).foldl (fun n h => n + h.bytes) 0
    (need false != 0 && decide (32 * stw * 262144 < halHeld s y false + need false)) ||
      (need true != 0 && decide (67108864 < halHeld s y true + need true))

/-- The n highest bytes of [lo, hi) that none of the ranges takes, and how many are still wanted. -/
def takeTop (lo hi n : Nat) : List (Nat × Nat) → List (Nat × Nat) × Nat
  | [] => let m := min n (hi - lo); (if m = 0 then [] else [(hi - m, m)], n - m)
  | (a, l) :: r =>
    let (above, n1) := takeTop (max lo (min hi (a + l))) hi n r
    let (below, n2) := takeTop lo (max lo (min hi a)) n1 r
    (above ++ below, n2)

/-- The highest free bytes of the launch's staging ways on an island, from slice 31 downward (R209). -/
def placeHal (s : State) (y : Isl) (stw : Nat) (h : HalDef) : List (Nat × Nat) :=
  if h.memory then []
  else
    let used := (s.dev.hal.filter fun e => e.2.handle.toNat / 2 ^ 14 == y.val).flatMap fun e => e.2.store
    ((List.range 32).foldl (fun (a : List (Nat × Nat) × Nat) i =>
      let b := (31 - i) * 0x400000
      let (l, n) := takeTop b (b + stw * 262144) a.2 (used.filter fun r => decide (r.1 < b + 0x400000) && decide (b < r.1 + r.2))
      (a.1 ++ l, n)) ([], h.bytes)).1

/-- Must-save descriptor at an address, whose binary form the spec does not give (R276; log entry 9). -/
def readMsv (s : State) (cx : BitVec 7) (a : Nat) : Option (W64 × Nat × List MsvEnt) :=
  (ctxRd s cx a 2048).map fun d =>
    let bs := (List.range 2048).map fun i => BitVec.ofNat 8 (d / 256 ^ i)
    let f (i : Nat) : W64 := Config.mustSaveField bs i
    (f 0, (f 1).toNat % 8, (List.range ((f 2).toNat % 65)).map fun e =>
      ⟨(f (4 * e + 3)).toNat % 3, f (4 * e + 4), (f (4 * e + 5)).toNat, (f (4 * e + 6)).toNat % 5⟩)

/-- Payload bytes of a register class (R276). -/
def classBytes (c : Nat) : Nat := match c with | 0 => 512 | 1 => 16384 | 2 => 128 | 3 => 64 | _ => 1024

def MsvEnt.bytes (e : MsvEnt) : Nat := if e.kind = 2 then classBytes e.cls else e.len

/-- Size of a must-save set (R276). -/
def msvSize (l : List MsvEnt) : Nat := l.foldl (fun n e => n + e.bytes + 64) 0

/-- Every page of an item list can be read (R322). -/
def itemsReadable (s : State) (cx : BitVec 7) (a n : Nat) : Bool :=
  n == 0 || (List.range ((a + 8 * n - 1) / 4096 - a / 4096 + 1)).all fun i => (xlatCtx s cx (max a ((a / 4096 + i) * 4096)) false).isSome

/-- A sealed half of the hold-up store has a context record of sequence hsq for cx (R366, R369). -/
def sealedHalf (s : State) (cx hsq : Nat) : Bool :=
  [0, 0x10000000].any fun h =>
    natBits (memRdN s.mem (holdKey h) 8) 32 32 == 1 && memRdN s.mem (holdKey (h + 0x1000 + 64 * cx)) 8 == hsq && hsq != 0

/-- Launches that hold resources: pending or running. -/
def liveLaunches (s : State) : List Launch := (s.dev.pool.map (·.2)).filter fun l => l.st == .pending || l.st == .running

/-- Must-save bytes of a partition's launches. -/
def partMsu (s : State) (p : Nat) : Nat :=
  (liveLaunches s).foldl (fun n l => if partOfCtx s l.ctx.toNat = some p then n + l.msvLen else n) 0

/-- Result of the record check: a WHY code, or the launch and its halyards. -/
inductive Checked where
  | why (w : Nat)
  | ok (l : Launch) (hs : List HalDef)
  deriving DecidableEq, Repr

/-- Tests 0x07 to 0x0E, on the tables of a record whose image is good (R326). Too many entries, tables that are not aligned and two
regions of one index give 8: DESIGN CHOICE (log entry 33). -/
def checkTables (s : State) (r depth : Nat) (cx : BitVec 7) (im : ImageDesc) : Checked :=
  let nrg := recBits r 0x30 15 0
  let nhy := recBits r 0x32 15 0
  let rgn := recBits r 0x28 63 0
  let hal := recBits r 0x38 63 0
  let wfw := if recBits r 0x10 63 0 = 0 then im.wfw else recBits r 0x10 63 0
  let lst := recBits r 0x26 0 0 == 1
  let rst := recBits r 0x26 2 2 == 1
  let itm := recBits r 0x18 63 0
  let nit := recBits r 0x20 31 0
  let stw := recBits r 0x48 3 0
  let mva := if recBits r 0x40 63 0 = 0 then im.msv else recBits r 0x40 63 0
  if badWidths wfw then .why 6
  else match allSome ((List.range nrg).map fun i => readRegion s cx (rgn + 32 * i)) with
    | none => .why 0xD
    | some rs =>
      if regionsOverlap (rs.map (·.1)) then .why 7
      else match allSome ((List.range nhy).map fun i => readHal s cx (hal + 16 * i)) with
        | none => .why 0xD
        | some hs =>
          if 4096 < nrg ∨ 256 < nhy ∨ (nrg ≠ 0 ∧ rgn % 32 ≠ 0) ∨ (nhy ≠ 0 ∧ hal % 16 ≠ 0) ∨ rs.any (·.2) ∨
              hasDup (rs.map fun e => e.1.index) ∨ hs.any (·.bad) then .why 8
          else if (hs.any fun h => (tfind s.dev.hal h.handle.toNat).isSome) ∨ hasDup (hs.map (·.handle)) then .why 9
          else if noSpace s stw hs then .why 0xA
          else match (if mva = 0 then some (0, 0, []) else readMsv s cx mva) with
            | none => .why 0xD
            | some (rep, mst, ms) =>
              let size := msvSize ms
              let p := (partOfCtx s cx.toNat).getD 0
              if Config.mslBytes < s.dev.msu + size ∨ (size ≠ 0 ∧ quotaOf s p < partMsu s p + size) then .why 0xB
              else if rst && !sealedHalf s cx.toNat (recBits r 0x34 31 0) then .why 0xC
              else if lst && !itemsReadable s cx itm nit then .why 0xD
              else if size ≠ 0 ∧ (liveLaunches s).any fun l => l.ctx == cx && l.msvLen != 0 then .why 0xE
              else .ok {
                st := .pending, sn := 0, depth := depth, ctx := cx, que := BitVec.ofNat 8 (recBits r 0 27 20)
                kid := BitVec.ofNat 32 (recBits r 4 31 0), img := BitVec.ofNat 64 (recBits r 8 63 0)
                wfw := BitVec.ofNat 64 wfw, sfi := BitVec.ofNat 64 im.sfi, itm := BitVec.ofNat 64 itm, nit := nit, fed := 0
                pen := BitVec.ofNat 16 (recBits r 0x24 15 0), lst := lst, rst := rst
                hsq := BitVec.ofNat 32 (recBits r 0x34 31 0), stw := stw, regions := rs.map (·.1)
                halys := hs.map (·.handle.toNat)
                stages := (List.range (recStages r)).map fun i =>
                  let b := recBnd r i
                  let e := im.stages.getD i (0, 0)
                  ⟨BitVec.ofNat 64 (im.code + e.1), e.2, [], 0, natBits b 6 0, natBits b 14 8, natBits b 23 16, natBits b 31 24,
                    BitVec.ofNat 64 (im.sw.getD i 0)⟩
                code := BitVec.ofNat 64 im.code, dictA := BitVec.ofNat 64 im.dictA, dictN := im.dictN
                rtnA := BitVec.ofNat 64 im.rtnA, rtnN := im.rtnN, msvRep := rep, msvStg := mst, msv := ms, msvLen := size
                msvOn := decide (mva ≠ 0), lead := none, done := 0, opt := none, phase := 0 } hs

/-- The record check of R326, in its order; r is the record as a number. -/
def checkRecord (s : State) (r depth : Nat) (host : Bool) (issuer : Option (BitVec 7)) : Checked :=
  let cx : BitVec 7 := BitVec.ofNat 7 (recBits r 0 18 12)
  let q := recBits r 0 27 20
  let sq := s.dev.sq.toList.getD q SchedQ.init
  if recReserved r host then .why 1
  else if !(s.ctxOf cx).en ∨ issuer.any (· != cx) then .why 2
  else if sq.ctx ≠ cx ∨ !sq.en then .why 3
  else if (List.range (recStages r)).any fun i => badBinding s cx.toNat (recBnd r i) then .why 4
  else if recBits r 8 63 0 % 128 ≠ 0 then .why 5
  else match readImage s cx (recBits r 8 63 0) with
    | none => .why 0xD
    | some im =>
      if im.bad ∨ (im.stages.filter fun e => e.2 != 0).length ≠ recStages r ∨
          ((im.stages.take (recStages r)).any fun e => e.2 == 0) then .why 5
      else checkTables s r depth cx im

/-! Pool entries (R226). -/

def entryFree (s : State) (n : Nat) : Bool :=
  match tfind s.dev.pool n with
  | some l => !(l.st == .pending || l.st == .running)
  | none => true

/-- Entry for a launch of context cx at a depth: shared if one is free, else the context's own. -/
def poolEntry (s : State) (cx : BitVec 7) (depth : Nat) : Option Nat :=
  let start := match s.dev.lastShared with | some n => n + 1 | none => 0
  match (List.range 3584).find? fun i => entryFree s ((start + i) % 3584) with
  | some i => some ((start + i) % 3584)
  | none =>
    let own := 3584 + 4 * cx.toNat + (depth - 1)
    if depth ≠ 0 ∧ entryFree s own then some own else none

/-- Sequence number after the next advance, skipping 0. -/
def nextSn (sn : BitVec 16) : BitVec 16 := if sn + 1 = 0 then 1 else sn + 1

/-- Handle of an entry (R225). -/
def handleWord (n : Nat) (sn : BitVec 16) : Nat := n + sn.toNat * 4096

/-- Status word of R225. -/
def launchStatus (st why hdl : Nat) : W64 := BitVec.ofNat 64 (st + why * 2 ^ 8 + hdl * 2 ^ 16)

/-- Create the halyards of a launch (R209). -/
def createHals (cx : BitVec 7) (stw : Nat) (hs : List HalDef) (s : State) : State :=
  hs.foldl (fun s h =>
    let y : Isl := ⟨h.handle.toNat / 2 ^ 14 % 4, by omega⟩
    let x : Halyard := ⟨h.handle, cx, h.tile, List.replicate h.slots ⟨0, 0, none, false⟩, h.seats, 0, 0, none,
      placeHal s y stw h, !h.memory⟩
    s.modD fun d => { d with hal := tset d.hal h.handle.toNat x }) s

/-- A purge block on pennant p of context cx is in force (R384). -/
def purgeBlock (s : State) (cx : BitVec 7) (p : BitVec 16) : Bool := s.dev.purges.any fun x => x.cx == cx && x.pen == p

/-- An item or launch that a block discards adds to the purge count. -/
def countPurged (cx : BitVec 7) (p : BitVec 16) (n : Nat) (s : State) : State :=
  s.modD fun d => { d with purges := d.purges.map fun x => if x.cx = cx ∧ x.pen = p then { x with count := x.count + n } else x }

/-- Check a record and take it into the pool: the status of R225 and the machine. -/
def takeRecord (r depth : Nat) (host : Bool) (issuer : Option (BitVec 7)) (s : State) : W64 × State :=
  match checkRecord s r depth host issuer with
  | .why w => (launchStatus 2 w 0, s)
  | .ok l hs =>
    if 4 < depth then (launchStatus 3 0 0, s)
    else match poolEntry s l.ctx depth with
      | none => (launchStatus 1 0 0, s)
      | some n =>
        if !host && purgeBlock s l.ctx l.pen then (0, countPurged l.ctx l.pen 1 s)
        else
          let sn := nextSn (match tfind s.dev.pool n with | some o => o.sn | none => 0)
          let s1 := createHals l.ctx l.stw hs (s.modD fun d =>
            { d with
              pool := tset d.pool n { l with sn := sn }
              lastShared := if n < 3584 then some n else d.lastShared
              order := d.order.filter (· != n) ++ [n]
              msu := d.msu + l.msvLen })
          (launchStatus 0 0 (handleWord n sn), s1)

end Sys2Proof.Machine
end

