-- ==== Sys2Proof/Machine/Save.lean ====
section
/-! DEFINITION. The core save slot: writing it and reading it back (R362, R363). The places of the fields inside a block that
R362 lists without offsets are the model's (log entry 10). -/

namespace Sys2Proof.Machine

/-! Blocks of bytes. -/

/-- Fields of a block: value and bytes, one after the other. -/
abbrev Fields := List (Nat × Nat)

/-- Their cells from a key on. -/
def fieldCells (k : Nat) : Fields → List Host.Cell
  | [] => []
  | (v, n) :: r => cellsOf k v n ++ fieldCells (k + n) r

/-- Sixty-four-bit fields. -/
def f64 (l : List Nat) : Fields := l.map fun v => (v, 8)

def bnat (b : Bool) : Nat := b.toNat

def LoopMode.code (m : LoopMode) : Nat := match m with | .idle => 0 | .modulo => 1 | .stepRun => 2 | .stepWait => 3
def LoopMode.ofCode (n : Nat) : LoopMode := match n % 4 with | 0 => .idle | 1 => .modulo | 2 => .stepRun | _ => .stepWait

/-- The state block (R362): registers in its order, 8 bytes each. -/
def stateBlock (k : CoreSt) (hdl : Nat) : Fields :=
  let r := k.r
  f64 (r.s.toList.map (·.toNat) ++ r.p.toList.map (·.toNat) ++
    [r.fst.toNat, (rotOf r), r.lct.toNat, r.lsc.toNat, r.mode.code, r.bodyStart.toNat, r.bodyLen, r.pos, bnat r.adv,
      r.wid.toNat, r.pen.toNat, bnat r.held.isSome, (r.held.map (·.wid.toNat)).getD 0, (r.held.map (·.pen.toNat)).getD 0,
      r.req.ctl, r.req.vec, r.req.mtx, r.req.cpy, r.phase.toNat, k.granted.toNat] ++ r.ringRt.toList ++
    [k.stg.toNat, hdl, r.pc.toNat])
where
  /-- rot (R23). -/
  rotOf (r : Regs) : Nat := r.rotV.toNat + r.rotP.toNat * 2 ^ 8

/-- A ring's 1,088 bytes: S, generation, T, W, Rc, the zero-fill bits, the arrived counts (R362). -/
def ringBlock (g : Ring) : Fields :=
  [(if g.created then g.slots else 0, 4), (if g.created then g.w / (g.target * g.slots) % 2 ^ 32 else 0, 4), (g.target, 8), (g.w, 8),
    (g.rc, 8), ((g.zf.foldl (fun n i => n ||| 2 ^ i) 0), 32)] ++ (List.range 256).map fun i => (tget 0 g.arrived i, 4)

/-- Checksum state of an accumulator: h, g, steps, flags. -/
def checkBlock (x : Check) : Fields :=
  ((List.range 128).map fun j => ((tget 0 x.h j).toNat, 4)) ++ ((List.range 128).map fun j => ((tget 0 x.g j).toNat, 4)) ++
    [(x.steps, 8), (bnat x.valid + 2 * bnat x.allI8 + 4 * bnat x.special, 8)]

/-- A carried record: q, outcome and shape, destination. -/
def carryBlock (x : Carry) : Fields :=
  ((List.range 128).map fun j => ((tget 0 x.q j).toNat, 4)) ++
    [(x.out.toNat, 1), (x.nrw.toNat, 1), (x.ncl.toNat, 1), (x.ot.toNat, 1), (x.spc.toNat, 4), (x.adr.toNat, 8)]

/-- The block at 0x00_9000: m0 to m7, scale blocks, epilogue configuration, checksums, records, counters. -/
def matrixBlock (k : CoreSt) : Fields :=
  f64 (k.r.m.toList.map (·.toNat)) ++ k.r.scale.toList.map (fun b => (b.toNat, 1)) ++ [(k.epi.toNat, 8)] ++
    k.check.toList.flatMap checkBlock ++ k.carry.toList.flatMap carryBlock ++ f64 (k.cks.toList.map (·.toNat))

/-- Cells of the range [lo, lo + n) moved to a key. -/
def movedCells (m : List Host.Cell) (lo n to_ : Nat) : List Host.Cell :=
  (m.filter fun c => decide (lo ≤ c.1) && decide (c.1 < lo + n)).map fun c => (c.1 - lo + to_, c.2)

/-- Offset, bytes and key of the storage areas of a slot. -/
def slotAreas (c : CoreId) : List (Nat × Nat × Nat) :=
  [(0x40000, 0x40000, latKey c 0 0 0), (0x80000, 0x40000, accKey c 0 0 0), (0x200000, 0x200000, padKey c 0),
    (0x400000, 0x400000, colKey c 0 0)]

/-- Cells of the whole slot at physical base b. -/
def slotCells (s : State) (c : CoreId) (hdl b : Nat) : List Host.Cell :=
  let k := s.core.get c
  fieldCells b (stateBlock k hdl) ++
    fieldCells (b + 0x1000) ((k.r.va.toList ++ k.r.vb.toList).map fun v => (v.toNat, 256)) ++
    (List.range 15).flatMap (fun i => fieldCells (b + 0x5000 + 1088 * i) (ringBlock (k.ring.toList.getD (i + 1) Ring.init))) ++
    fieldCells (b + 0x9000) (matrixBlock k) ++
    fieldCells (b + 0xC000) ((List.range 1024).map fun i => ((tget 0 k.ustore i).toNat, 4)) ++
    fieldCells (b + 0xD000) ((List.range 256).map fun i =>
      (match tfind k.uentry i with | some a => a + 1024 | none => 0, 4)) ++
    fieldCells (b + 0xD400) (k.r.n.toList.map fun v => (v.toNat, 64)) ++
    (k.r.rr.flatMap fun e => cellsOf (b + 0xE000 + 16 * e.1) e.2.toNat 8) ++
    (k.r.fl.flatMap fun e => cellsOf (b + 0xE008 + 16 * e.1) e.2.toNat 8) ++
    (slotAreas c).flatMap fun a => movedCells s.mem a.2.2 a.2.1 (b + a.1)

/-- Memory of a physical range as every agent sees it now: the newest copy of each line is written back. -/
def flushRange (lo hi : Nat) (s : State) : State :=
  let lines := (islIds.flatMap fun y => ((s.isl.get y).copies.map (·.1)) ++ (s.isl.get y).wbuf.map (·.1)).filter fun l =>
    decide (lo / 128 ≤ l) && decide (l * 128 < hi)
  lines.foldl (fun s l => { s with mem := memWrs s.mem (lineCells l (cohLine s l)) }) s

/-- Every tracked copy of a line of the range takes what memory holds. -/
def syncCopies (lo hi : Nat) (s : State) : State :=
  islIds.foldl (fun s y => s.modI y fun i =>
    let fix (l : Nat) : Bool := decide (lo / 128 ≤ l) && decide (l * 128 < hi)
    { i with
      copies := i.copies.map fun e => if fix e.1 then (e.1, { e.2 with data := memLine s e.1 }) else e
      wbuf := i.wbuf.map fun e => if fix e.1 then (e.1, memLine s e.1) else e }) s

/-- Virtual address of save slot i of a context (R361). -/
def slotVa (k : Ctx) (i : Nat) : Nat := natBits k.svb.toNat 53 12 * 4096 + i * 0x800000

/-- A save slot of the context that no saved state uses and that no core has taken (R363). -/
def freeSlot (s : State) (cx : BitVec 7) : Option Nat :=
  let k := s.ctxOf cx
  (List.range (natBits k.svn.toNat 7 0)).find? fun i =>
    !k.slots.any (fun e => e.slot == i) && !coreIds.any fun c => (s.core.get c).ctx == cx && (s.core.get c).saveTo == some i

/-- Physical base of save slot i of a context: the save area lies in the heap window (R361). -/
def slotBase (k : Ctx) (i : Nat) : Nat := (slotVa k i + natBits k.hwo.toNat 51 0) % 2 ^ 52

/-- Lines of [lo, lo + n) pass to a key: those that lie in it whole take its tag, the others are refetched (R345). -/
def claimRange (k : Option SlotKey) (lo n : Nat) (s : State) : State :=
  match k with
  | none => s
  | some x =>
    let a := (lo + 127) / 128
    let b := (lo + n) / 128
    let s1 := ([lo / 128, (lo + n - 1) / 128].filter fun l => decide (l < a) || decide (b ≤ l)).foldl (fun s l => claimLine k l s) s
    s1.modD fun d => { d with lineKey := (d.lineKey.filter fun e => decide (e.1 < a)) ++
      ((List.range' a (b - a)).filter fun l => decide (l < 0x60000000) || Config.deviceMemory l).map (fun l => (l, x)) ++
      (d.lineKey.filter fun e => decide (b ≤ e.1)) }

/-- Poison marks of the n bytes at a key, moved with them over those of the bytes at another; both lie at whole pieces (R381). -/
def movedMarks (ps : Tbl Nat) (lo n to_ : Nat) (t : Tbl Nat) : Tbl Nat :=
  (ps.filter fun e => decide (lo / 64 ≤ e.1) && decide (e.1 * 64 < lo + n)).foldl (fun t e => tset t (to_ / 64 + (e.1 - lo / 64)) e.2)
    (t.filter fun e => decide (e.1 < to_ / 64) || decide (to_ + n ≤ e.1 * 64))

/-- Write core c's state into slot i of its context, with the poison marks of its storage. -/
def saveSlot (c : CoreId) (i hdl : Nat) (s : State) : State :=
  let cx := (s.core.get c).ctx
  let pa := slotBase (s.ctxOf cx) i
  let s1 := claimRange (s.ctxKey cx) pa 0x800000 (flushRange pa (pa + 0x800000) s)
  let cells := slotCells s1 c hdl pa
  let s2 := syncCopies pa (pa + 0x800000) { s1 with mem := memWrs (memZero s1.mem pa (pa + 0x800000)) cells }
  s2.modD fun d =>
    let clean := movedMarks [] 0 0x800000 pa d.poison
    { d with poison := (slotAreas c).foldl (fun t a => movedMarks d.poison a.2.2 a.2.1 (pa + a.1) t) clean }

/-! Reading it back. -/

/-- Registers that a slot at physical base b holds. -/
def loadRegs (m : List Host.Cell) (b : Nat) : Regs :=
  let w (i : Nat) : Nat := memRdN m (b + 8 * i) 8
  let w64 (i : Nat) : W64 := BitVec.ofNat 64 (w i)
  { Regs.init with
    s := Vector.ofFn fun i => w64 i.val
    p := Vector.ofFn fun i => w64 (64 + i.val)
    fst := BitVec.ofNat 8 (w 80)
    rotV := BitVec.ofNat 4 (w 81)
    rotP := BitVec.ofNat 3 (w 81 / 256)
    lct := w64 82
    lsc := w64 83
    mode := LoopMode.ofCode (w 84)
    bodyStart := w64 85
    bodyLen := w 86
    pos := w 87
    adv := w 88 == 1
    wid := w64 89
    pen := BitVec.ofNat 16 (w 90)
    held := if w 91 = 1 then some ⟨w64 92, BitVec.ofNat 16 (w 93), []⟩ else none
    req := ⟨w 94, w 95, w 96, w 97⟩
    phase := BitVec.ofNat 8 (w 98)
    ringRt := Vector.ofFn fun i => w (100 + i.val)
    pc := w64 118
    va := Vector.ofFn fun i => BitVec.ofNat 2048 (memRdN m (b + 0x1000 + 256 * i.val) 256)
    vb := Vector.ofFn fun i => BitVec.ofNat 2048 (memRdN m (b + 0x3000 + 256 * i.val) 256)
    m := Vector.ofFn fun i => BitVec.ofNat 64 (memRdN m (b + 0x9000 + 8 * i.val) 8)
    scale := Vector.ofFn fun i => memRd m (b + 0x9040 + i.val)
    n := Vector.ofFn fun i => BitVec.ofNat 512 (memRdN m (b + 0xD400 + 64 * i.val) 64)
    entryOk := (List.range 256).foldl (fun e i =>
      if memRdN m (b + 0xD000 + 4 * i) 4 / 1024 % 2 = 1 then e ||| (1#256 <<< i) else e) 0
    rr := (List.range 4096).filterMap fun i => let v : Round := BitVec.ofNat 48 (memRdN m (b + 0xE000 + 16 * i) 8); if v = 0 then none else some (i, v)
    fl := (List.range 4096).filterMap fun i => let v : Round := BitVec.ofNat 48 (memRdN m (b + 0xE008 + 16 * i) 8); if v = 0 then none else some (i, v) }

def loadRing (m : List Host.Cell) (b : Nat) : Ring :=
  let sl := memRdN m b 4
  let zf := memRdN m (b + 32) 32
  { Ring.init with
    created := sl != 0
    slots := sl
    target := memRdN m (b + 8) 8
    w := memRdN m (b + 16) 8
    rc := memRdN m (b + 24) 8
    arrived := (List.range 256).filterMap fun i => let v := memRdN m (b + 64 + 4 * i) 4; if v = 0 then none else some (i, v)
    zf := (List.range 256).filter fun i => zf.testBit i }

/-- A table of 128 FP32 patterns. -/
def loadTbl (m : List Host.Cell) (b : Nat) : Tbl (BitVec 32) :=
  (List.range 128).map fun j => (j, BitVec.ofNat 32 (memRdN m (b + 4 * j) 4))

def loadCheck (m : List Host.Cell) (b : Nat) : Check :=
  let f := memRdN m (b + 1032) 8
  ⟨loadTbl m b, loadTbl m (b + 512), memRdN m (b + 1024) 8, f % 2 == 1, f / 2 % 2 == 1, f / 4 % 2 == 1⟩

def loadCarry (m : List Host.Cell) (b : Nat) : Carry :=
  let w (o n : Nat) : Nat := memRdN m (b + 512 + o) n
  ⟨loadTbl m b, BitVec.ofNat 5 (w 0 1), BitVec.ofNat 7 (w 1 1), BitVec.ofNat 7 (w 2 1), BitVec.ofNat 4 (w 3 1),
    BitVec.ofNat 3 (w 4 4), BitVec.ofNat 27 (w 8 8)⟩

/-- Memory with the lines of a range as they read under a key (R345). -/
def seenRange (s : State) (k : Option SlotKey) (lo hi : Nat) : List Host.Cell :=
  (s.dev.lineKey.filter fun e => decide (lo / 128 ≤ e.1) && decide (e.1 * 128 < hi)).foldl (fun m e =>
    let d := memLine s e.1
    if seenLine s k e.1 d = d then m else memWrs m (lineCells e.1 (seenLine s k e.1 d))) s.mem

/-- Core c takes the state that slot i of its context holds, with the poison marks of its storage. -/
def restoreSlot (c : CoreId) (i : Nat) (s : State) : State :=
  let cx := (s.core.get c).ctx
  let b := slotBase (s.ctxOf cx) i
  let s1 := flushRange b (b + 0x800000) s
  let m := seenRange s1 (s1.ctxKey cx) b (b + 0x800000)
  let s2 := (slotAreas c).foldl (fun s a =>
    { s with
      mem := memWrs (memZero s.mem a.2.2 (a.2.2 + a.2.1)) (movedCells m (b + a.1) a.2.1 a.2.2)
      dev := { s.dev with poison := movedMarks s.dev.poison (b + a.1) a.2.1 a.2.2 s.dev.poison } }) s1
  s2.modC c fun k =>
    { k with
      r := loadRegs m b
      granted := BitVec.ofNat 2 (memRdN m (b + 8 * 99) 8)
      ring := Vector.ofFn fun i => if i.val = 0 then Ring.init else loadRing m (b + 0x5000 + 1088 * (i.val - 1))
      epi := BitVec.ofNat 64 (memRdN m (b + 0x9050) 8)
      check := Vector.ofFn fun i => loadCheck m (b + 0x9058 + 1040 * i.val)
      carry := Vector.ofFn fun i => loadCarry m (b + 0x9058 + 4160 + 528 * i.val)
      cks := Vector.ofFn fun i => BitVec.ofNat 64 (memRdN m (b + 0x9058 + 4160 + 2112 + 8 * i.val) 8)
      ustore := (List.range 1024).filterMap fun i =>
        let v := memRdN m (b + 0xC000 + 4 * i) 4; if v = 0 then none else some (i, BitVec.ofNat 32 v)
      uentry := (List.range 256).filterMap fun i =>
        let v := memRdN m (b + 0xD000 + 4 * i) 4; if v / 1024 % 2 = 1 then some (i, v % 1024) else none }

end Sys2Proof.Machine
end

