-- ==== Sys2Proof/Machine/Sched.lean ====
section
/-! DEFINITION. Scheduling: queues and their budgets, the dispatcher's choices, starting and ending launches, binding and
unbinding cores, and purges (R222, R223, R320 to R330, R343, R363, R376, R383, R384). -/

namespace Sys2Proof.Machine

/-! Occupancy. -/

def StageSt.occ (x : StageSt) : Nat := x.q.length + x.out

/-- Core c is bound to stage t of launch n. -/
def boundHere (s : State) (n t : Nat) (c : CoreId) : Bool :=
  let k := s.core.get c
  k.run != .unbound && k.launch == some n && k.stg.toNat == t

def boundCount (s : State) (n t : Nat) : Nat := (coreIds.filter (boundHere s n t)).length

/-- Cores bound to the launches of queue q. -/
def queueCores (s : State) (q : BitVec 8) : List CoreId :=
  coreIds.filter fun c =>
    let k := s.core.get c
    k.run != .unbound && (s.launch? k.launch).any fun l => l.que == q

/-- The queue of stage t is closed and empty (R325). -/
def stageOver (s : State) (n : Nat) (l : Launch) (t : Nat) : Bool :=
  s.closed n l t && l.stages[t]?.all fun x => x.occ == 0

/-- A unit of core c is being tested (R388). -/
def underTest (s : State) (c : CoreId) : Bool :=
  (s.isl.get (islOf c)).tests.any fun e =>
    decide (1 ≤ e.1.toNat / 256) && decide (e.1.toNat / 256 ≤ 8) && e.1.toNat % 256 == c.val % 32

/-- A copy that has to stop at its next 64-byte piece has not reached it (R383, R384). -/
def CoreSt.stopping (k : CoreSt) : Bool := k.cu0.run.isSome || k.cu1.run.isSome

/-- A compute core that can be bound now: nothing of the launch that it has left runs on (log entry 107). -/
def freeCore (s : State) (c : CoreId) : Bool :=
  !isMgmt c && (s.core.get c).run == .unbound && !(s.core.get c).stopping && (s.core.get c).sto.isEmpty && !fenced s c && !underTest s c && s.dev.hold == .run

/-- The stage instance of launch n and stage t that a save slot holds. -/
def savedAt (s : State) (n : Nat) (l : Launch) (t : Nat) : Option Nat :=
  ((s.ctxOf l.ctx).slots.find? fun e => e.stg == t && e.launch == n).map (·.slot)

/-! The dispatcher's choices (R328, R330). -/

/-- Stage of launch n that core c would go to: one that lacks MINC cores, then one that has a saved instance, whatever its OCC (DESIGN
CHOICE, log entry 116), then the one of largest OCC less its cores. -/
def stageFor (s : State) (n : Nat) (l : Launch) (c : CoreId) : Option Nat :=
  let ts := (List.range l.stages.length).filter fun t =>
    l.stages[t]?.any fun x => decide (x.first ≤ c.val) && decide (c.val ≤ x.last)
  let room (t : Nat) : Bool := l.stages[t]?.any fun x =>
    decide (boundCount s n t < if x.maxc = 0 then x.last - x.first + 1 else x.maxc)
  let short (t : Nat) : Bool := (l.stages[t]?.any fun x => decide (boundCount s n t < x.minc)) && !stageOver s n l t
  let full (t : Nat) : Bool := match l.stages[t + 1]? with | some y => decide (y.cap ≤ y.occ) | none => false
  let saved (t : Nat) : Bool := (savedAt s n l t).isSome && room t && !full t
  let want (t : Nat) : Nat := if room t && !full t then ((l.stages[t]?.map StageSt.occ).getD 0) - boundCount s n t else 0
  match ts.find? short with
  | some t => some t
  | none => match ts.find? saved with
    | some t => some t
    | none =>
      let best := ts.foldl (fun (b : Option Nat) t =>
        match b with
        | none => if 0 < want t then some t else none
        | some u => if want u < want t then some t else some u) none
      best

/-- Core c lies in the range of stage t. -/
def Launch.inRange (l : Launch) (t : Nat) (c : CoreId) : Bool :=
  l.stages[t]?.any fun (x : StageSt) => decide (x.first ≤ c.val) && decide (c.val ≤ x.last)

/-- Cores for every stage's MINC, from those that a test admits, by the stage whose range ends first, and what each stage still lacks
(R328). -/
def startPlan (l : Launch) (ok : CoreId → Bool) : List (CoreId × Nat) × List (Nat × Nat) :=
  let need := (List.range l.stages.length).map fun t => (t, ((l.stages[t]?.map (·.minc)).getD 0))
  let step (a : List (CoreId × Nat) × List (Nat × Nat)) (c : CoreId) : List (CoreId × Nat) × List (Nat × Nat) :=
    if !ok c then a
    else
      let fit := a.2.filter fun e => e.2 != 0 && l.inRange e.1 c
      let last (t : Nat) : Nat := (l.stages[t]?.map (·.last)).getD 0
      match fit with
      | [] => a
      | e :: r =>
        let t := (r.foldl (fun b x => if last x.1 < last b.1 then x else b) e).1
        (a.1 ++ [(c, t)], a.2.map fun x => if x.1 = t then (t, x.2 - 1) else x)
  coreIds.foldl step ([], need)

/-- Deadline order: queues with a running period and budget left by the end of their period, others last (R328). -/
def queueKey (s : State) (q : BitVec 8) : Nat × Nat × Nat :=
  let x := s.dev.sq[q.toNat]'q.isLt
  match x.start with
  | some t => if x.per ≠ 0 ∧ x.used < x.bud * Config.usTicks then (0, t + x.per * Config.usTicks, q.toNat) else (1, 0, q.toNat)
  | none => (1, 0, q.toNat)

def keyLt (a b : Nat × Nat × Nat) : Bool :=
  decide (a.1 < b.1) || (a.1 == b.1 && (decide (a.2.1 < b.2.1) || (a.2.1 == b.2.1 && decide (a.2.2 < b.2.2))))

/-- The launch of pool entry n waits for its cores only (R327, R328, R364). -/
def awaitsCores (s : State) (n : Nat) (l : Launch) : Bool :=
  l.st == .pending && !(s.dev.sq[l.que.toNat]'l.que.isLt).hold && s.dev.hold == .run &&
    (l.msvLen == 0 || s.dev.resOk) &&
    (s.dev.order.takeWhile (· != n)).all (fun m =>
      match tfind s.dev.pool m with
      | some x => !(x.st == .pending && x.que == l.que)
      | none => true)

/-- Pool entries in the order of the pool, with their launches. -/
def poolOrder (s : State) : List (Nat × Launch) :=
  s.dev.order.filterMap fun n => (tfind s.dev.pool n).map fun l => (n, l)

/-- Insert a launch by the deadline of its queue. -/
def insDeadline (s : State) : List (Nat × Launch) → Nat × Launch → List (Nat × Launch)
  | [], e => [e]
  | x :: r, e => if keyLt (queueKey s e.2.que) (queueKey s x.2.que) then e :: x :: r else x :: insDeadline s r e

/-- Launches of eligible queues that wait for their cores, by deadline (R328). -/
def waitingLaunches (s : State) : List (Nat × Launch) :=
  ((poolOrder s).filter fun e => (queueKey s e.2.que).1 == 0 && awaitsCores s e.1 e.2).foldl (insDeadline s) []

/-- Free cores that a launch of an eligible queue wants, which cannot start before it has more: they go to no queue with a later
deadline, whose launches plan with what is left (R328). -/
def reserved (s : State) : List ((Nat × Nat × Nat) × CoreId) :=
  (waitingLaunches s).foldl (fun taken e =>
    let p := startPlan e.2 fun c => freeCore s c && !taken.any fun x => x.2 == c
    if p.2.all (·.2 == 0) then taken else taken ++ p.1.map fun x => (queueKey s e.2.que, x.1)) []

/-- A free core that queue q may take. -/
def openCore (s : State) (q : BitVec 8) (c : CoreId) : Bool :=
  freeCore s c && !(reserved s).any fun e => e.2 == c && keyLt e.1 (queueKey s q)

/-- Cores for every stage's MINC at once (R328). -/
def startCores (s : State) (l : Launch) : Option (List (CoreId × Nat)) :=
  let p := startPlan l (openCore s l.que)
  if p.2.all (·.2 == 0) then some p.1 else none

/-- A launch of the pool entry n may start now (R327, R328, R364). -/
def mayStart (s : State) (n : Nat) (l : Launch) : Bool := awaitsCores s n l && (startCores s l).isSome

/-- First of the best by deadline order. -/
def bestBy (s : State) (l : List (Nat × Launch × Instr × Arg)) : Option (Instr × Arg) :=
  match l with
  | [] => none
  | e :: r =>
    some ((r.foldl (fun (b : Nat × Launch × Instr × Arg) x =>
      if keyLt (queueKey s x.2.1.que) (queueKey s b.2.1.que) then x else b) e).2.2)

/-- What the dispatcher does next: a launch that may start, or a free core that a running launch can take. -/
def choice (s : State) : Option (Instr × Arg) :=
  let starts := (poolOrder s).filterMap fun e =>
    if mayStart s e.1 e.2 then some (e.1, e.2, Instr.launchStart, { Arg.zero with n := e.1 }) else none
  let running := (poolOrder s).filter fun e => e.2.st == .running
  let binds := (coreIds.filter (freeCore s)).flatMap fun c => (running.filter fun e => openCore s e.2.que c).filterMap fun e =>
    (stageFor s e.1 e.2 c).map fun t => (e.1, e.2, Instr.bind, { argC c with n := e.1, k := t })
  bestBy s (starts ++ binds)

/-! Budget accounts (R328, R329). -/

/-- Bring USED of queue q up to date, and plan its overrun. -/
def accrue (q : BitVec 8) (s : State) : State :=
  let x := s.dev.sq[q.toNat]'q.isLt
  let n := ((queueCores s q).filter fun c => !(s.core.get c).bg).length
  let used := if x.start.isSome then x.used + n * (s.tick - x.seen) else x.used
  s.modD fun d => { d with sq := d.sq.set q.toNat { x with used := used, seen := s.tick } q.isLt }

/-- After the number of counted cores has changed: the tick at which USED would reach BUD. -/
def planOverrun (q : BitVec 8) (s : State) : State :=
  let x := s.dev.sq[q.toNat]'q.isLt
  let n := ((queueCores s q).filter fun c => !(s.core.get c).bg).length
  if x.start.isNone ∨ n = 0 ∨ x.raised then s
  else s.at (s.tick + ceilDiv (x.bud * Config.usTicks - x.used) n) (.ev .budgetOverrun { Arg.zero with k := q.toNat })

/-! The operating-point recall (R376). -/

/-- Lowest entry of the table that is valid and has the key. -/
def recallEntry (s : State) (kid : BitVec 32) (ph : Byte) : Option (Nat × W64) :=
  (s.dev.opt.find? fun e => e.2.1.getLsbD 0 && e.2.1.extractLsb' 32 32 == kid && e.2.1.extractLsb' 24 8 == ph).map fun e => (e.1, e.2.2)

/-- The point of the entry as an OPM word. -/
def entryPoint (w : W64) : W64 := (w &&& 0x1FFFFFFF00) ||| (w.extractLsb' 37 3).setWidth 64

/-- End of a phase that ran at an entry's own point: its score is kept if it is lower. -/
def scorePhase (l : Launch) (s0 : State) : State :=
  let s := chargeCtx l.ctx s0
  match l.opt with
  | none => s
  | some (e, t0, en0) =>
    match tfind s.dev.opt e with
    | none => s
    | some (w0, w1) =>
      let sc := min 0xFFFFFF (((s.ctxOf l.ctx).energy - en0).toNat * (s.tick - t0) / (Config.usTicks * 2 ^ 20))
      if sc < (w1.extractLsb' 40 24).toNat then
        s.modD fun d => { d with opt := tset d.opt e (w0, (w1 &&& 0xFFFFFFFFFF) ||| BitVec.ofNat 64 (sc * 2 ^ 40)) }
      else s

/-- Start of phase ph of launch n: look-up, and on a hit a request to all four islands, which table recall makes with those of
its cycle in the order of R372. -/
def startPhase (n : Nat) (ph : Byte) (s0 : State) : State :=
  let s1 := match tfind s0.dev.pool n with | some l => chargeCtx l.ctx s0 | none => s0
  let s := s1.modL n fun l => { l with opt := none, phase := ph }
  match tfind s.dev.pool n with
  | none => s
  | some l =>
    if (s.isl.get 0).opmd ≠ 2 then s
    else match recallEntry s l.kid ph with
      | none => s
      | some (e, w) =>
        let s1 := s.modL n fun l => { l with opt := some (e, s.tick, (s.ctxOf l.ctx).energy) }
        islIds.foldl (fun s y => s.after 0 (.ev .opmWrite { argY y with k := 1, v := entryPoint w })) s1

/-! Pushes (R221). -/

/-- What the accesses of a puller follow (R219, R221, R249): those of the pushing core before its push, and what that core itself still
followed for an item that it had pulled, a pull being before its later push (log entry 106). -/
def pushSrc (s : State) (c : CoreId) (seq : Nat) : List (CoreId × Nat) :=
  (c, seq) :: ((s.core.get c).after.filter fun e => decide (e.1 < seq) && s.pushOpen e).map (·.2)

/-- A push of core c runs: the item is appended, or discarded by a purge block (R384), or the queue has no entry for it. Its status
lands in the same cycle. -/
def landPush (c : CoreId) (dl : Delivery) (s : State) : State :=
  match dl.eff with
  | .push st d w p =>
    let k := s.core.get c
    let s0 := s.modC c fun k => { k with pend := k.pend.filter (· != dl) }
    let ans (v : W64) (s : State) : State := s.modC c fun k => { k with pend := insDel k.pend { dl with eff := .s d v } }
    if purgeBlock s k.ctx p then ans 0 (countPurged k.ctx p 1 s0)
    else match k.launch, (s.launch? k.launch).bind (·.stage? st.toNat) with
      | some n, some x =>
        if x.occ < x.cap then ans 0 (s0.modL n fun l => l.modStage st.toNat fun x => { x with q := x.q ++ [⟨w, p, pushSrc s c dl.seq⟩] })
        else ans 1 s0
      | _, _ => ans 1 s0
  | _ => s

/-- The pushes of core c that a test names, in their order. -/
def landPushes (c : CoreId) (p : Delivery → Bool) (s : State) : State :=
  ((s.core.get c).pend.filter fun d => d.eff.isPush && p d).foldl (fun s d => landPush c d s) s

/-! Releasing what a core runs (R360, R363, R383). -/

/-- Steps of the agenda that belong to the engines of core c. -/
def engineDue (c : CoreId) (d : Due) : Bool :=
  match d with
  | .micro x | .perform x _ | .piece x _ => x == c
  | .ev i a => a.c == c && (i == .routineComplete || i == .azeroComplete || i == .lloadComplete || i == .drainComplete ||
      i == .epicfgComplete || i == .cksnapComplete || i == .scaleWriteLand || i == .copyBegin || i == .copyResume ||
      i == .slackExpire || i == .copyPageCrossing || i == .copyComplete || i == .bclatComplete || i == .loadDelivery)
  | _ => false

/-- A hoist or sight of core c is abandoned: its slot, pin and seat are free again (R384). -/
def abandonHop (s : State) (o : HalOp) : State :=
  let drop (x : Halyard) : Halyard :=
    match o.slot with
    | none => x
    | some i =>
      let f (e : HSlot) : HSlot :=
        if o.hoist then { e with writer := if e.writer = some o.id then none else e.writer } else { e with pins := e.pins - 1 }
      let x1 := match x.slots[i]? with | some e => { x with slots := x.slots.set i (f e) } | none => x
      if o.hoist then x1 else { x1 with inUse := x1.inUse - 1 }
  let s1 := match tfind s.dev.hal o.hal with
    | some x => s.modD fun d => { d with hal := tset d.hal o.hal (drop x) }
    | none => s
  { s1 with agenda := s1.agenda.filter fun e => match e.due with
    | .tile i => i != o.id
    | .ev i a => !((i == .hoistSlotTake || i == .hoistLand || i == .sightPoint || i == .sightRelease || i == .halyardTokenComplete) && a.id == o.id)
    | _ => true }

/-- What is left of a copy unit when its core's operations stop: a copy that has begun a 64-byte piece of its destination goes on
to the end of that piece (R368, R383). -/
def CopyUnit.halt (x : CopyUnit) : CopyUnit :=
  { x with
    buf := [], side := []
    run := (x.run.filter fun r =>
      let w := r.cmd.walk
      r.pause.isNone && r.x != 0 && (w.dstAt r.x) / 64 == (w.dstAt (r.x - 1)) / 64).map fun r => { r with stop := true } }

/-- A step of a copy that goes on to the end of its piece. -/
def CoreSt.keepsDue (k : CoreSt) : Due → Bool
  | .piece _ u => (if u then k.cu1 else k.cu0).halt.run.isSome
  | _ => false

/-- The engine operations of core c stop; their tokens stay pending (R360, R383). Atomics, publishes, arrivals and launches that have not
performed are dropped, and released stores run on: DESIGN CHOICE (log entry 107). -/
def abandonCore (c : CoreId) (s0 : State) : State :=
  let s := landPushes c (fun _ => true) s0
  let mine := s.dev.hops.filter (·.core == c)
  let s1 := mine.foldl abandonHop s
  let s2 := s1.modD fun d => { d with hops := d.hops.filter (·.core != c) }
  let k0 := s2.core.get c
  ({ s2 with agenda := s2.agenda.filter fun e => !engineDue c e.due || k0.keepsDue e.due }).modC c fun k =>
    { k with
      tok := k.tok.map fun (t : Tok) => { t with purged := t.purged || t.pending }
      pend := [], loads := [], wst := [], wmx := [], pops := [], fences := [], early := [], after := []
      lq := [], aq := [], dq := [], lrun := none, drun := none, tail := [], scw := [], mxTrap := none, xlTrap := none
      astop := false
      arun := .idle
      cu0 := k.cu0.halt, cu1 := k.cu1.halt, bus := [], ports := [], cpc := 0, til := 0 }

/-- The staging figure of an island has changed. Bytes above it are lost, what is left there is free, and shelf lines in ways that
it takes are written back (R343; log entry 1). -/
def loseStaging (y : Isl) (s : State) : State :=
  let top := stagingWays s y * 0x40000
  let lost (k : Nat) : Bool := decide (stgKey 0 0 0 ≤ k) && decide (k < stgKey 127 3 0x8000000) &&
    decide ((k - stgKey 0 0 0) / 0x8000000 % 4 = y.val) && decide (top ≤ (k - stgKey 0 0 0) % 0x400000)
  let gone := s.mem.filter fun c => lost c.1
  trimShelf y { s with free := s.free + 1, mem := memWrs s.mem (gone.map fun c => (c.1, Config.freeByte s.free c.1)) }

/-- A launch ends: halyards, must-save room and its score (R209, R364, R376). -/
def endLaunch (n : Nat) (st : LSt) (s : State) : State :=
  match tfind s.dev.pool n with
  | none => s
  | some l =>
    let s1 := (scorePhase l s).modD fun d =>
      { d with
        hal := d.hal.filter fun e => !l.halys.contains e.1
        msu := d.msu - l.msvLen
        cx := d.cx.set l.ctx.toNat { d.cx[l.ctx.toNat]'l.ctx.isLt with
          slots := (d.cx[l.ctx.toNat]'l.ctx.isLt).slots.filter fun e => e.launch != n } l.ctx.isLt
        pool := tset d.pool n { l with st := st, opt := none, stages := l.stages.map fun x => { x with q := [], out := 0 } } }
    islIds.foldl (fun s y => loseStaging y s) s1

/-- The launch is complete when every queue is closed and empty and no core is bound, nor a stage saved with its item (R223, R363). -/
def settleLaunch (n : Nat) (s : State) : State :=
  match tfind s.dev.pool n with
  | none => s
  | some l =>
    if l.st = .running ∧ (List.range l.stages.length).all (fun t => stageOver s n l t && !s.holds n t) ∧
        !(coreIds.any fun c => (s.core.get c).run != .unbound && (s.core.get c).launch == some n) then endLaunch n .complete s
    else s

/-- Another queue that is eligible wants one of the cores (R328, R329). -/
def otherWants (s : State) (q : BitVec 8) (cores : List CoreId) : Bool :=
  (poolOrder s).any fun e =>
    let l := e.2
    l.que != q && (queueKey s l.que).1 == 0 &&
      ((l.st == .pending && !(s.dev.sq[l.que.toNat]'l.que.isLt).hold && (l.msvLen == 0 || s.dev.resOk) &&
          cores.any fun c => l.stages.any fun x => decide (x.first ≤ c.val) && decide (c.val ≤ x.last)) ||
        (l.st == .running && cores.any fun c => (stageFor s e.1 l c).isSome))

/-- Pre-emption of a bound compute core is requested, if its context has a free save slot (R363). -/
def requestPreempt (c : CoreId) (s : State) : State :=
  let k := s.core.get c
  if isMgmt c ∨ k.run = .unbound ∨ k.run = .saving ∨ (freeSlot s k.ctx).isNone then s
  else s.modC c fun k => { k with preempt := true }

/-- Bound cores of queues that are not eligible which a launch of an eligible queue lacks: as many as a pending one needs to start, one
at a time for a running one. The spec leaves it to the dispatcher which cores it takes back (R328; log entry 108). -/
def lackedBy (s : State) (n : Nat) (l : Launch) : List CoreId :=
  let others := coreIds.filter fun c => (s.core.get c).run != .unbound && !isMgmt c &&
    (s.launch? (s.core.get c).launch).any fun m => (queueKey s m.que).1 != 0
  if (queueKey s l.que).1 != 0 then []
  else if awaitsCores s n l then
    (startPlan l (openCore s l.que)).2.flatMap fun e => (others.filter (l.inRange e.1)).take e.2
  else if l.st = .running then (others.find? fun c => (stageFor s n l c).isSome).toList
  else []

/-- Cores of queues whose budget is overrun in this period are to be pre-empted as soon as an eligible queue wants them (R329), and
cores that are bound in the background where an eligible queue lacks them (R328, R363): DESIGN CHOICE (log entry 108). -/
def preemptOverrun (s : State) : State :=
  (((poolOrder s).flatMap fun e => lackedBy s e.1 e.2).foldl (fun s c => requestPreempt c s) ·) <| ((List.range 256).filter fun i => s.dev.sq.toList.getD i SchedQ.init |>.raised).foldl (fun s i =>
    let q : BitVec 8 := BitVec.ofNat 8 i
    let cores := queueCores s q
    if otherWants s q cores then cores.foldl (fun s c => requestPreempt c s) s else s) s

/-- The dispatcher acts at once on what it can: launches that are over complete, overrun cores are pre-empted, and the next start
or bind is chosen. -/
def dispatch (s : State) : State :=
  let s1 := preemptOverrun ((s.dev.pool.map (·.1)).foldl (fun s n => settleLaunch n s) s)
  match choice s1 with
  | some (i, a) => if s1.has (.ev i a) then s1 else s1.now i a
  | none => s1

/-- Core c is unbound: it holds no item and leaves its launch. -/
def unbindCore (c : CoreId) (s : State) : State :=
  let k := s.core.get c
  let s1 := match s.launch? k.launch with | some l => accrue l.que s | none => s
  let s2 := s1.modC c fun k =>
    { k with run := .unbound, launch := none, preempt := false, saveTo := none, rec_ := none, stepArm := 0, resumeDue := false, bg := false
             r := { k.r with held := none }, ck := { k.ck with held := none } }
  let s3 := endSamples c { s2 with agenda := s2.agenda.filter fun e => e.due != .edge c }
  dispatch (match s.launch? k.launch with | some l => planOverrun l.que s3 | none => s3)

/-! Purge (R383, R384). -/

/-- The record of a stop without rollback names the next bundle to issue (R358). -/
def CoreSt.recOf (k : CoreSt) (r : Rec) : Rec := if r.kind = 1 then { r with res := k.advance.r.pc } else r

/-- Core c loses its item to a purge: it rolls back, its item and uncommitted pulls are discarded, and it is unbound. A record that
still waits for deliveries goes to its queue. -/
def purgeCore (c : CoreId) (s : State) : State :=
  let k := s.core.get c
  let pulls := (k.pops.filter (·.isPull)).length
  let s1 := match k.launch with
    | some n => s.modL n fun l => l.modStage k.stg.toNat fun x => { x with out := x.out - pulls }
    | none => s
  let s2 := s1.modC c fun k => { k with pops := [] }
  let s3 := if k.run = .running then (rollback c s2).modC c fun k => k.count 12 1 else rollback c s2
  let s4 := match k.rec_ with
    | some r => sendRec (islOf c) (k.recOf r) s3
    | none => s3
  unbindCore c (abandonCore c s4)

/-- Core c holds an item that flies P in C, now, at its checkpoint, or in an uncommitted pull. -/
def flies (s : State) (cx : BitVec 7) (p : BitVec 16) (c : CoreId) : Bool :=
  let k := s.core.get c
  k.run != .unbound && k.ctx == cx && !isMgmt c &&
    (k.r.held.any (·.pen == p) || k.ck.held.any (·.pen == p) || k.pops.any fun x => x.isPull && x.item.pen == p)

/-- A save slot of C holds a stage instance whose item flies P (R362). -/
def slotFlies (s : State) (cx : BitVec 7) (p : BitVec 16) (i : Nat) : Bool :=
  let b := slotBase (s.ctxOf cx) i
  keyRd s (s.ctxKey cx) (b + 8 * 91) 8 == 1 && keyRd s (s.ctxKey cx) (b + 8 * 93) 8 == p.toNat

/-- Saved stage instances whose item flies P are removed: no item flying P is left anywhere when the purge completes (R384). -/
def purgeSaved (cx : BitVec 7) (gone : List Saved) (s : State) : State :=
  s.modD fun d =>
    let x := d.cx[cx.toNat]'cx.isLt
    { d with cx := d.cx.set cx.toNat { x with slots := x.slots.filter fun e => !gone.contains e } cx.isLt }

/-- A purge of P in C starts: what R383 removes goes at once, and the purge completes a free time later. -/
def startPurge (cx : BitVec 7) (p : BitVec 16) (by_ : Option (CoreId × Nat)) (rc : Option Rec) (s : State) : State :=
  if purgeBlock s cx p then
    match rc with
    | some r => sendRec (islOf (coreNo r.core.toNat)) r s
    | none => s.modD fun d =>
        { d with purges := d.purges.map fun x => if x.cx = cx ∧ x.pen = p then { x with by_ := x.by_ ++ by_.toList } else x }
  else
    let queued := s.dev.pool.foldl (fun n e =>
      if e.2.st = .running ∧ e.2.ctx = cx then
        n + e.2.stages.foldl (fun m x => m + (x.q.filter fun i => i.pen == p).length) 0
      else n) 0
    let pending := (s.dev.pool.filter fun e => e.2.st == .pending && e.2.ctx == cx && e.2.pen == p).map (·.1)
    let s1 := s.modD fun d =>
      { d with
        purges := d.purges ++ [⟨cx, p, by_.toList, rc, 0⟩]
        pool := d.pool.map fun e =>
          if e.2.st = .running ∧ e.2.ctx = cx then
            (e.1, { e.2 with stages := e.2.stages.map fun x => { x with q := x.q.filter fun i => i.pen != p } })
          else e }
    let s2 := pending.foldl (fun s n => endLaunch n .purged s) s1
    let cores := coreIds.filter (flies s cx p)
    let held := cores.foldl (fun n c =>
      let k := s.core.get c
      n + ((k.ck.held.toList.filter (·.pen == p)).length + (k.pops.filter fun x => x.isPull && x.item.pen == p).length)) 0
    let saved := (s2.ctxOf cx).slots.filter fun e => e.item && slotFlies s2 cx p e.slot
    let s3 := purgeSaved cx saved (cores.foldl (fun s c => purgeCore c s)
      (countPurged cx p (queued + pending.length + held + saved.length) s2))
    let y := match by_, rc with
      | some (c, _), _ => islOf c
      | none, some r => islOf (coreNo r.core.toNat)
      | none, none => 0
    let (n, s4) := ((dispatch s3).modI y fun i => i.count 13 1).pick
    s4.after (n + 1) (.ev .purgeComplete { Arg.zero with k := cx.toNat, n := p.toNat })

/-! Initial items (R322). -/

/-- Identifier of the next initial item; none if its list page cannot be read. -/
def nextInitial (s : State) (l : Launch) : Option W64 :=
  if l.lst then (ctxRd s l.ctx (l.itm.toNat + 8 * l.fed) 8).map (BitVec.ofNat 64)
  else some (l.itm + BitVec.ofNat 64 l.fed)

/-- The next initial item is appended; one that a purge block meets is discarded and counted (R384). -/
def appendInitial (n : Nat) (s : State) : State :=
  match tfind s.dev.pool n with
  | none => s
  | some l =>
    let room : Bool := l.stages.head?.any fun x => decide (x.occ < x.cap)
    if l.st ≠ .running ∨ l.nit ≤ l.fed ∨ !room then s
    else match nextInitial s l with
      | none =>
        let cores := coreIds.filter fun c => (s.core.get c).launch == some n && (s.core.get c).run != .unbound
        endLaunch n .purged (startPurge l.ctx l.pen none none (cores.foldl (fun s c => purgeCore c s) s))
      | some w =>
        if purgeBlock s l.ctx l.pen then countPurged l.ctx l.pen 1 (s.modL n fun l => { l with fed := l.fed + 1 })
        else s.modL n fun l => Launch.modStage { l with fed := l.fed + 1 } 0 fun x => { x with q := x.q ++ [⟨w, l.pen, []⟩] }

/-- As many initial items as the queue holds. -/
def feed : Nat → Nat → State → State
  | 0, _, s => s
  | m + 1, n, s => feed m n (appendInitial n s)

/-- INITIAL_ITEM_APPEND (R322). -/
def execInitialItemAppend (s : State) : Out := .next (dispatch (appendInitial s.arg.n s))

/-! Starting a launch. -/

/-- The regions of launch n start at round 0 on every island, and nothing is kept of an earlier launch of its pool entry, be it a line, a
publish or a table update under way (R187; log entry 35). -/
def enterRegions (n : Nat) (l : Launch) (s0 : State) : State :=
  let keys := l.regions.map fun r => roundKey (some n) r.index
  let s := { s0 with agenda := s0.agenda.filter fun e => match e.due with
    | .ev i a => !((i == Instr.roundTableUpdate || i == Instr.publish) && keys.contains a.k)
    | _ => true }
  let s1 := s.modD fun d => { d with prod := d.prod.filter fun e => !keys.contains e.1 }
  islIds.foldl (fun s y => s.modI y fun i =>
    { i with rounds := i.rounds.filter (fun e => !keys.contains e.1),
             copies := i.copies.filter fun e => !(e.2.st == .Rg && keys.contains e.2.key) }) s1

/-- The context's barriers are at generation 0 with no arrival on every island when a launch starts (R214). -/
def clearBarriers (l : Launch) (s : State) : State :=
  let mine (k : Nat) : Bool := k / 256 == l.ctx.toNat
  let s1 := s.modD fun d =>
    { d with barr := d.barr.map fun e => if mine e.1 then (e.1, { e.2 with g := 0, c := 0, np := 0 }) else e }
  let s2 := islIds.foldl (fun s y => s.modI y fun i => { i with views := i.views.filter fun e => !mine e.1 }) s1
  { s2 with agenda := s2.agenda.filter fun e => match e.due with
    | .ev i a => !(i == .barrierViewUpdate && mine a.k)
    | _ => true }

/-! Binding (R14, R62, R148, R277, R310, R330). -/

/-- A bundle image of the dictionary section (R62). -/
def dictEntry (s : State) (cx : BitVec 7) (a i : Nat) : BitVec 384 := BitVec.ofNat 384 (ctxNum s cx (a + 48 * i) 48)

/-- Routine words of the image (R148, R324). -/
def rtnWord (s : State) (cx : BitVec 7) (a i : Nat) : Nat := ctxNum s cx (a + 4 * i) 4

/-- Entry words follow the microwords: those that are valid. A section at address 0 is none: DESIGN CHOICE (log entry 117). -/
def rtnEntries (s : State) (cx : BitVec 7) (a n : Nat) : Tbl Nat :=
  if a = 0 then []
  else (List.range 256).filterMap fun i =>
    let v := rtnWord s cx a (n + i); if v / 1024 % 2 = 1 then some (i, v % 1024) else none

/-- The storage of core c is zeroed before another context's first bundle (R14), and is clean (R381). -/
def zeroCore (c : CoreId) (s : State) : State :=
  let clean (s : State) : State := cleanRange (accKey c 0 0 0) (accKey c 4 0 0) (cleanRange (latKey c 0 0 0) (latKey c 8 0 0)
    (cleanRange (colKey c 0 0) (colKey c 128 0) (cleanRange (padKey c 0) (padKey c 0x200000) s)))
  clean { s with mem := memZero (memZero (memZero (memZero s.mem (padKey c 0) (padKey c 0x200000)) (colKey c 0 0) (colKey c 128 0))
      (latKey c 0 0 0) (latKey c 8 0 0)) (accKey c 0 0 0) (accKey c 4 0 0) }

/-- Image parts that a bind loads (R62, R148, R310). -/
def loadImage (c : CoreId) (l : Launch) (t : Nat) (s : State) : State :=
  let sw := ((l.stages[t]?.map StageSt.swAddr).getD 0).toNat
  let hd := if sw = 0 then 0x1000 else ctxNum s l.ctx sw 8
  let cnt := natBits hd 11 0
  let ent := rtnEntries s l.ctx l.rtnA.toNat l.rtnN
  State.modC { s with free := s.free + 1 } c fun k =>
    { k with
      codeBase := l.code
      dict := (List.range l.dictN).map (dictEntry s l.ctx l.dictA.toNat)
      swVpr := BitVec.ofNat 3 (natBits hd 14 12)
      swCnt := cnt
      sw := (List.range (3 * cnt)).map fun i => (i, BitVec.ofNat 32 (ctxNum s l.ctx (sw + 8 + 4 * i) 4))
      ustore := (List.range l.rtnN).map fun i => (i, BitVec.ofNat 32 (rtnWord s l.ctx l.rtnA.toNat i))
      uentry := ent
      ubad := []
      r := { k.r with entryOk := ent.foldl (fun e x => e ||| (1#256 <<< x.1)) 0 } }

/-- What a bind of stage t loads, in 64-byte units: the image parts that there are, and a saved slot (R330, R363). -/
def loadUnits (s : State) (n : Nat) (l : Launch) (t : Nat) : Nat :=
  let sw := ((l.stages[t]?.map StageSt.swAddr).getD 0).toNat
  let swBytes := if sw = 0 then 0 else 8 + 12 * natBits (ctxNum s l.ctx sw 8) 11 0
  let slot := if (savedAt s n l t).isSome then 0x800000 else 0
  ceilDiv (48 * l.dictN + (if l.rtnA = 0 then 0 else 4 * l.rtnN + 1024) + swBytes + slot) 64

/-- Effective divisor of one domain: the largest of request, floor and limits (R12, R378). A management core has no limits
of its own (R377). -/
def effDiv (s : State) (c : CoreId) : Divs :=
  let i := s.isl.get (islOf c)
  let r := (s.core.get c).r.req
  let lim := if isMgmt c then 0 else max i.dth i.dcur
  let dm := dmin (match i.opMove with | some p => min i.vl p.vl | none => i.vl)
  let f (x : Dom) : Nat := max (max (r.get x) (max (i.floor.get x) dm)) lim
  ⟨f .ctl, f .vec, f .mtx, f .cpy⟩
where
  /-- Dmin of a level (R371). -/
  dmin (vl : Nat) : Nat := [16, 12, 10, 8, 6, 5, 4, 3].getD vl 4

/-- Registers and engines of core c take their bind values for stage t of launch n (R14). -/
def bindRegs (c : CoreId) (n : Nat) (l : Launch) (t : Nat) (s : State) : State :=
  s.modC c fun k =>
    { k with
      r := { Regs.init with pc := (l.stages[t]?.map (·.entry)).getD 0 }
      ctx := l.ctx, launch := some n, stg := BitVec.ofNat 3 t, wfw := l.wfw, sfi := l.sfi
      cyc := 0, since := 0, overrun := false, gap := 0, forced := false, heldFor := 0, heldBy := 0, wait := 0, waitBy := 0
      bufFull := false, fetchFor := 0, samples := []
      pullClosed := none, pullEmpty := none, pend := [], loads := [], wst := [], fences := [], early := [], after := []
      cpc := 0, til := 0, wmx := [], pops := [], rec_ := none
      tok := k.tok.map fun x => { x with pending := false, purged := false, src := 0 }
      ring := .replicate 16 Ring.init
      slew := .cold, arbTo := 0, ports := [], saveTo := none, latBy := .replicate 8 0, accBy := .replicate 4 0
      fc := 0, fa := 0, rix := 0, astop := false, mxTrap := none, xlTrap := none, epi := 0x80
      check := .replicate 4 Check.init, carry := .replicate 4 Carry.init, cks := .replicate 4 0
      lastA := none, lastB := none, lastSc := none, ifb := [], invReq := false, preempt := false, stepArm := 0
      lastArr := 0, run := .running }

/-- A launch that restores nothing finds its report zero (R277). -/
def zeroReport (c : CoreId) (l : Launch) (s : State) : State :=
  let a := l.msvRep.toNat % 0x200000
  let n := min (0x200000 - a) (8 * (l.msv.length + 1))
  markCells (cellsOf (padKey c a) 0 n) none { s with mem := memZero s.mem (padKey c a) (padKey c (a + n)) }

end Sys2Proof.Machine
end

