-- ==== Sys2Proof/Machine/Holdup.lean ====
section
/-! DEFINITION. The hold-up sequence, the restart report, the restoring of a must-save set, the error and fence logs, and
bring-up (R276, R277, R317, R366 to R369, R397). -/

namespace Sys2Proof.Machine

/-! CRC-32C: reflected, initial value and final exclusive or all ones (PRESUMED; log entry 12). -/

def crcBit (c : BitVec 32) : BitVec 32 := if c.getLsbD 0 then (c >>> 1) ^^^ 0x82F63B78 else c >>> 1

def crcBits : Nat → BitVec 32 → BitVec 32
  | 0, c => c
  | n + 1, c => crcBits n (crcBit c)

def crc32c (bs : List Byte) : BitVec 32 := ~~~(bs.foldl (fun c b => crcBits 8 (c ^^^ b.setWidth 32)) 0xFFFFFFFF)

/-! Logs (R366, R397). -/

/-- Offset of a half in the hold-up store. -/
def halfOff (b : Bool) : Nat := if b then 0x10000000 else 0

/-- The records of the fence log, in their order. -/
def flogRead (s : State) : List (BitVec 256) :=
  ((List.range 1024).map fun i => BitVec.ofNat 256 (memRdN s.mem (holdKey (0x80000 + 32 * i)) 32)).filter fun r => r.extractLsb' 0 8 != 0

/-- Age of a record of kind 7: its epoch, which its value field holds (R366, R397). -/
def flogAge (r : BitVec 256) : Nat := (r.extractLsb' 128 64).toNat

/-- Place of the oldest record of kind 7. -/
def flogOldest (l : List (BitVec 256)) : Option Nat :=
  ((List.zip (List.range l.length) l).filter fun e => e.2.extractLsb' 0 8 == 7).foldl (fun b e =>
    match b with
    | none => some e
    | some x => if flogAge e.2 < flogAge x.2 then some e else b) none |>.map (·.1)

/-- Append a record; in a full log it replaces the oldest record of kind 7, in its place. A log full of records of kind 5 keeps them
(R366). -/
def flogAppend (r : BitVec 256) (s : State) : State :=
  let l := flogRead s
  let put (i : Nat) : State := { s with mem := memWrs s.mem (cellsOf (holdKey (0x80000 + 32 * i)) r.toNat 32) }
  if l.length < 1024 then put l.length
  else match flogOldest l with
    | some i => put i
    | none => s

/-- Log an event of a unit of island y; kinds 5 and 7 enter the fence log too. -/
def logErr (kind unit : Nat) (y : Isl) (val : W64) (rsn : Nat) (s : State) : State :=
  let r := errRecord kind unit y val rsn s
  let s1 := elogPut r s
  if kind = 5 ∨ kind = 7 then flogAppend r s1 else s1

/-- A corrected error of a unit: the 16th within one hour is logged (R397). -/
def corrected (unit : Nat) (y : Isl) (s : State) : State :=
  let key := y.val * 2 ^ 16 + unit
  let recent := (s.dev.ecc.filter fun e => decide (s.tick < e.2 + 3600000000 * Config.usTicks)) ++ [(key, s.tick)]
  let s1 := (s.modI y fun i => i.count 10 1).modD fun d => { d with ecc := recent }
  if (recent.filter fun e => e.1 == key).length = 16 then
    logErr 1 unit y 0 0 (s1.modD fun d => { d with ecc := d.ecc.filter fun e => e.1 != key })
  else s1

/-! Reading a half back (R366, R367, R369). -/

def holdRd (s : State) (a n : Nat) : Nat := memRdN s.mem (holdKey a) n

def halfEpoch (s : State) (b : Bool) : Nat := holdRd s (halfOff b) 4
def halfSealed (s : State) (b : Bool) : Bool := natBits (holdRd s (halfOff b) 8) 32 32 == 1

/-- Half with the newest epoch. -/
def newestHalf (s : State) : Bool := decide (halfEpoch s false < halfEpoch s true)

/-- Newest sealed epoch, and its half. -/
def newestSealed (s : State) : Option (Nat × Bool) :=
  match halfSealed s false, halfSealed s true with
  | false, false => none
  | true, false => some (halfEpoch s false, false)
  | false, true => some (halfEpoch s true, true)
  | true, true => let b := newestHalf s; some (halfEpoch s b, b)

/-- Context record: sequence number of the context, entry count. -/
def ctxHsq (s : State) (b : Bool) (c : Nat) : Nat := holdRd s (halfOff b + 0x1000 + 64 * c) 8
def ctxCount (s : State) (b : Bool) (c : Nat) : Nat := holdRd s (halfOff b + 0x1010 + 64 * c) 8

/-- A header that landed: context, entry, kind, address, payload bytes, sequence number, offset of its payload. -/
structure Landed where
  cx : Nat
  e : Nat
  kind : Nat
  addr : Nat
  len : Nat
  seqn : Nat
  at_ : Nat
  deriving DecidableEq, Repr

/-- Headers of the stream from offset a on, at most n, the first with sequence number q. A header belongs to this sequence
when its number and its context's sequence number agree. -/
def readStream (s : State) (b : Bool) : Nat → Nat → Nat → List Landed
  | 0, _, _ => []
  | n + 1, a, q =>
    let h := holdRd s a 32
    let x : Landed := ⟨natBits h 6 0, natBits h 13 8, natBits h 17 16, natBits h 127 64, natBits h 191 128, natBits h 255 192, a + 64⟩
    if x.seqn = q ∧ natBits h 63 32 = ctxHsq s b x.cx ∧ natBits h 63 32 ≠ 0 ∧ x.len ≤ 0x10000000 then
      x :: readStream s b n (a + 64 + x.len) (q + 1)
    else []

def streamOf (s : State) (b : Bool) : List Landed := readStream s b 8192 (halfOff b + 0x100000) 1

/-- The entry's commit landed and its CRC matches (R369). -/
def wholeEntry (s : State) (b : Bool) (x : Landed) : Bool :=
  let a := halfOff b + 0x40000 + 2048 * x.cx + 32 * x.e
  holdRd s a 8 == x.seqn && holdRd s (a + 8) 8 == x.len &&
    holdRd s (a + 16) 8 == (crc32c (memBytes s.mem (holdKey x.at_) x.len)).toNat

/-- Doubleword of entry e of context c (R277): bytes that reached the store, and absent 1, torn 2 or whole 3. -/
def entryWord (s : State) (b : Bool) (l : List Landed) (c e : Nat) : Nat :=
  match l.find? fun x => x.cx == c && x.e == e with
  | none => 1
  | some x => x.len * 2 ^ 32 + (if wholeEntry s b x then 3 else 2)

/-- Key of byte a of the restart report at BAR0 + 0x0030_0000. -/
def reportKey (a : Nat) : Nat := 2 ^ 62 + 2 ^ 60 + a

/-- Build the restart report (R369). -/
def buildReport (s : State) : State :=
  let b := newestHalf s
  let l := streamOf s b
  let sealed_ := halfSealed s b
  let ctx (c : Nat) : List Host.Cell :=
    let cnt := ctxCount s b c
    if ctxHsq s b c = 0 ∨ halfEpoch s b = 0 then []
    else
      let ws := (List.range (min cnt 64)).map fun e => entryWord s b l c e
      let n (k : Nat) : Nat := (ws.filter fun w => w % 4 == k).length
      fieldCells (reportKey (0x100 + 64 * c)) (f64 [1 + 2 * sealed_.toNat, ctxHsq s b c, cnt, n 3, n 2, n 1]) ++
        fieldCells (reportKey (0x4000 + 512 * c)) (f64 ws)
  let half := cellsAt (reportKey 0) (memBytes s.mem (holdKey (halfOff b)) 64)
  { s with mem := memWrs (memZero s.mem (reportKey 0) (reportKey 0x14000)) (half ++ (List.range 128).flatMap ctx) }

/-! Payloads (R345, R368, R369): held in clear, with the key slot and the key that they were encrypted under. -/

/-- n bytes of the payload at offset a as they read under a key; the data unit is 128 bytes from the payload's start on (log
entry 95). -/
def payloadRd (s : State) (k : BitVec 512) (a n : Nat) : List Byte :=
  match tfind s.dev.holdTag a with
  | none => memBytes s.mem (holdKey a) n
  | some (_, _, w) =>
    if w = k then memBytes s.mem (holdKey a) n
    else ((List.range (ceilDiv n 128)).flatMap fun i =>
      let u := a / 64 + 2 * i
      let x := Config.xtsDecrypt k u (Config.xtsEncrypt w u (BitVec.ofNat 1024 (memRdN s.mem (holdKey (a + 128 * i)) (min 128 (n - 128 * i)))))
      (List.range 128).map fun j => x.extractLsb' (8 * j) 8).take n

/-- Byte a of BAR2, the hold-up store: a payload in plain text under its context's key slot, all ones if that slot holds no key
(R369). -/
def bar2Read (s : State) (a : Nat) : Byte :=
  match s.dev.holdTag.find? fun e => decide (e.1 ≤ a) && decide (a < e.1 + e.2.1) with
  | none => memRd s.mem (holdKey a)
  | some (o, n, g, _) =>
    let x := s.dev.key[g.toNat]'g.isLt
    if x.loaded then (payloadRd s x.key o n).getD (a - o) 0 else 0xFF

/-! Restoring a must-save set at a launch (R277). -/

/-- Bytes to the context's memory, as far as pages allow. -/
def ctxWrite (cx : BitVec 7) (va : Nat) : List Byte → State → State
  | [], s => s
  | b :: r, s =>
    ctxWrite cx (va + 1) r (match xlatCtx s cx va true with | some pa => keyWr s (s.ctxKey cx) pa 1 b.toNat | none => s)

/-- Whole pieces of the context's memory that n bytes fill are clean (R381). -/
def ctxClean (cx : BitVec 7) (va n : Nat) (s : State) : State :=
  markCells ((List.range n).filterMap fun i => (xlatCtx s cx (va + i) true).map fun pa => (pa, 0)) none s

/-- The sealed half that holds sequence hsq of the context. -/
def sealedOf (s : State) (cx hsq : Nat) : Bool := !(halfSealed s false && ctxHsq s false cx == hsq)

/-- Restore: the pad of the core that R276 names is zeroed, whole pad and global entries are written back, and the report is
written. Places come from the stored headers, the report's count and entries from the launch's set: DESIGN CHOICE (log entry 115). -/
def restoreSet (c : Option CoreId) (l : Launch) (s : State) : State :=
  let b := sealedOf s l.ctx.toNat l.hsq.toNat
  let es := (streamOf s b).filter fun x => x.cx == l.ctx.toNat
  let pads (cells : CoreId → List Host.Cell) (s : State) : State :=
    c.elim s fun c => markCells (cells c) none { s with mem := memWrs s.mem (cells c) }
  let s1 := c.elim s fun c => cleanRange (padKey c 0) (padKey c 0x200000) { s with mem := memZero s.mem (padKey c 0) (padKey c 0x200000) }
  let s2 := (es.filter fun x => wholeEntry s b x).foldl (fun st x =>
    let bs := payloadRd s (s.slotKey (s.ctxOf l.ctx).ksl).2 x.at_ x.len
    if x.kind = 0 then pads (fun c => cellsAt (padKey c x.addr) bs) st
    else if x.kind = 1 then ctxClean l.ctx x.addr bs.length (ctxWrite l.ctx x.addr bs st) else st) s1
  let ws := (l.hsq.toNat * 2 ^ 16 + l.msv.length) ::
    (List.range l.msv.length).map fun e => entryWord s b es l.ctx.toNat e
  pads (fun c => fieldCells (padKey c (l.msvRep.toNat % 0x200000)) (f64 ws)) s2

/-! The sequence (R368). -/

/-- Counted operations that the checkpoint covers go on through QUIESCE: their deliveries belong to the checkpoint state (R230, R231,
R276). -/
def CoreSt.covered (k : CoreSt) : List Cop := k.loads.filter fun o => decide (o.seq ≤ k.ckSeq)

/-- Steps of the agenda by which counted operations of core c perform and are delivered. -/
def copDue (c : CoreId) (ids : List Nat) (d : Due) : Bool :=
  match d with
  | .perform x id => x == c && ids.contains id
  | .ev i a => i == .loadDelivery && a.c == c && ids.contains a.id
  | _ => false

/-- SUPPLY_LOSS: QUIESCE starts. Every compute core rolls back and posts no record, engines stop, a copy at its next 64-byte piece;
released stores and atomics go on to perform, and what the checkpoint covers is delivered. -/
def execSupplyLoss (s : State) : Out :=
  if s.dev.hold ≠ .run then .next s
  else
    let stop (s : State) (c : CoreId) : State :=
      let k := s.core.get c
      if isMgmt c then s
      else
        let ops := k.covered
        let s1 := if k.run = .unbound then s else (rollback c s).modC c fun k => { k.count 12 1 with run := .dark, rec_ := none }
        let pend := (s1.core.get c).pend
        let s2 := (abandonCore c s1).modC c fun k => { k with loads := ops, slew := .cold, pend := pend }
        let s3 : State := { s2 with agenda := s2.agenda.filter fun e =>
          !(e.due == .mcyc c || e.due == .array c || e.due == .edge c || e.due == .ev .rampWindow (argC c) || e.due == .ev .rampDown (argC c)) }
        let kept := s.agenda.filter fun e => copDue c (ops.map (·.id)) e.due
        { s3 with agenda := kept.foldl insEntry s3.agenda }
    let s1 := coreIds.foldl stop s
    .next ((s1.modD fun d => { d with hold := .quiesce, lossAt := s.tick }).after (40 * Config.usTicks) (.ev .quiesceEnd Arg.zero))

/-- Released stores of core c that a test names perform, with D set in the leaves of global ones (R338). -/
def settleStores (c : CoreId) (p : Sto → Bool) (s : State) : State :=
  let go (s : State) (t : Sto) : State :=
    if t.sp = .glob then t.cells.foldl (fun s x => keyWr s (s.coreKey c) x.1 1 x.2.toNat) (setDirty c t.va.toNat s)
    else { s with mem := memWrs s.mem t.cells }
  (((s.core.get c).sto.filter p).foldl go s).modC c fun k => { k with sto := k.sto.filter fun t => !p t }

/-- The dispatcher reads the record at an address, for core c's launch, and answers (R225). -/
def launchAnswer (c : CoreId) (addr : W64) (s : State) : W64 × State :=
  let k := s.core.get c
  let depth := match s.launch? k.launch with | some l => l.depth + 1 | none => 1
  match ctxRd s k.ctx addr.toNat 256 with
  | none => (launchStatus 2 0xD 0, s)
  | some r => takeRecord r depth false (some k.ctx) s

/-- A counted operation of core c performs, if it has not, after every older store, and is delivered. -/
def settleOp (c : CoreId) (s0 : State) (o : Cop) : State :=
  let s := settleStores c (fun t => decide (t.seq < o.seq)) s0
  let old : Nat := if o.sp = .glob then keyRd s (s.coreKey c) o.addr o.z else memRdN s.mem o.addr o.z
  let put (new : Nat) : State :=
    if o.sp = .glob then keyWr (setDirty c o.va.toNat s) (s.coreKey c) o.addr o.z new else { s with mem := memWrs s.mem (cellsOf o.addr new o.z) }
  let done (v : W64) (clear : Bool) (s : State) : State := s.modC c fun k => k.deliverCop s.tick o v clear
  let round (r : Nat) : W64 := (tget 0 s.dev.prod (roundKey (s.core.get c).launch r)).setWidth 64
  match o.val, o.kind with
  | some (v, clear), _ => done v clear s
  | none, .load sg | none, .bounded sg _ _ _ => done (extend sg o.z old) false s
  | none, .absent => done 0 true s
  | none, .amo op b e => done (BitVec.ofNat 64 old) false (put (amoVal op (8 * o.z) old b.toNat e.toNat))
  | none, .racq r | none, .rrnd r => done (round r) false s
  | none, .rpub r =>
    let key := roundKey (s.core.get c).launch r
    let p := tget 0 s.dev.prod key + 1
    done (p.setWidth 64) false (s.modD fun d => { d with prod := tset d.prod key p })
  | none, .barr b n _ _ =>
    let key := barrKey (s.core.get c).ctx b
    let (cap, x) := (tget ⟨0, 0, 0, 0⟩ s.dev.barr key).arrive n
    done (cap.setWidth 64) false (s.modD fun d => { d with barr := tset d.barr key x })
  | none, .launch a => let (w, t) := launchAnswer c a s; done w false t
  | none, _ => s

/-- What has not performed by the end of QUIESCE performs now, in its order, and kept deliveries land. -/
def settleCore (s : State) (c : CoreId) : State :=
  let s1 := settleStores c (fun _ => true) ((s.core.get c).loads.foldl (settleOp c) s)
  s1.modC c fun k => { k.landAll (s.tick + 2 ^ 40) with loads := [], cu0 := CopyUnit.init, cu1 := CopyUnit.init }

/-- Register bytes of a class in the checkpoint state (R276). -/
def classPayload (r : Regs) (c : Nat) : List Host.Cell :=
  match c with
  | 0 => fieldCells 0 (f64 (r.s.toList.map (·.toNat)))
  | 1 => fieldCells 0 ((r.va.toList ++ r.vb.toList).map fun v => (v.toNat, 256))
  | 2 => fieldCells 0 (f64 (r.p.toList.map (·.toNat)))
  | 3 => fieldCells 0 (f64 (r.m.toList.map (·.toNat)))
  | _ => fieldCells 0 (r.n.toList.map fun v => (v.toNat, 64))

/-- Readable bytes of a global entry: up to the first page that cannot be read (R368). -/
def globPayload (s : State) (cx : BitVec 7) (va : Nat) : Nat → List Byte
  | 0 => []
  | n + 1 => match xlatCtx s cx va false with
    | some pa => BitVec.ofNat 8 (keyRd s (s.ctxKey cx) pa 1) :: globPayload s cx (va + 1) n
    | none => []

/-- Payload of an entry, if its core is there. -/
def entryPayload (s : State) (l : Launch) (c : Option CoreId) (e : MsvEnt) : Option (List Byte) :=
  match e.kind with
  | 1 => some (globPayload s l.ctx e.addr.toNat e.len)
  | 0 => c.map fun c => memBytes s.mem (padKey c e.addr.toNat) e.len
  | _ => c.map fun c => (classPayload (s.core.get c).ck e.cls).map (·.2)

/-- Byte count after which the context's stream ends, if the test option names it (R368, CUT). -/
def cutOf (s : State) (cx : BitVec 7) : Option Nat :=
  islIds.findSome? fun y =>
    let w := (s.isl.get y).cut
    if w.extractLsb' 0 7 = cx ∧ w.extractLsb' 32 32 ≠ 0 then some (w.extractLsb' 32 32).toNat else none

/-- Writing position of the stream: offset, next entry number, bytes that the context may still write. -/
structure Stream where
  pos : Nat
  seqn : Nat
  left : Option Nat
  deriving DecidableEq, Repr

/-- Write one entry of a set: header, then payload under the context's key slot, as far as the context's stream goes. A header that is
cut counts as written once its fields, its first 32 bytes, are there (log entry 109). -/
def saveEntry (l : Launch) (hsq : Nat) (c : Option CoreId) (i : Nat) (e : MsvEnt) (a : State × Stream) : State × Stream :=
  let (s, w) := a
  match entryPayload s l c e with
  | none => a
  | some bs =>
    let room := w.left.getD (64 + bs.length)
    let n := min bs.length (room - 64)
    let head (n : Nat) : List Host.Cell :=
      fieldCells (holdKey w.pos) (f64 [l.ctx.toNat + i * 2 ^ 8 + e.kind * 2 ^ 16 + (if e.kind = 2 then e.cls else 0) * 2 ^ 20 + hsq * 2 ^ 32,
        if e.kind = 2 then 0 else e.addr.toNat, n, w.seqn, 0, 0, 0, 0])
    if room < 64 then
      ({ s with mem := memWrs s.mem ((head 0).take room) }, if room < 32 then { w with left := some 0 } else ⟨w.pos + 64, w.seqn + 1, some 0⟩)
    else
      let cells := head n ++ cellsAt (holdKey (w.pos + 64)) (bs.take n)
      let g := (s.ctxOf l.ctx).ksl
      let s1 := { s with mem := memWrs s.mem cells }.modD fun d =>
        { d with holdTag := if n = 0 then d.holdTag else tset d.holdTag (w.pos + 64) (n, s.slotKey g) }
      let s2 := if n = e.bytes then s1.modD fun d =>
          { d with commits := d.commits ++ [⟨l.ctx.toNat, i, w.seqn, n, crc32c (bs.take n)⟩] } else s1
      (s2, ⟨w.pos + 64 + n, w.seqn + 1, w.left.map fun x => x - 64 - n⟩)

/-- Lowest-numbered core bound to the stage that the set names (R276). -/
def msvCore (s : State) (n : Nat) (l : Launch) : Option CoreId := coreIds.find? (boundHere s n l.msvStg)

/-- Write a launch's set and its context record, with the context's next sequence number (R277). -/
def saveSet (a : State × Stream) (x : Nat × Launch) : State × Stream :=
  let (s, w) := a
  let l := x.2
  let c := l.ctx.toNat
  let hsq := max (tget 0 s.dev.hsq c) (max (ctxHsq s false c) (ctxHsq s true c)) + 1
  let rec_ := fieldCells (holdKey (halfOff s.dev.half + 0x1000 + 64 * c))
    (f64 [hsq, ((s.ctxOf l.ctx).ksl).toNat, l.msv.length, handleWord x.1 l.sn, 0, 0, 0, 0])
  let s1 := { s with mem := memWrs s.mem rec_ }.modD fun d => { d with saveCtx := d.saveCtx ++ [c], hsq := tset d.hsq c hsq }
  let es := List.zip (List.range l.msv.length) l.msv
  es.foldl (fun a e => saveEntry l hsq (msvCore s x.1 l) e.1 e.2 a) (s1, { w with left := cutOf s l.ctx })

/-- The sets to save, contexts in ascending number and launches in pool order (R368). -/
def saveSets (s : State) : List (Nat × Launch) :=
  (List.range 128).flatMap fun c => (poolOrder s).filter fun e =>
    e.2.ctx.toNat == c && !e.2.msv.isEmpty && (e.2.st == .pending || e.2.st == .running)

/-- Ticks that SAVE takes, at 128 GB/s: for the half's 128 context records and for every header and payload, at most 300 us (R1, R365, R368;
log entry 49). -/
def saveTicks (s : State) : Nat :=
  min (300 * Config.usTicks) (ceilDiv ((128 * 64 + ((saveSets s).foldl saveSet (s, ⟨0, 1, none⟩)).2.pos) * 17) 320)

/-- QUIESCE_END (R368): exactly 40 us after detection the clocks of the compute cores have stopped and SAVE starts. -/
def execQuiesceEnd (s : State) : Out :=
  if s.dev.hold ≠ .quiesce then .next s
  else
    let s1 := (coreIds.filter fun c => !isMgmt c).foldl settleCore s
    let (e, h) := match newestSealed s1 with | some (e, b) => (e + 1, !b) | none => (1, false)
    let s2 := s1.modD fun d => { d with hold := .save, epoch := BitVec.ofNat 32 e, half := h, commits := [], saveCtx := [] }
    .next (s2.after (saveTicks s2) (.ev .saveEnd Arg.zero))

/-- SAVE_END (R368): the half's context records and every set have been written. SEAL follows. -/
def execSaveEnd (s : State) : Out :=
  if s.dev.hold ≠ .save then .next s
  else
    let off := halfOff s.dev.half
    let keep := (List.range 128).filter fun c => !(saveSets s).any fun e => e.2.ctx.toNat == c
    let m := keep.foldl (fun m c => memZero m (holdKey (off + 0x1000 + 64 * c)) (holdKey (off + 0x1040 + 64 * c))) s.mem
    let s0 := State.modD { s with mem := memZero m (holdKey off) (holdKey (off + 64)) } fun d =>
      { d with holdTag := d.holdTag.filter fun e => decide (e.1 < off) || decide (off + 0x10000000 ≤ e.1) }
    let (s1, _) := (saveSets s).foldl saveSet (s0, ⟨off + 0x100000, 1, none⟩)
    let s2 := s1.modD fun d => { d with hold := .seal }
    .next (s2.after (ceilDiv (8024 + 136 * s2.dev.commits.length) 10) (.ev .sealEnd Arg.zero))

/-- Steps that the world outside makes: the host's, the supply's, an expander's, and what firmware does when the device comes up. -/
def fromOutside (d : Due) : Bool :=
  match d with
  | .ev i _ => i == .powerGood || i == .supplyLoss || i == .hostLaunchTrigger || i == .hostConfigSpaceRead || i == .hostMemAccess ||
      i == .hostSnoop || i == .expanderBackInvalidation || i == .registerWrite || i == .fwProg || i == .fwCommit ||
      i == .attestationStart || i == .partitionWrite || i == .keyLoad || i == .keyErase || i == .qctlWrite || i == .qperWrite || i == .qbudWrite || i == .ctxcWrite ||
      i == .optMirrorWrite
  | _ => false

/-- SEAL_END (R368): commit records, then the half record with the sequence's length in ns and the energy drawn in uJ, at most 420 W for
that time and for 360 us (R1, R365); the device stops.
Only what comes from outside can follow; a supply that has returned meanwhile leads to a bring-up now. -/
def execSealEnd (s : State) : Out :=
  if s.dev.hold ≠ .seal then .next s
  else
    let off := halfOff s.dev.half
    let (x, s0) := s.pick
    let ns := (s0.tick - s0.dev.lossAt) * 10 / 68
    let u := x % (min 151200 (ns * 42 / 100) + 1)
    let clear := memZero s0.mem (holdKey (off + 0x40000)) (holdKey (off + 0x80000))
    let com := s0.dev.commits.flatMap fun x =>
      fieldCells (holdKey (off + 0x40000 + 2048 * x.cx + 32 * x.e)) (f64 [x.seqn, x.len, x.crc.toNat, 0])
    let half := fieldCells (holdKey off) (f64 [s0.dev.epoch.toNat + 2 ^ 32 + s0.dev.saveCtx.length * 2 ^ 40, u,
      ns, 0, 0, 0, 0, 0])
    let s1 := { s0 with mem := memWrs clear (com ++ half), agenda := s0.agenda.filter fun e => fromOutside e.due }
    let s2 := s1.modD fun d => { d with hold := .done, heldUj := BitVec.ofNat 64 u, supplyBack := false }
    .next (if s.dev.supplyBack then s2.now .powerGood Arg.zero else s2)

/-! Bring-up (R317, R397, R402). -/

/-- A firmware image's fields. -/
def fwField (b : List Byte) (o n : Nat) : Nat := ((b.drop o).take n).foldr (fun x a => x.toNat + 256 * a) 0
def fwSvn (b : List Byte) : Nat := fwField b 8 4
def fwLen (b : List Byte) : Nat := fwField b 12 4
def fwBank (d : DevSt) (b : Bool) : List Byte := if b then d.bank1 else d.bank0

/-- Reason to refuse an image: 1 format, 2 length, 3 signature, or a public key whose hash is not the fused one, 4 SVN; 0 for none (R402,
R403). -/
def fwWhyOf (hash : BitVec 256) (fuse : Nat) (b : List Byte) : Nat :=
  if fwField b 0 4 ≠ 1 ∨ ((b.drop 0x10).take 0x30).any (· != 0) then 1
  else if 16777088 < fwLen b ∨ b.length < 0x40 + fwLen b + 64 then 2
  else if Config.sha256 (Config.imageKey b) ≠ hash ∨ !Config.signatureOk (Config.imageKey b) (b.take (0x40 + fwLen b + 64)) then 3
  else if fwSvn b < fuse ∨ 63 < fwSvn b then 4
  else 0

/-- What a loss of the supply leaves: the hold-up store, the firmware banks, what is fused, and the free counter; and what the
world outside is going to do, whose time goes on. -/
def coldStart (s : State) : State :=
  let r := State.reset
  { r with
    free := s.free
    mem := s.mem.filter fun c => decide (holdKey 0 ≤ c.1) && decide (c.1 < holdKey 0x20000000)
    agenda := ((s.agenda.filter fun e => fromOutside e.due).map fun (e : Entry) => { e with at_ := e.at_ - s.tick }).foldl insEntry
      (r.agenda.filter fun e => match e.due with | .ev .powerGood _ => false | _ => true)
    dev := { r.dev with bank0 := s.dev.bank0, bank1 := s.dev.bank1, idHash := s.dev.idHash, attKey := s.dev.attKey, attPub := s.dev.attPub
                        cert := s.dev.cert, fwAct := s.dev.fwNext, fwNext := s.dev.fwNext, fuse := s.dev.fuse,
                        heldUj := s.dev.heldUj, hsq := s.dev.hsq, holdTag := s.dev.holdTag } }

/-- Lines of an island's first tier, and of the LPDDR6 (R346; 3,072 GB). -/
def tierLines : Nat := 0x18000000
def lpddrLines : Nat := 24000000000

/-- Ticks between two lines of a scrubber: its pass period, spread evenly over its lines (R400; log entry 110). -/
def scrubTicks (s : State) (lines : Nat) : Nat := ceilDiv ((natBits s.dev.scp.toNat 15 0) * 3600000000 * Config.usTicks) lines

/-- A scrubber goes on with a line, the LPDDR6's with its line of number n. -/
def scrubAt (lines line n : Nat) (s : State) : State :=
  s.after (scrubTicks s lines + 1) (.ev .patrolScrub { Arg.zero with line := line, n := n })

/-- The LPDDR6's scrubber goes on with its line of number n, whose place the spec does not give (log entry 110). -/
def scrubLpddr (n : Nat) (s : State) : State := scrubAt lpddrLines (4 * tierLines + Config.lpddrLine n) n s

/-- The line after one that has been scrubbed, the LPDDR6's line of number n: the next of the island's first tier, or of the LPDDR6. Each
line is read in a pass (R400). -/
def nextScrub (line n : Nat) (s : State) : State :=
  if line < 4 * tierLines then scrubAt tierLines (line / tierLines * tierLines + (line % tierLines + 1) % tierLines) 0 s
  else scrubLpddr ((n + 1) % lpddrLines) s

/-- A step of a scrubber, and no error that comes from outside. -/
def scrubDue (d : Due) : Bool :=
  match d with
  | .ev i a => i == .patrolScrub && !a.flag
  | _ => false

/-- The scrubbers start, unless they run, or stop when SCP is 0: one over each island's first tier, which holds its channels, and one over
the LPDDR6. -/
def startScrub (s : State) : State :=
  if s.dev.scp = 0 then { s with agenda := s.agenda.filter fun e => !scrubDue e.due }
  else if s.agenda.any fun e => scrubDue e.due then s
  else scrubLpddr 0 (islIds.foldl (fun s y => scrubAt tierLines (y.val * tierLines) 0 s) s)

/-- POWER_GOOD (R317, R368): a supply that returns before the hold-up sequence is done waits for it. Then steps 1 to 3 and the training of the causeway. Whether a link or channel trains is free (log entry
1). Step 4 waits for the host's read. -/
def execPowerGood (s : State) : Out :=
  if s.dev.hold ≠ .run ∧ s.dev.hold ≠ .done then .next (s.modD fun d => { d with supplyBack := true })
  else
    let s0 := if s.dev.hold = .done then coldStart s else s
    let good (b : Bool) : Bool := fwWhyOf s0.dev.idHash s0.dev.fuse (fwBank s0.dev b) == 0
    let act := s0.dev.fwAct
    let boot (n : Nat) (s : State) : State := s.modD fun d => { d with boot := BitVec.ofNat 8 n }
    if !good act && !good (!act) then .next (boot 1 s0)
    else
      let b := if good act then act else !act
      let s1 := s0.modD fun d => { d with fwAct := b, fuse := max d.fuse (fwSvn (fwBank d b)), bootStep := 1 }
      let (x2, s2) := s1.pick
      let (x3, s3) := s2.pick
      let (x4, s4) := s3.pick
      if x2 = 0 then .next (boot 2 s4)
      else if x3 = 0 then .next (boot 3 (s4.modD fun d => { d with bootStep := 2 }))
      else if x4 = 0 then .next (boot 4 (s4.modD fun d => { d with bootStep := 3 }))
      else .next (startScrub (s4.modD fun d => { d with bootStep := 4 }))

/-- Fence registers take every record of kind 5 of the fence log (R397). -/
def fenceFromLog (s : State) : State :=
  (flogRead s).foldl (fun s r =>
    let u := (r.extractLsb' 8 16).toNat
    let y : Isl := ⟨(r.extractLsb' 24 2).toNat % 4, by omega⟩
    let i := u % 256
    let s1 := if r.extractLsb' 0 8 ≠ 5 then s
      else s.modI y fun x =>
        if 1 ≤ u / 256 ∧ u / 256 ≤ 8 then { x with fcore := x.fcore ||| 1#32 <<< i }
        else if u / 256 = 0x10 ∨ u / 256 = 0x11 then { x with fslice := x.fslice ||| 1#32 <<< i }
        else if u / 256 = 0x20 then { x with fstrait := x.fstrait ||| 1#4 <<< i }
        else if u / 256 = 0x30 then { x with fdram := x.fdram ||| 1#16 <<< i }
        else { x with fcore := 0xFFFFFFFF }
    elogPut r s1) s

/-- HOST_CONFIG_SPACE_READ (R317): in step 4 the host's read of the configuration space ends it. Step 5 builds the report,
fences what the fence log names and logs a hold-up sequence that is new; step 6 trains the peer ports. A step that has failed
stops the sequence. -/
def execHostConfigSpaceRead (s : State) : Out :=
  if s.dev.bootStep ≠ 4 ∨ s.dev.boot ≠ 0 then .next s
  else
    let (x, s1) := s.pick
    if x = 0 then .next (s1.modD fun d => { d with boot := 5 })
    else
      let s2 := fenceFromLog (buildReport s1)
      let b := newestHalf s2
      let e := halfEpoch s2 b
      let known := (flogRead s2).any fun r => r.extractLsb' 0 8 == 7 && (r.extractLsb' 128 64).toNat == e
      let s3 := if e ≠ 0 ∧ !known then logErr 7 0 0 (BitVec.ofNat 64 e) 0 s2 else s2
      .next (State.modD { s3 with free := s3.free + 16 } fun d =>
        { d with boot := 0x80, bootStep := 5, port := (List.range 16).map fun p => (p, Config.freeNat (s3.free + p)) })

end Sys2Proof.Machine
end

