-- ==== Sys2Proof/Machine/Float.lean ====
section
/-! DEFINITION. Number formats: exact values, rounding, and the arithmetic of floats and block-4 blocks (R38 to R59). -/

namespace Sys2Proof.Machine

/-- A value: NaN, an infinity, or ±m × 2^e exactly (R41). Zero keeps its sign. -/
inductive FVal where
  | nan
  | inf (neg : Bool)
  | fin (neg : Bool) (m : Nat) (e : Int)
  deriving DecidableEq, Repr

/-- A value with the flags that making it raised. -/
abbrev FRes := FVal × Byte

/-! Formats (R40). -/

/-- Fraction bits. -/
def fracBits (t : ElemTy) : Nat := match t with | .f32 => 23 | .bf16 => 7 | _ => 3
/-- Exponent bits. -/
def expBits (t : ElemTy) : Nat := match t with | .f32 | .bf16 => 8 | _ => 4
/-- Exponent bias. -/
def biasOf (t : ElemTy) : Int := match t with | .f32 | .bf16 => 127 | _ => 7
/-- Pattern of the largest finite magnitude. -/
def maxFin (t : ElemTy) : Nat := match t with | .f32 => 0x7F7FFFFF | .bf16 => 0x7F7F | _ => 0x7E
/-- Pattern of +infinity; E4M3 has none and gives 448. -/
def infPat (t : ElemTy) : Nat := match t with | .f32 => 0x7F800000 | .bf16 => 0x7F80 | _ => 0x7E
/-- The canonical NaN (R42). -/
def nanPat (t : ElemTy) : Nat := match t with | .f32 => 0x7FC00000 | .bf16 => 0x7FC0 | _ => 0x7F
/-- Sign bit of a format. -/
def signOf (t : ElemTy) (neg : Bool) : Nat := if neg then 2 ^ (tyBits t - 1) else 0

/-- Value of a pattern (R41). -/
def toF (t : ElemTy) (x : Nat) : FVal :=
  let fb := fracBits t
  let f := x % 2 ^ fb
  let e := (x >>> fb) % 2 ^ expBits t
  let neg := x.testBit (tyBits t - 1)
  if e = 0 then .fin neg f (1 - biasOf t - fb)
  else if t = .e4m3 then
    if e = 15 ∧ f = 7 then .nan else .fin neg (2 ^ fb + f) ((e : Int) - biasOf t - fb)
  else if e = 255 then (if f = 0 then .inf neg else .nan)
  else .fin neg (2 ^ fb + f) ((e : Int) - biasOf t - fb)

/-- A signalling NaN pattern (R41, R42). -/
def isSnan (t : ElemTy) (x : Nat) : Bool :=
  match t with
  | .f32 | .bf16 => toF t x == .nan && !x.testBit (fracBits t - 1)
  | _ => false

/-- NV for a signalling NaN operand (R42, R46). -/
def snanFlag (t : ElemTy) (x : Nat) : Byte := flagIf (isSnan t x) flNV

def FVal.isNan : FVal → Bool | .nan => true | _ => false
def FVal.isInf : FVal → Bool | .inf _ => true | _ => false
def FVal.isZero : FVal → Bool | .fin _ 0 _ => true | _ => false
def FVal.isFin : FVal → Bool | .fin .. => true | _ => false
def FVal.neg? : FVal → Bool | .fin n _ _ => n | .inf n => n | .nan => false

/-- The value with its sign flipped. -/
def FVal.flip : FVal → FVal
  | .nan => .nan
  | .inf n => .inf (!n)
  | .fin n m e => .fin (!n) m e

/-- The magnitude. -/
def FVal.mag : FVal → FVal
  | .nan => .nan
  | .inf _ => .inf false
  | .fin _ m e => .fin false m e

/-! Rounding (R44, R45). -/

/-- Integer n with m × 2^e rounded to a multiple of 2^u, n × 2^u, and whether it is inexact. -/
def roundTo (rm : Rm) (neg : Bool) (m : Nat) (e u : Int) : Nat × Bool :=
  if u ≤ e then (m <<< (e - u).toNat, false)
  else
    let sh := (u - e).toNat
    let q := m >>> sh
    let r := m % 2 ^ sh
    let up := match rm with
      | .rne => decide (2 ^ sh < 2 * r) || (decide (2 * r = 2 ^ sh) && q % 2 == 1)
      | .rz => false
      | .rd => neg && r != 0
      | .ru => !neg && r != 0
    (if up then q + 1 else q, r != 0)

/-- Result of an overflow (R45). -/
def overflow (t : ElemTy) (rm : Rm) (sat neg : Bool) : Nat :=
  let big := match rm with
    | .rne => false
    | .rz => true
    | .rd => !neg
    | .ru => neg
  signOf t neg + (if sat || t == .e4m3 || big then maxFin t else infPat t)

/-- Pattern of n × 2^u, n at most 2^p, where u is not below the subnormal step (R40). -/
def packFin (t : ElemTy) (neg : Bool) (n : Nat) (u : Int) : Nat :=
  let fb := fracBits t
  let (n, u) := if n = 2 ^ (fb + 1) then (2 ^ fb, u + 1) else (n, u)
  signOf t neg + (if n < 2 ^ fb then n else ((u + fb + biasOf t).toNat <<< fb) + (n - 2 ^ fb))

/-- RoundF(v, fmt, mode) with the SAT modifier: the pattern and the flags (R44, R45). -/
def roundF (t : ElemTy) (rm : Rm) (sat : Bool) (v : FVal) : Nat × Byte :=
  match v with
  | .nan => (nanPat t, 0)
  | .inf n => (signOf t n + infPat t, flagIf (t == .e4m3) (flOF ||| flNX))
  | .fin neg m e =>
    if m = 0 then (signOf t neg, 0)
    else
      let fb := fracBits t
      let emin : Int := 1 - biasOf t
      let u3 : Int := (Nat.log2 m : Int) + e - fb
      let (n3, x3) := roundTo rm neg m e u3
      let top : Int := (Nat.log2 n3 : Int) + u3
      if top < emin then
        let u : Int := emin - fb
        let (n, x) := roundTo rm neg m e u
        (packFin t neg n u, flagIf x (flUF ||| flNX))
      else
        let p := packFin t false n3 u3
        if maxFin t < p then (overflow t rm sat neg, flOF ||| flNX)
        else (signOf t neg + p, flagIf x3 flNX)

/-! Exact arithmetic. -/

/-- A signed mantissa. -/
def sgn (neg : Bool) (m : Nat) : Int := if neg then -(m : Int) else (m : Int)

/-- ±m × 2^e from a signed mantissa; z is the sign of a zero. -/
def ofSigned (z : Bool) (x : Int) (e : Int) : FVal :=
  if x = 0 then .fin z 0 e else .fin (decide (x < 0)) x.natAbs e

/-- Exact a + b (R46, R44 item 7). -/
def addF (rm : Rm) (a b : FVal) : FRes :=
  match a, b with
  | .nan, _ | _, .nan => (.nan, 0)
  | .inf x, .inf y => if x = y then (.inf x, 0) else (.nan, flNV)
  | .inf x, _ => (.inf x, 0)
  | _, .inf y => (.inf y, 0)
  | .fin x m e, .fin y n f =>
    let g := min e f
    let z := if m = 0 ∧ n = 0 ∧ x = y then x else rm == .rd
    (ofSigned z (sgn x (m <<< (e - g).toNat) + sgn y (n <<< (f - g).toNat)) g, 0)

/-- Exact a × b (R46). -/
def mulF (a b : FVal) : FRes :=
  match a, b with
  | .nan, _ | _, .nan => (.nan, 0)
  | .inf x, .inf y => (.inf (x != y), 0)
  | .inf x, .fin y n _ => if n = 0 then (.nan, flNV) else (.inf (x != y), 0)
  | .fin x m _, .inf y => if m = 0 then (.nan, flNV) else (.inf (x != y), 0)
  | .fin x m e, .fin y n f => (.fin (x != y) (m * n) (e + f), 0)

/-- Exact a × b + c. -/
def fmaF (rm : Rm) (a b c : FVal) : FRes :=
  let p := mulF a b
  let r := addF rm p.1 c
  (r.1, p.2 ||| r.2)

/-- A quotient or root of q steps of 2^e, with a mark below it when something is left (R54). -/
def withRest (neg : Bool) (q : Nat) (e : Int) (rest : Bool) : FVal := .fin neg (2 * q + rest.toNat) (e - 1)

/-- Exact a / b, as near as any rounding to FP32 can tell (R46, R54). -/
def divF (a b : FVal) : FRes :=
  match a, b with
  | .nan, _ | _, .nan => (.nan, 0)
  | .inf _, .inf _ => (.nan, flNV)
  | .inf x, .fin y _ _ => (.inf (x != y), 0)
  | .fin x _ _, .inf y => (.fin (x != y) 0 0, 0)
  | .fin x m e, .fin y n f =>
    if n = 0 then (if m = 0 then (.nan, flNV) else (.inf (x != y), flDZ))
    else if m = 0 then (.fin (x != y) 0 0, 0)
    else
      let q := (m <<< 64) / n
      (withRest (x != y) q (e - f - 64) (q * n != m <<< 64), 0)

/-- Largest r + … with r^2 ≤ x, found from bit n - 1 down. -/
def isqrt (x r : Nat) : Nat → Nat
  | 0 => r
  | n + 1 => if (r + 2 ^ n) * (r + 2 ^ n) ≤ x then isqrt x (r + 2 ^ n) n else isqrt x r n

/-- Mantissa and exponent with the exponent made even. -/
def evenExp (m : Nat) (e : Int) : Nat × Int := if e % 2 = 0 then (m, e) else (2 * m, e - 1)

/-- Square root (R54). -/
def sqrtF (a : FVal) : FRes :=
  match a with
  | .nan => (.nan, 0)
  | .inf n => if n then (.nan, flNV) else (.inf false, 0)
  | .fin neg m e =>
    if m = 0 then (.fin neg 0 0, 0)
    else if neg then (.nan, flNV)
    else
      let (m', e') := evenExp m e
      let x := m' <<< 64
      let r := isqrt x 0 48
      (withRest false r (e' / 2 - 32) (r * r != x), 0)

/-- 1 / sqrt(a) (R54). -/
def rsqrtF (a : FVal) : FRes :=
  match a with
  | .nan => (.nan, 0)
  | .inf n => if n then (.nan, flNV) else (.fin false 0 0, 0)
  | .fin neg m e =>
    if m = 0 then (.inf neg, flDZ)
    else if neg then (.nan, flNV)
    else
      let (m', e') := evenExp m e
      let r := isqrt (2 ^ 128 / m') 0 65
      (withRest false r (-(e' / 2) - 64) (m' * (r * r) != 2 ^ 128), 0)

/-! Comparison. -/

/-- Difference of the values as a signed integer at their common exponent; NaN has none. Infinities lie beyond all. -/
def FVal.lt (a b : FVal) : Bool :=
  match a, b with
  | .nan, _ | _, .nan => false
  | .inf x, .inf y => x && !y
  | .inf x, _ => x
  | _, .inf y => !y
  | .fin x m e, .fin y n f =>
    let g := min e f
    decide (sgn x (m <<< (e - g).toNat) < sgn y (n <<< (f - g).toNat))

/-- Equal as numbers: the two zeros are equal, NaN equals nothing. -/
def FVal.eqv (a b : FVal) : Bool := !a.isNan && !b.isNan && !a.lt b && !b.lt a

/-- The smaller in the order that puts -0 before +0; a NaN operand gives NaN (R58, R117). -/
def minF (a b : FVal) : FVal :=
  if a.isNan || b.isNan then .nan
  else if a.lt b then a else if b.lt a then b else if a.neg? then a else b

def maxF (a b : FVal) : FVal :=
  if a.isNan || b.isNan then .nan
  else if a.lt b then b else if b.lt a then a else if a.neg? then b else a

/-! Conversions (R48). -/

/-- Bounds of an integer type (R38). -/
def intLo (t : ElemTy) : Int := match t with | .i8 => -128 | .i16 => -32768 | .i32 => -2147483648 | _ => 0
def intHi (t : ElemTy) : Int :=
  match t with
  | .i8 => 127 | .n8 => 255 | .i16 => 32767 | .n16 => 65535 | .i32 => 2147483647 | _ => 4294967295

/-- Value of an integer element (R39). -/
def toI (t : ElemTy) (x : Nat) : Int :=
  match t with
  | .i8 | .i16 | .i32 => sext x (tyBits t)
  | _ => (x : Int)

/-- Reduce an exact integer to a type: wrapped, or clamped with SAT (R39). -/
def fromI (t : ElemTy) (sat : Bool) (x : Int) : Nat × Byte :=
  if sat then
    let r := match t with
      | .i8 | .i16 | .i32 => satS x (tyBits t)
      | _ => satU x (tyBits t)
    (wrap r.1 (tyBits t), r.2)
  else (wrap x (tyBits t), 0)

/-- An integer as an exact value. -/
def ofInt (x : Int) : FVal := ofSigned false x 0

/-- Float to integer: nearest end and NV outside the range, 0 and NV for a NaN, NX if rounding changed it (R48). -/
def floatToInt (t : ElemTy) (rm : Rm) (v : FVal) : Nat × Byte :=
  match v with
  | .nan => (0, flNV)
  | .inf n => (wrap (if n then intLo t else intHi t) (tyBits t), flNV)
  | .fin neg m e =>
    let (n, x) := roundTo rm neg m e 0
    let i := sgn neg n
    if i < intLo t then (wrap (intLo t) (tyBits t), flNV)
    else if intHi t < i then (wrap (intHi t) (tyBits t), flNV)
    else (wrap i (tyBits t), flagIf x flNX)

/-- A value converted to a type (R48). -/
def fromF (t : ElemTy) (rm : Rm) (sat : Bool) (v : FVal) : Nat × Byte :=
  if tyI t then floatToInt t rm v else roundF t rm sat v

/-- One element converted (R48). -/
def convert (t fm : ElemTy) (rm : Rm) (sat : Bool) (x : Nat) : Nat × Byte :=
  if tyI fm then
    (if tyI t then fromI t sat (toI fm x) else roundF t rm sat (ofInt (toI fm x)))
  else
    let r := fromF t rm sat (toF fm x)
    (r.1, r.2 ||| snanFlag fm x)

/-! Block-4 (R49 to R53). -/

/-- Table value of a code in eighths (R52): sign and magnitude. -/
def b4Mag (ty : Nat) (c : Nat) : Nat :=
  match ty with
  | 1 => [0, 4, 8, 12, 16, 24, 32, 48].getD c 0
  | 2 => [0, 1, 2, 4, 8, 16, 32, 64].getD c 0
  | _ => [0, 8, 16, 24, 32, 48, 64, 96].getD c 0

def b4Table (ty c : Nat) : Bool × Nat :=
  if ty = 0 then
    let i := sext c 4
    (decide (i < 0), 8 * i.natAbs)
  else (decide (8 ≤ c), b4Mag ty (c % 8))

/-- Element i of a 64-byte block (R49 to R52): value, and NV if the block is malformed. -/
def b4Elem (blk : Nat) (i : Nat) : FRes :=
  let fmt := blk % 256
  if fmt = 0 then (.fin false 0 0, 0)
  else if fmt ≠ 0xB4 then (.nan, flNV)
  else
    let sc := natBits blk 15 8
    let code := natBits blk (16 + 4 * i + 3) (16 + 4 * i)
    let (neg, m) := b4Table (sc / 64) code
    (.fin neg m ((sc % 64 : Int) - 35), 0)

/-- x / s lies beyond HiT or LoT (R53), for a finite x and scale 2^(e - 32). -/
def b4Over (ty : Nat) (e : Nat) (v : FVal) : Bool :=
  let lim (neg : Bool) : FVal :=
    .fin neg (match ty with | 0 => if neg then 64 else 56 | 1 => 48 | 2 => 64 | _ => 96) ((e : Int) - 35)
  v.isFin && ((lim false).lt v || v.lt (lim true))

/-- The scale search of R53: exponent and whether it saturates. -/
def b4Scale (ty : Nat) (xs : List FVal) (e : Nat) : Nat → Nat × Bool
  | 0 => (e, xs.any (b4Over ty e))
  | n + 1 =>
    if xs.any (b4Over ty e) then (if e = 63 then (e, true) else b4Scale ty xs (e + 1) n) else (e, false)

/-- Exact distance |a - b| of finite values. -/
def distF (a b : FVal) : FVal := (addF .rne a b.flip).1.mag

/-- Code of a value in type ty at scale 2^(e - 32), with its flags (R53 PickCode). -/
def pickCode (ty : Nat) (e : Nat) (rm : Rm) (v : FVal) : Nat × Byte :=
  let hi := 7
  let lo := if ty = 0 then 8 else 15
  match v with
  | .nan => (0, flNV)
  | .inf n => (if n then lo else hi, flOF ||| flNX)
  | .fin neg m f =>
    if b4Over ty e v then (if neg then lo else hi, flNX)
    else
      let val (c : Nat) : FVal := let t := b4Table ty c; .fin t.1 t.2 ((e : Int) - 35)
      let ok (c : Nat) : Bool := match rm with
        | .rne => true
        | .rz => !v.mag.lt (val c).mag && ((val c).isZero || (val c).neg? == neg)
        | .rd => !v.lt (val c)
        | .ru => !(val c).lt v
      let better (a b : Nat) : Bool :=
        let da := distF v (val a)
        let db := distF v (val b)
        da.lt db || (da.eqv db && a % 2 == 0 && b % 2 == 1)
      let cs := (List.range 16).filter fun c => ok c && !(ty != 0 && c == 8)
      let c := match cs with
        | c :: r => r.foldl (fun b c => if better c b then c else b) c
        | [] => 0
      (c, flagIf (!(val c).eqv (.fin neg m f)) flNX ||| flagIf (c == 0 && m != 0) flUF)

/-- Quantise 124 values into one block (R53): 64 bytes as a number, and flags. -/
def quantise (ty e0 : Nat) (rm : Rm) (xs : List FVal) : Nat × Byte :=
  let (e, sat) := b4Scale ty xs e0 3
  let cs := xs.map (pickCode ty e rm)
  let codes := (cs.foldl (fun (a : Nat × Nat) c => (a.1 + c.1 <<< (16 + 4 * a.2), a.2 + 1)) (0, 0)).1
  (0xB4 + (ty * 64 + e) * 256 + codes, cs.foldl (fun f c => f ||| c.2) (flagIf sat flQSAT))

/-! Sums. -/

/-- Exact sum of products of one group (R56, R57): a zero sum is +0 unless every product is -0. -/
def groupSum (ps : List FRes) : FRes :=
  let fl := ps.foldl (fun f p => f ||| p.2) 0
  let nan := ps.any (·.1.isNan)
  let pinf := ps.any (·.1 == .inf false)
  let ninf := ps.any (·.1 == .inf true)
  if pinf && ninf then (.nan, fl ||| flNV)
  else if nan then (.nan, fl)
  else if pinf then (.inf false, fl)
  else if ninf then (.inf true, fl)
  else
    let allNegZero := ps.all fun p => p.1.isZero && p.1.neg?
    let s := ps.foldl (fun a p => (addF .rne a p.1).1) (.fin false 0 0)
    (if allNegZero && !ps.isEmpty then .fin true 0 0 else s, fl)

/-- Pairwise tree over adjacent elements (R58); `n` bounds its levels. -/
def treeStep (f : Nat × Byte → Nat × Byte → Nat × Byte) : List (Nat × Byte) → List (Nat × Byte)
  | a :: b :: r => f a b :: treeStep f r
  | r => r

def reduceTree (f : Nat × Byte → Nat × Byte → Nat × Byte) (xs : List (Nat × Byte)) : Nat → List (Nat × Byte)
  | 0 => xs
  | n + 1 => reduceTree f (treeStep f xs) n

end Sys2Proof.Machine
end

