-- ==== Sys2Proof/Machine/MatrixUnit.lean ====
section
/-! DEFINITION. What the latch, drain and array paths do: operands, steps, checksums, drains, and the current-slew limiter
(R56, R57, R156 to R173, R272 to R274). -/

namespace Sys2Proof.Machine

/-! Accumulators and their checksum state. -/

/-- c(A)[i, j] as an FP32 pattern. -/
def accRd (s : State) (c : CoreId) (a i j : Nat) : Nat := memRdN s.mem (accKey c a i j) 4

/-- Every cell of an accumulator becomes +0. -/
def accClear (c : CoreId) (a : BitVec 2) (s : State) : State :=
  { s with mem := memZero s.mem (accKey c a.toNat 0 0) (accKey c (a.toNat + 1) 0 0) }

def CoreSt.modCheck (k : CoreSt) (a : BitVec 2) (f : Check → Check) : CoreSt :=
  { k with check := k.check.set a.toNat (f (k.check[a.toNat]'a.isLt)) a.isLt }

/-- ResetCheck (R172). -/
def resetCheck (k : CoreSt) (a : BitVec 2) : CoreSt := k.modCheck a fun _ => { Check.init with valid := true }
/-- InvalidateCheck (R172). -/
def spoilCheck (k : CoreSt) (a : BitVec 2) : CoreSt := k.modCheck a fun x => { x with valid := false }

/-! Operands of a step (R160, R161). -/

/-- Element k of an operand of type t whose byte b has key `key b`; NV for a signalling NaN (R57). -/
def operand (s : State) (t : ElemTy) (key : Nat → Nat) (k : Nat) : FRes :=
  match t with
  | .i8 => (ofInt (sext (memRd s.mem (key k)).toNat 8), 0)
  | .e4m3 => (toF .e4m3 (memRd s.mem (key k)).toNat, 0)
  | .bf16 => let x := memRdN s.mem (key (2 * k)) 2; (toF .bf16 x, snanFlag .bf16 x)
  | .f32 => let x := memRdN s.mem (key (4 * k)) 4; (toF .f32 x, snanFlag .f32 x)
  | _ =>
    let q := 64 * (k / 124)
    let i := k % 124
    let hd := memRdN s.mem (key q) 2
    let byte := (memRd s.mem (key (q + 2 + i / 2))).toNat
    let code := if i % 2 = 0 then byte % 16 else byte / 16
    ((b4Elem (hd + code <<< (16 + 4 * i)) i).1, 0)

/-- AVal(L, i, k). -/
def aVal (s : State) (c : CoreId) (r : Routine) (i k : Nat) : FRes := operand s r.fa (latKey c r.lat.toNat i) k
/-- BVal(j, k). -/
def bVal (s : State) (c : CoreId) (r : Routine) (j k : Nat) : FRes := operand s r.fb (colKey c j) k

/-- x × 2^e. -/
def FVal.scale (v : FVal) (e : Int) : FVal :=
  match v with
  | .fin n m f => .fin n m (f + e)
  | v => v

/-- Esc(i) as a power of two (R156). -/
def escOf (k : CoreSt) (r : Routine) (i : Nat) : Int :=
  if r.es then ((k.r.scale.toList.getD (i / 8) 128).toNat : Int) - 128 else 0

/-- One group added to a cell (R56, R57): new pattern and the flags NV and OF. -/
def groupAdd (sub : Bool) (old : Nat) (ps : List FRes) : Nat × Byte :=
  let g := groupSum ps
  let q := roundF .f32 .rne false g.1
  let t := toF .f32 q.1
  let a := addF .rne (toF .f32 old) (if sub then t.flip else t)
  let r := roundF .f32 .rne false a.1
  (r.1, (g.2 ||| q.2 ||| a.2 ||| r.2) &&& (flNV ||| flOF))

def mulR (a b : FRes) : FRes :=
  let p := mulF a.1 b.1
  (p.1, a.2 ||| b.2 ||| p.2)

/-- A product of exact integers has no sign when it is 0 (R56; DEDUCED, log entry 84). -/
def intProduct (p : FRes) : FRes := if p.1.isZero then (.fin false 0 0, p.2) else p

/-- Rounded exact sum, in FP32. -/
def sumRound (xs : List FVal) : Nat := (roundF .f32 .rne false (groupSum (xs.map fun x => (x, 0))).1).1
def addRound (a b : Nat) : Nat := (roundF .f32 .rne false (addF .rne (toF .f32 a) (toF .f32 b)).1).1

/-- CheckStep (R169). A non-finite operand declines the later check (R170). -/
def checkStep (sub : Bool) (i8 : Bool) (rows : List (List FRes)) (cols : List (List FRes)) (x : Check) : Check :=
  let n := ((cols.head?.map List.length).getD 0)
  let at_ (l : List FRes) (k : Nat) : FVal := (l.getD k (.nan, 0)).1
  let a := (upto 0 n).map fun k => toF .f32 (sumRound (rows.map fun r => at_ r k))
  let w := (upto 0 n).map fun k => toF .f32 (sumRound (rows.map fun r => (at_ r k).mag))
  let step (h g : Tbl (BitVec 32)) (j : Nat) (b : List FRes) : Tbl (BitVec 32) × Tbl (BitVec 32) :=
    let bs := b.map (·.1)
    let dh := toF .f32 (sumRound (List.zipWith (fun x y => (mulF x y).1) a bs))
    let dg := sumRound (List.zipWith (fun x y => (mulF x y.mag).1) w bs)
    let h0 := (tget 0 h j).toNat
    let h1 := (roundF .f32 .rne false (addF .rne (toF .f32 h0) (if sub then dh.flip else dh)).1).1
    (tset h j (BitVec.ofNat 32 h1), tset g j (BitVec.ofNat 32 (addRound (tget 0 g j).toNat dg)))
  let hg := (List.zip (List.range cols.length) cols).foldl (fun e jb => step e.1 e.2 jb.1 jb.2) (x.h, x.g)
  { x with
    h := hg.1, g := hg.2, steps := x.steps + 1, allI8 := x.allI8 && i8
    special := x.special || (rows ++ cols).any fun l => l.any fun v => !v.1.isFin }

/-- Bytes that elements k to k + n - 1 of an operand of type t take: first byte and count (R160, R161). -/
def operandSpan (t : ElemTy) (k n : Nat) : Nat × Nat :=
  match t with
  | .bf16 => (2 * k, 2 * n)
  | .f32 => (4 * k, 4 * n)
  | .b4 => (64 * (k / 124), 64 * ((k + n - 1) / 124 - k / 124 + 1))
  | _ => (k, n)

/-- Column spans that a step of n products reads: key and bytes, with the column. -/
def stepCols (c : CoreId) (r : Routine) (n : Nat) : List (Nat × Nat × Nat) :=
  let (b, lb) := operandSpan r.fb r.bk.toNat n
  (upto 0 r.nc).map fun j => (colKey c j b, lb, j)

/-- Reads of some spans of storage by core c's engines meet every error in them (R395, R397). -/
def noteSpans (c : CoreId) (l : List (Nat × Nat)) (s : State) : State := l.foldl (fun s e => noteError (islOf c) e.1 e.2 s) s

/-- What a step of n products reads that is poisoned (R382): a latch row, by the bundle of the lload that filled it; a piece of a
column slice, by its address in the layout of a copy's base; the accumulator, by the bundle that wrote it last; or a scale block, by that
of its scpad; with the unit that detected the error. -/
def stepPoison (s : State) (c : CoreId) (r : Routine) (n : Nat) : Option (Bool × W64 × Nat) :=
  let k := s.core.get c
  if s.dev.poison.isEmpty && s.dev.errs.isEmpty && k.r.scBad.isEmpty then none
  else
    let bad (key len : Nat) : Option Nat := s.badUnit (islOf c) key len
    let (a, la) := operandSpan r.fa r.lk.toNat n
    let b := (operandSpan r.fb r.bk.toNat n).1
    ((((upto 0 r.nr).findSome? fun i => bad (latKey c r.lat.toNat i a) la).map fun u => (true, k.latBy[r.lat.toNat]'r.lat.isLt, u)).or
      ((stepCols c r n).findSome? fun e => (bad e.1 e.2.1).map fun u =>
        (false, BitVec.ofNat 64 (4 * 2 ^ 61 + b / 64 * 64 * 128 + e.2.2), u))).or
    ((((upto 0 r.nr).findSome? fun i => bad (accKey c r.acc.toNat i 0) (4 * r.nc)).map fun u => (true, k.accBy[r.acc.toNat]'r.acc.isLt, u)).or
      (if r.es then (k.r.scBad.find? fun e => decide (8 * e.1.toNat < r.nr)).map fun e => (true, e.2) else none))

/-- MacStep(n, ±1) on the active cells, once its index limits hold (R156): the machine and the flags. Whether an operand was infinite
or NaN, and whether every pair was i8, is kept of steps without CK too (R170). -/
def macStep (c : CoreId) (r : Routine) (n : Nat) (sub : Bool) (s : State) : State × Byte :=
  let k := s.core.get c
  let i8 : Bool := r.fa == .i8 && r.fb == .i8
  let rows : List (List FRes) := (upto 0 r.nr).map fun i =>
    let e := escOf k r i
    (upto 0 n).map fun x => let v := aVal s c r i (r.lk.toNat + x); (v.1.scale e, v.2)
  let cols : List (List FRes) := (upto 0 r.nc).map fun j => (upto 0 n).map fun x => bVal s c r j (r.bk.toNat + x)
  let prod (a b : FRes) : FRes := if i8 then intProduct (mulR a b) else mulR a b
  let cells : List (Nat × Nat × Nat × Byte) := (List.zip (List.range r.nr) rows).flatMap fun ir =>
    (List.zip (List.range r.nc) cols).map fun jc =>
      (ir.1, jc.1, groupAdd sub (accRd s c r.acc.toNat ir.1 jc.1) (List.zipWith prod ir.2 jc.2))
  let s1 := { s with mem := memWrs s.mem (cells.flatMap fun (x : Nat × Nat × Nat × Byte) => cellsOf (accKey c r.acc.toNat x.1 x.2.1) x.2.2.1 4) }
  let s2 := s1.modC c fun k =>
    k.modCheck r.acc fun x =>
      if r.ck then checkStep sub i8 rows cols x
      else { x with allI8 := x.allI8 && i8, special := x.special || (rows ++ cols).any fun l => l.any fun v => !v.1.isFin }
  (s2, cells.foldl (fun f x => f ||| x.2.2.2) 0)

/-! Latch path (R162). -/

/-- Matrix cycles of an lload. -/
def lloadCycles (d : W64) : Nat := ceilDiv (lloadNrw d + 1) 4 + 6

/-- Rows of an lload, read from released pad stores, each 64-byte piece with its poison, and zeroed rows above them, which are clean
(R162, R381). -/
def lloadRows (c : CoreId) (lat : BitVec 3) (d : W64) (s : State) : State :=
  let s1 := (upto 0 (lloadNrw d + 1)).foldl (fun s i =>
    let src := padKey c (lloadBase d + i * lloadStr d)
    let dst := latKey c lat.toNat i 0
    (List.range 4).foldl (fun s j => carryPoison (islOf c) (src + 64 * j) (dst + 64 * j) 64 s)
      { s with mem := memWrs s.mem (cellsAt dst (memBytes s.mem src 256)) }) s
  if d.getLsbD 47 then
    let lo := latKey c lat.toNat (lloadNrw d + 1) 0
    cleanRange lo (latKey c lat.toNat 128 0) { s1 with mem := memZero s1.mem lo (latKey c lat.toNat 128 0) }
  else s1

/-! Drain path (R167 to R173). -/

/-- One output element of the epilogue: pattern and flags (R168). -/
def epilogue (e : W64) (ot : ElemTy) (cell : Nat) (bias : Nat) : Nat × Byte :=
  let rm := rmOfCode (e.extractLsb' 33 2)
  let sat := e.getLsbD 35
  let act := (e.extractLsb' 9 2).toNat
  let v := (toF .f32 cell).scale (((e.extractLsb' 0 8).toNat : Int) - 128)
  let b := if e.getLsbD 8 then addF rm v (toF .f32 bias) else (v, 0)
  let sn := snanFlag .f32 cell ||| (if e.getLsbD 8 then snanFlag .f32 bias else 0)
  let t := roundF .f32 rm sat b.1
  let tv := toF .f32 t.1
  let neg := tv.lt (.fin false 0 0)
  let u := if act = 1 ∧ !tv.isNan ∧ !(FVal.fin false 0 0).lt tv then (0, (0 : Byte))
    else if act = 2 ∧ neg then roundF .f32 rm sat (tv.scale (-3))
    else (t.1, 0)
  let out := fromF ot rm sat (toF .f32 u.1)
  (out.1, sn ||| b.2 ||| t.2 ||| u.2 ||| out.2)

/-- Absolute difference within (G + 1) × (2^-22 × g + 2^-140), or equal when the sums are exact (R170). A difference that is not a
number is within nothing, nor is anything within a tolerance that is none. -/
def columnPasses (x : Check) (sj hj gj : FVal) : Bool :=
  let d := (addF .rne sj hj.flip).1.mag
  if d.isNan then false
  else if x.allI8 && !gj.isNan && !(FVal.fin false 1 24).lt gj then d.isZero
  else
    let t := (addF .rne (gj.scale (-22)) (.fin false 1 (-140))).1
    let tau := (mulF (.fin false (x.steps + 1) 0) t).1
    !tau.isNan && !tau.lt d

/-- Outcome of a drain's check: bits of R173, failing columns, lowest of them (R170). It is declined for an operand or a drained cell
that is infinite or NaN, and for an infinite h, g or S. -/
def drainCheck (s : State) (c : CoreId) (a : BitVec 2) (nrw ncl : Nat) : BitVec 5 × List Nat :=
  let x := (s.core.get c).check[a.toNat]'a.isLt
  if !x.valid then (0x10, [])
  else
    let cells (j : Nat) : List FVal := (upto 0 128).map fun i => toF .f32 (accRd s c a.toNat i j)
    let col (j : Nat) : FVal × FVal × FVal :=
      (toF .f32 (sumRound (cells j)), toF .f32 (tget 0 x.h j).toNat, toF .f32 (tget 0 x.g j).toNat)
    let js := upto 0 (ncl + 1)
    let bad (j : Nat) : Bool :=
      let v := col j
      ((cells j).take (nrw + 1)).any (fun v => !v.isFin) || v.1.isInf || v.2.1.isInf || v.2.2.isInf
    if x.special || js.any bad then (0x04, [])
    else
      let fails := js.filter fun j => let v := col j; !columnPasses x v.1 v.2.1 v.2.2
      if fails.isEmpty then (0x03, []) else (0x09, fails)

/-- Which ckst counter an outcome adds to (R174). -/
def cksIndex (o : BitVec 5) : Fin 4 := if o.getLsbD 4 then 3 else if o.getLsbD 2 then 2 else if o.getLsbD 3 then 1 else 0

/-- Count a checksum outcome, and post a mismatch (R170, R174, R385). -/
def countCheck (c : CoreId) (o : BitVec 5) (fails : List Nat) (copy : Bool) (badr fadr : W64) (s : State) : State :=
  let i := cksIndex o
  let s1 := s.modC c fun k => { k with cks := k.cks.set i.val ((k.cks.get i) + 1) i.isLt }.count (21 + i.val) 1
  match fails with
  | [] => s1
  | f :: _ => eventRec c 0x32 badr fadr (BitVec.ofNat 64 (fails.length + f * 2 ^ 8 + copy.toNat * 2 ^ 15)) s1

/-- Key of byte a of a drain's destination. -/
def drainKey (s : State) (c : CoreId) (spc : BitVec 3) (a : Nat) : Nat := if spc = 1 then padKey c a else stgOf s c a

/-- First matrix cycle of a drain: the check, the copy of the cells, the output, and clr (R168 to R172). Bias bytes beyond
the pad are free values (log entry 1). The record of a drain without ck carries no outcome, its bits 0: DESIGN CHOICE (log entry 123). -/
def drainBegin (c : CoreId) (o : MxOp) (x : DrainArgs) (a : BitVec 2) (ck clr : Bool) (s : State) : State :=
  let k := s.core.get c
  let e := k.epi
  let badr := (e.extractLsb' 12 21).toNat
  let bias (j : Nat) : Nat :=
    if badr + 4 * j + 4 ≤ 0x200000 then memRdN s.mem (padKey c (badr + 4 * j)) 4
    else (Config.freeWord (s.free + j)).toNat % 2 ^ 32
  let (out, fails) := if ck then drainCheck s c a x.nrw x.ncl else ((0 : BitVec 5), [])
  let z := tyBits x.ot / 8
  let fadr := BitVec.ofNat 64 (x.spc.toNat * 2 ^ 61 + x.adr)
  let cells := (upto 0 (x.nrw + 1)).flatMap fun i => (upto 0 (x.ncl + 1)).map fun j =>
    (i, j, epilogue e x.ot (accRd s c a.toNat i j) (bias j))
  let writes := cells.flatMap fun v => cellsOf (drainKey s c x.spc (x.adr + v.1 * x.str + v.2.1 * z)) v.2.2.1 z
  let q : Tbl (BitVec 32) := cells.foldl (fun t v => tmod 0 t v.2.1 (· + BitVec.ofNat 32 v.2.2.1)) []
  let fl := cells.foldl (fun f v => f ||| v.2.2.2) 0
  let rec_ : Carry := ⟨q, out, BitVec.ofNat 7 x.nrw, BitVec.ofNat 7 x.ncl, tyCode x.ot, x.spc, BitVec.ofNat 27 x.adr⟩
  let s1 := if ck then countCheck c out fails false o.badr fadr s else s
  let s2 := s1.modC c fun k => { k with carry := k.carry.set a.toNat rec_ a.isLt, drun := some (o, writes, fl) }
  let s3 := { s2 with free := s2.free + x.ncl + 1 }
  if clr then
    let m := (upto 0 (x.nrw + 1)).foldl (fun m i => memZero m (accKey c a.toNat i 0) (accKey c a.toNat i (x.ncl + 1))) s3.mem
    { s3 with mem := m }.modC c fun k =>
      let k1 := if x.nrw = 127 ∧ x.ncl = 127 then resetCheck k a else spoilCheck k a
      { k1 with accBy := k1.accBy.set a.toNat o.badr a.isLt }
  else s3

/-- Columns whose bias a drain reads from the pad (R168). -/
def drainBias (e : W64) (x : DrainArgs) : List Nat :=
  if e.getLsbD 8 then (upto 0 (x.ncl + 1)).filter fun j => decide ((e.extractLsb' 12 21).toNat + 4 * j + 4 ≤ 0x200000) else []

/-- What a drain's epilogue reads that is poisoned: a drained cell, by the bundle that wrote its accumulator last, or a bias; and the unit
that detected the error (R382). -/
def drainPoison (s : State) (c : CoreId) (a : BitVec 2) (x : DrainArgs) : Option (Bool × W64 × Nat) :=
  if s.dev.poison.isEmpty && s.dev.errs.isEmpty then none
  else
    let k := s.core.get c
    let b := (k.epi.extractLsb' 12 21).toNat
    let bad (key len : Nat) : Option Nat := s.badUnit (islOf c) key len
    (((upto 0 (x.nrw + 1)).findSome? fun i => bad (accKey c a.toNat i 0) (4 * (x.ncl + 1))).map fun u => (true, k.accBy[a.toNat]'a.isLt, u)).or
      ((drainBias k.epi x).findSome? fun e => (bad (padKey c (b + 4 * e)) 4).map fun u => (false, pieceOf (BitVec.ofNat 64 (b + 4 * e)), u))

/-! The pad's third port (R26), which the latch and the drain path, the copy units and the bus share. -/

/-- Bank of a pad byte. -/
def padBank (a : Nat) : Nat := a / 32 % 64

/-- Banks of the pad that keys of core c lie in. -/
def banksOf (c : CoreId) (keys : List Nat) : List Nat :=
  ((keys.filter fun a => decide (padKey c 0 ≤ a) && decide (a < padKey c 0x200000)).map fun a => padBank (a - padKey c 0)).eraseDups

/-- Banks of row r of an lload, and of row i of a drain to the pad. -/
def lloadRow (d : W64) (r : Nat) : List Nat := (List.range 8).map fun j => padBank (lloadBase d + r * lloadStr d + 32 * j)
def DrainArgs.row (x : DrainArgs) (i : Nat) : List Nat :=
  if x.spc = 1 then ((List.range (x.ncl + 1)).map fun j => padBank (x.adr + i * x.str + j * (tyBits x.ot / 8))).eraseDups else []

/-- Banks from which an lload reads. -/
def lloadBanks (o : MxOp) : List Nat :=
  match o.kind with
  | .lload i _ =>
    let d := o.mp[i.toNat]'i.isLt
    ((List.range (lloadNrw d + 1)).flatMap (lloadRow d)).eraseDups
  | _ => []

/-- Two lists have something in common. -/
def meet (a b : List Nat) : Bool := a.any fun x => b.contains x

/-- Longest wait, in copy cycles, of n rows that a path moves from tick t on, w in each matrix cycle: a bank's third port serves one row
in a copy cycle, in order (R26; log entry 60). -/
def rowWait (k : CoreSt) (t : Nat) (banks : Nat → List Nat) (n w : Nat) : Nat :=
  ((List.range n).foldl (fun (a : Tbl Nat × Nat) i =>
    let q := (t + i / w * k.div.mtx - k.base) / k.div.cpy
    let served := (banks i).foldl (fun m b => max m (tget 0 a.1 b)) q
    ((banks i).foldl (fun m b => tset m b (served + 1)) a.1, max a.2 (served - q))) ([], 0)).2

/-- Ticks that a matrix path loses on the third port: m copy cycles to its own rows, and to the other path a free number, at most one
copy cycle for each of n accesses that may be served before its own; the copy units and the bus come after the array (R26; log entry
60). -/
def mxPortWait (c : CoreId) (m n : Nat) (s : State) : Nat × State :=
  let d := (s.core.get c).div.cpy
  if n = 0 then (m * d, s) else let (f, s1) := s.pick; ((m + f % (n + 1)) * d, s1)

/-- Banks of n bytes at a pad address. -/
def padBanks (a n : Nat) : List Nat := ((List.range (ceilDiv (a % 32 + n) 32)).map fun i => padBank (a + 32 * i)).eraseDups

/-- Banks that the operation on the drain path writes: a drain's output, or a carried record (R168, R173). -/
def drunBanks (c : CoreId) (d : MxOp × List Host.Cell × Byte) : List Nat :=
  banksOf c (d.2.1.map (·.1)) ++ match d.1.kind with
    | .cksnap i _ => padBanks ((d.1.mp[i.toNat]'i.isLt).toNat % 2 ^ 21) 528
    | _ => []

/-- Banks from which a drain reads its biases, in its first matrix cycle (R168). -/
def biasBanks (e : W64) (x : DrainArgs) : List Nat :=
  ((drainBias e x).map fun j => padBank ((e.extractLsb' 12 21).toNat + 4 * j)).eraseDups

/-- Copy cycle of core c at this tick. -/
def cpyCycle (s : State) (c : CoreId) : Nat := (s.tick - (s.core.get c).base) / (s.core.get c).div.cpy

/-- An engine's access takes the third port of some banks for this copy cycle. -/
def takeBanks (c : CoreId) (banks : List Nat) (s : State) : State :=
  let t := cpyCycle s c
  s.modC c fun k => { k with ports := (k.ports.filter fun e => e.1 == t) ++ banks.map fun b => (t, b) }

/-- Pad bytes that an operation reads as it begins, an mpld its microwords and a drain its biases, are kept away from an early access of
the core (log entry 79). -/
def beginKept (s : State) (c : CoreId) (o : MxOp) : Bool :=
  let e := (s.core.get c).epi
  match o.kind with
  | .mpld a b _ => s.padKept c (padKey c a) (4 * b) false
  | .drain .. => e.getLsbD 8 && s.padKept c (padKey c (e.extractLsb' 12 21).toNat) 512 false
  | _ => false

/-- An engine path of the matrix unit keeps away from bytes in the pad or in staging (R248; log entry 79). -/
def State.pathKept (s : State) (c : CoreId) (keys : List Nat) (write : Bool) : Bool := s.sideKept c 1 keys write || s.sideKept c 2 keys write

/-- Pad bytes of the rows that an lload reads are kept away from an early access of the core (log entry 79). -/
def lloadKept (s : State) (c : CoreId) (d : W64) : Bool :=
  (upto 0 (lloadNrw d + 1)).any fun i => s.padKept c (padKey c (lloadBase d + i * lloadStr d)) 256 false

/-- Begin the head of the latch path (R144). -/
def latchBegin (c : CoreId) (s : State) : State :=
  let k := s.core.get c
  match k.lq with
  | o :: r =>
    if k.lrun.isSome ∨ !k.depsReady o.deps then s
    else
      let (n, m) := match o.kind with
        | .lload i _ =>
          let d := o.mp[i.toNat]'i.isLt
          (lloadCycles d, rowWait k s.tick (lloadRow d) (lloadNrw d + 1) 4)
        | _ => (1, 0)
      let rival := k.drun.any fun d => meet (lloadBanks o) (drunBanks c d)
      let (w, s1) := mxPortWait c m (if rival then n - 6 else 0) s
      (s1.modC c fun k => { k with lq := r, lrun := some o }).after (n * k.div.mtx + w) (.ev .lloadComplete (argC c))
  | [] => s

/-- Begin the head of the drain path (R144, R167, R168, R173). -/
def drainPathBegin (c : CoreId) (s : State) : State :=
  let k := s.core.get c
  match k.dq with
  | o :: r =>
    if k.drun.isSome ∨ !k.depsReady o.deps ∨ beginKept s c o then s
    else
      let s1 := s.modC c fun k => { k with dq := r, drun := some (o, [], 0) }
      let d := k.div.mtx
      match o.kind with
      | .drain i a ck clr =>
        match drainArgs (o.mp[i.toNat]'i.isLt) (o.mp[(i + 1).toNat]'(i + 1).isLt) with
        | some x =>
          match drainPoison s c a x with
          | some (reg, v, u) => engineConsumes c reg v o.badr u (noteSpans c ((drainBias k.epi x).map fun j =>
              (padKey c ((k.epi.extractLsb' 12 21).toNat + 4 * j), 4)) (s1.modC c fun k => { k with drun := none }))
          | none =>
            let s2 := drainBegin c o x a ck clr s1
            let own := ((s2.core.get c).drun.map (drunBanks c)).getD []
            let rival (banks : List Nat) : Bool := k.lrun.any fun l => meet banks (lloadBanks l)
            let (w, s3) := mxPortWait c (rowWait k (s.tick + 12 * d) x.row (x.nrw + 1) 1)
              ((if rival own then x.nrw + 1 else 0) + (rival (biasBanks k.epi x)).toNat) (takeBanks c (biasBanks k.epi x) s2)
            s3.after ((x.nrw + 13) * d + w) (.ev .drainComplete (argC c))
        | none => s1.after (13 * d) (.ev .drainComplete (argC c))
      | .epicfg i =>
        (s1.modC c fun k => { k with epi := o.mp[i.toNat]'i.isLt }).after d (.ev .epicfgComplete (argC c))
      | _ =>
        let own := drunBanks c (o, [], 0)
        let (w, s2) := mxPortWait c 0 (if k.lrun.any fun l => meet own (lloadBanks l) then 2 else 0) s1
        s2.after (2 * d + w) (.ev .cksnapComplete (argC c))
  | [] => s

/-- The drain path is free again. -/
def endDrainPath (c : CoreId) (fl : Byte) (o : MxOp) (s : State) : State :=
  startMx c (finishMx c o fl (s.modC c fun k => { k with drun := none }))

/-- LLOAD_COMPLETE (R162): the rows are read and written whole, at this
moment of the load's time: DESIGN CHOICE (log entry 121); the token
completes. Each matrix cycle again while an early access of the core
keeps the path away (log entry 79). -/
def execLloadComplete (s : State) : Out :=
  let c := s.arg.c
  match (s.core.get c).lrun with
  | some o =>
    if (match o.kind with | .lload i _ => lloadKept s c (o.mp[i.toNat]'i.isLt) | _ => false) then
      .next (s.after (s.core.get c).div.mtx (.ev .lloadComplete (argC c)))
    else
    let s1 := match o.kind with
      | .lload i lat => (lloadRows c lat (o.mp[i.toNat]'i.isLt) s).modC c fun k => { k with latBy := k.latBy.set lat.toNat o.badr lat.isLt }
      | _ => s
    .next (startMx c (finishMx c o 0 (s1.modC c fun k => { k with lrun := none })))
  | none => .next s

/-- DRAIN_COMPLETE (R168): every byte is written, at this moment of the
drain's time: DESIGN CHOICE (log entry 121); the token completes, and the
epilogue's flags reach fst. Each matrix cycle again
while the path is kept away from its bytes (R248; log entry 79). -/
def execDrainComplete (s : State) : Out :=
  let c := s.arg.c
  match (s.core.get c).drun with
  | some (o, w, fl) =>
    if s.pathKept c (w.map (·.1)) true then .next (s.after (s.core.get c).div.mtx (.ev .drainComplete (argC c)))
    else .next (endDrainPath c fl o (markCells w none { s with mem := memWrs s.mem w }))
  | none => .next s

/-- EPICFG_COMPLETE (R167). -/
def execEpicfgComplete (s : State) : Out :=
  let c := s.arg.c
  match (s.core.get c).drun with
  | some (o, _, _) => .next (endDrainPath c 0 o s)
  | none => .next s

/-- Bytes of a carried record (R173). -/
def carryBytes (x : Carry) (key : Nat) : List Host.Cell :=
  (upto 0 128).flatMap (fun j => cellsOf (key + 4 * j) (tget 0 x.q j).toNat 4) ++
    cellsOf (key + 512) x.out.toNat 4 ++
    cellsOf (key + 516) (x.nrw.toNat + x.ncl.toNat * 2 ^ 8 + x.ot.toNat * 2 ^ 16) 4 ++ cellsOf (key + 520) 0 8

/-- CKSNAP_COMPLETE (R173): the carried record is in the pad, each matrix cycle again as for a drain. -/
def execCksnapComplete (s : State) : Out :=
  let c := s.arg.c
  match (s.core.get c).drun with
  | some (o, _, _) =>
    let w := match o.kind with
      | .cksnap i a => carryBytes ((s.core.get c).carry[a.toNat]'a.isLt) (padKey c ((o.mp[i.toNat]'i.isLt).toNat % 2 ^ 21))
      | _ => []
    if s.pathKept c (w.map (·.1)) true then .next (s.after (s.core.get c).div.mtx (.ev .cksnapComplete (argC c)))
    else .next (endDrainPath c 0 o (markCells w none { s with mem := memWrs s.mem w }))
  | none => .next s

/-! The limiter (R272 to R274, R380). -/

/-- Up allowances of SLR: six entries, up to the first 4. -/
def upsOf (slr : W64) : List Nat :=
  let l := (List.range 6).map fun i => natBits slr.toNat (18 + 3 * i) (16 + 3 * i)
  match l.findIdx? (· == 4) with
  | some i => l.take (i + 1)
  | none => l

def stepOf (slr : W64) : Nat := if slr.getLsbD 12 then 8 else 4
def gpsOf (slr : W64) : Nat := natBits slr.toNat 11 8
def gintOf (slr : W64) : Nat := natBits slr.toNat 7 0

/-- First up window after a grant. -/
def slewStart (slr : W64) : Slew :=
  match upsOf slr with
  | l :: r => .up l 0 r (l :: r) (stepOf slr)
  | [] => .up 4 0 [] [] (stepOf slr)

/-- The limiter's parameters in effect at a tick: a new value takes effect at the next grant slot (R380). -/
def IslandSt.slrAt (i : IslandSt) (t : Nat) : W64 := if i.slrFrom ≤ t then i.slr else i.slrOld

/-- RAMP_WINDOW (R273, R274): the window in progress ends and the next one opens; after the down window of allowance 1 the
array is cold. -/
def execRampWindow (s : State) : Out :=
  let c := s.arg.c
  .next (s.modC c fun k =>
    { k with slew := k.slew.nextWindow })

/-- RAMP_DOWN (R274): the down windows begin, under the parameters in effect now, and the fillers' energy is charged to the context
whose matrix bundle started the routine; or, at level 1, the array is cold at once. -/
def execRampDown (s : State) : Out :=
  let c := s.arg.c
  let k := s.core.get c
  let slr := (s.isl.get (islOf c)).slrAt s.tick
  let cold (s : State) : State := s.modC c fun k => { k with slew := .cold }
  match k.slew with
  | .up l _ _ _ _ =>
    if l ≤ 1 then .next (traceEv c 0x09 k.r.pc 1 (cold s))
    else
      let (n, s1) := s.pick
      let w := BitVec.ofNat 64 (n % 2 ^ 32)
      let cx := k.arrCtx
      .next (traceEv c 0x09 k.r.pc 1 ((s1.modC c fun k => { k with slew := .down (l - 1) 0 (upsOf slr) (stepOf slr) }).modD fun d =>
        { d with cx := d.cx.set cx.toNat (let x := d.cx[cx.toNat]'cx.isLt
            { x with filler := x.filler + w, energy := x.energy + w }) cx.isLt, total := d.total + w }))
  | _ => .next s

/-- Next grant slot at or after a tick (R272). -/
def nextSlot (slr : W64) (t : Nat) : Nat := ceilDiv t (gintOf slr) * gintOf slr

/-- The island's next grant slot at or after a tick is in the agenda: under the old interval up to the slot at which a new one takes
effect (R380). -/
def askSlot (y : Isl) (t : Nat) (s : State) : State :=
  let i := s.isl.get y
  if s.agenda.any fun e => match e.due with | .ev .slewGrantSlot a => a.y == y | _ => false then s
  else s.at (if t ≤ i.slrFrom then nextSlot i.slrOld t else nextSlot i.slr t) (.ev .slewGrantSlot (argY y))

/-- SLEW_GRANT_SLOT (R272): the pending requests of the island, lowest core first, as many as a slot grants. A grant takes
effect at the core's first matrix edge, this tick included. -/
def execSlewGrantSlot (s : State) : Out :=
  let y := s.arg.y
  let slr := (s.isl.get y).slrAt s.tick
  let ask := coreIds.filter fun c => islOf c == y && (s.core.get c).slew == .asked
  let now := ask.take (gpsOf slr)
  let grant (s : State) (c : CoreId) : State :=
    let k := s.core.get c
    let s1 := traceEv c 0x09 (s.core.get c).r.pc 0 (s.modI y fun i => i.count 9 1)
    if k.edge .mtx s.tick = s.tick then
      (s1.modC c fun k => { k with slew := slewStart slr }).after 0 (.array c)
    else s1.modC c fun k => { k with slew := .granted slr }
  let s1 := now.foldl grant s
  .next (if ask.length ≤ now.length then s1 else askSlot y (s.tick + 1) s1)

/-! The array. -/

def CoreSt.modR (k : CoreSt) (f : Routine → Routine) : CoreSt :=
  match k.arun with
  | .call r => { k with arun := .call (f r) }
  | _ => k

/-- The array path begins its head (R144, R149, R165, R166); mpld and mpent take no array cycle. -/
def arrayBegin (c : CoreId) : Nat → State → State
  | 0, s => s
  | n + 1, s =>
    let k := s.core.get c
    match k.arun, k.aq with
    | .idle, o :: r =>
      if k.astop ∨ !k.depsReady o.deps ∨ beginKept s c o then s
      else
        let s1 := s.modC c fun k => { k with aq := r }
        match o.kind with
        | .mpld a b w =>
          let s2 := noteSpans c [(padKey c a, 4 * b)] s1
          arrayBegin c n (s2.modC c fun k =>
            { k with
              ustore := (List.range b).foldl (fun t i =>
                tset t (w + i) (BitVec.ofNat 32 (memRdN s.mem (padKey c (a + 4 * i)) 4))) k.ustore
              ubad := ((List.range b).filterMap fun i => (s.badUnit (islOf c) (padKey c (a + 4 * i)) 4).map fun u => (w + i, o.badr, u)) ++
                k.ubad.filter fun e => decide (e.1 < w) || decide (w + b ≤ e.1) })
        | .mpent e v =>
          arrayBegin c n (s1.modC c fun k =>
            { k with uentry := if v.getLsbD 10 then tset k.uentry e.toNat (v.toNat % 1024) else tdel k.uentry e.toNat })
        | .mcall e lat acc ck ovw =>
          let s2 := if ovw then accClear c acc s1 else s1
          s2.modC c fun k =>
            let k1 := if ovw then resetCheck k acc else if ck then k else spoilCheck k acc
            { k1 with
              rix := e
              arrCtx := k.ctx
              accBy := k1.accBy.set acc.toNat o.badr acc.isLt
              arun := .call ⟨o, tget 0 k.uentry e.toNat, .bf16, .bf16, false, lat, acc, ck, 0, 0, 0, 0, 128, 128, 0, 0,
                2, false, true, false, false, 0, 0⟩ }
        | .azero a => s1.modC c fun k => { k with arun := .azero o 4, arrCtx := k.ctx, accBy := k.accBy.set a.toNat o.badr a.isLt }
        | _ => s1
    | _, _ => s

/-- Array operation done: it leaves the array with this matrix cycle, and its results, token and flags follow after n matrix
cycles. A routine leaves it with its fin, so that the next operation begins behind the fin's cycle also where control operations have carried
that past the last array cycle: DESIGN CHOICE (log entry 73). -/
def leaveArray (c : CoreId) (o : MxOp) (fl : Byte) (n : Nat) (i : Instr) (s : State) : State :=
  (s.modC c fun k => { k with arun := .idle, arbTo := s.tick + k.div.mtx, tail := k.tail ++ [(o, fl)] }).after (n * (s.core.get c).div.mtx) (.ev i (argC c))

/-- One cycle of an array that moves: the cycle is spent on what holds it, or the micro-operation at PC begins. -/
def arrayCycle (c : CoreId) (s : State) : State :=
  match (s.core.get c).arun with
  | .idle => s
  | .azero o n =>
    let s1 := match o.kind with
      | .azero a => if n = 4 then (accClear c a s).modC c fun k => resetCheck k a else s
      | _ => s
    if n ≤ 1 then leaveArray c o 0 8 .azeroComplete s1
    else s1.modC c fun k => { k with arun := .azero o (n - 1) }
  | .call r =>
    if r.left = 0 then s.after 0 (.micro c)
    else
      let s1 := s.modC c fun k => k.modR fun r =>
        { r with left := r.left - 1, ahead := r.left == 1, since := if r.lead then r.since + 1 else 0 }
      if r.left = 1 then s1.after 0 (.micro c) else s1

/-- One cycle of the pending scale writes: each reads its pad byte at its edge, and lands after six (R164). Where the limiter withholds
that edge, the byte is read in the first counted cycle after it: DESIGN CHOICE (log entry 89); where an early access of the core keeps the path
from that byte, in the first cycle in which it does not (log entry 79). -/
def scaleCycle (c : CoreId) (s : State) : State :=
  let k := s.core.get c
  if k.scw.isEmpty then s
  else
    let step (w : ScaleWr) : ScaleWr :=
      if w.at_ ≤ s.tick ∧ !(w.src.any fun a => s.padKept c a 1 false) then
        match w.src with
        | some a => { w with left := w.left - 1, src := none, val := memRd s.mem a, bad := s.badUnit (islOf c) a 1 }
        | none => { w with left := w.left - 1 }
      else w
    let l := k.scw.map step
    let read := k.scw.filterMap fun w => if (step w).src.isNone then w.src else none
    let s1 := noteSpans c (read.map fun a => (a, 1)) (s.modC c fun k => { k with scw := l })
    if l.any (·.left == 0) then s1.after k.div.mtx (.ev .scaleWriteLand (argC c)) else s1

/-- A cycle in which the array and the pending scale writes move. -/
def moveArray (c : CoreId) (s : State) : State := arrayCycle c (scaleCycle c s)

/-- A cycle in which they stand still (R164, R273). -/
def holdArray (c : CoreId) (s : State) : State :=
  s.modC c fun k => k.modR fun r => { r with since := if r.lead then r.since + 1 else r.since }

/-- Cycle position of a window advances. -/
def Slew.bump : Slew → Slew
  | .up l p r u st => .up l (p + 1) r u st
  | .down l p u st => .down l (p + 1) u st
  | x => x

/-- Up window that ends a ramp-down of allowance a, under the parameters in effect now (R274, R380). -/
def restart (a : Nat) (ups : List Nat) (st : Nat) : Slew := .up a 0 (ups.dropWhile (· ≤ a)) ups st

/-- What the array of core c does in this matrix cycle, under the limiter (R272 to R274), which governs compute cores only. -/
def arrayPhase (c : CoreId) (s : State) : State :=
  let k := s.core.get c
  let slr := (s.isl.get (islOf c)).slrAt s.tick
  let bump (s : State) : State := s.modC c fun k => { k with slew := k.slew.bump }
  if isMgmt c then moveArray c s
  else match k.slew with
  | .up l p _ _ st =>
    if allowed l st ≤ p then bump (holdArray c s)
    else if activeNow k then bump (moveArray c s)
    else (s.after 0 (.array c)).now .rampDown (argC c)
  | .down a _ _ _ =>
    if activeNow k then bump (moveArray c (s.modC c fun k => { k with slew := restart a (upsOf slr) (stepOf slr) }))
    else bump (moveArray c s)
  | .cold =>
    if activeNow k then holdArray c (askSlot (islOf c) s.tick (s.modC c fun k => { k with slew := .asked }))
    else moveArray c s
  | .asked =>
    if activeNow k then holdArray c s else moveArray c (s.modC c fun k => { k with slew := .cold })
  | .granted _ => s

/-- The matrix clock of core c has something to do in later cycles. -/
def mxBusy (k : CoreSt) : Bool :=
  !k.lq.isEmpty || !k.aq.isEmpty || !k.dq.isEmpty || k.arun != .idle || !k.scw.isEmpty || k.slew != .cold

/-- Class of the matrix cycle that begins now, and the bundle address that it is charged to; a filler cycle is no cycle of a call (R274,
R394). -/
def cycleClass (k : CoreSt) : Nat × W64 :=
  match k.arun, fillerBegins k (activeNow k) with
  | .call r, false => (0, r.op.badr)
  | .azero o _, false => (0, o.badr)
  | _, _ =>
    match k.aq with
    | [] => (4, k.lastArr)
    | o :: _ =>
      let waits (n : Nat) : Bool := o.deps.any fun e =>
        let x := k.tok[e.1.toNat]'e.1.isLt
        x.pending && decide (x.gen ≤ e.2) && x.src == n
      (if waits 1 then 1 else if waits 2 then 2 else 3, o.badr)

/-- A matrix cycle of core c: the paths begin what they can (R144), a window that is over ends, and the array has its
cycle. -/
def matrixCycle (c : CoreId) (s : State) : State :=
  let s1 := arrayBegin c ((s.core.get c).aq.length + 1) (drainPathBegin c (latchBegin c (classUp c s)))
  let s2 := s1.modC c fun k =>
    { k with mlast := s.tick, slew := match k.slew with | .granted slr => slewStart slr | x => x }
  let k := s2.core.get c
  let s3 := if isMgmt c then s2 else let x := cycleClass k; charge c x.1 1 x.2 s2
  let s4 := s3.after 0 (.array c)
  let s5 := if mxBusy k then s4.after k.div.mtx (.mcyc c) else s4
  if windowOver k.slew then s5.now .rampWindow (argC c) else s5

end Sys2Proof.Machine
end

