-- ==== Sys2Proof/Machine/Launch.lean ====
section
/-! DEFINITION. The steps of the dispatcher: the launch window, binding, queues and their periods, pre-emption, and the
launch and lpoll answers (R225 to R227, R320 to R330, R363, R384). -/

namespace Sys2Proof.Machine

/-! Device launches (R225, R227). -/

/-- The record of a device launch is read once every earlier access of the core has performed: it is a release (R225, R246; log
entry 80). -/
def performLaunch (c : CoreId) (o : Cop) (addr : W64) (s : State) : State :=
  if s.earlierOpen c o.seq then retryCop c o.id s
  else let (w, s1) := launchAnswer c addr s; dispatch (finishCop c o.id w s1)

/-- State of a launch as lpoll reads it (R227). An entry that no launch has taken reads as stale, and handle bits [31:28] are not looked at:
DESIGN CHOICE (log entry 128). -/
def launchState (s : State) (h : BitVec 32) : Nat :=
  match tfind s.dev.pool (h.extractLsb' 0 12).toNat with
  | none => 4
  | some l =>
    if l.sn ≠ h.extractLsb' 12 16 then 4
    else match l.st with | .pending => 0 | .running => 1 | .complete => 2 | .purged => 3 | .free => 4

def performLpoll (c : CoreId) (o : Cop) (h : BitVec 32) (s : State) : State :=
  finishCop c o.id (BitVec.ofNat 64 (launchState s h)) s

/-! The launch window (R319, R320). -/

/-- Key of slot m of queue q. -/
def slotKey (q m : Nat) : Nat := winKey (q % 256 * 4096 + m % 16 * 256)

/-- HOST_LAUNCH_TRIGGER (R320): 0x5A reaches the GO byte. The record is read once, and its status follows within 4 us. -/
def execHostLaunchTrigger (s : State) : Out :=
  let q := s.arg.k % 256
  let m := s.arg.m % 16
  if (tfind s.dev.parsing (q * 16 + m)).isSome then .next (s.modD fun d => { d with collide := d.collide + 1 })
  else
    let s1 := { s with mem := memWr s.mem (slotKey q m + 255) 0x5A }
    if !s.dev.lwb.getLsbD 0 then .next s1
    else
      let r := memRdN s1.mem (slotKey q m) 256
      let (w, s2) := takeRecord r 0 true none s1
      let (n, s3) := s2.pick
      let s4 := s3.modD fun d => { d with parsing := tset d.parsing (q * 16 + m) w }
      .next (dispatch (s4.after (n % (4 * Config.usTicks) + 1) (.ev .launchStatusWrite { Arg.zero with k := q, m := m })))

/-- LAUNCH_STATUS_WRITE (R320): STS, then GO, then the MSI-X vector. -/
def execLaunchStatusWrite (s : State) : Out :=
  let q := s.arg.k % 256
  let m := s.arg.m % 16
  match tfind s.dev.parsing (q * 16 + m) with
  | none => .next s
  | some w =>
    let irq := (memRd s.mem (slotKey q m + 0x26)).getLsbD 1 && (s.dev.sq.toList.getD q SchedQ.init).irq
    let s1 := { s with mem := memWr (memWrs s.mem (cellsOf (slotKey q m + 0xF0) w.toNat 8)) (slotKey q m + 255) 0 }
    .next (s1.modD fun d =>
      { d with parsing := tdel d.parsing (q * 16 + m), msix := if irq then d.msix ++ [BitVec.ofNat 8 q] else d.msix })

/-! Binding. -/

/-- The lines of n bundles from va on that can be fetched come into the buffer, up to the first that cannot be decoded. -/
def walkLines (c : CoreId) : Nat → Nat → State → State
  | 0, _, s => s
  | n + 1, va, s =>
    match needLine c va s with
    | .error _ => s
    | .ok s1 =>
      match bundleLen c va s1 with
      | .error _ => s1
      | .ok (m, s2) => walkLines c n (va + 2 * m) s2

/-- The lines of a loop body that an acting loop instruction at the head of an image decodes come into the buffer, and their fetch
counts as a fetch hold (R102). A body that cannot be decoded is found when the loop issues. -/
def walkBody (c : CoreId) (i : Option Instr) (nxt : Nat) (s : State) : State :=
  match i with
  | some (.loop g _ ii _) | some (.sloop g _ ii _) =>
    if guardOk g { s with cur := c } ∧ (s.core.get c).r.mode = .idle ∧ ii ≠ 0 then walkLines c ii.toNat nxt s else s
  | _ => s

/-- Lines that have come into core c's fetch buffer since it held some. -/
def newLines (c : CoreId) (old : List FetchLine) (s : State) : List FetchLine := (s.core.get c).ifb.filter fun l => !old.any (·.va == l.va)

/-- They come through the shelves of their homes (R343). -/
def fillCode (c : CoreId) (old : List FetchLine) (s : State) : State :=
  (newLines c old s).foldl (fun s l => match translate s c (64 * l.va) 2 .ex with
    | .ok pa x => touchLine c (pa / 128) (pageX s c x).1 false s
    | _ => s) s

/-- The first bundle of core c is fetched while it is bound, so that it issues within the bound of R330; one that cannot be fetched traps at
the core's first edge. -/
def fetchFirst (c : CoreId) (s : State) : State :=
  let k := s.core.get c
  match fetchBundle c k.r.pc.toNat s with
  | .error _ => s
  | .ok (img, nxt, t) => fillCode c k.ifb (walkBody c (decodeSlot ((imageSlots img).headD .none)) nxt t)

/-- Tick of a core's first edge after a bind at tick t that loads u units of 64 bytes: one at which every 4-tick clock has an edge, free
within (1024 + u) cycles of d ticks (R330; log entry 1). -/
def bindTick (n t u d : Nat) : Nat :=
  let lo := t / 4 + 1
  (lo + n % ((t + (1024 + u) * d) / 4 + 1 - lo)) * 4

/-- The core's time starts at tick t with its first edge under its effective divisors (R12), at which every 4-tick clock has an edge, so
that at divisor 4 its cycles are the controllers' and the limiter's (R210, R272); its cycle classes go on from there (R394). -/
def firstEdge (c : CoreId) (t : Nat) (s : State) : State :=
  let s1 := (classUp c s).modC c fun k => { k with div := effDiv s c, base := t, ck := k.r, ckSeq := k.seq * 8 - 1, mlast := t - 1 }
  if s1.has (.edge c) then s1 else s1.at t (.edge c)

/-- What a saved stage had beside its slot: poison marks of its vector registers, scale blocks and microwords (R381), and the pushes
whose accesses its own follow (R219). -/
def restoreMarks (c : CoreId) (e : Saved) (s : State) : State :=
  s.modC c fun k => { k with r := { k.r with poison := e.poison, scBad := e.scBad }, ubad := e.ubad, after := e.src.map fun x => (0, x) }

/-- Bind core c to stage t of launch n (R14, R330): its time counts for the queue, its storage, image parts and a saved state are
loaded, and it issues from a free edge within the bound on. -/
def bindCore (c : CoreId) (n : Nat) (l : Launch) (t : Nat) (s : State) : State :=
  let s1 := accrue l.que s
  let s2 := if (s1.core.get c).ctx = l.ctx then s1 else zeroCore c s1
  let s3 := loadImage c l t (bindRegs c n l t s2)
  let units := loadUnits s3 n l t
  let s4 := match (s3.ctxOf l.ctx).slots.find? fun e => e.stg == t && e.launch == n with
    | some e => (restoreMarks c e (restoreSlot c e.slot s3)).modD fun d =>
        let x := d.cx[l.ctx.toNat]'l.ctx.isLt
        { d with cx := d.cx.set l.ctx.toNat { x with slots := x.slots.filter fun y => y.slot != e.slot } l.ctx.isLt }
    | none => s3
  let s5 := s4.modC c fun k => { k with bg := (queueKey s l.que).1 == 1 }
  let (x, s6) := (chargeCtx l.ctx s5).pick
  trimShelf (islOf c) (planOverrun l.que (firstEdge c (bindTick x s6.tick units (effDiv s6 c).ctl) (fetchFirst c s6)))

/-- BIND (R330): core c is bound to stage k of launch n, if the core is free, the launch runs and that stage is to have it. -/
def execBind (s : State) : Out :=
  let c := s.arg.c
  match tfind s.dev.pool s.arg.n with
  | none => .next s
  | some l =>
    if l.st = .running ∧ freeCore s c ∧ stageFor s s.arg.n l c = some s.arg.k then
      .next (dispatch (bindCore c s.arg.n l s.arg.k s))
    else .next s

/-- The must-save set of a launch that starts: restored from the hold-up store, or its report is zeroed (R277). -/
def startSet (c : Option CoreId) (l : Launch) (s : State) : State :=
  if l.rst then restoreSet (if l.msvOn then c else none) l s
  else match l.msvOn, c with
    | true, some c => zeroReport c l s
    | _, _ => s

/-- LAUNCH_START (R322, R325, R328): the launch of entry n starts, MINC cores are bound to each of its stages in this one step, its
must-save set is restored, and phase 0 begins. A launch whose first identifiers cannot be read is over before a core is bound to it
(R322). -/
def execLaunchStart (s : State) : Out :=
  let n := s.arg.n
  match tfind s.dev.pool n with
  | none => .next s
  | some l =>
    if !mayStart s n l then .next s
    else match startCores s l with
      | none => .next s
      | some cs =>
        let lowest (t : Nat) : Option CoreId := (cs.find? fun e => e.2 == t).map (·.1)
        let s1 := clearBarriers l (enterRegions n l (s.modL n fun l => { l with st := .running, lead := lowest 0 }))
        let s2 := feed (min l.nit ((l.stages.head?.map (·.cap)).getD 0)) n s1
        if (tfind s2.dev.pool n).any (·.st != .running) then .next (dispatch s2)
        else
          let s3 := startSet (lowest l.msvStg) l (cs.foldl (fun s e => bindCore e.1 n l e.2 s) s2)
          .next (dispatch (startPhase n 0 (islIds.foldl (fun s y => trimShelf y s) s3)))

/-! Queues (R327 to R329). -/

def queueNo (k : Nat) : BitVec 8 := BitVec.ofNat 8 k
def State.sqOf (s : State) (q : BitVec 8) : SchedQ := s.dev.sq[q.toNat]'q.isLt
def State.modQ (s : State) (q : BitVec 8) (f : SchedQ → SchedQ) : State :=
  s.modD fun d => { d with sq := d.sq.set q.toNat (f (d.sq[q.toNat]'q.isLt)) q.isLt }

/-- PND of a queue. -/
def pendingOf (s : State) (q : BitVec 8) : Nat :=
  (s.dev.pool.filter fun e => e.2.st == .pending && e.2.que == q).length

/-- Start the periods of queue q if the write at hand makes them run. -/
def startPeriods (q : BitVec 8) (s : State) : State :=
  let x := s.sqOf q
  if x.start.isSome ∨ !x.en ∨ x.perNext = 0 then s
  else
    let s0 := (queueCores s q).foldl (fun s c => s.modC c fun k => { k with bg := false }) s
    let s1 := s0.modQ q fun x => { x with per := x.perNext, bud := x.budNext, start := some s.tick, index := 0, used := 0,
                                          seen := s.tick, raised := false }
    planOverrun q (s1.after (x.perNext * Config.usTicks) (.ev .periodBoundary { Arg.zero with k := q.toNat }))

/-- QCTL_WRITE (R327). -/
def execQctlWrite (s : State) : Out :=
  let q := queueNo s.arg.k
  let v := s.arg.v
  let busy := pendingOf s q ≠ 0 ∨ !(queueCores s q).isEmpty
  let s0 := accrue q s
  let s1 := s0.modQ q fun x =>
    { x with ctx := if busy then x.ctx else v.extractLsb' 8 7, irq := v.getLsbD 2, hold := v.getLsbD 1, en := v.getLsbD 0
             start := if v.getLsbD 0 then x.start else none }
  .next (dispatch (startPeriods q s1))

/-- The sum of BUD/PER over the queues of q's partition is at most its usable cores (R327). -/
def admitted (s : State) (q : BitVec 8) (per bud : Nat) : Bool :=
  let p := partOfQueue s q.toNat
  let qs := (List.range 256).filter fun i => partOfQueue s i == p
  let f (a : Nat × Nat) (i : Nat) : Nat × Nat :=
    let x := s.dev.sq.toList.getD i SchedQ.init
    let (n, d) := if i = q.toNat then (bud, per) else (x.budNext, x.perNext)
    if d = 0 then a else (a.1 * d + n * a.2, a.2 * d)
  let t := qs.foldl f (0, 1)
  let cores := (coreIds.filter fun c => !isMgmt c && !fenced s c && s.partOf (islOf c) == p).length
  decide (t.1 ≤ cores * t.2)

/-- A write of QPER or QBUD: refused admission sets the flag; a value waits for the next boundary, or starts the periods. -/
def perBudWrite (q : BitVec 8) (per bud : Nat) (s : State) : State :=
  if !admitted s q per bud then s.modD fun d => { d with admf := true }
  else startPeriods q (s.modQ q fun x => { x with perNext := per, budNext := bud })

/-- QPER_WRITE (R327). -/
def execQperWrite (s : State) : Out :=
  let q := queueNo s.arg.k
  .next (dispatch (perBudWrite q (s.arg.v.extractLsb' 0 20).toNat (s.sqOf q).budNext s))

/-- QBUD_WRITE (R327). -/
def execQbudWrite (s : State) : Out :=
  let q := queueNo s.arg.k
  .next (dispatch (perBudWrite q (s.sqOf q).perNext (s.arg.v.extractLsb' 0 32).toNat s))

/-- PERIOD_BOUNDARY (R327, R328): USED is 0 again, waiting values take effect, and the next period starts if PER is not 0. -/
def execPeriodBoundary (s : State) : Out :=
  let q := queueNo s.arg.k
  let x := s.sqOf q
  match x.start with
  | none => .next s
  | some t =>
    if s.tick ≠ t + x.per * Config.usTicks then .next s
    else
      let s1 := (queueCores s q).foldl (fun s c => s.modC c fun k => { k with bg := false }) s
      let s2 := s1.modQ q fun x =>
        { x with per := x.perNext, bud := x.budNext, used := 0, seen := s.tick, raised := false, index := x.index + 1
                 start := if x.perNext = 0 then none else some s.tick }
      let s3 := if x.perNext = 0 then s2
        else s2.after (x.perNext * Config.usTicks) (.ev .periodBoundary { Arg.zero with k := q.toNat })
      .next (dispatch (planOverrun q s3))

/-! Pre-emption (R363). -/

/-- PREEMPTION_REQUEST (R363). -/
def execPreemptionRequest (s : State) : Out := .next (requestPreempt s.arg.c s)

/-- The pushes that the accesses of a core still follow: those of the items that it has pulled (R219). -/
def savedSrc (s : State) (k : CoreSt) : List (CoreId × Nat) := (k.after.filter s.pushOpen).map (·.2)

/-- PREEMPTION_SAVE_DONE (R363): the slot that the core took at its safe point is written and the core leaves its stage. -/
def execPreemptionSaveDone (s : State) : Out :=
  let c := s.arg.c
  let k := s.core.get c
  if k.run ≠ .saving then .next s
  else match k.saveTo, k.launch.bind fun n => (tfind s.dev.pool n).map fun l => (n, l) with
    | some i, some (n, l) =>
      let s1 := (saveSlot c i (handleWord n l.sn) (chargeCtx k.ctx s)).modD fun d =>
        let x := d.cx[k.ctx.toNat]'k.ctx.isLt
        { d with cx := d.cx.set k.ctx.toNat { x with slots := x.slots ++ [⟨i, k.stg.toNat, n, k.r.held.isSome, k.r.poison, savedSrc s k, k.r.scBad, k.ubad⟩] } k.ctx.isLt }
      .next (unbindCore c s1)
    | _, _ => .next (startEdges c (s.modC c fun k => { k with run := .running, preempt := false, saveTo := none }))

/-- BUDGET_OVERRUN (R329): the trap once in a period, OVR, and from now on pre-emption for an eligible queue (`dispatch`). -/
def execBudgetOverrun (s0 : State) : Out :=
  let q := queueNo s0.arg.k
  let s := accrue q s0
  let x := s.sqOf q
  let cores := queueCores s q
  if x.start.isNone ∨ x.raised ∨ cores.isEmpty ∨ x.used < x.bud * Config.usTicks then .next s
  else
    let s1 := s.modQ q fun x => { x with raised := true, ovr := true }
    let s2 := islIds.foldl (fun s y =>
      match cores.find? fun c => islOf c == y with
      | some c => eventRec c 0x31 (s.core.get c).r.pc (q.setWidth 64) (BitVec.ofNat 64 x.index) s
      | none => s) s1
    .next (dispatch s2)

/-! The end of a purge (R383, R384). -/

/-- PURGE_COMPLETE (R384): once copies that the purge stops have stopped, the block ends; the first purge receives the count, one that overlapped it 0, and a record of R382
carries it. -/
def execPurgeComplete (s : State) : Out :=
  let cx := BitVec.ofNat 7 s.arg.k
  let p := BitVec.ofNat 16 s.arg.n
  match s.dev.purges.find? fun x => x.cx == cx && x.pen == p with
  | none => .next s
  | some x =>
    if coreIds.any fun c => let k := s.core.get c; k.ctx == cx && k.run == .unbound && k.stopping then
      let (n, s1) := s.pick
      .next (s1.after (n + 1) (.ev .purgeComplete s.arg))
    else
    let s1 := s.modD fun d => { d with purges := d.purges.filter fun y => !(y.cx == cx && y.pen == p) }
    let s2 := match x.rec_ with
      | some r => sendRec (islOf (coreNo r.core.toNat)) { r with last := BitVec.ofNat 64 x.count } s1
      | none => s1
    let first : Nat := if x.rec_.isSome then 0 else x.count
    let s3 := match x.by_ with
      | [] => s2
      | (c, id) :: r => r.foldl (fun s e => finishCop e.1 e.2 0 s) (finishCop c id (BitVec.ofNat 64 first) s2)
    .next (dispatch s3)

end Sys2Proof.Machine
end

