-- ==== Sys2Proof/Machine/Copy.lean ====
section
/-! DEFINITION. The copy units and the broadcast bus (R196 to R208, R300, R303, R305). -/

namespace Sys2Proof.Machine

/-! Checks at issue (R198). -/

/-- A trap with its FADR and DTL, or none. -/
abbrev Check3 := Option (Byte × W64 × W64)

/-- Pages that one side of a walk touches: the first position in each run of one page. -/
def sidePages (w : Walk2) (src : Bool) : List Nat :=
  let at_ (x : Nat) : Nat := (if src then w.srcAt x else w.dstAt x).toNat
  (List.range w.total).foldr (fun x l => if l.head?.any (· == at_ x / 4096) then l else at_ x / 4096 :: l) []

/-- A table entry on the way to a touched page that ends the walk in a fault (R336): its level is the detail. A page that has no
leaf pauses the copy as it runs; one that the unit's buffer holds is not walked for (R337). -/
def walkFault (s : State) (w : Walk2) (src : Bool) : Check3 :=
  let u := if s.bun.slot = 5 then s.me.cu1 else s.me.cu0
  (sidePages w src).findSome? fun p =>
    if u.tlb.any fun t => t.cx == s.me.ctx && decide (t.va ≤ p * 4096) && decide (p * 4096 < t.va + t.size) then none
    else match walkVa s (islOf s.cur) s.me.ctx (p * 4096) with
    | .fault l _ => some (0x0A, BitVec.ofNat 64 (p * 4096), BitVec.ofNat 64 l)
    | _ => none

/-- Range check of one side. A global side lies in the heap window whole or not at all, a management core's in its own, and a window that
may not be written takes no copy (R332). A staging walk is checked byte by byte. FADR names the first touched byte of the side's range
that fails, DTL the size of the copy (log entry 13). -/
def sideCheck (s : State) (w : Walk2) (src : Bool) : Check3 :=
  let base := if src then w.src else w.dst
  let (lo, hi) := w.range src
  let bad (c : Byte) (a : Int) : Check3 := some (c, BitVec.ofInt 64 a, BitVec.ofNat 64 w.total)
  match baseSp base with
  | 1 => if lo < 0 then bad 0x07 lo else if 0x200000 ≤ hi then bad 0x07 hi else none
  | 2 =>
    let at_ (x : Nat) : Int := if src then w.srcAt x else w.dstAt x
    ((List.range w.total).find? fun x =>
      decide (at_ x < 0) || decide (2 ^ 27 ≤ at_ x) || !stagingOk s s.cur (at_ x).toNat 1).bind fun x => bad 0x08 (at_ x)
  | 0 =>
    if lo < 0 ∨ 2 ^ 54 ≤ hi then bad 0x0A (if lo < 0 then lo else hi) |>.map fun e => (e.1, e.2.1, 7)
    else
      let (a, b, wr) := if isMgmt s.cur then (0, 2 ^ 52, true) else let (a, b, _, w, _) := heapOf (s.ctxOf s.me.ctx); (a, b, w)
      let meets : Bool := decide (a < b) && decide (lo < (b : Int)) && decide ((a : Int) ≤ hi)
      if meets then
        if !((a : Int) ≤ lo ∧ hi < (b : Int)) then some (0x0A, BitVec.ofInt 64 lo, 6)
        else if !src && !wr then some (0x0B, BitVec.ofInt 64 lo, 1) else none
      else if isMgmt s.cur then none
      else walkFault s w src
  | _ => none

/-- Highest offset in a column slice that n stream bytes reach, from column c0 at offset o0 on (R161). -/
def columnTop (c0 o0 n : Nat) : Nat :=
  let p := c0 + (n - 1) / 4
  o0 + 4 * (p / 128) + (if (n - 1) % 4 ≠ 3 ∧ (p = c0 ∨ p % 128 = 0) then (n - 1) % 4 else 3)

/-- Column-store destination (R161, R198): N or an offset that passes the slices. -/
def columnCheck (w : Walk2) : Check3 :=
  let c0 := baseAdr w.dst % 128
  let o0 := baseAdr w.dst / 128 % 0x8000
  let last : Int := if w.gather then (w.total : Int) else walkHi w.dims + 1
  if w.total % 4 ≠ 0 then some (0x06, BitVec.ofNat 64 (baseAdr w.dst), BitVec.ofNat 64 w.total)
  else if (!w.gather ∧ walkLo w.dims < 0) ∨
      (w.total ≠ 0 ∧ 0x7FFF < columnTop c0 o0 last.toNat) then
    some (0x09, BitVec.ofNat 64 (baseAdr w.dst), BitVec.ofNat 64 w.total)
  else none

/-- The checks of R198 for cpy and cpset, in order; the walk if they pass. -/
def copyCheck (op : Nat) (gather : Bool) (nest : BitVec 512) (s : State) : (Byte × W64 × W64) ⊕ Walk2 :=
  let src := nestWord nest 0
  let dst := nestWord nest 1
  let ill : (Byte × W64 × W64) := (0x03, 0, BitVec.ofNat 64 op)
  let spOk (n : Nat) : Bool := n == 0 || n == 1 || n == 2
  if !spOk (baseSp src) ∨ !(spOk (baseSp dst) || baseSp dst == 4) then .inl ill
  else match walkOf nest gather with
    | none => .inl ill
    | some w =>
      let glob (b : W64) : Check3 := if baseSp b = 0 ∧ b.extractLsb' 54 7 ≠ 0 then some (0x0A, BitVec.ofNat 64 (baseAdr b), 7) else none
      let r := (glob src) <|> (glob dst) <|> (if w.total = 0 then none else (sideCheck s w true) <|> (sideCheck s w false)) <|>
        (if baseSp dst = 4 then columnCheck w else none)
      match r with
      | some e => .inl e
      | none => .inr w

/-- D is set on every present leaf of a global destination extent (R339). -/
def burstDirty (s : State) (w : Walk2) : State :=
  if baseSp w.dst ≠ 0 ∨ w.total = 0 then s
  else
    let (lo, hi) := w.range false
    (List.range (hi.toNat / 4096 - lo.toNat / 4096 + 1)).foldl (fun s i =>
      setDirty s.cur (max lo.toNat ((lo.toNat / 4096 + i) * 4096)) s) s

/-! Rings (R203). -/

/-- Assign N bytes of ring q: the first position, or the trap. -/
def assignRing (op : Nat) (q : BitVec 4) (n : Nat) (s : State) : (State) ⊕ (Nat × State) :=
  if q = 0 then .inr (0, s)
  else
    let g := s.me.getRing q
    if !g.created then .inl (illegal op s)
    else if (g.rc + g.slots) * g.target < g.w + n then .inl (ringTrap 0x0F q s)
    else .inr (g.w, s.modMe fun k => { k with ring := k.ring.set q.toNat { g with w := g.w + n, users := g.users + 1 } q.isLt })

/-- The bytes of stream positions have landed (R203). -/
def creditRing (c : CoreId) (q : BitVec 4) (ps : List Nat) (s : State) : State :=
  if q = 0 then s
  else s.modC c fun k =>
    let g := k.getRing q
    let g1 := ps.foldl (fun g p => { g with arrived := tmod 0 g.arrived (p / g.target % g.slots) (· + 1) }) g
    { k with ring := k.ring.set q.toNat g1 q.isLt }

/-- The slots that take stream positions are zero-filled (R199, R205). -/
def zeroFill (c : CoreId) (q : BitVec 4) (ps : List Nat) (s : State) : State :=
  if q = 0 then s
  else s.modC c fun k =>
    let g := k.getRing q
    let g1 := ps.foldl (fun (g : Ring) p =>
      let sl := p / g.target % g.slots
      if g.zf.contains sl then g else { g with zf := sl :: g.zf }) g
    { k with ring := k.ring.set q.toNat g1 q.isLt }

/-- An operation that names a ring is complete. -/
def leaveRing (k : CoreSt) (q : BitVec 4) : CoreSt :=
  if q = 0 then k
  else let g := k.getRing q; { k with ring := k.ring.set q.toNat { g with users := g.users - 1 } q.isLt }

/-! Issue. -/

def CoreSt.unit (k : CoreSt) (u : Bool) : CopyUnit := if u then k.cu1 else k.cu0
def CoreSt.setUnit (k : CoreSt) (u : Bool) (f : CopyUnit → CopyUnit) : CoreSt :=
  if u then { k with cu1 := f k.cu1 } else { k with cu0 := f k.cu0 }

/-- The unit looks for a command to begin, at its next edge at or after now. -/
def lookNext (c : CoreId) (u : Bool) (dt : Nat) (s : State) : State :=
  let d : Due := .ev .copyBegin { argC c with u := u }
  if s.has d then s else s.at ((s.core.get c).edge .cpy (s.tick + dt)) d

/-- Issue a cpy or cpset (R197 to R203). -/
def issueCopy (op : Nat) (kind : CopyKind) (u : Bool) (t : Toks) (nst rng : BitVec 4) (bnd : Option Nat) (scp : BitVec 2)
    (s : State) : Out :=
  engineSlot s fun s =>
    let nest := s.me.r.getN nst
    match copyCheck op (kind == .cpy) nest s with
    | .inl (c, f, d) => takeTrap c f d s
    | .inr w =>
      if s.me.tokPending t.tp then tokenTrap t.tp s
      else match assignRing op rng w.total s with
        | .inl s1 => s1
        | .inr (p, s1) =>
          let s2 := burstDirty s1 w
          let deps := s2.me.depsOf t
          let (gen, k) := s2.me.produce t.tp (if baseSp w.dst = 4 then 1 else 0)
          let cmd : CopyCmd := ⟨k.nid, s.order, s.bun.adr, kind, nest, rng, p, t.tp, gen, deps, bnd, scp, none⟩
          lookNext s.cur u 0 (s2.modMe fun _ =>
            CoreSt.setUnit { k with nid := k.nid + 1, cpc := k.cpc + 1 } u fun x => { x with buf := x.buf ++ [cmd] })

/-- CPY (R197, R199). -/
def execCpy (u : Bool) (t : Toks) (nst rng : BitVec 4) (bnd : BitVec 7) (scp : BitVec 2) (be : Bool) (s : State) : Out :=
  issueCopy 0x01 .cpy u t nst rng (if be then some bnd.toNat else none) scp s

/-- CPSET (R197). -/
def execCpset (u : Bool) (t : Toks) (nst rng : BitVec 4) (scp : BitVec 2) (s : State) : Out :=
  issueCopy 0x02 .cpset u t nst rng none scp s

/-! Running (R300). -/

/-- Place of stream offset o in the column store (R161). -/
def columnKey (c : CoreId) (dst : W64) (o : Nat) : Nat :=
  let p := baseAdr dst % 128 + o / 4
  colKey c (p % 128) (baseAdr dst / 128 % 0x8000 + 4 * (p / 128) + o % 4)

/-- Key of the byte at walk position x on one side, if its page is held. -/
def srcKey (s : State) (c : CoreId) (r : CopyRun) (x : Nat) : Option Nat :=
  let w := r.cmd.walk
  let a := (w.srcAt x).toNat
  match baseSp w.src with
  | 0 => heldAt r.srcPg a
  | 1 => some (padKey c a)
  | _ => some (stgOf s c a)

def dstKey (s : State) (c : CoreId) (r : CopyRun) (x : Nat) : Option Nat :=
  let w := r.cmd.walk
  let a := (w.dstAt x).toNat
  match baseSp w.dst with
  | 0 => heldAt r.dstPg a
  | 1 => some (padKey c a)
  | 4 => some (columnKey c w.dst (w.dstOff x).toNat)
  | _ => some (stgOf s c a)

/-- Positions from x on that one copy cycle moves: at most 64, in one 64-byte piece of the source and one of the destination; for the
column store at most 16 of its 4-byte pieces, whose last is p (R300). -/
def groupLen (r : CopyRun) : Nat → Nat → Nat → Int → Nat
  | 0, _, _, _ => 0
  | n + 1, x, m, p =>
    let w := r.cmd.walk
    if w.total ≤ x + 1 then 1
    else
      let same (a b : Int) : Bool := a / 64 == b / 64
      let q := w.dstOff (x + 1) / 4
      let m1 := if q = p then m else m + 1
      if same (w.srcAt x) (w.srcAt (x + 1)) &&
          (if baseSp w.dst = 4 then decide (m1 ≤ 16) else same (w.dstAt x) (w.dstAt (x + 1))) then 1 + groupLen r n (x + 1) m1 q
      else 1

/-- Positions of the group at hand. -/
def CopyRun.group (r : CopyRun) : Nat := groupLen r 64 r.x 1 (r.cmd.walk.dstOff r.x / 4)

/-- Byte address of position x on one side, as its aligned 4-byte pieces are counted: in a column slice, that of the stream. -/
def Walk2.pieceAt (w : Walk2) (src : Bool) (x : Nat) : Int :=
  if src then w.srcAt x else if baseSp w.dst = 4 then w.dstOff x else w.dstAt x

/-- Positions whose byte on one side lies in the aligned 4-byte piece of position x, in the order of the walk. -/
def Walk2.mates (w : Walk2) (src : Bool) (x : Nat) : List Nat :=
  let p := w.pieceAt src x / 4
  if src = w.gather then (List.range w.total).filter fun y => w.pieceAt src y / 4 == p
  else (List.range' (x - 3) 7).filter fun y => decide (y < w.total) && w.pieceAt src y / 4 == p

/-- How many earlier ones of some positions have the byte of position x. -/
def Walk2.before (w : Walk2) (src : Bool) (ps : List Nat) (x : Nat) : Nat :=
  (ps.filter fun y => decide (y < x) && w.pieceAt src y == w.pieceAt src x).length

/-- Positions whose source bytes are read with that of position x: its aligned 4-byte piece, each byte of it for as often as the walk has
come to it, is read whole (R244). -/
def readWith (w : Walk2) (x : Nat) : List Nat :=
  let ps := w.mates true x
  ps.filter fun y => w.before true ps y == w.before true ps x

/-- Walk position with which the byte of position x is written: the last of those that fill its aligned 4-byte piece, whatever their
order, else its own; a byte that the walk comes to again is not written before its earlier value (R161, R197, R244). -/
def writtenWith (w : Walk2) (x : Nat) : Nat :=
  let ps := w.mates false x
  (List.range (w.before false ps x + 1)).foldl (fun m k =>
    let g := ps.filter fun y => w.before false ps y == k
    if (List.range 4).all fun j => g.any fun y => w.pieceAt false y % 4 == (j : Int) then g.foldl max m else m) x

/-- Page of a context that holds va, for a copy: virtual base, bytes, physical base, and the translation that gives it, out of the
unit's buffer or a walk; otherwise whether the page is mapped read-only for a destination, as the buffer has it if it holds the page
(R198, R337). A window translates without pages; beyond its own a management core has none (log entry 105). -/
def copyPage (s : State) (c : CoreId) (u : Bool) (va : Nat) (wr : Bool) : ((Nat × Nat × Nat) × Option Xlat) ⊕ Bool :=
  let k := s.core.get c
  let cx := k.ctx
  let (lo, hi, ofs, w, _) := heapOf (s.ctxOf cx)
  let b := va / 4096 * 4096
  if isMgmt c then (if va < 2 ^ 52 then .inl ((b, 4096, b), none) else .inr false)
  else if lo ≤ va ∧ va < hi then (if wr && !w then .inr true else .inl ((b, 4096, (b + ofs) % 2 ^ 52), none))
  else match (if u then k.cu1 else k.cu0).tlb.find? fun t =>
      t.cx == cx && decide (t.va ≤ va) && decide (va < t.va + t.size) with
    | some t => if wr && !t.w then .inr true else .inl ((t.va, t.size, t.pa), some t)
    | none =>
      match walkVa s (islOf c) cx va with
      | .leaf e _ _ n =>
        if !pteRes e then .inr false
        else if wr && !pteW e then .inr true
        else
          let x : Xlat := ⟨cx, va / 2 ^ n * 2 ^ n, 2 ^ n, pteAdr e, pteW e, pteX e, pteD e, pteHs e, pteCls e⟩
          .inl ((x.va, x.size, x.pa), some x)
      | _ => .inr false

/-- The unit's buffer keeps a translation (R337). -/
def keepCopyXlat (c : CoreId) (u : Bool) (x : Option Xlat) (s : State) : State :=
  match x with
  | none => s
  | some x =>
    let (n, s1) := s.pick
    s1.modC c fun k => k.setUnit u fun y => { y with tlb := refill y.tlb x n }

/-- Region of the source line at x that the copy tests, and whether the island table keeps it waiting (R191, R199). -/
def lineWaits (s : State) (c : CoreId) (r : CopyRun) (x : Nat) : Option (Region × Bool) :=
  match r.cmd.bnd, baseSp r.cmd.walk.src with
  | some k, 0 => (regionOf s c (r.cmd.walk.srcAt x).toNat).map fun g => (g, staleNow s c g.index k)
  | _, _ => none

/-- A global line of the source, which position x lies in, as the copy reads it, with the fill that a region line makes (R199) and that of
the home's shelf (R343). -/
def readLine (s : State) (c : CoreId) (r : CopyRun) (x line : Nat) : BitVec 1024 × State :=
  match regionOf s c (r.cmd.walk.srcAt x).toNat with
  | none => (seenLine s (s.coreKey c) line (cohLine s line), touchLine c line r.srcX.1 false s)
  | some g =>
    let th := match r.cmd.bnd with | some k => threshold s c g.index k | none => 0
    let key := roundKey (s.core.get c).launch g.index
    let (d, s1) := regionLine (islOf c) line key th s
    (seenLine s (s.coreKey c) line d, if regionHit s (islOf c) line key th then s1 else touchLine c line r.srcX.1 false s1)

/-- The lines that some positions of a copy with a global source lie in, each read once. -/
def readLines (c : CoreId) (r : CopyRun) : List Nat → Tbl (BitVec 1024) → State → Tbl (BitVec 1024) × State
  | [], t, s => (t, s)
  | x :: ps, t, s =>
    match srcKey s c r x with
    | none => readLines c r ps t s
    | some k =>
      if (tfind t (k / 128)).isSome then readLines c r ps t s
      else
        let (d, s1) := readLine s c r x (k / 128)
        readLines c r ps (tset t (k / 128) d) s1

/-- Positions of a copy with their source bytes. -/
def readGroup (s : State) (c : CoreId) (r : CopyRun) (ps : List Nat) : List (Nat × Byte) × State :=
  let s0 := if s.dev.errs.isEmpty && baseSp r.cmd.walk.src != 0 then s else reachKeys (islOf c) (ps.filterMap (srcKey s c r)) s
  if baseSp r.cmd.walk.src ≠ 0 then (ps.filterMap fun x => (srcKey s c r x).map fun k => (x, memRd s.mem k), s0)
  else
    let (t, s1) := readLines c r ps [] s0
    (ps.filterMap fun x => (srcKey s c r x).map fun k => (x, (tget 0 t (k / 128)).extractLsb' (8 * (k % 128)) 8), s1)

/-- Positions whose bytes have to be read for the group of n at hand: its own that have not been read, and the rest of their pieces. -/
def CopyRun.toRead (r : CopyRun) (n : Nat) : List Nat :=
  let have_ (y : Nat) : Bool := r.part.any (·.1 == y)
  (((List.range' r.x n).filter fun y => !have_ y).flatMap fun y => (readWith r.cmd.walk y).filter fun z => !have_ z).eraseDups

/-- The walk position is poisoned at its source, or lost on a strait on the way: the unit that detected the error (R381). -/
def readBad (s : State) (c : CoreId) (r : CopyRun) (y : Nat) : Option Nat :=
  (srcKey s c r y).bind fun k => (s.badUnit (islOf c) k 1).or
    (if baseSp r.cmd.walk.src == 0 && flitFails s c r.cmd.seq (y / 64) k then some (0x2000 + (homeOf k).val) else none)

/-- What a copy has read, beside what it had. -/
def CopyRun.take (r : CopyRun) (s : State) (c : CoreId) (bs : List (Nat × Byte)) : CopyRun :=
  { r with part := r.part ++ bs.map fun e => (e.1, e.2, readBad s c r e.1) }

/-- A copy may not move the group of n positions at hand yet. -/
def copyKept (s : State) (c : CoreId) (r : CopyRun) (n : Nat) : Bool :=
  s.sideKept c (baseSp r.cmd.walk.src) ((r.toRead n).filterMap (srcKey s c r)) false ||
    s.sideKept c (baseSp r.cmd.walk.dst) ((List.range' r.x n).filterMap (dstKey s c r)) true

/-- Sums q' of R201 after the bytes of positions from x. -/
def addSums (v : Carry) (q : Tbl (BitVec 32)) (x : Nat) (bs : List Byte) : Tbl (BitVec 32) :=
  let z := match tyOfCode v.ot with | some t => tyBits t / 8 | none => 1
  (List.zip (List.range bs.length) bs).foldl (fun q e =>
    let p := x + e.1
    tmod 0 q (p / z % (v.ncl.toNat + 1)) (· + BitVec.ofNat 32 (e.2.toNat * 256 ^ (p % z)))) q

/-- The comparison at a copy's last write (R201). It counts in the checksum counters of the accumulator's drains, which R201 does not
say (DESIGN CHOICE; log entry 87). -/
def compareSums (c : CoreId) (r : CopyRun) (s : State) : State :=
  match r.cmd.carry with
  | none => s
  | some (_, v) =>
    let fails := (List.range (v.ncl.toNat + 1)).filter fun j => tget 0 r.q j != tget 0 v.q j
    countCheck c (if fails.isEmpty then 0x03 else 0x09) fails true r.cmd.badr r.cmd.walk.dst s

/-- Carried record that goes with a cpy (R201). Where the records of two accumulators match, the lower accumulator's goes: DESIGN
CHOICE (log entry 90). -/
def carriedBy (k : CoreSt) (m : CopyCmd) : Option (Nat × Carry) :=
  let w := m.walk
  if m.kind ≠ .cpy then none
  else (List.zip (List.range 4) k.carry.toList).find? fun e =>
    let v := e.2
    let z := match tyOfCode v.ot with | some t => tyBits t / 8 | none => 1
    v.spc != 0 && v.spc.toNat == baseSp w.src && v.adr.toNat == baseAdr w.src && w.total == (v.nrw.toNat + 1) * (v.ncl.toNat + 1) * z

def CopyRun.paused (r : CopyRun) : Bool := r.pause.isSome

/-- The unit may begin a command: none moves bytes, and none is paused but under the stall policy with slack left (R305). -/
def CopyUnit.mayBegin (x : CopyUnit) : Bool := x.run.isNone && x.side.all fun r => !r.paused || decide (0 < r.slack)

/-- The next copy cycle of a unit. -/
def nextPiece (c : CoreId) (u : Bool) (n : Nat) (s : State) : State :=
  if s.has (.piece c u) then s else s.after (n * (s.core.get c).div.cpy) (.piece c u)

/-- A copy that begins has its first cycle of its own, whatever a paused one was waiting for (R300, R305). -/
def firstPiece (c : CoreId) (u : Bool) (n : Nat) (s : State) : State :=
  State.after { s with agenda := s.agenda.filter fun e => e.due != .piece c u } (n * (s.core.get c).div.cpy) (.piece c u)

/-! The pad's third port (R26). -/

/-- Banks that positions x to x + n - 1 of a walk take on one side. -/
def walkBanks (w : Walk2) (src : Bool) (x n : Nat) : List Nat :=
  if baseSp (if src then w.src else w.dst) ≠ 1 then []
  else ((List.range' x n).map fun i => padBank (if src then w.srcAt i else w.dstAt i).toNat).eraseDups

/-- Engines of core c of which an access to one of the banks, in a copy cycle that the spec leaves open, may be served before one of
the slot with number n: the matrix paths, bus operations, the reads and the writes of the copy of a slot that is no later, and what
has taken a bank for this cycle (R8, R26; log entry 60). -/
def portRivals (s : State) (c : CoreId) (slot : Nat) (id : Nat) (banks : List Nat) : Nat :=
  let k := s.core.get c
  let moves (x : CopyUnit) (n : Nat) : Bool := decide (n < slot) && x.run.any fun r =>
    r.pause.isNone && meet banks (walkBanks r.cmd.walk true r.x r.group ++ walkBanks r.cmd.walk false r.x r.group)
  let beat (o : BusOp) : Bool :=
    o.id != id && decide (o.seq % 8 ≤ slot) && decide (o.b0 ≤ s.tick) &&
      meet banks (walkBanks ((walkOf o.nest o.drive).getD ⟨[], 0, 0, 0, true⟩) o.drive (64 * min ((s.tick - o.b0) / 4) (o.total / 64 - 1)) 64)
  (k.lrun.any fun o => meet banks (lloadBanks o)).toNat + (k.drun.any fun o => meet banks (drunBanks c o)).toNat +
    (moves k.cu0 4).toNat + (moves k.cu1 5).toNat + (k.bus.filter beat).length +
    (k.ports.any fun e => e.1 == cpyCycle s c && banks.contains e.2).toNat

/-- The group of n positions of a copy has to wait for the third port in this copy cycle: for a bank that the other unit's writes
have taken, or, as it happens, for an engine of which an access may stand before it, be it the copy's own, whose reads and writes share
a bank. The moments of the reads are open, so that each cycle decides anew (log entry 60). -/
def portWait (c : CoreId) (u : Bool) (r : CopyRun) (n : Nat) (s : State) : Bool × State :=
  let w := r.cmd.walk
  let wr := walkBanks w false r.x n
  let rd := walkBanks w true r.x n
  if (s.core.get c).ports.any fun e => e.1 == cpyCycle s c && wr.contains e.2 then (true, s)
  else if portRivals s c (if u then 5 else 4) r.cmd.id (wr ++ rd) = 0 ∧ !meet wr rd then (false, s)
  else let (f, s1) := s.pick; (f % 2 = 1, s1)

/-- The group's writes take their banks for this copy cycle. -/
def takePort (c : CoreId) (w : Walk2) (x n : Nat) (s : State) : State := takeBanks c (walkBanks w false x n) s

/-- Delay until a new global line arrives, or may be written: free (R300, R301). -/
def lineDelay (r : CopyRun) (s : State) : Nat × State :=
  if baseSp r.cmd.walk.src = 0 ∨ baseSp r.cmd.walk.dst = 0 then s.pick else (0, s)

/-- Position x of the walk lies in another 128-byte line than position y, at the source or at the destination. -/
def newLine (w : Walk2) (x y : Nat) : Bool := (w.srcAt x) / 128 != (w.srcAt y) / 128 || (w.dstAt x) / 128 != (w.dstAt y) / 128

/-- Lines of the group of n positions in pages that are shared with the host and in host bias: its coherence is asked for them before
they are read or written (R344). -/
def hostLines (s : State) (c : CoreId) (r : CopyRun) (n : Nat) : List Nat :=
  let w := r.cmd.walk
  let side (sp : Nat) (hs : Bool) (f : Nat → Option Nat) : List Nat :=
    if sp = 0 ∧ hs then ((List.range' r.x n).filterMap f).map (· / 128) else []
  ((side (baseSp w.src) r.srcX.2 (srcKey s c r) ++ side (baseSp w.dst) r.dstX.2 (dstKey s c r)).filter fun l =>
    !s.dev.devBias.contains (l / 32)).eraseDups

/-- The source byte at position y may be read now: its page is held, and neither an access, its region nor the host keeps it back. -/
def mayRead (s : State) (c : CoreId) (r : CopyRun) (y : Nat) : Bool :=
  (srcKey s c r y).any fun k => !s.sideKept c (baseSp r.cmd.walk.src) [k] false && !(lineWaits s c r y).any (·.2) &&
    !(r.srcX.2 && baseSp r.cmd.walk.src == 0 && !s.dev.devBias.contains (k / 4096) && !r.asked.contains (k / 128))

/-- Positions that the unit reads now, ahead of the cycle that writes them: any of those to come, as it happens, each with the rest of
its source piece (R244, R406; log entry 45). -/
def CopyRun.early (r : CopyRun) (s : State) (c : CoreId) : List Nat :=
  let have_ (y : Nat) : Bool := r.part.any (·.1 == y)
  (((List.range' r.x (r.cmd.walk.total - r.x)).filter fun y => !have_ y && Config.freeNat (s.free + y) % 2 == 1).flatMap fun y =>
    let ps := (readWith r.cmd.walk y).filter fun z => !have_ z
    if ps.all (mayRead s c r) then ps else []).eraseDups

/-- A copy unit reads when it can, in each of its cycles and before the first (R300, R406; log entry 45). -/
def readEarly (c : CoreId) (u : Bool) (s : State) : State :=
  match ((s.core.get c).unit u).run with
  | none => s
  | some r =>
    let (bs, s1) := readGroup { s with free := s.free + r.cmd.walk.total } c r (r.early s c)
    s1.modC c fun k => k.setUnit u fun x => { x with run := x.run.map fun r => r.take s c bs }

/-- Copy cycles that the path between the pad and a slice of staging adds before the first write (R313): the hops to the slice
of the staging side's first byte. -/
def copyHops (c : CoreId) (w : Walk2) : Nat :=
  match baseSp w.src, baseSp w.dst with
  | 1, 2 => hops c (natBits (w.dstAt 0).toNat 26 22)
  | 2, 1 => hops c (natBits (w.srcAt 0).toNat 26 22)
  | _, _ => 0

/-- What a pause waits for has come. -/
def pauseOver (s : State) (c : CoreId) (u : Bool) (r : CopyRun) : Bool :=
  match r.pause with
  | none => false
  | some (.region _) => match lineWaits s c r r.x with | some (_, b) => !b | none => true
  | some (.page _) =>
    let ok (sp va : Nat) (wr : Bool) : Bool := sp != 0 || (match copyPage s c u va wr with | .inl _ => true | .inr _ => false)
    ok (baseSp r.cmd.walk.src) (r.cmd.walk.srcAt r.x).toNat false && ok (baseSp r.cmd.walk.dst) (r.cmd.walk.dstAt r.x).toNat true

/-- COPY_BEGIN (R197, R300, R305): the unit begins the next command whose consumed tokens are complete, and matches a cpy to the carried
records as they stand now: DESIGN CHOICE (R201; log entry 127). -/
def execCopyBegin (s : State) : Out :=
  let c := s.arg.c
  let u := s.arg.u
  let x := (s.core.get c).unit u
  match x.buf with
  | [] => .next s
  | m :: rest =>
    if !x.mayBegin then .next s
    else if x.side.any fun r => r.paused && pauseOver s c u r then .next (nextPiece c u 0 s)
    else if !(s.core.get c).depsReady m.deps then .next (lookNext c u 1 s)
    else
      let m1 := { m with carry := carriedBy (s.core.get c) m }
      let r : CopyRun := ⟨m1, 0, none, none, none, 0, 0, [], [], false, (0, false), (0, false), []⟩
      let start (s : State) : State := s.modC c fun k => k.setUnit u fun x => { x with buf := rest, run := some r }
      if m1.walk.total = 0 then
        .next (lookNext c u 1 ((s.modC c fun k => k.setUnit u fun x => { x with buf := rest, side := x.side ++ [r] }).now .copyComplete
          { argCI c m1.id with u := u }))
      else
        let (d, s1) := lineDelay r (start s)
        .next (firstPiece c u (4 + copyHops c m1.walk + d) (readEarly c u (traceEv c 0x08 m1.badr (BitVec.ofNat 64 u.toNat) s1)))

/-- An invalidation or a flip to host bias waits for a translation that core c holds (R340, R344). -/
def State.calledIn (s : State) (c : CoreId) (h : Nat × Nat × Nat) : Bool :=
  (coreIds.any fun d => (s.core.get d).loads.any fun o => match o.kind with | .xlinv _ _ _ _ held => held.contains (c, h) | _ => false) ||
    s.dev.bfBusy.any fun f => f.2 && decide (h.2.2 < f.1 * 4096 + 4096) && decide (f.1 * 4096 < h.2.2 + h.2.1)

/-- The copy of the unit pauses; under the stall policy it gives up at once what is called in, and the commands behind it may go ahead
while its region's slack lasts (R198, R199, R305, R340, R344). -/
def pauseCopy (c : CoreId) (u : Bool) (r : CopyRun) (p : Pause) (slack : Nat) (s : State) : State :=
  let keep (h : Option (Nat × Nat × Nat)) : Option (Nat × Nat × Nat) :=
    match p with | .region _ => h.filter fun h => !s.calledIn c h | .page _ => h
  let r1 := { r with pause := some p, slack := slack, pauses := r.pauses + 1, srcPg := keep r.srcPg, dstPg := keep r.dstPg }
  if slack = 0 then nextPiece c u 1 (s.modC c fun k => k.setUnit u fun x => { x with run := some r1 })
  else
    let s1 := s.modC c fun k => k.setUnit u fun x => { x with run := none, side := x.side ++ [r1] }
    nextPiece c u 1 (lookNext c u 1 (s1.after (slack * (s.core.get c).div.cpy) (.ev .slackExpire { argCI c r.cmd.id with u := u, n := r1.pauses })))

/-- SLACK_EXPIRE (R305): the unit begins nothing more until the paused copy resumes. The slack of a pause that is over counts no
more. -/
def execSlackExpire (s : State) : Out :=
  .next (s.modC s.arg.c fun k => k.setUnit s.arg.u fun x =>
    { x with side := x.side.map fun r =>
        if r.paused ∧ r.cmd.id = s.arg.id ∧ r.pauses = s.arg.n then { r with slack := 0 } else r })

/-- COPY_RESUME (R199, R305): a copy whose pause is over moves bytes again, once the unit is free, or at the place of one behind it that
has itself paused. -/
def execCopyResume (s : State) : Out :=
  let c := s.arg.c
  let u := s.arg.u
  let x := (s.core.get c).unit u
  match x.run with
  | some r =>
    if r.paused then
      match x.side.find? fun q => q.paused && pauseOver s c u q && !pauseOver s c u r with
      | some q =>
        .next (nextPiece c u 0 (s.modC c fun k => k.setUnit u fun x =>
          { x with run := some { q with pause := none, slack := 0 }, side := (x.side.filter fun e => e.cmd.id != q.cmd.id) ++ [r] }))
      | none => .next (nextPiece c u 0 (s.modC c fun k => k.setUnit u fun x => { x with run := some { r with pause := none, slack := 0 } }))
    else .next s
  | none => match x.side.find? fun r => r.paused && pauseOver s c u r with
    | some r =>
      .next (nextPiece c u 0 (s.modC c fun k => k.setUnit u fun x =>
        { x with run := some { r with pause := none, slack := 0 }, side := x.side.filter fun e => e.cmd.id != r.cmd.id }))
    | none => .next s

/-- COPY_PAGE_CROSSING (R198): the copy takes the translation of the page that it comes to, and its bytes after a free time (R301), or it
pauses, with a record of cause 0x33 or an address fault of its core. -/
def execCopyPageCrossing (s : State) : Out :=
  let c := s.arg.c
  let u := s.arg.u
  match ((s.core.get c).unit u).run with
  | none => .next s
  | some r =>
    let w := r.cmd.walk
    let sa := (w.srcAt r.x).toNat
    let da := (w.dstAt r.x).toNat
    let fail (va : Nat) (ro : Bool) : State :=
      pauseCopy c u r (.page (BitVec.ofNat 64 va)) 0
        (noPage c va ro r.cmd.badr (BitVec.ofNat 64 (u.toNat + 2 * ro.toNat)) s)
    let side (sp va : Nat) (wr : Bool) (old : Option (Nat × Nat × Nat)) : (Option (Nat × Nat × Nat) × Option Xlat) ⊕ Bool :=
      if sp ≠ 0 then .inl (none, none)
      else if (heldAt old va).isSome then .inl (old, none)
      else match copyPage s c u va wr with | .inl p => .inl (some p.1, p.2) | .inr b => .inr b
    match side (baseSp w.src) sa false r.srcPg, side (baseSp w.dst) da true r.dstPg with
    | .inl (p, px), .inl (q, qx) =>
      let held (o p : Option (Nat × Nat × Nat)) (va : Nat) : Bool := o != p && (heldAt p va).any s.biasHeld
      if held r.srcPg p sa || held r.dstPg q da then .next (nextPiece c u 1 s)
      else
        let new (o p : Option (Nat × Nat × Nat)) (t : Option Xlat) (x : BitVec 2 × Bool) : BitVec 2 × Bool := if o = p then x else pageX s c t
        let r1 := { r with srcPg := p, dstPg := q, srcX := new r.srcPg p px r.srcX, dstX := new r.dstPg q qx r.dstX, asked := [] }
        let (e, s1) := (keepCopyXlat c u qx (keepCopyXlat c u px (s.modC c fun k => k.setUnit u fun x => { x with run := some r1 }))).pick
        .next (nextPiece c u e (readEarly c u s1))
    | .inr _, _ => .next (fail sa false)
    | _, .inr b => .next (fail da b)

/-- The copy has issued its last write: its token follows two copy cycles on, later by a free time if its destination is
global (R200, R300). -/
def lastWrite (c : CoreId) (u : Bool) (r : CopyRun) (s : State) : State :=
  let s1 := compareSums c r (s.modC c fun k => k.setUnit u fun x => { x with run := none, side := x.side ++ [r] })
  let (d, s2) := if baseSp r.cmd.walk.dst = 0 then s1.pick else (0, s1)
  let s3 := s2.after ((2 + d) * (s.core.get c).div.cpy) (.ev .copyComplete { argCI c r.cmd.id with u := u })
  lookNext c u 1 (if ((s.core.get c).unit u).side.any CopyRun.paused then nextPiece c u 1 s3 else s3)

/-- Insert by walk position. -/
def insPart : List (Nat × Byte × Option Nat) → Nat × Byte × Option Nat → List (Nat × Byte × Option Nat)
  | [], e => [e]
  | x :: l, e => if x.1 ≤ e.1 then x :: insPart l e else e :: x :: l

/-- Move a group of n positions; `zero` stands for a line under the zero policy. The bytes that have not been read are, with the rest of
their source pieces; those whose destination piece is then whole are written, in the order of the walk (R161, R197, R244). -/
def moveGroup (c : CoreId) (u : Bool) (r : CopyRun) (n : Nat) (zero : Bool) (s0 : State) : State :=
  let w := r.cmd.walk
  let s := takePort c w r.x n s0
  let have_ (y : Nat) : Bool := r.part.any (·.1 == y)
  let (bs, s1) := if zero then ((((List.range' r.x n).filter fun y => !have_ y).map fun y => (y, 0)), s) else readGroup s c r (r.toRead n)
  let all := if zero then r.part ++ bs.map (fun e => (e.1, e.2, none)) else (r.take s c bs).part
  let lost (y : Nat) : Option Nat := (dstKey s c r y).bind fun k =>
    if baseSp w.dst == 0 && flitFails s c r.cmd.seq (y / 64) k then some (0x2000 + (homeOf k).val) else none
  let done := (all.filter fun e => decide (e.1 < r.x + n) && decide (writtenWith w e.1 < r.x + n)).foldl insPart []
  let cells := done.filterMap fun e => (dstKey s c r e.1).map fun k => ((k, e.2.1), e.2.2.or (lost e.1))
  let s2 := cells.foldl (fun s e => writeByte c (baseSp w.dst == 0) e.1.1 e.1.2 s) s1
  let s3 := if baseSp w.dst ≠ 0 then s2
    else ((cells.map fun e => e.1.1 / 128).eraseDups).foldl (fun s l =>
      touchLine c l r.dstX.1 true s) s2
  let s4 := markWritten cells s3
  let s5 := creditRing c r.cmd.ring (done.map fun e => r.cmd.w0 + e.1)
    (if zero then zeroFill c r.cmd.ring (bs.map fun e => r.cmd.w0 + e.1) s4 else s4)
  let q1 := match r.cmd.carry with
    | some (_, v) => done.foldl (fun q e => addSums v q e.1 [e.2.1]) r.q
    | none => r.q
  let r1 := { r with x := r.x + n, q := q1, asked := [], part := all.filter fun e => !done.any fun d => d.1 == e.1 }
  if w.total ≤ r1.x then lastWrite c u r1 s5
  else
    let s6 := s5.modC c fun k => k.setUnit u fun x => { x with run := some r1 }
    let (e, s7) := if newLine w r1.x r.x then lineDelay r1 (readEarly c u s6) else (0, readEarly c u s6)
    nextPiece c u (1 + e) s7

/-- A copy that has to stop does so where its next byte begins a 64-byte piece of its destination, or cannot move (R368, R383). -/
def CopyRun.stopsHere (r : CopyRun) : Bool :=
  let w := r.cmd.walk
  r.stop && (r.x == 0 || r.paused || (w.dstAt r.x) / 64 != (w.dstAt (r.x - 1)) / 64)

/-- The unit stops; what it held up may go on. -/
def stopUnit (c : CoreId) (u : Bool) (s : State) : State :=
  dispatch (s.modC c fun k => k.setUnit u fun x => { x with run := none })

/-- One copy cycle of unit u of core c. A group waits for accesses that keep its bytes (R248; log entry 79), for the host (R344), for
its region (R199), and for the pad's third port (R26). -/
def pieceStep (c : CoreId) (u : Bool) (s : State) : State :=
  let x := (s.core.get c).unit u
  let sideOver : Bool := x.side.any fun r => r.paused && pauseOver s c u r
  match x.run with
  | none =>
    if sideOver then s.now .copyResume { argC c with u := u }
    else if x.side.any CopyRun.paused then nextPiece c u 1 s else s
  | some r =>
    if r.stopsHere then stopUnit c u s
    else if r.paused then (if pauseOver s c u r || sideOver then s.now .copyResume { argC c with u := u } else nextPiece c u 1 s)
    else match srcKey s c r r.x, dstKey s c r r.x with
      | some _, some _ =>
        let n := r.group
        let ask := hostLines s c r n
        if copyKept s c r n then nextPiece c u 1 s
        else if !ask.all r.asked.contains then
          let (f, s1) := s.pick
          nextPiece c u (f + 1) (s1.modC c fun k => k.setUnit u fun x => { x with run := some { r with asked := ask } })
        else match (lineWaits s c r r.x).filter fun _ => !(r.toRead n).isEmpty with
          | some (g, true) =>
            if g.zero then moveGroup c u r n true s else pauseCopy c u r (.region g.index) g.slack s
          | _ =>
            let (wait, s1) := portWait c u r n s
            if wait then nextPiece c u 1 s1 else moveGroup c u r n false s1
      | _, _ => if r.stop then stopUnit c u s else s.now .copyPageCrossing { argC c with u := u }

/-- COPY_COMPLETE (R200): every byte has performed: the token completes and the copy leaves ocn.CPC and its ring. -/
def execCopyComplete (s : State) : Out :=
  let c := s.arg.c
  let u := s.arg.u
  match ((s.core.get c).unit u).side.find? fun r => r.cmd.id == s.arg.id with
  | none => .next s
  | some r =>
    .next (s.modC c fun k =>
      let k1 := (leaveRing k r.cmd.ring).complete r.cmd.tok r.cmd.gen
      CoreSt.setUnit { k1 with cpc := k1.cpc - 1 } u fun x => { x with side := x.side.filter fun e => e.cmd.id != r.cmd.id })

/-! The broadcast bus (R206 to R208). -/

/-- First bus tick of an operation issued now. -/
def busStart (t : Nat) : Nat := ceilDiv (t + 32) 4 * 4

/-- A beat is due on a channel. -/
def beatAt (y : Isl) (ch : Nat) (t : Nat) (s : State) : State :=
  let d : Due := .ev .broadcastBeat { argY y with k := ch }
  if s.agenda.any fun e => e.due == d && e.at_ == t then s else s.at t d

/-- A bus operation of 0 bytes has no last beat: a driver of none completes at B0, a latcher of none 2 copy cycles later; DESIGN
CHOICE (log entry 91). -/
def idleBus (t : Nat) : Nat := busStart t

/-- Issue of a driver or latcher, once its checks have passed. -/
def issueBus (drive : Bool) (ch : BitVec 2) (nest : BitVec 512) (n p : Nat) (rng : BitVec 4) (t : Toks) (s : State) : State :=
  let b0 := busStart s.tick
  let deps := s.me.depsOf t
  let (gen, k) := s.me.produce t.tp 0
  let op : BusOp := ⟨k.nid, s.order, drive, ch, nest, n, b0, rng, p, t.tp, gen, deps, 0, []⟩
  s.modMe fun _ => { k with nid := k.nid + 1, cpc := k.cpc + 1, bus := k.bus ++ [op] }

/-- N of a bus walk (R206). -/
def busTotal (w : Walk2) : Bool := w.total % 64 == 0 && decide (w.total ≤ 65536)

/-- BCDRV (R206). -/
def execBcdrv (_u : Bool) (t : Toks) (nst : BitVec 4) (s : State) : Out :=
  engineSlot s fun s =>
    let nest := s.me.r.getN nst
    let sp := baseSp (nestWord nest 0)
    let chw := nestWord nest 1
    match walkOf nest true with
    | none => illegal 0x03 s
    | some w =>
      if (sp ≠ 1 ∧ sp ≠ 2) ∨ chw.extractLsb' 2 62 ≠ 0 ∨ !busTotal w then illegal 0x03 s
      else match (if w.total = 0 then none else sideCheck s w true) with
        | some (c, f, d) => takeTrap c f d s
        | none =>
          if s.me.tokPending t.tp then tokenTrap t.tp s
          else
            let id := s.me.nid
            let s1 := issueBus true (chw.setWidth 2) nest w.total 0 0 t s
            if w.total = 0 then s1.at (idleBus s.tick) (.ev .bclatComplete { argCI s.cur id with u := false })
            else (List.range (w.total / 64)).foldl (fun s b => beatAt (islOf s.cur) (chw.setWidth 2).toNat (busStart s.tick + 4 * b) s) s1

/-- BCLAT (R207). -/
def execBclat (u : Bool) (t : Toks) (nst rng : BitVec 4) (s : State) : Out :=
  engineSlot s fun s =>
    let nest := s.me.r.getN nst
    let chw := nestWord nest 0
    match walkOf nest false with
    | none => illegal 0x04 s
    | some w =>
      if baseSp (nestWord nest 1) ≠ 1 ∨ chw.extractLsb' 2 62 ≠ 0 ∨ !busTotal w then illegal 0x04 s
      else match (if w.total = 0 then none else sideCheck s w false) with
        | some (c, f, d) => takeTrap c f d s
        | none =>
          if s.me.tokPending t.tp then tokenTrap t.tp s
          else match assignRing 0x04 rng w.total s with
            | .inl s1 => s1
            | .inr (p, s1) =>
              let id := s1.me.nid
              let s2 := issueBus false (chw.setWidth 2) nest w.total p rng t s1
              if w.total = 0 then s2.at (idleBus s.tick + 2 * s.me.div.cpy) (.ev .bclatComplete { argCI s.cur id with u := u })
              else beatAt (islOf s.cur) (chw.setWidth 2).toNat (busStart s.tick + 4 * (w.total / 64 - 1)) s2

def BusOp.walk (o : BusOp) : Walk2 := (walkOf o.nest o.drive).getD ⟨[], 0, 0, 0, true⟩

/-- Beat of an operation at tick t. -/
def BusOp.beat (o : BusOp) (t : Nat) : Option Nat :=
  if o.b0 ≤ t ∧ (t - o.b0) % 4 = 0 ∧ (t - o.b0) / 4 < o.total / 64 then some ((t - o.b0) / 4) else none

/-- Key of position x of a bus operation's walk. -/
def BusOp.key (s : State) (o : BusOp) (c : CoreId) (x : Nat) : Nat :=
  let w := o.walk
  if o.drive then (if baseSp w.src = 1 then padKey c (w.srcAt x).toNat else stgOf s c (w.srcAt x).toNat)
  else padKey c (w.dstAt x).toNat

/-- A bus operation of core c is complete. -/
def endBus (c : CoreId) (id : Nat) (s : State) : State :=
  match (s.core.get c).bus.find? (·.id == id) with
  | none => s
  | some o => s.modC c fun k =>
      let k1 := (leaveRing k o.ring).complete o.tok o.gen
      { k1 with cpc := k1.cpc - 1, bus := k1.bus.filter (·.id != id) }

/-- Banks of beat b of a bus operation. -/
def BusOp.banks (o : BusOp) (b : Nat) : List Nat := walkBanks o.walk o.drive (64 * b) 64

/-- A driver's beat has its bytes: its tokens are complete, no access keeps them (R31, R248; log entry 79), and the pad's third port has not
(R26, R206). -/
def beatReady (c : CoreId) (o : BusOp) (b : Nat) (s : State) : Bool × State :=
  if !(s.core.get c).depsReady o.deps ∨
      s.sideKept c (baseSp o.walk.src) ((List.range' (64 * b) 64).map (o.key s c)) false then (false, s)
  else if portRivals s c (o.seq % 8) o.id (o.banks b) = 0 then (true, s)
  else let (n, s1) := s.pick; (n % 2 = 0, s1)

/-- A latcher's beat waits for the third port: its token follows that many copy cycles later. An engine may have up to 128 accesses to a
bank before it (R26, R207; log entry 60). -/
def latchLag (c : CoreId) (o : BusOp) (b : Nat) (s : State) : State :=
  let m := portRivals s c (o.seq % 8) o.id (o.banks b)
  if m = 0 then s
  else
    let (n, s1) := s.pick
    s1.modC c fun k => { k with bus := k.bus.map fun x => if x.id = o.id then { x with lag := max x.lag (n % (128 * m + 1)) } else x }

/-- Change a bus operation of core c. -/
def modBus (c : CoreId) (id : Nat) (f : BusOp → BusOp) (s : State) : State :=
  s.modC c fun k => { k with bus := k.bus.map fun x => if x.id = id then f x else x }

/-- The bytes of window beat m reach the pad of the latcher's core and its ring; while an early access of the core keeps the latcher
away, they wait (R207; log entry 79). -/
def latchBeat (d : CoreId) (q : BusOp) (m : Nat) (cells : List (Host.Cell × Option Nat)) (s : State) : State :=
  let ps := List.range' (q.w0 + 64 * m) 64
  if !q.late.isEmpty || s.sideKept d 1 (cells.map (·.1.1)) true then modBus d q.id (fun x => { x with late := x.late ++ List.zip ps cells }) s
  else latchLag d q m (creditRing d q.ring ps (markWritten cells { s with mem := memWrs s.mem (cells.map (·.1)) }))

/-- What waited reaches the pad and the ring. -/
def flushLate (c : CoreId) (o : BusOp) (s : State) : State :=
  if o.late.isEmpty then s
  else
    let cells := o.late.map (·.2)
    modBus c o.id (fun x => { x with late := [] })
      (creditRing c o.ring (o.late.map (·.1)) (markWritten cells { s with mem := memWrs s.mem (cells.map (·.1)) }))

/-- BROADCAST_BEAT (R206 to R208): at this tick the lowest-numbered driving
core's beat goes out on the channel, of two drivers of one core the
earlier's: DESIGN CHOICE (log entry 125); unless its bytes are not read;
every open window latches it. A window beat that meets a pending token of
its latcher is lost to it: DESIGN CHOICE (log entry 91). With its last beat
a driver is complete, and a window closes, its token two copy cycles on
(R207). -/
def execBroadcastBeat (s : State) : Out :=
  let y := s.arg.y
  let ch := s.arg.k
  let mine (drive : Bool) : List (CoreId × BusOp × Nat) := (coreIds.filter fun c => islOf c == y).flatMap fun c =>
    (s.core.get c).bus.filterMap fun o =>
      if o.drive = drive ∧ o.ch.toNat = ch then (o.beat s.tick).map fun b => (c, o, b) else none
  let drivers := mine true
  let s1 := (drivers.drop 1).foldl (fun s e => s.modC e.1 fun k => k.count 15 1) s
  let s2 := match drivers with
    | [] => s1
    | (c, o, b) :: _ =>
      let (ready, s1) := beatReady c o b s1
      if !ready then s1
      else
        let bs := (List.range 64).map fun i => memRd s.mem (o.key s c (64 * b + i))
        let bad (i : Nat) : Option Nat := s.badUnit y (o.key s c (64 * b + i)) 1
        (mine false).foldl (fun s e =>
          let (d, q, m) := e
          if !(s.core.get d).depsReady q.deps then s
          else
            latchBeat d q m ((List.zip (List.range 64) bs).map fun v => ((q.key s d (64 * m + v.1), v.2), bad v.1)) s)
          (if s.dev.errs.isEmpty then s1 else reachKeys y ((List.range 64).map fun i => o.key s c (64 * b + i)) s1)
  let last (e : CoreId × BusOp × Nat) : Bool := e.2.2 + 1 == e.2.1.total / 64
  let s3 := ((mine false).filter last).foldl (fun s e =>
    s.after (2 * (s.core.get e.1).div.cpy) (.ev .bclatComplete { argCI e.1 e.2.1.id with u := e.2.1.seq % 8 == 5 })) s2
  .next ((drivers.filter last).foldl (fun s e => endBus e.1 e.2.1.id s) s3)

/-- BCLAT_COMPLETE (R207): the latch window has closed and the token completes, later by what the pad's third port has cost, and by what
keeps its bytes from the pad (log entry 79). -/
def execBclatComplete (s : State) : Out :=
  let c := s.arg.c
  let k := s.core.get c
  match k.bus.find? (·.id == s.arg.id) with
  | none => .next s
  | some o =>
    if s.sideKept c 1 (o.late.map (·.2.1.1)) true then .next (s.after k.div.cpy (.ev .bclatComplete s.arg))
    else if o.lag = 0 then .next (endBus c o.id (flushLate c o s))
    else .next ((modBus c o.id (fun x => { x with lag := 0 }) (flushLate c o s)).after (o.lag * k.div.cpy) (.ev .bclatComplete s.arg))

end Sys2Proof.Machine
end

