-- ==== Sys2Proof/Machine/Stage.lean ====
section
/-! DEFINITION. Stage, launch, clock, energy and trap instructions, and the steps that a bundle's header and a core's stops
cause (R217 to R240, R357, R363, R376, R390, R391). -/

namespace Sys2Proof.Machine

/-! Work items. -/

/-- Stage trap of an operation (R359 cause 0x13). -/
def stageTrap (op : Nat) (s : State) : State := takeTrap 0x13 0 (BitVec.ofNat 64 op) s

/-- Stage t of the core's launch. -/
def State.myStage (s : State) (t : Nat) : Option StageSt := (s.launch? s.me.launch).bind fun l => l.stage? t

def State.modMyStage (s : State) (t : Nat) (f : StageSt → StageSt) : State :=
  match s.me.launch with
  | some n => s.modL n fun l => l.modStage t f
  | none => s

/-- Queue t of the core's launch is closed. -/
def State.myClosed (s : State) (t : Nat) : Bool :=
  match s.me.launch with
  | some n => (s.launch? (some n)).any fun l => s.closed n l t
  | none => false

/-- A pull that takes the item at the head (R219, R220). -/
def takeItem (d : BitVec 6) (j : BitVec 4) (i : Item) (s : State) : State :=
  let pj := s.me.r.physP j
  let s1 := s.modMyStage s.me.stg.toNat fun x => { x with q := x.q.drop 1, out := x.out + 1 }
  let s2 := s1.modMe fun k =>
    { k with
      pops := k.pops ++ [⟨s.order, true, i⟩]
      after := k.after ++ i.src.map fun e => (s.order, e)
      pullClosed := none, pullEmpty := none
      r := { k.r with held := some i } }
  deliver 4 (.item i.wid i.pen) (deliver 4 (.p pj (BitVec.allOnes 64) (BitVec.allOnes 64)) (toS 4 d i.wid s2))

/-- PULL (R219). -/
def execPull (g : Guard) (d : BitVec 6) (j : BitVec 4) (s : State) : Out :=
  guarded g s fun s =>
    if s.me.r.held.isSome then stageTrap 0xC0 s
    else match (s.myStage s.me.stg.toNat).bind fun x => x.q.head? with
      | some i => takeItem d j i s
      | none =>
        let cl := s.myClosed s.me.stg.toNat
        let at_ := some s.bun.num
        let s1 := s.modMe fun k =>
          if cl then { k with pullClosed := k.pullClosed.or at_ } else { k with pullEmpty := k.pullEmpty.or at_ }
        deliver 4 (.p (s.me.r.physP j) 0 (BitVec.allOnes 64)) (toS 4 d (if cl then 1 else 0) s1)

/-- Bits that the fields of a wfw cover (R33). -/
def wfwBits (w : W64) : Nat := ((List.range 6).map fun j => natBits w.toNat (6 * j + 5) (6 * j)).foldl (· + ·) 0

/-- PUSH (R221): checked at issue; the item is appended, or refused, 6 control cycles later. Without a pennant of its own it flies that
of the held item, also before the pull that took it delivers pen (R32, R219). -/
def execPush (g : Guard) (d a b : BitVec 6) (st : BitVec 3) (hasB : Bool) (s : State) : Out :=
  guarded g s fun s =>
    let w := s.me.r.getS a
    if st.toNat ≤ s.me.stg.toNat ∨ (s.myStage st.toNat).isNone then illegal 0xC1 s
    else match s.me.r.held with
      | none => stageTrap 0xC1 s
      | some i =>
        if 2 ^ wfwBits s.me.wfw ≤ w.toNat then takeTrap 0x14 w s.me.wfw s
        else deliver 6 (.push st d w (if hasB then (s.me.r.getS b).setWidth 16 else i.pen)) s

/-- RETIRE (R222): tentative until the next checkpoint. -/
def execRetire (g : Guard) (s : State) : Out :=
  guarded g s fun s =>
    match s.me.r.held with
    | none => stageTrap 0xC2 s
    | some i => s.modMe fun k => { k with pops := k.pops ++ [⟨s.order, false, i⟩], r := { k.r with held := none } }

/-- qdep's word (R224). -/
def queueWord (x : StageSt) (closed : Bool) : W64 := BitVec.ofNat 64 (x.occ + x.cap * 2 ^ 16 + closed.toNat * 2 ^ 32)

/-- QDEP (R224). -/
def execQdep (g : Guard) (d : BitVec 6) (st : BitVec 3) (s : State) : Out :=
  guarded g s fun s =>
    match s.myStage st.toNat with
    | none => illegal 0xC8 s
    | some x => toS 4 d (queueWord x (s.myClosed st.toNat)) s

/-! Launching (R225, R227). -/

/-- LAUNCH (R225): both lines of the record are checked at issue; the answer comes within 4 us. -/
def execLaunch (g : Guard) (d a : BitVec 6) (s : State) : Out :=
  guarded g s fun s =>
    let ea := s.me.r.getS a
    if ea.toNat % 128 ≠ 0 then takeTrap 0x06 ea 256 s
    else match checkAddr 0xC3 0 ea 128 .rd s, checkAddr 0xC3 0 (ea + 128) 128 .rd s with
      | .trap c f x, _ => takeTrap c f x s
      | .absent f, _ => takeTrap 0x0C f 0 s
      | _, .trap c f x => takeTrap c f x s
      | _, .absent f => takeTrap 0x0C f 0 s
      | _, _ =>
        let (n, s1) := s.pick
        issueCop (n % (4 * Config.usTicks - 16) + 1) (newCop (.launch ea) d 0 .glob 0 0 0 false true 3 none) s1

/-- LPOLL (R227). -/
def execLpoll (g : Guard) (d a : BitVec 6) (s : State) : Out :=
  guarded g s fun s => issueFree (newCop (.lpoll ((s.me.r.getS a).setWidth 32)) d 0 .glob 0 0 0 false false 3 none) s

/-! Clocks, traps, energy. -/

/-- Requested divisors with the masked domains replaced (R228). -/
def Divs.put (r : Divs) (mask : BitVec 4) (v : Nat) : Divs :=
  ⟨if mask.getLsbD 0 then v else r.ctl, if mask.getLsbD 1 then v else r.vec, if mask.getLsbD 2 then v else r.mtx,
    if mask.getLsbD 3 then v else r.cpy⟩

/-- Request divisors; the boundary that follows applies them (Machine/Issue). -/
def requestDiv (mask : BitVec 4) (v : Nat) (s : State) : State :=
  if v < 3 ∨ 16 < v then illegal 0xC5 s
  else s.modMe fun k => { k with r := { k.r with req := k.r.req.put mask v } }

/-- A divisor that can be requested (R228). -/
def divLegal (dv : BitVec 5) : Bool := decide (3 ≤ dv.toNat) && decide (dv.toNat ≤ 16)

/-- CLKDIV (R228): the divisor in IMM[8:4]. -/
def execClkdiv (g : Guard) (mask : BitVec 4) (dv : BitVec 5) (s : State) : Out :=
  guardedIf (divLegal dv) 0xC5 g s (requestDiv mask dv.toNat)

/-- CLKDIV_REG (R228): the divisor in S(SRA)[4:0]. -/
def execClkdivReg (g : Guard) (a : BitVec 6) (mask : BitVec 4) (s : State) : Out :=
  guarded g s fun s => requestDiv mask ((s.me.r.getS a).setWidth 5).toNat s

/-- TRAP (R238): issue stops after the bundle, which is a checkpoint. -/
def execTrap (g : Guard) (tn : BitVec 16) (s : State) : Out :=
  guarded g s fun s => { s with bun := { s.bun with stop := some (0x20, tn.setWidth 64) } }

/-- BRK (R239): a stop if the debug enable is set, else a count. -/
def execBrk (g : Guard) (tn : BitVec 16) (s : State) : Out :=
  guarded g s fun s =>
    if s.me.dbgEn then { s with bun := { s.bun with stop := some (0x21, tn.setWidth 64) } }
    else s.modMe fun k => k.count 25 1

/-- EJRD (R240): the account after what has been charged so far. -/
def execEjrd (g : Guard) (d : BitVec 6) (sel : BitVec 2) (s : State) : Out :=
  guarded g s fun s =>
    let s1 := chargeCtx s.me.ctx s
    let x := s1.ctxOf s.me.ctx
    toS 4 d (match sel.toNat with | 0 => x.energy | 1 => x.filler | 2 => s1.dev.overhead | _ => s1.dev.reserve) s1

/-! Checkpoints (R204, R220, R230, R232). -/

/-- Releases of ring n take effect: their slots are cleared and Rc advances (R204). -/
def Ring.release (g : Ring) : Ring :=
  if g.rels = 0 then g
  else
    let gone (i : Nat) : Bool := (List.range g.rels).any fun j => (g.rc + j) % g.slots == i
    { g with arrived := g.arrived.filter fun e => !gone e.1, zf := g.zf.filter fun i => !gone i, rc := g.rc + g.rels, rels := 0 }

/-- Uncommitted pulls and retires are committed: entries are freed and items are finished (R220, R222). A freed entry of
stage 0 lets the dispatcher append within 64 control cycles, which are counted as the committing core's (R322). -/
def commitPops (c : CoreId) (s : State) : State :=
  let k := s.core.get c
  match k.launch with
  | none => s.modC c fun k => { k with pops := [] }
  | some n =>
    let pulls := (k.pops.filter (·.isPull)).length
    let rets := k.pops.length - pulls
    let s1 := (s.modL n fun l => { l with done := l.done + rets }.modStage k.stg.toNat fun x => { x with out := x.out - pulls }).modC c
      fun k => { k with pops := [] }
    let more : Bool := (s.launch? (some n)).any fun l => decide (l.fed < l.nit)
    if pulls ≠ 0 ∧ k.stg = 0 ∧ more then
      (List.range pulls).foldl (fun s _ =>
        let (x, s) := s.pick; s.after (x % (64 * k.div.ctl) + 1) (.ev .initialItemAppend { Arg.zero with n := n })) s1
    else s1

/-- Fences and pulls whose older accesses have all performed hold nothing back any more. -/
def dropSpent (c : CoreId) (s : State) : State :=
  let os := (s.core.get c).open_
  s.modC c fun k =>
    { k with fences := k.fences.filter fun f => os.any fun a => decide (a.seq < f.seq)
             after := k.after.filter fun e => s.pushOpen e }

/-- A checkpoint with the register state as it stands and the next bundle's address as its resume address (R230). -/
def checkpointAt (c : CoreId) (s : State) : State :=
  let s1 := dropSpent c (commitPops c (releaseMx c (releaseStores c s)))
  s1.modC c fun k => { k with ring := k.ring.map Ring.release, ck := k.r, ckSeq := k.seq * 8 - 1 }

/-- CHECKPOINT (R230). -/
def execCheckpoint (s : State) : Out := .next (dispatch (checkpointAt s.arg.c s))

/-! Safe points (R223, R233, R234, R363). -/

/-- Another stage of the launch would take core c if it left its own (R223, R330). -/
def mayMove (s : State) (c : CoreId) : Bool :=
  let k := s.core.get c
  match k.launch with
  | none => false
  | some n =>
    (s.launch? (some n)).any fun l =>
      (l.stages[k.stg.toNat]?.any fun x => decide (x.minc < boundCount s n k.stg.toNat)) &&
        (stageFor (s.modC c fun k => { k with run := .unbound }) n l c).any (· != k.stg.toNat)

/-- No released operation of a core is incomplete (R176, R233). -/
def CoreSt.still (k : CoreSt) : Bool :=
  k.loads.isEmpty && k.sto.isEmpty && k.cpc == 0 && k.til == 0 && k.lq.isEmpty && k.aq.isEmpty && k.dq.isEmpty &&
    k.lrun.isNone && k.arun == .idle && k.drun.isNone && k.tail.isEmpty && k.scw.isEmpty

/-- A core at a safe point that it leaves: with its state saved once every delivery has landed and every operation is
complete (R233), or unbound once its operations and pushes are complete (R223). -/
def leaveCore (c : CoreId) (s : State) : State :=
  let k := s.core.get c
  if !k.still ∨ (k.preempt ∧ !k.pend.isEmpty) ∨ k.pend.any (·.eff.isPush) then s
  else if k.preempt then (if s.has (.ev .preemptionSaveDone (argC c)) then s else s.now .preemptionSaveDone (argC c))
  else unbindCore c s

/-- SAFE_POINT (R223, R233, R234): the interval starts anew. A core whose pre-emption is requested, or whose pull of an earlier
bundle reported closed, or empty while another stage qualifies, issues no more and leaves; to be saved it takes a free slot here, and with none free it runs on (R363). -/
def execSafePoint (s : State) : Out :=
  let c := s.arg.c
  let k := s.core.get c
  let slot := if k.preempt then freeSlot s k.ctx else none
  let save : Bool := slot.isSome
  let before (x : Option Nat) : Bool := x.any fun n => decide (n + 1 < k.seq)
  let leave : Bool := k.r.held.isNone && (before k.pullClosed || (before k.pullEmpty && mayMove s c))
  let go : Bool := k.run == .running && (save || leave)
  let s1 := s.modC c fun k => { k with since := 1, overrun := false, preempt := save, saveTo := if go then slot else none, run := if go then .saving else k.run }
  .next (if go then leaveCore c s1 else s1)

/-! Switch points and phases (R235, R237, R310). -/

/-- Switch point and variant whose following bundle is at an address. -/
def switchAt (k : CoreSt) (nxt : W64) : Option (Nat × Nat) :=
  (k.sw.find? fun e => k.codeBase + e.2.setWidth 64 == nxt && e.2 != 0xFFFFFFFF).map fun e => (e.1 / 3, e.1 % 3)

/-- SWITCH_POINT (R235): if the granted variant is another one that the image has, the next bundle is the one after the same
switch point of it, timed as a taken transfer. Not in a loop body, and not from a bundle that takes a transfer. -/
def execSwitchPoint (s : State) : Out :=
  let c := s.arg.c
  let k := s.core.get c
  if s.bun.body ∨ s.bun.target.isSome then .next s
  else match switchAt k s.bun.nxt with
    | none => .next s
    | some (i, v) =>
      let g := k.granted.toNat
      let e := tget 0xFFFFFFFF k.sw (3 * i + g)
      if g = v ∨ 2 < g ∨ !k.swVpr.getLsbD g ∨ e = 0xFFFFFFFF then .next s
      else .next (s.modC c fun k => { k with gap := 2, r := { k.r with pc := k.codeBase + e.setWidth 64 } })

/-- The lead core's phase number is another one than its launch last looked up: a marker, or a rollback (R237), ends one use of the
operating-point table and starts another (R376). -/
def followPhase (c : CoreId) (s : State) : State :=
  let k := s.core.get c
  match k.launch.bind fun n => (tfind s.dev.pool n).map fun l => (n, l) with
  | some (n, l) => if l.lead = some c ∧ l.phase ≠ k.r.phase then startPhase n k.r.phase (scorePhase l s) else s
  | none => s

/-- PHASE_MARKER (R237): the phase number advances. -/
def execPhaseMarker (s : State) : Out :=
  .next (followPhase s.arg.c (s.modC s.arg.c fun k => { k with r := { k.r with phase := k.r.phase + 1 } }))

/-! Records (R357, R358). -/

/-- The 64 bytes of a record (R358). -/
def recWords (r : Rec) (rsn : Nat) : List W64 :=
  [BitVec.ofNat 64 (r.cause.toNat + r.kind.toNat * 2 ^ 8 + r.core.toNat * 2 ^ 16 + r.ctx.toNat * 2 ^ 24 + r.pen.toNat * 2 ^ 32 +
      r.slot.toNat * 2 ^ 53), r.badr, r.cyc, r.fadr, r.dtl, r.res, BitVec.ofNat 64 rsn, r.last]

def queueFull (i : IslandSt) : Bool := i.rqt + 1 == i.rqh

/-- Write a record to the queue of island y; what follows from its being posted: a requested stop no longer reads as pending
(R390), and poison that was consumed is logged under the record's number (R397). -/
def postRecord (y : Isl) (r : Rec) (s : State) : State :=
  let i := s.isl.get y
  let s1 := (putWords (natBits i.rqb.toNat 51 14 * 16384 + 64 * i.rqt.toNat) (recWords r i.rsn) s).modI y fun i =>
    { i with rqt := i.rqt + 1, rsn := i.rsn + 1 }
  let s2 := if r.cause = 0x21 then s1.modC (coreNo r.core.toNat) fun k => { k with dbgStop := false } else s1
  if r.cause = 0x34 then logErr 3 (r.dtl.toNat % 65536) y r.fadr i.rsn s2 else s2

/-- Cores of island y whose eret waits for their record to find a slot go on once none of theirs waits (R357, R360). -/
def resumeWaiting (y : Isl) (s : State) : State :=
  coreIds.foldl (fun s c =>
    if islOf c = y ∧ (s.core.get c).resumeDue ∧
        !((s.isl.get y).waiting.any fun r => r.kind != 0 && r.core == coreField c) then resume c s
    else s) s

/-- RECORD_POST (R357): the oldest waiting record is posted if the queue has a slot; in a full queue event records are dropped
and the others wait. Poison whose record is dropped is logged all the same, without a number (R397). -/
def execRecordPost (s : State) : Out :=
  let y := s.arg.y
  let i := s.isl.get y
  match i.waiting with
  | [] => .next s
  | r :: rest =>
    if queueFull i then
      let lost := i.waiting.filter fun r => r.kind == 0
      let s1 := s.modI y fun i =>
        { i.count 8 lost.length with waiting := i.waiting.filter fun r => r.kind != 0, rqd := i.rqd + BitVec.ofNat 64 lost.length }
      .next (lost.foldl (fun s r => if r.cause = 0x34 then logErr 3 (r.dtl.toNat % 65536) y r.fadr 0 s else s) s1)
    else
      let s1 := resumeWaiting y (postRecord y r (s.modI y fun i => { i with waiting := rest }))
      .next (if rest.isEmpty then s1 else s1.now .recordPost (argY y))

/-- A core that stopped posts its record once every kept delivery has landed (R231, R239, R391). -/
def postStop (c : CoreId) (s : State) : State :=
  let k := s.core.get c
  match k.rec_ with
  | none => s
  | some r =>
    if k.pend.isEmpty && k.loads.isEmpty && !(s.dev.hops.any fun o => o.core == c && o.slot.isNone && o.status == 0 && !o.gone) then
      sendRec (islOf c) (k.recOf r) (s.modC c fun k => { k with rec_ := none })
    else s

/-- SFI_OVERRUN (R234): an event; the core runs on. -/
def execSfiOverrun (s : State) : Out :=
  let c := s.arg.c
  let k := s.core.get c
  .next (eventRec c 0x30 k.r.pc k.sfi 0 (s.modC c fun k => { k with overrun := true }))

/-- REQUESTED_STOP (R391): the core stops at this boundary; its record is posted once every delivery has landed. -/
def execRequestedStop (s : State) : Out :=
  let c := s.arg.c
  let k := s.core.get c
  if k.run ≠ .running then .next s
  else
    let f : W64 := if k.stepArm = 2 then 0x10001 else 0x10000
    let r : Rec := ⟨7, k.penOf, k.ctx, coreField c, 1, 0x21, k.r.pc, BitVec.ofNat 64 k.cyc, f, k.r.phase.setWidth 64, k.r.pc, 0, 0⟩
    .next (postStop c (traceEv c 0x04 k.r.pc f (s.modC c fun k => { k with run := .stopped 0x21, rec_ := some r, stepArm := 0, wait := 0 })))

end Sys2Proof.Machine
end

