-- ==== Sys2Proof/Machine/Priv.lean ====
section
/-! DEFINITION. The privileged instructions and the privileged registers of the management cores (R241, R340, R360, R388). -/

namespace Sys2Proof.Machine

/-- A privileged instruction: on a compute core an illegal-operation trap, whatever its guard (R78, R241). -/
def privileged (op : Nat) (g : Guard) (s : State) (f : State → State) : Out :=
  if isMgmt s.cur then guarded g s f else .next (illegal op s)

/-- The same, where the fields alone can make it an illegal operation (R77 item 4). -/
def privilegedIf (ok : Bool) (op : Nat) (g : Guard) (s : State) (f : State → State) : Out :=
  if isMgmt s.cur && ok then guarded g s f else .next (illegal op s)

/-! Privileged registers. -/

/-- OPM's layout of floors (R372). -/
def floorBits (d : Divs) : Nat := d.ctl * 2 ^ 8 + d.vec * 2 ^ 16 + d.mtx * 2 ^ 24 + d.cpy * 2 ^ 32

/-- CTXC (R331). -/
def ctxcWord (s : State) (x : Ctx) : W64 :=
  BitVec.ofNat 64 (x.en.toNat + 2 * (s.dev.key[x.ksl.toNat]'x.ksl.isLt).loaded.toNat + x.ksl.toNat * 2 ^ 8)

/-- Register k of a context (R331, R361). -/
def ctxRegWord (s : State) (c : Nat) (k : Nat) : W64 :=
  let x := s.ctxOf (BitVec.ofNat 7 c)
  match k with
  | 0 => ctxcWord s x | 1 => x.hwb | 2 => x.hwl | 3 => x.hwo | 4 => x.ptr | 5 => x.svb | 6 => x.svn
  | _ => x.err.setWidth 64

/-- QCTL, QPER, QBUD, QSTA (R327). -/
def queueRegWord (s : State) (q k : Nat) : W64 :=
  let n := queueNo q
  let x := (accrue n s).sqOf n
  match k with
  | 0 => BitVec.ofNat 64 (x.en.toNat + 2 * x.hold.toNat + 4 * x.irq.toNat + x.ctx.toNat * 2 ^ 8)
  | 1 => BitVec.ofNat 64 x.perNext
  | 2 => BitVec.ofNat 64 x.budNext
  | _ => BitVec.ofNat 64 (x.ovr.toNat + pendingOf s n * 2 ^ 4 + (queueCores s n).length * 2 ^ 16 + x.used / Config.usTicks % 2 ^ 32 * 2 ^ 32)

/-- OPS (R373). -/
def opsWord (i : IslandSt) : W64 :=
  BitVec.ofNat 64 (i.vl + floorBits i.floor + i.opMove.isSome.toNat * 2 ^ 37 + i.opPend.isSome.toNat * 2 ^ 38 + i.trp.toNat * 2 ^ 39 +
    i.ign % 256 * 2 ^ 40 + i.rpl % 65536 * 2 ^ 48)

/-- PLS (R379). -/
def plsWord (i : IslandSt) : W64 := BitVec.ofNat 64 (i.vtb.toNat + i.vman.toNat * 2 ^ 16 + i.pl * 2 ^ 17)

/-- Operating-point entry e (R376). -/
def optAt (s : State) (e : Nat) : W64 × W64 := tget (0, 0xFFFFFFC404040400) s.dev.opt e

/-- The operating-point entry that OPTI names (R376). -/
def optEntry (s : State) (i : IslandSt) : W64 × W64 := optAt s i.opti.toNat

/-- Value of a privileged register of island y; none for an index that is not listed. A write-only register reads 0 (R6). The
spec gives no read of 0x1400 to 0x141F: it is a free value (log entry 1). -/
def prRead (s : State) (y : Isl) (idx : Nat) : Option W64 :=
  let i := s.isl.get y
  if 0x0800 ≤ idx ∧ idx < 0x0C00 then some (ctxRegWord s ((idx - 0x0800) / 8) (idx % 8))
  else if 0x0C00 ≤ idx ∧ idx ≤ 0x0C08 then some 0
  else if idx = 0x0C20 then some i.shq
  else if idx = 0x0C30 then some i.cut
  else if idx = 0x0E00 then some i.rqb
  else if idx = 0x0E01 then some (i.rqh.setWidth 64)
  else if idx = 0x0E02 then some (i.rqt.setWidth 64)
  else if idx = 0x0E03 then some i.rqd
  else if 0x1000 ≤ idx ∧ idx < 0x1400 then some (queueRegWord s ((idx - 0x1000) / 4) (idx % 4))
  else if 0x1400 ≤ idx ∧ idx < 0x1420 then some (Config.freeWord s.free)
  else if 0x1420 ≤ idx ∧ idx < 0x1440 then
    let k := s.core.get (coreNo (y.val * 32 + idx % 32))
    some (BitVec.ofNat 64 (k.dbgEn.toNat + 2 * k.dbgStop.toNat + 4 * k.dbgStep.toNat))
  else match idx with
    | 0x1440 => some i.trb
    | 0x1441 => some (BitVec.ofNat 64 (i.trw + i.trDrop % 2 ^ 32 * 2 ^ 32))
    | 0x1442 => some i.trr
    | 0x1800 => some 0
    | 0x1801 => some (opsWord i)
    | 0x1802 => some (i.opmd.setWidth 64)
    | 0x1803 => some i.gov
    | 0x1804 => some i.lim
    | 0x1805 => some (plsWord i)
    | 0x1806 => some i.slr
    | 0x1808 => some (i.opti.setWidth 64)
    | 0x1809 => some (optEntry s i).1
    | 0x180A => some (optEntry s i).2
    | 0x1C00 => some (i.fcore.setWidth 64)
    | 0x1C01 => some (i.fslice.setWidth 64)
    | 0x1C02 => some (i.fstrait.setWidth 64)
    | 0x1C03 => some (i.fdram.setWidth 64)
    | _ => none

/-- MFPR (R241); latency 2. -/
def execMfpr (g : Guard) (d : BitVec 6) (pidx : BitVec 16) (s : State) : Out :=
  privilegedIf (prRead s 0 pidx.toNat).isSome 0xD0 g s fun s =>
    match prRead s (islOf s.cur) pidx.toNat with
    | some v => toS 2 d v { s with free := s.free + 1 }
    | none => illegal 0xD0 s

/-- The steps that a write of v to a privileged register of island y makes; none for an index that is not listed or that is
read-only (R241). A fence register sets the bits that the word has (R389). -/
def prWrite (y : Isl) (idx : Nat) (v : W64) : Option (List (Instr × Arg)) :=
  let a : Arg := { argY y with v := v }
  let reg (r : RegName) : Option (List (Instr × Arg)) := some [(.registerWrite, { a with rg := r })]
  let bits (n : Nat) (i : Instr) : Option (List (Instr × Arg)) :=
    some (((List.range n).filter fun k => v.getLsbD k).map fun k => (i, { argY y with k := k }))
  if 0x0800 ≤ idx ∧ idx < 0x0C00 then
    match idx % 8 with
    | 0 => some [(.ctxcWrite, { a with k := (idx - 0x0800) / 8 })]
    | 7 => none
    | k => reg (.ctx (BitVec.ofNat 7 ((idx - 0x0800) / 8)) (BitVec.ofNat 3 k))
  else if 0x0C00 ≤ idx ∧ idx < 0x0C08 then reg (.keyw y (BitVec.ofNat 3 idx))
  else if 0x1000 ≤ idx ∧ idx < 0x1400 then
    let q := (idx - 0x1000) / 4
    match idx % 4 with
    | 0 => some [(.qctlWrite, { a with k := q })]
    | 1 => some [(.qperWrite, { a with k := q })]
    | 2 => some [(.qbudWrite, { a with k := q })]
    | _ => reg (.qsta (BitVec.ofNat 8 q))
  else if 0x1400 ≤ idx ∧ idx < 0x1420 then
    some (if v = 1 then [(.preemptionRequest, argC (coreNo (y.val * 32 + idx % 32)))] else [])
  else if 0x1420 ≤ idx ∧ idx < 0x1440 then reg (.dbg y (BitVec.ofNat 5 idx))
  else match idx with
    | 0x0C08 =>
      some (if v.getLsbD 8 then [(.keyLoad, { argY y with k := (v.extractLsb' 0 7).toNat })]
        else if v.getLsbD 9 then [(.keyErase, { argY y with k := (v.extractLsb' 0 7).toNat })] else [])
    | 0x0C20 => reg (.shq y)
    | 0x0C30 => reg (.cut y)
    | 0x0E00 => reg (.rq y 0)
    | 0x0E01 => reg (.rq y 1)
    | 0x0E03 => reg (.rq y 3)
    | 0x1440 => reg (.tr y 0)
    | 0x1442 => reg (.tr y 2)
    | 0x1800 => some [(.opmWrite, { a with k := 2 })]
    | 0x1801 => reg (.ops y)
    | 0x1802 => some [(.opmdWrite, a)]
    | 0x1803 => some [(.govWrite, a)]
    | 0x1804 => reg (.lim y)
    | 0x1805 => some [(.plsWrite, a)]
    | 0x1806 => some [(.slrWrite, a)]
    | 0x1808 => reg (.opti y)
    | 0x1809 => reg (.optd0 y)
    | 0x180A => some [(.optd1Write, a)]
    | 0x1C00 => bits 32 .fenceCore
    | 0x1C01 => bits 32 .fenceSlice
    | 0x1C02 => bits 4 .fenceStrait
    | 0x1C03 => bits 16 .fenceDramChannel
    | _ => none

/-- A step that a write of a privileged register makes follows at once; a request for an operating point is taken with those of its
cycle (R372). -/
def regStep (e : Instr × Arg) (s : State) : State :=
  if e.1 = .opmWrite then s.after 0 (.ev e.1 e.2) else s.now e.1 e.2

/-- MTPR (R241): the write takes effect as a step of its own. -/
def execMtpr (g : Guard) (a : BitVec 6) (pidx : BitVec 16) (s : State) : Out :=
  privilegedIf (prWrite 0 pidx.toNat 0).isSome 0xD1 g s fun s =>
    match prWrite (islOf s.cur) pidx.toNat (s.me.r.getS a) with
    | some l => l.foldr regStep s
    | none => illegal 0xD1 s

/-! Invalidation (R340). -/

/-- Ranges [a, a + n) and [lo, hi) share a byte. -/
def meets (a n lo hi : Nat) : Bool := decide (a < hi) && decide (lo < a + n)

/-- The hold of a copy ends at the next 4 KiB boundary of its present page (R340, R344). -/
def trimHold (va : Nat) (p : Option (Nat × Nat × Nat)) (lo hi : Nat) : Option (Nat × Nat × Nat) :=
  match heldAt p va, p with
  | some pa, some h => if meets h.1 h.2.1 lo hi then some (va / 4096 * 4096, 4096, pa - va % 4096) else p
  | _, some h => if meets h.1 h.2.1 lo hi then none else p
  | _, none => none

/-- A copy that is paused under the stall policy gives up its hold at once, any other at its next boundary. -/
def trimRun (r : CopyRun) (lo hi : Nat) : CopyRun :=
  match r.pause with
  | some (.region _) => { r with srcPg := none, dstPg := none }
  | _ =>
    let w := r.cmd.walk
    { r with srcPg := trimHold (w.srcAt r.x).toNat r.srcPg lo hi, dstPg := trimHold (w.dstAt r.x).toNat r.dstPg lo hi }

def CopyUnit.runs (x : CopyUnit) : List CopyRun := x.run.toList ++ x.side
def CopyUnit.modRuns (x : CopyUnit) (f : CopyRun → CopyRun) : CopyUnit := { x with run := x.run.map f, side := x.side.map f }

/-- Translations that a copy holds where it stands. -/
def CopyRun.holds (r : CopyRun) : List (Nat × Nat × Nat) :=
  let w := r.cmd.walk
  if w.total = r.x then []
  else (r.srcPg.toList.filter fun h => (heldAt (some h) (w.srcAt r.x).toNat).isSome) ++
    r.dstPg.toList.filter fun h => (heldAt (some h) (w.dstAt r.x).toNat).isSome

/-- The translation that a hoist or sight holds where it stands. -/
def HalOp.holds (o : HalOp) : List (Nat × Nat × Nat) := o.pg.toList.filter fun h => (heldAt (some h) (o.va.toNat + o.x)).isSome

/-- What the copies, hoists and sights of core c hold. -/
def State.holdings (s : State) (c : CoreId) : List (Nat × Nat × Nat) :=
  let k := s.core.get c
  ((k.cu0.runs ++ k.cu1.runs).flatMap CopyRun.holds) ++ (s.dev.hops.filter fun o => o.core == c).flatMap HalOp.holds

/-- Holds of core c on the range. -/
def holdsOn (s : State) (c : CoreId) (lo hi : Nat) : List (CoreId × Nat × Nat × Nat) :=
  ((s.holdings c).filter fun h => meets h.1 h.2.1 lo hi).map fun h => (c, h)

/-- Accesses of core c that were translated through the context's range and have not performed or delivered, whichever context the
core is bound to now. -/
def accessesOn (s : State) (cx : BitVec 7) (c : CoreId) (lo hi : Nat) : List (CoreId × Nat) :=
  let k := s.core.get c
  ((k.loads.filter fun o => o.isData && o.trip.cx == some cx && meets o.va.toNat o.z lo hi).map fun o => (c, o.id)) ++
    (((k.sto ++ k.wst).filter fun t => t.trip.cx == some cx && meets t.va.toNat t.cells.length lo hi).map fun t => (c, t.id))

/-- Translations of the context and the range leave a buffer, whichever context its core is bound to now. -/
def cutXlat (cx : BitVec 7) (lo hi : Nat) (l : List Xlat) : List Xlat := l.filter fun t => !(t.cx == cx && meets t.va t.size lo hi)

/-- Every buffer of the device, of the cores, their copy units and the walkers, drops its translations of the range; a core of
the context drops its code lines, its withheld stores through the range are asked for, and its copies, hoists and sights give up
their holds. -/
def dropRange (cx : BitVec 7) (lo hi : Nat) (s : State) : State :=
  let s1 := islIds.foldl (fun s y => s.modI y fun i => { i with wc := i.wc.filter fun e =>
    !(e.cx == cx && meets (e.path <<< lvlShift e.lvl) (2 ^ lvlShift e.lvl) lo hi) }) s
  let mine (c : CoreId) : Bool := !isMgmt c && (s.core.get c).ctx == cx
  let trim (o : HalOp) : HalOp := if mine o.core then { o with pg := trimHold (o.va.toNat + o.x) o.pg lo hi } else o
  let s2 := s1.modD fun d => { d with hops := d.hops.map trim }
  coreIds.foldl (fun s c =>
    s.modC c fun k =>
      let cut (u : CopyUnit) : CopyUnit := { u with tlb := cutXlat cx lo hi u.tlb }
      let k1 := { k with tlb := cutXlat cx lo hi k.tlb, cu0 := cut k.cu0, cu1 := cut k.cu1 }
      if !mine c then k1
      else
        { k1 with
          ifb := k.ifb.filter fun l => !meets (64 * l.va) 64 lo hi
          invReq := k.invReq || k.wst.any fun t => t.trip.cx == some cx && meets t.va.toNat t.cells.length lo hi
          cu0 := k1.cu0.modRuns fun r => trimRun r lo hi, cu1 := k1.cu1.modRuns fun r => trimRun r lo hi }) s2

/-- Range of an invalidation (R340). -/
def xlinvRange (va : Nat) (psz : BitVec 3) : Nat × Nat :=
  if psz = 7 then (0, 2 ^ 54) else let n := 2 ^ pageBits psz.toNat; (va / n * n, va / n * n + n)

/-- XLINV (R340). -/
def execXlinv (g : Guard) (d a b : BitVec 6) (psz : BitVec 3) (s : State) : Out :=
  privileged 0xD2 g s fun s =>
    let va := s.me.r.getS a
    if va.extractLsb' 54 10 ≠ 0 then takeTrap 0x0A va 7 s
    else
      let cx : BitVec 7 := (s.me.r.getS b).setWidth 7
      let (lo, hi) := xlinvRange va.toNat psz
      let cs := coreIds.filter fun c => !isMgmt c && (s.core.get c).ctx == cx
      let old := coreIds.flatMap fun c => accessesOn s cx c lo hi
      let s1 := dropRange cx lo hi s
      let held := cs.flatMap fun c => holdsOn s1 c lo hi
      issueCop (4 * s.me.div.ctl) (newCop (.xlinv cx lo hi old held) d 0 .glob 0 0 0 false false 3 none) s1

/-- No agent can use a translation that was cached before the xlinv issued. -/
def xlinvDone (s : State) (old : List (CoreId × Nat)) (held : List (CoreId × Nat × Nat × Nat)) : Bool :=
  (old.all fun e =>
    let k := s.core.get e.1
    !(k.loads.any (·.id == e.2) || (k.sto ++ k.wst).any (·.id == e.2))) &&
  held.all fun e => !(s.holdings e.1).contains e.2

/-- The completion test of an xlinv, made at each control edge of its core. -/
def performXlinv (c : CoreId) (o : Cop) (old : List (CoreId × Nat)) (held : List (CoreId × Nat × Nat × Nat)) (s : State) : State :=
  if xlinvDone s old held then s.now .xlinvComplete (argCI c o.id) else retryCop c o.id s

/-- XLINV_COMPLETE (R340). -/
def execXlinvComplete (s : State) : Out := .next (finishCop s.arg.c s.arg.id 0 s)

/-! Purge, eret, wfe, stest, hsw. -/

/-- A counted operation whose answer comes from a step. -/
def issueWait (f : Nat → Nat → Cop) (s : State) : Nat × State :=
  let id := s.me.nid
  (id, s.modMe fun k => { k with loads := k.loads ++ [{ f id s.order with badr := s.bun.adr }], nid := id + 1 })

/-- PURGE (R383). -/
def execPurge (g : Guard) (d a : BitVec 6) (s : State) : Out :=
  privileged 0xD3 g s fun s =>
    let v := s.me.r.getS a
    let (id, s1) := issueWait (newCop (.purge (v.extractLsb' 16 7) (v.setWidth 16)) d 0 .glob 0 0 0 false false 3 none) s
    startPurge (v.extractLsb' 16 7) (v.setWidth 16) (some (s.cur, id)) none s1

/-- The status bit for a misdirected command (R241). -/
def misdirected (s : State) : State := s.modI (islOf s.cur) fun i => { i with misdir := true }

/-- Local core l of the island of the current core. -/
def localCore (s : State) (l : BitVec 5) : CoreId := coreNo ((islOf s.cur).val * 32 + l.toNat)

/-- A record that waits for deliveries goes to its queue. -/
def flushRec (c : CoreId) (s : State) : State :=
  match (s.core.get c).rec_ with
  | some r => sendRec (islOf c) ((s.core.get c).recOf r) (s.modC c fun k => { k with rec_ := none })
  | none => s

/-- The core goes on, or, while its record waits for a slot of a full queue, once that has been posted (R357). -/
def resumePosted (c : CoreId) (s0 : State) : State :=
  let s := flushRec c s0
  if (s.isl.get (islOf c)).waiting.any fun r => r.kind != 0 && r.core == coreField c then
    s.modC c fun k => { k with resumeDue := true }
  else resume c s

/-- ERET (R360). Mode 0 resumes after a rollback or a stop, but for a matrix-routine trap, a consumption of poison, and a core
with a pending token whose operation was purged; mode 1 unbinds the core and discards its item. -/
def execEret (g : Guard) (a : BitVec 6) (em : Bool) (s : State) : Out :=
  privileged 0xD4 g s fun s =>
    let c := localCore s ((s.me.r.getS a).setWidth 5)
    let k := s.core.get c
    let cause : Option Byte := match k.run with | .trapped x => some x | .stopped x => some x | _ => none
    match cause with
    | none => misdirected s
    | some x =>
      if em then purgeCore c (flushRec c s)
      else if x = 0x15 ∨ x = 0x34 ∨ k.tok.toList.any (fun t => t.pending && t.purged) then misdirected s
      else resumePosted c s

/-- WFE (R241), once the event that holds its issue is queued: the index of the record at HEAD. -/
def execWfe (g : Guard) (d : BitVec 6) (s : State) : Out :=
  privileged 0xD5 g s fun s => toS 1 d ((s.isl.get (islOf s.cur)).rqh.setWidth 64) s

/-- A unit code that R387 lists, for island y. -/
def unitListed (y : Isl) (u : BitVec 16) : Bool :=
  let k := u.toNat / 256
  let i := u.toNat % 256
  if 1 ≤ k ∧ k ≤ 8 then decide (i < 32)
  else match k with
    | 0x10 | 0x11 => decide (i < 32)
    | 0x12 => i == 0
    | 0x20 => decide (i < 4) && i != y.val
    | 0x30 => decide (i < 16)
    | _ => false

/-- A shelf slice or a part of the offshore cache goes out of service for its test (R388). -/
def clearTested (y : Isl) (u : BitVec 16) (s : State) : State :=
  match u.toNat / 256 with
  | 0x10 => emptyPart y (u.toNat % 256) (emptyShelf y (u.toNat % 256) s)
  | 0x11 => emptyPart y (u.toNat % 256) s
  | _ => s

/-- A test of a unit is asked for: one of a core unit pre-empts the core first; a second of the same unit waits (R388). -/
def askTest (y : Isl) (u : BitVec 16) (by_ : Option (CoreId × Nat)) (s : State) : State :=
  let waits : Bool := (s.isl.get y).tests.any fun e => e.1 == u
  let s1 := s.modI y fun i => { i with tests := i.tests ++ [(u, by_)] }
  let s2 := if 1 ≤ u.toNat / 256 ∧ u.toNat / 256 ≤ 8 then requestPreempt (coreNo (y.val * 32 + u.toNat % 256)) s1 else clearTested y u s1
  if waits then s2
  else let (n, s3) := s2.pick; s3.after (n % (2000 * Config.usTicks) + 1) (.ev .selfTestComplete { argY y with n := u.toNat })

/-- STEST (R388): a code that is not listed is an illegal operation. -/
def execStest (g : Guard) (d a : BitVec 6) (s : State) : Out :=
  privileged 0xD6 g s fun s =>
    let u : BitVec 16 := (s.me.r.getS a).setWidth 16
    if !unitListed (islOf s.cur) u then illegal 0xD6 s
    else
      let (id, s1) := issueWait (newCop (.stest u) d 0 .glob 0 0 0 false false 3 none) s
      askTest (islOf s.cur) u (some (s.cur, id)) s1

/-- HSW (R241). -/
def execHsw (g : Guard) (a b : BitVec 6) (s : State) : Out :=
  privileged 0xD7 g s fun s =>
    let c := localCore s ((s.me.r.getS a).setWidth 5)
    let v : BitVec 2 := (s.me.r.getS b).setWidth 2
    if v = 3 then illegal 0xD7 s
    else if (s.core.get c).run = .unbound ∨ (s.core.get c).run = .dark then misdirected s
    else s.modC c fun k => { k with granted := v }

end Sys2Proof.Machine
end

