-- ==== Sys2Proof/Machine/Coher.lean ====
section
/-! DEFINITION. Coherence between islands: the home directory, its requests and answers, back-invalidations, writebacks, and
the host's accesses and snoops (R350 to R356). -/

namespace Sys2Proof.Machine

/-! Directory entries (R350). -/

def filterSet (line : Nat) : Nat := line % 16384

/-- Islands that an entry names. -/
def DirEnt.holders (e : DirEnt) : List Isl :=
  match e.st with
  | .S => e.share
  | .E | .M => [e.owner]
  | .O => e.owner :: e.share.filter (· != e.owner)

/-- What the home does with a request (R353): the new entry, data from memory, a forward, invalidations, whether a Go goes
with them, and whether it goes without data. -/
structure Plan where
  st : DirSt
  owner : Isl
  share : List Isl
  mem : Option Grant
  fwd : Option (Isl × Bool)
  inv : List Isl
  go : Bool
  up : Bool
  deriving DecidableEq, Repr

/-- The table of R353 for a request of island y at home h: kind 0 RdS, 1 RdO, 2 Upg. A request of the home itself leaves no
mask bit. -/
def planOf (h : Isl) (e : Option DirEnt) (y : Isl) (kind : Fin 3) : Plan :=
  let own := y == h
  let none' : Plan := ⟨.S, y, [], none, none, [], false, false⟩
  let toM : Plan := if own then none' else { none' with st := .M }
  match e with
  | none =>
    if kind = 0 then { none' with st := if own then .S else .E, mem := some .E } else { toM with mem := some .M }
  | some e =>
    let add (l : List Isl) : List Isl := if own || l.contains y then l else l ++ [y]
    match e.st with
    | .S =>
      if kind = 0 then { none' with share := add e.share, mem := some .S }
      else
        let rest := e.share.filter (· != y)
        let up : Bool := kind == 2 && e.share.contains y
        { toM with mem := if up then none else some .M, inv := rest, go := up || !rest.isEmpty, up := up }
    | .E | .M =>
      if e.owner = y then (if kind = 0 then { none' with st := .E, mem := some .E } else { toM with mem := some .M })
      else if kind ≠ 0 then { toM with fwd := some (e.owner, true) }
      else if own then { none' with share := [e.owner], fwd := some (e.owner, false) }
      else if e.st = .E then { none' with share := [e.owner, y], fwd := some (e.owner, false) }
      else { none' with st := .O, owner := e.owner, share := [y], fwd := some (e.owner, false) }
    | .O =>
      let rest := e.share.filter fun z => z != y && z != e.owner
      if kind = 0 then
        if own then { none' with share := e.owner :: rest, fwd := some (e.owner, false) }
        else { none' with st := .O, owner := e.owner, share := add e.share, fwd := some (e.owner, false) }
      else if e.owner = y then { toM with inv := rest, go := true, up := true }
      else { toM with fwd := some (e.owner, true), inv := rest, go := !rest.isEmpty }

/-! The home (R352 to R354). -/

/-- The home acts on a request. A request of its own for a line without entry needs none. -/
def serve (h : Isl) (r : HomeReq) (s : State) : State :=
  let e := tfind (s.isl.get h).dir r.line
  let p := planOf h e r.y r.kind
  let b : Busy := ⟨r.y, p.inv, p.go, p.up, p.fwd.map (·.2), [], false⟩
  let wait := !p.inv.isEmpty
  let s1 := if e.isNone ∧ r.y = h then s
    else s.modI h fun i => { i with dir := tset i.dir r.line ⟨p.st, p.owner, p.share, some b, s.tick, e.bind (·.wb)⟩ }
  let s2 := if r.y ≠ h ∧ (r.kind ≠ 0 ∨ p.st = .E) then invAgents h r.line none s1 else s1
  let s3 := match p.mem with
    | some g => sendMsg h r.y .data { argY r.y with line := r.line, gr := g, flag := wait, data := memLine s r.line } s2
    | none => s2
  let s4 := match p.fwd with
    | some (x, o) => sendMsg h x (if o then .fwdo else .fwds) { argY r.y with x := x, line := r.line, flag := wait } s3
    | none => s3
  let s5 := p.inv.foldl (fun s x => sendMsg h x .inv { Arg.zero with x := x, line := r.line } s) s4
  if p.go && !wait then sendMsg h r.y .go { argY r.y with line := r.line, flag := p.up } s5 else s5

/-- A request can be acted on now: its entry is not busy, or there is room for one. -/
def HomeReq.ready (h : Isl) (s : State) (r : HomeReq) : Bool :=
  let i := s.isl.get h
  match tfind i.dir r.line with
  | some e => e.busy.isNone
  | none => r.y == h || decide ((i.dir.filter fun e => filterSet e.1 == filterSet r.line).length < 16)

/-- The home invalidates every holder of a line: the entry is busy until all have answered. -/
def backInvalidate (h : Isl) (line : Nat) (s : State) : State :=
  match tfind (s.isl.get h).dir line with
  | none => s
  | some e =>
    let s1 := s.modI h fun i => { i with dir := tset i.dir line { e with busy := some ⟨h, [], false, false, none, e.holders, false⟩ } }
    e.holders.foldl (fun s x => sendMsg h x .binv { Arg.zero with x := x, line := line } (s.modI h fun i => i.count x.val 1)) s1

/-- A set that a waiting request finds full gives up its least recently used entry that is not busy. -/
def makeRoom (h : Isl) (s : State) : State :=
  let i := s.isl.get h
  match i.hq.find? fun r => !r.ready h s && (tfind i.dir r.line).isNone with
  | none => s
  | some r =>
    let set := i.dir.filter fun e => filterSet e.1 == filterSet r.line
    if set.any fun e => e.2.busy.any fun b => !b.back.isEmpty then s
    else
      let free := set.filter fun e => e.2.busy.isNone
      match free with
      | [] => s
      | f :: l => backInvalidate h (l.foldl (fun a e => if e.2.used < a.2.used then e else a) f).1 s

/-- The home takes what it can of the requests that wait, in their order of arrival. -/
def pump (h : Isl) (s : State) : State :=
  makeRoom h <| (s.isl.get h).hq.foldl (fun s r =>
    let first : Bool := ((s.isl.get h).hq.find? fun q => q.line == r.line) == some r
    if first && r.ready h s then serve h r (s.modI h fun i => { i with hq := i.hq.erase r }) else s) s

/-- A request arrives at home h. -/
def arrive (kind : Fin 3) (s : State) : State :=
  let h := s.arg.h
  pump h (s.modI h fun i => { i with hq := i.hq ++ [⟨s.arg.line, s.arg.y, kind⟩] })

/-- RDS (R353). -/
def execRds (s : State) : Out := .next (arrive 0 s)

/-- RDO (R353). -/
def execRdo (s : State) : Out := .next (arrive 1 s)

/-- UPG (R353). -/
def execUpg (s : State) : Out := .next (arrive 2 s)

/-- Change the entry of a line at its home. -/
def modEnt (h : Isl) (line : Nat) (f : DirEnt → DirEnt) (s : State) : State :=
  match tfind (s.isl.get h).dir line with
  | some e => s.modI h fun i => { i with dir := tset i.dir line (f e) }
  | none => s

def modBusy (h : Isl) (line : Nat) (f : Busy → Busy) (s : State) : State :=
  modEnt h line (fun e => { e with busy := e.busy.map f }) s

/-- An entry that is not busy and names no holder is freed. -/
def tidy (h : Isl) (line : Nat) (s : State) : State :=
  match tfind (s.isl.get h).dir line with
  | some e => if e.busy.isNone && e.holders.isEmpty then s.modI h fun i => { i with dir := tdel i.dir line } else s
  | none => s

/-- Island x leaves an entry. -/
def DirEnt.without (e : DirEnt) (x : Isl) : DirEnt :=
  match e.st with
  | .S => { e with share := e.share.filter (· != x) }
  | .E | .M => if e.owner = x then { e with st := .S, share := [] } else e
  | .O => if e.owner = x then { e with st := .S, share := e.share.filter (· != x) } else { e with share := e.share.filter (· != x) }

/-- The writeback of a line is retired: the evicter may free its buffer. -/
def ackWb (h x : Isl) (line : Nat) (s : State) : State := sendMsg h x .wback { Arg.zero with x := x, line := line } s

def writeLine (line : Nat) (d : BitVec 1024) (s : State) : State := { s with mem := memWrs s.mem (lineCells line d) }

/-- A dirty line that comes back from island x in a flit that failed is poisoned in memory (R381). -/
def writeCrossed (h x : Isl) (line : Nat) (d : BitVec 1024) (s : State) : State :=
  let lost := [2 * line, 2 * line + 1].filter fun p => x != h && s.dev.flits.contains (mgmtOf x, 7, p)
  writeLine line d (if lost.isEmpty then s else markPieces lost (0x2000 + x.val) s)

/-- ACK (R351): with the last one, Go. -/
def execAck (s : State) : Out :=
  let h := s.arg.h
  let line := s.arg.line
  let s1 := modBusy h line (fun b => { b with acks := b.acks.filter (· != s.arg.x) }) s
  match (tfind (s1.isl.get h).dir line).bind (·.busy) with
  | some b =>
    if b.acks.isEmpty && b.go then
      .next (sendMsg h b.req .go { argY b.req with line := line, flag := b.up } (modBusy h line (fun b => { b with go := false }) s1))
    else .next s1
  | none => .next s1

/-- A writeback meets an entry that is not busy: from the owner it writes memory and removes the island (R353). -/
def takeWb (h x : Isl) (line : Nat) (d : BitVec 1024) (s : State) : State :=
  match tfind (s.isl.get h).dir line with
  | none => ackWb h x line s
  | some e =>
    if e.owner = x ∧ e.st ≠ .S then ackWb h x line (tidy h line (modEnt h line (·.without x) (writeCrossed h x line d s)))
    else ackWb h x line s

/-- A writeback that was kept while the line was busy, and that no forward has crossed, is served once the line is not (R353, R355). -/
def takeKept (h : Isl) (line : Nat) (s : State) : State :=
  match tfind (s.isl.get h).dir line with
  | some e =>
    match e.wb with
    | some (x, d) => if e.busy.isNone then takeWb h x line d (modEnt h line (fun e => { e with wb := none }) s) else s
    | none => s
  | none => s

/-- CMP (R352): the entry leaves busy, if it is the requester of the transaction that set it. A request of the home for a line
without entry has set none. -/
def execCmp (s : State) : Out :=
  let h := s.arg.h
  let done (e : DirEnt) : DirEnt :=
    if e.busy.any fun b => b.req == s.arg.y && b.back.isEmpty && (b.inst || s.arg.y != h) then { e with busy := none } else e
  .next (pump h (tidy h s.arg.line (takeKept h s.arg.line (modEnt h s.arg.line done s))))

/-- WB (R353, R355): while the line is busy it is kept. -/
def execWb (s : State) : Out :=
  let h := s.arg.h
  let x := s.arg.x
  let line := s.arg.line
  match tfind (s.isl.get h).dir line with
  | none => .next (ackWb h x line s)
  | some e =>
    if e.busy.isSome then .next (modEnt h line (fun e => { e with wb := some (x, s.arg.data) }) s)
    else .next (pump h (takeWb h x line s.arg.data s))

/-- CE (R353). -/
def execCe (s : State) : Out :=
  let h := s.arg.h
  .next (pump h (tidy h s.arg.line (modEnt h s.arg.line (·.without s.arg.x) s)))

/-- FWDACK (R355): a crossed writeback is retired without a second change to the data. -/
def execFwdack (s : State) : Out :=
  let h := s.arg.h
  let x := s.arg.x
  let line := s.arg.line
  if !s.arg.flag then .next s
  else match tfind (s.isl.get h).dir line with
    | none => .next s
    | some e =>
      let toM : Bool := e.busy.any fun b => b.fwd == some true
      let s1 := match e.wb with
        | some (z, d) => if toM then s else writeCrossed h z line d s
        | none => s
      .next (ackWb h x line (modEnt h line (fun e => { (if toM then e else e.without x) with wb := none }) s1))

/-- One holder has answered a back-invalidation; with the last, the entry is freed and what waits goes on. -/
def backDone (dirty : Option (BitVec 1024)) (s : State) : State :=
  let h := s.arg.h
  let x := s.arg.x
  let line := s.arg.line
  let s1 := match dirty with | some d => writeCrossed h x line d s | none => s
  match tfind (s1.isl.get h).dir line with
  | none => s1
  | some e =>
    let left := ((e.busy.map (·.back)).getD []).filter (· != x)
    let s2 := match e.wb with
      | some (z, _) => ackWb h z line (modEnt h line (fun e => { e with wb := none }) s1)
      | none => s1
    if left.isEmpty then pump h (s2.modI h fun i => { i with dir := tdel i.dir line })
    else modBusy h line (fun b => { b with back := left }) s2

/-- BACK (R354). -/
def execBack (s : State) : Out := .next (backDone none s)

/-- BACKD (R354). -/
def execBackd (s : State) : Out := .next (backDone (some s.arg.data) s)

/-! Holders (R349, R351, R355). -/

/-- Island y installs a line and reports it (R352). At the home the forwarded line goes to memory, and the home may use it. -/
def install (y : Isl) (line : Nat) (g : Grant) (d : BitVec 1024) (s : State) : State :=
  let h := lineHome line
  let s1 := s.modI y fun i => { i with mshr := i.mshr.filter (·.line != line) }
  let s2 :=
    if y = h then
      let s3 := if ((tfind (s1.isl.get h).dir line).bind (·.busy)).any fun b => b.req == h && b.fwd.isSome then writeLine line d s1 else s1
      modBusy h line (fun b => if b.req = h ∧ b.back.isEmpty then { b with inst := true } else b) s3
    else
      let st : LineSt := match g with | .S => .S | .E => .E | .M => .M
      (offshoreRoom y line s1).modI y fun i => { i with copies := tset i.copies line ⟨st, d, 0, 0, none⟩ }
  sendMsg y h .cmp { argY y with h := h, line := line } s2

/-- DATA (R352): usable at once, or with Go. -/
def execData (s : State) : Out :=
  let y := s.arg.y
  let line := s.arg.line
  let m := (s.isl.get y).mshr.find? (·.line == line)
  if s.arg.flag && !(m.any (·.go)) then
    .next (s.modI y fun i => { i with mshr := i.mshr.map fun (m : Mshr) =>
      if m.line = line then { m with wait := true, data := some (s.arg.gr, s.arg.data) } else m })
  else .next (install y line s.arg.gr s.arg.data s)

/-- GO (R352): the grant may be used; an upgraded copy needs no data. -/
def execGo (s : State) : Out :=
  let y := s.arg.y
  let line := s.arg.line
  match (s.isl.get y).mshr.find? (·.line == line) with
  | none => .next s
  | some m =>
    match m.data with
    | some (g, d) => .next (install y line g d s)
    | none =>
      if s.arg.flag then
        match tfind (s.isl.get y).copies line with
        | some c => .next (install y line .M c.data s)
        | none => .next s
      else .next (s.modI y fun i => { i with mshr := i.mshr.map fun (m : Mshr) => if m.line = line then { m with go := true } else m })

/-- The owner answers a forward, from its copy or from its writeback buffer (R355). A clean line that is on its way out as
CE is the same as memory (log entry 17). Where the home took the owner's copy for clean and it is not, the line goes to memory
too, and the owner keeps S as the table's row for E says (R353; log entry 81). -/
def forward (toM : Bool) (s : State) : State :=
  let x := s.arg.x
  let y := s.arg.y
  let line := s.arg.line
  let h := lineHome line
  let i := s.isl.get x
  let out (d : BitVec 1024) (crossed : Bool) (s : State) : State :=
    sendMsg x h .fwdack { Arg.zero with h := h, line := line, x := x, flag := crossed }
      (sendMsg x y .data { argY y with line := line, gr := if toM then .M else .S, flag := s.arg.flag, data := d } s)
  match (tfind i.copies line).filter fun c => c.st != .Rg with
  | some c =>
    let s1 := invAgents x line none s
    let clean : Bool := (tfind (s.isl.get h).dir line).any fun e => e.st == .S
    let s2 := if !toM && clean && c.st != .S then writeLine line c.data s1 else s1
    let st : LineSt := if c.st = .E ∨ y = h ∨ clean then .S else .O
    out c.data false (s2.modI x fun i => { i with copies := if toM then tdel i.copies line else tset i.copies line { c with st := st } })
  | none =>
    match tfind i.wbuf line with
    | some d => out d true s
    | none => out (memLine s line) false s

/-- FWDS (R351). -/
def execFwds (s : State) : Out := .next (forward false s)

/-- FWDO (R351). -/
def execFwdo (s : State) : Out := .next (forward true s)

/-- Island x drops its tracked copy of a line; a copy of a region line is not the home's to drop (R350). -/
def dropCopy (x : Isl) (line : Nat) (s : State) : State :=
  s.modI x fun i => { i with copies := i.copies.filter fun e => e.1 != line || e.2.st == .Rg }

/-- INV (R351): the copy is dropped, line caches included. -/
def execInv (s : State) : Out :=
  let x := s.arg.x
  let line := s.arg.line
  let h := lineHome line
  .next (sendMsg x h .ack { Arg.zero with h := h, line := line, x := x }
    (invAgents x line none (dropCopy x line s)))

/-- BINV (R354, R355): a dirty copy, or one in the writeback buffer, is returned. -/
def execBinv (s : State) : Out :=
  let x := s.arg.x
  let line := s.arg.line
  let h := lineHome line
  let i := s.isl.get x
  let a : Arg := { Arg.zero with h := h, line := line, x := x }
  let s1 := invAgents x line none (dropCopy x line s)
  match (tfind i.copies line).filter fun c => c.st != .Rg, tfind i.wbuf line with
  | some c, _ => .next (if c.st = .M ∨ c.st = .O then sendMsg x h .backd { a with data := c.data } s1 else sendMsg x h .back a s1)
  | none, some d => .next (sendMsg x h .backd { a with data := d } s1)
  | none, none => .next (sendMsg x h .back a s1)

/-- WBACK (R355). -/
def execWback (s : State) : Out := .next (s.modI s.arg.x fun i => { i with wbuf := tdel i.wbuf s.arg.line })

/-! The host and expanders (R344, R356). -/

/-- The page of a line is in device bias. -/
def inDeviceBias (s : State) (line : Nat) : Bool := s.dev.devBias.contains (line / 32)

/-! The launch window (R318 to R320). -/

/-- A host write into slot m of queue q, of the bytes [0, 128) of a line at offset o of the slot that a mask names. While the slot
belongs to the dispatcher the write is discarded and counted; the GO byte takes 0x5A only, which the line monitor sees, and with the
monitor off every byte is plain memory. Triggers of one cycle act in the order of their slots. -/
def windowWrite (q m o mask : Nat) (d : BitVec 1024) (s : State) : State :=
  if (tfind s.dev.parsing (q * 16 + m)).isSome then s.modD fun d => { d with collide := d.collide + 1 }
  else
    let on := s.dev.lwb.getLsbD 0
    let cells := ((List.range 128).filter fun i => mask.testBit i && !(on && o + i == 255)).map fun i =>
      (slotKey q m + o + i, d.extractLsb' (8 * i) 8)
    let s1 := { s with mem := memWrs s.mem cells }
    if on && o == 128 && mask.testBit 127 && d.extractLsb' 1016 8 == 0x5A then
      s1.after 0 (.ev .hostLaunchTrigger { Arg.zero with k := q, m := m })
    else s1

/-- Offset of a line of host physical memory in the launch window. -/
def windowOff (s : State) (line : Nat) : Option Nat :=
  let b := natBits s.dev.lwb.toNat 51 20 * 0x100000
  if b ≤ line * 128 ∧ line * 128 < b + 0x100000 then some (line * 128 - b) else none

/-- HOST_MEM_ACCESS (R318, R320, R344, R356): with m = 1 the line is one of host physical memory, and the launch window's are the
device's; n masks the bytes that are written. Otherwise it is a line of the device: in device bias it is served as the home's own RdS, or RdO and then the write; in host bias
it does not consult the device. What a read returns goes to the host. -/
def execHostMemAccess (s : State) : Out :=
  let line := s.arg.line
  let h := lineHome line
  let wait (s : State) : State := s.after 16 (.ev .hostMemAccess s.arg)
  if s.arg.m = 1 then .next (match windowOff s line with
    | some a => if s.arg.flag then windowWrite (a / 4096) (a % 4096 / 256) (a % 256) s.arg.n s.arg.data s else s
    | none => s)
  else
  if !inDeviceBias s line then .next (if s.arg.flag then writeLine line s.arg.data s else s)
  else match tfind (s.isl.get h).dir line with
    | none => .next (if s.arg.flag then invAgents h line none (writeLine line s.arg.data s) else s)
    | some e =>
      if !s.arg.flag && e.st == .S && e.busy.isNone then .next s
      else .next (wait (askLine h line s.arg.flag s))

/-- HOST_SNOOP (R356): to every holder, or for a shared snoop to the owner, once the entry is not busy. -/
def execHostSnoop (s : State) : Out :=
  let line := s.arg.line
  let h := lineHome line
  match tfind (s.isl.get h).dir line with
  | none => .next (if s.arg.flag then s else invAgents h line none s)
  | some e =>
    if e.busy.isSome then .next (s.after 16 (.ev .hostSnoop s.arg))
    else if s.arg.flag then .next (if e.st = .S then s else askLine h line false s)
    else .next (backInvalidate h line (invAgents h line none s))

/-- EXPANDER_BACK_INVALIDATION (R318, R356): served as BInv at the line's home. -/
def execExpanderBackInvalidation (s : State) : Out :=
  let line := s.arg.line
  let h := lineHome line
  match tfind (s.isl.get h).dir line with
  | none => .next (invAgents h line none s)
  | some e =>
    if e.busy.isSome then .next (s.after 16 (.ev .expanderBackInvalidation s.arg))
    else .next (backInvalidate h line (invAgents h line none s))

end Sys2Proof.Machine
end

