-- ==== Sys2Proof/Machine/Contain.lean ====
section
/-! DEFINITION. Containment: consumed poison, self-tests, fences and the patrol scrubber (R381 to R389, R397, R400). -/

namespace Sys2Proof.Machine

/-- POISON_CONSUMED (R382), by slot m of the bundle at `line`, or by an engine or the fetch (7): the core rolls back and its pennant
is purged, that of an item retired since the checkpoint included, which the rollback gives back (log entry 101); the consumption is
counted now, and the record goes out with the purge count. A core that holds no item stays stopped, and posts its record once its kept
deliveries have landed; a record of an earlier stop that still waits for them goes first. -/
def execPoisonConsumed (s : State) : Out :=
  let c := s.arg.c
  let y := islOf c
  let k := s.core.get c
  if k.run = .unbound ∨ k.run = .dark then .next s
  else
    let r : Rec := ⟨BitVec.ofNat 3 s.arg.m, k.penOf, k.ctx, coreField c, 0, 0x34, BitVec.ofNat 64 s.arg.line, BitVec.ofNat 64 k.cyc, s.arg.v,
      BitVec.ofNat 64 (s.arg.n % 2 ^ 16 + s.arg.flag.toNat * 2 ^ 16), 0, 0, 0⟩
    let s1 := s.modI y fun i => i.count 12 1
    match k.r.held.or k.ck.held with
    | some i => .next (startPurge k.ctx i.pen none (some { r with pen := i.pen }) s1)
    | none =>
      let s2 := match k.rec_ with
        | some x => sendRec y (k.recOf x) s1
        | none => s1
      .next (postStop c (startEdges c ((rollback c s2).modC c fun k => { k.count 12 1 with run := .trapped 0x34, rec_ := some r })))

/-! Self-tests (R388, R401). -/

/-- Core whose unit is tested, if it is a core's. -/
def testedCore (y : Isl) (u : BitVec 16) : Option CoreId :=
  if 1 ≤ u.toNat / 256 ∧ u.toNat / 256 ≤ 8 then some (coreNo (y.val * 32 + u.toNat % 32)) else none

/-- Charge the device overhead account (R370). -/
def chargeOverhead (s : State) : State :=
  let (o, s1) := s.pick
  s1.modD fun d => { d with overhead := d.overhead + BitVec.ofNat 64 (o % 2 ^ 32), total := d.total + BitVec.ofNat 64 (o % 2 ^ 32) }

/-- SELF_TEST_COMPLETE (R388): the verdict, which is free, is delivered. A test of a core's unit waits until the core is
unbound. -/
def execSelfTestComplete (s : State) : Out :=
  let y := s.arg.y
  let u : BitVec 16 := BitVec.ofNat 16 s.arg.n
  match (s.isl.get y).tests.find? fun e => e.1 == u with
  | none => .next s
  | some e =>
    match (testedCore y u).filter fun c => (s.core.get c).run != .unbound with
    | some c => .next ((requestPreempt c s).after (2 * Config.usTicks) (.ev .selfTestComplete s.arg))
    | none =>
      let (n, s1) := s.pick
      let v := n % 3
      let s2 := s1.modI y fun i => { (if v = 0 then i else i.count (13 + v) 1) with tests := i.tests.erase e }
      let s3 := if v = 0 then s2 else logErr 4 u.toNat y (BitVec.ofNat 64 v) 0 s2
      let s4 := match e.2 with
        | some (c, id) => finishCop c id (BitVec.ofNat 64 v) s3
        | none => s3.modD fun d => { d with itr := BitVec.ofNat 64 (v + 0x100), itrBusy := false }
      let s5 := chargeOverhead s4
      let (m, s6) := s5.pick
      let s7 := if (s6.isl.get y).tests.any fun x => x.1 == u then
          s6.after (m % (2000 * Config.usTicks) + 1) (.ev .selfTestComplete s.arg) else s6
      .next (dispatch s7)

/-! Fences (R389). -/

/-- FENCE_CORE (R389): a bound core's pre-emption is requested. The logged unit is the core's scalar unit (log entry 20). -/
def execFenceCore (s : State) : Out :=
  let y := s.arg.y
  let k := s.arg.k % 32
  if (s.isl.get y).fcore.getLsbD k then .next s
  else .next (requestPreempt (coreNo (y.val * 32 + k)) (logErr 5 (0x100 + k) y 0 0 (s.modI y fun i => { i with fcore := i.fcore ||| 1#32 <<< k })))

/-- FENCE_SLICE (R389): the slice's lines are written back. -/
def execFenceSlice (s : State) : Out :=
  let y := s.arg.y
  let k := s.arg.k % 32
  if (s.isl.get y).fslice.getLsbD k then .next s
  else
    .next (emptyPart y k (emptyShelf y k (logErr 5 (0x1000 + k) y 0 0 (s.modI y fun i => { i with fslice := i.fslice ||| 1#32 <<< k }))))

/-- FENCE_STRAIT (R389): messages take the longer way from now on (msgTicks). -/
def execFenceStrait (s : State) : Out :=
  let y := s.arg.y
  let k := s.arg.k % 4
  if (s.isl.get y).fstrait.getLsbD k then .next s
  else .next (logErr 5 (0x2000 + k) y 0 0 (s.modI y fun i => { i with fstrait := i.fstrait ||| 1#4 <<< k }))

/-- FENCE_DRAM_CHANNEL (R389): what is read from the channel is poison from now on (State.onFenced). -/
def execFenceDramChannel (s : State) : Out :=
  let y := s.arg.y
  let k := s.arg.k % 16
  if (s.isl.get y).fdram.getLsbD k then .next s
  else .next (logErr 5 (0x3000 + k) y 0 0 (s.modI y fun i => { i with fdram := i.fdram ||| 1#16 <<< k }))

/-! The scrubber (R400). -/

/-- PATROL_SCRUB (R400): an uncorrectable line is marked poisoned in place, and no data changes. Which line has such an error is an
input (the flag, or State's list), and whether a symbol had to be corrected is free (log entry 6). The scrubber goes on with its next
line. Lines of the LPDDR6 have no unit code (R387). -/
def execPatrolScrub (s : State) : Out :=
  let line := s.arg.line
  let y := lineHome line
  let unit := if line < 4 * tierLines then 0x3000 + Config.dramChannel line % 16 else 0
  if s.dev.scp = 0 then .next s
  else
    let s1 := chargeOverhead s
    let s2 :=
      if s.arg.flag || s.dev.errs.any (fun p => p / 2 == line) then
        logErr 2 unit y (BitVec.ofNat 64 (line * 128)) 0 (markPieces [2 * line, 2 * line + 1] unit ((s1.modI y fun i => i.count 11 1).modD fun d =>
          { d with errs := d.errs.filter fun p => p / 2 != line }))
      else
        let (n, s2) := s1.pick
        if n % 2 = 1 then corrected unit y s2 else s2
    .next (if s.arg.flag then s2 else nextScrub line s.arg.n s2)

end Sys2Proof.Machine
end

