-- ==== Sys2Proof/Machine/Power.lean ====
section
/-! DEFINITION. Operating points, the rail, the governor, thermal and current limits, divisor changes, power levels and the
slew limiter's parameters (R11, R371 to R380, R399). -/

namespace Sys2Proof.Machine

/-! Requests and moves (R372, R373). -/

/-- Floors in the layout of OPM. -/
def floorsOf (v : W64) : Divs :=
  ⟨(v.extractLsb' 8 5).toNat, (v.extractLsb' 16 5).toNat, (v.extractLsb' 24 5).toNat, (v.extractLsb' 32 5).toNat⟩

def Divs.all (d : Divs) (p : Nat → Bool) : Bool := p d.ctl && p d.vec && p d.mtx && p d.cpy

/-- A request that is not ignored: reserved bits 0, floors 3 to 16. -/
def opmOk (v : W64) : Bool :=
  v.extractLsb' 37 27 == 0 && v.extractLsb' 29 3 == 0 && v.extractLsb' 21 3 == 0 && v.extractLsb' 13 3 == 0 && v.extractLsb' 3 5 == 0 &&
    (floorsOf v).all fun n => decide (3 ≤ n) && decide (n ≤ 16)

def pointOf (v : W64) : Opp := ⟨(v.extractLsb' 0 3).toNat, floorsOf v⟩

/-- Phases that ran at their entry's point so far no longer do, where island y is not at that point (R376). -/
def repoint (y : Isl) (s : State) : State :=
  let i := s.isl.get y
  s.modD fun d => { d with pool := d.pool.map fun e =>
    match e.2.opt with
    | some (n, _) =>
      let p := pointOf (entryPoint ((tget (0, 0) d.opt n).2))
      if i.opMove.isNone ∧ i.vl = p.vl ∧ i.floor = p.fl then e else (e.1, { e.2 with opt := none })
    | none => e }

/-- A move starts (R373): floors first on the way down, at once at the same level. -/
def startMove (y : Isl) (p : Opp) (s : State) : State :=
  let i := s.isl.get y
  if p.vl < i.vl then
    (s.modI y fun i => { i with floor := p.fl, opMove := some p }).after Config.usTicks (.ev .railMoveStep (argY y))
  else if i.vl < p.vl then
    (s.modI y fun i => { i with opMove := some p }).after (2 * Config.usTicks) (.ev .railMoveStep (argY y))
  else s.modI y fun i => { i with floor := p.fl }

/-- A request for point p at island y (R372). -/
def requestPoint (y : Isl) (p : Opp) (s : State) : State :=
  let i := s.isl.get y
  if i.opMove.isNone then startMove y p s
  else s.modI y fun i => { i with opPend := some p, rpl := i.rpl + i.opPend.isSome.toNat }

/-- A write of OPM, from firmware, the governor or table recall. A phase whose own request was ignored, or waits behind a move, does
not run at its entry's point (R376). -/
def writeOpm (y : Isl) (v : W64) (s : State) : State :=
  repoint y (if opmOk v then requestPoint y (pointOf v) s else s.modI y fun i => { i with ign := i.ign + 1 })

/-- OPM_WRITE (R372). -/
def execOpmWrite (s : State) : Out := .next (writeOpm s.arg.y s.arg.v s)

/-- RAIL_MOVE_STEP (R373): the rail arrives at the next level; at the last, the pending request starts. -/
def execRailMoveStep (s : State) : Out :=
  let y := s.arg.y
  let i := s.isl.get y
  match i.opMove with
  | none => .next s
  | some p =>
    let up := decide (i.vl < p.vl)
    let vl := if up then i.vl + 1 else i.vl - 1
    if vl ≠ p.vl then
      .next ((s.modI y fun i => { i with vl := vl }).after (if up then 2 * Config.usTicks else Config.usTicks) (.ev .railMoveStep (argY y)))
    else
      let s1 := s.modI y fun i => { i with vl := vl, opMove := none, opPend := none, floor := p.fl }
      .next (match i.opPend with
        | some q => repoint y (startMove y q s1)
        | none => s1)

/-! Policy (R374, R375). -/

/-- Islands of the partition that holds island y. -/
def partSize (s : State) (y : Isl) : Nat := (islIds.filter fun x => s.partOf x == s.partOf y).length

/-- OPMD_WRITE (R374). A new mode starts a new governor window, which begins with the next control interval (log entry 16). -/
def execOpmdWrite (s : State) : Out :=
  let y := s.arg.y
  let v := s.arg.v
  let m : BitVec 2 := v.setWidth 2
  let n := partSize s y
  if m = 3 then .next s
  else if (m = 1 ∧ 2 < n) ∨ (m = 2 ∧ n ≠ 4) then .next (s.modI y fun i => { i with ign := i.ign + 1 })
  else .next (s.modI y fun i => { i with opmd := m, govWait := true })

/-- GOV_WRITE (R375). -/
def execGovWrite (s : State) : Out :=
  let v := s.arg.v &&& 0x3FFFFF
  if (v.extractLsb' 19 3).toNat < (v.extractLsb' 16 3).toNat ∨ (v.extractLsb' 8 8).toNat < (v.extractLsb' 0 8).toNat then
    .next s
  else .next (s.modI s.arg.y fun i => { i with gov := v })

/-- A point at level vl with every floor at Dmin, as an OPM word. -/
def levelPoint (vl : Nat) : W64 :=
  let d := effDiv.dmin vl
  BitVec.ofNat 64 (vl + floorBits ⟨d, d, d, d⟩)

/-- GOVERNOR_WINDOW (R375): the end of a window. The request is taken before those of the same cycle from other sources (R372). -/
def execGovernorWindow (s : State) : Out :=
  let y := s.arg.y
  let i := s.isl.get y
  let n := i.govI + i.govS + i.govM
  let s1 := s.modI y fun i => { i with govN := 0, govI := 0, govM := 0, govS := 0 }
  if i.opmd ≠ 1 ∨ n = 0 then .next s1
  else
    let sigma := 256 * (i.govI + i.govS) / n
    let g := i.gov.toNat
    if sigma < natBits g 7 0 ∧ natBits g 18 16 < i.vl then .next (s1.after 0 (.ev .opmWrite { argY y with v := levelPoint (i.vl - 1) }))
    else if natBits g 15 8 ≤ sigma ∧ i.vl < natBits g 21 19 then .next (s1.after 0 (.ev .opmWrite { argY y with v := levelPoint (i.vl + 1) }))
    else .next s1

/-! The recall table (R376, R399). -/

/-- The second word of an entry as it is kept: its floors have the layout of OPM [36:0], whose reserved bits read 0, with VL bits 0 (R6, R372,
R376). -/
def entryKept (w : W64) : W64 := w &&& 0xFFFFFFFF1F1F1F00

/-- An entry is stored: launches whose phase runs at it go on at its point only while it names the same one. A first doubleword that
the host wrote before counts no more (R399). -/
def storeEntry (e : Nat) (w0 w : W64) (s : State) : State :=
  let old := (optAt s e).2
  let w1 := entryKept w
  s.modD fun d =>
    { d with
      opt := tset d.opt e (w0, w1)
      optd0 := d.optd0.filter fun x => x.1 != e
      pool := d.pool.map fun l =>
        match l.2.opt with
        | some (n, _) => if n = e ∧ entryPoint old ≠ entryPoint w1 then (l.1, { l.2 with opt := none }) else l
        | none => l }

/-- OPTD1_WRITE (R376): the entry that OPTI names is stored. -/
def execOptd1Write (s : State) : Out :=
  let i := s.isl.get s.arg.y
  .next (storeEntry i.opti.toNat i.optd0 s.arg.v (s.modI s.arg.y fun i => { i with optd1 := entryKept s.arg.v }))

/-- OPT_MIRROR_WRITE (R399): a doubleword from the host; the entry takes effect with its second, whose first is the one that the host
has written since the entry was last stored, or the entry's own. -/
def execOptMirrorWrite (s : State) : Out :=
  let e := s.arg.k % 1024
  let v := s.arg.v
  if (s.isl.get 0).opmd = 2 then .next s
  else if s.arg.flag then .next (storeEntry e ((tfind s.dev.optd0 e).getD (optAt s e).1) v s)
  else .next (s.modD fun d => { d with optd0 := tset d.optd0 e (v &&& 0xFFFFFFFFFF000001) })

/-! Limits (R377) and power levels (R379). -/

/-- Thermal divisor of a reading in degrees Celsius. -/
def thermalDiv (t : Nat) : Nat := if t ≤ 95 then 3 else if t ≤ 100 then 4 else if t ≤ 105 then 6 else if t ≤ 110 then 8 else 16

/-- Current divisor of I4 under ILIM. -/
def currentDiv (i4 ilim : Nat) : Nat := ((List.range 14).map (· + 3)).find? (fun d => decide (i4 * 4 ≤ ilim * d)) |>.getD 16

/-- Granted power level of D, rounded up to a divisor of the table. -/
def powerLevel (d : Nat) : Nat :=
  if d ≤ 3 then 7 else if d = 4 then 6 else if d = 5 then 5 else if d = 6 then 4 else if d ≤ 8 then 3 else if d ≤ 10 then 2 else if d ≤ 12 then 1 else 0

/-- Bound compute cores of island y take the variant of the island's level. -/
def grantVariants (y : Isl) (s : State) : State :=
  let i := s.isl.get y
  if i.vman then s
  else
    let v : BitVec 2 := i.vtb.extractLsb' (2 * i.pl) 2
    coreIds.foldl (fun s c =>
      let k := s.core.get c
      if islOf c = y ∧ !isMgmt c ∧ k.run ≠ .unbound then s.modC c fun k => { k with granted := v } else s) s

/-- Contexts with a core bound on island y. -/
def boundCtxs (s : State) (y : Isl) : List (BitVec 7) :=
  ((coreIds.filter fun c => islOf c == y && !isMgmt c && (s.core.get c).run != .unbound).map fun c => (s.core.get c).ctx).eraseDups

/-- A reading above 115 degrees Celsius (R377): Dth is 16, and it is logged (R397). -/
def tripThermal (y : Isl) (s : State) : State := logErr 6 0 y 0 0 (s.modI y fun i => { i with dth := 16, trp := true })

/-- Flits that the straits of island y sent again in the interval that ends, by far island (R395): an input, as the sensors' readings
are (log entry 6). -/
def countRetries (y : Isl) (s : State) : State :=
  (islIds.filter (· != y)).foldl (fun s b =>
    let (n, s1) := s.pick
    s1.modI y fun i => i.count (4 + b.val) n) s

/-- Errors that reads of island y's storage met and corrected in the interval that ends (R395, R397): an input too (log entry 6). -/
def metErrors (y : Isl) (s : State) : State :=
  let (n, s1) := s.pick
  (List.range n).foldl (fun s _ =>
    let (u, s1) := s.pick
    corrected (unitCode y u) y s1) s1

/-- The reserve is measured: once it has held 160 mJ, launches that waited for it may start (R364). -/
def measureReserve (s : State) : State :=
  let (r, s1) := s.pickW
  let ok := decide (160000000 ≤ r.toNat)
  let s2 := s1.modD fun d => { d with reserve := r, resOk := d.resOk || ok }
  if ok && !s.dev.resOk then dispatch s2 else s2

/-- CONTROL_INTERVAL (R377, R379): limits from the interval before, whose sensor reading and current are inputs (log entry
6), the power level, the sweep of R262, energy accounts, the reserve's measured energy, the flits sent again and the errors corrected,
and the next interval. A governor window that a write of OPMD has asked for begins here. -/
def execControlInterval (s : State) : Out :=
  let y := s.arg.y
  let (t, s1) := s.pick
  let (a, s2) := s1.pick
  let dth := thermalDiv t
  let dcur := currentDiv a (natBits (s2.isl.get y).lim.toNat 15 0)
  let s2' := if 115 < t then tripThermal y s2 else s2
  let s3 := s2'.modI y fun i => { i with dth := dth, dcur := dcur, pl := powerLevel (max dth dcur) }
  let s4 := (boundCtxs s3 y).foldl (fun s c => chargeCtx c s) (grantVariants y s3)
  let s7 := measureReserve s4
  let begins := (s7.isl.get y).govWait
  let n := if begins then 0 else (s7.isl.get y).govN + 1
  let s7' := if begins then s7.modI y fun i => { i with govWait := false, govI := 0, govM := 0, govS := 0 } else s7
  let s8 := (s7'.modI y fun i => { i with govN := n }).at (s.tick + Config.intervalTicks) (.ev .controlInterval (argY y))
  let s9 := if 4 ≤ n then s8.now .governorWindow (argY y) else s8
  .next (metErrors y (countRetries y (s9.now .regionSweep (argY y))))

/-- THERMAL_TRIP (R377): such a reading at any other moment. -/
def execThermalTrip (s : State) : Out := .next (tripThermal s.arg.y s)

/-- PLS_WRITE (R379). -/
def execPlsWrite (s : State) : Out :=
  let v := s.arg.v
  if (List.range 8).any (fun l => v.extractLsb' (2 * l) 2 == 3) then .next s
  else .next (s.modI s.arg.y fun i => { i with vtb := v.setWidth 16, vman := v.getLsbD 16 })

/-- SLR_WRITE (R380): the new value takes effect at the next grant slot, which the interval in effect places. -/
def execSlrWrite (s : State) : Out :=
  let v := s.arg.v &&& 0x3FFFF1FFF
  let ups := (List.range 6).map fun e => (v.extractLsb' (16 + 3 * e) 3).toNat
  let gint := (v.extractLsb' 0 8).toNat
  if ups.any (fun u => u == 0 || decide (5 ≤ u)) ∨ !ups.contains 4 ∨ v.extractLsb' 8 4 = 0 ∨ gint % 4 ≠ 0 ∨ gint < 4 then
    .next (s.modI s.arg.y fun i => { i with ign := i.ign + 1 })
  else .next (s.modI s.arg.y fun i =>
    if s.tick ≤ i.slrFrom then { i with slr := v }
    else { i with slrOld := i.slr, slrFrom := nextSlot i.slr s.tick, slr := v })

/-! Divisor changes (R11, R229, R378). -/

/-- Domain that a step of core c's engines counts in. -/
def dueDom (c : CoreId) : Due → Option Dom
  | .mcyc x | .array x | .micro x => if x = c then some .mtx else none
  | .piece x _ => if x = c then some .cpy else none
  | .ev i a =>
    if a.c ≠ c then none
    else match i with
      | .routineComplete | .azeroComplete | .lloadComplete | .drainComplete | .epicfgComplete | .cksnapComplete | .scaleWriteLand |
        .rampWindow | .rampDown => some .mtx
      | .copyBegin | .copyComplete | .slackExpire | .bclatComplete => some .cpy
      | .loadDelivery => some .ctl
      | _ => none
  | _ => none

/-- Tick t, an edge of a domain whose divisor was old, in edges of the new one from the boundary b on, which is an edge of every
domain (R11). -/
def rescale (b old new t : Nat) : Nat := if t ≤ b then t else b + (t - b) / old * new

/-- The agenda again in its order. -/
def resort (l : List Entry) : List Entry := l.foldl insEntry []

/-- New effective divisors reach core c now: all four domains have a common edge, and what is in flight keeps its count of
cycles (R11, R229, R378). A result already counted from a tick of another agent keeps that tick. -/
def changeDiv (c : CoreId) (s0 : State) : State :=
  let s := classUp c s0
  let k := s.core.get c
  let new := effDiv s c
  let b := s.tick
  let sc (x : Dom) (t : Nat) : Nat := rescale b (k.div.get x) (new.get x) t
  let s1 := { s with agenda := resort (s.agenda.map fun (e : Entry) =>
    match dueDom c e.due with
    | some x => { e with at_ := sc x e.at_ }
    | none => e) }
  s1.modC c fun k =>
    { k with
      div := new
      base := b
      arbTo := sc .mtx k.arbTo
      ports := []
      mlast := max k.mlast (b - 1)
      lastA := k.lastA.map (sc .vec), lastB := k.lastB.map (sc .vec), lastSc := k.lastSc.map (sc .mtx)
      scw := k.scw.map fun w => { w with at_ := sc .mtx w.at_ }
      pend := k.pend.map fun (d : Delivery) => if d.lat = 0 then d else { d with ready := sc d.dom d.ready } }

/-- DIVISOR_CHANGE (R378). -/
def execDivisorChange (s : State) : Out := .next (changeDiv s.arg.c s)

end Sys2Proof.Machine
end

