-- ==== Sys2Proof/Machine/Fleet.lean ====
section
/-! DEFINITION. Operating many modules: telemetry snapshots, in-field tests, firmware update, attestation and partitions, and what
the host reads from BAR0 (R317, R319, R327, R331, R344, R364, R395 to R405). -/

namespace Sys2Proof.Machine

/-! Telemetry (R395, R396). -/

/-- Every counter of both blocks, with this tick's events and the matrix cycles up to it. -/
def countersNow (s : State) : Tbl Nat :=
  let s1 := coreIds.foldl (fun s c => classUp c s) { s with tick := s.tick + 1 }
  ((List.range 128).flatMap fun g => (s1.core.get (coreNo g)).tele.map fun e => (32 * g + e.1, e.2)) ++
    islIds.flatMap fun y => (s1.isl.get y).tele.map fun e => (0x2000 + 128 * y.val + e.1, e.2)

/-- Counter at an offset from BAR0 + 0x0060_0000: the shadow's once a snapshot has been taken, but for TSN [1]; 0 where none is listed. -/
def counterRead (s : State) (off : Nat) : Nat :=
  let key := if off < 0x8000 then off / 8 else 0x2000 + (off - 0x8000) / 8
  tget 0 (if s.dev.tsnTaken && !s.dev.tsnLive then s.dev.shadow else countersNow s) key

/-- TELEMETRY_SNAPSHOT (R396): a write of TSN. The copy takes a free time of at most 20 us. -/
def execTelemetrySnapshot (s : State) : Out :=
  let v := s.arg.v
  if s.dev.tsn then .next s
  else
    let s1 := s.modD fun d => { d with tsnLive := v.getLsbD 1 }
    if v.getLsbD 0 then
      let (n, s2) := (s1.modD fun d => { d with tsn := true, tsnTaken := true, shadow := countersNow s }).pick
      .next (s2.after (n % (20 * Config.usTicks) + 1) (.ev .telemetrySnapshotDone Arg.zero))
    else .next s1

/-- TELEMETRY_SNAPSHOT_DONE (R396). -/
def execTelemetrySnapshotDone (s : State) : Out := .next (s.modD fun d => { d with tsn := false })

/-! In-field tests (R401). -/

/-- INFIELD_TEST_REQUEST (R401): a write of ITQ. A code that R387 does not list starts no test (log entry 20). -/
def execInfieldTestRequest (s : State) : Out :=
  let v := s.arg.v
  let y : Isl := ⟨(v.extractLsb' 0 2).toNat % 4, by omega⟩
  let u := v.extractLsb' 16 16
  if !v.getLsbD 32 || s.dev.itrBusy || !unitListed y u then .next s
  else .next (askTest y u none (s.modD fun d => { d with itrBusy := true, itr := 0 }))

/-! Firmware update (R402, R403). -/

/-- FW_PROG (R403): the image is verified and programmed in a free time. -/
def execFwProg (s : State) : Out :=
  if s.dev.fwSt = 1 then .next s
  else
    let (n, s1) := (s.modD fun d => { d with fwSt := 1, fwWhy := 0 }).pick
    .next (s1.after (n + 1) (.ev .fwProgComplete Arg.zero))

/-- The image in host memory at FWA.ADR, as long as its header says, and at most a bank's 16 MiB (R402, R403; log entry 7). -/
def hostImage (s : State) : List Byte :=
  let bytes (n : Nat) : List Byte := (List.range n).map fun i => Config.hostByte s.free (s.dev.fwa.toNat + i)
  bytes (min (2 ^ 24) (0x40 + fwLen (bytes 0x40) + 64))

/-- An image is checked: a good one goes to the inactive bank, a bad one is refused with its reason (R403). -/
def programBank (img : List Byte) (s : State) : State :=
  let why := fwWhyOf s.dev.idHash s.dev.fuse img
  if why ≠ 0 then s.modD fun d => { d with fwSt := 3, fwWhy := BitVec.ofNat 8 why }
  else s.modD fun d => { d with fwSt := 2, bank0 := if d.fwAct then img else d.bank0, bank1 := if d.fwAct then d.bank1 else img }

/-- FW_PROG_COMPLETE (R403). -/
def execFwProgComplete (s : State) : Out :=
  if s.dev.fwSt ≠ 1 then .next s else .next (programBank (hostImage s) { s with free := s.free + 1 })

/-- FW_COMMIT (R403): the programmed bank is the active one at the next reset. -/
def execFwCommit (s : State) : Out :=
  if s.dev.fwSt ≠ 2 then .next s else .next (s.modD fun d => { d with fwNext := !d.fwAct })

/-! Attestation (R404). -/

/-- ATTESTATION_START (R404). -/
def execAttestationStart (s : State) : Out :=
  if s.dev.attBusy then .next s
  else
    let (n, s1) := (s.modD fun d => { d with attBusy := true, attDone := false }).pick
    .next (s1.after (n % (5000 * Config.usTicks) + 1) (.ev .attestationReport Arg.zero))

/-- n bytes of a number, little-endian. -/
def byteList (v : Nat) : Nat → List Byte
  | 0 => []
  | n + 1 => BitVec.ofNat 8 v :: byteList (v / 256) n

/-- Bytes 0 to 447 of a report: what R404 lists, in its order; the places are the model's (log entry 10). -/
def reportBody (s : State) : List Byte :=
  let d := s.dev
  let run := fwBank d d.fwAct
  let masks := islIds.flatMap fun y =>
    let i := s.isl.get y
    byteList i.fcore.toNat 4 ++ byteList i.fslice.toNat 4 ++ byteList i.fstrait.toNat 2 ++ byteList i.fdram.toNat 2
  let fields := byteList d.nonce.toNat 32 ++ byteList (Config.sha256 d.bank0).toNat 32 ++ byteList (Config.sha256 d.bank1).toNat 32 ++
    byteList d.fwAct.toNat 4 ++ byteList (fwField run 4 4) 4 ++ byteList (fwSvn run) 4 ++ byteList d.fuse 4 ++
    byteList d.prt.toNat 8 ++ (d.pcx.toList.flatMap fun w => byteList w.toNat 8) ++ masks
  fields ++ List.replicate (448 - fields.length) 0

/-- ATTESTATION_REPORT (R404): the report and its signature. -/
def execAttestationReport (s : State) : Out :=
  if !s.dev.attBusy then .next s
  else
    let b := reportBody s
    .next (s.modD fun d => { d with attBusy := false, attDone := true, report := b ++ byteList (Config.signWith s.dev.attKey b).toNat 64 })

/-- The 1,536 bytes of the device certificate, with its length in the first two (R404). -/
def certBytes (d : DevSt) : List Byte :=
  let b := byteList d.cert.length 2 ++ d.cert
  (b ++ List.replicate 1536 0).take 1536

/-- The doubleword of a byte list at an offset. -/
def listWord (b : List Byte) (o : Nat) : W64 := BitVec.ofNat 64 (fwField b o 8)

/-! What the host reads from BAR0. -/

/-- FWS (R403). -/
def fwsWord (d : DevSt) : W64 := BitVec.ofNat 64 (d.fwSt.toNat + d.fwWhy.toNat * 2 ^ 8 + d.fwAct.toNat * 2 ^ 16)

/-- ELW (R397). -/
def elwWord (d : DevSt) : W64 := BitVec.ofNat 64 (d.elw.toNat + d.elN % 2 ^ 32 * 2 ^ 32)

/-- The device's registers below BAR0 + 0x1000, by their doubleword's offset. -/
def bar0Reg (s : State) (o : Nat) : W64 :=
  let d := s.dev
  if 0x40 ≤ o ∧ o < 0xC0 then BitVec.ofNat 64 (tget 0 d.port ((o - 0x40) / 8))
  else if 0x410 ≤ o ∧ o < 0x430 then d.pcx.toList.getD ((o - 0x410) / 8) 0
  else if 0x700 ≤ o ∧ o < 0x720 then (d.nonce >>> (8 * (o - 0x700))).setWidth 64
  else if 0x800 ≤ o ∧ o < 0xA00 then listWord d.report (o - 0x800)
  else if 0xA00 ≤ o then listWord (certBytes d) (o - 0xA00)
  else match o with
    | 0x000 => d.boot.setWidth 64
    | 0x100 => d.lwb
    | 0x108 => BitVec.ofNat 64 d.admf.toNat
    | 0x110 => BitVec.ofNat 64 d.msu
    | 0x118 => BitVec.ofNat 64 Config.mslBytes
    | 0x208 => BitVec.ofNat 64 (d.bfBusy.isSome.toNat + 2 * d.bfDone.toNat)
    | 0x308 => d.itr
    | 0x400 => d.prt.setWidth 64
    | 0x500 => BitVec.ofNat 64 (d.tsn.toNat + 2 * d.tsnLive.toNat)
    | 0x510 => elwWord d
    | 0x520 => d.scp
    | 0x600 => d.fwa
    | 0x610 => fwsWord d
    | 0x720 => BitVec.ofNat 64 (2 * d.attDone.toNat)
    | _ => 0

/-- The doubleword that the host reads at an offset from BAR0, a multiple of 8: registers, queues (R327), contexts (R331), the restart
report (R369), the energy accounts (R398), telemetry (R395), the table of operating points (R399) and the error log (R397). An offset
that the spec gives no register reads 0 (log entry 112). -/
def bar0Read (s : State) (o : Nat) : W64 :=
  let d := s.dev
  if o < 0x1000 then bar0Reg s o
  else if 0x100000 ≤ o ∧ o < 0x102000 then queueRegWord s ((o - 0x100000) / 32) (o / 8 % 4)
  else if 0x200000 ≤ o ∧ o < 0x202000 then ctxRegWord s ((o - 0x200000) / 64) (o / 8 % 8)
  else if 0x300000 ≤ o ∧ o < 0x314000 then BitVec.ofNat 64 (memRdN s.mem (reportKey (o - 0x300000)) 8)
  else if 0x500000 ≤ o ∧ o < 0x500400 then (s.ctxOf (BitVec.ofNat 7 ((o - 0x500000) / 8))).energy
  else if o = 0x500400 then d.overhead
  else if o = 0x500408 then d.heldUj
  else if o = 0x500410 then d.total
  else if 0x600000 ≤ o ∧ o < 0x609000 then BitVec.ofNat 64 (counterRead s (o - 0x600000))
  else if 0x700000 ≤ o ∧ o < 0x704000 then
    let e := optAt s ((o - 0x700000) / 16)
    if o / 8 % 2 = 0 then e.1 else e.2
  else if 0x800000 ≤ o ∧ o < 0x808000 then ((tget 0 d.elog ((o - 0x800000) / 32)) >>> (64 * (o / 8 % 4))).setWidth 64
  else 0

/-! Partitions (R405). -/

/-- Islands of partition p under PRT. -/
def prtIslands (prt : Nat) (p : Nat) : List Nat := (List.range 4).filter fun i => natBits prt (2 * i + 1) (2 * i) == p

/-- A shape that R405 allows, its numbers in order of their lowest islands. -/
def prtOk (prt : Nat) : Bool :=
  let used := (List.range 4).filter fun p => !(prtIslands prt p).isEmpty
  let sizes := used.map fun p => (prtIslands prt p).length
  let first := used.map fun p => (prtIslands prt p).headD 0
  used == List.range used.length && first.Pairwise (· < ·) && !sizes.contains 3 &&
    (sizes == [4] || sizes.all fun n => n == 1 || n == 2)

/-- Ranges [a, a + n) and [b, b + m) share a member. -/
def overlap (a n b m : Nat) : Bool := n != 0 && m != 0 && decide (a < b + m) && decide (b < a + n)

/-- No two partitions share a context or a queue, and the quotas fit (R405). -/
def pcxOk (w : List W64) : Bool :=
  let f (x : W64) : Nat × Nat × Nat × Nat := (natBits x.toNat 6 0, natBits x.toNat 15 8, natBits x.toNat 23 16, natBits x.toNat 32 24)
  ((List.range 4).all fun i => (List.range i).all fun j =>
    let a := f (w.getD i 0)
    let b := f (w.getD j 0)
    !overlap a.1 a.2.1 b.1 b.2.1 && !overlap a.2.2.1 a.2.2.2 b.2.2.1 b.2.2.2) &&
  decide ((w.map fun x => natBits x.toNat 63 48 * 4096).foldl (· + ·) 0 ≤ Config.mslBytes)

/-- A refused write sets the admission-refused flag (R327). -/
def refuseWrite (s : State) : State := s.modD fun d => { d with admf := true }

/-- PARTITION_WRITE (R405): PRT, or PCX of a partition. A change of PRT sets every island's mode as a write of OPMD does (log entry
16). -/
def execPartitionWrite (s : State) : Out :=
  let v := s.arg.v
  let any := s.dev.cx.toList.any (·.en)
  match s.arg.k with
  | 0 =>
    let prt := v.toNat % 256
    if any || !prtOk prt then .next (refuseWrite s)
    else
      let s1 := s.modD fun d => { d with prt := BitVec.ofNat 8 prt }
      .next (if BitVec.ofNat 8 prt = s.dev.prt then s1
        else islIds.foldl (fun s y => s.modI y fun i => { i with opmd := 0, govWait := true }) s1)
  | p + 1 =>
    let w := v &&& 0xFFFF0001FFFFFF7F
    let n := w.toNat
    let l := s.dev.pcx.toList.set p w
    if 4 ≤ p ∨ any ∨ 128 < natBits n 6 0 + natBits n 15 8 ∨ 256 < natBits n 23 16 + natBits n 32 24 ∨ !pcxOk l then .next (refuseWrite s)
    else .next (s.modD fun d => { d with pcx := if h : p < 4 then d.pcx.set p w h else d.pcx })

end Sys2Proof.Machine
end

