-- ==== Sys2Proof/Machine/Micro.lean ====
section
/-! DEFINITION. The micro-operations of the array sequencer, and the end of a routine (R151 to R159). Each acts on the
routine that holds the array of the current core, and on nothing when there is none. -/

namespace Sys2Proof.Machine

/-- The routine that runs. -/
def State.routine (s : State) : Option Routine :=
  match s.me.arun with
  | .call r => some r
  | _ => none

/-- V of a value operand (R152). -/
def microVal (r : Routine) (v : MVal) : BitVec 16 :=
  (if v.e then (r.op.mp[v.i.toNat]'v.i.isLt).extractLsb' (16 * v.q.toNat) 16 else 0) + v.imm

/-- The routine stops with cause fc (R159). -/
def microFault (fc : Nat) (s : State) : State := s.now .routineFault { argC s.cur with k := fc }

/-- A control operation: the routine takes its effect and the next PC; the eighth in a row costs an array cycle (R153). -/
def control (f : Routine → Routine) (s : State) : State :=
  match s.routine with
  | none => s
  | some r =>
    let r1 := f r
    if r.ctl = 7 then
      s.modMe fun k => { k with arun := .call { r1 with ctl := 0, left := 1, active := false, lead := true, ahead := false } }
    else (s.modMe fun k => { k with arun := .call { r1 with ctl := r.ctl + 1 } }).after 0 (.micro s.cur)

/-- The next microword in sequence. -/
def Routine.next (r : Routine) : Routine := { r with pc := r.pc + 1 }

/-- An array operation of n cycles has its first one: after the last, control operations run ahead (R153). -/
def arrayOp (n : Nat) (active : Bool) (s : State) : State :=
  let s1 := s.modMe fun k => k.modR fun r =>
    { r.next with ctl := 0, left := n - 1, active := active, lead := false, ran := true, since := 0, ahead := n == 1 }
  if n = 1 then s1.after 0 (.micro s.cur) else s1

/-- Act on the routine that runs. -/
def onRoutine (s : State) (f : Routine → State) : Out :=
  match s.routine with
  | none => .next s
  | some r => .next (f r)

/-- FIN (R153, R157): the routine ends. One without array operations ends in the cycle of its fin, which counts once (R158). -/
def execFin (s : State) : Out :=
  onRoutine s fun r =>
    if r.ran then leaveArray s.cur r.op r.flags (max 1 (8 - r.since)) .routineComplete s
    else s.modMe fun k => k.modR fun r =>
      { r with ops := r.ops - 1, left := 1, active := false, lead := false, ahead := false, ran := true }

/-- Legal type pairs (R154). -/
def pairOf (ta tb : BitVec 4) : Option ElemTy :=
  if ta ≠ tb then none
  else match tyOfCode ta with
    | some .bf16 => some .bf16
    | some .e4m3 => some .e4m3
    | some .i8 => some .i8
    | some .b4 => some .b4
    | some .f32 => some .f32
    | _ => none

/-- FMT (R153, R154). -/
def execFmt (ta tb : BitVec 4) (es : Bool) (s : State) : Out :=
  onRoutine s fun _ =>
    match pairOf ta tb with
    | some t =>
      if es && !(t == .e4m3 || t == .b4) then microFault 2 s
      else control (fun r => { r.next with fa := t, fb := t, es := es }) s
    | none => microFault 2 s

/-- USE (R153): a switch to another accumulator with CK = 0 invalidates its checksum (R165). -/
def execUse (l : BitVec 3) (a : BitVec 2) (s : State) : Out :=
  onRoutine s fun r =>
    control (fun r => { r.next with lat := l, acc := a })
      (if !r.ck && a != r.acc then s.modMe fun k => spoilCheck k a else s)

/-- ACT (R153). A value out of its range is a reserved field, cause 1: DEDUCED (log entry 124). -/
def execAct (v : MVal) (s : State) : Out :=
  onRoutine s fun r =>
    let x := microVal r v
    if x.getLsbD 15 ∨ x.getLsbD 7 then microFault 1 s
    else control (fun r => { r.next with nr := (x.extractLsb' 8 7).toNat + 1, nc := (x.extractLsb' 0 7).toNat + 1 }) s

/-- LK (R153). -/
def execLk (v : MVal) (s : State) : Out := onRoutine s fun r => control (fun q => { q.next with lk := microVal r v }) s
/-- BK (R153). -/
def execBk (v : MVal) (s : State) : Out := onRoutine s fun r => control (fun q => { q.next with bk := microVal r v }) s
/-- LKADD (R153). -/
def execLkadd (v : MVal) (s : State) : Out :=
  onRoutine s fun r => control (fun q => { q.next with lk := q.lk + microVal r v }) s
/-- BKADD (R153). -/
def execBkadd (v : MVal) (s : State) : Out :=
  onRoutine s fun r => control (fun q => { q.next with bk := q.bk + microVal r v }) s

/-- Index limits KMAX and BMAX (R154). -/
def kMax (t : ElemTy) : Nat := match t with | .bf16 => 128 | .b4 => 496 | .f32 => 64 | _ => 256
def bMax (t : ElemTy) : Nat := match t with | .bf16 => 16384 | .b4 => 63488 | .f32 => 8192 | _ => 32768

/-- Array cycles of a step of n products (R155). -/
def macCycles (t : ElemTy) (n : Nat) : Nat :=
  match t with | .bf16 => n | .b4 => ceilDiv n 4 | .f32 => 4 * n | _ => ceilDiv n 2

/-- A step of n products, added or subtracted (R153, R156). Its operands are read and its cells written in its first array cycle: DESIGN
CHOICE (log entry 121). -/
def mac (n : Nat) (sub : Bool) (s : State) : Out :=
  onRoutine s fun r =>
    if n = 0 ∨ 32 < n then microFault 1 s
    else if kMax r.fa < r.lk.toNat + n then microFault 3 s
    else if bMax r.fa < r.bk.toNat + n then microFault 4 s
    else match stepPoison s s.cur r n with
      | some (reg, v, u) => engineConsumes s.cur reg v r.op.badr u (noteSpans s.cur ((stepCols s.cur r n).map fun e => (e.1, e.2.1))
          (s.modMe fun k => { k with arun := .idle, astop := true }))
      | none =>
        let (s1, fl) := macStep s.cur r n sub s
        let s2 := s1.modMe fun k =>
          let k1 := k.modR fun q =>
            { q with lk := q.lk + BitVec.ofNat 16 n, bk := q.bk + BitVec.ofNat 16 n, flags := q.flags ||| fl }
          { k1 with accBy := k1.accBy.set r.acc.toNat r.op.badr r.acc.isLt }
        arrayOp (macCycles r.fa n) true s2

/-- MAC (R153, R156). -/
def execMac (n : BitVec 6) (s : State) : Out := mac n.toNat false s
/-- MACN (R153, R156). -/
def execMacn (n : BitVec 6) (s : State) : Out := mac n.toNat true s

/-- ZERO (R153, R172). -/
def execZero (s : State) : Out :=
  onRoutine s fun r =>
    let m := (upto 0 r.nr).foldl (fun m i => memZero m (accKey s.cur r.acc.toNat i 0) (accKey s.cur r.acc.toNat i r.nc)) s.mem
    arrayOp 1 true ({ s with mem := m }.modMe fun k =>
      let k1 := if r.nr = 128 ∧ r.nc = 128 then resetCheck k r.acc else spoilCheck k r.acc
      { k1 with accBy := k1.accBy.set r.acc.toNat r.op.badr r.acc.isLt })

/-- IDLE (R153): n cycles. -/
def execIdle (n1 : BitVec 12) (s : State) : Out := onRoutine s fun _ => arrayOp (n1.toNat + 1) false s

/-- Loop counter x. -/
def Routine.ctr (r : Routine) (x : Bool) : BitVec 16 := if x then r.l1 else r.l0
def Routine.setCtr (r : Routine) (x : Bool) (v : BitVec 16) : Routine := if x then { r with l1 := v } else { r with l0 := v }

/-- CNT (R153). -/
def execCnt (v : MVal) (x : Bool) (s : State) : Out :=
  onRoutine s fun r => control (fun q => q.next.setCtr x (microVal r v)) s

/-- REP (R153). -/
def execRep (x : Bool) (t : BitVec 10) (s : State) : Out :=
  onRoutine s fun _ =>
    control (fun q => if q.ctr x = 0 then q.next else { q.setCtr x (q.ctr x - 1) with pc := t.toNat }) s

/-- BRZ (R153). -/
def execBrz (i : BitVec 3) (q : BitVec 2) (t : BitVec 10) (s : State) : Out :=
  onRoutine s fun r =>
    control (fun x => if microVal r ⟨i, q, true, 0⟩ = 0 then { x with pc := t.toNat } else x.next) s

/-! The end of a routine. -/

/-- The oldest operation past its last array cycle is complete. -/
def endTail (c : CoreId) (s : State) : State :=
  match (s.core.get c).tail with
  | (o, fl) :: r => finishMx c o fl (s.modC c fun k => { k with tail := r })
  | [] => s

/-- ROUTINE_COMPLETE (R157): token, ocn.TIL, and NV and OF. -/
def execRoutineComplete (s : State) : Out := .next (endTail s.arg.c s)

/-- AZERO_COMPLETE (R166). -/
def execAzeroComplete (s : State) : Out := .next (endTail s.arg.c s)

/-- ROUTINE_FAULT (R159): cause and microword address are recorded, the array path stops, and the trap is due. FA of cause 5 is 1,023,
as the PC that has passed it does not fit, and FA of cause 6 is the PC that would be next: DESIGN CHOICE (log entry 88). -/
def execRoutineFault (s : State) : Out :=
  let c := s.arg.c
  match (s.core.get c).arun with
  | .call r => .next (s.modC c fun k =>
      { k with fc := BitVec.ofNat 4 s.arg.k, fa := BitVec.ofNat 10 (min r.pc 1023), astop := true, arun := .idle, mxTrap := some r.op })
  | _ => .next s

/-- Array operations of R153: they take array cycles. -/
def isArrayOp (i : Instr) : Bool :=
  match i with
  | .mac _ | .macn _ | .zero | .idle _ => true
  | _ => false

end Sys2Proof.Machine
end

