-- ==== Sys2Proof/Machine/Predicate.lean ====
section
/-! DEFINITION. Compares and predicate operations of the scalar slot (R98, R99). -/

namespace Sys2Proof.Machine

/-- Compare of two registers into a whole predicate; latency 1 (R98). -/
def cmpRR (f : W64 → W64 → Bool) (g : Guard) (pd : BitVec 4) (a b : BitVec 6) (s : State) : Out :=
  guarded g s (toP 1 pd (allBits (f (s.me.r.getS a) (s.me.r.getS b))))

/-- Compare with the immediate (R98). -/
def cmpRI (f : W64 → W64 → Bool) (g : Guard) (pd : BitVec 4) (a : BitVec 6) (imm : BitVec 33) (s : State) : Out :=
  guarded g s (toP 1 pd (allBits (f (s.me.r.getS a) (immS imm))))

/-- Predicate operation of two sources; latency 1 (R99). -/
def pred2 (f : W64 → W64 → W64) (g : Guard) (pd px py : BitVec 4) (s : State) : Out :=
  guarded g s (toP 1 pd (f (s.me.r.getP px) (s.me.r.getP py)))

/-- CMPEQ (R98): a = b. -/
def execCmpeq (g : Guard) (pd : BitVec 4) (a b : BitVec 6) (s : State) : Out := cmpRR (fun a b => a == b) g pd a b s

/-- CMPNE (R98): a ≠ b. -/
def execCmpne (g : Guard) (pd : BitVec 4) (a b : BitVec 6) (s : State) : Out := cmpRR (fun a b => a != b) g pd a b s

/-- CMPLT (R98): sa < sb. -/
def execCmplt (g : Guard) (pd : BitVec 4) (a b : BitVec 6) (s : State) : Out := cmpRR (fun a b => a.slt b) g pd a b s

/-- CMPLE (R98): sa ≤ sb. -/
def execCmple (g : Guard) (pd : BitVec 4) (a b : BitVec 6) (s : State) : Out := cmpRR (fun a b => a.sle b) g pd a b s

/-- CMPLTN (R98): a < b, unsigned. -/
def execCmpltn (g : Guard) (pd : BitVec 4) (a b : BitVec 6) (s : State) : Out := cmpRR (fun a b => a.ult b) g pd a b s

/-- CMPLEN (R98): a ≤ b, unsigned. -/
def execCmplen (g : Guard) (pd : BitVec 4) (a b : BitVec 6) (s : State) : Out := cmpRR (fun a b => a.ule b) g pd a b s

/-- CMPEQI (R98): sa = Imm(). -/
def execCmpeqi (g : Guard) (pd : BitVec 4) (a : BitVec 6) (imm : BitVec 33) (s : State) : Out :=
  cmpRI (fun a b => a == b) g pd a imm s

/-- CMPLTI (R98): sa < Imm(). -/
def execCmplti (g : Guard) (pd : BitVec 4) (a : BitVec 6) (imm : BitVec 33) (s : State) : Out :=
  cmpRI (fun a b => a.slt b) g pd a imm s

/-- PAND (R99): P(x) AND P(y). -/
def execPand (g : Guard) (pd px py : BitVec 4) (s : State) : Out := pred2 (fun x y => x &&& y) g pd px py s

/-- POR (R99): P(x) OR P(y). -/
def execPor (g : Guard) (pd px py : BitVec 4) (s : State) : Out := pred2 (fun x y => x ||| y) g pd px py s

/-- PXOR (R99): P(x) XOR P(y). -/
def execPxor (g : Guard) (pd px py : BitVec 4) (s : State) : Out := pred2 (fun x y => x ^^^ y) g pd px py s

/-- PANDN (R99): P(x) AND NOT P(y). -/
def execPandn (g : Guard) (pd px py : BitVec 4) (s : State) : Out := pred2 (fun x y => x &&& ~~~y) g pd px py s

/-- PNOT (R99): NOT P(x). -/
def execPnot (g : Guard) (pd px : BitVec 4) (s : State) : Out := guarded g s (toP 1 pd (~~~(s.me.r.getP px)))

/-- PMOV (R99): P(x). -/
def execPmov (g : Guard) (pd px : BitVec 4) (s : State) : Out := guarded g s (toP 1 pd (s.me.r.getP px))

/-- PSET (R99): bit i of a to lane i. -/
def execPset (g : Guard) (pd : BitVec 4) (a : BitVec 6) (s : State) : Out := guarded g s (toP 1 pd (s.me.r.getS a))

/-- PGET (R99): P(x) as a pattern. -/
def execPget (g : Guard) (d : BitVec 6) (px : BitVec 4) (s : State) : Out := guarded g s (toS 1 d (s.me.r.getP px))

/-- Number of 1 bits of a predicate. -/
def popP (x : W64) : W64 := BitVec.ofNat 64 ((List.range 64).foldl (fun n i => if x.getLsbD i then n + 1 else n) 0)

/-- PCNT (R99): number of 1 bits of P(x). -/
def execPcnt (g : Guard) (d : BitVec 6) (px : BitVec 4) (s : State) : Out := guarded g s (toS 1 d (popP (s.me.r.getP px)))

end Sys2Proof.Machine
end

