-- ==== Sys2Proof/Machine/Regs.lean ====
section
/-! DEFINITION. Register writes without a behaviour of their own, contexts, memory keys, page-ins and page bias (R6, R319,
R327, R331, R342 to R345, R357, R361, R368, R376, R377, R390, R392, R400, R403, R404). -/

namespace Sys2Proof.Machine

/-! Contexts (R331, R361). -/

/-- Context cx has a bound core or a pending launch. -/
def ctxBusy (s : State) (cx : BitVec 7) : Bool :=
  (coreIds.any fun c => (s.core.get c).run != .unbound && !isMgmt c && (s.core.get c).ctx == cx) ||
    s.dev.pool.any fun e => e.2.st == .pending && e.2.ctx == cx

def modCtx (cx : BitVec 7) (f : Ctx → Ctx) (s : State) : State :=
  s.modD fun d => { d with cx := d.cx.set cx.toNat (f (d.cx[cx.toNat]'cx.isLt)) cx.isLt }

/-- Bits that register k of a context holds; others are reserved. -/
def ctxMask (k : BitVec 3) : Nat :=
  match k.toNat with
  | 1 => 0x3FFFFFFFFFF000 | 2 => 0x3FFFFFFFFFF00F | 3 => 0xFFFFFFFFFFFFF | 4 => 0xFFFFFFFFFF000 | 5 => 0x3FFFFFFFFFF000 | 6 => 0xFF
  | _ => 0

/-- What a register keeps of a written value: its reserved bits are ignored and read 0 (R6, R23, R112). -/
def kept (v : W64) (mask : Nat) : W64 := v &&& BitVec.ofNat 64 mask

def busyWrite (s : State) : State := s.modD fun d => { d with busyWr := d.busyWr + 1 }

/-- A write of HWB, HWL, HWO, PTR, SVB or SVN. -/
def writeCtxReg (cx : BitVec 7) (k : BitVec 3) (w : W64) (s : State) : State :=
  let v := kept w (ctxMask k)
  if ctxBusy s cx then busyWrite s
  else modCtx cx (fun x => match k.toNat with
    | 1 => { x with hwb := v } | 2 => { x with hwl := v } | 3 => { x with hwo := v } | 4 => { x with ptr := v }
    | 5 => { x with svb := v } | 6 => { x with svn := v } | _ => x) s

/-- Reason to refuse to enable a context (R361); 0 for none. -/
def enableErr (s : State) (x : Ctx) (ksl : BitVec 7) : BitVec 3 :=
  let n := x.svn.toNat % 256
  let b := natBits x.svb.toNat 53 12 * 4096
  let (lo, hi, _, w, _) := heapOf x
  if !(s.dev.key[ksl.toNat]'ksl.isLt).loaded then 1
  else if n = 0 ∨ 128 < n then 2
  else if lo = hi ∨ !w then 3
  else if b < lo ∨ hi < b + n * 0x800000 then 4
  else 0

/-- CTXC_WRITE (R331, R361, R398, R405). An enable that is ignored leaves the whole register as it is. -/
def execCtxcWrite (s : State) : Out :=
  let cx : BitVec 7 := BitVec.ofNat 7 s.arg.k
  let v := s.arg.v
  let x := s.ctxOf cx
  let ksl := v.extractLsb' 8 7
  let en := v.getLsbD 0
  let locked := ksl != x.ksl && ctxBusy s cx
  let s1 := if locked then busyWrite s else s
  let k := if locked then x.ksl else ksl
  if en && !x.en then
    let e := enableErr s x k
    if e ≠ 0 then .next (modCtx cx (fun x => { x with err := e }) s1)
    else if (partOfCtx s cx.toNat).isNone then .next s1
    else .next (modCtx cx (fun x => { x with en := true, ksl := k, err := 0, energy := 0 }) s1)
  else .next (modCtx cx (fun x => { x with en := en, ksl := k }) s1)

/-! Memory keys (R345). -/

def modKey (k : BitVec 7) (f : KeySlot → KeySlot) (s : State) : State :=
  s.modD fun d => { d with key := d.key.set k.toNat (f (d.key[k.toNat]'k.isLt)) k.isLt }

/-- KEY_LOAD (R345). -/
def execKeyLoad (s : State) : Out :=
  let y := s.arg.y
  .next ((modKey (BitVec.ofNat 7 s.arg.k) (fun _ => ⟨true, (s.isl.get y).keyw⟩) s).modI y fun i => { i with keyw := 0 })

/-- KEY_ERASE (R345): ignored for the slot of a resident context. -/
def execKeyErase (s : State) : Out :=
  let k : BitVec 7 := BitVec.ofNat 7 s.arg.k
  if s.dev.cx.toList.any fun x => x.en && x.ksl == k then .next s
  else .next (modKey k (fun _ => ⟨false, 0⟩) s)

/-! Page-ins (R342). -/

/-- Firmware fills a frame of 2^n bytes from the backing behind a tag, in clear (log entry 8). -/
def fillFrame (frame tag n : Nat) (s : State) : State :=
  (List.range (2 ^ (n - 7))).foldl (fun s i => lineWr none (frame + 128 * i) 128 (Config.backing tag i).toNat s) s

/-- PGIN_SERVICE (R341, R342): firmware takes the oldest request. A leaf with backing that is not resident becomes resident
on a frame that firmware has filled; which one is free (log entry 18). A request for a page that is in migration ends with it. -/
def execPginService (s : State) : Out :=
  let y := s.arg.y
  match (s.isl.get y).pgq with
  | [] => .next s
  | r :: rest =>
    let s1 := s.modI y fun i => { i with pgq := rest }
    match walkVa s1 y r.cx r.page with
    | .leaf e _ ea n =>
      if pteRes e ∨ pteAdr e = 0 ∨ s.dev.migr.contains ea then .next s1
      else
        let (f, s2) := s1.pick
        let frame := f % 2 ^ (52 - n) * 2 ^ n
        .next (cohWr (fillFrame frame (pteAdr e) n s2) ea 8 ((e.toNat - pteAdr e) + frame + 4))
    | _ => .next s1

/-! Page bias (R344). -/

/-- Held translations of a physical page end at the next 4 KiB boundary (R340, R344). -/
def trimPhys (page va : Nat) (h : Option (Nat × Nat × Nat)) : Option (Nat × Nat × Nat) :=
  match heldAt h va, h with
  | some pa, some x => if meets x.2.2 x.2.1 (page * 4096) (page * 4096 + 4096) then some (va / 4096 * 4096, 4096, pa - va % 4096) else h
  | _, _ => none

/-- A copy that is paused under the stall policy gives the page up at once (R340, R344). -/
def trimCopy (page : Nat) (r : CopyRun) : CopyRun :=
  match r.pause with
  | some (.region _) =>
    let off (h : Option (Nat × Nat × Nat)) : Option (Nat × Nat × Nat) :=
      h.filter fun x => !meets x.2.2 x.2.1 (page * 4096) (page * 4096 + 4096)
    { r with srcPg := off r.srcPg, dstPg := off r.dstPg }
  | _ =>
    let w := r.cmd.walk
    { r with srcPg := trimPhys page (w.srcAt r.x).toNat r.srcPg, dstPg := trimPhys page (w.dstAt r.x).toNat r.dstPg }

/-- A copy that still holds a translation of the page. -/
def copyOn (s : State) (page : Nat) : Bool :=
  coreIds.any fun c => ((s.core.get c).cu0.runs ++ (s.core.get c).cu1.runs).any fun r =>
    r.holds.any fun h => meets h.2.2 h.2.1 (page * 4096) (page * 4096 + 4096)

/-- BIAS_FLIP_TO_HOST (R344). -/
def execBiasFlipToHost (s : State) : Out :=
  let p := s.arg.n
  if s.dev.bfBusy.isSome then .next (s.modD fun d => { d with bfIgn := d.bfIgn + 1 })
  else if !s.dev.devBias.contains p then .next (s.modD fun d => { d with bfDone := true })
  else
    let s1 := coreIds.foldl (fun s c => s.modC c fun k =>
      { k with cu0 := k.cu0.modRuns (trimCopy p), cu1 := k.cu1.modRuns (trimCopy p) }) (s.modD fun d =>
        { d with bfBusy := some (p, true), hops := d.hops.map fun o => { o with pg := trimPhys p (o.va.toNat + o.x) o.pg } })
    let (n, s2) := s1.pick
    .next (s2.after (n + 1) (.ev .biasFlipComplete Arg.zero))

/-- BIAS_FLIP_TO_DEVICE (R344): a back-invalidation of each of the page's 32 lines goes to the host. -/
def execBiasFlipToDevice (s : State) : Out :=
  let p := s.arg.n
  if s.dev.bfBusy.isSome then .next (s.modD fun d => { d with bfIgn := d.bfIgn + 1 })
  else if s.dev.devBias.contains p then .next (s.modD fun d => { d with bfDone := true })
  else
    let (n, s1) := s.pick
    .next ((s1.modD fun d => { d with bfBusy := some (p, false), bfInv := List.range' (32 * p) 32 }).after (n + 1) (.ev .biasFlipComplete Arg.zero))

/-- Dirty lines of a page are written back, and no cache keeps a line of it. -/
def flushPage (page : Nat) (s : State) : State :=
  let mine (l : Nat) : Bool := l / 32 == page
  let s0 := islIds.foldl (fun s y => ((s.isl.get y).shelf.filter fun e => mine e.line).foldl (fun s e => writeBack e s) s) s
  let s1 := (List.range 32).foldl (fun s i => writeLine (page * 32 + i) (cohLine s (page * 32 + i)) s) s0
  let s2 := islIds.foldl (fun s y => s.modI y fun i =>
    { i with
      copies := i.copies.filter fun e => !mine e.1, wbuf := i.wbuf.filter fun e => !mine e.1
      dir := i.dir.filter fun e => !mine e.1, shelf := i.shelf.filter fun e => !mine e.line }) s1
  coreIds.foldl (fun s c => s.modC c fun k => { k with lc := k.lc.filter fun l => !mine l }) s2

/-- A coherence transaction on a line of the page is under way. -/
def pageMoving (s : State) (page : Nat) : Bool :=
  islIds.any fun y =>
    let i := s.isl.get y
    i.mshr.any (fun m => m.line / 32 == page) || i.wbuf.any (fun e => e.1 / 32 == page) || i.hq.any (fun r => r.line / 32 == page) ||
      i.dir.any fun e => e.1 / 32 == page && e.2.busy.isSome

/-- A hoist or sight holds a translation of the page; it gives the page up where it reaches a 4 KiB boundary. -/
def hopOn (s : State) (page : Nat) : Bool :=
  s.dev.hops.any fun o => o.holds.any fun h => meets h.2.2 h.2.1 (page * 4096) (page * 4096 + 4096)

/-- An access to the page has arrived at its slice and has not performed. -/
def accessOn (s : State) (page : Nat) : Bool :=
  coreIds.any fun c => (s.core.get c).open_.any fun a => a.sp == .glob && a.trip.arr.isSome && a.lo / 4096 == page

/-- BIAS_FLIP_COMPLETE (R344): towards the host, the bias changes once no copy, hoist or sight holds the page, no access to it is on its
way, and nothing is under way on its lines; towards the device, once the host has answered for every line, one after another, in an
order and after times that are free (log entry 1). -/
def execBiasFlipComplete (s : State) : Out :=
  match s.dev.bfBusy with
  | none => .next s
  | some (p, true) =>
    if copyOn s p || hopOn s p || accessOn s p || pageMoving s p then .next (s.after 4 (.ev .biasFlipComplete Arg.zero))
    else .next ((flushPage p s).modD fun d => { d with bfBusy := none, bfDone := true, devBias := d.devBias.filter (· != p) })
  | some (p, false) =>
    if s.dev.bfInv.length ≤ 1 then .next (s.modD fun d => { d with bfBusy := none, bfInv := [], bfDone := true, devBias := p :: d.devBias })
    else
      let (n, s1) := s.pick
      .next ((s1.modD fun d => { d with bfInv := d.bfInv.eraseIdx (n % d.bfInv.length) }).after (n + 1) (.ev .biasFlipComplete Arg.zero))

/-! Register writes. -/

/-- Replace word k of n-bit content. -/
def setNonce (x : BitVec 256) (k : BitVec 2) (v : W64) : BitVec 256 :=
  (x &&& ~~~((0xFFFFFFFFFFFFFFFF : BitVec 256) <<< (64 * k.toNat))) ||| (v.setWidth 256 <<< (64 * k.toNat))

/-- Debug control of a core (R390): a stop that is asked of a core that is stopped or trapped has no further effect (R391). -/
def writeDbg (c : CoreId) (v : W64) (s : State) : State :=
  let down : Bool := match (s.core.get c).run with | .trapped _ => true | .stopped _ => true | _ => false
  s.modC c fun k => { k with dbgEn := v.getLsbD 0, dbgStep := v.getLsbD 2, dbgStop := k.dbgStop || (v.getLsbD 1 && !down) }

/-- RQB, RQH, RQD (R357). A new HEAD may free a slot for a record that waits. -/
def writeRq (y : Isl) (k : BitVec 2) (v : W64) (s : State) : State :=
  match k.toNat with
  | 0 => s.modI y fun i => { i with rqb := kept v 0xFFFFFFFFFC000 }
  | 1 => (s.modI y fun i => { i with rqh := v.setWidth 8 }).now .recordPost (argY y)
  | 3 => s.modI y fun i => { i with rqd := 0 }
  | _ => s

/-- The new state of a register's write: reserved bits are ignored (R6, R23, R112). -/
def writeReg (r : RegName) (v : W64) (s : State) : State :=
  match r with
  | .lwb => s.modD fun d => { d with lwb := kept v 0xFFFFFFFF00001 }
  | .admf => if v.getLsbD 0 then s.modD fun d => { d with admf := false } else s
  | .qsta q => if v.getLsbD 0 then s.modD fun d => { d with sq := d.sq.set q.toNat { d.sq[q.toNat]'q.isLt with ovr := false } q.isLt } else s
  | .ctx cx k => writeCtxReg cx k v s
  | .keyw y k => s.modI y fun i => { i with keyw := setWord i.keyw k v }
  | .shq y => trimShelf y (s.modI y fun i => { i with shq := kept v 0xFFFF })
  | .cut y => s.modI y fun i => { i with cut := kept v 0xFFFFFFFF0000007F }
  | .rq y k => writeRq y k v s
  | .dbg y k => writeDbg (coreNo (y.val * 32 + k.toNat)) v s
  | .tr y k =>
    if k = 0 then s.modI y fun i => { i with trb := kept v 0xFFFFFFFFF7FFF }
    else if k = 2 then s.modI y fun i => { i with trr := v }
    else s
  | .ops y => if v.getLsbD 39 then s.modI y fun i => { i with trp := false } else s
  | .lim y => s.modI y fun i => { i with lim := kept v 0xFFFF }
  | .opti y => s.modI y fun i => { i with opti := v.setWidth 10 }
  | .optd0 y => s.modI y fun i => { i with optd0 := kept v 0xFFFFFFFFFF000001 }
  | .bfs => if v.getLsbD 1 then s.modD fun d => { d with bfDone := false } else s
  | .scp => startScrub (s.modD fun d => { d with scp := kept v 0xFFFF })
  | .fwa => s.modD fun d => { d with fwa := kept v 0xFFFFFFFFFF000 }
  | .nonce k => s.modD fun d => { d with nonce := setNonce d.nonce k v }

/-- REGISTER_WRITE (R6). -/
def execRegisterWrite (s : State) : Out := .next (writeReg s.arg.rg s.arg.v s)

end Sys2Proof.Machine
end

