-- ==== Sys2Proof/Machine/Scalar.lean ====
section
/-! DEFINITION. Integer arithmetic, logic, shifts, bit operations, constants and moves of the scalar slot (R88 to R97). -/

namespace Sys2Proof.Machine

/-- Three-register form: latency n, result f(a, b) (R88). -/
def rrr (n : Nat) (f : W64 → W64 → W64) (g : Guard) (d a b : BitVec 6) (s : State) : Out :=
  guarded g s (toS n d (f (s.me.r.getS a) (s.me.r.getS b)))

/-- Immediate form: result f(a, Imm()) (R90). -/
def rri (n : Nat) (f : W64 → W64 → W64) (g : Guard) (d a : BitVec 6) (imm : BitVec 33) (s : State) : Out :=
  guarded g s (toS n d (f (s.me.r.getS a) (immS imm)))

/-- One-source form. -/
def rr1 (n : Nat) (f : W64 → W64) (g : Guard) (d a : BitVec 6) (s : State) : Out :=
  guarded g s (toS n d (f (s.me.r.getS a)))

/-- sa × sb, bits 127 to 64. -/
def mulHigh (a b : W64) : W64 := BitVec.ofInt 64 (a.toInt * b.toInt / ((2 ^ 64 : Nat) : Int))
/-- a × b unsigned, bits 127 to 64. -/
def mulHighN (a b : W64) : W64 := BitVec.ofNat 64 (a.toNat * b.toNat / 2 ^ 64)
/-- TruncDiv(sa, sb); a divisor of 0 gives 0 (R89). -/
def quot (a b : W64) : W64 := BitVec.ofInt 64 (a.toInt.tdiv b.toInt)
/-- TruncDiv(a, b), unsigned (R89). -/
def quotN (a b : W64) : W64 := BitVec.ofNat 64 (a.toNat / b.toNat)
/-- sa - TruncDiv(sa, sb) × sb (R88). -/
def remS (a b : W64) : W64 := BitVec.ofInt 64 (a.toInt - a.toInt.tdiv b.toInt * b.toInt)
/-- a - TruncDiv(a, b) × b, unsigned (R88). -/
def remN (a b : W64) : W64 := BitVec.ofNat 64 (a.toNat - a.toNat / b.toNat * b.toNat)

/-- Rotate left by b[5:0] (R93). -/
def rolW (a b : W64) : W64 := (a <<< (b.toNat % 64)) ||| (a >>> (64 - b.toNat % 64))
/-- Rotate right by b[5:0] (R93). -/
def rorW (a b : W64) : W64 := (a >>> (b.toNat % 64)) ||| (a <<< (64 - b.toNat % 64))
def shlW (a b : W64) : W64 := a <<< (b.toNat % 64)
def shrW (a b : W64) : W64 := a >>> (b.toNat % 64)
def sarW (a b : W64) : W64 := a.sshiftRight (b.toNat % 64)

/-- Number of 0 bits of x in bits n - 1, n - 2, … above its highest 1 bit. -/
def leadZeros (x : Nat) : Nat → Nat
  | 0 => 0
  | n + 1 => if x.testBit n then 0 else 1 + leadZeros x n

/-- Number of 0 bits of x from bit i up, below the next 1 bit, of at most n. -/
def trailZeros (x : Nat) : Nat → Nat → Nat
  | _, 0 => 0
  | i, n + 1 => if x.testBit i then 0 else 1 + trailZeros x (i + 1) n

/-- Number of 1 bits among the low n bits of x. -/
def popBits (x : Nat) : Nat → Nat
  | 0 => 0
  | n + 1 => (if x.testBit n then 1 else 0) + popBits x n

/-- Byte j of the result is byte 7 - j (R95). -/
def bswapW (a : W64) : W64 :=
  (List.range 8).foldl (fun r j => r ||| ((a >>> (8 * j)) &&& 0xFF) <<< (8 * (7 - j))) 0

/-- Effective width of a bit field: cut at bit 63 (R96). -/
def fieldW (pos w1 : BitVec 6) : Nat := min (w1.toNat + 1) (64 - pos.toNat)

/-- f of R96: Bits(a, pos + e - 1, pos). -/
def fieldOf (a : W64) (pos w1 : BitVec 6) : Nat := natBits a.toNat (pos.toNat + fieldW pos w1 - 1) pos.toNat

/-- old with its field replaced by the low bits of a (R96). -/
def insField (old a : W64) (pos w1 : BitVec 6) : W64 :=
  let mask : W64 := BitVec.ofNat 64 ((2 ^ fieldW pos w1 - 1) <<< pos.toNat)
  (old &&& ~~~mask) ||| ((a <<< pos.toNat) &&& mask)

/-- ADD (R88): a + b; latency 1. -/
def execAdd (g : Guard) (d a b : BitVec 6) (s : State) : Out := rrr 1 (fun a b => a + b) g d a b s

/-- SUB (R88): a - b; latency 1. -/
def execSub (g : Guard) (d a b : BitVec 6) (s : State) : Out := rrr 1 (fun a b => a - b) g d a b s

/-- MUL (R88): the low 64 bits of a × b; latency 3. -/
def execMul (g : Guard) (d a b : BitVec 6) (s : State) : Out := rrr 3 (fun a b => a * b) g d a b s

/-- MULH (R88): the high half of sa × sb; latency 4. -/
def execMulh (g : Guard) (d a b : BitVec 6) (s : State) : Out := rrr 4 (mulHigh) g d a b s

/-- MULHN (R88): the high half of a × b, unsigned; latency 4. -/
def execMulhn (g : Guard) (d a b : BitVec 6) (s : State) : Out := rrr 4 (mulHighN) g d a b s

/-- DIV (R88, R89): TruncDiv(sa, sb); latency 20. -/
def execDiv (g : Guard) (d a b : BitVec 6) (s : State) : Out := rrr 20 (quot) g d a b s

/-- DIVN (R88, R89): TruncDiv(a, b), unsigned; latency 20. -/
def execDivn (g : Guard) (d a b : BitVec 6) (s : State) : Out := rrr 20 (quotN) g d a b s

/-- REM (R88, R89): the remainder of div; latency 20. -/
def execRem (g : Guard) (d a b : BitVec 6) (s : State) : Out := rrr 20 (remS) g d a b s

/-- REMN (R88, R89): the remainder of divn; latency 20. -/
def execRemn (g : Guard) (d a b : BitVec 6) (s : State) : Out := rrr 20 (remN) g d a b s

/-- ADDI (R90): a + Imm(); latency 1. -/
def execAddi (g : Guard) (d a : BitVec 6) (imm : BitVec 33) (s : State) : Out := rri 1 (fun a b => a + b) g d a imm s

/-- MULI (R90): a × Imm(); latency 3. -/
def execMuli (g : Guard) (d a : BitVec 6) (imm : BitVec 33) (s : State) : Out := rri 3 (fun a b => a * b) g d a imm s

/-- AND (R92): a AND b; latency 1. -/
def execAnd (g : Guard) (d a b : BitVec 6) (s : State) : Out := rrr 1 (fun a b => a &&& b) g d a b s

/-- OR (R92): a OR b; latency 1. -/
def execOr (g : Guard) (d a b : BitVec 6) (s : State) : Out := rrr 1 (fun a b => a ||| b) g d a b s

/-- XOR (R92): a XOR b; latency 1. -/
def execXor (g : Guard) (d a b : BitVec 6) (s : State) : Out := rrr 1 (fun a b => a ^^^ b) g d a b s

/-- ANDN (R92): a AND NOT b; latency 1. -/
def execAndn (g : Guard) (d a b : BitVec 6) (s : State) : Out := rrr 1 (fun a b => a &&& ~~~b) g d a b s

/-- ORN (R92): a OR NOT b; latency 1. -/
def execOrn (g : Guard) (d a b : BitVec 6) (s : State) : Out := rrr 1 (fun a b => a ||| ~~~b) g d a b s

/-- XNOR (R92): NOT (a XOR b); latency 1. -/
def execXnor (g : Guard) (d a b : BitVec 6) (s : State) : Out := rrr 1 (fun a b => ~~~(a ^^^ b)) g d a b s

/-- ANDI (R92): a AND Imm(); latency 1. -/
def execAndi (g : Guard) (d a : BitVec 6) (imm : BitVec 33) (s : State) : Out := rri 1 (fun a b => a &&& b) g d a imm s

/-- ORI (R92): a OR Imm(); latency 1. -/
def execOri (g : Guard) (d a : BitVec 6) (imm : BitVec 33) (s : State) : Out := rri 1 (fun a b => a ||| b) g d a imm s

/-- XORI (R92): a XOR Imm(); latency 1. -/
def execXori (g : Guard) (d a : BitVec 6) (imm : BitVec 33) (s : State) : Out := rri 1 (fun a b => a ^^^ b) g d a imm s

/-- SHL (R93): shift left by b[5:0]; latency 1. -/
def execShl (g : Guard) (d a b : BitVec 6) (s : State) : Out := rrr 1 (shlW) g d a b s

/-- SHR (R93): shift right, unsigned by b[5:0]; latency 1. -/
def execShr (g : Guard) (d a b : BitVec 6) (s : State) : Out := rrr 1 (shrW) g d a b s

/-- SAR (R93): shift right, signed by b[5:0]; latency 1. -/
def execSar (g : Guard) (d a b : BitVec 6) (s : State) : Out := rrr 1 (sarW) g d a b s

/-- ROL (R93): rotate left by b[5:0]; latency 1. -/
def execRol (g : Guard) (d a b : BitVec 6) (s : State) : Out := rrr 1 (rolW) g d a b s

/-- ROR (R93): rotate right by b[5:0]; latency 1. -/
def execRor (g : Guard) (d a b : BitVec 6) (s : State) : Out := rrr 1 (rorW) g d a b s

/-- SHLI (R93): shift left by IMM[5:0]; latency 1. -/
def execShli (g : Guard) (d a sh : BitVec 6) (s : State) : Out :=
  rr1 1 (fun a => shlW a (sh.setWidth 64)) g d a s

/-- SHRI (R93): shift right, unsigned by IMM[5:0]; latency 1. -/
def execShri (g : Guard) (d a sh : BitVec 6) (s : State) : Out :=
  rr1 1 (fun a => shrW a (sh.setWidth 64)) g d a s

/-- SARI (R93): shift right, signed by IMM[5:0]; latency 1. -/
def execSari (g : Guard) (d a sh : BitVec 6) (s : State) : Out :=
  rr1 1 (fun a => sarW a (sh.setWidth 64)) g d a s

/-- MIN (R94): the smaller, signed; latency 1. -/
def execMin (g : Guard) (d a b : BitVec 6) (s : State) : Out := rrr 1 (fun a b => if a.slt b then a else b) g d a b s

/-- MAX (R94): the larger, signed; latency 1. -/
def execMax (g : Guard) (d a b : BitVec 6) (s : State) : Out := rrr 1 (fun a b => if a.slt b then b else a) g d a b s

/-- MINN (R94): the smaller, unsigned; latency 1. -/
def execMinn (g : Guard) (d a b : BitVec 6) (s : State) : Out := rrr 1 (fun a b => if a < b then a else b) g d a b s

/-- MAXN (R94): the larger, unsigned; latency 1. -/
def execMaxn (g : Guard) (d a b : BitVec 6) (s : State) : Out := rrr 1 (fun a b => if a < b then b else a) g d a b s

/-- ABS (R94): the absolute value; that of -2^63 is -2^63; latency 1. -/
def execAbs (g : Guard) (d a : BitVec 6) (s : State) : Out := rr1 1 (fun a => if a.msb then -a else a) g d a s

/-- NEG (R94): Wrap(-sa, 64); latency 1. -/
def execNeg (g : Guard) (d a : BitVec 6) (s : State) : Out := rr1 1 (fun a => -a) g d a s

/-- CLZ (R95): leading 0 bits, 64 for 0; latency 1. -/
def execClz (g : Guard) (d a : BitVec 6) (s : State) : Out := rr1 1 (fun a => BitVec.ofNat 64 (leadZeros a.toNat 64)) g d a s

/-- CTZ (R95): trailing 0 bits, 64 for 0; latency 1. -/
def execCtz (g : Guard) (d a : BitVec 6) (s : State) : Out := rr1 1 (fun a => BitVec.ofNat 64 (trailZeros a.toNat 0 64)) g d a s

/-- POPC (R95): number of 1 bits; latency 1. -/
def execPopc (g : Guard) (d a : BitVec 6) (s : State) : Out := rr1 1 (fun a => BitVec.ofNat 64 (popBits a.toNat 64)) g d a s

/-- BSWAP (R95): bytes in the opposite order; latency 1. -/
def execBswap (g : Guard) (d a : BitVec 6) (s : State) : Out := rr1 1 (bswapW) g d a s

/-- BEXS (R96): the field, sign-extended; latency 1. -/
def execBexs (g : Guard) (d a pos w1 : BitVec 6) (s : State) : Out :=
  rr1 1 (fun a => BitVec.ofInt 64 (sext (fieldOf a pos w1) (fieldW pos w1))) g d a s

/-- BEXZ (R96): the field; latency 1. -/
def execBexz (g : Guard) (d a pos w1 : BitVec 6) (s : State) : Out :=
  rr1 1 (fun a => BitVec.ofNat 64 (fieldOf a pos w1)) g d a s

/-- BINS (R96): the low bits of a written into the field of sd, which is read at issue; latency 1. -/
def execBins (g : Guard) (d a pos w1 : BitVec 6) (s : State) : Out :=
  guarded g s (toS 1 d (insField (s.me.r.getS d) (s.me.r.getS a) pos w1))

/-- SEL (R97): a if bit 0 of P(j) is 1, else b; latency 1. -/
def execSel (g : Guard) (d a b : BitVec 6) (j : BitVec 4) (s : State) : Out :=
  guarded g s (toS 1 d (if (s.me.r.getP j).getLsbD 0 then s.me.r.getS a else s.me.r.getS b))

/-- LI (R97): Imm(); latency 1. -/
def execLi (g : Guard) (d : BitVec 6) (imm : BitVec 33) (s : State) : Out := guarded g s (toS 1 d (immS imm))

/-- LIH (R97): IMM[31:0] above the low half of sd, which is read at issue; latency 1. -/
def execLih (g : Guard) (d : BitVec 6) (imm : BitVec 32) (s : State) : Out :=
  guarded g s (toS 1 d (imm ++ (s.me.r.getS d).setWidth 32))

/-- MOV (R97): a; latency 1. -/
def execMov (g : Guard) (d a : BitVec 6) (s : State) : Out := rr1 1 id g d a s

/-- A saturating result of 64 bits with its flag (R91). -/
def satRes (x : Int) (d : BitVec 6) (s : State) : State :=
  let r := satS x 64
  toSFlags 1 d (BitVec.ofInt 64 r.1) r.2 s

/-- ADDS (R91): SatS(sa + sb, 64), SAT if it clamps; latency 1. -/
def execAdds (g : Guard) (d a b : BitVec 6) (s : State) : Out :=
  guarded g s (satRes ((s.me.r.getS a).toInt + (s.me.r.getS b).toInt) d)

/-- SUBS (R91): SatS(sa - sb, 64), SAT if it clamps; latency 1. -/
def execSubs (g : Guard) (d a b : BitVec 6) (s : State) : Out :=
  guarded g s (satRes ((s.me.r.getS a).toInt - (s.me.r.getS b).toInt) d)

/-- SEXT (R91): the low w bits sign-extended, w = IMM[5:0] + 1; latency 1. -/
def execSext (g : Guard) (d a w1 : BitVec 6) (s : State) : Out :=
  rr1 1 (fun a => BitVec.ofInt 64 (sext a.toNat (w1.toNat + 1))) g d a s

/-- ZEXT (R91): the low w bits, w = IMM[5:0] + 1; latency 1. -/
def execZext (g : Guard) (d a w1 : BitVec 6) (s : State) : Out :=
  rr1 1 (fun a => BitVec.ofNat 64 (a.toNat % 2 ^ (w1.toNat + 1))) g d a s

/-- NOP (R81): no effect, in any slot. -/
def execNop (s : State) : Out := .next s

end Sys2Proof.Machine
end

