-- ==== Sys2Proof/Machine/Vector.lean ====
section
/-! DEFINITION. The frame of vector instructions and their arithmetic, logic, shifts, counts, compares and reductions
(R113 to R126). -/

namespace Sys2Proof.Machine

/-! The frame (R113 to R116). -/

/-- First vector edge at or after tick t that the cluster has not taken (R115). -/
def CoreSt.vecEdge (k : CoreSt) (cl : Cluster) (t : Nat) : Nat :=
  match (match cl with | .A => k.lastA | .B => k.lastB) with
  | some l => if k.edge .vec t ≤ l then k.edge .vec (l + 1) else k.edge .vec t
  | none => k.edge .vec t

/-- The cluster begins an operation of the slot being issued and takes its edge; its deliveries are due lat vector cycles
later (R115). -/
def vecBegin (cl : Cluster) (lat : Nat) (effs : List Eff) (s : State) : State :=
  let b := s.me.vecEdge cl s.tick
  let k := effs.foldl (fun k e => k.deliver .vec b lat s.order e) s.me
  s.modMe fun _ => match cl with
    | .A => { k with lastA := some b }
    | .B => { k with lastB := some b }

/-- The bundle that produced a poisoned register among those read, and the unit that detected the error (R382, R386). -/
def poisonOf (r : Regs) (srcs : List (Cluster × BitVec 5)) : Option (W64 × Nat) :=
  (r.poison.find? fun e => srcs.any fun x => x.1 == e.1 && r.physV x.2 == e.2.1).map (·.2.2)

/-- Unit code of a cluster of core c (R387). -/
def clusterUnit (c : CoreId) (cl : Cluster) : Nat := (match cl with | .A => 0x200 | .B => 0x300) + c.val % 32

/-- A vector operation that reads `srcs`: it consumes poison, or begins. -/
def vecRun (cl : Cluster) (lat : Nat) (srcs : List (Cluster × BitVec 5)) (effs : List Eff) (s : State) : State :=
  match poisonOf s.me.r srcs with
  | some b => consume true b.1 b.2 none s
  | none => vecBegin cl lat effs s

/-- Active elements of width w under the guard (R15, R76). -/
def actives (h : VH) (w : Nat) (s : State) : List Nat :=
  (upto 0 (lanesOf w)).filter (active (s.me.r.getP h.grd) · w)

/-- Deliveries of element results and their flags (R114, R115). -/
def elemEffs (h : VH) (vd : BitVec 5) (w : Nat) (s : State) (es : List Nat) (f : Nat → Nat × Byte) : List Eff :=
  let rs := es.map fun e => (e, f e)
  let v := joinElems w (rs.map fun x => (x.1, x.2.1))
  let fl := rs.foldl (fun b x => b ||| x.2.2) 0
  .v h.cl (s.me.r.physV vd) v (maskElems w es) :: (if fl = 0 then [] else [.flags fl])

/-- Sources of the slot's own cluster. -/
def own (h : VH) (vs : List (BitVec 5)) : List (Cluster × BitVec 5) := vs.map fun v => (h.cl, v)

/-- V(i) of the slot's cluster. -/
def vreg (h : VH) (i : BitVec 5) (s : State) : VWord := s.me.r.getV h.cl i

/-- One source (R113). -/
def vec1 (h : VH) (lat : Nat) (vd v1 : BitVec 5) (f : Nat → Nat × Byte) (s : State) : Out :=
  let a := vreg h v1 s
  .next (vecRun h.cl lat (own h [v1]) (elemEffs h vd h.w s (actives h h.w s) fun e => f (elem a e h.w)) s)

/-- Two sources (R113). -/
def vec2 (h : VH) (lat : Nat) (vd v1 v2 : BitVec 5) (f : Nat → Nat → Nat × Byte) (s : State) : Out :=
  let a := vreg h v1 s
  let b := vreg h v2 s
  .next (vecRun h.cl lat (own h [v1, v2])
    (elemEffs h vd h.w s (actives h h.w s) fun e => f (elem a e h.w) (elem b e h.w)) s)

/-- What a residue check that fails adds to the deliveries: the register is poisoned (R386). Which checks fail is an input. -/
def residueEffs (h : VH) (vd : BitVec 5) (w : Nat) (s : State) : List Eff :=
  if s.dev.upsets.contains (s.cur, s.order) && !(actives h w s).isEmpty then
    [.mark h.cl (s.me.r.physV vd) s.bun.adr (clusterUnit s.cur h.cl)] else []

/-- Two sources, with a residue check of the result where `chk` holds (R386). -/
def vec2c (chk : Bool) (h : VH) (lat : Nat) (vd v1 v2 : BitVec 5) (f : Nat → Nat → Nat × Byte) (s : State) : Out :=
  let a := vreg h v1 s
  let b := vreg h v2 s
  .next (vecRun h.cl lat (own h [v1, v2])
    (elemEffs h vd h.w s (actives h h.w s) (fun e => f (elem a e h.w) (elem b e h.w)) ++
      if chk then residueEffs h vd h.w s else []) s)

/-- Three sources, with a residue check of the result (R386). -/
def vec3c (h : VH) (lat : Nat) (vd v1 v2 v3 : BitVec 5) (f : Nat → Nat → Nat → Nat × Byte) (s : State) : Out :=
  let a := vreg h v1 s
  let b := vreg h v2 s
  let c := vreg h v3 s
  .next (vecRun h.cl lat (own h [v1, v2, v3])
    (elemEffs h vd h.w s (actives h h.w s) (fun e => f (elem a e h.w) (elem b e h.w) (elem c e h.w)) ++
      residueEffs h vd h.w s) s)

/-! Element arithmetic (R117, R118). Sums, differences and integer products are checked, and float products and their sums
(R386). -/

/-- A rounded float result with the flags of its making and of its operands (R44, R46). -/
def fout (h : VH) (r : FRes) (ops : List Nat) : Nat × Byte :=
  let q := roundF h.ty h.rm h.sat r.1
  (q.1, ops.foldl (fun f x => f ||| snanFlag h.ty x) (q.2 ||| r.2))

/-- Two-source element: integers by R39, floats by R44. -/
def arith2 (h : VH) (fi : Int → Int → Int) (ff : FVal → FVal → FRes) (a b : Nat) : Nat × Byte :=
  if tyI h.ty then fromI h.ty h.sat (fi (toI h.ty a) (toI h.ty b))
  else fout h (ff (toF h.ty a) (toF h.ty b)) [a, b]

/-- VADD (R117). -/
def execVadd (h : VH) (vd v1 v2 : BitVec 5) (s : State) : Out :=
  vec2c (tyI h.ty) h 2 vd v1 v2 (arith2 h (· + ·) (addF h.rm)) s

/-- VSUB (R117). -/
def execVsub (h : VH) (vd v1 v2 : BitVec 5) (s : State) : Out :=
  vec2c (tyI h.ty) h 2 vd v1 v2 (arith2 h (· - ·) fun a b => addF h.rm a b.flip) s

/-- VMUL (R117). -/
def execVmul (h : VH) (vd v1 v2 : BitVec 5) (s : State) : Out :=
  vec2c true h 4 vd v1 v2 (arith2 h (· * ·) mulF) s

/-- High half of the exact product (R117). -/
def mulhElem (h : VH) (a b : Nat) : Nat × Byte :=
  (wrap (toI h.ty a * toI h.ty b / ((2 ^ h.w : Nat) : Int)) h.w, 0)

/-- VMULH (R117). -/
def execVmulh (h : VH) (vd v1 v2 : BitVec 5) (s : State) : Out :=
  vec2c true h 4 vd v1 v2 (mulhElem h) s

/-- Smaller or larger of two elements: integers by value, floats without rounding (R117). -/
def pick2 (h : VH) (less : Bool) (a b : Nat) : Nat × Byte :=
  if tyI h.ty then
    (if decide (toI h.ty a < toI h.ty b) == less then a else b, 0)
  else
    let f := if less then minF else maxF
    ((roundF h.ty .rne false (f (toF h.ty a) (toF h.ty b))).1, snanFlag h.ty a ||| snanFlag h.ty b)

/-- VMIN (R117). -/
def execVmin (h : VH) (vd v1 v2 : BitVec 5) (s : State) : Out := vec2 h 2 vd v1 v2 (pick2 h true) s

/-- VMAX (R117). -/
def execVmax (h : VH) (vd v1 v2 : BitVec 5) (s : State) : Out := vec2 h 2 vd v1 v2 (pick2 h false) s

/-- |a|: an integer by R39, a float with its sign bit cleared (R117). -/
def absElem (h : VH) (a : Nat) : Nat × Byte :=
  if tyI h.ty then fromI h.ty h.sat ((toI h.ty a).natAbs : Int) else (a % 2 ^ (h.w - 1), 0)

/-- VABS (R117). -/
def execVabs (h : VH) (vd v1 : BitVec 5) (s : State) : Out := vec1 h 2 vd v1 (absElem h) s

/-- -a: an integer by R39, a float with its sign bit flipped (R117). -/
def negElem (h : VH) (a : Nat) : Nat × Byte :=
  if tyI h.ty then fromI h.ty h.sat (-(toI h.ty a)) else (a ^^^ 2 ^ (h.w - 1), 0)

/-- VNEG (R117). -/
def execVneg (h : VH) (vd v1 : BitVec 5) (s : State) : Out := vec1 h 2 vd v1 (negElem h) s

/-- VCPSGN (R117): the bits of a below the sign, with the sign bit of b. -/
def execVcpsgn (h : VH) (vd v1 v2 : BitVec 5) (s : State) : Out :=
  vec2 h 2 vd v1 v2 (fun a b => (a % 2 ^ (h.w - 1) + (b / 2 ^ (h.w - 1)) * 2 ^ (h.w - 1), 0)) s

/-- Three-source element (R118). -/
def arith3 (h : VH) (fi : Int → Int → Int → Int) (ff : FVal → FVal → FVal → FRes) (a b c : Nat) : Nat × Byte :=
  if tyI h.ty then fromI h.ty h.sat (fi (toI h.ty a) (toI h.ty b) (toI h.ty c))
  else fout h (ff (toF h.ty a) (toF h.ty b) (toF h.ty c)) [a, b, c]

/-- VFMA (R118). -/
def execVfma (h : VH) (vd v1 v2 v3 : BitVec 5) (s : State) : Out :=
  vec3c h 4 vd v1 v2 v3 (arith3 h (fun a b c => a * b + c) (fmaF h.rm)) s

/-- VFMS (R118). -/
def execVfms (h : VH) (vd v1 v2 v3 : BitVec 5) (s : State) : Out :=
  vec3c h 4 vd v1 v2 v3 (arith3 h (fun a b c => a * b - c) fun a b c => fmaF h.rm a b c.flip) s

/-- VFNMA (R118). -/
def execVfnma (h : VH) (vd v1 v2 v3 : BitVec 5) (s : State) : Out :=
  vec3c h 4 vd v1 v2 v3 (arith3 h (fun a b c => -(a * b) + c) fun a b c => fmaF h.rm a.flip b c) s

/-! Divide and square root (R119). SAT is ignored (R142). -/

def noSat (h : VH) : VH := { h with sat := false }

/-- VDIV (R119). -/
def execVdiv (h : VH) (vd v1 v2 : BitVec 5) (s : State) : Out :=
  vec2 h 14 vd v1 v2 (fun a b => fout (noSat h) (divF (toF h.ty a) (toF h.ty b)) [a, b]) s

/-- VSQRT (R119). -/
def execVsqrt (h : VH) (vd v1 : BitVec 5) (s : State) : Out :=
  vec1 h 14 vd v1 (fun a => fout (noSat h) (sqrtF (toF h.ty a)) [a]) s

/-- VRSQRT (R119, R54). -/
def execVrsqrt (h : VH) (vd v1 : BitVec 5) (s : State) : Out :=
  vec1 h 14 vd v1 (fun a => fout (noSat h) (rsqrtF (toF h.ty a)) [a]) s

/-- The operand fails the pivot check: it is not greater than zero (R55). -/
def pivotFails (a : Nat) : Bool := !(FVal.fin false 0 0).lt (toF .f32 a)

/-- VRSQP (R119, R55): the root, and the check's outcome in P(j). -/
def execVrsqp (h : VH) (vd v1 : BitVec 5) (j : BitVec 4) (s : State) : Out :=
  let a := vreg h v1 s
  let es := actives h 32 s
  let f (e : Nat) : Nat × Byte :=
    let x := elem a e 32
    if pivotFails x then (nanPat .f32, flNPP) else fout (noSat h) (rsqrtF (toF .f32 x)) []
  let bits := es.foldl (fun b e => if pivotFails (elem a e 32) then b ||| ((1 : W64) <<< e) else b) (0 : W64)
  let mask := es.foldl (fun b e => b ||| ((1 : W64) <<< e)) (0 : W64)
  .next (vecRun h.cl 14 (own h [v1]) (.p (s.me.r.physP j) bits mask :: elemEffs h vd 32 s es f) s)

/-! Logic (R120). -/

/-- VAND (R120). -/
def execVand (h : VH) (vd v1 v2 : BitVec 5) (s : State) : Out := vec2 h 2 vd v1 v2 (fun a b => (a &&& b, 0)) s

/-- VOR (R120). -/
def execVor (h : VH) (vd v1 v2 : BitVec 5) (s : State) : Out := vec2 h 2 vd v1 v2 (fun a b => (a ||| b, 0)) s

/-- VXOR (R120). -/
def execVxor (h : VH) (vd v1 v2 : BitVec 5) (s : State) : Out := vec2 h 2 vd v1 v2 (fun a b => (a ^^^ b, 0)) s

/-- VNOT (R120). -/
def execVnot (h : VH) (vd v1 : BitVec 5) (s : State) : Out := vec1 h 2 vd v1 (fun a => (2 ^ h.w - 1 - a, 0)) s

/-! Shifts (R121). vshl applies SAT, as its entry says by R39; vshr and vsar ignore it, as R142 has it of integer instructions, where R113
with R39 would clamp a result of another sign: DESIGN CHOICE (log entry 120). -/

def shlElem (h : VH) (a sh : Nat) : Nat × Byte := fromI h.ty h.sat (toI h.ty a * ((2 ^ sh : Nat) : Int))
def shrElem (_h : VH) (a sh : Nat) : Nat × Byte := (a / 2 ^ sh, 0)
def sarElem (h : VH) (a sh : Nat) : Nat × Byte := (wrap (sext a h.w / ((2 ^ sh : Nat) : Int)) h.w, 0)
def rshrElem (h : VH) (a sh : Nat) : Nat × Byte :=
  if sh = 0 then (a, 0) else (wrap ((toI h.ty a + ((2 ^ (sh - 1) : Nat) : Int)) / ((2 ^ sh : Nat) : Int)) h.w, 0)

/-- Register form: the amount is the low six bits of the element of VS2. -/
def vshift (f : VH → Nat → Nat → Nat × Byte) (h : VH) (vd v1 v2 : BitVec 5) (s : State) : Out :=
  vec2 h 2 vd v1 v2 (fun a b => f h a (b % 64)) s

/-- Immediate form. -/
def vshiftImm (f : VH → Nat → Nat → Nat × Byte) (h : VH) (vd v1 : BitVec 5) (sh : BitVec 6) (s : State) : Out :=
  vec1 h 2 vd v1 (fun a => f h a sh.toNat) s

/-- VSHL (R121). -/
def execVshl (h : VH) (vd v1 v2 : BitVec 5) (s : State) : Out := vshift shlElem h vd v1 v2 s
/-- VSHL_IMM (R121). -/
def execVshlImm (h : VH) (vd v1 : BitVec 5) (sh : BitVec 6) (s : State) : Out := vshiftImm shlElem h vd v1 sh s
/-- VSHR (R121). -/
def execVshr (h : VH) (vd v1 v2 : BitVec 5) (s : State) : Out := vshift shrElem h vd v1 v2 s
/-- VSHR_IMM (R121). -/
def execVshrImm (h : VH) (vd v1 : BitVec 5) (sh : BitVec 6) (s : State) : Out := vshiftImm shrElem h vd v1 sh s
/-- VSAR (R121). -/
def execVsar (h : VH) (vd v1 v2 : BitVec 5) (s : State) : Out := vshift sarElem h vd v1 v2 s
/-- VSAR_IMM (R121). -/
def execVsarImm (h : VH) (vd v1 : BitVec 5) (sh : BitVec 6) (s : State) : Out := vshiftImm sarElem h vd v1 sh s
/-- VRSHR (R121). -/
def execVrshr (h : VH) (vd v1 v2 : BitVec 5) (s : State) : Out := vshift rshrElem h vd v1 v2 s
/-- VRSHR_IMM (R121). -/
def execVrshrImm (h : VH) (vd v1 : BitVec 5) (sh : BitVec 6) (s : State) : Out := vshiftImm rshrElem h vd v1 sh s

/-! Counts (R122) and dot products (R123). -/

/-- VCLZ (R122). -/
def execVclz (h : VH) (vd v1 : BitVec 5) (s : State) : Out := vec1 h 2 vd v1 (fun a => (leadZeros a h.w, 0)) s

/-- VPOPC (R122). -/
def execVpopc (h : VH) (vd v1 : BitVec 5) (s : State) : Out := vec1 h 2 vd v1 (fun a => (popBits a h.w, 0)) s

/-- Lane of vdot4: c plus the four products of the bytes of a and b (R123). -/
def dot4 (h : VH) (a b c : Nat) : Nat × Byte :=
  let by_ (x j : Nat) : Int := toI h.ty (natBits x (8 * j + 7) (8 * j))
  let ct := if h.ty = .i8 then ElemTy.i32 else .n32
  fromI ct h.sat (toI ct c + by_ a 0 * by_ b 0 + by_ a 1 * by_ b 1 + by_ a 2 * by_ b 2 + by_ a 3 * by_ b 3)

/-- VDOT4 (R123). -/
def execVdot4 (h : VH) (vd v1 v2 v3 : BitVec 5) (s : State) : Out :=
  let a := vreg h v1 s
  let b := vreg h v2 s
  let c := vreg h v3 s
  .next (vecRun h.cl 4 (own h [v1, v2, v3])
    (elemEffs h vd 32 s (actives h 32 s) (fun e => dot4 h (elem a e 32) (elem b e 32) (elem c e 32)) ++
      residueEffs h vd 32 s) s)

/-! Compares (R124) and selection (R125). -/

/-- A compare: its bit for each active lane of P(j), and NV for a signalling NaN (R124). -/
def vcompare (h : VH) (v1 v2 : BitVec 5) (j : BitVec 4) (ci : Int → Int → Bool) (cf : FVal → FVal → Bool) (s : State) : Out :=
  let a := vreg h v1 s
  let b := vreg h v2 s
  let es := actives h 32 s
  let t (e : Nat) : Bool :=
    if tyI h.ty then ci (toI h.ty (elem a e 32)) (toI h.ty (elem b e 32))
    else cf (toF .f32 (elem a e 32)) (toF .f32 (elem b e 32))
  let bits := es.foldl (fun x e => if t e then x ||| ((1 : W64) <<< e) else x) (0 : W64)
  let mask := es.foldl (fun x e => x ||| ((1 : W64) <<< e)) (0 : W64)
  let fl := es.foldl (fun f e => f ||| snanFlag h.ty (elem a e 32) ||| snanFlag h.ty (elem b e 32)) 0
  .next (vecRun h.cl 2 (own h [v1, v2])
    (.p (s.me.r.physP j) bits mask :: (if fl = 0 then [] else [.flags fl])) s)

/-- VCMPEQ (R124). -/
def execVcmpeq (h : VH) (v1 v2 : BitVec 5) (j : BitVec 4) (s : State) : Out :=
  vcompare h v1 v2 j (fun a b => decide (a = b)) FVal.eqv s
/-- VCMPNE (R124): true of a NaN. -/
def execVcmpne (h : VH) (v1 v2 : BitVec 5) (j : BitVec 4) (s : State) : Out :=
  vcompare h v1 v2 j (fun a b => decide (a ≠ b)) (fun a b => !a.eqv b) s
/-- VCMPLT (R124). -/
def execVcmplt (h : VH) (v1 v2 : BitVec 5) (j : BitVec 4) (s : State) : Out :=
  vcompare h v1 v2 j (fun a b => decide (a < b)) FVal.lt s
/-- VCMPLE (R124). -/
def execVcmple (h : VH) (v1 v2 : BitVec 5) (j : BitVec 4) (s : State) : Out :=
  vcompare h v1 v2 j (fun a b => decide (a ≤ b)) (fun a b => a.lt b || a.eqv b) s

/-- VSEL (R125). -/
def execVsel (h : VH) (vd v1 v2 : BitVec 5) (j : BitVec 4) (s : State) : Out :=
  let a := vreg h v1 s
  let b := vreg h v2 s
  let p := s.me.r.getP j
  .next (vecRun h.cl 2 (own h [v1, v2])
    (elemEffs h vd h.w s (actives h h.w s) fun e => (if active p e h.w then elem a e h.w else elem b e h.w, 0)) s)

/-! Reductions (R126, R58, R59). -/

/-- Latency 2 + log2(n). -/
def redLat (h : VH) : Nat := match h.w with | 32 => 8 | 16 => 9 | _ => 10

/-- Deliveries of a reduction: lane 0 takes the result, the other lanes 0, whatever the guard holds. -/
def redEffs (h : VH) (vd : BitVec 5) (r : Nat × Byte) (s : State) : List Eff :=
  .v h.cl (s.me.r.physV vd) (BitVec.ofNat 2048 (r.1 % 2 ^ 32)) (BitVec.allOnes 2048) :: (if r.2 = 0 then [] else [.flags r.2])

/-- Float reduction over the tree; inactive elements enter as `idp` (R58, R59). -/
def redF (h : VH) (idp : Nat) (f : FVal → FVal → FRes) (round : Bool) (a : VWord) (s : State) : Nat × Byte :=
  let p := s.me.r.getP h.grd
  let leaf (e : Nat) : Nat × Byte :=
    if active p e h.w then
      ((roundF .f32 .rne false (toF h.ty (elem a e h.w))).1, snanFlag h.ty (elem a e h.w))
    else (idp, 0)
  let node (x y : Nat × Byte) : Nat × Byte :=
    let r := f (toF .f32 x.1) (toF .f32 y.1)
    let q := if round then roundF .f32 h.rm h.sat r.1 else roundF .f32 .rne false r.1
    (q.1, q.2 ||| r.2 ||| x.2 ||| y.2)
  ((reduceTree node ((upto 0 h.n).map leaf) 8).head?).getD (idp, 0)

/-- Integer reduction: the exact result of the active elements, reduced to 32 bits (R126). -/
def redI (h : VH) (z : Int) (f : Int → Int → Int) (a : VWord) (s : State) : Nat × Byte :=
  let x := (actives h h.w s).foldl (fun t e => f t (toI h.ty (elem a e h.w))) z
  fromI (match h.ty with | .i8 | .i16 | .i32 => .i32 | _ => .n32) h.sat x

/-- The reductions (R126). -/
def reduce (h : VH) (vd v1 : BitVec 5) (z : Int) (fi : Int → Int → Int) (idp : Nat) (ff : FVal → FVal → FRes) (round : Bool)
    (s : State) : Out :=
  let a := vreg h v1 s
  let r := if tyI h.ty then redI h z fi a s else redF h idp ff round a s
  .next (vecRun h.cl (redLat h) (own h [v1]) (redEffs h vd r s) s)

/-- VREDSUM (R126). -/
def execVredsum (h : VH) (vd v1 : BitVec 5) (s : State) : Out :=
  reduce h vd v1 0 (· + ·) 0x80000000 (addF h.rm) true s

/-- VREDMAX (R126). -/
def execVredmax (h : VH) (vd v1 : BitVec 5) (s : State) : Out :=
  reduce h vd v1 (intLo h.ty) max 0xFF800000 (fun a b => (maxF a b, 0)) false s

/-- VREDMIN (R126). -/
def execVredmin (h : VH) (vd v1 : BitVec 5) (s : State) : Out :=
  reduce h vd v1 (intHi h.ty) min 0x7F800000 (fun a b => (minF a b, 0)) false s

end Sys2Proof.Machine
end

