-- ==== Sys2Proof/Machine/VectorMove.lean ====
section
/-! DEFINITION. Vector moves, broadcasts, permutations, conversions and block-4 (R127 to R133). -/

namespace Sys2Proof.Machine

/-! Moves and broadcasts. -/

/-- Value of vmovi (R127). -/
def moviVal (ty : ElemTy) (imm : BitVec 24) : Nat :=
  match ty with
  | .f32 => (imm.toNat % 2 ^ 16) * 2 ^ 16
  | .bf16 => imm.toNat % 2 ^ 16
  | _ => wrap (sext imm.toNat 24) (tyBits ty)

/-- Deliveries of one value to every active element. -/
def splat (h : VH) (vd : BitVec 5) (v : Nat) (s : State) : List Eff :=
  elemEffs h vd h.w s (actives h h.w s) fun _ => (v, 0)

/-- VMOVI (R127). -/
def execVmovi (h : VH) (vd : BitVec 5) (imm : BitVec 24) (s : State) : Out :=
  .next (vecRun h.cl 2 [] (splat h vd (moviVal h.ty imm) s) s)

/-- The other cluster. -/
def otherCl : Cluster → Cluster
  | .A => .B
  | .B => .A

/-- VXMOV (R127): reads the other cluster. -/
def execVxmov (h : VH) (vd v1 : BitVec 5) (s : State) : Out :=
  let a := s.me.r.getV (otherCl h.cl) v1
  .next (vecRun h.cl 2 [((otherCl h.cl), v1)] (elemEffs h vd h.w s (actives h h.w s) fun e => (elem a e h.w, 0)) s)

/-- VMOV (R127). -/
def execVmov (h : VH) (vd v1 : BitVec 5) (s : State) : Out := vec1 h 2 vd v1 (fun a => (a, 0)) s

/-- VBCAST_ELEM (R128): element e of VS1. -/
def execVbcastElem (h : VH) (vd v1 : BitVec 5) (el : BitVec 12) (s : State) : Out :=
  .next (vecRun h.cl 3 (own h [v1]) (splat h vd (elem (vreg h v1 s) el.toNat h.w) s) s)

/-- VBCAST_SCALAR (R128): the low bits of s(k). -/
def execVbcastScalar (h : VH) (vd : BitVec 5) (sk : BitVec 6) (s : State) : Out :=
  .next (vecRun h.cl 3 [] (splat h vd ((s.me.r.getS sk).toNat % 2 ^ h.w) s) s)

/-! Permutation (R129, R130). -/

/-- Element i of the sequence of V(VS1)'s elements followed by V(VS2)'s. -/
def catElem (a b : VWord) (w i : Nat) : Nat := if i < lanesOf w then elem a i w else elem b (i - lanesOf w) w

/-- A permutation of the elements of two sources (R129). -/
def permute (h : VH) (vd v1 v2 : BitVec 5) (f : VWord → VWord → Nat → Nat) (s : State) : Out :=
  let a := vreg h v1 s
  let b := vreg h v2 s
  .next (vecRun h.cl 3 (own h [v1, v2]) (elemEffs h vd h.w s (actives h h.w s) fun e => (f a b e, 0)) s)

/-- VPERM (R129). -/
def execVperm (h : VH) (vd v1 v2 : BitVec 5) (s : State) : Out :=
  permute h vd v1 v2 (fun a b e => elem a (elem b e h.w % h.n) h.w) s

/-- VSLIDE (R129). -/
def execVslide (h : VH) (vd v1 v2 : BitVec 5) (k9 : BitVec 9) (s : State) : Out :=
  permute h vd v1 v2 (fun a b e => catElem a b h.w (e + k9.toNat)) s

/-- VZIP (R129). -/
def execVzip (h : VH) (vd v1 v2 : BitVec 5) (hb : Bool) (s : State) : Out :=
  permute h vd v1 v2 (fun a b e => elem (if e % 2 = 0 then a else b) (hb.toNat * (h.n / 2) + e / 2) h.w) s

/-- VUNZIP (R129). -/
def execVunzip (h : VH) (vd v1 v2 : BitVec 5) (hb : Bool) (s : State) : Out :=
  permute h vd v1 v2 (fun a b e => catElem a b h.w (2 * e + hb.toNat)) s

/-- VPACK (R130): sources of width 2w, signed or unsigned, reduced by R39. -/
def execVpack (h : VH) (vd v1 v2 : BitVec 5) (sg : Bool) (s : State) : Out :=
  let a := vreg h v1 s
  let b := vreg h v2 s
  let w2 := 2 * h.w
  let src (e : Nat) : Int := let x := catElem a b w2 e; if sg then (x : Int) else sext x w2
  .next (vecRun h.cl 3 (own h [v1, v2]) (elemEffs h vd h.w s (actives h h.w s) fun e => fromI h.ty h.sat (src e)) s)

/-- VUNPK (R130): sources of width w/2, extended by the type's signedness. -/
def execVunpk (h : VH) (vd v1 : BitVec 5) (hb : Bool) (s : State) : Out :=
  let a := vreg h v1 s
  let sg := match h.ty with | .i16 | .i32 => true | _ => false
  let src (e : Nat) : Nat :=
    let x := elem a (hb.toNat * h.n + e) (h.w / 2)
    if sg then wrap (sext x (h.w / 2)) h.w else x
  .next (vecRun h.cl 3 (own h [v1]) (elemEffs h vd h.w s (actives h h.w s) fun e => (src e, 0)) s)

/-! Conversion (R131) and block-4 (R132, R133). -/

/-- VCVT (R131). -/
def execVcvt (h : VH) (vd v1 : BitVec 5) (fm : ElemTy) (hh : BitVec 2) (s : State) : Out :=
  let a := vreg h v1 s
  let ws := tyBits fm
  let m := 2048 / max ws h.w
  let dst (e : Nat) : Nat := if h.w < ws then hh.toNat * m + e else e
  let src (d : Nat) : Nat := if h.w < ws then d - hh.toNat * m else if ws < h.w then hh.toNat * m + d else d
  let es := ((upto 0 m).map dst).filter (active (s.me.r.getP h.grd) · h.w)
  .next (vecRun h.cl 3 (own h [v1]) (elemEffs h vd h.w s es fun d => convert h.ty fm h.rm h.sat (elem a (src d) ws)) s)

/-- Source values of vquant (R132). -/
def quantSrc (fm : ElemTy) (a b : VWord) : List FVal :=
  (upto 0 124).map fun i =>
    toF fm (if fm = .f32 then catElem a b 32 i else elem a i (tyBits fm))

/-- VQUANT (R132): one block, written whole if the predicate bit of its first lane is 1. -/
def execVquant (h : VH) (vd v1 v2 : BitVec 5) (fm : ElemTy) (bb bt : BitVec 2) (e0 : BitVec 6) (s : State) : Out :=
  let b := bb.toNat
  let q := quantise bt.toNat e0.toNat h.rm (quantSrc fm (vreg h v1 s) (vreg h v2 s))
  let effs := if (s.me.r.getP h.grd).getLsbD (16 * b) then
      .v h.cl (s.me.r.physV vd) (BitVec.ofNat 2048 (q.1 <<< (512 * b))) (maskElems 512 [b]) ::
        (if q.2 = 0 then [] else [.flags q.2])
    else []
  .next (vecRun h.cl 8 (own h (if fm = .f32 then [v1, v2] else [v1])) effs s)

/-- Code that destination element e of vdequant takes; none stands for +0 (R133). -/
def dequantCode (w hb e : Nat) : Option Nat :=
  let c := if w = 32 then 64 * hb + e else e
  if c < 124 then some c else none

/-- VDEQUANT (R133). SAT does not act on float results (R142). -/
def execVdequant (h : VH) (vd v1 : BitVec 5) (bb : BitVec 2) (hb : Bool) (s : State) : Out :=
  let blk := elem (vreg h v1 s) bb.toNat 512
  let f (e : Nat) : Nat × Byte :=
    match dequantCode h.w hb.toNat e with
    | some c =>
      let v := b4Elem blk c
      let r := fromF h.ty h.rm false v.1
      (r.1, r.2 ||| v.2)
    | none => (0, 0)
  .next (vecRun h.cl 4 (own h [v1]) (elemEffs h vd h.w s (actives h h.w s) f) s)

end Sys2Proof.Machine
end

