-- ==== Sys2Proof/Machine/VectorMem.lean ====
section
/-! DEFINITION. Vector loads and stores of the pad (R134 to R140). -/

namespace Sys2Proof.Machine

/-- B = Wrap(S(k) + offset, 64) (R134). -/
def padBase (sk : BitVec 6) (off : Nat) (s : State) : Nat := ((s.me.r.getS sk) + BitVec.ofNat 64 off).toNat

/-- Wrap(x, 64) of an integer address. -/
def addr64 (x : Int) : Nat := wrap x 64

/-- The checks of R134 over the active elements with their addresses: cause and FADR of the first that fails. A block-4
access checks the alignment of its base. -/
def padCheck (h : VH) (b : Nat) (xs : List Nat) : Option (Byte × Nat) :=
  let z := h.w / 8
  match xs.find? fun a => decide (0x200000 < a + z) with
  | some a => some (0x07, a)
  | none =>
    if h.ty = .b4 then (if xs.isEmpty ∨ b % 64 = 0 then none else some (0x06, b))
    else (xs.find? fun a => a % z != 0).map fun a => (0x06, a)

/-- A vector load has its fixed latency; the pad bytes from the first to the last that it reads keep their place in the order for the
core's engines (log entry 79). -/
def vecRead (h : VH) (keys : List Nat) (s : State) : State :=
  if keys.isEmpty then s else padRead (keySpan keys).1 ((keySpan keys).2 - 1 + h.w / 8) false false 0 s

/-- The reads of pad bytes by the slot being issued meet their errors (R395, R397). -/
def notePads (s : State) (keys : List Nat) : State := if s.dev.errs.isEmpty then s else reachKeys (islOf s.cur) keys s

/-- A vector pad load of element addresses `at_` (R135 to R138). -/
def vecLoad (h : VH) (lat : Nat) (vd : BitVec 5) (srcs : List (BitVec 5)) (b : Nat) (at_ : Nat → Nat) (s : State) : Out :=
  let es := actives h h.w s
  match padCheck h b (es.map at_) with
  | some (c, a) => .next (takeTrap c (BitVec.ofNat 64 a) (BitVec.ofNat 64 (h.w / 8)) s)
  | none =>
    let rd (e : Nat) : Nat := padValue s (padKey s.cur (at_ e)) (h.w / 8)
    let bad := es.findSome? fun e => padPoison s (padKey s.cur (at_ e)) (h.w / 8)
    let effs := elemEffs h vd h.w s es fun e => (rd e, 0)
    .next (vecRun h.cl lat (own h srcs)
      (match bad with | some u => effs ++ [.mark h.cl (s.me.r.physV vd) s.bun.adr u] | none => effs)
      (vecRead h (es.map fun e => padKey s.cur (at_ e)) (notePads s (es.map fun e => padKey s.cur (at_ e)))))

/-- Buffer entries of cells: the 64-byte pieces of the pad that they reach (R139). -/
def piecesOf (cells : List Host.Cell) : Nat := ((cells.map fun c => c.1 / 64).eraseDups).length

/-- Cells that a vector pad store writes, in element order (R137). -/
def vecCells (h : VH) (vd : BitVec 5) (at_ : Nat → Nat) (s : State) : List Host.Cell :=
  let d := vreg h vd s
  (actives h h.w s).flatMap fun e => cellsOf (padKey s.cur (at_ e)) (elem d e h.w) (h.w / 8)

/-- A vector pad store (R135 to R139). A poisoned data register is moved, not consumed (R381). -/
def vecStore (h : VH) (vd : BitVec 5) (srcs : List (BitVec 5)) (b : Nat) (at_ : Nat → Nat) (s : State) : Out :=
  let es := actives h h.w s
  match padCheck h b (es.map at_) with
  | some (c, a) => .next (takeTrap c (BitVec.ofNat 64 a) (BitVec.ofNat 64 (h.w / 8)) s)
  | none =>
    match poisonOf s.me.r (own h srcs) with
    | some x => .next (consume true x.1 x.2 none s)
    | none =>
      let cells := vecCells h vd at_ s
      let bad := (poisonOf s.me.r (own h [vd])).map (·.2)
      let s1 := vecBegin h.cl 0 [] s
      .next (if cells.isEmpty then s1
        else withhold .pad (BitVec.ofNat 64 b) cells (piecesOf cells) false 0 bad Trip.init s1)

/-- Contiguous addresses: A(e) = B + e × w/8, with no wrap (R134). -/
def contAt (h : VH) (b e : Nat) : Nat := b + e * (h.w / 8)

/-- Strided addresses (R136). -/
def strideAt (b : Nat) (t : BitVec 6) (s : State) (e : Nat) : Nat := addr64 ((b : Int) + (e : Int) * (s.me.r.getS t).toInt)

/-- Indexed addresses (R137). -/
def indexAt (h : VH) (b : Nat) (v2 : BitVec 5) (s : State) (e : Nat) : Nat := addr64 ((b : Int) + (elem (vreg h v2 s) e 32 : Nat))

/-- VLD (R135). -/
def execVld (h : VH) (vd : BitVec 5) (off : BitVec 18) (sk : BitVec 6) (s : State) : Out :=
  let b := padBase sk off.toNat s
  vecLoad h 4 vd [] b (contAt h b) s

/-- VST (R135). -/
def execVst (h : VH) (vd : BitVec 5) (off : BitVec 18) (sk : BitVec 6) (s : State) : Out :=
  let b := padBase sk off.toNat s
  vecStore h vd [] b (contAt h b) s

/-- VLDS (R136). -/
def execVlds (h : VH) (vd : BitVec 5) (off : BitVec 12) (sk st : BitVec 6) (s : State) : Out :=
  let b := padBase sk off.toNat s
  vecLoad h 6 vd [] b (strideAt b st s) s

/-- VSTS (R136). -/
def execVsts (h : VH) (vd : BitVec 5) (off : BitVec 12) (sk st : BitVec 6) (s : State) : Out :=
  let b := padBase sk off.toNat s
  vecStore h vd [] b (strideAt b st s) s

/-- VLDX (R137). -/
def execVldx (h : VH) (vd v2 : BitVec 5) (off : BitVec 18) (sk : BitVec 6) (s : State) : Out :=
  let b := padBase sk off.toNat s
  vecLoad h 6 vd [v2] b (indexAt h b v2 s) s

/-- VSTX (R137). -/
def execVstx (h : VH) (vd v2 : BitVec 5) (off : BitVec 18) (sk : BitVec 6) (s : State) : Out :=
  let b := padBase sk off.toNat s
  vecStore h vd [v2] b (indexAt h b v2 s) s

/-- VLDB (R135): the one element at B, checked if some element is active. -/
def execVldb (h : VH) (vd : BitVec 5) (off : BitVec 18) (sk : BitVec 6) (s : State) : Out :=
  let b := padBase sk off.toNat s
  vecLoad h 4 vd [] b (fun _ => b) s

/-- Buffer entries that a vector store of the bundle takes on its own; 0 for every other operation (R139, R232). -/
def vecEntries (i : Instr) (s : State) : Nat :=
  match i with
  | .vst h vd off sk => let b := padBase sk off.toNat s; piecesOf (vecCells h vd (contAt h b) s)
  | .vsts h vd off sk st => let b := padBase sk off.toNat s; piecesOf (vecCells h vd (strideAt b st s) s)
  | .vstx h vd v2 off sk => let b := padBase sk off.toNat s; piecesOf (vecCells h vd (indexAt h b v2 s) s)
  | _ => 0

end Sys2Proof.Machine
end

