-- ==== Sys2Proof/Machine/Dispatch.lean ====
section
/-! DEFINITION. One arm for each row of the opcode table: the meaning of each instruction. -/

namespace Sys2Proof.Machine

/-- What an instruction does in a state. A slot operation or micro-operation acts for core `cur`; a device step takes its
operands from `arg`. -/
def exec (i : Instr) (s : State) : Host.Outcome State Fault Refusal :=
  match i with
  | .nop => Sys2Proof.Machine.execNop s
  | .add g d a b => Sys2Proof.Machine.execAdd g d a b s
  | .sub g d a b => Sys2Proof.Machine.execSub g d a b s
  | .mul g d a b => Sys2Proof.Machine.execMul g d a b s
  | .mulh g d a b => Sys2Proof.Machine.execMulh g d a b s
  | .mulhn g d a b => Sys2Proof.Machine.execMulhn g d a b s
  | .div g d a b => Sys2Proof.Machine.execDiv g d a b s
  | .divn g d a b => Sys2Proof.Machine.execDivn g d a b s
  | .rem g d a b => Sys2Proof.Machine.execRem g d a b s
  | .remn g d a b => Sys2Proof.Machine.execRemn g d a b s
  | .addi g d a imm => Sys2Proof.Machine.execAddi g d a imm s
  | .muli g d a imm => Sys2Proof.Machine.execMuli g d a imm s
  | .and g d a b => Sys2Proof.Machine.execAnd g d a b s
  | .or g d a b => Sys2Proof.Machine.execOr g d a b s
  | .xor g d a b => Sys2Proof.Machine.execXor g d a b s
  | .andn g d a b => Sys2Proof.Machine.execAndn g d a b s
  | .orn g d a b => Sys2Proof.Machine.execOrn g d a b s
  | .xnor g d a b => Sys2Proof.Machine.execXnor g d a b s
  | .andi g d a imm => Sys2Proof.Machine.execAndi g d a imm s
  | .ori g d a imm => Sys2Proof.Machine.execOri g d a imm s
  | .xori g d a imm => Sys2Proof.Machine.execXori g d a imm s
  | .shl g d a b => Sys2Proof.Machine.execShl g d a b s
  | .shr g d a b => Sys2Proof.Machine.execShr g d a b s
  | .sar g d a b => Sys2Proof.Machine.execSar g d a b s
  | .rol g d a b => Sys2Proof.Machine.execRol g d a b s
  | .ror g d a b => Sys2Proof.Machine.execRor g d a b s
  | .shli g d a sh => Sys2Proof.Machine.execShli g d a sh s
  | .shri g d a sh => Sys2Proof.Machine.execShri g d a sh s
  | .sari g d a sh => Sys2Proof.Machine.execSari g d a sh s
  | .min g d a b => Sys2Proof.Machine.execMin g d a b s
  | .max g d a b => Sys2Proof.Machine.execMax g d a b s
  | .minn g d a b => Sys2Proof.Machine.execMinn g d a b s
  | .maxn g d a b => Sys2Proof.Machine.execMaxn g d a b s
  | .abs g d a => Sys2Proof.Machine.execAbs g d a s
  | .neg g d a => Sys2Proof.Machine.execNeg g d a s
  | .clz g d a => Sys2Proof.Machine.execClz g d a s
  | .ctz g d a => Sys2Proof.Machine.execCtz g d a s
  | .popc g d a => Sys2Proof.Machine.execPopc g d a s
  | .bswap g d a => Sys2Proof.Machine.execBswap g d a s
  | .bexs g d a pos w1 => Sys2Proof.Machine.execBexs g d a pos w1 s
  | .bexz g d a pos w1 => Sys2Proof.Machine.execBexz g d a pos w1 s
  | .bins g d a pos w1 => Sys2Proof.Machine.execBins g d a pos w1 s
  | .sel g d a b j => Sys2Proof.Machine.execSel g d a b j s
  | .li g d imm => Sys2Proof.Machine.execLi g d imm s
  | .lih g d imm => Sys2Proof.Machine.execLih g d imm s
  | .mov g d a => Sys2Proof.Machine.execMov g d a s
  | .adds g d a b => Sys2Proof.Machine.execAdds g d a b s
  | .subs g d a b => Sys2Proof.Machine.execSubs g d a b s
  | .sext g d a w1 => Sys2Proof.Machine.execSext g d a w1 s
  | .zext g d a w1 => Sys2Proof.Machine.execZext g d a w1 s
  | .cmpeq g pd a b => Sys2Proof.Machine.execCmpeq g pd a b s
  | .cmpne g pd a b => Sys2Proof.Machine.execCmpne g pd a b s
  | .cmplt g pd a b => Sys2Proof.Machine.execCmplt g pd a b s
  | .cmple g pd a b => Sys2Proof.Machine.execCmple g pd a b s
  | .cmpltn g pd a b => Sys2Proof.Machine.execCmpltn g pd a b s
  | .cmplen g pd a b => Sys2Proof.Machine.execCmplen g pd a b s
  | .cmpeqi g pd a imm => Sys2Proof.Machine.execCmpeqi g pd a imm s
  | .cmplti g pd a imm => Sys2Proof.Machine.execCmplti g pd a imm s
  | .pand g pd px py => Sys2Proof.Machine.execPand g pd px py s
  | .por g pd px py => Sys2Proof.Machine.execPor g pd px py s
  | .pxor g pd px py => Sys2Proof.Machine.execPxor g pd px py s
  | .pandn g pd px py => Sys2Proof.Machine.execPandn g pd px py s
  | .pnot g pd px => Sys2Proof.Machine.execPnot g pd px s
  | .pmov g pd px => Sys2Proof.Machine.execPmov g pd px s
  | .pset g pd a => Sys2Proof.Machine.execPset g pd a s
  | .pget g d px => Sys2Proof.Machine.execPget g d px s
  | .pcnt g d px => Sys2Proof.Machine.execPcnt g d px s
  | .br g imm => Sys2Proof.Machine.execBr g imm s
  | .jmp g a => Sys2Proof.Machine.execJmp g a s
  | .call g d imm => Sys2Proof.Machine.execCall g d imm s
  | .callr g d a => Sys2Proof.Machine.execCallr g d a s
  | .ret g a => Sys2Proof.Machine.execRet g a s
  | .loop g a ii ns1 => Sys2Proof.Machine.execLoop g a ii ns1 s
  | .sloop g a ii ns1 => Sys2Proof.Machine.execSloop g a ii ns1 s
  | .snext g imm => Sys2Proof.Machine.execSnext g imm s
  | .mfsp g d idx => Sys2Proof.Machine.execMfsp g d idx s
  | .mtsp g a idx => Sys2Proof.Machine.execMtsp g a idx s
  | .ldb g d a j sp off => Sys2Proof.Machine.execLdb g d a j sp off s
  | .ldbn g d a j sp off => Sys2Proof.Machine.execLdbn g d a j sp off s
  | .ldh g d a j sp off => Sys2Proof.Machine.execLdh g d a j sp off s
  | .ldhn g d a j sp off => Sys2Proof.Machine.execLdhn g d a j sp off s
  | .ldw g d a j sp off => Sys2Proof.Machine.execLdw g d a j sp off s
  | .ldwn g d a j sp off => Sys2Proof.Machine.execLdwn g d a j sp off s
  | .ldd g d a j sp off => Sys2Proof.Machine.execLdd g d a j sp off s
  | .stb g a b sp off => Sys2Proof.Machine.execStb g a b sp off s
  | .sth g a b sp off => Sys2Proof.Machine.execSth g a b sp off s
  | .stw g a b sp off => Sys2Proof.Machine.execStw g a b sp off s
  | .std g a b sp off => Sys2Proof.Machine.execStd g a b sp off s
  | .ldr g pd a sp off => Sys2Proof.Machine.execLdr g pd a sp off s
  | .ldk g d a j sp k sz off => Sys2Proof.Machine.execLdk g d a j sp k sz off s
  | .lda g d a j sp scp sz off => Sys2Proof.Machine.execLda g d a j sp scp sz off s
  | .stl g a b sp scp sz off => Sys2Proof.Machine.execStl g a b sp scp sz off s
  | .pgin g d a sp off => Sys2Proof.Machine.execPgin g d a sp off s
  | .amoadd g d a b sp ord scp sz off => Sys2Proof.Machine.execAmoadd g d a b sp ord scp sz off s
  | .amoand g d a b sp ord scp sz off => Sys2Proof.Machine.execAmoand g d a b sp ord scp sz off s
  | .amoor g d a b sp ord scp sz off => Sys2Proof.Machine.execAmoor g d a b sp ord scp sz off s
  | .amoxor g d a b sp ord scp sz off => Sys2Proof.Machine.execAmoxor g d a b sp ord scp sz off s
  | .amomin g d a b sp ord scp sz off => Sys2Proof.Machine.execAmomin g d a b sp ord scp sz off s
  | .amomax g d a b sp ord scp sz off => Sys2Proof.Machine.execAmomax g d a b sp ord scp sz off s
  | .amominn g d a b sp ord scp sz off => Sys2Proof.Machine.execAmominn g d a b sp ord scp sz off s
  | .amomaxn g d a b sp ord scp sz off => Sys2Proof.Machine.execAmomaxn g d a b sp ord scp sz off s
  | .amoswp g d a b sp ord scp sz off => Sys2Proof.Machine.execAmoswp g d a b sp ord scp sz off s
  | .amocas g d a b sp ord scp sz off => Sys2Proof.Machine.execAmocas g d a b sp ord scp sz off s
  | .fence g ordr scp spc => Sys2Proof.Machine.execFence g ordr scp spc s
  | .rpub g d a rn => Sys2Proof.Machine.execRpub g d a rn s
  | .radv g a rn => Sys2Proof.Machine.execRadv g a rn s
  | .racq g d a rn => Sys2Proof.Machine.execRacq g d a rn s
  | .rrnd g d a rn rw => Sys2Proof.Machine.execRrnd g d a rn rw s
  | .hoist g d a b sp tp ta tb tc => Sys2Proof.Machine.execHoist g d a b sp tp ta tb tc s
  | .sight g d a b sp tp ta tb tc => Sys2Proof.Machine.execSight g d a b sp tp ta tb tc s
  | .hrnd g d a => Sys2Proof.Machine.execHrnd g d a s
  | .barr g d bn n1 tp => Sys2Proof.Machine.execBarr g d bn n1 tp s
  | .bwait g pd a bn => Sys2Proof.Machine.execBwait g pd a bn s
  | .bgen g d bn => Sys2Proof.Machine.execBgen g d bn s
  | .tkwait g ta tb tc => Sys2Proof.Machine.execTkwait g ta tb tc s
  | .tkpoll g pd ta => Sys2Proof.Machine.execTkpoll g pd ta s
  | .rwait g q => Sys2Proof.Machine.execRwait g q s
  | .rrel g q => Sys2Proof.Machine.execRrel g q s
  | .rnew g q a b => Sys2Proof.Machine.execRnew g q a b s
  | .rstat g d q => Sys2Proof.Machine.execRstat g d q s
  | .nsw g k a nw => Sys2Proof.Machine.execNsw g k a nw s
  | .ngw g d k nw => Sys2Proof.Machine.execNgw g d k nw s
  | .mset g mi a => Sys2Proof.Machine.execMset g mi a s
  | .mseti g mi imm mq => Sys2Proof.Machine.execMseti g mi imm mq s
  | .mget g d mi => Sys2Proof.Machine.execMget g d mi s
  | .mpld g a b mw => Sys2Proof.Machine.execMpld g a b mw s
  | .mpent g a re => Sys2Proof.Machine.execMpent g a re s
  | .mstat g d => Sys2Proof.Machine.execMstat g d s
  | .ckst g d sel => Sys2Proof.Machine.execCkst g d sel s
  | .pull g d j => Sys2Proof.Machine.execPull g d j s
  | .push g d a b st hasB => Sys2Proof.Machine.execPush g d a b st hasB s
  | .retire g => Sys2Proof.Machine.execRetire g s
  | .launch g d a => Sys2Proof.Machine.execLaunch g d a s
  | .lpoll g d a => Sys2Proof.Machine.execLpoll g d a s
  | .clkdiv g mask dv => Sys2Proof.Machine.execClkdiv g mask dv s
  | .clkdivReg g a mask => Sys2Proof.Machine.execClkdivReg g a mask s
  | .trap g tn => Sys2Proof.Machine.execTrap g tn s
  | .ejrd g d sel => Sys2Proof.Machine.execEjrd g d sel s
  | .qdep g d st => Sys2Proof.Machine.execQdep g d st s
  | .brk g tn => Sys2Proof.Machine.execBrk g tn s
  | .mfpr g d pidx => Sys2Proof.Machine.execMfpr g d pidx s
  | .mtpr g a pidx => Sys2Proof.Machine.execMtpr g a pidx s
  | .xlinv g d a b psz => Sys2Proof.Machine.execXlinv g d a b psz s
  | .purge g d a => Sys2Proof.Machine.execPurge g d a s
  | .eret g a em => Sys2Proof.Machine.execEret g a em s
  | .wfe g d => Sys2Proof.Machine.execWfe g d s
  | .stest g d a => Sys2Proof.Machine.execStest g d a s
  | .hsw g a b => Sys2Proof.Machine.execHsw g a b s
  | .vadd h vd v1 v2 => Sys2Proof.Machine.execVadd h vd v1 v2 s
  | .vsub h vd v1 v2 => Sys2Proof.Machine.execVsub h vd v1 v2 s
  | .vmul h vd v1 v2 => Sys2Proof.Machine.execVmul h vd v1 v2 s
  | .vmulh h vd v1 v2 => Sys2Proof.Machine.execVmulh h vd v1 v2 s
  | .vfma h vd v1 v2 v3 => Sys2Proof.Machine.execVfma h vd v1 v2 v3 s
  | .vfms h vd v1 v2 v3 => Sys2Proof.Machine.execVfms h vd v1 v2 v3 s
  | .vfnma h vd v1 v2 v3 => Sys2Proof.Machine.execVfnma h vd v1 v2 v3 s
  | .vdiv h vd v1 v2 => Sys2Proof.Machine.execVdiv h vd v1 v2 s
  | .vsqrt h vd v1 => Sys2Proof.Machine.execVsqrt h vd v1 s
  | .vrsqrt h vd v1 => Sys2Proof.Machine.execVrsqrt h vd v1 s
  | .vrsqp h vd v1 j => Sys2Proof.Machine.execVrsqp h vd v1 j s
  | .vmin h vd v1 v2 => Sys2Proof.Machine.execVmin h vd v1 v2 s
  | .vmax h vd v1 v2 => Sys2Proof.Machine.execVmax h vd v1 v2 s
  | .vabs h vd v1 => Sys2Proof.Machine.execVabs h vd v1 s
  | .vneg h vd v1 => Sys2Proof.Machine.execVneg h vd v1 s
  | .vand h vd v1 v2 => Sys2Proof.Machine.execVand h vd v1 v2 s
  | .vor h vd v1 v2 => Sys2Proof.Machine.execVor h vd v1 v2 s
  | .vxor h vd v1 v2 => Sys2Proof.Machine.execVxor h vd v1 v2 s
  | .vnot h vd v1 => Sys2Proof.Machine.execVnot h vd v1 s
  | .vshl h vd v1 v2 => Sys2Proof.Machine.execVshl h vd v1 v2 s
  | .vshlImm h vd v1 sh => Sys2Proof.Machine.execVshlImm h vd v1 sh s
  | .vshr h vd v1 v2 => Sys2Proof.Machine.execVshr h vd v1 v2 s
  | .vshrImm h vd v1 sh => Sys2Proof.Machine.execVshrImm h vd v1 sh s
  | .vsar h vd v1 v2 => Sys2Proof.Machine.execVsar h vd v1 v2 s
  | .vsarImm h vd v1 sh => Sys2Proof.Machine.execVsarImm h vd v1 sh s
  | .vrshr h vd v1 v2 => Sys2Proof.Machine.execVrshr h vd v1 v2 s
  | .vrshrImm h vd v1 sh => Sys2Proof.Machine.execVrshrImm h vd v1 sh s
  | .vcmpeq h v1 v2 j => Sys2Proof.Machine.execVcmpeq h v1 v2 j s
  | .vcmpne h v1 v2 j => Sys2Proof.Machine.execVcmpne h v1 v2 j s
  | .vcmplt h v1 v2 j => Sys2Proof.Machine.execVcmplt h v1 v2 j s
  | .vcmple h v1 v2 j => Sys2Proof.Machine.execVcmple h v1 v2 j s
  | .vsel h vd v1 v2 j => Sys2Proof.Machine.execVsel h vd v1 v2 j s
  | .vclz h vd v1 => Sys2Proof.Machine.execVclz h vd v1 s
  | .vpopc h vd v1 => Sys2Proof.Machine.execVpopc h vd v1 s
  | .vdot4 h vd v1 v2 v3 => Sys2Proof.Machine.execVdot4 h vd v1 v2 v3 s
  | .vredsum h vd v1 => Sys2Proof.Machine.execVredsum h vd v1 s
  | .vredmax h vd v1 => Sys2Proof.Machine.execVredmax h vd v1 s
  | .vredmin h vd v1 => Sys2Proof.Machine.execVredmin h vd v1 s
  | .vcpsgn h vd v1 v2 => Sys2Proof.Machine.execVcpsgn h vd v1 v2 s
  | .vmovi h vd imm => Sys2Proof.Machine.execVmovi h vd imm s
  | .vxmov h vd v1 => Sys2Proof.Machine.execVxmov h vd v1 s
  | .vmov h vd v1 => Sys2Proof.Machine.execVmov h vd v1 s
  | .vld h vd off sk => Sys2Proof.Machine.execVld h vd off sk s
  | .vst h vd off sk => Sys2Proof.Machine.execVst h vd off sk s
  | .vlds h vd off sk st => Sys2Proof.Machine.execVlds h vd off sk st s
  | .vsts h vd off sk st => Sys2Proof.Machine.execVsts h vd off sk st s
  | .vldx h vd v2 off sk => Sys2Proof.Machine.execVldx h vd v2 off sk s
  | .vstx h vd v2 off sk => Sys2Proof.Machine.execVstx h vd v2 off sk s
  | .vldb h vd off sk => Sys2Proof.Machine.execVldb h vd off sk s
  | .vcvt h vd v1 fm hh => Sys2Proof.Machine.execVcvt h vd v1 fm hh s
  | .vquant h vd v1 v2 fm bb bt e0 => Sys2Proof.Machine.execVquant h vd v1 v2 fm bb bt e0 s
  | .vdequant h vd v1 bb hb => Sys2Proof.Machine.execVdequant h vd v1 bb hb s
  | .vperm h vd v1 v2 => Sys2Proof.Machine.execVperm h vd v1 v2 s
  | .vslide h vd v1 v2 k9 => Sys2Proof.Machine.execVslide h vd v1 v2 k9 s
  | .vbcastElem h vd v1 el => Sys2Proof.Machine.execVbcastElem h vd v1 el s
  | .vbcastScalar h vd sk => Sys2Proof.Machine.execVbcastScalar h vd sk s
  | .vzip h vd v1 v2 hb => Sys2Proof.Machine.execVzip h vd v1 v2 hb s
  | .vunzip h vd v1 v2 hb => Sys2Proof.Machine.execVunzip h vd v1 v2 hb s
  | .vpack h vd v1 v2 sg => Sys2Proof.Machine.execVpack h vd v1 v2 sg s
  | .vunpk h vd v1 hb => Sys2Proof.Machine.execVunpk h vd v1 hb s
  | .mcall t e lat acc ck ovw => Sys2Proof.Machine.execMcall t e lat acc ck ovw s
  | .lload t il lat => Sys2Proof.Machine.execLload t il lat s
  | .drain t il acc ck ovw => Sys2Proof.Machine.execDrain t il acc ck ovw s
  | .azero t acc => Sys2Proof.Machine.execAzero t acc s
  | .epicfg t il => Sys2Proof.Machine.execEpicfg t il s
  | .cksnap t il acc => Sys2Proof.Machine.execCksnap t il acc s
  | .cpy u t nst rng bnd scp be => Sys2Proof.Machine.execCpy u t nst rng bnd scp be s
  | .cpset u t nst rng scp => Sys2Proof.Machine.execCpset u t nst rng scp s
  | .bcdrv u t nst => Sys2Proof.Machine.execBcdrv u t nst s
  | .bclat u t nst rng => Sys2Proof.Machine.execBclat u t nst rng s
  | .scset b v => Sys2Proof.Machine.execScset b v s
  | .scadd b v => Sys2Proof.Machine.execScadd b v s
  | .scsub b v => Sys2Proof.Machine.execScsub b v s
  | .scpad b v => Sys2Proof.Machine.execScpad b v s
  | .sccpy b v => Sys2Proof.Machine.execSccpy b v s
  | .scmax b v => Sys2Proof.Machine.execScmax b v s
  | .scmin b v => Sys2Proof.Machine.execScmin b v s
  | .fin => Sys2Proof.Machine.execFin s
  | .fmt ta tb es => Sys2Proof.Machine.execFmt ta tb es s
  | .use l a => Sys2Proof.Machine.execUse l a s
  | .act v => Sys2Proof.Machine.execAct v s
  | .lk v => Sys2Proof.Machine.execLk v s
  | .bk v => Sys2Proof.Machine.execBk v s
  | .lkadd v => Sys2Proof.Machine.execLkadd v s
  | .bkadd v => Sys2Proof.Machine.execBkadd v s
  | .mac n => Sys2Proof.Machine.execMac n s
  | .macn n => Sys2Proof.Machine.execMacn n s
  | .zero => Sys2Proof.Machine.execZero s
  | .idle n1 => Sys2Proof.Machine.execIdle n1 s
  | .cnt v x => Sys2Proof.Machine.execCnt v x s
  | .rep x t => Sys2Proof.Machine.execRep x t s
  | .brz il q t => Sys2Proof.Machine.execBrz il q t s
  | .scaleWriteLand => Sys2Proof.Machine.execScaleWriteLand s
  | .routineComplete => Sys2Proof.Machine.execRoutineComplete s
  | .routineFault => Sys2Proof.Machine.execRoutineFault s
  | .lloadComplete => Sys2Proof.Machine.execLloadComplete s
  | .drainComplete => Sys2Proof.Machine.execDrainComplete s
  | .azeroComplete => Sys2Proof.Machine.execAzeroComplete s
  | .epicfgComplete => Sys2Proof.Machine.execEpicfgComplete s
  | .cksnapComplete => Sys2Proof.Machine.execCksnapComplete s
  | .checkpoint => Sys2Proof.Machine.execCheckpoint s
  | .safePoint => Sys2Proof.Machine.execSafePoint s
  | .switchPoint => Sys2Proof.Machine.execSwitchPoint s
  | .phaseMarker => Sys2Proof.Machine.execPhaseMarker s
  | .recordPost => Sys2Proof.Machine.execRecordPost s
  | .sfiOverrun => Sys2Proof.Machine.execSfiOverrun s
  | .requestedStop => Sys2Proof.Machine.execRequestedStop s
  | .loadDelivery => Sys2Proof.Machine.execLoadDelivery s
  | .storePerform => Sys2Proof.Machine.execStorePerform s
  | .copyBegin => Sys2Proof.Machine.execCopyBegin s
  | .copyResume => Sys2Proof.Machine.execCopyResume s
  | .slackExpire => Sys2Proof.Machine.execSlackExpire s
  | .copyPageCrossing => Sys2Proof.Machine.execCopyPageCrossing s
  | .copyComplete => Sys2Proof.Machine.execCopyComplete s
  | .broadcastBeat => Sys2Proof.Machine.execBroadcastBeat s
  | .bclatComplete => Sys2Proof.Machine.execBclatComplete s
  | .hoistSlotTake => Sys2Proof.Machine.execHoistSlotTake s
  | .hoistLand => Sys2Proof.Machine.execHoistLand s
  | .sightPoint => Sys2Proof.Machine.execSightPoint s
  | .sightRelease => Sys2Proof.Machine.execSightRelease s
  | .halyardTokenComplete => Sys2Proof.Machine.execHalyardTokenComplete s
  | .publish => Sys2Proof.Machine.execPublish s
  | .roundTableUpdate => Sys2Proof.Machine.execRoundTableUpdate s
  | .racqArrival => Sys2Proof.Machine.execRacqArrival s
  | .regionSweep => Sys2Proof.Machine.execRegionSweep s
  | .barrierArrival => Sys2Proof.Machine.execBarrierArrival s
  | .barrierViewUpdate => Sys2Proof.Machine.execBarrierViewUpdate s
  | .pginService => Sys2Proof.Machine.execPginService s
  | .slewGrantSlot => Sys2Proof.Machine.execSlewGrantSlot s
  | .rampWindow => Sys2Proof.Machine.execRampWindow s
  | .rampDown => Sys2Proof.Machine.execRampDown s
  | .hostLaunchTrigger => Sys2Proof.Machine.execHostLaunchTrigger s
  | .launchStatusWrite => Sys2Proof.Machine.execLaunchStatusWrite s
  | .launchStart => Sys2Proof.Machine.execLaunchStart s
  | .bind => Sys2Proof.Machine.execBind s
  | .initialItemAppend => Sys2Proof.Machine.execInitialItemAppend s
  | .periodBoundary => Sys2Proof.Machine.execPeriodBoundary s
  | .budgetOverrun => Sys2Proof.Machine.execBudgetOverrun s
  | .preemptionRequest => Sys2Proof.Machine.execPreemptionRequest s
  | .preemptionSaveDone => Sys2Proof.Machine.execPreemptionSaveDone s
  | .qctlWrite => Sys2Proof.Machine.execQctlWrite s
  | .qperWrite => Sys2Proof.Machine.execQperWrite s
  | .qbudWrite => Sys2Proof.Machine.execQbudWrite s
  | .ctxcWrite => Sys2Proof.Machine.execCtxcWrite s
  | .keyLoad => Sys2Proof.Machine.execKeyLoad s
  | .keyErase => Sys2Proof.Machine.execKeyErase s
  | .biasFlipToHost => Sys2Proof.Machine.execBiasFlipToHost s
  | .biasFlipToDevice => Sys2Proof.Machine.execBiasFlipToDevice s
  | .biasFlipComplete => Sys2Proof.Machine.execBiasFlipComplete s
  | .xlinvComplete => Sys2Proof.Machine.execXlinvComplete s
  | .purgeComplete => Sys2Proof.Machine.execPurgeComplete s
  | .poisonConsumed => Sys2Proof.Machine.execPoisonConsumed s
  | .selfTestComplete => Sys2Proof.Machine.execSelfTestComplete s
  | .fenceCore => Sys2Proof.Machine.execFenceCore s
  | .fenceSlice => Sys2Proof.Machine.execFenceSlice s
  | .fenceStrait => Sys2Proof.Machine.execFenceStrait s
  | .fenceDramChannel => Sys2Proof.Machine.execFenceDramChannel s
  | .opmWrite => Sys2Proof.Machine.execOpmWrite s
  | .opmdWrite => Sys2Proof.Machine.execOpmdWrite s
  | .govWrite => Sys2Proof.Machine.execGovWrite s
  | .optd1Write => Sys2Proof.Machine.execOptd1Write s
  | .slrWrite => Sys2Proof.Machine.execSlrWrite s
  | .plsWrite => Sys2Proof.Machine.execPlsWrite s
  | .optMirrorWrite => Sys2Proof.Machine.execOptMirrorWrite s
  | .railMoveStep => Sys2Proof.Machine.execRailMoveStep s
  | .controlInterval => Sys2Proof.Machine.execControlInterval s
  | .governorWindow => Sys2Proof.Machine.execGovernorWindow s
  | .thermalTrip => Sys2Proof.Machine.execThermalTrip s
  | .divisorChange => Sys2Proof.Machine.execDivisorChange s
  | .supplyLoss => Sys2Proof.Machine.execSupplyLoss s
  | .quiesceEnd => Sys2Proof.Machine.execQuiesceEnd s
  | .saveEnd => Sys2Proof.Machine.execSaveEnd s
  | .sealEnd => Sys2Proof.Machine.execSealEnd s
  | .powerGood => Sys2Proof.Machine.execPowerGood s
  | .hostConfigSpaceRead => Sys2Proof.Machine.execHostConfigSpaceRead s
  | .rds => Sys2Proof.Machine.execRds s
  | .rdo => Sys2Proof.Machine.execRdo s
  | .upg => Sys2Proof.Machine.execUpg s
  | .fwds => Sys2Proof.Machine.execFwds s
  | .fwdo => Sys2Proof.Machine.execFwdo s
  | .inv => Sys2Proof.Machine.execInv s
  | .binv => Sys2Proof.Machine.execBinv s
  | .data => Sys2Proof.Machine.execData s
  | .ack => Sys2Proof.Machine.execAck s
  | .back => Sys2Proof.Machine.execBack s
  | .backd => Sys2Proof.Machine.execBackd s
  | .fwdack => Sys2Proof.Machine.execFwdack s
  | .go => Sys2Proof.Machine.execGo s
  | .wb => Sys2Proof.Machine.execWb s
  | .ce => Sys2Proof.Machine.execCe s
  | .wback => Sys2Proof.Machine.execWback s
  | .cmp => Sys2Proof.Machine.execCmp s
  | .lineCacheEviction => Sys2Proof.Machine.execLineCacheEviction s
  | .hostMemAccess => Sys2Proof.Machine.execHostMemAccess s
  | .hostSnoop => Sys2Proof.Machine.execHostSnoop s
  | .expanderBackInvalidation => Sys2Proof.Machine.execExpanderBackInvalidation s
  | .patrolScrub => Sys2Proof.Machine.execPatrolScrub s
  | .telemetrySnapshot => Sys2Proof.Machine.execTelemetrySnapshot s
  | .telemetrySnapshotDone => Sys2Proof.Machine.execTelemetrySnapshotDone s
  | .infieldTestRequest => Sys2Proof.Machine.execInfieldTestRequest s
  | .fwProg => Sys2Proof.Machine.execFwProg s
  | .fwProgComplete => Sys2Proof.Machine.execFwProgComplete s
  | .fwCommit => Sys2Proof.Machine.execFwCommit s
  | .attestationStart => Sys2Proof.Machine.execAttestationStart s
  | .attestationReport => Sys2Proof.Machine.execAttestationReport s
  | .partitionWrite => Sys2Proof.Machine.execPartitionWrite s
  | .registerWrite => Sys2Proof.Machine.execRegisterWrite s
  | .forcedPublish => Sys2Proof.Machine.execForcedPublish s

end Sys2Proof.Machine
end

