-- ==== Sys2Proof/Machine/Perform.lean ====
section
/-! DEFINITION. An attempt of a counted operation to perform (R25, R181). -/

namespace Sys2Proof.Machine

/-- Operation id of core c performs, if it may; what a step of its own answers is not performed here. -/
def performCop (c : CoreId) (id : Nat) (s : State) : State :=
  match (s.core.get c).loads.find? (·.id == id) with
  | none => s
  | some o =>
    if o.val.isSome then s
    else match o.kind with
      | .load signed => performLoad c o signed s
      | .bounded x k r thr => performBounded c o x k r thr s
      | .amo op b e => performAmo c o op b e s
      | .rpub r => performRpub c o r s
      | .rrnd r => performRrnd c o r s
      | .barr b n _ _ => performBarr c o b n s
      | .launch a => performLaunch c o a s
      | .lpoll h => performLpoll c o h s
      | .xlinv _ _ _ old held => performXlinv c o old held s
      | .absent | .racq _ | .purge _ _ | .stest _ => s

end Sys2Proof.Machine
end

