-- ==== Sys2Proof/Machine/Issue.lean ====
section
/-! DEFINITION. The control edge of a core: what lands, the checks of a bundle, the holds, forced checkpoints, and the issue of
its slots (R8 to R11, R66 to R69, R77, R104 to R107, R230 to R239, R391 to R393). -/

namespace Sys2Proof.Machine

/-! What kind of operation a slot holds. -/

/-- Privileged operations (R78). -/
def isPrivileged (i : Instr) : Bool :=
  match i with
  | .mfpr .. | .mtpr .. | .xlinv .. | .purge .. | .eret .. | .wfe .. | .stest .. | .hsw .. => true
  | _ => false

/-- Control transfers and loop instructions (R110). -/
def isTransfer (i : Instr) : Bool :=
  match i with
  | .br .. | .jmp .. | .call .. | .callr .. | .ret .. | .loop .. | .sloop .. | .snext .. => true
  | _ => false

def isLoop (i : Instr) : Bool :=
  match i with
  | .loop .. | .sloop .. => true
  | _ => false

/-- Produced token of an operation; 0 for none (R72, R73, R75). -/
def producedTok (i : Instr) : BitVec 6 :=
  match i with
  | .hoist _ _ _ _ _ tp _ _ _ | .sight _ _ _ _ _ tp _ _ _ | .barr _ _ _ _ tp => tp
  | .mcall t .. | .lload t .. | .drain t .. | .azero t .. | .epicfg t .. | .cksnap t .. => t.tp
  | .cpy _ t .. | .cpset _ t .. | .bcdrv _ t .. | .bclat _ t .. => t.tp
  | _ => 0

/-- Operations that stand in a checkpoint bundle only (R77): those marked K, and engine operations with a token. -/
def checkpointOnly (i : Instr) : Bool :=
  match i with
  | .pgin .. | .amoadd .. | .amoand .. | .amoor .. | .amoxor .. | .amomin .. | .amomax .. | .amominn .. | .amomaxn .. |
    .amoswp .. | .amocas .. | .rpub .. | .hoist .. | .sight .. | .barr .. | .push .. | .launch .. | .cpy .. | .cpset .. |
    .bcdrv .. => true
  | _ => producedTok i != 0

/-- Guard of a scalar operation that holds or promotes its bundle. -/
def guardOf (i : Instr) : Option Guard :=
  match i with
  | .pull g .. | .retire g | .fence g .. | .trap g _ | .brk g _ => some g
  | _ => none

/-- A scalar access: guard, base register, space, offset, bytes, kind, and the bound of a load that freshness can hold. -/
def accessOf (i : Instr) : Option (Guard × BitVec 6 × BitVec 2 × BitVec 22 × Nat × Acc × Option Nat) :=
  match i with
  | .ldb g _ a _ sp off | .ldbn g _ a _ sp off => some (g, a, sp, off, 1, .rd, some 0)
  | .ldh g _ a _ sp off | .ldhn g _ a _ sp off => some (g, a, sp, off, 2, .rd, some 0)
  | .ldw g _ a _ sp off | .ldwn g _ a _ sp off => some (g, a, sp, off, 4, .rd, some 0)
  | .ldd g _ a _ sp off => some (g, a, sp, off, 8, .rd, some 0)
  | .lda g _ a _ sp _ sz off => some (g, a, sp, off, 2 ^ sz.toNat, .rd, some 0)
  | .ldk g _ a _ sp k sz off => some (g, a, sp, off, 2 ^ sz.toNat, .rd, some k.toNat)
  | .ldr g _ a sp off | .pgin g _ a sp off => some (g, a, sp, off, 1, .rd, none)
  | .stb g a _ sp off => some (g, a, sp, off, 1, .wr, none)
  | .sth g a _ sp off => some (g, a, sp, off, 2, .wr, none)
  | .stw g a _ sp off => some (g, a, sp, off, 4, .wr, none)
  | .std g a _ sp off => some (g, a, sp, off, 8, .wr, none)
  | .stl g a _ sp _ sz off => some (g, a, sp, off, 2 ^ sz.toNat, .wr, none)
  | .amoadd g _ a _ sp _ _ sz off | .amoand g _ a _ sp _ _ sz off | .amoor g _ a _ sp _ _ sz off | .amoxor g _ a _ sp _ _ sz off |
    .amomin g _ a _ sp _ _ sz off | .amomax g _ a _ sp _ _ sz off | .amominn g _ a _ sp _ _ sz off |
    .amomaxn g _ a _ sp _ _ sz off | .amoswp g _ a _ sp _ _ sz off | .amocas g _ a _ sp _ _ sz off =>
    some (g, a, sp, off, 2 ^ sz.toNat, .wr, none)
  | _ => none

/-! The bundle. -/

/-- A decoded bundle: address, next address, code words, header, and the operations of its slots. -/
structure Fetched where
  adr : W64
  nxt : W64
  words : Nat
  hdr : Header
  ops : List Instr
  deriving DecidableEq, Repr

/-- The bundle as the machine's current one, before a slot has issued. -/
def openBundle (c : CoreId) (f : Fetched) (s : State) : State :=
  let k := s.core.get c
  { s with cur := c, bun := ⟨f.adr, f.nxt, f.hdr.ckpt, f.hdr.safe, 0, k.seq, inBody k.r, none, false, false, none, none⟩ }

/-- The record that core c is about to post names the item that the core held before its bundle, and the table entry of a failed walk (R77,
R336, R358). -/
def settleRec (c : CoreId) (pre s : State) : State :=
  s.modC c fun k => { k with rec_ := k.rec_.map fun r => nameEntry pre c { r with pen := (pre.core.get c).penOf } }

/-- A trap of the bundle as a whole. -/
def bundleTrap (c : CoreId) (adr : W64) (slot : BitVec 3) (cause : Byte) (fadr dtl : W64) (s : State) : State :=
  postStop c (settleRec c s (takeTrap cause fadr dtl { s with cur := c, bun := { Bundle.init with adr := adr, slot := slot } }))

/-- Fields of an operation that alone make it illegal, whatever its guard holds (R76, R77 item 4; log entry 98): a special register
that is not listed or not written, a divisor or a privileged index out of range, ring 0, an access size or a space that the
operation does not take. -/
def encBad (s : State) (i : Instr) : Bool :=
  match i with
  | .mfsp _ _ idx => !sprListed idx
  | .mtsp _ _ idx => !sprWritten idx
  | .clkdiv _ _ dv => !divLegal dv
  | .rnew _ q _ _ => q == 0
  | .mfpr _ _ p => (prRead s 0 p.toNat).isNone
  | .mtpr _ _ p => (prWrite 0 p.toNat 0).isNone
  | .ldk _ _ _ _ sp .. | .ldr _ _ _ sp _ | .pgin _ _ _ sp _ => sp != 0
  | .hoist _ _ _ _ sp .. | .sight _ _ _ _ sp .. => sp == 3
  | .amoadd _ _ _ _ sp _ _ sz _ | .amoand _ _ _ _ sp _ _ sz _ | .amoor _ _ _ _ sp _ _ sz _ | .amoxor _ _ _ _ sp _ _ sz _ |
    .amomin _ _ _ _ sp _ _ sz _ | .amomax _ _ _ _ sp _ _ sz _ | .amominn _ _ _ _ sp _ _ sz _ | .amomaxn _ _ _ _ sp _ _ sz _ |
    .amoswp _ _ _ _ sp _ _ sz _ | .amocas _ _ _ _ sp _ _ sz _ => sp == 3 || decide (sz.toNat < 2)
  | _ => (accessOf i).any fun x => x.2.2.1 == 3

/-- What an operation is refused for at decode in core c's present state: a privileged one on a compute core (R78), a transfer or
a loop in a loop body (R110), its own fields, a token that an earlier slot of the bundle produces (R194). -/
def refusedAt (c : CoreId) (s : State) (seen : List (BitVec 6)) (i : Instr) : Bool :=
  let r := (s.core.get c).r
  let t := producedTok i
  (isPrivileged i && !isMgmt c) || (inBody r && isTransfer i) || (r.mode == .stepWait && isLoop i) || encBad s i ||
    (t != 0 && seen.contains t)

/-- The slots of an image in the order of R8: their operations, or the first slot that is refused, with its OP field. -/
def decodeSlots (c : CoreId) (s : State) : Nat → List (BitVec 6) → List SlotWord → Except (Nat × Nat) (List Instr)
  | _, _, [] => .ok []
  | n, seen, w :: r =>
    match decodeSlot w with
    | none => .error (n, slotOp w)
    | some i =>
      if refusedAt c s seen i then .error (n, slotOp w)
      else match decodeSlots c s (n + 1) (producedTok i :: seen) r with
        | .ok l => .ok (i :: l)
        | .error e => .error e

/-- The defects of items 3 and 4 of R77 in a decoded image: slot, cause, DTL. A safe point in a loop body is found with the
header (log entry 21). -/
def defect (c : CoreId) (s : State) (h : Header) (words : List SlotWord) : Except (Nat × Byte × Nat) (List Instr) :=
  if h.rsv ≠ 0 then .error (7, 0x02, 1)
  else if h.safe && inBody (s.core.get c).r then .error (7, 0x02, 3)
  else match decodeSlots c s 0 [] words with
    | .error (n, op) => .error (n, 0x03, op)
    | .ok ops => .ok ops

/-! Issue of the slots. -/

/-- Engine slots of a loop body follow the scalar slot (R104): they are squashed. -/
def engineSquash (r : Regs) (sca : SlotWord) : Bool :=
  match sca with
  | .sca w =>
    let x := unpackS w
    inBody r && x.op != 0 && decide (8 ≤ x.grd.toNat) && !(!x.gn && (r.getP x.grd).getLsbD 0)
  | _ => false

/-- One slot. -/
def issueSlot (o : Out) (n : Nat) (i : Instr) : Out :=
  match o with
  | .next s =>
    if s.bun.trap ∨ (3 ≤ n ∧ s.bun.squash) then .next s else exec i { s with bun := { s.bun with slot := BitVec.ofNat 3 n } }
  | o => o

/-- The slots in the order of R8. -/
def issueSlots (ops : List Instr) (s : State) : Out :=
  (List.zip (List.range 7) ops).foldl (fun o e => issueSlot o e.1 e.2) (.next s)

/-- Buffer entries that the vector stores of a bundle take on their own (R139): the larger of the two. -/
def soloEntries (ops : List Instr) (s : State) : Nat :=
  ([1, 2].map fun n =>
    match issueSlot (.next s) n (ops.getD n .nop) with
    | .next t => t.me.entries - s.me.entries
    | _ => 0).foldl max 0

/-- The scalar slot promotes its bundle to a checkpoint bundle (R232). -/
def scalarPromotes (i : Instr) (s : State) : Bool :=
  match i with
  | .fence g ordr _ spc => guardOk g s && (ordr.getLsbD 2 || ordr.getLsbD 3) && spc != 0
  | .trap g _ => guardOk g s
  | .brk g _ => guardOk g s && s.me.dbgEn
  | _ => false

/-! Holds (R9). -/

/-- A class of R68 that keeps the bundle waiting; true if it is of the load, store or copy class (R375). -/
def waitHold (h : Header) (k : CoreSt) : Option Bool :=
  let waits (w : BitVec 3) (n : Nat) : Bool := w != 7 && decide (w.toNat < n)
  if waits h.wl k.ldc || waits h.ws k.stc || waits h.wc k.cpc then some true
  else if waits h.wt k.til then some false
  else none

/-- Hold causes of R393, and whether the hold is a memory stall of R375. -/
abbrev HoldBy := Nat × Bool

/-- Holds that a scalar operation makes (R107, R191, R195, R204, R241). -/
def scalarHold (i : Instr) (s : State) : Option HoldBy :=
  let k := s.me
  match i with
  | .tkwait g a b c => if guardOk g s && (k.tokPending a || k.tokPending b || k.tokPending c) then some (4, false) else none
  | .rwait g q =>
    let x := k.getRing q
    if guardOk g s && x.created && !unassigned x (k.r.getRt q) && !slotFilled x (k.r.getRt q) then some (5, false) else none
  | .snext g _ =>
    if guardOk g s && k.r.mode == .stepWait && (!k.pend.isEmpty || k.ldc != 0 || k.stc != 0 || k.cpc != 0 || k.til != 0) then some (1, false)
    else none
  | .wfe g _ =>
    let y := s.isl.get (islOf s.cur)
    if guardOk g s && y.rqh == y.rqt then some (0, false) else none
  | _ =>
    match accessOf i with
    | some (g, a, sp, off, z, .rd, some b) =>
      if guardOk g s && sp == 0 then
        match checkAddr 0 sp (effAddr s a off) z .rd s with
        | .at .glob ea _ _ | .absent ea =>
          (regionOf s s.cur ea.toNat).bind fun r => if staleNow s s.cur r.index b && !r.zero then some (3, true) else none
        | _ => none
      else none
    | _ => none

/-- The translation of a scalar access misses in the core's buffer, and the page walker looks for it (R179). A page that is not
resident, or that no walk maps, is in no buffer: every access to it walks (R337), and a bundle whose walk is over is not held for
it again. -/
def walkMiss (i : Instr) (s : State) : Option XRes :=
  match accessOf i with
  | some (g, a, sp, off, z, acc, _) =>
    let va := (effAddr s a off).toNat
    if guardOk g s && sp == 0 && s.me.waitBy != 2 && va % z == 0 && decide (va < 2 ^ 54) && !noLeaf s s.cur va then
      match translate s s.cur va z acc with
      | .addr 6 => none
      | r => if (bufferedXlat s s.cur va).isSome then none else some r
    else none
  | none => none

/-- The bundle would raise a counter past its capacity, by its execution and by what its checkpoint releases (R25); true if
it is a counter of the load, store or copy class. -/
def raises (cp : Bool) (before after : CoreSt) : Option Bool :=
  let up (b n cap : Nat) : Bool := decide (0 < n) && decide (cap < b + n) && decide (cap - 1 < b)
  let st := if cp then (after.wst.filter fun t => t.sp != .pad).length else 0
  let mx := if cp then (after.wmx.filter fun o => match o.kind with | .mpld .. | .mpent .. => false | _ => true).length else 0
  if up before.ldc (after.ldc - before.ldc) 32 || up before.stc st 32 || up before.cpc (after.cpc - before.cpc) 16 then some true
  else if up before.til (after.til - before.til + mx) 16 then some false
  else none

/-- Guard of a scalar operation that counts as a load (R25): a load outside the pad, an atomic in any space (R192), or another counted
operation. -/
def countedBy (i : Instr) : Option Guard :=
  match i with
  | .rpub g .. | .racq g .. | .barr g .. | .launch g .. | .lpoll g .. | .xlinv g .. | .purge g .. | .stest g .. => some g
  | .rrnd g _ _ _ w => if w = 2 then some g else none
  | .ldr .. | .pgin .. | .stb .. | .sth .. | .stw .. | .std .. | .stl .. => none
  | _ => (accessOf i).bind fun x => if checkpointOnly i || x.2.2.1 != 1 then some x.1 else none

/-- Guard of a scalar store outside the pad (R25). -/
def storedBy (i : Instr) : Option Guard :=
  match i with
  | .stb .. | .sth .. | .stw .. | .std .. | .stl .. => (accessOf i).bind fun x => if x.2.2.1 != 1 then some x.1 else none
  | _ => none

/-- A copy command (R197). -/
def isCopy (i : Instr) : Bool :=
  match i with
  | .cpy .. | .cpset .. => true
  | _ => false

/-- A copy command of the bundle finds its unit's elastic buffer full (R303). -/
def isFull (ops : List Instr) (s : State) : Bool :=
  !s.bun.squash && (isCopy (ops.getD 4 .nop) && decide (8 ≤ s.me.cu0.buf.length) ||
    isCopy (ops.getD 5 .nop) && decide (8 ≤ s.me.cu1.buf.length))

/-- Such a hold is counted once (R303, R395). -/
def countFull (c : CoreId) (s : State) : State :=
  s.modC c fun k => if k.bufFull then k else { k.count 14 1 with bufFull := true }

/-- Counters that a bundle which traps would have raised if it had issued, so that a hold for them comes first: the test of R68 is made
before any slot acts (R25, R77, R303). The operations count by what the image shows. -/
def trapHold (cp : Bool) (ops : List Instr) (s : State) : Option HoldBy :=
  let k := s.me
  let eng := if s.bun.squash then [] else ops.drop 3
  let up (b n cap : Nat) : Bool := decide (0 < n) && decide (cap < b + n) && decide (cap - 1 < b)
  let ld := ((ops.take 1).filter fun i => (countedBy i).any fun g => guardOk g s).length
  let own := (ops.take 1).filter fun i => (storedBy i).any fun g => guardOk g s
  let st := if cp then own.length + (k.wst.filter fun t => t.sp != .pad).length else 0
  let cp' := (eng.filter fun i => match i with | .cpy .. | .cpset .. | .bcdrv .. | .bclat .. => true | _ => false).length
  let til := (ops.take 1).filter fun i => match i with | .hoist g .. | .sight g .. => guardOk g s | _ => false
  let mx := (eng.take 1).filter fun i =>
    match i with | .mcall .. | .lload .. | .drain .. | .azero .. | .epicfg .. | .cksnap .. => true | _ => false
  let wmx := k.wmx.filter fun o => match o.kind with | .mpld .. | .mpent .. => false | _ => true
  if isFull ops s || up k.ldc ld 32 || up k.stc st 32 || up k.cpc cp' 16 then some (2, true)
  else if up k.til (til.length + if cp then mx.length + wmx.length else 0) 16 then some (2, false)
  else none

/-- A copy command would be the ninth of its unit's elastic buffer (R303). -/
def ninth (before after : CoreSt) : Bool :=
  (decide (8 < after.cu0.buf.length) && decide (before.cu0.buf.length < after.cu0.buf.length)) ||
    (decide (8 < after.cu1.buf.length) && decide (before.cu1.buf.length < after.cu1.buf.length))

/-- Why the core places a checkpoint before the bundle (R232): the telemetry counter of the cause. A checkpoint bundle withholds
nothing of its own (R139, R146). -/
def forcedBy (cp : Bool) (ops : List Instr) (before after : CoreSt) (s : State) : Option Nat :=
  if !cp ∧ Config.wstMax < after.entries ∧ before.entries < after.entries then some 7
  else if !cp ∧ 16 < after.wmx.length ∧ before.wmx.length < after.wmx.length then some 8
  else match ops.headD .nop with
    | .pull g .. | .retire g => if guardOk g s && decide (8 ≤ before.pops.length) then some 9 else none
    | _ => none

/-! The cycle. -/

/-- A control cycle of core c has passed: its count of cycles, and the next edge. -/
def nextCycle (c : CoreId) (s : State) : State :=
  let k := s.core.get c
  (s.modC c fun k => { k with cyc := k.cyc + 1, since := k.since + 1 }).at (s.tick + k.div.ctl) (.edge c)

/-- Governor counts of R375 for a bound compute core. -/
def govern (c : CoreId) (f : IslandSt → IslandSt) (s : State) : State := if isMgmt c then s else s.modI (islOf c) f

/-- The bundle stays held: counters of R375, R393 and R395. -/
def held (c : CoreId) (h : HoldBy) (s : State) : State :=
  let tele : Option Nat := match h.1 with | 1 => some 1 | 2 => some 2 | 3 => some 3 | 4 => some 5 | 5 => some 6 | _ => none
  let s1 := s.modC c fun k =>
    let k1 := { k with heldFor := k.heldFor + 1, heldBy := h.1 }
    match tele with | some i => k1.count i 1 | none => k1
  nextCycle c (govern c (fun i => if h.2 then { i with govM := i.govM + 1 } else { i with govS := i.govS + 1 }) s1)

/-- A checkpoint placed before the bundle, which then issues one cycle later (R232). What it releases raises the counters of R25:
at a counter's capacity the bundle is held for that first. -/
def forceCheckpoint (c : CoreId) (tele : Nat) (s : State) : State :=
  match raises true (s.core.get c) (s.core.get c) with
  | some m => held c (2, m) s
  | none => held c (6, false) ((s.modC c fun k => { k.count tele 1 with forced := true, invReq := false }).now .checkpoint (argC c))

/-- One cycle of a fetch (0) or a page walk (2) that the bundle waits for (R66, R179): it counts as a fetch cycle, or as a
capacity hold of the access's class. -/
def waitCycle (c : CoreId) (s : State) : State :=
  let k := s.core.get c
  let s1 := s.modC c fun k => { k with wait := k.wait - 1 }
  if k.waitBy = 2 then held c (2, true) s1
  else nextCycle c (govern c (fun i => { i with govS := i.govS + 1 }) (s1.modC c fun k => { k with fetchFor := k.fetchFor + 1 }.count 4 1))

/-- The bundle waits for n cycles, this one among them. -/
def startWait (c : CoreId) (by_ n : Nat) (s : State) : State :=
  waitCycle c (s.modC c fun k => { k with wait := n, waitBy := by_ })

/-- A trap undoes the bundle whole: the core rolls back from the state before it (R77, R231). -/
def trapFrom (c : CoreId) (pre s : State) : State :=
  postStop c (settleRec c pre ((rollback c { pre with free := s.free, cur := s.cur, bun := s.bun }).modC c fun k =>
    { k.count 12 1 with run := (s.core.get c).run, rec_ := (s.core.get c).rec_ }))

/-- Poison was met by a slot, or by the fetch, of the bundle at an address: nothing of the bundle stands but the error that the read has
met (R382, R397). -/
def poisonFrom (c : CoreId) (pre s : State) (adr : W64) (slot : BitVec 3) (cause : Byte) (fadr : W64) (met : Option (Nat × Option Nat)) : State :=
  let p := { pre with free := s.free }
  let p1 := match met with | some (_, some key) => noteError (islOf c) key 1 p | _ => p
  p1.now .poisonConsumed { argC c with v := fadr, n := (met.map (·.1)).getD 0, flag := cause == 0x34, m := slot.toNat, line := adr.toNat }

/-- Loop position and address after a bundle has issued (R105, R106). -/
def Regs.step (r : Regs) (b : Bundle) : Regs :=
  let r1 := { r with pc := b.target.getD b.nxt }
  if !b.body then r1
  else if r.pos + 1 < r.bodyLen then { r1 with pos := r.pos + 1 }
  else match r.mode with
    | .modulo => { r1 with pos := r.pos + 1, adv := true }
    | _ => { r1 with pos := r.pos + 1, mode := .stepWait }

/-- A fetched bundle is marked for sampling with a free choice of one in 2^(n + 4) (R393). The mark is made when the bundle issues,
or traps and is undone; k is the core as it stood before. -/
def markSample (c : CoreId) (adr : W64) (undone : Bool) (k : CoreSt) (s : State) : State :=
  let n := natBits (s.isl.get (islOf c)).trb.toNat 13 10
  if !traceOn s c 9 then s
  else
    let (x, s1) := s.pick
    if x % 2 ^ (n + 4) ≠ 0 then s1
    else s1.modC c fun x => { x with samples := x.samples ++ [⟨k.seq, adr, k.fetchFor, k.heldFor, k.heldBy, k.cyc, undone⟩] }

/-- The device steps that follow an issued bundle, in the order in which they take effect. -/
def followUps (c : CoreId) (f : Fetched) (cp : Bool) : List (Instr × Arg) :=
  (if f.hdr.phase then [(.phaseMarker, argC c)] else []) ++ (if f.hdr.swpt then [(.switchPoint, argC c)] else []) ++
    (if cp then [(.checkpoint, argC c)] else []) ++ (if f.hdr.safe then [(.safePoint, argC c)] else [])

/-- A trap or breakpoint that stops the core after its bundle (R238, R239). Its record is posted at a later edge, once the bundle's
switch point has acted, so that RES names the next bundle (R358). -/
def stopAfter (c : CoreId) (s : State) : State :=
  match s.bun.stop with
  | none => s
  | some (cause, fadr) =>
    let dtl : W64 := if cause = 0x21 then s.me.r.phase.setWidth 64 else 0
    let r := mkRec s 1 0 cause fadr dtl 0
    traceEv c 0x04 s.bun.adr fadr (s.modC c fun k => { k with run := .stopped cause, rec_ := some r })

/-- Payload of an issue record (R392): code words, hold cycles, and in bit 40 the mark of a return (R100; log entry 82). -/
def issuePayload (f : Fetched) (heldFor : Nat) : W64 :=
  let ret := match f.ops.headD .nop with | .ret .. => 1 | _ => 0
  BitVec.ofNat 64 (f.words + heldFor % 2 ^ 32 * 2 ^ 8 + ret * 2 ^ 40)

/-- The bundle has issued. -/
def finishIssue (c : CoreId) (f : Fetched) (cp promoted : Bool) (s : State) : State :=
  let k := s.core.get c
  let s0 := if traceOn s c 8 then trace c 0x01 f.adr (issuePayload f k.heldFor) s else s
  let s1 := stopAfter c ((markSample c f.adr false k s0).modC c fun k =>
    let k1 := { k with
      r := k.r.step s.bun
      gap := if s.bun.target.isSome then 2 else 0
      seq := k.seq + 1, forced := false, heldFor := 0, heldBy := 0, bufFull := false, fetchFor := 0, waitBy := 0
      stepArm := if k.stepArm = 1 then 2 else k.stepArm }.count 0 1
    if promoted then k1.count 11 1 else k1)
  let s2 := govern c (fun i => { i with govI := i.govI + 1 }) (nextCycle c s1)
  (followUps c f cp).foldr (fun e s => s.now e.1 e.2) s2

/-- A bundle that has no defect of items 1 to 4: it is held; or it is refused for a checkpoint-only operation outside a checkpoint
bundle (R77 item 5), which the addresses of its stores can make it (R139), or a slot traps, both behind the holds; or a checkpoint is
forced before it; or it issues. Two stores that only together take more than 96 entries issue after their forced
checkpoint, and the buffer then holds them both: DESIGN CHOICE (log entry 85). -/
def tryIssue (c : CoreId) (f : Fetched) (sca : SlotWord) (s : State) : Out :=
  let pre := openBundle c f s
  let k := pre.me
  let op0 := f.ops.headD .nop
  match waitHold f.hdr k, scalarHold op0 pre with
  | some m, _ => .next (held c (1, m) s)
  | none, some h => .next (held c h s)
  | none, none =>
    let miss := walkMiss op0 pre
    let n := if miss.isSome then Config.freeNat s.free else 0
    let s1 := if miss.isSome then { s with free := s.free + 1 } else s
    match miss.filter fun _ => n != 0 with
    | some x => .next (startWait c 2 n (keepXlat c x s1))
    | none =>
      let big : Bool := !f.hdr.ckpt && !f.hdr.safe && decide (Config.wstMax < soloEntries f.ops pre)
      let flagged := f.hdr.ckpt || f.hdr.safe || big
      let cp := flagged || scalarPromotes op0 pre
      let alone := f.ops.findIdx checkpointOnly
      let act := { pre with free := s1.free, bun := { pre.bun with squash := engineSquash k.r sca } }
      let trapped (t : State) : Out :=
        match trapHold cp f.ops act with
        | some h => .next (held c h (if isFull f.ops act then countFull c s else s))
        | none => .next (nextCycle c (markSample c f.adr true k t))
      if !flagged && decide (alone < f.ops.length) then trapped (bundleTrap c f.adr (BitVec.ofNat 3 alone) 0x02 0 2 s1)
      else
        match issueSlots f.ops act with
        | .next t =>
          if t.bun.trap then
            match t.bun.stop with
            | some (cause, fadr) => trapped (poisonFrom c s t f.adr t.bun.slot cause fadr t.bun.met)
            | none => trapped (trapFrom c s t)
          else if ninth k t.me then .next (held c (2, true) (countFull c s))
          else match raises cp k t.me, (if k.forced then none else forcedBy cp f.ops k t.me pre) with
            | some m, _ => .next (held c (2, m) s)
            | none, some n => .next (forceCheckpoint c n s)
            | none, none => .next (finishIssue c f cp (cp && !(f.hdr.ckpt || f.hdr.safe)) t)
        | o => o

/-! Fetch (R65, R66). -/

/-- A fetch that fails: poison in the code (R382), or a trap of the bundle (R66). -/
def fetchFault (c : CoreId) (e : FetchErr) (s : State) : State :=
  let pc := (s.core.get c).r.pc
  nextCycle c (if e.cause = 0x35 then poisonFrom c s s pc 7 0x35 e.fadr (some (e.dtl.toNat % 2 ^ 16, none)) else bundleTrap c pc 7 e.cause e.fadr e.dtl s)

/-- The bundle at the core's pc: a fetch fault, a miss that holds it for a free time, at least a cycle where the host is asked
(R344), or its checks and its issue. -/
def fetchIssue (c : CoreId) (s : State) : Out :=
  let k := s.core.get c
  match fetchBundle c k.r.pc.toNat s with
  | .error e => .next (if codeHeld s c e.fadr.toNat then startWait c 0 1 s else fetchFault c e s)
  | .ok (img, nxt, t) =>
    let h := decodeHeader (img.extractLsb' 0 32)
    let words := imageSlots img
    let t1 := walkBody c (decodeSlot (words.headD .none)) nxt t
    let new := newLines c k.ifb t1
    if new.any fun l => codeHeld s c (64 * l.va) then .next (startWait c 0 1 s) else
    let (f, t2) := if new.isEmpty then (0, t1) else (fillCode c k.ifb t1).pick
    let n := f + (new.any fun l => hostCode s c (64 * l.va)).toNat
    if n ≠ 0 then .next (startWait c 0 n t2)
    else
      let t3 := fillCode c (t2.core.get c).ifb (fetchAhead c nxt t2)
      match defect c t3 h words with
      | .error (slot, cause, dtl) =>
        .next (nextCycle c (markSample c k.r.pc true k (bundleTrap c k.r.pc (BitVec.ofNat 3 slot) cause 0 (BitVec.ofNat 64 dtl) t3)))
      | .ok ops => tryIssue c ⟨k.r.pc, BitVec.ofNat 64 nxt, (nxt - k.r.pc.toNat) / 2, h, ops⟩ (words.headD .none) t3

/-! The edge. -/

/-- Every operation of the marked bundle has completed. -/
def sampleOver (s : State) (c : CoreId) (n : Nat) : Bool :=
  let k := s.core.get c
  let mine (q : Nat) : Bool := q / 8 == n
  let cu (x : CopyUnit) : Bool := x.buf.any (fun m => mine m.seq) || x.runs.any fun r => mine r.cmd.seq
  let mx (l : List MxOp) : Bool := l.any fun o => mine o.seq
  !(k.pend.any (fun d => mine d.seq) || k.loads.any (fun o => mine o.seq) || (k.wst ++ k.sto).any (fun t => mine t.seq) ||
    cu k.cu0 || cu k.cu1 || k.bus.any (fun b => mine b.seq) || mx k.wmx || mx k.lq || mx k.aq || mx k.dq || mx k.lrun.toList || k.scw.any (fun w => mine w.seq) ||
    (match k.arun with | .idle => false | .call r => mine r.op.seq | .azero o _ => mine o.seq) ||
    k.drun.any (fun d => mine d.1.seq) || k.tail.any (fun d => mine d.1.seq) || s.dev.hops.any fun o => o.core == c && mine o.seq)

/-- The records of the marked bundles of which everything is over (R393). -/
def postSample (c : CoreId) (s : State) : State :=
  let ended := (s.core.get c).samples.filter fun x => sampleOver s c x.num
  if ended.isEmpty then s
  else (ended.foldl (fun s x => sampleRec c x s) s).modC c fun k => { k with samples := k.samples.filter fun x => !ended.contains x }

/-- A running core at its control edge. A pending stop request or step stop holds the next bundle for this cycle (R9, R391). -/
def runEdge (c : CoreId) (s : State) : Out :=
  let k := s.core.get c
  match k.mxTrap with
  | some o =>
    .next (nextCycle c (bundleTrap c k.r.pc 7 0x15 o.badr (mstatWord k s.tick) (s.modC c fun k => { k with mxTrap := none })))
  | none =>
    match k.xlTrap with
    | some (va, l) =>
      .next (nextCycle c (bundleTrap c k.r.pc 7 0x0A va (BitVec.ofNat 64 l) (s.modC c fun k => { k with xlTrap := none })))
    | none =>
    if k.gap ≠ 0 then .next (nextCycle c (s.modC c fun k => { k with gap := k.gap - 1 }))
    else if k.dbgStop ∨ k.stepArm = 2 then .next (held c (7, false) (s.now .requestedStop (argC c)))
    else if k.wait ≠ 0 then .next (waitCycle c s)
    else if k.invReq then .next (forceCheckpoint c 10 s)
    else fetchIssue c s

/-- A core at a safe point that it leaves. A routine fault there is an event, and the save completes (R363): the operation that
faulted counts as over, with its token, and the array path goes on (log entry 99). So is an address fault of an engine, which goes on
once its page can be used (log entry 119). -/
def savingEdge (c : CoreId) (s00 : State) : State :=
  let k := s00.core.get c
  let s0 := match k.xlTrap with
    | some (va, l) =>
      sendRec (islOf c) (nameEntry s00 c (k.eventOf c 0x0A k.r.pc va (BitVec.ofNat 64 l))) (s00.modC c fun k => { k with xlTrap := none })
    | none => s00
  let s := match k.mxTrap with
    | some o => eventRec c 0x15 k.r.pc o.badr (mstatWord k s0.tick) (s0.modC c fun k =>
        { k.complete o.tok o.gen with mxTrap := none, astop := false, til := k.til - 1 })
    | none => s0
  let s1 := leaveCore c s
  if (s1.core.get c).run = .saving ∧ !s1.has (.ev .preemptionSaveDone (argC c)) then nextCycle c s1 else s1

/-- What lands at a control edge, and Advance where it is due (R10, R105, R109, R221). A bounded load whose hold has ended since the last
edge takes Rr and F as they stood; one whose hold ends with what lands takes them with it (R258). -/
def landEdge (c : CoreId) (s : State) : State :=
  let due (d : Delivery) : Bool := decide (d.ready ≤ s.tick)
  let s0 := fixThresholds c s
  let s1 := if (s0.core.get c).pend.any fun d => d.eff.isPush && due d then dispatch (landPushes c due s0) else s0
  fixThresholds c (s1.modC c fun k => (k.landAll s.tick).advance)

/-- New effective divisors reach the core at this edge: it stands at a bundle boundary, is held, or waits at a safe point. A core
that is stopped or trapped takes them at the boundary at which it resumes (R229, R378). -/
def divDue (c : CoreId) (s : State) : Bool :=
  let k := s.core.get c
  ((k.run == .running && (k.gap == 0 || k.fetchFor != 0 || k.heldBy != 0)) || k.run == .saving) && effDiv s c != k.div

/-- Put a control edge of core c, and before it a step, at the head of the agenda. -/
def redoEdge (c : CoreId) (i : Instr) (s : State) : State :=
  { s with agenda := ⟨s.tick, 0, .ev i (argC c)⟩ :: ⟨s.tick, rankOf s (.edge c), .edge c⟩ :: s.agenda }

/-- A control edge of core c. -/
def controlEdge (c : CoreId) (s0 : State) : Out :=
  let k0 := s0.core.get c
  if k0.run = .unbound ∨ k0.run = .dark then .next s0
  else
    let s1 := landEdge c s0
    if divDue c s1 then .next (redoEdge c .divisorChange s1)
    else if !k0.overrun && k0.sfi != 0 && decide (k0.sfi.toNat + 1 ≤ k0.since) then .next (redoEdge c .sfiOverrun s1)
    else
      let s := followPhase c (postSample c s1)
      match k0.run with
      | .running => runEdge c s
      | .saving => .next (savingEdge c s)
      | _ => .next (nextCycle c (postStop c s))

/-! The array sequencer (R151, R153, R158). -/

/-- The next micro-operation of core c's routine. One that would need the array while the sequencer runs ahead waits. -/
def microStep (c : CoreId) (s0 : State) : Out :=
  let s := { s0 with cur := c }
  match s.routine with
  | none => .next s0
  | some r =>
    if 1024 ≤ r.pc then .next (microFault 5 s)
    else if 2 ^ 24 ≤ r.ops then .next (microFault 6 s)
    else match s.me.ubad.find? fun e => e.1 == r.pc with
    | some e => .next (engineConsumes c true e.2.1 r.op.badr e.2.2 (s.modMe fun k => { k with arun := .idle, astop := true }))
    | none =>
    match decodeMicro (tget 0 s.me.ustore r.pc) with
      | none => .next (microFault 1 s)
      | some i =>
        if r.ahead && isArrayOp i then
          .next (s.modMe fun k => { k with arun := .call { r with ahead := false } })
        else exec i (s.modMe fun k => { k with arun := .call { r with ops := r.ops + 1 } })

end Sys2Proof.Machine
end

