-- ==== Sys2Proof/Machine/Place.lean ====
section
/-! DEFINITION. Placing an instruction where core 0 fetches next, for the first step after reset (log entry 22). -/

namespace Sys2Proof.Machine

/-- A bundle image whose only slot is the one that has words of nbits bits: scale, matrix or scalar (R63). Its wait field
tests nothing; a matrix or scalar word stands in a checkpoint bundle. -/
def slotImage (nbits w : Nat) : BitVec 384 :=
  let hdr : Nat := if nbits = 16 then 0xFFF00000 else 0xFFF80000
  let lo : Nat := if nbits = 16 then 368 else if nbits = 48 then 224 else 32
  BitVec.ofNat 384 (hdr + w % 2 ^ nbits * 2 ^ lo)

/-- Core 0 runs, with that bundle as entry 0 of its dictionary and the code word 0 at its pc; the fetch buffer holds its line
and the next. -/
def placeSlot (nbits w : Nat) (s : State) : State :=
  let s1 := s.modC 0 fun k =>
    { k with run := .running, dict := [slotImage nbits w], r := { k.r with pc := 0 }, ifb := [⟨0, 0, none⟩, ⟨1, 0, none⟩] }
  { s1 with agenda := ⟨s.tick, 0, .edge 0⟩ :: s1.agenda }

/-- A routine at micro-operation 0 that has just begun (R151). -/
def freshRoutine : Routine where
  op := ⟨0, 0, .mcall 0 0 0 false false, .replicate 8 0, 0, 0, []⟩
  pc := 0
  fa := .i8
  fb := .i8
  es := false
  lat := 0
  acc := 0
  ck := false
  lk := 0
  bk := 0
  l0 := 0
  l1 := 0
  nr := 0
  nc := 0
  ops := 0
  ctl := 0
  left := 0
  active := false
  lead := false
  ahead := false
  ran := false
  since := 0
  flags := 0

/-- Core 0's array runs a routine whose micro-operation 0 is that word. -/
def placeMicro (w : BitVec 32) (s : State) : State :=
  let s1 := s.modC 0 fun k => { k with ustore := [(0, w)], arun := .call freshRoutine }
  { s1 with agenda := ⟨s.tick, 0, .micro 0⟩ :: s1.agenda }

end Sys2Proof.Machine
end

