-- ==== Sys2Proof/Machine/Step.lean ====
section
/-! DEFINITION. One step of the machine: the first thing on the agenda happens. -/

namespace Sys2Proof.Machine

/-- What an agenda entry does. -/
def runDue (d : Due) (s : State) : Host.Outcome State Fault Refusal :=
  match d with
  | .edge c => controlEdge c s
  | .mcyc c => .next (matrixCycle c s)
  | .array c => .next (arrayPhase c s)
  | .micro c => microStep c s
  | .perform c id => .next (performCop c id s)
  | .piece c u => .next (pieceStep c u s)
  | .tile id => .next (tileStep id s)
  | .ev i a => exec i { s with arg := a }

/-- A step: time moves to the first entry of the agenda, and it happens. With nothing due the device idles; after the hold-up
sequence the supply is gone (R368). -/
def step (s : State) : Host.Outcome State Fault Refusal :=
  match s.agenda with
  | [] => if s.dev.hold = .done then .fault .supplyGone else .next s
  | e :: rest => runDue e.due { s with agenda := rest, tick := max s.tick e.at_ }

/-- The state in which the next step runs the instruction with those bits (log entry 22): a microword in the microprogram
store of core 0 with a routine at it, any other word in the one bundle of core 0's dictionary, which is fetched next. -/
def State.withFetchWord (s : State) (nbits w : Nat) : State :=
  if nbits = 32 then placeMicro (BitVec.ofNat 32 w) s else placeSlot nbits w s

end Sys2Proof.Machine
end

