-- ==== Sys2Proof/Safety.lean ====
section
/-! DEFINITION. What counts as a safe run, in the terms that claims use. -/

namespace Sys2Proof.Machine

/-- Storage is in its canonical form. -/
def State.MemOk (s : State) : Prop := Memory.wf s.mem = true

/-- s0 and p0 of a register set hold their fixed values (R13). -/
def Regs.Fixed (r : Regs) : Prop := r.getS 0 = 0 ∧ r.getP 0 = BitVec.allOnes 64

/-- A step completes: it answers a next state. -/
def Completes (o : Host.Outcome State Fault Refusal) : Prop := ∃ t, o = .next t

/-- Guard of a scalar operation; none for an operation of another slot, and for a nop (R76). -/
def scalarGuard (i : Instr) : Option Guard :=
  match i with
  | .add g .. | .sub g .. | .mul g .. | .mulh g .. | .mulhn g .. | .div g .. | .divn g .. | .rem g .. | .remn g .. |
    .addi g .. | .muli g .. | .and g .. | .or g .. | .xor g .. | .andn g .. | .orn g .. | .xnor g .. | .andi g .. |
    .ori g .. | .xori g .. | .shl g .. | .shr g .. | .sar g .. | .rol g .. | .ror g .. | .shli g .. | .shri g .. |
    .sari g .. | .min g .. | .max g .. | .minn g .. | .maxn g .. | .abs g .. | .neg g .. | .clz g .. | .ctz g .. |
    .popc g .. | .bswap g .. | .bexs g .. | .bexz g .. | .bins g .. | .sel g .. | .li g .. | .lih g .. | .mov g .. |
    .adds g .. | .subs g .. | .sext g .. | .zext g .. | .cmpeq g .. | .cmpne g .. | .cmplt g .. | .cmple g .. |
    .cmpltn g .. | .cmplen g .. | .cmpeqi g .. | .cmplti g .. | .pand g .. | .por g .. | .pxor g .. | .pandn g .. |
    .pnot g .. | .pmov g .. | .pset g .. | .pget g .. | .pcnt g .. | .br g .. | .jmp g .. | .call g .. | .callr g .. |
    .ret g .. | .loop g .. | .sloop g .. | .snext g .. | .mfsp g .. | .mtsp g .. | .ldb g .. | .ldbn g .. | .ldh g .. |
    .ldhn g .. | .ldw g .. | .ldwn g .. | .ldd g .. | .stb g .. | .sth g .. | .stw g .. | .std g .. | .ldr g .. |
    .ldk g .. | .lda g .. | .stl g .. | .pgin g .. | .amoadd g .. | .amoand g .. | .amoor g .. | .amoxor g .. |
    .amomin g .. | .amomax g .. | .amominn g .. | .amomaxn g .. | .amoswp g .. | .amocas g .. | .fence g .. |
    .rpub g .. | .radv g .. | .racq g .. | .rrnd g .. | .hoist g .. | .sight g .. | .hrnd g .. | .barr g .. |
    .bwait g .. | .bgen g .. | .tkwait g .. | .tkpoll g .. | .rwait g .. | .rrel g .. | .rnew g .. | .rstat g .. |
    .nsw g .. | .ngw g .. | .mset g .. | .mseti g .. | .mget g .. | .mpld g .. | .mpent g .. | .mstat g .. |
    .ckst g .. | .pull g .. | .push g .. | .retire g .. | .launch g .. | .lpoll g .. | .clkdiv g .. | .clkdivReg g .. |
    .trap g .. | .ejrd g .. | .qdep g .. | .brk g .. | .mfpr g .. | .mtpr g .. | .xlinv g .. | .purge g .. |
    .eret g .. | .wfe g .. | .stest g .. | .hsw g .. => some g
  | _ => none

/-- Scalar operations that only compute: their whole effect is the deliveries of their results. -/
def computesOnly (i : Instr) : Bool :=
  match i with
  | .add .. | .sub .. | .mul .. | .mulh .. | .mulhn .. | .div .. | .divn .. | .rem .. | .remn .. | .addi .. |
    .muli .. | .and .. | .or .. | .xor .. | .andn .. | .orn .. | .xnor .. | .andi .. | .ori .. | .xori .. | .shl .. |
    .shr .. | .sar .. | .rol .. | .ror .. | .shli .. | .shri .. | .sari .. | .min .. | .max .. | .minn .. | .maxn .. |
    .abs .. | .neg .. | .clz .. | .ctz .. | .popc .. | .bswap .. | .bexs .. | .bexz .. | .bins .. | .sel .. | .li .. |
    .lih .. | .mov .. | .adds .. | .subs .. | .sext .. | .zext .. | .cmpeq .. | .cmpne .. | .cmplt .. | .cmple .. |
    .cmpltn .. | .cmplen .. | .cmpeqi .. | .cmplti .. | .pand .. | .por .. | .pxor .. | .pandn .. | .pnot .. |
    .pmov .. | .pset .. | .pget .. | .pcnt .. | .bwait .. | .bgen .. | .tkpoll .. | .nsw .. | .ngw .. | .mset .. |
    .mseti .. | .mget .. | .mstat .. | .ckst .. => true
  | _ => false

/-- Operations of the vector slots. -/
def isVector (i : Instr) : Bool :=
  match i with
  | .vadd .. | .vsub .. | .vmul .. | .vmulh .. | .vfma .. | .vfms .. | .vfnma .. | .vdiv .. | .vsqrt .. | .vrsqrt .. |
    .vrsqp .. | .vmin .. | .vmax .. | .vabs .. | .vneg .. | .vand .. | .vor .. | .vxor .. | .vnot .. | .vshl .. |
    .vshlImm .. | .vshr .. | .vshrImm .. | .vsar .. | .vsarImm .. | .vrshr .. | .vrshrImm .. | .vcmpeq .. |
    .vcmpne .. | .vcmplt .. | .vcmple .. | .vsel .. | .vclz .. | .vpopc .. | .vdot4 .. | .vredsum .. | .vredmax .. |
    .vredmin .. | .vcpsgn .. | .vmovi .. | .vxmov .. | .vmov .. | .vld .. | .vst .. | .vlds .. | .vsts .. | .vldx .. |
    .vstx .. | .vldb .. | .vcvt .. | .vquant .. | .vdequant .. | .vperm .. | .vslide .. | .vbcastElem .. |
    .vbcastScalar .. | .vzip .. | .vunzip .. | .vpack .. | .vunpk .. => true
  | _ => false

/-- Operations of the slots that write no byte of storage when they issue: what they store is withheld until a checkpoint. A copy
to global memory marks its page written, and a purge gives up the contents of a core. -/
def keepsStorage (i : Instr) : Bool :=
  match i with
  | .nop | .add .. | .sub .. | .mul .. | .mulh .. | .mulhn .. | .div .. | .divn .. | .rem .. | .remn .. | .addi .. |
    .muli .. | .and .. | .or .. | .xor .. | .andn .. | .orn .. | .xnor .. | .andi .. | .ori .. | .xori .. | .shl .. |
    .shr .. | .sar .. | .rol .. | .ror .. | .shli .. | .shri .. | .sari .. | .min .. | .max .. | .minn .. | .maxn .. |
    .abs .. | .neg .. | .clz .. | .ctz .. | .popc .. | .bswap .. | .bexs .. | .bexz .. | .bins .. | .sel .. | .li .. |
    .lih .. | .mov .. | .adds .. | .subs .. | .sext .. | .zext .. | .cmpeq .. | .cmpne .. | .cmplt .. | .cmple .. |
    .cmpltn .. | .cmplen .. | .cmpeqi .. | .cmplti .. | .pand .. | .por .. | .pxor .. | .pandn .. | .pnot .. |
    .pmov .. | .pset .. | .pget .. | .pcnt .. | .br .. | .jmp .. | .call .. | .callr .. | .ret .. | .loop .. |
    .sloop .. | .snext .. | .mfsp .. | .mtsp .. | .ldb .. | .ldbn .. | .ldh .. | .ldhn .. | .ldw .. | .ldwn .. |
    .ldd .. | .stb .. | .sth .. | .stw .. | .std .. | .ldr .. | .ldk .. | .lda .. | .stl .. | .pgin .. | .amoadd .. |
    .amoand .. | .amoor .. | .amoxor .. | .amomin .. | .amomax .. | .amominn .. | .amomaxn .. | .amoswp .. |
    .amocas .. | .fence .. | .rpub .. | .radv .. | .racq .. | .rrnd .. | .hoist .. | .sight .. | .hrnd .. | .barr .. |
    .bwait .. | .bgen .. | .tkwait .. | .tkpoll .. | .rwait .. | .rrel .. | .rnew .. | .rstat .. | .nsw .. | .ngw .. |
    .mset .. | .mseti .. | .mget .. | .mpld .. | .mpent .. | .mstat .. | .ckst .. | .pull .. | .push .. | .retire .. |
    .launch .. | .lpoll .. | .clkdiv .. | .clkdivReg .. | .trap .. | .ejrd .. | .qdep .. | .brk .. | .mfpr .. |
    .mtpr .. | .xlinv .. | .wfe .. | .stest .. | .hsw .. | .vadd .. | .vsub .. | .vmul .. | .vmulh .. | .vfma .. |
    .vfms .. | .vfnma .. | .vdiv .. | .vsqrt .. | .vrsqrt .. | .vrsqp .. | .vmin .. | .vmax .. | .vabs .. | .vneg .. |
    .vand .. | .vor .. | .vxor .. | .vnot .. | .vshl .. | .vshlImm .. | .vshr .. | .vshrImm .. | .vsar .. |
    .vsarImm .. | .vrshr .. | .vrshrImm .. | .vcmpeq .. | .vcmpne .. | .vcmplt .. | .vcmple .. | .vsel .. | .vclz .. |
    .vpopc .. | .vdot4 .. | .vredsum .. | .vredmax .. | .vredmin .. | .vcpsgn .. | .vmovi .. | .vxmov .. | .vmov .. |
    .vld .. | .vst .. | .vlds .. | .vsts .. | .vldx .. | .vstx .. | .vldb .. | .vcvt .. | .vquant .. | .vdequant .. |
    .vperm .. | .vslide .. | .vbcastElem .. | .vbcastScalar .. | .vzip .. | .vunzip .. | .vpack .. | .vunpk .. |
    .mcall .. | .lload .. | .drain .. | .azero .. | .epicfg .. | .cksnap .. | .bcdrv .. | .bclat .. | .scset .. |
    .scadd .. | .scsub .. | .scpad .. | .sccpy .. | .scmax .. | .scmin .. => true
  | _ => false

/-- Privileged registers of an island that hold its control of the cores: RQB, KEYW, SHQ, OPMD, GOV, LIM, SLR and OPTI
(R345, R343, R357, R371 to R380). -/
def IslandSt.control (i : IslandSt) : W64 × BitVec 512 × W64 × BitVec 2 × W64 × W64 × W64 × BitVec 10 :=
  (i.rqb, i.keyw, i.shq, i.opmd, i.gov, i.lim, i.slr, i.opti)

/-- The fence masks of an island (R389). -/
def IslandSt.fences (i : IslandSt) : BitVec 32 × BitVec 32 × BitVec 4 × BitVec 16 := (i.fcore, i.fslice, i.fstrait, i.fdram)

end Sys2Proof.Machine
end

