-- ==== Sys2Proof/WellFormed.lean ====
section
/-! DEFINITION. Which terms of the instruction type an encoding reaches. A device step has no encoding and is well formed
whatever its operands are; an encoded row is well formed when the decoder's own acceptance test holds of it. -/

namespace Sys2Proof

/-- Type, modifier and value limits of R116 to R137 that the decoder tests (R77 item 4), and the value field of the
micro-operations (R152). -/
def WellFormed (i : Instr) : Bool := accepted i

end Sys2Proof
end

