-- ==== Sys2Proof/Certificates/Slice0/Obligations.lean ====
section
/-! DEFINITION. The statements for the provers. A statement about the issue of an operation speaks of exec at a state that is about to
issue it; one about a device step takes its operands from `arg`. -/

open Sys2Proof Sys2Proof.Machine

/-- Words written out from the spec's tables: `add s5, s6, s7` and `nop` (R70, R81, R88), `br` (R100), `loop s7, 3, 3`, which R265
prints (R102), `ldw` (R178, R180), `clkdiv vec+mtx, 6` (R228), `vadd.f32 va3, va1, va2` and `vxmov` (R71, R117, R127), a scale slot
(R74, R163) and two microwords (R152, R153). Every reserved operation code of every slot is refused, and of the microwords (R78 to
R81, R153). -/
def Obligations.SpecWordsDecode : Prop :=
  (decodeTableWord 64 0x011461C000000000 = some (.add ⟨0, false⟩ 5 6 7) ∧
   decodeTableWord 64 0 = some .nop ∧
   decodeTableWord 64 0xC500000000000066 = some (.clkdiv ⟨0, false⟩ 6 6) ∧
   decodeSlot (.sca 0x5000000BFFFFFFEE) = some (.br ⟨2, true⟩ (BitVec.ofInt 33 (-18))) ∧
   decodeSlot (.sca 0x5500700000000203) = some (.loop ⟨0, false⟩ 7 3 2) ∧
   decodeSlot (.sca 0x641440C000000010) = some (.ldw ⟨0, false⟩ 5 4 3 0 16) ∧
   decodeSlot (.vec .A 0x0118440060000000) = some (.vadd ⟨.A, 0, .f32, false, .rne⟩ 3 1 2) ∧
   decodeSlot (.vec .A 0x2511000060000000) = some (.vxmov ⟨.A, 0, .f32, false, .rne⟩ 2 4) ∧
   decodeSlot (.scl 0x1203) = some (.scset 2 3) ∧
   decodeMicro 0x80000008 = some (.mac 8) ∧
   decodeMicro 0 = some .fin) ∧
  (∀ w : W64,
    let op := (w.extractLsb' 56 8).toNat
    ((0x32 ≤ op ∧ op ≤ 0x3F) ∨ (0x5B ≤ op ∧ op ≤ 0x5F) ∨ (0x8D ≤ op ∧ op ≤ 0x9F) ∨ (0xA7 ≤ op ∧ op ≤ 0xBF) ∨ (0xCA ≤ op ∧ op ≤ 0xCF) ∨
      0xD8 ≤ op → decodeSlot (.sca w) = none) ∧
    ((0x27 ≤ op ∧ op ≤ 0x7F) ∨ (0x87 ≤ op ∧ op ≤ 0xBF) ∨ 0xCA ≤ op → ∀ cl, decodeSlot (.vec cl w) = none)) ∧
  (∀ w : BitVec 48, (7 ≤ (w.extractLsb' 42 6).toNat → decodeSlot (.mtx w) = none) ∧
    (5 ≤ (w.extractLsb' 42 6).toNat → ∀ u, decodeSlot (.cpy u w) = none)) ∧
  (∀ w : BitVec 16, 8 ≤ (w.extractLsb' 12 4).toNat → decodeSlot (.scl w) = none) ∧
  (∀ w : BitVec 32, (w.extractLsb' 28 4).toNat = 15 → decodeMicro w = none)

/-- Decoding what the encoder makes of a well-formed instruction gives it back, for every encoded instruction of the table and every
operand (R70 to R75, R152). -/
def Obligations.DecodeOfEncode : Prop :=
  ∀ i : Instr, WellFormed i = true → encode i ≠ .none → decodeSlot (encode i) = some i

/-- Reset (R12, R13, R14): no core runs, s0 reads 0 and p0 all ones, and every divisor of every core is 4; that storage lists
nothing is the model's choice (log entry 4), and so is the agenda, which power-good heads (R317; log entry 2). The values of the
registers for which the spec gives none are the model's choice too and are not stated here (log entry 5). -/
def Obligations.ResetState : Prop :=
  let s := State.reset
  s.MemOk ∧ s.mem = [] ∧ s.tick = 0 ∧ s.dev.hold = .run ∧ s.dev.pool = [] ∧
  (∀ c : CoreId, (s.core.get c).run = .unbound ∧ (s.core.get c).r.getS 0 = 0 ∧ (s.core.get c).r.getP 0 = 0xFFFFFFFFFFFFFFFF ∧
    (s.core.get c).div = ⟨4, 4, 4, 4⟩ ∧ (s.core.get c).r.req = ⟨4, 4, 4, 4⟩ ∧ (s.core.get c).r.mode = .idle) ∧
  (∀ y : Isl, (s.isl.get y).opmd = 0 ∧ (s.isl.get y).fences = (0, 0, 0, 0)) ∧
  ∃ a rest, s.agenda = ⟨0, 0, .ev .powerGood a⟩ :: rest

/-- Every step keeps the canonical form of storage: keys rise, and no byte that is listed is 0. -/
def Obligations.StepKeepsMemoryCanonical : Prop :=
  ∀ s t : State, s.MemOk → step s = .next t → t.MemOk

/-- A step runs the decoded instruction. What is due is an entry of the agenda, which is the model's form of time (log entry 2). A
device step that is due is made with its operands. A microword at the routine's address is decoded and executed. At a control edge,
bounded loads whose hold has ended take Rr and F, what is due lands, and a running core that nothing stops or holds fetches; a
bundle whose lines are in the buffer, that shows no defect and that nothing holds issues its slots in order, each by exec, as the
fetch runs ahead (log entry 93); and the bundle's address moves on to the next one or to the target of a transfer, with the next
edge one control cycle later and two more without issue after a transfer (R8, R9, R66, R77, R101, R151). -/
def Obligations.StepRunsDecodedInstruction : Prop :=
  (∀ (s : State) (t r : Nat) (i : Instr) (a : Arg) (rest : List Entry), s.agenda = ⟨t, r, .ev i a⟩ :: rest →
    step s = exec i { s with agenda := rest, tick := max s.tick t, arg := a }) ∧
  (∀ (s : State) (t r : Nat) (c : CoreId) (rest : List Entry) (q : Routine) (i : Instr),
    s.agenda = ⟨t, r, .micro c⟩ :: rest → (s.core.get c).arun = .call q → q.pc < 1024 → q.ops < 2 ^ 24 →
    decodeMicro (tget 0 (s.core.get c).ustore q.pc) = some i → q.ahead = false →
    (s.core.get c).ubad.find? (fun e => e.1 == q.pc) = none →
    step s = exec i (({ s with agenda := rest, tick := max s.tick t, cur := c } : State).modMe
      fun k => { k with arun := .call { q with ops := q.ops + 1 } })) ∧
  (∀ (s : State) (t r : Nat) (c : CoreId) (rest : List Entry), s.agenda = ⟨t, r, .edge c⟩ :: rest →
    let s0 : State := { s with agenda := rest, tick := max s.tick t }
    let s1 := landEdge c s0
    let s2 := followPhase c (postSample c s1)
    let k := s2.core.get c
    ((∀ x ∈ (s.core.get c).pend, x.eff.isPush = true → s0.tick < x.ready) →
      s1 = fixThresholds c ((fixThresholds c s0).modC c fun k => (k.landAll s0.tick).advance)) ∧
    ((s1.core.get c).samples = [] → (s1.core.get c).launch = none → s2 = s1) ∧
    ((s.core.get c).run = .running → (s.core.get c).sfi = 0 → effDiv s1 c = (s1.core.get c).div → k.mxTrap = none → k.xlTrap = none → k.gap = 0 →
      k.dbgStop = false → k.stepArm ≠ 2 → k.wait = 0 → k.invReq = false → step s = fetchIssue c s2)) ∧
  (∀ (s u : State) (c : CoreId) (img : BitVec 384) (nxt : Nat) (ops : List Instr),
    let k := s.core.get c
    let h := decodeHeader (img.extractLsb' 0 32)
    let sl := imageSlots img
    let f : Fetched := ⟨k.r.pc, BitVec.ofNat 64 nxt, (nxt - k.r.pc.toNat) / 2, h, ops⟩
    let u1 := walkBody c (decodeSlot (sl.headD .none)) nxt u
    let u2 := fillCode c (u1.core.get c).ifb (fetchAhead c nxt u1)
    let pre := openBundle c f u2
    let act := { pre with bun := { pre.bun with squash := engineSquash pre.me.r (sl.headD .none) } }
    let op := ops.headD .nop
    let prom := scalarPromotes op pre
    let big : Bool := !h.ckpt && !h.safe && decide (Config.wstMax < soloEntries ops pre)
    let cp := (h.ckpt || h.safe || big) || prom
    fetchBundle c k.r.pc.toNat s = .ok (img, nxt, u) → newLines c k.ifb u1 = [] → defect c u2 h sl = .ok ops →
      ((h.ckpt || h.safe || big) = true ∨ ∀ i ∈ ops, checkpointOnly i = false) →
      waitHold h pre.me = none → scalarHold op pre = none → walkMiss op pre = none →
      ∀ t, issueSlots ops act = .next t → t.bun.trap = false → ninth pre.me t.me = false → raises cp pre.me t.me = none →
        (pre.me.forced = true ∨ forcedBy cp ops pre.me t.me pre = none) →
      fetchIssue c s = .next (finishIssue c f cp (cp && !(h.ckpt || h.safe)) t)) ∧
  (∀ (s : State) (i : Instr) (n : Nat), s.bun.trap = false → (n < 3 ∨ s.bun.squash = false) →
    issueSlot (.next s) n i = exec i { s with bun := { s.bun with slot := BitVec.ofNat 3 n } }) ∧
  (∀ (s : State) (i : Instr), s.bun.trap = false → issueSlots [i] s = exec i { s with bun := { s.bun with slot := 0 } }) ∧
  (∀ (s : State) (l : List Instr) (i : Instr), l.length < 7 →
    issueSlots (l ++ [i]) s = issueSlot (issueSlots l s) l.length i) ∧
  (∀ s : State, issueSlots [] s = .next s) ∧
  ∀ (s : State) (c : CoreId) (f : Fetched) (cp p : Bool), s.bun.stop = none → s.bun.body = false → traceOn s c 8 = false →
    traceOn s c 9 = false →
    let t := finishIssue c f cp p s
    (t.core.get c).r = { (s.core.get c).r with pc := s.bun.target.getD s.bun.nxt } ∧
    (t.core.get c).gap = (if s.bun.target.isSome then 2 else 0) ∧ (t.core.get c).pend = (s.core.get c).pend ∧
    t.has (.edge c) = true ∧ t.mem = s.mem

/-- No instruction faults or is refused: each answers a next state. The machine stops in one case: nothing is due any more and the
hold-up sequence has ended (R368). -/
def Obligations.ExecNeverStops : Prop :=
  (∀ (i : Instr) (s : State), Completes (exec i s)) ∧
  ∀ s : State, (s.agenda = [] → s.dev.hold = .done → step s = .fault .supplyGone) ∧
    (¬ (s.agenda = [] ∧ s.dev.hold = .done) → Completes (step s))

/-- A scalar operation whose guard is false has no effect (R76); a transfer in a loop body, a privileged operation of a compute core
and an operation whose fields alone make it illegal are refused as their bundle is decoded, before any guard is read (R77, R110,
R241). Which fields alone make an operation illegal is log entry 98. -/
def Obligations.FalseGuardDoesNothing : Prop :=
  (∀ (i : Instr) (g : Guard) (s : State), scalarGuard i = some g → guardOk g s = false →
    (isTransfer i = true → s.me.r.mode = .idle) → (isPrivileged i = true → isMgmt s.cur = true) → encBad s i = false → exec i s = .next s) ∧
  ∀ (c : CoreId) (s : State) (h : Header) (w : SlotWord) (rest : List SlotWord) (i : Instr), decodeSlot w = some i →
    (inBody (s.core.get c).r = true ∧ isTransfer i = true) ∨ (isPrivileged i = true ∧ isMgmt c = false) ∨ encBad s i = true →
    h.rsv = 0 → (h.safe = true → inBody (s.core.get c).r = false) → defect c s h (w :: rest) = .error (0, 0x03, slotOp w)

/-- Taking a trap (R231, R358): the core stands at its checkpoint, with the deliveries that the checkpoint covers and no others;
withheld stores and matrix operations are gone, uncommitted pulls have given their items back to the head of the queue, and the
record holds cause, bundle, slot, FADR, DTL and the resume address. No byte of storage, no other core and no island changes. That
the registers are the checkpoint's in the trap's own step is log entry 25. -/
def Obligations.TakingATrap : Prop :=
  ∀ (cause : Byte) (f d : W64) (s : State),
    let t := takeTrap cause f d s
    let k := s.me
    t.me.r = k.ck ∧ t.me.pend = k.pend.filter (fun x => x.seq ≤ k.ckSeq) ∧ t.me.loads = k.loads.filter (fun x => x.seq ≤ k.ckSeq) ∧
    t.me.sto = k.sto ∧ t.me.wst = [] ∧ t.me.wmx = [] ∧ t.me.pops = [] ∧ t.me.run = .trapped cause ∧
    (∃ r, t.me.rec_ = some r ∧ r.kind = 2 ∧ r.cause = cause ∧ r.badr = s.bun.adr ∧ r.slot = s.bun.slot ∧ r.fadr = f ∧ r.dtl = d ∧
      r.res = k.ck.pc ∧ r.ctx = k.ctx ∧ r.core = coreField s.cur ∧ r.cyc = BitVec.ofNat 64 k.cyc) ∧
    (∀ x, s.myStage k.stg.toNat = some x →
      (t.myStage k.stg.toNat).map (·.q) = some ((k.pops.filter (·.isPull)).map (·.item) ++ x.q)) ∧
    t.bun.trap = true ∧ t.mem = s.mem ∧ t.isl = s.isl ∧ t.agenda = s.agenda ∧ t.tick = s.tick ∧
    ∀ c, c ≠ s.cur → t.core.get c = s.core.get c

/-- Deliveries (R7, R10, R11, R13, R47). A result of latency n is ready n control cycles after its bundle issued; what is ready at
an edge lands, in issue order, a result's flags after the rest, and what is not ready stays; so the last of the results for one
register remains. A landing result changes the register that it names and no other, and one for s0 or p0 changes nothing; radv adds
1 to the round of its region (R190), and a new ring has its S and T, nothing written or released, generation 0 and Rt 0 (R202,
R205). -/
def Obligations.LandingOfDeliveries : Prop :=
  (∀ (n : Nat) (e : Eff) (s : State), ∃ x ∈ (deliver n e s).me.pend, x.eff = e ∧ x.ready = s.tick + n * s.me.div.ctl ∧
    x.seq = s.order ∧ (∀ y, y ∈ (deliver n e s).me.pend ↔ y = x ∨ y ∈ s.me.pend) ∧ (deliver n e s).mem = s.mem ∧
    (deliver n e s).me = { s.me with pend := (deliver n e s).me.pend } ∧
    ∀ c, c ≠ s.cur → (deliver n e s).core.get c = s.core.get c) ∧
  (∀ (k : CoreSt) (t : Nat), (k.landAll t).pend = k.pend.filter (fun x => t < x.ready) ∧
    (∀ x, k.pend = [x] → x.ready ≤ t → (k.landAll t).r = k.r.land x.eff) ∧
    (∀ x y, k.pend = [x, y] → x.ready ≤ t → y.ready ≤ t → (∀ b, x.eff ≠ .flags b) → (k.landAll t).r = (k.r.land x.eff).land y.eff) ∧
    ((∀ x ∈ k.pend, t < x.ready) → (k.landAll t).r = k.r) ∧
    (let due := k.pend.filter fun x => x.ready ≤ t
     let ord := due.filter (fun x => !x.eff.isFlags) ++ due.filter (·.eff.isFlags)
     (k.landAll t).r = ord.foldl (fun r x => r.land x.eff) k.r ∧
       (k.landAll t).ck = (ord.filter fun x => x.seq ≤ k.ckSeq).foldl (fun r x => r.land x.eff) k.ck) ∧
    (∀ l x m d v, k.pend = l ++ x :: m → x.ready ≤ t → x.eff = .s d v → d ≠ 0 → (∀ y ∈ m, y.ready ≤ t → ∀ u, y.eff ≠ .s d u) →
      (k.landAll t).r.getS d = v) ∧
    (∀ l x m n sl tg, k.pend = l ++ x :: m → x.ready ≤ t → x.eff = .ring n sl tg →
      (∀ y ∈ m, y.ready ≤ t → ∀ a b, y.eff ≠ .ring n a b) →
      let g := (k.landAll t).getRing n
      g.created = true ∧ g.slots = sl ∧ g.target = tg ∧ g.w = 0 ∧ g.rc = 0 ∧ g.arrived = [] ∧ g.zf = [] ∧ g.users = 0 ∧
        (k.landAll t).r.getRt n = 0 ∧ (ringWord g 0).extractLsb' 32 32 = 0#32) ∧
    (∀ n, (∀ x ∈ k.pend, x.ready ≤ t → ∀ sl tg, x.eff ≠ .ring n sl tg) →
      (k.landAll t).getRing n = k.getRing n ∧ (k.landAll t).r.getRt n = k.r.getRt n)) ∧
  ∀ r : Regs,
    (∀ d v, r.land (.s d v) = { r with s := (r.land (.s d v)).s } ∧
      ∀ i, (r.land (.s d v)).getS i = if i = d ∧ d ≠ 0 then v else r.getS i) ∧
    (∀ d v m, r.land (.p d v m) = { r with p := (r.land (.p d v m)).p } ∧
      ∀ i, (r.land (.p d v m)).rawP i = if i = d ∧ d ≠ 0 then v &&& m ||| r.rawP i &&& ~~~m else r.rawP i) ∧
    (∀ d v m, r.land (.m d v m) = { r with m := (r.land (.m d v m)).m } ∧
      ∀ i, (r.land (.m d v m)).getM i = if i = d then v &&& m ||| r.getM i &&& ~~~m else r.getM i) ∧
    (∀ b, r.land (.flags b) = { r with fst := r.fst ||| b } ∧ r.land (.fst b) = { r with fst := b }) ∧
    (∀ v p, r.land (.rot v p) = { r with rotV := v, rotP := p }) ∧
    (∀ v, r.land (.lct v) = { r with lct := v } ∧ r.land (.lsc v) = { r with lsc := v }) ∧
    (∀ w p, r.land (.item w p) = { r with wid := w, pen := p }) ∧
    (∀ n, r.land (.radv n) = { r with rr := (r.land (.radv n)).rr } ∧
      ∀ m, tget 0 (r.land (.radv n)).rr m = if m = n then tget 0 r.rr m + 1 else tget 0 r.rr m) ∧
    (∀ k w v, r.land (.nest k w v) = { r with n := (r.land (.nest k w v)).n }) ∧
    (∀ n v, r.land (.racq n v) = { r with rr := tmod 0 r.rr n (roundMax v), fl := tmod 0 r.fl n (roundMax v) })

/-- Frames. An operation that only computes changes the core's list of deliveries and nothing else. A vector operation that does not
trap changes, besides, the vector edge that its cluster has taken, the withheld stores if it stores, and the list of pad accesses
that were early if it loads (log entry 79). An operation of a slot writes no byte of storage when it issues, but for those named in
keepsStorage, and changes the registers of no other core; one of a compute core changes no register by which its island's management
core controls the cores (R78, R139, R182, R241). -/
def Obligations.Frames : Prop :=
  (∀ (i : Instr) (s t : State), computesOnly i = true → exec i s = .next t →
    t = s.modMe fun k => { k with pend := t.me.pend }) ∧
  (∀ (i : Instr) (s t : State), isVector i = true → exec i s = .next t → t.bun.trap = false →
    t = s.modMe fun k =>
      { k with
        pend := t.me.pend, wst := t.me.wst, nid := t.me.nid, lastA := t.me.lastA, lastB := t.me.lastB
        early := t.me.early }) ∧
  (∀ (i : Instr) (s t : State), keepsStorage i = true → exec i s = .next t →
    (∀ a, memRd t.mem a = memRd s.mem a) ∧ (∀ c, c ≠ s.cur → (t.core.get c).r = (s.core.get c).r) ∧
    (isMgmt s.cur = false → ∀ y, (t.isl.get y).control = (s.isl.get y).control ∧ (t.isl.get y).fences = (s.isl.get y).fences))

/-- The three-register and immediate arithmetic instructions, in the words of their tables (R88, R90): mulh and mulhn give bits 127
to 64 of the product of the sign- or zero-extended operands. Division rounds toward zero, the remainder takes the sign of its
dividend, and no operand traps or sets a flag: a divisor of zero gives quotient 0 and the dividend as remainder, and -2^63 / -1
gives -2^63 and remainder 0 (R88, R89). adds and subs clamp the exact sum or difference to the signed range and set SAT, with the
result, when they clamp; no other flag is set (R22, R87, R91). sext and zext take the low w bits of their source (R91). Their words
are those of the tables: DST, SRA, SRB, guard and IMM in the scalar layout (R70). -/
def Obligations.IntegerArithmetic : Prop :=
  (∀ (g : Guard) (d a b : BitVec 6) (imm : BitVec 33) (s : State), guardOk g s = true →
     let x := s.me.r.getS a
     let y := s.me.r.getS b
     let i : W64 := imm.signExtend 64
     exec .nop s = .next s ∧
     exec (.add g d a b) s = .next (toS 1 d (x + y) s) ∧
     exec (.sub g d a b) s = .next (toS 1 d (x - y) s) ∧
     exec (.mul g d a b) s = .next (toS 3 d (x * y) s) ∧
     exec (.mulh g d a b) s = .next (toS 4 d ((x.signExtend 128 * y.signExtend 128).extractLsb' 64 64) s) ∧
     exec (.mulhn g d a b) s = .next (toS 4 d ((x.setWidth 128 * y.setWidth 128).extractLsb' 64 64) s) ∧
     exec (.addi g d a imm) s = .next (toS 1 d (x + i) s) ∧
     exec (.muli g d a imm) s = .next (toS 3 d (x * i) s)) ∧
  (∀ (g : Guard) (d a b : BitVec 6) (s : State), guardOk g s = true →
     let x := s.me.r.getS a
     let y := s.me.r.getS b
     exec (.div g d a b) s = .next (toS 20 d (x.sdiv y) s) ∧
     exec (.divn g d a b) s = .next (toS 20 d (x.udiv y) s) ∧
     exec (.rem g d a b) s = .next (toS 20 d (x.srem y) s) ∧
     exec (.remn g d a b) s = .next (toS 20 d (x.umod y) s) ∧
     (y = 0 → exec (.div g d a b) s = .next (toS 20 d 0 s) ∧ exec (.divn g d a b) s = .next (toS 20 d 0 s) ∧
       exec (.rem g d a b) s = .next (toS 20 d x s) ∧ exec (.remn g d a b) s = .next (toS 20 d x s)) ∧
     (x = 0x8000000000000000 → y = 0xFFFFFFFFFFFFFFFF →
       exec (.div g d a b) s = .next (toS 20 d 0x8000000000000000 s) ∧ exec (.rem g d a b) s = .next (toS 20 d 0 s))) ∧
  (∀ (g : Guard) (d a b : BitVec 6) (s : State), guardOk g s = true →
     let sum := (s.me.r.getS a).toInt + (s.me.r.getS b).toInt
     let dif := (s.me.r.getS a).toInt - (s.me.r.getS b).toInt
     let clamp (v : Int) : Int := max (-2 ^ 63) (min v (2 ^ 63 - 1))
     let flag (v : Int) : Byte := if clamp v = v then 0 else 0x20
     exec (.adds g d a b) s = .next (deliver 1 (.flags (flag sum)) (toS 1 d (BitVec.ofInt 64 (clamp sum)) s)) ∧
     exec (.subs g d a b) s = .next (deliver 1 (.flags (flag dif)) (toS 1 d (BitVec.ofInt 64 (clamp dif)) s))) ∧
  (∀ (g : Guard) (d a w1 : BitVec 6) (s : State), guardOk g s = true →
     let x := s.me.r.getS a
     exec (.sext g d a w1) s = .next (toS 1 d ((x.setWidth (w1.toNat + 1)).signExtend 64) s) ∧
     exec (.zext g d a w1) s = .next (toS 1 d ((x.setWidth (w1.toNat + 1)).setWidth 64) s)) ∧
  (∀ (g : Guard) (d a b w1 : BitVec 6) (imm : BitVec 33) (z : BitVec 27),
     let word (op : Byte) (dst sra srb : BitVec 6) (imm : BitVec 33) : SlotWord :=
       .sca (op ++ dst ++ sra ++ srb ++ g.p ++ BitVec.ofBool g.neg ++ imm : BitVec 64)
     decodeSlot (word 0x01 d a b imm) = some (.add g d a b) ∧
     decodeSlot (word 0x02 d a b imm) = some (.sub g d a b) ∧
     decodeSlot (word 0x03 d a b imm) = some (.mul g d a b) ∧
     decodeSlot (word 0x04 d a b imm) = some (.mulh g d a b) ∧
     decodeSlot (word 0x05 d a b imm) = some (.mulhn g d a b) ∧
     decodeSlot (word 0x06 d a b imm) = some (.div g d a b) ∧
     decodeSlot (word 0x07 d a b imm) = some (.divn g d a b) ∧
     decodeSlot (word 0x08 d a b imm) = some (.rem g d a b) ∧
     decodeSlot (word 0x09 d a b imm) = some (.remn g d a b) ∧
     decodeSlot (word 0x2E d a b imm) = some (.adds g d a b) ∧
     decodeSlot (word 0x2F d a b imm) = some (.subs g d a b) ∧
     decodeSlot (word 0x0A d a b imm) = some (.addi g d a imm) ∧
     decodeSlot (word 0x0B d a b imm) = some (.muli g d a imm) ∧
     decodeSlot (word 0x30 d a b (z ++ w1)) = some (.sext g d a w1) ∧
     decodeSlot (word 0x31 d a b (z ++ w1)) = some (.zext g d a w1))

/-- Logic and shifts (R92, R93): a rotation is a rotation by the low six bits of its amount. The counts and the byte order of R95,
each by what tells its result apart from every other: the bits above the count of clz are 0 and the bit below them is 1, likewise
from the low end for ctz; popc counts the 1 bits; byte j of bswap is byte 7 - j. Minimum, maximum, absolute value and negation: the
value read as a number is the one that R94 names, and the absolute value and the negation of -2^63 are -2^63. The bit fields,
selection, constants and moves (R96, R97). A field is cut at bit 63. Their words are those of the tables. -/
def Obligations.LogicShiftAndFields : Prop :=
  (∀ (g : Guard) (d a b sh : BitVec 6) (imm : BitVec 33) (s : State), guardOk g s = true →
     let x := s.me.r.getS a
     let y := s.me.r.getS b
     let i : W64 := imm.signExtend 64
     let n := (y.extractLsb' 0 6).toNat
     exec (.and g d a b) s = .next (toS 1 d (x &&& y) s) ∧
     exec (.or g d a b) s = .next (toS 1 d (x ||| y) s) ∧
     exec (.xor g d a b) s = .next (toS 1 d (x ^^^ y) s) ∧
     exec (.andn g d a b) s = .next (toS 1 d (x &&& ~~~y) s) ∧
     exec (.orn g d a b) s = .next (toS 1 d (x ||| ~~~y) s) ∧
     exec (.xnor g d a b) s = .next (toS 1 d (~~~(x ^^^ y)) s) ∧
     exec (.andi g d a imm) s = .next (toS 1 d (x &&& i) s) ∧
     exec (.ori g d a imm) s = .next (toS 1 d (x ||| i) s) ∧
     exec (.xori g d a imm) s = .next (toS 1 d (x ^^^ i) s) ∧
     exec (.shl g d a b) s = .next (toS 1 d (x <<< n) s) ∧
     exec (.shr g d a b) s = .next (toS 1 d (x >>> n) s) ∧
     exec (.sar g d a b) s = .next (toS 1 d (x.sshiftRight n) s) ∧
     exec (.rol g d a b) s = .next (toS 1 d (x.rotateLeft n) s) ∧
     exec (.ror g d a b) s = .next (toS 1 d (x.rotateRight n) s) ∧
     exec (.shli g d a sh) s = .next (toS 1 d (x <<< sh.toNat) s) ∧
     exec (.shri g d a sh) s = .next (toS 1 d (x >>> sh.toNat) s) ∧
     exec (.sari g d a sh) s = .next (toS 1 d (x.sshiftRight sh.toNat) s)) ∧
  (∀ (g : Guard) (d a : BitVec 6) (s : State), guardOk g s = true →
     let x := s.me.r.getS a
     (∃ n, n ≤ 64 ∧ exec (.clz g d a) s = .next (toS 1 d (BitVec.ofNat 64 n) s) ∧
       (∀ i, 64 - n ≤ i → x.getLsbD i = false) ∧ (n < 64 → x.getLsbD (63 - n) = true)) ∧
     (∃ n, n ≤ 64 ∧ exec (.ctz g d a) s = .next (toS 1 d (BitVec.ofNat 64 n) s) ∧
       (∀ i, i < n → x.getLsbD i = false) ∧ (n < 64 → x.getLsbD n = true)) ∧
     exec (.popc g d a) s = .next (toS 1 d (BitVec.ofNat 64 ((List.range 64).countP fun i => x.getLsbD i)) s) ∧
     (∃ v, exec (.bswap g d a) s = .next (toS 1 d v s) ∧
       ∀ j, j < 8 → v.extractLsb' (8 * j) 8 = x.extractLsb' (8 * (7 - j)) 8)) ∧
  (∀ (g : Guard) (d a b : BitVec 6) (s : State), guardOk g s = true →
     let x := s.me.r.getS a
     let y := s.me.r.getS b
     exec (.min g d a b) s = .next (toS 1 d (BitVec.ofInt 64 (min x.toInt y.toInt)) s) ∧
     exec (.max g d a b) s = .next (toS 1 d (BitVec.ofInt 64 (max x.toInt y.toInt)) s) ∧
     exec (.minn g d a b) s = .next (toS 1 d (BitVec.ofNat 64 (min x.toNat y.toNat)) s) ∧
     exec (.maxn g d a b) s = .next (toS 1 d (BitVec.ofNat 64 (max x.toNat y.toNat)) s) ∧
     exec (.abs g d a) s = .next (toS 1 d (BitVec.ofInt 64 x.toInt.natAbs) s) ∧
     exec (.neg g d a) s = .next (toS 1 d (BitVec.ofInt 64 (-x.toInt)) s) ∧
     (x = 0x8000000000000000 → exec (.abs g d a) s = .next (toS 1 d x s) ∧ exec (.neg g d a) s = .next (toS 1 d x s))) ∧
  (∀ (g : Guard) (d a b pos w1 : BitVec 6) (j : BitVec 4) (imm : BitVec 33) (lo : BitVec 32) (s : State), guardOk g s = true →
     let x := s.me.r.getS a
     let y := s.me.r.getS b
     let old := s.me.r.getS d
     let p := pos.toNat
     let e := min (w1.toNat + 1) (64 - p)
     let f := x.toNat / 2 ^ p % 2 ^ e
     exec (.bexs g d a pos w1) s = .next (toS 1 d (BitVec.ofInt 64 (if f < 2 ^ (e - 1) then (f : Int) else (f : Int) - 2 ^ e)) s) ∧
     exec (.bexz g d a pos w1) s = .next (toS 1 d (BitVec.ofNat 64 f) s) ∧
     (∃ v, exec (.bins g d a pos w1) s = .next (toS 1 d v s) ∧
       ∀ i, i < 64 → v.getLsbD i = if p ≤ i ∧ i < p + e then x.getLsbD (i - p) else old.getLsbD i) ∧
     exec (.sel g d a b j) s = .next (toS 1 d (if (s.me.r.getP j).getLsbD 0 then x else y) s) ∧
     exec (.li g d imm) s = .next (toS 1 d (imm.signExtend 64) s) ∧
     exec (.lih g d lo) s = .next (toS 1 d (lo.setWidth 64 <<< 32 ||| old &&& 0xFFFFFFFF) s) ∧
     exec (.mov g d a) s = .next (toS 1 d x s)) ∧
  (∀ (g : Guard) (d a b pos w1 : BitVec 6) (j : BitVec 4) (imm : BitVec 33) (lo : BitVec 32) (x : BitVec 29) (y : BitVec 21) (z : BitVec 1)
     (z27 : BitVec 27),
     let word (op : Byte) (dst sra srb : BitVec 6) (imm : BitVec 33) : SlotWord :=
       .sca (op ++ dst ++ sra ++ srb ++ g.p ++ BitVec.ofBool g.neg ++ imm : BitVec 64)
     decodeSlot (word 0x0C d a b imm) = some (.and g d a b) ∧
     decodeSlot (word 0x0D d a b imm) = some (.or g d a b) ∧
     decodeSlot (word 0x0E d a b imm) = some (.xor g d a b) ∧
     decodeSlot (word 0x0F d a b imm) = some (.andn g d a b) ∧
     decodeSlot (word 0x10 d a b imm) = some (.orn g d a b) ∧
     decodeSlot (word 0x11 d a b imm) = some (.xnor g d a b) ∧
     decodeSlot (word 0x15 d a b imm) = some (.shl g d a b) ∧
     decodeSlot (word 0x16 d a b imm) = some (.shr g d a b) ∧
     decodeSlot (word 0x17 d a b imm) = some (.sar g d a b) ∧
     decodeSlot (word 0x18 d a b imm) = some (.rol g d a b) ∧
     decodeSlot (word 0x19 d a b imm) = some (.ror g d a b) ∧
     decodeSlot (word 0x1A d a b (z27 ++ w1)) = some (.shli g d a w1) ∧
     decodeSlot (word 0x1B d a b (z27 ++ w1)) = some (.shri g d a w1) ∧
     decodeSlot (word 0x1C d a b (z27 ++ w1)) = some (.sari g d a w1) ∧
     decodeSlot (word 0x1D d a b imm) = some (.min g d a b) ∧
     decodeSlot (word 0x1E d a b imm) = some (.max g d a b) ∧
     decodeSlot (word 0x1F d a b imm) = some (.minn g d a b) ∧
     decodeSlot (word 0x20 d a b imm) = some (.maxn g d a b) ∧
     decodeSlot (word 0x12 d a b imm) = some (.andi g d a imm) ∧
     decodeSlot (word 0x13 d a b imm) = some (.ori g d a imm) ∧
     decodeSlot (word 0x14 d a b imm) = some (.xori g d a imm) ∧
     decodeSlot (word 0x21 d a b imm) = some (.abs g d a) ∧
     decodeSlot (word 0x22 d a b imm) = some (.neg g d a) ∧
     decodeSlot (word 0x23 d a b imm) = some (.clz g d a) ∧
     decodeSlot (word 0x24 d a b imm) = some (.ctz g d a) ∧
     decodeSlot (word 0x25 d a b imm) = some (.popc g d a) ∧
     decodeSlot (word 0x26 d a b imm) = some (.bswap g d a) ∧
     decodeSlot (word 0x27 d a b (y ++ w1 ++ pos)) = some (.bexs g d a pos w1) ∧
     decodeSlot (word 0x28 d a b (y ++ w1 ++ pos)) = some (.bexz g d a pos w1) ∧
     decodeSlot (word 0x29 d a b (y ++ w1 ++ pos)) = some (.bins g d a pos w1) ∧
     decodeSlot (word 0x2A d a b (x ++ j)) = some (.sel g d a b j) ∧
     decodeSlot (word 0x2B d a b imm) = some (.li g d imm) ∧
     decodeSlot (word 0x2C d a b (z ++ lo)) = some (.lih g d lo) ∧
     decodeSlot (word 0x2D d a b imm) = some (.mov g d a))

/-- The compares write a whole predicate, all ones if the condition holds and 0 otherwise (R98). The predicate instructions (R99).
Their words are those of the tables. -/
def Obligations.ComparesAndPredicates : Prop :=
  (∀ (g : Guard) (pd : BitVec 4) (a b : BitVec 6) (imm : BitVec 33) (s : State), guardOk g s = true →
     let x := s.me.r.getS a
     let y := s.me.r.getS b
     let i : Int := imm.toInt
     let whole (c : Prop) [Decidable c] : W64 := if c then 0xFFFFFFFFFFFFFFFF else 0
     exec (.cmpeq g pd a b) s = .next (toP 1 pd (whole (x = y)) s) ∧
     exec (.cmpne g pd a b) s = .next (toP 1 pd (whole (x ≠ y)) s) ∧
     exec (.cmplt g pd a b) s = .next (toP 1 pd (whole (x.toInt < y.toInt)) s) ∧
     exec (.cmple g pd a b) s = .next (toP 1 pd (whole (x.toInt ≤ y.toInt)) s) ∧
     exec (.cmpltn g pd a b) s = .next (toP 1 pd (whole (x.toNat < y.toNat)) s) ∧
     exec (.cmplen g pd a b) s = .next (toP 1 pd (whole (x.toNat ≤ y.toNat)) s) ∧
     exec (.cmpeqi g pd a imm) s = .next (toP 1 pd (whole (x.toInt = i)) s) ∧
     exec (.cmplti g pd a imm) s = .next (toP 1 pd (whole (x.toInt < i)) s)) ∧
  (∀ (g : Guard) (pd px py : BitVec 4) (d a : BitVec 6) (s : State), guardOk g s = true →
     let x := s.me.r.getP px
     let y := s.me.r.getP py
     exec (.pand g pd px py) s = .next (toP 1 pd (x &&& y) s) ∧
     exec (.por g pd px py) s = .next (toP 1 pd (x ||| y) s) ∧
     exec (.pxor g pd px py) s = .next (toP 1 pd (x ^^^ y) s) ∧
     exec (.pandn g pd px py) s = .next (toP 1 pd (x &&& ~~~y) s) ∧
     exec (.pnot g pd px) s = .next (toP 1 pd (~~~x) s) ∧
     exec (.pmov g pd px) s = .next (toP 1 pd x s) ∧
     exec (.pset g pd a) s = .next (toP 1 pd (s.me.r.getS a) s) ∧
     exec (.pget g d px) s = .next (toS 1 d x s) ∧
     exec (.pcnt g d px) s = .next (toS 1 d (BitVec.ofNat 64 ((List.range 64).countP fun i => x.getLsbD i)) s)) ∧
  (∀ (g : Guard) (pd px py : BitVec 4) (d a b : BitVec 6) (imm : BitVec 33),
     let word (op : Byte) (dst sra srb : BitVec 6) (imm : BitVec 33) : SlotWord :=
       .sca (op ++ dst ++ sra ++ srb ++ g.p ++ BitVec.ofBool g.neg ++ imm : BitVec 64)
     decodeSlot (word 0x40 (0#2 ++ pd) a b imm) = some (.cmpeq g pd a b) ∧
     decodeSlot (word 0x41 (0#2 ++ pd) a b imm) = some (.cmpne g pd a b) ∧
     decodeSlot (word 0x42 (0#2 ++ pd) a b imm) = some (.cmplt g pd a b) ∧
     decodeSlot (word 0x43 (0#2 ++ pd) a b imm) = some (.cmple g pd a b) ∧
     decodeSlot (word 0x44 (0#2 ++ pd) a b imm) = some (.cmpltn g pd a b) ∧
     decodeSlot (word 0x45 (0#2 ++ pd) a b imm) = some (.cmplen g pd a b) ∧
     decodeSlot (word 0x46 (0#2 ++ pd) a b imm) = some (.cmpeqi g pd a imm) ∧
     decodeSlot (word 0x47 (0#2 ++ pd) a b imm) = some (.cmplti g pd a imm) ∧
     decodeSlot (word 0x48 (0#2 ++ pd) (0#2 ++ px) (0#2 ++ py) imm) = some (.pand g pd px py) ∧
     decodeSlot (word 0x49 (0#2 ++ pd) (0#2 ++ px) (0#2 ++ py) imm) = some (.por g pd px py) ∧
     decodeSlot (word 0x4A (0#2 ++ pd) (0#2 ++ px) (0#2 ++ py) imm) = some (.pxor g pd px py) ∧
     decodeSlot (word 0x4B (0#2 ++ pd) (0#2 ++ px) (0#2 ++ py) imm) = some (.pandn g pd px py) ∧
     decodeSlot (word 0x4C (0#2 ++ pd) (0#2 ++ px) b imm) = some (.pnot g pd px) ∧
     decodeSlot (word 0x4D (0#2 ++ pd) (0#2 ++ px) b imm) = some (.pmov g pd px) ∧
     decodeSlot (word 0x4E (0#2 ++ pd) a b imm) = some (.pset g pd a) ∧
     decodeSlot (word 0x4F d (0#2 ++ px) b imm) = some (.pget g d px) ∧
     decodeSlot (word 0x5A d (0#2 ++ px) b imm) = some (.pcnt g d px))

/-- Control transfers outside a loop body: to the target, even and below 2^54, with the link delivered; otherwise the trap of R101,
raised by the transfer bundle. In a loop body they are illegal whatever the guard holds (R100, R101, R110). -/
def Obligations.ControlTransfers : Prop :=
  ∀ (g : Guard) (d a : BitVec 6) (imm : BitVec 33) (s : State),
    let rel : W64 := s.bun.adr + 2 * imm.signExtend 64
    let reg := s.me.r.getS a
    let go (t : W64) (s : State) : State := { s with bun := { s.bun with target := some t } }
    let five (t u : W64) (l : State) (n : State) : Prop :=
      exec (.br g imm) s = .next (go t n) ∧ exec (.call g d imm) s = .next (go t l) ∧
      exec (.jmp g a) s = .next (go u n) ∧ exec (.ret g a) s = .next (go u n) ∧ exec (.callr g d a) s = .next (go u l)
    let trapRel (c : Byte) (dtl : W64) : Prop :=
      exec (.br g imm) s = .next (takeTrap c rel dtl s) ∧ exec (.call g d imm) s = .next (takeTrap c rel dtl s)
    let trapReg (c : Byte) (dtl : W64) : Prop :=
      exec (.jmp g a) s = .next (takeTrap c reg dtl s) ∧ exec (.ret g a) s = .next (takeTrap c reg dtl s) ∧
        exec (.callr g d a) s = .next (takeTrap c reg dtl s)
    (inBody s.me.r = false → guardOk g s = true →
      (rel.getLsbD 0 = false → rel.toNat < 2 ^ 54 → reg.getLsbD 0 = false → reg.toNat < 2 ^ 54 →
        five rel reg (toS 1 d s.bun.nxt s) s) ∧
      (rel.getLsbD 0 = true → trapRel 0x05 0) ∧ (rel.getLsbD 0 = false → 2 ^ 54 ≤ rel.toNat → trapRel 0x0A 7) ∧
      (reg.getLsbD 0 = true → trapReg 0x05 0) ∧ (reg.getLsbD 0 = false → 2 ^ 54 ≤ reg.toNat → trapReg 0x0A 7)) ∧
    (inBody s.me.r = true →
      exec (.br g imm) s = .next (illegal 0x50 s) ∧ exec (.jmp g a) s = .next (illegal 0x51 s) ∧
      exec (.call g d imm) s = .next (illegal 0x52 s) ∧ exec (.callr g d a) s = .next (illegal 0x53 s) ∧
      exec (.ret g a) s = .next (illegal 0x54 s))

/-- The loop instructions (R102): with a body whose bundles can all be decoded, no delivery in flight and no loop under way, a trip
count T that is not 0 starts the body with lct = T - 1, lsc = ns, P(8) all ones and P(9) to P(15) 0 one control cycle later; T = 0
goes to the bundle after the body. With ii = 0, or in a loop, they are illegal operations. snext (R107) and Advance (R103). -/
def Obligations.Loops : Prop :=
  (∀ (g : Guard) (a : BitVec 6) (ii : BitVec 8) (ns1 : BitVec 3) (after : Nat) (s s1 : State),
     let n := s.me.r.getS a
     let starts (i : Instr) (m : LoopMode) : Prop :=
       ∃ t, exec i s = .next t ∧ t.me.r = { s1.me.r with mode := m, bodyStart := s1.bun.nxt, bodyLen := ii.toNat, pos := 0 } ∧
         let r := (t.me.landAll (t.tick + t.me.div.ctl)).r
         r.lct = n - 1 ∧ r.lsc = BitVec.ofNat 64 (ns1.toNat + 1) ∧ r.getP 8 = 0xFFFFFFFFFFFFFFFF ∧
           ∀ j : BitVec 4, 8 < j.toNat → r.getP j = 0
     (s.me.r.mode = .idle → guardOk g s = true → ii ≠ 0 → skipBundles s.cur ii.toNat s.bun.nxt.toNat s = .ok (after, s1) →
       (n ≠ 0 → s1.me.pend = [] → starts (.loop g a ii ns1) .modulo ∧ starts (.sloop g a ii ns1) .stepRun) ∧
       (n = 0 →
         exec (.loop g a ii ns1) s = .next { s1 with bun := { s1.bun with target := some (BitVec.ofNat 64 after) } } ∧
         exec (.sloop g a ii ns1) s = .next { s1 with bun := { s1.bun with target := some (BitVec.ofNat 64 after) } })) ∧
     (s.me.r.mode = .idle → guardOk g s = true →
       exec (.loop g a 0 ns1) s = .next (illegal 0x55 s) ∧ exec (.sloop g a 0 ns1) s = .next (illegal 0x56 s)) ∧
     (s.me.r.mode ≠ .idle →
       exec (.loop g a ii ns1) s = .next (illegal 0x55 s) ∧ exec (.sloop g a ii ns1) s = .next (illegal 0x56 s))) ∧
  ((∀ (g : Guard) (imm : BitVec 33) (s : State), guardOk g s = true →
     let tg : W64 := s.bun.adr + 2 * imm.signExtend 64
     (s.me.r.mode = .stepWait → s.me.r.goesOn = true → tg.toNat < 2 ^ 54 → ∃ t, exec (.snext g imm) s = .next t ∧
       t.me.r = { s.me.r with adv := true, mode := .stepRun, pos := 0 } ∧ t.bun.target = some tg) ∧
     (s.me.r.mode = .stepWait → s.me.r.goesOn = true → 2 ^ 54 ≤ tg.toNat →
       exec (.snext g imm) s = .next (takeTrap 0x0A tg 7 s)) ∧
     (s.me.r.mode = .stepWait → s.me.r.goesOn = false → ∃ t, exec (.snext g imm) s = .next t ∧
       t.me.r = { s.me.r with adv := true } ∧ t.bun = s.bun) ∧
     (s.me.r.mode = .idle → exec (.snext g imm) s = .next s) ∧
     (s.me.r.mode = .modulo ∨ s.me.r.mode = .stepRun → exec (.snext g imm) s = .next (illegal 0x57 s))) ∧
   ∀ r : Regs,
     (r.lct ≠ 0 → r.advance.lct = r.lct - 1 ∧ r.advance.lsc = r.lsc ∧ r.advance.rotV = r.rotV - 1 ∧ r.advance.rotP = r.rotP - 1 ∧
       r.advance.getP 8 = 0xFFFFFFFFFFFFFFFF ∧ r.advance.mode = r.mode) ∧
     (r.lct = 0 → 1 < r.lsc.toNat → r.advance.lct = 0 ∧ r.advance.lsc = r.lsc - 1 ∧ r.advance.rotV = r.rotV - 1 ∧
       r.advance.rotP = r.rotP - 1 ∧ r.advance.getP 8 = 0 ∧ r.advance.mode = r.mode) ∧
     (r.lct = 0 → r.lsc.toNat ≤ 1 → r.advance = { r with adv := false, mode := .idle }))

/-- Special registers (R21, R112): each index reads the register's value as seen at issue, and the others trap; the writable ones
take the value with the result, a write of any other index, and of an lsc outside 1 to 8, traps (R109). A count of ocn that does not
fit its field shows its low six bits (log entry 97). The counter of the free values moves with a read, and cid of a management core,
which has no number of its own, reads such a value (log entry 1); the energy account is stated with the others of its kind (R240).
-/
def Obligations.SpecialRegisters : Prop :=
  ∀ (g : Guard) (d a : BitVec 6) (s : State), guardOk g s = true →
    let k := s.me
    let x := k.r.getS a
    let reads (i : BitVec 8) (v : W64) : Prop := exec (.mfsp g d i) s = .next (toS 1 d v { s with free := s.free + 1 })
    let byte (n : Nat) (v : Nat) : W64 := BitVec.ofNat 64 v <<< (8 * n)
    (reads 0x00 s.bun.adr ∧ (isMgmt s.cur = false → reads 0x01 (BitVec.ofNat 64 s.cur.val)) ∧
      (isMgmt s.cur = true → reads 0x01 (Config.freeWord s.free)) ∧ reads 0x02 (k.stg.setWidth 64) ∧
      reads 0x03 k.r.wid ∧ reads 0x04 (k.r.pen.setWidth 64) ∧ reads 0x05 k.wfw ∧ reads 0x06 (BitVec.ofNat 64 k.cyc) ∧
      reads 0x07 (k.r.fst.setWidth 64) ∧ reads 0x08 (byte 0 k.r.rotV.toNat + byte 1 k.r.rotP.toNat) ∧
      reads 0x09 (byte 0 k.div.ctl + byte 1 k.div.vec + byte 2 k.div.mtx + byte 3 k.div.cpy) ∧
      reads 0x0A (byte 0 (k.ldc % 64) + byte 1 (k.stc % 64) + byte 2 (k.cpc % 64) + byte 3 (k.til % 64)) ∧ reads 0x0B k.r.lct ∧ reads 0x0C k.r.lsc ∧
      reads 0x0D k.sfi) ∧
    (∀ i : BitVec 8, 0x0E < i.toNat → exec (.mfsp g d i) s = .next (illegal 0x58 s)) ∧
    exec (.mtsp g a 0x07) s = .next (deliver 1 (.fst (x.setWidth 8)) s) ∧
    exec (.mtsp g a 0x08) s = .next (deliver 1 (.rot (x.setWidth 4) (x.extractLsb' 8 3)) s) ∧
    exec (.mtsp g a 0x0B) s = .next (deliver 1 (.lct x) s) ∧
    (1 ≤ x.toNat → x.toNat ≤ 8 → exec (.mtsp g a 0x0C) s = .next (deliver 1 (.lsc x) s)) ∧
    (x.toNat = 0 ∨ 8 < x.toNat → exec (.mtsp g a 0x0C) s = .next (illegal 0x59 s)) ∧
    (∀ i : BitVec 8, i ≠ 0x07 → i ≠ 0x08 → i ≠ 0x0B → i ≠ 0x0C → exec (.mtsp g a i) s = .next (illegal 0x59 s))

/-- The checks of R178, of which only the first failing one is raised: reserved space, alignment, the range of the pad, of the
slice's staging ways, and of the global space. -/
def Obligations.AddressChecks : Prop :=
  ∀ (op : Nat) (ea : W64) (z : Nat) (acc : Acc) (s : State), z ∈ [1, 2, 4, 8] →
    checkAddr op 3 ea z acc s = .trap 0x03 0 (BitVec.ofNat 64 op) ∧
    (¬ z ∣ ea.toNat → ∀ sp : BitVec 2, sp ≠ 3 → checkAddr op sp ea z acc s = .trap 0x06 ea (BitVec.ofNat 64 z)) ∧
    (z ∣ ea.toNat →
      (0x00200000 ≤ ea.toNat + z - 1 → checkAddr op 1 ea z acc s = .trap 0x07 ea (BitVec.ofNat 64 z)) ∧
      (ea.toNat + z - 1 < 0x00200000 → checkAddr op 1 ea z acc s = .at .pad ea (padKey s.cur ea.toNat) (.ok 0 none)) ∧
      (2 ^ 27 ≤ ea.toNat ∨ stagingSize s s.cur (ea.toNat / 2 ^ 22 % 32) ≤ ea.toNat % 2 ^ 22 + z - 1 →
        checkAddr op 2 ea z acc s = .trap 0x08 ea (BitVec.ofNat 64 z)) ∧
      (2 ^ 54 ≤ ea.toNat → checkAddr op 0 ea z acc s = .trap 0x0A ea 7))

/-- A load from the pad delivers at latency 3, sign- or zero-extended, the bytes that the core's own older stores hold over those of
the pad (R138, R180, R181, R183, R184). That it reads the pad as it stands at issue, while an older access that comes before it is
still open, and that the core then keeps that in mind, is log entry 79; it changes nothing else. A load from staging or global
memory becomes a counted operation of the core, and one whose global page is not resident delivers 0 and clears P(j) after exactly 4
control cycles. No byte of memory and no register changes at issue (R180, R181, R184, R191). A counted load, once nothing holds it
and its turn has come, takes the bytes at its key, the core's own older stores over them, sign- or zero-extended (R180, R183, R184):
of staging, of the lines that its island holds, in clear under its key (R345, R349), or, for a bounded load, of the island's copy of
its region line that is new enough, else of the home (R191, R260); a line that the island does not hold is asked for, and the load
tries again. -/
def Obligations.Loads : Prop :=
  (∀ (g : Guard) (d a : BitVec 6) (j : BitVec 4) (scp sz : BitVec 2) (off : BitVec 22) (s : State), guardOk g s = true →
     let ea := s.me.r.getS a + off.signExtend 64
     let key := padKey s.cur ea.toNat
     let reads (z : Nat) : Prop := z ∣ ea.toNat ∧ ea.toNat + z ≤ 0x200000 ∧ padPoison s key z = none
     let gives (i : Instr) (v : W64) : Prop :=
       ∃ l, exec i s = .next (toS 3 d v (s.modMe fun k => { k with early := l })) ∧ (s.me.open_ = [] → l = s.me.early)
     (reads 1 → gives (.ldb g d a j 1 off) ((BitVec.ofNat 8 (padValue s key 1)).signExtend 64) ∧
       gives (.ldbn g d a j 1 off) ((BitVec.ofNat 8 (padValue s key 1)).setWidth 64)) ∧
     (reads 2 → gives (.ldh g d a j 1 off) ((BitVec.ofNat 16 (padValue s key 2)).signExtend 64) ∧
       gives (.ldhn g d a j 1 off) ((BitVec.ofNat 16 (padValue s key 2)).setWidth 64)) ∧
     (reads 4 → gives (.ldw g d a j 1 off) ((BitVec.ofNat 32 (padValue s key 4)).signExtend 64) ∧
       gives (.ldwn g d a j 1 off) ((BitVec.ofNat 32 (padValue s key 4)).setWidth 64)) ∧
     (reads 8 → gives (.ldd g d a j 1 off) (BitVec.ofNat 64 (padValue s key 8))) ∧
     (reads (2 ^ sz.toNat) → gives (.lda g d a j 1 scp sz off) (BitVec.ofNat 64 (padValue s key (2 ^ sz.toNat))))) ∧
  (∀ (g : Guard) (d a : BitVec 6) (j : BitVec 4) (sp scp sz : BitVec 2) (kb : BitVec 7) (off : BitVec 22) (s : State),
     guardOk g s = true →
     let ea := s.me.r.getS a + off.signExtend 64
     let z := 2 ^ sz.toNat
     let loads : List (Instr × Nat × Nat × Bool) :=
       [(.ldb g d a j sp off, 0x60, 1, true), (.ldbn g d a j sp off, 0x61, 1, false), (.ldh g d a j sp off, 0x62, 2, true),
         (.ldhn g d a j sp off, 0x63, 2, false), (.ldw g d a j sp off, 0x64, 4, true), (.ldwn g d a j sp off, 0x65, 4, false),
         (.ldd g d a j sp off, 0x66, 8, false), (.lda g d a j sp scp sz off, 0x6D, z, false)] ++
         if sp = 0 then [(.ldk g d a j sp kb sz off, 0x6C, z, false)] else []
     (sp ≠ 0 → exec (.ldk g d a j sp kb sz off) s = .next (illegal 0x6C s)) ∧
     ∀ e ∈ loads,
       (∀ space key x, space ≠ .pad → checkAddr e.2.1 sp ea e.2.2.1 .rd s = .at space ea key x →
         ∃ t o, exec e.1 s = .next t ∧ t.me.loads = s.me.loads ++ [o] ∧ o.seq = s.order ∧ o.dst = d ∧ o.va = ea ∧ o.z = e.2.2.1 ∧
           (o.kind = .load e.2.2.2 ∨ (∃ b r th, o.kind = .bounded e.2.2.2 b r th) ∨ o.val = some (0, true)) ∧
           (o.val = none → o.sp = space ∧ o.addr = key) ∧ (space = .stg → o.kind = .load e.2.2.2 ∧ o.val = none) ∧
           t.mem = s.mem ∧ t.me.r = s.me.r ∧ t.me.pend = s.me.pend) ∧
       (checkAddr e.2.1 sp ea e.2.2.1 .rd s = .absent ea →
         ∃ t o, exec e.1 s = .next t ∧ t.me.loads = s.me.loads ++ [o] ∧ o.dst = d ∧ o.pj = s.me.r.physP j ∧ o.val = some (0, true) ∧
           (⟨s.tick + 4 * s.me.div.ctl, rankOf t (.ev .loadDelivery (argCI s.cur o.id)), .ev .loadDelivery (argCI s.cur o.id)⟩ : Entry)
             ∈ t.agenda ∧ t.mem = s.mem ∧ t.me.r = s.me.r) ∧
       (∀ c f dt, checkAddr e.2.1 sp ea e.2.2.1 .rd s = .trap c f dt → exec e.1 s = .next (takeTrap c f dt s))) ∧
  ∀ (s : State) (c : CoreId) (o : Cop) (sg : Bool), (s.core.get c).loads.find? (·.id == o.id) = some o → o.val = none →
    0 < o.z → o.z ≤ 8 → (o.sp = .glob → o.addr < 2 ^ 52) → (o.acq = true → s.dev.narrow = []) →
    let y := islOf c
    let ls := linesOf o.addr o.z
    let cached := ls.all (s.lineCached c)
    let t := performCop c o.id s
    let takes (at_ : State) (byte : Nat → Byte) : Prop :=
      ∃ n, n < 256 ^ o.z ∧
        (∀ i, i < o.z → BitVec.ofNat 8 (n / 256 ^ i) = ownByte (at_.core.get c) o.seq (o.addr + i) (byte (o.addr + i))) ∧
        t.mem = s.mem ∧ t.has (.ev .loadDelivery (argCI c o.id)) = true ∧ ∃ x ∈ (t.core.get c).loads, x.id = o.id ∧ x.dst = o.dst ∧
          x.val = some (if sg then (BitVec.ofNat (8 * o.z) n).signExtend 64 else BitVec.ofNat 64 n, false)
    let lines (at_ : State) (f : Nat → BitVec 1024) (a : Nat) : Byte :=
      let l := a / 128 % 2 ^ 45
      (seenLine at_ (at_.coreKey c) l (f l)).extractLsb' (8 * (a % 128)) 8
    (o.kind = .load sg → o.sp = .stg → (s.ready c o.path false).1 = true → takes (s.ready c o.path false).2 (memRd s.mem)) ∧
    (o.kind = .load sg → o.sp = .glob → (s.ready c o.path cached).1 = true →
      let s1 := (s.ready c o.path cached).2
      ((∀ l ∈ ls, (islandLine s1 y l).isSome = true) → takes s1 (lines s1 fun l => (islandLine s1 y l).getD 0)) ∧
      ((∃ l ∈ ls, islandLine s1 y l = none) → t.has (.perform c o.id) = true ∧ t.mem = s.mem ∧
        ∃ l ∈ ls, (t.isl.get y).mshr.any (·.line == l) = true)) ∧
    ∀ b r th, o.kind = .bounded sg b r (some th) → o.sp = .glob → (s.ready c o.path false).1 = true →
      let s1 := (s.ready c o.path false).2
      takes s1 (lines s1 fun l =>
        match (tfind (s1.isl.get y).copies l).filter fun x => x.st == .Rg && x.key == roundKey (s.core.get c).launch r with
        | some x => if lineHome l ≠ y ∧ roundGe x.round th = true then x.data else cohLine s1 l
        | none => cohLine s1 l)

/-- A store is withheld: it enters the core's buffer with the bytes that it writes at the address that the checks give, and every
byte of memory reads as before. A page that is not resident, and each failed check, traps (R182, R184). A released staging store
performs once nothing older holds it and its turn at its slice has come: its bytes are in memory, every other byte is as before, and
the store leaves the count of R25; held, it changes nothing (R182, R193, R349). Byte storage: a byte that is written reads back,
every other byte reads as before, and n bytes written little-endian read back as the low n bytes of their value (R3). -/
def Obligations.Stores : Prop :=
  (∀ (g : Guard) (a b : BitVec 6) (sp scp sz : BitVec 2) (off : BitVec 22) (s : State), guardOk g s = true →
     let ea := s.me.r.getS a + off.signExtend 64
     let z := 2 ^ sz.toNat
     ∀ e ∈ [(Instr.stb g a b sp off, 0x67, 1), (.sth g a b sp off, 0x68, 2), (.stw g a b sp off, 0x69, 4),
         (.std g a b sp off, 0x6A, 8), (.stl g a b sp scp sz off, 0x6E, z)],
       (∀ space key x, checkAddr e.2.1 sp ea e.2.2 .wr s = .at space ea key x →
         ∃ t w, exec e.1 s = .next t ∧ t.me.wst = s.me.wst ++ [w] ∧ w.seq = s.order ∧ w.sp = space ∧ w.entries = 1 ∧
           w.cells = cellsOf key (s.me.r.getS b).toNat e.2.2 ∧ (∀ k, memRd t.mem k = memRd s.mem k) ∧ t.me.r = s.me.r ∧
           t.me.pend = s.me.pend ∧ t.agenda = s.agenda) ∧
       (checkAddr e.2.1 sp ea e.2.2 .wr s = .absent ea → exec e.1 s = .next (takeTrap 0x0C ea 0 s)) ∧
       (∀ c f dt, checkAddr e.2.1 sp ea e.2.2 .wr s = .trap c f dt → exec e.1 s = .next (takeTrap c f dt s))) ∧
  (∀ (s : State) (w : Sto) (key v n : Nat),
     (s.core.get s.arg.c).sto.find? (·.id == s.arg.id) = some w → w.sp = .stg → w.cells = cellsOf key v n →
     ((s.ready s.arg.c w.path false).1 = true →
       ∃ t, exec .storePerform s = .next t ∧ (∀ i, i < n → memRd t.mem (key + i) = BitVec.ofNat 8 (v / 256 ^ i)) ∧
         (∀ k, ¬ (key ≤ k ∧ k < key + n) → memRd t.mem k = memRd s.mem k) ∧
         (t.core.get s.arg.c).sto.map (·.id) = ((s.core.get s.arg.c).sto.filter (·.id != w.id)).map (·.id) ∧ t.agenda = s.agenda) ∧
     (w.trip.arr = none → s.blocked s.arg.c w.path = true →
       ∃ t, exec .storePerform s = .next t ∧ t.mem = s.mem ∧ t.core = s.core)) ∧
  (∀ (m : List Host.Cell) (k k' v n : Nat) (b : Byte),
     memRd (memWr m k b) k' = (if k' = k then b else memRd m k') ∧
     memRdN (memWrs m (cellsOf k v n)) k n = v % 256 ^ n ∧
     (Memory.wf m = true → Memory.wf (memWr m k b) = true ∧ Memory.wf (memWrs m (cellsOf k v n)) = true ∧
       Memory.wf (memZero m k k') = true))

/-- ldr writes all ones if the page is resident and 0 if it is not, at latency 2; pgin answers 1 for a resident page, 3 where
nothing backs the page, 0 for a page that is queued already, 2 in a full queue, and otherwise queues the page; 0 also for a page of
an island under migration (R342; how a migration shows is the model's choice, log entry 18); a space other than the global one is
illegal (R185, R186). A fence stands among the core's fences with its place in the issue order; a mask or a space set of 0 has no
effect. While an older access that it names is open, a younger one that it names is held; under a scope narrower than system, which
is that of the wider of the two spaces at most (R31), it is held until the older one has arrived at its slice, and goes ahead of it
at that scope at most (R193, R248; log entries 94 and 118). -/
def Obligations.ResidencyAndFences : Prop :=
  (∀ (g : Guard) (pd : BitVec 4) (d a : BitVec 6) (off : BitVec 22) (s : State), guardOk g s = true →
     let ea := s.me.r.getS a + off.signExtend 64
     let q := (s.isl.get (islOf s.cur)).pgq
     (∀ key x, checkAddr 0x6B 0 ea 1 .rd s = .at .glob ea key x →
       exec (.ldr g pd a 0 off) s = .next (toP 2 pd 0xFFFFFFFFFFFFFFFF (keepXlat s.cur x s))) ∧
     (checkAddr 0x6B 0 ea 1 .rd s = .absent ea → exec (.ldr g pd a 0 off) s = .next (toP 2 pd 0 s)) ∧
     (∀ key x, checkAddr 0x6F 0 ea 1 .rd s = .at .glob ea key x → exec (.pgin g d a 0 off) s = .next (toS 4 d 1 s)) ∧
     (∀ e p n m, checkAddr 0x6F 0 ea 1 .rd s = .absent ea → walkVa s (islOf s.cur) s.me.ctx ea.toNat = .leaf e p n m →
       let page := ea.toNat / 2 ^ m * 2 ^ m
       let queued := q.any fun r => r.cx == s.me.ctx && r.page == page
       (s.dev.migr.contains n = true → exec (.pgin g d a 0 off) s = .next (toS 4 d 0 s)) ∧
       (s.dev.migr.contains n = false →
       (pteAdr e = 0 → exec (.pgin g d a 0 off) s = .next (toS 4 d 3 s)) ∧
       (pteAdr e ≠ 0 → queued = true → exec (.pgin g d a 0 off) s = .next (toS 4 d 0 s)) ∧
       (pteAdr e ≠ 0 → queued = false → 64 ≤ q.length → exec (.pgin g d a 0 off) s = .next (toS 4 d 2 s)) ∧
       (pteAdr e ≠ 0 → queued = false → q.length < 64 → ∃ t, exec (.pgin g d a 0 off) s = .next t ∧
         (t.isl.get (islOf s.cur)).pgq = q ++ [⟨s.me.ctx, page, s.me.penOf⟩] ∧ t.me.pend = (toS 4 d 0 s).me.pend ∧ t.mem = s.mem))) ∧
     (∀ sp : BitVec 2, sp ≠ 0 → exec (.ldr g pd a sp off) s = .next (illegal 0x6B s) ∧
       exec (.pgin g d a sp off) s = .next (illegal 0x6F s))) ∧
  ((∀ (g : Guard) (ordr : BitVec 4) (scp : BitVec 2) (spc : BitVec 3) (s : State), guardOk g s = true →
     (ordr ≠ 0 → spc ≠ 0 →
       exec (.fence g ordr scp spc) s = .next (s.modMe fun k => { k with fences := k.fences ++ [⟨s.order, ordr, scp, spc⟩] })) ∧
     (ordr = 0 ∨ spc = 0 → exec (.fence g ordr scp spc) s = .next s)) ∧
   ∀ (s : State) (c : CoreId) (f : Fence) (a b : PathOp), f ∈ (s.core.get c).fences → a ∈ (s.core.get c).open_ →
     a.seq < f.seq → f.seq < b.seq → f.spc.getLsbD (spcBit a.sp) = true → f.spc.getLsbD (spcBit b.sp) = true →
     ((a.st = true ∧ b.ld = true ∧ f.ordr.getLsbD 2 = true) ∨ (a.st = true ∧ b.st = true ∧ f.ordr.getLsbD 3 = true) ∨
       (a.ld = true ∧ b.ld = true ∧ f.ordr.getLsbD 0 = true) ∨ (a.ld = true ∧ b.st = true ∧ f.ordr.getLsbD 1 = true)) →
     let wide (sp : Sp) : Nat := match sp with | .glob => 3 | .stg => 1 | .pad => 0
     let sc := min f.scp.toNat (max (wide a.sp) (wide b.sp))
     (2 ≤ sc ∨ a.trip.arr = none → s.blocked c b = true) ∧
       (s.blocked c b = false → ∃ x : BitVec 2, sc ≤ x.toNat ∧ x.toNat < 2 ∧ (a, x) ∈ s.passable c b))

/-- The atomics (R192): at its checked address an atomic becomes a counted operation with its operands as read at issue; a byte or
half size is illegal, and a page that is not resident traps. An atomic at the pad takes the old value at issue, withholds the new
value of R192 for the checkpoint of its own bundle, and delivers after 4 control cycles; its release writes those bytes and no
others. That it does so at these times while an acquire or an older access is open is log entries 79 and 14. One at staging, once
its turn has come, performs in one step: the new value over the old one, the old one for sd, every other byte as before. -/
def Obligations.Atomics : Prop :=
  let new (op : AmoOp) (z old b e : Nat) : Nat :=
    let w := 8 * z
    let sg (v : Nat) : Int := (v : Int) - if v < 2 ^ (w - 1) then 0 else 2 ^ w
    match op with
    | .add => (old + b) % 2 ^ w
    | .and => old &&& b
    | .or => old ||| b
    | .xor => old ^^^ b
    | .min => if sg old < sg b then old else b
    | .max => if sg old < sg b then b else old
    | .minn => min old b
    | .maxn => max old b
    | .swp => b
    | .cas => if old = e then b else old
  (∀ (g : Guard) (d a b : BitVec 6) (sp ord scp sz : BitVec 2) (off : BitVec 22) (s : State), guardOk g s = true →
     let ea := s.me.r.getS a + off.signExtend 64
     let z := 2 ^ sz.toNat
     let low (v : W64) : Nat := v.toNat % 2 ^ (8 * z)
     ∀ e ∈ [(Instr.amoadd g d a b sp ord scp sz off, 0x70, AmoOp.add), (.amoand g d a b sp ord scp sz off, 0x71, .and),
         (.amoor g d a b sp ord scp sz off, 0x72, .or), (.amoxor g d a b sp ord scp sz off, 0x73, .xor),
         (.amomin g d a b sp ord scp sz off, 0x74, .min), (.amomax g d a b sp ord scp sz off, 0x75, .max),
         (.amominn g d a b sp ord scp sz off, 0x76, .minn), (.amomaxn g d a b sp ord scp sz off, 0x77, .maxn),
         (.amoswp g d a b sp ord scp sz off, 0x78, .swp), (.amocas g d a b sp ord scp sz off, 0x79, .cas)],
       (sz.toNat < 2 → exec e.1 s = .next (illegal e.2.1 s)) ∧
       (2 ≤ sz.toNat →
         (∀ space key x, checkAddr e.2.1 sp ea z .wr s = .at space ea key x → (space = .pad → padPoison s key z = none) →
           ∃ t o, exec e.1 s = .next t ∧ t.me.loads = s.me.loads ++ [o] ∧ o.seq = s.order ∧ o.dst = d ∧ o.sp = space ∧ o.addr = key ∧
             o.z = z ∧ o.kind = .amo e.2.2 (BitVec.ofNat 64 (low (s.me.r.getS b))) (BitVec.ofNat 64 (low (s.me.r.getS d))) ∧
             o.acq = ord.getLsbD 0 ∧ o.rel = ord.getLsbD 1 ∧ o.scp = scp ∧ t.mem = s.mem ∧ t.me.r = s.me.r ∧
             (space ≠ .pad → o.val = none ∧ t.me.wst = s.me.wst) ∧
             (space = .pad →
               let old := padValue s key z
               o.val = some (BitVec.ofNat 64 old, false) ∧
               (∃ w, t.me.wst = s.me.wst ++ [w] ∧ w.sp = .pad ∧ w.seq = s.order ∧
                 w.cells = cellsOf key (new e.2.2 z old (low (s.me.r.getS b)) (low (s.me.r.getS d))) z) ∧
               (⟨s.tick + 4 * s.me.div.ctl, rankOf t (.ev .loadDelivery (argCI s.cur o.id)), .ev .loadDelivery (argCI s.cur o.id)⟩ : Entry)
                 ∈ t.agenda)) ∧
         (checkAddr e.2.1 sp ea z .wr s = .absent ea → exec e.1 s = .next (takeTrap 0x0C ea 0 s)) ∧
         (∀ c f dt, checkAddr e.2.1 sp ea z .wr s = .trap c f dt → exec e.1 s = .next (takeTrap c f dt s)))) ∧
  (∀ (s : State) (c : CoreId) (o : Cop) (op : AmoOp) (b e : W64), o.sp = .stg → o.kind = .amo op b e →
     o.val = none → (s.core.get c).loads.find? (·.id == o.id) = some o → (s.ready c o.path false).1 = true →
     (o.acq = true → s.dev.narrow = []) →
     let old := memRdN s.mem o.addr o.z
     0 < o.z → o.z ≤ 8 → b.toNat < 2 ^ (8 * o.z) →
     let t := performCop c o.id s
     memRdN t.mem o.addr o.z = new op o.z old b.toNat e.toNat ∧
       (∀ k, ¬ (o.addr ≤ k ∧ k < o.addr + o.z) → memRd t.mem k = memRd s.mem k) ∧
       ∃ x ∈ (t.core.get c).loads, x.id = o.id ∧ x.val = some (BitVec.ofNat 64 old, false)) ∧
  ∀ (s : State) (c : CoreId) (w : Sto) (key v n : Nat), (s.core.get c).wst = [w] → w.sp = .pad → w.cells = cellsOf key v n →
    let t := releaseStores c s
    memRdN t.mem key n = v % 256 ^ n ∧ (∀ k, ¬ (key ≤ k ∧ k < key + n) → memRd t.mem k = memRd s.mem k) ∧
      (t.core.get c).wst = []

/-- The region instructions act on a region that the launch declares, and trap on any other (R187, R189, R190, R262). radv: Rr + 1
at latency 1; rrnd: Rr and F at latency 1, the island's table at latency 4, the home's round as a counted operation; rpub and racq:
counted operations. A publish at its home raises the producer round by one, the home's table at once, and answers the publisher with
the round that it made (R189). A round table update always completes: it gives its island's table the later of its round and the
table's, compared modulo 2^48, and changes nothing else (R189, R262). -/
def Obligations.Regions : Prop :=
  (∀ (g : Guard) (d a : BitVec 6) (rn : BitVec 12) (s : State), guardOk g s = true →
     let n := (s.me.r.getS a).toNat + rn.toNat
     let rr := tget 0 s.me.r.rr n
     let all (t : Instr → Prop) : Prop :=
       t (.rpub g d a rn) ∧ t (.radv g a rn) ∧ t (.racq g d a rn) ∧ ∀ rw, t (.rrnd g d a rn rw)
     (declared s n = none → all fun i => exec i s = .next (takeTrap 0x11 (BitVec.ofNat 64 n) (rr.setWidth 64) s)) ∧
     (∀ r, declared s n = some r →
       r.index = n ∧
       (let lead := (rr + 1 - tableOf s s.cur n).toNat
        (lead < 2 ^ 46 ∨ 2 ^ 47 ≤ lead → exec (.radv g a rn) s = .next (deliver 1 (.radv n) s)) ∧
        (2 ^ 46 ≤ lead → lead < 2 ^ 47 →
          exec (.radv g a rn) s = .next (takeTrap 0x11 (BitVec.ofNat 64 n) (rr.setWidth 64) s))) ∧
       exec (.rrnd g d a rn 0) s = .next (toS 1 d (rr.setWidth 64) s) ∧
       exec (.rrnd g d a rn 1) s = .next (toS 4 d ((tableOf s s.cur n).setWidth 64) s) ∧
       exec (.rrnd g d a rn 3) s = .next (toS 1 d ((tget 0 s.me.r.fl n).setWidth 64) s) ∧
       ∀ e ∈ [(Instr.rrnd g d a rn 2, CopKind.rrnd n, false, false), (.rpub g d a rn, .rpub n, false, true),
           (.racq g d a rn, .racq n, true, false)],
         ∃ t o, exec e.1 s = .next t ∧ t.me.loads = s.me.loads ++ [o] ∧ o.kind = e.2.1 ∧ o.dst = d ∧ o.seq = s.order ∧
           o.acq = e.2.2.1 ∧ o.rel = e.2.2.2 ∧ t.mem = s.mem ∧ t.me.r = s.me.r ∧ t.me.pend = s.me.pend)) ∧
  (∀ s : State, ∃ t, exec .publish s = .next t ∧ tget 0 t.dev.prod s.arg.k = tget 0 s.dev.prod s.arg.k + 1 ∧
     tget 0 (t.isl.get s.arg.h).rounds s.arg.k = tget 0 s.dev.prod s.arg.k + 1 ∧
     (∀ k, k ≠ s.arg.k → tget 0 t.dev.prod k = tget 0 s.dev.prod k) ∧ t.mem = s.mem ∧
     (∀ c o, o ∈ (s.core.get c).loads → c = s.arg.c → o.id = s.arg.id →
       { o with val := some ((tget 0 s.dev.prod s.arg.k + 1).setWidth 64, false) } ∈ (t.core.get c).loads)) ∧
  ∀ s : State, ∃ t, exec .roundTableUpdate s = .next t ∧
    tget 0 (t.isl.get s.arg.y).rounds s.arg.k =
      (let old := tget 0 (s.isl.get s.arg.y).rounds s.arg.k
       let n := BitVec.ofNat 48 s.arg.n
       if (old - n).toNat < 2 ^ 47 then old else n) ∧
    (∀ k, k ≠ s.arg.k → tget 0 (t.isl.get s.arg.y).rounds k = tget 0 (s.isl.get s.arg.y).rounds k) ∧
    (∀ y, y ≠ s.arg.y → t.isl.get y = s.isl.get y) ∧ t.mem = s.mem ∧ t.core = s.core ∧ t.dev = s.dev ∧ t.agenda = s.agenda

/-- hoist and sight name a halyard of the core's context and a tile that lies in its space, or trap in the order of the checks; then
the token is pending and the operation is counted (R209, R210). hrnd reads the round, the latest slot and the number of pinned slots
(R213), as they stand at issue (log entry 65), with the latency of the home's distance, longer where a strait is fenced (R389). -/
def Obligations.HalyardInstructions : Prop :=
  ∀ (g : Guard) (d a b : BitVec 6) (sp : BitVec 2) (tp ta tb tc : BitVec 6) (s : State), guardOk g s = true →
    let h : BitVec 16 := (s.me.r.getS a).setWidth 16
    let both (t : Instr → Nat → Bool → Prop) : Prop :=
      t (.hoist g d a b sp tp ta tb tc) 0x7F true ∧ t (.sight g d a b sp tp ta tb tc) 0x80 false
    (h.extractLsb' 8 6 ≠ 0 → both (fun i op _ => exec i s = .next (illegal op s)) ∧ exec (.hrnd g d a) s = .next (illegal 0x81 s)) ∧
    (h.extractLsb' 8 6 = 0 → findHal s h = none → both (fun i _ _ => exec i s = .next (takeTrap 0x12 (h.setWidth 64) 0 s)) ∧
      exec (.hrnd g d a) s = .next (takeTrap 0x12 (h.setWidth 64) 0 s)) ∧
    (∀ x, h.extractLsb' 8 6 = 0 → findHal s h = some x →
      exec (.hrnd g d a) s = .next (toS (2 * if islOf s.cur = handleHome h then 4 else if straitDown s (islOf s.cur) (handleHome h) then 20 else 10) d (halWord x) s) ∧
      both (fun i op hoist =>
        (∀ c f dt, checkTile op sp (s.me.r.getS b) x.tile (!hoist) s = .trap c f dt → exec i s = .next (takeTrap c f dt s)) ∧
        (∀ space ea key xr, checkTile op sp (s.me.r.getS b) x.tile (!hoist) s = .at space ea key xr → s.me.tokPending tp = false →
          ∃ t o, exec i s = .next t ∧ t.dev.hops = s.dev.hops ++ [o] ∧ o.core = s.cur ∧ o.hoist = hoist ∧ o.hal = h.toNat ∧
            o.va = s.me.r.getS b ∧ o.dst = d ∧ o.tok = tp ∧ t.me.til = s.me.til + 1 ∧ (tp ≠ 0 → t.me.tokPending tp = true) ∧
            t.mem = s.mem ∧ t.me.r = s.me.r)))

/-- barr sets its token pending and becomes a counted operation that its home answers; bwait and bgen read the island's view, and
bwait passes exactly when the view has moved forward by less than 2^31 (R214, R215). The barrier's home (R214): every arrival
captures the generation; the one that makes the count equal the phase size moves the generation on by one and starts the next phase
at 0; one that names another phase size is counted as a mismatch. The words of bwait and bgen are those of the table, and bwait
never holds issue. -/
def Obligations.Barriers : Prop :=
  (∀ (g : Guard) (pd : BitVec 4) (d a : BitVec 6) (b : BitVec 8) (n1 : BitVec 7) (tp : BitVec 6) (s : State), guardOk g s = true →
     let gv := viewOf s (islOf s.cur) (barrKey s.me.ctx b)
     let dd : BitVec 32 := gv - (s.me.r.getS a).setWidth 32
     exec (.bwait g pd a b) s =
       .next (toP 4 pd (if 1 ≤ dd.toNat ∧ dd.toNat ≤ 2 ^ 31 - 1 then 0xFFFFFFFFFFFFFFFF else 0) s) ∧
     exec (.bgen g d b) s = .next (toS 4 d (gv.setWidth 64) s) ∧
     (s.me.tokPending tp = true → exec (.barr g d b n1 tp) s = .next (takeTrap 0x0D (tp.setWidth 64) 0 s)) ∧
     (s.me.tokPending tp = false → ∃ t o, exec (.barr g d b n1 tp) s = .next t ∧ t.me.loads = s.me.loads ++ [o] ∧ o.dst = d ∧
       o.seq = s.order ∧ (∃ gen, o.kind = .barr b (n1.toNat + 1) tp gen) ∧ (tp ≠ 0 → t.me.tokPending tp = true) ∧
       t.mem = s.mem ∧ t.me.r = s.me.r)) ∧
  (∀ (b : Barrier) (n : Nat),
     let np := if b.c = 0 then n else b.np
     let (cap, b') := b.arrive n
     cap = b.g ∧ b'.np = np ∧ b'.mismatch = (if n = np then b.mismatch else b.mismatch + 1) ∧
     (b.c + 1 = np → b'.g = b.g + 1 ∧ b'.c = 0) ∧ (b.c + 1 ≠ np → b'.g = b.g ∧ b'.c = b.c + 1)) ∧
  (∀ (g : Guard) (pd : BitVec 4) (d a b : BitVec 6) (bn : BitVec 8) (x : BitVec 25) (u : BitVec 2) (s : State),
     let word (op : Byte) (dst sra srb : BitVec 6) (imm : BitVec 33) : SlotWord :=
       .sca (op ++ dst ++ sra ++ srb ++ g.p ++ BitVec.ofBool g.neg ++ imm : BitVec 64)
     scalarHold (.bwait g pd a bn) s = none ∧
     decodeSlot (word 0x83 (u ++ pd) a b (x ++ bn)) = some (.bwait g pd a bn) ∧
     decodeSlot (word 0x84 d a b (x ++ bn)) = some (.bgen g d bn))

/-- tkwait holds issue exactly while its guard acts and a named token is pending, and does nothing once it issues; tkpoll writes all
ones if the token is complete, else 0 (R195). A bundle that its scalar slot holds is not issued: no register, delivery or byte of
storage changes, and the core tries again at its next edge (R9). Tokens (R20, R194): a produced token is pending until its latest
producer completes it; an earlier producer completes nothing, and other tokens are as before. Their words are those of the table. -/
def Obligations.Tokens : Prop :=
  (∀ (g : Guard) (pd : BitVec 4) (a b c : BitVec 6) (s : State),
     exec (.tkwait g a b c) s = .next s ∧
     ((scalarHold (.tkwait g a b c) s).isSome = true ↔
       guardOk g s = true ∧ (s.me.tokPending a = true ∨ s.me.tokPending b = true ∨ s.me.tokPending c = true)) ∧
     (guardOk g s = true →
       exec (.tkpoll g pd a) s = .next (toP 1 pd (if s.me.tokPending a then 0 else 0xFFFFFFFFFFFFFFFF) s)) ∧
     s.me.tokPending 0 = false) ∧
  (∀ (c : CoreId) (f : Fetched) (sca : SlotWord) (s : State) (h : HoldBy),
     let pre := openBundle c f s
     waitHold f.hdr pre.me = none → scalarHold (f.ops.headD .nop) pre = some h →
     ∃ t, tryIssue c f sca s = .next t ∧ (t.core.get c).r = (s.core.get c).r ∧ (t.core.get c).pend = (s.core.get c).pend ∧
       (t.core.get c).seq = (s.core.get c).seq ∧ t.mem = s.mem ∧ (⟨s.tick + (s.core.get c).div.ctl, rankOf t (.edge c), .edge c⟩ : Entry) ∈ t.agenda) ∧
  (∀ (k : CoreSt) (t u : BitVec 6) (src g : Nat), t ≠ 0 →
     let (n, k1) := k.produce t src
     k1.tokPending t = true ∧ (u ≠ t → k1.tokPending u = k.tokPending u) ∧
     (k1.complete t n).tokPending t = false ∧ (g ≠ n → k1.complete t g = k1) ∧
     (u ≠ t → (k1.complete t n).tokPending u = k.tokPending u)) ∧
  (∀ (g : Guard) (pd : BitVec 4) (d a b ta tb tc : BitVec 6) (x : BitVec 15) (y : BitVec 27) (u : BitVec 2),
     let word (op : Byte) (dst sra srb : BitVec 6) (imm : BitVec 33) : SlotWord :=
       .sca (op ++ dst ++ sra ++ srb ++ g.p ++ BitVec.ofBool g.neg ++ imm : BitVec 64)
     decodeSlot (word 0x85 d a b (x ++ tc ++ tb ++ ta)) = some (.tkwait g ta tb tc) ∧
     decodeSlot (word 0x86 (u ++ pd) a b (y ++ ta)) = some (.tkpoll g pd ta))

/-- The ring instructions (R202, R204, R205): rnew checks its operands and that no accepted copy uses the ring; rwait and rrel trap
on a ring that was not created and on a slot that cannot be filled or is not filled; rrel advances Rt at once; rstat reads the word
of R205. rstat's word (R205): generation, zero-fill mark, filled mark, write slot and read slot in their fields. The word of rstat
has code 0x8A and the ring in SRA. -/
def Obligations.Rings : Prop :=
  (∀ (g : Guard) (q : BitVec 4) (d a b : BitVec 6) (s : State), guardOk g s = true →
     let x := s.me.getRing q
     let rt := s.me.r.getRt q
     let sl := (s.me.r.getS a).toNat
     let tg := (s.me.r.getS b).toNat
     let legal : Prop := q ≠ 0 ∧ 1 ≤ sl ∧ sl ≤ 256 ∧ 1 ≤ tg ∧ tg < 2 ^ 32
     (¬ legal → exec (.rnew g q a b) s = .next (illegal 0x89 s)) ∧
     (legal → x.users ≠ 0 → exec (.rnew g q a b) s = .next (takeTrap 0x0E (q.setWidth 64) (BitVec.ofNat 64 x.w) s)) ∧
     (legal → x.users = 0 → exec (.rnew g q a b) s = .next (deliver 1 (.ring q sl tg) s)) ∧
     (x.created = false → exec (.rwait g q) s = .next (illegal 0x87 s) ∧ exec (.rrel g q) s = .next (illegal 0x88 s) ∧
       exec (.rstat g d q) s = .next (illegal 0x8A s)) ∧
     (x.created = true →
       (x.w < (rt + 1) * x.target → exec (.rwait g q) s = .next (takeTrap 0x10 (q.setWidth 64) (BitVec.ofNat 64 x.w) s)) ∧
       ((rt + 1) * x.target ≤ x.w → exec (.rwait g q) s = .next s) ∧
       (slotFilled x rt = false → exec (.rrel g q) s = .next (takeTrap 0x10 (q.setWidth 64) (BitVec.ofNat 64 x.w) s)) ∧
       (slotFilled x rt = true → ∃ t, exec (.rrel g q) s = .next t ∧ t.me.r.getRt q = rt + 1 ∧
         (t.me.getRing q).rels = x.rels + 1 ∧ (t.me.getRing q).arrived = x.arrived ∧ (t.me.getRing q).rc = x.rc ∧ t.mem = s.mem ∧
         t.me.r.s = s.me.r.s ∧ t.me.r.p = s.me.r.p ∧ t.me.pend = s.me.pend) ∧
       exec (.rstat g d q) s = .next (toS 1 d (ringWord x rt) s))) ∧
  (∀ (x : Ring) (rt : Nat), 1 ≤ x.slots → x.slots ≤ 256 → 1 ≤ x.target →
     let w := ringWord x rt
     w.extractLsb' 32 32 = BitVec.ofNat 32 (x.w / (x.target * x.slots)) ∧ w.extractLsb' 18 14 = 0 ∧
     w.getLsbD 17 = x.zf.contains (rt % x.slots) ∧ w.getLsbD 16 = slotFilled x rt ∧
     w.extractLsb' 8 8 = BitVec.ofNat 8 (x.w / x.target % x.slots) ∧ w.extractLsb' 0 8 = BitVec.ofNat 8 (rt % x.slots)) ∧
  (∀ (g : Guard) (q : BitVec 4) (d b : BitVec 6) (imm : BitVec 33),
     let word (op : Byte) (dst sra srb : BitVec 6) (imm : BitVec 33) : SlotWord :=
       .sca (op ++ dst ++ sra ++ srb ++ g.p ++ BitVec.ofBool g.neg ++ imm : BitVec 64)
     decodeSlot (word 0x8A d (0#2 ++ q) b imm) = some (.rstat g d q))

/-- nsw delivers word w of nest register k at latency 1, and no other word of it changes when it lands; ngw reads a word (R17,
R196). The matrix parameter registers and the counters of checks (R147, R150, R174): mset and mseti deliver to m(i), mseti to one
quarter of it; mget, mstat and ckst read. mpld and mpent (R149): withheld operations of the array path; mpld's range and alignment
traps, and the valid bit of an entry that later bundles see at once. -/
def Obligations.NestAndMatrixRegisters : Prop :=
  ((∀ (g : Guard) (k : BitVec 4) (d a : BitVec 6) (w : BitVec 3) (s : State), guardOk g s = true →
     exec (.nsw g k a w) s = .next (deliver 1 (.nest k w (s.me.r.getS a)) s) ∧
     exec (.ngw g d k w) s = .next (toS 1 d ((s.me.r.getN k).extractLsb' (64 * w.toNat) 64) s)) ∧
   ∀ (r : Regs) (k : BitVec 4) (w u : BitVec 3) (v : W64),
     ((r.land (.nest k w v)).getN k).extractLsb' (64 * u.toNat) 64 =
       if u = w then v else (r.getN k).extractLsb' (64 * u.toNat) 64) ∧
  (∀ (g : Guard) (d a : BitVec 6) (i : BitVec 3) (imm : BitVec 16) (q sel : BitVec 2) (s : State), guardOk g s = true →
     exec (.mset g i a) s = .next (deliver 1 (.m i (s.me.r.getS a) 0xFFFFFFFFFFFFFFFF) s) ∧
     exec (.mseti g i imm q) s =
       .next (deliver 1 (.m i (imm.setWidth 64 <<< (16 * q.toNat)) (0xFFFF <<< (16 * q.toNat))) s) ∧
     exec (.mget g d i) s = .next (toS 1 d (s.me.r.getM i) s) ∧
     exec (.mstat g d) s = .next (toS 1 d (mstatWord s.me s.tick) s) ∧
     exec (.ckst g d sel) s = .next (toS 1 d (s.me.cks[sel.toNat]'sel.isLt) s)) ∧
  (∀ (g : Guard) (a b : BitVec 6) (w : BitVec 10) (e : BitVec 8) (s : State), guardOk g s = true →
     let p := s.me.r.getS a
     let n := (s.me.r.getS b).toNat
     let inStore : Prop := 1 ≤ n ∧ w.toNat + n ≤ 1024
     (¬ inStore → exec (.mpld g a b w) s = .next (illegal 0xA3 s)) ∧
     (inStore → ¬ 4 ∣ p.toNat → exec (.mpld g a b w) s = .next (takeTrap 0x06 p 4 s)) ∧
     (inStore → 4 ∣ p.toNat → 0x200000 < p.toNat + 4 * n → exec (.mpld g a b w) s = .next (takeTrap 0x07 p 4 s)) ∧
     (inStore → 4 ∣ p.toNat → p.toNat + 4 * n ≤ 0x200000 → ∃ t o, exec (.mpld g a b w) s = .next t ∧
       t.me.wmx = s.me.wmx ++ [o] ∧ o.kind = .mpld p.toNat n w.toNat ∧ t.mem = s.mem ∧ t.me.r = s.me.r ∧ t.me.pend = s.me.pend) ∧
     (∃ t o, exec (.mpent g a e) s = .next t ∧ t.me.wmx = s.me.wmx ++ [o] ∧ o.kind = .mpent e (p.setWidth 11) ∧
       t.me.r.entryOk.getLsbD e.toNat = p.getLsbD 10 ∧
       (∀ i, i ≠ e.toNat → t.me.r.entryOk.getLsbD i = s.me.r.entryOk.getLsbD i) ∧ t.mem = s.mem ∧ t.me.pend = s.me.pend))

/-- pull (R219, R220): from a queue with an item it takes the item at the head, which the core then holds and can give back, and
delivers its work identifier and all ones at latency 4; from an empty queue it delivers whether the queue is closed, and 0. With an
item held it raises a stage trap. push (R221): its three checks in order at issue, and 6 control cycles later the item behind the
queue's last one, with the pennant of SRB or of the item held at issue, with status 0, or status 1 from a full queue, which stays as
it is; an item under a purge block goes nowhere, with status 0 (R384), also where the queue is full (log entry 58); that a push has
its effect at the edge at which it is delivered is log entry 71. retire and qdep (R220, R222, R224): retire gives up the held item
tentatively, and traps without one; qdep reads occupancy, capacity and whether the queue is closed. -/
def Obligations.StageQueues : Prop :=
  (∀ (g : Guard) (d : BitVec 6) (j : BitVec 4) (s : State), guardOk g s = true →
     let q := (s.myStage s.me.stg.toNat).bind fun x => x.q.head?
     (s.me.r.held.isSome = true → exec (.pull g d j) s = .next (takeTrap 0x13 0 0xC0 s)) ∧
     (∀ i, s.me.r.held = none → q = some i → ∃ t, exec (.pull g d j) s = .next t ∧ t.me.r.held = some i ∧
       t.me.pops = s.me.pops ++ [⟨s.order, true, i⟩] ∧
       (t.myStage s.me.stg.toNat).map (·.q) = (s.myStage s.me.stg.toNat).map (·.q.tail) ∧
       t.me.pend = (deliver 4 (.item i.wid i.pen) (deliver 4 (.p (s.me.r.physP j) 0xFFFFFFFFFFFFFFFF 0xFFFFFFFFFFFFFFFF)
         (toS 4 d i.wid s))).me.pend ∧
       t.me.r.s = s.me.r.s ∧ t.me.r.p = s.me.r.p ∧ t.mem = s.mem) ∧
     (s.me.r.held = none → q = none → ∃ t, exec (.pull g d j) s = .next t ∧ t.me.r = s.me.r ∧
       t.me.pend = (deliver 4 (.p (s.me.r.physP j) 0 0xFFFFFFFFFFFFFFFF)
         (toS 4 d (if s.myClosed s.me.stg.toNat then 1 else 0) s)).me.pend ∧ t.mem = s.mem ∧ t.dev = s.dev)) ∧
  (∀ (g : Guard) (d a b : BitVec 6) (st : BitVec 3) (hasB : Bool) (s : State), guardOk g s = true →
     let w := s.me.r.getS a
     let i := Instr.push g d a b st hasB
     ((s.myStage st.toNat = none ∨ st.toNat ≤ s.me.stg.toNat) → exec i s = .next (illegal 0xC1 s)) ∧
     (∀ x, s.myStage st.toNat = some x → s.me.stg.toNat < st.toNat →
       (s.me.r.held = none → exec i s = .next (takeTrap 0x13 0 0xC1 s)) ∧
       (s.me.r.held.isSome = true → 2 ^ wfwBits s.me.wfw ≤ w.toNat → exec i s = .next (takeTrap 0x14 w s.me.wfw s)) ∧
       (∀ it, s.me.r.held = some it → w.toNat < 2 ^ wfwBits s.me.wfw →
         exec i s = .next (deliver 6 (.push st d w (if hasB then (s.me.r.getS b).setWidth 16 else it.pen)) s)))) ∧
  (∀ (s : State) (c : CoreId) (x : Delivery) (st : BitVec 3) (d : BitVec 6) (w : W64) (pn : BitVec 16) (n : Nat) (l : Launch) (q : StageSt),
     x.eff = .push st d w pn → (s.core.get c).launch = some n → tfind s.dev.pool n = some l → l.stage? st.toNat = some q →
     let t := landPush c x s
     let ql := ((t.launch? (some n)).bind (·.stage? st.toNat)).map (·.q)
     let status (v : W64) : Prop := { x with eff := .s d v } ∈ (t.core.get c).pend
     (t.core.get c).r = (s.core.get c).r ∧ t.mem = s.mem ∧
     (purgeBlock s (s.core.get c).ctx pn = true → ql = some q.q ∧ status 0) ∧
     (purgeBlock s (s.core.get c).ctx pn = false → q.occ < q.cap → status 0 ∧
       ∃ src, ql = some (q.q ++ [⟨w, pn, src⟩]) ∧ (c, x.seq) ∈ src ∧ ((s.core.get c).after = [] → src = [(c, x.seq)])) ∧
     (purgeBlock s (s.core.get c).ctx pn = false → q.cap ≤ q.occ → ql = some q.q ∧ status 1) ∧
     ∀ p : Delivery → Bool, p x = true → ((s.core.get c).pend.filter fun y => y.eff.isPush && p y) = [x] → landPushes c p s = t) ∧
  (∀ (g : Guard) (d : BitVec 6) (st : BitVec 3) (s : State), guardOk g s = true →
     (s.me.r.held = none → exec (.retire g) s = .next (takeTrap 0x13 0 0xC2 s)) ∧
     (∀ i, s.me.r.held = some i → exec (.retire g) s =
       .next (s.modMe fun k => { k with pops := k.pops ++ [⟨s.order, false, i⟩], r := { k.r with held := none } })) ∧
     (s.myStage st.toNat = none → exec (.qdep g d st) s = .next (illegal 0xC8 s)) ∧
     (∀ x, s.myStage st.toNat = some x → x.occ ≤ x.cap → x.cap ≤ 1024 → ∃ v, exec (.qdep g d st) s = .next (toS 4 d v s) ∧
       v.extractLsb' 0 11 = BitVec.ofNat 11 x.occ ∧ v.extractLsb' 16 11 = BitVec.ofNat 11 x.cap ∧
       v.getLsbD 32 = s.myClosed st.toNat ∧ v.extractLsb' 11 5 = 0 ∧ v.extractLsb' 27 5 = 0 ∧ v.extractLsb' 33 31 = 0))

/-- launch and lpoll (R225, R227): the two lines of the record are checked at issue as a load's, the first before the second, with a
page-absent trap for one that is not resident; then the launch, and every lpoll, is a counted operation that the dispatcher answers.
That both ends are tested at issue is log entry 77. -/
def Obligations.LaunchInstructions : Prop :=
  ∀ (g : Guard) (d a : BitVec 6) (s : State), guardOk g s = true →
    let ea := s.me.r.getS a
    (¬ 128 ∣ ea.toNat → exec (.launch g d a) s = .next (takeTrap 0x06 ea 256 s)) ∧
    (128 ∣ ea.toNat →
      (∀ c f x, checkAddr 0xC3 0 ea 128 .rd s = .trap c f x → exec (.launch g d a) s = .next (takeTrap c f x s)) ∧
      (checkAddr 0xC3 0 ea 128 .rd s = .absent ea → exec (.launch g d a) s = .next (takeTrap 0x0C ea 0 s)) ∧
      (∀ k x, checkAddr 0xC3 0 ea 128 .rd s = .at .glob ea k x →
        (∀ c f y, checkAddr 0xC3 0 (ea + 128) 128 .rd s = .trap c f y → exec (.launch g d a) s = .next (takeTrap c f y s)) ∧
        (checkAddr 0xC3 0 (ea + 128) 128 .rd s = .absent (ea + 128) →
          exec (.launch g d a) s = .next (takeTrap 0x0C (ea + 128) 0 s))) ∧
      (∀ k x k' x', checkAddr 0xC3 0 ea 128 .rd s = .at .glob ea k x → checkAddr 0xC3 0 (ea + 128) 128 .rd s = .at .glob (ea + 128) k' x' →
        ∃ t o, exec (.launch g d a) s = .next t ∧ t.me.loads = s.me.loads ++ [o] ∧ o.kind = .launch ea ∧ o.dst = d ∧ o.rel = true ∧
          o.scp = 3 ∧ t.mem = s.mem ∧ t.me.r = s.me.r)) ∧
    ∃ t o, exec (.lpoll g d a) s = .next t ∧ t.me.loads = s.me.loads ++ [o] ∧ o.kind = .lpoll (ea.setWidth 32) ∧ o.dst = d ∧
      t.mem = s.mem ∧ t.me.r = s.me.r

/-- clkdiv replaces the requested divisors of the masked domains and of no other; outside 3 to 16 it is illegal (R228). trap stops
the core after its bundle with cause 0x20 and its code, and brk, with the debug enable set, with cause 0x21 and its tag; with it
clear brk is only counted. Neither rolls anything back (R238, R239, R359): their bundle moves its core on as any other, its
deliveries stand, and the core stops with a record of kind 1 that names the bundle, the code or tag, and, once every delivery has
landed and it is posted, the next bundle as the resume address (R358, R391). ejrd and mfsp of ejc read an account of energy (R240).
What has been charged is a free amount (log entry 11): the context's account never falls below what it was, but for its wrap, and
the other accounts read as they stand. -/
def Obligations.ClocksTrapsAndEnergy : Prop :=
  (∀ (g : Guard) (a : BitVec 6) (mask : BitVec 4) (dv : BitVec 5) (s : State), guardOk g s = true →
     let v := ((s.me.r.getS a).extractLsb' 0 5).toNat
     let sets (i : Instr) (n : Nat) : Prop := ∃ t, exec i s = .next t ∧
       (∀ x : Dom, t.me.r.req.get x = if mask.getLsbD (match x with | .ctl => 0 | .vec => 1 | .mtx => 2 | .cpy => 3) then n
         else s.me.r.req.get x) ∧ t.me.div = s.me.div ∧ t.me.pend = s.me.pend ∧ t.mem = s.mem ∧ t.me.r.s = s.me.r.s
     (3 ≤ dv.toNat → dv.toNat ≤ 16 → sets (.clkdiv g mask dv) dv.toNat) ∧
     (3 ≤ v → v ≤ 16 → sets (.clkdivReg g a mask) v) ∧
     (dv.toNat < 3 ∨ 16 < dv.toNat → exec (.clkdiv g mask dv) s = .next (illegal 0xC5 s)) ∧
     (v < 3 ∨ 16 < v → exec (.clkdivReg g a mask) s = .next (illegal 0xC5 s))) ∧
  (∀ (g : Guard) (n : BitVec 16) (s : State), guardOk g s = true →
     exec (.trap g n) s = .next { s with bun := { s.bun with stop := some (0x20, n.setWidth 64) } } ∧
     (s.me.dbgEn = true → exec (.brk g n) s = .next { s with bun := { s.bun with stop := some (0x21, n.setWidth 64) } }) ∧
     (s.me.dbgEn = false → ∃ t, exec (.brk g n) s = .next t ∧ t.bun = s.bun ∧ t.me.r = s.me.r ∧ t.me.pend = s.me.pend ∧ t.mem = s.mem ∧
       tget 0 t.me.tele 25 = (tget 0 s.me.tele 25 + 1) % 2 ^ 64)) ∧
  (∀ (s : State) (f : Fetched) (cp p : Bool) (cause : Byte) (fadr : W64), s.bun.stop = some (cause, fadr) →
     let c := s.cur
     let t := finishIssue c f cp p s
     (t.core.get c).run = .stopped cause ∧ (t.core.get c).r.pc = s.bun.target.getD s.bun.nxt ∧ (t.core.get c).pend = s.me.pend ∧
       (t.core.get c).loads = s.me.loads ∧ (t.core.get c).wst = s.me.wst ∧ t.has (.edge c) = true ∧
       ∃ r, (t.core.get c).rec_ = some r ∧ r.kind = 1 ∧ r.slot = 0 ∧ r.cause = cause ∧ r.badr = s.bun.adr ∧ r.fadr = fadr ∧
         r.dtl = (if cause = 0x21 then s.me.r.phase.setWidth 64 else 0) ∧ r.ctx = s.me.ctx ∧ r.core = coreField c ∧
         r.cyc = BitVec.ofNat 64 s.me.cyc) ∧
  (∀ (s : State) (c : CoreId) (r : Rec), (s.core.get c).rec_ = some r → r.kind = 1 → (s.core.get c).pend = [] → (s.core.get c).loads = [] →
     (∀ o ∈ s.dev.hops, o.core ≠ c) →
     let t := postStop c s
     (t.core.get c).rec_ = none ∧ (t.isl.get (islOf c)).waiting = (s.isl.get (islOf c)).waiting ++
       [{ r with res := (s.core.get c).advance.r.pc }]) ∧
  (∀ (g : Guard) (d : BitVec 6) (s : State), guardOk g s = true →
     (∃ (t : State) (n : Nat) (v : W64), n < 2 ^ 32 ∧ exec (.ejrd g d 0) s = .next t ∧
       v = (s.ctxOf s.me.ctx).energy + BitVec.ofNat 64 n ∧ t.me.pend = (toS 4 d v s).me.pend ∧ (t.ctxOf s.me.ctx).energy = v ∧
       t.mem = s.mem ∧ t.me.r = s.me.r) ∧
     (∃ (t : State) (n : Nat) (v : W64), n < 2 ^ 32 ∧ exec (.mfsp g d 0x0E) s = .next t ∧
       v = (s.ctxOf s.me.ctx).energy + BitVec.ofNat 64 n ∧ t.me.pend = (toS 1 d v s).me.pend ∧ t.mem = s.mem ∧ t.me.r = s.me.r) ∧
     ∀ (sel : BitVec 2), sel ≠ 0 → ∃ t, exec (.ejrd g d sel) s = .next t ∧ t.mem = s.mem ∧ t.me.r = s.me.r ∧
       t.me.pend = (toS 4 d (if sel = 1 then (s.ctxOf s.me.ctx).filler else if sel = 2 then s.dev.overhead else s.dev.reserve) s).me.pend)

/-- Privileged instructions on a compute core are illegal operations, whatever the guard holds (R78, R241). Privileged registers
(R241): mfpr delivers a listed register at latency 2, mtpr makes the write of a listed and writable one the next thing that happens,
a request for an operating point one of its tick (R372), and any other index is illegal whatever the guard holds. An unlisted, a
read-only and a writable index are among those that the second part names (R357, R372, R374). -/
def Obligations.Privilege : Prop :=
  (∀ (g : Guard) (d a b : BitVec 6) (n : BitVec 16) (z : BitVec 3) (m : Bool) (s : State), isMgmt s.cur = false →
     exec (.mfpr g d n) s = .next (illegal 0xD0 s) ∧ exec (.mtpr g a n) s = .next (illegal 0xD1 s) ∧
     exec (.xlinv g d a b z) s = .next (illegal 0xD2 s) ∧ exec (.purge g d a) s = .next (illegal 0xD3 s) ∧
     exec (.eret g a m) s = .next (illegal 0xD4 s) ∧ exec (.wfe g d) s = .next (illegal 0xD5 s) ∧
     exec (.stest g d a) s = .next (illegal 0xD6 s) ∧ exec (.hsw g a b) s = .next (illegal 0xD7 s)) ∧
  ((∀ (g : Guard) (d a : BitVec 6) (n : BitVec 16) (s : State), isMgmt s.cur = true → guardOk g s = true →
     let y := islOf s.cur
     let v := s.me.r.getS a
     (∀ x, prRead s y n.toNat = some x → exec (.mfpr g d n) s = .next (toS 2 d x { s with free := s.free + 1 })) ∧
     (n = 0x1800 → exec (.mtpr g a n) s = .next (s.after 0 (.ev .opmWrite { argY y with k := 2, v := v }))) ∧
     (∀ l, n ≠ 0x1800 → prWrite y n.toNat v = some l → ∃ t, exec (.mtpr g a n) s = .next t ∧
       t.agenda = l.map (fun e => ⟨s.tick, 0, .ev e.1 e.2⟩) ++ s.agenda ∧ t.core = s.core ∧ t.isl = s.isl ∧ t.dev = s.dev ∧ t.mem = s.mem)) ∧
   (∀ (g : Guard) (d a : BitVec 6) (n : BitVec 16) (s : State), isMgmt s.cur = true →
     (prRead s (islOf s.cur) n.toNat = none → exec (.mfpr g d n) s = .next (illegal 0xD0 s)) ∧
     (prWrite (islOf s.cur) n.toNat (s.me.r.getS a) = none → exec (.mtpr g a n) s = .next (illegal 0xD1 s))) ∧
   ∀ (s : State) (y : Isl) (v : W64),
     prRead s y 0x0E00 = some (s.isl.get y).rqb ∧ prRead s y 0x0E02 = some ((s.isl.get y).rqt.setWidth 64) ∧
     prRead s y 0x1803 = some (s.isl.get y).gov ∧ prRead s y 0x0D00 = none ∧
     prWrite y 0x0E00 v = some [(.registerWrite, { argY y with v := v, rg := .rq y 0 })] ∧ prWrite y 0x0E02 v = none ∧
     prWrite y 0x1800 v = some [(.opmWrite, { argY y with k := 2, v := v })] ∧ prWrite y 0x0D00 v = none)

/-- eret, wfe and hsw on a management core (R241, R360). eret mode 0 lets a stopped or trapped core run on from its resume address,
but not after a matrix-routine trap, consumed poison (log entry 48), or with a purged operation's token pending, and only once its
record has a slot of the queue (R357); a core that is not stopped or trapped is misdirected, and so is an hsw of an unbound one.
xlinv, purge and stest on a management core (R340, R383, R388): counted operations of it; xlinv checks its address and drops the
context's translations of the range at once, stest refuses a unit code that R387 does not list. -/
def Obligations.CoreManagement : Prop :=
  (∀ (g : Guard) (d a b : BitVec 6) (s : State), isMgmt s.cur = true → guardOk g s = true →
     let c := coreNo ((islOf s.cur).val * 32 + (s.me.r.getS a).toNat % 32)
     let k := s.core.get c
     let bad : State := s.modI (islOf s.cur) fun i => { i with misdir := true }
     let v : BitVec 2 := (s.me.r.getS b).setWidth 2
     exec (.wfe g d) s = .next (toS 1 d ((s.isl.get (islOf s.cur)).rqh.setWidth 64) s) ∧
     (v = 3 → exec (.hsw g a b) s = .next (illegal 0xD7 s)) ∧
     (v ≠ 3 → k.run ≠ .unbound → k.run ≠ .dark → exec (.hsw g a b) s = .next (s.modC c fun k => { k with granted := v })) ∧
     (v ≠ 3 → k.run = .unbound ∨ k.run = .dark → exec (.hsw g a b) s = .next bad) ∧
     ((∀ x, k.run ≠ .trapped x ∧ k.run ≠ .stopped x) → ∀ m, exec (.eret g a m) s = .next bad) ∧
     (∀ x, k.run = .trapped x ∨ k.run = .stopped x →
       (x = 0x15 ∨ x = 0x34 → exec (.eret g a false) s = .next bad) ∧
       (x ≠ 0x15 → x ≠ 0x34 → k.tok.toList.any (fun t => t.pending && t.purged) = false →
         let waits : Bool := ((flushRec c s).isl.get (islOf c)).waiting.any fun r => r.kind != 0 && r.core == coreField c
         ∃ t, exec (.eret g a false) s = .next t ∧ (t.core.get c).r = k.r ∧ (t.core.get c).rec_ = none ∧ t.mem = s.mem ∧
           (waits = false → (t.core.get c).run = .running ∧ t.has (.edge c) = true) ∧
           (waits = true → (t.core.get c).run = k.run ∧ (t.core.get c).resumeDue = true)) ∧
       exec (.eret g a true) s = .next (purgeCore c (flushRec c s)))) ∧
  (∀ (g : Guard) (d a b : BitVec 6) (z : BitVec 3) (s : State), isMgmt s.cur = true → guardOk g s = true →
     let x := s.me.r.getS a
     let cx : BitVec 7 := (s.me.r.getS b).setWidth 7
     let u : BitVec 16 := x.setWidth 16
     (2 ^ 54 ≤ x.toNat → exec (.xlinv g d a b z) s = .next (takeTrap 0x0A x 7 s)) ∧
     (x.toNat < 2 ^ 54 → ∃ t o, exec (.xlinv g d a b z) s = .next t ∧ o ∈ t.me.loads ∧ o.dst = d ∧ o.seq = s.order ∧
       t.mem = s.mem ∧ (∀ c, ∀ e ∈ (t.core.get c).tlb, e.cx = cx →
         meets e.va e.size (xlinvRange x.toNat z).1 (xlinvRange x.toNat z).2 = false)) ∧
     (∃ t o, exec (.purge g d a) s = .next t ∧ t = startPurge (x.extractLsb' 16 7) (x.setWidth 16) (some (s.cur, o.id))
       none (s.modMe fun k => { k with loads := k.loads ++ [o], nid := k.nid + 1 }) ∧ o.dst = d ∧ o.seq = s.order ∧ o.id = s.me.nid ∧
       o.kind = .purge (x.extractLsb' 16 7) (x.setWidth 16)) ∧
     (unitListed (islOf s.cur) u = false → exec (.stest g d a) s = .next (illegal 0xD6 s)) ∧
     (unitListed (islOf s.cur) u = true → ∃ t o, exec (.stest g d a) s = .next t ∧ o.kind = .stest u ∧ o.dst = d ∧ o.id = s.me.nid ∧
       t = askTest (islOf s.cur) u (some (s.cur, o.id)) (s.modMe fun k => { k with loads := k.loads ++ [o], nid := k.nid + 1 })))

/-- Element arithmetic (R117, R118): integers exactly, then reduced by R39; floats exactly, then RoundF once, with NV for a
signalling NaN operand; the high half of a product, the minimum and maximum, the bit forms of absolute value, negation and copysign.
No source is poisoned, and no residue check fails (R386). Logic, shifts and counts (R120, R121, R122): a shift's amount is the low
six bits of the element or of the immediate; vshr takes its source as unsigned, vsar as signed, vshl and vrshr by the type. A result
that fails its residue check is delivered with poison: integer sums, differences, products and their sums, float products and their
sums (R386). That the poison marks the whole register is log entry 29. -/
def Obligations.VectorArithmetic : Prop :=
  (∀ (h : VH) (vd v1 v2 v3 : BitVec 5) (s : State), s.me.r.poison = [] → s.dev.upsets = [] →
     let pa (e : Nat) : Nat := elem (s.me.r.getV h.cl v1) e h.w
     let pb (e : Nat) : Nat := elem (s.me.r.getV h.cl v2) e h.w
     let pc (e : Nat) : Nat := elem (s.me.r.getV h.cl v3) e h.w
     let ia (e : Nat) : Int := toI h.ty (pa e)
     let ib (e : Nat) : Int := toI h.ty (pb e)
     let ic (e : Nat) : Int := toI h.ty (pc e)
     let fa (e : Nat) : FVal := toF h.ty (pa e)
     let fb (e : Nat) : FVal := toF h.ty (pb e)
     let fc (e : Nat) : FVal := toF h.ty (pc e)
     let big : Nat := 2 ^ (h.w - 1)
     let nv (x : Nat) : Byte := if isSnan h.ty x then 0x01 else 0
     let int (x : Int) : Nat × Byte := fromI h.ty h.sat x
     let rnd (v : FRes) (f : Byte) : Nat × Byte :=
       ((roundF h.ty h.rm h.sat v.1).1, (roundF h.ty h.rm h.sat v.1).2 ||| v.2 ||| f)
     let gives (i : Instr) (lat : Nat) (res : Nat → Nat × Byte) : Prop :=
       exec i s = .next (vecBegin h.cl lat (elemEffs h vd h.w s (actives h h.w s) res) s)
     (tyI h.ty = true →
       gives (.vadd h vd v1 v2) 2 (fun e => int (ia e + ib e)) ∧ gives (.vsub h vd v1 v2) 2 (fun e => int (ia e - ib e)) ∧
       gives (.vmul h vd v1 v2) 4 (fun e => int (ia e * ib e)) ∧
       gives (.vmulh h vd v1 v2) 4 (fun e => ((ia e * ib e / 2 ^ h.w % 2 ^ h.w).toNat, 0)) ∧
       gives (.vmin h vd v1 v2) 2 (fun e => (if ia e < ib e then pa e else pb e, 0)) ∧
       gives (.vmax h vd v1 v2) 2 (fun e => (if ia e < ib e then pb e else pa e, 0)) ∧
       gives (.vabs h vd v1) 2 (fun e => int |ia e|) ∧ gives (.vneg h vd v1) 2 (fun e => int (-ia e)) ∧
       gives (.vfma h vd v1 v2 v3) 4 (fun e => int (ia e * ib e + ic e)) ∧
       gives (.vfms h vd v1 v2 v3) 4 (fun e => int (ia e * ib e - ic e)) ∧
       gives (.vfnma h vd v1 v2 v3) 4 (fun e => int (-(ia e * ib e) + ic e))) ∧
     (tyI h.ty = false →
       gives (.vadd h vd v1 v2) 2 (fun e => rnd (addF h.rm (fa e) (fb e)) (nv (pa e) ||| nv (pb e))) ∧
       gives (.vsub h vd v1 v2) 2 (fun e => rnd (addF h.rm (fa e) (fb e).flip) (nv (pa e) ||| nv (pb e))) ∧
       gives (.vmul h vd v1 v2) 4 (fun e => rnd (mulF (fa e) (fb e)) (nv (pa e) ||| nv (pb e))) ∧
       gives (.vmin h vd v1 v2) 2 (fun e => ((roundF h.ty .rne false (minF (fa e) (fb e))).1, nv (pa e) ||| nv (pb e))) ∧
       gives (.vmax h vd v1 v2) 2 (fun e => ((roundF h.ty .rne false (maxF (fa e) (fb e))).1, nv (pa e) ||| nv (pb e))) ∧
       gives (.vabs h vd v1) 2 (fun e => (pa e % big, 0)) ∧ gives (.vneg h vd v1) 2 (fun e => (pa e ^^^ big, 0)) ∧
       gives (.vfma h vd v1 v2 v3) 4 (fun e => rnd (fmaF h.rm (fa e) (fb e) (fc e)) (nv (pa e) ||| nv (pb e) ||| nv (pc e))) ∧
       gives (.vfms h vd v1 v2 v3) 4 (fun e => rnd (fmaF h.rm (fa e) (fb e) (fc e).flip) (nv (pa e) ||| nv (pb e) ||| nv (pc e))) ∧
       gives (.vfnma h vd v1 v2 v3) 4 (fun e => rnd (fmaF h.rm (fa e).flip (fb e) (fc e)) (nv (pa e) ||| nv (pb e) ||| nv (pc e)))) ∧
     gives (.vcpsgn h vd v1 v2) 2 (fun e => (pa e % big + pb e / big * big, 0))) ∧
  (∀ (h : VH) (vd v1 v2 : BitVec 5) (sh : BitVec 6) (s : State), s.me.r.poison = [] →
     let pa (e : Nat) : Nat := elem (s.me.r.getV h.cl v1) e h.w
     let pb (e : Nat) : Nat := elem (s.me.r.getV h.cl v2) e h.w
     let ia (e : Nat) : Int := toI h.ty (pa e)
     let sa (e : Nat) : Int := sext (pa e) h.w
     let wr (x : Int) : Nat × Byte := ((x % 2 ^ h.w).toNat, 0)
     let rs (e n : Nat) : Nat × Byte := if n = 0 then (pa e, 0) else wr ((ia e + 2 ^ (n - 1)) / 2 ^ n)
     let gives (i : Instr) (res : Nat → Nat × Byte) : Prop :=
       exec i s = .next (vecBegin h.cl 2 (elemEffs h vd h.w s (actives h h.w s) res) s)
     gives (.vand h vd v1 v2) (fun e => (pa e &&& pb e, 0)) ∧ gives (.vor h vd v1 v2) (fun e => (pa e ||| pb e, 0)) ∧
     gives (.vxor h vd v1 v2) (fun e => (pa e ^^^ pb e, 0)) ∧ gives (.vnot h vd v1) (fun e => (2 ^ h.w - 1 - pa e, 0)) ∧
     gives (.vshl h vd v1 v2) (fun e => fromI h.ty h.sat (ia e * 2 ^ (pb e % 64))) ∧
     gives (.vshlImm h vd v1 sh) (fun e => fromI h.ty h.sat (ia e * 2 ^ sh.toNat)) ∧
     gives (.vshr h vd v1 v2) (fun e => (pa e / 2 ^ (pb e % 64), 0)) ∧ gives (.vshrImm h vd v1 sh) (fun e => (pa e / 2 ^ sh.toNat, 0)) ∧
     gives (.vsar h vd v1 v2) (fun e => wr (sa e / 2 ^ (pb e % 64))) ∧ gives (.vsarImm h vd v1 sh) (fun e => wr (sa e / 2 ^ sh.toNat)) ∧
     gives (.vrshr h vd v1 v2) (fun e => rs e (pb e % 64)) ∧ gives (.vrshrImm h vd v1 sh) (fun e => rs e sh.toNat) ∧
     gives (.vclz h vd v1) (fun e => (leadZeros (pa e) h.w, 0)) ∧ gives (.vpopc h vd v1) (fun e => (popBits (pa e) h.w, 0))) ∧
  (∀ (h : VH) (vd v1 v2 v3 : BitVec 5) (s : State), s.me.r.poison = [] → (s.cur, s.order) ∈ s.dev.upsets →
     ∀ e ∈ ([(Instr.vmul h vd v1 v2, h.w), (.vfma h vd v1 v2 v3, h.w), (.vfms h vd v1 v2 v3, h.w), (.vfnma h vd v1 v2 v3, h.w)] ++
         if tyI h.ty then [(.vadd h vd v1 v2, h.w), (.vsub h vd v1 v2, h.w), (.vmulh h vd v1 v2, h.w), (.vdot4 h vd v1 v2 v3, 32)] else []),
       actives h e.2 s ≠ [] → ∃ t, exec e.1 s = .next t ∧ t.me.r = s.me.r ∧ t.mem = s.mem ∧
         ∃ x ∈ t.me.pend, x.eff = .mark h.cl (s.me.r.physV vd) s.bun.adr (clusterUnit s.cur h.cl) ∧ x.seq = s.order)

/-- Divide, roots and the dot product of bytes (R119, R123); the pivot check writes its outcome per lane to P(j) (R55). -/
def Obligations.VectorDivideRootDot : Prop :=
  ∀ (h : VH) (vd v1 v2 v3 : BitVec 5) (j : BitVec 4) (s : State), s.me.r.poison = [] → s.dev.upsets = [] →
    let pa (e : Nat) : Nat := elem (s.me.r.getV h.cl v1) e h.w
    let pb (e : Nat) : Nat := elem (s.me.r.getV h.cl v2) e h.w
    let nv (x : Nat) : Byte := if isSnan h.ty x then 0x01 else 0
    let rnd (v : FRes) (f : Byte) : Nat × Byte :=
      ((roundF h.ty h.rm false v.1).1, (roundF h.ty h.rm false v.1).2 ||| v.2 ||| f)
    let gives (i : Instr) (lat w : Nat) (res : Nat → Nat × Byte) : Prop :=
      exec i s = .next (vecBegin h.cl lat (elemEffs h vd w s (actives h w s) res) s)
    let lane (v : BitVec 5) (e : Nat) : Nat := elem (s.me.r.getV h.cl v) e 32
    let byte (v : BitVec 5) (e i : Nat) : Int := toI h.ty (lane v e / 256 ^ i % 256)
    gives (.vdiv h vd v1 v2) 14 h.w (fun e => rnd (divF (toF h.ty (pa e)) (toF h.ty (pb e))) (nv (pa e) ||| nv (pb e))) ∧
    gives (.vsqrt h vd v1) 14 h.w (fun e => rnd (sqrtF (toF h.ty (pa e))) (nv (pa e))) ∧
    gives (.vrsqrt h vd v1) 14 h.w (fun e => rnd (rsqrtF (toF h.ty (pa e))) (nv (pa e))) ∧
    (h.ty = .i8 → gives (.vdot4 h vd v1 v2 v3) 4 32 (fun e => fromI .i32 h.sat (sext (lane v3 e) 32 + byte v1 e 0 * byte v2 e 0 +
      byte v1 e 1 * byte v2 e 1 + byte v1 e 2 * byte v2 e 2 + byte v1 e 3 * byte v2 e 3))) ∧
    (h.ty = .n8 → gives (.vdot4 h vd v1 v2 v3) 4 32 (fun e => fromI .n32 h.sat ((lane v3 e : Int) + byte v1 e 0 * byte v2 e 0 +
      byte v1 e 1 * byte v2 e 1 + byte v1 e 2 * byte v2 e 2 + byte v1 e 3 * byte v2 e 3))) ∧
    (h.ty = .f32 → ∃ bits mask : W64,
      (∀ e, e < 64 → (mask.getLsbD e = active (s.me.r.getP h.grd) e 32 ∧
        (bits.getLsbD e = (active (s.me.r.getP h.grd) e 32 && pivotFails (lane v1 e))))) ∧
      exec (.vrsqp h vd v1 j) s = .next (vecBegin h.cl 14 (.p (s.me.r.physP j) bits mask ::
        elemEffs h vd 32 s (actives h 32 s) fun e =>
          if pivotFails (lane v1 e) then (0x7FC00000, 0x40) else rnd (rsqrtF (toF .f32 (lane v1 e))) 0) s))

/-- Compares, selection and reductions (R124, R125, R126, R58, R59): a compare writes the bits of active lanes of P(j) and no
others; a reduction writes lane 0 and zeros above it, whatever the guard holds: of integers the exact result, reduced to 32 bits; of
floats the root of the tree whose leaves are the elements, or the identity where one is not active, and each node of which combines
two neighbours of the level below. -/
def Obligations.VectorCompareSelectReduce : Prop :=
  ∀ (h : VH) (vd v1 v2 : BitVec 5) (j : BitVec 4) (s : State), s.me.r.poison = [] →
    let a (e : Nat) : Nat := elem (s.me.r.getV h.cl v1) e 32
    let b (e : Nat) : Nat := elem (s.me.r.getV h.cl v2) e 32
    let on (e : Nat) : Bool := active (s.me.r.getP h.grd) e 32
    let cmp (i : Instr) (ci : Int → Int → Prop) (cf : FVal → FVal → Bool) : Prop :=
      ∃ (bits mask : W64) (fl : Byte),
        (∀ e, e < 64 → mask.getLsbD e = on e ∧ (bits.getLsbD e = true ↔ on e = true ∧
          (if tyI h.ty then ci (toI h.ty (a e)) (toI h.ty (b e)) else cf (toF .f32 (a e)) (toF .f32 (b e)) = true))) ∧
        (fl = 0 ∨ fl = 0x01) ∧ (fl = 0x01 ↔ ∃ e, e < 64 ∧ on e = true ∧ (isSnan h.ty (a e) = true ∨ isSnan h.ty (b e) = true)) ∧
        exec i s = .next (vecBegin h.cl 2 (.p (s.me.r.physP j) bits mask :: if fl = 0 then [] else [.flags fl]) s)
    let red (i : Instr) (z : Int) (fi : Int → Int → Int) (idp : Nat) (ff : FVal → FVal → FRes) (round : Bool) : Prop :=
      let last := match h.w with | 32 => 6 | 16 => 7 | _ => 8
      let el (e : Nat) : Nat := elem (s.me.r.getV h.cl v1) e h.w
      let act (e : Nat) : Bool := active (s.me.r.getP h.grd) e h.w
      let node (y u : Nat × Byte) : Nat × Byte :=
        let r := ff (toF .f32 y.1) (toF .f32 u.1)
        let q := roundF .f32 (if round then h.rm else .rne) (round && h.sat) r.1
        (q.1, q.2 ||| r.2 ||| y.2 ||| u.2)
      ∃ (w : VWord) (v : Nat) (fl : Byte), elem w 0 32 = v % 2 ^ 32 ∧ (∀ e, 1 ≤ e → e < 64 → elem w e 32 = 0) ∧
        exec i s = .next (vecBegin h.cl (2 + last)
          (.v h.cl (s.me.r.physV vd) w (BitVec.allOnes 2048) :: if fl = 0 then [] else [.flags fl]) s) ∧
        (tyI h.ty = true → (v, fl) = fromI (if h.ty = .i8 ∨ h.ty = .i16 ∨ h.ty = .i32 then .i32 else .n32) h.sat
          ((List.range (2 ^ last)).foldl (fun t e => fi t (if act e then toI h.ty (el e) else z)) z)) ∧
        (tyI h.ty = false → h.ty ≠ .b4 → ∃ x : Nat → Nat → Nat × Byte,
          (∀ e, e < 2 ^ last → x 0 e =
            if act e then ((roundF .f32 .rne false (toF h.ty (el e))).1, if isSnan h.ty (el e) then 0x01 else 0) else (idp, 0)) ∧
          (∀ l n, l < last → n < 2 ^ (last - l - 1) → x (l + 1) n = node (x l (2 * n)) (x l (2 * n + 1))) ∧ x last 0 = (v, fl))
    cmp (.vcmpeq h v1 v2 j) (· = ·) FVal.eqv ∧ cmp (.vcmpne h v1 v2 j) (· ≠ ·) (fun x y => !x.eqv y) ∧
    cmp (.vcmplt h v1 v2 j) (· < ·) FVal.lt ∧ cmp (.vcmple h v1 v2 j) (· ≤ ·) (fun x y => x.lt y || x.eqv y) ∧
    exec (.vsel h vd v1 v2 j) s = .next (vecBegin h.cl 2 (elemEffs h vd h.w s (actives h h.w s) fun e =>
      (elem (if (s.me.r.getP j).getLsbD (e * h.w / 32) then s.me.r.getV h.cl v1 else s.me.r.getV h.cl v2) e h.w, 0)) s) ∧
    red (.vredsum h vd v1) 0 (· + ·) 0x80000000 (addF h.rm) true ∧
    red (.vredmax h vd v1) (intLo h.ty) max 0xFF800000 (fun x y => (maxF x y, 0)) false ∧
    red (.vredmin h vd v1) (intHi h.ty) min 0x7F800000 (fun x y => (minF x y, 0)) false

/-- Moves, broadcasts and permutations (R127 to R130): vxmov alone reads the other cluster. Conversion and block-4 (R131 to R133): a
narrowing conversion fills quarter or half h of the destination, a widening one reads it; vquant writes its block whole or not at
all; vdequant decodes the codes that the block holds. -/
def Obligations.VectorMovesAndConversions : Prop :=
  (∀ (h : VH) (vd v1 v2 : BitVec 5) (imm : BitVec 24) (el : BitVec 12) (sk : BitVec 6) (k9 : BitVec 9) (hb sg : Bool) (s : State),
     s.me.r.poison = [] →
     let a := s.me.r.getV h.cl v1
     let b := s.me.r.getV h.cl v2
     let other := s.me.r.getV (match h.cl with | .A => .B | .B => .A) v1
     let n := 2048 / h.w
     let both (w i : Nat) : Nat := if i < 2048 / w then elem a i w else elem b (i - 2048 / w) w
     let signed : Bool := h.ty == .i16 || h.ty == .i32
     let gives (i : Instr) (lat : Nat) (res : Nat → Nat × Byte) : Prop :=
       exec i s = .next (vecBegin h.cl lat (elemEffs h vd h.w s (actives h h.w s) res) s)
     (tyI h.ty = true → gives (.vmovi h vd imm) 2 (fun _ => ((imm.toInt % 2 ^ h.w).toNat, 0))) ∧
     (h.ty = .f32 → gives (.vmovi h vd imm) 2 (fun _ => (imm.toNat % 2 ^ 16 * 2 ^ 16, 0))) ∧
     (h.ty = .bf16 → gives (.vmovi h vd imm) 2 (fun _ => (imm.toNat % 2 ^ 16, 0))) ∧
     gives (.vxmov h vd v1) 2 (fun e => (elem other e h.w, 0)) ∧ gives (.vmov h vd v1) 2 (fun e => (elem a e h.w, 0)) ∧
     gives (.vbcastElem h vd v1 el) 3 (fun _ => (elem a el.toNat h.w, 0)) ∧
     gives (.vbcastScalar h vd sk) 3 (fun _ => ((s.me.r.getS sk).toNat % 2 ^ h.w, 0)) ∧
     gives (.vperm h vd v1 v2) 3 (fun e => (elem a (elem b e h.w % n) h.w, 0)) ∧
     gives (.vslide h vd v1 v2 k9) 3 (fun e => (both h.w (e + k9.toNat), 0)) ∧
     gives (.vzip h vd v1 v2 hb) 3 (fun e => (elem (if e % 2 = 0 then a else b) ((if hb then n / 2 else 0) + e / 2) h.w, 0)) ∧
     gives (.vunzip h vd v1 v2 hb) 3 (fun e => (both h.w (2 * e + if hb then 1 else 0), 0)) ∧
     gives (.vpack h vd v1 v2 sg) 3 (fun e =>
       fromI h.ty h.sat (if sg then (both (2 * h.w) e : Int) else sext (both (2 * h.w) e) (2 * h.w))) ∧
     gives (.vunpk h vd v1 hb) 3 (fun e =>
       let x := elem a ((if hb then n else 0) + e) (h.w / 2);
       (if signed then (sext x (h.w / 2) % 2 ^ h.w).toNat else x, 0))) ∧
  (∀ (h : VH) (vd v1 v2 : BitVec 5) (fm : ElemTy) (hh bb bt : BitVec 2) (e0 : BitVec 6) (hb : Bool) (s : State),
     s.me.r.poison = [] →
     let a := s.me.r.getV h.cl v1
     let ws := tyBits fm
     let m := 2048 / max ws h.w
     let off := hh.toNat * m
     let p := s.me.r.getP h.grd
     let begin_ (lat : Nat) (effs : List Eff) : Out := .next (vecBegin h.cl lat effs s)
     (ws ≤ h.w → exec (.vcvt h vd v1 fm hh) s = begin_ 3 (elemEffs h vd h.w s ((List.range' 0 m).filter fun e => p.getLsbD (e * h.w / 32))
       fun e => convert h.ty fm h.rm h.sat (elem a (if ws = h.w then e else off + e) ws))) ∧
     (h.w < ws → exec (.vcvt h vd v1 fm hh) s = begin_ 3 (elemEffs h vd h.w s
       (((List.range' 0 m).map (off + ·)).filter fun e => p.getLsbD (e * h.w / 32))
       fun e => convert h.ty fm h.rm h.sat (elem a (e - off) ws))) ∧
     (let q := quantise bt.toNat e0.toNat h.rm (quantSrc fm a (s.me.r.getV h.cl v2));
       exec (.vquant h vd v1 v2 fm bb bt e0) s = begin_ 8 (if p.getLsbD (16 * bb.toNat) then
         .v h.cl (s.me.r.physV vd) (BitVec.ofNat 2048 (q.1 <<< (512 * bb.toNat))) (maskElems 512 [bb.toNat]) ::
           (if q.2 = 0 then [] else [.flags q.2]) else [])) ∧
     exec (.vdequant h vd v1 bb hb) s = begin_ 4 (elemEffs h vd h.w s (actives h h.w s) fun e =>
       let c := if h.w = 32 then (if hb then 64 else 0) + e else e
       if c < 124 then
         let v := b4Elem (elem a bb.toNat 512) c
         ((fromF h.ty h.rm false v.1).1, (fromF h.ty h.rm false v.1).2 ||| v.2)
       else (0, 0)))

/-- Vector loads of the pad (R134 to R137): the first active element that reaches beyond the pad raises a pad-range trap; with none,
the first whose address its size does not divide, or for a block of four the base that 64 does not divide, a misaligned-access trap
(that the ranges are tested before the alignments is log entry 66); otherwise each active element takes the bytes at its address;
nothing of the pad is poisoned, and no error is met; that it reads at issue while an older access is open, and that the core keeps
it in mind then (early), is log entry 79. Vector stores of the pad (R134 to R139): after the checks the bytes of the active elements
are withheld, as many entries as 64-byte pieces; every byte of memory reads as before, and a store without an active element
withholds nothing. -/
def Obligations.VectorPadAccess : Prop :=
  (∀ (h : VH) (vd v2 : BitVec 5) (off : BitVec 18) (off' : BitVec 12) (sk st : BitVec 6) (s : State), s.me.r.poison = [] →
     s.dev.poison = [] → s.dev.errs = [] → (∀ w ∈ s.me.wst, w.bad = none) →
     let z := h.w / 8
     let base (o : Nat) : Nat := (s.me.r.getS sk + BitVec.ofNat 64 o).toNat
     let loads : List (Instr × Nat × Nat × (Nat → Nat)) :=
       [(.vld h vd off sk, 4, base off.toNat, fun e => base off.toNat + e * z),
         (.vldb h vd off sk, 4, base off.toNat, fun _ => base off.toNat),
         (.vlds h vd off' sk st, 6, base off'.toNat, fun e => (((base off'.toNat : Int) + e * (s.me.r.getS st).toInt) % 2 ^ 64).toNat),
         (.vldx h vd v2 off sk, 6, base off.toNat, fun e => (base off.toNat + elem (s.me.r.getV h.cl v2) e 32) % 2 ^ 64)]
     ∀ e ∈ loads,
       let act (n : Nat) : Prop := n < 2048 / h.w ∧ active (s.me.r.getP h.grd) n h.w = true
       let out (n : Nat) : Prop := 0x200000 < e.2.2.2 n + z
       let mis (n : Nat) : Prop := if h.ty = .b4 then e.2.2.1 % 64 ≠ 0 else e.2.2.2 n % z ≠ 0
       let traps (c : Byte) (a : Nat) : Prop := exec e.1 s = .next (takeTrap c (BitVec.ofNat 64 a) (BitVec.ofNat 64 z) s)
       (∀ n, act n → out n → (∀ m, m < n → act m → ¬ out m) → traps 0x07 (e.2.2.2 n)) ∧
       (∀ n, act n → mis n → (∀ m, m < n → act m → ¬ mis m) → (∀ m, act m → ¬ out m) →
         traps 0x06 (if h.ty = .b4 then e.2.2.1 else e.2.2.2 n)) ∧
       ((∀ n, act n → ¬ out n ∧ ¬ mis n) → ∃ l, (s.me.open_ = [] → l = s.me.early) ∧
         exec e.1 s = .next (vecBegin h.cl e.2.1 (elemEffs h vd h.w s (actives h h.w s) fun n =>
           (padValue s (padKey s.cur (e.2.2.2 n)) z, 0)) (s.modMe fun k => { k with early := l })))) ∧
  (∀ (h : VH) (vd v2 : BitVec 5) (off : BitVec 18) (off' : BitVec 12) (sk st : BitVec 6) (s : State), s.me.r.poison = [] →
     let z := h.w / 8
     let base (o : Nat) : Nat := (s.me.r.getS sk + BitVec.ofNat 64 o).toNat
     let stores : List (Instr × Nat × (Nat → Nat)) :=
       [(.vst h vd off sk, base off.toNat, fun e => base off.toNat + e * z),
         (.vsts h vd off' sk st, base off'.toNat, fun e => (((base off'.toNat : Int) + e * (s.me.r.getS st).toInt) % 2 ^ 64).toNat),
         (.vstx h vd v2 off sk, base off.toNat, fun e => (base off.toNat + elem (s.me.r.getV h.cl v2) e 32) % 2 ^ 64)]
     ∀ e ∈ stores,
       let cells := (actives h h.w s).flatMap fun n => cellsOf (padKey s.cur (e.2.2 n)) (elem (s.me.r.getV h.cl vd) n h.w) z
       let act (n : Nat) : Prop := n < 2048 / h.w ∧ active (s.me.r.getP h.grd) n h.w = true
       let out (n : Nat) : Prop := 0x200000 < e.2.2 n + z
       let mis (n : Nat) : Prop := if h.ty = .b4 then e.2.1 % 64 ≠ 0 else e.2.2 n % z ≠ 0
       let traps (c : Byte) (a : Nat) : Prop := exec e.1 s = .next (takeTrap c (BitVec.ofNat 64 a) (BitVec.ofNat 64 z) s)
       (∀ n, act n → out n → (∀ m, m < n → act m → ¬ out m) → traps 0x07 (e.2.2 n)) ∧
       (∀ n, act n → mis n → (∀ m, m < n → act m → ¬ mis m) → (∀ m, act m → ¬ out m) →
         traps 0x06 (if h.ty = .b4 then e.2.1 else e.2.2 n)) ∧
       ((∀ n, act n → ¬ out n ∧ ¬ mis n) →
         ∃ t, exec e.1 s = .next t ∧ (∀ k, memRd t.mem k = memRd s.mem k) ∧ t.me.r = s.me.r ∧ t.me.pend = s.me.pend ∧
           (cells = [] → t.me.wst = s.me.wst) ∧
           (cells ≠ [] → ∃ w, t.me.wst = s.me.wst ++ [w] ∧ w.sp = .pad ∧ w.cells = cells ∧ w.entries = piecesOf cells ∧ w.seq = s.order)))

/-- An element result lands in its element and no other (R13 to R16, R76, R115): in the named physical register the active elements
take their results and the others keep their bits; every other register is as before. -/
def Obligations.ElementDeliveries : Prop :=
  ∀ (h : VH) (vd : BitVec 5) (s : State) (f : Nat → Nat × Byte) (r : Regs),
    let effs := elemEffs h vd h.w s (actives h h.w s) f
    let t := effs.foldl (fun r e => r.land e) r
    let at_ (r : Regs) (cl : Cluster) (d : BitVec 5) : VWord :=
      match cl with | .A => r.va[d.toNat]'d.isLt | .B => r.vb[d.toNat]'d.isLt
    (∀ e, e < 2048 / h.w → elem (at_ t h.cl (s.me.r.physV vd)) e h.w =
      if active (s.me.r.getP h.grd) e h.w then (f e).1 % 2 ^ h.w else elem (at_ r h.cl (s.me.r.physV vd)) e h.w) ∧
    (∀ cl d, cl ≠ h.cl ∨ d ≠ s.me.r.physV vd → at_ t cl d = at_ r cl d) ∧
    (∀ i, t.getS i = r.getS i) ∧ t.p = r.p ∧ t.m = r.m ∧ t.n = r.n ∧
    (∀ i, t.fst.getLsbD i = (r.fst.getLsbD i ||
      (List.range (2048 / h.w)).any fun e => active (s.me.r.getP h.grd) e h.w && (f e).2.getLsbD i))

/-- An integer result of width w is wrapped, or clamped to the type's range with SAT (R39). RoundF keeps a value that the format
holds: rounding the value of a pattern that is not a NaN, in any mode, gives the pattern back and raises no flag; the value of a NaN
gives the canonical NaN (R41, R42, R44). Rounding to a multiple of 2^u (R43, R44): toward zero it is the floor of the magnitude,
upward and downward the least and greatest multiple on that side, and to nearest it is off by at most half a step, a tie going to an
even multiple; the result is marked inexact exactly when it differs. Magnitude m × 2^e with e below u. -/
def Obligations.NumberFormats : Prop :=
  (∀ (t : ElemTy) (x : Int), tyI t = true →
     let w := tyBits t
     fromI t false x = ((x % 2 ^ w).toNat, 0) ∧
     (let r := fromI t true x;
       toI t r.1 = max (intLo t) (min x (intHi t)) ∧ r.1 < 2 ^ w ∧ r.2 = if intLo t ≤ x ∧ x ≤ intHi t then 0 else 0x20)) ∧
  (∀ (t : ElemTy) (rm : Rm) (sat : Bool) (x : Nat), (t = .f32 ∨ t = .bf16 ∨ t = .e4m3) → x < 2 ^ tyBits t →
     (toF t x ≠ .nan → roundF t rm sat (toF t x) = (x, 0)) ∧
     (toF t x = .nan → (roundF t rm sat (toF t x)).1 = nanPat t)) ∧
  (∀ (neg : Bool) (m k : Nat) (e : Int),
     let u := e + k
     let q := m / 2 ^ k
     let r := m % 2 ^ k
     (∀ rm, (roundTo rm neg m e u).2 = true ↔ (roundTo rm neg m e u).1 * 2 ^ k ≠ m) ∧
     (roundTo .rz neg m e u).1 = q ∧
     (roundTo .rd neg m e u).1 = (if neg = true ∧ r ≠ 0 then q + 1 else q) ∧
     (roundTo .ru neg m e u).1 = (if neg = false ∧ r ≠ 0 then q + 1 else q) ∧
     (let n := (roundTo .rne neg m e u).1;
       2 * n * 2 ^ k ≤ 2 * m + 2 ^ k ∧ 2 * m ≤ 2 * n * 2 ^ k + 2 ^ k ∧ (2 * m = 2 * q * 2 ^ k + 2 ^ k → n % 2 = 0)))

/-- An engine slot that its loop carrier squashes does not issue (R104): nothing changes. The scale slot (R163, R164): a write of a
block is queued for the first matrix edge from now on that no scale write has taken, and lands after six matrix cycles; scpad traps
on an address beyond the pad. What a landing write gives its block is the formula of its OP. The matrix slot (R144, R146, R162, R165
to R168, R173): an operation whose checks pass is withheld with a snapshot of m0 to m7, its token is pending, and nothing else
changes; each failed check traps. -/
def Obligations.EngineSlots : Prop :=
  (∀ (t : Toks) (e v : BitVec 8) (i lat : BitVec 3) (a scp : BitVec 2) (x y u : Bool) (n q b : BitVec 4) (k : BitVec 7) (s : State),
     s.bun.squash = true →
     ∀ j ∈ [Instr.mcall t e lat a x y, .lload t i lat, .drain t i a x y, .azero t a, .epicfg t i, .cksnap t i a,
         .cpy u t n q k scp x, .cpset u t n q scp, .bcdrv u t n, .bclat u t n q,
         .scset b v, .scadd b v, .scsub b v, .scpad b v, .sccpy b v, .scmax b v, .scmin b v], exec j s = .next s) ∧
  ((∀ (b : BitVec 4) (v : BitVec 8) (s : State), s.bun.squash = false →
     let queued (x : Instr) (op : BitVec 3) (src : Option Nat) : Prop := ∃ t w, exec x s = .next t ∧ t.me.scw = s.me.scw ++ [w] ∧
       w.op = op ∧ w.blk = b ∧ w.val = v ∧ w.src = src ∧ w.left = 6 ∧ w.seq = s.order ∧ t.me.lastSc = some w.at_ ∧
       (let free (x : Nat) : Prop := (∃ n, x = s.me.base + n * s.me.div.mtx) ∧ s.tick ≤ x ∧ ∀ l, s.me.lastSc = some l → l < x
        0 < s.me.div.mtx → free w.at_ ∧ ∀ x, free x → w.at_ ≤ x) ∧ t.me.r = s.me.r ∧ t.mem = s.mem
     let a := (s.me.r.getM 7).toNat % 2 ^ 21 + v.toNat
     queued (.scset b v) 1 none ∧ queued (.scadd b v) 2 none ∧ queued (.scsub b v) 3 none ∧ queued (.sccpy b v) 5 none ∧
     queued (.scmax b v) 6 none ∧ queued (.scmin b v) 7 none ∧
     (a < 0x200000 → queued (.scpad b v) 4 (some (padKey s.cur a))) ∧
     (0x200000 ≤ a → exec (.scpad b v) s = .next (takeTrap 0x07 (BitVec.ofNat 64 a) 1 s))) ∧
   ∀ (old x : Vector Byte 16) (w : ScaleWr),
     let v := (old[w.blk.toNat]'w.blk.isLt).toNat
     let y := (setScale old x w)[w.blk.toNat]'w.blk.isLt
     (w.op = 1 ∨ w.op = 4 → y = w.val) ∧ (w.op = 2 → y.toNat = min 255 (v + w.val.toNat)) ∧ (w.op = 3 → y.toNat = v - w.val.toNat) ∧
     (w.op = 5 → y = old[w.val.toNat % 16]'(Nat.mod_lt _ (by decide))) ∧ (w.op = 6 → y.toNat = max v w.val.toNat) ∧
     (w.op = 7 → y.toNat = min v w.val.toNat) ∧
     ∀ b : BitVec 4, b ≠ w.blk → (setScale old x w)[b.toNat]'b.isLt = x[b.toNat]'b.isLt) ∧
  (∀ (t : Toks) (e : BitVec 8) (i lat : BitVec 3) (acc : BitVec 2) (ck ovw : Bool) (s : State), s.bun.squash = false →
     let d := s.me.r.getM i
     let held (x : Instr) (k : MxKind) : Prop := s.me.tokPending t.tp = false → ∃ u o, exec x s = .next u ∧
       u.me.wmx = s.me.wmx ++ [o] ∧ o.kind = k ∧ o.mp = s.me.r.m ∧ o.tok = t.tp ∧ o.seq = s.order ∧ o.badr = s.bun.adr ∧
       (t.tp ≠ 0 → u.me.tokPending t.tp = true) ∧ u.me.r = s.me.r ∧ u.me.pend = s.me.pend ∧ u.mem = s.mem ∧ u.agenda = s.agenda
     let traps (x : Instr) (c : Byte) (f dt : W64) : Prop := exec x s = .next (takeTrap c f dt s)
     let base := d.toNat % 2 ^ 21
     let str := d.toNat / 2 ^ 24 % 2 ^ 16
     let nrw := d.toNat / 2 ^ 40 % 2 ^ 7
     let ovr : Prop := d.toNat / 2 ^ 48 ≠ 0 ∨ d.toNat / 2 ^ 21 % 8 ≠ 0
     let ll := Instr.lload t i lat
     (s.me.r.entryOk.getLsbD e.toNat = true → held (.mcall t e lat acc ck ovw) (.mcall e lat acc ck ovw)) ∧
     (s.me.r.entryOk.getLsbD e.toNat = false → traps (.mcall t e lat acc ck ovw) 0x03 0 0x01) ∧
     (ovr → traps ll 0x03 0 0x02) ∧
     (¬ ovr → (base % 64 ≠ 0 ∨ str % 64 ≠ 0) → traps ll 0x06 (BitVec.ofNat 64 base) 256) ∧
     (¬ ovr → base % 64 = 0 → str % 64 = 0 → 0x200000 ≤ base + nrw * str + 255 → traps ll 0x07 (BitVec.ofNat 64 base) 256) ∧
     (¬ ovr → base % 64 = 0 → str % 64 = 0 → base + nrw * str + 255 < 0x200000 → held ll (.lload i lat)) ∧
     held (.azero t acc) (.azero acc) ∧
     (d.toNat / 2 ^ 36 ≠ 0 ∨ d.getLsbD 11 = true ∨ (d.getLsbD 9 = true ∧ d.getLsbD 10 = true) → traps (.epicfg t i) 0x03 0 0x05) ∧
     (d.toNat / 2 ^ 36 = 0 → d.getLsbD 11 = false → ¬ (d.getLsbD 9 = true ∧ d.getLsbD 10 = true) →
       ((d.getLsbD 8 = false ∨ d.toNat / 2 ^ 12 % 64 = 0) → held (.epicfg t i) (.epicfg i)) ∧
       (d.getLsbD 8 = true → d.toNat / 2 ^ 12 % 64 ≠ 0 → traps (.epicfg t i) 0x06 (BitVec.ofNat 64 (d.toNat / 2 ^ 12 % 2 ^ 21)) 64)) ∧
     (base % 16 = 0 → base + 528 ≤ 0x200000 → held (.cksnap t i acc) (.cksnap i acc)) ∧
     (base % 16 ≠ 0 → traps (.cksnap t i acc) 0x06 (BitVec.ofNat 64 base) 528) ∧
     (base % 16 = 0 → 0x200000 < base + 528 → traps (.cksnap t i acc) 0x07 (BitVec.ofNat 64 base) 528) ∧
     (drainArgs d (s.me.r.getM (i + 1)) = none → traps (.drain t i acc ck ovw) 0x03 0 0x03) ∧
     (∀ x, drainArgs d (s.me.r.getM (i + 1)) = some x →
       let z := tyBits x.ot / 8
       let n := x.nrw * x.str + (x.ncl + 1) * z
       let fits : Prop := x.adr % 2 ^ 22 + n ≤ stagingSize s s.cur (x.adr / 2 ^ 22 % 32) ∧
         heldByHalyard s (islOf s.cur) x.adr n = false
       let drops (c : Byte) : Prop := traps (.drain t i acc ck ovw) c (BitVec.ofNat 64 x.adr) (BitVec.ofNat 64 z)
       (x.adr % z ≠ 0 ∨ x.str % z ≠ 0 → drops 0x06) ∧
       (x.adr % z = 0 → x.str % z = 0 →
         (x.spc = 1 → 0x200000 < x.adr + n → drops 0x07) ∧ (x.spc = 2 → ¬ fits → drops 0x08) ∧
         ((x.spc = 1 ∧ x.adr + n ≤ 0x200000) ∨ (x.spc = 2 ∧ fits) → held (.drain t i acc ck ovw) (.drain i acc ck ovw)))))

/-- The copy slots (R197, R198, R203, R206, R207): the walk of the nest register is checked; a copy whose checks pass stands last in
its unit's buffer, is counted in ocn.CPC, has its token pending and its bytes assigned to its ring; a bus operation opens its window
at the bus tick of R206. -/
def Obligations.CopySlots : Prop :=
  ∀ (u : Bool) (t : Toks) (nst rng : BitVec 4) (bnd : BitVec 7) (scp : BitVec 2) (be : Bool) (s : State), s.bun.squash = false →
    s.me.tokPending t.tp = false →
    let nest := s.me.r.getN nst
    let free (w : Walk2) : Prop := rng = 0 ∨ ((s.me.getRing rng).created = true ∧
      (s.me.getRing rng).w + w.total ≤ ((s.me.getRing rng).rc + (s.me.getRing rng).slots) * (s.me.getRing rng).target)
    let assigned (w : Walk2) (k : CoreSt) : Prop := rng ≠ 0 → (k.getRing rng).w = (s.me.getRing rng).w + w.total ∧
      (k.getRing rng).users = (s.me.getRing rng).users + 1
    let begun (k : CoreSt) : Prop := k.cpc = s.me.cpc + 1 ∧ (t.tp ≠ 0 → k.tokPending t.tp = true) ∧ k.r = s.me.r ∧ k.pend = s.me.pend
    (∀ e ∈ [(Instr.cpy u t nst rng bnd scp be, 0x01, CopyKind.cpy, if be then some bnd.toNat else none),
        (.cpset u t nst rng scp, 0x02, .cpset, none)],
      (∀ c f d, copyCheck e.2.1 (e.2.2.1 == .cpy) nest s = .inl (c, f, d) → exec e.1 s = .next (takeTrap c f d s)) ∧
      (∀ w, copyCheck e.2.1 (e.2.2.1 == .cpy) nest s = .inr w → free w →
        ∃ v m, exec e.1 s = .next v ∧ (v.me.unit u).buf = (s.me.unit u).buf ++ [m] ∧ m.kind = e.2.2.1 ∧ m.nest = nest ∧ m.ring = rng ∧
          m.bnd = e.2.2.2 ∧ m.scp = scp ∧ m.tok = t.tp ∧ begun v.me ∧ assigned w v.me ∧ (baseSp w.dst ≠ 0 → v.mem = s.mem))) ∧
    (∀ e ∈ [(Instr.bcdrv u t nst, true, (0 : BitVec 4), nestWord nest 1), (.bclat u t nst rng, false, rng, nestWord nest 0)],
      ∀ w, walkOf nest e.2.1 = some w → w.total % 64 = 0 → w.total ≤ 65536 → e.2.2.2.toNat < 4 → (baseSp (if e.2.1 then w.src else w.dst) = 1 ∨ (e.2.1 = true ∧ baseSp w.src = 2)) →
      (w.total = 0 ∨ sideCheck s w e.2.1 = none) → (e.2.1 = false → free w) →
      ∃ v o, exec e.1 s = .next v ∧ v.me.bus = s.me.bus ++ [o] ∧ o.drive = e.2.1 ∧ o.ch.toNat = e.2.2.2.toNat ∧ o.total = w.total ∧
        o.ring = e.2.2.1 ∧ o.tok = t.tp ∧ o.b0 % 4 = 0 ∧ s.tick + 32 ≤ o.b0 ∧ o.b0 < s.tick + 36 ∧ begun v.me ∧
        (e.2.1 = false → assigned w v.me) ∧ v.mem = s.mem)

/-- The micro-operations that take no array cycle (R153, R154): each sets its fields of the running routine and the next PC, and the
eighth in a row costs an array cycle; the others of the routine's fields, the registers and memory stay as they are. The
micro-operations that take the array (R153, R155, R156): mac and macn make a step on the active cells and move both indices on,
within the limits of the type; zero clears the active cells; idle takes its cycles. MacStep (R56, R156): every active cell takes its
old value plus, or minus, the rounded sum of its group's products (that a zero product of integers is +0 is log entry 84); every
byte outside the active cells of the accumulator reads as before. -/
def Obligations.MicroOperations : Prop :=
  (∀ (s : State) (r : Routine) (v : MVal) (l i : BitVec 3) (a q : BitVec 2) (x : Bool) (tg : BitVec 10), s.routine = some r →
     let val : BitVec 16 :=
       (if v.e then BitVec.ofNat 16 ((r.op.mp[v.i.toNat]'v.i.isLt).toNat / 2 ^ (16 * v.q.toNat)) else 0) + v.imm
     let quarter : BitVec 16 := BitVec.ofNat 16 ((r.op.mp[i.toNat]'i.isLt).toNat / 2 ^ (16 * q.toNat))
     let nxt := { r with pc := r.pc + 1 }
     let does (m : Instr) (want : Routine) : Prop := ∃ t w, exec m s = .next t ∧ t.routine = some w ∧
       w = { want with ctl := w.ctl, left := w.left, active := w.active, lead := w.lead, ahead := w.ahead } ∧
       (r.ctl = 7 → w.ctl = 0 ∧ w.left = 1 ∧ w.active = false) ∧ (r.ctl ≠ 7 → w.ctl = r.ctl + 1 ∧ w.left = r.left) ∧
       t.me.r = s.me.r ∧ t.mem = s.mem
     does (.use l a) { nxt with lat := l, acc := a } ∧
     (val.getLsbD 15 = false → val.getLsbD 7 = false →
       does (.act v) { nxt with nr := val.toNat / 256 % 128 + 1, nc := val.toNat % 128 + 1 }) ∧
     (val.getLsbD 15 = true ∨ val.getLsbD 7 = true → exec (.act v) s = .next (s.now .routineFault { argC s.cur with k := 1 })) ∧
     does (.lk v) { nxt with lk := val } ∧ does (.bk v) { nxt with bk := val } ∧
     does (.lkadd v) { nxt with lk := r.lk + val } ∧ does (.bkadd v) { nxt with bk := r.bk + val } ∧
     does (.cnt v x) (if x then { nxt with l1 := val } else { nxt with l0 := val }) ∧
     does (.rep false tg) (if r.l0 = 0 then nxt else { r with l0 := r.l0 - 1, pc := tg.toNat }) ∧
     does (.rep true tg) (if r.l1 = 0 then nxt else { r with l1 := r.l1 - 1, pc := tg.toNat }) ∧
     does (.brz i q tg) (if quarter = 0 then { r with pc := tg.toNat } else nxt) ∧
     (∀ (c : BitVec 4) (ty : ElemTy) (es : Bool), tyOfCode c = some ty → ty ∈ [.bf16, .e4m3, .i8, .b4, .f32] →
       ((es = false ∨ ty = .e4m3 ∨ ty = .b4) → does (.fmt c c es) { nxt with fa := ty, fb := ty, es := es }) ∧
       (es = true → ty ≠ .e4m3 → ty ≠ .b4 → exec (.fmt c c es) s = .next (s.now .routineFault { argC s.cur with k := 2 })))) ∧
  (∀ (s : State) (r : Routine) (n : BitVec 6) (n1 : BitVec 12), s.routine = some r → s.dev.poison = [] →
     s.dev.errs = [] → s.me.r.scBad = [] →
     let fault (i : Instr) (k : Nat) : Prop := exec i s = .next (s.now .routineFault { argC s.cur with k := k })
     let km := match r.fa with | .bf16 => 128 | .b4 => 496 | .f32 => 64 | _ => 256
     let bm := match r.fa with | .bf16 => 16384 | .b4 => 63488 | .f32 => 8192 | _ => 32768
     let cyc := match r.fa with | .bf16 => n.toNat | .b4 => (n.toNat + 3) / 4 | .f32 => 4 * n.toNat | _ => (n.toNat + 1) / 2
     let ok : Prop := 1 ≤ n.toNat ∧ n.toNat ≤ 32 ∧ r.lk.toNat + n.toNat ≤ km ∧ r.bk.toNat + n.toNat ≤ bm
     let steps (i : Instr) (sub : Bool) : Prop := ∃ t w, exec i s = .next t ∧ t.routine = some w ∧ w.pc = r.pc + 1 ∧
       w.lk = r.lk + BitVec.ofNat 16 n.toNat ∧ w.bk = r.bk + BitVec.ofNat 16 n.toNat ∧ w.left = cyc - 1 ∧ w.active = true ∧
       w.flags = (r.flags ||| (macStep s.cur r n.toNat sub s).2) ∧ t.mem = (macStep s.cur r n.toNat sub s).1.mem ∧ t.me.r = s.me.r
     (ok → steps (.mac n) false ∧ steps (.macn n) true) ∧
     (n.toNat = 0 ∨ 32 < n.toNat → fault (.mac n) 1 ∧ fault (.macn n) 1) ∧
     (1 ≤ n.toNat → n.toNat ≤ 32 → km < r.lk.toNat + n.toNat → fault (.mac n) 3 ∧ fault (.macn n) 3) ∧
     (1 ≤ n.toNat → n.toNat ≤ 32 → r.lk.toNat + n.toNat ≤ km → bm < r.bk.toNat + n.toNat → fault (.mac n) 4 ∧ fault (.macn n) 4) ∧
     (r.nr ≤ 128 → r.nc ≤ 128 → ∃ t w, exec .zero s = .next t ∧ t.routine = some w ∧ w.pc = r.pc + 1 ∧ w.left = 0 ∧
       (∀ i j, i < r.nr → j < r.nc → accRd t s.cur r.acc.toNat i j = 0) ∧
       (∀ k, (∀ i j b, i < r.nr → j < r.nc → b < 4 → k ≠ accKey s.cur r.acc.toNat i j + b) → memRd t.mem k = memRd s.mem k)) ∧
     (∃ t w, exec (.idle n1) s = .next t ∧ t.routine = some w ∧ w.pc = r.pc + 1 ∧ w.left = n1.toNat ∧ w.active = false ∧ t.mem = s.mem) ∧
     (r.ran = true → ∃ t, exec .fin s = .next t ∧ t.routine = none ∧ t.me.tail = s.me.tail ++ [(r.op, r.flags)] ∧ t.mem = s.mem ∧
       t.me.r = s.me.r) ∧
     (r.ran = false → ∃ t w, exec .fin s = .next t ∧ t.routine = some w ∧ w.ran = true ∧ w.pc = r.pc ∧ w.left = 1 ∧ w.active = false ∧
       t.mem = s.mem)) ∧
  (∀ (s : State) (c : CoreId) (r : Routine) (n : Nat) (sub : Bool), r.nr ≤ 128 → r.nc ≤ 128 →
     let t := (macStep c r n sub s).1
     let a := r.acc.toNat
     let prod (x y : FRes) : FRes := if r.fa = .i8 ∧ r.fb = .i8 then intProduct (mulR x y) else mulR x y
     (∀ i j, i < r.nr → j < r.nc → accRd t c a i j = (groupAdd sub (accRd s c a i j) ((List.range' 0 n).map fun x =>
       prod ((aVal s c r i (r.lk.toNat + x)).1.scale (escOf (s.core.get c) r i), (aVal s c r i (r.lk.toNat + x)).2)
         (bVal s c r j (r.bk.toNat + x)))).1 % 2 ^ 32) ∧
     (∀ k, (∀ i j b, i < r.nr → j < r.nc → b < 4 → k ≠ accKey c a i j + b) → memRd t.mem k = memRd s.mem k) ∧
     (t.core.get c).r = (s.core.get c).r)

/-- LOAD_DELIVERY (R180, R181, R190): the operation leaves the core's counted operations, its value is delivered now to its
register, with P(j) cleared where the page was not resident, and an acquire's round with it; while an older counted operation into
the same register has not been delivered it waits for the core's next control edge. The steps that answer a core (R190, R214, R340,
R262): racq reads the producer round at the home; a barrier's arrival answers with the captured generation, and moves the island
views when a phase ends; a view update takes the home's generation; an xlinv answers 0; a sweep drops region lines and raises rounds
that lag by 2^46 or more. FORCED_PUBLISH and LINE_CACHE_EVICTION (R250, R348): every released store of the core is performed next;
the line leaves the core's cache, and the filter of its set is rebuilt from the lines that remain. -/
def Obligations.AnswersToACore : Prop :=
  (∀ (s : State) (o : Cop) (v : W64) (clear : Bool),
     let k := s.core.get s.arg.c
     k.loads.find? (·.id == s.arg.id) = some o → o.val = some (v, clear) →
     copPoison s s.arg.c o = none →
     let older := k.loads.any fun x => decide (x.seq < o.seq) && x.dst == o.dst && x.dst != 0
     (older = false → ∃ t, exec .loadDelivery s = .next t ∧
       (t.core.get s.arg.c).loads = k.loads.filter (·.id != o.id) ∧ (⟨.ctl, 0, s.tick, o.seq, .s o.dst v⟩ : Delivery) ∈ (t.core.get s.arg.c).pend ∧
       (clear = true → (⟨.ctl, 0, s.tick, o.seq, .p o.pj 0 0xFFFFFFFFFFFFFFFF⟩ : Delivery) ∈ (t.core.get s.arg.c).pend) ∧
       (∀ r, o.kind = .racq r → (⟨.ctl, 0, s.tick, o.seq, .racq r (v.setWidth 48)⟩ : Delivery) ∈ (t.core.get s.arg.c).pend) ∧
       (∀ d ∈ k.pend, d ∈ (t.core.get s.arg.c).pend) ∧ t.mem = s.mem ∧ (t.core.get s.arg.c).r = k.r) ∧
     (older = true → ∃ t, exec .loadDelivery s = .next t ∧ t.core = s.core ∧ t.mem = s.mem ∧
       t.has (.ev .loadDelivery (argCI s.arg.c o.id)) = true)) ∧
  (∀ s : State,
     (∀ o r, (s.core.get s.arg.c).loads.find? (·.id == s.arg.id) = some o → o.kind = .racq r →
       ∃ t, exec .racqArrival s = .next t ∧ t.dev = s.dev ∧ (traceOn s s.arg.c 8 = false → t.mem = s.mem ∧ t.isl = s.isl) ∧
         { o with val := some ((tget 0 s.dev.prod (roundKey (s.core.get s.arg.c).launch r)).setWidth 64, false) } ∈ (t.core.get s.arg.c).loads) ∧
     (∃ t, exec .barrierArrival s = .next t ∧ t.mem = s.mem ∧
       let b := tget ⟨0, 0, 0, 0⟩ s.dev.barr s.arg.k
       tget ⟨0, 0, 0, 0⟩ t.dev.barr s.arg.k = (b.arrive s.arg.n).2 ∧
       (∀ o ∈ (s.core.get s.arg.c).loads, o.id = s.arg.id →
         { o with val := some (b.g.setWidth 64, false) } ∈ (t.core.get s.arg.c).loads) ∧
       ((b.arrive s.arg.n).2.g ≠ b.g → viewOf t (barrHome s.arg.k) s.arg.k = b.g + 1)) ∧
     (∃ t, exec .barrierViewUpdate s = .next t ∧ viewOf t s.arg.y s.arg.k = BitVec.ofNat 32 s.arg.n ∧ t.mem = s.mem ∧
       ∀ e ∈ t.dev.btok, islOf e.1 = s.arg.y → passed (viewOf t s.arg.y e.2.2.2.1) e.2.2.2.2 = false) ∧
     (∃ t, exec .xlinvComplete s = .next t ∧ t.mem = s.mem ∧ (∀ o ∈ (s.core.get s.arg.c).loads, o.id = s.arg.id →
       { o with val := some (0, false) } ∈ (t.core.get s.arg.c).loads) ∧ t.has (.ev .loadDelivery (argCI s.arg.c s.arg.id)) = true) ∧
     (∃ t, exec .regionSweep s = .next t ∧ t.mem = s.mem ∧
       (∀ e ∈ (t.isl.get s.arg.y).copies, e.2.st = .Rg → aheadBy46 (tget 0 (s.isl.get s.arg.y).rounds e.2.key) e.2.round = false) ∧
       ∀ c n, islOf c = s.arg.y → n < 4096 → ((s.isl.get s.arg.y).rounds.map (·.1)).Nodup →
         let k := s.core.get c
         let up (old : Round) : Round := match tfind (s.isl.get s.arg.y).rounds (roundKey k.launch n) with
           | some v => if aheadBy46 v old then v - 0x400000000000 else old
           | none => old
         tget 0 (t.core.get c).r.rr n = up (tget 0 k.r.rr n) ∧ tget 0 (t.core.get c).r.fl n = up (tget 0 k.r.fl n) ∧
         tget 0 (t.core.get c).ck.rr n = up (tget 0 k.ck.rr n) ∧ tget 0 (t.core.get c).ck.fl n = up (tget 0 k.ck.fl n))) ∧
  (∀ s : State,
     (∃ t, exec .forcedPublish s = .next t ∧ t.mem = s.mem ∧ t.core = s.core ∧
       ∀ w ∈ (s.core.get s.arg.c).sto, t.has (.ev .storePerform (argCI s.arg.c w.id)) = true) ∧
     (∃ t, exec .lineCacheEviction s = .next t ∧ (t.core.get s.arg.c).lc = (s.core.get s.arg.c).lc.filter (· != s.arg.line) ∧
       (∀ l ∈ (t.core.get s.arg.c).lc, lineSet l = lineSet s.arg.line → named t s.arg.c l = true) ∧ t.mem = s.mem))

/-- The halyard controller (R210 to R212): a hoist takes a slot that is neither latest nor pinned and delivers its index; its
landing puts the tile that it has read into the slot, makes it the latest one and advances the round, unless it was displaced; a
sight of an empty halyard delivers status 1, one without a free seat status 2, and any other pins the latest slot; a release gives
pin and seat back; the end of an operation completes its token. -/
def Obligations.HalyardSteps : Prop :=
  ∀ (s : State) (o : HalOp) (x : Halyard), s.hop? s.arg.id = some o → tfind s.dev.hal o.hal = some x →
    (∀ i, chooseSlot s x = some i → x.latest ≠ some i ∧ (∀ e, x.slots[i]? = some e → e.pins = 0) ∧
      ∃ t, exec .hoistSlotTake s = .next t ∧ (t.hop? s.arg.id).map (·.slot) = some (some i) ∧ t.mem = s.mem ∧
        ∃ d ∈ (t.core.get o.core).pend, d.eff = .s o.dst (BitVec.ofNat 64 i)) ∧
    (∀ i, o.slot = some i → o.gone = false → i < x.slots.length → ∃ t y, exec .hoistLand s = .next t ∧ tfind t.dev.hal o.hal = some y ∧
      y.round = x.round + 1 ∧ y.latest = some i ∧ (y.slots[i]?.map (·.round)) = some (x.round + 1) ∧
      t.mem = memWrs s.mem (cellsAt (halKey x.handle (i * x.tile)) o.buf) ∧ t.core = s.core) ∧
    (o.gone = true → ∃ t, exec .hoistLand s = .next t ∧ t.dev = s.dev ∧ t.mem = s.mem) ∧
    (x.latest = none → ∃ t, exec .sightPoint s = .next t ∧ tfind t.dev.hal o.hal = some x ∧
      ∃ d ∈ (t.core.get o.core).pend, d.eff = .s o.dst 1) ∧
    (∀ i, x.latest = some i → x.inUse = x.seats → ∃ t, exec .sightPoint s = .next t ∧ tfind t.dev.hal o.hal = some x ∧
      ∃ d ∈ (t.core.get o.core).pend, d.eff = .s o.dst 2) ∧
    (∀ i e, x.latest = some i → x.inUse ≠ x.seats → x.slots[i]? = some e → ∃ t y, exec .sightPoint s = .next t ∧
      tfind t.dev.hal o.hal = some y ∧ y.inUse = x.inUse + 1 ∧ (y.slots[i]?.map (·.pins)) = some (e.pins + 1) ∧ t.mem = s.mem ∧
      ∃ d ∈ (t.core.get o.core).pend, d.eff = .s o.dst (sightWord (x.round - e.round) i 0)) ∧
    (∀ i e, o.slot = some i → x.slots[i]? = some e → ∃ t y, exec .sightRelease s = .next t ∧ tfind t.dev.hal o.hal = some y ∧
      y.inUse = x.inUse - 1 ∧ (y.slots[i]?.map (·.pins)) = some (e.pins - 1) ∧ t.mem = s.mem) ∧
    ∃ t, exec .halyardTokenComplete s = .next t ∧ t.hop? s.arg.id = none ∧ (t.core.get o.core).til = (s.core.get o.core).til - 1 ∧
      (o.tok ≠ 0 → ((s.core.get o.core).tok[o.tok.toNat]'o.tok.isLt).gen = o.gen → (t.core.get o.core).tokPending o.tok = false) ∧ t.mem = s.mem

/-- The copy units (R197 to R200, R300, R305): a command whose tokens are complete begins; a paused copy resumes; the slack of a
pause that is over lets the unit begin nothing more; at a page crossing the copy takes up the translations of both sides and goes
on, if both pages can be used, and pauses at one that cannot (how a unit then waits is log entry 60, and where a mapping is gone log
entry 102); a complete copy leaves ocn.CPC and completes its token. The broadcast bus (R206 to R208): a beat that its driver has
read goes out, and an open window of the channel puts its 64 bytes at the places of its walk and credits its ring; of two beats on
one channel at one tick the higher core's is lost, and counts a collision there; a closed window completes its operation and its
token. A copy cycle of a cpy, or of a cpset, whose source walk is dense, moves a group: each place of the destination walk reads the
byte of its place in the source walk, the last of several for one place, a zero-filled line reads 0, and every other byte reads as
before (R197, R199, R300). The moment of a copy's reads is log entry 45, a walk that faults is log entry 119, and the bytes of a
latcher that is kept away come later (log entry 79). A walk (R197): position x of a nest with used dimensions has the mixed-radix
digits of x, D0 least significant, and its offset is the sum of digit times stride; every position from 0 to N - 1 lies between the
least and the greatest offset. -/
def Obligations.CopySteps : Prop :=
  (∀ s : State,
     let c := s.arg.c
     let u := s.arg.u
     let k := s.core.get c
     let x := k.unit u
     (∀ m rest, x.buf = m :: rest → x.run = none → x.side = [] → k.depsReady m.deps = true → m.walk.total ≠ 0 →
       ∃ t r, exec .copyBegin s = .next t ∧ ((t.core.get c).unit u).buf = rest ∧ ((t.core.get c).unit u).run = some r ∧ r.x = 0 ∧
         r.cmd.id = m.id ∧ r.cmd.nest = m.nest ∧ t.has (.piece c u) = true ∧ (traceOn s c 8 = false → t.mem = s.mem)) ∧
     (∀ r, x.run = some r → r.paused = true → (pauseOver s c u r = true ∨ ∀ q ∈ x.side, q.paused = true → pauseOver s c u q = false) →
       ∃ t q, exec .copyResume s = .next t ∧ ((t.core.get c).unit u).run = some q ∧ q.paused = false ∧ q.x = r.x ∧ t.mem = s.mem) ∧
     (∀ r q, x.run = some r → r.paused = true → pauseOver s c u r = false →
       x.side.find? (fun e => e.paused && pauseOver s c u e) = some q → ∃ t, exec .copyResume s = .next t ∧
         ((t.core.get c).unit u).run = some { q with pause := none, slack := 0 } ∧ r ∈ ((t.core.get c).unit u).side ∧ t.mem = s.mem) ∧
     (∀ q, x.run = none → x.side.find? (fun e => e.paused && pauseOver s c u e) = some q → ∃ t, exec .copyResume s = .next t ∧
       ((t.core.get c).unit u).run = some { q with pause := none, slack := 0 } ∧
       (∀ e ∈ ((t.core.get c).unit u).side, e.cmd.id ≠ q.cmd.id) ∧ t.mem = s.mem) ∧
     (∃ t, exec .slackExpire s = .next t ∧ (∀ r ∈ ((t.core.get c).unit u).side, r.paused = true → r.cmd.id = s.arg.id →
       r.pauses = s.arg.n → r.slack = 0) ∧ (∀ r ∈ x.side, r.cmd.id ≠ s.arg.id ∨ r.pauses ≠ s.arg.n → r ∈ ((t.core.get c).unit u).side) ∧
       t.mem = s.mem) ∧
     (∀ r b, x.run = some r → baseSp r.cmd.walk.src = 0 → heldAt r.srcPg (r.cmd.walk.srcAt r.x).toNat = none →
       let va := (r.cmd.walk.srcAt r.x).toNat
       copyPage s c u va false = .inr b →
       ∃ t q, exec .copyPageCrossing s = .next t ∧ ((t.core.get c).unit u).run = some q ∧ q.paused = true ∧ q.x = r.x ∧ t.mem = s.mem ∧
         (∀ l e, noLeaf s c va = false → walkVa s (islOf c) k.ctx va = .fault l e → k.xlTrap = none →
           (t.core.get c).xlTrap = some (BitVec.ofNat 64 va, l) ∧ t.isl = s.isl) ∧
         ((noLeaf s c va = true ∨ ∀ l e, walkVa s (islOf c) k.ctx va ≠ .fault l e) →
           (t.isl.get (islOf c)).waiting.length = (s.isl.get (islOf c)).waiting.length + 1)) ∧
     (let usable (sp va : Nat) (wr : Bool) (old new : Option (Nat × Nat × Nat)) : Prop :=
        (sp ≠ 0 ∧ new = none) ∨ (sp = 0 ∧ (heldAt old va).isSome = true ∧ new = old) ∨
          (sp = 0 ∧ heldAt old va = none ∧ (∃ p e, copyPage s c u va wr = .inl (p, e) ∧ new = some p) ∧
            (heldAt new va).any s.biasHeld = false)
      ∀ r p q, x.run = some r → usable (baseSp r.cmd.walk.src) (r.cmd.walk.srcAt r.x).toNat false r.srcPg p →
        usable (baseSp r.cmd.walk.dst) (r.cmd.walk.dstAt r.x).toNat true r.dstPg q →
        ∃ t v, exec .copyPageCrossing s = .next t ∧ ((t.core.get c).unit u).run = some v ∧ v.cmd = r.cmd ∧ v.x = r.x ∧
          v.pause = r.pause ∧ v.srcPg = p ∧ v.dstPg = q ∧ t.has (.piece c u) = true ∧ t.mem = s.mem) ∧
     (∀ r, x.side.find? (fun r => r.cmd.id == s.arg.id) = some r → ∃ t, exec .copyComplete s = .next t ∧
       (t.core.get c).cpc = k.cpc - 1 ∧ (∀ q ∈ ((t.core.get c).unit u).side, q.cmd.id ≠ s.arg.id) ∧
       (r.cmd.tok ≠ 0 → (k.tok[r.cmd.tok.toNat]'r.cmd.tok.isLt).gen = r.cmd.gen → (t.core.get c).tokPending r.cmd.tok = false) ∧
       t.mem = s.mem)) ∧
  (∀ s : State,
     (∀ c o b, (s.core.get c).bus = [o] → islOf c = s.arg.y → o.drive = true → o.ch.toNat = s.arg.k → o.beat s.tick = some b →
       (∀ d, d ≠ c → islOf d = s.arg.y → ∀ q ∈ (s.core.get d).bus, q.drive = true → q.ch.toNat ≠ s.arg.k) →
       ∃ t, exec .broadcastBeat s = .next t ∧ ∀ d, tget 0 (t.core.get d).tele 15 = tget 0 (s.core.get d).tele 15) ∧
     (∀ c d o q b e, c < d → islOf c = s.arg.y → islOf d = s.arg.y → (s.core.get c).bus = [o] → (s.core.get d).bus = [q] →
       o.drive = true → q.drive = true → o.ch.toNat = s.arg.k → q.ch.toNat = s.arg.k → o.beat s.tick = some b → q.beat s.tick = some e →
       ∃ t, exec .broadcastBeat s = .next t ∧ tget 0 (t.core.get d).tele 15 = (tget 0 (s.core.get d).tele 15 + 1) % 2 ^ 64) ∧
     (∀ c d o q b m, c ≠ d → islOf c = s.arg.y → islOf d = s.arg.y → (s.core.get c).bus = [o] → (s.core.get d).bus = [q] →
       (∀ e, e ≠ c → e ≠ d → islOf e = s.arg.y → (s.core.get e).bus = []) → o.drive = true → q.drive = false →
       o.ch.toNat = s.arg.k → q.ch.toNat = s.arg.k → o.beat s.tick = some b → q.beat s.tick = some m →
       (s.core.get c).depsReady o.deps = true → (s.core.get d).depsReady q.deps = true →
       s.sideKept c (baseSp o.walk.src) ((List.range' (64 * b) 64).map (o.key s c)) false = false →
       portRivals s c (o.seq % 8) o.id (o.banks b) = 0 →
       q.late = [] → s.sideKept d 1 ((List.range 64).map fun i => padKey d (q.walk.dstAt (64 * m + i)).toNat) true = false →
       ∃ t, exec .broadcastBeat s = .next t ∧
         t.mem = memWrs s.mem ((List.range 64).map fun i =>
           (padKey d (q.walk.dstAt (64 * m + i)).toNat, memRd s.mem (o.key s c (64 * b + i)))) ∧
         (q.ring ≠ 0 → let g := (s.core.get d).getRing q.ring
           ∀ sl, tget 0 ((t.core.get d).getRing q.ring).arrived sl =
             tget 0 g.arrived sl + (List.range 64).countP fun i => (q.w0 + 64 * m + i) / g.target % g.slots == sl)) ∧
     ∀ o, (s.core.get s.arg.c).bus.find? (·.id == s.arg.id) = some o →
       let late := o.late.map (·.2.1)
       (s.sideKept s.arg.c 1 (late.map (·.1)) true = true → ∃ t, exec .bclatComplete s = .next t ∧ t.core = s.core ∧ t.mem = s.mem ∧
         t.has (.ev .bclatComplete s.arg) = true) ∧
       (s.sideKept s.arg.c 1 (late.map (·.1)) true = false → ∃ t, exec .bclatComplete s = .next t ∧ t.mem = memWrs s.mem late ∧
       (o.lag = 0 → (t.core.get s.arg.c).bus = (s.core.get s.arg.c).bus.filter (·.id != s.arg.id) ∧
         (t.core.get s.arg.c).cpc = (s.core.get s.arg.c).cpc - 1 ∧
         (o.tok ≠ 0 → ((s.core.get s.arg.c).tok[o.tok.toNat]'o.tok.isLt).gen = o.gen → (t.core.get s.arg.c).tokPending o.tok = false)) ∧
       (o.lag ≠ 0 → (t.core.get s.arg.c).cpc = (s.core.get s.arg.c).cpc ∧
         ∃ e ∈ t.agenda, e.due = .ev .bclatComplete s.arg ∧ e.at_ = s.tick + o.lag * (s.core.get s.arg.c).div.cpy))) ∧
  (∀ (s : State) (t0 r0 : Nat) (rest : List Entry) (c : CoreId) (u : Bool) (r : CopyRun), s.agenda = ⟨t0, r0, .piece c u⟩ :: rest →
     let s0 : State := { s with agenda := rest, tick := max s.tick t0 }
     let w := r.cmd.walk
     let n := r.group
     let here (y : Nat) : Prop := r.x ≤ y ∧ y < r.x + n
     let rd (t : State) (k : Nat) : Nat := if baseSp w.dst = 0 then cohRd t k 1 else (memRd t.mem k).toNat
     let src (y : Nat) : Nat := ((srcKey s c r y).map fun k =>
       if baseSp w.src = 0 then keyRd s (s.coreKey c) k 1 else (memRd s.mem k).toNat).getD 0
     ((s.core.get c).unit u).run = some r → r.stop = false → r.pause = none → r.part = [] → s.dev.lineKey = [] →
     r.x < w.total → (∀ y, here y → writtenWith w y < r.x + n ∧ (∀ z ∈ readWith w y, r.x ≤ z) ∧ (srcKey s c r y).isSome = true ∧
       (dstKey s c r y).isSome = true) →
     (baseSp w.src = 0 → ∀ y k, srcKey s c r y = some k → regionOf s c (w.srcAt y).toNat = none ∨ lineHome (k / 128) = islOf c) →
     copyKept s0 c r n = false → (hostLines s0 c r n).all r.asked.contains = true →
     let moved (val : Nat → Nat) : Prop := ∃ t, step s = .next t ∧
       (∀ y k, here y → dstKey s c r y = some k → (∀ z, here z → y < z → dstKey s c r z ≠ some k) → rd t k = val y) ∧
       ∀ k, (∀ y, here y → dstKey s c r y ≠ some k) → rd t k = rd s k
     ((lineWaits s0 c r r.x).all (fun g => !g.2) = true → (portWait c u r n s0).1 = false → moved src) ∧
     (∀ g, lineWaits s0 c r r.x = some (g, true) → g.zero = true → moved fun _ => 0)) ∧
  ((∀ (c : Nat) (t : Int) (l : Dims) (i x : Nat), i < c → walkOff ((c, t) :: l) (i + c * x) = i * t + walkOff l x) ∧
   ∀ (l : Dims) (x : Nat), (∀ d ∈ l, 0 < d.1) → walkLo l ≤ walkOff l x ∧ walkOff l x ≤ walkHi l)

/-- The matrix unit's completions (R157, R159, R162, R164, R166 to R168, R173): an operation that is complete leaves its path and
ocn.TIL, and its results stand; while an early access of the core keeps its path away it is due again (log entry 79); a routine
fault stops the array path and makes the trap due. The current-slew limiter (R272 to R274): a grant slot grants the lowest cores
that ask, at most as many as a slot grants; a window that ends opens the next one; a ramp down charges the fillers' energy to the
context whose operation the array ran and to the total, and charges nothing from level 1. An epicfg that begins on the drain path
sets the stored configuration to its snapshot of its parameter register, and leaves it so when it completes (R167). A drain (R168,
R170, R173): at its start it takes from each of its cells the output of the epilogue, in the order of rows and columns, and its
flags; it zeroes the cells if it clears, after they are read; with ck it checks each column and counts the outcome, and a mismatch
sends a record; that a declined check has outcome bit 2 alone and mixed values count so is log entry 68, that an infinite sum
declines it log entry 31, and that all bytes are read and written at these moments log entry 121. -/
def Obligations.MatrixCompletions : Prop :=
  (∀ s : State,
     let c := s.arg.c
     let k := s.core.get c
     let til (t : State) : Prop := (t.core.get c).til = k.til - 1
     (∃ t, exec .scaleWriteLand s = .next t ∧ (t.core.get c).scw = k.scw.filter (·.left != 0) ∧ t.mem = s.mem ∧
       ∀ w, k.scw.filter (·.left == 0) = [w] → (t.core.get c).r.scale = setScale k.r.scale k.r.scale w) ∧
     (∀ o f l, k.tail = (o, f) :: l → ∀ i ∈ [Instr.routineComplete, .azeroComplete], ∃ t, exec i s = .next t ∧ (t.core.get c).tail = l ∧ til t ∧
       t.mem = s.mem ∧ (f ≠ 0 → ∃ d ∈ (t.core.get c).pend, d.eff = .flags f)) ∧
     (∀ r, k.arun = .call r → ∃ t, exec .routineFault s = .next t ∧ (t.core.get c).arun = .idle ∧ (t.core.get c).astop = true ∧
       (t.core.get c).fc = BitVec.ofNat 4 s.arg.k ∧ (t.core.get c).mxTrap = some r.op ∧ t.mem = s.mem) ∧
     let again (i : Instr) : Prop := ∃ t, exec i s = .next t ∧ t.core = s.core ∧ t.mem = s.mem ∧ t.has (.ev i (argC c)) = true
     (∀ o i lat, k.lrun = some o → o.kind = .lload i lat →
       let d := o.mp[i.toNat]'i.isLt
       (lloadKept s c d = true → again .lloadComplete) ∧
       (lloadKept s c d = false → ∃ t, exec .lloadComplete s = .next t ∧ (t.core.get c).lrun = none ∧ til t ∧
         ∀ row b, row ≤ lloadNrw d → b < 256 →
           memRd t.mem (latKey c lat.toNat row b) = memRd s.mem (padKey c (lloadBase d + row * lloadStr d) + b))) ∧
     (∀ o w f, k.drun = some (o, w, f) →
       (s.pathKept c (w.map (·.1)) true = true → again .drainComplete) ∧
       (s.pathKept c (w.map (·.1)) true = false →
         ∃ t, exec .drainComplete s = .next t ∧ (t.core.get c).drun = none ∧ til t ∧ t.mem = memWrs s.mem w) ∧
       (∃ t, exec .epicfgComplete s = .next t ∧ (t.core.get c).drun = none ∧ til t ∧ t.mem = s.mem ∧ (t.core.get c).epi = k.epi) ∧
       (∀ i a, o.kind = .cksnap i a →
         let cells := carryBytes (k.carry[a.toNat]'a.isLt) (padKey c ((o.mp[i.toNat]'i.isLt).toNat % 2 ^ 21))
         (s.pathKept c (cells.map (·.1)) true = true → again .cksnapComplete) ∧
         (s.pathKept c (cells.map (·.1)) true = false → ∃ t, exec .cksnapComplete s = .next t ∧ (t.core.get c).drun = none ∧ til t ∧
           memRdN t.mem (padKey c ((o.mp[i.toNat]'i.isLt).toNat % 2 ^ 21) + 512) 4 = ((k.carry[a.toNat]'a.isLt).out).toNat)))) ∧
  (∀ s : State,
     let c := s.arg.c
     let asks (t : State) (d : CoreId) : Prop := islOf d = s.arg.y ∧ (t.core.get d).slew = .asked
     (∃ t, exec .slewGrantSlot s = .next t ∧ ((s.isl.get s.arg.y).trb.getLsbD 8 = false → t.mem = s.mem) ∧
       (∀ d, asks t d → asks s d) ∧ (∀ d e, asks s d → asks s e → d < e → ¬ asks t e → ¬ asks t d) ∧
       (let waits (u : State) : Nat := (coreIds.filter fun d => islOf d == s.arg.y && (u.core.get d).slew == .asked).length
        waits s - waits t = min (natBits ((s.isl.get s.arg.y).slrAt s.tick).toNat 11 8) (waits s))) ∧
     (∃ t, exec .rampWindow s = .next t ∧ t.mem = s.mem ∧
       (∀ l p a r ups st, (s.core.get c).slew = .up l p (a :: r) ups st → (t.core.get c).slew = .up a 0 r ups st) ∧
       (∀ l p ups st, (s.core.get c).slew = .down l p ups st →
         (t.core.get c).slew = if l ≤ 1 then .cold else .down (l - 1) 0 ups st)) ∧
     (∃ t, exec .rampDown s = .next t ∧ (traceOn s c 8 = false → t.mem = s.mem) ∧
       let slr := (s.isl.get (islOf c)).slrAt s.tick
       let cx := (s.core.get c).arrCtx
       (∀ l p r ups st, (s.core.get c).slew = .up l p r ups st →
         (t.core.get c).slew = if l ≤ 1 then .cold else .down (l - 1) 0 (upsOf slr) (stepOf slr)) ∧
       (∀ p r ups st, (s.core.get c).slew = .up 1 p r ups st → t.dev = s.dev) ∧
       (t.ctxOf cx).filler - (s.ctxOf cx).filler = (t.ctxOf cx).energy - (s.ctxOf cx).energy ∧
       t.dev.total - s.dev.total = (t.ctxOf cx).energy - (s.ctxOf cx).energy)) ∧
  (∀ (s : State) (c : CoreId) (o : MxOp) (i : BitVec 3) (rest : List MxOp), (s.core.get c).dq = o :: rest → o.kind = .epicfg i →
     (s.core.get c).drun = none → (s.core.get c).depsReady o.deps = true → beginKept s c o = false →
     let t := drainPathBegin c s
     (t.core.get c).epi = o.mp[i.toNat]'i.isLt ∧ (t.core.get c).dq = rest ∧ (t.core.get c).drun.map (·.1) = some o ∧ t.mem = s.mem ∧
       (t.core.get c).r = (s.core.get c).r ∧
       ∃ e ∈ t.agenda, e.due = .ev .epicfgComplete (argC c) ∧ e.at_ = s.tick + (s.core.get c).div.mtx) ∧
  ∀ (s : State) (c : CoreId) (o : MxOp) (x : DrainArgs) (a : BitVec 2) (ck clr : Bool), x.nrw < 128 → x.ncl < 128 →
    let k := s.core.get c
    let e := k.epi
    let z := tyBits x.ot / 8
    let rm := rmOfCode (e.extractLsb' 33 2)
    let sat := e.getLsbD 35
    let act := (e.extractLsb' 9 2).toNat
    let badr := (e.extractLsb' 12 21).toNat
    let t := drainBegin c o x a ck clr s
    let old (i j : Nat) : Nat := accRd s c a.toNat i j
    let cell (i j : Nat) : FVal := toF .f32 (old i j)
    let nv (n : Nat) : Byte := if isSnan .f32 n then 0x01 else 0
    ((e.getLsbD 8 = true → badr + 4 * (x.ncl + 1) ≤ 0x200000) →
      ∃ (out : Nat → Nat → Nat) (fl : Nat → Nat → Byte) (f : Byte),
        (t.core.get c).drun = some (o, (List.range (x.nrw + 1)).flatMap fun i => (List.range (x.ncl + 1)).flatMap fun j =>
          cellsOf (drainKey s c x.spc (x.adr + i * x.str + j * z)) (out i j) z, f) ∧
        (∀ b, f.getLsbD b = true ↔ ∃ i j, i ≤ x.nrw ∧ j ≤ x.ncl ∧ (fl i j).getLsbD b = true) ∧
        ∀ i j, i ≤ x.nrw → j ≤ x.ncl →
          let bias := memRdN s.mem (padKey c (badr + 4 * j)) 4
          let v := (cell i j).scale (((e.extractLsb' 0 8).toNat : Int) - 128)
          let u := if e.getLsbD 8 then addF rm v (toF .f32 bias) else (v, 0)
          let y := roundF .f32 rm sat u.1
          let p := toF .f32 y.1
          let q := if act = 1 ∧ p.isNan = false ∧ (FVal.fin false 0 0).lt p = false then (0, 0)
            else if act = 2 ∧ p.lt (.fin false 0 0) = true then roundF .f32 rm sat (p.scale (-3)) else (y.1, 0)
          let w := fromF x.ot rm sat (toF .f32 q.1)
          out i j = w.1 ∧ fl i j = nv (old i j) ||| (if e.getLsbD 8 then nv bias else 0) ||| u.2 ||| y.2 ||| q.2 ||| w.2) ∧
    (clr = false → t.mem = s.mem) ∧
    (clr = true → (∀ i j, i ≤ x.nrw → j ≤ x.ncl → accRd t c a.toNat i j = 0) ∧
      ∀ n, (∀ i j b, i ≤ x.nrw → j ≤ x.ncl → b < 4 → n ≠ accKey c a.toNat i j + b) → memRd t.mem n = memRd s.mem n) ∧
    (let v := k.check[a.toNat]'a.isLt
     let sum (j : Nat) : FVal := toF .f32 (roundF .f32 .rne false (groupSum ((List.range 128).map fun i => (cell i j, 0))).1).1
     let h (j : Nat) : FVal := toF .f32 (tget 0 v.h j).toNat
     let g (j : Nat) : FVal := toF .f32 (tget 0 v.g j).toNat
     let declined : Prop := v.special = true ∨ ∃ j, j ≤ x.ncl ∧ ((∃ i, i ≤ x.nrw ∧ (cell i j).isFin = false) ∨
       (sum j).isInf = true ∨ (h j).isInf = true ∨ (g j).isInf = true)
     let passes (j : Nat) : Prop :=
       let dif := (addF .rne (sum j) (h j).flip).1.mag
       let tol := (mulF (.fin false (v.steps + 1) 0) (addF .rne ((g j).scale (-22)) (.fin false 1 (-140))).1).1
       dif.isNan = false ∧ if v.allI8 = true ∧ (g j).isNan = false ∧ (FVal.fin false 1 24).lt (g j) = false then dif.isZero = true
         else tol.isNan = false ∧ tol.lt dif = false
     let counts (n : Fin 4) : Prop := (t.core.get c).cks = k.cks.set n.val ((k.cks[n.val]'n.isLt) + 1) n.isLt
     let ends (b : BitVec 5) : Prop := ((t.core.get c).carry[a.toNat]'a.isLt).out = b
     let sent (n : Nat) : Prop := (t.isl.get (islOf c)).waiting.length = (s.isl.get (islOf c)).waiting.length + n
     (ck = false → (t.core.get c).cks = k.cks ∧ ends 0 ∧ sent 0) ∧
     (ck = true → v.valid = false → counts 3 ∧ ends 0x10 ∧ sent 0) ∧
     (ck = true → v.valid = true → declined → counts 2 ∧ ends 0x04 ∧ sent 0) ∧
     (ck = true → v.valid = true → ¬ declined → (∀ j, j ≤ x.ncl → passes j) → counts 0 ∧ ends 0x03 ∧ sent 0) ∧
     (ck = true → v.valid = true → ¬ declined → (∃ j, j ≤ x.ncl ∧ ¬ passes j) → counts 1 ∧ ends 0x09 ∧ sent 1))

/-- CHECKPOINT and SAFE_POINT (R204, R220, R223, R230, R233, R234). That released pad stores are written at the checkpoint is log
entries 14 and 79, and that a core which leaves does so once it is still is log entries 75 and 41. SWITCH_POINT and PHASE_MARKER
(R235, R237). -/
def Obligations.CheckpointSteps : Prop :=
  (∀ s : State,
     let c := s.arg.c
     let k := s.core.get c
     (∃ t, exec .checkpoint s = .next (dispatch t) ∧ (t.core.get c).r = k.r ∧ (t.core.get c).ck = k.r ∧ (t.core.get c).ckSeq = k.seq * 8 - 1 ∧
       (t.core.get c).wst = [] ∧ (t.core.get c).wmx = [] ∧ (t.core.get c).pops = [] ∧ (t.core.get c).ring = k.ring.map Ring.release ∧
       (k.wmx = [] ∨ traceOn s c 14 = false → t.mem = (k.wst.filter (·.sp == .pad)).foldl (fun m w => memWrs m w.cells) s.mem) ∧
       ∀ w ∈ k.wst, w.sp ≠ .pad → w ∈ (t.core.get c).sto ∧ t.has (.ev .storePerform (argCI c w.id)) = true) ∧
     (∃ t, exec .safePoint s = .next t ∧ (t.core.get c).since = 1 ∧ (t.core.get c).overrun = false ∧
       (k.run = .running → k.preempt = true → ∀ i, freeSlot s k.ctx = some i → (t.core.get c).run = .saving ∧
         (t.core.get c).saveTo = some i) ∧
       (k.preempt = false → k.pullClosed = none → k.pullEmpty = none →
         t = s.modC c fun k => { k with since := 1, overrun := false, saveTo := none }) ∧
       (∀ n, k.run = .running → k.preempt = false → k.still = true → k.pend.any (·.eff.isPush) = false → k.r.held = none →
         k.pullClosed = some n → n + 1 < k.seq →
         (t.core.get c).run = .unbound ∧ (t.core.get c).launch = none))) ∧
  (∀ s : State,
     let c := s.arg.c
     let k := s.core.get c
     (s.bun.body = true ∨ s.bun.target.isSome = true ∨ switchAt k s.bun.nxt = none → exec .switchPoint s = .next s) ∧
     (∀ i v, s.bun.body = false → s.bun.target = none → switchAt k s.bun.nxt = some (i, v) →
       let e := tget 0xFFFFFFFF k.sw (3 * i + k.granted.toNat)
       (k.granted.toNat ≠ v → k.granted ≠ 3 → k.swVpr.getLsbD k.granted.toNat = true → e ≠ 0xFFFFFFFF →
         exec .switchPoint s = .next (s.modC c fun k => { k with gap := 2, r := { k.r with pc := k.codeBase + e.setWidth 64 } })) ∧
       (k.granted.toNat = v ∨ k.granted = 3 ∨ k.swVpr.getLsbD k.granted.toNat = false ∨ e = 0xFFFFFFFF → exec .switchPoint s = .next s)) ∧
     ∃ t, exec .phaseMarker s = .next t ∧ t.core = (s.modC c fun k => { k with r := { k.r with phase := k.r.phase + 1 } }).core ∧
       t.mem = s.mem ∧ t.isl = s.isl)

/-- RECORD_POST, SFI_OVERRUN and REQUESTED_STOP (R234, R357, R390, R391): consumed poison is logged also when its record is dropped.
POISON_CONSUMED (R382): a core that holds an item, now or at its checkpoint, has its pennant purged and is unbound; one without an
item rolls back and stays stopped, and the record is on its way once its kept deliveries have landed (R231). That an item held only
at the checkpoint counts is log entry 101. -/
def Obligations.RecordSteps : Prop :=
  (∀ s : State,
     let y := s.arg.y
     let i := s.isl.get y
     let c := s.arg.c
     let k := s.core.get c
     (i.waiting = [] → exec .recordPost s = .next s) ∧
     (∀ r rest, i.waiting = r :: rest → queueFull i = true → ∃ t, exec .recordPost s = .next t ∧
       (t.isl.get y).waiting = i.waiting.filter (fun r => r.kind != 0) ∧
       (t.isl.get y).rqd = i.rqd + BitVec.ofNat 64 (i.waiting.filter fun r => r.kind == 0).length ∧
       t.dev.elN = s.dev.elN + (i.waiting.filter fun r => r.kind == 0 && r.cause == 0x34).length ∧
       (t.isl.get y).rqt = i.rqt ∧ t.mem = s.mem ∧ t.core = s.core) ∧
     (∀ r rest, i.waiting = r :: rest → queueFull i = false → ∃ t, exec .recordPost s = .next t ∧
       (t.isl.get y).waiting = rest ∧ (t.isl.get y).rqt = i.rqt + 1 ∧ (t.isl.get y).rqh = i.rqh ∧ (t.isl.get y).rsn = i.rsn + 1 ∧
       (r.cause ≠ 0x34 → t.mem = (putWords (natBits i.rqb.toNat 51 14 * 16384 + 64 * i.rqt.toNat) (recWords r i.rsn)
         (s.modI y fun i => { i with waiting := rest })).mem) ∧
       (r.cause ≠ 0x21 → (∀ d, (s.core.get d).resumeDue = false) → t.core = s.core) ∧
       (∀ d, islOf d = y → (s.core.get d).resumeDue = true → (rest.any fun r => r.kind != 0 && r.core == coreField d) = false →
         (t.core.get d).run = .running ∧ (t.core.get d).resumeDue = false)) ∧
     (∃ t, exec .sfiOverrun s = .next t ∧ t.core = (s.modC c fun k => { k with overrun := true }).core ∧ t.mem = s.mem ∧
       (t.isl.get (islOf c)).waiting = (s.isl.get (islOf c)).waiting ++
         [⟨7, k.penOf, k.ctx, coreField c, 0, 0x30, k.r.pc, BitVec.ofNat 64 k.cyc, k.sfi, 0, 0, 0, 0⟩]) ∧
     (k.run ≠ .running → exec .requestedStop s = .next s) ∧
     (k.run = .running → ∃ t, exec .requestedStop s = .next t ∧ (t.core.get c).run = .stopped 0x21 ∧ (t.core.get c).r = k.r ∧
       (t.core.get c).pend = k.pend ∧ (t.core.get c).stepArm = 0)) ∧
  (∀ s : State,
     let c := s.arg.c
     let k := s.core.get c
     let r : Rec := ⟨BitVec.ofNat 3 s.arg.m, k.penOf, k.ctx, coreField c, 0, 0x34, BitVec.ofNat 64 s.arg.line, BitVec.ofNat 64 k.cyc, s.arg.v,
       BitVec.ofNat 64 (s.arg.n % 2 ^ 16 + s.arg.flag.toNat * 2 ^ 16), 0, 0, 0⟩
     (k.run = .unbound ∨ k.run = .dark → exec .poisonConsumed s = .next s) ∧
     (k.run ≠ .unbound → k.run ≠ .dark → k.r.held = none → k.ck.held = none → ∃ t, exec .poisonConsumed s = .next t ∧
       (t.core.get c).run = .trapped 0x34 ∧ (t.core.get c).r = k.ck ∧ (t.core.get c).wst = [] ∧ t.mem = s.mem ∧
       let was := (s.isl.get (islOf c)).waiting ++ (k.rec_.map k.recOf).toList
       let due : Prop := (∀ d ∈ k.pend, k.ckSeq < d.seq) ∧ (∀ o ∈ k.loads, k.ckSeq < o.seq) ∧
         ∀ o ∈ s.dev.hops, o.core = c → o.slot.isSome = true ∨ o.status ≠ 0 ∨ o.gone = true
       (due → (t.isl.get (islOf c)).waiting = was ++ [r] ∧ (t.core.get c).rec_ = none) ∧
       (¬ due → (t.isl.get (islOf c)).waiting = was ∧ (t.core.get c).rec_ = some r ∧ t.has (.edge c) = true)) ∧
     (∀ i, k.run ≠ .unbound → k.run ≠ .dark → k.r.held.or k.ck.held = some i → isMgmt c = false → purgeBlock s k.ctx i.pen = false →
       ∃ t, exec .poisonConsumed s = .next t ∧ purgeBlock t k.ctx i.pen = true ∧ (t.core.get c).run = .unbound ∧
         (t.core.get c).r.held = none))

/-- HOST_LAUNCH_TRIGGER and LAUNCH_STATUS_WRITE (R319, R320, R326): the record is read once and checked, and within 4 us its status
is in the slot and the GO byte is 0. LAUNCH_START (R322, R325, R328): a launch that may start runs, with the lowest core of stage 0
as its lead; MINC cores of every stage are bound in that step; its barriers and regions start anew, the barriers also beside another
launch of the context (log entries 37 and 35). The dispatcher then acts again: it touches no queue's registers, no register of a
core, and no storage outside the staging ranges. -/
def Obligations.LaunchSteps : Prop :=
  (∀ s : State,
     let q := s.arg.k % 256
     let m := s.arg.m % 16
     let s1 : State := { s with mem := memWr s.mem (slotKey q m + 255) 0x5A }
     (∀ w, tfind s.dev.parsing (q * 16 + m) = some w →
       exec .hostLaunchTrigger s = .next (s.modD fun d => { d with collide := d.collide + 1 })) ∧
     (tfind s.dev.parsing (q * 16 + m) = none → s.dev.lwb.getLsbD 0 = false → exec .hostLaunchTrigger s = .next s1) ∧
     (tfind s.dev.parsing (q * 16 + m) = none → s.dev.lwb.getLsbD 0 = true → ∃ t, exec .hostLaunchTrigger s = .next (dispatch t) ∧
       t.mem = s1.mem ∧ tfind t.dev.parsing (q * 16 + m) = some (takeRecord (memRdN s1.mem (slotKey q m) 256) 0 true none s1).1 ∧
       ∃ e ∈ t.agenda, e.due = .ev .launchStatusWrite { Arg.zero with k := q, m := m } ∧ s.tick < e.at_ ∧
         e.at_ ≤ s.tick + 4 * Config.usTicks) ∧
     (∀ w, tfind s.dev.parsing (q * 16 + m) = some w → ∃ t, exec .launchStatusWrite s = .next t ∧
       memRdN t.mem (slotKey q m + 0xF0) 8 = w.toNat ∧ memRd t.mem (slotKey q m + 255) = 0 ∧
       tfind t.dev.parsing (q * 16 + m) = none ∧ t.core = s.core ∧
       (∀ a, (a < slotKey q m + 0xF0 ∨ slotKey q m + 255 < a ∨ (slotKey q m + 0xF7 < a ∧ a < slotKey q m + 255)) →
         memRd t.mem a = memRd s.mem a)) ∧
     (tfind s.dev.parsing (q * 16 + m) = none → exec .launchStatusWrite s = .next s)) ∧
  (∀ (s : State) (l : Launch) (cs : List (CoreId × Nat)),
     tfind s.dev.pool s.arg.n = some l → mayStart s s.arg.n l = true → startCores s l = some cs → l.lst = false →
     ∃ t x, exec .launchStart s = .next (dispatch t) ∧ tfind t.dev.pool s.arg.n = some x ∧ x.st = .running ∧
       x.lead = (cs.find? fun e => e.2 == 0).map (·.1) ∧ x.sn = l.sn ∧
       (∀ e ∈ cs, (t.core.get e.1).run = .running ∧ (t.core.get e.1).launch = some s.arg.n ∧ (t.core.get e.1).ctx = l.ctx ∧
         (t.core.get e.1).stg = BitVec.ofNat 3 e.2 ∧ t.has (.edge e.1) = true) ∧
       (∀ c, c ∉ cs.map (·.1) → (t.core.get c).r = (s.core.get c).r ∧ (t.core.get c).run = (s.core.get c).run) ∧
       (∀ b, b / 256 = l.ctx.toNat → (tget ⟨0, 0, 0, 0⟩ t.dev.barr b).g = 0 ∧ ∀ y, viewOf t y b = 0) ∧
       ∀ r ∈ l.regions, tget 0 t.dev.prod (roundKey (some s.arg.n) r.index) = 0 ∧
         ∀ y, tget 0 (t.isl.get y).rounds (roundKey (some s.arg.n) r.index) = 0) ∧
  (∀ s : State, (dispatch s).dev.sq = s.dev.sq ∧ (∀ c, ((dispatch s).core.get c).r = (s.core.get c).r ∧
     ((dispatch s).core.get c).run = (s.core.get c).run) ∧
     ∀ a, a < stgKey 0 0 0 ∨ holdKey 0 ≤ a → memRd (dispatch s).mem a = memRd s.mem a)

/-- BIND (R13, R14, R210, R330): a free core that the stage is to have takes the bind values: registers 0, predicates 0 but p0,
scale blocks 128, tokens complete, the stage entry as its pc, its effective divisors, and a control edge to come, on a reference
tick that 4 divides; with another context its pad, column store, edge latches and accumulators are zero. INITIAL_ITEM_APPEND (R322):
the next initial item stands at the tail of stage 0's queue, if it has room. -/
def Obligations.BindSteps : Prop :=
  (∀ (s : State) (l : Launch),
     let c := s.arg.c
     let n := s.arg.n
     tfind s.dev.pool n = some l → l.st = .running → freeCore s c = true → s.arg.k < 8 → stageFor s n l c = some s.arg.k →
     savedAt s n l s.arg.k = none →
     ∃ t, exec .bind s = .next (dispatch t) ∧
       let k := t.core.get c
       k.run = .running ∧ k.ctx = l.ctx ∧ k.launch = some n ∧ k.stg.toNat = s.arg.k ∧ k.wfw = l.wfw ∧ k.sfi = l.sfi ∧ k.cyc = 0 ∧
       k.r.s = .replicate 64 0 ∧ k.r.va = .replicate 32 0 ∧ k.r.vb = .replicate 32 0 ∧ (∀ i, k.r.rawP i = if i = 0 then BitVec.allOnes 64 else 0) ∧
       k.r.m = .replicate 8 0 ∧ k.r.n = .replicate 16 0 ∧ k.r.scale = .replicate 16 128 ∧
       k.r = { Regs.init with pc := k.r.pc, entryOk := k.r.entryOk } ∧ k.r.mode = .idle ∧ k.r.held = none ∧ k.r.fst = 0 ∧
       some k.r.pc = l.stages[s.arg.k]?.map (·.entry) ∧ k.ck = k.r ∧ k.div = effDiv t c ∧ (∀ x, k.tokPending x = false) ∧
       k.loads = [] ∧ k.wst = [] ∧ t.has (.edge c) = true ∧ k.base % 4 = 0 ∧ s.tick ≤ k.base ∧
       (s.has (.edge c) = false → ∃ e ∈ t.agenda, e.due = .edge c ∧ e.at_ = k.base) ∧
       (traceOn s c 14 = false → ((s.core.get c).ctx = l.ctx → t.mem = s.mem) ∧
         ((s.core.get c).ctx ≠ l.ctx → (∀ a, a < 0x200000 → memRd t.mem (padKey c a) = 0) ∧
           (∀ j o, j < 128 → o < 0x8000 → memRd t.mem (colKey c j o) = 0) ∧
           (∀ x i b, x < 8 → i < 128 → b < 256 → memRd t.mem (latKey c x i b) = 0) ∧
           ∀ a i j, a < 4 → i < 128 → j < 128 → accRd t c a i j = 0))) ∧
  (∀ (s : State) (l : Launch) (x : StageSt) (rest : List StageSt),
     tfind s.dev.pool s.arg.n = some l → l.stages = x :: rest → l.lst = false → purgeBlock s l.ctx l.pen = false →
     (l.st = .running → l.fed < l.nit → x.occ < x.cap → ∃ t m, exec .initialItemAppend s = .next (dispatch t) ∧
       tfind t.dev.pool s.arg.n = some m ∧ m.fed = l.fed + 1 ∧
       m.stages = { x with q := x.q ++ [⟨l.itm + BitVec.ofNat 64 l.fed, l.pen, []⟩] } :: rest ∧ t.mem = s.mem ∧ t.core = s.core) ∧
     (l.st ≠ .running ∨ l.nit ≤ l.fed ∨ x.cap ≤ x.occ → exec .initialItemAppend s = .next (dispatch s)))

/-- Queues (R327 to R329): QCTL, QPER, QBUD, a period boundary and a budget overrun; after each the dispatcher acts.
PREEMPTION_REQUEST and PREEMPTION_SAVE_DONE (R362, R363): a bound core is asked if its context has a free save slot; once its state
is in the slot that it took at its safe point, the slot holds its stage and its item, and the core is unbound. The layout of the
slot's bytes is log entry 10. -/
def Obligations.QueueSteps : Prop :=
  (∀ s : State,
     let q := queueNo s.arg.k
     let x := s.sqOf q
     let v := s.arg.v
     (∃ t, exec .qctlWrite s = .next (dispatch t) ∧ (t.sqOf q).en = v.getLsbD 0 ∧ (t.sqOf q).hold = v.getLsbD 1 ∧ (t.sqOf q).irq = v.getLsbD 2 ∧
       (pendingOf s q = 0 → queueCores s q = [] → (t.sqOf q).ctx = v.extractLsb' 8 7) ∧
       (pendingOf s q ≠ 0 ∨ queueCores s q ≠ [] → (t.sqOf q).ctx = x.ctx) ∧ t.mem = s.mem ∧
       ∀ c, (t.core.get c).r = (s.core.get c).r ∧ (t.core.get c).run = (s.core.get c).run) ∧
     (let p := (v.extractLsb' 0 20).toNat
      ∃ t, exec .qperWrite s = .next (dispatch t) ∧ t.mem = s.mem ∧
       (admitted s q p x.budNext = true → (t.sqOf q).perNext = p ∧ (t.sqOf q).budNext = x.budNext) ∧
       (admitted s q p x.budNext = false → t.dev.admf = true ∧ t.dev.sq = s.dev.sq)) ∧
     (let b := (v.extractLsb' 0 32).toNat
      ∃ t, exec .qbudWrite s = .next (dispatch t) ∧ t.mem = s.mem ∧
       (admitted s q x.perNext b = true → (t.sqOf q).budNext = b ∧ (t.sqOf q).perNext = x.perNext) ∧
       (admitted s q x.perNext b = false → t.dev.admf = true ∧ t.dev.sq = s.dev.sq)) ∧
     (x.start = none → exec .periodBoundary s = .next s) ∧
     (∀ u, x.start = some u → s.tick = u + x.per * Config.usTicks → ∃ t, exec .periodBoundary s = .next (dispatch t) ∧ t.mem = s.mem ∧
       (t.sqOf q).used = 0 ∧ (t.sqOf q).per = x.perNext ∧ (t.sqOf q).bud = x.budNext ∧ (t.sqOf q).index = x.index + 1 ∧
       (t.sqOf q).raised = false ∧ (t.sqOf q).start = if x.perNext = 0 then none else some s.tick) ∧
     (let a := (accrue q s).sqOf q
      a.start.isSome = true → a.raised = false → queueCores s q ≠ [] → a.bud * Config.usTicks ≤ a.used →
       ∃ t, exec .budgetOverrun s = .next (dispatch t) ∧ (t.sqOf q).ovr = true ∧ (t.sqOf q).raised = true ∧ t.mem = s.mem ∧
         ∀ c ∈ queueCores s q, (t.isl.get (islOf c)).waiting.length = (s.isl.get (islOf c)).waiting.length + 1)) ∧
  (∀ s : State,
     let c := s.arg.c
     let k := s.core.get c
     (isMgmt c = false → k.run ≠ .unbound → k.run ≠ .saving → (freeSlot s k.ctx).isSome = true →
       exec .preemptionRequest s = .next (s.modC c fun k => { k with preempt := true })) ∧
     (isMgmt c = true ∨ k.run = .unbound ∨ k.run = .saving ∨ freeSlot s k.ctx = none → exec .preemptionRequest s = .next s) ∧
     (k.run ≠ .saving → exec .preemptionSaveDone s = .next s) ∧
     (∀ i n l, k.run = .saving → k.saveTo = some i → k.launch = some n → tfind s.dev.pool n = some l →
       let pa := slotBase (s.ctxOf k.ctx) i
       ∃ t, exec .preemptionSaveDone s = .next (dispatch t) ∧ (t.core.get c).run = .unbound ∧ (t.core.get c).launch = none ∧
         (t.core.get c).saveTo = none ∧ (t.core.get c).r.held = none ∧
         (t.ctxOf k.ctx).slots = (s.ctxOf k.ctx).slots ++ [⟨i, k.stg.toNat, n, k.r.held.isSome, k.r.poison, savedSrc s k, k.r.scBad, k.ubad⟩] ∧
         let s1 := claimRange (s.ctxKey k.ctx) pa 0x800000 (flushRange pa (pa + 0x800000) (chargeCtx k.ctx s))
         (k.samples = [] →
           t.mem = memWrs (memZero s1.mem pa (pa + 0x800000)) (slotCells s1 c (handleWord n l.sn) pa))))

/-- CTXC_WRITE, KEY_LOAD and KEY_ERASE (R331, R345, R361, R398). Memory keys: a line reads in clear under the key of its last
writer, under every key while no context has written it, and under its slot while a cache holds it with that tag; a line of the
first tier that is claimed for a write reads in clear under its new key (R345; that the last writer's key is the line's, and that a
line which no context has written reads in clear, is log entry 8). PGIN_SERVICE and the bias flips (R341, R342, R344): a page under
migration gets no frame; a page that goes to device bias is invalidated in the host's caches line by line before. Which frame a page
gets, and that a migration shows in the instructions of R341, is log entry 18. -/
def Obligations.ContextAndPageSteps : Prop :=
  (∀ s : State,
     let cx : BitVec 7 := BitVec.ofNat 7 s.arg.k
     let x := s.ctxOf cx
     let v := s.arg.v
     let ksl := v.extractLsb' 8 7
     (ctxBusy s cx = false → v.getLsbD 0 = true → x.en = false →
       (enableErr s x ksl = 0 → (partOfCtx s cx.toNat).isSome = true → ∃ t, exec .ctxcWrite s = .next t ∧
         t.ctxOf cx = { x with en := true, ksl := ksl, err := 0, energy := 0 } ∧ t.mem = s.mem ∧ t.core = s.core) ∧
       (enableErr s x ksl ≠ 0 → ∃ t, exec .ctxcWrite s = .next t ∧ t.ctxOf cx = { x with err := enableErr s x ksl })) ∧
     (ctxBusy s cx = false → v.getLsbD 0 = false → ∃ t, exec .ctxcWrite s = .next t ∧
       t.ctxOf cx = { x with en := false, ksl := ksl }) ∧
     (ctxBusy s cx = true → ksl ≠ x.ksl → v.getLsbD 0 = x.en → ∃ t, exec .ctxcWrite s = .next t ∧
       t.ctxOf cx = x ∧ t.dev.busyWr = s.dev.busyWr + 1) ∧
     (∃ t, exec .keyLoad s = .next t ∧ (t.dev.key[cx.toNat]'cx.isLt) = ⟨true, (s.isl.get s.arg.y).keyw⟩ ∧
       (t.isl.get s.arg.y).keyw = 0 ∧ t.mem = s.mem ∧ t.core = s.core) ∧
     ((s.dev.cx.toList.any fun x => x.en && x.ksl == cx) = true → exec .keyErase s = .next s) ∧
     ((s.dev.cx.toList.any fun x => x.en && x.ksl == cx) = false → ∃ t, exec .keyErase s = .next t ∧
       (t.dev.key[cx.toNat]'cx.isLt) = ⟨false, 0⟩ ∧ t.isl = s.isl ∧ t.mem = s.mem)) ∧
  (∀ (s : State) (k : SlotKey) (line : Nat) (d : BitVec 1024),
     (tfind s.dev.lineKey line = none → seenLine s (some k) line d = d) ∧
     (∀ g, tfind s.dev.lineKey line = some (g, k.2) → cachedKey s k.1 line = none → seenLine s (some k) line d = d) ∧
     (∀ w, tfind s.dev.lineKey line = some w → cachedKey s k.1 line = some w.2 → seenLine s (some k) line d = d) ∧
     (∀ w, tfind s.dev.lineKey line = some w → (cachedKey s k.1 line).getD k.2 ≠ w.2 →
       seenLine s (some k) line d = Config.xtsDecrypt ((cachedKey s k.1 line).getD k.2) line (Config.xtsEncrypt w.2 line d)) ∧
     (∀ v, line < 0x60000000 → seenLine (claimLine (some k) line s) (some k) line v = v) ∧
     (line < 0x60000000 → tfind (claimLine (some k) line s).dev.lineKey line = some k ∧
       ∀ l, l ≠ line → tfind (claimLine (some k) line s).dev.lineKey l = tfind s.dev.lineKey l)) ∧
  (∀ s : State,
     let y := s.arg.y
     let p := s.arg.n
     ((s.isl.get y).pgq = [] → exec .pginService s = .next s) ∧
     (∀ r rest e lvl ea n, (s.isl.get y).pgq = r :: rest →
       let s1 := s.modI y fun i => { i with pgq := rest }
       walkVa s1 y r.cx r.page = .leaf e lvl ea n → pteRes e = false → pteAdr e ≠ 0 →
       (s.dev.migr.contains ea = true → exec .pginService s = .next s1) ∧
       (s.dev.migr.contains ea = false → ∃ u frame,
         exec .pginService s = .next (cohWr (fillFrame frame (pteAdr e) n u) ea 8 ((e.toNat - pteAdr e) + frame + 4)) ∧
         (u.isl.get y).pgq = rest ∧ frame % 2 ^ n = 0 ∧ u.mem = s.mem ∧ u.core = s.core)) ∧
     (s.dev.bfBusy.isSome = true → ∀ i ∈ [Instr.biasFlipToHost, .biasFlipToDevice],
       exec i s = .next (s.modD fun d => { d with bfIgn := d.bfIgn + 1 })) ∧
     (s.dev.bfBusy = none →
       (s.dev.devBias.contains p = false → exec .biasFlipToHost s = .next (s.modD fun d => { d with bfDone := true })) ∧
       (s.dev.devBias.contains p = true → exec .biasFlipToDevice s = .next (s.modD fun d => { d with bfDone := true })) ∧
       (s.dev.devBias.contains p = true → ∃ t, exec .biasFlipToHost s = .next t ∧ t.dev.bfBusy = some (p, true) ∧ t.mem = s.mem ∧
         t.dev.devBias = s.dev.devBias ∧ t.has (.ev .biasFlipComplete Arg.zero) = true) ∧
       (s.dev.devBias.contains p = false → ∃ t, exec .biasFlipToDevice s = .next t ∧ t.dev.bfBusy = some (p, false) ∧
         t.dev.bfInv = List.range' (32 * p) 32 ∧ t.mem = s.mem ∧ t.dev.devBias = s.dev.devBias ∧ t.has (.ev .biasFlipComplete Arg.zero) = true)) ∧
     (∀ q, s.dev.bfBusy = some (q, false) →
       (s.dev.bfInv.length ≤ 1 → ∃ t, exec .biasFlipComplete s = .next t ∧ t.dev.bfBusy = none ∧ t.dev.bfDone = true ∧
         t.dev.devBias = q :: s.dev.devBias ∧ t.mem = s.mem) ∧
       (1 < s.dev.bfInv.length → ∃ t, exec .biasFlipComplete s = .next t ∧ t.dev.bfBusy = s.dev.bfBusy ∧
         t.dev.bfInv.length + 1 = s.dev.bfInv.length ∧ t.dev.devBias = s.dev.devBias ∧ t.mem = s.mem ∧
         t.has (.ev .biasFlipComplete Arg.zero) = true)) ∧
     (∀ q, s.dev.bfBusy = some (q, true) → copyOn s q = false → hopOn s q = false → accessOn s q = false → pageMoving s q = false → ∃ t, exec .biasFlipComplete s = .next t ∧
       t.dev.bfBusy = none ∧ t.dev.bfDone = true ∧ t.dev.devBias = s.dev.devBias.filter (· != q) ∧
       (∀ c, ∀ l ∈ (t.core.get c).lc, l / 32 ≠ q) ∧ ∀ y, (∀ e ∈ (t.isl.get y).copies, e.1 / 32 ≠ q) ∧
         ∀ e ∈ (t.isl.get y).shelf, e.line / 32 ≠ q))

/-- REGISTER_WRITE (R6, R319, R327, R331, R343, R345, R357, R361, R368, R376, R377, R390, R392, R400, R403, R404): the register
holds what its fields can of the value: reserved bits are ignored, those of TRB too (log entry 56); with a period in SCP a scrub is
due. -/
def Obligations.PlainRegisterWrites : Prop :=
  ∀ (s : State) (r : RegName) (v : W64),
    let w : State := { s with arg := { s.arg with rg := r, v := v } }
    ∃ t, exec .registerWrite w = .next t ∧ t.mem = s.mem ∧
      match r with
      | .lwb => t.dev.lwb = v &&& 0xFFFFFFFF00001
      | .admf => t.dev.admf = (s.dev.admf && !v.getLsbD 0)
      | .qsta q => (t.sqOf q).ovr = ((s.sqOf q).ovr && !v.getLsbD 0)
      | .ctx cx k => (ctxBusy s cx = true → t.dev = { s.dev with busyWr := s.dev.busyWr + 1 }) ∧
          (ctxBusy s cx = false → k ≠ 0 → k ≠ 7 → ctxRegWord t cx.toNat k.toNat = kept v (ctxMask k))
      | .keyw y k => (t.isl.get y).keyw = setWord (s.isl.get y).keyw k v
      | .shq y => (t.isl.get y).shq = v &&& 0xFFFF
      | .cut y => (t.isl.get y).cut = v &&& 0xFFFFFFFF0000007F
      | .rq y k => (t.isl.get y).rqt = (s.isl.get y).rqt ∧
          (k = 0 → (t.isl.get y).rqb = v &&& 0xFFFFFFFFFC000) ∧
          (k = 1 → (t.isl.get y).rqh = v.setWidth 8) ∧
          (k = 3 → (t.isl.get y).rqd = 0)
      | .dbg y k => let c := coreNo (y.val * 32 + k.toNat)
          (t.core.get c).dbgEn = v.getLsbD 0 ∧ (t.core.get c).dbgStep = v.getLsbD 2 ∧
            ((s.core.get c).run = .running → (t.core.get c).dbgStop = ((s.core.get c).dbgStop || v.getLsbD 1))
      | .tr y k => (k = 0 → (t.isl.get y).trb = v &&& 0xFFFFFFFFF7FFF) ∧ (k = 2 → (t.isl.get y).trr = v) ∧
          (t.isl.get y).trw = (s.isl.get y).trw
      | .ops y => (t.isl.get y).trp = ((s.isl.get y).trp && !v.getLsbD 39)
      | .lim y => (t.isl.get y).lim = v &&& 0xFFFF
      | .opti y => (t.isl.get y).opti = v.setWidth 10
      | .optd0 y => (t.isl.get y).optd0 = v &&& 0xFFFFFFFFFF000001
      | .bfs => t.dev.bfDone = (s.dev.bfDone && !v.getLsbD 1)
      | .scp => t.dev.scp = v &&& 0xFFFF ∧ (v &&& 0xFFFF ≠ 0 → ∃ e ∈ t.agenda, ∃ a, e.due = .ev .patrolScrub a ∧ a.flag = false) ∧
          (v &&& 0xFFFF = 0 → ∀ e ∈ t.agenda, ∀ a, e.due = .ev .patrolScrub a → a.flag = true)
      | .fwa => t.dev.fwa = v &&& 0xFFFFFFFFFF000
      | .nonce k => (t.dev.nonce.extractLsb' (64 * k.toNat) 64) = v

/-- RDS, RDO and UPG at a home that no other request waits at (R352, R353): a line without an entry is granted from memory; an entry
that is not busy changes as the table of R353 says, and its messages go out; a busy one keeps the request waiting. The rows of R353
for a request of island y that is not the home: what the entry becomes, and who supplies the line. -/
def Obligations.HomeRequests : Prop :=
  (∀ s : State,
     let h := s.arg.h
     let y := s.arg.y
     let line := s.arg.line
     let i := s.isl.get h
     i.hq = [] → ∀ r ∈ [(Instr.rds, (0 : Fin 3)), (.rdo, 1), (.upg, 2)],
       (tfind i.dir line = none → y ≠ h → (i.dir.filter fun e => filterSet e.1 == filterSet line).length < 16 →
         ∃ t, exec r.1 s = .next t ∧ t.mem = s.mem ∧ (t.isl.get h).hq = [] ∧
           tfind (t.isl.get h).dir line = some ⟨if r.2 = 0 then .E else .M, y, [], some ⟨y, [], false, false, none, [], false⟩, s.tick, none⟩ ∧
           t.has (.ev .data { argY y with line := line, gr := if r.2 = 0 then .E else .M, data := memLine s line }) = true) ∧
       (∀ e, tfind i.dir line = some e → e.busy.isSome = true → ∃ t, exec r.1 s = .next t ∧ t.mem = s.mem ∧
         (t.isl.get h).hq = [⟨line, y, r.2⟩] ∧ (t.isl.get h).dir = i.dir) ∧
       (∀ e, tfind i.dir line = some e → e.busy = none →
         let p := planOf h (some e) y r.2
         ∃ t, exec r.1 s = .next t ∧ t.mem = s.mem ∧ (t.isl.get h).hq = [] ∧
           tfind (t.isl.get h).dir line =
             some ⟨p.st, p.owner, p.share, some ⟨y, p.inv, p.go, p.up, p.fwd.map (·.2), [], false⟩, s.tick, e.wb⟩ ∧
           (∀ g, p.mem = some g → t.has (.ev .data { argY y with line := line, gr := g, flag := !p.inv.isEmpty, data := memLine s line }) = true) ∧
           (∀ f, p.fwd = some f →
             t.has (.ev (if f.2 then .fwdo else .fwds) { argY y with x := f.1, line := line, flag := !p.inv.isEmpty }) = true) ∧
           (∀ x ∈ p.inv, t.has (.ev .inv { Arg.zero with x := x, line := line }) = true) ∧
           (p.go = true → p.inv = [] → t.has (.ev .go { argY y with line := line, flag := p.up }) = true))) ∧
  (∀ (h y x : Isl) (set : List Isl) (b : Option Busy) (u : Nat) (w : Option (Isl × BitVec 1024)), y ≠ h → x ≠ y →
     let plus := if set.contains y then set else set ++ [y]
     let rest := set.filter (· != y)
     let p (st : DirSt) (o : Isl) (k : Fin 3) : Plan := planOf h (some ⟨st, o, set, b, u, w⟩) y k
     (p .S x 0 = ⟨.S, y, plus, some .S, none, [], false, false⟩) ∧
     (p .S x 1 = ⟨.M, y, [], some .M, none, rest, !rest.isEmpty, false⟩) ∧
     (set.contains y = true → p .S x 2 = ⟨.M, y, [], none, none, rest, true, true⟩) ∧
     (set.contains y = false → p .S x 2 = p .S x 1) ∧
     (p .E x 0 = ⟨.S, y, [x, y], none, some (x, false), [], false, false⟩) ∧
     (p .M x 0 = ⟨.O, x, [y], none, some (x, false), [], false, false⟩) ∧
     (∀ st ∈ [DirSt.E, .M], ∀ k ∈ [(1 : Fin 3), 2], p st x k = ⟨.M, y, [], none, some (x, true), [], false, false⟩) ∧
     (p .O x 0 = ⟨.O, x, plus, none, some (x, false), [], false, false⟩) ∧
     (∀ k ∈ [(1 : Fin 3), 2], (p .O x k).st = .M ∧ (p .O x k).owner = y ∧ (p .O x k).fwd = some (x, true) ∧
       ∀ z, z ∈ (p .O x k).inv ↔ z ∈ set ∧ z ≠ y ∧ z ≠ x) ∧
     ((p .O y 2).st = .M ∧ (p .O y 2).owner = y ∧ (p .O y 2).up = true ∧ (p .O y 2).inv = rest.filter (· != y)))

/-- ACK, CMP, WB, CE, FWDACK, BACK and BACKD at a home that no request waits at (R351 to R355). -/
def Obligations.HomeAnswers : Prop :=
  ∀ (s : State) (e : DirEnt),
    let h := s.arg.h
    let x := s.arg.x
    let line := s.arg.line
    let written := memWrs s.mem (lineCells line s.arg.data)
    let wback (t : State) : Prop := t.has (.ev .wback { Arg.zero with x := x, line := line }) = true
    let ent (t : State) : Option DirEnt := tfind (t.isl.get h).dir line
    let kept (e : DirEnt) : Option DirEnt := if e.busy.isNone && e.holders.isEmpty then none else some e
    (s.isl.get h).hq = [] → tfind (s.isl.get h).dir line = some e →
    (∀ b, e.busy = some b → b.go = true → ∃ t, exec .ack s = .next t ∧ t.mem = s.mem ∧
      (b.acks.filter (· != x) = [] → ent t = some { e with busy := some { b with acks := [], go := false } } ∧
        t.has (.ev .go { argY b.req with line := line, flag := b.up }) = true) ∧
      (b.acks.filter (· != x) ≠ [] → ent t = some { e with busy := some { b with acks := b.acks.filter (· != x) } })) ∧
    (∀ b, e.busy = some b → b.req = s.arg.y → b.back = [] → b.inst = true ∨ s.arg.y ≠ h →
      (e.wb = none → ∃ t, exec .cmp s = .next t ∧ t.mem = s.mem ∧ ent t = kept { e with busy := none }) ∧
      (∀ z d, e.wb = some (z, d) →
        let e1 := { e with busy := none, wb := none }
        ∃ t, exec .cmp s = .next t ∧ t.has (.ev .wback { Arg.zero with x := z, line := line }) = true ∧
          (e.owner = z → e.st ≠ .S → t.mem = memWrs s.mem (lineCells line d) ∧ ent t = kept (e1.without z)) ∧
          (e.owner ≠ z ∨ e.st = .S → t.mem = s.mem ∧ ent t = kept e1))) ∧
    (∀ b, e.busy = some b → b.req ≠ s.arg.y ∨ b.back ≠ [] ∨ b.inst = false ∧ s.arg.y = h →
      ∃ t, exec .cmp s = .next t ∧ t.mem = s.mem ∧ ent t = some e) ∧
    (∃ t, exec .ce s = .next t ∧ t.mem = s.mem ∧ ent t = kept (e.without x)) ∧
    (e.busy.isSome = true → ∃ t, exec .wb s = .next t ∧ t.mem = s.mem ∧ ent t = some { e with wb := some (x, s.arg.data) }) ∧
    (e.busy = none → e.owner = x → e.st ≠ .S → ∃ t, exec .wb s = .next t ∧ t.mem = written ∧ ent t = kept (e.without x) ∧ wback t) ∧
    (e.busy = none → e.owner ≠ x ∨ e.st = .S → ∃ t, exec .wb s = .next t ∧ t.mem = s.mem ∧ ent t = some e ∧ wback t) ∧
    (s.arg.flag = false → exec .fwdack s = .next s) ∧
    (∀ b z d, s.arg.flag = true → e.busy = some b → e.wb = some (z, d) → ∃ t, exec .fwdack s = .next t ∧ wback t ∧
      (b.fwd = some true → t.mem = s.mem ∧ ent t = some { e with wb := none }) ∧
      (b.fwd ≠ some true → t.mem = memWrs s.mem (lineCells line d) ∧ ent t = some { e.without x with wb := none })) ∧
    (∀ b, e.busy = some b → e.wb = none → ∀ i ∈ [Instr.back, .backd], ∃ t, exec i s = .next t ∧
      t.mem = (if i = .backd then written else s.mem) ∧
      (b.back.filter (· != x) = [] → ent t = none) ∧
      (b.back.filter (· != x) ≠ [] → ent t = some { e with busy := some { b with back := b.back.filter (· != x) } }))

/-- FWDS, FWDO, INV, BINV, DATA, GO and WBACK at an island (R349, R351, R352, R355). That a FWDS at a clean entry whose copy is not
S writes memory is log entry 81. HOST_MEM_ACCESS, HOST_SNOOP and EXPANDER_BACK_INVALIDATION (R318, R344, R356). That an access to
the launch window comes with m = 1 and the mask of its bytes is log entry 100. -/
def Obligations.HolderSteps : Prop :=
  (∀ s : State,
     let x := s.arg.x
     let y := s.arg.y
     let line := s.arg.line
     let h := lineHome line
     let sends (g : Grant) (d : BitVec 1024) : Due := .ev .data { argY y with line := line, gr := g, flag := s.arg.flag, data := d }
     let ackd (b : Bool) : Due := .ev .fwdack { Arg.zero with h := h, line := line, x := x, flag := b }
     let a : Arg := { Arg.zero with h := h, line := line, x := x }
     let copy (t : State) (z : Isl) : Option Copy := (tfind (t.isl.get z).copies line).filter fun c => c.st != .Rg
     let ent (t : State) : Option DirEnt := tfind (t.isl.get h).dir line
     let written := memWrs s.mem (lineCells line s.arg.data)
     let clean : Prop := ∃ e, ent s = some e ∧ e.st = .S
     (∀ c, copy s x = some c → ∃ t, exec .fwds s = .next t ∧ t.has (sends .S c.data) = true ∧ t.has (ackd false) = true ∧
       (¬ clean ∨ c.st = .S → t.mem = s.mem) ∧ (clean → c.st ≠ .S → t.mem = memWrs s.mem (lineCells line c.data)) ∧
       (c.st = .E ∨ y = h ∨ clean → copy t x = some { c with st := .S }) ∧
       (c.st ≠ .E → y ≠ h → ¬ clean → copy t x = some { c with st := .O })) ∧
     (∀ c, copy s x = some c → ∃ t, exec .fwdo s = .next t ∧ t.mem = s.mem ∧ t.has (sends .M c.data) = true ∧ t.has (ackd false) = true ∧
       copy t x = none) ∧
     (∀ d, copy s x = none → tfind (s.isl.get x).wbuf line = some d → ∀ i ∈ [(Instr.fwds, Grant.S), (.fwdo, .M)],
       ∃ t, exec i.1 s = .next t ∧ t.mem = s.mem ∧ t.has (sends i.2 d) = true ∧ t.has (ackd true) = true) ∧
     (∃ t, exec .inv s = .next t ∧ t.mem = s.mem ∧ copy t x = none ∧ t.has (.ev .ack a) = true ∧
       ∀ c, islOf c = x → named s c line = true → line ∉ (t.core.get c).lc) ∧
     (∃ t, exec .binv s = .next t ∧ t.mem = s.mem ∧ copy t x = none ∧
       (∀ c, copy s x = some c → t.has (if c.st = .M ∨ c.st = .O then .ev .backd { a with data := c.data } else .ev .back a) = true) ∧
       (∀ d, copy s x = none → tfind (s.isl.get x).wbuf line = some d → t.has (.ev .backd { a with data := d }) = true) ∧
       (copy s x = none → tfind (s.isl.get x).wbuf line = none → t.has (.ev .back a) = true)) ∧
     (∀ e b, s.arg.flag = false → y = h → ent s = some e → e.busy = some b → b.req = h → b.back = [] → ∃ t, exec .data s = .next t ∧
       ent t = some { e with busy := some { b with inst := true } } ∧ t.mem = (if b.fwd.isSome then written else s.mem) ∧
       t.has (.ev .cmp { argY y with h := h, line := line }) = true) ∧
     (s.arg.flag = false → y ≠ h → ∃ t, exec .data s = .next t ∧ t.mem = s.mem ∧ t.has (.ev .cmp { argY y with h := h, line := line }) = true ∧
       copy t y = some ⟨match s.arg.gr with | .S => .S | .E => .E | .M => .M, s.arg.data, 0, 0, none⟩ ∧
       ∀ m ∈ (t.isl.get y).mshr, m.line ≠ line) ∧
     (∀ m, s.arg.flag = true → (s.isl.get y).mshr = [m] → m.line = line → m.go = false → ∃ t, exec .data s = .next t ∧ t.mem = s.mem ∧
       (t.isl.get y).mshr = [{ m with wait := true, data := some (s.arg.gr, s.arg.data) }] ∧ copy t y = copy s y) ∧
     (∀ m g d, (s.isl.get y).mshr.find? (·.line == line) = some m → m.data = some (g, d) → y ≠ h → ∃ t, exec .go s = .next t ∧ t.mem = s.mem ∧
       copy t y = some ⟨match g with | .S => .S | .E => .E | .M => .M, d, 0, 0, none⟩ ∧
       t.has (.ev .cmp { argY y with h := h, line := line }) = true) ∧
     (∀ m c, (s.isl.get y).mshr.find? (·.line == line) = some m → m.data = none → s.arg.flag = true → copy s y = some c → y ≠ h →
       ∃ t, exec .go s = .next t ∧ t.mem = s.mem ∧ copy t y = some ⟨.M, c.data, 0, 0, none⟩) ∧
     ∃ t, exec .wback s = .next t ∧ t.mem = s.mem ∧ tfind (t.isl.get x).wbuf line = none) ∧
  (∀ s : State,
     let line := s.arg.line
     let h := lineHome line
     let ent := tfind (s.isl.get h).dir line
     let written := memWrs s.mem (lineCells line s.arg.data)
     let sent (t : State) (e : DirEnt) : Prop := t.mem = s.mem ∧
       (∀ x ∈ e.holders, t.has (.ev .binv { Arg.zero with x := x, line := line }) = true) ∧
       tfind (t.isl.get h).dir line = some { e with busy := some ⟨h, [], false, false, none, e.holders, false⟩ }
     (s.arg.m = 1 → windowOff s line = none ∨ s.arg.flag = false → exec .hostMemAccess s = .next s) ∧
     (∀ a, s.arg.m = 1 → windowOff s line = some a → s.arg.flag = true → let q := a / 4096; let m := a % 4096 / 256
       ((tfind s.dev.parsing (q * 16 + m)).isSome = true →
         exec .hostMemAccess s = .next (s.modD fun d => { d with collide := d.collide + 1 })) ∧
       (tfind s.dev.parsing (q * 16 + m) = none → s.dev.lwb.getLsbD 0 = true → a % 256 = 128 → s.arg.n.testBit 127 = true →
         s.arg.data.extractLsb' 1016 8 = 0x5A → ∃ t, exec .hostMemAccess s = .next t ∧ t.core = s.core ∧ t.isl = s.isl ∧
           ∃ e ∈ t.agenda, e.at_ = s.tick ∧ e.due = .ev .hostLaunchTrigger { Arg.zero with k := q, m := m })) ∧
     (s.arg.m ≠ 1 → inDeviceBias s line = false → ∃ t, exec .hostMemAccess s = .next t ∧ t.core = s.core ∧ t.isl = s.isl ∧
       t.mem = if s.arg.flag then written else s.mem) ∧
     (s.arg.m ≠ 1 → inDeviceBias s line = true → ent = none → ∃ t, exec .hostMemAccess s = .next t ∧ t.isl = s.isl ∧
       (s.arg.flag = false → t = s) ∧ (s.arg.flag = true → t.mem = written)) ∧
     (∀ e, s.arg.m ≠ 1 → inDeviceBias s line = true → ent = some e → e.st ≠ .S ∨ s.arg.flag = true → ∃ t, exec .hostMemAccess s = .next t ∧
       t.mem = s.mem ∧ ((t.isl.get h).mshr.any (·.line == line)) = true ∧ t.has (.ev .hostMemAccess s.arg) = true) ∧
     (ent = none → ∃ t, exec .hostSnoop s = .next t ∧ t.mem = s.mem ∧ t.isl = s.isl ∧
       (s.arg.flag = false → ∀ c, islOf c = h → named s c line = true → line ∉ (t.core.get c).lc)) ∧
     (ent = none → ∃ t, exec .expanderBackInvalidation s = .next t ∧ t.mem = s.mem ∧ t.isl = s.isl ∧
       ∀ c, islOf c = h → named s c line = true → line ∉ (t.core.get c).lc) ∧
     (∀ e, ent = some e → e.busy = none →
       (s.arg.flag = false → ∃ t, exec .hostSnoop s = .next t ∧ sent t e) ∧
       (s.arg.flag = true → e.st ≠ .S → ∃ t, exec .hostSnoop s = .next t ∧ t.mem = s.mem ∧
         ((t.isl.get h).mshr.any (·.line == line)) = true) ∧
       ∃ t, exec .expanderBackInvalidation s = .next t ∧ sent t e) ∧
     (∀ e, ent = some e → e.busy.isSome = true → ∀ i ∈ [Instr.hostSnoop, .expanderBackInvalidation],
       ∃ t, exec i s = .next t ∧ t.mem = s.mem ∧ t.isl = s.isl ∧ t.has (.ev i s.arg) = true))

/-- OPM_WRITE and RAIL_MOVE_STEP (R372, R373): floors first on the way down, last on the way up; one request waits; a malformed one
is ignored and counted. OPMD_WRITE, GOV_WRITE, PLS_WRITE, SLR_WRITE, OPTD1_WRITE and OPT_MIRROR_WRITE (R374 to R376, R379, R380,
R399). That a new mode starts a new governor window is log entry 16, and that every island writes into the one table of the package
log entry 55. CONTROL_INTERVAL, GOVERNOR_WINDOW, THERMAL_TRIP and DIVISOR_CHANGE (R11, R262, R375, R377 to R379): the reading and
the current of an interval are inputs (log entry 6). -/
def Obligations.PowerSteps : Prop :=
  (∀ s : State,
     let y := s.arg.y
     let i := s.isl.get y
     let v := s.arg.v
     let p := pointOf v
     let step : Due := .ev .railMoveStep (argY y)
     (opmOk v = false → exec .opmWrite s = .next (repoint y (s.modI y fun i => { i with ign := i.ign + 1 }))) ∧
     (opmOk v = true → i.opMove.isSome = true → ∃ t, exec .opmWrite s = .next t ∧ (t.isl.get y).opPend = some p ∧
       (t.isl.get y).opMove = i.opMove ∧ (t.isl.get y).rpl = i.rpl + i.opPend.isSome.toNat ∧ (t.isl.get y).floor = i.floor) ∧
     (opmOk v = true → i.opMove = none → ∃ t, exec .opmWrite s = .next t ∧ (t.isl.get y).vl = i.vl ∧ t.mem = s.mem ∧ t.core = s.core ∧
       (p.vl = i.vl → (t.isl.get y).floor = p.fl ∧ (t.isl.get y).opMove = none) ∧
       (p.vl < i.vl → (t.isl.get y).floor = p.fl ∧ (t.isl.get y).opMove = some p ∧
         ∃ e ∈ t.agenda, e.due = step ∧ e.at_ = s.tick + Config.usTicks) ∧
       (i.vl < p.vl → (t.isl.get y).floor = i.floor ∧ (t.isl.get y).opMove = some p ∧
         ∃ e ∈ t.agenda, e.due = step ∧ e.at_ = s.tick + 2 * Config.usTicks)) ∧
     (i.opMove = none → exec .railMoveStep s = .next s) ∧
     (∀ q, i.opMove = some q →
       let vl := if i.vl < q.vl then i.vl + 1 else i.vl - 1
       ∃ t, exec .railMoveStep s = .next t ∧ (t.isl.get y).vl = vl ∧ t.mem = s.mem ∧ t.core = s.core ∧
         (vl ≠ q.vl → (t.isl.get y).opMove = some q ∧ (t.isl.get y).floor = i.floor ∧ t.has step = true) ∧
         (vl = q.vl → i.opPend = none → (t.isl.get y).opMove = none ∧ (t.isl.get y).floor = q.fl))) ∧
  (∀ s : State,
     let y := s.arg.y
     let v := s.arg.v
     let m : BitVec 2 := v.setWidth 2
     let n := partSize s y
     let i := s.isl.get y
     let ups := (List.range 6).map fun e => (v.extractLsb' (16 + 3 * e) 3).toNat
     let e := s.arg.k % 1024
     (m = 3 → exec .opmdWrite s = .next s) ∧
     (m ≠ 3 → (m = 1 ∧ 2 < n) ∨ (m = 2 ∧ n ≠ 4) →
       exec .opmdWrite s = .next (s.modI y fun i => { i with ign := i.ign + 1 })) ∧
     (m ≠ 3 → ¬ (m = 1 ∧ 2 < n) → ¬ (m = 2 ∧ n ≠ 4) → ∃ t, exec .opmdWrite s = .next t ∧
       (t.isl.get y).opmd = m ∧ (t.isl.get y).govWait = true ∧ (t.isl.get y).floor = i.floor ∧ t.core = s.core ∧ t.mem = s.mem) ∧
     (v.extractLsb' 16 3 ≤ v.extractLsb' 19 3 → v.extractLsb' 0 8 ≤ v.extractLsb' 8 8 →
       exec .govWrite s = .next (s.modI y fun i => { i with gov := v &&& 0x3FFFFF })) ∧
     (v.extractLsb' 19 3 < v.extractLsb' 16 3 ∨ v.extractLsb' 8 8 < v.extractLsb' 0 8 → exec .govWrite s = .next s) ∧
     ((∀ l, l < 8 → v.extractLsb' (2 * l) 2 ≠ 3) →
       exec .plsWrite s = .next (s.modI y fun i => { i with vtb := v.setWidth 16, vman := v.getLsbD 16 })) ∧
     (∀ l, l < 8 → v.extractLsb' (2 * l) 2 = 3 → exec .plsWrite s = .next s) ∧
     (let good : Prop := (∀ u ∈ ups, 1 ≤ u ∧ u ≤ 4) ∧ 4 ∈ ups ∧ v.extractLsb' 8 4 ≠ 0 ∧ (v.extractLsb' 0 8).toNat % 4 = 0 ∧
        4 ≤ (v.extractLsb' 0 8).toNat
      (¬ good → exec .slrWrite s = .next (s.modI y fun i => { i with ign := i.ign + 1 })) ∧
      (good → ∃ t, exec .slrWrite s = .next t ∧ (t.isl.get y).slr = v &&& 0x3FFFF1FFF ∧ t.mem = s.mem ∧ t.core = s.core ∧
        (i.slrFrom < s.tick → (t.isl.get y).slrOld = i.slr ∧ (t.isl.get y).slrFrom = nextSlot i.slr s.tick))) ∧
     (∃ t, exec .optd1Write s = .next t ∧ tfind t.dev.opt i.opti.toNat = some (i.optd0, v &&& 0xFFFFFFFF1F1F1F00) ∧
       (t.isl.get y).optd1 = v &&& 0xFFFFFFFF1F1F1F00 ∧ t.mem = s.mem ∧
       t.core = s.core) ∧
     ((s.isl.get 0).opmd = 2 → exec .optMirrorWrite s = .next s) ∧
     ((s.isl.get 0).opmd ≠ 2 → s.arg.flag = true → ∃ t, exec .optMirrorWrite s = .next t ∧
       tfind t.dev.opt e = some ((tfind s.dev.optd0 e).getD (tget (0, 0xFFFFFFC404040400) s.dev.opt e).1,
         v &&& 0xFFFFFFFF1F1F1F00) ∧
       tfind t.dev.optd0 e = none ∧ t.isl = s.isl ∧ t.mem = s.mem) ∧
     ((s.isl.get 0).opmd ≠ 2 → s.arg.flag = false →
       exec .optMirrorWrite s = .next (s.modD fun d => { d with optd0 := tset d.optd0 e (v &&& 0xFFFFFFFFFF000001) }))) ∧
  (∀ s : State,
     let y := s.arg.y
     let c := s.arg.c
     let i := s.isl.get y
     let n := i.govI + i.govS + i.govM
     let sigma := 256 * (i.govI + i.govS) / n
     let g := i.gov.toNat
     let ask (t : State) (vl : Nat) : Prop := ∃ e ∈ t.agenda, e.at_ = s.tick ∧ e.due = .ev .opmWrite { argY y with v := levelPoint vl }
     (∃ t reading current, exec .controlInterval s = .next t ∧ (s.dev.resOk = true → t.mem = s.mem) ∧ (t.isl.get y).dth = thermalDiv reading ∧
       (t.isl.get y).dcur = currentDiv current (natBits i.lim.toNat 15 0) ∧
       (t.isl.get y).pl = powerLevel (max (t.isl.get y).dth (t.isl.get y).dcur) ∧ (t.isl.get y).govN = (if i.govWait then 0 else i.govN + 1) ∧
       (t.isl.get y).govWait = false ∧ (115 < reading → (t.isl.get y).trp = true) ∧ (∃ e ∈ t.agenda, e.due = .ev .controlInterval (argY y) ∧ e.at_ = s.tick + Config.intervalTicks) ∧
       t.has (.ev .regionSweep (argY y)) = true ∧ (3 ≤ i.govN → i.govWait = false → t.has (.ev .governorWindow (argY y)) = true)) ∧
     (∃ t, exec .governorWindow s = .next t ∧ (t.isl.get y).govN = 0 ∧ (t.isl.get y).govI = 0 ∧ (t.isl.get y).govM = 0 ∧
       (t.isl.get y).govS = 0 ∧ t.mem = s.mem ∧ t.core = s.core ∧
       (i.opmd ≠ 1 ∨ n = 0 → t.agenda = s.agenda) ∧
       (i.opmd = 1 → n ≠ 0 → sigma < natBits g 7 0 → natBits g 18 16 < i.vl → ask t (i.vl - 1)) ∧
       (i.opmd = 1 → n ≠ 0 → natBits g 7 0 ≤ sigma → natBits g 15 8 ≤ sigma → i.vl < natBits g 21 19 → ask t (i.vl + 1))) ∧
     (∃ t, exec .thermalTrip s = .next t ∧ (t.isl.get y).dth = 16 ∧ (t.isl.get y).trp = true ∧ t.dev.elN = s.dev.elN + 1 ∧
       t.mem = s.mem ∧ t.core = s.core) ∧
     ∃ t, exec .divisorChange s = .next t ∧ (t.core.get c).div = effDiv s c ∧ (t.core.get c).base = s.tick ∧ (t.core.get c).r = (s.core.get c).r)

/-- SUPPLY_LOSS, QUIESCE_END, SAVE_END and SEAL_END (R365, R366, R368): the phases follow one another; compute cores roll back and
stop, in the step in which the loss is detected (log entry 49), the counted operations that their checkpoints cover are delivered,
what was released performs, and the half is sealed with its epoch, the energy drawn within its bound. POWER_GOOD and
HOST_CONFIG_SPACE_READ (R317, R402): a bank with a good image is taken, the active one first, and fused; without one bring-up ends
at status 1, and a step that failed stops it. Only what comes from outside follows a seal. Whether a link trains is free (log entry
1); that memory reads 0 after bring-up is log entry 4. -/
def Obligations.HoldUpSteps : Prop :=
  (∀ s : State,
     (s.dev.hold ≠ .run → exec .supplyLoss s = .next s) ∧
     (s.dev.hold = .run → ∃ t, exec .supplyLoss s = .next t ∧ t.dev.hold = .quiesce ∧ t.dev.lossAt = s.tick ∧ t.mem = s.mem ∧
       (∀ c, isMgmt c = false → (t.core.get c).wst = [] ∧ ((s.core.get c).run ≠ .unbound →
         (t.core.get c).run = .dark ∧ (t.core.get c).r = (s.core.get c).ck ∧ (t.core.get c).sto = (s.core.get c).sto ∧
         ∀ o, o ∈ (t.core.get c).loads ↔ o ∈ (s.core.get c).loads ∧ o.seq ≤ (s.core.get c).ckSeq)) ∧
       ∃ e ∈ t.agenda, e.due = .ev .quiesceEnd Arg.zero ∧ e.at_ = s.tick + 40 * Config.usTicks) ∧
     (s.dev.hold ≠ .quiesce → exec .quiesceEnd s = .next s) ∧
     (s.dev.hold = .quiesce → ∃ t, exec .quiesceEnd s = .next t ∧ t.dev.hold = .save ∧
       (∀ c, isMgmt c = false → (t.core.get c).sto = [] ∧ (t.core.get c).loads = []) ∧
       ∃ e ∈ t.agenda, e.due = .ev .saveEnd Arg.zero ∧ s.tick < e.at_ ∧ e.at_ ≤ s.tick + 300 * Config.usTicks) ∧
     (s.dev.hold ≠ .save → exec .saveEnd s = .next s) ∧
     (s.dev.hold = .save → ∃ t, exec .saveEnd s = .next t ∧ t.dev.hold = .seal ∧ t.has (.ev .sealEnd Arg.zero) = true ∧ t.core = s.core) ∧
     (s.dev.hold ≠ .seal → exec .sealEnd s = .next s) ∧
     (s.dev.hold = .seal → ∃ t, exec .sealEnd s = .next t ∧ t.dev.hold = .done ∧ halfEpoch t s.dev.half = s.dev.epoch.toNat ∧
       halfSealed t s.dev.half = true ∧ t.dev.heldUj.toNat ≤ 151200 ∧
       t.dev.heldUj.toNat * 100 ≤ 42 * ((s.tick - s.dev.lossAt) * 10 / 68) ∧ t.core = s.core ∧ (∀ e ∈ t.agenda, fromOutside e.due = true) ∧
       (s.dev.supplyBack = true → t.has (.ev .powerGood Arg.zero) = true))) ∧
  (∀ s : State,
     let good (b : Bool) : Bool := fwWhyOf s.dev.idHash s.dev.fuse (fwBank s.dev b) == 0
     let b := if good s.dev.fwAct then s.dev.fwAct else !s.dev.fwAct
     (s.dev.hold ≠ .run → s.dev.hold ≠ .done → exec .powerGood s = .next (s.modD fun d => { d with supplyBack := true })) ∧
     (s.dev.hold = .run → good s.dev.fwAct = false → good (!s.dev.fwAct) = false → ∃ t, exec .powerGood s = .next t ∧ t.dev.boot = 1 ∧
       t.dev.bootStep = s.dev.bootStep) ∧
     (s.dev.hold = .run → good b = true → ∃ t, exec .powerGood s = .next t ∧ t.dev.fwAct = b ∧
       t.dev.fuse = max s.dev.fuse (fwSvn (fwBank s.dev b)) ∧ t.core = s.core ∧ t.mem = s.mem ∧
       ((t.dev.bootStep = 4 ∧ t.dev.boot = s.dev.boot) ∨
         ∃ n, n ∈ [2, 3, 4] ∧ t.dev.boot = BitVec.ofNat 8 n ∧ t.dev.bootStep = n - 1)) ∧
     (s.dev.hold = .done → ∃ t, exec .powerGood s = .next t ∧ t.core = State.reset.core ∧ t.isl = State.reset.isl ∧
       ∀ a, memRd t.mem a = if holdKey 0 ≤ a ∧ a < holdKey 0x20000000 then memRd s.mem a else 0) ∧
     (s.dev.bootStep ≠ 4 ∨ s.dev.boot ≠ 0 → exec .hostConfigSpaceRead s = .next s) ∧
     (s.dev.bootStep = 4 → s.dev.boot = 0 → ∃ t, exec .hostConfigSpaceRead s = .next t ∧ t.core = s.core ∧
       ((t.dev.boot = 5 ∧ t.mem = s.mem ∧ t.dev.bootStep = 4) ∨ (t.dev.boot = 0x80 ∧ t.dev.bootStep = 5))))

/-- The fences (R389): the mask bit is set once, a record of kind 5 with its unit, island and time is logged, and a fenced core's
pre-emption is asked for; which channel a DRAM fence shuts is log entry 19, and the unit that a fence logs log entry 20.
PATROL_SCRUB, SELF_TEST_COMPLETE and PURGE_COMPLETE (R383, R384, R387, R388, R400): a patrol read goes on to the next line of its
tier or of the LPDDR6 (log entry 110). Verdicts and corrected symbols are free (log entry 1). -/
def Obligations.ContainmentSteps : Prop :=
  (∀ s : State,
     let y := s.arg.y
     let i := s.isl.get y
     let c := coreNo (y.val * 32 + s.arg.k % 32)
     let logged (t : State) (unit : Nat) : Prop := t.dev.elN = s.dev.elN + 1 ∧ t.dev.elw = s.dev.elw + 1 ∧
       ∃ r, tfind t.dev.elog s.dev.elw.toNat = some r ∧ r.extractLsb' 0 8 = 5#8 ∧ r.extractLsb' 8 16 = BitVec.ofNat 16 unit ∧
         r.extractLsb' 24 2 = BitVec.ofNat 2 y.val ∧ r.extractLsb' 26 38 = 0#38 ∧
         r.extractLsb' 64 64 = BitVec.ofNat 64 (s.tick / Config.usTicks) ∧ r.extractLsb' 128 128 = 0#128
     (i.fcore.getLsbD (s.arg.k % 32) = true → exec .fenceCore s = .next s) ∧
     (i.fcore.getLsbD (s.arg.k % 32) = false → ∃ t, exec .fenceCore s = .next t ∧ logged t (0x100 + s.arg.k % 32) ∧
       (t.isl.get y).fcore = i.fcore ||| 1#32 <<< (s.arg.k % 32) ∧ fenced t c = true ∧
       ((s.core.get c).run = .running → (freeSlot s (s.core.get c).ctx).isSome = true → (t.core.get c).preempt = true)) ∧
     (i.fslice.getLsbD (s.arg.k % 32) = true → exec .fenceSlice s = .next s) ∧
     (i.fslice.getLsbD (s.arg.k % 32) = false → ∃ t, exec .fenceSlice s = .next t ∧ logged t (0x1000 + s.arg.k % 32) ∧
       (t.isl.get y).fslice = i.fslice ||| 1#32 <<< (s.arg.k % 32) ∧
       (∀ e ∈ (t.isl.get y).shelf, e.line % 32 ≠ s.arg.k % 32) ∧
       ∀ d, islOf d = y → stagingSize t d (s.arg.k % 32) = 0) ∧
     (i.fstrait.getLsbD (s.arg.k % 4) = true → exec .fenceStrait s = .next s) ∧
     (i.fstrait.getLsbD (s.arg.k % 4) = false → ∃ t, exec .fenceStrait s = .next t ∧ logged t (0x2000 + s.arg.k % 4) ∧ t.core = s.core ∧
       (t.isl.get y).fstrait = i.fstrait ||| 1#4 <<< (s.arg.k % 4) ∧
       ∀ z : Isl, z ≠ y → z.val = s.arg.k % 4 → msgTicks t y z = 80 ∧ msgTicks t z y = 80) ∧
     (i.fdram.getLsbD (s.arg.k % 16) = true → exec .fenceDramChannel s = .next s) ∧
     (i.fdram.getLsbD (s.arg.k % 16) = false → ∃ t, exec .fenceDramChannel s = .next t ∧ logged t (0x3000 + s.arg.k % 16) ∧ t.core = s.core ∧
       (t.isl.get y).fdram = i.fdram ||| 1#16 <<< (s.arg.k % 16) ∧
       ∀ z a n, a < 0x3000000000 → homeOf a = y → Config.dramChannel (a / 128) % 16 = s.arg.k % 16 →
         (t.fromDram a = true → t.poisoned z a n = true) ∧ (t.fromDram a = false → t.poisoned z a n = s.poisoned z a n))) ∧
  (∀ s : State,
     let y := s.arg.y
     let line := s.arg.line
     let u : BitVec 16 := BitVec.ofNat 16 s.arg.n
     let cx : BitVec 7 := BitVec.ofNat 7 s.arg.k
     (s.dev.scp = 0 → exec .patrolScrub s = .next s) ∧
     (s.dev.scp ≠ 0 → s.arg.flag = true → ∃ t, exec .patrolScrub s = .next t ∧ t.mem = s.mem ∧ t.core = s.core ∧
       (∀ z, t.poisoned z (line * 128) 128 = true) ∧ t.dev.elN = s.dev.elN + 1) ∧
     (let bad := s.dev.errs.any fun p => p / 2 == line
      let next := line / tierLines * tierLines + (line % tierLines + 1) % tierLines
      s.dev.scp ≠ 0 → s.arg.flag = false → ∃ t, exec .patrolScrub s = .next t ∧ t.mem = s.mem ∧ t.core = s.core ∧
       (bad = false → t.dev.poison = s.dev.poison) ∧
       (bad = true → (∀ z, t.poisoned z (line * 128) 128 = true) ∧ t.dev.elN = s.dev.elN + 1 ∧ ∀ p ∈ t.dev.errs, p / 2 ≠ line) ∧
       (line < 4 * tierLines → t.has (.ev .patrolScrub { Arg.zero with line := next }) = true) ∧
       (4 * tierLines ≤ line → let m := (s.arg.n + 1) % 24000000000
         t.has (.ev .patrolScrub { Arg.zero with line := 4 * tierLines + Config.lpddrLine m, n := m }) = true)) ∧
     (((s.isl.get y).tests.find? fun e => e.1 == u) = none → exec .selfTestComplete s = .next s) ∧
     (∀ e, ((s.isl.get y).tests.find? fun e => e.1 == u) = some e →
       (∀ c, testedCore y u = some c → (s.core.get c).run ≠ .unbound → ∃ t, exec .selfTestComplete s = .next t ∧
         (t.isl.get y).tests = (s.isl.get y).tests ∧ t.has (.ev .selfTestComplete s.arg) = true) ∧
       (∀ c id, (testedCore y u = none ∨ ∃ d, testedCore y u = some d ∧ (s.core.get d).run = .unbound) → e.2 = some (c, id) →
         ∃ t v, exec .selfTestComplete s = .next t ∧ v < 3 ∧ (t.isl.get y).tests = (s.isl.get y).tests.erase e ∧
           t.has (.ev .loadDelivery (argCI c id)) = true ∧ ∀ o ∈ (s.core.get c).loads, o.id = id →
             { o with val := some (BitVec.ofNat 64 v, false) } ∈ (t.core.get c).loads) ∧
       ((testedCore y u = none ∨ ∃ d, testedCore y u = some d ∧ (s.core.get d).run = .unbound) → e.2 = none →
         ∃ t v, exec .selfTestComplete s = .next t ∧ v < 3 ∧ t.dev.itr = BitVec.ofNat 64 (v + 0x100) ∧ t.dev.itrBusy = false)) ∧
     (purgeBlock s cx (BitVec.ofNat 16 s.arg.n) = false → exec .purgeComplete s = .next s) ∧
     (∀ x c id rest, (s.dev.purges.find? fun x => x.cx == cx && x.pen == u) = some x → x.by_ = (c, id) :: rest → x.rec_ = none →
       (∀ e ∈ rest, e.1 ≠ c ∨ e.2 ≠ id) →
       (∀ d, (s.core.get d).ctx = cx → (s.core.get d).run = .unbound → (s.core.get d).stopping = false) →
       ∃ t, exec .purgeComplete s = .next (dispatch t) ∧ purgeBlock t cx u = false ∧ t.mem = s.mem ∧
         t.has (.ev .loadDelivery (argCI c id)) = true ∧ ∀ o ∈ (s.core.get c).loads, o.id = id →
           { o with val := some (BitVec.ofNat 64 x.count, false) } ∈ (t.core.get c).loads) ∧
     (∀ d, purgeBlock s cx u = true → (s.core.get d).ctx = cx → (s.core.get d).run = .unbound → (s.core.get d).stopping = true →
       ∃ t, exec .purgeComplete s = .next t ∧ t.dev = s.dev ∧ t.core = s.core ∧ t.has (.ev .purgeComplete s.arg) = true))

/-- Telemetry snapshots, in-field tests, firmware update, attestation and partitions (R396, R401 to R405). The image is what the
host's memory holds at FWA.ADR, an input (log entry 7); the layout of the report's body is log entry 10; which values of PRT name a
division is log entry 34, and such a change resets OPMD on every island; that a test request with an unlisted unit starts nothing is
log entry 20. What the host reads of the counters, the energy accounts, the operating-point table and FWS (R395, R396, R398, R399,
R403). -/
def Obligations.FleetSteps : Prop :=
  ∀ s : State,
    let v := s.arg.v
    let img := hostImage s
    let why := fwWhyOf s.dev.idHash s.dev.fuse img
    let ty : Isl := ⟨(v.extractLsb' 0 2).toNat % 4, by omega⟩
    let u := v.extractLsb' 16 16
    let any := s.dev.cx.toList.any (·.en)
    (s.dev.tsn = true → exec .telemetrySnapshot s = .next s) ∧
    (s.dev.tsn = false → v.getLsbD 0 = true → ∃ t, exec .telemetrySnapshot s = .next t ∧ t.dev.tsn = true ∧
      t.dev.tsnTaken = true ∧ t.dev.shadow = countersNow s ∧ t.dev.tsnLive = v.getLsbD 1 ∧
      ∃ e ∈ t.agenda, e.due = .ev .telemetrySnapshotDone Arg.zero ∧ e.at_ ≤ s.tick + 20 * Config.usTicks) ∧
    (exec .telemetrySnapshotDone s = .next (s.modD fun d => { d with tsn := false })) ∧
    (v.getLsbD 32 = false ∨ s.dev.itrBusy = true ∨ unitListed ty u = false → exec .infieldTestRequest s = .next s) ∧
    (v.getLsbD 32 = true → s.dev.itrBusy = false → unitListed ty u = true → ∃ t, exec .infieldTestRequest s = .next t ∧
      t.dev.itrBusy = true ∧ t.dev.itr = 0 ∧ (t.isl.get ty).tests = (s.isl.get ty).tests ++ [(u, none)] ∧ t.mem = s.mem) ∧
    (s.dev.fwSt = 1 → exec .fwProg s = .next s) ∧
    (s.dev.fwSt ≠ 1 → ∃ t, exec .fwProg s = .next t ∧ t.dev.fwSt = 1 ∧ t.dev.fwWhy = 0 ∧ t.has (.ev .fwProgComplete Arg.zero) = true ∧
      t.dev.bank0 = s.dev.bank0 ∧ t.dev.bank1 = s.dev.bank1) ∧
    (s.dev.fwSt = 1 → ∃ t, exec .fwProgComplete s = .next t ∧ t.dev.fwAct = s.dev.fwAct ∧
      (why ≠ 0 → t.dev.fwSt = 3 ∧ t.dev.fwWhy = BitVec.ofNat 8 why ∧ t.dev.bank0 = s.dev.bank0 ∧ t.dev.bank1 = s.dev.bank1) ∧
      (why = 0 → t.dev.fwSt = 2 ∧ fwBank t.dev (!s.dev.fwAct) = img ∧ fwBank t.dev s.dev.fwAct = fwBank s.dev s.dev.fwAct)) ∧
    (s.dev.fwSt = 2 → exec .fwCommit s = .next (s.modD fun d => { d with fwNext := !d.fwAct })) ∧
    (s.dev.fwSt ≠ 2 → exec .fwCommit s = .next s) ∧
    (s.dev.attBusy = true → exec .attestationStart s = .next s) ∧
    (s.dev.attBusy = false → ∃ t, exec .attestationStart s = .next t ∧ t.dev.attBusy = true ∧ t.dev.attDone = false ∧
      ∃ e ∈ t.agenda, e.due = .ev .attestationReport Arg.zero ∧ e.at_ ≤ s.tick + 5000 * Config.usTicks) ∧
    (s.dev.attBusy = true → exec .attestationReport s = .next (s.modD fun d =>
      { d with attBusy := false, attDone := true, report := reportBody s ++ byteList (Config.signWith s.dev.attKey (reportBody s)).toNat 64 })) ∧
    (s.arg.k = 0 → any = false → prtOk (v.toNat % 256) = true → ∃ t, exec .partitionWrite s = .next t ∧
      t.dev.prt = BitVec.ofNat 8 (v.toNat % 256) ∧ t.mem = s.mem ∧ t.core = s.core ∧
      (t.dev.prt ≠ s.dev.prt → ∀ y, (t.isl.get y).opmd = 0 ∧ (t.isl.get y).govWait = true) ∧ (t.dev.prt = s.dev.prt → t.isl = s.isl)) ∧
    (s.arg.k = 0 → any = true ∨ prtOk (v.toNat % 256) = false →
      exec .partitionWrite s = .next (s.modD fun d => { d with admf := true })) ∧
    (∀ (p : Nat) (hp : p < 4), s.arg.k = p + 1 →
      let w := v &&& 0xFFFF0001FFFFFF7F
      let ok := natBits w.toNat 6 0 + natBits w.toNat 15 8 ≤ 128 ∧ natBits w.toNat 23 16 + natBits w.toNat 32 24 ≤ 256 ∧
        pcxOk (s.dev.pcx.toList.set p w) = true
      (any = false → ok → exec .partitionWrite s = .next (s.modD fun d => { d with pcx := d.pcx.set p w hp })) ∧
      (any = true ∨ ¬ ok → exec .partitionWrite s = .next (s.modD fun d => { d with admf := true }))) ∧
    (s.dev.tsnTaken = true → s.dev.tsnLive = false → ∀ g n, g < 128 → n < 32 →
      bar0Read s (0x600000 + 256 * g + 8 * n) = BitVec.ofNat 64 (tget 0 s.dev.shadow (32 * g + n))) ∧
    (∀ cx : BitVec 7, bar0Read s (0x500000 + 8 * cx.toNat) = (s.ctxOf cx).energy) ∧ bar0Read s 0x500400 = s.dev.overhead ∧
    (∀ e, e < 1024 → let w := tget (0, 0xFFFFFFC404040400) s.dev.opt e
      bar0Read s (0x700000 + 16 * e) = w.1 ∧ bar0Read s (0x700008 + 16 * e) = w.2) ∧
    bar0Read s 0x610 = BitVec.ofNat 64 (s.dev.fwSt.toNat + s.dev.fwWhy.toNat * 2 ^ 8 + s.dev.fwAct.toNat * 2 ^ 16)
end

