-- ==== Sys2Proof/Laws/State.lean ====
section
/-! SUPPORT. What each small update of the state leaves in each field: one lemma for each field and update. -/

namespace Sys2Proof.Machine

/-! Cores and islands after an update of one of them. -/

@[simp] theorem State.modC_get (s : State) (c : CoreId) (f : CoreSt → CoreSt) :
    (s.modC c f).core.get c = f (s.core.get c) := by
  simp [State.modC, Vector.get_eq_getElem]

theorem State.modC_get_ne (s : State) (f : CoreSt → CoreSt) {c d : CoreId} (h : d ≠ c) :
    (s.modC c f).core.get d = s.core.get d := by
  have : c.val ≠ d.val := fun e => h (Fin.ext e.symm)
  simp [State.modC, Vector.get_eq_getElem, this]

theorem State.modC_same (s : State) (f : CoreSt → CoreSt) {c : CoreId} (h : f (s.core.get c) = s.core.get c) : s.modC c f = s := by
  rw [State.modC, h]; simp [Vector.get_eq_getElem]

theorem State.modC_get_if (s : State) (f : CoreSt → CoreSt) (c d : CoreId) :
    (s.modC c f).core.get d = if d = c then f (s.core.get d) else s.core.get d := by
  by_cases h : d = c
  · subst h; simp
  · simp [h, State.modC_get_ne]

@[simp] theorem State.modI_get (s : State) (y : Isl) (f : IslandSt → IslandSt) :
    (s.modI y f).isl.get y = f (s.isl.get y) := by
  simp [State.modI, Vector.get_eq_getElem]

theorem State.modI_get_ne (s : State) (f : IslandSt → IslandSt) {y z : Isl} (h : z ≠ y) :
    (s.modI y f).isl.get z = s.isl.get z := by
  have : y.val ≠ z.val := fun e => h (Fin.ext e.symm)
  simp [State.modI, Vector.get_eq_getElem, this]

theorem State.modI_get_if (s : State) (f : IslandSt → IslandSt) (y z : Isl) :
    (s.modI y f).isl.get z = if z = y then f (s.isl.get z) else s.isl.get z := by
  by_cases h : z = y
  · subst h; simp
  · simp [h, State.modI_get_ne]

@[simp] theorem State.modD_dev (s : State) (f : DevSt → DevSt) : (s.modD f).dev = f s.dev := rfl
@[simp] theorem State.modMe_me (s : State) (f : CoreSt → CoreSt) : (s.modMe f).me = f s.me := State.modC_get s s.cur f
@[simp] theorem State.modMe_get (s : State) (f : CoreSt → CoreSt) : (s.modMe f).core.get s.cur = f s.me := State.modC_get s s.cur f
theorem State.modMe_get_ne (s : State) (f : CoreSt → CoreSt) {d : CoreId} (h : d ≠ s.cur) :
    (s.modMe f).core.get d = s.core.get d := State.modC_get_ne s f h

/-! The other fields. -/

@[simp] theorem State.modC_tick (s : State) (c : CoreId) (f : CoreSt → CoreSt) : (s.modC c f).tick = s.tick := rfl
@[simp] theorem State.modC_agenda (s : State) (c : CoreId) (f : CoreSt → CoreSt) : (s.modC c f).agenda = s.agenda := rfl
@[simp] theorem State.modC_free (s : State) (c : CoreId) (f : CoreSt → CoreSt) : (s.modC c f).free = s.free := rfl
@[simp] theorem State.modC_cur (s : State) (c : CoreId) (f : CoreSt → CoreSt) : (s.modC c f).cur = s.cur := rfl
@[simp] theorem State.modC_bun (s : State) (c : CoreId) (f : CoreSt → CoreSt) : (s.modC c f).bun = s.bun := rfl
@[simp] theorem State.modC_arg (s : State) (c : CoreId) (f : CoreSt → CoreSt) : (s.modC c f).arg = s.arg := rfl
@[simp] theorem State.modC_mem (s : State) (c : CoreId) (f : CoreSt → CoreSt) : (s.modC c f).mem = s.mem := rfl
@[simp] theorem State.modC_isl (s : State) (c : CoreId) (f : CoreSt → CoreSt) : (s.modC c f).isl = s.isl := rfl
@[simp] theorem State.modC_dev (s : State) (c : CoreId) (f : CoreSt → CoreSt) : (s.modC c f).dev = s.dev := rfl
@[simp] theorem State.modI_tick (s : State) (y : Isl) (f : IslandSt → IslandSt) : (s.modI y f).tick = s.tick := rfl
@[simp] theorem State.modI_agenda (s : State) (y : Isl) (f : IslandSt → IslandSt) : (s.modI y f).agenda = s.agenda := rfl
@[simp] theorem State.modI_free (s : State) (y : Isl) (f : IslandSt → IslandSt) : (s.modI y f).free = s.free := rfl
@[simp] theorem State.modI_cur (s : State) (y : Isl) (f : IslandSt → IslandSt) : (s.modI y f).cur = s.cur := rfl
@[simp] theorem State.modI_bun (s : State) (y : Isl) (f : IslandSt → IslandSt) : (s.modI y f).bun = s.bun := rfl
@[simp] theorem State.modI_arg (s : State) (y : Isl) (f : IslandSt → IslandSt) : (s.modI y f).arg = s.arg := rfl
@[simp] theorem State.modI_mem (s : State) (y : Isl) (f : IslandSt → IslandSt) : (s.modI y f).mem = s.mem := rfl
@[simp] theorem State.modI_core (s : State) (y : Isl) (f : IslandSt → IslandSt) : (s.modI y f).core = s.core := rfl
@[simp] theorem State.modI_dev (s : State) (y : Isl) (f : IslandSt → IslandSt) : (s.modI y f).dev = s.dev := rfl
@[simp] theorem State.modD_tick (s : State) (f : DevSt → DevSt) : (s.modD f).tick = s.tick := rfl
@[simp] theorem State.modD_agenda (s : State) (f : DevSt → DevSt) : (s.modD f).agenda = s.agenda := rfl
@[simp] theorem State.modD_free (s : State) (f : DevSt → DevSt) : (s.modD f).free = s.free := rfl
@[simp] theorem State.modD_cur (s : State) (f : DevSt → DevSt) : (s.modD f).cur = s.cur := rfl
@[simp] theorem State.modD_bun (s : State) (f : DevSt → DevSt) : (s.modD f).bun = s.bun := rfl
@[simp] theorem State.modD_arg (s : State) (f : DevSt → DevSt) : (s.modD f).arg = s.arg := rfl
@[simp] theorem State.modD_mem (s : State) (f : DevSt → DevSt) : (s.modD f).mem = s.mem := rfl
@[simp] theorem State.modD_core (s : State) (f : DevSt → DevSt) : (s.modD f).core = s.core := rfl
@[simp] theorem State.modD_isl (s : State) (f : DevSt → DevSt) : (s.modD f).isl = s.isl := rfl
@[simp] theorem State.modMe_tick (s : State) (f : CoreSt → CoreSt) : (s.modMe f).tick = s.tick := rfl
@[simp] theorem State.modMe_agenda (s : State) (f : CoreSt → CoreSt) : (s.modMe f).agenda = s.agenda := rfl
@[simp] theorem State.modMe_free (s : State) (f : CoreSt → CoreSt) : (s.modMe f).free = s.free := rfl
@[simp] theorem State.modMe_cur (s : State) (f : CoreSt → CoreSt) : (s.modMe f).cur = s.cur := rfl
@[simp] theorem State.modMe_bun (s : State) (f : CoreSt → CoreSt) : (s.modMe f).bun = s.bun := rfl
@[simp] theorem State.modMe_arg (s : State) (f : CoreSt → CoreSt) : (s.modMe f).arg = s.arg := rfl
@[simp] theorem State.modMe_mem (s : State) (f : CoreSt → CoreSt) : (s.modMe f).mem = s.mem := rfl
@[simp] theorem State.modMe_isl (s : State) (f : CoreSt → CoreSt) : (s.modMe f).isl = s.isl := rfl
@[simp] theorem State.modMe_dev (s : State) (f : CoreSt → CoreSt) : (s.modMe f).dev = s.dev := rfl
@[simp] theorem State.at_tick (s : State) (t : Nat) (d : Due) : (s.at t d).tick = s.tick := rfl
@[simp] theorem State.at_free (s : State) (t : Nat) (d : Due) : (s.at t d).free = s.free := rfl
@[simp] theorem State.at_cur (s : State) (t : Nat) (d : Due) : (s.at t d).cur = s.cur := rfl
@[simp] theorem State.at_bun (s : State) (t : Nat) (d : Due) : (s.at t d).bun = s.bun := rfl
@[simp] theorem State.at_arg (s : State) (t : Nat) (d : Due) : (s.at t d).arg = s.arg := rfl
@[simp] theorem State.at_mem (s : State) (t : Nat) (d : Due) : (s.at t d).mem = s.mem := rfl
@[simp] theorem State.at_core (s : State) (t : Nat) (d : Due) : (s.at t d).core = s.core := rfl
@[simp] theorem State.at_isl (s : State) (t : Nat) (d : Due) : (s.at t d).isl = s.isl := rfl
@[simp] theorem State.at_dev (s : State) (t : Nat) (d : Due) : (s.at t d).dev = s.dev := rfl
@[simp] theorem State.after_tick (s : State) (t : Nat) (d : Due) : (s.after t d).tick = s.tick := rfl
@[simp] theorem State.after_free (s : State) (t : Nat) (d : Due) : (s.after t d).free = s.free := rfl
@[simp] theorem State.after_cur (s : State) (t : Nat) (d : Due) : (s.after t d).cur = s.cur := rfl
@[simp] theorem State.after_bun (s : State) (t : Nat) (d : Due) : (s.after t d).bun = s.bun := rfl
@[simp] theorem State.after_arg (s : State) (t : Nat) (d : Due) : (s.after t d).arg = s.arg := rfl
@[simp] theorem State.after_mem (s : State) (t : Nat) (d : Due) : (s.after t d).mem = s.mem := rfl
@[simp] theorem State.after_core (s : State) (t : Nat) (d : Due) : (s.after t d).core = s.core := rfl
@[simp] theorem State.after_isl (s : State) (t : Nat) (d : Due) : (s.after t d).isl = s.isl := rfl
@[simp] theorem State.after_dev (s : State) (t : Nat) (d : Due) : (s.after t d).dev = s.dev := rfl
@[simp] theorem State.now_tick (s : State) (i : Instr) (a : Arg) : (s.now i a).tick = s.tick := rfl
@[simp] theorem State.now_free (s : State) (i : Instr) (a : Arg) : (s.now i a).free = s.free := rfl
@[simp] theorem State.now_cur (s : State) (i : Instr) (a : Arg) : (s.now i a).cur = s.cur := rfl
@[simp] theorem State.now_bun (s : State) (i : Instr) (a : Arg) : (s.now i a).bun = s.bun := rfl
@[simp] theorem State.now_arg (s : State) (i : Instr) (a : Arg) : (s.now i a).arg = s.arg := rfl
@[simp] theorem State.now_mem (s : State) (i : Instr) (a : Arg) : (s.now i a).mem = s.mem := rfl
@[simp] theorem State.now_core (s : State) (i : Instr) (a : Arg) : (s.now i a).core = s.core := rfl
@[simp] theorem State.now_isl (s : State) (i : Instr) (a : Arg) : (s.now i a).isl = s.isl := rfl
@[simp] theorem State.now_dev (s : State) (i : Instr) (a : Arg) : (s.now i a).dev = s.dev := rfl
@[simp] theorem State.pick_tick (s : State) : (s.pick.2).tick = s.tick := rfl
@[simp] theorem State.pick_agenda (s : State) : (s.pick.2).agenda = s.agenda := rfl
@[simp] theorem State.pick_cur (s : State) : (s.pick.2).cur = s.cur := rfl
@[simp] theorem State.pick_bun (s : State) : (s.pick.2).bun = s.bun := rfl
@[simp] theorem State.pick_arg (s : State) : (s.pick.2).arg = s.arg := rfl
@[simp] theorem State.pick_mem (s : State) : (s.pick.2).mem = s.mem := rfl
@[simp] theorem State.pick_core (s : State) : (s.pick.2).core = s.core := rfl
@[simp] theorem State.pick_isl (s : State) : (s.pick.2).isl = s.isl := rfl
@[simp] theorem State.pick_dev (s : State) : (s.pick.2).dev = s.dev := rfl
@[simp] theorem State.pickW_tick (s : State) : (s.pickW.2).tick = s.tick := rfl
@[simp] theorem State.pickW_agenda (s : State) : (s.pickW.2).agenda = s.agenda := rfl
@[simp] theorem State.pickW_cur (s : State) : (s.pickW.2).cur = s.cur := rfl
@[simp] theorem State.pickW_bun (s : State) : (s.pickW.2).bun = s.bun := rfl
@[simp] theorem State.pickW_arg (s : State) : (s.pickW.2).arg = s.arg := rfl
@[simp] theorem State.pickW_mem (s : State) : (s.pickW.2).mem = s.mem := rfl
@[simp] theorem State.pickW_core (s : State) : (s.pickW.2).core = s.core := rfl
@[simp] theorem State.pickW_isl (s : State) : (s.pickW.2).isl = s.isl := rfl
@[simp] theorem State.pickW_dev (s : State) : (s.pickW.2).dev = s.dev := rfl
@[simp] theorem State.now_agenda (s : State) (i : Instr) (a : Arg) : (s.now i a).agenda = ⟨s.tick, 0, .ev i a⟩ :: s.agenda := rfl
@[simp] theorem State.pick_free (s : State) : s.pick.2.free = s.free + 1 := rfl
@[simp] theorem State.pickW_free (s : State) : s.pickW.2.free = s.free + 1 := rfl
@[simp] theorem State.pick_val (s : State) : s.pick.1 = Config.freeNat s.free := rfl
@[simp] theorem State.pickW_val (s : State) : s.pickW.1 = Config.freeWord s.free := rfl
@[simp] theorem deliver_tick (n : Nat) (e : Eff) (s : State) : (deliver n e s).tick = s.tick := rfl
@[simp] theorem toS_tick (n : Nat) (d : BitVec 6) (v : W64) (s : State) : (toS n d v s).tick = s.tick := rfl
@[simp] theorem toP_tick (n : Nat) (d : BitVec 4) (v : W64) (s : State) : (toP n d v s).tick = s.tick := rfl
@[simp] theorem deliver_agenda (n : Nat) (e : Eff) (s : State) : (deliver n e s).agenda = s.agenda := rfl
@[simp] theorem toS_agenda (n : Nat) (d : BitVec 6) (v : W64) (s : State) : (toS n d v s).agenda = s.agenda := rfl
@[simp] theorem toP_agenda (n : Nat) (d : BitVec 4) (v : W64) (s : State) : (toP n d v s).agenda = s.agenda := rfl
@[simp] theorem deliver_free (n : Nat) (e : Eff) (s : State) : (deliver n e s).free = s.free := rfl
@[simp] theorem toS_free (n : Nat) (d : BitVec 6) (v : W64) (s : State) : (toS n d v s).free = s.free := rfl
@[simp] theorem toP_free (n : Nat) (d : BitVec 4) (v : W64) (s : State) : (toP n d v s).free = s.free := rfl
@[simp] theorem deliver_cur (n : Nat) (e : Eff) (s : State) : (deliver n e s).cur = s.cur := rfl
@[simp] theorem toS_cur (n : Nat) (d : BitVec 6) (v : W64) (s : State) : (toS n d v s).cur = s.cur := rfl
@[simp] theorem toP_cur (n : Nat) (d : BitVec 4) (v : W64) (s : State) : (toP n d v s).cur = s.cur := rfl
@[simp] theorem deliver_bun (n : Nat) (e : Eff) (s : State) : (deliver n e s).bun = s.bun := rfl
@[simp] theorem toS_bun (n : Nat) (d : BitVec 6) (v : W64) (s : State) : (toS n d v s).bun = s.bun := rfl
@[simp] theorem toP_bun (n : Nat) (d : BitVec 4) (v : W64) (s : State) : (toP n d v s).bun = s.bun := rfl
@[simp] theorem deliver_arg (n : Nat) (e : Eff) (s : State) : (deliver n e s).arg = s.arg := rfl
@[simp] theorem toS_arg (n : Nat) (d : BitVec 6) (v : W64) (s : State) : (toS n d v s).arg = s.arg := rfl
@[simp] theorem toP_arg (n : Nat) (d : BitVec 4) (v : W64) (s : State) : (toP n d v s).arg = s.arg := rfl
@[simp] theorem deliver_mem (n : Nat) (e : Eff) (s : State) : (deliver n e s).mem = s.mem := rfl
@[simp] theorem toS_mem (n : Nat) (d : BitVec 6) (v : W64) (s : State) : (toS n d v s).mem = s.mem := rfl
@[simp] theorem toP_mem (n : Nat) (d : BitVec 4) (v : W64) (s : State) : (toP n d v s).mem = s.mem := rfl
@[simp] theorem deliver_isl (n : Nat) (e : Eff) (s : State) : (deliver n e s).isl = s.isl := rfl
@[simp] theorem toS_isl (n : Nat) (d : BitVec 6) (v : W64) (s : State) : (toS n d v s).isl = s.isl := rfl
@[simp] theorem toP_isl (n : Nat) (d : BitVec 4) (v : W64) (s : State) : (toP n d v s).isl = s.isl := rfl
@[simp] theorem deliver_dev (n : Nat) (e : Eff) (s : State) : (deliver n e s).dev = s.dev := rfl
@[simp] theorem toS_dev (n : Nat) (d : BitVec 6) (v : W64) (s : State) : (toS n d v s).dev = s.dev := rfl
@[simp] theorem toP_dev (n : Nat) (d : BitVec 4) (v : W64) (s : State) : (toP n d v s).dev = s.dev := rfl

/-! Fields of a core after a delivery has been put in flight and after a count. -/

@[simp] theorem CoreSt.deliver_r (k : CoreSt) (x : Dom) (b n q : Nat) (e : Eff) : (k.deliver x b n q e).r = k.r := rfl
@[simp] theorem CoreSt.deliver_ck (k : CoreSt) (x : Dom) (b n q : Nat) (e : Eff) : (k.deliver x b n q e).ck = k.ck := rfl
@[simp] theorem CoreSt.deliver_ckSeq (k : CoreSt) (x : Dom) (b n q : Nat) (e : Eff) : (k.deliver x b n q e).ckSeq = k.ckSeq := rfl
@[simp] theorem CoreSt.deliver_run (k : CoreSt) (x : Dom) (b n q : Nat) (e : Eff) : (k.deliver x b n q e).run = k.run := rfl
@[simp] theorem CoreSt.deliver_ctx (k : CoreSt) (x : Dom) (b n q : Nat) (e : Eff) : (k.deliver x b n q e).ctx = k.ctx := rfl
@[simp] theorem CoreSt.deliver_launch (k : CoreSt) (x : Dom) (b n q : Nat) (e : Eff) : (k.deliver x b n q e).launch = k.launch := rfl
@[simp] theorem CoreSt.deliver_stg (k : CoreSt) (x : Dom) (b n q : Nat) (e : Eff) : (k.deliver x b n q e).stg = k.stg := rfl
@[simp] theorem CoreSt.deliver_wfw (k : CoreSt) (x : Dom) (b n q : Nat) (e : Eff) : (k.deliver x b n q e).wfw = k.wfw := rfl
@[simp] theorem CoreSt.deliver_sfi (k : CoreSt) (x : Dom) (b n q : Nat) (e : Eff) : (k.deliver x b n q e).sfi = k.sfi := rfl
@[simp] theorem CoreSt.deliver_cyc (k : CoreSt) (x : Dom) (b n q : Nat) (e : Eff) : (k.deliver x b n q e).cyc = k.cyc := rfl
@[simp] theorem CoreSt.deliver_since (k : CoreSt) (x : Dom) (b n q : Nat) (e : Eff) : (k.deliver x b n q e).since = k.since := rfl
@[simp] theorem CoreSt.deliver_overrun (k : CoreSt) (x : Dom) (b n q : Nat) (e : Eff) : (k.deliver x b n q e).overrun = k.overrun := rfl
@[simp] theorem CoreSt.deliver_div (k : CoreSt) (x : Dom) (b n q : Nat) (e : Eff) : (k.deliver x b n q e).div = k.div := rfl
@[simp] theorem CoreSt.deliver_base (k : CoreSt) (x : Dom) (b n q : Nat) (e : Eff) : (k.deliver x b n q e).base = k.base := rfl
@[simp] theorem CoreSt.deliver_seq (k : CoreSt) (x : Dom) (b n q : Nat) (e : Eff) : (k.deliver x b n q e).seq = k.seq := rfl
@[simp] theorem CoreSt.deliver_gap (k : CoreSt) (x : Dom) (b n q : Nat) (e : Eff) : (k.deliver x b n q e).gap = k.gap := rfl
@[simp] theorem CoreSt.deliver_forced (k : CoreSt) (x : Dom) (b n q : Nat) (e : Eff) : (k.deliver x b n q e).forced = k.forced := rfl
@[simp] theorem CoreSt.deliver_heldFor (k : CoreSt) (x : Dom) (b n q : Nat) (e : Eff) : (k.deliver x b n q e).heldFor = k.heldFor := rfl
@[simp] theorem CoreSt.deliver_heldBy (k : CoreSt) (x : Dom) (b n q : Nat) (e : Eff) : (k.deliver x b n q e).heldBy = k.heldBy := rfl
@[simp] theorem CoreSt.deliver_wait (k : CoreSt) (x : Dom) (b n q : Nat) (e : Eff) : (k.deliver x b n q e).wait = k.wait := rfl
@[simp] theorem CoreSt.deliver_waitBy (k : CoreSt) (x : Dom) (b n q : Nat) (e : Eff) : (k.deliver x b n q e).waitBy = k.waitBy := rfl
@[simp] theorem CoreSt.deliver_bufFull (k : CoreSt) (x : Dom) (b n q : Nat) (e : Eff) : (k.deliver x b n q e).bufFull = k.bufFull := rfl
@[simp] theorem CoreSt.deliver_pullClosed (k : CoreSt) (x : Dom) (b n q : Nat) (e : Eff) : (k.deliver x b n q e).pullClosed = k.pullClosed := rfl
@[simp] theorem CoreSt.deliver_pullEmpty (k : CoreSt) (x : Dom) (b n q : Nat) (e : Eff) : (k.deliver x b n q e).pullEmpty = k.pullEmpty := rfl
@[simp] theorem CoreSt.deliver_loads (k : CoreSt) (x : Dom) (b n q : Nat) (e : Eff) : (k.deliver x b n q e).loads = k.loads := rfl
@[simp] theorem CoreSt.deliver_wst (k : CoreSt) (x : Dom) (b n q : Nat) (e : Eff) : (k.deliver x b n q e).wst = k.wst := rfl
@[simp] theorem CoreSt.deliver_sto (k : CoreSt) (x : Dom) (b n q : Nat) (e : Eff) : (k.deliver x b n q e).sto = k.sto := rfl
@[simp] theorem CoreSt.deliver_fences (k : CoreSt) (x : Dom) (b n q : Nat) (e : Eff) : (k.deliver x b n q e).fences = k.fences := rfl
@[simp] theorem CoreSt.deliver_after (k : CoreSt) (x : Dom) (b n q : Nat) (e : Eff) : (k.deliver x b n q e).after = k.after := rfl
@[simp] theorem CoreSt.deliver_cpc (k : CoreSt) (x : Dom) (b n q : Nat) (e : Eff) : (k.deliver x b n q e).cpc = k.cpc := rfl
@[simp] theorem CoreSt.deliver_til (k : CoreSt) (x : Dom) (b n q : Nat) (e : Eff) : (k.deliver x b n q e).til = k.til := rfl
@[simp] theorem CoreSt.deliver_wmx (k : CoreSt) (x : Dom) (b n q : Nat) (e : Eff) : (k.deliver x b n q e).wmx = k.wmx := rfl
@[simp] theorem CoreSt.deliver_pops (k : CoreSt) (x : Dom) (b n q : Nat) (e : Eff) : (k.deliver x b n q e).pops = k.pops := rfl
@[simp] theorem CoreSt.deliver_rec_ (k : CoreSt) (x : Dom) (b n q : Nat) (e : Eff) : (k.deliver x b n q e).rec_ = k.rec_ := rfl
@[simp] theorem CoreSt.deliver_tok (k : CoreSt) (x : Dom) (b n q : Nat) (e : Eff) : (k.deliver x b n q e).tok = k.tok := rfl
@[simp] theorem CoreSt.deliver_ring (k : CoreSt) (x : Dom) (b n q : Nat) (e : Eff) : (k.deliver x b n q e).ring = k.ring := rfl
@[simp] theorem CoreSt.deliver_codeBase (k : CoreSt) (x : Dom) (b n q : Nat) (e : Eff) : (k.deliver x b n q e).codeBase = k.codeBase := rfl
@[simp] theorem CoreSt.deliver_dict (k : CoreSt) (x : Dom) (b n q : Nat) (e : Eff) : (k.deliver x b n q e).dict = k.dict := rfl
@[simp] theorem CoreSt.deliver_swVpr (k : CoreSt) (x : Dom) (b n q : Nat) (e : Eff) : (k.deliver x b n q e).swVpr = k.swVpr := rfl
@[simp] theorem CoreSt.deliver_swCnt (k : CoreSt) (x : Dom) (b n q : Nat) (e : Eff) : (k.deliver x b n q e).swCnt = k.swCnt := rfl
@[simp] theorem CoreSt.deliver_sw (k : CoreSt) (x : Dom) (b n q : Nat) (e : Eff) : (k.deliver x b n q e).sw = k.sw := rfl
@[simp] theorem CoreSt.deliver_granted (k : CoreSt) (x : Dom) (b n q : Nat) (e : Eff) : (k.deliver x b n q e).granted = k.granted := rfl
@[simp] theorem CoreSt.deliver_ustore (k : CoreSt) (x : Dom) (b n q : Nat) (e : Eff) : (k.deliver x b n q e).ustore = k.ustore := rfl
@[simp] theorem CoreSt.deliver_uentry (k : CoreSt) (x : Dom) (b n q : Nat) (e : Eff) : (k.deliver x b n q e).uentry = k.uentry := rfl
@[simp] theorem CoreSt.deliver_lq (k : CoreSt) (x : Dom) (b n q : Nat) (e : Eff) : (k.deliver x b n q e).lq = k.lq := rfl
@[simp] theorem CoreSt.deliver_aq (k : CoreSt) (x : Dom) (b n q : Nat) (e : Eff) : (k.deliver x b n q e).aq = k.aq := rfl
@[simp] theorem CoreSt.deliver_dq (k : CoreSt) (x : Dom) (b n q : Nat) (e : Eff) : (k.deliver x b n q e).dq = k.dq := rfl
@[simp] theorem CoreSt.deliver_lrun (k : CoreSt) (x : Dom) (b n q : Nat) (e : Eff) : (k.deliver x b n q e).lrun = k.lrun := rfl
@[simp] theorem CoreSt.deliver_arun (k : CoreSt) (x : Dom) (b n q : Nat) (e : Eff) : (k.deliver x b n q e).arun = k.arun := rfl
@[simp] theorem CoreSt.deliver_arbTo (k : CoreSt) (x : Dom) (b n q : Nat) (e : Eff) : (k.deliver x b n q e).arbTo = k.arbTo := rfl
@[simp] theorem CoreSt.deliver_arrCtx (k : CoreSt) (x : Dom) (b n q : Nat) (e : Eff) : (k.deliver x b n q e).arrCtx = k.arrCtx := rfl
@[simp] theorem CoreSt.deliver_latBy (k : CoreSt) (x : Dom) (b n q : Nat) (e : Eff) : (k.deliver x b n q e).latBy = k.latBy := rfl
@[simp] theorem CoreSt.deliver_accBy (k : CoreSt) (x : Dom) (b n q : Nat) (e : Eff) : (k.deliver x b n q e).accBy = k.accBy := rfl
@[simp] theorem CoreSt.deliver_drun (k : CoreSt) (x : Dom) (b n q : Nat) (e : Eff) : (k.deliver x b n q e).drun = k.drun := rfl
@[simp] theorem CoreSt.deliver_tail (k : CoreSt) (x : Dom) (b n q : Nat) (e : Eff) : (k.deliver x b n q e).tail = k.tail := rfl
@[simp] theorem CoreSt.deliver_slew (k : CoreSt) (x : Dom) (b n q : Nat) (e : Eff) : (k.deliver x b n q e).slew = k.slew := rfl
@[simp] theorem CoreSt.deliver_fc (k : CoreSt) (x : Dom) (b n q : Nat) (e : Eff) : (k.deliver x b n q e).fc = k.fc := rfl
@[simp] theorem CoreSt.deliver_fa (k : CoreSt) (x : Dom) (b n q : Nat) (e : Eff) : (k.deliver x b n q e).fa = k.fa := rfl
@[simp] theorem CoreSt.deliver_rix (k : CoreSt) (x : Dom) (b n q : Nat) (e : Eff) : (k.deliver x b n q e).rix = k.rix := rfl
@[simp] theorem CoreSt.deliver_astop (k : CoreSt) (x : Dom) (b n q : Nat) (e : Eff) : (k.deliver x b n q e).astop = k.astop := rfl
@[simp] theorem CoreSt.deliver_mxTrap (k : CoreSt) (x : Dom) (b n q : Nat) (e : Eff) : (k.deliver x b n q e).mxTrap = k.mxTrap := rfl
@[simp] theorem CoreSt.deliver_xlTrap (k : CoreSt) (x : Dom) (b n q : Nat) (e : Eff) : (k.deliver x b n q e).xlTrap = k.xlTrap := rfl
@[simp] theorem CoreSt.deliver_ubad (k : CoreSt) (x : Dom) (b n q : Nat) (e : Eff) : (k.deliver x b n q e).ubad = k.ubad := rfl
@[simp] theorem CoreSt.deliver_epi (k : CoreSt) (x : Dom) (b n q : Nat) (e : Eff) : (k.deliver x b n q e).epi = k.epi := rfl
@[simp] theorem CoreSt.deliver_check (k : CoreSt) (x : Dom) (b n q : Nat) (e : Eff) : (k.deliver x b n q e).check = k.check := rfl
@[simp] theorem CoreSt.deliver_carry (k : CoreSt) (x : Dom) (b n q : Nat) (e : Eff) : (k.deliver x b n q e).carry = k.carry := rfl
@[simp] theorem CoreSt.deliver_cks (k : CoreSt) (x : Dom) (b n q : Nat) (e : Eff) : (k.deliver x b n q e).cks = k.cks := rfl
@[simp] theorem CoreSt.deliver_scw (k : CoreSt) (x : Dom) (b n q : Nat) (e : Eff) : (k.deliver x b n q e).scw = k.scw := rfl
@[simp] theorem CoreSt.deliver_cu0 (k : CoreSt) (x : Dom) (b n q : Nat) (e : Eff) : (k.deliver x b n q e).cu0 = k.cu0 := rfl
@[simp] theorem CoreSt.deliver_cu1 (k : CoreSt) (x : Dom) (b n q : Nat) (e : Eff) : (k.deliver x b n q e).cu1 = k.cu1 := rfl
@[simp] theorem CoreSt.deliver_bus (k : CoreSt) (x : Dom) (b n q : Nat) (e : Eff) : (k.deliver x b n q e).bus = k.bus := rfl
@[simp] theorem CoreSt.deliver_ports (k : CoreSt) (x : Dom) (b n q : Nat) (e : Eff) : (k.deliver x b n q e).ports = k.ports := rfl
@[simp] theorem CoreSt.deliver_lastA (k : CoreSt) (x : Dom) (b n q : Nat) (e : Eff) : (k.deliver x b n q e).lastA = k.lastA := rfl
@[simp] theorem CoreSt.deliver_lastB (k : CoreSt) (x : Dom) (b n q : Nat) (e : Eff) : (k.deliver x b n q e).lastB = k.lastB := rfl
@[simp] theorem CoreSt.deliver_lastSc (k : CoreSt) (x : Dom) (b n q : Nat) (e : Eff) : (k.deliver x b n q e).lastSc = k.lastSc := rfl
@[simp] theorem CoreSt.deliver_lc (k : CoreSt) (x : Dom) (b n q : Nat) (e : Eff) : (k.deliver x b n q e).lc = k.lc := rfl
@[simp] theorem CoreSt.deliver_tlb (k : CoreSt) (x : Dom) (b n q : Nat) (e : Eff) : (k.deliver x b n q e).tlb = k.tlb := rfl
@[simp] theorem CoreSt.deliver_ifb (k : CoreSt) (x : Dom) (b n q : Nat) (e : Eff) : (k.deliver x b n q e).ifb = k.ifb := rfl
@[simp] theorem CoreSt.deliver_invReq (k : CoreSt) (x : Dom) (b n q : Nat) (e : Eff) : (k.deliver x b n q e).invReq = k.invReq := rfl
@[simp] theorem CoreSt.deliver_preempt (k : CoreSt) (x : Dom) (b n q : Nat) (e : Eff) : (k.deliver x b n q e).preempt = k.preempt := rfl
@[simp] theorem CoreSt.deliver_saveTo (k : CoreSt) (x : Dom) (b n q : Nat) (e : Eff) : (k.deliver x b n q e).saveTo = k.saveTo := rfl
@[simp] theorem CoreSt.deliver_dbgEn (k : CoreSt) (x : Dom) (b n q : Nat) (e : Eff) : (k.deliver x b n q e).dbgEn = k.dbgEn := rfl
@[simp] theorem CoreSt.deliver_dbgStop (k : CoreSt) (x : Dom) (b n q : Nat) (e : Eff) : (k.deliver x b n q e).dbgStop = k.dbgStop := rfl
@[simp] theorem CoreSt.deliver_dbgStep (k : CoreSt) (x : Dom) (b n q : Nat) (e : Eff) : (k.deliver x b n q e).dbgStep = k.dbgStep := rfl
@[simp] theorem CoreSt.deliver_stepArm (k : CoreSt) (x : Dom) (b n q : Nat) (e : Eff) : (k.deliver x b n q e).stepArm = k.stepArm := rfl
@[simp] theorem CoreSt.deliver_resumeDue (k : CoreSt) (x : Dom) (b n q : Nat) (e : Eff) : (k.deliver x b n q e).resumeDue = k.resumeDue := rfl
@[simp] theorem CoreSt.deliver_tele (k : CoreSt) (x : Dom) (b n q : Nat) (e : Eff) : (k.deliver x b n q e).tele = k.tele := rfl
@[simp] theorem CoreSt.deliver_mclass (k : CoreSt) (x : Dom) (b n q : Nat) (e : Eff) : (k.deliver x b n q e).mclass = k.mclass := rfl
@[simp] theorem CoreSt.deliver_mlast (k : CoreSt) (x : Dom) (b n q : Nat) (e : Eff) : (k.deliver x b n q e).mlast = k.mlast := rfl
@[simp] theorem CoreSt.deliver_lastArr (k : CoreSt) (x : Dom) (b n q : Nat) (e : Eff) : (k.deliver x b n q e).lastArr = k.lastArr := rfl
@[simp] theorem CoreSt.deliver_nid (k : CoreSt) (x : Dom) (b n q : Nat) (e : Eff) : (k.deliver x b n q e).nid = k.nid := rfl
@[simp] theorem CoreSt.deliver_early (k : CoreSt) (x : Dom) (b n q : Nat) (e : Eff) : (k.deliver x b n q e).early = k.early := rfl
@[simp] theorem CoreSt.deliver_samples (k : CoreSt) (x : Dom) (b n q : Nat) (e : Eff) : (k.deliver x b n q e).samples = k.samples := rfl
@[simp] theorem CoreSt.deliver_fetchFor (k : CoreSt) (x : Dom) (b n q : Nat) (e : Eff) : (k.deliver x b n q e).fetchFor = k.fetchFor := rfl
@[simp] theorem CoreSt.deliver_bg (k : CoreSt) (x : Dom) (b n q : Nat) (e : Eff) : (k.deliver x b n q e).bg = k.bg := rfl
@[simp] theorem CoreSt.count_r (k : CoreSt) (i n : Nat) : (k.count i n).r = k.r := rfl
@[simp] theorem CoreSt.count_ck (k : CoreSt) (i n : Nat) : (k.count i n).ck = k.ck := rfl
@[simp] theorem CoreSt.count_ckSeq (k : CoreSt) (i n : Nat) : (k.count i n).ckSeq = k.ckSeq := rfl
@[simp] theorem CoreSt.count_run (k : CoreSt) (i n : Nat) : (k.count i n).run = k.run := rfl
@[simp] theorem CoreSt.count_ctx (k : CoreSt) (i n : Nat) : (k.count i n).ctx = k.ctx := rfl
@[simp] theorem CoreSt.count_launch (k : CoreSt) (i n : Nat) : (k.count i n).launch = k.launch := rfl
@[simp] theorem CoreSt.count_stg (k : CoreSt) (i n : Nat) : (k.count i n).stg = k.stg := rfl
@[simp] theorem CoreSt.count_wfw (k : CoreSt) (i n : Nat) : (k.count i n).wfw = k.wfw := rfl
@[simp] theorem CoreSt.count_sfi (k : CoreSt) (i n : Nat) : (k.count i n).sfi = k.sfi := rfl
@[simp] theorem CoreSt.count_cyc (k : CoreSt) (i n : Nat) : (k.count i n).cyc = k.cyc := rfl
@[simp] theorem CoreSt.count_since (k : CoreSt) (i n : Nat) : (k.count i n).since = k.since := rfl
@[simp] theorem CoreSt.count_overrun (k : CoreSt) (i n : Nat) : (k.count i n).overrun = k.overrun := rfl
@[simp] theorem CoreSt.count_div (k : CoreSt) (i n : Nat) : (k.count i n).div = k.div := rfl
@[simp] theorem CoreSt.count_base (k : CoreSt) (i n : Nat) : (k.count i n).base = k.base := rfl
@[simp] theorem CoreSt.count_seq (k : CoreSt) (i n : Nat) : (k.count i n).seq = k.seq := rfl
@[simp] theorem CoreSt.count_gap (k : CoreSt) (i n : Nat) : (k.count i n).gap = k.gap := rfl
@[simp] theorem CoreSt.count_forced (k : CoreSt) (i n : Nat) : (k.count i n).forced = k.forced := rfl
@[simp] theorem CoreSt.count_heldFor (k : CoreSt) (i n : Nat) : (k.count i n).heldFor = k.heldFor := rfl
@[simp] theorem CoreSt.count_heldBy (k : CoreSt) (i n : Nat) : (k.count i n).heldBy = k.heldBy := rfl
@[simp] theorem CoreSt.count_wait (k : CoreSt) (i n : Nat) : (k.count i n).wait = k.wait := rfl
@[simp] theorem CoreSt.count_waitBy (k : CoreSt) (i n : Nat) : (k.count i n).waitBy = k.waitBy := rfl
@[simp] theorem CoreSt.count_bufFull (k : CoreSt) (i n : Nat) : (k.count i n).bufFull = k.bufFull := rfl
@[simp] theorem CoreSt.count_pullClosed (k : CoreSt) (i n : Nat) : (k.count i n).pullClosed = k.pullClosed := rfl
@[simp] theorem CoreSt.count_pullEmpty (k : CoreSt) (i n : Nat) : (k.count i n).pullEmpty = k.pullEmpty := rfl
@[simp] theorem CoreSt.count_pend (k : CoreSt) (i n : Nat) : (k.count i n).pend = k.pend := rfl
@[simp] theorem CoreSt.count_loads (k : CoreSt) (i n : Nat) : (k.count i n).loads = k.loads := rfl
@[simp] theorem CoreSt.count_wst (k : CoreSt) (i n : Nat) : (k.count i n).wst = k.wst := rfl
@[simp] theorem CoreSt.count_sto (k : CoreSt) (i n : Nat) : (k.count i n).sto = k.sto := rfl
@[simp] theorem CoreSt.count_fences (k : CoreSt) (i n : Nat) : (k.count i n).fences = k.fences := rfl
@[simp] theorem CoreSt.count_after (k : CoreSt) (i n : Nat) : (k.count i n).after = k.after := rfl
@[simp] theorem CoreSt.count_cpc (k : CoreSt) (i n : Nat) : (k.count i n).cpc = k.cpc := rfl
@[simp] theorem CoreSt.count_til (k : CoreSt) (i n : Nat) : (k.count i n).til = k.til := rfl
@[simp] theorem CoreSt.count_wmx (k : CoreSt) (i n : Nat) : (k.count i n).wmx = k.wmx := rfl
@[simp] theorem CoreSt.count_pops (k : CoreSt) (i n : Nat) : (k.count i n).pops = k.pops := rfl
@[simp] theorem CoreSt.count_rec_ (k : CoreSt) (i n : Nat) : (k.count i n).rec_ = k.rec_ := rfl
@[simp] theorem CoreSt.count_tok (k : CoreSt) (i n : Nat) : (k.count i n).tok = k.tok := rfl
@[simp] theorem CoreSt.count_ring (k : CoreSt) (i n : Nat) : (k.count i n).ring = k.ring := rfl
@[simp] theorem CoreSt.count_codeBase (k : CoreSt) (i n : Nat) : (k.count i n).codeBase = k.codeBase := rfl
@[simp] theorem CoreSt.count_dict (k : CoreSt) (i n : Nat) : (k.count i n).dict = k.dict := rfl
@[simp] theorem CoreSt.count_swVpr (k : CoreSt) (i n : Nat) : (k.count i n).swVpr = k.swVpr := rfl
@[simp] theorem CoreSt.count_swCnt (k : CoreSt) (i n : Nat) : (k.count i n).swCnt = k.swCnt := rfl
@[simp] theorem CoreSt.count_sw (k : CoreSt) (i n : Nat) : (k.count i n).sw = k.sw := rfl
@[simp] theorem CoreSt.count_granted (k : CoreSt) (i n : Nat) : (k.count i n).granted = k.granted := rfl
@[simp] theorem CoreSt.count_ustore (k : CoreSt) (i n : Nat) : (k.count i n).ustore = k.ustore := rfl
@[simp] theorem CoreSt.count_uentry (k : CoreSt) (i n : Nat) : (k.count i n).uentry = k.uentry := rfl
@[simp] theorem CoreSt.count_lq (k : CoreSt) (i n : Nat) : (k.count i n).lq = k.lq := rfl
@[simp] theorem CoreSt.count_aq (k : CoreSt) (i n : Nat) : (k.count i n).aq = k.aq := rfl
@[simp] theorem CoreSt.count_dq (k : CoreSt) (i n : Nat) : (k.count i n).dq = k.dq := rfl
@[simp] theorem CoreSt.count_lrun (k : CoreSt) (i n : Nat) : (k.count i n).lrun = k.lrun := rfl
@[simp] theorem CoreSt.count_arun (k : CoreSt) (i n : Nat) : (k.count i n).arun = k.arun := rfl
@[simp] theorem CoreSt.count_arbTo (k : CoreSt) (i n : Nat) : (k.count i n).arbTo = k.arbTo := rfl
@[simp] theorem CoreSt.count_arrCtx (k : CoreSt) (i n : Nat) : (k.count i n).arrCtx = k.arrCtx := rfl
@[simp] theorem CoreSt.count_latBy (k : CoreSt) (i n : Nat) : (k.count i n).latBy = k.latBy := rfl
@[simp] theorem CoreSt.count_accBy (k : CoreSt) (i n : Nat) : (k.count i n).accBy = k.accBy := rfl
@[simp] theorem CoreSt.count_drun (k : CoreSt) (i n : Nat) : (k.count i n).drun = k.drun := rfl
@[simp] theorem CoreSt.count_tail (k : CoreSt) (i n : Nat) : (k.count i n).tail = k.tail := rfl
@[simp] theorem CoreSt.count_slew (k : CoreSt) (i n : Nat) : (k.count i n).slew = k.slew := rfl
@[simp] theorem CoreSt.count_fc (k : CoreSt) (i n : Nat) : (k.count i n).fc = k.fc := rfl
@[simp] theorem CoreSt.count_fa (k : CoreSt) (i n : Nat) : (k.count i n).fa = k.fa := rfl
@[simp] theorem CoreSt.count_rix (k : CoreSt) (i n : Nat) : (k.count i n).rix = k.rix := rfl
@[simp] theorem CoreSt.count_astop (k : CoreSt) (i n : Nat) : (k.count i n).astop = k.astop := rfl
@[simp] theorem CoreSt.count_mxTrap (k : CoreSt) (i n : Nat) : (k.count i n).mxTrap = k.mxTrap := rfl
@[simp] theorem CoreSt.count_xlTrap (k : CoreSt) (i n : Nat) : (k.count i n).xlTrap = k.xlTrap := rfl
@[simp] theorem CoreSt.count_ubad (k : CoreSt) (i n : Nat) : (k.count i n).ubad = k.ubad := rfl
@[simp] theorem CoreSt.count_epi (k : CoreSt) (i n : Nat) : (k.count i n).epi = k.epi := rfl
@[simp] theorem CoreSt.count_check (k : CoreSt) (i n : Nat) : (k.count i n).check = k.check := rfl
@[simp] theorem CoreSt.count_carry (k : CoreSt) (i n : Nat) : (k.count i n).carry = k.carry := rfl
@[simp] theorem CoreSt.count_cks (k : CoreSt) (i n : Nat) : (k.count i n).cks = k.cks := rfl
@[simp] theorem CoreSt.count_scw (k : CoreSt) (i n : Nat) : (k.count i n).scw = k.scw := rfl
@[simp] theorem CoreSt.count_cu0 (k : CoreSt) (i n : Nat) : (k.count i n).cu0 = k.cu0 := rfl
@[simp] theorem CoreSt.count_cu1 (k : CoreSt) (i n : Nat) : (k.count i n).cu1 = k.cu1 := rfl
@[simp] theorem CoreSt.count_bus (k : CoreSt) (i n : Nat) : (k.count i n).bus = k.bus := rfl
@[simp] theorem CoreSt.count_ports (k : CoreSt) (i n : Nat) : (k.count i n).ports = k.ports := rfl
@[simp] theorem CoreSt.count_lastA (k : CoreSt) (i n : Nat) : (k.count i n).lastA = k.lastA := rfl
@[simp] theorem CoreSt.count_lastB (k : CoreSt) (i n : Nat) : (k.count i n).lastB = k.lastB := rfl
@[simp] theorem CoreSt.count_lastSc (k : CoreSt) (i n : Nat) : (k.count i n).lastSc = k.lastSc := rfl
@[simp] theorem CoreSt.count_lc (k : CoreSt) (i n : Nat) : (k.count i n).lc = k.lc := rfl
@[simp] theorem CoreSt.count_tlb (k : CoreSt) (i n : Nat) : (k.count i n).tlb = k.tlb := rfl
@[simp] theorem CoreSt.count_ifb (k : CoreSt) (i n : Nat) : (k.count i n).ifb = k.ifb := rfl
@[simp] theorem CoreSt.count_invReq (k : CoreSt) (i n : Nat) : (k.count i n).invReq = k.invReq := rfl
@[simp] theorem CoreSt.count_preempt (k : CoreSt) (i n : Nat) : (k.count i n).preempt = k.preempt := rfl
@[simp] theorem CoreSt.count_saveTo (k : CoreSt) (i n : Nat) : (k.count i n).saveTo = k.saveTo := rfl
@[simp] theorem CoreSt.count_dbgEn (k : CoreSt) (i n : Nat) : (k.count i n).dbgEn = k.dbgEn := rfl
@[simp] theorem CoreSt.count_dbgStop (k : CoreSt) (i n : Nat) : (k.count i n).dbgStop = k.dbgStop := rfl
@[simp] theorem CoreSt.count_dbgStep (k : CoreSt) (i n : Nat) : (k.count i n).dbgStep = k.dbgStep := rfl
@[simp] theorem CoreSt.count_stepArm (k : CoreSt) (i n : Nat) : (k.count i n).stepArm = k.stepArm := rfl
@[simp] theorem CoreSt.count_resumeDue (k : CoreSt) (i n : Nat) : (k.count i n).resumeDue = k.resumeDue := rfl
@[simp] theorem CoreSt.count_mclass (k : CoreSt) (i n : Nat) : (k.count i n).mclass = k.mclass := rfl
@[simp] theorem CoreSt.count_mlast (k : CoreSt) (i n : Nat) : (k.count i n).mlast = k.mlast := rfl
@[simp] theorem CoreSt.count_lastArr (k : CoreSt) (i n : Nat) : (k.count i n).lastArr = k.lastArr := rfl
@[simp] theorem CoreSt.count_nid (k : CoreSt) (i n : Nat) : (k.count i n).nid = k.nid := rfl
@[simp] theorem CoreSt.count_early (k : CoreSt) (i n : Nat) : (k.count i n).early = k.early := rfl
@[simp] theorem CoreSt.count_samples (k : CoreSt) (i n : Nat) : (k.count i n).samples = k.samples := rfl
@[simp] theorem CoreSt.count_fetchFor (k : CoreSt) (i n : Nat) : (k.count i n).fetchFor = k.fetchFor := rfl
@[simp] theorem CoreSt.count_bg (k : CoreSt) (i n : Nat) : (k.count i n).bg = k.bg := rfl
@[simp] theorem CoreSt.deliver_pend (k : CoreSt) (x : Dom) (b n q : Nat) (e : Eff) :
    (k.deliver x b n q e).pend = insDel k.pend ⟨x, n, b + n * k.div.get x, q, e⟩ := rfl

end Sys2Proof.Machine
end

