-- ==== Sys2Proof/Laws/Memory.lean ====
section
/-! SUPPORT. Tables and byte storage: what is read after a write, and that every write keeps the canonical form. -/

namespace Sys2Proof.Machine

/-! Tables. -/

theorem tget_eq_tfind {α : Type} (d : α) (t : Tbl α) (k : Nat) : tget d t k = (tfind t k).getD d := by
  induction t with
  | nil => rfl
  | cons e r ih => obtain ⟨a, x⟩ := e; by_cases h : a = k <;> simp [tget, tfind, h, ih]

theorem tfind_tset {α : Type} (t : Tbl α) (k j : Nat) (v : α) :
    tfind (tset t k v) j = if j = k then some v else tfind t j := by
  induction t with
  | nil => simp only [tset, tfind, eq_comm]
  | cons e r ih =>
    obtain ⟨a, x⟩ := e
    by_cases h : a = k
    · subst h; simp only [tset, if_pos, tfind, eq_comm]; split <;> simp_all
    · simp only [tset, if_neg h]
      split
      · simp only [tfind, eq_comm]
      · simp only [tfind, ih]; split <;> split <;> simp_all

@[simp] theorem tfind_tset_self {α : Type} (t : Tbl α) (k : Nat) (v : α) : tfind (tset t k v) k = some v := by
  simp [tfind_tset]

theorem tfind_tset_ne {α : Type} (t : Tbl α) {k j : Nat} (v : α) (h : j ≠ k) : tfind (tset t k v) j = tfind t j := by
  simp [tfind_tset, h]

@[simp] theorem tget_tset_self {α : Type} (d : α) (t : Tbl α) (k : Nat) (v : α) : tget d (tset t k v) k = v := by
  simp [tget_eq_tfind]

theorem tget_tset_ne {α : Type} (d : α) (t : Tbl α) {k j : Nat} (v : α) (h : j ≠ k) :
    tget d (tset t k v) j = tget d t j := by
  simp [tget_eq_tfind, tfind_tset_ne _ _ h]

@[simp] theorem tget_tmod_self {α : Type} (d : α) (t : Tbl α) (k : Nat) (f : α → α) : tget d (tmod d t k f) k = f (tget d t k) := by
  simp [tmod]

theorem tget_tmod_ne {α : Type} (d : α) (t : Tbl α) {k j : Nat} (f : α → α) (h : j ≠ k) : tget d (tmod d t k f) j = tget d t j := by
  simp [tmod, tget_tset_ne _ _ _ h]

theorem tfind_filter {α : Type} (t : Tbl α) (p : Nat → Bool) (k : Nat) :
    tfind (t.filter fun e => p e.1) k = if p k then tfind t k else none := by
  induction t with
  | nil => simp [tfind]
  | cons e r ih =>
    obtain ⟨a, x⟩ := e
    by_cases h : p a = true
    · simp only [List.filter_cons, h, if_true, tfind, ih]
      by_cases e : a = k
      · subst e; simp [h]
      · simp [e]
    · rw [List.filter_cons_of_neg (by simpa using h), ih]
      by_cases e : a = k
      · subst e; simp [h]
      · simp [tfind, e]

@[simp] theorem tfind_tdel_self {α : Type} (t : Tbl α) (k : Nat) : tfind (tdel t k) k = none := by
  simpa [tdel] using tfind_filter t (fun a => a != k) k

theorem tfind_tdel_ne {α : Type} (t : Tbl α) {k j : Nat} (h : j ≠ k) : tfind (tdel t k) j = tfind t j := by
  simpa [tdel, h] using tfind_filter t (fun a => a != k) j

/-! Reading after a write. -/

theorem memRd_filter (m : List Host.Cell) (p : Nat → Bool) (k : Nat) :
    memRd (m.filter fun c => p c.1) k = if p k then memRd m k else 0 := by
  induction m with
  | nil => simp [memRd]
  | cons e r ih =>
    obtain ⟨a, x⟩ := e
    by_cases h : p a = true
    · simp only [List.filter_cons, h, if_true, memRd, ih]
      by_cases e : a = k
      · subst e; simp [h]
      · simp [e]
    · rw [List.filter_cons_of_neg (by simpa using h), ih]
      by_cases e : a = k
      · subst e; simp [h]
      · simp [memRd, e]

theorem memRd_memIns (m : List Host.Cell) (k j : Nat) (b : Byte) (h : ∀ c ∈ m, c.1 ≠ k) :
    memRd (memIns m k b) j = if j = k then b else memRd m j := by
  induction m with
  | nil => simp only [memIns, memRd, eq_comm]
  | cons e r ih =>
    obtain ⟨a, x⟩ := e
    have ha : a ≠ k := h (a, x) (by simp)
    have hr : ∀ c ∈ r, c.1 ≠ k := fun c hc => h c (by simp [hc])
    simp only [memIns]
    split
    · simp only [memRd, ih hr]; split <;> split <;> simp_all
    · simp only [memRd, eq_comm]

/-- What a byte holds after one byte has been written. -/
theorem memRd_memWr (m : List Host.Cell) (k j : Nat) (b : Byte) :
    memRd (memWr m k b) j = if j = k then b else memRd m j := by
  unfold memWr
  have hf := memRd_filter m (fun a => a != k) j
  split
  · rename_i h
    rw [hf]
    by_cases e : j = k <;> simp [e, h]
  · rw [memRd_memIns _ _ _ _ (by simp), hf]
    by_cases e : j = k <;> simp [e]

@[simp] theorem memRd_memWr_self (m : List Host.Cell) (k : Nat) (b : Byte) : memRd (memWr m k b) k = b := by simp [memRd_memWr]

theorem memRd_memWr_ne (m : List Host.Cell) {k j : Nat} (b : Byte) (h : j ≠ k) : memRd (memWr m k b) j = memRd m j := by
  simp [memRd_memWr, h]

@[simp] theorem memWrs_nil (m : List Host.Cell) : memWrs m [] = m := rfl
@[simp] theorem memWrs_cons (m : List Host.Cell) (c : Host.Cell) (l : List Host.Cell) :
    memWrs m (c :: l) = memWrs (memWr m c.1 c.2) l := rfl
theorem memWrs_append (m : List Host.Cell) (l r : List Host.Cell) : memWrs m (l ++ r) = memWrs (memWrs m l) r := by
  simp [memWrs]

/-- A byte that no written cell names keeps its value. -/
theorem memRd_memWrs_ne (l : List Host.Cell) : ∀ (m : List Host.Cell) (k : Nat), (∀ c ∈ l, c.1 ≠ k) → memRd (memWrs m l) k = memRd m k := by
  induction l with
  | nil => intro m k _; rfl
  | cons c l ih =>
    intro m k h
    rw [memWrs_cons, ih _ _ (fun d hd => h d (by simp [hd])), memRd_memWr_ne _ _ (Ne.symm (h c (by simp)))]

theorem memRd_memZero (m : List Host.Cell) (lo hi k : Nat) :
    memRd (memZero m lo hi) k = if lo ≤ k ∧ k < hi then 0 else memRd m k := by
  have h := memRd_filter m (fun a => decide (a < lo) || decide (hi ≤ a)) k
  simp only [memZero, h]
  by_cases a : k < lo <;> by_cases b : hi ≤ k <;> simp [a, b]

theorem mem_cellsOf (n : Nat) : ∀ (k v : Nat) (c : Host.Cell), c ∈ cellsOf k v n → k ≤ c.1 ∧ c.1 < k + n := by
  induction n with
  | zero => intro k v c h; simp [cellsOf] at h
  | succ n ih =>
    intro k v c h
    simp only [cellsOf, List.mem_cons] at h
    rcases h with h | h
    · subst h; simp
    · have := ih _ _ _ h; omega

/-- A byte outside the written bytes keeps its value. -/
theorem memRd_cellsOf_ne (m : List Host.Cell) (n k v a : Nat) (h : a < k ∨ k + n ≤ a) :
    memRd (memWrs m (cellsOf k v n)) a = memRd m a := by
  apply memRd_memWrs_ne
  intro c hc
  have := mem_cellsOf _ _ _ _ hc
  omega

theorem memRdN_congr (m m' : List Host.Cell) : ∀ (n k : Nat), (∀ a, k ≤ a → a < k + n → memRd m a = memRd m' a) →
    memRdN m k n = memRdN m' k n := by
  intro n
  induction n with
  | zero => intro k _; rfl
  | succ n ih =>
    intro k h
    simp only [memRdN, h k (by omega) (by omega), ih (k + 1) (fun a h1 h2 => h a (by omega) (by omega))]

/-- n bytes read after they have been written give the low n bytes of the value. -/
theorem memRdN_cellsOf (n : Nat) : ∀ (m : List Host.Cell) (k v : Nat), memRdN (memWrs m (cellsOf k v n)) k n = v % 256 ^ n := by
  induction n with
  | zero => intro m k v; simp [memRdN, Nat.mod_one]
  | succ n ih =>
    intro m k v
    simp only [cellsOf, memWrs_cons, memRdN]
    rw [ih, memRd_cellsOf_ne _ _ _ _ _ (Or.inl (by omega)), memRd_memWr_self]
    simp only [BitVec.toNat_ofNat]
    rw [show (256 : Nat) ^ (n + 1) = 256 * 256 ^ n by rw [Nat.pow_succ, Nat.mul_comm], Nat.mod_mul]

theorem memRdN_lt (m : List Host.Cell) : ∀ (n k : Nat), memRdN m k n < 256 ^ n := by
  intro n
  induction n with
  | zero => intro k; simp [memRdN]
  | succ n ih =>
    intro k
    have h1 := ih (k + 1)
    have h2 := (memRd m k).isLt
    simp only [memRdN, Nat.pow_succ]
    omega

/-! The canonical form. -/

theorem wf_iff (m : List Host.Cell) :
    Memory.wf m = true ↔ m.Pairwise (fun a b => a.1 < b.1) ∧ ∀ c ∈ m, c.2 ≠ 0 := by
  induction m with
  | nil => simp [Memory.wf]
  | cons e r ih =>
    obtain ⟨a, b⟩ := e
    cases r with
    | nil => simp [Memory.wf]
    | cons e' r' =>
      obtain ⟨a', b'⟩ := e'
      simp only [Memory.wf, Bool.and_eq_true, ih, bne_iff_ne, decide_eq_true_eq]
      constructor
      · rintro ⟨⟨h1, h2⟩, h3, h4⟩
        refine ⟨List.pairwise_cons.2 ⟨?_, h3⟩, ?_⟩
        · intro c hc
          rcases List.mem_cons.1 hc with rfl | hc
          · exact h2
          · exact Nat.lt_trans h2 ((List.pairwise_cons.1 h3).1 c hc)
        · intro c hc
          rcases List.mem_cons.1 hc with rfl | hc
          · exact h1
          · exact h4 c hc
      · rintro ⟨h1, h2⟩
        have h3 := List.pairwise_cons.1 h1
        exact ⟨⟨h2 (a, b) (by simp), h3.1 (a', b') (by simp)⟩, h3.2, fun c hc => h2 c (by simp [hc])⟩

theorem wf_filter {m : List Host.Cell} (p : Host.Cell → Bool) (h : Memory.wf m = true) : Memory.wf (m.filter p) = true := by
  rw [wf_iff] at *
  exact ⟨h.1.sublist List.filter_sublist, fun c hc => h.2 c (List.mem_of_mem_filter hc)⟩

theorem mem_memIns (m : List Host.Cell) (k : Nat) (b : Byte) (c : Host.Cell) : c ∈ memIns m k b ↔ c = (k, b) ∨ c ∈ m := by
  induction m with
  | nil => simp [memIns]
  | cons e r ih =>
    obtain ⟨a, x⟩ := e
    simp only [memIns]
    split
    · simp only [List.mem_cons, ih]; tauto
    · simp

theorem wf_memIns {m : List Host.Cell} {k : Nat} {b : Byte} (h : Memory.wf m = true) (hb : b ≠ 0) (hk : ∀ c ∈ m, c.1 ≠ k) :
    Memory.wf (memIns m k b) = true := by
  rw [wf_iff] at *
  refine ⟨?_, ?_⟩
  · induction m with
    | nil => simp [memIns]
    | cons e r ih =>
      obtain ⟨a, x⟩ := e
      have hp := List.pairwise_cons.1 h.1
      have hk' : ∀ c ∈ r, c.1 ≠ k := fun c hc => hk c (by simp [hc])
      simp only [memIns]
      split
      · rename_i lt
        refine List.pairwise_cons.2 ⟨?_, ih ⟨hp.2, fun c hc => h.2 c (by simp [hc])⟩ hk'⟩
        intro c hc
        rcases (mem_memIns _ _ _ _).1 hc with rfl | hc
        · exact lt
        · exact hp.1 c hc
      · rename_i nlt
        have ne := hk (a, x) (by simp)
        have lt : k < a := by simp only at ne; omega
        refine List.pairwise_cons.2 ⟨?_, h.1⟩
        intro c hc
        rcases List.mem_cons.1 hc with rfl | hc
        · exact lt
        · exact Nat.lt_trans lt (hp.1 c hc)
  · intro c hc
    rcases (mem_memIns _ _ _ _).1 hc with rfl | hc
    · exact hb
    · exact h.2 c hc

/-- Writing a byte keeps the canonical form. -/
theorem wf_memWr {m : List Host.Cell} (k : Nat) (b : Byte) (h : Memory.wf m = true) : Memory.wf (memWr m k b) = true := by
  unfold memWr
  split
  · exact wf_filter _ h
  · exact wf_memIns (wf_filter _ h) (by assumption) (by simp)

theorem wf_memWrs (l : List Host.Cell) : ∀ {m : List Host.Cell}, Memory.wf m = true → Memory.wf (memWrs m l) = true := by
  induction l with
  | nil => intro m h; exact h
  | cons c l ih => intro m h; exact ih (wf_memWr _ _ h)

theorem wf_memZero {m : List Host.Cell} (lo hi : Nat) (h : Memory.wf m = true) : Memory.wf (memZero m lo hi) = true := wf_filter _ h

/-- Two canonical memories that read alike at every address are equal. -/
theorem wf_ext {m m' : List Host.Cell} (h : Memory.wf m = true) (h' : Memory.wf m' = true) (e : ∀ a, memRd m a = memRd m' a) : m = m' := by
  rw [wf_iff] at h h'
  have rd : ∀ (l : List Host.Cell), l.Pairwise (fun a b => a.1 < b.1) → ∀ c ∈ l, memRd l c.1 = c.2 := by
    intro l
    induction l with
    | nil => intro _ c hc; simp at hc
    | cons x r ih =>
      intro hp c hc
      obtain ⟨a, b⟩ := x
      have hp := List.pairwise_cons.1 hp
      rcases List.mem_cons.1 hc with rfl | hc
      · simp [memRd]
      · have := hp.1 c hc
        simp only at this
        simp only [memRd, if_neg (Nat.ne_of_lt this), ih hp.2 c hc]
  have out : ∀ (l : List Host.Cell) (a : Nat), memRd l a ≠ 0 → (a, memRd l a) ∈ l := by
    intro l a
    induction l with
    | nil => intro h; simp [memRd] at h
    | cons x r ih =>
      obtain ⟨k, b⟩ := x
      intro hn
      simp only [memRd] at hn ⊢
      split
      · rename_i e; subst e; simp
      · rename_i ne; rw [if_neg ne] at hn; exact List.mem_cons_of_mem _ (ih hn)
  have sub : ∀ (l l' : List Host.Cell), l.Pairwise (fun a b => a.1 < b.1) → (∀ c ∈ l, c.2 ≠ 0) → (∀ a, memRd l a = memRd l' a) →
      ∀ c ∈ l, c ∈ l' := by
    intro l l' hp hn he c hc
    have h1 := rd l hp c hc
    have h2 : memRd l' c.1 ≠ 0 := by rw [← he, h1]; exact hn c hc
    have h3 := out l' c.1 h2
    rwa [← he, h1] at h3
  have nd : ∀ (l : List Host.Cell), l.Pairwise (fun a b => a.1 < b.1) → l.Nodup := by
    intro l hp
    exact hp.imp (fun hlt e => by subst e; exact Nat.lt_irrefl _ hlt)
  have p : m.Perm m' := (List.perm_ext_iff_of_nodup (nd _ h.1) (nd _ h'.1)).2 fun c =>
    ⟨sub m m' h.1 h.2 e c, sub m' m h'.1 h'.2 (fun a => (e a).symm) c⟩
  exact p.eq_of_pairwise (fun a b _ _ h1 h2 => absurd h1 (Nat.lt_asymm h2)) h.1 h'.1

end Sys2Proof.Machine
end

