-- ==== Sys2Proof/Laws/Frame.lean ====
section
/-! SUPPORT. What the issue of an operation leaves alone: storage, the registers of the other cores and the registers by which the
management cores control the islands, one lemma for each operation that the meanings of the slots call. -/

set_option linter.unusedTactic false
set_option linter.unreachableTactic false

namespace Sys2Proof.Machine
variable {s0 : State}

/-- Storage, the registers of the other cores and the control registers of the islands are as in the first state. -/
def Kept (s0 t : State) : Prop := t.cur = s0.cur ∧ t.mem = s0.mem ∧ (∀ c, c ≠ s0.cur → (t.core.get c).r = (s0.core.get c).r) ∧
  ∀ y, (t.isl.get y).control = (s0.isl.get y).control ∧ (t.isl.get y).fences = (s0.isl.get y).fences
/-- The state that an outcome answers keeps them. -/
def OutKept (s0 : State) (o : Out) : Prop := match o with | .next t => Kept s0 t | _ => True

theorem outKept_next (t : State) : OutKept s0 (.next t) = Kept s0 t := rfl
theorem outKept_fault (x : Fault) : OutKept s0 (.fault x) := trivial

theorem kept_mk (a : Nat) (b : List Entry) (c : Nat) (d : CoreId) (e : Bundle) (f : Arg) (m : List Host.Cell) (g : Vector CoreSt 132)
    (h : Vector IslandSt 4) (i : DevSt) : Kept s0 ⟨a, b, c, d, e, f, m, g, h, i⟩ = (d = s0.cur ∧ m = s0.mem ∧ (∀ c, c ≠ s0.cur → (g.get c).r = (s0.core.get c).r) ∧
  ∀ y, (h.get y).control = (s0.isl.get y).control ∧ (h.get y).fences = (s0.isl.get y).fences) := rfl
theorem kept_wf {s : State} (h : Kept s0 s) : (s.cur = s0.cur ∧ s.mem = s0.mem ∧ (∀ c, c ≠ s0.cur → (s.core.get c).r = (s0.core.get c).r) ∧
  ∀ y, (s.isl.get y).control = (s0.isl.get y).control ∧ (s.isl.get y).fences = (s0.isl.get y).fences) := h
theorem modC_kept {s : State} {c : CoreId} {f : CoreSt → CoreSt} (h : Kept s0 s) (hf : ∀ k, (f k).r = k.r) : Kept s0 (s.modC c f) := by
  refine ⟨h.1, h.2.1, fun d hd => ?_, h.2.2.2⟩
  rw [State.modC_get_if]; split
  · rw [hf]; exact h.2.2.1 d hd
  · exact h.2.2.1 d hd
theorem modI_kept {s : State} {c : Isl} {f : IslandSt → IslandSt} (h : Kept s0 s) (hf : ∀ k, (f k).control = k.control ∧ (f k).fences = k.fences) : Kept s0 (s.modI c f) := by
  refine ⟨h.1, h.2.1, h.2.2.1, fun d => ?_⟩
  rw [State.modI_get_if]; split
  · rw [(hf _).1, (hf _).2]; exact h.2.2.2 d
  · exact h.2.2.2 d
theorem modD_kept {s : State} {f : DevSt → DevSt} (h : Kept s0 s) : Kept s0 (s.modD f) := h
theorem modMe_kept {s : State} {f : CoreSt → CoreSt} (h : Kept s0 s) : Kept s0 (s.modMe f) := by
  refine ⟨h.1, h.2.1, fun d hd => ?_, h.2.2.2⟩
  rw [State.modMe, State.modC_get_ne]
  · exact h.2.2.1 d hd
  · rw [h.1]; exact hd
theorem at_kept {s : State} {t : Nat} {d : Due} (h : Kept s0 s) : Kept s0 (s.at t d) := h
theorem after_kept {s : State} {t : Nat} {d : Due} (h : Kept s0 s) : Kept s0 (s.after t d) := h
theorem now_kept {s : State} {i : Instr} {a : Arg} (h : Kept s0 s) : Kept s0 (s.now i a) := h
theorem pick_kept {s : State} (h : Kept s0 s) : Kept s0 s.pick.2 := h
theorem pickW_kept {s : State} (h : Kept s0 s) : Kept s0 s.pickW.2 := h
theorem pick_pair_kept {s t : State} {n : Nat} (h : s.pick = (n, t)) (hs : Kept s0 s) : Kept s0 t := by
  simp only [State.pick, Prod.mk.injEq] at h; rw [← h.2]; exact hs
theorem pickW_pair_kept {s t : State} {n : W64} (h : s.pickW = (n, t)) (hs : Kept s0 s) : Kept s0 t := by
  simp only [State.pickW, Prod.mk.injEq] at h; rw [← h.2]; exact hs
theorem kept_ite {c : Prop} [Decidable c] {a b : State} (ha : Kept s0 a) (hb : Kept s0 b) : Kept s0 (if c then a else b) := by
  split <;> assumption
theorem kept_foldl {α : Type} (f : State → α → State) (l : List α) (s : State) (h : Kept s0 s)
    (hf : ∀ (x : State) (a : α), Kept s0 x → Kept s0 (f x a)) : Kept s0 (l.foldl f s) := by
  induction l generalizing s with
  | nil => exact h
  | cons a l ih => exact ih _ (hf _ _ h)
theorem kept_elim {α : Type} (o : Option α) (f : α → State) (s : State) (h : Kept s0 s) (hf : ∀ x, Kept s0 (f x)) :
    Kept s0 (o.elim s f) := by
  cases o with
  | none => exact h
  | some a => exact hf a

theorem kept_foldr {α : Type} (f : α → State → State) (l : List α) (s : State) (h : Kept s0 s)
    (hf : ∀ (a : α) (x : State), Kept s0 x → Kept s0 (f a x)) : Kept s0 (l.foldr f s) := by
  induction l with
  | nil => exact h
  | cons a l ih => exact hf _ _ ih

/-! Ops. -/

theorem deliver_kept (n : Nat) (e : Eff) (s : State) (h_s : Kept s0 s) : Kept s0 (deliver n e s) := by
  unfold deliver
  with_reducible repeat' (first
    | assumption | (intro _) | apply modMe_kept | dsimp only)
  all_goals first | rfl | exact ⟨rfl, rfl⟩ | (simp only [IslandSt.count, CoreSt.count] <;> first | done | exact ⟨rfl, rfl⟩)

theorem State.modL_kept (s : State) (n : Nat) (f : Launch → Launch) (h_s : Kept s0 s) : Kept s0 (State.modL s n f) := by
  unfold State.modL
  with_reducible repeat' (first
    | assumption | (intro _) | apply modD_kept | split | dsimp only
    | (rw [kept_mk]; apply kept_wf; first | assumption | apply modD_kept))
  all_goals first | rfl | exact ⟨rfl, rfl⟩ | (simp only [IslandSt.count, CoreSt.count] <;> first | done | exact ⟨rfl, rfl⟩)

theorem undoPops_kept (c : CoreId) (s : State) (h_s : Kept s0 s) : Kept s0 (undoPops c s) := by
  unfold undoPops
  with_reducible repeat' (first
    | assumption | (intro _) | apply State.modL_kept | split | dsimp only
    | (rw [kept_mk]; apply kept_wf; first | assumption | apply State.modL_kept))
  all_goals first | rfl | exact ⟨rfl, rfl⟩ | (simp only [IslandSt.count, CoreSt.count] <;> first | done | exact ⟨rfl, rfl⟩)

theorem rollback_kept (s : State) (h_s : Kept s0 s) : Kept s0 (rollback s.cur s) := by
  have h1 := undoPops_kept s.cur s h_s
  have e : s.cur = (undoPops s.cur s).cur := by rw [h1.1, h_s.1]
  have := modMe_kept (f := fun k => (fun k : CoreSt => { k with
      r := k.ck
      pend := k.pend.filter fun d => decide (d.seq ≤ k.ckSeq)
      loads := k.loads.filter fun d => decide (d.seq ≤ k.ckSeq)
      fences := k.fences.filter fun d => decide (d.seq ≤ k.ckSeq)
      early := k.early.filter fun d => decide (d.seq ≤ k.ckSeq)
      after := k.after.filter fun d => decide (d.1 ≤ k.ckSeq)
      scw := k.scw.filter fun d => decide (d.seq ≤ k.ckSeq)
      wst := []
      wmx := []
      pops := []
      ring := k.ring.map fun g => { g with rels := 0 }
      gap := 0
      forced := false
      heldFor := 0
      heldBy := 0
      wait := 0
      waitBy := 0
      bufFull := false
      fetchFor := 0
      pullClosed := k.pullClosed.filter fun n => decide (n * 8 ≤ k.ckSeq)
      pullEmpty := k.pullEmpty.filter fun n => decide (n * 8 ≤ k.ckSeq)
      samples := k.samples.map fun x => if k.ckSeq < x.num * 8 then { x with undone := true } else x }) k) h1
  unfold State.modMe at this
  rw [← e] at this
  exact this

theorem takeTrap_kept (cause : Byte) (fadr dtl : W64) (s : State) (h_s : Kept s0 s) : Kept s0 (takeTrap cause fadr dtl s) := by
  unfold takeTrap
  with_reducible repeat' (first
    | assumption | (intro _) | apply modMe_kept | apply rollback_kept | dsimp only
    | (rw [kept_mk]; apply kept_wf; first | assumption | apply modMe_kept | apply rollback_kept))
  all_goals first | rfl | exact ⟨rfl, rfl⟩ | (simp only [IslandSt.count, CoreSt.count] <;> first | done | exact ⟨rfl, rfl⟩)

theorem illegal_kept (op : Nat) (s : State) (h_s : Kept s0 s) : Kept s0 (illegal op s) := by
  unfold illegal
  with_reducible repeat' (first
    | assumption | (intro _) | apply takeTrap_kept | dsimp only)
  all_goals first | rfl | exact ⟨rfl, rfl⟩ | (simp only [IslandSt.count, CoreSt.count] <;> first | done | exact ⟨rfl, rfl⟩)

theorem markPieces_kept (ps : List Nat) (unit : Nat) (s : State) (h_s : Kept s0 s) : Kept s0 (markPieces ps unit s) := by
  unfold markPieces
  with_reducible repeat' (first
    | assumption | (intro _) | apply modD_kept | apply kept_foldl | dsimp only
    | (rw [kept_mk]; apply kept_wf; first | assumption | apply modD_kept | apply kept_foldl))
  all_goals first | rfl | exact ⟨rfl, rfl⟩ | (simp only [IslandSt.count, CoreSt.count] <;> first | done | exact ⟨rfl, rfl⟩)

theorem elogPut_kept (r : BitVec 256) (s : State) (h_s : Kept s0 s) : Kept s0 (elogPut r s) := by
  unfold elogPut
  with_reducible repeat' (first
    | assumption | (intro _) | apply modD_kept | dsimp only
    | (rw [kept_mk]; apply kept_wf; first | assumption | apply modD_kept))
  all_goals first | rfl | exact ⟨rfl, rfl⟩ | (simp only [IslandSt.count, CoreSt.count] <;> first | done | exact ⟨rfl, rfl⟩)

theorem noteError_kept (y : Isl) (key n : Nat) (s : State) (h_s : Kept s0 s) : Kept s0 (noteError y key n s) := by
  unfold noteError
  with_reducible repeat' (first
    | assumption | (intro _) | apply modI_kept | apply modD_kept | apply kept_foldl | apply elogPut_kept
    | apply markPieces_kept | apply modD_kept | dsimp only
    | (rw [kept_mk]; apply kept_wf; first | assumption | apply modI_kept | apply modD_kept | apply kept_foldl | apply elogPut_kept | apply markPieces_kept | apply modD_kept))
  all_goals first | rfl | exact ⟨rfl, rfl⟩ | (simp only [IslandSt.count, CoreSt.count] <;> first | done | exact ⟨rfl, rfl⟩)

theorem reach_kept (y : Isl) (key n : Nat) (s : State) (h_s : Kept s0 s) : Kept s0 (reach y key n s) := by
  unfold reach
  with_reducible repeat' (first
    | assumption | (intro _) | apply noteError_kept | apply markPieces_kept | apply kept_ite | split | dsimp only
    | (rw [kept_mk]; apply kept_wf; first | assumption | apply noteError_kept | apply markPieces_kept | apply kept_ite))
  all_goals first | rfl | exact ⟨rfl, rfl⟩ | (simp only [IslandSt.count, CoreSt.count] <;> first | done | exact ⟨rfl, rfl⟩)

theorem reachKeys_kept (y : Isl) (keys : List Nat) (s : State) (h_s : Kept s0 s) : Kept s0 (reachKeys y keys s) := by
  unfold reachKeys
  with_reducible repeat' (first
    | assumption | (intro _) | apply kept_foldl | apply reach_kept | dsimp only
    | (rw [kept_mk]; apply kept_wf; first | assumption | apply kept_foldl | apply reach_kept))
  all_goals first | rfl | exact ⟨rfl, rfl⟩ | (simp only [IslandSt.count, CoreSt.count] <;> first | done | exact ⟨rfl, rfl⟩)

theorem consume_kept (reg : Bool) (fadr : W64) (unit : Nat) (key : Option Nat) (s : State) (h_s : Kept s0 s) : Kept s0 (consume reg fadr unit key s) := by
  unfold consume
  with_reducible repeat' (first
    | assumption | (intro _) | apply kept_ite | split | dsimp only
    | (rw [kept_mk]; apply kept_wf; first | assumption | apply kept_ite))
  all_goals first | rfl | exact ⟨rfl, rfl⟩ | (simp only [IslandSt.count, CoreSt.count] <;> first | done | exact ⟨rfl, rfl⟩)

theorem chargeCtx_kept (cx : BitVec 7) (s : State) (h_s : Kept s0 s) : Kept s0 (chargeCtx cx s) := by
  unfold chargeCtx
  with_reducible repeat' (first
    | assumption | (intro _) | apply modD_kept | apply pick_kept | split | refine pick_pair_kept (by assumption) ?_
    | dsimp only
    | (rw [kept_mk]; apply kept_wf; first | assumption | apply modD_kept | apply pick_kept | refine pick_pair_kept (by assumption) ?_))
  all_goals first | rfl | exact ⟨rfl, rfl⟩ | (simp only [IslandSt.count, CoreSt.count] <;> first | done | exact ⟨rfl, rfl⟩)

/-! Operands. -/

theorem guarded_kept (g : Guard) (s : State) (f : State → State) (h_s : Kept s0 s) (h_f : ∀ x : State, Kept s0 x → Kept s0 (f x)) : OutKept s0 (guarded g s f) := by
  unfold guarded
  with_reducible repeat' (first
    | assumption | (intro _) | rw [outKept_next] | apply h_f | apply kept_ite | split | dsimp only)
  all_goals first | rfl | exact ⟨rfl, rfl⟩ | (simp only [IslandSt.count, CoreSt.count] <;> first | done | exact ⟨rfl, rfl⟩)

theorem guardedIf_kept (ok : Bool) (op : Nat) (g : Guard) (s : State) (f : State → State) (h_s : Kept s0 s) (h_f : ∀ x : State, Kept s0 x → Kept s0 (f x)) : OutKept s0 (guardedIf ok op g s f) := by
  unfold guardedIf
  with_reducible repeat' (first
    | assumption | (intro _) | rw [outKept_next] | apply guarded_kept | apply illegal_kept | apply h_f | apply kept_ite | split
    | dsimp only)
  all_goals first | rfl | exact ⟨rfl, rfl⟩ | (simp only [IslandSt.count, CoreSt.count] <;> first | done | exact ⟨rfl, rfl⟩)

theorem toS_kept (n : Nat) (d : BitVec 6) (v : W64) (s : State) (h_s : Kept s0 s) : Kept s0 (toS n d v s) := by
  unfold toS
  with_reducible repeat' (first
    | assumption | (intro _) | apply deliver_kept | dsimp only)
  all_goals first | rfl | exact ⟨rfl, rfl⟩ | (simp only [IslandSt.count, CoreSt.count] <;> first | done | exact ⟨rfl, rfl⟩)

theorem toP_kept (n : Nat) (d : BitVec 4) (v : W64) (s : State) (h_s : Kept s0 s) : Kept s0 (toP n d v s) := by
  unfold toP
  with_reducible repeat' (first
    | assumption | (intro _) | apply deliver_kept | dsimp only)
  all_goals first | rfl | exact ⟨rfl, rfl⟩ | (simp only [IslandSt.count, CoreSt.count] <;> first | done | exact ⟨rfl, rfl⟩)

/-! Flags. -/

theorem toSFlags_kept (n : Nat) (d : BitVec 6) (v : W64) (f : Byte) (s : State) (h_s : Kept s0 s) : Kept s0 (toSFlags n d v f s) := by
  unfold toSFlags
  with_reducible repeat' (first
    | assumption | (intro _) | apply deliver_kept | apply toS_kept | dsimp only)
  all_goals first | rfl | exact ⟨rfl, rfl⟩ | (simp only [IslandSt.count, CoreSt.count] <;> first | done | exact ⟨rfl, rfl⟩)

/-! Xlate. -/

theorem keepXlat_kept (c : CoreId) (r : XRes) (s : State) (h_s : Kept s0 s) : Kept s0 (keepXlat c r s) := by
  unfold keepXlat
  with_reducible repeat' (first
    | assumption | (intro _) | apply modC_kept | apply modI_kept | apply pick_kept | apply kept_foldl | apply kept_ite
    | split | refine pick_pair_kept (by assumption) ?_ | dsimp only
    | (rw [kept_mk]; apply kept_wf; first | assumption | apply modC_kept | apply modI_kept | apply pick_kept | apply kept_foldl | apply kept_ite | refine pick_pair_kept (by assumption) ?_))
  all_goals first | rfl | exact ⟨rfl, rfl⟩ | (simp only [IslandSt.count, CoreSt.count] <;> first | done | exact ⟨rfl, rfl⟩)

theorem needLine_kept {c : CoreId} {va : Nat} {s t : State} (h : needLine c va s = .ok t) (h_s : Kept s0 s) : Kept s0 t := by
  unfold needLine at h
  split at h
  · cases h; exact h_s
  · split at h
    · cases h
    · split at h
      · cases h
        exact modC_kept (keepXlat_kept _ _ _ (kept_ite (reach_kept _ _ _ _ h_s) h_s)) (fun _ => rfl)
      · cases h
      · split at h <;> cases h
      · cases h

theorem useLine_kept {c : CoreId} {va : Nat} {s t : State} (h : useLine c va s = .ok t) (h_s : Kept s0 s) : Kept s0 t := by
  unfold useLine at h
  split at h
  · cases h
  · rename_i h1
    split at h <;> cases h
    exact needLine_kept h1 h_s

theorem bundleLen_kept {c : CoreId} {va n : Nat} {s t : State} (h : bundleLen c va s = .ok (n, t)) (h_s : Kept s0 s) : Kept s0 t := by
  unfold bundleLen at h
  split at h
  · cases h
  · rename_i h1
    dsimp only at h
    split at h <;> cases h
    exact useLine_kept h1 h_s

theorem skipBundles_kept {c : CoreId} (n : Nat) : ∀ {va m : Nat} {s t : State}, skipBundles c n va s = .ok (m, t) → Kept s0 s → Kept s0 t := by
  induction n with
  | zero => intro va m s t h h_s; cases h; exact h_s
  | succ n ih =>
    intro va m s t h h_s
    unfold skipBundles at h
    split at h
    · cases h
    · rename_i h1
      exact ih h (bundleLen_kept h1 h_s)

/-! Access. -/

theorem withhold_kept (sp : Sp) (va : W64) (cells : List Host.Cell) (entries : Nat) (rel : Bool) (scp : BitVec 2) (bad : Option Nat) (trip : Trip) (s : State) (h_s : Kept s0 s) : Kept s0 (withhold sp va cells entries rel scp bad trip s) := by
  unfold withhold
  with_reducible repeat' (first
    | assumption | (intro _) | apply modMe_kept | dsimp only
    | (rw [kept_mk]; apply kept_wf; first | assumption | apply modMe_kept))
  all_goals first | rfl | exact ⟨rfl, rfl⟩ | (simp only [IslandSt.count, CoreSt.count] <;> first | done | exact ⟨rfl, rfl⟩)

theorem issueCop_kept (dt : Nat) (f : Nat → Nat → Cop) (s : State) (h_s : Kept s0 s) : Kept s0 (issueCop dt f s) := by
  unfold issueCop
  with_reducible repeat' (first
    | assumption | (intro _) | apply modMe_kept | apply after_kept | dsimp only
    | (rw [kept_mk]; apply kept_wf; first | assumption | apply modMe_kept | apply after_kept))
  all_goals first | rfl | exact ⟨rfl, rfl⟩ | (simp only [IslandSt.count, CoreSt.count] <;> first | done | exact ⟨rfl, rfl⟩)

theorem issueFree_kept (f : Nat → Nat → Cop) (s : State) (h_s : Kept s0 s) : Kept s0 (issueFree f s) := by
  unfold issueFree
  with_reducible repeat' (first
    | assumption | (intro _) | apply pick_kept | apply issueCop_kept | split | refine pick_pair_kept (by assumption) ?_
    | dsimp only)
  all_goals first | rfl | exact ⟨rfl, rfl⟩ | (simp only [IslandSt.count, CoreSt.count] <;> first | done | exact ⟨rfl, rfl⟩)

theorem stagingTicks_kept (s : State) (c : CoreId) (a extra : Nat) (h_s : Kept s0 s) : Kept s0 (stagingTicks s c a extra).2 := by
  unfold stagingTicks
  with_reducible repeat' (first
    | assumption | (intro _) | apply pick_kept | apply kept_ite | split | refine pick_pair_kept (by assumption) ?_
    | dsimp only)
  all_goals first | rfl | exact ⟨rfl, rfl⟩ | (simp only [IslandSt.count, CoreSt.count] <;> first | done | exact ⟨rfl, rfl⟩)

theorem stagingTicks_pair_kept {s : State} {c : CoreId} {a extra : Nat} {t : State} {zz : Nat} (h : (stagingTicks s c a extra) = (zz, t)) (h_s : Kept s0 s) : Kept s0 t := by
  have := stagingTicks_kept s c a extra h_s
  rw [h] at this; exact this

theorem notePad_kept (c : CoreId) (b : PathOp) (s : State) (h_s : Kept s0 s) : Kept s0 (notePad c b s) := by
  unfold notePad
  with_reducible repeat' (first
    | assumption | (intro _) | apply modC_kept | apply kept_ite | split | dsimp only
    | (rw [kept_mk]; apply kept_wf; first | assumption | apply modC_kept | apply kept_ite))
  all_goals first | rfl | exact ⟨rfl, rfl⟩ | (simp only [IslandSt.count, CoreSt.count] <;> first | done | exact ⟨rfl, rfl⟩)

theorem sendMsg_kept (a b : Isl) (i : Instr) (g : Arg) (s : State) (h_s : Kept s0 s) : Kept s0 (sendMsg a b i g s) := by
  unfold sendMsg
  with_reducible repeat' (first
    | assumption | (intro _) | apply after_kept | dsimp only)
  all_goals first | rfl | exact ⟨rfl, rfl⟩ | (simp only [IslandSt.count, CoreSt.count] <;> first | done | exact ⟨rfl, rfl⟩)

theorem invAgents_kept (y : Isl) (line : Nat) (but : Option CoreId) (s : State) (h_s : Kept s0 s) : Kept s0 (invAgents y line but s) := by
  unfold invAgents
  with_reducible repeat' (first
    | assumption | (intro _) | apply modC_kept | apply kept_foldl | apply kept_ite | split | dsimp only
    | (rw [kept_mk]; apply kept_wf; first | assumption | apply modC_kept | apply kept_foldl | apply kept_ite))
  all_goals first | rfl | exact ⟨rfl, rfl⟩ | (simp only [IslandSt.count, CoreSt.count] <;> first | done | exact ⟨rfl, rfl⟩)

theorem writeBack_kept (e : ShelfLine) (s : State) (h_s : Kept s0 s) : Kept s0 (writeBack e s) := by
  unfold writeBack
  with_reducible repeat' (first
    | assumption | (intro _) | apply modD_kept | apply kept_ite | split | dsimp only
    | (rw [kept_mk]; apply kept_wf; first | assumption | apply modD_kept | apply kept_ite))
  all_goals first | rfl | exact ⟨rfl, rfl⟩ | (simp only [IslandSt.count, CoreSt.count] <;> first | done | exact ⟨rfl, rfl⟩)

theorem emptyShelf_kept (y : Isl) (slice : Nat) (s : State) (h_s : Kept s0 s) : Kept s0 (emptyShelf y slice s) := by
  unfold emptyShelf
  with_reducible repeat' (first
    | assumption | (intro _) | apply modI_kept | apply kept_foldl | apply writeBack_kept | apply modI_kept | dsimp only
    | (rw [kept_mk]; apply kept_wf; first | assumption | apply modI_kept | apply kept_foldl | apply writeBack_kept | apply modI_kept))
  all_goals first | rfl | exact ⟨rfl, rfl⟩ | (simp only [IslandSt.count, CoreSt.count] <;> first | done | exact ⟨rfl, rfl⟩)

theorem evictCopy_kept (y : Isl) (line : Nat) (c : Copy) (s : State) (h_s : Kept s0 s) : Kept s0 (evictCopy y line c s) := by
  unfold evictCopy
  with_reducible repeat' (first
    | assumption | (intro _) | apply modI_kept | apply invAgents_kept | apply sendMsg_kept | split | dsimp only
    | (rw [kept_mk]; apply kept_wf; first | assumption | apply modI_kept | apply invAgents_kept | apply sendMsg_kept))
  all_goals first | rfl | exact ⟨rfl, rfl⟩ | (simp only [IslandSt.count, CoreSt.count] <;> first | done | exact ⟨rfl, rfl⟩)

theorem emptyPart_kept (y : Isl) (part : Nat) (s : State) (h_s : Kept s0 s) : Kept s0 (emptyPart y part s) := by
  unfold emptyPart
  with_reducible repeat' (first
    | assumption | (intro _) | apply kept_foldl | apply evictCopy_kept | dsimp only
    | (rw [kept_mk]; apply kept_wf; first | assumption | apply kept_foldl | apply evictCopy_kept))
  all_goals first | rfl | exact ⟨rfl, rfl⟩ | (simp only [IslandSt.count, CoreSt.count] <;> first | done | exact ⟨rfl, rfl⟩)

/-! Memory. -/

theorem issueZero_kept (n : Nat) (dst : BitVec 6) (pj : BitVec 4) (va : W64) (z : Nat) (acq : Bool) (scp : BitVec 2) (s : State) (h_s : Kept s0 s) : Kept s0 (issueZero n dst pj va z acq scp s) := by
  unfold issueZero
  with_reducible repeat' (first
    | assumption | (intro _) | apply modMe_kept | apply after_kept | dsimp only
    | (rw [kept_mk]; apply kept_wf; first | assumption | apply modMe_kept | apply after_kept))
  all_goals first | rfl | exact ⟨rfl, rfl⟩ | (simp only [IslandSt.count, CoreSt.count] <;> first | done | exact ⟨rfl, rfl⟩)

theorem padRead_kept (key z : Nat) (acq rel : Bool) (scp : BitVec 2) (s : State) (h_s : Kept s0 s) : Kept s0 (padRead key z acq rel scp s) := by
  unfold padRead
  with_reducible repeat' (first
    | assumption | (intro _) | apply notePad_kept | dsimp only
    | (rw [kept_mk]; apply kept_wf; first | assumption | apply notePad_kept))
  all_goals first | rfl | exact ⟨rfl, rfl⟩ | (simp only [IslandSt.count, CoreSt.count] <;> first | done | exact ⟨rfl, rfl⟩)

theorem loadAt_kept (signed : Bool) (z k : Nat) (dst : BitVec 6) (pj : BitVec 4) (acq : Bool) (scp : BitVec 2) (x : Addr) (s : State) (h_s : Kept s0 s) : Kept s0 (loadAt signed z k dst pj acq scp x s) := by
  unfold loadAt
  with_reducible repeat' (first
    | assumption | (intro _) | apply at_kept | apply pick_kept | apply takeTrap_kept | apply issueZero_kept | apply at_kept
    | apply consume_kept | apply toS_kept | apply padRead_kept | apply stagingTicks_kept | apply issueCop_kept
    | apply keepXlat_kept | apply issueFree_kept | apply kept_ite | split | refine pick_pair_kept (by assumption) ?_
    | refine stagingTicks_pair_kept (by assumption) ?_ | dsimp only
    | (rw [kept_mk]; apply kept_wf; first | assumption | apply at_kept | apply pick_kept | apply takeTrap_kept | apply issueZero_kept | apply at_kept | apply consume_kept | apply toS_kept | apply padRead_kept | apply stagingTicks_kept | apply issueCop_kept | apply keepXlat_kept | apply issueFree_kept | apply kept_ite | refine pick_pair_kept (by assumption) ?_ | refine stagingTicks_pair_kept (by assumption) ?_))
  all_goals first | rfl | exact ⟨rfl, rfl⟩ | (simp only [IslandSt.count, CoreSt.count] <;> first | done | exact ⟨rfl, rfl⟩)

theorem loadOp_kept (op : Nat) (signed : Bool) (z : Nat) (g : Guard) (d a : BitVec 6) (j : BitVec 4) (sp : BitVec 2) (off : BitVec 22) (s : State) (h_s : Kept s0 s) : OutKept s0 (loadOp op signed z g d a j sp off s) := by
  unfold loadOp
  with_reducible repeat' (first
    | assumption | (intro _) | rw [outKept_next] | apply guarded_kept | apply loadAt_kept | dsimp only)
  all_goals first | rfl | exact ⟨rfl, rfl⟩ | (simp only [IslandSt.count, CoreSt.count] <;> first | done | exact ⟨rfl, rfl⟩)

theorem execLdb_kept (g : Guard) (d a : BitVec 6) (j : BitVec 4) (sp : BitVec 2) (off : BitVec 22) (s : State) (h_s : Kept s0 s) : OutKept s0 (execLdb g d a j sp off s) := by
  unfold execLdb
  with_reducible repeat' (first
    | assumption | (intro _) | rw [outKept_next] | apply loadOp_kept | dsimp only)
  all_goals first | rfl | exact ⟨rfl, rfl⟩ | (simp only [IslandSt.count, CoreSt.count] <;> first | done | exact ⟨rfl, rfl⟩)

theorem execLdbn_kept (g : Guard) (d a : BitVec 6) (j : BitVec 4) (sp : BitVec 2) (off : BitVec 22) (s : State) (h_s : Kept s0 s) : OutKept s0 (execLdbn g d a j sp off s) := by
  unfold execLdbn
  with_reducible repeat' (first
    | assumption | (intro _) | rw [outKept_next] | apply loadOp_kept | dsimp only)
  all_goals first | rfl | exact ⟨rfl, rfl⟩ | (simp only [IslandSt.count, CoreSt.count] <;> first | done | exact ⟨rfl, rfl⟩)

theorem execLdh_kept (g : Guard) (d a : BitVec 6) (j : BitVec 4) (sp : BitVec 2) (off : BitVec 22) (s : State) (h_s : Kept s0 s) : OutKept s0 (execLdh g d a j sp off s) := by
  unfold execLdh
  with_reducible repeat' (first
    | assumption | (intro _) | rw [outKept_next] | apply loadOp_kept | dsimp only)
  all_goals first | rfl | exact ⟨rfl, rfl⟩ | (simp only [IslandSt.count, CoreSt.count] <;> first | done | exact ⟨rfl, rfl⟩)

theorem execLdhn_kept (g : Guard) (d a : BitVec 6) (j : BitVec 4) (sp : BitVec 2) (off : BitVec 22) (s : State) (h_s : Kept s0 s) : OutKept s0 (execLdhn g d a j sp off s) := by
  unfold execLdhn
  with_reducible repeat' (first
    | assumption | (intro _) | rw [outKept_next] | apply loadOp_kept | dsimp only)
  all_goals first | rfl | exact ⟨rfl, rfl⟩ | (simp only [IslandSt.count, CoreSt.count] <;> first | done | exact ⟨rfl, rfl⟩)

theorem execLdw_kept (g : Guard) (d a : BitVec 6) (j : BitVec 4) (sp : BitVec 2) (off : BitVec 22) (s : State) (h_s : Kept s0 s) : OutKept s0 (execLdw g d a j sp off s) := by
  unfold execLdw
  with_reducible repeat' (first
    | assumption | (intro _) | rw [outKept_next] | apply loadOp_kept | dsimp only)
  all_goals first | rfl | exact ⟨rfl, rfl⟩ | (simp only [IslandSt.count, CoreSt.count] <;> first | done | exact ⟨rfl, rfl⟩)

theorem execLdwn_kept (g : Guard) (d a : BitVec 6) (j : BitVec 4) (sp : BitVec 2) (off : BitVec 22) (s : State) (h_s : Kept s0 s) : OutKept s0 (execLdwn g d a j sp off s) := by
  unfold execLdwn
  with_reducible repeat' (first
    | assumption | (intro _) | rw [outKept_next] | apply loadOp_kept | dsimp only)
  all_goals first | rfl | exact ⟨rfl, rfl⟩ | (simp only [IslandSt.count, CoreSt.count] <;> first | done | exact ⟨rfl, rfl⟩)

theorem execLdd_kept (g : Guard) (d a : BitVec 6) (j : BitVec 4) (sp : BitVec 2) (off : BitVec 22) (s : State) (h_s : Kept s0 s) : OutKept s0 (execLdd g d a j sp off s) := by
  unfold execLdd
  with_reducible repeat' (first
    | assumption | (intro _) | rw [outKept_next] | apply loadOp_kept | dsimp only)
  all_goals first | rfl | exact ⟨rfl, rfl⟩ | (simp only [IslandSt.count, CoreSt.count] <;> first | done | exact ⟨rfl, rfl⟩)

theorem execLda_kept (g : Guard) (d a : BitVec 6) (j : BitVec 4) (sp scp sz : BitVec 2) (off : BitVec 22) (s : State) (h_s : Kept s0 s) : OutKept s0 (execLda g d a j sp scp sz off s) := by
  unfold execLda
  with_reducible repeat' (first
    | assumption | (intro _) | rw [outKept_next] | apply guarded_kept | apply loadAt_kept | dsimp only)
  all_goals first | rfl | exact ⟨rfl, rfl⟩ | (simp only [IslandSt.count, CoreSt.count] <;> first | done | exact ⟨rfl, rfl⟩)

theorem execLdk_kept (g : Guard) (d a : BitVec 6) (j : BitVec 4) (sp : BitVec 2) (k : BitVec 7) (sz : BitVec 2) (off : BitVec 22) (s : State) (h_s : Kept s0 s) : OutKept s0 (execLdk g d a j sp k sz off s) := by
  unfold execLdk
  with_reducible repeat' (first
    | assumption | (intro _) | rw [outKept_next] | apply guardedIf_kept | apply loadAt_kept | dsimp only)
  all_goals first | rfl | exact ⟨rfl, rfl⟩ | (simp only [IslandSt.count, CoreSt.count] <;> first | done | exact ⟨rfl, rfl⟩)

theorem execLdr_kept (g : Guard) (pd : BitVec 4) (a : BitVec 6) (sp : BitVec 2) (off : BitVec 22) (s : State) (h_s : Kept s0 s) : OutKept s0 (execLdr g pd a sp off s) := by
  unfold execLdr
  with_reducible repeat' (first
    | assumption | (intro _) | rw [outKept_next] | apply at_kept | apply guardedIf_kept | apply takeTrap_kept | apply toP_kept
    | apply keepXlat_kept | split | dsimp only)
  all_goals first | rfl | exact ⟨rfl, rfl⟩ | (simp only [IslandSt.count, CoreSt.count] <;> first | done | exact ⟨rfl, rfl⟩)

theorem execPgin_kept (g : Guard) (d a : BitVec 6) (sp : BitVec 2) (off : BitVec 22) (s : State) (h_s : Kept s0 s) : OutKept s0 (execPgin g d a sp off s) := by
  unfold execPgin
  with_reducible repeat' (first
    | assumption | (intro _) | rw [outKept_next] | apply modI_kept | apply at_kept | apply after_kept | apply pick_kept
    | apply guardedIf_kept | apply takeTrap_kept | apply toS_kept | apply kept_ite | split
    | refine pick_pair_kept (by assumption) ?_ | dsimp only
    | (rw [kept_mk]; apply kept_wf; first | assumption | apply modI_kept | apply at_kept | apply after_kept | apply pick_kept | apply guardedIf_kept | apply takeTrap_kept | apply toS_kept | apply kept_ite | refine pick_pair_kept (by assumption) ?_))
  all_goals first | rfl | exact ⟨rfl, rfl⟩ | (simp only [IslandSt.count, CoreSt.count] <;> first | done | exact ⟨rfl, rfl⟩)

theorem storeAt_kept (z : Nat) (v : W64) (rel : Bool) (scp : BitVec 2) (x : Addr) (s : State) (h_s : Kept s0 s) : Kept s0 (storeAt z v rel scp x s) := by
  unfold storeAt
  with_reducible repeat' (first
    | assumption | (intro _) | apply at_kept | apply takeTrap_kept | apply at_kept | apply withhold_kept
    | apply keepXlat_kept | split | dsimp only
    | (rw [kept_mk]; apply kept_wf; first | assumption | apply at_kept | apply takeTrap_kept | apply at_kept | apply withhold_kept | apply keepXlat_kept))
  all_goals first | rfl | exact ⟨rfl, rfl⟩ | (simp only [IslandSt.count, CoreSt.count] <;> first | done | exact ⟨rfl, rfl⟩)

theorem storeOp_kept (op z : Nat) (g : Guard) (a b : BitVec 6) (sp : BitVec 2) (off : BitVec 22) (s : State) (h_s : Kept s0 s) : OutKept s0 (storeOp op z g a b sp off s) := by
  unfold storeOp
  with_reducible repeat' (first
    | assumption | (intro _) | rw [outKept_next] | apply guarded_kept | apply storeAt_kept | dsimp only)
  all_goals first | rfl | exact ⟨rfl, rfl⟩ | (simp only [IslandSt.count, CoreSt.count] <;> first | done | exact ⟨rfl, rfl⟩)

theorem execStb_kept (g : Guard) (a b : BitVec 6) (sp : BitVec 2) (off : BitVec 22) (s : State) (h_s : Kept s0 s) : OutKept s0 (execStb g a b sp off s) := by
  unfold execStb
  with_reducible repeat' (first
    | assumption | (intro _) | rw [outKept_next] | apply storeOp_kept | dsimp only)
  all_goals first | rfl | exact ⟨rfl, rfl⟩ | (simp only [IslandSt.count, CoreSt.count] <;> first | done | exact ⟨rfl, rfl⟩)

theorem execSth_kept (g : Guard) (a b : BitVec 6) (sp : BitVec 2) (off : BitVec 22) (s : State) (h_s : Kept s0 s) : OutKept s0 (execSth g a b sp off s) := by
  unfold execSth
  with_reducible repeat' (first
    | assumption | (intro _) | rw [outKept_next] | apply storeOp_kept | dsimp only)
  all_goals first | rfl | exact ⟨rfl, rfl⟩ | (simp only [IslandSt.count, CoreSt.count] <;> first | done | exact ⟨rfl, rfl⟩)

theorem execStw_kept (g : Guard) (a b : BitVec 6) (sp : BitVec 2) (off : BitVec 22) (s : State) (h_s : Kept s0 s) : OutKept s0 (execStw g a b sp off s) := by
  unfold execStw
  with_reducible repeat' (first
    | assumption | (intro _) | rw [outKept_next] | apply storeOp_kept | dsimp only)
  all_goals first | rfl | exact ⟨rfl, rfl⟩ | (simp only [IslandSt.count, CoreSt.count] <;> first | done | exact ⟨rfl, rfl⟩)

theorem execStd_kept (g : Guard) (a b : BitVec 6) (sp : BitVec 2) (off : BitVec 22) (s : State) (h_s : Kept s0 s) : OutKept s0 (execStd g a b sp off s) := by
  unfold execStd
  with_reducible repeat' (first
    | assumption | (intro _) | rw [outKept_next] | apply storeOp_kept | dsimp only)
  all_goals first | rfl | exact ⟨rfl, rfl⟩ | (simp only [IslandSt.count, CoreSt.count] <;> first | done | exact ⟨rfl, rfl⟩)

theorem execStl_kept (g : Guard) (a b : BitVec 6) (sp scp sz : BitVec 2) (off : BitVec 22) (s : State) (h_s : Kept s0 s) : OutKept s0 (execStl g a b sp scp sz off s) := by
  unfold execStl
  with_reducible repeat' (first
    | assumption | (intro _) | rw [outKept_next] | apply guarded_kept | apply storeAt_kept | dsimp only)
  all_goals first | rfl | exact ⟨rfl, rfl⟩ | (simp only [IslandSt.count, CoreSt.count] <;> first | done | exact ⟨rfl, rfl⟩)

theorem amoAt_kept (op : AmoOp) (z : Nat) (d b : BitVec 6) (ord scp : BitVec 2) (x : Addr) (s : State) (h_s : Kept s0 s) : Kept s0 (amoAt op z d b ord scp x s) := by
  unfold amoAt
  with_reducible repeat' (first
    | assumption | (intro _) | apply modMe_kept | apply at_kept | apply after_kept | apply takeTrap_kept | apply at_kept
    | apply consume_kept | apply withhold_kept | apply padRead_kept | apply modMe_kept | apply after_kept
    | apply stagingTicks_kept | apply issueCop_kept | apply issueFree_kept | apply keepXlat_kept | split
    | refine stagingTicks_pair_kept (by assumption) ?_ | dsimp only
    | (rw [kept_mk]; apply kept_wf; first | assumption | apply modMe_kept | apply at_kept | apply after_kept | apply takeTrap_kept | apply at_kept | apply consume_kept | apply withhold_kept | apply padRead_kept | apply modMe_kept | apply after_kept | apply stagingTicks_kept | apply issueCop_kept | apply issueFree_kept | apply keepXlat_kept | refine stagingTicks_pair_kept (by assumption) ?_))
  all_goals first | rfl | exact ⟨rfl, rfl⟩ | (simp only [IslandSt.count, CoreSt.count] <;> first | done | exact ⟨rfl, rfl⟩)

theorem amoInstr_kept (code : Nat) (op : AmoOp) (g : Guard) (d a b : BitVec 6) (sp ord scp sz : BitVec 2) (off : BitVec 22) (s : State) (h_s : Kept s0 s) : OutKept s0 (amoInstr code op g d a b sp ord scp sz off s) := by
  unfold amoInstr
  with_reducible repeat' (first
    | assumption | (intro _) | rw [outKept_next] | apply guardedIf_kept | apply amoAt_kept | dsimp only)
  all_goals first | rfl | exact ⟨rfl, rfl⟩ | (simp only [IslandSt.count, CoreSt.count] <;> first | done | exact ⟨rfl, rfl⟩)

theorem execAmoadd_kept (g : Guard) (d a b : BitVec 6) (sp ord scp sz : BitVec 2) (off : BitVec 22) (s : State) (h_s : Kept s0 s) : OutKept s0 (execAmoadd g d a b sp ord scp sz off s) := by
  unfold execAmoadd
  with_reducible repeat' (first
    | assumption | (intro _) | rw [outKept_next] | apply amoInstr_kept | dsimp only)
  all_goals first | rfl | exact ⟨rfl, rfl⟩ | (simp only [IslandSt.count, CoreSt.count] <;> first | done | exact ⟨rfl, rfl⟩)

theorem execAmoand_kept (g : Guard) (d a b : BitVec 6) (sp ord scp sz : BitVec 2) (off : BitVec 22) (s : State) (h_s : Kept s0 s) : OutKept s0 (execAmoand g d a b sp ord scp sz off s) := by
  unfold execAmoand
  with_reducible repeat' (first
    | assumption | (intro _) | rw [outKept_next] | apply amoInstr_kept | dsimp only)
  all_goals first | rfl | exact ⟨rfl, rfl⟩ | (simp only [IslandSt.count, CoreSt.count] <;> first | done | exact ⟨rfl, rfl⟩)

theorem execAmoor_kept (g : Guard) (d a b : BitVec 6) (sp ord scp sz : BitVec 2) (off : BitVec 22) (s : State) (h_s : Kept s0 s) : OutKept s0 (execAmoor g d a b sp ord scp sz off s) := by
  unfold execAmoor
  with_reducible repeat' (first
    | assumption | (intro _) | rw [outKept_next] | apply amoInstr_kept | dsimp only)
  all_goals first | rfl | exact ⟨rfl, rfl⟩ | (simp only [IslandSt.count, CoreSt.count] <;> first | done | exact ⟨rfl, rfl⟩)

theorem execAmoxor_kept (g : Guard) (d a b : BitVec 6) (sp ord scp sz : BitVec 2) (off : BitVec 22) (s : State) (h_s : Kept s0 s) : OutKept s0 (execAmoxor g d a b sp ord scp sz off s) := by
  unfold execAmoxor
  with_reducible repeat' (first
    | assumption | (intro _) | rw [outKept_next] | apply amoInstr_kept | dsimp only)
  all_goals first | rfl | exact ⟨rfl, rfl⟩ | (simp only [IslandSt.count, CoreSt.count] <;> first | done | exact ⟨rfl, rfl⟩)

theorem execAmomin_kept (g : Guard) (d a b : BitVec 6) (sp ord scp sz : BitVec 2) (off : BitVec 22) (s : State) (h_s : Kept s0 s) : OutKept s0 (execAmomin g d a b sp ord scp sz off s) := by
  unfold execAmomin
  with_reducible repeat' (first
    | assumption | (intro _) | rw [outKept_next] | apply amoInstr_kept | dsimp only)
  all_goals first | rfl | exact ⟨rfl, rfl⟩ | (simp only [IslandSt.count, CoreSt.count] <;> first | done | exact ⟨rfl, rfl⟩)

theorem execAmomax_kept (g : Guard) (d a b : BitVec 6) (sp ord scp sz : BitVec 2) (off : BitVec 22) (s : State) (h_s : Kept s0 s) : OutKept s0 (execAmomax g d a b sp ord scp sz off s) := by
  unfold execAmomax
  with_reducible repeat' (first
    | assumption | (intro _) | rw [outKept_next] | apply amoInstr_kept | dsimp only)
  all_goals first | rfl | exact ⟨rfl, rfl⟩ | (simp only [IslandSt.count, CoreSt.count] <;> first | done | exact ⟨rfl, rfl⟩)

theorem execAmominn_kept (g : Guard) (d a b : BitVec 6) (sp ord scp sz : BitVec 2) (off : BitVec 22) (s : State) (h_s : Kept s0 s) : OutKept s0 (execAmominn g d a b sp ord scp sz off s) := by
  unfold execAmominn
  with_reducible repeat' (first
    | assumption | (intro _) | rw [outKept_next] | apply amoInstr_kept | dsimp only)
  all_goals first | rfl | exact ⟨rfl, rfl⟩ | (simp only [IslandSt.count, CoreSt.count] <;> first | done | exact ⟨rfl, rfl⟩)

theorem execAmomaxn_kept (g : Guard) (d a b : BitVec 6) (sp ord scp sz : BitVec 2) (off : BitVec 22) (s : State) (h_s : Kept s0 s) : OutKept s0 (execAmomaxn g d a b sp ord scp sz off s) := by
  unfold execAmomaxn
  with_reducible repeat' (first
    | assumption | (intro _) | rw [outKept_next] | apply amoInstr_kept | dsimp only)
  all_goals first | rfl | exact ⟨rfl, rfl⟩ | (simp only [IslandSt.count, CoreSt.count] <;> first | done | exact ⟨rfl, rfl⟩)

theorem execAmoswp_kept (g : Guard) (d a b : BitVec 6) (sp ord scp sz : BitVec 2) (off : BitVec 22) (s : State) (h_s : Kept s0 s) : OutKept s0 (execAmoswp g d a b sp ord scp sz off s) := by
  unfold execAmoswp
  with_reducible repeat' (first
    | assumption | (intro _) | rw [outKept_next] | apply amoInstr_kept | dsimp only)
  all_goals first | rfl | exact ⟨rfl, rfl⟩ | (simp only [IslandSt.count, CoreSt.count] <;> first | done | exact ⟨rfl, rfl⟩)

theorem execAmocas_kept (g : Guard) (d a b : BitVec 6) (sp ord scp sz : BitVec 2) (off : BitVec 22) (s : State) (h_s : Kept s0 s) : OutKept s0 (execAmocas g d a b sp ord scp sz off s) := by
  unfold execAmocas
  with_reducible repeat' (first
    | assumption | (intro _) | rw [outKept_next] | apply amoInstr_kept | dsimp only)
  all_goals first | rfl | exact ⟨rfl, rfl⟩ | (simp only [IslandSt.count, CoreSt.count] <;> first | done | exact ⟨rfl, rfl⟩)

theorem execFence_kept (g : Guard) (ordr : BitVec 4) (scp : BitVec 2) (spc : BitVec 3) (s : State) (h_s : Kept s0 s) : OutKept s0 (execFence g ordr scp spc s) := by
  unfold execFence
  with_reducible repeat' (first
    | assumption | (intro _) | rw [outKept_next] | apply modMe_kept | apply guarded_kept | apply kept_ite | split | dsimp only
    | (rw [kept_mk]; apply kept_wf; first | assumption | apply modMe_kept | apply guarded_kept | apply kept_ite))
  all_goals first | rfl | exact ⟨rfl, rfl⟩ | (simp only [IslandSt.count, CoreSt.count] <;> first | done | exact ⟨rfl, rfl⟩)

/-! Sync. -/

theorem regionTrap_kept (r : Nat) (s : State) (h_s : Kept s0 s) : Kept s0 (regionTrap r s) := by
  unfold regionTrap
  with_reducible repeat' (first
    | assumption | (intro _) | apply takeTrap_kept | dsimp only)
  all_goals first | rfl | exact ⟨rfl, rfl⟩ | (simp only [IslandSt.count, CoreSt.count] <;> first | done | exact ⟨rfl, rfl⟩)

theorem withRegion_kept (a : BitVec 6) (rn : BitVec 12) (f : Region → State → State) (s : State) (h_f : ∀ (r : Region) (x : State), Kept s0 x → Kept s0 (f r x)) (h_s : Kept s0 s) : Kept s0 (withRegion a rn f s) := by
  unfold withRegion
  with_reducible repeat' (first
    | assumption | (intro _) | apply regionTrap_kept | apply h_f | split | dsimp only)
  all_goals first | rfl | exact ⟨rfl, rfl⟩ | (simp only [IslandSt.count, CoreSt.count] <;> first | done | exact ⟨rfl, rfl⟩)

theorem execRpub_kept (g : Guard) (d a : BitVec 6) (rn : BitVec 12) (s : State) (h_s : Kept s0 s) : OutKept s0 (execRpub g d a rn s) := by
  unfold execRpub
  with_reducible repeat' (first
    | assumption | (intro _) | rw [outKept_next] | apply guarded_kept | apply withRegion_kept | apply issueCop_kept
    | dsimp only)
  all_goals first | rfl | exact ⟨rfl, rfl⟩ | (simp only [IslandSt.count, CoreSt.count] <;> first | done | exact ⟨rfl, rfl⟩)

theorem execRadv_kept (g : Guard) (a : BitVec 6) (rn : BitVec 12) (s : State) (h_s : Kept s0 s) : OutKept s0 (execRadv g a rn s) := by
  unfold execRadv
  with_reducible repeat' (first
    | assumption | (intro _) | rw [outKept_next] | apply guarded_kept | apply withRegion_kept | apply regionTrap_kept
    | apply deliver_kept | apply kept_ite | split | dsimp only)
  all_goals first | rfl | exact ⟨rfl, rfl⟩ | (simp only [IslandSt.count, CoreSt.count] <;> first | done | exact ⟨rfl, rfl⟩)

theorem execRacq_kept (g : Guard) (d a : BitVec 6) (rn : BitVec 12) (s : State) (h_s : Kept s0 s) : OutKept s0 (execRacq g d a rn s) := by
  unfold execRacq
  with_reducible repeat' (first
    | assumption | (intro _) | rw [outKept_next] | apply modMe_kept | apply guarded_kept | apply withRegion_kept
    | apply sendMsg_kept | dsimp only
    | (rw [kept_mk]; apply kept_wf; first | assumption | apply modMe_kept | apply guarded_kept | apply withRegion_kept | apply sendMsg_kept))
  all_goals first | rfl | exact ⟨rfl, rfl⟩ | (simp only [IslandSt.count, CoreSt.count] <;> first | done | exact ⟨rfl, rfl⟩)

theorem execRrnd_kept (g : Guard) (d a : BitVec 6) (rn : BitVec 12) (rw : BitVec 2) (s : State) (h_s : Kept s0 s) : OutKept s0 (execRrnd g d a rn rw s) := by
  unfold execRrnd
  with_reducible repeat' (first
    | assumption | (intro _) | rw [outKept_next] | apply guarded_kept | apply withRegion_kept | apply toS_kept
    | apply issueCop_kept | split | dsimp only)
  all_goals first | rfl | exact ⟨rfl, rfl⟩ | (simp only [IslandSt.count, CoreSt.count] <;> first | done | exact ⟨rfl, rfl⟩)

theorem tokenTrap_kept (t : BitVec 6) (s : State) (h_s : Kept s0 s) : Kept s0 (tokenTrap t s) := by
  unfold tokenTrap
  with_reducible repeat' (first
    | assumption | (intro _) | apply takeTrap_kept | dsimp only)
  all_goals first | rfl | exact ⟨rfl, rfl⟩ | (simp only [IslandSt.count, CoreSt.count] <;> first | done | exact ⟨rfl, rfl⟩)

theorem execBarr_kept (g : Guard) (d : BitVec 6) (bn : BitVec 8) (n1 : BitVec 7) (tp : BitVec 6) (s : State) (h_s : Kept s0 s) : OutKept s0 (execBarr g d bn n1 tp s) := by
  unfold execBarr
  with_reducible repeat' (first
    | assumption | (intro _) | rw [outKept_next] | apply modMe_kept | apply guarded_kept | apply tokenTrap_kept
    | apply issueCop_kept | apply kept_ite | split | dsimp only)
  all_goals first | rfl | exact ⟨rfl, rfl⟩ | (simp only [IslandSt.count, CoreSt.count] <;> first | done | exact ⟨rfl, rfl⟩)

theorem execBwait_kept (g : Guard) (pd : BitVec 4) (a : BitVec 6) (bn : BitVec 8) (s : State) (h_s : Kept s0 s) : OutKept s0 (execBwait g pd a bn s) := by
  unfold execBwait
  with_reducible repeat' (first
    | assumption | (intro _) | rw [outKept_next] | apply guarded_kept | apply toP_kept | dsimp only)
  all_goals first | rfl | exact ⟨rfl, rfl⟩ | (simp only [IslandSt.count, CoreSt.count] <;> first | done | exact ⟨rfl, rfl⟩)

theorem execBgen_kept (g : Guard) (d : BitVec 6) (bn : BitVec 8) (s : State) (h_s : Kept s0 s) : OutKept s0 (execBgen g d bn s) := by
  unfold execBgen
  with_reducible repeat' (first
    | assumption | (intro _) | rw [outKept_next] | apply guarded_kept | apply toS_kept | dsimp only)
  all_goals first | rfl | exact ⟨rfl, rfl⟩ | (simp only [IslandSt.count, CoreSt.count] <;> first | done | exact ⟨rfl, rfl⟩)

theorem execTkwait_kept (_g : Guard) (_ta _tb _tc : BitVec 6) (s : State) (h_s : Kept s0 s) : OutKept s0 (execTkwait _g _ta _tb _tc s) := by
  unfold execTkwait
  with_reducible repeat' (first
    | assumption | (intro _) | rw [outKept_next] | dsimp only)
  all_goals first | rfl | exact ⟨rfl, rfl⟩ | (simp only [IslandSt.count, CoreSt.count] <;> first | done | exact ⟨rfl, rfl⟩)

theorem execTkpoll_kept (g : Guard) (pd : BitVec 4) (ta : BitVec 6) (s : State) (h_s : Kept s0 s) : OutKept s0 (execTkpoll g pd ta s) := by
  unfold execTkpoll
  with_reducible repeat' (first
    | assumption | (intro _) | rw [outKept_next] | apply guarded_kept | apply toP_kept | dsimp only)
  all_goals first | rfl | exact ⟨rfl, rfl⟩ | (simp only [IslandSt.count, CoreSt.count] <;> first | done | exact ⟨rfl, rfl⟩)

theorem ringTrap_kept (cause : Byte) (q : BitVec 4) (s : State) (h_s : Kept s0 s) : Kept s0 (ringTrap cause q s) := by
  unfold ringTrap
  with_reducible repeat' (first
    | assumption | (intro _) | apply takeTrap_kept | dsimp only)
  all_goals first | rfl | exact ⟨rfl, rfl⟩ | (simp only [IslandSt.count, CoreSt.count] <;> first | done | exact ⟨rfl, rfl⟩)

theorem execRwait_kept (g : Guard) (q : BitVec 4) (s : State) (h_s : Kept s0 s) : OutKept s0 (execRwait g q s) := by
  unfold execRwait
  with_reducible repeat' (first
    | assumption | (intro _) | rw [outKept_next] | apply guarded_kept | apply illegal_kept | apply ringTrap_kept
    | apply kept_ite | split | dsimp only)
  all_goals first | rfl | exact ⟨rfl, rfl⟩ | (simp only [IslandSt.count, CoreSt.count] <;> first | done | exact ⟨rfl, rfl⟩)

theorem execRrel_kept (g : Guard) (q : BitVec 4) (s : State) (h_s : Kept s0 s) : OutKept s0 (execRrel g q s) := by
  unfold execRrel
  with_reducible repeat' (first
    | assumption | (intro _) | rw [outKept_next] | apply modMe_kept | apply guarded_kept | apply illegal_kept
    | apply ringTrap_kept | apply kept_ite | split | dsimp only
    | (rw [kept_mk]; apply kept_wf; first | assumption | apply modMe_kept | apply guarded_kept | apply illegal_kept | apply ringTrap_kept | apply kept_ite))
  all_goals first | rfl | exact ⟨rfl, rfl⟩ | (simp only [IslandSt.count, CoreSt.count] <;> first | done | exact ⟨rfl, rfl⟩)

theorem execRnew_kept (g : Guard) (qn : BitVec 4) (a b : BitVec 6) (s : State) (h_s : Kept s0 s) : OutKept s0 (execRnew g qn a b s) := by
  unfold execRnew
  with_reducible repeat' (first
    | assumption | (intro _) | rw [outKept_next] | apply guardedIf_kept | apply illegal_kept | apply ringTrap_kept
    | apply deliver_kept | apply kept_ite | split | dsimp only)
  all_goals first | rfl | exact ⟨rfl, rfl⟩ | (simp only [IslandSt.count, CoreSt.count] <;> first | done | exact ⟨rfl, rfl⟩)

theorem execRstat_kept (g : Guard) (d : BitVec 6) (qa : BitVec 4) (s : State) (h_s : Kept s0 s) : OutKept s0 (execRstat g d qa s) := by
  unfold execRstat
  with_reducible repeat' (first
    | assumption | (intro _) | rw [outKept_next] | apply guarded_kept | apply illegal_kept | apply toS_kept | apply kept_ite
    | split | dsimp only)
  all_goals first | rfl | exact ⟨rfl, rfl⟩ | (simp only [IslandSt.count, CoreSt.count] <;> first | done | exact ⟨rfl, rfl⟩)

theorem execNsw_kept (g : Guard) (nk : BitVec 4) (a : BitVec 6) (nw : BitVec 3) (s : State) (h_s : Kept s0 s) : OutKept s0 (execNsw g nk a nw s) := by
  unfold execNsw
  with_reducible repeat' (first
    | assumption | (intro _) | rw [outKept_next] | apply guarded_kept | apply deliver_kept | dsimp only)
  all_goals first | rfl | exact ⟨rfl, rfl⟩ | (simp only [IslandSt.count, CoreSt.count] <;> first | done | exact ⟨rfl, rfl⟩)

theorem execNgw_kept (g : Guard) (d : BitVec 6) (na : BitVec 4) (nw : BitVec 3) (s : State) (h_s : Kept s0 s) : OutKept s0 (execNgw g d na nw s) := by
  unfold execNgw
  with_reducible repeat' (first
    | assumption | (intro _) | rw [outKept_next] | apply guarded_kept | apply toS_kept | dsimp only)
  all_goals first | rfl | exact ⟨rfl, rfl⟩ | (simp only [IslandSt.count, CoreSt.count] <;> first | done | exact ⟨rfl, rfl⟩)

/-! Matrix. -/

theorem execMset_kept (g : Guard) (mi : BitVec 3) (a : BitVec 6) (s : State) (h_s : Kept s0 s) : OutKept s0 (execMset g mi a s) := by
  unfold execMset
  with_reducible repeat' (first
    | assumption | (intro _) | rw [outKept_next] | apply guarded_kept | apply deliver_kept | dsimp only)
  all_goals first | rfl | exact ⟨rfl, rfl⟩ | (simp only [IslandSt.count, CoreSt.count] <;> first | done | exact ⟨rfl, rfl⟩)

theorem execMseti_kept (g : Guard) (mi : BitVec 3) (imm : BitVec 16) (mq : BitVec 2) (s : State) (h_s : Kept s0 s) : OutKept s0 (execMseti g mi imm mq s) := by
  unfold execMseti
  with_reducible repeat' (first
    | assumption | (intro _) | rw [outKept_next] | apply guarded_kept | apply deliver_kept | dsimp only)
  all_goals first | rfl | exact ⟨rfl, rfl⟩ | (simp only [IslandSt.count, CoreSt.count] <;> first | done | exact ⟨rfl, rfl⟩)

theorem execMget_kept (g : Guard) (d : BitVec 6) (mi : BitVec 3) (s : State) (h_s : Kept s0 s) : OutKept s0 (execMget g d mi s) := by
  unfold execMget
  with_reducible repeat' (first
    | assumption | (intro _) | rw [outKept_next] | apply guarded_kept | apply toS_kept | dsimp only)
  all_goals first | rfl | exact ⟨rfl, rfl⟩ | (simp only [IslandSt.count, CoreSt.count] <;> first | done | exact ⟨rfl, rfl⟩)

theorem execMstat_kept (g : Guard) (d : BitVec 6) (s : State) (h_s : Kept s0 s) : OutKept s0 (execMstat g d s) := by
  unfold execMstat
  with_reducible repeat' (first
    | assumption | (intro _) | rw [outKept_next] | apply guarded_kept | apply toS_kept | dsimp only)
  all_goals first | rfl | exact ⟨rfl, rfl⟩ | (simp only [IslandSt.count, CoreSt.count] <;> first | done | exact ⟨rfl, rfl⟩)

theorem execCkst_kept (g : Guard) (d : BitVec 6) (sel : BitVec 2) (s : State) (h_s : Kept s0 s) : OutKept s0 (execCkst g d sel s) := by
  unfold execCkst
  with_reducible repeat' (first
    | assumption | (intro _) | rw [outKept_next] | apply guarded_kept | apply toS_kept | dsimp only)
  all_goals first | rfl | exact ⟨rfl, rfl⟩ | (simp only [IslandSt.count, CoreSt.count] <;> first | done | exact ⟨rfl, rfl⟩)

theorem issueMx_kept (kind : MxKind) (t : Toks) (s : State) (h_s : Kept s0 s) : Kept s0 (issueMx kind t s) := by
  unfold issueMx
  with_reducible repeat' (first
    | assumption | (intro _) | apply modMe_kept | apply tokenTrap_kept | apply kept_ite | split | dsimp only
    | (rw [kept_mk]; apply kept_wf; first | assumption | apply modMe_kept | apply tokenTrap_kept | apply kept_ite))
  all_goals first | rfl | exact ⟨rfl, rfl⟩ | (simp only [IslandSt.count, CoreSt.count] <;> first | done | exact ⟨rfl, rfl⟩)

theorem execMpld_kept (g : Guard) (a b : BitVec 6) (mw : BitVec 10) (s : State) (h_s : Kept s0 s) : OutKept s0 (execMpld g a b mw s) := by
  unfold execMpld
  with_reducible repeat' (first
    | assumption | (intro _) | rw [outKept_next] | apply guarded_kept | apply illegal_kept | apply takeTrap_kept
    | apply issueMx_kept | apply kept_ite | split | dsimp only)
  all_goals first | rfl | exact ⟨rfl, rfl⟩ | (simp only [IslandSt.count, CoreSt.count] <;> first | done | exact ⟨rfl, rfl⟩)

theorem execMpent_kept (g : Guard) (a : BitVec 6) (re : BitVec 8) (s : State) (h_s : Kept s0 s) : OutKept s0 (execMpent g a re s) := by
  unfold execMpent
  with_reducible repeat' (first
    | assumption | (intro _) | rw [outKept_next] | apply modMe_kept | apply guarded_kept | apply issueMx_kept | apply kept_ite
    | split | dsimp only
    | (rw [kept_mk]; apply kept_wf; first | assumption | apply modMe_kept | apply guarded_kept | apply issueMx_kept | apply kept_ite))
  all_goals first | rfl | exact ⟨rfl, rfl⟩ | (simp only [IslandSt.count, CoreSt.count] <;> first | done | exact ⟨rfl, rfl⟩)

theorem engineSlot_kept (s : State) (f : State → State) (h_s : Kept s0 s) (h_f : ∀ x : State, Kept s0 x → Kept s0 (f x)) : OutKept s0 (engineSlot s f) := by
  unfold engineSlot
  with_reducible repeat' (first
    | assumption | (intro _) | rw [outKept_next] | apply h_f | apply kept_ite | split | dsimp only)
  all_goals first | rfl | exact ⟨rfl, rfl⟩ | (simp only [IslandSt.count, CoreSt.count] <;> first | done | exact ⟨rfl, rfl⟩)

theorem execMcall_kept (t : Toks) (e : BitVec 8) (lat : BitVec 3) (acc : BitVec 2) (ck ovw : Bool) (s : State) (h_s : Kept s0 s) : OutKept s0 (execMcall t e lat acc ck ovw s) := by
  unfold execMcall
  with_reducible repeat' (first
    | assumption | (intro _) | rw [outKept_next] | apply engineSlot_kept | apply issueMx_kept | apply illegal_kept
    | apply kept_ite | split | dsimp only)
  all_goals first | rfl | exact ⟨rfl, rfl⟩ | (simp only [IslandSt.count, CoreSt.count] <;> first | done | exact ⟨rfl, rfl⟩)

theorem execLload_kept (t : Toks) (i lat : BitVec 3) (s : State) (h_s : Kept s0 s) : OutKept s0 (execLload t i lat s) := by
  unfold execLload
  with_reducible repeat' (first
    | assumption | (intro _) | rw [outKept_next] | apply engineSlot_kept | apply illegal_kept | apply takeTrap_kept
    | apply issueMx_kept | apply kept_ite | split | dsimp only)
  all_goals first | rfl | exact ⟨rfl, rfl⟩ | (simp only [IslandSt.count, CoreSt.count] <;> first | done | exact ⟨rfl, rfl⟩)

theorem execDrain_kept (t : Toks) (i : BitVec 3) (acc : BitVec 2) (ck ovw : Bool) (s : State) (h_s : Kept s0 s) : OutKept s0 (execDrain t i acc ck ovw s) := by
  unfold execDrain
  with_reducible repeat' (first
    | assumption | (intro _) | rw [outKept_next] | apply engineSlot_kept | apply illegal_kept | apply takeTrap_kept
    | apply issueMx_kept | apply kept_ite | split | dsimp only)
  all_goals first | rfl | exact ⟨rfl, rfl⟩ | (simp only [IslandSt.count, CoreSt.count] <;> first | done | exact ⟨rfl, rfl⟩)

theorem execAzero_kept (t : Toks) (acc : BitVec 2) (s : State) (h_s : Kept s0 s) : OutKept s0 (execAzero t acc s) := by
  unfold execAzero
  with_reducible repeat' (first
    | assumption | (intro _) | rw [outKept_next] | apply engineSlot_kept | apply issueMx_kept | dsimp only)
  all_goals first | rfl | exact ⟨rfl, rfl⟩ | (simp only [IslandSt.count, CoreSt.count] <;> first | done | exact ⟨rfl, rfl⟩)

theorem execEpicfg_kept (t : Toks) (i : BitVec 3) (s : State) (h_s : Kept s0 s) : OutKept s0 (execEpicfg t i s) := by
  unfold execEpicfg
  with_reducible repeat' (first
    | assumption | (intro _) | rw [outKept_next] | apply engineSlot_kept | apply illegal_kept | apply takeTrap_kept
    | apply issueMx_kept | apply kept_ite | split | dsimp only)
  all_goals first | rfl | exact ⟨rfl, rfl⟩ | (simp only [IslandSt.count, CoreSt.count] <;> first | done | exact ⟨rfl, rfl⟩)

theorem execCksnap_kept (t : Toks) (i : BitVec 3) (acc : BitVec 2) (s : State) (h_s : Kept s0 s) : OutKept s0 (execCksnap t i acc s) := by
  unfold execCksnap
  with_reducible repeat' (first
    | assumption | (intro _) | rw [outKept_next] | apply engineSlot_kept | apply takeTrap_kept | apply issueMx_kept
    | apply kept_ite | split | dsimp only)
  all_goals first | rfl | exact ⟨rfl, rfl⟩ | (simp only [IslandSt.count, CoreSt.count] <;> first | done | exact ⟨rfl, rfl⟩)

theorem startMx_kept (c : CoreId) (s : State) (h_s : Kept s0 s) : Kept s0 (startMx c s) := by
  unfold startMx
  with_reducible repeat' (first
    | assumption | (intro _) | apply at_kept | apply kept_ite | split | dsimp only)
  all_goals first | rfl | exact ⟨rfl, rfl⟩ | (simp only [IslandSt.count, CoreSt.count] <;> first | done | exact ⟨rfl, rfl⟩)

theorem issueScale_kept (op : BitVec 3) (b : BitVec 4) (v : Byte) (src : Option Nat) (s : State) (h_s : Kept s0 s) : Kept s0 (issueScale op b v src s) := by
  unfold issueScale
  with_reducible repeat' (first
    | assumption | (intro _) | apply modMe_kept | apply startMx_kept | apply kept_ite | split | dsimp only
    | (rw [kept_mk]; apply kept_wf; first | assumption | apply modMe_kept | apply startMx_kept | apply kept_ite))
  all_goals first | rfl | exact ⟨rfl, rfl⟩ | (simp only [IslandSt.count, CoreSt.count] <;> first | done | exact ⟨rfl, rfl⟩)

theorem execScset_kept (b : BitVec 4) (v : BitVec 8) (s : State) (h_s : Kept s0 s) : OutKept s0 (execScset b v s) := by
  unfold execScset
  with_reducible repeat' (first
    | assumption | (intro _) | rw [outKept_next] | apply engineSlot_kept | apply issueScale_kept | dsimp only)
  all_goals first | rfl | exact ⟨rfl, rfl⟩ | (simp only [IslandSt.count, CoreSt.count] <;> first | done | exact ⟨rfl, rfl⟩)

theorem execScadd_kept (b : BitVec 4) (v : BitVec 8) (s : State) (h_s : Kept s0 s) : OutKept s0 (execScadd b v s) := by
  unfold execScadd
  with_reducible repeat' (first
    | assumption | (intro _) | rw [outKept_next] | apply engineSlot_kept | apply issueScale_kept | dsimp only)
  all_goals first | rfl | exact ⟨rfl, rfl⟩ | (simp only [IslandSt.count, CoreSt.count] <;> first | done | exact ⟨rfl, rfl⟩)

theorem execScsub_kept (b : BitVec 4) (v : BitVec 8) (s : State) (h_s : Kept s0 s) : OutKept s0 (execScsub b v s) := by
  unfold execScsub
  with_reducible repeat' (first
    | assumption | (intro _) | rw [outKept_next] | apply engineSlot_kept | apply issueScale_kept | dsimp only)
  all_goals first | rfl | exact ⟨rfl, rfl⟩ | (simp only [IslandSt.count, CoreSt.count] <;> first | done | exact ⟨rfl, rfl⟩)

theorem execScpad_kept (b : BitVec 4) (v : BitVec 8) (s : State) (h_s : Kept s0 s) : OutKept s0 (execScpad b v s) := by
  unfold execScpad
  with_reducible repeat' (first
    | assumption | (intro _) | rw [outKept_next] | apply engineSlot_kept | apply takeTrap_kept | apply issueScale_kept
    | apply kept_ite | split | dsimp only)
  all_goals first | rfl | exact ⟨rfl, rfl⟩ | (simp only [IslandSt.count, CoreSt.count] <;> first | done | exact ⟨rfl, rfl⟩)

theorem execSccpy_kept (b : BitVec 4) (v : BitVec 8) (s : State) (h_s : Kept s0 s) : OutKept s0 (execSccpy b v s) := by
  unfold execSccpy
  with_reducible repeat' (first
    | assumption | (intro _) | rw [outKept_next] | apply engineSlot_kept | apply issueScale_kept | dsimp only)
  all_goals first | rfl | exact ⟨rfl, rfl⟩ | (simp only [IslandSt.count, CoreSt.count] <;> first | done | exact ⟨rfl, rfl⟩)

theorem execScmax_kept (b : BitVec 4) (v : BitVec 8) (s : State) (h_s : Kept s0 s) : OutKept s0 (execScmax b v s) := by
  unfold execScmax
  with_reducible repeat' (first
    | assumption | (intro _) | rw [outKept_next] | apply engineSlot_kept | apply issueScale_kept | dsimp only)
  all_goals first | rfl | exact ⟨rfl, rfl⟩ | (simp only [IslandSt.count, CoreSt.count] <;> first | done | exact ⟨rfl, rfl⟩)

theorem execScmin_kept (b : BitVec 4) (v : BitVec 8) (s : State) (h_s : Kept s0 s) : OutKept s0 (execScmin b v s) := by
  unfold execScmin
  with_reducible repeat' (first
    | assumption | (intro _) | rw [outKept_next] | apply engineSlot_kept | apply issueScale_kept | dsimp only)
  all_goals first | rfl | exact ⟨rfl, rfl⟩ | (simp only [IslandSt.count, CoreSt.count] <;> first | done | exact ⟨rfl, rfl⟩)

/-! Sched. -/

theorem accrue_kept (q : BitVec 8) (s : State) (h_s : Kept s0 s) : Kept s0 (accrue q s) := by
  unfold accrue
  with_reducible repeat' (first
    | assumption | (intro _) | apply modD_kept | apply kept_ite | split | dsimp only
    | (rw [kept_mk]; apply kept_wf; first | assumption | apply modD_kept | apply kept_ite))
  all_goals first | rfl | exact ⟨rfl, rfl⟩ | (simp only [IslandSt.count, CoreSt.count] <;> first | done | exact ⟨rfl, rfl⟩)

theorem requestPreempt_kept (c : CoreId) (s : State) (h_s : Kept s0 s) : Kept s0 (requestPreempt c s) := by
  unfold requestPreempt
  with_reducible repeat' (first
    | assumption | (intro _) | apply modC_kept | apply kept_ite | split | dsimp only
    | (rw [kept_mk]; apply kept_wf; first | assumption | apply modC_kept | apply kept_ite))
  all_goals first | rfl | exact ⟨rfl, rfl⟩ | (simp only [IslandSt.count, CoreSt.count] <;> first | done | exact ⟨rfl, rfl⟩)

/-! Halyard. -/

theorem halIssue_kept (op : Nat) (hoist : Bool) (d a b : BitVec 6) (sp : BitVec 2) (t : Toks) (s : State) (h_s : Kept s0 s) : Kept s0 (halIssue op hoist d a b sp t s) := by
  unfold halIssue
  with_reducible repeat' (first
    | assumption | (intro _) | apply modD_kept | apply modMe_kept | apply at_kept | apply illegal_kept | apply takeTrap_kept
    | apply tokenTrap_kept | apply kept_ite | split | dsimp only
    | (rw [kept_mk]; apply kept_wf; first | assumption | apply modD_kept | apply modMe_kept | apply at_kept | apply illegal_kept | apply takeTrap_kept | apply tokenTrap_kept | apply kept_ite))
  all_goals first | rfl | exact ⟨rfl, rfl⟩ | (simp only [IslandSt.count, CoreSt.count] <;> first | done | exact ⟨rfl, rfl⟩)

theorem execHoist_kept (g : Guard) (d a b : BitVec 6) (sp : BitVec 2) (tp ta tb tc : BitVec 6) (s : State) (h_s : Kept s0 s) : OutKept s0 (execHoist g d a b sp tp ta tb tc s) := by
  unfold execHoist
  with_reducible repeat' (first
    | assumption | (intro _) | rw [outKept_next] | apply guarded_kept | apply halIssue_kept | dsimp only)
  all_goals first | rfl | exact ⟨rfl, rfl⟩ | (simp only [IslandSt.count, CoreSt.count] <;> first | done | exact ⟨rfl, rfl⟩)

theorem execSight_kept (g : Guard) (d a b : BitVec 6) (sp : BitVec 2) (tp ta tb tc : BitVec 6) (s : State) (h_s : Kept s0 s) : OutKept s0 (execSight g d a b sp tp ta tb tc s) := by
  unfold execSight
  with_reducible repeat' (first
    | assumption | (intro _) | rw [outKept_next] | apply guarded_kept | apply halIssue_kept | dsimp only)
  all_goals first | rfl | exact ⟨rfl, rfl⟩ | (simp only [IslandSt.count, CoreSt.count] <;> first | done | exact ⟨rfl, rfl⟩)

theorem execHrnd_kept (g : Guard) (d a : BitVec 6) (s : State) (h_s : Kept s0 s) : OutKept s0 (execHrnd g d a s) := by
  unfold execHrnd
  with_reducible repeat' (first
    | assumption | (intro _) | rw [outKept_next] | apply guarded_kept | apply illegal_kept | apply takeTrap_kept
    | apply toS_kept | apply kept_ite | split | dsimp only)
  all_goals first | rfl | exact ⟨rfl, rfl⟩ | (simp only [IslandSt.count, CoreSt.count] <;> first | done | exact ⟨rfl, rfl⟩)

/-! Copy. -/

theorem assignRingL_kept {op : Nat} {q : BitVec 4} {n : Nat} {s t : State} (h : assignRing op q n s = .inl t) (h_s : Kept s0 s) : Kept s0 t := by
  unfold assignRing at h
  split at h
  · cases h
  · dsimp only at h
    split at h
    · cases h; exact illegal_kept _ _ h_s
    · split at h <;> cases h
      exact ringTrap_kept _ _ _ h_s

theorem assignRing_kept {op : Nat} {q : BitVec 4} {n m : Nat} {s t : State} (h : assignRing op q n s = .inr (m, t)) (h_s : Kept s0 s) : Kept s0 t := by
  unfold assignRing at h
  split at h
  · cases h; exact h_s
  · dsimp only at h
    split at h
    · cases h
    · split at h <;> cases h
      exact modMe_kept h_s

theorem beatAt_kept (y : Isl) (ch : Nat) (t : Nat) (s : State) (h_s : Kept s0 s) : Kept s0 (beatAt y ch t s) := by
  unfold beatAt
  with_reducible repeat' (first
    | assumption | (intro _) | apply at_kept | apply kept_ite | split | dsimp only
    | (rw [kept_mk]; apply kept_wf; first | assumption | apply at_kept | apply kept_ite))
  all_goals first | rfl | exact ⟨rfl, rfl⟩ | (simp only [IslandSt.count, CoreSt.count] <;> first | done | exact ⟨rfl, rfl⟩)

theorem issueBus_kept (drive : Bool) (ch : BitVec 2) (nest : BitVec 512) (n p : Nat) (rng : BitVec 4) (t : Toks) (s : State) (h_s : Kept s0 s) : Kept s0 (issueBus drive ch nest n p rng t s) := by
  unfold issueBus
  with_reducible repeat' (first
    | assumption | (intro _) | apply modMe_kept | split | dsimp only
    | (rw [kept_mk]; apply kept_wf; first | assumption | apply modMe_kept))
  all_goals first | rfl | exact ⟨rfl, rfl⟩ | (simp only [IslandSt.count, CoreSt.count] <;> first | done | exact ⟨rfl, rfl⟩)

theorem execBcdrv_kept (_u : Bool) (t : Toks) (nst : BitVec 4) (s : State) (h_s : Kept s0 s) : OutKept s0 (execBcdrv _u t nst s) := by
  unfold execBcdrv
  with_reducible repeat' (first
    | assumption | (intro _) | rw [outKept_next] | apply at_kept | apply kept_foldl | apply engineSlot_kept
    | apply illegal_kept | apply takeTrap_kept | apply tokenTrap_kept | apply issueBus_kept | apply beatAt_kept
    | apply kept_ite | split | dsimp only
    | (rw [kept_mk]; apply kept_wf; first | assumption | apply at_kept | apply kept_foldl | apply engineSlot_kept | apply illegal_kept | apply takeTrap_kept | apply tokenTrap_kept | apply issueBus_kept | apply beatAt_kept | apply kept_ite))
  all_goals first | rfl | exact ⟨rfl, rfl⟩ | (simp only [IslandSt.count, CoreSt.count] <;> first | done | exact ⟨rfl, rfl⟩)

theorem execBclat_kept (u : Bool) (t : Toks) (nst rng : BitVec 4) (s : State) (h_s : Kept s0 s) : OutKept s0 (execBclat u t nst rng s) := by
  unfold execBclat
  with_reducible repeat' (first
    | assumption | (intro _) | exact outKept_fault _ | rw [outKept_next] | apply at_kept | apply engineSlot_kept
    | apply illegal_kept | apply takeTrap_kept | apply tokenTrap_kept | apply issueBus_kept | apply beatAt_kept
    | apply kept_ite | split | refine assignRing_kept (by assumption) ?_ | refine assignRingL_kept (by assumption) ?_
    | dsimp only
    | (rw [kept_mk]; apply kept_wf; first | assumption | apply at_kept | apply engineSlot_kept | apply illegal_kept | apply takeTrap_kept | apply tokenTrap_kept | apply issueBus_kept | apply beatAt_kept | apply kept_ite | refine assignRing_kept (by assumption) ?_ | refine assignRingL_kept (by assumption) ?_))
  all_goals first | rfl | exact ⟨rfl, rfl⟩ | (simp only [IslandSt.count, CoreSt.count] <;> first | done | exact ⟨rfl, rfl⟩)

/-! Control. -/

theorem jumpTo_kept (t : W64) (link : Option (BitVec 6)) (s : State) (h_s : Kept s0 s) : Kept s0 (jumpTo t link s) := by
  unfold jumpTo
  with_reducible repeat' (first
    | assumption | (intro _) | apply takeTrap_kept | apply toS_kept | apply kept_ite | split | dsimp only
    | (rw [kept_mk]; apply kept_wf; first | assumption | apply takeTrap_kept | apply toS_kept | apply kept_ite))
  all_goals first | rfl | exact ⟨rfl, rfl⟩ | (simp only [IslandSt.count, CoreSt.count] <;> first | done | exact ⟨rfl, rfl⟩)

theorem transfer_kept (op : Nat) (g : Guard) (t : State → W64) (link : Option (BitVec 6)) (s : State) (h_s : Kept s0 s) : OutKept s0 (transfer op g t link s) := by
  unfold transfer
  with_reducible repeat' (first
    | assumption | (intro _) | rw [outKept_next] | apply illegal_kept | apply guarded_kept | apply jumpTo_kept | apply kept_ite
    | split | dsimp only)
  all_goals first | rfl | exact ⟨rfl, rfl⟩ | (simp only [IslandSt.count, CoreSt.count] <;> first | done | exact ⟨rfl, rfl⟩)

theorem execBr_kept (g : Guard) (imm : BitVec 33) (s : State) (h_s : Kept s0 s) : OutKept s0 (execBr g imm s) := by
  unfold execBr
  with_reducible repeat' (first
    | assumption | (intro _) | rw [outKept_next] | apply transfer_kept | dsimp only)
  all_goals first | rfl | exact ⟨rfl, rfl⟩ | (simp only [IslandSt.count, CoreSt.count] <;> first | done | exact ⟨rfl, rfl⟩)

theorem execJmp_kept (g : Guard) (a : BitVec 6) (s : State) (h_s : Kept s0 s) : OutKept s0 (execJmp g a s) := by
  unfold execJmp
  with_reducible repeat' (first
    | assumption | (intro _) | rw [outKept_next] | apply transfer_kept | dsimp only)
  all_goals first | rfl | exact ⟨rfl, rfl⟩ | (simp only [IslandSt.count, CoreSt.count] <;> first | done | exact ⟨rfl, rfl⟩)

theorem execCall_kept (g : Guard) (d : BitVec 6) (imm : BitVec 33) (s : State) (h_s : Kept s0 s) : OutKept s0 (execCall g d imm s) := by
  unfold execCall
  with_reducible repeat' (first
    | assumption | (intro _) | rw [outKept_next] | apply transfer_kept | dsimp only)
  all_goals first | rfl | exact ⟨rfl, rfl⟩ | (simp only [IslandSt.count, CoreSt.count] <;> first | done | exact ⟨rfl, rfl⟩)

theorem execCallr_kept (g : Guard) (d a : BitVec 6) (s : State) (h_s : Kept s0 s) : OutKept s0 (execCallr g d a s) := by
  unfold execCallr
  with_reducible repeat' (first
    | assumption | (intro _) | rw [outKept_next] | apply transfer_kept | dsimp only)
  all_goals first | rfl | exact ⟨rfl, rfl⟩ | (simp only [IslandSt.count, CoreSt.count] <;> first | done | exact ⟨rfl, rfl⟩)

theorem execRet_kept (g : Guard) (a : BitVec 6) (s : State) (h_s : Kept s0 s) : OutKept s0 (execRet g a s) := by
  unfold execRet
  with_reducible repeat' (first
    | assumption | (intro _) | rw [outKept_next] | apply transfer_kept | dsimp only)
  all_goals first | rfl | exact ⟨rfl, rfl⟩ | (simp only [IslandSt.count, CoreSt.count] <;> first | done | exact ⟨rfl, rfl⟩)

theorem startLoop_kept (m : LoopMode) (a : W64) (ii ns : Nat) (s : State) (h_s : Kept s0 s) : Kept s0 (startLoop m a ii ns s) := by
  unfold startLoop
  with_reducible repeat' (first
    | assumption | (intro _) | apply modMe_kept | apply kept_foldl | apply deliver_kept | dsimp only
    | (rw [kept_mk]; apply kept_wf; first | assumption | apply modMe_kept | apply kept_foldl | apply deliver_kept))
  all_goals first | rfl | exact ⟨rfl, rfl⟩ | (simp only [IslandSt.count, CoreSt.count] <;> first | done | exact ⟨rfl, rfl⟩)

theorem loopOp_kept (op : Nat) (m : LoopMode) (g : Guard) (a : BitVec 6) (ii : BitVec 8) (ns1 : BitVec 3) (s : State) (h_s : Kept s0 s) : OutKept s0 (loopOp op m g a ii ns1 s) := by
  unfold loopOp
  with_reducible repeat' (first
    | assumption | (intro _) | exact outKept_fault _ | rw [outKept_next] | apply illegal_kept | apply guarded_kept
    | apply consume_kept | apply takeTrap_kept | apply after_kept | apply startLoop_kept | apply kept_ite | split
    | refine skipBundles_kept _ (by assumption) ?_ | dsimp only
    | (rw [kept_mk]; apply kept_wf; first | assumption | apply illegal_kept | apply guarded_kept | apply consume_kept | apply takeTrap_kept | apply after_kept | apply startLoop_kept | apply kept_ite | refine skipBundles_kept _ (by assumption) ?_))
  all_goals first | rfl | exact ⟨rfl, rfl⟩ | (simp only [IslandSt.count, CoreSt.count] <;> first | done | exact ⟨rfl, rfl⟩)

theorem execLoop_kept (g : Guard) (a : BitVec 6) (ii : BitVec 8) (ns1 : BitVec 3) (s : State) (h_s : Kept s0 s) : OutKept s0 (execLoop g a ii ns1 s) := by
  unfold execLoop
  with_reducible repeat' (first
    | assumption | (intro _) | rw [outKept_next] | apply loopOp_kept | dsimp only)
  all_goals first | rfl | exact ⟨rfl, rfl⟩ | (simp only [IslandSt.count, CoreSt.count] <;> first | done | exact ⟨rfl, rfl⟩)

theorem execSloop_kept (g : Guard) (a : BitVec 6) (ii : BitVec 8) (ns1 : BitVec 3) (s : State) (h_s : Kept s0 s) : OutKept s0 (execSloop g a ii ns1 s) := by
  unfold execSloop
  with_reducible repeat' (first
    | assumption | (intro _) | rw [outKept_next] | apply loopOp_kept | dsimp only)
  all_goals first | rfl | exact ⟨rfl, rfl⟩ | (simp only [IslandSt.count, CoreSt.count] <;> first | done | exact ⟨rfl, rfl⟩)

theorem execSnext_kept (g : Guard) (imm : BitVec 33) (s : State) (h_s : Kept s0 s) : OutKept s0 (execSnext g imm s) := by
  unfold execSnext
  with_reducible repeat' (first
    | assumption | (intro _) | rw [outKept_next] | apply modMe_kept | apply illegal_kept | apply guarded_kept
    | apply takeTrap_kept | apply kept_ite | split | dsimp only
    | (rw [kept_mk]; apply kept_wf; first | assumption | apply modMe_kept | apply illegal_kept | apply guarded_kept | apply takeTrap_kept | apply kept_ite))
  all_goals first | rfl | exact ⟨rfl, rfl⟩ | (simp only [IslandSt.count, CoreSt.count] <;> first | done | exact ⟨rfl, rfl⟩)

theorem execMfsp_kept (g : Guard) (d : BitVec 6) (idx : BitVec 8) (s : State) (h_s : Kept s0 s) : OutKept s0 (execMfsp g d idx s) := by
  unfold execMfsp
  with_reducible repeat' (first
    | assumption | (intro _) | rw [outKept_next] | apply guardedIf_kept | apply chargeCtx_kept | apply toS_kept
    | apply illegal_kept | apply kept_ite | split | dsimp only
    | (rw [kept_mk]; apply kept_wf; first | assumption | apply guardedIf_kept | apply chargeCtx_kept | apply toS_kept | apply illegal_kept | apply kept_ite))
  all_goals first | rfl | exact ⟨rfl, rfl⟩ | (simp only [IslandSt.count, CoreSt.count] <;> first | done | exact ⟨rfl, rfl⟩)

theorem execMtsp_kept (g : Guard) (a : BitVec 6) (idx : BitVec 8) (s : State) (h_s : Kept s0 s) : OutKept s0 (execMtsp g a idx s) := by
  unfold execMtsp
  with_reducible repeat' (first
    | assumption | (intro _) | rw [outKept_next] | apply guardedIf_kept | apply deliver_kept | apply illegal_kept
    | apply kept_ite | split | dsimp only)
  all_goals first | rfl | exact ⟨rfl, rfl⟩ | (simp only [IslandSt.count, CoreSt.count] <;> first | done | exact ⟨rfl, rfl⟩)

/-! Stage. -/

theorem stageTrap_kept (op : Nat) (s : State) (h_s : Kept s0 s) : Kept s0 (stageTrap op s) := by
  unfold stageTrap
  with_reducible repeat' (first
    | assumption | (intro _) | apply takeTrap_kept | dsimp only)
  all_goals first | rfl | exact ⟨rfl, rfl⟩ | (simp only [IslandSt.count, CoreSt.count] <;> first | done | exact ⟨rfl, rfl⟩)

theorem State.modMyStage_kept (s : State) (t : Nat) (f : StageSt → StageSt) (h_s : Kept s0 s) : Kept s0 (State.modMyStage s t f) := by
  unfold State.modMyStage
  with_reducible repeat' (first
    | assumption | (intro _) | apply State.modL_kept | split | dsimp only)
  all_goals first | rfl | exact ⟨rfl, rfl⟩ | (simp only [IslandSt.count, CoreSt.count] <;> first | done | exact ⟨rfl, rfl⟩)

theorem takeItem_kept (d : BitVec 6) (j : BitVec 4) (i : Item) (s : State) (h_s : Kept s0 s) : Kept s0 (takeItem d j i s) := by
  unfold takeItem
  with_reducible repeat' (first
    | assumption | (intro _) | apply modMe_kept | apply after_kept | apply deliver_kept | apply toS_kept
    | apply State.modMyStage_kept | split | dsimp only
    | (rw [kept_mk]; apply kept_wf; first | assumption | apply modMe_kept | apply after_kept | apply deliver_kept | apply toS_kept | apply State.modMyStage_kept))
  all_goals first | rfl | exact ⟨rfl, rfl⟩ | (simp only [IslandSt.count, CoreSt.count] <;> first | done | exact ⟨rfl, rfl⟩)

theorem execPull_kept (g : Guard) (d : BitVec 6) (j : BitVec 4) (s : State) (h_s : Kept s0 s) : OutKept s0 (execPull g d j s) := by
  unfold execPull
  with_reducible repeat' (first
    | assumption | (intro _) | rw [outKept_next] | apply modMe_kept | apply guarded_kept | apply stageTrap_kept
    | apply takeItem_kept | apply deliver_kept | apply toS_kept | apply kept_ite | split | dsimp only
    | (rw [kept_mk]; apply kept_wf; first | assumption | apply modMe_kept | apply guarded_kept | apply stageTrap_kept | apply takeItem_kept | apply deliver_kept | apply toS_kept | apply kept_ite))
  all_goals first | rfl | exact ⟨rfl, rfl⟩ | (simp only [IslandSt.count, CoreSt.count] <;> first | done | exact ⟨rfl, rfl⟩)

theorem execPush_kept (g : Guard) (d a b : BitVec 6) (st : BitVec 3) (hasB : Bool) (s : State) (h_s : Kept s0 s) : OutKept s0 (execPush g d a b st hasB s) := by
  unfold execPush
  with_reducible repeat' (first
    | assumption | (intro _) | rw [outKept_next] | apply guarded_kept | apply illegal_kept | apply stageTrap_kept
    | apply takeTrap_kept | apply deliver_kept | apply kept_ite | split | dsimp only)
  all_goals first | rfl | exact ⟨rfl, rfl⟩ | (simp only [IslandSt.count, CoreSt.count] <;> first | done | exact ⟨rfl, rfl⟩)

theorem execRetire_kept (g : Guard) (s : State) (h_s : Kept s0 s) : OutKept s0 (execRetire g s) := by
  unfold execRetire
  with_reducible repeat' (first
    | assumption | (intro _) | rw [outKept_next] | apply modMe_kept | apply guarded_kept | apply stageTrap_kept | split
    | dsimp only
    | (rw [kept_mk]; apply kept_wf; first | assumption | apply modMe_kept | apply guarded_kept | apply stageTrap_kept))
  all_goals first | rfl | exact ⟨rfl, rfl⟩ | (simp only [IslandSt.count, CoreSt.count] <;> first | done | exact ⟨rfl, rfl⟩)

theorem execQdep_kept (g : Guard) (d : BitVec 6) (st : BitVec 3) (s : State) (h_s : Kept s0 s) : OutKept s0 (execQdep g d st s) := by
  unfold execQdep
  with_reducible repeat' (first
    | assumption | (intro _) | rw [outKept_next] | apply guarded_kept | apply illegal_kept | apply toS_kept | split
    | dsimp only)
  all_goals first | rfl | exact ⟨rfl, rfl⟩ | (simp only [IslandSt.count, CoreSt.count] <;> first | done | exact ⟨rfl, rfl⟩)

theorem execLaunch_kept (g : Guard) (d a : BitVec 6) (s : State) (h_s : Kept s0 s) : OutKept s0 (execLaunch g d a s) := by
  unfold execLaunch
  with_reducible repeat' (first
    | assumption | (intro _) | rw [outKept_next] | apply pick_kept | apply guarded_kept | apply takeTrap_kept
    | apply issueCop_kept | apply kept_ite | split | refine pick_pair_kept (by assumption) ?_ | dsimp only)
  all_goals first | rfl | exact ⟨rfl, rfl⟩ | (simp only [IslandSt.count, CoreSt.count] <;> first | done | exact ⟨rfl, rfl⟩)

theorem execLpoll_kept (g : Guard) (d a : BitVec 6) (s : State) (h_s : Kept s0 s) : OutKept s0 (execLpoll g d a s) := by
  unfold execLpoll
  with_reducible repeat' (first
    | assumption | (intro _) | rw [outKept_next] | apply guarded_kept | apply issueFree_kept | dsimp only)
  all_goals first | rfl | exact ⟨rfl, rfl⟩ | (simp only [IslandSt.count, CoreSt.count] <;> first | done | exact ⟨rfl, rfl⟩)

theorem requestDiv_kept (mask : BitVec 4) (v : Nat) (s : State) (h_s : Kept s0 s) : Kept s0 (requestDiv mask v s) := by
  unfold requestDiv
  with_reducible repeat' (first
    | assumption | (intro _) | apply modMe_kept | apply illegal_kept | apply kept_ite | split | dsimp only
    | (rw [kept_mk]; apply kept_wf; first | assumption | apply modMe_kept | apply illegal_kept | apply kept_ite))
  all_goals first | rfl | exact ⟨rfl, rfl⟩ | (simp only [IslandSt.count, CoreSt.count] <;> first | done | exact ⟨rfl, rfl⟩)

theorem execClkdiv_kept (g : Guard) (mask : BitVec 4) (dv : BitVec 5) (s : State) (h_s : Kept s0 s) : OutKept s0 (execClkdiv g mask dv s) := by
  unfold execClkdiv
  with_reducible repeat' (first
    | assumption | (intro _) | rw [outKept_next] | apply guardedIf_kept | apply requestDiv_kept | dsimp only)
  all_goals first | rfl | exact ⟨rfl, rfl⟩ | (simp only [IslandSt.count, CoreSt.count] <;> first | done | exact ⟨rfl, rfl⟩)

theorem execClkdivReg_kept (g : Guard) (a : BitVec 6) (mask : BitVec 4) (s : State) (h_s : Kept s0 s) : OutKept s0 (execClkdivReg g a mask s) := by
  unfold execClkdivReg
  with_reducible repeat' (first
    | assumption | (intro _) | rw [outKept_next] | apply guarded_kept | apply requestDiv_kept | dsimp only)
  all_goals first | rfl | exact ⟨rfl, rfl⟩ | (simp only [IslandSt.count, CoreSt.count] <;> first | done | exact ⟨rfl, rfl⟩)

theorem execTrap_kept (g : Guard) (tn : BitVec 16) (s : State) (h_s : Kept s0 s) : OutKept s0 (execTrap g tn s) := by
  unfold execTrap
  with_reducible repeat' (first
    | assumption | (intro _) | rw [outKept_next] | apply guarded_kept | dsimp only
    | (rw [kept_mk]; apply kept_wf; first | assumption | apply guarded_kept))
  all_goals first | rfl | exact ⟨rfl, rfl⟩ | (simp only [IslandSt.count, CoreSt.count] <;> first | done | exact ⟨rfl, rfl⟩)

theorem execBrk_kept (g : Guard) (tn : BitVec 16) (s : State) (h_s : Kept s0 s) : OutKept s0 (execBrk g tn s) := by
  unfold execBrk
  with_reducible repeat' (first
    | assumption | (intro _) | rw [outKept_next] | apply modMe_kept | apply guarded_kept | apply kept_ite | split | dsimp only
    | (rw [kept_mk]; apply kept_wf; first | assumption | apply modMe_kept | apply guarded_kept | apply kept_ite))
  all_goals first | rfl | exact ⟨rfl, rfl⟩ | (simp only [IslandSt.count, CoreSt.count] <;> first | done | exact ⟨rfl, rfl⟩)

theorem execEjrd_kept (g : Guard) (d : BitVec 6) (sel : BitVec 2) (s : State) (h_s : Kept s0 s) : OutKept s0 (execEjrd g d sel s) := by
  unfold execEjrd
  with_reducible repeat' (first
    | assumption | (intro _) | rw [outKept_next] | apply guarded_kept | apply chargeCtx_kept | apply toS_kept | split
    | dsimp only)
  all_goals first | rfl | exact ⟨rfl, rfl⟩ | (simp only [IslandSt.count, CoreSt.count] <;> first | done | exact ⟨rfl, rfl⟩)

/-! Priv. -/

theorem privileged_kept (op : Nat) (g : Guard) (s : State) (f : State → State) (h_s : Kept s0 s) (h_f : ∀ x : State, Kept s0 x → Kept s0 (f x)) : OutKept s0 (privileged op g s f) := by
  unfold privileged
  with_reducible repeat' (first
    | assumption | (intro _) | rw [outKept_next] | apply guarded_kept | apply illegal_kept | apply h_f | apply kept_ite | split
    | dsimp only)
  all_goals first | rfl | exact ⟨rfl, rfl⟩ | (simp only [IslandSt.count, CoreSt.count] <;> first | done | exact ⟨rfl, rfl⟩)

theorem privilegedIf_kept (ok : Bool) (op : Nat) (g : Guard) (s : State) (f : State → State) (h_s : Kept s0 s) (h_f : ∀ x : State, Kept s0 x → Kept s0 (f x)) : OutKept s0 (privilegedIf ok op g s f) := by
  unfold privilegedIf
  with_reducible repeat' (first
    | assumption | (intro _) | rw [outKept_next] | apply guarded_kept | apply illegal_kept | apply h_f | apply kept_ite | split
    | dsimp only)
  all_goals first | rfl | exact ⟨rfl, rfl⟩ | (simp only [IslandSt.count, CoreSt.count] <;> first | done | exact ⟨rfl, rfl⟩)

theorem execMfpr_kept (g : Guard) (d : BitVec 6) (pidx : BitVec 16) (s : State) (h_s : Kept s0 s) : OutKept s0 (execMfpr g d pidx s) := by
  unfold execMfpr
  with_reducible repeat' (first
    | assumption | (intro _) | rw [outKept_next] | apply privilegedIf_kept | apply toS_kept | apply illegal_kept | split
    | dsimp only
    | (rw [kept_mk]; apply kept_wf; first | assumption | apply privilegedIf_kept | apply toS_kept | apply illegal_kept))
  all_goals first | rfl | exact ⟨rfl, rfl⟩ | (simp only [IslandSt.count, CoreSt.count] <;> first | done | exact ⟨rfl, rfl⟩)

theorem regStep_kept (e : Instr × Arg) (s : State) (h_s : Kept s0 s) : Kept s0 (regStep e s) := by
  unfold regStep
  with_reducible repeat' (first
    | assumption | (intro _) | apply after_kept | apply now_kept | apply kept_ite | split | dsimp only)
  all_goals first | rfl | exact ⟨rfl, rfl⟩ | (simp only [IslandSt.count, CoreSt.count] <;> first | done | exact ⟨rfl, rfl⟩)

theorem execMtpr_kept (g : Guard) (a : BitVec 6) (pidx : BitVec 16) (s : State) (h_s : Kept s0 s) : OutKept s0 (execMtpr g a pidx s) := by
  unfold execMtpr
  with_reducible repeat' (first
    | assumption | (intro _) | rw [outKept_next] | apply kept_foldr | apply privilegedIf_kept | apply regStep_kept
    | apply illegal_kept | split | dsimp only)
  all_goals first | rfl | exact ⟨rfl, rfl⟩ | (simp only [IslandSt.count, CoreSt.count] <;> first | done | exact ⟨rfl, rfl⟩)

theorem dropRange_kept (cx : BitVec 7) (lo hi : Nat) (s : State) (h_s : Kept s0 s) : Kept s0 (dropRange cx lo hi s) := by
  unfold dropRange
  with_reducible repeat' (first
    | assumption | (intro _) | apply modC_kept | apply modI_kept | apply modD_kept | apply kept_foldl | apply kept_ite
    | split | dsimp only
    | (rw [kept_mk]; apply kept_wf; first | assumption | apply modC_kept | apply modI_kept | apply modD_kept | apply kept_foldl | apply kept_ite))
  all_goals first | rfl | exact ⟨rfl, rfl⟩ | (simp only [IslandSt.count, CoreSt.count] <;> first | done | exact ⟨rfl, rfl⟩)

theorem execXlinv_kept (g : Guard) (d a b : BitVec 6) (psz : BitVec 3) (s : State) (h_s : Kept s0 s) : OutKept s0 (execXlinv g d a b psz s) := by
  unfold execXlinv
  with_reducible repeat' (first
    | assumption | (intro _) | rw [outKept_next] | apply privileged_kept | apply takeTrap_kept | apply dropRange_kept
    | apply issueCop_kept | apply kept_ite | split | dsimp only)
  all_goals first | rfl | exact ⟨rfl, rfl⟩ | (simp only [IslandSt.count, CoreSt.count] <;> first | done | exact ⟨rfl, rfl⟩)

theorem issueWait_kept (f : Nat → Nat → Cop) (s : State) (h_s : Kept s0 s) : Kept s0 (issueWait f s).2 := by
  unfold issueWait
  with_reducible repeat' (first
    | assumption | (intro _) | apply modMe_kept | dsimp only
    | (rw [kept_mk]; apply kept_wf; first | assumption | apply modMe_kept))
  all_goals first | rfl | exact ⟨rfl, rfl⟩ | (simp only [IslandSt.count, CoreSt.count] <;> first | done | exact ⟨rfl, rfl⟩)

theorem issueWait_pair_kept {f : Nat → Nat → Cop} {s : State} {t : State} {zz : Nat} (h : (issueWait f s) = (zz, t)) (h_s : Kept s0 s) : Kept s0 t := by
  have := issueWait_kept f s h_s
  rw [h] at this; exact this

theorem misdirected_kept (s : State) (h_s : Kept s0 s) : Kept s0 (misdirected s) := by
  unfold misdirected
  with_reducible repeat' (first
    | assumption | (intro _) | apply modI_kept | dsimp only
    | (rw [kept_mk]; apply kept_wf; first | assumption | apply modI_kept))
  all_goals first | rfl | exact ⟨rfl, rfl⟩ | (simp only [IslandSt.count, CoreSt.count] <;> first | done | exact ⟨rfl, rfl⟩)

theorem execWfe_kept (g : Guard) (d : BitVec 6) (s : State) (h_s : Kept s0 s) : OutKept s0 (execWfe g d s) := by
  unfold execWfe
  with_reducible repeat' (first
    | assumption | (intro _) | rw [outKept_next] | apply privileged_kept | apply toS_kept | dsimp only)
  all_goals first | rfl | exact ⟨rfl, rfl⟩ | (simp only [IslandSt.count, CoreSt.count] <;> first | done | exact ⟨rfl, rfl⟩)

theorem clearTested_kept (y : Isl) (u : BitVec 16) (s : State) (h_s : Kept s0 s) : Kept s0 (clearTested y u s) := by
  unfold clearTested
  with_reducible repeat' (first
    | assumption | (intro _) | apply emptyPart_kept | apply emptyShelf_kept | split | dsimp only
    | (rw [kept_mk]; apply kept_wf; first | assumption | apply emptyPart_kept | apply emptyShelf_kept))
  all_goals first | rfl | exact ⟨rfl, rfl⟩ | (simp only [IslandSt.count, CoreSt.count] <;> first | done | exact ⟨rfl, rfl⟩)

theorem askTest_kept (y : Isl) (u : BitVec 16) (by_ : Option (CoreId × Nat)) (s : State) (h_s : Kept s0 s) : Kept s0 (askTest y u by_ s) := by
  unfold askTest
  with_reducible repeat' (first
    | assumption | (intro _) | apply modI_kept | apply after_kept | apply pick_kept | apply requestPreempt_kept
    | apply clearTested_kept | apply kept_ite | split | refine pick_pair_kept (by assumption) ?_ | dsimp only
    | (rw [kept_mk]; apply kept_wf; first | assumption | apply modI_kept | apply after_kept | apply pick_kept | apply requestPreempt_kept | apply clearTested_kept | apply kept_ite | refine pick_pair_kept (by assumption) ?_))
  all_goals first | rfl | exact ⟨rfl, rfl⟩ | (simp only [IslandSt.count, CoreSt.count] <;> first | done | exact ⟨rfl, rfl⟩)

theorem execStest_kept (g : Guard) (d a : BitVec 6) (s : State) (h_s : Kept s0 s) : OutKept s0 (execStest g d a s) := by
  unfold execStest
  with_reducible repeat' (first
    | assumption | (intro _) | rw [outKept_next] | apply privileged_kept | apply illegal_kept | apply issueWait_kept
    | apply askTest_kept | apply kept_ite | split | refine issueWai_pair_kept (by assumption) ?_ | dsimp only)
  all_goals first | rfl | exact ⟨rfl, rfl⟩ | (simp only [IslandSt.count, CoreSt.count] <;> first | done | exact ⟨rfl, rfl⟩)

theorem execHsw_kept (g : Guard) (a b : BitVec 6) (s : State) (h_s : Kept s0 s) : OutKept s0 (execHsw g a b s) := by
  unfold execHsw
  with_reducible repeat' (first
    | assumption | (intro _) | rw [outKept_next] | apply modC_kept | apply privileged_kept | apply illegal_kept
    | apply misdirected_kept | apply kept_ite | split | dsimp only
    | (rw [kept_mk]; apply kept_wf; first | assumption | apply modC_kept | apply privileged_kept | apply illegal_kept | apply misdirected_kept | apply kept_ite))
  all_goals first | rfl | exact ⟨rfl, rfl⟩ | (simp only [IslandSt.count, CoreSt.count] <;> first | done | exact ⟨rfl, rfl⟩)

/-! Predicate. -/

theorem cmpRR_kept (f : W64 → W64 → Bool) (g : Guard) (pd : BitVec 4) (a b : BitVec 6) (s : State) (h_s : Kept s0 s) : OutKept s0 (cmpRR f g pd a b s) := by
  unfold cmpRR
  with_reducible repeat' (first
    | assumption | (intro _) | rw [outKept_next] | apply guarded_kept | apply toP_kept | dsimp only)
  all_goals first | rfl | exact ⟨rfl, rfl⟩ | (simp only [IslandSt.count, CoreSt.count] <;> first | done | exact ⟨rfl, rfl⟩)

theorem cmpRI_kept (f : W64 → W64 → Bool) (g : Guard) (pd : BitVec 4) (a : BitVec 6) (imm : BitVec 33) (s : State) (h_s : Kept s0 s) : OutKept s0 (cmpRI f g pd a imm s) := by
  unfold cmpRI
  with_reducible repeat' (first
    | assumption | (intro _) | rw [outKept_next] | apply guarded_kept | apply toP_kept | dsimp only)
  all_goals first | rfl | exact ⟨rfl, rfl⟩ | (simp only [IslandSt.count, CoreSt.count] <;> first | done | exact ⟨rfl, rfl⟩)

theorem pred2_kept (f : W64 → W64 → W64) (g : Guard) (pd px py : BitVec 4) (s : State) (h_s : Kept s0 s) : OutKept s0 (pred2 f g pd px py s) := by
  unfold pred2
  with_reducible repeat' (first
    | assumption | (intro _) | rw [outKept_next] | apply guarded_kept | apply toP_kept | dsimp only)
  all_goals first | rfl | exact ⟨rfl, rfl⟩ | (simp only [IslandSt.count, CoreSt.count] <;> first | done | exact ⟨rfl, rfl⟩)

theorem execCmpeq_kept (g : Guard) (pd : BitVec 4) (a b : BitVec 6) (s : State) (h_s : Kept s0 s) : OutKept s0 (execCmpeq g pd a b s) := by
  unfold execCmpeq
  with_reducible repeat' (first
    | assumption | (intro _) | rw [outKept_next] | apply cmpRR_kept | dsimp only)
  all_goals first | rfl | exact ⟨rfl, rfl⟩ | (simp only [IslandSt.count, CoreSt.count] <;> first | done | exact ⟨rfl, rfl⟩)

theorem execCmpne_kept (g : Guard) (pd : BitVec 4) (a b : BitVec 6) (s : State) (h_s : Kept s0 s) : OutKept s0 (execCmpne g pd a b s) := by
  unfold execCmpne
  with_reducible repeat' (first
    | assumption | (intro _) | rw [outKept_next] | apply cmpRR_kept | dsimp only)
  all_goals first | rfl | exact ⟨rfl, rfl⟩ | (simp only [IslandSt.count, CoreSt.count] <;> first | done | exact ⟨rfl, rfl⟩)

theorem execCmplt_kept (g : Guard) (pd : BitVec 4) (a b : BitVec 6) (s : State) (h_s : Kept s0 s) : OutKept s0 (execCmplt g pd a b s) := by
  unfold execCmplt
  with_reducible repeat' (first
    | assumption | (intro _) | rw [outKept_next] | apply cmpRR_kept | dsimp only)
  all_goals first | rfl | exact ⟨rfl, rfl⟩ | (simp only [IslandSt.count, CoreSt.count] <;> first | done | exact ⟨rfl, rfl⟩)

theorem execCmple_kept (g : Guard) (pd : BitVec 4) (a b : BitVec 6) (s : State) (h_s : Kept s0 s) : OutKept s0 (execCmple g pd a b s) := by
  unfold execCmple
  with_reducible repeat' (first
    | assumption | (intro _) | rw [outKept_next] | apply cmpRR_kept | dsimp only)
  all_goals first | rfl | exact ⟨rfl, rfl⟩ | (simp only [IslandSt.count, CoreSt.count] <;> first | done | exact ⟨rfl, rfl⟩)

theorem execCmpltn_kept (g : Guard) (pd : BitVec 4) (a b : BitVec 6) (s : State) (h_s : Kept s0 s) : OutKept s0 (execCmpltn g pd a b s) := by
  unfold execCmpltn
  with_reducible repeat' (first
    | assumption | (intro _) | rw [outKept_next] | apply cmpRR_kept | dsimp only)
  all_goals first | rfl | exact ⟨rfl, rfl⟩ | (simp only [IslandSt.count, CoreSt.count] <;> first | done | exact ⟨rfl, rfl⟩)

theorem execCmplen_kept (g : Guard) (pd : BitVec 4) (a b : BitVec 6) (s : State) (h_s : Kept s0 s) : OutKept s0 (execCmplen g pd a b s) := by
  unfold execCmplen
  with_reducible repeat' (first
    | assumption | (intro _) | rw [outKept_next] | apply cmpRR_kept | dsimp only)
  all_goals first | rfl | exact ⟨rfl, rfl⟩ | (simp only [IslandSt.count, CoreSt.count] <;> first | done | exact ⟨rfl, rfl⟩)

theorem execCmpeqi_kept (g : Guard) (pd : BitVec 4) (a : BitVec 6) (imm : BitVec 33) (s : State) (h_s : Kept s0 s) : OutKept s0 (execCmpeqi g pd a imm s) := by
  unfold execCmpeqi
  with_reducible repeat' (first
    | assumption | (intro _) | rw [outKept_next] | apply cmpRI_kept | dsimp only)
  all_goals first | rfl | exact ⟨rfl, rfl⟩ | (simp only [IslandSt.count, CoreSt.count] <;> first | done | exact ⟨rfl, rfl⟩)

theorem execCmplti_kept (g : Guard) (pd : BitVec 4) (a : BitVec 6) (imm : BitVec 33) (s : State) (h_s : Kept s0 s) : OutKept s0 (execCmplti g pd a imm s) := by
  unfold execCmplti
  with_reducible repeat' (first
    | assumption | (intro _) | rw [outKept_next] | apply cmpRI_kept | dsimp only)
  all_goals first | rfl | exact ⟨rfl, rfl⟩ | (simp only [IslandSt.count, CoreSt.count] <;> first | done | exact ⟨rfl, rfl⟩)

theorem execPand_kept (g : Guard) (pd px py : BitVec 4) (s : State) (h_s : Kept s0 s) : OutKept s0 (execPand g pd px py s) := by
  unfold execPand
  with_reducible repeat' (first
    | assumption | (intro _) | rw [outKept_next] | apply pred2_kept | dsimp only)
  all_goals first | rfl | exact ⟨rfl, rfl⟩ | (simp only [IslandSt.count, CoreSt.count] <;> first | done | exact ⟨rfl, rfl⟩)

theorem execPor_kept (g : Guard) (pd px py : BitVec 4) (s : State) (h_s : Kept s0 s) : OutKept s0 (execPor g pd px py s) := by
  unfold execPor
  with_reducible repeat' (first
    | assumption | (intro _) | rw [outKept_next] | apply pred2_kept | dsimp only)
  all_goals first | rfl | exact ⟨rfl, rfl⟩ | (simp only [IslandSt.count, CoreSt.count] <;> first | done | exact ⟨rfl, rfl⟩)

theorem execPxor_kept (g : Guard) (pd px py : BitVec 4) (s : State) (h_s : Kept s0 s) : OutKept s0 (execPxor g pd px py s) := by
  unfold execPxor
  with_reducible repeat' (first
    | assumption | (intro _) | rw [outKept_next] | apply pred2_kept | dsimp only)
  all_goals first | rfl | exact ⟨rfl, rfl⟩ | (simp only [IslandSt.count, CoreSt.count] <;> first | done | exact ⟨rfl, rfl⟩)

theorem execPandn_kept (g : Guard) (pd px py : BitVec 4) (s : State) (h_s : Kept s0 s) : OutKept s0 (execPandn g pd px py s) := by
  unfold execPandn
  with_reducible repeat' (first
    | assumption | (intro _) | rw [outKept_next] | apply pred2_kept | dsimp only)
  all_goals first | rfl | exact ⟨rfl, rfl⟩ | (simp only [IslandSt.count, CoreSt.count] <;> first | done | exact ⟨rfl, rfl⟩)

theorem execPnot_kept (g : Guard) (pd px : BitVec 4) (s : State) (h_s : Kept s0 s) : OutKept s0 (execPnot g pd px s) := by
  unfold execPnot
  with_reducible repeat' (first
    | assumption | (intro _) | rw [outKept_next] | apply guarded_kept | apply toP_kept | dsimp only)
  all_goals first | rfl | exact ⟨rfl, rfl⟩ | (simp only [IslandSt.count, CoreSt.count] <;> first | done | exact ⟨rfl, rfl⟩)

theorem execPmov_kept (g : Guard) (pd px : BitVec 4) (s : State) (h_s : Kept s0 s) : OutKept s0 (execPmov g pd px s) := by
  unfold execPmov
  with_reducible repeat' (first
    | assumption | (intro _) | rw [outKept_next] | apply guarded_kept | apply toP_kept | dsimp only)
  all_goals first | rfl | exact ⟨rfl, rfl⟩ | (simp only [IslandSt.count, CoreSt.count] <;> first | done | exact ⟨rfl, rfl⟩)

theorem execPset_kept (g : Guard) (pd : BitVec 4) (a : BitVec 6) (s : State) (h_s : Kept s0 s) : OutKept s0 (execPset g pd a s) := by
  unfold execPset
  with_reducible repeat' (first
    | assumption | (intro _) | rw [outKept_next] | apply guarded_kept | apply toP_kept | dsimp only)
  all_goals first | rfl | exact ⟨rfl, rfl⟩ | (simp only [IslandSt.count, CoreSt.count] <;> first | done | exact ⟨rfl, rfl⟩)

theorem execPget_kept (g : Guard) (d : BitVec 6) (px : BitVec 4) (s : State) (h_s : Kept s0 s) : OutKept s0 (execPget g d px s) := by
  unfold execPget
  with_reducible repeat' (first
    | assumption | (intro _) | rw [outKept_next] | apply guarded_kept | apply toS_kept | dsimp only)
  all_goals first | rfl | exact ⟨rfl, rfl⟩ | (simp only [IslandSt.count, CoreSt.count] <;> first | done | exact ⟨rfl, rfl⟩)

theorem execPcnt_kept (g : Guard) (d : BitVec 6) (px : BitVec 4) (s : State) (h_s : Kept s0 s) : OutKept s0 (execPcnt g d px s) := by
  unfold execPcnt
  with_reducible repeat' (first
    | assumption | (intro _) | rw [outKept_next] | apply guarded_kept | apply toS_kept | dsimp only)
  all_goals first | rfl | exact ⟨rfl, rfl⟩ | (simp only [IslandSt.count, CoreSt.count] <;> first | done | exact ⟨rfl, rfl⟩)

/-! Scalar. -/

theorem rrr_kept (n : Nat) (f : W64 → W64 → W64) (g : Guard) (d a b : BitVec 6) (s : State) (h_s : Kept s0 s) : OutKept s0 (rrr n f g d a b s) := by
  unfold rrr
  with_reducible repeat' (first
    | assumption | (intro _) | rw [outKept_next] | apply guarded_kept | apply toS_kept | dsimp only)
  all_goals first | rfl | exact ⟨rfl, rfl⟩ | (simp only [IslandSt.count, CoreSt.count] <;> first | done | exact ⟨rfl, rfl⟩)

theorem rri_kept (n : Nat) (f : W64 → W64 → W64) (g : Guard) (d a : BitVec 6) (imm : BitVec 33) (s : State) (h_s : Kept s0 s) : OutKept s0 (rri n f g d a imm s) := by
  unfold rri
  with_reducible repeat' (first
    | assumption | (intro _) | rw [outKept_next] | apply guarded_kept | apply toS_kept | dsimp only)
  all_goals first | rfl | exact ⟨rfl, rfl⟩ | (simp only [IslandSt.count, CoreSt.count] <;> first | done | exact ⟨rfl, rfl⟩)

theorem rr1_kept (n : Nat) (f : W64 → W64) (g : Guard) (d a : BitVec 6) (s : State) (h_s : Kept s0 s) : OutKept s0 (rr1 n f g d a s) := by
  unfold rr1
  with_reducible repeat' (first
    | assumption | (intro _) | rw [outKept_next] | apply guarded_kept | apply toS_kept | dsimp only)
  all_goals first | rfl | exact ⟨rfl, rfl⟩ | (simp only [IslandSt.count, CoreSt.count] <;> first | done | exact ⟨rfl, rfl⟩)

theorem execAdd_kept (g : Guard) (d a b : BitVec 6) (s : State) (h_s : Kept s0 s) : OutKept s0 (execAdd g d a b s) := by
  unfold execAdd
  with_reducible repeat' (first
    | assumption | (intro _) | rw [outKept_next] | apply rrr_kept | dsimp only)
  all_goals first | rfl | exact ⟨rfl, rfl⟩ | (simp only [IslandSt.count, CoreSt.count] <;> first | done | exact ⟨rfl, rfl⟩)

theorem execSub_kept (g : Guard) (d a b : BitVec 6) (s : State) (h_s : Kept s0 s) : OutKept s0 (execSub g d a b s) := by
  unfold execSub
  with_reducible repeat' (first
    | assumption | (intro _) | rw [outKept_next] | apply rrr_kept | dsimp only)
  all_goals first | rfl | exact ⟨rfl, rfl⟩ | (simp only [IslandSt.count, CoreSt.count] <;> first | done | exact ⟨rfl, rfl⟩)

theorem execMul_kept (g : Guard) (d a b : BitVec 6) (s : State) (h_s : Kept s0 s) : OutKept s0 (execMul g d a b s) := by
  unfold execMul
  with_reducible repeat' (first
    | assumption | (intro _) | rw [outKept_next] | apply rrr_kept | dsimp only)
  all_goals first | rfl | exact ⟨rfl, rfl⟩ | (simp only [IslandSt.count, CoreSt.count] <;> first | done | exact ⟨rfl, rfl⟩)

theorem execMulh_kept (g : Guard) (d a b : BitVec 6) (s : State) (h_s : Kept s0 s) : OutKept s0 (execMulh g d a b s) := by
  unfold execMulh
  with_reducible repeat' (first
    | assumption | (intro _) | rw [outKept_next] | apply rrr_kept | dsimp only)
  all_goals first | rfl | exact ⟨rfl, rfl⟩ | (simp only [IslandSt.count, CoreSt.count] <;> first | done | exact ⟨rfl, rfl⟩)

theorem execMulhn_kept (g : Guard) (d a b : BitVec 6) (s : State) (h_s : Kept s0 s) : OutKept s0 (execMulhn g d a b s) := by
  unfold execMulhn
  with_reducible repeat' (first
    | assumption | (intro _) | rw [outKept_next] | apply rrr_kept | dsimp only)
  all_goals first | rfl | exact ⟨rfl, rfl⟩ | (simp only [IslandSt.count, CoreSt.count] <;> first | done | exact ⟨rfl, rfl⟩)

theorem execDiv_kept (g : Guard) (d a b : BitVec 6) (s : State) (h_s : Kept s0 s) : OutKept s0 (execDiv g d a b s) := by
  unfold execDiv
  with_reducible repeat' (first
    | assumption | (intro _) | rw [outKept_next] | apply rrr_kept | dsimp only)
  all_goals first | rfl | exact ⟨rfl, rfl⟩ | (simp only [IslandSt.count, CoreSt.count] <;> first | done | exact ⟨rfl, rfl⟩)

theorem execDivn_kept (g : Guard) (d a b : BitVec 6) (s : State) (h_s : Kept s0 s) : OutKept s0 (execDivn g d a b s) := by
  unfold execDivn
  with_reducible repeat' (first
    | assumption | (intro _) | rw [outKept_next] | apply rrr_kept | dsimp only)
  all_goals first | rfl | exact ⟨rfl, rfl⟩ | (simp only [IslandSt.count, CoreSt.count] <;> first | done | exact ⟨rfl, rfl⟩)

theorem execRem_kept (g : Guard) (d a b : BitVec 6) (s : State) (h_s : Kept s0 s) : OutKept s0 (execRem g d a b s) := by
  unfold execRem
  with_reducible repeat' (first
    | assumption | (intro _) | rw [outKept_next] | apply rrr_kept | dsimp only)
  all_goals first | rfl | exact ⟨rfl, rfl⟩ | (simp only [IslandSt.count, CoreSt.count] <;> first | done | exact ⟨rfl, rfl⟩)

theorem execRemn_kept (g : Guard) (d a b : BitVec 6) (s : State) (h_s : Kept s0 s) : OutKept s0 (execRemn g d a b s) := by
  unfold execRemn
  with_reducible repeat' (first
    | assumption | (intro _) | rw [outKept_next] | apply rrr_kept | dsimp only)
  all_goals first | rfl | exact ⟨rfl, rfl⟩ | (simp only [IslandSt.count, CoreSt.count] <;> first | done | exact ⟨rfl, rfl⟩)

theorem execAddi_kept (g : Guard) (d a : BitVec 6) (imm : BitVec 33) (s : State) (h_s : Kept s0 s) : OutKept s0 (execAddi g d a imm s) := by
  unfold execAddi
  with_reducible repeat' (first
    | assumption | (intro _) | rw [outKept_next] | apply rri_kept | dsimp only)
  all_goals first | rfl | exact ⟨rfl, rfl⟩ | (simp only [IslandSt.count, CoreSt.count] <;> first | done | exact ⟨rfl, rfl⟩)

theorem execMuli_kept (g : Guard) (d a : BitVec 6) (imm : BitVec 33) (s : State) (h_s : Kept s0 s) : OutKept s0 (execMuli g d a imm s) := by
  unfold execMuli
  with_reducible repeat' (first
    | assumption | (intro _) | rw [outKept_next] | apply rri_kept | dsimp only)
  all_goals first | rfl | exact ⟨rfl, rfl⟩ | (simp only [IslandSt.count, CoreSt.count] <;> first | done | exact ⟨rfl, rfl⟩)

theorem execAnd_kept (g : Guard) (d a b : BitVec 6) (s : State) (h_s : Kept s0 s) : OutKept s0 (execAnd g d a b s) := by
  unfold execAnd
  with_reducible repeat' (first
    | assumption | (intro _) | rw [outKept_next] | apply rrr_kept | dsimp only)
  all_goals first | rfl | exact ⟨rfl, rfl⟩ | (simp only [IslandSt.count, CoreSt.count] <;> first | done | exact ⟨rfl, rfl⟩)

theorem execOr_kept (g : Guard) (d a b : BitVec 6) (s : State) (h_s : Kept s0 s) : OutKept s0 (execOr g d a b s) := by
  unfold execOr
  with_reducible repeat' (first
    | assumption | (intro _) | rw [outKept_next] | apply rrr_kept | dsimp only)
  all_goals first | rfl | exact ⟨rfl, rfl⟩ | (simp only [IslandSt.count, CoreSt.count] <;> first | done | exact ⟨rfl, rfl⟩)

theorem execXor_kept (g : Guard) (d a b : BitVec 6) (s : State) (h_s : Kept s0 s) : OutKept s0 (execXor g d a b s) := by
  unfold execXor
  with_reducible repeat' (first
    | assumption | (intro _) | rw [outKept_next] | apply rrr_kept | dsimp only)
  all_goals first | rfl | exact ⟨rfl, rfl⟩ | (simp only [IslandSt.count, CoreSt.count] <;> first | done | exact ⟨rfl, rfl⟩)

theorem execAndn_kept (g : Guard) (d a b : BitVec 6) (s : State) (h_s : Kept s0 s) : OutKept s0 (execAndn g d a b s) := by
  unfold execAndn
  with_reducible repeat' (first
    | assumption | (intro _) | rw [outKept_next] | apply rrr_kept | dsimp only)
  all_goals first | rfl | exact ⟨rfl, rfl⟩ | (simp only [IslandSt.count, CoreSt.count] <;> first | done | exact ⟨rfl, rfl⟩)

theorem execOrn_kept (g : Guard) (d a b : BitVec 6) (s : State) (h_s : Kept s0 s) : OutKept s0 (execOrn g d a b s) := by
  unfold execOrn
  with_reducible repeat' (first
    | assumption | (intro _) | rw [outKept_next] | apply rrr_kept | dsimp only)
  all_goals first | rfl | exact ⟨rfl, rfl⟩ | (simp only [IslandSt.count, CoreSt.count] <;> first | done | exact ⟨rfl, rfl⟩)

theorem execXnor_kept (g : Guard) (d a b : BitVec 6) (s : State) (h_s : Kept s0 s) : OutKept s0 (execXnor g d a b s) := by
  unfold execXnor
  with_reducible repeat' (first
    | assumption | (intro _) | rw [outKept_next] | apply rrr_kept | dsimp only)
  all_goals first | rfl | exact ⟨rfl, rfl⟩ | (simp only [IslandSt.count, CoreSt.count] <;> first | done | exact ⟨rfl, rfl⟩)

theorem execAndi_kept (g : Guard) (d a : BitVec 6) (imm : BitVec 33) (s : State) (h_s : Kept s0 s) : OutKept s0 (execAndi g d a imm s) := by
  unfold execAndi
  with_reducible repeat' (first
    | assumption | (intro _) | rw [outKept_next] | apply rri_kept | dsimp only)
  all_goals first | rfl | exact ⟨rfl, rfl⟩ | (simp only [IslandSt.count, CoreSt.count] <;> first | done | exact ⟨rfl, rfl⟩)

theorem execOri_kept (g : Guard) (d a : BitVec 6) (imm : BitVec 33) (s : State) (h_s : Kept s0 s) : OutKept s0 (execOri g d a imm s) := by
  unfold execOri
  with_reducible repeat' (first
    | assumption | (intro _) | rw [outKept_next] | apply rri_kept | dsimp only)
  all_goals first | rfl | exact ⟨rfl, rfl⟩ | (simp only [IslandSt.count, CoreSt.count] <;> first | done | exact ⟨rfl, rfl⟩)

theorem execXori_kept (g : Guard) (d a : BitVec 6) (imm : BitVec 33) (s : State) (h_s : Kept s0 s) : OutKept s0 (execXori g d a imm s) := by
  unfold execXori
  with_reducible repeat' (first
    | assumption | (intro _) | rw [outKept_next] | apply rri_kept | dsimp only)
  all_goals first | rfl | exact ⟨rfl, rfl⟩ | (simp only [IslandSt.count, CoreSt.count] <;> first | done | exact ⟨rfl, rfl⟩)

theorem execShl_kept (g : Guard) (d a b : BitVec 6) (s : State) (h_s : Kept s0 s) : OutKept s0 (execShl g d a b s) := by
  unfold execShl
  with_reducible repeat' (first
    | assumption | (intro _) | rw [outKept_next] | apply rrr_kept | dsimp only)
  all_goals first | rfl | exact ⟨rfl, rfl⟩ | (simp only [IslandSt.count, CoreSt.count] <;> first | done | exact ⟨rfl, rfl⟩)

theorem execShr_kept (g : Guard) (d a b : BitVec 6) (s : State) (h_s : Kept s0 s) : OutKept s0 (execShr g d a b s) := by
  unfold execShr
  with_reducible repeat' (first
    | assumption | (intro _) | rw [outKept_next] | apply rrr_kept | dsimp only)
  all_goals first | rfl | exact ⟨rfl, rfl⟩ | (simp only [IslandSt.count, CoreSt.count] <;> first | done | exact ⟨rfl, rfl⟩)

theorem execSar_kept (g : Guard) (d a b : BitVec 6) (s : State) (h_s : Kept s0 s) : OutKept s0 (execSar g d a b s) := by
  unfold execSar
  with_reducible repeat' (first
    | assumption | (intro _) | rw [outKept_next] | apply rrr_kept | dsimp only)
  all_goals first | rfl | exact ⟨rfl, rfl⟩ | (simp only [IslandSt.count, CoreSt.count] <;> first | done | exact ⟨rfl, rfl⟩)

theorem execRol_kept (g : Guard) (d a b : BitVec 6) (s : State) (h_s : Kept s0 s) : OutKept s0 (execRol g d a b s) := by
  unfold execRol
  with_reducible repeat' (first
    | assumption | (intro _) | rw [outKept_next] | apply rrr_kept | dsimp only)
  all_goals first | rfl | exact ⟨rfl, rfl⟩ | (simp only [IslandSt.count, CoreSt.count] <;> first | done | exact ⟨rfl, rfl⟩)

theorem execRor_kept (g : Guard) (d a b : BitVec 6) (s : State) (h_s : Kept s0 s) : OutKept s0 (execRor g d a b s) := by
  unfold execRor
  with_reducible repeat' (first
    | assumption | (intro _) | rw [outKept_next] | apply rrr_kept | dsimp only)
  all_goals first | rfl | exact ⟨rfl, rfl⟩ | (simp only [IslandSt.count, CoreSt.count] <;> first | done | exact ⟨rfl, rfl⟩)

theorem execShli_kept (g : Guard) (d a sh : BitVec 6) (s : State) (h_s : Kept s0 s) : OutKept s0 (execShli g d a sh s) := by
  unfold execShli
  with_reducible repeat' (first
    | assumption | (intro _) | rw [outKept_next] | apply rr1_kept | dsimp only)
  all_goals first | rfl | exact ⟨rfl, rfl⟩ | (simp only [IslandSt.count, CoreSt.count] <;> first | done | exact ⟨rfl, rfl⟩)

theorem execShri_kept (g : Guard) (d a sh : BitVec 6) (s : State) (h_s : Kept s0 s) : OutKept s0 (execShri g d a sh s) := by
  unfold execShri
  with_reducible repeat' (first
    | assumption | (intro _) | rw [outKept_next] | apply rr1_kept | dsimp only)
  all_goals first | rfl | exact ⟨rfl, rfl⟩ | (simp only [IslandSt.count, CoreSt.count] <;> first | done | exact ⟨rfl, rfl⟩)

theorem execSari_kept (g : Guard) (d a sh : BitVec 6) (s : State) (h_s : Kept s0 s) : OutKept s0 (execSari g d a sh s) := by
  unfold execSari
  with_reducible repeat' (first
    | assumption | (intro _) | rw [outKept_next] | apply rr1_kept | dsimp only)
  all_goals first | rfl | exact ⟨rfl, rfl⟩ | (simp only [IslandSt.count, CoreSt.count] <;> first | done | exact ⟨rfl, rfl⟩)

theorem execMin_kept (g : Guard) (d a b : BitVec 6) (s : State) (h_s : Kept s0 s) : OutKept s0 (execMin g d a b s) := by
  unfold execMin
  with_reducible repeat' (first
    | assumption | (intro _) | rw [outKept_next] | apply rrr_kept | apply kept_ite | split | dsimp only)
  all_goals first | rfl | exact ⟨rfl, rfl⟩ | (simp only [IslandSt.count, CoreSt.count] <;> first | done | exact ⟨rfl, rfl⟩)

theorem execMax_kept (g : Guard) (d a b : BitVec 6) (s : State) (h_s : Kept s0 s) : OutKept s0 (execMax g d a b s) := by
  unfold execMax
  with_reducible repeat' (first
    | assumption | (intro _) | rw [outKept_next] | apply rrr_kept | apply kept_ite | split | dsimp only)
  all_goals first | rfl | exact ⟨rfl, rfl⟩ | (simp only [IslandSt.count, CoreSt.count] <;> first | done | exact ⟨rfl, rfl⟩)

theorem execMinn_kept (g : Guard) (d a b : BitVec 6) (s : State) (h_s : Kept s0 s) : OutKept s0 (execMinn g d a b s) := by
  unfold execMinn
  with_reducible repeat' (first
    | assumption | (intro _) | rw [outKept_next] | apply rrr_kept | apply kept_ite | split | dsimp only)
  all_goals first | rfl | exact ⟨rfl, rfl⟩ | (simp only [IslandSt.count, CoreSt.count] <;> first | done | exact ⟨rfl, rfl⟩)

theorem execMaxn_kept (g : Guard) (d a b : BitVec 6) (s : State) (h_s : Kept s0 s) : OutKept s0 (execMaxn g d a b s) := by
  unfold execMaxn
  with_reducible repeat' (first
    | assumption | (intro _) | rw [outKept_next] | apply rrr_kept | apply kept_ite | split | dsimp only)
  all_goals first | rfl | exact ⟨rfl, rfl⟩ | (simp only [IslandSt.count, CoreSt.count] <;> first | done | exact ⟨rfl, rfl⟩)

theorem execAbs_kept (g : Guard) (d a : BitVec 6) (s : State) (h_s : Kept s0 s) : OutKept s0 (execAbs g d a s) := by
  unfold execAbs
  with_reducible repeat' (first
    | assumption | (intro _) | rw [outKept_next] | apply rr1_kept | apply kept_ite | split | dsimp only)
  all_goals first | rfl | exact ⟨rfl, rfl⟩ | (simp only [IslandSt.count, CoreSt.count] <;> first | done | exact ⟨rfl, rfl⟩)

theorem execNeg_kept (g : Guard) (d a : BitVec 6) (s : State) (h_s : Kept s0 s) : OutKept s0 (execNeg g d a s) := by
  unfold execNeg
  with_reducible repeat' (first
    | assumption | (intro _) | rw [outKept_next] | apply rr1_kept | dsimp only)
  all_goals first | rfl | exact ⟨rfl, rfl⟩ | (simp only [IslandSt.count, CoreSt.count] <;> first | done | exact ⟨rfl, rfl⟩)

theorem execClz_kept (g : Guard) (d a : BitVec 6) (s : State) (h_s : Kept s0 s) : OutKept s0 (execClz g d a s) := by
  unfold execClz
  with_reducible repeat' (first
    | assumption | (intro _) | rw [outKept_next] | apply rr1_kept | dsimp only)
  all_goals first | rfl | exact ⟨rfl, rfl⟩ | (simp only [IslandSt.count, CoreSt.count] <;> first | done | exact ⟨rfl, rfl⟩)

theorem execCtz_kept (g : Guard) (d a : BitVec 6) (s : State) (h_s : Kept s0 s) : OutKept s0 (execCtz g d a s) := by
  unfold execCtz
  with_reducible repeat' (first
    | assumption | (intro _) | rw [outKept_next] | apply rr1_kept | dsimp only)
  all_goals first | rfl | exact ⟨rfl, rfl⟩ | (simp only [IslandSt.count, CoreSt.count] <;> first | done | exact ⟨rfl, rfl⟩)

theorem execPopc_kept (g : Guard) (d a : BitVec 6) (s : State) (h_s : Kept s0 s) : OutKept s0 (execPopc g d a s) := by
  unfold execPopc
  with_reducible repeat' (first
    | assumption | (intro _) | rw [outKept_next] | apply rr1_kept | dsimp only)
  all_goals first | rfl | exact ⟨rfl, rfl⟩ | (simp only [IslandSt.count, CoreSt.count] <;> first | done | exact ⟨rfl, rfl⟩)

theorem execBswap_kept (g : Guard) (d a : BitVec 6) (s : State) (h_s : Kept s0 s) : OutKept s0 (execBswap g d a s) := by
  unfold execBswap
  with_reducible repeat' (first
    | assumption | (intro _) | rw [outKept_next] | apply rr1_kept | dsimp only)
  all_goals first | rfl | exact ⟨rfl, rfl⟩ | (simp only [IslandSt.count, CoreSt.count] <;> first | done | exact ⟨rfl, rfl⟩)

theorem execBexs_kept (g : Guard) (d a pos w1 : BitVec 6) (s : State) (h_s : Kept s0 s) : OutKept s0 (execBexs g d a pos w1 s) := by
  unfold execBexs
  with_reducible repeat' (first
    | assumption | (intro _) | rw [outKept_next] | apply rr1_kept | dsimp only)
  all_goals first | rfl | exact ⟨rfl, rfl⟩ | (simp only [IslandSt.count, CoreSt.count] <;> first | done | exact ⟨rfl, rfl⟩)

theorem execBexz_kept (g : Guard) (d a pos w1 : BitVec 6) (s : State) (h_s : Kept s0 s) : OutKept s0 (execBexz g d a pos w1 s) := by
  unfold execBexz
  with_reducible repeat' (first
    | assumption | (intro _) | rw [outKept_next] | apply rr1_kept | dsimp only)
  all_goals first | rfl | exact ⟨rfl, rfl⟩ | (simp only [IslandSt.count, CoreSt.count] <;> first | done | exact ⟨rfl, rfl⟩)

theorem execBins_kept (g : Guard) (d a pos w1 : BitVec 6) (s : State) (h_s : Kept s0 s) : OutKept s0 (execBins g d a pos w1 s) := by
  unfold execBins
  with_reducible repeat' (first
    | assumption | (intro _) | rw [outKept_next] | apply guarded_kept | apply toS_kept | dsimp only)
  all_goals first | rfl | exact ⟨rfl, rfl⟩ | (simp only [IslandSt.count, CoreSt.count] <;> first | done | exact ⟨rfl, rfl⟩)

theorem execSel_kept (g : Guard) (d a b : BitVec 6) (j : BitVec 4) (s : State) (h_s : Kept s0 s) : OutKept s0 (execSel g d a b j s) := by
  unfold execSel
  with_reducible repeat' (first
    | assumption | (intro _) | rw [outKept_next] | apply guarded_kept | apply toS_kept | apply kept_ite | split | dsimp only)
  all_goals first | rfl | exact ⟨rfl, rfl⟩ | (simp only [IslandSt.count, CoreSt.count] <;> first | done | exact ⟨rfl, rfl⟩)

theorem execLi_kept (g : Guard) (d : BitVec 6) (imm : BitVec 33) (s : State) (h_s : Kept s0 s) : OutKept s0 (execLi g d imm s) := by
  unfold execLi
  with_reducible repeat' (first
    | assumption | (intro _) | rw [outKept_next] | apply guarded_kept | apply toS_kept | dsimp only)
  all_goals first | rfl | exact ⟨rfl, rfl⟩ | (simp only [IslandSt.count, CoreSt.count] <;> first | done | exact ⟨rfl, rfl⟩)

theorem execLih_kept (g : Guard) (d : BitVec 6) (imm : BitVec 32) (s : State) (h_s : Kept s0 s) : OutKept s0 (execLih g d imm s) := by
  unfold execLih
  with_reducible repeat' (first
    | assumption | (intro _) | rw [outKept_next] | apply guarded_kept | apply toS_kept | dsimp only)
  all_goals first | rfl | exact ⟨rfl, rfl⟩ | (simp only [IslandSt.count, CoreSt.count] <;> first | done | exact ⟨rfl, rfl⟩)

theorem execMov_kept (g : Guard) (d a : BitVec 6) (s : State) (h_s : Kept s0 s) : OutKept s0 (execMov g d a s) := by
  unfold execMov
  with_reducible repeat' (first
    | assumption | (intro _) | rw [outKept_next] | apply rr1_kept | dsimp only)
  all_goals first | rfl | exact ⟨rfl, rfl⟩ | (simp only [IslandSt.count, CoreSt.count] <;> first | done | exact ⟨rfl, rfl⟩)

theorem satRes_kept (x : Int) (d : BitVec 6) (s : State) (h_s : Kept s0 s) : Kept s0 (satRes x d s) := by
  unfold satRes
  with_reducible repeat' (first
    | assumption | (intro _) | apply toSFlags_kept | dsimp only)
  all_goals first | rfl | exact ⟨rfl, rfl⟩ | (simp only [IslandSt.count, CoreSt.count] <;> first | done | exact ⟨rfl, rfl⟩)

theorem execAdds_kept (g : Guard) (d a b : BitVec 6) (s : State) (h_s : Kept s0 s) : OutKept s0 (execAdds g d a b s) := by
  unfold execAdds
  with_reducible repeat' (first
    | assumption | (intro _) | rw [outKept_next] | apply guarded_kept | apply satRes_kept | dsimp only)
  all_goals first | rfl | exact ⟨rfl, rfl⟩ | (simp only [IslandSt.count, CoreSt.count] <;> first | done | exact ⟨rfl, rfl⟩)

theorem execSubs_kept (g : Guard) (d a b : BitVec 6) (s : State) (h_s : Kept s0 s) : OutKept s0 (execSubs g d a b s) := by
  unfold execSubs
  with_reducible repeat' (first
    | assumption | (intro _) | rw [outKept_next] | apply guarded_kept | apply satRes_kept | dsimp only)
  all_goals first | rfl | exact ⟨rfl, rfl⟩ | (simp only [IslandSt.count, CoreSt.count] <;> first | done | exact ⟨rfl, rfl⟩)

theorem execSext_kept (g : Guard) (d a w1 : BitVec 6) (s : State) (h_s : Kept s0 s) : OutKept s0 (execSext g d a w1 s) := by
  unfold execSext
  with_reducible repeat' (first
    | assumption | (intro _) | rw [outKept_next] | apply rr1_kept | dsimp only)
  all_goals first | rfl | exact ⟨rfl, rfl⟩ | (simp only [IslandSt.count, CoreSt.count] <;> first | done | exact ⟨rfl, rfl⟩)

theorem execZext_kept (g : Guard) (d a w1 : BitVec 6) (s : State) (h_s : Kept s0 s) : OutKept s0 (execZext g d a w1 s) := by
  unfold execZext
  with_reducible repeat' (first
    | assumption | (intro _) | rw [outKept_next] | apply rr1_kept | dsimp only)
  all_goals first | rfl | exact ⟨rfl, rfl⟩ | (simp only [IslandSt.count, CoreSt.count] <;> first | done | exact ⟨rfl, rfl⟩)

theorem execNop_kept (s : State) (h_s : Kept s0 s) : OutKept s0 (execNop s) := by
  unfold execNop
  with_reducible repeat' (first
    | assumption | (intro _) | rw [outKept_next] | dsimp only)
  all_goals first | rfl | exact ⟨rfl, rfl⟩ | (simp only [IslandSt.count, CoreSt.count] <;> first | done | exact ⟨rfl, rfl⟩)

/-! Vector. -/

theorem vecBegin_kept (cl : Cluster) (lat : Nat) (effs : List Eff) (s : State) (h_s : Kept s0 s) : Kept s0 (vecBegin cl lat effs s) := by
  unfold vecBegin
  with_reducible repeat' (first
    | assumption | (intro _) | apply modMe_kept | apply kept_foldl | split | dsimp only
    | (rw [kept_mk]; apply kept_wf; first | assumption | apply modMe_kept | apply kept_foldl))
  all_goals first | rfl | exact ⟨rfl, rfl⟩ | (simp only [IslandSt.count, CoreSt.count] <;> first | done | exact ⟨rfl, rfl⟩)

theorem vecRun_kept (cl : Cluster) (lat : Nat) (srcs : List (Cluster × BitVec 5)) (effs : List Eff) (s : State) (h_s : Kept s0 s) : Kept s0 (vecRun cl lat srcs effs s) := by
  unfold vecRun
  with_reducible repeat' (first
    | assumption | (intro _) | apply consume_kept | apply vecBegin_kept | split | dsimp only
    | (rw [kept_mk]; apply kept_wf; first | assumption | apply consume_kept | apply vecBegin_kept))
  all_goals first | rfl | exact ⟨rfl, rfl⟩ | (simp only [IslandSt.count, CoreSt.count] <;> first | done | exact ⟨rfl, rfl⟩)

theorem vec1_kept (h : VH) (lat : Nat) (vd v1 : BitVec 5) (f : Nat → Nat × Byte) (s : State) (h_s : Kept s0 s) : OutKept s0 (vec1 h lat vd v1 f s) := by
  unfold vec1
  with_reducible repeat' (first
    | assumption | (intro _) | rw [outKept_next] | apply vecRun_kept | dsimp only)
  all_goals first | rfl | exact ⟨rfl, rfl⟩ | (simp only [IslandSt.count, CoreSt.count] <;> first | done | exact ⟨rfl, rfl⟩)

theorem vec2_kept (h : VH) (lat : Nat) (vd v1 v2 : BitVec 5) (f : Nat → Nat → Nat × Byte) (s : State) (h_s : Kept s0 s) : OutKept s0 (vec2 h lat vd v1 v2 f s) := by
  unfold vec2
  with_reducible repeat' (first
    | assumption | (intro _) | rw [outKept_next] | apply vecRun_kept | dsimp only)
  all_goals first | rfl | exact ⟨rfl, rfl⟩ | (simp only [IslandSt.count, CoreSt.count] <;> first | done | exact ⟨rfl, rfl⟩)

theorem vec2c_kept (chk : Bool) (h : VH) (lat : Nat) (vd v1 v2 : BitVec 5) (f : Nat → Nat → Nat × Byte) (s : State) (h_s : Kept s0 s) : OutKept s0 (vec2c chk h lat vd v1 v2 f s) := by
  unfold vec2c
  with_reducible repeat' (first
    | assumption | (intro _) | rw [outKept_next] | apply vecRun_kept | apply kept_ite | split | dsimp only)
  all_goals first | rfl | exact ⟨rfl, rfl⟩ | (simp only [IslandSt.count, CoreSt.count] <;> first | done | exact ⟨rfl, rfl⟩)

theorem vec3c_kept (h : VH) (lat : Nat) (vd v1 v2 v3 : BitVec 5) (f : Nat → Nat → Nat → Nat × Byte) (s : State) (h_s : Kept s0 s) : OutKept s0 (vec3c h lat vd v1 v2 v3 f s) := by
  unfold vec3c
  with_reducible repeat' (first
    | assumption | (intro _) | rw [outKept_next] | apply vecRun_kept | dsimp only)
  all_goals first | rfl | exact ⟨rfl, rfl⟩ | (simp only [IslandSt.count, CoreSt.count] <;> first | done | exact ⟨rfl, rfl⟩)

theorem execVadd_kept (h : VH) (vd v1 v2 : BitVec 5) (s : State) (h_s : Kept s0 s) : OutKept s0 (execVadd h vd v1 v2 s) := by
  unfold execVadd
  with_reducible repeat' (first
    | assumption | (intro _) | rw [outKept_next] | apply vec2c_kept | dsimp only)
  all_goals first | rfl | exact ⟨rfl, rfl⟩ | (simp only [IslandSt.count, CoreSt.count] <;> first | done | exact ⟨rfl, rfl⟩)

theorem execVsub_kept (h : VH) (vd v1 v2 : BitVec 5) (s : State) (h_s : Kept s0 s) : OutKept s0 (execVsub h vd v1 v2 s) := by
  unfold execVsub
  with_reducible repeat' (first
    | assumption | (intro _) | rw [outKept_next] | apply vec2c_kept | dsimp only)
  all_goals first | rfl | exact ⟨rfl, rfl⟩ | (simp only [IslandSt.count, CoreSt.count] <;> first | done | exact ⟨rfl, rfl⟩)

theorem execVmul_kept (h : VH) (vd v1 v2 : BitVec 5) (s : State) (h_s : Kept s0 s) : OutKept s0 (execVmul h vd v1 v2 s) := by
  unfold execVmul
  with_reducible repeat' (first
    | assumption | (intro _) | rw [outKept_next] | apply vec2c_kept | dsimp only)
  all_goals first | rfl | exact ⟨rfl, rfl⟩ | (simp only [IslandSt.count, CoreSt.count] <;> first | done | exact ⟨rfl, rfl⟩)

theorem execVmulh_kept (h : VH) (vd v1 v2 : BitVec 5) (s : State) (h_s : Kept s0 s) : OutKept s0 (execVmulh h vd v1 v2 s) := by
  unfold execVmulh
  with_reducible repeat' (first
    | assumption | (intro _) | rw [outKept_next] | apply vec2c_kept | dsimp only)
  all_goals first | rfl | exact ⟨rfl, rfl⟩ | (simp only [IslandSt.count, CoreSt.count] <;> first | done | exact ⟨rfl, rfl⟩)

theorem execVmin_kept (h : VH) (vd v1 v2 : BitVec 5) (s : State) (h_s : Kept s0 s) : OutKept s0 (execVmin h vd v1 v2 s) := by
  unfold execVmin
  with_reducible repeat' (first
    | assumption | (intro _) | rw [outKept_next] | apply vec2_kept | dsimp only)
  all_goals first | rfl | exact ⟨rfl, rfl⟩ | (simp only [IslandSt.count, CoreSt.count] <;> first | done | exact ⟨rfl, rfl⟩)

theorem execVmax_kept (h : VH) (vd v1 v2 : BitVec 5) (s : State) (h_s : Kept s0 s) : OutKept s0 (execVmax h vd v1 v2 s) := by
  unfold execVmax
  with_reducible repeat' (first
    | assumption | (intro _) | rw [outKept_next] | apply vec2_kept | dsimp only)
  all_goals first | rfl | exact ⟨rfl, rfl⟩ | (simp only [IslandSt.count, CoreSt.count] <;> first | done | exact ⟨rfl, rfl⟩)

theorem execVabs_kept (h : VH) (vd v1 : BitVec 5) (s : State) (h_s : Kept s0 s) : OutKept s0 (execVabs h vd v1 s) := by
  unfold execVabs
  with_reducible repeat' (first
    | assumption | (intro _) | rw [outKept_next] | apply vec1_kept | dsimp only)
  all_goals first | rfl | exact ⟨rfl, rfl⟩ | (simp only [IslandSt.count, CoreSt.count] <;> first | done | exact ⟨rfl, rfl⟩)

theorem execVneg_kept (h : VH) (vd v1 : BitVec 5) (s : State) (h_s : Kept s0 s) : OutKept s0 (execVneg h vd v1 s) := by
  unfold execVneg
  with_reducible repeat' (first
    | assumption | (intro _) | rw [outKept_next] | apply vec1_kept | dsimp only)
  all_goals first | rfl | exact ⟨rfl, rfl⟩ | (simp only [IslandSt.count, CoreSt.count] <;> first | done | exact ⟨rfl, rfl⟩)

theorem execVcpsgn_kept (h : VH) (vd v1 v2 : BitVec 5) (s : State) (h_s : Kept s0 s) : OutKept s0 (execVcpsgn h vd v1 v2 s) := by
  unfold execVcpsgn
  with_reducible repeat' (first
    | assumption | (intro _) | rw [outKept_next] | apply vec2_kept | dsimp only)
  all_goals first | rfl | exact ⟨rfl, rfl⟩ | (simp only [IslandSt.count, CoreSt.count] <;> first | done | exact ⟨rfl, rfl⟩)

theorem execVfma_kept (h : VH) (vd v1 v2 v3 : BitVec 5) (s : State) (h_s : Kept s0 s) : OutKept s0 (execVfma h vd v1 v2 v3 s) := by
  unfold execVfma
  with_reducible repeat' (first
    | assumption | (intro _) | rw [outKept_next] | apply vec3c_kept | dsimp only)
  all_goals first | rfl | exact ⟨rfl, rfl⟩ | (simp only [IslandSt.count, CoreSt.count] <;> first | done | exact ⟨rfl, rfl⟩)

theorem execVfms_kept (h : VH) (vd v1 v2 v3 : BitVec 5) (s : State) (h_s : Kept s0 s) : OutKept s0 (execVfms h vd v1 v2 v3 s) := by
  unfold execVfms
  with_reducible repeat' (first
    | assumption | (intro _) | rw [outKept_next] | apply vec3c_kept | dsimp only)
  all_goals first | rfl | exact ⟨rfl, rfl⟩ | (simp only [IslandSt.count, CoreSt.count] <;> first | done | exact ⟨rfl, rfl⟩)

theorem execVfnma_kept (h : VH) (vd v1 v2 v3 : BitVec 5) (s : State) (h_s : Kept s0 s) : OutKept s0 (execVfnma h vd v1 v2 v3 s) := by
  unfold execVfnma
  with_reducible repeat' (first
    | assumption | (intro _) | rw [outKept_next] | apply vec3c_kept | dsimp only)
  all_goals first | rfl | exact ⟨rfl, rfl⟩ | (simp only [IslandSt.count, CoreSt.count] <;> first | done | exact ⟨rfl, rfl⟩)

theorem execVdiv_kept (h : VH) (vd v1 v2 : BitVec 5) (s : State) (h_s : Kept s0 s) : OutKept s0 (execVdiv h vd v1 v2 s) := by
  unfold execVdiv
  with_reducible repeat' (first
    | assumption | (intro _) | rw [outKept_next] | apply vec2_kept | dsimp only)
  all_goals first | rfl | exact ⟨rfl, rfl⟩ | (simp only [IslandSt.count, CoreSt.count] <;> first | done | exact ⟨rfl, rfl⟩)

theorem execVsqrt_kept (h : VH) (vd v1 : BitVec 5) (s : State) (h_s : Kept s0 s) : OutKept s0 (execVsqrt h vd v1 s) := by
  unfold execVsqrt
  with_reducible repeat' (first
    | assumption | (intro _) | rw [outKept_next] | apply vec1_kept | dsimp only)
  all_goals first | rfl | exact ⟨rfl, rfl⟩ | (simp only [IslandSt.count, CoreSt.count] <;> first | done | exact ⟨rfl, rfl⟩)

theorem execVrsqrt_kept (h : VH) (vd v1 : BitVec 5) (s : State) (h_s : Kept s0 s) : OutKept s0 (execVrsqrt h vd v1 s) := by
  unfold execVrsqrt
  with_reducible repeat' (first
    | assumption | (intro _) | rw [outKept_next] | apply vec1_kept | dsimp only)
  all_goals first | rfl | exact ⟨rfl, rfl⟩ | (simp only [IslandSt.count, CoreSt.count] <;> first | done | exact ⟨rfl, rfl⟩)

theorem execVrsqp_kept (h : VH) (vd v1 : BitVec 5) (j : BitVec 4) (s : State) (h_s : Kept s0 s) : OutKept s0 (execVrsqp h vd v1 j s) := by
  unfold execVrsqp
  with_reducible repeat' (first
    | assumption | (intro _) | rw [outKept_next] | apply kept_foldl | apply vecRun_kept | apply kept_ite | split | dsimp only)
  all_goals first | rfl | exact ⟨rfl, rfl⟩ | (simp only [IslandSt.count, CoreSt.count] <;> first | done | exact ⟨rfl, rfl⟩)

theorem execVand_kept (h : VH) (vd v1 v2 : BitVec 5) (s : State) (h_s : Kept s0 s) : OutKept s0 (execVand h vd v1 v2 s) := by
  unfold execVand
  with_reducible repeat' (first
    | assumption | (intro _) | rw [outKept_next] | apply vec2_kept | dsimp only)
  all_goals first | rfl | exact ⟨rfl, rfl⟩ | (simp only [IslandSt.count, CoreSt.count] <;> first | done | exact ⟨rfl, rfl⟩)

theorem execVor_kept (h : VH) (vd v1 v2 : BitVec 5) (s : State) (h_s : Kept s0 s) : OutKept s0 (execVor h vd v1 v2 s) := by
  unfold execVor
  with_reducible repeat' (first
    | assumption | (intro _) | rw [outKept_next] | apply vec2_kept | dsimp only)
  all_goals first | rfl | exact ⟨rfl, rfl⟩ | (simp only [IslandSt.count, CoreSt.count] <;> first | done | exact ⟨rfl, rfl⟩)

theorem execVxor_kept (h : VH) (vd v1 v2 : BitVec 5) (s : State) (h_s : Kept s0 s) : OutKept s0 (execVxor h vd v1 v2 s) := by
  unfold execVxor
  with_reducible repeat' (first
    | assumption | (intro _) | rw [outKept_next] | apply vec2_kept | dsimp only)
  all_goals first | rfl | exact ⟨rfl, rfl⟩ | (simp only [IslandSt.count, CoreSt.count] <;> first | done | exact ⟨rfl, rfl⟩)

theorem execVnot_kept (h : VH) (vd v1 : BitVec 5) (s : State) (h_s : Kept s0 s) : OutKept s0 (execVnot h vd v1 s) := by
  unfold execVnot
  with_reducible repeat' (first
    | assumption | (intro _) | rw [outKept_next] | apply vec1_kept | dsimp only)
  all_goals first | rfl | exact ⟨rfl, rfl⟩ | (simp only [IslandSt.count, CoreSt.count] <;> first | done | exact ⟨rfl, rfl⟩)

theorem vshift_kept (f : VH → Nat → Nat → Nat × Byte) (h : VH) (vd v1 v2 : BitVec 5) (s : State) (h_s : Kept s0 s) : OutKept s0 (vshift f h vd v1 v2 s) := by
  unfold vshift
  with_reducible repeat' (first
    | assumption | (intro _) | rw [outKept_next] | apply vec2_kept | dsimp only)
  all_goals first | rfl | exact ⟨rfl, rfl⟩ | (simp only [IslandSt.count, CoreSt.count] <;> first | done | exact ⟨rfl, rfl⟩)

theorem vshiftImm_kept (f : VH → Nat → Nat → Nat × Byte) (h : VH) (vd v1 : BitVec 5) (sh : BitVec 6) (s : State) (h_s : Kept s0 s) : OutKept s0 (vshiftImm f h vd v1 sh s) := by
  unfold vshiftImm
  with_reducible repeat' (first
    | assumption | (intro _) | rw [outKept_next] | apply vec1_kept | dsimp only)
  all_goals first | rfl | exact ⟨rfl, rfl⟩ | (simp only [IslandSt.count, CoreSt.count] <;> first | done | exact ⟨rfl, rfl⟩)

theorem execVshl_kept (h : VH) (vd v1 v2 : BitVec 5) (s : State) (h_s : Kept s0 s) : OutKept s0 (execVshl h vd v1 v2 s) := by
  unfold execVshl
  with_reducible repeat' (first
    | assumption | (intro _) | rw [outKept_next] | apply vshift_kept | dsimp only)
  all_goals first | rfl | exact ⟨rfl, rfl⟩ | (simp only [IslandSt.count, CoreSt.count] <;> first | done | exact ⟨rfl, rfl⟩)

theorem execVshlImm_kept (h : VH) (vd v1 : BitVec 5) (sh : BitVec 6) (s : State) (h_s : Kept s0 s) : OutKept s0 (execVshlImm h vd v1 sh s) := by
  unfold execVshlImm
  with_reducible repeat' (first
    | assumption | (intro _) | rw [outKept_next] | apply vshiftImm_kept | dsimp only)
  all_goals first | rfl | exact ⟨rfl, rfl⟩ | (simp only [IslandSt.count, CoreSt.count] <;> first | done | exact ⟨rfl, rfl⟩)

theorem execVshr_kept (h : VH) (vd v1 v2 : BitVec 5) (s : State) (h_s : Kept s0 s) : OutKept s0 (execVshr h vd v1 v2 s) := by
  unfold execVshr
  with_reducible repeat' (first
    | assumption | (intro _) | rw [outKept_next] | apply vshift_kept | dsimp only)
  all_goals first | rfl | exact ⟨rfl, rfl⟩ | (simp only [IslandSt.count, CoreSt.count] <;> first | done | exact ⟨rfl, rfl⟩)

theorem execVshrImm_kept (h : VH) (vd v1 : BitVec 5) (sh : BitVec 6) (s : State) (h_s : Kept s0 s) : OutKept s0 (execVshrImm h vd v1 sh s) := by
  unfold execVshrImm
  with_reducible repeat' (first
    | assumption | (intro _) | rw [outKept_next] | apply vshiftImm_kept | dsimp only)
  all_goals first | rfl | exact ⟨rfl, rfl⟩ | (simp only [IslandSt.count, CoreSt.count] <;> first | done | exact ⟨rfl, rfl⟩)

theorem execVsar_kept (h : VH) (vd v1 v2 : BitVec 5) (s : State) (h_s : Kept s0 s) : OutKept s0 (execVsar h vd v1 v2 s) := by
  unfold execVsar
  with_reducible repeat' (first
    | assumption | (intro _) | rw [outKept_next] | apply vshift_kept | dsimp only)
  all_goals first | rfl | exact ⟨rfl, rfl⟩ | (simp only [IslandSt.count, CoreSt.count] <;> first | done | exact ⟨rfl, rfl⟩)

theorem execVsarImm_kept (h : VH) (vd v1 : BitVec 5) (sh : BitVec 6) (s : State) (h_s : Kept s0 s) : OutKept s0 (execVsarImm h vd v1 sh s) := by
  unfold execVsarImm
  with_reducible repeat' (first
    | assumption | (intro _) | rw [outKept_next] | apply vshiftImm_kept | dsimp only)
  all_goals first | rfl | exact ⟨rfl, rfl⟩ | (simp only [IslandSt.count, CoreSt.count] <;> first | done | exact ⟨rfl, rfl⟩)

theorem execVrshr_kept (h : VH) (vd v1 v2 : BitVec 5) (s : State) (h_s : Kept s0 s) : OutKept s0 (execVrshr h vd v1 v2 s) := by
  unfold execVrshr
  with_reducible repeat' (first
    | assumption | (intro _) | rw [outKept_next] | apply vshift_kept | dsimp only)
  all_goals first | rfl | exact ⟨rfl, rfl⟩ | (simp only [IslandSt.count, CoreSt.count] <;> first | done | exact ⟨rfl, rfl⟩)

theorem execVrshrImm_kept (h : VH) (vd v1 : BitVec 5) (sh : BitVec 6) (s : State) (h_s : Kept s0 s) : OutKept s0 (execVrshrImm h vd v1 sh s) := by
  unfold execVrshrImm
  with_reducible repeat' (first
    | assumption | (intro _) | rw [outKept_next] | apply vshiftImm_kept | dsimp only)
  all_goals first | rfl | exact ⟨rfl, rfl⟩ | (simp only [IslandSt.count, CoreSt.count] <;> first | done | exact ⟨rfl, rfl⟩)

theorem execVclz_kept (h : VH) (vd v1 : BitVec 5) (s : State) (h_s : Kept s0 s) : OutKept s0 (execVclz h vd v1 s) := by
  unfold execVclz
  with_reducible repeat' (first
    | assumption | (intro _) | rw [outKept_next] | apply vec1_kept | dsimp only)
  all_goals first | rfl | exact ⟨rfl, rfl⟩ | (simp only [IslandSt.count, CoreSt.count] <;> first | done | exact ⟨rfl, rfl⟩)

theorem execVpopc_kept (h : VH) (vd v1 : BitVec 5) (s : State) (h_s : Kept s0 s) : OutKept s0 (execVpopc h vd v1 s) := by
  unfold execVpopc
  with_reducible repeat' (first
    | assumption | (intro _) | rw [outKept_next] | apply vec1_kept | dsimp only)
  all_goals first | rfl | exact ⟨rfl, rfl⟩ | (simp only [IslandSt.count, CoreSt.count] <;> first | done | exact ⟨rfl, rfl⟩)

theorem execVdot4_kept (h : VH) (vd v1 v2 v3 : BitVec 5) (s : State) (h_s : Kept s0 s) : OutKept s0 (execVdot4 h vd v1 v2 v3 s) := by
  unfold execVdot4
  with_reducible repeat' (first
    | assumption | (intro _) | rw [outKept_next] | apply vecRun_kept | dsimp only)
  all_goals first | rfl | exact ⟨rfl, rfl⟩ | (simp only [IslandSt.count, CoreSt.count] <;> first | done | exact ⟨rfl, rfl⟩)

theorem vcompare_kept (h : VH) (v1 v2 : BitVec 5) (j : BitVec 4) (ci : Int → Int → Bool) (cf : FVal → FVal → Bool) (s : State) (h_s : Kept s0 s) : OutKept s0 (vcompare h v1 v2 j ci cf s) := by
  unfold vcompare
  with_reducible repeat' (first
    | assumption | (intro _) | rw [outKept_next] | apply kept_foldl | apply vecRun_kept | apply kept_ite | split | dsimp only)
  all_goals first | rfl | exact ⟨rfl, rfl⟩ | (simp only [IslandSt.count, CoreSt.count] <;> first | done | exact ⟨rfl, rfl⟩)

theorem execVcmpeq_kept (h : VH) (v1 v2 : BitVec 5) (j : BitVec 4) (s : State) (h_s : Kept s0 s) : OutKept s0 (execVcmpeq h v1 v2 j s) := by
  unfold execVcmpeq
  with_reducible repeat' (first
    | assumption | (intro _) | rw [outKept_next] | apply vcompare_kept | dsimp only)
  all_goals first | rfl | exact ⟨rfl, rfl⟩ | (simp only [IslandSt.count, CoreSt.count] <;> first | done | exact ⟨rfl, rfl⟩)

theorem execVcmpne_kept (h : VH) (v1 v2 : BitVec 5) (j : BitVec 4) (s : State) (h_s : Kept s0 s) : OutKept s0 (execVcmpne h v1 v2 j s) := by
  unfold execVcmpne
  with_reducible repeat' (first
    | assumption | (intro _) | rw [outKept_next] | apply vcompare_kept | dsimp only)
  all_goals first | rfl | exact ⟨rfl, rfl⟩ | (simp only [IslandSt.count, CoreSt.count] <;> first | done | exact ⟨rfl, rfl⟩)

theorem execVcmplt_kept (h : VH) (v1 v2 : BitVec 5) (j : BitVec 4) (s : State) (h_s : Kept s0 s) : OutKept s0 (execVcmplt h v1 v2 j s) := by
  unfold execVcmplt
  with_reducible repeat' (first
    | assumption | (intro _) | rw [outKept_next] | apply vcompare_kept | dsimp only)
  all_goals first | rfl | exact ⟨rfl, rfl⟩ | (simp only [IslandSt.count, CoreSt.count] <;> first | done | exact ⟨rfl, rfl⟩)

theorem execVcmple_kept (h : VH) (v1 v2 : BitVec 5) (j : BitVec 4) (s : State) (h_s : Kept s0 s) : OutKept s0 (execVcmple h v1 v2 j s) := by
  unfold execVcmple
  with_reducible repeat' (first
    | assumption | (intro _) | rw [outKept_next] | apply vcompare_kept | dsimp only)
  all_goals first | rfl | exact ⟨rfl, rfl⟩ | (simp only [IslandSt.count, CoreSt.count] <;> first | done | exact ⟨rfl, rfl⟩)

theorem execVsel_kept (h : VH) (vd v1 v2 : BitVec 5) (j : BitVec 4) (s : State) (h_s : Kept s0 s) : OutKept s0 (execVsel h vd v1 v2 j s) := by
  unfold execVsel
  with_reducible repeat' (first
    | assumption | (intro _) | rw [outKept_next] | apply vecRun_kept | apply kept_ite | split | dsimp only)
  all_goals first | rfl | exact ⟨rfl, rfl⟩ | (simp only [IslandSt.count, CoreSt.count] <;> first | done | exact ⟨rfl, rfl⟩)

theorem reduce_kept (h : VH) (vd v1 : BitVec 5) (z : Int) (fi : Int → Int → Int) (idp : Nat) (ff : FVal → FVal → FRes) (round : Bool) (s : State) (h_s : Kept s0 s) : OutKept s0 (reduce h vd v1 z fi idp ff round s) := by
  unfold reduce
  with_reducible repeat' (first
    | assumption | (intro _) | rw [outKept_next] | apply vecRun_kept | apply kept_ite | split | dsimp only)
  all_goals first | rfl | exact ⟨rfl, rfl⟩ | (simp only [IslandSt.count, CoreSt.count] <;> first | done | exact ⟨rfl, rfl⟩)

theorem execVredsum_kept (h : VH) (vd v1 : BitVec 5) (s : State) (h_s : Kept s0 s) : OutKept s0 (execVredsum h vd v1 s) := by
  unfold execVredsum
  with_reducible repeat' (first
    | assumption | (intro _) | rw [outKept_next] | apply reduce_kept | dsimp only)
  all_goals first | rfl | exact ⟨rfl, rfl⟩ | (simp only [IslandSt.count, CoreSt.count] <;> first | done | exact ⟨rfl, rfl⟩)

theorem execVredmax_kept (h : VH) (vd v1 : BitVec 5) (s : State) (h_s : Kept s0 s) : OutKept s0 (execVredmax h vd v1 s) := by
  unfold execVredmax
  with_reducible repeat' (first
    | assumption | (intro _) | rw [outKept_next] | apply reduce_kept | dsimp only)
  all_goals first | rfl | exact ⟨rfl, rfl⟩ | (simp only [IslandSt.count, CoreSt.count] <;> first | done | exact ⟨rfl, rfl⟩)

theorem execVredmin_kept (h : VH) (vd v1 : BitVec 5) (s : State) (h_s : Kept s0 s) : OutKept s0 (execVredmin h vd v1 s) := by
  unfold execVredmin
  with_reducible repeat' (first
    | assumption | (intro _) | rw [outKept_next] | apply reduce_kept | dsimp only)
  all_goals first | rfl | exact ⟨rfl, rfl⟩ | (simp only [IslandSt.count, CoreSt.count] <;> first | done | exact ⟨rfl, rfl⟩)

/-! VectorMove. -/

theorem execVmovi_kept (h : VH) (vd : BitVec 5) (imm : BitVec 24) (s : State) (h_s : Kept s0 s) : OutKept s0 (execVmovi h vd imm s) := by
  unfold execVmovi
  with_reducible repeat' (first
    | assumption | (intro _) | rw [outKept_next] | apply vecRun_kept | dsimp only)
  all_goals first | rfl | exact ⟨rfl, rfl⟩ | (simp only [IslandSt.count, CoreSt.count] <;> first | done | exact ⟨rfl, rfl⟩)

theorem execVxmov_kept (h : VH) (vd v1 : BitVec 5) (s : State) (h_s : Kept s0 s) : OutKept s0 (execVxmov h vd v1 s) := by
  unfold execVxmov
  with_reducible repeat' (first
    | assumption | (intro _) | rw [outKept_next] | apply vecRun_kept | dsimp only)
  all_goals first | rfl | exact ⟨rfl, rfl⟩ | (simp only [IslandSt.count, CoreSt.count] <;> first | done | exact ⟨rfl, rfl⟩)

theorem execVmov_kept (h : VH) (vd v1 : BitVec 5) (s : State) (h_s : Kept s0 s) : OutKept s0 (execVmov h vd v1 s) := by
  unfold execVmov
  with_reducible repeat' (first
    | assumption | (intro _) | rw [outKept_next] | apply vec1_kept | dsimp only)
  all_goals first | rfl | exact ⟨rfl, rfl⟩ | (simp only [IslandSt.count, CoreSt.count] <;> first | done | exact ⟨rfl, rfl⟩)

theorem execVbcastElem_kept (h : VH) (vd v1 : BitVec 5) (el : BitVec 12) (s : State) (h_s : Kept s0 s) : OutKept s0 (execVbcastElem h vd v1 el s) := by
  unfold execVbcastElem
  with_reducible repeat' (first
    | assumption | (intro _) | rw [outKept_next] | apply vecRun_kept | dsimp only)
  all_goals first | rfl | exact ⟨rfl, rfl⟩ | (simp only [IslandSt.count, CoreSt.count] <;> first | done | exact ⟨rfl, rfl⟩)

theorem execVbcastScalar_kept (h : VH) (vd : BitVec 5) (sk : BitVec 6) (s : State) (h_s : Kept s0 s) : OutKept s0 (execVbcastScalar h vd sk s) := by
  unfold execVbcastScalar
  with_reducible repeat' (first
    | assumption | (intro _) | rw [outKept_next] | apply vecRun_kept | dsimp only)
  all_goals first | rfl | exact ⟨rfl, rfl⟩ | (simp only [IslandSt.count, CoreSt.count] <;> first | done | exact ⟨rfl, rfl⟩)

theorem permute_kept (h : VH) (vd v1 v2 : BitVec 5) (f : VWord → VWord → Nat → Nat) (s : State) (h_s : Kept s0 s) : OutKept s0 (permute h vd v1 v2 f s) := by
  unfold permute
  with_reducible repeat' (first
    | assumption | (intro _) | rw [outKept_next] | apply vecRun_kept | dsimp only)
  all_goals first | rfl | exact ⟨rfl, rfl⟩ | (simp only [IslandSt.count, CoreSt.count] <;> first | done | exact ⟨rfl, rfl⟩)

theorem execVperm_kept (h : VH) (vd v1 v2 : BitVec 5) (s : State) (h_s : Kept s0 s) : OutKept s0 (execVperm h vd v1 v2 s) := by
  unfold execVperm
  with_reducible repeat' (first
    | assumption | (intro _) | rw [outKept_next] | apply permute_kept | dsimp only)
  all_goals first | rfl | exact ⟨rfl, rfl⟩ | (simp only [IslandSt.count, CoreSt.count] <;> first | done | exact ⟨rfl, rfl⟩)

theorem execVslide_kept (h : VH) (vd v1 v2 : BitVec 5) (k9 : BitVec 9) (s : State) (h_s : Kept s0 s) : OutKept s0 (execVslide h vd v1 v2 k9 s) := by
  unfold execVslide
  with_reducible repeat' (first
    | assumption | (intro _) | rw [outKept_next] | apply permute_kept | dsimp only)
  all_goals first | rfl | exact ⟨rfl, rfl⟩ | (simp only [IslandSt.count, CoreSt.count] <;> first | done | exact ⟨rfl, rfl⟩)

theorem execVzip_kept (h : VH) (vd v1 v2 : BitVec 5) (hb : Bool) (s : State) (h_s : Kept s0 s) : OutKept s0 (execVzip h vd v1 v2 hb s) := by
  unfold execVzip
  with_reducible repeat' (first
    | assumption | (intro _) | rw [outKept_next] | apply permute_kept | apply kept_ite | split | dsimp only)
  all_goals first | rfl | exact ⟨rfl, rfl⟩ | (simp only [IslandSt.count, CoreSt.count] <;> first | done | exact ⟨rfl, rfl⟩)

theorem execVunzip_kept (h : VH) (vd v1 v2 : BitVec 5) (hb : Bool) (s : State) (h_s : Kept s0 s) : OutKept s0 (execVunzip h vd v1 v2 hb s) := by
  unfold execVunzip
  with_reducible repeat' (first
    | assumption | (intro _) | rw [outKept_next] | apply permute_kept | dsimp only)
  all_goals first | rfl | exact ⟨rfl, rfl⟩ | (simp only [IslandSt.count, CoreSt.count] <;> first | done | exact ⟨rfl, rfl⟩)

theorem execVpack_kept (h : VH) (vd v1 v2 : BitVec 5) (sg : Bool) (s : State) (h_s : Kept s0 s) : OutKept s0 (execVpack h vd v1 v2 sg s) := by
  unfold execVpack
  with_reducible repeat' (first
    | assumption | (intro _) | rw [outKept_next] | apply vecRun_kept | apply kept_ite | split | dsimp only)
  all_goals first | rfl | exact ⟨rfl, rfl⟩ | (simp only [IslandSt.count, CoreSt.count] <;> first | done | exact ⟨rfl, rfl⟩)

theorem execVunpk_kept (h : VH) (vd v1 : BitVec 5) (hb : Bool) (s : State) (h_s : Kept s0 s) : OutKept s0 (execVunpk h vd v1 hb s) := by
  unfold execVunpk
  with_reducible repeat' (first
    | assumption | (intro _) | rw [outKept_next] | apply vecRun_kept | apply kept_ite | split | dsimp only)
  all_goals first | rfl | exact ⟨rfl, rfl⟩ | (simp only [IslandSt.count, CoreSt.count] <;> first | done | exact ⟨rfl, rfl⟩)

theorem execVcvt_kept (h : VH) (vd v1 : BitVec 5) (fm : ElemTy) (hh : BitVec 2) (s : State) (h_s : Kept s0 s) : OutKept s0 (execVcvt h vd v1 fm hh s) := by
  unfold execVcvt
  with_reducible repeat' (first
    | assumption | (intro _) | rw [outKept_next] | apply vecRun_kept | apply kept_ite | split | dsimp only)
  all_goals first | rfl | exact ⟨rfl, rfl⟩ | (simp only [IslandSt.count, CoreSt.count] <;> first | done | exact ⟨rfl, rfl⟩)

theorem execVquant_kept (h : VH) (vd v1 v2 : BitVec 5) (fm : ElemTy) (bb bt : BitVec 2) (e0 : BitVec 6) (s : State) (h_s : Kept s0 s) : OutKept s0 (execVquant h vd v1 v2 fm bb bt e0 s) := by
  unfold execVquant
  with_reducible repeat' (first
    | assumption | (intro _) | rw [outKept_next] | apply vecRun_kept | apply kept_ite | split | dsimp only)
  all_goals first | rfl | exact ⟨rfl, rfl⟩ | (simp only [IslandSt.count, CoreSt.count] <;> first | done | exact ⟨rfl, rfl⟩)

theorem execVdequant_kept (h : VH) (vd v1 : BitVec 5) (bb : BitVec 2) (hb : Bool) (s : State) (h_s : Kept s0 s) : OutKept s0 (execVdequant h vd v1 bb hb s) := by
  unfold execVdequant
  with_reducible repeat' (first
    | assumption | (intro _) | rw [outKept_next] | apply vecRun_kept | split | dsimp only)
  all_goals first | rfl | exact ⟨rfl, rfl⟩ | (simp only [IslandSt.count, CoreSt.count] <;> first | done | exact ⟨rfl, rfl⟩)

/-! VectorMem. -/

theorem vecRead_kept (h : VH) (keys : List Nat) (s : State) (h_s : Kept s0 s) : Kept s0 (vecRead h keys s) := by
  unfold vecRead; split <;> first | assumption | exact padRead_kept _ _ _ _ _ _ h_s

theorem notePads_kept (s : State) (keys : List Nat) (h_s : Kept s0 s) : Kept s0 (notePads s keys) := by
  unfold notePads
  with_reducible repeat' (first
    | assumption | (intro _) | apply reachKeys_kept | apply kept_ite | split | dsimp only
    | (rw [kept_mk]; apply kept_wf; first | assumption | apply reachKeys_kept | apply kept_ite))
  all_goals first | rfl | exact ⟨rfl, rfl⟩ | (simp only [IslandSt.count, CoreSt.count] <;> first | done | exact ⟨rfl, rfl⟩)

theorem vecLoad_kept (h : VH) (lat : Nat) (vd : BitVec 5) (srcs : List (BitVec 5)) (b : Nat) (at_ : Nat → Nat) (s : State) (h_s : Kept s0 s) : OutKept s0 (vecLoad h lat vd srcs b at_ s) := by
  unfold vecLoad
  with_reducible repeat' (first
    | assumption | (intro _) | exact outKept_fault _ | rw [outKept_next] | apply takeTrap_kept | apply vecRun_kept
    | apply vecRead_kept | apply notePads_kept | split | dsimp only
    | (rw [kept_mk]; apply kept_wf; first | assumption | apply takeTrap_kept | apply vecRun_kept | apply vecRead_kept | apply notePads_kept))
  all_goals first | rfl | exact ⟨rfl, rfl⟩ | (simp only [IslandSt.count, CoreSt.count] <;> first | done | exact ⟨rfl, rfl⟩)

theorem vecStore_kept (h : VH) (vd : BitVec 5) (srcs : List (BitVec 5)) (b : Nat) (at_ : Nat → Nat) (s : State) (h_s : Kept s0 s) : OutKept s0 (vecStore h vd srcs b at_ s) := by
  unfold vecStore
  with_reducible repeat' (first
    | assumption | (intro _) | exact outKept_fault _ | rw [outKept_next] | apply takeTrap_kept | apply consume_kept
    | apply vecBegin_kept | apply withhold_kept | apply kept_ite | split | dsimp only
    | (rw [kept_mk]; apply kept_wf; first | assumption | apply takeTrap_kept | apply consume_kept | apply vecBegin_kept | apply withhold_kept | apply kept_ite))
  all_goals first | rfl | exact ⟨rfl, rfl⟩ | (simp only [IslandSt.count, CoreSt.count] <;> first | done | exact ⟨rfl, rfl⟩)

theorem execVld_kept (h : VH) (vd : BitVec 5) (off : BitVec 18) (sk : BitVec 6) (s : State) (h_s : Kept s0 s) : OutKept s0 (execVld h vd off sk s) := by
  unfold execVld
  with_reducible repeat' (first
    | assumption | (intro _) | rw [outKept_next] | apply vecLoad_kept | dsimp only)
  all_goals first | rfl | exact ⟨rfl, rfl⟩ | (simp only [IslandSt.count, CoreSt.count] <;> first | done | exact ⟨rfl, rfl⟩)

theorem execVst_kept (h : VH) (vd : BitVec 5) (off : BitVec 18) (sk : BitVec 6) (s : State) (h_s : Kept s0 s) : OutKept s0 (execVst h vd off sk s) := by
  unfold execVst
  with_reducible repeat' (first
    | assumption | (intro _) | rw [outKept_next] | apply vecStore_kept | dsimp only)
  all_goals first | rfl | exact ⟨rfl, rfl⟩ | (simp only [IslandSt.count, CoreSt.count] <;> first | done | exact ⟨rfl, rfl⟩)

theorem execVlds_kept (h : VH) (vd : BitVec 5) (off : BitVec 12) (sk st : BitVec 6) (s : State) (h_s : Kept s0 s) : OutKept s0 (execVlds h vd off sk st s) := by
  unfold execVlds
  with_reducible repeat' (first
    | assumption | (intro _) | rw [outKept_next] | apply vecLoad_kept | dsimp only)
  all_goals first | rfl | exact ⟨rfl, rfl⟩ | (simp only [IslandSt.count, CoreSt.count] <;> first | done | exact ⟨rfl, rfl⟩)

theorem execVsts_kept (h : VH) (vd : BitVec 5) (off : BitVec 12) (sk st : BitVec 6) (s : State) (h_s : Kept s0 s) : OutKept s0 (execVsts h vd off sk st s) := by
  unfold execVsts
  with_reducible repeat' (first
    | assumption | (intro _) | rw [outKept_next] | apply vecStore_kept | dsimp only)
  all_goals first | rfl | exact ⟨rfl, rfl⟩ | (simp only [IslandSt.count, CoreSt.count] <;> first | done | exact ⟨rfl, rfl⟩)

theorem execVldx_kept (h : VH) (vd v2 : BitVec 5) (off : BitVec 18) (sk : BitVec 6) (s : State) (h_s : Kept s0 s) : OutKept s0 (execVldx h vd v2 off sk s) := by
  unfold execVldx
  with_reducible repeat' (first
    | assumption | (intro _) | rw [outKept_next] | apply vecLoad_kept | dsimp only)
  all_goals first | rfl | exact ⟨rfl, rfl⟩ | (simp only [IslandSt.count, CoreSt.count] <;> first | done | exact ⟨rfl, rfl⟩)

theorem execVstx_kept (h : VH) (vd v2 : BitVec 5) (off : BitVec 18) (sk : BitVec 6) (s : State) (h_s : Kept s0 s) : OutKept s0 (execVstx h vd v2 off sk s) := by
  unfold execVstx
  with_reducible repeat' (first
    | assumption | (intro _) | rw [outKept_next] | apply vecStore_kept | dsimp only)
  all_goals first | rfl | exact ⟨rfl, rfl⟩ | (simp only [IslandSt.count, CoreSt.count] <;> first | done | exact ⟨rfl, rfl⟩)

theorem execVldb_kept (h : VH) (vd : BitVec 5) (off : BitVec 18) (sk : BitVec 6) (s : State) (h_s : Kept s0 s) : OutKept s0 (execVldb h vd off sk s) := by
  unfold execVldb
  with_reducible repeat' (first
    | assumption | (intro _) | rw [outKept_next] | apply vecLoad_kept | dsimp only)
  all_goals first | rfl | exact ⟨rfl, rfl⟩ | (simp only [IslandSt.count, CoreSt.count] <;> first | done | exact ⟨rfl, rfl⟩)

/-! Issue. -/

theorem nextCycle_kept (c : CoreId) (s : State) (h_s : Kept s0 s) : Kept s0 (nextCycle c s) := by
  unfold nextCycle
  with_reducible repeat' (first
    | assumption | (intro _) | apply modC_kept | apply at_kept | dsimp only
    | (rw [kept_mk]; apply kept_wf; first | assumption | apply modC_kept | apply at_kept))
  all_goals first | rfl | exact ⟨rfl, rfl⟩ | (simp only [IslandSt.count, CoreSt.count] <;> first | done | exact ⟨rfl, rfl⟩)

end Sys2Proof.Machine
end

