-- ==== Sys2Proof/Laws/KeepsOps.lean ====
section
/-! SUPPORT. The canonical form of storage is kept by the operations of the agenda, of traps, of translation and of the memory path: one lemma for each. -/

set_option linter.unusedTactic false
set_option linter.unreachableTactic false

namespace Sys2Proof.Machine

/-- The storage of the state that an outcome answers is canonical. -/
def OutOk (o : Out) : Prop := match o with | .next t => t.MemOk | _ => True

theorem outOk_next (t : State) : OutOk (.next t) = t.MemOk := rfl
theorem outOk_fault (x : Fault) : OutOk (.fault x) := trivial
theorem outOk_refused (x : Refusal) : OutOk (.refused x) := trivial

theorem memOk_mk (a : Nat) (b : List Entry) (c : Nat) (d : CoreId) (e : Bundle) (f : Arg) (m : List Host.Cell) (g : Vector CoreSt 132)
    (h : Vector IslandSt 4) (i : DevSt) : State.MemOk ⟨a, b, c, d, e, f, m, g, h, i⟩ = (Memory.wf m = true) := rfl
theorem modC_memOk {s : State} {c : CoreId} {f : CoreSt → CoreSt} (h : s.MemOk) : (s.modC c f).MemOk := h
theorem modI_memOk {s : State} {c : Isl} {f : IslandSt → IslandSt} (h : s.MemOk) : (s.modI c f).MemOk := h
theorem modD_memOk {s : State} {f : DevSt → DevSt} (h : s.MemOk) : (s.modD f).MemOk := h
theorem modMe_memOk {s : State} {f : CoreSt → CoreSt} (h : s.MemOk) : (s.modMe f).MemOk := h
theorem at_memOk {s : State} {t : Nat} {d : Due} (h : s.MemOk) : (s.at t d).MemOk := h
theorem after_memOk {s : State} {t : Nat} {d : Due} (h : s.MemOk) : (s.after t d).MemOk := h
theorem now_memOk {s : State} {i : Instr} {a : Arg} (h : s.MemOk) : (s.now i a).MemOk := h
theorem pick_memOk {s : State} (h : s.MemOk) : s.pick.2.MemOk := h
theorem pickW_memOk {s : State} (h : s.MemOk) : s.pickW.2.MemOk := h
theorem pick_pair_memOk {s t : State} {n : Nat} (h : s.pick = (n, t)) (hs : s.MemOk) : t.MemOk := by
  simp only [State.pick, Prod.mk.injEq] at h; rw [← h.2]; exact hs
theorem pickW_pair_memOk {s t : State} {n : W64} (h : s.pickW = (n, t)) (hs : s.MemOk) : t.MemOk := by
  simp only [State.pickW, Prod.mk.injEq] at h; rw [← h.2]; exact hs
theorem memOk_wf {s : State} (h : s.MemOk) : Memory.wf s.mem = true := h

theorem memOk_ite {c : Prop} [Decidable c] {a b : State} (ha : a.MemOk) (hb : b.MemOk) : (if c then a else b).MemOk := by
  split <;> assumption
theorem memOk_withMem {s : State} {m : List Host.Cell} (h : Memory.wf m = true) : State.MemOk { s with mem := m } := h

theorem memOk_foldl {α : Type} (f : State → α → State) (l : List α) (s : State) (h : s.MemOk)
    (hf : ∀ (x : State) (a : α), x.MemOk → (f x a).MemOk) : (l.foldl f s).MemOk := by
  induction l generalizing s with
  | nil => exact h
  | cons a l ih => exact ih _ (hf _ _ h)

theorem memOk_elim {α : Type} (o : Option α) (f : α → State) (s : State) (h : s.MemOk) (hf : ∀ x, (f x).MemOk) :
    State.MemOk (o.elim s f) := by
  cases o with
  | none => exact h
  | some a => exact hf a

theorem memOk_foldr {α : Type} (f : α → State → State) (l : List α) (s : State) (h : s.MemOk)
    (hf : ∀ (a : α) (x : State), x.MemOk → (f a x).MemOk) : (l.foldr f s).MemOk := by
  induction l with
  | nil => exact h
  | cons a l ih => exact hf _ _ ih

theorem wf_foldl {α : Type} (f : List Host.Cell → α → List Host.Cell) (l : List α) (m : List Host.Cell) (h : Memory.wf m = true)
    (hf : ∀ (x : List Host.Cell) (a : α), Memory.wf x = true → Memory.wf (f x a) = true) : Memory.wf (l.foldl f m) = true := by
  induction l generalizing m with
  | nil => exact h
  | cons a l ih => exact ih _ (hf _ _ h)

/-! Ops. -/

theorem deliver_memOk (n : Nat) (e : Eff) (s : State) (h_s : s.MemOk) : (deliver n e s).MemOk := by
  unfold deliver
  with_reducible repeat' (first
    | assumption | (intro _) | apply modMe_memOk | dsimp only)

theorem State.modL_memOk (s : State) (n : Nat) (f : Launch → Launch) (h_s : s.MemOk) : (State.modL s n f).MemOk := by
  unfold State.modL
  with_reducible repeat' (first
    | assumption | (intro _) | apply modD_memOk | split | dsimp only
    | (rw [memOk_mk]; apply memOk_wf; first | assumption | apply modD_memOk))

theorem undoPops_memOk (c : CoreId) (s : State) (h_s : s.MemOk) : (undoPops c s).MemOk := by
  unfold undoPops
  with_reducible repeat' (first
    | assumption | (intro _) | apply State.modL_memOk | split | dsimp only
    | (rw [memOk_mk]; apply memOk_wf; first | assumption | apply State.modL_memOk))

theorem rollback_memOk (c : CoreId) (s : State) (h_s : s.MemOk) : (rollback c s).MemOk := by
  unfold rollback
  with_reducible repeat' (first
    | assumption | (intro _) | apply modC_memOk | apply after_memOk | apply undoPops_memOk | apply memOk_ite | split
    | dsimp only
    | (rw [memOk_mk]; apply memOk_wf; first | assumption | apply modC_memOk | apply after_memOk | apply undoPops_memOk | apply memOk_ite))

theorem sendRec_memOk (y : Isl) (r : Rec) (s : State) (h_s : s.MemOk) : (sendRec y r s).MemOk := by
  unfold sendRec
  with_reducible repeat' (first
    | assumption | (intro _) | apply modI_memOk | apply now_memOk | dsimp only
    | (rw [memOk_mk]; apply memOk_wf; first | assumption | apply modI_memOk | apply now_memOk))

theorem eventRec_memOk (c : CoreId) (cause : Byte) (badr fadr dtl : W64) (s : State) (h_s : s.MemOk) : (eventRec c cause badr fadr dtl s).MemOk := by
  unfold eventRec
  with_reducible repeat' (first
    | assumption | (intro _) | apply sendRec_memOk | dsimp only)

theorem takeTrap_memOk (cause : Byte) (fadr dtl : W64) (s : State) (h_s : s.MemOk) : (takeTrap cause fadr dtl s).MemOk := by
  unfold takeTrap
  with_reducible repeat' (first
    | assumption | (intro _) | apply modMe_memOk | apply rollback_memOk | dsimp only
    | (rw [memOk_mk]; apply memOk_wf; first | assumption | apply modMe_memOk | apply rollback_memOk))

theorem illegal_memOk (op : Nat) (s : State) (h_s : s.MemOk) : (illegal op s).MemOk := by
  unfold illegal
  with_reducible repeat' (first
    | assumption | (intro _) | apply takeTrap_memOk | dsimp only)

theorem startEdges_memOk (c : CoreId) (s : State) (h_s : s.MemOk) : (startEdges c s).MemOk := by
  unfold startEdges
  with_reducible repeat' (first
    | assumption | (intro _) | apply at_memOk | apply memOk_ite | split | dsimp only)

theorem resume_memOk (c : CoreId) (s : State) (h_s : s.MemOk) : (resume c s).MemOk := by
  unfold resume
  with_reducible repeat' (first
    | assumption | (intro _) | apply modC_memOk | apply startEdges_memOk | dsimp only
    | (rw [memOk_mk]; apply memOk_wf; first | assumption | apply modC_memOk | apply startEdges_memOk))

theorem markPieces_memOk (ps : List Nat) (unit : Nat) (s : State) (h_s : s.MemOk) : (markPieces ps unit s).MemOk := by
  unfold markPieces
  with_reducible repeat' (first
    | assumption | (intro _) | apply modD_memOk | apply memOk_foldl | dsimp only
    | (rw [memOk_mk]; apply memOk_wf; first | assumption | apply modD_memOk | apply memOk_foldl))

theorem markCells_memOk (cells : List Host.Cell) (bad : Option Nat) (s : State) (h_s : s.MemOk) : (markCells cells bad s).MemOk := by
  unfold markCells
  with_reducible repeat' (first
    | assumption | (intro _) | apply modD_memOk | apply markPieces_memOk | apply memOk_ite | split | dsimp only
    | (rw [memOk_mk]; apply memOk_wf; first | assumption | apply modD_memOk | apply markPieces_memOk | apply memOk_ite))

theorem markWritten_memOk (cells : List (Host.Cell × Option Nat)) (s : State) (h_s : s.MemOk) : (markWritten cells s).MemOk := by
  unfold markWritten
  with_reducible repeat' (first
    | assumption | (intro _) | apply memOk_foldl | apply markCells_memOk | dsimp only
    | (rw [memOk_mk]; apply memOk_wf; first | assumption | apply memOk_foldl | apply markCells_memOk))

theorem elogPut_memOk (r : BitVec 256) (s : State) (h_s : s.MemOk) : (elogPut r s).MemOk := by
  unfold elogPut
  with_reducible repeat' (first
    | assumption | (intro _) | apply modD_memOk | dsimp only
    | (rw [memOk_mk]; apply memOk_wf; first | assumption | apply modD_memOk))

theorem noteError_memOk (y : Isl) (key n : Nat) (s : State) (h_s : s.MemOk) : (noteError y key n s).MemOk := by
  unfold noteError
  with_reducible repeat' (first
    | assumption | (intro _) | apply modI_memOk | apply modD_memOk | apply memOk_foldl | apply elogPut_memOk
    | apply markPieces_memOk | apply modD_memOk | dsimp only
    | (rw [memOk_mk]; apply memOk_wf; first | assumption | apply modI_memOk | apply modD_memOk | apply memOk_foldl | apply elogPut_memOk | apply markPieces_memOk | apply modD_memOk))

theorem reach_memOk (y : Isl) (key n : Nat) (s : State) (h_s : s.MemOk) : (reach y key n s).MemOk := by
  unfold reach
  with_reducible repeat' (first
    | assumption | (intro _) | apply noteError_memOk | apply markPieces_memOk | apply memOk_ite | split | dsimp only
    | (rw [memOk_mk]; apply memOk_wf; first | assumption | apply noteError_memOk | apply markPieces_memOk | apply memOk_ite))

theorem reachKeys_memOk (y : Isl) (keys : List Nat) (s : State) (h_s : s.MemOk) : (reachKeys y keys s).MemOk := by
  unfold reachKeys
  with_reducible repeat' (first
    | assumption | (intro _) | apply memOk_foldl | apply reach_memOk | dsimp only
    | (rw [memOk_mk]; apply memOk_wf; first | assumption | apply memOk_foldl | apply reach_memOk))

theorem carryPoison_memOk (y : Isl) (from_ to_ n : Nat) (s : State) (h_s : s.MemOk) : (carryPoison y from_ to_ n s).MemOk := by
  unfold carryPoison
  with_reducible repeat' (first
    | assumption | (intro _) | apply markCells_memOk | apply noteError_memOk | dsimp only
    | (rw [memOk_mk]; apply memOk_wf; first | assumption | apply markCells_memOk | apply noteError_memOk))

theorem cleanRange_memOk (lo hi : Nat) (s : State) (h_s : s.MemOk) : (cleanRange lo hi s).MemOk := by
  unfold cleanRange
  with_reducible repeat' (first
    | assumption | (intro _) | apply modD_memOk | dsimp only
    | (rw [memOk_mk]; apply memOk_wf; first | assumption | apply modD_memOk))

theorem consume_memOk (reg : Bool) (fadr : W64) (unit : Nat) (key : Option Nat) (s : State) (h_s : s.MemOk) : (consume reg fadr unit key s).MemOk := by
  unfold consume
  with_reducible repeat' (first
    | assumption | (intro _) | apply memOk_ite | split | dsimp only
    | (rw [memOk_mk]; apply memOk_wf; first | assumption | apply memOk_ite))

theorem engineConsumes_memOk (c : CoreId) (reg : Bool) (fadr badr : W64) (unit : Nat) (s : State) (h_s : s.MemOk) : (engineConsumes c reg fadr badr unit s).MemOk := by
  unfold engineConsumes
  with_reducible repeat' (first
    | assumption | (intro _) | apply now_memOk | dsimp only
    | (rw [memOk_mk]; apply memOk_wf; first | assumption | apply now_memOk))

theorem chargeCtx_memOk (cx : BitVec 7) (s : State) (h_s : s.MemOk) : (chargeCtx cx s).MemOk := by
  unfold chargeCtx
  with_reducible repeat' (first
    | assumption | (intro _) | apply modD_memOk | apply pick_memOk | split | refine pick_pair_memOk (by assumption) ?_
    | dsimp only
    | (rw [memOk_mk]; apply memOk_wf; first | assumption | apply modD_memOk | apply pick_memOk | refine pick_pair_memOk (by assumption) ?_))

/-! Operands. -/

theorem guarded_memOk (g : Guard) (s : State) (f : State → State) (h_s : s.MemOk) (h_f : ∀ x : State, x.MemOk → (f x).MemOk) : OutOk (guarded g s f) := by
  unfold guarded
  with_reducible repeat' (first
    | assumption | (intro _) | rw [outOk_next] | apply h_f | apply memOk_ite | split | dsimp only)

theorem guardedIf_memOk (ok : Bool) (op : Nat) (g : Guard) (s : State) (f : State → State) (h_s : s.MemOk) (h_f : ∀ x : State, x.MemOk → (f x).MemOk) : OutOk (guardedIf ok op g s f) := by
  unfold guardedIf
  with_reducible repeat' (first
    | assumption | (intro _) | rw [outOk_next] | apply guarded_memOk | apply illegal_memOk | apply h_f | apply memOk_ite
    | split | dsimp only)

theorem toS_memOk (n : Nat) (d : BitVec 6) (v : W64) (s : State) (h_s : s.MemOk) : (toS n d v s).MemOk := by
  unfold toS
  with_reducible repeat' (first
    | assumption | (intro _) | apply deliver_memOk | dsimp only)

theorem toP_memOk (n : Nat) (d : BitVec 4) (v : W64) (s : State) (h_s : s.MemOk) : (toP n d v s).MemOk := by
  unfold toP
  with_reducible repeat' (first
    | assumption | (intro _) | apply deliver_memOk | dsimp only)

/-! Flags. -/

theorem toSFlags_memOk (n : Nat) (d : BitVec 6) (v : W64) (f : Byte) (s : State) (h_s : s.MemOk) : (toSFlags n d v f s).MemOk := by
  unfold toSFlags
  with_reducible repeat' (first
    | assumption | (intro _) | apply deliver_memOk | apply toS_memOk | dsimp only)

/-! Xlate. -/

theorem cohWr_memOk (s : State) (pa n v : Nat) (h_s : s.MemOk) : (cohWr s pa n v).MemOk := by
  unfold cohWr
  with_reducible repeat' (first
    | assumption | (intro _) | apply modI_memOk | apply memOk_foldl | apply wf_memWrs | apply wf_foldl | apply memOk_ite
    | exact memOk_wf ‹_› | split | dsimp only | (rw [memOk_mk]; first | apply wf_memWrs | apply wf_foldl)
    | (rw [memOk_mk]; apply memOk_wf; first | assumption | apply modI_memOk | apply memOk_foldl | apply memOk_ite)
    | (apply memOk_wf; first | assumption | apply modI_memOk | apply memOk_foldl | apply memOk_ite))

theorem retag_memOk (k : SlotKey) (line : Nat) (s : State) (h_s : s.MemOk) : (retag k line s).MemOk := by
  unfold retag
  with_reducible repeat' (first
    | assumption | (intro _) | apply modI_memOk | apply memOk_foldl | apply memOk_ite | split | dsimp only
    | (rw [memOk_mk]; apply memOk_wf; first | assumption | apply modI_memOk | apply memOk_foldl | apply memOk_ite))

theorem claimLine_memOk (k : Option SlotKey) (line : Nat) (s : State) (h_s : s.MemOk) : (claimLine k line s).MemOk := by
  unfold claimLine
  with_reducible repeat' (first
    | assumption | (intro _) | apply modD_memOk | apply cohWr_memOk | apply retag_memOk | apply modD_memOk | apply memOk_ite
    | split | dsimp only
    | (rw [memOk_mk]; apply memOk_wf; first | assumption | apply modD_memOk | apply cohWr_memOk | apply retag_memOk | apply modD_memOk | apply memOk_ite))

theorem lineWr_memOk (k : Option SlotKey) (pa n v : Nat) (s : State) (h_s : s.MemOk) : (lineWr k pa n v s).MemOk := by
  unfold lineWr
  with_reducible repeat' (first
    | assumption | (intro _) | apply cohWr_memOk | apply claimLine_memOk | dsimp only)

theorem keyWr_memOk (s : State) (k : Option SlotKey) (pa n v : Nat) (h_s : s.MemOk) : (keyWr s k pa n v).MemOk := by
  unfold keyWr
  with_reducible repeat' (first
    | assumption | (intro _) | apply lineWr_memOk | apply memOk_ite | split | dsimp only)

theorem keepXlat_memOk (c : CoreId) (r : XRes) (s : State) (h_s : s.MemOk) : (keepXlat c r s).MemOk := by
  unfold keepXlat
  with_reducible repeat' (first
    | assumption | (intro _) | apply modC_memOk | apply modI_memOk | apply pick_memOk | apply memOk_foldl | apply memOk_ite
    | split | refine pick_pair_memOk (by assumption) ?_ | dsimp only
    | (rw [memOk_mk]; apply memOk_wf; first | assumption | apply modC_memOk | apply modI_memOk | apply pick_memOk | apply memOk_foldl | apply memOk_ite | refine pick_pair_memOk (by assumption) ?_))

theorem setDirty_memOk (c : CoreId) (va : Nat) (s : State) (h_s : s.MemOk) : (setDirty c va s).MemOk := by
  unfold setDirty
  with_reducible repeat' (first
    | assumption | (intro _) | apply cohWr_memOk | apply memOk_ite | split | dsimp only)

theorem needLine_memOk {c : CoreId} {va : Nat} {s t : State} (h : needLine c va s = .ok t) (h_s : s.MemOk) : t.MemOk := by
  unfold needLine at h
  split at h
  · cases h; exact h_s
  · split at h
    · cases h
    · split at h
      · cases h
        exact modC_memOk (keepXlat_memOk _ _ _ (memOk_ite (reach_memOk _ _ _ _ h_s) h_s))
      · cases h
      · split at h <;> cases h
      · cases h

theorem useLine_memOk {c : CoreId} {va : Nat} {s t : State} (h : useLine c va s = .ok t) (h_s : s.MemOk) : t.MemOk := by
  unfold useLine at h
  split at h
  · cases h
  · rename_i h1
    split at h <;> cases h
    exact needLine_memOk h1 h_s

theorem fetchAhead_memOk (c : CoreId) (nxt : Nat) (s : State) (h_s : s.MemOk) : (fetchAhead c nxt s).MemOk := by
  unfold fetchAhead
  with_reducible repeat' (first
    | assumption | (intro _) | split | refine needLine_memOk (by assumption) ?_ | dsimp only)

theorem bundleLen_memOk {c : CoreId} {va n : Nat} {s t : State} (h : bundleLen c va s = .ok (n, t)) (h_s : s.MemOk) : t.MemOk := by
  unfold bundleLen at h
  split at h
  · cases h
  · rename_i h1
    dsimp only at h
    split at h <;> cases h
    exact useLine_memOk h1 h_s

theorem fetchBundle_memOk {c : CoreId} {va n : Nat} {i : Image} {s t : State} (h : fetchBundle c va s = .ok (i, n, t)) (h_s : s.MemOk) :
    t.MemOk := by
  unfold fetchBundle at h
  split at h
  · cases h
  · rename_i h1
    split at h
    · cases h
    · rename_i h2
      cases h
      exact useLine_memOk h2 (bundleLen_memOk h1 h_s)

theorem skipBundles_memOk {c : CoreId} (n : Nat) : ∀ {va m : Nat} {s t : State}, skipBundles c n va s = .ok (m, t) → s.MemOk → t.MemOk := by
  induction n with
  | zero => intro va m s t h h_s; cases h; exact h_s
  | succ n ih =>
    intro va m s t h h_s
    unfold skipBundles at h
    split at h
    · cases h
    · rename_i h1
      exact ih h (bundleLen_memOk h1 h_s)

/-! Access. -/

theorem withhold_memOk (sp : Sp) (va : W64) (cells : List Host.Cell) (entries : Nat) (rel : Bool) (scp : BitVec 2) (bad : Option Nat) (trip : Trip) (s : State) (h_s : s.MemOk) : (withhold sp va cells entries rel scp bad trip s).MemOk := by
  unfold withhold
  with_reducible repeat' (first
    | assumption | (intro _) | apply modMe_memOk | dsimp only
    | (rw [memOk_mk]; apply memOk_wf; first | assumption | apply modMe_memOk))

theorem notePad_memOk (c : CoreId) (b : PathOp) (s : State) (h_s : s.MemOk) : (notePad c b s).MemOk := by
  unfold notePad
  with_reducible repeat' (first
    | assumption | (intro _) | apply modC_memOk | apply memOk_ite | split | dsimp only
    | (rw [memOk_mk]; apply memOk_wf; first | assumption | apply modC_memOk | apply memOk_ite))

theorem releaseStores_memOk (c : CoreId) (s : State) (h_s : s.MemOk) : (releaseStores c s).MemOk := by
  unfold releaseStores
  with_reducible repeat' (first
    | assumption | (intro _) | apply modC_memOk | apply after_memOk | apply pick_memOk | apply memOk_foldl | apply wf_memWrs
    | apply wf_filter | apply wf_foldl | apply markCells_memOk | apply notePad_memOk | exact memOk_wf ‹_› | split
    | refine pick_pair_memOk (by assumption) ?_ | dsimp only
    | (rw [memOk_mk]; first | apply wf_memWrs | apply wf_filter | apply wf_foldl)
    | (rw [memOk_mk]; apply memOk_wf; first | assumption | apply modC_memOk | apply after_memOk | apply pick_memOk | apply memOk_foldl | apply markCells_memOk | apply notePad_memOk | refine pick_pair_memOk (by assumption) ?_)
    | (apply memOk_wf; first | assumption | apply modC_memOk | apply after_memOk | apply pick_memOk | apply memOk_foldl | apply markCells_memOk | apply notePad_memOk | refine pick_pair_memOk (by assumption) ?_))

theorem issueCop_memOk (dt : Nat) (f : Nat → Nat → Cop) (s : State) (h_s : s.MemOk) : (issueCop dt f s).MemOk := by
  unfold issueCop
  with_reducible repeat' (first
    | assumption | (intro _) | apply modMe_memOk | apply after_memOk | dsimp only
    | (rw [memOk_mk]; apply memOk_wf; first | assumption | apply modMe_memOk | apply after_memOk))

theorem issueFree_memOk (f : Nat → Nat → Cop) (s : State) (h_s : s.MemOk) : (issueFree f s).MemOk := by
  unfold issueFree
  with_reducible repeat' (first
    | assumption | (intro _) | apply pick_memOk | apply issueCop_memOk | split | refine pick_pair_memOk (by assumption) ?_
    | dsimp only)

theorem stagingTicks_memOk (s : State) (c : CoreId) (a extra : Nat) (h_s : s.MemOk) : (stagingTicks s c a extra).2.MemOk := by
  unfold stagingTicks
  with_reducible repeat' (first
    | assumption | (intro _) | apply pick_memOk | apply memOk_ite | split | refine pick_pair_memOk (by assumption) ?_
    | dsimp only)

theorem stagingTicks_pair_memOk {s : State} {c : CoreId} {a extra : Nat} {t : State} {zz : Nat} (h : (stagingTicks s c a extra) = (zz, t)) (h_s : s.MemOk) : t.MemOk := by
  have := stagingTicks_memOk s c a extra h_s
  rw [h] at this; exact this

theorem State.modTrip_memOk (s : State) (c : CoreId) (id : Nat) (f : Trip → Trip) (h_s : s.MemOk) : (State.modTrip s c id f).MemOk := by
  unfold State.modTrip
  with_reducible repeat' (first
    | assumption | (intro _) | apply modC_memOk | apply memOk_ite | split | dsimp only
    | (rw [memOk_mk]; apply memOk_wf; first | assumption | apply modC_memOk | apply memOk_ite))

theorem State.arrive_memOk (s : State) (c : CoreId) (id : Nat) (h_s : s.MemOk) : (State.arrive s c id).MemOk := by
  unfold State.arrive
  with_reducible repeat' (first
    | assumption | (intro _) | apply modD_memOk | apply State.modTrip_memOk | dsimp only
    | (rw [memOk_mk]; apply memOk_wf; first | assumption | apply modD_memOk | apply State.modTrip_memOk))

theorem State.letGo_memOk (s : State) (c : CoreId) (b : PathOp) (h_s : s.MemOk) : (State.letGo s c b).2.MemOk := by
  unfold State.letGo
  with_reducible repeat' (first
    | assumption | (intro _) | apply pick_memOk | apply memOk_foldl | apply State.arrive_memOk | apply State.modTrip_memOk
    | apply memOk_ite | split | refine pick_pair_memOk (by assumption) ?_ | dsimp only)

theorem State.letGo_pair_memOk {s : State} {c : CoreId} {b : PathOp} {t : State} {zz : Bool} (h : (State.letGo s c b) = (zz, t)) (h_s : s.MemOk) : t.MemOk := by
  have := State.letGo_memOk s c b h_s
  rw [h] at this; exact this

theorem State.ready_memOk (s : State) (c : CoreId) (b : PathOp) (cached : Bool) (h_s : s.MemOk) : (State.ready s c b cached).2.MemOk := by
  unfold State.ready
  with_reducible repeat' (first
    | assumption | (intro _) | apply pick_memOk | apply State.letGo_memOk | apply State.modTrip_memOk | apply memOk_ite
    | split | refine pick_pair_memOk (by assumption) ?_ | refine State.letGo_pair_memOk (by assumption) ?_ | dsimp only
    | (rw [memOk_mk]; apply memOk_wf; first | assumption | apply pick_memOk | apply State.letGo_memOk | apply State.modTrip_memOk | apply memOk_ite | refine pick_pair_memOk (by assumption) ?_ | refine State.letGo_pair_memOk (by assumption) ?_))

theorem State.ready_pair_memOk {s : State} {c : CoreId} {b : PathOp} {cached : Bool} {t : State} {zz : Bool} (h : (State.ready s c b cached) = (zz, t)) (h_s : s.MemOk) : t.MemOk := by
  have := State.ready_memOk s c b cached h_s
  rw [h] at this; exact this

theorem sendMsg_memOk (a b : Isl) (i : Instr) (g : Arg) (s : State) (h_s : s.MemOk) : (sendMsg a b i g s).MemOk := by
  unfold sendMsg
  with_reducible repeat' (first
    | assumption | (intro _) | apply after_memOk | dsimp only)

theorem askLine_memOk (y : Isl) (line : Nat) (own : Bool) (s : State) (h_s : s.MemOk) : (askLine y line own s).MemOk := by
  unfold askLine
  with_reducible repeat' (first
    | assumption | (intro _) | apply modI_memOk | apply sendMsg_memOk | apply memOk_ite | split | dsimp only
    | (rw [memOk_mk]; apply memOk_wf; first | assumption | apply modI_memOk | apply sendMsg_memOk | apply memOk_ite))

theorem putCells_memOk (y : Isl) (line : Nat) (cells : List Host.Cell) (s : State) (h_s : s.MemOk) : (putCells y line cells s).MemOk := by
  unfold putCells
  with_reducible repeat' (first
    | assumption | (intro _) | apply modI_memOk | apply memOk_foldl | apply wf_memWrs | apply wf_foldl | apply memOk_ite
    | exact memOk_wf ‹_› | split | dsimp only | (rw [memOk_mk]; first | apply wf_memWrs | apply wf_foldl)
    | (rw [memOk_mk]; apply memOk_wf; first | assumption | apply modI_memOk | apply memOk_foldl | apply memOk_ite)
    | (apply memOk_wf; first | assumption | apply modI_memOk | apply memOk_foldl | apply memOk_ite))

theorem fillLineCache_memOk (c : CoreId) (line : Nat) (s : State) (h_s : s.MemOk) : (fillLineCache c line s).MemOk := by
  unfold fillLineCache
  with_reducible repeat' (first
    | assumption | (intro _) | apply modC_memOk | apply modI_memOk | apply now_memOk | apply memOk_ite | split | dsimp only
    | (rw [memOk_mk]; apply memOk_wf; first | assumption | apply modC_memOk | apply modI_memOk | apply now_memOk | apply memOk_ite))

theorem invAgents_memOk (y : Isl) (line : Nat) (but : Option CoreId) (s : State) (h_s : s.MemOk) : (invAgents y line but s).MemOk := by
  unfold invAgents
  with_reducible repeat' (first
    | assumption | (intro _) | apply modC_memOk | apply memOk_foldl | apply memOk_ite | split | dsimp only
    | (rw [memOk_mk]; apply memOk_wf; first | assumption | apply modC_memOk | apply memOk_foldl | apply memOk_ite))

theorem writeBack_memOk (e : ShelfLine) (s : State) (h_s : s.MemOk) : (writeBack e s).MemOk := by
  unfold writeBack
  with_reducible repeat' (first
    | assumption | (intro _) | apply modD_memOk | apply memOk_ite | split | dsimp only
    | (rw [memOk_mk]; apply memOk_wf; first | assumption | apply modD_memOk | apply memOk_ite))

theorem touchShelf_memOk (line : Nat) (cls : BitVec 2) (k : Option SlotKey) (dirty : Bool) (s : State) (h_s : s.MemOk) : (touchShelf line cls k dirty s).MemOk := by
  unfold touchShelf
  with_reducible repeat' (first
    | assumption | (intro _) | apply modI_memOk | apply writeBack_memOk | apply memOk_elim | apply memOk_ite | split
    | dsimp only
    | (rw [memOk_mk]; apply memOk_wf; first | assumption | apply modI_memOk | apply writeBack_memOk | apply memOk_elim | apply memOk_ite))

theorem touchLine_memOk (c : CoreId) (line : Nat) (cls : BitVec 2) (dirty : Bool) (s : State) (h_s : s.MemOk) : (touchLine c line cls dirty s).MemOk := by
  unfold touchLine
  with_reducible repeat' (first
    | assumption | (intro _) | apply modI_memOk | apply touchShelf_memOk | apply modI_memOk | apply memOk_ite | split
    | dsimp only
    | (rw [memOk_mk]; apply memOk_wf; first | assumption | apply modI_memOk | apply touchShelf_memOk | apply modI_memOk | apply memOk_ite))

theorem emptyShelf_memOk (y : Isl) (slice : Nat) (s : State) (h_s : s.MemOk) : (emptyShelf y slice s).MemOk := by
  unfold emptyShelf
  with_reducible repeat' (first
    | assumption | (intro _) | apply modI_memOk | apply memOk_foldl | apply writeBack_memOk | apply modI_memOk | dsimp only
    | (rw [memOk_mk]; apply memOk_wf; first | assumption | apply modI_memOk | apply memOk_foldl | apply writeBack_memOk | apply modI_memOk))

theorem trimShelf_memOk (y : Isl) (s : State) (h_s : s.MemOk) : (trimShelf y s).MemOk := by
  unfold trimShelf
  with_reducible repeat' (first
    | assumption | (intro _) | apply modI_memOk | apply memOk_foldl | apply writeBack_memOk | apply memOk_ite | split
    | dsimp only
    | (rw [memOk_mk]; apply memOk_wf; first | assumption | apply modI_memOk | apply memOk_foldl | apply writeBack_memOk | apply memOk_ite))

theorem evictCopy_memOk (y : Isl) (line : Nat) (c : Copy) (s : State) (h_s : s.MemOk) : (evictCopy y line c s).MemOk := by
  unfold evictCopy
  with_reducible repeat' (first
    | assumption | (intro _) | apply modI_memOk | apply invAgents_memOk | apply sendMsg_memOk | split | dsimp only
    | (rw [memOk_mk]; apply memOk_wf; first | assumption | apply modI_memOk | apply invAgents_memOk | apply sendMsg_memOk))

theorem emptyPart_memOk (y : Isl) (part : Nat) (s : State) (h_s : s.MemOk) : (emptyPart y part s).MemOk := by
  unfold emptyPart
  with_reducible repeat' (first
    | assumption | (intro _) | apply memOk_foldl | apply evictCopy_memOk | dsimp only
    | (rw [memOk_mk]; apply memOk_wf; first | assumption | apply memOk_foldl | apply evictCopy_memOk))

theorem offshoreRoom_memOk (y : Isl) (line : Nat) (s : State) (h_s : s.MemOk) : (offshoreRoom y line s).MemOk := by
  unfold offshoreRoom
  with_reducible repeat' (first
    | assumption | (intro _) | apply pick_memOk | apply evictCopy_memOk | apply memOk_ite | split
    | refine pick_pair_memOk (by assumption) ?_ | dsimp only)

theorem settleLine_memOk (y : Isl) (line : Nat) (s : State) (h_s : s.MemOk) : (settleLine y line s).MemOk := by
  unfold settleLine
  with_reducible repeat' (first
    | assumption | (intro _) | apply evictCopy_memOk | apply memOk_ite | split | dsimp only)

theorem noteNarrow_memOk (c : CoreId) (b : PathOp) (s : State) (h_s : s.MemOk) : (noteNarrow c b s).MemOk := by
  unfold noteNarrow
  with_reducible repeat' (first
    | assumption | (intro _) | apply modD_memOk | apply memOk_ite | split | dsimp only
    | (rw [memOk_mk]; apply memOk_wf; first | assumption | apply modD_memOk | apply memOk_ite))

theorem widen_memOk (c : CoreId) (b : PathOp) (s : State) (h_s : s.MemOk) : (widen c b s).2.MemOk := by
  unfold widen
  with_reducible repeat' (first
    | assumption | (intro _) | apply modC_memOk | apply modD_memOk | apply sendMsg_memOk | apply State.modTrip_memOk
    | apply memOk_ite | split | dsimp only
    | (rw [memOk_mk]; apply memOk_wf; first | assumption | apply modC_memOk | apply modD_memOk | apply sendMsg_memOk | apply State.modTrip_memOk | apply memOk_ite))

theorem widen_pair_memOk {c : CoreId} {b : PathOp} {s : State} {t : State} {zz : Bool} (h : (widen c b s) = (zz, t)) (h_s : s.MemOk) : t.MemOk := by
  have := widen_memOk c b s h_s
  rw [h] at this; exact this

/-! Memory. -/

theorem issueZero_memOk (n : Nat) (dst : BitVec 6) (pj : BitVec 4) (va : W64) (z : Nat) (acq : Bool) (scp : BitVec 2) (s : State) (h_s : s.MemOk) : (issueZero n dst pj va z acq scp s).MemOk := by
  unfold issueZero
  with_reducible repeat' (first
    | assumption | (intro _) | apply modMe_memOk | apply after_memOk | dsimp only
    | (rw [memOk_mk]; apply memOk_wf; first | assumption | apply modMe_memOk | apply after_memOk))

theorem padRead_memOk (key z : Nat) (acq rel : Bool) (scp : BitVec 2) (s : State) (h_s : s.MemOk) : (padRead key z acq rel scp s).MemOk := by
  unfold padRead
  with_reducible repeat' (first
    | assumption | (intro _) | apply notePad_memOk | dsimp only
    | (rw [memOk_mk]; apply memOk_wf; first | assumption | apply notePad_memOk))

theorem loadAt_memOk (signed : Bool) (z k : Nat) (dst : BitVec 6) (pj : BitVec 4) (acq : Bool) (scp : BitVec 2) (x : Addr) (s : State) (h_s : s.MemOk) : (loadAt signed z k dst pj acq scp x s).MemOk := by
  unfold loadAt
  with_reducible repeat' (first
    | assumption | (intro _) | apply at_memOk | apply pick_memOk | apply takeTrap_memOk | apply issueZero_memOk | apply at_memOk
    | apply consume_memOk | apply toS_memOk | apply padRead_memOk | apply stagingTicks_memOk | apply issueCop_memOk
    | apply keepXlat_memOk | apply issueFree_memOk | apply memOk_ite | split | refine pick_pair_memOk (by assumption) ?_
    | refine stagingTicks_pair_memOk (by assumption) ?_ | dsimp only
    | (rw [memOk_mk]; apply memOk_wf; first | assumption | apply at_memOk | apply pick_memOk | apply takeTrap_memOk | apply issueZero_memOk | apply at_memOk | apply consume_memOk | apply toS_memOk | apply padRead_memOk | apply stagingTicks_memOk | apply issueCop_memOk | apply keepXlat_memOk | apply issueFree_memOk | apply memOk_ite | refine pick_pair_memOk (by assumption) ?_ | refine stagingTicks_pair_memOk (by assumption) ?_))

theorem loadOp_memOk (op : Nat) (signed : Bool) (z : Nat) (g : Guard) (d a : BitVec 6) (j : BitVec 4) (sp : BitVec 2) (off : BitVec 22) (s : State) (h_s : s.MemOk) : OutOk (loadOp op signed z g d a j sp off s) := by
  unfold loadOp
  with_reducible repeat' (first
    | assumption | (intro _) | rw [outOk_next] | apply guarded_memOk | apply loadAt_memOk | dsimp only)

theorem execLdb_memOk (g : Guard) (d a : BitVec 6) (j : BitVec 4) (sp : BitVec 2) (off : BitVec 22) (s : State) (h_s : s.MemOk) : OutOk (execLdb g d a j sp off s) := by
  unfold execLdb
  with_reducible repeat' (first
    | assumption | (intro _) | rw [outOk_next] | apply loadOp_memOk | dsimp only)

theorem execLdbn_memOk (g : Guard) (d a : BitVec 6) (j : BitVec 4) (sp : BitVec 2) (off : BitVec 22) (s : State) (h_s : s.MemOk) : OutOk (execLdbn g d a j sp off s) := by
  unfold execLdbn
  with_reducible repeat' (first
    | assumption | (intro _) | rw [outOk_next] | apply loadOp_memOk | dsimp only)

theorem execLdh_memOk (g : Guard) (d a : BitVec 6) (j : BitVec 4) (sp : BitVec 2) (off : BitVec 22) (s : State) (h_s : s.MemOk) : OutOk (execLdh g d a j sp off s) := by
  unfold execLdh
  with_reducible repeat' (first
    | assumption | (intro _) | rw [outOk_next] | apply loadOp_memOk | dsimp only)

theorem execLdhn_memOk (g : Guard) (d a : BitVec 6) (j : BitVec 4) (sp : BitVec 2) (off : BitVec 22) (s : State) (h_s : s.MemOk) : OutOk (execLdhn g d a j sp off s) := by
  unfold execLdhn
  with_reducible repeat' (first
    | assumption | (intro _) | rw [outOk_next] | apply loadOp_memOk | dsimp only)

theorem execLdw_memOk (g : Guard) (d a : BitVec 6) (j : BitVec 4) (sp : BitVec 2) (off : BitVec 22) (s : State) (h_s : s.MemOk) : OutOk (execLdw g d a j sp off s) := by
  unfold execLdw
  with_reducible repeat' (first
    | assumption | (intro _) | rw [outOk_next] | apply loadOp_memOk | dsimp only)

theorem execLdwn_memOk (g : Guard) (d a : BitVec 6) (j : BitVec 4) (sp : BitVec 2) (off : BitVec 22) (s : State) (h_s : s.MemOk) : OutOk (execLdwn g d a j sp off s) := by
  unfold execLdwn
  with_reducible repeat' (first
    | assumption | (intro _) | rw [outOk_next] | apply loadOp_memOk | dsimp only)

theorem execLdd_memOk (g : Guard) (d a : BitVec 6) (j : BitVec 4) (sp : BitVec 2) (off : BitVec 22) (s : State) (h_s : s.MemOk) : OutOk (execLdd g d a j sp off s) := by
  unfold execLdd
  with_reducible repeat' (first
    | assumption | (intro _) | rw [outOk_next] | apply loadOp_memOk | dsimp only)

theorem execLda_memOk (g : Guard) (d a : BitVec 6) (j : BitVec 4) (sp scp sz : BitVec 2) (off : BitVec 22) (s : State) (h_s : s.MemOk) : OutOk (execLda g d a j sp scp sz off s) := by
  unfold execLda
  with_reducible repeat' (first
    | assumption | (intro _) | rw [outOk_next] | apply guarded_memOk | apply loadAt_memOk | dsimp only)

theorem execLdk_memOk (g : Guard) (d a : BitVec 6) (j : BitVec 4) (sp : BitVec 2) (k : BitVec 7) (sz : BitVec 2) (off : BitVec 22) (s : State) (h_s : s.MemOk) : OutOk (execLdk g d a j sp k sz off s) := by
  unfold execLdk
  with_reducible repeat' (first
    | assumption | (intro _) | rw [outOk_next] | apply guardedIf_memOk | apply loadAt_memOk | dsimp only)

theorem execLdr_memOk (g : Guard) (pd : BitVec 4) (a : BitVec 6) (sp : BitVec 2) (off : BitVec 22) (s : State) (h_s : s.MemOk) : OutOk (execLdr g pd a sp off s) := by
  unfold execLdr
  with_reducible repeat' (first
    | assumption | (intro _) | rw [outOk_next] | apply at_memOk | apply guardedIf_memOk | apply takeTrap_memOk
    | apply toP_memOk | apply keepXlat_memOk | split | dsimp only)

theorem execPgin_memOk (g : Guard) (d a : BitVec 6) (sp : BitVec 2) (off : BitVec 22) (s : State) (h_s : s.MemOk) : OutOk (execPgin g d a sp off s) := by
  unfold execPgin
  with_reducible repeat' (first
    | assumption | (intro _) | rw [outOk_next] | apply modI_memOk | apply at_memOk | apply after_memOk | apply pick_memOk
    | apply guardedIf_memOk | apply takeTrap_memOk | apply toS_memOk | apply memOk_ite | split
    | refine pick_pair_memOk (by assumption) ?_ | dsimp only
    | (rw [memOk_mk]; apply memOk_wf; first | assumption | apply modI_memOk | apply at_memOk | apply after_memOk | apply pick_memOk | apply guardedIf_memOk | apply takeTrap_memOk | apply toS_memOk | apply memOk_ite | refine pick_pair_memOk (by assumption) ?_))

theorem storeAt_memOk (z : Nat) (v : W64) (rel : Bool) (scp : BitVec 2) (x : Addr) (s : State) (h_s : s.MemOk) : (storeAt z v rel scp x s).MemOk := by
  unfold storeAt
  with_reducible repeat' (first
    | assumption | (intro _) | apply at_memOk | apply takeTrap_memOk | apply withhold_memOk | apply keepXlat_memOk | split
    | dsimp only)

theorem storeOp_memOk (op z : Nat) (g : Guard) (a b : BitVec 6) (sp : BitVec 2) (off : BitVec 22) (s : State) (h_s : s.MemOk) : OutOk (storeOp op z g a b sp off s) := by
  unfold storeOp
  with_reducible repeat' (first
    | assumption | (intro _) | rw [outOk_next] | apply guarded_memOk | apply storeAt_memOk | dsimp only)

theorem execStb_memOk (g : Guard) (a b : BitVec 6) (sp : BitVec 2) (off : BitVec 22) (s : State) (h_s : s.MemOk) : OutOk (execStb g a b sp off s) := by
  unfold execStb
  with_reducible repeat' (first
    | assumption | (intro _) | rw [outOk_next] | apply storeOp_memOk | dsimp only)

theorem execSth_memOk (g : Guard) (a b : BitVec 6) (sp : BitVec 2) (off : BitVec 22) (s : State) (h_s : s.MemOk) : OutOk (execSth g a b sp off s) := by
  unfold execSth
  with_reducible repeat' (first
    | assumption | (intro _) | rw [outOk_next] | apply storeOp_memOk | dsimp only)

theorem execStw_memOk (g : Guard) (a b : BitVec 6) (sp : BitVec 2) (off : BitVec 22) (s : State) (h_s : s.MemOk) : OutOk (execStw g a b sp off s) := by
  unfold execStw
  with_reducible repeat' (first
    | assumption | (intro _) | rw [outOk_next] | apply storeOp_memOk | dsimp only)

theorem execStd_memOk (g : Guard) (a b : BitVec 6) (sp : BitVec 2) (off : BitVec 22) (s : State) (h_s : s.MemOk) : OutOk (execStd g a b sp off s) := by
  unfold execStd
  with_reducible repeat' (first
    | assumption | (intro _) | rw [outOk_next] | apply storeOp_memOk | dsimp only)

theorem execStl_memOk (g : Guard) (a b : BitVec 6) (sp scp sz : BitVec 2) (off : BitVec 22) (s : State) (h_s : s.MemOk) : OutOk (execStl g a b sp scp sz off s) := by
  unfold execStl
  with_reducible repeat' (first
    | assumption | (intro _) | rw [outOk_next] | apply guarded_memOk | apply storeAt_memOk | dsimp only)

theorem amoAt_memOk (op : AmoOp) (z : Nat) (d b : BitVec 6) (ord scp : BitVec 2) (x : Addr) (s : State) (h_s : s.MemOk) : (amoAt op z d b ord scp x s).MemOk := by
  unfold amoAt
  with_reducible repeat' (first
    | assumption | (intro _) | apply modMe_memOk | apply at_memOk | apply after_memOk | apply takeTrap_memOk | apply at_memOk
    | apply consume_memOk | apply withhold_memOk | apply padRead_memOk | apply modMe_memOk | apply after_memOk
    | apply stagingTicks_memOk | apply issueCop_memOk | apply issueFree_memOk | apply keepXlat_memOk | apply memOk_ite | split
    | refine stagingTicks_pair_memOk (by assumption) ?_ | dsimp only
    | (rw [memOk_mk]; apply memOk_wf; first | assumption | apply modMe_memOk | apply at_memOk | apply after_memOk | apply takeTrap_memOk | apply at_memOk | apply consume_memOk | apply withhold_memOk | apply padRead_memOk | apply modMe_memOk | apply after_memOk | apply stagingTicks_memOk | apply issueCop_memOk | apply issueFree_memOk | apply keepXlat_memOk | apply memOk_ite | refine stagingTicks_pair_memOk (by assumption) ?_))

theorem amoInstr_memOk (code : Nat) (op : AmoOp) (g : Guard) (d a b : BitVec 6) (sp ord scp sz : BitVec 2) (off : BitVec 22) (s : State) (h_s : s.MemOk) : OutOk (amoInstr code op g d a b sp ord scp sz off s) := by
  unfold amoInstr
  with_reducible repeat' (first
    | assumption | (intro _) | rw [outOk_next] | apply guardedIf_memOk | apply amoAt_memOk | dsimp only)

theorem execAmoadd_memOk (g : Guard) (d a b : BitVec 6) (sp ord scp sz : BitVec 2) (off : BitVec 22) (s : State) (h_s : s.MemOk) : OutOk (execAmoadd g d a b sp ord scp sz off s) := by
  unfold execAmoadd
  with_reducible repeat' (first
    | assumption | (intro _) | rw [outOk_next] | apply amoInstr_memOk | dsimp only)

theorem execAmoand_memOk (g : Guard) (d a b : BitVec 6) (sp ord scp sz : BitVec 2) (off : BitVec 22) (s : State) (h_s : s.MemOk) : OutOk (execAmoand g d a b sp ord scp sz off s) := by
  unfold execAmoand
  with_reducible repeat' (first
    | assumption | (intro _) | rw [outOk_next] | apply amoInstr_memOk | dsimp only)

theorem execAmoor_memOk (g : Guard) (d a b : BitVec 6) (sp ord scp sz : BitVec 2) (off : BitVec 22) (s : State) (h_s : s.MemOk) : OutOk (execAmoor g d a b sp ord scp sz off s) := by
  unfold execAmoor
  with_reducible repeat' (first
    | assumption | (intro _) | rw [outOk_next] | apply amoInstr_memOk | dsimp only)

theorem execAmoxor_memOk (g : Guard) (d a b : BitVec 6) (sp ord scp sz : BitVec 2) (off : BitVec 22) (s : State) (h_s : s.MemOk) : OutOk (execAmoxor g d a b sp ord scp sz off s) := by
  unfold execAmoxor
  with_reducible repeat' (first
    | assumption | (intro _) | rw [outOk_next] | apply amoInstr_memOk | dsimp only)

theorem execAmomin_memOk (g : Guard) (d a b : BitVec 6) (sp ord scp sz : BitVec 2) (off : BitVec 22) (s : State) (h_s : s.MemOk) : OutOk (execAmomin g d a b sp ord scp sz off s) := by
  unfold execAmomin
  with_reducible repeat' (first
    | assumption | (intro _) | rw [outOk_next] | apply amoInstr_memOk | dsimp only)

theorem execAmomax_memOk (g : Guard) (d a b : BitVec 6) (sp ord scp sz : BitVec 2) (off : BitVec 22) (s : State) (h_s : s.MemOk) : OutOk (execAmomax g d a b sp ord scp sz off s) := by
  unfold execAmomax
  with_reducible repeat' (first
    | assumption | (intro _) | rw [outOk_next] | apply amoInstr_memOk | dsimp only)

theorem execAmominn_memOk (g : Guard) (d a b : BitVec 6) (sp ord scp sz : BitVec 2) (off : BitVec 22) (s : State) (h_s : s.MemOk) : OutOk (execAmominn g d a b sp ord scp sz off s) := by
  unfold execAmominn
  with_reducible repeat' (first
    | assumption | (intro _) | rw [outOk_next] | apply amoInstr_memOk | dsimp only)

theorem execAmomaxn_memOk (g : Guard) (d a b : BitVec 6) (sp ord scp sz : BitVec 2) (off : BitVec 22) (s : State) (h_s : s.MemOk) : OutOk (execAmomaxn g d a b sp ord scp sz off s) := by
  unfold execAmomaxn
  with_reducible repeat' (first
    | assumption | (intro _) | rw [outOk_next] | apply amoInstr_memOk | dsimp only)

theorem execAmoswp_memOk (g : Guard) (d a b : BitVec 6) (sp ord scp sz : BitVec 2) (off : BitVec 22) (s : State) (h_s : s.MemOk) : OutOk (execAmoswp g d a b sp ord scp sz off s) := by
  unfold execAmoswp
  with_reducible repeat' (first
    | assumption | (intro _) | rw [outOk_next] | apply amoInstr_memOk | dsimp only)

theorem execAmocas_memOk (g : Guard) (d a b : BitVec 6) (sp ord scp sz : BitVec 2) (off : BitVec 22) (s : State) (h_s : s.MemOk) : OutOk (execAmocas g d a b sp ord scp sz off s) := by
  unfold execAmocas
  with_reducible repeat' (first
    | assumption | (intro _) | rw [outOk_next] | apply amoInstr_memOk | dsimp only)

theorem execFence_memOk (g : Guard) (ordr : BitVec 4) (scp : BitVec 2) (spc : BitVec 3) (s : State) (h_s : s.MemOk) : OutOk (execFence g ordr scp spc s) := by
  unfold execFence
  with_reducible repeat' (first
    | assumption | (intro _) | rw [outOk_next] | apply modMe_memOk | apply guarded_memOk | apply memOk_ite | split
    | dsimp only
    | (rw [memOk_mk]; apply memOk_wf; first | assumption | apply modMe_memOk | apply guarded_memOk | apply memOk_ite))

theorem finishCop_memOk (c : CoreId) (id : Nat) (v : W64) (s : State) (h_s : s.MemOk) : (finishCop c id v s).MemOk := by
  unfold finishCop
  with_reducible repeat' (first
    | assumption | (intro _) | apply modC_memOk | apply now_memOk | apply memOk_ite | split | dsimp only
    | (rw [memOk_mk]; apply memOk_wf; first | assumption | apply modC_memOk | apply now_memOk | apply memOk_ite))

theorem finishLater_memOk (c : CoreId) (id : Nat) (v : W64) (n : Nat) (s : State) (h_s : s.MemOk) : (finishLater c id v n s).MemOk := by
  unfold finishLater
  with_reducible repeat' (first
    | assumption | (intro _) | apply modC_memOk | apply after_memOk | apply after_memOk | apply memOk_ite | split | dsimp only
    | (rw [memOk_mk]; apply memOk_wf; first | assumption | apply modC_memOk | apply after_memOk | apply after_memOk | apply memOk_ite))

theorem finishFree_memOk (c : CoreId) (id : Nat) (v : W64) (s : State) (h_s : s.MemOk) : (finishFree c id v s).MemOk := by
  unfold finishFree
  with_reducible repeat' (first
    | assumption | (intro _) | apply pick_memOk | apply finishLater_memOk | split | refine pick_pair_memOk (by assumption) ?_
    | dsimp only
    | (rw [memOk_mk]; apply memOk_wf; first | assumption | apply pick_memOk | apply finishLater_memOk | refine pick_pair_memOk (by assumption) ?_))

theorem retryCop_memOk (c : CoreId) (id : Nat) (s : State) (h_s : s.MemOk) : (retryCop c id s).MemOk := by
  unfold retryCop
  with_reducible repeat' (first
    | assumption | (intro _) | apply at_memOk | dsimp only)

theorem reachIn_memOk (a z line : Nat) (y : Isl) (s : State) (h_s : s.MemOk) : (reachIn a z line y s).MemOk := by
  unfold reachIn
  with_reducible repeat' (first
    | assumption | (intro _) | apply reach_memOk | apply memOk_ite | split | dsimp only
    | (rw [memOk_mk]; apply memOk_wf; first | assumption | apply reach_memOk | apply memOk_ite))

theorem loadNow_memOk (c : CoreId) (o : Cop) (signed : Bool) (s : State) (h_s : s.MemOk) : (loadNow c o signed s).2.MemOk := by
  unfold loadNow
  with_reducible repeat' (first
    | assumption | (intro _) | apply memOk_foldl | apply reachIn_memOk | apply settleLine_memOk | apply touchLine_memOk
    | apply fillLineCache_memOk | apply reach_memOk | apply memOk_ite | split | dsimp only
    | (rw [memOk_mk]; apply memOk_wf; first | assumption | apply memOk_foldl | apply reachIn_memOk | apply settleLine_memOk | apply touchLine_memOk | apply fillLineCache_memOk | apply reach_memOk | apply memOk_ite))

theorem loadNow_pair_memOk {c : CoreId} {o : Cop} {signed : Bool} {s : State} {t : State} {zz : W64} (h : (loadNow c o signed s) = (zz, t)) (h_s : s.MemOk) : t.MemOk := by
  have := loadNow_memOk c o signed s h_s
  rw [h] at this; exact this

theorem performLoad_memOk (c : CoreId) (o : Cop) (signed : Bool) (s : State) (h_s : s.MemOk) : (performLoad c o signed s).MemOk := by
  unfold performLoad
  with_reducible repeat' (first
    | assumption | (intro _) | apply retryCop_memOk | apply widen_memOk | apply askLine_memOk | apply loadNow_memOk
    | apply finishCop_memOk | apply State.ready_memOk | apply memOk_ite | split | refine widen_pair_memOk (by assumption) ?_
    | refine loadNow_pair_memOk (by assumption) ?_ | refine State.ready_pair_memOk (by assumption) ?_ | dsimp only
    | (rw [memOk_mk]; apply memOk_wf; first | assumption | apply retryCop_memOk | apply widen_memOk | apply askLine_memOk | apply loadNow_memOk | apply finishCop_memOk | apply State.ready_memOk | apply memOk_ite | refine widen_pair_memOk (by assumption) ?_ | refine loadNow_pair_memOk (by assumption) ?_ | refine State.ready_pair_memOk (by assumption) ?_))

theorem fillRegion_memOk (y : Isl) (line key : Nat) (d : BitVec 1024) (s : State) (h_s : s.MemOk) : (fillRegion y line key d s).MemOk := by
  unfold fillRegion
  with_reducible repeat' (first
    | assumption | (intro _) | apply modI_memOk | apply evictCopy_memOk | apply offshoreRoom_memOk | apply memOk_ite | split
    | dsimp only
    | (rw [memOk_mk]; apply memOk_wf; first | assumption | apply modI_memOk | apply evictCopy_memOk | apply offshoreRoom_memOk | apply memOk_ite))

theorem regionLine_memOk (y : Isl) (line key : Nat) (th : Round) (s : State) (h_s : s.MemOk) : (regionLine y line key th s).2.MemOk := by
  unfold regionLine
  with_reducible repeat' (first
    | assumption | (intro _) | apply fillRegion_memOk | apply memOk_ite | split | dsimp only)

theorem regionLine_pair_memOk {y : Isl} {line key : Nat} {th : Round} {s : State} {t : State} {zz : BitVec 1024} (h : (regionLine y line key th s) = (zz, t)) (h_s : s.MemOk) : t.MemOk := by
  have := regionLine_memOk y line key th s h_s
  rw [h] at this; exact this

theorem regionLines_memOk (y : Isl) (key : Nat) (th : Round) : ∀ (l : List Nat) (s : State), s.MemOk → (regionLines y key th l s).2.MemOk
  | [], _, h => h
  | l :: r, s, h => regionLines_memOk y key th r _ (regionLine_memOk y l key th s h)

theorem fixThresholds_memOk (c : CoreId) (s : State) (h_s : s.MemOk) : (fixThresholds c s).MemOk := by
  unfold fixThresholds
  with_reducible repeat' (first
    | assumption | (intro _) | apply modC_memOk | dsimp only
    | (rw [memOk_mk]; apply memOk_wf; first | assumption | apply modC_memOk))

theorem boundedNow_memOk (c : CoreId) (o : Cop) (signed : Bool) (r : Nat) (th : Round) (s : State) (h_s : s.MemOk) : (boundedNow c o signed r th s).2.MemOk := by
  unfold boundedNow
  with_reducible repeat' (first
    | assumption | (intro _) | apply memOk_foldl | apply regionLines_memOk | apply touchLine_memOk | apply reachIn_memOk | split
    | dsimp only
    | (rw [memOk_mk]; apply memOk_wf; first | assumption | apply memOk_foldl | apply regionLines_memOk | apply touchLine_memOk | apply reachIn_memOk))

theorem boundedNow_pair_memOk {c : CoreId} {o : Cop} {signed : Bool} {r : Nat} {th : Round} {s : State} {t : State} {zz : W64} (h : (boundedNow c o signed r th s) = (zz, t)) (h_s : s.MemOk) : t.MemOk := by
  have := boundedNow_memOk c o signed r th s h_s
  rw [h] at this; exact this

theorem performBounded_memOk (c : CoreId) (o : Cop) (signed : Bool) (b r : Nat) (thr : Option Round) (s : State) (h_s : s.MemOk) : (performBounded c o signed b r thr s).MemOk := by
  unfold performBounded
  with_reducible repeat' (first
    | assumption | (intro _) | apply fixThresholds_memOk | apply retryCop_memOk | apply widen_memOk | apply held_memOk
    | apply boundedNow_memOk | apply finishCop_memOk | apply State.ready_memOk | apply memOk_ite | split
    | refine widen_pair_memOk (by assumption) ?_ | refine boundedNow_pair_memOk (by assumption) ?_
    | refine State.ready_pair_memOk (by assumption) ?_ | dsimp only
    | (rw [memOk_mk]; apply memOk_wf; first | assumption | apply fixThresholds_memOk | apply retryCop_memOk | apply widen_memOk | apply held_memOk | apply boundedNow_memOk | apply finishCop_memOk | apply State.ready_memOk | apply memOk_ite | refine widen_pair_memOk (by assumption) ?_ | refine boundedNow_pair_memOk (by assumption) ?_ | refine State.ready_pair_memOk (by assumption) ?_))

theorem takeNow_memOk (c : CoreId) (o : Cop) (s : State) (h_s : s.MemOk) : (takeNow c o s).2.MemOk := by
  unfold takeNow
  with_reducible repeat' (first
    | assumption | (intro _) | apply widen_memOk | apply finishFree_memOk | apply loadNow_memOk | apply boundedNow_memOk
    | apply memOk_ite | split | refine widen_pair_memOk (by assumption) ?_ | refine loadNow_pair_memOk (by assumption) ?_
    | refine boundedNow_pair_memOk (by assumption) ?_ | dsimp only
    | (rw [memOk_mk]; apply memOk_wf; first | assumption | apply widen_memOk | apply finishFree_memOk | apply loadNow_memOk | apply boundedNow_memOk | apply memOk_ite | refine widen_pair_memOk (by assumption) ?_ | refine loadNow_pair_memOk (by assumption) ?_ | refine boundedNow_pair_memOk (by assumption) ?_))

theorem takeNow_pair_memOk {c : CoreId} {o : Cop} {s : State} {t : State} {zz : Bool} (h : (takeNow c o s) = (zz, t)) (h_s : s.MemOk) : t.MemOk := by
  have := takeNow_memOk c o s h_s
  rw [h] at this; exact this

theorem throughCopy_memOk (y : Isl) (line : Nat) (cells : List Host.Cell) (s : State) (h_s : s.MemOk) : (throughCopy y line cells s).MemOk := by
  unfold throughCopy
  with_reducible repeat' (first
    | assumption | (intro _) | apply putCells_memOk | split | dsimp only)

theorem noteLeaf_memOk (c : CoreId) (ea : Nat) (old : W64) (s : State) (h_s : s.MemOk) : (noteLeaf c ea old s).MemOk := by
  unfold noteLeaf
  with_reducible repeat' (first
    | assumption | (intro _) | apply modD_memOk | apply memOk_ite | split | dsimp only
    | (rw [memOk_mk]; apply memOk_wf; first | assumption | apply modD_memOk | apply memOk_ite))

theorem noteLeaves_memOk (c : CoreId) (pa n : Nat) (before s : State) (h_s : s.MemOk) : (noteLeaves c pa n before s).MemOk := by
  unfold noteLeaves
  with_reducible repeat' (first
    | assumption | (intro _) | apply memOk_foldl | apply noteLeaf_memOk | dsimp only
    | (rw [memOk_mk]; apply memOk_wf; first | assumption | apply memOk_foldl | apply noteLeaf_memOk))

theorem performAmo_memOk (c : CoreId) (o : Cop) (op : AmoOp) (b e : W64) (s : State) (h_s : s.MemOk) : (performAmo c o op b e s).MemOk := by
  unfold performAmo
  with_reducible repeat' (first
    | assumption | (intro _) | apply memOk_foldl | apply wf_memWrs | apply wf_foldl | apply retryCop_memOk | apply widen_memOk
    | apply reach_memOk | apply finishCop_memOk | apply noteNarrow_memOk | apply askLine_memOk | apply invAgents_memOk
    | apply keyWr_memOk | apply setDirty_memOk | apply reachIn_memOk | apply throughCopy_memOk | apply touchLine_memOk
    | apply noteLeaves_memOk | apply State.ready_memOk | apply memOk_ite | exact memOk_wf ‹_› | split
    | refine widen_pair_memOk (by assumption) ?_ | refine State.ready_pair_memOk (by assumption) ?_ | dsimp only
    | (rw [memOk_mk]; first | apply wf_memWrs | apply wf_foldl)
    | (rw [memOk_mk]; apply memOk_wf; first | assumption | apply memOk_foldl | apply retryCop_memOk | apply widen_memOk | apply reach_memOk | apply finishCop_memOk | apply noteNarrow_memOk | apply askLine_memOk | apply invAgents_memOk | apply keyWr_memOk | apply setDirty_memOk | apply reachIn_memOk | apply throughCopy_memOk | apply touchLine_memOk | apply noteLeaves_memOk | apply State.ready_memOk | apply memOk_ite | refine widen_pair_memOk (by assumption) ?_ | refine State.ready_pair_memOk (by assumption) ?_)
    | (apply memOk_wf; first | assumption | apply memOk_foldl | apply retryCop_memOk | apply widen_memOk | apply reach_memOk | apply finishCop_memOk | apply noteNarrow_memOk | apply askLine_memOk | apply invAgents_memOk | apply keyWr_memOk | apply setDirty_memOk | apply reachIn_memOk | apply throughCopy_memOk | apply touchLine_memOk | apply noteLeaves_memOk | apply State.ready_memOk | apply memOk_ite | refine widen_pair_memOk (by assumption) ?_ | refine State.ready_pair_memOk (by assumption) ?_))

theorem execLoadDelivery_memOk (s : State) (h_s : s.MemOk) : OutOk (execLoadDelivery s) := by
  unfold execLoadDelivery
  with_reducible repeat' (first
    | assumption | (intro _) | exact outOk_fault _ | rw [outOk_next] | apply modC_memOk | apply at_memOk | apply now_memOk
    | apply pick_memOk | apply pick_memOk | apply noteError_memOk | apply now_memOk | apply memOk_ite | split
    | refine pick_pair_memOk (by assumption) ?_ | refine pick_pair_memOk (by assumption) ?_ | dsimp only
    | (rw [memOk_mk]; apply memOk_wf; first | assumption | apply modC_memOk | apply at_memOk | apply now_memOk | apply pick_memOk | apply pick_memOk | apply noteError_memOk | apply now_memOk | apply memOk_ite | refine pick_pair_memOk (by assumption) ?_ | refine pick_pair_memOk (by assumption) ?_))

theorem performStore_memOk (c : CoreId) (t : Sto) (s : State) (h_s : s.MemOk) : (performStore c t s).MemOk := by
  unfold performStore
  with_reducible repeat' (first
    | assumption | (intro _) | apply modC_memOk | apply at_memOk | apply memOk_foldl | apply wf_memWrs | apply wf_filter
    | apply wf_foldl | apply noteNarrow_memOk | apply markCells_memOk | apply claimLine_memOk | apply reachIn_memOk
    | apply setDirty_memOk | apply cohWr_memOk | apply throughCopy_memOk | apply touchLine_memOk | apply askLine_memOk
    | apply invAgents_memOk | apply settleLine_memOk | apply noteLeaves_memOk | apply putCells_memOk | apply State.ready_memOk
    | apply memOk_ite | exact memOk_wf ‹_› | split | refine State.ready_pair_memOk (by assumption) ?_ | dsimp only
    | (rw [memOk_mk]; first | apply wf_memWrs | apply wf_filter | apply wf_foldl)
    | (rw [memOk_mk]; apply memOk_wf; first | assumption | apply modC_memOk | apply at_memOk | apply memOk_foldl | apply noteNarrow_memOk | apply markCells_memOk | apply claimLine_memOk | apply reachIn_memOk | apply setDirty_memOk | apply cohWr_memOk | apply throughCopy_memOk | apply touchLine_memOk | apply askLine_memOk | apply invAgents_memOk | apply settleLine_memOk | apply noteLeaves_memOk | apply putCells_memOk | apply State.ready_memOk | apply memOk_ite | refine State.ready_pair_memOk (by assumption) ?_)
    | (apply memOk_wf; first | assumption | apply modC_memOk | apply at_memOk | apply memOk_foldl | apply noteNarrow_memOk | apply markCells_memOk | apply claimLine_memOk | apply reachIn_memOk | apply setDirty_memOk | apply cohWr_memOk | apply throughCopy_memOk | apply touchLine_memOk | apply askLine_memOk | apply invAgents_memOk | apply settleLine_memOk | apply noteLeaves_memOk | apply putCells_memOk | apply State.ready_memOk | apply memOk_ite | refine State.ready_pair_memOk (by assumption) ?_))

theorem execStorePerform_memOk (s : State) (h_s : s.MemOk) : OutOk (execStorePerform s) := by
  unfold execStorePerform
  with_reducible repeat' (first
    | assumption | (intro _) | rw [outOk_next] | apply performStore_memOk | split | dsimp only)

theorem execForcedPublish_memOk (s : State) (h_s : s.MemOk) : OutOk (execForcedPublish s) := by
  unfold execForcedPublish
  with_reducible repeat' (first
    | assumption | (intro _) | rw [outOk_next] | apply now_memOk | apply memOk_foldl | dsimp only)

theorem execLineCacheEviction_memOk (s : State) (h_s : s.MemOk) : OutOk (execLineCacheEviction s) := by
  unfold execLineCacheEviction
  with_reducible repeat' (first
    | assumption | (intro _) | rw [outOk_next] | apply modC_memOk | apply modI_memOk | apply memOk_foldl | dsimp only
    | (rw [memOk_mk]; apply memOk_wf; first | assumption | apply modC_memOk | apply modI_memOk | apply memOk_foldl))

/-! Sync. -/

theorem regionTrap_memOk (r : Nat) (s : State) (h_s : s.MemOk) : (regionTrap r s).MemOk := by
  unfold regionTrap
  with_reducible repeat' (first
    | assumption | (intro _) | apply takeTrap_memOk | dsimp only)

theorem withRegion_memOk (a : BitVec 6) (rn : BitVec 12) (f : Region → State → State) (s : State) (h_f : ∀ (r : Region) (x : State), x.MemOk → (f r x).MemOk) (h_s : s.MemOk) : (withRegion a rn f s).MemOk := by
  unfold withRegion
  with_reducible repeat' (first
    | assumption | (intro _) | apply regionTrap_memOk | apply h_f | split | dsimp only)

theorem execRpub_memOk (g : Guard) (d a : BitVec 6) (rn : BitVec 12) (s : State) (h_s : s.MemOk) : OutOk (execRpub g d a rn s) := by
  unfold execRpub
  with_reducible repeat' (first
    | assumption | (intro _) | rw [outOk_next] | apply guarded_memOk | apply withRegion_memOk | apply issueCop_memOk
    | dsimp only)

theorem execRadv_memOk (g : Guard) (a : BitVec 6) (rn : BitVec 12) (s : State) (h_s : s.MemOk) : OutOk (execRadv g a rn s) := by
  unfold execRadv
  with_reducible repeat' (first
    | assumption | (intro _) | rw [outOk_next] | apply guarded_memOk | apply withRegion_memOk | apply regionTrap_memOk
    | apply deliver_memOk | apply memOk_ite | split | dsimp only)

theorem execRacq_memOk (g : Guard) (d a : BitVec 6) (rn : BitVec 12) (s : State) (h_s : s.MemOk) : OutOk (execRacq g d a rn s) := by
  unfold execRacq
  with_reducible repeat' (first
    | assumption | (intro _) | rw [outOk_next] | apply modMe_memOk | apply guarded_memOk | apply withRegion_memOk
    | apply sendMsg_memOk | dsimp only
    | (rw [memOk_mk]; apply memOk_wf; first | assumption | apply modMe_memOk | apply guarded_memOk | apply withRegion_memOk | apply sendMsg_memOk))

theorem execRrnd_memOk (g : Guard) (d a : BitVec 6) (rn : BitVec 12) (rw : BitVec 2) (s : State) (h_s : s.MemOk) : OutOk (execRrnd g d a rn rw s) := by
  unfold execRrnd
  with_reducible repeat' (first
    | assumption | (intro _) | rw [outOk_next] | apply guarded_memOk | apply withRegion_memOk | apply toS_memOk
    | apply issueCop_memOk | split | dsimp only)

theorem takeAll_memOk (c : CoreId) (l : List Cop) : ∀ e : Bool × State, e.2.MemOk →
    (l.foldl (fun e o => if e.1 then takeNow c o e.2 else e) e).2.MemOk := by
  induction l with
  | nil => exact fun _ h => h
  | cons o l ih =>
    intro e h
    refine ih _ ?_
    dsimp only
    split
    · exact takeNow_memOk _ _ _ h
    · exact h

theorem takeEarlier_memOk (c : CoreId) (seq : Nat) (s : State) (h_s : s.MemOk) : (takeEarlier c seq s).2.MemOk :=
  takeAll_memOk c _ (true, s) h_s

theorem takeEarlier_pair_memOk {c : CoreId} {seq : Nat} {s : State} {t : State} {zz : Bool} (h : (takeEarlier c seq s) = (zz, t)) (h_s : s.MemOk) : t.MemOk := by
  have := takeEarlier_memOk c seq s h_s
  rw [h] at this; exact this

theorem depart_memOk (c : CoreId) (seq : Nat) (s : State) (h_s : s.MemOk) : (depart c seq s).2.MemOk := by
  unfold depart
  with_reducible repeat' (first
    | assumption | (intro _) | apply takeEarlier_memOk | apply memOk_ite | split
    | refine takeEarlier_pair_memOk (by assumption) ?_ | dsimp only
    | (rw [memOk_mk]; apply memOk_wf; first | assumption | apply takeEarlier_memOk | apply memOk_ite | refine takeEarlier_pair_memOk (by assumption) ?_))

theorem depart_pair_memOk {c : CoreId} {seq : Nat} {s : State} {t : State} {zz : Bool} (h : (depart c seq s) = (zz, t)) (h_s : s.MemOk) : t.MemOk := by
  have := depart_memOk c seq s h_s
  rw [h] at this; exact this

theorem putWords_memOk : ∀ (l : List W64) (pa : Nat) (s : State), s.MemOk → (putWords pa l s).MemOk
  | [], _, _, h => h
  | _ :: l, pa, _, h => putWords_memOk l (pa + 8) _ (cohWr_memOk _ pa 8 _ h)

theorem trace_memOk (c : CoreId) (kind : Nat) (badr payload : W64) (s : State) (h_s : s.MemOk) : (trace c kind badr payload s).MemOk := by
  unfold trace
  with_reducible repeat' (first
    | assumption | (intro _) | apply modI_memOk | apply putWords_memOk | apply memOk_ite | split | dsimp only
    | (rw [memOk_mk]; apply memOk_wf; first | assumption | apply modI_memOk | apply putWords_memOk | apply memOk_ite))

theorem traceEv_memOk (c : CoreId) (kind : Nat) (badr payload : W64) (s : State) (h_s : s.MemOk) : (traceEv c kind badr payload s).MemOk := by
  unfold traceEv
  with_reducible repeat' (first
    | assumption | (intro _) | apply trace_memOk | apply memOk_ite | split | dsimp only
    | (rw [memOk_mk]; apply memOk_wf; first | assumption | apply trace_memOk | apply memOk_ite))

theorem sampleRec_memOk (c : CoreId) (x : Sample) (s : State) (h_s : s.MemOk) : (sampleRec c x s).MemOk := by
  unfold sampleRec
  with_reducible repeat' (first
    | assumption | (intro _) | apply trace_memOk | dsimp only
    | (rw [memOk_mk]; apply memOk_wf; first | assumption | apply trace_memOk))

theorem endSamples_memOk (c : CoreId) (s : State) (h_s : s.MemOk) : (endSamples c s).MemOk := by
  unfold endSamples
  with_reducible repeat' (first
    | assumption | (intro _) | apply modC_memOk | apply memOk_foldl | apply sampleRec_memOk | apply modC_memOk | dsimp only
    | (rw [memOk_mk]; apply memOk_wf; first | assumption | apply modC_memOk | apply memOk_foldl | apply sampleRec_memOk | apply modC_memOk))

theorem performRpub_memOk (c : CoreId) (o : Cop) (r : Nat) (s : State) (h_s : s.MemOk) : (performRpub c o r s).MemOk := by
  unfold performRpub
  with_reducible repeat' (first
    | assumption | (intro _) | apply depart_memOk | apply retryCop_memOk | apply sendMsg_memOk | apply traceEv_memOk
    | apply memOk_ite | split | refine depart_pair_memOk (by assumption) ?_ | dsimp only
    | (rw [memOk_mk]; apply memOk_wf; first | assumption | apply depart_memOk | apply retryCop_memOk | apply sendMsg_memOk | apply traceEv_memOk | apply memOk_ite | refine depart_pair_memOk (by assumption) ?_))

theorem execPublish_memOk (s : State) (h_s : s.MemOk) : OutOk (execPublish s) := by
  unfold execPublish
  with_reducible repeat' (first
    | assumption | (intro _) | rw [outOk_next] | apply modI_memOk | apply modD_memOk | apply memOk_foldl
    | apply sendMsg_memOk | apply finishFree_memOk | apply memOk_ite | split | dsimp only
    | (rw [memOk_mk]; apply memOk_wf; first | assumption | apply modI_memOk | apply modD_memOk | apply memOk_foldl | apply sendMsg_memOk | apply finishFree_memOk | apply memOk_ite))

theorem execRoundTableUpdate_memOk (s : State) (h_s : s.MemOk) : OutOk (execRoundTableUpdate s) := by
  unfold execRoundTableUpdate
  with_reducible repeat' (first
    | assumption | (intro _) | rw [outOk_next] | apply modI_memOk | dsimp only
    | (rw [memOk_mk]; apply memOk_wf; first | assumption | apply modI_memOk))

theorem execRacqArrival_memOk (s : State) (h_s : s.MemOk) : OutOk (execRacqArrival s) := by
  unfold execRacqArrival
  with_reducible repeat' (first
    | assumption | (intro _) | exact outOk_fault _ | rw [outOk_next] | apply finishFree_memOk | apply traceEv_memOk | split
    | dsimp only | (rw [memOk_mk]; apply memOk_wf; first | assumption | apply finishFree_memOk | apply traceEv_memOk))

theorem performRrnd_memOk (c : CoreId) (o : Cop) (r : Nat) (s : State) (h_s : s.MemOk) : (performRrnd c o r s).MemOk := by
  unfold performRrnd
  with_reducible repeat' (first
    | assumption | (intro _) | apply finishFree_memOk | dsimp only)

theorem execRegionSweep_memOk (s : State) (h_s : s.MemOk) : OutOk (execRegionSweep s) := by
  unfold execRegionSweep
  with_reducible repeat' (first
    | assumption | (intro _) | rw [outOk_next] | apply modC_memOk | apply modI_memOk | apply memOk_foldl | apply memOk_ite
    | split | dsimp only
    | (rw [memOk_mk]; apply memOk_wf; first | assumption | apply modC_memOk | apply modI_memOk | apply memOk_foldl | apply memOk_ite))

theorem tokenTrap_memOk (t : BitVec 6) (s : State) (h_s : s.MemOk) : (tokenTrap t s).MemOk := by
  unfold tokenTrap
  with_reducible repeat' (first
    | assumption | (intro _) | apply takeTrap_memOk | dsimp only)

theorem execBarr_memOk (g : Guard) (d : BitVec 6) (bn : BitVec 8) (n1 : BitVec 7) (tp : BitVec 6) (s : State) (h_s : s.MemOk) : OutOk (execBarr g d bn n1 tp s) := by
  unfold execBarr
  with_reducible repeat' (first
    | assumption | (intro _) | rw [outOk_next] | apply modMe_memOk | apply guarded_memOk | apply tokenTrap_memOk
    | apply issueCop_memOk | apply memOk_ite | split | dsimp only)

theorem performBarr_memOk (c : CoreId) (o : Cop) (b : BitVec 8) (n : Nat) (s : State) (h_s : s.MemOk) : (performBarr c o b n s).MemOk := by
  unfold performBarr
  with_reducible repeat' (first
    | assumption | (intro _) | apply depart_memOk | apply retryCop_memOk | apply sendMsg_memOk | apply memOk_ite | split
    | refine depart_pair_memOk (by assumption) ?_ | dsimp only
    | (rw [memOk_mk]; apply memOk_wf; first | assumption | apply depart_memOk | apply retryCop_memOk | apply sendMsg_memOk | apply memOk_ite | refine depart_pair_memOk (by assumption) ?_))

theorem settleTokens_memOk (y : Isl) (s : State) (h_s : s.MemOk) : (settleTokens y s).MemOk := by
  unfold settleTokens
  with_reducible repeat' (first
    | assumption | (intro _) | apply modC_memOk | apply modD_memOk | apply memOk_foldl | dsimp only
    | (rw [memOk_mk]; apply memOk_wf; first | assumption | apply modC_memOk | apply modD_memOk | apply memOk_foldl))

theorem execBarrierArrival_memOk (s : State) (h_s : s.MemOk) : OutOk (execBarrierArrival s) := by
  unfold execBarrierArrival
  with_reducible repeat' (first
    | assumption | (intro _) | rw [outOk_next] | apply modI_memOk | apply modD_memOk | apply memOk_foldl
    | apply sendMsg_memOk | apply settleTokens_memOk | apply finishLater_memOk | apply State.arrive_memOk | apply memOk_ite
    | split | dsimp only
    | (rw [memOk_mk]; apply memOk_wf; first | assumption | apply modI_memOk | apply modD_memOk | apply memOk_foldl | apply sendMsg_memOk | apply settleTokens_memOk | apply finishLater_memOk | apply State.arrive_memOk | apply memOk_ite))

theorem execBarrierViewUpdate_memOk (s : State) (h_s : s.MemOk) : OutOk (execBarrierViewUpdate s) := by
  unfold execBarrierViewUpdate
  with_reducible repeat' (first
    | assumption | (intro _) | rw [outOk_next] | apply modI_memOk | apply settleTokens_memOk | dsimp only
    | (rw [memOk_mk]; apply memOk_wf; first | assumption | apply modI_memOk | apply settleTokens_memOk))

theorem execBwait_memOk (g : Guard) (pd : BitVec 4) (a : BitVec 6) (bn : BitVec 8) (s : State) (h_s : s.MemOk) : OutOk (execBwait g pd a bn s) := by
  unfold execBwait
  with_reducible repeat' (first
    | assumption | (intro _) | rw [outOk_next] | apply guarded_memOk | apply toP_memOk | dsimp only)

theorem execBgen_memOk (g : Guard) (d : BitVec 6) (bn : BitVec 8) (s : State) (h_s : s.MemOk) : OutOk (execBgen g d bn s) := by
  unfold execBgen
  with_reducible repeat' (first
    | assumption | (intro _) | rw [outOk_next] | apply guarded_memOk | apply toS_memOk | dsimp only)

theorem execTkwait_memOk (_g : Guard) (_ta _tb _tc : BitVec 6) (s : State) (h_s : s.MemOk) : OutOk (execTkwait _g _ta _tb _tc s) := by
  unfold execTkwait
  with_reducible repeat' (first
    | assumption | (intro _) | rw [outOk_next] | dsimp only)

theorem execTkpoll_memOk (g : Guard) (pd : BitVec 4) (ta : BitVec 6) (s : State) (h_s : s.MemOk) : OutOk (execTkpoll g pd ta s) := by
  unfold execTkpoll
  with_reducible repeat' (first
    | assumption | (intro _) | rw [outOk_next] | apply guarded_memOk | apply toP_memOk | dsimp only)

theorem ringTrap_memOk (cause : Byte) (q : BitVec 4) (s : State) (h_s : s.MemOk) : (ringTrap cause q s).MemOk := by
  unfold ringTrap
  with_reducible repeat' (first
    | assumption | (intro _) | apply takeTrap_memOk | dsimp only)

theorem execRwait_memOk (g : Guard) (q : BitVec 4) (s : State) (h_s : s.MemOk) : OutOk (execRwait g q s) := by
  unfold execRwait
  with_reducible repeat' (first
    | assumption | (intro _) | rw [outOk_next] | apply guarded_memOk | apply illegal_memOk | apply ringTrap_memOk
    | apply memOk_ite | split | dsimp only)

theorem execRrel_memOk (g : Guard) (q : BitVec 4) (s : State) (h_s : s.MemOk) : OutOk (execRrel g q s) := by
  unfold execRrel
  with_reducible repeat' (first
    | assumption | (intro _) | rw [outOk_next] | apply modMe_memOk | apply guarded_memOk | apply illegal_memOk
    | apply ringTrap_memOk | apply memOk_ite | split | dsimp only
    | (rw [memOk_mk]; apply memOk_wf; first | assumption | apply modMe_memOk | apply guarded_memOk | apply illegal_memOk | apply ringTrap_memOk | apply memOk_ite))

theorem execRnew_memOk (g : Guard) (qn : BitVec 4) (a b : BitVec 6) (s : State) (h_s : s.MemOk) : OutOk (execRnew g qn a b s) := by
  unfold execRnew
  with_reducible repeat' (first
    | assumption | (intro _) | rw [outOk_next] | apply guardedIf_memOk | apply illegal_memOk | apply ringTrap_memOk
    | apply deliver_memOk | apply memOk_ite | split | dsimp only)

theorem execRstat_memOk (g : Guard) (d : BitVec 6) (qa : BitVec 4) (s : State) (h_s : s.MemOk) : OutOk (execRstat g d qa s) := by
  unfold execRstat
  with_reducible repeat' (first
    | assumption | (intro _) | rw [outOk_next] | apply guarded_memOk | apply illegal_memOk | apply toS_memOk
    | apply memOk_ite | split | dsimp only)

theorem execNsw_memOk (g : Guard) (nk : BitVec 4) (a : BitVec 6) (nw : BitVec 3) (s : State) (h_s : s.MemOk) : OutOk (execNsw g nk a nw s) := by
  unfold execNsw
  with_reducible repeat' (first
    | assumption | (intro _) | rw [outOk_next] | apply guarded_memOk | apply deliver_memOk | dsimp only)

theorem execNgw_memOk (g : Guard) (d : BitVec 6) (na : BitVec 4) (nw : BitVec 3) (s : State) (h_s : s.MemOk) : OutOk (execNgw g d na nw s) := by
  unfold execNgw
  with_reducible repeat' (first
    | assumption | (intro _) | rw [outOk_next] | apply guarded_memOk | apply toS_memOk | dsimp only)

/-! Record. -/

theorem createHals_memOk (cx : BitVec 7) (stw : Nat) (hs : List HalDef) (s : State) (h_s : s.MemOk) : (createHals cx stw hs s).MemOk := by
  unfold createHals
  with_reducible repeat' (first
    | assumption | (intro _) | apply modD_memOk | apply memOk_foldl | dsimp only
    | (rw [memOk_mk]; apply memOk_wf; first | assumption | apply modD_memOk | apply memOk_foldl))

theorem countPurged_memOk (cx : BitVec 7) (p : BitVec 16) (n : Nat) (s : State) (h_s : s.MemOk) : (countPurged cx p n s).MemOk := by
  unfold countPurged
  with_reducible repeat' (first
    | assumption | (intro _) | apply modD_memOk | apply memOk_ite | split | dsimp only
    | (rw [memOk_mk]; apply memOk_wf; first | assumption | apply modD_memOk | apply memOk_ite))

theorem takeRecord_memOk (r depth : Nat) (host : Bool) (issuer : Option (BitVec 7)) (s : State) (h_s : s.MemOk) : (takeRecord r depth host issuer s).2.MemOk := by
  unfold takeRecord
  with_reducible repeat' (first
    | assumption | (intro _) | apply modD_memOk | apply countPurged_memOk | apply createHals_memOk | apply memOk_ite | split
    | dsimp only
    | (rw [memOk_mk]; apply memOk_wf; first | assumption | apply modD_memOk | apply countPurged_memOk | apply createHals_memOk | apply memOk_ite))

theorem takeRecord_pair_memOk {r depth : Nat} {host : Bool} {issuer : Option (BitVec 7)} {s : State} {t : State} {zz : W64} (h : (takeRecord r depth host issuer s) = (zz, t)) (h_s : s.MemOk) : t.MemOk := by
  have := takeRecord_memOk r depth host issuer s h_s
  rw [h] at this; exact this

/-! Save. -/

theorem flushRange_memOk (lo hi : Nat) (s : State) (h_s : s.MemOk) : (flushRange lo hi s).MemOk := by
  unfold flushRange
  with_reducible repeat' (first
    | assumption | (intro _) | apply memOk_foldl | apply wf_memWrs | apply wf_filter | apply wf_foldl | exact memOk_wf ‹_›
    | dsimp only | (rw [memOk_mk]; first | apply wf_memWrs | apply wf_filter | apply wf_foldl)
    | (rw [memOk_mk]; apply memOk_wf; first | assumption | apply memOk_foldl)
    | (apply memOk_wf; first | assumption | apply memOk_foldl))

theorem syncCopies_memOk (lo hi : Nat) (s : State) (h_s : s.MemOk) : (syncCopies lo hi s).MemOk := by
  unfold syncCopies
  with_reducible repeat' (first
    | assumption | (intro _) | apply modI_memOk | apply memOk_foldl | apply memOk_ite | split | dsimp only
    | (rw [memOk_mk]; apply memOk_wf; first | assumption | apply modI_memOk | apply memOk_foldl | apply memOk_ite))

theorem claimRange_memOk (k : Option SlotKey) (lo n : Nat) (s : State) (h_s : s.MemOk) : (claimRange k lo n s).MemOk := by
  unfold claimRange
  with_reducible repeat' (first
    | assumption | (intro _) | apply modD_memOk | apply memOk_foldl | apply claimLine_memOk | split | dsimp only
    | (rw [memOk_mk]; apply memOk_wf; first | assumption | apply modD_memOk | apply memOk_foldl | apply claimLine_memOk))

theorem saveSlot_memOk (c : CoreId) (i hdl : Nat) (s : State) (h_s : s.MemOk) : (saveSlot c i hdl s).MemOk := by
  unfold saveSlot
  with_reducible repeat' (first
    | assumption | (intro _) | apply modD_memOk | apply wf_memWrs | apply wf_memZero | apply wf_filter
    | apply claimRange_memOk | apply flushRange_memOk | apply syncCopies_memOk | exact memOk_wf ‹_› | dsimp only
    | (rw [memOk_mk]; first | apply wf_memWrs | apply wf_memZero | apply wf_filter)
    | (rw [memOk_mk]; apply memOk_wf; first | assumption | apply modD_memOk | apply claimRange_memOk | apply flushRange_memOk | apply syncCopies_memOk)
    | (apply memOk_wf; first | assumption | apply modD_memOk | apply claimRange_memOk | apply flushRange_memOk | apply syncCopies_memOk))

theorem restoreSlot_memOk (c : CoreId) (i : Nat) (s : State) (h_s : s.MemOk) : (restoreSlot c i s).MemOk := by
  unfold restoreSlot
  with_reducible repeat' (first
    | assumption | (intro _) | apply modC_memOk | apply memOk_foldl | apply wf_memWrs | apply wf_memZero | apply wf_filter
    | apply wf_foldl | apply flushRange_memOk | apply memOk_ite | exact memOk_wf ‹_› | split | dsimp only
    | (rw [memOk_mk]; first | apply wf_memWrs | apply wf_memZero | apply wf_filter | apply wf_foldl)
    | (rw [memOk_mk]; apply memOk_wf; first | assumption | apply modC_memOk | apply memOk_foldl | apply flushRange_memOk | apply memOk_ite)
    | (apply memOk_wf; first | assumption | apply modC_memOk | apply memOk_foldl | apply flushRange_memOk | apply memOk_ite))

/-! Trace. -/

theorem charge_memOk (c : CoreId) (cls n : Nat) (adr : W64) (s : State) (h_s : s.MemOk) : (charge c cls n adr s).MemOk := by
  unfold charge
  with_reducible repeat' (first
    | assumption | (intro _) | apply modC_memOk | apply memOk_foldl | apply trace_memOk | apply memOk_ite | split
    | dsimp only
    | (rw [memOk_mk]; apply memOk_wf; first | assumption | apply modC_memOk | apply memOk_foldl | apply trace_memOk | apply memOk_ite))

theorem classUp_memOk (c : CoreId) (s : State) (h_s : s.MemOk) : (classUp c s).MemOk := by
  unfold classUp
  with_reducible repeat' (first
    | assumption | (intro _) | apply modC_memOk | apply charge_memOk | apply memOk_ite | split | dsimp only
    | (rw [memOk_mk]; apply memOk_wf; first | assumption | apply modC_memOk | apply charge_memOk | apply memOk_ite))

end Sys2Proof.Machine
end

