-- ==== Sys2Proof/Laws/KeepsUnits.lean ====
section
/-! SUPPORT. The canonical form of storage is kept by the matrix, scheduling, launch, halyard and copy units. -/

set_option linter.unusedTactic false
set_option linter.unreachableTactic false

namespace Sys2Proof.Machine

/-! Matrix. -/

theorem execMset_memOk (g : Guard) (mi : BitVec 3) (a : BitVec 6) (s : State) (h_s : s.MemOk) : OutOk (execMset g mi a s) := by
  unfold execMset
  with_reducible repeat' (first
    | assumption | (intro _) | rw [outOk_next] | apply guarded_memOk | apply deliver_memOk | dsimp only)

theorem execMseti_memOk (g : Guard) (mi : BitVec 3) (imm : BitVec 16) (mq : BitVec 2) (s : State) (h_s : s.MemOk) : OutOk (execMseti g mi imm mq s) := by
  unfold execMseti
  with_reducible repeat' (first
    | assumption | (intro _) | rw [outOk_next] | apply guarded_memOk | apply deliver_memOk | dsimp only)

theorem execMget_memOk (g : Guard) (d : BitVec 6) (mi : BitVec 3) (s : State) (h_s : s.MemOk) : OutOk (execMget g d mi s) := by
  unfold execMget
  with_reducible repeat' (first
    | assumption | (intro _) | rw [outOk_next] | apply guarded_memOk | apply toS_memOk | dsimp only)

theorem execMstat_memOk (g : Guard) (d : BitVec 6) (s : State) (h_s : s.MemOk) : OutOk (execMstat g d s) := by
  unfold execMstat
  with_reducible repeat' (first
    | assumption | (intro _) | rw [outOk_next] | apply guarded_memOk | apply toS_memOk | dsimp only)

theorem execCkst_memOk (g : Guard) (d : BitVec 6) (sel : BitVec 2) (s : State) (h_s : s.MemOk) : OutOk (execCkst g d sel s) := by
  unfold execCkst
  with_reducible repeat' (first
    | assumption | (intro _) | rw [outOk_next] | apply guarded_memOk | apply toS_memOk | dsimp only)

theorem issueMx_memOk (kind : MxKind) (t : Toks) (s : State) (h_s : s.MemOk) : (issueMx kind t s).MemOk := by
  unfold issueMx
  with_reducible repeat' (first
    | assumption | (intro _) | apply modMe_memOk | apply tokenTrap_memOk | apply memOk_ite | split | dsimp only
    | (rw [memOk_mk]; apply memOk_wf; first | assumption | apply modMe_memOk | apply tokenTrap_memOk | apply memOk_ite))

theorem execMpld_memOk (g : Guard) (a b : BitVec 6) (mw : BitVec 10) (s : State) (h_s : s.MemOk) : OutOk (execMpld g a b mw s) := by
  unfold execMpld
  with_reducible repeat' (first
    | assumption | (intro _) | rw [outOk_next] | apply guarded_memOk | apply illegal_memOk | apply takeTrap_memOk
    | apply issueMx_memOk | apply memOk_ite | split | dsimp only)

theorem execMpent_memOk (g : Guard) (a : BitVec 6) (re : BitVec 8) (s : State) (h_s : s.MemOk) : OutOk (execMpent g a re s) := by
  unfold execMpent
  with_reducible repeat' (first
    | assumption | (intro _) | rw [outOk_next] | apply modMe_memOk | apply guarded_memOk | apply issueMx_memOk
    | apply memOk_ite | split | dsimp only
    | (rw [memOk_mk]; apply memOk_wf; first | assumption | apply modMe_memOk | apply guarded_memOk | apply issueMx_memOk | apply memOk_ite))

theorem engineSlot_memOk (s : State) (f : State → State) (h_s : s.MemOk) (h_f : ∀ x : State, x.MemOk → (f x).MemOk) : OutOk (engineSlot s f) := by
  unfold engineSlot
  with_reducible repeat' (first
    | assumption | (intro _) | rw [outOk_next] | apply h_f | apply memOk_ite | split | dsimp only)

theorem execMcall_memOk (t : Toks) (e : BitVec 8) (lat : BitVec 3) (acc : BitVec 2) (ck ovw : Bool) (s : State) (h_s : s.MemOk) : OutOk (execMcall t e lat acc ck ovw s) := by
  unfold execMcall
  with_reducible repeat' (first
    | assumption | (intro _) | rw [outOk_next] | apply engineSlot_memOk | apply issueMx_memOk | apply illegal_memOk
    | apply memOk_ite | split | dsimp only)

theorem execLload_memOk (t : Toks) (i lat : BitVec 3) (s : State) (h_s : s.MemOk) : OutOk (execLload t i lat s) := by
  unfold execLload
  with_reducible repeat' (first
    | assumption | (intro _) | rw [outOk_next] | apply engineSlot_memOk | apply illegal_memOk | apply takeTrap_memOk
    | apply issueMx_memOk | apply memOk_ite | split | dsimp only)

theorem execDrain_memOk (t : Toks) (i : BitVec 3) (acc : BitVec 2) (ck ovw : Bool) (s : State) (h_s : s.MemOk) : OutOk (execDrain t i acc ck ovw s) := by
  unfold execDrain
  with_reducible repeat' (first
    | assumption | (intro _) | rw [outOk_next] | apply engineSlot_memOk | apply illegal_memOk | apply takeTrap_memOk
    | apply issueMx_memOk | apply memOk_ite | split | dsimp only)

theorem execAzero_memOk (t : Toks) (acc : BitVec 2) (s : State) (h_s : s.MemOk) : OutOk (execAzero t acc s) := by
  unfold execAzero
  with_reducible repeat' (first
    | assumption | (intro _) | rw [outOk_next] | apply engineSlot_memOk | apply issueMx_memOk | dsimp only)

theorem execEpicfg_memOk (t : Toks) (i : BitVec 3) (s : State) (h_s : s.MemOk) : OutOk (execEpicfg t i s) := by
  unfold execEpicfg
  with_reducible repeat' (first
    | assumption | (intro _) | rw [outOk_next] | apply engineSlot_memOk | apply illegal_memOk | apply takeTrap_memOk
    | apply issueMx_memOk | apply memOk_ite | split | dsimp only)

theorem execCksnap_memOk (t : Toks) (i : BitVec 3) (acc : BitVec 2) (s : State) (h_s : s.MemOk) : OutOk (execCksnap t i acc s) := by
  unfold execCksnap
  with_reducible repeat' (first
    | assumption | (intro _) | rw [outOk_next] | apply engineSlot_memOk | apply takeTrap_memOk | apply issueMx_memOk
    | apply memOk_ite | split | dsimp only)

theorem startMx_memOk (c : CoreId) (s : State) (h_s : s.MemOk) : (startMx c s).MemOk := by
  unfold startMx
  with_reducible repeat' (first
    | assumption | (intro _) | apply at_memOk | apply memOk_ite | split | dsimp only)

theorem issueScale_memOk (op : BitVec 3) (b : BitVec 4) (v : Byte) (src : Option Nat) (s : State) (h_s : s.MemOk) : (issueScale op b v src s).MemOk := by
  unfold issueScale
  with_reducible repeat' (first
    | assumption | (intro _) | apply modMe_memOk | apply startMx_memOk | apply memOk_ite | split | dsimp only
    | (rw [memOk_mk]; apply memOk_wf; first | assumption | apply modMe_memOk | apply startMx_memOk | apply memOk_ite))

theorem execScset_memOk (b : BitVec 4) (v : BitVec 8) (s : State) (h_s : s.MemOk) : OutOk (execScset b v s) := by
  unfold execScset
  with_reducible repeat' (first
    | assumption | (intro _) | rw [outOk_next] | apply engineSlot_memOk | apply issueScale_memOk | dsimp only)

theorem execScadd_memOk (b : BitVec 4) (v : BitVec 8) (s : State) (h_s : s.MemOk) : OutOk (execScadd b v s) := by
  unfold execScadd
  with_reducible repeat' (first
    | assumption | (intro _) | rw [outOk_next] | apply engineSlot_memOk | apply issueScale_memOk | dsimp only)

theorem execScsub_memOk (b : BitVec 4) (v : BitVec 8) (s : State) (h_s : s.MemOk) : OutOk (execScsub b v s) := by
  unfold execScsub
  with_reducible repeat' (first
    | assumption | (intro _) | rw [outOk_next] | apply engineSlot_memOk | apply issueScale_memOk | dsimp only)

theorem execScpad_memOk (b : BitVec 4) (v : BitVec 8) (s : State) (h_s : s.MemOk) : OutOk (execScpad b v s) := by
  unfold execScpad
  with_reducible repeat' (first
    | assumption | (intro _) | rw [outOk_next] | apply engineSlot_memOk | apply takeTrap_memOk | apply issueScale_memOk
    | apply memOk_ite | split | dsimp only)

theorem execSccpy_memOk (b : BitVec 4) (v : BitVec 8) (s : State) (h_s : s.MemOk) : OutOk (execSccpy b v s) := by
  unfold execSccpy
  with_reducible repeat' (first
    | assumption | (intro _) | rw [outOk_next] | apply engineSlot_memOk | apply issueScale_memOk | dsimp only)

theorem execScmax_memOk (b : BitVec 4) (v : BitVec 8) (s : State) (h_s : s.MemOk) : OutOk (execScmax b v s) := by
  unfold execScmax
  with_reducible repeat' (first
    | assumption | (intro _) | rw [outOk_next] | apply engineSlot_memOk | apply issueScale_memOk | dsimp only)

theorem execScmin_memOk (b : BitVec 4) (v : BitVec 8) (s : State) (h_s : s.MemOk) : OutOk (execScmin b v s) := by
  unfold execScmin
  with_reducible repeat' (first
    | assumption | (intro _) | rw [outOk_next] | apply engineSlot_memOk | apply issueScale_memOk | dsimp only)

theorem execScaleWriteLand_memOk (s : State) (h_s : s.MemOk) : OutOk (execScaleWriteLand s) := by
  unfold execScaleWriteLand
  with_reducible repeat' (first
    | assumption | (intro _) | rw [outOk_next] | apply modC_memOk | apply memOk_foldl | apply memOk_ite | split | dsimp only
    | (rw [memOk_mk]; apply memOk_wf; first | assumption | apply modC_memOk | apply memOk_foldl | apply memOk_ite))

theorem releaseMx_memOk (c : CoreId) (s : State) (h_s : s.MemOk) : (releaseMx c s).MemOk := by
  unfold releaseMx
  with_reducible repeat' (first
    | assumption | (intro _) | apply modC_memOk | apply startMx_memOk | apply classUp_memOk | apply modC_memOk | apply memOk_ite
    | split | dsimp only
    | (rw [memOk_mk]; apply memOk_wf; first | assumption | apply modC_memOk | apply startMx_memOk | apply classUp_memOk | apply modC_memOk | apply memOk_ite))

theorem finishMx_memOk (c : CoreId) (o : MxOp) (fl : Byte) (s : State) (h_s : s.MemOk) : (finishMx c o fl s).MemOk := by
  unfold finishMx
  with_reducible repeat' (first
    | assumption | (intro _) | apply modC_memOk | apply memOk_ite | split | dsimp only
    | (rw [memOk_mk]; apply memOk_wf; first | assumption | apply modC_memOk | apply memOk_ite))

/-! Sched. -/

theorem accrue_memOk (q : BitVec 8) (s : State) (h_s : s.MemOk) : (accrue q s).MemOk := by
  unfold accrue
  with_reducible repeat' (first
    | assumption | (intro _) | apply modD_memOk | apply memOk_ite | split | dsimp only
    | (rw [memOk_mk]; apply memOk_wf; first | assumption | apply modD_memOk | apply memOk_ite))

theorem planOverrun_memOk (q : BitVec 8) (s : State) (h_s : s.MemOk) : (planOverrun q s).MemOk := by
  unfold planOverrun
  with_reducible repeat' (first
    | assumption | (intro _) | apply at_memOk | apply memOk_ite | split | dsimp only
    | (rw [memOk_mk]; apply memOk_wf; first | assumption | apply at_memOk | apply memOk_ite))

theorem scorePhase_memOk (l : Launch) (s0 : State) (h_s0 : s0.MemOk) : (scorePhase l s0).MemOk := by
  unfold scorePhase
  with_reducible repeat' (first
    | assumption | (intro _) | apply modD_memOk | apply chargeCtx_memOk | apply memOk_ite | split | dsimp only
    | (rw [memOk_mk]; apply memOk_wf; first | assumption | apply modD_memOk | apply chargeCtx_memOk | apply memOk_ite))

theorem startPhase_memOk (n : Nat) (ph : Byte) (s0 : State) (h_s0 : s0.MemOk) : (startPhase n ph s0).MemOk := by
  unfold startPhase
  with_reducible repeat' (first
    | assumption | (intro _) | apply after_memOk | apply memOk_foldl | apply chargeCtx_memOk | apply State.modL_memOk
    | apply memOk_ite | split | dsimp only
    | (rw [memOk_mk]; apply memOk_wf; first | assumption | apply after_memOk | apply memOk_foldl | apply chargeCtx_memOk | apply State.modL_memOk | apply memOk_ite))

theorem landPush_memOk (c : CoreId) (dl : Delivery) (s : State) (h_s : s.MemOk) : (landPush c dl s).MemOk := by
  unfold landPush
  with_reducible repeat' (first
    | assumption | (intro _) | apply modC_memOk | apply countPurged_memOk | apply State.modL_memOk | apply memOk_ite | split
    | dsimp only
    | (rw [memOk_mk]; apply memOk_wf; first | assumption | apply modC_memOk | apply countPurged_memOk | apply State.modL_memOk | apply memOk_ite))

theorem landPushes_memOk (c : CoreId) (p : Delivery → Bool) (s : State) (h_s : s.MemOk) : (landPushes c p s).MemOk := by
  unfold landPushes
  with_reducible repeat' (first
    | assumption | (intro _) | apply memOk_foldl | apply landPush_memOk | dsimp only)

theorem abandonHop_memOk (s : State) (o : HalOp) (h_s : s.MemOk) : (abandonHop s o).MemOk := by
  unfold abandonHop
  with_reducible repeat' (first
    | assumption | (intro _) | apply modD_memOk | apply memOk_ite | split | dsimp only
    | (rw [memOk_mk]; apply memOk_wf; first | assumption | apply modD_memOk | apply memOk_ite))

theorem abandonCore_memOk (c : CoreId) (s0 : State) (h_s0 : s0.MemOk) : (abandonCore c s0).MemOk := by
  unfold abandonCore
  with_reducible repeat' (first
    | assumption | (intro _) | apply modC_memOk | apply modD_memOk | apply memOk_foldl | apply landPushes_memOk
    | apply abandonHop_memOk | dsimp only
    | (rw [memOk_mk]; apply memOk_wf; first | assumption | apply modC_memOk | apply modD_memOk | apply memOk_foldl | apply landPushes_memOk | apply abandonHop_memOk))

theorem loseStaging_memOk (y : Isl) (s : State) (h_s : s.MemOk) : (loseStaging y s).MemOk := by
  unfold loseStaging
  with_reducible repeat' (first
    | assumption | (intro _) | apply wf_memWrs | apply wf_filter | apply trimShelf_memOk | exact memOk_wf ‹_› | dsimp only
    | (rw [memOk_mk]; first | apply wf_memWrs | apply wf_filter)
    | (rw [memOk_mk]; apply memOk_wf; first | assumption | apply trimShelf_memOk)
    | (apply memOk_wf; first | assumption | apply trimShelf_memOk))

theorem endLaunch_memOk (n : Nat) (st : LSt) (s : State) (h_s : s.MemOk) : (endLaunch n st s).MemOk := by
  unfold endLaunch
  with_reducible repeat' (first
    | assumption | (intro _) | apply modD_memOk | apply memOk_foldl | apply scorePhase_memOk | apply loseStaging_memOk
    | split | dsimp only
    | (rw [memOk_mk]; apply memOk_wf; first | assumption | apply modD_memOk | apply memOk_foldl | apply scorePhase_memOk | apply loseStaging_memOk))

theorem settleLaunch_memOk (n : Nat) (s : State) (h_s : s.MemOk) : (settleLaunch n s).MemOk := by
  unfold settleLaunch
  with_reducible repeat' (first
    | assumption | (intro _) | apply endLaunch_memOk | apply memOk_ite | split | dsimp only)

theorem requestPreempt_memOk (c : CoreId) (s : State) (h_s : s.MemOk) : (requestPreempt c s).MemOk := by
  unfold requestPreempt
  with_reducible repeat' (first
    | assumption | (intro _) | apply modC_memOk | apply memOk_ite | split | dsimp only
    | (rw [memOk_mk]; apply memOk_wf; first | assumption | apply modC_memOk | apply memOk_ite))

theorem preemptOverrun_memOk (s : State) (h_s : s.MemOk) : (preemptOverrun s).MemOk := by
  unfold preemptOverrun
  with_reducible repeat' (first
    | assumption | (intro _) | apply memOk_foldl | apply requestPreempt_memOk | apply memOk_ite | split | dsimp only)

theorem dispatch_memOk (s : State) (h_s : s.MemOk) : (dispatch s).MemOk := by
  unfold dispatch
  with_reducible repeat' (first
    | assumption | (intro _) | apply now_memOk | apply memOk_foldl | apply preemptOverrun_memOk | apply settleLaunch_memOk
    | apply memOk_ite | split | dsimp only)

theorem unbindCore_memOk (c : CoreId) (s : State) (h_s : s.MemOk) : (unbindCore c s).MemOk := by
  unfold unbindCore
  with_reducible repeat' (first
    | assumption | (intro _) | apply modC_memOk | apply accrue_memOk | apply held_memOk | apply endSamples_memOk
    | apply dispatch_memOk | apply planOverrun_memOk | split | dsimp only
    | (rw [memOk_mk]; apply memOk_wf; first | assumption | apply modC_memOk | apply accrue_memOk | apply held_memOk | apply endSamples_memOk | apply dispatch_memOk | apply planOverrun_memOk))

theorem purgeCore_memOk (c : CoreId) (s : State) (h_s : s.MemOk) : (purgeCore c s).MemOk := by
  unfold purgeCore
  with_reducible repeat' (first
    | assumption | (intro _) | apply modC_memOk | apply rollback_memOk | apply sendRec_memOk | apply unbindCore_memOk
    | apply abandonCore_memOk | apply State.modL_memOk | apply memOk_ite | split | dsimp only
    | (rw [memOk_mk]; apply memOk_wf; first | assumption | apply modC_memOk | apply rollback_memOk | apply sendRec_memOk | apply unbindCore_memOk | apply abandonCore_memOk | apply State.modL_memOk | apply memOk_ite))

theorem purgeSaved_memOk (cx : BitVec 7) (gone : List Saved) (s : State) (h_s : s.MemOk) : (purgeSaved cx gone s).MemOk := by
  unfold purgeSaved
  with_reducible repeat' (first
    | assumption | (intro _) | apply modD_memOk | dsimp only
    | (rw [memOk_mk]; apply memOk_wf; first | assumption | apply modD_memOk))

theorem startPurge_memOk (cx : BitVec 7) (p : BitVec 16) (by_ : Option (CoreId × Nat)) (rc : Option Rec) (s : State) (h_s : s.MemOk) : (startPurge cx p by_ rc s).MemOk := by
  unfold startPurge
  with_reducible repeat' (first
    | assumption | (intro _) | apply modI_memOk | apply modD_memOk | apply after_memOk | apply pick_memOk | apply memOk_foldl
    | apply sendRec_memOk | apply endLaunch_memOk | apply purgeSaved_memOk | apply purgeCore_memOk | apply countPurged_memOk
    | apply dispatch_memOk | apply memOk_ite | split | refine pick_pair_memOk (by assumption) ?_ | dsimp only
    | (rw [memOk_mk]; apply memOk_wf; first | assumption | apply modI_memOk | apply modD_memOk | apply after_memOk | apply pick_memOk | apply memOk_foldl | apply sendRec_memOk | apply endLaunch_memOk | apply purgeSaved_memOk | apply purgeCore_memOk | apply countPurged_memOk | apply dispatch_memOk | apply memOk_ite | refine pick_pair_memOk (by assumption) ?_))

theorem appendInitial_memOk (n : Nat) (s : State) (h_s : s.MemOk) : (appendInitial n s).MemOk := by
  unfold appendInitial
  with_reducible repeat' (first
    | assumption | (intro _) | apply memOk_foldl | apply endLaunch_memOk | apply startPurge_memOk | apply purgeCore_memOk
    | apply countPurged_memOk | apply State.modL_memOk | apply memOk_ite | split | dsimp only
    | (rw [memOk_mk]; apply memOk_wf; first | assumption | apply memOk_foldl | apply endLaunch_memOk | apply startPurge_memOk | apply purgeCore_memOk | apply countPurged_memOk | apply State.modL_memOk | apply memOk_ite))

theorem feed_memOk : ∀ (m n : Nat) (s : State), s.MemOk → (feed m n s).MemOk
  | 0, _, _, h => h
  | m + 1, n, s, h => feed_memOk m n _ (appendInitial_memOk n s h)

theorem execInitialItemAppend_memOk (s : State) (h_s : s.MemOk) : OutOk (execInitialItemAppend s) := by
  unfold execInitialItemAppend
  with_reducible repeat' (first
    | assumption | (intro _) | rw [outOk_next] | apply dispatch_memOk | apply appendInitial_memOk | dsimp only)

theorem enterRegions_memOk (n : Nat) (l : Launch) (s0 : State) (h_s0 : s0.MemOk) : (enterRegions n l s0).MemOk := by
  unfold enterRegions
  with_reducible repeat' (first
    | assumption | (intro _) | apply modI_memOk | apply modD_memOk | apply memOk_foldl | split | dsimp only
    | (rw [memOk_mk]; apply memOk_wf; first | assumption | apply modI_memOk | apply modD_memOk | apply memOk_foldl))

theorem clearBarriers_memOk (l : Launch) (s : State) (h_s : s.MemOk) : (clearBarriers l s).MemOk := by
  unfold clearBarriers
  with_reducible repeat' (first
    | assumption | (intro _) | apply modI_memOk | apply modD_memOk | apply memOk_foldl | apply memOk_ite | split | dsimp only
    | (rw [memOk_mk]; apply memOk_wf; first | assumption | apply modI_memOk | apply modD_memOk | apply memOk_foldl | apply memOk_ite))

theorem zeroCore_memOk (c : CoreId) (s : State) (h_s : s.MemOk) : (zeroCore c s).MemOk := by
  unfold zeroCore
  with_reducible repeat' (first
    | assumption | (intro _) | apply wf_memZero | apply cleanRange_memOk | exact memOk_wf ‹_› | dsimp only
    | (rw [memOk_mk]; first | apply wf_memZero) | (rw [memOk_mk]; apply memOk_wf; first | assumption | apply cleanRange_memOk)
    | (apply memOk_wf; first | assumption | apply cleanRange_memOk))

theorem loadImage_memOk (c : CoreId) (l : Launch) (t : Nat) (s : State) (h_s : s.MemOk) : (loadImage c l t s).MemOk := by
  unfold loadImage
  with_reducible repeat' (first
    | assumption | (intro _) | apply modC_memOk | apply memOk_foldl | apply memOk_ite | split | dsimp only
    | (rw [memOk_mk]; apply memOk_wf; first | assumption | apply modC_memOk | apply memOk_foldl | apply memOk_ite))

theorem bindRegs_memOk (c : CoreId) (n : Nat) (l : Launch) (t : Nat) (s : State) (h_s : s.MemOk) : (bindRegs c n l t s).MemOk := by
  unfold bindRegs
  with_reducible repeat' (first
    | assumption | (intro _) | apply modC_memOk | dsimp only
    | (rw [memOk_mk]; apply memOk_wf; first | assumption | apply modC_memOk))

theorem zeroReport_memOk (c : CoreId) (l : Launch) (s : State) (h_s : s.MemOk) : (zeroReport c l s).MemOk := by
  unfold zeroReport
  with_reducible repeat' (first
    | assumption | (intro _) | apply wf_memZero | apply markCells_memOk | exact memOk_wf ‹_› | dsimp only
    | (rw [memOk_mk]; first | apply wf_memZero) | (rw [memOk_mk]; apply memOk_wf; first | assumption | apply markCells_memOk)
    | (apply memOk_wf; first | assumption | apply markCells_memOk))

/-! Holdup. -/

theorem flogAppend_memOk (r : BitVec 256) (s : State) (h_s : s.MemOk) : (flogAppend r s).MemOk := by
  unfold flogAppend
  with_reducible repeat' (first
    | assumption | (intro _) | apply wf_memWrs | apply memOk_ite | exact memOk_wf ‹_› | split | dsimp only
    | (rw [memOk_mk]; first | apply wf_memWrs) | (rw [memOk_mk]; apply memOk_wf; first | assumption | apply memOk_ite)
    | (apply memOk_wf; first | assumption | apply memOk_ite))

theorem logErr_memOk (kind unit : Nat) (y : Isl) (val : W64) (rsn : Nat) (s : State) (h_s : s.MemOk) : (logErr kind unit y val rsn s).MemOk := by
  unfold logErr
  with_reducible repeat' (first
    | assumption | (intro _) | apply elogPut_memOk | apply flogAppend_memOk | apply memOk_ite | split | dsimp only)

theorem buildReport_memOk (s : State) (h_s : s.MemOk) : (buildReport s).MemOk := by
  unfold buildReport
  with_reducible repeat' (first
    | assumption | (intro _) | apply wf_memWrs | apply wf_memZero | apply wf_filter | apply memOk_ite | exact memOk_wf ‹_›
    | split | dsimp only | (rw [memOk_mk]; first | apply wf_memWrs | apply wf_memZero | apply wf_filter)
    | (rw [memOk_mk]; apply memOk_wf; first | assumption | apply memOk_ite)
    | (apply memOk_wf; first | assumption | apply memOk_ite))

theorem ctxWrite_memOk : ∀ (l : List Byte) (cx : BitVec 7) (va : Nat) (s : State), s.MemOk → (ctxWrite cx va l s).MemOk
  | [], _, _, _, h => h
  | _ :: l, cx, va, s, h => ctxWrite_memOk l cx (va + 1) _ (by split; exacts [keyWr_memOk _ _ _ _ _ h, h])

theorem ctxClean_memOk (cx : BitVec 7) (va n : Nat) (s : State) (h_s : s.MemOk) : (ctxClean cx va n s).MemOk := by
  unfold ctxClean
  with_reducible repeat' (first
    | assumption | (intro _) | apply markCells_memOk | dsimp only
    | (rw [memOk_mk]; apply memOk_wf; first | assumption | apply markCells_memOk))

theorem restoreSet_memOk (c : Option CoreId) (l : Launch) (s : State) (h_s : s.MemOk) : (restoreSet c l s).MemOk := by
  unfold restoreSet
  with_reducible repeat' (first
    | assumption | (intro _) | apply memOk_foldl | apply memOk_elim | apply wf_memWrs | apply wf_memZero | apply wf_filter
    | apply wf_foldl | apply markCells_memOk | apply cleanRange_memOk | apply ctxClean_memOk | apply ctxWrite_memOk
    | apply memOk_ite | exact memOk_wf ‹_› | split | dsimp only
    | (rw [memOk_mk]; first | apply wf_memWrs | apply wf_memZero | apply wf_filter | apply wf_foldl)
    | (rw [memOk_mk]; apply memOk_wf; first | assumption | apply memOk_foldl | apply memOk_elim | apply markCells_memOk | apply cleanRange_memOk | apply ctxClean_memOk | apply ctxWrite_memOk | apply memOk_ite)
    | (apply memOk_wf; first | assumption | apply memOk_foldl | apply memOk_elim | apply markCells_memOk | apply cleanRange_memOk | apply ctxClean_memOk | apply ctxWrite_memOk | apply memOk_ite))

theorem execSupplyLoss_memOk (s : State) (h_s : s.MemOk) : OutOk (execSupplyLoss s) := by
  unfold execSupplyLoss
  with_reducible repeat' (first
    | assumption | (intro _) | exact outOk_fault _ | rw [outOk_next] | apply modC_memOk | apply modD_memOk | apply after_memOk
    | apply memOk_foldl | apply rollback_memOk | apply modC_memOk | apply abandonCore_memOk | apply after_memOk
    | apply memOk_ite | split | dsimp only
    | (rw [memOk_mk]; apply memOk_wf; first | assumption | apply modC_memOk | apply modD_memOk | apply after_memOk | apply memOk_foldl | apply rollback_memOk | apply modC_memOk | apply abandonCore_memOk | apply after_memOk | apply memOk_ite))

theorem settleStores_memOk (c : CoreId) (p : Sto → Bool) (s : State) (h_s : s.MemOk) : (settleStores c p s).MemOk := by
  unfold settleStores
  with_reducible repeat' (first
    | assumption | (intro _) | apply modC_memOk | apply memOk_foldl | apply wf_memWrs | apply wf_filter | apply wf_foldl
    | apply keyWr_memOk | apply setDirty_memOk | apply modC_memOk | apply memOk_ite | exact memOk_wf ‹_› | split | dsimp only
    | (rw [memOk_mk]; first | apply wf_memWrs | apply wf_filter | apply wf_foldl)
    | (rw [memOk_mk]; apply memOk_wf; first | assumption | apply modC_memOk | apply memOk_foldl | apply keyWr_memOk | apply setDirty_memOk | apply modC_memOk | apply memOk_ite)
    | (apply memOk_wf; first | assumption | apply modC_memOk | apply memOk_foldl | apply keyWr_memOk | apply setDirty_memOk | apply modC_memOk | apply memOk_ite))

theorem launchAnswer_memOk (c : CoreId) (addr : W64) (s : State) (h_s : s.MemOk) : (launchAnswer c addr s).2.MemOk := by
  unfold launchAnswer
  with_reducible repeat' (first
    | assumption | (intro _) | apply takeRecord_memOk | split | refine takeRecord_pair_memOk (by assumption) ?_ | dsimp only
    | (rw [memOk_mk]; apply memOk_wf; first | assumption | apply takeRecord_memOk | refine takeRecord_pair_memOk (by assumption) ?_))

theorem launchAnswer_pair_memOk {c : CoreId} {addr : W64} {s : State} {t : State} {zz : W64} (h : (launchAnswer c addr s) = (zz, t)) (h_s : s.MemOk) : t.MemOk := by
  have := launchAnswer_memOk c addr s h_s
  rw [h] at this; exact this

theorem settleOp_memOk (c : CoreId) (s0 : State) (o : Cop) (h_s0 : s0.MemOk) : (settleOp c s0 o).MemOk := by
  unfold settleOp
  with_reducible repeat' (first
    | assumption | (intro _) | apply modC_memOk | apply modD_memOk | apply wf_memWrs | apply settleStores_memOk
    | apply keyWr_memOk | apply setDirty_memOk | apply arrive_memOk | apply launchAnswer_memOk | apply State.arrive_memOk
    | apply memOk_ite | exact memOk_wf ‹_› | split | refine launchAnswer_pair_memOk (by assumption) ?_ | dsimp only
    | (rw [memOk_mk]; first | apply wf_memWrs)
    | (rw [memOk_mk]; apply memOk_wf; first | assumption | apply modC_memOk | apply modD_memOk | apply settleStores_memOk | apply keyWr_memOk | apply setDirty_memOk | apply arrive_memOk | apply launchAnswer_memOk | apply State.arrive_memOk | apply memOk_ite | refine launchAnswer_pair_memOk (by assumption) ?_)
    | (apply memOk_wf; first | assumption | apply modC_memOk | apply modD_memOk | apply settleStores_memOk | apply keyWr_memOk | apply setDirty_memOk | apply arrive_memOk | apply launchAnswer_memOk | apply State.arrive_memOk | apply memOk_ite | refine launchAnswer_pair_memOk (by assumption) ?_))

theorem settleCore_memOk (s : State) (c : CoreId) (h_s : s.MemOk) : (settleCore s c).MemOk := by
  unfold settleCore
  with_reducible repeat' (first
    | assumption | (intro _) | apply modC_memOk | apply memOk_foldl | apply settleStores_memOk | apply settleOp_memOk
    | dsimp only
    | (rw [memOk_mk]; apply memOk_wf; first | assumption | apply modC_memOk | apply memOk_foldl | apply settleStores_memOk | apply settleOp_memOk))

theorem saveEntry_memOk (l : Launch) (hsq : Nat) (c : Option CoreId) (i : Nat) (e : MsvEnt) (a : State × Stream) (h : a.1.MemOk) :
    (saveEntry l hsq c i e a).1.MemOk := by
  obtain ⟨s, w⟩ := a
  have hs : s.MemOk := h
  unfold saveEntry
  dsimp only
  split
  · exact h
  · split
    · with_reducible apply memOk_withMem
      exact wf_memWrs _ hs
    · with_reducible apply memOk_ite
      · with_reducible apply modD_memOk
        with_reducible apply modD_memOk
        with_reducible apply memOk_withMem
        exact wf_memWrs _ hs
      · with_reducible apply modD_memOk
        with_reducible apply memOk_withMem
        exact wf_memWrs _ hs

theorem saveSets_memOk (l : Launch) (hsq : Nat) (c : Option CoreId) (es : List (Nat × MsvEnt)) : ∀ (b : State × Stream), b.1.MemOk →
    (es.foldl (fun a e => saveEntry l hsq c e.1 e.2 a) b).1.MemOk := by
  induction es with
  | nil => exact fun b hb => hb
  | cons e es ih => exact fun b hb => ih _ (saveEntry_memOk _ _ _ _ _ _ hb)

theorem execQuiesceEnd_memOk (s : State) (h_s : s.MemOk) : OutOk (execQuiesceEnd s) := by
  unfold execQuiesceEnd
  with_reducible repeat' (first
    | assumption | (intro _) | exact outOk_fault _ | rw [outOk_next] | apply modD_memOk | apply after_memOk | apply memOk_foldl
    | apply settleCore_memOk | apply memOk_ite | split | dsimp only
    | (rw [memOk_mk]; apply memOk_wf; first | assumption | apply modD_memOk | apply after_memOk | apply memOk_foldl | apply settleCore_memOk | apply memOk_ite))

theorem saveSet_memOk (a : State × Stream) (x : Nat × Launch) (h : a.1.MemOk) : (saveSet a x).1.MemOk := by
  obtain ⟨s, w⟩ := a
  have hs : s.MemOk := h
  unfold saveSet
  dsimp only
  with_reducible apply saveSets_memOk
  with_reducible apply modD_memOk
  with_reducible apply memOk_withMem
  exact wf_memWrs _ hs

theorem saveAll_memOk (es : List (Nat × Launch)) : ∀ (b : State × Stream), b.1.MemOk → (es.foldl saveSet b).1.MemOk := by
  induction es with
  | nil => exact fun b hb => hb
  | cons e es ih => exact fun b hb => ih _ (saveSet_memOk _ _ hb)

theorem execSaveEnd_memOk (s : State) (h_s : s.MemOk) : OutOk (execSaveEnd s) := by
  unfold execSaveEnd
  split
  · exact h_s
  · dsimp only
    rw [outOk_next]
    with_reducible apply after_memOk
    with_reducible apply modD_memOk
    with_reducible apply saveAll_memOk
    with_reducible apply modD_memOk
    with_reducible apply memOk_withMem
    with_reducible apply wf_memZero
    with_reducible apply wf_foldl
    · exact h_s
    · exact fun _ _ h => wf_memZero _ _ h

theorem execSealEnd_memOk (s : State) (h_s : s.MemOk) : OutOk (execSealEnd s) := by
  unfold execSealEnd
  split
  · exact h_s
  · dsimp only
    rw [outOk_next]
    with_reducible apply memOk_ite
    · with_reducible apply now_memOk
      with_reducible apply modD_memOk
      rw [memOk_mk]
      with_reducible apply wf_memWrs
      with_reducible apply wf_memZero
      exact h_s
    · with_reducible apply modD_memOk
      rw [memOk_mk]
      with_reducible apply wf_memWrs
      with_reducible apply wf_memZero
      exact h_s

theorem coldStart_memOk (s : State) (h_s : s.MemOk) : (coldStart s).MemOk := by
  unfold coldStart
  with_reducible repeat' (first
    | assumption | (intro _) | apply memOk_foldl | apply wf_filter | apply wf_foldl | exact memOk_wf ‹_› | split | dsimp only
    | (rw [memOk_mk]; first | apply wf_filter | apply wf_foldl)
    | (rw [memOk_mk]; apply memOk_wf; first | assumption | apply memOk_foldl)
    | (apply memOk_wf; first | assumption | apply memOk_foldl))

theorem scrubAt_memOk (lines line n : Nat) (s : State) (h_s : s.MemOk) : (scrubAt lines line n s).MemOk := by
  unfold scrubAt
  with_reducible repeat' (first
    | assumption | (intro _) | apply after_memOk | dsimp only
    | (rw [memOk_mk]; apply memOk_wf; first | assumption | apply after_memOk))

theorem scrubLpddr_memOk (n : Nat) (s : State) (h_s : s.MemOk) : (scrubLpddr n s).MemOk := by
  unfold scrubLpddr
  with_reducible repeat' (first
    | assumption | (intro _) | apply scrubAt_memOk | dsimp only
    | (rw [memOk_mk]; apply memOk_wf; first | assumption | apply scrubAt_memOk))

theorem nextScrub_memOk (line n : Nat) (s : State) (h_s : s.MemOk) : (nextScrub line n s).MemOk := by
  unfold nextScrub
  with_reducible repeat' (first
    | assumption | (intro _) | apply scrubAt_memOk | apply scrubLpddr_memOk | apply memOk_ite | split | dsimp only
    | (rw [memOk_mk]; apply memOk_wf; first | assumption | apply scrubAt_memOk | apply scrubLpddr_memOk | apply memOk_ite))

theorem startScrub_memOk (s : State) (h_s : s.MemOk) : (startScrub s).MemOk := by
  unfold startScrub
  with_reducible repeat' (first
    | assumption | (intro _) | apply memOk_foldl | apply scrubLpddr_memOk | apply scrubAt_memOk | apply memOk_ite | split
    | dsimp only
    | (rw [memOk_mk]; apply memOk_wf; first | assumption | apply memOk_foldl | apply scrubLpddr_memOk | apply scrubAt_memOk | apply memOk_ite))

theorem execPowerGood_memOk (s : State) (h_s : s.MemOk) : OutOk (execPowerGood s) := by
  unfold execPowerGood
  with_reducible repeat' (first
    | assumption | (intro _) | exact outOk_fault _ | rw [outOk_next] | apply modD_memOk | apply pick_memOk
    | apply coldStart_memOk | apply startScrub_memOk | apply memOk_ite | split | refine pick_pair_memOk (by assumption) ?_
    | dsimp only
    | (rw [memOk_mk]; apply memOk_wf; first | assumption | apply modD_memOk | apply pick_memOk | apply coldStart_memOk | apply startScrub_memOk | apply memOk_ite | refine pick_pair_memOk (by assumption) ?_))

theorem fenceFromLog_memOk (s : State) (h_s : s.MemOk) : (fenceFromLog s).MemOk := by
  unfold fenceFromLog
  with_reducible repeat' (first
    | assumption | (intro _) | apply modI_memOk | apply memOk_foldl | apply elogPut_memOk | apply memOk_ite | split
    | dsimp only
    | (rw [memOk_mk]; apply memOk_wf; first | assumption | apply modI_memOk | apply memOk_foldl | apply elogPut_memOk | apply memOk_ite))

theorem execHostConfigSpaceRead_memOk (s : State) (h_s : s.MemOk) : OutOk (execHostConfigSpaceRead s) := by
  unfold execHostConfigSpaceRead
  with_reducible repeat' (first
    | assumption | (intro _) | rw [outOk_next] | apply modD_memOk | apply pick_memOk | apply fenceFromLog_memOk
    | apply buildReport_memOk | apply logErr_memOk | apply memOk_ite | split | refine pick_pair_memOk (by assumption) ?_
    | dsimp only
    | (rw [memOk_mk]; apply memOk_wf; first | assumption | apply modD_memOk | apply pick_memOk | apply fenceFromLog_memOk | apply buildReport_memOk | apply logErr_memOk | apply memOk_ite | refine pick_pair_memOk (by assumption) ?_))

/-! MatrixUnit. -/

theorem accClear_memOk (c : CoreId) (a : BitVec 2) (s : State) (h_s : s.MemOk) : (accClear c a s).MemOk := by
  unfold accClear
  with_reducible repeat' (first
    | assumption | (intro _) | apply wf_memZero | exact memOk_wf ‹_› | dsimp only | (rw [memOk_mk]; first | apply wf_memZero)
    | (rw [memOk_mk]; apply memOk_wf; first | assumption) | (apply memOk_wf; first | assumption))

theorem noteSpans_memOk (c : CoreId) (l : List (Nat × Nat)) (s : State) (h_s : s.MemOk) : (noteSpans c l s).MemOk := by
  unfold noteSpans
  with_reducible repeat' (first
    | assumption | (intro _) | apply memOk_foldl | apply noteError_memOk | dsimp only
    | (rw [memOk_mk]; apply memOk_wf; first | assumption | apply memOk_foldl | apply noteError_memOk))

theorem macStep_memOk (c : CoreId) (r : Routine) (n : Nat) (sub : Bool) (s : State) (h_s : s.MemOk) : (macStep c r n sub s).1.MemOk := by
  unfold macStep
  with_reducible repeat' (first
    | assumption | (intro _) | apply modC_memOk | apply memOk_foldl | apply wf_memWrs | apply wf_foldl | apply memOk_ite
    | exact memOk_wf ‹_› | split | dsimp only | (rw [memOk_mk]; first | apply wf_memWrs | apply wf_foldl)
    | (rw [memOk_mk]; apply memOk_wf; first | assumption | apply modC_memOk | apply memOk_foldl | apply memOk_ite)
    | (apply memOk_wf; first | assumption | apply modC_memOk | apply memOk_foldl | apply memOk_ite))

theorem macStep_pair_memOk {c : CoreId} {r : Routine} {n : Nat} {sub : Bool} {s : State} {t : State} {zz : Byte} (h : (macStep c r n sub s) = (t, zz)) (h_s : s.MemOk) : t.MemOk := by
  have := macStep_memOk c r n sub s h_s
  rw [h] at this; exact this

theorem lloadRows_memOk (c : CoreId) (lat : BitVec 3) (d : W64) (s : State) (h_s : s.MemOk) : (lloadRows c lat d s).MemOk := by
  unfold lloadRows
  with_reducible repeat' (first
    | assumption | (intro _) | apply memOk_foldl | apply wf_memWrs | apply wf_memZero | apply wf_foldl | apply carryPoison_memOk
    | apply cleanRange_memOk | apply memOk_ite | exact memOk_wf ‹_› | split | dsimp only
    | (rw [memOk_mk]; first | apply wf_memWrs | apply wf_memZero | apply wf_foldl)
    | (rw [memOk_mk]; apply memOk_wf; first | assumption | apply memOk_foldl | apply carryPoison_memOk | apply cleanRange_memOk | apply memOk_ite)
    | (apply memOk_wf; first | assumption | apply memOk_foldl | apply carryPoison_memOk | apply cleanRange_memOk | apply memOk_ite))

theorem countCheck_memOk (c : CoreId) (o : BitVec 5) (fails : List Nat) (copy : Bool) (badr fadr : W64) (s : State) (h_s : s.MemOk) : (countCheck c o fails copy badr fadr s).MemOk := by
  unfold countCheck
  with_reducible repeat' (first
    | assumption | (intro _) | apply modC_memOk | apply eventRec_memOk | split | dsimp only
    | (rw [memOk_mk]; apply memOk_wf; first | assumption | apply modC_memOk | apply eventRec_memOk))

theorem drainBegin_memOk (c : CoreId) (o : MxOp) (x : DrainArgs) (a : BitVec 2) (ck clr : Bool) (s : State) (h_s : s.MemOk) : (drainBegin c o x a ck clr s).MemOk := by
  unfold drainBegin
  with_reducible repeat' (first
    | assumption | (intro _) | apply modC_memOk | apply memOk_foldl | apply wf_memZero | apply wf_foldl
    | apply countCheck_memOk | apply memOk_ite | exact memOk_wf ‹_› | split | dsimp only
    | (rw [memOk_mk]; first | apply wf_memZero | apply wf_foldl)
    | (rw [memOk_mk]; apply memOk_wf; first | assumption | apply modC_memOk | apply memOk_foldl | apply countCheck_memOk | apply memOk_ite)
    | (apply memOk_wf; first | assumption | apply modC_memOk | apply memOk_foldl | apply countCheck_memOk | apply memOk_ite))

theorem mxPortWait_memOk (c : CoreId) (m n : Nat) (s : State) (h_s : s.MemOk) : (mxPortWait c m n s).2.MemOk := by
  unfold mxPortWait
  with_reducible repeat' (first
    | assumption | (intro _) | apply pick_memOk | apply memOk_ite | split | refine pick_pair_memOk (by assumption) ?_
    | dsimp only
    | (rw [memOk_mk]; apply memOk_wf; first | assumption | apply pick_memOk | apply memOk_ite | refine pick_pair_memOk (by assumption) ?_))

theorem mxPortWait_pair_memOk {c : CoreId} {m n : Nat} {s : State} {t : State} {zz : Nat} (h : (mxPortWait c m n s) = (zz, t)) (h_s : s.MemOk) : t.MemOk := by
  have := mxPortWait_memOk c m n s h_s
  rw [h] at this; exact this

theorem takeBanks_memOk (c : CoreId) (banks : List Nat) (s : State) (h_s : s.MemOk) : (takeBanks c banks s).MemOk := by
  unfold takeBanks
  with_reducible repeat' (first
    | assumption | (intro _) | apply modC_memOk | dsimp only
    | (rw [memOk_mk]; apply memOk_wf; first | assumption | apply modC_memOk))

theorem latchBegin_memOk (c : CoreId) (s : State) (h_s : s.MemOk) : (latchBegin c s).MemOk := by
  unfold latchBegin
  with_reducible repeat' (first
    | assumption | (intro _) | apply modC_memOk | apply after_memOk | apply mxPortWait_memOk | apply after_memOk
    | apply memOk_ite | split | refine mxPortWait_pair_memOk (by assumption) ?_ | dsimp only
    | (rw [memOk_mk]; apply memOk_wf; first | assumption | apply modC_memOk | apply after_memOk | apply mxPortWait_memOk | apply after_memOk | apply memOk_ite | refine mxPortWait_pair_memOk (by assumption) ?_))

theorem drainPathBegin_memOk (c : CoreId) (s : State) (h_s : s.MemOk) : (drainPathBegin c s).MemOk := by
  unfold drainPathBegin
  with_reducible repeat' (first
    | assumption | (intro _) | apply modC_memOk | apply after_memOk | apply engineConsumes_memOk | apply noteSpans_memOk
    | apply drainBegin_memOk | apply mxPortWait_memOk | apply takeBanks_memOk | apply after_memOk | apply memOk_ite | split
    | refine mxPortWait_pair_memOk (by assumption) ?_ | dsimp only
    | (rw [memOk_mk]; apply memOk_wf; first | assumption | apply modC_memOk | apply after_memOk | apply engineConsumes_memOk | apply noteSpans_memOk | apply drainBegin_memOk | apply mxPortWait_memOk | apply takeBanks_memOk | apply after_memOk | apply memOk_ite | refine mxPortWait_pair_memOk (by assumption) ?_))

theorem endDrainPath_memOk (c : CoreId) (fl : Byte) (o : MxOp) (s : State) (h_s : s.MemOk) : (endDrainPath c fl o s).MemOk := by
  unfold endDrainPath
  with_reducible repeat' (first
    | assumption | (intro _) | apply modC_memOk | apply startMx_memOk | apply finishMx_memOk | dsimp only
    | (rw [memOk_mk]; apply memOk_wf; first | assumption | apply modC_memOk | apply startMx_memOk | apply finishMx_memOk))

theorem execLloadComplete_memOk (s : State) (h_s : s.MemOk) : OutOk (execLloadComplete s) := by
  unfold execLloadComplete
  with_reducible repeat' (first
    | assumption | (intro _) | exact outOk_fault _ | rw [outOk_next] | apply modC_memOk | apply after_memOk
    | apply lloadRows_memOk | apply modC_memOk | apply startMx_memOk | apply finishMx_memOk | apply memOk_ite | split
    | dsimp only
    | (rw [memOk_mk]; apply memOk_wf; first | assumption | apply modC_memOk | apply after_memOk | apply lloadRows_memOk | apply modC_memOk | apply startMx_memOk | apply finishMx_memOk | apply memOk_ite))

theorem execDrainComplete_memOk (s : State) (h_s : s.MemOk) : OutOk (execDrainComplete s) := by
  unfold execDrainComplete
  with_reducible repeat' (first
    | assumption | (intro _) | exact outOk_fault _ | rw [outOk_next] | apply after_memOk | apply wf_memWrs
    | apply endDrainPath_memOk | apply markCells_memOk | apply memOk_ite | exact memOk_wf ‹_› | split | dsimp only
    | (rw [memOk_mk]; first | apply wf_memWrs)
    | (rw [memOk_mk]; apply memOk_wf; first | assumption | apply after_memOk | apply endDrainPath_memOk | apply markCells_memOk | apply memOk_ite)
    | (apply memOk_wf; first | assumption | apply after_memOk | apply endDrainPath_memOk | apply markCells_memOk | apply memOk_ite))

theorem execEpicfgComplete_memOk (s : State) (h_s : s.MemOk) : OutOk (execEpicfgComplete s) := by
  unfold execEpicfgComplete
  with_reducible repeat' (first
    | assumption | (intro _) | rw [outOk_next] | apply endDrainPath_memOk | split | dsimp only)

theorem execCksnapComplete_memOk (s : State) (h_s : s.MemOk) : OutOk (execCksnapComplete s) := by
  unfold execCksnapComplete
  with_reducible repeat' (first
    | assumption | (intro _) | exact outOk_fault _ | rw [outOk_next] | apply after_memOk | apply wf_memWrs
    | apply endDrainPath_memOk | apply markCells_memOk | apply memOk_ite | exact memOk_wf ‹_› | split | dsimp only
    | (rw [memOk_mk]; first | apply wf_memWrs)
    | (rw [memOk_mk]; apply memOk_wf; first | assumption | apply after_memOk | apply endDrainPath_memOk | apply markCells_memOk | apply memOk_ite)
    | (apply memOk_wf; first | assumption | apply after_memOk | apply endDrainPath_memOk | apply markCells_memOk | apply memOk_ite))

theorem execRampWindow_memOk (s : State) (h_s : s.MemOk) : OutOk (execRampWindow s) := by
  unfold execRampWindow
  with_reducible repeat' (first
    | assumption | (intro _) | rw [outOk_next] | apply modC_memOk | apply memOk_ite | split | dsimp only
    | (rw [memOk_mk]; apply memOk_wf; first | assumption | apply modC_memOk | apply memOk_ite))

theorem execRampDown_memOk (s : State) (h_s : s.MemOk) : OutOk (execRampDown s) := by
  unfold execRampDown
  dsimp only
  split
  · split
    · exact traceEv_memOk _ _ _ _ _ (modC_memOk h_s)
    · exact traceEv_memOk _ _ _ _ _ (modD_memOk (modC_memOk (pickW_memOk h_s)))
  · exact h_s

theorem askSlot_memOk (y : Isl) (t : Nat) (s : State) (h_s : s.MemOk) : (askSlot y t s).MemOk := by
  unfold askSlot
  with_reducible repeat' (first
    | assumption | (intro _) | apply at_memOk | apply memOk_ite | split | dsimp only)

theorem execSlewGrantSlot_memOk (s : State) (h_s : s.MemOk) : OutOk (execSlewGrantSlot s) := by
  unfold execSlewGrantSlot
  with_reducible repeat' (first
    | assumption | (intro _) | rw [outOk_next] | apply modC_memOk | apply modI_memOk | apply after_memOk | apply memOk_foldl
    | apply traceEv_memOk | apply askSlot_memOk | apply memOk_ite | split | dsimp only
    | (rw [memOk_mk]; apply memOk_wf; first | assumption | apply modC_memOk | apply modI_memOk | apply after_memOk | apply memOk_foldl | apply traceEv_memOk | apply askSlot_memOk | apply memOk_ite))

theorem arrayBegin_memOk (c : CoreId) : ∀ (n : Nat) (s : State), s.MemOk → (arrayBegin c n s).MemOk := by
  intro n
  induction n with
  | zero => exact fun s h => h
  | succ n ih =>
    intro s h
    unfold arrayBegin
    dsimp only
    split
    · split
      · exact h
      · split
        · exact ih _ (modC_memOk (noteSpans_memOk _ _ _ (modC_memOk h)))
        · exact ih _ h
        · refine modC_memOk ?_
          split
          · exact accClear_memOk _ _ _ h
          · exact h
        · exact h
        · exact h
    · exact h

theorem leaveArray_memOk (c : CoreId) (o : MxOp) (fl : Byte) (n : Nat) (i : Instr) (s : State) (h_s : s.MemOk) : (leaveArray c o fl n i s).MemOk := by
  unfold leaveArray
  with_reducible repeat' (first
    | assumption | (intro _) | apply modC_memOk | apply after_memOk | dsimp only
    | (rw [memOk_mk]; apply memOk_wf; first | assumption | apply modC_memOk | apply after_memOk))

theorem arrayCycle_memOk (c : CoreId) (s : State) (h_s : s.MemOk) : (arrayCycle c s).MemOk := by
  unfold arrayCycle
  with_reducible repeat' (first
    | assumption | (intro _) | apply modC_memOk | apply after_memOk | apply accClear_memOk | apply leaveArray_memOk
    | apply memOk_ite | split | dsimp only
    | (rw [memOk_mk]; apply memOk_wf; first | assumption | apply modC_memOk | apply after_memOk | apply accClear_memOk | apply leaveArray_memOk | apply memOk_ite))

theorem scaleCycle_memOk (c : CoreId) (s : State) (h_s : s.MemOk) : (scaleCycle c s).MemOk := by
  unfold scaleCycle
  with_reducible repeat' (first
    | assumption | (intro _) | apply modC_memOk | apply after_memOk | apply noteSpans_memOk | apply memOk_ite | split
    | dsimp only
    | (rw [memOk_mk]; apply memOk_wf; first | assumption | apply modC_memOk | apply after_memOk | apply noteSpans_memOk | apply memOk_ite))

theorem moveArray_memOk (c : CoreId) (s : State) (h_s : s.MemOk) : (moveArray c s).MemOk := by
  unfold moveArray
  with_reducible repeat' (first
    | assumption | (intro _) | apply arrayCycle_memOk | apply scaleCycle_memOk | dsimp only)

theorem holdArray_memOk (c : CoreId) (s : State) (h_s : s.MemOk) : (holdArray c s).MemOk := by
  unfold holdArray
  with_reducible repeat' (first
    | assumption | (intro _) | apply modC_memOk | apply memOk_ite | split | dsimp only
    | (rw [memOk_mk]; apply memOk_wf; first | assumption | apply modC_memOk | apply memOk_ite))

theorem arrayPhase_memOk (c : CoreId) (s : State) (h_s : s.MemOk) : (arrayPhase c s).MemOk := by
  unfold arrayPhase
  with_reducible repeat' (first
    | assumption | (intro _) | apply modC_memOk | apply after_memOk | apply now_memOk | apply moveArray_memOk
    | apply holdArray_memOk | apply askSlot_memOk | apply memOk_ite | split | dsimp only
    | (rw [memOk_mk]; apply memOk_wf; first | assumption | apply modC_memOk | apply after_memOk | apply now_memOk | apply moveArray_memOk | apply holdArray_memOk | apply askSlot_memOk | apply memOk_ite))

theorem matrixCycle_memOk (c : CoreId) (s : State) (h_s : s.MemOk) : (matrixCycle c s).MemOk := by
  unfold matrixCycle
  with_reducible repeat' (first
    | assumption | (intro _) | apply modC_memOk | apply after_memOk | apply now_memOk | apply arrayBegin_memOk
    | apply drainPathBegin_memOk | apply latchBegin_memOk | apply classUp_memOk | apply charge_memOk | apply memOk_ite
    | split | dsimp only
    | (rw [memOk_mk]; apply memOk_wf; first | assumption | apply modC_memOk | apply after_memOk | apply now_memOk | apply arrayBegin_memOk | apply drainPathBegin_memOk | apply latchBegin_memOk | apply classUp_memOk | apply charge_memOk | apply memOk_ite))

/-! Launch. -/

theorem performLaunch_memOk (c : CoreId) (o : Cop) (addr : W64) (s : State) (h_s : s.MemOk) : (performLaunch c o addr s).MemOk := by
  unfold performLaunch
  with_reducible repeat' (first
    | assumption | (intro _) | apply retryCop_memOk | apply launchAnswer_memOk | apply dispatch_memOk | apply finishCop_memOk
    | apply memOk_ite | split | refine launchAnswer_pair_memOk (by assumption) ?_ | dsimp only
    | (rw [memOk_mk]; apply memOk_wf; first | assumption | apply retryCop_memOk | apply launchAnswer_memOk | apply dispatch_memOk | apply finishCop_memOk | apply memOk_ite | refine launchAnswer_pair_memOk (by assumption) ?_))

theorem performLpoll_memOk (c : CoreId) (o : Cop) (h : BitVec 32) (s : State) (h_s : s.MemOk) : (performLpoll c o h s).MemOk := by
  unfold performLpoll
  with_reducible repeat' (first
    | assumption | (intro _) | apply finishCop_memOk | dsimp only)

theorem execHostLaunchTrigger_memOk (s : State) (h_s : s.MemOk) : OutOk (execHostLaunchTrigger s) := by
  unfold execHostLaunchTrigger
  with_reducible repeat' (first
    | assumption | (intro _) | rw [outOk_next] | apply modD_memOk | apply after_memOk | apply pick_memOk | apply wf_memWr
    | apply takeRecord_memOk | apply dispatch_memOk | apply memOk_ite | exact memOk_wf ‹_› | split
    | refine pick_pair_memOk (by assumption) ?_ | refine takeRecord_pair_memOk (by assumption) ?_ | dsimp only
    | (rw [memOk_mk]; first | apply wf_memWr)
    | (rw [memOk_mk]; apply memOk_wf; first | assumption | apply modD_memOk | apply after_memOk | apply pick_memOk | apply takeRecord_memOk | apply dispatch_memOk | apply memOk_ite | refine pick_pair_memOk (by assumption) ?_ | refine takeRecord_pair_memOk (by assumption) ?_)
    | (apply memOk_wf; first | assumption | apply modD_memOk | apply after_memOk | apply pick_memOk | apply takeRecord_memOk | apply dispatch_memOk | apply memOk_ite | refine pick_pair_memOk (by assumption) ?_ | refine takeRecord_pair_memOk (by assumption) ?_))

theorem execLaunchStatusWrite_memOk (s : State) (h_s : s.MemOk) : OutOk (execLaunchStatusWrite s) := by
  unfold execLaunchStatusWrite
  with_reducible repeat' (first
    | assumption | (intro _) | rw [outOk_next] | apply modD_memOk | apply wf_memWrs | apply wf_memWr | apply memOk_ite
    | exact memOk_wf ‹_› | split | dsimp only | (rw [memOk_mk]; first | apply wf_memWrs | apply wf_memWr)
    | (rw [memOk_mk]; apply memOk_wf; first | assumption | apply modD_memOk | apply memOk_ite)
    | (apply memOk_wf; first | assumption | apply modD_memOk | apply memOk_ite))

theorem walkLines_memOk (c : CoreId) (n : Nat) : ∀ (va : Nat) (s : State), s.MemOk → (walkLines c n va s).MemOk := by
  induction n with
  | zero => exact fun _ _ h => h
  | succ n ih =>
    intro va s h
    unfold walkLines
    split
    · exact h
    · rename_i h1
      have h2 := needLine_memOk h1 h
      split
      · exact h2
      · rename_i h3
        exact ih _ _ (bundleLen_memOk h3 h2)

theorem walkBody_memOk (c : CoreId) (i : Option Instr) (nxt : Nat) (s : State) (h_s : s.MemOk) : (walkBody c i nxt s).MemOk := by
  unfold walkBody
  with_reducible repeat' (first
    | assumption | (intro _) | apply walkLines_memOk | apply memOk_ite | split | dsimp only
    | (rw [memOk_mk]; apply memOk_wf; first | assumption | apply walkLines_memOk | apply memOk_ite))

theorem fillCode_memOk (c : CoreId) (old : List FetchLine) (s : State) (h_s : s.MemOk) : (fillCode c old s).MemOk := by
  unfold fillCode
  with_reducible repeat' (first
    | assumption | (intro _) | apply memOk_foldl | apply touchLine_memOk | split | dsimp only
    | (rw [memOk_mk]; apply memOk_wf; first | assumption | apply memOk_foldl | apply touchLine_memOk))

theorem fetchFirst_memOk (c : CoreId) (s : State) (h_s : s.MemOk) : (fetchFirst c s).MemOk := by
  unfold fetchFirst
  with_reducible repeat' (first
    | assumption | (intro _) | apply fillCode_memOk | apply walkBody_memOk | split | refine fetchBundle_memOk (by assumption) ?_
    | dsimp only
    | (rw [memOk_mk]; apply memOk_wf; first | assumption | apply fillCode_memOk | apply walkBody_memOk | refine fetchBundle_memOk (by assumption) ?_))

theorem firstEdge_memOk (c : CoreId) (dt : Nat) (s : State) (h_s : s.MemOk) : (firstEdge c dt s).MemOk := by
  unfold firstEdge
  with_reducible repeat' (first
    | assumption | (intro _) | apply modC_memOk | apply at_memOk | apply classUp_memOk | apply modC_memOk | apply memOk_ite
    | split | dsimp only
    | (rw [memOk_mk]; apply memOk_wf; first | assumption | apply modC_memOk | apply at_memOk | apply classUp_memOk | apply modC_memOk | apply memOk_ite))

theorem restoreMarks_memOk (c : CoreId) (e : Saved) (s : State) (h_s : s.MemOk) : (restoreMarks c e s).MemOk := by
  unfold restoreMarks
  with_reducible repeat' (first
    | assumption | (intro _) | apply modC_memOk | dsimp only
    | (rw [memOk_mk]; apply memOk_wf; first | assumption | apply modC_memOk))

theorem bindCore_memOk (c : CoreId) (n : Nat) (l : Launch) (t : Nat) (s : State) (h_s : s.MemOk) : (bindCore c n l t s).MemOk := by
  unfold bindCore
  with_reducible repeat' (first
    | assumption | (intro _) | apply modC_memOk | apply modD_memOk | apply pick_memOk | apply accrue_memOk
    | apply zeroCore_memOk | apply loadImage_memOk | apply bindRegs_memOk | apply restoreMarks_memOk | apply restoreSlot_memOk
    | apply modD_memOk | apply chargeCtx_memOk | apply pick_memOk | apply trimShelf_memOk | apply planOverrun_memOk
    | apply firstEdge_memOk | apply fetchFirst_memOk | apply memOk_ite | split | refine pick_pair_memOk (by assumption) ?_
    | refine pick_pair_memOk (by assumption) ?_ | dsimp only
    | (rw [memOk_mk]; apply memOk_wf; first | assumption | apply modC_memOk | apply modD_memOk | apply pick_memOk | apply accrue_memOk | apply zeroCore_memOk | apply loadImage_memOk | apply bindRegs_memOk | apply restoreMarks_memOk | apply restoreSlot_memOk | apply modD_memOk | apply chargeCtx_memOk | apply pick_memOk | apply trimShelf_memOk | apply planOverrun_memOk | apply firstEdge_memOk | apply fetchFirst_memOk | apply memOk_ite | refine pick_pair_memOk (by assumption) ?_ | refine pick_pair_memOk (by assumption) ?_))

theorem execBind_memOk (s : State) (h_s : s.MemOk) : OutOk (execBind s) := by
  unfold execBind
  with_reducible repeat' (first
    | assumption | (intro _) | rw [outOk_next] | apply dispatch_memOk | apply bindCore_memOk | apply memOk_ite | split
    | dsimp only)

theorem startSet_memOk (c : Option CoreId) (l : Launch) (s : State) (h_s : s.MemOk) : (startSet c l s).MemOk := by
  unfold startSet
  with_reducible repeat' (first
    | assumption | (intro _) | apply restoreSet_memOk | apply zeroReport_memOk | apply memOk_ite | split | dsimp only)

theorem execLaunchStart_memOk (s : State) (h_s : s.MemOk) : OutOk (execLaunchStart s) := by
  unfold execLaunchStart
  with_reducible repeat' (first
    | assumption | (intro _) | exact outOk_fault _ | rw [outOk_next] | apply memOk_foldl | apply clearBarriers_memOk
    | apply enterRegions_memOk | apply feed_memOk | apply dispatch_memOk | apply startSet_memOk | apply bindCore_memOk
    | apply startPhase_memOk | apply trimShelf_memOk | apply State.modL_memOk | apply memOk_ite | split | dsimp only
    | (rw [memOk_mk]; apply memOk_wf; first | assumption | apply memOk_foldl | apply clearBarriers_memOk | apply enterRegions_memOk | apply feed_memOk | apply dispatch_memOk | apply startSet_memOk | apply bindCore_memOk | apply startPhase_memOk | apply trimShelf_memOk | apply State.modL_memOk | apply memOk_ite))

theorem State.modQ_memOk (s : State) (q : BitVec 8) (f : SchedQ → SchedQ) (h_s : s.MemOk) : (State.modQ s q f).MemOk := by
  unfold State.modQ
  with_reducible repeat' (first
    | assumption | (intro _) | apply modD_memOk | dsimp only
    | (rw [memOk_mk]; apply memOk_wf; first | assumption | apply modD_memOk))

theorem startPeriods_memOk (q : BitVec 8) (s : State) (h_s : s.MemOk) : (startPeriods q s).MemOk := by
  unfold startPeriods
  with_reducible repeat' (first
    | assumption | (intro _) | apply modC_memOk | apply after_memOk | apply memOk_foldl | apply planOverrun_memOk
    | apply State.modQ_memOk | apply memOk_ite | split | dsimp only
    | (rw [memOk_mk]; apply memOk_wf; first | assumption | apply modC_memOk | apply after_memOk | apply memOk_foldl | apply planOverrun_memOk | apply State.modQ_memOk | apply memOk_ite))

theorem execQctlWrite_memOk (s : State) (h_s : s.MemOk) : OutOk (execQctlWrite s) := by
  unfold execQctlWrite
  with_reducible repeat' (first
    | assumption | (intro _) | rw [outOk_next] | apply accrue_memOk | apply dispatch_memOk | apply startPeriods_memOk
    | apply State.modQ_memOk | apply memOk_ite | split | dsimp only
    | (rw [memOk_mk]; apply memOk_wf; first | assumption | apply accrue_memOk | apply dispatch_memOk | apply startPeriods_memOk | apply State.modQ_memOk | apply memOk_ite))

theorem perBudWrite_memOk (q : BitVec 8) (per bud : Nat) (s : State) (h_s : s.MemOk) : (perBudWrite q per bud s).MemOk := by
  unfold perBudWrite
  with_reducible repeat' (first
    | assumption | (intro _) | apply modD_memOk | apply startPeriods_memOk | apply State.modQ_memOk | apply memOk_ite | split
    | dsimp only
    | (rw [memOk_mk]; apply memOk_wf; first | assumption | apply modD_memOk | apply startPeriods_memOk | apply State.modQ_memOk | apply memOk_ite))

theorem execQperWrite_memOk (s : State) (h_s : s.MemOk) : OutOk (execQperWrite s) := by
  unfold execQperWrite
  with_reducible repeat' (first
    | assumption | (intro _) | rw [outOk_next] | apply dispatch_memOk | apply perBudWrite_memOk | dsimp only)

theorem execQbudWrite_memOk (s : State) (h_s : s.MemOk) : OutOk (execQbudWrite s) := by
  unfold execQbudWrite
  with_reducible repeat' (first
    | assumption | (intro _) | rw [outOk_next] | apply dispatch_memOk | apply perBudWrite_memOk | dsimp only)

theorem execPeriodBoundary_memOk (s : State) (h_s : s.MemOk) : OutOk (execPeriodBoundary s) := by
  unfold execPeriodBoundary
  with_reducible repeat' (first
    | assumption | (intro _) | rw [outOk_next] | apply modC_memOk | apply after_memOk | apply memOk_foldl
    | apply dispatch_memOk | apply planOverrun_memOk | apply State.modQ_memOk | apply memOk_ite | split | dsimp only
    | (rw [memOk_mk]; apply memOk_wf; first | assumption | apply modC_memOk | apply after_memOk | apply memOk_foldl | apply dispatch_memOk | apply planOverrun_memOk | apply State.modQ_memOk | apply memOk_ite))

theorem execPreemptionRequest_memOk (s : State) (h_s : s.MemOk) : OutOk (execPreemptionRequest s) := by
  unfold execPreemptionRequest
  with_reducible repeat' (first
    | assumption | (intro _) | rw [outOk_next] | apply requestPreempt_memOk | dsimp only)

theorem execPreemptionSaveDone_memOk (s : State) (h_s : s.MemOk) : OutOk (execPreemptionSaveDone s) := by
  unfold execPreemptionSaveDone
  with_reducible repeat' (first
    | assumption | (intro _) | rw [outOk_next] | apply modC_memOk | apply modD_memOk | apply saveSlot_memOk
    | apply chargeCtx_memOk | apply unbindCore_memOk | apply startEdges_memOk | apply memOk_ite | split | dsimp only
    | (rw [memOk_mk]; apply memOk_wf; first | assumption | apply modC_memOk | apply modD_memOk | apply saveSlot_memOk | apply chargeCtx_memOk | apply unbindCore_memOk | apply startEdges_memOk | apply memOk_ite))

theorem execBudgetOverrun_memOk (s0 : State) (h_s0 : s0.MemOk) : OutOk (execBudgetOverrun s0) := by
  unfold execBudgetOverrun
  with_reducible repeat' (first
    | assumption | (intro _) | rw [outOk_next] | apply memOk_foldl | apply accrue_memOk | apply eventRec_memOk
    | apply dispatch_memOk | apply State.modQ_memOk | apply memOk_ite | split | dsimp only
    | (rw [memOk_mk]; apply memOk_wf; first | assumption | apply memOk_foldl | apply accrue_memOk | apply eventRec_memOk | apply dispatch_memOk | apply State.modQ_memOk | apply memOk_ite))

theorem execPurgeComplete_memOk (s : State) (h_s : s.MemOk) : OutOk (execPurgeComplete s) := by
  unfold execPurgeComplete
  with_reducible repeat' (first
    | assumption | (intro _) | rw [outOk_next] | apply modD_memOk | apply after_memOk | apply pick_memOk | apply memOk_foldl
    | apply sendRec_memOk | apply finishCop_memOk | apply dispatch_memOk | apply memOk_ite | split
    | refine pick_pair_memOk (by assumption) ?_ | dsimp only
    | (rw [memOk_mk]; apply memOk_wf; first | assumption | apply modD_memOk | apply after_memOk | apply pick_memOk | apply memOk_foldl | apply sendRec_memOk | apply finishCop_memOk | apply dispatch_memOk | apply memOk_ite | refine pick_pair_memOk (by assumption) ?_))

/-! Halyard. -/

theorem halIssue_memOk (op : Nat) (hoist : Bool) (d a b : BitVec 6) (sp : BitVec 2) (t : Toks) (s : State) (h_s : s.MemOk) : (halIssue op hoist d a b sp t s).MemOk := by
  unfold halIssue
  with_reducible repeat' (first
    | assumption | (intro _) | apply modD_memOk | apply modMe_memOk | apply at_memOk | apply illegal_memOk
    | apply takeTrap_memOk | apply tokenTrap_memOk | apply memOk_ite | split | dsimp only
    | (rw [memOk_mk]; apply memOk_wf; first | assumption | apply modD_memOk | apply modMe_memOk | apply at_memOk | apply illegal_memOk | apply takeTrap_memOk | apply tokenTrap_memOk | apply memOk_ite))

theorem execHoist_memOk (g : Guard) (d a b : BitVec 6) (sp : BitVec 2) (tp ta tb tc : BitVec 6) (s : State) (h_s : s.MemOk) : OutOk (execHoist g d a b sp tp ta tb tc s) := by
  unfold execHoist
  with_reducible repeat' (first
    | assumption | (intro _) | rw [outOk_next] | apply guarded_memOk | apply halIssue_memOk | dsimp only)

theorem execSight_memOk (g : Guard) (d a b : BitVec 6) (sp : BitVec 2) (tp ta tb tc : BitVec 6) (s : State) (h_s : s.MemOk) : OutOk (execSight g d a b sp tp ta tb tc s) := by
  unfold execSight
  with_reducible repeat' (first
    | assumption | (intro _) | rw [outOk_next] | apply guarded_memOk | apply halIssue_memOk | dsimp only)

theorem execHrnd_memOk (g : Guard) (d a : BitVec 6) (s : State) (h_s : s.MemOk) : OutOk (execHrnd g d a s) := by
  unfold execHrnd
  with_reducible repeat' (first
    | assumption | (intro _) | rw [outOk_next] | apply guarded_memOk | apply illegal_memOk | apply takeTrap_memOk
    | apply toS_memOk | apply memOk_ite | split | dsimp only)

theorem State.modHop_memOk (s : State) (id : Nat) (f : HalOp → HalOp) (h_s : s.MemOk) : (State.modHop s id f).MemOk := by
  unfold State.modHop
  with_reducible repeat' (first
    | assumption | (intro _) | apply modD_memOk | apply memOk_ite | split | dsimp only
    | (rw [memOk_mk]; apply memOk_wf; first | assumption | apply modD_memOk | apply memOk_ite))

theorem State.modHal_memOk (s : State) (h : Nat) (f : Halyard → Halyard) (h_s : s.MemOk) : (State.modHal s h f).MemOk := by
  unfold State.modHal
  with_reducible repeat' (first
    | assumption | (intro _) | apply modD_memOk | split | dsimp only
    | (rw [memOk_mk]; apply memOk_wf; first | assumption | apply modD_memOk))

theorem halDeliver_memOk (o : HalOp) (t : Nat) (v : W64) (s : State) (h_s : s.MemOk) : (halDeliver o t v s).MemOk := by
  unfold halDeliver
  with_reducible repeat' (first
    | assumption | (intro _) | apply modC_memOk | dsimp only)

theorem execHoistSlotTake_memOk (s : State) (h_s : s.MemOk) : OutOk (execHoistSlotTake s) := by
  unfold execHoistSlotTake
  with_reducible repeat' (first
    | assumption | (intro _) | rw [outOk_next] | apply after_memOk | apply halDeliver_memOk | apply State.modHop_memOk
    | apply State.modHal_memOk | apply memOk_ite | split | dsimp only
    | (rw [memOk_mk]; apply memOk_wf; first | assumption | apply after_memOk | apply halDeliver_memOk | apply State.modHop_memOk | apply State.modHal_memOk | apply memOk_ite))

theorem fillSlot_memOk (o : HalOp) (x : Halyard) (i : Nat) (s : State) (h_s : s.MemOk) : (fillSlot o x i s).MemOk := by
  unfold fillSlot
  with_reducible repeat' (first
    | assumption | (intro _) | apply wf_memWrs | apply markWritten_memOk | exact memOk_wf ‹_› | dsimp only
    | (rw [memOk_mk]; first | apply wf_memWrs) | (rw [memOk_mk]; apply memOk_wf; first | assumption | apply markWritten_memOk)
    | (apply memOk_wf; first | assumption | apply markWritten_memOk))

theorem execHoistLand_memOk (s : State) (h_s : s.MemOk) : OutOk (execHoistLand s) := by
  unfold execHoistLand
  with_reducible repeat' (first
    | assumption | (intro _) | rw [outOk_next] | apply after_memOk | apply fillSlot_memOk | apply State.modHal_memOk
    | apply memOk_elim | apply memOk_ite | split | dsimp only
    | (rw [memOk_mk]; apply memOk_wf; first | assumption | apply after_memOk | apply fillSlot_memOk | apply State.modHal_memOk | apply memOk_elim | apply memOk_ite))

theorem execSightPoint_memOk (s : State) (h_s : s.MemOk) : OutOk (execSightPoint s) := by
  unfold execSightPoint
  with_reducible repeat' (first
    | assumption | (intro _) | rw [outOk_next] | apply after_memOk | apply halDeliver_memOk | apply State.modHop_memOk
    | apply State.modHal_memOk | apply memOk_ite | split | dsimp only
    | (rw [memOk_mk]; apply memOk_wf; first | assumption | apply after_memOk | apply halDeliver_memOk | apply State.modHop_memOk | apply State.modHal_memOk | apply memOk_ite))

theorem execSightRelease_memOk (s : State) (h_s : s.MemOk) : OutOk (execSightRelease s) := by
  unfold execSightRelease
  with_reducible repeat' (first
    | assumption | (intro _) | rw [outOk_next] | apply State.modHal_memOk | split | dsimp only
    | (rw [memOk_mk]; apply memOk_wf; first | assumption | apply State.modHal_memOk))

theorem execHalyardTokenComplete_memOk (s : State) (h_s : s.MemOk) : OutOk (execHalyardTokenComplete s) := by
  unfold execHalyardTokenComplete
  with_reducible repeat' (first
    | assumption | (intro _) | rw [outOk_next] | apply modC_memOk | apply modD_memOk | split | dsimp only
    | (rw [memOk_mk]; apply memOk_wf; first | assumption | apply modC_memOk | apply modD_memOk))

theorem noPage_memOk (c : CoreId) (va : Nat) (ro : Bool) (badr dtl : W64) (s : State) (h_s : s.MemOk) : (noPage c va ro badr dtl s).MemOk := by
  unfold noPage
  with_reducible repeat' (first
    | assumption | (intro _) | apply modC_memOk | apply eventRec_memOk | apply memOk_ite | split | dsimp only
    | (rw [memOk_mk]; apply memOk_wf; first | assumption | apply modC_memOk | apply eventRec_memOk | apply memOk_ite))

theorem writeByte_memOk (c : CoreId) (glob : Bool) (key : Nat) (b : Byte) (s : State) (h_s : s.MemOk) : (writeByte c glob key b s).MemOk := by
  unfold writeByte
  with_reducible repeat' (first
    | assumption | (intro _) | apply modI_memOk | apply wf_memWr | apply keyWr_memOk | apply memOk_ite | exact memOk_wf ‹_›
    | split | dsimp only | (rw [memOk_mk]; first | apply wf_memWr)
    | (rw [memOk_mk]; apply memOk_wf; first | assumption | apply modI_memOk | apply keyWr_memOk | apply memOk_ite)
    | (apply memOk_wf; first | assumption | apply modI_memOk | apply keyWr_memOk | apply memOk_ite))

theorem engineWrite_memOk (c : CoreId) (sp : Sp) (va key : Nat) (bs : List Byte) (s : State) (h_s : s.MemOk) : (engineWrite c sp va key bs s).MemOk := by
  unfold engineWrite
  with_reducible repeat' (first
    | assumption | (intro _) | apply memOk_foldl | apply wf_memWrs | apply wf_foldl | apply setDirty_memOk
    | apply writeByte_memOk | exact memOk_wf ‹_› | split | dsimp only
    | (rw [memOk_mk]; first | apply wf_memWrs | apply wf_foldl)
    | (rw [memOk_mk]; apply memOk_wf; first | assumption | apply memOk_foldl | apply setDirty_memOk | apply writeByte_memOk)
    | (apply memOk_wf; first | assumption | apply memOk_foldl | apply setDirty_memOk | apply writeByte_memOk))

theorem tileBytes_memOk (o : HalOp) (x : Halyard) (d : Nat) (s : State) (h_s : s.MemOk) : (tileBytes o x d s).2.MemOk := by
  unfold tileBytes
  with_reducible repeat' (first
    | assumption | (intro _) | apply pick_memOk | apply memOk_ite | split | refine pick_pair_memOk (by assumption) ?_
    | dsimp only)

theorem tileBytes_pair_memOk {o : HalOp} {x : Halyard} {d : Nat} {s : State} {t : State} {zz : Nat} (h : (tileBytes o x d s) = (zz, t)) (h_s : s.MemOk) : t.MemOk := by
  have := tileBytes_memOk o x d s h_s
  rw [h] at this; exact this

theorem globalLate_memOk (o : HalOp) (s : State) (h_s : s.MemOk) : (globalLate o s).2.MemOk := by
  unfold globalLate
  with_reducible repeat' (first
    | assumption | (intro _) | apply pick_memOk | split | refine pick_pair_memOk (by assumption) ?_ | dsimp only)

theorem globalLate_pair_memOk {o : HalOp} {s : State} {t : State} {zz : Nat} (h : (globalLate o s) = (zz, t)) (h_s : s.MemOk) : t.MemOk := by
  have := globalLate_memOk o s h_s
  rw [h] at this; exact this

theorem tileDone_memOk (o : HalOp) (x : Halyard) (d : Nat) (s : State) (h_s : s.MemOk) : (tileDone o x d s).MemOk := by
  unfold tileDone
  with_reducible repeat' (first
    | assumption | (intro _) | apply at_memOk | apply globalLate_memOk | apply memOk_ite | split
    | refine globalLate_pair_memOk (by assumption) ?_ | dsimp only
    | (rw [memOk_mk]; apply memOk_wf; first | assumption | apply at_memOk | apply globalLate_memOk | apply memOk_ite | refine globalLate_pair_memOk (by assumption) ?_))

theorem tileLines_memOk (o : HalOp) (n key : Nat) (s : State) (h_s : s.MemOk) : (tileLines o n key s).MemOk := by
  unfold tileLines
  with_reducible repeat' (first
    | assumption | (intro _) | apply memOk_foldl | apply touchLine_memOk | apply memOk_ite | split | dsimp only
    | (rw [memOk_mk]; apply memOk_wf; first | assumption | apply memOk_foldl | apply touchLine_memOk | apply memOk_ite))

theorem tileHost_memOk (o : HalOp) (key : Nat) (s : State) (h_s : s.MemOk) : (tileHost o key s).2.MemOk := by
  unfold tileHost
  with_reducible repeat' (first
    | assumption | (intro _) | apply pick_memOk | apply State.modHop_memOk | apply memOk_ite | split
    | refine pick_pair_memOk (by assumption) ?_ | dsimp only
    | (rw [memOk_mk]; apply memOk_wf; first | assumption | apply pick_memOk | apply State.modHop_memOk | apply memOk_ite | refine pick_pair_memOk (by assumption) ?_))

theorem tileHost_pair_memOk {o : HalOp} {key : Nat} {s : State} {t : State} {zz : Bool} (h : (tileHost o key s) = (zz, t)) (h_s : s.MemOk) : t.MemOk := by
  have := tileHost_memOk o key s h_s
  rw [h] at this; exact this

theorem tileMove_memOk (o : HalOp) (x : Halyard) (i n key : Nat) (s : State) (h_s : s.MemOk) : (tileMove o x i n key s).MemOk := by
  unfold tileMove
  with_reducible repeat' (first
    | assumption | (intro _) | apply memOk_foldl | apply held_memOk | apply tileLines_memOk | apply reachKeys_memOk
    | apply markWritten_memOk | apply noteError_memOk | apply engineWrite_memOk | apply State.modHop_memOk | apply memOk_ite
    | split | dsimp only
    | (rw [memOk_mk]; apply memOk_wf; first | assumption | apply memOk_foldl | apply held_memOk | apply tileLines_memOk | apply reachKeys_memOk | apply markWritten_memOk | apply noteError_memOk | apply engineWrite_memOk | apply State.modHop_memOk | apply memOk_ite))

theorem tileStep_memOk (id : Nat) (s : State) (h_s : s.MemOk) : (tileStep id s).MemOk := by
  unfold tileStep
  with_reducible repeat' (first
    | assumption | (intro _) | apply after_memOk | apply traceEv_memOk | apply after_memOk | apply tileDone_memOk
    | apply tileBytes_memOk | apply noPage_memOk | apply tileHost_memOk | apply tileMove_memOk | apply globalLate_memOk
    | apply State.modHop_memOk | apply memOk_ite | split | refine tileBytes_pair_memOk (by assumption) ?_
    | refine tileHost_pair_memOk (by assumption) ?_ | refine globalLate_pair_memOk (by assumption) ?_ | dsimp only
    | (rw [memOk_mk]; apply memOk_wf; first | assumption | apply after_memOk | apply traceEv_memOk | apply after_memOk | apply tileDone_memOk | apply tileBytes_memOk | apply noPage_memOk | apply tileHost_memOk | apply tileMove_memOk | apply globalLate_memOk | apply State.modHop_memOk | apply memOk_ite | refine tileBytes_pair_memOk (by assumption) ?_ | refine tileHost_pair_memOk (by assumption) ?_ | refine globalLate_pair_memOk (by assumption) ?_))

/-! Copy. -/

theorem burstDirty_memOk (s : State) (w : Walk2) (h_s : s.MemOk) : (burstDirty s w).MemOk := by
  unfold burstDirty
  with_reducible repeat' (first
    | assumption | (intro _) | apply memOk_foldl | apply setDirty_memOk | apply memOk_ite | split | dsimp only)

theorem assignRingL_memOk {op : Nat} {q : BitVec 4} {n : Nat} {s t : State} (h : assignRing op q n s = .inl t) (h_s : s.MemOk) : t.MemOk := by
  unfold assignRing at h
  split at h
  · cases h
  · dsimp only at h
    split at h
    · cases h; exact illegal_memOk _ _ h_s
    · split at h <;> cases h
      exact ringTrap_memOk _ _ _ h_s

theorem assignRing_memOk {op : Nat} {q : BitVec 4} {n m : Nat} {s t : State} (h : assignRing op q n s = .inr (m, t)) (h_s : s.MemOk) : t.MemOk := by
  unfold assignRing at h
  split at h
  · cases h; exact h_s
  · dsimp only at h
    split at h
    · cases h
    · split at h <;> cases h
      exact modMe_memOk h_s

theorem creditRing_memOk (c : CoreId) (q : BitVec 4) (ps : List Nat) (s : State) (h_s : s.MemOk) : (creditRing c q ps s).MemOk := by
  unfold creditRing
  with_reducible repeat' (first
    | assumption | (intro _) | apply modC_memOk | apply memOk_foldl | apply memOk_ite | split | dsimp only
    | (rw [memOk_mk]; apply memOk_wf; first | assumption | apply modC_memOk | apply memOk_foldl | apply memOk_ite))

theorem zeroFill_memOk (c : CoreId) (q : BitVec 4) (ps : List Nat) (s : State) (h_s : s.MemOk) : (zeroFill c q ps s).MemOk := by
  unfold zeroFill
  with_reducible repeat' (first
    | assumption | (intro _) | apply modC_memOk | apply memOk_foldl | apply memOk_ite | split | dsimp only
    | (rw [memOk_mk]; apply memOk_wf; first | assumption | apply modC_memOk | apply memOk_foldl | apply memOk_ite))

theorem lookNext_memOk (c : CoreId) (u : Bool) (dt : Nat) (s : State) (h_s : s.MemOk) : (lookNext c u dt s).MemOk := by
  unfold lookNext
  with_reducible repeat' (first
    | assumption | (intro _) | apply at_memOk | apply memOk_ite | split | dsimp only
    | (rw [memOk_mk]; apply memOk_wf; first | assumption | apply at_memOk | apply memOk_ite))

theorem issueCopy_memOk (op : Nat) (kind : CopyKind) (u : Bool) (t : Toks) (nst rng : BitVec 4) (bnd : Option Nat) (scp : BitVec 2) (s : State) (h_s : s.MemOk) : OutOk (issueCopy op kind u t nst rng bnd scp s) := by
  unfold issueCopy
  with_reducible repeat' (first
    | assumption | (intro _) | rw [outOk_next] | apply modMe_memOk | apply engineSlot_memOk | apply takeTrap_memOk
    | apply tokenTrap_memOk | apply burstDirty_memOk | apply lookNext_memOk | apply memOk_ite | split
    | refine assignRingL_memOk (by assumption) ?_ | refine assignRing_memOk (by assumption) ?_ | dsimp only
    | (rw [memOk_mk]; apply memOk_wf; first | assumption | apply modMe_memOk | apply engineSlot_memOk | apply takeTrap_memOk | apply tokenTrap_memOk | apply burstDirty_memOk | apply lookNext_memOk | apply memOk_ite | refine assignRingL_memOk (by assumption) ?_ | refine assignRing_memOk (by assumption) ?_))

theorem execCpy_memOk (u : Bool) (t : Toks) (nst rng : BitVec 4) (bnd : BitVec 7) (scp : BitVec 2) (be : Bool) (s : State) (h_s : s.MemOk) : OutOk (execCpy u t nst rng bnd scp be s) := by
  unfold execCpy
  with_reducible repeat' (first
    | assumption | (intro _) | rw [outOk_next] | apply issueCopy_memOk | apply memOk_ite | split | dsimp only)

theorem execCpset_memOk (u : Bool) (t : Toks) (nst rng : BitVec 4) (scp : BitVec 2) (s : State) (h_s : s.MemOk) : OutOk (execCpset u t nst rng scp s) := by
  unfold execCpset
  with_reducible repeat' (first
    | assumption | (intro _) | rw [outOk_next] | apply issueCopy_memOk | dsimp only)

theorem keepCopyXlat_memOk (c : CoreId) (u : Bool) (x : Option Xlat) (s : State) (h_s : s.MemOk) : (keepCopyXlat c u x s).MemOk := by
  unfold keepCopyXlat
  with_reducible repeat' (first
    | assumption | (intro _) | apply modC_memOk | apply pick_memOk | split | refine pick_pair_memOk (by assumption) ?_
    | dsimp only
    | (rw [memOk_mk]; apply memOk_wf; first | assumption | apply modC_memOk | apply pick_memOk | refine pick_pair_memOk (by assumption) ?_))

theorem readLine_memOk (s : State) (c : CoreId) (r : CopyRun) (x line : Nat) (h_s : s.MemOk) : (readLine s c r x line).2.MemOk := by
  unfold readLine
  with_reducible repeat' (first
    | assumption | (intro _) | apply touchLine_memOk | apply regionLine_memOk | apply memOk_ite | split
    | refine regionLine_pair_memOk (by assumption) ?_ | dsimp only
    | (rw [memOk_mk]; apply memOk_wf; first | assumption | apply touchLine_memOk | apply regionLine_memOk | apply memOk_ite | refine regionLine_pair_memOk (by assumption) ?_))

theorem readLine_pair_memOk {s : State} {c : CoreId} {r : CopyRun} {x line : Nat} {t : State} {zz : BitVec 1024} (h : (readLine s c r x line) = (zz, t)) (h_s : s.MemOk) : t.MemOk := by
  have := readLine_memOk s c r x line h_s
  rw [h] at this; exact this

theorem readLines_memOk (c : CoreId) (r : CopyRun) (ps : List Nat) : ∀ (t : Tbl (BitVec 1024)) (s : State), s.MemOk →
    (readLines c r ps t s).2.MemOk := by
  induction ps with
  | nil => exact fun _ _ h => h
  | cons x ps ih =>
    intro t s h
    unfold readLines
    split
    · exact ih _ _ h
    · split
      · exact ih _ _ h
      · exact ih _ _ (readLine_memOk _ _ _ _ _ h)

theorem readLines_pair_memOk {c : CoreId} {r : CopyRun} {ps : List Nat} {a b : Tbl (BitVec 1024)} {s t : State}
    (h : readLines c r ps a s = (b, t)) (hs : s.MemOk) : t.MemOk := by
  have := readLines_memOk c r ps a s hs
  rw [h] at this; exact this

theorem readGroup_memOk (s : State) (c : CoreId) (r : CopyRun) (ps : List Nat) (h_s : s.MemOk) : (readGroup s c r ps).2.MemOk := by
  unfold readGroup
  with_reducible repeat' (first
    | assumption | (intro _) | apply reachKeys_memOk | apply readLines_memOk | apply memOk_ite | split
    | refine readLines_pair_memOk (by assumption) ?_ | dsimp only
    | (rw [memOk_mk]; apply memOk_wf; first | assumption | apply reachKeys_memOk | apply readLines_memOk | apply memOk_ite | refine readLines_pair_memOk (by assumption) ?_))

theorem readGroup_pair_memOk {s : State} {c : CoreId} {r : CopyRun} {ps : List Nat} {t : State} {zz : List (Nat × Byte)} (h : (readGroup s c r ps) = (zz, t)) (h_s : s.MemOk) : t.MemOk := by
  have := readGroup_memOk s c r ps h_s
  rw [h] at this; exact this

theorem compareSums_memOk (c : CoreId) (r : CopyRun) (s : State) (h_s : s.MemOk) : (compareSums c r s).MemOk := by
  unfold compareSums
  with_reducible repeat' (first
    | assumption | (intro _) | apply countCheck_memOk | apply memOk_ite | split | dsimp only)

theorem nextPiece_memOk (c : CoreId) (u : Bool) (n : Nat) (s : State) (h_s : s.MemOk) : (nextPiece c u n s).MemOk := by
  unfold nextPiece
  with_reducible repeat' (first
    | assumption | (intro _) | apply after_memOk | apply memOk_ite | split | dsimp only)

theorem firstPiece_memOk (c : CoreId) (u : Bool) (n : Nat) (s : State) (h_s : s.MemOk) : (firstPiece c u n s).MemOk := by
  unfold firstPiece
  with_reducible repeat' (first
    | assumption | (intro _) | apply after_memOk | dsimp only
    | (rw [memOk_mk]; apply memOk_wf; first | assumption | apply after_memOk))

theorem portWait_memOk (c : CoreId) (u : Bool) (r : CopyRun) (n : Nat) (s : State) (h_s : s.MemOk) : (portWait c u r n s).2.MemOk := by
  unfold portWait
  with_reducible repeat' (first
    | assumption | (intro _) | apply modC_memOk | apply pick_memOk | apply memOk_ite | split
    | refine pick_pair_memOk (by assumption) ?_ | dsimp only
    | (rw [memOk_mk]; apply memOk_wf; first | assumption | apply modC_memOk | apply pick_memOk | apply memOk_ite | refine pick_pair_memOk (by assumption) ?_))

theorem portWait_pair_memOk {c : CoreId} {u : Bool} {r : CopyRun} {n : Nat} {s : State} {t : State} {zz : Bool} (h : (portWait c u r n s) = (zz, t)) (h_s : s.MemOk) : t.MemOk := by
  have := portWait_memOk c u r n s h_s
  rw [h] at this; exact this

theorem takePort_memOk (c : CoreId) (w : Walk2) (x n : Nat) (s : State) (h_s : s.MemOk) : (takePort c w x n s).MemOk := by
  unfold takePort
  with_reducible repeat' (first
    | assumption | (intro _) | apply takeBanks_memOk | dsimp only
    | (rw [memOk_mk]; apply memOk_wf; first | assumption | apply takeBanks_memOk))

theorem lineDelay_memOk (r : CopyRun) (s : State) (h_s : s.MemOk) : (lineDelay r s).2.MemOk := by
  unfold lineDelay
  with_reducible repeat' (first
    | assumption | (intro _) | apply pick_memOk | apply memOk_ite | split | refine pick_pair_memOk (by assumption) ?_
    | dsimp only)

theorem lineDelay_pair_memOk {r : CopyRun} {s : State} {t : State} {zz : Nat} (h : (lineDelay r s) = (zz, t)) (h_s : s.MemOk) : t.MemOk := by
  have := lineDelay_memOk r s h_s
  rw [h] at this; exact this

theorem readEarly_memOk (c : CoreId) (u : Bool) (s : State) (h_s : s.MemOk) : (readEarly c u s).MemOk := by
  unfold readEarly
  with_reducible repeat' (first
    | assumption | (intro _) | apply modC_memOk | apply pick_memOk | apply readGroup_memOk | apply memOk_ite | split
    | refine pick_pair_memOk (by assumption) ?_ | refine readGroup_pair_memOk (by assumption) ?_ | dsimp only
    | (rw [memOk_mk]; apply memOk_wf; first | assumption | apply modC_memOk | apply pick_memOk | apply readGroup_memOk | apply memOk_ite | refine pick_pair_memOk (by assumption) ?_ | refine readGroup_pair_memOk (by assumption) ?_))

theorem execCopyBegin_memOk (s : State) (h_s : s.MemOk) : OutOk (execCopyBegin s) := by
  unfold execCopyBegin
  with_reducible repeat' (first
    | assumption | (intro _) | exact outOk_fault _ | rw [outOk_next] | apply modC_memOk | apply now_memOk
    | apply nextPiece_memOk | apply lookNext_memOk | apply now_memOk | apply lineDelay_memOk | apply firstPiece_memOk
    | apply readEarly_memOk | apply traceEv_memOk | apply memOk_ite | split | refine lineDelay_pair_memOk (by assumption) ?_
    | dsimp only
    | (rw [memOk_mk]; apply memOk_wf; first | assumption | apply modC_memOk | apply now_memOk | apply nextPiece_memOk | apply lookNext_memOk | apply now_memOk | apply lineDelay_memOk | apply firstPiece_memOk | apply readEarly_memOk | apply traceEv_memOk | apply memOk_ite | refine lineDelay_pair_memOk (by assumption) ?_))

theorem pauseCopy_memOk (c : CoreId) (u : Bool) (r : CopyRun) (p : Pause) (slack : Nat) (s : State) (h_s : s.MemOk) : (pauseCopy c u r p slack s).MemOk := by
  unfold pauseCopy
  with_reducible repeat' (first
    | assumption | (intro _) | apply modC_memOk | apply after_memOk | apply nextPiece_memOk | apply lookNext_memOk
    | apply memOk_ite | split | dsimp only
    | (rw [memOk_mk]; apply memOk_wf; first | assumption | apply modC_memOk | apply after_memOk | apply nextPiece_memOk | apply lookNext_memOk | apply memOk_ite))

theorem execSlackExpire_memOk (s : State) (h_s : s.MemOk) : OutOk (execSlackExpire s) := by
  unfold execSlackExpire
  with_reducible repeat' (first
    | assumption | (intro _) | rw [outOk_next] | apply modC_memOk | apply memOk_ite | split | dsimp only
    | (rw [memOk_mk]; apply memOk_wf; first | assumption | apply modC_memOk | apply memOk_ite))

theorem execCopyResume_memOk (s : State) (h_s : s.MemOk) : OutOk (execCopyResume s) := by
  unfold execCopyResume
  with_reducible repeat' (first
    | assumption | (intro _) | rw [outOk_next] | apply modC_memOk | apply nextPiece_memOk | apply memOk_ite | split
    | dsimp only
    | (rw [memOk_mk]; apply memOk_wf; first | assumption | apply modC_memOk | apply nextPiece_memOk | apply memOk_ite))

theorem execCopyPageCrossing_memOk (s : State) (h_s : s.MemOk) : OutOk (execCopyPageCrossing s) := by
  unfold execCopyPageCrossing
  with_reducible repeat' (first
    | assumption | (intro _) | exact outOk_fault _ | rw [outOk_next] | apply modC_memOk | apply pick_memOk
    | apply pauseCopy_memOk | apply noPage_memOk | apply held_memOk | apply nextPiece_memOk | apply keepCopyXlat_memOk
    | apply pick_memOk | apply readEarly_memOk | apply memOk_ite | split | refine pick_pair_memOk (by assumption) ?_
    | refine pick_pair_memOk (by assumption) ?_ | dsimp only
    | (rw [memOk_mk]; apply memOk_wf; first | assumption | apply modC_memOk | apply pick_memOk | apply pauseCopy_memOk | apply noPage_memOk | apply held_memOk | apply nextPiece_memOk | apply keepCopyXlat_memOk | apply pick_memOk | apply readEarly_memOk | apply memOk_ite | refine pick_pair_memOk (by assumption) ?_ | refine pick_pair_memOk (by assumption) ?_))

theorem lastWrite_memOk (c : CoreId) (u : Bool) (r : CopyRun) (s : State) (h_s : s.MemOk) : (lastWrite c u r s).MemOk := by
  unfold lastWrite
  with_reducible repeat' (first
    | assumption | (intro _) | apply modC_memOk | apply after_memOk | apply pick_memOk | apply compareSums_memOk
    | apply lookNext_memOk | apply nextPiece_memOk | apply memOk_ite | split | refine pick_pair_memOk (by assumption) ?_
    | dsimp only
    | (rw [memOk_mk]; apply memOk_wf; first | assumption | apply modC_memOk | apply after_memOk | apply pick_memOk | apply compareSums_memOk | apply lookNext_memOk | apply nextPiece_memOk | apply memOk_ite | refine pick_pair_memOk (by assumption) ?_))

theorem moveGroup_memOk (c : CoreId) (u : Bool) (r : CopyRun) (n : Nat) (zero : Bool) (s0 : State) (h_s0 : s0.MemOk) : (moveGroup c u r n zero s0).MemOk := by
  unfold moveGroup
  with_reducible repeat' (first
    | assumption | (intro _) | apply modC_memOk | apply memOk_foldl | apply takePort_memOk | apply readGroup_memOk
    | apply writeByte_memOk | apply touchLine_memOk | apply markWritten_memOk | apply creditRing_memOk | apply zeroFill_memOk
    | apply lastWrite_memOk | apply lineDelay_memOk | apply readEarly_memOk | apply nextPiece_memOk | apply memOk_ite | split
    | refine readGroup_pair_memOk (by assumption) ?_ | refine lineDelay_pair_memOk (by assumption) ?_ | dsimp only
    | (rw [memOk_mk]; apply memOk_wf; first | assumption | apply modC_memOk | apply memOk_foldl | apply takePort_memOk | apply readGroup_memOk | apply writeByte_memOk | apply touchLine_memOk | apply markWritten_memOk | apply creditRing_memOk | apply zeroFill_memOk | apply lastWrite_memOk | apply lineDelay_memOk | apply readEarly_memOk | apply nextPiece_memOk | apply memOk_ite | refine readGroup_pair_memOk (by assumption) ?_ | refine lineDelay_pair_memOk (by assumption) ?_))

theorem stopUnit_memOk (c : CoreId) (u : Bool) (s : State) (h_s : s.MemOk) : (stopUnit c u s).MemOk := by
  unfold stopUnit
  with_reducible repeat' (first
    | assumption | (intro _) | apply modC_memOk | apply dispatch_memOk | dsimp only
    | (rw [memOk_mk]; apply memOk_wf; first | assumption | apply modC_memOk | apply dispatch_memOk))

theorem pieceStep_memOk (c : CoreId) (u : Bool) (s : State) (h_s : s.MemOk) : (pieceStep c u s).MemOk := by
  unfold pieceStep
  with_reducible repeat' (first
    | assumption | (intro _) | apply modC_memOk | apply now_memOk | apply pick_memOk | apply nextPiece_memOk
    | apply stopUnit_memOk | apply moveGroup_memOk | apply pauseCopy_memOk | apply portWait_memOk | apply memOk_ite | split
    | refine pick_pair_memOk (by assumption) ?_ | refine portWait_pair_memOk (by assumption) ?_ | dsimp only
    | (rw [memOk_mk]; apply memOk_wf; first | assumption | apply modC_memOk | apply now_memOk | apply pick_memOk | apply nextPiece_memOk | apply stopUnit_memOk | apply moveGroup_memOk | apply pauseCopy_memOk | apply portWait_memOk | apply memOk_ite | refine pick_pair_memOk (by assumption) ?_ | refine portWait_pair_memOk (by assumption) ?_))

theorem execCopyComplete_memOk (s : State) (h_s : s.MemOk) : OutOk (execCopyComplete s) := by
  unfold execCopyComplete
  with_reducible repeat' (first
    | assumption | (intro _) | rw [outOk_next] | apply modC_memOk | split | dsimp only
    | (rw [memOk_mk]; apply memOk_wf; first | assumption | apply modC_memOk))

theorem beatAt_memOk (y : Isl) (ch : Nat) (t : Nat) (s : State) (h_s : s.MemOk) : (beatAt y ch t s).MemOk := by
  unfold beatAt
  with_reducible repeat' (first
    | assumption | (intro _) | apply at_memOk | apply memOk_ite | split | dsimp only
    | (rw [memOk_mk]; apply memOk_wf; first | assumption | apply at_memOk | apply memOk_ite))

theorem issueBus_memOk (drive : Bool) (ch : BitVec 2) (nest : BitVec 512) (n p : Nat) (rng : BitVec 4) (t : Toks) (s : State) (h_s : s.MemOk) : (issueBus drive ch nest n p rng t s).MemOk := by
  unfold issueBus
  with_reducible repeat' (first
    | assumption | (intro _) | apply modMe_memOk | split | dsimp only
    | (rw [memOk_mk]; apply memOk_wf; first | assumption | apply modMe_memOk))

theorem execBcdrv_memOk (_u : Bool) (t : Toks) (nst : BitVec 4) (s : State) (h_s : s.MemOk) : OutOk (execBcdrv _u t nst s) := by
  unfold execBcdrv
  with_reducible repeat' (first
    | assumption | (intro _) | rw [outOk_next] | apply at_memOk | apply memOk_foldl | apply engineSlot_memOk
    | apply illegal_memOk | apply takeTrap_memOk | apply tokenTrap_memOk | apply issueBus_memOk | apply beatAt_memOk
    | apply memOk_ite | split | dsimp only
    | (rw [memOk_mk]; apply memOk_wf; first | assumption | apply at_memOk | apply memOk_foldl | apply engineSlot_memOk | apply illegal_memOk | apply takeTrap_memOk | apply tokenTrap_memOk | apply issueBus_memOk | apply beatAt_memOk | apply memOk_ite))

theorem execBclat_memOk (u : Bool) (t : Toks) (nst rng : BitVec 4) (s : State) (h_s : s.MemOk) : OutOk (execBclat u t nst rng s) := by
  unfold execBclat
  with_reducible repeat' (first
    | assumption | (intro _) | exact outOk_fault _ | rw [outOk_next] | apply at_memOk | apply engineSlot_memOk
    | apply illegal_memOk | apply takeTrap_memOk | apply tokenTrap_memOk | apply issueBus_memOk | apply beatAt_memOk
    | apply memOk_ite | split | refine assignRing_memOk (by assumption) ?_ | refine assignRingL_memOk (by assumption) ?_
    | dsimp only
    | (rw [memOk_mk]; apply memOk_wf; first | assumption | apply at_memOk | apply engineSlot_memOk | apply illegal_memOk | apply takeTrap_memOk | apply tokenTrap_memOk | apply issueBus_memOk | apply beatAt_memOk | apply memOk_ite | refine assignRing_memOk (by assumption) ?_ | refine assignRingL_memOk (by assumption) ?_))

theorem endBus_memOk (c : CoreId) (id : Nat) (s : State) (h_s : s.MemOk) : (endBus c id s).MemOk := by
  unfold endBus
  with_reducible repeat' (first
    | assumption | (intro _) | apply modC_memOk | split | dsimp only
    | (rw [memOk_mk]; apply memOk_wf; first | assumption | apply modC_memOk))

theorem beatReady_memOk (c : CoreId) (o : BusOp) (b : Nat) (s : State) (h_s : s.MemOk) : (beatReady c o b s).2.MemOk := by
  unfold beatReady
  with_reducible repeat' (first
    | assumption | (intro _) | apply pick_memOk | apply memOk_ite | split | refine pick_pair_memOk (by assumption) ?_
    | dsimp only)

theorem beatReady_pair_memOk {c : CoreId} {o : BusOp} {b : Nat} {s : State} {t : State} {zz : Bool} (h : (beatReady c o b s) = (zz, t)) (h_s : s.MemOk) : t.MemOk := by
  have := beatReady_memOk c o b s h_s
  rw [h] at this; exact this

theorem latchLag_memOk (c : CoreId) (o : BusOp) (b : Nat) (s : State) (h_s : s.MemOk) : (latchLag c o b s).MemOk := by
  unfold latchLag
  with_reducible repeat' (first
    | assumption | (intro _) | apply modC_memOk | apply pick_memOk | apply memOk_ite | split
    | refine pick_pair_memOk (by assumption) ?_ | dsimp only
    | (rw [memOk_mk]; apply memOk_wf; first | assumption | apply modC_memOk | apply pick_memOk | apply memOk_ite | refine pick_pair_memOk (by assumption) ?_))

theorem modBus_memOk (c : CoreId) (id : Nat) (f : BusOp → BusOp) (s : State) (h_s : s.MemOk) : (modBus c id f s).MemOk := by
  unfold modBus
  with_reducible repeat' (first
    | assumption | (intro _) | apply modC_memOk | apply memOk_ite | split | dsimp only
    | (rw [memOk_mk]; apply memOk_wf; first | assumption | apply modC_memOk | apply memOk_ite))

theorem latchBeat_memOk (d : CoreId) (q : BusOp) (m : Nat) (cells : List (Host.Cell × Option Nat)) (s : State) (h_s : s.MemOk) : (latchBeat d q m cells s).MemOk := by
  unfold latchBeat
  with_reducible repeat' (first
    | assumption | (intro _) | apply wf_memWrs | apply modBus_memOk | apply latchLag_memOk | apply creditRing_memOk
    | apply markWritten_memOk | apply memOk_ite | exact memOk_wf ‹_› | split | dsimp only
    | (rw [memOk_mk]; first | apply wf_memWrs)
    | (rw [memOk_mk]; apply memOk_wf; first | assumption | apply modBus_memOk | apply latchLag_memOk | apply creditRing_memOk | apply markWritten_memOk | apply memOk_ite)
    | (apply memOk_wf; first | assumption | apply modBus_memOk | apply latchLag_memOk | apply creditRing_memOk | apply markWritten_memOk | apply memOk_ite))

theorem flushLate_memOk (c : CoreId) (o : BusOp) (s : State) (h_s : s.MemOk) : (flushLate c o s).MemOk := by
  unfold flushLate
  with_reducible repeat' (first
    | assumption | (intro _) | apply wf_memWrs | apply modBus_memOk | apply creditRing_memOk | apply markWritten_memOk
    | apply memOk_ite | exact memOk_wf ‹_› | split | dsimp only | (rw [memOk_mk]; first | apply wf_memWrs)
    | (rw [memOk_mk]; apply memOk_wf; first | assumption | apply modBus_memOk | apply creditRing_memOk | apply markWritten_memOk | apply memOk_ite)
    | (apply memOk_wf; first | assumption | apply modBus_memOk | apply creditRing_memOk | apply markWritten_memOk | apply memOk_ite))

theorem execBroadcastBeat_memOk (s : State) (h_s : s.MemOk) : OutOk (execBroadcastBeat s) := by
  unfold execBroadcastBeat
  with_reducible repeat' (first
    | assumption | (intro _) | exact outOk_fault _ | rw [outOk_next] | apply modC_memOk | apply after_memOk | apply memOk_foldl
    | apply beatReady_memOk | apply latchBeat_memOk | apply reachKeys_memOk | apply endBus_memOk | apply memOk_ite | split
    | refine beatReady_pair_memOk (by assumption) ?_ | dsimp only
    | (rw [memOk_mk]; apply memOk_wf; first | assumption | apply modC_memOk | apply after_memOk | apply memOk_foldl | apply beatReady_memOk | apply latchBeat_memOk | apply reachKeys_memOk | apply endBus_memOk | apply memOk_ite | refine beatReady_pair_memOk (by assumption) ?_))

theorem execBclatComplete_memOk (s : State) (h_s : s.MemOk) : OutOk (execBclatComplete s) := by
  unfold execBclatComplete
  with_reducible repeat' (first
    | assumption | (intro _) | exact outOk_fault _ | rw [outOk_next] | apply after_memOk | apply endBus_memOk
    | apply flushLate_memOk | apply modBus_memOk | apply after_memOk | apply memOk_ite | split | dsimp only
    | (rw [memOk_mk]; apply memOk_wf; first | assumption | apply after_memOk | apply endBus_memOk | apply flushLate_memOk | apply modBus_memOk | apply after_memOk | apply memOk_ite))

end Sys2Proof.Machine
end

