-- ==== Sys2Proof/Laws/KeepsInstr.lean ====
section
/-! SUPPORT. The canonical form of storage is kept by the meanings of the slot operations and of the other device steps. -/

set_option linter.unusedTactic false
set_option linter.unreachableTactic false

namespace Sys2Proof.Machine

/-! Control. -/

theorem jumpTo_memOk (t : W64) (link : Option (BitVec 6)) (s : State) (h_s : s.MemOk) : (jumpTo t link s).MemOk := by
  unfold jumpTo
  with_reducible repeat' (first
    | assumption | (intro _) | apply takeTrap_memOk | apply toS_memOk | apply memOk_ite | split | dsimp only
    | (rw [memOk_mk]; apply memOk_wf; first | assumption | apply takeTrap_memOk | apply toS_memOk | apply memOk_ite))

theorem transfer_memOk (op : Nat) (g : Guard) (t : State → W64) (link : Option (BitVec 6)) (s : State) (h_s : s.MemOk) : OutOk (transfer op g t link s) := by
  unfold transfer
  with_reducible repeat' (first
    | assumption | (intro _) | rw [outOk_next] | apply illegal_memOk | apply guarded_memOk | apply jumpTo_memOk
    | apply memOk_ite | split | dsimp only)

theorem execBr_memOk (g : Guard) (imm : BitVec 33) (s : State) (h_s : s.MemOk) : OutOk (execBr g imm s) := by
  unfold execBr
  with_reducible repeat' (first
    | assumption | (intro _) | rw [outOk_next] | apply transfer_memOk | dsimp only)

theorem execJmp_memOk (g : Guard) (a : BitVec 6) (s : State) (h_s : s.MemOk) : OutOk (execJmp g a s) := by
  unfold execJmp
  with_reducible repeat' (first
    | assumption | (intro _) | rw [outOk_next] | apply transfer_memOk | dsimp only)

theorem execCall_memOk (g : Guard) (d : BitVec 6) (imm : BitVec 33) (s : State) (h_s : s.MemOk) : OutOk (execCall g d imm s) := by
  unfold execCall
  with_reducible repeat' (first
    | assumption | (intro _) | rw [outOk_next] | apply transfer_memOk | dsimp only)

theorem execCallr_memOk (g : Guard) (d a : BitVec 6) (s : State) (h_s : s.MemOk) : OutOk (execCallr g d a s) := by
  unfold execCallr
  with_reducible repeat' (first
    | assumption | (intro _) | rw [outOk_next] | apply transfer_memOk | dsimp only)

theorem execRet_memOk (g : Guard) (a : BitVec 6) (s : State) (h_s : s.MemOk) : OutOk (execRet g a s) := by
  unfold execRet
  with_reducible repeat' (first
    | assumption | (intro _) | rw [outOk_next] | apply transfer_memOk | dsimp only)

theorem startLoop_memOk (m : LoopMode) (a : W64) (ii ns : Nat) (s : State) (h_s : s.MemOk) : (startLoop m a ii ns s).MemOk := by
  unfold startLoop
  with_reducible repeat' (first
    | assumption | (intro _) | apply modMe_memOk | apply memOk_foldl | apply deliver_memOk | dsimp only
    | (rw [memOk_mk]; apply memOk_wf; first | assumption | apply modMe_memOk | apply memOk_foldl | apply deliver_memOk))

theorem loopOp_memOk (op : Nat) (m : LoopMode) (g : Guard) (a : BitVec 6) (ii : BitVec 8) (ns1 : BitVec 3) (s : State) (h_s : s.MemOk) : OutOk (loopOp op m g a ii ns1 s) := by
  unfold loopOp
  with_reducible repeat' (first
    | assumption | (intro _) | rw [outOk_next] | apply illegal_memOk | apply guarded_memOk | apply consume_memOk
    | apply takeTrap_memOk | apply startLoop_memOk | apply memOk_ite | split | refine skipBundles_memOk _ (by assumption) ?_
    | dsimp only
    | (rw [memOk_mk]; apply memOk_wf; first | assumption | apply illegal_memOk | apply guarded_memOk | apply consume_memOk | apply takeTrap_memOk | apply startLoop_memOk | apply memOk_ite | refine skipBundles_memOk _ (by assumption) ?_))

theorem execLoop_memOk (g : Guard) (a : BitVec 6) (ii : BitVec 8) (ns1 : BitVec 3) (s : State) (h_s : s.MemOk) : OutOk (execLoop g a ii ns1 s) := by
  unfold execLoop
  with_reducible repeat' (first
    | assumption | (intro _) | rw [outOk_next] | apply loopOp_memOk | dsimp only)

theorem execSloop_memOk (g : Guard) (a : BitVec 6) (ii : BitVec 8) (ns1 : BitVec 3) (s : State) (h_s : s.MemOk) : OutOk (execSloop g a ii ns1 s) := by
  unfold execSloop
  with_reducible repeat' (first
    | assumption | (intro _) | rw [outOk_next] | apply loopOp_memOk | dsimp only)

theorem execSnext_memOk (g : Guard) (imm : BitVec 33) (s : State) (h_s : s.MemOk) : OutOk (execSnext g imm s) := by
  unfold execSnext
  with_reducible repeat' (first
    | assumption | (intro _) | rw [outOk_next] | apply modMe_memOk | apply illegal_memOk | apply guarded_memOk
    | apply takeTrap_memOk | apply memOk_ite | split | dsimp only
    | (rw [memOk_mk]; apply memOk_wf; first | assumption | apply modMe_memOk | apply illegal_memOk | apply guarded_memOk | apply takeTrap_memOk | apply memOk_ite))

theorem execMfsp_memOk (g : Guard) (d : BitVec 6) (idx : BitVec 8) (s : State) (h_s : s.MemOk) : OutOk (execMfsp g d idx s) := by
  unfold execMfsp
  with_reducible repeat' (first
    | assumption | (intro _) | rw [outOk_next] | apply guardedIf_memOk | apply chargeCtx_memOk | apply toS_memOk
    | apply illegal_memOk | apply memOk_ite | split | dsimp only
    | (rw [memOk_mk]; apply memOk_wf; first | assumption | apply guardedIf_memOk | apply chargeCtx_memOk | apply toS_memOk | apply illegal_memOk | apply memOk_ite))

theorem execMtsp_memOk (g : Guard) (a : BitVec 6) (idx : BitVec 8) (s : State) (h_s : s.MemOk) : OutOk (execMtsp g a idx s) := by
  unfold execMtsp
  with_reducible repeat' (first
    | assumption | (intro _) | rw [outOk_next] | apply guardedIf_memOk | apply deliver_memOk | apply illegal_memOk
    | apply memOk_ite | split | dsimp only)

/-! Stage. -/

theorem stageTrap_memOk (op : Nat) (s : State) (h_s : s.MemOk) : (stageTrap op s).MemOk := by
  unfold stageTrap
  with_reducible repeat' (first
    | assumption | (intro _) | apply takeTrap_memOk | dsimp only)

theorem State.modMyStage_memOk (s : State) (t : Nat) (f : StageSt → StageSt) (h_s : s.MemOk) : (State.modMyStage s t f).MemOk := by
  unfold State.modMyStage
  with_reducible repeat' (first
    | assumption | (intro _) | apply State.modL_memOk | split | dsimp only)

theorem takeItem_memOk (d : BitVec 6) (j : BitVec 4) (i : Item) (s : State) (h_s : s.MemOk) : (takeItem d j i s).MemOk := by
  unfold takeItem
  with_reducible repeat' (first
    | assumption | (intro _) | apply modMe_memOk | apply after_memOk | apply deliver_memOk | apply toS_memOk
    | apply State.modMyStage_memOk | split | dsimp only
    | (rw [memOk_mk]; apply memOk_wf; first | assumption | apply modMe_memOk | apply after_memOk | apply deliver_memOk | apply toS_memOk | apply State.modMyStage_memOk))

theorem execPull_memOk (g : Guard) (d : BitVec 6) (j : BitVec 4) (s : State) (h_s : s.MemOk) : OutOk (execPull g d j s) := by
  unfold execPull
  with_reducible repeat' (first
    | assumption | (intro _) | rw [outOk_next] | apply modMe_memOk | apply guarded_memOk | apply stageTrap_memOk
    | apply takeItem_memOk | apply deliver_memOk | apply toS_memOk | apply memOk_ite | split | dsimp only
    | (rw [memOk_mk]; apply memOk_wf; first | assumption | apply modMe_memOk | apply guarded_memOk | apply stageTrap_memOk | apply takeItem_memOk | apply deliver_memOk | apply toS_memOk | apply memOk_ite))

theorem execPush_memOk (g : Guard) (d a b : BitVec 6) (st : BitVec 3) (hasB : Bool) (s : State) (h_s : s.MemOk) : OutOk (execPush g d a b st hasB s) := by
  unfold execPush
  with_reducible repeat' (first
    | assumption | (intro _) | rw [outOk_next] | apply guarded_memOk | apply illegal_memOk | apply stageTrap_memOk
    | apply takeTrap_memOk | apply deliver_memOk | apply memOk_ite | split | dsimp only)

theorem execRetire_memOk (g : Guard) (s : State) (h_s : s.MemOk) : OutOk (execRetire g s) := by
  unfold execRetire
  with_reducible repeat' (first
    | assumption | (intro _) | rw [outOk_next] | apply modMe_memOk | apply guarded_memOk | apply stageTrap_memOk | split
    | dsimp only
    | (rw [memOk_mk]; apply memOk_wf; first | assumption | apply modMe_memOk | apply guarded_memOk | apply stageTrap_memOk))

theorem execQdep_memOk (g : Guard) (d : BitVec 6) (st : BitVec 3) (s : State) (h_s : s.MemOk) : OutOk (execQdep g d st s) := by
  unfold execQdep
  with_reducible repeat' (first
    | assumption | (intro _) | rw [outOk_next] | apply guarded_memOk | apply illegal_memOk | apply toS_memOk | split
    | dsimp only)

theorem execLaunch_memOk (g : Guard) (d a : BitVec 6) (s : State) (h_s : s.MemOk) : OutOk (execLaunch g d a s) := by
  unfold execLaunch
  with_reducible repeat' (first
    | assumption | (intro _) | rw [outOk_next] | apply pick_memOk | apply guarded_memOk | apply takeTrap_memOk
    | apply issueCop_memOk | apply memOk_ite | split | refine pick_pair_memOk (by assumption) ?_ | dsimp only)

theorem execLpoll_memOk (g : Guard) (d a : BitVec 6) (s : State) (h_s : s.MemOk) : OutOk (execLpoll g d a s) := by
  unfold execLpoll
  with_reducible repeat' (first
    | assumption | (intro _) | rw [outOk_next] | apply guarded_memOk | apply issueFree_memOk | dsimp only)

theorem requestDiv_memOk (mask : BitVec 4) (v : Nat) (s : State) (h_s : s.MemOk) : (requestDiv mask v s).MemOk := by
  unfold requestDiv
  with_reducible repeat' (first
    | assumption | (intro _) | apply modMe_memOk | apply illegal_memOk | apply memOk_ite | split | dsimp only
    | (rw [memOk_mk]; apply memOk_wf; first | assumption | apply modMe_memOk | apply illegal_memOk | apply memOk_ite))

theorem execClkdiv_memOk (g : Guard) (mask : BitVec 4) (dv : BitVec 5) (s : State) (h_s : s.MemOk) : OutOk (execClkdiv g mask dv s) := by
  unfold execClkdiv
  with_reducible repeat' (first
    | assumption | (intro _) | rw [outOk_next] | apply guardedIf_memOk | apply requestDiv_memOk | dsimp only)

theorem execClkdivReg_memOk (g : Guard) (a : BitVec 6) (mask : BitVec 4) (s : State) (h_s : s.MemOk) : OutOk (execClkdivReg g a mask s) := by
  unfold execClkdivReg
  with_reducible repeat' (first
    | assumption | (intro _) | rw [outOk_next] | apply guarded_memOk | apply requestDiv_memOk | dsimp only)

theorem execTrap_memOk (g : Guard) (tn : BitVec 16) (s : State) (h_s : s.MemOk) : OutOk (execTrap g tn s) := by
  unfold execTrap
  with_reducible repeat' (first
    | assumption | (intro _) | rw [outOk_next] | apply guarded_memOk | dsimp only
    | (rw [memOk_mk]; apply memOk_wf; first | assumption | apply guarded_memOk))

theorem execBrk_memOk (g : Guard) (tn : BitVec 16) (s : State) (h_s : s.MemOk) : OutOk (execBrk g tn s) := by
  unfold execBrk
  with_reducible repeat' (first
    | assumption | (intro _) | rw [outOk_next] | apply modMe_memOk | apply guarded_memOk | apply memOk_ite | split
    | dsimp only
    | (rw [memOk_mk]; apply memOk_wf; first | assumption | apply modMe_memOk | apply guarded_memOk | apply memOk_ite))

theorem execEjrd_memOk (g : Guard) (d : BitVec 6) (sel : BitVec 2) (s : State) (h_s : s.MemOk) : OutOk (execEjrd g d sel s) := by
  unfold execEjrd
  with_reducible repeat' (first
    | assumption | (intro _) | rw [outOk_next] | apply guarded_memOk | apply chargeCtx_memOk | apply toS_memOk | split
    | dsimp only)

theorem commitPops_memOk (c : CoreId) (s : State) (h_s : s.MemOk) : (commitPops c s).MemOk := by
  unfold commitPops
  with_reducible repeat' (first
    | assumption | (intro _) | apply modC_memOk | apply after_memOk | apply pick_memOk | apply memOk_foldl
    | apply State.modL_memOk | apply memOk_ite | split | refine pick_pair_memOk (by assumption) ?_ | dsimp only
    | (rw [memOk_mk]; apply memOk_wf; first | assumption | apply modC_memOk | apply after_memOk | apply pick_memOk | apply memOk_foldl | apply State.modL_memOk | apply memOk_ite | refine pick_pair_memOk (by assumption) ?_))

theorem dropSpent_memOk (c : CoreId) (s : State) (h_s : s.MemOk) : (dropSpent c s).MemOk := by
  unfold dropSpent
  with_reducible repeat' (first
    | assumption | (intro _) | apply modC_memOk | apply after_memOk | dsimp only
    | (rw [memOk_mk]; apply memOk_wf; first | assumption | apply modC_memOk | apply after_memOk))

theorem checkpointAt_memOk (c : CoreId) (s : State) (h_s : s.MemOk) : (checkpointAt c s).MemOk := by
  unfold checkpointAt
  with_reducible repeat' (first
    | assumption | (intro _) | apply modC_memOk | apply dropSpent_memOk | apply commitPops_memOk | apply releaseMx_memOk
    | apply releaseStores_memOk | dsimp only
    | (rw [memOk_mk]; apply memOk_wf; first | assumption | apply modC_memOk | apply dropSpent_memOk | apply commitPops_memOk | apply releaseMx_memOk | apply releaseStores_memOk))

theorem execCheckpoint_memOk (s : State) (h_s : s.MemOk) : OutOk (execCheckpoint s) := by
  unfold execCheckpoint
  with_reducible repeat' (first
    | assumption | (intro _) | rw [outOk_next] | apply dispatch_memOk | apply checkpointAt_memOk | dsimp only)

theorem leaveCore_memOk (c : CoreId) (s : State) (h_s : s.MemOk) : (leaveCore c s).MemOk := by
  unfold leaveCore
  with_reducible repeat' (first
    | assumption | (intro _) | apply now_memOk | apply unbindCore_memOk | apply memOk_ite | split | dsimp only)

theorem execSafePoint_memOk (s : State) (h_s : s.MemOk) : OutOk (execSafePoint s) := by
  unfold execSafePoint
  with_reducible repeat' (first
    | assumption | (intro _) | rw [outOk_next] | apply modC_memOk | apply leaveCore_memOk | apply memOk_ite | split
    | dsimp only
    | (rw [memOk_mk]; apply memOk_wf; first | assumption | apply modC_memOk | apply leaveCore_memOk | apply memOk_ite))

theorem execSwitchPoint_memOk (s : State) (h_s : s.MemOk) : OutOk (execSwitchPoint s) := by
  unfold execSwitchPoint
  with_reducible repeat' (first
    | assumption | (intro _) | rw [outOk_next] | apply modC_memOk | apply memOk_ite | split | dsimp only
    | (rw [memOk_mk]; apply memOk_wf; first | assumption | apply modC_memOk | apply memOk_ite))

theorem followPhase_memOk (c : CoreId) (s : State) (h_s : s.MemOk) : (followPhase c s).MemOk := by
  unfold followPhase
  with_reducible repeat' (first
    | assumption | (intro _) | apply startPhase_memOk | apply scorePhase_memOk | apply memOk_ite | split | dsimp only)

theorem execPhaseMarker_memOk (s : State) (h_s : s.MemOk) : OutOk (execPhaseMarker s) := by
  unfold execPhaseMarker
  with_reducible repeat' (first
    | assumption | (intro _) | rw [outOk_next] | apply modC_memOk | apply followPhase_memOk | dsimp only
    | (rw [memOk_mk]; apply memOk_wf; first | assumption | apply modC_memOk | apply followPhase_memOk))

theorem postRecord_memOk (y : Isl) (r : Rec) (s : State) (h_s : s.MemOk) : (postRecord y r s).MemOk := by
  unfold postRecord
  with_reducible repeat' (first
    | assumption | (intro _) | apply modC_memOk | apply modI_memOk | apply putWords_memOk | apply logErr_memOk
    | apply memOk_ite | split | dsimp only
    | (rw [memOk_mk]; apply memOk_wf; first | assumption | apply modC_memOk | apply modI_memOk | apply putWords_memOk | apply logErr_memOk | apply memOk_ite))

theorem resumeWaiting_memOk (y : Isl) (s : State) (h_s : s.MemOk) : (resumeWaiting y s).MemOk := by
  unfold resumeWaiting
  with_reducible repeat' (first
    | assumption | (intro _) | apply memOk_foldl | apply resume_memOk | apply memOk_ite | split | dsimp only)

theorem execRecordPost_memOk (s : State) (h_s : s.MemOk) : OutOk (execRecordPost s) := by
  unfold execRecordPost
  with_reducible repeat' (first
    | assumption | (intro _) | exact outOk_fault _ | rw [outOk_next] | apply modI_memOk | apply now_memOk | apply memOk_foldl
    | apply logErr_memOk | apply resumeWaiting_memOk | apply postRecord_memOk | apply memOk_ite | split | dsimp only
    | (rw [memOk_mk]; apply memOk_wf; first | assumption | apply modI_memOk | apply now_memOk | apply memOk_foldl | apply logErr_memOk | apply resumeWaiting_memOk | apply postRecord_memOk | apply memOk_ite))

theorem postStop_memOk (c : CoreId) (s : State) (h_s : s.MemOk) : (postStop c s).MemOk := by
  unfold postStop
  with_reducible repeat' (first
    | assumption | (intro _) | apply modC_memOk | apply sendRec_memOk | apply memOk_ite | split | dsimp only
    | (rw [memOk_mk]; apply memOk_wf; first | assumption | apply modC_memOk | apply sendRec_memOk | apply memOk_ite))

theorem execSfiOverrun_memOk (s : State) (h_s : s.MemOk) : OutOk (execSfiOverrun s) := by
  unfold execSfiOverrun
  with_reducible repeat' (first
    | assumption | (intro _) | rw [outOk_next] | apply modC_memOk | apply eventRec_memOk | dsimp only
    | (rw [memOk_mk]; apply memOk_wf; first | assumption | apply modC_memOk | apply eventRec_memOk))

theorem execRequestedStop_memOk (s : State) (h_s : s.MemOk) : OutOk (execRequestedStop s) := by
  unfold execRequestedStop
  with_reducible repeat' (first
    | assumption | (intro _) | rw [outOk_next] | apply modC_memOk | apply postStop_memOk | apply traceEv_memOk
    | apply memOk_ite | split | dsimp only
    | (rw [memOk_mk]; apply memOk_wf; first | assumption | apply modC_memOk | apply postStop_memOk | apply traceEv_memOk | apply memOk_ite))

/-! Priv. -/

theorem privileged_memOk (op : Nat) (g : Guard) (s : State) (f : State → State) (h_s : s.MemOk) (h_f : ∀ x : State, x.MemOk → (f x).MemOk) : OutOk (privileged op g s f) := by
  unfold privileged
  with_reducible repeat' (first
    | assumption | (intro _) | rw [outOk_next] | apply guarded_memOk | apply illegal_memOk | apply h_f | apply memOk_ite
    | split | dsimp only)

theorem privilegedIf_memOk (ok : Bool) (op : Nat) (g : Guard) (s : State) (f : State → State) (h_s : s.MemOk) (h_f : ∀ x : State, x.MemOk → (f x).MemOk) : OutOk (privilegedIf ok op g s f) := by
  unfold privilegedIf
  with_reducible repeat' (first
    | assumption | (intro _) | rw [outOk_next] | apply guarded_memOk | apply illegal_memOk | apply h_f | apply memOk_ite
    | split | dsimp only)

theorem execMfpr_memOk (g : Guard) (d : BitVec 6) (pidx : BitVec 16) (s : State) (h_s : s.MemOk) : OutOk (execMfpr g d pidx s) := by
  unfold execMfpr
  with_reducible repeat' (first
    | assumption | (intro _) | rw [outOk_next] | apply privilegedIf_memOk | apply toS_memOk | apply illegal_memOk | split
    | dsimp only
    | (rw [memOk_mk]; apply memOk_wf; first | assumption | apply privilegedIf_memOk | apply toS_memOk | apply illegal_memOk))

theorem regStep_memOk (e : Instr × Arg) (s : State) (h_s : s.MemOk) : (regStep e s).MemOk := by
  unfold regStep
  with_reducible repeat' (first
    | assumption | (intro _) | apply after_memOk | apply now_memOk | apply memOk_ite | split | dsimp only)

theorem execMtpr_memOk (g : Guard) (a : BitVec 6) (pidx : BitVec 16) (s : State) (h_s : s.MemOk) : OutOk (execMtpr g a pidx s) := by
  unfold execMtpr
  with_reducible repeat' (first
    | assumption | (intro _) | rw [outOk_next] | apply memOk_foldr | apply privilegedIf_memOk | apply regStep_memOk
    | apply illegal_memOk | split | dsimp only)

theorem dropRange_memOk (cx : BitVec 7) (lo hi : Nat) (s : State) (h_s : s.MemOk) : (dropRange cx lo hi s).MemOk := by
  unfold dropRange
  with_reducible repeat' (first
    | assumption | (intro _) | apply modC_memOk | apply modI_memOk | apply modD_memOk | apply memOk_foldl | apply memOk_ite
    | split | dsimp only
    | (rw [memOk_mk]; apply memOk_wf; first | assumption | apply modC_memOk | apply modI_memOk | apply modD_memOk | apply memOk_foldl | apply memOk_ite))

theorem execXlinv_memOk (g : Guard) (d a b : BitVec 6) (psz : BitVec 3) (s : State) (h_s : s.MemOk) : OutOk (execXlinv g d a b psz s) := by
  unfold execXlinv
  with_reducible repeat' (first
    | assumption | (intro _) | rw [outOk_next] | apply privileged_memOk | apply takeTrap_memOk | apply dropRange_memOk
    | apply issueCop_memOk | apply memOk_ite | split | dsimp only)

theorem performXlinv_memOk (c : CoreId) (o : Cop) (old : List (CoreId × Nat)) (held : List (CoreId × Nat × Nat × Nat)) (s : State) (h_s : s.MemOk) : (performXlinv c o old held s).MemOk := by
  unfold performXlinv
  with_reducible repeat' (first
    | assumption | (intro _) | apply now_memOk | apply retryCop_memOk | apply memOk_ite | split | dsimp only)

theorem execXlinvComplete_memOk (s : State) (h_s : s.MemOk) : OutOk (execXlinvComplete s) := by
  unfold execXlinvComplete
  with_reducible repeat' (first
    | assumption | (intro _) | rw [outOk_next] | apply finishCop_memOk | dsimp only)

theorem issueWait_memOk (f : Nat → Nat → Cop) (s : State) (h_s : s.MemOk) : (issueWait f s).2.MemOk := by
  unfold issueWait
  with_reducible repeat' (first
    | assumption | (intro _) | apply modMe_memOk | dsimp only
    | (rw [memOk_mk]; apply memOk_wf; first | assumption | apply modMe_memOk))

theorem issueWait_pair_memOk {f : Nat → Nat → Cop} {s : State} {t : State} {zz : Nat} (h : (issueWait f s) = (zz, t)) (h_s : s.MemOk) : t.MemOk := by
  have := issueWait_memOk f s h_s
  rw [h] at this; exact this

theorem execPurge_memOk (g : Guard) (d a : BitVec 6) (s : State) (h_s : s.MemOk) : OutOk (execPurge g d a s) := by
  unfold execPurge
  with_reducible repeat' (first
    | assumption | (intro _) | rw [outOk_next] | apply privileged_memOk | apply issueWait_memOk | apply startPurge_memOk
    | split | refine issueWait_pair_memOk (by assumption) ?_ | dsimp only)

theorem misdirected_memOk (s : State) (h_s : s.MemOk) : (misdirected s).MemOk := by
  unfold misdirected
  with_reducible repeat' (first
    | assumption | (intro _) | apply modI_memOk | dsimp only
    | (rw [memOk_mk]; apply memOk_wf; first | assumption | apply modI_memOk))

theorem flushRec_memOk (c : CoreId) (s : State) (h_s : s.MemOk) : (flushRec c s).MemOk := by
  unfold flushRec
  with_reducible repeat' (first
    | assumption | (intro _) | apply modC_memOk | apply sendRec_memOk | split | dsimp only
    | (rw [memOk_mk]; apply memOk_wf; first | assumption | apply modC_memOk | apply sendRec_memOk))

theorem resumePosted_memOk (c : CoreId) (s0 : State) (h_s0 : s0.MemOk) : (resumePosted c s0).MemOk := by
  unfold resumePosted
  with_reducible repeat' (first
    | assumption | (intro _) | apply modC_memOk | apply flushRec_memOk | apply resume_memOk | apply memOk_ite | split
    | dsimp only
    | (rw [memOk_mk]; apply memOk_wf; first | assumption | apply modC_memOk | apply flushRec_memOk | apply resume_memOk | apply memOk_ite))

theorem execEret_memOk (g : Guard) (a : BitVec 6) (em : Bool) (s : State) (h_s : s.MemOk) : OutOk (execEret g a em s) := by
  unfold execEret
  with_reducible repeat' (first
    | assumption | (intro _) | rw [outOk_next] | apply privileged_memOk | apply misdirected_memOk | apply purgeCore_memOk
    | apply flushRec_memOk | apply resumePosted_memOk | apply memOk_ite | split | dsimp only)

theorem execWfe_memOk (g : Guard) (d : BitVec 6) (s : State) (h_s : s.MemOk) : OutOk (execWfe g d s) := by
  unfold execWfe
  with_reducible repeat' (first
    | assumption | (intro _) | rw [outOk_next] | apply privileged_memOk | apply toS_memOk | dsimp only)

theorem clearTested_memOk (y : Isl) (u : BitVec 16) (s : State) (h_s : s.MemOk) : (clearTested y u s).MemOk := by
  unfold clearTested
  with_reducible repeat' (first
    | assumption | (intro _) | apply emptyPart_memOk | apply emptyShelf_memOk | split | dsimp only
    | (rw [memOk_mk]; apply memOk_wf; first | assumption | apply emptyPart_memOk | apply emptyShelf_memOk))

theorem askTest_memOk (y : Isl) (u : BitVec 16) (by_ : Option (CoreId × Nat)) (s : State) (h_s : s.MemOk) : (askTest y u by_ s).MemOk := by
  unfold askTest
  with_reducible repeat' (first
    | assumption | (intro _) | apply modI_memOk | apply after_memOk | apply pick_memOk | apply requestPreempt_memOk
    | apply clearTested_memOk | apply memOk_ite | split | refine pick_pair_memOk (by assumption) ?_ | dsimp only
    | (rw [memOk_mk]; apply memOk_wf; first | assumption | apply modI_memOk | apply after_memOk | apply pick_memOk | apply requestPreempt_memOk | apply clearTested_memOk | apply memOk_ite | refine pick_pair_memOk (by assumption) ?_))

theorem execStest_memOk (g : Guard) (d a : BitVec 6) (s : State) (h_s : s.MemOk) : OutOk (execStest g d a s) := by
  unfold execStest
  with_reducible repeat' (first
    | assumption | (intro _) | rw [outOk_next] | apply privileged_memOk | apply illegal_memOk | apply issueWait_memOk
    | apply askTest_memOk | apply memOk_ite | split | refine issueWait_pair_memOk (by assumption) ?_ | dsimp only)

theorem execHsw_memOk (g : Guard) (a b : BitVec 6) (s : State) (h_s : s.MemOk) : OutOk (execHsw g a b s) := by
  unfold execHsw
  with_reducible repeat' (first
    | assumption | (intro _) | rw [outOk_next] | apply modC_memOk | apply privileged_memOk | apply illegal_memOk
    | apply misdirected_memOk | apply memOk_ite | split | dsimp only
    | (rw [memOk_mk]; apply memOk_wf; first | assumption | apply modC_memOk | apply privileged_memOk | apply illegal_memOk | apply misdirected_memOk | apply memOk_ite))

/-! Coher. -/

theorem serve_memOk (h : Isl) (r : HomeReq) (s : State) (h_s : s.MemOk) : (serve h r s).MemOk := by
  unfold serve
  with_reducible repeat' (first
    | assumption | (intro _) | apply modI_memOk | apply memOk_foldl | apply invAgents_memOk | apply sendMsg_memOk
    | apply memOk_ite | split | dsimp only
    | (rw [memOk_mk]; apply memOk_wf; first | assumption | apply modI_memOk | apply memOk_foldl | apply invAgents_memOk | apply sendMsg_memOk | apply memOk_ite))

theorem backInvalidate_memOk (h : Isl) (line : Nat) (s : State) (h_s : s.MemOk) : (backInvalidate h line s).MemOk := by
  unfold backInvalidate
  with_reducible repeat' (first
    | assumption | (intro _) | apply modI_memOk | apply memOk_foldl | apply sendMsg_memOk | split | dsimp only
    | (rw [memOk_mk]; apply memOk_wf; first | assumption | apply modI_memOk | apply memOk_foldl | apply sendMsg_memOk))

theorem makeRoom_memOk (h : Isl) (s : State) (h_s : s.MemOk) : (makeRoom h s).MemOk := by
  unfold makeRoom
  with_reducible repeat' (first
    | assumption | (intro _) | apply memOk_foldl | apply backInvalidate_memOk | apply State.ready_memOk | apply memOk_ite
    | split | refine State.ready_pair_memOk (by assumption) ?_ | dsimp only)

theorem pump_memOk (h : Isl) (s : State) (h_s : s.MemOk) : (pump h s).MemOk := by
  unfold pump
  with_reducible repeat' (first
    | assumption | (intro _) | apply modI_memOk | apply memOk_foldl | apply makeRoom_memOk | apply serve_memOk
    | apply State.ready_memOk | apply memOk_ite | split | refine State.ready_pair_memOk (by assumption) ?_ | dsimp only
    | (rw [memOk_mk]; apply memOk_wf; first | assumption | apply modI_memOk | apply memOk_foldl | apply makeRoom_memOk | apply serve_memOk | apply State.ready_memOk | apply memOk_ite | refine State.ready_pair_memOk (by assumption) ?_))

theorem arrive_memOk (kind : Fin 3) (s : State) (h_s : s.MemOk) : (arrive kind s).MemOk := by
  unfold arrive
  with_reducible repeat' (first
    | assumption | (intro _) | apply modI_memOk | apply pump_memOk | dsimp only
    | (rw [memOk_mk]; apply memOk_wf; first | assumption | apply modI_memOk | apply pump_memOk))

theorem execRds_memOk (s : State) (h_s : s.MemOk) : OutOk (execRds s) := by
  unfold execRds
  with_reducible repeat' (first
    | assumption | (intro _) | rw [outOk_next] | apply arrive_memOk | dsimp only)

theorem execRdo_memOk (s : State) (h_s : s.MemOk) : OutOk (execRdo s) := by
  unfold execRdo
  with_reducible repeat' (first
    | assumption | (intro _) | rw [outOk_next] | apply arrive_memOk | dsimp only)

theorem execUpg_memOk (s : State) (h_s : s.MemOk) : OutOk (execUpg s) := by
  unfold execUpg
  with_reducible repeat' (first
    | assumption | (intro _) | rw [outOk_next] | apply arrive_memOk | dsimp only)

theorem modEnt_memOk (h : Isl) (line : Nat) (f : DirEnt → DirEnt) (s : State) (h_s : s.MemOk) : (modEnt h line f s).MemOk := by
  unfold modEnt
  with_reducible repeat' (first
    | assumption | (intro _) | apply modI_memOk | split | dsimp only
    | (rw [memOk_mk]; apply memOk_wf; first | assumption | apply modI_memOk))

theorem modBusy_memOk (h : Isl) (line : Nat) (f : Busy → Busy) (s : State) (h_s : s.MemOk) : (modBusy h line f s).MemOk := by
  unfold modBusy
  with_reducible repeat' (first
    | assumption | (intro _) | apply modEnt_memOk | dsimp only
    | (rw [memOk_mk]; apply memOk_wf; first | assumption | apply modEnt_memOk))

theorem tidy_memOk (h : Isl) (line : Nat) (s : State) (h_s : s.MemOk) : (tidy h line s).MemOk := by
  unfold tidy
  with_reducible repeat' (first
    | assumption | (intro _) | apply modI_memOk | apply memOk_ite | split | dsimp only
    | (rw [memOk_mk]; apply memOk_wf; first | assumption | apply modI_memOk | apply memOk_ite))

theorem ackWb_memOk (h x : Isl) (line : Nat) (s : State) (h_s : s.MemOk) : (ackWb h x line s).MemOk := by
  unfold ackWb
  with_reducible repeat' (first
    | assumption | (intro _) | apply sendMsg_memOk | dsimp only
    | (rw [memOk_mk]; apply memOk_wf; first | assumption | apply sendMsg_memOk))

theorem writeLine_memOk (line : Nat) (d : BitVec 1024) (s : State) (h_s : s.MemOk) : (writeLine line d s).MemOk := by
  unfold writeLine
  with_reducible repeat' (first
    | assumption | (intro _) | apply wf_memWrs | exact memOk_wf ‹_› | dsimp only | (rw [memOk_mk]; first | apply wf_memWrs)
    | (rw [memOk_mk]; apply memOk_wf; first | assumption) | (apply memOk_wf; first | assumption))

theorem writeCrossed_memOk (h x : Isl) (line : Nat) (d : BitVec 1024) (s : State) (h_s : s.MemOk) : (writeCrossed h x line d s).MemOk := by
  unfold writeCrossed
  with_reducible repeat' (first
    | assumption | (intro _) | apply writeLine_memOk | apply markPieces_memOk | apply memOk_ite | split | dsimp only
    | (rw [memOk_mk]; apply memOk_wf; first | assumption | apply writeLine_memOk | apply markPieces_memOk | apply memOk_ite))

theorem execAck_memOk (s : State) (h_s : s.MemOk) : OutOk (execAck s) := by
  unfold execAck
  with_reducible repeat' (first
    | assumption | (intro _) | rw [outOk_next] | apply modBusy_memOk | apply sendMsg_memOk | apply memOk_ite | split
    | dsimp only
    | (rw [memOk_mk]; apply memOk_wf; first | assumption | apply modBusy_memOk | apply sendMsg_memOk | apply memOk_ite))

theorem takeWb_memOk (h x : Isl) (line : Nat) (d : BitVec 1024) (s : State) (h_s : s.MemOk) : (takeWb h x line d s).MemOk := by
  unfold takeWb
  with_reducible repeat' (first
    | assumption | (intro _) | apply ackWb_memOk | apply tidy_memOk | apply modEnt_memOk | apply writeCrossed_memOk
    | apply memOk_ite | split | dsimp only
    | (rw [memOk_mk]; apply memOk_wf; first | assumption | apply ackWb_memOk | apply tidy_memOk | apply modEnt_memOk | apply writeCrossed_memOk | apply memOk_ite))

theorem takeKept_memOk (h : Isl) (line : Nat) (s : State) (h_s : s.MemOk) : (takeKept h line s).MemOk := by
  unfold takeKept
  with_reducible repeat' (first
    | assumption | (intro _) | apply takeWb_memOk | apply modEnt_memOk | apply memOk_ite | split | dsimp only
    | (rw [memOk_mk]; apply memOk_wf; first | assumption | apply takeWb_memOk | apply modEnt_memOk | apply memOk_ite))

theorem execCmp_memOk (s : State) (h_s : s.MemOk) : OutOk (execCmp s) := by
  unfold execCmp
  with_reducible repeat' (first
    | assumption | (intro _) | exact outOk_fault _ | rw [outOk_next] | apply pump_memOk | apply tidy_memOk
    | apply takeKept_memOk | apply modEnt_memOk | apply memOk_ite | split | dsimp only
    | (rw [memOk_mk]; apply memOk_wf; first | assumption | apply pump_memOk | apply tidy_memOk | apply takeKept_memOk | apply modEnt_memOk | apply memOk_ite))

theorem execWb_memOk (s : State) (h_s : s.MemOk) : OutOk (execWb s) := by
  unfold execWb
  with_reducible repeat' (first
    | assumption | (intro _) | exact outOk_fault _ | rw [outOk_next] | apply ackWb_memOk | apply modEnt_memOk | apply pump_memOk
    | apply takeWb_memOk | apply memOk_ite | split | dsimp only
    | (rw [memOk_mk]; apply memOk_wf; first | assumption | apply ackWb_memOk | apply modEnt_memOk | apply pump_memOk | apply takeWb_memOk | apply memOk_ite))

theorem execCe_memOk (s : State) (h_s : s.MemOk) : OutOk (execCe s) := by
  unfold execCe
  with_reducible repeat' (first
    | assumption | (intro _) | rw [outOk_next] | apply pump_memOk | apply tidy_memOk | apply modEnt_memOk | dsimp only)

theorem execFwdack_memOk (s : State) (h_s : s.MemOk) : OutOk (execFwdack s) := by
  unfold execFwdack
  with_reducible repeat' (first
    | assumption | (intro _) | exact outOk_fault _ | rw [outOk_next] | apply writeCrossed_memOk | apply ackWb_memOk
    | apply modEnt_memOk | apply memOk_ite | split | dsimp only
    | (rw [memOk_mk]; apply memOk_wf; first | assumption | apply writeCrossed_memOk | apply ackWb_memOk | apply modEnt_memOk | apply memOk_ite))

theorem backDone_memOk (dirty : Option (BitVec 1024)) (s : State) (h_s : s.MemOk) : (backDone dirty s).MemOk := by
  unfold backDone
  with_reducible repeat' (first
    | assumption | (intro _) | apply modI_memOk | apply writeCrossed_memOk | apply ackWb_memOk | apply modEnt_memOk
    | apply pump_memOk | apply modBusy_memOk | apply memOk_ite | split | dsimp only
    | (rw [memOk_mk]; apply memOk_wf; first | assumption | apply modI_memOk | apply writeCrossed_memOk | apply ackWb_memOk | apply modEnt_memOk | apply pump_memOk | apply modBusy_memOk | apply memOk_ite))

theorem execBack_memOk (s : State) (h_s : s.MemOk) : OutOk (execBack s) := by
  unfold execBack
  with_reducible repeat' (first
    | assumption | (intro _) | rw [outOk_next] | apply backDone_memOk | dsimp only)

theorem execBackd_memOk (s : State) (h_s : s.MemOk) : OutOk (execBackd s) := by
  unfold execBackd
  with_reducible repeat' (first
    | assumption | (intro _) | rw [outOk_next] | apply backDone_memOk | dsimp only)

theorem install_memOk (y : Isl) (line : Nat) (g : Grant) (d : BitVec 1024) (s : State) (h_s : s.MemOk) : (install y line g d s).MemOk := by
  unfold install
  with_reducible repeat' (first
    | assumption | (intro _) | apply modI_memOk | apply writeLine_memOk | apply modBusy_memOk | apply offshoreRoom_memOk
    | apply sendMsg_memOk | apply memOk_ite | split | dsimp only
    | (rw [memOk_mk]; apply memOk_wf; first | assumption | apply modI_memOk | apply writeLine_memOk | apply modBusy_memOk | apply offshoreRoom_memOk | apply sendMsg_memOk | apply memOk_ite))

theorem execData_memOk (s : State) (h_s : s.MemOk) : OutOk (execData s) := by
  unfold execData
  with_reducible repeat' (first
    | assumption | (intro _) | rw [outOk_next] | apply modI_memOk | apply install_memOk | apply memOk_ite | split
    | dsimp only
    | (rw [memOk_mk]; apply memOk_wf; first | assumption | apply modI_memOk | apply install_memOk | apply memOk_ite))

theorem execGo_memOk (s : State) (h_s : s.MemOk) : OutOk (execGo s) := by
  unfold execGo
  with_reducible repeat' (first
    | assumption | (intro _) | rw [outOk_next] | apply modI_memOk | apply install_memOk | apply memOk_ite | split
    | dsimp only
    | (rw [memOk_mk]; apply memOk_wf; first | assumption | apply modI_memOk | apply install_memOk | apply memOk_ite))

theorem forward_memOk (toM : Bool) (s : State) (h_s : s.MemOk) : (forward toM s).MemOk := by
  unfold forward
  with_reducible repeat' (first
    | assumption | (intro _) | apply modI_memOk | apply sendMsg_memOk | apply invAgents_memOk | apply writeLine_memOk
    | apply memOk_ite | split | dsimp only
    | (rw [memOk_mk]; apply memOk_wf; first | assumption | apply modI_memOk | apply sendMsg_memOk | apply invAgents_memOk | apply writeLine_memOk | apply memOk_ite))

theorem execFwds_memOk (s : State) (h_s : s.MemOk) : OutOk (execFwds s) := by
  unfold execFwds
  with_reducible repeat' (first
    | assumption | (intro _) | rw [outOk_next] | apply forward_memOk | dsimp only)

theorem execFwdo_memOk (s : State) (h_s : s.MemOk) : OutOk (execFwdo s) := by
  unfold execFwdo
  with_reducible repeat' (first
    | assumption | (intro _) | rw [outOk_next] | apply forward_memOk | dsimp only)

theorem dropCopy_memOk (x : Isl) (line : Nat) (s : State) (h_s : s.MemOk) : (dropCopy x line s).MemOk := by
  unfold dropCopy
  with_reducible repeat' (first
    | assumption | (intro _) | apply modI_memOk | dsimp only
    | (rw [memOk_mk]; apply memOk_wf; first | assumption | apply modI_memOk))

theorem execInv_memOk (s : State) (h_s : s.MemOk) : OutOk (execInv s) := by
  unfold execInv
  with_reducible repeat' (first
    | assumption | (intro _) | rw [outOk_next] | apply sendMsg_memOk | apply invAgents_memOk | apply dropCopy_memOk
    | dsimp only
    | (rw [memOk_mk]; apply memOk_wf; first | assumption | apply sendMsg_memOk | apply invAgents_memOk | apply dropCopy_memOk))

theorem execBinv_memOk (s : State) (h_s : s.MemOk) : OutOk (execBinv s) := by
  unfold execBinv
  with_reducible repeat' (first
    | assumption | (intro _) | rw [outOk_next] | apply invAgents_memOk | apply dropCopy_memOk | apply sendMsg_memOk
    | apply memOk_ite | split | dsimp only
    | (rw [memOk_mk]; apply memOk_wf; first | assumption | apply invAgents_memOk | apply dropCopy_memOk | apply sendMsg_memOk | apply memOk_ite))

theorem execWback_memOk (s : State) (h_s : s.MemOk) : OutOk (execWback s) := by
  unfold execWback
  with_reducible repeat' (first
    | assumption | (intro _) | rw [outOk_next] | apply modI_memOk | dsimp only
    | (rw [memOk_mk]; apply memOk_wf; first | assumption | apply modI_memOk))

theorem windowWrite_memOk (q m o mask : Nat) (d : BitVec 1024) (s : State) (h_s : s.MemOk) : (windowWrite q m o mask d s).MemOk := by
  unfold windowWrite
  with_reducible repeat' (first
    | assumption | (intro _) | apply modD_memOk | apply after_memOk | apply wf_memWrs | apply wf_filter | apply memOk_ite
    | exact memOk_wf ‹_› | split | dsimp only | (rw [memOk_mk]; first | apply wf_memWrs | apply wf_filter)
    | (rw [memOk_mk]; apply memOk_wf; first | assumption | apply modD_memOk | apply after_memOk | apply memOk_ite)
    | (apply memOk_wf; first | assumption | apply modD_memOk | apply after_memOk | apply memOk_ite))

theorem execHostMemAccess_memOk (s : State) (h_s : s.MemOk) : OutOk (execHostMemAccess s) := by
  unfold execHostMemAccess
  with_reducible repeat' (first
    | assumption | (intro _) | rw [outOk_next] | apply after_memOk | apply windowWrite_memOk | apply writeLine_memOk
    | apply invAgents_memOk | apply askLine_memOk | apply memOk_ite | split | dsimp only)

theorem execHostSnoop_memOk (s : State) (h_s : s.MemOk) : OutOk (execHostSnoop s) := by
  unfold execHostSnoop
  with_reducible repeat' (first
    | assumption | (intro _) | rw [outOk_next] | apply after_memOk | apply invAgents_memOk | apply askLine_memOk
    | apply backInvalidate_memOk | apply memOk_ite | split | dsimp only)

theorem execExpanderBackInvalidation_memOk (s : State) (h_s : s.MemOk) : OutOk (execExpanderBackInvalidation s) := by
  unfold execExpanderBackInvalidation
  with_reducible repeat' (first
    | assumption | (intro _) | rw [outOk_next] | apply after_memOk | apply invAgents_memOk | apply backInvalidate_memOk
    | apply memOk_ite | split | dsimp only)

/-! Contain. -/

theorem execPoisonConsumed_memOk (s : State) (h_s : s.MemOk) : OutOk (execPoisonConsumed s) := by
  unfold execPoisonConsumed
  with_reducible repeat' (first
    | assumption | (intro _) | exact outOk_fault _ | rw [outOk_next] | apply modC_memOk | apply modI_memOk
    | apply startPurge_memOk | apply sendRec_memOk | apply postStop_memOk | apply startEdges_memOk | apply rollback_memOk
    | apply modC_memOk | apply memOk_ite | split | dsimp only
    | (rw [memOk_mk]; apply memOk_wf; first | assumption | apply modC_memOk | apply modI_memOk | apply startPurge_memOk | apply sendRec_memOk | apply postStop_memOk | apply startEdges_memOk | apply rollback_memOk | apply modC_memOk | apply memOk_ite))

theorem chargeOverhead_memOk (s : State) (h_s : s.MemOk) : (chargeOverhead s).MemOk := by
  unfold chargeOverhead
  with_reducible repeat' (first
    | assumption | (intro _) | apply modD_memOk | apply pick_memOk | split | refine pick_pair_memOk (by assumption) ?_
    | dsimp only
    | (rw [memOk_mk]; apply memOk_wf; first | assumption | apply modD_memOk | apply pick_memOk | refine pick_pair_memOk (by assumption) ?_))

theorem execSelfTestComplete_memOk (s : State) (h_s : s.MemOk) : OutOk (execSelfTestComplete s) := by
  unfold execSelfTestComplete
  with_reducible repeat' (first
    | assumption | (intro _) | rw [outOk_next] | apply modI_memOk | apply modD_memOk | apply after_memOk | apply pick_memOk
    | apply requestPreempt_memOk | apply logErr_memOk | apply finishCop_memOk | apply chargeOverhead_memOk
    | apply dispatch_memOk | apply memOk_ite | split | refine pick_pair_memOk (by assumption) ?_ | dsimp only
    | (rw [memOk_mk]; apply memOk_wf; first | assumption | apply modI_memOk | apply modD_memOk | apply after_memOk | apply pick_memOk | apply requestPreempt_memOk | apply logErr_memOk | apply finishCop_memOk | apply chargeOverhead_memOk | apply dispatch_memOk | apply memOk_ite | refine pick_pair_memOk (by assumption) ?_))

theorem execFenceCore_memOk (s : State) (h_s : s.MemOk) : OutOk (execFenceCore s) := by
  unfold execFenceCore
  with_reducible repeat' (first
    | assumption | (intro _) | rw [outOk_next] | apply modI_memOk | apply requestPreempt_memOk | apply logErr_memOk
    | apply memOk_ite | split | dsimp only
    | (rw [memOk_mk]; apply memOk_wf; first | assumption | apply modI_memOk | apply requestPreempt_memOk | apply logErr_memOk | apply memOk_ite))

theorem execFenceSlice_memOk (s : State) (h_s : s.MemOk) : OutOk (execFenceSlice s) := by
  unfold execFenceSlice
  with_reducible repeat' (first
    | assumption | (intro _) | exact outOk_fault _ | rw [outOk_next] | apply modI_memOk | apply emptyPart_memOk
    | apply emptyShelf_memOk | apply logErr_memOk | apply memOk_ite | split | dsimp only
    | (rw [memOk_mk]; apply memOk_wf; first | assumption | apply modI_memOk | apply emptyPart_memOk | apply emptyShelf_memOk | apply logErr_memOk | apply memOk_ite))

theorem execFenceStrait_memOk (s : State) (h_s : s.MemOk) : OutOk (execFenceStrait s) := by
  unfold execFenceStrait
  with_reducible repeat' (first
    | assumption | (intro _) | rw [outOk_next] | apply modI_memOk | apply logErr_memOk | apply memOk_ite | split | dsimp only
    | (rw [memOk_mk]; apply memOk_wf; first | assumption | apply modI_memOk | apply logErr_memOk | apply memOk_ite))

theorem execFenceDramChannel_memOk (s : State) (h_s : s.MemOk) : OutOk (execFenceDramChannel s) := by
  unfold execFenceDramChannel
  with_reducible repeat' (first
    | assumption | (intro _) | rw [outOk_next] | apply modI_memOk | apply logErr_memOk | apply memOk_ite | split | dsimp only
    | (rw [memOk_mk]; apply memOk_wf; first | assumption | apply modI_memOk | apply logErr_memOk | apply memOk_ite))

theorem corrected_memOk (unit : Nat) (y : Isl) (s : State) (h_s : s.MemOk) : (corrected unit y s).MemOk := by
  unfold corrected
  with_reducible repeat' (first
    | assumption | (intro _) | apply modI_memOk | apply modD_memOk | apply logErr_memOk | apply memOk_ite | split
    | dsimp only
    | (rw [memOk_mk]; apply memOk_wf; first | assumption | apply modI_memOk | apply modD_memOk | apply logErr_memOk | apply memOk_ite))

theorem execPatrolScrub_memOk (s : State) (h_s : s.MemOk) : OutOk (execPatrolScrub s) := by
  unfold execPatrolScrub
  with_reducible repeat' (first
    | assumption | (intro _) | exact outOk_fault _ | rw [outOk_next] | apply modI_memOk | apply modD_memOk | apply pick_memOk
    | apply chargeOverhead_memOk | apply logErr_memOk | apply markPieces_memOk | apply modD_memOk | apply corrected_memOk
    | apply nextScrub_memOk | apply memOk_ite | split | refine pick_pair_memOk (by assumption) ?_ | dsimp only
    | (rw [memOk_mk]; apply memOk_wf; first | assumption | apply modI_memOk | apply modD_memOk | apply pick_memOk | apply chargeOverhead_memOk | apply logErr_memOk | apply markPieces_memOk | apply modD_memOk | apply corrected_memOk | apply nextScrub_memOk | apply memOk_ite | refine pick_pair_memOk (by assumption) ?_))

/-! Power. -/

theorem repoint_memOk (y : Isl) (s : State) (h_s : s.MemOk) : (repoint y s).MemOk := by
  unfold repoint
  with_reducible repeat' (first
    | assumption | (intro _) | apply modD_memOk | apply memOk_ite | split | dsimp only
    | (rw [memOk_mk]; apply memOk_wf; first | assumption | apply modD_memOk | apply memOk_ite))

theorem startMove_memOk (y : Isl) (p : Opp) (s : State) (h_s : s.MemOk) : (startMove y p s).MemOk := by
  unfold startMove
  with_reducible repeat' (first
    | assumption | (intro _) | apply modI_memOk | apply after_memOk | apply memOk_ite | split | dsimp only
    | (rw [memOk_mk]; apply memOk_wf; first | assumption | apply modI_memOk | apply after_memOk | apply memOk_ite))

theorem requestPoint_memOk (y : Isl) (p : Opp) (s : State) (h_s : s.MemOk) : (requestPoint y p s).MemOk := by
  unfold requestPoint
  with_reducible repeat' (first
    | assumption | (intro _) | apply modI_memOk | apply startMove_memOk | apply memOk_ite | split | dsimp only
    | (rw [memOk_mk]; apply memOk_wf; first | assumption | apply modI_memOk | apply startMove_memOk | apply memOk_ite))

theorem writeOpm_memOk (y : Isl) (v : W64) (s : State) (h_s : s.MemOk) : (writeOpm y v s).MemOk := by
  unfold writeOpm
  with_reducible repeat' (first
    | assumption | (intro _) | apply modI_memOk | apply repoint_memOk | apply requestPoint_memOk | apply memOk_ite | split
    | dsimp only
    | (rw [memOk_mk]; apply memOk_wf; first | assumption | apply modI_memOk | apply repoint_memOk | apply requestPoint_memOk | apply memOk_ite))

theorem execOpmWrite_memOk (s : State) (h_s : s.MemOk) : OutOk (execOpmWrite s) := by
  unfold execOpmWrite
  with_reducible repeat' (first
    | assumption | (intro _) | rw [outOk_next] | apply writeOpm_memOk | dsimp only)

theorem execRailMoveStep_memOk (s : State) (h_s : s.MemOk) : OutOk (execRailMoveStep s) := by
  unfold execRailMoveStep
  with_reducible repeat' (first
    | assumption | (intro _) | rw [outOk_next] | apply modI_memOk | apply after_memOk | apply repoint_memOk
    | apply startMove_memOk | apply memOk_ite | split | dsimp only
    | (rw [memOk_mk]; apply memOk_wf; first | assumption | apply modI_memOk | apply after_memOk | apply repoint_memOk | apply startMove_memOk | apply memOk_ite))

theorem execOpmdWrite_memOk (s : State) (h_s : s.MemOk) : OutOk (execOpmdWrite s) := by
  unfold execOpmdWrite
  with_reducible repeat' (first
    | assumption | (intro _) | rw [outOk_next] | apply modI_memOk | apply memOk_ite | split | dsimp only
    | (rw [memOk_mk]; apply memOk_wf; first | assumption | apply modI_memOk | apply memOk_ite))

theorem execGovWrite_memOk (s : State) (h_s : s.MemOk) : OutOk (execGovWrite s) := by
  unfold execGovWrite
  with_reducible repeat' (first
    | assumption | (intro _) | rw [outOk_next] | apply modI_memOk | apply memOk_ite | split | dsimp only
    | (rw [memOk_mk]; apply memOk_wf; first | assumption | apply modI_memOk | apply memOk_ite))

theorem execGovernorWindow_memOk (s : State) (h_s : s.MemOk) : OutOk (execGovernorWindow s) := by
  unfold execGovernorWindow
  with_reducible repeat' (first
    | assumption | (intro _) | rw [outOk_next] | apply modI_memOk | apply after_memOk | apply memOk_ite | split | dsimp only
    | (rw [memOk_mk]; apply memOk_wf; first | assumption | apply modI_memOk | apply after_memOk | apply memOk_ite))

theorem storeEntry_memOk (e : Nat) (w0 w1 : W64) (s : State) (h_s : s.MemOk) : (storeEntry e w0 w1 s).MemOk := by
  unfold storeEntry
  with_reducible repeat' (first
    | assumption | (intro _) | apply modD_memOk | apply memOk_ite | split | dsimp only
    | (rw [memOk_mk]; apply memOk_wf; first | assumption | apply modD_memOk | apply memOk_ite))

theorem execOptd1Write_memOk (s : State) (h_s : s.MemOk) : OutOk (execOptd1Write s) := by
  unfold execOptd1Write
  with_reducible repeat' (first
    | assumption | (intro _) | rw [outOk_next] | apply modI_memOk | apply storeEntry_memOk | dsimp only
    | (rw [memOk_mk]; apply memOk_wf; first | assumption | apply modI_memOk | apply storeEntry_memOk))

theorem execOptMirrorWrite_memOk (s : State) (h_s : s.MemOk) : OutOk (execOptMirrorWrite s) := by
  unfold execOptMirrorWrite
  with_reducible repeat' (first
    | assumption | (intro _) | rw [outOk_next] | apply modD_memOk | apply storeEntry_memOk | apply memOk_ite | split
    | dsimp only
    | (rw [memOk_mk]; apply memOk_wf; first | assumption | apply modD_memOk | apply storeEntry_memOk | apply memOk_ite))

theorem grantVariants_memOk (y : Isl) (s : State) (h_s : s.MemOk) : (grantVariants y s).MemOk := by
  unfold grantVariants
  with_reducible repeat' (first
    | assumption | (intro _) | apply modC_memOk | apply memOk_foldl | apply memOk_ite | split | dsimp only
    | (rw [memOk_mk]; apply memOk_wf; first | assumption | apply modC_memOk | apply memOk_foldl | apply memOk_ite))

theorem tripThermal_memOk (y : Isl) (s : State) (h_s : s.MemOk) : (tripThermal y s).MemOk := by
  unfold tripThermal
  with_reducible repeat' (first
    | assumption | (intro _) | apply modI_memOk | apply logErr_memOk | dsimp only
    | (rw [memOk_mk]; apply memOk_wf; first | assumption | apply modI_memOk | apply logErr_memOk))

theorem countRetries_memOk (y : Isl) (s : State) (h_s : s.MemOk) : (countRetries y s).MemOk := by
  unfold countRetries
  exact memOk_foldl _ _ _ h_s fun x _ h => modI_memOk (pick_memOk h)

theorem metErrors_memOk (y : Isl) (s : State) (h_s : s.MemOk) : (metErrors y s).MemOk := by
  unfold metErrors
  with_reducible repeat' (first
    | assumption | (intro _) | apply pick_memOk | apply memOk_foldl | apply corrected_memOk | split
    | refine pick_pair_memOk (by assumption) ?_ | dsimp only
    | (rw [memOk_mk]; apply memOk_wf; first | assumption | apply pick_memOk | apply memOk_foldl | apply corrected_memOk | refine pick_pair_memOk (by assumption) ?_))

theorem measureReserve_memOk (s : State) (h_s : s.MemOk) : (measureReserve s).MemOk := by
  unfold measureReserve
  with_reducible repeat' (first
    | assumption | (intro _) | apply modD_memOk | apply pickW_memOk | apply dispatch_memOk | apply memOk_ite | split
    | refine pickW_pair_memOk (by assumption) ?_ | dsimp only
    | (rw [memOk_mk]; apply memOk_wf; first | assumption | apply modD_memOk | apply pickW_memOk | apply dispatch_memOk | apply memOk_ite | refine pickW_pair_memOk (by assumption) ?_))

theorem execControlInterval_memOk (s : State) (h_s : s.MemOk) : OutOk (execControlInterval s) := by
  unfold execControlInterval
  with_reducible repeat' (first
    | assumption | (intro _) | exact outOk_fault _ | rw [outOk_next] | apply modI_memOk | apply at_memOk | apply now_memOk
    | apply pick_memOk | apply memOk_foldl | apply tripThermal_memOk | apply chargeCtx_memOk | apply grantVariants_memOk
    | apply measureReserve_memOk | apply at_memOk | apply metErrors_memOk | apply countRetries_memOk | apply memOk_ite | split
    | refine pick_pair_memOk (by assumption) ?_ | dsimp only
    | (rw [memOk_mk]; apply memOk_wf; first | assumption | apply modI_memOk | apply at_memOk | apply now_memOk | apply pick_memOk | apply memOk_foldl | apply tripThermal_memOk | apply chargeCtx_memOk | apply grantVariants_memOk | apply measureReserve_memOk | apply at_memOk | apply metErrors_memOk | apply countRetries_memOk | apply memOk_ite | refine pick_pair_memOk (by assumption) ?_))

theorem execThermalTrip_memOk (s : State) (h_s : s.MemOk) : OutOk (execThermalTrip s) := by
  unfold execThermalTrip
  with_reducible repeat' (first
    | assumption | (intro _) | rw [outOk_next] | apply tripThermal_memOk | dsimp only)

theorem execPlsWrite_memOk (s : State) (h_s : s.MemOk) : OutOk (execPlsWrite s) := by
  unfold execPlsWrite
  with_reducible repeat' (first
    | assumption | (intro _) | rw [outOk_next] | apply modI_memOk | apply memOk_ite | split | dsimp only
    | (rw [memOk_mk]; apply memOk_wf; first | assumption | apply modI_memOk | apply memOk_ite))

theorem execSlrWrite_memOk (s : State) (h_s : s.MemOk) : OutOk (execSlrWrite s) := by
  unfold execSlrWrite
  with_reducible repeat' (first
    | assumption | (intro _) | rw [outOk_next] | apply modI_memOk | apply memOk_ite | split | dsimp only
    | (rw [memOk_mk]; apply memOk_wf; first | assumption | apply modI_memOk | apply memOk_ite))

theorem changeDiv_memOk (c : CoreId) (s0 : State) (h_s0 : s0.MemOk) : (changeDiv c s0).MemOk := by
  unfold changeDiv
  with_reducible repeat' (first
    | assumption | (intro _) | apply modC_memOk | apply classUp_memOk | apply State.ready_memOk | apply memOk_ite | split
    | refine State.ready_pair_memOk (by assumption) ?_ | dsimp only
    | (rw [memOk_mk]; apply memOk_wf; first | assumption | apply modC_memOk | apply classUp_memOk | apply State.ready_memOk | apply memOk_ite | refine State.ready_pair_memOk (by assumption) ?_))

theorem execDivisorChange_memOk (s : State) (h_s : s.MemOk) : OutOk (execDivisorChange s) := by
  unfold execDivisorChange
  with_reducible repeat' (first
    | assumption | (intro _) | rw [outOk_next] | apply changeDiv_memOk | dsimp only)

/-! Fleet. -/

theorem execTelemetrySnapshot_memOk (s : State) (h_s : s.MemOk) : OutOk (execTelemetrySnapshot s) := by
  unfold execTelemetrySnapshot
  with_reducible repeat' (first
    | assumption | (intro _) | rw [outOk_next] | apply modD_memOk | apply after_memOk | apply pick_memOk | apply memOk_ite
    | split | refine pick_pair_memOk (by assumption) ?_ | dsimp only
    | (rw [memOk_mk]; apply memOk_wf; first | assumption | apply modD_memOk | apply after_memOk | apply pick_memOk | apply memOk_ite | refine pick_pair_memOk (by assumption) ?_))

theorem execTelemetrySnapshotDone_memOk (s : State) (h_s : s.MemOk) : OutOk (execTelemetrySnapshotDone s) := by
  unfold execTelemetrySnapshotDone
  with_reducible repeat' (first
    | assumption | (intro _) | rw [outOk_next] | apply modD_memOk | dsimp only
    | (rw [memOk_mk]; apply memOk_wf; first | assumption | apply modD_memOk))

theorem execInfieldTestRequest_memOk (s : State) (h_s : s.MemOk) : OutOk (execInfieldTestRequest s) := by
  unfold execInfieldTestRequest
  with_reducible repeat' (first
    | assumption | (intro _) | rw [outOk_next] | apply modD_memOk | apply askTest_memOk | apply memOk_ite | split
    | dsimp only
    | (rw [memOk_mk]; apply memOk_wf; first | assumption | apply modD_memOk | apply askTest_memOk | apply memOk_ite))

theorem execFwProg_memOk (s : State) (h_s : s.MemOk) : OutOk (execFwProg s) := by
  unfold execFwProg
  with_reducible repeat' (first
    | assumption | (intro _) | rw [outOk_next] | apply modD_memOk | apply after_memOk | apply pick_memOk | apply memOk_ite
    | split | refine pick_pair_memOk (by assumption) ?_ | dsimp only
    | (rw [memOk_mk]; apply memOk_wf; first | assumption | apply modD_memOk | apply after_memOk | apply pick_memOk | apply memOk_ite | refine pick_pair_memOk (by assumption) ?_))

theorem programBank_memOk (img : List Byte) (s : State) (h_s : s.MemOk) : (programBank img s).MemOk := by
  unfold programBank
  dsimp only
  split <;> exact modD_memOk h_s

theorem execFwProgComplete_memOk (s : State) (h_s : s.MemOk) : OutOk (execFwProgComplete s) := by
  unfold execFwProgComplete
  split
  · exact h_s
  · exact programBank_memOk _ _ h_s

theorem execFwCommit_memOk (s : State) (h_s : s.MemOk) : OutOk (execFwCommit s) := by
  unfold execFwCommit
  with_reducible repeat' (first
    | assumption | (intro _) | rw [outOk_next] | apply modD_memOk | apply memOk_ite | split | dsimp only
    | (rw [memOk_mk]; apply memOk_wf; first | assumption | apply modD_memOk | apply memOk_ite))

theorem execAttestationStart_memOk (s : State) (h_s : s.MemOk) : OutOk (execAttestationStart s) := by
  unfold execAttestationStart
  with_reducible repeat' (first
    | assumption | (intro _) | rw [outOk_next] | apply modD_memOk | apply after_memOk | apply pick_memOk | apply memOk_ite
    | split | refine pick_pair_memOk (by assumption) ?_ | dsimp only
    | (rw [memOk_mk]; apply memOk_wf; first | assumption | apply modD_memOk | apply after_memOk | apply pick_memOk | apply memOk_ite | refine pick_pair_memOk (by assumption) ?_))

theorem execAttestationReport_memOk (s : State) (h_s : s.MemOk) : OutOk (execAttestationReport s) := by
  unfold execAttestationReport
  with_reducible repeat' (first
    | assumption | (intro _) | rw [outOk_next] | apply modD_memOk | apply memOk_ite | split | dsimp only
    | (rw [memOk_mk]; apply memOk_wf; first | assumption | apply modD_memOk | apply memOk_ite))

theorem refuseWrite_memOk (s : State) (h_s : s.MemOk) : (refuseWrite s).MemOk := by
  unfold refuseWrite
  with_reducible repeat' (first
    | assumption | (intro _) | apply modD_memOk | dsimp only
    | (rw [memOk_mk]; apply memOk_wf; first | assumption | apply modD_memOk))

theorem execPartitionWrite_memOk (s : State) (h_s : s.MemOk) : OutOk (execPartitionWrite s) := by
  unfold execPartitionWrite
  with_reducible repeat' (first
    | assumption | (intro _) | rw [outOk_next] | apply modI_memOk | apply modD_memOk | apply memOk_foldl
    | apply refuseWrite_memOk | apply memOk_ite | split | dsimp only
    | (rw [memOk_mk]; apply memOk_wf; first | assumption | apply modI_memOk | apply modD_memOk | apply memOk_foldl | apply refuseWrite_memOk | apply memOk_ite))

/-! Micro. -/

theorem microFault_memOk (fc : Nat) (s : State) (h_s : s.MemOk) : (microFault fc s).MemOk := by
  unfold microFault
  with_reducible repeat' (first
    | assumption | (intro _) | apply now_memOk | dsimp only
    | (rw [memOk_mk]; apply memOk_wf; first | assumption | apply now_memOk))

theorem control_memOk (f : Routine → Routine) (s : State) (h_s : s.MemOk) : (control f s).MemOk := by
  unfold control
  with_reducible repeat' (first
    | assumption | (intro _) | apply modMe_memOk | apply after_memOk | apply memOk_ite | split | dsimp only
    | (rw [memOk_mk]; apply memOk_wf; first | assumption | apply modMe_memOk | apply after_memOk | apply memOk_ite))

theorem arrayOp_memOk (n : Nat) (active : Bool) (s : State) (h_s : s.MemOk) : (arrayOp n active s).MemOk := by
  unfold arrayOp
  with_reducible repeat' (first
    | assumption | (intro _) | apply modMe_memOk | apply after_memOk | apply memOk_ite | split | dsimp only
    | (rw [memOk_mk]; apply memOk_wf; first | assumption | apply modMe_memOk | apply after_memOk | apply memOk_ite))

theorem onRoutine_memOk (s : State) (f : Routine → State) (h_s : s.MemOk) (h_f : ∀ r, (f r).MemOk) : OutOk (onRoutine s f) := by
  unfold onRoutine
  with_reducible repeat' (first
    | assumption | (intro _) | rw [outOk_next] | apply h_f | split | dsimp only)

theorem execFin_memOk (s : State) (h_s : s.MemOk) : OutOk (execFin s) := by
  unfold execFin
  with_reducible repeat' (first
    | assumption | (intro _) | rw [outOk_next] | apply modMe_memOk | apply onRoutine_memOk | apply leaveArray_memOk
    | apply memOk_ite | split | dsimp only
    | (rw [memOk_mk]; apply memOk_wf; first | assumption | apply modMe_memOk | apply onRoutine_memOk | apply leaveArray_memOk | apply memOk_ite))

theorem execFmt_memOk (ta tb : BitVec 4) (es : Bool) (s : State) (h_s : s.MemOk) : OutOk (execFmt ta tb es s) := by
  unfold execFmt
  with_reducible repeat' (first
    | assumption | (intro _) | rw [outOk_next] | apply onRoutine_memOk | apply microFault_memOk | apply control_memOk
    | apply memOk_ite | split | dsimp only
    | (rw [memOk_mk]; apply memOk_wf; first | assumption | apply onRoutine_memOk | apply microFault_memOk | apply control_memOk | apply memOk_ite))

theorem execUse_memOk (l : BitVec 3) (a : BitVec 2) (s : State) (h_s : s.MemOk) : OutOk (execUse l a s) := by
  unfold execUse
  with_reducible repeat' (first
    | assumption | (intro _) | rw [outOk_next] | apply modMe_memOk | apply onRoutine_memOk | apply control_memOk
    | apply memOk_ite | split | dsimp only
    | (rw [memOk_mk]; apply memOk_wf; first | assumption | apply modMe_memOk | apply onRoutine_memOk | apply control_memOk | apply memOk_ite))

theorem execAct_memOk (v : MVal) (s : State) (h_s : s.MemOk) : OutOk (execAct v s) := by
  unfold execAct
  with_reducible repeat' (first
    | assumption | (intro _) | rw [outOk_next] | apply onRoutine_memOk | apply microFault_memOk | apply control_memOk
    | apply memOk_ite | split | dsimp only
    | (rw [memOk_mk]; apply memOk_wf; first | assumption | apply onRoutine_memOk | apply microFault_memOk | apply control_memOk | apply memOk_ite))

theorem execLk_memOk (v : MVal) (s : State) (h_s : s.MemOk) : OutOk (execLk v s) := by
  unfold execLk
  with_reducible repeat' (first
    | assumption | (intro _) | rw [outOk_next] | apply onRoutine_memOk | apply control_memOk | dsimp only
    | (rw [memOk_mk]; apply memOk_wf; first | assumption | apply onRoutine_memOk | apply control_memOk))

theorem execBk_memOk (v : MVal) (s : State) (h_s : s.MemOk) : OutOk (execBk v s) := by
  unfold execBk
  with_reducible repeat' (first
    | assumption | (intro _) | rw [outOk_next] | apply onRoutine_memOk | apply control_memOk | dsimp only
    | (rw [memOk_mk]; apply memOk_wf; first | assumption | apply onRoutine_memOk | apply control_memOk))

theorem execLkadd_memOk (v : MVal) (s : State) (h_s : s.MemOk) : OutOk (execLkadd v s) := by
  unfold execLkadd
  with_reducible repeat' (first
    | assumption | (intro _) | rw [outOk_next] | apply onRoutine_memOk | apply control_memOk | dsimp only
    | (rw [memOk_mk]; apply memOk_wf; first | assumption | apply onRoutine_memOk | apply control_memOk))

theorem execBkadd_memOk (v : MVal) (s : State) (h_s : s.MemOk) : OutOk (execBkadd v s) := by
  unfold execBkadd
  with_reducible repeat' (first
    | assumption | (intro _) | rw [outOk_next] | apply onRoutine_memOk | apply control_memOk | dsimp only
    | (rw [memOk_mk]; apply memOk_wf; first | assumption | apply onRoutine_memOk | apply control_memOk))

theorem mac_memOk (n : Nat) (sub : Bool) (s : State) (h_s : s.MemOk) : OutOk (mac n sub s) := by
  unfold mac
  with_reducible repeat' (first
    | assumption | (intro _) | exact outOk_fault _ | rw [outOk_next] | apply modMe_memOk | apply onRoutine_memOk
    | apply microFault_memOk | apply engineConsumes_memOk | apply noteSpans_memOk | apply macStep_memOk | apply arrayOp_memOk
    | apply memOk_ite | split | refine macStep_pair_memOk (by assumption) ?_ | dsimp only
    | (rw [memOk_mk]; apply memOk_wf; first | assumption | apply modMe_memOk | apply onRoutine_memOk | apply microFault_memOk | apply engineConsumes_memOk | apply noteSpans_memOk | apply macStep_memOk | apply arrayOp_memOk | apply memOk_ite | refine macStep_pair_memOk (by assumption) ?_))

theorem execMac_memOk (n : BitVec 6) (s : State) (h_s : s.MemOk) : OutOk (execMac n s) := by
  unfold execMac
  with_reducible repeat' (first
    | assumption | (intro _) | rw [outOk_next] | apply mac_memOk | dsimp only)

theorem execMacn_memOk (n : BitVec 6) (s : State) (h_s : s.MemOk) : OutOk (execMacn n s) := by
  unfold execMacn
  with_reducible repeat' (first
    | assumption | (intro _) | rw [outOk_next] | apply mac_memOk | dsimp only)

theorem execZero_memOk (s : State) (h_s : s.MemOk) : OutOk (execZero s) := by
  unfold execZero
  with_reducible repeat' (first
    | assumption | (intro _) | rw [outOk_next] | apply modMe_memOk | apply memOk_foldl | apply wf_memZero | apply wf_foldl
    | apply onRoutine_memOk | apply arrayOp_memOk | apply memOk_ite | exact memOk_wf ‹_› | split | dsimp only
    | (rw [memOk_mk]; first | apply wf_memZero | apply wf_foldl)
    | (rw [memOk_mk]; apply memOk_wf; first | assumption | apply modMe_memOk | apply memOk_foldl | apply onRoutine_memOk | apply arrayOp_memOk | apply memOk_ite)
    | (apply memOk_wf; first | assumption | apply modMe_memOk | apply memOk_foldl | apply onRoutine_memOk | apply arrayOp_memOk | apply memOk_ite))

theorem execIdle_memOk (n1 : BitVec 12) (s : State) (h_s : s.MemOk) : OutOk (execIdle n1 s) := by
  unfold execIdle
  with_reducible repeat' (first
    | assumption | (intro _) | rw [outOk_next] | apply onRoutine_memOk | apply arrayOp_memOk | dsimp only)

theorem execCnt_memOk (v : MVal) (x : Bool) (s : State) (h_s : s.MemOk) : OutOk (execCnt v x s) := by
  unfold execCnt
  with_reducible repeat' (first
    | assumption | (intro _) | rw [outOk_next] | apply onRoutine_memOk | apply control_memOk | dsimp only)

theorem execRep_memOk (x : Bool) (t : BitVec 10) (s : State) (h_s : s.MemOk) : OutOk (execRep x t s) := by
  unfold execRep
  with_reducible repeat' (first
    | assumption | (intro _) | rw [outOk_next] | apply onRoutine_memOk | apply control_memOk | apply memOk_ite | split
    | dsimp only
    | (rw [memOk_mk]; apply memOk_wf; first | assumption | apply onRoutine_memOk | apply control_memOk | apply memOk_ite))

theorem execBrz_memOk (i : BitVec 3) (q : BitVec 2) (t : BitVec 10) (s : State) (h_s : s.MemOk) : OutOk (execBrz i q t s) := by
  unfold execBrz
  with_reducible repeat' (first
    | assumption | (intro _) | rw [outOk_next] | apply onRoutine_memOk | apply control_memOk | apply memOk_ite | split
    | dsimp only
    | (rw [memOk_mk]; apply memOk_wf; first | assumption | apply onRoutine_memOk | apply control_memOk | apply memOk_ite))

theorem endTail_memOk (c : CoreId) (s : State) (h_s : s.MemOk) : (endTail c s).MemOk := by
  unfold endTail
  with_reducible repeat' (first
    | assumption | (intro _) | apply modC_memOk | apply finishMx_memOk | split | dsimp only
    | (rw [memOk_mk]; apply memOk_wf; first | assumption | apply modC_memOk | apply finishMx_memOk))

theorem execRoutineComplete_memOk (s : State) (h_s : s.MemOk) : OutOk (execRoutineComplete s) := by
  unfold execRoutineComplete
  with_reducible repeat' (first
    | assumption | (intro _) | rw [outOk_next] | apply endTail_memOk | dsimp only)

theorem execAzeroComplete_memOk (s : State) (h_s : s.MemOk) : OutOk (execAzeroComplete s) := by
  unfold execAzeroComplete
  with_reducible repeat' (first
    | assumption | (intro _) | rw [outOk_next] | apply endTail_memOk | dsimp only)

theorem execRoutineFault_memOk (s : State) (h_s : s.MemOk) : OutOk (execRoutineFault s) := by
  unfold execRoutineFault
  with_reducible repeat' (first
    | assumption | (intro _) | rw [outOk_next] | apply modC_memOk | split | dsimp only
    | (rw [memOk_mk]; apply memOk_wf; first | assumption | apply modC_memOk))

/-! Predicate. -/

theorem cmpRR_memOk (f : W64 → W64 → Bool) (g : Guard) (pd : BitVec 4) (a b : BitVec 6) (s : State) (h_s : s.MemOk) : OutOk (cmpRR f g pd a b s) := by
  unfold cmpRR
  with_reducible repeat' (first
    | assumption | (intro _) | rw [outOk_next] | apply guarded_memOk | apply toP_memOk | dsimp only)

theorem cmpRI_memOk (f : W64 → W64 → Bool) (g : Guard) (pd : BitVec 4) (a : BitVec 6) (imm : BitVec 33) (s : State) (h_s : s.MemOk) : OutOk (cmpRI f g pd a imm s) := by
  unfold cmpRI
  with_reducible repeat' (first
    | assumption | (intro _) | rw [outOk_next] | apply guarded_memOk | apply toP_memOk | dsimp only)

theorem pred2_memOk (f : W64 → W64 → W64) (g : Guard) (pd px py : BitVec 4) (s : State) (h_s : s.MemOk) : OutOk (pred2 f g pd px py s) := by
  unfold pred2
  with_reducible repeat' (first
    | assumption | (intro _) | rw [outOk_next] | apply guarded_memOk | apply toP_memOk | dsimp only)

theorem execCmpeq_memOk (g : Guard) (pd : BitVec 4) (a b : BitVec 6) (s : State) (h_s : s.MemOk) : OutOk (execCmpeq g pd a b s) := by
  unfold execCmpeq
  with_reducible repeat' (first
    | assumption | (intro _) | rw [outOk_next] | apply cmpRR_memOk | dsimp only)

theorem execCmpne_memOk (g : Guard) (pd : BitVec 4) (a b : BitVec 6) (s : State) (h_s : s.MemOk) : OutOk (execCmpne g pd a b s) := by
  unfold execCmpne
  with_reducible repeat' (first
    | assumption | (intro _) | rw [outOk_next] | apply cmpRR_memOk | dsimp only)

theorem execCmplt_memOk (g : Guard) (pd : BitVec 4) (a b : BitVec 6) (s : State) (h_s : s.MemOk) : OutOk (execCmplt g pd a b s) := by
  unfold execCmplt
  with_reducible repeat' (first
    | assumption | (intro _) | rw [outOk_next] | apply cmpRR_memOk | dsimp only)

theorem execCmple_memOk (g : Guard) (pd : BitVec 4) (a b : BitVec 6) (s : State) (h_s : s.MemOk) : OutOk (execCmple g pd a b s) := by
  unfold execCmple
  with_reducible repeat' (first
    | assumption | (intro _) | rw [outOk_next] | apply cmpRR_memOk | dsimp only)

theorem execCmpltn_memOk (g : Guard) (pd : BitVec 4) (a b : BitVec 6) (s : State) (h_s : s.MemOk) : OutOk (execCmpltn g pd a b s) := by
  unfold execCmpltn
  with_reducible repeat' (first
    | assumption | (intro _) | rw [outOk_next] | apply cmpRR_memOk | dsimp only)

theorem execCmplen_memOk (g : Guard) (pd : BitVec 4) (a b : BitVec 6) (s : State) (h_s : s.MemOk) : OutOk (execCmplen g pd a b s) := by
  unfold execCmplen
  with_reducible repeat' (first
    | assumption | (intro _) | rw [outOk_next] | apply cmpRR_memOk | dsimp only)

theorem execCmpeqi_memOk (g : Guard) (pd : BitVec 4) (a : BitVec 6) (imm : BitVec 33) (s : State) (h_s : s.MemOk) : OutOk (execCmpeqi g pd a imm s) := by
  unfold execCmpeqi
  with_reducible repeat' (first
    | assumption | (intro _) | rw [outOk_next] | apply cmpRI_memOk | dsimp only)

theorem execCmplti_memOk (g : Guard) (pd : BitVec 4) (a : BitVec 6) (imm : BitVec 33) (s : State) (h_s : s.MemOk) : OutOk (execCmplti g pd a imm s) := by
  unfold execCmplti
  with_reducible repeat' (first
    | assumption | (intro _) | rw [outOk_next] | apply cmpRI_memOk | dsimp only)

theorem execPand_memOk (g : Guard) (pd px py : BitVec 4) (s : State) (h_s : s.MemOk) : OutOk (execPand g pd px py s) := by
  unfold execPand
  with_reducible repeat' (first
    | assumption | (intro _) | rw [outOk_next] | apply pred2_memOk | dsimp only)

theorem execPor_memOk (g : Guard) (pd px py : BitVec 4) (s : State) (h_s : s.MemOk) : OutOk (execPor g pd px py s) := by
  unfold execPor
  with_reducible repeat' (first
    | assumption | (intro _) | rw [outOk_next] | apply pred2_memOk | dsimp only)

theorem execPxor_memOk (g : Guard) (pd px py : BitVec 4) (s : State) (h_s : s.MemOk) : OutOk (execPxor g pd px py s) := by
  unfold execPxor
  with_reducible repeat' (first
    | assumption | (intro _) | rw [outOk_next] | apply pred2_memOk | dsimp only)

theorem execPandn_memOk (g : Guard) (pd px py : BitVec 4) (s : State) (h_s : s.MemOk) : OutOk (execPandn g pd px py s) := by
  unfold execPandn
  with_reducible repeat' (first
    | assumption | (intro _) | rw [outOk_next] | apply pred2_memOk | dsimp only)

theorem execPnot_memOk (g : Guard) (pd px : BitVec 4) (s : State) (h_s : s.MemOk) : OutOk (execPnot g pd px s) := by
  unfold execPnot
  with_reducible repeat' (first
    | assumption | (intro _) | rw [outOk_next] | apply guarded_memOk | apply toP_memOk | dsimp only)

theorem execPmov_memOk (g : Guard) (pd px : BitVec 4) (s : State) (h_s : s.MemOk) : OutOk (execPmov g pd px s) := by
  unfold execPmov
  with_reducible repeat' (first
    | assumption | (intro _) | rw [outOk_next] | apply guarded_memOk | apply toP_memOk | dsimp only)

theorem execPset_memOk (g : Guard) (pd : BitVec 4) (a : BitVec 6) (s : State) (h_s : s.MemOk) : OutOk (execPset g pd a s) := by
  unfold execPset
  with_reducible repeat' (first
    | assumption | (intro _) | rw [outOk_next] | apply guarded_memOk | apply toP_memOk | dsimp only)

theorem execPget_memOk (g : Guard) (d : BitVec 6) (px : BitVec 4) (s : State) (h_s : s.MemOk) : OutOk (execPget g d px s) := by
  unfold execPget
  with_reducible repeat' (first
    | assumption | (intro _) | rw [outOk_next] | apply guarded_memOk | apply toS_memOk | dsimp only)

theorem execPcnt_memOk (g : Guard) (d : BitVec 6) (px : BitVec 4) (s : State) (h_s : s.MemOk) : OutOk (execPcnt g d px s) := by
  unfold execPcnt
  with_reducible repeat' (first
    | assumption | (intro _) | rw [outOk_next] | apply guarded_memOk | apply toS_memOk | dsimp only)

/-! Regs. -/

theorem modCtx_memOk (cx : BitVec 7) (f : Ctx → Ctx) (s : State) (h_s : s.MemOk) : (modCtx cx f s).MemOk := by
  unfold modCtx
  with_reducible repeat' (first
    | assumption | (intro _) | apply modD_memOk | dsimp only
    | (rw [memOk_mk]; apply memOk_wf; first | assumption | apply modD_memOk))

theorem busyWrite_memOk (s : State) (h_s : s.MemOk) : (busyWrite s).MemOk := by
  unfold busyWrite
  with_reducible repeat' (first
    | assumption | (intro _) | apply modD_memOk | dsimp only
    | (rw [memOk_mk]; apply memOk_wf; first | assumption | apply modD_memOk))

theorem writeCtxReg_memOk (cx : BitVec 7) (k : BitVec 3) (w : W64) (s : State) (h_s : s.MemOk) : (writeCtxReg cx k w s).MemOk := by
  unfold writeCtxReg
  with_reducible repeat' (first
    | assumption | (intro _) | apply busyWrite_memOk | apply modCtx_memOk | apply memOk_ite | split | dsimp only
    | (rw [memOk_mk]; apply memOk_wf; first | assumption | apply busyWrite_memOk | apply modCtx_memOk | apply memOk_ite))

theorem execCtxcWrite_memOk (s : State) (h_s : s.MemOk) : OutOk (execCtxcWrite s) := by
  unfold execCtxcWrite
  with_reducible repeat' (first
    | assumption | (intro _) | rw [outOk_next] | apply busyWrite_memOk | apply modCtx_memOk | apply memOk_ite | split
    | dsimp only
    | (rw [memOk_mk]; apply memOk_wf; first | assumption | apply busyWrite_memOk | apply modCtx_memOk | apply memOk_ite))

theorem modKey_memOk (k : BitVec 7) (f : KeySlot → KeySlot) (s : State) (h_s : s.MemOk) : (modKey k f s).MemOk := by
  unfold modKey
  with_reducible repeat' (first
    | assumption | (intro _) | apply modD_memOk | dsimp only
    | (rw [memOk_mk]; apply memOk_wf; first | assumption | apply modD_memOk))

theorem execKeyLoad_memOk (s : State) (h_s : s.MemOk) : OutOk (execKeyLoad s) := by
  unfold execKeyLoad
  with_reducible repeat' (first
    | assumption | (intro _) | rw [outOk_next] | apply modI_memOk | apply modKey_memOk | dsimp only
    | (rw [memOk_mk]; apply memOk_wf; first | assumption | apply modI_memOk | apply modKey_memOk))

theorem execKeyErase_memOk (s : State) (h_s : s.MemOk) : OutOk (execKeyErase s) := by
  unfold execKeyErase
  with_reducible repeat' (first
    | assumption | (intro _) | rw [outOk_next] | apply modKey_memOk | apply memOk_ite | split | dsimp only)

theorem fillFrame_memOk (frame tag n : Nat) (s : State) (h_s : s.MemOk) : (fillFrame frame tag n s).MemOk := by
  unfold fillFrame
  with_reducible repeat' (first
    | assumption | (intro _) | apply memOk_foldl | apply lineWr_memOk | dsimp only)

theorem execPginService_memOk (s : State) (h_s : s.MemOk) : OutOk (execPginService s) := by
  unfold execPginService
  with_reducible repeat' (first
    | assumption | (intro _) | rw [outOk_next] | apply modI_memOk | apply pick_memOk | apply cohWr_memOk
    | apply fillFrame_memOk | apply memOk_ite | split | refine pick_pair_memOk (by assumption) ?_ | dsimp only
    | (rw [memOk_mk]; apply memOk_wf; first | assumption | apply modI_memOk | apply pick_memOk | apply cohWr_memOk | apply fillFrame_memOk | apply memOk_ite | refine pick_pair_memOk (by assumption) ?_))

theorem execBiasFlipToHost_memOk (s : State) (h_s : s.MemOk) : OutOk (execBiasFlipToHost s) := by
  unfold execBiasFlipToHost
  with_reducible repeat' (first
    | assumption | (intro _) | rw [outOk_next] | apply modC_memOk | apply modD_memOk | apply after_memOk | apply pick_memOk
    | apply memOk_foldl | apply memOk_ite | split | refine pick_pair_memOk (by assumption) ?_ | dsimp only
    | (rw [memOk_mk]; apply memOk_wf; first | assumption | apply modC_memOk | apply modD_memOk | apply after_memOk | apply pick_memOk | apply memOk_foldl | apply memOk_ite | refine pick_pair_memOk (by assumption) ?_))

theorem execBiasFlipToDevice_memOk (s : State) (h_s : s.MemOk) : OutOk (execBiasFlipToDevice s) := by
  unfold execBiasFlipToDevice
  with_reducible repeat' (first
    | assumption | (intro _) | exact outOk_fault _ | rw [outOk_next] | apply modD_memOk | apply after_memOk | apply pick_memOk
    | apply after_memOk | apply memOk_ite | split | refine pick_pair_memOk (by assumption) ?_ | dsimp only
    | (rw [memOk_mk]; apply memOk_wf; first | assumption | apply modD_memOk | apply after_memOk | apply pick_memOk | apply after_memOk | apply memOk_ite | refine pick_pair_memOk (by assumption) ?_))

theorem flushPage_memOk (page : Nat) (s : State) (h_s : s.MemOk) : (flushPage page s).MemOk := by
  unfold flushPage
  with_reducible repeat' (first
    | assumption | (intro _) | apply modC_memOk | apply modI_memOk | apply memOk_foldl | apply writeBack_memOk
    | apply writeLine_memOk | dsimp only
    | (rw [memOk_mk]; apply memOk_wf; first | assumption | apply modC_memOk | apply modI_memOk | apply memOk_foldl | apply writeBack_memOk | apply writeLine_memOk))

theorem execBiasFlipComplete_memOk (s : State) (h_s : s.MemOk) : OutOk (execBiasFlipComplete s) := by
  unfold execBiasFlipComplete
  with_reducible repeat' (first
    | assumption | (intro _) | exact outOk_fault _ | rw [outOk_next] | apply modD_memOk | apply after_memOk | apply pick_memOk
    | apply flushPage_memOk | apply modD_memOk | apply after_memOk | apply memOk_ite | split
    | refine pick_pair_memOk (by assumption) ?_ | dsimp only
    | (rw [memOk_mk]; apply memOk_wf; first | assumption | apply modD_memOk | apply after_memOk | apply pick_memOk | apply flushPage_memOk | apply modD_memOk | apply after_memOk | apply memOk_ite | refine pick_pair_memOk (by assumption) ?_))

theorem writeDbg_memOk (c : CoreId) (v : W64) (s : State) (h_s : s.MemOk) : (writeDbg c v s).MemOk := by
  unfold writeDbg
  with_reducible repeat' (first
    | assumption | (intro _) | apply modC_memOk | split | dsimp only
    | (rw [memOk_mk]; apply memOk_wf; first | assumption | apply modC_memOk))

theorem writeRq_memOk (y : Isl) (k : BitVec 2) (v : W64) (s : State) (h_s : s.MemOk) : (writeRq y k v s).MemOk := by
  unfold writeRq
  with_reducible repeat' (first
    | assumption | (intro _) | apply modI_memOk | apply now_memOk | split | dsimp only
    | (rw [memOk_mk]; apply memOk_wf; first | assumption | apply modI_memOk | apply now_memOk))

theorem writeReg_memOk (r : RegName) (v : W64) (s : State) (h_s : s.MemOk) : (writeReg r v s).MemOk := by
  unfold writeReg
  with_reducible repeat' (first
    | assumption | (intro _) | apply modI_memOk | apply modD_memOk | apply writeCtxReg_memOk | apply trimShelf_memOk
    | apply writeRq_memOk | apply writeDbg_memOk | apply startScrub_memOk | apply memOk_ite | split | dsimp only
    | (rw [memOk_mk]; apply memOk_wf; first | assumption | apply modI_memOk | apply modD_memOk | apply writeCtxReg_memOk | apply trimShelf_memOk | apply writeRq_memOk | apply writeDbg_memOk | apply startScrub_memOk | apply memOk_ite))

theorem execRegisterWrite_memOk (s : State) (h_s : s.MemOk) : OutOk (execRegisterWrite s) := by
  unfold execRegisterWrite
  with_reducible repeat' (first
    | assumption | (intro _) | rw [outOk_next] | apply writeReg_memOk | dsimp only)

/-! Scalar. -/

theorem rrr_memOk (n : Nat) (f : W64 → W64 → W64) (g : Guard) (d a b : BitVec 6) (s : State) (h_s : s.MemOk) : OutOk (rrr n f g d a b s) := by
  unfold rrr
  with_reducible repeat' (first
    | assumption | (intro _) | rw [outOk_next] | apply guarded_memOk | apply toS_memOk | dsimp only)

theorem rri_memOk (n : Nat) (f : W64 → W64 → W64) (g : Guard) (d a : BitVec 6) (imm : BitVec 33) (s : State) (h_s : s.MemOk) : OutOk (rri n f g d a imm s) := by
  unfold rri
  with_reducible repeat' (first
    | assumption | (intro _) | rw [outOk_next] | apply guarded_memOk | apply toS_memOk | dsimp only)

theorem rr1_memOk (n : Nat) (f : W64 → W64) (g : Guard) (d a : BitVec 6) (s : State) (h_s : s.MemOk) : OutOk (rr1 n f g d a s) := by
  unfold rr1
  with_reducible repeat' (first
    | assumption | (intro _) | rw [outOk_next] | apply guarded_memOk | apply toS_memOk | dsimp only)

theorem execAdd_memOk (g : Guard) (d a b : BitVec 6) (s : State) (h_s : s.MemOk) : OutOk (execAdd g d a b s) := by
  unfold execAdd
  with_reducible repeat' (first
    | assumption | (intro _) | rw [outOk_next] | apply rrr_memOk | dsimp only)

theorem execSub_memOk (g : Guard) (d a b : BitVec 6) (s : State) (h_s : s.MemOk) : OutOk (execSub g d a b s) := by
  unfold execSub
  with_reducible repeat' (first
    | assumption | (intro _) | rw [outOk_next] | apply rrr_memOk | dsimp only)

theorem execMul_memOk (g : Guard) (d a b : BitVec 6) (s : State) (h_s : s.MemOk) : OutOk (execMul g d a b s) := by
  unfold execMul
  with_reducible repeat' (first
    | assumption | (intro _) | rw [outOk_next] | apply rrr_memOk | dsimp only)

theorem execMulh_memOk (g : Guard) (d a b : BitVec 6) (s : State) (h_s : s.MemOk) : OutOk (execMulh g d a b s) := by
  unfold execMulh
  with_reducible repeat' (first
    | assumption | (intro _) | rw [outOk_next] | apply rrr_memOk | dsimp only)

theorem execMulhn_memOk (g : Guard) (d a b : BitVec 6) (s : State) (h_s : s.MemOk) : OutOk (execMulhn g d a b s) := by
  unfold execMulhn
  with_reducible repeat' (first
    | assumption | (intro _) | rw [outOk_next] | apply rrr_memOk | dsimp only)

theorem execDiv_memOk (g : Guard) (d a b : BitVec 6) (s : State) (h_s : s.MemOk) : OutOk (execDiv g d a b s) := by
  unfold execDiv
  with_reducible repeat' (first
    | assumption | (intro _) | rw [outOk_next] | apply rrr_memOk | dsimp only)

theorem execDivn_memOk (g : Guard) (d a b : BitVec 6) (s : State) (h_s : s.MemOk) : OutOk (execDivn g d a b s) := by
  unfold execDivn
  with_reducible repeat' (first
    | assumption | (intro _) | rw [outOk_next] | apply rrr_memOk | dsimp only)

theorem execRem_memOk (g : Guard) (d a b : BitVec 6) (s : State) (h_s : s.MemOk) : OutOk (execRem g d a b s) := by
  unfold execRem
  with_reducible repeat' (first
    | assumption | (intro _) | rw [outOk_next] | apply rrr_memOk | dsimp only)

theorem execRemn_memOk (g : Guard) (d a b : BitVec 6) (s : State) (h_s : s.MemOk) : OutOk (execRemn g d a b s) := by
  unfold execRemn
  with_reducible repeat' (first
    | assumption | (intro _) | rw [outOk_next] | apply rrr_memOk | dsimp only)

theorem execAddi_memOk (g : Guard) (d a : BitVec 6) (imm : BitVec 33) (s : State) (h_s : s.MemOk) : OutOk (execAddi g d a imm s) := by
  unfold execAddi
  with_reducible repeat' (first
    | assumption | (intro _) | rw [outOk_next] | apply rri_memOk | dsimp only)

theorem execMuli_memOk (g : Guard) (d a : BitVec 6) (imm : BitVec 33) (s : State) (h_s : s.MemOk) : OutOk (execMuli g d a imm s) := by
  unfold execMuli
  with_reducible repeat' (first
    | assumption | (intro _) | rw [outOk_next] | apply rri_memOk | dsimp only)

theorem execAnd_memOk (g : Guard) (d a b : BitVec 6) (s : State) (h_s : s.MemOk) : OutOk (execAnd g d a b s) := by
  unfold execAnd
  with_reducible repeat' (first
    | assumption | (intro _) | rw [outOk_next] | apply rrr_memOk | dsimp only)

theorem execOr_memOk (g : Guard) (d a b : BitVec 6) (s : State) (h_s : s.MemOk) : OutOk (execOr g d a b s) := by
  unfold execOr
  with_reducible repeat' (first
    | assumption | (intro _) | rw [outOk_next] | apply rrr_memOk | dsimp only)

theorem execXor_memOk (g : Guard) (d a b : BitVec 6) (s : State) (h_s : s.MemOk) : OutOk (execXor g d a b s) := by
  unfold execXor
  with_reducible repeat' (first
    | assumption | (intro _) | rw [outOk_next] | apply rrr_memOk | dsimp only)

theorem execAndn_memOk (g : Guard) (d a b : BitVec 6) (s : State) (h_s : s.MemOk) : OutOk (execAndn g d a b s) := by
  unfold execAndn
  with_reducible repeat' (first
    | assumption | (intro _) | rw [outOk_next] | apply rrr_memOk | dsimp only)

theorem execOrn_memOk (g : Guard) (d a b : BitVec 6) (s : State) (h_s : s.MemOk) : OutOk (execOrn g d a b s) := by
  unfold execOrn
  with_reducible repeat' (first
    | assumption | (intro _) | rw [outOk_next] | apply rrr_memOk | dsimp only)

theorem execXnor_memOk (g : Guard) (d a b : BitVec 6) (s : State) (h_s : s.MemOk) : OutOk (execXnor g d a b s) := by
  unfold execXnor
  with_reducible repeat' (first
    | assumption | (intro _) | rw [outOk_next] | apply rrr_memOk | dsimp only)

theorem execAndi_memOk (g : Guard) (d a : BitVec 6) (imm : BitVec 33) (s : State) (h_s : s.MemOk) : OutOk (execAndi g d a imm s) := by
  unfold execAndi
  with_reducible repeat' (first
    | assumption | (intro _) | rw [outOk_next] | apply rri_memOk | dsimp only)

theorem execOri_memOk (g : Guard) (d a : BitVec 6) (imm : BitVec 33) (s : State) (h_s : s.MemOk) : OutOk (execOri g d a imm s) := by
  unfold execOri
  with_reducible repeat' (first
    | assumption | (intro _) | rw [outOk_next] | apply rri_memOk | dsimp only)

theorem execXori_memOk (g : Guard) (d a : BitVec 6) (imm : BitVec 33) (s : State) (h_s : s.MemOk) : OutOk (execXori g d a imm s) := by
  unfold execXori
  with_reducible repeat' (first
    | assumption | (intro _) | rw [outOk_next] | apply rri_memOk | dsimp only)

theorem execShl_memOk (g : Guard) (d a b : BitVec 6) (s : State) (h_s : s.MemOk) : OutOk (execShl g d a b s) := by
  unfold execShl
  with_reducible repeat' (first
    | assumption | (intro _) | rw [outOk_next] | apply rrr_memOk | dsimp only)

theorem execShr_memOk (g : Guard) (d a b : BitVec 6) (s : State) (h_s : s.MemOk) : OutOk (execShr g d a b s) := by
  unfold execShr
  with_reducible repeat' (first
    | assumption | (intro _) | rw [outOk_next] | apply rrr_memOk | dsimp only)

theorem execSar_memOk (g : Guard) (d a b : BitVec 6) (s : State) (h_s : s.MemOk) : OutOk (execSar g d a b s) := by
  unfold execSar
  with_reducible repeat' (first
    | assumption | (intro _) | rw [outOk_next] | apply rrr_memOk | dsimp only)

theorem execRol_memOk (g : Guard) (d a b : BitVec 6) (s : State) (h_s : s.MemOk) : OutOk (execRol g d a b s) := by
  unfold execRol
  with_reducible repeat' (first
    | assumption | (intro _) | rw [outOk_next] | apply rrr_memOk | dsimp only)

theorem execRor_memOk (g : Guard) (d a b : BitVec 6) (s : State) (h_s : s.MemOk) : OutOk (execRor g d a b s) := by
  unfold execRor
  with_reducible repeat' (first
    | assumption | (intro _) | rw [outOk_next] | apply rrr_memOk | dsimp only)

theorem execShli_memOk (g : Guard) (d a sh : BitVec 6) (s : State) (h_s : s.MemOk) : OutOk (execShli g d a sh s) := by
  unfold execShli
  with_reducible repeat' (first
    | assumption | (intro _) | rw [outOk_next] | apply rr1_memOk | dsimp only)

theorem execShri_memOk (g : Guard) (d a sh : BitVec 6) (s : State) (h_s : s.MemOk) : OutOk (execShri g d a sh s) := by
  unfold execShri
  with_reducible repeat' (first
    | assumption | (intro _) | rw [outOk_next] | apply rr1_memOk | dsimp only)

theorem execSari_memOk (g : Guard) (d a sh : BitVec 6) (s : State) (h_s : s.MemOk) : OutOk (execSari g d a sh s) := by
  unfold execSari
  with_reducible repeat' (first
    | assumption | (intro _) | rw [outOk_next] | apply rr1_memOk | dsimp only)

theorem execMin_memOk (g : Guard) (d a b : BitVec 6) (s : State) (h_s : s.MemOk) : OutOk (execMin g d a b s) := by
  unfold execMin
  with_reducible repeat' (first
    | assumption | (intro _) | rw [outOk_next] | apply rrr_memOk | apply memOk_ite | split | dsimp only)

theorem execMax_memOk (g : Guard) (d a b : BitVec 6) (s : State) (h_s : s.MemOk) : OutOk (execMax g d a b s) := by
  unfold execMax
  with_reducible repeat' (first
    | assumption | (intro _) | rw [outOk_next] | apply rrr_memOk | apply memOk_ite | split | dsimp only)

theorem execMinn_memOk (g : Guard) (d a b : BitVec 6) (s : State) (h_s : s.MemOk) : OutOk (execMinn g d a b s) := by
  unfold execMinn
  with_reducible repeat' (first
    | assumption | (intro _) | rw [outOk_next] | apply rrr_memOk | apply memOk_ite | split | dsimp only)

theorem execMaxn_memOk (g : Guard) (d a b : BitVec 6) (s : State) (h_s : s.MemOk) : OutOk (execMaxn g d a b s) := by
  unfold execMaxn
  with_reducible repeat' (first
    | assumption | (intro _) | rw [outOk_next] | apply rrr_memOk | apply memOk_ite | split | dsimp only)

theorem execAbs_memOk (g : Guard) (d a : BitVec 6) (s : State) (h_s : s.MemOk) : OutOk (execAbs g d a s) := by
  unfold execAbs
  with_reducible repeat' (first
    | assumption | (intro _) | rw [outOk_next] | apply rr1_memOk | apply memOk_ite | split | dsimp only)

theorem execNeg_memOk (g : Guard) (d a : BitVec 6) (s : State) (h_s : s.MemOk) : OutOk (execNeg g d a s) := by
  unfold execNeg
  with_reducible repeat' (first
    | assumption | (intro _) | rw [outOk_next] | apply rr1_memOk | dsimp only)

theorem execClz_memOk (g : Guard) (d a : BitVec 6) (s : State) (h_s : s.MemOk) : OutOk (execClz g d a s) := by
  unfold execClz
  with_reducible repeat' (first
    | assumption | (intro _) | rw [outOk_next] | apply rr1_memOk | dsimp only)

theorem execCtz_memOk (g : Guard) (d a : BitVec 6) (s : State) (h_s : s.MemOk) : OutOk (execCtz g d a s) := by
  unfold execCtz
  with_reducible repeat' (first
    | assumption | (intro _) | rw [outOk_next] | apply rr1_memOk | dsimp only)

theorem execPopc_memOk (g : Guard) (d a : BitVec 6) (s : State) (h_s : s.MemOk) : OutOk (execPopc g d a s) := by
  unfold execPopc
  with_reducible repeat' (first
    | assumption | (intro _) | rw [outOk_next] | apply rr1_memOk | dsimp only)

theorem execBswap_memOk (g : Guard) (d a : BitVec 6) (s : State) (h_s : s.MemOk) : OutOk (execBswap g d a s) := by
  unfold execBswap
  with_reducible repeat' (first
    | assumption | (intro _) | rw [outOk_next] | apply rr1_memOk | dsimp only)

theorem execBexs_memOk (g : Guard) (d a pos w1 : BitVec 6) (s : State) (h_s : s.MemOk) : OutOk (execBexs g d a pos w1 s) := by
  unfold execBexs
  with_reducible repeat' (first
    | assumption | (intro _) | rw [outOk_next] | apply rr1_memOk | dsimp only)

theorem execBexz_memOk (g : Guard) (d a pos w1 : BitVec 6) (s : State) (h_s : s.MemOk) : OutOk (execBexz g d a pos w1 s) := by
  unfold execBexz
  with_reducible repeat' (first
    | assumption | (intro _) | rw [outOk_next] | apply rr1_memOk | dsimp only)

theorem execBins_memOk (g : Guard) (d a pos w1 : BitVec 6) (s : State) (h_s : s.MemOk) : OutOk (execBins g d a pos w1 s) := by
  unfold execBins
  with_reducible repeat' (first
    | assumption | (intro _) | rw [outOk_next] | apply guarded_memOk | apply toS_memOk | dsimp only)

theorem execSel_memOk (g : Guard) (d a b : BitVec 6) (j : BitVec 4) (s : State) (h_s : s.MemOk) : OutOk (execSel g d a b j s) := by
  unfold execSel
  with_reducible repeat' (first
    | assumption | (intro _) | rw [outOk_next] | apply guarded_memOk | apply toS_memOk | apply memOk_ite | split | dsimp only)

theorem execLi_memOk (g : Guard) (d : BitVec 6) (imm : BitVec 33) (s : State) (h_s : s.MemOk) : OutOk (execLi g d imm s) := by
  unfold execLi
  with_reducible repeat' (first
    | assumption | (intro _) | rw [outOk_next] | apply guarded_memOk | apply toS_memOk | dsimp only)

theorem execLih_memOk (g : Guard) (d : BitVec 6) (imm : BitVec 32) (s : State) (h_s : s.MemOk) : OutOk (execLih g d imm s) := by
  unfold execLih
  with_reducible repeat' (first
    | assumption | (intro _) | rw [outOk_next] | apply guarded_memOk | apply toS_memOk | dsimp only)

theorem execMov_memOk (g : Guard) (d a : BitVec 6) (s : State) (h_s : s.MemOk) : OutOk (execMov g d a s) := by
  unfold execMov
  with_reducible repeat' (first
    | assumption | (intro _) | rw [outOk_next] | apply rr1_memOk | dsimp only)

theorem satRes_memOk (x : Int) (d : BitVec 6) (s : State) (h_s : s.MemOk) : (satRes x d s).MemOk := by
  unfold satRes
  with_reducible repeat' (first
    | assumption | (intro _) | apply toSFlags_memOk | dsimp only)

theorem execAdds_memOk (g : Guard) (d a b : BitVec 6) (s : State) (h_s : s.MemOk) : OutOk (execAdds g d a b s) := by
  unfold execAdds
  with_reducible repeat' (first
    | assumption | (intro _) | rw [outOk_next] | apply guarded_memOk | apply satRes_memOk | dsimp only)

theorem execSubs_memOk (g : Guard) (d a b : BitVec 6) (s : State) (h_s : s.MemOk) : OutOk (execSubs g d a b s) := by
  unfold execSubs
  with_reducible repeat' (first
    | assumption | (intro _) | rw [outOk_next] | apply guarded_memOk | apply satRes_memOk | dsimp only)

theorem execSext_memOk (g : Guard) (d a w1 : BitVec 6) (s : State) (h_s : s.MemOk) : OutOk (execSext g d a w1 s) := by
  unfold execSext
  with_reducible repeat' (first
    | assumption | (intro _) | rw [outOk_next] | apply rr1_memOk | dsimp only)

theorem execZext_memOk (g : Guard) (d a w1 : BitVec 6) (s : State) (h_s : s.MemOk) : OutOk (execZext g d a w1 s) := by
  unfold execZext
  with_reducible repeat' (first
    | assumption | (intro _) | rw [outOk_next] | apply rr1_memOk | dsimp only)

theorem execNop_memOk (s : State) (h_s : s.MemOk) : OutOk (execNop s) := by
  unfold execNop
  with_reducible repeat' (first
    | assumption | (intro _) | rw [outOk_next] | dsimp only)

/-! Vector. -/

theorem vecBegin_memOk (cl : Cluster) (lat : Nat) (effs : List Eff) (s : State) (h_s : s.MemOk) : (vecBegin cl lat effs s).MemOk := by
  unfold vecBegin
  with_reducible repeat' (first
    | assumption | (intro _) | apply modMe_memOk | apply memOk_foldl | split | dsimp only
    | (rw [memOk_mk]; apply memOk_wf; first | assumption | apply modMe_memOk | apply memOk_foldl))

theorem vecRun_memOk (cl : Cluster) (lat : Nat) (srcs : List (Cluster × BitVec 5)) (effs : List Eff) (s : State) (h_s : s.MemOk) : (vecRun cl lat srcs effs s).MemOk := by
  unfold vecRun
  with_reducible repeat' (first
    | assumption | (intro _) | apply consume_memOk | apply vecBegin_memOk | split | dsimp only)

theorem vec1_memOk (h : VH) (lat : Nat) (vd v1 : BitVec 5) (f : Nat → Nat × Byte) (s : State) (h_s : s.MemOk) : OutOk (vec1 h lat vd v1 f s) := by
  unfold vec1
  with_reducible repeat' (first
    | assumption | (intro _) | rw [outOk_next] | apply vecRun_memOk | dsimp only)

theorem vec2_memOk (h : VH) (lat : Nat) (vd v1 v2 : BitVec 5) (f : Nat → Nat → Nat × Byte) (s : State) (h_s : s.MemOk) : OutOk (vec2 h lat vd v1 v2 f s) := by
  unfold vec2
  with_reducible repeat' (first
    | assumption | (intro _) | rw [outOk_next] | apply vecRun_memOk | dsimp only)

theorem vec2c_memOk (chk : Bool) (h : VH) (lat : Nat) (vd v1 v2 : BitVec 5) (f : Nat → Nat → Nat × Byte) (s : State) (h_s : s.MemOk) : OutOk (vec2c chk h lat vd v1 v2 f s) := by
  unfold vec2c
  with_reducible repeat' (first
    | assumption | (intro _) | rw [outOk_next] | apply vecRun_memOk | apply memOk_ite | split | dsimp only)

theorem vec3c_memOk (h : VH) (lat : Nat) (vd v1 v2 v3 : BitVec 5) (f : Nat → Nat → Nat → Nat × Byte) (s : State) (h_s : s.MemOk) : OutOk (vec3c h lat vd v1 v2 v3 f s) := by
  unfold vec3c
  with_reducible repeat' (first
    | assumption | (intro _) | rw [outOk_next] | apply vecRun_memOk | dsimp only)

theorem execVadd_memOk (h : VH) (vd v1 v2 : BitVec 5) (s : State) (h_s : s.MemOk) : OutOk (execVadd h vd v1 v2 s) := by
  unfold execVadd
  with_reducible repeat' (first
    | assumption | (intro _) | rw [outOk_next] | apply vec2c_memOk | dsimp only)

theorem execVsub_memOk (h : VH) (vd v1 v2 : BitVec 5) (s : State) (h_s : s.MemOk) : OutOk (execVsub h vd v1 v2 s) := by
  unfold execVsub
  with_reducible repeat' (first
    | assumption | (intro _) | rw [outOk_next] | apply vec2c_memOk | dsimp only)

theorem execVmul_memOk (h : VH) (vd v1 v2 : BitVec 5) (s : State) (h_s : s.MemOk) : OutOk (execVmul h vd v1 v2 s) := by
  unfold execVmul
  with_reducible repeat' (first
    | assumption | (intro _) | rw [outOk_next] | apply vec2c_memOk | dsimp only)

theorem execVmulh_memOk (h : VH) (vd v1 v2 : BitVec 5) (s : State) (h_s : s.MemOk) : OutOk (execVmulh h vd v1 v2 s) := by
  unfold execVmulh
  with_reducible repeat' (first
    | assumption | (intro _) | rw [outOk_next] | apply vec2c_memOk | dsimp only)

theorem execVmin_memOk (h : VH) (vd v1 v2 : BitVec 5) (s : State) (h_s : s.MemOk) : OutOk (execVmin h vd v1 v2 s) := by
  unfold execVmin
  with_reducible repeat' (first
    | assumption | (intro _) | rw [outOk_next] | apply vec2_memOk | dsimp only)

theorem execVmax_memOk (h : VH) (vd v1 v2 : BitVec 5) (s : State) (h_s : s.MemOk) : OutOk (execVmax h vd v1 v2 s) := by
  unfold execVmax
  with_reducible repeat' (first
    | assumption | (intro _) | rw [outOk_next] | apply vec2_memOk | dsimp only)

theorem execVabs_memOk (h : VH) (vd v1 : BitVec 5) (s : State) (h_s : s.MemOk) : OutOk (execVabs h vd v1 s) := by
  unfold execVabs
  with_reducible repeat' (first
    | assumption | (intro _) | rw [outOk_next] | apply vec1_memOk | dsimp only)

theorem execVneg_memOk (h : VH) (vd v1 : BitVec 5) (s : State) (h_s : s.MemOk) : OutOk (execVneg h vd v1 s) := by
  unfold execVneg
  with_reducible repeat' (first
    | assumption | (intro _) | rw [outOk_next] | apply vec1_memOk | dsimp only)

theorem execVcpsgn_memOk (h : VH) (vd v1 v2 : BitVec 5) (s : State) (h_s : s.MemOk) : OutOk (execVcpsgn h vd v1 v2 s) := by
  unfold execVcpsgn
  with_reducible repeat' (first
    | assumption | (intro _) | rw [outOk_next] | apply vec2_memOk | dsimp only)

theorem execVfma_memOk (h : VH) (vd v1 v2 v3 : BitVec 5) (s : State) (h_s : s.MemOk) : OutOk (execVfma h vd v1 v2 v3 s) := by
  unfold execVfma
  with_reducible repeat' (first
    | assumption | (intro _) | rw [outOk_next] | apply vec3c_memOk | dsimp only)

theorem execVfms_memOk (h : VH) (vd v1 v2 v3 : BitVec 5) (s : State) (h_s : s.MemOk) : OutOk (execVfms h vd v1 v2 v3 s) := by
  unfold execVfms
  with_reducible repeat' (first
    | assumption | (intro _) | rw [outOk_next] | apply vec3c_memOk | dsimp only)

theorem execVfnma_memOk (h : VH) (vd v1 v2 v3 : BitVec 5) (s : State) (h_s : s.MemOk) : OutOk (execVfnma h vd v1 v2 v3 s) := by
  unfold execVfnma
  with_reducible repeat' (first
    | assumption | (intro _) | rw [outOk_next] | apply vec3c_memOk | dsimp only)

theorem execVdiv_memOk (h : VH) (vd v1 v2 : BitVec 5) (s : State) (h_s : s.MemOk) : OutOk (execVdiv h vd v1 v2 s) := by
  unfold execVdiv
  with_reducible repeat' (first
    | assumption | (intro _) | rw [outOk_next] | apply vec2_memOk | dsimp only)

theorem execVsqrt_memOk (h : VH) (vd v1 : BitVec 5) (s : State) (h_s : s.MemOk) : OutOk (execVsqrt h vd v1 s) := by
  unfold execVsqrt
  with_reducible repeat' (first
    | assumption | (intro _) | rw [outOk_next] | apply vec1_memOk | dsimp only)

theorem execVrsqrt_memOk (h : VH) (vd v1 : BitVec 5) (s : State) (h_s : s.MemOk) : OutOk (execVrsqrt h vd v1 s) := by
  unfold execVrsqrt
  with_reducible repeat' (first
    | assumption | (intro _) | rw [outOk_next] | apply vec1_memOk | dsimp only)

theorem execVrsqp_memOk (h : VH) (vd v1 : BitVec 5) (j : BitVec 4) (s : State) (h_s : s.MemOk) : OutOk (execVrsqp h vd v1 j s) := by
  unfold execVrsqp
  with_reducible repeat' (first
    | assumption | (intro _) | rw [outOk_next] | apply memOk_foldl | apply vecRun_memOk | apply memOk_ite | split
    | dsimp only)

theorem execVand_memOk (h : VH) (vd v1 v2 : BitVec 5) (s : State) (h_s : s.MemOk) : OutOk (execVand h vd v1 v2 s) := by
  unfold execVand
  with_reducible repeat' (first
    | assumption | (intro _) | rw [outOk_next] | apply vec2_memOk | dsimp only)

theorem execVor_memOk (h : VH) (vd v1 v2 : BitVec 5) (s : State) (h_s : s.MemOk) : OutOk (execVor h vd v1 v2 s) := by
  unfold execVor
  with_reducible repeat' (first
    | assumption | (intro _) | rw [outOk_next] | apply vec2_memOk | dsimp only)

theorem execVxor_memOk (h : VH) (vd v1 v2 : BitVec 5) (s : State) (h_s : s.MemOk) : OutOk (execVxor h vd v1 v2 s) := by
  unfold execVxor
  with_reducible repeat' (first
    | assumption | (intro _) | rw [outOk_next] | apply vec2_memOk | dsimp only)

theorem execVnot_memOk (h : VH) (vd v1 : BitVec 5) (s : State) (h_s : s.MemOk) : OutOk (execVnot h vd v1 s) := by
  unfold execVnot
  with_reducible repeat' (first
    | assumption | (intro _) | rw [outOk_next] | apply vec1_memOk | dsimp only)

theorem vshift_memOk (f : VH → Nat → Nat → Nat × Byte) (h : VH) (vd v1 v2 : BitVec 5) (s : State) (h_s : s.MemOk) : OutOk (vshift f h vd v1 v2 s) := by
  unfold vshift
  with_reducible repeat' (first
    | assumption | (intro _) | rw [outOk_next] | apply vec2_memOk | dsimp only)

theorem vshiftImm_memOk (f : VH → Nat → Nat → Nat × Byte) (h : VH) (vd v1 : BitVec 5) (sh : BitVec 6) (s : State) (h_s : s.MemOk) : OutOk (vshiftImm f h vd v1 sh s) := by
  unfold vshiftImm
  with_reducible repeat' (first
    | assumption | (intro _) | rw [outOk_next] | apply vec1_memOk | dsimp only)

theorem execVshl_memOk (h : VH) (vd v1 v2 : BitVec 5) (s : State) (h_s : s.MemOk) : OutOk (execVshl h vd v1 v2 s) := by
  unfold execVshl
  with_reducible repeat' (first
    | assumption | (intro _) | rw [outOk_next] | apply vshift_memOk | dsimp only)

theorem execVshlImm_memOk (h : VH) (vd v1 : BitVec 5) (sh : BitVec 6) (s : State) (h_s : s.MemOk) : OutOk (execVshlImm h vd v1 sh s) := by
  unfold execVshlImm
  with_reducible repeat' (first
    | assumption | (intro _) | rw [outOk_next] | apply vshiftImm_memOk | dsimp only)

theorem execVshr_memOk (h : VH) (vd v1 v2 : BitVec 5) (s : State) (h_s : s.MemOk) : OutOk (execVshr h vd v1 v2 s) := by
  unfold execVshr
  with_reducible repeat' (first
    | assumption | (intro _) | rw [outOk_next] | apply vshift_memOk | dsimp only)

theorem execVshrImm_memOk (h : VH) (vd v1 : BitVec 5) (sh : BitVec 6) (s : State) (h_s : s.MemOk) : OutOk (execVshrImm h vd v1 sh s) := by
  unfold execVshrImm
  with_reducible repeat' (first
    | assumption | (intro _) | rw [outOk_next] | apply vshiftImm_memOk | dsimp only)

theorem execVsar_memOk (h : VH) (vd v1 v2 : BitVec 5) (s : State) (h_s : s.MemOk) : OutOk (execVsar h vd v1 v2 s) := by
  unfold execVsar
  with_reducible repeat' (first
    | assumption | (intro _) | rw [outOk_next] | apply vshift_memOk | dsimp only)

theorem execVsarImm_memOk (h : VH) (vd v1 : BitVec 5) (sh : BitVec 6) (s : State) (h_s : s.MemOk) : OutOk (execVsarImm h vd v1 sh s) := by
  unfold execVsarImm
  with_reducible repeat' (first
    | assumption | (intro _) | rw [outOk_next] | apply vshiftImm_memOk | dsimp only)

theorem execVrshr_memOk (h : VH) (vd v1 v2 : BitVec 5) (s : State) (h_s : s.MemOk) : OutOk (execVrshr h vd v1 v2 s) := by
  unfold execVrshr
  with_reducible repeat' (first
    | assumption | (intro _) | rw [outOk_next] | apply vshift_memOk | dsimp only)

theorem execVrshrImm_memOk (h : VH) (vd v1 : BitVec 5) (sh : BitVec 6) (s : State) (h_s : s.MemOk) : OutOk (execVrshrImm h vd v1 sh s) := by
  unfold execVrshrImm
  with_reducible repeat' (first
    | assumption | (intro _) | rw [outOk_next] | apply vshiftImm_memOk | dsimp only)

theorem execVclz_memOk (h : VH) (vd v1 : BitVec 5) (s : State) (h_s : s.MemOk) : OutOk (execVclz h vd v1 s) := by
  unfold execVclz
  with_reducible repeat' (first
    | assumption | (intro _) | rw [outOk_next] | apply vec1_memOk | dsimp only)

theorem execVpopc_memOk (h : VH) (vd v1 : BitVec 5) (s : State) (h_s : s.MemOk) : OutOk (execVpopc h vd v1 s) := by
  unfold execVpopc
  with_reducible repeat' (first
    | assumption | (intro _) | rw [outOk_next] | apply vec1_memOk | dsimp only)

theorem execVdot4_memOk (h : VH) (vd v1 v2 v3 : BitVec 5) (s : State) (h_s : s.MemOk) : OutOk (execVdot4 h vd v1 v2 v3 s) := by
  unfold execVdot4
  with_reducible repeat' (first
    | assumption | (intro _) | rw [outOk_next] | apply vecRun_memOk | dsimp only)

theorem vcompare_memOk (h : VH) (v1 v2 : BitVec 5) (j : BitVec 4) (ci : Int → Int → Bool) (cf : FVal → FVal → Bool) (s : State) (h_s : s.MemOk) : OutOk (vcompare h v1 v2 j ci cf s) := by
  unfold vcompare
  with_reducible repeat' (first
    | assumption | (intro _) | rw [outOk_next] | apply memOk_foldl | apply vecRun_memOk | apply memOk_ite | split
    | dsimp only)

theorem execVcmpeq_memOk (h : VH) (v1 v2 : BitVec 5) (j : BitVec 4) (s : State) (h_s : s.MemOk) : OutOk (execVcmpeq h v1 v2 j s) := by
  unfold execVcmpeq
  with_reducible repeat' (first
    | assumption | (intro _) | rw [outOk_next] | apply vcompare_memOk | dsimp only)

theorem execVcmpne_memOk (h : VH) (v1 v2 : BitVec 5) (j : BitVec 4) (s : State) (h_s : s.MemOk) : OutOk (execVcmpne h v1 v2 j s) := by
  unfold execVcmpne
  with_reducible repeat' (first
    | assumption | (intro _) | rw [outOk_next] | apply vcompare_memOk | dsimp only)

theorem execVcmplt_memOk (h : VH) (v1 v2 : BitVec 5) (j : BitVec 4) (s : State) (h_s : s.MemOk) : OutOk (execVcmplt h v1 v2 j s) := by
  unfold execVcmplt
  with_reducible repeat' (first
    | assumption | (intro _) | rw [outOk_next] | apply vcompare_memOk | dsimp only)

theorem execVcmple_memOk (h : VH) (v1 v2 : BitVec 5) (j : BitVec 4) (s : State) (h_s : s.MemOk) : OutOk (execVcmple h v1 v2 j s) := by
  unfold execVcmple
  with_reducible repeat' (first
    | assumption | (intro _) | rw [outOk_next] | apply vcompare_memOk | dsimp only)

theorem execVsel_memOk (h : VH) (vd v1 v2 : BitVec 5) (j : BitVec 4) (s : State) (h_s : s.MemOk) : OutOk (execVsel h vd v1 v2 j s) := by
  unfold execVsel
  with_reducible repeat' (first
    | assumption | (intro _) | rw [outOk_next] | apply vecRun_memOk | apply memOk_ite | split | dsimp only)

theorem reduce_memOk (h : VH) (vd v1 : BitVec 5) (z : Int) (fi : Int → Int → Int) (idp : Nat) (ff : FVal → FVal → FRes) (round : Bool) (s : State) (h_s : s.MemOk) : OutOk (reduce h vd v1 z fi idp ff round s) := by
  unfold reduce
  with_reducible repeat' (first
    | assumption | (intro _) | rw [outOk_next] | apply vecRun_memOk | apply memOk_ite | split | dsimp only)

theorem execVredsum_memOk (h : VH) (vd v1 : BitVec 5) (s : State) (h_s : s.MemOk) : OutOk (execVredsum h vd v1 s) := by
  unfold execVredsum
  with_reducible repeat' (first
    | assumption | (intro _) | rw [outOk_next] | apply reduce_memOk | dsimp only)

theorem execVredmax_memOk (h : VH) (vd v1 : BitVec 5) (s : State) (h_s : s.MemOk) : OutOk (execVredmax h vd v1 s) := by
  unfold execVredmax
  with_reducible repeat' (first
    | assumption | (intro _) | rw [outOk_next] | apply reduce_memOk | dsimp only)

theorem execVredmin_memOk (h : VH) (vd v1 : BitVec 5) (s : State) (h_s : s.MemOk) : OutOk (execVredmin h vd v1 s) := by
  unfold execVredmin
  with_reducible repeat' (first
    | assumption | (intro _) | rw [outOk_next] | apply reduce_memOk | dsimp only)

/-! VectorMove. -/

theorem execVmovi_memOk (h : VH) (vd : BitVec 5) (imm : BitVec 24) (s : State) (h_s : s.MemOk) : OutOk (execVmovi h vd imm s) := by
  unfold execVmovi
  with_reducible repeat' (first
    | assumption | (intro _) | rw [outOk_next] | apply vecRun_memOk | dsimp only)

theorem execVxmov_memOk (h : VH) (vd v1 : BitVec 5) (s : State) (h_s : s.MemOk) : OutOk (execVxmov h vd v1 s) := by
  unfold execVxmov
  with_reducible repeat' (first
    | assumption | (intro _) | rw [outOk_next] | apply vecRun_memOk | dsimp only)

theorem execVmov_memOk (h : VH) (vd v1 : BitVec 5) (s : State) (h_s : s.MemOk) : OutOk (execVmov h vd v1 s) := by
  unfold execVmov
  with_reducible repeat' (first
    | assumption | (intro _) | rw [outOk_next] | apply vec1_memOk | dsimp only)

theorem execVbcastElem_memOk (h : VH) (vd v1 : BitVec 5) (el : BitVec 12) (s : State) (h_s : s.MemOk) : OutOk (execVbcastElem h vd v1 el s) := by
  unfold execVbcastElem
  with_reducible repeat' (first
    | assumption | (intro _) | rw [outOk_next] | apply vecRun_memOk | dsimp only)

theorem execVbcastScalar_memOk (h : VH) (vd : BitVec 5) (sk : BitVec 6) (s : State) (h_s : s.MemOk) : OutOk (execVbcastScalar h vd sk s) := by
  unfold execVbcastScalar
  with_reducible repeat' (first
    | assumption | (intro _) | rw [outOk_next] | apply vecRun_memOk | dsimp only)

theorem permute_memOk (h : VH) (vd v1 v2 : BitVec 5) (f : VWord → VWord → Nat → Nat) (s : State) (h_s : s.MemOk) : OutOk (permute h vd v1 v2 f s) := by
  unfold permute
  with_reducible repeat' (first
    | assumption | (intro _) | rw [outOk_next] | apply vecRun_memOk | dsimp only)

theorem execVperm_memOk (h : VH) (vd v1 v2 : BitVec 5) (s : State) (h_s : s.MemOk) : OutOk (execVperm h vd v1 v2 s) := by
  unfold execVperm
  with_reducible repeat' (first
    | assumption | (intro _) | rw [outOk_next] | apply permute_memOk | dsimp only)

theorem execVslide_memOk (h : VH) (vd v1 v2 : BitVec 5) (k9 : BitVec 9) (s : State) (h_s : s.MemOk) : OutOk (execVslide h vd v1 v2 k9 s) := by
  unfold execVslide
  with_reducible repeat' (first
    | assumption | (intro _) | rw [outOk_next] | apply permute_memOk | dsimp only)

theorem execVzip_memOk (h : VH) (vd v1 v2 : BitVec 5) (hb : Bool) (s : State) (h_s : s.MemOk) : OutOk (execVzip h vd v1 v2 hb s) := by
  unfold execVzip
  with_reducible repeat' (first
    | assumption | (intro _) | rw [outOk_next] | apply permute_memOk | apply memOk_ite | split | dsimp only)

theorem execVunzip_memOk (h : VH) (vd v1 v2 : BitVec 5) (hb : Bool) (s : State) (h_s : s.MemOk) : OutOk (execVunzip h vd v1 v2 hb s) := by
  unfold execVunzip
  with_reducible repeat' (first
    | assumption | (intro _) | rw [outOk_next] | apply permute_memOk | dsimp only)

theorem execVpack_memOk (h : VH) (vd v1 v2 : BitVec 5) (sg : Bool) (s : State) (h_s : s.MemOk) : OutOk (execVpack h vd v1 v2 sg s) := by
  unfold execVpack
  with_reducible repeat' (first
    | assumption | (intro _) | rw [outOk_next] | apply vecRun_memOk | apply memOk_ite | split | dsimp only)

theorem execVunpk_memOk (h : VH) (vd v1 : BitVec 5) (hb : Bool) (s : State) (h_s : s.MemOk) : OutOk (execVunpk h vd v1 hb s) := by
  unfold execVunpk
  with_reducible repeat' (first
    | assumption | (intro _) | rw [outOk_next] | apply vecRun_memOk | apply memOk_ite | split | dsimp only)

theorem execVcvt_memOk (h : VH) (vd v1 : BitVec 5) (fm : ElemTy) (hh : BitVec 2) (s : State) (h_s : s.MemOk) : OutOk (execVcvt h vd v1 fm hh s) := by
  unfold execVcvt
  with_reducible repeat' (first
    | assumption | (intro _) | rw [outOk_next] | apply vecRun_memOk | apply memOk_ite | split | dsimp only)

theorem execVquant_memOk (h : VH) (vd v1 v2 : BitVec 5) (fm : ElemTy) (bb bt : BitVec 2) (e0 : BitVec 6) (s : State) (h_s : s.MemOk) : OutOk (execVquant h vd v1 v2 fm bb bt e0 s) := by
  unfold execVquant
  with_reducible repeat' (first
    | assumption | (intro _) | rw [outOk_next] | apply vecRun_memOk | apply memOk_ite | split | dsimp only)

theorem execVdequant_memOk (h : VH) (vd v1 : BitVec 5) (bb : BitVec 2) (hb : Bool) (s : State) (h_s : s.MemOk) : OutOk (execVdequant h vd v1 bb hb s) := by
  unfold execVdequant
  with_reducible repeat' (first
    | assumption | (intro _) | rw [outOk_next] | apply vecRun_memOk | split | dsimp only)

/-! VectorMem. -/

theorem vecRead_memOk (h : VH) (keys : List Nat) (s : State) (h_s : s.MemOk) : (vecRead h keys s).MemOk := by
  unfold vecRead; split <;> first | assumption | exact padRead_memOk _ _ _ _ _ _ h_s

theorem notePads_memOk (s : State) (keys : List Nat) (h_s : s.MemOk) : (notePads s keys).MemOk := by
  unfold notePads
  with_reducible repeat' (first
    | assumption | (intro _) | apply reachKeys_memOk | apply memOk_ite | split | dsimp only
    | (rw [memOk_mk]; apply memOk_wf; first | assumption | apply reachKeys_memOk | apply memOk_ite))

theorem vecLoad_memOk (h : VH) (lat : Nat) (vd : BitVec 5) (srcs : List (BitVec 5)) (b : Nat) (at_ : Nat → Nat) (s : State) (h_s : s.MemOk) : OutOk (vecLoad h lat vd srcs b at_ s) := by
  unfold vecLoad
  with_reducible repeat' (first
    | assumption | (intro _) | exact outOk_fault _ | rw [outOk_next] | apply takeTrap_memOk | apply vecRun_memOk
    | apply vecRead_memOk | apply notePads_memOk | split | dsimp only
    | (rw [memOk_mk]; apply memOk_wf; first | assumption | apply takeTrap_memOk | apply vecRun_memOk | apply vecRead_memOk | apply notePads_memOk))

theorem vecStore_memOk (h : VH) (vd : BitVec 5) (srcs : List (BitVec 5)) (b : Nat) (at_ : Nat → Nat) (s : State) (h_s : s.MemOk) : OutOk (vecStore h vd srcs b at_ s) := by
  unfold vecStore
  with_reducible repeat' (first
    | assumption | (intro _) | rw [outOk_next] | apply takeTrap_memOk | apply consume_memOk | apply vecBegin_memOk
    | apply withhold_memOk | apply memOk_ite | split | dsimp only)

theorem execVld_memOk (h : VH) (vd : BitVec 5) (off : BitVec 18) (sk : BitVec 6) (s : State) (h_s : s.MemOk) : OutOk (execVld h vd off sk s) := by
  unfold execVld
  with_reducible repeat' (first
    | assumption | (intro _) | rw [outOk_next] | apply vecLoad_memOk | dsimp only)

theorem execVst_memOk (h : VH) (vd : BitVec 5) (off : BitVec 18) (sk : BitVec 6) (s : State) (h_s : s.MemOk) : OutOk (execVst h vd off sk s) := by
  unfold execVst
  with_reducible repeat' (first
    | assumption | (intro _) | rw [outOk_next] | apply vecStore_memOk | dsimp only)

theorem execVlds_memOk (h : VH) (vd : BitVec 5) (off : BitVec 12) (sk st : BitVec 6) (s : State) (h_s : s.MemOk) : OutOk (execVlds h vd off sk st s) := by
  unfold execVlds
  with_reducible repeat' (first
    | assumption | (intro _) | rw [outOk_next] | apply vecLoad_memOk | dsimp only)

theorem execVsts_memOk (h : VH) (vd : BitVec 5) (off : BitVec 12) (sk st : BitVec 6) (s : State) (h_s : s.MemOk) : OutOk (execVsts h vd off sk st s) := by
  unfold execVsts
  with_reducible repeat' (first
    | assumption | (intro _) | rw [outOk_next] | apply vecStore_memOk | dsimp only)

theorem execVldx_memOk (h : VH) (vd v2 : BitVec 5) (off : BitVec 18) (sk : BitVec 6) (s : State) (h_s : s.MemOk) : OutOk (execVldx h vd v2 off sk s) := by
  unfold execVldx
  with_reducible repeat' (first
    | assumption | (intro _) | rw [outOk_next] | apply vecLoad_memOk | dsimp only)

theorem execVstx_memOk (h : VH) (vd v2 : BitVec 5) (off : BitVec 18) (sk : BitVec 6) (s : State) (h_s : s.MemOk) : OutOk (execVstx h vd v2 off sk s) := by
  unfold execVstx
  with_reducible repeat' (first
    | assumption | (intro _) | rw [outOk_next] | apply vecStore_memOk | dsimp only)

theorem execVldb_memOk (h : VH) (vd : BitVec 5) (off : BitVec 18) (sk : BitVec 6) (s : State) (h_s : s.MemOk) : OutOk (execVldb h vd off sk s) := by
  unfold execVldb
  with_reducible repeat' (first
    | assumption | (intro _) | rw [outOk_next] | apply vecLoad_memOk | dsimp only)

end Sys2Proof.Machine
end

