-- ==== Sys2Proof/Laws/KeepsIssue.lean ====
section
/-! SUPPORT. The canonical form of storage is kept by every instruction and by the issue of a bundle. -/

set_option linter.unusedTactic false
set_option linter.unreachableTactic false

namespace Sys2Proof.Machine

/-! Dispatch. -/

theorem exec_memOk (i : Instr) (s : State) (h : s.MemOk) : OutOk (exec i s) := by
  cases i
  · exact execNop_memOk  s h
  · exact execAdd_memOk _ _ _ _ s h
  · exact execSub_memOk _ _ _ _ s h
  · exact execMul_memOk _ _ _ _ s h
  · exact execMulh_memOk _ _ _ _ s h
  · exact execMulhn_memOk _ _ _ _ s h
  · exact execDiv_memOk _ _ _ _ s h
  · exact execDivn_memOk _ _ _ _ s h
  · exact execRem_memOk _ _ _ _ s h
  · exact execRemn_memOk _ _ _ _ s h
  · exact execAddi_memOk _ _ _ _ s h
  · exact execMuli_memOk _ _ _ _ s h
  · exact execAnd_memOk _ _ _ _ s h
  · exact execOr_memOk _ _ _ _ s h
  · exact execXor_memOk _ _ _ _ s h
  · exact execAndn_memOk _ _ _ _ s h
  · exact execOrn_memOk _ _ _ _ s h
  · exact execXnor_memOk _ _ _ _ s h
  · exact execAndi_memOk _ _ _ _ s h
  · exact execOri_memOk _ _ _ _ s h
  · exact execXori_memOk _ _ _ _ s h
  · exact execShl_memOk _ _ _ _ s h
  · exact execShr_memOk _ _ _ _ s h
  · exact execSar_memOk _ _ _ _ s h
  · exact execRol_memOk _ _ _ _ s h
  · exact execRor_memOk _ _ _ _ s h
  · exact execShli_memOk _ _ _ _ s h
  · exact execShri_memOk _ _ _ _ s h
  · exact execSari_memOk _ _ _ _ s h
  · exact execMin_memOk _ _ _ _ s h
  · exact execMax_memOk _ _ _ _ s h
  · exact execMinn_memOk _ _ _ _ s h
  · exact execMaxn_memOk _ _ _ _ s h
  · exact execAbs_memOk _ _ _ s h
  · exact execNeg_memOk _ _ _ s h
  · exact execClz_memOk _ _ _ s h
  · exact execCtz_memOk _ _ _ s h
  · exact execPopc_memOk _ _ _ s h
  · exact execBswap_memOk _ _ _ s h
  · exact execBexs_memOk _ _ _ _ _ s h
  · exact execBexz_memOk _ _ _ _ _ s h
  · exact execBins_memOk _ _ _ _ _ s h
  · exact execSel_memOk _ _ _ _ _ s h
  · exact execLi_memOk _ _ _ s h
  · exact execLih_memOk _ _ _ s h
  · exact execMov_memOk _ _ _ s h
  · exact execAdds_memOk _ _ _ _ s h
  · exact execSubs_memOk _ _ _ _ s h
  · exact execSext_memOk _ _ _ _ s h
  · exact execZext_memOk _ _ _ _ s h
  · exact execCmpeq_memOk _ _ _ _ s h
  · exact execCmpne_memOk _ _ _ _ s h
  · exact execCmplt_memOk _ _ _ _ s h
  · exact execCmple_memOk _ _ _ _ s h
  · exact execCmpltn_memOk _ _ _ _ s h
  · exact execCmplen_memOk _ _ _ _ s h
  · exact execCmpeqi_memOk _ _ _ _ s h
  · exact execCmplti_memOk _ _ _ _ s h
  · exact execPand_memOk _ _ _ _ s h
  · exact execPor_memOk _ _ _ _ s h
  · exact execPxor_memOk _ _ _ _ s h
  · exact execPandn_memOk _ _ _ _ s h
  · exact execPnot_memOk _ _ _ s h
  · exact execPmov_memOk _ _ _ s h
  · exact execPset_memOk _ _ _ s h
  · exact execPget_memOk _ _ _ s h
  · exact execPcnt_memOk _ _ _ s h
  · exact execBr_memOk _ _ s h
  · exact execJmp_memOk _ _ s h
  · exact execCall_memOk _ _ _ s h
  · exact execCallr_memOk _ _ _ s h
  · exact execRet_memOk _ _ s h
  · exact execLoop_memOk _ _ _ _ s h
  · exact execSloop_memOk _ _ _ _ s h
  · exact execSnext_memOk _ _ s h
  · exact execMfsp_memOk _ _ _ s h
  · exact execMtsp_memOk _ _ _ s h
  · exact execLdb_memOk _ _ _ _ _ _ s h
  · exact execLdbn_memOk _ _ _ _ _ _ s h
  · exact execLdh_memOk _ _ _ _ _ _ s h
  · exact execLdhn_memOk _ _ _ _ _ _ s h
  · exact execLdw_memOk _ _ _ _ _ _ s h
  · exact execLdwn_memOk _ _ _ _ _ _ s h
  · exact execLdd_memOk _ _ _ _ _ _ s h
  · exact execStb_memOk _ _ _ _ _ s h
  · exact execSth_memOk _ _ _ _ _ s h
  · exact execStw_memOk _ _ _ _ _ s h
  · exact execStd_memOk _ _ _ _ _ s h
  · exact execLdr_memOk _ _ _ _ _ s h
  · exact execLdk_memOk _ _ _ _ _ _ _ _ s h
  · exact execLda_memOk _ _ _ _ _ _ _ _ s h
  · exact execStl_memOk _ _ _ _ _ _ _ s h
  · exact execPgin_memOk _ _ _ _ _ s h
  · exact execAmoadd_memOk _ _ _ _ _ _ _ _ _ s h
  · exact execAmoand_memOk _ _ _ _ _ _ _ _ _ s h
  · exact execAmoor_memOk _ _ _ _ _ _ _ _ _ s h
  · exact execAmoxor_memOk _ _ _ _ _ _ _ _ _ s h
  · exact execAmomin_memOk _ _ _ _ _ _ _ _ _ s h
  · exact execAmomax_memOk _ _ _ _ _ _ _ _ _ s h
  · exact execAmominn_memOk _ _ _ _ _ _ _ _ _ s h
  · exact execAmomaxn_memOk _ _ _ _ _ _ _ _ _ s h
  · exact execAmoswp_memOk _ _ _ _ _ _ _ _ _ s h
  · exact execAmocas_memOk _ _ _ _ _ _ _ _ _ s h
  · exact execFence_memOk _ _ _ _ s h
  · exact execRpub_memOk _ _ _ _ s h
  · exact execRadv_memOk _ _ _ s h
  · exact execRacq_memOk _ _ _ _ s h
  · exact execRrnd_memOk _ _ _ _ _ s h
  · exact execHoist_memOk _ _ _ _ _ _ _ _ _ s h
  · exact execSight_memOk _ _ _ _ _ _ _ _ _ s h
  · exact execHrnd_memOk _ _ _ s h
  · exact execBarr_memOk _ _ _ _ _ s h
  · exact execBwait_memOk _ _ _ _ s h
  · exact execBgen_memOk _ _ _ s h
  · exact h
  · exact execTkpoll_memOk _ _ _ s h
  · exact execRwait_memOk _ _ s h
  · exact execRrel_memOk _ _ s h
  · exact execRnew_memOk _ _ _ _ s h
  · exact execRstat_memOk _ _ _ s h
  · exact execNsw_memOk _ _ _ _ s h
  · exact execNgw_memOk _ _ _ _ s h
  · exact execMset_memOk _ _ _ s h
  · exact execMseti_memOk _ _ _ _ s h
  · exact execMget_memOk _ _ _ s h
  · exact execMpld_memOk _ _ _ _ s h
  · exact execMpent_memOk _ _ _ s h
  · exact execMstat_memOk _ _ s h
  · exact execCkst_memOk _ _ _ s h
  · exact execPull_memOk _ _ _ s h
  · exact execPush_memOk _ _ _ _ _ _ s h
  · exact execRetire_memOk _ s h
  · exact execLaunch_memOk _ _ _ s h
  · exact execLpoll_memOk _ _ _ s h
  · exact execClkdiv_memOk _ _ _ s h
  · exact execClkdivReg_memOk _ _ _ s h
  · exact execTrap_memOk _ _ s h
  · exact execEjrd_memOk _ _ _ s h
  · exact execQdep_memOk _ _ _ s h
  · exact execBrk_memOk _ _ s h
  · exact execMfpr_memOk _ _ _ s h
  · exact execMtpr_memOk _ _ _ s h
  · exact execXlinv_memOk _ _ _ _ _ s h
  · exact execPurge_memOk _ _ _ s h
  · exact execEret_memOk _ _ _ s h
  · exact execWfe_memOk _ _ s h
  · exact execStest_memOk _ _ _ s h
  · exact execHsw_memOk _ _ _ s h
  · exact execVadd_memOk _ _ _ _ s h
  · exact execVsub_memOk _ _ _ _ s h
  · exact execVmul_memOk _ _ _ _ s h
  · exact execVmulh_memOk _ _ _ _ s h
  · exact execVfma_memOk _ _ _ _ _ s h
  · exact execVfms_memOk _ _ _ _ _ s h
  · exact execVfnma_memOk _ _ _ _ _ s h
  · exact execVdiv_memOk _ _ _ _ s h
  · exact execVsqrt_memOk _ _ _ s h
  · exact execVrsqrt_memOk _ _ _ s h
  · exact execVrsqp_memOk _ _ _ _ s h
  · exact execVmin_memOk _ _ _ _ s h
  · exact execVmax_memOk _ _ _ _ s h
  · exact execVabs_memOk _ _ _ s h
  · exact execVneg_memOk _ _ _ s h
  · exact execVand_memOk _ _ _ _ s h
  · exact execVor_memOk _ _ _ _ s h
  · exact execVxor_memOk _ _ _ _ s h
  · exact execVnot_memOk _ _ _ s h
  · exact execVshl_memOk _ _ _ _ s h
  · exact execVshlImm_memOk _ _ _ _ s h
  · exact execVshr_memOk _ _ _ _ s h
  · exact execVshrImm_memOk _ _ _ _ s h
  · exact execVsar_memOk _ _ _ _ s h
  · exact execVsarImm_memOk _ _ _ _ s h
  · exact execVrshr_memOk _ _ _ _ s h
  · exact execVrshrImm_memOk _ _ _ _ s h
  · exact execVcmpeq_memOk _ _ _ _ s h
  · exact execVcmpne_memOk _ _ _ _ s h
  · exact execVcmplt_memOk _ _ _ _ s h
  · exact execVcmple_memOk _ _ _ _ s h
  · exact execVsel_memOk _ _ _ _ _ s h
  · exact execVclz_memOk _ _ _ s h
  · exact execVpopc_memOk _ _ _ s h
  · exact execVdot4_memOk _ _ _ _ _ s h
  · exact execVredsum_memOk _ _ _ s h
  · exact execVredmax_memOk _ _ _ s h
  · exact execVredmin_memOk _ _ _ s h
  · exact execVcpsgn_memOk _ _ _ _ s h
  · exact execVmovi_memOk _ _ _ s h
  · exact execVxmov_memOk _ _ _ s h
  · exact execVmov_memOk _ _ _ s h
  · exact execVld_memOk _ _ _ _ s h
  · exact execVst_memOk _ _ _ _ s h
  · exact execVlds_memOk _ _ _ _ _ s h
  · exact execVsts_memOk _ _ _ _ _ s h
  · exact execVldx_memOk _ _ _ _ _ s h
  · exact execVstx_memOk _ _ _ _ _ s h
  · exact execVldb_memOk _ _ _ _ s h
  · exact execVcvt_memOk _ _ _ _ _ s h
  · exact execVquant_memOk _ _ _ _ _ _ _ _ s h
  · exact execVdequant_memOk _ _ _ _ _ s h
  · exact execVperm_memOk _ _ _ _ s h
  · exact execVslide_memOk _ _ _ _ _ s h
  · exact execVbcastElem_memOk _ _ _ _ s h
  · exact execVbcastScalar_memOk _ _ _ s h
  · exact execVzip_memOk _ _ _ _ _ s h
  · exact execVunzip_memOk _ _ _ _ _ s h
  · exact execVpack_memOk _ _ _ _ _ s h
  · exact execVunpk_memOk _ _ _ _ s h
  · exact execMcall_memOk _ _ _ _ _ _ s h
  · exact execLload_memOk _ _ _ s h
  · exact execDrain_memOk _ _ _ _ _ s h
  · exact execAzero_memOk _ _ s h
  · exact execEpicfg_memOk _ _ s h
  · exact execCksnap_memOk _ _ _ s h
  · exact execCpy_memOk _ _ _ _ _ _ _ s h
  · exact execCpset_memOk _ _ _ _ _ s h
  · exact execBcdrv_memOk false _ _ s h
  · exact execBclat_memOk _ _ _ _ s h
  · exact execScset_memOk _ _ s h
  · exact execScadd_memOk _ _ s h
  · exact execScsub_memOk _ _ s h
  · exact execScpad_memOk _ _ s h
  · exact execSccpy_memOk _ _ s h
  · exact execScmax_memOk _ _ s h
  · exact execScmin_memOk _ _ s h
  · exact execFin_memOk  s h
  · exact execFmt_memOk _ _ _ s h
  · exact execUse_memOk _ _ s h
  · exact execAct_memOk _ s h
  · exact execLk_memOk _ s h
  · exact execBk_memOk _ s h
  · exact execLkadd_memOk _ s h
  · exact execBkadd_memOk _ s h
  · exact execMac_memOk _ s h
  · exact execMacn_memOk _ s h
  · exact execZero_memOk  s h
  · exact execIdle_memOk _ s h
  · exact execCnt_memOk _ _ s h
  · exact execRep_memOk _ _ s h
  · exact execBrz_memOk _ _ _ s h
  · exact execScaleWriteLand_memOk  s h
  · exact execRoutineComplete_memOk  s h
  · exact execRoutineFault_memOk  s h
  · exact execLloadComplete_memOk  s h
  · exact execDrainComplete_memOk  s h
  · exact execAzeroComplete_memOk  s h
  · exact execEpicfgComplete_memOk  s h
  · exact execCksnapComplete_memOk  s h
  · exact execCheckpoint_memOk  s h
  · exact execSafePoint_memOk  s h
  · exact execSwitchPoint_memOk  s h
  · exact execPhaseMarker_memOk  s h
  · exact execRecordPost_memOk  s h
  · exact execSfiOverrun_memOk  s h
  · exact execRequestedStop_memOk  s h
  · exact execLoadDelivery_memOk  s h
  · exact execStorePerform_memOk  s h
  · exact execCopyBegin_memOk  s h
  · exact execCopyResume_memOk  s h
  · exact execSlackExpire_memOk  s h
  · exact execCopyPageCrossing_memOk  s h
  · exact execCopyComplete_memOk  s h
  · exact execBroadcastBeat_memOk  s h
  · exact execBclatComplete_memOk  s h
  · exact execHoistSlotTake_memOk  s h
  · exact execHoistLand_memOk  s h
  · exact execSightPoint_memOk  s h
  · exact execSightRelease_memOk  s h
  · exact execHalyardTokenComplete_memOk  s h
  · exact execPublish_memOk  s h
  · exact execRoundTableUpdate_memOk  s h
  · exact execRacqArrival_memOk  s h
  · exact execRegionSweep_memOk  s h
  · exact execBarrierArrival_memOk  s h
  · exact execBarrierViewUpdate_memOk  s h
  · exact execPginService_memOk  s h
  · exact execSlewGrantSlot_memOk  s h
  · exact execRampWindow_memOk  s h
  · exact execRampDown_memOk  s h
  · exact execHostLaunchTrigger_memOk  s h
  · exact execLaunchStatusWrite_memOk  s h
  · exact execLaunchStart_memOk  s h
  · exact execBind_memOk  s h
  · exact execInitialItemAppend_memOk  s h
  · exact execPeriodBoundary_memOk  s h
  · exact execBudgetOverrun_memOk  s h
  · exact execPreemptionRequest_memOk  s h
  · exact execPreemptionSaveDone_memOk  s h
  · exact execQctlWrite_memOk  s h
  · exact execQperWrite_memOk  s h
  · exact execQbudWrite_memOk  s h
  · exact execCtxcWrite_memOk  s h
  · exact execKeyLoad_memOk  s h
  · exact execKeyErase_memOk  s h
  · exact execBiasFlipToHost_memOk  s h
  · exact execBiasFlipToDevice_memOk  s h
  · exact execBiasFlipComplete_memOk  s h
  · exact execXlinvComplete_memOk  s h
  · exact execPurgeComplete_memOk  s h
  · exact execPoisonConsumed_memOk  s h
  · exact execSelfTestComplete_memOk  s h
  · exact execFenceCore_memOk  s h
  · exact execFenceSlice_memOk  s h
  · exact execFenceStrait_memOk  s h
  · exact execFenceDramChannel_memOk  s h
  · exact execOpmWrite_memOk  s h
  · exact execOpmdWrite_memOk  s h
  · exact execGovWrite_memOk  s h
  · exact execOptd1Write_memOk  s h
  · exact execSlrWrite_memOk  s h
  · exact execPlsWrite_memOk  s h
  · exact execOptMirrorWrite_memOk  s h
  · exact execRailMoveStep_memOk  s h
  · exact execControlInterval_memOk  s h
  · exact execGovernorWindow_memOk  s h
  · exact execThermalTrip_memOk  s h
  · exact execDivisorChange_memOk  s h
  · exact execSupplyLoss_memOk  s h
  · exact execQuiesceEnd_memOk  s h
  · exact execSaveEnd_memOk  s h
  · exact execSealEnd_memOk  s h
  · exact execPowerGood_memOk  s h
  · exact execHostConfigSpaceRead_memOk  s h
  · exact execRds_memOk  s h
  · exact execRdo_memOk  s h
  · exact execUpg_memOk  s h
  · exact execFwds_memOk  s h
  · exact execFwdo_memOk  s h
  · exact execInv_memOk  s h
  · exact execBinv_memOk  s h
  · exact execData_memOk  s h
  · exact execAck_memOk  s h
  · exact execBack_memOk  s h
  · exact execBackd_memOk  s h
  · exact execFwdack_memOk  s h
  · exact execGo_memOk  s h
  · exact execWb_memOk  s h
  · exact execCe_memOk  s h
  · exact execWback_memOk  s h
  · exact execCmp_memOk  s h
  · exact execLineCacheEviction_memOk  s h
  · exact execHostMemAccess_memOk  s h
  · exact execHostSnoop_memOk  s h
  · exact execExpanderBackInvalidation_memOk  s h
  · exact execPatrolScrub_memOk  s h
  · exact execTelemetrySnapshot_memOk  s h
  · exact execTelemetrySnapshotDone_memOk  s h
  · exact execInfieldTestRequest_memOk  s h
  · exact execFwProg_memOk  s h
  · exact execFwProgComplete_memOk  s h
  · exact execFwCommit_memOk  s h
  · exact execAttestationStart_memOk  s h
  · exact execAttestationReport_memOk  s h
  · exact execPartitionWrite_memOk  s h
  · exact execRegisterWrite_memOk  s h
  · exact execForcedPublish_memOk  s h

/-! Perform. -/

theorem performCop_memOk (c : CoreId) (id : Nat) (s : State) (h_s : s.MemOk) : (performCop c id s).MemOk := by
  unfold performCop
  with_reducible repeat' (first
    | assumption | (intro _) | apply performLoad_memOk | apply performBounded_memOk | apply performAmo_memOk
    | apply performRpub_memOk | apply performRrnd_memOk | apply performBarr_memOk | apply performLaunch_memOk
    | apply performLpoll_memOk | apply performXlinv_memOk | apply memOk_ite | split | dsimp only)

/-! Issue. -/

theorem openBundle_memOk (c : CoreId) (f : Fetched) (s : State) (h_s : s.MemOk) : (openBundle c f s).MemOk := by
  unfold openBundle
  with_reducible repeat' (first
    | assumption | (intro _) | dsimp only | (rw [memOk_mk]; apply memOk_wf; first | assumption))

theorem settleRec_memOk (c : CoreId) (pre s : State) (h_s : s.MemOk) : (settleRec c pre s).MemOk := by
  unfold settleRec
  with_reducible repeat' (first
    | assumption | (intro _) | apply modC_memOk | dsimp only
    | (rw [memOk_mk]; apply memOk_wf; first | assumption | apply modC_memOk))

theorem bundleTrap_memOk (c : CoreId) (adr : W64) (slot : BitVec 3) (cause : Byte) (fadr dtl : W64) (s : State) (h_s : s.MemOk) : (bundleTrap c adr slot cause fadr dtl s).MemOk := by
  unfold bundleTrap
  with_reducible repeat' (first
    | assumption | (intro _) | apply postStop_memOk | apply settleRec_memOk | apply takeTrap_memOk | dsimp only
    | (rw [memOk_mk]; apply memOk_wf; first | assumption | apply postStop_memOk | apply settleRec_memOk | apply takeTrap_memOk))

theorem issueSlot_memOk (o : Out) (n : Nat) (i : Instr) (h : OutOk o) : OutOk (issueSlot o n i) := by
  unfold issueSlot
  split
  · split
    · exact h
    · exact exec_memOk _ _ h
  · exact h

theorem issueSlots_memOk (ops : List Instr) (s : State) (h : s.MemOk) : OutOk (issueSlots ops s) := by
  unfold issueSlots
  generalize (List.range 7).zip ops = l
  have : ∀ o, OutOk o → OutOk (l.foldl (fun o e => issueSlot o e.1 e.2) o) := by
    induction l with
    | nil => exact fun o h => h
    | cons e l ih => exact fun o h => ih _ (issueSlot_memOk _ _ _ h)
  exact this _ h

theorem countFull_memOk (c : CoreId) (s : State) (h_s : s.MemOk) : (countFull c s).MemOk := by
  unfold countFull
  with_reducible repeat' (first
    | assumption | (intro _) | apply modC_memOk | apply memOk_ite | split | dsimp only
    | (rw [memOk_mk]; apply memOk_wf; first | assumption | apply modC_memOk | apply memOk_ite))

theorem nextCycle_memOk (c : CoreId) (s : State) (h_s : s.MemOk) : (nextCycle c s).MemOk := by
  unfold nextCycle
  with_reducible repeat' (first
    | assumption | (intro _) | apply modC_memOk | apply at_memOk | dsimp only
    | (rw [memOk_mk]; apply memOk_wf; first | assumption | apply modC_memOk | apply at_memOk))

theorem govern_memOk (c : CoreId) (f : IslandSt → IslandSt) (s : State) (h_s : s.MemOk) : (govern c f s).MemOk := by
  unfold govern
  with_reducible repeat' (first
    | assumption | (intro _) | apply modI_memOk | apply memOk_ite | split | dsimp only)

theorem held_memOk (c : CoreId) (h : HoldBy) (s : State) (h_s : s.MemOk) : (held c h s).MemOk := by
  unfold held
  with_reducible repeat' (first
    | assumption | (intro _) | apply modC_memOk | apply nextCycle_memOk | apply govern_memOk | apply memOk_ite | split
    | dsimp only
    | (rw [memOk_mk]; apply memOk_wf; first | assumption | apply modC_memOk | apply nextCycle_memOk | apply govern_memOk | apply memOk_ite))

theorem forceCheckpoint_memOk (c : CoreId) (tele : Nat) (s : State) (h_s : s.MemOk) : (forceCheckpoint c tele s).MemOk := by
  unfold forceCheckpoint
  with_reducible repeat' (first
    | assumption | (intro _) | apply modC_memOk | apply now_memOk | apply held_memOk | split | dsimp only
    | (rw [memOk_mk]; apply memOk_wf; first | assumption | apply modC_memOk | apply now_memOk | apply held_memOk))

theorem waitCycle_memOk (c : CoreId) (s : State) (h_s : s.MemOk) : (waitCycle c s).MemOk := by
  unfold waitCycle
  with_reducible repeat' (first
    | assumption | (intro _) | apply modC_memOk | apply held_memOk | apply nextCycle_memOk | apply govern_memOk
    | apply memOk_ite | split | dsimp only
    | (rw [memOk_mk]; apply memOk_wf; first | assumption | apply modC_memOk | apply held_memOk | apply nextCycle_memOk | apply govern_memOk | apply memOk_ite))

theorem startWait_memOk (c : CoreId) (by_ n : Nat) (s : State) (h_s : s.MemOk) : (startWait c by_ n s).MemOk := by
  unfold startWait
  with_reducible repeat' (first
    | assumption | (intro _) | apply modC_memOk | apply waitCycle_memOk | dsimp only
    | (rw [memOk_mk]; apply memOk_wf; first | assumption | apply modC_memOk | apply waitCycle_memOk))

theorem trapFrom_memOk (c : CoreId) (pre s : State) (h_pre : pre.MemOk) : (trapFrom c pre s).MemOk := by
  unfold trapFrom
  with_reducible repeat' (first
    | assumption | (intro _) | apply modC_memOk | apply postStop_memOk | apply settleRec_memOk | apply rollback_memOk
    | apply modC_memOk | dsimp only
    | (rw [memOk_mk]; apply memOk_wf; first | assumption | apply modC_memOk | apply postStop_memOk | apply settleRec_memOk | apply rollback_memOk | apply modC_memOk))

theorem poisonFrom_memOk (c : CoreId) (pre s : State) (adr : W64) (slot : BitVec 3) (cause : Byte) (fadr : W64) (met : Option (Nat × Option Nat)) (h_pre : pre.MemOk) : (poisonFrom c pre s adr slot cause fadr met).MemOk := by
  unfold poisonFrom
  with_reducible repeat' (first
    | assumption | (intro _) | apply now_memOk | apply noteError_memOk | split | dsimp only
    | (rw [memOk_mk]; apply memOk_wf; first | assumption | apply now_memOk | apply noteError_memOk))

theorem markSample_memOk (c : CoreId) (adr : W64) (undone : Bool) (k : CoreSt) (s : State) (h_s : s.MemOk) : (markSample c adr undone k s).MemOk := by
  unfold markSample
  with_reducible repeat' (first
    | assumption | (intro _) | apply modC_memOk | apply pick_memOk | apply memOk_ite | split
    | refine pick_pair_memOk (by assumption) ?_ | dsimp only
    | (rw [memOk_mk]; apply memOk_wf; first | assumption | apply modC_memOk | apply pick_memOk | apply memOk_ite | refine pick_pair_memOk (by assumption) ?_))

theorem stopAfter_memOk (c : CoreId) (s : State) (h_s : s.MemOk) : (stopAfter c s).MemOk := by
  unfold stopAfter
  with_reducible repeat' (first
    | assumption | (intro _) | apply modC_memOk | apply traceEv_memOk | apply memOk_ite | split | dsimp only
    | (rw [memOk_mk]; apply memOk_wf; first | assumption | apply modC_memOk | apply traceEv_memOk | apply memOk_ite))

theorem finishIssue_memOk (c : CoreId) (f : Fetched) (cp promoted : Bool) (s : State) (h_s : s.MemOk) : (finishIssue c f cp promoted s).MemOk := by
  unfold finishIssue
  with_reducible repeat' (first
    | assumption | (intro _) | apply modC_memOk | apply now_memOk | apply memOk_foldr | apply trace_memOk
    | apply stopAfter_memOk | apply markSample_memOk | apply modC_memOk | apply govern_memOk | apply nextCycle_memOk
    | apply memOk_ite | split | dsimp only
    | (rw [memOk_mk]; apply memOk_wf; first | assumption | apply modC_memOk | apply now_memOk | apply memOk_foldr | apply trace_memOk | apply stopAfter_memOk | apply markSample_memOk | apply modC_memOk | apply govern_memOk | apply nextCycle_memOk | apply memOk_ite))

theorem outOk_of_next_memOk {o : Out} {t : State} (e : o = .next t) (h : OutOk o) : t.MemOk := by subst e; exact h

theorem tryIssue_memOk (c : CoreId) (f : Fetched) (sca : SlotWord) (s : State) (h_s : s.MemOk) : OutOk (tryIssue c f sca s) := by
  unfold tryIssue
  dsimp only
  have h1 : ∀ (fr : Nat) (b : Bundle), State.MemOk { openBundle c f s with free := fr, bun := b } := fun _ _ => h_s
  have h2 : ∀ (p : Prop) [Decidable p], State.MemOk (if p then { s with free := s.free + 1 } else s) := by
    intro p _; split <;> exact h_s
  have h3 : ∀ (p : Prop) [Decidable p], State.MemOk (if p then countFull c s else s) := by
    intro p _; split
    · exact countFull_memOk _ _ h_s
    · exact h_s
  split
  · exact held_memOk _ _ _ h_s
  · exact held_memOk _ _ _ h_s
  · split
    · exact startWait_memOk _ _ _ _ (keepXlat_memOk _ _ _ (h2 _))
    · split
      · split
        · exact held_memOk _ _ _ (h3 _)
        · exact nextCycle_memOk _ _ (markSample_memOk _ _ _ _ _ (bundleTrap_memOk _ _ _ _ _ _ _ (h2 _)))
      · split
        · rename_i t e
          have h4 : t.MemOk := outOk_of_next_memOk e (issueSlots_memOk _ _ (h1 _ _))
          split
          · split
            · split
              · exact held_memOk _ _ _ (h3 _)
              · exact nextCycle_memOk _ _ (markSample_memOk _ _ _ _ _ (poisonFrom_memOk _ _ _ _ _ _ _ _ h_s))
            · split
              · exact held_memOk _ _ _ (h3 _)
              · exact nextCycle_memOk _ _ (markSample_memOk _ _ _ _ _ (trapFrom_memOk _ _ _ h_s))
          · split
            · exact held_memOk _ _ _ (countFull_memOk _ _ h_s)
            · split
              · exact held_memOk _ _ _ h_s
              · exact forceCheckpoint_memOk _ _ _ h_s
              · exact finishIssue_memOk _ _ _ _ _ h4
        · exact issueSlots_memOk _ _ (h1 _ _)

theorem fetchFault_memOk (c : CoreId) (e : FetchErr) (s : State) (h_s : s.MemOk) : (fetchFault c e s).MemOk := by
  unfold fetchFault
  with_reducible repeat' (first
    | assumption | (intro _) | apply nextCycle_memOk | apply poisonFrom_memOk | apply bundleTrap_memOk | apply memOk_ite | split
    | dsimp only
    | (rw [memOk_mk]; apply memOk_wf; first | assumption | apply nextCycle_memOk | apply poisonFrom_memOk | apply bundleTrap_memOk | apply memOk_ite))

theorem fetchIssue_memOk (c : CoreId) (s : State) (h_s : s.MemOk) : OutOk (fetchIssue c s) := by
  unfold fetchIssue
  with_reducible repeat' (first
    | assumption | (intro _) | exact outOk_fault _ | rw [outOk_next] | apply pick_memOk | apply fetchFault_memOk
    | apply walkBody_memOk | apply fillCode_memOk | apply pick_memOk | apply startWait_memOk | apply fetchAhead_memOk
    | apply nextCycle_memOk | apply markSample_memOk | apply bundleTrap_memOk | apply tryIssue_memOk | apply memOk_ite | split
    | refine pick_pair_memOk (by assumption) ?_ | refine pick_pair_memOk (by assumption) ?_
    | refine fetchBundle_memOk (by assumption) ?_ | dsimp only
    | (rw [memOk_mk]; apply memOk_wf; first | assumption | apply pick_memOk | apply fetchFault_memOk | apply walkBody_memOk | apply fillCode_memOk | apply pick_memOk | apply startWait_memOk | apply fetchAhead_memOk | apply nextCycle_memOk | apply markSample_memOk | apply bundleTrap_memOk | apply tryIssue_memOk | apply memOk_ite | refine pick_pair_memOk (by assumption) ?_ | refine pick_pair_memOk (by assumption) ?_ | refine fetchBundle_memOk (by assumption) ?_))

theorem postSample_memOk (c : CoreId) (s : State) (h_s : s.MemOk) : (postSample c s).MemOk := by
  unfold postSample
  with_reducible repeat' (first
    | assumption | (intro _) | apply modC_memOk | apply memOk_foldl | apply sampleRec_memOk | apply modC_memOk | apply memOk_ite
    | split | dsimp only
    | (rw [memOk_mk]; apply memOk_wf; first | assumption | apply modC_memOk | apply memOk_foldl | apply sampleRec_memOk | apply modC_memOk | apply memOk_ite))

theorem runEdge_memOk (c : CoreId) (s : State) (h_s : s.MemOk) : OutOk (runEdge c s) := by
  unfold runEdge
  with_reducible repeat' (first
    | assumption | (intro _) | rw [outOk_next] | apply modC_memOk | apply now_memOk | apply nextCycle_memOk
    | apply bundleTrap_memOk | apply held_memOk | apply waitCycle_memOk | apply forceCheckpoint_memOk
    | apply fetchIssue_memOk | apply memOk_ite | split | dsimp only
    | (rw [memOk_mk]; apply memOk_wf; first | assumption | apply modC_memOk | apply now_memOk | apply nextCycle_memOk | apply bundleTrap_memOk | apply held_memOk | apply waitCycle_memOk | apply forceCheckpoint_memOk | apply fetchIssue_memOk | apply memOk_ite))

theorem savingEdge_memOk (c : CoreId) (s00 : State) (h_s00 : s00.MemOk) : (savingEdge c s00).MemOk := by
  unfold savingEdge
  with_reducible repeat' (first
    | assumption | (intro _) | apply modC_memOk | apply sendRec_memOk | apply eventRec_memOk | apply leaveCore_memOk
    | apply nextCycle_memOk | apply memOk_ite | split | dsimp only
    | (rw [memOk_mk]; apply memOk_wf; first | assumption | apply modC_memOk | apply sendRec_memOk | apply eventRec_memOk | apply leaveCore_memOk | apply nextCycle_memOk | apply memOk_ite))

theorem landEdge_memOk (c : CoreId) (s : State) (h_s : s.MemOk) : (landEdge c s).MemOk := by
  unfold landEdge
  with_reducible repeat' (first
    | assumption | (intro _) | apply modC_memOk | apply fixThresholds_memOk | apply dispatch_memOk | apply landPushes_memOk
    | apply State.ready_memOk | apply memOk_ite | split | refine State.ready_pair_memOk (by assumption) ?_ | dsimp only
    | (rw [memOk_mk]; apply memOk_wf; first | assumption | apply modC_memOk | apply fixThresholds_memOk | apply dispatch_memOk | apply landPushes_memOk | apply State.ready_memOk | apply memOk_ite | refine State.ready_pair_memOk (by assumption) ?_))

theorem redoEdge_memOk (c : CoreId) (i : Instr) (s : State) (h_s : s.MemOk) : (redoEdge c i s).MemOk := by
  unfold redoEdge
  with_reducible repeat' (first
    | assumption | (intro _) | dsimp only | (rw [memOk_mk]; apply memOk_wf; first | assumption))

theorem controlEdge_memOk (c : CoreId) (s0 : State) (h_s0 : s0.MemOk) : OutOk (controlEdge c s0) := by
  unfold controlEdge
  with_reducible repeat' (first
    | assumption | (intro _) | rw [outOk_next] | apply landEdge_memOk | apply redoEdge_memOk | apply followPhase_memOk
    | apply postSample_memOk | apply runEdge_memOk | apply savingEdge_memOk | apply nextCycle_memOk | apply postStop_memOk
    | apply memOk_ite | split | dsimp only)

theorem microStep_memOk (c : CoreId) (s0 : State) (h_s0 : s0.MemOk) : OutOk (microStep c s0) := by
  unfold microStep
  with_reducible repeat' (first
    | assumption | (intro _) | exact outOk_fault _ | rw [outOk_next] | apply modMe_memOk | apply microFault_memOk
    | apply engineConsumes_memOk | apply exec_memOk | apply memOk_ite | split | dsimp only
    | (rw [memOk_mk]; apply memOk_wf; first | assumption | apply modMe_memOk | apply microFault_memOk | apply engineConsumes_memOk | apply exec_memOk | apply memOk_ite))

/-! Place. -/

theorem placeSlot_memOk (nbits w : Nat) (s : State) (h_s : s.MemOk) : (placeSlot nbits w s).MemOk := by
  unfold placeSlot
  with_reducible repeat' (first
    | assumption | (intro _) | apply modC_memOk | dsimp only
    | (rw [memOk_mk]; apply memOk_wf; first | assumption | apply modC_memOk))

theorem placeMicro_memOk (w : BitVec 32) (s : State) (h_s : s.MemOk) : (placeMicro w s).MemOk := by
  unfold placeMicro
  with_reducible repeat' (first
    | assumption | (intro _) | apply modC_memOk | dsimp only
    | (rw [memOk_mk]; apply memOk_wf; first | assumption | apply modC_memOk))

/-! Step. -/

theorem State.withFetchWord_memOk (s : State) (nbits w : Nat) (h_s : s.MemOk) : (State.withFetchWord s nbits w).MemOk := by
  unfold State.withFetchWord
  with_reducible repeat' (first
    | assumption | (intro _) | apply placeMicro_memOk | apply placeSlot_memOk | apply memOk_ite | split | dsimp only)

end Sys2Proof.Machine
end

