-- ==== Sys2Proof/Laws/Ops.lean ====
section
/-! SUPPORT. What the shared operations do, each said once: the agenda, guards, deliveries, withheld stores, taking a trap and
resuming after one. -/

namespace Sys2Proof.Machine

/-! The agenda. -/

theorem mem_insEntry (l : List Entry) (e x : Entry) : x ∈ insEntry l e ↔ x = e ∨ x ∈ l := by
  induction l with
  | nil => simp [insEntry]
  | cons y r ih =>
    unfold insEntry
    split
    · simp only [List.mem_cons, ih]; tauto
    · simp only [List.mem_cons]

theorem has_iff (s : State) (d : Due) : s.has d = true ↔ ∃ e ∈ s.agenda, e.due = d := by
  simp [State.has, List.any_eq_true]

@[simp] theorem has_at (s : State) (t : Nat) (d : Due) : (s.at t d).has d = true := by
  rw [has_iff]
  exact ⟨_, (mem_insEntry _ _ _).2 (.inl rfl), rfl⟩

@[simp] theorem has_after (s : State) (t : Nat) (d : Due) : (s.after t d).has d = true := has_at s _ d

theorem has_at_of_has (s : State) (t : Nat) (d e : Due) (h : s.has e = true) : (s.at t d).has e = true := by
  rw [has_iff] at h ⊢
  obtain ⟨x, hx, rfl⟩ := h
  exact ⟨x, (mem_insEntry _ _ _).2 (.inr hx), rfl⟩

@[simp] theorem has_now (s : State) (i : Instr) (a : Arg) : (s.now i a).has (.ev i a) = true := by
  simp [State.has, State.now]

theorem mem_agenda_at (s : State) (t : Nat) (d : Due) (x : Entry) :
    x ∈ (s.at t d).agenda ↔ x = ⟨t, rankOf s d, d⟩ ∨ x ∈ s.agenda := mem_insEntry _ _ _

/-! Guards (R76). -/

theorem guarded_true {g : Guard} {s : State} (f : State → State) (h : guardOk g s = true) : guarded g s f = .next (f s) := by
  simp [guarded, h]

theorem guarded_false {g : Guard} {s : State} (f : State → State) (h : guardOk g s = false) : guarded g s f = .next s := by
  simp [guarded, h]

theorem engineSlot_runs {s : State} (f : State → State) (h : s.bun.squash = false) : engineSlot s f = .next (f s) := by
  simp [engineSlot, h]

theorem engineSlot_squashed {s : State} (f : State → State) (h : s.bun.squash = true) : engineSlot s f = .next s := by
  simp [engineSlot, h]

/-! Deliveries. -/

theorem mem_insDel (l : List Delivery) (d x : Delivery) : x ∈ insDel l d ↔ x = d ∨ x ∈ l := by
  induction l with
  | nil => simp [insDel]
  | cons y r ih =>
    unfold insDel
    split
    · simp only [List.mem_cons, ih]; tauto
    · simp only [List.mem_cons]

theorem mem_pend_deliver (n : Nat) (e : Eff) (s : State) (x : Delivery) :
    x ∈ (deliver n e s).me.pend ↔ x = ⟨.ctl, n, s.tick + n * s.me.div.ctl, s.order, e⟩ ∨ x ∈ s.me.pend := by
  simp [deliver, CoreSt.deliver, mem_insDel, Divs.get]

/-- A delivery changes nothing but what the core is owed. -/
theorem deliver_me (n : Nat) (e : Eff) (s : State) :
    (deliver n e s).me = { s.me with pend := insDel s.me.pend ⟨.ctl, n, s.tick + n * s.me.div.ctl, s.order, e⟩ } := by
  simp [deliver, CoreSt.deliver, Divs.get]

theorem getS_setS (r : Regs) (d i : BitVec 6) (v : W64) : (r.setS d v).getS i = if i = d ∧ d ≠ 0 then v else r.getS i := by
  by_cases hd : d = 0
  · simp [Regs.setS, hd]
  · by_cases hi : i = 0
    · have : ¬ (i = d ∧ d ≠ 0) := fun h => hd (h.1 ▸ hi)
      simp only [Regs.setS, Regs.getS, if_neg hd, if_pos hi, if_neg this]
    · simp only [Regs.setS, Regs.getS, if_neg hd, if_neg hi]
      by_cases e : i = d
      · subst e; rw [if_pos ⟨rfl, hd⟩, Vector.getElem_set_self]
      · rw [if_neg (fun h => e h.1), Vector.getElem_set_ne _ _ (fun h => e (BitVec.eq_of_toNat_eq h.symm))]

/-! Withheld stores (R139, R182). -/

theorem withhold_me (sp : Sp) (va : W64) (cells : List Host.Cell) (n : Nat) (rel : Bool) (scp : BitVec 2) (bad : Option Nat)
    (trip : Trip) (s : State) : (withhold sp va cells n rel scp bad trip s).me =
      { s.me with wst := s.me.wst ++ [⟨s.me.nid, s.order, sp, va, cells, n, rel, scp, bad, trip⟩], nid := s.me.nid + 1 } := by
  simp [withhold]

/-! Pad accesses at their fixed times (R138, R246). -/

/-- Keeping a pad access in mind changes the core's list of them and nothing else, and nothing at all while every older access has
performed. -/
theorem notePad_spec (c : CoreId) (b : PathOp) (s : State) :
    (∃ l : CoreSt → List Early, notePad c b s = s.modC c fun k => { k with early := l k }) ∧ ((s.core.get c).open_ = [] → notePad c b s = s) := by
  unfold notePad; dsimp only
  constructor
  · split
    · exact ⟨fun k => k.early, (State.modC_same s _ rfl).symm⟩
    · exact ⟨_, rfl⟩
  · intro h; rw [if_pos]; simp [CoreSt.oldsOf, CoreSt.ahead, h]

/-! Taking a trap and resuming (R231, R360). -/

theorem modL_keeps (s : State) (n : Nat) (f : Launch → Launch) :
    (s.modL n f).core = s.core ∧ (s.modL n f).mem = s.mem ∧ (s.modL n f).cur = s.cur := by
  unfold State.modL; split <;> exact ⟨rfl, rfl, rfl⟩

theorem undoPops_keeps (c : CoreId) (s : State) :
    (undoPops c s).core = s.core ∧ (undoPops c s).mem = s.mem ∧ (undoPops c s).cur = s.cur := by
  unfold undoPops; dsimp only; split
  · exact modL_keeps _ _ _
  · exact ⟨rfl, rfl, rfl⟩

theorem undoPops_core (c : CoreId) (s : State) : (undoPops c s).core = s.core := (undoPops_keeps c s).1
theorem undoPops_mem (c : CoreId) (s : State) : (undoPops c s).mem = s.mem := (undoPops_keeps c s).2.1
theorem undoPops_cur (c : CoreId) (s : State) : (undoPops c s).cur = s.cur := (undoPops_keeps c s).2.2

/-- Rollback gives the core its duplicate registers, empties what it withheld, and leaves every other core and all storage. -/
theorem rollback_spec (c : CoreId) (s : State) :
    ((rollback c s).core.get c).r = (s.core.get c).ck ∧ ((rollback c s).core.get c).wst = [] ∧ ((rollback c s).core.get c).wmx = [] ∧
    ((rollback c s).core.get c).pops = [] ∧
    ((rollback c s).core.get c).pend = (s.core.get c).pend.filter (fun d => decide (d.seq ≤ (s.core.get c).ckSeq)) ∧
    (rollback c s).mem = s.mem ∧ ∀ d, d ≠ c → (rollback c s).core.get d = s.core.get d := by
  unfold rollback
  refine ⟨?_, ?_, ?_, ?_, ?_, ?_, ?_⟩
  all_goals first
    | (simp [undoPops_core, undoPops_mem]; done)
    | (intro d h; rw [State.modC_get_ne _ _ h, undoPops_core])

/-- A trap stops the current core with its cause, rolled back, and leaves every other core and all storage. -/
theorem takeTrap_spec (cause : Byte) (fadr dtl : W64) (s : State) :
    let t := takeTrap cause fadr dtl s
    t.me.run = .trapped cause ∧ t.me.r = s.me.ck ∧ t.me.wst = [] ∧ t.me.rec_ = some (mkRec s 2 s.bun.slot cause fadr dtl s.me.ck.pc) ∧
    t.bun.trap = true ∧ t.cur = s.cur ∧ t.mem = s.mem ∧ ∀ d, d ≠ s.cur → t.core.get d = s.core.get d := by
  have hc : (rollback s.cur s).cur = s.cur := by simp [rollback, undoPops_cur]
  obtain ⟨h1, h2, -, -, -, h6, h7⟩ := rollback_spec s.cur s
  have hm : (rollback s.cur s).me = (rollback s.cur s).core.get s.cur := by unfold State.me; rw [hc]
  have key : (takeTrap cause fadr dtl s).me =
      CoreSt.count { (rollback s.cur s).me with run := .trapped cause, rec_ := some (mkRec s 2 s.bun.slot cause fadr dtl s.me.ck.pc) } 12 1 :=
    State.modMe_me (rollback s.cur s) fun k =>
      CoreSt.count { k with run := .trapped cause, rec_ := some (mkRec s 2 s.bun.slot cause fadr dtl s.me.ck.pc) } 12 1
  refine ⟨?_, ?_, ?_, ?_, ?_, ?_, ?_, ?_⟩
  · rw [key]; rfl
  · rw [key]; simpa [CoreSt.count, hm, State.me] using h1
  · rw [key]; simpa [CoreSt.count, hm] using h2
  · rw [key]; rfl
  · rfl
  · exact hc
  · exact h6
  · intro d h
    simp only [takeTrap]
    rw [State.modMe_get_ne _ _ (by rw [hc]; exact h)]
    exact h7 d h

theorem startEdges_has (c : CoreId) (s : State) : (startEdges c s).has (.edge c) = true := by
  unfold startEdges; split
  · assumption
  · simp

/-- Resuming a core makes it run, with a control edge to come. -/
theorem resume_spec (c : CoreId) (s : State) :
    ((resume c s).core.get c).run = .running ∧ ((resume c s).core.get c).r = (s.core.get c).r ∧ (resume c s).has (.edge c) = true ∧
    (resume c s).mem = s.mem := by
  refine ⟨?_, ?_, startEdges_has _ _, ?_⟩ <;> (unfold resume startEdges; split <;> simp [State.at])

end Sys2Proof.Machine
end

