-- ==== Sys2Proof/Tests/Slice0.lean ====
section
/-! SUPPORT. Tests of the model and witnesses for the hypotheses of the statements: decoding words that are written out from the
tables, terms that WellFormed refuses, single steps on small states, and for each statement a state that meets its hypotheses. -/

namespace Sys2Proof.Tests
set_option Elab.async false
open Sys2Proof Sys2Proof.Machine

/-! States that the tests start from. -/

def g0 : Guard := ⟨0, false⟩
def gF : Guard := ⟨0, true⟩
/-- Reset, with a change of core 0, which is the current one. -/
def c0 (f : CoreSt → CoreSt) : State := State.reset.modC 0 f
/-- Scalar registers of core 0. -/
def sr (l : List (BitVec 6 × W64)) : State := c0 fun k => { k with r := l.foldl (fun r e => r.setS e.1 e.2) k.r }
/-- Operands of a device step. -/
def ar (f : Arg → Arg) (s : State) : State := { s with arg := f Arg.zero }
/-- The management core of island 0 is the current one. -/
def mg (s : State) : State := { s with cur := 128 }
/-- A launch of two stages with one region and two staging ways; its first stage is on cores 0 to 3. -/
def la (st : LSt) : Launch where
  st := st
  sn := 1
  depth := 0
  ctx := 0
  que := 0
  kid := 0
  img := 0
  wfw := 64
  sfi := 0
  itm := 5
  nit := 1
  fed := 0
  pen := 3
  lst := false
  rst := false
  hsq := 0
  stw := 2
  regions := [⟨5, 0x1000, 0x80, 0, false, 0⟩]
  halys := []
  stages := [⟨0x100, 2, [⟨7, 3, []⟩], 0, 0, 3, 1, 4, 0⟩, ⟨0x200, 2, [], 0, 4, 7, 1, 4, 0⟩]
  code := 0
  dictA := 0
  dictN := 0
  rtnA := 0
  rtnN := 0
  msvRep := 0
  msvStg := 0
  msv := []
  msvLen := 0
  msvOn := false
  lead := none
  done := 0
  opt := none
  phase := 0
/-- Core 0 runs a stage of that launch. -/
def ln (f : CoreSt → CoreSt) : State :=
  (c0 fun k => f { k with run := .running, launch := some 0 }).modD fun d => { d with pool := [(0, la .running)] }
/-- Page tables of context 0 at 0: the first 1 GiB has the leaf `e`. -/
def pg (e : Nat) (s : State) : State :=
  { s with mem := memWrs (memWrs (memWrs [] (cellsOf 0 0x1001 8)) (cellsOf 0x1000 0x2001 8)) (cellsOf 0x2000 e 8) }
/-- Writable leaves of 1 GiB: resident at 1 GiB, not resident with a backing, and with none. -/
def eRes : Nat := 0x1200000040000007
def eAbs : Nat := 0x1200000040000003
def eBare : Nat := 0x1200000000000003
def isAt : Addr → Bool | .at .. => true | _ => false
def isGlob : Addr → Bool | .at .glob .. => true | _ => false
def isAbs : Addr → Bool | .absent _ => true | _ => false
def isTrap : Addr → Bool | .trap .. => true | _ => false

/-- What a step delivers to the current core, and what it does with the core. -/
def effs : Out → List Eff | .next t => t.me.pend.map (·.eff) | _ => []
def runOf : Out → Option Run | .next t => some t.me.run | _ => none

/-! Encoding. -/

/-- Each check of WellFormed refuses a term: element types (R116), immediates (R129, R131, R133). -/
theorem test_wellformed_refuses_types :
    let h (t : ElemTy) : VH := ⟨.A, 0, t, false, .rne⟩
    (∀ i ∈ [Instr.vadd (h .e4m3) 0 0 0, .vsub (h .e4m3) 0 0 0, .vmul (h .b4) 0 0 0, .vmulh (h .f32) 0 0 0, .vfma (h .b4) 0 0 0 0,
      .vfms (h .e4m3) 0 0 0 0, .vfnma (h .b4) 0 0 0 0, .vdiv (h .bf16) 0 0 0, .vsqrt (h .i32) 0 0, .vrsqrt (h .bf16) 0 0,
      .vrsqp (h .bf16) 0 0 0, .vmin (h .e4m3) 0 0 0, .vmax (h .b4) 0 0 0, .vabs (h .b4) 0 0, .vneg (h .b4) 0 0, .vshl (h .f32) 0 0 0,
      .vshlImm (h .f32) 0 0 0, .vshr (h .bf16) 0 0 0, .vshrImm (h .f32) 0 0 0, .vsar (h .f32) 0 0 0, .vsarImm (h .f32) 0 0 0,
      .vrshr (h .f32) 0 0 0, .vrshrImm (h .f32) 0 0 0, .vcmpeq (h .i8) 0 0 0, .vcmpne (h .bf16) 0 0 0, .vcmplt (h .n16) 0 0 0,
      .vcmple (h .b4) 0 0 0, .vclz (h .f32) 0 0, .vpopc (h .f32) 0 0, .vdot4 (h .i16) 0 0 0 0, .vredsum (h .b4) 0 0,
      .vredmax (h .b4) 0 0, .vredmin (h .b4) 0 0, .vcpsgn (h .i32) 0 0 0, .vmovi (h .e4m3) 0 0], WellFormed i = false) := by
  decide +kernel

theorem test_wellformed_refuses_moves :
    let h (t : ElemTy) : VH := ⟨.A, 0, t, false, .rne⟩
    (∀ i ∈ [Instr.vlds (h .b4) 0 0 0 0, .vsts (h .b4) 0 0 0 0, .vldx (h .i8) 0 0 0 0, .vstx (h .bf16) 0 0 0 0, .vldb (h .b4) 0 0 0,
      .vcvt (h .b4) 0 0 .f32 0, .vcvt (h .f32) 0 0 .b4 0, .vcvt (h .f32) 0 0 .bf16 2, .vquant (h .f32) 0 0 0 .f32 0 0 0,
      .vquant (h .b4) 0 0 0 .i8 0 0 0, .vdequant (h .b4) 0 0 0 false, .vdequant (h .bf16) 0 0 0 true, .vperm (h .b4) 0 0 0,
      .vslide (h .b4) 0 0 0 0, .vslide (h .f32) 0 0 0 65, .vbcastElem (h .b4) 0 0 0, .vbcastElem (h .f32) 0 0 64,
      .vbcastScalar (h .b4) 0 0, .vzip (h .b4) 0 0 0 false, .vunzip (h .b4) 0 0 0 false, .vpack (h .i32) 0 0 0 false,
      .vunpk (h .i8) 0 0 false], WellFormed i = false) ∧
    (∀ i ∈ [Instr.vslide (h .f32) 0 0 0 64, .vbcastElem (h .f32) 0 0 63, .vcvt (h .f32) 0 0 .bf16 1, .vadd (h .f32) 0 0 0],
      WellFormed i = true) := by
  decide +kernel

/-- Words of the scalar families, from R70 and the tables of R88 to R241. -/
theorem test_decode_scalar :
    decodeSlot (.sca 0x011461C000000000) = some (.add g0 5 6 7) ∧
    decodeSlot (.sca 0x5000000BFFFFFFEE) = some (.br ⟨2, true⟩ (BitVec.ofInt 33 (-18))) ∧
    decodeSlot (.sca 0x5500700000000103) = some (.loop g0 7 3 1) ∧
    decodeSlot (.sca 0x641440C000000010) = some (.ldw g0 5 4 3 0 16) ∧
    decodeSlot (.sca 0xC010000000000002) = some (.pull g0 4 2) ∧
    decodeSlot (.sca 0xC118400000000001) = some (.push g0 6 4 0 1 false) ∧
    decodeSlot (.sca 0xC500000000000066) = some (.clkdiv g0 6 6) := by decide +kernel

/-- Words of the vector families: R71, R117, R118, R119, R127. -/
theorem test_decode_vector :
    let h (g : BitVec 4) (t : ElemTy) : VH := ⟨.A, g, t, false, .rne⟩
    decodeSlot (.vec .A 0x0118440060000000) = some (.vadd (h 0 .f32) 3 1 2) ∧
    decodeSlot (.vec .A 0x07E6451960000000) = some (.vfnma (h 9 .f32) 28 25 2 17) ∧
    decodeSlot (.vec .A 0x2511000060000000) = some (.vxmov (h 0 .f32) 2 4) ∧
    decodeSlot (.vec .A 0x0118440064000000) = none := by decide +kernel

/-- Words of the matrix, copy and scale slots and of the array's routines: R72, R73, R74, R152. -/
theorem test_decode_engines :
    (decodeSlot (.mtx 0x041440400348)).isSome = true ∧ (decodeSlot (.cpy false 0x048C5040000D)).isSome = true ∧
    decodeSlot (.scl 0x1203) = some (.scset 2 3) ∧ decodeMicro 0x80000008 = some (.mac 8) ∧ decodeMicro 0 = some .fin := by
  decide +kernel

/-- Hypotheses of SpecWordsDecode and DecodeOfEncode. -/
theorem witness_encoding :
    (0x3200000000000000 : W64).extractLsb' 56 8 = 0x32 ∧ (0x5B00000000000000 : W64).extractLsb' 56 8 = 0x5B ∧
    (0xFF00000000000000 : W64).extractLsb' 56 8 = 0xFF ∧
    (∀ n ∈ [0x32, 0x3F, 0x5B, 0x5F, 0x8D, 0x9F, 0xA7, 0xBF, 0xCA, 0xCF, 0xD8, 0xFF, 0x27, 0x7F, 0x87],
      ((BitVec.ofNat 64 (n * 2 ^ 56) : W64).extractLsb' 56 8).toNat = n) ∧
    7 ≤ ((0x1C0000000000 : BitVec 48).extractLsb' 42 6).toNat ∧ 8 ≤ ((0x8000 : BitVec 16).extractLsb' 12 4).toNat ∧
    ((0xF0000000 : BitVec 32).extractLsb' 28 4).toNat = 15 ∧ WellFormed (.add g0 63 0 63) = true ∧
    encode (.add g0 63 0 63) ≠ .none := by decide +kernel

/-! The whole machine. -/

/-- Reset does not reach the values that withFetchWord sets; the placed instruction is the next one that runs. -/
theorem test_first_step_runs_placed_word :
    (match step (State.reset.withFetchWord 64 0x0A04000000000005) with
      | .next t => decide ((t.core.get 0).pend.map (·.eff) = [.s 1 5]) | _ => false) = true := by decide +kernel

theorem witness_StepKeepsMemoryCanonical :
    State.reset.MemOk ∧ ∃ t, step { State.reset with agenda := [⟨0, 0, .ev .nop Arg.zero⟩] } = .next t :=
  ⟨by unfold State.MemOk; decide +kernel, _, rfl⟩

/-- Device step and microword of StepRunsDecodedInstruction. -/
theorem witness_StepRuns_micro :
    (match (State.reset.withFetchWord 32 0x80000008).agenda, ((State.reset.withFetchWord 32 0x80000008).core.get 0).arun with
      | e :: _, .call q => decide (e.due = .micro 0 ∧ q.pc < 1024 ∧ q.ops < 2 ^ 24 ∧ q.ahead = false ∧
          ((State.reset.withFetchWord 32 0x80000008).core.get 0).ubad = [] ∧
          decodeMicro (tget 0 ((State.reset.withFetchWord 32 0x80000008).core.get 0).ustore q.pc) = some (.mac 8))
      | _, _ => false) = true := by decide +kernel

/-- An edge at which a core fetches. -/
theorem witness_StepRuns_edge :
    let s := State.reset.withFetchWord 64 0x0A04000000000005
    let s1 := landEdge 0 ({ s with agenda := s.agenda.tail } : State)
    let k := (followPhase 0 (postSample 0 s1)).core.get 0
    s.agenda.head?.map (·.due) = some (.edge 0) ∧ (s.core.get 0).run = .running ∧ (s.core.get 0).sfi = 0 ∧ (s.core.get 0).pend = [] ∧
    (s1.core.get 0).samples = [] ∧ (s1.core.get 0).launch = none ∧ effDiv s1 0 = (s1.core.get 0).div ∧ k.mxTrap = none ∧ k.xlTrap = none ∧
    k.gap = 0 ∧ k.dbgStop = false ∧ k.stepArm ≠ 2 ∧ k.wait = 0 ∧ k.invReq = false := by
  decide +kernel

/-- A bundle that issues: its fetch, its checks and its slots. -/
theorem witness_StepRuns_issue :
    let s := State.reset.withFetchWord 64 0x0A04000000000005
    (match fetchBundle 0 (s.core.get 0).r.pc.toNat s with
      | .ok (img, nxt, u) =>
        let k := s.core.get 0
        let h := decodeHeader (img.extractLsb' 0 32)
        let sl := imageSlots img
        let u1 := walkBody 0 (decodeSlot (sl.headD .none)) nxt u
        let u2 := fillCode 0 (u1.core.get 0).ifb (fetchAhead 0 nxt u1)
        match defect 0 u2 h sl with
        | .ok ops =>
          let pre := openBundle 0 ⟨k.r.pc, BitVec.ofNat 64 nxt, (nxt - k.r.pc.toNat) / 2, h, ops⟩ u2
          match issueSlots ops { pre with bun := { pre.bun with squash := engineSquash pre.me.r (sl.headD .none) } } with
          | .next t => decide (newLines 0 k.ifb u1 = [] ∧ h.ckpt = true ∧
              waitHold h pre.me = none ∧ scalarHold (ops.headD .nop) pre = none ∧ walkMiss (ops.headD .nop) pre = none ∧
              t.bun.trap = false ∧ ninth pre.me t.me = false ∧ raises true pre.me t.me = none ∧
              forcedBy true ops pre.me t.me pre = none)
          | _ => false
        | .error _ => false
      | .error _ => false) = true := by decide +kernel

theorem witness_StepRuns_finish :
    let s := State.reset
    s.bun.trap = false ∧ s.bun.squash = false ∧ s.bun.stop = none ∧ s.bun.body = false ∧ traceOn s 0 8 = false ∧
    traceOn s 0 9 = false := by decide +kernel

theorem witness_ExecNeverStops :
    ((({ State.reset with agenda := [] } : State).modD fun d => { d with hold := .done }).agenda = [] ∧
      (({ State.reset with agenda := [] } : State).modD fun d => { d with hold := .done }).dev.hold = .done) ∧
    ¬ (State.reset.agenda = [] ∧ State.reset.dev.hold = .done) := by decide +kernel

/-- A plain operation, a transfer outside a loop body and a privileged operation of a management core, guards false. -/
theorem witness_FalseGuardDoesNothing :
    scalarGuard (.add gF 1 2 3) = some gF ∧ guardOk gF State.reset = false ∧ isTransfer (.add gF 1 2 3) = false ∧
    isPrivileged (.add gF 1 2 3) = false ∧ encBad State.reset (.add gF 1 2 3) = false ∧ encBad State.reset (.wfe gF 1) = false ∧ scalarGuard (.br gF 0) = some gF ∧ isTransfer (.br gF 0) = true ∧
    State.reset.me.r.mode = .idle ∧ isPrivileged (.wfe gF 1) = true ∧ isMgmt (mg State.reset).cur = true ∧
    guardOk gF (mg State.reset) = false := by decide +kernel

theorem witness_TakingATrap : ((ln id).myStage 0).isSome = true ∧ (1 : CoreId) ≠ (ln id).cur := by decide +kernel

/-- One and two deliveries that are ready, and one that is not. -/
theorem witness_LandingOfDeliveries :
    let x : Delivery := ⟨.ctl, 1, 4, 8, .s 1 5⟩
    let y : Delivery := ⟨.ctl, 1, 4, 16, .flags 1⟩
    let k := CoreSt.init
    ({ k with pend := [x] } : CoreSt).pend = [x] ∧ x.ready ≤ 4 ∧ ({ k with pend := [x, y] } : CoreSt).pend = [x, y] ∧ y.ready ≤ 4 ∧
    (∀ z ∈ ({ k with pend := [x] } : CoreSt).pend, 3 < z.ready) := by decide +kernel

/-- A list of any length: the last result for s1, the last new ring 1, and an advance behind them. -/
theorem witness_LandingOfDeliveries_list :
    let d (i : Nat) (e : Eff) : Delivery := ⟨.ctl, 1, 4, 8 * i, e⟩
    let k := { CoreSt.init with pend := [d 1 (.s 1 5), d 2 (.ring 1 2 64), d 3 (.s 1 6), d 4 (.radv 3)] }
    k.pend = [d 1 (.s 1 5)] ++ d 2 (.ring 1 2 64) :: [d 3 (.s 1 6), d 4 (.radv 3)] ∧
    k.pend = [d 1 (.s 1 5), d 2 (.ring 1 2 64)] ++ d 3 (.s 1 6) :: [d 4 (.radv 3)] ∧ (∀ y ∈ k.pend, y.ready ≤ 4) ∧ (1 : BitVec 6) ≠ 0 ∧
    ((k.landAll 4).r.getS 1, ((k.landAll 4).getRing 1).slots, tget 0 (k.landAll 4).r.rr 3) = (6, 2, 1) := by decide +kernel

theorem witness_LandingOfDeliveries_others :
    (∀ a b, Eff.radv 3 ≠ .ring 1 a b ∧ Eff.s 1 6 ≠ .ring 1 a b) ∧ ∀ u, Eff.radv 3 ≠ .s 1 u :=
  ⟨fun _ _ => ⟨nofun, nofun⟩, fun _ => nofun⟩

theorem witness_LandingOfDeliveries_flags : ∀ b, Eff.s 1 5 ≠ .flags b := by intro b h; cases h

theorem witness_Frames :
    (computesOnly (.add g0 1 2 3) = true ∧ ∃ t, exec (.add g0 1 2 3) State.reset = .next t) ∧
    (isVector (.vmov ⟨.A, 0, .f32, false, .rne⟩ 1 2) = true ∧
      ∃ t, exec (.vmov ⟨.A, 0, .f32, false, .rne⟩ 1 2) State.reset = .next t ∧ t.bun.trap = false) ∧
    keepsStorage (.stw g0 1 2 1 0) = true ∧ (∃ t, exec (.stw g0 1 2 1 0) State.reset = .next t) ∧ isMgmt State.reset.cur = false :=
  ⟨⟨rfl, _, rfl⟩, ⟨rfl, _, rfl, by decide +kernel⟩, rfl, ⟨_, rfl⟩, by decide +kernel⟩

/-! The scalar slot. -/

/-- R88, R90: the high product of -1 and 2 signed is -1, unsigned 1; addi wraps. -/
theorem test_mulh_signs :
    let s := sr [(1, 0xFFFFFFFFFFFFFFFF), (2, 2)]
    effs (exec (.mulh g0 3 1 2) s) = [.s 3 0xFFFFFFFFFFFFFFFF] ∧ effs (exec (.mulhn g0 3 1 2) s) = [.s 3 1] ∧
    effs (exec (.addi g0 3 1 2) s) = [.s 3 1] := by decide +kernel

/-- R91: the sum clamps and sets SAT. R96: the field is cut at bit 63. -/
theorem test_adds_bins :
    let s := sr [(1, 0x7FFFFFFFFFFFFFFF), (2, 1), (12, 0xFFFFFFFFFFFFFFFF)]
    effs (exec (.adds g0 3 1 2) s) = [.s 3 0x7FFFFFFFFFFFFFFF, .flags 0x20] ∧
    effs (exec (.bins g0 12 2 60 7) s) = [.s 12 0x1FFFFFFFFFFFFFFF] := by decide +kernel

/-- The guard acts; the divisor is 0 and is not; -2^63 / -1 (R89). -/
theorem witness_IntegerArithmetic :
    let s := sr [(1, 0x8000000000000000), (2, 0xFFFFFFFFFFFFFFFF)]
    guardOk g0 s = true ∧ s.me.r.getS 3 = 0 ∧ s.me.r.getS 1 = 0x8000000000000000 ∧ s.me.r.getS 2 = 0xFFFFFFFFFFFFFFFF := by
  decide +kernel

theorem witness_LogicShiftAndFields :
    guardOk g0 (sr [(1, 0x8000000000000000)]) = true ∧ (sr [(1, 0x8000000000000000)]).me.r.getS 1 = 0x8000000000000000 := by
  decide +kernel

theorem witness_ComparesAndPredicates : guardOk g0 State.reset = true := by decide +kernel

/-- Targets: even and below 2^54, odd, and the first one beyond; in a loop body. -/
theorem witness_ControlTransfers :
    let at_ (a t : W64) : State := { sr [(1, t)] with bun := { Bundle.init with adr := a } }
    let rel (s : State) (imm : BitVec 33) : W64 := s.bun.adr + 2 * imm.signExtend 64
    let s := at_ 2 0x3FFFFFFFFFFFFE
    let o := at_ 3 1
    let f := at_ 0x40000000000000 0x40000000000000
    inBody s.me.r = false ∧ guardOk g0 s = true ∧ (rel s 0).getLsbD 0 = false ∧ (rel s 0).toNat < 2 ^ 54 ∧
    (s.me.r.getS 1).getLsbD 0 = false ∧ (s.me.r.getS 1).toNat < 2 ^ 54 ∧
    inBody o.me.r = false ∧ guardOk g0 o = true ∧ (rel o 0).getLsbD 0 = true ∧ (o.me.r.getS 1).getLsbD 0 = true ∧
    inBody f.me.r = false ∧ guardOk g0 f = true ∧ (rel f 0).getLsbD 0 = false ∧ 2 ^ 54 ≤ (rel f 0).toNat ∧
    (f.me.r.getS 1).getLsbD 0 = false ∧ 2 ^ 54 ≤ (f.me.r.getS 1).toNat ∧
    inBody (c0 fun k => { k with r := { k.r with mode := .modulo } }).me.r = true := by decide +kernel

/-- A body of one bundle that can be decoded, a trip count of 5 and of 0, and a loop under way. -/
theorem witness_LoopStart :
    let base := State.reset.withFetchWord 64 0
    let s (n : W64) : State := { base.modC 0 fun k => { k with r := k.r.setS 1 n } with bun := { Bundle.init with nxt := 2 } }
    let ok (n : W64) : Bool := match skipBundles 0 1 2 (s n) with | .ok (_, u) => u.me.pend.isEmpty | .error _ => false
    (s 5).me.r.mode = .idle ∧ guardOk g0 (s 5) = true ∧ (1 : BitVec 8) ≠ 0 ∧ (s 5).me.r.getS 1 ≠ 0 ∧ ok 5 = true ∧
    (s 0).me.r.mode = .idle ∧ guardOk g0 (s 0) = true ∧ (s 0).me.r.getS 1 = 0 ∧ ok 0 = true ∧
    (c0 fun k => { k with r := { k.r with mode := .stepWait } }).me.r.mode ≠ .idle := by decide +kernel

/-- snext in each loop mode, going on and ending; Advance in its three cases. -/
theorem witness_LoopAdvance :
    let s (m : LoopMode) (t c : W64) : State := c0 fun k => { k with r := { k.r with mode := m, lct := t, lsc := c } }
    guardOk g0 (s .stepWait 1 1) = true ∧ (s .stepWait 1 1).me.r.mode = .stepWait ∧ (s .stepWait 1 1).me.r.goesOn = true ∧
    (s .stepWait 0 1).me.r.goesOn = false ∧ (s .idle 0 0).me.r.mode = .idle ∧ (s .modulo 1 1).me.r.mode = .modulo ∧
    (s .stepRun 1 1).me.r.mode = .stepRun ∧ (s .modulo 1 1).me.r.lct ≠ 0 ∧ (s .modulo 0 2).me.r.lct = 0 ∧
    1 < (s .modulo 0 2).me.r.lsc.toNat ∧ (s .modulo 0 1).me.r.lsc.toNat ≤ 1 := by decide +kernel

/-- R102, R103: the first pass has lct = T - 1; the last Advance ends the loop. -/
theorem test_advance_ends :
    let r := { Regs.init with mode := .modulo, lct := 0, lsc := 1 }
    r.advance.mode = .idle ∧ ({ r with lsc := 2 } : Regs).advance.lsc = 1 ∧ ({ r with lsc := 2 } : Regs).advance.getP 8 = 0 := by
  decide +kernel

/-- Values of lsc at the ends of its range and beyond; an index beyond the list. -/
theorem witness_SpecialRegisters :
    let s (v : W64) : State := sr [(1, v)]
    guardOk g0 (s 1) = true ∧ isMgmt (s 1).cur = false ∧ isMgmt (mg (s 1)).cur = true ∧ guardOk g0 (mg (s 1)) = true ∧ 1 ≤ ((s 1).me.r.getS 1).toNat ∧ ((s 8).me.r.getS 1).toNat ≤ 8 ∧
    ((s 0).me.r.getS 1).toNat = 0 ∧ 8 < ((s 9).me.r.getS 1).toNat ∧ 0x0E < (0x0F : BitVec 8).toNat ∧
    (0x0D : BitVec 8) ≠ 0x07 ∧ (0x0D : BitVec 8) ≠ 0x08 ∧ (0x0D : BitVec 8) ≠ 0x0B ∧ (0x0D : BitVec 8) ≠ 0x0C := by decide +kernel

/-! Memory and synchronisation. -/

/-- Where the clauses of the address checks meet: the last byte of the pad, of two staging ways and of each space. -/
theorem witness_AddressChecks :
    (8 ∈ [1, 2, 4, 8]) ∧ ¬ (2 ∣ (1 : W64).toNat) ∧ (1 : BitVec 2) ≠ 3 ∧ (1 ∣ (0x1FFFFF : W64).toNat) ∧
    (0x1FFFFF : W64).toNat + 1 - 1 < 0x00200000 ∧ 0x00200000 ≤ (0x200000 : W64).toNat + 1 - 1 ∧
    stagingSize (ln id) 0 0 ≤ (0x80000 : W64).toNat % 2 ^ 22 + 1 - 1 ∧ 2 ^ 27 ≤ (0x8000000 : W64).toNat ∧
    2 ^ 54 ≤ (0x40000000000000 : W64).toNat ∧
    isAt (checkAddr 0 2 0x7FFFF 1 .rd (ln id)) = true := by decide +kernel

/-- R178, R180: a byte at the end of the pad is read and sign-extended; a halfword there traps. -/
theorem test_pad_load :
    let s : State := { sr [(1, 0x1FFFFF)] with mem := memWrs [] (cellsOf (padKey 0 0x1FFFFF) 0x80 1) }
    effs (exec (.ldb g0 2 1 0 1 0) s) = [.s 2 0xFFFFFFFFFFFFFF80] ∧
    runOf (exec (.ldh g0 2 1 0 1 0) s) = some (.trapped 0x06) := by decide +kernel

/-- A readable pad address at both ends; a staging and a global address, a page that is absent, a trap; a space that ldk refuses. -/
theorem witness_Loads :
    let s := sr [(1, 0x1FFFF8)]
    guardOk g0 s = true ∧ 8 ∣ (s.me.r.getS 1 + (0 : BitVec 22).signExtend 64).toNat ∧
    (s.me.r.getS 1 + (0 : BitVec 22).signExtend 64).toNat + 8 ≤ 0x200000 ∧ padPoison s (padKey s.cur 0x1FFFF8) 8 = none ∧
    isAt (checkAddr 0x64 2 0 4 .rd (ln id)) = true ∧ isGlob (checkAddr 0x64 0 0 4 .rd (pg eRes State.reset)) = true ∧
    isAbs (checkAddr 0x64 0 0 4 .rd (pg eAbs State.reset)) = true ∧ isTrap (checkAddr 0x64 0 2 4 .rd (pg eRes State.reset)) = true ∧
    (1 : BitVec 2) ≠ 0 := by decide +kernel

/-- Loads that are to take their values: of staging, of a line at home, of one that the island does not hold, and a bounded one. -/
theorem witness_Loads_values :
    let o (k : CopKind) (sp : Sp) (a : Nat) : Cop := newCop k 1 2 sp 0 a 4 false false 0 none 1 8
    let s (o : Cop) : State := c0 fun k => { k with loads := [o] }
    let stg := o (.load true) .stg (stgKey 0 0 0)
    let home := o (.load true) .glob 0
    let bnd := o (.bounded false 1 5 (some 1)) .glob 0
    let far (n : Nat) : Cop := o (.load true) .glob n
    ((s stg).core.get 0).loads.find? (·.id == stg.id) = some stg ∧ stg.val = none ∧ stg.acq = false ∧ (0 < stg.z ∧ stg.z ≤ 8) ∧
    ((s stg).ready 0 stg.path false).1 = true ∧ ((s home).ready 0 home.path false).1 = true ∧ home.addr < 2 ^ 52 ∧
    (linesOf home.addr home.z).all (fun l => (islandLine (s home) 0 l).isSome == (lineHome l == 0)) = true ∧
    ([0, 0x1800000000].any fun n => ((s (far n)).ready 0 (far n).path false).1 &&
      (linesOf n 4).any fun l => (islandLine (s (far n)) 0 l).isNone) = true ∧
    ((s bnd).ready 0 bnd.path false).1 = true ∧ bnd.kind = .bounded false 1 5 (some 1) := by decide +kernel

theorem witness_StoresAreWithheld :
    guardOk g0 State.reset = true ∧ isAt (checkAddr 0x69 1 0x1FFFFC 4 .wr State.reset) = true ∧
    isGlob (checkAddr 0x69 0 0 4 .wr (pg eRes State.reset)) = true ∧ isAbs (checkAddr 0x69 0 0 4 .wr (pg eAbs State.reset)) = true ∧
    isTrap (checkAddr 0x69 1 0x200000 4 .wr State.reset) = true := by decide +kernel

/-- A released staging store whose turn has come, and one that an older load of its bytes holds. -/
theorem witness_StagingStorePerforms :
    let w : Sto := ⟨3, 8, .stg, 0, cellsOf (stgKey 0 0 0) 0xAB 1, 1, false, 0, none, { Trip.init with arr := some 0 }⟩
    let v : Sto := { w with rel := true, scp := 3, trip := Trip.init }
    let o : Cop := newCop (.load false) 1 0 .stg 0 (stgKey 0 0 0) 1 false false 0 none 1 0
    let s := ar (fun a => { a with id := 3 }) (c0 fun k => { k with sto := [w] })
    let b := ar (fun a => { a with id := 3 }) (c0 fun k => { k with sto := [v], loads := [o] })
    (s.core.get s.arg.c).sto.find? (·.id == s.arg.id) = some w ∧ w.sp = .stg ∧ w.cells = cellsOf (stgKey 0 0 0) 0xAB 1 ∧
    (s.ready s.arg.c w.path false).1 = true ∧ (b.core.get b.arg.c).sto.find? (·.id == b.arg.id) = some v ∧ v.trip.arr = none ∧
    b.blocked b.arg.c v.path = true ∧ Memory.wf ([] : List Host.Cell) = true := by decide +kernel

/-- Resident, absent with and without a backing, queued already and a full queue. -/
theorem witness_ResidencyInstructions :
    let full (s : State) (n : Nat) (p : Nat) : State := s.modI 0 fun i => { i with pgq := List.replicate n ⟨0, p, 0⟩ }
    let leafOf (s : State) : Nat := match walkVa s 0 0 0 with | .leaf e _ _ _ => pteAdr e | _ => 1
    guardOk g0 (pg eRes State.reset) = true ∧ isGlob (checkAddr 0x6B 0 0 1 .rd (pg eRes State.reset)) = true ∧
    isAbs (checkAddr 0x6B 0 0 1 .rd (pg eAbs State.reset)) = true ∧ isGlob (checkAddr 0x6F 0 0 1 .rd (pg eRes State.reset)) = true ∧
    isAbs (checkAddr 0x6F 0 0 1 .rd (pg eAbs State.reset)) = true ∧ isAbs (checkAddr 0x6F 0 0 1 .rd (pg eBare State.reset)) = true ∧
    leafOf (pg eBare State.reset) = 0 ∧ leafOf (pg eAbs State.reset) ≠ 0 ∧
    ((full State.reset 1 0).isl.get 0).pgq.any (fun r => r.cx == 0 && r.page == 0) = true ∧
    ((full State.reset 64 8).isl.get 0).pgq.any (fun r => r.cx == 0 && r.page == 0) = false ∧
    State.reset.dev.migr.contains 0x2000 = false ∧
    (State.reset.modD fun d => { d with migr := [0x2000] }).dev.migr.contains 0x2000 = true ∧
    64 ≤ ((full State.reset 64 8).isl.get 0).pgq.length ∧ ((full State.reset 63 8).isl.get 0).pgq.length < 64 ∧
    (2 : BitVec 2) ≠ 0 := by decide +kernel

/-- A fence of all four kinds between an older open load and a younger one; masks that are empty. -/
theorem witness_Fences :
    let f : Fence := ⟨16, 1, 3, 4⟩
    let o : Cop := newCop (.load false) 1 0 .stg 0 (stgKey 0 0 0) 4 false false 0 none 1 8
    let s := c0 fun k => { k with fences := [f], loads := [o] }
    let b : PathOp := { o.path with seq := 24, lo := stgKey 0 0 64 }
    guardOk g0 s = true ∧ (1 : BitVec 4) ≠ 0 ∧ (1 : BitVec 3) ≠ 0 ∧ f ∈ (s.core.get 0).fences ∧ o.path ∈ (s.core.get 0).open_ ∧
    o.path.seq < f.seq ∧ f.seq < b.seq ∧ f.spc.getLsbD (spcBit o.path.sp) = true ∧ f.spc.getLsbD (spcBit b.sp) = true ∧
    o.path.ld = true ∧ b.ld = true ∧ f.ordr.getLsbD 0 = true ∧ f.scp = 3 ∧
    (let n := c0 fun k => { k with fences := [{ f with scp := 1 }], loads := [{ o with trip := { Trip.init with arr := some 0 } }] }
     n.blocked 0 { b with trip := Trip.init } = false) := by decide +kernel

/-- Sizes on both sides of the bound; each outcome of the checks; an atomic at staging whose turn has come; a pad store alone. -/
theorem witness_Atomics :
    let o : Cop := { newCop (.amo .add 5 0) 1 0 .stg 0 (stgKey 0 0 0) 4 false false 0 none 1 8 with trip := { Trip.init with arr := some 0 } }
    let w : Sto := ⟨3, 8, .pad, 0, cellsOf (padKey 0 0) 0xAB 4, 1, false, 0, none, Trip.init⟩
    guardOk g0 State.reset = true ∧ (1 : BitVec 2).toNat < 2 ∧ 2 ≤ (2 : BitVec 2).toNat ∧
    isAt (checkAddr 0x70 1 0 4 .wr State.reset) = true ∧ isAbs (checkAddr 0x70 0 0 4 .wr (pg eAbs State.reset)) = true ∧
    isTrap (checkAddr 0x70 3 0 4 .wr State.reset) = true ∧ o.sp = .stg ∧ o.kind = .amo .add 5 0 ∧ o.val = none ∧
    ((c0 fun k => { k with loads := [o] }).core.get 0).loads.find? (·.id == o.id) = some o ∧
    ((c0 fun k => { k with loads := [o] }).ready 0 o.path false).1 = true ∧ ((c0 fun k => { k with wst := [w] }).core.get 0).wst = [w] ∧ 0 < o.z ∧ o.z ≤ 8 ∧
    (5 : W64).toNat < 2 ^ (8 * o.z) := by decide +kernel

/-- R192: amomin compares signed values, and memory keeps the smaller one. -/
theorem test_amomin_signed :
    let s : State := { sr [(2, 5)] with mem := memWrs [] (cellsOf (padKey 0 0) 0xFFFFFFFF 4) }
    (match exec (.amomin g0 1 3 2 1 0 0 2 0) s with
      | .next t => memRdN (releaseStores 0 t).mem (padKey 0 0) 4 == 0xFFFFFFFF | _ => false) = true := by decide +kernel

/-- A region that the launch declares, one that it does not, and a reader round at the lag limit. -/
theorem witness_Regions :
    let s := ln id
    let late := ln fun k => { k with r := { k.r with rr := [(5, 2 ^ 46)] } }
    guardOk g0 s = true ∧ declared s 4 = none ∧ (declared s 5).isSome = true ∧
    (tget 0 s.me.r.rr 5 + 1 - tableOf s s.cur 5).toNat < 2 ^ 46 ∧ 2 ^ 46 ≤ (tget 0 late.me.r.rr 5 + 1 - tableOf late late.cur 5).toNat ∧
    (tget 0 late.me.r.rr 5 + 1 - tableOf late late.cur 5).toNat < 2 ^ 47 := by decide +kernel

/-- A halyard of the core's context, one of none, a handle with its reserved bits set, and tiles that fit and do not. -/
theorem witness_HalyardInstructions :
    let x : Halyard := ⟨3, 0, 64, [⟨0, 0, none, false⟩], 4, 0, 0, none, [(0x7C30000, 0x100)], true⟩
    let s := (sr [(1, 3), (2, 0x100), (3, 4)]).modD fun d => { d with hal := [(3, x)] }
    guardOk g0 s = true ∧ ((s.me.r.getS 2).setWidth 16 : BitVec 16).extractLsb' 8 6 ≠ 0 ∧
    ((s.me.r.getS 1).setWidth 16 : BitVec 16).extractLsb' 8 6 = 0 ∧ findHal s 4 = none ∧ findHal s 3 = some x ∧
    isTrap (checkTile 0x7F 1 0x1FFFC4 64 false s) = true ∧ isAt (checkTile 0x7F 1 0x1FFFC0 64 false s) = true ∧ s.me.tokPending 5 = false := by
  decide +kernel

theorem witness_Barriers :
    guardOk g0 State.reset = true ∧ State.reset.me.tokPending 5 = false ∧
    (c0 fun k => (k.produce 5 0).2).me.tokPending 5 = true := by decide +kernel

/-- R214: the second of two arrivals ends the phase. -/
theorem test_barrier_phase :
    let b : Barrier := ⟨7, 1, 2, 0⟩
    b.arrive 2 = (7, ⟨8, 0, 2, 0⟩) ∧ (b.arrive 3).2.mismatch = 1 := by decide +kernel

/-- A bundle that tkwait holds. -/
theorem witness_Tokens :
    let s := c0 fun k => (k.produce 5 0).2
    let f : Fetched := ⟨0, 2, 1, ⟨7, 7, 7, 7, false, false, false, false, 0⟩, [.tkwait g0 5 0 0]⟩
    let pre := openBundle 0 f s
    guardOk g0 s = true ∧ (5 : BitVec 6) ≠ 0 ∧ waitHold f.hdr pre.me = none ∧
    scalarHold (f.ops.headD .nop) pre = some (4, false) := by decide +kernel

/-- A ring with operands in and out of range, in use and free, created and not, with its slot filled and not. -/
theorem witness_Rings :
    let s (x : Ring) (a b : W64) : State :=
      c0 fun k => { k with ring := k.ring.set 1 x, r := (k.r.setS 1 a).setS 2 b }
    let x : Ring := ⟨true, 2, 64, 64, 0, [(0, 64)], [], 0, 0⟩
    guardOk g0 (s x 256 1) = true ∧ (1 : BitVec 4) ≠ 0 ∧ 1 ≤ ((s x 256 1).me.r.getS 1).toNat ∧ ((s x 256 1).me.r.getS 1).toNat ≤ 256 ∧
    1 ≤ ((s x 256 1).me.r.getS 2).toNat ∧ ((s x 256 1).me.r.getS 2).toNat < 2 ^ 32 ∧ ¬ ((s x 257 1).me.r.getS 1).toNat ≤ 256 ∧
    ((s { x with users := 1 } 256 1).me.getRing 1).users ≠ 0 ∧ ((s x 256 1).me.getRing 1).users = 0 ∧
    ((s Ring.init 256 1).me.getRing 1).created = false ∧ ((s x 256 1).me.getRing 1).created = true ∧
    (x.w < (1 + 1) * x.target) ∧ ((0 + 1) * x.target ≤ x.w) ∧ slotFilled x 0 = true ∧ slotFilled { x with arrived := [] } 0 = false ∧
    1 ≤ x.slots ∧ x.slots ≤ 256 ∧ 1 ≤ x.target := by decide +kernel

/-- Counts and addresses of mpld at the ends of their ranges and beyond. -/
theorem witness_NestAndMatrixRegisters :
    let s (p n : W64) : State := sr [(1, p), (2, n)]
    guardOk g0 (s 0 1) = true ∧ (1 ≤ ((s 0 1024).me.r.getS 2).toNat ∧ (0 : BitVec 10).toNat + ((s 0 1024).me.r.getS 2).toNat ≤ 1024) ∧
    ¬ (1 ≤ ((s 0 0).me.r.getS 2).toNat) ∧ ¬ ((1 : BitVec 10).toNat + ((s 0 1024).me.r.getS 2).toNat ≤ 1024) ∧
    ¬ (4 ∣ ((s 2 1).me.r.getS 1).toNat) ∧ 4 ∣ ((s 0x1FFFFC 1).me.r.getS 1).toNat ∧
    ((s 0x1FFFFC 1).me.r.getS 1).toNat + 4 * 1 ≤ 0x200000 ∧ 0x200000 < ((s 0x1FFFFC 2).me.r.getS 1).toNat + 4 * 2 := by decide +kernel

/-! Stages, launches and management. -/

/-- A stage whose queue has an item and one without; an item held and none; room and none; the stage order; the work identifier's width. -/
theorem witness_StageQueues :
    let i : Item := ⟨7, 3, []⟩
    let s := ln fun k => { k with wfw := 64 }
    let h := ln fun k => { k with wfw := 8, r := { (k.r.setS 1 255).setS 2 256 with held := some i } }
    let e := ln fun k => { k with stg := 1 }
    guardOk g0 s = true ∧ s.me.r.held = none ∧ (s.myStage s.me.stg.toNat).bind (fun x => x.q.head?) = some i ∧
    h.me.r.held = some i ∧ e.me.r.held = none ∧ (e.myStage e.me.stg.toNat).bind (fun x => x.q.head?) = none ∧
    s.myStage 2 = none ∧ (h.myStage 1).isSome = true ∧ h.me.stg.toNat < 1 ∧ ¬ h.me.stg.toNat < 0 ∧
    (h.me.r.getS 1).toNat < 2 ^ wfwBits h.me.wfw ∧ 2 ^ wfwBits h.me.wfw ≤ (h.me.r.getS 2).toNat ∧
    purgeBlock h h.me.ctx h.me.r.pen = false ∧ (h.myStage 1).any (fun x => decide (x.occ < x.cap ∧ x.occ ≤ x.cap ∧ x.cap ≤ 1024)) = true ∧
    ((h.modMyStage 1 fun x => { x with q := [i, i] }).myStage 1).any (fun x => decide (x.cap ≤ x.occ)) = true := by decide +kernel

/-- A push that lands on a stage of the core's launch, alone among the pushes; a purge block on its pennant and none. -/
theorem witness_StageQueues_push :
    let x : Delivery := ⟨.ctl, 6, 24, 8, .push 1 4 9 3⟩
    let s := ln fun k => { k with pend := [x] }
    let b := s.modD fun d => { d with purges := [⟨0, 3, [], none, 0⟩] }
    x.eff = .push 1 4 9 3 ∧ (s.core.get 0).launch = some 0 ∧ tfind s.dev.pool 0 = some (la .running) ∧
    ((la .running).stage? 1).isSome = true ∧ purgeBlock s (s.core.get 0).ctx 3 = false ∧ purgeBlock b (b.core.get 0).ctx 3 = true ∧
    ((s.core.get 0).pend.filter fun y => y.eff.isPush && true) = [x] := by decide +kernel

theorem witness_LaunchInstructions :
    let s (v : W64) (e : Nat) : State := pg e (sr [(1, v)])
    guardOk g0 (s 64 eRes) = true ∧ ¬ (128 ∣ ((s 64 eRes).me.r.getS 1).toNat) ∧ 128 ∣ ((s 128 eRes).me.r.getS 1).toNat ∧
    isGlob (checkAddr 0xC3 0 128 128 .rd (s 128 eRes)) = true ∧ isGlob (checkAddr 0xC3 0 (128 + 128) 128 .rd (s 128 eRes)) = true ∧
    isAbs (checkAddr 0xC3 0 128 128 .rd (s 128 eAbs)) = true ∧ isTrap (checkAddr 0xC3 0 0x40000000000000 128 .rd (s 128 eAbs)) = true := by
  decide +kernel

/-- Divisors at the ends of their range and beyond, in both forms; the debug enable set and clear. -/
theorem witness_ClocksTrapsAndEnergy :
    let s (v : W64) : State := sr [(1, v)]
    let n (v : W64) : Nat := (((s v).me.r.getS 1).extractLsb' 0 5).toNat
    guardOk g0 (s 3) = true ∧ 3 ≤ (3 : BitVec 5).toNat ∧ (16 : BitVec 5).toNat ≤ 16 ∧ (2 : BitVec 5).toNat < 3 ∧
    16 < (17 : BitVec 5).toNat ∧ 3 ≤ n 3 ∧ n 16 ≤ 16 ∧ n 2 < 3 ∧ 16 < n 17 ∧ (c0 fun k => { k with dbgEn := true }).me.dbgEn = true ∧
    State.reset.me.dbgEn = false ∧ (1 : BitVec 2) ≠ 0 := by decide +kernel

/-- A bundle that leaves a stop; its record, which waits for nothing. -/
theorem witness_ClocksTrapsAndEnergy_stop :
    let s : State := { ln id with bun := { Bundle.init with stop := some (0x20, 5) } }
    let r : Rec := ⟨0, 0, 0, 0, 1, 0x20, 0, 0, 5, 0, 0, 0, 0⟩
    let w := ln fun k => { k with run := .stopped 0x20, rec_ := some r }
    s.bun.stop = some (0x20, 5) ∧ (0x20 : Byte) ≠ 0x21 ∧ (w.core.get 0).rec_ = some r ∧ r.kind = 1 ∧ (w.core.get 0).pend = [] ∧
    (w.core.get 0).loads = [] ∧ w.dev.hops = [] := by decide +kernel

/-- A compute and a management core; a listed and an unlisted register, writable and not. -/
theorem witness_Privilege :
    let s := mg State.reset
    isMgmt State.reset.cur = false ∧ isMgmt s.cur = true ∧ guardOk g0 s = true ∧ (prRead s 0 0x0E00).isSome = true ∧
    prRead s 0 0x0D00 = none ∧ (prWrite 0 0x0E00 0).isSome = true ∧ prWrite 0 0x0E02 0 = none := by decide +kernel

/-- hsw and eret: each variant, a core that is bound, stopped, trapped for each cause that eret mode 0 tells apart, and neither. -/
theorem witness_CoreManagement :
    let s (v : W64) (r : Run) : State := mg ((State.reset.modC 128 fun k => { k with r := (k.r.setS 1 0).setS 2 v }).modC 0 fun k => { k with run := r })
    isMgmt (s 0 .running).cur = true ∧ guardOk g0 (s 0 .running) = true ∧
    (((s 3 .running).me.r.getS 2).setWidth 2 : BitVec 2) = 3 ∧ (((s 2 .running).me.r.getS 2).setWidth 2 : BitVec 2) ≠ 3 ∧
    ((s 2 .running).core.get (coreNo 0)).run ≠ .unbound ∧ ((s 2 .running).core.get (coreNo 0)).run ≠ .dark ∧
    ((s 2 .unbound).core.get (coreNo 0)).run = .unbound ∧ ((s 0 (.trapped 0x15)).core.get (coreNo 0)).run = .trapped 0x15 ∧
    ((s 0 (.stopped 0x20)).core.get (coreNo 0)).run = .stopped 0x20 ∧ (0x20 : Byte) ≠ 0x15 ∧ (0x20 : Byte) ≠ 0x34 ∧
    ((s 0 (.stopped 0x20)).core.get (coreNo 0)).tok.toList.any (fun t => t.pending && t.purged) = false := by decide +kernel

theorem witness_CoreManagement_running :
    ∀ x : Byte, Run.running ≠ .trapped x ∧ Run.running ≠ .stopped x := by intro x; constructor <;> intro h <;> cases h

theorem witness_ManagementOperations :
    let s (v : W64) : State := mg (State.reset.modC 128 fun k => { k with r := k.r.setS 1 v })
    isMgmt (s 0).cur = true ∧ guardOk g0 (s 0) = true ∧ 2 ^ 54 ≤ ((s 0x40000000000000).me.r.getS 1).toNat ∧
    ((s 0x3FFFFFFFFFFFFF).me.r.getS 1).toNat < 2 ^ 54 ∧ unitListed 0 0xFFFF = false ∧ unitListed 0 0x011F = true ∧
    ((s 0).core.get 0).ctx = 0 := by decide +kernel


/-! The vector slots. -/

def va (t : ElemTy) : VH := ⟨.A, 0, t, false, .rne⟩
def vs (v1 v2 : VWord) (s : State) : State := s.modC 0 fun k => { k with r := { k.r with va := (k.r.va.set 1 v1).set 2 v2 } }

theorem witness_VectorArithmetic :
    let s := State.reset
    let u := s.modD fun d => { d with upsets := [(0, 0)] }
    s.me.r.poison = [] ∧ s.dev.upsets = [] ∧ tyI .n32 = true ∧ tyI .f32 = false ∧ (u.cur, u.order) ∈ u.dev.upsets ∧
    actives (va .f32) 32 u ≠ [] := by decide +kernel

/-- R118, R39: the largest i32 plus 1 wraps and, with S, stays and sets SAT; R386: a result that fails its check marks the register. -/
theorem test_vadd :
    let s := vs 0x7FFFFFFF 1 (sr [])
    let u := s.modD fun d => { d with upsets := [(0, 0)] }
    let h (sat : Bool) : VH := ⟨.A, 0, .i32, sat, .rne⟩
    ((effs (exec (.vadd (h false) 3 1 2) s)).head?.map fun e => match e with | .v _ d v _ => (d, elem v 0 32) | _ => (0, 0)) =
      some (3, 0x80000000) ∧
    (effs (exec (.vadd (h true) 3 1 2) s)).getLast? = some (.flags 0x20) ∧
    (effs (exec (.vadd (h true) 3 1 2) u)).any (· == .mark .A 3 0 0x200) = true := by decide +kernel

/-- R119, R55: 1 / 4, and a pivot of 0 that fails. -/
theorem test_vdiv_vrsqp :
    let s := vs 0x3F800000 0x40800000 (sr [])
    ((effs (exec (.vdiv (va .f32) 3 1 2) s)).head?.map fun e => match e with | .v _ _ v _ => elem v 0 32 | _ => 0) = some 0x3E800000 ∧
    ((effs (exec (.vrsqp (va .f32) 3 0 4) s)).head?.map fun e => match e with | .p _ b _ => b | _ => 0) =
      some 0xFFFFFFFFFFFFFFFF := by decide +kernel

theorem witness_VectorDivideRootDot :
    State.reset.me.r.poison = [] ∧ State.reset.dev.upsets = [] ∧ (va .i8).ty = .i8 ∧ (va .n8).ty = .n8 ∧ (va .f32).ty = .f32 := by
  decide +kernel

theorem witness_VectorCompareSelectReduce : State.reset.me.r.poison = [] := by decide +kernel

/-- R124: -1 is less than 1 as i32 and not as n32, in lane 0; the other lanes compare 0 with 0. -/
theorem test_vcmplt :
    let s := vs 0xFFFFFFFF 1 (sr [])
    effs (exec (.vcmplt (va .i32) 1 2 3) s) = [.p 3 1 0xFFFFFFFFFFFFFFFF] ∧
    effs (exec (.vcmplt (va .n32) 1 2 3) s) = [.p 3 0 0xFFFFFFFFFFFFFFFF] := by decide +kernel

/-- Narrowing, same width and widening; an integer type, f32 and bf16; codes at the end of a block. -/
theorem witness_VectorMovesAndConversions :
    State.reset.me.r.poison = [] ∧ tyI (va .i16).ty = true ∧ (va .f32).ty = .f32 ∧ (va .bf16).ty = .bf16 ∧
    tyBits .bf16 ≤ (va .f32).w ∧ tyBits .f32 ≤ (va .f32).w ∧ (va .bf16).w < tyBits .f32 := by decide +kernel

/-- R128: an element index wraps at the count of elements; a slide by 1 takes its last element from the second source. -/
theorem test_vslide :
    let s := vs 0 0xAB (sr [])
    ((effs (exec (.vslide (va .f32) 3 1 2 1) s)).head?.map fun e => match e with | .v _ _ v _ => (elem v 63 32, elem v 0 32) | _ => (0, 0)) =
      some (0xAB, 0) := by decide +kernel

/-- A base at the last row of the pad, one past it, one that is not aligned; p1 is 0, so no element is active under it. -/
theorem witness_VectorPadAccess :
    let s (b : W64) : State := sr [(1, b)]
    let n : VH := ⟨.A, 1, .f32, false, .rne⟩
    let adr (b e : Nat) : Nat := b + e * 4
    let chk (h : VH) (b : Nat) : Option (Byte × Nat) := padCheck h b ((actives h 32 (s 0)).map (adr b))
    (s 0x1FFF00).me.r.poison = [] ∧ (s 0).dev.poison = [] ∧ (s 0).dev.errs = [] ∧ (s 0).me.wst = [] ∧ chk (va .f32) 0x1FFF00 = none ∧ chk (va .f32) 0x1FFF04 = some (0x07, 0x200000) ∧
    chk (va .f32) 2 = some (0x06, 2) ∧ actives n 32 (s 0) = [] ∧ chk n 2 = none ∧
    ((actives (va .f32) 32 (s 0)).flatMap fun e => cellsOf (padKey 0 (adr 0 e)) 0 4) ≠ [] := by decide +kernel

/-- R134: element 1 of a load at 0 is the word at 4. -/
theorem test_vld :
    let s : State := { sr [] with mem := memWrs [] (cellsOf (padKey 0 4) 0xDEADBEEF 4) }
    ((effs (exec (.vld (va .f32) 3 0 1) s)).head?.map fun e => match e with | .v _ _ v _ => elem v 1 32 | _ => 0) = some 0xDEADBEEF := by
  decide +kernel

/-- Elements of active lanes and others; both clusters. -/
theorem witness_ElementDeliveries :
    (3 : Nat) < 2048 / (va .f32).w ∧ active (State.reset.me.r.getP 0) 3 32 = true ∧ active (State.reset.me.r.getP 1) 3 32 = false ∧
    (Cluster.B ≠ (va .f32).cl) ∧ (4 : BitVec 5) ≠ State.reset.me.r.physV 3 := by decide +kernel

/-- A pattern that is a number, infinity and NaN; remainders 0, below, at and above half a step. -/
theorem witness_NumberFormats :
    tyI .i8 = true ∧ intLo .i8 = -128 ∧ intHi .i8 = 127 ∧ intHi .n8 = 255 ∧ toF .f32 0x3F800000 ≠ .nan ∧ toF .f32 0x7F800000 ≠ .nan ∧
    toF .f32 0x7FC00000 = .nan ∧ (0xFFFFFFFF : Nat) < 2 ^ tyBits .f32 ∧ toF .e4m3 0x7F = .nan ∧ 12 % 2 ^ 2 = 0 ∧ 13 % 2 ^ 2 ≠ 0 ∧
    2 * 14 = 2 * (14 / 2 ^ 2) * 2 ^ 2 + 2 ^ 2 := by decide +kernel

/-- R43, R44: a tie at 1 + 2^-24 goes to the even pattern; toward plus infinity it goes up; both set NX. -/
theorem test_round_tie :
    roundF .f32 .rne false (.fin false (2 ^ 24 + 1) (-24)) = (0x3F800000, 0x10) ∧
    (roundF .f32 .ru false (.fin false (2 ^ 24 + 1) (-24))).1 = 0x3F800001 := by decide +kernel

/-! The engine slots, the copy units and the array. -/

/-- m0 and m1 of core 0. -/
def ms (a b : W64) : State := c0 fun k => { k with r := { k.r with m := (k.r.m.set 0 a).set 1 b } }
def sq (s : State) : State := { s with bun := { s.bun with squash := true } }

/-- Latch loads, epilogue words and drains on both sides of each check. -/
theorem witness_EngineSlots :
    let base (d : W64) := d.toNat % 2 ^ 21
    let str (d : W64) := d.toNat / 2 ^ 24 % 2 ^ 16
    let nrw (d : W64) := d.toNat / 2 ^ 40 % 2 ^ 7
    let ovr (d : W64) : Prop := d.toNat / 2 ^ 48 ≠ 0 ∨ d.toNat / 2 ^ 21 % 8 ≠ 0
    let last : W64 := 0x00007F01201F8000
    let dr := drainArgs 0x2000000000000000 0x0000000000000000
    (sq State.reset).bun.squash = true ∧ State.reset.bun.squash = false ∧
    (c0 fun k => { k with r := { k.r with m := k.r.m.set 7 0x1FFFFF } }).me.r.getM 7 = 0x1FFFFF ∧ 0x1FFFFF + (0 : BitVec 8).toNat < 0x200000 ∧
    0x200000 ≤ 0x1FFFFF + (1 : BitVec 8).toNat ∧ State.reset.me.tokPending 5 = false ∧
    (c0 fun k => { k with r := { k.r with entryOk := 1 } }).me.r.entryOk.getLsbD 0 = true ∧ State.reset.me.r.entryOk.getLsbD 0 = false ∧
    ovr (1 <<< 48) ∧ ovr (1 <<< 21) ∧ ¬ ovr 0x20 ∧ base 0x20 % 64 ≠ 0 ∧ ¬ ovr last ∧ base last % 64 = 0 ∧ str last % 64 ≠ 0 ∧
    ¬ ovr 0x00007F00401FFF00 ∧ base 0x00007F00401FFF00 % 64 = 0 ∧ str 0x00007F00401FFF00 % 64 = 0 ∧
    0x200000 ≤ base 0x00007F00401FFF00 + nrw 0x00007F00401FFF00 * str 0x00007F00401FFF00 + 255 ∧
    ¬ ovr 0x1FFF00 ∧ base 0x1FFF00 + nrw 0x1FFF00 * str 0x1FFF00 + 255 < 0x200000 ∧
    ((1 <<< 36 : W64).toNat / 2 ^ 36 ≠ 0) ∧ (0x800 : W64).getLsbD 11 = true ∧ (0x600 : W64).getLsbD 9 = true ∧
    (0x600 : W64).getLsbD 10 = true ∧ (0x3F000 : W64).getLsbD 8 = false ∧ (0x100 : W64).toNat / 2 ^ 12 % 64 = 0 ∧
    base 0x1FFDF0 % 16 = 0 ∧ base 0x1FFDF0 + 528 ≤ 0x200000 ∧ base 8 % 16 ≠ 0 ∧ drainArgs 0 0 = none ∧
    dr.isSome = true ∧ (dr.all fun x => x.spc == 1 && x.adr % (tyBits x.ot / 8) == 0 && x.str % (tyBits x.ot / 8) == 0 &&
      decide (x.adr + x.nrw * x.str + (x.ncl + 1) * (tyBits x.ot / 8) ≤ 0x200000)) = true := by decide +kernel

/-- R163, R164: an add clamps at 255; a latch load with a reserved bit set traps. -/
theorem test_scale_and_lload :
    (setScale (Vector.replicate 16 200) (Vector.replicate 16 0) ⟨0, 0, 0, 2, 3, 100, none, 0, none⟩)[3] = 255 ∧
    runOf (exec (.lload ⟨0, 0, 0, 0⟩ 0 1) (ms (1 <<< 48) 0)) = some (.trapped 0x03) := by decide +kernel

/-- A nest of one dimension, 64 bytes at stride 1, from pad address 0 to `dst`. -/
def nest1 (src dst : W64) (n : Nat) : BitVec 512 :=
  src.setWidth 512 ||| (dst.setWidth 512 <<< 64) ||| (BitVec.ofNat 512 (n * 2 ^ 40 + 1) <<< 128)
def withNest (n : BitVec 512) : State := c0 fun k => { k with r := { k.r with n := k.r.n.set 0 n } }
def padAt (a : W64) : W64 := 0x2000000000000000 + a

/-- A copy within the pad, one past its end, a base with no space; a ring that has room; drivers and latchers of 64 bytes and of 0. -/
theorem witness_CopySlots :
    let good := nest1 (padAt 0) (padAt 0x1FFFC0) 64
    let s := withNest good
    let room (s : State) : Bool := match copyCheck 1 true good s with
      | .inr w => (s.me.getRing 1).created && decide ((s.me.getRing 1).w + w.total ≤
          ((s.me.getRing 1).rc + (s.me.getRing 1).slots) * (s.me.getRing 1).target) && decide (baseSp w.dst ≠ 0)
      | .inl _ => false
    let ringed := s.modC 0 fun k => { k with ring := k.ring.set 1 ⟨true, 2, 32, 0, 0, [], [], 0, 0⟩ }
    let bus (src dst : W64) (n : Nat) (drive : Bool) : Bool := match walkOf (nest1 src dst n) drive with
      | some w => decide (w.total % 64 = 0 ∧ w.total ≤ 65536 ∧ (nestWord (nest1 src dst n) (if drive then 1 else 0)).toNat < 4 ∧
          baseSp (if drive then w.src else w.dst) = 1) && (decide (w.total = 0) || (sideCheck s w drive).isNone)
      | none => false
    s.bun.squash = false ∧ s.me.tokPending 5 = false ∧ room ringed = true ∧
    copyCheck 1 true (nest1 (padAt 0) (padAt 0x1FFFC1) 64) s = .inl (0x07, 0x200000, 64) ∧
    copyCheck 1 true (nest1 0xE000000000000000 0 64) s = .inl (0x03, 0, 1) ∧
    bus (padAt 0x1FFFC0) 3 64 true = true ∧ bus (padAt 0) 0 0 true = true ∧ bus 0 (padAt 0) 64 false = true := by decide +kernel

/-- A matrix operation and a routine of core 0. -/
def mop (k : MxKind) : MxOp := ⟨8, 0x40, k, .replicate 8 0, 0, 0, []⟩
def rou : Routine :=
  ⟨mop (.mcall 0 0 0 false false), 0, .bf16, .bf16, false, 0, 0, false, 0, 0, 0, 0, 1, 1, 0, 0, 0, false, false, false, true, 0, 0⟩
def rs (r : Routine) : State := c0 fun k => { k with arun := .call r }

/-- Values on both sides of each limit of act, fmt and mac; the last control operation before an array cycle; fin in both cases. -/
theorem witness_MicroOperations :
    let v (x : BitVec 16) : MVal := ⟨0, 0, false, x⟩
    let val (x : BitVec 16) : BitVec 16 := (if (v x).e then 0 else 0) + (v x).imm
    (rs rou).routine = some rou ∧ (val 0x7F7F).getLsbD 15 = false ∧ (val 0x7F7F).getLsbD 7 = false ∧ (val 0x8000).getLsbD 15 = true ∧
    (val 0x80).getLsbD 7 = true ∧ ({ rou with ctl := 7 } : Routine).ctl = 7 ∧ rou.ctl ≠ 7 ∧
    tyOfCode 0x08 = some .e4m3 ∧ tyOfCode 0x07 = some .bf16 ∧ (ElemTy.bf16 ≠ .e4m3 ∧ ElemTy.bf16 ≠ .b4) ∧ (rs rou).dev.poison = [] ∧ (rs rou).dev.errs = [] ∧
    (rs rou).me.r.scBad = [] ∧
    (1 ≤ (32 : BitVec 6).toNat ∧ (32 : BitVec 6).toNat ≤ 32 ∧ (96 : BitVec 16).toNat + 32 ≤ 128 ∧ (16352 : BitVec 16).toNat + 32 ≤ 16384) ∧
    128 < (97 : BitVec 16).toNat + 32 ∧ 16384 < (16353 : BitVec 16).toNat + 32 ∧ 32 < (33 : BitVec 6).toNat ∧
    rou.nr ≤ 128 ∧ rou.nc ≤ 128 ∧ rou.ran = true ∧ ({ rou with ran := false } : Routine).ran = false ∧
    (0 < rou.nr ∧ 0 < rou.nc) := by decide +kernel

/-- R153: brz is taken on a quarter of 0. R156: a group of one product 1.0 * 2.0. -/
theorem test_brz_and_mac :
    let f (o : Out) : Option (Nat × Nat) := match o with | .next t => t.routine.map fun r => (r.pc, r.ctl) | _ => none
    let s : State := { rs { rou with lat := 1 } with
      mem := memWrs (memWrs [] (cellsOf (latKey 0 1 0 0) 0x3F80 2)) (cellsOf (accKey 0 0 0 0) 0x3F800000 4) }
    f (exec (.brz 0 0 9) (rs rou)) = some (9, 1) ∧ f (exec (.idle 3) (rs rou)) = some (1, 0) ∧
    accRd (macStep 0 { rou with lat := 1 } 1 false s).1 0 0 0 0 = 0x3F800000 := by decide +kernel

/-! Steps of the device. -/

/-- A load that has its value, alone and behind an older one into the same register; stores; a held line in a filter. -/
theorem witness_AnswersToACore :
    let o : Cop := newCop (.load false) 4 2 .pad 0 (padKey 0 0) 8 false false 0 (some (7, true)) 1 8
    let old : Cop := { o with id := 0, seq := 0, val := none }
    let a : Cop := { o with id := 2, kind := .racq 5 }
    let s := ar (fun x => { x with id := 1, n := 2, k := 7 }) (c0 fun k => { k with loads := [o] })
    let s2 := ar (fun x => { x with id := 1 }) (c0 fun k => { k with loads := [old, o] })
    let s3 := ar (fun x => { x with id := 2 }) (c0 fun k => { k with loads := [a] })
    let f (s : State) : Option Cop := (s.core.get s.arg.c).loads.find? (·.id == s.arg.id)
    f s = some o ∧ o.val = some (7, true) ∧
    copPoison s s.arg.c o = none ∧
    ((s.core.get 0).loads.any fun x => decide (x.seq < o.seq) && x.dst == o.dst && x.dst != 0) = false ∧ f s2 = some o ∧
    ((s2.core.get 0).loads.any fun x => decide (x.seq < o.seq) && x.dst == o.dst && x.dst != 0) = true ∧
    (([(roundKey none 5, 2 ^ 46), (roundKey none 6, 1)] : Tbl Round).map (·.1)).Nodup ∧ (3 : Nat) < 4096 ∧
    f s3 = some a ∧ a.kind = .racq 5 ∧ o ∈ (s.core.get s.arg.c).loads ∧ o.id = s.arg.id ∧
    ((⟨0, 1, 2, 0⟩ : Barrier).arrive 2).2.g ≠ 0 ∧ lineSet 64 = lineSet 0 := by decide +kernel

/-- A hoist of two slots, one pinned; its slot taken; displaced; sights with nothing latest, no seat and a seat. -/
theorem witness_HalyardSteps :
    let x : Halyard := ⟨3, 0, 64, [⟨0, 0, none, false⟩, ⟨0, 1, none, false⟩], 1, 0, 0, none, [(0x7C30000, 0x100)], true⟩
    let o : HalOp := ⟨9, 0, 8, true, 3, .pad, 0, 0, 4, 5, 1, [], some 0, 0, false, 0, true, 0, [], [], 0, false, none, (0, false), none⟩
    let s := ar (fun a => { a with id := 9 }) (State.reset.modD fun d => { d with hal := [(3, x)], hops := [o] })
    s.hop? s.arg.id = some o ∧ tfind s.dev.hal o.hal = some x ∧ chooseSlot s x = some 0 ∧ o.slot = some 0 ∧ o.gone = false ∧
    0 < x.slots.length ∧ ({ o with gone := true } : HalOp).gone = true ∧ x.latest = none ∧ ({ x with latest := some 0 } : Halyard).latest = some 0 ∧
    ({ x with inUse := 1 } : Halyard).inUse = x.seats ∧ x.inUse ≠ x.seats ∧ x.slots[0]? = some ⟨0, 0, none, false⟩ ∧ o.tok ≠ 0 := by
  decide +kernel

/-- A command at the head; a paused run; a source page that is absent; a complete copy; beats alone and together. -/
theorem witness_CopySteps :
    let cmd (src : W64) : CopyCmd := ⟨1, 8, 0, .cpy, nest1 src (padAt 0x100) 64, 0, 0, 5, 1, [], none, 0, none⟩
    let run (src : W64) : CopyRun := ⟨cmd src, 0, none, none, none, 0, 0, [], [], false, (0, false), (0, false), []⟩
    let paused : CopyRun := { run (padAt 0) with pause := some (.region 3), slack := 4 }
    let bus : BusOp := ⟨1, 8, true, 2, nest1 (padAt 0) 2 64, 64, 32, 0, 0, 0, 0, [], 0, []⟩
    let s : State := { c0 fun k => { k with bus := [bus] } with tick := 32 }
    let s2 := s.modC 1 fun k => { k with bus := [bus] }
    let g := pg eAbs State.reset
    let absent : Bool := match copyPage g 0 false 0 false with | .inr _ => true | .inl _ => false
    CoreSt.init.depsReady (cmd (padAt 0)).deps = true ∧ (cmd (padAt 0)).walk.total ≠ 0 ∧ paused.paused = true ∧
    baseSp (run 0).cmd.walk.src = 0 ∧ heldAt (run 0).srcPg ((run 0).cmd.walk.srcAt 0).toNat = none ∧ absent = true ∧
    [run 0].find? (fun r => r.cmd.id == 1) = some (run 0) ∧ (run 0).cmd.tok ≠ 0 ∧ (s.core.get 0).bus = [bus] ∧ islOf 0 = 0 ∧
    (bus.beat s.tick).isSome = true ∧ (s.core.get 1).bus = [] ∧ ((0 : CoreId) < 1) ∧ islOf 1 = 0 ∧ (s2.core.get 1).bus = [bus] ∧
    [bus].find? (·.id == 1) = some bus ∧ (3 : Nat) < 4 ∧ ∀ d ∈ [((4 : Nat), (-1 : Int))], 0 < d.1 := by decide +kernel

/-- R197: position 5 of a walk of 4 by 2 with strides 1 and 100 has offset 1 + 100. -/
theorem test_walk : walkOff [(4, 1), (2, 100)] 5 = 101 ∧ walkHi [(4, 1), (2, 100)] = 103 := by decide +kernel

/-- What runs on each path; asking cores; windows of a ramp. -/
theorem witness_MatrixCompletions :
    let w : ScaleWr := ⟨0, 0, 8, 1, 3, 9, none, 0, none⟩
    let s := ar (fun a => { a with c := 0 }) (c0 fun k =>
      { k with scw := [w], tail := [(mop (.azero 0), 0x01)], arun := .call rou, lrun := some (mop (.lload 0 1)), drun := some (mop (.cksnap 0 2), [], 0), slew := .asked })
    let k := s.core.get s.arg.c
    k.scw.filter (·.left == 0) = [w] ∧ k.tail = [(mop (.azero 0), 0x01)] ∧ (0x01 : Byte) ≠ 0 ∧ k.arun = .call rou ∧
    k.lrun = some (mop (.lload 0 1)) ∧ lloadNrw 0 = 0 ∧ k.drun = some (mop (.cksnap 0 2), [], 0) ∧
    (s.isl.get s.arg.y).trb.getLsbD 8 = false ∧ (islOf 0 = s.arg.y ∧ (s.core.get 0).slew = .asked) ∧
    1 ≤ gpsOf ((s.isl.get s.arg.y).slrAt s.tick) ∧ Slew.up 1 3 [2] [1, 2] 4 = .up 1 3 (2 :: []) [1, 2] 4 ∧
    traceOn s 0 8 = false ∧ (1 ≤ 1 ∧ ¬ 2 ≤ 1) := by decide +kernel

/-- A checkpoint's withheld stores; a core with a save slot; a closed pull; points of the switch table. -/
theorem witness_CheckpointSteps :
    let w : Sto := ⟨3, 8, .pad, 0, cellsOf (padKey 0 0) 0xAB 1, 1, false, 0, none, Trip.init⟩
    let q : Sto := { w with id := 4, sp := .stg }
    let s := ln fun k => { k with wst := [w, q], preempt := true }
    let cxs (s : State) : State := s.modD fun d => { d with cx := d.cx.set 0 { Ctx.init 0 with svn := 1 } }
    let z := ln fun k => { k with pullClosed := some 1, seq := 3 }
    let sw (v : BitVec 2) (e : BitVec 32) : State := (ln fun k => { k with swVpr := 7, swCnt := 1, sw := [(0, 0x40), (1, e)], granted := v })
    (q ∈ s.me.wst ∧ q.sp ≠ .pad) ∧ (s.core.get 0).run = .running ∧ (s.core.get 0).preempt = true ∧
    (freeSlot (cxs s) 0).isSome = true ∧ (ln id).me.preempt = false ∧ (ln id).me.pullClosed = none ∧ (ln id).me.pullEmpty = none ∧
    z.me.run = .running ∧ z.me.preempt = false ∧ z.me.still = true ∧ z.me.pend.any (·.eff.isPush) = false ∧ z.me.r.held = none ∧ 1 + 1 < z.me.seq ∧
    switchAt State.reset.me 0x42 = none ∧ State.reset.bun.body = false ∧ State.reset.bun.target = none ∧
    switchAt (sw 1 0x80).me 0x40 = some (0, 0) ∧ (sw 1 0x80).me.granted.toNat ≠ 0 ∧ (sw 1 0x80).me.granted ≠ 3 ∧
    (sw 1 0x80).me.swVpr.getLsbD 1 = true ∧ tget 0xFFFFFFFF (sw 1 0x80).me.sw (3 * 0 + 1) ≠ 0xFFFFFFFF ∧
    tget 0xFFFFFFFF (sw 1 0xFFFFFFFF).me.sw (3 * 0 + 1) = 0xFFFFFFFF ∧ (sw 3 0).me.granted = 3 := by decide +kernel

/-- Records that wait, with a full queue and with room; a core with an item and one without; a running core. -/
theorem witness_RecordSteps :
    let r : Rec := ⟨7, 0, 0, 0, 0, 0x30, 0, 0, 0, 0, 0, 0, 0⟩
    let s := State.reset.modI 0 fun i => { i with waiting := [r, { r with kind := 1 }] }
    let full := s.modI 0 fun i => { i with rqh := 1 }
    let it := ln fun k => { k with r := { k.r with held := some ⟨4, 3, []⟩ } }
    (State.reset.isl.get 0).waiting = [] ∧ (s.isl.get s.arg.y).waiting = r :: [{ r with kind := 1 }] ∧ queueFull (s.isl.get 0) = false ∧
    queueFull (full.isl.get 0) = true ∧ r.cause ≠ 0x21 ∧ (ln id).me.run = .running ∧ State.reset.me.run = .unbound ∧
    (ln id).me.run ≠ .unbound ∧ (ln id).me.run ≠ .dark ∧ (ln id).me.r.held = none ∧ it.me.r.held = some ⟨4, 3, []⟩ ∧ isMgmt 0 = false ∧
    purgeBlock it 0 3 = false ∧ ((s.core.get 0).resumeDue = false) ∧
    ((State.reset.modC 0 fun k => { k with resumeDue := true }).core.get 0).resumeDue = true ∧ (State.reset.modC 0 fun k => { k with run := .dark }).me.run = .dark := by decide +kernel

/-- R357: a record goes to slot RQT and RQT moves on. -/
theorem test_record_post :
    let s := State.reset.modI 0 fun i => { i with waiting := [⟨7, 0, 0, 0, 0, 0x30, 0, 0, 0, 0, 0, 0, 0⟩], rqt := 255, rqh := 5 }
    (match exec .recordPost s with | .next t => (t.isl.get 0).rqt == 0 && (t.isl.get 0).waiting.isEmpty | _ => false) = true := by
  decide +kernel

/-- A slot that is being parsed and one that is not, with the window enabled; a pending launch that may start. -/
theorem witness_LaunchSteps :
    let s := State.reset.modD fun d => { d with lwb := 1 }
    let p := State.reset.modD fun d => { d with parsing := [(0, 2)] }
    let l := la .pending
    let q := ar (fun a => { a with n := 0 }) (State.reset.modD fun d => { d with pool := [(0, l)], order := [0] })
    tfind p.dev.parsing (0 * 16 + 0) = some 2 ∧ tfind s.dev.parsing 0 = none ∧ s.dev.lwb.getLsbD 0 = true ∧
    State.reset.dev.lwb.getLsbD 0 = false ∧ tfind q.dev.pool q.arg.n = some l ∧ mayStart q q.arg.n l = true ∧
    (startCores q l).isSome = true ∧ l.lst = false ∧ l.regions ≠ [] ∧ 5 / 256 = l.ctx.toNat := by decide +kernel

/-- R320: 0x5A in a disabled window stays in the GO byte and starts nothing. -/
theorem test_launch_window_off :
    (match exec .hostLaunchTrigger State.reset with
      | .next t => t.dev.parsing.isEmpty && memRd t.mem (slotKey 0 0 + 255) == 0x5A | _ => false) = true := by decide +kernel

/-- A free core in the range of stage 0, of the launch's context and of another; a queue of stage 0 with room and full. -/
theorem witness_BindSteps :
    let l := la .running
    let s := ar (fun a => { a with c := 3, k := 0, n := 0 }) (State.reset.modD fun d => { d with pool := [(0, l)] })
    let o := s.modC 3 fun k => { k with ctx := 1 }
    let x : StageSt := ⟨0x100, 2, [⟨7, 3, []⟩], 0, 0, 3, 1, 4, 0⟩
    tfind s.dev.pool 0 = some l ∧ l.st = .running ∧ freeCore s 3 = true ∧ (0 : Nat) < 8 ∧
    stageFor s 0 l 3 = some 0 ∧ stageFor o 0 l 3 = some 0 ∧ savedAt s 0 l 0 = none ∧ (s.core.get 3).ctx = l.ctx ∧ freeCore o 3 = true ∧ (o.core.get 3).ctx ≠ l.ctx ∧
    l.stages.head? = some x ∧ l.lst = false ∧ purgeBlock s l.ctx l.pen = false ∧ l.fed < l.nit ∧ x.occ < x.cap ∧
    (la .pending).st ≠ .running ∧ ({ l with fed := 1 } : Launch).nit ≤ 1 ∧ ({ x with cap := 1 } : StageSt).cap ≤ x.occ := by decide +kernel

/-- A queue without launches or cores, and with one; its period over; its budget used up; a core that is saved. -/
theorem witness_QueueSteps :
    let x : SchedQ := ⟨0, false, false, true, 10, 5, 20, 5, some 0, 3, 0, 0, false, false⟩
    let s := (ln id).modD fun d => { d with sq := d.sq.set 0 x }
    let ovr := s.modD fun d => { d with sq := d.sq.set 0 { x with used := 5 * Config.usTicks } }
    let at_ : State := { s with tick := 10 * Config.usTicks }
    let pend := State.reset.modD fun d => { d with pool := [(0, la .pending)] }
    let slot (s : State) : State := s.modD fun d => { d with cx := d.cx.set 0 { Ctx.init 0 with svn := 1 } }
    let save := slot (ln fun k => { k with run := .saving, saveTo := some 0 })
    pendingOf State.reset 0 = 0 ∧ queueCores State.reset 0 = [] ∧ pendingOf pend 0 ≠ 0 ∧ queueCores (ln id) 0 ≠ [] ∧
    admitted State.reset 0 10 1280 = true ∧ admitted State.reset 0 10 1281 = false ∧ (State.reset.sqOf 0).start = none ∧
    (at_.sqOf 0).start = some 0 ∧ at_.tick = 0 + (at_.sqOf 0).per * Config.usTicks ∧ ((accrue 0 ovr).sqOf 0).start.isSome = true ∧
    ((accrue 0 ovr).sqOf 0).raised = false ∧ queueCores ovr 0 ≠ [] ∧ ((accrue 0 ovr).sqOf 0).bud * Config.usTicks ≤ ((accrue 0 ovr).sqOf 0).used ∧
    isMgmt 0 = false ∧ isMgmt 128 = true ∧ (slot (ln id)).me.run ≠ .unbound ∧ (slot (ln id)).me.run ≠ .saving ∧
    (freeSlot (slot (ln id)) 0).isSome = true ∧ freeSlot (ln id) 0 = none ∧ save.me.run = .saving ∧
    save.me.saveTo = some 0 ∧ save.me.launch = some 0 ∧ tfind save.dev.pool 0 = some (la .running) := by decide +kernel

/-- A context that can be enabled, one that cannot, one that is busy; key slots in use; lines of the first tier; pages and flips. -/
theorem witness_ContextAndPageSteps :
    let good : Ctx := { Ctx.init 0 with hwl := 0x10000008, svb := 0, svn := 1 }
    let s := State.reset.modD fun d =>
      { d with cx := d.cx.set 0 good, key := d.key.set 0 ⟨true, 5⟩, pcx := d.pcx.set 0 0x8000 }
    let used := s.modD fun d => { d with cx := d.cx.set 0 { good with en := true } }
    let q := (pg eAbs State.reset).modI 0 fun i => { i with pgq := [⟨0, 0, 0⟩] }
    let flip (b : Bool) : State := State.reset.modD fun d => { d with bfBusy := some (3, b), devBias := [3] }
    ctxBusy s 0 = false ∧ (1 : W64).getLsbD 0 = true ∧ (s.ctxOf 0).en = false ∧
    enableErr s (s.ctxOf 0) 0 = 0 ∧ (partOfCtx s 0).isSome = true ∧ enableErr State.reset (State.reset.ctxOf 0) 0 = 1 ∧
    ctxBusy (ln id) 0 = true ∧ (0x0100 : W64).extractLsb' 8 7 ≠ ((ln id).ctxOf 0).ksl ∧ (0x0100 : W64).getLsbD 0 = ((ln id).ctxOf 0).en ∧
    (used.dev.cx.toList.any fun x => x.en && x.ksl == 0) = true ∧ (s.dev.cx.toList.any fun x => x.en && x.ksl == 0) = false ∧
    tfind s.dev.lineKey 0 = none ∧ tfind (s.modD fun d => { d with lineKey := [(0, (1, 5))] }).dev.lineKey 0 = some (1, 5) ∧
    cachedKey (s.modI 0 fun i => { i with copies := [(0, ⟨.S, 0, 0, 0, some (1, 7)⟩)] }) 1 0 = some 7 ∧ cachedKey s 1 0 = none ∧ s.dev.migr.contains 0x2000 = false ∧
    (s.modD fun d => { d with migr := [0x2000] }).dev.migr.contains 0x2000 = true ∧
    ((0x5FFFFFFF : Nat) < 0x60000000) ∧ (State.reset.isl.get 0).pgq = [] ∧ (q.isl.get 0).pgq = ⟨0, 0, 0⟩ :: [] ∧
    (match walkVa (q.modI 0 fun i => { i with pgq := [] }) 0 0 0 with | .leaf e _ _ _ => !pteRes e && pteAdr e != 0 | _ => false) = true ∧
    (flip true).dev.bfBusy = some (3, true) ∧ State.reset.dev.bfBusy = none ∧ State.reset.dev.devBias.contains 3 = false ∧
    (State.reset.modD fun d => { d with devBias := [3] }).dev.devBias.contains 3 = true ∧ (flip false).dev.bfBusy = some (3, false) ∧
    copyOn (flip true) 3 = false ∧ hopOn (flip true) 3 = false ∧ accessOn (flip true) 3 = false ∧ pageMoving (flip true) 3 = false := by decide +kernel

/-- A register of a busy context and of one that is not. -/
theorem witness_PlainRegisterWrites :
    ctxBusy (ln id) 0 = true ∧ ctxBusy State.reset 0 = false ∧ (6 : BitVec 3) ≠ 0 ∧ (6 : BitVec 3) ≠ 7 ∧
    (ln id).me.run = .running := by decide +kernel

/-- Entries of each kind: none, busy, shared, owned. -/
def entS : DirEnt := ⟨.S, 0, [1, 2], none, 0, none⟩
def busyOf (acks back : List Isl) (go : Bool) (fwd : Option Bool) : Busy := ⟨1, acks, go, false, fwd, back, false⟩
def home (e : DirEnt) : State := State.reset.modI 0 fun i => { i with dir := [(5, e)] }

theorem witness_HomeRequests :
    let s := ar (fun a => { a with h := 0, y := 1, line := 5 }) (home entS)
    let b := ar (fun a => { a with h := 0, y := 1, line := 5 }) (home { entS with busy := some (busyOf [2] [] true none) })
    (s.isl.get s.arg.h).hq = [] ∧ tfind (State.reset.isl.get 0).dir 5 = none ∧ (1 : Isl) ≠ 0 ∧
    ((State.reset.isl.get 0).dir.filter fun e => filterSet e.1 == filterSet 5).length < 16 ∧ tfind (s.isl.get 0).dir 5 = some entS ∧
    entS.busy = none ∧ (tfind (b.isl.get 0).dir 5).any (·.busy.isSome) = true ∧ (planOf 0 (some entS) 1 1).inv ≠ [] ∧
    (planOf 0 (some { entS with st := .M, owner := 2 }) 1 1).fwd = some (2, true) ∧ (planOf 0 (some { entS with share := [1] }) 1 2).go = true ∧
    (planOf 0 (some { entS with share := [1] }) 1 2).inv = [] ∧ (2 : Isl) ≠ 1 ∧ [(1 : Isl), 2].contains 1 = true ∧
    [(2 : Isl)].contains 1 = false := by decide +kernel

theorem witness_HomeAnswers :
    let a (s : State) : State := ar (fun a => { a with h := 0, x := 2, line := 5, flag := true }) s
    let e1 : DirEnt := { entS with busy := some (busyOf [2] [] true none) }
    let e2 : DirEnt := { entS with busy := some (busyOf [2, 3] [2, 3] true (some true)) }
    let e3 : DirEnt := { entS with st := .M, owner := 2, share := [] }
    let e4 : DirEnt := { e3 with busy := some (busyOf [] [2] false (some false)), wb := some (2, 7) }
    ((a (home e1)).isl.get 0).hq = [] ∧ tfind ((a (home e1)).isl.get 0).dir 5 = some e1 ∧ e1.busy = some (busyOf [2] [] true none) ∧
    [(2 : Isl)].filter (· != 2) = [] ∧ [(2 : Isl), 3].filter (· != 2) ≠ [] ∧ e2.busy.isSome = true ∧ e3.busy = none ∧ e3.owner = 2 ∧
    e3.st ≠ .S ∧ entS.busy = none ∧ entS.owner ≠ 2 ∧ (a (home e4)).arg.flag = true ∧ e4.busy = some (busyOf [] [2] false (some false)) ∧
    e4.wb = some (2, 7) ∧ (busyOf [2, 3] [2, 3] true (some true)).fwd = some true ∧ e2.wb = none ∧ State.reset.arg.flag = false ∧
    (busyOf [] [] true none).req = 1 ∧ (busyOf [] [] true none).back = [] ∧ (1 : Isl) ≠ 0 ∧ (busyOf [] [] true none).inst = false := by
  decide +kernel

/-- R353: a request for ownership of a shared line takes it from memory and invalidates the other sharer. -/
theorem test_rdo_shared :
    planOf 0 (some entS) 1 1 = ⟨.M, 1, [], some .M, none, [2], true, false⟩ := by decide +kernel

/-- A holder, a write-back buffer, neither; a request in flight with and without its data; lines in both biases. -/
theorem witness_HolderSteps :
    let cp : Copy := ⟨.M, 9, 0, 0, none⟩
    let s := ar (fun a => { a with x := 2, y := 1, line := 5 }) (State.reset.modI 2 fun i => { i with copies := [(5, cp)] })
    let wb := State.reset.modI 2 fun i => { i with wbuf := [(5, 9)] }
    let m : Mshr := ⟨5, true, false, none, false⟩
    let d := State.reset.modI 1 fun i => { i with mshr := [{ m with data := some (.M, 9) }], copies := [(5, cp)] }
    let bias (s : State) : State := s.modD fun d => { d with devBias := [0] }
    tfind (s.isl.get 2).copies 5 = some cp ∧ cp.st ≠ .Rg ∧ cp.st ≠ .S ∧ lineHome 0 = 0 ∧
    tfind ((home { entS with busy := some { busyOf [] [] false none with req := 0 } }).isl.get 0).dir 5 =
      some { entS with busy := some { busyOf [] [] false none with req := 0 } } ∧
    windowOff (State.reset.modD fun d => { d with lwb := 1 }) 1 = some 128 ∧ windowOff State.reset 0x2000 = none ∧ (128 : Nat) % 256 = 128 ∧
    (2 ^ 127 : Nat).testBit 127 = true ∧ ((0x5A : BitVec 1024) <<< 1016).extractLsb' 1016 8 = 0x5A ∧ tfind (wb.isl.get 2).copies 5 = none ∧ tfind (wb.isl.get 2).wbuf 5 = some 9 ∧ tfind (s.isl.get 2).wbuf 5 = none ∧ (1 : Isl) ≠ lineHome 5 ∧
    s.arg.flag = false ∧ ((State.reset.modI 1 fun i => { i with mshr := [m] }).isl.get 1).mshr = [m] ∧ m.line = 5 ∧ m.go = false ∧
    (d.isl.get 1).mshr.find? (·.line == 5) = some { m with data := some (.M, 9) } ∧ m.data = none ∧ tfind (d.isl.get 1).copies 5 = some cp ∧
    inDeviceBias State.reset 5 = false ∧ inDeviceBias (bias State.reset) 5 = true ∧ tfind ((bias State.reset).isl.get (lineHome 5)).dir 5 = none ∧
    tfind ((bias (home { entS with st := .M })).isl.get (lineHome 5)).dir 5 = some { entS with st := .M } ∧
    inDeviceBias (bias (home entS)) 5 = true ∧ (busyOf [] [] false none).up = false := by decide +kernel

/-- Points below, at and above the level; a rail that moves; each mode; a window's values; entries of the tables. -/
theorem witness_PowerSteps :
    let v (vl : W64) : W64 := 0x0404040400 + vl
    let mv := State.reset.modI 0 fun i => { i with opMove := some (pointOf (v 7)) }
    let gov (i m : Nat) : State := State.reset.modI 0 fun x => { x with opmd := 1, govI := i, govM := m, govN := 4 }
    let one := State.reset.modD fun d => { d with prt := 0xE4 }
    let slr : W64 := 0x248D10110
    opmOk (v 6) = true ∧ opmOk (v 8) = false ∧ (State.reset.isl.get 0).opMove = none ∧ (mv.isl.get 0).opMove.isSome = true ∧
    (pointOf (v 6)).vl = (State.reset.isl.get 0).vl ∧ (pointOf (v 5)).vl < (State.reset.isl.get 0).vl ∧
    (State.reset.isl.get 0).vl < (pointOf (v 7)).vl ∧ (State.reset.isl.get 0).vl + 1 = (pointOf (v 7)).vl ∧
    (State.reset.isl.get 0).opPend = none ∧
    (3 : W64).setWidth 2 = (3 : BitVec 2) ∧
    (2 : W64).setWidth 2 ≠ (3 : BitVec 2) ∧ partSize State.reset 0 = 4 ∧ partSize one 0 = 1 ∧
    (0x32C060 : W64).extractLsb' 16 3 ≤ (0x32C060 : W64).extractLsb' 19 3 ∧
    (0x32C060 : W64).extractLsb' 0 8 ≤ (0x32C060 : W64).extractLsb' 8 8 ∧ (0x60 : W64).extractLsb' 8 8 < (0x60 : W64).extractLsb' 0 8 ∧
    (∀ l : Fin 8, (0x105AA : W64).extractLsb' (2 * l.val) 2 ≠ 3) ∧ (3 : W64).extractLsb' (2 * 0) 2 = 3 ∧
    (State.reset.isl.get 0).slrFrom < ({ State.reset with tick := 1 } : State).tick ∧ (State.reset.isl.get 0).govWait = false ∧ ((List.range 6).all fun e => let u := (slr.extractLsb' (16 + 3 * e) 3).toNat; decide (1 ≤ u ∧ u ≤ 4)) = true ∧
    (4 ∈ (List.range 6).map fun e => (slr.extractLsb' (16 + 3 * e) 3).toNat) ∧ slr.extractLsb' 8 4 ≠ 0 ∧ (slr.extractLsb' 0 8).toNat % 4 = 0 ∧
    4 ≤ (slr.extractLsb' 0 8).toNat ∧ (State.reset.isl.get 0).opmd ≠ 2 ∧
    ((State.reset.modI 0 fun i => { i with opmd := 2 }).isl.get 0).opmd = 2 ∧
    256 * ((gov 1 3).isl.get 0).govI / 4 < natBits 0x32C060 7 0 ∧ natBits 0x32C060 18 16 < 6 ∧
    natBits 0x32C060 15 8 ≤ 256 * ((gov 4 0).isl.get 0).govI / 4 ∧ (3 : Nat) < natBits 0x32C060 21 19 ∧
    3 ≤ ((gov 1 3).isl.get 0).govN := by decide +kernel

/-- Each phase. Banks without an image; with one whose signature is good, which nothing here decides (log entry 8). -/
def bankImg : List Byte := [1, 0, 0, 0] ++ List.replicate 12 0 ++ List.replicate 112 0

theorem witness_HoldUpSteps :
    let h (p : Hold) : State := State.reset.modD fun d => { d with hold := p }
    (h .quiesce).dev.hold ≠ .run ∧ State.reset.dev.hold = .run ∧ (h .quiesce).dev.hold = .quiesce ∧ (h .save).dev.hold = .save ∧
    (h .seal).dev.hold = .seal ∧ (h .save).dev.hold ≠ .done ∧ (h .done).dev.hold = .done ∧ isMgmt 0 = false ∧ (ln id).me.run ≠ .unbound ∧
    (fwWhyOf State.reset.dev.idHash State.reset.dev.fuse (fwBank State.reset.dev false) == 0) = false ∧
    (fwWhyOf State.reset.dev.idHash State.reset.dev.fuse (fwBank State.reset.dev true) == 0) = false ∧ State.reset.dev.bootStep ≠ 4 ∧
    (State.reset.modD fun d => { d with bootStep := 4 }).dev.bootStep = 4 ∧ State.reset.dev.boot = 0 ∧ (5 : Byte) ≠ 0 ∧
    (State.reset.modD fun d => { d with supplyBack := true }).dev.supplyBack = true := by decide +kernel

theorem witness_HoldUpSteps_image (h : Config.signatureOk (Config.imageKey bankImg) bankImg = true) :
    fwWhyOf (Config.sha256 (Config.imageKey bankImg)) 0 bankImg = 0 := by
  have e : bankImg.take (0x40 + fwLen bankImg + 64) = bankImg := by decide +kernel
  unfold fwWhyOf
  rw [e, h, if_neg (by decide +kernel), if_neg (by decide +kernel), if_neg (by simp), if_neg (by decide +kernel)]

/-- Masks before and after; scrubbing off, on and with an error that cannot be corrected; tests of a bound core and others; purges. -/
theorem witness_ContainmentSteps :
    let f := State.reset.modI 0 fun i => { i with fcore := 1, fslice := 1, fstrait := 2, fdram := 1 }
    let off := State.reset.modD fun d => { d with scp := 0 }
    let te (e : BitVec 16 × Option (CoreId × Nat)) : State := State.reset.modI 0 fun i => { i with tests := [e] }
    let pu := State.reset.modD fun d => { d with purges := [⟨0, 3, [(128, 7)], none, 2⟩] }
    let find (s : State) (u : BitVec 16) := (s.isl.get 0).tests.find? fun e => e.1 == u
    (f.isl.get 0).fcore.getLsbD 0 = true ∧ (State.reset.isl.get 0).fcore.getLsbD 31 = false ∧ (f.isl.get 0).fslice.getLsbD 0 = true ∧
    (f.isl.get 0).fslice.getLsbD 31 = false ∧ (f.isl.get 0).fstrait.getLsbD 1 = true ∧ (f.isl.get 0).fstrait.getLsbD 3 = false ∧
    (f.isl.get 0).fdram.getLsbD 0 = true ∧ (f.isl.get 0).fdram.getLsbD 15 = false ∧ off.dev.scp = 0 ∧ State.reset.dev.scp ≠ 0 ∧
    find State.reset 0x0100 = none ∧ find (te (0x0100, some (128, 7))) 0x0100 = some (0x0100, some (128, 7)) ∧ testedCore 0 0x0100 = some 0 ∧
    testedCore 0 0x1200 = none ∧ (ln id).me.run ≠ .unbound ∧ State.reset.me.run = .unbound ∧ find (te (0x1200, none)) 0x1200 = some (0x1200, none) ∧
    purgeBlock State.reset 0 3 = false ∧ (pu.dev.purges.find? fun x => x.cx == 0 && x.pen == 3) = some ⟨0, 3, [(128, 7)], none, 2⟩ ∧
    purgeBlock pu 0 3 = true ∧ CoreSt.init.stopping = false ∧
    ({ CoreSt.init with cu0 := { CopyUnit.init with run := some ⟨⟨1, 8, 0, .cpy, 0, 0, 0, 5, 1, [], none, 0, none⟩, 0, none, none, none, 0, 0, [], [], true, (0, false), (0, false), []⟩ } } :
      CoreSt).stopping = true := by
  decide +kernel

/-- Each busy bit and state; units that are listed and not; partitions that are legal and not. The verdict on a host's image rests on
free values (log entries 7 and 8). -/
theorem witness_FleetSteps :
    let d (f : DevSt → DevSt) : State := State.reset.modD f
    let en := d fun d => { d with cx := d.cx.set 0 { Ctx.init 0 with en := true } }
    let any (s : State) : Bool := s.dev.cx.toList.any (·.en)
    (d fun d => { d with tsn := true }).dev.tsn = true ∧ State.reset.dev.tsn = false ∧ (3 : W64).getLsbD 0 = true ∧ (1 <<< 32 : W64).getLsbD 32 = true ∧
    (d fun d => { d with itrBusy := true }).dev.itrBusy = true ∧ State.reset.dev.itrBusy = false ∧ unitListed 0 0xFFFF = false ∧
    unitListed 0 0x011F = true ∧ unitListed 0 0x0120 = false ∧ unitListed 0 0x2000 = false ∧ unitListed 0 0x2003 = true ∧
    (d fun d => { d with fwSt := 1 }).dev.fwSt = 1 ∧ State.reset.dev.fwSt ≠ 1 ∧ (d fun d => { d with fwSt := 2 }).dev.fwSt = 2 ∧
    (d fun d => { d with attBusy := true }).dev.attBusy = true ∧ State.reset.dev.attBusy = false ∧ any State.reset = false ∧ any en = true ∧
    prtOk 0 = true ∧ prtOk 0xE4 = true ∧ prtOk 0x40 = false ∧
    pcxOk (State.reset.dev.pcx.toList.set 0 0x8000) = true ∧ pcxOk ([0x8000, 0, 0, 0].set 1 0x0100) = false ∧
    natBits 0x8000 6 0 + natBits 0x8000 15 8 ≤ 128 ∧ ¬ natBits 0x8001 6 0 + natBits 0x8001 15 8 ≤ 128 := by decide +kernel

/-- Second clause of FalseGuardDoesNothing: a transfer in a loop body, a privileged operation of a compute core, a load of space 3. -/
theorem witness_FalseGuardDoesNothing_decode :
    let w : W64 := 0x6014400000000000 ||| (3 <<< 31)
    let b := c0 fun k => { k with r := { k.r with mode := .modulo } }
    decodeSlot (.sca 0x5000000BFFFFFFEE) = some (.br ⟨2, true⟩ (BitVec.ofInt 33 (-18))) ∧ inBody (b.core.get 0).r = true ∧
    isTransfer (.br ⟨2, true⟩ (BitVec.ofInt 33 (-18))) = true ∧ isMgmt (0 : CoreId) = false ∧
    (match decodeSlot (.sca w) with | some i => encBad State.reset i | none => false) = true := by decide +kernel

/-- Loads when no access is open and when one is; a launch record whose second line traps, and one whose second line is absent. -/
theorem witness_LoadsAndLaunch_edges :
    let o : Cop := newCop (.load false) 1 0 .stg 0 (stgKey 0 0 0) 4 false false 0 none 1 0
    let two (e : Nat) : State := let s := pg eRes State.reset; { s with mem := memWrs s.mem (cellsOf 0x2008 e 8) }
    let ea : W64 := 0x40000000 - 128
    State.reset.me.open_ = [] ∧ (c0 fun k => { k with loads := [o] }).me.open_ ≠ [] ∧ padPoison State.reset (padKey 0 0) 8 = none ∧
    isGlob (checkAddr 0xC3 0 ea 128 .rd (two eAbs)) = true ∧ isAbs (checkAddr 0xC3 0 (ea + 128) 128 .rd (two eAbs)) = true ∧
    isGlob (checkAddr 0xC3 0 ea 128 .rd (two 0)) = true ∧ isTrap (checkAddr 0xC3 0 (ea + 128) 128 .rd (two 0)) = true := by decide +kernel

/-- A drain to staging that fits and one that does not; misaligned ones; a bias that is misaligned; a snapshot that reaches beyond the
pad; a driver that reads staging. -/
theorem witness_EngineSlots_edges :
    let x : DrainArgs := ⟨2, 0, .bf16, 256, 127, 127⟩
    let n (x : DrainArgs) := x.nrw * x.str + (x.ncl + 1) * (tyBits x.ot / 8)
    let fits (x : DrainArgs) (s : State) : Bool :=
      decide (x.adr % 2 ^ 22 + n x ≤ stagingSize s s.cur (x.adr / 2 ^ 22 % 32)) && !heldByHalyard s (islOf s.cur) x.adr (n x)
    drainArgs 0x4000000000000000 0x707010000 = some ⟨2, 0, .bf16, 0x701, 0, 0⟩ ∧ 0x701 % (tyBits .bf16 / 8) ≠ 0 ∧
    fits x (ln id) = true ∧ fits { x with adr := 0x80000 - 2 } (ln id) = false ∧
    (0x1100 : W64).getLsbD 8 = true ∧ (0x1100 : W64).toNat / 2 ^ 12 % 64 ≠ 0 ∧ 0x1FFE00 % 16 = 0 ∧ 0x200000 < 0x1FFE00 + 528 ∧
    (match walkOf (nest1 0x4000000000000000 2 64) true with
      | some w => decide (baseSp w.src = 2) && (sideCheck (ln id) w true).isNone
      | none => false) = true := by decide +kernel

/-- A driver and a latcher of one channel at a beat; a window that is over, with and without beats that waited. -/
theorem witness_CopySteps_latcher :
    let o : BusOp := ⟨1, 15, true, 2, nest1 (padAt 0) 2 128, 128, 32, 0, 0, 5, 1, [], 0, []⟩
    let q : BusOp := ⟨2, 14, false, 2, nest1 2 (padAt 0x100) 128, 128, 32, 1, 0, 7, 0, [], 0, []⟩
    let s : State := { (c0 fun k => { k with bus := [o] }).modC 1 fun k => { k with bus := [q], ring := k.ring.set 1 ⟨true, 2, 32, 128, 0, [], [], 0, 1⟩ } with
      tick := 36, arg := { Arg.zero with k := 2 } }
    islOf 0 = s.arg.y ∧ islOf 1 = s.arg.y ∧ (∀ e : Fin 132, e ≠ 0 → e ≠ 1 → (s.core.get e).bus = []) ∧ o.ch.toNat = s.arg.k ∧
    q.ch.toNat = s.arg.k ∧ o.beat s.tick = some 1 ∧ q.beat s.tick = some 1 ∧ (s.core.get 0).depsReady o.deps = true ∧
    s.sideKept 0 (baseSp o.walk.src) ((List.range' 64 64).map (o.key s 0)) false = false ∧ portRivals s 0 (o.seq % 8) o.id (o.banks 1) = 0 ∧
    q.ring ≠ 0 ∧ o.lag = 0 ∧ ({ o with lag := 3 } : BusOp).lag ≠ 0 ∧ o.tok ≠ 0 := by decide +kernel

/-- A page crossing at a resident page, at a held one and within the pad; a copy whose destination cannot be used. -/
theorem witness_CopySteps_crossing :
    let s := pg eRes State.reset
    let page (wr : Bool) : Option (Nat × Nat × Nat) := match copyPage s 0 false 0x1000 wr with | .inl (p, _) => some p | .inr _ => none
    baseSp (padAt 0) ≠ 0 ∧ baseSp 0x1000 = 0 ∧ (heldAt none 0x1000).isNone = true ∧ (page false).isSome = true ∧ (page true).isSome = true ∧
    (heldAt (page false) 0x1000).isSome = true ∧ (heldAt (page true) 0x1000).any s.biasHeld = false := by decide +kernel

/-- An early pad access keeps paths away, and none does; a drain whose bias lies in the pad; columns that pass, fail and decline. -/
theorem witness_MatrixCompletions_drain :
    let o : Cop := newCop (.load false) 1 0 .stg 0 (stgKey 0 0 0) 4 false false 0 none 1 0
    let e : Early := ⟨24, false, true, padKey 0 0, 64, false, false, 0, [o.seq]⟩
    let s := c0 fun k => { k with loads := [o], early := [e] }
    let one : FVal := toF .f32 0x3F800000
    let tol (g : FVal) : FVal := (mulF (.fin false (2 + 1) 0) (addF .rne (g.scale (-22)) (.fin false 1 (-140))).1).1
    lloadKept s 0 0 = true ∧ lloadKept State.reset 0 0 = false ∧ s.pathKept 0 [padKey 0 4] true = true ∧
    State.reset.pathKept 0 [padKey 0 4] true = false ∧ (127 : Nat) < 128 ∧ (0x1FFE00 : Nat) + 4 * (127 + 1) ≤ 0x200000 ∧
    (0x180 : W64).getLsbD 8 = true ∧ (addF .rne one one.flip).1.mag.isZero = true ∧ (tol one).isNan = false ∧
    (tol one).lt (addF .rne one (toF .f32 0x3F000000).flip).1.mag = true ∧ (toF .f32 0x7F800000).isInf = true ∧
    (toF .f32 0x7FC00000).isFin = false ∧ (FVal.fin false 1 24).lt one = false ∧ (tol (toF .f32 0x7FC00000)).isNan = true := by decide +kernel

/-- An item held now, at the checkpoint and not at all; samples under way; poison that is logged though its record is dropped. -/
theorem witness_CoreSteps_edges :
    let i : Item := ⟨4, 3, []⟩
    let now := ln fun k => { k with r := { k.r with held := some i } }
    let then_ := ln fun k => { k with ck := { k.ck with held := some i } }
    let r : Rec := ⟨7, 0, 0, 0, 0, 0x34, 0, 0, 0, 0, 0, 0, 0⟩
    now.me.r.held.or now.me.ck.held = some i ∧ then_.me.r.held.or then_.me.ck.held = some i ∧ (ln id).me.r.held.or (ln id).me.ck.held = none ∧
    ([r].filter fun r => r.kind == 0 && r.cause == 0x34).length = 1 ∧ traceOn State.reset 0 14 = false ∧ State.reset.me.wmx = [] ∧
    State.reset.has (.edge 0) = false ∧ (ln id).me.samples = [] := by decide +kernel

/-- Poison met with nothing to land, and while the checkpoint's deliveries are still to come. -/
theorem witness_RecordSteps_due :
    let s := ln id
    let w := ln fun k => { k with ckSeq := 9, pend := [⟨.ctl, 1, 4, 8, .s 1 5⟩] }
    ((∀ d ∈ s.me.pend, s.me.ckSeq < d.seq) ∧ (∀ o ∈ s.me.loads, s.me.ckSeq < o.seq) ∧ s.dev.hops = []) ∧
    ¬ (∀ d ∈ w.me.pend, w.me.ckSeq < d.seq) ∧ w.me.run ≠ .unbound ∧ w.me.run ≠ .dark ∧ w.me.r.held = none ∧ w.me.ck.held = none := by
  decide +kernel

/-- An epicfg that may begin on the drain path. -/
theorem witness_MatrixCompletions_begin :
    let o := mop (.epicfg 0)
    let s := c0 fun k => { k with dq := [o] }
    (s.core.get 0).dq = o :: [] ∧ o.kind = .epicfg 0 ∧ (s.core.get 0).drun = none ∧ (s.core.get 0).depsReady o.deps = true ∧
    beginKept s 0 o = false := by decide +kernel

/-- A copy of pad bytes at a piece; a zero-filled line of a region whose table lags; a paused copy with one behind it that may go on; a
walk that faults under a copy; bytes that a latcher has not written yet. -/
theorem witness_CopySteps_bytes :
    let cmd (src : W64) (b : Option Nat) : CopyCmd := ⟨1, 8, 0, .cpy, nest1 src (padAt 0x100) 64, 0, 0, 5, 1, [], b, 0, none⟩
    let run (src : W64) (b : Option Nat) (pg : Option (Nat × Nat × Nat)) : CopyRun :=
      ⟨cmd src b, 0, pg, none, none, 0, 0, [], [], false, (0, false), (0, false), []⟩
    let put (r : CopyRun) (s : State) : State :=
      { s.modC 0 fun k => k.setUnit false fun x => { x with run := some r } with agenda := [⟨0, 0, .piece 0 false⟩] }
    let ok (r : CopyRun) (s : State) : Bool :=
      let w := r.cmd.walk
      let n := r.group
      decide (((s.core.get 0).unit false).run = some r ∧ r.stop = false ∧ r.pause = none ∧ r.part = [] ∧ s.dev.lineKey = [] ∧ r.x < w.total) &&
      ((List.range' r.x n).all fun y => decide (writtenWith w y < r.x + n) && (readWith w y).all (decide <| r.x ≤ ·) &&
        (srcKey s 0 r y).isSome && (dstKey s 0 r y).isSome) && !copyKept s 0 r n && (hostLines s 0 r n).all r.asked.contains
    let plain := run (padAt 0) none none
    let zero := run 0x1000 (some 0) (some (0x1000, 0x1000, 0x1000))
    let lag := (ln fun k => { k with r := { k.r with rr := [(5, 9)] } }).modD fun d =>
      { d with pool := [(0, { la .running with regions := [⟨5, 0x1000, 0x80, 0, true, 0⟩] })] }
    ok plain (put plain State.reset) = true ∧ baseSp plain.cmd.walk.src ≠ 0 ∧ (portWait 0 false plain plain.group (put plain State.reset)).1 = false ∧
    ok zero (put zero lag) = true ∧ (lineWaits (put zero lag) 0 zero 0).any (fun g => g.2 && g.1.zero) = true ∧
    lineHome (0x1000 / 128) = islOf 0 := by decide +kernel

theorem witness_CopySteps_resume :
    let cmd (id : Nat) (src : W64) : CopyCmd := ⟨id, 8, 0, .cpy, nest1 src (padAt 0x100) 64, 0, 0, 5, 1, [], none, 0, none⟩
    let run (id : Nat) (src : W64) : CopyRun := ⟨cmd id src, 0, none, none, none, 0, 0, [], [], false, (0, false), (0, false), []⟩
    let r : CopyRun := { run 1 0 with pause := some (.page 0) }
    let q : CopyRun := { run 2 (padAt 0) with pause := some (.region 3) }
    let g := pg eAbs State.reset
    let f := pg 0x1400000040000007 State.reset
    let x : CopyUnit := { CopyUnit.init with run := some r, side := [q] }
    let early : State :=
      let o : Cop := newCop (.load false) 1 0 .stg 0 (stgKey 0 0 0) 4 false false 0 none 1 0
      c0 fun k => { k with loads := [o], early := [⟨24, false, true, padKey 0 0, 64, false, false, 0, [o.seq]⟩] }
    r.paused = true ∧ pauseOver g 0 false r = false ∧ x.side.find? (fun e => e.paused && pauseOver g 0 false e) = some q ∧
    ({ x with run := none } : CopyUnit).run = none ∧ pauseOver (pg eRes State.reset) 0 false r = true ∧
    (match walkVa f 0 0 0 with | .fault .. => true | _ => false) = true ∧ noLeaf f 0 0 = false ∧ (f.core.get 0).xlTrap = none ∧
    (match copyPage f 0 false 0 false with | .inr _ => true | .inl _ => false) = true ∧
    early.sideKept 0 1 [padKey 0 4] true = true ∧ State.reset.sideKept 0 1 [padKey 0 4] true = false := by decide +kernel

/-- Lines of a page whose back-invalidation is under way; a write-back that waits at its home, from the owner and from another. -/
theorem witness_LinesOnTheirWay :
    let f (l : List Nat) : State := State.reset.modD fun d => { d with bfBusy := some (3, false), bfInv := l }
    let e (own : Isl) (st : DirSt) : DirEnt := { entS with st := st, owner := own, busy := some (busyOf [] [] false (some false)), wb := some (2, 7) }
    (f [96]).dev.bfInv.length ≤ 1 ∧ 1 < (f [96, 97]).dev.bfInv.length ∧ (e 2 .O).owner = 2 ∧ (e 2 .O).st ≠ .S ∧ (e 1 .O).owner ≠ 2 ∧
    (e 2 .S).st = .S := by decide +kernel

/-- A load that the checkpoint covers at a supply loss; errors that a patrol read meets; a snapshot, its view, and firmware states. -/
theorem witness_DeviceSteps_edges :
    let o : Cop := newCop (.load false) 1 2 .glob 0 0 4 false false 0 none 1 8
    let s := ln fun k => { k with ckSeq := 9, loads := [o] }
    let er := State.reset.modD fun d => { d with errs := [11] }
    let ts := State.reset.modD fun d => { d with tsnTaken := true, tsnLive := false, resOk := true }
    o ∈ (s.core.get 0).loads ∧ o.seq ≤ (s.core.get 0).ckSeq ∧ o.kind = .load false ∧ (s.core.get 0).run ≠ .unbound ∧
    State.reset.fromDram 0 = true ∧ (State.reset.modI (homeOf 0) fun i => { i with shelf := [⟨0, 0, none, false⟩] }).fromDram 0 = false ∧
    4 * tierLines ≤ 4 * tierLines + 7 ∧ prtOk 0xE4 = true ∧ State.reset.dev.prt ≠ 0xE4 ∧
    (er.dev.errs.any fun p => p / 2 == 5) = true ∧ (er.dev.errs.any fun p => p / 2 == 6) = false ∧ 5 < 4 * tierLines ∧
    ts.dev.tsnTaken = true ∧ ts.dev.tsnLive = false ∧ ts.dev.resOk = true := by decide +kernel

end Sys2Proof.Tests
end

section
/-! SUPPORT. Words of the scalar slot (R70): the fields of a word written field by field, and the decoder's two first tables on it. -/

namespace Sys2Proof

/-- The scalar layout: unpacking a word written field by field gives the fields back. -/
theorem unpackS_append (op : Byte) (dst sra srb : BitVec 6) (p : BitVec 4) (n : Bool) (imm : BitVec 33) :
    unpackS (op ++ dst ++ sra ++ srb ++ p ++ BitVec.ofBool n ++ imm) = ⟨op, dst, sra, srb, p, n, imm⟩ := by
  let w := op ++ dst ++ sra ++ srb ++ p ++ BitVec.ofBool n ++ imm
  have hw : w.extractLsb' 56 8 = op ∧ w.extractLsb' 50 6 = dst ∧ w.extractLsb' 44 6 = sra ∧ w.extractLsb' 38 6 = srb ∧
      w.extractLsb' 34 4 = p := by
    simp only [w, BitVec.extractLsb'_append_eq_of_le, BitVec.extractLsb'_append_eq_right, Nat.reduceLeDiff, Nat.reduceSub,
      BitVec.extractLsb'_eq_self, and_self]
  obtain ⟨hop, hdst, hsra, hsrb, hp⟩ := hw
  have hn : w.getLsbD 33 = n := by
    simp only [w, BitVec.getLsbD_append, Nat.lt_irrefl, if_false, Nat.sub_self, Nat.lt_one_iff, if_true, BitVec.getLsbD_ofBool,
      decide_true, Bool.true_and]
  exact (SWord.mk.injEq ..).mpr ⟨hop, hdst, hsra, hsrb, hp, hn, BitVec.extractLsb'_append_eq_right⟩

section
variable {g : Guard} {op : Byte} {dst sra srb : BitVec 6} {imm : BitVec 33} {i : Instr}

/-- A word with an operation code from 0x01 to 0x3F is read by the arithmetic table. -/
theorem decodeSlot_arith (hi : decodeSArith ⟨op, dst, sra, srb, g.p, g.neg, imm⟩ = some i)
    (hop : op ≠ 0 ∧ op.toNat < 0x40 := by decide) :
    decodeSlot (.sca (op ++ dst ++ sra ++ srb ++ g.p ++ BitVec.ofBool g.neg ++ imm)) = some i := by
  simp only [decodeSlot, decodeScalar, unpackS_append, if_neg hop.1, if_pos hop.2, hi]

/-- A word with an operation code from 0x40 to 0x5F is read by the table of compares, predicates and control. -/
theorem decodeSlot_pred (hi : decodeSPred ⟨op, dst, sra, srb, g.p, g.neg, imm⟩ = some i)
    (hop : 0x40 ≤ op.toNat ∧ op.toNat < 0x60 := by decide) :
    decodeSlot (.sca (op ++ dst ++ sra ++ srb ++ g.p ++ BitVec.ofBool g.neg ++ imm)) = some i := by
  have h0 : op ≠ 0 := by rintro rfl; simp at hop
  simp only [decodeSlot, decodeScalar, unpackS_append, if_neg h0, if_neg (Nat.not_lt.2 hop.1), if_pos hop.2, hi]

end

/-- Six bits that stand lowest in IMM. -/
theorem some_lowField {n m : Nat} (f : BitVec m → Instr) (z : BitVec n) (x : BitVec m) :
    some (f ((z ++ x).extractLsb' 0 m)) = some (f x) :=
  congrArg (some <| f ·) BitVec.extractLsb'_append_eq_right

/-- The two fields of the bit-field instructions in IMM (R96). -/
theorem some_posWidth (f : BitVec 6 → BitVec 6 → Instr) (z : BitVec 21) (w1 pos : BitVec 6) :
    some (f ((z ++ w1 ++ pos).extractLsb' 0 6) ((z ++ w1 ++ pos).extractLsb' 6 6)) = some (f pos w1) := by
  have hw : (z ++ w1 ++ pos).extractLsb' 6 6 = w1 := by
    rw [BitVec.extractLsb'_append_eq_of_le (Nat.le_refl 6)]
    exact BitVec.extractLsb'_append_eq_right
  rw [hw]
  exact some_lowField (f · w1) _ pos

/-- A predicate number in a six-bit field is below 16, and the decoder reads it back (R87). -/
theorem toNat_predField (p : BitVec 4) : (0#2 ++ p).toNat < 16 := by
  rw [BitVec.toNat_append]
  exact lt_of_eq_of_lt (by simp) p.isLt

theorem setWidth_predField (p : BitVec 4) : (0#2 ++ p).setWidth 4 = p := BitVec.setWidth_append_eq_right

theorem some_predField (f : BitVec 4 → Instr) (p : BitVec 4) :
    (if (0#2 ++ p).toNat < 16 then some (f ((0#2 ++ p).setWidth 4)) else none) = some (f p) := by
  rw [if_pos (toNat_predField p), setWidth_predField]

theorem some_predField₂ (f : BitVec 4 → BitVec 4 → Instr) (p q : BitVec 4) :
    (if (0#2 ++ p).toNat < 16 ∧ (0#2 ++ q).toNat < 16 then
      some (f ((0#2 ++ p).setWidth 4) ((0#2 ++ q).setWidth 4)) else none) = some (f p q) := by
  rw [if_pos ⟨toNat_predField p, toNat_predField q⟩, setWidth_predField, setWidth_predField]

theorem some_predField₃ (f : BitVec 4 → BitVec 4 → BitVec 4 → Instr) (p q r : BitVec 4) :
    (if (0#2 ++ p).toNat < 16 ∧ (0#2 ++ q).toNat < 16 ∧ (0#2 ++ r).toNat < 16 then
      some (f ((0#2 ++ p).setWidth 4) ((0#2 ++ q).setWidth 4) ((0#2 ++ r).setWidth 4)) else none) = some (f p q r) := by
  rw [if_pos ⟨toNat_predField p, toNat_predField q, toNat_predField r⟩, setWidth_predField, setWidth_predField,
    setWidth_predField]

end Sys2Proof
end

section
/-! SUPPORT. What a scalar instruction whose guard holds answers: one rule for each form of operands (R76, R88, R90, R98). Each takes
the form that the instruction's meaning has, which is exec unfolded, and the value that the form's function gives. -/

namespace Sys2Proof.Machine

section
variable {i : Instr} {n : Nat} {g : Guard} {d a b : BitVec 6} {pd px py : BitVec 4} {imm : BitVec 33} {v : W64} {s : State}

/-- Three registers (R88). -/
theorem exec_rrr (f : W64 → W64 → W64) (h : guardOk g s = true) (hi : exec i s = rrr n f g d a b s)
    (hv : f (s.me.r.getS a) (s.me.r.getS b) = v) : exec i s = .next (toS n d v s) := by
  rw [hi, rrr, guarded_true _ h, hv]

/-- A register and the immediate (R90). -/
theorem exec_rri (f : W64 → W64 → W64) (h : guardOk g s = true) (hi : exec i s = rri n f g d a imm s) :
    exec i s = .next (toS n d (f (s.me.r.getS a) (imm.signExtend 64)) s) := by
  rw [hi, rri, guarded_true _ h, immS]

/-- One source register. -/
theorem exec_rr1 (f : W64 → W64) (h : guardOk g s = true) (hi : exec i s = rr1 n f g d a s)
    (hv : f (s.me.r.getS a) = v) : exec i s = .next (toS n d v s) := by
  rw [hi, rr1, guarded_true _ h, hv]

/-- Any other scalar result. -/
theorem exec_toS {u : W64} (h : guardOk g s = true) (hi : exec i s = guarded g s (toS n d u)) (hv : u = v) :
    exec i s = .next (toS n d v s) := by
  rw [hi, guarded_true _ h, hv]

/-- A whole predicate. -/
theorem exec_toP {u : W64} (h : guardOk g s = true) (hi : exec i s = guarded g s (toP n pd u)) (hv : u = v) :
    exec i s = .next (toP n pd v s) := by
  rw [hi, guarded_true _ h, hv]

theorem allBits_eq_ite {c : Bool} {p : Prop} [Decidable p] (h : c = true ↔ p) : allBits c = if p then 0xFFFFFFFFFFFFFFFF else 0 :=
  if_congr h rfl rfl

/-- A compare of two registers: all ones if the condition that its test decides holds, 0 otherwise (R98). -/
theorem exec_cmpRR (f : W64 → W64 → Bool) {p : Prop} [Decidable p] (h : guardOk g s = true) (hi : exec i s = cmpRR f g pd a b s)
    (hp : f (s.me.r.getS a) (s.me.r.getS b) = true ↔ p) :
    exec i s = .next (toP 1 pd (if p then 0xFFFFFFFFFFFFFFFF else 0) s) :=
  exec_toP h hi (allBits_eq_ite hp)

/-- A compare with the immediate (R98). -/
theorem exec_cmpRI (f : W64 → W64 → Bool) {p : Prop} [Decidable p] (h : guardOk g s = true) (hi : exec i s = cmpRI f g pd a imm s)
    (hp : f (s.me.r.getS a) (imm.signExtend 64) = true ↔ p) :
    exec i s = .next (toP 1 pd (if p then 0xFFFFFFFFFFFFFFFF else 0) s) :=
  exec_toP h hi (allBits_eq_ite hp)

end

end Sys2Proof.Machine
end

section
/-! SUPPORT. The values of the arithmetic functions of the scalar slot (R88, R89, R91). -/

namespace Sys2Proof.Machine

theorem ofInt_extractLsb'_high (p : Int) : (BitVec.ofInt 128 p).extractLsb' 64 64 = BitVec.ofInt 64 (p / 2 ^ 64) := by
  apply BitVec.eq_of_toNat_eq
  simp only [BitVec.extractLsb'_toNat, BitVec.toNat_ofInt, Nat.shiftRight_eq_div_pow]
  omega

theorem mulHigh_eq (a b : W64) : mulHigh a b = (a.signExtend 128 * b.signExtend 128).extractLsb' 64 64 := by
  have hp : a.signExtend 128 * b.signExtend 128 = BitVec.ofInt 128 (a.toInt * b.toInt) := (BitVec.ofInt_mul _ _).symm
  rw [hp, ofInt_extractLsb'_high]
  rfl

theorem mulHighN_eq (a b : W64) : mulHighN a b = (a.setWidth 128 * b.setWidth 128).extractLsb' 64 64 := by
  have hp : a.setWidth 128 * b.setWidth 128 = BitVec.ofInt 128 ((a.toNat * b.toNat : Nat) : Int) := by
    rw [BitVec.ofInt_natCast, BitVec.ofNat_mul, BitVec.ofNat_toNat, BitVec.ofNat_toNat]
  rw [hp, ofInt_extractLsb'_high]
  exact (BitVec.ofInt_natCast ..).symm

theorem quot_eq_sdiv (a b : W64) : quot a b = a.sdiv b :=
  BitVec.eq_of_toInt_eq (by rw [BitVec.toInt_sdiv, quot, BitVec.toInt_ofInt])

theorem quotN_eq_udiv (a b : W64) : quotN a b = a.udiv b := by
  rw [quotN, ← BitVec.toNat_udiv, BitVec.ofNat_toNat, BitVec.setWidth_eq]
  rfl

theorem remS_eq_srem (a b : W64) : remS a b = a.srem b := by
  rw [remS, Int.mul_comm, ← Int.tmod_def, ← BitVec.toInt_srem, BitVec.ofInt_toInt]

theorem remN_eq_umod (a b : W64) : remN a b = a.umod b := by
  rw [remN, Nat.mul_comm, ← Nat.mod_eq_sub_mul_div, ← BitVec.toNat_umod, BitVec.ofNat_toNat, BitVec.setWidth_eq]
  rfl

/-- Saturation to 64 bits is a clamp to the signed range, and the flag says whether it moved the value. -/
theorem satS_64 (x : Int) :
    satS x 64 = (max (-2 ^ 63) (min x (2 ^ 63 - 1)), if max (-2 ^ 63) (min x (2 ^ 63 - 1)) = x then 0 else 0x20) := by
  simp only [satS, flSAT]
  by_cases lo : x < -2 ^ 63
  · have hc : max (-2 ^ 63) (min x (2 ^ 63 - 1)) = -2 ^ 63 := by omega
    rw [if_pos (by omega), hc, if_neg (by omega)]; rfl
  · by_cases hi : 2 ^ 63 - 1 < x
    · have hc : max (-2 ^ 63) (min x (2 ^ 63 - 1)) = 2 ^ 63 - 1 := by omega
      rw [if_neg (by omega), if_pos (by omega), hc, if_neg (by omega)]; rfl
    · have hc : max (-2 ^ 63) (min x (2 ^ 63 - 1)) = x := by omega
      rw [if_neg (by omega), if_neg (by omega), hc, if_pos rfl]

/-- SExt of R7 is the two's-complement reading of the low bits. -/
theorem sext_toNat (a : W64) (n : Nat) : sext a.toNat n = (a.setWidth n).toInt := by
  simp only [sext, BitVec.toInt, BitVec.toNat_setWidth]

theorem ofNat_mod_two_pow (a : W64) (n : Nat) : BitVec.ofNat 64 (a.toNat % 2 ^ n) = (a.setWidth n).setWidth 64 := by
  rw [← BitVec.toNat_setWidth, BitVec.ofNat_toNat]

end Sys2Proof.Machine
end

section
/-! SUPPORT. The values of rotations, counts, byte order, extremes and bit fields (R93 to R97, R99). -/

namespace Sys2Proof.Machine

/-! Shifts (R93). -/

theorem toNat_low6 (b : W64) : b.toNat % 64 = (b.extractLsb' 0 6).toNat := by
  rw [BitVec.extractLsb'_toNat, Nat.shiftRight_zero]

theorem toNat_amount (sh : BitVec 6) : (sh.setWidth 64).toNat % 64 = sh.toNat := by
  rw [BitVec.toNat_setWidth]
  omega

theorem rolW_eq_rotateLeft (a b : W64) : rolW a b = a.rotateLeft (b.extractLsb' 0 6).toNat := by
  rw [← toNat_low6, BitVec.rotateLeft_def, Nat.mod_mod]
  rfl

theorem rorW_eq_rotateRight (a b : W64) : rorW a b = a.rotateRight (b.extractLsb' 0 6).toNat := by
  rw [← toNat_low6, BitVec.rotateRight_def, Nat.mod_mod]
  rfl

/-! Counts (R95, R99). -/

theorem leadZeros_le (x n : Nat) : leadZeros x n ≤ n := by
  induction n with
  | zero => exact Nat.le_refl 0
  | succ n ih => unfold leadZeros; split <;> omega

theorem testBit_above_leadZeros (x n i : Nat) (hi : n - leadZeros x n ≤ i) (hn : i < n) : x.testBit i = false := by
  induction n with
  | zero => omega
  | succ n ih =>
    unfold leadZeros at hi
    split at hi
    next => omega
    next hb =>
      rcases Nat.lt_succ_iff_lt_or_eq.1 hn with h | rfl
      · exact ih (by omega) h
      · exact Bool.eq_false_iff.2 hb

theorem testBit_below_leadZeros (x n : Nat) (h : leadZeros x n < n) : x.testBit (n - 1 - leadZeros x n) = true := by
  induction n with
  | zero => omega
  | succ n ih =>
    unfold leadZeros at h ⊢
    split at h
    next hb => rw [if_pos hb]; exact hb
    next hb =>
      rw [if_neg hb, show n + 1 - 1 - (1 + leadZeros x n) = n - 1 - leadZeros x n by omega]
      exact ih (by omega)

theorem trailZeros_le (x i n : Nat) : trailZeros x i n ≤ n := by
  induction n generalizing i with
  | zero => exact Nat.le_refl 0
  | succ n ih => unfold trailZeros; have := ih (i + 1); split <;> omega

theorem testBit_below_trailZeros (x i n k : Nat) (hi : i ≤ k) (hk : k < i + trailZeros x i n) : x.testBit k = false := by
  induction n generalizing i with
  | zero => unfold trailZeros at hk; omega
  | succ n ih =>
    unfold trailZeros at hk
    split at hk
    next => omega
    next hb =>
      rcases Nat.eq_or_lt_of_le hi with rfl | h
      · exact Bool.eq_false_iff.2 hb
      · exact ih (i + 1) h (by omega)

theorem testBit_at_trailZeros (x i n : Nat) (h : trailZeros x i n < n) : x.testBit (i + trailZeros x i n) = true := by
  induction n generalizing i with
  | zero => omega
  | succ n ih =>
    unfold trailZeros at h ⊢
    split at h
    next hb => rw [if_pos hb]; exact hb
    next hb =>
      rw [if_neg hb, ← Nat.add_assoc]
      exact ih (i + 1) (by omega)

theorem popBits_eq_countP (x n : Nat) : popBits x n = (List.range n).countP (x.testBit ·) := by
  induction n with
  | zero => rfl
  | succ n ih => simp only [popBits, ih, List.range_succ, List.countP_append, List.countP_singleton]; omega

theorem foldl_count (p : Nat → Bool) (l : List Nat) (k : Nat) :
    l.foldl (fun n i => if p i then n + 1 else n) k = k + l.countP p := by
  induction l generalizing k with
  | nil => rfl
  | cons y l ih => rw [List.foldl_cons, ih, List.countP_cons]; split <;> omega

theorem popP_eq_countP (x : W64) : popP x = BitVec.ofNat 64 ((List.range 64).countP fun i => x.getLsbD i) := by
  rw [popP, foldl_count, Nat.zero_add]

/-! Byte order (R95). -/

theorem getLsbD_foldl_or (f : Nat → W64) (l : List Nat) (z : W64) (i : Nat) :
    (l.foldl (fun r j => r ||| f j) z).getLsbD i = (z.getLsbD i || l.any fun j => (f j).getLsbD i) := by
  induction l generalizing z with
  | nil => simp
  | cons y l ih => rw [List.foldl_cons, ih, BitVec.getLsbD_or, List.any_cons, Bool.or_assoc]

/-- Byte m of a, moved to byte 7 - m: its bits are those of that byte, and no bit elsewhere is set. -/
theorem getLsbD_movedByte (a : W64) (m i : Nat) (hi : i < 64) :
    (((a >>> (8 * m)) &&& 0xFF) <<< (8 * (7 - m))).getLsbD i =
      (decide (8 * (7 - m) ≤ i ∧ i < 8 * (7 - m) + 8) && a.getLsbD (8 * m + (i - 8 * (7 - m)))) := by
  have hm : (0xFF : W64) = BitVec.ofNat 64 (2 ^ 8 - 1) := rfl
  simp only [hm, BitVec.getLsbD_shiftLeft, BitVec.getLsbD_and, BitVec.getLsbD_ushiftRight, BitVec.getLsbD_ofNat,
    Nat.testBit_two_pow_sub_one]
  grind

/-- Of the bytes that bswap collects, only byte 7 - j has bits in byte j. -/
theorem getLsbD_bswapW (a : W64) (j k : Nat) (hj : j < 8) (hk : k < 8) :
    (bswapW a).getLsbD (8 * j + k) = a.getLsbD (8 * (7 - j) + k) := by
  have h0 : (0 : W64).getLsbD (8 * j + k) = false := BitVec.getLsbD_zero
  have hself : 7 - (7 - j) = j := by omega
  have hpos : 8 * j + k - 8 * j = k := by omega
  rw [bswapW, getLsbD_foldl_or, h0, Bool.false_or, Bool.eq_iff_iff, List.any_eq_true]
  constructor
  · rintro ⟨m, hm, hb⟩
    rw [List.mem_range] at hm
    rw [getLsbD_movedByte a m _ (by omega), Bool.and_eq_true, decide_eq_true_iff] at hb
    obtain ⟨hbyte, hb⟩ := hb
    obtain rfl : m = 7 - j := by omega
    rwa [hself, hpos] at hb
  · intro hb
    refine ⟨7 - j, List.mem_range.2 (by omega), ?_⟩
    rw [getLsbD_movedByte a _ _ (by omega), Bool.and_eq_true, decide_eq_true_iff, hself, hpos]
    exact ⟨by omega, hb⟩

theorem bswapW_byte (a : W64) (j : Nat) (hj : j < 8) : (bswapW a).extractLsb' (8 * j) 8 = a.extractLsb' (8 * (7 - j)) 8 := by
  apply BitVec.eq_of_getLsbD_eq
  intro k hk
  rw [BitVec.getLsbD_extractLsb', BitVec.getLsbD_extractLsb', getLsbD_bswapW a j k hj hk]

/-! Extremes (R94). -/

theorem ite_slt_eq_min (a b : W64) : (if a.slt b then a else b) = BitVec.ofInt 64 (min a.toInt b.toInt) := by
  simp only [BitVec.slt_iff_toInt_lt]
  split
  next h => rw [min_eq_left h.le, BitVec.ofInt_toInt]
  next h => rw [min_eq_right (not_lt.1 h), BitVec.ofInt_toInt]

theorem ite_slt_eq_max (a b : W64) : (if a.slt b then b else a) = BitVec.ofInt 64 (max a.toInt b.toInt) := by
  simp only [BitVec.slt_iff_toInt_lt]
  split
  next h => rw [max_eq_right h.le, BitVec.ofInt_toInt]
  next h => rw [max_eq_left (not_lt.1 h), BitVec.ofInt_toInt]

theorem ite_lt_eq_min (a b : W64) : (if a < b then a else b) = BitVec.ofNat 64 (min a.toNat b.toNat) := by
  simp only [BitVec.lt_def]
  split
  next h => rw [min_eq_left h.le, BitVec.ofNat_toNat, BitVec.setWidth_eq]
  next h => rw [min_eq_right (not_lt.1 h), BitVec.ofNat_toNat, BitVec.setWidth_eq]

theorem ite_lt_eq_max (a b : W64) : (if a < b then b else a) = BitVec.ofNat 64 (max a.toNat b.toNat) := by
  simp only [BitVec.lt_def]
  split
  next h => rw [max_eq_right h.le, BitVec.ofNat_toNat, BitVec.setWidth_eq]
  next h => rw [max_eq_left (not_lt.1 h), BitVec.ofNat_toNat, BitVec.setWidth_eq]

theorem neg_eq_ofInt (a : W64) : -a = BitVec.ofInt 64 (-a.toInt) := by
  rw [BitVec.ofInt_neg, BitVec.ofInt_toInt]

theorem ite_msb_eq_natAbs (a : W64) : (if a.msb then -a else a) = BitVec.ofInt 64 a.toInt.natAbs := by
  simp only [BitVec.msb_eq_toInt, decide_eq_true_iff]
  split
  next h => rw [Int.ofNat_natAbs_of_nonpos h.le, neg_eq_ofInt]
  next h => rw [Int.natAbs_of_nonneg (not_lt.1 h), BitVec.ofInt_toInt]

/-! Bit fields and constants (R96, R97). -/

theorem fieldW_pos (pos w1 : BitVec 6) : 0 < fieldW pos w1 := by
  unfold fieldW
  omega

theorem fieldOf_eq (a : W64) (pos w1 : BitVec 6) : fieldOf a pos w1 = a.toNat / 2 ^ pos.toNat % 2 ^ fieldW pos w1 := by
  have he := fieldW_pos pos w1
  rw [fieldOf, natBits, Nat.shiftRight_eq_div_pow,
    show pos.toNat + fieldW pos w1 - 1 + 1 - pos.toNat = fieldW pos w1 by omega]

/-- SExt of a value that fits its width: 2^e is taken off from the half range up. -/
theorem sext_of_lt {f e : Nat} (hf : f < 2 ^ e) (he : 0 < e) :
    sext f e = if f < 2 ^ (e - 1) then (f : Int) else (f : Int) - 2 ^ e := by
  have half : 2 ^ e = 2 * 2 ^ (e - 1) := by rw [← Nat.pow_succ', Nat.succ_eq_add_one, Nat.sub_one_add_one he.ne']
  rw [sext, Nat.mod_eq_of_lt hf]
  exact if_congr (by omega) rfl (by push_cast; rfl)

theorem getLsbD_insField (old a : W64) (pos w1 : BitVec 6) (i : Nat) (hi : i < 64) : (insField old a pos w1).getLsbD i =
    if pos.toNat ≤ i ∧ i < pos.toNat + fieldW pos w1 then a.getLsbD (i - pos.toNat) else old.getLsbD i := by
  simp only [insField, BitVec.getLsbD_or, BitVec.getLsbD_and, BitVec.getLsbD_not, BitVec.getLsbD_shiftLeft, BitVec.getLsbD_ofNat,
    Nat.testBit_shiftLeft, Nat.testBit_two_pow_sub_one, hi]
  grind

theorem append_low_eq (lo : BitVec 32) (old : W64) :
    (lo ++ old.setWidth 32 : W64) = lo.setWidth 64 <<< 32 ||| old &&& 0xFFFFFFFF := by
  have hm : (0xFFFFFFFF : W64) = BitVec.ofNat 64 (2 ^ 32 - 1) := rfl
  apply BitVec.eq_of_getLsbD_eq
  intro i hi
  simp only [hm, BitVec.getLsbD_append, BitVec.getLsbD_or, BitVec.getLsbD_and, BitVec.getLsbD_setWidth, BitVec.getLsbD_shiftLeft,
    BitVec.getLsbD_ofNat, Nat.testBit_two_pow_sub_one, hi]
  grind

end Sys2Proof.Machine
end

section
/-! Integer arithmetic, division, saturating sums and extensions of the scalar slot (R88 to R91). -/

namespace Sys2Proof.Machine

/-- A saturating result is the clamped value with SAT, set if it was clamped and only then. -/
theorem satRes_eq (x : Int) (d : BitVec 6) (s : State) :
    satRes x d s = deliver 1 (.flags (if max (-2 ^ 63) (min x (2 ^ 63 - 1)) = x then 0 else 0x20))
      (toS 1 d (BitVec.ofInt 64 (max (-2 ^ 63) (min x (2 ^ 63 - 1)))) s) := by
  simp only [satRes, satS_64, toSFlags]

theorem exec_satRes {i : Instr} {g : Guard} {d : BitVec 6} {x : Int} {s : State} (h : guardOk g s = true)
    (hi : exec i s = guarded g s (satRes x d)) :
    exec i s = .next (deliver 1 (.flags (if max (-2 ^ 63) (min x (2 ^ 63 - 1)) = x then 0 else 0x20))
      (toS 1 d (BitVec.ofInt 64 (max (-2 ^ 63) (min x (2 ^ 63 - 1)))) s)) := by
  rw [hi, guarded_true _ h, satRes_eq]

/-- Settles O11: each form of operands by its rule, each value by the law of its function, and the words by the decoder's table. -/
theorem integerArithmetic : Obligations.IntegerArithmetic := by
  unfold Obligations.IntegerArithmetic
  refine ⟨?arithmetic, ?division, ?saturating, ?extension, ?words⟩
  case arithmetic =>
    intro g d a b imm s h
    exact ⟨rfl, exec_rrr (· + ·) h rfl rfl, exec_rrr (· - ·) h rfl rfl, exec_rrr (· * ·) h rfl rfl,
      exec_rrr mulHigh h rfl (mulHigh_eq _ _), exec_rrr mulHighN h rfl (mulHighN_eq _ _),
      exec_rri (· + ·) h rfl, exec_rri (· * ·) h rfl⟩
  case division =>
    intro g d a b s h
    dsimp only
    refine ⟨exec_rrr quot h rfl (quot_eq_sdiv _ _), exec_rrr quotN h rfl (quotN_eq_udiv _ _),
      exec_rrr remS h rfl (remS_eq_srem _ _), exec_rrr remN h rfl (remN_eq_umod _ _), fun hy => ?byZero, fun hx hy => ?overflow⟩
    case byZero =>
      exact ⟨exec_rrr quot h rfl (by rw [quot_eq_sdiv, hy]; exact BitVec.sdiv_zero),
        exec_rrr quotN h rfl (by rw [quotN_eq_udiv, hy]; exact BitVec.udiv_zero),
        exec_rrr remS h rfl (by rw [remS_eq_srem, hy]; exact BitVec.srem_zero),
        exec_rrr remN h rfl (by rw [remN_eq_umod, hy]; exact BitVec.umod_zero)⟩
    case overflow =>
      exact ⟨exec_rrr quot h rfl (by rw [hx, hy]; decide), exec_rrr remS h rfl (by rw [hx, hy]; decide)⟩
  case saturating =>
    intro g d a b s h
    exact ⟨exec_satRes h rfl, exec_satRes h rfl⟩
  case extension =>
    intro g d a w1 s h
    exact ⟨exec_rr1 (fun x => BitVec.ofInt 64 (sext x.toNat (w1.toNat + 1))) h rfl (congrArg (BitVec.ofInt 64) (sext_toNat _ _)),
      exec_rr1 (fun x => BitVec.ofNat 64 (x.toNat % 2 ^ (w1.toNat + 1))) h rfl (ofNat_mod_two_pow _ _)⟩
  case words =>
    intro g d a b w1 imm z word
    exact ⟨decodeSlot_arith rfl, decodeSlot_arith rfl, decodeSlot_arith rfl, decodeSlot_arith rfl, decodeSlot_arith rfl,
      decodeSlot_arith rfl, decodeSlot_arith rfl, decodeSlot_arith rfl, decodeSlot_arith rfl, decodeSlot_arith rfl,
      decodeSlot_arith rfl, decodeSlot_arith rfl, decodeSlot_arith rfl,
      decodeSlot_arith (some_lowField (.sext g d a) z w1), decodeSlot_arith (some_lowField (.zext g d a) z w1)⟩

end Sys2Proof.Machine
end

section
/-! Logic, shifts, counts, extremes, bit fields and moves of the scalar slot (R92 to R97). -/

namespace Sys2Proof.Machine

section
variable {g : Guard} {s : State} (d a : BitVec 6)

theorem exec_clz_spec (h : guardOk g s = true) :
    ∃ n, n ≤ 64 ∧ exec (.clz g d a) s = .next (toS 1 d (BitVec.ofNat 64 n) s) ∧
      (∀ i, 64 - n ≤ i → (s.me.r.getS a).getLsbD i = false) ∧ (n < 64 → (s.me.r.getS a).getLsbD (63 - n) = true) := by
  refine ⟨_, leadZeros_le _ 64, exec_rr1 (fun x => BitVec.ofNat 64 (leadZeros x.toNat 64)) h rfl rfl, fun i hi => ?_,
    testBit_below_leadZeros _ 64⟩
  by_cases hlt : i < 64
  · exact testBit_above_leadZeros _ 64 i hi hlt
  · exact BitVec.getLsbD_of_ge _ i (not_lt.1 hlt)

theorem exec_ctz_spec (h : guardOk g s = true) :
    ∃ n, n ≤ 64 ∧ exec (.ctz g d a) s = .next (toS 1 d (BitVec.ofNat 64 n) s) ∧
      (∀ i, i < n → (s.me.r.getS a).getLsbD i = false) ∧ (n < 64 → (s.me.r.getS a).getLsbD n = true) := by
  refine ⟨trailZeros (s.me.r.getS a).toNat 0 64, trailZeros_le _ 0 64,
    exec_rr1 (fun x => BitVec.ofNat 64 (trailZeros x.toNat 0 64)) h rfl rfl, fun i hi => ?_, fun hn => ?_⟩
  · exact testBit_below_trailZeros _ 0 64 i (Nat.zero_le i) (by omega)
  · have hb := testBit_at_trailZeros _ 0 64 hn
    rwa [Nat.zero_add] at hb

/-- The signed value of a field, in the terms of R96. -/
theorem sext_fieldOf (x : W64) (pos w1 : BitVec 6) :
    let e := fieldW pos w1
    let f := x.toNat / 2 ^ pos.toNat % 2 ^ e
    sext (fieldOf x pos w1) e = if f < 2 ^ (e - 1) then (f : Int) else (f : Int) - 2 ^ e := by
  rw [fieldOf_eq]
  exact sext_of_lt (Nat.mod_lt _ (Nat.two_pow_pos _)) (fieldW_pos pos w1)

end

/-- Settles O12: each form of operands by its rule, each value by the law of its function, and the words by the decoder's table. -/
theorem logicShiftAndFields : Obligations.LogicShiftAndFields := by
  unfold Obligations.LogicShiftAndFields
  refine ⟨?logicAndShifts, ?counts, ?extremes, ?fieldsAndMoves, ?words⟩
  case logicAndShifts =>
    intro g d a b sh imm s h
    exact ⟨exec_rrr (· &&& ·) h rfl rfl, exec_rrr (· ||| ·) h rfl rfl, exec_rrr (· ^^^ ·) h rfl rfl,
      exec_rrr (fun x y => x &&& ~~~y) h rfl rfl, exec_rrr (fun x y => x ||| ~~~y) h rfl rfl,
      exec_rrr (fun x y => ~~~(x ^^^ y)) h rfl rfl,
      exec_rri (· &&& ·) h rfl, exec_rri (· ||| ·) h rfl, exec_rri (· ^^^ ·) h rfl,
      exec_rrr shlW h rfl (congrArg (_ <<< ·) (toNat_low6 _)), exec_rrr shrW h rfl (congrArg (_ >>> ·) (toNat_low6 _)),
      exec_rrr sarW h rfl (congrArg (BitVec.sshiftRight _) (toNat_low6 _)),
      exec_rrr rolW h rfl (rolW_eq_rotateLeft _ _), exec_rrr rorW h rfl (rorW_eq_rotateRight _ _),
      exec_rr1 (shlW · (sh.setWidth 64)) h rfl (congrArg (_ <<< ·) (toNat_amount sh)),
      exec_rr1 (shrW · (sh.setWidth 64)) h rfl (congrArg (_ >>> ·) (toNat_amount sh)),
      exec_rr1 (sarW · (sh.setWidth 64)) h rfl (congrArg (BitVec.sshiftRight _) (toNat_amount sh))⟩
  case counts =>
    intro g d a s h
    exact ⟨exec_clz_spec d a h, exec_ctz_spec d a h, exec_rr1 (fun x => BitVec.ofNat 64 (popBits x.toNat 64)) h rfl
        (congrArg (BitVec.ofNat 64) (popBits_eq_countP _ 64)),
      _, exec_rr1 bswapW h rfl rfl, fun j hj => bswapW_byte _ j hj⟩
  case extremes =>
    intro g d a b s h
    dsimp only
    exact ⟨exec_rrr (fun x y => if x.slt y then x else y) h rfl (ite_slt_eq_min _ _),
      exec_rrr (fun x y => if x.slt y then y else x) h rfl (ite_slt_eq_max _ _),
      exec_rrr (fun x y => if x < y then x else y) h rfl (ite_lt_eq_min _ _),
      exec_rrr (fun x y => if x < y then y else x) h rfl (ite_lt_eq_max _ _),
      exec_rr1 (fun x => if x.msb then -x else x) h rfl (ite_msb_eq_natAbs _), exec_rr1 (- ·) h rfl (neg_eq_ofInt _),
      fun hx => ⟨exec_rr1 (fun x => if x.msb then -x else x) h rfl (by rw [hx]; decide),
        exec_rr1 (- ·) h rfl (by rw [hx]; decide)⟩⟩
  case fieldsAndMoves =>
    intro g d a b pos w1 j imm lo s h
    exact ⟨exec_rr1 (fun x => BitVec.ofInt 64 (sext (fieldOf x pos w1) (fieldW pos w1))) h rfl
        (congrArg (BitVec.ofInt 64) (sext_fieldOf _ pos w1)),
      exec_rr1 (fun x => BitVec.ofNat 64 (fieldOf x pos w1)) h rfl (congrArg (BitVec.ofNat 64) (fieldOf_eq _ pos w1)),
      ⟨_, exec_toS h rfl rfl, getLsbD_insField _ _ pos w1⟩,
      exec_toS h rfl rfl, exec_toS h rfl rfl, exec_toS h rfl (append_low_eq lo _), exec_rr1 id h rfl rfl⟩
  case words =>
    intro g d a b pos w1 j imm lo x y z z27 word
    exact ⟨decodeSlot_arith rfl, decodeSlot_arith rfl, decodeSlot_arith rfl, decodeSlot_arith rfl, decodeSlot_arith rfl,
      decodeSlot_arith rfl, decodeSlot_arith rfl, decodeSlot_arith rfl, decodeSlot_arith rfl, decodeSlot_arith rfl,
      decodeSlot_arith rfl,
      decodeSlot_arith (some_lowField (.shli g d a) z27 w1), decodeSlot_arith (some_lowField (.shri g d a) z27 w1),
      decodeSlot_arith (some_lowField (.sari g d a) z27 w1),
      decodeSlot_arith rfl, decodeSlot_arith rfl, decodeSlot_arith rfl, decodeSlot_arith rfl, decodeSlot_arith rfl,
      decodeSlot_arith rfl, decodeSlot_arith rfl, decodeSlot_arith rfl, decodeSlot_arith rfl, decodeSlot_arith rfl,
      decodeSlot_arith rfl, decodeSlot_arith rfl, decodeSlot_arith rfl,
      decodeSlot_arith (some_posWidth (.bexs g d a) y w1 pos), decodeSlot_arith (some_posWidth (.bexz g d a) y w1 pos),
      decodeSlot_arith (some_posWidth (.bins g d a) y w1 pos), decodeSlot_arith (some_lowField (.sel g d a b) x j),
      decodeSlot_arith rfl, decodeSlot_arith (some_lowField (.lih g d) z lo), decodeSlot_arith rfl⟩

end Sys2Proof.Machine
end

section
/-! Compares and predicate operations of the scalar slot (R98, R99). -/

namespace Sys2Proof.Machine

theorem beq_signExtend_iff (x : W64) (imm : BitVec 33) : (x == imm.signExtend 64) = true ↔ x.toInt = imm.toInt := by
  rw [beq_iff_eq, ← BitVec.toInt_inj, BitVec.toInt_signExtend_of_le (by decide)]

theorem slt_signExtend_iff (x : W64) (imm : BitVec 33) : x.slt (imm.signExtend 64) = true ↔ x.toInt < imm.toInt := by
  rw [BitVec.slt_iff_toInt_lt, BitVec.toInt_signExtend_of_le (by decide)]

/-- Settles O13: each compare by the condition that its test decides, each predicate operation by its rule, and the words by the
decoder's table with its fields of predicate numbers. -/
theorem comparesAndPredicates : Obligations.ComparesAndPredicates := by
  unfold Obligations.ComparesAndPredicates
  refine ⟨?compares, ?predicates, ?words⟩
  case compares =>
    intro g pd a b imm s h
    exact ⟨exec_cmpRR (· == ·) h rfl beq_iff_eq, exec_cmpRR (· != ·) h rfl bne_iff_ne,
      exec_cmpRR BitVec.slt h rfl BitVec.slt_iff_toInt_lt, exec_cmpRR BitVec.sle h rfl BitVec.sle_iff_toInt_le,
      exec_cmpRR BitVec.ult h rfl BitVec.ult_iff_toNat_lt, exec_cmpRR BitVec.ule h rfl BitVec.ule_iff_toNat_le,
      exec_cmpRI (· == ·) h rfl (beq_signExtend_iff _ imm), exec_cmpRI BitVec.slt h rfl (slt_signExtend_iff _ imm)⟩
  case predicates =>
    intro g pd px py d a s h
    exact ⟨exec_toP h rfl rfl, exec_toP h rfl rfl, exec_toP h rfl rfl, exec_toP h rfl rfl, exec_toP h rfl rfl,
      exec_toP h rfl rfl, exec_toP h rfl rfl, exec_toS h rfl rfl, exec_toS h rfl (popP_eq_countP _)⟩
  case words =>
    intro g pd px py d a b imm word
    exact ⟨decodeSlot_pred (some_predField (.cmpeq g · a b) pd), decodeSlot_pred (some_predField (.cmpne g · a b) pd),
      decodeSlot_pred (some_predField (.cmplt g · a b) pd), decodeSlot_pred (some_predField (.cmple g · a b) pd),
      decodeSlot_pred (some_predField (.cmpltn g · a b) pd), decodeSlot_pred (some_predField (.cmplen g · a b) pd),
      decodeSlot_pred (some_predField (.cmpeqi g · a imm) pd), decodeSlot_pred (some_predField (.cmplti g · a imm) pd),
      decodeSlot_pred (some_predField₃ (.pand g) pd px py), decodeSlot_pred (some_predField₃ (.por g) pd px py),
      decodeSlot_pred (some_predField₃ (.pxor g) pd px py), decodeSlot_pred (some_predField₃ (.pandn g) pd px py),
      decodeSlot_pred (some_predField₂ (.pnot g) pd px), decodeSlot_pred (some_predField₂ (.pmov g) pd px),
      decodeSlot_pred (some_predField (.pset g · a) pd), decodeSlot_pred (some_predField (.pget g d) px),
      decodeSlot_pred (some_predField (.pcnt g d) px)⟩

end Sys2Proof.Machine
end

section
/-! SUPPORT. Words of the scalar slot that the decoder's table of memory and synchronisation reads (R178 to R215). -/

namespace Sys2Proof

/-- A word with an operation code from 0x60 to 0x9F is read by the table of memory and synchronisation. -/
theorem decodeSlot_mem {g : Guard} {op : Byte} {dst sra srb : BitVec 6} {imm : BitVec 33} {i : Instr}
    (hi : decodeSMem ⟨op, dst, sra, srb, g.p, g.neg, imm⟩ = some i)
    (hop : 0x60 ≤ op.toNat ∧ op.toNat < 0xA0 := by decide) :
    decodeSlot (.sca (op ++ dst ++ sra ++ srb ++ g.p ++ BitVec.ofBool g.neg ++ imm)) = some i := by
  have h0 : op ≠ 0 := by rintro rfl; simp at hop
  have h1 : ¬ op.toNat < 0x40 := by omega
  have h2 : ¬ op.toNat < 0x60 := by omega
  simp only [decodeSlot, decodeScalar, unpackS_append, if_neg h0, if_neg h1, if_neg h2, if_pos hop.2, hi]

/-- The three consumed tokens of tkwait in IMM (R195). -/
theorem some_tokenFields (f : BitVec 6 → BitVec 6 → BitVec 6 → Instr) {n : Nat} (z : BitVec n) (ta tb tc : BitVec 6) :
    some (f ((z ++ tc ++ tb ++ ta).extractLsb' 0 6) ((z ++ tc ++ tb ++ ta).extractLsb' 6 6) ((z ++ tc ++ tb ++ ta).extractLsb' 12 6)) =
      some (f ta tb tc) := by
  have ha : (z ++ tc ++ tb ++ ta).extractLsb' 0 6 = ta := BitVec.extractLsb'_append_eq_right
  have hb : (z ++ tc ++ tb ++ ta).extractLsb' 6 6 = tb := by
    rw [BitVec.extractLsb'_append_eq_of_le (Nat.le_refl 6)]
    exact BitVec.extractLsb'_append_eq_right
  have hc : (z ++ tc ++ tb ++ ta).extractLsb' 12 6 = tc := by
    rw [BitVec.extractLsb'_append_eq_of_le (by decide : 6 ≤ 12), BitVec.extractLsb'_append_eq_of_le (Nat.le_refl 6)]
    exact BitVec.extractLsb'_append_eq_right
  rw [ha, hb, hc]

/-- A predicate number in the low bits of DST, whatever stands above it, with a field that stands lowest in IMM. -/
theorem some_destAndLowField {n m : Nat} (f : BitVec 4 → BitVec m → Instr) (u : BitVec 2) (p : BitVec 4) (z : BitVec n) (x : BitVec m) :
    some (f ((u ++ p).setWidth 4) ((z ++ x).extractLsb' 0 m)) = some (f p x) := by
  rw [BitVec.setWidth_append_eq_right]
  exact some_lowField (f p) z x

end Sys2Proof
end

section
/-! SUPPORT. Tokens, counted operations at their issue, rings and the held bundle: what each shared operation leaves (R9, R20, R25,
R194, R203). -/

namespace Sys2Proof.Machine

/-! Tokens (R20, R194). -/

@[simp] theorem CoreSt.tokPending_zero (k : CoreSt) : k.tokPending 0 = false := rfl

theorem CoreSt.tokPending_of_ne (k : CoreSt) {t : BitVec 6} (h : t ≠ 0) : k.tokPending t = (k.tok[t.toNat]'t.isLt).pending := by
  rw [tokPending, bne_iff_ne.2 h, Bool.true_and]

/-- A core whose token t is set. -/
def CoreSt.setTok (k : CoreSt) (t : BitVec 6) (x : Tok) : CoreSt := { k with tok := k.tok.set t.toNat x t.isLt }

theorem CoreSt.setTok_getElem (k : CoreSt) (t : BitVec 6) (x : Tok) : (k.setTok t x).tok[t.toNat]'t.isLt = x :=
  Vector.getElem_set_self _

theorem CoreSt.tokPending_setTok_self (k : CoreSt) {t : BitVec 6} (x : Tok) (h : t ≠ 0) : (k.setTok t x).tokPending t = x.pending := by
  rw [tokPending_of_ne _ h, setTok_getElem]

theorem CoreSt.tokPending_setTok_ne (k : CoreSt) {t u : BitVec 6} (x : Tok) (h : u ≠ t) :
    (k.setTok t x).tokPending u = k.tokPending u := by
  have hn : t.toNat ≠ u.toNat := fun e => h (BitVec.eq_of_toNat_eq e.symm)
  simp only [tokPending, setTok, Vector.getElem_set_ne _ _ hn]

theorem CoreSt.produce_of_ne (k : CoreSt) {t : BitVec 6} (src : Nat) (h : t ≠ 0) :
    k.produce t src = ((k.tok[t.toNat]'t.isLt).gen + 1, k.setTok t ⟨(k.tok[t.toNat]'t.isLt).gen + 1, true, false, src⟩) := if_neg h

/-- The producer whose count a token carries completes it. -/
theorem CoreSt.complete_setTok_self (k : CoreSt) {t : BitVec 6} (x : Tok) (h : t ≠ 0) :
    (k.setTok t x).complete t x.gen = (k.setTok t x).setTok t { x with pending := false } := by
  rw [complete, if_neg h]
  dsimp only
  rw [setTok_getElem, if_pos rfl]
  rfl

/-- Any other producer completes nothing. -/
theorem CoreSt.complete_setTok_other (k : CoreSt) {t : BitVec 6} {g : Nat} (x : Tok) (hg : g ≠ x.gen) :
    (k.setTok t x).complete t g = k.setTok t x := by
  simp only [complete, setTok_getElem, if_neg hg.symm, ite_self]

/-- Producing a token changes nothing of a core but its tokens. -/
theorem CoreSt.produce_keeps (k : CoreSt) (t : BitVec 6) (src : Nat) :
    (k.produce t src).2.r = k.r ∧ (k.produce t src).2.loads = k.loads := by
  unfold produce; split <;> exact ⟨rfl, rfl⟩

theorem CoreSt.produce_tokPending (k : CoreSt) {t : BitVec 6} (src : Nat) (h : t ≠ 0) : (k.produce t src).2.tokPending t = true := by
  rw [produce_of_ne k src h]; exact tokPending_setTok_self k _ h

/-! Counted operations (R25). -/

/-- A counted operation joins the core's list at the order of its slot, and takes a number of its own. -/
theorem issueCop_me (dt : Nat) (f : Nat → Nat → Cop) (s : State) :
    (issueCop dt f s).me =
      { s.me with loads := s.me.loads ++ [{ f s.me.nid s.order with badr := s.bun.adr }], nid := s.me.nid + 1 } := by
  simp only [issueCop, State.me, State.after_core, State.after_cur, State.modMe_cur, State.modMe_get]

@[simp] theorem issueCop_mem (dt : Nat) (f : Nat → Nat → Cop) (s : State) : (issueCop dt f s).mem = s.mem := rfl

/-! A bundle that stays held (R9). -/

@[simp] theorem govern_core (c : CoreId) (f : IslandSt → IslandSt) (s : State) : (govern c f s).core = s.core := by
  unfold govern; split <;> rfl

@[simp] theorem govern_mem (c : CoreId) (f : IslandSt → IslandSt) (s : State) : (govern c f s).mem = s.mem := by
  unfold govern; split <;> rfl

@[simp] theorem govern_tick (c : CoreId) (f : IslandSt → IslandSt) (s : State) : (govern c f s).tick = s.tick := by
  unfold govern; split <;> rfl

/-- A control cycle in which only counters of the core change leaves its registers, its deliveries, its place in the program and all
storage, and its next control edge comes one period on. -/
theorem nextCycle_spec (c : CoreId) (f : CoreSt → CoreSt) (g : IslandSt → IslandSt) (s : State)
    (hf : ∀ k, (f k).r = k.r ∧ (f k).pend = k.pend ∧ (f k).seq = k.seq ∧ (f k).div = k.div) :
    let t := nextCycle c (govern c g (s.modC c f))
    (t.core.get c).r = (s.core.get c).r ∧ (t.core.get c).pend = (s.core.get c).pend ∧ (t.core.get c).seq = (s.core.get c).seq ∧
    t.mem = s.mem ∧ (⟨s.tick + (s.core.get c).div.ctl, rankOf t (.edge c), .edge c⟩ : Entry) ∈ t.agenda := by
  obtain ⟨hr, hp, hq, hd⟩ := hf (s.core.get c)
  refine ⟨by simp [nextCycle, hr], by simp [nextCycle, hp], by simp [nextCycle, hq], by simp [nextCycle], ?_⟩
  refine (mem_agenda_at _ _ _ _).2 (.inl ?_)
  simp [rankOf, hd]

/-- A held bundle changes nothing but counters, and the core tries again at its next edge. -/
theorem held_spec (c : CoreId) (h : HoldBy) (s : State) :
    let t := held c h s
    (t.core.get c).r = (s.core.get c).r ∧ (t.core.get c).pend = (s.core.get c).pend ∧ (t.core.get c).seq = (s.core.get c).seq ∧
    t.mem = s.mem ∧ (⟨s.tick + (s.core.get c).div.ctl, rankOf t (.edge c), .edge c⟩ : Entry) ∈ t.agenda :=
  nextCycle_spec c _ _ s fun k => by dsimp only; split <;> exact ⟨rfl, rfl, rfl, rfl⟩

/-- A bundle that no class of its header keeps waiting, and its scalar slot does, is held. -/
theorem tryIssue_scalarHold {c : CoreId} {f : Fetched} {sca : SlotWord} {s : State} {h : HoldBy}
    (hw : waitHold f.hdr (openBundle c f s).me = none) (hs : scalarHold (f.ops.headD .nop) (openBundle c f s) = some h) :
    tryIssue c f sca s = .next (held c h s) := by
  simp only [tryIssue, hw, hs]

/-! Rings (R203, R204). -/

theorem unassigned_iff (x : Ring) (rt : Nat) : unassigned x rt = true ↔ x.w < (rt + 1) * x.target := decide_eq_true_iff

/-- The core's part in a release: Rt of the ring advances, and the release waits for the next checkpoint (R204). -/
def CoreSt.releaseRing (k : CoreSt) (q : BitVec 4) : CoreSt :=
  { k with
    r := { k.r with ringRt := k.r.ringRt.set q.toNat (k.r.getRt q + 1) q.isLt }
    ring := k.ring.set q.toNat { k.getRing q with rels := (k.getRing q).rels + 1 } q.isLt }

@[simp] theorem CoreSt.releaseRing_getRt (k : CoreSt) (q : BitVec 4) : (k.releaseRing q).r.getRt q = k.r.getRt q + 1 :=
  Vector.getElem_set_self _

@[simp] theorem CoreSt.releaseRing_getRing (k : CoreSt) (q : BitVec 4) :
    (k.releaseRing q).getRing q = { k.getRing q with rels := (k.getRing q).rels + 1 } :=
  Vector.getElem_set_self _

end Sys2Proof.Machine
end

section
/-! SUPPORT. The word of rstat (R205): the fields of a word that is written as a sum of weighted fields. -/

namespace Sys2Proof.Machine

/-- A field of a word given by its number: the digits at the field's place. -/
theorem extractLsb'_ofNat {w n a lo len : Nat} (hn : n < 2 ^ w) (ha : n / 2 ^ lo % 2 ^ len = a % 2 ^ len) :
    (BitVec.ofNat w n).extractLsb' lo len = BitVec.ofNat len a := by
  apply BitVec.eq_of_toNat_eq
  rw [BitVec.extractLsb'_toNat, BitVec.toNat_ofNat, BitVec.toNat_ofNat, Nat.mod_eq_of_lt hn, Nat.shiftRight_eq_div_pow, ha]

/-- A bit of a word given by its number. -/
theorem getLsbD_ofNat_eq {w n i : Nat} {b : Bool} (hi : i < w) (hb : n / 2 ^ i % 2 = if b then 1 else 0) :
    (BitVec.ofNat w n).getLsbD i = b := by
  rw [BitVec.getLsbD_ofNat, decide_eq_true hi, Bool.true_and, Nat.testBit_eq_decide_div_mod_eq, hb]
  cases b <;> rfl

/-- The fields of rstat's word, of which none reaches into the next. -/
theorem statusWord_fields (gen ws rs : Nat) (zf fil : Bool) (hw : ws < 2 ^ 8) (hr : rs < 2 ^ 8) :
    let w := BitVec.ofNat 64 (gen % 2 ^ 32 * 2 ^ 32 + (if zf then 1 else 0) * 2 ^ 17 + (if fil then 1 else 0) * 2 ^ 16 + ws * 2 ^ 8 + rs)
    w.extractLsb' 32 32 = BitVec.ofNat 32 gen ∧ w.extractLsb' 18 14 = 0 ∧ w.getLsbD 17 = zf ∧ w.getLsbD 16 = fil ∧
    w.extractLsb' 8 8 = BitVec.ofNat 8 ws ∧ w.extractLsb' 0 8 = BitVec.ofNat 8 rs := by
  have hz : (if zf then 1 else 0) ≤ 1 := by split <;> decide
  have hf : (if fil then 1 else 0) ≤ 1 := by split <;> decide
  refine ⟨extractLsb'_ofNat ?_ ?_, extractLsb'_ofNat (a := 0) ?_ ?_, getLsbD_ofNat_eq (by decide) ?_, getLsbD_ofNat_eq (by decide) ?_,
    extractLsb'_ofNat ?_ ?_, extractLsb'_ofNat ?_ ?_⟩ <;> omega

end Sys2Proof.Machine
end

section
/-! Barriers, tokens and copy rings: their instructions and the life of their state (R194, R195, R202 to R205, R214, R215). -/

namespace Sys2Proof.Machine

/-! Barriers. -/

theorem passed_iff (view cap : BitVec 32) :
    passed view cap = true ↔ 1 ≤ (view - cap).toNat ∧ (view - cap).toNat ≤ 2 ^ 31 - 1 := by
  simp only [passed, Bool.and_eq_true, decide_eq_true_eq]

/-- A barr traps on a pending token, or its token becomes pending and the arrival is counted (R194, R214). -/
theorem exec_barr {g : Guard} {s : State} (d : BitVec 6) (b : BitVec 8) (n1 : BitVec 7) (tp : BitVec 6) (h : guardOk g s = true) :
    exec (.barr g d b n1 tp) s = .next (if s.me.tokPending tp then tokenTrap tp s else issueCop 0
      (newCop (.barr b (n1.toNat + 1) tp (s.me.produce tp 0).1) d 0 .glob 0 0 0 false true 2 none)
      (s.modMe fun _ => (s.me.produce tp 0).2)) := by
  show execBarr g d b n1 tp s = _
  rw [execBarr, guarded_true _ h]

/-- A barr whose token is free: a counted operation whose home will answer, its token pending (R214). -/
theorem exec_barr_arrives {g : Guard} {s : State} (d : BitVec 6) (b : BitVec 8) (n1 : BitVec 7) {tp : BitVec 6}
    (h : guardOk g s = true) (hp : s.me.tokPending tp = false) :
    ∃ t o, exec (.barr g d b n1 tp) s = .next t ∧ t.me.loads = s.me.loads ++ [o] ∧ o.dst = d ∧ o.seq = s.order ∧
      (∃ gen, o.kind = .barr b (n1.toNat + 1) tp gen) ∧ (tp ≠ 0 → t.me.tokPending tp = true) ∧ t.mem = s.mem ∧ t.me.r = s.me.r := by
  obtain ⟨hr, hl⟩ := s.me.produce_keeps tp 0
  rw [exec_barr d b n1 tp h, if_neg (by simp [hp])]
  have hme : (s.modMe fun _ => (s.me.produce tp 0).2).me = (s.me.produce tp 0).2 := State.modMe_me s _
  have hloads := (congrArg CoreSt.loads hme).trans hl
  refine ⟨_, _, rfl, (congrArg CoreSt.loads (issueCop_me _ _ _)).trans (congrArg (· ++ [_]) hloads), rfl, rfl, ⟨_, rfl⟩,
    fun ht => ?pending, issueCop_mem _ _ _, ?regs⟩
  case pending => rw [issueCop_me, hme]; exact s.me.produce_tokPending 0 ht
  case regs => rw [issueCop_me, hme, hr]

/-- The phase size that an arrival of phase size n finds: its own, if it is the first of the phase (R214). -/
def Barrier.phaseSize (b : Barrier) (n : Nat) : Nat := if b.c = 0 then n else b.np

/-- The arrival that makes the count equal the phase size ends the phase; any other is counted in it (R214). -/
theorem Barrier.arrive_eq (b : Barrier) (n : Nat) :
    b.arrive n =
      let m := if n = b.phaseSize n then b.mismatch else b.mismatch + 1
      (b.g, if b.c + 1 = b.phaseSize n then ⟨b.g + 1, 0, b.phaseSize n, m⟩ else ⟨b.g, b.c + 1, b.phaseSize n, m⟩) := by
  unfold arrive phaseSize
  by_cases hfirst : b.c = 0
  · simp [hfirst]
  · by_cases hsame : n = b.np <;> simp [hfirst, hsame]

/-- What an arrival of phase size n leaves, field by field (R214). -/
theorem Barrier.arrive_spec (b : Barrier) (n : Nat) :
    let np := b.phaseSize n
    let r := b.arrive n
    r.1 = b.g ∧ r.2.np = np ∧ r.2.mismatch = (if n = np then b.mismatch else b.mismatch + 1) ∧
    (b.c + 1 = np → r.2.g = b.g + 1 ∧ r.2.c = 0) ∧ (b.c + 1 ≠ np → r.2.g = b.g ∧ r.2.c = b.c + 1) := by
  rw [arrive_eq]
  by_cases hlast : b.c + 1 = b.phaseSize n <;> simp [hlast]

/-- Settles O24: bwait and bgen by the rule of their operands, barr by what a counted operation leaves at its issue, and the home by
what an arrival does. -/
theorem barriers : Obligations.Barriers := by
  unfold Obligations.Barriers
  refine ⟨?instructions, Barrier.arrive_spec, ?words⟩
  case instructions =>
    intro g pd d a b n1 tp s h
    exact ⟨exec_toP h rfl (allBits_eq_ite (passed_iff _ _)), exec_toS h rfl rfl,
      fun hp => by rw [exec_barr d b n1 tp h, if_pos hp, tokenTrap], exec_barr_arrives d b n1 h⟩
  case words =>
    intro g pd d a b bn x u s word
    exact ⟨rfl, decodeSlot_mem (some_destAndLowField (.bwait g · a) u pd x bn), decodeSlot_mem (some_lowField (.bgen g d) x bn)⟩

/-! Tokens. -/

/-- tkwait holds while its guard acts and one of its tokens is pending (R195). -/
theorem scalarHold_tkwait (g : Guard) (a b c : BitVec 6) (s : State) :
    scalarHold (.tkwait g a b c) s =
      if guardOk g s && (s.me.tokPending a || s.me.tokPending b || s.me.tokPending c) then some (4, false) else none := rfl

/-- From its latest producer's start to that producer's end a token is pending; an earlier producer and other tokens have no part in
it (R194). -/
theorem CoreSt.token_life (k : CoreSt) (t u : BitVec 6) (src g : Nat) (ht : t ≠ 0) :
    let n := (k.produce t src).1
    let k1 := (k.produce t src).2
    k1.tokPending t = true ∧ (u ≠ t → k1.tokPending u = k.tokPending u) ∧ (k1.complete t n).tokPending t = false ∧
    (g ≠ n → k1.complete t g = k1) ∧ (u ≠ t → (k1.complete t n).tokPending u = k.tokPending u) := by
  rw [k.produce_of_ne src ht]
  dsimp only
  rw [complete_setTok_self _ _ ht]
  exact ⟨tokPending_setTok_self _ _ ht, tokPending_setTok_ne _ _, tokPending_setTok_self _ _ ht, fun hg => complete_setTok_other _ _ hg,
    fun hu => by rw [tokPending_setTok_ne _ _ hu, tokPending_setTok_ne _ _ hu]⟩

/-- Settles O25: a hold of tkwait is a held bundle, which changes counters only; a token's life by what producing and completing do
to it. -/
theorem tokens : Obligations.Tokens := by
  unfold Obligations.Tokens
  refine ⟨?instructions, ?held, CoreSt.token_life, ?words⟩
  case instructions =>
    intro g pd a b c s
    refine ⟨rfl, ?holds, fun h => exec_toP h rfl ?polled, CoreSt.tokPending_zero _⟩
    case holds => rw [scalarHold_tkwait]; simp [or_assoc]
    case polled => cases s.me.tokPending a <;> rfl
  case held =>
    intro c f sca s h pre hw hs
    exact ⟨_, tryIssue_scalarHold hw hs, held_spec c h s⟩
  case words =>
    intro g pd d a b ta tb tc x y u word
    exact ⟨decodeSlot_mem (some_tokenFields (.tkwait g) x ta tb tc), decodeSlot_mem (some_destAndLowField (.tkpoll g) u pd y ta)⟩

/-! Copy rings. -/

section
variable {g : Guard} {s : State} (q : BitVec 4) (d a b : BitVec 6) (h : guardOk g s = true)
include h

/-- rnew traps on operands out of range and on a ring in use, and else creates the ring (R202). -/
theorem exec_rnew :
    exec (.rnew g q a b) s = .next (
      if q ≠ 0 ∧ 1 ≤ (s.me.r.getS a).toNat ∧ (s.me.r.getS a).toNat ≤ 256 ∧ 1 ≤ (s.me.r.getS b).toNat ∧ (s.me.r.getS b).toNat < 2 ^ 32 then
        if (s.me.getRing q).users ≠ 0 then ringTrap 0x0E q s
        else deliver 1 (.ring q (s.me.r.getS a).toNat (s.me.r.getS b).toNat) s
      else illegal 0x89 s) := by
  show execRnew g q a b s = _
  by_cases hq : q = 0
  · simp [execRnew, guardedIf, hq]
  · rw [execRnew, guardedIf, if_pos (bne_iff_ne.2 hq), guarded_true _ h]
    have hbad : ((s.me.r.getS a).toNat = 0 ∨ 256 < (s.me.r.getS a).toNat ∨ (s.me.r.getS b).toNat = 0 ∨ 2 ^ 32 ≤ (s.me.r.getS b).toNat) ↔
        ¬ (1 ≤ (s.me.r.getS a).toNat ∧ (s.me.r.getS a).toNat ≤ 256 ∧ 1 ≤ (s.me.r.getS b).toNat ∧ (s.me.r.getS b).toNat < 2 ^ 32) := by
      omega
    simp only [hbad, ite_not, hq, ne_eq, not_false_eq_true, true_and]

/-- rwait traps on a ring that was not created and on a slot that cannot be filled, and else does nothing (R204). -/
theorem exec_rwait :
    exec (.rwait g q) s = .next (
      if !(s.me.getRing q).created then illegal 0x87 s
      else if unassigned (s.me.getRing q) (s.me.r.getRt q) then ringTrap 0x10 q s else s) := by
  show execRwait g q s = _
  rw [execRwait, guarded_true _ h]

/-- rstat traps on a ring that was not created, and else reads the ring's word (R205). -/
theorem exec_rstat :
    exec (.rstat g d q) s = .next (
      if !(s.me.getRing q).created then illegal 0x8A s else toS 1 d (ringWord (s.me.getRing q) (s.me.r.getRt q)) s) := by
  show execRstat g d q s = _
  rw [execRstat, guarded_true _ h]

/-- rrel traps on a ring that was not created and on a slot that is not filled, and else advances Rt and counts the release (R204). -/
theorem exec_rrel :
    exec (.rrel g q) s = .next (
      if !(s.me.getRing q).created then illegal 0x88 s
      else if !slotFilled (s.me.getRing q) (s.me.r.getRt q) then ringTrap 0x10 q s else s.modMe (·.releaseRing q)) := by
  show execRrel g q s = _
  rw [execRrel, guarded_true _ h]
  rfl

end

/-- Settles O26: each instruction by what it does once its guard holds, and rstat's word by the fields of the sum that it is. -/
theorem rings : Obligations.Rings := by
  unfold Obligations.Rings
  refine ⟨?instructions, ?status, ?word⟩
  case instructions =>
    intro g q d a b s h x rt sl tg legal
    refine ⟨fun hl => ?illegal, fun hl hu => ?inUse, fun hl hu => ?create, fun hc => ?absent, fun hc => ?present⟩
    case illegal => rw [exec_rnew q a b h, if_neg hl]
    case inUse => rw [exec_rnew q a b h, if_pos hl, if_pos hu, ringTrap]
    case create => rw [exec_rnew q a b h, if_pos hl, if_neg (not_not_intro hu)]
    case absent =>
      have ht : (!x.created) = true := by rw [hc]; rfl
      exact ⟨by rw [exec_rwait q h, if_pos ht], by rw [exec_rrel q h, if_pos ht], by rw [exec_rstat q d h, if_pos ht]⟩
    case present =>
      have hf : ¬ (!x.created) = true := by rw [hc]; decide
      refine ⟨fun hw => ?cannotFill, fun hw => ?filled, fun hs => ?notFilled, fun hs => ?release, ?stat⟩
      case cannotFill => rw [exec_rwait q h, if_neg hf, if_pos ((unassigned_iff x rt).2 hw), ringTrap]
      case filled => rw [exec_rwait q h, if_neg hf, if_neg (mt (unassigned_iff x rt).1 (Nat.not_lt.2 hw))]
      case notFilled => rw [exec_rrel q h, if_neg hf, if_pos (by rw [hs]; rfl), ringTrap]
      case release =>
        rw [exec_rrel q h, if_neg hf, if_neg (by rw [hs]; decide)]
        have hme : (s.modMe (·.releaseRing q)).me = s.me.releaseRing q := State.modMe_me s _
        refine ⟨_, rfl, ?_⟩
        rw [hme, CoreSt.releaseRing_getRing, CoreSt.releaseRing_getRt]
        exact ⟨rfl, rfl, rfl, rfl, rfl, rfl, rfl, rfl⟩
      case stat => rw [exec_rstat q d h, if_neg hf]
  case status =>
    intro x rt hs hs' ht w
    exact statusWord_fields _ _ _ _ _ ((Nat.mod_lt _ hs).trans_le hs') ((Nat.mod_lt _ hs).trans_le hs')
  case word =>
    intro g q d b imm word
    exact decodeSlot_mem (congrArg (fun p => some (Instr.rstat g d p)) (setWidth_predField q))

end Sys2Proof.Machine
end

section
/-! SUPPORT. Words written field by field: what each field of a packed word reads back (R70 to R74, R152). -/

namespace Sys2Proof

/-- A field reads back where it has been written. -/
@[simp] theorem extractLsb'_shiftLeft_self {n w : Nat} (x : BitVec n) (k : Nat) (h : k + n ≤ w) :
    (x.setWidth w <<< k).extractLsb' k n = x := by
  refine BitVec.eq_of_getLsbD_eq fun i hi => ?_
  have hk : k + i < w := by omega
  simp [BitVec.getLsbD_extractLsb', hi, hk]

/-- A field that does not meet the written one reads 0. -/
@[simp] theorem extractLsb'_shiftLeft_other {m w : Nat} (x : BitVec m) (k s n : Nat) (h : s + n ≤ k ∨ k + m ≤ s) :
    (x.setWidth w <<< k).extractLsb' s n = 0 := by
  refine BitVec.eq_of_getLsbD_eq fun i hi => ?_
  simp only [BitVec.getLsbD_extractLsb', BitVec.getLsbD_shiftLeft, BitVec.getLsbD_setWidth, BitVec.ofNat_eq_ofNat, BitVec.getLsbD_zero]
  rcases h with h | h
  · simp [show s + i < k by omega]
  · simp [BitVec.getLsbD_of_ge x (s + i - k) (by omega)]

/-- The lowest field reads back. -/
@[simp] theorem extractLsb'_setWidth_self {n w : Nat} (x : BitVec n) (h : n ≤ w) : (x.setWidth w).extractLsb' 0 n = x := by
  simpa using extractLsb'_shiftLeft_self x 0 (by omega : 0 + n ≤ w)

/-- A field above the lowest one reads 0. -/
@[simp] theorem extractLsb'_setWidth_other {m w : Nat} (x : BitVec m) (s n : Nat) (h : m ≤ s) : (x.setWidth w).extractLsb' s n = 0 := by
  simpa using extractLsb'_shiftLeft_other (w := w) x 0 s n (by omega)

/-- A bit reads back where it has been written. -/
@[simp] theorem getLsbD_setWidth_ofBool (b : Bool) {w : Nat} (h : 0 < w) : ((BitVec.ofBool b).setWidth w).getLsbD 0 = b := by
  simp [h]

theorem unpackS_packS (x : SWord) : unpackS (packS x) = x := by
  obtain ⟨op, d, a, b, p, n, imm⟩ := x
  simp [unpackS, packS, BitVec.extractLsb'_or]

theorem unpackV_packV (x : VSlot) : unpackV (packV x) = x := by
  obtain ⟨op, vd, v1, v2, v3, p, t, m, imm⟩ := x
  simp [unpackV, packV, BitVec.extractLsb'_or]

theorem unpackM_packM (x : MWord) : unpackM (packM x) = x := by
  obtain ⟨op, r, ⟨tp, ta, tb, tc⟩, ck, ovw, lat, acc, rsv⟩ := x
  simp [unpackM, packM, unpackT, packT, BitVec.extractLsb'_or]

theorem unpackC_packC (x : CWord) : unpackC (packC x) = x := by
  obtain ⟨op, n, r, ⟨tp, ta, tb, tc⟩, bnd, scp, be⟩ := x
  simp [unpackC, packC, unpackT, packT, BitVec.extractLsb'_or]

@[simp] theorem tyOfCode_tyCode (t : ElemTy) : tyOfCode (tyCode t) = some t := by cases t <;> rfl
@[simp] theorem rmOfCode_rmCode (m : Rm) : rmOfCode (rmCode m) = m := by cases m <;> rfl

end Sys2Proof
end

section
/-! What the decoder makes of an encoded word, table by table, and of the encoding of every instruction (R70 to R75, R77 to R81, R152,
R153). -/

namespace Sys2Proof


/-- An entry of a table; one with two readings; one whose register fields are bounded (R87). -/
theorem eq_some_of_entry {o : Option Instr} {i j : Instr} (ho : o = some j) (hj : j = i) : o = some i := by rw [ho, hj]

theorem eq_some_of_then {o k : Option Instr} {i j : Instr} {c : Prop} [Decidable c] (ho : o = if c then some j else k) (hc : c)
    (hj : j = i) : o = some i := by rw [ho, if_pos hc, hj]

theorem eq_some_of_else {o k : Option Instr} {i j : Instr} {c : Prop} [Decidable c] (ho : o = if c then k else some j) (hc : ¬ c)
    (hj : j = i) : o = some i := by rw [ho, if_neg hc, hj]

section
variable {op : BitVec 8} {d a b : BitVec 6} {p : BitVec 4} {n : Bool} {imm : BitVec 33}

theorem decodeSlot_packS_arith (hop : op ≠ 0 ∧ op.toNat < 0x40 := by decide) :
    decodeSlot (.sca (packS ⟨op, d, a, b, p, n, imm⟩)) = decodeSArith ⟨op, d, a, b, p, n, imm⟩ := by
  simp only [decodeSlot, decodeScalar, unpackS_packS, if_neg hop.1, if_pos hop.2]

theorem decodeSlot_packS_pred (hop : 0x40 ≤ op.toNat ∧ op.toNat < 0x60 := by decide) :
    decodeSlot (.sca (packS ⟨op, d, a, b, p, n, imm⟩)) = decodeSPred ⟨op, d, a, b, p, n, imm⟩ := by
  have h0 : op ≠ 0 := by rintro rfl; simp at hop
  simp only [decodeSlot, decodeScalar, unpackS_packS, if_neg h0, if_neg (Nat.not_lt.2 hop.1), if_pos hop.2]

theorem decodeSlot_packS_mem (hop : 0x60 ≤ op.toNat ∧ op.toNat < 0xA0 := by decide) :
    decodeSlot (.sca (packS ⟨op, d, a, b, p, n, imm⟩)) = decodeSMem ⟨op, d, a, b, p, n, imm⟩ := by
  have h0 : op ≠ 0 := by rintro rfl; simp at hop
  simp only [decodeSlot, decodeScalar, unpackS_packS, if_neg h0, if_neg (show ¬ op.toNat < 0x40 by omega), if_neg (Nat.not_lt.2 hop.1),
    if_pos hop.2]

theorem decodeSlot_packS_sys (hop : 0xA0 ≤ op.toNat := by decide) :
    decodeSlot (.sca (packS ⟨op, d, a, b, p, n, imm⟩)) = decodeSSys ⟨op, d, a, b, p, n, imm⟩ := by
  have h0 : op ≠ 0 := by rintro rfl; simp at hop
  simp only [decodeSlot, decodeScalar, unpackS_packS, if_neg h0, if_neg (show ¬ op.toNat < 0x40 by omega),
    if_neg (show ¬ op.toNat < 0x60 by omega), if_neg (Nat.not_lt.2 hop)]

end

/-- A number below 16 or below 8 in a six-bit field. -/
theorem toNat_setWidth_lt_16 (p : BitVec 4) : (p.setWidth 6).toNat < 16 := by
  rw [BitVec.toNat_setWidth]; omega

theorem toNat_setWidth_lt_8 {m : Nat} (p : BitVec 3) : (p.setWidth m).toNat < 8 := by
  rw [BitVec.toNat_setWidth]; exact (Nat.mod_le _ _).trans_lt p.isLt

/-- The header of a vector word (R43, R71). -/
theorem modOf_fields (h : VH) :
    (modOf h).getLsbD 2 = false ∧ (modOf h).getLsbD 3 = h.sat ∧ rmOfCode ((modOf h).setWidth 2) = h.rm := by
  have hr : (modOf h).setWidth 2 = rmCode h.rm := by
    refine BitVec.eq_of_getLsbD_eq fun i hi => ?_
    simp [modOf, hi]
  refine ⟨by simp [modOf], by simp [modOf], by rw [hr, rmOfCode_rmCode]⟩

theorem toNat_mod_lt_8 (p : BitVec 3) : p.toNat % 256 < 8 := (Nat.mod_le _ _).trans_lt p.isLt

theorem decodeSlot_packV {h : VH} {op : BitVec 8} {vd v1 v2 v3 : BitVec 5} {imm : BitVec 24} {i : Instr} (ha : accepted i = true)
    (hi : decodeVOp h ⟨op, vd, v1, v2, v3, h.grd, tyCode h.ty, modOf h, imm⟩ = some i) (hop : op ≠ 0 := by decide) :
    decodeSlot (.vec h.cl (packV ⟨op, vd, v1, v2, v3, h.grd, tyCode h.ty, modOf h, imm⟩)) = some i := by
  obtain ⟨h2, h3, hr⟩ := modOf_fields h
  simp only [decodeSlot, decodeVector, unpackV_packV, if_neg hop, h2, h3, hr, tyOfCode_tyCode, hi, ha, if_true, Bool.false_eq_true, if_false]

/-- The two entries that read a second type from IMM (R131, R132). -/
theorem decodeVOp_vcvt {h : VH} {vd v1 v2 v3 : BitVec 5} {p t m : BitVec 4} {imm : BitVec 24} {fm : ElemTy}
    (hf : tyOfCode (imm.extractLsb' 0 4) = some fm) :
    decodeVOp h ⟨0xC0, vd, v1, v2, v3, p, t, m, imm⟩ = some (.vcvt h vd v1 fm (imm.extractLsb' 4 2)) := by
  show (match tyOfCode (imm.extractLsb' 0 4) with | some fm => some (Instr.vcvt h vd v1 fm (imm.extractLsb' 4 2)) | none => none) = _
  rw [hf]

theorem decodeVOp_vquant {h : VH} {vd v1 v2 v3 : BitVec 5} {p t m : BitVec 4} {imm : BitVec 24} {fm : ElemTy}
    (hf : tyOfCode (imm.extractLsb' 0 4) = some fm) :
    decodeVOp h ⟨0xC1, vd, v1, v2, v3, p, t, m, imm⟩ =
      some (.vquant h vd v1 v2 fm (imm.extractLsb' 4 2) (imm.extractLsb' 6 2) (imm.extractLsb' 8 6)) := by
  show (match tyOfCode (imm.extractLsb' 0 4) with
    | some fm => some (Instr.vquant h vd v1 v2 fm (imm.extractLsb' 4 2) (imm.extractLsb' 6 2) (imm.extractLsb' 8 6))
    | none => none) = _
  rw [hf]

/-- The scalar slot (R70, R78). -/
theorem decodeSlot_encode_sca (i : Instr) (w : W64) (he : encode i = .sca w) : decodeSlot (encode i) = some i := by
  cases i
  case nop =>
    rfl
  case add | sub | mul | mulh | mulhn | div | divn | rem | remn | addi | muli | and | or | xor | andn | orn | xnor | andi | ori |
      xori | shl | shr | sar | rol | ror | min | max | minn | maxn | abs | neg | clz | ctz | popc | bswap | li | mov | adds | subs
      =>
    exact eq_some_of_entry (Eq.trans decodeSlot_packS_arith rfl) rfl
  case shli | shri | sari | bexs | bexz | bins | sel | lih | sext | zext =>
    exact eq_some_of_entry (Eq.trans decodeSlot_packS_arith rfl) (by simp [BitVec.extractLsb'_or])
  case br | jmp | call | callr | ret | snext =>
    exact eq_some_of_entry (Eq.trans decodeSlot_packS_pred rfl) rfl
  case loop | sloop | mfsp | mtsp =>
    exact eq_some_of_entry (Eq.trans decodeSlot_packS_pred rfl) (by simp [BitVec.extractLsb'_or])
  case cmpeq | cmpne | cmplt | cmple | cmpltn | cmplen | cmpeqi | cmplti | pand | por | pxor | pandn | pnot | pmov | pset | pget |
      pcnt =>
    exact eq_some_of_then (Eq.trans decodeSlot_packS_pred rfl) (by simp only [toNat_setWidth_lt_16, toNat_setWidth_lt_8, and_self])
      (by simp [BitVec.extractLsb'_or])
  case hrnd =>
    exact eq_some_of_entry (Eq.trans decodeSlot_packS_mem rfl) rfl
  case stb | sth | stw | std | stl | pgin | amoadd | amoand | amoor | amoxor | amomin | amomax | amominn | amomaxn | amoswp |
      amocas | fence | rpub | radv | racq | rrnd | hoist | sight | barr | bwait | bgen | tkwait | tkpoll | rwait | rrel | rstat =>
    exact eq_some_of_entry (Eq.trans decodeSlot_packS_mem rfl) (by simp [BitVec.extractLsb'_or])
  case ldb | ldbn | ldh | ldhn | ldw | ldwn | ldd | ldr | ldk | lda | rnew | nsw | ngw =>
    exact eq_some_of_then (Eq.trans decodeSlot_packS_mem rfl) (by simp only [toNat_setWidth_lt_16, toNat_setWidth_lt_8, and_self])
      (by simp [BitVec.extractLsb'_or])
  case mstat | retire | launch | lpoll | purge | wfe | stest | hsw =>
    exact eq_some_of_entry (Eq.trans decodeSlot_packS_sys rfl) rfl
  case mpld | mpent | ckst | pull | push | trap | ejrd | qdep | brk | mfpr | mtpr | xlinv | eret =>
    exact eq_some_of_entry (Eq.trans decodeSlot_packS_sys rfl) (by simp [BitVec.extractLsb'_or])
  case mset | mseti | mget =>
    exact eq_some_of_then (Eq.trans decodeSlot_packS_sys rfl) (by simp only [toNat_setWidth_lt_16, toNat_setWidth_lt_8, and_self])
      (by simp [BitVec.extractLsb'_or])
  case clkdiv => exact eq_some_of_else (Eq.trans decodeSlot_packS_sys rfl) (by simp) (by simp [BitVec.extractLsb'_or])
  case clkdivReg => exact eq_some_of_then (Eq.trans decodeSlot_packS_sys rfl) (by simp) (by simp [BitVec.extractLsb'_or])
  all_goals exact nomatch he

/-- The vector slots (R71, R79). -/
theorem decodeSlot_encode_vec (i : Instr) (cl : Cluster) (w : W64) (he : encode i = .vec cl w) (hw : accepted i = true) :
    decodeSlot (encode i) = some i := by
  cases i
  case vadd | vsub | vmul | vmulh | vfma | vfms | vfnma | vdiv | vsqrt | vrsqrt | vmin | vmax | vabs | vneg | vand | vor | vxor |
      vnot | vclz | vpopc | vdot4 | vredsum | vredmax | vredmin | vcpsgn | vxmov | vmov | vperm =>
    exact decodeSlot_packV hw rfl
  case vrsqp | vcmpeq | vcmpne | vcmplt | vcmple | vsel | vmovi | vld | vst | vlds | vsts | vldx | vstx | vldb | vdequant | vslide
      | vzip | vunzip | vpack | vunpk =>
    exact decodeSlot_packV hw (eq_some_of_entry rfl (by simp [BitVec.extractLsb'_or]))
  case vshl | vshr | vsar | vrshr | vbcastElem =>
    exact decodeSlot_packV hw (eq_some_of_else rfl (by simp) (by simp [BitVec.extractLsb'_or]))
  case vshlImm | vshrImm | vsarImm | vrshrImm | vbcastScalar =>
    exact decodeSlot_packV hw (eq_some_of_then rfl (by simp) (by simp [BitVec.extractLsb'_or]))
  case vcvt h vd v1 fm hh =>
    exact decodeSlot_packV hw (eq_some_of_entry (decodeVOp_vcvt (fm := fm) (by simp [BitVec.extractLsb'_or])) (by simp [BitVec.extractLsb'_or]))
  case vquant h vd v1 v2 fm bb bt e0 =>
    exact decodeSlot_packV hw (eq_some_of_entry (decodeVOp_vquant (fm := fm) (by simp [BitVec.extractLsb'_or])) (by simp [BitVec.extractLsb'_or]))
  all_goals exact nomatch he

/-- The matrix slot (R72, R80). -/
theorem decodeSlot_encode_mtx (i : Instr) (w : BitVec 48) (he : encode i = .mtx w) : decodeSlot (encode i) = some i := by
  cases i
  case mcall | azero =>
    show decodeMatrix (packM _) = _
    simp [decodeMatrix, unpackM_packM]
  case lload | drain | epicfg | cksnap =>
    show decodeMatrix (packM _) = _
    simp [decodeMatrix, unpackM_packM, toNat_mod_lt_8]
  all_goals exact nomatch he

/-- The copy slots (R73, R80). -/
theorem decodeSlot_encode_cpy (i : Instr) (u : Bool) (w : BitVec 48) (he : encode i = .cpy u w) : decodeSlot (encode i) = some i := by
  cases i
  case cpy | cpset | bcdrv | bclat =>
    show decodeCopy _ (packC _) = _
    simp [decodeCopy, unpackC_packC]
  all_goals exact nomatch he

theorem scale_fields (o b : BitVec 4) (v : BitVec 8) : (o ++ b ++ v).extractLsb' 12 4 = o ∧ (o ++ b ++ v).extractLsb' 8 4 = b ∧
    (o ++ b ++ v).extractLsb' 0 8 = v := by
  refine ⟨?_, ?_, BitVec.extractLsb'_append_eq_right⟩
  · rw [BitVec.extractLsb'_append_eq_of_le (by decide), BitVec.extractLsb'_append_eq_of_le (by decide)]
    exact BitVec.extractLsb'_eq_self
  · rw [BitVec.extractLsb'_append_eq_of_le (by decide)]
    exact BitVec.extractLsb'_append_eq_right

/-- The scale slot (R74). -/
theorem decodeSlot_encode_scl (i : Instr) (w : BitVec 16) (he : encode i = .scl w) : decodeSlot (encode i) = some i := by
  cases i
  case scset | scadd | scsub | scpad | sccpy | scmax | scmin =>
    show decodeScale (_ ++ _ ++ _) = _
    simp [decodeScale, scale_fields]
  all_goals exact nomatch he

/-- A written field does not meet a mask that is 0 where it stands. -/
theorem shiftLeft_and_eq_zero {n w : Nat} (x : BitVec n) (k : Nat) (m : BitVec w) (h : m.extractLsb' k n = 0) :
    (x.setWidth w <<< k) &&& m = 0 := by
  refine BitVec.eq_of_getLsbD_eq fun i hi => ?_
  have hm := congrArg (·.getLsbD (i - k)) h
  simp only [BitVec.getLsbD_extractLsb', BitVec.ofNat_eq_ofNat, BitVec.getLsbD_zero] at hm
  simp only [BitVec.getLsbD_and, BitVec.getLsbD_shiftLeft, BitVec.getLsbD_setWidth, BitVec.ofNat_eq_ofNat, BitVec.getLsbD_zero]
  by_cases hk : i < k
  · simp [hk]
  · by_cases hn : i - k < n
    · rw [show k + (i - k) = i by omega] at hm
      simp_all
    · simp [BitVec.getLsbD_of_ge x (i - k) (by omega)]

theorem setWidth_and_eq_zero {n w : Nat} (x : BitVec n) (m : BitVec w) (h : m.extractLsb' 0 n = 0) : x.setWidth w &&& m = 0 := by
  simpa using shiftLeft_and_eq_zero x 0 m h

/-- The microwords (R152, R153). -/
theorem decodeSlot_encode_mic (i : Instr) (w : BitVec 32) (he : encode i = .mic w) : decodeSlot (encode i) = some i := by
  cases i
  case fin | zero =>
    rfl
  case fmt | use | act | lk | bk | lkadd | bkadd | mac | macn | idle | cnt | rep | brz =>
    show decodeMicro _ = _
    simp [decodeMicro, packMV, BitVec.extractLsb'_or, BitVec.and_or_distrib_right, shiftLeft_and_eq_zero, setWidth_and_eq_zero]
  all_goals exact nomatch he

/-- Settles O2: the encoder writes each word from the fields that the decoder's tables read, slot by slot. -/
theorem decodeOfEncode : Obligations.DecodeOfEncode := by
  unfold Obligations.DecodeOfEncode
  intro i hw he
  cases h : encode i with
  | sca w => rw [← h]; exact decodeSlot_encode_sca i w h
  | vec cl w => rw [← h]; exact decodeSlot_encode_vec i cl w h hw
  | mtx w => rw [← h]; exact decodeSlot_encode_mtx i w h
  | cpy u w => rw [← h]; exact decodeSlot_encode_cpy i u w h
  | scl w => rw [← h]; exact decodeSlot_encode_scl i w h
  | mic w => rw [← h]; exact decodeSlot_encode_mic i w h
  | none => exact absurd h he

end Sys2Proof
end

section
/-! Every instruction and every step answers a next state, but for a machine whose supply is gone (R368). -/

namespace Sys2Proof.Machine

theorem completes_next (t : State) : Completes (.next t) := ⟨t, rfl⟩

theorem completes_ite {c : Prop} [Decidable c] {a b : Out} (ha : Completes a) (hb : Completes b) : Completes (if c then a else b) := by
  split
  · exact ha
  · exact hb

section
variable (op : Nat) (g : Guard) (s : State) (f : State → State)

theorem guardedIf_completes (ok : Bool) : Completes (guardedIf ok op g s f) := completes_ite (completes_next _) (completes_next _)

theorem privileged_completes : Completes (privileged op g s f) := completes_ite (completes_next _) (completes_next _)

theorem privilegedIf_completes (ok : Bool) : Completes (privilegedIf ok op g s f) := completes_ite (completes_next _) (completes_next _)

theorem transfer_completes (t : State → W64) (link : Option (BitVec 6)) : Completes (transfer op g t link s) :=
  completes_ite (completes_next _) (completes_next _)

theorem loopOp_completes (m : LoopMode) (a : BitVec 6) (ii : BitVec 8) (ns1 : BitVec 3) : Completes (loopOp op m g a ii ns1 s) :=
  completes_ite (completes_next _) (completes_next _)

end

section
variable (h : VH) (vd : BitVec 5) (srcs : List (BitVec 5)) (b : Nat) (at_ : Nat → Nat) (s : State)

theorem vecLoad_completes (lat : Nat) : Completes (vecLoad h lat vd srcs b at_ s) := by
  unfold vecLoad
  dsimp only
  split <;> exact completes_next _

theorem vecStore_completes : Completes (vecStore h vd srcs b at_ s) := by
  unfold vecStore
  dsimp only
  split
  · exact completes_next _
  · split <;> exact completes_next _

end

theorem onRoutine_completes (s : State) (f : Routine → State) : Completes (onRoutine s f) := by
  unfold onRoutine
  split <;> exact completes_next _

/-- No meaning ends in a fault or a refusal. -/
theorem exec_completes (i : Instr) (s : State) : Completes (exec i s) := by
  cases i
  case br | jmp | call | callr | ret =>
    exact transfer_completes _ _ s _ _
  case loop | sloop =>
    exact loopOp_completes _ _ s _ _ _ _
  case mfsp | mtsp | ldr | ldk | pgin | amoadd | amoand | amoor | amoxor | amomin | amomax | amominn | amomaxn | amoswp | amocas |
      rnew | clkdiv =>
    exact guardedIf_completes _ _ s _ _
  case mfpr | mtpr =>
    exact privilegedIf_completes _ _ s _ _
  case xlinv | purge | eret | wfe | stest | hsw =>
    exact privileged_completes _ _ s _
  case vld | vlds | vldx | vldb =>
    exact vecLoad_completes _ _ _ _ _ s _
  case vst | vsts | vstx =>
    exact vecStore_completes _ _ _ _ _ s
  case fin | fmt | use | act | lk | bk | lkadd | bkadd | mac | macn | zero | idle | cnt | rep | brz =>
    exact onRoutine_completes s _
  case snext => exact completes_ite (completes_next _) (completes_next _)
  case routineFault | lloadComplete | drainComplete | epicfgComplete | cksnapComplete | switchPoint | recordPost | requestedStop |
      loadDelivery | storePerform | copyBegin | copyResume | copyPageCrossing | copyComplete | bclatComplete | hoistSlotTake |
      hoistLand | sightPoint | sightRelease | halyardTokenComplete | racqArrival | pginService | rampDown | hostLaunchTrigger |
      launchStatusWrite | launchStart | bind | periodBoundary | budgetOverrun | preemptionSaveDone | ctxcWrite | keyErase |
      biasFlipToHost | biasFlipToDevice | biasFlipComplete | purgeComplete | poisonConsumed | selfTestComplete | fenceCore |
      fenceSlice | fenceStrait | fenceDramChannel | opmdWrite | govWrite | slrWrite | plsWrite | optMirrorWrite | railMoveStep |
      governorWindow | supplyLoss | quiesceEnd | saveEnd | sealEnd | powerGood | hostConfigSpaceRead | binv | data | ack | fwdack |
      go | wb | hostMemAccess | hostSnoop | expanderBackInvalidation | patrolScrub | telemetrySnapshot | infieldTestRequest | fwProg
      | fwProgComplete | fwCommit | attestationStart | attestationReport | partitionWrite =>
    delta exec
    simp only [execRoutineFault, execLloadComplete, execDrainComplete, execEpicfgComplete, execCksnapComplete,
      execSwitchPoint, execRecordPost, execRequestedStop, execLoadDelivery, execStorePerform, execCopyBegin, execCopyResume,
      execCopyPageCrossing, execCopyComplete, execBclatComplete, execHoistSlotTake, execHoistLand, execSightPoint, execSightRelease,
      execHalyardTokenComplete, execRacqArrival, execPginService, execRampDown, execHostLaunchTrigger, execLaunchStatusWrite,
      execLaunchStart, execBind, execPeriodBoundary, execBudgetOverrun, execPreemptionSaveDone, execCtxcWrite, execKeyErase,
      execBiasFlipToHost, execBiasFlipToDevice, execBiasFlipComplete, execPurgeComplete, execPoisonConsumed, execSelfTestComplete,
      execFenceCore, execFenceSlice, execFenceStrait, execFenceDramChannel, execOpmdWrite, execGovWrite, execSlrWrite, execPlsWrite,
      execOptMirrorWrite, execRailMoveStep, execGovernorWindow, execSupplyLoss, execQuiesceEnd, execSaveEnd, execSealEnd,
      execPowerGood, execHostConfigSpaceRead, execBinv, execData, execAck, execFwdack, execGo, execWb, execHostMemAccess,
      execHostSnoop, execExpanderBackInvalidation, execPatrolScrub, execTelemetrySnapshot, execInfieldTestRequest, execFwProg,
      execFwProgComplete, execFwCommit, execAttestationStart, execAttestationReport, execPartitionWrite]
    repeat' split
    all_goals exact completes_next _
  all_goals exact completes_next _

/-! The issue of a bundle, the control edge and the step. -/

theorem issueSlots_completes (ops : List Instr) (s : State) : Completes (issueSlots ops s) := by
  unfold issueSlots
  generalize (List.range 7).zip ops = l
  generalize ho : (Host.Outcome.next s : Out) = o
  replace ho : Completes o := ho ▸ completes_next s
  clear s
  induction l generalizing o with
  | nil => exact ho
  | cons e l ih =>
    obtain ⟨u, rfl⟩ := ho
    exact ih _ (completes_ite (completes_next _) (exec_completes _ _))

theorem tryIssue_completes (c : CoreId) (f : Fetched) (sca : SlotWord) (s : State) : Completes (tryIssue c f sca s) := by
  unfold tryIssue
  dsimp only
  repeat' split
  any_goals exact completes_next _
  all_goals exact issueSlots_completes _ _

theorem fetchIssue_completes (c : CoreId) (s : State) : Completes (fetchIssue c s) := by
  unfold fetchIssue
  dsimp only
  repeat' split
  any_goals exact completes_next _
  all_goals exact tryIssue_completes _ _ _ _

theorem runEdge_completes (c : CoreId) (s : State) : Completes (runEdge c s) := by
  unfold runEdge
  dsimp only
  repeat' split
  case isFalse => exact fetchIssue_completes _ _
  all_goals exact completes_next _

theorem controlEdge_completes (c : CoreId) (s : State) : Completes (controlEdge c s) := by
  unfold controlEdge
  dsimp only
  repeat' split
  case h_1 => exact runEdge_completes _ _
  all_goals exact completes_next _

theorem microStep_completes (c : CoreId) (s : State) : Completes (microStep c s) := by
  unfold microStep
  dsimp only
  repeat' split
  case isFalse => exact exec_completes _ _
  all_goals exact completes_next _

theorem runDue_completes (d : Due) (s : State) : Completes (runDue d s) := by
  cases d with
  | edge c => exact controlEdge_completes c s
  | micro c => exact microStep_completes c s
  | ev i a => exact exec_completes i _
  | mcyc c => exact completes_next _
  | array c => exact completes_next _
  | perform c id => exact completes_next _
  | piece c u => exact completes_next _
  | tile id => exact completes_next _

/-- With nothing due a machine whose supply is there idles. -/
theorem step_completes (s : State) (h : ¬ (s.agenda = [] ∧ s.dev.hold = .done)) : Completes (step s) := by
  unfold step
  split
  next he => rw [if_neg (fun hd => h ⟨he, hd⟩)]; exact completes_next s
  next => exact runDue_completes _ _

/-- Settles O6: no arm of exec ends in a fault or a refusal, and nothing but exec answers for a step. -/
theorem execNeverStops : Obligations.ExecNeverStops := by
  unfold Obligations.ExecNeverStops
  refine ⟨exec_completes, fun s => ⟨fun ha hd => ?_, step_completes s⟩⟩
  simp only [step, ha, hd, if_true]

/-! Every step keeps the canonical form of storage. -/

theorem runDue_memOk (d : Due) (s : State) (h : s.MemOk) : OutOk (runDue d s) := by
  cases d with
  | edge c => exact controlEdge_memOk c s h
  | micro c => exact microStep_memOk c s h
  | ev i a => exact exec_memOk i _ h
  | mcyc c => exact matrixCycle_memOk c s h
  | array c => exact arrayPhase_memOk c s h
  | perform c id => exact performCop_memOk c id s h
  | piece c u => exact pieceStep_memOk c u s h
  | tile id => exact tileStep_memOk id s h

/-- Settles O4: what is due, whatever it is, keeps the form. -/
theorem stepKeepsMemoryCanonical : Obligations.StepKeepsMemoryCanonical := by
  unfold Obligations.StepKeepsMemoryCanonical
  intro s t hs ht
  unfold step at ht
  split at ht
  next =>
    split at ht
    · exact nomatch ht
    · exact Host.Outcome.next.inj ht ▸ hs
  next e rest _ => exact outOk_of_next_memOk ht (runDue_memOk e.due _ hs)

end Sys2Proof.Machine
end

section
/-! O10: a pad load meets a stored error, and the island counts it, with no trap. -/

namespace Sys2Proof.Machine

/-- Core 0 after reset, in a cluster-A bundle, with an error stored in the first 64 bytes of its pad. -/
def padErrorState : State := State.reset.modD fun d => { d with errs := [padKey 0 0 / 64] }

/-- The load of the pad's first bytes into v0 of cluster A. -/
def padErrorLoad : Instr := .vld ⟨.A, 0, .i32, false, .rne⟩ 0 0 0

theorem padErrorLoad_meets_error : ∃ t, exec padErrorLoad padErrorState = .next t ∧ t.bun.trap = false ∧ t.dev.errs = [] := by
  refine ⟨_, rfl, ?_, ?_⟩ <;> decide +kernel

/-- Refutes O10: the vector load of a pad piece that holds an error takes the error off the device's list and logs it (R395, R397), and
does not trap, while the second clause lets a vector operation change its core alone. -/
theorem not_frames : ¬ Obligations.Frames := by
  unfold Obligations.Frames
  rintro ⟨-, vector, -⟩
  obtain ⟨t, ht, htrap, herrs⟩ := padErrorLoad_meets_error
  have hkeep := congrArg (fun u => u.dev.errs) (vector padErrorLoad padErrorState t rfl ht htrap)
  rw [herrs] at hkeep
  exact absurd hkeep (by simp [padErrorState])

end Sys2Proof.Machine
end

section
/-! O3: the machine after reset. -/

namespace Sys2Proof.Machine

theorem reset_core_get (c : CoreId) : State.reset.core.get c = CoreSt.init := by
  simp [State.reset]

theorem reset_isl_get (y : Isl) : State.reset.isl.get y = IslandSt.init := by
  simp [State.reset]

/-- Settles O3: every core and island is a copy of one initial record. -/
theorem resetState : Obligations.ResetState := by
  unfold Obligations.ResetState
  refine ⟨?_, rfl, rfl, rfl, rfl, fun c => ?_, fun y => ?_, _, _, rfl⟩
  · rfl
  · rw [reset_core_get]
    exact ⟨rfl, rfl, rfl, rfl, rfl, rfl⟩
  · rw [reset_isl_get]
    exact ⟨rfl, rfl⟩

end Sys2Proof.Machine
end

section
/-! O1: written words decode, reserved operation codes are refused. -/

namespace Sys2Proof.Machine

section
variable (x : SWord)

theorem decodeSArith_reserved (h : 0x32 ≤ x.op.toNat) : decodeSArith x = none := by
  unfold decodeSArith
  split
  any_goals omega
  rfl

theorem decodeSPred_reserved (h : 0x5B ≤ x.op.toNat) : decodeSPred x = none := by
  unfold decodeSPred
  split
  any_goals omega
  rfl

theorem decodeSMem_reserved (h : 0x8D ≤ x.op.toNat) : decodeSMem x = none := by
  unfold decodeSMem
  split
  any_goals omega
  rfl

theorem decodeSSys_reserved (h : (0xA7 ≤ x.op.toNat ∧ x.op.toNat ≤ 0xBF) ∨ (0xCA ≤ x.op.toNat ∧ x.op.toNat ≤ 0xCF) ∨ 0xD8 ≤ x.op.toNat) :
    decodeSSys x = none := by
  unfold decodeSSys
  split
  any_goals omega
  rfl

end

theorem decodeVOp_reserved (h : VH) (x : VSlot)
    (hop : ¬ x.op.toNat ≤ 0x26 ∧ ¬ (0x80 ≤ x.op.toNat ∧ x.op.toNat ≤ 0x86) ∧ ¬ (0xC0 ≤ x.op.toNat ∧ x.op.toNat ≤ 0xC9)) :
    decodeVOp h x = none := by
  unfold decodeVOp
  generalize x.op.toNat = n at hop ⊢
  split
  any_goals (exfalso; revert hop; decide)
  rfl

/-- An operation code that is not 0 as a number is not 0 as a field. -/
theorem field_ne_zero {n : Nat} {v : BitVec n} (h : v.toNat ≠ 0) : v ≠ 0 := by
  rintro rfl
  exact h (by simp)

theorem decodeScalar_reserved (w : W64)
    (h : (0x32 ≤ (unpackS w).op.toNat ∧ (unpackS w).op.toNat ≤ 0x3F) ∨ (0x5B ≤ (unpackS w).op.toNat ∧ (unpackS w).op.toNat ≤ 0x5F) ∨
      (0x8D ≤ (unpackS w).op.toNat ∧ (unpackS w).op.toNat ≤ 0x9F) ∨ (0xA7 ≤ (unpackS w).op.toNat ∧ (unpackS w).op.toNat ≤ 0xBF) ∨
      (0xCA ≤ (unpackS w).op.toNat ∧ (unpackS w).op.toNat ≤ 0xCF) ∨ 0xD8 ≤ (unpackS w).op.toNat) : decodeScalar w = none := by
  unfold decodeScalar
  dsimp only
  rw [if_neg (field_ne_zero (by omega))]
  split
  · exact decodeSArith_reserved _ (by omega)
  · split
    · exact decodeSPred_reserved _ (by omega)
    · split
      · exact decodeSMem_reserved _ (by omega)
      · exact decodeSSys_reserved _ (by omega)

theorem decodeVector_reserved (cl : Cluster) (w : W64)
    (h : (0x27 ≤ (unpackV w).op.toNat ∧ (unpackV w).op.toNat ≤ 0x7F) ∨ (0x87 ≤ (unpackV w).op.toNat ∧ (unpackV w).op.toNat ≤ 0xBF) ∨
      0xCA ≤ (unpackV w).op.toNat) : decodeVector cl w = none := by
  unfold decodeVector
  dsimp only
  rw [if_neg (field_ne_zero (by omega))]
  split
  · rfl
  · split
    · rfl
    · rw [decodeVOp_reserved _ _ (by omega)]

theorem decodeMatrix_reserved (w : BitVec 48) (h : 7 ≤ (unpackM w).op.toNat) : decodeMatrix w = none := by
  unfold decodeMatrix
  dsimp only
  rw [if_neg (field_ne_zero (by omega))]
  split
  · rfl
  · split
    any_goals omega
    rfl

theorem decodeCopy_reserved (u : Bool) (w : BitVec 48) (h : 5 ≤ (unpackC w).op.toNat) : decodeCopy u w = none := by
  unfold decodeCopy
  dsimp only
  rw [if_neg (field_ne_zero (by omega))]
  split
  any_goals omega
  rfl

theorem decodeScale_reserved (w : BitVec 16) (h : 8 ≤ (w.extractLsb' 12 4).toNat) : decodeScale w = none := by
  unfold decodeScale
  dsimp only
  split
  any_goals omega
  rfl

theorem decodeMicro_reserved (w : BitVec 32) (h : (w.extractLsb' 28 4).toNat = 15) : decodeMicro w = none := by
  unfold decodeMicro
  dsimp only
  rw [h]
  rfl

/-- Settles O1: the written words by evaluation, and each slot's table ends where its reserved codes begin. -/
theorem specWordsDecode : Obligations.SpecWordsDecode := by
  unfold Obligations.SpecWordsDecode
  refine ⟨by decide +kernel, fun w => ⟨fun h => decodeScalar_reserved w h, fun h cl => decodeVector_reserved cl w h⟩,
    fun w => ⟨decodeMatrix_reserved w, fun h u => decodeCopy_reserved u w h⟩, decodeScale_reserved, decodeMicro_reserved⟩

end Sys2Proof.Machine
end

section
/-! O8: what a trap leaves. -/

namespace Sys2Proof.Machine

theorem modL_frame (s : State) (n : Nat) (f : Launch → Launch) :
    (s.modL n f).isl = s.isl ∧ (s.modL n f).agenda = s.agenda ∧ (s.modL n f).tick = s.tick ∧ (s.modL n f).bun = s.bun := by
  unfold State.modL
  split <;> exact ⟨rfl, rfl, rfl, rfl⟩

theorem undoPops_frame (c : CoreId) (s : State) :
    (undoPops c s).isl = s.isl ∧ (undoPops c s).agenda = s.agenda ∧ (undoPops c s).tick = s.tick ∧ (undoPops c s).bun = s.bun := by
  unfold undoPops
  dsimp only
  split
  · exact modL_frame _ _ _
  · exact ⟨rfl, rfl, rfl, rfl⟩

/-- A launch of the pool, after it alone was changed. -/
theorem launch?_modL_self (s : State) (n : Nat) (f : Launch → Launch) :
    (s.modL n f).launch? (some n) = (s.launch? (some n)).map f := by
  unfold State.modL
  split
  next l hl => simp [State.launch?, State.modD, tfind_tset_self, hl]
  next hl => simp [State.launch?, hl]

theorem stage?_modStage_self (l : Launch) (t : Nat) (f : StageSt → StageSt) : (l.modStage t f).stage? t = (l.stage? t).map f := by
  unfold Launch.modStage
  split
  next x hx =>
    obtain ⟨ht, he⟩ := List.getElem?_eq_some_iff.1 hx
    simp [Launch.stage?, ht, he]
  next hx => simp [Launch.stage?, hx]

/-- The stage of a core whose queue got back the items that the core had pulled since its checkpoint. -/
theorem undoPops_stage (c : CoreId) (s : State) (x : StageSt)
    (h : ((s.launch? (s.core.get c).launch).bind fun l => l.stage? (s.core.get c).stg.toNat) = some x) :
    ((((undoPops c s).launch? (s.core.get c).launch).bind fun l => l.stage? (s.core.get c).stg.toNat).map (·.q)) =
      some ((((s.core.get c).pops.filter (·.isPull)).map (·.item)) ++ x.q) := by
  unfold undoPops
  dsimp only
  split
  next n hn =>
    rw [hn] at h ⊢
    rw [launch?_modL_self, Option.bind_map]
    obtain ⟨l, hl, hx⟩ := Option.bind_eq_some_iff.1 h
    rw [hl]
    simp [stage?_modStage_self, hx]
  next hn => simp [hn, State.launch?] at h

/-- The core after a trap: rolled back, stopped, its record to post, one trap more counted. -/
theorem takeTrap_me (cause : Byte) (f d : W64) (s : State) : (takeTrap cause f d s).me =
    CoreSt.count { ((rollback s.cur s).core.get s.cur) with run := .trapped cause, rec_ := some (mkRec s 2 s.bun.slot cause f d s.me.ck.pc) } 12 1 := by
  have hcur : (rollback s.cur s).cur = s.cur := by simp [rollback, undoPops_cur]
  have hme : (takeTrap cause f d s).me = _ := State.modMe_me (rollback s.cur s) fun k =>
    CoreSt.count { k with run := .trapped cause, rec_ := some (mkRec s 2 s.bun.slot cause f d s.me.ck.pc) } 12 1
  rw [hme, State.me, hcur]

theorem rollback_loads_sto_launch (c : CoreId) (s : State) :
    ((rollback c s).core.get c).loads = (s.core.get c).loads.filter (fun x => decide (x.seq ≤ (s.core.get c).ckSeq)) ∧
    ((rollback c s).core.get c).sto = (s.core.get c).sto ∧ ((rollback c s).core.get c).launch = (s.core.get c).launch := by
  simp [rollback, undoPops_core]

/-- Settles O8: rollback, then the record. -/
theorem takingATrap : Obligations.TakingATrap := by
  unfold Obligations.TakingATrap
  intro cause f d s t k
  obtain ⟨hisl, hagenda, htick, -⟩ := undoPops_frame s.cur s
  obtain ⟨hrun, hr, hwst, hrec, htrap, -, hmem, hothers⟩ := takeTrap_spec cause f d s
  obtain ⟨-, -, hwmx, hpops, hpend, -, -⟩ := rollback_spec s.cur s
  obtain ⟨hloads, hsto, hlaunch⟩ := rollback_loads_sto_launch s.cur s
  have hme : t.me = _ := takeTrap_me cause f d s
  refine ⟨hr, ?_, ?_, ?_, hwst, ?_, ?_, hrun, ⟨_, hrec, rfl, rfl, rfl, rfl, rfl, rfl, rfl, rfl, rfl, rfl⟩, fun x hx => ?_,
    htrap, hmem, hisl, hagenda, htick, hothers⟩
  · rw [hme]; exact hpend
  · rw [hme]; exact hloads
  · rw [hme]; exact hsto
  · rw [hme]; exact hwmx
  · rw [hme]; exact hpops
  · have hl : t.me.launch = s.me.launch := by rw [hme]; exact hlaunch
    have hpool : t.dev = (undoPops s.cur s).dev := rfl
    unfold State.myStage State.launch? at hx ⊢
    rw [hl, hpool]
    exact undoPops_stage s.cur s x hx

end Sys2Proof.Machine
end

section
/-! O9: which of two rounds is the later one depends on their order when they are 2^47 apart. -/

namespace Sys2Proof.Machine

/-- Refutes O9: an acquire's round 2^47 that lands where Rr is 0 leaves 2^47 there, the later of Rr and the round; the last clause
compares the round with Rr instead, and would leave 0: rounds that far apart are neither at least the other (R262). -/
theorem not_landingOfDeliveries : ¬ Obligations.LandingOfDeliveries := by
  unfold Obligations.LandingOfDeliveries
  rintro ⟨-, -, land⟩
  obtain ⟨-, -, -, -, -, -, -, -, -, racq⟩ := land CoreSt.init.r
  have hround := congrArg (fun r : Regs => tget 0 r.rr 0) (racq 0 0x800000000000)
  revert hround
  decide +kernel

end Sys2Proof.Machine
end

section
/-! O7: what a false guard, and what the decode checks, keep an operation from. -/

namespace Sys2Proof.Machine

section
variable (op : Nat) {g : Guard} {s : State} (f : State → State) (hg : guardOk g s = false)

theorem inBody_idle (h : s.me.r.mode = .idle) : inBody s.me.r = false := by
  rw [inBody, h]
  rfl

include hg

theorem guardedIf_false {ok : Bool} (h : ok = true) : guardedIf ok op g s f = .next s := by
  rw [guardedIf, if_pos h, guarded_false f hg]

theorem privileged_false (h : isMgmt s.cur = true) : privileged op g s f = .next s := by
  rw [privileged, if_pos h, guarded_false f hg]

theorem privilegedIf_false {ok : Bool} (h : isMgmt s.cur = true) (hok : ok = true) : privilegedIf ok op g s f = .next s := by
  rw [privilegedIf, h, hok, Bool.true_and, if_pos rfl, guarded_false f hg]

theorem transfer_false (t : State → W64) (link : Option (BitVec 6)) (h : s.me.r.mode = .idle) : transfer op g t link s = .next s := by
  rw [transfer, inBody_idle h, if_neg Bool.false_ne_true, guarded_false _ hg]

theorem loopOp_false (m : LoopMode) (a : BitVec 6) (ii : BitVec 8) (ns1 : BitVec 3) (h : s.me.r.mode = .idle) :
    loopOp op m g a ii ns1 s = .next s := by
  rw [loopOp, if_neg (not_not.2 h), guarded_false _ hg]

theorem execSnext_false (imm : BitVec 33) (h : s.me.r.mode = .idle) : execSnext g imm s = .next s := by
  rw [execSnext, inBody_idle h, if_neg Bool.false_ne_true, guarded_false _ hg]

end

theorem le_of_not_lt_bool {a b : Nat} (h : decide (a < b) = false) : decide (b ≤ a) = true := by
  simpa using h

/-- A scalar operation with a false guard, which neither its mode, its core nor its fields make illegal, has no effect. -/
theorem exec_guard_false (i : Instr) (g : Guard) (s : State) (hi : scalarGuard i = some g) (hg : guardOk g s = false)
    (hidle : isTransfer i = true → s.me.r.mode = .idle) (hmgmt : isPrivileged i = true → isMgmt s.cur = true) (hok : encBad s i = false) :
    exec i s = .next s := by
  cases i
  case add | sub | mul | mulh | mulhn | div | divn | rem | remn | addi | muli | and | or | xor | andn | orn | xnor | andi | ori |
      xori | shl | shr | sar | rol | ror | shli | shri | sari | min | max | minn | maxn | abs | neg | clz | ctz | popc | bswap |
      bexs | bexz | bins | sel | li | lih | mov | adds | subs | sext | zext | cmpeq | cmpne | cmplt | cmple | cmpltn | cmplen |
      cmpeqi | cmplti | pand | por | pxor | pandn | pnot | pmov | pset | pget | pcnt | ldb | ldbn | ldh | ldhn | ldw | ldwn | ldd |
      stb | sth | stw | std | lda | stl | fence | rpub | radv | racq | rrnd | hoist | sight | hrnd | barr | bwait | bgen | tkpoll | rwait | rrel | rstat | nsw | ngw | mset | mseti | mget | mpld | mpent | mstat | ckst | pull | push | retire |
      launch | lpoll | clkdivReg | trap | ejrd | qdep | brk =>
    delta exec
    exact guarded_false _ (Option.some.inj hi ▸ hg)
  case tkwait => rfl
  case br | jmp | call | callr | ret =>
    exact transfer_false _ (Option.some.inj hi ▸ hg) _ _ (hidle rfl)
  case loop | sloop =>
    exact loopOp_false _ (Option.some.inj hi ▸ hg) _ _ _ _ (hidle rfl)
  case snext => exact execSnext_false (Option.some.inj hi ▸ hg) _ (hidle rfl)
  case xlinv | purge | eret | wfe | stest | hsw =>
    exact privileged_false _ _ (Option.some.inj hi ▸ hg) (hmgmt rfl)
  case mfpr | mtpr =>
    exact privilegedIf_false _ _ (Option.some.inj hi ▸ hg) (hmgmt rfl) (Option.isNone_eq_false_iff.1 hok)
  case mfsp | mtsp | clkdiv =>
    exact guardedIf_false _ _ (Option.some.inj hi ▸ hg) ((Bool.not_eq_false' _).mp hok)
  case rnew => exact guardedIf_false _ _ (Option.some.inj hi ▸ hg) (bne_iff_ne.2 (beq_eq_false_iff_ne.1 hok))
  case ldr | ldk | pgin =>
    exact guardedIf_false _ _ (Option.some.inj hi ▸ hg) ((Bool.not_eq_false' _).mp hok)
  case amoadd | amoand | amoor | amoxor | amomin | amomax | amominn | amomaxn | amoswp | amocas =>
    exact guardedIf_false _ _ (Option.some.inj hi ▸ hg) (le_of_not_lt_bool (Bool.or_eq_false_iff.1 hok).2)
  all_goals exact nomatch hi

/-- An operation that is refused as it is decoded refuses the slot that it stands in. -/
theorem defect_refused (c : CoreId) (s : State) (h : Header) (w : SlotWord) (rest : List SlotWord) (i : Instr)
    (hw : decodeSlot w = some i) (href : refusedAt c s [] i = true) (hrsv : h.rsv = 0)
    (hsafe : h.safe = true → inBody (s.core.get c).r = false) : defect c s h (w :: rest) = .error (0, 0x03, slotOp w) := by
  have hpoint : ¬ (h.safe && inBody (s.core.get c).r) = true := by
    simpa using hsafe
  rw [defect, if_neg (not_not.2 hrsv), if_neg hpoint, decodeSlots, hw]
  dsimp only
  rw [if_pos href]

/-- Settles O7: the first part by the form of each scalar operation, the second as the first slot is the one refused. -/
theorem falseGuardDoesNothing : Obligations.FalseGuardDoesNothing := by
  unfold Obligations.FalseGuardDoesNothing
  refine ⟨exec_guard_false, fun c s h w rest i hw href hrsv hsafe => defect_refused c s h w rest i hw ?_ hrsv hsafe⟩
  obtain ⟨hb, ht⟩ | ⟨hp, hm⟩ | he := href
  · simp [refusedAt, hb, ht]
  · simp [refusedAt, hp, hm]
  · simp [refusedAt, he]

end Sys2Proof.Machine
end

section
/-! O14, O15, O16: transfers, loops and special registers. -/

namespace Sys2Proof.Machine

/-- An address lies below 2^54 if its ten upper bits are 0 (R110). -/
theorem upper_bits_zero_iff (t : W64) : t.extractLsb' 54 10 = 0 ↔ t.toNat < 2 ^ 54 := by
  have ht := t.isLt
  rw [← BitVec.toNat_inj, BitVec.extractLsb'_toNat, Nat.shiftRight_eq_div_pow]
  simp only [BitVec.ofNat_eq_ofNat, BitVec.toNat_ofNat, Nat.zero_mod]
  omega

section
variable {t : W64} {link : Option (BitVec 6)} {s : State}

theorem jumpTo_odd (h : t.getLsbD 0 = true) : jumpTo t link s = takeTrap 0x05 t 0 s := by
  unfold jumpTo
  rw [if_pos h]

theorem jumpTo_high (h : t.getLsbD 0 = false) (hhi : 2 ^ 54 ≤ t.toNat) : jumpTo t link s = takeTrap 0x0A t 7 s := by
  have hne : t.extractLsb' 54 10 ≠ 0 := fun h0 => absurd ((upper_bits_zero_iff t).1 h0) (not_lt.2 hhi)
  unfold jumpTo
  rw [h, if_neg Bool.false_ne_true, if_pos (bne_iff_ne.2 hne)]

theorem jumpTo_ok (h : t.getLsbD 0 = false) (hlo : t.toNat < 2 ^ 54) :
    jumpTo t link s = { (match link with | some d => toS 1 d s.bun.nxt s | none => s) with
      bun := { (match link with | some d => toS 1 d s.bun.nxt s | none => s).bun with target := some t } } := by
  unfold jumpTo
  rw [h, if_neg Bool.false_ne_true, (upper_bits_zero_iff t).2 hlo]
  rfl

end

theorem transfer_runs {op : Nat} {g : Guard} {t : State → W64} {link : Option (BitVec 6)} {s u : State}
    (hb : inBody s.me.r = false) (hg : guardOk g s = true) (h : jumpTo (t s) link s = u) : transfer op g t link s = .next u := by
  rw [transfer, hb, if_neg Bool.false_ne_true, guarded_true _ hg, h]

theorem transfer_inBody (op : Nat) (g : Guard) (t : State → W64) (link : Option (BitVec 6)) (s : State) (hb : inBody s.me.r = true) :
    transfer op g t link s = .next (illegal op s) := by
  rw [transfer, if_pos hb]

/-- Settles O14: jumpTo's three cases, for the five transfers. -/
theorem controlTransfers : Obligations.ControlTransfers := by
  unfold Obligations.ControlTransfers
  intro g d a imm s rel reg go five trapRel trapReg
  refine ⟨fun hb hg => ⟨fun hodd hlo hodd' hlo' => ?_, fun hodd => ?_, fun hodd hhi => ?_, fun hodd => ?_, fun hodd hhi => ?_⟩, fun hb => ?_⟩
  · exact ⟨transfer_runs hb hg (jumpTo_ok hodd hlo), transfer_runs hb hg (jumpTo_ok hodd hlo), transfer_runs hb hg (jumpTo_ok hodd' hlo'),
      transfer_runs hb hg (jumpTo_ok hodd' hlo'), transfer_runs hb hg (jumpTo_ok hodd' hlo')⟩
  · exact ⟨transfer_runs hb hg (jumpTo_odd hodd), transfer_runs hb hg (jumpTo_odd hodd)⟩
  · exact ⟨transfer_runs hb hg (jumpTo_high hodd hhi), transfer_runs hb hg (jumpTo_high hodd hhi)⟩
  · exact ⟨transfer_runs hb hg (jumpTo_odd hodd), transfer_runs hb hg (jumpTo_odd hodd), transfer_runs hb hg (jumpTo_odd hodd)⟩
  · exact ⟨transfer_runs hb hg (jumpTo_high hodd hhi), transfer_runs hb hg (jumpTo_high hodd hhi),
      transfer_runs hb hg (jumpTo_high hodd hhi)⟩
  · exact ⟨transfer_inBody _ _ _ _ _ hb, transfer_inBody _ _ _ _ _ hb, transfer_inBody _ _ _ _ _ hb, transfer_inBody _ _ _ _ _ hb,
      transfer_inBody _ _ _ _ _ hb⟩

/-! Loops (R102 to R107). -/

theorem rawP_setP (r : Regs) (d i : BitVec 4) (v m : W64) :
    (r.setP d v m).rawP i = if i = d ∧ d ≠ 0 then v &&& m ||| r.rawP i &&& ~~~m else r.rawP i := by
  by_cases hd : d = 0
  · simp [Regs.setP, hd]
  · by_cases hi : i = 0
    · have hne : ¬ (i = d ∧ d ≠ 0) := fun h => hd (h.1 ▸ hi)
      simp only [Regs.setP, Regs.rawP, if_neg hd, if_pos hi, if_neg hne]
    · simp only [Regs.setP, Regs.rawP, if_neg hd, if_neg hi]
      by_cases e : i = d
      · subst e; rw [if_pos ⟨rfl, hd⟩, Vector.getElem_set_self]
      · rw [if_neg (fun h => e h.1), Vector.getElem_set_ne _ _ (fun h => e (BitVec.eq_of_toNat_eq h.symm))]

/-- Writing a whole predicate other than p0. -/
theorem rawP_setP_whole (r : Regs) (d i : BitVec 4) (v : W64) (hd : d ≠ 0) :
    (r.setP d v (BitVec.allOnes 64)).rawP i = if i = d then v else r.rawP i := by
  rw [rawP_setP, BitVec.and_allOnes, BitVec.not_allOnes, BitVec.and_zero, BitVec.or_zero]
  exact if_congr (and_iff_left hd) rfl rfl

theorem setP_fields (r : Regs) (d : BitVec 4) (v m : W64) : (r.setP d v m).lct = r.lct ∧ (r.setP d v m).lsc = r.lsc ∧
    (r.setP d v m).rotV = r.rotV ∧ (r.setP d v m).rotP = r.rotP ∧ (r.setP d v m).mode = r.mode := by
  unfold Regs.setP
  split <;> exact ⟨rfl, rfl, rfl, rfl, rfl⟩

/-- The physical predicates of P(8) to P(15) are eight, none of them p0 (R16). -/
theorem physP_rotating (p : BitVec 3) (i j : BitVec 4) (hi : 8 ≤ i.toNat) (hj : 8 ≤ j.toNat) :
    (8 + (i.setWidth 3 + p).setWidth 4 : BitVec 4) ≠ 0 ∧
    ((8 + (i.setWidth 3 + p).setWidth 4 : BitVec 4) = 8 + (j.setWidth 3 + p).setWidth 4 ↔ i = j) := by
  revert p i j
  decide +kernel

theorem physP_eq_of_ge (r : Regs) (j : BitVec 4) (h : 8 ≤ j.toNat) : r.physP j = 8 + (j.setWidth 3 + r.rotP).setWidth 4 :=
  if_neg (not_lt.2 h)

/-- The results that start a loop, in issue order: trip count, stages, and the stage predicates (R102). -/
def loopEffs (r : Regs) (a : W64) (ns : Nat) : List Eff :=
  .lct (a - 1) :: .lsc (BitVec.ofNat 64 ns) :: .p (r.physP 8) (BitVec.allOnes 64) (BitVec.allOnes 64) ::
    (List.range 7).map fun j => .p (r.physP (BitVec.ofNat 4 (9 + j))) 0 (BitVec.allOnes 64)

theorem startLoop_spec (m : LoopMode) (a : W64) (ii ns : Nat) (s : State) (h : s.me.pend = []) :
    (startLoop m a ii ns s).me = { s.me with
      pend := (loopEffs s.me.r a ns).map fun e => ⟨.ctl, 1, s.tick + 1 * s.me.div.ctl, s.order, e⟩
      r := { s.me.r with mode := m, bodyStart := s.bun.nxt, bodyLen := ii, pos := 0 } } := by
  simp [startLoop, deliver_me, List.range, List.range.loop, h, insDel, loopEffs, State.order]

/-- All that is due lands in issue order, if none of it is flags. -/
theorem landAll_r_of_due (k : CoreSt) (t : Nat) (hdue : ∀ x ∈ k.pend, x.ready ≤ t) (hf : ∀ x ∈ k.pend, x.eff.isFlags = false) :
    (k.landAll t).r = k.pend.foldl (fun r x => r.land x.eff) k.r := by
  have hready : (k.pend.filter fun d => decide (d.ready ≤ t)) = k.pend := List.filter_eq_self.2 fun x hx => decide_eq_true (hdue x hx)
  have hnone : (k.pend.filter fun d => d.eff.isFlags) = [] := List.filter_eq_nil_iff.2 fun x hx => by simp [hf x hx]
  have hall : (k.pend.filter fun d => !d.eff.isFlags) = k.pend := List.filter_eq_self.2 fun x hx => by simp [hf x hx]
  show ((k.pend.filter fun d => decide (d.ready ≤ t)).filter (fun d => !d.eff.isFlags) ++
    (k.pend.filter fun d => decide (d.ready ≤ t)).filter (fun d => d.eff.isFlags)).foldl (fun r x => r.land x.eff) k.r = _
  rw [hready, hnone, hall, List.append_nil]

/-- Stage predicates set to 0 leave the loop counters. -/
theorem clearP_fields (l : List (BitVec 4)) (f : BitVec 4 → BitVec 4) (r : Regs) :
    (l.foldl (fun r j => r.land (.p (f j) 0 (BitVec.allOnes 64))) r).lct = r.lct ∧
    (l.foldl (fun r j => r.land (.p (f j) 0 (BitVec.allOnes 64))) r).lsc = r.lsc ∧
    (l.foldl (fun r j => r.land (.p (f j) 0 (BitVec.allOnes 64))) r).rotP = r.rotP := by
  induction l generalizing r with
  | nil => exact ⟨rfl, rfl, rfl⟩
  | cons j l ih =>
    obtain ⟨hlct, hlsc, hrot⟩ := ih (r.land (.p (f j) 0 (BitVec.allOnes 64)))
    obtain ⟨hlct', hlsc', -, hrot', -⟩ := setP_fields r (f j) 0 (BitVec.allOnes 64)
    exact ⟨hlct.trans hlct', hlsc.trans hlsc', hrot.trans hrot'⟩

/-- Rotating predicates set to 0, as the registers at issue number them. -/
theorem clearP_rawP (p : Regs) (l : List (BitVec 4)) (hl : ∀ j ∈ l, 8 ≤ j.toNat) (r : Regs) (i : BitVec 4) (hi : 8 ≤ i.toNat) :
    (l.foldl (fun r j => r.land (.p (p.physP j) 0 (BitVec.allOnes 64))) r).rawP (p.physP i) =
      if i ∈ l then 0 else r.rawP (p.physP i) := by
  induction l generalizing r with
  | nil => simp
  | cons j l ih =>
    obtain ⟨hne, -⟩ := physP_rotating p.rotP j i (hl j List.mem_cons_self) hi
    obtain ⟨-, hinj⟩ := physP_rotating p.rotP i j hi (hl j List.mem_cons_self)
    rw [← physP_eq_of_ge p j (hl j List.mem_cons_self)] at hne hinj
    rw [← physP_eq_of_ge p i hi] at hinj
    rw [List.foldl_cons, ih (fun j hj => hl j (List.mem_cons_of_mem _ hj))]
    simp only [Regs.land, rawP_setP_whole r _ _ _ hne, hinj, List.mem_cons]
    by_cases h : i ∈ l <;> simp [h]

/-- The rotating predicates other than P(8). -/
def laterP : List (BitVec 4) := (List.range 7).map fun j => BitVec.ofNat 4 (9 + j)

theorem mem_laterP (j : BitVec 4) : j ∈ laterP ↔ 8 < j.toNat := by
  revert j
  decide

theorem loopEffs_land (r q : Regs) (a : W64) (ns : Nat) (hq : q.rotP = r.rotP) :
    let u := (loopEffs r a ns).foldl (fun r e => r.land e) q
    u.lct = a - 1 ∧ u.lsc = BitVec.ofNat 64 ns ∧ u.getP 8 = BitVec.allOnes 64 ∧ ∀ j : BitVec 4, 8 < j.toNat → u.getP j = 0 := by
  intro u
  have hu : u = laterP.foldl (fun r' j => r'.land (.p (r.physP j) 0 (BitVec.allOnes 64)))
      ({ q with lct := a - 1, lsc := BitVec.ofNat 64 ns }.setP (r.physP 8) (BitVec.allOnes 64) (BitVec.allOnes 64)) := by
    simp only [u, loopEffs, laterP, List.foldl_cons, List.foldl_map]
    rfl
  obtain ⟨hlct, hlsc, hrot⟩ := clearP_fields laterP (fun j => r.physP j)
    ({ q with lct := a - 1, lsc := BitVec.ofNat 64 ns }.setP (r.physP 8) (BitVec.allOnes 64) (BitVec.allOnes 64))
  obtain ⟨hlct', hlsc', -, hrot', -⟩ := setP_fields { q with lct := a - 1, lsc := BitVec.ofNat 64 ns } (r.physP 8) (BitVec.allOnes 64)
    (BitVec.allOnes 64)
  have hphys : ∀ j : BitVec 4, 8 ≤ j.toNat → u.getP j = u.rawP (r.physP j) := by
    intro j hj
    rw [Regs.getP, physP_eq_of_ge u j hj, physP_eq_of_ge r j hj, hu, hrot, hrot', hq]
  have hne : r.physP 8 ≠ 0 := by
    rw [physP_eq_of_ge r 8 (le_refl _)]
    exact (physP_rotating r.rotP 8 8 (le_refl _) (le_refl _)).1
  have hlater : ∀ j ∈ laterP, 8 ≤ j.toNat := fun j hj => le_of_lt ((mem_laterP j).1 hj)
  refine ⟨?_, ?_, ?_, fun j hj => ?_⟩
  · rw [hu, hlct, hlct']
  · rw [hu, hlsc, hlsc']
  · rw [hphys 8 (le_refl _), hu, clearP_rawP r laterP hlater _ 8 (le_refl _), if_neg (by decide), rawP_setP_whole _ _ _ _ hne, if_pos rfl]
  · rw [hphys j (le_of_lt hj), hu, clearP_rawP r laterP hlater _ j (le_of_lt hj), if_pos ((mem_laterP j).2 hj)]

/-- One control cycle after a loop has started its registers and stage predicates are there (R102). -/
theorem startLoop_lands (m : LoopMode) (a : W64) (ii ns : Nat) (s : State) (h : s.me.pend = []) :
    let t := startLoop m a ii ns s
    let r := (t.me.landAll (t.tick + t.me.div.ctl)).r
    r.lct = a - 1 ∧ r.lsc = BitVec.ofNat 64 ns ∧ r.getP 8 = BitVec.allOnes 64 ∧ ∀ j : BitVec 4, 8 < j.toNat → r.getP j = 0 := by
  intro t r
  have hme : t.me = _ := startLoop_spec m a ii ns s h
  have htick : t.tick = s.tick := by simp [t, startLoop, List.range, List.range.loop]
  have hr : r = (loopEffs s.me.r a ns).foldl (fun r e => r.land e)
      { s.me.r with mode := m, bodyStart := s.bun.nxt, bodyLen := ii, pos := 0 } := by
    simp only [r]
    rw [landAll_r_of_due, hme, List.foldl_map]
    · rw [hme, htick]
      simp
    · rw [hme]
      simp [loopEffs, Eff.isFlags]
  rw [hr]
  exact loopEffs_land s.me.r _ a ns rfl

section
variable {op : Nat} {m : LoopMode} {g : Guard} {a : BitVec 6} {ii : BitVec 8} {ns1 : BitVec 3} {after : Nat} {s s1 : State}

theorem loopOp_in_loop (h : s.me.r.mode ≠ .idle) : loopOp op m g a ii ns1 s = .next (illegal op s) := by
  unfold loopOp
  rw [if_pos h]

theorem loopOp_no_body (h : s.me.r.mode = .idle) (hg : guardOk g s = true) : loopOp op m g a 0 ns1 s = .next (illegal op s) := by
  unfold loopOp
  rw [if_neg (not_not.2 h), guarded_true _ hg, if_pos rfl]

theorem loopOp_body (h : s.me.r.mode = .idle) (hg : guardOk g s = true) (hii : ii ≠ 0)
    (hskip : skipBundles s.cur ii.toNat s.bun.nxt.toNat s = .ok (after, s1)) : loopOp op m g a ii ns1 s =
      .next (if s.me.r.getS a = 0 then { s1 with bun := { s1.bun with target := some (BitVec.ofNat 64 after) } }
        else startLoop m (s.me.r.getS a) ii.toNat (ns1.toNat + 1) s1) := by
  unfold loopOp
  rw [if_neg (not_not.2 h), guarded_true _ hg, if_neg hii, hskip]

/-- A loop with a trip count that is not 0 (R102). -/
theorem loopOp_starts (h : s.me.r.mode = .idle) (hg : guardOk g s = true) (hii : ii ≠ 0)
    (hskip : skipBundles s.cur ii.toNat s.bun.nxt.toNat s = .ok (after, s1)) (hn : s.me.r.getS a ≠ 0) (hp : s1.me.pend = []) :
    ∃ t, loopOp op m g a ii ns1 s = .next t ∧ t.me.r = { s1.me.r with mode := m, bodyStart := s1.bun.nxt, bodyLen := ii.toNat, pos := 0 } ∧
      let r := (t.me.landAll (t.tick + t.me.div.ctl)).r
      r.lct = s.me.r.getS a - 1 ∧ r.lsc = BitVec.ofNat 64 (ns1.toNat + 1) ∧ r.getP 8 = 0xFFFFFFFFFFFFFFFF ∧
        ∀ j : BitVec 4, 8 < j.toNat → r.getP j = 0 := by
  refine ⟨_, loopOp_body h hg hii hskip, ?_, ?_⟩
  · rw [if_neg hn, startLoop_spec _ _ _ _ _ hp]
  · rw [if_neg hn]
    exact startLoop_lands m (s.me.r.getS a) ii.toNat (ns1.toNat + 1) s1 hp

end

section
variable {g : Guard} {imm : BitVec 33} {s : State}

theorem execSnext_inBody (h : inBody s.me.r = true) : execSnext g imm s = .next (illegal 0x57 s) := by
  rw [execSnext, if_pos h]

theorem execSnext_idle (hg : guardOk g s = true) (h : s.me.r.mode = .idle) : execSnext g imm s = .next s := by
  rw [execSnext, inBody_idle h, if_neg Bool.false_ne_true, guarded_true _ hg, h]
  rfl

theorem execSnext_wait (hg : guardOk g s = true) (h : s.me.r.mode = .stepWait) : execSnext g imm s =
    .next (if s.me.r.goesOn then
        if (relTarget imm s).extractLsb' 54 10 ≠ 0 then takeTrap 0x0A (relTarget imm s) 7 s
        else { (s.modMe fun k => { k with r := { k.r with adv := true, mode := .stepRun, pos := 0 } }) with
          bun := { s.bun with target := some (relTarget imm s) } }
      else s.modMe fun k => { k with r := { k.r with adv := true } }) := by
  have hb : inBody s.me.r = false := by
    rw [inBody, h]
    rfl
  rw [execSnext, hb, if_neg Bool.false_ne_true, guarded_true _ hg, if_pos h]
  rfl

end

theorem advance_continue (q : Regs) (v : W64) :
    let r := q.rotate.setP8 v
    let u := if r.mode = .modulo then { r with pc := r.bodyStart, pos := 0 } else r
    u.lct = q.lct ∧ u.lsc = q.lsc ∧ u.rotV = q.rotV - 1 ∧ u.rotP = q.rotP - 1 ∧ u.getP 8 = v ∧ u.mode = q.mode := by
  intro r u
  obtain ⟨hlct, hlsc, hrotV, hrotP, hmode⟩ := setP_fields q.rotate (q.rotate.physP 8) v (BitVec.allOnes 64)
  have hP8 : r.getP 8 = v := by
    have hphys : r.physP 8 = q.rotate.physP 8 := by
      rw [physP_eq_of_ge _ 8 (le_refl _), physP_eq_of_ge _ 8 (le_refl _)]
      exact congrArg (fun p => (8 + ((8 : BitVec 4).setWidth 3 + p).setWidth 4 : BitVec 4)) hrotP
    have hne : q.rotate.physP 8 ≠ 0 := by
      rw [physP_eq_of_ge _ 8 (le_refl _)]
      exact (physP_rotating _ 8 8 (le_refl _) (le_refl _)).1
    rw [Regs.getP, hphys]
    exact (rawP_setP_whole _ _ _ _ hne).trans (if_pos rfl)
  have hu : u.lct = r.lct ∧ u.lsc = r.lsc ∧ u.rotV = r.rotV ∧ u.rotP = r.rotP ∧ u.getP 8 = r.getP 8 ∧ u.mode = r.mode := by
    simp only [u]
    split <;> exact ⟨rfl, rfl, rfl, rfl, rfl, rfl⟩
  obtain ⟨hul, hus, huv, hup, hu8, hum⟩ := hu
  exact ⟨hul.trans hlct, hus.trans hlsc, huv.trans hrotV, hup.trans hrotP, hu8.trans hP8, hum.trans hmode⟩

/-- Settles O15: the branches of loopOp, snext and Advance. -/
theorem loops : Obligations.Loops := by
  unfold Obligations.Loops
  refine ⟨fun g a ii ns1 after s s1 => ⟨fun h hg hii hskip => ⟨fun hn hp => ?_, fun hn => ?_⟩, fun h hg => ?_, fun h => ?_⟩,
    fun g imm s hg => ⟨fun h hgo hlo => ?_, fun h hgo hhi => ?_, fun h hgo => ?_, execSnext_idle hg, fun h => ?_⟩,
    fun r => ⟨fun h => ?_, fun h hs => ?_, fun h hs => ?_⟩⟩
  · exact ⟨loopOp_starts h hg hii hskip hn hp, loopOp_starts h hg hii hskip hn hp⟩
  · exact ⟨(loopOp_body h hg hii hskip).trans (by rw [if_pos hn]), (loopOp_body h hg hii hskip).trans (by rw [if_pos hn])⟩
  · exact ⟨loopOp_no_body h hg, loopOp_no_body h hg⟩
  · exact ⟨loopOp_in_loop h, loopOp_in_loop h⟩
  · refine ⟨_, execSnext_wait hg h, ?_⟩
    have hlow : (relTarget imm s).extractLsb' 54 10 = 0 := (upper_bits_zero_iff _).2 hlo
    rw [if_pos hgo, if_neg (not_not.2 hlow)]
    exact ⟨congrArg CoreSt.r (State.modMe_me s fun k => { k with r := { k.r with adv := true, mode := .stepRun, pos := 0 } }), rfl⟩
  · refine (execSnext_wait hg h).trans ?_
    have hhigh : (relTarget imm s).extractLsb' 54 10 ≠ 0 := fun h0 => absurd ((upper_bits_zero_iff _).1 h0) (not_lt.2 hhi)
    rw [if_pos hgo, if_pos hhigh]
    rfl
  · refine ⟨_, execSnext_wait hg h, ?_⟩
    rw [hgo, if_neg Bool.false_ne_true]
    exact ⟨congrArg CoreSt.r (State.modMe_me s _), rfl⟩
  · refine execSnext_inBody ?_
    obtain h | h := h <;> rw [inBody, h] <;> rfl
  · unfold Regs.advance
    rw [if_pos h]
    exact advance_continue { r with adv := false, lct := r.lct - 1 } _
  · unfold Regs.advance
    rw [if_neg (not_not.2 h), if_pos hs]
    obtain ⟨hlct, hrest⟩ := advance_continue { r with adv := false, lsc := r.lsc - 1 } 0
    exact ⟨hlct.trans h, hrest⟩
  · unfold Regs.advance
    rw [if_neg (not_not.2 h), if_neg (not_lt.2 hs)]

/-! Special registers (R21 to R25, R112). -/

theorem ofNat_mul_pow (v n : Nat) : BitVec.ofNat 64 (v * 2 ^ n) = BitVec.ofNat 64 v <<< n := by
  apply BitVec.eq_of_toNat_eq
  simp [BitVec.toNat_shiftLeft, Nat.shiftLeft_eq]

section
variable {g : Guard} {d a : BitVec 6} {s : State}

theorem execMfsp_unlisted {i : BitVec 8} (hi : 0x0E < i.toNat) : execMfsp g d i s = .next (illegal 0x58 s) := by
  have h : sprListed i = false := decide_eq_false (not_le.2 hi)
  rw [execMfsp, guardedIf, h, if_neg Bool.false_ne_true]

theorem execMtsp_unwritten {i : BitVec 8} (hi : sprWritten i = false) : execMtsp g a i s = .next (illegal 0x59 s) := by
  rw [execMtsp, guardedIf, hi, if_neg Bool.false_ne_true]

variable (hg : guardOk g s = true)
include hg

theorem execMfsp_reads {i : BitVec 8} {v : W64} (hi : sprListed i = true) (he : i ≠ 0x0E) (h : sprRead s i = some v) :
    execMfsp g d i s = .next (toS 1 d v { s with free := s.free + 1 }) := by
  rw [execMfsp, guardedIf, if_pos hi, guarded_true _ hg]
  dsimp only
  rw [if_neg he, h]

theorem execMtsp_written {i : BitVec 8} (hi : sprWritten i = true) : execMtsp g a i s =
    .next (match i.toNat with
      | 0x07 => deliver 1 (.fst ((s.me.r.getS a).setWidth 8)) s
      | 0x08 => deliver 1 (.rot ((s.me.r.getS a).setWidth 4) ((s.me.r.getS a).extractLsb' 8 3)) s
      | 0x0B => deliver 1 (.lct (s.me.r.getS a)) s
      | 0x0C => if s.me.r.getS a = 0 ∨ 8 < (s.me.r.getS a).toNat then illegal 0x59 s else deliver 1 (.lsc (s.me.r.getS a)) s
      | _ => illegal 0x59 s) := by
  rw [execMtsp, guardedIf, if_pos hi, guarded_true _ hg] <;> rfl

end

/-- Settles O16: each row of sprRead, and of execMtsp. -/
theorem specialRegisters : Obligations.SpecialRegisters := by
  unfold Obligations.SpecialRegisters
  intro g d a s hg k x reads byte
  have hread (i : BitVec 8) (v : W64) (hi : sprListed i = true) (he : i ≠ 0x0E) (h : sprRead s i = some v) : reads i v :=
    execMfsp_reads hg hi he h
  have hrot : rotWord k.r = byte 0 k.r.rotV.toNat + byte 1 k.r.rotP.toNat := by
    simp only [rotWord, byte, BitVec.ofNat_add, ofNat_mul_pow, Nat.reduceMul, BitVec.shiftLeft_zero]
  have hdiv : divWord k.div = byte 0 k.div.ctl + byte 1 k.div.vec + byte 2 k.div.mtx + byte 3 k.div.cpy := by
    simp only [divWord, byte, BitVec.ofNat_add, ofNat_mul_pow, Nat.reduceMul, BitVec.shiftLeft_zero]
  have hocn : ocnWord k = byte 0 (k.ldc % 64) + byte 1 (k.stc % 64) + byte 2 (k.cpc % 64) + byte 3 (k.til % 64) := by
    simp only [ocnWord, byte, BitVec.ofNat_add, ofNat_mul_pow, Nat.reduceMul, BitVec.shiftLeft_zero]
  refine ⟨⟨hread _ _ rfl (by decide) rfl, fun hm => hread _ _ rfl (by decide) ?_, fun hm => hread _ _ rfl (by decide) ?_,
    hread _ _ rfl (by decide) rfl, hread _ _ rfl (by decide) rfl, hread _ _ rfl (by decide) rfl, hread _ _ rfl (by decide) rfl,
    hread _ _ rfl (by decide) rfl, hread _ _ rfl (by decide) rfl, hread _ _ rfl (by decide) (congrArg some hrot),
    hread _ _ rfl (by decide) (congrArg some hdiv), hread _ _ rfl (by decide) (congrArg some hocn), hread _ _ rfl (by decide) rfl,
    hread _ _ rfl (by decide) rfl, hread _ _ rfl (by decide) rfl⟩, fun i => execMfsp_unlisted, execMtsp_written hg rfl,
    execMtsp_written hg rfl, execMtsp_written hg rfl, fun hlo hhi => ?_, fun h => ?_, fun i h7 h8 hb hc => execMtsp_unwritten ?_⟩
  · exact congrArg some (if_neg (by rw [hm]; exact Bool.false_ne_true))
  · exact congrArg some (if_pos hm)
  · refine (execMtsp_written hg rfl).trans (congrArg Host.Outcome.next (if_neg ?_))
    rw [not_or, not_lt]
    exact ⟨fun h0 => absurd (congrArg BitVec.toNat h0 ▸ hlo) (by decide), hhi⟩
  · refine (execMtsp_written hg rfl).trans (congrArg Host.Outcome.next (if_pos ?_))
    exact h.imp_left fun h0 => BitVec.eq_of_toNat_eq h0
  · simpa [sprWritten, and_assoc] using And.intro h7 (And.intro h8 (And.intro hb hc))

end Sys2Proof.Machine
end

section
/-! O17, O19, O20: addresses, stores, residency and fences. -/

namespace Sys2Proof.Machine

/-! The checks of an address (R178). -/

section
variable (op : Nat) {sp : BitVec 2} {ea : W64} {z : Nat} {acc : Acc} {s : State}

theorem checkAddr_reserved : checkAddr op 3 ea z acc s = .trap 0x03 0 (BitVec.ofNat 64 op) := rfl

theorem checkAddr_misaligned (hsp : sp ≠ 3) (h : ¬ z ∣ ea.toNat) : checkAddr op sp ea z acc s = .trap 0x06 ea (BitVec.ofNat 64 z) := by
  rw [checkAddr, if_neg hsp, if_pos (fun h0 => h (Nat.dvd_of_mod_eq_zero h0))]

variable (h : z ∣ ea.toNat)
include h

theorem checkAddr_pad : checkAddr op 1 ea z acc s =
    if 0x200000 < ea.toNat + z then .trap 0x07 ea (BitVec.ofNat 64 z) else .at .pad ea (padKey s.cur ea.toNat) (.ok 0 none) := by
  rw [checkAddr, if_neg (by decide), if_neg (not_not.2 (Nat.mod_eq_zero_of_dvd h)), if_pos rfl]

theorem checkAddr_staging : checkAddr op 2 ea z acc s =
    if 2 ^ 27 ≤ ea.toNat ∨ !stagingOk s s.cur ea.toNat z then .trap 0x08 ea (BitVec.ofNat 64 z)
    else .at .stg ea (stgOf s s.cur ea.toNat) (.ok 0 none) := by
  rw [checkAddr, if_neg (by decide), if_neg (not_not.2 (Nat.mod_eq_zero_of_dvd h)), if_neg (by decide), if_pos rfl]

theorem checkAddr_global_high (hi : 2 ^ 54 ≤ ea.toNat) : checkAddr op 0 ea z acc s = .trap 0x0A ea 7 := by
  rw [checkAddr, if_neg (by decide), if_neg (not_not.2 (Nat.mod_eq_zero_of_dvd h)), if_neg (by decide), if_neg (by decide), if_pos hi]

end

theorem natBits_eq (x hi lo : Nat) : natBits x hi lo = x / 2 ^ lo % 2 ^ (hi + 1 - lo) := by
  rw [natBits, Nat.shiftRight_eq_div_pow]

/-- Bytes beyond a slice's staging ways fail the check of the range. -/
theorem stagingOk_beyond (s : State) (c : CoreId) (a z : Nat) (h : stagingSize s c (a / 2 ^ 22 % 32) < a % 2 ^ 22 + z) :
    stagingOk s c a z = false := by
  have hslice : natBits a 26 22 = a / 2 ^ 22 % 32 := natBits_eq a 26 22
  have hoff : natBits a 21 0 = a % 2 ^ 22 := by rw [natBits_eq, pow_zero, Nat.div_one]
  rw [stagingOk, hslice, hoff, decide_eq_false (not_le.2 h), Bool.false_and]

/-- Settles O17: each check with those before it passed. -/
theorem addressChecks : Obligations.AddressChecks := by
  unfold Obligations.AddressChecks
  intro op ea z acc s hz
  have hpos : 1 ≤ z := by
    simp only [List.mem_cons, List.not_mem_nil, or_false] at hz
    omega
  refine ⟨checkAddr_reserved op, fun h sp hsp => checkAddr_misaligned op hsp h, fun h => ⟨fun hi => ?_, fun hlo => ?_, fun hi => ?_,
    checkAddr_global_high op h⟩⟩
  · rw [checkAddr_pad op h, if_pos (by omega)]
  · rw [checkAddr_pad op h, if_neg (by omega)]
  · rw [checkAddr_staging op h, if_pos]
    refine hi.imp_right fun hlen => ?_
    rw [stagingOk_beyond s s.cur ea.toNat z (by omega)]
    rfl

/-! Translations kept with an access (R337). -/

/-- Keeping a translation changes the core's buffer of translations, its island's table entries and the free counter. -/
theorem keepXlat_frame (c : CoreId) (x : XRes) (s : State) :
    (keepXlat c x s).mem = s.mem ∧ (keepXlat c x s).agenda = s.agenda ∧ (keepXlat c x s).tick = s.tick ∧
    (keepXlat c x s).cur = s.cur ∧ (keepXlat c x s).bun = s.bun ∧ (keepXlat c x s).dev = s.dev ∧
    ∀ d, ∃ l, (keepXlat c x s).core.get d = { s.core.get d with tlb := l } := by
  unfold keepXlat
  split
  · split
    · exact ⟨rfl, rfl, rfl, rfl, rfl, rfl, fun d => ⟨_, rfl⟩⟩
    · refine ⟨rfl, rfl, rfl, rfl, rfl, rfl, fun d => ?_⟩
      dsimp only
      rw [State.modI_core, State.modC_get_if]
      split
      next hd => subst hd; exact ⟨_, rfl⟩
      next => exact ⟨_, rfl⟩
  · exact ⟨rfl, rfl, rfl, rfl, rfl, rfl, fun d => ⟨_, rfl⟩⟩

theorem keepXlat_me (x : XRes) (s : State) : ∃ l, (keepXlat s.cur x s).me = { s.me with tlb := l } := by
  obtain ⟨-, -, -, hcur, -, -, hcore⟩ := keepXlat_frame s.cur x s
  obtain ⟨l, hl⟩ := hcore s.cur
  exact ⟨l, by rw [State.me, hcur, hl]⟩

/-! Stores at issue (R182, R184). -/

section
variable {i : Instr} {op z : Nat} {sp : BitVec 2} {ea v : W64} {rel : Bool} {scp : BitVec 2} {s : State}

/-- A store that its checks let pass is withheld, with its bytes. -/
theorem storeAt_withholds {space : Sp} {key : Nat} {x : XRes} (h : checkAddr op sp ea z .wr s = .at space ea key x) :
    let t := storeAt z v rel scp (checkAddr op sp ea z .wr s) s
    ∃ w, t.me.wst = s.me.wst ++ [w] ∧ w.seq = s.order ∧ w.sp = space ∧ w.entries = 1 ∧ w.cells = cellsOf key v.toNat z ∧
      (∀ k, memRd t.mem k = memRd s.mem k) ∧ t.me.r = s.me.r ∧ t.me.pend = s.me.pend ∧ t.agenda = s.agenda := by
  intro t
  obtain ⟨hmem, hagenda, -, -, hbun, -, -⟩ := keepXlat_frame s.cur x s
  obtain ⟨l, hme⟩ := keepXlat_me x s
  have ht : t = withhold space ea (cellsOf key v.toNat z) 1 rel scp none (tripOf s s.cur ea x) (keepXlat s.cur x s) := by
    simp only [t, h, storeAt]
  have hmem' : t.mem = s.mem := by rw [ht]; exact hmem
  have hagenda' : t.agenda = s.agenda := by rw [ht]; exact hagenda
  have hme' : t.me = _ := (congrArg State.me ht).trans (withhold_me _ _ _ _ _ _ _ _ _)
  have horder : (keepXlat s.cur x s).order = s.order := by rw [State.order, hbun]; rfl
  rw [hme] at hme'
  rw [hme', hmem', hagenda']
  exact ⟨_, rfl, horder, rfl, rfl, rfl, fun _ => rfl, rfl, rfl, rfl⟩

/-- What a store of z bytes to ea does with each outcome of its checks. -/
theorem storeAt_cases (hi : exec i s = .next (storeAt z v rel scp (checkAddr op sp ea z .wr s) s)) :
    (∀ space key x, checkAddr op sp ea z .wr s = .at space ea key x →
      ∃ t w, exec i s = .next t ∧ t.me.wst = s.me.wst ++ [w] ∧ w.seq = s.order ∧ w.sp = space ∧ w.entries = 1 ∧
        w.cells = cellsOf key v.toNat z ∧ (∀ k, memRd t.mem k = memRd s.mem k) ∧ t.me.r = s.me.r ∧ t.me.pend = s.me.pend ∧
        t.agenda = s.agenda) ∧
    (checkAddr op sp ea z .wr s = .absent ea → exec i s = .next (takeTrap 0x0C ea 0 s)) ∧
    (∀ c f dt, checkAddr op sp ea z .wr s = .trap c f dt → exec i s = .next (takeTrap c f dt s)) := by
  refine ⟨fun space key x h => ?_, fun h => ?_, fun c f dt h => ?_⟩
  · obtain ⟨w, hw⟩ := storeAt_withholds (v := v) (rel := rel) (scp := scp) h
    exact ⟨_, w, hi, hw⟩
  · rw [hi, h]; rfl
  · rw [hi, h]; rfl

end

theorem stores_at_issue (g : Guard) (a b : BitVec 6) (sp scp sz : BitVec 2) (off : BitVec 22) (s : State) (hg : guardOk g s = true) :
    let ea := s.me.r.getS a + off.signExtend 64
    let z := 2 ^ sz.toNat
    ∀ e ∈ [(Instr.stb g a b sp off, 0x67, 1), (.sth g a b sp off, 0x68, 2), (.stw g a b sp off, 0x69, 4),
        (.std g a b sp off, 0x6A, 8), (.stl g a b sp scp sz off, 0x6E, z)],
      ∃ rel x, exec e.1 s = .next (storeAt e.2.2 (s.me.r.getS b) rel x (checkAddr e.2.1 sp ea e.2.2 .wr s) s) := by
  intro ea z e he
  simp only [List.mem_cons, List.not_mem_nil, or_false] at he
  obtain rfl | rfl | rfl | rfl | rfl := he
  · exact ⟨_, _, guarded_true _ hg⟩
  · exact ⟨_, _, guarded_true _ hg⟩
  · exact ⟨_, _, guarded_true _ hg⟩
  · exact ⟨_, _, guarded_true _ hg⟩
  · exact ⟨_, _, guarded_true _ hg⟩

/-! Accesses on their way to their slices (R248, R349): what changes is their trips and the free counter. -/

/-- Core k with no trip of its accesses. -/
def CoreSt.noTrips (k : CoreSt) : CoreSt :=
  { k with loads := k.loads.map fun o => { o with trip := Trip.init }, sto := k.sto.map fun o => { o with trip := Trip.init } }

/-- Two states that differ in the trips of accesses, the number of arrivals and the free counter at most. -/
def TripsOnly (s u : State) : Prop :=
  u.mem = s.mem ∧ u.agenda = s.agenda ∧ u.tick = s.tick ∧ u.cur = s.cur ∧ u.isl = s.isl ∧ u.bun = s.bun ∧
  u.dev = { s.dev with arrN := u.dev.arrN } ∧ ∀ d, (u.core.get d).noTrips = (s.core.get d).noTrips

theorem tripsOnly_refl (s : State) : TripsOnly s s := ⟨rfl, rfl, rfl, rfl, rfl, rfl, rfl, fun _ => rfl⟩

theorem TripsOnly.trans {s u v : State} (h : TripsOnly s u) (h' : TripsOnly u v) : TripsOnly s v := by
  obtain ⟨h1, h2, h3, h4, h5, h6, h7, h8⟩ := h
  obtain ⟨h1', h2', h3', h4', h5', h6', h7', h8'⟩ := h'
  refine ⟨h1'.trans h1, h2'.trans h2, h3'.trans h3, h4'.trans h4, h5'.trans h5, h6'.trans h6, ?_, fun d => (h8' d).trans (h8 d)⟩
  rw [h7', h7]

theorem tripsOnly_pick (s : State) : TripsOnly s s.pick.2 := ⟨rfl, rfl, rfl, rfl, rfl, rfl, rfl, fun _ => rfl⟩

theorem tripsOnly_modTrip (s : State) (c : CoreId) (id : Nat) (f : Trip → Trip) : TripsOnly s (s.modTrip c id f) := by
  refine ⟨rfl, rfl, rfl, rfl, rfl, rfl, rfl, fun d => ?_⟩
  rw [State.modTrip, State.modC_get_if]
  split
  next h =>
    subst h
    simp only [CoreSt.noTrips, List.map_map]
    congr 1 <;> refine List.map_congr_left fun o _ => ?_ <;> dsimp only [Function.comp] <;> split <;> rfl
  next => rfl

theorem tripsOnly_arrive (s : State) (c : CoreId) (id : Nat) : TripsOnly s (s.arrive c id) :=
  (tripsOnly_modTrip s c id _).trans ⟨rfl, rfl, rfl, rfl, rfl, rfl, rfl, fun _ => rfl⟩

theorem tripsOnly_foldl {α : Type} (f : State → α → State) (l : List α) (s : State) (h : ∀ s a, TripsOnly s (f s a)) :
    TripsOnly s (l.foldl f s) := by
  induction l generalizing s with
  | nil => exact tripsOnly_refl s
  | cons a l ih => exact (h s a).trans (ih _)

theorem tripsOnly_letGo (s : State) (c : CoreId) (b : PathOp) : TripsOnly s (s.letGo c b).2 := by
  unfold State.letGo
  split
  · exact tripsOnly_refl s
  · split
    · exact tripsOnly_refl s
    · split
      · exact tripsOnly_arrive s c _
      · dsimp only
        split
        · exact tripsOnly_pick s
        · exact (tripsOnly_pick s).trans ((tripsOnly_foldl _ _ _ fun s e => tripsOnly_modTrip s c _ _).trans (tripsOnly_arrive _ c _))

/-- Asking whether an access may perform changes trips at most. -/
theorem tripsOnly_ready (s : State) (c : CoreId) (b : PathOp) (cached : Bool) : TripsOnly s (s.ready c b cached).2 := by
  have h := tripsOnly_letGo s c b
  unfold State.ready
  dsimp only
  split
  · exact h
  · split
    · exact h
    · split
      · exact h
      · split
        · split
          · exact h
          · exact h.trans ((tripsOnly_pick _).trans (tripsOnly_modTrip _ c _ _))
        · exact h

/-- An access that something keeps back, and that has not arrived at its slice, stays as it is. -/
theorem ready_blocked (s : State) (c : CoreId) (b : PathOp) (cached : Bool) (harr : b.trip.arr = none) (hb : s.blocked c b = true) :
    s.ready c b cached = (false, s) := by
  have hgo : s.letGo c b = (false, s) := by
    rw [State.letGo, harr, hb]
    rfl
  rw [State.ready, hgo]
  rfl

theorem noTrips_sto_id (k : CoreSt) : k.noTrips.sto.map (·.id) = k.sto.map (·.id) := by
  simp [CoreSt.noTrips]

theorem markCells_frame (cells : List Host.Cell) (bad : Option Nat) (s : State) :
    (markCells cells bad s).mem = s.mem ∧ (markCells cells bad s).agenda = s.agenda ∧ (markCells cells bad s).core = s.core := by
  unfold markCells
  dsimp only
  split
  · exact ⟨rfl, rfl, rfl⟩
  · split <;> exact ⟨rfl, rfl, rfl⟩

theorem noteNarrow_frame (c : CoreId) (b : PathOp) (s : State) :
    (noteNarrow c b s).mem = s.mem ∧ (noteNarrow c b s).agenda = s.agenda ∧ (noteNarrow c b s).core = s.core := by
  unfold noteNarrow
  split <;> exact ⟨rfl, rfl, rfl⟩

/-- Each byte of a little-endian write (R3). -/
theorem memRd_memWrs_cellsOf (n : Nat) : ∀ (m : List Host.Cell) (k v i : Nat), i < n →
    memRd (memWrs m (cellsOf k v n)) (k + i) = BitVec.ofNat 8 (v / 256 ^ i) := by
  induction n with
  | zero => intro m k v i hi; exact absurd hi (Nat.not_lt_zero i)
  | succ n ih =>
    intro m k v i hi
    show memRd (memWrs (memWr m k (BitVec.ofNat 8 v)) (cellsOf (k + 1) (v / 256) n)) (k + i) = _
    cases i with
    | zero => rw [memRd_cellsOf_ne _ _ _ _ _ (Or.inl (by omega)), Nat.add_zero, memRd_memWr_self, pow_zero, Nat.div_one]
    | succ i =>
      have hk : k + (i + 1) = k + 1 + i := by omega
      rw [hk, ih _ _ _ _ (by omega), pow_succ', Nat.div_div_eq_div_mul]

/-- A staging store whose turn has come performs. -/
theorem performStore_staging (c : CoreId) (w : Sto) (s : State) (hsp : w.sp = .stg) (hok : (s.ready c w.path false).1 = true) :
    let s1 := (s.ready c w.path false).2
    ∃ lost, performStore c w s = noteNarrow c w.path ((markCells w.cells lost { s1 with mem := memWrs s1.mem w.cells }).modC c
      fun k => { k with sto := k.sto.filter fun x => x.id != w.id }) := by
  intro s1
  refine ⟨if w.sp == .glob && flitFails { s1 with mem := memWrs s1.mem w.cells } c w.seq 0 w.path.lo then
    some (0x2000 + (homeOf w.path.lo).val) else none, ?_⟩
  unfold performStore
  dsimp only
  rw [hok, hsp]
  rfl

theorem execStorePerform_of_find (s : State) (w : Sto) (h : (s.core.get s.arg.c).sto.find? (·.id == s.arg.id) = some w) :
    exec .storePerform s = .next (performStore s.arg.c w s) := by
  show execStorePerform s = _
  rw [execStorePerform, h]

/-- What a staging store leaves once it has performed (R182, R349). -/
theorem storePerform_ready (s : State) (w : Sto) (key v n : Nat) (hfind : (s.core.get s.arg.c).sto.find? (·.id == s.arg.id) = some w)
    (hsp : w.sp = .stg) (hcells : w.cells = cellsOf key v n) (hok : (s.ready s.arg.c w.path false).1 = true) :
    ∃ t, exec .storePerform s = .next t ∧ (∀ i, i < n → memRd t.mem (key + i) = BitVec.ofNat 8 (v / 256 ^ i)) ∧
      (∀ k, ¬ (key ≤ k ∧ k < key + n) → memRd t.mem k = memRd s.mem k) ∧
      (t.core.get s.arg.c).sto.map (·.id) = ((s.core.get s.arg.c).sto.filter (·.id != w.id)).map (·.id) ∧ t.agenda = s.agenda := by
  obtain ⟨hmem, hagenda, -, -, -, -, -, hcore⟩ := tripsOnly_ready s s.arg.c w.path false
  obtain ⟨lost, hperf⟩ := performStore_staging s.arg.c w s hsp hok
  refine ⟨_, (execStorePerform_of_find s w hfind).trans (congrArg _ hperf), ?_⟩
  obtain ⟨hn1, hn2, hn3⟩ := noteNarrow_frame s.arg.c w.path ((markCells w.cells lost { (s.ready s.arg.c w.path false).2 with
    mem := memWrs (s.ready s.arg.c w.path false).2.mem w.cells }).modC s.arg.c fun k => { k with sto := k.sto.filter fun x => x.id != w.id })
  obtain ⟨hm1, hm2, hm3⟩ := markCells_frame w.cells lost { (s.ready s.arg.c w.path false).2 with
    mem := memWrs (s.ready s.arg.c w.path false).2.mem w.cells }
  rw [hn1, hn2, hn3, State.modC_mem, State.modC_agenda, State.modC_get, hm1, hm2, hm3, hcells]
  refine ⟨fun i hi => memRd_memWrs_cellsOf n _ key v i hi, fun k hk => ?_, ?_, hagenda⟩
  · exact (memRd_cellsOf_ne _ _ _ _ _ (by omega)).trans (by rw [hmem])
  · have hids : ∀ k : CoreSt, (k.sto.filter fun x => x.id != w.id).map (·.id) = (k.sto.map (·.id)).filter (· != w.id) := fun k => by
      rw [List.filter_map]
      rfl
    rw [hids, hids, ← noTrips_sto_id, hcore, noTrips_sto_id]

theorem storePerform_blocked (s : State) (w : Sto) (hfind : (s.core.get s.arg.c).sto.find? (·.id == s.arg.id) = some w)
    (harr : w.trip.arr = none) (hb : s.blocked s.arg.c w.path = true) :
    ∃ t, exec .storePerform s = .next t ∧ t.mem = s.mem ∧ t.core = s.core := by
  refine ⟨_, execStorePerform_of_find s w hfind, ?_⟩
  unfold performStore
  dsimp only
  rw [ready_blocked s s.arg.c w.path false harr hb]
  exact ⟨rfl, rfl⟩

/-- Settles O19: the checks at issue, the step that performs, and the laws of storage. -/
theorem stores : Obligations.Stores := by
  unfold Obligations.Stores
  refine ⟨fun g a b sp scp sz off s hg => ?_, fun s w key v n hfind hsp hcells =>
    ⟨storePerform_ready s w key v n hfind hsp hcells, storePerform_blocked s w hfind⟩, fun m k k' v n b => ⟨?_, ?_, fun hm => ⟨?_, ?_, ?_⟩⟩⟩
  · intro ea z e he
    obtain ⟨rel, x, hexec⟩ := stores_at_issue g a b sp scp sz off s hg e he
    exact storeAt_cases hexec
  · exact memRd_memWr m k k' b
  · exact memRdN_cellsOf n m k v
  · exact wf_memWr k b hm
  · exact wf_memWrs _ hm
  · exact wf_memZero k k' hm

/-! Residency and fences (R185, R186, R193). -/

theorem guardedIf_runs (op : Nat) {g : Guard} {s : State} (f : State → State) {ok : Bool} (h : ok = true) (hg : guardOk g s = true) :
    guardedIf ok op g s f = .next (f s) := by
  rw [guardedIf, if_pos h, guarded_true f hg]

section
variable {g : Guard} {pd : BitVec 4} {d a : BitVec 6} {off : BitVec 22} {ea : W64} {s : State} (hg : guardOk g s = true)
  (hea : effAddr s a off = ea)
include hg hea

theorem execLdr_resident {sp : Sp} {key : Nat} {x : XRes} (h : checkAddr 0x6B 0 ea 1 .rd s = .at sp ea key x) :
    execLdr g pd a 0 off s = .next (toP 2 pd (BitVec.allOnes 64) (keepXlat s.cur x s)) := by
  rw [execLdr, guardedIf_runs _ _ (beq_self_eq_true _) hg, hea, h]

theorem execLdr_absent (h : checkAddr 0x6B 0 ea 1 .rd s = .absent ea) : execLdr g pd a 0 off s = .next (toP 2 pd 0 s) := by
  rw [execLdr, guardedIf_runs _ _ (beq_self_eq_true _) hg, hea, h]

theorem execPgin_resident {sp : Sp} {key : Nat} {x : XRes} (h : checkAddr 0x6F 0 ea 1 .rd s = .at sp ea key x) :
    execPgin g d a 0 off s = .next (toS 4 d 1 s) := by
  rw [execPgin, guardedIf_runs _ _ (beq_self_eq_true _) hg]
  dsimp only
  rw [hea, h]

/-- A request for the page of a leaf that is not resident (R186, R342). -/
theorem execPgin_absent {e : W64} {p n m : Nat} (h : checkAddr 0x6F 0 ea 1 .rd s = .absent ea)
    (hw : walkVa s (islOf s.cur) s.me.ctx ea.toNat = .leaf e p n m) :
    execPgin g d a 0 off s = .next (
      if s.dev.migr.contains n then toS 4 d 0 s
      else if pteAdr e = 0 then toS 4 d 3 s
      else if (s.isl.get (islOf s.cur)).pgq.any fun r => r.cx == s.me.ctx && r.page == ea.toNat / 2 ^ m * 2 ^ m then toS 4 d 0 s
      else if 64 ≤ (s.isl.get (islOf s.cur)).pgq.length then toS 4 d 2 s
      else toS 4 d 0 (((s.pick.2).modI (islOf s.cur) fun i =>
        { i with pgq := i.pgq ++ [⟨s.me.ctx, ea.toNat / 2 ^ m * 2 ^ m, s.me.penOf⟩] }).after (s.pick.1 + 1)
          (.ev .pginService (argY (islOf s.cur))))) := by
  rw [execPgin, guardedIf_runs _ _ (beq_self_eq_true _) hg]
  dsimp only
  rw [hea, h]
  dsimp only
  rw [hw]

/-- A page that is queued goes behind the others of its island's queue. -/
theorem execPgin_queues {e : W64} {p n m : Nat} (h : checkAddr 0x6F 0 ea 1 .rd s = .absent ea)
    (hw : walkVa s (islOf s.cur) s.me.ctx ea.toNat = .leaf e p n m) (hm : s.dev.migr.contains n = false) (hz : pteAdr e ≠ 0)
    (hq : ((s.isl.get (islOf s.cur)).pgq.any fun r => r.cx == s.me.ctx && r.page == ea.toNat / 2 ^ m * 2 ^ m) = false)
    (hl : (s.isl.get (islOf s.cur)).pgq.length < 64) :
    ∃ t, execPgin g d a 0 off s = .next t ∧
      (t.isl.get (islOf s.cur)).pgq = (s.isl.get (islOf s.cur)).pgq ++ [⟨s.me.ctx, ea.toNat / 2 ^ m * 2 ^ m, s.me.penOf⟩] ∧
      t.me.pend = (toS 4 d 0 s).me.pend ∧ t.mem = s.mem := by
  refine ⟨_, execPgin_absent hg hea h hw, ?_⟩
  rw [hm, if_neg Bool.false_ne_true, if_neg hz, hq, if_neg Bool.false_ne_true, if_neg (not_le.2 hl)]
  refine ⟨?_, ?_, rfl⟩
  · rw [toS_isl, State.after_isl, State.modI_get, State.pick_isl]
  · rw [toS, toS, deliver_me, deliver_me]
    rfl

end

theorem guardedIf_refused (op : Nat) (g : Guard) (s : State) (f : State → State) {ok : Bool} (h : ok = false) :
    guardedIf ok op g s f = .next (illegal op s) := by
  rw [guardedIf, h, if_neg Bool.false_ne_true]

theorem execFence_runs {g : Guard} {ordr : BitVec 4} {scp : BitVec 2} {spc : BitVec 3} {s : State} (hg : guardOk g s = true) :
    execFence g ordr scp spc s = .next (if ordr = 0 ∨ spc = 0 then s
      else s.modMe fun k => { k with fences := k.fences ++ [⟨s.order, ordr, scp, spc⟩] }) := by
  rw [execFence, guarded_true _ hg]

/-- The widest of some scopes is at least each of them. -/
theorem widest_ge {l : List (BitVec 2)} {x : BitVec 2} (hx : x ∈ l) : ∃ y, widest l = some y ∧ x.toNat ≤ y.toNat := by
  induction l with
  | nil => exact absurd hx List.not_mem_nil
  | cons z l ih =>
    rw [List.mem_cons] at hx
    rw [widest]
    split
    next hn =>
      obtain rfl | hx := hx
      · exact ⟨_, rfl, le_refl _⟩
      · obtain ⟨y, hy, -⟩ := ih hx
        rw [hn] at hy
        exact nomatch hy
    next y hy =>
      refine ⟨_, rfl, ?_⟩
      obtain rfl | hx := hx
      · split
        · exact le_refl _
        · omega
      · obtain ⟨y', hy', hle⟩ := ih hx
        obtain rfl := Option.some.inj (hy.symm.trans hy')
        split
        · omega
        · exact hle

/-- A scope as far as the wider of two spaces reaches (R31, R248). -/
theorem capScope_wider (a b : Sp) (x : BitVec 2) :
    (capScope (if (widestOf a).toNat < (widestOf b).toNat then b else a) x).toNat =
      min x.toNat (max (widestOf a).toNat (widestOf b).toNat) := by
  revert x
  cases a <;> cases b <;> decide

/-- A fence that names two accesses keeps them in order, at its scope at least (R193). -/
theorem edge_of_fence {k : CoreSt} {f : Fence} {a b : PathOp} (hf : f ∈ k.fences) (hk : f.keeps a b = true) (hab : a.seq < b.seq) :
    ∃ x, a.edge k b = some x ∧ min f.scp.toNat (max (widestOf a.sp).toNat (widestOf b.sp).toNat) ≤ x.toNat := by
  rw [← capScope_wider, PathOp.edge, if_pos hab]
  exact widest_ge (List.mem_append_right _ (List.mem_map_of_mem (List.mem_filter.2 ⟨hf, hk⟩)))

/-- An older access that an edge of system scope keeps, or that has not arrived, blocks; another can be passed at the edge's scope. -/
theorem blocked_of_edge {s : State} {c : CoreId} {a b : PathOp} {x : BitVec 2} (ha : a ∈ (s.core.get c).open_)
    (he : a.edge (s.core.get c) b = some x) :
    (2 ≤ x.toNat ∨ a.trip.arr = none → s.blocked c b = true) ∧
    (s.blocked c b = false → x.toNat < 2 ∧ (a, x) ∈ s.passable c b) := by
  have hkeeps : s.keeps c a b = (decide (2 ≤ x.toNat) || a.trip.arr.isNone) := by rw [State.keeps, he]
  have hblocked : s.keeps c a b = true → s.blocked c b = true := fun h => by
    rw [State.blocked, List.any_eq_true.2 ⟨a, ha, h⟩, Bool.true_or, Bool.true_or]
  refine ⟨fun h => hblocked ?_, fun h => ?_⟩
  · rw [hkeeps]
    obtain h | h := h
    · rw [decide_eq_true h, Bool.true_or]
    · rw [h, Option.isNone_none, Bool.or_true]
  · have hno : ¬ s.keeps c a b = true := fun hk => by rw [hblocked hk] at h; exact nomatch h
    rw [hkeeps, Bool.or_eq_true, not_or, decide_eq_true_eq, Option.isNone_iff_eq_none, not_le, ← ne_eq, ← Option.isSome_iff_ne_none] at hno
    refine ⟨hno.1, List.mem_filterMap.2 ⟨a, ha, ?_⟩⟩
    rw [he]
    exact if_pos hno

/-- Settles O20: ldr and pgin by the outcome of their check, fences by the edge that they add. -/
theorem residencyAndFences : Obligations.ResidencyAndFences := by
  unfold Obligations.ResidencyAndFences
  refine ⟨fun g pd d a off s hg => ⟨fun key x h => execLdr_resident hg rfl h, fun h => execLdr_absent hg rfl h,
    fun key x h => execPgin_resident hg rfl h,
    fun e p n m h hw => ⟨fun hm => ?_, fun hm => ⟨fun hz => ?_, fun hz hq => ?_, fun hz hq hl => ?_, fun hz hq hl =>
      execPgin_queues hg rfl h hw hm hz hq hl⟩⟩,
    fun sp hsp => ⟨guardedIf_refused _ _ _ _ (beq_eq_false_iff_ne.2 hsp), guardedIf_refused _ _ _ _ (beq_eq_false_iff_ne.2 hsp)⟩⟩,
    fun g ordr scp spc s hg => ⟨fun ho hs => (execFence_runs hg).trans (congrArg _ (if_neg (not_or.2 ⟨ho, hs⟩))),
      fun h => (execFence_runs hg).trans (congrArg _ (if_pos h))⟩, ?_⟩
  · exact (execPgin_absent hg rfl h hw).trans (by rw [if_pos hm])
  · exact (execPgin_absent hg rfl h hw).trans (by rw [hm, if_neg Bool.false_ne_true, if_pos hz])
  · refine (execPgin_absent hg rfl h hw).trans ?_
    rw [hm, if_neg Bool.false_ne_true, if_neg hz]
    exact congrArg _ (if_pos hq)
  · refine (execPgin_absent hg rfl h hw).trans ?_
    rw [hm, if_neg Bool.false_ne_true, if_neg hz]
    exact congrArg _ ((if_neg (Bool.eq_false_iff.1 hq)).trans (if_pos hl))
  · intro s c f a b hf ha hfa hfb hspa hspb hord wide sc
    have hkeeps : f.keeps a b = true := by
      have hkinds : ((a.ld && b.ld && f.ordr.getLsbD 0) || (a.ld && b.st && f.ordr.getLsbD 1) ||
          (a.st && b.ld && f.ordr.getLsbD 2) || (a.st && b.st && f.ordr.getLsbD 3)) = true := by
        obtain ⟨h1, h2, h3⟩ | ⟨h1, h2, h3⟩ | ⟨h1, h2, h3⟩ | ⟨h1, h2, h3⟩ := hord <;> simp [h1, h2, h3]
      rw [Fence.keeps, decide_eq_true hfa, decide_eq_true hfb, hspa, hspb, hkinds]
      rfl
    have hwide : ∀ sp : Sp, wide sp = (widestOf sp).toNat := fun sp => by cases sp <;> rfl
    obtain ⟨x, hx, hle⟩ := edge_of_fence hf hkeeps (hfa.trans hfb)
    rw [← hwide, ← hwide] at hle
    obtain ⟨hblock, hpass⟩ := blocked_of_edge ha hx
    refine ⟨fun h => hblock (h.imp_left fun h2 => le_trans h2 hle), fun h => ⟨x, hle, hpass h⟩⟩

end Sys2Proof.Machine
end

section
/-! O21: atomics. -/

namespace Sys2Proof.Machine

/-! Counted operations at issue (R25). -/

theorem issueFree_me (f : Nat → Nat → Cop) (s : State) : (issueFree f s).me =
    { s.me with loads := s.me.loads ++ [{ f s.me.nid s.order with badr := s.bun.adr }], nid := s.me.nid + 1 } :=
  issueCop_me _ f s.pick.2

theorem stagingTicks_frame (s : State) (c : CoreId) (a extra : Nat) :
    (stagingTicks s c a extra).2.me = s.me ∧ (stagingTicks s c a extra).2.mem = s.mem ∧ (stagingTicks s c a extra).2.bun = s.bun := by
  unfold stagingTicks
  dsimp only
  split <;> exact ⟨rfl, rfl, rfl⟩

theorem mem_after_agenda (s : State) (n : Nat) (d : Due) : (⟨s.tick + n, rankOf s d, d⟩ : Entry) ∈ (s.after n d).agenda :=
  (mem_agenda_at s _ d _).2 (.inl rfl)

/-- The rank of a step depends on the copies of a tile that are under way alone. -/
theorem rankOf_congr {s t : State} (h : t.dev.hops = s.dev.hops) (d : Due) : rankOf t d = rankOf s d := by
  cases d with
  | ev i a => simp only [rankOf, h]
  | edge | perform | piece | mcyc | array | micro | tile => rfl

/-! Values of atomics (R192). -/

theorem ownBytes_lt (k : CoreSt) (seq : Nat) (m : Nat → Byte) (z : Nat) : ∀ key, ownBytes k seq m key z < 256 ^ z := by
  induction z with
  | zero => intro key; exact Nat.one_pos
  | succ z ih =>
    intro key
    have hbyte := (ownByte k seq key (m key)).isLt
    have hrest := ih (key + 1)
    rw [ownBytes, pow_succ']
    omega

/-- What an atomic leaves in memory, in the words of R192's table: w bits, two's complement where the comparison is signed. -/
def amoNew (op : AmoOp) (z old b e : Nat) : Nat :=
  let w := 8 * z
  let sg (v : Nat) : Int := (v : Int) - if v < 2 ^ (w - 1) then 0 else 2 ^ w
  match op with
  | .add => (old + b) % 2 ^ w
  | .and => old &&& b
  | .or => old ||| b
  | .xor => old ^^^ b
  | .min => if sg old < sg b then old else b
  | .max => if sg old < sg b then b else old
  | .minn => min old b
  | .maxn => max old b
  | .swp => b
  | .cas => if old = e then b else old

/-- The value of w bits as two's complement. -/
theorem sext_eq_sub {v w : Nat} (hw : 0 < w) (hv : v < 2 ^ w) : sext v w = (v : Int) - if v < 2 ^ (w - 1) then 0 else 2 ^ w := by
  rw [sext_of_lt hv hw]
  split
  · rw [sub_zero]
  · rfl

theorem amoVal_eq_amoNew (op : AmoOp) {z old b : Nat} (e : Nat) (hz : 0 < z) (ho : old < 2 ^ (8 * z)) (hb : b < 2 ^ (8 * z)) :
    amoVal op (8 * z) old b e = amoNew op z old b e := by
  have hw : 0 < 8 * z := by omega
  cases op with
  | min => simp only [amoVal, amoNew, sext_eq_sub hw ho, sext_eq_sub hw hb]
  | max => simp only [amoVal, amoNew, sext_eq_sub hw ho, sext_eq_sub hw hb]
  | add | and | or | xor | minn | maxn | swp | cas => rfl

theorem ite_lt_of_lt {c : Prop} [Decidable c] {a b n : Nat} (ha : a < n) (hb : b < n) : (if c then a else b) < n := by
  split <;> assumption

theorem amoNew_lt (op : AmoOp) {z old b : Nat} (e : Nat) (ho : old < 2 ^ (8 * z)) (hb : b < 2 ^ (8 * z)) :
    amoNew op z old b e < 2 ^ (8 * z) := by
  cases op with
  | add => exact Nat.mod_lt _ (Nat.two_pow_pos _)
  | and => exact Nat.and_lt_two_pow _ hb
  | or => exact Nat.or_lt_two_pow ho hb
  | xor => exact Nat.xor_lt_two_pow ho hb
  | swp => exact hb
  | minn => exact lt_of_le_of_lt (min_le_left _ _) ho
  | maxn => exact max_lt ho hb
  | min => exact ite_lt_of_lt ho hb
  | max => exact ite_lt_of_lt hb ho
  | cas => exact ite_lt_of_lt hb ho

theorem pow_256 (z : Nat) : 256 ^ z = 2 ^ (8 * z) := by
  rw [pow_mul]
  rfl

/-! Atomics at issue. -/

section
variable {op : AmoOp} {z : Nat} {d b : BitVec 6} {ord scp : BitVec 2} {sp : Sp} {ea : W64} {key : Nat} {x : XRes} {s : State}

/-- The operation that an atomic is counted as. -/
def amoCop (op : AmoOp) (z : Nat) (d b : BitVec 6) (ord scp : BitVec 2) (sp : Sp) (ea : W64) (key : Nat) (val : Option (W64 × Bool))
    (trip : Trip) (id : Nat) (s : State) : Cop :=
  { newCop (.amo op (BitVec.ofNat 64 ((s.me.r.getS b).toNat % 2 ^ (8 * z))) (BitVec.ofNat 64 ((s.me.r.getS d).toNat % 2 ^ (8 * z)))) d 0 sp ea
      key z (ord.getLsbD 0) (ord.getLsbD 1) scp val id s.order with badr := s.bun.adr, trip := trip }

/-- An atomic outside the pad becomes a counted operation (R192). -/
theorem amoAt_counts (hsp : sp ≠ .pad) : ∃ trip id tlb,
    (amoAt op z d b ord scp (.at sp ea key x) s).me =
      { s.me with loads := s.me.loads ++ [amoCop op z d b ord scp sp ea key none trip id s], nid := s.me.nid + 1, tlb := tlb } ∧
    (amoAt op z d b ord scp (.at sp ea key x) s).mem = s.mem := by
  cases sp with
  | pad => exact absurd rfl hsp
  | stg =>
    obtain ⟨hme, hmem, hbun⟩ := stagingTicks_frame s s.cur ea.toNat 2
    refine ⟨Trip.init, s.me.nid, s.me.tlb, ?_, hmem⟩
    refine (issueCop_me (stagingTicks s s.cur ea.toNat 2).1 _ (stagingTicks s s.cur ea.toNat 2).2).trans ?_
    rw [hme, hbun, State.order, hbun]
    rfl
  | glob =>
    obtain ⟨hmem, -, -, -, hbun, -, -⟩ := keepXlat_frame s.cur x s
    obtain ⟨l, hme⟩ := keepXlat_me x s
    refine ⟨tripOf s s.cur ea x, s.me.nid, l, ?_, hmem⟩
    refine (issueFree_me _ _).trans ?_
    rw [hme, hbun, State.order, hbun]
    rfl

/-- An atomic at the pad takes its old value and withholds its new one (R192). -/
theorem amoAt_pad (hclean : padPoison s key z = none) :
    let t := amoAt op z d b ord scp (.at .pad ea key x) s
    let old := padValue s key z
    ∃ id w early, t.me = { s.me with
        loads := s.me.loads ++ [amoCop op z d b ord scp .pad ea key (some (BitVec.ofNat 64 old, false)) Trip.init id s]
        wst := s.me.wst ++ [w], nid := s.me.nid + 2, early := early } ∧
      w.sp = .pad ∧ w.seq = s.order ∧
      w.cells = cellsOf key (amoVal op (8 * z) old ((s.me.r.getS b).toNat % 2 ^ (8 * z)) ((s.me.r.getS d).toNat % 2 ^ (8 * z))) z ∧
      (⟨s.tick + 4 * s.me.div.ctl, rankOf t (.ev .loadDelivery (argCI s.cur id)), .ev .loadDelivery (argCI s.cur id)⟩ : Entry) ∈ t.agenda ∧
      t.mem = s.mem := by
  intro t old
  let w : Sto := ⟨s.me.nid, s.order, .pad, ea, cellsOf key (amoVal op (8 * z) old ((s.me.r.getS b).toNat % 2 ^ (8 * z))
    ((s.me.r.getS d).toNat % 2 ^ (8 * z))) z, 0, ord.getLsbD 1, scp, none, Trip.init⟩
  let s1 := withhold .pad ea w.cells 0 (ord.getLsbD 1) scp none Trip.init s
  let s2 := padRead key z (ord.getLsbD 0) (ord.getLsbD 1) scp s1
  have hs1 : s1.me = { s.me with wst := s.me.wst ++ [w], nid := s.me.nid + 1 } := withhold_me _ _ _ _ _ _ _ _ _
  have hs2 : ∃ l : CoreSt → List Early, s2 = s1.modMe fun k => { k with early := l k } := (notePad_spec s1.cur _ s1).1
  obtain ⟨l, hl⟩ := hs2
  have hid : s1.me.nid = s.me.nid + 1 := by rw [hs1]
  have ht : t = (s2.modMe fun k => { k with
      loads := k.loads ++ [amoCop op z d b ord scp .pad ea key (some (BitVec.ofNat 64 old, false)) Trip.init s1.me.nid s]
      nid := s1.me.nid + 1 }).after (4 * s.me.div.ctl) (.ev .loadDelivery (argCI s.cur s1.me.nid)) := by
    simp only [t, amoAt, hclean]
    rfl
  refine ⟨s1.me.nid, w, l s1.me, ?_, rfl, rfl, rfl, ?_, ?_⟩
  · rw [ht, State.me, State.after_core, State.after_cur, State.modMe_cur, State.modMe_get, hl, State.modMe_me, hs1]
  · rw [ht, hl]
    exact mem_after_agenda _ _ _
  · rw [ht, hl]
    rfl

end

theorem amoInstr_runs {g : Guard} {sz : BitVec 2} {s : State} (code : Nat) (op : AmoOp) (d a b : BitVec 6) (sp ord scp : BitVec 2)
    (off : BitVec 22) (hsz : 2 ≤ sz.toNat) (hg : guardOk g s = true) : amoInstr code op g d a b sp ord scp sz off s =
      .next (amoAt op (2 ^ sz.toNat) d b ord scp (checkAddr code sp (effAddr s a off) (2 ^ sz.toNat) .wr s) s) := by
  rw [amoInstr, guardedIf_runs _ _ (decide_eq_true hsz) hg]

theorem amoInstr_narrow {sz : BitVec 2} {s : State} (code : Nat) (op : AmoOp) (g : Guard) (d a b : BitVec 6) (sp ord scp : BitVec 2)
    (off : BitVec 22) (hsz : sz.toNat < 2) : amoInstr code op g d a b sp ord scp sz off s = .next (illegal code s) := by
  rw [amoInstr, guardedIf_refused _ _ _ _ (decide_eq_false (not_le.2 hsz))]

/-- An atomic of word or double size that its checks let pass (R192). -/
theorem amo_issues {i : Instr} {op : AmoOp} {z : Nat} {d b : BitVec 6} {ord scp : BitVec 2} {space : Sp} {ea : W64} {key : Nat} {x : XRes}
    {s : State} (hrun : exec i s = .next (amoAt op z d b ord scp (.at space ea key x) s)) (hz : 0 < z)
    (hclean : space = .pad → padPoison s key z = none) :
    ∃ t o, exec i s = .next t ∧ t.me.loads = s.me.loads ++ [o] ∧ o.seq = s.order ∧ o.dst = d ∧ o.sp = space ∧ o.addr = key ∧
      o.z = z ∧ o.kind = .amo op (BitVec.ofNat 64 ((s.me.r.getS b).toNat % 2 ^ (8 * z))) (BitVec.ofNat 64 ((s.me.r.getS d).toNat % 2 ^ (8 * z))) ∧
      o.acq = ord.getLsbD 0 ∧ o.rel = ord.getLsbD 1 ∧ o.scp = scp ∧ t.mem = s.mem ∧ t.me.r = s.me.r ∧
      (space ≠ .pad → o.val = none ∧ t.me.wst = s.me.wst) ∧
      (space = .pad →
        o.val = some (BitVec.ofNat 64 (padValue s key z), false) ∧
        (∃ w, t.me.wst = s.me.wst ++ [w] ∧ w.sp = .pad ∧ w.seq = s.order ∧
          w.cells = cellsOf key (amoNew op z (padValue s key z) ((s.me.r.getS b).toNat % 2 ^ (8 * z)) ((s.me.r.getS d).toNat % 2 ^ (8 * z))) z) ∧
        (⟨s.tick + 4 * s.me.div.ctl, rankOf t (.ev .loadDelivery (argCI s.cur o.id)), .ev .loadDelivery (argCI s.cur o.id)⟩ : Entry)
          ∈ t.agenda) := by
  by_cases hpad : space = .pad
  · subst hpad
    obtain ⟨id, w, early, hme, hsp, hseq, hcells, hdue, hmem⟩ := amoAt_pad (op := op) (d := d) (b := b) (ord := ord) (scp := scp) (ea := ea)
      (x := x) (hclean rfl)
    have hold : padValue s key z < 2 ^ (8 * z) := (ownBytes_lt _ _ _ _ _).trans_eq (pow_256 z)
    refine ⟨_, amoCop op z d b ord scp .pad ea key (some (BitVec.ofNat 64 (padValue s key z), false)) Trip.init id s, hrun,
      by rw [hme], rfl, rfl, rfl, rfl, rfl, rfl, rfl, rfl, rfl, hmem, by rw [hme], fun h => absurd rfl h,
      fun _ => ⟨rfl, ⟨w, by rw [hme], hsp, hseq, ?_⟩, hdue⟩⟩
    exact hcells.trans (congrArg (cellsOf key · z) (amoVal_eq_amoNew op _ hz hold (Nat.mod_lt _ (Nat.two_pow_pos _))))
  · obtain ⟨trip, id, tlb, hme, hmem⟩ := amoAt_counts (op := op) (z := z) (d := d) (b := b) (ord := ord) (scp := scp) (ea := ea) (key := key)
      (x := x) (s := s) hpad
    exact ⟨_, amoCop op z d b ord scp space ea key none trip id s, hrun, by rw [hme], rfl, rfl, rfl, rfl, rfl, rfl, rfl, rfl, rfl, hmem,
      by rw [hme], fun _ => ⟨rfl, by rw [hme]⟩, fun h => absurd h hpad⟩

/-! An atomic at staging performs. -/

theorem performCop_amo {s : State} {c : CoreId} {o : Cop} {op : AmoOp} {b e : W64}
    (h : (s.core.get c).loads.find? (·.id == o.id) = some o) (hv : o.val = none) (hk : o.kind = .amo op b e) :
    performCop c o.id s = performAmo c o op b e s := by
  rw [performCop, h]
  dsimp only
  rw [hv, Option.isSome_none, if_neg Bool.false_ne_true, hk]

/-- An acquire finds no narrow release where the directory keeps none. -/
theorem widen_passes (c : CoreId) (b : PathOp) (s : State) (h : b.acq = true → s.dev.narrow = []) : widen c b s = (true, s) := by
  unfold widen
  dsimp only
  cases hacq : b.acq with
  | false => rfl
  | true =>
    have hn := h hacq
    have hopen : s.narrowOpen c b = false := by rw [State.narrowOpen, hn]; rfl
    rw [hn, hopen]
    rfl

theorem noteError_frame (y : Isl) (key n : Nat) (s : State) :
    (noteError y key n s).mem = s.mem ∧ (noteError y key n s).core = s.core := by
  unfold noteError
  exact List.foldlRecOn (motive := fun t : State => t.mem = s.mem ∧ t.core = s.core) _ _ ⟨rfl, rfl⟩ fun t ht p _ => ht

theorem reach_frame (y : Isl) (key n : Nat) (s : State) : (reach y key n s).mem = s.mem ∧ (reach y key n s).core = s.core := by
  unfold reach
  split
  · exact noteError_frame y key n _
  · exact noteError_frame y key n _

theorem noTrips_ids (k : CoreSt) : k.noTrips.loads.map (fun o => o.id) = k.loads.map (fun o => o.id) := by
  simp [CoreSt.noTrips]

/-- A counted operation that ends has its value, and stays in place until it is delivered. -/
theorem finishCop_spec (c : CoreId) (o : Cop) (v : W64) (s : State) (h : o ∈ (s.core.get c).loads) :
    { o with val := some (v, false) } ∈ ((finishCop c o.id v s).core.get c).loads ∧ (finishCop c o.id v s).mem = s.mem ∧
    (finishCop c o.id v s).has (.ev .loadDelivery (argCI c o.id)) = true := by
  refine ⟨?_, rfl, has_now _ _ _⟩
  rw [finishCop, State.now_core, State.modC_get]
  exact List.mem_map.2 ⟨o, h, if_pos rfl⟩

/-- The operation, as it is once asked whether it may perform. -/
theorem mem_loads_of_tripsOnly {s u : State} (h : TripsOnly s u) {c : CoreId} {o : Cop} (ho : o ∈ (s.core.get c).loads) :
    ∃ t, { o with trip := t } ∈ (u.core.get c).loads := by
  obtain ⟨-, -, -, -, -, -, -, hcore⟩ := h
  have hmem : { o with trip := Trip.init } ∈ (u.core.get c).noTrips.loads := by
    rw [hcore]
    exact List.mem_map.2 ⟨o, ho, rfl⟩
  obtain ⟨x, hx, he⟩ := List.mem_map.1 hmem
  refine ⟨x.trip, ?_⟩
  have hxo : { o with trip := x.trip } = x := by
    have := congrArg (fun y : Cop => { y with trip := x.trip }) he
    exact this.symm
  rw [hxo]
  exact hx

/-- An atomic at staging, once its turn has come (R192). -/
theorem performAmo_staging {s : State} {c : CoreId} {o : Cop} {op : AmoOp} {b e : W64} (hsp : o.sp = .stg) (hkind : o.kind = .amo op b e)
    (hval : o.val = none) (hfind : (s.core.get c).loads.find? (·.id == o.id) = some o) (hok : (s.ready c o.path false).1 = true)
    (hacq : o.acq = true → s.dev.narrow = []) :
    let old := memRdN s.mem o.addr o.z
    let t := performCop c o.id s
    t.mem = memWrs s.mem (cellsOf o.addr (amoVal op (8 * o.z) old b.toNat e.toNat) o.z) ∧
      ∃ x ∈ (t.core.get c).loads, x.id = o.id ∧ x.val = some (BitVec.ofNat 64 old, false) := by
  intro old t
  have htrips := tripsOnly_ready s c o.path false
  obtain ⟨tr, hmem⟩ := mem_loads_of_tripsOnly htrips (List.mem_of_find?_eq_some hfind)
  obtain ⟨hm, -, -, -, -, -, hdev, -⟩ := htrips
  have hwiden : widen c o.path (s.ready c o.path false).2 = (true, (s.ready c o.path false).2) :=
    widen_passes _ _ _ fun h => by rw [hdev]; exact hacq h
  let s3 := reach (islOf c) o.addr o.z (s.ready c o.path false).2
  obtain ⟨hrm, hrc⟩ := reach_frame (islOf c) o.addr o.z (s.ready c o.path false).2
  let s4 := noteNarrow c o.path { s3 with mem := memWrs s3.mem (cellsOf o.addr (amoVal op (8 * o.z) old b.toNat e.toNat) o.z) }
  have ht : t = finishCop c o.id (BitVec.ofNat 64 old) s4 := by
    simp only [t]
    rw [performCop_amo hfind hval hkind]
    unfold performAmo
    dsimp only
    rw [hok, hsp, hwiden, hm]
    rfl
  obtain ⟨hn1, -, hn3⟩ := noteNarrow_frame c o.path
    { s3 with mem := memWrs s3.mem (cellsOf o.addr (amoVal op (8 * o.z) old b.toNat e.toNat) o.z) }
  have hloads : { o with trip := tr } ∈ (s4.core.get c).loads := by
    simp only [s4]
    rw [hn3]
    show _ ∈ (s3.core.get c).loads
    rw [hrc]
    exact hmem
  obtain ⟨hx, hfm, -⟩ := finishCop_spec c { o with trip := tr } (BitVec.ofNat 64 old) s4 hloads
  rw [ht]
  refine ⟨?_, _, hx, rfl, rfl⟩
  rw [hfm]
  simp only [s4]
  rw [hn1, hrm, hm]

/-! Pad bytes at the release (R139). -/

theorem releaseStores_one {s : State} {c : CoreId} {w : Sto} (hw : (s.core.get c).wst = [w]) (hsp : w.sp = .pad) :
    (releaseStores c s).mem = memWrs s.mem w.cells ∧ ((releaseStores c s).core.get c).wst = [] := by
  let s1 := (markCells w.cells w.bad { s with mem := memWrs s.mem w.cells }).modC c fun k => { k with wst := [], sto := k.sto ++ [] }
  have hrel : releaseStores c s = notePad c w.span s1 := by
    simp only [releaseStores, hw, hsp, List.filter_cons, List.filter_nil]
    rfl
  obtain ⟨l, hl⟩ := (notePad_spec c w.span s1).1
  obtain ⟨hm, -, -⟩ := markCells_frame w.cells w.bad { s with mem := memWrs s.mem w.cells }
  rw [hrel, hl]
  refine ⟨hm, ?_⟩
  rw [State.modC_get, State.modC_get]

/-- Settles O21: the atomics at issue, one at staging as it performs, and the release of the pad's bytes. -/
theorem atomics : Obligations.Atomics := by
  unfold Obligations.Atomics
  intro new
  refine ⟨?_, ?_, ?_⟩
  · intro g d a b sp ord scp sz off s hg ea z low e he
    have hexec : exec e.1 s = amoInstr e.2.1 e.2.2 g d a b sp ord scp sz off s := by
      simp only [List.mem_cons, List.not_mem_nil, or_false] at he
      obtain rfl | rfl | rfl | rfl | rfl | rfl | rfl | rfl | rfl | rfl := he <;> rfl
    refine ⟨fun hsz => hexec.trans (amoInstr_narrow _ _ g d a b sp ord scp off hsz), fun hsz => ?_⟩
    have hrun := hexec.trans (amoInstr_runs e.2.1 e.2.2 d a b sp ord scp off hsz hg)
    refine ⟨fun space key x h hclean => ?_, fun h => ?_, fun c f dt h => ?_⟩
    · exact amo_issues (hrun.trans (congrArg (fun r => Host.Outcome.next (amoAt e.2.2 z d b ord scp r s)) h)) (Nat.two_pow_pos _) hclean
    · exact hrun.trans (congrArg (fun r => Host.Outcome.next (amoAt e.2.2 z d b ord scp r s)) h)
    · exact hrun.trans (congrArg (fun r => Host.Outcome.next (amoAt e.2.2 z d b ord scp r s)) h)
  · intro s c o op b e hsp hkind hval hfind hok hacq old hz hz8 hb t
    obtain ⟨hmem, hx⟩ := performAmo_staging hsp hkind hval hfind hok hacq
    have hold : old < 2 ^ (8 * o.z) := (memRdN_lt _ _ _).trans_eq (pow_256 o.z)
    have hnew := amoVal_eq_amoNew op e.toNat hz hold hb
    refine ⟨?_, fun k hk => ?_, hx⟩
    · rw [hmem, memRdN_cellsOf, hnew, pow_256, Nat.mod_eq_of_lt (amoNew_lt op _ hold hb)]
      rfl
    · rw [hmem]
      exact memRd_cellsOf_ne _ _ _ _ _ (by omega)
  · intro s c w key v n hw hsp hcells t
    obtain ⟨hmem, hnil⟩ := releaseStores_one hw hsp
    refine ⟨?_, fun k hk => ?_, hnil⟩
    · rw [hmem, hcells, memRdN_cellsOf]
    · rw [hmem, hcells]
      exact memRd_cellsOf_ne _ _ _ _ _ (by omega)

end Sys2Proof.Machine
end

section
/-! O22: staleness regions. -/

namespace Sys2Proof.Machine

theorem declared_index {s : State} {n : Nat} {r : Region} (h : declared s n = some r) : r.index = n := by
  unfold declared at h
  split at h
  · split at h
    · exact eq_of_beq (List.find?_some (p := fun x : Region => x.index == n) h)
    · exact nomatch h
  · exact nomatch h

section
variable {a : BitVec 6} {rn : BitVec 12} {f : Region → State → State} {s : State} {n : Nat} (hn : regionNo s a rn = n)
include hn

theorem withRegion_none (h : declared s n = none) :
    withRegion a rn f s = takeTrap 0x11 (BitVec.ofNat 64 n) ((tget 0 s.me.r.rr n).setWidth 64) s := by
  rw [withRegion, hn, h]
  rfl

theorem withRegion_some {r : Region} (h : declared s n = some r) : withRegion a rn f s = f r s := by
  rw [withRegion, hn, h]

end

/-- The lead of a round over another, against the window of R262. -/
theorem aheadBy46_eq (a b : Round) : aheadBy46 a b = decide (2 ^ 46 ≤ (a - b).toNat ∧ (a - b).toNat < 2 ^ 47) := by
  rw [aheadBy46, roundGe, Bool.decide_and, Bool.and_comm]

/-- A step that counts operation o of the core, and delivers nothing. -/
def Counts (s : State) (i : Instr) (kind : CopKind) (d : BitVec 6) (acq rel : Bool) : Prop :=
  ∃ t o, exec i s = .next t ∧ t.me.loads = s.me.loads ++ [o] ∧ o.kind = kind ∧ o.dst = d ∧ o.seq = s.order ∧
    o.acq = acq ∧ o.rel = rel ∧ t.mem = s.mem ∧ t.me.r = s.me.r ∧ t.me.pend = s.me.pend

theorem counts_of_issueCop {s : State} {i : Instr} {dt : Nat} {kind : CopKind} {d : BitVec 6} {acq rel : Bool} {pj : BitVec 4} {sp : Sp}
    {va : W64} {adr z : Nat} {scp : BitVec 2} (h : exec i s = .next (issueCop dt (newCop kind d pj sp va adr z acq rel scp none) s)) :
    Counts s i kind d acq rel := by
  refine ⟨_, { newCop kind d pj sp va adr z acq rel scp none s.me.nid s.order with badr := s.bun.adr }, h, ?_, rfl, rfl, rfl, rfl, rfl, rfl,
    ?_, ?_⟩
  · rw [issueCop_me]
  · rw [issueCop_me]
  · rw [issueCop_me]

section
variable {g : Guard} {d a : BitVec 6} {rn : BitVec 12} {s : State} {n : Nat} {r : Region}
  (hg : guardOk g s = true) (hn : regionNo s a rn = n) (h : declared s n = some r)
include hg hn h

theorem execRadv_declared : execRadv g a rn s = .next (
    if 2 ^ 46 ≤ (tget 0 s.me.r.rr n + 1 - tableOf s s.cur n).toNat ∧ (tget 0 s.me.r.rr n + 1 - tableOf s s.cur n).toNat < 2 ^ 47 then
      regionTrap n s else deliver 1 (.radv n) s) := by
  rw [execRadv, guarded_true _ hg, withRegion_some hn h, declared_index h, aheadBy46_eq]
  simp only [decide_eq_true_eq]

theorem execRrnd_declared (rw_ : BitVec 2) : execRrnd g d a rn rw_ s = .next (match rw_.toNat with
    | 0 => toS 1 d ((tget 0 s.me.r.rr n).setWidth 64) s
    | 1 => toS 4 d ((tableOf s s.cur n).setWidth 64) s
    | 2 => issueCop (msgTicks s (islOf s.cur) r.home) (newCop (.rrnd n) d 0 .glob 0 0 0 false false 3 none) s
    | _ => toS 1 d ((tget 0 s.me.r.fl n).setWidth 64) s) := by
  rw [execRrnd, guarded_true _ hg, withRegion_some hn h, declared_index h] <;> rfl

theorem execRpub_declared : execRpub g d a rn s = .next (issueCop 0 (newCop (.rpub n) d 0 .glob 0 0 0 false true 3 none) s) := by
  rw [execRpub, guarded_true _ hg, withRegion_some hn h, declared_index h]

theorem execRacq_counts : Counts s (.racq g d a rn) (.racq n) d true false := by
  let o : Cop := { newCop (.racq r.index) d 0 .glob 0 0 0 true false 3 none s.me.nid s.order with badr := s.bun.adr }
  have hme := State.modMe_me s fun k => { k with loads := k.loads ++ [o], nid := s.me.nid + 1 }
  exact ⟨_, o, (guarded_true _ hg).trans (congrArg _ (withRegion_some hn h)), congrArg CoreSt.loads hme,
    congrArg CopKind.racq (declared_index h), rfl, rfl, rfl, rfl, rfl, (congrArg CoreSt.r hme :), (congrArg CoreSt.pend hme :)⟩

end

/-! Publication (R189). -/

/-- Messages to the other islands leave the tables and the cores. -/
theorem sendAll_frame (l : List Isl) (p : Isl → Prop) [DecidablePred p] (f : Isl → State → State)
    (hf : ∀ y s, (f y s).mem = s.mem ∧ (f y s).core = s.core ∧ (f y s).isl = s.isl ∧ (f y s).dev = s.dev) (s : State) :
    let t := l.foldl (fun s y => if p y then s else f y s) s
    t.mem = s.mem ∧ t.core = s.core ∧ t.isl = s.isl ∧ t.dev = s.dev := by
  refine List.foldlRecOn (motive := fun t : State => t.mem = s.mem ∧ t.core = s.core ∧ t.isl = s.isl ∧ t.dev = s.dev) _ _
    ⟨rfl, rfl, rfl, rfl⟩ fun t ht y _ => ?_
  split
  · exact ht
  · obtain ⟨h1, h2, h3, h4⟩ := hf y t
    obtain ⟨h1', h2', h3', h4'⟩ := ht
    exact ⟨h1.trans h1', h2.trans h2', h3.trans h3', h4.trans h4'⟩

/-- A result that is fixed now keeps storage, the islands and the device, and gives its operation the value. -/
theorem finishFree_spec (c : CoreId) (id : Nat) (v : W64) (s : State) :
    (finishFree c id v s).mem = s.mem ∧ (finishFree c id v s).isl = s.isl ∧ (finishFree c id v s).dev = s.dev ∧
    ∀ o ∈ (s.core.get c).loads, o.id = id → { o with val := some (v, false) } ∈ ((finishFree c id v s).core.get c).loads := by
  refine ⟨rfl, rfl, rfl, fun o ho hid => ?_⟩
  show _ ∈ (((s.pick.2.modC c _).after _ _).core.get c).loads
  rw [State.after_core, State.modC_get]
  exact List.mem_map.2 ⟨o, ho, if_pos hid⟩

/-- Settles O22: the instructions by whether the launch declares the region, the publish and the update of a table. -/
theorem regions : Obligations.Regions := by
  unfold Obligations.Regions
  refine ⟨fun g d a rn s hg => ?_, fun s => ?_, fun s => ?_⟩
  · intro n rr all
    refine ⟨fun h => ?_, fun r h => ⟨declared_index h, ⟨fun hlead => ?_, fun hlo hhi => ?_⟩, execRrnd_declared hg rfl h 0,
      execRrnd_declared hg rfl h 1, execRrnd_declared hg rfl h 3, ?_⟩⟩
    · exact ⟨(guarded_true _ hg).trans (congrArg _ (withRegion_none rfl h)), (guarded_true _ hg).trans (congrArg _ (withRegion_none rfl h)),
        (guarded_true _ hg).trans (congrArg _ (withRegion_none rfl h)),
        fun rw_ => (guarded_true _ hg).trans (congrArg _ (withRegion_none rfl h))⟩
    · have hno : ¬ (2 ^ 46 ≤ (rr + 1 - tableOf s s.cur n).toNat ∧ (rr + 1 - tableOf s s.cur n).toNat < 2 ^ 47) := by omega
      exact (execRadv_declared hg rfl h).trans (congrArg _ (if_neg hno))
    · exact (execRadv_declared hg rfl h).trans (congrArg _ (if_pos ⟨hlo, hhi⟩))
    · intro e he
      simp only [List.mem_cons, List.not_mem_nil, or_false] at he
      obtain rfl | rfl | rfl := he
      · exact counts_of_issueCop (execRrnd_declared hg rfl h 2)
      · exact counts_of_issueCop (execRpub_declared hg rfl h)
      · exact execRacq_counts hg rfl h
  · let p := tget 0 s.dev.prod s.arg.k + 1
    let s2 := (s.modD fun d => { d with prod := tset d.prod s.arg.k p }).modI s.arg.h fun i => { i with rounds := tset i.rounds s.arg.k p }
    obtain ⟨hm, hc, hi, hd⟩ := sendAll_frame islIds (· = s.arg.h) (fun y t =>
      sendMsg s.arg.h y .roundTableUpdate { Arg.zero with y := y, k := s.arg.k, n := p.toNat } t) (fun y t => ⟨rfl, rfl, rfl, rfl⟩) s2
    obtain ⟨hfm, hfi, hfd, hfl⟩ := finishFree_spec s.arg.c s.arg.id (p.setWidth 64) (islIds.foldl (fun t y => if y = s.arg.h then t else
      sendMsg s.arg.h y .roundTableUpdate { Arg.zero with y := y, k := s.arg.k, n := p.toNat } t) s2)
    refine ⟨_, rfl, ?_, ?_, fun k hk => ?_, ?_, fun c o ho hcc hid => ?_⟩
    · rw [hfd, hd]; exact tget_tset_self _ _ _ _
    · rw [hfi, hi]; simp [s2, p]
    · rw [hfd, hd]; exact tget_tset_ne _ _ _ hk
    · rw [hfm, hm]; rfl
    · subst hcc
      exact hfl o (by rw [hc]; exact ho) hid
  · refine ⟨_, rfl, ?_, fun k hk => ?_, fun y hy => ?_, rfl, rfl, rfl, rfl⟩
    · rw [State.modI_get, tget_tmod_self, roundMax, roundGe]
      simp only [decide_eq_true_eq]
    · rw [State.modI_get, tget_tmod_ne _ _ _ hk]
    · exact State.modI_get_ne s _ hy

end Sys2Proof.Machine
end

section
/-! O23: halyard instructions at issue. -/

namespace Sys2Proof.Machine

/-- What the pages of a tile can fail with is a trap (R178, R332, R336). -/
theorem tilePages_trap {ea : W64} {tile : Nat} {wr : Bool} {s : State} {r : Addr} (h : tilePages ea tile wr s = some r) :
    ∃ c f d, r = .trap c f d := by
  obtain ⟨i, -, hi⟩ := List.exists_of_findSome?_eq_some h
  dsimp only at hi
  split at hi
  · exact ⟨_, _, _, (Option.some.inj hi).symm⟩
  · split at hi
    · exact ⟨_, _, _, (Option.some.inj hi).symm⟩
    · exact nomatch hi
  · exact nomatch hi

theorem tilePages_getD_at {ea : W64} {tile key : Nat} {wr : Bool} {s : State} {r : XRes} {spc : Sp} {ea' : W64} {key' : Nat} {x : XRes}
    (h : (tilePages ea tile wr s).getD (.at .glob ea key r) = .at spc ea' key' x) : ea' = ea := by
  cases hp : tilePages ea tile wr s with
  | none =>
    rw [hp] at h
    exact (Addr.at.inj h).2.1.symm
  | some r =>
    obtain ⟨c, f, d, rfl⟩ := tilePages_trap hp
    rw [hp] at h
    exact nomatch h

/-- A tile that its checks let pass stands at the address that was checked. -/
theorem checkTile_at {op : Nat} {sp : BitVec 2} {ea : W64} {tile : Nat} {wr : Bool} {s : State} {spc : Sp} {ea' : W64} {key : Nat} {x : XRes}
    (h : checkTile op sp ea tile wr s = .at spc ea' key x) : ea' = ea := by
  unfold checkTile at h
  split at h
  · exact nomatch h
  split at h
  · exact nomatch h
  split at h
  · split at h
    · exact nomatch h
    · exact (Addr.at.inj h).2.1.symm
  split at h
  · split at h
    · exact nomatch h
    · exact (Addr.at.inj h).2.1.symm
  split at h
  · exact nomatch h
  · split at h
    dsimp only at h
    split at h
    · exact nomatch h
    · exact tilePages_getD_at h

section
variable {op : Nat} {hoist : Bool} {d a b : BitVec 6} {sp : BitVec 2} {t : Toks} {s : State} {h : BitVec 16} {x : Halyard}
  (hh : (s.me.r.getS a).setWidth 16 = h)
include hh

theorem halIssue_reserved (hr : h.extractLsb' 8 6 ≠ 0) : halIssue op hoist d a b sp t s = illegal op s := by
  unfold halIssue
  dsimp only
  rw [hh, if_pos hr]

theorem halIssue_unknown (hr : h.extractLsb' 8 6 = 0) (hx : findHal s h = none) :
    halIssue op hoist d a b sp t s = takeTrap 0x12 (h.setWidth 64) 0 s := by
  unfold halIssue
  dsimp only
  rw [hh, if_neg (not_not.2 hr), hx]

theorem halIssue_trap (hr : h.extractLsb' 8 6 = 0) (hx : findHal s h = some x) {c : Byte} {f dt : W64}
    (hc : checkTile op sp (s.me.r.getS b) x.tile (!hoist) s = .trap c f dt) : halIssue op hoist d a b sp t s = takeTrap c f dt s := by
  unfold halIssue
  dsimp only
  rw [hh, if_neg (not_not.2 hr), hx]
  dsimp only
  rw [hc]

/-- A hoist or sight that its checks let pass (R210). -/
theorem halIssue_counts (hr : h.extractLsb' 8 6 = 0) (hx : findHal s h = some x) {spc : Sp} {ea : W64} {key : Nat} {xr : XRes}
    (hc : checkTile op sp (s.me.r.getS b) x.tile (!hoist) s = .at spc ea key xr) (htok : s.me.tokPending t.tp = false) :
    ∃ o, let u := halIssue op hoist d a b sp t s
      u.dev.hops = s.dev.hops ++ [o] ∧ o.core = s.cur ∧ o.hoist = hoist ∧ o.hal = h.toNat ∧
      o.va = s.me.r.getS b ∧ o.dst = d ∧ o.tok = t.tp ∧ u.me.til = s.me.til + 1 ∧ (t.tp ≠ 0 → u.me.tokPending t.tp = true) ∧
      u.mem = s.mem ∧ u.me.r = s.me.r := by
  have hea := checkTile_at hc
  let o : HalOp := ⟨s.dev.nid, s.cur, s.order, hoist, h.toNat, spc, ea, key, d, t.tp, (s.me.produce t.tp 0).1, s.me.depsOf t, none, 0, false,
    0, false, 0, [], [], s.bun.adr, false, none, (0, false), none⟩
  have hu : halIssue op hoist d a b sp t s = (((s.modMe fun _ => { (s.me.produce t.tp 0).2 with til := (s.me.produce t.tp 0).2.til + 1 }).modD
      fun v => { v with hops := v.hops ++ [o], nid := s.dev.nid + 1 }).at (ctlCycle s.tick) (.tile s.dev.nid)) := by
    unfold halIssue
    dsimp only
    rw [hh, if_neg (not_not.2 hr), hx]
    dsimp only
    rw [hc]
    dsimp only
    rw [htok, if_neg Bool.false_ne_true]
  have hkeep : (s.me.produce t.tp 0).2.til = s.me.til ∧ (s.me.produce t.tp 0).2.r = s.me.r := by
    unfold CoreSt.produce
    split <;> exact ⟨rfl, rfl⟩
  have hme := State.modMe_me s fun _ => { (s.me.produce t.tp 0).2 with til := (s.me.produce t.tp 0).2.til + 1 }
  refine ⟨o, ?_⟩
  dsimp only
  rw [hu]
  exact ⟨rfl, rfl, rfl, rfl, hea, rfl, rfl, (congrArg CoreSt.til hme).trans (congrArg (· + 1) hkeep.1),
    fun hp => (congrArg (CoreSt.tokPending · t.tp) hme).trans (s.me.produce_tokPending 0 hp), rfl, (congrArg CoreSt.r hme).trans hkeep.2⟩

end

section
variable {g : Guard} {d a : BitVec 6} {s : State} {h : BitVec 16} (hg : guardOk g s = true) (hh : (s.me.r.getS a).setWidth 16 = h)
include hg hh

theorem execHrnd_reserved (hr : h.extractLsb' 8 6 ≠ 0) : execHrnd g d a s = .next (illegal 0x81 s) := by
  rw [execHrnd, guarded_true _ hg]
  dsimp only
  rw [hh, if_pos hr]

theorem execHrnd_unknown (hr : h.extractLsb' 8 6 = 0) (hx : findHal s h = none) :
    execHrnd g d a s = .next (takeTrap 0x12 (h.setWidth 64) 0 s) := by
  rw [execHrnd, guarded_true _ hg]
  dsimp only
  rw [hh, if_neg (not_not.2 hr), hx]

theorem execHrnd_known {x : Halyard} (hr : h.extractLsb' 8 6 = 0) (hx : findHal s h = some x) :
    execHrnd g d a s = .next (toS (2 * halD s s.cur h) d (halWord x) s) := by
  rw [execHrnd, guarded_true _ hg]
  dsimp only
  rw [hh, if_neg (not_not.2 hr), hx]

end

/-- Settles O23: halIssue's outcomes for hoist and sight, and hrnd's. -/
theorem halyardInstructions : Obligations.HalyardInstructions := by
  unfold Obligations.HalyardInstructions
  intro g d a b sp tp ta tb tc s hg h both
  have hhoist : exec (.hoist g d a b sp tp ta tb tc) s = .next (halIssue 0x7F true d a b sp ⟨tp, ta, tb, tc⟩ s) := guarded_true _ hg
  have hsight : exec (.sight g d a b sp tp ta tb tc) s = .next (halIssue 0x80 false d a b sp ⟨tp, ta, tb, tc⟩ s) := guarded_true _ hg
  refine ⟨fun hr => ⟨⟨?_, ?_⟩, execHrnd_reserved hg rfl hr⟩, fun hr hx => ⟨⟨?_, ?_⟩, execHrnd_unknown hg rfl hr hx⟩,
    fun x hr hx => ⟨execHrnd_known hg rfl hr hx, ⟨fun c f dt hc => ?_, fun space ea key xr hc htok => ?_⟩,
      ⟨fun c f dt hc => ?_, fun space ea key xr hc htok => ?_⟩⟩⟩
  · exact hhoist.trans (congrArg _ (halIssue_reserved rfl hr))
  · exact hsight.trans (congrArg _ (halIssue_reserved rfl hr))
  · exact hhoist.trans (congrArg _ (halIssue_unknown rfl hr hx))
  · exact hsight.trans (congrArg _ (halIssue_unknown rfl hr hx))
  · exact hhoist.trans (congrArg _ (halIssue_trap rfl hr hx hc))
  · obtain ⟨o, ho⟩ := halIssue_counts (t := ⟨tp, ta, tb, tc⟩) (d := d) rfl hr hx hc htok
    exact ⟨_, o, hhoist, ho⟩
  · exact hsight.trans (congrArg _ (halIssue_trap rfl hr hx hc))
  · obtain ⟨o, ho⟩ := halIssue_counts (t := ⟨tp, ta, tb, tc⟩) (d := d) rfl hr hx hc htok
    exact ⟨_, o, hsight, ho⟩

end Sys2Proof.Machine
end

section
/-! O27: nest registers, matrix parameters, microprogram loads. -/

namespace Sys2Proof.Machine

theorem getLsbD_ones64 (j : Nat) : (0xFFFFFFFFFFFFFFFF : BitVec 512).getLsbD j = decide (j < 64) := by
  rw [show (0xFFFFFFFFFFFFFFFF : BitVec 512) = BitVec.ofNat 512 (2 ^ 64 - 1) from rfl, BitVec.getLsbD_ofNat, Nat.testBit_two_pow_sub_one]
  by_cases hj : j < 64
  · simp [hj, show j < 512 by omega]
  · simp [hj]

/-- The bits of a nest register, one word of which was replaced. -/
theorem getLsbD_setWord (x : BitVec 512) (w : BitVec 3) (v : W64) (k : Nat) (hk : k < 512) : (setWord x w v).getLsbD k =
    if 64 * w.toNat ≤ k ∧ k < 64 * w.toNat + 64 then v.getLsbD (k - 64 * w.toNat) else x.getLsbD k := by
  simp only [setWord, BitVec.getLsbD_or, BitVec.getLsbD_and, BitVec.getLsbD_not, BitVec.getLsbD_shiftLeft, getLsbD_ones64,
    BitVec.getLsbD_setWidth, hk, decide_true, Bool.true_and]
  by_cases hlo : 64 * w.toNat ≤ k
  · by_cases hhi : k - 64 * w.toNat < 64
    · simp [not_lt.2 hlo, hlo, hhi, show k < 64 * w.toNat + 64 by omega, show k - 64 * w.toNat < 512 by omega]
    · simp [not_lt.2 hlo, hhi, show ¬ k < 64 * w.toNat + 64 by omega, BitVec.getLsbD_of_ge v _ (not_lt.1 hhi)]
  · simp [not_le.1 hlo, hlo]

/-- A word of a nest register, after a word of it was replaced (R17, R196). -/
theorem extractLsb'_setWord (x : BitVec 512) (w u : BitVec 3) (v : W64) :
    (setWord x w v).extractLsb' (64 * u.toNat) 64 = if u = w then v else x.extractLsb' (64 * u.toNat) 64 := by
  have hu := u.isLt
  apply BitVec.eq_of_getLsbD_eq
  intro i hi
  rw [BitVec.getLsbD_extractLsb', getLsbD_setWord x w v _ (by omega)]
  by_cases h : u = w
  · subst h
    rw [if_pos rfl, if_pos (by omega), Nat.add_sub_cancel_left, decide_eq_true hi, Bool.true_and]
  · have hne : u.toNat ≠ w.toNat := fun e => h (BitVec.eq_of_toNat_eq e)
    rw [if_neg h, if_neg (by omega), BitVec.getLsbD_extractLsb']

theorem nest_land_word (r : Regs) (k : BitVec 4) (w u : BitVec 3) (v : W64) :
    ((r.land (.nest k w v)).getN k).extractLsb' (64 * u.toNat) 64 =
      if u = w then v else (r.getN k).extractLsb' (64 * u.toNat) 64 := by
  have hland : (r.land (.nest k w v)).getN k = setWord (r.getN k) w v := by simp [Regs.land, Regs.getN]
  rw [hland, extractLsb'_setWord]

/-- A matrix operation without tokens is withheld (R146, R149). -/
theorem issueMx_noToks (kind : MxKind) (s : State) : ∃ o, o.kind = kind ∧
    issueMx kind noToks s = s.modMe fun k => { k with wmx := s.me.wmx ++ [o] } := by
  refine ⟨⟨s.order, s.bun.adr, kind, s.me.r.m, 0, 0, s.me.depsOf noToks⟩, rfl, ?_⟩
  have hfree : s.me.tokPending noToks.tp = false := s.me.tokPending_zero
  unfold issueMx
  rw [hfree, if_neg Bool.false_ne_true]
  rfl

/-- One bit of the issue-time copy of the entries' valid bits (R149). -/
theorem getLsbD_putBit (x : BitVec 256) (e : BitVec 8) (b : Bool) (i : Nat) :
    (if b then x ||| 1#256 <<< e.toNat else x &&& ~~~(1#256 <<< e.toNat)).getLsbD i = if i = e.toNat then b else x.getLsbD i := by
  have hone : (1#256 <<< e.toNat).getLsbD i = decide (i = e.toNat) := by
    rw [BitVec.getLsbD_shiftLeft, BitVec.getLsbD_one]
    have he := e.isLt
    by_cases hi : i = e.toNat
    · simp [hi, he]
    · simp [hi]
      omega
  by_cases hi : i = e.toNat
  · have hlt : e.toNat < 256 := e.isLt
    cases b <;> simp [hone, hi, hlt]
  · cases b
    · by_cases hlt : i < 256
      · simp [hone, hi, hlt]
        omega
      · simp [hi, BitVec.getLsbD_of_ge x i (not_lt.1 hlt)]
    · simp [hone, hi]

section
variable {g : Guard} {a b : BitVec 6} {w : BitVec 10} {p : W64} {n : Nat} {s : State} (hg : guardOk g s = true)
  (hp : s.me.r.getS a = p) (hn : (s.me.r.getS b).toNat = n)
include hg hp hn

/-- mpld's checks, in their order (R149). -/
theorem execMpld_checks : execMpld g a b w s = .next (
    if ¬ (1 ≤ n ∧ w.toNat + n ≤ 1024) then illegal 0xA3 s
    else if ¬ 4 ∣ p.toNat then takeTrap 0x06 p 4 s
    else if 0x200000 < p.toNat + 4 * n then takeTrap 0x07 p 4 s
    else issueMx (.mpld p.toNat n w.toNat) noToks s) := by
  rw [execMpld, guarded_true _ hg, hp, hn]
  refine congrArg _ ?_
  have hstore : (n = 0 ∨ 1024 < w.toNat + n) ↔ ¬ (1 ≤ n ∧ w.toNat + n ≤ 1024) := by omega
  have halign : p.toNat % 4 ≠ 0 ↔ ¬ 4 ∣ p.toNat := by omega
  simp only [hstore, halign]
  split
  · rfl
  next hs =>
    have hrange : 0x200000 ≤ p.toNat + 4 * n - 1 ↔ 0x200000 < p.toNat + 4 * n := by omega
    simp only [hrange]

theorem execMpld_withheld (hs : 1 ≤ n ∧ w.toNat + n ≤ 1024) (h4 : 4 ∣ p.toNat) (hr : p.toNat + 4 * n ≤ 0x200000) :
    ∃ t o, execMpld g a b w s = .next t ∧ t.me.wmx = s.me.wmx ++ [o] ∧ o.kind = .mpld p.toNat n w.toNat ∧ t.mem = s.mem ∧
      t.me.r = s.me.r ∧ t.me.pend = s.me.pend := by
  obtain ⟨o, hkind, ho⟩ := issueMx_noToks (.mpld p.toNat n w.toNat) s
  refine ⟨_, o, (execMpld_checks hg hp hn).trans (congrArg _ ((if_neg (not_not.2 hs)).trans
    ((if_neg (not_not.2 h4)).trans ((if_neg (not_lt.2 hr)).trans ho)))), ?_⟩
  rw [State.modMe_me]
  exact ⟨rfl, hkind, rfl, rfl, rfl⟩

end

/-- mpent is withheld, and its valid bit shows at once (R149). -/
theorem execMpent_withheld {g : Guard} {s : State} (hg : guardOk g s = true) (a : BitVec 6) (e : BitVec 8) :
    ∃ t o, execMpent g a e s = .next t ∧ t.me.wmx = s.me.wmx ++ [o] ∧ o.kind = .mpent e ((s.me.r.getS a).setWidth 11) ∧
      t.me.r.entryOk.getLsbD e.toNat = (s.me.r.getS a).getLsbD 10 ∧
      (∀ i, i ≠ e.toNat → t.me.r.entryOk.getLsbD i = s.me.r.entryOk.getLsbD i) ∧ t.mem = s.mem ∧ t.me.pend = s.me.pend := by
  obtain ⟨o, hkind, ho⟩ := issueMx_noToks (.mpent e ((s.me.r.getS a).setWidth 11)) s
  refine ⟨_, o, guarded_true _ hg, ?_⟩
  dsimp only
  rw [ho, State.modMe_me, State.modMe_me]
  refine ⟨rfl, hkind, ?_, fun i hi => ?_, rfl, rfl⟩
  · exact (getLsbD_putBit _ e _ _).trans (if_pos rfl)
  · exact (getLsbD_putBit _ e _ _).trans (if_neg hi)

/-- Settles O27: nest words, the reads and deliveries of the parameter registers, and the two withheld operations. -/
theorem nestAndMatrixRegisters : Obligations.NestAndMatrixRegisters := by
  unfold Obligations.NestAndMatrixRegisters
  refine ⟨⟨fun g k d a w s hg => ⟨guarded_true _ hg, guarded_true _ hg⟩, nest_land_word⟩,
    fun g d a i imm q sel s hg => ⟨guarded_true _ hg, guarded_true _ hg, guarded_true _ hg, guarded_true _ hg, guarded_true _ hg⟩,
    fun g a b w e s hg => ⟨fun hs => ?_, fun hs h4 => ?_, fun hs h4 hr => ?_, fun hs h4 hr => execMpld_withheld hg rfl rfl hs h4 hr,
      execMpent_withheld hg a e⟩⟩
  · exact (execMpld_checks hg rfl rfl).trans (congrArg _ (if_pos hs))
  · exact (execMpld_checks hg rfl rfl).trans (congrArg _ ((if_neg (not_not.2 hs)).trans (if_pos h4)))
  · exact (execMpld_checks hg rfl rfl).trans (congrArg _ ((if_neg (not_not.2 hs)).trans ((if_neg (not_not.2 h4)).trans (if_pos hr))))

end Sys2Proof.Machine
end

section
/-! O28, O29: stage queues, launch and lpoll. -/

namespace Sys2Proof.Machine

/-! Deliveries of two states that owe the same. -/

theorem deliver_pend (n : Nat) (e : Eff) (s : State) :
    (deliver n e s).me.pend = insDel s.me.pend ⟨.ctl, n, s.tick + n * s.me.div.ctl, s.order, e⟩ := by
  rw [deliver_me]

/-- What a delivery's place and time depend on. -/
def SameIssue (s u : State) : Prop := u.me.pend = s.me.pend ∧ u.tick = s.tick ∧ u.me.div = s.me.div ∧ u.order = s.order

theorem SameIssue.deliver {s u : State} (h : SameIssue s u) (n : Nat) (e : Eff) : SameIssue (deliver n e s) (deliver n e u) := by
  obtain ⟨hpend, htick, hdiv, horder⟩ := h
  refine ⟨?_, htick, ?_, horder⟩
  · rw [deliver_pend, deliver_pend, hpend, htick, hdiv, horder]
  · rw [deliver_me, deliver_me]
    exact hdiv

theorem deliver_r (n : Nat) (e : Eff) (s : State) : (deliver n e s).me.r = s.me.r := by
  rw [deliver_me]

/-! Work items (R219, R220). -/

theorem myStage_deliver (n : Nat) (e : Eff) (s : State) (t : Nat) : (deliver n e s).myStage t = s.myStage t := by
  unfold State.myStage
  rw [deliver_me]
  rfl

theorem modMyStage_frame (s : State) (t : Nat) (f : StageSt → StageSt) :
    (s.modMyStage t f).core = s.core ∧ (s.modMyStage t f).cur = s.cur ∧ (s.modMyStage t f).mem = s.mem ∧ (s.modMyStage t f).tick = s.tick ∧
    (s.modMyStage t f).bun = s.bun := by
  unfold State.modMyStage
  split
  · obtain ⟨h1, h2, h3⟩ := modL_keeps s ‹_› fun l => l.modStage t f
    obtain ⟨-, -, h4, h5⟩ := modL_frame s ‹_› fun l => l.modStage t f
    exact ⟨h1, h3, h2, h4, h5⟩
  · exact ⟨rfl, rfl, rfl, rfl, rfl⟩

/-- The stage of the core, after it alone was changed. -/
theorem myStage_modMyStage (s : State) (t : Nat) (f : StageSt → StageSt) : (s.modMyStage t f).myStage t = (s.myStage t).map f := by
  obtain ⟨hcore, hcur, -⟩ := modMyStage_frame s t f
  have hme : (s.modMyStage t f).me = s.me := by rw [State.me, hcore, hcur, State.me]
  unfold State.myStage
  rw [hme]
  unfold State.modMyStage
  split
  next n hn =>
    rw [hn, launch?_modL_self, Option.bind_map, Option.map_bind]
    exact congrArg (Option.bind _) (funext fun l => stage?_modStage_self l t f)
  next hn => rw [hn]; rfl

section
variable {g : Guard} {d : BitVec 6} {j : BitVec 4} {s : State} (hg : guardOk g s = true)
include hg

theorem execPull_held (h : s.me.r.held.isSome = true) : execPull g d j s = .next (takeTrap 0x13 0 0xC0 s) := by
  rw [execPull, guarded_true _ hg]
  exact congrArg _ (if_pos h)

theorem execPull_item {i : Item} (h : s.me.r.held = none) (hq : ((s.myStage s.me.stg.toNat).bind fun x => x.q.head?) = some i) :
    execPull g d j s = .next (takeItem d j i s) := by
  rw [execPull, guarded_true _ hg, h, hq]
  rfl

theorem execPull_none (h : s.me.r.held = none) (hq : ((s.myStage s.me.stg.toNat).bind fun x => x.q.head?) = none) :
    execPull g d j s = .next (deliver 4 (.p (s.me.r.physP j) 0 (BitVec.allOnes 64))
      (toS 4 d (if s.myClosed s.me.stg.toNat then 1 else 0) (s.modMe fun k =>
        if s.myClosed s.me.stg.toNat then { k with pullClosed := k.pullClosed.or (some s.bun.num) }
        else { k with pullEmpty := k.pullEmpty.or (some s.bun.num) }))) := by
  rw [execPull, guarded_true _ hg, h, hq]
  rfl

end

/-- An item that is pulled: the core holds it, its queue has lost it, and its deliveries are on their way (R219). -/
theorem takeItem_spec (d : BitVec 6) (j : BitVec 4) (i : Item) (s : State) :
    let t := takeItem d j i s
    t.me.r = { s.me.r with held := some i } ∧ t.me.pops = s.me.pops ++ [⟨s.order, true, i⟩] ∧
    (t.myStage s.me.stg.toNat).map (·.q) = (s.myStage s.me.stg.toNat).map (·.q.tail) ∧
    t.me.pend = (deliver 4 (.item i.wid i.pen) (deliver 4 (.p (s.me.r.physP j) 0xFFFFFFFFFFFFFFFF 0xFFFFFFFFFFFFFFFF)
      (toS 4 d i.wid s))).me.pend ∧ t.mem = s.mem := by
  intro t
  let s1 := s.modMyStage s.me.stg.toNat fun x => { x with q := x.q.drop 1, out := x.out + 1 }
  let s2 := s1.modMe fun k => { k with
    pops := k.pops ++ [⟨s.order, true, i⟩], after := k.after ++ i.src.map fun e => (s.order, e), pullClosed := none, pullEmpty := none
    r := { k.r with held := some i } }
  obtain ⟨hcore, hcur, hmem, htick, hbun⟩ := modMyStage_frame s s.me.stg.toNat fun x => { x with q := x.q.drop 1, out := x.out + 1 }
  have hme1 : s1.me = s.me := by rw [State.me, hcore, hcur, State.me]
  have hme2 : s2.me = _ := State.modMe_me s1 _
  have ht : t = deliver 4 (.item i.wid i.pen) (deliver 4 (.p (s.me.r.physP j) (BitVec.allOnes 64) (BitVec.allOnes 64)) (toS 4 d i.wid s2)) := rfl
  have hissue : SameIssue s s2 := by
    refine ⟨?_, htick, ?_, ?_⟩
    · rw [hme2, hme1]
    · rw [hme2, hme1]
    · rw [State.order, State.order]
      exact congrArg (fun b : Bundle => b.num * 8 + b.slot.toNat) hbun
  refine ⟨?_, ?_, ?_, ?_, hmem⟩
  · rw [ht, deliver_r, deliver_r, toS, deliver_r, hme2, hme1]
  · rw [ht, deliver_me, deliver_me, toS, deliver_me, hme2, hme1]
  · have hstage : s2.myStage s.me.stg.toNat = s1.myStage s.me.stg.toNat := by
      unfold State.myStage
      rw [hme2, hme1]
      rfl
    rw [ht, myStage_deliver, myStage_deliver, toS, myStage_deliver, hstage, myStage_modMyStage, Option.map_map]
    exact congrArg (Option.map · _) (funext fun x => List.drop_one)
  · rw [ht]
    exact (((hissue.deliver 4 (.s d i.wid)).deliver 4 _).deliver 4 _).1

/-- A pull from an empty queue (R219). -/
theorem pullNothing_spec (d : BitVec 6) (j : BitVec 4) (v : W64) (cl : Bool) (n : Nat) (s : State) :
    let t := deliver 4 (.p (s.me.r.physP j) 0 (BitVec.allOnes 64)) (toS 4 d v (s.modMe fun k =>
      if cl then { k with pullClosed := k.pullClosed.or (some n) } else { k with pullEmpty := k.pullEmpty.or (some n) }))
    t.me.r = s.me.r ∧ t.me.pend = (deliver 4 (.p (s.me.r.physP j) 0 0xFFFFFFFFFFFFFFFF) (toS 4 d v s)).me.pend ∧ t.mem = s.mem ∧
      t.dev = s.dev := by
  have hissue : SameIssue s (s.modMe fun k =>
      if cl then { k with pullClosed := k.pullClosed.or (some n) } else { k with pullEmpty := k.pullEmpty.or (some n) }) := by
    refine ⟨?_, rfl, ?_, rfl⟩ <;> rw [State.modMe_me] <;> split <;> rfl
  refine ⟨?_, ((hissue.deliver 4 (.s d v)).deliver 4 _).1, rfl, rfl⟩
  rw [deliver_r, toS, deliver_r, State.modMe_me]
  split <;> rfl

/-! Pushes (R221). -/

section
variable {g : Guard} {d a b : BitVec 6} {st : BitVec 3} {hasB : Bool} {s : State} (hg : guardOk g s = true)
include hg

theorem execPush_illegal (h : s.myStage st.toNat = none ∨ st.toNat ≤ s.me.stg.toNat) :
    execPush g d a b st hasB s = .next (illegal 0xC1 s) := by
  rw [execPush, guarded_true _ hg]
  exact congrArg _ (if_pos (h.symm.imp_right Option.isNone_iff_eq_none.2))

variable {x : StageSt} (hx : s.myStage st.toNat = some x) (hst : s.me.stg.toNat < st.toNat)
include hx hst

theorem execPush_legal : execPush g d a b st hasB s = .next (match s.me.r.held with
    | none => stageTrap 0xC1 s
    | some i =>
      if 2 ^ wfwBits s.me.wfw ≤ (s.me.r.getS a).toNat then takeTrap 0x14 (s.me.r.getS a) s.me.wfw s
      else deliver 6 (.push st d (s.me.r.getS a) (if hasB then (s.me.r.getS b).setWidth 16 else i.pen)) s) := by
  have hlegal : ¬ (st.toNat ≤ s.me.stg.toNat ∨ (s.myStage st.toNat).isNone) := by
    rintro (h | h)
    · omega
    · simp [hx] at h
  rw [execPush, guarded_true _ hg]
  exact congrArg _ (if_neg hlegal)

end

theorem modL_core (s : State) (n : Nat) (f : Launch → Launch) : (s.modL n f).core = s.core := (modL_keeps s n f).1

theorem modL_mem (s : State) (n : Nat) (f : Launch → Launch) : (s.modL n f).mem = s.mem := (modL_keeps s n f).2.1

/-- A push that has run is no delivery any more. -/
def dropPush (c : CoreId) (x : Delivery) (s : State) : State := s.modC c fun k => { k with pend := k.pend.filter (· != x) }

/-- Its status is one. -/
def answerPush (c : CoreId) (x : Delivery) (d : BitVec 6) (v : W64) (s : State) : State :=
  s.modC c fun k => { k with pend := insDel k.pend { x with eff := .s d v } }

theorem answerPush_mem (c : CoreId) (x : Delivery) (d : BitVec 6) (v : W64) (s : State) :
    { x with eff := .s d v } ∈ ((answerPush c x d v s).core.get c).pend := by
  have hme : (answerPush c x d v s).core.get c = { s.core.get c with pend := insDel (s.core.get c).pend { x with eff := .s d v } } :=
    State.modC_get s c _
  rw [hme]
  exact (mem_insDel _ _ _).2 (.inl rfl)

/-- What an answered push leaves, whatever its step did beside the cores and storage. -/
theorem answerPush_frame {c : CoreId} {x : Delivery} {d : BitVec 6} {v : W64} {s u : State} (hcore : u.core = (dropPush c x s).core)
    (hmem : u.mem = s.mem) :
    ((answerPush c x d v u).core.get c).r = (s.core.get c).r ∧ (answerPush c x d v u).mem = s.mem := by
  have hget : u.core.get c = { s.core.get c with pend := (s.core.get c).pend.filter (· != x) } := by
    rw [hcore]
    exact State.modC_get s c _
  have hans : (answerPush c x d v u).core.get c = { u.core.get c with pend := insDel (u.core.get c).pend { x with eff := .s d v } } :=
    State.modC_get u c _
  refine ⟨?_, hmem⟩
  rw [hans, hget]

section
variable {s : State} {c : CoreId} {x : Delivery} {st : BitVec 3} {d : BitVec 6} {w : W64} {pn : BitVec 16} {n : Nat} {l : Launch}
  {q : StageSt} (he : x.eff = .push st d w pn) (hn : (s.core.get c).launch = some n) (hl : tfind s.dev.pool n = some l)
  (hq : l.stage? st.toNat = some q)

include he in
theorem landPush_purged (hp : purgeBlock s (s.core.get c).ctx pn = true) :
    landPush c x s = answerPush c x d 0 (countPurged (s.core.get c).ctx pn 1 (dropPush c x s)) := by
  unfold landPush
  rw [he]
  exact if_pos hp

include hn hl hq in
theorem stage_of_push : (s.launch? (s.core.get c).launch).bind (·.stage? st.toNat) = some q := by
  rw [hn]
  show (tfind s.dev.pool n).bind _ = _
  rw [hl]
  exact hq

include he hn hl hq in
theorem landPush_room (hp : purgeBlock s (s.core.get c).ctx pn = false) (hroom : q.occ < q.cap) :
    landPush c x s = answerPush c x d 0
      ((dropPush c x s).modL n fun l => l.modStage st.toNat fun y => { y with q := y.q ++ [⟨w, pn, pushSrc s c x.seq⟩] }) := by
  unfold landPush
  rw [he]
  dsimp only
  rw [stage_of_push hn hl hq, hn, hp]
  exact if_pos hroom

include he hn hl hq in
theorem landPush_full (hp : purgeBlock s (s.core.get c).ctx pn = false) (hfull : q.cap ≤ q.occ) :
    landPush c x s = answerPush c x d 1 (dropPush c x s) := by
  unfold landPush
  rw [he]
  dsimp only
  rw [stage_of_push hn hl hq, hn, hp]
  exact if_neg (Nat.not_lt.2 hfull)

/-- The items of the stage's queue in a state that has this pool. -/
theorem queue_of_pool {u : State} (h : u.dev.pool = s.dev.pool) (hl : tfind s.dev.pool n = some l) (hq : l.stage? st.toNat = some q) :
    ((u.launch? (some n)).bind (·.stage? st.toNat)).map (·.q) = some q.q := by
  show (((tfind u.dev.pool n).bind (·.stage? st.toNat)).map (·.q)) = _
  rw [h, hl]
  show (l.stage? st.toNat).map (·.q) = _
  rw [hq]
  rfl

end

/-- A push is followed by itself, and by what its core followed (R221). -/
theorem mem_pushSrc (s : State) (c : CoreId) (n : Nat) : (c, n) ∈ pushSrc s c n := List.mem_cons_self

theorem pushSrc_alone {s : State} {c : CoreId} {n : Nat} (h : (s.core.get c).after = []) : pushSrc s c n = [(c, n)] := by
  unfold pushSrc
  rw [h]
  rfl

/-- A single push that is due lands alone. -/
theorem landPushes_one {s : State} {c : CoreId} {x : Delivery} {p : Delivery → Bool}
    (h : ((s.core.get c).pend.filter fun y => y.eff.isPush && p y) = [x]) : landPushes c p s = landPush c x s := by
  unfold landPushes
  rw [h]
  rfl

/-- A push runs (R221, R384): by a purge block, the room in the queue. -/
theorem landPush_spec {s : State} {c : CoreId} {x : Delivery} {st : BitVec 3} {d : BitVec 6} {w : W64} {pn : BitVec 16} {n : Nat}
    {l : Launch} {q : StageSt} (he : x.eff = .push st d w pn) (hn : (s.core.get c).launch = some n) (hl : tfind s.dev.pool n = some l)
    (hq : l.stage? st.toNat = some q) :
    let t := landPush c x s
    let ql := ((t.launch? (some n)).bind (·.stage? st.toNat)).map (·.q)
    let status (v : W64) : Prop := { x with eff := .s d v } ∈ (t.core.get c).pend
    (t.core.get c).r = (s.core.get c).r ∧ t.mem = s.mem ∧
    (purgeBlock s (s.core.get c).ctx pn = true → ql = some q.q ∧ status 0) ∧
    (purgeBlock s (s.core.get c).ctx pn = false → q.occ < q.cap → status 0 ∧ ql = some (q.q ++ [⟨w, pn, pushSrc s c x.seq⟩])) ∧
    (purgeBlock s (s.core.get c).ctx pn = false → q.cap ≤ q.occ → ql = some q.q ∧ status 1) := by
  dsimp only
  cases hp : purgeBlock s (s.core.get c).ctx pn with
  | true =>
    rw [landPush_purged he hp]
    obtain ⟨hr, hm⟩ := answerPush_frame (c := c) (x := x) (d := d) (v := 0) (s := s)
      (u := countPurged (s.core.get c).ctx pn 1 (dropPush c x s)) rfl rfl
    exact ⟨hr, hm, fun _ => ⟨queue_of_pool rfl hl hq, answerPush_mem ..⟩, (nomatch ·), (nomatch ·)⟩
  | false =>
    rcases Nat.lt_or_ge q.occ q.cap with hroom | hfull
    · let f : Launch → Launch := fun l => l.modStage st.toNat fun y => { y with q := y.q ++ [⟨w, pn, pushSrc s c x.seq⟩] }
      have hlaunch : (answerPush c x d 0 ((dropPush c x s).modL n f)).launch? (some n) = ((dropPush c x s).launch? (some n)).map f :=
        launch?_modL_self (dropPush c x s) n f
      have hold : (dropPush c x s).launch? (some n) = some l := hl
      have hitem : ((f l).stage? st.toNat).map (·.q) = some (q.q ++ [⟨w, pn, pushSrc s c x.seq⟩]) := by
        rw [stage?_modStage_self, hq]
        rfl
      obtain ⟨hr, hm⟩ := answerPush_frame (c := c) (x := x) (d := d) (v := 0) (modL_core (dropPush c x s) n f)
        (modL_mem (dropPush c x s) n f)
      rw [landPush_room he hn hl hq hp hroom, hlaunch, hold]
      exact ⟨hr, hm, (nomatch ·), fun _ _ => ⟨answerPush_mem .., hitem⟩, fun _ h => absurd h (Nat.not_le.2 hroom)⟩
    · rw [landPush_full he hn hl hq hp hfull]
      obtain ⟨hr, hm⟩ := answerPush_frame (c := c) (x := x) (d := d) (v := 1) (s := s) (u := dropPush c x s) rfl rfl
      exact ⟨hr, hm, (nomatch ·), fun _ h => absurd h (Nat.not_lt.2 hfull), fun _ _ => ⟨queue_of_pool rfl hl hq, answerPush_mem ..⟩⟩

/-! retire and qdep (R222, R224). -/

/-- The fields of qdep's word, of which none reaches into the next (R224). -/
theorem queueWord_fields {x : StageSt} (cl : Bool) (ho : x.occ ≤ x.cap) (hc : x.cap ≤ 1024) :
    let v := queueWord x cl
    v.extractLsb' 0 11 = BitVec.ofNat 11 x.occ ∧ v.extractLsb' 16 11 = BitVec.ofNat 11 x.cap ∧ v.getLsbD 32 = cl ∧
    v.extractLsb' 11 5 = 0 ∧ v.extractLsb' 27 5 = 0 ∧ v.extractLsb' 33 31 = 0 := by
  have hcl : cl.toNat ≤ 1 := Bool.toNat_le cl
  have hcl' : cl.toNat = if cl then 1 else 0 := by cases cl <;> rfl
  unfold queueWord
  generalize x.occ = o at *
  generalize x.cap = k at *
  refine ⟨extractLsb'_ofNat ?_ ?_, extractLsb'_ofNat ?_ ?_, getLsbD_ofNat_eq (by omega) ?_, extractLsb'_ofNat (a := 0) ?_ ?_,
    extractLsb'_ofNat (a := 0) ?_ ?_, extractLsb'_ofNat (a := 0) ?_ ?_⟩ <;> omega

theorem execRetire_next {g : Guard} {s : State} (hg : guardOk g s = true) : execRetire g s = .next (match s.me.r.held with
    | none => stageTrap 0xC2 s
    | some i => s.modMe fun k => { k with pops := k.pops ++ [⟨s.order, false, i⟩], r := { k.r with held := none } }) := by
  rw [execRetire, guarded_true _ hg] <;> rfl

theorem execQdep_next {g : Guard} {d : BitVec 6} {st : BitVec 3} {s : State} (hg : guardOk g s = true) :
    execQdep g d st s = .next (match s.myStage st.toNat with
      | none => illegal 0xC8 s
      | some x => toS 4 d (queueWord x (s.myClosed st.toNat)) s) := by
  rw [execQdep, guarded_true _ hg] <;> rfl

/-- Settles O28: pull, push, retire and qdep case by case of what their core holds and what stands in the queue; a push as it runs. -/
theorem stageQueues : Obligations.StageQueues := by
  unfold Obligations.StageQueues
  refine ⟨?_, ?_, ?_, ?_⟩
  · intro g d j s hg q
    refine ⟨fun h => execPull_held hg h, fun i h hq => ?_, fun h hq => ?_⟩
    · obtain ⟨hr, hpops, hqueue, hpend, hmem⟩ := takeItem_spec d j i s
      refine ⟨_, execPull_item hg h hq, ?_, hpops, hqueue, hpend, ?_, ?_, hmem⟩ <;> rw [hr]
    · exact ⟨_, execPull_none hg h hq, pullNothing_spec d j _ _ _ s⟩
  · intro g d a b st hasB s hg w i
    refine ⟨fun h => execPush_illegal hg h, fun x hx hst => ⟨fun h => ?_, fun h hw => ?_, fun it h hw => ?_⟩⟩
    · exact (execPush_legal hg hx hst).trans (by rw [h]; rfl)
    · obtain ⟨it, h⟩ := Option.isSome_iff_exists.1 h
      refine (execPush_legal hg hx hst).trans ?_
      rw [h]
      exact congrArg _ (if_pos hw)
    · refine (execPush_legal hg hx hst).trans ?_
      rw [h]
      exact congrArg _ (if_neg (Nat.not_le.2 hw))
  · intro s c x st d w pn n l q he hn hl hq t ql status
    obtain ⟨hr, hmem, hpurged, hroom, hfull⟩ := landPush_spec he hn hl hq
    refine ⟨hr, hmem, hpurged, fun hp ho => ?_, hfull, fun p _ h => landPushes_one h⟩
    exact ⟨(hroom hp ho).1, _, (hroom hp ho).2, mem_pushSrc s c x.seq, pushSrc_alone⟩
  · intro g d st s hg
    have hretire : exec (.retire g) s = .next (match s.me.r.held with
      | none => stageTrap 0xC2 s
      | some i => s.modMe fun k => { k with pops := k.pops ++ [⟨s.order, false, i⟩], r := { k.r with held := none } }) :=
      execRetire_next hg
    have hqdep : exec (.qdep g d st) s = .next _ := execQdep_next hg
    refine ⟨fun h => hretire.trans ?_, fun i h => hretire.trans ?_, fun h => hqdep.trans ?_, fun x hx ho hc => ⟨_, hqdep.trans ?_,
      queueWord_fields (s.myClosed st.toNat) ho hc⟩⟩
    · rw [h]; rfl
    · rw [h]
    · rw [h]
    · rw [hx]

/-! launch and lpoll (R225, R227). -/

section
variable {g : Guard} {d a : BitVec 6} {s : State} (hg : guardOk g s = true)
include hg

theorem execLaunch_misaligned (h : ¬ 128 ∣ (s.me.r.getS a).toNat) :
    execLaunch g d a s = .next (takeTrap 0x06 (s.me.r.getS a) 256 s) := by
  rw [execLaunch, guarded_true _ hg]
  exact congrArg _ (if_pos fun hz => h (Nat.dvd_of_mod_eq_zero hz))

theorem execLaunch_lines (h : 128 ∣ (s.me.r.getS a).toNat) :
    execLaunch g d a s =
      .next (match checkAddr 0xC3 0 (s.me.r.getS a) 128 .rd s, checkAddr 0xC3 0 (s.me.r.getS a + 128) 128 .rd s with
      | .trap c f x, _ => takeTrap c f x s
      | .absent f, _ => takeTrap 0x0C f 0 s
      | _, .trap c f x => takeTrap c f x s
      | _, .absent f => takeTrap 0x0C f 0 s
      | _, _ =>
        let (n, s1) := s.pick
        issueCop (n % (4 * Config.usTicks - 16) + 1) (newCop (.launch (s.me.r.getS a)) d 0 .glob 0 0 0 false true 3 none) s1) := by
  rw [execLaunch, guarded_true _ hg]
  exact congrArg _ (if_neg fun hz : ¬ _ = 0 => hz (Nat.mod_eq_zero_of_dvd h))

end

/-- Settles O29: the checks of a record's lines in their order, and the counted operation that a launch or an lpoll becomes. -/
theorem launchInstructions : Obligations.LaunchInstructions := by
  unfold Obligations.LaunchInstructions
  intro g d a s hg ea
  refine ⟨fun h => execLaunch_misaligned hg h, fun h => ⟨fun c f x h1 => ?_, fun h1 => ?_, fun k x h1 => ⟨fun c f y h2 => ?_, fun h2 => ?_⟩,
    fun k x k' x' h1 h2 => ?_⟩, ?_⟩
  · exact (execLaunch_lines hg h).trans (by rw [h1])
  · exact (execLaunch_lines hg h).trans (by rw [h1])
  · exact (execLaunch_lines hg h).trans (by rw [h1, h2])
  · exact (execLaunch_lines hg h).trans (by rw [h1, h2])
  · have hme := issueCop_me (s.pick.1 % (4 * Config.usTicks - 16) + 1) (newCop (.launch ea) d 0 .glob 0 0 0 false true 3 none) s.pick.2
    refine ⟨_, _, (execLaunch_lines hg h).trans (by rw [h1, h2]), (congrArg CoreSt.loads hme :), rfl, rfl, rfl, rfl, rfl, (congrArg CoreSt.r hme :)⟩
  · have hme := issueFree_me (newCop (.lpoll (ea.setWidth 32)) d 0 .glob 0 0 0 false false 3 none) s
    refine ⟨_, _, guarded_true _ hg, (congrArg CoreSt.loads hme :), rfl, rfl, rfl, (congrArg CoreSt.r hme :)⟩

end Sys2Proof.Machine
end

section
/-! O30: clock divisors, software traps, energy accounts. -/

namespace Sys2Proof.Machine

/-! Writes of lines and of trace records touch storage and islands alone. -/

/-- t is s but for storage, the islands and what is due. -/
def State.Beside (s t : State) : Prop :=
  t.core = s.core ∧ t.dev = s.dev ∧ t.cur = s.cur ∧ t.bun = s.bun ∧ t.tick = s.tick ∧ t.free = s.free ∧ t.arg = s.arg

theorem State.Beside.refl (s : State) : s.Beside s := ⟨rfl, rfl, rfl, rfl, rfl, rfl, rfl⟩

theorem State.Beside.trans {s t u : State} (h : s.Beside t) (h' : t.Beside u) : s.Beside u := by
  obtain ⟨h1, h2, h3, h4, h5, h6, h7⟩ := h
  obtain ⟨k1, k2, k3, k4, k5, k6, k7⟩ := h'
  exact ⟨k1.trans h1, k2.trans h2, k3.trans h3, k4.trans h4, k5.trans h5, k6.trans h6, k7.trans h7⟩

theorem State.Beside.modI (s : State) (y : Isl) (f : IslandSt → IslandSt) : s.Beside (s.modI y f) := ⟨rfl, rfl, rfl, rfl, rfl, rfl, rfl⟩

theorem State.Beside.foldl {α : Type} {f : State → α → State} (hf : ∀ (s : State) a, s.Beside (f s a)) (l : List α) (s : State) :
    s.Beside (l.foldl f s) := by
  induction l generalizing s with
  | nil => exact .refl s
  | cons a l ih => exact (hf s a).trans (ih (f s a))

theorem beside_cohWr (s : State) (pa n v : Nat) : s.Beside (cohWr s pa n v) := by
  unfold cohWr
  exact State.Beside.trans ⟨rfl, rfl, rfl, rfl, rfl, rfl, rfl⟩ (.foldl (fun s y => .modI s y _) islIds _)

theorem beside_putWords (l : List W64) (pa : Nat) (s : State) : s.Beside (putWords pa l s) := by
  induction l generalizing pa s with
  | nil => exact .refl s
  | cons w l ih => exact (beside_cohWr s pa 8 w.toNat).trans (ih (pa + 8) _)

theorem beside_trace (c : CoreId) (kind : Nat) (badr payload : W64) (s : State) : s.Beside (trace c kind badr payload s) := by
  unfold trace
  dsimp only
  split
  · exact .refl s
  · split
    · exact .modI ..
    · exact (beside_putWords ..).trans (.modI ..)

theorem beside_traceEv (c : CoreId) (kind : Nat) (badr payload : W64) (s : State) : s.Beside (traceEv c kind badr payload s) := by
  unfold traceEv
  split
  · exact beside_trace ..
  · exact .refl s

theorem beside_govern (c : CoreId) (f : IslandSt → IslandSt) (s : State) : s.Beside (govern c f s) := by
  unfold govern
  split
  · exact .refl s
  · exact .modI ..

/-! A core that stops after its bundle (R238, R239). -/

/-- A mark for sampling changes the marks of the core alone. -/
theorem markSample_spec (c : CoreId) (adr : W64) (undone : Bool) (k : CoreSt) (s : State) :
    (∃ l, (markSample c adr undone k s).core.get c = { s.core.get c with samples := l }) ∧ (markSample c adr undone k s).cur = s.cur ∧
    (markSample c adr undone k s).bun = s.bun := by
  unfold markSample
  dsimp only
  split
  · exact ⟨⟨_, rfl⟩, rfl, rfl⟩
  · split
    · exact ⟨⟨_, rfl⟩, rfl, rfl⟩
    · exact ⟨⟨_, State.modC_get s.pick.2 c _⟩, rfl, rfl⟩

/-- A core whose bundle ends with a stop (R358). -/
theorem stopAfter_core {s : State} {cause : Byte} {fadr : W64} (h : s.bun.stop = some (cause, fadr)) :
    (stopAfter s.cur s).core.get s.cur = { s.me with
      run := .stopped cause, rec_ := some (mkRec s 1 0 cause fadr (if cause = 0x21 then s.me.r.phase.setWidth 64 else 0) 0) } := by
  obtain ⟨hcore, -⟩ := beside_traceEv s.cur 0x04 s.bun.adr fadr (s.modC s.cur fun k =>
    { k with run := .stopped cause, rec_ := some (mkRec s 1 0 cause fadr (if cause = 0x21 then s.me.r.phase.setWidth 64 else 0) 0) })
  unfold stopAfter
  rw [h]
  dsimp only
  rw [hcore]
  exact State.modC_get s s.cur _

/-- A bundle's end leaves the loop position and the address alone to change. -/
theorem Regs.step_pc (r : Regs) (b : Bundle) : (r.step b).pc = b.target.getD b.nxt ∧ (r.step b).phase = r.phase := by
  unfold Regs.step
  dsimp only
  split
  · exact ⟨rfl, rfl⟩
  · split
    · exact ⟨rfl, rfl⟩
    · split <;> exact ⟨rfl, rfl⟩

theorem nows_core (l : List (Instr × Arg)) (s : State) : (l.foldr (fun e s => s.now e.1 e.2) s).core = s.core := by
  induction l with
  | nil => rfl
  | cons e l ih => exact ih

theorem has_nows {d : Due} (l : List (Instr × Arg)) {s : State} (h : s.has d = true) :
    (l.foldr (fun e s => s.now e.1 e.2) s).has d = true := by
  induction l with
  | nil => exact h
  | cons e l ih =>
    rw [has_iff] at ih ⊢
    obtain ⟨x, hx, hd⟩ := ih
    exact ⟨x, List.mem_cons_of_mem _ hx, hd⟩

/-- The core whose bundle has issued, before what its bundle's stop does. -/
def CoreSt.issued (b : Bundle) (promoted : Bool) (k : CoreSt) : CoreSt :=
  let k1 := { k with
    r := k.r.step b
    gap := if b.target.isSome then 2 else 0
    seq := k.seq + 1, forced := false, heldFor := 0, heldBy := 0, bufFull := false, fetchFor := 0, waitBy := 0
    stepArm := if k.stepArm = 1 then 2 else k.stepArm }.count 0 1
  if promoted then k1.count 11 1 else k1

/-- What an issue leaves of its core. -/
theorem CoreSt.issued_fields (b : Bundle) (promoted : Bool) (k : CoreSt) :
    (k.issued b promoted).r = k.r.step b ∧ (k.issued b promoted).pend = k.pend ∧ (k.issued b promoted).loads = k.loads ∧
    (k.issued b promoted).wst = k.wst ∧ (k.issued b promoted).ctx = k.ctx ∧ (k.issued b promoted).cyc = k.cyc := by
  unfold CoreSt.issued
  cases promoted <;> exact ⟨rfl, rfl, rfl, rfl, rfl, rfl⟩

/-- The core after an issued bundle that stops it (R238, R239). -/
theorem finishIssue_stop {s : State} {cause : Byte} {fadr : W64} (f : Fetched) (cp p : Bool) (h : s.bun.stop = some (cause, fadr)) :
    let t := finishIssue s.cur f cp p s
    (∃ (k : CoreSt) (u : State), u.bun = s.bun ∧ u.cur = s.cur ∧ u.me = k ∧ (∃ l, k = { s.me with samples := l }.issued s.bun p) ∧
      t.core.get s.cur = { k with
        run := .stopped cause, rec_ := some (mkRec u 1 0 cause fadr (if cause = 0x21 then k.r.phase.setWidth 64 else 0) 0)
        cyc := k.cyc + 1, since := k.since + 1 }) ∧
    t.has (.edge s.cur) = true := by
  intro t
  let s0 := if traceOn s s.cur 8 then trace s.cur 0x01 f.adr (issuePayload f s.me.heldFor) s else s
  obtain ⟨hcore0, -, hcur0, hbun0, -⟩ : s.Beside s0 := by
    unfold s0
    split
    · exact beside_trace ..
    · exact .refl s
  obtain ⟨⟨l, hmark⟩, hcurm, hbunm⟩ := markSample_spec s.cur f.adr false s.me s0
  let v := markSample s.cur f.adr false s.me s0
  let u := v.modC s.cur (CoreSt.issued s.bun p)
  have hubun : u.bun = s.bun := hbunm.trans hbun0
  have hucur : u.cur = s.cur := hcurm.trans hcur0
  have hume : u.me = { s.me with samples := l }.issued s.bun p := by
    have hget : u.core.get s.cur = (v.core.get s.cur).issued s.bun p := State.modC_get v s.cur _
    rw [State.me, hucur, hget, hmark, hcore0, State.me]
  have hstop := stopAfter_core (s := u) (hubun ▸ h)
  rw [hucur] at hstop
  let w := nextCycle s.cur (stopAfter s.cur u)
  have hw : w.core.get s.cur = { (stopAfter s.cur u).core.get s.cur with
      cyc := ((stopAfter s.cur u).core.get s.cur).cyc + 1, since := ((stopAfter s.cur u).core.get s.cur).since + 1 } :=
    State.modC_get (stopAfter s.cur u) s.cur fun k => { k with cyc := k.cyc + 1, since := k.since + 1 }
  have ht : t = (followUps s.cur f cp).foldr (fun e s => s.now e.1 e.2) (govern s.cur (fun i => { i with govI := i.govI + 1 }) w) := rfl
  refine ⟨⟨_, u, hubun, hucur, rfl, ⟨l, hume⟩, ?_⟩, ?_⟩
  · rw [ht, nows_core, govern_core, hw, hstop]
  · rw [ht]
    refine has_nows _ ?_
    have hedge : w.has (.edge s.cur) = true := has_at _ _ _
    unfold govern
    split <;> exact hedge

/-- A stopped core whose deliveries have all landed posts its record, with the next bundle as the resume address (R358, R391). -/
theorem postStop_posts {s : State} {c : CoreId} {r : Rec} (hr : (s.core.get c).rec_ = some r) (hk : r.kind = 1)
    (hp : (s.core.get c).pend = []) (hl : (s.core.get c).loads = []) (hh : ∀ o ∈ s.dev.hops, o.core ≠ c) :
    postStop c s = sendRec (islOf c) { r with res := (s.core.get c).advance.r.pc } (s.modC c fun k => { k with rec_ := none }) := by
  have hops : (s.dev.hops.any fun o => o.core == c && o.slot.isNone && o.status == 0 && !o.gone) = false := by
    rw [List.any_eq_false]
    intro o ho hf
    have hne : (o.core == c) = false := beq_eq_false_iff_ne.2 (hh o ho)
    rw [hne] at hf
    exact absurd hf Bool.false_ne_true
  unfold postStop
  dsimp only
  rw [hr]
  dsimp only
  rw [hp, hl, hops, CoreSt.recOf, if_pos hk]
  rfl

theorem sendRec_waiting (y : Isl) (r : Rec) (s : State) : ((sendRec y r s).isl.get y).waiting = (s.isl.get y).waiting ++ [r] := by
  have hisl := State.modI_get s y fun i => { i with waiting := i.waiting ++ [r] }
  exact congrArg IslandSt.waiting hisl

/-! Energy accounts (R240). -/

/-- What a charge adds, and what it leaves. -/
theorem chargeCtx_spec (cx : BitVec 7) (s : State) :
    let t := chargeCtx cx s
    (∃ n : Nat, n < 2 ^ 32 ∧ (t.ctxOf cx).energy = (s.ctxOf cx).energy + BitVec.ofNat 64 n) ∧
    (t.ctxOf cx).filler = (s.ctxOf cx).filler ∧ t.dev.overhead = s.dev.overhead ∧ t.dev.reserve = s.dev.reserve ∧ SameIssue s t ∧
    t.me = s.me ∧ t.mem = s.mem := by
  have hget : (chargeCtx cx s).ctxOf cx = { s.ctxOf cx with
      energy := (s.ctxOf cx).energy + BitVec.ofNat 64 (Config.freeNat s.free % 2 ^ 32) } := by
    unfold State.ctxOf chargeCtx
    exact Vector.getElem_set_self _
  refine ⟨⟨_, Nat.mod_lt (Config.freeNat s.free) (by decide), ?_⟩, ?_, rfl, rfl, ⟨rfl, rfl, rfl, rfl⟩, rfl, rfl⟩ <;> rw [hget]

section
variable {g : Guard} {s : State} (hg : guardOk g s = true)
include hg

theorem execEjrd_next (d : BitVec 6) (sel : BitVec 2) : execEjrd g d sel s =
    .next (toS 4 d (match sel.toNat with
      | 0 => ((chargeCtx s.me.ctx s).ctxOf s.me.ctx).energy
      | 1 => ((chargeCtx s.me.ctx s).ctxOf s.me.ctx).filler
      | 2 => (chargeCtx s.me.ctx s).dev.overhead
      | _ => (chargeCtx s.me.ctx s).dev.reserve) (chargeCtx s.me.ctx s)) := by
  rw [execEjrd, guarded_true _ hg] <;> rfl

theorem execMfsp_energy (d : BitVec 6) : execMfsp g d 0x0E s =
    .next (toS 1 d ((chargeCtx s.me.ctx s).ctxOf s.me.ctx).energy
      { chargeCtx s.me.ctx s with free := (chargeCtx s.me.ctx s).free + 1 }) := by
  obtain ⟨-, -, -, -, -, hme, -⟩ := chargeCtx_spec s.me.ctx s
  have hread : sprRead (chargeCtx s.me.ctx s) 0x0E = some ((chargeCtx s.me.ctx s).ctxOf s.me.ctx).energy :=
    congrArg (fun k : CoreSt => some ((chargeCtx s.me.ctx s).ctxOf k.ctx).energy) hme
  rw [execMfsp, guardedIf, if_pos (by decide), guarded_true _ hg]
  dsimp only
  rw [if_pos rfl, hread]

omit hg in
/-- The divisors that a clkdiv leaves requested (R228). -/
theorem requestDiv_legal {mask : BitVec 4} {v : Nat} (h1 : 3 ≤ v) (h2 : v ≤ 16) :
    requestDiv mask v s = s.modMe fun k => { k with r := { k.r with req := k.r.req.put mask v } } :=
  if_neg fun h => h.elim (by omega) (by omega)

omit hg in
theorem Divs.get_put (r : Divs) (mask : BitVec 4) (v : Nat) (x : Dom) :
    (r.put mask v).get x = if mask.getLsbD (match x with | .ctl => 0 | .vec => 1 | .mtx => 2 | .cpy => 3) then v else r.get x := by
  cases x <;> rfl

omit hg in
theorem requestDiv_sets {mask : BitVec 4} {v : Nat} (h1 : 3 ≤ v) (h2 : v ≤ 16) :
    let t := requestDiv mask v s
    (∀ x : Dom, t.me.r.req.get x = if mask.getLsbD (match x with | .ctl => 0 | .vec => 1 | .mtx => 2 | .cpy => 3) then v
      else s.me.r.req.get x) ∧ t.me.div = s.me.div ∧ t.me.pend = s.me.pend ∧ t.mem = s.mem ∧ t.me.r.s = s.me.r.s := by
  intro t
  have hme := State.modMe_me s fun k => { k with r := { k.r with req := k.r.req.put mask v } }
  have ht : t = s.modMe fun k => { k with r := { k.r with req := k.r.req.put mask v } } := requestDiv_legal h1 h2
  rw [ht, hme]
  exact ⟨Divs.get_put s.me.r.req mask v, rfl, rfl, rfl, rfl⟩

end

theorem execBrk_next {g : Guard} {n : BitVec 16} {s : State} (hg : guardOk g s = true) : execBrk g n s =
    .next (if s.me.dbgEn then { s with bun := { s.bun with stop := some (0x21, n.setWidth 64) } } else s.modMe fun k => k.count 25 1) := by
  rw [execBrk, guarded_true _ hg]

theorem execTrap_next {g : Guard} {n : BitVec 16} {s : State} (hg : guardOk g s = true) :
    execTrap g n s = .next { s with bun := { s.bun with stop := some (0x20, n.setWidth 64) } } := by
  rw [execTrap, guarded_true _ hg]

theorem divLegal_iff (dv : BitVec 5) : divLegal dv = true ↔ 3 ≤ dv.toNat ∧ dv.toNat ≤ 16 := by
  rw [divLegal, Bool.and_eq_true, decide_eq_true_iff, decide_eq_true_iff]

theorem execClkdiv_legal {g : Guard} {mask : BitVec 4} {dv : BitVec 5} {s : State} (hg : guardOk g s = true) (h1 : 3 ≤ dv.toNat)
    (h2 : dv.toNat ≤ 16) : execClkdiv g mask dv s = .next (requestDiv mask dv.toNat s) := by
  rw [execClkdiv, guardedIf, if_pos ((divLegal_iff dv).2 ⟨h1, h2⟩), guarded_true _ hg]

theorem execClkdiv_illegal {g : Guard} {mask : BitVec 4} {dv : BitVec 5} {s : State} (h : dv.toNat < 3 ∨ 16 < dv.toNat) :
    execClkdiv g mask dv s = .next (illegal 0xC5 s) := by
  have hd : ¬ divLegal dv = true := fun hd => by
    obtain ⟨h1, h2⟩ := (divLegal_iff dv).1 hd
    omega
  rw [execClkdiv, guardedIf, if_neg hd]

theorem execClkdivReg_next {g : Guard} {a : BitVec 6} {mask : BitVec 4} {s : State} (hg : guardOk g s = true) :
    execClkdivReg g a mask s = .next (requestDiv mask ((s.me.r.getS a).extractLsb' 0 5).toNat s) := by
  have hlow (v : W64) : v.setWidth 5 = v.extractLsb' 0 5 := by
    ext i hi
    simp [BitVec.getElem_setWidth, hi]
  rw [execClkdivReg, guarded_true _ hg, ← hlow]

/-- Settles O30: the stop of a bundle through the issue's end, and an account by what one charge adds. -/
theorem clocksTrapsAndEnergy : Obligations.ClocksTrapsAndEnergy := by
  unfold Obligations.ClocksTrapsAndEnergy
  refine ⟨?_, ?_, ?_, ?_, ?_⟩
  · intro g a mask dv s hg v sets
    refine ⟨fun h1 h2 => ⟨_, execClkdiv_legal hg h1 h2, requestDiv_sets h1 h2⟩,
      fun h1 h2 => ⟨_, execClkdivReg_next hg, requestDiv_sets h1 h2⟩, fun h => execClkdiv_illegal h, fun h => ?_⟩
    exact (execClkdivReg_next hg).trans (congrArg _ (if_pos h))
  · intro g n s hg
    refine ⟨execTrap_next hg, fun h => (execBrk_next hg).trans (congrArg _ (if_pos h)), fun h => ?_⟩
    refine ⟨s.modMe fun k => k.count 25 1, (execBrk_next hg).trans (congrArg _ (if_neg (by rw [h]; decide))), rfl, ?_⟩
    have hme := State.modMe_me s fun k => k.count 25 1
    rw [hme]
    exact ⟨rfl, rfl, rfl, tget_tmod_self 0 s.me.tele 25 fun v => (v + 1) % 2 ^ 64⟩
  · intro s f cp p cause fadr h c t
    obtain ⟨⟨k, u, hbun, hcur, hume, ⟨l, hk⟩, hcore⟩, hedge⟩ := finishIssue_stop f cp p h
    obtain ⟨hr, hpend, hloads, hwst, hctx, hcyc⟩ := CoreSt.issued_fields s.bun p { s.me with samples := l }
    obtain ⟨hpc, hphase⟩ := Regs.step_pc s.me.r s.bun
    rw [← hk] at hr hpend hloads hwst hctx hcyc
    refine ⟨by rw [hcore], by rw [hcore]; exact (congrArg Regs.pc hr).trans hpc, by rw [hcore]; exact hpend, by rw [hcore]; exact hloads,
      by rw [hcore]; exact hwst, hedge, mkRec u 1 0 cause fadr (if cause = 0x21 then k.r.phase.setWidth 64 else 0) 0, by rw [hcore], rfl,
      rfl, rfl, congrArg Bundle.adr hbun, rfl, ?_, ?_, congrArg coreField hcur, ?_⟩
    · show (if cause = 0x21 then k.r.phase.setWidth 64 else 0) = _
      rw [hr, hphase]
    · exact (congrArg CoreSt.ctx hume).trans hctx
    · exact (congrArg (fun k : CoreSt => BitVec.ofNat 64 k.cyc) hume).trans (congrArg _ hcyc)
  · intro s c r hr hk hp hl hh t
    have ht : t = _ := postStop_posts hr hk hp hl hh
    rw [ht]
    exact ⟨congrArg CoreSt.rec_ (State.modC_get s c fun k => { k with rec_ := none }), sendRec_waiting ..⟩
  · intro g d s hg
    obtain ⟨⟨n, hn, hen⟩, hfil, hover, hres, hissue, hme, hmem⟩ := chargeCtx_spec s.me.ctx s
    refine ⟨⟨_, n, _, hn, execEjrd_next hg d 0, hen, (hissue.deliver 4 _).1, rfl, hmem, ?_⟩,
      ⟨_, n, _, hn, execMfsp_energy hg d, hen, (hissue.deliver 1 _).1, hmem, ?_⟩, fun sel hsel => ⟨_, execEjrd_next hg d sel, hmem, ?_, ?_⟩⟩
    · rw [toS, deliver_r, hme]
    · have hme' : State.me { chargeCtx s.me.ctx s with free := (chargeCtx s.me.ctx s).free + 1 } = s.me := hme
      rw [toS, deliver_r, hme']
    · rw [toS, deliver_r, hme]
    · have hcases : sel = 1 ∨ sel = 2 ∨ sel = 3 := by
        revert hsel
        revert sel
        decide
      rcases hcases with rfl | rfl | rfl
      · exact hfil ▸ (hissue.deliver 4 (.s d ((chargeCtx s.me.ctx s).ctxOf s.me.ctx).filler)).1
      · exact hover ▸ (hissue.deliver 4 (.s d (chargeCtx s.me.ctx s).dev.overhead)).1
      · exact hres ▸ (hissue.deliver 4 (.s d (chargeCtx s.me.ctx s).dev.reserve)).1

end Sys2Proof.Machine
end

section
/-! O31: privileged instructions and registers. -/

namespace Sys2Proof.Machine

/-! Which registers are listed (R241) depends on their index alone. -/

theorem prRead_listed (s t : State) (y z : Isl) (n : Nat) : (prRead s y n).isSome = (prRead t z n).isSome := by
  unfold prRead
  dsimp only
  simp only [apply_ite Option.isSome, Option.isSome_some]
  repeat' refine ite_congr rfl (fun _ => rfl) fun _ => ?_
  split <;> simp only [Option.isSome_some, Option.isSome_none]

theorem prWrite_listed (y z : Isl) (n : Nat) (v w : W64) : (prWrite y n v).isSome = (prWrite z n w).isSome := by
  unfold prWrite
  dsimp only
  simp only [apply_ite Option.isSome, Option.isSome_some]
  refine ite_congr rfl (fun _ => ?_) fun _ => ite_congr rfl (fun _ => rfl) fun _ => ite_congr rfl (fun _ => ?_) fun _ =>
    ite_congr rfl (fun _ => rfl) fun _ => ite_congr rfl (fun _ => rfl) fun _ => ?_
  · split <;> rfl
  · split <;> rfl
  · split <;> simp only [Option.isSome_some, Option.isSome_none]

/-- Only the register of operating points asks for an operating point (R372). -/
theorem prWrite_no_opm {y : Isl} {n : Nat} {v : W64} {l : List (Instr × Arg)} (hn : n ≠ 0x1800) (h : prWrite y n v = some l) :
    ∀ e ∈ l, e.1 ≠ .opmWrite := by
  have hbits (i : Instr) (hi : i ≠ .opmWrite) (ks : List Nat) (f : Nat → Arg) : ∀ e ∈ ks.map fun k => (i, f k), e.1 ≠ .opmWrite := by
    intro e he
    obtain ⟨k, -, rfl⟩ := List.mem_map.1 he
    exact hi
  unfold prWrite at h
  dsimp only at h
  repeat' split at h
  case h_9 => exact absurd rfl hn
  case h_19 | h_20 | h_21 | h_22 =>
    obtain rfl := Option.some.inj h
    refine hbits _ ?_ _ _
    simp
  all_goals cases h <;> simp

/-- Steps other than a request for an operating point follow at once, in their order. -/
theorem regSteps_now (l : List (Instr × Arg)) (h : ∀ e ∈ l, e.1 ≠ .opmWrite) (s : State) :
    l.foldr regStep s = { s with agenda := l.map (fun e => ⟨s.tick, 0, .ev e.1 e.2⟩) ++ s.agenda } := by
  induction l with
  | nil => rfl
  | cons e l ih =>
    rw [List.foldr_cons, ih fun x hx => h x (List.mem_cons_of_mem _ hx), regStep, if_neg (h e List.mem_cons_self)]
    rfl

/-! Privileged instructions. -/

section
variable {op : Nat} {g : Guard} {s : State} {f : State → State} {ok : Bool}

theorem privileged_refused (h : isMgmt s.cur = false) : privileged op g s f = .next (illegal op s) := by
  rw [privileged, h, if_neg Bool.false_ne_true]

theorem privilegedIf_refused (h : isMgmt s.cur = false ∨ ok = false) : privilegedIf ok op g s f = .next (illegal op s) := by
  rw [privilegedIf, Bool.and_eq_false_iff.2 h, if_neg Bool.false_ne_true]

variable (h : isMgmt s.cur = true) (hg : guardOk g s = true)
include h hg

theorem privileged_runs : privileged op g s f = .next (f s) := by
  rw [privileged, h, if_pos rfl, guarded_true _ hg]

theorem privilegedIf_runs (hok : ok = true) : privilegedIf ok op g s f = .next (f s) := by
  rw [privilegedIf, h, hok, Bool.true_and, if_pos rfl, guarded_true _ hg]

theorem execMfpr_reads {d : BitVec 6} {n : BitVec 16} {x : W64} (hx : prRead s (islOf s.cur) n.toNat = some x) :
    execMfpr g d n s = .next (toS 2 d x { s with free := s.free + 1 }) := by
  have hlisted : (prRead s 0 n.toNat).isSome = true := by
    rw [prRead_listed s s 0 (islOf s.cur), hx]
    rfl
  rw [execMfpr, privilegedIf_runs h hg hlisted, hx]

theorem execMtpr_writes {a : BitVec 6} {n : BitVec 16} {l : List (Instr × Arg)}
    (hl : prWrite (islOf s.cur) n.toNat (s.me.r.getS a) = some l) : execMtpr g a n s = .next (l.foldr regStep s) := by
  have hlisted : (prWrite 0 n.toNat 0).isSome = true := by
    rw [prWrite_listed 0 (islOf s.cur) n.toNat 0 (s.me.r.getS a), hl]
    rfl
  rw [execMtpr, privilegedIf_runs h hg hlisted, hl]

end

theorem execMfpr_unlisted {g : Guard} {d : BitVec 6} {n : BitVec 16} {s : State} (hx : prRead s (islOf s.cur) n.toNat = none) :
    execMfpr g d n s = .next (illegal 0xD0 s) := by
  refine privilegedIf_refused (.inr ?_)
  rw [prRead_listed s s 0 (islOf s.cur), hx]
  rfl

theorem execMtpr_unlisted {g : Guard} {a : BitVec 6} {n : BitVec 16} {s : State}
    (hl : prWrite (islOf s.cur) n.toNat (s.me.r.getS a) = none) : execMtpr g a n s = .next (illegal 0xD1 s) := by
  refine privilegedIf_refused (.inr ?_)
  rw [prWrite_listed 0 (islOf s.cur) n.toNat 0 (s.me.r.getS a), hl]
  rfl

/-- Settles O31: by whether the core is a management core, and by the index of the register. -/
theorem privilege : Obligations.Privilege := by
  unfold Obligations.Privilege
  refine ⟨?_, ?_, ?_, ?_⟩
  · intro g d a b n z m s h
    exact ⟨privilegedIf_refused (.inl h), privilegedIf_refused (.inl h), privileged_refused h, privileged_refused h, privileged_refused h,
      privileged_refused h, privileged_refused h, privileged_refused h⟩
  · intro g d a n s h hg y v
    refine ⟨fun x hx => execMfpr_reads h hg hx, fun hn => ?_, fun l hn hl => ?_⟩
    · subst hn
      exact execMtpr_writes h hg (l := [(.opmWrite, { argY y with k := 2, v := v })]) rfl
    · have hn' : n.toNat ≠ 0x1800 := fun hz => hn (BitVec.eq_of_toNat_eq hz)
      refine ⟨_, execMtpr_writes h hg hl, ?_⟩
      rw [regSteps_now l (prWrite_no_opm hn' hl) s]
      exact ⟨rfl, rfl, rfl, rfl, rfl⟩
  · intro g d a n s _
    exact ⟨execMfpr_unlisted, execMtpr_unlisted⟩
  · intro s y v
    exact ⟨rfl, rfl, rfl, rfl, rfl, rfl, rfl, rfl⟩

end Sys2Proof.Machine
end

section
/-! O32: eret, wfe, hsw, xlinv, purge and stest. -/

namespace Sys2Proof.Machine

/-! A change of every core, each by itself. -/

theorem mem_coreIds (c : CoreId) : c ∈ coreIds := List.mem_ofFn.2 ⟨c, rfl⟩

theorem coreIds_nodup : coreIds.Nodup := List.nodup_ofFn.2 Function.injective_id

theorem foldl_modC_get (f : CoreId → CoreSt → CoreSt) (l : List CoreId) (hl : l.Nodup) (s : State) (d : CoreId) :
    (l.foldl (fun s c => s.modC c (f c)) s).core.get d = if d ∈ l then f d (s.core.get d) else s.core.get d := by
  induction l generalizing s with
  | nil => rfl
  | cons c l ih =>
    obtain ⟨hc, hl⟩ := List.nodup_cons.1 hl
    rw [List.foldl_cons, ih hl, State.modC_get_if]
    by_cases hd : d = c
    · subst hd
      simp [hc]
    · simp [hd]

theorem modC_coreIds_get (f : CoreId → CoreSt → CoreSt) (s : State) (c : CoreId) :
    (coreIds.foldl (fun s c => s.modC c (f c)) s).core.get c = f c (s.core.get c) := by
  rw [foldl_modC_get f coreIds coreIds_nodup, if_pos (mem_coreIds c)]

/-- A change of cores alone leaves the rest of the machine. -/
theorem foldl_modC_frame (f : CoreId → CoreSt → CoreSt) (l : List CoreId) (s : State) :
    let t := l.foldl (fun s c => s.modC c (f c)) s
    t.mem = s.mem ∧ t.cur = s.cur ∧ t.bun = s.bun ∧ t.dev = s.dev ∧ t.isl = s.isl ∧ t.tick = s.tick ∧ t.agenda = s.agenda := by
  induction l generalizing s with
  | nil => exact ⟨rfl, rfl, rfl, rfl, rfl, rfl, rfl⟩
  | cons c l ih => exact ih (s.modC c (f c))

/-- A change of islands alone. -/
theorem foldl_modI_frame (f : Isl → IslandSt → IslandSt) (l : List Isl) (s : State) :
    let t := l.foldl (fun s y => s.modI y (f y)) s
    t.mem = s.mem ∧ t.core = s.core ∧ t.cur = s.cur ∧ t.bun = s.bun ∧ t.dev = s.dev ∧ t.tick = s.tick ∧ t.agenda = s.agenda := by
  induction l generalizing s with
  | nil => exact ⟨rfl, rfl, rfl, rfl, rfl, rfl, rfl⟩
  | cons y l ih => exact ih (s.modI y (f y))

/-! Invalidation (R340). -/

/-- What an invalidated range leaves of a core's translations. -/
theorem cutXlat_spec {cx : BitVec 7} {lo hi : Nat} {l : List Xlat} {e : Xlat} (h : e ∈ cutXlat cx lo hi l) (he : e.cx = cx) :
    meets e.va e.size lo hi = false := by
  have hkeep := (List.mem_filter.1 h).2
  rwa [he, beq_self_eq_true, Bool.true_and, Bool.not_eq_true'] at hkeep

theorem dropRange_spec (cx : BitVec 7) (lo hi : Nat) (s : State) :
    let t := dropRange cx lo hi s
    (∀ c, (t.core.get c).tlb = cutXlat cx lo hi (s.core.get c).tlb) ∧ t.cur = s.cur ∧ t.bun = s.bun ∧ t.mem = s.mem := by
  intro t
  obtain ⟨hmem, hcore, hcur, hbun, -⟩ := foldl_modI_frame (fun _ i => { i with wc := i.wc.filter fun e =>
    !(e.cx == cx && meets (e.path <<< lvlShift e.lvl) (2 ^ lvlShift e.lvl) lo hi) }) islIds s
  unfold t dropRange
  dsimp only
  refine ⟨fun c => ?_, ?_, ?_, ?_⟩
  · rw [modC_coreIds_get (fun c k => _)]
    split <;> exact congrArg (fun v : Vector CoreSt 132 => cutXlat cx lo hi (v.get c).tlb) hcore
  · rw [(foldl_modC_frame (fun c k => _) coreIds _).2.1]
    exact hcur
  · rw [(foldl_modC_frame (fun c k => _) coreIds _).2.2.1]
    exact hbun
  · rw [(foldl_modC_frame (fun c k => _) coreIds _).1]
    exact hmem

/-! Privileged instructions of a management core. -/

/-- The core that an eret or hsw of s names. -/
def namedCore (s : State) (a : BitVec 6) : CoreId := coreNo ((islOf s.cur).val * 32 + (s.me.r.getS a).toNat % 32)

theorem localCore_eq (s : State) (a : BitVec 6) : localCore s ((s.me.r.getS a).setWidth 5) = namedCore s a := by
  rw [localCore, BitVec.toNat_setWidth, namedCore]

section
variable {g : Guard} {d a b : BitVec 6} {z : BitVec 3} {s : State} (h : isMgmt s.cur = true) (hg : guardOk g s = true)
include h hg

theorem execWfe_next : execWfe g d s = .next (toS 1 d ((s.isl.get (islOf s.cur)).rqh.setWidth 64) s) := by
  rw [execWfe, privileged_runs h hg]

theorem execHsw_next : execHsw g a b s = .next (
    let v : BitVec 2 := (s.me.r.getS b).setWidth 2
    if v = 3 then illegal 0xD7 s
    else if (s.core.get (namedCore s a)).run = .unbound ∨ (s.core.get (namedCore s a)).run = .dark then misdirected s
    else s.modC (namedCore s a) fun k => { k with granted := v }) := by
  rw [execHsw, privileged_runs h hg]
  dsimp only
  rw [localCore_eq]

/-- eret of a core that is neither trapped nor stopped (R360). -/
theorem execEret_misdirected (m : Bool)
    (hk : ∀ x, (s.core.get (namedCore s a)).run ≠ .trapped x ∧ (s.core.get (namedCore s a)).run ≠ .stopped x) :
    execEret g a m s = .next (misdirected s) := by
  rw [execEret, privileged_runs h hg]
  dsimp only
  rw [localCore_eq]
  cases hrun : (s.core.get (namedCore s a)).run with
  | trapped x => exact absurd hrun (hk x).1
  | stopped x => exact absurd hrun (hk x).2
  | _ => rfl

/-- eret mode 1 of a trapped or stopped core (R360). -/
theorem execEret_discards {x : Byte}
    (hk : (s.core.get (namedCore s a)).run = .trapped x ∨ (s.core.get (namedCore s a)).run = .stopped x) :
    execEret g a true s = .next (purgeCore (namedCore s a) (flushRec (namedCore s a) s)) := by
  rw [execEret, privileged_runs h hg]
  dsimp only
  rw [localCore_eq]
  rcases hk with hk | hk <;> rw [hk] <;> exact congrArg _ (if_pos rfl)

/-- eret mode 0 of such a core. -/
theorem execEret_resumes {x : Byte}
    (hk : (s.core.get (namedCore s a)).run = .trapped x ∨ (s.core.get (namedCore s a)).run = .stopped x) :
    execEret g a false s = .next (
      if x = 0x15 ∨ x = 0x34 ∨ (s.core.get (namedCore s a)).tok.toList.any (fun t => t.pending && t.purged) then misdirected s
      else resumePosted (namedCore s a) s) := by
  rw [execEret, privileged_runs h hg]
  dsimp only
  rw [localCore_eq]
  rcases hk with hk | hk <;> rw [hk] <;> exact congrArg _ (if_neg Bool.false_ne_true)

end

/-- A record that waited for deliveries is on its way, and nothing else of its core has changed. -/
theorem flushRec_spec (c : CoreId) (s : State) :
    (flushRec c s).core.get c = { s.core.get c with rec_ := none } ∧ (flushRec c s).mem = s.mem := by
  unfold flushRec
  split
  next r hr => exact ⟨State.modC_get s c fun k => { k with rec_ := none }, rfl⟩
  next hr => exact ⟨by rw [← hr], rfl⟩

theorem resume_rec (c : CoreId) (s : State) : ((resume c s).core.get c).rec_ = none := by
  unfold resume startEdges
  split <;> exact congrArg CoreSt.rec_ (State.modC_get s c fun k => { k with
    run := .running, rec_ := none, gap := 0, wait := 0, resumeDue := false, stepArm := k.dbgStep.toNat })

/-- A core that may go on does so, or waits until its record has a slot of the queue (R357, R360). -/
theorem resumePosted_spec (c : CoreId) (s : State) :
    let t := resumePosted c s
    let waits := ((flushRec c s).isl.get (islOf c)).waiting.any fun r => r.kind != 0 && r.core == coreField c
    (t.core.get c).r = (s.core.get c).r ∧ (t.core.get c).rec_ = none ∧ t.mem = s.mem ∧
    (waits = false → (t.core.get c).run = .running ∧ t.has (.edge c) = true) ∧
    (waits = true → (t.core.get c).run = (s.core.get c).run ∧ (t.core.get c).resumeDue = true) := by
  intro t waits
  obtain ⟨hflush, hmem⟩ := flushRec_spec c s
  have ht : t = if waits then (flushRec c s).modC c fun k => { k with resumeDue := true } else resume c (flushRec c s) := rfl
  cases hw : waits with
  | true =>
    have ht : t = (flushRec c s).modC c fun k => { k with resumeDue := true } := by rw [ht, if_pos hw]
    have hget : t.core.get c = { (flushRec c s).core.get c with resumeDue := true } := by
      rw [ht]
      exact State.modC_get (flushRec c s) c fun k => { k with resumeDue := true }
    rw [hget, hflush]
    exact ⟨rfl, rfl, by rw [ht]; exact hmem, (nomatch ·), fun _ => ⟨rfl, rfl⟩⟩
  | false =>
    have ht : t = resume c (flushRec c s) := by rw [ht, if_neg (by rw [hw]; decide)]
    obtain ⟨hrun, hr, hedge, hm⟩ := resume_spec c (flushRec c s)
    rw [hflush] at hr
    rw [ht]
    exact ⟨hr, resume_rec .., hm.trans hmem, fun _ => ⟨hrun, hedge⟩, (nomatch ·)⟩

section
variable {g : Guard} {d a b : BitVec 6} {z : BitVec 3} {s : State} (h : isMgmt s.cur = true) (hg : guardOk g s = true)
include h hg

theorem execXlinv_range (hx : 2 ^ 54 ≤ (s.me.r.getS a).toNat) : execXlinv g d a b z s = .next (takeTrap 0x0A (s.me.r.getS a) 7 s) := by
  rw [execXlinv, privileged_runs h hg]
  exact congrArg _ (if_pos fun hz => absurd ((upper_bits_zero_iff _).1 hz) (Nat.not_lt.2 hx))

/-- xlinv drops the range's translations, and becomes a counted operation (R340). -/
theorem execXlinv_counts (hx : (s.me.r.getS a).toNat < 2 ^ 54) : ∃ kind, execXlinv g d a b z s =
    .next (issueCop (4 * s.me.div.ctl) (newCop kind d 0 .glob 0 0 0 false false 3 none)
      (dropRange ((s.me.r.getS b).setWidth 7) (xlinvRange (s.me.r.getS a).toNat z).1 (xlinvRange (s.me.r.getS a).toNat z).2 s)) := by
  have hzero : ¬ (s.me.r.getS a).extractLsb' 54 10 ≠ 0 := not_not.2 ((upper_bits_zero_iff _).2 hx)
  rw [execXlinv, privileged_runs h hg]
  exact ⟨_, congrArg _ (if_neg hzero)⟩

end

section
variable {g : Guard} {d a : BitVec 6} {s : State} (h : isMgmt s.cur = true) (hg : guardOk g s = true)
include h hg

theorem execPurge_counts : execPurge g d a s =
    .next (startPurge ((s.me.r.getS a).extractLsb' 16 7) ((s.me.r.getS a).setWidth 16) (some (s.cur, s.me.nid)) none
      (s.modMe fun k => { k with
        loads := k.loads ++ [{ newCop (.purge ((s.me.r.getS a).extractLsb' 16 7) ((s.me.r.getS a).setWidth 16)) d 0 .glob 0 0 0 false false 3
          none s.me.nid s.order with badr := s.bun.adr }]
        nid := s.me.nid + 1 })) := by
  rw [execPurge, privileged_runs h hg] <;> rfl

theorem execStest_unlisted (hu : unitListed (islOf s.cur) ((s.me.r.getS a).setWidth 16) = false) :
    execStest g d a s = .next (illegal 0xD6 s) := by
  rw [execStest, privileged_runs h hg]
  dsimp only
  rw [hu]
  exact congrArg _ (if_pos rfl)

theorem execStest_counts (hu : unitListed (islOf s.cur) ((s.me.r.getS a).setWidth 16) = true) : execStest g d a s =
    .next (askTest (islOf s.cur) ((s.me.r.getS a).setWidth 16) (some (s.cur, s.me.nid)) (s.modMe fun k => { k with
      loads := k.loads ++ [{ newCop (.stest ((s.me.r.getS a).setWidth 16)) d 0 .glob 0 0 0 false false 3 none s.me.nid s.order with
        badr := s.bun.adr }]
      nid := s.me.nid + 1 })) := by
  rw [execStest, privileged_runs h hg]
  dsimp only
  rw [hu]
  exact congrArg _ (if_neg Bool.false_ne_true)

end

theorem issueCop_tlb (dt : Nat) (f : Nat → Nat → Cop) (s : State) (c : CoreId) :
    ((issueCop dt f s).core.get c).tlb = (s.core.get c).tlb := by
  have hget := State.modC_get_if s (fun k : CoreSt => { k with
    loads := k.loads ++ [{ f s.me.nid s.order with badr := s.bun.adr }], nid := s.me.nid + 1 }) s.cur c
  refine (congrArg CoreSt.tlb hget).trans ?_
  split <;> rfl

/-- A counted operation of a core: it is among the core's, and storage and translations stay. -/
theorem issueCop_counts (dt : Nat) (kind : CopKind) (d : BitVec 6) (s : State) :
    let t := issueCop dt (newCop kind d 0 .glob 0 0 0 false false 3 none) s
    ∃ o, o ∈ t.me.loads ∧ o.dst = d ∧ o.seq = s.order ∧ t.mem = s.mem ∧ ∀ c, (t.core.get c).tlb = (s.core.get c).tlb := by
  have hme := issueCop_me dt (newCop kind d 0 .glob 0 0 0 false false 3 none) s
  intro t
  have hloads : t.me.loads = _ := congrArg CoreSt.loads hme
  exact ⟨_, by rw [hloads]; exact List.mem_append_right _ (List.mem_singleton_self _), rfl, rfl, rfl, issueCop_tlb dt _ s⟩

/-- The same, after an invalidation has dropped a range (R340). -/
theorem issueCop_dropRange (dt : Nat) (kind : CopKind) (d : BitVec 6) (cx : BitVec 7) (lo hi : Nat) (s : State) :
    let t := issueCop dt (newCop kind d 0 .glob 0 0 0 false false 3 none) (dropRange cx lo hi s)
    ∃ o, o ∈ t.me.loads ∧ o.dst = d ∧ o.seq = s.order ∧ t.mem = s.mem ∧
      ∀ c, ∀ e ∈ (t.core.get c).tlb, e.cx = cx → meets e.va e.size lo hi = false := by
  have hdrop := dropRange_spec cx lo hi s
  generalize dropRange cx lo hi s = u at hdrop ⊢
  obtain ⟨htlb, -, hbun, hmem⟩ := hdrop
  obtain ⟨o, ho, hdst, hseq, hm, ht⟩ := issueCop_counts dt kind d u
  have horder : u.order = s.order := congrArg (fun b : Bundle => b.num * 8 + b.slot.toNat) hbun
  exact ⟨o, ho, hdst, hseq.trans horder, hm.trans hmem, fun c e he hcx => cutXlat_spec (htlb c ▸ ht c ▸ he) hcx⟩

/-- Settles O32: the core management by what the named core is doing; the counted ones by their checks. -/
theorem coreManagement : Obligations.CoreManagement := by
  unfold Obligations.CoreManagement
  refine ⟨?_, ?_⟩
  · intro g d a b s h hg c k bad v
    refine ⟨execWfe_next h hg, fun hv => ?_, fun hv h1 h2 => ?_, fun hv h1 => ?_, fun hk m => execEret_misdirected h hg m hk,
      fun x hx => ⟨fun hc => ?_, fun h1 h2 h3 => ?_, ?_⟩⟩
    · exact (execHsw_next h hg).trans (congrArg _ (if_pos hv))
    · exact (execHsw_next h hg).trans (congrArg _ ((if_neg hv).trans (if_neg (not_or.2 ⟨h1, h2⟩))))
    · exact (execHsw_next h hg).trans (congrArg _ ((if_neg hv).trans (if_pos h1)))
    · exact (execEret_resumes h hg hx).trans (congrArg _ (if_pos (or_assoc.1 (.inl hc))))
    · intro waits
      have hgo : ¬ (x = 0x15 ∨ x = 0x34 ∨ k.tok.toList.any (fun t => t.pending && t.purged) = true) := by
        rw [h3]
        exact fun hor => hor.elim h1 fun hor => hor.elim h2 (nomatch ·)
      exact ⟨_, (execEret_resumes h hg hx).trans (congrArg _ (if_neg hgo)), resumePosted_spec c s⟩
    · exact execEret_discards h hg hx
  · intro g d a b z s h hg x cx u
    refine ⟨fun hx => execXlinv_range h hg hx, fun hx => ?_, ?_, fun hu => ?_, fun hu => ?_⟩
    · obtain ⟨kind, hexec⟩ := execXlinv_counts (d := d) (b := b) (z := z) h hg hx
      exact ⟨_, (issueCop_dropRange ..).imp fun o ho => ⟨hexec, ho⟩⟩
    · exact ⟨_, _, execPurge_counts h hg, rfl, rfl, rfl, rfl, rfl⟩
    · exact execStest_unlisted h hg hu
    · exact ⟨_, _, execStest_counts h hg hu, rfl, rfl, rfl, rfl⟩

end Sys2Proof.Machine
end

section
/-! O38: element results land in their elements. -/

namespace Sys2Proof.Machine

/-! Lanes of a vector word, bit by bit (R7). -/

theorem testBit_foldl_or {α : Type} (g : α → Nat) (l : List α) (a i : Nat) :
    (l.foldl (fun a x => a ||| g x) a).testBit i = (a.testBit i || l.any fun x => (g x).testBit i) := by
  induction l generalizing a with
  | nil => rw [List.foldl_nil, List.any_nil, Bool.or_false]
  | cons x l ih => rw [List.foldl_cons, ih, Nat.testBit_or, List.any_cons, Bool.or_assoc]

/-- A value put into one lane shows in that lane alone. -/
theorem testBit_lane {v w : Nat} (hv : v < 2 ^ w) (e i : Nat) {j : Nat} (hj : j < w) :
    (v <<< (e * w)).testBit (i * w + j) = (decide (e = i) && v.testBit j) := by
  rw [Nat.testBit_shiftLeft]
  rcases Nat.lt_trichotomy e i with h | rfl | h
  · have hle : (e + 1) * w ≤ i * w := Nat.mul_le_mul_right w h
    rw [Nat.add_mul, Nat.one_mul] at hle
    have hout : v.testBit (i * w + j - e * w) = false :=
      Nat.testBit_lt_two_pow (hv.trans_le (Nat.pow_le_pow_right (by decide) (by omega)))
    simp [hout, h.ne]
  · simp
  · have hle : (i + 1) * w ≤ e * w := Nat.mul_le_mul_right w h
    rw [Nat.add_mul, Nat.one_mul] at hle
    have hlow : ¬ e * w ≤ i * w + j := by omega
    simp [hlow, h.ne']

theorem testBit_elem (v : VWord) (e : Nat) {w : Nat} (hw : 0 < w) (j : Nat) :
    (elem v e w).testBit j = (decide (j < w) && v.getLsbD (e * w + j)) := by
  have hlen : e * w + w - 1 + 1 - e * w = w := by omega
  rw [elem, natBits, hlen, Nat.testBit_mod_two_pow, Nat.testBit_shiftRight, BitVec.testBit_toNat]

theorem elem_lt (v : VWord) (e w : Nat) (hw : 0 < w) : elem v e w < 2 ^ w := by
  have hlen : e * w + w - 1 + 1 - e * w = w := by omega
  rw [elem, natBits, hlen]
  exact Nat.mod_lt _ (Nat.two_pow_pos w)

/-- The place of a lane in its word. -/
theorem lane_lt {e w j : Nat} (he : e < 2048 / w) (hj : j < w) : e * w + j < 2048 := by
  have hle : (e + 1) * w ≤ 2048 / w * w := Nat.mul_le_mul_right w he
  have hdiv : 2048 / w * w ≤ 2048 := Nat.div_mul_le_self 2048 w
  rw [Nat.add_mul, Nat.one_mul] at hle
  omega

theorem getLsbD_joinElems {w : Nat} (xs : List (Nat × Nat)) {e j : Nat} (he : e < 2048 / w) (hj : j < w) :
    (joinElems w xs).getLsbD (e * w + j) = xs.any fun x => decide (x.1 = e) && x.2.testBit j := by
  rw [joinElems, BitVec.getLsbD_ofNat, decide_eq_true (lane_lt he hj), Bool.true_and, testBit_foldl_or, Nat.zero_testBit, Bool.false_or]
  congr 1
  funext x
  rw [testBit_lane (Nat.mod_lt _ (Nat.two_pow_pos w)) _ _ hj, Nat.testBit_mod_two_pow, decide_eq_true hj, Bool.true_and]

theorem getLsbD_maskElems {w : Nat} (es : List Nat) {e j : Nat} (he : e < 2048 / w) (hj : j < w) :
    (maskElems w es).getLsbD (e * w + j) = decide (e ∈ es) := by
  rw [maskElems, BitVec.getLsbD_ofNat, decide_eq_true (lane_lt he hj), Bool.true_and, testBit_foldl_or, Nat.zero_testBit, Bool.false_or]
  have hbit (x : Nat) : ((2 ^ w - 1) <<< (x * w)).testBit (e * w + j) = decide (x = e) := by
    rw [testBit_lane (Nat.sub_lt (Nat.two_pow_pos w) (by decide)) _ _ hj, Nat.testBit_two_pow_sub_one, decide_eq_true hj, Bool.and_true]
  rw [List.any_congr rfl fun x => hbit x]
  rw [Bool.eq_iff_iff, List.any_eq_true, decide_eq_true_iff]
  exact ⟨fun ⟨x, hx, h⟩ => of_decide_eq_true h ▸ hx, fun h => ⟨e, h, decide_eq_true rfl⟩⟩

/-- Results of the elements of a list, written under their mask into a register: an element of the list takes its result, any other
keeps its bits. -/
theorem elem_merge {w : Nat} (hw : 0 < w) (es : List Nat) (g : Nat → Nat) (old : VWord) {e : Nat} (he : e < 2048 / w) :
    elem ((joinElems w (es.map fun i => (i, g i)) &&& maskElems w es) ||| (old &&& ~~~maskElems w es)) e w =
      if e ∈ es then g e % 2 ^ w else elem old e w := by
  apply Nat.eq_of_testBit_eq
  intro j
  rw [testBit_elem _ _ hw]
  by_cases hj : j < w
  · have hlane := lane_lt he hj
    rw [decide_eq_true hj, Bool.true_and, BitVec.getLsbD_or, BitVec.getLsbD_and, BitVec.getLsbD_and, BitVec.getLsbD_not,
      getLsbD_maskElems es he hj, getLsbD_joinElems _ he hj, decide_eq_true hlane, Bool.true_and]
    split
    next h =>
      have hone : ((es.map fun i => (i, g i)).any fun x => decide (x.1 = e) && x.2.testBit j) = (g e).testBit j := by
        rw [List.any_map, Bool.eq_iff_iff, List.any_eq_true]
        constructor
        · rintro ⟨i, -, hi⟩
          obtain ⟨hie, hbit⟩ := (Bool.and_eq_true _ _).mp hi
          obtain rfl := of_decide_eq_true hie
          exact hbit
        · exact fun hbit => ⟨e, h, by rw [Function.comp, decide_eq_true rfl, Bool.true_and, hbit]⟩
      rw [hone, decide_eq_true h, Nat.testBit_mod_two_pow, decide_eq_true hj, Bool.and_true, Bool.not_true, Bool.and_false, Bool.or_false,
        Bool.true_and]
    next h => rw [decide_eq_false h, testBit_elem _ _ hw, decide_eq_true hj]; simp
  · have hbound : (if e ∈ es then g e % 2 ^ w else elem old e w) < 2 ^ w := by
      split
      · exact Nat.mod_lt _ (Nat.two_pow_pos w)
      · exact elem_lt old e w hw
    have hhigh := Nat.testBit_lt_two_pow (hbound.trans_le (Nat.pow_le_pow_right (by decide) (Nat.le_of_not_lt hj)))
    rw [decide_eq_false hj, hhigh, Bool.false_and]

/-! Registers after element results (R13 to R16). -/

theorem tyBits_pos (t : ElemTy) : 0 < tyBits t := by cases t <;> decide

theorem w_pos (h : VH) : 0 < h.w := tyBits_pos h.ty

/-- Physical register d of a cluster (R16). -/
def Regs.phys (r : Regs) (cl : Cluster) (d : BitVec 5) : VWord :=
  match cl with | .A => r.va[d.toNat]'d.isLt | .B => r.vb[d.toNat]'d.isLt

theorem phys_setV (r : Regs) (cl : Cluster) (d : BitVec 5) (v mask : VWord) (cl' : Cluster) (d' : BitVec 5) :
    (r.setV cl d v mask).phys cl' d' = if cl' = cl ∧ d' = d then (v &&& mask) ||| (r.phys cl d &&& ~~~mask) else r.phys cl' d' := by
  have hne (h : d' ≠ d) : d.toNat ≠ d'.toNat := fun h' => h (BitVec.eq_of_toNat_eq h'.symm)
  cases cl <;> cases cl'
  case A.B | B.A => rfl
  all_goals
    by_cases h : d' = d
    · subst h
      simp [Regs.setV, Regs.phys]
    · simp [Regs.setV, Regs.phys, h, Vector.getElem_set_ne _ _ (hne h)]

theorem phys_clean (r : Regs) (cl : Cluster) (d : BitVec 5) (mask : VWord) (cl' : Cluster) (d' : BitVec 5) :
    (r.clean cl d mask).phys cl' d' = r.phys cl' d' := by
  unfold Regs.clean
  split <;> rfl

/-- A vector write leaves the other kinds of registers. -/
theorem land_v_frame (r : Regs) (cl : Cluster) (d : BitVec 5) (v mask : VWord) :
    let t := r.land (.v cl d v mask)
    t.s = r.s ∧ t.p = r.p ∧ t.m = r.m ∧ t.n = r.n ∧ t.fst = r.fst := by
  unfold Regs.land Regs.clean
  dsimp only
  split <;> cases cl <;> exact ⟨rfl, rfl, rfl, rfl, rfl⟩

/-- What element results leave in every register (R114, R115). -/
theorem land_elemEffs (h : VH) (vd : BitVec 5) (w : Nat) (s : State) (es : List Nat) (f : Nat → Nat × Byte) (r : Regs) :
    let m := maskElems w es
    let t := (elemEffs h vd w s es f).foldl (fun r e => r.land e) r
    (∀ cl d, t.phys cl d = if cl = h.cl ∧ d = s.me.r.physV vd then
      (joinElems w (es.map fun e => (e, (f e).1)) &&& m) ||| (r.phys h.cl (s.me.r.physV vd) &&& ~~~m) else r.phys cl d) ∧
    t.s = r.s ∧ t.p = r.p ∧ t.m = r.m ∧ t.n = r.n ∧ t.fst = r.fst ||| es.foldl (fun b e => b ||| (f e).2) 0 := by
  intro m t
  have hflags : (es.map fun e => (e, f e)).foldl (fun b x => b ||| x.2.2) (0 : Byte) = es.foldl (fun b e => b ||| (f e).2) 0 :=
    List.foldl_map ..
  have hv : (es.map fun e => (e, f e)).map (fun x => (x.1, x.2.1)) = es.map fun e => (e, (f e).1) := List.map_map ..
  let r1 := r.land (.v h.cl (s.me.r.physV vd) (joinElems w (es.map fun e => (e, (f e).1))) m)
  obtain ⟨hs, hp, hm, hn, hf⟩ := land_v_frame r h.cl (s.me.r.physV vd) (joinElems w (es.map fun e => (e, (f e).1))) m
  have hphys (cl : Cluster) (d : BitVec 5) : r1.phys cl d = _ := (phys_clean _ h.cl (s.me.r.physV vd) m cl d).trans (phys_setV ..)
  have ht : t = (if es.foldl (fun b e => b ||| (f e).2) 0 = 0 then [] else [.flags (es.foldl (fun b e => b ||| (f e).2) 0)]).foldl
      (fun r e => r.land e) r1 := by
    unfold t elemEffs
    dsimp only
    rw [hflags, hv]
    rfl
  rw [ht]
  split
  next hz => exact ⟨hphys, hs, hp, hm, hn, by rw [hz]; exact hf.trans BitVec.or_zero.symm⟩
  next => exact ⟨hphys, hs, hp, hm, hn, congrArg (· ||| _) hf⟩

/-- Flags of several results, bit by bit. -/
theorem getLsbD_foldl_flags {α : Type} (g : α → Byte) (l : List α) (a : Byte) (i : Nat) :
    (l.foldl (fun b e => b ||| g e) a).getLsbD i = (a.getLsbD i || l.any fun e => (g e).getLsbD i) := by
  induction l generalizing a with
  | nil => rw [List.foldl_nil, List.any_nil, Bool.or_false]
  | cons x l ih => rw [List.foldl_cons, ih, BitVec.getLsbD_or, List.any_cons, Bool.or_assoc]

theorem mem_actives {h : VH} {w : Nat} {s : State} {e : Nat} (he : e < 2048 / w) :
    e ∈ actives h w s ↔ active (s.me.r.getP h.grd) e w = true := by
  have hin : e ∈ upto 0 (lanesOf w) := by
    rw [upto, List.mem_range'_1]
    exact ⟨Nat.zero_le e, by rw [Nat.zero_add]; exact he⟩
  rw [actives, List.mem_filter]
  exact and_iff_right hin

/-- Settles O38: bit by bit, the mask of the active elements. -/
theorem elementDeliveries : Obligations.ElementDeliveries := by
  unfold Obligations.ElementDeliveries
  intro h vd s f r effs t at_
  obtain ⟨hphys, hs, hp, hm, hn, hfst⟩ := land_elemEffs h vd h.w s (actives h h.w s) f r
  have hat (r : Regs) (cl : Cluster) (d : BitVec 5) : at_ r cl d = r.phys cl d := rfl
  refine ⟨fun e he => ?_, fun cl d hd => ?_, fun i => by rw [Regs.getS, Regs.getS, hs], hp, hm, hn, fun i => ?_⟩
  · rw [hat, hat, hphys, if_pos ⟨rfl, rfl⟩, elem_merge (w_pos h) _ (fun e => (f e).1) _ he]
    exact if_congr (mem_actives he) rfl rfl
  · rw [hat, hat, hphys, if_neg fun ⟨h1, h2⟩ => hd.elim (· h1) (· h2)]
  · rw [hfst, BitVec.getLsbD_or, getLsbD_foldl_flags]
    have hnone : (0 : Byte).getLsbD i = false := BitVec.getLsbD_zero
    rw [hnone, Bool.false_or, actives, List.any_filter, upto, ← List.range_eq_range']
    rfl

end Sys2Proof.Machine
end

section
/-! O40: engine slots. -/

namespace Sys2Proof.Machine

/-! Fields of a word as numbers. -/

theorem field_toNat {n : Nat} (d : BitVec n) (lo len : Nat) : (d.extractLsb' lo len).toNat = d.toNat / 2 ^ lo % 2 ^ len := by
  rw [BitVec.extractLsb'_toNat, Nat.shiftRight_eq_div_pow]

theorem field_eq_zero_iff {n : Nat} (d : BitVec n) (lo len : Nat) : d.extractLsb' lo len = 0 ↔ d.toNat / 2 ^ lo % 2 ^ len = 0 := by
  rw [← field_toNat, ← BitVec.toNat_inj]
  rfl

/-- The field that reaches to the top of a word. -/
theorem topField_eq_zero_iff {n : Nat} (d : BitVec n) {lo len : Nat} (h : lo + len = n) : d.extractLsb' lo len = 0 ↔ d.toNat / 2 ^ lo = 0 := by
  have hlt : d.toNat / 2 ^ lo < 2 ^ len := by
    rw [Nat.div_lt_iff_lt_mul (Nat.two_pow_pos lo), ← Nat.pow_add, Nat.add_comm len lo, h]
    exact d.isLt
  rw [field_eq_zero_iff, Nat.mod_eq_of_lt hlt]

theorem field_setWidth (d : W64) {lo len : Nat} : (d.extractLsb' lo len).setWidth 64 = BitVec.ofNat 64 (d.toNat / 2 ^ lo % 2 ^ len) := by
  apply BitVec.eq_of_toNat_eq
  rw [BitVec.toNat_setWidth, BitVec.toNat_ofNat, field_toNat]

/-! Clock edges (R11, R163). -/

/-- Edges of a domain of core k. -/
def CoreSt.IsEdge (k : CoreSt) (x : Dom) (t : Nat) : Prop := ∃ n, t = k.base + n * k.div.get x

theorem le_ceilDiv_mul (a : Nat) {b : Nat} (hb : 0 < b) : a ≤ ceilDiv a b * b := by
  have hdiv := Nat.lt_div_mul_add hb (a := a + b - 1)
  unfold ceilDiv
  omega

theorem ceilDiv_le {a b n : Nat} (hb : 0 < b) (h : a ≤ n * b) : ceilDiv a b ≤ n := by
  have hlt : a + b - 1 < (n + 1) * b := by
    rw [Nat.add_mul, Nat.one_mul]
    omega
  exact Nat.lt_succ_iff.1 ((Nat.div_lt_iff_lt_mul hb).2 hlt)

theorem isEdge_edge (k : CoreSt) (x : Dom) (t : Nat) : k.IsEdge x (k.edge x t) := ⟨_, rfl⟩

theorem le_edge (k : CoreSt) {x : Dom} (h : 0 < k.div.get x) (t : Nat) : t ≤ k.edge x t := by
  have hle := le_ceilDiv_mul (t - k.base) h
  unfold CoreSt.edge
  omega

theorem edge_le (k : CoreSt) {x : Dom} (h : 0 < k.div.get x) {t u : Nat} (hu : k.IsEdge x u) (ht : t ≤ u) : k.edge x t ≤ u := by
  obtain ⟨n, rfl⟩ := hu
  have hle : ceilDiv (t - k.base) (k.div.get x) ≤ n := ceilDiv_le h (by omega)
  have hmul := Nat.mul_le_mul_right (k.div.get x) hle
  unfold CoreSt.edge
  omega

/-! The matrix slot (R144, R146). -/

theorem CoreSt.produce_queues (k : CoreSt) (t : BitVec 6) (src : Nat) :
    (k.produce t src).2.wmx = k.wmx ∧ (k.produce t src).2.pend = k.pend ∧ (k.produce t src).2.r = k.r := by
  unfold produce
  split <;> exact ⟨rfl, rfl, rfl⟩

/-- The matrix operation kind of tokens t is withheld, and its token is pending; u is s after it. -/
def Withheld (kind : MxKind) (t : Toks) (s u : State) : Prop :=
  ∃ o, u.me.wmx = s.me.wmx ++ [o] ∧ o.kind = kind ∧ o.mp = s.me.r.m ∧ o.tok = t.tp ∧ o.seq = s.order ∧ o.badr = s.bun.adr ∧
    (t.tp ≠ 0 → u.me.tokPending t.tp = true) ∧ u.me.r = s.me.r ∧ u.me.pend = s.me.pend ∧ u.mem = s.mem ∧ u.agenda = s.agenda

theorem issueMx_withheld (kind : MxKind) {t : Toks} {s : State} (h : s.me.tokPending t.tp = false) : Withheld kind t s (issueMx kind t s) := by
  let src := match kind with | .drain .. => 2 | _ => 0
  let k := (s.me.produce t.tp src).2
  let o : MxOp := ⟨s.order, s.bun.adr, kind, s.me.r.m, t.tp, (s.me.produce t.tp src).1, s.me.depsOf t⟩
  obtain ⟨hwmx, hpend, hr⟩ := CoreSt.produce_queues s.me t.tp src
  have hissue : issueMx kind t s = s.modMe fun _ => { k with wmx := k.wmx ++ [o] } := by
    unfold issueMx
    rw [h]
    rfl
  have hme : (issueMx kind t s).me = { k with wmx := k.wmx ++ [o] } := by
    rw [hissue]
    exact State.modMe_me s fun _ => { k with wmx := k.wmx ++ [o] }
  refine ⟨o, ?_, rfl, rfl, rfl, rfl, rfl, fun ht => ?_, ?_, ?_, ?_, ?_⟩
  · rw [hme, ← hwmx]
  · rw [hme]
    exact CoreSt.produce_tokPending s.me src ht
  · rw [hme]
    exact hr
  · rw [hme]
    exact hpend
  · rw [hissue]
    rfl
  · rw [hissue]
    rfl

/-! The scale slot (R163, R164). -/

theorem startMx_frame (c : CoreId) (s : State) : (startMx c s).core = s.core ∧ (startMx c s).cur = s.cur ∧ (startMx c s).mem = s.mem := by
  unfold startMx
  split <;> exact ⟨rfl, rfl, rfl⟩

/-- The first matrix edge from now on that no scale write has taken. -/
def scaleEdge (k : CoreSt) (now : Nat) : Nat :=
  match k.lastSc with
  | some l => if k.edge .mtx now ≤ l then k.edge .mtx (l + 1) else k.edge .mtx now
  | none => k.edge .mtx now

/-- A matrix edge from now on that no scale write has taken. -/
def ScaleFree (k : CoreSt) (now x : Nat) : Prop := (∃ n, x = k.base + n * k.div.mtx) ∧ now ≤ x ∧ ∀ l, k.lastSc = some l → l < x

theorem scaleEdge_least {k : CoreSt} (now : Nat) (h : 0 < k.div.mtx) :
    ScaleFree k now (scaleEdge k now) ∧ ∀ x, ScaleFree k now x → scaleEdge k now ≤ x := by
  have hnow := le_edge k (x := .mtx) h now
  have hleast (x t : Nat) (hx : ∃ n, x = k.base + n * k.div.mtx) (ht : t ≤ x) : k.edge .mtx t ≤ x := edge_le k (x := .mtx) h hx ht
  unfold scaleEdge ScaleFree
  cases hl : k.lastSc with
  | none => exact ⟨⟨⟨_, rfl⟩, hnow, fun l h => nomatch h⟩, fun x ⟨hx, ht, _⟩ => hleast x now hx ht⟩
  | some l =>
    dsimp only
    split
    next he =>
      have hlate := le_edge k (x := .mtx) h (l + 1)
      refine ⟨⟨⟨_, rfl⟩, by omega, fun m hm => ?_⟩, fun x ⟨hx, _, hfree⟩ => hleast x (l + 1) hx (hfree l rfl)⟩
      obtain rfl := Option.some.inj hm
      omega
    next he =>
      refine ⟨⟨⟨_, rfl⟩, hnow, fun m hm => ?_⟩, fun x ⟨hx, ht, _⟩ => hleast x now hx ht⟩
      obtain rfl := Option.some.inj hm
      omega

/-- A scale write is queued for its edge. -/
theorem issueScale_me (op : BitVec 3) (b : BitVec 4) (v : Byte) (src : Option Nat) (s : State) :
    (issueScale op b v src s).me = { s.me with
      lastSc := some (scaleEdge s.me s.tick)
      scw := s.me.scw ++ [⟨scaleEdge s.me s.tick, 6, s.order, op, b, v, src, s.bun.adr, none⟩] } ∧
    (issueScale op b v src s).mem = s.mem := by
  let f (k : CoreSt) : CoreSt := { k with
    lastSc := some (scaleEdge s.me s.tick), scw := k.scw ++ [⟨scaleEdge s.me s.tick, 6, s.order, op, b, v, src, s.bun.adr, none⟩] }
  obtain ⟨hcore, hcur, hmem⟩ := startMx_frame s.cur (s.modMe f)
  have hissue : issueScale op b v src s = startMx s.cur (s.modMe f) := rfl
  rw [hissue]
  refine ⟨?_, hmem⟩
  rw [State.me, hcore, hcur]
  exact State.modMe_me s f

/-- What a scale write that is queued leaves, as the statement has it. -/
theorem issueScale_spec (op : BitVec 3) (b : BitVec 4) (v : Byte) (src : Option Nat) (s : State) :
    let t := issueScale op b v src s
    ∃ w, t.me.scw = s.me.scw ++ [w] ∧ w.op = op ∧ w.blk = b ∧ w.val = v ∧ w.src = src ∧ w.left = 6 ∧ w.seq = s.order ∧
      t.me.lastSc = some w.at_ ∧
      (0 < s.me.div.mtx → ScaleFree s.me s.tick w.at_ ∧ ∀ x, ScaleFree s.me s.tick x → w.at_ ≤ x) ∧ t.me.r = s.me.r ∧ t.mem = s.mem := by
  intro t
  obtain ⟨hme, hmem⟩ := issueScale_me op b v src s
  exact ⟨_, (congrArg CoreSt.scw hme :), rfl, rfl, rfl, rfl, rfl, rfl, (congrArg CoreSt.lastSc hme :), fun h => scaleEdge_least s.tick h,
    (congrArg CoreSt.r hme :), hmem⟩

/-- What a landing scale write gives its block, case by case of its OP (R163). -/
theorem scaleVal_spec (x : Vector Byte 16) (w : ScaleWr) :
    let v := (x[w.blk.toNat]'w.blk.isLt).toNat
    let y := scaleVal x w
    (w.op = 1 ∨ w.op = 4 → y = w.val) ∧ (w.op = 2 → y.toNat = min 255 (v + w.val.toNat)) ∧ (w.op = 3 → y.toNat = v - w.val.toNat) ∧
    (w.op = 5 → y = x[w.val.toNat % 16]'(Nat.mod_lt _ (by decide))) ∧ (w.op = 6 → y.toNat = max v w.val.toNat) ∧
    (w.op = 7 → y.toNat = min v w.val.toNat) := by
  intro v y
  have hv : v < 256 := (x[w.blk.toNat]'w.blk.isLt).isLt
  refine ⟨?_, fun h => ?_, fun h => ?_, fun h => ?_, fun h => ?_, fun h => ?_⟩
  · rintro (h | h) <;> simp [y, scaleVal, h]
  · have hy : y = BitVec.ofNat 8 (min 255 (v + w.val.toNat)) := by simp only [y, scaleVal, h]; rfl
    rw [hy, BitVec.toNat_ofNat]
    omega
  · have hy : y = BitVec.ofNat 8 (v - w.val.toNat) := by simp only [y, scaleVal, h]; rfl
    rw [hy, BitVec.toNat_ofNat]
    omega
  · simp [y, scaleVal, h]
  · have hy : y = if v < w.val.toNat then w.val else x[w.blk.toNat]'w.blk.isLt := by simp only [y, scaleVal, h]; rfl
    rw [hy]
    split <;> omega
  · have hy : y = if v < w.val.toNat then x[w.blk.toNat]'w.blk.isLt else w.val := by simp only [y, scaleVal, h]; rfl
    rw [hy]
    split <;> omega

section
variable {t : Toks} {e : BitVec 8} {i lat : BitVec 3} {acc : BitVec 2} {ck ovw : Bool} {s : State} (hsq : s.bun.squash = false)
include hsq

/-- The checks of lload in their order (R162). -/
theorem execLload_next : execLload t i lat s = .next (
    let d := (s.me.r.getM i).toNat
    if d / 2 ^ 48 ≠ 0 ∨ d / 2 ^ 21 % 8 ≠ 0 then illegal 0x02 s
    else if d % 2 ^ 21 % 64 ≠ 0 ∨ d / 2 ^ 24 % 2 ^ 16 % 64 ≠ 0 then takeTrap 0x06 (BitVec.ofNat 64 (d % 2 ^ 21)) 256 s
    else if 0x200000 ≤ d % 2 ^ 21 + d / 2 ^ 40 % 2 ^ 7 * (d / 2 ^ 24 % 2 ^ 16) + 255 then takeTrap 0x07 (BitVec.ofNat 64 (d % 2 ^ 21)) 256 s
    else issueMx (.lload i lat) t s) := by
  rw [execLload, engineSlot_runs _ hsq]
  simp only [lloadBase, lloadStr, lloadNrw, field_toNat, Nat.pow_zero, Nat.div_one, ne_eq, topField_eq_zero_iff _ (show 48 + 16 = 64 from rfl),
    field_eq_zero_iff, Nat.reducePow]

/-- The checks of epicfg (R167). -/
theorem execEpicfg_next : execEpicfg t i s = .next (
    let d := s.me.r.getM i
    if d.toNat / 2 ^ 36 ≠ 0 ∨ d.getLsbD 11 = true ∨ (d.getLsbD 9 = true ∧ d.getLsbD 10 = true) then illegal 0x05 s
    else if d.getLsbD 8 = true ∧ d.toNat / 2 ^ 12 % 64 ≠ 0 then takeTrap 0x06 (BitVec.ofNat 64 (d.toNat / 2 ^ 12 % 2 ^ 21)) 64 s
    else issueMx (.epicfg i) t s) := by
  have hbits (d : W64) : d.extractLsb' 9 2 = 3 ↔ d.getLsbD 9 = true ∧ d.getLsbD 10 = true := by
    rw [← BitVec.toNat_inj, field_toNat]
    rw [← BitVec.testBit_toNat, ← BitVec.testBit_toNat, Nat.testBit_eq_decide_div_mod_eq, Nat.testBit_eq_decide_div_mod_eq]
    simp only [decide_eq_true_iff, BitVec.reduceToNat]
    omega
  have hmod (n : Nat) : n % 2 ^ 21 % 64 = n % 64 := Nat.mod_mod_of_dvd n (by decide)
  rw [execEpicfg, engineSlot_runs _ hsq]
  simp only [field_toNat, ne_eq, topField_eq_zero_iff _ (show 36 + 28 = 64 from rfl), hbits, hmod, field_setWidth]

/-- The checks of cksnap (R173). -/
theorem execCksnap_next : execCksnap t i acc s = .next (
    let a := (s.me.r.getM i).toNat % 2 ^ 21
    if a % 16 ≠ 0 then takeTrap 0x06 (BitVec.ofNat 64 a) 528 s
    else if 0x200000 < a + 528 then takeTrap 0x07 (BitVec.ofNat 64 a) 528 s
    else issueMx (.cksnap i acc) t s) := by
  rw [execCksnap, engineSlot_runs _ hsq]
  simp only [field_toNat, field_setWidth, Nat.pow_zero, Nat.div_one]

/-- The checks of a drain whose parameters no reserved field or code rules out (R168). -/
theorem execDrain_next {x : DrainArgs} (h : drainArgs (s.me.r.getM i) (s.me.r.getM (i + 1)) = some x) : execDrain t i acc ck ovw s = .next (
    let z := tyBits x.ot / 8
    let ea := BitVec.ofNat 64 x.adr
    if x.adr % z ≠ 0 ∨ x.str % z ≠ 0 then takeTrap 0x06 ea (BitVec.ofNat 64 z) s
    else if x.spc = 1 ∧ 0x200000 < x.adr + x.span then takeTrap 0x07 ea (BitVec.ofNat 64 z) s
    else if x.spc = 2 ∧ !stagingOk s s.cur x.adr x.span then takeTrap 0x08 ea (BitVec.ofNat 64 z) s
    else issueMx (.drain i acc ck ovw) t s) := by
  rw [execDrain, engineSlot_runs _ hsq]
  dsimp only
  rw [h]

theorem execDrain_reserved (h : drainArgs (s.me.r.getM i) (s.me.r.getM (i + 1)) = none) :
    execDrain t i acc ck ovw s = .next (illegal 0x03 s) := by
  rw [execDrain, engineSlot_runs _ hsq]
  dsimp only
  rw [h]

theorem execMcall_next : execMcall t e lat acc ck ovw s =
    .next (if s.me.r.entryOk.getLsbD e.toNat then issueMx (.mcall e lat acc ck ovw) t s else illegal 0x01 s) := by
  rw [execMcall, engineSlot_runs _ hsq]

theorem execScpad_next {b : BitVec 4} {v : BitVec 8} : execScpad b v s = .next (
    let a := (s.me.r.getM 7).toNat % 2 ^ 21 + v.toNat
    if 0x200000 ≤ a then takeTrap 0x07 (BitVec.ofNat 64 a) 1 s else issueScale 4 b v (some (padKey s.cur a)) s) := by
  rw [execScpad, engineSlot_runs _ hsq]

end

theorem stagingOk_iff (s : State) (c : CoreId) (a z : Nat) : stagingOk s c a z = true ↔
    a % 2 ^ 22 + z ≤ stagingSize s c (a / 2 ^ 22 % 32) ∧ heldByHalyard s (islOf c) a z = false := by
  rw [stagingOk, Bool.and_eq_true, decide_eq_true_iff, Bool.not_eq_true', natBits_eq, natBits_eq, Nat.pow_zero, Nat.div_one]
  exact Iff.rfl

/-- Settles O40: each slot by its checks in their order; an operation that passes them is withheld or queued. -/
theorem engineSlots : Obligations.EngineSlots := by
  unfold Obligations.EngineSlots
  refine ⟨?_, ⟨?_, ?_⟩, ?_⟩
  · intro t e v i lat a scp x y u n q b k s h
    have hs (f : State → State) : engineSlot s f = .next s := engineSlot_squashed f h
    have hcopy (op : Nat) (kd : CopyKind) (bnd : Option Nat) : issueCopy op kd u t n q bnd scp s = .next s := hs _
    simp only [List.forall_mem_cons]
    exact ⟨(hs _ : execMcall t e lat a x y s = _), (hs _ : execLload t i lat s = _), (hs _ : execDrain t i a x y s = _),
      (hs _ : execAzero t a s = _), (hs _ : execEpicfg t i s = _), (hs _ : execCksnap t i a s = _),
      hcopy 0x01 .cpy _, hcopy 0x02 .cpset _, (hs _ : execBcdrv u t n s = _),
      (hs _ : execBclat u t n q s = _), (hs _ : execScset b v s = _), (hs _ : execScadd b v s = _), (hs _ : execScsub b v s = _),
      (hs _ : execScpad b v s = _), (hs _ : execSccpy b v s = _), (hs _ : execScmax b v s = _), (hs _ : execScmin b v s = _),
      List.forall_mem_nil _⟩
  · intro b v s h queued a
    have hq (op : BitVec 3) (src : Option Nat) {j : Instr} (hj : exec j s = .next (issueScale op b v src s)) : queued j op src := by
      obtain ⟨w, hw⟩ := issueScale_spec op b v src s
      exact ⟨_, w, hj, hw⟩
    refine ⟨hq 1 none (engineSlot_runs _ h), hq 2 none (engineSlot_runs _ h), hq 3 none (engineSlot_runs _ h), hq 5 none (engineSlot_runs _ h),
      hq 6 none (engineSlot_runs _ h), hq 7 none (engineSlot_runs _ h), fun ha => hq 4 _ ?_, fun ha => ?_⟩
    · exact (execScpad_next h).trans (congrArg _ (if_neg (Nat.not_le.2 ha)))
    · exact (execScpad_next h).trans (congrArg _ (if_pos ha))
  · intro old x w v y
    have hy : y = scaleVal old w := Vector.getElem_set_self _
    obtain ⟨h1, h2, h3, h5, h6, h7⟩ := scaleVal_spec old w
    rw [hy]
    exact ⟨h1, h2, h3, h5, h6, h7, fun b hb => Vector.getElem_set_ne _ _ fun hn => hb (BitVec.eq_of_toNat_eq hn.symm)⟩
  · intro t e i lat acc ck ovw s h d held traps base str nrw ovr ll
    have hheld {j : Instr} {k : MxKind} (hj : exec j s = .next (issueMx k t s)) : held j k := fun hp => by
      obtain ⟨o, ho⟩ := issueMx_withheld k hp
      exact ⟨_, o, hj, ho⟩
    have hlegal (h1 : d.toNat / 2 ^ 36 = 0) (h2 : d.getLsbD 11 = false) (h3 : ¬ (d.getLsbD 9 = true ∧ d.getLsbD 10 = true)) :
        ¬ (d.toNat / 2 ^ 36 ≠ 0 ∨ d.getLsbD 11 = true ∨ (d.getLsbD 9 = true ∧ d.getLsbD 10 = true)) := fun hz =>
      hz.elim (· h1) fun hz => hz.elim (fun h11 => absurd (h2.symm.trans h11) Bool.false_ne_true) h3
    refine ⟨fun he => hheld ?_, fun he => ?_, fun ho => ?_, fun ho hm => ?_, fun ho h1 h2 hr => ?_, fun ho h1 h2 hr => hheld ?_,
      hheld (engineSlot_runs _ h), fun hres => ?_, fun h1 h2 h3 => ⟨fun ha => hheld ?_, fun h8 ha => ?_⟩, fun ha hr => hheld ?_, fun ha => ?_,
      fun ha hr => ?_, fun hn => execDrain_reserved h hn, fun x hx => ?_⟩
    · exact (execMcall_next h).trans (congrArg _ (if_pos he))
    · exact (execMcall_next h).trans (congrArg _ (if_neg (by rw [he]; decide)))
    · exact (execLload_next h).trans (congrArg _ (if_pos ho))
    · exact (execLload_next h).trans (congrArg _ ((if_neg ho).trans (if_pos hm)))
    · exact (execLload_next h).trans (congrArg _ ((if_neg ho).trans ((if_neg fun hz => hz.elim (· h1) (· h2)).trans (if_pos hr))))
    · exact (execLload_next h).trans (congrArg _ ((if_neg ho).trans ((if_neg fun hz => hz.elim (· h1) (· h2)).trans
        (if_neg (Nat.not_le.2 hr)))))
    · exact (execEpicfg_next h).trans (congrArg _ (if_pos hres))
    · refine (execEpicfg_next h).trans (congrArg _ ((if_neg (hlegal h1 h2 h3)).trans (if_neg fun ⟨h8, hz⟩ => ?_)))
      exact ha.elim (fun h0 => absurd (h0.symm.trans h8) Bool.false_ne_true) hz
    · exact (execEpicfg_next h).trans (congrArg _ ((if_neg (hlegal h1 h2 h3)).trans (if_pos ⟨h8, ha⟩)))
    · exact (execCksnap_next h).trans (congrArg _ ((if_neg (not_not.2 ha)).trans (if_neg (Nat.not_lt.2 hr))))
    · exact (execCksnap_next h).trans (congrArg _ (if_pos ha))
    · exact (execCksnap_next h).trans (congrArg _ ((if_neg (not_not.2 ha)).trans (if_pos hr)))
    · intro z n fits drops
      have hnext := execDrain_next (t := t) (acc := acc) (ck := ck) (ovw := ovw) h hx
      have hfits : stagingOk s s.cur x.adr x.span = true ↔ fits := stagingOk_iff s s.cur x.adr x.span
      refine ⟨fun ha => hnext.trans (congrArg _ (if_pos ha)), fun h1 h2 => ?_⟩
      have hal : ¬ (x.adr % z ≠ 0 ∨ x.str % z ≠ 0) := fun hz => hz.elim (· h1) (· h2)
      refine ⟨fun hs hr => ?_, fun hs hr => ?_, fun ho => hheld (hnext.trans (congrArg _ ((if_neg hal).trans ?_)))⟩
      · exact hnext.trans (congrArg _ ((if_neg hal).trans (if_pos ⟨hs, hr⟩)))
      · have hpad : ¬ (x.spc = 1 ∧ 0x200000 < x.adr + x.span) := fun hz => absurd (hs.symm.trans hz.1) (by decide)
        have hbad : (!stagingOk s s.cur x.adr x.span) = true := by
          rw [Bool.not_eq_true', ← Bool.not_eq_true, hfits]
          exact hr
        exact hnext.trans (congrArg _ ((if_neg hal).trans ((if_neg hpad).trans (if_pos ⟨hs, hbad⟩))))
      · have hpad : ¬ (x.spc = 1 ∧ 0x200000 < x.adr + x.span) := fun hz => ho.elim (fun hp => absurd hz.2 (Nat.not_lt.2 hp.2))
          fun hp => absurd (hp.1.symm.trans hz.1) (by decide)
        have hstg : ¬ (x.spc = 2 ∧ (!stagingOk s s.cur x.adr x.span) = true) := fun hz => ho.elim
          (fun hp => absurd (hp.1.symm.trans hz.1) (by decide))
          fun hp => absurd hz.2 (by rw [hfits.2 hp.2]; decide)
        exact (if_neg hpad).trans (if_neg hstg)

end Sys2Proof.Machine
end

section
/-! O44: the halyard controller. -/

namespace Sys2Proof.Machine

/-! The operations under way (R210). -/

theorem hop?_id {s : State} {n : Nat} {o : HalOp} (h : s.hop? n = some o) : o.id = n := by
  have hfound := List.find?_some h
  exact beq_iff_eq.1 hfound

/-- A change of an operation that keeps its number shows when it is looked up. -/
theorem hop?_modHop (s : State) (n m : Nat) (f : HalOp → HalOp) (hf : ∀ p, (f p).id = p.id) :
    (s.modHop n f).hop? m = (s.hop? m).map fun p => if p.id = n then f p else p := by
  have hid (p : HalOp) : (if p.id = n then f p else p).id = p.id := by
    split
    · exact hf p
    · rfl
  show (s.dev.hops.map fun p => if p.id = n then f p else p).find? (·.id == m) = (s.dev.hops.find? (·.id == m)).map _
  rw [List.find?_map]
  exact congrArg (Option.map _) (congrArg (fun q => s.dev.hops.find? q) (funext fun p => congrArg (· == m) (hid p)))

/-! Halyards. -/

theorem tfind_modHal {s : State} {n : Nat} {x : Halyard} (f : Halyard → Halyard) (h : tfind s.dev.hal n = some x) :
    tfind (s.modHal n f).dev.hal n = some (f x) := by
  unfold State.modHal
  rw [h]
  exact tfind_tset_self ..

theorem modHal_frame (s : State) (n : Nat) (f : Halyard → Halyard) :
    (s.modHal n f).mem = s.mem ∧ (s.modHal n f).core = s.core ∧ (s.modHal n f).dev.hops = s.dev.hops ∧ (s.modHal n f).tick = s.tick := by
  unfold State.modHal
  split <;> exact ⟨rfl, rfl, rfl, rfl⟩

theorem modSlot_spec (x : Halyard) (i : Nat) (f : HSlot → HSlot) :
    (x.modSlot i f).round = x.round ∧ (x.modSlot i f).latest = x.latest ∧ (x.modSlot i f).inUse = x.inUse ∧
    (x.modSlot i f).slots[i]? = x.slots[i]?.map f := by
  unfold Halyard.modSlot
  split
  next e he =>
    obtain ⟨hi, hget⟩ := List.getElem?_eq_some_iff.1 he
    refine ⟨rfl, rfl, rfl, ?_⟩
    rw [he]
    exact List.getElem?_set_self hi
  next he => exact ⟨rfl, rfl, rfl, by rw [he]; rfl⟩

/-! Choosing a slot (R212). -/

theorem foldl_pick_mem {f : Nat → Nat → Nat} (hf : ∀ b j, f b j = b ∨ f b j = j) (l : List Nat) (i : Nat) : l.foldl f i ∈ i :: l := by
  induction l generalizing i with
  | nil => exact List.mem_singleton_self i
  | cons j l ih =>
    rw [List.foldl_cons]
    rcases List.mem_cons.1 (ih (f i j)) with h | h
    · rw [h]
      exact (hf i j).elim (fun hb => hb.symm ▸ List.mem_cons_self) fun hj => hj.symm ▸ List.mem_cons_of_mem i List.mem_cons_self
    · exact List.mem_cons_of_mem _ (List.mem_cons_of_mem _ h)

/-- The slot that a hoist takes is neither the latest nor pinned. -/
theorem chooseSlot_free {s : State} {x : Halyard} {i : Nat} (h : chooseSlot s x = some i) :
    x.latest ≠ some i ∧ ∀ e, x.slots[i]? = some e → e.pins = 0 := by
  have hok : i ∈ (List.range x.slots.length).filter fun i => x.latest != some i && (x.slots[i]?.any fun e => e.pins == 0) := by
    unfold chooseSlot at h
    dsimp only at h
    split at h
    next j r hidle =>
      have hmem : i ∈ j :: r := by
        rw [← Option.some.inj h]
        exact foldl_pick_mem (fun _ _ => (ite_eq_or_eq _ _ _).symm) r j
      exact (List.mem_filter.1 (hidle ▸ hmem)).1
    next hidle =>
      split at h
      next j r hok =>
        have hmem : i ∈ j :: r := by
          rw [← Option.some.inj h]
          exact foldl_pick_mem (fun _ _ => (ite_eq_or_eq _ _ _).symm) r j
        exact hok ▸ hmem
      next => exact nomatch h
  obtain ⟨hlatest, hpins⟩ := (Bool.and_eq_true _ _).mp (List.mem_filter.1 hok).2
  refine ⟨bne_iff_ne.1 hlatest, fun e he => ?_⟩
  rw [he] at hpins
  exact beq_iff_eq.1 hpins

/-! What the controller delivers and writes. -/

theorem halDeliver_core (o : HalOp) (n : Nat) (v : W64) (s : State) :
    (halDeliver o n v s).core.get o.core = (s.core.get o.core).deliver .ctl n 0 o.seq (.s o.dst v) := State.modC_get s o.core _

/-- A status is on its way to the core of the operation. -/
theorem halDeliver_pend (o : HalOp) (n : Nat) (v : W64) (s : State) :
    ∃ d ∈ ((halDeliver o n v s).core.get o.core).pend, d.eff = .s o.dst v := by
  rw [halDeliver_core]
  exact ⟨_, (mem_insDel _ _ _).2 (.inl rfl), rfl⟩

theorem markCells_hal (cells : List Host.Cell) (bad : Option Nat) (s : State) :
    (markCells cells bad s).dev.hal = s.dev.hal ∧ (markCells cells bad s).dev.hops = s.dev.hops ∧ (markCells cells bad s).tick = s.tick := by
  unfold markCells markPieces
  dsimp only
  split
  · exact ⟨rfl, rfl, rfl⟩
  · split <;> exact ⟨rfl, rfl, rfl⟩

theorem markWritten_frame (cells : List (Host.Cell × Option Nat)) (s : State) :
    (markWritten cells s).mem = s.mem ∧ (markWritten cells s).core = s.core ∧ (markWritten cells s).dev.hal = s.dev.hal ∧
    (markWritten cells s).agenda = s.agenda := by
  have hmark (cells : List Host.Cell) (bad : Option Nat) (s : State) : (markCells cells bad s).mem = s.mem ∧
      (markCells cells bad s).core = s.core ∧ (markCells cells bad s).dev.hal = s.dev.hal ∧ (markCells cells bad s).agenda = s.agenda := by
    obtain ⟨hm, ha, hc⟩ := markCells_frame cells bad s
    exact ⟨hm, hc, (markCells_hal cells bad s).1, ha⟩
  have hfold (l : List (Host.Cell × Option Nat)) (s : State) : (l.foldl (fun s c => markCells [c.1] c.2 s) s).mem = s.mem ∧
      (l.foldl (fun s c => markCells [c.1] c.2 s) s).core = s.core ∧ (l.foldl (fun s c => markCells [c.1] c.2 s) s).dev.hal = s.dev.hal ∧
      (l.foldl (fun s c => markCells [c.1] c.2 s) s).agenda = s.agenda := by
    induction l generalizing s with
    | nil => exact ⟨rfl, rfl, rfl, rfl⟩
    | cons c l ih =>
      obtain ⟨h1, h2, h3, h4⟩ := ih (markCells [c.1] c.2 s)
      obtain ⟨k1, k2, k3, k4⟩ := hmark [c.1] c.2 s
      exact ⟨h1.trans k1, h2.trans k2, h3.trans k3, h4.trans k4⟩
  unfold markWritten
  dsimp only
  obtain ⟨h1, h2, h3, h4⟩ := hfold (cells.filter (·.2.isSome))
    (markCells ((cells.map (·.1)).filter fun c => !((cells.filter (·.2.isSome)).map fun c => c.1.1 / 64).eraseDups.contains (c.1 / 64)) none s)
  obtain ⟨k1, k2, k3, k4⟩ := hmark
    ((cells.map (·.1)).filter fun c => !((cells.filter (·.2.isSome)).map fun c => c.1.1 / 64).eraseDups.contains (c.1 / 64)) none s
  exact ⟨h1.trans k1, h2.trans k2, h3.trans k3, h4.trans k4⟩

section
variable {s : State} {o : HalOp} {x : Halyard} (ho : s.hop? s.arg.id = some o)

include ho in
theorem execHoistLand_gone (hg : o.gone = true) : ∃ t, execHoistLand s = .next t ∧ t.dev = s.dev ∧ t.mem = s.mem := by
  refine ⟨s.after (4 * halD s o.core (BitVec.ofNat 16 o.hal)) (.ev .halyardTokenComplete { Arg.zero with id := o.id }), ?_, rfl, rfl⟩
  unfold execHoistLand
  rw [ho]
  dsimp only
  rw [if_pos hg]

/-- A halyard whose slot i a hoist has filled. -/
def Halyard.landed (x : Halyard) (i : Nat) : Halyard :=
  { x with round := x.round + 1, latest := some i }.modSlot i fun e => { e with round := x.round + 1, writer := none, written := true }

include ho in
theorem execHoistLand_lands (hx : tfind s.dev.hal o.hal = some x) {i : Nat} (hi : o.slot = some i) (hg : o.gone = false) :
    ∃ t, execHoistLand s = .next t ∧ tfind t.dev.hal o.hal = some (x.landed i) ∧
      t.mem = memWrs s.mem (cellsAt (halKey x.handle (i * x.tile)) o.buf) ∧ t.core = s.core := by
  let u := fillSlot o x i s
  obtain ⟨hmem, hcore, hhal, -⟩ := markWritten_frame
    ((cellsAt (halKey x.handle (i * x.tile)) o.buf).map fun c => (c, tfind o.bad ((c.1 - halKey x.handle (i * x.tile)) / 64)))
    { s with mem := memWrs s.mem (cellsAt (halKey x.handle (i * x.tile)) o.buf) }
  have hux : tfind u.dev.hal o.hal = some x := (congrArg (tfind · o.hal) hhal).trans hx
  obtain ⟨hm, hc, -⟩ := modHal_frame u o.hal fun x => x.landed i
  have hexec : execHoistLand s = .next ((u.modHal o.hal fun x => x.landed i).after
      (4 * halD (u.modHal o.hal fun x => x.landed i) o.core (BitVec.ofNat 16 o.hal))
      (.ev .halyardTokenComplete { Arg.zero with id := o.id })) := by
    unfold execHoistLand
    rw [ho]
    dsimp only
    rw [hg, hi, hx]
    rfl
  exact ⟨_, hexec, tfind_modHal _ hux, hm.trans hmem, hc.trans hcore⟩

include ho in
/-- A hoist takes the slot that is chosen for it (R212). -/
theorem execHoistSlotTake_takes (hx : tfind s.dev.hal o.hal = some x) {i : Nat} (hi : chooseSlot s x = some i) :
    ∃ t, execHoistSlotTake s = .next t ∧ (t.hop? s.arg.id).map (·.slot) = some (some i) ∧ t.mem = s.mem ∧
      ∃ d ∈ (t.core.get o.core).pend, d.eff = .s o.dst (BitVec.ofNat 64 i) := by
  let s1 := match (x.slots[i]?.bind (·.writer)) with
    | some w => s.modHop w fun p => { p with gone := true }
    | none => s
  let s2 := (s1.modHal o.hal fun x => x.modSlot i fun e => { e with writer := some o.id }).modHop o.id fun p => { p with slot := some i, t0 := s.tick }
  let s3 := halDeliver o (s.tick + 4 * halD s o.core x.handle) (BitVec.ofNat 64 i) s2
  have hexec : execHoistSlotTake s = .next (if s3.has (.tile o.id) then s3 else s3.after 4 (.tile o.id)) := by
    unfold execHoistSlotTake
    rw [ho]
    dsimp only
    rw [hx]
    dsimp only
    rw [hi] <;> rfl
  have hs1 : s1.mem = s.mem ∧ ∃ p, s1.hop? s.arg.id = some p ∧ p.id = o.id := by
    unfold s1
    split
    next w hw =>
      refine ⟨rfl, _, (hop?_modHop s w s.arg.id (fun p => { p with gone := true }) fun _ => rfl).trans (congrArg (Option.map _) ho), ?_⟩
      exact apply_ite HalOp.id .. |>.trans (ite_self _)
    next => exact ⟨rfl, o, ho, rfl⟩
  obtain ⟨hmem1, p, hp, hpid⟩ := hs1
  obtain ⟨hmem2, -, hhops, -⟩ := modHal_frame s1 o.hal fun x => x.modSlot i fun e => { e with writer := some o.id }
  have hp2 : (s1.modHal o.hal fun x => x.modSlot i fun e => { e with writer := some o.id }).hop? s.arg.id = some p :=
    (congrArg (fun l : List HalOp => l.find? fun p : HalOp => p.id == s.arg.id) hhops).trans hp
  have hslot : (s2.hop? s.arg.id).map (·.slot) = some (some i) := by
    rw [hop?_modHop _ o.id s.arg.id (fun p => { p with slot := some i, t0 := s.tick }) fun _ => rfl, hp2, Option.map_some, if_pos hpid]
    rfl
  have hlate (u : State) (hu : u.dev = s2.dev ∧ u.mem = s2.mem ∧ u.core = s3.core) : (u.hop? s.arg.id).map (·.slot) = some (some i) ∧
      u.mem = s.mem ∧ ∃ d ∈ (u.core.get o.core).pend, d.eff = .s o.dst (BitVec.ofNat 64 i) := by
    obtain ⟨hd, hm, hc⟩ := hu
    refine ⟨?_, hm.trans (hmem2.trans hmem1), ?_⟩
    · rw [State.hop?, hd]
      exact hslot
    · rw [hc]
      exact halDeliver_pend ..
  refine ⟨_, hexec, hlate _ ?_⟩
  split <;> exact ⟨rfl, rfl, rfl⟩

/-- A sight that ends without a tile (R211). -/
def sightEnds (o : HalOp) (x : Halyard) (st : Nat) (s : State) : State :=
  (halDeliver o (s.tick + 4 * halD s o.core x.handle) (sightWord 0 0 st) (s.modHop o.id fun p => { p with status := st })).after
    (4 * halD s o.core x.handle) (.ev .halyardTokenComplete { Arg.zero with id := o.id })

theorem sightEnds_pend (o : HalOp) (x : Halyard) (st : Nat) (s : State) :
    ∃ d ∈ ((sightEnds o x st s).core.get o.core).pend, d.eff = .s o.dst (sightWord 0 0 st) :=
  halDeliver_pend o _ _ (s.modHop o.id fun p => { p with status := st })

include ho in
theorem execSightPoint_empty (hx : tfind s.dev.hal o.hal = some x) (h : x.latest = none) : execSightPoint s = .next (sightEnds o x 1 s) := by
  unfold execSightPoint
  rw [ho]
  dsimp only
  rw [hx]
  dsimp only
  rw [h] <;> rfl

include ho in
theorem execSightPoint_full (hx : tfind s.dev.hal o.hal = some x) {i : Nat} (h : x.latest = some i) (hs : x.inUse = x.seats) :
    execSightPoint s = .next (sightEnds o x 2 s) := by
  unfold execSightPoint
  rw [ho]
  dsimp only
  rw [hx]
  dsimp only
  rw [h]
  exact if_pos hs

include ho in
/-- A sight pins the latest slot (R211). -/
theorem execSightPoint_pins (hx : tfind s.dev.hal o.hal = some x) {i : Nat} {e : HSlot} (h : x.latest = some i) (hs : x.inUse ≠ x.seats)
    (he : x.slots[i]? = some e) : ∃ t, execSightPoint s = .next t ∧
      tfind t.dev.hal o.hal = some ({ x with inUse := x.inUse + 1 }.modSlot i fun e => { e with pins := e.pins + 1 }) ∧ t.mem = s.mem ∧
      ∃ d ∈ (t.core.get o.core).pend, d.eff = .s o.dst (sightWord (x.round - e.round) i 0) := by
  let u := s.modHal o.hal fun x => { x with inUse := x.inUse + 1 }.modSlot i fun e => { e with pins := e.pins + 1 }
  let u1 := u.modHop o.id fun p => { p with slot := some i, t0 := s.tick, buf := memBytes s.mem (halKey x.handle (i * x.tile)) x.tile }
  obtain ⟨hmem, -⟩ := modHal_frame s o.hal fun x => { x with inUse := x.inUse + 1 }.modSlot i fun e => { e with pins := e.pins + 1 }
  have hget : x.slots.getD i ⟨0, 0, none, false⟩ = e := by rw [List.getD_eq_getElem?_getD, he]; rfl
  have hexec : execSightPoint s = .next
      (((halDeliver o (s.tick + 4 * halD s o.core x.handle) (sightWord (x.round - e.round) i 0) u1).after (4 * tileU x.tile)
        (.ev .sightRelease { Arg.zero with id := o.id })).after 4 (.tile o.id)) := by
    unfold execSightPoint
    rw [ho]
    dsimp only
    rw [hx]
    dsimp only
    rw [h]
    dsimp only
    rw [if_neg hs, hget]
  exact ⟨_, hexec, tfind_modHal _ hx, hmem, halDeliver_pend o (s.tick + 4 * halD s o.core x.handle) (sightWord (x.round - e.round) i 0) u1⟩

include ho in
theorem execSightRelease_frees {i : Nat} (hi : o.slot = some i) : execSightRelease s =
    .next (s.modHal o.hal fun x => { x with inUse := x.inUse - 1 }.modSlot i fun e => { e with pins := e.pins - 1 }) := by
  unfold execSightRelease
  rw [ho]
  dsimp only
  rw [hi]

theorem CoreSt.complete_til (k : CoreSt) (t : BitVec 6) (g : Nat) : (k.complete t g).til = k.til := by
  unfold complete
  split
  · rfl
  · dsimp only
    split <;> rfl

theorem CoreSt.tokPending_complete (k : CoreSt) {t : BitVec 6} {g : Nat} (ht : t ≠ 0) (hg : (k.tok[t.toNat]'t.isLt).gen = g) :
    (k.complete t g).tokPending t = false := by
  rw [complete, if_neg ht]
  dsimp only
  rw [if_pos hg]
  exact tokPending_setTok_self k { k.tok[t.toNat]'t.isLt with pending := false } ht

include ho in
/-- The end of an operation (R210). -/
theorem execHalyardTokenComplete_ends : ∃ t, execHalyardTokenComplete s = .next t ∧ t.hop? s.arg.id = none ∧
    t.core.get o.core = { (s.core.get o.core).complete o.tok o.gen with til := (s.core.get o.core).til - 1 } ∧ t.mem = s.mem := by
  have hexec : execHalyardTokenComplete s = .next ((s.modC o.core fun k => { k.complete o.tok o.gen with til := k.til - 1 }).modD fun d =>
      { d with hops := d.hops.filter (·.id != o.id) }) := by
    unfold execHalyardTokenComplete
    rw [ho]
  refine ⟨_, hexec, ?_, State.modC_get s o.core fun k => { k.complete o.tok o.gen with til := k.til - 1 }, rfl⟩
  refine List.find?_eq_none.2 fun p hp hpid => ?_
  have hne := bne_iff_ne.1 (List.mem_filter.1 hp).2
  exact hne ((beq_iff_eq.1 hpid).trans (hop?_id ho).symm)

end

/-- Settles O44: each step of the controller by what the halyard holds. -/
theorem halyardSteps : Obligations.HalyardSteps := by
  unfold Obligations.HalyardSteps
  intro s o x ho hx
  refine ⟨fun i hi => ?_, fun i hi hg hlt => ?_, fun hg => execHoistLand_gone ho hg, fun h => ?_, fun i h hs => ?_,
    fun i e h hs he => ?_, fun i e hi he => ?_, ?_⟩
  · obtain ⟨hlatest, hpins⟩ := chooseSlot_free hi
    exact ⟨hlatest, hpins, execHoistSlotTake_takes ho hx hi⟩
  · obtain ⟨t, hexec, hy, hmem, hcore⟩ := execHoistLand_lands ho hx hi hg
    obtain ⟨hround, hlatest, -, hslot⟩ := modSlot_spec { x with round := x.round + 1, latest := some i } i fun e =>
      { e with round := x.round + 1, writer := none, written := true }
    refine ⟨t, _, hexec, hy, hround, hlatest, ?_, hmem, hcore⟩
    have hget : x.slots[i]? = some x.slots[i] := List.getElem?_eq_getElem hlt
    have hs : (x.landed i).slots[i]? = some _ := hslot.trans (congrArg _ hget)
    rw [hs]
    rfl
  · exact ⟨_, execSightPoint_empty ho hx h, hx, sightEnds_pend o x 1 s⟩
  · exact ⟨_, execSightPoint_full ho hx h hs, hx, sightEnds_pend o x 2 s⟩
  · obtain ⟨t, hexec, hy, hmem, hpend⟩ := execSightPoint_pins ho hx h hs he
    obtain ⟨-, -, huse, hslot⟩ := modSlot_spec { x with inUse := x.inUse + 1 } i fun e => { e with pins := e.pins + 1 }
    refine ⟨t, _, hexec, hy, huse, ?_, hmem, hpend⟩
    rw [hslot.trans (congrArg _ he)]
    rfl
  · obtain ⟨-, -, huse, hslot⟩ := modSlot_spec { x with inUse := x.inUse - 1 } i fun e => { e with pins := e.pins - 1 }
    refine ⟨_, _, execSightRelease_frees ho hi, tfind_modHal _ hx, huse, ?_, (modHal_frame ..).1⟩
    rw [hslot.trans (congrArg _ he)]
    rfl
  · obtain ⟨t, hexec, hnone, hcore, hmem⟩ := execHalyardTokenComplete_ends ho
    refine ⟨t, hexec, hnone, by rw [hcore], fun ht hg => ?_, hmem⟩
    rw [hcore]
    exact CoreSt.tokPending_complete _ ht hg

end Sys2Proof.Machine
end

section
/-! O43: deliveries of counted operations, and the steps that answer a core. -/

namespace Sys2Proof.Machine

/-! Deliveries of counted operations (R180, R181, R190). -/

theorem mem_deliver_pend (k : CoreSt) (x : Dom) (b n seq : Nat) (e : Eff) (d : Delivery) :
    d ∈ (k.deliver x b n seq e).pend ↔ d = ⟨x, n, b + n * k.div.get x, seq, e⟩ ∨ d ∈ k.pend := mem_insDel _ _ _

/-- What a counted operation delivers, and what it leaves. -/
theorem deliverCop_spec (k : CoreSt) (t : Nat) (o : Cop) (v : W64) (clear : Bool) :
    let u := k.deliverCop t o v clear
    u.loads = k.loads.filter (·.id != o.id) ∧ (⟨.ctl, 0, t, o.seq, .s o.dst v⟩ : Delivery) ∈ u.pend ∧
    (clear = true → (⟨.ctl, 0, t, o.seq, .p o.pj 0 0xFFFFFFFFFFFFFFFF⟩ : Delivery) ∈ u.pend) ∧
    (∀ r, o.kind = .racq r → (⟨.ctl, 0, t, o.seq, .racq r (v.setWidth 48)⟩ : Delivery) ∈ u.pend) ∧ (∀ d ∈ k.pend, d ∈ u.pend) ∧ u.r = k.r := by
  let k2 := { k with loads := k.loads.filter fun x => x.id != o.id }.deliver .ctl t 0 o.seq (.s o.dst v)
  let k3 := if clear then k2.deliver .ctl t 0 o.seq (.p o.pj 0 (BitVec.allOnes 64)) else k2
  have hzero (n : Nat) : t + 0 * n = t := by rw [Nat.zero_mul, Nat.add_zero]
  have hk2 : (⟨.ctl, 0, t, o.seq, .s o.dst v⟩ : Delivery) ∈ k2.pend ∧ ∀ d ∈ k.pend, d ∈ k2.pend := by
    refine ⟨(mem_deliver_pend ..).2 (.inl ?_), fun d hd => (mem_deliver_pend ..).2 (.inr hd)⟩
    rw [hzero]
  have hk3 : (∀ d ∈ k2.pend, d ∈ k3.pend) ∧ (clear = true → (⟨.ctl, 0, t, o.seq, .p o.pj 0 (BitVec.allOnes 64)⟩ : Delivery) ∈ k3.pend) ∧
      k3.loads = k2.loads ∧ k3.r = k2.r := by
    unfold k3
    cases clear with
    | false => exact ⟨fun d hd => hd, (nomatch ·), rfl, rfl⟩
    | true =>
      refine ⟨fun d hd => (mem_deliver_pend ..).2 (.inr hd), fun _ => (mem_deliver_pend ..).2 (.inl ?_), rfl, rfl⟩
      rw [hzero]
  have hu : (∀ d ∈ k3.pend, d ∈ (k.deliverCop t o v clear).pend) ∧
      (∀ r, o.kind = .racq r → (⟨.ctl, 0, t, o.seq, .racq r (v.setWidth 48)⟩ : Delivery) ∈ (k.deliverCop t o v clear).pend) ∧
      (k.deliverCop t o v clear).loads = k3.loads ∧ (k.deliverCop t o v clear).r = k3.r := by
    unfold CoreSt.deliverCop
    dsimp only
    split
    next r hr =>
      refine ⟨fun d hd => (mem_deliver_pend ..).2 (.inr hd), fun r' hr' => (mem_deliver_pend ..).2 (.inl ?_), rfl, rfl⟩
      rw [hzero, CopKind.racq.inj (hr.symm.trans hr')]
    next hr => exact ⟨fun d hd => hd, fun r hr' => absurd hr' (hr r), rfl, rfl⟩
  exact ⟨hu.2.2.1.trans hk3.2.2.1, hu.1 _ (hk3.1 _ hk2.1), fun hc => hu.1 _ (hk3.2.1 hc), hu.2.1,
    fun d hd => hu.1 _ (hk3.1 _ (hk2.2 d hd)), hu.2.2.2.trans hk3.2.2.2⟩

section
variable {s : State} {o : Cop} {v : W64} {clear : Bool} (ho : (s.core.get s.arg.c).loads.find? (·.id == s.arg.id) = some o)
  (hv : o.val = some (v, clear))
include ho hv

theorem execLoadDelivery_waits
    (h : ((s.core.get s.arg.c).loads.any fun x => decide (x.seq < o.seq) && x.dst == o.dst && x.dst != 0) = true) :
    execLoadDelivery s = .next (s.at ((s.core.get s.arg.c).edge .ctl (s.tick + 1)) (.ev .loadDelivery (argCI s.arg.c o.id))) := by
  unfold execLoadDelivery
  dsimp only
  rw [ho]
  dsimp only
  rw [hv]
  exact if_pos h

theorem execLoadDelivery_delivers (hp : copPoison s s.arg.c o = none)
    (h : ((s.core.get s.arg.c).loads.any fun x => decide (x.seq < o.seq) && x.dst == o.dst && x.dst != 0) = false) :
    execLoadDelivery s = .next (s.modC s.arg.c fun k => k.deliverCop s.tick o v clear) := by
  unfold execLoadDelivery
  dsimp only
  rw [ho]
  dsimp only
  rw [hv]
  dsimp only
  rw [h, hp]
  rfl

end

/-! Answers (R190, R214, R340). -/

/-- An operation of a core whose result is known. -/
theorem mem_finished {s : State} {c : CoreId} {id : Nat} {v : W64} {o : Cop} (ho : o ∈ (s.core.get c).loads) (hid : o.id = id) :
    { o with val := some (v, false) } ∈ ((s.modC c fun k =>
      { k with loads := k.loads.map fun o => if o.id = id then { o with val := some (v, false) } else o }).core.get c).loads := by
  rw [State.modC_get]
  exact List.mem_map.2 ⟨o, ho, if_pos hid⟩

theorem complete_loads (k : CoreSt) (t : BitVec 6) (g : Nat) : (k.complete t g).loads = k.loads := by
  unfold CoreSt.complete
  split
  · rfl
  · dsimp only
    split <;> rfl

/-- Settling tokens changes no operation of a core, no view and no barrier (R214). -/
theorem settleTokens_spec (y : Isl) (s : State) :
    let t := settleTokens y s
    t.mem = s.mem ∧ t.isl = s.isl ∧ t.dev.barr = s.dev.barr ∧ t.arg = s.arg ∧ (∀ c, (t.core.get c).loads = (s.core.get c).loads) ∧
    ∀ e ∈ t.dev.btok, islOf e.1 = y → passed (viewOf t y e.2.2.2.1) e.2.2.2.2 = false := by
  have hfold (l : List (CoreId × BitVec 6 × Nat × Nat × BitVec 32)) (s : State) :
      let t := l.foldl (fun s e => s.modC e.1 fun k => k.complete e.2.1 e.2.2.1) s
      t.mem = s.mem ∧ t.isl = s.isl ∧ t.dev = s.dev ∧ t.arg = s.arg ∧ ∀ c, (t.core.get c).loads = (s.core.get c).loads := by
    induction l generalizing s with
    | nil => exact ⟨rfl, rfl, rfl, rfl, fun _ => rfl⟩
    | cons e l ih =>
      obtain ⟨h1, h2, h3, h4, h5⟩ := ih (s.modC e.1 fun k => k.complete e.2.1 e.2.2.1)
      refine ⟨h1, h2, h3, h4, fun c => (h5 c).trans ?_⟩
      rw [State.modC_get_if]
      split
      · exact complete_loads ..
      · rfl
  intro t
  obtain ⟨h1, h2, h3, h4, h5⟩ := hfold (s.dev.btok.filter fun e => islOf e.1 == y && passed (viewOf s y e.2.2.2.1) e.2.2.2.2) s
  have hview (k : Nat) : viewOf t y k = viewOf s y k := congrArg (fun v : Vector IslandSt 4 => tget 0 (v.get y).views k) h2
  refine ⟨h1, h2, (congrArg DevSt.barr h3 :), h4, h5, fun e he hy => ?_⟩
  have hkeep := (List.mem_filter.1 he).2
  rw [hview]
  dsimp only at hkeep
  rw [hy, beq_self_eq_true, Bool.true_and, Bool.not_eq_true'] at hkeep
  exact hkeep

theorem Barrier.arrive_g {b : Barrier} {n : Nat} (h : (b.arrive n).2.g ≠ b.g) : (b.arrive n).2.g = b.g + 1 := by
  obtain ⟨-, -, -, hlast, hmore⟩ := Barrier.arrive_spec b n
  by_cases hn : b.c + 1 = b.phaseSize n
  · exact (hlast hn).1
  · exact absurd (hmore hn).1 h

/-- The generation that a finished phase gives island y: at the home at once, elsewhere by a message (R214). -/
def spreadTo (h : Isl) (k : Nat) (g : BitVec 32) (s : State) (y : Isl) : State :=
  if y = h then s.modI h fun i => { i with views := tset i.views k g }
  else sendMsg h y .barrierViewUpdate { Arg.zero with y := y, k := k, n := g.toNat } s

theorem spreadTo_spec (h : Isl) (k : Nat) (g : BitVec 32) (s : State) (y : Isl) :
    let t := spreadTo h k g s y
    t.mem = s.mem ∧ t.core = s.core ∧ t.dev = s.dev ∧ (y = h ∨ viewOf s h k = g → viewOf t h k = g) := by
  have hset : viewOf (s.modI h fun i => { i with views := tset i.views k g }) h k = g := by
    rw [viewOf, State.modI_get]
    exact tget_tset_self ..
  unfold spreadTo
  split
  next hy => exact ⟨rfl, rfl, rfl, fun _ => hset⟩
  next hy => exact ⟨rfl, rfl, rfl, fun hv => hv.resolve_left hy⟩

theorem mem_islIds (y : Isl) : y ∈ islIds := by
  revert y
  decide

theorem spreadView_spec (h : Isl) (k : Nat) (g : BitVec 32) (s : State) :
    let t := islIds.foldl (spreadTo h k g) s
    t.mem = s.mem ∧ t.core = s.core ∧ t.dev = s.dev ∧ viewOf t h k = g := by
  have hfold (l : List Isl) (s : State) : (l.foldl (spreadTo h k g) s).mem = s.mem ∧ (l.foldl (spreadTo h k g) s).core = s.core ∧
      (l.foldl (spreadTo h k g) s).dev = s.dev ∧ (h ∈ l ∨ viewOf s h k = g → viewOf (l.foldl (spreadTo h k g) s) h k = g) := by
    induction l generalizing s with
    | nil => exact ⟨rfl, rfl, rfl, fun hv => hv.resolve_left List.not_mem_nil⟩
    | cons y l ih =>
      obtain ⟨h1, h2, h3, h4⟩ := ih (spreadTo h k g s y)
      obtain ⟨k1, k2, k3, k4⟩ := spreadTo_spec h k g s y
      refine ⟨h1.trans k1, h2.trans k2, h3.trans k3, fun hv => h4 ?_⟩
      rcases hv with hv | hv
      · exact (List.mem_cons.1 hv).symm.imp_right fun hy => k4 (.inl hy.symm)
      · exact .inr (k4 (.inr hv))
  obtain ⟨h1, h2, h3, h4⟩ := hfold islIds s
  exact ⟨h1, h2, h3, h4 (.inl (mem_islIds h))⟩

/-- BARRIER_ARRIVAL (R214): the barrier after the arrival, the captured generation for the operation, and the home's view. -/
theorem execBarrierArrival_spec (s : State) : ∃ t, execBarrierArrival s = .next t ∧ t.mem = s.mem ∧
    let b := tget ⟨0, 0, 0, 0⟩ s.dev.barr s.arg.k
    tget ⟨0, 0, 0, 0⟩ t.dev.barr s.arg.k = (b.arrive s.arg.n).2 ∧
    (∀ o ∈ (s.core.get s.arg.c).loads, o.id = s.arg.id →
      { o with val := some (b.g.setWidth 64, false) } ∈ (t.core.get s.arg.c).loads) ∧
    ((b.arrive s.arg.n).2.g ≠ b.g → viewOf t (barrHome s.arg.k) s.arg.k = b.g + 1) := by
  unfold execBarrierArrival
  dsimp only
  have hcap := (Barrier.arrive_spec (tget ⟨0, 0, 0, 0⟩ s.dev.barr s.arg.k) s.arg.n).1
  have hnext := Barrier.arrive_g (b := tget ⟨0, 0, 0, 0⟩ s.dev.barr s.arg.k) (n := s.arg.n)
  generalize (tget ⟨0, 0, 0, 0⟩ s.dev.barr s.arg.k).arrive s.arg.n = p at hcap hnext ⊢
  generalize tget ⟨0, 0, 0, 0⟩ s.dev.barr s.arg.k = b at hcap hnext ⊢
  obtain ⟨cap, b'⟩ := p
  dsimp only at hcap hnext ⊢
  subst hcap
  generalize hs2 : (if b'.g = b.g then s.modD fun d => { d with barr := tset d.barr s.arg.k b' } else _) = s2
  have hs2 : s2.mem = s.mem ∧ s2.core = s.core ∧ s2.dev.barr = tset s.dev.barr s.arg.k b' ∧
      (b'.g ≠ b.g → viewOf s2 (barrHome s.arg.k) s.arg.k = b.g + 1) := by
    obtain ⟨h1, h2, h3, h4⟩ := spreadView_spec (barrHome s.arg.k) s.arg.k b'.g (s.modD fun d => { d with barr := tset d.barr s.arg.k b' })
    rw [← hs2]
    split
    next hg => exact ⟨rfl, rfl, rfl, fun hne => absurd hg hne⟩
    next hg => exact ⟨h1, h2, congrArg DevSt.barr h3, fun hne => h4.trans (hnext hne)⟩
  obtain ⟨a1, a2, a3, a4⟩ := hs2
  have hsettled (s3 : State) (b1 : s3.mem = s2.mem) (b2 : s3.core = s2.core) (b3 : s3.dev.barr = s2.dev.barr) (b4 : s3.isl = s2.isl) :
      let t := finishLater s.arg.c s.arg.id (b.g.setWidth 64) (msgTicks s (barrHome s.arg.k) (islOf s.arg.c))
        (settleTokens (barrHome s.arg.k) (settleTokens (islOf s.arg.c) s3))
      t.mem = s.mem ∧ tget ⟨0, 0, 0, 0⟩ t.dev.barr s.arg.k = b' ∧
      (∀ o ∈ (s.core.get s.arg.c).loads, o.id = s.arg.id →
        { o with val := some (b.g.setWidth 64, false) } ∈ (t.core.get s.arg.c).loads) ∧
      (b'.g ≠ b.g → viewOf t (barrHome s.arg.k) s.arg.k = b.g + 1) := by
    obtain ⟨c1, c2, c3, -, c5, -⟩ := settleTokens_spec (islOf s.arg.c) s3
    obtain ⟨d1, d2, d3, -, d5, -⟩ := settleTokens_spec (barrHome s.arg.k) (settleTokens (islOf s.arg.c) s3)
    generalize settleTokens (barrHome s.arg.k) (settleTokens (islOf s.arg.c) s3) = s4 at d1 d2 d3 d5 ⊢
    have hloads : (s4.core.get s.arg.c).loads = (s.core.get s.arg.c).loads := by rw [d5, c5, b2, a2]
    have hbarr : s4.dev.barr = tset s.dev.barr s.arg.k b' := d3.trans (c3.trans (b3.trans a3))
    have hisl : s4.isl = s2.isl := d2.trans (c2.trans b4)
    refine ⟨d1.trans (c1.trans (b1.trans a1)), ?_, fun o ho hid => mem_finished (hloads ▸ ho) hid, fun hne => ?_⟩
    · exact (congrArg (tget ⟨0, 0, 0, 0⟩ · s.arg.k) hbarr).trans (tget_tset_self ..)
    · exact (congrArg (fun v : Vector IslandSt 4 => tget 0 (v.get (barrHome s.arg.k)).views s.arg.k) hisl).trans (a4 hne)
  refine ⟨_, rfl, ?_⟩
  split
  · split
    · split
      · exact hsettled s2 rfl rfl rfl rfl
      · exact hsettled _ rfl rfl rfl rfl
    · exact hsettled s2 rfl rfl rfl rfl
  · exact hsettled s2 rfl rfl rfl rfl

/-! Rounds that a sweep raises (R262). -/

/-- What a sweep makes of a round of index n of launch l. -/
def sweptRound (table : Tbl Round) (l : Option Nat) (n : Nat) (old : Round) : Round :=
  match tfind table (roundKey l n) with
  | some v => if aheadBy46 v old then v - 0x400000000000 else old
  | none => old

theorem roundKey_iff {l : Option Nat} {n k : Nat} (hn : n < 4096) : k = roundKey l n ↔ k / 4096 = l.getD 4096 ∧ k % 4096 = n := by
  unfold roundKey
  omega

theorem tfind_none_of_not_mem {α : Type} {t : Tbl α} {k : Nat} (h : k ∉ t.map (·.1)) : tfind t k = none := by
  induction t with
  | nil => rfl
  | cons e t ih =>
    obtain ⟨hne, ht⟩ := not_or.1 fun hor => h (List.mem_cons.2 hor)
    rw [tfind, if_neg (Ne.symm hne), ih ht]

/-- A sweep raises the rounds of a launch by the island's table, each by its own entry. -/
theorem tget_sweepTbl (table : Tbl Round) (l : Option Nat) (t : Tbl Round) {n : Nat} (hn : n < 4096) (hnd : (table.map (·.1)).Nodup) :
    tget 0 (sweepTbl table l t) n = sweptRound table l n (tget 0 t n) := by
  unfold sweepTbl
  induction table generalizing t with
  | nil => rfl
  | cons e table ih =>
    obtain ⟨k, v⟩ := e
    obtain ⟨hk, hnd⟩ := List.nodup_cons.1 hnd
    rw [List.foldl_cons, ih _ hnd]
    by_cases hkey : k = roundKey l n
    · obtain ⟨hl, hi⟩ := (roundKey_iff hn).1 hkey
      have hrest : tfind table (roundKey l n) = none := tfind_none_of_not_mem (hkey ▸ hk)
      have hfirst : tfind ((k, v) :: table) (roundKey l n) = some v := by rw [tfind, if_pos hkey]
      rw [sweptRound, sweptRound, hrest, hfirst]
      dsimp only
      rw [hi]
      split
      next hc => rw [tget_tset_self, sweepUp, if_pos hc.2, if_pos hc.2]; rfl
      next hc => rw [if_neg fun ha => hc ⟨hl, ha⟩]
    · have hskip : tfind ((k, v) :: table) (roundKey l n) = tfind table (roundKey l n) := by rw [tfind, if_neg hkey]
      rw [sweptRound, sweptRound, hskip]
      have hsame : tget 0 (if k / 4096 = l.getD 4096 ∧ aheadBy46 v (tget 0 t (k % 4096)) = true then
          tset t (k % 4096) (sweepUp v (tget 0 t (k % 4096))) else t) n = tget 0 t n := by
        split
        next hc => exact tget_tset_ne _ _ _ fun hi => hkey ((roundKey_iff hn).2 ⟨hc.1, hi.symm⟩)
        next hc => rfl
      rw [hsame]

/-- A core of a swept island. -/
def CoreSt.swept (rounds : Tbl Round) (k : CoreSt) : CoreSt :=
  { k with
    r := { k.r with rr := sweepTbl rounds k.launch k.r.rr, fl := sweepTbl rounds k.launch k.r.fl }
    ck := { k.ck with rr := sweepTbl rounds k.launch k.ck.rr, fl := sweepTbl rounds k.launch k.ck.fl } }

/-- REGION_SWEEP (R262): the copies that are left, and each core of the island. -/
theorem execRegionSweep_spec (s : State) : ∃ t, execRegionSweep s = .next t ∧ t.mem = s.mem ∧
    (t.isl.get s.arg.y).copies = (s.isl.get s.arg.y).copies.filter (fun e =>
      !(e.2.st == .Rg && aheadBy46 (tget 0 (s.isl.get s.arg.y).rounds e.2.key) e.2.round)) ∧
    ∀ c, islOf c = s.arg.y → t.core.get c = (s.core.get c).swept (s.isl.get s.arg.y).rounds := by
  let i := s.isl.get s.arg.y
  let s1 := s.modI s.arg.y fun i => { i with copies := i.copies.filter fun e => !(e.2.st == .Rg && aheadBy46 (tget 0 i.rounds e.2.key) e.2.round) }
  let f (c : CoreId) (k : CoreSt) : CoreSt := if islOf c = s.arg.y then k.swept i.rounds else k
  have hstep : (fun (s' : State) (c : CoreId) => if islOf c = s.arg.y then s'.modC c fun k => k.swept i.rounds else s') =
      fun s' c => s'.modC c (f c) := by
    funext s' c
    split
    next h => rw [show f c = fun k => k.swept i.rounds from funext fun k => if_pos h]
    next h => exact (State.modC_same s' (f c) (if_neg h)).symm
  have hexec : execRegionSweep s = .next (coreIds.foldl (fun s c => s.modC c (f c)) s1) := by
    rw [← hstep]
    rfl
  obtain ⟨hmem, -, -, -, hisl, -⟩ := foldl_modC_frame f coreIds s1
  refine ⟨_, hexec, hmem, ?_, fun c hc => ?_⟩
  · rw [hisl]
    exact congrArg IslandSt.copies (State.modI_get s s.arg.y fun i =>
      { i with copies := i.copies.filter fun e => !(e.2.st == .Rg && aheadBy46 (tget 0 i.rounds e.2.key) e.2.round) })
  · rw [modC_coreIds_get]
    exact if_pos hc

/-! Forced publishes and evictions (R250, R348). -/

theorem foldl_now_spec {α : Type} (f : α → Instr × Arg) (l : List α) (s : State) :
    let t := l.foldl (fun s x => s.now (f x).1 (f x).2) s
    t.mem = s.mem ∧ t.core = s.core ∧ (∀ d, s.has d = true → t.has d = true) ∧ ∀ x ∈ l, t.has (.ev (f x).1 (f x).2) = true := by
  induction l generalizing s with
  | nil => exact ⟨rfl, rfl, fun _ h => h, fun x h => absurd h List.not_mem_nil⟩
  | cons x l ih =>
    obtain ⟨h1, h2, h3, h4⟩ := ih (s.now (f x).1 (f x).2)
    have hkeep (d : Due) (h : s.has d = true) : (s.now (f x).1 (f x).2).has d = true := by
      rw [has_iff] at h ⊢
      exact h.imp fun e he => ⟨List.mem_cons_of_mem _ he.1, he.2⟩
    refine ⟨h1, h2, fun d h => h3 d (hkeep d h), fun y hy => ?_⟩
    rcases List.mem_cons.1 hy with rfl | hy
    · exact h3 _ (has_now ..)
    · exact h4 y hy

/-- A core's stores performed next, each for the core that the step names. -/
theorem storesNow_arg {c : CoreId} (l : List Sto) (s : State) (h : s.arg.c = c) :
    l.foldl (fun s t => s.now .storePerform (argCI s.arg.c t.id)) s = l.foldl (fun s t => s.now .storePerform (argCI c t.id)) s := by
  induction l generalizing s with
  | nil => rfl
  | cons t l ih =>
    rw [List.foldl_cons, List.foldl_cons, h]
    exact ih (s.now .storePerform (argCI c t.id)) h

/-- Filter bits of several lines cover those of each. -/
theorem foldl_filterBits_covers (l : List Nat) (f : W64) {x : Nat} (h : x ∈ l ∨ f &&& filterBits x = filterBits x) :
    l.foldl (fun f x => f ||| filterBits x) f &&& filterBits x = filterBits x := by
  have hcover (f g : W64) (hfg : g = filterBits x ∨ f &&& filterBits x = filterBits x) : (f ||| g) &&& filterBits x = filterBits x := by
    rcases hfg with rfl | hf
    · ext i hi
      simp only [BitVec.getElem_and, BitVec.getElem_or]
      cases (filterBits x)[i] <;> simp
    · rw [← hf]
      ext i hi
      simp only [BitVec.getElem_and, BitVec.getElem_or]
      cases f[i] <;> cases (filterBits x)[i] <;> simp
  induction l generalizing f with
  | nil => exact h.resolve_left List.not_mem_nil
  | cons y l ih =>
    refine ih _ ?_
    rcases h with h | h
    · rcases List.mem_cons.1 h with rfl | h
      · exact .inr (hcover f (filterBits x) (.inl rfl))
      · exact .inl h
    · exact .inr (hcover f (filterBits y) (.inr h))

/-- LINE_CACHE_EVICTION (R348). -/
theorem execLineCacheEviction_spec (s : State) : ∃ t, execLineCacheEviction s = .next t ∧
    (t.core.get s.arg.c).lc = (s.core.get s.arg.c).lc.filter (· != s.arg.line) ∧
    (∀ l ∈ (t.core.get s.arg.c).lc, lineSet l = lineSet s.arg.line → named t s.arg.c l = true) ∧ t.mem = s.mem := by
  let rest := (s.core.get s.arg.c).lc.filter (· != s.arg.line)
  let f := (rest.filter fun l => lineSet l == lineSet s.arg.line).foldl (fun f l => f ||| filterBits l) 0
  let t := (s.modC s.arg.c fun k => { k with lc := rest }).modI (islOf s.arg.c) fun i => { i with filt := tset i.filt (filtKey s.arg.c s.arg.line) f }
  have hlc : (t.core.get s.arg.c).lc = rest := congrArg CoreSt.lc (State.modC_get s s.arg.c fun k => { k with lc := rest })
  have hfilt : (t.isl.get (islOf s.arg.c)).filt = tset (s.isl.get (islOf s.arg.c)).filt (filtKey s.arg.c s.arg.line) f :=
    congrArg IslandSt.filt (State.modI_get (s.modC s.arg.c fun k => { k with lc := rest }) (islOf s.arg.c) fun i =>
      { i with filt := tset i.filt (filtKey s.arg.c s.arg.line) f })
  refine ⟨t, rfl, hlc, fun l hl hset => ?_, rfl⟩
  rw [hlc] at hl
  have hkey : filtKey s.arg.c l = filtKey s.arg.c s.arg.line := by rw [filtKey, filtKey, hset]
  have hin : l ∈ rest.filter fun l => lineSet l == lineSet s.arg.line := List.mem_filter.2 ⟨hl, beq_iff_eq.2 hset⟩
  unfold named
  dsimp only
  rw [hfilt, hkey, tget_tset_self]
  exact beq_iff_eq.2 (foldl_filterBits_covers _ _ (.inl hin))

/-- RACQ_ARRIVAL (R190). -/
theorem execRacqArrival_spec {s : State} {o : Cop} {r : Nat} (ho : (s.core.get s.arg.c).loads.find? (·.id == s.arg.id) = some o)
    (hr : o.kind = .racq r) : ∃ t, execRacqArrival s = .next t ∧ t.dev = s.dev ∧ (traceOn s s.arg.c 8 = false → t.mem = s.mem ∧ t.isl = s.isl) ∧
      { o with val := some ((tget 0 s.dev.prod (roundKey (s.core.get s.arg.c).launch r)).setWidth 64, false) } ∈
        (t.core.get s.arg.c).loads := by
  let u := traceEv s.arg.c 0x07 o.badr (BitVec.ofNat 64 r) s
  obtain ⟨hcore, hdev, -⟩ := beside_traceEv s.arg.c 0x07 o.badr (BitVec.ofNat 64 r) s
  obtain ⟨hmem, hisl, hd, hloads⟩ := finishFree_spec s.arg.c o.id
    ((tget 0 s.dev.prod (roundKey (s.core.get s.arg.c).launch r)).setWidth 64) u
  have hexec : execRacqArrival s =
      .next (finishFree s.arg.c o.id ((tget 0 s.dev.prod (roundKey (s.core.get s.arg.c).launch r)).setWidth 64) u) := by
    unfold execRacqArrival
    dsimp only
    rw [ho]
    dsimp only
    rw [hr]
  have hin : o ∈ (u.core.get s.arg.c).loads := by
    rw [show u.core = s.core from hcore]
    exact List.mem_of_find?_eq_some ho
  refine ⟨_, hexec, hd.trans hdev, fun hoff => ?_, hloads o hin rfl⟩
  have hu : u = s := if_neg (by rw [hoff]; decide)
  exact ⟨hmem.trans (congrArg State.mem hu), hisl.trans (congrArg State.isl hu)⟩

/-- Settles O43: each step by what it does to the operation that it answers. -/
theorem answersToACore : Obligations.AnswersToACore := by
  unfold Obligations.AnswersToACore
  refine ⟨?_, fun s => ⟨fun o r ho hr => execRacqArrival_spec ho hr, execBarrierArrival_spec s, ?_, ?_, ?_⟩,
    fun s => ⟨?_, execLineCacheEviction_spec s⟩⟩
  · intro s o v clear k ho hv hp older
    refine ⟨fun h => ?_, fun h => ⟨_, execLoadDelivery_waits ho hv h, rfl, rfl, has_at ..⟩⟩
    obtain ⟨h1, h2, h3, h4, h5, h6⟩ := deliverCop_spec k s.tick o v clear
    have hget : ((s.modC s.arg.c fun k => k.deliverCop s.tick o v clear).core.get s.arg.c) = k.deliverCop s.tick o v clear :=
      State.modC_get s s.arg.c _
    refine ⟨_, execLoadDelivery_delivers ho hv hp h, ?_⟩
    rw [hget]
    exact ⟨h1, h2, h3, h4, h5, rfl, h6⟩
  · let u := s.modI s.arg.y fun i => { i with views := tset i.views s.arg.k (BitVec.ofNat 32 s.arg.n) }
    obtain ⟨h1, h2, -, -, -, h6⟩ := settleTokens_spec s.arg.y u
    refine ⟨_, rfl, ?_, h1, h6⟩
    have hview : viewOf u s.arg.y s.arg.k = BitVec.ofNat 32 s.arg.n := by
      rw [viewOf, State.modI_get]
      exact tget_tset_self ..
    exact (congrArg (fun v : Vector IslandSt 4 => tget 0 (v.get s.arg.y).views s.arg.k) h2).trans hview
  · exact ⟨_, rfl, rfl, fun o ho hid => mem_finished ho hid, has_now ..⟩
  · obtain ⟨t, hexec, hmem, hcopies, hcores⟩ := execRegionSweep_spec s
    refine ⟨t, hexec, hmem, fun e he hrg => ?_, fun c n hc hn hnd => ?_⟩
    · have hkeep := (List.mem_filter.1 (hcopies ▸ he)).2
      rw [hrg] at hkeep
      simpa using hkeep
    · intro k up
      rw [hcores c hc]
      exact ⟨tget_sweepTbl _ _ _ hn hnd, tget_sweepTbl _ _ _ hn hnd, tget_sweepTbl _ _ _ hn hnd, tget_sweepTbl _ _ _ hn hnd⟩
  · obtain ⟨h1, h2, -, h4⟩ := foldl_now_spec (fun w : Sto => (.storePerform, argCI s.arg.c w.id)) (s.core.get s.arg.c).sto s
    dsimp only at h1 h2 h4
    exact ⟨_, congrArg Host.Outcome.next (storesNow_arg _ s rfl), h1, h2, h4⟩

end Sys2Proof.Machine
end

section
/-! SUPPORT. What the dispatcher leaves unchanged (R322 to R330, R343, R363). -/

namespace Sys2Proof.Machine

/-- t is s after the dispatcher has acted: cores are only asked to leave, and of storage only staging can change. -/
structure Dispatched (s t : State) : Prop where
  core : ∀ c, ∃ b, t.core.get c = { s.core.get c with preempt := b }
  sq : t.dev.sq = s.dev.sq
  purges : t.dev.purges = s.dev.purges
  waiting : ∀ y, (t.isl.get y).waiting = (s.isl.get y).waiting
  cur : t.cur = s.cur
  bun : t.bun = s.bun
  tick : t.tick = s.tick
  agenda : ∀ e ∈ s.agenda, e ∈ t.agenda
  mem : ∀ a, a < stgKey 0 0 0 ∨ holdKey 0 ≤ a → memRd t.mem a = memRd s.mem a

namespace Dispatched

theorem refl (s : State) : Dispatched s s :=
  ⟨fun _ => ⟨_, rfl⟩, rfl, rfl, fun _ => rfl, rfl, rfl, rfl, fun _ h => h, fun _ _ => rfl⟩

theorem trans {s t u : State} (h : Dispatched s t) (h' : Dispatched t u) : Dispatched s u where
  core c := by
    obtain ⟨b, hb⟩ := h.core c
    obtain ⟨b', hb'⟩ := h'.core c
    exact ⟨b', by rw [hb', hb]⟩
  sq := h'.sq.trans h.sq
  purges := h'.purges.trans h.purges
  waiting y := (h'.waiting y).trans (h.waiting y)
  cur := h'.cur.trans h.cur
  bun := h'.bun.trans h.bun
  tick := h'.tick.trans h.tick
  agenda e he := h'.agenda e (h.agenda e he)
  mem a ha := (h'.mem a ha).trans (h.mem a ha)

theorem foldl {α : Type} {f : State → α → State} (hf : ∀ (s : State) a, Dispatched s (f s a)) (l : List α) (s : State) :
    Dispatched s (l.foldl f s) := by
  induction l generalizing s with
  | nil => exact refl s
  | cons a l ih => exact (hf s a).trans (ih (f s a))

/-- A change of the device alone that leaves the queues and the purge blocks. -/
theorem modD (s : State) {f : DevSt → DevSt} (hq : (f s.dev).sq = s.dev.sq) (hp : (f s.dev).purges = s.dev.purges) :
    Dispatched s (s.modD f) :=
  ⟨fun _ => ⟨_, rfl⟩, hq, hp, fun _ => rfl, rfl, rfl, rfl, fun _ h => h, fun _ _ => rfl⟩

theorem now (s : State) (i : Instr) (a : Arg) : Dispatched s (s.now i a) :=
  ⟨fun _ => ⟨_, rfl⟩, rfl, rfl, fun _ => rfl, rfl, rfl, rfl, fun _ h => List.mem_cons_of_mem _ h, fun _ _ => rfl⟩

/-- Storage alone has changed, in staging. -/
theorem staging {s : State} {m : List Host.Cell} (n : Nat) (h : ∀ a, a < stgKey 0 0 0 ∨ holdKey 0 ≤ a → memRd m a = memRd s.mem a) :
    Dispatched s { s with free := n, mem := m } :=
  ⟨fun _ => ⟨_, rfl⟩, rfl, rfl, fun _ => rfl, rfl, rfl, rfl, fun _ h => h, h⟩

/-- A change of an island that leaves its records. -/
theorem modI (s : State) (y : Isl) {f : IslandSt → IslandSt} (hf : ∀ i, (f i).waiting = i.waiting) : Dispatched s (s.modI y f) := by
  refine ⟨fun _ => ⟨_, rfl⟩, rfl, rfl, fun z => ?_, rfl, rfl, rfl, fun _ h => h, fun _ _ => rfl⟩
  rw [State.modI_get_if]
  split
  · exact hf _
  · rfl

end Dispatched

/-! Accounts and scores (R240, R376). -/

theorem dispatched_chargeCtx (cx : BitVec 7) (s : State) : Dispatched s (chargeCtx cx s) :=
  ⟨fun _ => ⟨_, rfl⟩, rfl, rfl, fun _ => rfl, rfl, rfl, rfl, fun _ h => h, fun _ _ => rfl⟩

theorem dispatched_scorePhase (l : Launch) (s : State) : Dispatched s (scorePhase l s) := by
  have hcharge := dispatched_chargeCtx l.ctx s
  unfold scorePhase
  dsimp only
  split
  · exact hcharge
  · split
    · exact hcharge
    · split
      · exact hcharge.trans (.modD _ rfl rfl)
      · exact hcharge

/-! Staging that goes (R343). -/

theorem dispatched_writeBack (e : ShelfLine) (s : State) : Dispatched s (writeBack e s) := by
  unfold writeBack
  split
  · split
    · exact .modD s rfl rfl
    · exact .refl s
  · exact .refl s

theorem dispatched_trimShelf (y : Isl) (s : State) : Dispatched s (trimShelf y s) := by
  unfold trimShelf
  exact (Dispatched.foldl (fun s e => dispatched_writeBack e s) _ s).trans (.modI _ y fun _ => rfl)

theorem dispatched_loseStaging (y : Isl) (s : State) : Dispatched s (loseStaging y s) := by
  unfold loseStaging
  dsimp only
  refine Dispatched.trans (.staging (s.free + 1) fun a ha => ?_) (dispatched_trimShelf y _)
  refine memRd_memWrs_ne _ _ _ fun c hc hca => ?_
  obtain ⟨x, hx, rfl⟩ := List.mem_map.1 hc
  have hlost := (List.mem_filter.1 hx).2
  simp only [Bool.and_eq_true, decide_eq_true_iff] at hlost
  obtain ⟨⟨⟨hlo, hhi⟩, -⟩, -⟩ := hlost
  dsimp only at hca
  rw [hca] at hlo hhi
  have hbound : stgKey 127 3 0x8000000 ≤ holdKey 0 := by decide
  omega

theorem dispatched_endLaunch (n : Nat) (st : LSt) (s : State) : Dispatched s (endLaunch n st s) := by
  unfold endLaunch
  split
  · exact .refl s
  · exact ((dispatched_scorePhase _ s).trans (.modD _ rfl rfl)).trans (.foldl (fun s y => dispatched_loseStaging y s) islIds _)

theorem dispatched_settleLaunch (n : Nat) (s : State) : Dispatched s (settleLaunch n s) := by
  unfold settleLaunch
  split
  · exact .refl s
  · split
    · exact dispatched_endLaunch ..
    · exact .refl s

/-! Cores that are asked to leave (R363). -/

theorem dispatched_requestPreempt (c : CoreId) (s : State) : Dispatched s (requestPreempt c s) := by
  unfold requestPreempt
  dsimp only
  split
  · exact .refl s
  · refine ⟨fun d => ?_, rfl, rfl, fun _ => rfl, rfl, rfl, rfl, fun _ h => h, fun _ _ => rfl⟩
    rw [State.modC_get_if]
    split
    · exact ⟨true, rfl⟩
    · exact ⟨_, rfl⟩

theorem dispatched_preemptOverrun (s : State) : Dispatched s (preemptOverrun s) := by
  have hask (cs : List CoreId) (s : State) : Dispatched s (cs.foldl (fun s c => requestPreempt c s) s) :=
    .foldl (fun s c => dispatched_requestPreempt c s) cs s
  unfold preemptOverrun
  dsimp only
  refine Dispatched.trans (.foldl (fun s i => ?_) _ s) (hask _ _)
  split
  · exact hask _ s
  · exact .refl s

theorem dispatched_dispatch (s : State) : Dispatched s (dispatch s) := by
  have hsettle := Dispatched.foldl (fun s n => dispatched_settleLaunch n s) (s.dev.pool.map (·.1)) s
  have hask := hsettle.trans (dispatched_preemptOverrun _)
  unfold dispatch
  dsimp only
  split
  · split
    · exact hask
    · exact hask.trans (.now ..)
  · exact hask

end Sys2Proof.Machine
end

section
/-! O47: checkpoint, safe point, switch point and phase marker. -/

namespace Sys2Proof.Machine

/-! Writes of lines leave what is due, but for the data of messages (R349). -/

/-- A step that carries no line. -/
def Due.Plain : Due → Prop
  | .ev .data _ | .ev .wb _ | .ev .backd _ => False
  | _ => True

theorem flyWr_due (line o n v : Nat) (e : Entry) : e.due.Plain → (flyWr line o n v e).due = e.due := by
  unfold flyWr
  dsimp only
  split
  next h => rw [h]; exact False.elim
  next h => rw [h]; exact False.elim
  next h => rw [h]; exact False.elim
  next => exact fun _ => rfl

theorem has_congr {s t : State} (h : t.agenda = s.agenda) (d : Due) : t.has d = s.has d := by rw [State.has, h, State.has]

theorem has_foldl_modI (f : Isl → IslandSt → IslandSt) (l : List Isl) (s : State) (d : Due) :
    (l.foldl (fun s y => s.modI y (f y)) s).has d = s.has d := by
  obtain ⟨-, -, -, -, -, -, hagenda⟩ := foldl_modI_frame f l s
  exact has_congr hagenda d

theorem has_cohWr {s : State} {d : Due} (pa n v : Nat) (hd : d.Plain) (h : s.has d = true) : (cohWr s pa n v).has d = true := by
  unfold cohWr
  rw [has_foldl_modI fun _ i => _, has_iff]
  obtain ⟨e, he, rfl⟩ := (has_iff s d).1 h
  exact ⟨_, List.mem_map.2 ⟨e, he, rfl⟩, flyWr_due _ _ _ _ e hd⟩

theorem has_putWords {d : Due} (hd : d.Plain) (l : List W64) (pa : Nat) {s : State} (h : s.has d = true) : (putWords pa l s).has d = true := by
  induction l generalizing pa s with
  | nil => exact h
  | cons w l ih => exact ih (pa + 8) (has_cohWr pa 8 w.toNat hd h)

theorem has_trace {d : Due} (hd : d.Plain) (c : CoreId) (kind : Nat) (badr payload : W64) {s : State} (h : s.has d = true) :
    (trace c kind badr payload s).has d = true := by
  unfold trace
  dsimp only
  split
  · exact h
  · split
    · rw [has_congr (State.modI_agenda ..)]
      exact h
    · rw [has_congr (State.modI_agenda ..)]
      exact has_putWords hd _ _ h

theorem has_foldl_trace {α : Type} {d : Due} (hd : d.Plain) (c : CoreId) (kind : Nat) (f g : α → W64) (l : List α) {s : State}
    (h : s.has d = true) : (l.foldl (fun s x => trace c kind (f x) (g x) s) s).has d = true := by
  induction l generalizing s with
  | nil => exact h
  | cons x l ih => exact ih (has_trace hd c kind (f x) (g x) h)

/-! Cycle accounts of a core (R394). -/

/-- t is s but for the accounts of core c, trace records, and messages in flight. -/
structure Accounted (c : CoreId) (s t : State) : Prop where
  core : ∃ m n l, t.core.get c = { s.core.get c with mclass := m, tele := n, mlast := l }
  others : ∀ d, d ≠ c → t.core.get d = s.core.get d
  dev : t.dev = s.dev
  cur : t.cur = s.cur
  tick : t.tick = s.tick
  mem : traceOn s c 14 = false → t.mem = s.mem
  has : ∀ d : Due, d.Plain → s.has d = true → t.has d = true

/-- A change of the accounts of core c alone. -/
theorem accounted_modC (c : CoreId) (s : State) {f : CoreSt → CoreSt}
    (hf : ∃ m n l, f (s.core.get c) = { s.core.get c with mclass := m, tele := n, mlast := l }) : Accounted c s (s.modC c f) where
  core := by rw [State.modC_get]; exact hf
  others d hd := State.modC_get_ne s f hd
  dev := rfl
  cur := rfl
  tick := rfl
  mem _ := rfl
  has d _ h := (has_congr (State.modC_agenda s c f) d).trans h

theorem Accounted.trans {c : CoreId} {s t u : State} (h : Accounted c s t) (h' : Accounted c t u) (hon : traceOn s c 14 = false → traceOn t c 14 = false) :
    Accounted c s u where
  core := by
    obtain ⟨m, n, l, e⟩ := h.core
    obtain ⟨m', n', l', e'⟩ := h'.core
    exact ⟨m', n', l', by rw [e', e]⟩
  others d hd := (h'.others d hd).trans (h.others d hd)
  dev := h'.dev.trans h.dev
  cur := h'.cur.trans h.cur
  tick := h'.tick.trans h.tick
  mem hoff := (h'.mem (hon hoff)).trans (h.mem hoff)
  has d hd hs := h'.has d hd (h.has d hd hs)

theorem accounted_traces {α : Type} (c : CoreId) (kind : Nat) (f g : α → W64) (l : List α) (s : State) (hon : traceOn s c 14 = true) :
    Accounted c s (l.foldl (fun s x => trace c kind (f x) (g x) s) s) := by
  obtain ⟨hcore, hdev, hcur, -, htick, -⟩ := State.Beside.foldl (fun (s : State) x => beside_trace c kind (f x) (g x) s) l s
  exact ⟨⟨_, _, _, by rw [hcore]⟩, fun d _ => by rw [hcore], hdev, hcur, htick, fun hoff => absurd (hoff.symm.trans hon) Bool.false_ne_true,
    fun d hd h => has_foldl_trace hd c kind f g l h⟩

theorem traceOn_congr {s t : State} (h : t.isl = s.isl) (c : CoreId) (n : Nat) : traceOn t c n = traceOn s c n := by
  rw [traceOn, h, traceOn]

theorem accounted_charge (c : CoreId) (cls n : Nat) (adr : W64) (s : State) : Accounted c s (charge c cls n adr s) ∧
    (traceOn s c 14 = false → (charge c cls n adr s).isl = s.isl) := by
  have hmod (m : List (W64 × List Nat)) : Accounted c s (s.modC c fun k => { k with mclass := m }.count (16 + cls) n) :=
    accounted_modC c s ⟨_, _, _, rfl⟩
  unfold charge
  dsimp only
  split
  next a l _ =>
    split
    next hon => exact ⟨(hmod _).trans (accounted_traces c 3 _ _ _ _ hon) id, fun hoff => absurd (hoff.symm.trans hon) Bool.false_ne_true⟩
    next => exact ⟨hmod _, fun _ => rfl⟩
  next => exact ⟨hmod _, fun _ => rfl⟩

theorem accounted_classUp (c : CoreId) (s : State) : Accounted c s (classUp c s) := by
  unfold classUp
  dsimp only
  split
  · have hsame := accounted_modC c s (f := id) ⟨_, _, _, rfl⟩
    rwa [State.modC_same s id rfl] at hsame
  · obtain ⟨hcharge, hisl⟩ := accounted_charge c 4 (ceilDiv (s.tick - (s.core.get c).mlast) (s.core.get c).div.mtx - 1) (s.core.get c).lastArr s
    exact hcharge.trans (accounted_modC c _ ⟨_, _, _, rfl⟩) fun hoff => (traceOn_congr (hisl hoff) c 14).trans hoff

/-! What a checkpoint releases and commits (R139, R146, R204, R220, R230). -/

/-- The withheld pad stores of a core reach the pad. -/
theorem padStores_spec (l : List Sto) (s : State) :
    let t := l.foldl (fun s t => markCells t.cells t.bad { s with mem := memWrs s.mem t.cells }) s
    t.core = s.core ∧ t.isl = s.isl ∧ t.mem = l.foldl (fun m w => memWrs m w.cells) s.mem := by
  induction l generalizing s with
  | nil => exact ⟨rfl, rfl, rfl⟩
  | cons w l ih =>
    obtain ⟨h1, h2, h3⟩ := ih (markCells w.cells w.bad { s with mem := memWrs s.mem w.cells })
    obtain ⟨hmem, -, hcore⟩ := markCells_frame w.cells w.bad { s with mem := memWrs s.mem w.cells }
    have hisl : (markCells w.cells w.bad { s with mem := memWrs s.mem w.cells }).isl = s.isl := by
      unfold markCells markPieces
      dsimp only
      split
      · rfl
      · split <;> rfl
    refine ⟨h1.trans hcore, h2.trans hisl, h3.trans ?_⟩
    rw [hmem]
    rfl

theorem notePads_spec (c : CoreId) (l : List Sto) (s : State) :
    let t := l.foldl (fun s t => notePad c t.span s) s
    (∃ e, t.core.get c = { s.core.get c with early := e }) ∧ t.isl = s.isl ∧ t.mem = s.mem := by
  induction l generalizing s with
  | nil => exact ⟨⟨_, rfl⟩, rfl, rfl⟩
  | cons w l ih =>
    obtain ⟨⟨e, h1⟩, h2, h3⟩ := ih (notePad c w.span s)
    obtain ⟨f, hf⟩ := (notePad_spec c w.span s).1
    have hget : (notePad c w.span s).core.get c = { s.core.get c with early := f (s.core.get c) } := by
      rw [hf]
      exact State.modC_get s c fun k => { k with early := f k }
    refine ⟨⟨e, ?_⟩, h2.trans (by rw [hf]; rfl), h3.trans (by rw [hf]; rfl)⟩
    rw [List.foldl_cons, h1, hget]

/-- Stores elsewhere are performed later, each at a time of its own (R182). -/
theorem planStores_spec (c : CoreId) (l : List Sto) (s : State) :
    let t := l.foldl (fun s t => let (n, s) := s.pick; s.after (n + 1) (.ev .storePerform (argCI c t.id))) s
    t.core = s.core ∧ t.isl = s.isl ∧ t.mem = s.mem ∧ (∀ d, s.has d = true → t.has d = true) ∧
    ∀ w ∈ l, t.has (.ev .storePerform (argCI c w.id)) = true := by
  induction l generalizing s with
  | nil => exact ⟨rfl, rfl, rfl, fun _ h => h, fun w h => absurd h List.not_mem_nil⟩
  | cons w l ih =>
    obtain ⟨h1, h2, h3, h4, h5⟩ := ih (s.pick.2.after (s.pick.1 + 1) (.ev .storePerform (argCI c w.id)))
    refine ⟨h1, h2, h3, fun d h => h4 d (has_at_of_has _ _ _ _ h), fun x hx => ?_⟩
    rcases List.mem_cons.1 hx with rfl | hx
    · exact h4 _ (has_at ..)
    · exact h5 x hx

theorem releaseStores_spec (c : CoreId) (s : State) :
    let k := s.core.get c
    let t := releaseStores c s
    (∃ e, t.core.get c = { k with wst := [], sto := k.sto ++ k.wst.filter (·.sp != .pad), early := e }) ∧ t.isl = s.isl ∧
    t.mem = (k.wst.filter (·.sp == .pad)).foldl (fun m w => memWrs m w.cells) s.mem ∧
    ∀ w ∈ k.wst.filter (·.sp != .pad), t.has (.ev .storePerform (argCI c w.id)) = true := by
  intro k t
  let pads := k.wst.filter (·.sp == .pad)
  let rest := k.wst.filter (·.sp != .pad)
  let s1 := pads.foldl (fun s t => markCells t.cells t.bad { s with mem := memWrs s.mem t.cells }) s
  let s2 := s1.modC c fun k => { k with wst := [], sto := k.sto ++ rest }
  obtain ⟨a1, a2, a3⟩ := padStores_spec pads s
  have b : s2.core.get c = { k with wst := [], sto := k.sto ++ rest } := by
    rw [show s2.core.get c = _ from State.modC_get s1 c fun k => { k with wst := [], sto := k.sto ++ rest }, show s1.core = s.core from a1]
  obtain ⟨⟨e, c1⟩, c2, c3⟩ := notePads_spec c pads s2
  obtain ⟨d1, d2, d3, -, d5⟩ := planStores_spec c rest (pads.foldl (fun s t => notePad c t.span s) s2)
  refine ⟨⟨e, ?_⟩, d2.trans (c2.trans a2), d3.trans (c3.trans a3), d5⟩
  have hcore : t.core.get c = _ := (congrArg (Vector.get · c) d1 :)
  rw [hcore, c1, b]

theorem has_startMx (c : CoreId) (s : State) (d : Due) (h : s.has d = true) : (startMx c s).has d = true := by
  unfold startMx
  split
  · exact h
  · exact has_at_of_has _ _ _ _ h

/-- What a checkpoint leaves of a core while it releases and commits. -/
def SameStand (k k' : CoreSt) : Prop :=
  k'.r = k.r ∧ k'.wst = k.wst ∧ k'.sto = k.sto ∧ k'.ring = k.ring ∧ k'.seq = k.seq ∧ k'.ck = k.ck

/-- A core whose withheld matrix operations are released. -/
theorem releaseMx_spec (c : CoreId) (s : State) :
    let t := releaseMx c s
    SameStand (s.core.get c) (t.core.get c) ∧ (t.core.get c).wmx = [] ∧
    ((s.core.get c).wmx = [] ∨ traceOn s c 14 = false → t.mem = s.mem) ∧ ∀ d : Due, d.Plain → s.has d = true → t.has d = true := by
  intro t
  let w := (s.core.get c).wmx
  let f (k : CoreSt) : CoreSt := { k with
    wmx := []
    lq := k.lq ++ w.filter (·.isLatch)
    aq := k.aq ++ w.filter fun o => !o.isLatch && !o.isDrain
    dq := k.dq ++ w.filter (·.isDrain)
    til := k.til + (w.filter (·.counted)).length
    lastArr := match (w.filter fun o => !o.isLatch && !o.isDrain).getLast? with | some o => o.badr | none => k.lastArr }
  have ht : t = if w.isEmpty then s else startMx c ((classUp c s).modC c f) := rfl
  rw [ht]
  split
  next hw => exact ⟨⟨rfl, rfl, rfl, rfl, rfl, rfl⟩, List.isEmpty_iff.1 hw, fun _ => rfl, fun _ _ h => h⟩
  next hw =>
    obtain ⟨⟨m, n, l, hclass⟩, -, -, -, -, hmem, hhas⟩ := accounted_classUp c s
    obtain ⟨hcore, -, hmem'⟩ := startMx_frame c ((classUp c s).modC c f)
    have hget : (startMx c ((classUp c s).modC c f)).core.get c = f { s.core.get c with mclass := m, tele := n, mlast := l } := by
      rw [hcore, State.modC_get, hclass]
    rw [hget]
    refine ⟨⟨rfl, rfl, rfl, rfl, rfl, rfl⟩, rfl, fun hor => hmem'.trans (hmem (hor.resolve_left fun he => hw (List.isEmpty_iff.2 he))),
      fun d hd h => has_startMx c _ d ?_⟩
    exact (has_congr (State.modC_agenda ..) d).trans (hhas d hd h)

/-- A core whose pulls and retires are committed. -/
theorem commitPops_spec (c : CoreId) (s : State) :
    let t := commitPops c s
    t.core.get c = { s.core.get c with pops := [] } ∧ t.mem = s.mem ∧ ∀ d, s.has d = true → t.has d = true := by
  have hplan (n dt : Nat) (l : List Nat) (s : State) :
      let t := l.foldl (fun s _ => let (x, s) := s.pick; s.after (x % (64 * dt) + 1) (.ev .initialItemAppend { Arg.zero with n := n })) s
      t.core = s.core ∧ t.mem = s.mem ∧ ∀ d, s.has d = true → t.has d = true := by
    induction l generalizing s with
    | nil => exact ⟨rfl, rfl, fun _ h => h⟩
    | cons i l ih =>
      obtain ⟨h1, h2, h3⟩ := ih (s.pick.2.after (s.pick.1 % (64 * dt) + 1) (.ev .initialItemAppend { Arg.zero with n := n }))
      exact ⟨h1, h2, fun d h => h3 d (has_at_of_has _ _ _ _ h)⟩
  intro t
  unfold t commitPops
  dsimp only
  split
  next hn => exact ⟨State.modC_get s c fun k => { k with pops := [] }, rfl, fun _ h => h⟩
  next n hn =>
    generalize hs1 : (s.modL n _).modC c _ = s1
    have h1 : s1.core.get c = { s.core.get c with pops := [] } ∧ s1.mem = s.mem ∧ ∀ d, s.has d = true → s1.has d = true := by
      rw [← hs1]
      refine ⟨?_, modL_mem .., fun d h => ?_⟩
      · rw [State.modC_get, modL_core]
      · exact (has_congr ((State.modC_agenda ..).trans (modL_frame s n _).2.1) d).trans h
    split
    · obtain ⟨k1, k2, k3⟩ := hplan n (s.core.get c).div.ctl (List.range ((s.core.get c).pops.filter (·.isPull)).length) s1
      exact ⟨by rw [k1]; exact h1.1, k2.trans h1.2.1, fun d h => k3 d (h1.2.2 d h)⟩
    · exact h1

/-- CHECKPOINT (R230). -/
theorem checkpointAt_spec (c : CoreId) (s : State) :
    let k := s.core.get c
    let t := checkpointAt c s
    (t.core.get c).r = k.r ∧ (t.core.get c).ck = k.r ∧ (t.core.get c).ckSeq = k.seq * 8 - 1 ∧
    (t.core.get c).wst = [] ∧ (t.core.get c).wmx = [] ∧ (t.core.get c).pops = [] ∧ (t.core.get c).ring = k.ring.map Ring.release ∧
    (k.wmx = [] ∨ traceOn s c 14 = false → t.mem = (k.wst.filter (·.sp == .pad)).foldl (fun m w => memWrs m w.cells) s.mem) ∧
    ∀ w ∈ k.wst, w.sp ≠ .pad → w ∈ (t.core.get c).sto ∧ t.has (.ev .storePerform (argCI c w.id)) = true := by
  intro k t
  obtain ⟨⟨e, a1⟩, a2, a3, a4⟩ := releaseStores_spec c s
  obtain ⟨⟨b1, b2, b3, b4, b5, -⟩, b7, b8, b9⟩ := releaseMx_spec c (releaseStores c s)
  obtain ⟨c1, c2, c3⟩ := commitPops_spec c (releaseMx c (releaseStores c s))
  let u := commitPops c (releaseMx c (releaseStores c s))
  let f (k : CoreSt) : CoreSt := { k with
    fences := k.fences.filter fun f => (u.core.get c).open_.any fun a => decide (a.seq < f.seq), after := k.after.filter fun e => u.pushOpen e }
  let g (k : CoreSt) : CoreSt := { k with ring := k.ring.map Ring.release, ck := k.r, ckSeq := k.seq * 8 - 1 }
  have ht : t = (u.modC c f).modC c g := rfl
  have hget : t.core.get c = g (f (u.core.get c)) := by rw [ht, State.modC_get, State.modC_get]
  rw [hget, show u.core.get c = _ from c1]
  have hk : (releaseStores c s).core.get c = _ := a1
  refine ⟨b1.trans (by rw [hk]), b1.trans (by rw [hk]), ?_, b2.trans (by rw [hk]), b7, rfl, ?_, fun hor => ?_, fun w hw hsp => ⟨?_, ?_⟩⟩
  · exact congrArg (· * 8 - 1) (b5.trans (by rw [hk]))
  · exact congrArg (Vector.map Ring.release) (b4.trans (by rw [hk]))
  · have hstill : (releaseStores c s).mem = (releaseMx c (releaseStores c s)).mem := by
      refine (b8 (hor.imp (fun hw => ?_) (traceOn_congr a2 c 14).trans)).symm
      rw [hk]
      exact hw
    rw [ht, State.modC_mem, State.modC_mem, show u.mem = _ from c2, ← hstill, a3]
  · show w ∈ ((releaseMx c (releaseStores c s)).core.get c).sto
    rw [b3, hk]
    exact List.mem_append_right _ (List.mem_filter.2 ⟨hw, bne_iff_ne.2 hsp⟩)
  · have hplain : (Due.ev .storePerform (argCI c w.id)).Plain := trivial
    have hhas := c3 _ (b9 _ hplain (a4 w (List.mem_filter.2 ⟨hw, bne_iff_ne.2 hsp⟩)))
    rw [ht, has_congr (State.modC_agenda (u.modC c f) c g), has_congr (State.modC_agenda u c f)]
    exact hhas

/-! A core that leaves (R223, R233, R330). -/

/-- A core without a launch: it holds no item and nothing of it is asked for (R330). -/
def CoreSt.freed (k : CoreSt) : CoreSt :=
  { k with run := .unbound, launch := none, preempt := false, saveTo := none, rec_ := none, stepArm := 0, resumeDue := false, bg := false
           samples := [], r := { k.r with held := none }, ck := { k.ck with held := none } }

theorem accrue_frame (q : BitVec 8) (s : State) : (accrue q s).core = s.core ∧ (accrue q s).dev.purges = s.dev.purges ∧
    (accrue q s).dev.cx = s.dev.cx ∧ (accrue q s).mem = s.mem := ⟨rfl, rfl, rfl, rfl⟩

theorem planOverrun_frame (q : BitVec 8) (s : State) : (planOverrun q s).core = s.core ∧ (planOverrun q s).dev = s.dev ∧
    (planOverrun q s).mem = s.mem := by
  unfold planOverrun
  dsimp only
  split
  · exact ⟨rfl, rfl, rfl⟩
  · exact ⟨rfl, rfl, rfl⟩

theorem endSamples_spec (c : CoreId) (s : State) : (endSamples c s).core = (s.modC c fun k => { k with samples := [] }).core ∧
    (endSamples c s).dev = s.dev ∧ ((s.core.get c).samples = [] → (endSamples c s).mem = s.mem) := by
  obtain ⟨hcore, hdev, -⟩ := State.Beside.foldl (f := fun s x => sampleRec c x s) (fun s x => beside_trace ..) (s.core.get c).samples s
  unfold endSamples
  refine ⟨?_, hdev, fun h => ?_⟩
  · unfold State.modC
    dsimp only
    rw [hcore]
  · rw [h]
    rfl

/-- The part of unbinding that touches the core alone (R330, R393). -/
def strikeCore (c : CoreId) (s : State) : State :=
  let s2 := s.modC c fun k =>
    { k with run := .unbound, launch := none, preempt := false, saveTo := none, rec_ := none, stepArm := 0, resumeDue := false, bg := false
             r := { k.r with held := none }, ck := { k.ck with held := none } }
  endSamples c { s2 with agenda := s2.agenda.filter fun e => e.due != .edge c }

theorem strikeCore_spec (c : CoreId) (s : State) : (strikeCore c s).core.get c = (s.core.get c).freed ∧
    (∀ d, d ≠ c → (strikeCore c s).core.get d = s.core.get d) ∧ (strikeCore c s).dev = s.dev ∧
    ((s.core.get c).samples = [] → (strikeCore c s).mem = s.mem) := by
  unfold strikeCore
  generalize hs2 : s.modC c _ = s2
  obtain ⟨hcore, hdev, hmem⟩ := endSamples_spec c { s2 with agenda := s2.agenda.filter fun e => e.due != .edge c }
  refine ⟨?_, fun d hd => ?_, hdev.trans (by rw [← hs2]; rfl), fun h => (hmem ?_).trans (by rw [← hs2]; rfl)⟩
  · rw [hcore, State.modC_get, ← hs2, State.modC_get]
    rfl
  · rw [hcore, State.modC_get_ne _ _ hd, ← hs2, State.modC_get_ne _ _ hd]
  · dsimp only
    rw [← hs2, State.modC_get]
    exact h

theorem unbindCore_eq (c : CoreId) (s : State) : unbindCore c s = (match s.launch? (s.core.get c).launch with
    | some l => dispatch (planOverrun l.que (strikeCore c (accrue l.que s)))
    | none => dispatch (strikeCore c s)) := by
  unfold unbindCore strikeCore
  dsimp only
  cases s.launch? (s.core.get c).launch with
  | none => rfl
  | some l => rfl

/-- The state that the dispatcher sees when a core is unbound. -/
theorem unbindCore_dispatches (c : CoreId) (s : State) : ∃ u, unbindCore c s = dispatch u ∧ u.core.get c = (s.core.get c).freed ∧
    (∀ d, d ≠ c → u.core.get d = s.core.get d) ∧ u.dev.purges = s.dev.purges ∧ u.dev.cx = s.dev.cx ∧
    ((s.core.get c).samples = [] → u.mem = s.mem) := by
  rw [unbindCore_eq]
  cases s.launch? (s.core.get c).launch with
  | none =>
    obtain ⟨hcore, hne, hdev, hmem⟩ := strikeCore_spec c s
    exact ⟨_, rfl, hcore, hne, congrArg DevSt.purges hdev, congrArg DevSt.cx hdev, hmem⟩
  | some l =>
    obtain ⟨acore, apurges, acx, amem⟩ := accrue_frame l.que s
    obtain ⟨hcore, hne, hdev, hmem⟩ := strikeCore_spec c (accrue l.que s)
    obtain ⟨pcore, pdev, pmem⟩ := planOverrun_frame l.que (strikeCore c (accrue l.que s))
    refine ⟨_, rfl, ?_, fun d hd => ?_, ?_, ?_, fun h => ?_⟩
    · rw [pcore, hcore, acore]
    · rw [pcore, hne d hd, acore]
    · rw [pdev, hdev, apurges]
    · rw [pdev, hdev, acx]
    · rw [pmem, hmem (acore ▸ h), amem]

theorem unbindCore_core (c : CoreId) (s : State) :
    ∃ b, (unbindCore c s).core.get c = { (s.core.get c).freed with preempt := b } := by
  obtain ⟨u, hu, hcore, -⟩ := unbindCore_dispatches c s
  obtain ⟨b, hb⟩ := (dispatched_dispatch u).core c
  exact ⟨b, by rw [hu, hb, hcore]⟩

/-- The ways in which a core leaves: it waits, its state is saved, or it is unbound. -/
theorem leaveCore_spec (c : CoreId) (s : State) :
    (leaveCore c s).core = s.core ∨ ((s.core.get c).preempt = false ∧ leaveCore c s = unbindCore c s) := by
  unfold leaveCore
  dsimp only
  split
  · exact .inl rfl
  · split
    · split
      · exact .inl rfl
      · exact .inl rfl
    next hp => exact .inr ⟨Bool.eq_false_of_not_eq_true hp, rfl⟩

theorem leaveCore_unbinds {c : CoreId} {s : State} (hstill : (s.core.get c).still = true) (hpre : (s.core.get c).preempt = false)
    (hpush : (s.core.get c).pend.any (·.eff.isPush) = false) : leaveCore c s = unbindCore c s := by
  unfold leaveCore
  dsimp only
  rw [if_neg (by simp [hstill, hpre, hpush]), if_neg (by simp [hpre])]

theorem State.modC_congr {s : State} {c : CoreId} {f g : CoreSt → CoreSt} (h : f (s.core.get c) = g (s.core.get c)) :
    s.modC c f = s.modC c g := by
  unfold State.modC
  rw [h]

/-- SAFE_POINT (R233). -/
theorem safePoint_spec {s : State} {c : CoreId} {k : CoreSt} (hc : c = s.arg.c) (hk : k = s.core.get c) :
    ∃ t, execSafePoint s = .next t ∧ (t.core.get c).since = 1 ∧ (t.core.get c).overrun = false ∧
      (k.run = .running → k.preempt = true → ∀ i, freeSlot s k.ctx = some i → (t.core.get c).run = .saving ∧
        (t.core.get c).saveTo = some i) ∧
      (k.preempt = false → k.pullClosed = none → k.pullEmpty = none →
        t = s.modC c fun k => { k with since := 1, overrun := false, saveTo := none }) ∧
      (∀ n, k.run = .running → k.preempt = false → k.still = true → k.pend.any (·.eff.isPush) = false → k.r.held = none →
        k.pullClosed = some n → n + 1 < k.seq →
        (t.core.get c).run = .unbound ∧ (t.core.get c).launch = none) := by
  unfold execSafePoint
  dsimp only
  rw [← hc, ← hk]
  generalize hslot : (if k.preempt then freeSlot s k.ctx else none) = slot
  generalize hleave : (k.r.held.isNone && _) = leave
  generalize hgo : (k.run == .running && (slot.isSome || leave)) = go
  generalize hs1 : (s.modC c fun k => { k with
    since := 1, overrun := false, preempt := slot.isSome, saveTo := if go then slot else none, run := if go then .saving else k.run }) = s1
  have h1 : s1.core.get c = { k with
      since := 1, overrun := false, preempt := slot.isSome, saveTo := if go then slot else none, run := if go then .saving else k.run } := by
    rw [← hs1, State.modC_get, ← hk]
  have hgone : (leaveCore c s1).core = s1.core ∨ ((s1.core.get c).preempt = false ∧ leaveCore c s1 = unbindCore c s1) := leaveCore_spec c s1
  obtain ⟨b, hb⟩ := unbindCore_core c s1
  refine ⟨_, rfl, ?_, ?_, fun hrun hpre i hi => ?_, fun hpre hpc hpe => ?_, fun n hrun hpre hstill hpush hheld hpc hn => ?_⟩
  · cases go with
    | false => exact congrArg CoreSt.since h1
    | true =>
      rcases hgone with h | ⟨-, h⟩
      · exact (congrArg (fun v => (Vector.get v c).since) h).trans (congrArg CoreSt.since h1)
      · rw [if_pos rfl, h, hb, h1]
        rfl
  · cases go with
    | false => exact congrArg CoreSt.overrun h1
    | true =>
      rcases hgone with h | ⟨-, h⟩
      · exact (congrArg (fun v => (Vector.get v c).overrun) h).trans (congrArg CoreSt.overrun h1)
      · rw [if_pos rfl, h, hb, h1]
        rfl
  · rw [hpre, if_pos rfl, hi] at hslot
    subst hslot
    have hgo' : go = true := by simp [← hgo, hrun]
    subst hgo'
    have hcore := hgone.resolve_right fun h => by simp [h1] at h
    exact ⟨(congrArg (fun v => (Vector.get v c).run) hcore).trans (congrArg CoreSt.run h1),
      (congrArg (fun v => (Vector.get v c).saveTo) hcore).trans (congrArg CoreSt.saveTo h1)⟩
  · rw [hpre] at hslot
    subst hslot
    have hgo' : go = false := by simp [← hgo, ← hleave, hpc, hpe]
    subst hgo'
    rw [if_neg (by decide), ← hs1]
    refine State.modC_congr ?_
    rw [← hk]
    exact congrArg (fun b => { k with since := 1, overrun := false, preempt := b, saveTo := none }) hpre.symm
  · rw [hpre] at hslot
    subst hslot
    have hgo' : go = true := by simp [← hgo, ← hleave, hrun, hpc, hheld, hn]
    subst hgo'
    have hstill' : (s1.core.get c).still = true := (congrArg CoreSt.still h1).trans hstill
    have hpush' : (s1.core.get c).pend.any (·.eff.isPush) = false := (congrArg (fun k => k.pend.any (·.eff.isPush)) h1).trans hpush
    rw [if_pos rfl, leaveCore_unbinds hstill' (congrArg CoreSt.preempt h1) hpush', hb]
    exact ⟨rfl, rfl⟩

/-! A phase marker (R237, R376). -/

/-- The registers of the cores, storage and the islands stand. -/
def Afar (s t : State) : Prop := t.core = s.core ∧ t.mem = s.mem ∧ t.isl = s.isl

theorem afar_after (l : List Isl) (f : Isl → Arg) (i : Instr) (s : State) : Afar s (l.foldl (fun s y => s.after 0 (.ev i (f y))) s) := by
  induction l generalizing s with
  | nil => exact ⟨rfl, rfl, rfl⟩
  | cons y l ih => exact ih (s.after 0 (.ev i (f y)))

theorem afar_scorePhase (l : Launch) (s : State) : Afar s (scorePhase l s) := by
  unfold scorePhase
  dsimp only
  split
  · exact ⟨rfl, rfl, rfl⟩
  · split
    · exact ⟨rfl, rfl, rfl⟩
    · split
      · exact ⟨rfl, rfl, rfl⟩
      · exact ⟨rfl, rfl, rfl⟩

theorem afar_modL (s : State) (n : Nat) (f : Launch → Launch) : Afar s (s.modL n f) := by
  unfold State.modL
  split
  · exact ⟨rfl, rfl, rfl⟩
  · exact ⟨rfl, rfl, rfl⟩

theorem Afar.trans {s t u : State} (h : Afar s t) (h' : Afar t u) : Afar s u := by
  obtain ⟨h1, h2, h3⟩ := h
  obtain ⟨k1, k2, k3⟩ := h'
  exact ⟨k1.trans h1, k2.trans h2, k3.trans h3⟩

theorem afar_startPhase (n : Nat) (ph : Byte) (s : State) : Afar s (startPhase n ph s) := by
  unfold startPhase
  dsimp only
  have hrest (s1 : State) (h1 : Afar s s1) : Afar s (
      let s2 := s1.modL n fun l => { l with opt := none, phase := ph }
      match tfind s2.dev.pool n with
      | none => s2
      | some l =>
        if (s2.isl.get 0).opmd ≠ 2 then s2
        else match recallEntry s2 l.kid ph with
          | none => s2
          | some (e, w) =>
            islIds.foldl (fun s y => s.after 0 (.ev .opmWrite { argY y with k := 1, v := entryPoint w }))
              (s2.modL n fun l => { l with opt := some (e, s2.tick, (s2.ctxOf l.ctx).energy) })) := by
    have hmod := h1.trans (afar_modL s1 n fun l => { l with opt := none, phase := ph })
    dsimp only
    split
    · exact hmod
    · split
      · exact hmod
      · split
        · exact hmod
        · exact (hmod.trans (afar_modL ..)).trans (afar_after islIds _ _ _)
  cases tfind s.dev.pool n with
  | none => exact hrest s ⟨rfl, rfl, rfl⟩
  | some l => exact hrest (chargeCtx l.ctx s) ⟨rfl, rfl, rfl⟩

theorem afar_followPhase (c : CoreId) (s : State) : Afar s (followPhase c s) := by
  unfold followPhase
  dsimp only
  split
  · split
    · exact (afar_scorePhase ..).trans (afar_startPhase ..)
    · exact ⟨rfl, rfl, rfl⟩
  · exact ⟨rfl, rfl, rfl⟩

/-! SWITCH_POINT (R235). -/

theorem execSwitchPoint_stays {s : State} (h : s.bun.body = true ∨ s.bun.target.isSome = true ∨ switchAt (s.core.get s.arg.c) s.bun.nxt = none) :
    execSwitchPoint s = .next s := by
  unfold execSwitchPoint
  dsimp only
  split
  · rfl
  next hn =>
    rw [not_or] at hn
    rw [(h.resolve_left hn.1).resolve_left hn.2]

theorem execSwitchPoint_at {s : State} {i v : Nat} (hb : s.bun.body = false) (ht : s.bun.target = none)
    (hsw : switchAt (s.core.get s.arg.c) s.bun.nxt = some (i, v)) :
    let c := s.arg.c
    let k := s.core.get c
    let e := tget 0xFFFFFFFF k.sw (3 * i + k.granted.toNat)
    execSwitchPoint s = if k.granted.toNat = v ∨ 2 < k.granted.toNat ∨ !k.swVpr.getLsbD k.granted.toNat ∨ e = 0xFFFFFFFF then .next s
      else .next (s.modC c fun k => { k with gap := 2, r := { k.r with pc := k.codeBase + e.setWidth 64 } }) := by
  intro c k e
  unfold execSwitchPoint
  dsimp only
  rw [if_neg (by simp [hb, ht]), hsw]

theorem two_lt_iff (g : BitVec 2) : 2 < g.toNat ↔ g = 3 := by
  revert g
  decide

/-- Settles O47: a checkpoint, a safe point and a switch point by what each says of the core, and a phase marker by what follows it. -/
theorem checkpointSteps : Obligations.CheckpointSteps := by
  unfold Obligations.CheckpointSteps
  refine ⟨fun s => ⟨?_, ?_⟩, fun s => ⟨fun h => ?_, fun i v hb ht hsw => ⟨fun h1 h2 h3 h4 => ?_, fun h => ?_⟩, ?_⟩⟩
  · exact ⟨checkpointAt s.arg.c s, rfl, checkpointAt_spec s.arg.c s⟩
  · exact safePoint_spec rfl rfl
  · exact execSwitchPoint_stays h
  · refine (execSwitchPoint_at hb ht hsw).trans (if_neg ?_)
    rw [two_lt_iff]
    rintro (h | h | h | h)
    · exact h1 h
    · exact h2 h
    · rw [h3] at h
      cases h
    · exact h4 h
  · refine (execSwitchPoint_at hb ht hsw).trans (if_pos ?_)
    rw [two_lt_iff, Bool.not_eq_true']
    exact h
  · obtain ⟨hcore, hmem, hisl⟩ := afar_followPhase s.arg.c (s.modC s.arg.c fun k => { k with r := { k.r with phase := k.r.phase + 1 } })
    exact ⟨_, rfl, hcore, hmem, hisl⟩

end Sys2Proof.Machine
end

section
/-! O48: records, overrun, requested stop and consumed poison. -/

namespace Sys2Proof.Machine

/-! Records (R357, R397). -/

/-- Poison whose record is dropped is logged, and nothing else happens. -/
theorem foldl_logErr_spec (y : Isl) (l : List Rec) (s : State) :
    let t := l.foldl (fun s r => if r.cause = 0x34 then logErr 3 (r.dtl.toNat % 65536) y r.fadr 0 s else s) s
    t.isl = s.isl ∧ t.mem = s.mem ∧ t.core = s.core ∧ t.dev.elN = s.dev.elN + (l.filter (·.cause == 0x34)).length := by
  induction l generalizing s with
  | nil => exact ⟨rfl, rfl, rfl, rfl⟩
  | cons r l ih =>
    rw [List.foldl_cons]
    by_cases hr : r.cause = 0x34
    · rw [if_pos hr, List.filter_cons_of_pos (p := fun r : Rec => r.cause == 0x34) (beq_iff_eq.2 hr), List.length_cons]
      obtain ⟨h1, h2, h3, h4⟩ := ih (logErr 3 (r.dtl.toNat % 65536) y r.fadr 0 s)
      refine ⟨h1, h2, h3, h4.trans ?_⟩
      rw [show (logErr 3 (r.dtl.toNat % 65536) y r.fadr 0 s).dev.elN = s.dev.elN + 1 from rfl]
      omega
    · rw [if_neg hr, List.filter_cons_of_neg (p := fun r : Rec => r.cause == 0x34) (by simpa using hr)]
      exact ih s

theorem execRecordPost_empty {s : State} (h : (s.isl.get s.arg.y).waiting = []) : execRecordPost s = .next s := by
  unfold execRecordPost
  dsimp only
  rw [h]

theorem execRecordPost_full {s : State} {y : Isl} {i : IslandSt} {r : Rec} {rest : List Rec} (hy : y = s.arg.y) (hi : i = s.isl.get y)
    (hw : i.waiting = r :: rest) (hf : queueFull i = true) : ∃ t, execRecordPost s = .next t ∧
       (t.isl.get y).waiting = i.waiting.filter (fun r => r.kind != 0) ∧
       (t.isl.get y).rqd = i.rqd + BitVec.ofNat 64 (i.waiting.filter fun r => r.kind == 0).length ∧
       t.dev.elN = s.dev.elN + (i.waiting.filter fun r => r.kind == 0 && r.cause == 0x34).length ∧
       (t.isl.get y).rqt = i.rqt ∧ t.mem = s.mem ∧ t.core = s.core := by
  subst hy hi
  let lost := (s.isl.get s.arg.y).waiting.filter fun r => r.kind == 0
  let f (i : IslandSt) : IslandSt :=
    { i.count 8 lost.length with waiting := i.waiting.filter fun r => r.kind != 0, rqd := i.rqd + BitVec.ofNat 64 lost.length }
  obtain ⟨h1, h2, h3, h4⟩ := foldl_logErr_spec s.arg.y lost (s.modI s.arg.y f)
  have hget := State.modI_get s s.arg.y f
  refine ⟨lost.foldl (fun u r => if r.cause = 0x34 then logErr 3 (r.dtl.toNat % 65536) s.arg.y r.fadr 0 u else u) (s.modI s.arg.y f), ?_, ?_⟩
  · unfold execRecordPost
    dsimp only
    rw [hw]
    dsimp only
    rw [if_pos hf, ← hw]
  · rw [h1, hget]
    refine ⟨rfl, rfl, h4.trans ?_, rfl, h2, h3⟩
    rw [List.filter_filter]
    exact congrArg (fun l => s.dev.elN + List.length l) (List.filter_congr fun r _ => Bool.and_comm ..)

/-- What a core that resumes leaves of the others, of storage and of the islands. -/
theorem resume_frame (c : CoreId) (s : State) : (resume c s).isl = s.isl ∧ (resume c s).mem = s.mem ∧
    (∀ d, d ≠ c → (resume c s).core.get d = s.core.get d) ∧
    ((resume c s).core.get c).run = .running ∧ ((resume c s).core.get c).resumeDue = false := by
  let f (k : CoreSt) : CoreSt :=
    { k with run := .running, rec_ := none, gap := 0, wait := 0, resumeDue := false, stepArm := k.dbgStep.toNat }
  have h : ∀ u : State, u.core = (s.modC c f).core → u.isl = s.isl → u.mem = s.mem → u.isl = s.isl ∧ u.mem = s.mem ∧
      (∀ d, d ≠ c → u.core.get d = s.core.get d) ∧ (u.core.get c).run = .running ∧ (u.core.get c).resumeDue = false := by
    intro u hc hi hm
    refine ⟨hi, hm, fun d hd => ?_, ?_, ?_⟩
    · rw [hc, State.modC_get_ne _ _ hd]
    · rw [hc, State.modC_get]
    · rw [hc, State.modC_get]
  unfold resume startEdges
  split <;> exact h _ rfl rfl rfl

/-- Core c may go on now that no record of it waits at island y. -/
def mayResume (y : Isl) (s : State) (c : CoreId) : Prop :=
  islOf c = y ∧ (s.core.get c).resumeDue = true ∧ (!((s.isl.get y).waiting.any fun r => r.kind != 0 && r.core == coreField c)) = true

/-- One step of resumeWaiting. -/
def resumeStep (y : Isl) (s : State) (c : CoreId) : State :=
  if islOf c = y ∧ (s.core.get c).resumeDue ∧ !((s.isl.get y).waiting.any fun r => r.kind != 0 && r.core == coreField c) then resume c s
  else s

theorem resumeStep_spec (y : Isl) (s : State) (c : CoreId) :
    let t := resumeStep y s c
    t.isl = s.isl ∧ t.mem = s.mem ∧ (∀ d, d ≠ c → t.core.get d = s.core.get d) ∧
    (mayResume y s c → (t.core.get c).run = .running ∧ (t.core.get c).resumeDue = false) ∧ (¬ mayResume y s c → t = s) := by
  intro t
  unfold t resumeStep mayResume
  split
  next h =>
    obtain ⟨hi, hm, hne, hr⟩ := resume_frame c s
    exact ⟨hi, hm, hne, fun _ => hr, fun hn => absurd h hn⟩
  next h => exact ⟨rfl, rfl, fun _ _ => rfl, fun hp => absurd hp h, fun _ => rfl⟩

theorem foldl_resumeStep_spec (y : Isl) (l : List CoreId) (hl : l.Nodup) (s : State) :
    let t := l.foldl (resumeStep y) s
    t.isl = s.isl ∧ t.mem = s.mem ∧ ∀ d,
      (d ∈ l → mayResume y s d → (t.core.get d).run = .running ∧ (t.core.get d).resumeDue = false) ∧
      ((d ∈ l → ¬ mayResume y s d) → t.core.get d = s.core.get d) := by
  induction l generalizing s with
  | nil => exact ⟨rfl, rfl, fun d => ⟨fun h => (List.not_mem_nil h).elim, fun _ => rfl⟩⟩
  | cons c l ih =>
    obtain ⟨hcl, hnd⟩ := List.nodup_cons.1 hl
    obtain ⟨hi, hm, hne, hmay, hnot⟩ := resumeStep_spec y s c
    obtain ⟨ki, km, hd⟩ := ih hnd (resumeStep y s c)
    have hsame (d : CoreId) (hdc : d ≠ c) : mayResume y (resumeStep y s c) d ↔ mayResume y s d := by
      unfold mayResume
      rw [hne d hdc, hi]
    refine ⟨ki.trans hi, km.trans hm, fun d => ⟨fun hmem hpos => ?_, fun hneg => ?_⟩⟩
    · by_cases hdc : d = c
      · subst hdc
        have hk := (hd d).2 fun h => absurd h hcl
        rw [List.foldl_cons, hk]
        exact hmay hpos
      · exact (hd d).1 (List.mem_of_ne_of_mem hdc hmem) ((hsame d hdc).2 hpos)
    · by_cases hdc : d = c
      · subst hdc
        rw [List.foldl_cons, (hd d).2 fun h => absurd h hcl, hnot (hneg List.mem_cons_self)]
      · rw [List.foldl_cons, (hd d).2 fun h h' => hneg (List.mem_cons_of_mem _ h) ((hsame d hdc).1 h'), hne d hdc]

/-- Cores that wait for their record to find a slot (R357, R360). -/
theorem resumeWaiting_spec (y : Isl) (s : State) :
    let t := resumeWaiting y s
    t.isl = s.isl ∧ t.mem = s.mem ∧ ∀ d, (mayResume y s d → (t.core.get d).run = .running ∧ (t.core.get d).resumeDue = false) ∧
      (¬ mayResume y s d → t.core.get d = s.core.get d) := by
  intro t
  have ht : t = coreIds.foldl (resumeStep y) s := rfl
  obtain ⟨hi, hm, hd⟩ := foldl_resumeStep_spec y coreIds coreIds_nodup s
  rw [ht]
  exact ⟨hi, hm, fun d => ⟨(hd d).1 (mem_coreIds d), fun hn => (hd d).2 fun _ => hn⟩⟩

/-- A part of every island's registers that a change of each keeps. -/
theorem foldl_modI_keeps {α : Type} (p : IslandSt → α) (f : Isl → IslandSt → IslandSt) (hf : ∀ y i, p (f y i) = p i) (l : List Isl) (s : State)
    (z : Isl) : p ((l.foldl (fun s y => s.modI y (f y)) s).isl.get z) = p (s.isl.get z) := by
  induction l generalizing s with
  | nil => rfl
  | cons y l ih =>
    refine (ih (s.modI y (f y))).trans ?_
    rw [State.modI_get_if]
    split
    next h => exact (hf y _).trans (by rw [h])
    · rfl

/-- The records that wait at an island, and the registers of its queue (R357). -/
def IslandSt.queue (i : IslandSt) : List Rec × Byte × Byte × Nat := (i.waiting, i.rqt, i.rqh, i.rsn)

theorem IslandSt.queue_eq {i j : IslandSt} (h : j.queue = i.queue) :
    j.waiting = i.waiting ∧ j.rqt = i.rqt ∧ j.rqh = i.rqh ∧ j.rsn = i.rsn := by
  unfold IslandSt.queue at h
  rwa [Prod.mk.injEq, Prod.mk.injEq, Prod.mk.injEq] at h

theorem cohWr_queue (s : State) (pa n v : Nat) (y : Isl) : ((cohWr s pa n v).isl.get y).queue = (s.isl.get y).queue := by
  unfold cohWr
  refine (foldl_modI_keeps IslandSt.queue _ (fun _ _ => ?_) islIds _ y).trans ?_
  · rfl
  · rfl

theorem putWords_queue (l : List W64) (pa : Nat) (s : State) (y : Isl) : ((putWords pa l s).isl.get y).queue = (s.isl.get y).queue := by
  induction l generalizing pa s with
  | nil => rfl
  | cons w l ih => exact (ih (pa + 8) _).trans (cohWr_queue s pa 8 w.toNat y)

theorem logErr_poison (unit : Nat) (y : Isl) (val : W64) (rsn : Nat) (s : State) :
    (logErr 3 unit y val rsn s).isl = s.isl ∧ (logErr 3 unit y val rsn s).mem = s.mem ∧ (logErr 3 unit y val rsn s).core = s.core := by
  unfold logErr
  dsimp only
  rw [if_neg (by decide)]
  exact ⟨rfl, rfl, rfl⟩

/-- A record is written, and the queue's registers move on (R357). -/
def storeRecord (y : Isl) (r : Rec) (s : State) : State :=
  let i := s.isl.get y
  (putWords (natBits i.rqb.toNat 51 14 * 16384 + 64 * i.rqt.toNat) (recWords r i.rsn) s).modI y fun i =>
    { i with rqt := i.rqt + 1, rsn := i.rsn + 1 }

/-- A stop that was requested is over once its record is posted (R390). -/
def endStop (r : Rec) (s : State) : State :=
  if r.cause = 0x21 then s.modC (coreNo r.core.toNat) fun k => { k with dbgStop := false } else s

theorem postRecord_eq (y : Isl) (r : Rec) (s : State) : postRecord y r s =
    if r.cause = 0x34 then logErr 3 (r.dtl.toNat % 65536) y r.fadr (s.isl.get y).rsn (endStop r (storeRecord y r s))
    else endStop r (storeRecord y r s) := rfl

theorem storeRecord_spec (y : Isl) (r : Rec) (s : State) :
    let i := s.isl.get y
    let t := storeRecord y r s
    (t.isl.get y).waiting = i.waiting ∧ (t.isl.get y).rqt = i.rqt + 1 ∧ (t.isl.get y).rqh = i.rqh ∧ (t.isl.get y).rsn = i.rsn + 1 ∧
    t.mem = (putWords (natBits i.rqb.toNat 51 14 * 16384 + 64 * i.rqt.toNat) (recWords r i.rsn) s).mem ∧ t.core = s.core := by
  intro i t
  unfold t storeRecord
  dsimp only
  generalize hu : putWords _ _ s = u
  have hcore : u.core = s.core := hu ▸ (beside_putWords ..).1
  obtain ⟨hw, hqt, hqh, hsn⟩ := IslandSt.queue_eq (i := i) (j := u.isl.get y) (hu ▸ putWords_queue ..)
  rw [State.modI_get]
  exact ⟨hw, congrArg (· + 1) hqt, hqh, congrArg (· + 1) hsn, rfl, hcore⟩

theorem endStop_spec (r : Rec) (s : State) :
    (endStop r s).isl = s.isl ∧ (endStop r s).mem = s.mem ∧ (r.cause ≠ 0x21 → (endStop r s).core = s.core) ∧
    ∀ d, ((endStop r s).core.get d).resumeDue = (s.core.get d).resumeDue := by
  unfold endStop
  split
  next h =>
    refine ⟨rfl, rfl, fun hn => absurd h hn, fun d => ?_⟩
    rw [State.modC_get_if]
    split
    · rfl
    · rfl
  · exact ⟨rfl, rfl, fun _ => rfl, fun _ => rfl⟩

/-- A record that finds a slot of the queue (R357). -/
theorem postRecord_spec (y : Isl) (r : Rec) (s : State) :
    let i := s.isl.get y
    let t := postRecord y r s
    (t.isl.get y).waiting = i.waiting ∧ (t.isl.get y).rqt = i.rqt + 1 ∧ (t.isl.get y).rqh = i.rqh ∧ (t.isl.get y).rsn = i.rsn + 1 ∧
    t.mem = (putWords (natBits i.rqb.toNat 51 14 * 16384 + 64 * i.rqt.toNat) (recWords r i.rsn) s).mem ∧
    (r.cause ≠ 0x21 → t.core = s.core) ∧ ∀ d, (t.core.get d).resumeDue = (s.core.get d).resumeDue := by
  intro i t
  obtain ⟨hw, hqt, hqh, hsn, hmem, hcore⟩ := storeRecord_spec y r s
  obtain ⟨hi, hm, hc, hd⟩ := endStop_spec r (storeRecord y r s)
  have hend : t.isl = (endStop r (storeRecord y r s)).isl ∧ t.mem = (endStop r (storeRecord y r s)).mem ∧
      t.core = (endStop r (storeRecord y r s)).core := by
    unfold t
    rw [postRecord_eq]
    split
    · exact logErr_poison ..
    · exact ⟨rfl, rfl, rfl⟩
  obtain ⟨ki, km, kc⟩ := hend
  rw [ki, hi, km, hm, kc]
  exact ⟨hw, hqt, hqh, hsn, hmem, fun h => (hc h).trans hcore, fun d => (hd d).trans (by rw [hcore])⟩

theorem execRecordPost_slot {s : State} {y : Isl} {i : IslandSt} {r : Rec} {rest : List Rec} (hy : y = s.arg.y) (hi : i = s.isl.get y)
    (hw : i.waiting = r :: rest) (hf : queueFull i = false) : ∃ t, execRecordPost s = .next t ∧
       (t.isl.get y).waiting = rest ∧ (t.isl.get y).rqt = i.rqt + 1 ∧ (t.isl.get y).rqh = i.rqh ∧ (t.isl.get y).rsn = i.rsn + 1 ∧
       (r.cause ≠ 0x34 → t.mem = (putWords (natBits i.rqb.toNat 51 14 * 16384 + 64 * i.rqt.toNat) (recWords r i.rsn)
         (s.modI y fun i => { i with waiting := rest })).mem) ∧
       (r.cause ≠ 0x21 → (∀ d, (s.core.get d).resumeDue = false) → t.core = s.core) ∧
       (∀ d, islOf d = y → (s.core.get d).resumeDue = true → (rest.any fun r => r.kind != 0 && r.core == coreField d) = false →
         (t.core.get d).run = .running ∧ (t.core.get d).resumeDue = false) := by
  subst hy hi
  let y := s.arg.y
  let s0 := s.modI y fun i => { i with waiting := rest }
  have h0 : s0.isl.get y = { s.isl.get y with waiting := rest } := State.modI_get s y fun i => { i with waiting := rest }
  obtain ⟨hw1, ht1, hh1, hn1, hm1, hc1, hd1⟩ := postRecord_spec y r s0
  rw [h0] at hw1 ht1 hh1 hn1 hm1
  obtain ⟨hi2, hm2, hd2⟩ := resumeWaiting_spec y (postRecord y r s0)
  let t1 := resumeWaiting y (postRecord y r s0)
  let t := if rest.isEmpty then t1 else t1.now .recordPost (argY y)
  have ht : t.isl = t1.isl ∧ t.mem = t1.mem ∧ t.core = t1.core := by
    unfold t
    split
    · exact ⟨rfl, rfl, rfl⟩
    · exact ⟨rfl, rfl, rfl⟩
  obtain ⟨hi3, hm3, hc3⟩ := ht
  refine ⟨t, ?_, ?_⟩
  · unfold execRecordPost
    dsimp only
    rw [hw]
    dsimp only
    rw [hf, if_neg Bool.false_ne_true]
  · rw [hi3, hm3, hc3, hi2, hm2]
    refine ⟨hw1, ht1, hh1, hn1, fun _ => hm1, fun hr hnone => ?_, fun d hdy hdue hany => ?_⟩
    · refine Vector.ext fun d hd => ?_
      have hsame := (hd2 ⟨d, hd⟩).2 fun hp => by
        rw [mayResume, hd1] at hp
        exact Bool.noConfusion (hp.2.1.symm.trans (hnone _))
      exact hsame.trans (by rw [hc1 hr]; rfl)
    · refine (hd2 d).1 ⟨hdy, ?_, ?_⟩
      · exact (hd1 d).trans hdue
      · rw [hw1, hany]
        rfl

/-! Stops that are asked for (R390, R391), and consumed poison of a core without an item (R382). -/

theorem execSfiOverrun_spec {s : State} {c : CoreId} {k : CoreSt} (hc : c = s.arg.c) (hk : k = s.core.get c) :
    ∃ t, execSfiOverrun s = .next t ∧ t.core = (s.modC c fun k => { k with overrun := true }).core ∧ t.mem = s.mem ∧
       (t.isl.get (islOf c)).waiting = (s.isl.get (islOf c)).waiting ++
         [⟨7, k.penOf, k.ctx, coreField c, 0, 0x30, k.r.pc, BitVec.ofNat 64 k.cyc, k.sfi, 0, 0, 0, 0⟩] := by
  let s1 := s.modC c fun k => { k with overrun := true }
  refine ⟨eventRec c 0x30 k.r.pc k.sfi 0 s1, ?_, rfl, rfl, ?_⟩
  · unfold execSfiOverrun
    dsimp only
    rw [← hc, ← hk]
  · have hget : s1.core.get c = { k with overrun := true } := by
      rw [hk]
      exact State.modC_get s c fun k => { k with overrun := true }
    rw [eventRec, sendRec_waiting, hget]
    rfl

/-- A record that goes to its queue, or waits, changes its core's record alone. -/
theorem postStop_core (c : CoreId) (s : State) : ∃ o, (postStop c s).core.get c = { s.core.get c with rec_ := o } := by
  unfold postStop
  dsimp only
  split
  · exact ⟨_, rfl⟩
  · split
    · exact ⟨none, State.modC_get s c fun k => { k with rec_ := none }⟩
    · exact ⟨_, rfl⟩

theorem execRequestedStop_idle {s : State} (h : (s.core.get s.arg.c).run ≠ .running) : execRequestedStop s = .next s := by
  unfold execRequestedStop
  dsimp only
  rw [if_pos h]

theorem execRequestedStop_stops {s : State} {c : CoreId} {k : CoreSt} (hc : c = s.arg.c) (hk : k = s.core.get c) (h : k.run = .running) :
    ∃ t, execRequestedStop s = .next t ∧ (t.core.get c).run = .stopped 0x21 ∧ (t.core.get c).r = k.r ∧
       (t.core.get c).pend = k.pend ∧ (t.core.get c).stepArm = 0 := by
  unfold execRequestedStop
  dsimp only
  rw [← hc, ← hk, if_neg (not_not_intro h)]
  refine ⟨_, rfl, ?_⟩
  generalize (if k.stepArm = 2 then (0x10001 : W64) else 0x10000) = f
  generalize (⟨7, k.penOf, k.ctx, coreField c, 1, 0x21, k.r.pc, BitVec.ofNat 64 k.cyc, f, k.r.phase.setWidth 64, k.r.pc, 0, 0⟩ : Rec) = r
  generalize hs1 : s.modC c _ = s1
  have h1 : s1.core.get c = { k with run := .stopped 0x21, rec_ := some r, stepArm := 0, wait := 0 } := by
    rw [← hs1, State.modC_get, ← hk]
  obtain ⟨hcore, -⟩ := beside_traceEv c 0x04 k.r.pc f s1
  obtain ⟨o, ho⟩ := postStop_core c (traceEv c 0x04 k.r.pc f s1)
  rw [ho, hcore, h1]
  exact ⟨rfl, rfl, rfl, rfl⟩

/-- The stop of a core that rolled back: its record is on its way if nothing that its checkpoint covers is (R231, R358). -/
theorem postStop_spec {s : State} {c : CoreId} {r : Rec} (hr : (s.core.get c).rec_ = some r) (hk : r.kind = 0) :
    let k := s.core.get c
    let t := postStop c s
    let due := k.pend = [] ∧ k.loads = [] ∧ ∀ o ∈ s.dev.hops, o.core = c → o.slot.isSome = true ∨ o.status ≠ 0 ∨ o.gone = true
    t.mem = s.mem ∧
    (due → (t.isl.get (islOf c)).waiting = (s.isl.get (islOf c)).waiting ++ [r] ∧ (t.core.get c).rec_ = none) ∧
    (¬ due → t = s) := by
  intro k t due
  have hdue : (k.pend.isEmpty && k.loads.isEmpty &&
      !(s.dev.hops.any fun o => o.core == c && o.slot.isNone && o.status == 0 && !o.gone)) = true ↔ due := by
    simp only [Bool.and_eq_true, List.isEmpty_iff, Bool.not_eq_true', List.any_eq_false, beq_iff_eq, Option.isNone_iff_eq_none, and_assoc, due]
    refine and_congr_right' (and_congr_right' (forall₂_congr fun o ho => ?_))
    cases o.slot <;> cases o.gone <;> simp
  have ht : t = if k.pend.isEmpty && k.loads.isEmpty && !(s.dev.hops.any fun o => o.core == c && o.slot.isNone && o.status == 0 && !o.gone)
      then sendRec (islOf c) (k.recOf r) (s.modC c fun k => { k with rec_ := none }) else s := by
    unfold t postStop
    dsimp only
    rw [hr]
  rw [ht]
  by_cases h : due
  · rw [if_pos (hdue.2 h)]
    refine ⟨rfl, fun _ => ⟨?_, ?_⟩, fun hn => absurd h hn⟩
    · rw [sendRec_waiting, CoreSt.recOf, if_neg (by rw [hk]; decide)]
      rfl
    · exact congrArg CoreSt.rec_ (State.modC_get s c fun k => { k with rec_ := none })
  · rw [if_neg fun hb => h (hdue.1 hb)]
    exact ⟨rfl, fun hp => absurd hp h, fun _ => rfl⟩

/-- What an earlier record that still waits for deliveries does when another stop follows: it goes to its queue. -/
theorem sendEarlier_spec (c : CoreId) (k : CoreSt) (s : State) :
    let t := (k.rec_.map k.recOf).elim s fun r => sendRec (islOf c) r s
    t.core = s.core ∧ t.dev = s.dev ∧ t.mem = s.mem ∧
    (t.isl.get (islOf c)).waiting = (s.isl.get (islOf c)).waiting ++ (k.rec_.map k.recOf).toList := by
  intro t
  unfold t
  cases k.rec_ with
  | none => exact ⟨rfl, rfl, rfl, (List.append_nil _).symm⟩
  | some r => exact ⟨rfl, rfl, rfl, sendRec_waiting ..⟩

theorem rollback_beside (c : CoreId) (s : State) : (rollback c s).isl = s.isl ∧ (rollback c s).dev.hops = s.dev.hops ∧
    (rollback c s).dev.purges = s.dev.purges := by
  unfold rollback undoPops State.modL
  dsimp only
  split
  · split
    · exact ⟨rfl, rfl, rfl⟩
    · exact ⟨rfl, rfl, rfl⟩
  · exact ⟨rfl, rfl, rfl⟩

theorem startEdges_frame (c : CoreId) (s : State) : (startEdges c s).core = s.core ∧ (startEdges c s).dev = s.dev ∧
    (startEdges c s).mem = s.mem ∧ (startEdges c s).isl = s.isl := by
  unfold startEdges
  split
  · exact ⟨rfl, rfl, rfl, rfl⟩
  · exact ⟨rfl, rfl, rfl, rfl⟩

theorem filter_le_eq_nil {α : Type} (f : α → Nat) (n : Nat) (l : List α) : l.filter (fun x => decide (f x ≤ n)) = [] ↔ ∀ x ∈ l, n < f x := by
  simp

/-- A core without an item that consumes poison rolls back and stays stopped (R231, R382). -/
theorem poisonStop_spec (c : CoreId) (r : Rec) (hr : r.kind = 0) (s : State) :
    let k := s.core.get c
    let t := postStop c (startEdges c ((rollback c s).modC c fun k => { k.count 12 1 with run := .trapped 0x34, rec_ := some r }))
    let was := (s.isl.get (islOf c)).waiting
    let due : Prop := (∀ d ∈ k.pend, k.ckSeq < d.seq) ∧ (∀ o ∈ k.loads, k.ckSeq < o.seq) ∧
      ∀ o ∈ s.dev.hops, o.core = c → o.slot.isSome = true ∨ o.status ≠ 0 ∨ o.gone = true
    (t.core.get c).run = .trapped 0x34 ∧ (t.core.get c).r = k.ck ∧ (t.core.get c).wst = [] ∧ t.mem = s.mem ∧
    (due → (t.isl.get (islOf c)).waiting = was ++ [r] ∧ (t.core.get c).rec_ = none) ∧
    (¬ due → (t.isl.get (islOf c)).waiting = was ∧ (t.core.get c).rec_ = some r ∧ t.has (.edge c) = true) := by
  intro k t was due
  obtain ⟨hreg, hwst, -, -, hpend, hmem, -⟩ := rollback_spec c s
  obtain ⟨hloads, -⟩ := rollback_loads_sto_launch c s
  obtain ⟨hisl, hhops, -⟩ := rollback_beside c s
  let v := (rollback c s).modC c fun k => { k.count 12 1 with run := .trapped 0x34, rec_ := some r }
  have hv : v.core.get c = { ((rollback c s).core.get c).count 12 1 with run := .trapped 0x34, rec_ := some r } :=
    State.modC_get (rollback c s) c fun k => { k.count 12 1 with run := .trapped 0x34, rec_ := some r }
  obtain ⟨hec, hed, hem, hei⟩ := startEdges_frame c v
  have hu : (startEdges c v).core.get c = { ((rollback c s).core.get c).count 12 1 with run := .trapped 0x34, rec_ := some r } := by
    rw [hec, hv]
  obtain ⟨o, ho⟩ := postStop_core c (startEdges c v)
  obtain ⟨km, kdue, knot⟩ := postStop_spec (s := startEdges c v) (c := c) (r := r) (by rw [hu]) hr
  rw [hei, show v.isl = s.isl from hisl, hed, show v.dev.hops = s.dev.hops from hhops] at kdue
  rw [hed, show v.dev.hops = s.dev.hops from hhops] at knot
  have hp : ((startEdges c v).core.get c).pend = [] ↔ ∀ d ∈ k.pend, k.ckSeq < d.seq := by
    rw [hu]
    exact (iff_of_eq (congrArg (· = []) hpend)).trans (filter_le_eq_nil ..)
  have hl : ((startEdges c v).core.get c).loads = [] ↔ ∀ d ∈ k.loads, k.ckSeq < d.seq := by
    rw [hu]
    exact (iff_of_eq (congrArg (· = []) hloads)).trans (filter_le_eq_nil ..)
  rw [hp, hl] at kdue knot
  have ht : t = postStop c (startEdges c v) := rfl
  rw [ht]
  refine ⟨?_, ?_, ?_, ?_, kdue, fun hn => ?_⟩
  · rw [ho, hu]
  · rw [ho, hu]
    exact hreg
  · rw [ho, hu]
    exact hwst
  · exact (km.trans hem).trans hmem
  · rw [knot hn, hei, hu]
    exact ⟨congrArg (fun v => (Vector.get v (islOf c)).waiting) hisl, rfl, startEdges_has c v⟩

theorem execPoisonConsumed_idle {s : State} (h : (s.core.get s.arg.c).run = .unbound ∨ (s.core.get s.arg.c).run = .dark) :
    execPoisonConsumed s = .next s := by
  unfold execPoisonConsumed
  dsimp only
  rw [if_pos h]

theorem execPoisonConsumed_stops {s : State} {c : CoreId} {k : CoreSt} {r : Rec} (hc : c = s.arg.c) (hk : k = s.core.get c)
    (hr : r = ⟨BitVec.ofNat 3 s.arg.m, k.penOf, k.ctx, coreField c, 0, 0x34, BitVec.ofNat 64 s.arg.line, BitVec.ofNat 64 k.cyc, s.arg.v,
      BitVec.ofNat 64 (s.arg.n % 2 ^ 16 + s.arg.flag.toNat * 2 ^ 16), 0, 0, 0⟩)
    (h1 : k.run ≠ .unbound) (h2 : k.run ≠ .dark) (h3 : k.r.held = none) (h4 : k.ck.held = none) :
    ∃ t, execPoisonConsumed s = .next t ∧
       (t.core.get c).run = .trapped 0x34 ∧ (t.core.get c).r = k.ck ∧ (t.core.get c).wst = [] ∧ t.mem = s.mem ∧
       let was := (s.isl.get (islOf c)).waiting ++ (k.rec_.map k.recOf).toList
       let due : Prop := (∀ d ∈ k.pend, k.ckSeq < d.seq) ∧ (∀ o ∈ k.loads, k.ckSeq < o.seq) ∧
         ∀ o ∈ s.dev.hops, o.core = c → o.slot.isSome = true ∨ o.status ≠ 0 ∨ o.gone = true
       (due → (t.isl.get (islOf c)).waiting = was ++ [r] ∧ (t.core.get c).rec_ = none) ∧
       (¬ due → (t.isl.get (islOf c)).waiting = was ∧ (t.core.get c).rec_ = some r ∧ t.has (.edge c) = true) := by
  let s1 := s.modI (islOf c) fun i => i.count 12 1
  let s2 := (k.rec_.map k.recOf).elim s1 fun r => sendRec (islOf c) r s1
  obtain ⟨hcore, hdev, hmem, hwait⟩ := sendEarlier_spec c k s1
  have hs1 : (s1.isl.get (islOf c)).waiting = (s.isl.get (islOf c)).waiting :=
    (congrArg IslandSt.waiting (State.modI_get s (islOf c) fun i => i.count 12 1) :)
  have hk0 : r.kind = 0 := by rw [hr]
  have hstop := poisonStop_spec c r hk0 s2
  dsimp only at hstop
  rw [show s2.core = s.core from hcore, show s2.dev = s.dev from hdev, show s2.mem = s.mem from hmem, hwait, hs1, ← hk] at hstop
  refine ⟨_, ?_, hstop⟩
  unfold execPoisonConsumed
  dsimp only
  rw [← hc, ← hk, if_neg (not_or.2 ⟨h1, h2⟩), h3, h4, ← hr]
  unfold s2
  cases k.rec_ with
  | none => rfl
  | some x => rfl

/-! Purges (R383, R384). -/

/-- Of the other cores only their pre-emption changes, and of the purge blocks only what they count. -/
structure OnCore (c : CoreId) (s t : State) : Prop where
  others : ∀ d, d ≠ c → ∃ b, t.core.get d = { s.core.get d with preempt := b }
  blocks : ∀ cx p, purgeBlock t cx p = purgeBlock s cx p

theorem OnCore.trans {c : CoreId} {s t u : State} (h : OnCore c s t) (h' : OnCore c t u) : OnCore c s u where
  others d hd := by
    obtain ⟨b, hb⟩ := h.others d hd
    obtain ⟨b', hb'⟩ := h'.others d hd
    exact ⟨b', by rw [hb', hb]⟩
  blocks cx p := (h'.blocks cx p).trans (h.blocks cx p)

theorem purgeBlock_congr {s t : State} (h : t.dev.purges = s.dev.purges) (cx : BitVec 7) (p : BitVec 16) :
    purgeBlock t cx p = purgeBlock s cx p := by
  unfold purgeBlock
  rw [h]

theorem OnCore.refl (c : CoreId) (s : State) : OnCore c s s := ⟨fun _ _ => ⟨_, rfl⟩, fun _ _ => rfl⟩

theorem OnCore.of_eq {c : CoreId} {s t : State} (hcore : ∀ d, d ≠ c → t.core.get d = s.core.get d) (hdev : t.dev.purges = s.dev.purges) :
    OnCore c s t :=
  ⟨fun d hd => ⟨_, hcore d hd⟩, purgeBlock_congr hdev⟩

theorem OnCore.modC (c : CoreId) (s : State) (f : CoreSt → CoreSt) : OnCore c s (s.modC c f) :=
  .of_eq (fun _ hd => State.modC_get_ne s f hd) rfl

theorem OnCore.foldl {α : Type} {c : CoreId} {f : State → α → State} (hf : ∀ (s : State) a, OnCore c s (f s a)) (l : List α) (s : State) :
    OnCore c s (l.foldl f s) := by
  induction l generalizing s with
  | nil => exact .of_eq (fun _ _ => rfl) rfl
  | cons a l ih => exact (hf s a).trans (ih (f s a))

theorem purgeBlock_countPurged (s : State) (cx : BitVec 7) (p : BitVec 16) (n : Nat) (cx' : BitVec 7) (p' : BitVec 16) :
    purgeBlock (countPurged cx p n s) cx' p' = purgeBlock s cx' p' := by
  unfold purgeBlock countPurged
  refine List.any_map.trans (congrArg (List.any s.dev.purges) (funext fun x => ?_))
  dsimp only [Function.comp]
  split
  · rfl
  · rfl

theorem onCore_countPurged (c : CoreId) (s : State) (cx : BitVec 7) (p : BitVec 16) (n : Nat) : OnCore c s (countPurged cx p n s) :=
  ⟨fun _ _ => ⟨_, rfl⟩, purgeBlock_countPurged s cx p n⟩

theorem modL_purges (s : State) (n : Nat) (f : Launch → Launch) : (s.modL n f).dev.purges = s.dev.purges := by
  unfold State.modL
  split
  · rfl
  · rfl

theorem onCore_modL (c : CoreId) (s : State) (n : Nat) (f : Launch → Launch) : OnCore c s (s.modL n f) :=
  .of_eq (fun _ _ => congrArg (Vector.get · _) (modL_core ..)) (modL_purges ..)

theorem onCore_landPush (c : CoreId) (x : Delivery) (s : State) : OnCore c s (landPush c x s) := by
  unfold landPush
  split
  · dsimp only
    split
    · exact (OnCore.modC c s _).trans ((onCore_countPurged ..).trans (.modC c _ _))
    · split
      · split
        · exact ((OnCore.modC c s _).trans (onCore_modL ..)).trans (.modC c _ _)
        · exact (OnCore.modC c s _).trans (.modC c _ _)
      · exact (OnCore.modC c s _).trans (.modC c _ _)
  · exact .of_eq (fun _ _ => rfl) rfl

theorem onCore_abandonHop (c : CoreId) (s : State) (o : HalOp) : OnCore c s (abandonHop s o) := by
  unfold abandonHop
  dsimp only
  split
  · exact .of_eq (fun _ _ => rfl) rfl
  · exact .of_eq (fun _ _ => rfl) rfl

theorem onCore_abandonCore (c : CoreId) (s : State) : OnCore c s (abandonCore c s) := by
  unfold abandonCore
  dsimp only
  generalize hs1 : landPushes c (fun _ => true) s = s1
  have h1 : OnCore c s s1 := hs1 ▸ .foldl (fun s x => onCore_landPush c x s) _ s
  generalize hs2 : (s1.dev.hops.filter (·.core == c)).foldl abandonHop s1 = s2
  have h2 : OnCore c s1 s2 := hs2 ▸ .foldl (fun s o => onCore_abandonHop c s o) _ s1
  refine ((h1.trans h2).trans ?_).trans (.modC c _ _)
  exact .of_eq (fun _ _ => rfl) rfl

theorem onCore_unbindCore (c : CoreId) (s : State) : OnCore c s (unbindCore c s) := by
  obtain ⟨u, hu, -, hne, hp, -⟩ := unbindCore_dispatches c s
  have hd := dispatched_dispatch u
  rw [hu]
  exact (OnCore.of_eq hne hp).trans ⟨fun d _ => hd.core d, purgeBlock_congr hd.purges⟩

theorem onCore_rollback (c : CoreId) (s : State) : OnCore c s (rollback c s) := by
  obtain ⟨-, -, -, -, -, -, hne⟩ := rollback_spec c s
  exact .of_eq hne (rollback_beside c s).2.2

/-- The rollback of a core that a purge reaches: it counts as one if the core runs. -/
def purgeRoll (c : CoreId) (k : CoreSt) (s : State) : State :=
  if k.run = .running then (rollback c s).modC c fun k => k.count 12 1 else rollback c s

/-- The uncommitted pulls of a core that a purge reaches are no longer out. -/
def purgePulls (c : CoreId) (k : CoreSt) (s : State) : State :=
  (k.launch.elim s fun n => s.modL n fun l => l.modStage k.stg.toNat fun x => { x with out := x.out - (k.pops.filter (·.isPull)).length }).modC c
    fun k => { k with pops := [] }

/-- A record that still waits for deliveries goes to its queue. -/
def purgeRec (c : CoreId) (k : CoreSt) (s : State) : State := k.rec_.elim s fun r => sendRec (islOf c) (k.recOf r) s

theorem purgeCore_eq (c : CoreId) (s : State) : purgeCore c s =
    unbindCore c (abandonCore c (purgeRec c (s.core.get c) (purgeRoll c (s.core.get c) (purgePulls c (s.core.get c) s)))) := by
  unfold purgeCore
  refine congrArg (fun u => unbindCore c (abandonCore c u)) ?_
  unfold purgeRec purgeRoll purgePulls
  cases (s.core.get c).launch <;> cases (s.core.get c).rec_ <;> dsimp only [Option.elim]

theorem onCore_purgePulls (c : CoreId) (k : CoreSt) (s : State) : OnCore c s (purgePulls c k s) := by
  unfold purgePulls
  refine OnCore.trans ?_ (.modC c _ _)
  cases k.launch with
  | none => exact .refl c s
  | some n => exact onCore_modL ..

theorem onCore_purgeRoll (c : CoreId) (k : CoreSt) (s : State) : OnCore c s (purgeRoll c k s) := by
  unfold purgeRoll
  split
  · exact (onCore_rollback c s).trans (.modC ..)
  · exact onCore_rollback c s

theorem onCore_purgeRec (c : CoreId) (k : CoreSt) (s : State) : OnCore c s (purgeRec c k s) := by
  unfold purgeRec
  cases k.rec_ with
  | none => exact .refl c s
  | some r => exact .of_eq (fun _ _ => rfl) rfl

theorem onCore_purgeCore (c : CoreId) (s : State) : OnCore c s (purgeCore c s) := by
  rw [purgeCore_eq]
  exact (((onCore_purgePulls ..).trans (onCore_purgeRoll ..)).trans (onCore_purgeRec ..)).trans
    ((onCore_abandonCore ..).trans (onCore_unbindCore ..))

theorem purgeCore_core (c : CoreId) (s : State) :
    ((purgeCore c s).core.get c).run = .unbound ∧ ((purgeCore c s).core.get c).r.held = none := by
  rw [purgeCore_eq]
  generalize abandonCore c _ = u
  obtain ⟨b, hb⟩ := unbindCore_core c u
  rw [hb]
  exact ⟨rfl, rfl⟩

/-- A purge of the cores of a list (R383). -/
def purgeCores (l : List CoreId) (s : State) : State := l.foldl (fun s c => purgeCore c s) s

theorem purgeCores_cons (c : CoreId) (l : List CoreId) (s : State) : purgeCores (c :: l) s = purgeCores l (purgeCore c s) := by
  unfold purgeCores
  rw [List.foldl_cons]

theorem purgeCores_blocks (l : List CoreId) (s : State) (cx : BitVec 7) (p : BitVec 16) :
    purgeBlock (purgeCores l s) cx p = purgeBlock s cx p := by
  induction l generalizing s with
  | nil => rfl
  | cons d l ih => rw [purgeCores_cons, ih, (onCore_purgeCore d s).blocks]

/-- Core c is unbound and holds no item. -/
def Freed (s : State) (c : CoreId) : Prop := (s.core.get c).run = .unbound ∧ (s.core.get c).r.held = none

theorem freed_purgeCore {c : CoreId} (d : CoreId) {s : State} (h : c = d ∨ Freed s c) : Freed (purgeCore d s) c := by
  by_cases hcd : c = d
  · subst hcd
    exact purgeCore_core c s
  · obtain ⟨b, hb⟩ := (onCore_purgeCore d s).others c hcd
    unfold Freed
    rw [hb]
    exact h.resolve_left hcd

/-- Of the cores that a purge reaches each is unbound and holds no item. -/
theorem freed_purgeCores {c : CoreId} (l : List CoreId) {s : State} (h : c ∈ l ∨ Freed s c) : Freed (purgeCores l s) c := by
  induction l generalizing s with
  | nil => exact h.resolve_left List.not_mem_nil
  | cons d l ih =>
    rw [purgeCores_cons]
    rcases h with h | h
    · rcases List.mem_cons.1 h with h | h
      · exact ih (.inr (freed_purgeCore d (.inl h)))
      · exact ih (.inl h)
    · exact ih (.inr (freed_purgeCore d (.inr h)))

/-- Pending launches that a purge ends leave the cores and the purge blocks. -/
theorem foldl_endLaunch_dispatched (st : LSt) (l : List Nat) (s : State) : Dispatched s (l.foldl (fun s n => endLaunch n st s) s) :=
  .foldl (fun s n => dispatched_endLaunch n st s) l s

/-- A purge that starts blocks its pennant, and unbinds each core that holds an item with it (R383, R384). -/
theorem startPurge_spec {s : State} {cx : BitVec 7} {p : BitVec 16} (hno : purgeBlock s cx p = false) (b : Option (CoreId × Nat))
    (r : Option Rec) : let t := startPurge cx p b r s
    purgeBlock t cx p = true ∧
    ∀ c, flies s cx p c = true → (t.core.get c).run = .unbound ∧ (t.core.get c).r.held = none := by
  intro t
  unfold t startPurge
  rw [if_neg (by rw [hno]; decide)]
  dsimp only
  generalize hs1 : s.modD _ = s1
  have h1 : purgeBlock s1 cx p = true := by
    rw [← hs1]
    unfold purgeBlock
    exact List.any_eq_true.2 ⟨_, List.mem_append_right _ List.mem_cons_self, by simp⟩
  generalize hs2 : List.foldl (fun s n => endLaunch n .purged s) s1 _ = s2
  have h2 : Dispatched s1 s2 := hs2 ▸ foldl_endLaunch_dispatched ..
  generalize hs3 : countPurged cx p _ s2 = s3
  have h3 (cx' p') : purgeBlock s3 cx' p' = purgeBlock s2 cx' p' := hs3 ▸ purgeBlock_countPurged ..
  rw [show List.foldl (fun s c => purgeCore c s) s3 (coreIds.filter (flies s cx p)) = purgeCores (coreIds.filter (flies s cx p)) s3 from rfl]
  have hb := purgeCores_blocks (coreIds.filter (flies s cx p)) s3 cx p
  have hc (c : CoreId) (h : flies s cx p c = true) : Freed (purgeCores (coreIds.filter (flies s cx p)) s3) c :=
    freed_purgeCores _ (.inl (List.mem_filter.2 ⟨mem_coreIds c, h⟩))
  generalize purgeCores (coreIds.filter (flies s cx p)) s3 = s4 at hb hc ⊢
  generalize hs5 : purgeSaved cx _ s4 = s5
  have h5 : Dispatched s4 s5 := by
    rw [← hs5]
    exact .modD _ rfl rfl
  have h6 := h5.trans (dispatched_dispatch s5)
  generalize dispatch s5 = s6 at h6 ⊢
  constructor
  · refine (purgeBlock_congr h6.purges cx p).trans ?_
    rw [hb, h3, purgeBlock_congr h2.purges, h1]
  · intro c hf
    obtain ⟨b', hb'⟩ := h6.core c
    have hgone := hc c hf
    have hget : s6.core.get c = _ := hb'
    refine ⟨(congrArg CoreSt.run hget).trans hgone.1, (congrArg (fun k => k.r.held) hget).trans hgone.2⟩

theorem execPoisonConsumed_purges {s : State} {c : CoreId} {k : CoreSt} {i : Item} (hc : c = s.arg.c) (hk : k = s.core.get c)
    (h1 : k.run ≠ .unbound) (h2 : k.run ≠ .dark) (h3 : k.r.held.or k.ck.held = some i) (h4 : isMgmt c = false)
    (h5 : purgeBlock s k.ctx i.pen = false) : ∃ t, execPoisonConsumed s = .next t ∧ purgeBlock t k.ctx i.pen = true ∧
      (t.core.get c).run = .unbound ∧ (t.core.get c).r.held = none := by
  let s1 := s.modI (islOf c) fun i => i.count 12 1
  have hflies : flies s1 k.ctx i.pen c = true := by
    have hget : s1.core.get c = k := hk.symm
    unfold flies
    dsimp only
    rw [hget, h4]
    cases hheld : k.r.held with
    | some j =>
      rw [hheld] at h3
      cases h3
      simp [h1]
    | none =>
      rw [hheld] at h3
      have hck : k.ck.held = some i := h3
      simp [h1, hck]
  have hspec (r : Option Rec) := startPurge_spec (s := s1) h5 none r
  have hrun : ∃ r, execPoisonConsumed s = .next (startPurge k.ctx i.pen none r s1) := by
    unfold execPoisonConsumed
    dsimp only
    rw [← hc, ← hk, if_neg (not_or.2 ⟨h1, h2⟩), h3]
    exact ⟨_, rfl⟩
  obtain ⟨r, hr⟩ := hrun
  exact ⟨_, hr, (hspec r).1, (hspec r).2 c hflies⟩

/-- Settles O48: records by the queue's registers, the stop by rollback and posting, and the purge by what each step keeps of the
cores that are already gone. -/
theorem recordSteps : Obligations.RecordSteps := by
  unfold Obligations.RecordSteps
  refine ⟨fun s => ⟨execRecordPost_empty, fun r rest => execRecordPost_full rfl rfl, fun r rest => execRecordPost_slot rfl rfl,
    execSfiOverrun_spec rfl rfl, execRequestedStop_idle, execRequestedStop_stops rfl rfl⟩, fun s => ?_⟩
  exact ⟨execPoisonConsumed_idle, execPoisonConsumed_stops rfl rfl rfl, fun i => execPoisonConsumed_purges rfl rfl⟩

end Sys2Proof.Machine
end

section
/-! O51: scheduling queues and pre-emption. -/

namespace Sys2Proof.Machine

/-! Registers of a queue (R327). -/

theorem sqOf_modQ (s : State) (q : BitVec 8) (f : SchedQ → SchedQ) : (s.modQ q f).sqOf q = f (s.sqOf q) := by
  unfold State.modQ State.sqOf State.modD
  exact Vector.getElem_set_self _

theorem sqOf_accrue (q : BitVec 8) (s : State) : ∃ u, (accrue q s).sqOf q = { s.sqOf q with used := u, seen := s.tick } := by
  unfold accrue State.sqOf State.modD
  exact ⟨_, Vector.getElem_set_self _⟩

theorem sqOf_congr {s t : State} (h : t.dev = s.dev) (q : BitVec 8) : t.sqOf q = s.sqOf q := by
  unfold State.sqOf
  rw [h]

/-- Storage stands, and of the cores at most the mark of background work changes. -/
def QueueOnly (s t : State) : Prop := t.mem = s.mem ∧ ∀ c, (t.core.get c).r = (s.core.get c).r ∧ (t.core.get c).run = (s.core.get c).run

theorem QueueOnly.trans {s t u : State} (h : QueueOnly s t) (h' : QueueOnly t u) : QueueOnly s u :=
  ⟨h'.1.trans h.1, fun c => ⟨(h'.2 c).1.trans (h.2 c).1, (h'.2 c).2.trans (h.2 c).2⟩⟩

theorem queueOnly_accrue (q : BitVec 8) (s : State) : QueueOnly s (accrue q s) := ⟨rfl, fun _ => ⟨rfl, rfl⟩⟩

theorem queueOnly_modQ (s : State) (q : BitVec 8) (f : SchedQ → SchedQ) : QueueOnly s (s.modQ q f) := ⟨rfl, fun _ => ⟨rfl, rfl⟩⟩

theorem queueOnly_after (s : State) (n : Nat) (d : Due) : QueueOnly s (s.after n d) := ⟨rfl, fun _ => ⟨rfl, rfl⟩⟩

theorem queueOnly_planOverrun (q : BitVec 8) (s : State) : QueueOnly s (planOverrun q s) := by
  obtain ⟨hcore, -, hmem⟩ := planOverrun_frame q s
  exact ⟨hmem, fun c => by rw [hcore]; exact ⟨rfl, rfl⟩⟩

/-- The cores of a queue count as its foreground again (R328). -/
theorem foreground_spec (l : List CoreId) (s : State) :
    QueueOnly s (l.foldl (fun s c => s.modC c fun k => { k with bg := false }) s) ∧
    (l.foldl (fun s c => s.modC c fun k => { k with bg := false }) s).dev = s.dev ∧
    (l.foldl (fun s c => s.modC c fun k => { k with bg := false }) s).tick = s.tick := by
  induction l generalizing s with
  | nil => exact ⟨⟨rfl, fun _ => ⟨rfl, rfl⟩⟩, rfl, rfl⟩
  | cons c l ih =>
    obtain ⟨h1, h2, h3⟩ := ih (s.modC c fun k => { k with bg := false })
    have hc : QueueOnly s (s.modC c fun k => { k with bg := false }) := by
      refine ⟨rfl, fun d => ?_⟩
      rw [State.modC_get_if]
      split
      · exact ⟨rfl, rfl⟩
      · exact ⟨rfl, rfl⟩
    exact ⟨hc.trans h1, h2, h3⟩

/-- Periods that start leave the control fields and the waiting values of the queue (R327). -/
theorem startPeriods_spec (q : BitVec 8) (s : State) :
    let x := s.sqOf q
    let y := (startPeriods q s).sqOf q
    QueueOnly s (startPeriods q s) ∧ y.en = x.en ∧ y.hold = x.hold ∧ y.irq = x.irq ∧ y.ctx = x.ctx ∧ y.perNext = x.perNext ∧
      y.budNext = x.budNext := by
  intro x y
  unfold y startPeriods
  dsimp only
  split
  · exact ⟨⟨rfl, fun _ => ⟨rfl, rfl⟩⟩, rfl, rfl, rfl, rfl, rfl, rfl⟩
  · obtain ⟨h1, h2, h3⟩ := foreground_spec (queueCores s q) s
    generalize (queueCores s q).foldl (fun s c => s.modC c fun k => { k with bg := false }) s = s0 at h1 h2 h3 ⊢
    have hx : s0.sqOf q = x := sqOf_congr h2 q
    generalize hs1 : s0.modQ q _ = s1
    have hq1 : QueueOnly s0 s1 := hs1 ▸ queueOnly_modQ ..
    generalize hs2 : s1.after _ _ = s2
    have hq2 : QueueOnly s1 s2 := hs2 ▸ queueOnly_after ..
    have hsq : (planOverrun q s2).sqOf q = s1.sqOf q :=
      (sqOf_congr (planOverrun_frame q s2).2.1 q).trans (by rw [← hs2]; rfl)
    refine ⟨((h1.trans hq1).trans hq2).trans (queueOnly_planOverrun ..), ?_⟩
    rw [hsq, ← hs1, sqOf_modQ, hx]
    exact ⟨rfl, rfl, rfl, rfl, rfl, rfl⟩

/-- QCTL_WRITE (R327). -/
theorem execQctlWrite_spec {s : State} {q : BitVec 8} {v : W64} (hq : q = queueNo s.arg.k) (hv : v = s.arg.v) :
    ∃ t, execQctlWrite s = .next (dispatch t) ∧ (t.sqOf q).en = v.getLsbD 0 ∧ (t.sqOf q).hold = v.getLsbD 1 ∧ (t.sqOf q).irq = v.getLsbD 2 ∧
       (pendingOf s q = 0 → queueCores s q = [] → (t.sqOf q).ctx = v.extractLsb' 8 7) ∧
       (pendingOf s q ≠ 0 ∨ queueCores s q ≠ [] → (t.sqOf q).ctx = (s.sqOf q).ctx) ∧ t.mem = s.mem ∧
       ∀ c, (t.core.get c).r = (s.core.get c).r ∧ (t.core.get c).run = (s.core.get c).run := by
  unfold execQctlWrite
  dsimp only
  rw [← hq, ← hv]
  refine ⟨_, rfl, ?_⟩
  generalize hs1 : (accrue q s).modQ q _ = s1
  have hq1 : QueueOnly s s1 := (queueOnly_accrue q s).trans (hs1 ▸ queueOnly_modQ ..)
  obtain ⟨u, hu⟩ := sqOf_accrue q s
  have hx : s1.sqOf q = _ := (congrArg (fun s => State.sqOf s q) hs1.symm).trans (sqOf_modQ ..)
  obtain ⟨hq2, hen, hhold, hirq, hctx, -, -⟩ := startPeriods_spec q s1
  obtain ⟨hmem, hcores⟩ := hq1.trans hq2
  rw [hen, hhold, hirq, hctx, hx, hu]
  refine ⟨rfl, rfl, rfl, fun h0 h1 => if_neg ?_, fun h => if_pos ?_, hmem, hcores⟩
  · simp [h0, h1]
  · simpa using h

theorem perBudWrite_spec (q : BitVec 8) (per bud : Nat) (s : State) :
    let t := perBudWrite q per bud s
    t.mem = s.mem ∧ (admitted s q per bud = true → (t.sqOf q).perNext = per ∧ (t.sqOf q).budNext = bud) ∧
    (admitted s q per bud = false → t.dev.admf = true ∧ t.dev.sq = s.dev.sq) := by
  intro t
  unfold t perBudWrite
  cases h : admitted s q per bud with
  | false => exact ⟨rfl, (nomatch ·), fun _ => ⟨rfl, rfl⟩⟩
  | true =>
    obtain ⟨hq, -, -, -, -, hp, hb⟩ := startPeriods_spec q (s.modQ q fun x => { x with perNext := per, budNext := bud })
    rw [sqOf_modQ] at hp hb
    exact ⟨hq.1, fun _ => ⟨hp, hb⟩, (nomatch ·)⟩

/-- PERIOD_BOUNDARY (R327, R328). -/
theorem execPeriodBoundary_idle {s : State} (h : (s.sqOf (queueNo s.arg.k)).start = none) : execPeriodBoundary s = .next s := by
  unfold execPeriodBoundary
  dsimp only
  rw [h]

theorem execPeriodBoundary_next {s : State} {q : BitVec 8} {x : SchedQ} {u : Nat} (hq : q = queueNo s.arg.k) (hx : x = s.sqOf q)
    (hu : x.start = some u) (ht : s.tick = u + x.per * Config.usTicks) :
    ∃ t, execPeriodBoundary s = .next (dispatch t) ∧ t.mem = s.mem ∧
       (t.sqOf q).used = 0 ∧ (t.sqOf q).per = x.perNext ∧ (t.sqOf q).bud = x.budNext ∧ (t.sqOf q).index = x.index + 1 ∧
       (t.sqOf q).raised = false ∧ (t.sqOf q).start = if x.perNext = 0 then none else some s.tick := by
  obtain ⟨h1, h2, -⟩ := foreground_spec (queueCores s q) s
  let s1 := (queueCores s q).foldl (fun s c => s.modC c fun k => { k with bg := false }) s
  let f (x : SchedQ) : SchedQ :=
    { x with per := x.perNext, bud := x.budNext, used := 0, seen := s.tick, raised := false, index := x.index + 1
             start := if x.perNext = 0 then none else some s.tick }
  let s3 := if x.perNext = 0 then s1.modQ q f
    else (s1.modQ q f).after (x.perNext * Config.usTicks) (.ev .periodBoundary { Arg.zero with k := q.toNat })
  have h3 : s3.mem = s.mem ∧ s3.dev = (s1.modQ q f).dev := by
    unfold s3
    split
    · exact ⟨h1.1, rfl⟩
    · exact ⟨h1.1, rfl⟩
  obtain ⟨-, hdev, hmem⟩ := planOverrun_frame q s3
  refine ⟨planOverrun q s3, ?_, hmem.trans h3.1, ?_⟩
  · unfold execPeriodBoundary
    dsimp only
    rw [← hq, ← hx, hu]
    dsimp only
    rw [if_neg (not_not_intro ht)]
  · rw [sqOf_congr (hdev.trans h3.2), sqOf_modQ, sqOf_congr h2, ← hx]
    exact ⟨rfl, rfl, rfl, rfl, rfl, rfl⟩

/-! BUDGET_OVERRUN (R329). -/

/-- The record of an overrun goes to each island that has a core of the queue. -/
def overrunRec (cs : List CoreId) (q : BitVec 8) (x : SchedQ) (s : State) (y : Isl) : State :=
  match cs.find? fun c => islOf c == y with
  | some c => eventRec c 0x31 (s.core.get c).r.pc (q.setWidth 64) (BitVec.ofNat 64 x.index) s
  | none => s

theorem overrunRec_spec (cs : List CoreId) (q : BitVec 8) (x : SchedQ) (s : State) (y z : Isl) :
    let t := overrunRec cs q x s y
    t.dev = s.dev ∧ t.mem = s.mem ∧
    (z = y → (∃ c ∈ cs, islOf c = y) → (t.isl.get z).waiting.length = (s.isl.get z).waiting.length + 1) ∧
    (z ≠ y → (t.isl.get z).waiting = (s.isl.get z).waiting) := by
  intro t
  unfold t overrunRec
  split
  next c hc =>
    have hy : islOf c = y := beq_iff_eq.1 (List.find?_some (p := fun c => islOf c == y) hc)
    refine ⟨rfl, rfl, fun hz _ => ?_, fun hz => ?_⟩
    · rw [hz, ← hy, eventRec, sendRec_waiting, List.length_append, List.length_singleton]
    · have hzc : z ≠ islOf c := hy.symm ▸ hz
      exact (congrArg IslandSt.waiting (State.modI_get_ne s (fun i => { i with waiting := i.waiting ++
        [(s.core.get c).eventOf c 0x31 (s.core.get c).r.pc (q.setWidth 64) (BitVec.ofNat 64 x.index)] }) hzc) :)
  next hc =>
    refine ⟨rfl, rfl, fun _ h => ?_, fun _ => rfl⟩
    obtain ⟨c, hmem, hcy⟩ := h
    exact absurd (beq_iff_eq.2 hcy) (List.find?_eq_none.1 hc c hmem)

theorem foldl_overrunRec_spec (cs : List CoreId) (q : BitVec 8) (x : SchedQ) (l : List Isl) (hl : l.Nodup) (s : State) (z : Isl) :
    let t := l.foldl (overrunRec cs q x) s
    t.dev = s.dev ∧ t.mem = s.mem ∧
    (z ∈ l → (∃ c ∈ cs, islOf c = z) → (t.isl.get z).waiting.length = (s.isl.get z).waiting.length + 1) ∧
    (z ∉ l → (t.isl.get z).waiting = (s.isl.get z).waiting) := by
  induction l generalizing s with
  | nil => exact ⟨rfl, rfl, fun h => (List.not_mem_nil h).elim, fun _ => rfl⟩
  | cons y l ih =>
    obtain ⟨hyl, hnd⟩ := List.nodup_cons.1 hl
    obtain ⟨h1, h2, h3, h4⟩ := overrunRec_spec cs q x s y z
    obtain ⟨k1, k2, k3, k4⟩ := ih hnd (overrunRec cs q x s y)
    refine ⟨k1.trans h1, k2.trans h2, fun hz hc => ?_, fun hz => ?_⟩
    · by_cases hzy : z = y
      · rw [List.foldl_cons, k4 (hzy ▸ hyl), h3 hzy (hzy ▸ hc)]
      · rw [List.foldl_cons, k3 (List.mem_of_ne_of_mem hzy hz) hc, h4 hzy]
    · rw [List.foldl_cons, k4 (fun h => hz (List.mem_cons_of_mem _ h)), h4 fun h => hz (h ▸ List.mem_cons_self)]

theorem islIds_nodup : islIds.Nodup := List.nodup_ofFn.2 Function.injective_id

theorem execBudgetOverrun_raises {s : State} {q : BitVec 8} {a : SchedQ} (hq : q = queueNo s.arg.k) (ha : a = (accrue q s).sqOf q)
    (h1 : a.start.isSome = true) (h2 : a.raised = false) (h3 : queueCores s q ≠ []) (h4 : a.bud * Config.usTicks ≤ a.used) :
    ∃ t, execBudgetOverrun s = .next (dispatch t) ∧ (t.sqOf q).ovr = true ∧ (t.sqOf q).raised = true ∧ t.mem = s.mem ∧
      ∀ c ∈ queueCores s q, (t.isl.get (islOf c)).waiting.length = (s.isl.get (islOf c)).waiting.length + 1 := by
  let u := accrue q s
  let s1 := u.modQ q fun x => { x with raised := true, ovr := true }
  have hspec := foldl_overrunRec_spec (queueCores s q) q a islIds islIds_nodup s1
  refine ⟨islIds.foldl (overrunRec (queueCores s q) q a) s1, ?_, ?_, ?_, (hspec 0).2.1, fun c hc => ?_⟩
  · unfold execBudgetOverrun
    dsimp only
    rw [← hq, ← ha, if_neg]
    · rfl
    · rw [show queueCores (accrue q s) q = queueCores s q from rfl]
      simp only [not_or, Bool.not_eq_true, List.isEmpty_eq_false_iff, not_lt]
      exact ⟨by simpa [Option.isSome_iff_ne_none] using h1, h2, h3, h4⟩
  · rw [sqOf_congr (hspec 0).1, sqOf_modQ]
  · rw [sqOf_congr (hspec 0).1, sqOf_modQ]
  · exact (hspec (islOf c)).2.2.1 (mem_islIds _) ⟨c, hc, rfl⟩

/-! Pre-emption (R363). -/

theorem requestPreempt_asks {s : State} {c : CoreId} (h1 : isMgmt c = false) (h2 : (s.core.get c).run ≠ .unbound)
    (h3 : (s.core.get c).run ≠ .saving) (h4 : (freeSlot s (s.core.get c).ctx).isSome = true) :
    requestPreempt c s = s.modC c fun k => { k with preempt := true } := by
  unfold requestPreempt
  refine if_neg ?_
  rw [h1, Option.isNone_eq_false_iff.2 h4]
  simp [h2, h3]

theorem requestPreempt_stays {s : State} {c : CoreId} (h : isMgmt c = true ∨ (s.core.get c).run = .unbound ∨
    (s.core.get c).run = .saving ∨ freeSlot s (s.core.get c).ctx = none) : requestPreempt c s = s := by
  unfold requestPreempt
  exact if_pos (h.imp_right (.imp_right (.imp_right Option.isNone_iff_eq_none.2)))

/-- What the save of a core leaves: the cores and the contexts. -/
def SaveKeeps (s t : State) : Prop := t.core = s.core ∧ t.dev.cx = s.dev.cx

theorem SaveKeeps.trans {s t u : State} (h : SaveKeeps s t) (h' : SaveKeeps t u) : SaveKeeps s u := ⟨h'.1.trans h.1, h'.2.trans h.2⟩

theorem SaveKeeps.foldl {α : Type} {f : State → α → State} (hf : ∀ (s : State) a, SaveKeeps s (f s a)) (l : List α) (s : State) :
    SaveKeeps s (l.foldl f s) := by
  induction l generalizing s with
  | nil => exact ⟨rfl, rfl⟩
  | cons a l ih => exact (hf s a).trans (ih (f s a))

theorem saveKeeps_flushRange (lo hi : Nat) (s : State) : SaveKeeps s (flushRange lo hi s) := by
  unfold flushRange
  dsimp only
  refine SaveKeeps.foldl (fun s l => ?_) _ s
  exact ⟨rfl, rfl⟩

theorem saveKeeps_retag (k : SlotKey) (line : Nat) (s : State) : SaveKeeps s (retag k line s) := by
  unfold retag
  dsimp only
  refine SaveKeeps.foldl (fun s y => ?_) _ s
  exact ⟨rfl, rfl⟩

theorem saveKeeps_claimLine (k : Option SlotKey) (line : Nat) (s : State) : SaveKeeps s (claimLine k line s) := by
  unfold claimLine
  split
  · split
    · exact ⟨rfl, rfl⟩
    · exact ⟨rfl, rfl⟩
  · split
    · exact ⟨rfl, rfl⟩
    next x _ =>
      dsimp only
      have h1 : SaveKeeps s (if seenLine s (some x) line (cohLine s line) = cohLine s line then s
          else cohWr s (line * 128) 128 (seenLine s (some x) line (cohLine s line)).toNat) := by
        split
        · exact ⟨rfl, rfl⟩
        · obtain ⟨hcore, hdev, -⟩ := beside_cohWr s (line * 128) 128 (seenLine s (some x) line (cohLine s line)).toNat
          exact ⟨hcore, congrArg DevSt.cx hdev⟩
      have h2 := h1.trans (saveKeeps_retag x line _)
      exact ⟨h2.1, h2.2⟩

theorem saveKeeps_claimRange (k : Option SlotKey) (lo n : Nat) (s : State) : SaveKeeps s (claimRange k lo n s) := by
  unfold claimRange
  split
  · exact ⟨rfl, rfl⟩
  next x =>
    dsimp only
    generalize List.filter _ [lo / 128, (lo + n - 1) / 128] = l
    have h := SaveKeeps.foldl (fun s l => saveKeeps_claimLine (some x) l s) l s
    exact ⟨h.1, h.2⟩

theorem syncCopies_frame (lo hi : Nat) (s : State) : SaveKeeps s (syncCopies lo hi s) ∧ (syncCopies lo hi s).mem = s.mem := by
  unfold syncCopies
  generalize islIds = l
  induction l generalizing s with
  | nil => exact ⟨⟨rfl, rfl⟩, rfl⟩
  | cons y l ih =>
    rw [List.foldl_cons]
    obtain ⟨h1, h2⟩ := ih (s.modI y fun i =>
      let fix (l : Nat) : Bool := decide (lo / 128 ≤ l) && decide (l * 128 < hi)
      { i with
        copies := i.copies.map fun e => if fix e.1 then (e.1, { e.2 with data := memLine s e.1 }) else e
        wbuf := i.wbuf.map fun e => if fix e.1 then (e.1, memLine s e.1) else e })
    exact ⟨h1, h2⟩

theorem saveSlot_spec {c : CoreId} {s s1 : State} {i pa : Nat} (hdl : Nat) (hpa : pa = slotBase (s.ctxOf (s.core.get c).ctx) i)
    (hs1 : s1 = claimRange (s.ctxKey (s.core.get c).ctx) pa 0x800000 (flushRange pa (pa + 0x800000) s)) :
    SaveKeeps s (saveSlot c i hdl s) ∧ (saveSlot c i hdl s).mem = memWrs (memZero s1.mem pa (pa + 0x800000)) (slotCells s1 c hdl pa) := by
  have h1 : SaveKeeps s s1 := by
    rw [hs1]
    exact (saveKeeps_flushRange ..).trans (saveKeeps_claimRange ..)
  unfold saveSlot
  dsimp only
  rw [← hpa, ← hs1]
  have hsync := syncCopies_frame pa (pa + 0x800000) { s1 with mem := memWrs (memZero s1.mem pa (pa + 0x800000)) (slotCells s1 c hdl pa) }
  generalize memWrs (memZero s1.mem pa (pa + 0x800000)) (slotCells s1 c hdl pa) = m at hsync ⊢
  generalize syncCopies pa (pa + 0x800000) { s1 with mem := m } = s2 at hsync ⊢
  obtain ⟨⟨h2, h3⟩, h4⟩ := hsync
  exact ⟨⟨h2.trans h1.1, h3.trans h1.2⟩, h4⟩

/-- What the charge of a context leaves. -/
theorem chargeCtx_ctx (cx : BitVec 7) (s : State) : (chargeCtx cx s).core = s.core ∧ (chargeCtx cx s).dev.key = s.dev.key ∧
    (chargeCtx cx s).ctxOf cx = { s.ctxOf cx with energy := (s.ctxOf cx).energy + BitVec.ofNat 64 (Config.freeNat s.free % 2 ^ 32) } := by
  refine ⟨rfl, rfl, ?_⟩
  unfold State.ctxOf chargeCtx
  exact Vector.getElem_set_self _

theorem execPreemptionSaveDone_idle {s : State} (h : (s.core.get s.arg.c).run ≠ .saving) : execPreemptionSaveDone s = .next s := by
  unfold execPreemptionSaveDone
  dsimp only
  rw [if_pos h]

/-- A saved stage enters the list of its context (R363). -/
def addSaved (cx : BitVec 7) (e : Saved) (s : State) : State := s.modD fun d =>
  let x := d.cx[cx.toNat]'cx.isLt
  { d with cx := d.cx.set cx.toNat { x with slots := x.slots ++ [e] } cx.isLt }

theorem addSaved_ctx (cx : BitVec 7) (e : Saved) (s : State) :
    ((addSaved cx e s).ctxOf cx).slots = (s.ctxOf cx).slots ++ [e] := by
  unfold State.ctxOf addSaved
  exact congrArg Ctx.slots (Vector.getElem_set_self _)

/-- What the save of core c adds to the list of its context. -/
def savedEntry (s : State) (k : CoreSt) (i n : Nat) : Saved := ⟨i, k.stg.toNat, n, k.r.held.isSome, k.r.poison, savedSrc s k, k.r.scBad, k.ubad⟩

theorem execPreemptionSaveDone_eq {s : State} {k : CoreSt} {i n : Nat} {l : Launch} (hk : k = s.core.get s.arg.c) (hrun : k.run = .saving)
    (hto : k.saveTo = some i) (hl : k.launch = some n) (hn : tfind s.dev.pool n = some l) :
    execPreemptionSaveDone s = .next (unbindCore s.arg.c
      (addSaved k.ctx (savedEntry s k i n) (saveSlot s.arg.c i (handleWord n l.sn) (chargeCtx k.ctx s)))) := by
  subst hk
  unfold execPreemptionSaveDone
  dsimp only
  rw [if_neg (not_not_intro hrun), hto, hl]
  dsimp only [Option.bind]
  rw [hn]
  unfold addSaved savedEntry
  rfl

theorem addSaved_frame (cx : BitVec 7) (e : Saved) (s : State) : (addSaved cx e s).core = s.core ∧ (addSaved cx e s).mem = s.mem := ⟨rfl, rfl⟩

theorem slotBase_congr {x y : Ctx} (hs : x.svb = y.svb) (hh : x.hwo = y.hwo) (i : Nat) : slotBase x i = slotBase y i := by
  unfold slotBase slotVa
  rw [hs, hh]

theorem savedState_spec {s s1 : State} {c : CoreId} {k : CoreSt} {i pa : Nat} (e : Saved) (hdl : Nat) (hk : k = s.core.get c)
    (hpa : pa = slotBase (s.ctxOf k.ctx) i)
    (hs1 : s1 = claimRange (s.ctxKey k.ctx) pa 0x800000 (flushRange pa (pa + 0x800000) (chargeCtx k.ctx s))) :
    (addSaved k.ctx e (saveSlot c i hdl (chargeCtx k.ctx s))).core.get c = k ∧
      ((addSaved k.ctx e (saveSlot c i hdl (chargeCtx k.ctx s))).ctxOf k.ctx).slots = (s.ctxOf k.ctx).slots ++ [e] ∧
      (addSaved k.ctx e (saveSlot c i hdl (chargeCtx k.ctx s))).mem = memWrs (memZero s1.mem pa (pa + 0x800000)) (slotCells s1 c hdl pa) := by
  obtain ⟨hcharge, hdevkey, hctx⟩ := chargeCtx_ctx k.ctx s
  generalize chargeCtx k.ctx s = s0 at hcharge hdevkey hctx hs1 ⊢
  have hget : s0.core.get c = k := by rw [hk, hcharge]
  have hkey : s0.ctxKey (s0.core.get c).ctx = s.ctxKey k.ctx := by
    unfold State.ctxKey State.slotKey
    rw [hget, hctx, hdevkey]
  have hbase : pa = slotBase (s0.ctxOf (s0.core.get c).ctx) i := by
    rw [hget, hpa, hctx]
    exact slotBase_congr rfl rfl i
  have hs1' : s1 = claimRange (s0.ctxKey (s0.core.get c).ctx) pa 0x800000 (flushRange pa (pa + 0x800000) s0) := by rw [hkey, hs1]
  obtain ⟨⟨hcore, hcx⟩, hmem⟩ := saveSlot_spec hdl hbase hs1'
  have hold : (saveSlot c i hdl s0).ctxOf k.ctx = s0.ctxOf k.ctx := by
    unfold State.ctxOf
    rw [hcx]
  obtain ⟨haside, hmem'⟩ := addSaved_frame k.ctx e (saveSlot c i hdl s0)
  refine ⟨?_, ?_, hmem'.trans hmem⟩
  · rw [haside, hcore, hget]
  · rw [addSaved_ctx, hold, hctx]

theorem execPreemptionSaveDone_saves {s s1 : State} {c : CoreId} {k : CoreSt} {i n pa : Nat} {l : Launch} (hc : c = s.arg.c)
    (hk : k = s.core.get c) (hrun : k.run = .saving) (hto : k.saveTo = some i) (hl : k.launch = some n) (hn : tfind s.dev.pool n = some l)
    (hpa : pa = slotBase (s.ctxOf k.ctx) i)
    (hs1 : s1 = claimRange (s.ctxKey k.ctx) pa 0x800000 (flushRange pa (pa + 0x800000) (chargeCtx k.ctx s))) :
    ∃ t, execPreemptionSaveDone s = .next (dispatch t) ∧ (t.core.get c).run = .unbound ∧ (t.core.get c).launch = none ∧
      (t.core.get c).saveTo = none ∧ (t.core.get c).r.held = none ∧
      (t.ctxOf k.ctx).slots = (s.ctxOf k.ctx).slots ++ [⟨i, k.stg.toNat, n, k.r.held.isSome, k.r.poison, savedSrc s k, k.r.scBad, k.ubad⟩] ∧
      (k.samples = [] →
        t.mem = memWrs (memZero s1.mem pa (pa + 0x800000)) (slotCells s1 c (handleWord n l.sn) pa)) := by
  obtain ⟨hk2, hslots, hmem⟩ := savedState_spec (savedEntry s k i n) (handleWord n l.sn) hk hpa hs1
  have hrun' := execPreemptionSaveDone_eq (hc ▸ hk) hrun hto hl hn
  rw [← hc] at hrun'
  generalize addSaved k.ctx (savedEntry s k i n) (saveSlot c i (handleWord n l.sn) (chargeCtx k.ctx s)) = s2 at hk2 hslots hmem hrun'
  obtain ⟨u, hu, hfreed, -, -, hucx, humem⟩ := unbindCore_dispatches c s2
  rw [hk2] at hfreed humem
  refine ⟨u, hrun'.trans (congrArg _ hu), ?_⟩
  rw [hfreed]
  refine ⟨rfl, rfl, rfl, rfl, Eq.trans ?_ hslots, fun hsam => (humem hsam).trans hmem⟩
  unfold State.ctxOf
  rw [hucx]

/-- Settles O51: each queue register by the write that sets it, and pre-emption by the slot that takes the state. -/
theorem queueSteps : Obligations.QueueSteps := by
  unfold Obligations.QueueSteps
  refine ⟨fun s => ⟨execQctlWrite_spec rfl rfl, ?_, ?_, execPeriodBoundary_idle, fun u => execPeriodBoundary_next rfl rfl, ?_⟩, fun s => ?_⟩
  · exact ⟨_, rfl, perBudWrite_spec ..⟩
  · obtain ⟨hmem, hyes, hno⟩ := perBudWrite_spec (queueNo s.arg.k) (s.sqOf (queueNo s.arg.k)).perNext (s.arg.v.extractLsb' 0 32).toNat s
    exact ⟨_, rfl, hmem, fun h => (hyes h).symm, hno⟩
  · exact execBudgetOverrun_raises rfl rfl
  · refine ⟨fun h1 h2 h3 h4 => ?_, fun h => ?_, execPreemptionSaveDone_idle, fun i n l hrun hto hl hn => ?_⟩
    · exact congrArg Host.Outcome.next (requestPreempt_asks h1 h2 h3 h4)
    · exact congrArg Host.Outcome.next (requestPreempt_stays h)
    · exact execPreemptionSaveDone_saves rfl rfl hrun hto hl hn rfl rfl

end Sys2Proof.Machine
end

section
/-! O53: writes of plain registers. -/

namespace Sys2Proof.Machine

theorem writeBack_frame (e : ShelfLine) (s : State) : (writeBack e s).mem = s.mem ∧ (writeBack e s).isl = s.isl := by
  unfold writeBack
  split
  · split
    · exact ⟨rfl, rfl⟩
    · exact ⟨rfl, rfl⟩
  · exact ⟨rfl, rfl⟩

theorem foldl_writeBack_frame (l : List ShelfLine) (s : State) :
    (l.foldl (fun s e => writeBack e s) s).mem = s.mem ∧ (l.foldl (fun s e => writeBack e s) s).isl = s.isl := by
  induction l generalizing s with
  | nil => exact ⟨rfl, rfl⟩
  | cons e l ih =>
    obtain ⟨h1, h2⟩ := writeBack_frame e s
    obtain ⟨k1, k2⟩ := ih (writeBack e s)
    exact ⟨k1.trans h1, k2.trans h2⟩

/-- Lines that leave a shelf change the shelf of their island alone, and no storage (R343). -/
theorem trimShelf_frame (y : Isl) (s : State) :
    (trimShelf y s).mem = s.mem ∧ ∃ l, (trimShelf y s).isl.get y = { s.isl.get y with shelf := l } := by
  unfold trimShelf
  dsimp only
  generalize List.foldl _ [] (s.isl.get y).shelf = keep
  obtain ⟨h1, h2⟩ := foldl_writeBack_frame ((s.isl.get y).shelf.filter fun e => !keep.contains e) s
  refine ⟨h1, keep, ?_⟩
  rw [State.modI_get, h2]

/-! Contexts (R331, R361). -/

theorem ctxOf_modCtx (cx : BitVec 7) (f : Ctx → Ctx) (s : State) : (modCtx cx f s).ctxOf cx = f (s.ctxOf cx) := by
  unfold State.ctxOf modCtx State.modD
  exact Vector.getElem_set_self _

/-- A register of a context that is not busy keeps what its fields can of a written value. -/
theorem writeCtxReg_word {s : State} {cx : BitVec 7} {k : BitVec 3} (v : W64) (hb : ctxBusy s cx = false) (h0 : k ≠ 0) (h7 : k ≠ 7) :
    ctxRegWord (writeCtxReg cx k v s) cx.toNat k.toNat = kept v (ctxMask k) := by
  unfold writeCtxReg ctxRegWord
  dsimp only
  rw [hb, if_neg Bool.false_ne_true, BitVec.ofNat_toNat, BitVec.setWidth_eq, ctxOf_modCtx]
  have hk : k = 1 ∨ k = 2 ∨ k = 3 ∨ k = 4 ∨ k = 5 ∨ k = 6 := by
    revert h0 h7
    revert k
    decide
  rcases hk with rfl | rfl | rfl | rfl | rfl | rfl <;> rfl

theorem writeCtxReg_busy {s : State} {cx : BitVec 7} {k : BitVec 3} (v : W64) (hb : ctxBusy s cx = true) :
    writeCtxReg cx k v s = busyWrite s := by
  unfold writeCtxReg
  exact if_pos hb

theorem writeCtxReg_mem (cx : BitVec 7) (k : BitVec 3) (v : W64) (s : State) : (writeCtxReg cx k v s).mem = s.mem := by
  unfold writeCtxReg
  dsimp only
  split
  · rfl
  · rfl

/-! Scrubbing (R400). -/

theorem foldl_scrubAt_spec (lines : Nat) (f : Isl → Nat) (l : List Isl) (s : State) :
    let t := l.foldl (fun s y => scrubAt lines (f y) 0 s) s
    t.mem = s.mem ∧ t.dev = s.dev := by
  induction l generalizing s with
  | nil => exact ⟨rfl, rfl⟩
  | cons y l ih => exact ih (scrubAt lines (f y) 0 s)

theorem scrubAt_due (lines line n : Nat) (s : State) :
    (scrubAt lines line n s).mem = s.mem ∧ (scrubAt lines line n s).dev = s.dev ∧
    ∃ e ∈ (scrubAt lines line n s).agenda, ∃ a, e.due = .ev .patrolScrub a ∧ a.flag = false :=
  ⟨rfl, rfl, _, (mem_agenda_at ..).2 (.inl rfl), _, rfl, rfl⟩

/-- Scrubbers that start: storage stands, and one step of a scrubber is due; that stop: none is. -/
theorem startScrub_spec (s : State) : (startScrub s).mem = s.mem ∧ (startScrub s).dev.scp = s.dev.scp ∧
    (s.dev.scp ≠ 0 → ∃ e ∈ (startScrub s).agenda, ∃ a, e.due = .ev .patrolScrub a ∧ a.flag = false) ∧
    (s.dev.scp = 0 → ∀ e ∈ (startScrub s).agenda, ∀ a, e.due = .ev .patrolScrub a → a.flag = true) := by
  unfold startScrub
  split
  next h =>
    refine ⟨rfl, rfl, fun hn => absurd h hn, fun _ e he a ha => ?_⟩
    have hkeep : (!scrubDue e.due) = true := (List.mem_filter.1 he).2
    rw [ha] at hkeep
    cases hf : a.flag with
    | true => rfl
    | false => simp [scrubDue, hf] at hkeep
  next h =>
    split
    next hany =>
      refine ⟨rfl, rfl, fun _ => ?_, fun h0 => absurd h0 h⟩
      obtain ⟨e, he, hdue⟩ := List.any_eq_true.1 hany
      refine ⟨e, he, ?_⟩
      unfold scrubDue at hdue
      split at hdue
      next i a hev =>
        rw [Bool.and_eq_true, beq_iff_eq, Bool.not_eq_true'] at hdue
        exact ⟨a, by rw [hev, hdue.1], hdue.2⟩
      · exact absurd hdue Bool.false_ne_true
    · obtain ⟨hmem, hdev⟩ := foldl_scrubAt_spec tierLines (fun y => y.val * tierLines) islIds s
      unfold scrubLpddr
      obtain ⟨hmem', hdev', hdue⟩ := scrubAt_due lpddrLines (4 * tierLines + Config.lpddrLine 0) 0
        (islIds.foldl (fun s y => scrubAt tierLines (y.val * tierLines) 0 s) s)
      exact ⟨hmem'.trans hmem, congrArg DevSt.scp (hdev'.trans hdev), fun _ => hdue, fun h0 => absurd h0 h⟩

/-! Words of the nonce (R404). -/

theorem getLsbD_ones64_256 (j : Nat) : (0xFFFFFFFFFFFFFFFF : BitVec 256).getLsbD j = decide (j < 64) := by
  rw [show (0xFFFFFFFFFFFFFFFF : BitVec 256) = BitVec.ofNat 256 (2 ^ 64 - 1) from rfl, BitVec.getLsbD_ofNat, Nat.testBit_two_pow_sub_one]
  by_cases hj : j < 64
  · simp [hj, show j < 256 by omega]
  · simp [hj]

theorem extractLsb'_setNonce (x : BitVec 256) (k : BitVec 2) (v : W64) : (setNonce x k v).extractLsb' (64 * k.toNat) 64 = v := by
  have hk := k.isLt
  apply BitVec.eq_of_getLsbD_eq
  intro i hi
  rw [BitVec.getLsbD_extractLsb', setNonce]
  simp only [BitVec.getLsbD_or, BitVec.getLsbD_and, BitVec.getLsbD_not, BitVec.getLsbD_shiftLeft, getLsbD_ones64_256,
    BitVec.getLsbD_setWidth, Nat.add_sub_cancel_left]
  simp [hi, show 64 * k.toNat + i < 256 by omega, show i < 256 by omega]

/-! The registers. -/

theorem writeRq_spec (y : Isl) (k : BitVec 2) (v : W64) (s : State) :
    let t := writeRq y k v s
    t.mem = s.mem ∧ (t.isl.get y).rqt = (s.isl.get y).rqt ∧ (k = 0 → (t.isl.get y).rqb = kept v 0xFFFFFFFFFC000) ∧
    (k = 1 → (t.isl.get y).rqh = v.setWidth 8) ∧ (k = 3 → (t.isl.get y).rqd = 0) := by
  intro t
  have hk : k = 0 ∨ k = 1 ∨ k = 2 ∨ k = 3 := by
    revert k
    decide
  rcases hk with rfl | rfl | rfl | rfl
  · have h := State.modI_get s y fun i => { i with rqb := kept v 0xFFFFFFFFFC000 }
    exact ⟨rfl, (congrArg IslandSt.rqt h :), fun _ => (congrArg IslandSt.rqb h :), (nomatch ·), (nomatch ·)⟩
  · have h := State.modI_get s y fun i => { i with rqh := v.setWidth 8 }
    exact ⟨rfl, (congrArg IslandSt.rqt h :), (nomatch ·), fun _ => (congrArg IslandSt.rqh h :), (nomatch ·)⟩
  · exact ⟨rfl, rfl, (nomatch ·), (nomatch ·), (nomatch ·)⟩
  · have h := State.modI_get s y fun i => { i with rqd := 0 }
    exact ⟨rfl, (congrArg IslandSt.rqt h :), (nomatch ·), (nomatch ·), fun _ => (congrArg IslandSt.rqd h :)⟩

theorem writeDbg_spec (c : CoreId) (v : W64) (s : State) :
    let t := writeDbg c v s
    t.mem = s.mem ∧ (t.core.get c).dbgEn = v.getLsbD 0 ∧ (t.core.get c).dbgStep = v.getLsbD 2 ∧
    ((s.core.get c).run = .running → (t.core.get c).dbgStop = ((s.core.get c).dbgStop || v.getLsbD 1)) := by
  intro t
  unfold t writeDbg
  refine ⟨rfl, ?_, ?_, fun hrun => ?_⟩
  · rw [State.modC_get]
  · rw [State.modC_get]
  · dsimp only
    rw [State.modC_get, hrun]
    dsimp only
    rw [Bool.not_false, Bool.and_true]

theorem writeReg_tr (y : Isl) (k : BitVec 2) (v : W64) (s : State) :
    let t := writeReg (.tr y k) v s
    t.mem = s.mem ∧ (k = 0 → (t.isl.get y).trb = kept v 0xFFFFFFFFF7FFF) ∧ (k = 2 → (t.isl.get y).trr = v) ∧
    (t.isl.get y).trw = (s.isl.get y).trw := by
  intro t
  unfold t writeReg
  dsimp only
  split
  next h =>
    refine ⟨rfl, fun _ => ?_, fun h2 => absurd (h.symm.trans h2) (by decide), ?_⟩
    · rw [State.modI_get]
    · rw [State.modI_get]
  next h0 =>
    split
    next h =>
      refine ⟨rfl, fun h' => absurd h' h0, fun _ => ?_, ?_⟩
      · rw [State.modI_get]
      · rw [State.modI_get]
    next h2 => exact ⟨rfl, fun h => absurd h h0, fun h => absurd h h2, rfl⟩

/-! Flags that a write of 1 clears (R6). -/

theorem writeReg_admf (v : W64) (s : State) :
    (writeReg .admf v s).mem = s.mem ∧ (writeReg .admf v s).dev.admf = (s.dev.admf && !v.getLsbD 0) := by
  rw [show writeReg .admf v s = if v.getLsbD 0 then s.modD fun d => { d with admf := false } else s from rfl]
  cases v.getLsbD 0 with
  | false => exact ⟨rfl, (Bool.and_true _).symm⟩
  | true => exact ⟨rfl, (Bool.and_false _).symm⟩

theorem writeReg_bfs (v : W64) (s : State) :
    (writeReg .bfs v s).mem = s.mem ∧ (writeReg .bfs v s).dev.bfDone = (s.dev.bfDone && !v.getLsbD 1) := by
  rw [show writeReg .bfs v s = if v.getLsbD 1 then s.modD fun d => { d with bfDone := false } else s from rfl]
  cases v.getLsbD 1 with
  | false => exact ⟨rfl, (Bool.and_true _).symm⟩
  | true => exact ⟨rfl, (Bool.and_false _).symm⟩

theorem writeReg_qsta (q : BitVec 8) (v : W64) (s : State) :
    (writeReg (.qsta q) v s).mem = s.mem ∧ ((writeReg (.qsta q) v s).sqOf q).ovr = ((s.sqOf q).ovr && !v.getLsbD 0) := by
  rw [show writeReg (.qsta q) v s = if v.getLsbD 0 then s.modQ q fun x => { x with ovr := false } else s from rfl]
  cases v.getLsbD 0 with
  | false => exact ⟨rfl, (Bool.and_true _).symm⟩
  | true => exact ⟨rfl, by rw [if_pos rfl, sqOf_modQ, Bool.not_true, Bool.and_false]⟩

theorem writeReg_ops (y : Isl) (v : W64) (s : State) :
    (writeReg (.ops y) v s).mem = s.mem ∧ ((writeReg (.ops y) v s).isl.get y).trp = ((s.isl.get y).trp && !v.getLsbD 39) := by
  rw [show writeReg (.ops y) v s = if v.getLsbD 39 then s.modI y fun i => { i with trp := false } else s from rfl]
  cases v.getLsbD 39 with
  | false => exact ⟨rfl, (Bool.and_true _).symm⟩
  | true => exact ⟨rfl, by rw [if_pos rfl, State.modI_get, Bool.not_true, Bool.and_false]⟩

/-- Settles O53, register by register. -/
theorem plainRegisterWrites : Obligations.PlainRegisterWrites := by
  unfold Obligations.PlainRegisterWrites
  intro s r v w
  refine ⟨writeReg r v w, rfl, ?_⟩
  cases r with
  | lwb => exact ⟨rfl, rfl⟩
  | admf => exact writeReg_admf v w
  | qsta q => exact writeReg_qsta q v w
  | ctx cx k =>
    refine ⟨writeCtxReg_mem .., fun hb => ?_, fun hb h0 h7 => writeCtxReg_word v hb h0 h7⟩
    exact congrArg State.dev (writeCtxReg_busy (s := w) v hb)
  | keyw y k => exact ⟨rfl, (congrArg IslandSt.keyw (State.modI_get w y fun i => { i with keyw := setWord i.keyw k v }) :)⟩
  | shq y =>
    obtain ⟨hmem, l, hl⟩ := trimShelf_frame y (w.modI y fun i => { i with shq := kept v 0xFFFF })
    refine ⟨hmem, ?_⟩
    rw [State.modI_get] at hl
    exact congrArg IslandSt.shq hl
  | cut y => exact ⟨rfl, (congrArg IslandSt.cut (State.modI_get w y fun i => { i with cut := kept v 0xFFFFFFFF0000007F }) :)⟩
  | rq y k => exact writeRq_spec y k v w
  | dbg y k => exact writeDbg_spec (coreNo (y.val * 32 + k.toNat)) v w
  | tr y k => exact writeReg_tr y k v w
  | ops y => exact writeReg_ops y v w
  | lim y => exact ⟨rfl, (congrArg IslandSt.lim (State.modI_get w y fun i => { i with lim := kept v 0xFFFF }) :)⟩
  | opti y => exact ⟨rfl, (congrArg IslandSt.opti (State.modI_get w y fun i => { i with opti := v.setWidth 10 }) :)⟩
  | optd0 y => exact ⟨rfl, (congrArg IslandSt.optd0 (State.modI_get w y fun i => { i with optd0 := kept v 0xFFFFFFFFFF000001 }) :)⟩
  | bfs => exact writeReg_bfs v w
  | scp =>
    obtain ⟨hmem, hscp, hon, hoff⟩ := startScrub_spec (w.modD fun d => { d with scp := kept v 0xFFFF })
    exact ⟨hmem, hscp, hon, hoff⟩
  | fwa => exact ⟨rfl, rfl⟩
  | nonce k => exact ⟨rfl, extractLsb'_setNonce ..⟩

end Sys2Proof.Machine
end

section
/-! O52: contexts, memory keys, page-ins and bias flips. -/

namespace Sys2Proof.Machine

/-! CTXC_WRITE (R331, R361). -/

section
variable {s : State} {cx ksl : BitVec 7} {v : W64} (hcx : cx = BitVec.ofNat 7 s.arg.k) (hv : v = s.arg.v) (hk : ksl = v.extractLsb' 8 7)
include hcx hv hk

theorem execCtxcWrite_enables (hb : ctxBusy s cx = false) (hen : v.getLsbD 0 = true) (hx : (s.ctxOf cx).en = false)
    (herr : enableErr s (s.ctxOf cx) ksl = 0) (hp : (partOfCtx s cx.toNat).isSome = true) :
    execCtxcWrite s = .next (modCtx cx (fun x => { x with en := true, ksl := ksl, err := 0, energy := 0 }) s) := by
  unfold execCtxcWrite
  dsimp only
  rw [← hcx, ← hv, ← hk, hb, hen, hx, Bool.and_false, if_pos (by decide), if_neg Bool.false_ne_true, if_neg Bool.false_ne_true, herr,
    if_neg (by decide), if_neg (by simpa [Option.isSome_iff_ne_none] using hp)]

theorem execCtxcWrite_refused (hb : ctxBusy s cx = false) (hen : v.getLsbD 0 = true) (hx : (s.ctxOf cx).en = false)
    (herr : enableErr s (s.ctxOf cx) ksl ≠ 0) :
    execCtxcWrite s = .next (modCtx cx (fun x => { x with err := enableErr s (s.ctxOf cx) ksl }) s) := by
  unfold execCtxcWrite
  dsimp only
  rw [← hcx, ← hv, ← hk, hb, hen, hx, Bool.and_false, if_pos (by decide), if_neg Bool.false_ne_true, if_neg Bool.false_ne_true, if_pos herr]

theorem execCtxcWrite_disables (hb : ctxBusy s cx = false) (hen : v.getLsbD 0 = false) :
    execCtxcWrite s = .next (modCtx cx (fun x => { x with en := false, ksl := ksl }) s) := by
  unfold execCtxcWrite
  dsimp only
  rw [← hcx, ← hv, ← hk, hb, hen, Bool.and_false, Bool.false_and, if_neg Bool.false_ne_true, if_neg Bool.false_ne_true, if_neg Bool.false_ne_true]

theorem execCtxcWrite_locked (hb : ctxBusy s cx = true) (hne : ksl ≠ (s.ctxOf cx).ksl) (hen : v.getLsbD 0 = (s.ctxOf cx).en) :
    execCtxcWrite s = .next (modCtx cx (fun x => { x with en := (s.ctxOf cx).en, ksl := (s.ctxOf cx).ksl }) (busyWrite s)) := by
  have hbne : (ksl != (s.ctxOf cx).ksl) = true := bne_iff_ne.2 hne
  unfold execCtxcWrite
  dsimp only
  rw [← hcx, ← hv, ← hk, hb, hen, hbne, Bool.and_true, Bool.and_not_self, if_neg Bool.false_ne_true, if_pos rfl, if_pos rfl]

end

/-! Memory keys (R345). -/

theorem modKey_key (k : BitVec 7) (f : KeySlot → KeySlot) (s : State) :
    (modKey k f s).dev.key[k.toNat]'k.isLt = f (s.dev.key[k.toNat]'k.isLt) := Vector.getElem_set_self _

theorem execKeyLoad_spec (s : State) : ∃ t, execKeyLoad s = .next t ∧
    (t.dev.key[(BitVec.ofNat 7 s.arg.k).toNat]'(BitVec.ofNat 7 s.arg.k).isLt) = ⟨true, (s.isl.get s.arg.y).keyw⟩ ∧
    (t.isl.get s.arg.y).keyw = 0 ∧ t.mem = s.mem ∧ t.core = s.core := by
  have hkey := modKey_key (BitVec.ofNat 7 s.arg.k) (fun _ => ⟨true, (s.isl.get s.arg.y).keyw⟩) s
  have hword := State.modI_get (modKey (BitVec.ofNat 7 s.arg.k) (fun _ => ⟨true, (s.isl.get s.arg.y).keyw⟩) s) s.arg.y fun i => { i with keyw := 0 }
  exact ⟨_, rfl, hkey, congrArg IslandSt.keyw hword, rfl, rfl⟩

section
variable {s : State}

theorem execKeyErase_resident (h : (s.dev.cx.toList.any fun x => x.en && x.ksl == BitVec.ofNat 7 s.arg.k) = true) :
    execKeyErase s = .next s := if_pos h

theorem execKeyErase_erases (h : (s.dev.cx.toList.any fun x => x.en && x.ksl == BitVec.ofNat 7 s.arg.k) = false) :
    ∃ t, execKeyErase s = .next t ∧
      (t.dev.key[(BitVec.ofNat 7 s.arg.k).toNat]'(BitVec.ofNat 7 s.arg.k).isLt) = ⟨false, 0⟩ ∧ t.isl = s.isl ∧ t.mem = s.mem := by
  refine ⟨modKey (BitVec.ofNat 7 s.arg.k) (fun _ => ⟨false, 0⟩) s, ?_, modKey_key .., rfl, rfl⟩
  unfold execKeyErase
  dsimp only
  rw [h, if_neg Bool.false_ne_true]

end

section
variable {s : State} {k : SlotKey} {line : Nat}

theorem seenLine_clear (d : BitVec 1024) (h : tfind s.dev.lineKey line = none) : seenLine s (some k) line d = d := by
  obtain ⟨g, w⟩ := k
  unfold seenLine
  rw [h]

theorem seenLine_key (d : BitVec 1024) {w : SlotKey} (h : tfind s.dev.lineKey line = some w) : seenLine s (some k) line d =
    if w.2 = (cachedKey s k.1 line).getD k.2 then d
    else Config.xtsDecrypt ((cachedKey s k.1 line).getD k.2) line (Config.xtsEncrypt w.2 line d) := by
  obtain ⟨g, x⟩ := k
  obtain ⟨g', w⟩ := w
  unfold seenLine
  rw [h]

end

/-- The tag of a line once the caches keep it under key k. -/
def retagged (k : SlotKey) (t : Option SlotKey) : Option SlotKey := if t.any (·.1 == k.1) then some k else t

theorem retagged_slot {k u : SlotKey} {t : Option SlotKey} (h : retagged k t = some u) (hu : u.1 = k.1) : u = k := by
  unfold retagged at h
  split at h
  · exact (Option.some.inj h).symm
  next hn =>
    rw [h] at hn
    exact absurd (beq_iff_eq.2 hu) hn

theorem foldl_modI_get (f : Isl → IslandSt → IslandSt) (l : List Isl) (hl : l.Nodup) (s : State) (z : Isl) :
    (l.foldl (fun s y => s.modI y (f y)) s).isl.get z = if z ∈ l then f z (s.isl.get z) else s.isl.get z := by
  induction l generalizing s with
  | nil => rfl
  | cons y l ih =>
    obtain ⟨hy, hl⟩ := List.nodup_cons.1 hl
    rw [List.foldl_cons, ih hl, State.modI_get_if]
    by_cases hz : z = y
    · subst hz
      simp [hy]
    · simp [hz]

theorem modI_islIds_get (f : Isl → IslandSt → IslandSt) (s : State) (z : Isl) :
    (islIds.foldl (fun s y => s.modI y (f y)) s).isl.get z = f z (s.isl.get z) := by
  rw [foldl_modI_get f islIds islIds_nodup, if_pos (mem_islIds z)]

theorem retag_isl (k : SlotKey) (line : Nat) (s : State) (y : Isl) : (retag k line s).isl.get y = { s.isl.get y with
    shelf := (s.isl.get y).shelf.map fun e => if e.line = line then { e with slot := retagged k e.slot } else e
    copies := (s.isl.get y).copies.map fun e => if e.1 = line then (e.1, { e.2 with tag := retagged k e.2.tag }) else e } :=
  modI_islIds_get (fun _ i => { i with
    shelf := i.shelf.map fun e => if e.line = line then { e with slot := retagged k e.slot } else e
    copies := i.copies.map fun e => if e.1 = line then (e.1, { e.2 with tag := retagged k e.2.tag }) else e }) s y

theorem tfind_map_at {α : Type} (f : α → α) (l : Tbl α) (k : Nat) :
    tfind (l.map fun e => if e.1 = k then (e.1, f e.2) else e) k = (tfind l k).map f := by
  induction l with
  | nil => rfl
  | cons e l ih =>
    obtain ⟨a, x⟩ := e
    rw [List.map_cons]
    by_cases h : a = k
    · rw [if_pos h]
      unfold tfind
      rw [if_pos h, if_pos h]
      rfl
    · rw [if_neg h]
      unfold tfind
      rw [if_neg h, if_neg h]
      exact ih

/-- A cache that holds a retagged line with the slot of the new key holds it under that key. -/
theorem cachedKey_retag (k : SlotKey) (line : Nat) (s : State) {w : BitVec 512} (h : cachedKey (retag k line s) k.1 line = some w) : w = k.2 := by
  unfold cachedKey at h
  obtain ⟨y, -, hy⟩ := List.exists_of_findSome?_eq_some h
  rw [retag_isl] at hy
  dsimp only at hy
  obtain ⟨u, hu, rfl⟩ := Option.map_eq_some_iff.1 hy
  refine congrArg Prod.snd ?_
  rcases Option.or_eq_some_iff.1 hu with hshelf | ⟨-, hcopy⟩
  · obtain ⟨e, hfind, hslot⟩ := Option.bind_eq_some_iff.1 hshelf
    have hmem := List.mem_of_find?_eq_some hfind
    have htest := List.find?_some hfind
    obtain ⟨e0, -, rfl⟩ := List.mem_map.1 hmem
    rw [Bool.and_eq_true, beq_iff_eq] at htest
    obtain ⟨hline, hany⟩ := htest
    split at hslot
    next hl =>
      rw [if_pos hl] at hany
      rw [hslot] at hany
      exact retagged_slot hslot (beq_iff_eq.1 hany)
    next hl => exact absurd (by rwa [if_neg hl] at hline) hl
  · obtain ⟨c, hfind, htag⟩ := Option.bind_eq_some_iff.1 hcopy
    rw [tfind_map_at (fun c : Copy => { c with tag := retagged k c.tag })] at hfind
    obtain ⟨c0, -, rfl⟩ := Option.map_eq_some_iff.1 hfind
    obtain ⟨ht, hslot⟩ := Option.filter_eq_some_iff.1 htag
    exact retagged_slot ht (beq_iff_eq.1 hslot)

/-- The state in which a line has passed to a key. -/
theorem claimLine_eq {k : SlotKey} {line : Nat} (s : State) (h : line < 0x60000000) : ∃ u, u.dev = s.dev ∧
    claimLine (some k) line s = (retag k line u).modD fun e => { e with lineKey := tset e.lineKey line k } := by
  unfold claimLine
  dsimp only
  rw [if_neg (fun h' => absurd h'.1 (not_le.2 h))]
  refine ⟨_, ?_, rfl⟩
  split
  · rfl
  · exact (beside_cohWr ..).2.1

theorem retag_dev (k : SlotKey) (line : Nat) (s : State) : (retag k line s).dev = s.dev :=
  (foldl_modI_frame (fun _ i => { i with
    shelf := i.shelf.map fun e => if e.line = line then { e with slot := retagged k e.slot } else e
    copies := i.copies.map fun e => if e.1 = line then (e.1, { e.2 with tag := retagged k e.2.tag }) else e }) islIds s).2.2.2.2.1

theorem claimLine_lineKey (k : SlotKey) {line : Nat} (s : State) (h : line < 0x60000000) :
    tfind (claimLine (some k) line s).dev.lineKey line = some k ∧
    ∀ l, l ≠ line → tfind (claimLine (some k) line s).dev.lineKey l = tfind s.dev.lineKey l := by
  obtain ⟨u, hu, hc⟩ := claimLine_eq (k := k) s h
  rw [hc, ← hu, ← retag_dev k line u]
  exact ⟨tfind_tset_self .., fun l hl => tfind_tset_ne _ _ hl⟩

theorem seenLine_claimLine (k : SlotKey) {line : Nat} (s : State) (h : line < 0x60000000) (v : BitVec 1024) :
    seenLine (claimLine (some k) line s) (some k) line v = v := by
  rw [seenLine_key v (claimLine_lineKey k s h).1]
  refine if_pos ?_
  obtain ⟨u, -, hc⟩ := claimLine_eq (k := k) s h
  have hcached : cachedKey (claimLine (some k) line s) k.1 line = cachedKey (retag k line u) k.1 line := by rw [hc]; rfl
  rw [hcached]
  cases hw : cachedKey (retag k line u) k.1 line with
  | none => rfl
  | some w => exact (cachedKey_retag k line u hw).symm

/-! Page-ins (R342). -/

theorem execPginService_empty {s : State} (h : (s.isl.get s.arg.y).pgq = []) : execPginService s = .next s := by
  unfold execPginService
  dsimp only
  rw [h]

theorem execPginService_leaf {s s1 : State} {r : PgReq} {rest : List PgReq} {e : W64} {lvl ea n : Nat} (h : (s.isl.get s.arg.y).pgq = r :: rest)
    (hs1 : s1 = s.modI s.arg.y fun i => { i with pgq := rest }) (hw : walkVa s1 s.arg.y r.cx r.page = .leaf e lvl ea n) :
    execPginService s = if pteRes e ∨ pteAdr e = 0 ∨ s.dev.migr.contains ea then .next s1
      else .next (cohWr (fillFrame (s1.pick.1 % 2 ^ (52 - n) * 2 ^ n) (pteAdr e) n s1.pick.2) ea 8
        ((e.toNat - pteAdr e) + s1.pick.1 % 2 ^ (52 - n) * 2 ^ n + 4)) := by
  unfold execPginService
  dsimp only
  rw [h]
  dsimp only
  rw [← hs1, hw]

/-! Page bias (R344). -/

theorem execBiasFlip_busy {s : State} (h : s.dev.bfBusy.isSome = true) :
    execBiasFlipToHost s = .next (s.modD fun d => { d with bfIgn := d.bfIgn + 1 }) ∧
    execBiasFlipToDevice s = .next (s.modD fun d => { d with bfIgn := d.bfIgn + 1 }) := by
  unfold execBiasFlipToHost execBiasFlipToDevice
  exact ⟨if_pos h, if_pos h⟩

theorem execBiasFlipToHost_done {s : State} (h : s.dev.bfBusy = none) (hp : s.dev.devBias.contains s.arg.n = false) :
    execBiasFlipToHost s = .next (s.modD fun d => { d with bfDone := true }) := by
  unfold execBiasFlipToHost
  dsimp only
  rw [h, hp, if_neg (by decide), if_pos (by decide)]

theorem execBiasFlipToDevice_done {s : State} (h : s.dev.bfBusy = none) (hp : s.dev.devBias.contains s.arg.n = true) :
    execBiasFlipToDevice s = .next (s.modD fun d => { d with bfDone := true }) := by
  unfold execBiasFlipToDevice
  dsimp only
  rw [h, hp, if_neg (by decide), if_pos (by decide)]

theorem execBiasFlipToHost_begins {s : State} (h : s.dev.bfBusy = none) (hp : s.dev.devBias.contains s.arg.n = true) :
    ∃ t, execBiasFlipToHost s = .next t ∧ t.dev.bfBusy = some (s.arg.n, true) ∧ t.mem = s.mem ∧
      t.dev.devBias = s.dev.devBias ∧ t.has (.ev .biasFlipComplete Arg.zero) = true := by
  unfold execBiasFlipToHost
  dsimp only
  rw [h, hp, if_neg (by decide), if_neg (by decide)]
  generalize hs0 : s.modD _ = s0
  have h0 : s0.dev.bfBusy = some (s.arg.n, true) ∧ s0.mem = s.mem ∧ s0.dev.devBias = s.dev.devBias := by
    rw [← hs0]
    exact ⟨rfl, rfl, rfl⟩
  obtain ⟨hmem, -, -, hdev, -⟩ := foldl_modC_frame (fun _ k =>
    { k with cu0 := k.cu0.modRuns (trimCopy s.arg.n), cu1 := k.cu1.modRuns (trimCopy s.arg.n) }) coreIds s0
  generalize hs1 : List.foldl _ s0 coreIds = s1
  have h1 : s1.mem = s0.mem ∧ s1.dev = s0.dev := by
    rw [← hs1]
    exact ⟨hmem, hdev⟩
  exact ⟨_, rfl, (congrArg DevSt.bfBusy h1.2).trans h0.1, h1.1.trans h0.2.1, (congrArg DevSt.devBias h1.2).trans h0.2.2, has_at ..⟩

theorem execBiasFlipToDevice_begins {s : State} (h : s.dev.bfBusy = none) (hp : s.dev.devBias.contains s.arg.n = false) :
    ∃ t, execBiasFlipToDevice s = .next t ∧ t.dev.bfBusy = some (s.arg.n, false) ∧
      t.dev.bfInv = List.range' (32 * s.arg.n) 32 ∧ t.mem = s.mem ∧ t.dev.devBias = s.dev.devBias ∧
      t.has (.ev .biasFlipComplete Arg.zero) = true := by
  unfold execBiasFlipToDevice
  dsimp only
  rw [h, hp, if_neg (by decide), if_neg (by decide)]
  exact ⟨_, rfl, rfl, rfl, rfl, rfl, has_at ..⟩

theorem execBiasFlipComplete_device {s : State} {q : Nat} (h : s.dev.bfBusy = some (q, false)) :
    (s.dev.bfInv.length ≤ 1 → ∃ t, execBiasFlipComplete s = .next t ∧ t.dev.bfBusy = none ∧ t.dev.bfDone = true ∧
      t.dev.devBias = q :: s.dev.devBias ∧ t.mem = s.mem) ∧
    (1 < s.dev.bfInv.length → ∃ t, execBiasFlipComplete s = .next t ∧ t.dev.bfBusy = s.dev.bfBusy ∧
      t.dev.bfInv.length + 1 = s.dev.bfInv.length ∧ t.dev.devBias = s.dev.devBias ∧ t.mem = s.mem ∧
      t.has (.ev .biasFlipComplete Arg.zero) = true) := by
  unfold execBiasFlipComplete
  rw [h]
  dsimp only
  constructor
  · intro hl
    rw [if_pos hl]
    exact ⟨_, rfl, rfl, rfl, rfl, rfl⟩
  · intro hl
    rw [if_neg (not_le.2 hl)]
    refine ⟨_, rfl, h, ?_, rfl, rfl, has_at ..⟩
    have hlt : s.pick.1 % s.dev.bfInv.length < s.dev.bfInv.length := Nat.mod_lt _ (by omega)
    have hlen := List.length_eraseIdx_add_one hlt
    exact hlen

/-- What every step of a fold keeps, the fold keeps. -/
theorem foldl_keeps {α β : Type} (p : State → β) {f : State → α → State} (hf : ∀ (s : State) a, p (f s a) = p s) (l : List α) (s : State) :
    p (l.foldl f s) = p s := by
  induction l generalizing s with
  | nil => rfl
  | cons a l ih => exact (ih (f s a)).trans (hf s a)

theorem writeBack_devBias (e : ShelfLine) (s : State) : (writeBack e s).dev.devBias = s.dev.devBias := by
  unfold writeBack
  split
  · split
    · rfl
    · rfl
  · rfl

/-- What no cache keeps of a page, once an island has dropped its lines (R344). -/
def IslandSt.dropPage (page : Nat) (i : IslandSt) : IslandSt :=
  { i with
    copies := i.copies.filter fun e => !(e.1 / 32 == page), wbuf := i.wbuf.filter fun e => !(e.1 / 32 == page)
    dir := i.dir.filter fun e => !(e.1 / 32 == page), shelf := i.shelf.filter fun e => !(e.line / 32 == page) }

/-- Dirty lines of a page are written back (R344). -/
def backPage (page : Nat) (s : State) : State :=
  (List.range 32).foldl (fun s i => writeLine (page * 32 + i) (cohLine s (page * 32 + i)) s)
    (islIds.foldl (fun s y => ((s.isl.get y).shelf.filter fun e => e.line / 32 == page).foldl (fun s e => writeBack e s) s) s)

theorem backPage_devBias (page : Nat) (s : State) : (backPage page s).dev.devBias = s.dev.devBias := by
  unfold backPage
  refine (foldl_keeps (·.dev.devBias) (fun s i => ?_) _ _).trans (foldl_keeps (·.dev.devBias) (fun s y => ?_) _ s)
  · rfl
  · exact foldl_keeps (·.dev.devBias) (fun s e => writeBack_devBias e s) _ s

theorem flushPage_eq (page : Nat) (s : State) : flushPage page s =
    coreIds.foldl (fun s c => s.modC c fun k => { k with lc := k.lc.filter fun l => !(l / 32 == page) })
      (islIds.foldl (fun s y => s.modI y (IslandSt.dropPage page)) (backPage page s)) := by
  unfold flushPage backPage
  dsimp only
  generalize List.range 32 = l
  rfl

/-- No cache keeps a line of a page that is flushed. -/
theorem flushPage_spec {page : Nat} {s t : State} (ht : t = flushPage page s) : t.dev.devBias = s.dev.devBias ∧
    (∀ c, ∀ l ∈ (t.core.get c).lc, l / 32 ≠ page) ∧ ∀ y, (∀ e ∈ (t.isl.get y).copies, e.1 / 32 ≠ page) ∧ ∀ e ∈ (t.isl.get y).shelf, e.line / 32 ≠ page := by
  have hdev := backPage_devBias page s
  rw [flushPage_eq] at ht
  generalize backPage page s = s1 at hdev ht
  obtain ⟨-, -, -, -, hidev, -⟩ := foldl_modI_frame (fun _ => IslandSt.dropPage page) islIds s1
  have hi (y) := modI_islIds_get (fun _ => IslandSt.dropPage page) s1 y
  generalize islIds.foldl (fun s y => s.modI y (IslandSt.dropPage page)) s1 = s2 at ht hidev hi
  obtain ⟨-, -, -, hcdev, hcisl, -⟩ := foldl_modC_frame (fun _ k => { k with lc := k.lc.filter fun l => !(l / 32 == page) }) coreIds s2
  have hc (c) := modC_coreIds_get (fun _ k => { k with lc := k.lc.filter fun l => !(l / 32 == page) }) s2 c
  have hout {n : Nat} (h : (!(n / 32 == page)) = true) : n / 32 ≠ page := by simpa using h
  rw [ht]
  refine ⟨?_, fun c l hl => ?_, fun y => ⟨fun e he => ?_, fun e he => ?_⟩⟩
  · rw [hcdev, hidev, hdev]
  · rw [hc] at hl
    exact hout (List.mem_filter.1 hl).2
  · rw [hcisl, hi] at he
    exact hout (List.mem_filter.1 he).2
  · rw [hcisl, hi] at he
    exact hout (List.mem_filter.1 he).2

theorem execBiasFlipComplete_host {s : State} {q : Nat} (h : s.dev.bfBusy = some (q, true)) (h1 : copyOn s q = false) (h2 : hopOn s q = false)
    (h3 : accessOn s q = false) (h4 : pageMoving s q = false) : execBiasFlipComplete s =
      .next ((flushPage q s).modD fun d => { d with bfBusy := none, bfDone := true, devBias := d.devBias.filter (· != q) }) := by
  unfold execBiasFlipComplete
  rw [h]
  dsimp only
  rw [h1, h2, h3, h4, if_neg (by decide)]

/-- Settles O52: the registers by their write, the keys by what claims a line, the page-in by the walk, and the flips by the flush. -/
theorem contextAndPageSteps : Obligations.ContextAndPageSteps := by
  unfold Obligations.ContextAndPageSteps
  refine ⟨fun s => ?_, fun s k line d => ?_, fun s => ?_⟩
  · intro cx x v ksl
    refine ⟨fun hb hen hx => ⟨fun herr hp => ?_, fun herr => ?_⟩, fun hb hen => ?_, fun hb hne hen => ?_, ?_, fun h => ?_, fun h => ?_⟩
    · exact ⟨_, execCtxcWrite_enables rfl rfl rfl hb hen hx herr hp, ctxOf_modCtx .., rfl, rfl⟩
    · exact ⟨_, execCtxcWrite_refused rfl rfl rfl hb hen hx herr, ctxOf_modCtx ..⟩
    · exact ⟨_, execCtxcWrite_disables rfl rfl rfl hb hen, ctxOf_modCtx ..⟩
    · exact ⟨_, execCtxcWrite_locked rfl rfl rfl hb hne hen, ctxOf_modCtx .., rfl⟩
    · exact execKeyLoad_spec s
    · exact execKeyErase_resident h
    · exact execKeyErase_erases h
  · refine ⟨seenLine_clear d, fun g hg hc => ?_, fun w hw hc => ?_, fun w hw hne => ?_, fun v hl => seenLine_claimLine k s hl v,
      fun hl => claimLine_lineKey k s hl⟩
    · rw [seenLine_key d hg, hc]
      exact if_pos rfl
    · rw [seenLine_key d hw, hc]
      exact if_pos rfl
    · rw [seenLine_key d hw]
      exact if_neg fun h => hne h.symm
  · refine ⟨execPginService_empty, fun r rest e lvl ea n hq => ?_, fun h => ?_, fun h => ⟨execBiasFlipToHost_done h, execBiasFlipToDevice_done h,
      execBiasFlipToHost_begins h, execBiasFlipToDevice_begins h⟩, fun q => execBiasFlipComplete_device, fun q h h1 h2 h3 h4 => ?_⟩
    · intro s1 hw hres hadr
      have hrun := execPginService_leaf hq rfl hw
      refine ⟨fun hm => hrun.trans (if_pos (.inr (.inr hm))), fun hm => ?_⟩
      refine ⟨_, _, hrun.trans (if_neg ?_), ?_, Nat.mul_mod_left .., rfl, rfl⟩
      · rintro (h | h | h)
        · exact Bool.noConfusion (hres.symm.trans h)
        · exact hadr h
        · exact Bool.noConfusion (hm.symm.trans h)
      · exact (congrArg IslandSt.pgq (State.modI_get s s.arg.y fun i => { i with pgq := rest }) :)
    · intro i hi
      obtain ⟨hhost, hdev⟩ := execBiasFlip_busy h
      rcases List.mem_pair.1 hi with rfl | rfl
      · exact hhost
      · exact hdev
    · obtain ⟨u, hu⟩ : ∃ u, u = flushPage q s := ⟨_, rfl⟩
      obtain ⟨hbias, hlc, hcaches⟩ := flushPage_spec hu
      have hrun := execBiasFlipComplete_host h h1 h2 h3 h4
      rw [← hu] at hrun
      exact ⟨_, hrun, rfl, rfl, congrArg (List.filter (· != q)) hbias, hlc, hcaches⟩

end Sys2Proof.Machine
end

section
/-! O54: requests at a home directory (R352, R353). -/

namespace Sys2Proof.Machine

/-! Messages (R351). -/

/-- t is s but for the cores' line caches and for what is due, of which nothing is lost. -/
structure Sends (s t : State) : Prop where
  mem : t.mem = s.mem
  isl : t.isl = s.isl
  dev : t.dev = s.dev
  tick : t.tick = s.tick
  due : ∀ d, s.has d = true → t.has d = true

namespace Sends

theorem refl (s : State) : Sends s s := ⟨rfl, rfl, rfl, rfl, fun _ h => h⟩

theorem trans {s t u : State} (h : Sends s t) (h' : Sends t u) : Sends s u :=
  ⟨h'.mem.trans h.mem, h'.isl.trans h.isl, h'.dev.trans h.dev, h'.tick.trans h.tick, fun d hd => h'.due d (h.due d hd)⟩

theorem foldl {α : Type} {f : State → α → State} (hf : ∀ (s : State) a, Sends s (f s a)) (l : List α) (s : State) : Sends s (l.foldl f s) := by
  induction l generalizing s with
  | nil => exact refl s
  | cons a l ih => exact (hf s a).trans (ih (f s a))

theorem msg (a b : Isl) (i : Instr) (g : Arg) (s : State) : Sends s (sendMsg a b i g s) :=
  ⟨rfl, rfl, rfl, rfl, fun d h => has_at_of_has _ _ _ _ h⟩

end Sends

theorem has_sendMsg (a b : Isl) (i : Instr) (g : Arg) (s : State) : (sendMsg a b i g s).has (.ev i g) = true := has_at ..

/-- Every message of a list is on its way. -/
theorem has_foldl_sendMsg {α : Type} (a : Isl) (b : α → Isl) (i : Instr) (g : α → Arg) (l : List α) (s : State) {x : α} (hx : x ∈ l) :
    (l.foldl (fun s x => sendMsg a (b x) i (g x) s) s).has (.ev i (g x)) = true := by
  induction l generalizing s with
  | nil => exact absurd hx List.not_mem_nil
  | cons y l ih =>
    rcases List.mem_cons.1 hx with rfl | h
    · exact (Sends.foldl (fun s y => Sends.msg a (b y) i (g y) s) l _).due _ (has_sendMsg ..)
    · exact ih _ h

theorem sends_invAgents (y : Isl) (line : Nat) (but : Option CoreId) (s : State) : Sends s (invAgents y line but s) := by
  unfold invAgents
  refine Sends.foldl (fun s c => ?_) coreIds s
  split
  · exact ⟨rfl, rfl, rfl, rfl, fun _ h => h⟩
  · exact .refl s

/-! The home acts on a request (R353). -/

/-- The entry is made, and the home's own agents drop a line that another island is to have alone. -/
def serveEntry (h : Isl) (r : HomeReq) (p : Plan) (s : State) : State :=
  let e := tfind (s.isl.get h).dir r.line
  let s1 := if e.isNone ∧ r.y = h then s
    else s.modI h fun i => { i with
      dir := tset i.dir r.line ⟨p.st, p.owner, p.share, some ⟨r.y, p.inv, p.go, p.up, p.fwd.map (·.2), [], false⟩, s.tick, e.bind (·.wb)⟩ }
  if r.y ≠ h ∧ (r.kind ≠ 0 ∨ p.st = .E) then invAgents h r.line none s1 else s1

/-- The line goes out from memory. -/
def serveData (h : Isl) (r : HomeReq) (p : Plan) (d : BitVec 1024) (s : State) : State :=
  match p.mem with
  | some g => sendMsg h r.y .data { argY r.y with line := r.line, gr := g, flag := !p.inv.isEmpty, data := d } s
  | none => s

/-- The request goes on to the owner. -/
def serveFwd (h : Isl) (r : HomeReq) (p : Plan) (s : State) : State :=
  match p.fwd with
  | some (x, o) => sendMsg h x (if o then .fwdo else .fwds) { argY r.y with x := x, line := r.line, flag := !p.inv.isEmpty } s
  | none => s

/-- The other holders are invalidated. -/
def serveInv (h : Isl) (r : HomeReq) (p : Plan) (s : State) : State :=
  p.inv.foldl (fun s x => sendMsg h x .inv { Arg.zero with x := x, line := r.line } s) s

/-- The grant of an upgrade that waits for nobody. -/
def serveGo (h : Isl) (r : HomeReq) (p : Plan) (s : State) : State :=
  if p.go && !(!p.inv.isEmpty) then sendMsg h r.y .go { argY r.y with line := r.line, flag := p.up } s else s

theorem serve_eq (h : Isl) (r : HomeReq) (s : State) :
    let p := planOf h (tfind (s.isl.get h).dir r.line) r.y r.kind
    serve h r s = serveGo h r p (serveInv h r p (serveFwd h r p (serveData h r p (memLine s r.line) (serveEntry h r p s)))) := by
  intro p
  unfold serve serveGo serveInv serveFwd serveData serveEntry
  dsimp only <;> (generalize memLine _ _ = d; rfl)

section
variable (h : Isl) (r : HomeReq) (p : Plan) (d : BitVec 1024) (s : State)

theorem sends_serveData : Sends s (serveData h r p d s) := by
  unfold serveData
  split
  · exact .msg ..
  · exact .refl s

theorem sends_serveFwd : Sends s (serveFwd h r p s) := by
  unfold serveFwd
  split
  · exact .msg ..
  · exact .refl s

theorem sends_serveInv : Sends s (serveInv h r p s) := .foldl (fun s x => .msg ..) p.inv s

theorem sends_serveGo : Sends s (serveGo h r p s) := by
  unfold serveGo
  split
  · exact .msg ..
  · exact .refl s

theorem has_serveData {g : Grant} (hg : p.mem = some g) :
    (serveData h r p d s).has (.ev .data { argY r.y with line := r.line, gr := g, flag := !p.inv.isEmpty, data := d }) = true := by
  unfold serveData
  rw [hg]
  exact has_sendMsg ..

theorem has_serveFwd {f : Isl × Bool} (hf : p.fwd = some f) :
    (serveFwd h r p s).has (.ev (if f.2 then .fwdo else .fwds) { argY r.y with x := f.1, line := r.line, flag := !p.inv.isEmpty }) = true := by
  unfold serveFwd
  rw [hf]
  exact has_sendMsg ..

theorem has_serveInv {x : Isl} (hx : x ∈ p.inv) : (serveInv h r p s).has (.ev .inv { Arg.zero with x := x, line := r.line }) = true :=
  has_foldl_sendMsg h id .inv (fun x => { Arg.zero with x := x, line := r.line }) p.inv s hx

theorem has_serveGo (hgo : p.go = true) (hinv : p.inv = []) :
    (serveGo h r p s).has (.ev .go { argY r.y with line := r.line, flag := p.up }) = true := by
  unfold serveGo
  rw [hgo, hinv, if_pos (by decide)]
  exact has_sendMsg ..

end

/-- The island of the home once it has taken request r. -/
def served (h : Isl) (r : HomeReq) (p : Plan) (s : State) (i : IslandSt) : IslandSt :=
  { i with dir := tset i.dir r.line ⟨p.st, p.owner, p.share, some ⟨r.y, p.inv, p.go, p.up, p.fwd.map (·.2), [], false⟩, s.tick,
      (tfind (s.isl.get h).dir r.line).bind (·.wb)⟩ }

theorem serveEntry_spec {h : Isl} {r : HomeReq} (p : Plan) {s : State} (hown : tfind (s.isl.get h).dir r.line = none → r.y ≠ h) :
    Sends (s.modI h (served h r p s)) (serveEntry h r p s) := by
  have hnot : ¬ ((tfind (s.isl.get h).dir r.line).isNone ∧ r.y = h) := fun hn => hown (Option.isNone_iff_eq_none.1 hn.1) hn.2
  unfold serveEntry
  dsimp only
  rw [if_neg hnot]
  split
  · exact sends_invAgents ..
  · exact .refl _

/-- What the home does with a request (R353): the entry changes and its messages go out. -/
theorem serve_spec {h : Isl} {r : HomeReq} {s : State} {p : Plan} (hp : p = planOf h (tfind (s.isl.get h).dir r.line) r.y r.kind)
    (hown : tfind (s.isl.get h).dir r.line = none → r.y ≠ h) :
    let t := serve h r s
    Sends (s.modI h (served h r p s)) t ∧
    (∀ g, p.mem = some g →
      t.has (.ev .data { argY r.y with line := r.line, gr := g, flag := !p.inv.isEmpty, data := memLine s r.line }) = true) ∧
    (∀ f, p.fwd = some f →
      t.has (.ev (if f.2 then .fwdo else .fwds) { argY r.y with x := f.1, line := r.line, flag := !p.inv.isEmpty }) = true) ∧
    (∀ x ∈ p.inv, t.has (.ev .inv { Arg.zero with x := x, line := r.line }) = true) ∧
    (p.go = true → p.inv = [] → t.has (.ev .go { argY r.y with line := r.line, flag := p.up }) = true) := by
  intro t
  have ht : t = serveGo h r p (serveInv h r p (serveFwd h r p (serveData h r p (memLine s r.line) (serveEntry h r p s)))) := by
    rw [hp]
    exact serve_eq h r s
  have hentry := serveEntry_spec p hown
  generalize memLine s r.line = d at ht ⊢
  generalize serveEntry h r p s = s1 at ht hentry
  have hdata := sends_serveData h r p d s1
  have hfwd := sends_serveFwd h r p (serveData h r p d s1)
  have hinv := sends_serveInv h r p (serveFwd h r p (serveData h r p d s1))
  have hgo := sends_serveGo h r p (serveInv h r p (serveFwd h r p (serveData h r p d s1)))
  rw [ht]
  refine ⟨(((hentry.trans hdata).trans hfwd).trans hinv).trans hgo, fun g hg => ?_, fun f hf => ?_, fun x hx => ?_, fun h1 h2 => ?_⟩
  · exact hgo.due _ (hinv.due _ (hfwd.due _ (has_serveData h r p d s1 hg)))
  · exact hgo.due _ (hinv.due _ (has_serveFwd h r p _ hf))
  · exact hgo.due _ (has_serveInv h r p _ hx)
  · exact has_serveGo h r p _ h1 h2

/-! Requests that arrive (R352). -/

/-- With nothing waiting at a home no room is made. -/
theorem makeRoom_idle {h : Isl} {s : State} (hq : (s.isl.get h).hq.find? (fun r => !r.ready h s && (tfind (s.isl.get h).dir r.line).isNone) = none) :
    makeRoom h s = s := by
  unfold makeRoom
  dsimp only
  rw [hq]

theorem pump_one {h : Isl} {r : HomeReq} {s : State} (hq : (s.isl.get h).hq = [r]) :
    pump h s = makeRoom h (if r.ready h s then serve h r (s.modI h fun i => { i with hq := i.hq.erase r }) else s) := by
  unfold pump
  rw [hq, List.foldl_cons, List.foldl_nil]
  dsimp only
  rw [hq, show List.find? (fun q : HomeReq => q.line == r.line) [r] = some r by simp, beq_self_eq_true, Bool.true_and]

theorem pump_empty {h : Isl} {s : State} (hq : (s.isl.get h).hq = []) : pump h s = s := by
  unfold pump
  rw [hq]
  exact makeRoom_idle (by rw [List.foldl_nil, hq]; rfl)

theorem State.modI_congr {s : State} {y : Isl} {f g : IslandSt → IslandSt} (h : f (s.isl.get y) = g (s.isl.get y)) : s.modI y f = s.modI y g := by
  unfold State.modI
  rw [h]

/-- The request that the step at hand brings. -/
def State.request (s : State) (kind : Fin 3) : HomeReq := ⟨s.arg.line, s.arg.y, kind⟩

theorem arrive_one {s : State} {kind : Fin 3} (hq : (s.isl.get s.arg.h).hq = []) :
    let u := s.modI s.arg.h fun i => { i with hq := [s.request kind] }
    arrive kind s = makeRoom s.arg.h (if (s.request kind).ready s.arg.h u then
      serve s.arg.h (s.request kind) (u.modI s.arg.h fun i => { i with hq := i.hq.erase (s.request kind) }) else u) := by
  intro u
  have hu : arrive kind s = pump s.arg.h u := by
    unfold arrive
    dsimp only
    refine congrArg (pump s.arg.h) (State.modI_congr ?_)
    rw [hq]
    rfl
  have huq : (u.isl.get s.arg.h).hq = [s.request kind] :=
    (congrArg IslandSt.hq (State.modI_get s s.arg.h fun i => { i with hq := [s.request kind] }) :)
  rw [hu, pump_one huq]

/-- A request that the home can act on at once. -/
theorem arrive_serves {s : State} {kind : Fin 3} {p : Plan} (hq : (s.isl.get s.arg.h).hq = [])
    (hready : (s.request kind).ready s.arg.h s = true) (hown : tfind (s.isl.get s.arg.h).dir s.arg.line = none → s.arg.y ≠ s.arg.h)
    (hp : p = planOf s.arg.h (tfind (s.isl.get s.arg.h).dir s.arg.line) s.arg.y kind) :
    let t := arrive kind s
    t.mem = s.mem ∧ (t.isl.get s.arg.h).hq = [] ∧ tfind (t.isl.get s.arg.h).dir s.arg.line = some ⟨p.st, p.owner, p.share,
      some ⟨s.arg.y, p.inv, p.go, p.up, p.fwd.map (·.2), [], false⟩, s.tick, (tfind (s.isl.get s.arg.h).dir s.arg.line).bind (·.wb)⟩ ∧
    (∀ g, p.mem = some g →
      t.has (.ev .data { argY s.arg.y with line := s.arg.line, gr := g, flag := !p.inv.isEmpty, data := memLine s s.arg.line }) = true) ∧
    (∀ f, p.fwd = some f →
      t.has (.ev (if f.2 then .fwdo else .fwds) { argY s.arg.y with x := f.1, line := s.arg.line, flag := !p.inv.isEmpty }) = true) ∧
    (∀ x ∈ p.inv, t.has (.ev .inv { Arg.zero with x := x, line := s.arg.line }) = true) ∧
    (p.go = true → p.inv = [] → t.has (.ev .go { argY s.arg.y with line := s.arg.line, flag := p.up }) = true) := by
  intro t
  let h := s.arg.h
  let r := s.request kind
  let u := s.modI h fun i => { i with hq := [r] }
  let v := u.modI h fun i => { i with hq := i.hq.erase r }
  have hu : u.isl.get h = { s.isl.get h with hq := [r] } := State.modI_get s h fun i => { i with hq := [r] }
  have hv : v.isl.get h = { s.isl.get h with hq := [] } := by
    have hget := State.modI_get u h fun i => { i with hq := i.hq.erase r }
    rw [show v.isl.get h = _ from hget, hu, List.erase_cons_head]
  have hready' : r.ready h u = true := by
    rw [← hready]
    unfold HomeReq.ready
    rw [hu]
  have hdir : tfind (v.isl.get h).dir r.line = tfind (s.isl.get h).dir s.arg.line := by rw [hv]; rfl
  have ht : t = makeRoom h (serve h r v) := (arrive_one hq).trans (congrArg (makeRoom h) (if_pos hready'))
  obtain ⟨hsends, hdata, hfwd, hinv, hgo⟩ := serve_spec (h := h) (r := r) (s := v) (p := p) (hdir ▸ hp) (fun hn => hown (hdir ▸ hn))
  have hisl : (serve h r v).isl.get h = served h r p v { s.isl.get h with hq := [] } := by
    rw [hsends.isl, State.modI_get, hv]
  have hidle : makeRoom h (serve h r v) = serve h r v := makeRoom_idle (by rw [hisl]; rfl)
  rw [ht, hidle, hisl]
  refine ⟨hsends.mem, rfl, ?_, hdata, hfwd, hinv, hgo⟩
  exact (tfind_tset_self ..).trans (by rw [hdir]; rfl)

theorem arrive_waits {s : State} {kind : Fin 3} {e : DirEnt} (hq : (s.isl.get s.arg.h).hq = [])
    (he : tfind (s.isl.get s.arg.h).dir s.arg.line = some e) (hb : e.busy.isSome = true) :
    let t := arrive kind s
    t.mem = s.mem ∧ (t.isl.get s.arg.h).hq = [s.request kind] ∧ (t.isl.get s.arg.h).dir = (s.isl.get s.arg.h).dir := by
  intro t
  let h := s.arg.h
  let r := s.request kind
  let u := s.modI h fun i => { i with hq := [r] }
  have hu : u.isl.get h = { s.isl.get h with hq := [r] } := State.modI_get s h fun i => { i with hq := [r] }
  have hdir : tfind (u.isl.get h).dir r.line = some e := by
    rw [hu]
    exact he
  have hready : r.ready h u = false := by
    unfold HomeReq.ready
    dsimp only
    rw [hdir]
    dsimp only
    rw [Option.isNone_eq_false_iff, hb]
  have hidle : makeRoom h u = u := by
    refine makeRoom_idle ?_
    rw [show (u.isl.get h).hq = [r] by rw [hu], List.find?_cons_of_neg (by simp [hdir])]
    rfl
  have ht : t = u := ((arrive_one hq).trans (congrArg (makeRoom h) (if_neg (by rw [show (s.request kind).ready s.arg.h _ = false from hready]; decide)))).trans hidle
  rw [ht, hu]
  exact ⟨rfl, rfl, rfl⟩

theorem request_ready_new {s : State} (kind : Fin 3) (h : tfind (s.isl.get s.arg.h).dir s.arg.line = none)
    (hroom : ((s.isl.get s.arg.h).dir.filter fun e => filterSet e.1 == filterSet s.arg.line).length < 16) :
    (s.request kind).ready s.arg.h s = true := by
  unfold HomeReq.ready
  dsimp only
  rw [show tfind (s.isl.get s.arg.h).dir (s.request kind).line = none from h]
  exact Bool.or_eq_true_iff.2 (.inr (decide_eq_true hroom))

theorem request_ready_free {s : State} (kind : Fin 3) {e : DirEnt} (h : tfind (s.isl.get s.arg.h).dir s.arg.line = some e)
    (hb : e.busy = none) : (s.request kind).ready s.arg.h s = true := by
  unfold HomeReq.ready
  dsimp only
  rw [show tfind (s.isl.get s.arg.h).dir (s.request kind).line = some e from h]
  exact Option.isNone_iff_eq_none.2 hb

/-- A line without an entry is granted from memory. -/
theorem planOf_new {h y : Isl} (k : Fin 3) (hy : y ≠ h) : planOf h none y k =
    ⟨if k = 0 then .E else .M, y, [], some (if k = 0 then .E else .M), none, [], false, false⟩ := by
  unfold planOf
  simp only [beq_eq_false_iff_ne.2 hy, Bool.false_eq_true, if_false]
  split
  · rfl
  · rfl

/-! The rows of R353 for a request of another island than the home. -/

section
variable {h y x : Isl} (set : List Isl) (b : Option Busy) (u : Nat) (w : Option (Isl × BitVec 1024)) (hy : y ≠ h)
include hy

theorem planOf_shared : let p k := planOf h (some ⟨.S, x, set, b, u, w⟩) y k
    p 0 = ⟨.S, y, if set.contains y then set else set ++ [y], some .S, none, [], false, false⟩ ∧
    p 1 = ⟨.M, y, [], some .M, none, set.filter (· != y), !(set.filter (· != y)).isEmpty, false⟩ ∧
    (set.contains y = true → p 2 = ⟨.M, y, [], none, none, set.filter (· != y), true, true⟩) ∧
    (set.contains y = false → p 2 = p 1) := by
  intro p
  have hown : (y == h) = false := beq_eq_false_iff_ne.2 hy
  refine ⟨?_, ?_, fun hc => ?_, fun hc => ?_⟩
  · simp [p, planOf, hown]
  · simp [p, planOf, hown]
  · have hmem : y ∈ set := by simpa using hc
    simp [p, planOf, hown, hmem]
  · have hmem : y ∉ set := by simpa using hc
    simp [p, planOf, hown, hmem]

theorem planOf_owned (hx : x ≠ y) : let p st k := planOf h (some ⟨st, x, set, b, u, w⟩) y k
    p .E 0 = ⟨.S, y, [x, y], none, some (x, false), [], false, false⟩ ∧
    p .M 0 = ⟨.O, x, [y], none, some (x, false), [], false, false⟩ ∧
    (∀ st ∈ [DirSt.E, .M], ∀ k ∈ [(1 : Fin 3), 2], p st k = ⟨.M, y, [], none, some (x, true), [], false, false⟩) := by
  intro p
  have hown : (y == h) = false := beq_eq_false_iff_ne.2 hy
  refine ⟨?_, ?_, fun st hst k hk => ?_⟩
  · simp [p, planOf, hown, hx]
  · simp [p, planOf, hown, hx]
  · simp only [List.mem_cons, List.not_mem_nil, or_false] at hst hk
    rcases hst with rfl | rfl <;> rcases hk with rfl | rfl <;> simp [p, planOf, hown, hx]

theorem planOf_forwarded (hx : x ≠ y) : let p k := planOf h (some ⟨.O, x, set, b, u, w⟩) y k
    p 0 = ⟨.O, x, if set.contains y then set else set ++ [y], none, some (x, false), [], false, false⟩ ∧
    ∀ k ∈ [(1 : Fin 3), 2], (p k).st = .M ∧ (p k).owner = y ∧ (p k).fwd = some (x, true) ∧ ∀ z, z ∈ (p k).inv ↔ z ∈ set ∧ z ≠ y ∧ z ≠ x := by
  intro p
  have hown : (y == h) = false := beq_eq_false_iff_ne.2 hy
  refine ⟨?_, fun k hk => ?_⟩
  · simp [p, planOf, hown]
  · simp only [List.mem_cons, List.not_mem_nil, or_false] at hk
    rcases hk with rfl | rfl <;> simp [p, planOf, hown, hx]

theorem planOf_upgraded : let p := planOf h (some ⟨.O, y, set, b, u, w⟩) y 2
    p.st = .M ∧ p.owner = y ∧ p.up = true ∧ p.inv = (set.filter (· != y)).filter (· != y) := by
  intro p
  have hown : (y == h) = false := beq_eq_false_iff_ne.2 hy
  simp [p, planOf, hown]

end

/-- Settles O54: a request is served or waits, and the rows of R353. -/
theorem homeRequests : Obligations.HomeRequests := by
  unfold Obligations.HomeRequests
  refine ⟨fun s hq r hr => ?_, fun h y x set b u w hy hx => ?_⟩
  · have hexec : exec r.1 s = .next (arrive r.2 s) := by
      simp only [List.mem_cons, List.not_mem_nil, or_false] at hr
      rcases hr with rfl | rfl | rfl <;> rfl
    refine ⟨fun hnone hown hroom => ?_, fun e he hb => ⟨_, hexec, arrive_waits hq he hb⟩, fun e he hb => ?_⟩
    · obtain ⟨h1, h2, h3, h4, -⟩ := arrive_serves hq (request_ready_new r.2 hnone hroom) (fun _ => hown) rfl
      rw [hnone, planOf_new r.2 hown] at h3 h4
      exact ⟨_, hexec, h1, h2, h3, h4 _ rfl⟩
    · obtain ⟨h1, h2, h3, h4⟩ := arrive_serves hq (request_ready_free r.2 he hb) (fun hn => absurd (he.symm.trans hn) (by simp)) rfl
      rw [he] at h3 h4
      exact ⟨_, hexec, h1, h2, h3, h4⟩
  · intro plus rest p
    obtain ⟨s0, s1, s2, s3⟩ := planOf_shared (x := x) set b u w hy
    obtain ⟨e0, m0, em⟩ := planOf_owned set b u w hy hx
    obtain ⟨o0, ow⟩ := planOf_forwarded set b u w hy hx
    exact ⟨s0, s1, s2, s3, e0, m0, em, o0, ow, planOf_upgraded set b u w hy⟩

end Sys2Proof.Machine
end

section
/-! O55: answers at a home directory (R351 to R355). -/

namespace Sys2Proof.Machine

/-- Storage is m, the home's entry of a line is x, and no request waits at the home. -/
structure AtHome (h : Isl) (line : Nat) (s : State) (m : List Host.Cell) (x : Option DirEnt) : Prop where
  mem : s.mem = m
  ent : tfind (s.isl.get h).dir line = x
  idle : (s.isl.get h).hq = []

/-- What is left of an entry that is freed if it is not busy and names no holder. -/
def DirEnt.kept (e : DirEnt) : Option DirEnt := if e.busy.isNone && e.holders.isEmpty then none else some e

theorem writeLine_mem (line : Nat) (d : BitVec 1024) (s : State) : (writeLine line d s).mem = memWrs s.mem (lineCells line d) := by
  rw [writeLine]

/-- A line that comes back is in memory, and nothing of the islands has changed. -/
theorem writeCrossed_frame (h x : Isl) (line : Nat) (d : BitVec 1024) (s : State) :
    (writeCrossed h x line d s).mem = memWrs s.mem (lineCells line d) ∧ (writeCrossed h x line d s).isl = s.isl := by
  unfold writeCrossed
  dsimp only
  rw [writeLine_mem]
  split
  · exact ⟨rfl, rfl⟩
  · exact ⟨rfl, rfl⟩

namespace AtHome

variable {h : Isl} {line : Nat} {s : State} {m : List Host.Cell} {x : Option DirEnt} {e : DirEnt}

theorem modDir (hs : AtHome h line s m x) (f : Tbl DirEnt → Tbl DirEnt) :
    AtHome h line (s.modI h fun i => { i with dir := f i.dir }) m (tfind (f (s.isl.get h).dir) line) := by
  have hget := State.modI_get s h fun i => { i with dir := f i.dir }
  refine ⟨hs.mem, ?_, ?_⟩
  · rw [hget]
  · rw [hget]
    exact hs.idle

theorem modEnt (hs : AtHome h line s m (some e)) (f : DirEnt → DirEnt) : AtHome h line (modEnt h line f s) m (some (f e)) := by
  have hm := hs.modDir fun d => tset d line (f e)
  rw [tfind_tset_self] at hm
  unfold Machine.modEnt
  rw [hs.ent]
  exact hm

theorem modBusy (hs : AtHome h line s m (some e)) (f : Busy → Busy) :
    AtHome h line (modBusy h line f s) m (some { e with busy := e.busy.map f }) := hs.modEnt _

theorem tidy (hs : AtHome h line s m (some e)) : AtHome h line (tidy h line s) m e.kept := by
  have hm := hs.modDir fun d => tdel d line
  rw [tfind_tdel_self] at hm
  unfold Machine.tidy DirEnt.kept
  rw [hs.ent]
  dsimp only
  split
  · exact hm
  · exact hs

theorem tidy_none (hs : AtHome h line s m none) : AtHome h line (Machine.tidy h line s) m none := by
  unfold Machine.tidy
  rw [hs.ent]
  exact hs

/-- An entry that was tidied is not tidied again. -/
theorem tidy_kept (hs : AtHome h line s m e.kept) : AtHome h line (Machine.tidy h line s) m e.kept := by
  cases hk : e.kept with
  | none =>
    rw [hk] at hs
    exact hs.tidy_none
  | some e' =>
    rw [hk] at hs
    have ht := hs.tidy
    unfold DirEnt.kept at hk
    split at hk
    · exact absurd hk (by simp)
    next hb =>
      cases hk
      unfold DirEnt.kept at ht
      rwa [if_neg hb] at ht

theorem sendMsg (hs : AtHome h line s m x) (a b : Isl) (i : Instr) (g : Arg) : AtHome h line (sendMsg a b i g s) m x :=
  ⟨hs.mem, hs.ent, hs.idle⟩

theorem ackWb (hs : AtHome h line s m x) (z : Isl) : AtHome h line (ackWb h z line s) m x := hs.sendMsg ..

theorem writeCrossed (hs : AtHome h line s m x) (z : Isl) (d : BitVec 1024) :
    AtHome h line (writeCrossed h z line d s) (memWrs m (lineCells line d)) x := by
  obtain ⟨hm, hi⟩ := writeCrossed_frame h z line d s
  exact ⟨by rw [hm, hs.mem], by rw [hi]; exact hs.ent, by rw [hi]; exact hs.idle⟩

theorem pump (hs : AtHome h line s m x) : pump h s = s := pump_empty hs.idle

/-- A writeback from the owner of an entry that is not busy. -/
theorem takeWb_owner (hs : AtHome h line s m (some e)) {z : Isl} (d : BitVec 1024) (ho : e.owner = z) (hst : e.st ≠ .S) :
    AtHome h line (takeWb h z line d s) (memWrs m (lineCells line d)) (e.without z).kept := by
  unfold takeWb
  rw [hs.ent]
  dsimp only
  rw [if_pos ⟨ho, hst⟩]
  exact (((hs.writeCrossed z d).modEnt _).tidy).ackWb z

theorem takeWb_other (hs : AtHome h line s m (some e)) {z : Isl} (d : BitVec 1024) (ho : e.owner ≠ z ∨ e.st = .S) :
    AtHome h line (takeWb h z line d s) m (some e) := by
  unfold takeWb
  rw [hs.ent]
  dsimp only
  rw [if_neg (by tauto)]
  exact hs.ackWb z

end AtHome

theorem has_takeWb (h z : Isl) (line : Nat) (d : BitVec 1024) (s : State) :
    (takeWb h z line d s).has (.ev .wback { Arg.zero with x := z, line := line }) = true := by
  unfold takeWb
  split
  · exact has_sendMsg ..
  · split
    · exact has_sendMsg ..
    · exact has_sendMsg ..

theorem has_tidy {h : Isl} {line : Nat} {s : State} {d : Due} (hd : s.has d = true) : (tidy h line s).has d = true := by
  unfold tidy
  split
  · split
    · exact hd
    · exact hd
  · exact hd

section
variable {s : State} {e : DirEnt} (hs : AtHome s.arg.h s.arg.line s s.mem (some e))
include hs

/-! ACK (R351). -/

theorem execAck_spec {b : Busy} (hb : e.busy = some b) (hgo : b.go = true) :
    ∃ t, execAck s = .next t ∧ t.mem = s.mem ∧
      (b.acks.filter (· != s.arg.x) = [] →
        tfind (t.isl.get s.arg.h).dir s.arg.line = some { e with busy := some { b with acks := [], go := false } } ∧
        t.has (.ev .go { argY b.req with line := s.arg.line, flag := b.up }) = true) ∧
      (b.acks.filter (· != s.arg.x) ≠ [] →
        tfind (t.isl.get s.arg.h).dir s.arg.line = some { e with busy := some { b with acks := b.acks.filter (· != s.arg.x) } }) := by
  have h1 := hs.modBusy fun b => { b with acks := b.acks.filter (· != s.arg.x) }
  rw [hb, Option.map_some] at h1
  have h2 := h1.modBusy fun b => { b with go := false }
  rw [Option.map_some] at h2
  unfold execAck
  dsimp only
  rw [h1.ent]
  dsimp only [Option.bind]
  by_cases hl : b.acks.filter (· != s.arg.x) = []
  · rw [hl, hgo, if_pos (by decide)]
    refine ⟨_, rfl, h2.mem, fun _ => ⟨?_, has_sendMsg ..⟩, fun hn => absurd rfl hn⟩
    rw [(h2.sendMsg ..).ent, hl]
  · rw [if_neg (by simpa [hgo] using hl)]
    exact ⟨_, rfl, h1.mem, fun hn => absurd hn hl, fun _ => h1.ent⟩

end

/-! CMP (R352). -/

/-- The requester's completion ends the transaction that set busy. -/
def CmpEnds (s : State) (b : Busy) : Prop := b.req = s.arg.y ∧ b.back = [] ∧ (b.inst = true ∨ s.arg.y ≠ s.arg.h)

theorem cmpEnds_iff (s : State) (b : Busy) : (b.req == s.arg.y && b.back.isEmpty && (b.inst || s.arg.y != s.arg.h)) = true ↔ CmpEnds s b := by
  unfold CmpEnds
  simp only [Bool.and_eq_true, beq_iff_eq, List.isEmpty_iff, Bool.or_eq_true, bne_iff_ne, and_assoc]

/-- What a completion does to the entry. -/
def cmpEnt (s : State) (e : DirEnt) : DirEnt :=
  if e.busy.any fun b => b.req == s.arg.y && b.back.isEmpty && (b.inst || s.arg.y != s.arg.h) then { e with busy := none } else e

theorem execCmp_eq (s : State) : execCmp s = .next (pump s.arg.h (tidy s.arg.h s.arg.line (takeKept s.arg.h s.arg.line
    (modEnt s.arg.h s.arg.line (cmpEnt s) s)))) := rfl

theorem cmpEnt_done {s : State} {e : DirEnt} {b : Busy} (hb : e.busy = some b) (hc : CmpEnds s b) : cmpEnt s e = { e with busy := none } := by
  unfold cmpEnt
  rw [hb]
  exact if_pos ((cmpEnds_iff s b).2 hc)

theorem cmpEnt_open {s : State} {e : DirEnt} {b : Busy} (hb : e.busy = some b) (hc : ¬ CmpEnds s b) : cmpEnt s e = e := by
  unfold cmpEnt
  rw [hb]
  exact if_neg fun h => hc ((cmpEnds_iff s b).1 h)

section
variable {s : State} {e : DirEnt} (hs : AtHome s.arg.h s.arg.line s s.mem (some e))
include hs

theorem execCmp_frees {b : Busy} (hb : e.busy = some b) (hc : CmpEnds s b) (hw : e.wb = none) :
    ∃ t, execCmp s = .next t ∧ t.mem = s.mem ∧ tfind (t.isl.get s.arg.h).dir s.arg.line = DirEnt.kept { e with busy := none } := by
  have h1 := hs.modEnt (cmpEnt s)
  rw [cmpEnt_done hb hc] at h1
  have h2 : takeKept s.arg.h s.arg.line (modEnt s.arg.h s.arg.line (cmpEnt s) s) = modEnt s.arg.h s.arg.line (cmpEnt s) s := by
    unfold takeKept
    rw [h1.ent]
    dsimp only
    rw [hw]
  have h3 := h1.tidy
  refine ⟨_, execCmp_eq s, ?_⟩
  rw [h2, h3.pump]
  exact ⟨h3.mem, h3.ent⟩

theorem execCmp_serves {b : Busy} {z : Isl} {d : BitVec 1024} (hb : e.busy = some b) (hc : CmpEnds s b) (hw : e.wb = some (z, d)) :
    let e1 := { e with busy := none, wb := none }
    ∃ t, execCmp s = .next t ∧ t.has (.ev .wback { Arg.zero with x := z, line := s.arg.line }) = true ∧
      (e.owner = z → e.st ≠ .S → t.mem = memWrs s.mem (lineCells s.arg.line d) ∧
        tfind (t.isl.get s.arg.h).dir s.arg.line = (e1.without z).kept) ∧
      (e.owner ≠ z ∨ e.st = .S → t.mem = s.mem ∧ tfind (t.isl.get s.arg.h).dir s.arg.line = e1.kept) := by
  intro e1
  have h1 := hs.modEnt (cmpEnt s)
  rw [cmpEnt_done hb hc] at h1
  have h2 : AtHome s.arg.h s.arg.line _ s.mem (some e1) := h1.modEnt fun e => { e with wb := none }
  let u := modEnt s.arg.h s.arg.line (fun e => { e with wb := none }) (modEnt s.arg.h s.arg.line (cmpEnt s) s)
  have hkept : takeKept s.arg.h s.arg.line (modEnt s.arg.h s.arg.line (cmpEnt s) s) = takeWb s.arg.h z s.arg.line d u := by
    unfold takeKept
    rw [h1.ent]
    dsimp only
    rw [hw]
    rfl
  have hhas := has_tidy (h := s.arg.h) (line := s.arg.line) (has_takeWb s.arg.h z s.arg.line d u)
  have hpump : pump s.arg.h (tidy s.arg.h s.arg.line (takeWb s.arg.h z s.arg.line d u)) =
      tidy s.arg.h s.arg.line (takeWb s.arg.h z s.arg.line d u) := by
    by_cases ho : e.owner = z ∧ e.st ≠ .S
    · exact (h2.takeWb_owner d ho.1 ho.2).tidy_kept.pump
    · exact ((h2.takeWb_other d (not_and_or.1 ho |>.imp_right not_not.1)).tidy).pump
  refine ⟨_, execCmp_eq s, ?_⟩
  rw [hkept, hpump]
  refine ⟨hhas, fun ho hst => ?_, fun ho => ?_⟩
  · have h3 := (h2.takeWb_owner d ho hst).tidy_kept
    exact ⟨h3.mem, h3.ent⟩
  · have h3 := (h2.takeWb_other d ho).tidy
    exact ⟨h3.mem, h3.ent⟩

theorem execCmp_ignored {b : Busy} (hb : e.busy = some b) (hc : ¬ CmpEnds s b) :
    ∃ t, execCmp s = .next t ∧ t.mem = s.mem ∧ tfind (t.isl.get s.arg.h).dir s.arg.line = some e := by
  have h1 := hs.modEnt (cmpEnt s)
  rw [cmpEnt_open hb hc] at h1
  have h2 : takeKept s.arg.h s.arg.line (modEnt s.arg.h s.arg.line (cmpEnt s) s) = modEnt s.arg.h s.arg.line (cmpEnt s) s := by
    unfold takeKept
    rw [h1.ent]
    dsimp only
    rw [hb]
    split
    · rfl
    · rfl
  have h3 := h1.tidy
  rw [DirEnt.kept, hb, if_neg (by simp)] at h3
  refine ⟨_, execCmp_eq s, ?_⟩
  rw [h2, h3.pump]
  exact ⟨h3.mem, h3.ent⟩

/-! CE and WB (R353, R355). -/

theorem execCe_spec : ∃ t, execCe s = .next t ∧ t.mem = s.mem ∧ tfind (t.isl.get s.arg.h).dir s.arg.line = (e.without s.arg.x).kept := by
  have h1 := (hs.modEnt (·.without s.arg.x)).tidy
  refine ⟨pump s.arg.h (tidy s.arg.h s.arg.line (modEnt s.arg.h s.arg.line (·.without s.arg.x) s)), rfl, ?_⟩
  rw [h1.pump]
  exact ⟨h1.mem, h1.ent⟩

theorem execWb_busy (hb : e.busy.isSome = true) : ∃ t, execWb s = .next t ∧ t.mem = s.mem ∧
    tfind (t.isl.get s.arg.h).dir s.arg.line = some { e with wb := some (s.arg.x, s.arg.data) } := by
  have h1 := hs.modEnt fun e => { e with wb := some (s.arg.x, s.arg.data) }
  unfold execWb
  dsimp only
  rw [hs.ent]
  dsimp only
  rw [if_pos hb]
  exact ⟨_, rfl, h1.mem, h1.ent⟩

theorem execWb_free (hb : e.busy = none) : ∃ t, execWb s = .next t ∧ t.has (.ev .wback { Arg.zero with x := s.arg.x, line := s.arg.line }) = true ∧
    (e.owner = s.arg.x → e.st ≠ .S → t.mem = memWrs s.mem (lineCells s.arg.line s.arg.data) ∧
      tfind (t.isl.get s.arg.h).dir s.arg.line = (e.without s.arg.x).kept) ∧
    (e.owner ≠ s.arg.x ∨ e.st = .S → t.mem = s.mem ∧ tfind (t.isl.get s.arg.h).dir s.arg.line = some e) := by
  have hpump : pump s.arg.h (takeWb s.arg.h s.arg.x s.arg.line s.arg.data s) = takeWb s.arg.h s.arg.x s.arg.line s.arg.data s := by
    by_cases ho : e.owner = s.arg.x ∧ e.st ≠ .S
    · exact (hs.takeWb_owner s.arg.data ho.1 ho.2).pump
    · exact (hs.takeWb_other s.arg.data (not_and_or.1 ho |>.imp_right not_not.1)).pump
  unfold execWb
  dsimp only
  rw [hs.ent]
  dsimp only
  rw [hb, if_neg (by decide), hpump]
  refine ⟨_, rfl, has_takeWb .., fun ho hst => ?_, fun ho => ?_⟩
  · have h3 := hs.takeWb_owner s.arg.data ho hst
    exact ⟨h3.mem, h3.ent⟩
  · have h3 := hs.takeWb_other s.arg.data ho
    exact ⟨h3.mem, h3.ent⟩

/-! FWDACK (R355). -/

theorem execFwdack_crossed {b : Busy} {z : Isl} {d : BitVec 1024} (hf : s.arg.flag = true) (hb : e.busy = some b) (hw : e.wb = some (z, d)) :
    ∃ t, execFwdack s = .next t ∧ t.has (.ev .wback { Arg.zero with x := s.arg.x, line := s.arg.line }) = true ∧
      (b.fwd = some true → t.mem = s.mem ∧ tfind (t.isl.get s.arg.h).dir s.arg.line = some { e with wb := none }) ∧
      (b.fwd ≠ some true → t.mem = memWrs s.mem (lineCells s.arg.line d) ∧
        tfind (t.isl.get s.arg.h).dir s.arg.line = some { e.without s.arg.x with wb := none }) := by
  unfold execFwdack
  dsimp only
  rw [hf, if_neg (by decide), hs.ent]
  dsimp only
  rw [hw, hb]
  refine ⟨_, rfl, has_sendMsg .., fun hm => ?_, fun hm => ?_⟩
  · have htest : (some b).any (fun b => b.fwd == some true) = true := beq_iff_eq.2 hm
    have h1 := (hs.modEnt fun e => { (if true then e else e.without s.arg.x) with wb := none }).ackWb s.arg.x
    rw [htest]
    exact ⟨h1.mem, h1.ent.trans (by rw [← hb]; rfl)⟩
  · have htest : (some b).any (fun b => b.fwd == some true) = false := beq_eq_false_iff_ne.2 hm
    have h1 := ((hs.writeCrossed z d).modEnt fun e => { (if false then e else e.without s.arg.x) with wb := none }).ackWb s.arg.x
    rw [htest]
    exact ⟨h1.mem, h1.ent⟩

end

/-! BACK and BACKD (R354). -/

/-- What follows once a line that came back is in memory: the holder's answer counts. -/
def countBack (s : State) (e : DirEnt) (s1 : State) : State :=
  let left := ((e.busy.map (·.back)).getD []).filter (· != s.arg.x)
  let s2 := match e.wb with
    | some (z, _) => ackWb s.arg.h z s.arg.line (modEnt s.arg.h s.arg.line (fun e => { e with wb := none }) s1)
    | none => s1
  if left.isEmpty then pump s.arg.h (s2.modI s.arg.h fun i => { i with dir := tdel i.dir s.arg.line })
  else modBusy s.arg.h s.arg.line (fun b => { b with back := left }) s2

theorem backDone_eq {s s1 : State} {e : DirEnt} {dirty : Option (BitVec 1024)}
    (hs1 : s1 = dirty.elim s fun d => writeCrossed s.arg.h s.arg.x s.arg.line d s)
    (he : tfind (s1.isl.get s.arg.h).dir s.arg.line = some e) : backDone dirty s = countBack s e s1 := by
  unfold backDone countBack
  cases dirty with
  | none =>
    subst hs1
    dsimp only [Option.elim] at he ⊢
    rw [he] <;> rfl
  | some d =>
    subst hs1
    dsimp only [Option.elim] at he ⊢
    rw [he] <;> rfl

theorem countBack_spec {s s1 : State} {m : List Host.Cell} {e : DirEnt} {b : Busy} (h1 : AtHome s.arg.h s.arg.line s1 m (some e))
    (hb : e.busy = some b) (hw : e.wb = none) : (countBack s e s1).mem = m ∧
    (b.back.filter (· != s.arg.x) = [] → tfind ((countBack s e s1).isl.get s.arg.h).dir s.arg.line = none) ∧
    (b.back.filter (· != s.arg.x) ≠ [] → tfind ((countBack s e s1).isl.get s.arg.h).dir s.arg.line =
      some { e with busy := some { b with back := b.back.filter (· != s.arg.x) } }) := by
  have hfree := h1.modDir fun d => tdel d s.arg.line
  have hbusy := h1.modBusy fun c => { c with back := b.back.filter (· != s.arg.x) }
  rw [tfind_tdel_self] at hfree
  rw [hb, Option.map_some] at hbusy
  unfold countBack
  dsimp only
  rw [hw, hb]
  dsimp only [Option.map, Option.getD]
  by_cases hl : b.back.filter (· != s.arg.x) = []
  · rw [if_pos (List.isEmpty_iff.2 hl), hfree.pump]
    exact ⟨hfree.mem, fun _ => hfree.ent, fun hn => absurd hl hn⟩
  · rw [if_neg fun h => hl (List.isEmpty_iff.1 h)]
    exact ⟨hbusy.mem, fun hn => absurd hn hl, fun _ => hbusy.ent.trans (by rw [hw])⟩

/-- Settles O55: each answer by what it makes of the home's entry. -/
theorem homeAnswers : Obligations.HomeAnswers := by
  unfold Obligations.HomeAnswers
  intro s e h x line written wback ent kept hq he
  have hs : AtHome s.arg.h s.arg.line s s.mem (some e) := ⟨rfl, he, hq⟩
  refine ⟨fun b hb hgo => execAck_spec hs hb hgo, fun b hb h1 h2 h3 => ⟨execCmp_frees hs hb ⟨h1, h2, h3⟩, fun z d => execCmp_serves hs hb ⟨h1, h2, h3⟩⟩,
    fun b hb hn => execCmp_ignored hs hb ?_, execCe_spec hs, execWb_busy hs, fun hb ho hst => ?_, fun hb ho => ?_, fun hf => ?_,
    fun b z d hf hb hw => execFwdack_crossed hs hf hb hw, fun b hb hw i hi => ?_⟩
  · rintro ⟨h1, h2, h3⟩
    rcases hn with hn | hn | ⟨hn, hy⟩
    · exact hn h1
    · exact hn h2
    · exact h3.elim (fun h => Bool.noConfusion (hn.symm.trans h)) (fun h => h hy)
  · obtain ⟨t, ht, hback, howner, -⟩ := execWb_free hs hb
    obtain ⟨hm, hent⟩ := howner ho hst
    exact ⟨t, ht, hm, hent, hback⟩
  · obtain ⟨t, ht, hback, -, hother⟩ := execWb_free hs hb
    obtain ⟨hm, hent⟩ := hother ho
    exact ⟨t, ht, hm, hent, hback⟩
  · show execFwdack s = _
    unfold execFwdack
    dsimp only
    rw [hf, if_pos (by decide)]
  · simp only [List.mem_cons, List.not_mem_nil, or_false] at hi
    rcases hi with rfl | rfl
    · obtain ⟨hm, hbk⟩ := countBack_spec hs hb hw
      refine ⟨countBack s e s, congrArg Host.Outcome.next (backDone_eq (dirty := none) rfl he), hm, hbk⟩
    · have h1 := hs.writeCrossed s.arg.x s.arg.data
      obtain ⟨hm, hbk⟩ := countBack_spec h1 hb hw
      exact ⟨_, congrArg Host.Outcome.next (backDone_eq (dirty := some s.arg.data) rfl h1.ent), hm, hbk⟩

end Sys2Proof.Machine
end

section
/-! O56: messages at a holder, and accesses of the host (R318, R344, R349 to R356). -/

namespace Sys2Proof.Machine

/-! Tracked copies (R350). -/

/-- The copy of a line that an island tracks for its directory. -/
def trackedCopy (s : State) (z : Isl) (line : Nat) : Option Copy := (tfind (s.isl.get z).copies line).filter fun c => c.st != .Rg

theorem trackedCopy_congr {s t : State} (h : t.isl = s.isl) (z : Isl) (line : Nat) : trackedCopy t z line = trackedCopy s z line := by
  unfold trackedCopy
  rw [h]

theorem trackedCopy_modI (s : State) (z : Isl) (line : Nat) (f : IslandSt → IslandSt) :
    trackedCopy (s.modI z f) z line = (tfind (f (s.isl.get z)).copies line).filter fun c => c.st != .Rg := by
  unfold trackedCopy
  rw [State.modI_get]

/-- Of the copies of a line that is dropped at most those of a region line stay. -/
theorem tfind_dropped (t : Tbl Copy) (line : Nat) :
    (tfind (t.filter fun e => e.1 != line || e.2.st == .Rg) line).filter (fun c => c.st != .Rg) = none := by
  induction t with
  | nil => rfl
  | cons e t ih =>
    obtain ⟨a, c⟩ := e
    by_cases hkeep : (a != line || c.st == .Rg) = true
    · rw [List.filter_cons_of_pos (p := fun e : Nat × Copy => e.1 != line || e.2.st == .Rg) hkeep, tfind]
      split
      next ha =>
        have hrg : c.st = .Rg := by simpa [ha] using hkeep
        simp [Option.filter, hrg]
      · exact ih
    · rw [List.filter_cons_of_neg (p := fun e : Nat × Copy => e.1 != line || e.2.st == .Rg) hkeep]
      exact ih

theorem trackedCopy_dropCopy (x : Isl) (line : Nat) (s : State) : trackedCopy (dropCopy x line s) x line = none := by
  unfold dropCopy
  rw [trackedCopy_modI]
  exact tfind_dropped ..

/-! Line caches of the island's agents (R348). -/

/-- One step of invAgents. -/
def invAgent (y : Isl) (line : Nat) (but : Option CoreId) (s : State) (c : CoreId) : State :=
  if islOf c = y ∧ some c ≠ but ∧ named s c line then s.modC c fun k => { k with lc := k.lc.filter (· != line) } else s

/-- Core c does not hold a line. -/
def Drops (c : CoreId) (line : Nat) (s : State) : Prop := line ∉ (s.core.get c).lc

theorem drops_invAgent {y : Isl} {line : Nat} {but : Option CoreId} {s : State} {c d : CoreId} (h : Drops d line s) :
    Drops d line (invAgent y line but s c) := by
  unfold invAgent
  split
  · unfold Drops
    rw [State.modC_get_if]
    split
    · exact fun hm => h (List.mem_of_mem_filter hm)
    · exact h
  · exact h

theorem invAgent_drops {y : Isl} {line : Nat} {s : State} {c : CoreId} (hy : islOf c = y) (hn : named s c line = true) :
    Drops c line (invAgent y line none s c) := by
  unfold invAgent Drops
  rw [if_pos ⟨hy, by simp, hn⟩, State.modC_get]
  simp

theorem named_congr {s t : State} (h : t.isl = s.isl) (c : CoreId) (line : Nat) : named t c line = named s c line := by
  unfold named
  rw [h]

theorem sends_invAgent (y : Isl) (line : Nat) (but : Option CoreId) (s : State) (c : CoreId) : Sends s (invAgent y line but s c) := by
  unfold invAgent
  split
  · exact ⟨rfl, rfl, rfl, rfl, fun _ h => h⟩
  · exact .refl s

theorem foldl_invAgent_drops {y : Isl} {line : Nat} {c : CoreId} (hy : islOf c = y) (l : List CoreId) (s : State)
    (hn : named s c line = true) (h : c ∈ l ∨ Drops c line s) : Drops c line (l.foldl (invAgent y line none) s) := by
  induction l generalizing s with
  | nil => exact h.resolve_left List.not_mem_nil
  | cons d l ih =>
    refine ih _ ((named_congr (sends_invAgent y line none s d).isl c line).trans hn) ?_
    rcases h with h | h
    · rcases List.mem_cons.1 h with rfl | h
      · exact .inr (invAgent_drops hy hn)
      · exact .inl h
    · exact .inr (drops_invAgent h)

/-- An agent that the filters name as a holder drops the line. -/
theorem invAgents_drops {y : Isl} {line : Nat} {c : CoreId} {s : State} (hy : islOf c = y) (hn : named s c line = true) :
    line ∉ ((invAgents y line none s).core.get c).lc :=
  foldl_invAgent_drops hy coreIds s hn (.inl (mem_coreIds c))

/-! Forwards (R355). -/

/-- The owner's answer to a forward. -/
def answerFwd (s0 : State) (toM : Bool) (d : BitVec 1024) (crossed : Bool) (s : State) : State :=
  sendMsg s0.arg.x (lineHome s0.arg.line) .fwdack
    { Arg.zero with h := lineHome s0.arg.line, line := s0.arg.line, x := s0.arg.x, flag := crossed }
    (sendMsg s0.arg.x s0.arg.y .data
      { argY s0.arg.y with line := s0.arg.line, gr := if toM then .M else .S, flag := s.arg.flag, data := d } s)

theorem answerFwd_spec {s0 s : State} (harg : s.arg = s0.arg) (toM : Bool) (d : BitVec 1024) (crossed : Bool) :
    let t := answerFwd s0 toM d crossed s
    Sends s t ∧
    t.has (.ev .data { argY s0.arg.y with line := s0.arg.line, gr := if toM then .M else .S, flag := s0.arg.flag, data := d }) = true ∧
    t.has (.ev .fwdack { Arg.zero with h := lineHome s0.arg.line, line := s0.arg.line, x := s0.arg.x, flag := crossed }) = true := by
  refine ⟨(Sends.msg ..).trans (.msg ..), ?_, has_sendMsg ..⟩
  rw [← congrArg Arg.flag harg]
  exact (Sends.msg ..).due _ (has_sendMsg ..)

theorem invAgents_arg (y : Isl) (line : Nat) (but : Option CoreId) (s : State) : (invAgents y line but s).arg = s.arg := by
  refine foldl_keeps (·.arg) (fun s c => ?_) coreIds s
  split
  · rfl
  · rfl

/-- The home took the line for clean. -/
def homeClean (s : State) : Bool := (tfind (s.isl.get (lineHome s.arg.line)).dir s.arg.line).any fun e => e.st == .S

theorem homeClean_iff (s : State) :
    homeClean s = true ↔ ∃ e, tfind (s.isl.get (lineHome s.arg.line)).dir s.arg.line = some e ∧ e.st = .S := by
  unfold homeClean
  rw [Option.any_eq_true]
  exact exists_congr fun e => and_congr_right' beq_iff_eq

/-- The copy that the owner answers a forward from, once it has answered. -/
def fwdCopies (s : State) (toM : Bool) (c : Copy) (i : IslandSt) : IslandSt :=
  { i with copies := if toM then tdel i.copies s.arg.line
      else tset i.copies s.arg.line { c with st := if c.st = .E ∨ s.arg.y = lineHome s.arg.line ∨ homeClean s then .S else .O } }

theorem forward_copy {s : State} {toM : Bool} {c : Copy} (hc : trackedCopy s s.arg.x s.arg.line = some c) :
    forward toM s = answerFwd s toM c.data false (State.modI
      (if !toM && homeClean s && c.st != .S then writeLine s.arg.line c.data (invAgents s.arg.x s.arg.line none s)
        else invAgents s.arg.x s.arg.line none s) s.arg.x (fwdCopies s toM c)) := by
  unfold trackedCopy at hc
  unfold forward answerFwd fwdCopies homeClean
  dsimp only
  rw [hc]

theorem forward_buffer {s : State} {toM : Bool} {d : BitVec 1024} (hc : trackedCopy s s.arg.x s.arg.line = none)
    (hd : tfind (s.isl.get s.arg.x).wbuf s.arg.line = some d) : forward toM s = answerFwd s toM d true s := by
  unfold forward
  dsimp only
  unfold trackedCopy at hc
  rw [hc, hd]
  rfl

theorem forward_copy_spec {s : State} {toM : Bool} {c : Copy} (hc : trackedCopy s s.arg.x s.arg.line = some c) :
    let t := forward toM s
    t.has (.ev .data { argY s.arg.y with line := s.arg.line, gr := if toM then .M else .S, flag := s.arg.flag, data := c.data }) = true ∧
    t.has (.ev .fwdack { Arg.zero with h := lineHome s.arg.line, line := s.arg.line, x := s.arg.x, flag := false }) = true ∧
    t.mem = (if !toM && homeClean s && c.st != .S then memWrs s.mem (lineCells s.arg.line c.data) else s.mem) ∧
    trackedCopy t s.arg.x s.arg.line = if toM then none
      else some { c with st := if c.st = .E ∨ s.arg.y = lineHome s.arg.line ∨ homeClean s then .S else .O } := by
  intro t
  have hinv := sends_invAgents s.arg.x s.arg.line none s
  have harg := invAgents_arg s.arg.x s.arg.line none s
  rw [show t = _ from forward_copy hc]
  generalize invAgents s.arg.x s.arg.line none s = s1 at hinv harg ⊢
  generalize hs2 : (if !toM && homeClean s && c.st != .S then writeLine s.arg.line c.data s1 else s1) = s2
  have h2 : s2.mem = (if !toM && homeClean s && c.st != .S then memWrs s.mem (lineCells s.arg.line c.data) else s.mem) ∧
      s2.isl.get s.arg.x = s.isl.get s.arg.x ∧ s2.arg = s.arg := by
    rw [← hs2]
    split
    · exact ⟨by rw [writeLine_mem, hinv.mem], congrArg (Vector.get · s.arg.x) hinv.isl, harg⟩
    · exact ⟨hinv.mem, congrArg (Vector.get · s.arg.x) hinv.isl, harg⟩
  obtain ⟨hsends, hdata, hack⟩ := answerFwd_spec (s := s2.modI s.arg.x (fwdCopies s toM c)) h2.2.2 toM c.data false
  refine ⟨hdata, hack, hsends.mem.trans h2.1, ?_⟩
  rw [trackedCopy_congr hsends.isl, trackedCopy_modI, h2.2.1]
  unfold fwdCopies
  cases toM with
  | true =>
    dsimp only
    rw [if_pos rfl, if_pos rfl, tfind_tdel_self]
    rfl
  | false =>
    dsimp only
    rw [if_neg Bool.false_ne_true, if_neg Bool.false_ne_true, tfind_tset_self]
    split
    · rfl
    · rfl

/-! INV and BINV (R351, R354). -/

theorem dropped_spec (s : State) :
    let t := invAgents s.arg.x s.arg.line none (dropCopy s.arg.x s.arg.line s)
    t.mem = s.mem ∧ trackedCopy t s.arg.x s.arg.line = none ∧
    ∀ c, islOf c = s.arg.x → named s c s.arg.line = true → s.arg.line ∉ (t.core.get c).lc := by
  intro t
  have hinv := sends_invAgents s.arg.x s.arg.line none (dropCopy s.arg.x s.arg.line s)
  refine ⟨hinv.mem, (trackedCopy_congr hinv.isl ..).trans (trackedCopy_dropCopy ..), fun c hc hn => invAgents_drops hc ?_⟩
  have hfilt : (((dropCopy s.arg.x s.arg.line s).isl.get (islOf c)).filt) = (s.isl.get (islOf c)).filt := by
    unfold dropCopy
    rw [State.modI_get_if]
    split
    · rfl
    · rfl
  unfold named at hn ⊢
  rw [hfilt]
  exact hn

theorem execInv_spec (s : State) : ∃ t, execInv s = .next t ∧ t.mem = s.mem ∧ trackedCopy t s.arg.x s.arg.line = none ∧
    t.has (.ev .ack { Arg.zero with h := lineHome s.arg.line, line := s.arg.line, x := s.arg.x }) = true ∧
    ∀ c, islOf c = s.arg.x → named s c s.arg.line = true → s.arg.line ∉ (t.core.get c).lc := by
  obtain ⟨hm, hc, hl⟩ := dropped_spec s
  exact ⟨_, rfl, hm, hc, has_sendMsg .., hl⟩

theorem execBinv_copy {s : State} {c : Copy} (hc : trackedCopy s s.arg.x s.arg.line = some c) :
    let a : Arg := { Arg.zero with h := lineHome s.arg.line, line := s.arg.line, x := s.arg.x }
    let s1 := invAgents s.arg.x s.arg.line none (dropCopy s.arg.x s.arg.line s)
    execBinv s = .next (if c.st = .M ∨ c.st = .O then sendMsg s.arg.x (lineHome s.arg.line) .backd { a with data := c.data } s1
      else sendMsg s.arg.x (lineHome s.arg.line) .back a s1) := by
  intro a s1
  unfold trackedCopy at hc
  unfold execBinv
  dsimp only
  rw [hc]

theorem execBinv_buffer {s : State} {d : BitVec 1024} (hc : trackedCopy s s.arg.x s.arg.line = none)
    (hd : tfind (s.isl.get s.arg.x).wbuf s.arg.line = some d) : execBinv s =
    .next (sendMsg s.arg.x (lineHome s.arg.line) .backd { Arg.zero with h := lineHome s.arg.line, line := s.arg.line, x := s.arg.x, data := d }
      (invAgents s.arg.x s.arg.line none (dropCopy s.arg.x s.arg.line s))) := by
  unfold trackedCopy at hc
  unfold execBinv
  dsimp only
  rw [hc, hd]

theorem execBinv_nothing {s : State} (hc : trackedCopy s s.arg.x s.arg.line = none) (hd : tfind (s.isl.get s.arg.x).wbuf s.arg.line = none) :
    execBinv s = .next (sendMsg s.arg.x (lineHome s.arg.line) .back { Arg.zero with h := lineHome s.arg.line, line := s.arg.line, x := s.arg.x }
      (invAgents s.arg.x s.arg.line none (dropCopy s.arg.x s.arg.line s))) := by
  unfold trackedCopy at hc
  unfold execBinv
  dsimp only
  rw [hc, hd]

theorem execBinv_spec (s : State) :
    let a : Arg := { Arg.zero with h := lineHome s.arg.line, line := s.arg.line, x := s.arg.x }
    ∃ t, execBinv s = .next t ∧ t.mem = s.mem ∧ trackedCopy t s.arg.x s.arg.line = none ∧
      (∀ c, trackedCopy s s.arg.x s.arg.line = some c →
        t.has (if c.st = .M ∨ c.st = .O then .ev .backd { a with data := c.data } else .ev .back a) = true) ∧
      (∀ d, trackedCopy s s.arg.x s.arg.line = none → tfind (s.isl.get s.arg.x).wbuf s.arg.line = some d →
        t.has (.ev .backd { a with data := d }) = true) ∧
      (trackedCopy s s.arg.x s.arg.line = none → tfind (s.isl.get s.arg.x).wbuf s.arg.line = none → t.has (.ev .back a) = true) := by
  intro a
  obtain ⟨hm, hdrop, -⟩ := dropped_spec s
  cases hc : trackedCopy s s.arg.x s.arg.line with
  | some c =>
    refine ⟨_, execBinv_copy hc, ?_, ?_, fun c' hc' => ?_, fun d hn => (nomatch hn), fun hn => (nomatch hn)⟩
    · split
      · exact hm
      · exact hm
    · split
      · exact hdrop
      · exact hdrop
    · cases hc'
      split
      · exact has_sendMsg ..
      · exact has_sendMsg ..
  | none =>
    cases hd : tfind (s.isl.get s.arg.x).wbuf s.arg.line with
    | some d => exact ⟨_, execBinv_buffer hc hd, hm, hdrop, fun c hn => (nomatch hn), fun d' _ hd' => by cases hd'; exact has_sendMsg ..,
        fun _ hn => (nomatch hn)⟩
    | none => exact ⟨_, execBinv_nothing hc hd, hm, hdrop, fun c hn => (nomatch hn), fun d' _ hn => (nomatch hn), fun _ _ => has_sendMsg ..⟩

/-! DATA and GO (R352). -/

/-- The copy of a line that leaves goes into the writeback buffer. -/
theorem wbuf_frame (y : Isl) (line : Nat) (d : BitVec 1024) {s : State} {m : List Host.Cell} {q : List Mshr}
    (h : s.mem = m ∧ (s.isl.get y).mshr = q) :
    (s.modI y fun i => { i with wbuf := tset i.wbuf line d }).mem = m ∧
    ((s.modI y fun i => { i with wbuf := tset i.wbuf line d }).isl.get y).mshr = q :=
  ⟨h.1, (congrArg IslandSt.mshr (State.modI_get s y fun i => { i with wbuf := tset i.wbuf line d }) :).trans h.2⟩

/-- What the room that is made in the offshore cache leaves: storage, and what the island has asked for. -/
theorem evictCopy_frame (y : Isl) (line : Nat) (c : Copy) (s : State) :
    (evictCopy y line c s).mem = s.mem ∧ ((evictCopy y line c s).isl.get y).mshr = (s.isl.get y).mshr := by
  have h1 : (invAgents y line none (s.modI y fun i => { i with copies := tdel i.copies line })).mem = s.mem ∧
      ((invAgents y line none (s.modI y fun i => { i with copies := tdel i.copies line })).isl.get y).mshr = (s.isl.get y).mshr := by
    have hinv := sends_invAgents y line none (s.modI y fun i => { i with copies := tdel i.copies line })
    refine ⟨hinv.mem, ?_⟩
    rw [hinv.isl, State.modI_get]
  unfold evictCopy
  dsimp only
  generalize invAgents y line none (s.modI y fun i => { i with copies := tdel i.copies line }) = s1 at h1 ⊢
  split
  · exact h1
  · exact h1
  · exact h1
  · exact wbuf_frame y line c.data h1
  · exact wbuf_frame y line c.data h1

theorem offshoreRoom_frame (y : Isl) (line : Nat) (s : State) :
    (offshoreRoom y line s).mem = s.mem ∧ ((offshoreRoom y line s).isl.get y).mshr = (s.isl.get y).mshr := by
  unfold offshoreRoom
  dsimp only
  split
  · exact ⟨rfl, rfl⟩
  · split
    · exact evictCopy_frame ..
    · exact ⟨rfl, rfl⟩

/-- The state of a copy that a grant gives (R349). -/
def grantSt : Grant → LineSt
  | .S => .S
  | .E => .E
  | .M => .M

theorem install_away {y : Isl} {line : Nat} (g : Grant) (d : BitVec 1024) {s : State} (hy : y ≠ lineHome line) :
    let t := install y line g d s
    t.mem = s.mem ∧ t.has (.ev .cmp { argY y with h := lineHome line, line := line }) = true ∧
    trackedCopy t y line = some ⟨grantSt g, d, 0, 0, none⟩ ∧ ∀ m ∈ (t.isl.get y).mshr, m.line ≠ line := by
  intro t
  let s1 := s.modI y fun i => { i with mshr := i.mshr.filter (·.line != line) }
  have h1 : s1.isl.get y = { s.isl.get y with mshr := (s.isl.get y).mshr.filter (·.line != line) } :=
    State.modI_get s y fun i => { i with mshr := i.mshr.filter (·.line != line) }
  obtain ⟨hm, hmshr⟩ := offshoreRoom_frame y line s1
  let f (i : IslandSt) : IslandSt := { i with copies := tset i.copies line ⟨grantSt g, d, 0, 0, none⟩ }
  have ht : t = sendMsg y (lineHome line) .cmp { argY y with h := lineHome line, line := line } ((offshoreRoom y line s1).modI y f) := by
    unfold t install
    dsimp only
    rw [if_neg hy]
    cases g <;> rfl
  have hget := State.modI_get (offshoreRoom y line s1) y f
  rw [ht]
  refine ⟨hm, has_sendMsg .., ?_, fun m hmem => ?_⟩
  · have hcopy : trackedCopy ((offshoreRoom y line s1).modI y f) y line = some ⟨grantSt g, d, 0, 0, none⟩ := by
      rw [trackedCopy_modI, tfind_tset_self]
      cases g <;> rfl
    exact hcopy
  · have hin : m ∈ (((offshoreRoom y line s1).modI y f).isl.get y).mshr := hmem
    rw [hget] at hin
    have hin' : m ∈ ((offshoreRoom y line s1).isl.get y).mshr := hin
    rw [hmshr, h1] at hin'
    exact bne_iff_ne.1 (List.mem_filter.1 hin').2

/-- The home may use the line. -/
def setInst (h : Isl) (b : Busy) : Busy := if b.req = h ∧ b.back.isEmpty then { b with inst := true } else b

theorem modEnt_of {h : Isl} {line : Nat} {s : State} {e : DirEnt} (he : tfind (s.isl.get h).dir line = some e) (f : DirEnt → DirEnt) :
    modEnt h line f s = s.modI h fun i => { i with dir := tset i.dir line (f e) } := by
  unfold modEnt
  rw [he]

theorem install_home {y : Isl} {line : Nat} (hy : y = lineHome line) (g : Grant) (d : BitVec 1024) {s : State} {e : DirEnt} {b : Busy}
    (he : tfind (s.isl.get (lineHome line)).dir line = some e) (hb : e.busy = some b) (hreq : b.req = lineHome line) (hback : b.back = []) :
    let t := install y line g d s
    tfind (t.isl.get (lineHome line)).dir line = some { e with busy := some { b with inst := true } } ∧
    t.mem = (if b.fwd.isSome then memWrs s.mem (lineCells line d) else s.mem) ∧
    t.has (.ev .cmp { argY y with h := lineHome line, line := line }) = true := by
  intro t
  generalize hh : lineHome line = h at *
  subst hy
  let s1 := s.modI y fun i => { i with mshr := i.mshr.filter (·.line != line) }
  have he1 : tfind (s1.isl.get y).dir line = some e :=
    (congrArg (fun i : IslandSt => tfind i.dir line) (State.modI_get s y fun i => { i with mshr := i.mshr.filter (·.line != line) })).trans he
  let s3 := if b.fwd.isSome then writeLine line d s1 else s1
  have hs3 : tfind (s3.isl.get y).dir line = some e ∧ s3.mem = (if b.fwd.isSome then memWrs s.mem (lineCells line d) else s.mem) := by
    unfold s3
    split
    · exact ⟨he1, by rw [writeLine_mem]; rfl⟩
    · exact ⟨he1, rfl⟩
  have ht : t = sendMsg y y .cmp { argY y with h := y, line := line } (modBusy y line (setInst y) s3) := by
    unfold t install
    dsimp only
    rw [hh, if_pos rfl, he1, Option.bind_some, hb, Option.any_some, hreq, beq_self_eq_true, Bool.true_and]
    rfl
  have hdir := State.modI_get s3 y fun i => { i with dir := tset i.dir line { e with busy := e.busy.map (setInst y) } }
  unfold modBusy at ht
  rw [modEnt_of hs3.1] at ht
  rw [ht]
  refine ⟨?_, hs3.2, has_sendMsg ..⟩
  refine (congrArg (fun i : IslandSt => tfind i.dir line) hdir).trans ?_
  dsimp only
  rw [tfind_tset_self, hb, Option.map_some, setInst, if_pos ⟨hreq, by rw [hback]; rfl⟩]

theorem execData_installs {s : State} (h : s.arg.flag = false) :
    execData s = .next (install s.arg.y s.arg.line s.arg.gr s.arg.data s) := by
  unfold execData
  dsimp only
  rw [if_neg (by rw [h]; exact Bool.false_ne_true)]

/-- Data that waits for Go is kept. -/
def keepData (s : State) (m : Mshr) : Mshr := if m.line = s.arg.line then { m with wait := true, data := some (s.arg.gr, s.arg.data) } else m

theorem execData_waits {s : State} {m : Mshr} (hf : s.arg.flag = true) (hm : (s.isl.get s.arg.y).mshr = [m]) (hl : m.line = s.arg.line)
    (hgo : m.go = false) : ∃ t, execData s = .next t ∧ t.mem = s.mem ∧
      (t.isl.get s.arg.y).mshr = [{ m with wait := true, data := some (s.arg.gr, s.arg.data) }] ∧
      trackedCopy t s.arg.y s.arg.line = trackedCopy s s.arg.y s.arg.line := by
  refine ⟨s.modI s.arg.y fun i => { i with mshr := i.mshr.map (keepData s) }, ?_, rfl, ?_, ?_⟩
  · unfold execData
    dsimp only
    rw [hm, if_pos (by simp [hf, hl, hgo])]
    rfl
  · refine (congrArg IslandSt.mshr (State.modI_get s s.arg.y fun i => { i with mshr := i.mshr.map (keepData s) }) :).trans ?_
    dsimp only
    rw [hm, List.map_singleton, keepData, if_pos hl]
  · rw [trackedCopy_modI]
    rfl

theorem execGo_data {s : State} {m : Mshr} {g : Grant} {d : BitVec 1024}
    (hm : (s.isl.get s.arg.y).mshr.find? (·.line == s.arg.line) = some m) (hd : m.data = some (g, d)) :
    execGo s = .next (install s.arg.y s.arg.line g d s) := by
  unfold execGo
  dsimp only
  rw [hm]
  dsimp only
  rw [hd]

theorem execGo_upgrade {s : State} {m : Mshr} {c : Copy} (hm : (s.isl.get s.arg.y).mshr.find? (·.line == s.arg.line) = some m)
    (hd : m.data = none) (hf : s.arg.flag = true) (hc : trackedCopy s s.arg.y s.arg.line = some c) :
    execGo s = .next (install s.arg.y s.arg.line .M c.data s) := by
  have hcopy : tfind (s.isl.get s.arg.y).copies s.arg.line = some c := (Option.filter_eq_some_iff.1 hc).1
  unfold execGo
  dsimp only
  rw [hm]
  dsimp only
  rw [hd]
  dsimp only
  rw [if_pos hf, hcopy]

theorem execWback_spec (s : State) : ∃ t, execWback s = .next t ∧ t.mem = s.mem ∧ tfind (t.isl.get s.arg.x).wbuf s.arg.line = none := by
  refine ⟨_, rfl, rfl, ?_⟩
  refine (congrArg (fun i : IslandSt => tfind i.wbuf s.arg.line)
    (State.modI_get s s.arg.x fun i => { i with wbuf := tdel i.wbuf s.arg.line })).trans ?_
  exact tfind_tdel_self ..

/-! Back-invalidations (R354). -/

/-- One step of backInvalidate. -/
def sendBinv (h : Isl) (line : Nat) (s : State) (x : Isl) : State :=
  sendMsg h x .binv { Arg.zero with x := x, line := line } (s.modI h fun i => i.count x.val 1)

/-- What the messages of a back-invalidation leave: storage, the directory, and what is due. -/
structure Invalidates (s t : State) : Prop where
  mem : t.mem = s.mem
  dir : ∀ y, (t.isl.get y).dir = (s.isl.get y).dir
  due : ∀ d, s.has d = true → t.has d = true

theorem invalidates_sendBinv (h : Isl) (line : Nat) (s : State) (x : Isl) : Invalidates s (sendBinv h line s x) := by
  refine ⟨rfl, fun y => ?_, fun d hd => has_at_of_has _ _ _ _ hd⟩
  refine (congrArg IslandSt.dir (State.modI_get_if s (fun i => i.count x.val 1) h y) :).trans ?_
  split
  next hy => rw [hy]; rfl
  · rfl

theorem Invalidates.trans {s t u : State} (h : Invalidates s t) (h' : Invalidates t u) : Invalidates s u :=
  ⟨h'.mem.trans h.mem, fun y => (h'.dir y).trans (h.dir y), fun d hd => h'.due d (h.due d hd)⟩

theorem invalidates_foldl (h : Isl) (line : Nat) (l : List Isl) (s : State) : Invalidates s (l.foldl (sendBinv h line) s) := by
  induction l generalizing s with
  | nil => exact ⟨rfl, fun _ => rfl, fun _ hd => hd⟩
  | cons x l ih => exact (invalidates_sendBinv h line s x).trans (ih _)

theorem has_foldl_sendBinv (h : Isl) (line : Nat) (l : List Isl) (s : State) {x : Isl} (hx : x ∈ l) :
    (l.foldl (sendBinv h line) s).has (.ev .binv { Arg.zero with x := x, line := line }) = true := by
  induction l generalizing s with
  | nil => exact absurd hx List.not_mem_nil
  | cons y l ih =>
    rcases List.mem_cons.1 hx with rfl | hx
    · exact (invalidates_foldl h line l _).due _ (has_sendMsg ..)
    · exact ih _ hx

theorem backInvalidate_spec {h : Isl} {line : Nat} {s : State} {e : DirEnt} (he : tfind (s.isl.get h).dir line = some e) :
    let t := backInvalidate h line s
    t.mem = s.mem ∧ (∀ x ∈ e.holders, t.has (.ev .binv { Arg.zero with x := x, line := line }) = true) ∧
    tfind (t.isl.get h).dir line = some { e with busy := some ⟨h, [], false, false, none, e.holders, false⟩ } := by
  intro t
  let e' : DirEnt := { e with busy := some ⟨h, [], false, false, none, e.holders, false⟩ }
  have ht : t = e.holders.foldl (sendBinv h line) (s.modI h fun i => { i with dir := tset i.dir line e' }) := by
    unfold t backInvalidate
    rw [he]
    rfl
  have hinv := invalidates_foldl h line e.holders (s.modI h fun i => { i with dir := tset i.dir line e' })
  rw [ht]
  refine ⟨hinv.mem, fun x hx => has_foldl_sendBinv h line _ _ hx, ?_⟩
  rw [hinv.dir]
  refine (congrArg (fun i : IslandSt => tfind i.dir line) (State.modI_get s h fun i => { i with dir := tset i.dir line e' })).trans ?_
  exact tfind_tset_self ..

/-! Accesses of the host (R318, R344, R356). -/

theorem askLine_spec (y : Isl) (line : Nat) (own : Bool) (s : State) :
    let t := askLine y line own s
    t.mem = s.mem ∧ t.arg = s.arg ∧ ((t.isl.get y).mshr.any (·.line == line)) = true := by
  have hasked : (((s.modI y fun i => { i with mshr := ⟨line, own, false, none, false⟩ :: i.mshr }).isl.get y).mshr.any (·.line == line)) = true := by
    rw [State.modI_get]
    simp
  have hsent (up : Bool) (a : Arg) :
      let s1 := s.modI y fun i => { i with mshr := ⟨line, own, false, none, false⟩ :: i.mshr }
      let t := if up then sendMsg y (lineHome line) .upg a s1 else if own then sendMsg y (lineHome line) .rdo a s1
        else sendMsg y (lineHome line) .rds a s1
      t.mem = s.mem ∧ t.arg = s.arg ∧ ((t.isl.get y).mshr.any (·.line == line)) = true := by
    intro s1 t
    unfold t
    split
    · exact ⟨rfl, rfl, hasked⟩
    · split
      · exact ⟨rfl, rfl, hasked⟩
      · exact ⟨rfl, rfl, hasked⟩
  unfold askLine
  dsimp only
  split
  next h => exact ⟨rfl, rfl, h⟩
  · exact hsent _ _

theorem windowWrite_collides {q m : Nat} {s : State} (o mask : Nat) (d : BitVec 1024) (h : (tfind s.dev.parsing (q * 16 + m)).isSome = true) :
    windowWrite q m o mask d s = s.modD fun d => { d with collide := d.collide + 1 } := by
  unfold windowWrite
  rw [if_pos h]

theorem windowWrite_triggers {q m o mask : Nat} {d : BitVec 1024} {s : State} (h : tfind s.dev.parsing (q * 16 + m) = none)
    (hon : s.dev.lwb.getLsbD 0 = true) (ho : o = 128) (hmask : mask.testBit 127 = true) (hd : d.extractLsb' 1016 8 = 0x5A) :
    let t := windowWrite q m o mask d s
    t.core = s.core ∧ t.isl = s.isl ∧
    ∃ e ∈ t.agenda, e.at_ = s.tick ∧ e.due = .ev .hostLaunchTrigger { Arg.zero with k := q, m := m } := by
  intro t
  unfold t windowWrite
  rw [if_neg (by rw [h]; exact Bool.false_ne_true)]
  dsimp only
  rw [if_pos (by simp [hon, ho, hmask, hd])]
  exact ⟨rfl, rfl, _, (mem_agenda_at ..).2 (.inl rfl), rfl, rfl⟩

theorem hostMemAccess_window {s : State} (h : s.arg.m = 1) : execHostMemAccess s = .next (match windowOff s s.arg.line with
    | some a => if s.arg.flag then windowWrite (a / 4096) (a % 4096 / 256) (a % 256) s.arg.n s.arg.data s else s
    | none => s) := by
  unfold execHostMemAccess
  dsimp only
  rw [if_pos h] <;> rfl

theorem hostMemAccess_hostBias {s : State} (hm : s.arg.m ≠ 1) (hb : inDeviceBias s s.arg.line = false) :
    execHostMemAccess s = .next (if s.arg.flag then writeLine s.arg.line s.arg.data s else s) := by
  unfold execHostMemAccess
  dsimp only
  rw [if_neg hm, hb]
  rfl

theorem hostMemAccess_free {s : State} (hm : s.arg.m ≠ 1) (hb : inDeviceBias s s.arg.line = true)
    (he : tfind (s.isl.get (lineHome s.arg.line)).dir s.arg.line = none) : execHostMemAccess s =
    .next (if s.arg.flag then invAgents (lineHome s.arg.line) s.arg.line none (writeLine s.arg.line s.arg.data s) else s) := by
  unfold execHostMemAccess
  dsimp only
  rw [if_neg hm, hb, if_neg (by simp), he]

theorem hostMemAccess_asks {s : State} {e : DirEnt} (hm : s.arg.m ≠ 1) (hb : inDeviceBias s s.arg.line = true)
    (he : tfind (s.isl.get (lineHome s.arg.line)).dir s.arg.line = some e) (h : e.st ≠ .S ∨ s.arg.flag = true) : execHostMemAccess s =
    .next ((askLine (lineHome s.arg.line) s.arg.line s.arg.flag s).after 16
      (.ev .hostMemAccess (askLine (lineHome s.arg.line) s.arg.line s.arg.flag s).arg)) := by
  have hno : ¬ (!s.arg.flag && e.st == .S && e.busy.isNone) = true := by
    rcases h with h | h
    · simp [h]
    · simp [h]
  unfold execHostMemAccess
  dsimp only
  rw [if_neg hm, hb, if_neg (by simp), he]
  dsimp only
  rw [if_neg hno]

theorem hostMemAccess_asks_spec {s : State} {e : DirEnt} (hm : s.arg.m ≠ 1) (hb : inDeviceBias s s.arg.line = true)
    (he : tfind (s.isl.get (lineHome s.arg.line)).dir s.arg.line = some e) (h : e.st ≠ .S ∨ s.arg.flag = true) :
    ∃ t, execHostMemAccess s = .next t ∧ t.mem = s.mem ∧
      ((t.isl.get (lineHome s.arg.line)).mshr.any (·.line == s.arg.line)) = true ∧ t.has (.ev .hostMemAccess s.arg) = true := by
  obtain ⟨hmem, harg, hasked⟩ := askLine_spec (lineHome s.arg.line) s.arg.line s.arg.flag s
  refine ⟨_, hostMemAccess_asks hm hb he h, hmem, hasked, ?_⟩
  rw [harg]
  exact has_after ..

theorem hostSnoop_free {s : State} (he : tfind (s.isl.get (lineHome s.arg.line)).dir s.arg.line = none) :
    execHostSnoop s = .next (if s.arg.flag then s else invAgents (lineHome s.arg.line) s.arg.line none s) := by
  unfold execHostSnoop
  dsimp only
  rw [he]

theorem hostSnoop_held {s : State} {e : DirEnt} (he : tfind (s.isl.get (lineHome s.arg.line)).dir s.arg.line = some e) :
    execHostSnoop s = if e.busy.isSome then .next (s.after 16 (.ev .hostSnoop s.arg))
      else if s.arg.flag then .next (if e.st = .S then s else askLine (lineHome s.arg.line) s.arg.line false s)
      else .next (backInvalidate (lineHome s.arg.line) s.arg.line (invAgents (lineHome s.arg.line) s.arg.line none s)) := by
  unfold execHostSnoop
  dsimp only
  rw [he]

theorem expander_free {s : State} (he : tfind (s.isl.get (lineHome s.arg.line)).dir s.arg.line = none) :
    execExpanderBackInvalidation s = .next (invAgents (lineHome s.arg.line) s.arg.line none s) := by
  unfold execExpanderBackInvalidation
  dsimp only
  rw [he]

theorem expander_held {s : State} {e : DirEnt} (he : tfind (s.isl.get (lineHome s.arg.line)).dir s.arg.line = some e) :
    execExpanderBackInvalidation s = if e.busy.isSome then .next (s.after 16 (.ev .expanderBackInvalidation s.arg))
      else .next (backInvalidate (lineHome s.arg.line) s.arg.line (invAgents (lineHome s.arg.line) s.arg.line none s)) := by
  unfold execExpanderBackInvalidation
  dsimp only
  rw [he]

/-- A line is invalidated at every holder after the home's own agents have dropped it. -/
theorem invalidate_spec {h : Isl} {line : Nat} {s : State} {e : DirEnt} (he : tfind (s.isl.get h).dir line = some e) :
    let t := backInvalidate h line (invAgents h line none s)
    t.mem = s.mem ∧ (∀ x ∈ e.holders, t.has (.ev .binv { Arg.zero with x := x, line := line }) = true) ∧
    tfind (t.isl.get h).dir line = some { e with busy := some ⟨h, [], false, false, none, e.holders, false⟩ } := by
  intro t
  have hs := sends_invAgents h line none s
  obtain ⟨hm, hd, hent⟩ := backInvalidate_spec (s := invAgents h line none s) (by rw [hs.isl]; exact he)
  exact ⟨hm.trans hs.mem, hd, hent⟩

/-- Settles O56: the owner's answers, invalidations and grants at a holder, and the host's accesses and snoops. -/
theorem holderSteps : Obligations.HolderSteps := by
  unfold Obligations.HolderSteps
  refine ⟨fun s => ?_, fun s => ?_⟩
  · intro x y line h sends ackd a copy ent written clean
    have hclean : homeClean s = true ↔ clean := homeClean_iff s
    refine ⟨fun c hc => ?_, fun c hc => ?_, fun d hc hd i hi => ?_, execInv_spec s, execBinv_spec s,
      fun e b hf hy he hb hreq hback => ?_, fun hf hy => ?_, fun m hf hm hl hgo => execData_waits hf hm hl hgo,
      fun m g d hm hd hy => ?_, fun m c hm hd hf hc hy => ?_, execWback_spec s⟩
    · obtain ⟨hdata, hack, hmem, hcopy⟩ := forward_copy_spec (toM := false) hc
      rw [if_neg Bool.false_ne_true] at hcopy
      refine ⟨_, rfl, hdata, hack, fun hn => ?_, fun hcl hst => ?_, fun hor => ?_, fun h1 h2 h3 => ?_⟩
      · rw [hmem, if_neg]
        rcases hn with hn | hn
        · simp [Bool.eq_false_iff.2 (mt hclean.1 hn)]
        · simp [hn]
      · rw [hmem, if_pos (by simp [hclean.2 hcl, hst])]
      · rwa [if_pos (hor.imp_right (Or.imp_right hclean.2))] at hcopy
      · rwa [if_neg (by rintro (hn | hn | hn); exacts [h1 hn, h2 hn, h3 (hclean.1 hn)])] at hcopy
    · obtain ⟨hdata, hack, hmem, hcopy⟩ := forward_copy_spec (toM := true) hc
      exact ⟨_, rfl, hmem, hdata, hack, hcopy⟩
    · rcases List.mem_pair.1 hi with rfl | rfl
      · obtain ⟨hs, hdata, hack⟩ := answerFwd_spec (s := s) rfl false d true
        exact ⟨_, congrArg Host.Outcome.next (forward_buffer hc hd), hs.mem, hdata, hack⟩
      · obtain ⟨hs, hdata, hack⟩ := answerFwd_spec (s := s) rfl true d true
        exact ⟨_, congrArg Host.Outcome.next (forward_buffer hc hd), hs.mem, hdata, hack⟩
    · exact ⟨_, execData_installs hf, install_home hy s.arg.gr s.arg.data he hb hreq hback⟩
    · obtain ⟨hm, hcmp, hcopy, hmshr⟩ := install_away s.arg.gr s.arg.data (s := s) hy
      exact ⟨_, execData_installs hf, hm, hcmp, hcopy, hmshr⟩
    · obtain ⟨hmem, hcmp, hcopy, -⟩ := install_away g d (s := s) hy
      exact ⟨_, execGo_data hm hd, hmem, hcopy, hcmp⟩
    · obtain ⟨hmem, -, hcopy, -⟩ := install_away .M c.data (s := s) hy
      exact ⟨_, execGo_upgrade hm hd hf hc, hmem, hcopy⟩
  · intro line h ent written sent
    refine ⟨fun hm hw => ?_, fun a hm ha hf => ⟨fun hp => ?_, fun hp hon ho hmask hd => ?_⟩, fun hm hb => ?_, fun hm hb he => ?_,
      fun e hm hb he hor => hostMemAccess_asks_spec hm hb he hor, fun he => ?_, fun he => ?_,
      fun e he hbusy => ⟨fun hf => ?_, fun hf hst => ?_, ?_⟩, fun e he hbusy i hi => ?_⟩
    · refine (hostMemAccess_window hm).trans ?_
      rcases hw with hw | hw
      · rw [show windowOff s s.arg.line = none from hw]
      · rw [hw]
        cases windowOff s s.arg.line <;> rfl
    · refine (hostMemAccess_window hm).trans ?_
      rw [show windowOff s s.arg.line = some a from ha]
      dsimp only
      rw [if_pos hf, windowWrite_collides _ _ _ hp]
    · obtain ⟨hc, hi, hdue⟩ := windowWrite_triggers hp hon ho hmask hd
      refine ⟨_, ?_, hc, hi, hdue⟩
      refine (hostMemAccess_window hm).trans ?_
      rw [show windowOff s s.arg.line = some a from ha]
      dsimp only
      rw [if_pos hf]
    · refine ⟨_, hostMemAccess_hostBias hm hb, ?_⟩
      split
      · exact ⟨rfl, rfl, writeLine_mem ..⟩
      · exact ⟨rfl, rfl, rfl⟩
    · refine ⟨_, hostMemAccess_free hm hb he, ?_⟩
      have hs := sends_invAgents (lineHome s.arg.line) s.arg.line none (writeLine s.arg.line s.arg.data s)
      split
      next hf => exact ⟨hs.isl, fun hn => absurd (hf.symm.trans hn) (by simp), fun _ => hs.mem.trans (writeLine_mem ..)⟩
      next hf => exact ⟨rfl, fun _ => rfl, fun hy => absurd hy hf⟩
    · refine ⟨_, hostSnoop_free he, ?_⟩
      have hs := sends_invAgents (lineHome s.arg.line) s.arg.line none s
      split
      next hf => exact ⟨rfl, rfl, fun hn => absurd (hf.symm.trans hn) (by simp)⟩
      · exact ⟨hs.mem, hs.isl, fun _ c hc hn => invAgents_drops hc hn⟩
    · have hs := sends_invAgents (lineHome s.arg.line) s.arg.line none s
      exact ⟨_, expander_free he, hs.mem, hs.isl, fun c hc hn => invAgents_drops hc hn⟩
    · refine ⟨_, (hostSnoop_held he).trans ?_, invalidate_spec he⟩
      rw [hbusy, if_neg (by simp), if_neg (by simp [hf])]
    · obtain ⟨hm, -, hasked⟩ := askLine_spec (lineHome s.arg.line) s.arg.line false s
      refine ⟨_, (hostSnoop_held he).trans ?_, hm, hasked⟩
      rw [hbusy, if_neg (by simp), if_pos hf, if_neg hst]
    · refine ⟨_, (expander_held he).trans ?_, invalidate_spec he⟩
      rw [hbusy, if_neg (by simp)]
    · rcases List.mem_pair.1 hi with rfl | rfl
      · refine ⟨_, (hostSnoop_held he).trans (if_pos hbusy), rfl, rfl, has_after ..⟩
      · refine ⟨_, (expander_held he).trans (if_pos hbusy), rfl, rfl, has_after ..⟩

end Sys2Proof.Machine
end

section
/-! O57: operating points, power registers and the governor (R11, R371 to R380, R399). -/

namespace Sys2Proof.Machine

/-! Requests and moves (R372, R373). -/

theorem repoint_frame (y : Isl) (s : State) :
    (repoint y s).isl = s.isl ∧ (repoint y s).mem = s.mem ∧ (repoint y s).core = s.core ∧ (repoint y s).agenda = s.agenda :=
  ⟨rfl, rfl, rfl, rfl⟩

/-- What the start of a move of island y leads to, from s to t. -/
structure MoveStarts (y : Isl) (p : Opp) (s t : State) : Prop where
  mem : t.mem = s.mem
  core : t.core = s.core
  vl : (t.isl.get y).vl = (s.isl.get y).vl
  level : p.vl = (s.isl.get y).vl → (t.isl.get y).floor = p.fl ∧ (t.isl.get y).opMove = (s.isl.get y).opMove
  down : p.vl < (s.isl.get y).vl → (t.isl.get y).floor = p.fl ∧ (t.isl.get y).opMove = some p ∧
    ∃ e ∈ t.agenda, e.due = .ev .railMoveStep (argY y) ∧ e.at_ = s.tick + Config.usTicks
  up : (s.isl.get y).vl < p.vl → (t.isl.get y).floor = (s.isl.get y).floor ∧ (t.isl.get y).opMove = some p ∧
    ∃ e ∈ t.agenda, e.due = .ev .railMoveStep (argY y) ∧ e.at_ = s.tick + 2 * Config.usTicks

theorem startMove_spec (y : Isl) (p : Opp) (s : State) : MoveStarts y p s (startMove y p s) := by
  unfold startMove
  dsimp only
  split
  next h =>
    have hget := State.modI_get s y fun i => { i with floor := p.fl, opMove := some p }
    refine ⟨rfl, rfl, (congrArg IslandSt.vl hget :), fun he => absurd h (by omega), fun _ => ⟨(congrArg IslandSt.floor hget :),
      (congrArg IslandSt.opMove hget :), _, (mem_agenda_at ..).2 (.inl rfl), rfl, rfl⟩, fun hu => absurd h (by omega)⟩
  · split
    next h =>
      have hget := State.modI_get s y fun i => { i with opMove := some p }
      refine ⟨rfl, rfl, (congrArg IslandSt.vl hget :), fun he => absurd h (by omega), fun hd => absurd h (by omega),
        fun _ => ⟨(congrArg IslandSt.floor hget :), (congrArg IslandSt.opMove hget :), _, (mem_agenda_at ..).2 (.inl rfl), rfl, rfl⟩⟩
    next hd hu =>
      have hget := State.modI_get s y fun i => { i with floor := p.fl }
      exact ⟨rfl, rfl, (congrArg IslandSt.vl hget :), fun _ => ⟨(congrArg IslandSt.floor hget :), (congrArg IslandSt.opMove hget :)⟩,
        fun h => absurd h hd, fun h => absurd h hu⟩

theorem writeOpm_starts {s : State} {y : Isl} {v : W64} (hok : opmOk v = true) (hm : (s.isl.get y).opMove = none) :
    writeOpm y v s = repoint y (startMove y (pointOf v) s) := by
  unfold writeOpm requestPoint
  dsimp only
  rw [if_pos hok, hm]
  rfl

theorem writeOpm_pends {s : State} {y : Isl} {v : W64} (hok : opmOk v = true) (hm : (s.isl.get y).opMove.isSome = true) :
    writeOpm y v s = repoint y (s.modI y fun i => { i with opPend := some (pointOf v), rpl := i.rpl + i.opPend.isSome.toNat }) := by
  unfold writeOpm requestPoint
  dsimp only
  rw [if_pos hok, if_neg (by rw [Option.isNone_iff_eq_none]; exact fun h => by rw [h] at hm; exact absurd hm (by simp))]

/-- The level that the rail arrives at on its way to p (R373). -/
def nextLevel (i : IslandSt) (p : Opp) : Nat := if i.vl < p.vl then i.vl + 1 else i.vl - 1

theorem railMoveStep_on {s : State} {p : Opp} (hm : (s.isl.get s.arg.y).opMove = some p)
    (hvl : nextLevel (s.isl.get s.arg.y) p ≠ p.vl) : ∃ d, execRailMoveStep s =
    .next ((s.modI s.arg.y fun i => { i with vl := nextLevel (s.isl.get s.arg.y) p }).after d (.ev .railMoveStep (argY s.arg.y))) := by
  unfold nextLevel at hvl ⊢
  unfold execRailMoveStep
  dsimp only
  rw [hm]
  dsimp only
  simp only [decide_eq_true_iff]
  rw [if_pos hvl]
  exact ⟨_, rfl⟩

/-- The rail has arrived. -/
def arriveRail (p : Opp) (i : IslandSt) : IslandSt := { i with vl := nextLevel i p, opMove := none, opPend := none, floor := p.fl }

theorem railMoveStep_last {s : State} {p : Opp} (hm : (s.isl.get s.arg.y).opMove = some p)
    (hvl : nextLevel (s.isl.get s.arg.y) p = p.vl) : execRailMoveStep s =
    .next (match (s.isl.get s.arg.y).opPend with
      | some q => repoint s.arg.y (startMove s.arg.y q (s.modI s.arg.y (arriveRail p)))
      | none => s.modI s.arg.y (arriveRail p)) := by
  have hs1 : s.modI s.arg.y (arriveRail p) = s.modI s.arg.y fun i =>
      { i with vl := nextLevel (s.isl.get s.arg.y) p, opMove := none, opPend := none, floor := p.fl } := State.modI_congr rfl
  rw [hs1]
  unfold nextLevel at hvl ⊢
  unfold execRailMoveStep
  dsimp only
  rw [hm]
  dsimp only
  simp only [decide_eq_true_iff]
  rw [if_neg (not_not.2 hvl)] <;> rfl

theorem railMoveStep_spec {s : State} {p : Opp} (hm : (s.isl.get s.arg.y).opMove = some p) :
    let y := s.arg.y
    let i := s.isl.get y
    ∃ t, execRailMoveStep s = .next t ∧ (t.isl.get y).vl = nextLevel i p ∧ t.mem = s.mem ∧ t.core = s.core ∧
      (nextLevel i p ≠ p.vl → (t.isl.get y).opMove = some p ∧ (t.isl.get y).floor = i.floor ∧ t.has (.ev .railMoveStep (argY y)) = true) ∧
      (nextLevel i p = p.vl → i.opPend = none → (t.isl.get y).opMove = none ∧ (t.isl.get y).floor = p.fl) := by
  intro y i
  by_cases hvl : nextLevel i p = p.vl
  · have hget := State.modI_get s y (arriveRail p)
    refine ⟨_, railMoveStep_last hm hvl, ?_⟩
    cases hp : (s.isl.get s.arg.y).opPend with
    | none =>
      exact ⟨(congrArg IslandSt.vl hget :), rfl, rfl, fun h => absurd hvl h,
        fun _ _ => ⟨(congrArg IslandSt.opMove hget :), (congrArg IslandSt.floor hget :)⟩⟩
    | some q =>
      have hstart := startMove_spec y q (s.modI y (arriveRail p))
      exact ⟨hstart.vl.trans (congrArg IslandSt.vl hget :), hstart.mem, hstart.core, fun h => absurd hvl h,
        fun _ hn => nomatch hn⟩
  · obtain ⟨d, hd⟩ := railMoveStep_on hm hvl
    have hget := State.modI_get s y fun i => { i with vl := nextLevel (s.isl.get s.arg.y) p }
    exact ⟨_, hd, (congrArg IslandSt.vl hget :), rfl, rfl,
      fun _ => ⟨(congrArg IslandSt.opMove hget :).trans hm, (congrArg IslandSt.floor hget :), has_after ..⟩, fun h => absurd h hvl⟩

/-! Policy registers (R374 to R376, R379, R380, R399). -/

/-- A field that lies in a mask is the field of the masked word. -/
theorem extract_masked {w : Nat} (v m : BitVec w) (a n : Nat) (h : m.extractLsb' a n = BitVec.allOnes n) :
    (v &&& m).extractLsb' a n = v.extractLsb' a n := by
  rw [BitVec.extractLsb'_and, h, BitVec.and_allOnes]

theorem opmdWrite_free {s : State} (h : (s.arg.v.setWidth 2 : BitVec 2) = 3) : execOpmdWrite s = .next s := by
  unfold execOpmdWrite
  dsimp only
  rw [if_pos h]

theorem opmdWrite_ignored {s : State} (h3 : (s.arg.v.setWidth 2 : BitVec 2) ≠ 3)
    (h : ((s.arg.v.setWidth 2 : BitVec 2) = 1 ∧ 2 < partSize s s.arg.y) ∨ ((s.arg.v.setWidth 2 : BitVec 2) = 2 ∧ partSize s s.arg.y ≠ 4)) :
    execOpmdWrite s = .next (s.modI s.arg.y fun i => { i with ign := i.ign + 1 }) := by
  unfold execOpmdWrite
  dsimp only
  rw [if_neg h3, if_pos h]

theorem opmdWrite_taken {s : State} (h3 : (s.arg.v.setWidth 2 : BitVec 2) ≠ 3)
    (h : ¬ (((s.arg.v.setWidth 2 : BitVec 2) = 1 ∧ 2 < partSize s s.arg.y) ∨ ((s.arg.v.setWidth 2 : BitVec 2) = 2 ∧ partSize s s.arg.y ≠ 4))) :
    execOpmdWrite s = .next (s.modI s.arg.y fun i => { i with opmd := s.arg.v.setWidth 2, govWait := true }) := by
  unfold execOpmdWrite
  dsimp only
  rw [if_neg h3, if_neg h]

/-- A window whose bounds cross (R375). -/
def GovCrosses (v : W64) : Prop := v.extractLsb' 19 3 < v.extractLsb' 16 3 ∨ v.extractLsb' 8 8 < v.extractLsb' 0 8

theorem govCrosses_iff (v : W64) : GovCrosses v ↔
    (((v &&& 0x3FFFFF).extractLsb' 19 3).toNat < ((v &&& 0x3FFFFF).extractLsb' 16 3).toNat ∨
      ((v &&& 0x3FFFFF).extractLsb' 8 8).toNat < ((v &&& 0x3FFFFF).extractLsb' 0 8).toNat) := by
  rw [extract_masked v _ 19 3 (by decide), extract_masked v _ 16 3 (by decide), extract_masked v _ 8 8 (by decide),
    extract_masked v _ 0 8 (by decide)]
  exact Iff.rfl

theorem govWrite_crossed {s : State} (h : GovCrosses s.arg.v) : execGovWrite s = .next s := by
  unfold execGovWrite
  dsimp only
  rw [if_pos ((govCrosses_iff _).1 h)]

theorem govWrite_taken {s : State} (h : ¬ GovCrosses s.arg.v) :
    execGovWrite s = .next (s.modI s.arg.y fun i => { i with gov := s.arg.v &&& 0x3FFFFF }) := by
  unfold execGovWrite
  dsimp only
  rw [if_neg (mt (govCrosses_iff _).2 h)]

theorem plsWrite_bad {s : State} (h : ∃ l, l < 8 ∧ s.arg.v.extractLsb' (2 * l) 2 = 3) : execPlsWrite s = .next s := by
  obtain ⟨l, hl, h3⟩ := h
  unfold execPlsWrite
  dsimp only
  refine if_pos ?_
  rw [List.any_eq_true]
  exact ⟨l, List.mem_range.2 hl, beq_iff_eq.2 h3⟩

theorem plsWrite_taken {s : State} (h : ∀ l, l < 8 → s.arg.v.extractLsb' (2 * l) 2 ≠ 3) :
    execPlsWrite s = .next (s.modI s.arg.y fun i => { i with vtb := s.arg.v.setWidth 16, vman := s.arg.v.getLsbD 16 }) := by
  unfold execPlsWrite
  dsimp only
  rw [if_neg]
  intro hany
  obtain ⟨l, hl, h3⟩ := List.any_eq_true.1 hany
  exact h l (List.mem_range.1 hl) (beq_iff_eq.1 h3)

/-- The upshift fields of a word of SLR (R380). -/
def slrUps (v : W64) : List Nat := (List.range 6).map fun e => (v.extractLsb' (16 + 3 * e) 3).toNat

/-- A word that SLR_WRITE takes. -/
def SlrGood (v : W64) : Prop := (∀ u ∈ slrUps v, 1 ≤ u ∧ u ≤ 4) ∧ 4 ∈ slrUps v ∧ v.extractLsb' 8 4 ≠ 0 ∧
  (v.extractLsb' 0 8).toNat % 4 = 0 ∧ 4 ≤ (v.extractLsb' 0 8).toNat

/-- A word that SLR_WRITE ignores, as its step tests it. -/
def SlrBad (v : W64) : Prop := (slrUps v).any (fun u => u == 0 || decide (5 ≤ u)) = true ∨ (!(slrUps v).contains 4) = true ∨
  v.extractLsb' 8 4 = 0 ∨ (v.extractLsb' 0 8).toNat % 4 ≠ 0 ∨ (v.extractLsb' 0 8).toNat < 4

theorem slrUps_masked (v : W64) : slrUps (v &&& 0x3FFFF1FFF) = slrUps v := by
  have hmask : ∀ e ∈ List.range 6, (0x3FFFF1FFF : W64).extractLsb' (16 + 3 * e) 3 = BitVec.allOnes 3 := by decide
  exact List.map_congr_left fun e he => congrArg BitVec.toNat (extract_masked v _ _ 3 (hmask e he))

theorem slrBad_iff (v : W64) : SlrBad (v &&& 0x3FFFF1FFF) ↔ ¬ SlrGood v := by
  have hany : (slrUps v).any (fun u => u == 0 || decide (5 ≤ u)) = true ↔ ¬ ∀ u ∈ slrUps v, 1 ≤ u ∧ u ≤ 4 := by
    rw [List.any_eq_true, not_forall]
    refine exists_congr fun u => ?_
    rw [Classical.not_imp]
    refine and_congr_right' ?_
    simp only [Bool.or_eq_true, beq_iff_eq, decide_eq_true_iff]
    omega
  have hall : (!(slrUps v).contains 4) = true ↔ ¬ 4 ∈ slrUps v := by simp
  unfold SlrBad SlrGood
  rw [slrUps_masked, extract_masked v _ 8 4 (by decide), extract_masked v _ 0 8 (by decide), hany, hall, ← not_le]
  tauto

/-- SLR takes a word: until the next grant slot the one before stays in effect. -/
def takeSlr (tick : Nat) (v : W64) (i : IslandSt) : IslandSt :=
  if tick ≤ i.slrFrom then { i with slr := v } else { i with slrOld := i.slr, slrFrom := nextSlot i.slr tick, slr := v }

theorem slrWrite_bad {s : State} (h : ¬ SlrGood s.arg.v) : execSlrWrite s = .next (s.modI s.arg.y fun i => { i with ign := i.ign + 1 }) := by
  unfold execSlrWrite
  exact if_pos ((slrBad_iff _).2 h)

theorem slrWrite_good {s : State} (h : SlrGood s.arg.v) :
    execSlrWrite s = .next (s.modI s.arg.y (takeSlr s.tick (s.arg.v &&& 0x3FFFF1FFF))) := by
  unfold execSlrWrite
  exact if_neg (mt (slrBad_iff _).1 (not_not.2 h))

theorem slrWrite_spec {s : State} (h : SlrGood s.arg.v) : let i := s.isl.get s.arg.y
    ∃ t, execSlrWrite s = .next t ∧ (t.isl.get s.arg.y).slr = s.arg.v &&& 0x3FFFF1FFF ∧ t.mem = s.mem ∧ t.core = s.core ∧
      (i.slrFrom < s.tick → (t.isl.get s.arg.y).slrOld = i.slr ∧ (t.isl.get s.arg.y).slrFrom = nextSlot i.slr s.tick) := by
  intro i
  refine ⟨_, slrWrite_good h, ?_, rfl, rfl, fun hlt => ?_⟩
  · rw [State.modI_get]
    unfold takeSlr
    split
    · rfl
    · rfl
  · rw [State.modI_get]
    unfold takeSlr
    rw [if_neg (by unfold i at hlt; omega)]
    exact ⟨rfl, rfl⟩

theorem storeEntry_spec (e : Nat) (w0 w : W64) (s : State) : let t := storeEntry e w0 w s
    tfind t.dev.opt e = some (w0, w &&& 0xFFFFFFFF1F1F1F00) ∧ tfind t.dev.optd0 e = none ∧ t.isl = s.isl ∧ t.mem = s.mem ∧ t.core = s.core := by
  refine ⟨tfind_tset_self .., ?_, rfl, rfl, rfl⟩
  exact (tfind_filter s.dev.optd0 (fun x => x != e) e).trans (by simp)

theorem optd1Write_spec (s : State) : let i := s.isl.get s.arg.y
    ∃ t, execOptd1Write s = .next t ∧ tfind t.dev.opt i.opti.toNat = some (i.optd0, s.arg.v &&& 0xFFFFFFFF1F1F1F00) ∧
      (t.isl.get s.arg.y).optd1 = s.arg.v &&& 0xFFFFFFFF1F1F1F00 ∧ t.mem = s.mem ∧ t.core = s.core := by
  intro i
  obtain ⟨hopt, -, hisl, hmem, hcore⟩ := storeEntry_spec i.opti.toNat i.optd0 s.arg.v
    (s.modI s.arg.y fun i => { i with optd1 := entryKept s.arg.v })
  refine ⟨_, rfl, hopt, ?_, hmem, hcore⟩
  rw [hisl, State.modI_get]
  rfl

theorem optMirrorWrite_recalled {s : State} (h : (s.isl.get 0).opmd = 2) : execOptMirrorWrite s = .next s := by
  unfold execOptMirrorWrite
  dsimp only
  rw [if_pos h]

theorem optMirrorWrite_second {s : State} (h : (s.isl.get 0).opmd ≠ 2) (hf : s.arg.flag = true) :
    let e := s.arg.k % 1024
    ∃ t, execOptMirrorWrite s = .next t ∧
      tfind t.dev.opt e = some ((tfind s.dev.optd0 e).getD (tget (0, 0xFFFFFFC404040400) s.dev.opt e).1, s.arg.v &&& 0xFFFFFFFF1F1F1F00) ∧
      tfind t.dev.optd0 e = none ∧ t.isl = s.isl ∧ t.mem = s.mem := by
  intro e
  obtain ⟨hopt, hno, hisl, hmem, -⟩ := storeEntry_spec e ((tfind s.dev.optd0 e).getD (optAt s e).1) s.arg.v s
  refine ⟨_, ?_, hopt, hno, hisl, hmem⟩
  unfold execOptMirrorWrite
  dsimp only
  rw [if_neg h, if_pos hf]

theorem optMirrorWrite_first {s : State} (h : (s.isl.get 0).opmd ≠ 2) (hf : s.arg.flag = false) : execOptMirrorWrite s =
    .next (s.modD fun d => { d with optd0 := tset d.optd0 (s.arg.k % 1024) (s.arg.v &&& 0xFFFFFFFFFF000001) }) := by
  unfold execOptMirrorWrite
  dsimp only
  rw [if_neg h, if_neg (by rw [hf]; exact Bool.false_ne_true)]

/-! What goes on beside a control interval (R364, R395, R397). -/

/-- Of the islands at most the shelves and the counters of telemetry have changed. -/
def Aside (s t : State) : Prop := ∀ y, ∃ sh te, t.isl.get y = { s.isl.get y with shelf := sh, tele := te }

namespace Aside

theorem of_isl {s t : State} (h : t.isl = s.isl) : Aside s t := fun y => ⟨_, _, congrArg (Vector.get · y) h⟩

theorem trans {s t u : State} (h : Aside s t) (h' : Aside t u) : Aside s u := fun y => by
  obtain ⟨sh, te, ht⟩ := h y
  obtain ⟨sh', te', hu⟩ := h' y
  exact ⟨sh', te', by rw [hu, ht]⟩

theorem foldl {α : Type} {f : State → α → State} (hf : ∀ (s : State) a, Aside s (f s a)) (l : List α) (s : State) : Aside s (l.foldl f s) := by
  induction l generalizing s with
  | nil => exact of_isl rfl
  | cons a l ih => exact (hf s a).trans (ih (f s a))

theorem modI (s : State) (y : Isl) {f : IslandSt → IslandSt} (hf : ∀ i, ∃ sh te, f i = { i with shelf := sh, tele := te }) :
    Aside s (s.modI y f) := fun z => by
  rw [State.modI_get_if]
  split
  next hz =>
    rw [hz]
    exact hf _
  · exact ⟨_, _, rfl⟩

end Aside

theorem scorePhase_isl (l : Launch) (s : State) : (scorePhase l s).isl = s.isl := by
  unfold scorePhase
  dsimp only
  split
  · rfl
  · split
    · rfl
    · split
      · rfl
      · rfl

theorem writeBack_isl (e : ShelfLine) (s : State) : (writeBack e s).isl = s.isl := by
  unfold writeBack
  split
  · split
    · rfl
    · rfl
  · rfl

theorem requestPreempt_isl (c : CoreId) (s : State) : (requestPreempt c s).isl = s.isl := by
  unfold requestPreempt
  dsimp only
  split
  · rfl
  · rfl

theorem aside_trimShelf (y : Isl) (s : State) : Aside s (trimShelf y s) := by
  unfold trimShelf
  exact (Aside.foldl (fun s e => .of_isl (writeBack_isl e s)) _ s).trans (.modI _ y fun _ => ⟨_, _, rfl⟩)

theorem aside_loseStaging (y : Isl) (s : State) : Aside s (loseStaging y s) := by
  have htrim (m : List Host.Cell) : Aside s (trimShelf y { s with free := s.free + 1, mem := m }) :=
    (Aside.of_isl rfl).trans (aside_trimShelf y _)
  unfold loseStaging
  exact htrim _

theorem aside_endLaunch (n : Nat) (st : LSt) (s : State) : Aside s (endLaunch n st s) := by
  unfold endLaunch
  split
  · exact .of_isl rfl
  · refine Aside.trans ?_ (.foldl (fun s y => aside_loseStaging y s) islIds _)
    exact .of_isl (scorePhase_isl _ s)

theorem aside_settleLaunch (n : Nat) (s : State) : Aside s (settleLaunch n s) := by
  unfold settleLaunch
  split
  · exact .of_isl rfl
  · split
    · exact aside_endLaunch n .complete s
    · exact .of_isl rfl

theorem aside_preemptOverrun (s : State) : Aside s (preemptOverrun s) := by
  have hask (cs : List CoreId) (s : State) : Aside s (cs.foldl (fun s c => requestPreempt c s) s) :=
    .foldl (fun s c => .of_isl (requestPreempt_isl c s)) cs s
  unfold preemptOverrun
  dsimp only
  refine Aside.trans (.foldl (fun s i => ?_) _ s) (hask _ _)
  split
  · exact hask _ s
  · exact .of_isl rfl

/-- The dispatcher touches nothing of an island but its shelf. -/
theorem aside_dispatch (s : State) : Aside s (dispatch s) := by
  have hask := (Aside.foldl (fun s n => aside_settleLaunch n s) (s.dev.pool.map (·.1)) s).trans (aside_preemptOverrun _)
  unfold dispatch
  dsimp only
  split
  · split
    · exact hask
    · exact hask
  · exact hask

/-- What goes on beside a control interval: what was due stays due, and no byte of storage changes while the reserve has its charge. -/
structure Senses (s t : State) : Prop where
  isl : Aside s t
  agenda : ∀ e ∈ s.agenda, e ∈ t.agenda
  mem : s.dev.resOk = true → t.mem = s.mem ∧ t.dev.resOk = true

namespace Senses

theorem refl (s : State) : Senses s s := ⟨.of_isl rfl, fun _ h => h, fun h => ⟨rfl, h⟩⟩

theorem trans {s t u : State} (h : Senses s t) (h' : Senses t u) : Senses s u := by
  refine ⟨h.isl.trans h'.isl, fun e he => h'.agenda e (h.agenda e he), fun hr => ?_⟩
  obtain ⟨hm, ht⟩ := h.mem hr
  obtain ⟨hm', hu⟩ := h'.mem ht
  exact ⟨hm'.trans hm, hu⟩

theorem foldl {α : Type} {f : State → α → State} (hf : ∀ (s : State) a, Senses s (f s a)) (l : List α) (s : State) : Senses s (l.foldl f s) := by
  induction l generalizing s with
  | nil => exact refl s
  | cons a l ih => exact (hf s a).trans (ih (f s a))

theorem count (s : State) (y : Isl) (n k : Nat) : Senses s (s.modI y fun i => i.count n k) :=
  ⟨.modI s y fun _ => ⟨_, _, rfl⟩, fun _ h => h, fun h => ⟨rfl, h⟩⟩

end Senses

theorem senses_pick (s : State) : Senses s s.pick.2 := ⟨.of_isl rfl, fun _ h => h, fun h => ⟨rfl, h⟩⟩

theorem senses_chargeCtx (cx : BitVec 7) (s : State) : Senses s (chargeCtx cx s) := ⟨.of_isl rfl, fun _ h => h, fun h => ⟨rfl, h⟩⟩

theorem senses_grantVariants (y : Isl) (s : State) : Senses s (grantVariants y s) := by
  unfold grantVariants
  dsimp only
  split
  · exact .refl s
  · refine .foldl (fun s c => ?_) coreIds s
    split
    · exact ⟨.of_isl rfl, fun _ h => h, fun h => ⟨rfl, h⟩⟩
    · exact .refl s

theorem senses_measureReserve (s : State) : Senses s (measureReserve s) := by
  unfold measureReserve State.pickW
  dsimp only
  split
  next h =>
    have hno : s.dev.resOk = false := by simpa using (Bool.and_eq_true_iff.1 h).2
    refine ⟨(Aside.of_isl rfl).trans (aside_dispatch _), fun e he => (dispatched_dispatch _).agenda e he, fun hr => ?_⟩
    exact absurd (hr.symm.trans hno) (by simp)
  · exact ⟨.of_isl rfl, fun _ h => h, fun h => ⟨rfl, Bool.or_eq_true_iff.2 (.inl h)⟩⟩

theorem senses_elogPut (r : BitVec 256) (s : State) : Senses s (elogPut r s) := ⟨.of_isl rfl, fun _ h => h, fun h => ⟨rfl, h⟩⟩

theorem senses_modD (s : State) {f : DevSt → DevSt} (hf : (f s.dev).resOk = s.dev.resOk) : Senses s (s.modD f) :=
  ⟨.of_isl rfl, fun _ h => h, fun h => ⟨rfl, hf.trans h⟩⟩

/-- A corrected error or a trip is logged in the error log alone. -/
theorem logErr_elog {kind : Nat} (h5 : kind ≠ 5) (h7 : kind ≠ 7) (unit : Nat) (y : Isl) (val : W64) (rsn : Nat) (s : State) :
    logErr kind unit y val rsn s = elogPut (errRecord kind unit y val rsn s) s := by
  unfold logErr
  dsimp only
  rw [if_neg (not_or.2 ⟨h5, h7⟩)]

/-- A corrected error is kept with those of the hour before it, and the 16th is logged (R397). -/
theorem senses_ecc (recent : List (Nat × Nat)) (key unit : Nat) (y : Isl) (s : State) :
    let s1 := (s.modI y fun i => i.count 10 1).modD fun d => { d with ecc := recent }
    Senses s (if (recent.filter fun e => e.1 == key).length = 16 then
      logErr 1 unit y 0 0 (s1.modD fun d => { d with ecc := d.ecc.filter fun e => e.1 != key }) else s1) := by
  intro s1
  have h1 : Senses s s1 := (Senses.count s y 10 1).trans (senses_modD _ rfl)
  split
  · rw [logErr_elog (by decide) (by decide)]
    exact (h1.trans (senses_modD _ rfl)).trans (senses_elogPut _ _)
  · exact h1

theorem senses_corrected (unit : Nat) (y : Isl) (s : State) : Senses s (corrected unit y s) := by
  unfold corrected
  exact senses_ecc _ _ unit y s

theorem senses_metErrors (y : Isl) (s : State) : Senses s (metErrors y s) := by
  unfold metErrors
  exact (senses_pick s).trans (.foldl (fun s _ => (senses_pick s).trans (senses_corrected _ y _)) _ _)

theorem senses_countRetries (y : Isl) (s : State) : Senses s (countRetries y s) := by
  unfold countRetries
  exact .foldl (fun s b => (senses_pick s).trans (.count _ y _ _)) _ s

theorem tripThermal_spec (y : Isl) (s : State) : let t := tripThermal y s
    (t.isl.get y) = { s.isl.get y with dth := 16, trp := true } ∧ t.dev.elN = s.dev.elN + 1 ∧ t.mem = s.mem ∧ t.core = s.core ∧
    t.dev.resOk = s.dev.resOk := by
  intro t
  have ht : t = _ := logErr_elog (by decide) (by decide) 0 y 0 0 (s.modI y fun i => { i with dth := 16, trp := true })
  rw [ht]
  exact ⟨State.modI_get s y fun i => { i with dth := 16, trp := true }, rfl, rfl, rfl, rfl⟩

/-! The control interval (R377, R379). -/

/-- The limits of island y for a reading and a current divisor. -/
def setLimits (y : Isl) (reading dcur : Nat) (s : State) : State :=
  (if 115 < reading then tripThermal y s else s).modI y fun i =>
    { i with dth := thermalDiv reading, dcur := dcur, pl := powerLevel (max (thermalDiv reading) dcur) }

theorem setLimits_spec (y : Isl) (reading dcur : Nat) (s : State) : let i := s.isl.get y
    let t := setLimits y reading dcur s
    t.mem = s.mem ∧ t.dev.resOk = s.dev.resOk ∧ ((t.isl.get y).dth = thermalDiv reading ∧ (t.isl.get y).dcur = dcur ∧
      (t.isl.get y).pl = powerLevel (max (thermalDiv reading) dcur)) ∧ (t.isl.get y).govN = i.govN ∧ (t.isl.get y).govWait = i.govWait ∧
    (115 < reading → (t.isl.get y).trp = true) := by
  intro i t
  unfold t setLimits
  rw [State.modI_get]
  obtain ⟨hisl, -, hmem, -, hres⟩ := tripThermal_spec y s
  split
  · refine ⟨hmem, hres, ⟨rfl, rfl, rfl⟩, ?_⟩
    rw [hisl]
    exact ⟨rfl, rfl, fun _ => rfl⟩
  next h => exact ⟨rfl, rfl, ⟨rfl, rfl, rfl⟩, rfl, rfl, fun hr => absurd hr h⟩

/-- Count of control intervals of the governor's window, with the one that ends. -/
def windowCount (i : IslandSt) : Nat := if i.govWait then 0 else i.govN + 1

/-- A window that a write of OPMD has asked for begins, and the interval is counted (R375). -/
def countInterval (y : Isl) (s : State) : State :=
  (if (s.isl.get y).govWait then s.modI y fun i => { i with govWait := false, govI := 0, govM := 0, govS := 0 } else s).modI y
    fun i => { i with govN := windowCount (s.isl.get y) }

theorem countInterval_spec (y : Isl) (s : State) : let i := s.isl.get y
    let t := countInterval y s
    t.mem = s.mem ∧ t.dev = s.dev ∧ (t.isl.get y).govN = windowCount i ∧ (t.isl.get y).govWait = false ∧
    (t.isl.get y).dth = i.dth ∧ (t.isl.get y).dcur = i.dcur ∧ (t.isl.get y).pl = i.pl ∧ (t.isl.get y).trp = i.trp := by
  intro i t
  unfold t countInterval
  rw [State.modI_get]
  split
  · rw [State.modI_get]
    exact ⟨rfl, rfl, rfl, rfl, rfl, rfl, rfl, rfl⟩
  next h => exact ⟨rfl, rfl, rfl, Bool.not_eq_true _ ▸ h, rfl, rfl, rfl, rfl⟩

/-- The limits are set, levels granted, and accounts and the reserve read. -/
def measured (s : State) : State :=
  let y := s.arg.y
  let s2 := s.pick.2.pick.2
  let s3 := setLimits y s.pick.1 (currentDiv s.pick.2.pick.1 (natBits (s2.isl.get y).lim.toNat 15 0)) s2
  measureReserve ((boundCtxs s3 y).foldl (fun s c => chargeCtx c s) (grantVariants y s3))

/-- What a control interval at tick t makes due. -/
def intervalDue (y : Isl) (tick n : Nat) (s : State) : State :=
  let s8 := s.at (tick + Config.intervalTicks) (.ev .controlInterval (argY y))
  (if 4 ≤ n then s8.now .governorWindow (argY y) else s8).now .regionSweep (argY y)

theorem execControlInterval_eq (s : State) : let y := s.arg.y
    execControlInterval s = .next (metErrors y (countRetries y
      (intervalDue y s.tick (windowCount ((measured s).isl.get y)) (countInterval y (measured s))))) := rfl

theorem intervalDue_spec (y : Isl) (tick n : Nat) (s : State) : let t := intervalDue y tick n s
    t.mem = s.mem ∧ t.dev = s.dev ∧ t.isl = s.isl ∧ (∃ e ∈ t.agenda, e.due = .ev .controlInterval (argY y) ∧ e.at_ = tick + Config.intervalTicks) ∧
    (∃ e ∈ t.agenda, e.due = .ev .regionSweep (argY y)) ∧ (4 ≤ n → ∃ e ∈ t.agenda, e.due = .ev .governorWindow (argY y)) := by
  intro t
  have hat := (mem_agenda_at s (tick + Config.intervalTicks) (.ev .controlInterval (argY y)) _).2 (.inl rfl)
  unfold t intervalDue
  dsimp only
  split
  · exact ⟨rfl, rfl, rfl, ⟨_, List.mem_cons_of_mem _ (List.mem_cons_of_mem _ hat), rfl, rfl⟩, ⟨_, List.mem_cons_self, rfl⟩,
      fun _ => ⟨_, List.mem_cons_of_mem _ List.mem_cons_self, rfl⟩⟩
  next h => exact ⟨rfl, rfl, rfl, ⟨_, List.mem_cons_of_mem _ hat, rfl, rfl⟩, ⟨_, List.mem_cons_self, rfl⟩, fun hn => absurd hn h⟩

theorem measured_spec (s : State) : let y := s.arg.y
    let i := s.isl.get y
    let j := (measured s).isl.get y
    (s.dev.resOk = true → (measured s).mem = s.mem ∧ (measured s).dev.resOk = true) ∧ (j.dth = thermalDiv s.pick.1 ∧
      j.dcur = currentDiv s.pick.2.pick.1 (natBits i.lim.toNat 15 0) ∧ j.pl = powerLevel (max j.dth j.dcur)) ∧
    j.govN = i.govN ∧ j.govWait = i.govWait ∧ (115 < s.pick.1 → j.trp = true) := by
  intro y i j
  have hj : j = (measured s).isl.get y := rfl
  clear_value j
  unfold measured at hj ⊢
  dsimp only at hj ⊢
  obtain ⟨hmem, hres, ⟨hdth, hdcur, hpl⟩, hn, hwait, htrp⟩ :=
    setLimits_spec y s.pick.1 (currentDiv s.pick.2.pick.1 (natBits (s.pick.2.pick.2.isl.get y).lim.toNat 15 0)) s.pick.2.pick.2
  generalize setLimits y s.pick.1 (currentDiv s.pick.2.pick.1 (natBits (s.pick.2.pick.2.isl.get y).lim.toNat 15 0)) s.pick.2.pick.2 = s3
    at hj hmem hres hdth hdcur hpl hn hwait htrp ⊢
  have hsense := ((senses_grantVariants y s3).trans (.foldl (fun s c => senses_chargeCtx c s) (boundCtxs s3 y) _)).trans
    (senses_measureReserve _)
  obtain ⟨sh, te, hisl⟩ := hsense.isl y
  rw [hj, hisl]
  exact ⟨fun hr => (hsense.mem (hres.trans hr)).imp_left fun h => h.trans hmem, ⟨hdth, hdcur, by rw [hdth, hdcur]; exact hpl⟩, hn, hwait, htrp⟩

theorem controlInterval_spec (s : State) : let y := s.arg.y
    let i := s.isl.get y
    ∃ t reading current, execControlInterval s = .next t ∧ (s.dev.resOk = true → t.mem = s.mem) ∧ (t.isl.get y).dth = thermalDiv reading ∧
      (t.isl.get y).dcur = currentDiv current (natBits i.lim.toNat 15 0) ∧
      (t.isl.get y).pl = powerLevel (max (t.isl.get y).dth (t.isl.get y).dcur) ∧ (t.isl.get y).govN = (if i.govWait then 0 else i.govN + 1) ∧
      (t.isl.get y).govWait = false ∧ (115 < reading → (t.isl.get y).trp = true) ∧
      (∃ e ∈ t.agenda, e.due = .ev .controlInterval (argY y) ∧ e.at_ = s.tick + Config.intervalTicks) ∧
      t.has (.ev .regionSweep (argY y)) = true ∧ (3 ≤ i.govN → i.govWait = false → t.has (.ev .governorWindow (argY y)) = true) := by
  intro y i
  obtain ⟨hmem, ⟨hdth, hdcur, hpl⟩, hn, hwait, htrp⟩ := measured_spec s
  obtain ⟨hmem', hdev', hn', hwait', hdth', hdcur', hpl', htrp'⟩ := countInterval_spec y (measured s)
  have hcount : windowCount ((measured s).isl.get y) = if i.govWait then 0 else i.govN + 1 := by
    unfold windowCount
    rw [hn, hwait]
  obtain ⟨hmem2, hdev2, hisl2, hnext, hsweep, hwindow⟩ :=
    intervalDue_spec y s.tick (windowCount ((measured s).isl.get y)) (countInterval y (measured s))
  refine ⟨_, s.pick.1, s.pick.2.pick.1, execControlInterval_eq s, ?_⟩
  generalize intervalDue y s.tick (windowCount ((measured s).isl.get y)) (countInterval y (measured s)) = u
    at hmem2 hdev2 hisl2 hnext hsweep hwindow ⊢
  have hsense := (senses_countRetries y u).trans (senses_metErrors y _)
  obtain ⟨sh, te, hisl⟩ := hsense.isl y
  rw [hisl2] at hisl
  have hstays {d : Due} (h : ∃ e ∈ u.agenda, e.due = d) : (metErrors y (countRetries y u)).has d = true := by
    obtain ⟨e, he, hd⟩ := h
    exact (has_iff ..).2 ⟨e, hsense.agenda e he, hd⟩
  refine ⟨fun hr => ?_, ?_, ?_, ?_, ?_, ?_, fun ht => ?_, ?_, hstays hsweep, fun h3 hw => hstays (hwindow ?_)⟩
  · obtain ⟨hm, hr'⟩ := hmem hr
    exact ((hsense.mem (by rw [hdev2, hdev']; exact hr')).1.trans hmem2).trans (hmem'.trans hm)
  · rw [hisl]
    exact hdth'.trans hdth
  · rw [hisl]
    exact hdcur'.trans hdcur
  · rw [hisl]
    exact hpl'.trans (by rw [hdth', hdcur']; exact hpl)
  · rw [hisl]
    exact hn'.trans hcount
  · rw [hisl]
    exact hwait'
  · rw [hisl]
    exact htrp'.trans (htrp ht)
  · obtain ⟨e, he, hd, hat⟩ := hnext
    exact ⟨e, hsense.agenda e he, hd, hat⟩
  · rw [hcount, if_neg (by rw [hw]; exact Bool.false_ne_true)]
    omega

/-! The governor, a trip and a divisor change (R11, R375, R377, R378). -/

/-- Level that a window of island i asks for (R375). -/
def askedLevel (i : IslandSt) : Option Nat :=
  let sigma := 256 * (i.govI + i.govS) / (i.govI + i.govS + i.govM)
  let g := i.gov.toNat
  if i.opmd ≠ 1 ∨ i.govI + i.govS + i.govM = 0 then none
  else if sigma < natBits g 7 0 ∧ natBits g 18 16 < i.vl then some (i.vl - 1)
  else if natBits g 15 8 ≤ sigma ∧ i.vl < natBits g 21 19 then some (i.vl + 1)
  else none

/-- A governor's window starts anew. -/
def newWindow (i : IslandSt) : IslandSt := { i with govN := 0, govI := 0, govM := 0, govS := 0 }

/-- The end of a window asks for a level, if it asks for one. -/
theorem execGovernorWindow_eq (s : State) : execGovernorWindow s = .next ((askedLevel (s.isl.get s.arg.y)).elim (s.modI s.arg.y newWindow)
    fun vl => (s.modI s.arg.y newWindow).after 0 (.ev .opmWrite { argY s.arg.y with v := levelPoint vl })) := by
  unfold execGovernorWindow askedLevel
  dsimp only
  split
  · rfl
  · split
    · rfl
    · split
      · rfl
      · rfl

theorem governorWindow_spec (s : State) : let y := s.arg.y
    ∃ t, execGovernorWindow s = .next t ∧ t.isl.get y = newWindow (s.isl.get y) ∧ t.mem = s.mem ∧ t.core = s.core ∧
      (askedLevel (s.isl.get y) = none → t.agenda = s.agenda) ∧
      ∀ vl, askedLevel (s.isl.get y) = some vl → ∃ e ∈ t.agenda, e.at_ = s.tick ∧ e.due = .ev .opmWrite { argY y with v := levelPoint vl } := by
  intro y
  refine ⟨_, execGovernorWindow_eq s, ?_⟩
  cases h : askedLevel (s.isl.get s.arg.y) with
  | none => exact ⟨State.modI_get .., rfl, rfl, fun _ => rfl, fun vl hn => nomatch hn⟩
  | some vl =>
    refine ⟨State.modI_get .., rfl, rfl, fun hn => (nomatch hn), fun vl' hv => ?_⟩
    cases hv
    exact ⟨_, (mem_agenda_at ..).2 (.inl rfl), rfl, rfl⟩

/-- What of an island traces and caches leave: the limits of its cores, its trace buffer, its rounds and its views. -/
def IslandSt.still (i : IslandSt) : (Nat × Nat × Nat × Divs × Option Opp) × W64 × Tbl Round × Tbl (BitVec 32) :=
  ((i.dth, i.dcur, i.vl, i.floor, i.opMove), i.trb, i.rounds, i.views)

theorem cohWr_still (s : State) (pa n v : Nat) (y : Isl) : ((cohWr s pa n v).isl.get y).still = (s.isl.get y).still := by
  unfold cohWr
  refine (foldl_modI_keeps IslandSt.still _ (fun _ _ => ?_) islIds _ y).trans ?_
  · rfl
  · rfl

theorem putWords_still (l : List W64) (pa : Nat) (s : State) (y : Isl) : ((putWords pa l s).isl.get y).still = (s.isl.get y).still := by
  induction l generalizing pa s with
  | nil => rfl
  | cons w l ih => exact (ih (pa + 8) _).trans (cohWr_still s pa 8 w.toNat y)

theorem modI_still (s : State) (z : Isl) {f : IslandSt → IslandSt} (hf : ∀ i, (f i).still = i.still) (y : Isl) :
    ((s.modI z f).isl.get y).still = (s.isl.get y).still := by
  rw [State.modI_get_if]
  split
  next h =>
    rw [h]
    exact hf _
  · rfl

theorem trace_still (c : CoreId) (kind : Nat) (badr payload : W64) (s : State) (y : Isl) :
    ((trace c kind badr payload s).isl.get y).still = (s.isl.get y).still := by
  unfold trace
  dsimp only
  split
  · rfl
  · split
    · refine modI_still s _ (fun i => ?_) y
      rfl
    · refine (modI_still _ _ (fun i => ?_) y).trans (putWords_still ..)
      rfl

/-- A write in a message's data makes no edge due. -/
theorem flyWr_edge {line o n v : Nat} {e : Entry} {d : CoreId} (h : (flyWr line o n v e).due = .edge d) : e.due = .edge d := by
  unfold flyWr at h
  dsimp only at h
  split at h
  · exact nomatch h
  · exact nomatch h
  · exact nomatch h
  · exact h

theorem edge_of_cohWr {s : State} {pa n v : Nat} {d : CoreId} (h : (cohWr s pa n v).has (.edge d) = true) : s.has (.edge d) = true := by
  unfold cohWr at h
  rw [has_foldl_modI fun _ i => _, has_iff] at h
  obtain ⟨e, he, hd⟩ := h
  obtain ⟨x, hx, rfl⟩ := List.mem_map.1 he
  exact (has_iff s _).2 ⟨x, hx, flyWr_edge hd⟩

theorem edge_of_putWords {d : CoreId} (l : List W64) (pa : Nat) {s : State} (h : (putWords pa l s).has (.edge d) = true) :
    s.has (.edge d) = true := by
  induction l generalizing pa s with
  | nil => exact h
  | cons w l ih => exact edge_of_cohWr (ih (pa + 8) h)

theorem edge_of_trace {c d : CoreId} {kind : Nat} {badr payload : W64} {s : State} (h : (trace c kind badr payload s).has (.edge d) = true) :
    s.has (.edge d) = true := by
  unfold trace at h
  dsimp only at h
  split at h
  · exact h
  · split at h
    · rwa [has_congr (State.modI_agenda ..)] at h
    · rw [has_congr (State.modI_agenda ..)] at h
      exact edge_of_putWords _ _ h

theorem effDiv_congr {s t : State} {c : CoreId} (hi : (t.isl.get (islOf c)).still = (s.isl.get (islOf c)).still)
    (hr : (t.core.get c).r.req = (s.core.get c).r.req) : effDiv t c = effDiv s c := by
  unfold IslandSt.still at hi
  rw [Prod.mk.injEq, Prod.mk.injEq, Prod.mk.injEq, Prod.mk.injEq, Prod.mk.injEq] at hi
  obtain ⟨⟨hdth, hdcur, hvl, hfloor, hmove⟩, -⟩ := hi
  unfold effDiv
  dsimp only
  rw [hdth, hdcur, hvl, hfloor, hmove, hr]

/-- Classing matrix cycles leaves the core's registers, the time, what traces leave of the islands, and the edges that are due. -/
structure Classed (c : CoreId) (s t : State) : Prop where
  r : (t.core.get c).r = (s.core.get c).r
  tick : t.tick = s.tick
  still : ∀ y, (t.isl.get y).still = (s.isl.get y).still
  edges : ∀ d, t.has (.edge d) = true → s.has (.edge d) = true

theorem Classed.refl (c : CoreId) (s : State) : Classed c s s := ⟨rfl, rfl, fun _ => rfl, fun _ h => h⟩

theorem classed_modC (c : CoreId) (s : State) {f : CoreSt → CoreSt} (hf : ∀ k, (f k).r = k.r) : Classed c s (s.modC c f) := by
  refine ⟨?_, rfl, fun _ => rfl, fun _ h => h⟩
  rw [State.modC_get]
  exact hf _

theorem Classed.trans {c : CoreId} {s t u : State} (h : Classed c s t) (h' : Classed c t u) : Classed c s u :=
  ⟨h'.r.trans h.r, h'.tick.trans h.tick, fun y => (h'.still y).trans (h.still y), fun d hd => h.edges d (h'.edges d hd)⟩

theorem classed_trace (c d : CoreId) (kind : Nat) (badr payload : W64) (s : State) : Classed c s (trace d kind badr payload s) := by
  obtain ⟨hcore, -, -, -, htick, -⟩ := beside_trace d kind badr payload s
  exact ⟨by rw [hcore], htick, trace_still d kind badr payload s, fun _ => edge_of_trace⟩

theorem classed_charge (c : CoreId) (cls n : Nat) (adr : W64) (s : State) : Classed c s (charge c cls n adr s) := by
  have hfold (f : State → Nat → State) (hf : ∀ s i, Classed c s (f s i)) (l : List Nat) (s : State) : Classed c s (l.foldl f s) := by
    induction l generalizing s with
    | nil => exact .refl c s
    | cons i l ih => exact (hf s i).trans (ih _)
  unfold charge
  dsimp only
  split
  · split
    · refine Classed.trans (classed_modC c s ?_) (hfold _ (fun s i => classed_trace ..) _ _)
      exact fun _ => rfl
    · refine classed_modC c s ?_
      exact fun _ => rfl
  · refine classed_modC c s ?_
    exact fun _ => rfl

theorem classed_classUp (c : CoreId) (s : State) : Classed c s (classUp c s) := by
  unfold classUp
  dsimp only
  split
  · exact .refl c s
  · obtain ⟨hr, ht, hl, he⟩ := classed_charge c 4 (ceilDiv (s.tick - (s.core.get c).mlast) (s.core.get c).div.mtx - 1) (s.core.get c).lastArr s
    refine ⟨?_, ht, hl, he⟩
    rw [State.modC_get]
    exact hr

theorem divisorChange_spec (s : State) : let c := s.arg.c
    ∃ t, execDivisorChange s = .next t ∧ (t.core.get c).div = effDiv s c ∧ (t.core.get c).base = s.tick ∧ (t.core.get c).r = (s.core.get c).r := by
  intro c
  obtain ⟨hr, ht, hl, -⟩ := classed_classUp c s
  refine ⟨_, rfl, ?_⟩
  unfold changeDiv
  dsimp only
  rw [State.modC_get]
  exact ⟨effDiv_congr (hl _) (congrArg Regs.req hr), ht, hr⟩

/-- Settles O57: operating points and moves of the rail, the registers of policy and power, and the steps of the limits. -/
theorem powerSteps : Obligations.PowerSteps := by
  unfold Obligations.PowerSteps
  refine ⟨fun s => ?_, fun s => ?_, fun s => ?_⟩
  · intro y i v p step
    refine ⟨fun hok => ?_, fun hok hm => ?_, fun hok hm => ?_, fun hm => ?_, fun q hm => railMoveStep_spec hm⟩
    · refine congrArg Host.Outcome.next ?_
      unfold writeOpm
      rw [if_neg (by rw [show opmOk s.arg.v = false from hok]; exact Bool.false_ne_true)]
    · have hget := State.modI_get s y fun i => { i with opPend := some p, rpl := i.rpl + i.opPend.isSome.toNat }
      refine ⟨_, congrArg Host.Outcome.next (writeOpm_pends hok hm), ?_⟩
      exact ⟨(congrArg IslandSt.opPend hget :), (congrArg IslandSt.opMove hget :), (congrArg IslandSt.rpl hget :),
        (congrArg IslandSt.floor hget :)⟩
    · have hstart := startMove_spec y p s
      refine ⟨_, congrArg Host.Outcome.next (writeOpm_starts hok hm), hstart.vl, hstart.mem, hstart.core, fun h => ?_, hstart.down, hstart.up⟩
      obtain ⟨hfl, hmv⟩ := hstart.level h
      exact ⟨hfl, hmv.trans hm⟩
    · show execRailMoveStep s = _
      unfold execRailMoveStep
      dsimp only
      rw [show (s.isl.get s.arg.y).opMove = none from hm]
  · intro y v m n i ups e
    refine ⟨opmdWrite_free, opmdWrite_ignored, fun h3 h1 h2 => ?_, fun h1 h2 => govWrite_taken ?_, govWrite_crossed, plsWrite_taken,
      fun l hl h => plsWrite_bad ⟨l, hl, h⟩, ⟨slrWrite_bad, slrWrite_spec⟩, optd1Write_spec s, optMirrorWrite_recalled,
      optMirrorWrite_second, optMirrorWrite_first⟩
    · have hget := State.modI_get s s.arg.y fun i => { i with opmd := s.arg.v.setWidth 2, govWait := true }
      exact ⟨_, opmdWrite_taken h3 (not_or.2 ⟨h1, h2⟩), (congrArg IslandSt.opmd hget :), (congrArg IslandSt.govWait hget :),
        (congrArg IslandSt.floor hget :), rfl, rfl⟩
    · exact not_or.2 ⟨BitVec.not_lt.2 h1, BitVec.not_lt.2 h2⟩
  · intro y c i n sigma g ask
    refine ⟨controlInterval_spec s, ?_, ?_, divisorChange_spec s⟩
    · obtain ⟨t, ht, hisl, hmem, hcore, hnone, hsome⟩ := governorWindow_spec s
      have hn : i.govI + i.govS + i.govM = n := rfl
      refine ⟨t, ht, by rw [hisl]; rfl, by rw [hisl]; rfl, by rw [hisl]; rfl, by rw [hisl]; rfl, hmem, hcore, fun h => hnone ?_,
        fun h1 h0 hlo hvl => hsome _ ?_, fun h1 h0 hlo hhi hvl => hsome _ ?_⟩
      · exact if_pos h
      · unfold askedLevel
        dsimp only
        rw [if_neg (not_or.2 ⟨not_not.2 h1, h0⟩), if_pos ⟨hlo, hvl⟩]
      · unfold askedLevel
        dsimp only
        rw [if_neg (not_or.2 ⟨not_not.2 h1, h0⟩), if_neg fun h => absurd h.1 (not_lt.2 hlo), if_pos ⟨hhi, hvl⟩]
    · obtain ⟨hisl, hel, hmem, hcore, -⟩ := tripThermal_spec s.arg.y s
      exact ⟨_, rfl, (congrArg IslandSt.dth hisl :), (congrArg IslandSt.trp hisl :), hel, hmem, hcore⟩

end Sys2Proof.Machine
end

section
/-! O60: telemetry, in-field tests, firmware, attestation, partitions, and what the host reads (R395 to R405). -/

namespace Sys2Proof.Machine

/-! What leaves the caches when a slice or a part goes out of service (R388, R389). -/

/-- Lines have left the offshore caches: storage stays, and of an island only the copies and the writeback buffer have changed. -/
structure Evicted (s t : State) : Prop where
  mem : t.mem = s.mem
  dev : t.dev = s.dev
  tick : t.tick = s.tick
  isl : ∀ y, ∃ c w, t.isl.get y = { s.isl.get y with copies := c, wbuf := w }

namespace Evicted

theorem refl (s : State) : Evicted s s := ⟨rfl, rfl, rfl, fun _ => ⟨_, _, rfl⟩⟩

theorem trans {s t u : State} (h : Evicted s t) (h' : Evicted t u) : Evicted s u := by
  refine ⟨h'.mem.trans h.mem, h'.dev.trans h.dev, h'.tick.trans h.tick, fun y => ?_⟩
  obtain ⟨c, w, ht⟩ := h.isl y
  obtain ⟨c', w', hu⟩ := h'.isl y
  exact ⟨c', w', by rw [hu, ht]⟩

theorem foldl {α : Type} {f : State → α → State} (hf : ∀ (s : State) a, Evicted s (f s a)) (l : List α) (s : State) : Evicted s (l.foldl f s) := by
  induction l generalizing s with
  | nil => exact refl s
  | cons a l ih => exact (hf s a).trans (ih (f s a))

theorem modI (s : State) (y : Isl) {f : IslandSt → IslandSt} (hf : ∀ i, ∃ c w, f i = { i with copies := c, wbuf := w }) :
    Evicted s (s.modI y f) := by
  refine ⟨rfl, rfl, rfl, fun z => ?_⟩
  rw [State.modI_get_if]
  split
  next hz =>
    rw [hz]
    exact hf _
  · exact ⟨_, _, rfl⟩

theorem sends {s t : State} (h : Sends s t) : Evicted s t := ⟨h.mem, h.dev, h.tick, fun y => ⟨_, _, congrArg (Vector.get · y) h.isl⟩⟩

end Evicted

theorem evicted_evictCopy (y : Isl) (line : Nat) (c : Copy) (s : State) : Evicted s (evictCopy y line c s) := by
  have h1 : Evicted s (invAgents y line none (s.modI y fun i => { i with copies := tdel i.copies line })) :=
    (Evicted.modI s y fun _ => ⟨_, _, rfl⟩).trans (.sends (sends_invAgents ..))
  unfold evictCopy
  dsimp only
  generalize invAgents y line none (s.modI y fun i => { i with copies := tdel i.copies line }) = s1 at h1 ⊢
  have hwb : Evicted s (s1.modI y fun i => { i with wbuf := tset i.wbuf line c.data }) := h1.trans (.modI _ y fun _ => ⟨_, _, rfl⟩)
  split
  · exact h1
  · exact h1.trans (.sends (.msg ..))
  · exact h1.trans (.sends (.msg ..))
  · exact hwb.trans (.sends (.msg ..))
  · exact hwb.trans (.sends (.msg ..))

theorem evicted_emptyPart (y : Isl) (part : Nat) (s : State) : Evicted s (emptyPart y part s) := by
  unfold emptyPart
  exact .foldl (fun s e => evicted_evictCopy ..) _ s

/-- A slice's lines leave the shelf. -/
def clearShelf (slice : Nat) (i : IslandSt) : IslandSt := { i with shelf := i.shelf.filter fun e => e.line % 32 != slice }

theorem writeBack_lineKey (e : ShelfLine) (s : State) : ∃ k, writeBack e s = s.modD fun d => { d with lineKey := k } := by
  unfold writeBack
  split
  · split
    · exact ⟨_, rfl⟩
    · exact ⟨s.dev.lineKey, rfl⟩
  · exact ⟨s.dev.lineKey, rfl⟩

theorem foldl_writeBack_lineKey (l : List ShelfLine) (s : State) :
    ∃ k, l.foldl (fun s e => writeBack e s) s = s.modD fun d => { d with lineKey := k } := by
  induction l generalizing s with
  | nil => exact ⟨s.dev.lineKey, rfl⟩
  | cons e l ih =>
    obtain ⟨k, hk⟩ := writeBack_lineKey e s
    obtain ⟨k', hk'⟩ := ih (writeBack e s)
    refine ⟨k', hk'.trans ?_⟩
    rw [hk]
    rfl

theorem emptyShelf_eq (y : Isl) (slice : Nat) (s : State) : ∃ k, emptyShelf y slice s =
    (s.modD fun d => { d with lineKey := k }).modI y (clearShelf slice) := by
  obtain ⟨k, hk⟩ := foldl_writeBack_lineKey ((s.isl.get y).shelf.filter fun e => e.line % 32 == slice) s
  refine ⟨k, ?_⟩
  unfold emptyShelf
  dsimp only
  rw [hk]
  rfl

/-- What a test of a unit leaves when its unit goes out of service: storage, the tests and the result of the host's test. -/
theorem clearTested_frame (y : Isl) (u : BitVec 16) (s : State) : let t := clearTested y u s
    t.mem = s.mem ∧ (t.isl.get y).tests = (s.isl.get y).tests ∧ t.dev.itr = s.dev.itr ∧ t.dev.itrBusy = s.dev.itrBusy := by
  have hpart (s : State) : let t := emptyPart y (u.toNat % 256) s
      t.mem = s.mem ∧ (t.isl.get y).tests = (s.isl.get y).tests ∧ t.dev.itr = s.dev.itr ∧ t.dev.itrBusy = s.dev.itrBusy := by
    have hev := evicted_emptyPart y (u.toNat % 256) s
    obtain ⟨c, w, hisl⟩ := hev.isl y
    exact ⟨hev.mem, (congrArg IslandSt.tests hisl :), by rw [hev.dev], by rw [hev.dev]⟩
  unfold clearTested
  split
  · obtain ⟨k, hk⟩ := emptyShelf_eq y (u.toNat % 256) s
    obtain ⟨hm, ht, hi, hb⟩ := hpart (emptyShelf y (u.toNat % 256) s)
    rw [hk] at hm ht hi hb ⊢
    refine ⟨hm, ht.trans ?_, hi, hb⟩
    rw [State.modI_get]
    rfl
  · exact hpart s
  · exact ⟨rfl, rfl, rfl, rfl⟩

theorem askTest_frame (y : Isl) (u : BitVec 16) (b : Option (CoreId × Nat)) (s : State) : let t := askTest y u b s
    t.mem = s.mem ∧ (t.isl.get y).tests = (s.isl.get y).tests ++ [(u, b)] ∧ t.dev.itr = s.dev.itr ∧ t.dev.itrBusy = s.dev.itrBusy := by
  let s1 := s.modI y fun i => { i with tests := i.tests ++ [(u, b)] }
  have h1 : (s1.isl.get y).tests = (s.isl.get y).tests ++ [(u, b)] :=
    (congrArg IslandSt.tests (State.modI_get s y fun i => { i with tests := i.tests ++ [(u, b)] }) :)
  let s2 := if 1 ≤ u.toNat / 256 ∧ u.toNat / 256 ≤ 8 then requestPreempt (coreNo (y.val * 32 + u.toNat % 256)) s1 else clearTested y u s1
  have h2 : s2.mem = s.mem ∧ (s2.isl.get y).tests = (s.isl.get y).tests ++ [(u, b)] ∧ s2.dev.itr = s.dev.itr ∧ s2.dev.itrBusy = s.dev.itrBusy := by
    unfold s2
    split
    · unfold requestPreempt
      dsimp only
      split
      · exact ⟨rfl, h1, rfl, rfl⟩
      · exact ⟨rfl, h1, rfl, rfl⟩
    · obtain ⟨hm, ht, hi, hb⟩ := clearTested_frame y u s1
      exact ⟨hm, ht.trans h1, hi, hb⟩
  unfold askTest
  dsimp only
  split
  · exact h2
  · exact h2

/-! Telemetry, tests and firmware (R396, R401 to R404). -/

theorem telemetrySnapshot_takes {s : State} (hb : s.dev.tsn = false) (hv : s.arg.v.getLsbD 0 = true) :
    ∃ t, execTelemetrySnapshot s = .next t ∧ t.dev.tsn = true ∧ t.dev.tsnTaken = true ∧ t.dev.shadow = countersNow s ∧
      t.dev.tsnLive = s.arg.v.getLsbD 1 ∧
      ∃ e ∈ t.agenda, e.due = .ev .telemetrySnapshotDone Arg.zero ∧ e.at_ ≤ s.tick + 20 * Config.usTicks := by
  unfold execTelemetrySnapshot
  dsimp only
  rw [if_neg (by rw [hb]; exact Bool.false_ne_true), if_pos hv]
  refine ⟨_, rfl, rfl, rfl, rfl, rfl, _, (mem_agenda_at ..).2 (.inl rfl), rfl, ?_⟩
  exact Nat.add_le_add_left (Nat.mod_lt _ (by decide)) _

theorem infieldTestRequest_none {s : State} {y : Isl} (hy : y = ⟨(s.arg.v.extractLsb' 0 2).toNat % 4, by omega⟩)
    (h : s.arg.v.getLsbD 32 = false ∨ s.dev.itrBusy = true ∨ unitListed y (s.arg.v.extractLsb' 16 16) = false) :
    execInfieldTestRequest s = .next s := by
  subst hy
  unfold execInfieldTestRequest
  dsimp only
  rw [if_pos]
  rcases h with h | h | h
  · rw [h]
    rfl
  · rw [h, Bool.or_true, Bool.true_or]
  · rw [h, Bool.not_false, Bool.or_true]

theorem infieldTestRequest_asks {s : State} {y : Isl} (hy : y = ⟨(s.arg.v.extractLsb' 0 2).toNat % 4, by omega⟩)
    (hv : s.arg.v.getLsbD 32 = true) (hb : s.dev.itrBusy = false) (hu : unitListed y (s.arg.v.extractLsb' 16 16) = true) :
    execInfieldTestRequest s = .next (askTest y (s.arg.v.extractLsb' 16 16) none (s.modD fun d => { d with itrBusy := true, itr := 0 })) := by
  subst hy
  unfold execInfieldTestRequest
  dsimp only
  rw [if_neg (by rw [hv, hb, hu]; exact Bool.false_ne_true)]

theorem fwProg_starts {s : State} (h : s.dev.fwSt ≠ 1) : ∃ t, execFwProg s = .next t ∧ t.dev.fwSt = 1 ∧ t.dev.fwWhy = 0 ∧
    t.has (.ev .fwProgComplete Arg.zero) = true ∧ t.dev.bank0 = s.dev.bank0 ∧ t.dev.bank1 = s.dev.bank1 := by
  unfold execFwProg
  dsimp only
  rw [if_neg h]
  exact ⟨_, rfl, rfl, rfl, has_after .., rfl, rfl⟩

theorem programBank_spec (img : List Byte) (s : State) : let why := fwWhyOf s.dev.idHash s.dev.fuse img
    let t := programBank img s
    t.dev.fwAct = s.dev.fwAct ∧
    (why ≠ 0 → t.dev.fwSt = 3 ∧ t.dev.fwWhy = BitVec.ofNat 8 why ∧ t.dev.bank0 = s.dev.bank0 ∧ t.dev.bank1 = s.dev.bank1) ∧
    (why = 0 → t.dev.fwSt = 2 ∧ fwBank t.dev (!s.dev.fwAct) = img ∧ fwBank t.dev s.dev.fwAct = fwBank s.dev s.dev.fwAct) := by
  intro why t
  unfold t programBank
  dsimp only
  split
  next h => exact ⟨rfl, fun _ => ⟨rfl, rfl, rfl, rfl⟩, fun h0 => absurd h0 h⟩
  next h =>
    refine ⟨rfl, fun h0 => absurd h0 h, fun _ => ⟨rfl, ?_⟩⟩
    unfold fwBank
    cases hact : s.dev.fwAct
    · simp [hact]
    · simp [hact]

theorem fwProgComplete_programs {s : State} (h : s.dev.fwSt = 1) :
    execFwProgComplete s = .next (programBank (hostImage s) { s with free := s.free + 1 }) := by
  unfold execFwProgComplete
  rw [if_neg (not_not.2 h)]

theorem attestationStart_starts {s : State} (h : s.dev.attBusy = false) : ∃ t, execAttestationStart s = .next t ∧ t.dev.attBusy = true ∧
    t.dev.attDone = false ∧ ∃ e ∈ t.agenda, e.due = .ev .attestationReport Arg.zero ∧ e.at_ ≤ s.tick + 5000 * Config.usTicks := by
  unfold execAttestationStart
  dsimp only
  rw [if_neg (by rw [h]; exact Bool.false_ne_true)]
  refine ⟨_, rfl, rfl, rfl, _, (mem_agenda_at ..).2 (.inl rfl), rfl, ?_⟩
  exact Nat.add_le_add_left (Nat.mod_lt _ (by decide)) _

/-! Partitions (R405). -/

theorem partitionWrite_prt {s : State} (hk : s.arg.k = 0) (hany : s.dev.cx.toList.any (·.en) = false)
    (hok : prtOk (s.arg.v.toNat % 256) = true) : let p := BitVec.ofNat 8 (s.arg.v.toNat % 256)
    let s1 := s.modD fun d => { d with prt := p }
    execPartitionWrite s = .next (if p = s.dev.prt then s1 else islIds.foldl (fun s y => s.modI y fun i => { i with opmd := 0, govWait := true }) s1) := by
  unfold execPartitionWrite
  dsimp only
  rw [hk]
  dsimp only
  rw [hany, hok, if_neg (by simp)]

theorem partitionWrite_prt_spec {s : State} (hk : s.arg.k = 0) (hany : s.dev.cx.toList.any (·.en) = false)
    (hok : prtOk (s.arg.v.toNat % 256) = true) :
    ∃ t, execPartitionWrite s = .next t ∧ t.dev.prt = BitVec.ofNat 8 (s.arg.v.toNat % 256) ∧ t.mem = s.mem ∧ t.core = s.core ∧
      (t.dev.prt ≠ s.dev.prt → ∀ y, (t.isl.get y).opmd = 0 ∧ (t.isl.get y).govWait = true) ∧ (t.dev.prt = s.dev.prt → t.isl = s.isl) := by
  refine ⟨_, partitionWrite_prt hk hany hok, ?_⟩
  split
  next h => exact ⟨rfl, rfl, rfl, fun hn => absurd h hn, fun _ => rfl⟩
  next h =>
    let s1 := s.modD fun d => { d with prt := BitVec.ofNat 8 (s.arg.v.toNat % 256) }
    let f (i : IslandSt) : IslandSt := { i with opmd := 0, govWait := true }
    have hframe : ∀ l : List Isl, (l.foldl (fun s y => s.modI y f) s1).dev = s1.dev ∧ (l.foldl (fun s y => s.modI y f) s1).mem = s.mem ∧
        (l.foldl (fun s y => s.modI y f) s1).core = s.core := fun l =>
      ⟨foldl_keeps (·.dev) (f := fun s y => s.modI y f) (fun _ _ => rfl) l s1,
        foldl_keeps (·.mem) (f := fun s y => s.modI y f) (fun _ _ => rfl) l s1,
        foldl_keeps (·.core) (f := fun s y => s.modI y f) (fun _ _ => rfl) l s1⟩
    obtain ⟨hdev, hmem, hcore⟩ := hframe islIds
    refine ⟨(congrArg DevSt.prt hdev :), hmem, hcore, fun _ y => ?_, fun he => ?_⟩
    · have hy : (islIds.foldl (fun s y => s.modI y f) s1).isl.get y = f (s1.isl.get y) := modI_islIds_get ..
      constructor
      · exact (congrArg IslandSt.opmd hy :)
      · exact (congrArg IslandSt.govWait hy :)
    · exact absurd ((congrArg DevSt.prt hdev :).symm.trans he) h

theorem partitionWrite_refused {s : State} (hk : s.arg.k = 0) (h : s.dev.cx.toList.any (·.en) = true ∨ prtOk (s.arg.v.toNat % 256) = false) :
    execPartitionWrite s = .next (refuseWrite s) := by
  unfold execPartitionWrite
  dsimp only
  rw [hk]
  dsimp only
  rw [if_pos]
  rcases h with h | h
  · simp [h]
  · simp [h]

/-- A quota that PCX of a partition takes. -/
def PcxGood (s : State) (p : Nat) (w : W64) : Prop := natBits w.toNat 6 0 + natBits w.toNat 15 8 ≤ 128 ∧
  natBits w.toNat 23 16 + natBits w.toNat 32 24 ≤ 256 ∧ pcxOk (s.dev.pcx.toList.set p w) = true

theorem partitionWrite_pcx {s : State} {p : Nat} (hp : p < 4) (hk : s.arg.k = p + 1) (hany : s.dev.cx.toList.any (·.en) = false)
    (hok : PcxGood s p (s.arg.v &&& 0xFFFF0001FFFFFF7F)) :
    execPartitionWrite s = .next (s.modD fun d => { d with pcx := d.pcx.set p (s.arg.v &&& 0xFFFF0001FFFFFF7F) hp }) := by
  obtain ⟨h1, h2, h3⟩ := hok
  unfold execPartitionWrite
  dsimp only
  rw [hk]
  dsimp only
  rw [hany, h3, if_neg (by simp only [not_or]; exact ⟨by omega, Bool.false_ne_true, by omega, by omega, by simp⟩)]
  simp only [dif_pos hp]

theorem partitionWrite_pcx_refused {s : State} {p : Nat} (hk : s.arg.k = p + 1)
    (h : s.dev.cx.toList.any (·.en) = true ∨ ¬ PcxGood s p (s.arg.v &&& 0xFFFF0001FFFFFF7F)) :
    execPartitionWrite s = .next (refuseWrite s) := by
  unfold execPartitionWrite
  dsimp only
  rw [hk]
  dsimp only
  rw [if_pos]
  rcases h with h | h
  · exact .inr (.inl h)
  · unfold PcxGood at h
    rw [not_and_or, not_and_or, not_le, not_le, Bool.not_eq_true] at h
    rcases h with h | h | h
    · exact .inr (.inr (.inl h))
    · exact .inr (.inr (.inr (.inl h)))
    · exact .inr (.inr (.inr (.inr (by rw [h]; rfl))))

/-! What the host reads (R395, R396, R398, R399, R403). -/

theorem counterRead_core {s : State} {k : Nat} (hk : k < 0x1000) :
    counterRead s (8 * k) = tget 0 (if s.dev.tsnTaken && !s.dev.tsnLive then s.dev.shadow else countersNow s) k := by
  have hkey : (if 8 * k < 0x8000 then 8 * k / 8 else 0x2000 + (8 * k - 0x8000) / 8) = k := by
    rw [if_pos (by omega)]
    omega
  unfold counterRead
  dsimp only
  rw [hkey]

theorem bar0Read_counter {s : State} {k : Nat} (hk : k < 0x1000) : bar0Read s (0x600000 + 8 * k) = BitVec.ofNat 64 (counterRead s (8 * k)) := by
  unfold bar0Read
  dsimp only
  rw [if_neg (by omega), if_neg (by omega), if_neg (by omega), if_neg (by omega), if_neg (by omega), if_neg (by omega), if_neg (by omega),
    if_neg (by omega), if_pos (by omega), Nat.add_sub_cancel_left]

theorem bar0Read_energy (s : State) (cx : BitVec 7) : bar0Read s (0x500000 + 8 * cx.toNat) = (s.ctxOf cx).energy := by
  have hcx := cx.isLt
  unfold bar0Read
  dsimp only
  rw [if_neg (by omega), if_neg (by omega), if_neg (by omega), if_neg (by omega), if_pos (by omega),
    show (0x500000 + 8 * cx.toNat - 0x500000) / 8 = cx.toNat by omega, BitVec.ofNat_toNat, BitVec.setWidth_eq]

theorem bar0Read_opt {s : State} {e : Nat} (he : e < 1024) :
    bar0Read s (0x700000 + 16 * e) = (optAt s e).1 ∧ bar0Read s (0x700008 + 16 * e) = (optAt s e).2 := by
  unfold bar0Read
  dsimp only
  constructor
  · rw [if_neg (by omega), if_neg (by omega), if_neg (by omega), if_neg (by omega), if_neg (by omega), if_neg (by omega), if_neg (by omega),
      if_neg (by omega), if_neg (by omega), if_pos (by omega), show (0x700000 + 16 * e - 0x700000) / 16 = e by omega, if_pos (by omega)]
  · rw [if_neg (by omega), if_neg (by omega), if_neg (by omega), if_neg (by omega), if_neg (by omega), if_neg (by omega), if_neg (by omega),
      if_neg (by omega), if_neg (by omega), if_pos (by omega), show (0x700008 + 16 * e - 0x700000) / 16 = e by omega, if_neg (by omega)]

/-- Settles O60: telemetry, in-field tests, firmware, attestation and partitions, and the registers that the host reads. -/
theorem fleetSteps : Obligations.FleetSteps := by
  unfold Obligations.FleetSteps
  intro s v img why ty u any
  refine ⟨fun h => ?_, telemetrySnapshot_takes, rfl, infieldTestRequest_none rfl, fun hv hb hu => ?_, fun h => ?_, fwProg_starts,
    fun h => ⟨_, fwProgComplete_programs h, programBank_spec _ _⟩, fun h => ?_, fun h => ?_, fun h => ?_, attestationStart_starts, fun h => ?_,
    partitionWrite_prt_spec, partitionWrite_refused, fun p hp hk => ⟨partitionWrite_pcx hp hk, partitionWrite_pcx_refused hk⟩,
    fun ht hl g n hg hn => ?_, bar0Read_energy s, rfl, fun e he => bar0Read_opt he, rfl⟩
  · exact if_pos h
  · obtain ⟨hm, ht, hi, hb'⟩ := askTest_frame ty u none (s.modD fun d => { d with itrBusy := true, itr := 0 })
    exact ⟨_, infieldTestRequest_asks rfl hv hb hu, hb', hi, ht, hm⟩
  · exact if_pos h
  · show execFwCommit s = _
    exact if_neg (not_not.2 h)
  · exact if_pos h
  · exact if_pos h
  · show execAttestationReport s = _
    exact if_neg (by rw [h]; exact Bool.false_ne_true)
  · have hk : 32 * g + n < 0x1000 := by omega
    rw [show 0x600000 + 256 * g + 8 * n = 0x600000 + 8 * (32 * g + n) by omega, bar0Read_counter hk, counterRead_core hk, ht, hl]
    rfl

end Sys2Proof.Machine
end

section
/-! O59: fences and their records, scrubbing, self-tests and purges (R381 to R389, R397, R400). -/

namespace Sys2Proof.Machine

/-! Records of the error log (R397). -/

/-- The fields of a record of a fence. -/
structure FenceRecord (r : BitVec 256) (unit tick : Nat) (y : Isl) : Prop where
  kind : r.extractLsb' 0 8 = 5#8
  unit : r.extractLsb' 8 16 = BitVec.ofNat 16 unit
  isl : r.extractLsb' 24 2 = BitVec.ofNat 2 y.val
  gap : r.extractLsb' 26 38 = 0#38
  time : r.extractLsb' 64 64 = BitVec.ofNat 64 (tick / Config.usTicks)
  rest : r.extractLsb' 128 128 = 0#128

theorem errRecord_fence (unit : Nat) (y : Isl) (s : State) : FenceRecord (errRecord 5 unit y 0 0 s) unit s.tick y := by
  have hy := y.isLt
  generalize ht : s.tick / Config.usTicks = n
  obtain ⟨z, hz, hr⟩ : ∃ z, z = 0 ∧ errRecord 5 unit y 0 0 s =
      BitVec.ofNat 256 (5 + unit % 65536 * 2 ^ 8 + y.val * 2 ^ 24 + n % 2 ^ 64 * 2 ^ 64 + z * 2 ^ 128 + 0 * 2 ^ 192) :=
    ⟨(0 : W64).toNat, rfl, by rw [errRecord, ht]⟩
  have hfield (a w v : Nat) (h : (5 + unit % 65536 * 2 ^ 8 + y.val * 2 ^ 24 + n % 2 ^ 64 * 2 ^ 64 + z * 2 ^ 128 + 0 * 2 ^ 192) % 2 ^ 256 / 2 ^ a %
      2 ^ w = v % 2 ^ w) : (errRecord 5 unit y 0 0 s).extractLsb' a w = BitVec.ofNat w v := by
    rw [hr]
    apply BitVec.eq_of_toNat_eq
    rw [BitVec.extractLsb'_toNat, BitVec.toNat_ofNat, BitVec.toNat_ofNat, Nat.shiftRight_eq_div_pow]
    exact h
  refine ⟨hfield 0 8 5 ?_, hfield 8 16 unit ?_, hfield 24 2 y.val ?_, hfield 26 38 0 ?_, ?_, hfield 128 128 0 ?_⟩
  · omega
  · omega
  · omega
  · omega
  · rw [ht]
    refine hfield 64 64 n ?_
    omega
  · omega

/-- A fence of a unit is logged (R389). -/
def FenceLogged (s t : State) (y : Isl) (unit : Nat) : Prop := t.dev.elN = s.dev.elN + 1 ∧ t.dev.elw = s.dev.elw + 1 ∧
  ∃ r, tfind t.dev.elog s.dev.elw.toNat = some r ∧ r.extractLsb' 0 8 = 5#8 ∧ r.extractLsb' 8 16 = BitVec.ofNat 16 unit ∧
    r.extractLsb' 24 2 = BitVec.ofNat 2 y.val ∧ r.extractLsb' 26 38 = 0#38 ∧
    r.extractLsb' 64 64 = BitVec.ofNat 64 (s.tick / Config.usTicks) ∧ r.extractLsb' 128 128 = 0#128

/-- A fence sets its bit and logs a record; beside the error log nothing but the fence log's bytes changes. -/
structure FenceSet (s t : State) (y : Isl) (unit : Nat) (f : IslandSt → IslandSt) : Prop where
  isl : t.isl = (s.modI y f).isl
  core : t.core = s.core
  tick : t.tick = s.tick
  dev : t.dev = (elogPut (errRecord 5 unit y 0 0 s) s).dev

theorem flogAppend_frame (r : BitVec 256) (s : State) : (flogAppend r s).isl = s.isl ∧ (flogAppend r s).core = s.core ∧
    (flogAppend r s).tick = s.tick ∧ (flogAppend r s).dev = s.dev := by
  unfold flogAppend
  dsimp only
  split
  · exact ⟨rfl, rfl, rfl, rfl⟩
  · split
    · exact ⟨rfl, rfl, rfl, rfl⟩
    · exact ⟨rfl, rfl, rfl, rfl⟩

theorem logErr_fence (unit : Nat) (y : Isl) (f : IslandSt → IslandSt) (s : State) :
    FenceSet s (logErr 5 unit y 0 0 (s.modI y f)) y unit f := by
  have hr : errRecord 5 unit y 0 0 (s.modI y f) = errRecord 5 unit y 0 0 s := rfl
  unfold logErr
  dsimp only
  rw [if_pos (.inl rfl), hr]
  obtain ⟨hi, hc, ht, hd⟩ := flogAppend_frame (errRecord 5 unit y 0 0 s) (elogPut (errRecord 5 unit y 0 0 s) (s.modI y f))
  exact ⟨hi, hc, ht, hd⟩

theorem FenceSet.logged {s t : State} {y : Isl} {unit : Nat} {f : IslandSt → IslandSt} (h : FenceSet s t y unit f) : FenceLogged s t y unit := by
  obtain ⟨h1, h2, h3, h4, h5, h6⟩ := errRecord_fence unit y s
  unfold FenceLogged
  rw [h.dev]
  exact ⟨rfl, rfl, _, tfind_tset_self .., h1, h2, h3, h4, h5, h6⟩

theorem FenceSet.get {s t : State} {y : Isl} {unit : Nat} {f : IslandSt → IslandSt} (h : FenceSet s t y unit f) :
    t.isl.get y = f (s.isl.get y) := by
  rw [h.isl, State.modI_get]

/-! The fences (R389). -/

theorem coreNo_spec (y : Isl) (k : Nat) : let c := coreNo (y.val * 32 + k % 32)
    isMgmt c = false ∧ islOf c = y ∧ c.val % 32 = k % 32 := by
  have hy := y.isLt
  have hval : (y.val * 32 + k % 32) % 128 = y.val * 32 + k % 32 := by omega
  unfold coreNo isMgmt islOf
  refine ⟨?_, ?_, ?_⟩
  · exact decide_eq_false (by dsimp only; omega)
  · rw [dif_pos (by dsimp only; omega)]
    apply Fin.ext
    dsimp only
    omega
  · dsimp only
    omega

theorem freeSlot_congr {s t : State} (hc : t.core = s.core) (hd : t.dev.cx = s.dev.cx) (cx : BitVec 7) : freeSlot t cx = freeSlot s cx := by
  unfold freeSlot State.ctxOf
  rw [hc, hd]

/-- A core that is asked to leave, or is not. -/
theorem requestPreempt_frame (c : CoreId) (s : State) : (requestPreempt c s).isl = s.isl ∧ (requestPreempt c s).dev = s.dev := by
  unfold requestPreempt
  dsimp only
  split
  · exact ⟨rfl, rfl⟩
  · exact ⟨rfl, rfl⟩

/-- The bit of a mask that a fence sets. -/
theorem getLsbD_or_bit {w : Nat} (m : BitVec w) {k : Nat} (hk : k < w) : (m ||| 1#w <<< k).getLsbD k = true := by
  have hw : 0 < w := by omega
  simp [hk, hw]

theorem fenceCore_fences {s : State} (h : (s.isl.get s.arg.y).fcore.getLsbD (s.arg.k % 32) = false) :
    let y := s.arg.y
    let i := s.isl.get y
    let c := coreNo (y.val * 32 + s.arg.k % 32)
    ∃ t, execFenceCore s = .next t ∧ FenceLogged s t y (0x100 + s.arg.k % 32) ∧
      (t.isl.get y).fcore = i.fcore ||| 1#32 <<< (s.arg.k % 32) ∧ fenced t c = true ∧
      ((s.core.get c).run = .running → (freeSlot s (s.core.get c).ctx).isSome = true → (t.core.get c).preempt = true) := by
  intro y i c
  let f (i : IslandSt) : IslandSt := { i with fcore := i.fcore ||| 1#32 <<< (s.arg.k % 32) }
  have hset := logErr_fence (0x100 + s.arg.k % 32) y f s
  generalize hs1 : logErr 5 (0x100 + s.arg.k % 32) y 0 0 (s.modI y f) = s1 at hset
  obtain ⟨hmgmt, hisl, hval⟩ := coreNo_spec y s.arg.k
  obtain ⟨hri, hrd⟩ := requestPreempt_frame c s1
  have hmask : ((requestPreempt c s1).isl.get y).fcore = i.fcore ||| 1#32 <<< (s.arg.k % 32) := by
    rw [hri, hset.get]
  refine ⟨requestPreempt c s1, ?_, ?_, hmask, ?_, fun hrun hfree => ?_⟩
  · unfold execFenceCore
    dsimp only
    rw [if_neg (by rw [h]; exact Bool.false_ne_true), hs1]
  · have hlog := hset.logged
    unfold FenceLogged at hlog ⊢
    rw [hrd]
    exact hlog
  · have hbit := getLsbD_or_bit i.fcore (k := s.arg.k % 32) (by omega)
    rw [← hmask] at hbit
    unfold fenced
    rw [show isMgmt c = false from hmgmt, show islOf c = y from hisl, show c.val % 32 = s.arg.k % 32 from hval, hbit]
    rfl
  · have hrun1 : (s1.core.get c).run = .running := by rw [hset.core]; exact hrun
    have hcx : s1.dev.cx = s.dev.cx := by rw [hset.dev]; rfl
    rw [requestPreempt_asks hmgmt (by rw [hrun1]; exact nofun) (by rw [hrun1]; exact nofun)
      (by rw [freeSlot_congr hset.core hcx, hset.core]; exact hfree), State.modC_get]

theorem fenceSlice_fences {s : State} (h : (s.isl.get s.arg.y).fslice.getLsbD (s.arg.k % 32) = false) :
    let y := s.arg.y
    let i := s.isl.get y
    let k := s.arg.k % 32
    ∃ t, execFenceSlice s = .next t ∧ FenceLogged s t y (0x1000 + k) ∧ (t.isl.get y).fslice = i.fslice ||| 1#32 <<< k ∧
      (∀ e ∈ (t.isl.get y).shelf, e.line % 32 ≠ k) ∧ ∀ d, islOf d = y → stagingSize t d k = 0 := by
  intro y i k
  let f (i : IslandSt) : IslandSt := { i with fslice := i.fslice ||| 1#32 <<< k }
  have hset := logErr_fence (0x1000 + k) y f s
  generalize hs1 : logErr 5 (0x1000 + k) y 0 0 (s.modI y f) = s1 at hset
  obtain ⟨key, hkey⟩ := emptyShelf_eq y k s1
  have hev := evicted_emptyPart y k (emptyShelf y k s1)
  obtain ⟨c, w, hisl⟩ := hev.isl y
  rw [hkey, State.modI_get] at hisl
  have hisl' : (emptyPart y k (emptyShelf y k s1)).isl.get y = { clearShelf k (f i) with copies := c, wbuf := w } := by
    rw [hkey, hisl]
    exact congrArg (fun i => { clearShelf k i with copies := c, wbuf := w }) hset.get
  have hmask : ((emptyPart y k (emptyShelf y k s1)).isl.get y).fslice = i.fslice ||| 1#32 <<< k := by
    rw [hisl']
    rfl
  refine ⟨emptyPart y k (emptyShelf y k s1), ?_, ?_, hmask, fun e he => ?_, fun d hd => ?_⟩
  · unfold execFenceSlice
    dsimp only
    rw [if_neg (by rw [h]; exact Bool.false_ne_true), hs1]
  · have hlog := hset.logged
    unfold FenceLogged at hlog ⊢
    rw [hev.dev, hkey]
    exact hlog
  · rw [hisl'] at he
    exact bne_iff_ne.1 (List.mem_filter.1 he).2
  · have hbit := getLsbD_or_bit i.fslice (k := k) (by omega)
    rw [← hmask] at hbit
    unfold stagingSize sliceDown
    dsimp only
    rw [hd, hbit]
    rfl

theorem fenceStrait_fences {s : State} (h : (s.isl.get s.arg.y).fstrait.getLsbD (s.arg.k % 4) = false) :
    let y := s.arg.y
    let k := s.arg.k % 4
    ∃ t, execFenceStrait s = .next t ∧ FenceLogged s t y (0x2000 + k) ∧ t.core = s.core ∧
      (t.isl.get y).fstrait = (s.isl.get y).fstrait ||| 1#4 <<< k ∧
      ∀ z : Isl, z ≠ y → z.val = k → msgTicks t y z = 80 ∧ msgTicks t z y = 80 := by
  intro y k
  let f (i : IslandSt) : IslandSt := { i with fstrait := i.fstrait ||| 1#4 <<< k }
  have hset := logErr_fence (0x2000 + k) y f s
  have hexec : execFenceStrait s = .next (logErr 5 (0x2000 + k) y 0 0 (s.modI y f)) := by
    unfold execFenceStrait
    dsimp only
    rw [if_neg (by rw [h]; exact Bool.false_ne_true)]
  refine ⟨_, hexec, hset.logged, hset.core, by rw [hset.get], fun z hz hk => ?_⟩
  have hbit : (((logErr 5 (0x2000 + k) y 0 0 (s.modI y f)).isl.get y).fstrait).getLsbD z.val = true := by
    rw [hset.get, hk]
    exact getLsbD_or_bit _ (by omega)
  unfold msgTicks straitDown
  rw [if_neg hz.symm, if_neg hz, hbit]
  simp

/-- A channel that is fenced alone is on the agenda of reads: what is read from it is poison. -/
theorem poisoned_of_fenced {s : State} {z : Isl} {a n : Nat} (h : s.onFenced a = true) (hd : s.fromDram a = true) : s.poisoned z a n = true := by
  unfold State.poisoned State.badUnit
  rw [h, hd]
  rfl

theorem poisoned_congr {s t : State} (he : t.dev.errs = s.dev.errs) (hp : t.dev.poison = s.dev.poison) {z : Isl} {a n : Nat}
    (hs : s.fromDram a = false) (ht : t.fromDram a = false) : t.poisoned z a n = s.poisoned z a n := by
  unfold State.poisoned State.badUnit
  rw [hs, ht, Bool.and_false, Bool.and_false, if_neg Bool.false_ne_true, if_neg Bool.false_ne_true, he, hp]
  cases s.dev.errs.find? (inPieces a n) with
  | some p => rfl
  | none => rfl

theorem fenceDram_fences {s : State} (h : (s.isl.get s.arg.y).fdram.getLsbD (s.arg.k % 16) = false) :
    let y := s.arg.y
    let k := s.arg.k % 16
    ∃ t, execFenceDramChannel s = .next t ∧ FenceLogged s t y (0x3000 + k) ∧ t.core = s.core ∧
      (t.isl.get y).fdram = (s.isl.get y).fdram ||| 1#16 <<< k ∧
      ∀ z a n, a < 0x3000000000 → homeOf a = y → Config.dramChannel (a / 128) % 16 = k →
        (t.fromDram a = true → t.poisoned z a n = true) ∧ (t.fromDram a = false → t.poisoned z a n = s.poisoned z a n) := by
  intro y k
  let f (i : IslandSt) : IslandSt := { i with fdram := i.fdram ||| 1#16 <<< k }
  have hset := logErr_fence (0x3000 + k) y f s
  have hexec : execFenceDramChannel s = .next (logErr 5 (0x3000 + k) y 0 0 (s.modI y f)) := by
    unfold execFenceDramChannel
    dsimp only
    rw [if_neg (by rw [h]; exact Bool.false_ne_true)]
  refine ⟨_, hexec, hset.logged, hset.core, by rw [hset.get], fun z a n ha hhome hch => ?_⟩
  generalize logErr 5 (0x3000 + k) y 0 0 (s.modI y f) = t at hset
  have hbit : ((t.isl.get y).fdram).getLsbD k = true := by
    rw [hset.get]
    exact getLsbD_or_bit _ (by omega)
  have hshelf (x : Isl) : (t.isl.get x).shelf = (s.isl.get x).shelf ∧ (t.isl.get x).copies = (s.isl.get x).copies := by
    rw [hset.isl, State.modI_get_if]
    split
    next hx =>
      rw [hx]
      exact ⟨rfl, rfl⟩
    · exact ⟨rfl, rfl⟩
  have hdram : t.fromDram a = s.fromDram a := by
    unfold State.fromDram
    simp only [hshelf]
  refine ⟨fun hd => poisoned_of_fenced ?_ hd, fun hd => ?_⟩
  · unfold State.onFenced
    dsimp only
    rw [hhome, hch, hbit, decide_eq_true ha]
    rfl
  · exact poisoned_congr (by rw [hset.dev]; rfl) (by rw [hset.dev]; rfl) (hdram ▸ hd) hd

/-! The scrubber (R400). -/

/-- What a patrol read leaves: storage, the cores, the period of the scrubber and the time. -/
structure Scrubs (s t : State) : Prop where
  mem : t.mem = s.mem
  core : t.core = s.core
  scp : t.dev.scp = s.dev.scp

theorem Scrubs.trans {s t u : State} (h : Scrubs s t) (h' : Scrubs t u) : Scrubs s u :=
  ⟨h'.mem.trans h.mem, h'.core.trans h.core, h'.scp.trans h.scp⟩

theorem Scrubs.modD (s : State) {f : DevSt → DevSt} (hf : (f s.dev).scp = s.dev.scp) : Scrubs s (s.modD f) := ⟨rfl, rfl, hf⟩

theorem scrubs_elogPut (r : BitVec 256) (s : State) : Scrubs s (elogPut r s) := ⟨rfl, rfl, rfl⟩

theorem markPieces_poisons (l : List Nat) (u p : Nat) (t : Tbl Nat) (h : p ∈ l) : (tfind (l.foldl (fun t p => tset t p u) t) p).isSome = true := by
  have hkeeps (l : List Nat) (t : Tbl Nat) (h : (tfind t p).isSome = true) : (tfind (l.foldl (fun t p => tset t p u) t) p).isSome = true := by
    induction l generalizing t with
    | nil => exact h
    | cons q l ih =>
      refine ih _ ?_
      rw [tfind_tset]
      split
      · rfl
      · exact h
  induction l generalizing t with
  | nil => exact absurd h List.not_mem_nil
  | cons q l ih =>
    rcases List.mem_cons.1 h with rfl | h
    · refine hkeeps l _ ?_
      rw [tfind_tset_self]
      rfl
    · exact ih _ h

theorem mem_of_tfind_isSome {α : Type} {t : Tbl α} {k : Nat} (h : (tfind t k).isSome = true) : ∃ v, (k, v) ∈ t := by
  induction t with
  | nil => exact absurd h (by simp [tfind])
  | cons e t ih =>
    rw [tfind] at h
    split at h
    next hk => exact ⟨e.2, by rw [← hk]; exact List.mem_cons_self⟩
    · obtain ⟨v, hv⟩ := ih h
      exact ⟨v, List.mem_cons_of_mem _ hv⟩

/-- A piece that is marked is poisoned for every island. -/
theorem poisoned_of_marked {s : State} {p a n : Nat} (z : Isl) (hp : (tfind s.dev.poison p).isSome = true) (hin : inPieces a n p = true) :
    s.poisoned z a n = true := by
  obtain ⟨v, hv⟩ := mem_of_tfind_isSome hp
  have hfind : (s.dev.poison.find? fun e => inPieces a n e.1).isSome = true := List.find?_isSome.2 ⟨_, hv, hin⟩
  unfold State.poisoned State.badUnit
  split
  · rfl
  · split
    · rfl
    · rw [Option.isSome_map]
      exact hfind

theorem inPieces_line (line : Nat) : inPieces (line * 128) 128 (2 * line) = true := by
  unfold inPieces
  rw [Bool.and_eq_true, decide_eq_true_iff, decide_eq_true_iff]
  omega

/-- Unit of an error that a patrol read of a line meets. -/
def scrubUnit (line : Nat) : Nat := if line < 4 * tierLines then 0x3000 + Config.dramChannel line % 16 else 0

/-- The pieces of a line are marked. -/
def scrubMarks (line : Nat) (s : State) : State := markPieces [2 * line, 2 * line + 1] (scrubUnit line)
  ((s.modI (lineHome line) fun i => i.count 11 1).modD fun d => { d with errs := d.errs.filter fun p => p / 2 != line })

theorem scrubMarks_spec (line : Nat) (s : State) : let t := scrubMarks line s
    Scrubs s t ∧ t.dev.poison = [2 * line, 2 * line + 1].foldl (fun t p => tset t p (scrubUnit line)) s.dev.poison ∧
    t.dev.errs = (s.dev.errs.filter fun p => p / 2 != line) ∧ t.dev.elN = s.dev.elN :=
  ⟨⟨rfl, rfl, rfl⟩, rfl, rfl, rfl⟩

/-- A patrol read meets an error that it cannot correct. -/
def scrubBad (line : Nat) (s : State) : State :=
  logErr 2 (scrubUnit line) (lineHome line) (BitVec.ofNat 64 (line * 128)) 0 (scrubMarks line s)

/-- A patrol read meets none. -/
def scrubGood (line : Nat) (s : State) : State := if s.pick.1 % 2 = 1 then corrected (scrubUnit line) (lineHome line) s.pick.2 else s.pick.2

theorem execPatrolScrub_eq {s : State} (h : s.dev.scp ≠ 0) : execPatrolScrub s =
    .next (let s2 := if s.arg.flag || (chargeOverhead s).dev.errs.any (fun p => p / 2 == s.arg.line) then scrubBad s.arg.line (chargeOverhead s)
        else scrubGood s.arg.line (chargeOverhead s)
      if s.arg.flag then s2 else nextScrub s.arg.line s.arg.n s2) := by
  unfold execPatrolScrub
  dsimp only
  rw [if_neg h]
  rfl

theorem scrubBad_spec (line : Nat) (s : State) : let t := scrubBad line s
    Scrubs s t ∧ (∀ z, t.poisoned z (line * 128) 128 = true) ∧ t.dev.elN = s.dev.elN + 1 ∧ ∀ p ∈ t.dev.errs, p / 2 ≠ line := by
  intro t
  obtain ⟨hs, hpoison, herrs, hel⟩ := scrubMarks_spec line s
  have ht : t = elogPut _ (scrubMarks line s) := logErr_elog (by decide) (by decide) ..
  rw [ht]
  generalize scrubMarks line s = s1 at hs hpoison herrs hel
  refine ⟨hs.trans (scrubs_elogPut ..), fun z => poisoned_of_marked (p := 2 * line) z ?_ (inPieces_line line), congrArg (· + 1) hel, fun p hp => ?_⟩
  · refine (congrArg (fun t => (tfind t (2 * line)).isSome) hpoison).trans ?_
    exact markPieces_poisons [2 * line, 2 * line + 1] (scrubUnit line) (2 * line) s.dev.poison List.mem_cons_self
  · have hp' : p ∈ s1.dev.errs := hp
    rw [herrs] at hp'
    exact bne_iff_ne.1 (List.mem_filter.1 hp').2

/-- A corrected error marks nothing. -/
theorem corrected_poison (unit : Nat) (y : Isl) (s : State) : Scrubs s (corrected unit y s) ∧ (corrected unit y s).dev.poison = s.dev.poison := by
  have hlog (b : Prop) [Decidable b] (s1 s2 : State) (h1 : Scrubs s s1 ∧ s1.dev.poison = s.dev.poison) (h2 : Scrubs s s2 ∧ s2.dev.poison = s.dev.poison) :
      Scrubs s (if b then logErr 1 unit y 0 0 s2 else s1) ∧ (if b then logErr 1 unit y 0 0 s2 else s1).dev.poison = s.dev.poison := by
    split
    · rw [logErr_elog (by decide) (by decide)]
      exact ⟨h2.1.trans (scrubs_elogPut _ s2), h2.2⟩
    · exact h1
  unfold corrected
  exact hlog _ _ _ ⟨⟨rfl, rfl, rfl⟩, rfl⟩ ⟨⟨rfl, rfl, rfl⟩, rfl⟩

theorem scrubGood_spec (line : Nat) (s : State) : let t := scrubGood line s
    Scrubs s t ∧ t.dev.poison = s.dev.poison := by
  intro t
  unfold t scrubGood
  split
  · obtain ⟨h, hp⟩ := corrected_poison (scrubUnit line) (lineHome line) s.pick.2
    exact ⟨⟨h.mem, h.core, h.scp⟩, hp⟩
  · exact ⟨⟨rfl, rfl, rfl⟩, rfl⟩

theorem patrolScrub_flagged {s : State} (h : s.dev.scp ≠ 0) (hf : s.arg.flag = true) : ∃ t, execPatrolScrub s = .next t ∧ t.mem = s.mem ∧
    t.core = s.core ∧ (∀ z, t.poisoned z (s.arg.line * 128) 128 = true) ∧ t.dev.elN = s.dev.elN + 1 := by
  obtain ⟨hs, hp, hel, -⟩ := scrubBad_spec s.arg.line (chargeOverhead s)
  refine ⟨_, execPatrolScrub_eq h, ?_⟩
  dsimp only
  rw [hf, Bool.true_or, if_pos rfl, if_pos rfl]
  exact ⟨hs.mem, hs.core, hp, hel⟩

/-- The scrubber's next read is due, and nothing else has changed. -/
theorem nextScrub_spec (line n : Nat) (s : State) : let t := nextScrub line n s
    t.mem = s.mem ∧ t.core = s.core ∧ t.dev = s.dev ∧ t.isl = s.isl ∧
    (line < 4 * tierLines → t.has (.ev .patrolScrub { Arg.zero with
      line := line / tierLines * tierLines + (line % tierLines + 1) % tierLines }) = true) ∧
    (4 * tierLines ≤ line → t.has (.ev .patrolScrub { Arg.zero with
      line := 4 * tierLines + Config.lpddrLine ((n + 1) % lpddrLines), n := (n + 1) % lpddrLines }) = true) := by
  intro t
  unfold t nextScrub
  split
  next h => exact ⟨rfl, rfl, rfl, rfl, fun _ => has_after .., fun hn => absurd h (by omega)⟩
  next h => exact ⟨rfl, rfl, rfl, rfl, fun hn => absurd hn h, fun _ => has_after ..⟩

theorem poisoned_dev {s t : State} (hd : t.dev = s.dev) (hi : t.isl = s.isl) (z : Isl) (a n : Nat) : t.poisoned z a n = s.poisoned z a n := by
  unfold State.poisoned State.badUnit State.onFenced State.fromDram storageUnit
  rw [hd, hi]

theorem patrolScrub_walks {s : State} (h : s.dev.scp ≠ 0) (hf : s.arg.flag = false) :
    let line := s.arg.line
    let bad := s.dev.errs.any fun p => p / 2 == line
    ∃ t, execPatrolScrub s = .next t ∧ t.mem = s.mem ∧ t.core = s.core ∧ (bad = false → t.dev.poison = s.dev.poison) ∧
      (bad = true → (∀ z, t.poisoned z (line * 128) 128 = true) ∧ t.dev.elN = s.dev.elN + 1 ∧ ∀ p ∈ t.dev.errs, p / 2 ≠ line) ∧
      (line < 4 * tierLines → t.has (.ev .patrolScrub { Arg.zero with
        line := line / tierLines * tierLines + (line % tierLines + 1) % tierLines }) = true) ∧
      (4 * tierLines ≤ line → t.has (.ev .patrolScrub { Arg.zero with
        line := 4 * tierLines + Config.lpddrLine ((s.arg.n + 1) % lpddrLines), n := (s.arg.n + 1) % lpddrLines }) = true) := by
  intro line bad
  have herrs : ((chargeOverhead s).dev.errs.any fun p => p / 2 == s.arg.line) = bad := rfl
  refine ⟨_, execPatrolScrub_eq h, ?_⟩
  dsimp only
  rw [hf, Bool.false_or, herrs, if_neg Bool.false_ne_true]
  cases hb : bad with
  | true =>
    obtain ⟨hs, hp, hel, herr⟩ := scrubBad_spec s.arg.line (chargeOverhead s)
    rw [if_pos rfl]
    obtain ⟨hm, hc, hd, hi, h1, h2⟩ := nextScrub_spec s.arg.line s.arg.n (scrubBad s.arg.line (chargeOverhead s))
    refine ⟨hm.trans hs.mem, hc.trans hs.core, fun hn => (nomatch hn), fun _ => ⟨fun z => (poisoned_dev hd hi ..).trans (hp z), ?_, ?_⟩, h1, h2⟩
    · rw [hd]
      exact hel
    · rw [hd]
      exact herr
  | false =>
    obtain ⟨hs, hp⟩ := scrubGood_spec s.arg.line (chargeOverhead s)
    rw [if_neg Bool.false_ne_true]
    obtain ⟨hm, hc, hd, hi, h1, h2⟩ := nextScrub_spec s.arg.line s.arg.n (scrubGood s.arg.line (chargeOverhead s))
    exact ⟨hm.trans hs.mem, hc.trans hs.core, fun _ => by rw [hd]; exact hp, fun hn => (nomatch hn), h1, h2⟩

/-! Self-tests (R388, R401). -/

/-- The result of the host's test stands. -/
def TestKept (s t : State) : Prop := t.dev.itr = s.dev.itr ∧ t.dev.itrBusy = s.dev.itrBusy

theorem TestKept.trans {s t u : State} (h : TestKept s t) (h' : TestKept t u) : TestKept s u := ⟨h'.1.trans h.1, h'.2.trans h.2⟩

theorem TestKept.foldl {α : Type} {f : State → α → State} (hf : ∀ (s : State) a, TestKept s (f s a)) (l : List α) (s : State) :
    TestKept s (l.foldl f s) := by
  induction l generalizing s with
  | nil => exact ⟨rfl, rfl⟩
  | cons a l ih => exact (hf s a).trans (ih (f s a))

theorem testKept_scorePhase (l : Launch) (s : State) : TestKept s (scorePhase l s) := by
  unfold scorePhase
  dsimp only
  split
  · exact ⟨rfl, rfl⟩
  · split
    · exact ⟨rfl, rfl⟩
    · split
      · exact ⟨rfl, rfl⟩
      · exact ⟨rfl, rfl⟩

theorem testKept_loseStaging (y : Isl) (s : State) : TestKept s (loseStaging y s) := by
  have htrim (s : State) : TestKept s (trimShelf y s) := by
    unfold trimShelf
    dsimp only
    obtain ⟨k, hk⟩ := foldl_writeBack_lineKey ((s.isl.get y).shelf.filter fun e =>
      !((s.isl.get y).shelf.foldl (fun l e => if (l.filter fun x => sameSet x.line e.line).length < 12 - stagingWays s y then l ++ [e] else l) []).contains e) s
    rw [hk]
    exact ⟨rfl, rfl⟩
  have hlost (m : List Host.Cell) : TestKept s (trimShelf y { s with free := s.free + 1, mem := m }) := htrim _
  unfold loseStaging
  exact hlost _

theorem testKept_settleLaunch (n : Nat) (s : State) : TestKept s (settleLaunch n s) := by
  have hend (st : LSt) : TestKept s (endLaunch n st s) := by
    unfold endLaunch
    split
    · exact ⟨rfl, rfl⟩
    · refine TestKept.trans ?_ (.foldl (fun s y => testKept_loseStaging y s) islIds _)
      exact testKept_scorePhase _ s
  unfold settleLaunch
  split
  · exact ⟨rfl, rfl⟩
  · split
    · exact hend .complete
    · exact ⟨rfl, rfl⟩

theorem testKept_requestPreempt (c : CoreId) (s : State) : TestKept s (requestPreempt c s) := by
  unfold TestKept
  rw [(requestPreempt_frame c s).2]
  exact ⟨rfl, rfl⟩

theorem testKept_dispatch (s : State) : TestKept s (dispatch s) := by
  have hask (cs : List CoreId) (s : State) : TestKept s (cs.foldl (fun s c => requestPreempt c s) s) :=
    .foldl (fun s c => testKept_requestPreempt c s) cs s
  have hover (s : State) : TestKept s (preemptOverrun s) := by
    unfold preemptOverrun
    dsimp only
    refine TestKept.trans (.foldl (fun s i => ?_) _ s) (hask _ _)
    split
    · exact hask _ s
    · exact ⟨rfl, rfl⟩
  have hall := (TestKept.foldl (fun s n => testKept_settleLaunch n s) (s.dev.pool.map (·.1)) s).trans (hover _)
  unfold dispatch
  dsimp only
  split
  · split
    · exact hall
    · exact hall
  · exact hall

/-- A test with verdict v leaves its island's list. -/
def endTest (v : Nat) (e : BitVec 16 × Option (CoreId × Nat)) (i : IslandSt) : IslandSt :=
  { (if v = 0 then i else i.count (13 + v) 1) with tests := i.tests.erase e }

/-- The verdict of a test is logged, if it is not that the unit is good. -/
def logVerdict (y : Isl) (e : BitVec 16 × Option (CoreId × Nat)) (s : State) : State :=
  let v := s.pick.1 % 3
  let s2 := s.pick.2.modI y (endTest v e)
  if v = 0 then s2 else logErr 4 e.1.toNat y (BitVec.ofNat 64 v) 0 s2

/-- The verdict goes to who has asked for the test. -/
def giveVerdict (v : Nat) (b : Option (CoreId × Nat)) (s : State) : State :=
  match b with
  | some (c, id) => finishCop c id (BitVec.ofNat 64 v) s
  | none => s.modD fun d => { d with itr := BitVec.ofNat 64 (v + 0x100), itrBusy := false }

/-- The next test of the unit, if one waits. -/
def testAgain (u : BitVec 16) (s0 s : State) : State :=
  if (s.pick.2.isl.get s0.arg.y).tests.any fun x => x.1 == u then
    s.pick.2.after (s.pick.1 % (2000 * Config.usTicks) + 1) (.ev .selfTestComplete s0.arg) else s.pick.2

theorem selfTest_waits {s : State} {e : BitVec 16 × Option (CoreId × Nat)} {c : CoreId}
    (he : ((s.isl.get s.arg.y).tests.find? fun e => e.1 == BitVec.ofNat 16 s.arg.n) = some e)
    (hc : testedCore s.arg.y (BitVec.ofNat 16 s.arg.n) = some c) (hrun : (s.core.get c).run ≠ .unbound) : execSelfTestComplete s =
    .next ((requestPreempt c s).after (2 * Config.usTicks) (.ev .selfTestComplete s.arg)) := by
  have hfilt : (testedCore s.arg.y (BitVec.ofNat 16 s.arg.n)).filter (fun c => (s.core.get c).run != .unbound) = some c := by
    rw [hc]
    exact Option.filter_eq_some_iff.2 ⟨rfl, bne_iff_ne.2 hrun⟩
  unfold execSelfTestComplete
  dsimp only
  rw [he]
  dsimp only
  rw [hfilt]

theorem selfTest_ends {s : State} {e : BitVec 16 × Option (CoreId × Nat)}
    (he : ((s.isl.get s.arg.y).tests.find? fun e => e.1 == BitVec.ofNat 16 s.arg.n) = some e)
    (hc : testedCore s.arg.y (BitVec.ofNat 16 s.arg.n) = none ∨
      ∃ d, testedCore s.arg.y (BitVec.ofNat 16 s.arg.n) = some d ∧ (s.core.get d).run = .unbound) : execSelfTestComplete s =
    .next (dispatch (testAgain (BitVec.ofNat 16 s.arg.n) s (chargeOverhead (giveVerdict (s.pick.1 % 3) e.2 (logVerdict s.arg.y e s))))) := by
  have hfilt : (testedCore s.arg.y (BitVec.ofNat 16 s.arg.n)).filter (fun c => (s.core.get c).run != .unbound) = none := by
    rcases hc with hc | ⟨d, hc, hrun⟩
    · rw [hc]
      rfl
    · rw [hc, Option.filter_some, if_neg (by simp [hrun])]
  have hu : BitVec.ofNat 16 s.arg.n = e.1 := (beq_iff_eq.1 (List.find?_some (p := fun e : BitVec 16 × Option (CoreId × Nat) => e.1 == _) he)).symm
  unfold execSelfTestComplete
  dsimp only
  rw [he]
  dsimp only
  rw [hfilt, hu]
  rfl

theorem logVerdict_spec (y : Isl) (e : BitVec 16 × Option (CoreId × Nat)) (s : State) : let t := logVerdict y e s
    (t.isl.get y).tests = (s.isl.get y).tests.erase e ∧ t.core = s.core := by
  intro t
  have hget := State.modI_get s.pick.2 y (endTest (s.pick.1 % 3) e)
  unfold t logVerdict
  dsimp only
  split
  · exact ⟨(congrArg IslandSt.tests hget :), rfl⟩
  · rw [logErr_elog (by decide) (by decide)]
    exact ⟨(congrArg IslandSt.tests hget :), rfl⟩

/-- What a test's end leaves after the verdict has been given: the tests, what is due, the operations of the cores and the result. -/
theorem verdictStands (u : BitVec 16) (s0 s : State) : let t := dispatch (testAgain u s0 (chargeOverhead s))
    (∀ y, (t.isl.get y).tests = (s.isl.get y).tests) ∧ (∀ d, s.has d = true → t.has d = true) ∧
    (∀ c, (t.core.get c).loads = (s.core.get c).loads) ∧ TestKept s t := by
  intro t
  let s1 := testAgain u s0 (chargeOverhead s)
  have h1 : s1.isl = s.isl ∧ (∀ e ∈ s.agenda, e ∈ s1.agenda) ∧ s1.core = s.core ∧ TestKept s s1 := by
    unfold s1 testAgain
    split
    · exact ⟨rfl, fun e he => (mem_agenda_at ..).2 (.inr he), rfl, rfl, rfl⟩
    · exact ⟨rfl, fun e he => he, rfl, rfl, rfl⟩
  obtain ⟨hisl, hag, hcore, htest⟩ := h1
  have hd := dispatched_dispatch s1
  refine ⟨fun y => ?_, fun d h => ?_, fun c => ?_, htest.trans (testKept_dispatch s1)⟩
  · obtain ⟨sh, te, hy⟩ := aside_dispatch s1 y
    exact ((congrArg IslandSt.tests hy :)).trans (by rw [hisl])
  · obtain ⟨e, he, hdue⟩ := (has_iff ..).1 h
    exact (has_iff ..).2 ⟨e, hd.agenda e (hag e he), hdue⟩
  · obtain ⟨b, hb⟩ := hd.core c
    exact ((congrArg CoreSt.loads hb :)).trans (by rw [hcore])

/-! Purges (R384). -/

/-- Operations that a purge's end answers. -/
def answerAll (l : List (CoreId × Nat)) (s : State) : State := l.foldl (fun s e => finishCop e.1 e.2 0 s) s

theorem answerAll_spec (l : List (CoreId × Nat)) (s : State) : let t := answerAll l s
    t.mem = s.mem ∧ t.dev = s.dev ∧ (∀ d, s.has d = true → t.has d = true) ∧
    ∀ c o, o ∈ (s.core.get c).loads → (∀ e ∈ l, e.1 ≠ c ∨ e.2 ≠ o.id) → o ∈ (t.core.get c).loads := by
  induction l generalizing s with
  | nil => exact ⟨rfl, rfl, fun _ h => h, fun _ _ h _ => h⟩
  | cons e l ih =>
    obtain ⟨hm, hd, hdue, ho⟩ := ih (finishCop e.1 e.2 0 s)
    refine ⟨hm, hd, fun d h => hdue d ?_, fun c o hin hne => ho c o ?_ fun x hx => hne x (List.mem_cons_of_mem _ hx)⟩
    · obtain ⟨x, hx, hxd⟩ := (has_iff ..).1 h
      exact (has_iff ..).2 ⟨x, List.mem_cons_of_mem _ hx, hxd⟩
    · unfold finishCop
      rw [State.now_core, State.modC_get_if]
      split
      next hc =>
        have hid : o.id ≠ e.2 := ((hne e List.mem_cons_self).resolve_left fun h => h hc.symm).symm
        exact List.mem_map.2 ⟨o, hin, if_neg hid⟩
      · exact hin

/-- The purge block on a pennant is lifted. -/
def liftPurge (cx : BitVec 7) (p : BitVec 16) (s : State) : State :=
  s.modD fun d => { d with purges := d.purges.filter fun y => !(y.cx == cx && y.pen == p) }

theorem purgeComplete_none {s : State} (h : purgeBlock s (BitVec.ofNat 7 s.arg.k) (BitVec.ofNat 16 s.arg.n) = false) :
    execPurgeComplete s = .next s := by
  have hnone : (s.dev.purges.find? fun x => x.cx == BitVec.ofNat 7 s.arg.k && x.pen == BitVec.ofNat 16 s.arg.n) = none := by
    rw [List.find?_eq_none]
    exact fun x hx hp => by
      unfold purgeBlock at h
      exact absurd (List.any_eq_true.2 ⟨x, hx, hp⟩) (by rw [h]; exact Bool.false_ne_true)
  unfold execPurgeComplete
  dsimp only
  rw [hnone]

/-- A core of the context that is being purged still stops. -/
def stillStops (s : State) (cx : BitVec 7) : Bool := coreIds.any fun c => let k := s.core.get c; k.ctx == cx && k.run == .unbound && k.stopping

theorem purgeComplete_waits {s : State} {x : Purge} (hx : (s.dev.purges.find? fun x => x.cx == BitVec.ofNat 7 s.arg.k && x.pen == BitVec.ofNat 16 s.arg.n) = some x)
    (h : stillStops s (BitVec.ofNat 7 s.arg.k) = true) : execPurgeComplete s = .next (s.pick.2.after (s.pick.1 + 1) (.ev .purgeComplete s.arg)) := by
  unfold stillStops at h
  unfold execPurgeComplete
  dsimp only
  rw [hx]
  dsimp only
  rw [if_pos h]

theorem purgeComplete_ends {s : State} {x : Purge} {c : CoreId} {id : Nat} {rest : List (CoreId × Nat)}
    (hx : (s.dev.purges.find? fun x => x.cx == BitVec.ofNat 7 s.arg.k && x.pen == BitVec.ofNat 16 s.arg.n) = some x)
    (hby : x.by_ = (c, id) :: rest) (hrec : x.rec_ = none) (h : stillStops s (BitVec.ofNat 7 s.arg.k) = false) : execPurgeComplete s =
    .next (dispatch (answerAll rest (finishCop c id (BitVec.ofNat 64 x.count) (liftPurge (BitVec.ofNat 7 s.arg.k) (BitVec.ofNat 16 s.arg.n) s)))) := by
  unfold stillStops at h
  unfold execPurgeComplete
  dsimp only
  rw [hx]
  dsimp only
  rw [if_neg (by rw [h]; exact Bool.false_ne_true), hrec, hby]
  rfl

/-- The verdict of a core's test is delivered to it. -/
theorem selfTest_core_spec {s : State} {e : BitVec 16 × Option (CoreId × Nat)} {c : CoreId} {id : Nat}
    (he : ((s.isl.get s.arg.y).tests.find? fun e => e.1 == BitVec.ofNat 16 s.arg.n) = some e)
    (hc : testedCore s.arg.y (BitVec.ofNat 16 s.arg.n) = none ∨
      ∃ d, testedCore s.arg.y (BitVec.ofNat 16 s.arg.n) = some d ∧ (s.core.get d).run = .unbound) (hb : e.2 = some (c, id)) :
    ∃ t v, execSelfTestComplete s = .next t ∧ v < 3 ∧ (t.isl.get s.arg.y).tests = (s.isl.get s.arg.y).tests.erase e ∧
      t.has (.ev .loadDelivery (argCI c id)) = true ∧ ∀ o ∈ (s.core.get c).loads, o.id = id →
        { o with val := some (BitVec.ofNat 64 v, false) } ∈ (t.core.get c).loads := by
  obtain ⟨htests, hcore⟩ := logVerdict_spec s.arg.y e s
  have hexec := selfTest_ends he hc
  have hv : s.pick.1 % 3 < 3 := Nat.mod_lt _ (by decide)
  rw [hb] at hexec
  generalize s.pick.1 % 3 = v at hexec hv
  generalize logVerdict s.arg.y e s = s1 at htests hcore hexec
  obtain ⟨htests', hdue, hloads, -⟩ := verdictStands (BitVec.ofNat 16 s.arg.n) s (giveVerdict v (some (c, id)) s1)
  refine ⟨_, v, hexec, hv, (htests' s.arg.y).trans htests, hdue _ (has_now ..), fun o ho hid => ?_⟩
  rw [hloads, ← hid]
  exact (finishCop_spec c o (BitVec.ofNat 64 v) s1 (by rw [hcore]; exact ho)).1

/-- The verdict of a test of the host stands in its register. -/
theorem selfTest_host_spec {s : State} {e : BitVec 16 × Option (CoreId × Nat)}
    (he : ((s.isl.get s.arg.y).tests.find? fun e => e.1 == BitVec.ofNat 16 s.arg.n) = some e)
    (hc : testedCore s.arg.y (BitVec.ofNat 16 s.arg.n) = none ∨
      ∃ d, testedCore s.arg.y (BitVec.ofNat 16 s.arg.n) = some d ∧ (s.core.get d).run = .unbound) (hb : e.2 = none) :
    ∃ t v, execSelfTestComplete s = .next t ∧ v < 3 ∧ t.dev.itr = BitVec.ofNat 64 (v + 0x100) ∧ t.dev.itrBusy = false := by
  have hexec := selfTest_ends he hc
  have hv : s.pick.1 % 3 < 3 := Nat.mod_lt _ (by decide)
  rw [hb] at hexec
  generalize s.pick.1 % 3 = v at hexec hv
  generalize logVerdict s.arg.y e s = s1 at hexec
  obtain ⟨-, -, -, hitr, hbusy⟩ := verdictStands (BitVec.ofNat 16 s.arg.n) s (giveVerdict v none s1)
  exact ⟨_, v, hexec, hv, hitr, hbusy⟩

theorem purgeComplete_ends_spec {s : State} {x : Purge} {c : CoreId} {id : Nat} {rest : List (CoreId × Nat)}
    (hx : (s.dev.purges.find? fun x => x.cx == BitVec.ofNat 7 s.arg.k && x.pen == BitVec.ofNat 16 s.arg.n) = some x)
    (hby : x.by_ = (c, id) :: rest) (hrec : x.rec_ = none) (hrest : ∀ e ∈ rest, e.1 ≠ c ∨ e.2 ≠ id)
    (h : stillStops s (BitVec.ofNat 7 s.arg.k) = false) :
    ∃ t, execPurgeComplete s = .next (dispatch t) ∧ purgeBlock t (BitVec.ofNat 7 s.arg.k) (BitVec.ofNat 16 s.arg.n) = false ∧ t.mem = s.mem ∧
      t.has (.ev .loadDelivery (argCI c id)) = true ∧ ∀ o ∈ (s.core.get c).loads, o.id = id →
        { o with val := some (BitVec.ofNat 64 x.count, false) } ∈ (t.core.get c).loads := by
  have hexec := purgeComplete_ends hx hby hrec h
  have hlift : purgeBlock (liftPurge (BitVec.ofNat 7 s.arg.k) (BitVec.ofNat 16 s.arg.n) s) (BitVec.ofNat 7 s.arg.k) (BitVec.ofNat 16 s.arg.n) = false := by
    unfold purgeBlock
    rw [List.any_eq_false]
    intro z hz hp
    have hkeep := (List.mem_filter.1 hz).2
    rw [hp] at hkeep
    exact Bool.false_ne_true hkeep
  have hl : (liftPurge (BitVec.ofNat 7 s.arg.k) (BitVec.ofNat 16 s.arg.n) s).mem = s.mem ∧
      (liftPurge (BitVec.ofNat 7 s.arg.k) (BitVec.ofNat 16 s.arg.n) s).core = s.core := ⟨rfl, rfl⟩
  generalize liftPurge (BitVec.ofNat 7 s.arg.k) (BitVec.ofNat 16 s.arg.n) s = s1 at hexec hlift hl
  obtain ⟨hm, hd, hdue, hother⟩ := answerAll_spec rest (finishCop c id (BitVec.ofNat 64 x.count) s1)
  refine ⟨_, hexec, ?_, hm.trans hl.1, hdue _ (has_now ..), fun o ho hid => ?_⟩
  · unfold purgeBlock at hlift ⊢
    rw [hd]
    exact hlift
  · subst hid
    exact hother c _ (finishCop_spec c o (BitVec.ofNat 64 x.count) s1 (by rw [hl.2]; exact ho)).1 hrest

/-- A core of the context that is being purged still stops, or none does. -/
theorem stillStops_iff (s : State) (cx : BitVec 7) :
    stillStops s cx = true ↔ ∃ d, (s.core.get d).ctx = cx ∧ (s.core.get d).run = .unbound ∧ (s.core.get d).stopping = true := by
  unfold stillStops
  rw [List.any_eq_true]
  constructor
  · rintro ⟨d, -, hd⟩
    rw [Bool.and_eq_true, Bool.and_eq_true] at hd
    exact ⟨d, beq_iff_eq.1 hd.1.1, beq_iff_eq.1 hd.1.2, hd.2⟩
  · rintro ⟨d, h1, h2, h3⟩
    exact ⟨d, mem_coreIds d, by dsimp only; rw [h1, h2, h3]; simp⟩

theorem purgeComplete_waits_spec {s : State} (hp : purgeBlock s (BitVec.ofNat 7 s.arg.k) (BitVec.ofNat 16 s.arg.n) = true)
    (h : stillStops s (BitVec.ofNat 7 s.arg.k) = true) :
    ∃ t, execPurgeComplete s = .next t ∧ t.dev = s.dev ∧ t.core = s.core ∧ t.has (.ev .purgeComplete s.arg) = true := by
  obtain ⟨x, hx⟩ : ∃ x, (s.dev.purges.find? fun x => x.cx == BitVec.ofNat 7 s.arg.k && x.pen == BitVec.ofNat 16 s.arg.n) = some x := by
    refine Option.isSome_iff_exists.1 (List.find?_isSome.2 ?_)
    unfold purgeBlock at hp
    exact List.any_eq_true.1 hp
  exact ⟨_, purgeComplete_waits hx h, rfl, rfl, has_after ..⟩

/-- Settles O59: the fences and their records, the scrubber, self-tests and the end of a purge. -/
theorem containmentSteps : Obligations.ContainmentSteps := by
  unfold Obligations.ContainmentSteps
  refine ⟨fun s => ?_, fun s => ?_⟩
  · intro y i c logged
    exact ⟨fun h => if_pos h, fenceCore_fences, fun h => if_pos h, fenceSlice_fences, fun h => if_pos h, fenceStrait_fences,
      fun h => if_pos h, fenceDram_fences⟩
  · intro y line u cx
    refine ⟨fun h => if_pos h, patrolScrub_flagged, patrolScrub_walks, fun h => ?_, fun e he => ⟨fun c hc hrun => ?_,
      fun c id hc hb => selfTest_core_spec he hc hb, fun hc hb => selfTest_host_spec he hc hb⟩, purgeComplete_none,
      fun x c id rest hx hby hrec hrest hstop => purgeComplete_ends_spec hx hby hrec hrest ?_,
      fun d hp hcx hrun hst => purgeComplete_waits_spec hp ((stillStops_iff ..).2 ⟨d, hcx, hrun, hst⟩)⟩
    · show execSelfTestComplete s = _
      unfold execSelfTestComplete
      dsimp only
      rw [h]
    · exact ⟨_, selfTest_waits he hc hrun, by rw [State.after_isl, (requestPreempt_frame c s).1], has_after ..⟩
    · rw [← Bool.not_eq_true, stillStops_iff]
      rintro ⟨d, h1, h2, h3⟩
      exact absurd (h3.symm.trans (hstop d h1 h2)) (by simp)

end Sys2Proof.Machine
end

section
/-! O58: the hold-up sequence and bring-up (R317, R365, R366, R368, R402). -/

namespace Sys2Proof.Machine

/-! Fields in storage (R3). -/

theorem fieldCells_ge (l : Fields) (k : Nat) : ∀ x ∈ fieldCells k l, k ≤ x.1 := by
  induction l generalizing k with
  | nil => exact fun x hx => absurd hx List.not_mem_nil
  | cons e l ih =>
    intro x hx
    rcases List.mem_append.1 hx with hx | hx
    · exact (mem_cellsOf _ _ _ _ hx).1
    · exact Nat.le_trans (Nat.le_add_right k e.2) (ih _ x hx)

/-- The first bytes of a number that is read are its low part. -/
theorem memRdN_low (m : List Host.Cell) (i n k : Nat) : memRdN m k (i + n) % 256 ^ i = memRdN m k i := by
  induction i generalizing k with
  | zero => exact Nat.mod_one _
  | succ i ih =>
    have hstep : memRdN m k (i + 1 + n) = (memRd m k).toNat + 256 * memRdN m (k + 1) (i + n) := by
      rw [Nat.add_right_comm]
      rfl
    have hb := (memRd m k).isLt
    have hlow := ih (k + 1)
    rw [hstep, show memRdN m k (i + 1) = (memRd m k).toNat + 256 * memRdN m (k + 1) i from rfl, ← hlow, Nat.pow_succ, Nat.mul_comm (256 ^ i) 256,
      Nat.mod_mul]
    rw [Nat.add_mul_mod_self_left, Nat.add_mul_div_left _ _ (by decide), Nat.div_eq_of_lt hb, Nat.zero_add, Nat.mod_eq_of_lt hb]

/-- The first of some doublewords that are written reads back. -/
theorem memRdN_first (m : List Host.Cell) (k v : Nat) (l : List Nat) : memRdN (memWrs m (fieldCells k (f64 (v :: l)))) k 8 = v % 2 ^ 64 := by
  have hsplit : memWrs m (fieldCells k (f64 (v :: l))) = memWrs (memWrs m (cellsOf k v 8)) (fieldCells (k + 8) (f64 l)) := by
    exact List.foldl_append
  rw [hsplit]
  refine (memRdN_congr _ (memWrs m (cellsOf k v 8)) 8 k fun a _ ha => memRd_memWrs_ne _ _ _ fun c hc => ?_).trans (memRdN_cellsOf ..)
  have hge := fieldCells_ge _ _ c hc
  omega

/-! The seal (R366, R368). -/

theorem halfWord_fields (e n : Nat) (he : e < 2 ^ 32) :
    (e + 2 ^ 32 + n * 2 ^ 40) % 2 ^ 64 % 256 ^ 4 = e ∧ natBits ((e + 2 ^ 32 + n * 2 ^ 40) % 2 ^ 64) 32 32 = 1 := by
  have hpow : 256 ^ 4 = 2 ^ 32 := by decide
  unfold natBits
  rw [hpow, Nat.shiftRight_eq_div_pow]
  omega

/-- The half record that a seal writes. -/
def halfRecord (s : State) (u ns : Nat) : List Host.Cell := fieldCells (holdKey (halfOff s.dev.half))
  (f64 [s.dev.epoch.toNat + 2 ^ 32 + s.dev.saveCtx.length * 2 ^ 40, u, ns, 0, 0, 0, 0, 0])

theorem halfRecord_read {s t : State} {m : List Host.Cell} {u ns : Nat} (h : t.mem = memWrs m (halfRecord s u ns)) :
    halfEpoch t s.dev.half = s.dev.epoch.toNat ∧ halfSealed t s.dev.half = true := by
  obtain ⟨hlow, hbit⟩ := halfWord_fields s.dev.epoch.toNat s.dev.saveCtx.length s.dev.epoch.isLt
  have h8 : memRdN t.mem (holdKey (halfOff s.dev.half)) 8 = _ := (congrArg (memRdN · _ 8) h).trans (memRdN_first ..)
  constructor
  · unfold halfEpoch holdRd
    rw [← memRdN_low t.mem 4 4, h8]
    exact hlow
  · unfold halfSealed holdRd
    rw [h8, hbit]
    rfl

/-- Length of the sequence in ns. -/
def holdNs (s : State) : Nat := (s.tick - s.dev.lossAt) * 10 / 68

/-- Energy drawn by the sequence. -/
def holdUj (s : State) : Nat := s.pick.1 % (min 151200 (holdNs s * 42 / 100) + 1)

theorem holdUj_spec (s : State) : (BitVec.ofNat 64 (holdUj s)).toNat ≤ 151200 ∧ (BitVec.ofNat 64 (holdUj s)).toNat * 100 ≤ 42 * holdNs s := by
  have hlt : holdUj s < min 151200 (holdNs s * 42 / 100) + 1 := Nat.mod_lt _ (Nat.succ_pos _)
  rw [BitVec.toNat_ofNat]
  omega

/-- Storage without the commit records of the sequence before in this half. -/
def uncommitted (s : State) : List Host.Cell :=
  memZero s.mem (holdKey (halfOff s.dev.half + 0x40000)) (holdKey (halfOff s.dev.half + 0x80000))

/-- The commit records. -/
def commitCells (s : State) : List Host.Cell := s.dev.commits.flatMap fun x =>
  fieldCells (holdKey (halfOff s.dev.half + 0x40000 + 2048 * x.cx + 32 * x.e)) (f64 [x.seqn, x.len, x.crc.toNat, 0])

/-- Storage once the half is sealed. -/
def sealMem (s : State) : List Host.Cell := memWrs (uncommitted s) (commitCells s ++ halfRecord s (holdUj s) (holdNs s))

/-- The device stops: what comes from outside alone stays due. -/
def sealed (s : State) : State :=
  let s1 : State := { s.pick.2 with mem := sealMem s, agenda := s.agenda.filter fun e => fromOutside e.due }
  s1.modD fun d => { d with hold := .done, heldUj := BitVec.ofNat 64 (holdUj s), supplyBack := false }

theorem execSealEnd_eq {s : State} (h : s.dev.hold = .seal) :
    execSealEnd s = .next (if s.dev.supplyBack then (sealed s).now .powerGood Arg.zero else sealed s) := by
  unfold execSealEnd
  rw [if_neg (not_not.2 h)]
  rfl

theorem sealEnd_spec {s : State} (h : s.dev.hold = .seal) : ∃ t, execSealEnd s = .next t ∧ t.dev.hold = .done ∧
    halfEpoch t s.dev.half = s.dev.epoch.toNat ∧ halfSealed t s.dev.half = true ∧ t.dev.heldUj.toNat ≤ 151200 ∧
    t.dev.heldUj.toNat * 100 ≤ 42 * holdNs s ∧ t.core = s.core ∧ (∀ e ∈ t.agenda, fromOutside e.due = true) ∧
    (s.dev.supplyBack = true → t.has (.ev .powerGood Arg.zero) = true) := by
  obtain ⟨hu, hns⟩ := holdUj_spec s
  have hread {t : State} (ht : t.mem = sealMem s) : halfEpoch t s.dev.half = s.dev.epoch.toNat ∧ halfSealed t s.dev.half = true := by
    exact halfRecord_read (s := s) (m := memWrs (uncommitted s) (commitCells s)) (u := holdUj s) (ns := holdNs s) (ht.trans List.foldl_append)
  have hout : ∀ e ∈ (sealed s).agenda, fromOutside e.due = true := fun e he => (List.mem_filter.1 he).2
  refine ⟨_, execSealEnd_eq h, ?_⟩
  split
  · obtain ⟨he, hs⟩ := hread (t := (sealed s).now .powerGood Arg.zero) rfl
    refine ⟨rfl, he, hs, hu, hns, rfl, fun e hin => ?_, fun _ => has_now ..⟩
    rcases List.mem_cons.1 hin with rfl | hin
    · rfl
    · exact hout e hin
  next hb =>
    obtain ⟨he, hs⟩ := hread (t := sealed s) rfl
    exact ⟨rfl, he, hs, hu, hns, rfl, hout, fun hn => absurd hn hb⟩

/-! The save (R276, R277, R368). -/

/-- What the save of a set leaves of the machine: every core. -/
theorem saveSet_core (a : State × Stream) (x : Nat × Launch) : (saveSet a x).1.core = a.1.core := by
  have hentry (l : Launch) (hsq : Nat) (c : Option CoreId) (i : Nat) (e : MsvEnt) (a : State × Stream) : (saveEntry l hsq c i e a).1.core = a.1.core := by
    unfold saveEntry
    dsimp only
    split
    · rfl
    · split
      · rfl
      · split
        · rfl
        · rfl
  have hfold (l : Launch) (hsq : Nat) (d : Option CoreId) (es : List (Nat × MsvEnt)) (a : State × Stream) :
      (es.foldl (fun a e => saveEntry l hsq d e.1 e.2 a) a).1.core = a.1.core := by
    induction es generalizing a with
    | nil => rfl
    | cons e es ih => exact (ih _).trans (hentry ..)
  obtain ⟨s, w⟩ := a
  unfold saveSet
  refine (hfold _ _ _ _ _).trans ?_
  dsimp only [State.modD]

theorem foldl_saveSet_core (l : List (Nat × Launch)) (a : State × Stream) : (l.foldl saveSet a).1.core = a.1.core := by
  induction l generalizing a with
  | nil => rfl
  | cons x l ih => exact (ih _).trans (saveSet_core a x)

/-- The half is cleared for a new save. -/
def clearHalf (s : State) : State :=
  let off := halfOff s.dev.half
  let keep := (List.range 128).filter fun c => !(saveSets s).any fun e => e.2.ctx.toNat == c
  let m := keep.foldl (fun m c => memZero m (holdKey (off + 0x1000 + 64 * c)) (holdKey (off + 0x1040 + 64 * c))) s.mem
  State.modD { s with mem := memZero m (holdKey off) (holdKey (off + 64)) } fun d =>
    { d with holdTag := d.holdTag.filter fun e => decide (e.1 < off) || decide (off + 0x10000000 ≤ e.1) }

/-- Every set is saved. -/
def saveAll (s : State) : State := ((saveSets s).foldl saveSet (clearHalf s, ⟨halfOff s.dev.half + 0x100000, 1, none⟩)).1

theorem execSaveEnd_eq {s : State} (h : s.dev.hold = .save) : execSaveEnd s = .next (((saveAll s).modD fun d => { d with hold := .seal }).after
    (ceilDiv (8024 + 136 * (saveAll s).dev.commits.length) 10) (.ev .sealEnd Arg.zero)) := by
  unfold execSaveEnd
  rw [if_neg (not_not.2 h)]
  rfl

theorem saveEnd_spec {s : State} (h : s.dev.hold = .save) :
    ∃ t, execSaveEnd s = .next t ∧ t.dev.hold = .seal ∧ t.has (.ev .sealEnd Arg.zero) = true ∧ t.core = s.core := by
  have hcore : (saveAll s).core = s.core := foldl_saveSet_core ..
  have hexec := execSaveEnd_eq h
  generalize saveAll s = s1 at hcore hexec
  exact ⟨_, hexec, rfl, has_after .., hcore⟩

/-! Bring-up (R317, R402). -/

theorem scrubAt_frame (lines line n : Nat) (s : State) : (scrubAt lines line n s).core = s.core ∧ (scrubAt lines line n s).isl = s.isl ∧
    (scrubAt lines line n s).mem = s.mem ∧ (scrubAt lines line n s).dev = s.dev := ⟨rfl, rfl, rfl, rfl⟩

theorem startScrub_frame (s : State) : (startScrub s).core = s.core ∧ (startScrub s).isl = s.isl ∧ (startScrub s).mem = s.mem ∧
    (startScrub s).dev = s.dev := by
  unfold startScrub
  split
  · exact ⟨rfl, rfl, rfl, rfl⟩
  · split
    · exact ⟨rfl, rfl, rfl, rfl⟩
    · obtain ⟨hc, hi, hm, hd⟩ := scrubAt_frame lpddrLines (4 * tierLines + Config.lpddrLine 0) 0
        (islIds.foldl (fun s y => scrubAt tierLines (y.val * tierLines) 0 s) s)
      refine ⟨hc.trans ?_, hi.trans ?_, hm.trans ?_, hd.trans ?_⟩
      · exact foldl_keeps (·.core) (fun s y => (scrubAt_frame tierLines _ 0 s).1) islIds s
      · exact foldl_keeps (·.isl) (fun s y => (scrubAt_frame tierLines _ 0 s).2.1) islIds s
      · exact foldl_keeps (·.mem) (fun s y => (scrubAt_frame tierLines _ 0 s).2.2.1) islIds s
      · exact foldl_keeps (·.dev) (fun s y => (scrubAt_frame tierLines _ 0 s).2.2.2) islIds s

/-- The image of a bank is good. -/
def goodBank (s : State) (b : Bool) : Bool := fwWhyOf s.dev.idHash s.dev.fuse (fwBank s.dev b) == 0

/-- The bank that bring-up tries first, if it is good, else the other. -/
def bootBank (s : State) : Bool := if goodBank s s.dev.fwAct then s.dev.fwAct else !s.dev.fwAct

/-- The machine in step 1 with its firmware. -/
def takeBank (s : State) : State :=
  s.modD fun d => { d with fwAct := bootBank s, fuse := max d.fuse (fwSvn (fwBank d (bootBank s))), bootStep := 1 }

/-- Bring-up stops with a status. -/
def bootStops (n : Nat) (s : State) : State := s.modD fun d => { d with boot := BitVec.ofNat 8 n }

/-- Training of the links: each of three may fail. -/
def trainLinks (s : State) : Out :=
  let s4 := s.pick.2.pick.2.pick.2
  if s.pick.1 = 0 then .next (bootStops 2 s4)
  else if s.pick.2.pick.1 = 0 then .next (bootStops 3 (s4.modD fun d => { d with bootStep := 2 }))
  else if s.pick.2.pick.2.pick.1 = 0 then .next (bootStops 4 (s4.modD fun d => { d with bootStep := 3 }))
  else .next (startScrub (s4.modD fun d => { d with bootStep := 4 }))

/-- Bring-up from a state. -/
def bringUp (s : State) : Out :=
  if !goodBank s s.dev.fwAct && !goodBank s (!s.dev.fwAct) then .next (bootStops 1 s) else trainLinks (takeBank s)

theorem execPowerGood_eq {s : State} (h : s.dev.hold = .run ∨ s.dev.hold = .done) :
    execPowerGood s = bringUp (if s.dev.hold = .done then coldStart s else s) := by
  unfold execPowerGood
  rw [if_neg (by rintro ⟨h1, h2⟩; exact h.elim h1 h2)]
  rfl

/-- Where the training of the links ends: nothing but the registers of bring-up has changed. -/
theorem trainLinks_spec (s : State) : ∃ t, trainLinks s = .next t ∧ t.core = s.core ∧ t.isl = s.isl ∧ t.mem = s.mem ∧
    t.dev.fwAct = s.dev.fwAct ∧ t.dev.fuse = s.dev.fuse ∧ ((t.dev.bootStep = 4 ∧ t.dev.boot = s.dev.boot) ∨
      (t.dev.boot = BitVec.ofNat 8 2 ∧ t.dev.bootStep = s.dev.bootStep) ∨
      ∃ n, n ∈ [3, 4] ∧ t.dev.boot = BitVec.ofNat 8 n ∧ t.dev.bootStep = n - 1) := by
  unfold trainLinks
  dsimp only
  split
  · exact ⟨_, rfl, rfl, rfl, rfl, rfl, rfl, .inr (.inl ⟨rfl, rfl⟩)⟩
  · split
    · exact ⟨_, rfl, rfl, rfl, rfl, rfl, rfl, .inr (.inr ⟨3, by simp, rfl, rfl⟩)⟩
    · split
      · exact ⟨_, rfl, rfl, rfl, rfl, rfl, rfl, .inr (.inr ⟨4, by simp, rfl, rfl⟩)⟩
      · obtain ⟨hc, hi, hm, hd⟩ := startScrub_frame (s.pick.2.pick.2.pick.2.modD fun d => { d with bootStep := 4 })
        exact ⟨_, rfl, hc, hi, hm, (congrArg DevSt.fwAct hd :), (congrArg DevSt.fuse hd :),
          .inl ⟨(congrArg DevSt.bootStep hd :), (congrArg DevSt.boot hd :)⟩⟩

theorem bringUp_good {s : State} (h : goodBank s (bootBank s) = true) : bringUp s = trainLinks (takeBank s) := by
  unfold bringUp
  refine if_neg fun hn => ?_
  rw [Bool.and_eq_true, Bool.not_eq_true', Bool.not_eq_true'] at hn
  unfold bootBank at h
  rw [hn.1, if_neg Bool.false_ne_true, hn.2] at h
  exact Bool.false_ne_true h

theorem bringUp_frame (s : State) : ∃ t, bringUp s = .next t ∧ t.core = s.core ∧ t.isl = s.isl ∧ t.mem = s.mem := by
  unfold bringUp
  split
  · exact ⟨_, rfl, rfl, rfl, rfl⟩
  · obtain ⟨t, ht, hc, hi, hm, -⟩ := trainLinks_spec (takeBank s)
    exact ⟨t, ht, hc, hi, hm⟩

theorem coldStart_mem (s : State) (a : Nat) :
    memRd (coldStart s).mem a = if holdKey 0 ≤ a ∧ a < holdKey 0x20000000 then memRd s.mem a else 0 := by
  have h := memRd_filter s.mem (fun k => decide (holdKey 0 ≤ k) && decide (k < holdKey 0x20000000)) a
  refine Eq.trans ?_ (h.trans ?_)
  · rfl
  · simp only [Bool.and_eq_true, decide_eq_true_iff]

/-- The fences that the fence log names are set, and its records logged: no core and no boot step changes. -/
theorem fenceFromLog_core (s : State) : (fenceFromLog s).core = s.core := by
  unfold fenceFromLog
  refine foldl_keeps (·.core) (fun s r => ?_) _ s
  dsimp only
  split
  · rfl
  · rfl

theorem logErr_core (kind unit : Nat) (y : Isl) (val : W64) (rsn : Nat) (s : State) : (logErr kind unit y val rsn s).core = s.core := by
  unfold logErr
  dsimp only
  split
  · exact (flogAppend_frame ..).2.1
  · rfl

theorem hostConfigSpaceRead_spec {s : State} (h4 : s.dev.bootStep = 4) (h0 : s.dev.boot = 0) :
    ∃ t, execHostConfigSpaceRead s = .next t ∧ t.core = s.core ∧
      ((t.dev.boot = 5 ∧ t.mem = s.mem ∧ t.dev.bootStep = 4) ∨ (t.dev.boot = 0x80 ∧ t.dev.bootStep = 5)) := by
  have hbuild : (fenceFromLog (buildReport s.pick.2)).core = s.core := fenceFromLog_core (buildReport s.pick.2)
  unfold execHostConfigSpaceRead
  rw [if_neg (by rw [h4, h0]; simp)]
  dsimp only
  split
  · exact ⟨_, rfl, rfl, .inl ⟨rfl, rfl, h4⟩⟩
  · refine ⟨_, rfl, ?_, .inr ⟨rfl, rfl⟩⟩
    generalize fenceFromLog (buildReport s.pick.2) = s2 at hbuild ⊢
    rw [← hbuild]
    refine Eq.trans (b := (if _ then _ else s2 : State).core) rfl ?_
    split
    · exact logErr_core ..
    · rfl

/-! One core after another. -/

/-- In a pass over cores, of which each step may change the others by R alone, a core ends as its own step leaves it. -/
theorem foldl_own {f : State → CoreId → State} {R P : CoreSt → CoreSt → Prop} (hrefl : ∀ k, R k k)
    (htrans : ∀ i j k, R i j → R j k → R i k) (hother : ∀ s d c, c ≠ d → R (s.core.get c) ((f s d).core.get c))
    (hpre : ∀ i j k, R i j → P j k → P i k) (hpost : ∀ i j k, P i j → R j k → P i k) {c : CoreId}
    (hown : ∀ s, P (s.core.get c) ((f s c).core.get c)) {l : List CoreId} (hnodup : l.Nodup) (hc : c ∈ l) (s : State) :
    P (s.core.get c) ((l.foldl f s).core.get c) := by
  have hrest (l : List CoreId) (hno : c ∉ l) (s : State) : R (s.core.get c) ((l.foldl f s).core.get c) := by
    induction l generalizing s with
    | nil => exact hrefl _
    | cons d l ih =>
      rw [List.mem_cons, not_or] at hno
      exact htrans _ _ _ (hother s d c hno.1) (ih hno.2 _)
  induction l generalizing s with
  | nil => exact absurd hc List.not_mem_nil
  | cons d l ih =>
    obtain ⟨hd, hl⟩ := List.nodup_cons.1 hnodup
    rcases List.mem_cons.1 hc with rfl | hc
    · exact hpost _ _ _ (hown s) (hrest l hd _)
    · exact hpre _ _ _ (hother s d c fun h => hd (h ▸ hc)) (ih hl hc _)

/-! The loss of the supply (R366, R368). -/

/-- Pushes that land change of their core what is in flight alone. -/
structure PendOnly (c : CoreId) (s t : State) : Prop where
  own : ∃ p, t.core.get c = { s.core.get c with pend := p }
  mem : t.mem = s.mem
  tick : t.tick = s.tick

namespace PendOnly

variable {c : CoreId} {s t u : State}

theorem trans (h : PendOnly c s t) (h' : PendOnly c t u) : PendOnly c s u := by
  obtain ⟨p, hp⟩ := h.own
  obtain ⟨q, hq⟩ := h'.own
  exact ⟨⟨q, by rw [hq, hp]⟩, h'.mem.trans h.mem, h'.tick.trans h.tick⟩

theorem of_eq (h : t.core = s.core) (hm : t.mem = s.mem) (ht : t.tick = s.tick) : PendOnly c s t :=
  ⟨⟨(s.core.get c).pend, by rw [h]⟩, hm, ht⟩

theorem foldl {α : Type} {f : State → α → State} (hf : ∀ (s : State) a, PendOnly c s (f s a)) (l : List α) (s : State) :
    PendOnly c s (l.foldl f s) := by
  induction l generalizing s with
  | nil => exact of_eq rfl rfl rfl
  | cons a l ih => exact (hf s a).trans (ih _)

theorem modC (s : State) (p : CoreSt → List Delivery) : PendOnly c s (s.modC c fun k => { k with pend := p k }) :=
  ⟨⟨_, State.modC_get s c fun k => { k with pend := p k }⟩, rfl, rfl⟩

theorem modL (s : State) (n : Nat) (f : Launch → Launch) : PendOnly c s (s.modL n f) := by
  refine of_eq (modL_core ..) (modL_mem ..) ?_
  unfold State.modL
  split
  · rfl
  · rfl

end PendOnly

theorem pendOnly_countPurged (c : CoreId) (cx : BitVec 7) (p : BitVec 16) (n : Nat) (s : State) : PendOnly c s (countPurged cx p n s) :=
  .of_eq rfl rfl rfl

theorem pendOnly_landPush (c : CoreId) (x : Delivery) (s : State) : PendOnly c s (landPush c x s) := by
  unfold landPush
  split
  · dsimp only
    split
    · exact ((PendOnly.modC s _).trans (pendOnly_countPurged ..)).trans (.modC _ _)
    · split
      · split
        · exact ((PendOnly.modC s _).trans (.modL ..)).trans (.modC _ _)
        · exact (PendOnly.modC s _).trans (.modC _ _)
      · exact (PendOnly.modC s _).trans (.modC _ _)
  · exact .of_eq rfl rfl rfl

theorem pendOnly_abandonHop (c : CoreId) (s : State) (o : HalOp) : PendOnly c s (abandonHop s o) := by
  unfold abandonHop
  dsimp only
  split
  · exact .of_eq rfl rfl rfl
  · exact .of_eq rfl rfl rfl

/-- A core that is abandoned: nothing is under way at it, and its registers and released stores stand. -/
theorem abandonCore_own (c : CoreId) (s : State) : let t := abandonCore c s
    t.mem = s.mem ∧ t.tick = s.tick ∧ (t.core.get c).wst = [] ∧ (t.core.get c).r = (s.core.get c).r ∧
    (t.core.get c).run = (s.core.get c).run ∧ (t.core.get c).sto = (s.core.get c).sto := by
  intro t
  unfold t abandonCore
  dsimp only
  generalize hs1 : landPushes c (fun _ => true) s = s1
  have h1 : PendOnly c s s1 := hs1 ▸ .foldl (fun s x => pendOnly_landPush c x s) _ s
  generalize hs2 : (s1.dev.hops.filter (·.core == c)).foldl abandonHop s1 = s2
  obtain ⟨⟨p, hp⟩, hm, ht⟩ : PendOnly c s s2 := h1.trans (hs2 ▸ .foldl (fun s o => pendOnly_abandonHop c s o) _ s1)
  refine ⟨hm, ht, ?_⟩
  rw [State.modC_get]
  exact ⟨rfl, (congrArg CoreSt.r hp :), (congrArg CoreSt.run hp :), (congrArg CoreSt.sto hp :)⟩

/-- A bound core goes dark at its checkpoint. -/
def darken (c : CoreId) (s : State) : State :=
  if (s.core.get c).run = .unbound then s
  else (rollback c s).modC c fun k => { k.count 12 1 with run := .dark, rec_ := none }

/-- A compute core stops at the loss of the supply; the steps of what its checkpoint covers stay due. -/
def lossStop (s : State) (c : CoreId) : State :=
  let k := s.core.get c
  if isMgmt c then s
  else
    let ops := k.covered
    let s1 := if k.run = .unbound then s else (rollback c s).modC c fun k => { k.count 12 1 with run := .dark, rec_ := none }
    let pend := (s1.core.get c).pend
    let s2 := (abandonCore c s1).modC c fun k => { k with loads := ops, slew := .cold, pend := pend }
    let s3 : State := { s2 with agenda := s2.agenda.filter fun e =>
      !(e.due == .mcyc c || e.due == .array c || e.due == .edge c || e.due == .ev .rampWindow (argC c) || e.due == .ev .rampDown (argC c)) }
    let kept := s.agenda.filter fun e => copDue c (ops.map (·.id)) e.due
    { s3 with agenda := kept.foldl insEntry s3.agenda }

theorem execSupplyLoss_eq {s : State} (h : s.dev.hold = .run) : execSupplyLoss s =
    .next (((coreIds.foldl lossStop s).modD fun d => { d with hold := .quiesce, lossAt := s.tick }).after (40 * Config.usTicks)
      (.ev .quiesceEnd Arg.zero)) := by
  unfold execSupplyLoss
  rw [if_neg (not_not.2 h)]
  rfl

/-- A compute core stops, and of what is due something stays. -/
theorem lossStop_eq {c : CoreId} (h : isMgmt c = false) (s : State) : ∃ a, lossStop s c =
    { (abandonCore c (darken c s)).modC c fun k =>
        { k with loads := (s.core.get c).covered, slew := .cold, pend := ((darken c s).core.get c).pend } with agenda := a } := by
  refine ⟨(lossStop s c).agenda, ?_⟩
  unfold lossStop
  dsimp only
  rw [if_neg (by rw [h]; exact Bool.false_ne_true)]
  rfl

/-- How a core has stopped at the loss of the supply. -/
def LossStopped (k j : CoreSt) : Prop := j.wst = [] ∧ (k.run ≠ .unbound → j.run = .dark ∧ j.r = k.ck ∧ j.sto = k.sto ∧ j.loads = k.covered)

theorem darken_spec (c : CoreId) (s : State) : let t := darken c s
    t.mem = s.mem ∧ t.tick = s.tick ∧ OnCore c s t ∧
    ((s.core.get c).run ≠ .unbound → (t.core.get c).run = .dark ∧ (t.core.get c).r = (s.core.get c).ck ∧ (t.core.get c).sto = (s.core.get c).sto) := by
  intro t
  have htick : (rollback c s).tick = s.tick := by
    unfold rollback undoPops
    dsimp only
    split
    · unfold State.modL
      split
      · rfl
      · rfl
    · rfl
  unfold t darken
  split
  next h => exact ⟨rfl, rfl, .refl c s, fun hn => absurd h hn⟩
  · obtain ⟨hr, -, -, -, -, hmem, -⟩ := rollback_spec c s
    obtain ⟨-, hsto, -⟩ := rollback_loads_sto_launch c s
    refine ⟨hmem, htick, (onCore_rollback c s).trans (.modC c _ _), fun _ => ?_⟩
    rw [State.modC_get]
    exact ⟨rfl, hr, hsto⟩

theorem OnCore.agenda {c : CoreId} {s t : State} (h : OnCore c s t) (a : List Entry) : OnCore c s { t with agenda := a } :=
  ⟨h.others, h.blocks⟩

theorem lossStop_frame (s : State) (c : CoreId) : (lossStop s c).mem = s.mem ∧ (lossStop s c).tick = s.tick ∧ OnCore c s (lossStop s c) := by
  cases hc : isMgmt c with
  | true =>
    have hsame : lossStop s c = s := if_pos hc
    rw [hsame]
    exact ⟨rfl, rfl, .refl c s⟩
  | false =>
    obtain ⟨a, ha⟩ := lossStop_eq hc s
    obtain ⟨hm, ht, ho, -⟩ := darken_spec c s
    obtain ⟨hm', ht', -⟩ := abandonCore_own c (darken c s)
    have ho' := ho.trans (onCore_abandonCore c (darken c s))
    rw [ha]
    generalize abandonCore c (darken c s) = s1 at hm' ht' ho' ⊢
    refine ⟨hm'.trans hm, ht'.trans ht, ho'.trans ?_⟩
    exact (OnCore.modC c s1 _).agenda _

theorem lossStop_own {c : CoreId} (h : isMgmt c = false) (s : State) : LossStopped (s.core.get c) ((lossStop s c).core.get c) := by
  obtain ⟨a, ha⟩ := lossStop_eq h s
  obtain ⟨-, -, -, hdark⟩ := darken_spec c s
  obtain ⟨-, -, hwst, hr, hrun, hsto⟩ := abandonCore_own c (darken c s)
  rw [ha]
  generalize abandonCore c (darken c s) = s1 at hwst hr hrun hsto ⊢
  have hcore := State.modC_get s1 c fun k =>
    { k with loads := (s.core.get c).covered, slew := .cold, pend := ((darken c s).core.get c).pend }
  refine ⟨(congrArg CoreSt.wst hcore :).trans hwst, fun hb => ?_⟩
  obtain ⟨hrun', hr', hsto'⟩ := hdark hb
  exact ⟨(congrArg CoreSt.run hcore :).trans (hrun.trans hrun'), (congrArg CoreSt.r hcore :).trans (hr.trans hr'),
    (congrArg CoreSt.sto hcore :).trans (hsto.trans hsto'), (congrArg CoreSt.loads hcore :)⟩

theorem supplyLoss_core {c : CoreId} (h : isMgmt c = false) (s : State) : LossStopped (s.core.get c) ((coreIds.foldl lossStop s).core.get c) := by
  refine foldl_own (R := fun k j => ∃ b, j = { k with preempt := b }) (P := LossStopped) (fun k => ⟨_, rfl⟩) ?_
    (fun s d c hc => (lossStop_frame s d).2.2.others c hc) ?_ ?_ (lossStop_own h) coreIds_nodup (mem_coreIds c) s
  · rintro i j k ⟨b, rfl⟩ ⟨b', rfl⟩
    exact ⟨b', rfl⟩
  · rintro i j k ⟨b, rfl⟩ hp
    exact hp
  · rintro i j k hp ⟨b, rfl⟩
    exact hp

theorem supplyLoss_spec {s : State} (h : s.dev.hold = .run) : ∃ t, execSupplyLoss s = .next t ∧ t.dev.hold = .quiesce ∧
    t.dev.lossAt = s.tick ∧ t.mem = s.mem ∧ (∀ c, isMgmt c = false → LossStopped (s.core.get c) (t.core.get c)) ∧
    ∃ e ∈ t.agenda, e.due = .ev .quiesceEnd Arg.zero ∧ e.at_ = s.tick + 40 * Config.usTicks := by
  have hmem : (coreIds.foldl lossStop s).mem = s.mem := foldl_keeps (·.mem) (fun s c => (lossStop_frame s c).1) coreIds s
  have htick : (coreIds.foldl lossStop s).tick = s.tick := foldl_keeps (·.tick) (fun s c => (lossStop_frame s c).2.1) coreIds s
  have hcore := fun c (hc : isMgmt c = false) => supplyLoss_core hc s
  have hexec := execSupplyLoss_eq h
  generalize coreIds.foldl lossStop s = s1 at hmem htick hcore hexec
  exact ⟨_, hexec, rfl, rfl, hmem, hcore, _, (mem_agenda_at ..).2 (.inl rfl), rfl, congrArg (· + 40 * Config.usTicks) htick⟩

/-! The end of QUIESCE (R368). -/

/-- What settles a core changes no other core and takes no time. -/
structure SettlesOnly (c : CoreId) (s t : State) : Prop where
  others : ∀ d, d ≠ c → t.core.get d = s.core.get d
  tick : t.tick = s.tick

namespace SettlesOnly

variable {c : CoreId} {s t u : State}

theorem trans (h : SettlesOnly c s t) (h' : SettlesOnly c t u) : SettlesOnly c s u :=
  ⟨fun d hd => (h'.others d hd).trans (h.others d hd), h'.tick.trans h.tick⟩

theorem of_eq (h : t.core = s.core) (ht : t.tick = s.tick) : SettlesOnly c s t := ⟨fun d _ => by rw [h], ht⟩

theorem beside (h : s.Beside t) : SettlesOnly c s t := of_eq h.1 h.2.2.2.2.1

theorem modD (s : State) (f : DevSt → DevSt) : SettlesOnly c s (s.modD f) := of_eq rfl rfl

theorem modC (s : State) (f : CoreSt → CoreSt) : SettlesOnly c s (s.modC c f) := ⟨fun _ hd => State.modC_get_ne s f hd, rfl⟩

theorem foldl {α : Type} {f : State → α → State} (hf : ∀ (s : State) a, SettlesOnly c s (f s a)) (l : List α) (s : State) :
    SettlesOnly c s (l.foldl f s) := by
  induction l generalizing s with
  | nil => exact of_eq rfl rfl
  | cons a l ih => exact (hf s a).trans (ih _)

end SettlesOnly

theorem settles_claimLine (c : CoreId) (k : Option SlotKey) (line : Nat) (s : State) : SettlesOnly c s (claimLine k line s) := by
  refine .of_eq (saveKeeps_claimLine k line s).1 ?_
  have hretag (x : SlotKey) (s : State) : (retag x line s).tick = s.tick := by
    unfold retag
    refine foldl_keeps (·.tick) (fun s y => ?_) islIds s
    rfl
  unfold claimLine
  split
  · split
    · rfl
    · rfl
  · split
    · rfl
    next x _ =>
      have hput (b : Prop) [Decidable b] (v : Nat) : (if b then s else cohWr s (line * 128) 128 v).tick = s.tick := by
        split
        · rfl
        · exact (beside_cohWr s (line * 128) 128 v).2.2.2.2.1
      exact (hretag x _).trans (hput _ _)

theorem settles_keyWr (c : CoreId) (s : State) (k : Option SlotKey) (pa n v : Nat) : SettlesOnly c s (keyWr s k pa n v) := by
  have hline (pa n v : Nat) (s : State) : SettlesOnly c s (lineWr k pa n v s) := by
    unfold lineWr
    exact (settles_claimLine ..).trans (.beside (beside_cohWr ..))
  unfold keyWr
  dsimp only
  split
  · exact hline ..
  · exact (hline ..).trans (hline ..)

theorem settles_setDirty (c d : CoreId) (va : Nat) (s : State) : SettlesOnly c s (setDirty d va s) := by
  unfold setDirty
  split
  · exact .of_eq rfl rfl
  · split
    · split
      · exact .of_eq rfl rfl
      · exact .beside (beside_cohWr ..)
    · exact .of_eq rfl rfl

theorem settles_settleStores (c : CoreId) (p : Sto → Bool) (s : State) : SettlesOnly c s (settleStores c p s) := by
  unfold settleStores
  dsimp only
  refine SettlesOnly.trans (.foldl (fun s t => ?_) _ s) (.modC _ _)
  split
  · exact (settles_setDirty ..).trans (.foldl (fun s x => settles_keyWr ..) _ _)
  · exact .of_eq rfl rfl

theorem settles_takeRecord (c : CoreId) (r depth : Nat) (host : Bool) (issuer : Option (BitVec 7)) (s : State) :
    SettlesOnly c s (takeRecord r depth host issuer s).2 := by
  have hhals (cx : BitVec 7) (stw : Nat) (hs : List HalDef) (s : State) : SettlesOnly c s (createHals cx stw hs s) := by
    unfold createHals
    refine .foldl (fun s h => ?_) hs s
    exact .of_eq rfl rfl
  unfold takeRecord
  split
  · exact .of_eq rfl rfl
  · split
    · exact .of_eq rfl rfl
    · split
      · exact .of_eq rfl rfl
      · split
        · exact .of_eq rfl rfl
        · dsimp only
          refine SettlesOnly.trans ?_ (hhals ..)
          exact .of_eq rfl rfl

theorem settles_launchAnswer (c d : CoreId) (a : W64) (s : State) : SettlesOnly c s (launchAnswer d a s).2 := by
  unfold launchAnswer
  dsimp only
  split
  · exact .of_eq rfl rfl
  · exact settles_takeRecord ..

theorem settles_settleOp (c : CoreId) (s : State) (o : Cop) : SettlesOnly c s (settleOp c s o) := by
  have hstores := settles_settleStores c (fun t => decide (t.seq < o.seq)) s
  unfold settleOp
  dsimp only
  generalize settleStores c (fun t => decide (t.seq < o.seq)) s = s1 at hstores ⊢
  have hput (new : Nat) : SettlesOnly c s (if o.sp = .glob then keyWr (setDirty c o.va.toNat s1) (s1.coreKey c) o.addr o.z new
      else { s1 with mem := memWrs s1.mem (cellsOf o.addr new o.z) }) := by
    split
    · exact hstores.trans ((settles_setDirty ..).trans (settles_keyWr ..))
    · exact hstores.trans (.of_eq rfl rfl)
  split
  · exact hstores.trans (.modC _ _)
  · exact hstores.trans (.modC _ _)
  · exact hstores.trans (.modC _ _)
  · exact hstores.trans (.modC _ _)
  · exact (hput _).trans (.modC _ _)
  · exact hstores.trans (.modC _ _)
  · exact hstores.trans (.modC _ _)
  · exact (hstores.trans (.modD s1 _)).trans (.modC _ _)
  · exact (hstores.trans (.modD s1 _)).trans (.modC _ _)
  · exact (hstores.trans (settles_launchAnswer ..)).trans (.modC _ _)
  · exact hstores

theorem settles_settleCore (s : State) (c : CoreId) : SettlesOnly c s (settleCore s c) := by
  unfold settleCore
  exact ((SettlesOnly.foldl (fun s o => settles_settleOp c s o) _ s).trans (settles_settleStores ..)).trans (.modC _ _)

/-- Rings that land leave what a core has released. -/
theorem landAll_sto (k : CoreSt) (t : Nat) : (k.landAll t).sto = k.sto := by
  have hring (k : CoreSt) (e : Eff) : (k.landRing e).sto = k.sto := by
    unfold CoreSt.landRing
    split
    · rfl
    · rfl
  have hfold (l : List Delivery) (k : CoreSt) : (l.foldl (fun k d => k.landRing d.eff) k).sto = k.sto := by
    induction l generalizing k with
    | nil => rfl
    | cons d l ih => exact (ih _).trans (hring k d.eff)
  exact hfold _ k

/-- A core has nothing left to perform. -/
def Settled (j : CoreSt) : Prop := j.sto = [] ∧ j.loads = []

theorem settleCore_own (s : State) (c : CoreId) : Settled ((settleCore s c).core.get c) := by
  unfold settleCore
  dsimp only
  generalize (s.core.get c).loads.foldl (settleOp c) s = s1
  rw [State.modC_get]
  refine ⟨(landAll_sto ..).trans ?_, rfl⟩
  unfold settleStores
  dsimp only
  rw [State.modC_get]
  exact List.filter_eq_nil_iff.2 fun x _ => by simp

theorem settleAll_core {c : CoreId} (h : isMgmt c = false) (s : State) :
    Settled (((coreIds.filter fun c => !isMgmt c).foldl settleCore s).core.get c) := by
  refine foldl_own (R := fun k j => j = k) (P := fun _ j => Settled j) (fun _ => rfl) (fun i j k h1 h2 => h2.trans h1)
    (fun s d c hc => (settles_settleCore s d).others c hc) (fun _ _ _ _ hp => hp) (fun _ _ _ hp he => he ▸ hp)
    (fun s => settleCore_own s c) (coreIds_nodup.filter _) ?_ s
  exact List.mem_filter.2 ⟨mem_coreIds c, by rw [h]; rfl⟩

/-- SAVE begins for the half that is not the newest sealed one. -/
def startSave (s : State) : State :=
  let e := match newestSealed s with | some (e, b) => (e + 1, !b) | none => (1, false)
  s.modD fun d => { d with hold := .save, epoch := BitVec.ofNat 32 e.1, half := e.2, commits := [], saveCtx := [] }

theorem execQuiesceEnd_eq {s : State} (h : s.dev.hold = .quiesce) :
    let s2 := startSave ((coreIds.filter fun c => !isMgmt c).foldl settleCore s)
    execQuiesceEnd s = .next (s2.after (saveTicks s2) (.ev .saveEnd Arg.zero)) := by
  unfold execQuiesceEnd
  rw [if_neg (not_not.2 h)]
  rfl

theorem saveTicks_bounds (s : State) : 0 < saveTicks s ∧ saveTicks s ≤ 300 * Config.usTicks := by
  have hus : 0 < 300 * Config.usTicks := by decide
  unfold saveTicks
  refine ⟨Nat.lt_min.2 ⟨hus, ?_⟩, Nat.min_le_left ..⟩
  generalize (List.foldl saveSet (s, ⟨0, 1, none⟩) (saveSets s)).2.pos = p
  unfold ceilDiv
  omega

theorem quiesceEnd_spec {s : State} (h : s.dev.hold = .quiesce) : ∃ t, execQuiesceEnd s = .next t ∧ t.dev.hold = .save ∧
    (∀ c, isMgmt c = false → (t.core.get c).sto = [] ∧ (t.core.get c).loads = []) ∧
    ∃ e ∈ t.agenda, e.due = .ev .saveEnd Arg.zero ∧ s.tick < e.at_ ∧ e.at_ ≤ s.tick + 300 * Config.usTicks := by
  have htick : ((coreIds.filter fun c => !isMgmt c).foldl settleCore s).tick = s.tick :=
    foldl_keeps (·.tick) (fun s c => (settles_settleCore s c).tick) _ s
  have hcore := fun c (hc : isMgmt c = false) => settleAll_core hc s
  have hexec := execQuiesceEnd_eq h
  generalize (coreIds.filter fun c => !isMgmt c).foldl settleCore s = s1 at htick hcore hexec
  obtain ⟨hpos, hle⟩ := saveTicks_bounds (startSave s1)
  have hs2 : (startSave s1).tick = s.tick := htick
  refine ⟨_, hexec, rfl, hcore, _, (mem_agenda_at ..).2 (.inl rfl), rfl, ?_⟩
  dsimp only
  rw [hs2]
  omega

/-- Settles O58: the hold-up sequence, one phase after another, and bring-up. -/
theorem holdUpSteps : Obligations.HoldUpSteps := by
  unfold Obligations.HoldUpSteps
  refine ⟨fun s => ?_, fun s => ?_⟩
  · refine ⟨fun h => if_pos h, fun h => ?_, fun h => if_pos h, quiesceEnd_spec, fun h => if_pos h, saveEnd_spec, fun h => if_pos h, sealEnd_spec⟩
    obtain ⟨t, ht, hh, hl, hm, hcore, hdue⟩ := supplyLoss_spec h
    refine ⟨t, ht, hh, hl, hm, fun c hc => ⟨(hcore c hc).1, fun hrun => ?_⟩, hdue⟩
    obtain ⟨hr, hck, hsto, hloads⟩ := (hcore c hc).2 hrun
    refine ⟨hr, hck, hsto, fun o => ?_⟩
    rw [hloads, CoreSt.covered, List.mem_filter, decide_eq_true_iff]
  · intro good b
    refine ⟨fun h1 h2 => if_pos ⟨h1, h2⟩, fun hrun h1 h2 => ?_, fun hrun hb => ?_, fun hdone => ?_, fun h => if_pos h, hostConfigSpaceRead_spec⟩
    · refine ⟨bootStops 1 s, (execPowerGood_eq (.inl hrun)).trans ?_, rfl, rfl⟩
      rw [hrun, if_neg (by simp)]
      unfold bringUp
      exact if_pos (by
        rw [show goodBank s s.dev.fwAct = false from h1, show goodBank s (!s.dev.fwAct) = false from h2]
        rfl)
    · obtain ⟨t, ht, hc, -, hm, hact, hfuse, hboot⟩ := trainLinks_spec (takeBank s)
      refine ⟨t, (execPowerGood_eq (.inl hrun)).trans ?_, hact, hfuse, hc, hm, ?_⟩
      · rw [hrun, if_neg (by simp), bringUp_good hb]
        exact ht
      · rcases hboot with hb | ⟨hb, hs⟩ | ⟨n, hn, hb, hs⟩
        · exact .inl hb
        · exact .inr ⟨2, by simp, hb, hs⟩
        · exact .inr ⟨n, List.mem_cons_of_mem _ hn, hb, hs⟩
    · obtain ⟨t, ht, hc, hi, hm⟩ := bringUp_frame (coldStart s)
      refine ⟨t, (execPowerGood_eq (.inr hdone)).trans ?_, hc, hi, fun a => ?_⟩
      · rw [if_pos hdone]
        exact ht
      · rw [hm]
        exact coldStart_mem s a

end Sys2Proof.Machine
end

section
/-! O41: the copy slots at issue (R197, R198, R203, R206, R207). -/

namespace Sys2Proof.Machine

/-! What the issue of a copy takes from its ring and its token (R194, R203). -/

/-- The core, with n bytes assigned to ring q. -/
def ringUse (q : BitVec 4) (n : Nat) (k : CoreSt) : CoreSt :=
  if q = 0 then k
  else { k with ring := k.ring.set q.toNat { k.getRing q with w := (k.getRing q).w + n, users := (k.getRing q).users + 1 } q.isLt }

/-- The ring has room for n bytes. -/
def RingFree (k : CoreSt) (q : BitVec 4) (n : Nat) : Prop := q = 0 ∨ ((k.getRing q).created = true ∧
  (k.getRing q).w + n ≤ ((k.getRing q).rc + (k.getRing q).slots) * (k.getRing q).target)

theorem assignRing_free (op : Nat) {q : BitVec 4} {n : Nat} {s : State} (h : RingFree s.me q n) :
    ∃ p, assignRing op q n s = .inr (p, s.modMe (ringUse q n)) := by
  unfold assignRing
  by_cases hq : q = 0
  · refine ⟨0, ?_⟩
    rw [if_pos hq, State.modMe, State.modC_same]
    unfold ringUse
    rw [if_pos hq]
  · obtain ⟨hc, hw⟩ := h.resolve_left hq
    refine ⟨(s.me.getRing q).w, ?_⟩
    have huse : ringUse q n = fun k : CoreSt =>
        { k with ring := k.ring.set q.toNat { k.getRing q with w := (k.getRing q).w + n, users := (k.getRing q).users + 1 } q.isLt } := by
      funext k
      exact if_neg hq
    rw [if_neg hq]
    dsimp only
    rw [if_neg (by rw [hc]; simp), if_neg (by omega), huse]
    exact congrArg (fun t => Sum.inr ((s.me.getRing q).w, t)) (State.modC_congr rfl)

/-- The core has begun a copy operation: it is counted, its token is pending, and its registers and what is in flight stand. -/
structure CopyBegun (t : BitVec 6) (k j : CoreSt) : Prop where
  cpc : j.cpc = k.cpc + 1
  tok : t ≠ 0 → j.tokPending t = true
  r : j.r = k.r
  pend : j.pend = k.pend

/-- Bytes of a ring that are assigned, and the operations that use it. -/
def RingAssigned (q : BitVec 4) (n : Nat) (k j : CoreSt) : Prop := q ≠ 0 →
  (j.getRing q).w = (k.getRing q).w + n ∧ (j.getRing q).users = (k.getRing q).users + 1

theorem ringUse_frame (q : BitVec 4) (n : Nat) (k : CoreSt) : let j := ringUse q n k
    j.cpc = k.cpc ∧ j.r = k.r ∧ j.pend = k.pend ∧ j.tok = k.tok ∧ j.nid = k.nid ∧ j.bus = k.bus ∧ j.cu0 = k.cu0 ∧ j.cu1 = k.cu1 := by
  unfold ringUse
  split
  · exact ⟨rfl, rfl, rfl, rfl, rfl, rfl, rfl, rfl⟩
  · exact ⟨rfl, rfl, rfl, rfl, rfl, rfl, rfl, rfl⟩

theorem ringUse_assigned (q : BitVec 4) (n : Nat) (k : CoreSt) : RingAssigned q n k (ringUse q n k) := by
  intro hq
  unfold ringUse
  rw [if_neg hq]
  simp [CoreSt.getRing]

theorem produce_frame (k : CoreSt) (t : BitVec 6) (src : Nat) : let j := (k.produce t src).2
    j.cpc = k.cpc ∧ j.ring = k.ring ∧ j.nid = k.nid ∧ j.bus = k.bus ∧ j.cu0 = k.cu0 ∧ j.cu1 = k.cu1 := by
  unfold CoreSt.produce
  split
  · exact ⟨rfl, rfl, rfl, rfl, rfl, rfl⟩
  · exact ⟨rfl, rfl, rfl, rfl, rfl, rfl⟩

theorem setDirty_beside (c : CoreId) (va : Nat) (s : State) : s.Beside (setDirty c va s) := by
  unfold setDirty
  split
  · exact .refl s
  · split
    · split
      · exact .refl s
      · exact beside_cohWr ..
    · exact .refl s

theorem burstDirty_beside (s : State) (w : Walk2) : s.Beside (burstDirty s w) := by
  unfold burstDirty
  split
  · exact .refl s
  · exact .foldl (fun s i => setDirty_beside ..) _ s

theorem burstDirty_mem {s : State} {w : Walk2} (h : baseSp w.dst ≠ 0) : (burstDirty s w).mem = s.mem := by
  unfold burstDirty
  rw [if_pos (.inl h)]

theorem lookNext_frame (c : CoreId) (u : Bool) (dt : Nat) (s : State) : (lookNext c u dt s).core = s.core ∧ (lookNext c u dt s).cur = s.cur ∧
    (lookNext c u dt s).mem = s.mem := by
  unfold lookNext
  dsimp only
  split
  · exact ⟨rfl, rfl, rfl⟩
  · exact ⟨rfl, rfl, rfl⟩

theorem State.me_congr {s t : State} (hc : t.core = s.core) (hm : t.cur = s.cur) : t.me = s.me := by
  unfold State.me
  rw [hc, hm]

/-! cpy and cpset (R197, R198). -/

theorem issueCopy_traps {op : Nat} {kind : CopyKind} {u : Bool} {t : Toks} {nst rng : BitVec 4} {bnd : Option Nat} {scp : BitVec 2} {s : State}
    {c : Byte} {f d : W64} (hs : s.bun.squash = false) (h : copyCheck op (kind == .cpy) (s.me.r.getN nst) s = .inl (c, f, d)) :
    issueCopy op kind u t nst rng bnd scp s = .next (takeTrap c f d s) := by
  unfold issueCopy
  rw [engineSlot_runs _ hs]
  dsimp only
  rw [h]

/-- The core, with a command behind the others of a unit. -/
def queueCopy (u : Bool) (m : CopyCmd) (k : CoreSt) : CoreSt :=
  CoreSt.setUnit { k with nid := k.nid + 1, cpc := k.cpc + 1 } u fun x => { x with buf := x.buf ++ [m] }

theorem queueCopy_spec (u : Bool) (m : CopyCmd) (k : CoreSt) : let j := queueCopy u m k
    (j.unit u).buf = (k.unit u).buf ++ [m] ∧ j.cpc = k.cpc + 1 ∧ j.r = k.r ∧ j.pend = k.pend ∧ j.tok = k.tok ∧ j.ring = k.ring := by
  cases u
  · exact ⟨rfl, rfl, rfl, rfl, rfl, rfl⟩
  · exact ⟨rfl, rfl, rfl, rfl, rfl, rfl⟩

theorem issueCopy_eq {op : Nat} {kind : CopyKind} {u : Bool} {t : Toks} {nst rng : BitVec 4} {bnd : Option Nat} {scp : BitVec 2} {s : State}
    {w : Walk2} (hs : s.bun.squash = false) (htok : s.me.tokPending t.tp = false)
    (h : copyCheck op (kind == .cpy) (s.me.r.getN nst) s = .inr w) (hfree : RingFree s.me rng w.total) :
    ∃ m, m.kind = kind ∧ m.nest = s.me.r.getN nst ∧ m.ring = rng ∧ m.bnd = bnd ∧ m.scp = scp ∧ m.tok = t.tp ∧
      let s2 := burstDirty (s.modMe (ringUse rng w.total)) w
      issueCopy op kind u t nst rng bnd scp s = .next (lookNext s.cur u 0 (s2.modMe fun _ =>
        queueCopy u m (s2.me.produce t.tp (if baseSp w.dst = 4 then 1 else 0)).2)) := by
  obtain ⟨p, hp⟩ := assignRing_free op hfree
  let s2 := burstDirty (s.modMe (ringUse rng w.total)) w
  let k := s2.me.produce t.tp (if baseSp w.dst = 4 then 1 else 0)
  refine ⟨⟨k.2.nid, s.order, s.bun.adr, kind, s.me.r.getN nst, rng, p, t.tp, k.1, s2.me.depsOf t, bnd, scp, none⟩, rfl, rfl, rfl, rfl, rfl, rfl, ?_⟩
  unfold issueCopy
  rw [engineSlot_runs _ hs]
  dsimp only
  rw [h]
  dsimp only
  rw [if_neg (by rw [htok]; exact Bool.false_ne_true), hp]
  rfl

theorem issueCopy_spec {op : Nat} {kind : CopyKind} {u : Bool} {t : Toks} {nst rng : BitVec 4} {bnd : Option Nat} {scp : BitVec 2} {s : State}
    {w : Walk2} (hs : s.bun.squash = false) (htok : s.me.tokPending t.tp = false)
    (h : copyCheck op (kind == .cpy) (s.me.r.getN nst) s = .inr w) (hfree : RingFree s.me rng w.total) :
    ∃ v m, issueCopy op kind u t nst rng bnd scp s = .next v ∧ (v.me.unit u).buf = (s.me.unit u).buf ++ [m] ∧ m.kind = kind ∧
      m.nest = s.me.r.getN nst ∧ m.ring = rng ∧ m.bnd = bnd ∧ m.scp = scp ∧ m.tok = t.tp ∧ CopyBegun t.tp s.me v.me ∧
      RingAssigned rng w.total s.me v.me ∧ (baseSp w.dst ≠ 0 → v.mem = s.mem) := by
  obtain ⟨m, h1, h2, h3, h4, h5, h6, hexec⟩ := issueCopy_eq (u := u) (bnd := bnd) (scp := scp) hs htok h hfree
  have hbeside := burstDirty_beside (s.modMe (ringUse rng w.total)) w
  have hmem2 : baseSp w.dst ≠ 0 → (burstDirty (s.modMe (ringUse rng w.total)) w).mem = s.mem := fun hn => (burstDirty_mem hn).trans rfl
  dsimp only at hexec
  generalize burstDirty (s.modMe (ringUse rng w.total)) w = s2 at hbeside hmem2 hexec
  have hme2 : s2.me = ringUse rng w.total s.me := (State.me_congr hbeside.1 hbeside.2.2.1).trans (State.modMe_me s _)
  let k := (s2.me.produce t.tp (if baseSp w.dst = 4 then 1 else 0)).2
  have hk : k = ((ringUse rng w.total s.me).produce t.tp (if baseSp w.dst = 4 then 1 else 0)).2 := by
    unfold k
    rw [hme2]
  obtain ⟨hcore, hcur, hmem⟩ := lookNext_frame s.cur u 0 (s2.modMe fun _ => queueCopy u m k)
  have hme : (lookNext s.cur u 0 (s2.modMe fun _ => queueCopy u m k)).me = queueCopy u m k :=
    (State.me_congr hcore hcur).trans (State.modMe_me s2 _)
  refine ⟨_, m, hexec, ?_⟩
  rw [hme]
  obtain ⟨hbuf, hcpc, hr, hpend, htk, hring⟩ := queueCopy_spec u m k
  obtain ⟨pcpc, pring, -, -, pcu0, pcu1⟩ := produce_frame (ringUse rng w.total s.me) t.tp (if baseSp w.dst = 4 then 1 else 0)
  obtain ⟨-, ppend, pr⟩ := CoreSt.produce_queues (ringUse rng w.total s.me) t.tp (if baseSp w.dst = 4 then 1 else 0)
  obtain ⟨ucpc, ur, upend, -, -, -, ucu0, ucu1⟩ := ringUse_frame rng w.total s.me
  rw [← hk] at pcpc pring pcu0 pcu1 ppend pr
  refine ⟨hbuf.trans ?_, h1, h2, h3, h4, h5, h6, ⟨?_, fun ht => ?_, hr.trans (pr.trans ur), hpend.trans (ppend.trans upend)⟩, fun hq => ?_,
    fun hn => hmem.trans (hmem2 hn)⟩
  · refine congrArg (fun x : CopyUnit => x.buf ++ [m]) ?_
    unfold CoreSt.unit
    rw [pcu0, pcu1, ucu0, ucu1]
  · rw [hcpc, pcpc, ucpc]
  · unfold CoreSt.tokPending
    rw [htk, hk]
    exact CoreSt.produce_tokPending _ _ ht
  · have hget : (queueCopy u m k).getRing rng = (ringUse rng w.total s.me).getRing rng := by
      unfold CoreSt.getRing
      rw [hring, pring]
    rw [hget]
    exact ringUse_assigned rng w.total s.me hq

/-! The broadcast bus (R206, R207). -/

/-- The bus tick at which the window of an operation opens that issues at a tick. -/
theorem busStart_spec (n : Nat) : busStart n % 4 = 0 ∧ n + 32 ≤ busStart n ∧ busStart n < n + 36 := by
  unfold busStart ceilDiv
  omega

/-- What an operation of the bus makes due: nothing but the agenda changes. -/
def DueOnly (s t : State) : Prop := t.core = s.core ∧ t.cur = s.cur ∧ t.mem = s.mem

theorem dueOnly_beatAt (y : Isl) (ch n : Nat) (s : State) : DueOnly s (beatAt y ch n s) := by
  unfold beatAt
  dsimp only
  split
  · exact ⟨rfl, rfl, rfl⟩
  · exact ⟨rfl, rfl, rfl⟩

theorem dueOnly_foldl {f : State → Nat → State} (hf : ∀ s i, DueOnly s (f s i)) (l : List Nat) (s : State) : DueOnly s (l.foldl f s) := by
  induction l generalizing s with
  | nil => exact ⟨rfl, rfl, rfl⟩
  | cons i l ih =>
    obtain ⟨h1, h2, h3⟩ := hf s i
    obtain ⟨k1, k2, k3⟩ := ih (f s i)
    exact ⟨k1.trans h1, k2.trans h2, k3.trans h3⟩

/-- An operation of the bus, in one of its two directions, has opened its window. -/
structure BusOpens (drive : Bool) (ch total : Nat) (q : BitVec 4) (t : BitVec 6) (tick : Nat) (k j : CoreSt) (o : BusOp) : Prop where
  bus : j.bus = k.bus ++ [o]
  drive : o.drive = drive
  ch : o.ch.toNat = ch
  total : o.total = total
  ring : o.ring = q
  tok : o.tok = t
  aligned : o.b0 % 4 = 0
  opens : tick + 32 ≤ o.b0
  soon : o.b0 < tick + 36

/-- The core, with an operation of the bus behind the others. -/
def queueBus (o : BusOp) (k : CoreSt) : CoreSt := { k with nid := k.nid + 1, cpc := k.cpc + 1, bus := k.bus ++ [o] }

theorem issueBus_spec (drive : Bool) {chw : W64} (hch : chw.toNat < 4) (nest : BitVec 512) (n p : Nat) (q : BitVec 4) (t : Toks) (s : State) :
    let s1 := issueBus drive (chw.setWidth 2) nest n p q t s
    s1.cur = s.cur ∧ s1.mem = s.mem ∧ CopyBegun t.tp s.me s1.me ∧ s1.me.ring = s.me.ring ∧
    ∃ o, BusOpens drive chw.toNat n q t.tp s.tick s.me s1.me o := by
  intro s1
  let k := (s.me.produce t.tp 0).2
  let o : BusOp := ⟨k.nid, s.order, drive, chw.setWidth 2, nest, n, busStart s.tick, q, p, t.tp, (s.me.produce t.tp 0).1, s.me.depsOf t, 0, []⟩
  have hme : s1.me = queueBus o k := State.modMe_me s fun _ => queueBus o k
  obtain ⟨pcpc, pring, -, pbus, -, -⟩ := produce_frame s.me t.tp 0
  obtain ⟨-, ppend, pr⟩ := CoreSt.produce_queues s.me t.tp 0
  obtain ⟨h0, h1, h2⟩ := busStart_spec s.tick
  refine ⟨rfl, rfl, ⟨?_, fun ht => ?_, ?_, ?_⟩, ?_, o, ⟨?_, rfl, ?_, rfl, rfl, rfl, h0, h1, h2⟩⟩
  · rw [hme]
    exact congrArg (· + 1) pcpc
  · rw [hme]
    exact CoreSt.produce_tokPending s.me 0 ht
  · rw [hme]
    exact pr
  · rw [hme]
    exact ppend
  · rw [hme]
    exact pring
  · rw [hme]
    exact congrArg (· ++ [o]) pbus
  · show (chw.setWidth 2).toNat = chw.toNat
    rw [BitVec.toNat_setWidth]
    omega

/-- A channel word with a number of a channel. -/
theorem channel_high {chw : W64} (h : chw.toNat < 4) : chw.extractLsb' 2 62 = 0 := by
  apply BitVec.eq_of_toNat_eq
  rw [BitVec.extractLsb'_toNat, Nat.shiftRight_eq_div_pow]
  simp only [BitVec.ofNat_eq_ofNat, BitVec.toNat_ofNat]
  omega

theorem busTotal_ok {w : Walk2} (h64 : w.total % 64 = 0) (hmax : w.total ≤ 65536) : busTotal w = true := by
  unfold busTotal
  rw [h64, decide_eq_true hmax]
  rfl

theorem bcdrv_spec {u : Bool} {t : Toks} {nst : BitVec 4} {s : State} {w : Walk2} (hs : s.bun.squash = false)
    (htok : s.me.tokPending t.tp = false) (hw : walkOf (s.me.r.getN nst) true = some w) (h64 : w.total % 64 = 0) (hmax : w.total ≤ 65536)
    (hch : (nestWord (s.me.r.getN nst) 1).toNat < 4) (hsp : baseSp w.src = 1 ∨ baseSp w.src = 2)
    (hside : w.total = 0 ∨ sideCheck s w true = none) :
    ∃ v o, execBcdrv u t nst s = .next v ∧ BusOpens true (nestWord (s.me.r.getN nst) 1).toNat w.total 0 t.tp s.tick s.me v.me o ∧
      CopyBegun t.tp s.me v.me ∧ v.mem = s.mem := by
  have hsrc : w.src = nestWord (s.me.r.getN nst) 0 := by
    unfold walkOf at hw
    split at hw
    · exact nomatch hw
    · split at hw
      · exact nomatch hw
      · cases hw
        rfl
  have hnone : (if w.total = 0 then none else sideCheck s w true) = none := by
    split
    · rfl
    next h => exact hside.resolve_left h
  obtain ⟨hcur, hmem, hbegun, -, o, ho⟩ := issueBus_spec true hch (s.me.r.getN nst) w.total 0 0 t s
  have hexec : ∃ v, execBcdrv u t nst s = .next v ∧ DueOnly (issueBus true ((nestWord (s.me.r.getN nst) 1).setWidth 2) (s.me.r.getN nst) w.total 0 0 t s) v := by
    unfold execBcdrv
    rw [engineSlot_runs _ hs]
    dsimp only
    rw [hw]
    dsimp only
    rw [if_neg (by
        rw [← hsrc, channel_high hch, busTotal_ok h64 hmax]
        rintro (⟨h1, h2⟩ | h | h)
        · exact hsp.elim h1 h2
        · exact h rfl
        · exact absurd h (by simp)), hnone]
    dsimp only
    rw [if_neg (by rw [htok]; exact Bool.false_ne_true)]
    split
    · exact ⟨_, rfl, rfl, rfl, rfl⟩
    · exact ⟨_, rfl, dueOnly_foldl (fun s b => dueOnly_beatAt ..) _ _⟩
  obtain ⟨v, hv, hcore, hcur', hmem'⟩ := hexec
  have hme := State.me_congr hcore hcur'
  refine ⟨v, o, hv, ?_, ?_, hmem'.trans hmem⟩
  · rw [hme]
    exact ho
  · rw [hme]
    exact hbegun

theorem bclat_spec {u : Bool} {t : Toks} {nst rng : BitVec 4} {s : State} {w : Walk2} (hs : s.bun.squash = false)
    (htok : s.me.tokPending t.tp = false) (hw : walkOf (s.me.r.getN nst) false = some w) (h64 : w.total % 64 = 0) (hmax : w.total ≤ 65536)
    (hch : (nestWord (s.me.r.getN nst) 0).toNat < 4) (hsp : baseSp w.dst = 1) (hside : w.total = 0 ∨ sideCheck s w false = none)
    (hfree : RingFree s.me rng w.total) :
    ∃ v o, execBclat u t nst rng s = .next v ∧ BusOpens false (nestWord (s.me.r.getN nst) 0).toNat w.total rng t.tp s.tick s.me v.me o ∧
      CopyBegun t.tp s.me v.me ∧ RingAssigned rng w.total s.me v.me ∧ v.mem = s.mem := by
  have hdst : w.dst = nestWord (s.me.r.getN nst) 1 := by
    unfold walkOf at hw
    split at hw
    · exact nomatch hw
    · split at hw
      · exact nomatch hw
      · cases hw
        rfl
  have hnone : (if w.total = 0 then none else sideCheck s w false) = none := by
    split
    · rfl
    next h => exact hside.resolve_left h
  obtain ⟨p, hp⟩ := assignRing_free 0x04 hfree
  let s1 := s.modMe (ringUse rng w.total)
  have hme1 : s1.me = ringUse rng w.total s.me := State.modMe_me s _
  obtain ⟨hcur, hmem, hbegun, hring, o, ho⟩ := issueBus_spec false hch (s.me.r.getN nst) w.total p rng t s1
  obtain ⟨ucpc, ur, upend, -, -, ubus, -, -⟩ := ringUse_frame rng w.total s.me
  have hexec : ∃ v, execBclat u t nst rng s = .next v ∧ DueOnly (issueBus false ((nestWord (s.me.r.getN nst) 0).setWidth 2) (s.me.r.getN nst) w.total p rng t s1) v := by
    unfold execBclat
    rw [engineSlot_runs _ hs]
    dsimp only
    rw [hw]
    dsimp only
    rw [if_neg (by
        rw [← hdst, channel_high hch, busTotal_ok h64 hmax]
        rintro (h | h | h)
        · exact h hsp
        · exact h rfl
        · exact absurd h (by simp)), hnone]
    dsimp only
    rw [if_neg (by rw [htok]; exact Bool.false_ne_true), hp]
    dsimp only
    split
    · exact ⟨_, rfl, rfl, rfl, rfl⟩
    · exact ⟨_, rfl, dueOnly_beatAt ..⟩
  obtain ⟨v, hv, hcore, hcur', hmem'⟩ := hexec
  have hme := State.me_congr hcore hcur'
  refine ⟨v, o, hv, ?_, ?_, fun hq => ?_, hmem'.trans hmem⟩
  · rw [hme]
    exact { ho with bus := ho.bus.trans (by rw [hme1, ubus]) }
  · rw [hme]
    exact ⟨hbegun.cpc.trans (by rw [hme1, ucpc]), hbegun.tok, hbegun.r.trans (by rw [hme1, ur]), hbegun.pend.trans (by rw [hme1, upend])⟩
  · rw [hme]
    unfold CoreSt.getRing
    rw [hring, hme1]
    exact ringUse_assigned rng w.total s.me hq

/-- Settles O41: a copy stands last in its unit's buffer, and an operation of the bus opens its window. -/
theorem copySlots : Obligations.CopySlots := by
  unfold Obligations.CopySlots
  intro u t nst rng bnd scp be s hs htok nest free assigned begun
  refine ⟨fun e he => ?_, fun e he w hw h64 hmax hch hsp hside hfree => ?_⟩
  · rcases List.mem_pair.1 he with rfl | rfl
    · refine ⟨fun c f d h => issueCopy_traps hs h, fun w h hfree => ?_⟩
      obtain ⟨v, m, hv, hbuf, h1, h2, h3, h4, h5, h6, hb, ha, hm⟩ := issueCopy_spec (u := u) (bnd := if be then some bnd.toNat else none) (scp := scp) hs htok h hfree
      exact ⟨v, m, hv, hbuf, h1, h2, h3, h4, h5, h6, ⟨hb.cpc, hb.tok, hb.r, hb.pend⟩, ha, hm⟩
    · refine ⟨fun c f d h => issueCopy_traps hs h, fun w h hfree => ?_⟩
      obtain ⟨v, m, hv, hbuf, h1, h2, h3, h4, h5, h6, hb, ha, hm⟩ := issueCopy_spec (u := u) (bnd := none) (scp := scp) hs htok h hfree
      exact ⟨v, m, hv, hbuf, h1, h2, h3, h4, h5, h6, ⟨hb.cpc, hb.tok, hb.r, hb.pend⟩, ha, hm⟩
  · rcases List.mem_pair.1 he with rfl | rfl
    · obtain ⟨v, o, hv, ho, hb, hm⟩ := bcdrv_spec (u := u) hs htok hw h64 hmax hch (hsp.imp_right And.right) hside
      exact ⟨v, o, hv, ho.bus, ho.drive, ho.ch, ho.total, ho.ring, ho.tok, ho.aligned, ho.opens, ho.soon, ⟨hb.cpc, hb.tok, hb.r, hb.pend⟩,
        fun hn => (nomatch hn), hm⟩
    · obtain ⟨v, o, hv, ho, hb, ha, hm⟩ := bclat_spec (u := u) hs htok hw h64 hmax hch (hsp.resolve_right fun h => nomatch h.1) hside (hfree rfl)
      exact ⟨v, o, hv, ho.bus, ho.drive, ho.ch, ho.total, ho.ring, ho.tok, ho.aligned, ho.opens, ho.soon, ⟨hb.cpc, hb.tok, hb.r, hb.pend⟩,
        fun _ => ha, hm⟩

end Sys2Proof.Machine
end

section
/-! O42: micro-operations of the matrix array, and the cells of a step (R153 to R156). -/

namespace Sys2Proof.Machine

/-! Storage after a list of fields has been written. -/

/-- A field reads back what was written to it last, where every field written lies at its key with its value, or beside it. -/
theorem memRdN_memWrs_fields {α : Type} (key val : α → Nat) {n : Nat} (hn : 0 < n) (xs : List α) {x : α} (hx : x ∈ xs)
    (hd : ∀ y ∈ xs, (key y = key x ∧ val y = val x) ∨ key y + n ≤ key x ∨ key x + n ≤ key y) (m : List Host.Cell) :
    memRdN (memWrs m (xs.flatMap fun y => cellsOf (key y) (val y) n)) (key x) n = val x % 256 ^ n := by
  induction xs using List.reverseRecOn with
  | nil => exact absurd hx List.not_mem_nil
  | append_singleton xs y ih =>
    rw [List.flatMap_append, memWrs_append, List.flatMap_singleton]
    rcases hd y (by simp) with ⟨hk, hv⟩ | hb
    · rw [hk, hv, memRdN_cellsOf]
    · have hxs : x ∈ xs := by
        rcases List.mem_append.mp hx with h | h
        · exact h
        · rw [List.mem_singleton.mp h] at hb
          omega
      rw [← ih hxs fun z hz => hd z (List.mem_append_left _ hz)]
      refine memRdN_congr _ _ _ _ fun a ha hl => memRd_memWrs_ne _ _ _ fun c hc => ?_
      have := mem_cellsOf _ _ _ _ hc
      omega

/-- A byte in none of the fields reads as before. -/
theorem memRd_memWrs_fields_ne {α : Type} (key val : α → Nat) (n : Nat) (xs : List α) {k : Nat}
    (h : ∀ x ∈ xs, ∀ b, b < n → k ≠ key x + b) (m : List Host.Cell) :
    memRd (memWrs m (xs.flatMap fun y => cellsOf (key y) (val y) n)) k = memRd m k := by
  refine memRd_memWrs_ne _ _ _ fun c hc he => ?_
  obtain ⟨x, hx, hc⟩ := List.mem_flatMap.mp hc
  have := mem_cellsOf _ _ _ _ hc
  exact h x hx (k - key x) (by omega) (by omega)

/-! The cells of an accumulator, and a step on them (R156). -/

/-- Two cells of an accumulator are the same one or lie beside each other. -/
theorem accKey_apart (c : CoreId) (a : Nat) {i j p q : Nat} (hj : j < 128) (hq : q < 128) :
    (i = p ∧ j = q) ∨ accKey c a i j + 4 ≤ accKey c a p q ∨ accKey c a p q + 4 ≤ accKey c a i j := by
  unfold accKey
  omega

theorem zip_range_map {α : Type} (n : Nat) (f : Nat → α) :
    List.zip (List.range n) ((upto 0 n).map f) = (List.range n).map fun i => (i, f i) := by
  unfold upto
  rw [← List.range_eq_range', ← List.map_prod_left_eq_zip]

/-- What a step makes of the active cells: row, column, new pattern and flags (R156). -/
def stepCells (c : CoreId) (r : Routine) (n : Nat) (sub : Bool) (s : State) : List (Nat × Nat × Nat × Byte) :=
  (List.range r.nr).flatMap fun i => (List.range r.nc).map fun j =>
    (i, j, groupAdd sub (accRd s c r.acc.toNat i j) ((List.range' 0 n).map fun x =>
      (fun a b : FRes => if r.fa = .i8 ∧ r.fb = .i8 then intProduct (mulR a b) else mulR a b)
        ((aVal s c r i (r.lk.toNat + x)).1.scale (escOf (s.core.get c) r i), (aVal s c r i (r.lk.toNat + x)).2)
        (bVal s c r j (r.bk.toNat + x))))

theorem macStep_mem (c : CoreId) (r : Routine) (n : Nat) (sub : Bool) (s : State) :
    (macStep c r n sub s).1.mem = memWrs s.mem ((stepCells c r n sub s).flatMap fun x =>
      cellsOf (accKey c r.acc.toNat x.1 x.2.1) x.2.2.1 4) := by
  unfold macStep
  dsimp only
  rw [zip_range_map, zip_range_map]
  simp only [State.modC_mem, List.flatMap_map, List.map_map, Function.comp_def, upto, List.zipWith_map, List.zipWith_self,
    stepCells, Bool.and_eq_true, beq_iff_eq]

theorem mem_stepCells {c : CoreId} {r : Routine} {n : Nat} {sub : Bool} {s : State} {x : Nat × Nat × Nat × Byte}
    (h : x ∈ stepCells c r n sub s) : x.1 < r.nr ∧ x.2.1 < r.nc := by
  obtain ⟨i, hi, hx⟩ := List.mem_flatMap.mp h
  obtain ⟨j, hj, rfl⟩ := List.mem_map.mp hx
  exact ⟨List.mem_range.mp hi, List.mem_range.mp hj⟩

theorem stepCells_mem {c : CoreId} {r : Routine} (n : Nat) (sub : Bool) (s : State) {i j : Nat} (hi : i < r.nr) (hj : j < r.nc) :
    ∃ v, (i, j, v) ∈ stepCells c r n sub s ∧ v = groupAdd sub (accRd s c r.acc.toNat i j) ((List.range' 0 n).map fun x =>
      (fun a b : FRes => if r.fa = .i8 ∧ r.fb = .i8 then intProduct (mulR a b) else mulR a b)
        ((aVal s c r i (r.lk.toNat + x)).1.scale (escOf (s.core.get c) r i), (aVal s c r i (r.lk.toNat + x)).2)
        (bVal s c r j (r.bk.toNat + x))) :=
  ⟨_, List.mem_flatMap.mpr ⟨i, List.mem_range.mpr hi, List.mem_map.mpr ⟨j, List.mem_range.mpr hj, rfl⟩⟩, rfl⟩

/-- A cell has one value in a step. -/
theorem stepCells_unique {c : CoreId} {r : Routine} {n : Nat} {sub : Bool} {s : State} {x y : Nat × Nat × Nat × Byte}
    (hx : x ∈ stepCells c r n sub s) (hy : y ∈ stepCells c r n sub s) (hi : x.1 = y.1) (hj : x.2.1 = y.2.1) : x = y := by
  obtain ⟨i, -, hx⟩ := List.mem_flatMap.mp hx
  obtain ⟨j, -, rfl⟩ := List.mem_map.mp hx
  obtain ⟨p, -, hy⟩ := List.mem_flatMap.mp hy
  obtain ⟨q, -, rfl⟩ := List.mem_map.mp hy
  obtain rfl : i = p := hi
  obtain rfl : j = q := hj
  rfl

theorem accRd_macStep {c : CoreId} {r : Routine} (n : Nat) (sub : Bool) (s : State) {i j : Nat} (hc : r.nc ≤ 128) (hi : i < r.nr)
    (hj : j < r.nc) :
    accRd (macStep c r n sub s).1 c r.acc.toNat i j =
      (groupAdd sub (accRd s c r.acc.toNat i j) ((List.range' 0 n).map fun x =>
        (fun a b : FRes => if r.fa = .i8 ∧ r.fb = .i8 then intProduct (mulR a b) else mulR a b)
          ((aVal s c r i (r.lk.toNat + x)).1.scale (escOf (s.core.get c) r i), (aVal s c r i (r.lk.toNat + x)).2)
          (bVal s c r j (r.bk.toNat + x)))).1 % 2 ^ 32 := by
  obtain ⟨v, hv, rfl⟩ := stepCells_mem n sub s (c := c) hi hj
  rw [accRd, macStep_mem]
  refine memRdN_memWrs_fields (fun x : Nat × Nat × Nat × Byte => accKey c r.acc.toNat x.1 x.2.1) (fun x => x.2.2.1) (by decide) _ hv
    (fun y hy => ?_) s.mem
  rcases accKey_apart c r.acc.toNat (i := y.1) (p := i) (Nat.lt_of_lt_of_le (mem_stepCells hy).2 hc) (Nat.lt_of_lt_of_le hj hc) with h | h
  · rw [stepCells_unique hy hv h.1 h.2]
    exact .inl ⟨rfl, rfl⟩
  · exact .inr h

theorem memRd_macStep_ne {c : CoreId} {r : Routine} (n : Nat) (sub : Bool) (s : State) {k : Nat}
    (h : ∀ i j b, i < r.nr → j < r.nc → b < 4 → k ≠ accKey c r.acc.toNat i j + b) :
    memRd (macStep c r n sub s).1.mem k = memRd s.mem k := by
  rw [macStep_mem]
  exact memRd_memWrs_fields_ne (fun x : Nat × Nat × Nat × Byte => accKey c r.acc.toNat x.1 x.2.1) (fun x => x.2.2.1) 4 _
    (fun x hx b hb => h _ _ b (mem_stepCells hx).1 (mem_stepCells hx).2 hb) s.mem

/-- A step changes its core's checksums, and no register. -/
theorem macStep_core (c : CoreId) (r : Routine) (n : Nat) (sub : Bool) (s : State) :
    ((macStep c r n sub s).1.core.get c).r = (s.core.get c).r ∧ ((macStep c r n sub s).1.core.get c).arun = (s.core.get c).arun := by
  unfold macStep
  dsimp only
  rw [State.modC_get]
  exact ⟨rfl, rfl⟩

/-! Zeroed cells (R153). -/

/-- The rows of cells that zero clears. -/
theorem memRd_zeroRows (c : CoreId) (a nc : Nat) (k : Nat) (l : List Nat) (m : List Host.Cell) :
    memRd (l.foldl (fun m i => memZero m (accKey c a i 0) (accKey c a i nc)) m) k =
      if ∃ i ∈ l, accKey c a i 0 ≤ k ∧ k < accKey c a i nc then 0 else memRd m k := by
  induction l generalizing m with
  | nil => simp
  | cons i l ih =>
    rw [List.foldl_cons, ih, memRd_memZero]
    simp only [List.mem_cons, exists_eq_or_imp]
    by_cases hl : ∃ i ∈ l, accKey c a i 0 ≤ k ∧ k < accKey c a i nc
    · rw [if_pos hl, if_pos (Or.inr hl)]
    · rw [if_neg hl]
      by_cases hi : accKey c a i 0 ≤ k ∧ k < accKey c a i nc
      · rw [if_pos hi, if_pos (Or.inl hi)]
      · rw [if_neg hi, if_neg (by simpa only [hl, or_false] using hi)]

theorem memRdN_zero (m : List Host.Cell) (n : Nat) : ∀ k, (∀ b, b < n → memRd m (k + b) = 0) → memRdN m k n = 0 := by
  induction n with
  | zero => exact fun _ _ => rfl
  | succ n ih =>
    intro k h
    have h0 := h 0 (Nat.succ_pos n)
    rw [Nat.add_zero] at h0
    rw [memRdN, h0, ih (k + 1) fun b hb => by rw [Nat.add_assoc, Nat.add_comm 1 b]; exact h (b + 1) (by omega)]
    rfl

/-- The storage after zero. -/
def zeroed (c : CoreId) (a nr nc : Nat) (m : List Host.Cell) : List Host.Cell :=
  (upto 0 nr).foldl (fun m i => memZero m (accKey c a i 0) (accKey c a i nc)) m

theorem mem_upto_zero {n i : Nat} : i ∈ upto 0 n ↔ i < n := by
  simp [upto]

theorem zeroed_cell (c : CoreId) (a : Nat) {nr nc : Nat} (m : List Host.Cell) {i j : Nat} (hi : i < nr) (hj : j < nc) :
    memRdN (zeroed c a nr nc m) (accKey c a i j) 4 = 0 := by
  refine memRdN_zero _ _ _ fun b hb => ?_
  have hk : accKey c a i 0 ≤ accKey c a i j + b ∧ accKey c a i j + b < accKey c a i nc := by
    unfold accKey
    omega
  rw [zeroed, memRd_zeroRows]
  exact if_pos ⟨i, mem_upto_zero.mpr hi, hk⟩

theorem zeroed_ne (c : CoreId) (a : Nat) {nr nc : Nat} (m : List Host.Cell) {k : Nat}
    (h : ∀ i j b, i < nr → j < nc → b < 4 → k ≠ accKey c a i j + b) : memRd (zeroed c a nr nc m) k = memRd m k := by
  rw [zeroed, memRd_zeroRows, if_neg]
  rintro ⟨i, hi, hl, hu⟩
  unfold accKey at hl hu
  refine h i ((k - accKey c a i 0) / 4) ((k - accKey c a i 0) % 4) (mem_upto_zero.mp hi) ?_ (Nat.mod_lt _ (by decide)) ?_
  all_goals unfold accKey; omega

/-! The routine that runs, and what a micro-operation makes of it. -/

theorem routine_some {s : State} {r : Routine} (h : s.routine = some r) : s.me.arun = .call r := by
  unfold State.routine at h
  split at h
  · next q hq => rw [hq, Option.some.inj h]
  · exact nomatch h

theorem routine_of {s : State} {r : Routine} (h : s.me.arun = .call r) : s.routine = some r := by
  rw [State.routine, h]

theorem onRoutine_some {s : State} {r : Routine} (h : s.routine = some r) (f : Routine → State) : onRoutine s f = .next (f r) := by
  rw [onRoutine, h]

theorem modR_call {k : CoreSt} {r : Routine} (h : k.arun = .call r) (f : Routine → Routine) : k.modR f = { k with arun := .call (f r) } := by
  rw [CoreSt.modR, h]

/-- A micro-operation that takes no array cycle gives the routine the fields of `want`; the eighth in a row costs a cycle (R153). -/
def MicroDoes (s : State) (r : Routine) (m : Instr) (want : Routine) : Prop :=
  ∃ t w, exec m s = .next t ∧ t.routine = some w ∧
    w = { want with ctl := w.ctl, left := w.left, active := w.active, lead := w.lead, ahead := w.ahead } ∧
    (r.ctl = 7 → w.ctl = 0 ∧ w.left = 1 ∧ w.active = false) ∧ (r.ctl ≠ 7 → w.ctl = r.ctl + 1 ∧ w.left = r.left) ∧
    t.me.r = s.me.r ∧ t.mem = s.mem

theorem control_does {s s0 : State} {r want : Routine} {m : Instr} {f : Routine → Routine} (hx : exec m s = .next (control f s0))
    (h0 : s0.routine = some r) (hr : s0.me.r = s.me.r) (hm : s0.mem = s.mem) (hf : f r = want) (hl : want.left = r.left) :
    MicroDoes s r m want := by
  subst hf
  by_cases h7 : r.ctl = 7
  · have hc : control f s0 =
        s0.modMe fun k => { k with arun := .call { f r with ctl := 0, left := 1, active := false, lead := true, ahead := false } } := by
      rw [control, h0]
      exact if_pos h7
    refine ⟨_, { f r with ctl := 0, left := 1, active := false, lead := true, ahead := false }, hx, ?_, rfl,
      fun _ => ⟨rfl, rfl, rfl⟩, fun h => absurd h7 h, ?_, ?_⟩
    · rw [hc]
      exact routine_of (by rw [State.modMe_me])
    · rw [hc, State.modMe_me]
      exact hr
    · rw [hc]
      exact hm
  · have hc : control f s0 =
        (s0.modMe fun k => { k with arun := .call { f r with ctl := r.ctl + 1 } }).after 0 (.micro s0.cur) := by
      rw [control, h0]
      exact if_neg h7
    have hme : (control f s0).me = { s0.me with arun := .call { f r with ctl := r.ctl + 1 } } := by
      rw [hc]
      exact State.modMe_me s0 fun k => { k with arun := .call { f r with ctl := r.ctl + 1 } }
    refine ⟨_, { f r with ctl := r.ctl + 1 }, hx, routine_of (by rw [hme]), rfl, fun h => absurd h h7, fun _ => ⟨rfl, hl⟩, ?_, ?_⟩
    · rw [hme]
      exact hr
    · rw [hc]
      exact hm

theorem microVal_eq (r : Routine) (v : MVal) : microVal r v =
    (if v.e then BitVec.ofNat 16 ((r.op.mp[v.i.toNat]'v.i.isLt).toNat / 2 ^ (16 * v.q.toNat)) else 0) + v.imm := by
  unfold microVal
  rw [BitVec.extractLsb', Nat.shiftRight_eq_div_pow]

theorem microVal_quarter (r : Routine) (i : BitVec 3) (q : BitVec 2) : microVal r ⟨i, q, true, 0⟩ =
    BitVec.ofNat 16 ((r.op.mp[i.toNat]'i.isLt).toNat / 2 ^ (16 * q.toNat)) := by
  rw [microVal_eq]
  exact BitVec.add_zero _

theorem pairOf_self {c : BitVec 4} {ty : ElemTy} (hc : tyOfCode c = some ty) (hm : ty ∈ [ElemTy.bf16, .e4m3, .i8, .b4, .f32]) :
    pairOf c c = some ty := by
  unfold pairOf
  rw [if_neg (fun hn => hn rfl), hc]
  fin_cases hm <;> rfl

section
variable {s : State} {r : Routine} (h : s.routine = some r)
include h

theorem use_does (l : BitVec 3) (a : BitVec 2) : MicroDoes s r (.use l a) { r.next with lat := l, acc := a } := by
  by_cases hc : (!r.ck && a != r.acc) = true
  · have hme : (s.modMe fun k => spoilCheck k a).me = spoilCheck s.me a := State.modMe_me s fun k => spoilCheck k a
    refine control_does (f := fun r => { r.next with lat := l, acc := a }) (s0 := s.modMe fun k => spoilCheck k a) ?_ ?_ ?_ rfl rfl rfl
    · exact (onRoutine_some h _).trans (by rw [if_pos hc])
    · exact routine_of (by rw [hme]; exact routine_some h)
    · rw [hme]; rfl
  · exact control_does (f := fun r => { r.next with lat := l, acc := a }) (s0 := s)
      ((onRoutine_some h _).trans (by rw [if_neg hc])) h rfl rfl rfl rfl

theorem act_does {v : MVal} (h15 : (microVal r v).getLsbD 15 = false) (h7 : (microVal r v).getLsbD 7 = false) :
    MicroDoes s r (.act v) { r.next with nr := (microVal r v).toNat / 256 % 128 + 1, nc := (microVal r v).toNat % 128 + 1 } := by
  refine control_does (s0 := s)
    (f := fun q => { q.next with nr := ((microVal r v).extractLsb' 8 7).toNat + 1, nc := ((microVal r v).extractLsb' 0 7).toNat + 1 })
    ((onRoutine_some h _).trans (congrArg _ (if_neg (by rw [h15, h7]; decide)))) h rfl rfl ?_ rfl
  simp only [BitVec.extractLsb'_toNat, Nat.shiftRight_eq_div_pow, Nat.pow_zero, Nat.div_one]

theorem act_faults {v : MVal} (hv : (microVal r v).getLsbD 15 = true ∨ (microVal r v).getLsbD 7 = true) :
    exec (.act v) s = .next (s.now .routineFault { argC s.cur with k := 1 }) :=
  (onRoutine_some h _).trans (congrArg _ (if_pos hv))

theorem cnt_does (v : MVal) (x : Bool) :
    MicroDoes s r (.cnt v x) (if x then { r.next with l1 := microVal r v } else { r.next with l0 := microVal r v }) := by
  refine control_does (f := fun q => q.next.setCtr x (microVal r v)) (onRoutine_some h _) h rfl rfl ?_ ?_ <;> cases x <;> rfl

theorem rep0_does (tg : BitVec 10) :
    MicroDoes s r (.rep false tg) (if r.l0 = 0 then r.next else { r with l0 := r.l0 - 1, pc := tg.toNat }) := by
  refine control_does (f := fun q => if q.ctr false = 0 then q.next else { q.setCtr false (q.ctr false - 1) with pc := tg.toNat })
    (onRoutine_some h _) h rfl rfl rfl ?_
  split <;> rfl

theorem rep1_does (tg : BitVec 10) :
    MicroDoes s r (.rep true tg) (if r.l1 = 0 then r.next else { r with l1 := r.l1 - 1, pc := tg.toNat }) := by
  refine control_does (f := fun q => if q.ctr true = 0 then q.next else { q.setCtr true (q.ctr true - 1) with pc := tg.toNat })
    (onRoutine_some h _) h rfl rfl rfl ?_
  split <;> rfl

theorem brz_does (i : BitVec 3) (q : BitVec 2) (tg : BitVec 10) :
    MicroDoes s r (.brz i q tg) (if microVal r ⟨i, q, true, 0⟩ = 0 then { r with pc := tg.toNat } else r.next) := by
  refine control_does (f := fun x => if microVal r ⟨i, q, true, 0⟩ = 0 then { x with pc := tg.toNat } else x.next)
    (onRoutine_some h _) h rfl rfl rfl ?_
  split <;> rfl

theorem fmt_does {c : BitVec 4} {ty : ElemTy} {es : Bool} (hc : tyOfCode c = some ty)
    (hm : ty ∈ [ElemTy.bf16, .e4m3, .i8, .b4, .f32]) (he : es = false ∨ ty = .e4m3 ∨ ty = .b4) :
    MicroDoes s r (.fmt c c es) { r.next with fa := ty, fb := ty, es := es } := by
  refine control_does (f := fun r => { r.next with fa := ty, fb := ty, es := es }) (s0 := s) ((onRoutine_some h _).trans ?_) h rfl rfl rfl rfl
  rw [pairOf_self hc hm]
  refine congrArg Host.Outcome.next (if_neg ?_)
  rcases he with rfl | rfl | rfl <;> simp

theorem fmt_faults {c : BitVec 4} {ty : ElemTy} (hc : tyOfCode c = some ty)
    (hm : ty ∈ [ElemTy.bf16, .e4m3, .i8, .b4, .f32]) (h4 : ty ≠ .e4m3) (hb : ty ≠ .b4) :
    exec (.fmt c c true) s = .next (s.now .routineFault { argC s.cur with k := 2 }) := by
  refine (onRoutine_some h _).trans ?_
  rw [pairOf_self hc hm]
  exact congrArg Host.Outcome.next (if_pos (by simp [h4, hb]))

end

/-! Operations that take the array (R153, R155). -/

theorem arrayOp_spec {s : State} {r : Routine} (h : s.routine = some r) (n : Nat) (a : Bool) :
    (arrayOp n a s).me = { s.me with
      arun := .call { r.next with ctl := 0, left := n - 1, active := a, lead := false, ran := true, since := 0, ahead := n == 1 } } ∧
    (arrayOp n a s).mem = s.mem := by
  have hs : (s.modMe fun k => k.modR fun r =>
      { r.next with ctl := 0, left := n - 1, active := a, lead := false, ran := true, since := 0, ahead := n == 1 }).me =
      { s.me with
        arun := .call { r.next with ctl := 0, left := n - 1, active := a, lead := false, ran := true, since := 0, ahead := n == 1 } } :=
    (State.modMe_me s _).trans (modR_call (routine_some h) _)
  unfold arrayOp
  dsimp only
  split
  · exact ⟨hs, rfl⟩
  · exact ⟨hs, rfl⟩

theorem stepPoison_none {s : State} (c : CoreId) (r : Routine) (n : Nat) (hp : s.dev.poison = []) (he : s.dev.errs = [])
    (hb : (s.core.get c).r.scBad = []) : stepPoison s c r n = none := by
  unfold stepPoison
  exact if_pos (by rw [hp, he, hb]; rfl)

/-- The routine after a step of n products with flags fl: both indices moved on. -/
def Routine.stepped (n : Nat) (fl : Byte) (q : Routine) : Routine :=
  { q with lk := q.lk + BitVec.ofNat 16 n, bk := q.bk + BitVec.ofNat 16 n, flags := q.flags ||| fl }

/-- The core after a step of r: its routine moved on, and the accumulator written by the routine's bundle. -/
def steppedCore (r : Routine) (n : Nat) (fl : Byte) (k : CoreSt) : CoreSt :=
  { k.modR (Routine.stepped n fl) with accBy := (k.modR (Routine.stepped n fl)).accBy.set r.acc.toNat r.op.badr r.acc.isLt }

/-- What a step leaves of its routine, its flags and its storage. -/
theorem mac_steps {s : State} {r : Routine} {n : Nat} {sub : Bool} (h : s.routine = some r) (hp : s.dev.poison = [])
    (he : s.dev.errs = []) (hb : s.me.r.scBad = []) (h1 : 1 ≤ n) (h32 : n ≤ 32) (hk : r.lk.toNat + n ≤ kMax r.fa)
    (hB : r.bk.toNat + n ≤ bMax r.fa) :
    ∃ t w, mac n sub s = .next t ∧ t.routine = some w ∧ w.pc = r.pc + 1 ∧ w.lk = r.lk + BitVec.ofNat 16 n ∧
      w.bk = r.bk + BitVec.ofNat 16 n ∧ w.left = macCycles r.fa n - 1 ∧ w.active = true ∧
      w.flags = (r.flags ||| (macStep s.cur r n sub s).2) ∧ t.mem = (macStep s.cur r n sub s).1.mem ∧ t.me.r = s.me.r := by
  have hx : mac n sub s = .next (arrayOp (macCycles r.fa n) true
      ((macStep s.cur r n sub s).1.modMe (steppedCore r n (macStep s.cur r n sub s).2))) := by
    unfold mac
    rw [onRoutine_some h, if_neg (by omega), if_neg (by omega), if_neg (by omega), stepPoison_none s.cur r n hp he hb]
    rfl
  obtain ⟨hr, ha⟩ := macStep_core s.cur r n sub s
  have hcur : (macStep s.cur r n sub s).1.cur = s.cur := rfl
  generalize (macStep s.cur r n sub s).1 = s1 at hx hr ha hcur ⊢
  generalize (macStep s.cur r n sub s).2 = fl at hx ⊢
  have hme : s1.me.arun = .call r := by
    rw [State.me, hcur, ha]
    exact routine_some h
  have hm2 := State.modMe_me s1 (steppedCore r n fl)
  rw [steppedCore, modR_call hme] at hm2
  obtain ⟨h3, h4⟩ := arrayOp_spec (routine_of (congrArg CoreSt.arun hm2)) (macCycles r.fa n) true
  refine ⟨_, _, hx, routine_of (congrArg CoreSt.arun h3), rfl, rfl, rfl, rfl, rfl, rfl, h4, ?_⟩
  rw [h3, hm2]
  exact (congrArg (fun c => (s1.core.get c).r) hcur).trans hr

section
variable {s : State} {r : Routine} (h : s.routine = some r)
include h

theorem mac_faults_count {n : Nat} (sub : Bool) (hn : n = 0 ∨ 32 < n) : mac n sub s = .next (microFault 1 s) :=
  (onRoutine_some h _).trans (congrArg _ (if_pos hn))

theorem mac_faults_k {n : Nat} (sub : Bool) (h1 : 1 ≤ n) (h2 : n ≤ 32) (hk : kMax r.fa < r.lk.toNat + n) :
    mac n sub s = .next (microFault 3 s) :=
  (onRoutine_some h _).trans (congrArg _ ((if_neg (by omega)).trans (if_pos hk)))

theorem mac_faults_b {n : Nat} (sub : Bool) (h1 : 1 ≤ n) (h2 : n ≤ 32) (hk : r.lk.toNat + n ≤ kMax r.fa)
    (hb : bMax r.fa < r.bk.toNat + n) : mac n sub s = .next (microFault 4 s) :=
  (onRoutine_some h _).trans (congrArg _ ((if_neg (by omega)).trans ((if_neg (by omega)).trans (if_pos hb))))

/-- zero clears the active cells and no other byte. -/
theorem zero_spec : ∃ t w, exec .zero s = .next t ∧ t.routine = some w ∧ w.pc = r.pc + 1 ∧ w.left = 0 ∧ t.mem = zeroed s.cur r.acc.toNat r.nr r.nc s.mem := by
  have hm := State.modMe_me { s with mem := zeroed s.cur r.acc.toNat r.nr r.nc s.mem } fun k =>
      { (if r.nr = 128 ∧ r.nc = 128 then resetCheck k r.acc else spoilCheck k r.acc) with
        accBy := (if r.nr = 128 ∧ r.nc = 128 then resetCheck k r.acc else spoilCheck k r.acc).accBy.set r.acc.toNat r.op.badr r.acc.isLt }
  have ha : ∀ k : CoreSt, (if r.nr = 128 ∧ r.nc = 128 then resetCheck k r.acc else spoilCheck k r.acc).arun = k.arun := fun k => by
    split <;> rfl
  obtain ⟨h3, h4⟩ := arrayOp_spec (routine_of ((congrArg CoreSt.arun hm).trans ((ha _).trans (routine_some h)))) 1 true
  exact ⟨_, _, onRoutine_some h _, routine_of (congrArg CoreSt.arun h3), rfl, rfl, h4⟩

theorem fin_ran (hr : r.ran = true) : ∃ t, exec .fin s = .next t ∧ t.routine = none ∧ t.me.tail = s.me.tail ++ [(r.op, r.flags)] ∧
    t.mem = s.mem ∧ t.me.r = s.me.r := by
  have hx : exec .fin s = .next (leaveArray s.cur r.op r.flags (max 1 (8 - r.since)) .routineComplete s) :=
    (onRoutine_some h _).trans (congrArg _ (if_pos hr))
  have hme : (leaveArray s.cur r.op r.flags (max 1 (8 - r.since)) .routineComplete s).me =
      { s.me with arun := .idle, arbTo := s.tick + s.me.div.mtx, tail := s.me.tail ++ [(r.op, r.flags)] } :=
    State.modC_get s s.cur fun k => { k with arun := .idle, arbTo := s.tick + k.div.mtx, tail := k.tail ++ [(r.op, r.flags)] }
  refine ⟨_, hx, ?_, by rw [hme], rfl, by rw [hme]⟩
  rw [State.routine, hme]

theorem fin_first (hr : r.ran = false) : ∃ t w, exec .fin s = .next t ∧ t.routine = some w ∧ w.ran = true ∧ w.pc = r.pc ∧ w.left = 1 ∧
    w.active = false ∧ t.mem = s.mem := by
  have hm := (State.modMe_me s fun k => k.modR fun r =>
      { r with ops := r.ops - 1, left := 1, active := false, lead := false, ahead := false, ran := true }).trans
    (modR_call (routine_some h) _)
  exact ⟨_, _, (onRoutine_some h _).trans (congrArg _ (if_neg (by rw [hr]; decide))), routine_of (congrArg CoreSt.arun hm), rfl, rfl, rfl,
    rfl, rfl⟩

end

/-- Settles O42: each control micro-operation by the one rule for them, the array's by the step, and the step's cells by what was
written last to each. -/
theorem microOperations : Obligations.MicroOperations := by
  unfold Obligations.MicroOperations
  refine ⟨fun s r v l i a q x tg h => ?_, fun s r n n1 h hp he hb => ?_, fun s c r n sub _ hc => ?_⟩
  · intro val quarter nxt does
    have hv : val = microVal r v := (microVal_eq r v).symm
    have hq : quarter = microVal r ⟨i, q, true, 0⟩ := (microVal_quarter r i q).symm
    clear_value val quarter
    subst hv hq
    exact ⟨use_does h l a, act_does h, act_faults h,
      control_does (f := fun q => { q.next with lk := microVal r v }) (onRoutine_some h _) h rfl rfl rfl rfl,
      control_does (f := fun q => { q.next with bk := microVal r v }) (onRoutine_some h _) h rfl rfl rfl rfl,
      control_does (f := fun q => { q.next with lk := q.lk + microVal r v }) (onRoutine_some h _) h rfl rfl rfl rfl,
      control_does (f := fun q => { q.next with bk := q.bk + microVal r v }) (onRoutine_some h _) h rfl rfl rfl rfl,
      cnt_does h v x, rep0_does h tg, rep1_does h tg, brz_does h i q tg,
      fun c ty es hc hm => ⟨fmt_does h hc hm, fun hs h4 hb => hs ▸ fmt_faults h hc hm h4 hb⟩⟩
  · intro fault km bm cyc ok steps
    have hkm : km = kMax r.fa := rfl
    have hbm : bm = bMax r.fa := rfl
    have hcyc : cyc = macCycles r.fa n.toNat := by
      show (match r.fa with | .bf16 => n.toNat | .b4 => (n.toNat + 3) / 4 | .f32 => 4 * n.toNat | _ => (n.toNat + 1) / 2) = _
      unfold macCycles ceilDiv
      cases r.fa <;> rfl
    refine ⟨fun hok => ?_, fun hn => ⟨mac_faults_count h false hn, mac_faults_count h true hn⟩,
      fun h1 h2 hk => ⟨mac_faults_k h false h1 h2 hk, mac_faults_k h true h1 h2 hk⟩,
      fun h1 h2 hk hb => ⟨mac_faults_b h false h1 h2 hk hb, mac_faults_b h true h1 h2 hk hb⟩, fun _ _ => ?_, ?_, fin_ran h, fin_first h⟩
    · obtain ⟨h1, h2, hk, hB⟩ := hok
      dsimp only [steps]
      rw [hcyc]
      exact ⟨mac_steps h hp he hb h1 h2 hk hB, mac_steps h hp he hb h1 h2 hk hB⟩
    · obtain ⟨t, w, hx, hw, hpc, hl, hm⟩ := zero_spec h
      refine ⟨t, w, hx, hw, hpc, hl, fun i j hi hj => ?_, fun k hk => ?_⟩
      · rw [accRd, hm]
        exact zeroed_cell s.cur r.acc.toNat s.mem hi hj
      · rw [hm]
        exact zeroed_ne s.cur r.acc.toNat s.mem hk
    · obtain ⟨h3, h4⟩ := arrayOp_spec h (n1.toNat + 1) false
      exact ⟨_, _, onRoutine_some h _, routine_of (congrArg CoreSt.arun h3), rfl, rfl, rfl, h4⟩
  · exact ⟨fun i j hi hj => accRd_macStep n sub s hc hi hj, fun k hk => memRd_macStep_ne n sub s hk, (macStep_core c r n sub s).1⟩

end Sys2Proof.Machine
end

section
/-! O39: reduction of integers and rounding of floats (R39, R41 to R45). -/

namespace Sys2Proof.Machine

/-! Integers (R39). -/

theorem satS_clamp (x : Int) (n : Nat) :
    (satS x n).1 = max (-((2 ^ (n - 1) : Nat) : Int)) (min x (((2 ^ (n - 1) : Nat) : Int) - 1)) ∧
    (satS x n).2 = if -((2 ^ (n - 1) : Nat) : Int) ≤ x ∧ x ≤ ((2 ^ (n - 1) : Nat) : Int) - 1 then 0 else 0x20 := by
  have hp : 0 < 2 ^ (n - 1) := Nat.two_pow_pos _
  unfold satS
  generalize 2 ^ (n - 1) = P at hp ⊢
  dsimp only
  split
  · exact ⟨by omega, (if_neg (by omega)).symm⟩
  · split
    · exact ⟨by omega, (if_neg (by omega)).symm⟩
    · exact ⟨by omega, (if_pos (by omega)).symm⟩

theorem satU_clamp (x : Int) (n : Nat) :
    (satU x n).1 = max 0 (min x (((2 ^ n : Nat) : Int) - 1)) ∧
    (satU x n).2 = if 0 ≤ x ∧ x ≤ ((2 ^ n : Nat) : Int) - 1 then 0 else 0x20 := by
  have hp : 0 < 2 ^ n := Nat.two_pow_pos _
  unfold satU
  generalize 2 ^ n = P at hp ⊢
  dsimp only
  split
  · exact ⟨by omega, (if_neg (by omega)).symm⟩
  · split
    · exact ⟨by omega, (if_neg (by omega)).symm⟩
    · exact ⟨by omega, (if_pos (by omega)).symm⟩

theorem wrap_lt (x : Int) (n : Nat) : wrap x n < 2 ^ n := by
  have hp : (0 : Int) < ((2 ^ n : Nat) : Int) := Int.natCast_pos.mpr (Nat.two_pow_pos n)
  have h0 := Int.emod_nonneg x hp.ne'
  have h1 := Int.emod_lt_of_pos x hp
  unfold wrap
  omega

/-- What fits w bits as two's complement comes back from them. -/
theorem sext_wrap {x : Int} {w : Nat} (hw : 0 < w) (hl : -((2 ^ (w - 1) : Nat) : Int) ≤ x) (hu : x ≤ ((2 ^ (w - 1) : Nat) : Int) - 1) :
    sext (wrap x w) w = x := by
  have h2 : 2 ^ w = 2 * 2 ^ (w - 1) := by rw [← Nat.pow_succ', Nat.succ_eq_add_one, Nat.sub_add_cancel hw]
  rw [sext_eq_sub hw (wrap_lt x w)]
  have hm : ((2 : Int) ^ w) = ((2 ^ w : Nat) : Int) := by push_cast; rfl
  rw [hm]
  unfold wrap
  rw [h2]
  generalize 2 ^ (w - 1) = P at hl hu ⊢
  by_cases hx : 0 ≤ x
  · rw [Int.emod_eq_of_lt hx (by omega), if_pos (by omega)]
    omega
  · have he : x % ((2 * P : Nat) : Int) = x + ((2 * P : Nat) : Int) := by
      rw [← Int.add_emod_right, Int.emod_eq_of_lt (by omega) (by omega)]
    rw [he, if_neg (by omega)]
    omega

/-- What fits w bits as a magnitude comes back from them. -/
theorem wrap_of_mem {x : Int} {w : Nat} (hl : 0 ≤ x) (hu : x ≤ ((2 ^ w : Nat) : Int) - 1) : ((wrap x w : Nat) : Int) = x := by
  unfold wrap
  rw [Int.emod_eq_of_lt hl (by omega), Int.toNat_of_nonneg hl]

/-- The clamp of SAT for a type of R38: the value in its range that is nearest, with SAT where it is another. -/
theorem fromI_sat {t : ElemTy} (x : Int) (h : tyI t = true) :
    toI t (fromI t true x).1 = max (intLo t) (min x (intHi t)) ∧ (fromI t true x).1 < 2 ^ tyBits t ∧
    (fromI t true x).2 = if intLo t ≤ x ∧ x ≤ intHi t then 0 else 0x20 := by
  have signed : ∀ t, fromI t true x = (wrap (satS x (tyBits t)).1 (tyBits t), (satS x (tyBits t)).2) →
      (∀ y, toI t y = sext y (tyBits t)) → 0 < tyBits t → intLo t = -((2 ^ (tyBits t - 1) : Nat) : Int) →
      intHi t = ((2 ^ (tyBits t - 1) : Nat) : Int) - 1 → toI t (fromI t true x).1 = max (intLo t) (min x (intHi t)) ∧
      (fromI t true x).1 < 2 ^ tyBits t ∧ (fromI t true x).2 = if intLo t ≤ x ∧ x ≤ intHi t then 0 else 0x20 := by
    intro t hf ht hp hlo hhi
    obtain ⟨h1, h2⟩ := satS_clamp x (tyBits t)
    have h0 : 0 < 2 ^ (tyBits t - 1) := Nat.two_pow_pos _
    rw [hf, ht, hlo, hhi]
    exact ⟨(sext_wrap hp (by omega) (by omega)).trans h1, wrap_lt _ _, h2⟩
  have unsigned : ∀ t, fromI t true x = (wrap (satU x (tyBits t)).1 (tyBits t), (satU x (tyBits t)).2) →
      (∀ y : Nat, toI t y = (y : Int)) → intLo t = 0 → intHi t = ((2 ^ tyBits t : Nat) : Int) - 1 →
      toI t (fromI t true x).1 = max (intLo t) (min x (intHi t)) ∧ (fromI t true x).1 < 2 ^ tyBits t ∧
      (fromI t true x).2 = if intLo t ≤ x ∧ x ≤ intHi t then 0 else 0x20 := by
    intro t hf ht hlo hhi
    obtain ⟨h1, h2⟩ := satU_clamp x (tyBits t)
    have h0 : 0 < 2 ^ tyBits t := Nat.two_pow_pos _
    rw [hf, ht, hlo, hhi]
    exact ⟨(wrap_of_mem (by omega) (by omega)).trans h1, wrap_lt _ _, h2⟩
  match t, h with
  | .i8, _ => exact signed .i8 rfl (fun _ => rfl) (by decide) rfl rfl
  | .i16, _ => exact signed .i16 rfl (fun _ => rfl) (by decide) rfl rfl
  | .i32, _ => exact signed .i32 rfl (fun _ => rfl) (by decide) rfl rfl
  | .n8, _ => exact unsigned .n8 rfl (fun _ => rfl) rfl rfl
  | .n16, _ => exact unsigned .n16 rfl (fun _ => rfl) rfl rfl
  | .n32, _ => exact unsigned .n32 rfl (fun _ => rfl) rfl rfl

/-! Rounding to a multiple of a power of two (R44). -/

theorem roundTo_exact (rm : Rm) (neg : Bool) (m : Nat) {e u : Int} (h : u ≤ e) :
    roundTo rm neg m e u = (m <<< (e - u).toNat, false) := by
  unfold roundTo
  exact if_pos h

/-- Whether a magnitude with quotient q and rest r of a step of 2^k is rounded away from zero. -/
def roundsUp (rm : Rm) (neg : Bool) (q r k : Nat) : Bool :=
  match rm with
  | .rne => decide (2 ^ k < 2 * r) || (decide (2 * r = 2 ^ k) && q % 2 == 1)
  | .rz => false
  | .rd => neg && r != 0
  | .ru => !neg && r != 0

/-- Rounding by a step of k bits, of which the step of 0 bits changes nothing. -/
theorem roundTo_step (rm : Rm) (neg : Bool) (m k : Nat) (e : Int) : roundTo rm neg m e (e + k) =
    (if roundsUp rm neg (m / 2 ^ k) (m % 2 ^ k) k then m / 2 ^ k + 1 else m / 2 ^ k, m % 2 ^ k != 0) := by
  rcases Nat.eq_zero_or_pos k with rfl | hk
  · rw [roundTo_exact rm neg m (by omega)]
    have hu : roundsUp rm neg (m / 2 ^ 0) (m % 2 ^ 0) 0 = false := by
      rw [Nat.pow_zero, Nat.mod_one]
      cases rm <;> simp [roundsUp]
    rw [hu]
    simp [Nat.mod_one]
  · have hd : (e + k - e).toNat = k := by omega
    unfold roundTo
    rw [if_neg (by omega), hd]
    dsimp only
    rw [Nat.shiftRight_eq_div_pow]
    rfl

theorem roundsUp_zero (rm : Rm) (neg : Bool) (q k : Nat) : roundsUp rm neg q 0 k = false := by
  have hne : ¬ 0 = 2 ^ k := (Nat.two_pow_pos k).ne
  cases rm <;> simp [roundsUp, hne]

theorem roundTo_steps (neg : Bool) (m k : Nat) (e : Int) :
     let u := e + k
     let q := m / 2 ^ k
     let r := m % 2 ^ k
     (∀ rm, (roundTo rm neg m e u).2 = true ↔ (roundTo rm neg m e u).1 * 2 ^ k ≠ m) ∧
     (roundTo .rz neg m e u).1 = q ∧
     (roundTo .rd neg m e u).1 = (if neg = true ∧ r ≠ 0 then q + 1 else q) ∧
     (roundTo .ru neg m e u).1 = (if neg = false ∧ r ≠ 0 then q + 1 else q) ∧
     (let n := (roundTo .rne neg m e u).1;
       2 * n * 2 ^ k ≤ 2 * m + 2 ^ k ∧ 2 * m ≤ 2 * n * 2 ^ k + 2 ^ k ∧ (2 * m = 2 * q * 2 ^ k + 2 ^ k → n % 2 = 0)) := by
  intro u q r
  have hm : q * 2 ^ k + r = m := Nat.div_add_mod' m (2 ^ k)
  have hr : r < 2 ^ k := Nat.mod_lt _ (Nat.two_pow_pos k)
  have ht : ∀ rm, roundTo rm neg m e u = (if roundsUp rm neg q r k then q + 1 else q, r != 0) := fun rm => roundTo_step rm neg m k e
  clear_value u q r
  have hq1 : (q + 1) * 2 ^ k = q * 2 ^ k + 2 ^ k := Nat.succ_mul _ _
  refine ⟨fun rm => ?_, by rw [ht]; rfl, ?_, ?_, ?_⟩
  · rw [ht]
    by_cases h0 : r = 0
    · subst h0
      rw [roundsUp_zero]
      simpa using hm
    · simp only [bne_iff_ne, ne_eq, h0, not_false_eq_true, true_iff]
      split <;> omega
  · rw [ht]
    simp [roundsUp]
  · rw [ht]
    cases neg <;> simp [roundsUp]
  · rw [ht]
    intro n
    have h2 : 2 * q * 2 ^ k = 2 * (q * 2 ^ k) := Nat.mul_assoc _ _ _
    have h3 : 2 * (q + 1) * 2 ^ k = 2 * (q * 2 ^ k) + 2 * 2 ^ k := by rw [Nat.mul_assoc, hq1, Nat.mul_add]
    by_cases hup : roundsUp .rne neg q r k = true
    · have hn : n = q + 1 := if_pos hup
      simp only [roundsUp, Bool.or_eq_true, Bool.and_eq_true, decide_eq_true_eq, beq_iff_eq] at hup
      rw [hn, h3, h2]
      omega
    · have hn : n = q := if_neg hup
      simp only [roundsUp, Bool.or_eq_true, Bool.and_eq_true, decide_eq_true_eq, beq_iff_eq] at hup
      rw [hn, h2]
      omega

/-! Patterns of a float format (R40, R41). -/

/-- A format that has patterns of floats. -/
def IsFloat (t : ElemTy) : Prop := t = .f32 ∨ t = .bf16 ∨ t = .e4m3

/-- The parts of a pattern: exponent and fraction fields, and the sign above them. -/
theorem pattern_parts {t : ElemTy} {x : Nat} (ht : IsFloat t) (hx : x < 2 ^ tyBits t) :
    x = signOf t (x.testBit (tyBits t - 1)) + (((x >>> fracBits t) % 2 ^ expBits t) <<< fracBits t + x % 2 ^ fracBits t) := by
  have hs : ∀ n, signOf t (x.testBit n) = x / 2 ^ n % 2 * 2 ^ (tyBits t - 1) := fun n => by
    rw [Nat.testBit_eq_decide_div_mod_eq, signOf]
    rcases Nat.mod_two_eq_zero_or_one (x / 2 ^ n) with h | h <;> simp [h]
  rw [hs, Nat.shiftRight_eq_div_pow, Nat.shiftLeft_eq]
  rcases ht with rfl | rfl | rfl <;> simp only [tyBits, fracBits, expBits] at hx ⊢ <;> omega

theorem packFin_sub {t : ElemTy} {f : Nat} (neg : Bool) (u : Int) (hf : f < 2 ^ fracBits t) : packFin t neg f u = signOf t neg + f := by
  unfold packFin
  have hne : f ≠ 2 ^ (fracBits t + 1) := by
    rw [Nat.pow_succ]
    omega
  dsimp only
  rw [if_neg hne]
  exact congrArg _ (if_pos hf)

theorem packFin_norm {t : ElemTy} {f E : Nat} {u : Int} (neg : Bool) (hf : f < 2 ^ fracBits t) (hu : u + fracBits t + biasOf t = E) :
    packFin t neg (2 ^ fracBits t + f) u = signOf t neg + (E <<< fracBits t + f) := by
  unfold packFin
  have hne : 2 ^ fracBits t + f ≠ 2 ^ (fracBits t + 1) := by
    rw [Nat.pow_succ]
    omega
  dsimp only
  rw [if_neg hne]
  dsimp only
  rw [if_neg (by omega), hu, Int.toNat_natCast, Nat.add_sub_cancel_left]

/-- A subnormal or zero is its own rounding. -/
theorem roundF_sub {t : ElemTy} (rm : Rm) (sat neg : Bool) {f : Nat} (hf : f < 2 ^ fracBits t) :
    roundF t rm sat (.fin neg f (1 - biasOf t - fracBits t)) = (signOf t neg + f, 0) := by
  by_cases h0 : f = 0
  · subst h0
    rfl
  · have hl : Nat.log2 f < fracBits t := (Nat.log2_lt h0).mpr hf
    have hf2 : f < 2 ^ (Nat.log2 f + 1) := Nat.lt_log2_self
    unfold roundF
    dsimp only
    rw [if_neg h0, roundTo_exact rm neg f (by omega), roundTo_exact rm neg f (Int.le_refl _)]
    dsimp only
    have hd : (1 - biasOf t - (fracBits t : Int) - ((Nat.log2 f : Int) + (1 - biasOf t - fracBits t) - fracBits t)).toNat =
        fracBits t - Nat.log2 f := by omega
    rw [hd]
    have hn : f <<< (fracBits t - Nat.log2 f) ≠ 0 := by
      rw [Nat.shiftLeft_eq]
      exact Nat.mul_ne_zero h0 (Nat.two_pow_pos _).ne'
    have htop : Nat.log2 (f <<< (fracBits t - Nat.log2 f)) < fracBits t + 1 := by
      rw [Nat.log2_lt hn, Nat.shiftLeft_eq]
      calc f * 2 ^ (fracBits t - Nat.log2 f) < 2 ^ (Nat.log2 f + 1) * 2 ^ (fracBits t - Nat.log2 f) :=
            Nat.mul_lt_mul_of_pos_right hf2 (Nat.two_pow_pos _)
        _ = 2 ^ (fracBits t + 1) := by
            rw [← Nat.pow_add]
            congr 1
            omega
    rw [if_pos (by omega), Int.sub_self, Int.toNat_zero, Nat.shiftLeft_zero, packFin_sub neg _ hf]
    rfl

/-- A normal value of the format is its own rounding. -/
theorem roundF_norm {t : ElemTy} (rm : Rm) (sat neg : Bool) {f E : Nat} (hf : f < 2 ^ fracBits t) (hE : 1 ≤ E)
    (hmax : E <<< fracBits t + f ≤ maxFin t) :
    roundF t rm sat (.fin neg (2 ^ fracBits t + f) ((E : Int) - biasOf t - fracBits t)) = (signOf t neg + (E <<< fracBits t + f), 0) := by
  have hp := Nat.two_pow_pos (fracBits t)
  have hl : Nat.log2 (2 ^ fracBits t + f) = fracBits t :=
    (Nat.log2_eq_iff (by omega)).mpr ⟨by omega, by rw [Nat.pow_succ]; omega⟩
  unfold roundF
  dsimp only
  rw [if_neg (by omega), hl]
  have hu : (fracBits t : Int) + ((E : Int) - biasOf t - fracBits t) - fracBits t = (E : Int) - biasOf t - fracBits t := by omega
  rw [hu, roundTo_exact rm neg _ (Int.le_refl _), Int.sub_self, Int.toNat_zero, Nat.shiftLeft_zero]
  dsimp only
  rw [hl, if_neg (by omega), packFin_norm false hf (E := E) (by omega), if_neg]
  · show (_ + (0 + _), _) = _
    rw [Nat.zero_add]
    rfl
  · show ¬ (_ < 0 + _)
    rw [Nat.zero_add]
    omega

/-- Rounding keeps what the format holds. -/
theorem roundF_toF {t : ElemTy} (rm : Rm) (sat : Bool) {x : Nat} (ht : IsFloat t) (hx : x < 2 ^ tyBits t) (hn : toF t x ≠ .nan) :
    roundF t rm sat (toF t x) = (x, 0) := by
  have hp := pattern_parts ht hx
  have hf : x % 2 ^ fracBits t < 2 ^ fracBits t := Nat.mod_lt _ (Nat.two_pow_pos _)
  have hE : (x >>> fracBits t) % 2 ^ expBits t < 2 ^ expBits t := Nat.mod_lt _ (Nat.two_pow_pos _)
  unfold toF at hn ⊢
  dsimp only at hn ⊢
  generalize x.testBit (tyBits t - 1) = neg at hp hn ⊢
  generalize x % 2 ^ fracBits t = f at hp hf hn ⊢
  generalize (x >>> fracBits t) % 2 ^ expBits t = E at hp hE hn ⊢
  subst hp
  by_cases h0 : E = 0
  · subst h0
    rw [if_pos rfl, roundF_sub rm sat neg hf, Nat.zero_shiftLeft, Nat.zero_add]
  · have norm : E <<< fracBits t + f ≤ maxFin t → roundF t rm sat (.fin neg (2 ^ fracBits t + f) ((E : Int) - biasOf t - fracBits t)) =
        (signOf t neg + (E <<< fracBits t + f), 0) := roundF_norm rm sat neg hf (Nat.pos_of_ne_zero h0)
    rw [Nat.shiftLeft_eq] at norm ⊢
    rw [if_neg h0] at hn ⊢
    by_cases h4 : t = .e4m3
    · subst h4
      rw [if_pos rfl] at hn ⊢
      have hne : ¬ (E = 15 ∧ f = 7) := fun h => hn (if_pos h)
      rw [if_neg hne]
      refine norm ?_
      simp only [fracBits, expBits, maxFin] at hf hE ⊢
      omega
    · rw [if_neg h4] at hn ⊢
      by_cases h255 : E = 255
      · rw [if_pos h255] at hn ⊢
        have hf0 : f = 0 := by
          by_contra h
          exact hn (if_neg h)
        subst h255 hf0
        rw [if_pos rfl]
        rcases ht with rfl | rfl | rfl
        · rfl
        · rfl
        · exact absurd rfl h4
      · rw [if_neg h255]
        refine norm ?_
        rcases ht with rfl | rfl | rfl
        · simp only [fracBits, expBits, maxFin] at hf hE ⊢
          omega
        · simp only [fracBits, expBits, maxFin] at hf hE ⊢
          omega
        · exact absurd rfl h4

/-- Settles O39: integers by their clamp, floats by the parts of a pattern, and a rounding step by quotient and rest. -/
theorem numberFormats : Obligations.NumberFormats := by
  unfold Obligations.NumberFormats
  refine ⟨fun t x h => ⟨?_, fromI_sat x h⟩, fun t rm sat x ht hx => ⟨roundF_toF rm sat ht hx, fun h => by rw [h]; rfl⟩, roundTo_steps⟩
  show (wrap x (tyBits t), _) = _
  rw [wrap]
  push_cast
  rfl

end Sys2Proof.Machine
end

section
/-! Vector operations without poison, and O33: vector arithmetic, logic, shifts and counts (R117 to R122, R386). -/

namespace Sys2Proof.Machine

/-! A vector operation that consumes no poison begins (R115). -/

theorem poisonOf_nil {r : Regs} (h : r.poison = []) (srcs : List (Cluster × BitVec 5)) : poisonOf r srcs = none := by
  rw [poisonOf, h]
  rfl

theorem vecRun_begins {s : State} (h : s.me.r.poison = []) (cl : Cluster) (lat : Nat) (srcs : List (Cluster × BitVec 5)) (effs : List Eff) :
    vecRun cl lat srcs effs s = vecBegin cl lat effs s := by
  rw [vecRun, poisonOf_nil h]

/-- The deliveries of an operation that gives element e of its destination the result `res e`. -/
def elemOut (h : VH) (lat w : Nat) (vd : BitVec 5) (res : Nat → Nat × Byte) (s : State) : Out :=
  .next (vecBegin h.cl lat (elemEffs h vd w s (actives h w s) res) s)

section
variable {s : State} (hp : s.me.r.poison = [])
include hp

theorem vec1_gives {h : VH} {lat : Nat} {vd v1 : BitVec 5} {f : Nat → Nat × Byte} {res : Nat → Nat × Byte}
    (hf : ∀ e, f (elem (vreg h v1 s) e h.w) = res e) : vec1 h lat vd v1 f s = elemOut h lat h.w vd res s := by
  obtain rfl : (fun e => f (elem (vreg h v1 s) e h.w)) = res := funext hf
  exact congrArg Host.Outcome.next (vecRun_begins hp _ _ _ _)

theorem vec2_gives {h : VH} {lat : Nat} {vd v1 v2 : BitVec 5} {f : Nat → Nat → Nat × Byte} {res : Nat → Nat × Byte}
    (hf : ∀ e, f (elem (vreg h v1 s) e h.w) (elem (vreg h v2 s) e h.w) = res e) : vec2 h lat vd v1 v2 f s = elemOut h lat h.w vd res s := by
  obtain rfl : (fun e => f (elem (vreg h v1 s) e h.w) (elem (vreg h v2 s) e h.w)) = res := funext hf
  exact congrArg Host.Outcome.next (vecRun_begins hp _ _ _ _)

end

theorem residueEffs_nil {s : State} (hu : s.dev.upsets = []) (h : VH) (vd : BitVec 5) (w : Nat) : residueEffs h vd w s = [] := by
  rw [residueEffs, hu]
  rfl

section
variable {s : State} (hp : s.me.r.poison = []) (hu : s.dev.upsets = [])
include hp hu

theorem vec2c_gives {chk : Bool} {h : VH} {lat : Nat} {vd v1 v2 : BitVec 5} {f : Nat → Nat → Nat × Byte} {res : Nat → Nat × Byte}
    (hf : ∀ e, f (elem (vreg h v1 s) e h.w) (elem (vreg h v2 s) e h.w) = res e) :
    vec2c chk h lat vd v1 v2 f s = elemOut h lat h.w vd res s := by
  obtain rfl : (fun e => f (elem (vreg h v1 s) e h.w) (elem (vreg h v2 s) e h.w)) = res := funext hf
  unfold vec2c
  rw [residueEffs_nil hu, ite_self]
  dsimp only
  rw [List.append_nil]
  exact congrArg Host.Outcome.next (vecRun_begins hp _ _ _ _)

theorem vec3c_gives {h : VH} {lat : Nat} {vd v1 v2 v3 : BitVec 5} {f : Nat → Nat → Nat → Nat × Byte} {res : Nat → Nat × Byte}
    (hf : ∀ e, f (elem (vreg h v1 s) e h.w) (elem (vreg h v2 s) e h.w) (elem (vreg h v3 s) e h.w) = res e) :
    vec3c h lat vd v1 v2 v3 f s = elemOut h lat h.w vd res s := by
  obtain rfl : (fun e => f (elem (vreg h v1 s) e h.w) (elem (vreg h v2 s) e h.w) (elem (vreg h v3 s) e h.w)) = res := funext hf
  unfold vec3c
  rw [residueEffs_nil hu]
  dsimp only
  rw [List.append_nil]
  exact congrArg Host.Outcome.next (vecRun_begins hp _ _ _ _)

end

/-! A failed residue check (R386). -/

theorem residueEffs_mark {s : State} {h : VH} {w : Nat} (vd : BitVec 5) (hu : (s.cur, s.order) ∈ s.dev.upsets) (ha : actives h w s ≠ []) :
    residueEffs h vd w s = [.mark h.cl (s.me.r.physV vd) s.bun.adr (clusterUnit s.cur h.cl)] := by
  unfold residueEffs
  rw [List.contains_iff_mem.mpr hu, List.isEmpty_eq_false_iff.mpr ha]
  rfl

/-- The core after deliveries of one operation: its registers stand, and each delivery is pending in the issue order. -/
theorem deliverAll_spec (k : CoreSt) (b lat q : Nat) (effs : List Eff) :
    (effs.foldl (fun k e => k.deliver .vec b lat q e) k).r = k.r ∧
    ∀ e ∈ effs, ∃ x ∈ (effs.foldl (fun k e => k.deliver .vec b lat q e) k).pend, x.eff = e ∧ x.seq = q := by
  induction effs using List.reverseRecOn with
  | nil => exact ⟨rfl, fun e he => nomatch he⟩
  | append_singleton effs y ih =>
    obtain ⟨hr, hp⟩ := ih
    rw [List.foldl_append]
    refine ⟨hr, fun e he => ?_⟩
    rcases List.mem_append.mp he with h | h
    · obtain ⟨x, hx, hxe⟩ := hp e h
      exact ⟨x, (mem_insDel _ _ _).mpr (.inr hx), hxe⟩
    · rw [List.mem_singleton.mp h]
      exact ⟨_, (mem_insDel _ _ _).mpr (.inl rfl), rfl, rfl⟩

theorem vecBegin_spec (cl : Cluster) (lat : Nat) (effs : List Eff) (s : State) :
    (vecBegin cl lat effs s).me.r = s.me.r ∧ (vecBegin cl lat effs s).mem = s.mem ∧
    ∀ e ∈ effs, ∃ x ∈ (vecBegin cl lat effs s).me.pend, x.eff = e ∧ x.seq = s.order := by
  obtain ⟨hr, hp⟩ := deliverAll_spec s.me (s.me.vecEdge cl s.tick) lat s.order effs
  unfold vecBegin
  rw [State.modMe_me]
  cases cl
  · exact ⟨hr, rfl, hp⟩
  · exact ⟨hr, rfl, hp⟩

/-- Results with a failed residue check among their deliveries poison their register. -/
theorem begins_marked {s : State} {i : Instr} {cl : Cluster} {lat : Nat} {srcs : List (Cluster × BitVec 5)} {effs : List Eff} {h : VH} {w : Nat}
    {vd : BitVec 5} (hp : s.me.r.poison = []) (hx : exec i s = .next (vecRun cl lat srcs (effs ++ residueEffs h vd w s) s))
    (hu : (s.cur, s.order) ∈ s.dev.upsets) (ha : actives h w s ≠ []) :
    ∃ t, exec i s = .next t ∧ t.me.r = s.me.r ∧ t.mem = s.mem ∧
      ∃ x ∈ t.me.pend, x.eff = .mark h.cl (s.me.r.physV vd) s.bun.adr (clusterUnit s.cur h.cl) ∧ x.seq = s.order := by
  rw [vecRun_begins hp, residueEffs_mark vd hu ha] at hx
  obtain ⟨hr, hm, he⟩ := vecBegin_spec cl lat (effs ++ [.mark h.cl (s.me.r.physV vd) s.bun.adr (clusterUnit s.cur h.cl)]) s
  exact ⟨_, hx, hr, hm, he _ (List.mem_append_right _ (List.mem_singleton_self _))⟩

/-! Elements of arithmetic (R117, R118). -/

theorem fout_two (h : VH) (r : FRes) (a b : Nat) : fout h r [a, b] =
    ((roundF h.ty h.rm h.sat r.1).1, (roundF h.ty h.rm h.sat r.1).2 ||| r.2 ||| (snanFlag h.ty a ||| snanFlag h.ty b)) := by
  rw [← BitVec.or_assoc]
  rfl

theorem fout_three (h : VH) (r : FRes) (a b c : Nat) : fout h r [a, b, c] =
    ((roundF h.ty h.rm h.sat r.1).1,
      (roundF h.ty h.rm h.sat r.1).2 ||| r.2 ||| (snanFlag h.ty a ||| snanFlag h.ty b ||| snanFlag h.ty c)) := by
  rw [← BitVec.or_assoc, ← BitVec.or_assoc]
  rfl

section
variable {h : VH} (hi : tyI h.ty = true)
include hi

theorem arith2_int (fi : Int → Int → Int) (ff : FVal → FVal → FRes) (a b : Nat) :
    arith2 h fi ff a b = fromI h.ty h.sat (fi (toI h.ty a) (toI h.ty b)) := if_pos hi

theorem arith3_int (fi : Int → Int → Int → Int) (ff : FVal → FVal → FVal → FRes) (a b c : Nat) :
    arith3 h fi ff a b c = fromI h.ty h.sat (fi (toI h.ty a) (toI h.ty b) (toI h.ty c)) := if_pos hi

theorem pick2_int (less : Bool) (a b : Nat) :
    pick2 h less a b = (if toI h.ty a < toI h.ty b then (if less then a else b) else if less then b else a, 0) := by
  refine (if_pos hi).trans ?_
  cases less <;> by_cases hl : toI h.ty a < toI h.ty b <;> simp [hl]

end

section
variable {h : VH} (hi : tyI h.ty = false)
include hi

theorem arith2_float (fi : Int → Int → Int) (ff : FVal → FVal → FRes) (a b : Nat) :
    arith2 h fi ff a b = fout h (ff (toF h.ty a) (toF h.ty b)) [a, b] := if_neg (by rw [hi]; decide)

theorem arith3_float (fi : Int → Int → Int → Int) (ff : FVal → FVal → FVal → FRes) (a b c : Nat) :
    arith3 h fi ff a b c = fout h (ff (toF h.ty a) (toF h.ty b) (toF h.ty c)) [a, b, c] := if_neg (by rw [hi]; decide)

end

theorem wrap_pow (x : Int) (w : Nat) : wrap x w = (x % 2 ^ w).toNat := by
  unfold wrap
  push_cast
  rfl

theorem shlElem_eq (h : VH) (a n : Nat) : shlElem h a n = fromI h.ty h.sat (toI h.ty a * 2 ^ n) := by
  unfold shlElem
  push_cast
  rfl

theorem sarElem_eq (h : VH) (a n : Nat) : sarElem h a n = ((sext a h.w / 2 ^ n % 2 ^ h.w).toNat, 0) := by
  unfold sarElem
  rw [wrap_pow]
  push_cast
  rfl

theorem rshrElem_eq (h : VH) (a n : Nat) :
    rshrElem h a n = if n = 0 then (a, 0) else (((toI h.ty a + 2 ^ (n - 1)) / 2 ^ n % 2 ^ h.w).toNat, 0) := by
  unfold rshrElem
  rw [wrap_pow]
  push_cast
  rfl

theorem mulhElem_eq (h : VH) (a b : Nat) : mulhElem h a b = ((toI h.ty a * toI h.ty b / 2 ^ h.w % 2 ^ h.w).toNat, 0) := by
  unfold mulhElem
  rw [wrap_pow]
  push_cast
  rfl

/-! Logic, shifts and counts (R120 to R122). -/

section
variable {s : State} (hp : s.me.r.poison = []) (h : VH) (vd v1 : BitVec 5)
include hp

theorem exec_vnot : exec (.vnot h vd v1) s = elemOut h 2 h.w vd (fun e => (2 ^ h.w - 1 - elem (s.me.r.getV h.cl v1) e h.w, 0)) s :=
  vec1_gives hp (f := fun a => (2 ^ h.w - 1 - a, 0)) fun _ => rfl

theorem exec_vclz : exec (.vclz h vd v1) s = elemOut h 2 h.w vd (fun e => (leadZeros (elem (s.me.r.getV h.cl v1) e h.w) h.w, 0)) s :=
  vec1_gives hp (f := fun a => (leadZeros a h.w, 0)) fun _ => rfl

theorem exec_vpopc : exec (.vpopc h vd v1) s = elemOut h 2 h.w vd (fun e => (popBits (elem (s.me.r.getV h.cl v1) e h.w) h.w, 0)) s :=
  vec1_gives hp (f := fun a => (popBits a h.w, 0)) fun _ => rfl

theorem exec_vshlImm (sh : BitVec 6) : exec (.vshlImm h vd v1 sh) s = elemOut h 2 h.w vd (fun e => fromI h.ty h.sat (toI h.ty (elem (s.me.r.getV h.cl v1) e h.w) * 2 ^ sh.toNat)) s :=
  vec1_gives hp (f := fun a => shlElem h a sh.toNat) fun _ => shlElem_eq h _ _

theorem exec_vshrImm (sh : BitVec 6) : exec (.vshrImm h vd v1 sh) s = elemOut h 2 h.w vd (fun e => (elem (s.me.r.getV h.cl v1) e h.w / 2 ^ sh.toNat, 0)) s :=
  vec1_gives hp (f := fun a => shrElem h a sh.toNat) fun _ => rfl

theorem exec_vsarImm (sh : BitVec 6) : exec (.vsarImm h vd v1 sh) s = elemOut h 2 h.w vd (fun e => ((sext (elem (s.me.r.getV h.cl v1) e h.w) h.w / 2 ^ sh.toNat % 2 ^ h.w).toNat, 0)) s :=
  vec1_gives hp (f := fun a => sarElem h a sh.toNat) fun _ => sarElem_eq h _ _

theorem exec_vrshrImm (sh : BitVec 6) : exec (.vrshrImm h vd v1 sh) s = elemOut h 2 h.w vd (fun e => if sh.toNat = 0 then (elem (s.me.r.getV h.cl v1) e h.w, 0) else
      (((toI h.ty (elem (s.me.r.getV h.cl v1) e h.w) + 2 ^ (sh.toNat - 1)) / 2 ^ sh.toNat % 2 ^ h.w).toNat, 0)) s :=
  vec1_gives hp (f := fun a => rshrElem h a sh.toNat) fun _ => rshrElem_eq h _ _

variable (v2 : BitVec 5)

theorem exec_vcpsgn : exec (.vcpsgn h vd v1 v2) s = elemOut h 2 h.w vd (fun e => (elem (s.me.r.getV h.cl v1) e h.w % 2 ^ (h.w - 1) +
      elem (s.me.r.getV h.cl v2) e h.w / 2 ^ (h.w - 1) * 2 ^ (h.w - 1), 0)) s :=
  vec2_gives hp (f := fun a b => (a % 2 ^ (h.w - 1) + b / 2 ^ (h.w - 1) * 2 ^ (h.w - 1), 0)) fun _ => rfl

theorem exec_vand : exec (.vand h vd v1 v2) s = elemOut h 2 h.w vd (fun e => (elem (s.me.r.getV h.cl v1) e h.w &&& elem (s.me.r.getV h.cl v2) e h.w, 0)) s :=
  vec2_gives hp (f := fun a b => (a &&& b, 0)) fun _ => rfl

theorem exec_vor : exec (.vor h vd v1 v2) s = elemOut h 2 h.w vd (fun e => (elem (s.me.r.getV h.cl v1) e h.w ||| elem (s.me.r.getV h.cl v2) e h.w, 0)) s :=
  vec2_gives hp (f := fun a b => (a ||| b, 0)) fun _ => rfl

theorem exec_vxor : exec (.vxor h vd v1 v2) s = elemOut h 2 h.w vd (fun e => (elem (s.me.r.getV h.cl v1) e h.w ^^^ elem (s.me.r.getV h.cl v2) e h.w, 0)) s :=
  vec2_gives hp (f := fun a b => (a ^^^ b, 0)) fun _ => rfl

theorem exec_vshl : exec (.vshl h vd v1 v2) s = elemOut h 2 h.w vd (fun e => fromI h.ty h.sat (toI h.ty (elem (s.me.r.getV h.cl v1) e h.w) *
      2 ^ (elem (s.me.r.getV h.cl v2) e h.w % 64))) s :=
  vec2_gives hp (f := fun a b => shlElem h a (b % 64)) fun _ => shlElem_eq h _ _

theorem exec_vshr : exec (.vshr h vd v1 v2) s = elemOut h 2 h.w vd (fun e => (elem (s.me.r.getV h.cl v1) e h.w /
      2 ^ (elem (s.me.r.getV h.cl v2) e h.w % 64), 0)) s :=
  vec2_gives hp (f := fun a b => shrElem h a (b % 64)) fun _ => rfl

theorem exec_vsar : exec (.vsar h vd v1 v2) s = elemOut h 2 h.w vd (fun e => ((sext (elem (s.me.r.getV h.cl v1) e h.w) h.w /
      2 ^ (elem (s.me.r.getV h.cl v2) e h.w % 64) % 2 ^ h.w).toNat, 0)) s :=
  vec2_gives hp (f := fun a b => sarElem h a (b % 64)) fun _ => sarElem_eq h _ _

theorem exec_vrshr : exec (.vrshr h vd v1 v2) s = elemOut h 2 h.w vd (fun e => if elem (s.me.r.getV h.cl v2) e h.w % 64 = 0 then (elem (s.me.r.getV h.cl v1) e h.w, 0) else
      (((toI h.ty (elem (s.me.r.getV h.cl v1) e h.w) + 2 ^ (elem (s.me.r.getV h.cl v2) e h.w % 64 - 1)) /
        2 ^ (elem (s.me.r.getV h.cl v2) e h.w % 64) % 2 ^ h.w).toNat, 0)) s :=
  vec2_gives hp (f := fun a b => rshrElem h a (b % 64)) fun _ => rshrElem_eq h _ _

end

/-- Settles O33: each operation by the rule of its number of sources and the equation of its element, and a failed residue check by the
mark among the deliveries. -/
theorem vectorArithmetic : Obligations.VectorArithmetic := by
  unfold Obligations.VectorArithmetic
  refine ⟨fun h vd v1 v2 v3 s hp hu => ⟨fun hi => ?_, fun hf => ?_, ?_⟩, fun h vd v1 v2 sh s hp => ?_,
    fun h vd v1 v2 v3 s hp hu e he ha => ?_⟩
  · exact ⟨vec2c_gives hp hu fun e => arith2_int hi _ _ _ _, vec2c_gives hp hu fun e => arith2_int hi _ _ _ _,
      vec2c_gives hp hu fun e => arith2_int hi _ _ _ _, vec2c_gives hp hu fun e => mulhElem_eq h _ _,
      vec2_gives hp fun e => pick2_int hi true _ _, vec2_gives hp fun e => pick2_int hi false _ _,
      vec1_gives hp fun e => (if_pos hi).trans (congrArg (fromI h.ty h.sat) (Int.natCast_natAbs _)), vec1_gives hp fun e => if_pos hi,
      vec3c_gives hp hu fun e => arith3_int hi _ _ _ _ _, vec3c_gives hp hu fun e => arith3_int hi _ _ _ _ _,
      vec3c_gives hp hu fun e => arith3_int hi _ _ _ _ _⟩
  · have hn : ¬ tyI h.ty = true := by rw [hf]; decide
    exact ⟨vec2c_gives hp hu fun e => (arith2_float hf _ _ _ _).trans (fout_two h _ _ _),
      vec2c_gives hp hu fun e => (arith2_float hf _ _ _ _).trans (fout_two h _ _ _),
      vec2c_gives hp hu fun e => (arith2_float hf _ _ _ _).trans (fout_two h _ _ _),
      vec2_gives hp fun e => if_neg hn, vec2_gives hp fun e => if_neg hn, vec1_gives hp fun e => if_neg hn,
      vec1_gives hp fun e => if_neg hn, vec3c_gives hp hu fun e => (arith3_float hf _ _ _ _ _).trans (fout_three h _ _ _ _),
      vec3c_gives hp hu fun e => (arith3_float hf _ _ _ _ _).trans (fout_three h _ _ _ _),
      vec3c_gives hp hu fun e => (arith3_float hf _ _ _ _ _).trans (fout_three h _ _ _ _)⟩
  · exact exec_vcpsgn hp h vd v1 v2
  · exact ⟨exec_vand hp h vd v1 v2, exec_vor hp h vd v1 v2, exec_vxor hp h vd v1 v2, exec_vnot hp h vd v1, exec_vshl hp h vd v1 v2,
      exec_vshlImm hp h vd v1 sh, exec_vshr hp h vd v1 v2, exec_vshrImm hp h vd v1 sh, exec_vsar hp h vd v1 v2,
      exec_vsarImm hp h vd v1 sh, exec_vrshr hp h vd v1 v2, exec_vrshrImm hp h vd v1 sh, exec_vclz hp h vd v1, exec_vpopc hp h vd v1⟩
  · rcases List.mem_append.mp he with he | he
    · simp only [List.mem_cons, List.not_mem_nil, or_false] at he
      rcases he with rfl | rfl | rfl | rfl
      · exact begins_marked hp rfl hu ha
      · exact begins_marked hp rfl hu ha
      · exact begins_marked hp rfl hu ha
      · exact begins_marked hp rfl hu ha
    · by_cases hi : tyI h.ty = true
      · rw [if_pos hi] at he
        have hc : (if tyI h.ty then residueEffs h vd h.w s else []) = residueEffs h vd h.w s := if_pos hi
        simp only [List.mem_cons, List.not_mem_nil, or_false] at he
        rcases he with rfl | rfl | rfl | rfl
        · exact begins_marked hp (congrArg (fun l => Host.Outcome.next (vecRun h.cl 2 (own h [v1, v2]) (_ ++ l) s)) hc) hu ha
        · exact begins_marked hp (congrArg (fun l => Host.Outcome.next (vecRun h.cl 2 (own h [v1, v2]) (_ ++ l) s)) hc) hu ha
        · exact begins_marked hp rfl hu ha
        · exact begins_marked hp rfl hu ha
      · rw [if_neg hi] at he
        exact absurd he List.not_mem_nil

end Sys2Proof.Machine
end

section
/-! O34: vector divide, roots, pivot check and the dot product of bytes (R55, R119, R123). -/

namespace Sys2Proof.Machine

/-! Masks of lanes (R15). -/

/-- The lanes of a list of element numbers below 64, where a condition holds. -/
theorem getLsbD_foldl_lane (t : Nat → Bool) (es : List Nat) (b : W64) {i : Nat} (hi : i < 64) :
    (es.foldl (fun b e => if t e then b ||| ((1 : W64) <<< e) else b) b).getLsbD i =
      (b.getLsbD i || (decide (i ∈ es) && t i)) := by
  induction es generalizing b with
  | nil => simp
  | cons e es ih =>
    have hbit : ((1 : W64) <<< e).getLsbD i = decide (i = e) := by
      rw [BitVec.getLsbD_shiftLeft, show (1 : W64) = 1#64 from rfl, BitVec.getLsbD_one]
      by_cases h : i < e
      · simp [h, hi, Nat.ne_of_lt h]
      · have he : (i - e = 0) ↔ i = e := by omega
        simp [h, hi, he]
    rw [List.foldl_cons, ih]
    by_cases ht : t e = true
    · rw [if_pos ht, BitVec.getLsbD_or, hbit]
      by_cases hie : i = e
      · subst hie
        simp [ht]
      · simp [hie]
    · rw [if_neg ht]
      by_cases hie : i = e
      · subst hie
        simp [ht]
      · simp [hie]

theorem getLsbD_foldl_lanes (es : List Nat) {i : Nat} (hi : i < 64) :
    (es.foldl (fun b e => b ||| ((1 : W64) <<< e)) (0 : W64)).getLsbD i = decide (i ∈ es) := by
  have h := getLsbD_foldl_lane (fun _ => true) es 0 hi
  simpa using h

/-- An element of 32 bits is active exactly where its number is among the active ones. -/
theorem decide_mem_actives {h : VH} {s : State} {i : Nat} (hi : i < 64) :
    decide (i ∈ actives h 32 s) = active (s.me.r.getP h.grd) i 32 := by
  rw [Bool.eq_iff_iff, decide_eq_true_iff]
  exact mem_actives (w := 32) hi

/-! Elements (R119, R123). -/

theorem fout_one (h : VH) (r : FRes) (a : Nat) : fout h r [a] =
    ((roundF h.ty h.rm h.sat r.1).1, (roundF h.ty h.rm h.sat r.1).2 ||| r.2 ||| snanFlag h.ty a) := rfl

theorem fout_none (h : VH) (r : FRes) : fout h r [] =
    ((roundF h.ty h.rm h.sat r.1).1, (roundF h.ty h.rm h.sat r.1).2 ||| r.2 ||| 0) := by
  exact Prod.ext rfl BitVec.or_zero.symm

theorem natBits_byte (x j : Nat) : natBits x (8 * j + 7) (8 * j) = x / 256 ^ j % 256 := by
  have h8 : 8 * j + 7 + 1 - 8 * j = 8 := by omega
  rw [natBits, h8, Nat.shiftRight_eq_div_pow, Nat.pow_mul]
  rfl

/-- The dot product with its bytes named. -/
theorem dot4_eq (h : VH) (a b c : Nat) : dot4 h a b c =
    fromI (if h.ty = .i8 then .i32 else .n32) h.sat (toI (if h.ty = .i8 then .i32 else .n32) c +
      toI h.ty (a / 256 ^ 0 % 256) * toI h.ty (b / 256 ^ 0 % 256) + toI h.ty (a / 256 ^ 1 % 256) * toI h.ty (b / 256 ^ 1 % 256) +
      toI h.ty (a / 256 ^ 2 % 256) * toI h.ty (b / 256 ^ 2 % 256) + toI h.ty (a / 256 ^ 3 % 256) * toI h.ty (b / 256 ^ 3 % 256)) := by
  simp only [← natBits_byte]
  rfl

/-- The dot product of bytes of a core whose registers hold no poison. -/
theorem vdot4_gives {s : State} (hp : s.me.r.poison = []) (hu : s.dev.upsets = []) (h : VH) (vd v1 v2 v3 : BitVec 5) {res : Nat → Nat × Byte}
    (hf : ∀ e, dot4 h (elem (vreg h v1 s) e 32) (elem (vreg h v2 s) e 32) (elem (vreg h v3 s) e 32) = res e) :
    exec (.vdot4 h vd v1 v2 v3) s = elemOut h 4 32 vd res s := by
  obtain rfl : (fun e => dot4 h (elem (vreg h v1 s) e 32) (elem (vreg h v2 s) e 32) (elem (vreg h v3 s) e 32)) = res := funext hf
  show Host.Outcome.next (vecRun h.cl 4 (own h [v1, v2, v3]) (elemEffs h vd 32 s (actives h 32 s)
    (fun e => dot4 h (elem (vreg h v1 s) e 32) (elem (vreg h v2 s) e 32) (elem (vreg h v3 s) e 32)) ++ residueEffs h vd 32 s) s) = _
  rw [residueEffs_nil hu, List.append_nil]
  exact congrArg Host.Outcome.next (vecRun_begins hp _ _ _ _)

/-- The pivot check (R55): the lanes that are active, those of them that fail, and the root of the others. -/
theorem vrsqp_gives {s : State} (hp : s.me.r.poison = []) (h : VH) (vd v1 : BitVec 5) (j : BitVec 4) :
    ∃ bits mask : W64, (∀ e, e < 64 → (mask.getLsbD e = active (s.me.r.getP h.grd) e 32 ∧
        (bits.getLsbD e = (active (s.me.r.getP h.grd) e 32 && pivotFails (elem (vreg h v1 s) e 32))))) ∧
      exec (.vrsqp h vd v1 j) s = .next (vecBegin h.cl 14 (.p (s.me.r.physP j) bits mask ::
        elemEffs h vd 32 s (actives h 32 s) fun e => if pivotFails (elem (vreg h v1 s) e 32) then (nanPat .f32, flNPP)
          else fout (noSat h) (rsqrtF (toF .f32 (elem (vreg h v1 s) e 32))) []) s) := by
  refine ⟨(actives h 32 s).foldl (fun b e => if pivotFails (elem (vreg h v1 s) e 32) then b ||| ((1 : W64) <<< e) else b) (0 : W64),
    (actives h 32 s).foldl (fun b e => b ||| ((1 : W64) <<< e)) (0 : W64), fun e he => ⟨?_, ?_⟩,
    congrArg Host.Outcome.next (vecRun_begins hp _ _ _ _)⟩
  · rw [getLsbD_foldl_lanes _ he, decide_mem_actives he]
  · rw [getLsbD_foldl_lane (fun e => pivotFails (elem (vreg h v1 s) e 32)) _ _ he, decide_mem_actives he]
    simp

/-- Settles O34: the roots and the quotient by the equation of a rounded result, the dot product by its bytes, and the pivot check by
the lanes of a mask. -/
theorem vectorDivideRootDot : Obligations.VectorDivideRootDot := by
  unfold Obligations.VectorDivideRootDot
  intro h vd v1 v2 v3 j s hp hu
  refine ⟨?_, ?_, ?_, fun ht => ?_, fun ht => ?_, fun ht => ?_⟩
  · exact vec2_gives hp (f := fun a b => fout (noSat h) (divF (toF h.ty a) (toF h.ty b)) [a, b]) fun e => fout_two (noSat h) _ _ _
  · exact vec1_gives hp (f := fun a => fout (noSat h) (sqrtF (toF h.ty a)) [a]) fun e => fout_one (noSat h) _ _
  · exact vec1_gives hp (f := fun a => fout (noSat h) (rsqrtF (toF h.ty a)) [a]) fun e => fout_one (noSat h) _ _
  · refine vdot4_gives hp hu h vd v1 v2 v3 fun e => ?_
    rw [dot4_eq, if_pos ht]
    rfl
  · refine vdot4_gives hp hu h vd v1 v2 v3 fun e => ?_
    rw [dot4_eq, if_neg (by rw [ht]; decide)]
    rfl
  · obtain ⟨bits, mask, hl, hx⟩ := vrsqp_gives hp h vd v1 j
    refine ⟨bits, mask, hl, hx.trans ?_⟩
    have hres : (fun e => if pivotFails (elem (vreg h v1 s) e 32) then (nanPat .f32, flNPP)
        else fout (noSat h) (rsqrtF (toF .f32 (elem (vreg h v1 s) e 32))) []) =
        fun e => if pivotFails (elem (vreg h v1 s) e 32) then (0x7FC00000, 0x40) else
          ((roundF h.ty h.rm false (rsqrtF (toF .f32 (elem (vreg h v1 s) e 32))).1).1,
            (roundF h.ty h.rm false (rsqrtF (toF .f32 (elem (vreg h v1 s) e 32))).1).2 |||
              (rsqrtF (toF .f32 (elem (vreg h v1 s) e 32))).2 ||| 0) := by
      funext e
      rw [fout_none]
      rfl
    rw [hres]
    rfl

end Sys2Proof.Machine
end

section
/-! O36: vector moves, permutes, packs and conversions (R127 to R133). -/

namespace Sys2Proof.Machine

section
variable {s : State} (hp : s.me.r.poison = []) (h : VH) (vd v1 : BitVec 5)
include hp

theorem splat_gives {i : Instr} {lat v : Nat} {srcs : List (Cluster × BitVec 5)}
    (hx : exec i s = .next (vecRun h.cl lat srcs (splat h vd v s) s)) : exec i s = elemOut h lat h.w vd (fun _ => (v, 0)) s := by
  rw [hx, vecRun_begins hp]
  rfl

/-- An operation that delivers elements alone gives them. -/
theorem elems_give {i : Instr} {lat : Nat} {srcs : List (Cluster × BitVec 5)} {f res : Nat → Nat × Byte}
    (hx : exec i s = .next (vecRun h.cl lat srcs (elemEffs h vd h.w s (actives h h.w s) f) s)) (hf : ∀ e, f e = res e) :
    exec i s = elemOut h lat h.w vd res s := by
  obtain rfl : f = res := funext hf
  rw [hx, vecRun_begins hp]
  rfl

end

/-! Values of moves (R127), packs (R130) and codes (R133). -/

theorem sext_toInt {w : Nat} (x : BitVec w) : sext x.toNat w = x.toInt := by
  rw [sext, BitVec.toInt_eq_toNat_cond, Nat.mod_eq_of_lt x.isLt]

theorem moviVal_int {t : ElemTy} (ht : tyI t = true) (imm : BitVec 24) : moviVal t imm = (imm.toInt % 2 ^ tyBits t).toNat := by
  rw [← wrap_pow, ← sext_toInt]
  match t, ht with
  | .i8, _ | .n8, _ | .i16, _ | .n16, _ | .i32, _ | .n32, _ => rfl

/-- Bool.toNat as the choice of a half. -/
theorem toNat_mul (b : Bool) (n : Nat) : b.toNat * n = if b then n else 0 := by
  cases b <;> simp

theorem toNat_if (b : Bool) : b.toNat = if b then 1 else 0 := by
  cases b <;> rfl

/-- The codes of the block that vdequant decodes, and +0 beyond them. -/
theorem dequant_elem (h : VH) (hb : Bool) (blk e : Nat) :
    (match dequantCode h.w hb.toNat e with
      | some c =>
        let v := b4Elem blk c
        let r := fromF h.ty h.rm false v.1
        (r.1, r.2 ||| v.2)
      | none => ((0, 0) : Nat × Byte)) =
      if (if h.w = 32 then (if hb then 64 else 0) + e else e) < 124 then
        ((fromF h.ty h.rm false (b4Elem blk (if h.w = 32 then (if hb then 64 else 0) + e else e)).1).1,
          (fromF h.ty h.rm false (b4Elem blk (if h.w = 32 then (if hb then 64 else 0) + e else e)).1).2 |||
            (b4Elem blk (if h.w = 32 then (if hb then 64 else 0) + e else e)).2)
      else (0, 0) := by
  have hc : (if h.w = 32 then 64 * hb.toNat + e else e) = if h.w = 32 then (if hb then 64 else 0) + e else e := by
    rw [Nat.mul_comm, toNat_mul]
  unfold dequantCode
  dsimp only
  rw [hc]
  generalize (if h.w = 32 then (if hb then 64 else 0) + e else e) = c
  by_cases hlt : c < 124
  · rw [if_pos hlt, if_pos hlt]
  · rw [if_neg hlt, if_neg hlt]

/-! Conversions (R131, R132). -/

section
variable {s : State} (hp : s.me.r.poison = []) (h : VH) (vd v1 : BitVec 5) (fm : ElemTy) (hh : BitVec 2)
include hp

/-- A conversion to a type that is no narrower reads the part hh of its source, or the whole of it. -/
theorem vcvt_widens (hw : tyBits fm ≤ h.w) : exec (.vcvt h vd v1 fm hh) s = .next (vecBegin h.cl 3 (elemEffs h vd h.w s
    ((List.range' 0 (2048 / max (tyBits fm) h.w)).filter (active (s.me.r.getP h.grd) · h.w)) fun e => convert h.ty fm h.rm h.sat
      (elem (vreg h v1 s) (if tyBits fm = h.w then e else hh.toNat * (2048 / max (tyBits fm) h.w) + e) (tyBits fm))) s) := by
  have hd : (upto 0 (2048 / max (tyBits fm) h.w)).map (fun e => if h.w < tyBits fm then hh.toNat * (2048 / max (tyBits fm) h.w) + e else e) =
      List.range' 0 (2048 / max (tyBits fm) h.w) := by
    simp only [if_neg (Nat.not_lt.mpr hw), List.map_id']
    rfl
  have hs : ∀ d, (if h.w < tyBits fm then d - hh.toNat * (2048 / max (tyBits fm) h.w)
      else if tyBits fm < h.w then hh.toNat * (2048 / max (tyBits fm) h.w) + d else d) =
      if tyBits fm = h.w then d else hh.toNat * (2048 / max (tyBits fm) h.w) + d := fun d => by
    rw [if_neg (Nat.not_lt.mpr hw)]
    rcases Nat.lt_or_eq_of_le hw with hl | he
    · rw [if_pos hl, if_neg (Nat.ne_of_lt hl)]
    · rw [if_neg (by omega), if_pos he]
  show execVcvt h vd v1 fm hh s = _
  unfold execVcvt
  dsimp only
  simp only [hd, hs, vecRun_begins hp]

/-- A conversion to a narrower type fills the part hh of its destination. -/
theorem vcvt_narrows (hw : h.w < tyBits fm) : exec (.vcvt h vd v1 fm hh) s = .next (vecBegin h.cl 3 (elemEffs h vd h.w s
    (((List.range' 0 (2048 / max (tyBits fm) h.w)).map (hh.toNat * (2048 / max (tyBits fm) h.w) + ·)).filter
      (active (s.me.r.getP h.grd) · h.w)) fun e => convert h.ty fm h.rm h.sat
      (elem (vreg h v1 s) (e - hh.toNat * (2048 / max (tyBits fm) h.w)) (tyBits fm))) s) := by
  show execVcvt h vd v1 fm hh s = _
  unfold execVcvt
  dsimp only
  simp only [if_pos hw, vecRun_begins hp]
  rfl

end

/-- Settles O36: each move and permutation by the value of its element, each conversion by the elements that it reads and fills. -/
theorem vectorMovesAndConversions : Obligations.VectorMovesAndConversions := by
  unfold Obligations.VectorMovesAndConversions
  refine ⟨fun h vd v1 v2 imm el sk k9 hb sg s hp => ⟨fun ht => ?_, fun ht => ?_, fun ht => ?_, ?_, ?_, ?_, ?_, ?_, ?_, ?_, ?_, ?_, ?_⟩,
    fun h vd v1 v2 fm hh bb bt e0 hb s hp => ⟨vcvt_widens hp h vd v1 fm hh, vcvt_narrows hp h vd v1 fm hh, ?_, ?_⟩⟩
  · refine (splat_gives hp h vd rfl).trans ?_
    rw [moviVal_int ht]
    rfl
  · refine (splat_gives hp h vd rfl).trans ?_
    rw [ht]
    rfl
  · refine (splat_gives hp h vd rfl).trans ?_
    rw [ht]
    rfl
  · refine elems_give hp h vd rfl fun e => ?_
    cases h.cl <;> rfl
  · exact vec1_gives hp (f := fun a => (a, 0)) fun e => rfl
  · exact splat_gives hp h vd rfl
  · exact splat_gives hp h vd rfl
  · exact elems_give hp h vd rfl fun e => rfl
  · exact elems_give hp h vd rfl fun e => rfl
  · refine elems_give hp h vd rfl fun e => ?_
    rw [toNat_mul]
    rfl
  · refine elems_give hp h vd rfl fun e => ?_
    rw [toNat_if]
    rfl
  · exact elems_give hp h vd rfl fun e => rfl
  · refine elems_give hp h vd rfl fun e => ?_
    rw [toNat_mul]
    dsimp only
    rw [wrap_pow]
    cases h.ty <;> rfl
  · exact congrArg Host.Outcome.next (vecRun_begins hp _ _ _ _)
  · exact elems_give hp h vd rfl fun e => dequant_elem h hb _ e

end Sys2Proof.Machine
end

section
/-! O35: vector compares, selection and reductions (R58, R59, R124 to R126). -/

namespace Sys2Proof.Machine

/-! Compares (R124). -/

theorem flagIf_or (a b : Bool) (f : Byte) : flagIf a f ||| flagIf b f = flagIf (a || b) f := by
  cases a <;> cases b <;> simp [flagIf]

/-- The invalid flag of a list of elements is one of them being a signalling NaN. -/
theorem foldl_snan (t : ElemTy) (a b : Nat → Nat) (es : List Nat) (f : Byte) :
    es.foldl (fun f e => f ||| snanFlag t (a e) ||| snanFlag t (b e)) f =
      f ||| flagIf (es.any fun e => isSnan t (a e) || isSnan t (b e)) flNV := by
  induction es generalizing f with
  | nil => exact BitVec.or_zero.symm
  | cons e es ih =>
    rw [List.foldl_cons, ih, List.any_cons, BitVec.or_assoc, BitVec.or_assoc]
    congr 1
    rw [snanFlag, snanFlag, flagIf_or, flagIf_or, Bool.or_assoc]

theorem snanFlags (t : ElemTy) (a b : Nat → Nat) (es : List Nat) :
    es.foldl (fun f e => f ||| snanFlag t (a e) ||| snanFlag t (b e)) 0 =
      flagIf (es.any fun e => isSnan t (a e) || isSnan t (b e)) flNV :=
  (foldl_snan t a b es 0).trans BitVec.zero_or

theorem vcompare_gives {s : State} (hp : s.me.r.poison = []) (h : VH) (v1 v2 : BitVec 5) (j : BitVec 4) {ci : Int → Int → Bool}
    {cp : Int → Int → Prop} (cf : FVal → FVal → Bool) (hc : ∀ x y, ci x y = true ↔ cp x y) {i : Instr}
    (hx : exec i s = vcompare h v1 v2 j ci cf s) :
    let a (e : Nat) : Nat := elem (s.me.r.getV h.cl v1) e 32
    let b (e : Nat) : Nat := elem (s.me.r.getV h.cl v2) e 32
    let on (e : Nat) : Bool := active (s.me.r.getP h.grd) e 32
    ∃ (bits mask : W64) (fl : Byte),
      (∀ e, e < 64 → mask.getLsbD e = on e ∧ (bits.getLsbD e = true ↔ on e = true ∧
        (if tyI h.ty then cp (toI h.ty (a e)) (toI h.ty (b e)) else cf (toF .f32 (a e)) (toF .f32 (b e)) = true))) ∧
      (fl = 0 ∨ fl = 0x01) ∧ (fl = 0x01 ↔ ∃ e, e < 64 ∧ on e = true ∧ (isSnan h.ty (a e) = true ∨ isSnan h.ty (b e) = true)) ∧
      exec i s = .next (vecBegin h.cl 2 (.p (s.me.r.physP j) bits mask :: if fl = 0 then [] else [.flags fl]) s) := by
  intro a b on
  refine ⟨_, _, _, fun e he => ⟨(getLsbD_foldl_lanes (actives h 32 s) he).trans (decide_mem_actives he), ?_⟩, ?_, ?_,
    hx.trans (congrArg Host.Outcome.next (vecRun_begins hp _ _ _ _))⟩
  · have h0 : (0 : W64).getLsbD e = false := BitVec.getLsbD_zero
    rw [getLsbD_foldl_lane _ _ _ he, decide_mem_actives he, h0, Bool.false_or, Bool.and_eq_true]
    refine and_congr_right fun _ => ?_
    by_cases hi : tyI h.ty = true
    · rw [if_pos hi, if_pos hi, hc]
      rfl
    · rw [if_neg hi, if_neg hi]
      rfl
  · rw [snanFlags h.ty (fun e => elem (vreg h v1 s) e 32) fun e => elem (vreg h v2 s) e 32]
    cases (actives h 32 s).any _
    · exact .inl rfl
    · exact .inr rfl
  · rw [snanFlags h.ty (fun e => elem (vreg h v1 s) e 32) fun e => elem (vreg h v2 s) e 32]
    have hany : ((actives h 32 s).any fun e => isSnan h.ty (elem (vreg h v1 s) e 32) || isSnan h.ty (elem (vreg h v2 s) e 32)) = true ↔
        ∃ e, e < 64 ∧ on e = true ∧ (isSnan h.ty (a e) = true ∨ isSnan h.ty (b e) = true) := by
      rw [List.any_eq_true]
      constructor
      · rintro ⟨e, he, hs⟩
        have hlt : e < 64 := by
          have := List.mem_range'_1.mp (List.mem_of_mem_filter he)
          simpa [lanesOf] using this.2
        exact ⟨e, hlt, (mem_actives (w := 32) hlt).mp he, Bool.or_eq_true_iff.mp hs⟩
      · rintro ⟨e, hlt, ho, hs⟩
        exact ⟨e, (mem_actives (w := 32) hlt).mpr ho, Bool.or_eq_true_iff.mpr hs⟩
    rw [← hany]
    cases (actives h 32 s).any _
    · exact ⟨fun h => absurd h (by decide), fun h => absurd h (by decide)⟩
    · exact ⟨fun _ => rfl, fun _ => rfl⟩

/-! The tree of a reduction (R58). -/

/-- Node n of level l above the leaves: two neighbours of the level below, combined. -/
def treeAt (f : Nat × Byte → Nat × Byte → Nat × Byte) (leaf : Nat → Nat × Byte) : Nat → Nat → Nat × Byte
  | 0, n => leaf n
  | l + 1, n => f (treeAt f leaf l (2 * n)) (treeAt f leaf l (2 * n + 1))

theorem treeStep_range (f : Nat × Byte → Nat × Byte → Nat × Byte) (m : Nat) : ∀ (g : Nat → Nat × Byte) (o : Nat),
    treeStep f ((List.range' (2 * o) (2 * m)).map g) = (List.range' o m).map fun n => f (g (2 * n)) (g (2 * n + 1)) := by
  induction m with
  | zero => exact fun _ _ => rfl
  | succ m ih =>
    intro g o
    have h := ih g (o + 1)
    rw [Nat.mul_succ, List.range'_succ, List.range'_succ, List.range'_succ, List.map_cons, List.map_cons, List.map_cons, treeStep, ← h]
    rfl

theorem treeStep_level (f : Nat × Byte → Nat × Byte → Nat × Byte) (leaf : Nat → Nat × Byte) (l d : Nat) :
    treeStep f ((List.range' 0 (2 ^ (d + 1))).map (treeAt f leaf l)) = (List.range' 0 (2 ^ d)).map (treeAt f leaf (l + 1)) := by
  rw [Nat.pow_succ']
  exact treeStep_range f (2 ^ d) (treeAt f leaf l) 0

theorem reduceTree_root (f : Nat × Byte → Nat × Byte → Nat × Byte) (x : Nat × Byte) (n : Nat) : reduceTree f [x] n = [x] := by
  induction n with
  | zero => rfl
  | succ n ih => exact ih

/-- Enough steps leave the root of the tree. -/
theorem reduceTree_levels (f : Nat × Byte → Nat × Byte → Nat × Byte) (leaf : Nat → Nat × Byte) (d : Nat) : ∀ l j,
    reduceTree f ((List.range' 0 (2 ^ d)).map (treeAt f leaf l)) (d + j) = [treeAt f leaf (l + d) 0] := by
  induction d with
  | zero => exact fun l j => reduceTree_root f _ _
  | succ d ih =>
    intro l j
    rw [Nat.succ_add, reduceTree, treeStep_level, ih, Nat.succ_add]
    rfl

/-! Reductions (R126). -/

/-- The levels of a reduction: the elements of a register are 2 to this power. -/
def redLevels (h : VH) : Nat := match h.w with | 32 => 6 | 16 => 7 | _ => 8

theorem redLevels_spec (h : VH) : 2048 / h.w = 2 ^ redLevels h ∧ redLat h = 2 + redLevels h ∧ redLevels h ≤ 8 := by
  obtain ⟨cl, grd, ty, sat, rm⟩ := h
  cases ty <;> simp [VH.w, redLevels, redLat, tyBits]

/-- Where z changes nothing that has begun with it, inactive elements may enter a fold as z. -/
theorem foldl_filter_unit {fi : Int → Int → Int} {z : Int} (hz : fi z z = z) (hs : ∀ t x, fi t z = t → fi (fi t x) z = fi t x)
    (act : Nat → Bool) (g : Nat → Int) (es : List Nat) : ∀ t, fi t z = t →
    (es.filter act).foldl (fun t e => fi t (g e)) t = es.foldl (fun t e => fi t (if act e then g e else z)) t := by
  induction es with
  | nil => exact fun _ _ => rfl
  | cons e es ih =>
    intro t ht
    rw [List.foldl_cons]
    by_cases ha : act e = true
    · rw [List.filter_cons_of_pos ha, List.foldl_cons, if_pos ha]
      exact ih _ (hs t _ ht)
    · rw [List.filter_cons_of_neg ha, if_neg ha, ht]
      exact ih t ht

/-- A value of 32 bits fills lane 0 and no other. -/
theorem elem_ofNat_low (v : Nat) : elem (BitVec.ofNat 2048 (v % 2 ^ 32)) 0 32 = v % 2 ^ 32 ∧
    ∀ e, 1 ≤ e → elem (BitVec.ofNat 2048 (v % 2 ^ 32)) e 32 = 0 := by
  have hv : v % 2 ^ 32 < 2 ^ 32 := Nat.mod_lt _ (Nat.two_pow_pos 32)
  have ht : (BitVec.ofNat 2048 (v % 2 ^ 32)).toNat = v % 2 ^ 32 := by
    rw [BitVec.toNat_ofNat]
    exact Nat.mod_eq_of_lt (Nat.lt_of_lt_of_le hv (Nat.pow_le_pow_right (by decide) (by decide)))
  have hel : ∀ e, elem (BitVec.ofNat 2048 (v % 2 ^ 32)) e 32 = v % 2 ^ 32 / 2 ^ (e * 32) % 2 ^ 32 := fun e => by
    have hw : e * 32 + 32 - 1 + 1 - e * 32 = 32 := by omega
    rw [elem, natBits_eq, ht, hw]
  refine ⟨?_, fun e he => ?_⟩
  · rw [hel, Nat.zero_mul, Nat.pow_zero, Nat.div_one, Nat.mod_mod]
  · rw [hel, Nat.div_eq_of_lt (Nat.lt_of_lt_of_le hv (Nat.pow_le_pow_right (by decide) (by omega))), Nat.zero_mod]

/-- The combination of two nodes of a float reduction. -/
def redNode (h : VH) (ff : FVal → FVal → FRes) (round : Bool) (y u : Nat × Byte) : Nat × Byte :=
  let r := ff (toF .f32 y.1) (toF .f32 u.1)
  let q := roundF .f32 (if round then h.rm else .rne) (round && h.sat) r.1
  (q.1, q.2 ||| r.2 ||| y.2 ||| u.2)

/-- The leaf of an element. -/
def redLeaf (h : VH) (idp : Nat) (a : VWord) (s : State) (e : Nat) : Nat × Byte :=
  if active (s.me.r.getP h.grd) e h.w then
    ((roundF .f32 .rne false (toF h.ty (elem a e h.w))).1, snanFlag h.ty (elem a e h.w))
  else (idp, 0)

theorem redF_root (h : VH) (idp : Nat) (ff : FVal → FVal → FRes) (round : Bool) (a : VWord) (s : State) :
    redF h idp ff round a s = treeAt (redNode h ff round) (redLeaf h idp a s) (redLevels h) 0 := by
  obtain ⟨hn, -, h8⟩ := redLevels_spec h
  have hnode : (fun x y : Nat × Byte =>
      let r := ff (toF .f32 x.1) (toF .f32 y.1)
      let q := if round then roundF .f32 h.rm h.sat r.1 else roundF .f32 .rne false r.1
      (q.1, q.2 ||| r.2 ||| x.2 ||| y.2)) = redNode h ff round := by
    funext x y
    cases round <;> rfl
  have h8r := reduceTree_levels (redNode h ff round) (redLeaf h idp a s) (redLevels h) 0 (8 - redLevels h)
  rw [Nat.add_sub_cancel' h8, Nat.zero_add] at h8r
  unfold redF
  dsimp only at hnode ⊢
  rw [hnode, VH.n, hn]
  exact congrArg (fun l : List (Nat × Byte) => (l.head?).getD (idp, 0)) h8r

theorem redI_fold (h : VH) {z : Int} {fi : Int → Int → Int} (hz : fi z z = z) (hs : ∀ t x, fi t z = t → fi (fi t x) z = fi t x)
    (a : VWord) (s : State) : redI h z fi a s = fromI (if h.ty = .i8 ∨ h.ty = .i16 ∨ h.ty = .i32 then .i32 else .n32) h.sat
      ((List.range (2 ^ redLevels h)).foldl
        (fun t e => fi t (if active (s.me.r.getP h.grd) e h.w then toI h.ty (elem a e h.w) else z)) z) := by
  have hty : (match h.ty with | .i8 | .i16 | .i32 => ElemTy.i32 | _ => .n32) =
      if h.ty = .i8 ∨ h.ty = .i16 ∨ h.ty = .i32 then .i32 else .n32 := by
    cases h.ty <;> rfl
  have hl : upto 0 (lanesOf h.w) = List.range (2 ^ redLevels h) := by
    rw [lanesOf, (redLevels_spec h).1, List.range_eq_range']
    rfl
  unfold redI actives
  rw [hl, foldl_filter_unit hz hs (active (s.me.r.getP h.grd) · h.w) (fun e => toI h.ty (elem a e h.w)) _ z hz]
  exact congrArg (fun t => fromI t h.sat _) hty

theorem reduce_gives {s : State} (hp : s.me.r.poison = []) (h : VH) (vd v1 : BitVec 5) {z : Int} {fi : Int → Int → Int} (idp : Nat)
    (ff : FVal → FVal → FRes) (round : Bool) (hz : fi z z = z) (hs : ∀ t x, fi t z = t → fi (fi t x) z = fi t x) {i : Instr}
    (hx : exec i s = reduce h vd v1 z fi idp ff round s) :
    ∃ (w : VWord) (v : Nat) (fl : Byte), elem w 0 32 = v % 2 ^ 32 ∧ (∀ e, 1 ≤ e → e < 64 → elem w e 32 = 0) ∧
      exec i s = .next (vecBegin h.cl (2 + redLevels h)
        (.v h.cl (s.me.r.physV vd) w (BitVec.allOnes 2048) :: if fl = 0 then [] else [.flags fl]) s) ∧
      (tyI h.ty = true → (v, fl) = fromI (if h.ty = .i8 ∨ h.ty = .i16 ∨ h.ty = .i32 then .i32 else .n32) h.sat
        ((List.range (2 ^ redLevels h)).foldl
          (fun t e => fi t (if active (s.me.r.getP h.grd) e h.w then toI h.ty (elem (vreg h v1 s) e h.w) else z)) z)) ∧
      (tyI h.ty = false → (v, fl) = treeAt (redNode h ff round) (redLeaf h idp (vreg h v1 s) s) (redLevels h) 0) := by
  have hr : exec i s = .next (vecBegin h.cl (2 + redLevels h) (redEffs h vd
      (if tyI h.ty then redI h z fi (vreg h v1 s) s else redF h idp ff round (vreg h v1 s) s) s) s) := by
    rw [hx, ← (redLevels_spec h).2.1]
    exact congrArg Host.Outcome.next (vecRun_begins hp _ _ _ _)
  refine ⟨_, _, _, (elem_ofNat_low _).1, fun e he _ => (elem_ofNat_low _).2 e he, hr, fun hi => ?_, fun hf => ?_⟩
  · rw [if_pos hi]
    exact redI_fold h hz hs (vreg h v1 s) s
  · rw [if_neg (by rw [hf]; decide)]
    exact redF_root h idp ff round (vreg h v1 s) s

/-- The nodes of the tree, as the statement of the reductions asks for them. -/
theorem treeAt_nodes (h : VH) (idp : Nat) (ff : FVal → FVal → FRes) (round : Bool) (a : VWord) (s : State) {v : Nat × Byte} {last : Nat}
    (hv : v = treeAt (redNode h ff round) (redLeaf h idp a s) last 0) :
    ∃ x : Nat → Nat → Nat × Byte, (∀ e, e < 2 ^ last → x 0 e = redLeaf h idp a s e) ∧
      (∀ l n, l < last → n < 2 ^ (last - l - 1) → x (l + 1) n = redNode h ff round (x l (2 * n)) (x l (2 * n + 1))) ∧ x last 0 = v :=
  ⟨treeAt (redNode h ff round) (redLeaf h idp a s), fun _ _ => rfl, fun _ _ _ _ => rfl, hv.symm⟩

theorem vsel_gives {s : State} (hp : s.me.r.poison = []) (h : VH) (vd v1 v2 : BitVec 5) (j : BitVec 4) :
    exec (.vsel h vd v1 v2 j) s = elemOut h 2 h.w vd (fun e =>
      (elem (if (s.me.r.getP j).getLsbD (e * h.w / 32) then s.me.r.getV h.cl v1 else s.me.r.getV h.cl v2) e h.w, 0)) s := by
  refine elems_give hp h vd rfl fun e => ?_
  rw [apply_ite (fun v => elem v e h.w)]
  rfl

/-- Settles O35: compares by the lanes of their masks, reductions of integers by a fold that the identity leaves as it is, and of
floats by the levels of their tree. -/
theorem vectorCompareSelectReduce : Obligations.VectorCompareSelectReduce := by
  unfold Obligations.VectorCompareSelectReduce
  intro h vd v1 v2 j s hp
  refine ⟨?_, ?_, ?_, ?_, vsel_gives hp h vd v1 v2 j, ?_, ?_, ?_⟩
  · exact vcompare_gives hp h v1 v2 j (i := .vcmpeq h v1 v2 j) (ci := fun a b => decide (a = b)) FVal.eqv
      (fun _ _ => decide_eq_true_iff) rfl
  · exact vcompare_gives hp h v1 v2 j (i := .vcmpne h v1 v2 j) (ci := fun a b => decide (a ≠ b)) (fun x y => !x.eqv y)
      (fun _ _ => decide_eq_true_iff) rfl
  · exact vcompare_gives hp h v1 v2 j (i := .vcmplt h v1 v2 j) (ci := fun a b => decide (a < b)) FVal.lt
      (fun _ _ => decide_eq_true_iff) rfl
  · exact vcompare_gives hp h v1 v2 j (i := .vcmple h v1 v2 j) (ci := fun a b => decide (a ≤ b)) (fun x y => x.lt y || x.eqv y)
      (fun _ _ => decide_eq_true_iff) rfl
  · obtain ⟨w, v, fl, h0, h1, hx, hi, hf⟩ := reduce_gives hp h vd v1 (i := .vredsum h vd v1) 0x80000000 (addF h.rm) true
      (z := 0) (fi := (· + ·)) rfl (fun t x _ => Int.add_zero _) rfl
    exact ⟨w, v, fl, h0, h1, hx, hi, fun ht _ => treeAt_nodes h _ _ _ _ s (hf ht)⟩
  · obtain ⟨w, v, fl, h0, h1, hx, hi, hf⟩ := reduce_gives hp h vd v1 (i := .vredmax h vd v1) 0xFF800000 (fun x y => (maxF x y, 0)) false
      (z := intLo h.ty) (fi := max) (max_self _) (fun t x ht => by omega) rfl
    exact ⟨w, v, fl, h0, h1, hx, hi, fun ht _ => treeAt_nodes h _ _ _ _ s (hf ht)⟩
  · obtain ⟨w, v, fl, h0, h1, hx, hi, hf⟩ := reduce_gives hp h vd v1 (i := .vredmin h vd v1) 0x7F800000 (fun x y => (minF x y, 0)) false
      (z := intHi h.ty) (fi := min) (min_self _) (fun t x ht => by omega) rfl
    exact ⟨w, v, fl, h0, h1, hx, hi, fun ht _ => treeAt_nodes h _ _ _ _ s (hf ht)⟩

end Sys2Proof.Machine
end

section
/-! O37: vector loads and stores of the pad (R134 to R139). -/

namespace Sys2Proof.Machine

/-! The checks of the active elements (R134). -/

/-- Element n of an access takes place: it is there, and active under the guard. -/
def ElemActs (h : VH) (s : State) (n : Nat) : Prop := n < 2048 / h.w ∧ active (s.me.r.getP h.grd) n h.w = true

/-- An element's bytes reach beyond the pad. -/
def ElemOut (h : VH) (at_ : Nat → Nat) (n : Nat) : Prop := 0x200000 < at_ n + h.w / 8

/-- An element's address is not aligned; of blocks of four the base counts. -/
def ElemMisaligned (h : VH) (b : Nat) (at_ : Nat → Nat) (n : Nat) : Prop := if h.ty = .b4 then b % 64 ≠ 0 else at_ n % (h.w / 8) ≠ 0

theorem mem_actives_iff {h : VH} {s : State} {n : Nat} : n ∈ actives h h.w s ↔ ElemActs h s n := by
  unfold actives upto ElemActs lanesOf
  rw [List.mem_filter, List.mem_range'_1, Nat.zero_add]
  exact and_congr_left fun _ => ⟨fun h => h.2, fun h => ⟨Nat.zero_le _, h⟩⟩

/-- The first active element for which a test of its address holds. -/
theorem find_first {h : VH} {s : State} {at_ : Nat → Nat} {p : Nat → Bool} {n : Nat} (hn : ElemActs h s n) (hp : p (at_ n) = true)
    (hl : ∀ m, m < n → ElemActs h s m → p (at_ m) = false) : ((actives h h.w s).map at_).find? p = some (at_ n) := by
  have hf : (actives h h.w s).find? (p ∘ at_) = some n := by
    unfold actives upto
    rw [List.find?_filter, ← List.range_eq_range', List.find?_range_eq_some]
    refine ⟨by simp [hn.2, hp], List.mem_range.mpr hn.1, fun m hm => ?_⟩
    by_cases ha : active (s.me.r.getP h.grd) m h.w = true
    · simp [hl m hm ⟨Nat.lt_trans hm hn.1, ha⟩]
    · simp [ha]
  rw [List.find?_map, hf]
  rfl

theorem find_none {h : VH} {s : State} {at_ : Nat → Nat} {p : Nat → Bool} (hl : ∀ m, ElemActs h s m → p (at_ m) = false) :
    ((actives h h.w s).map at_).find? p = none := by
  rw [List.find?_eq_none]
  intro a ha
  obtain ⟨m, hm, rfl⟩ := List.mem_map.mp ha
  rw [hl m (mem_actives_iff.mp hm)]
  decide

section
variable {h : VH} {b : Nat} {at_ : Nat → Nat} {s : State}

theorem padCheck_out {n : Nat} (hn : ElemActs h s n) (ho : ElemOut h at_ n) (hl : ∀ m, m < n → ElemActs h s m → ¬ ElemOut h at_ m) :
    padCheck h b ((actives h h.w s).map at_) = some (0x07, at_ n) := by
  unfold padCheck
  dsimp only
  rw [find_first (p := fun a => decide (0x200000 < a + h.w / 8)) hn (decide_eq_true ho) fun m hm ha => decide_eq_false (hl m hm ha)]

theorem padCheck_in (hl : ∀ m, ElemActs h s m → ¬ ElemOut h at_ m) : padCheck h b ((actives h h.w s).map at_) =
    if h.ty = .b4 then (if ((actives h h.w s).map at_).isEmpty ∨ b % 64 = 0 then none else some (0x06, b))
    else (((actives h h.w s).map at_).find? fun a => a % (h.w / 8) != 0).map fun a => (0x06, a) := by
  unfold padCheck
  dsimp only
  rw [find_none (p := fun a => decide (0x200000 < a + h.w / 8)) fun m hm => decide_eq_false (hl m hm)]

theorem padCheck_misaligned {n : Nat} (hn : ElemActs h s n) (hm : ElemMisaligned h b at_ n)
    (hl : ∀ m, m < n → ElemActs h s m → ¬ ElemMisaligned h b at_ m) (hin : ∀ m, ElemActs h s m → ¬ ElemOut h at_ m) :
    padCheck h b ((actives h h.w s).map at_) = some (0x06, if h.ty = .b4 then b else at_ n) := by
  rw [padCheck_in hin]
  unfold ElemMisaligned at hm hl
  by_cases h4 : h.ty = .b4
  · rw [if_pos h4] at hm
    have hne : ((actives h h.w s).map at_).isEmpty = false :=
      List.isEmpty_eq_false_iff.mpr (List.ne_nil_of_mem (List.mem_map_of_mem (mem_actives_iff.mpr hn)))
    rw [if_pos h4, if_pos h4, if_neg (by rw [hne]; simpa using hm)]
  · simp only [if_neg h4] at hm hl
    rw [if_neg h4, if_neg h4, find_first (p := fun a => a % (h.w / 8) != 0) hn (bne_iff_ne.mpr hm) fun m hlt ha => by
      simpa using hl m hlt ha]
    rfl

theorem padCheck_passes (hok : ∀ n, ElemActs h s n → ¬ ElemOut h at_ n ∧ ¬ ElemMisaligned h b at_ n) :
    padCheck h b ((actives h h.w s).map at_) = none := by
  rw [padCheck_in fun m hm => (hok m hm).1]
  unfold ElemMisaligned at hok
  by_cases h4 : h.ty = .b4
  · rw [if_pos h4]
    refine if_pos ?_
    cases hl : actives h h.w s with
    | nil => exact .inl rfl
    | cons m l =>
      have := (hok m (mem_actives_iff.mp (hl ▸ List.mem_cons_self))).2
      rw [if_pos h4] at this
      exact .inr (not_not.mp this)
  · rw [if_neg h4, find_none (p := fun a => a % (h.w / 8) != 0) fun m hm => by
      have := (hok m hm).2
      rw [if_neg h4] at this
      simpa using this]
    rfl

end

/-! What a load reads (R138, R381). -/

theorem badUnit_pad {s : State} (hp : s.dev.poison = []) (he : s.dev.errs = []) (a z : Nat) :
    s.badUnit (islOf s.cur) (padKey s.cur a) z = none := by
  have hk : ¬ padKey s.cur a < 0x3000000000 := by
    unfold padKey
    omega
  unfold State.badUnit State.onFenced
  rw [decide_eq_false hk, hp, he]
  rfl

theorem padPoison_clean {s : State} (hp : s.dev.poison = []) (he : s.dev.errs = []) (hw : ∀ w ∈ s.me.wst, w.bad = none) (a z : Nat) :
    padPoison s (padKey s.cur a) z = none := by
  unfold padPoison
  rw [badUnit_pad hp he]
  refine List.foldlRecOn (motive := fun b => b = none) s.me.wst _ rfl fun b hb t ht => ?_
  dsimp only
  rw [hw t ht, hb]
  simp

/-- A vector load keeps its pad accesses in mind where an older one is open, and changes nothing else. -/
theorem vecRead_spec (h : VH) (keys : List Nat) (s : State) :
    ∃ l, (s.me.open_ = [] → l = s.me.early) ∧ vecRead h keys s = s.modMe fun k => { k with early := l } := by
  have same : s = s.modMe fun k => { k with early := s.me.early } :=
    (State.modC_same s (fun k => { k with early := s.me.early }) (c := s.cur) rfl).symm
  unfold vecRead
  by_cases hk : keys.isEmpty = true
  · rw [if_pos hk]
    exact ⟨_, fun _ => rfl, same⟩
  · rw [if_neg hk]
    by_cases ho : s.me.open_ = []
    · exact ⟨_, fun _ => rfl, ((notePad_spec s.cur _ s).2 ho).trans same⟩
    · obtain ⟨f, hf⟩ := (notePad_spec s.cur ⟨0, s.order, true, false, .pad, (keySpan keys).1, (keySpan keys).2 - 1 + h.w / 8, false, false,
        0, Trip.init⟩ s).1
      exact ⟨f s.me, fun h0 => absurd h0 ho, hf.trans (State.modC_congr rfl)⟩

theorem notePads_clean {s : State} (he : s.dev.errs = []) (keys : List Nat) : notePads s keys = s :=
  if_pos (by rw [he]; rfl)

theorem withhold_last (sp : Sp) (va : W64) (cells : List Host.Cell) (n : Nat) (rel : Bool) (scp : BitVec 2) (bad : Option Nat) (trip : Trip)
    (s : State) : ∃ w, (withhold sp va cells n rel scp bad trip s).me.wst = s.me.wst ++ [w] ∧ w.sp = sp ∧ w.cells = cells ∧
      w.entries = n ∧ w.seq = s.order :=
  ⟨_, congrArg CoreSt.wst (withhold_me sp va cells n rel scp bad trip s), rfl, rfl, rfl, rfl⟩

section
variable {h : VH} {lat b : Nat} {vd : BitVec 5} {srcs : List (BitVec 5)} {at_ : Nat → Nat} {s : State} {i : Instr}

theorem vecLoad_traps (hx : exec i s = vecLoad h lat vd srcs b at_ s) {c : Byte} {a : Nat}
    (hc : padCheck h b ((actives h h.w s).map at_) = some (c, a)) :
    exec i s = .next (takeTrap c (BitVec.ofNat 64 a) (BitVec.ofNat 64 (h.w / 8)) s) := by
  rw [hx, vecLoad, hc]

theorem vecLoad_reads (hp : s.me.r.poison = []) (hd : s.dev.poison = []) (he : s.dev.errs = []) (hw : ∀ w ∈ s.me.wst, w.bad = none)
    (hx : exec i s = vecLoad h lat vd srcs b at_ s) (hc : padCheck h b ((actives h h.w s).map at_) = none) :
    ∃ l, (s.me.open_ = [] → l = s.me.early) ∧ exec i s = .next (vecBegin h.cl lat (elemEffs h vd h.w s (actives h h.w s) fun n =>
      (padValue s (padKey s.cur (at_ n)) (h.w / 8), 0)) (s.modMe fun k => { k with early := l })) := by
  obtain ⟨l, hl, hr⟩ := vecRead_spec h ((actives h h.w s).map fun e => padKey s.cur (at_ e)) s
  have hbad : ((actives h h.w s).findSome? fun e => padPoison s (padKey s.cur (at_ e)) (h.w / 8)) = none :=
    List.findSome?_eq_none_iff.mpr fun e _ => padPoison_clean hd he hw _ _
  have hp' : (s.modMe fun k => { k with early := l }).me.r.poison = [] := by
    rw [State.modMe_me]
    exact hp
  refine ⟨l, hl, ?_⟩
  rw [hx, vecLoad, hc]
  dsimp only
  rw [hbad, notePads_clean he, hr, vecRun_begins hp']

theorem vecStore_traps (hx : exec i s = vecStore h vd srcs b at_ s) {c : Byte} {a : Nat}
    (hc : padCheck h b ((actives h h.w s).map at_) = some (c, a)) :
    exec i s = .next (takeTrap c (BitVec.ofNat 64 a) (BitVec.ofNat 64 (h.w / 8)) s) := by
  rw [hx, vecStore, hc]

/-- A store that passes withholds the bytes of its active elements, and nothing when there is none. -/
theorem vecStore_withholds (hp : s.me.r.poison = []) (hx : exec i s = vecStore h vd srcs b at_ s)
    (hc : padCheck h b ((actives h h.w s).map at_) = none) :
    ∃ t, exec i s = .next t ∧ (∀ k, memRd t.mem k = memRd s.mem k) ∧ t.me.r = s.me.r ∧ t.me.pend = s.me.pend ∧
      (vecCells h vd at_ s = [] → t.me.wst = s.me.wst) ∧
      (vecCells h vd at_ s ≠ [] → ∃ w, t.me.wst = s.me.wst ++ [w] ∧ w.sp = .pad ∧ w.cells = vecCells h vd at_ s ∧
        w.entries = piecesOf (vecCells h vd at_ s) ∧ w.seq = s.order) := by
  have hb : (vecBegin h.cl 0 [] s).me.r = s.me.r ∧ (vecBegin h.cl 0 [] s).me.pend = s.me.pend ∧
      (vecBegin h.cl 0 [] s).me.wst = s.me.wst ∧ (vecBegin h.cl 0 [] s).mem = s.mem ∧ (vecBegin h.cl 0 [] s).order = s.order := by
    unfold vecBegin
    rw [State.modMe_me]
    cases h.cl <;> exact ⟨rfl, rfl, rfl, rfl, rfl⟩
  obtain ⟨hr, hpe, hw, hm, ho⟩ := hb
  rw [hx, vecStore, hc]
  dsimp only
  rw [poisonOf_nil hp]
  dsimp only
  generalize vecBegin h.cl 0 [] s = s1 at hr hpe hw hm ho ⊢
  by_cases hcl : vecCells h vd at_ s = []
  · rw [if_pos (by rw [hcl]; rfl)]
    exact ⟨s1, rfl, fun k => by rw [hm], hr, hpe, fun _ => hw, fun hn => absurd hcl hn⟩
  · rw [if_neg (by rw [List.isEmpty_iff]; exact hcl)]
    refine ⟨_, rfl, fun k => congrArg (memRd · k) hm, ?_, ?_, fun hn => absurd hn hcl, fun _ => ?_⟩
    · rw [withhold_me]
      exact hr
    · rw [withhold_me]
      exact hpe
    · rw [← hw, ← ho]
      exact withhold_last _ _ _ _ _ _ _ _ _

end

/-! Addresses (R134, R136, R137). -/

theorem addr64_add (b x : Nat) : addr64 ((b : Int) + (x : Int)) = (b + x) % 2 ^ 64 := by
  unfold addr64 wrap
  omega

theorem strideAt_eq (b : Nat) (t : BitVec 6) (s : State) :
    strideAt b t s = fun e => (((b : Int) + (e : Int) * (s.me.r.getS t).toInt) % 2 ^ 64).toNat :=
  funext fun _ => wrap_pow _ 64

theorem indexAt_eq (h : VH) (b : Nat) (v2 : BitVec 5) (s : State) : indexAt h b v2 s = fun e => (b + elem (vreg h v2 s) e 32) % 2 ^ 64 :=
  funext fun _ => addr64_add b _

/-- Settles O37: the checks by the first active element that fails them, a load by what it reads, a store by what it withholds. -/
theorem vectorPadAccess : Obligations.VectorPadAccess := by
  unfold Obligations.VectorPadAccess
  refine ⟨fun h vd v2 off off' sk st s hp hd he hw => ?_, fun h vd v2 off off' sk st s hp => ?_⟩
  · intro z base loads e hmem
    have hload : ∃ srcs, exec e.1 s = vecLoad h e.2.1 vd srcs e.2.2.1 e.2.2.2 s := by
      simp only [loads, List.mem_cons, List.not_mem_nil, or_false] at hmem
      rcases hmem with rfl | rfl | rfl | rfl
      · exact ⟨[], rfl⟩
      · exact ⟨[], rfl⟩
      · exact ⟨[], congrArg (fun a => vecLoad h 6 vd [] (padBase sk off'.toNat s) a s) (strideAt_eq _ st s)⟩
      · exact ⟨[v2], congrArg (fun a => vecLoad h 6 vd [v2] (padBase sk off.toNat s) a s) (indexAt_eq h _ v2 s)⟩
    obtain ⟨srcs, hx⟩ := hload
    exact ⟨fun n hn ho hl => vecLoad_traps hx (padCheck_out hn ho hl), fun n hn hm hl hin => vecLoad_traps hx (padCheck_misaligned hn hm hl hin),
      fun hok => vecLoad_reads hp hd he hw hx (padCheck_passes hok)⟩
  · intro z base stores e hmem
    have hstore : ∃ srcs, exec e.1 s = vecStore h vd srcs e.2.1 e.2.2 s := by
      simp only [stores, List.mem_cons, List.not_mem_nil, or_false] at hmem
      rcases hmem with rfl | rfl | rfl
      · exact ⟨[], rfl⟩
      · exact ⟨[], congrArg (fun a => vecStore h vd [] (padBase sk off'.toNat s) a s) (strideAt_eq _ st s)⟩
      · exact ⟨[v2], congrArg (fun a => vecStore h vd [v2] (padBase sk off.toNat s) a s) (indexAt_eq h _ v2 s)⟩
    obtain ⟨srcs, hx⟩ := hstore
    exact ⟨fun n hn ho hl => vecStore_traps hx (padCheck_out hn ho hl),
      fun n hn hm hl hin => vecStore_traps hx (padCheck_misaligned hn hm hl hin),
      fun hok => vecStore_withholds hp hx (padCheck_passes hok)⟩

end Sys2Proof.Machine
end

section
/-! O5: a step runs the decoded instruction (R8, R9, R66, R77, R101, R151). -/

namespace Sys2Proof.Machine

/-! The agenda's entries (R151). -/

theorem step_micro {s : State} {t r : Nat} {c : CoreId} {rest : List Entry} {q : Routine} {i : Instr} (hs : s.agenda = ⟨t, r, .micro c⟩ :: rest)
    (ha : (s.core.get c).arun = .call q) (hpc : q.pc < 1024) (hops : q.ops < 2 ^ 24)
    (hd : decodeMicro (tget 0 (s.core.get c).ustore q.pc) = some i) (hah : q.ahead = false)
    (hu : (s.core.get c).ubad.find? (fun e => e.1 == q.pc) = none) :
    step s = exec i (({ s with agenda := rest, tick := max s.tick t, cur := c } : State).modMe
      fun k => { k with arun := .call { q with ops := q.ops + 1 } }) := by
  have hr : ({ s with agenda := rest, tick := max s.tick t, cur := c } : State).routine = some q := routine_of ha
  unfold step
  rw [hs]
  show microStep c { s with agenda := rest, tick := max s.tick t } = _
  unfold microStep
  dsimp only
  rw [hr]
  dsimp only
  rw [if_neg (Nat.not_le.mpr hpc), if_neg (Nat.not_le.mpr hops)]
  have hu' : ({ s with agenda := rest, tick := max s.tick t, cur := c } : State).me.ubad.find? (fun e => e.1 == q.pc) = none := hu
  have hd' : decodeMicro (tget 0 ({ s with agenda := rest, tick := max s.tick t, cur := c } : State).me.ustore q.pc) = some i := hd
  rw [hu']
  dsimp only
  rw [hd']
  dsimp only
  rw [if_neg (by rw [hah]; simp)]

/-! The control edge (R8 to R10). -/

theorem fixThresholds_pend (c : CoreId) (s : State) : ((fixThresholds c s).core.get c).pend = (s.core.get c).pend :=
  (congrArg CoreSt.pend (State.modC_get s c fun k => { k with loads := k.loads.map (fixThreshold s c) }) :)

/-- Where no push is due, an edge lands what is due in the core alone. -/
theorem landEdge_plain {c : CoreId} {s : State} (h : ∀ x ∈ (s.core.get c).pend, x.eff.isPush = true → s.tick < x.ready) :
    landEdge c s = fixThresholds c ((fixThresholds c s).modC c fun k => (k.landAll s.tick).advance) := by
  have hn : ((fixThresholds c s).core.get c).pend.any (fun d => d.eff.isPush && decide (d.ready ≤ s.tick)) = false := by
    rw [fixThresholds_pend, List.any_eq_false]
    intro x hx hp
    rw [Bool.and_eq_true, decide_eq_true_iff] at hp
    have := h x hx hp.1
    omega
  unfold landEdge
  dsimp only
  rw [if_neg (by rw [hn]; decide)]

theorem postSample_nil {c : CoreId} {s : State} (h : (s.core.get c).samples = []) : postSample c s = s := by
  unfold postSample
  dsimp only
  rw [h]
  rfl

theorem followPhase_none {c : CoreId} {s : State} (h : (s.core.get c).launch = none) : followPhase c s = s := by
  unfold followPhase
  dsimp only
  rw [h]
  rfl

theorem runEdge_fetches {c : CoreId} {s : State} (hm : (s.core.get c).mxTrap = none) (hx : (s.core.get c).xlTrap = none)
    (hg : (s.core.get c).gap = 0) (hd : (s.core.get c).dbgStop = false) (hs : (s.core.get c).stepArm ≠ 2) (hw : (s.core.get c).wait = 0)
    (hi : (s.core.get c).invReq = false) : runEdge c s = fetchIssue c s := by
  unfold runEdge
  dsimp only
  rw [hm]
  dsimp only
  rw [hx]
  dsimp only
  rw [if_neg (not_not.mpr hg), if_neg (by simp [hd, hs]), if_neg (not_not.mpr hw), if_neg (by rw [hi]; decide)]

/-- A running core whose divisors are in force and whose safe-point interval is not bounded goes on to its bundle. -/
theorem controlEdge_runs {c : CoreId} {s : State} (hr : (s.core.get c).run = .running) (hf : (s.core.get c).sfi = 0)
    (hd : effDiv (landEdge c s) c = ((landEdge c s).core.get c).div) :
    controlEdge c s = runEdge c (followPhase c (postSample c (landEdge c s))) := by
  have hdiv : divDue c (landEdge c s) = false := by
    unfold divDue
    rw [hd]
    simp
  unfold controlEdge
  dsimp only
  rw [hr, hf, if_neg (by decide), if_neg (by rw [hdiv]; decide), if_neg (by simp)]

/-! The issue of a bundle (R77). -/

/-- A bundle without a defect that nothing holds, no counter and no buffer, issues its slots, and moves on. -/
theorem tryIssue_issues {c : CoreId} {f : Fetched} {sca : SlotWord} {s t : State} :
    let pre := openBundle c f s
    let act : State := { pre with bun := { pre.bun with squash := engineSquash pre.me.r sca } }
    let big : Bool := !f.hdr.ckpt && !f.hdr.safe && decide (Config.wstMax < soloEntries f.ops pre)
    let cp := (f.hdr.ckpt || f.hdr.safe || big) || scalarPromotes (f.ops.headD .nop) pre
    ((f.hdr.ckpt || f.hdr.safe || big) = true ∨ ∀ i ∈ f.ops, checkpointOnly i = false) →
    waitHold f.hdr pre.me = none → scalarHold (f.ops.headD .nop) pre = none → walkMiss (f.ops.headD .nop) pre = none →
    issueSlots f.ops act = .next t → t.bun.trap = false → ninth pre.me t.me = false → raises cp pre.me t.me = none →
    (pre.me.forced = true ∨ forcedBy cp f.ops pre.me t.me pre = none) →
    tryIssue c f sca s = .next (finishIssue c f cp (cp && !(f.hdr.ckpt || f.hdr.safe)) t) := by
  intro pre act big cp hk hw hsc hm hi ht hn hra hf
  have halone : (!(f.hdr.ckpt || f.hdr.safe || big) && decide (f.ops.findIdx checkpointOnly < f.ops.length)) = false := by
    rcases hk with hk | hk
    · rw [hk]
      rfl
    · have hlen : ¬ f.ops.findIdx checkpointOnly < f.ops.length := by
        rw [List.findIdx_lt_length]
        rintro ⟨i, hi, hc⟩
        rw [hk i hi] at hc
        exact absurd hc (by decide)
      rw [decide_eq_false hlen, Bool.and_false]
  have hforced : (if pre.me.forced then none else forcedBy cp f.ops pre.me t.me pre) = none := by
    rcases hf with hf | hf
    · rw [if_pos hf]
    · rw [hf, ite_self]
  unfold tryIssue
  dsimp only
  rw [hw, hsc]
  dsimp only
  rw [hm]
  simp only [Option.isSome_none, Bool.false_eq_true, if_false, Option.filter_none]
  rw [if_neg (by rw [halone]; decide)]
  have hact : issueSlots f.ops { openBundle c f s with
      free := s.free, bun := { (openBundle c f s).bun with squash := engineSquash (openBundle c f s).me.r sca } } = .next t := hi
  rw [hact]
  dsimp only
  rw [if_neg (by rw [ht]; decide), if_neg (by rw [hn]; decide), hra, hforced]

/-- A fetch that meets no miss and no defect tries the bundle. -/
theorem fetchIssue_tries {c : CoreId} {s u : State} {img : BitVec 384} {nxt : Nat} {ops : List Instr}
    (hf : fetchBundle c (s.core.get c).r.pc.toNat s = .ok (img, nxt, u))
    (hn : newLines c (s.core.get c).ifb (walkBody c (decodeSlot ((imageSlots img).headD .none)) nxt u) = [])
    (hd : defect c (fillCode c ((walkBody c (decodeSlot ((imageSlots img).headD .none)) nxt u).core.get c).ifb
      (fetchAhead c nxt (walkBody c (decodeSlot ((imageSlots img).headD .none)) nxt u))) (decodeHeader (img.extractLsb' 0 32)) (imageSlots img) =
        .ok ops) :
    fetchIssue c s = tryIssue c ⟨(s.core.get c).r.pc, BitVec.ofNat 64 nxt, (nxt - (s.core.get c).r.pc.toNat) / 2,
        decodeHeader (img.extractLsb' 0 32), ops⟩ ((imageSlots img).headD .none)
      (fillCode c ((walkBody c (decodeSlot ((imageSlots img).headD .none)) nxt u).core.get c).ifb
        (fetchAhead c nxt (walkBody c (decodeSlot ((imageSlots img).headD .none)) nxt u))) := by
  unfold fetchIssue
  dsimp only
  rw [hf]
  dsimp only
  rw [hn]
  simp only [List.any_nil, Bool.false_eq_true, if_false, List.isEmpty_nil, if_true, Bool.toNat_false, Nat.add_zero, ne_eq, not_true_eq_false]
  rw [hd]

/-! The slots in their order (R8). -/

theorem issueSlots_append (s : State) (l : List Instr) (i : Instr) (h : l.length < 7) :
    issueSlots (l ++ [i]) s = issueSlot (issueSlots l s) l.length i := by
  have hz : List.zip (List.range 7) (l ++ [i]) = List.zip (List.range 7) l ++ [(l.length, i)] := by
    have hr : List.range 7 = List.range l.length ++ (l.length :: List.range' (l.length + 1) (6 - l.length)) := by
      rw [List.range_eq_range', List.range_eq_range', ← List.range'_succ]
      have h1 := List.range'_append_1 (s := 0) (m := l.length) (n := 6 - l.length + 1)
      rw [Nat.zero_add] at h1
      rw [h1]
      congr 1
      omega
    rw [hr, List.zip_append (by simp), ← List.append_nil l, List.zip_append (by simp)]
    simp
  unfold issueSlots
  rw [hz, List.foldl_append]
  rfl

theorem issueSlot_runs {s : State} {n : Nat} (i : Instr) (ht : s.bun.trap = false) (hq : n < 3 ∨ s.bun.squash = false) :
    issueSlot (.next s) n i = exec i { s with bun := { s.bun with slot := BitVec.ofNat 3 n } } := by
  refine if_neg ?_
  rw [ht]
  rcases hq with h | h
  · simp [h]
  · simp [h]

/-! The end of an issue (R101). -/

/-- The steps that follow a bundle are put at the head of the agenda. -/
theorem foldr_now_spec (l : List (Instr × Arg)) (s : State) (d : Due) (h : s.has d = true) :
    (l.foldr (fun e s => s.now e.1 e.2) s).core = s.core ∧ (l.foldr (fun e s => s.now e.1 e.2) s).mem = s.mem ∧
    (l.foldr (fun e s => s.now e.1 e.2) s).has d = true := by
  induction l with
  | nil => exact ⟨rfl, rfl, h⟩
  | cons e l ih =>
    obtain ⟨hc, hm, hh⟩ := ih
    refine ⟨hc, hm, ?_⟩
    rw [has_iff] at hh ⊢
    obtain ⟨x, hx, he⟩ := hh
    exact ⟨x, List.mem_cons_of_mem _ hx, he⟩

theorem nextCycle_edge (c : CoreId) (s : State) :
    (nextCycle c s).core.get c = { s.core.get c with cyc := (s.core.get c).cyc + 1, since := (s.core.get c).since + 1 } ∧
    (nextCycle c s).mem = s.mem ∧ (nextCycle c s).has (.edge c) = true :=
  ⟨State.modC_get s c fun k => { k with cyc := k.cyc + 1, since := k.since + 1 }, rfl, has_at _ _ _⟩

theorem govern_spec (c : CoreId) (f : IslandSt → IslandSt) (s : State) :
    (govern c f s).core = s.core ∧ (govern c f s).mem = s.mem ∧ (govern c f s).agenda = s.agenda := by
  unfold govern
  split <;> exact ⟨rfl, rfl, rfl⟩

/-- The core after its bundle: position and address moved on, the bundle counted. -/
def issuedCore (b : Bundle) (promoted : Bool) (k : CoreSt) : CoreSt :=
  let k1 := { k with
    r := k.r.step b
    gap := if b.target.isSome then 2 else 0
    seq := k.seq + 1, forced := false, heldFor := 0, heldBy := 0, bufFull := false, fetchFor := 0, waitBy := 0
    stepArm := if k.stepArm = 1 then 2 else k.stepArm }.count 0 1
  if promoted then k1.count 11 1 else k1

theorem issuedCore_spec (b : Bundle) (promoted : Bool) (k : CoreSt) : (issuedCore b promoted k).r = k.r.step b ∧
    (issuedCore b promoted k).gap = (if b.target.isSome then 2 else 0) ∧ (issuedCore b promoted k).pend = k.pend := by
  cases promoted <;> exact ⟨rfl, rfl, rfl⟩

/-- Without a trace, a sample or a stop, the end of an issue is the core's step and its next cycle. -/
theorem finishIssue_eq {s : State} {c : CoreId} {f : Fetched} {cp p : Bool} (hs : s.bun.stop = none) (h8 : traceOn s c 8 = false)
    (h9 : traceOn s c 9 = false) : finishIssue c f cp p s = (followUps c f cp).foldr (fun e s => s.now e.1 e.2)
      (govern c (fun i => { i with govI := i.govI + 1 }) (nextCycle c (s.modC c (issuedCore s.bun p)))) := by
  have hmark : ∀ k, markSample c f.adr false k s = s := fun k => by
    unfold markSample
    exact if_pos (by rw [h9]; rfl)
  have hstop : stopAfter c (s.modC c (issuedCore s.bun p)) = s.modC c (issuedCore s.bun p) := by
    unfold stopAfter
    rw [State.modC_bun, hs]
  unfold finishIssue
  dsimp only
  rw [if_neg (by rw [h8]; decide), hmark]
  exact congrArg (fun x => (followUps c f cp).foldr (fun e s => s.now e.1 e.2)
    (govern c (fun i => { i with govI := i.govI + 1 }) (nextCycle c x))) hstop

theorem finishIssue_spec {s : State} {c : CoreId} (f : Fetched) (cp p : Bool) (hs : s.bun.stop = none) (hb : s.bun.body = false)
    (h8 : traceOn s c 8 = false) (h9 : traceOn s c 9 = false) :
    let t := finishIssue c f cp p s
    (t.core.get c).r = { (s.core.get c).r with pc := s.bun.target.getD s.bun.nxt } ∧
    (t.core.get c).gap = (if s.bun.target.isSome then 2 else 0) ∧ (t.core.get c).pend = (s.core.get c).pend ∧
    t.has (.edge c) = true ∧ t.mem = s.mem := by
  intro t
  obtain ⟨hnc, hnm, hnh⟩ := nextCycle_edge c (s.modC c (issuedCore s.bun p))
  obtain ⟨hgc, hgm, hga⟩ := govern_spec c (fun i => { i with govI := i.govI + 1 }) (nextCycle c (s.modC c (issuedCore s.bun p)))
  obtain ⟨hfc, hfm, hfh⟩ := foldr_now_spec (followUps c f cp)
    (govern c (fun i => { i with govI := i.govI + 1 }) (nextCycle c (s.modC c (issuedCore s.bun p)))) (.edge c) ((has_congr hga _).trans hnh)
  rw [← finishIssue_eq hs h8 h9] at hfc hfm hfh
  obtain ⟨hr, hgap, hp⟩ := issuedCore_spec s.bun p (s.core.get c)
  have hcore : (t.core.get c) = { issuedCore s.bun p (s.core.get c) with
      cyc := (issuedCore s.bun p (s.core.get c)).cyc + 1, since := (issuedCore s.bun p (s.core.get c)).since + 1 } := by
    rw [hfc, hgc, hnc, State.modC_get]
  rw [hcore]
  refine ⟨hr.trans ?_, hgap, hp, hfh, (hfm.trans hgm).trans hnm⟩
  unfold Regs.step
  exact if_pos (by rw [hb]; rfl)

/-- Settles O5: each entry of the agenda by what it runs, the edge of a running core by its stages, and a bundle by its slots. -/
theorem stepRunsDecodedInstruction : Obligations.StepRunsDecodedInstruction := by
  unfold Obligations.StepRunsDecodedInstruction
  refine ⟨fun s t r i a rest hs => ?_, fun s t r c rest q i hs ha hpc hops hd hah hu => step_micro hs ha hpc hops hd hah hu,
    fun s t r c rest hs => ?_, fun s u c img nxt ops => ?_, fun s i n ht hq => issueSlot_runs i ht hq,
    fun s i ht => issueSlot_runs i ht (.inl (Nat.zero_lt_succ 2)), fun s l i h => issueSlots_append s l i h, fun s => rfl,
    fun s c f cp p hs hb h8 h9 => finishIssue_spec f cp p hs hb h8 h9⟩
  · unfold step
    rw [hs]
    rfl
  · intro s0 s1 s2 k
    refine ⟨fun h => landEdge_plain h, fun hsm hl => ?_, fun hr hf hd hm hx hg hdb hst hw hi => ?_⟩
    · show followPhase c (postSample c s1) = s1
      rw [postSample_nil hsm]
      exact followPhase_none hl
    · have hstep : step s = controlEdge c s0 := by
        unfold step
        rw [hs]
        rfl
      rw [hstep, controlEdge_runs (s := s0) hr hf hd]
      exact runEdge_fetches hm hx hg hdb hst hw hi
  · intro k h sl f u1 u2 pre act op prom big cp hf hn hd hk hw hsc hm t hi ht hni hra hfo
    exact (fetchIssue_tries hf hn hd).trans (tryIssue_issues hk hw hsc hm hi ht hni hra hfo)

end Sys2Proof.Machine
end

section
/-! O18: loads at issue and as they perform (R138, R180 to R184, R191). -/

namespace Sys2Proof.Machine

/-! Loaded values (R180). -/

theorem extend_eq (sg : Bool) (z n : Nat) :
    extend sg z n = if sg then (BitVec.ofNat (8 * z) n).signExtend 64 else BitVec.ofNat 64 n := by
  unfold extend
  cases sg with
  | false => rfl
  | true =>
    have ht : sext n (8 * z) = (BitVec.ofNat (8 * z) n).toInt := by
      rw [← sext_toInt, BitVec.toNat_ofNat, sext, sext, Nat.mod_mod]
    show BitVec.ofInt 64 (sext n (8 * z)) = (BitVec.ofNat (8 * z) n).signExtend 64
    rw [ht]
    rfl

/-- A value of fewer than 8 bytes, zero-extended. -/
theorem ofNat_setWidth {w n : Nat} (hw : w ≤ 64) (h : n < 2 ^ w) : (BitVec.ofNat w n).setWidth 64 = BitVec.ofNat 64 n := by
  refine BitVec.eq_of_toNat_eq ?_
  have h64 : n < 2 ^ 64 := Nat.lt_of_lt_of_le h (Nat.pow_le_pow_right (by decide) hw)
  rw [BitVec.toNat_setWidth, BitVec.toNat_ofNat, BitVec.toNat_ofNat, Nat.mod_eq_of_lt h]

theorem padValue_lt (s : State) (key z : Nat) : padValue s key z < 2 ^ (8 * z) := by
  rw [← pow_256]
  exact ownBytes_lt _ _ _ _ _

/-! Loads of the pad at issue (R138). -/

/-- A pad load takes its bytes at issue and keeps its place in mind (log entry 79). -/
theorem loadAt_pad {signed acq : Bool} {z k : Nat} {d : BitVec 6} {pj : BitVec 4} {scp : BitVec 2} {ea : W64} {x : XRes} {s : State} {key : Nat}
    (h : padPoison s key z = none) :
    ∃ l, loadAt signed z k d pj acq scp (.at .pad ea key x) s =
      toS 3 d (extend signed z (padValue s key z)) (s.modMe fun k => { k with early := l }) ∧ (s.me.open_ = [] → l = s.me.early) := by
  have hx : loadAt signed z k d pj acq scp (.at .pad ea key x) s =
      toS 3 d (extend signed z (padValue s key z)) (padRead key z acq false scp s) := by
    unfold loadAt
    dsimp only
    rw [h]
  obtain ⟨⟨f, hf⟩, hsame⟩ := notePad_spec s.cur ⟨0, s.order, true, false, .pad, key, z, acq, false, scp, Trip.init⟩ s
  by_cases ho : s.me.open_ = []
  · refine ⟨s.me.early, hx.trans ?_, fun _ => rfl⟩
    exact congrArg (toS 3 d _) ((hsame ho).trans (State.modC_same s (fun k => { k with early := s.me.early }) (c := s.cur) rfl).symm)
  · refine ⟨f s.me, hx.trans ?_, fun h0 => absurd h0 ho⟩
    exact congrArg (toS 3 d _) (hf.trans (State.modC_congr rfl))

section
variable {s : State} {i : Instr} {op z k : Nat} {signed acq : Bool} {d a : BitVec 6} {j : BitVec 4} {scp : BitVec 2} {off : BitVec 22}

theorem padLoad_gives (hx : exec i s = .next (loadAt signed z k d (s.me.r.physP j) acq scp (checkAddr op 1 (effAddr s a off) z .rd s) s))
    (hz : z ∣ (effAddr s a off).toNat) (hr : (effAddr s a off).toNat + z ≤ 0x200000)
    (hp : padPoison s (padKey s.cur (effAddr s a off).toNat) z = none) {v : W64}
    (hv : extend signed z (padValue s (padKey s.cur (effAddr s a off).toNat) z) = v) :
    ∃ l, exec i s = .next (toS 3 d v (s.modMe fun k => { k with early := l })) ∧ (s.me.open_ = [] → l = s.me.early) := by
  subst hv
  rw [hx, checkAddr_pad op hz, if_neg (Nat.not_lt.mpr hr)]
  obtain ⟨l, hl, ho⟩ := loadAt_pad (signed := signed) (k := k) (d := d) (pj := s.me.r.physP j) (acq := acq) (scp := scp)
    (ea := effAddr s a off) (x := .ok 0 none) hp
  exact ⟨l, congrArg _ hl, ho⟩

end

/-! Counted loads at issue (R180, R184, R191). -/

/-- t is s with the counted operation o joined to its core's list: no byte of memory, register or delivery changes. -/
def LoadJoins (s t : State) (o : Cop) : Prop :=
  t.me.loads = s.me.loads ++ [o] ∧ t.mem = s.mem ∧ t.me.r = s.me.r ∧ t.me.pend = s.me.pend

theorem joins_issueCop (dt : Nat) (f : Nat → Nat → Cop) (s : State) :
    LoadJoins s (issueCop dt f s) { f s.me.nid s.order with badr := s.bun.adr } := by
  unfold LoadJoins
  rw [issueCop_me]
  exact ⟨rfl, rfl, rfl, rfl⟩

theorem joins_issueFree (f : Nat → Nat → Cop) (s : State) : LoadJoins s (issueFree f s) { f s.me.nid s.order with badr := s.bun.adr } :=
  joins_issueCop _ f s.pick.2

/-- The operation that answers 0. -/
def zeroCop (dst : BitVec 6) (pj : BitVec 4) (va : W64) (z : Nat) (acq : Bool) (scp : BitVec 2) (s : State) : Cop :=
  { newCop .absent dst pj .glob va 0 z acq false scp (some (0, true)) s.me.nid s.order with badr := s.bun.adr }

theorem joins_issueZero (n : Nat) (dst : BitVec 6) (pj : BitVec 4) (va : W64) (z : Nat) (acq : Bool) (scp : BitVec 2) (s : State) :
    LoadJoins s (issueZero n dst pj va z acq scp s) (zeroCop dst pj va z acq scp s) := by
  have hme : (issueZero n dst pj va z acq scp s).me =
      { s.me with loads := s.me.loads ++ [zeroCop dst pj va z acq scp s], nid := s.me.nid + 1 } :=
    State.modMe_me s fun k => { k with loads := k.loads ++ [zeroCop dst pj va z acq scp s], nid := s.me.nid + 1 }
  unfold LoadJoins
  rw [hme]
  exact ⟨rfl, rfl, rfl, rfl⟩

theorem issueZero_due (n : Nat) (dst : BitVec 6) (pj : BitVec 4) (va : W64) (z : Nat) (acq : Bool) (scp : BitVec 2) (s : State) :
    (⟨s.tick + n, rankOf (issueZero n dst pj va z acq scp s) (.ev .loadDelivery (argCI s.cur s.me.nid)),
      .ev .loadDelivery (argCI s.cur s.me.nid)⟩ : Entry) ∈ (issueZero n dst pj va z acq scp s).agenda := by
  rw [rankOf_congr (s := s) (t := issueZero n dst pj va z acq scp s) rfl]
  exact mem_after_agenda (s.modMe fun k => { k with loads := k.loads ++ [zeroCop dst pj va z acq scp s], nid := s.me.nid + 1 }) n
    (.ev .loadDelivery (argCI s.cur s.me.nid))

/-- What may have happened to the state before an operation joins. -/
theorem LoadJoins.of_frame {s s0 t : State} {o : Cop} (h : LoadJoins s0 t o) {l : List Xlat} (hme : s0.me = { s.me with tlb := l })
    (hm : s0.mem = s.mem) : LoadJoins s t o := by
  obtain ⟨h1, h2, h3, h4⟩ := h
  rw [hme] at h1 h3 h4
  exact ⟨h1, h2.trans hm, h3, h4⟩

section
variable {signed acq : Bool} {z k : Nat} {dst : BitVec 6} {pj : BitVec 4} {scp : BitVec 2} {space : Sp} {ea : W64} {key : Nat} {x : XRes} {s : State}

/-- The counted operation that a load has become: its kind, or the answer 0, and where it is to be read. -/
def LoadCop (signed : Bool) (z : Nat) (dst : BitVec 6) (space : Sp) (ea : W64) (key : Nat) (s : State) (o : Cop) : Prop :=
  o.seq = s.order ∧ o.dst = dst ∧ o.va = ea ∧ o.z = z ∧
  (o.kind = .load signed ∨ (∃ b r th, o.kind = .bounded signed b r th) ∨ o.val = some (0, true)) ∧
  (o.val = none → o.sp = space ∧ o.addr = key) ∧ (space = .stg → o.kind = .load signed ∧ o.val = none)

theorem loadAt_absent : loadAt signed z k dst pj acq scp (.absent ea) s = issueZero (4 * s.me.div.ctl) dst pj ea z acq scp s := rfl

/-- A load outside the pad joins the counted operations of its core. -/
theorem loadAt_counts (hsp : space ≠ .pad) :
    ∃ o, LoadJoins s (loadAt signed z k dst pj acq scp (.at space ea key x) s) o ∧ LoadCop signed z dst space ea key s o := by
  cases space with
  | pad => exact absurd rfl hsp
  | stg =>
    obtain ⟨hme, hmem, hbun⟩ := stagingTicks_frame s s.cur ea.toNat 0
    have hj := joins_issueCop (stagingTicks s s.cur ea.toNat 0).1 (newCop (.load signed) dst pj .stg ea key z acq false scp none)
      (stagingTicks s s.cur ea.toNat 0).2
    have horder : (stagingTicks s s.cur ea.toNat 0).2.order = s.order := by rw [State.order, hbun, State.order]
    exact ⟨_, hj.of_frame (l := s.me.tlb) hme hmem, horder, rfl, rfl, rfl, .inl rfl, fun _ => ⟨rfl, rfl⟩, fun _ => ⟨rfl, rfl⟩⟩
  | glob =>
    obtain ⟨hmem, -, -, -, hbun, -, -⟩ := keepXlat_frame s.cur x s
    obtain ⟨l, hme⟩ := keepXlat_me x s
    have horder : (keepXlat s.cur x s).order = s.order := by rw [State.order, hbun, State.order]
    unfold loadAt
    dsimp only
    generalize keepXlat s.cur x s = s0 at hmem hme horder ⊢
    split
    · exact ⟨_, (joins_issueFree _ s0).of_frame hme hmem, horder, rfl, rfl, rfl, .inl rfl, fun _ => ⟨rfl, rfl⟩, (fun h => nomatch h)⟩
    · split
      · exact ⟨_, (joins_issueZero _ _ _ _ _ _ _ s0.pick.2).of_frame hme hmem, horder, rfl, rfl, rfl, .inr (.inr rfl), (fun h => nomatch h),
          (fun h => nomatch h)⟩
      · exact ⟨_, (joins_issueFree _ s0).of_frame hme hmem, horder, rfl, rfl, rfl, .inr (.inl ⟨_, _, _, rfl⟩), fun _ => ⟨rfl, rfl⟩,
          (fun h => nomatch h)⟩

end

section
variable {s : State} {i : Instr} {op z k : Nat} {signed acq : Bool} {d a : BitVec 6} {j : BitVec 4} {sp scp : BitVec 2} {ea : W64}

/-- What a load does with each outcome of its checks outside the pad. -/
theorem loadAt_cases (hx : exec i s = .next (loadAt signed z k d (s.me.r.physP j) acq scp (checkAddr op sp ea z .rd s) s)) :
    (∀ space key x, space ≠ .pad → checkAddr op sp ea z .rd s = .at space ea key x →
      ∃ (t : State) (o : Cop), exec i s = .next t ∧ t.me.loads = s.me.loads ++ [o] ∧ o.seq = s.order ∧ o.dst = d ∧ o.va = ea ∧ o.z = z ∧
        (o.kind = .load signed ∨ (∃ b r th, o.kind = .bounded signed b r th) ∨ o.val = some (0, true)) ∧
        (o.val = none → o.sp = space ∧ o.addr = key) ∧ (space = .stg → o.kind = .load signed ∧ o.val = none) ∧
        t.mem = s.mem ∧ t.me.r = s.me.r ∧ t.me.pend = s.me.pend) ∧
    (checkAddr op sp ea z .rd s = .absent ea →
      ∃ (t : State) (o : Cop), exec i s = .next t ∧ t.me.loads = s.me.loads ++ [o] ∧ o.dst = d ∧ o.pj = s.me.r.physP j ∧ o.val = some (0, true) ∧
        (⟨s.tick + 4 * s.me.div.ctl, rankOf t (.ev .loadDelivery (argCI s.cur o.id)), .ev .loadDelivery (argCI s.cur o.id)⟩ : Entry)
          ∈ t.agenda ∧ t.mem = s.mem ∧ t.me.r = s.me.r) ∧
    (∀ c f dt, checkAddr op sp ea z .rd s = .trap c f dt → exec i s = .next (takeTrap c f dt s)) := by
  refine ⟨fun space key x hsp h => ?_, fun h => ?_, fun c f dt h => ?_⟩
  · rw [h] at hx
    obtain ⟨o, ⟨hl, hm, hr, hp⟩, hseq, hdst, hva, hz, hk, hv, hs⟩ := loadAt_counts (signed := signed) (z := z) (k := k) (dst := d)
      (pj := s.me.r.physP j) (acq := acq) (scp := scp) (ea := ea) (key := key) (x := x) (s := s) hsp
    exact ⟨_, o, hx, hl, hseq, hdst, hva, hz, hk, hv, hs, hm, hr, hp⟩
  · rw [h, loadAt_absent] at hx
    obtain ⟨hl, hm, hr, -⟩ := joins_issueZero (4 * s.me.div.ctl) d (s.me.r.physP j) ea z acq scp s
    exact ⟨_, zeroCop d (s.me.r.physP j) ea z acq scp s, hx, hl, rfl, rfl, rfl, issueZero_due _ _ _ _ _ _ _ s, hm, hr⟩
  · rw [h] at hx
    exact hx

end

theorem loadOp_runs (op : Nat) (signed : Bool) (z : Nat) {g : Guard} (d a : BitVec 6) (j : BitVec 4) (sp : BitVec 2) (off : BitVec 22)
    {s : State} (hg : guardOk g s = true) : loadOp op signed z g d a j sp off s = .next (loadAt signed z 0 d (s.me.r.physP j) false 0
      (checkAddr op sp (effAddr s a off) z .rd s) s) :=
  guarded_true (fun s => loadAt signed z 0 d (s.me.r.physP j) false 0 (checkAddr op sp (effAddr s a off) z .rd s) s) hg

theorem lda_runs {g : Guard} (d a : BitVec 6) (j : BitVec 4) (sp scp sz : BitVec 2) (off : BitVec 22) {s : State}
    (hg : guardOk g s = true) : exec (.lda g d a j sp scp sz off) s = .next (loadAt false (2 ^ sz.toNat) 0 d
      (s.me.r.physP j) true scp (checkAddr 0x6D sp (effAddr s a off) (2 ^ sz.toNat) .rd s) s) :=
  guarded_true (fun s => loadAt false (2 ^ sz.toNat) 0 d (s.me.r.physP j) true scp
    (checkAddr 0x6D sp (effAddr s a off) (2 ^ sz.toNat) .rd s) s) hg

theorem ldk_runs {g : Guard} (d a : BitVec 6) (j : BitVec 4) {sp : BitVec 2} (kb : BitVec 7) (sz : BitVec 2) (off : BitVec 22) {s : State}
    (hg : guardOk g s = true) (hsp : sp = 0) : exec (.ldk g d a j sp kb sz off) s = .next (loadAt false (2 ^ sz.toNat) kb.toNat d
      (s.me.r.physP j) false 0 (checkAddr 0x6C sp (effAddr s a off) (2 ^ sz.toNat) .rd s) s) :=
  guardedIf_runs 0x6C (fun s => loadAt false (2 ^ sz.toNat) kb.toNat d (s.me.r.physP j) false 0
    (checkAddr 0x6C sp (effAddr s a off) (2 ^ sz.toNat) .rd s) s) (by rw [hsp]; rfl) hg

/-- Every load of R180, R184 and R191 reads at its checked address. -/
theorem loads_at_issue (g : Guard) (d a : BitVec 6) (j : BitVec 4) (sp scp sz : BitVec 2) (kb : BitVec 7) (off : BitVec 22) (s : State)
    (hg : guardOk g s = true) :
    ∀ e ∈ ([(.ldb g d a j sp off, 0x60, 1, true), (.ldbn g d a j sp off, 0x61, 1, false), (.ldh g d a j sp off, 0x62, 2, true),
        (.ldhn g d a j sp off, 0x63, 2, false), (.ldw g d a j sp off, 0x64, 4, true), (.ldwn g d a j sp off, 0x65, 4, false),
        (.ldd g d a j sp off, 0x66, 8, false), (.lda g d a j sp scp sz off, 0x6D, 2 ^ sz.toNat, false)] ++
        if sp = 0 then [(.ldk g d a j sp kb sz off, 0x6C, 2 ^ sz.toNat, false)] else [] : List (Instr × Nat × Nat × Bool)),
      ∃ k acq scp, exec e.1 s = .next (loadAt e.2.2.2 e.2.2.1 k d (s.me.r.physP j) acq scp (checkAddr e.2.1 sp (effAddr s a off) e.2.2.1 .rd s) s) := by
  intro e he
  rcases List.mem_append.mp he with he | he
  · simp only [List.mem_cons, List.not_mem_nil, or_false] at he
    obtain rfl | rfl | rfl | rfl | rfl | rfl | rfl | rfl := he
    · exact ⟨0, false, 0, loadOp_runs 0x60 true 1 d a j sp off hg⟩
    · exact ⟨0, false, 0, loadOp_runs 0x61 false 1 d a j sp off hg⟩
    · exact ⟨0, false, 0, loadOp_runs 0x62 true 2 d a j sp off hg⟩
    · exact ⟨0, false, 0, loadOp_runs 0x63 false 2 d a j sp off hg⟩
    · exact ⟨0, false, 0, loadOp_runs 0x64 true 4 d a j sp off hg⟩
    · exact ⟨0, false, 0, loadOp_runs 0x65 false 4 d a j sp off hg⟩
    · exact ⟨0, false, 0, loadOp_runs 0x66 false 8 d a j sp off hg⟩
    · exact ⟨0, true, scp, lda_runs d a j sp scp sz off hg⟩
  · by_cases hsp : sp = 0
    · rw [if_pos hsp] at he
      obtain rfl := List.mem_singleton.mp he
      exact ⟨kb.toNat, false, 0, ldk_runs d a j kb sz off hg hsp⟩
    · rw [if_neg hsp] at he
      exact absurd he List.not_mem_nil

end Sys2Proof.Machine
end

section
/-! O18: loads as they perform (R183, R191, R260, R345, R349). -/

namespace Sys2Proof.Machine

/-! Bytes that a load takes (R183). -/

theorem ownBytes_byte (k : CoreSt) (seq : Nat) (m : Nat → Byte) (z : Nat) : ∀ key i, i < z →
    BitVec.ofNat 8 (ownBytes k seq m key z / 256 ^ i) = ownByte k seq (key + i) (m (key + i)) := by
  induction z with
  | zero => exact fun _ _ h => absurd h (Nat.not_lt_zero _)
  | succ z ih =>
    intro key i hi
    have hb : (ownByte k seq key (m key)).toNat < 256 := (ownByte k seq key (m key)).isLt
    rw [ownBytes]
    cases i with
    | zero =>
      have h0 : key + 0 = key := Nat.add_zero key
      rw [h0, Nat.pow_zero, Nat.div_one]
      refine BitVec.eq_of_toNat_eq ?_
      rw [BitVec.toNat_ofNat]
      show (_ + 256 * _) % 256 = _
      omega
    | succ i =>
      have hd : ((ownByte k seq key (m key)).toNat + 256 * ownBytes k seq m (key + 1) z) / 256 = ownBytes k seq m (key + 1) z := by omega
      rw [Nat.pow_succ', ← Nat.div_div_eq_div_mul, hd, ih (key + 1) i (by omega), Nat.add_assoc, Nat.add_comm 1 i]

/-- A load has taken its bytes: those of its core's own older stores over the ones that are there, extended, and its delivery is due. -/
def Takes (k : CoreSt) (c : CoreId) (o : Cop) (sg : Bool) (mem : List Host.Cell) (byte : Nat → Byte) (t : State) : Prop :=
  ∃ n, n < 256 ^ o.z ∧ (∀ i, i < o.z → BitVec.ofNat 8 (n / 256 ^ i) = ownByte k o.seq (o.addr + i) (byte (o.addr + i))) ∧
    t.mem = mem ∧ t.has (.ev .loadDelivery (argCI c o.id)) = true ∧ ∃ x ∈ (t.core.get c).loads, x.id = o.id ∧ x.dst = o.dst ∧
      x.val = some (if sg then (BitVec.ofNat (8 * o.z) n).signExtend 64 else BitVec.ofNat 64 n, false)

/-- The operation stands among those of its core, whatever has become of its trip and its threshold. -/
def StandsFor (o : Cop) (l : List Cop) : Prop := ∃ x ∈ l, x.id = o.id ∧ x.dst = o.dst

theorem takes_finishCop {k : CoreSt} {c : CoreId} {o : Cop} {sg : Bool} {mem : List Host.Cell} {m byte : Nat → Byte} {s : State}
    (hm : s.mem = mem) (ho : StandsFor o (s.core.get c).loads) (hb : ∀ i, i < o.z → m (o.addr + i) = byte (o.addr + i)) :
    Takes k c o sg mem byte (finishCop c o.id (extend sg o.z (ownBytes k o.seq m o.addr o.z)) s) := by
  obtain ⟨x, hx, hid, hdst⟩ := ho
  obtain ⟨hmem, hmm, hdue⟩ := finishCop_spec c x (extend sg o.z (ownBytes k o.seq m o.addr o.z)) s hx
  rw [hid] at hmem hmm hdue
  refine ⟨ownBytes k o.seq m o.addr o.z, ownBytes_lt _ _ _ _ _, fun i hi => ?_, hmm.trans hm, hdue, _, hmem, rfl, hdst, ?_⟩
  · rw [ownBytes_byte _ _ _ _ _ _ hi, hb i hi]
  · rw [extend_eq]

/-- The line of each byte of an access is among those that it touches (R332). -/
theorem mem_linesOf {a z i : Nat} (ha : a < 2 ^ 52) (hz : z ≤ 8) (hi : i < z) : (a + i) / 128 % 2 ^ 45 ∈ linesOf a z := by
  unfold linesOf
  split
  · rw [List.mem_singleton]
    omega
  · rw [List.mem_cons, List.mem_singleton]
    omega

/-! What a read on its way leaves: storage and the counted operations. -/

/-- No byte of storage and no counted operation differs. -/
def ReadsOnly (s t : State) : Prop := t.mem = s.mem ∧ ∀ d, (t.core.get d).loads = (s.core.get d).loads

theorem ReadsOnly.refl (s : State) : ReadsOnly s s := ⟨rfl, fun _ => rfl⟩

theorem ReadsOnly.trans {s t u : State} (h : ReadsOnly s t) (h' : ReadsOnly t u) : ReadsOnly s u :=
  ⟨h'.1.trans h.1, fun d => (h'.2 d).trans (h.2 d)⟩

theorem readsOnly_foldl {α : Type} {f : State → α → State} (hf : ∀ s x, ReadsOnly s (f s x)) (l : List α) (s : State) :
    ReadsOnly s (l.foldl f s) := by
  induction l generalizing s with
  | nil => exact .refl s
  | cons x l ih => exact (hf s x).trans (ih _)

theorem readsOnly_modC (s : State) (c : CoreId) {f : CoreSt → CoreSt} (hf : ∀ k, (f k).loads = k.loads) : ReadsOnly s (s.modC c f) := by
  refine ⟨rfl, fun d => ?_⟩
  rw [State.modC_get_if s f c d]
  split
  · exact hf _
  · rfl

theorem readsOnly_reachIn (a z line : Nat) (y : Isl) (s : State) : ReadsOnly s (reachIn a z line y s) := by
  have hr : ∀ key n, ReadsOnly s (reach y key n s) := fun key n => by
    obtain ⟨hm, hc⟩ := reach_frame y key n s
    exact ⟨hm, fun d => by rw [hc]⟩
  unfold reachIn
  dsimp only
  split
  · exact hr _ _
  · exact hr _ _

theorem readsOnly_writeBack (e : ShelfLine) (s : State) : ReadsOnly s (writeBack e s) := by
  unfold writeBack
  split
  · split
    · exact ⟨rfl, fun _ => rfl⟩
    · exact .refl s
  · exact .refl s

theorem readsOnly_touchShelf (line : Nat) (cls : BitVec 2) (k : Option SlotKey) (dirty : Bool) (s : State) :
    ReadsOnly s (touchShelf line cls k dirty s) := by
  have hput : ∀ (l : List ShelfLine) (s : State), ReadsOnly s (s.modI (lineHome line) fun i => { i with shelf := l }) :=
    fun l s => ⟨rfl, fun _ => rfl⟩
  have hold : ∀ (old : Option ShelfLine), ReadsOnly s (old.elim s fun x => writeBack x s) := fun old => by
    cases old with
    | none => exact .refl s
    | some x => exact readsOnly_writeBack x s
  unfold touchShelf
  dsimp only
  split
  · exact hput _ s
  · split
    · exact ((hold _).trans (hput _ _)).trans (readsOnly_writeBack _ _)
    · split
      · exact ((hold _).trans (readsOnly_writeBack _ _)).trans (hput _ _)
      · exact (hold _).trans (hput _ _)

theorem readsOnly_touchLine (c : CoreId) (line : Nat) (cls : BitVec 2) (dirty : Bool) (s : State) : ReadsOnly s (touchLine c line cls dirty s) :=
  (readsOnly_touchShelf line cls (s.coreKey c) dirty s).trans ⟨rfl, fun _ => rfl⟩

theorem readsOnly_evictCopy (y : Isl) (line : Nat) (x : Copy) (s : State) : ReadsOnly s (evictCopy y line x s) := by
  have h1 : ReadsOnly s (invAgents y line none (s.modI y fun i => { i with copies := tdel i.copies line })) := by
    have h0 : ReadsOnly s (s.modI y fun i => { i with copies := tdel i.copies line }) := ⟨rfl, fun _ => rfl⟩
    refine h0.trans ?_
    unfold invAgents
    refine readsOnly_foldl (fun s c => ?_) _ _
    split
    · exact readsOnly_modC s c fun _ => rfl
    · exact .refl s
  unfold evictCopy
  dsimp only
  generalize invAgents y line none (s.modI y fun i => { i with copies := tdel i.copies line }) = s1 at h1 ⊢
  split
  · exact h1
  · exact h1.trans ⟨rfl, fun _ => rfl⟩
  · exact h1.trans ⟨rfl, fun _ => rfl⟩
  · exact h1.trans ⟨rfl, fun _ => rfl⟩
  · exact h1.trans ⟨rfl, fun _ => rfl⟩

theorem readsOnly_settleLine (y : Isl) (line : Nat) (s : State) : ReadsOnly s (settleLine y line s) := by
  unfold settleLine
  split
  · split
    · exact readsOnly_evictCopy _ _ _ _
    · exact .refl s
  · exact .refl s

theorem readsOnly_fillLineCache (c : CoreId) (line : Nat) (s : State) : ReadsOnly s (fillLineCache c line s) := by
  have h1 : ReadsOnly s ((s.modC c fun k => { k with lc := line :: k.lc }).modI (islOf c) fun i =>
      { i with filt := tmod 0 i.filt (filtKey c line) (· ||| filterBits line) }) :=
    (readsOnly_modC s c (f := fun k => { k with lc := line :: k.lc }) fun _ => rfl).trans ⟨rfl, fun _ => rfl⟩
  unfold fillLineCache
  dsimp only
  split
  · exact .refl s
  · split
    · split
      · exact h1.trans ⟨rfl, fun _ => rfl⟩
      · exact h1
    · exact h1

/-- What the lines of a load that it reads leave. -/
theorem readsOnly_loadNow (c : CoreId) (o : Cop) (sg : Bool) (s : State) : ReadsOnly s (loadNow c o sg s).2 := by
  unfold loadNow
  dsimp only
  split
  · refine readsOnly_foldl (fun t l => ?_) _ _
    split
    · exact (((readsOnly_reachIn _ _ _ _ _).trans (readsOnly_fillLineCache _ _ _)).trans (readsOnly_touchLine _ _ _ _ _)).trans
        (readsOnly_settleLine _ _ _)
    · exact (readsOnly_reachIn _ _ _ _ _).trans (readsOnly_touchLine _ _ _ _ _)
  · obtain ⟨hm, hc⟩ := reach_frame (islOf c) o.addr o.z s
    exact ⟨hm, fun d => by rw [hc]⟩

theorem readsOnly_offshoreRoom (y : Isl) (line : Nat) (s : State) : ReadsOnly s (offshoreRoom y line s) := by
  unfold offshoreRoom
  dsimp only
  split
  · exact .refl s
  · split
    · exact readsOnly_evictCopy _ _ _ s.pick.2
    · exact ⟨rfl, fun _ => rfl⟩

/-! A line as the machine holds it, whatever becomes of other lines (R349 to R355). -/

/-- Data of the line on its way. -/
def flyingOf (line : Nat) (e : Entry) : Option (BitVec 1024) :=
  match e.due with
  | .ev .data a | .ev .backd a => if a.line = line then some a.data else none
  | _ => none

/-- The coherent data of a line, from what the islands, their tables and the messages hold of it. -/
def cohFrom (line : Nat) (m : BitVec 1024) (copies : Isl → Option Copy) (dir : Isl → Option DirEnt) (mshr : Isl → List Mshr)
    (fly : Option (BitVec 1024)) (wbuf : Isl → Option (BitVec 1024)) : BitVec 1024 :=
  let owned := islIds.findSome? fun y =>
    match copies y with
    | some c => if c.st = .M ∨ c.st = .O ∨ c.st = .E then some c.data else none
    | none => none
  let busy : Bool := (dir (homeOf (line * 128))).any (·.busy.isSome)
  let landed := if busy then islIds.findSome? fun y => ((mshr y).find? (·.line == line)).bind fun m => m.data.map (·.2) else none
  let flying := if busy then fly else none
  let new (x : Isl) : Bool :=
    match dir (homeOf (line * 128)) with
    | some e => (e.st != .S && e.owner == x) || e.busy.any fun b => b.fwd.isSome || b.back.contains x
    | none => false
  let kept := islIds.findSome? fun y => if new y then wbuf y else none
  ((owned.or landed).or (flying.or kept)).getD m

theorem cohLine_eq (s : State) (line : Nat) : cohLine s line = cohFrom line (memLine s line) (fun y => tfind (s.isl.get y).copies line)
    (fun y => tfind (s.isl.get y).dir line) (fun y => (s.isl.get y).mshr) (s.agenda.findSome? (flyingOf line))
    (fun y => tfind (s.isl.get y).wbuf line) := rfl

/-- Nothing that holds data of the line differs. -/
def SameLine (line : Nat) (s t : State) : Prop :=
  t.mem = s.mem ∧ (∀ y, tfind (t.isl.get y).copies line = tfind (s.isl.get y).copies line ∧ (t.isl.get y).dir = (s.isl.get y).dir ∧
    (t.isl.get y).mshr = (s.isl.get y).mshr ∧ tfind (t.isl.get y).wbuf line = tfind (s.isl.get y).wbuf line) ∧
  t.agenda.findSome? (flyingOf line) = s.agenda.findSome? (flyingOf line)

theorem SameLine.refl (line : Nat) (s : State) : SameLine line s s := ⟨rfl, fun _ => ⟨rfl, rfl, rfl, rfl⟩, rfl⟩

theorem SameLine.trans {line : Nat} {s t u : State} (h : SameLine line s t) (h' : SameLine line t u) : SameLine line s u := by
  obtain ⟨hm, hi, ha⟩ := h
  obtain ⟨hm', hi', ha'⟩ := h'
  refine ⟨hm'.trans hm, fun y => ?_, ha'.trans ha⟩
  obtain ⟨h1, h2, h3, h4⟩ := hi y
  obtain ⟨h1', h2', h3', h4'⟩ := hi' y
  exact ⟨h1'.trans h1, h2'.trans h2, h3'.trans h3, h4'.trans h4⟩

theorem cohLine_congr {line : Nat} {s t : State} (h : SameLine line s t) : cohLine t line = cohLine s line := by
  obtain ⟨hm, hi, ha⟩ := h
  have hmem : memLine t line = memLine s line := by
    unfold memLine
    rw [hm]
  rw [cohLine_eq, cohLine_eq, hmem, ha]
  simp only [fun y => (hi y).1, fun y => (hi y).2.1, fun y => (hi y).2.2.1, fun y => (hi y).2.2.2]

theorem sameLine_modI (line : Nat) (s : State) (y : Isl) {f : IslandSt → IslandSt} (hc : ∀ i, tfind (f i).copies line = tfind i.copies line)
    (hd : ∀ i, (f i).dir = i.dir) (hm : ∀ i, (f i).mshr = i.mshr) (hw : ∀ i, tfind (f i).wbuf line = tfind i.wbuf line) :
    SameLine line s (s.modI y f) := by
  refine ⟨rfl, fun z => ?_, rfl⟩
  rw [State.modI_get_if s f y z]
  split
  · exact ⟨hc _, hd _, hm _, hw _⟩
  · exact ⟨rfl, rfl, rfl, rfl⟩

theorem findSome_insEntry {α : Type} {f : Entry → Option α} {e : Entry} (he : f e = none) (l : List Entry) :
    (insEntry l e).findSome? f = l.findSome? f := by
  induction l with
  | nil =>
    show List.findSome? f [e] = none
    rw [List.findSome?_cons, he]
    rfl
  | cons x l ih =>
    unfold insEntry
    split
    · rw [List.findSome?_cons, List.findSome?_cons, ih]
    · rw [List.findSome?_cons, he]

theorem sameLine_sendMsg (line : Nat) (s : State) (a b : Isl) {i : Instr} (g : Arg) (hd : i ≠ .data) (hb : i ≠ .backd) :
    SameLine line s (sendMsg a b i g s) := by
  refine ⟨rfl, fun _ => ⟨rfl, rfl, rfl, rfl⟩, findSome_insEntry ?_ _⟩
  unfold flyingOf
  dsimp only
  split
  · next h => exact absurd (Due.ev.inj h).1 hd
  · next h => exact absurd (Due.ev.inj h).1 hb
  · rfl

theorem sameLine_evictCopy {line : Nat} (y : Isl) {l : Nat} (x : Copy) (s : State) (h : line ≠ l) : SameLine line s (evictCopy y l x s) := by
  have h0 : SameLine line s (s.modI y fun i => { i with copies := tdel i.copies l }) :=
    sameLine_modI line s y (fun i => tfind_tdel_ne _ h) (fun _ => rfl) (fun _ => rfl) (fun _ => rfl)
  have h1 : SameLine line s (invAgents y l none (s.modI y fun i => { i with copies := tdel i.copies l })) := by
    refine h0.trans ?_
    unfold invAgents
    exact List.foldlRecOn (motive := fun t => SameLine line (s.modI y fun i => { i with copies := tdel i.copies l }) t) _ _ (.refl _ _)
      fun t ht c _ => by
        split
        · exact ht
        · exact ht
  unfold evictCopy
  dsimp only
  generalize invAgents y l none (s.modI y fun i => { i with copies := tdel i.copies l }) = s1 at h1 ⊢
  have hw : SameLine line s (s1.modI y fun i => { i with wbuf := tset i.wbuf l x.data }) :=
    h1.trans (sameLine_modI line s1 y (fun _ => rfl) (fun _ => rfl) (fun _ => rfl) fun i => tfind_tset_ne _ _ h)
  split
  · exact h1
  · exact h1.trans (sameLine_sendMsg line _ _ _ _ (by decide) (by decide))
  · exact h1.trans (sameLine_sendMsg line _ _ _ _ (by decide) (by decide))
  · exact hw.trans (sameLine_sendMsg line _ _ _ _ (by decide) (by decide))
  · exact hw.trans (sameLine_sendMsg line _ _ _ _ (by decide) (by decide))

/-- The room that a line of one part takes comes from that part (R349). -/
theorem sameLine_offshoreRoom {line : Nat} (y : Isl) {l : Nat} (s : State) (h : line % 32 ≠ l % 32) :
    SameLine line s (offshoreRoom y l s) := by
  unfold offshoreRoom
  dsimp only
  split
  · exact .refl _ _
  · split
    · next x c hx =>
      have hmem := List.mem_of_getElem? hx
      have hpart : x % 32 = l % 32 := by
        have h1 := List.mem_of_mem_filter hmem
        have h2 := (List.mem_filter.mp h1).2
        exact beq_iff_eq.mp h2
      exact sameLine_evictCopy (s := s.pick.2) y c fun he => h (he ▸ hpart)
    · exact ⟨rfl, fun _ => ⟨rfl, rfl, rfl, rfl⟩, rfl⟩

/-- The state in which an island has given up a copy of the line that the home tracks. -/
def untracked (y : Isl) (l : Nat) (s : State) : State :=
  match (tfind (s.isl.get y).copies l).filter fun c => c.st != .Rg && !(s.isl.get y).mshr.any fun m => m.line == l with
  | some c => evictCopy y l c s
  | none => s

/-- The state in which an island has taken a copy of a region line. -/
def regionKept (y : Isl) (l key : Nat) (d : BitVec 1024) (n : Round) (s : State) : State :=
  (offshoreRoom y l s).modI y fun i => { i with copies := tset i.copies l ⟨.Rg, d, n, key, none⟩ }

theorem fillRegion_eq (y : Isl) (l key : Nat) (d : BitVec 1024) (s : State) : fillRegion y l key d s =
    if noKeep ((untracked y l s).isl.get y) l || (s.isl.get y).mshr.any fun m => m.line == l then untracked y l s
    else regionKept y l key d (tget 0 s.dev.prod key) (untracked y l s) := rfl

theorem sameLine_fillRegion {line : Nat} (y : Isl) {l : Nat} (key : Nat) (d : BitVec 1024) (s : State) (h : line % 32 ≠ l % 32) :
    SameLine line s (fillRegion y l key d s) := by
  have hne : line ≠ l := fun he => h (congrArg (· % 32) he)
  have h1 : SameLine line s (untracked y l s) := by
    unfold untracked
    split
    · exact sameLine_evictCopy y _ s hne
    · exact .refl _ _
  have h2 : ∀ n s, SameLine line s (regionKept y l key d n s) := fun n s =>
    (sameLine_offshoreRoom y s h).trans (sameLine_modI line _ y (fun i => tfind_tset_ne _ _ hne) (fun _ => rfl) (fun _ => rfl) fun _ => rfl)
  rw [fillRegion_eq]
  split
  · exact h1
  · exact h1.trans (h2 _ _)

theorem readsOnly_fillRegion (y : Isl) (l key : Nat) (d : BitVec 1024) (s : State) : ReadsOnly s (fillRegion y l key d s) := by
  have h1 : ReadsOnly s (untracked y l s) := by
    unfold untracked
    split
    · exact readsOnly_evictCopy _ _ _ _
    · exact .refl s
  have h2 : ∀ n s, ReadsOnly s (regionKept y l key d n s) := fun n s => (readsOnly_offshoreRoom y l s).trans ⟨rfl, fun _ => rfl⟩
  rw [fillRegion_eq]
  split
  · exact h1
  · exact h1.trans (h2 _ _)

/-! Region lines (R191, R260). -/

/-- What a read of a region line with threshold th finds: the island's copy where it is new enough, else the line at its home. -/
def regionRead (y : Isl) (key : Nat) (th : Round) (s : State) (line : Nat) : BitVec 1024 :=
  match (tfind (s.isl.get y).copies line).filter fun x => x.st == .Rg && x.key == key with
  | some x => if lineHome line ≠ y ∧ roundGe x.round th = true then x.data else cohLine s line
  | none => cohLine s line

theorem regionRead_congr {y : Isl} {key : Nat} {th : Round} {s t : State} {line : Nat} (h : SameLine line s t) :
    regionRead y key th t line = regionRead y key th s line := by
  unfold regionRead
  rw [(h.2.1 y).1, cohLine_congr h]

/-- Reading a region line gives that, and leaves the state or fills the island's copy. -/
theorem regionLine_spec (y : Isl) (line key : Nat) (th : Round) (s : State) : (regionLine y line key th s).1 = regionRead y key th s line ∧
    ((regionLine y line key th s).2 = s ∨ ∃ d, (regionLine y line key th s).2 = fillRegion y line key d s) := by
  unfold regionLine regionRead
  dsimp only
  by_cases hh : lineHome line = y
  · rw [if_pos hh]
    refine ⟨?_, .inl rfl⟩
    split
    · rw [if_neg fun h => h.1 hh]
    · rfl
  · rw [if_neg hh]
    cases hx : (tfind (s.isl.get y).copies line).filter fun x => x.st == .Rg && x.key == key with
    | none => exact ⟨rfl, .inr ⟨_, rfl⟩⟩
    | some x =>
      dsimp only
      by_cases hr : roundGe x.round th = true
      · rw [if_pos hr, if_pos ⟨hh, hr⟩]
        exact ⟨rfl, .inl rfl⟩
      · rw [if_neg hr, if_neg fun h => hr h.2]
        exact ⟨rfl, .inr ⟨_, rfl⟩⟩

/-- Lines of different parts are read as they stood before the first of them. -/
theorem regionLines_spec (y : Isl) (key : Nat) (th : Round) (ls : List Nat) : ∀ s, ls.Pairwise (fun a b => a % 32 ≠ b % 32) →
    ReadsOnly s (regionLines y key th ls s).2 ∧ ∀ l ∈ ls, tget 0 (regionLines y key th ls s).1 l = regionRead y key th s l := by
  induction ls with
  | nil => exact fun s _ => ⟨.refl s, fun l hl => nomatch hl⟩
  | cons a ls ih =>
    intro s hp
    obtain ⟨ha, hp⟩ := List.pairwise_cons.mp hp
    obtain ⟨hv, hs⟩ := regionLine_spec y a key th s
    obtain ⟨hr, hl⟩ := ih (regionLine y a key th s).2 hp
    have hstep : ReadsOnly s (regionLine y a key th s).2 := by
      rcases hs with hs | ⟨d, hs⟩
      · rw [hs]
        exact .refl s
      · rw [hs]
        exact readsOnly_fillRegion _ _ _ _ _
    refine ⟨hstep.trans hr, fun l hmem => ?_⟩
    show tget 0 (tset (regionLines y key th ls (regionLine y a key th s).2).1 a (regionLine y a key th s).1) l = _
    by_cases hla : l = a
    · subst hla
      rw [tget_tset_self, hv]
    · have hmem' : l ∈ ls := (List.mem_cons.mp hmem).resolve_left hla
      rw [tget_tset_ne _ _ _ hla, hl l hmem']
      refine regionRead_congr ?_
      rcases hs with hs | ⟨d, hs⟩
      · rw [hs]
        exact .refl _ _
      · rw [hs]
        exact sameLine_fillRegion y key d s (ha l hmem').symm

theorem linesOf_parts (a z : Nat) (ha : a < 2 ^ 52) : (linesOf a z).Pairwise fun x y => x % 32 ≠ y % 32 := by
  unfold linesOf
  split
  · exact List.pairwise_singleton _ _
  · rw [List.pairwise_pair]
    omega

/-! Performing (R180, R183, R191). -/

section
variable {s : State} {c : CoreId} {o : Cop} {sg : Bool}

theorem performCop_load (h : (s.core.get c).loads.find? (·.id == o.id) = some o) (hv : o.val = none) (hk : o.kind = .load sg) :
    performCop c o.id s = performLoad c o sg s := by
  rw [performCop, h]
  dsimp only
  rw [hv, Option.isSome_none, if_neg Bool.false_ne_true, hk]

theorem performCop_bounded {b r : Nat} {thr : Option Round} (h : (s.core.get c).loads.find? (·.id == o.id) = some o) (hv : o.val = none)
    (hk : o.kind = .bounded sg b r thr) : performCop c o.id s = performBounded c o sg b r thr s := by
  rw [performCop, h]
  dsimp only
  rw [hv, Option.isSome_none, if_neg Bool.false_ne_true, hk]

/-- Asking whether it may perform leaves the operation where it is. -/
theorem standsFor_ready (cached : Bool) (h : (s.core.get c).loads.find? (·.id == o.id) = some o) :
    StandsFor o ((s.ready c o.path cached).2.core.get c).loads := by
  obtain ⟨t, ht⟩ := mem_loads_of_tripsOnly (tripsOnly_ready s c o.path cached) (List.mem_of_find?_eq_some h)
  exact ⟨_, ht, rfl, rfl⟩

theorem widen_ready (cached : Bool) (h : o.acq = true → s.dev.narrow = []) :
    widen c o.path (s.ready c o.path cached).2 = (true, (s.ready c o.path cached).2) := by
  obtain ⟨-, -, -, -, -, -, hdev, -⟩ := tripsOnly_ready s c o.path cached
  exact widen_passes _ _ _ fun ha => by rw [hdev]; exact h ha

theorem performLoad_staging (hsp : o.sp = .stg) (hok : (s.ready c o.path false).1 = true) (hn : o.acq = true → s.dev.narrow = []) :
    performLoad c o sg s = finishCop c o.id (loadNow c o sg (s.ready c o.path false).2).1 (loadNow c o sg (s.ready c o.path false).2).2 := by
  have hw := widen_ready (c := c) false hn
  have hr : s.ready c o.path false = (true, (s.ready c o.path false).2) := Prod.ext hok rfl
  have hb : (o.sp == Sp.glob && (linesOf o.addr o.z).all (s.lineCached c)) = false := by rw [hsp]; rfl
  generalize (s.ready c o.path false).2 = s1 at hw hr ⊢
  unfold performLoad
  dsimp only
  rw [hb, hr]
  dsimp only
  rw [hsp]
  dsimp only
  rw [hw]
  rfl

theorem performLoad_global (hsp : o.sp = .glob) {cached : Bool} (hc : (linesOf o.addr o.z).all (s.lineCached c) = cached)
    (hok : (s.ready c o.path cached).1 = true) (hn : o.acq = true → s.dev.narrow = []) :
    let s1 := (s.ready c o.path cached).2
    performLoad c o sg s = match (linesOf o.addr o.z).find? fun l => (islandLine s1 (islOf c) l).isNone with
      | some l => retryCop c o.id (askLine (islOf c) l false s1)
      | none => finishCop c o.id (loadNow c o sg s1).1 (loadNow c o sg s1).2 := by
  have hw := widen_ready (c := c) cached hn
  have hr : s.ready c o.path cached = (true, (s.ready c o.path cached).2) := Prod.ext hok rfl
  have hb : (o.sp == Sp.glob && (linesOf o.addr o.z).all (s.lineCached c)) = cached := by rw [hsp, hc]; rfl
  generalize (s.ready c o.path cached).2 = s1 at hw hr ⊢
  intro s1'
  unfold performLoad
  dsimp only
  rw [hb, hr]
  dsimp only
  rw [hsp]
  dsimp only
  rw [hw]
  rfl

end

/-- Bytes of lines as a core sees them in clear under its key (R345). -/
def lineBytes (c : CoreId) (s : State) (f : Nat → BitVec 1024) (a : Nat) : Byte :=
  let l := a / 128 % 2 ^ 45
  (seenLine s (s.coreKey c) l (f l)).extractLsb' (8 * (a % 128)) 8

section
variable {s : State} {c : CoreId} {o : Cop} {sg : Bool} (hfind : (s.core.get c).loads.find? (·.id == o.id) = some o) (hval : o.val = none)
  (hn : o.acq = true → s.dev.narrow = [])
include hfind hval hn

theorem load_staging_takes (hk : o.kind = .load sg) (hsp : o.sp = .stg) (hok : (s.ready c o.path false).1 = true) :
    Takes ((s.ready c o.path false).2.core.get c) c o sg s.mem (memRd s.mem) (performCop c o.id s) := by
  have hstand := standsFor_ready false hfind
  obtain ⟨hm, -⟩ := tripsOnly_ready s c o.path false
  rw [performCop_load hfind hval hk, performLoad_staging hsp hok hn]
  generalize (s.ready c o.path false).2 = s1 at hstand hm ⊢
  obtain ⟨hrm, hrl⟩ := readsOnly_loadNow c o sg s1
  have hv : (loadNow c o sg s1).1 = extend sg o.z (ownBytes (s1.core.get c) o.seq (memRd s1.mem) o.addr o.z) := by
    unfold loadNow
    rw [hsp]
  rw [hv]
  exact takes_finishCop (hrm.trans hm) (by rw [hrl]; exact hstand) fun i _ => by rw [hm]

theorem load_global_takes (hk : o.kind = .load sg) (hsp : o.sp = .glob) (hz : o.z ≤ 8) (ha : o.addr < 2 ^ 52) {cached : Bool}
    (hc : (linesOf o.addr o.z).all (s.lineCached c) = cached) (hok : (s.ready c o.path cached).1 = true) :
    let s1 := (s.ready c o.path cached).2
    (∀ l ∈ linesOf o.addr o.z, (islandLine s1 (islOf c) l).isSome = true) →
    Takes (s1.core.get c) c o sg s.mem (lineBytes c s1 fun l => (islandLine s1 (islOf c) l).getD 0) (performCop c o.id s) := by
  intro s1 hall
  have hstand : StandsFor o (s1.core.get c).loads := standsFor_ready cached hfind
  obtain ⟨hm, -⟩ := tripsOnly_ready s c o.path cached
  have hm : s1.mem = s.mem := hm
  have hnone : (linesOf o.addr o.z).find? (fun l => (islandLine s1 (islOf c) l).isNone) = none := by
    rw [List.find?_eq_none]
    intro l hl hnn
    have := hall l hl
    rw [Option.isNone_iff_eq_none.mp hnn] at this
    exact absurd this (by decide)
  rw [performCop_load hfind hval hk, performLoad_global hsp hc hok hn]
  show Takes _ _ _ _ _ _ (match (linesOf o.addr o.z).find? fun l => (islandLine s1 (islOf c) l).isNone with
    | some l => retryCop c o.id (askLine (islOf c) l false s1)
    | none => finishCop c o.id (loadNow c o sg s1).1 (loadNow c o sg s1).2)
  rw [hnone]
  clear_value s1
  obtain ⟨hrm, hrl⟩ := readsOnly_loadNow c o sg s1
  have hv : (loadNow c o sg s1).1 = extend sg o.z (ownBytes (s1.core.get c) o.seq
      (lineBytes c s1 fun l => (islandLine s1 (islOf c) l).getD (cohLine s1 l)) o.addr o.z) := by
    unfold loadNow
    rw [hsp]
    rfl
  show Takes _ _ _ _ _ _ (finishCop c o.id (loadNow c o sg s1).1 (loadNow c o sg s1).2)
  rw [hv]
  refine takes_finishCop (hrm.trans hm) (by rw [hrl]; exact hstand) fun i hi => ?_
  obtain ⟨d, hd⟩ := Option.isSome_iff_exists.mp (hall _ (mem_linesOf ha hz hi))
  unfold lineBytes
  dsimp only
  rw [hd]
  rfl

theorem load_global_asks (hk : o.kind = .load sg) (hsp : o.sp = .glob) {cached : Bool}
    (hc : (linesOf o.addr o.z).all (s.lineCached c) = cached) (hok : (s.ready c o.path cached).1 = true) :
    let s1 := (s.ready c o.path cached).2
    let t := performCop c o.id s
    (∃ l ∈ linesOf o.addr o.z, islandLine s1 (islOf c) l = none) →
    t.has (.perform c o.id) = true ∧ t.mem = s.mem ∧ ∃ l ∈ linesOf o.addr o.z, (t.isl.get (islOf c)).mshr.any (·.line == l) = true := by
  intro s1 t hmiss
  obtain ⟨hm, -⟩ := tripsOnly_ready s c o.path cached
  have hm : s1.mem = s.mem := hm
  have hsome : ((linesOf o.addr o.z).find? fun l => (islandLine s1 (islOf c) l).isNone).isSome = true := by
    rw [List.find?_isSome]
    obtain ⟨l, hl, he⟩ := hmiss
    exact ⟨l, hl, by rw [he]; rfl⟩
  obtain ⟨l, hl⟩ := Option.isSome_iff_exists.mp hsome
  have ht : t = retryCop c o.id (askLine (islOf c) l false s1) := by
    show performCop c o.id s = _
    rw [performCop_load hfind hval hk, performLoad_global hsp hc hok hn]
    show (match (linesOf o.addr o.z).find? fun l => (islandLine s1 (islOf c) l).isNone with
      | some l => retryCop c o.id (askLine (islOf c) l false s1)
      | none => finishCop c o.id (loadNow c o sg s1).1 (loadNow c o sg s1).2) = _
    rw [hl]
  obtain ⟨ham, -, hask⟩ := askLine_spec (islOf c) l false s1
  rw [ht]
  exact ⟨has_at _ _ _, ham.trans hm, l, List.mem_of_find?_eq_some hl, hask⟩

omit hfind hval hn in
theorem lineBytes_fixThresholds (c : CoreId) (s : State) (f : Nat → BitVec 1024) : lineBytes c (fixThresholds c s) f = lineBytes c s f := by
  have hctx : ((fixThresholds c s).core.get c).ctx = (s.core.get c).ctx :=
    (congrArg CoreSt.ctx (State.modC_get s c fun k => { k with loads := k.loads.map (fixThreshold s c) }) :)
  have hkey : (fixThresholds c s).coreKey c = s.coreKey c := by
    unfold State.coreKey
    rw [hctx]
    rfl
  funext a
  unfold lineBytes
  rw [hkey]
  rfl

omit hfind hval hn in
theorem boundedNow_value (r : Nat) (th : Round) : (boundedNow c o sg r th s).1 = extend sg o.z (ownBytes (s.core.get c) o.seq
    (lineBytes c s fun l => tget 0 (regionLines (islOf c) (roundKey (s.core.get c).launch r) th (linesOf o.addr o.z) s).1 l) o.addr o.z) := by
  unfold boundedNow
  dsimp only
  exact congrArg (extend sg o.z) rfl

/-- A bounded load reads its region lines as they stand once it may perform. -/
theorem load_bounded_takes {b r : Nat} {th : Round} (hk : o.kind = .bounded sg b r (some th)) (hz : o.z ≤ 8) (ha : o.addr < 2 ^ 52)
    (hok : (s.ready c o.path false).1 = true) :
    let s1 := (s.ready c o.path false).2
    Takes (s1.core.get c) c o sg s.mem (lineBytes c s1 (regionRead (islOf c) (roundKey (s.core.get c).launch r) th s1)) (performCop c o.id s) := by
  intro s1
  have hstand : StandsFor o (s1.core.get c).loads := standsFor_ready false hfind
  obtain ⟨hm, -, -, -, -, -, hdev, hcore⟩ := tripsOnly_ready s c o.path false
  have hm : s1.mem = s.mem := hm
  have hlaunch : (s1.core.get c).launch = (s.core.get c).launch := (congrArg CoreSt.launch (hcore c) :)
  have hr : s.ready c o.path false = (true, s1) := Prod.ext hok rfl
  have hw : widen c o.path (fixThresholds c s1) = (true, fixThresholds c s1) :=
    widen_passes _ _ _ fun h => by
      show s1.dev.narrow = []
      rw [hdev]
      exact hn h
  have hget : (fixThresholds c s1).core.get c = { s1.core.get c with loads := (s1.core.get c).loads.map (fixThreshold s1 c) } :=
    State.modC_get s1 c fun k => { k with loads := k.loads.map (fixThreshold s1 c) }
  have hperf : performCop c o.id s = finishCop c o.id (boundedNow c o sg r th (fixThresholds c s1)).1 (boundedNow c o sg r th (fixThresholds c s1)).2 := by
    rw [performCop_bounded hfind hval hk]
    unfold performBounded
    dsimp only
    rw [hr]
    dsimp only
    rw [hw]
    rfl
  rw [hperf]
  clear_value s1
  obtain ⟨hrm, hrl⟩ : ReadsOnly (fixThresholds c s1) (regionLines (islOf c) (roundKey (s.core.get c).launch r) th (linesOf o.addr o.z)
      (fixThresholds c s1)).2 := (regionLines_spec _ _ _ _ _ (linesOf_parts _ _ ha)).1
  have hread := (regionLines_spec (islOf c) (roundKey (s.core.get c).launch r) th (linesOf o.addr o.z) (fixThresholds c s1)
    (linesOf_parts _ _ ha)).2
  have hkey : roundKey ((fixThresholds c s1).core.get c).launch r = roundKey (s.core.get c).launch r := by rw [hget, ← hlaunch]
  have hv : (boundedNow c o sg r th (fixThresholds c s1)).1 = extend sg o.z (ownBytes ((fixThresholds c s1).core.get c) o.seq
      (lineBytes c s1 fun l => tget 0 (regionLines (islOf c) (roundKey ((fixThresholds c s1).core.get c).launch r) th (linesOf o.addr o.z)
        (fixThresholds c s1)).1 l) o.addr o.z) := by
    rw [boundedNow_value, lineBytes_fixThresholds]
  have hleft : ReadsOnly (fixThresholds c s1) (boundedNow c o sg r th (fixThresholds c s1)).2 := by
    unfold boundedNow
    dsimp only
    rw [hkey]
    exact ReadsOnly.trans ⟨hrm, hrl⟩ (readsOnly_foldl (fun t l => (readsOnly_reachIn _ _ _ _ _).trans (readsOnly_touchLine _ _ _ _ _)) _ _)
  have hstand' : StandsFor o ((boundedNow c o sg r th (fixThresholds c s1)).2.core.get c).loads := by
    rw [hleft.2, hget]
    obtain ⟨x, hx, hid, hdst⟩ := hstand
    refine ⟨fixThreshold s1 c x, List.mem_map_of_mem hx, ?_⟩
    unfold fixThreshold
    split
    · split <;> exact ⟨hid, hdst⟩
    · exact ⟨hid, hdst⟩
  rw [hv, hkey]
  have htake := takes_finishCop (k := (fixThresholds c s1).core.get c) (c := c) (o := o) (sg := sg)
    (m := lineBytes c s1 fun l => tget 0 (regionLines (islOf c) (roundKey (s.core.get c).launch r) th (linesOf o.addr o.z) (fixThresholds c s1)).1 l)
    (byte := lineBytes c s1 (regionRead (islOf c) (roundKey (s.core.get c).launch r) th s1)) (hleft.1.trans hm) hstand' fun i hi => by
      unfold lineBytes
      dsimp only
      rw [hread _ (mem_linesOf ha hz hi)]
      rfl
  rw [hget] at htake ⊢
  exact htake

end

/-- Settles O18: pad loads by what they read at issue, counted loads by the operation that joins, and their performing by the bytes of
the lines that serve them. -/
theorem loads : Obligations.Loads := by
  unfold Obligations.Loads
  refine ⟨fun g d a j scp sz off s hg => ?_, fun g d a j sp scp sz kb off s hg => ⟨fun hsp => ?_, fun e he => ?_⟩,
    fun s c o sg hfind hval hz0 hz8 haddr hn => ⟨fun hk hsp hok => ?_, fun hk hsp hok => ⟨fun hall => ?_, fun hmiss => ?_⟩,
      fun b r th hk hsp hok => ?_⟩⟩
  · intro ea key reads gives
    have ofNat : ∀ {z}, 8 * z ≤ 64 → (BitVec.ofNat (8 * z) (padValue s key z)).setWidth 64 = BitVec.ofNat 64 (padValue s key z) :=
      fun hz => ofNat_setWidth hz (padValue_lt s key _)
    refine ⟨fun h => ⟨?_, ?_⟩, fun h => ⟨?_, ?_⟩, fun h => ⟨?_, ?_⟩, fun h => ?_, fun h => ?_⟩
    · exact padLoad_gives (i := .ldb g d a j 1 off) (loadOp_runs 0x60 true 1 d a j 1 off hg) h.1 h.2.1 h.2.2 (extend_eq true 1 _)
    · exact padLoad_gives (i := .ldbn g d a j 1 off) (loadOp_runs 0x61 false 1 d a j 1 off hg) h.1 h.2.1 h.2.2 (ofNat (z := 1) (by decide)).symm
    · exact padLoad_gives (i := .ldh g d a j 1 off) (loadOp_runs 0x62 true 2 d a j 1 off hg) h.1 h.2.1 h.2.2 (extend_eq true 2 _)
    · exact padLoad_gives (i := .ldhn g d a j 1 off) (loadOp_runs 0x63 false 2 d a j 1 off hg) h.1 h.2.1 h.2.2 (ofNat (z := 2) (by decide)).symm
    · exact padLoad_gives (i := .ldw g d a j 1 off) (loadOp_runs 0x64 true 4 d a j 1 off hg) h.1 h.2.1 h.2.2 (extend_eq true 4 _)
    · exact padLoad_gives (i := .ldwn g d a j 1 off) (loadOp_runs 0x65 false 4 d a j 1 off hg) h.1 h.2.1 h.2.2 (ofNat (z := 4) (by decide)).symm
    · exact padLoad_gives (i := .ldd g d a j 1 off) (loadOp_runs 0x66 false 8 d a j 1 off hg) h.1 h.2.1 h.2.2 rfl
    · exact padLoad_gives (lda_runs d a j 1 scp sz off hg) h.1 h.2.1 h.2.2 rfl
  · exact guardedIf_refused 0x6C g s _ (decide_eq_false hsp)
  · obtain ⟨k, acq, scp', hx⟩ := loads_at_issue g d a j sp scp sz kb off s hg e he
    exact loadAt_cases hx
  · exact load_staging_takes hfind hval hn hk hsp hok
  · exact load_global_takes hfind hval hn hk hsp hz8 (haddr hsp) rfl hok hall
  · exact load_global_asks hfind hval hn hk hsp rfl hok hmiss
  · exact load_bounded_takes hfind hval hn hk hz8 (haddr hsp) hok

end Sys2Proof.Machine
end

section
/-! O46: completions of the matrix unit, the slew limiter and drains (R157, R159, R162, R164, R167 to R174, R272 to R274). -/

namespace Sys2Proof.Machine

/-! Completions (R157, R159, R162, R164, R166 to R168, R173). -/

theorem finishMx_spec (c : CoreId) (o : MxOp) (fl : Byte) (s : State) : ∃ tok p, (finishMx c o fl s).core.get c =
    { s.core.get c with tok := tok, til := (s.core.get c).til - 1, pend := p } ∧ (fl ≠ 0 → ∃ d ∈ p, d.eff = .flags fl) := by
  have hget := State.modC_get s c fun k =>
    let k1 := { k.complete o.tok o.gen with til := k.til - 1 }
    if fl = 0 then k1 else k1.deliver .ctl s.tick 0 o.seq (.flags fl)
  have hc : ∃ tok, (s.core.get c).complete o.tok o.gen = { s.core.get c with tok := tok } := by
    unfold CoreSt.complete
    split
    · exact ⟨_, rfl⟩
    · dsimp only
      split
      · exact ⟨_, rfl⟩
      · exact ⟨_, rfl⟩
  obtain ⟨tok, hc⟩ := hc
  by_cases hf : fl = 0
  · refine ⟨tok, (s.core.get c).pend, hget.trans ?_, fun h => absurd hf h⟩
    dsimp only
    rw [if_pos hf, hc]
  · refine ⟨tok, insDel (s.core.get c).pend ⟨.ctl, 0, s.tick + 0 * (s.core.get c).div.get .ctl, o.seq, .flags fl⟩, hget.trans ?_,
      fun _ => ⟨_, (mem_insDel _ _ _).2 (.inl rfl), rfl⟩⟩
    dsimp only
    rw [if_neg hf, hc]
    rfl

theorem finishMx_mem (c : CoreId) (o : MxOp) (fl : Byte) (s : State) : (finishMx c o fl s).mem = s.mem := rfl

/-- What the end of an operation of the tail leaves. -/
theorem endTail_spec {s : State} {c : CoreId} {o : MxOp} {f : Byte} {l : List (MxOp × Byte)} (h : (s.core.get c).tail = (o, f) :: l) :
    ((endTail c s).core.get c).tail = l ∧ ((endTail c s).core.get c).til = (s.core.get c).til - 1 ∧ (endTail c s).mem = s.mem ∧
    (f ≠ 0 → ∃ d ∈ ((endTail c s).core.get c).pend, d.eff = .flags f) := by
  have hend : endTail c s = finishMx c o f (s.modC c fun k => { k with tail := l }) := by
    unfold endTail
    rw [h]
  have hget := State.modC_get s c fun k => { k with tail := l }
  obtain ⟨tok, p, hcore, hp⟩ := finishMx_spec c o f (s.modC c fun k => { k with tail := l })
  rw [hend, hcore]
  exact ⟨(congrArg CoreSt.tail hget :), congrArg (· - 1) (congrArg CoreSt.til hget :), rfl, hp⟩

/-- What stays of a core as the operation on a path ends. -/
theorem endDrainPath_spec (c : CoreId) (fl : Byte) (o : MxOp) (s : State) :
    let t := endDrainPath c fl o s
    (t.core.get c).drun = none ∧ (t.core.get c).til = (s.core.get c).til - 1 ∧ t.mem = s.mem ∧ (t.core.get c).epi = (s.core.get c).epi := by
  intro t
  obtain ⟨hcore, -, hmem⟩ := startMx_frame c (finishMx c o fl (s.modC c fun k => { k with drun := none }))
  obtain ⟨tok, p, hget, -⟩ := finishMx_spec c o fl (s.modC c fun k => { k with drun := none })
  have hk := State.modC_get s c fun k => { k with drun := none }
  have ht : t.core.get c = { s.core.get c with drun := none, tok := tok, til := (s.core.get c).til - 1, pend := p } := by
    show (startMx c _).core.get c = _
    rw [hcore, hget, hk]
  rw [ht]
  exact ⟨rfl, rfl, hmem, rfl⟩

/-! Rows of an lload (R162). -/

theorem memRd_copied (n : Nat) (m' m : List Host.Cell) (from_ k j : Nat) : memRd (memWrs m (cellsAt k (memBytes m' from_ n))) j =
    if k ≤ j ∧ j < k + n then memRd m' (from_ + (j - k)) else memRd m j := by
  induction n generalizing m from_ k with
  | zero => exact (if_neg (by omega)).symm
  | succ n ih =>
    have hstep : memWrs m (cellsAt k (memBytes m' from_ (n + 1))) =
        memWrs (memWr m k (memRd m' from_)) (cellsAt (k + 1) (memBytes m' (from_ + 1) n)) := rfl
    rw [hstep, ih, memRd_memWr]
    by_cases hj : j = k
    · subst hj
      rw [if_neg (by omega), if_pos rfl, if_pos (by omega), Nat.sub_self, Nat.add_zero]
    · rw [if_neg hj]
      by_cases hin : k + 1 ≤ j ∧ j < k + 1 + n
      · rw [if_pos hin, if_pos (by omega)]
        exact congrArg (memRd m') (by omega)
      · rw [if_neg hin, if_neg (by omega)]

/-- Rows copied one after the other, from bytes that none of them writes. -/
theorem memRd_copyRows {src dst : Nat → Nat} (n : Nat) (m : List Host.Cell) (hsrc : ∀ i j, i < n → src i + 256 ≤ dst j)
    (hdst : ∀ i j, i < j → dst i + 256 ≤ dst j) :
    let m' := (List.range n).foldl (fun m i => memWrs m (cellsAt (dst i) (memBytes m (src i) 256))) m
    (∀ i b, i < n → b < 256 → memRd m' (dst i + b) = memRd m (src i + b)) ∧ ∀ k, (∀ j, k < dst j) → memRd m' k = memRd m k := by
  induction n with
  | zero => exact ⟨fun i b h => absurd h (Nat.not_lt_zero i), fun k _ => rfl⟩
  | succ n ih =>
    intro m'
    obtain ⟨hrow, hout⟩ := ih fun i j h => hsrc i j (Nat.lt_succ_of_lt h)
    have hm' : m' = memWrs ((List.range n).foldl (fun m i => memWrs m (cellsAt (dst i) (memBytes m (src i) 256))) m) (cellsAt (dst n)
        (memBytes ((List.range n).foldl (fun m i => memWrs m (cellsAt (dst i) (memBytes m (src i) 256))) m) (src n) 256)) := by
      show List.foldl _ _ (List.range (n + 1)) = _
      rw [List.range_succ, List.foldl_append]
      rfl
    rw [hm']
    refine ⟨fun i b hi hb => ?_, fun k hk => ?_⟩
    · rw [memRd_copied]
      by_cases hin : i = n
      · subst hin
        rw [if_pos (by omega), Nat.add_sub_cancel_left]
        exact hout _ fun j => by
          have := hsrc i j hi
          omega
      · have := hdst i n (by omega)
        rw [if_neg (by omega)]
        exact hrow i b (by omega) hb
    · rw [memRd_copied, if_neg (by have := hk n; omega)]
      exact hout k hk

theorem carryPoison_mem (y : Isl) (from_ to_ n : Nat) (s : State) : (carryPoison y from_ to_ n s).mem = s.mem :=
  (markCells_frame _ _ _).1.trans (noteError_frame y from_ n s).1

/-- One row of an lload, with its poison (R162, R381). -/
def copyRow (c : CoreId) (lat : BitVec 3) (d : W64) (s : State) (i : Nat) : State :=
  (List.range 4).foldl (fun s j => carryPoison (islOf c) (padKey c (lloadBase d + i * lloadStr d) + 64 * j)
    (latKey c lat.toNat i 0 + 64 * j) 64 s) { s with
      mem := memWrs s.mem (cellsAt (latKey c lat.toNat i 0) (memBytes s.mem (padKey c (lloadBase d + i * lloadStr d)) 256)) }

theorem carryPoison_core (y : Isl) (from_ to_ n : Nat) (s : State) : (carryPoison y from_ to_ n s).core = s.core :=
  (markCells_frame _ _ _).2.2.trans (noteError_frame y from_ n s).2

theorem carried_core (y : Isl) (a b : Nat) (l : List Nat) (s : State) (m : List Host.Cell) :
    (l.foldl (fun s j => carryPoison y (a + 64 * j) (b + 64 * j) 64 s) { s with mem := m }).core = s.core :=
  foldl_keeps State.core (fun t j => carryPoison_core y (a + 64 * j) (b + 64 * j) 64 t) l { s with mem := m }

theorem copyRow_core (c : CoreId) (lat : BitVec 3) (d : W64) (s : State) (i : Nat) : (copyRow c lat d s i).core = s.core := by
  unfold copyRow
  exact carried_core ..

theorem carried_mem (y : Isl) (a b : Nat) (l : List Nat) (s : State) (m : List Host.Cell) :
    (l.foldl (fun s j => carryPoison y (a + 64 * j) (b + 64 * j) 64 s) { s with mem := m }).mem = m :=
  foldl_keeps State.mem (fun t j => carryPoison_mem y (a + 64 * j) (b + 64 * j) 64 t) l { s with mem := m }

theorem copyRow_mem (c : CoreId) (lat : BitVec 3) (d : W64) (s : State) (i : Nat) : (copyRow c lat d s i).mem =
    memWrs s.mem (cellsAt (latKey c lat.toNat i 0) (memBytes s.mem (padKey c (lloadBase d + i * lloadStr d)) 256)) := by
  unfold copyRow
  rw [carried_mem]

theorem lloadRows_eq (c : CoreId) (lat : BitVec 3) (d : W64) (s : State) : lloadRows c lat d s =
    if d.getLsbD 47 then
      cleanRange (latKey c lat.toNat (lloadNrw d + 1) 0) (latKey c lat.toNat 128 0) { (upto 0 (lloadNrw d + 1)).foldl (copyRow c lat d) s with
        mem := memZero ((upto 0 (lloadNrw d + 1)).foldl (copyRow c lat d) s).mem (latKey c lat.toNat (lloadNrw d + 1) 0)
          (latKey c lat.toNat 128 0) }
    else (upto 0 (lloadNrw d + 1)).foldl (copyRow c lat d) s := rfl

theorem lloadRows_mem (c : CoreId) (lat : BitVec 3) (d : W64) (s : State) :
    let m := (List.range (lloadNrw d + 1)).foldl (fun m i => memWrs m (cellsAt (latKey c lat.toNat i 0)
      (memBytes m (padKey c (lloadBase d + i * lloadStr d)) 256))) s.mem
    (lloadRows c lat d s).mem =
      if d.getLsbD 47 then memZero m (latKey c lat.toNat (lloadNrw d + 1) 0) (latKey c lat.toNat 128 0) else m := by
  intro m
  have hrows : ((upto 0 (lloadNrw d + 1)).foldl (copyRow c lat d) s).mem = m := by
    rw [upto, ← List.range_eq_range']
    exact (List.foldl_hom (f := State.mem) (g₂ := fun m i => memWrs m (cellsAt (latKey c lat.toNat i 0)
      (memBytes m (padKey c (lloadBase d + i * lloadStr d)) 256))) fun t i => (copyRow_mem c lat d t i).symm).symm
  rw [lloadRows_eq, ← hrows]
  split <;> rfl

theorem lloadRows_core (c : CoreId) (lat : BitVec 3) (d : W64) (s : State) : (lloadRows c lat d s).core = s.core := by
  have hrows : ((upto 0 (lloadNrw d + 1)).foldl (copyRow c lat d) s).core = s.core := foldl_keeps State.core (copyRow_core c lat d) _ s
  rw [lloadRows_eq]
  split <;> exact hrows

/-- Each row of an lload is in the latch (R162). -/
theorem memRd_lloadRows (c : CoreId) (lat : BitVec 3) (d : W64) (s : State) {row b : Nat} (hrow : row ≤ lloadNrw d) (hb : b < 256) :
    memRd (lloadRows c lat d s).mem (latKey c lat.toNat row b) = memRd s.mem (padKey c (lloadBase d + row * lloadStr d) + b) := by
  have hbase : lloadBase d < 2 ^ 21 := BitVec.isLt _
  have hstr : lloadStr d < 2 ^ 16 := BitVec.isLt _
  have hnrw : lloadNrw d < 128 := BitVec.isLt _
  have hc : c.val < 1024 := by omega
  obtain ⟨hcopy, -⟩ := memRd_copyRows (src := fun i => padKey c (lloadBase d + i * lloadStr d)) (dst := fun i => latKey c lat.toNat i 0)
    (lloadNrw d + 1) s.mem (fun i j hi => by
      have : i * lloadStr d ≤ 127 * 2 ^ 16 := Nat.mul_le_mul (by omega) hstr.le
      unfold padKey latKey
      omega) fun i j hij => by
      unfold latKey
      omega
  have hkey : latKey c lat.toNat row b = latKey c lat.toNat row 0 + b := rfl
  have := hcopy row b (by omega) hb
  rw [lloadRows_mem]
  split
  · rw [memRd_memZero, if_neg]
    · exact this
    · unfold latKey
      omega
  · exact this

/-! The clauses on completions. -/

section
variable (s : State)

theorem scaleWriteLand_lands : ∃ t, exec .scaleWriteLand s = .next t ∧
    (t.core.get s.arg.c).scw = (s.core.get s.arg.c).scw.filter (·.left != 0) ∧ t.mem = s.mem ∧
    ∀ w, (s.core.get s.arg.c).scw.filter (·.left == 0) = [w] →
      (t.core.get s.arg.c).r.scale = setScale (s.core.get s.arg.c).r.scale (s.core.get s.arg.c).r.scale w := by
  let f (k0 : CoreSt) (k : CoreSt) (w : ScaleWr) : CoreSt :=
    { k with r := k0.r.landScale k.r w, ck := if w.seq ≤ k.ckSeq then k0.ck.landScale k.ck w else k.ck }
  have hget := State.modC_get s s.arg.c fun k0 => (k0.scw.filter (·.left == 0)).foldl (f k0) { k0 with scw := k0.scw.filter (·.left != 0) }
  have hfold (k0 : CoreSt) (l : List ScaleWr) : ∀ k : CoreSt, (l.foldl (f k0) k).scw = k.scw := by
    induction l with
    | nil => exact fun k => rfl
    | cons w l ih => exact fun k => ih _
  refine ⟨_, rfl, ?_, rfl, fun w hw => ?_⟩
  · exact (congrArg CoreSt.scw hget).trans (hfold _ _ _)
  · rw [hw] at hget
    exact (congrArg (fun k : CoreSt => k.r.scale) hget :)

theorem tail_completes {o : MxOp} {f : Byte} {l : List (MxOp × Byte)} (h : (s.core.get s.arg.c).tail = (o, f) :: l) {i : Instr}
    (hi : i ∈ [Instr.routineComplete, .azeroComplete]) : ∃ t, exec i s = .next t ∧ (t.core.get s.arg.c).tail = l ∧
      (t.core.get s.arg.c).til = (s.core.get s.arg.c).til - 1 ∧ t.mem = s.mem ∧
      (f ≠ 0 → ∃ d ∈ (t.core.get s.arg.c).pend, d.eff = .flags f) := by
  have hx : exec i s = .next (endTail s.arg.c s) := by
    rcases List.mem_cons.mp hi with rfl | hi
    · rfl
    · obtain rfl := List.mem_singleton.mp hi
      rfl
  exact ⟨_, hx, endTail_spec h⟩

theorem routineFault_stops {r : Routine} (h : (s.core.get s.arg.c).arun = .call r) : ∃ t, exec .routineFault s = .next t ∧
    (t.core.get s.arg.c).arun = .idle ∧ (t.core.get s.arg.c).astop = true ∧ (t.core.get s.arg.c).fc = BitVec.ofNat 4 s.arg.k ∧
    (t.core.get s.arg.c).mxTrap = some r.op ∧ t.mem = s.mem := by
  have hx : execRoutineFault s = .next (s.modC s.arg.c fun k =>
      { k with fc := BitVec.ofNat 4 s.arg.k, fa := BitVec.ofNat 10 (min r.pc 1023), astop := true, arun := .idle, mxTrap := some r.op }) := by
    unfold execRoutineFault
    dsimp only
    rw [h]
  have hget := State.modC_get s s.arg.c fun k =>
    { k with fc := BitVec.ofNat 4 s.arg.k, fa := BitVec.ofNat 10 (min r.pc 1023), astop := true, arun := .idle, mxTrap := some r.op }
  exact ⟨_, hx, (congrArg CoreSt.arun hget :), (congrArg CoreSt.astop hget :), (congrArg CoreSt.fc hget :),
    (congrArg CoreSt.mxTrap hget :), rfl⟩

/-- A step that waits is due again and changes nothing else. -/
def Again (i : Instr) : Prop := ∃ t, exec i s = .next t ∧ t.core = s.core ∧ t.mem = s.mem ∧ t.has (.ev i (argC s.arg.c)) = true

theorem again_of_after {i : Instr} {n : Nat} (h : exec i s = .next (s.after n (.ev i (argC s.arg.c)))) : Again s i :=
  ⟨_, h, rfl, rfl, has_after _ _ _⟩

theorem lload_completes {o : MxOp} {i lat : BitVec 3} (h : (s.core.get s.arg.c).lrun = some o) (hk : o.kind = .lload i lat) :
    let d := o.mp[i.toNat]'i.isLt
    (lloadKept s s.arg.c d = true → Again s .lloadComplete) ∧
    (lloadKept s s.arg.c d = false → ∃ t, exec .lloadComplete s = .next t ∧ (t.core.get s.arg.c).lrun = none ∧
      (t.core.get s.arg.c).til = (s.core.get s.arg.c).til - 1 ∧ ∀ row b, row ≤ lloadNrw d → b < 256 →
        memRd t.mem (latKey s.arg.c lat.toNat row b) = memRd s.mem (padKey s.arg.c (lloadBase d + row * lloadStr d) + b)) := by
  intro d
  have hx : exec .lloadComplete s = if lloadKept s s.arg.c d then
      .next (s.after (s.core.get s.arg.c).div.mtx (.ev .lloadComplete (argC s.arg.c)))
      else .next (startMx s.arg.c (finishMx s.arg.c o 0 (((lloadRows s.arg.c lat d s).modC s.arg.c fun k =>
        { k with latBy := k.latBy.set lat.toNat o.badr lat.isLt }).modC s.arg.c fun k => { k with lrun := none }))) := by
    show execLloadComplete s = _
    unfold execLloadComplete
    dsimp only
    rw [h]
    dsimp only
    rw [hk]
  refine ⟨fun hk => again_of_after s (hx.trans (if_pos hk)), fun hk => ?_⟩
  have hget := (State.modC_get ((lloadRows s.arg.c lat d s).modC s.arg.c fun k =>
    { k with latBy := k.latBy.set lat.toNat o.badr lat.isLt }) s.arg.c fun k => { k with lrun := none }).trans
    (congrArg (fun k : CoreSt => { k with lrun := none }) (State.modC_get (lloadRows s.arg.c lat d s) s.arg.c fun k =>
      { k with latBy := k.latBy.set lat.toNat o.badr lat.isLt }))
  rw [lloadRows_core] at hget
  refine ⟨_, hx.trans (if_neg (by rw [hk]; decide)), ?_, ?_, fun row b hrow hb => ?_⟩
  · rw [(startMx_frame _ _).1]
    obtain ⟨tok, p, hfin, -⟩ := finishMx_spec s.arg.c o 0 (((lloadRows s.arg.c lat d s).modC s.arg.c fun k =>
        { k with latBy := k.latBy.set lat.toNat o.badr lat.isLt }).modC s.arg.c fun k => { k with lrun := none })
    rw [hfin, hget]
  · rw [(startMx_frame _ _).1]
    obtain ⟨tok, p, hfin, -⟩ := finishMx_spec s.arg.c o 0 (((lloadRows s.arg.c lat d s).modC s.arg.c fun k =>
        { k with latBy := k.latBy.set lat.toNat o.badr lat.isLt }).modC s.arg.c fun k => { k with lrun := none })
    rw [hfin, hget]
  · rw [(startMx_frame _ _).2.2]
    exact memRd_lloadRows s.arg.c lat d s hrow hb

/-- What a path's completion, which writes some bytes, leaves. -/
def PathEnds (w : List Host.Cell) (t : State) : Prop :=
  (t.core.get s.arg.c).drun = none ∧ (t.core.get s.arg.c).til = (s.core.get s.arg.c).til - 1 ∧ t.mem = memWrs s.mem w

theorem endDrainPath_ends (c : CoreId) (hc : s.arg.c = c) (fl : Byte) (o : MxOp) (w : List Host.Cell) :
    PathEnds s w (endDrainPath c fl o (markCells w none { s with mem := memWrs s.mem w })) := by
  subst hc
  obtain ⟨hm, -, hcore⟩ := markCells_frame w none { s with mem := memWrs s.mem w }
  obtain ⟨hd, ht, hmem, -⟩ := endDrainPath_spec s.arg.c fl o (markCells w none { s with mem := memWrs s.mem w })
  refine ⟨hd, ht.trans ?_, hmem.trans hm⟩
  rw [hcore]

theorem drain_completes {o : MxOp} {w : List Host.Cell} {f : Byte} (h : (s.core.get s.arg.c).drun = some (o, w, f)) :
    (s.pathKept s.arg.c (w.map (·.1)) true = true → Again s .drainComplete) ∧
    (s.pathKept s.arg.c (w.map (·.1)) true = false → ∃ t, exec .drainComplete s = .next t ∧ PathEnds s w t) := by
  have hx : exec .drainComplete s = if s.pathKept s.arg.c (w.map (·.1)) true then
      .next (s.after (s.core.get s.arg.c).div.mtx (.ev .drainComplete (argC s.arg.c)))
      else .next (endDrainPath s.arg.c f o (markCells w none { s with mem := memWrs s.mem w })) := by
    show execDrainComplete s = _
    unfold execDrainComplete
    dsimp only
    rw [h]
  exact ⟨fun hk => again_of_after s (hx.trans (if_pos hk)), fun hk => ⟨_, hx.trans (if_neg (by rw [hk]; decide)),
    endDrainPath_ends s _ rfl f o w⟩⟩

theorem epicfg_completes {o : MxOp} {w : List Host.Cell} {f : Byte} (h : (s.core.get s.arg.c).drun = some (o, w, f)) :
    ∃ t, exec .epicfgComplete s = .next t ∧ (t.core.get s.arg.c).drun = none ∧
      (t.core.get s.arg.c).til = (s.core.get s.arg.c).til - 1 ∧ t.mem = s.mem ∧ (t.core.get s.arg.c).epi = (s.core.get s.arg.c).epi := by
  have hx : execEpicfgComplete s = .next (endDrainPath s.arg.c 0 o s) := by
    unfold execEpicfgComplete
    dsimp only
    rw [h]
  exact ⟨_, hx, endDrainPath_spec s.arg.c 0 o s⟩

/-- The outcome in a carried record (R173). -/
theorem memRdN_carryBytes (x : Carry) (key : Nat) (m : List Host.Cell) : memRdN (memWrs m (carryBytes x key)) (key + 512) 4 = x.out.toNat := by
  have hout : x.out.toNat < 2 ^ 5 := x.out.isLt
  unfold carryBytes
  rw [memWrs_append, memWrs_append, memWrs_append]
  generalize memWrs m _ = m1
  rw [memRdN_congr _ (memWrs m1 (cellsOf (key + 512) x.out.toNat 4)), memRdN_cellsOf]
  · exact Nat.mod_eq_of_lt (by omega)
  · intro a hl hu
    rw [memRd_memWrs_ne, memRd_memWrs_ne]
    all_goals
      intro c hc
      have := mem_cellsOf _ _ _ _ hc
      omega

theorem cksnap_completes {o : MxOp} {w : List Host.Cell} {f : Byte} (h : (s.core.get s.arg.c).drun = some (o, w, f)) {i : BitVec 3}
    {a : BitVec 2} (hk : o.kind = .cksnap i a) :
    let key := padKey s.arg.c ((o.mp[i.toNat]'i.isLt).toNat % 2 ^ 21)
    let cells := carryBytes ((s.core.get s.arg.c).carry[a.toNat]'a.isLt) key
    (s.pathKept s.arg.c (cells.map (·.1)) true = true → Again s .cksnapComplete) ∧
    (s.pathKept s.arg.c (cells.map (·.1)) true = false → ∃ t, exec .cksnapComplete s = .next t ∧ (t.core.get s.arg.c).drun = none ∧
      (t.core.get s.arg.c).til = (s.core.get s.arg.c).til - 1 ∧
      memRdN t.mem (key + 512) 4 = (((s.core.get s.arg.c).carry[a.toNat]'a.isLt).out).toNat) := by
  intro key cells
  have hx : exec .cksnapComplete s = if s.pathKept s.arg.c (cells.map (·.1)) true then
      .next (s.after (s.core.get s.arg.c).div.mtx (.ev .cksnapComplete (argC s.arg.c)))
      else .next (endDrainPath s.arg.c 0 o (markCells cells none { s with mem := memWrs s.mem cells })) := by
    show execCksnapComplete s = _
    unfold execCksnapComplete
    dsimp only
    rw [h]
    dsimp only
    rw [hk]
  refine ⟨fun hk => again_of_after s (hx.trans (if_pos hk)), fun hk => ?_⟩
  obtain ⟨hd, ht, hm⟩ := endDrainPath_ends s s.arg.c rfl 0 o cells
  exact ⟨_, hx.trans (if_neg (by rw [hk]; decide)), hd, ht, by rw [hm]; exact memRdN_carryBytes ..⟩

end

/-! The limiter (R272 to R274, R380). -/

/-- What a grant slot does for one core that it grants (R272). -/
def grantSlew (y : Isl) (slr : W64) (s : State) (c : CoreId) : State :=
  let k := s.core.get c
  let s1 := traceEv c 0x09 (s.core.get c).r.pc 0 (s.modI y fun i => i.count 9 1)
  if k.edge .mtx s.tick = s.tick then
    (s1.modC c fun k => { k with slew := slewStart slr }).after 0 (.array c)
  else s1.modC c fun k => { k with slew := .granted slr }

/-- The cores of an island that ask, lowest first. -/
def askers (s : State) (y : Isl) : List CoreId := coreIds.filter fun c => islOf c == y && (s.core.get c).slew == .asked

theorem mem_askers {s : State} {y : Isl} {c : CoreId} : c ∈ askers s y ↔ islOf c = y ∧ (s.core.get c).slew = .asked := by
  unfold askers
  rw [List.mem_filter, Bool.and_eq_true, beq_iff_eq, beq_iff_eq]
  exact and_iff_right (mem_coreIds c)

theorem askers_sorted (s : State) (y : Isl) : (askers s y).Pairwise (· < ·) :=
  List.Pairwise.filter _ (List.pairwise_ofFn.2 fun _ _ h => h)

theorem slewStart_ne (slr : W64) : slewStart slr ≠ .asked := by
  unfold slewStart
  split <;> exact fun h => nomatch h

theorem grantSlew_core (y : Isl) (slr : W64) (s : State) (c d : CoreId) : ((grantSlew y slr s c).core.get d).slew = .asked ↔
    (s.core.get d).slew = .asked ∧ d ≠ c := by
  obtain ⟨hcore, -⟩ := beside_traceEv c 0x09 (s.core.get c).r.pc 0 (s.modI y fun i => i.count 9 1)
  unfold grantSlew
  dsimp only
  generalize traceEv c 0x09 (s.core.get c).r.pc 0 (s.modI y fun i => i.count 9 1) = s1 at hcore ⊢
  have hs1 : s1.core = s.core := hcore
  have hset (w : Slew) (hw : w ≠ .asked) : ((s1.modC c fun k => { k with slew := w }).core.get d).slew = .asked ↔
      (s.core.get d).slew = .asked ∧ d ≠ c := by
    rw [State.modC_get_if, hs1]
    by_cases hd : d = c
    · rw [if_pos hd]
      exact ⟨fun h => absurd h hw, fun h => absurd hd h.2⟩
    · rw [if_neg hd]
      exact ⟨fun h => ⟨h, hd⟩, And.left⟩
  split
  · exact hset _ (slewStart_ne slr)
  · exact hset _ fun h => nomatch h

theorem grantSlew_mem {y : Isl} (slr : W64) {s : State} {c : CoreId} (hc : islOf c = y) (h : (s.isl.get y).trb.getLsbD 8 = false) :
    ((grantSlew y slr s c).isl.get y).trb.getLsbD 8 = false ∧ (grantSlew y slr s c).mem = s.mem := by
  have hget : ((s.modI y fun i => i.count 9 1).isl.get y).trb = (s.isl.get y).trb := by
    exact (congrArg IslandSt.trb (State.modI_get s y fun i => i.count 9 1) :)
  have htr : traceEv c 0x09 (s.core.get c).r.pc 0 (s.modI y fun i => i.count 9 1) = s.modI y fun i => i.count 9 1 := by
    unfold traceEv traceOn
    rw [hc, hget, h]
    rfl
  unfold grantSlew
  dsimp only
  rw [htr]
  split
  · exact ⟨(congrArg (·.getLsbD 8) hget).trans h, rfl⟩
  · exact ⟨(congrArg (·.getLsbD 8) hget).trans h, rfl⟩

theorem foldl_grantSlew_core (y : Isl) (slr : W64) (l : List CoreId) (s : State) (d : CoreId) :
    ((l.foldl (grantSlew y slr) s).core.get d).slew = .asked ↔ (s.core.get d).slew = .asked ∧ d ∉ l := by
  induction l generalizing s with
  | nil => simp
  | cons c l ih =>
    rw [List.foldl_cons, ih, grantSlew_core, List.mem_cons, not_or, and_assoc]

theorem foldl_grantSlew_mem (y : Isl) (slr : W64) (l : List CoreId) (hl : ∀ c ∈ l, islOf c = y) (s : State)
    (h : (s.isl.get y).trb.getLsbD 8 = false) : (l.foldl (grantSlew y slr) s).mem = s.mem := by
  induction l generalizing s with
  | nil => rfl
  | cons c l ih =>
    obtain ⟨htrb, hm⟩ := grantSlew_mem slr (hl c List.mem_cons_self) h
    exact (ih (fun d hd => hl d (List.mem_cons_of_mem _ hd)) _ htrb).trans hm

theorem askSlot_frame (y : Isl) (t : Nat) (s : State) : (askSlot y t s).core = s.core ∧ (askSlot y t s).mem = s.mem := by
  unfold askSlot
  dsimp only
  split <;> exact ⟨rfl, rfl⟩

/-- In a rising list what comes before a member of the first n is among them. -/
theorem mem_take_of_lt {l : List CoreId} (hl : l.Pairwise (· < ·)) {n : Nat} {d e : CoreId} (hd : d ∈ l) (he : e ∈ l.take n) (h : d < e) :
    d ∈ l.take n := by
  rw [← List.take_append_drop n l] at hl hd
  obtain ⟨-, -, hcross⟩ := List.pairwise_append.mp hl
  rcases List.mem_append.mp hd with hd | hd
  · exact hd
  · exact absurd (hcross e he d hd) (not_lt_of_gt h)

theorem filter_not_mem_take {l : List CoreId} (hl : l.Pairwise (· < ·)) (n : Nat) : l.filter (fun c => decide (c ∉ l.take n)) = l.drop n := by
  have hparts := List.take_append_drop n l
  obtain ⟨-, -, hcross⟩ := List.pairwise_append.mp (hparts ▸ hl)
  calc l.filter (fun c => decide (c ∉ l.take n))
      = (l.take n ++ l.drop n).filter (fun c => decide (c ∉ l.take n)) := by rw [hparts]
    _ = l.drop n := by
      rw [List.filter_append, List.filter_eq_nil_iff.2 fun c hc => by simpa using hc, List.nil_append, List.filter_eq_self]
      exact fun c hc => decide_eq_true fun hin => lt_irrefl c (hcross c hin c hc)

/-- SLEW_GRANT_SLOT (R272). -/
theorem slewGrantSlot_grants (s : State) :
    let asks (t : State) (d : CoreId) : Prop := islOf d = s.arg.y ∧ (t.core.get d).slew = .asked
    ∃ t, exec .slewGrantSlot s = .next t ∧ ((s.isl.get s.arg.y).trb.getLsbD 8 = false → t.mem = s.mem) ∧
      (∀ d, asks t d → asks s d) ∧ (∀ d e, asks s d → asks s e → d < e → ¬ asks t e → ¬ asks t d) ∧
      (askers s s.arg.y).length - (askers t s.arg.y).length =
        min (natBits ((s.isl.get s.arg.y).slrAt s.tick).toNat 11 8) (askers s s.arg.y).length := by
  intro asks
  let slr := (s.isl.get s.arg.y).slrAt s.tick
  let now := (askers s s.arg.y).take (gpsOf slr)
  let s1 := now.foldl (grantSlew s.arg.y slr) s
  have hx : exec .slewGrantSlot s = .next (if (askers s s.arg.y).length ≤ now.length then s1 else askSlot s.arg.y (s.tick + 1) s1) := rfl
  refine ⟨_, hx, ?_⟩
  generalize ht : (if (askers s s.arg.y).length ≤ now.length then s1 else askSlot s.arg.y (s.tick + 1) s1) = t
  have hframe : t.core = s1.core ∧ t.mem = s1.mem := by
    rw [← ht]
    split
    · exact ⟨rfl, rfl⟩
    · exact askSlot_frame _ _ s1
  obtain ⟨hcore, hmem⟩ := hframe
  have hask (d : CoreId) : asks t d ↔ asks s d ∧ d ∉ now := by
    show islOf d = s.arg.y ∧ (t.core.get d).slew = .asked ↔ (islOf d = s.arg.y ∧ (s.core.get d).slew = .asked) ∧ d ∉ now
    rw [hcore, and_assoc]
    exact and_congr_right fun _ => foldl_grantSlew_core s.arg.y slr now s d
  refine ⟨fun h => hmem.trans (foldl_grantSlew_mem s.arg.y slr now (fun c hc => (mem_askers.1 (List.mem_of_mem_take hc)).1) s h),
    fun d h => ((hask d).1 h).1, fun d e hd he hlt hne hd' => ?_, ?_⟩
  · have hein : e ∈ now := by
      by_contra hout
      exact hne ((hask e).2 ⟨he, hout⟩)
    exact ((hask d).1 hd').2 (mem_take_of_lt (askers_sorted s s.arg.y) (mem_askers.2 hd) hein hlt)
  · have hleft : askers t s.arg.y = (askers s s.arg.y).drop (gpsOf slr) := by
      rw [← filter_not_mem_take (askers_sorted s s.arg.y)]
      unfold askers
      rw [List.filter_filter]
      refine List.filter_congr fun c _ => ?_
      rw [Bool.eq_iff_iff]
      rw [Bool.and_eq_true, beq_iff_eq, beq_iff_eq, Bool.and_eq_true, Bool.and_eq_true, beq_iff_eq, beq_iff_eq, decide_eq_true_iff]
      exact (hask c).trans and_comm
    rw [hleft, List.length_drop]
    show _ = min (gpsOf slr) _
    omega

theorem rampWindow_opens (s : State) : ∃ t, exec .rampWindow s = .next t ∧ t.mem = s.mem ∧
    (∀ l p a r ups st, (s.core.get s.arg.c).slew = .up l p (a :: r) ups st → (t.core.get s.arg.c).slew = .up a 0 r ups st) ∧
    (∀ l p ups st, (s.core.get s.arg.c).slew = .down l p ups st →
      (t.core.get s.arg.c).slew = if l ≤ 1 then .cold else .down (l - 1) 0 ups st) := by
  have hget : ((s.modC s.arg.c fun k => { k with slew := k.slew.nextWindow }).core.get s.arg.c).slew =
      (s.core.get s.arg.c).slew.nextWindow :=
    (congrArg CoreSt.slew (State.modC_get s s.arg.c fun k => { k with slew := k.slew.nextWindow }) :)
  refine ⟨_, rfl, rfl, fun l p a r ups st h => hget.trans ?_, fun l p ups st h => hget.trans ?_⟩
  · rw [h]
    rfl
  · rw [h]
    rfl

/-- A ramp down from level l, with the energy of its fillers (R274). -/
def rampedDown (c : CoreId) (l : Nat) (slr w : W64) (s : State) : State :=
  (s.pick.2.modC c fun k => { k with slew := .down (l - 1) 0 (upsOf slr) (stepOf slr) }).modD fun d =>
    { d with cx := d.cx.set (s.core.get c).arrCtx.toNat (let x := d.cx[(s.core.get c).arrCtx.toNat]'(s.core.get c).arrCtx.isLt
        { x with filler := x.filler + w, energy := x.energy + w }) (s.core.get c).arrCtx.isLt, total := d.total + w }

theorem rampedDown_spec (c : CoreId) (l : Nat) (slr w : W64) (s : State) :
    let t := rampedDown c l slr w s
    let cx := (s.core.get c).arrCtx
    t.isl = s.isl ∧ t.mem = s.mem ∧ (t.core.get c).slew = .down (l - 1) 0 (upsOf slr) (stepOf slr) ∧ (t.ctxOf cx).energy = (s.ctxOf cx).energy + w ∧
      (t.ctxOf cx).filler = (s.ctxOf cx).filler + w ∧ t.dev.total = s.dev.total + w := by
  intro t cx
  have hctx : t.ctxOf cx = { s.ctxOf cx with filler := (s.ctxOf cx).filler + w, energy := (s.ctxOf cx).energy + w } :=
    Vector.getElem_set_self _
  have hget := State.modC_get s.pick.2 c fun k => { k with slew := .down (l - 1) 0 (upsOf slr) (stepOf slr) }
  refine ⟨rfl, rfl, (congrArg CoreSt.slew hget :), ?_, ?_, rfl⟩
  · rw [hctx]
  · rw [hctx]

/-- RAMP_DOWN (R274). -/
theorem rampDown_charges (s : State) :
    let c := s.arg.c
    ∃ t, exec .rampDown s = .next t ∧ (traceOn s c 8 = false → t.mem = s.mem) ∧
      let slr := (s.isl.get (islOf c)).slrAt s.tick
      let cx := (s.core.get c).arrCtx
      (∀ l p r ups st, (s.core.get c).slew = .up l p r ups st →
        (t.core.get c).slew = if l ≤ 1 then .cold else .down (l - 1) 0 (upsOf slr) (stepOf slr)) ∧
      (∀ p r ups st, (s.core.get c).slew = .up 1 p r ups st → t.dev = s.dev) ∧
      (t.ctxOf cx).filler - (s.ctxOf cx).filler = (t.ctxOf cx).energy - (s.ctxOf cx).energy ∧
      t.dev.total - s.dev.total = (t.ctxOf cx).energy - (s.ctxOf cx).energy := by
  intro c
  have hidle (h : ∀ l p r ups st, (s.core.get c).slew ≠ .up l p r ups st) : exec .rampDown s = .next s := by
    show execRampDown s = _
    unfold execRampDown
    dsimp only
    split
    next l p r ups st hs => exact absurd hs (h l p r ups st)
    next => rfl
  by_cases h : ∃ l p r ups st, (s.core.get c).slew = .up l p r ups st
  swap
  · have hne : ∀ l p r ups st, (s.core.get c).slew ≠ .up l p r ups st := fun l p r ups st hs => h ⟨l, p, r, ups, st, hs⟩
    refine ⟨s, hidle hne, fun _ => rfl, fun l p r ups st hs => absurd hs (hne l p r ups st), fun _ _ _ _ _ => rfl, ?_, ?_⟩
    · rw [sub_self, sub_self]
    · rw [sub_self, sub_self]
  obtain ⟨l, p, r, ups, st, hs⟩ := h
  have hmem (u : State) (hu : u.isl = s.isl) (hm : u.mem = s.mem) (w : W64) (h : traceOn s c 8 = false) :
      (traceEv c 0x09 (s.core.get c).r.pc w u).mem = s.mem := by
    have hon : traceOn u c 8 = false := by
      unfold traceOn at h ⊢
      rw [hu]
      exact h
    unfold traceEv
    rw [hon]
    exact hm
  by_cases hl : l ≤ 1
  · have hx : exec .rampDown s = .next (traceEv c 0x09 (s.core.get c).r.pc 1 (s.modC c fun k => { k with slew := .cold })) := by
      show execRampDown s = _
      unfold execRampDown
      dsimp only
      rw [hs]
      exact if_pos hl
    obtain ⟨hcore, hdev, -⟩ := beside_traceEv c 0x09 (s.core.get c).r.pc 1 (s.modC c fun k => { k with slew := .cold })
    have hdev : (traceEv c 0x09 (s.core.get c).r.pc 1 (s.modC c fun k => { k with slew := .cold })).dev = s.dev := hdev
    have hm := hmem (s.modC c fun k => { k with slew := .cold }) rfl rfl 1
    refine ⟨_, hx, hm, fun l' p' r' ups' st' hs' => ?_, fun _ _ _ _ _ => hdev, ?_, ?_⟩
    · obtain ⟨rfl, -⟩ := Slew.up.inj (hs.symm.trans hs')
      rw [hcore, if_pos hl]
      exact (congrArg CoreSt.slew (State.modC_get s c fun k => { k with slew := .cold }) :)
    · unfold State.ctxOf
      rw [hdev, sub_self, sub_self]
    · unfold State.ctxOf
      rw [hdev, sub_self, sub_self]
  · have hx : exec .rampDown s = .next (traceEv c 0x09 (s.core.get c).r.pc 1 (rampedDown c l ((s.isl.get (islOf c)).slrAt s.tick) (BitVec.ofNat 64 (s.pick.1 % 2 ^ 32)) s)) := by
      show execRampDown s = _
      unfold execRampDown
      dsimp only
      rw [hs]
      exact if_neg hl
    obtain ⟨hcore, hdev, -⟩ := beside_traceEv c 0x09 (s.core.get c).r.pc 1 (rampedDown c l ((s.isl.get (islOf c)).slrAt s.tick) (BitVec.ofNat 64 (s.pick.1 % 2 ^ 32)) s)
    obtain ⟨hisl, hm, hslew, henergy, hfiller, htotal⟩ := rampedDown_spec c l ((s.isl.get (islOf c)).slrAt s.tick) (BitVec.ofNat 64 (s.pick.1 % 2 ^ 32)) s
    refine ⟨_, hx, hmem _ hisl hm 1, fun l' p' r' ups' st' hs' => ?_, fun p' r' ups' st' hs' => ?_, ?_, ?_⟩
    · obtain ⟨rfl, -⟩ := Slew.up.inj (hs.symm.trans hs')
      rw [hcore, if_neg hl]
      exact hslew
    · exact absurd (Slew.up.inj (hs.symm.trans hs')).1.le hl
    · unfold State.ctxOf at henergy hfiller ⊢
      rw [hdev, henergy, hfiller, BitVec.add_comm, BitVec.add_sub_cancel, BitVec.add_comm, BitVec.add_sub_cancel]
    · unfold State.ctxOf at henergy ⊢
      rw [hdev, henergy, htotal, BitVec.add_comm, BitVec.add_sub_cancel, BitVec.add_comm, BitVec.add_sub_cancel]

/-! The drain path (R167, R168). -/

/-- An epicfg sets the configuration as it begins (R167). -/
theorem epicfg_begins {s : State} {c : CoreId} {o : MxOp} {i : BitVec 3} {rest : List MxOp} (hq : (s.core.get c).dq = o :: rest)
    (hk : o.kind = .epicfg i) (hrun : (s.core.get c).drun = none) (hdep : (s.core.get c).depsReady o.deps = true)
    (hkept : beginKept s c o = false) :
    let t := drainPathBegin c s
    (t.core.get c).epi = o.mp[i.toNat]'i.isLt ∧ (t.core.get c).dq = rest ∧ (t.core.get c).drun.map (·.1) = some o ∧ t.mem = s.mem ∧
      (t.core.get c).r = (s.core.get c).r ∧
      ∃ e ∈ t.agenda, e.due = .ev .epicfgComplete (argC c) ∧ e.at_ = s.tick + (s.core.get c).div.mtx := by
  intro t
  let s1 := s.modC c fun k => { k with dq := rest, drun := some (o, [], 0) }
  let s2 := s1.modC c fun k => { k with epi := o.mp[i.toNat]'i.isLt }
  have ht : t = s2.after (s.core.get c).div.mtx (.ev .epicfgComplete (argC c)) := by
    show drainPathBegin c s = _
    unfold drainPathBegin
    dsimp only
    rw [hq]
    dsimp only
    rw [if_neg (by rw [hrun, hdep, hkept]; decide), hk]
  have hget : s2.core.get c = { s.core.get c with dq := rest, drun := some (o, [], 0), epi := o.mp[i.toNat]'i.isLt } :=
    (State.modC_get s1 c fun k => { k with epi := o.mp[i.toNat]'i.isLt }).trans (congrArg (fun k : CoreSt =>
      { k with epi := o.mp[i.toNat]'i.isLt }) (State.modC_get s c fun k => { k with dq := rest, drun := some (o, [], 0) }))
  rw [ht]
  exact ⟨(congrArg CoreSt.epi hget :), (congrArg CoreSt.dq hget :), (congrArg (fun k : CoreSt => k.drun.map (·.1)) hget :), rfl,
    (congrArg CoreSt.r hget :), _, mem_after_agenda s2 _ _, rfl, rfl⟩

/-! What a drain writes (R168). -/

/-- A bias of a drain, from the pad, or a free value beyond it (log entry 1). -/
def biasAt (s : State) (c : CoreId) (badr j : Nat) : Nat :=
  if badr + 4 * j + 4 ≤ 0x200000 then memRdN s.mem (padKey c (badr + 4 * j)) 4 else (Config.freeWord (s.free + j)).toNat % 2 ^ 32

/-- An output of a drain with its flags. -/
def drained (s : State) (c : CoreId) (x : DrainArgs) (a : BitVec 2) (i j : Nat) : Nat × Byte :=
  epilogue (s.core.get c).epi x.ot (accRd s c a.toNat i j) (biasAt s c ((s.core.get c).epi.extractLsb' 12 21).toNat j)

/-- Outputs of a drain in the order of rows and columns. -/
def drainCells (s : State) (c : CoreId) (x : DrainArgs) (a : BitVec 2) : List (Nat × Nat × Nat × Byte) :=
  (upto 0 (x.nrw + 1)).flatMap fun i => (upto 0 (x.ncl + 1)).map fun j => (i, j, drained s c x a i j)

/-- Bytes that a drain will write. -/
def drainWrites (s : State) (c : CoreId) (x : DrainArgs) (a : BitVec 2) : List Host.Cell :=
  (drainCells s c x a).flatMap fun v => cellsOf (drainKey s c x.spc (x.adr + v.1 * x.str + v.2.1 * (tyBits x.ot / 8))) v.2.2.1 (tyBits x.ot / 8)

def drainFlags (s : State) (c : CoreId) (x : DrainArgs) (a : BitVec 2) : Byte := (drainCells s c x a).foldl (fun f v => f ||| v.2.2.2) 0

theorem drainWrites_eq (s : State) (c : CoreId) (x : DrainArgs) (a : BitVec 2) : drainWrites s c x a =
    (List.range (x.nrw + 1)).flatMap fun i => (List.range (x.ncl + 1)).flatMap fun j =>
      cellsOf (drainKey s c x.spc (x.adr + i * x.str + j * (tyBits x.ot / 8))) (drained s c x a i j).1 (tyBits x.ot / 8) := by
  unfold drainWrites drainCells upto
  simp only [List.flatMap_assoc, List.flatMap_map, List.range_eq_range']

theorem drainFlags_iff (s : State) (c : CoreId) (x : DrainArgs) (a : BitVec 2) (b : Nat) : (drainFlags s c x a).getLsbD b = true ↔
    ∃ i j, i ≤ x.nrw ∧ j ≤ x.ncl ∧ (drained s c x a i j).2.getLsbD b = true := by
  have h0 : (0 : Byte).getLsbD b = false := BitVec.getLsbD_zero
  unfold drainFlags
  rw [getLsbD_foldl_flags, h0, Bool.false_or, List.any_eq_true]
  unfold drainCells
  constructor
  · rintro ⟨v, hv, hb⟩
    obtain ⟨i, hi, hv⟩ := List.mem_flatMap.mp hv
    obtain ⟨j, hj, rfl⟩ := List.mem_map.mp hv
    exact ⟨i, j, Nat.le_of_lt_succ (mem_upto_zero.mp hi), Nat.le_of_lt_succ (mem_upto_zero.mp hj), hb⟩
  · rintro ⟨i, j, hi, hj, hb⟩
    exact ⟨(i, j, drained s c x a i j), List.mem_flatMap.mpr ⟨i, mem_upto_zero.mpr (Nat.lt_succ_of_le hi),
      List.mem_map.mpr ⟨j, mem_upto_zero.mpr (Nat.lt_succ_of_le hj), rfl⟩⟩, hb⟩

/-- Without the bias bit an output does not depend on the bias. -/
theorem epilogue_noBias {e : W64} (h : e.getLsbD 8 = false) (ot : ElemTy) (cell b b' : Nat) : epilogue e ot cell b = epilogue e ot cell b' := by
  unfold epilogue
  rw [h]
  rfl

/-- The output with the bias as it stands in the pad. -/
theorem drained_eq {s : State} {c : CoreId} {x : DrainArgs} (a : BitVec 2) (i : Nat) {j : Nat} (hj : j ≤ x.ncl)
    (h : (s.core.get c).epi.getLsbD 8 = true → ((s.core.get c).epi.extractLsb' 12 21).toNat + 4 * (x.ncl + 1) ≤ 0x200000) :
    drained s c x a i j = epilogue (s.core.get c).epi x.ot (accRd s c a.toNat i j)
      (memRdN s.mem (padKey c (((s.core.get c).epi.extractLsb' 12 21).toNat + 4 * j)) 4) := by
  unfold drained
  cases hb : (s.core.get c).epi.getLsbD 8 with
  | false => exact epilogue_noBias hb _ _ _ _
  | true =>
    have := h hb
    rw [biasAt, if_pos (by omega)]

/-! The machine as a drain begins (R168 to R172). -/

/-- Outcome of the check of a drain that checks, and its failing columns. -/
def drainOutcome (s : State) (c : CoreId) (x : DrainArgs) (a : BitVec 2) (ck : Bool) : BitVec 5 × List Nat :=
  if ck then drainCheck s c a x.nrw x.ncl else (0, [])

/-- Bytes and flags that a drain hands on, its record, and the outcome that it counts. -/
def drainStart (c : CoreId) (o : MxOp) (x : DrainArgs) (a : BitVec 2) (ck : Bool) (s : State) : State :=
  let q : Tbl (BitVec 32) := (drainCells s c x a).foldl (fun t v => tmod 0 t v.2.1 (· + BitVec.ofNat 32 v.2.2.1)) []
  let rec_ : Carry := ⟨q, (drainOutcome s c x a ck).1, BitVec.ofNat 7 x.nrw, BitVec.ofNat 7 x.ncl, tyCode x.ot, x.spc, BitVec.ofNat 27 x.adr⟩
  let s1 := if ck then countCheck c (drainOutcome s c x a ck).1 (drainOutcome s c x a ck).2 false o.badr
    (BitVec.ofNat 64 (x.spc.toNat * 2 ^ 61 + x.adr)) s else s
  let s2 := s1.modC c fun k => { k with carry := k.carry.set a.toNat rec_ a.isLt, drun := some (o, drainWrites s c x a, drainFlags s c x a) }
  { s2 with free := s2.free + x.ncl + 1 }

/-- A drain that clears zeroes its cells after they are read (R168, R172). -/
def drainClear (c : CoreId) (o : MxOp) (x : DrainArgs) (a : BitVec 2) (s : State) : State :=
  { s with mem := zeroed c a.toNat (x.nrw + 1) (x.ncl + 1) s.mem }.modC c fun k =>
    let k1 := if x.nrw = 127 ∧ x.ncl = 127 then resetCheck k a else spoilCheck k a
    { k1 with accBy := k1.accBy.set a.toNat o.badr a.isLt }

theorem drainBegin_eq (c : CoreId) (o : MxOp) (x : DrainArgs) (a : BitVec 2) (ck clr : Bool) (s : State) :
    drainBegin c o x a ck clr s = if clr then drainClear c o x a (drainStart c o x a ck s) else drainStart c o x a ck s := by
  unfold drainBegin drainStart
  cases h : drainOutcome s c x a ck with
  | mk out fails =>
    unfold drainOutcome at h
    dsimp only
    rw [h]
    rfl

/-- A checksum outcome is counted and a mismatch sent; nothing else moves but telemetry (R170, R174, R385). -/
theorem countCheck_spec (c : CoreId) (out : BitVec 5) (fails : List Nat) (copy : Bool) (badr fadr : W64) (s : State) :
    let t := countCheck c out fails copy badr fadr s
    let n := cksIndex out
    t.mem = s.mem ∧ (t.core.get c).cks = (s.core.get c).cks.set n.val (((s.core.get c).cks[n.val]'n.isLt) + 1) n.isLt ∧
    (t.isl.get (islOf c)).waiting.length = (s.isl.get (islOf c)).waiting.length + if fails.isEmpty then 0 else 1 := by
  intro t n
  have hget := State.modC_get s c fun k =>
    { k with cks := k.cks.set n.val ((k.cks.get n) + 1) n.isLt }.count (21 + n.val) 1
  have hcks : ((s.modC c fun k => { k with cks := k.cks.set n.val ((k.cks.get n) + 1) n.isLt }.count (21 + n.val) 1).core.get c).cks =
      (s.core.get c).cks.set n.val (((s.core.get c).cks[n.val]'n.isLt) + 1) n.isLt := (congrArg CoreSt.cks hget :)
  cases fails with
  | nil => exact ⟨rfl, hcks, rfl⟩
  | cons f l =>
    refine ⟨rfl, hcks, ?_⟩
    show ((eventRec c 0x32 badr fadr _ _).isl.get (islOf c)).waiting.length = _
    rw [eventRec, sendRec_waiting, List.length_append]
    rfl

theorem drainStart_spec (c : CoreId) (o : MxOp) (x : DrainArgs) (a : BitVec 2) (ck : Bool) (s : State) :
    let t := drainStart c o x a ck s
    let u := drainOutcome s c x a ck
    let n := cksIndex u.1
    (t.core.get c).drun = some (o, drainWrites s c x a, drainFlags s c x a) ∧
    ((t.core.get c).carry[a.toNat]'a.isLt).out = u.1 ∧
    (t.core.get c).cks = (if ck then (s.core.get c).cks.set n.val (((s.core.get c).cks[n.val]'n.isLt) + 1) n.isLt else (s.core.get c).cks) ∧
    (t.isl.get (islOf c)).waiting.length = (s.isl.get (islOf c)).waiting.length + (if u.2.isEmpty then 0 else 1) ∧ t.mem = s.mem := by
  intro t u n
  let s1 := if ck then countCheck c u.1 u.2 false o.badr (BitVec.ofNat 64 (x.spc.toNat * 2 ^ 61 + x.adr)) s else s
  have hs1 : s1.mem = s.mem ∧ (s1.core.get c).cks = (if ck then (s.core.get c).cks.set n.val (((s.core.get c).cks[n.val]'n.isLt) + 1) n.isLt
      else (s.core.get c).cks) ∧
      (s1.isl.get (islOf c)).waiting.length = (s.isl.get (islOf c)).waiting.length + (if u.2.isEmpty then 0 else 1) := by
    cases ck with
    | true => exact countCheck_spec c u.1 u.2 false o.badr _ s
    | false => exact ⟨rfl, rfl, rfl⟩
  obtain ⟨hm, hc, hw⟩ := hs1
  obtain ⟨q, hq⟩ : ∃ q : Carry, q.out = u.1 ∧ t.core = (s1.modC c fun k =>
      { k with carry := k.carry.set a.toNat q a.isLt, drun := some (o, drainWrites s c x a, drainFlags s c x a) }).core :=
    ⟨⟨_, u.1, _, _, _, _, _⟩, rfl, rfl⟩
  obtain ⟨hout, hcore⟩ := hq
  have hget : t.core.get c = _ := (congrArg (fun v : Vector CoreSt 132 => v.get c) hcore).trans (State.modC_get s1 c fun k =>
    { k with carry := k.carry.set a.toNat q a.isLt, drun := some (o, drainWrites s c x a, drainFlags s c x a) })
  rw [hget]
  refine ⟨rfl, ?_, hc, hw, hm⟩
  rw [← hout]
  exact congrArg Carry.out (Vector.getElem_set_self _)

theorem drainClear_spec (c : CoreId) (o : MxOp) (x : DrainArgs) (a : BitVec 2) (s : State) :
    let t := drainClear c o x a s
    (t.core.get c).drun = (s.core.get c).drun ∧ (t.core.get c).carry = (s.core.get c).carry ∧ (t.core.get c).cks = (s.core.get c).cks ∧
    t.isl = s.isl ∧ t.mem = zeroed c a.toNat (x.nrw + 1) (x.ncl + 1) s.mem := by
  intro t
  have hget : t.core.get c = _ := State.modC_get { s with mem := zeroed c a.toNat (x.nrw + 1) (x.ncl + 1) s.mem } c fun k =>
    let k1 := if x.nrw = 127 ∧ x.ncl = 127 then resetCheck k a else spoilCheck k a
    { k1 with accBy := k1.accBy.set a.toNat o.badr a.isLt }
  rw [hget]
  dsimp only
  split
  · exact ⟨rfl, rfl, rfl, rfl, rfl⟩
  · exact ⟨rfl, rfl, rfl, rfl, rfl⟩

/-- The core and the record queue as a drain begins. -/
theorem drainBegin_spec (c : CoreId) (o : MxOp) (x : DrainArgs) (a : BitVec 2) (ck clr : Bool) (s : State) :
    let t := drainBegin c o x a ck clr s
    let u := drainOutcome s c x a ck
    let n := cksIndex u.1
    (t.core.get c).drun = some (o, drainWrites s c x a, drainFlags s c x a) ∧
    ((t.core.get c).carry[a.toNat]'a.isLt).out = u.1 ∧
    (t.core.get c).cks = (if ck then (s.core.get c).cks.set n.val (((s.core.get c).cks[n.val]'n.isLt) + 1) n.isLt else (s.core.get c).cks) ∧
    (t.isl.get (islOf c)).waiting.length = (s.isl.get (islOf c)).waiting.length + (if u.2.isEmpty then 0 else 1) ∧
    t.mem = if clr then zeroed c a.toNat (x.nrw + 1) (x.ncl + 1) s.mem else s.mem := by
  intro t u n
  obtain ⟨hd, hc, hk, hw, hm⟩ := drainStart_spec c o x a ck s
  cases clr with
  | false => exact ⟨hd, hc, hk, hw, hm⟩
  | true =>
    obtain ⟨hd', hc', hk', hi', hm'⟩ := drainClear_spec c o x a (drainStart c o x a ck s)
    have ht : t = drainClear c o x a (drainStart c o x a ck s) := drainBegin_eq c o x a ck true s
    rw [ht, hd', hc', hk', hi', hm', hm]
    exact ⟨hd, hc, hk, hw, rfl⟩

/-! The check of a drain (R170). -/

/-- A drained cell. -/
def drainedCell (s : State) (c : CoreId) (a : BitVec 2) (i j : Nat) : FVal := toF .f32 (accRd s c a.toNat i j)

/-- The rounded sum of a drained column. -/
def drainedSum (s : State) (c : CoreId) (a : BitVec 2) (j : Nat) : FVal :=
  toF .f32 (roundF .f32 .rne false (groupSum ((List.range 128).map fun i => (drainedCell s c a i j, 0))).1).1

/-- A column that declines the check. -/
def colDeclines (s : State) (c : CoreId) (a : BitVec 2) (nrw j : Nat) : Prop :=
  (∃ i, i ≤ nrw ∧ (drainedCell s c a i j).isFin = false) ∨ (drainedSum s c a j).isInf = true ∨
    (toF .f32 (tget 0 ((s.core.get c).check[a.toNat]'a.isLt).h j).toNat).isInf = true ∨
    (toF .f32 (tget 0 ((s.core.get c).check[a.toNat]'a.isLt).g j).toNat).isInf = true

/-- A column whose sum is within its tolerance. -/
def colPasses (v : Check) (sum h g : FVal) : Prop :=
  let dif := (addF .rne sum h.flip).1.mag
  let tol := (mulF (.fin false (v.steps + 1) 0) (addF .rne (g.scale (-22)) (.fin false 1 (-140))).1).1
  dif.isNan = false ∧ if v.allI8 = true ∧ g.isNan = false ∧ (FVal.fin false 1 24).lt g = false then dif.isZero = true
    else tol.isNan = false ∧ tol.lt dif = false

theorem columnPasses_iff (v : Check) (sum h g : FVal) : columnPasses v sum h g = true ↔ colPasses v sum h g := by
  unfold columnPasses colPasses
  dsimp only
  cases (addF .rne sum h.flip).1.mag.isNan with
  | true => exact ⟨fun h => absurd h Bool.false_ne_true, fun h => absurd h.1.symm Bool.false_ne_true⟩
  | false =>
    rw [if_neg Bool.false_ne_true, and_iff_right rfl]
    by_cases hc : v.allI8 = true ∧ g.isNan = false ∧ (FVal.fin false 1 24).lt g = false
    · rw [if_pos hc, if_pos (by rw [hc.1, hc.2.1, hc.2.2]; decide)]
    · rw [if_neg hc, if_neg]
      · rw [Bool.and_eq_true, Bool.not_eq_true', Bool.not_eq_true']
      · intro hb
        rw [Bool.and_eq_true, Bool.and_eq_true, Bool.not_eq_true', Bool.not_eq_true', and_assoc] at hb
        exact hc hb

/-- Values of a drained column as the check takes them. -/
def checkCol (s : State) (c : CoreId) (a : BitVec 2) (j : Nat) : FVal × FVal × FVal :=
  (drainedSum s c a j, toF .f32 (tget 0 ((s.core.get c).check[a.toNat]'a.isLt).h j).toNat,
    toF .f32 (tget 0 ((s.core.get c).check[a.toNat]'a.isLt).g j).toNat)

theorem toF_sumRound (n : Nat) (f : Nat → FVal) : toF .f32 (sumRound ((upto 0 n).map f)) =
    toF .f32 (roundF .f32 .rne false (groupSum ((List.range n).map fun i => (f i, 0))).1).1 := by
  unfold sumRound upto
  rw [List.map_map, ← List.range_eq_range']
  rfl

/-- A column of the first rows of which one is not finite, or of which a value of the check is infinite. -/
def colBad (s : State) (c : CoreId) (a : BitVec 2) (nrw j : Nat) : Bool :=
  (((upto 0 128).map fun i => drainedCell s c a i j).take (nrw + 1)).any (fun v => !v.isFin) || (checkCol s c a j).1.isInf ||
    (checkCol s c a j).2.1.isInf || (checkCol s c a j).2.2.isInf

theorem colBad_iff (s : State) (c : CoreId) (a : BitVec 2) {nrw : Nat} (hn : nrw < 128) (j : Nat) :
    colBad s c a nrw j = true ↔ colDeclines s c a nrw j := by
  have hany : (((upto 0 128).map fun i => drainedCell s c a i j).take (nrw + 1)).any (fun v => !v.isFin) = true ↔
      ∃ i, i ≤ nrw ∧ (drainedCell s c a i j).isFin = false := by
    rw [← List.map_take, upto, List.any_map, List.any_eq_true, ← List.range_eq_range', List.take_range]
    constructor
    · rintro ⟨i, hi, h⟩
      rw [List.mem_range] at hi
      exact ⟨i, by omega, by simpa using h⟩
    · rintro ⟨i, hi, h⟩
      exact ⟨i, List.mem_range.2 (by omega), by simpa using h⟩
  unfold colBad colDeclines
  rw [Bool.or_eq_true, Bool.or_eq_true, Bool.or_eq_true, hany, or_assoc, or_assoc]
  rfl

theorem drainCheck_eq (s : State) (c : CoreId) (a : BitVec 2) (nrw ncl : Nat) : drainCheck s c a nrw ncl =
    if !((s.core.get c).check[a.toNat]'a.isLt).valid then (0x10, [])
    else if ((s.core.get c).check[a.toNat]'a.isLt).special || (upto 0 (ncl + 1)).any (colBad s c a nrw) then (0x04, [])
    else
      let fails := (upto 0 (ncl + 1)).filter fun j =>
        !columnPasses ((s.core.get c).check[a.toNat]'a.isLt) (checkCol s c a j).1 (checkCol s c a j).2.1 (checkCol s c a j).2.2
      if fails.isEmpty then (0x03, []) else (0x09, fails) := by
  have hsum (j : Nat) : toF .f32 (sumRound ((upto 0 128).map fun i => toF .f32 (accRd s c a.toNat i j))) = drainedSum s c a j :=
    toF_sumRound 128 fun i => drainedCell s c a i j
  unfold drainCheck
  dsimp only
  simp only [hsum] <;> rfl

section
variable {s : State} {c : CoreId} {a : BitVec 2} {nrw ncl : Nat}

theorem drainCheck_invalid (h : ((s.core.get c).check[a.toNat]'a.isLt).valid = false) : drainCheck s c a nrw ncl = (0x10, []) := by
  rw [drainCheck_eq, h]
  rfl

variable (hn : nrw < 128) (hv : ((s.core.get c).check[a.toNat]'a.isLt).valid = true)
include hn hv

theorem any_colBad_iff : (((s.core.get c).check[a.toNat]'a.isLt).special || (upto 0 (ncl + 1)).any (colBad s c a nrw)) = true ↔
    ((s.core.get c).check[a.toNat]'a.isLt).special = true ∨ ∃ j, j ≤ ncl ∧ colDeclines s c a nrw j := by
  rw [Bool.or_eq_true, List.any_eq_true]
  refine or_congr Iff.rfl (exists_congr fun j => ?_)
  rw [mem_upto_zero, Nat.lt_succ_iff, colBad_iff s c a hn]

theorem drainCheck_declined (h : ((s.core.get c).check[a.toNat]'a.isLt).special = true ∨ ∃ j, j ≤ ncl ∧ colDeclines s c a nrw j) :
    drainCheck s c a nrw ncl = (0x04, []) := by
  rw [drainCheck_eq, hv, if_neg (by decide), if_pos ((any_colBad_iff hn hv).2 h)]

variable (hd : ¬ (((s.core.get c).check[a.toNat]'a.isLt).special = true ∨ ∃ j, j ≤ ncl ∧ colDeclines s c a nrw j))
include hd

theorem drainCheck_passes (h : ∀ j, j ≤ ncl → colPasses ((s.core.get c).check[a.toNat]'a.isLt) (checkCol s c a j).1 (checkCol s c a j).2.1
    (checkCol s c a j).2.2) : drainCheck s c a nrw ncl = (0x03, []) := by
  rw [drainCheck_eq, hv, if_neg (by decide), if_neg (mt (any_colBad_iff hn hv).1 hd)]
  dsimp only
  rw [if_pos]
  rw [List.isEmpty_iff, List.filter_eq_nil_iff]
  intro j hj
  rw [(columnPasses_iff _ _ _ _).2 (h j (Nat.le_of_lt_succ (mem_upto_zero.1 hj)))]
  decide

theorem drainCheck_fails (h : ∃ j, j ≤ ncl ∧ ¬ colPasses ((s.core.get c).check[a.toNat]'a.isLt) (checkCol s c a j).1 (checkCol s c a j).2.1
    (checkCol s c a j).2.2) : ∃ f l, drainCheck s c a nrw ncl = (0x09, f :: l) := by
  obtain ⟨j, hj, h⟩ := h
  rw [drainCheck_eq, hv, if_neg (by decide), if_neg (mt (any_colBad_iff hn hv).1 hd)]
  have hmem : j ∈ (upto 0 (ncl + 1)).filter fun j => !columnPasses ((s.core.get c).check[a.toNat]'a.isLt) (checkCol s c a j).1
      (checkCol s c a j).2.1 (checkCol s c a j).2.2 :=
    List.mem_filter.2 ⟨mem_upto_zero.2 (Nat.lt_succ_of_le hj), by
      rw [Bool.not_eq_true', ← Bool.not_eq_true, columnPasses_iff]
      exact h⟩
  dsimp only
  generalize (upto 0 (ncl + 1)).filter _ = l at hmem ⊢
  cases l with
  | nil => exact absurd hmem List.not_mem_nil
  | cons f l => exact ⟨f, l, rfl⟩

end
/-- An output and its flags as R168 gives them. -/
theorem epilogue_gives (e : W64) (ot : ElemTy) (cell bias : Nat) :
    let rm := rmOfCode (e.extractLsb' 33 2)
    let sat := e.getLsbD 35
    let act := (e.extractLsb' 9 2).toNat
    let nv (n : Nat) : Byte := if isSnan .f32 n then 0x01 else 0
    let v := (toF .f32 cell).scale (((e.extractLsb' 0 8).toNat : Int) - 128)
    let u := if e.getLsbD 8 then addF rm v (toF .f32 bias) else (v, 0)
    let y := roundF .f32 rm sat u.1
    let p := toF .f32 y.1
    let q := if act = 1 ∧ p.isNan = false ∧ (FVal.fin false 0 0).lt p = false then (0, 0)
      else if act = 2 ∧ p.lt (.fin false 0 0) = true then roundF .f32 rm sat (p.scale (-3)) else (y.1, 0)
    let w := fromF ot rm sat (toF .f32 q.1)
    (epilogue e ot cell bias).1 = w.1 ∧
      (epilogue e ot cell bias).2 = nv cell ||| (if e.getLsbD 8 then nv bias else 0) ||| u.2 ||| y.2 ||| q.2 ||| w.2 := by
  unfold epilogue
  simp only [Bool.not_eq_true', true_and] <;> rfl

/-- What a drain hands on as it begins (R168). -/
theorem drain_outputs (s : State) (c : CoreId) (o : MxOp) (x : DrainArgs) (a : BitVec 2) (ck clr : Bool)
    (hb : (s.core.get c).epi.getLsbD 8 = true → ((s.core.get c).epi.extractLsb' 12 21).toNat + 4 * (x.ncl + 1) ≤ 0x200000) :
    ∃ (out : Nat → Nat → Nat) (fl : Nat → Nat → Byte) (f : Byte),
      ((drainBegin c o x a ck clr s).core.get c).drun = some (o, (List.range (x.nrw + 1)).flatMap fun i =>
        (List.range (x.ncl + 1)).flatMap fun j =>
          cellsOf (drainKey s c x.spc (x.adr + i * x.str + j * (tyBits x.ot / 8))) (out i j) (tyBits x.ot / 8), f) ∧
      (∀ b, f.getLsbD b = true ↔ ∃ i j, i ≤ x.nrw ∧ j ≤ x.ncl ∧ (fl i j).getLsbD b = true) ∧
      ∀ i j, i ≤ x.nrw → j ≤ x.ncl →
        out i j = (epilogue (s.core.get c).epi x.ot (accRd s c a.toNat i j)
          (memRdN s.mem (padKey c (((s.core.get c).epi.extractLsb' 12 21).toNat + 4 * j)) 4)).1 ∧
        fl i j = (epilogue (s.core.get c).epi x.ot (accRd s c a.toNat i j)
          (memRdN s.mem (padKey c (((s.core.get c).epi.extractLsb' 12 21).toNat + 4 * j)) 4)).2 := by
  obtain ⟨hdrun, -⟩ := drainBegin_spec c o x a ck clr s
  refine ⟨fun i j => (drained s c x a i j).1, fun i j => (drained s c x a i j).2, drainFlags s c x a, ?_, drainFlags_iff s c x a,
    fun i j hi hj => ?_⟩
  · rw [hdrun, drainWrites_eq]
  · have h := drained_eq a i hj hb
    exact ⟨congrArg Prod.fst h, congrArg Prod.snd h⟩

/-- What a drain does to storage as it begins (R168, R172). -/
theorem drain_zeroes (s : State) (c : CoreId) (o : MxOp) (x : DrainArgs) (a : BitVec 2) (ck clr : Bool) :
    let t := drainBegin c o x a ck clr s
    (clr = false → t.mem = s.mem) ∧
    (clr = true → (∀ i j, i ≤ x.nrw → j ≤ x.ncl → accRd t c a.toNat i j = 0) ∧
      ∀ n, (∀ i j b, i ≤ x.nrw → j ≤ x.ncl → b < 4 → n ≠ accKey c a.toNat i j + b) → memRd t.mem n = memRd s.mem n) := by
  intro t
  obtain ⟨-, -, -, -, hmem⟩ := drainBegin_spec c o x a ck clr s
  refine ⟨fun h => hmem.trans (if_neg (by rw [h]; decide)), fun h => ?_⟩
  have hmem : t.mem = zeroed c a.toNat (x.nrw + 1) (x.ncl + 1) s.mem := hmem.trans (if_pos h)
  refine ⟨fun i j hi hj => ?_, fun n hn => ?_⟩
  · rw [accRd, hmem]
    exact zeroed_cell c a.toNat s.mem (Nat.lt_succ_of_le hi) (Nat.lt_succ_of_le hj)
  · rw [hmem]
    exact zeroed_ne c a.toNat s.mem fun i j b hi hj hb => hn i j b (Nat.le_of_lt_succ hi) (Nat.le_of_lt_succ hj) hb

/-- What a drain records of its check as it begins (R170, R173, R174). -/
theorem drain_checks (s : State) (c : CoreId) (o : MxOp) (x : DrainArgs) (a : BitVec 2) (ck clr : Bool) (hn : x.nrw < 128) :
    let t := drainBegin c o x a ck clr s
    let v := (s.core.get c).check[a.toNat]'a.isLt
    let passes (j : Nat) : Prop := colPasses v (checkCol s c a j).1 (checkCol s c a j).2.1 (checkCol s c a j).2.2
    let declined : Prop := v.special = true ∨ ∃ j, j ≤ x.ncl ∧ colDeclines s c a x.nrw j
    let counts (n : Fin 4) : Prop := (t.core.get c).cks = (s.core.get c).cks.set n.val (((s.core.get c).cks[n.val]'n.isLt) + 1) n.isLt
    let ends (b : BitVec 5) : Prop := ((t.core.get c).carry[a.toNat]'a.isLt).out = b
    let sent (n : Nat) : Prop := (t.isl.get (islOf c)).waiting.length = (s.isl.get (islOf c)).waiting.length + n
    (ck = false → (t.core.get c).cks = (s.core.get c).cks ∧ ends 0 ∧ sent 0) ∧
    (ck = true → v.valid = false → counts 3 ∧ ends 0x10 ∧ sent 0) ∧
    (ck = true → v.valid = true → declined → counts 2 ∧ ends 0x04 ∧ sent 0) ∧
    (ck = true → v.valid = true → ¬ declined → (∀ j, j ≤ x.ncl → passes j) → counts 0 ∧ ends 0x03 ∧ sent 0) ∧
    (ck = true → v.valid = true → ¬ declined → (∃ j, j ≤ x.ncl ∧ ¬ passes j) → counts 1 ∧ ends 0x09 ∧ sent 1) := by
  intro t v passes declined counts ends sent
  obtain ⟨-, hout, hcks, hwait, -⟩ := drainBegin_spec c o x a ck clr s
  have hck (h : ck = true) {b : BitVec 5} {l : List Nat} (hu : drainCheck s c a x.nrw x.ncl = (b, l)) :
      counts (cksIndex b) ∧ ends b ∧ sent (if l.isEmpty then 0 else 1) := by
    have hu : drainOutcome s c x a ck = (b, l) := (if_pos h).trans hu
    rw [hu] at hout hcks hwait
    exact ⟨hcks.trans (if_pos h), hout, hwait⟩
  refine ⟨fun h => ?_, fun h hv => hck h (drainCheck_invalid hv), fun h hv hd => hck h (drainCheck_declined hn hv hd),
    fun h hv hd hp => hck h (drainCheck_passes hn hv hd hp), fun h hv hd hp => ?_⟩
  · have hu : drainOutcome s c x a ck = (0, []) := if_neg (by rw [h]; decide)
    rw [hu] at hout hcks hwait
    exact ⟨hcks.trans (if_neg (by rw [h]; decide)), hout, hwait⟩
  · obtain ⟨f, l, hu⟩ := drainCheck_fails hn hv hd hp
    exact hck h hu

/-- Settles O46: completions by what ends a path, grant slots by the rising list of those that ask, and drains by their epilogue, their
zeroed cells and the outcome of their check. -/
theorem matrixCompletions : Obligations.MatrixCompletions := by
  unfold Obligations.MatrixCompletions
  refine ⟨fun s => ⟨scaleWriteLand_lands s, fun o f l h i hi => tail_completes s h hi, fun r h => routineFault_stops s h,
    fun o i lat h hk => lload_completes s h hk, fun o w f h => ⟨(drain_completes s h).1, (drain_completes s h).2, epicfg_completes s h,
      fun i a hk => cksnap_completes s h hk⟩⟩,
    fun s => ⟨slewGrantSlot_grants s, rampWindow_opens s, rampDown_charges s⟩,
    fun s c o i rest hq hk hrun hdep hkept => epicfg_begins hq hk hrun hdep hkept, fun s c o x a ck clr hn hl => ?_⟩
  intro k e z rm sat act badr t old cell nv
  obtain ⟨hclr, hzero⟩ := drain_zeroes s c o x a ck clr
  refine ⟨fun hb => ?_, hclr, hzero, drain_checks s c o x a ck clr hn⟩
  obtain ⟨out, fl, f, hdrun, hf, heach⟩ := drain_outputs s c o x a ck clr hb
  refine ⟨out, fl, f, hdrun, hf, fun i j hi hj => ?_⟩
  obtain ⟨hout, hfl⟩ := heach i j hi hj
  obtain ⟨hval, hflags⟩ := epilogue_gives e x.ot (old i j) (memRdN s.mem (padKey c (badr + 4 * j)) 4)
  exact ⟨hout.trans hval, hfl.trans hflags⟩

end Sys2Proof.Machine
end

section
/-! O50: binding a core, and initial items (R13, R14, R210, R322, R330). -/

namespace Sys2Proof.Machine

/-! Steps that fill caches and buffers (R66, R337, R343). -/

/-- t is s but for caches and shelves, the fetch lines and translations of cores, error logs, the accounts and what is due. -/
structure Quiet (s t : State) : Prop where
  mem : t.mem = s.mem
  core : ∀ d, ∃ l b, t.core.get d = { s.core.get d with tlb := l, ifb := b }
  tick : t.tick = s.tick
  pool : t.dev.pool = s.dev.pool
  barr : t.dev.barr = s.dev.barr
  prod : t.dev.prod = s.dev.prod
  isl : ∀ y, (t.isl.get y).still = (s.isl.get y).still
  kept : ∀ e ∈ s.agenda, e ∈ t.agenda
  edges : ∀ d, t.has (.edge d) = true → s.has (.edge d) = true

namespace Quiet

theorem refl (s : State) : Quiet s s := ⟨rfl, fun _ => ⟨_, _, rfl⟩, rfl, rfl, rfl, rfl, fun _ => rfl, fun _ h => h, fun _ h => h⟩

theorem trans {s t u : State} (h : Quiet s t) (h' : Quiet t u) : Quiet s u where
  mem := h'.mem.trans h.mem
  core d := by
    obtain ⟨l, b, e⟩ := h.core d
    obtain ⟨l', b', e'⟩ := h'.core d
    exact ⟨l', b', by rw [e', e]⟩
  tick := h'.tick.trans h.tick
  pool := h'.pool.trans h.pool
  barr := h'.barr.trans h.barr
  prod := h'.prod.trans h.prod
  isl y := (h'.isl y).trans (h.isl y)
  kept e he := h'.kept e (h.kept e he)
  edges d hd := h.edges d (h'.edges d hd)

theorem foldl {α : Type} {f : State → α → State} (hf : ∀ (s : State) a, Quiet s (f s a)) (l : List α) (s : State) : Quiet s (l.foldl f s) := by
  induction l generalizing s with
  | nil => exact refl s
  | cons a l ih => exact (hf s a).trans (ih (f s a))

/-- A change of the device's other registers. -/
theorem modD (s : State) {f : DevSt → DevSt} (hp : (f s.dev).pool = s.dev.pool) (hb : (f s.dev).barr = s.dev.barr)
    (hr : (f s.dev).prod = s.dev.prod) : Quiet s (s.modD f) :=
  ⟨rfl, fun _ => ⟨_, _, rfl⟩, rfl, hp, hb, hr, fun _ => rfl, fun _ h => h, fun _ h => h⟩

theorem modI (s : State) (y : Isl) {f : IslandSt → IslandSt} (hf : ∀ i, (f i).still = i.still) : Quiet s (s.modI y f) := by
  exact ⟨rfl, fun _ => ⟨_, _, rfl⟩, rfl, rfl, rfl, rfl, modI_still s y hf, fun _ h => h, fun _ h => h⟩

theorem pick (s : State) : Quiet s s.pick.2 := ⟨rfl, fun _ => ⟨_, _, rfl⟩, rfl, rfl, rfl, rfl, fun _ => rfl, fun _ h => h, fun _ h => h⟩

/-- New lines of a core's buffer, or new translations. -/
theorem modC (s : State) (c : CoreId) {f : CoreSt → CoreSt} (hf : ∀ k, ∃ l b, f k = { k with tlb := l, ifb := b }) : Quiet s (s.modC c f) := by
  refine ⟨rfl, fun d => ?_, rfl, rfl, rfl, rfl, fun _ => rfl, fun _ h => h, fun _ h => h⟩
  rw [State.modC_get_if]
  split
  next h =>
    rw [h]
    exact hf _
  · exact ⟨_, _, rfl⟩

/-- A step of another unit is due. -/
theorem at_ (s : State) (t : Nat) (i : Instr) (a : Arg) : Quiet s (s.at t (.ev i a)) := by
  refine ⟨rfl, fun _ => ⟨_, _, rfl⟩, rfl, rfl, rfl, rfl, fun _ => rfl, fun e h => (mem_agenda_at s t _ e).2 (.inr h), fun d h => ?_⟩
  rw [has_iff] at h ⊢
  obtain ⟨e, he, hd⟩ := h
  rcases (mem_agenda_at s t _ e).1 he with rfl | he
  · exact nomatch hd
  · exact ⟨e, he, hd⟩

end Quiet

theorem quiet_markPieces (ps : List Nat) (u : Nat) (s : State) : Quiet s (markPieces ps u s) := by
  unfold markPieces
  exact .modD s rfl rfl rfl

theorem quiet_elogPut (r : BitVec 256) (s : State) : Quiet s (elogPut r s) := by
  unfold elogPut
  exact .modD s rfl rfl rfl

theorem quiet_noteError (y : Isl) (key n : Nat) (s : State) : Quiet s (noteError y key n s) := by
  unfold noteError
  refine .foldl (fun s p => ?_) _ s
  refine Quiet.trans (Quiet.modI s (storageUnit s y (64 * p)).1 (f := fun i => i.count 11 1) fun _ => rfl) ?_
  refine Quiet.trans (Quiet.modD _ (f := fun d => { d with errs := d.errs.filter (· != p) }) rfl rfl rfl) ?_
  exact (quiet_markPieces ..).trans (quiet_elogPut ..)

theorem quiet_reach (y : Isl) (key n : Nat) (s : State) : Quiet s (reach y key n s) := by
  unfold reach
  split
  · exact (quiet_markPieces ..).trans (quiet_noteError ..)
  · exact quiet_noteError ..

theorem quiet_writeBack (e : ShelfLine) (s : State) : Quiet s (writeBack e s) := by
  unfold writeBack
  split
  · split
    · exact .modD s rfl rfl rfl
    · exact .refl s
  · exact .refl s

theorem quiet_touchShelf (line : Nat) (cls : BitVec 2) (k : Option SlotKey) (dirty : Bool) (s : State) :
    Quiet s (touchShelf line cls k dirty s) := by
  have hput (l : List ShelfLine) (s : State) : Quiet s (s.modI (lineHome line) fun i => { i with shelf := l }) :=
    .modI s _ fun _ => rfl
  have hold (old : Option ShelfLine) : Quiet s (old.elim s fun x => writeBack x s) := by
    cases old with
    | none => exact .refl s
    | some x => exact quiet_writeBack x s
  unfold touchShelf
  dsimp only
  split
  · exact hput _ s
  · split
    · exact ((hold _).trans (hput _ _)).trans (quiet_writeBack _ _)
    · split
      · exact ((hold _).trans (quiet_writeBack _ _)).trans (hput _ _)
      · exact (hold _).trans (hput _ _)

theorem quiet_touchLine (c : CoreId) (line : Nat) (cls : BitVec 2) (dirty : Bool) (s : State) : Quiet s (touchLine c line cls dirty s) := by
  unfold touchLine
  refine (quiet_touchShelf line cls (s.coreKey c) dirty s).trans (.modI _ _ fun i => ?_)
  split
  · split <;> rfl
  · rfl

theorem quiet_trimShelf (y : Isl) (s : State) : Quiet s (trimShelf y s) := by
  unfold trimShelf
  exact (Quiet.foldl (fun s e => quiet_writeBack e s) _ s).trans (.modI _ _ fun _ => rfl)

theorem quiet_planOverrun (q : BitVec 8) (s : State) : Quiet s (planOverrun q s) := by
  unfold planOverrun
  dsimp only
  split
  · exact .refl s
  · exact .at_ ..

theorem quiet_accrue (q : BitVec 8) (s : State) : Quiet s (accrue q s) := by
  unfold accrue
  exact .modD s rfl rfl rfl

theorem quiet_chargeCtx (cx : BitVec 7) (s : State) : Quiet s (chargeCtx cx s) := by
  unfold chargeCtx
  exact (Quiet.pick s).trans (.modD _ rfl rfl rfl)

theorem quiet_keepXlat (c : CoreId) (x : XRes) (s : State) : Quiet s (keepXlat c x s) := by
  unfold keepXlat
  split
  · split
    · exact .refl s
    · exact ((Quiet.pick s).trans (.modC _ c fun k => ⟨_, k.ifb, rfl⟩)).trans (.modI _ _ fun _ => rfl)
  · exact .refl s

theorem quiet_ite (b : Bool) {s t : State} (h : Quiet s t) : Quiet s (if b then t else s) := by
  cases b with
  | true => exact h
  | false => exact .refl s

theorem quiet_needLine {c : CoreId} {va : Nat} {s t : State} (h : needLine c va s = .ok t) : Quiet s t := by
  unfold needLine at h
  split at h
  · rw [← Except.ok.inj h]
    exact .refl s
  · split at h
    · exact nomatch h
    · split at h
      · dsimp only at h
        rw [← Except.ok.inj h]
        exact (quiet_ite _ (quiet_reach ..)).trans ((quiet_keepXlat ..).trans (.modC _ c fun k => ⟨k.tlb, _, rfl⟩))
      · exact nomatch h
      · split at h
        · exact nomatch h
        · exact nomatch h
      · exact nomatch h

theorem quiet_useLine {c : CoreId} {va : Nat} {s t : State} (h : useLine c va s = .ok t) : Quiet s t := by
  unfold useLine at h
  split at h
  · exact nomatch h
  next s1 hn =>
    split at h
    · exact nomatch h
    · rw [← Except.ok.inj h]
      exact quiet_needLine hn

theorem quiet_bundleLen {c : CoreId} {va n : Nat} {s t : State} (h : bundleLen c va s = .ok (n, t)) : Quiet s t := by
  unfold bundleLen at h
  split at h
  · exact nomatch h
  next s1 hu =>
    dsimp only at h
    split at h
    · exact nomatch h
    · rw [← (Prod.mk.inj (Except.ok.inj h)).2]
      exact quiet_useLine hu

theorem quiet_fetchBundle {c : CoreId} {va n : Nat} {i : Image} {s t : State} (h : fetchBundle c va s = .ok (i, n, t)) : Quiet s t := by
  unfold fetchBundle at h
  split at h
  · exact nomatch h
  next m s1 hb =>
    split at h
    · exact nomatch h
    next s2 hu =>
      dsimp only at h
      rw [← (Prod.mk.inj (Prod.mk.inj (Except.ok.inj h)).2).2]
      exact (quiet_bundleLen hb).trans (quiet_useLine hu)

theorem quiet_walkLines (c : CoreId) (n : Nat) : ∀ (va : Nat) (s : State), Quiet s (walkLines c n va s) := by
  induction n with
  | zero => exact fun _ s => .refl s
  | succ n ih =>
    intro va s
    unfold walkLines
    split
    · exact .refl s
    next s1 hn =>
      split
      · exact quiet_needLine hn
      next m s2 hb => exact ((quiet_needLine hn).trans (quiet_bundleLen hb)).trans (ih _ _)

theorem quiet_walkBody (c : CoreId) (i : Option Instr) (nxt : Nat) (s : State) : Quiet s (walkBody c i nxt s) := by
  unfold walkBody
  split
  · split
    · exact quiet_walkLines ..
    · exact .refl s
  · split
    · exact quiet_walkLines ..
    · exact .refl s
  · exact .refl s

theorem quiet_fillCode (c : CoreId) (old : List FetchLine) (s : State) : Quiet s (fillCode c old s) := by
  unfold fillCode
  refine .foldl (fun s l => ?_) _ s
  split
  · exact quiet_touchLine ..
  · exact .refl s

theorem quiet_fetchFirst (c : CoreId) (s : State) : Quiet s (fetchFirst c s) := by
  unfold fetchFirst
  dsimp only
  split
  · exact .refl s
  next img nxt t h => exact ((quiet_fetchBundle h).trans (quiet_walkBody ..)).trans (quiet_fillCode ..)

/-! A core that begins to issue (R12, R330). -/

/-- What a bind does once registers, storage and image parts are in the core. -/
def bindIssue (c : CoreId) (l : Launch) (bg : Bool) (units : Nat) (s4 : State) : State :=
  let s5 := s4.modC c fun k => { k with bg := bg }
  let (x, s6) := (chargeCtx l.ctx s5).pick
  trimShelf (islOf c) (planOverrun l.que (firstEdge c (bindTick x s6.tick units (effDiv s6 c).ctl) (fetchFirst c s6)))

theorem bindTick_spec (n t u d : Nat) : bindTick n t u d % 4 = 0 ∧ t ≤ bindTick n t u d := by
  unfold bindTick
  dsimp only
  generalize n % _ = m
  omega

/-- The core and the agenda as a core's time starts (R12). -/
theorem firstEdge_spec (c : CoreId) (x : Nat) (s : State) :
    let t := firstEdge c x s
    (∃ m n l q, t.core.get c = { s.core.get c with
      mclass := m, tele := n, mlast := l, ckSeq := q, div := effDiv s c, base := x, ck := (s.core.get c).r }) ∧
    (∀ d, d ≠ c → t.core.get d = s.core.get d) ∧ t.dev = s.dev ∧ t.tick = s.tick ∧ (traceOn s c 14 = false → t.mem = s.mem) ∧
    (∀ y, (t.isl.get y).still = (s.isl.get y).still) ∧ t.has (.edge c) = true ∧ (∀ d, s.has (.edge d) = true → t.has (.edge d) = true) ∧
    (s.has (.edge c) = false → ∃ e ∈ t.agenda, e.due = .edge c ∧ e.at_ = x) := by
  intro t
  have hacc := accounted_classUp c s
  obtain ⟨hr, -, hstill, hedges⟩ := classed_classUp c s
  let s1 := (classUp c s).modC c fun k => { k with div := effDiv s c, base := x, ck := k.r, ckSeq := k.seq * 8 - 1, mlast := x - 1 }
  have ht : t = if s1.has (.edge c) then s1 else s1.at x (.edge c) := rfl
  have hget : s1.core.get c = _ := State.modC_get (classUp c s) c fun k =>
    { k with div := effDiv s c, base := x, ck := k.r, ckSeq := k.seq * 8 - 1, mlast := x - 1 }
  have hframe : t.core = s1.core ∧ t.dev = s1.dev ∧ t.tick = s1.tick ∧ t.mem = s1.mem ∧ t.isl = s1.isl ∧
      t.has (.edge c) = true ∧ (∀ d, s1.has (.edge d) = true → t.has (.edge d) = true) ∧
      (s1.has (.edge c) = false → ∃ e ∈ t.agenda, e.due = .edge c ∧ e.at_ = x) := by
    rw [ht]
    split
    next h => exact ⟨rfl, rfl, rfl, rfl, rfl, h, fun _ h => h, fun hn => absurd (h.symm.trans hn) (by decide)⟩
    next h => exact ⟨rfl, rfl, rfl, rfl, rfl, has_at _ _ _, fun d hd => has_at_of_has _ _ _ _ hd, fun _ =>
        ⟨_, (mem_agenda_at s1 _ _ _).2 (.inl rfl), rfl, rfl⟩⟩
  obtain ⟨hcore, hdev, htick, hmem, hisl, hhas, hkept, hnew⟩ := hframe
  refine ⟨?_, fun d hd => ?_, hdev.trans hacc.dev, htick.trans hacc.tick, fun hoff => hmem.trans (hacc.mem hoff), fun y => ?_, hhas,
    fun d hd => hkept d ?_, fun hn => hnew ?_⟩
  · obtain ⟨m, n, l, hc⟩ := hacc.core
    refine ⟨m, n, x - 1, ((classUp c s).core.get c).seq * 8 - 1, ?_⟩
    rw [hcore, hget, hc]
  · rw [hcore]
    exact (State.modC_get_ne (classUp c s) _ hd).trans (hacc.others d hd)
  · rw [hisl]
    exact hstill y
  · exact (has_congr (State.modC_agenda (classUp c s) c _) _).trans (hacc.has _ trivial hd)
  · rw [← Bool.not_eq_true] at hn ⊢
    exact fun h => hn (hedges c ((has_congr (State.modC_agenda (classUp c s) c _) _).symm.trans h))

/-- What the issue of a bound core leaves, and what it sets. -/
theorem bindIssue_spec (c : CoreId) (l : Launch) (bg : Bool) (units : Nat) (s : State) :
    let t := bindIssue c l bg units s
    (∃ tlb ifb m n o q x, x % 4 = 0 ∧ s.tick ≤ x ∧ t.core.get c = { s.core.get c with
      bg := bg, tlb := tlb, ifb := ifb, mclass := m, tele := n, mlast := o, ckSeq := q, div := effDiv t c, base := x, ck := (s.core.get c).r } ∧
      (s.has (.edge c) = false → ∃ e ∈ t.agenda, e.due = .edge c ∧ e.at_ = x)) ∧
    (∀ d, d ≠ c → ∃ tlb ifb, t.core.get d = { s.core.get d with tlb := tlb, ifb := ifb }) ∧
    t.dev.pool = s.dev.pool ∧ t.dev.barr = s.dev.barr ∧ t.dev.prod = s.dev.prod ∧ t.tick = s.tick ∧
    (traceOn s c 14 = false → t.mem = s.mem) ∧ (∀ y, (t.isl.get y).still = (s.isl.get y).still) ∧ t.has (.edge c) = true ∧
    ∀ d, s.has (.edge d) = true → t.has (.edge d) = true := by
  intro t
  let s5 := s.modC c fun k => { k with bg := bg }
  let s6 := (chargeCtx l.ctx s5).pick.2
  let s7 := fetchFirst c s6
  obtain ⟨x, hx4, hxt, ht⟩ : ∃ x, x % 4 = 0 ∧ s.tick ≤ x ∧ t = trimShelf (islOf c) (planOverrun l.que (firstEdge c x s7)) :=
    ⟨_, (bindTick_spec _ _ _ _).1, (bindTick_spec _ _ _ _).2, rfl⟩
  have hq7 : Quiet s5 s7 := ((quiet_chargeCtx l.ctx s5).trans (Quiet.pick _)).trans (quiet_fetchFirst c s6)
  obtain ⟨⟨m, n, o, q, hme⟩, hothers, hdev, htick, hmem, hstill, hhas, hkept, hnew⟩ := firstEdge_spec c x s7
  have hq : Quiet (firstEdge c x s7) t := by
    rw [ht]
    exact (quiet_planOverrun l.que _).trans (quiet_trimShelf (islOf c) _)
  have hedge (u v : State) (h : Quiet u v) (d : CoreId) (hd : u.has (.edge d) = true) : v.has (.edge d) = true := by
    obtain ⟨e, he, hdue⟩ := (has_iff u _).1 hd
    exact (has_iff v _).2 ⟨e, h.kept e he, hdue⟩
  obtain ⟨l7, b7, h7⟩ := hq7.core c
  obtain ⟨l8, b8, h8⟩ := hq.core c
  have h5 : s5.core.get c = { s.core.get c with bg := bg } := State.modC_get s c fun k => { k with bg := bg }
  have hdiv : effDiv t c = effDiv s7 c := effDiv_congr ((hq.isl _).trans (hstill _)) (by rw [h8, hme])
  refine ⟨⟨l8, b8, m, n, o, q, x, hx4, hxt, ?_, fun hn => ?_⟩, fun d hd => ?_, (hq.pool.trans (congrArg _ hdev)).trans hq7.pool,
    (hq.barr.trans (congrArg _ hdev)).trans hq7.barr, (hq.prod.trans (congrArg _ hdev)).trans hq7.prod,
    (hq.tick.trans htick).trans hq7.tick, fun hoff => ?_, fun y => ((hq.isl y).trans (hstill y)).trans (hq7.isl y), hedge _ _ hq c hhas,
    fun d hd => hedge _ _ hq d (hkept d (hedge _ _ hq7 d hd))⟩
  · rw [h8, hme, hdiv, h7, h5]
  · obtain ⟨e, he, hdue⟩ := hnew (by
      rw [← Bool.not_eq_true] at hn ⊢
      exact fun h => hn (hq7.edges c h))
    exact ⟨e, hq.kept e he, hdue⟩
  · obtain ⟨la, ba, ha⟩ := hq7.core d
    obtain ⟨lb, bb, hb⟩ := hq.core d
    exact ⟨lb, bb, by rw [hb, hothers d hd, ha, State.modC_get_ne s _ hd]⟩
  · have hoff7 : traceOn s7 c 14 = false := by
      have htrb : (s7.isl.get (islOf c)).trb = (s.isl.get (islOf c)).trb := (congrArg (fun v => v.2.1) (hq7.isl (islOf c)) :)
      unfold traceOn at hoff ⊢
      rw [htrb]
      exact hoff
    exact (hq.mem.trans (hmem hoff7)).trans hq7.mem

/-! Registers, storage and image parts of a bound core (R13, R14, R330). -/

/-- A bind up to the image parts that it loads. -/
def bindLoaded (c : CoreId) (n : Nat) (l : Launch) (t : Nat) (s : State) : State :=
  let s1 := accrue l.que s
  let s2 := if (s1.core.get c).ctx = l.ctx then s1 else zeroCore c s1
  loadImage c l t (bindRegs c n l t s2)

/-- A bind up to a saved state that it takes (R363). -/
def bindRestored (c : CoreId) (n : Nat) (l : Launch) (t : Nat) (s3 : State) : State :=
  match (s3.ctxOf l.ctx).slots.find? fun e => e.stg == t && e.launch == n with
  | some e => (restoreMarks c e (restoreSlot c e.slot s3)).modD fun d =>
      let x := d.cx[l.ctx.toNat]'l.ctx.isLt
      { d with cx := d.cx.set l.ctx.toNat { x with slots := x.slots.filter fun y => y.slot != e.slot } l.ctx.isLt }
  | none => s3

theorem bindCore_eq (c : CoreId) (n : Nat) (l : Launch) (t : Nat) (s : State) : bindCore c n l t s =
    bindIssue c l ((queueKey s l.que).1 == 1) (loadUnits (bindLoaded c n l t s) n l t) (bindRestored c n l t (bindLoaded c n l t s)) := rfl

/-- The bind values of a core (R14). -/
structure Bound (n : Nat) (l : Launch) (t : Nat) (k : CoreSt) : Prop where
  run : k.run = .running
  ctx : k.ctx = l.ctx
  launch : k.launch = some n
  stg : k.stg = BitVec.ofNat 3 t
  wfw : k.wfw = l.wfw
  sfi : k.sfi = l.sfi
  cyc : k.cyc = 0
  r : ∃ e, k.r = { Regs.init with pc := (l.stages[t]?.map (·.entry)).getD 0, entryOk := e }
  tok : ∀ x, k.tokPending x = false
  loads : k.loads = []
  wst : k.wst = []

theorem bindLoaded_me (c : CoreId) (n : Nat) (l : Launch) (t : Nat) (s : State) : Bound n l t ((bindLoaded c n l t s).core.get c) := by
  unfold bindLoaded
  dsimp only
  generalize (if ((accrue l.que s).core.get c).ctx = l.ctx then accrue l.que s else zeroCore c (accrue l.que s)) = s2
  have h1 : (bindRegs c n l t s2).core.get c = _ := State.modC_get s2 c _
  have h2 : (loadImage c l t (bindRegs c n l t s2)).core.get c = _ :=
    State.modC_get { bindRegs c n l t s2 with free := (bindRegs c n l t s2).free + 1 } c _
  have htok : ((loadImage c l t (bindRegs c n l t s2)).core.get c).tok = (s2.core.get c).tok.map fun x =>
      { x with pending := false, purged := false, src := 0 } := (congrArg CoreSt.tok h2).trans (congrArg CoreSt.tok h1)
  have hr1 : ((bindRegs c n l t s2).core.get c).r = { Regs.init with pc := (l.stages[t]?.map (·.entry)).getD 0 } :=
    (congrArg CoreSt.r h1 :)
  obtain ⟨e, hr2⟩ : ∃ e, ((loadImage c l t (bindRegs c n l t s2)).core.get c).r = { ((bindRegs c n l t s2).core.get c).r with entryOk := e } :=
    ⟨_, (congrArg CoreSt.r h2 :)⟩
  refine ⟨(congrArg CoreSt.run h2).trans (congrArg CoreSt.run h1), (congrArg CoreSt.ctx h2).trans (congrArg CoreSt.ctx h1),
    (congrArg CoreSt.launch h2).trans (congrArg CoreSt.launch h1), (congrArg CoreSt.stg h2).trans (congrArg CoreSt.stg h1),
    (congrArg CoreSt.wfw h2).trans (congrArg CoreSt.wfw h1), (congrArg CoreSt.sfi h2).trans (congrArg CoreSt.sfi h1),
    (congrArg CoreSt.cyc h2).trans (congrArg CoreSt.cyc h1), ⟨e, by rw [hr2, hr1]⟩, fun x => ?_, (congrArg CoreSt.loads h2).trans (congrArg CoreSt.loads h1),
    (congrArg CoreSt.wst h2).trans (congrArg CoreSt.wst h1)⟩
  unfold CoreSt.tokPending
  rw [htok, Vector.getElem_map, Bool.and_false]

/-- Storage with that of a core zeroed (R14). -/
def zeroedCore (c : CoreId) (m : List Host.Cell) : List Host.Cell :=
  memZero (memZero (memZero (memZero m (padKey c 0) (padKey c 0x200000)) (colKey c 0 0) (colKey c 128 0)) (latKey c 0 0 0) (latKey c 8 0 0))
    (accKey c 0 0 0) (accKey c 4 0 0)

theorem cleanRange_frame (lo hi : Nat) (s : State) : (cleanRange lo hi s).isl = s.isl ∧ (cleanRange lo hi s).agenda = s.agenda ∧
    (cleanRange lo hi s).tick = s.tick ∧ (cleanRange lo hi s).dev.cx = s.dev.cx ∧ (cleanRange lo hi s).dev.pool = s.dev.pool ∧
    (cleanRange lo hi s).dev.barr = s.dev.barr ∧ (cleanRange lo hi s).dev.prod = s.dev.prod ∧ (cleanRange lo hi s).core = s.core ∧
    (cleanRange lo hi s).mem = s.mem := ⟨rfl, rfl, rfl, rfl, rfl, rfl, rfl, rfl, rfl⟩

theorem zeroCore_frame (c : CoreId) (s : State) : (zeroCore c s).isl = s.isl ∧ (zeroCore c s).agenda = s.agenda ∧
    (zeroCore c s).tick = s.tick ∧ (zeroCore c s).dev.cx = s.dev.cx ∧ (zeroCore c s).dev.pool = s.dev.pool ∧
    (zeroCore c s).dev.barr = s.dev.barr ∧ (zeroCore c s).dev.prod = s.dev.prod ∧ (zeroCore c s).core = s.core ∧
    (zeroCore c s).mem = zeroedCore c s.mem := by
  have hclean (l : List (Nat × Nat)) (u : State) : let v := l.foldl (fun v e => cleanRange e.1 e.2 v) u
      v.isl = u.isl ∧ v.agenda = u.agenda ∧ v.tick = u.tick ∧ v.dev.cx = u.dev.cx ∧ v.dev.pool = u.dev.pool ∧ v.dev.barr = u.dev.barr ∧
      v.dev.prod = u.dev.prod ∧ v.core = u.core ∧ v.mem = u.mem := by
    induction l generalizing u with
    | nil => exact ⟨rfl, rfl, rfl, rfl, rfl, rfl, rfl, rfl, rfl⟩
    | cons e l ih =>
      obtain ⟨h1, h2, h3, h4, h5, h6, h7, h8, h9⟩ := ih (cleanRange e.1 e.2 u)
      exact ⟨h1, h2, h3, h4, h5, h6, h7, h8, h9⟩
  have hz : zeroCore c s = [(padKey c 0, padKey c 0x200000), (colKey c 0 0, colKey c 128 0), (latKey c 0 0 0, latKey c 8 0 0),
      (accKey c 0 0 0, accKey c 4 0 0)].foldl (fun v e => cleanRange e.1 e.2 v) { s with mem := zeroedCore c s.mem } := by
    unfold zeroCore zeroedCore
    rfl
  rw [hz]
  generalize zeroedCore c s.mem = m
  exact hclean _ { s with mem := m }

theorem loadImage_frame (c : CoreId) (l : Launch) (t : Nat) (s : State) : (loadImage c l t s).isl = s.isl ∧
    (loadImage c l t s).agenda = s.agenda ∧ (loadImage c l t s).tick = s.tick ∧ (loadImage c l t s).dev = s.dev ∧
    (loadImage c l t s).mem = s.mem ∧ ∀ d, d ≠ c → (loadImage c l t s).core.get d = s.core.get d :=
  ⟨rfl, rfl, rfl, rfl, rfl, fun _ hd => State.modC_get_ne { s with free := s.free + 1 } _ hd⟩

theorem bindRegs_frame (c : CoreId) (n : Nat) (l : Launch) (t : Nat) (s : State) : (bindRegs c n l t s).isl = s.isl ∧
    (bindRegs c n l t s).agenda = s.agenda ∧ (bindRegs c n l t s).tick = s.tick ∧ (bindRegs c n l t s).dev = s.dev ∧
    (bindRegs c n l t s).mem = s.mem ∧ ∀ d, d ≠ c → (bindRegs c n l t s).core.get d = s.core.get d :=
  ⟨rfl, rfl, rfl, rfl, rfl, fun _ hd => State.modC_get_ne s _ hd⟩

/-- What the load of a core leaves, and which storage it zeroes. -/
theorem bindLoaded_frame (c : CoreId) (n : Nat) (l : Launch) (t : Nat) (s : State) :
    let u := bindLoaded c n l t s
    u.isl = s.isl ∧ u.agenda = s.agenda ∧ u.tick = s.tick ∧ u.dev.cx = s.dev.cx ∧ u.dev.pool = s.dev.pool ∧ u.dev.barr = s.dev.barr ∧
    u.dev.prod = s.dev.prod ∧ (∀ d, d ≠ c → u.core.get d = s.core.get d) ∧
    u.mem = if (s.core.get c).ctx = l.ctx then s.mem else zeroedCore c s.mem := by
  intro u
  let s2 := if (s.core.get c).ctx = l.ctx then accrue l.que s else zeroCore c (accrue l.que s)
  have h2 : s2.isl = s.isl ∧ s2.agenda = s.agenda ∧ s2.tick = s.tick ∧ s2.dev.cx = s.dev.cx ∧ s2.dev.pool = s.dev.pool ∧
      s2.dev.barr = s.dev.barr ∧ s2.dev.prod = s.dev.prod ∧ s2.core = s.core ∧
      s2.mem = if (s.core.get c).ctx = l.ctx then s.mem else zeroedCore c s.mem := by
    by_cases hctx : (s.core.get c).ctx = l.ctx
    · have hs2 : s2 = accrue l.que s := if_pos hctx
      rw [hs2, if_pos hctx]
      exact ⟨rfl, rfl, rfl, rfl, rfl, rfl, rfl, rfl, rfl⟩
    · have hs2 : s2 = zeroCore c (accrue l.que s) := if_neg hctx
      rw [hs2, if_neg hctx]
      exact zeroCore_frame c (accrue l.que s)
  obtain ⟨hisl, hagenda, htick, hcx, hpool, hbarr, hprod, hcore, hmem⟩ := h2
  obtain ⟨ri, ra, rt, rd, rm, rc⟩ := bindRegs_frame c n l t s2
  obtain ⟨li, la, lt, ld, lm, lc⟩ := loadImage_frame c l t (bindRegs c n l t s2)
  have hu : u = loadImage c l t (bindRegs c n l t s2) := rfl
  rw [hu, li, la, lt, ld, lm, ri, ra, rt, rd, rm]
  exact ⟨hisl, hagenda, htick, hcx, hpool, hbarr, hprod, fun d hd => by rw [lc d hd, rc d hd, hcore], hmem⟩

/-- The storage of a core that another context had (R14). -/
theorem memRd_zeroedCore (c : CoreId) (m0 : List Host.Cell) :
    let m := zeroedCore c m0
    (∀ a, a < 0x200000 → memRd m (padKey c a) = 0) ∧ (∀ j o, j < 128 → o < 0x8000 → memRd m (colKey c j o) = 0) ∧
    (∀ x i b, x < 8 → i < 128 → b < 256 → memRd m (latKey c x i b) = 0) ∧
    ∀ a i j b, a < 4 → i < 128 → j < 128 → b < 4 → memRd m (accKey c a i j + b) = 0 := by
  intro m
  have hm (k : Nat) (h : (padKey c 0 ≤ k ∧ k < padKey c 0x200000) ∨ (colKey c 0 0 ≤ k ∧ k < colKey c 128 0) ∨
      (latKey c 0 0 0 ≤ k ∧ k < latKey c 8 0 0) ∨ (accKey c 0 0 0 ≤ k ∧ k < accKey c 4 0 0)) : memRd m k = 0 := by
    show memRd (zeroedCore c m0) k = 0
    rw [zeroedCore, memRd_memZero, memRd_memZero, memRd_memZero, memRd_memZero]
    split
    · rfl
    · split
      · rfl
      · split
        · rfl
        · split
          · rfl
          · omega
  refine ⟨fun a ha => hm _ (.inl ?_), fun j o hj ho => hm _ (.inr (.inl ?_)), fun x i b hx hi hb => hm _ (.inr (.inr (.inl ?_))),
    fun a i j b ha hi hj hb => hm _ (.inr (.inr (.inr ?_)))⟩
  · unfold padKey
    omega
  · unfold colKey
    omega
  · unfold latKey
    omega
  · unfold accKey
    omega

theorem stageFor_lt {s : State} {n : Nat} {l : Launch} {c : CoreId} {t : Nat} (h : stageFor s n l c = some t) : t < l.stages.length := by
  have hbest (f : Option Nat → Nat → Option Nat) (hf : ∀ b t u, f b t = some u → u = t ∨ b = some u) (ts : List Nat) (b : Option Nat)
      (hb : ∀ u, b = some u → u < l.stages.length) (hts : ∀ t ∈ ts, t < l.stages.length) (u : Nat) (h : ts.foldl f b = some u) :
      u < l.stages.length := by
    induction ts generalizing b with
    | nil => exact hb u h
    | cons t ts ih =>
      refine ih (f b t) (fun v hv => ?_) (fun x hx => hts x (List.mem_cons_of_mem _ hx)) h
      rcases hf b t v hv with rfl | hv
      · exact hts _ List.mem_cons_self
      · exact hb v hv
  have hts (p : Nat → Bool) : ∀ t ∈ (List.range l.stages.length).filter p, t < l.stages.length := fun t ht =>
    List.mem_range.1 (List.mem_of_mem_filter ht)
  have hite {p : Prop} [Decidable p] {a b : Option Nat} {u : Nat} (h : (if p then a else b) = some u) : a = some u ∨ b = some u := by
    split at h
    · exact .inl h
    · exact .inr h
  unfold stageFor at h
  dsimp only at h
  split at h
  next u hu =>
    rw [← Option.some.inj h]
    exact hts _ _ (List.mem_of_find?_eq_some hu)
  · split at h
    next u hu =>
      rw [← Option.some.inj h]
      exact hts _ _ (List.mem_of_find?_eq_some hu)
    · refine hbest _ (fun b t u hu => ?_) _ none (fun u hu => nomatch hu) (hts _) t h
      cases b with
      | none => exact .inl ((hite hu).elim (fun h => (Option.some.inj h).symm) fun h => nomatch h)
      | some v => exact (hite hu).imp (fun h => (Option.some.inj h).symm) id

/-- A bind of a stage without a saved state. -/
theorem bindRestored_fresh {c : CoreId} {n : Nat} {l : Launch} {t : Nat} {s : State} (h : savedAt s n l t = none) :
    bindRestored c n l t (bindLoaded c n l t s) = bindLoaded c n l t s := by
  obtain ⟨-, -, -, hcx, -⟩ := bindLoaded_frame c n l t s
  have hslots : ((bindLoaded c n l t s).ctxOf l.ctx).slots = (s.ctxOf l.ctx).slots := by
    unfold State.ctxOf
    rw [hcx]
  unfold savedAt at h
  unfold bindRestored
  rw [hslots, Option.map_eq_none_iff.1 h]

theorem rawP_init (e : BitVec 256) (pc : W64) (i : BitVec 4) :
    ({ Regs.init with pc := pc, entryOk := e } : Regs).rawP i = if i = 0 then BitVec.allOnes 64 else 0 := by
  unfold Regs.rawP
  by_cases hi : i = 0
  · rw [if_pos hi, if_pos hi]
  · have hne : (0 : Nat) ≠ i.toNat := fun h => hi (BitVec.eq_of_toNat_eq h.symm)
    rw [if_neg hi, if_neg hi]
    show ((Vector.replicate 16 (0 : W64)).set 0 (BitVec.allOnes 64))[i.toNat] = 0
    rw [Vector.getElem_set_ne _ _ hne, Vector.getElem_replicate]

/-- What a bind does to storage. -/
theorem bind_mem {s t : State} {c : CoreId} {l : Launch}
    (h : t.mem = if (s.core.get c).ctx = l.ctx then s.mem else zeroedCore c s.mem) :
    ((s.core.get c).ctx = l.ctx → t.mem = s.mem) ∧
    ((s.core.get c).ctx ≠ l.ctx → (∀ a, a < 0x200000 → memRd t.mem (padKey c a) = 0) ∧
      (∀ j o, j < 128 → o < 0x8000 → memRd t.mem (colKey c j o) = 0) ∧
      (∀ x i b, x < 8 → i < 128 → b < 256 → memRd t.mem (latKey c x i b) = 0) ∧
      ∀ a i j, a < 4 → i < 128 → j < 128 → accRd t c a i j = 0) := by
  refine ⟨fun hc => h.trans (if_pos hc), fun hc => ?_⟩
  obtain ⟨hpad, hcol, hlat, hacc⟩ := memRd_zeroedCore c s.mem
  rw [h, if_neg hc]
  refine ⟨hpad, hcol, hlat, fun a i j ha hi hj => ?_⟩
  rw [accRd, h, if_neg hc]
  exact memRdN_zero _ _ _ fun b hb => hacc a i j b ha hi hj hb

/-- BIND (R13, R14, R330). -/
theorem bind_binds {s : State} {l : Launch} (hpool : tfind s.dev.pool s.arg.n = some l) (hst : l.st = .running)
    (hfree : freeCore s s.arg.c = true) (hk : s.arg.k < 8) (hstage : stageFor s s.arg.n l s.arg.c = some s.arg.k)
    (hsaved : savedAt s s.arg.n l s.arg.k = none) :
    let c := s.arg.c
    ∃ t, exec .bind s = .next (dispatch t) ∧
      let k := t.core.get c
      k.run = .running ∧ k.ctx = l.ctx ∧ k.launch = some s.arg.n ∧ k.stg.toNat = s.arg.k ∧ k.wfw = l.wfw ∧ k.sfi = l.sfi ∧ k.cyc = 0 ∧
      k.r.s = .replicate 64 0 ∧ k.r.va = .replicate 32 0 ∧ k.r.vb = .replicate 32 0 ∧ (∀ i, k.r.rawP i = if i = 0 then BitVec.allOnes 64 else 0) ∧
      k.r.m = .replicate 8 0 ∧ k.r.n = .replicate 16 0 ∧ k.r.scale = .replicate 16 128 ∧
      k.r = { Regs.init with pc := k.r.pc, entryOk := k.r.entryOk } ∧ k.r.mode = .idle ∧ k.r.held = none ∧ k.r.fst = 0 ∧
      some k.r.pc = l.stages[s.arg.k]?.map (·.entry) ∧ k.ck = k.r ∧ k.div = effDiv t c ∧ (∀ x, k.tokPending x = false) ∧
      k.loads = [] ∧ k.wst = [] ∧ t.has (.edge c) = true ∧ k.base % 4 = 0 ∧ s.tick ≤ k.base ∧
      (s.has (.edge c) = false → ∃ e ∈ t.agenda, e.due = .edge c ∧ e.at_ = k.base) ∧
      (traceOn s c 14 = false → ((s.core.get c).ctx = l.ctx → t.mem = s.mem) ∧
        ((s.core.get c).ctx ≠ l.ctx → (∀ a, a < 0x200000 → memRd t.mem (padKey c a) = 0) ∧
          (∀ j o, j < 128 → o < 0x8000 → memRd t.mem (colKey c j o) = 0) ∧
          (∀ x i b, x < 8 → i < 128 → b < 256 → memRd t.mem (latKey c x i b) = 0) ∧
          ∀ a i j, a < 4 → i < 128 → j < 128 → accRd t c a i j = 0)) := by
  intro c
  let u := bindLoaded c s.arg.n l s.arg.k s
  let t := bindIssue c l ((queueKey s l.que).1 == 1) (loadUnits u s.arg.n l s.arg.k) u
  have hx : exec .bind s = .next (dispatch t) := by
    have hcore : bindCore c s.arg.n l s.arg.k s = t := by rw [bindCore_eq, bindRestored_fresh hsaved]
    rw [← hcore]
    show execBind s = _
    unfold execBind
    dsimp only
    rw [hpool]
    exact if_pos ⟨hst, hfree, hstage⟩
  obtain ⟨hb, hctx, hlaunch, hstg, hwfw, hsfi, hcyc, ⟨e, hr⟩, htok, hloads, hwst⟩ := bindLoaded_me c s.arg.n l s.arg.k s
  obtain ⟨hisl, hagenda, htick, -, -, -, -, -, hmem⟩ := bindLoaded_frame c s.arg.n l s.arg.k s
  obtain ⟨⟨tlb, ifb, m, o, w, q, x, hx4, hxt, hme, hnew⟩, -, -, -, -, -, htmem, -, hhas, -⟩ :=
    bindIssue_spec c l ((queueKey s l.que).1 == 1) (loadUnits u s.arg.n l s.arg.k) u
  have hpc : some ((l.stages[s.arg.k]?.map (·.entry)).getD 0) = l.stages[s.arg.k]?.map (·.entry) := by
    rw [List.getElem?_eq_getElem (stageFor_lt hstage)]
    rfl
  have hedge : u.has (.edge c) = s.has (.edge c) := has_congr hagenda _
  refine ⟨t, hx, ?_⟩
  have hkr : (t.core.get c).r = { Regs.init with pc := (l.stages[s.arg.k]?.map (·.entry)).getD 0, entryOk := e } := by
    rw [hme]
    exact hr
  have hbase : (t.core.get c).base = x := by rw [hme]
  intro k
  have hk' : k = t.core.get c := rfl
  rw [← hk'] at hkr hbase hme
  clear_value k
  refine ⟨by rw [hme]; exact hb, by rw [hme]; exact hctx, by rw [hme]; exact hlaunch, ?_, by rw [hme]; exact hwfw, by rw [hme]; exact hsfi,
    by rw [hme]; exact hcyc, by rw [hkr]; rfl, by rw [hkr]; rfl, by rw [hkr]; rfl, fun i => ?_, by rw [hkr]; rfl, by rw [hkr]; rfl,
    by rw [hkr]; rfl, by rw [hkr], by rw [hkr]; rfl, by rw [hkr]; rfl, by rw [hkr]; rfl, ?_, by rw [hme], by rw [hme], ?_,
    by rw [hme]; exact hloads, by rw [hme]; exact hwst, hhas, by rw [hbase]; exact hx4, by rw [hbase]; exact htick ▸ hxt, fun hn => ?_, fun hoff => ?_⟩
  · rw [hme]
    show ((u.core.get c).stg).toNat = s.arg.k
    rw [hstg, BitVec.toNat_ofNat]
    exact Nat.mod_eq_of_lt hk
  · rw [hkr]
    exact rawP_init _ _ i
  · rw [hkr]
    exact hpc
  · intro y
    rw [hme]
    exact htok y
  · rw [hbase]
    exact hnew (hedge.trans hn)
  · exact bind_mem ((htmem ((traceOn_congr hisl c 14).trans hoff)).trans hmem)

/-! Initial items (R322). -/

theorem nextInitial_word {s : State} {l : Launch} (h : l.lst = false) : nextInitial s l = some (l.itm + BitVec.ofNat 64 l.fed) := by
  unfold nextInitial
  rw [h]
  rfl

theorem modStage_fed (l : Launch) (t : Nat) (f : StageSt → StageSt) : (l.modStage t f).fed = l.fed := by
  unfold Launch.modStage
  split <;> rfl

theorem modStage_head {l : Launch} {x : StageSt} {rest : List StageSt} {f : StageSt → StageSt} (h : l.stages = x :: rest) :
    (l.modStage 0 f).stages = f x :: rest := by
  unfold Launch.modStage
  rw [h]
  rfl

/-- INITIAL_ITEM_APPEND with room in stage 0's queue. -/
theorem appendInitial_appends {s : State} {n : Nat} {l : Launch} {x : StageSt} {rest : List StageSt} (hpool : tfind s.dev.pool n = some l)
    (hstages : l.stages = x :: rest) (hlst : l.lst = false) (hpurge : purgeBlock s l.ctx l.pen = false) (hst : l.st = .running)
    (hfed : l.fed < l.nit) (hroom : x.occ < x.cap) : ∃ m, tfind (appendInitial n s).dev.pool n = some m ∧ m.fed = l.fed + 1 ∧
      m.stages = { x with q := x.q ++ [⟨l.itm + BitVec.ofNat 64 l.fed, l.pen, []⟩] } :: rest ∧ (appendInitial n s).mem = s.mem ∧
      (appendInitial n s).core = s.core := by
  have happ : appendInitial n s = s.modL n fun y => Launch.modStage { y with fed := y.fed + 1 } 0 fun x =>
      { x with q := x.q ++ [⟨l.itm + BitVec.ofNat 64 l.fed, y.pen, []⟩] } := by
    have hhead : (l.stages.head?.any fun x => decide (x.occ < x.cap)) = true := by
      rw [hstages]
      exact decide_eq_true hroom
    unfold appendInitial
    rw [hpool]
    dsimp only
    rw [hhead, if_neg (by rintro (h | h | h); exacts [h hst, absurd hfed (Nat.not_lt.2 h), absurd h (by decide)]), nextInitial_word hlst,
      hpurge]
    exact if_neg Bool.false_ne_true
  have hget := launch?_modL_self s n fun y => Launch.modStage { y with fed := y.fed + 1 } 0 fun x =>
      { x with q := x.q ++ [⟨l.itm + BitVec.ofNat 64 l.fed, y.pen, []⟩] }
  rw [happ]
  refine ⟨_, hget.trans (congrArg (Option.map _) hpool), ?_, ?_, modL_mem .., modL_core ..⟩
  · exact modStage_fed ..
  · exact modStage_head hstages

theorem appendInitial_waits {s : State} {n : Nat} {l : Launch} {x : StageSt} {rest : List StageSt} (hpool : tfind s.dev.pool n = some l)
    (hstages : l.stages = x :: rest) (h : l.st ≠ .running ∨ l.nit ≤ l.fed ∨ x.cap ≤ x.occ) : appendInitial n s = s := by
  have hhead : (l.stages.head?.any fun x => decide (x.occ < x.cap)) = decide (x.occ < x.cap) := by rw [hstages]; rfl
  unfold appendInitial
  rw [hpool]
  dsimp only
  rw [hhead]
  refine if_pos (h.imp_right (Or.imp_right fun h => ?_))
  rw [decide_eq_false (Nat.not_lt.2 h)]
  rfl

/-- Settles O50: a bind by the registers, storage and image parts that it loads and the first edge that it sets, and initial items by
their append to stage 0's queue. -/
theorem bindSteps : Obligations.BindSteps := by
  unfold Obligations.BindSteps
  refine ⟨fun s l hpool hst hfree hk hstage hsaved => bind_binds hpool hst hfree hk hstage hsaved,
    fun s l x rest hpool hstages hlst hpurge => ⟨fun hst hfed hroom => ?_, fun h => ?_⟩⟩
  · obtain ⟨m, hm, hf, hs, hmem, hcore⟩ := appendInitial_appends hpool hstages hlst hpurge hst hfed hroom
    exact ⟨_, m, rfl, hm, hf, hs, hmem, hcore⟩
  · show execInitialItemAppend s = _
    unfold execInitialItemAppend
    rw [appendInitial_waits hpool hstages h]

end Sys2Proof.Machine
end

section
/-! O49: host launches and the start of a launch (R319, R320, R322, R325, R326, R328). -/

namespace Sys2Proof.Machine

/-! The launch window (R319, R320). -/

theorem takeRecord_frame (r depth : Nat) (host : Bool) (issuer : Option (BitVec 7)) (s : State) :
    (takeRecord r depth host issuer s).2.mem = s.mem ∧ (takeRecord r depth host issuer s).2.tick = s.tick := by
  have hhals (cx : BitVec 7) (stw : Nat) (hs : List HalDef) (u : State) :
      (createHals cx stw hs u).mem = u.mem ∧ (createHals cx stw hs u).tick = u.tick := by
    unfold createHals
    exact ⟨foldl_keeps State.mem (fun _ _ => by rfl) hs u, foldl_keeps State.tick (fun _ _ => by rfl) hs u⟩
  unfold takeRecord
  split
  · exact ⟨rfl, rfl⟩
  · split
    · exact ⟨rfl, rfl⟩
    · split
      · exact ⟨rfl, rfl⟩
      · split
        · exact ⟨rfl, rfl⟩
        · exact hhals ..

section
variable (s : State)

/-- A trigger that a record is being read for already collides (R320). -/
theorem hostLaunchTrigger_collides {w : W64} (h : tfind s.dev.parsing (s.arg.k % 256 * 16 + s.arg.m % 16) = some w) :
    exec .hostLaunchTrigger s = .next (s.modD fun d => { d with collide := d.collide + 1 }) := by
  show execHostLaunchTrigger s = _
  unfold execHostLaunchTrigger
  dsimp only
  rw [h]
  rfl

/-- Storage with 0x5A in the GO byte of a slot. -/
def triggered : State := { s with mem := memWr s.mem (slotKey (s.arg.k % 256) (s.arg.m % 16) + 255) 0x5A }

theorem hostLaunchTrigger_idle (h : tfind s.dev.parsing (s.arg.k % 256 * 16 + s.arg.m % 16) = none) (hw : s.dev.lwb.getLsbD 0 = false) :
    exec .hostLaunchTrigger s = .next (triggered s) := by
  show execHostLaunchTrigger s = _
  unfold execHostLaunchTrigger
  dsimp only
  rw [h, hw]
  rfl

theorem hostLaunchTrigger_reads (h : tfind s.dev.parsing (s.arg.k % 256 * 16 + s.arg.m % 16) = none) (hw : s.dev.lwb.getLsbD 0 = true) :
    ∃ t, exec .hostLaunchTrigger s = .next (dispatch t) ∧ t.mem = (triggered s).mem ∧
      tfind t.dev.parsing (s.arg.k % 256 * 16 + s.arg.m % 16) = some
        (takeRecord (memRdN (triggered s).mem (slotKey (s.arg.k % 256) (s.arg.m % 16)) 256) 0 true none (triggered s)).1 ∧
      ∃ e ∈ t.agenda, e.due = .ev .launchStatusWrite { Arg.zero with k := s.arg.k % 256, m := s.arg.m % 16 } ∧ s.tick < e.at_ ∧
        e.at_ ≤ s.tick + 4 * Config.usTicks := by
  obtain ⟨r, hr⟩ : ∃ r, r = memRdN (triggered s).mem (slotKey (s.arg.k % 256) (s.arg.m % 16)) 256 := ⟨_, rfl⟩
  let u := takeRecord r 0 true none (triggered s)
  let n := u.2.pick.1
  let s4 := u.2.pick.2.modD fun d => { d with parsing := tset d.parsing (s.arg.k % 256 * 16 + s.arg.m % 16) u.1 }
  let a : Arg := { Arg.zero with k := s.arg.k % 256, m := s.arg.m % 16 }
  have hx : exec .hostLaunchTrigger s = .next (dispatch (s4.after (n % (4 * Config.usTicks) + 1) (.ev .launchStatusWrite a))) := by
    show execHostLaunchTrigger s = _
    unfold execHostLaunchTrigger
    dsimp only
    rw [h, hw]
    unfold triggered at hr
    dsimp only at hr
    rw [← hr] <;> rfl
  obtain ⟨hm, ht⟩ : u.2.mem = (triggered s).mem ∧ u.2.tick = (triggered s).tick := takeRecord_frame r 0 true none (triggered s)
  rw [← hr]
  have htick : s4.tick = s.tick := ht
  have hn : n % (4 * Config.usTicks) < 4 * Config.usTicks := Nat.mod_lt _ (by decide)
  have hparse : tfind s4.dev.parsing (s.arg.k % 256 * 16 + s.arg.m % 16) = some u.1 := tfind_tset_self _ _ _
  generalize n % (4 * Config.usTicks) = m at hx hn
  generalize 4 * Config.usTicks = bound at hn ⊢
  refine ⟨_, hx, hm, hparse, ⟨s4.tick + (m + 1), rankOf s4 (.ev .launchStatusWrite a), .ev .launchStatusWrite a⟩,
    mem_after_agenda s4 _ _, rfl, ?_⟩
  dsimp only
  omega

theorem launchStatusWrite_writes {w : W64} (h : tfind s.dev.parsing (s.arg.k % 256 * 16 + s.arg.m % 16) = some w) :
    let k := slotKey (s.arg.k % 256) (s.arg.m % 16)
    ∃ t, exec .launchStatusWrite s = .next t ∧ memRdN t.mem (k + 0xF0) 8 = w.toNat ∧ memRd t.mem (k + 255) = 0 ∧
      tfind t.dev.parsing (s.arg.k % 256 * 16 + s.arg.m % 16) = none ∧ t.core = s.core ∧
      ∀ a, (a < k + 0xF0 ∨ k + 255 < a ∨ (k + 0xF7 < a ∧ a < k + 255)) → memRd t.mem a = memRd s.mem a := by
  intro k
  obtain ⟨t, hx, hmem, hparsing, hcore⟩ : ∃ t, exec .launchStatusWrite s = .next t ∧
      t.mem = memWr (memWrs s.mem (cellsOf (k + 0xF0) w.toNat 8)) (k + 255) 0 ∧
      t.dev.parsing = tdel s.dev.parsing (s.arg.k % 256 * 16 + s.arg.m % 16) ∧ t.core = s.core := by
    let q := s.arg.k % 256
    let irq := (memRd s.mem (slotKey q (s.arg.m % 16) + 0x26)).getLsbD 1 && (s.dev.sq.toList.getD q SchedQ.init).irq
    have hx : exec .launchStatusWrite s = .next (State.modD { s with
        mem := memWr (memWrs s.mem (cellsOf (k + 0xF0) w.toNat 8)) (k + 255) 0 } fun d =>
          { d with parsing := tdel d.parsing (q * 16 + s.arg.m % 16), msix := if irq then d.msix ++ [BitVec.ofNat 8 q] else d.msix }) := by
      show execLaunchStatusWrite s = _
      unfold execLaunchStatusWrite
      dsimp only
      rw [h]
    exact ⟨_, hx, rfl, rfl, rfl⟩
  clear_value k
  refine ⟨t, hx, ?_, ?_, ?_, hcore, fun a ha => ?_⟩
  · rw [hmem, memRdN_congr _ (memWrs s.mem (cellsOf (k + 0xF0) w.toNat 8)), memRdN_cellsOf]
    · exact Nat.mod_eq_of_lt w.isLt
    · intro a hl hu
      exact memRd_memWr_ne _ _ (by omega)
  · rw [hmem, memRd_memWr_self]
  · rw [hparsing, tfind_tdel_self]
  · rw [hmem, memRd_memWr_ne _ _ (by omega), memRd_memWrs_ne]
    intro c hc
    have := mem_cellsOf _ _ _ _ hc
    omega

theorem launchStatusWrite_idle (h : tfind s.dev.parsing (s.arg.k % 256 * 16 + s.arg.m % 16) = none) :
    exec .launchStatusWrite s = .next s := by
  show execLaunchStatusWrite s = _
  unfold execLaunchStatusWrite
  dsimp only
  rw [h]

end

/-! The cores of a launch that starts (R328). -/

/-- The plan of a launch that starts gives a core once. -/
theorem startPlan_nodup (l : Launch) (ok : CoreId → Bool) : ((startPlan l ok).1.map (·.1)).Nodup := by
  have hstep (f : List (CoreId × Nat) × List (Nat × Nat) → CoreId → List (CoreId × Nat) × List (Nat × Nat))
      (hf : ∀ a c, (f a c).1 = a.1 ∨ ∃ t, (f a c).1 = a.1 ++ [(c, t)]) (cs : List CoreId) (hcs : cs.Nodup)
      (a : List (CoreId × Nat) × List (Nat × Nat)) (ha : (a.1.map (·.1)).Nodup) (hd : ∀ c ∈ cs, c ∉ a.1.map (·.1)) :
      ((cs.foldl f a).1.map (·.1)).Nodup := by
    induction cs generalizing a with
    | nil => exact ha
    | cons c cs ih =>
      obtain ⟨hc, hcs⟩ := List.nodup_cons.1 hcs
      have hfree := hd c List.mem_cons_self
      rcases hf a c with h | ⟨t, h⟩
      · exact ih hcs _ (by rw [h]; exact ha) fun d hdc => by rw [h]; exact hd d (List.mem_cons_of_mem _ hdc)
      · have hmap : (f a c).1.map (·.1) = a.1.map (·.1) ++ [c] := by rw [h, List.map_append]; rfl
        refine ih hcs _ ?_ fun d hdc => ?_
        · rw [hmap]
          exact List.nodup_append.2 ⟨ha, List.nodup_singleton c, fun x hx y hy => by
            rw [List.mem_singleton.1 hy]
            exact fun he => hfree (he ▸ hx)⟩
        · rw [hmap, List.mem_append, List.mem_singleton]
          rintro (hx | rfl)
          · exact hd d (List.mem_cons_of_mem _ hdc) hx
          · exact hc hdc
  unfold startPlan
  refine hstep _ (fun a c => ?_) coreIds coreIds_nodup _ List.nodup_nil fun c _ h => nomatch h
  dsimp only
  split
  · exact .inl rfl
  · split
    · exact .inl rfl
    · exact .inr ⟨_, rfl⟩

theorem startCores_nodup {s : State} {l : Launch} {cs : List (CoreId × Nat)} (h : startCores s l = some cs) : (cs.map (·.1)).Nodup := by
  unfold startCores at h
  dsimp only at h
  split at h
  · rw [← Option.some.inj h]
    exact startPlan_nodup l (openCore s l.que)
  · exact nomatch h

/-! What a bind leaves of the machine (R330). -/

/-- Launches, barriers, rounds and views are as before, and what edges were due are due. -/
structure Alongside (s t : State) : Prop where
  pool : t.dev.pool = s.dev.pool
  barr : t.dev.barr = s.dev.barr
  prod : t.dev.prod = s.dev.prod
  isl : ∀ y, (t.isl.get y).still = (s.isl.get y).still
  edges : ∀ d, s.has (.edge d) = true → t.has (.edge d) = true

namespace Alongside

theorem refl (s : State) : Alongside s s := ⟨rfl, rfl, rfl, fun _ => rfl, fun _ h => h⟩

theorem trans {s t u : State} (h : Alongside s t) (h' : Alongside t u) : Alongside s u :=
  ⟨h'.pool.trans h.pool, h'.barr.trans h.barr, h'.prod.trans h.prod, fun y => (h'.isl y).trans (h.isl y), fun d hd => h'.edges d (h.edges d hd)⟩

theorem foldl {α : Type} {f : State → α → State} (hf : ∀ (s : State) a, Alongside s (f s a)) (l : List α) (s : State) :
    Alongside s (l.foldl f s) := by
  induction l generalizing s with
  | nil => exact refl s
  | cons a l ih => exact (hf s a).trans (ih (f s a))

theorem of_eq {s t : State} (hp : t.dev.pool = s.dev.pool) (hb : t.dev.barr = s.dev.barr) (hr : t.dev.prod = s.dev.prod) (hi : t.isl = s.isl)
    (ha : t.agenda = s.agenda) : Alongside s t :=
  ⟨hp, hb, hr, fun y => by rw [hi], fun d hd => (has_congr ha _).trans hd⟩

theorem modD (s : State) {f : DevSt → DevSt} (hp : (f s.dev).pool = s.dev.pool) (hb : (f s.dev).barr = s.dev.barr)
    (hr : (f s.dev).prod = s.dev.prod) : Alongside s (s.modD f) :=
  ⟨hp, hb, hr, fun _ => rfl, fun _ h => h⟩

theorem of_quiet {s t : State} (h : Quiet s t) : Alongside s t := by
  refine ⟨h.pool, h.barr, h.prod, h.isl, fun d hd => ?_⟩
  obtain ⟨e, he, hdue⟩ := (has_iff s _).1 hd
  exact (has_iff t _).2 ⟨e, h.kept e he, hdue⟩

end Alongside

/-- The registers that say to what a core is bound. -/
def CoreSt.bond (k : CoreSt) := (k.run, k.launch, k.ctx, k.stg)

theorem flushRange_frame (lo hi : Nat) (s : State) : (flushRange lo hi s).core = s.core ∧ (flushRange lo hi s).dev = s.dev ∧
    (flushRange lo hi s).isl = s.isl ∧ (flushRange lo hi s).agenda = s.agenda := by
  unfold flushRange
  dsimp only
  refine ⟨foldl_keeps State.core (fun _ _ => by rfl) _ s, foldl_keeps State.dev (fun _ _ => by rfl) _ s,
    foldl_keeps State.isl (fun _ _ => by rfl) _ s, foldl_keeps State.agenda (fun _ _ => by rfl) _ s⟩

/-- Registers of a core out of the memory that holds its saved state (R363). -/
def restored (m : List Host.Cell) (b : Nat) (k : CoreSt) : CoreSt :=
  { k with
    r := loadRegs m b
    granted := BitVec.ofNat 2 (memRdN m (b + 8 * 99) 8)
    ring := Vector.ofFn fun i => if i.val = 0 then Ring.init else loadRing m (b + 0x5000 + 1088 * (i.val - 1))
    epi := BitVec.ofNat 64 (memRdN m (b + 0x9050) 8)
    check := Vector.ofFn fun i => loadCheck m (b + 0x9058 + 1040 * i.val)
    carry := Vector.ofFn fun i => loadCarry m (b + 0x9058 + 4160 + 528 * i.val)
    cks := Vector.ofFn fun i => BitVec.ofNat 64 (memRdN m (b + 0x9058 + 4160 + 2112 + 8 * i.val) 8)
    ustore := (List.range 1024).filterMap fun i =>
      let v := memRdN m (b + 0xC000 + 4 * i) 4; if v = 0 then none else some (i, BitVec.ofNat 32 v)
    uentry := (List.range 256).filterMap fun i =>
      let v := memRdN m (b + 0xD000 + 4 * i) 4; if v / 1024 % 2 = 1 then some (i, v % 1024) else none }

theorem restored_bond (m : List Host.Cell) (b : Nat) (k : CoreSt) : (restored m b k).bond = k.bond := by
  unfold restored CoreSt.bond
  exact Prod.ext rfl (Prod.ext rfl (Prod.ext rfl rfl))

/-- A saved state that a core takes (R363). -/
theorem restoreSlot_spec (c : CoreId) (i : Nat) (s : State) : Alongside s (restoreSlot c i s) ∧
    ((restoreSlot c i s).core.get c).bond = (s.core.get c).bond ∧ ∀ d, d ≠ c → (restoreSlot c i s).core.get d = s.core.get d := by
  have hmoves (m : List Host.Cell → Nat × Nat × Nat → List Host.Cell) (p : Tbl Nat → Nat × Nat × Nat → Tbl Nat) (l : List (Nat × Nat × Nat))
      (u : State) : let t := l.foldl (fun s a => { s with mem := m s.mem a, dev := { s.dev with poison := p s.dev.poison a } }) u
      Alongside u t ∧ t.core = u.core := by
    refine ⟨.foldl (fun s a => ?_) l u, foldl_keeps State.core (fun _ _ => by rfl) l u⟩
    exact .of_eq rfl rfl rfl rfl rfl
  let b := slotBase (s.ctxOf (s.core.get c).ctx) i
  let s1 := flushRange b (b + 0x800000) s
  let m := seenRange s1 (s1.ctxKey (s.core.get c).ctx) b (b + 0x800000)
  let s2 := (slotAreas c).foldl (fun s a => { s with
    mem := memWrs (memZero s.mem a.2.2 (a.2.2 + a.2.1)) (movedCells m (b + a.1) a.2.1 a.2.2)
    dev := { s.dev with poison := movedMarks s.dev.poison (b + a.1) a.2.1 a.2.2 s.dev.poison } }) s1
  have hr : restoreSlot c i s = s2.modC c (restored m b) := rfl
  obtain ⟨hcore, hdev, hisl, hagenda⟩ := flushRange_frame b (b + 0x800000) s
  obtain ⟨halong, hcore2⟩ : Alongside s1 s2 ∧ s2.core = s1.core := hmoves
    (fun x a => memWrs (memZero x a.2.2 (a.2.2 + a.2.1)) (movedCells m (b + a.1) a.2.1 a.2.2))
    (fun p a => movedMarks p (b + a.1) a.2.1 a.2.2 p) (slotAreas c) s1
  have h12 : Alongside s s2 := (Alongside.of_eq (congrArg _ hdev) (congrArg _ hdev) (congrArg _ hdev) hisl hagenda).trans halong
  rw [hr]
  refine ⟨h12.trans (.of_eq rfl rfl rfl rfl (State.modC_agenda s2 c _)), ?_, fun d hd => ?_⟩
  · rw [State.modC_get, restored_bond, hcore2, hcore]
  · rw [State.modC_get_ne s2 _ hd, hcore2, hcore]

theorem restoreMarks_spec (c : CoreId) (e : Saved) (s : State) : Alongside s (restoreMarks c e s) ∧
    ((restoreMarks c e s).core.get c).bond = (s.core.get c).bond ∧ ∀ d, d ≠ c → (restoreMarks c e s).core.get d = s.core.get d := by
  have hget := State.modC_get s c fun k =>
    { k with r := { k.r with poison := e.poison, scBad := e.scBad }, ubad := e.ubad, after := e.src.map fun x => (0, x) }
  exact ⟨.of_eq rfl rfl rfl rfl (State.modC_agenda s c _), (congrArg CoreSt.bond hget :), fun d hd => State.modC_get_ne s _ hd⟩

theorem bindRestored_spec (c : CoreId) (n : Nat) (l : Launch) (t : Nat) (s : State) : Alongside s (bindRestored c n l t s) ∧
    ((bindRestored c n l t s).core.get c).bond = (s.core.get c).bond ∧ ∀ d, d ≠ c → (bindRestored c n l t s).core.get d = s.core.get d := by
  unfold bindRestored
  split
  next e _ =>
    obtain ⟨halong, hme, hothers⟩ := restoreSlot_spec c e.slot s
    obtain ⟨hmarks, hme', hothers'⟩ := restoreMarks_spec c e (restoreSlot c e.slot s)
    exact ⟨(halong.trans hmarks).trans (.modD _ rfl rfl rfl), hme'.trans hme, fun d hd => (hothers' d hd).trans (hothers d hd)⟩
  next => exact ⟨.refl s, rfl, fun _ _ => rfl⟩

theorem alongside_bindLoaded (c : CoreId) (n : Nat) (l : Launch) (t : Nat) (s : State) : Alongside s (bindLoaded c n l t s) := by
  obtain ⟨hisl, hagenda, -, -, hpool, hbarr, hprod, -⟩ := bindLoaded_frame c n l t s
  exact .of_eq hpool hbarr hprod hisl hagenda

/-- A bind: the core runs for the stage with an edge to come, and the others stay as they were (R330). -/
theorem bindCore_spec (c : CoreId) (n : Nat) (l : Launch) (k : Nat) (s : State) :
    let t := bindCore c n l k s
    Alongside s t ∧ (t.core.get c).bond = (.running, some n, l.ctx, BitVec.ofNat 3 k) ∧ t.has (.edge c) = true ∧
    ∀ d, d ≠ c → (t.core.get d).bond = (s.core.get d).bond ∧ (t.core.get d).r = (s.core.get d).r := by
  intro t
  let u := bindLoaded c n l k s
  let v := bindRestored c n l k u
  have hb := bindLoaded_me c n l k s
  obtain ⟨-, -, -, -, -, -, -, hothers, -⟩ := bindLoaded_frame c n l k s
  obtain ⟨halong, hme, hrest⟩ := bindRestored_spec c n l k u
  obtain ⟨⟨_, _, _, _, _, _, _, -, -, hc, -⟩, hd', hpool, hbarr, hprod, -, -, hisl, hhas, hedges⟩ :=
    bindIssue_spec c l ((queueKey s l.que).1 == 1) (loadUnits u n l k) v
  have ht : t = bindIssue c l ((queueKey s l.que).1 == 1) (loadUnits u n l k) v := bindCore_eq c n l k s
  rw [← ht] at hc hd' hpool hbarr hprod hisl hhas hedges
  refine ⟨(alongside_bindLoaded c n l k s).trans (halong.trans ⟨hpool, hbarr, hprod, hisl, hedges⟩), ?_, hhas, fun d hd => ?_⟩
  · have hbond : (t.core.get c).bond = (v.core.get c).bond := by
      rw [hc]
      rfl
    rw [hbond, hme]
    unfold CoreSt.bond
    rw [hb.run, hb.launch, hb.ctx, hb.stg]
  · obtain ⟨_, _, h⟩ := hd' d hd
    rw [h, hrest d hd, hothers d hd]
    exact ⟨rfl, rfl⟩

/-- The binds of a launch that starts (R328). -/
theorem binds_spec (n : Nat) (l : Launch) (cs : List (CoreId × Nat)) (hcs : (cs.map (·.1)).Nodup) (s : State) :
    Alongside s (cs.foldl (fun s e => bindCore e.1 n l e.2 s) s) ∧
    (∀ e ∈ cs, ((cs.foldl (fun s e => bindCore e.1 n l e.2 s) s).core.get e.1).bond = (.running, some n, l.ctx, BitVec.ofNat 3 e.2) ∧
      (cs.foldl (fun s e => bindCore e.1 n l e.2 s) s).has (.edge e.1) = true) ∧
    ∀ d, d ∉ cs.map (·.1) → ((cs.foldl (fun s e => bindCore e.1 n l e.2 s) s).core.get d).bond = (s.core.get d).bond ∧
      ((cs.foldl (fun s e => bindCore e.1 n l e.2 s) s).core.get d).r = (s.core.get d).r := by
  induction cs generalizing s with
  | nil => exact ⟨.refl s, fun _ h => absurd h List.not_mem_nil, fun _ _ => ⟨rfl, rfl⟩⟩
  | cons e cs ih =>
    obtain ⟨he, hcs⟩ := List.nodup_cons.1 hcs
    obtain ⟨halong, hbond, hhas, hothers⟩ := bindCore_spec e.1 n l e.2 s
    obtain ⟨halong', hin, hout⟩ := ih hcs (bindCore e.1 n l e.2 s)
    rw [List.foldl_cons]
    generalize bindCore e.1 n l e.2 s = u at halong hbond hhas hothers halong' hin hout ⊢
    generalize cs.foldl (fun s e => bindCore e.1 n l e.2 s) u = v at halong' hin hout ⊢
    refine ⟨halong.trans halong', fun x hx => ?_, fun d hd => ?_⟩
    · rcases List.mem_cons.1 hx with rfl | hx
      · exact ⟨(hout _ he).1.trans hbond, halong'.edges _ hhas⟩
      · exact hin x hx
    · obtain ⟨hne, hd⟩ := not_or.1 (mt List.mem_cons.2 hd)
      obtain ⟨hb, hr⟩ := hout d hd
      obtain ⟨hb', hr'⟩ := hothers d hne
      exact ⟨hb.trans hb', hr.trans hr'⟩

/-! The must-save set and phase 0 of a launch that starts (R276, R277, R328, R372). -/

/-- Storage, keys and copies may be others; cores are not. -/
def KeepsCores (s t : State) : Prop := Alongside s t ∧ t.core = s.core

theorem KeepsCores.trans {s t u : State} (h : KeepsCores s t) (h' : KeepsCores t u) : KeepsCores s u :=
  ⟨h.1.trans h'.1, h'.2.trans h.2⟩

theorem KeepsCores.refl (s : State) : KeepsCores s s := ⟨.refl s, rfl⟩

theorem KeepsCores.foldl {α : Type} {f : State → α → State} (hf : ∀ (s : State) a, KeepsCores s (f s a)) (l : List α) (s : State) :
    KeepsCores s (l.foldl f s) := by
  induction l generalizing s with
  | nil => exact refl s
  | cons a l ih => exact (hf s a).trans (ih (f s a))

theorem keepsCores_markCells (cells : List Host.Cell) (s : State) : KeepsCores s (markCells cells none s) := by
  unfold markCells
  dsimp only
  split
  · exact .refl s
  · exact ⟨.of_eq rfl rfl rfl rfl rfl, rfl⟩

theorem keepsCores_cohWr (s : State) (pa n v : Nat) : KeepsCores s (cohWr s pa n v) := by
  obtain ⟨hcore, hdev, -⟩ := beside_cohWr s pa n v
  exact ⟨⟨congrArg _ hdev, congrArg _ hdev, congrArg _ hdev, cohWr_still s pa n v, fun d hd => has_cohWr pa n v trivial hd⟩, hcore⟩

theorem keepsCores_retag (k : SlotKey) (line : Nat) (s : State) : KeepsCores s (retag k line s) := by
  have hframe : (retag k line s).core = s.core ∧ (retag k line s).agenda = s.agenda := by
    obtain ⟨-, hcore, -, -, -, -, hagenda⟩ := foldl_modI_frame (fun _ i => { i with
      shelf := i.shelf.map fun e => if e.line = line then { e with slot := retagged k e.slot } else e
      copies := i.copies.map fun e => if e.1 = line then (e.1, { e.2 with tag := retagged k e.2.tag }) else e }) islIds s
    exact ⟨hcore, hagenda⟩
  have hdev := retag_dev k line s
  have hisl := retag_isl k line s
  generalize retag k line s = t at hframe hdev hisl ⊢
  refine ⟨Alongside.mk (congrArg DevSt.pool hdev) (congrArg DevSt.barr hdev) (congrArg DevSt.prod hdev) (fun y => ?_)
    (fun d hd => (has_congr hframe.2 _).trans hd), hframe.1⟩
  rw [hisl]
  rfl

theorem keepsCores_modD (s : State) {f : DevSt → DevSt} (hp : (f s.dev).pool = s.dev.pool) (hb : (f s.dev).barr = s.dev.barr)
    (hr : (f s.dev).prod = s.dev.prod) : KeepsCores s (s.modD f) := ⟨.modD s hp hb hr, rfl⟩

theorem keepsCores_claimLine (k : Option SlotKey) (line : Nat) (s : State) : KeepsCores s (claimLine k line s) := by
  unfold claimLine
  split
  · split
    · exact .refl s
    · exact keepsCores_modD s rfl rfl rfl
  · split
    · exact .refl s
    · dsimp only
      refine KeepsCores.trans ?_ ((keepsCores_retag ..).trans (keepsCores_modD _ rfl rfl rfl))
      split
      · exact .refl s
      · exact keepsCores_cohWr ..

theorem keepsCores_keyWr (s : State) (k : Option SlotKey) (pa n v : Nat) : KeepsCores s (keyWr s k pa n v) := by
  have hline (k : Option SlotKey) (pa n v : Nat) (s : State) : KeepsCores s (lineWr k pa n v s) :=
    (keepsCores_claimLine k (pa / 128) s).trans (keepsCores_cohWr _ pa n v)
  unfold keyWr
  dsimp only
  split
  · exact hline ..
  · exact (hline ..).trans (hline ..)

theorem keepsCores_ctxWrite (cx : BitVec 7) (l : List Byte) (va : Nat) (s : State) : KeepsCores s (ctxWrite cx va l s) := by
  induction l generalizing va s with
  | nil => exact .refl s
  | cons b l ih =>
    unfold ctxWrite
    refine KeepsCores.trans ?_ (ih (va + 1) _)
    split
    · exact keepsCores_keyWr ..
    · exact .refl s

/-- The pad of the core that has the set, if it has one. -/
theorem keepsCores_pads (c : Option CoreId) (cells : CoreId → List Host.Cell) (s : State) :
    KeepsCores s (c.elim s fun c => markCells (cells c) none { s with mem := memWrs s.mem (cells c) }) := by
  cases c with
  | none => exact .refl s
  | some c => exact KeepsCores.trans (t := { s with mem := memWrs s.mem (cells c) }) ⟨.of_eq rfl rfl rfl rfl rfl, rfl⟩ (keepsCores_markCells ..)

theorem keepsCores_restoreSet (c : Option CoreId) (l : Launch) (s : State) : KeepsCores s (restoreSet c l s) := by
  unfold restoreSet
  dsimp only
  refine KeepsCores.trans ?_ (keepsCores_pads ..)
  refine KeepsCores.trans ?_ (.foldl (fun s x => ?_) _ _)
  · cases c with
    | none => exact .refl s
    | some c => exact ⟨.of_eq rfl rfl rfl rfl rfl, rfl⟩
  · split
    · exact keepsCores_pads ..
    · split
      · exact (keepsCores_ctxWrite ..).trans (keepsCores_markCells ..)
      · exact .refl s

theorem keepsCores_mem (s : State) (m : List Host.Cell) : KeepsCores s { s with mem := m } := ⟨.of_eq rfl rfl rfl rfl rfl, rfl⟩

theorem keepsCores_zeroReport (c : CoreId) (l : Launch) (s : State) : KeepsCores s (zeroReport c l s) := by
  unfold zeroReport
  exact (keepsCores_mem s _).trans (keepsCores_markCells ..)

theorem keepsCores_startSet (c : Option CoreId) (l : Launch) (s : State) : KeepsCores s (startSet c l s) := by
  unfold startSet
  split
  · exact keepsCores_restoreSet ..
  · split
    · exact keepsCores_zeroReport ..
    · exact .refl s

/-! Regions, barriers and initial items of a launch that starts (R187, R214, R322). -/

theorem tfind_pool_modL (s : State) (n : Nat) (f : Launch → Launch) : tfind (s.modL n f).dev.pool n = (tfind s.dev.pool n).map f :=
  launch?_modL_self s n f

theorem modL_others (s : State) (n : Nat) (f : Launch → Launch) : (s.modL n f).dev.barr = s.dev.barr ∧ (s.modL n f).dev.prod = s.dev.prod := by
  unfold State.modL
  split <;> exact ⟨rfl, rfl⟩

/-- What holds of the machine as the first items of a launch enter its queue. -/
structure Feeding (s t : State) : Prop where
  core : t.core = s.core
  barr : t.dev.barr = s.dev.barr
  prod : t.dev.prod = s.dev.prod
  isl : t.isl = s.isl
  agenda : t.agenda = s.agenda

namespace Feeding

theorem refl (s : State) : Feeding s s := ⟨rfl, rfl, rfl, rfl, rfl⟩

theorem trans {s t u : State} (h : Feeding s t) (h' : Feeding t u) : Feeding s u :=
  ⟨h'.core.trans h.core, h'.barr.trans h.barr, h'.prod.trans h.prod, h'.isl.trans h.isl, h'.agenda.trans h.agenda⟩

theorem modL (s : State) (n : Nat) (f : Launch → Launch) : Feeding s (s.modL n f) := by
  obtain ⟨hisl, hagenda, -⟩ := modL_frame s n f
  obtain ⟨hbarr, hprod⟩ := modL_others s n f
  exact ⟨modL_core s n f, hbarr, hprod, hisl, hagenda⟩

end Feeding

/-- What says of a launch that it runs, and under which handle. -/
structure Runs (l y : Launch) : Prop where
  st : y.st = l.st
  lead : y.lead = l.lead
  sn : y.sn = l.sn
  lst : y.lst = l.lst

theorem Runs.trans {l y z : Launch} (h : Runs l y) (h' : Runs y z) : Runs l z :=
  ⟨h'.st.trans h.st, h'.lead.trans h.lead, h'.sn.trans h.sn, h'.lst.trans h.lst⟩

theorem runs_modStage (l : Launch) (t : Nat) (f : StageSt → StageSt) : Runs l (l.modStage t f) := by
  unfold Launch.modStage
  split <;> exact ⟨rfl, rfl, rfl, rfl⟩

theorem appendInitial_spec {s : State} {n : Nat} {l : Launch} (h : tfind s.dev.pool n = some l) (hlst : l.lst = false) :
    Feeding s (appendInitial n s) ∧ ∃ y, tfind (appendInitial n s).dev.pool n = some y ∧ Runs l y := by
  have hmod (f : Launch → Launch) (hf : Runs l (f l)) : Feeding s (s.modL n f) ∧ ∃ y, tfind (s.modL n f).dev.pool n = some y ∧ Runs l y :=
    ⟨.modL s n f, f l, by rw [tfind_pool_modL, h]; rfl, hf⟩
  unfold appendInitial
  rw [h]
  dsimp only
  split
  · exact ⟨.refl s, l, h, ⟨rfl, rfl, rfl, rfl⟩⟩
  · rw [nextInitial_word hlst]
    dsimp only
    split
    · obtain ⟨hfeed, y, hy, hruns⟩ := hmod (fun l => { l with fed := l.fed + 1 }) ⟨rfl, rfl, rfl, rfl⟩
      exact ⟨hfeed.trans ⟨rfl, rfl, rfl, rfl, rfl⟩, y, hy, hruns⟩
    · refine hmod _ ?_
      exact (⟨rfl, rfl, rfl, rfl⟩ : Runs l { l with fed := l.fed + 1 }).trans (runs_modStage ..)

theorem feed_spec (m n : Nat) {s : State} {l : Launch} (h : tfind s.dev.pool n = some l) (hlst : l.lst = false) :
    Feeding s (feed m n s) ∧ ∃ y, tfind (feed m n s).dev.pool n = some y ∧ Runs l y := by
  induction m generalizing s l with
  | zero => exact ⟨.refl s, l, h, ⟨rfl, rfl, rfl, rfl⟩⟩
  | succ m ih =>
    obtain ⟨hfeed, y, hy, hruns⟩ := appendInitial_spec h hlst
    obtain ⟨hfeed', z, hz, hruns'⟩ := ih hy (hruns.lst.trans hlst)
    exact ⟨hfeed.trans hfeed', z, hz, hruns.trans hruns'⟩

theorem tget_filter_out {α : Type} (d : α) (t : Tbl α) (p : Nat → Bool) {k : Nat} (h : p k = false) : tget d (t.filter fun e => p e.1) k = d := by
  rw [tget_eq_tfind, tfind_filter, h]
  rfl

theorem tget_map_reset (p : Nat → Bool) (l : Tbl Barrier) {k : Nat} (h : p k = true) :
    (tget ⟨0, 0, 0, 0⟩ (l.map fun e => if p e.1 then (e.1, { e.2 with g := 0, c := 0, np := 0 }) else e) k).g = 0 := by
  induction l with
  | nil => rfl
  | cons e l ih =>
    obtain ⟨a, x⟩ := e
    rw [List.map_cons]
    by_cases ha : a = k
    · subst ha
      dsimp only
      rw [h, if_pos rfl, tget, if_pos rfl]
    · have hne : (if p a then (a, ({ x with g := 0, c := 0, np := 0 } : Barrier)) else (a, x)).1 ≠ k := by
        split <;> exact ha
      dsimp only
      generalize (if p a then (a, ({ x with g := 0, c := 0, np := 0 } : Barrier)) else (a, x)) = e at hne
      obtain ⟨b, y⟩ := e
      rw [tget, if_neg hne]
      exact ih

/-- A launch that starts has its barriers and regions at 0 (R187, R214). -/
theorem cleared_spec (n : Nat) (l : Launch) (s : State) :
    let t := clearBarriers l (enterRegions n l s)
    t.core = s.core ∧ t.dev.pool = s.dev.pool ∧
    (∀ b, b / 256 = l.ctx.toNat → (tget ⟨0, 0, 0, 0⟩ t.dev.barr b).g = 0 ∧ ∀ y, tget 0 (t.isl.get y).views b = 0) ∧
    ∀ r ∈ l.regions, tget 0 t.dev.prod (roundKey (some n) r.index) = 0 ∧ ∀ y, tget 0 (t.isl.get y).rounds (roundKey (some n) r.index) = 0 := by
  intro t
  let keys := l.regions.map fun r => roundKey (some n) r.index
  let mine (k : Nat) : Bool := k / 256 == l.ctx.toNat
  let u := enterRegions n l s
  let s1 : State := State.modD { s with agenda := s.agenda.filter fun e => match e.due with
    | .ev i a => !((i == Instr.roundTableUpdate || i == Instr.publish) && keys.contains a.k)
    | _ => true } fun d => { d with prod := d.prod.filter fun e => !keys.contains e.1 }
  have hu : u = islIds.foldl (fun s y => s.modI y fun i => { i with
      rounds := i.rounds.filter (fun e => !keys.contains e.1), copies := i.copies.filter fun e => !(e.2.st == .Rg && keys.contains e.2.key) })
      s1 := rfl
  have hs1 : s1.isl = s.isl ∧ s1.core = s.core ∧ s1.dev.pool = s.dev.pool ∧
      s1.dev.prod = s.dev.prod.filter (fun e => !keys.contains e.1) := ⟨rfl, rfl, rfl, rfl⟩
  obtain ⟨-, hcore1, -, -, hdev1, -⟩ := foldl_modI_frame (fun _ i =>
    { i with rounds := i.rounds.filter (fun e => !keys.contains e.1), copies := i.copies.filter fun e => !(e.2.st == .Rg && keys.contains e.2.key) })
    islIds s1
  have hrounds (y : Isl) : (u.isl.get y).rounds = (s.isl.get y).rounds.filter (fun e => !keys.contains e.1) := by
    rw [hu, ← hs1.1]
    exact (congrArg IslandSt.rounds (modI_islIds_get (fun _ i => { i with
      rounds := i.rounds.filter (fun e => !keys.contains e.1), copies := i.copies.filter fun e => !(e.2.st == .Rg && keys.contains e.2.key) })
      s1 y) :)
  let s2 : State := u.modD fun d => { d with
    barr := d.barr.map fun e => if mine e.1 then (e.1, { e.2 with g := 0, c := 0, np := 0 }) else e }
  have hs2 : s2.isl = u.isl ∧ s2.core = u.core ∧ s2.dev.pool = u.dev.pool ∧ s2.dev.prod = u.dev.prod ∧
      s2.dev.barr = u.dev.barr.map fun e => if mine e.1 then (e.1, { e.2 with g := 0, c := 0, np := 0 }) else e := ⟨rfl, rfl, rfl, rfl, rfl⟩
  have ht : t.core = (islIds.foldl (fun s y => s.modI y fun i => { i with views := i.views.filter fun e => !mine e.1 }) s2).core ∧
      t.dev = (islIds.foldl (fun s y => s.modI y fun i => { i with views := i.views.filter fun e => !mine e.1 }) s2).dev ∧
      t.isl = (islIds.foldl (fun s y => s.modI y fun i => { i with views := i.views.filter fun e => !mine e.1 }) s2).isl := ⟨rfl, rfl, rfl⟩
  obtain ⟨-, hcore2, -, -, hdev2, -⟩ := foldl_modI_frame (fun _ i => { i with views := i.views.filter fun e => !mine e.1 }) islIds s2
  have hviews := modI_islIds_get (fun _ i => { i with views := i.views.filter fun e => !mine e.1 }) s2
  obtain ⟨hisl1, hc1, hp1, hprod1⟩ := hs1
  clear_value s2 u s1
  obtain ⟨hisl2, hc2, hp2, hprod2, hbarr2⟩ := hs2
  obtain ⟨htc, htd, hti⟩ := ht
  have hcu : u.core = s.core := by rw [hu, hcore1, hc1]
  have hdu : u.dev = s1.dev := by rw [hu, hdev1]
  refine ⟨by rw [htc, hcore2, hc2, hcu], by rw [htd, hdev2, hp2, hdu, hp1], fun b hb => ⟨?_, fun y => ?_⟩, fun r hr => ⟨?_, fun y => ?_⟩⟩
  · rw [htd, hdev2, hbarr2]
    exact tget_map_reset mine _ (beq_iff_eq.2 hb)
  · rw [hti, hviews]
    exact tget_filter_out 0 _ (fun k => !mine k) (by rw [show mine b = true from beq_iff_eq.2 hb]; rfl)
  all_goals
    have hkey : (!keys.contains (roundKey (some n) r.index)) = false := by
      rw [List.contains_iff_mem.2 (List.mem_map_of_mem hr)]
      rfl
  · rw [htd, hdev2, hprod2, hdu, hprod1]
    exact tget_filter_out 0 _ (fun k => !keys.contains k) hkey
  · rw [hti, hviews, hisl2]
    show tget 0 (u.isl.get y).rounds _ = 0
    rw [hrounds]
    exact tget_filter_out 0 _ (fun k => !keys.contains k) hkey

theorem startPhase_spec {n : Nat} (ph : Byte) {s : State} {l : Launch} (h : tfind s.dev.pool n = some l) :
    let t := startPhase n ph s
    t.core = s.core ∧ t.dev.barr = s.dev.barr ∧ t.dev.prod = s.dev.prod ∧ (∀ y, (t.isl.get y).still = (s.isl.get y).still) ∧
    (∀ d, s.has (.edge d) = true → t.has (.edge d) = true) ∧ ∃ y, tfind t.dev.pool n = some y ∧ Runs l y := by
  intro t
  have hmod (f : Launch → Launch) (hf : ∀ l, Runs l (f l)) (u : State) {x : Launch} (hu : tfind u.dev.pool n = some x) :
      Feeding u (u.modL n f) ∧ ∃ y, tfind (u.modL n f).dev.pool n = some y ∧ Runs x y :=
    ⟨.modL u n f, f x, by rw [tfind_pool_modL, hu]; rfl, hf x⟩
  have hfeed {u v : State} (h : Feeding u v) : v.core = u.core ∧ v.dev.barr = u.dev.barr ∧ v.dev.prod = u.dev.prod ∧
      (∀ y, (v.isl.get y).still = (u.isl.get y).still) ∧ ∀ d, u.has (.edge d) = true → v.has (.edge d) = true :=
    ⟨h.core, h.barr, h.prod, fun y => by rw [h.isl], fun d hd => (has_congr h.agenda _).trans hd⟩
  let s1 := chargeCtx l.ctx s
  let s2 := s1.modL n fun l => { l with opt := none, phase := ph }
  have h1 : Feeding s s1 := ⟨rfl, rfl, rfl, rfl, rfl⟩
  obtain ⟨h2, x, hx, hruns⟩ := hmod (fun l => { l with opt := none, phase := ph }) (fun _ => ⟨rfl, rfl, rfl, rfl⟩) s1 (x := l) h
  have h12 := h1.trans h2
  have ht : t = match tfind s2.dev.pool n with
    | none => s2
    | some l =>
      if (s2.isl.get 0).opmd ≠ 2 then s2
      else match recallEntry s2 l.kid ph with
        | none => s2
        | some (e, w) => islIds.foldl (fun s y => s.after 0 (.ev .opmWrite { argY y with k := 1, v := entryPoint w }))
            (s2.modL n fun l => { l with opt := some (e, s2.tick, (s2.ctxOf l.ctx).energy) }) := by
    show startPhase n ph s = _
    unfold startPhase
    rw [h] <;> rfl
  rw [ht, hx]
  dsimp only
  split
  · obtain ⟨hc, hb, hp, hi, he⟩ := hfeed h12
    exact ⟨hc, hb, hp, hi, he, x, hx, hruns⟩
  · split
    · obtain ⟨hc, hb, hp, hi, he⟩ := hfeed h12
      exact ⟨hc, hb, hp, hi, he, x, hx, hruns⟩
    next e w _ =>
      obtain ⟨h3, y, hy, hruns'⟩ := hmod (fun l => { l with opt := some (e, s2.tick, (s2.ctxOf l.ctx).energy) }) (fun _ => ⟨rfl, rfl, rfl, rfl⟩) s2 hx
      obtain ⟨hc, hb, hp, hi, he⟩ := hfeed (h12.trans h3)
      let v := s2.modL n fun l => { l with opt := some (e, s2.tick, (s2.ctxOf l.ctx).energy) }
      let ask (s : State) (y : Isl) : State := s.after 0 (.ev .opmWrite { argY y with k := 1, v := entryPoint w })
      have hquiet : Quiet v (islIds.foldl ask v) := .foldl (fun s y => Quiet.at_ s (s.tick + 0) _ _) islIds v
      have hkeep : (islIds.foldl ask v).core = v.core := foldl_keeps State.core (fun _ _ => rfl) islIds v
      obtain ⟨_, hb', hp', hi', he'⟩ := Alongside.of_quiet hquiet
      exact ⟨hkeep.trans hc, hb'.trans hb, hp'.trans hp, fun z => (hi' z).trans (hi z), fun d hd => he' d (he d hd), y,
        (congrArg (tfind · n) hquiet.pool).trans hy, hruns.trans hruns'⟩

/-- The lowest core that a start gives to stage `t` (R322). -/
def lowestOf (cs : List (CoreId × Nat)) (t : Nat) : Option CoreId := (cs.find? fun e => e.2 == t).map (·.1)

/-- A launch as it starts: its registers cleared and its initial items fed. -/
def cleared (n : Nat) (l : Launch) (cs : List (CoreId × Nat)) (s : State) : State :=
  clearBarriers l (enterRegions n l (s.modL n fun l => { l with st := .running, lead := lowestOf cs 0 }))

def fed (n : Nat) (l : Launch) (cs : List (CoreId × Nat)) (s : State) : State :=
  feed (min l.nit ((l.stages.head?.map (·.cap)).getD 0)) n (cleared n l cs s)

/-- A launch whose cores are bound and whose first phase has started. -/
def boundAll (n : Nat) (l : Launch) (cs : List (CoreId × Nat)) (s : State) : State :=
  startPhase n 0 (islIds.foldl (fun s y => trimShelf y s)
    (startSet (lowestOf cs l.msvStg) l (cs.foldl (fun s e => bindCore e.1 n l e.2 s) s)))

theorem fed_spec (n : Nat) {l : Launch} (cs : List (CoreId × Nat)) {s : State} (hpool : tfind s.dev.pool n = some l) (hlst : l.lst = false) :
    Feeding (cleared n l cs s) (fed n l cs s) ∧ ∃ x, tfind (fed n l cs s).dev.pool n = some x ∧
      Runs { l with st := .running, lead := lowestOf cs 0 } x := by
  have hpool0 : tfind (s.modL n fun l => { l with st := .running, lead := lowestOf cs 0 }).dev.pool n =
      some { l with st := .running, lead := lowestOf cs 0 } := by
    rw [tfind_pool_modL, hpool]
    rfl
  obtain ⟨-, hpool1, -⟩ := cleared_spec n l (s.modL n fun l => { l with st := .running, lead := lowestOf cs 0 })
  exact feed_spec (min l.nit ((l.stages.head?.map (·.cap)).getD 0)) n ((congrArg (tfind · n) hpool1).trans hpool0) hlst

theorem launchStart_eq {s : State} {l : Launch} {cs : List (CoreId × Nat)} (hpool : tfind s.dev.pool s.arg.n = some l)
    (hmay : mayStart s s.arg.n l = true) (hcs : startCores s l = some cs) (hlst : l.lst = false) :
    exec .launchStart s = .next (dispatch (boundAll s.arg.n l cs (fed s.arg.n l cs s))) := by
  obtain ⟨-, x, hx, hruns⟩ := fed_spec s.arg.n cs hpool hlst
  have hgoes : (tfind (fed s.arg.n l cs s).dev.pool s.arg.n).any (·.st != .running) = false := by
    rw [hx]
    show (x.st != .running) = false
    rw [hruns.st]
    rfl
  show execLaunchStart s = _
  unfold execLaunchStart
  dsimp only
  rw [hpool]
  dsimp only
  rw [if_neg (by rw [hmay]; decide), hcs]
  exact if_neg fun h => Bool.noConfusion (hgoes.symm.trans h)

/-- What the binds of a start and its first phase do to a state whose pool has the launch. -/
theorem boundAll_spec {n : Nat} (l : Launch) {cs : List (CoreId × Nat)} (hnodup : (cs.map (·.1)).Nodup) {s : State} {x : Launch}
    (hx : tfind s.dev.pool n = some x) :
    let t := boundAll n l cs s
    t.dev.barr = s.dev.barr ∧ t.dev.prod = s.dev.prod ∧ (∀ y, (t.isl.get y).still = (s.isl.get y).still) ∧
    (∃ y, tfind t.dev.pool n = some y ∧ Runs x y) ∧
    (∀ e ∈ cs, (t.core.get e.1).bond = (.running, some n, l.ctx, BitVec.ofNat 3 e.2) ∧ t.has (.edge e.1) = true) ∧
    ∀ c, c ∉ cs.map (·.1) → (t.core.get c).r = (s.core.get c).r ∧ (t.core.get c).run = (s.core.get c).run := by
  obtain ⟨hbinds, hin, hout⟩ := binds_spec n l cs hnodup s
  unfold boundAll
  generalize cs.foldl (fun s e => bindCore e.1 n l e.2 s) s = s3 at hbinds hin hout ⊢
  obtain ⟨hset, hcore4⟩ := keepsCores_startSet (lowestOf cs l.msvStg) l s3
  generalize startSet (lowestOf cs l.msvStg) l s3 = s4 at hset hcore4 ⊢
  have hquiet : Quiet s4 (islIds.foldl (fun s y => trimShelf y s) s4) := .foldl (fun s y => quiet_trimShelf y s) islIds s4
  generalize islIds.foldl (fun s y => trimShelf y s) s4 = s5 at hquiet ⊢
  have htrim := Alongside.of_quiet hquiet
  have hall : Alongside s s5 := (hbinds.trans hset).trans htrim
  obtain ⟨hcore6, hb, hp, hi, he, hy⟩ := startPhase_spec 0 ((congrArg (tfind · n) hall.pool).trans hx)
  have hcore (c : CoreId) : ((startPhase n 0 s5).core.get c).bond = (s3.core.get c).bond ∧
      ((startPhase n 0 s5).core.get c).r = (s3.core.get c).r := by
    obtain ⟨_, _, hc⟩ := hquiet.core c
    rw [hcore6, hc, hcore4]
    exact ⟨rfl, rfl⟩
  refine ⟨hb.trans hall.barr, hp.trans hall.prod, fun y => (hi y).trans (hall.isl y), hy, fun e hmem => ?_, fun c hc => ?_⟩
  · obtain ⟨hbind, hhas⟩ := hin e hmem
    exact ⟨(hcore e.1).1.trans hbind, he _ ((hset.trans htrim).edges _ hhas)⟩
  · obtain ⟨hbond, hr⟩ := hout c hc
    exact ⟨(hcore c).2.trans hr, congrArg (·.1) ((hcore c).1.trans hbond)⟩

/-- LAUNCH_START (R322, R325, R328). -/
theorem launchStart_starts {s : State} {l : Launch} {cs : List (CoreId × Nat)} (hpool : tfind s.dev.pool s.arg.n = some l)
    (hmay : mayStart s s.arg.n l = true) (hcs : startCores s l = some cs) (hlst : l.lst = false) :
    ∃ t x, exec .launchStart s = .next (dispatch t) ∧ tfind t.dev.pool s.arg.n = some x ∧ x.st = .running ∧
      x.lead = (cs.find? fun e => e.2 == 0).map (·.1) ∧ x.sn = l.sn ∧
      (∀ e ∈ cs, (t.core.get e.1).run = .running ∧ (t.core.get e.1).launch = some s.arg.n ∧ (t.core.get e.1).ctx = l.ctx ∧
        (t.core.get e.1).stg = BitVec.ofNat 3 e.2 ∧ t.has (.edge e.1) = true) ∧
      (∀ c, c ∉ cs.map (·.1) → (t.core.get c).r = (s.core.get c).r ∧ (t.core.get c).run = (s.core.get c).run) ∧
      (∀ b, b / 256 = l.ctx.toNat → (tget ⟨0, 0, 0, 0⟩ t.dev.barr b).g = 0 ∧ ∀ y, viewOf t y b = 0) ∧
      ∀ r ∈ l.regions, tget 0 t.dev.prod (roundKey (some s.arg.n) r.index) = 0 ∧
        ∀ y, tget 0 (t.isl.get y).rounds (roundKey (some s.arg.n) r.index) = 0 := by
  have hexec := launchStart_eq hpool hmay hcs hlst
  obtain ⟨hfeed, x, hx, hruns⟩ := fed_spec s.arg.n cs hpool hlst
  obtain ⟨hcore1, -, hbarr, hprod⟩ := cleared_spec s.arg.n l (s.modL s.arg.n fun l => { l with st := .running, lead := lowestOf cs 0 })
  replace hcore1 : (cleared s.arg.n l cs s).core = s.core := hcore1.trans (modL_core ..)
  change ∀ b, b / 256 = l.ctx.toNat → (tget ⟨0, 0, 0, 0⟩ (cleared s.arg.n l cs s).dev.barr b).g = 0 ∧
    ∀ y, tget 0 ((cleared s.arg.n l cs s).isl.get y).views b = 0 at hbarr
  change ∀ r ∈ l.regions, tget 0 (cleared s.arg.n l cs s).dev.prod (roundKey (some s.arg.n) r.index) = 0 ∧
    ∀ y, tget 0 ((cleared s.arg.n l cs s).isl.get y).rounds (roundKey (some s.arg.n) r.index) = 0 at hprod
  obtain ⟨hb, hp, hi, ⟨y, hy, hruns'⟩, hin, hout⟩ := boundAll_spec l (startCores_nodup hcs) hx
  generalize cleared s.arg.n l cs s = s1 at hfeed hcore1 hbarr hprod
  generalize fed s.arg.n l cs s = s2 at *
  generalize boundAll s.arg.n l cs s2 = t at *
  have hstill (z : Isl) : (t.isl.get z).still = (s1.isl.get z).still := (hi z).trans (by rw [hfeed.isl])
  refine ⟨t, y, hexec, hy, hruns'.st.trans hruns.st, hruns'.lead.trans hruns.lead, hruns'.sn.trans hruns.sn, fun e he => ?_, fun c hc => ?_,
    fun b hk => ⟨?_, fun z => ?_⟩, fun r hr => ⟨?_, fun z => ?_⟩⟩
  · obtain ⟨h, hhas⟩ := hin e he
    unfold CoreSt.bond at h
    rw [Prod.mk.injEq, Prod.mk.injEq, Prod.mk.injEq] at h
    obtain ⟨hrun, hlaunch, hctx, hstg⟩ := h
    exact ⟨hrun, hlaunch, hctx, hstg, hhas⟩
  · obtain ⟨hr, hrun⟩ := hout c hc
    rw [hfeed.core.trans hcore1] at hr hrun
    exact ⟨hr, hrun⟩
  · rw [hb, hfeed.barr]
    exact (hbarr b hk).1
  · have hviews : (t.isl.get z).views = (s1.isl.get z).views := (congrArg (fun v => v.2.2.2) (hstill z) :)
    rw [viewOf, hviews]
    exact (hbarr b hk).2 z
  · rw [hp, hfeed.prod]
    exact (hprod r hr).1
  · have hrounds : (t.isl.get z).rounds = (s1.isl.get z).rounds := (congrArg (fun v => v.2.2.1) (hstill z) :)
    rw [hrounds]
    exact (hprod r hr).2 z

/-- Settles O49: host launches by what a trigger reads and the status write leaves, the start of a launch by its binds beside what it
clears, and the dispatcher by what it touches. -/
theorem launchSteps : Obligations.LaunchSteps := by
  unfold Obligations.LaunchSteps
  refine ⟨fun s => ⟨fun w h => hostLaunchTrigger_collides s h, fun h hw => hostLaunchTrigger_idle s h hw, fun h hw => hostLaunchTrigger_reads s h hw,
    fun w h => launchStatusWrite_writes s h, fun h => launchStatusWrite_idle s h⟩,
    fun s l cs hpool hmay hcs hlst => launchStart_starts hpool hmay hcs hlst, fun s => ?_⟩
  have h := dispatched_dispatch s
  refine ⟨h.sq, fun c => ?_, h.mem⟩
  obtain ⟨b, hb⟩ := h.core c
  rw [hb]
  exact ⟨rfl, rfl⟩

end Sys2Proof.Machine
end

section
/-! O45: the copy units, the broadcast bus and walks (R197 to R208, R300, R305). -/

namespace Sys2Proof.Machine

/-! What a unit's reads leave: all but the lines that a core's cache holds, the islands' caches and the error log (R260, R349, R381). -/

/-- No byte of storage differs, and nothing of a core but its line cache. -/
def Fetches (s t : State) : Prop := t.mem = s.mem ∧ ∀ d, ∃ l, t.core.get d = { s.core.get d with lc := l }

theorem Fetches.refl (s : State) : Fetches s s := ⟨rfl, fun _ => ⟨_, rfl⟩⟩

theorem Fetches.trans {s t u : State} (h : Fetches s t) (h' : Fetches t u) : Fetches s u := by
  obtain ⟨hm, hc⟩ := h
  obtain ⟨hm', hc'⟩ := h'
  refine ⟨hm'.trans hm, fun d => ?_⟩
  obtain ⟨l, hl⟩ := hc d
  obtain ⟨l', hl'⟩ := hc' d
  exact ⟨l', by rw [hl', hl]⟩

theorem Fetches.of_core {s t : State} (hm : t.mem = s.mem) (hc : t.core = s.core) : Fetches s t := ⟨hm, fun _ => ⟨_, by rw [hc]⟩⟩

theorem Fetches.unit {s t : State} (h : Fetches s t) (c : CoreId) (u : Bool) : (t.core.get c).unit u = (s.core.get c).unit u := by
  obtain ⟨l, hl⟩ := h.2 c
  rw [hl]
  rfl

theorem fetches_foldl {α : Type} {f : State → α → State} (hf : ∀ s x, Fetches s (f s x)) (l : List α) (s : State) : Fetches s (l.foldl f s) := by
  induction l generalizing s with
  | nil => exact .refl s
  | cons x l ih => exact (hf s x).trans (ih _)

theorem fetches_reachKeys (y : Isl) (keys : List Nat) (s : State) : Fetches s (reachKeys y keys s) :=
  fetches_foldl (fun s p => .of_core (reach_frame y (64 * p) 64 s).1 (reach_frame y (64 * p) 64 s).2) _ s

theorem writeBack_core (e : ShelfLine) (s : State) : (writeBack e s).core = s.core := by
  unfold writeBack
  split
  · split
    · rfl
    · rfl
  · rfl

theorem touchShelf_core (line : Nat) (cls : BitVec 2) (k : Option SlotKey) (dirty : Bool) (s : State) :
    (touchShelf line cls k dirty s).core = s.core := by
  have hold : ∀ old : Option ShelfLine, (old.elim s fun x => writeBack x s).core = s.core := fun old => by
    cases old with
    | none => rfl
    | some x => exact writeBack_core x s
  unfold touchShelf
  dsimp only
  split
  · rfl
  · split
    · exact (writeBack_core _ _).trans (hold _)
    · split
      · exact (writeBack_core _ _).trans (hold _)
      · exact hold _

theorem fetches_touchLine (c : CoreId) (line : Nat) (cls : BitVec 2) (dirty : Bool) (s : State) : Fetches s (touchLine c line cls dirty s) :=
  .of_core (readsOnly_touchLine c line cls dirty s).1 (touchShelf_core line cls (s.coreKey c) dirty s)

theorem fetches_invAgents (y : Isl) (line : Nat) (but : Option CoreId) (s : State) : Fetches s (invAgents y line but s) := by
  unfold invAgents
  refine fetches_foldl (fun s c => ?_) _ _
  split
  · refine ⟨rfl, fun d => ?_⟩
    rw [State.modC_get_if s _ c d]
    split
    · exact ⟨_, rfl⟩
    · exact ⟨_, rfl⟩
  · exact .refl s

theorem fetches_evictCopy (y : Isl) (line : Nat) (x : Copy) (s : State) : Fetches s (evictCopy y line x s) := by
  have h : Fetches s (invAgents y line none (s.modI y fun i => { i with copies := tdel i.copies line })) :=
    (Fetches.of_core (t := s.modI y fun i => { i with copies := tdel i.copies line }) rfl rfl).trans (fetches_invAgents y line none _)
  unfold evictCopy
  dsimp only
  generalize invAgents y line none (s.modI y fun i => { i with copies := tdel i.copies line }) = s1 at h ⊢
  split
  · exact h
  · exact h.trans (.of_core rfl rfl)
  · exact h.trans (.of_core rfl rfl)
  · exact h.trans (.of_core rfl rfl)
  · exact h.trans (.of_core rfl rfl)

theorem fetches_offshoreRoom (y : Isl) (line : Nat) (s : State) : Fetches s (offshoreRoom y line s) := by
  unfold offshoreRoom
  dsimp only
  split
  · exact .refl s
  · split
    · exact (Fetches.of_core (t := s.pick.2) rfl rfl).trans (fetches_evictCopy ..)
    · exact .of_core rfl rfl

theorem fetches_fillRegion (y : Isl) (l key : Nat) (d : BitVec 1024) (s : State) : Fetches s (fillRegion y l key d s) := by
  have h : Fetches s (untracked y l s) := by
    unfold untracked
    split
    · exact fetches_evictCopy ..
    · exact .refl s
  rw [fillRegion_eq]
  split
  · exact h
  · exact (h.trans (fetches_offshoreRoom ..)).trans (.of_core rfl rfl)

theorem fetches_regionLine (y : Isl) (line key : Nat) (th : Round) (s : State) : Fetches s (regionLine y line key th s).2 := by
  rcases (regionLine_spec y line key th s).2 with h | ⟨d, h⟩
  · rw [h]
    exact .refl s
  · rw [h]
    exact fetches_fillRegion ..

theorem fetches_readLine (s : State) (c : CoreId) (r : CopyRun) (x line : Nat) : Fetches s (readLine s c r x line).2 := by
  unfold readLine
  dsimp only
  split
  · exact fetches_touchLine ..
  next g _ =>
    have hread (key : Nat) (th : Round) : Fetches s (if regionHit s (islOf c) line key th then (regionLine (islOf c) line key th s).2
        else touchLine c line r.srcX.1 false (regionLine (islOf c) line key th s).2) := by
      split
      · exact fetches_regionLine ..
      · exact (fetches_regionLine ..).trans (fetches_touchLine ..)
    exact hread _ _

theorem fetches_readLines (c : CoreId) (r : CopyRun) (ps : List Nat) : ∀ (t : Tbl (BitVec 1024)) (s : State), Fetches s (readLines c r ps t s).2 := by
  induction ps with
  | nil => exact fun t s => .refl s
  | cons x ps ih =>
    intro t s
    unfold readLines
    split
    · exact ih t s
    · split
      · exact ih t s
      · exact (fetches_readLine ..).trans (ih _ _)

/-- The state in which the errors of the pieces that a group reads have been met (R381). -/
def met (s : State) (c : CoreId) (r : CopyRun) (ps : List Nat) : State :=
  if s.dev.errs.isEmpty && baseSp r.cmd.walk.src != 0 then s else reachKeys (islOf c) (ps.filterMap (srcKey s c r)) s

theorem fetches_met (s : State) (c : CoreId) (r : CopyRun) (ps : List Nat) : Fetches s (met s c r ps) := by
  unfold met
  split
  · exact .refl s
  · exact fetches_reachKeys ..

theorem readGroup_local {s : State} {c : CoreId} {r : CopyRun} {ps : List Nat} (h : baseSp r.cmd.walk.src ≠ 0) : readGroup s c r ps =
    (ps.filterMap fun x => (srcKey s c r x).map fun k => (x, memRd s.mem k), met s c r ps) := if_pos h

theorem readGroup_global {s : State} {c : CoreId} {r : CopyRun} {ps : List Nat} (h : baseSp r.cmd.walk.src = 0) : readGroup s c r ps =
    (ps.filterMap fun x => (srcKey s c r x).map fun k =>
      (x, (tget 0 (readLines c r ps [] (met s c r ps)).1 (k / 128)).extractLsb' (8 * (k % 128)) 8), (readLines c r ps [] (met s c r ps)).2) :=
  if_neg fun hn => hn h

theorem fetches_readGroup (s : State) (c : CoreId) (r : CopyRun) (ps : List Nat) : Fetches s (readGroup s c r ps).2 := by
  by_cases h : baseSp r.cmd.walk.src = 0
  · rw [readGroup_global h]
    exact (fetches_met s c r ps).trans (fetches_readLines ..)
  · rw [readGroup_local h]
    exact fetches_met s c r ps

/-! Rules of a unit. -/

@[simp] theorem unit_setUnit (k : CoreSt) (u : Bool) (f : CopyUnit → CopyUnit) : (k.setUnit u f).unit u = f (k.unit u) := by
  cases u
  · rfl
  · rfl

theorem unit_modC (s : State) (c : CoreId) (u : Bool) (f : CopyUnit → CopyUnit) :
    ((s.modC c fun k => k.setUnit u f).core.get c).unit u = f ((s.core.get c).unit u) := by
  rw [State.modC_get s c _, unit_setUnit]

theorem nextPiece_frame (c : CoreId) (u : Bool) (n : Nat) (s : State) : (nextPiece c u n s).core = s.core ∧ (nextPiece c u n s).mem = s.mem ∧
    (nextPiece c u n s).isl = s.isl ∧ (nextPiece c u n s).has (.piece c u) = true := by
  unfold nextPiece
  split
  next h => exact ⟨rfl, rfl, rfl, h⟩
  · exact ⟨rfl, rfl, rfl, has_after ..⟩

theorem readEarly_idle {c : CoreId} {u : Bool} {s : State} (h : ((s.core.get c).unit u).run = none) : readEarly c u s = s := by
  unfold readEarly
  rw [h]

/-- What a unit whose copy reads ahead takes (R406). -/
def aheadOf (c : CoreId) (r : CopyRun) (s : State) : List (Nat × Byte) × State :=
  readGroup { s with free := s.free + r.cmd.walk.total } c r (r.early s c)

theorem readEarly_reads {c : CoreId} {u : Bool} {s : State} {r : CopyRun} (h : ((s.core.get c).unit u).run = some r) : readEarly c u s =
    (aheadOf c r s).2.modC c fun k => k.setUnit u fun x => { x with run := x.run.map fun v => v.take s c (aheadOf c r s).1 } := by
  unfold readEarly aheadOf
  rw [h]

theorem fetches_aheadOf (c : CoreId) (r : CopyRun) (s : State) : Fetches s (aheadOf c r s).2 :=
  fetches_readGroup { s with free := s.free + r.cmd.walk.total } c r (r.early s c)

theorem readEarly_mem (c : CoreId) (u : Bool) (s : State) : (readEarly c u s).mem = s.mem := by
  cases h : ((s.core.get c).unit u).run with
  | none => rw [readEarly_idle h]
  | some r =>
    rw [readEarly_reads h]
    exact (fetches_aheadOf c r s).1

/-- What reads ahead leave of the unit: all but the bytes that its copy has read (R406). -/
theorem readEarly_unit {c : CoreId} {u : Bool} {s : State} {r : CopyRun} (h : ((s.core.get c).unit u).run = some r) :
    ∃ p, ((readEarly c u s).core.get c).unit u = { (s.core.get c).unit u with run := some { r with part := p } } := by
  rw [readEarly_reads h, unit_modC, (fetches_aheadOf c r s).unit, h]
  exact ⟨_, rfl⟩

/-! A copy that begins, pauses, resumes and completes (R197 to R200, R305). -/

theorem lineDelay_frame (r : CopyRun) (s : State) : (lineDelay r s).2.core = s.core ∧ (lineDelay r s).2.mem = s.mem ∧
    (lineDelay r s).2.isl = s.isl := by
  unfold lineDelay
  split
  · exact ⟨rfl, rfl, rfl⟩
  · exact ⟨rfl, rfl, rfl⟩

theorem copyBegin_begins {s : State} {m : CopyCmd} {rest : List CopyCmd} (hbuf : ((s.core.get s.arg.c).unit s.arg.u).buf = m :: rest)
    (hrun : ((s.core.get s.arg.c).unit s.arg.u).run = none) (hside : ((s.core.get s.arg.c).unit s.arg.u).side = [])
    (hdeps : (s.core.get s.arg.c).depsReady m.deps = true) (htotal : m.walk.total ≠ 0) :
    ∃ t r, exec .copyBegin s = .next t ∧ ((t.core.get s.arg.c).unit s.arg.u).buf = rest ∧ ((t.core.get s.arg.c).unit s.arg.u).run = some r ∧
      r.x = 0 ∧ r.cmd.id = m.id ∧ r.cmd.nest = m.nest ∧ t.has (.piece s.arg.c s.arg.u) = true ∧
      (traceOn s s.arg.c 8 = false → t.mem = s.mem) := by
  let c := s.arg.c
  let u := s.arg.u
  let r : CopyRun := ⟨{ m with carry := carriedBy (s.core.get c) m }, 0, none, none, none, 0, 0, [], [], false, (0, false), (0, false), []⟩
  let s1 := s.modC c fun k => k.setUnit u fun x => { x with buf := rest, run := some r }
  let s2 := (lineDelay r s1).2
  let s3 := traceEv c 0x08 m.badr (BitVec.ofNat 64 u.toNat) s2
  have hexec : exec .copyBegin s = .next (firstPiece c u (4 + copyHops c m.walk + (lineDelay r s1).1) (readEarly c u s3)) := by
    show execCopyBegin s = _
    unfold execCopyBegin
    dsimp only
    rw [hbuf]
    dsimp only
    have hmay : ((s.core.get s.arg.c).unit s.arg.u).mayBegin = true := by
      unfold CopyUnit.mayBegin
      rw [hrun, hside]
      rfl
    rw [if_neg (by rw [hmay]; decide), if_neg (by rw [hside]; exact Bool.false_ne_true), if_neg (by rw [hdeps]; decide)]
    exact if_neg htotal
  have hunit1 : (s1.core.get c).unit u = { (s.core.get c).unit u with buf := rest, run := some r } := unit_modC ..
  have hunit3 : (s3.core.get c).unit u = (s1.core.get c).unit u := by
    obtain ⟨h, -⟩ := beside_traceEv c 0x08 m.badr (BitVec.ofNat 64 u.toNat) s2
    rw [h, (lineDelay_frame r s1).1]
  have hrun3 : ((s3.core.get c).unit u).run = some r := by rw [hunit3, hunit1]
  obtain ⟨p, hp⟩ := readEarly_unit hrun3
  refine ⟨_, { r with part := p }, hexec, ?_, congrArg CopyUnit.run hp, rfl, rfl, rfl, has_after .., fun htr => ?_⟩
  · show (((readEarly c u s3).core.get c).unit u).buf = rest
    rw [hp, hunit3, hunit1]
  · have hoff : traceOn s2 c 8 = false := (traceOn_congr (lineDelay_frame r s1).2.2 c 8).trans htr
    have h3 : s3.mem = s2.mem := by
      show (traceEv ..).mem = _
      unfold traceEv
      rw [hoff]
      rfl
    exact (readEarly_mem c u s3).trans (h3.trans (lineDelay_frame r s1).2.1)

theorem resume_eq {s : State} {c : CoreId} {u : Bool} (f : CopyUnit → CopyUnit) :
    let t := nextPiece c u 0 (s.modC c fun k => k.setUnit u f)
    (t.core.get c).unit u = f ((s.core.get c).unit u) ∧ t.mem = s.mem := by
  intro t
  obtain ⟨hc, hm, -⟩ := nextPiece_frame c u 0 (s.modC c fun k => k.setUnit u f)
  exact ⟨by rw [hc, unit_modC], hm⟩

theorem copyResume_resumes {s : State} {r : CopyRun} (hrun : ((s.core.get s.arg.c).unit s.arg.u).run = some r) (hp : r.paused = true)
    (hover : pauseOver s s.arg.c s.arg.u r = true ∨ ∀ q ∈ ((s.core.get s.arg.c).unit s.arg.u).side, q.paused = true →
      pauseOver s s.arg.c s.arg.u q = false) :
    ∃ t q, exec .copyResume s = .next t ∧ ((t.core.get s.arg.c).unit s.arg.u).run = some q ∧ q.paused = false ∧ q.x = r.x ∧ t.mem = s.mem := by
  have hnone : ((s.core.get s.arg.c).unit s.arg.u).side.find? (fun q => q.paused && pauseOver s s.arg.c s.arg.u q &&
      !pauseOver s s.arg.c s.arg.u r) = none := by
    rw [List.find?_eq_none]
    intro q hq h
    rw [Bool.and_eq_true, Bool.and_eq_true] at h
    obtain ⟨⟨hqp, hqo⟩, hr⟩ := h
    rcases hover with h | h
    · rw [h] at hr
      exact Bool.noConfusion hr
    · exact Bool.noConfusion (hqo.symm.trans (h q hq hqp))
  have hexec : exec .copyResume s = .next (nextPiece s.arg.c s.arg.u 0 (s.modC s.arg.c fun k => k.setUnit s.arg.u fun x =>
      { x with run := some { r with pause := none, slack := 0 } })) := by
    show execCopyResume s = _
    unfold execCopyResume
    dsimp only
    rw [hrun]
    dsimp only
    rw [if_pos hp, hnone]
  obtain ⟨hunit, hmem⟩ := resume_eq (s := s) (c := s.arg.c) (u := s.arg.u) fun x => { x with run := some { r with pause := none, slack := 0 } }
  exact ⟨_, { r with pause := none, slack := 0 }, hexec, by rw [hunit], rfl, rfl, hmem⟩

theorem copyResume_overtakes {s : State} {r q : CopyRun} (hrun : ((s.core.get s.arg.c).unit s.arg.u).run = some r) (hp : r.paused = true)
    (hover : pauseOver s s.arg.c s.arg.u r = false)
    (hside : ((s.core.get s.arg.c).unit s.arg.u).side.find? (fun e => e.paused && pauseOver s s.arg.c s.arg.u e) = some q) :
    ∃ t, exec .copyResume s = .next t ∧ ((t.core.get s.arg.c).unit s.arg.u).run = some { q with pause := none, slack := 0 } ∧
      r ∈ ((t.core.get s.arg.c).unit s.arg.u).side ∧ t.mem = s.mem := by
  let f (x : CopyUnit) : CopyUnit :=
    { x with run := some { q with pause := none, slack := 0 }, side := (x.side.filter fun e => e.cmd.id != q.cmd.id) ++ [r] }
  have hexec : exec .copyResume s = .next (nextPiece s.arg.c s.arg.u 0 (s.modC s.arg.c fun k => k.setUnit s.arg.u f)) := by
    have hfind : ((s.core.get s.arg.c).unit s.arg.u).side.find? (fun q => q.paused && pauseOver s s.arg.c s.arg.u q &&
        !pauseOver s s.arg.c s.arg.u r) = some q := by
      rw [hover]
      simp only [Bool.not_false, Bool.and_true]
      exact hside
    show execCopyResume s = _
    unfold execCopyResume
    dsimp only
    rw [hrun]
    dsimp only
    rw [if_pos hp, hfind]
  obtain ⟨hunit, hmem⟩ := resume_eq (s := s) (c := s.arg.c) (u := s.arg.u) f
  exact ⟨_, hexec, by rw [hunit], by rw [hunit]; exact List.mem_append_right _ List.mem_cons_self, hmem⟩

theorem copyResume_takes {s : State} {q : CopyRun} (hrun : ((s.core.get s.arg.c).unit s.arg.u).run = none)
    (hside : ((s.core.get s.arg.c).unit s.arg.u).side.find? (fun e => e.paused && pauseOver s s.arg.c s.arg.u e) = some q) :
    ∃ t, exec .copyResume s = .next t ∧ ((t.core.get s.arg.c).unit s.arg.u).run = some { q with pause := none, slack := 0 } ∧
      (∀ e ∈ ((t.core.get s.arg.c).unit s.arg.u).side, e.cmd.id ≠ q.cmd.id) ∧ t.mem = s.mem := by
  let f (x : CopyUnit) : CopyUnit :=
    { x with run := some { q with pause := none, slack := 0 }, side := x.side.filter fun e => e.cmd.id != q.cmd.id }
  have hexec : exec .copyResume s = .next (nextPiece s.arg.c s.arg.u 0 (s.modC s.arg.c fun k => k.setUnit s.arg.u f)) := by
    show execCopyResume s = _
    unfold execCopyResume
    dsimp only
    rw [hrun]
    dsimp only
    rw [hside]
  obtain ⟨hunit, hmem⟩ := resume_eq (s := s) (c := s.arg.c) (u := s.arg.u) f
  refine ⟨_, hexec, by rw [hunit], fun e he => ?_, hmem⟩
  rw [hunit] at he
  exact bne_iff_ne.1 (List.mem_filter.1 he).2

theorem slackExpire_expires (s : State) :
    ∃ t, exec .slackExpire s = .next t ∧ (∀ r ∈ ((t.core.get s.arg.c).unit s.arg.u).side, r.paused = true → r.cmd.id = s.arg.id →
      r.pauses = s.arg.n → r.slack = 0) ∧ (∀ r ∈ ((s.core.get s.arg.c).unit s.arg.u).side, r.cmd.id ≠ s.arg.id ∨ r.pauses ≠ s.arg.n →
      r ∈ ((t.core.get s.arg.c).unit s.arg.u).side) ∧ t.mem = s.mem := by
  let g (r : CopyRun) : CopyRun := if r.paused ∧ r.cmd.id = s.arg.id ∧ r.pauses = s.arg.n then { r with slack := 0 } else r
  let t := s.modC s.arg.c fun k => k.setUnit s.arg.u fun x => { x with side := x.side.map g }
  have hunit : ((t.core.get s.arg.c).unit s.arg.u).side = ((s.core.get s.arg.c).unit s.arg.u).side.map g :=
    congrArg CopyUnit.side (unit_modC ..)
  refine ⟨t, rfl, fun r hr hp hid hn => ?_, fun r hr hne => ?_, rfl⟩
  · rw [hunit] at hr
    obtain ⟨q, -, hq⟩ := List.mem_map.1 hr
    by_cases h : q.paused ∧ q.cmd.id = s.arg.id ∧ q.pauses = s.arg.n
    · rw [← hq, show g q = _ from if_pos h]
    · rw [show g q = q from if_neg h] at hq
      subst hq
      exact absurd ⟨hp, hid, hn⟩ h
  · rw [hunit]
    refine List.mem_map.2 ⟨r, hr, if_neg fun h => ?_⟩
    rcases hne with hne | hne
    · exact hne h.2.1
    · exact hne h.2.2

/-! Pages (R198). -/

theorem noPage_frame (c : CoreId) (va : Nat) (ro : Bool) (badr dtl : W64) (s : State) (u : Bool) :
    (noPage c va ro badr dtl s).mem = s.mem ∧ ((noPage c va ro badr dtl s).core.get c).unit u = (s.core.get c).unit u := by
  unfold noPage
  split
  · exact ⟨rfl, by rw [State.modC_get]; rfl⟩
  · exact ⟨rfl, rfl⟩

theorem noPage_faults {c : CoreId} {va l e : Nat} {badr dtl : W64} {s : State} (hleaf : noLeaf s c va = false)
    (hwalk : walkVa s (islOf c) (s.core.get c).ctx va = .fault l e) (hx : (s.core.get c).xlTrap = none) :
    ((noPage c va false badr dtl s).core.get c).xlTrap = some (BitVec.ofNat 64 va, l) ∧ (noPage c va false badr dtl s).isl = s.isl := by
  unfold noPage
  rw [hleaf, hwalk]
  refine ⟨?_, rfl⟩
  show ((s.modC c _).core.get c).xlTrap = _
  rw [State.modC_get, hx]
  rfl

theorem noPage_records {c : CoreId} {va : Nat} {badr dtl : W64} {s : State}
    (h : noLeaf s c va = true ∨ ∀ l e, walkVa s (islOf c) (s.core.get c).ctx va ≠ .fault l e) :
    ((noPage c va false badr dtl s).isl.get (islOf c)).waiting.length = (s.isl.get (islOf c)).waiting.length + 1 := by
  have hsend : noPage c va false badr dtl s = eventRec c 0x33 badr (BitVec.ofNat 64 va) dtl s := by
    unfold noPage
    split
    next l e hm =>
      rcases h with h | h
      · rw [h] at hm
        exact absurd hm nofun
      · by_cases hl : noLeaf s c va = true
        · rw [hl] at hm
          exact absurd hm nofun
        · rw [Bool.eq_false_iff.2 hl] at hm
          exact absurd (Option.some.inj hm) (h l e)
    · rfl
  rw [hsend]
  unfold eventRec
  rw [sendRec_waiting, List.length_append]
  rfl

/-- A page that one side of a copy goes on with (R198). -/
def Usable (s : State) (c : CoreId) (u : Bool) (sp va : Nat) (wr : Bool) (old new : Option (Nat × Nat × Nat)) : Prop :=
  (sp ≠ 0 ∧ new = none) ∨ (sp = 0 ∧ (heldAt old va).isSome = true ∧ new = old) ∨
    (sp = 0 ∧ heldAt old va = none ∧ (∃ p e, copyPage s c u va wr = .inl (p, e) ∧ new = some p) ∧ (heldAt new va).any s.biasHeld = false)

/-- The translation of one side, as a crossing takes it up. -/
def pageSide (s : State) (c : CoreId) (u : Bool) (sp va : Nat) (wr : Bool) (old : Option (Nat × Nat × Nat)) :
    (Option (Nat × Nat × Nat) × Option Xlat) ⊕ Bool :=
  if sp ≠ 0 then .inl (none, none)
  else if (heldAt old va).isSome then .inl (old, none)
  else match copyPage s c u va wr with
    | .inl p => .inl (some p.1, p.2)
    | .inr b => .inr b

theorem pageSide_usable {s : State} {c : CoreId} {u : Bool} {sp va : Nat} {wr : Bool} {old new : Option (Nat × Nat × Nat)}
    (h : Usable s c u sp va wr old new) : ∃ x, pageSide s c u sp va wr old = .inl (new, x) ∧
      (old != new && (heldAt new va).any s.biasHeld) = false := by
  unfold pageSide
  rcases h with ⟨hsp, hnew⟩ | ⟨hsp, hheld, hnew⟩ | ⟨hsp, hold, ⟨p, e, hpage, hnew⟩, hbias⟩
  · rw [if_pos hsp, hnew]
    exact ⟨none, rfl, Bool.and_false _⟩
  · rw [if_neg (not_not_intro hsp), if_pos hheld, hnew]
    exact ⟨none, rfl, by rw [bne_self_eq_false, Bool.false_and]⟩
  · rw [if_neg (not_not_intro hsp), hold, if_neg (by decide), hpage, hbias, hnew]
    exact ⟨e, rfl, Bool.and_false _⟩

theorem copyPageCrossing_eq {s : State} {r : CopyRun} (hrun : ((s.core.get s.arg.c).unit s.arg.u).run = some r) :
    let c := s.arg.c
    let u := s.arg.u
    let w := r.cmd.walk
    let sa := (w.srcAt r.x).toNat
    let da := (w.dstAt r.x).toNat
    let fail (va : Nat) (ro : Bool) : State :=
      pauseCopy c u r (.page (BitVec.ofNat 64 va)) 0 (noPage c va ro r.cmd.badr (BitVec.ofNat 64 (u.toNat + 2 * ro.toNat)) s)
    exec .copyPageCrossing s = match pageSide s c u (baseSp w.src) sa false r.srcPg, pageSide s c u (baseSp w.dst) da true r.dstPg with
      | .inl (p, px), .inl (q, qx) =>
        let held (o p : Option (Nat × Nat × Nat)) (va : Nat) : Bool := o != p && (heldAt p va).any s.biasHeld
        if held r.srcPg p sa || held r.dstPg q da then .next (nextPiece c u 1 s)
        else
          let new (o p : Option (Nat × Nat × Nat)) (t : Option Xlat) (x : BitVec 2 × Bool) : BitVec 2 × Bool := if o = p then x else pageX s c t
          let r1 := { r with srcPg := p, dstPg := q, srcX := new r.srcPg p px r.srcX, dstX := new r.dstPg q qx r.dstX, asked := [] }
          let (e, s1) := (keepCopyXlat c u qx (keepCopyXlat c u px (s.modC c fun k => k.setUnit u fun x => { x with run := some r1 }))).pick
          .next (nextPiece c u e (readEarly c u s1))
      | .inr _, _ => .next (fail sa false)
      | _, .inr b => .next (fail da b) := by
  show execCopyPageCrossing s = _
  unfold execCopyPageCrossing
  dsimp only
  rw [hrun] <;> rfl

theorem keepCopyXlat_frame (c : CoreId) (u : Bool) (x : Option Xlat) (s : State) : (keepCopyXlat c u x s).mem = s.mem ∧
    (((keepCopyXlat c u x s).core.get c).unit u).run = ((s.core.get c).unit u).run := by
  unfold keepCopyXlat
  split
  · exact ⟨rfl, rfl⟩
  · refine ⟨rfl, ?_⟩
    rw [unit_modC]
    rfl

theorem copyPageCrossing_goes {s : State} {r : CopyRun} {p q : Option (Nat × Nat × Nat)}
    (hrun : ((s.core.get s.arg.c).unit s.arg.u).run = some r)
    (hp : Usable s s.arg.c s.arg.u (baseSp r.cmd.walk.src) (r.cmd.walk.srcAt r.x).toNat false r.srcPg p)
    (hq : Usable s s.arg.c s.arg.u (baseSp r.cmd.walk.dst) (r.cmd.walk.dstAt r.x).toNat true r.dstPg q) :
    ∃ t v, exec .copyPageCrossing s = .next t ∧ ((t.core.get s.arg.c).unit s.arg.u).run = some v ∧ v.cmd = r.cmd ∧ v.x = r.x ∧
      v.pause = r.pause ∧ v.srcPg = p ∧ v.dstPg = q ∧ t.has (.piece s.arg.c s.arg.u) = true ∧ t.mem = s.mem := by
  obtain ⟨px, hpx, hpb⟩ := pageSide_usable hp
  obtain ⟨qx, hqx, hqb⟩ := pageSide_usable hq
  have hexec := copyPageCrossing_eq hrun
  dsimp only at hexec
  rw [hpx, hqx] at hexec
  dsimp only at hexec
  rw [if_neg (by rw [hpb, hqb]; decide)] at hexec
  generalize hr1 : ({ r with srcPg := p, dstPg := q, srcX := _, dstX := _, asked := [] } : CopyRun) = r1 at hexec
  generalize hs1 : keepCopyXlat s.arg.c s.arg.u qx (keepCopyXlat s.arg.c s.arg.u px
    (s.modC s.arg.c fun k => k.setUnit s.arg.u fun x => { x with run := some r1 })) = s1 at hexec
  have hs1mem : s1.mem = s.mem := by
    rw [← hs1, (keepCopyXlat_frame ..).1, (keepCopyXlat_frame ..).1]
    rfl
  have hs1run : ((s1.core.get s.arg.c).unit s.arg.u).run = some r1 := by
    rw [← hs1, (keepCopyXlat_frame ..).2, (keepCopyXlat_frame ..).2, unit_modC]
  obtain ⟨v, hv⟩ := readEarly_unit (s := s1.pick.2) hs1run
  obtain ⟨hc, hm, -, hhas⟩ := nextPiece_frame s.arg.c s.arg.u s1.pick.1 (readEarly s.arg.c s.arg.u s1.pick.2)
  refine ⟨_, { r1 with part := v }, hexec, by rw [hc, hv], ?_⟩
  rw [← hr1]
  exact ⟨rfl, rfl, rfl, rfl, rfl, hhas, hm.trans ((readEarly_mem ..).trans hs1mem)⟩

theorem copyPageCrossing_pauses {s : State} {r : CopyRun} {b : Bool} (hrun : ((s.core.get s.arg.c).unit s.arg.u).run = some r)
    (hsp : baseSp r.cmd.walk.src = 0) (hheld : heldAt r.srcPg (r.cmd.walk.srcAt r.x).toNat = none)
    (hpage : copyPage s s.arg.c s.arg.u (r.cmd.walk.srcAt r.x).toNat false = .inr b) :
    let c := s.arg.c
    let u := s.arg.u
    let va := (r.cmd.walk.srcAt r.x).toNat
    ∃ t q, exec .copyPageCrossing s = .next t ∧ ((t.core.get c).unit u).run = some q ∧ q.paused = true ∧ q.x = r.x ∧ t.mem = s.mem ∧
      (∀ l e, noLeaf s c va = false → walkVa s (islOf c) (s.core.get c).ctx va = .fault l e → (s.core.get c).xlTrap = none →
        (t.core.get c).xlTrap = some (BitVec.ofNat 64 va, l) ∧ t.isl = s.isl) ∧
      ((noLeaf s c va = true ∨ ∀ l e, walkVa s (islOf c) (s.core.get c).ctx va ≠ .fault l e) →
        (t.isl.get (islOf c)).waiting.length = (s.isl.get (islOf c)).waiting.length + 1) := by
  intro c u va
  have hside : pageSide s c u (baseSp r.cmd.walk.src) va false r.srcPg = .inr b := by
    unfold pageSide
    rw [if_neg (not_not_intro hsp), hheld, if_neg (by decide), hpage]
  let s1 := noPage c va false r.cmd.badr (BitVec.ofNat 64 (u.toNat + 2 * false.toNat)) s
  let r1 : CopyRun := { r with pause := some (.page (BitVec.ofNat 64 va)), slack := 0, pauses := r.pauses + 1 }
  let s2 := s1.modC c fun k => k.setUnit u fun x => { x with run := some r1 }
  have hexec : exec .copyPageCrossing s = .next (nextPiece c u 1 s2) := by
    rw [copyPageCrossing_eq hrun, hside]
    rfl
  obtain ⟨hc, hm, hi, -⟩ := nextPiece_frame c u 1 s2
  obtain ⟨hmem, -⟩ := noPage_frame c va false r.cmd.badr (BitVec.ofNat 64 (u.toNat + 2 * false.toNat)) s u
  refine ⟨_, r1, hexec, ?_, rfl, rfl, hm.trans hmem, fun l e hleaf hwalk hx => ?_, fun h => ?_⟩
  · rw [hc, unit_modC]
  · obtain ⟨hx1, hi1⟩ := noPage_faults (badr := r.cmd.badr) (dtl := BitVec.ofNat 64 (u.toNat + 2 * false.toNat)) hleaf hwalk hx
    refine ⟨?_, hi.trans hi1⟩
    rw [hc, State.modC_get s1 c _]
    have hkeep (k : CoreSt) (f : CopyUnit → CopyUnit) : (k.setUnit u f).xlTrap = k.xlTrap := by
      cases u
      · rfl
      · rfl
    rw [hkeep]
    exact hx1
  · rw [hi]
    exact noPage_records h

/-! COPY_COMPLETE (R200). -/

theorem leaveRing_frame (k : CoreSt) (q : BitVec 4) : (leaveRing k q).tok = k.tok ∧ (leaveRing k q).cpc = k.cpc ∧ (leaveRing k q).bus = k.bus ∧
    (leaveRing k q).tele = k.tele ∧ ∀ u, (leaveRing k q).unit u = k.unit u := by
  unfold leaveRing
  split
  · exact ⟨rfl, rfl, rfl, rfl, fun _ => rfl⟩
  · exact ⟨rfl, rfl, rfl, rfl, fun _ => rfl⟩

theorem complete_frame (k : CoreSt) (t : BitVec 6) (g : Nat) : (k.complete t g).cpc = k.cpc ∧ (k.complete t g).bus = k.bus ∧
    (k.complete t g).tele = k.tele ∧ ∀ u, (k.complete t g).unit u = k.unit u := by
  unfold CoreSt.complete
  split
  · exact ⟨rfl, rfl, rfl, fun _ => rfl⟩
  · dsimp only
    split
    · exact ⟨rfl, rfl, rfl, fun _ => rfl⟩
    · exact ⟨rfl, rfl, rfl, fun _ => rfl⟩

theorem setUnit_frame (k : CoreSt) (u : Bool) (f : CopyUnit → CopyUnit) : (k.setUnit u f).cpc = k.cpc ∧ (k.setUnit u f).tok = k.tok := by
  cases u
  · exact ⟨rfl, rfl⟩
  · exact ⟨rfl, rfl⟩

/-- A core whose operation has left a ring and completed its token. -/
def released (k : CoreSt) (q : BitVec 4) (t : BitVec 6) (g : Nat) : CoreSt :=
  { (leaveRing k q).complete t g with cpc := ((leaveRing k q).complete t g).cpc - 1 }

theorem released_frame (k : CoreSt) (q : BitVec 4) (t : BitVec 6) (g : Nat) : (released k q t g).cpc = k.cpc - 1 ∧
    (released k q t g).bus = k.bus ∧ (released k q t g).tele = k.tele ∧ ∀ u, (released k q t g).unit u = k.unit u := by
  obtain ⟨-, hc, hb, ht, hu⟩ := leaveRing_frame k q
  obtain ⟨hc', hb', ht', hu'⟩ := complete_frame (leaveRing k q) t g
  exact ⟨congrArg (· - 1) (hc'.trans hc), hb'.trans hb, ht'.trans ht, fun u => (hu' u).trans (hu u)⟩

theorem released_token {k : CoreSt} (q : BitVec 4) {t : BitVec 6} {g : Nat} (ht : t ≠ 0) (hg : (k.tok[t.toNat]'t.isLt).gen = g) :
    (released k q t g).tokPending t = false := by
  have h : (((leaveRing k q).tok)[t.toNat]'t.isLt).gen = g := by
    have htok : (leaveRing k q).tok = k.tok := (leaveRing_frame k q).1
    rw [htok]
    exact hg
  exact CoreSt.tokPending_complete (leaveRing k q) ht h

theorem copyComplete_completes {s : State} {r : CopyRun}
    (h : ((s.core.get s.arg.c).unit s.arg.u).side.find? (fun r => r.cmd.id == s.arg.id) = some r) : ∃ t, exec .copyComplete s = .next t ∧
      (t.core.get s.arg.c).cpc = (s.core.get s.arg.c).cpc - 1 ∧ (∀ q ∈ ((t.core.get s.arg.c).unit s.arg.u).side, q.cmd.id ≠ s.arg.id) ∧
      (r.cmd.tok ≠ 0 → ((s.core.get s.arg.c).tok[r.cmd.tok.toNat]'r.cmd.tok.isLt).gen = r.cmd.gen →
        (t.core.get s.arg.c).tokPending r.cmd.tok = false) ∧ t.mem = s.mem := by
  let f (x : CopyUnit) : CopyUnit := { x with side := x.side.filter fun e => e.cmd.id != r.cmd.id }
  let t := s.modC s.arg.c fun k => (released k r.cmd.ring r.cmd.tok r.cmd.gen).setUnit s.arg.u f
  have hexec : exec .copyComplete s = .next t := by
    show execCopyComplete s = _
    unfold execCopyComplete
    dsimp only
    rw [h]
    rfl
  have hcore : t.core.get s.arg.c = (released (s.core.get s.arg.c) r.cmd.ring r.cmd.tok r.cmd.gen).setUnit s.arg.u f := State.modC_get s s.arg.c _
  obtain ⟨hcpc, -, -, hunit⟩ := released_frame (s.core.get s.arg.c) r.cmd.ring r.cmd.tok r.cmd.gen
  obtain ⟨hc, htok⟩ := setUnit_frame (released (s.core.get s.arg.c) r.cmd.ring r.cmd.tok r.cmd.gen) s.arg.u f
  have hid : r.cmd.id = s.arg.id := beq_iff_eq.1 (List.find?_some h :)
  refine ⟨t, hexec, by rw [hcore, hc, hcpc], fun q hq => ?_, fun ht hg => ?_, rfl⟩
  · rw [hcore, unit_setUnit, ← hid] at *
    exact bne_iff_ne.1 (List.mem_filter.1 hq).2
  · have hpend : (t.core.get s.arg.c).tokPending r.cmd.tok = (released (s.core.get s.arg.c) r.cmd.ring r.cmd.tok r.cmd.gen).tokPending r.cmd.tok := by
      rw [hcore, CoreSt.tokPending, CoreSt.tokPending, htok]
    rw [hpend]
    exact released_token _ ht hg

/-! The broadcast bus (R206 to R208). -/

/-- The telemetry counters of no core differ. -/
def TeleKept (s t : State) : Prop := ∀ d, (t.core.get d).tele = (s.core.get d).tele

theorem TeleKept.refl (s : State) : TeleKept s s := fun _ => rfl

theorem TeleKept.trans {s t u : State} (h : TeleKept s t) (h' : TeleKept t u) : TeleKept s u := fun d => (h' d).trans (h d)

theorem TeleKept.of_core {s t : State} (h : t.core = s.core) : TeleKept s t := fun _ => by rw [h]

theorem TeleKept.modC (s : State) (c : CoreId) {f : CoreSt → CoreSt} (hf : ∀ k, (f k).tele = k.tele) : TeleKept s (s.modC c f) := fun d => by
  rw [State.modC_get_if s f c d]
  split
  · exact hf _
  · rfl

theorem TeleKept.foldl {α : Type} {f : State → α → State} (hf : ∀ s x, TeleKept s (f s x)) (l : List α) (s : State) : TeleKept s (l.foldl f s) := by
  induction l generalizing s with
  | nil => exact .refl s
  | cons x l ih => exact (hf s x).trans (ih _)

theorem creditRing_frame (c : CoreId) (q : BitVec 4) (ps : List Nat) (s : State) : (creditRing c q ps s).mem = s.mem ∧
    TeleKept s (creditRing c q ps s) := by
  unfold creditRing
  split
  · exact ⟨rfl, .refl s⟩
  · exact ⟨rfl, .modC s c fun _ => rfl⟩

/-- A ring with the arrivals of some stream positions (R203). -/
def credited (ps : List Nat) (g : Ring) : Ring :=
  ps.foldl (fun g p => { g with arrived := tmod 0 g.arrived (p / g.target % g.slots) (· + 1) }) g

theorem credited_arrived (ps : List Nat) : ∀ (g : Ring) (sl : Nat), tget 0 (credited ps g).arrived sl =
    tget 0 g.arrived sl + ps.countP fun p => p / g.target % g.slots == sl := by
  induction ps with
  | nil => exact fun g sl => rfl
  | cons p ps ih =>
    intro g sl
    show tget 0 (credited ps { g with arrived := tmod 0 g.arrived (p / g.target % g.slots) (· + 1) }).arrived sl = _
    rw [ih, List.countP_cons]
    dsimp only
    by_cases h : sl = p / g.target % g.slots
    · rw [← h, tget_tmod_self, beq_self_eq_true, if_pos rfl]
      omega
    · rw [tget_tmod_ne _ _ _ h, if_neg fun he => h (beq_iff_eq.1 he).symm]
      rfl

theorem creditRing_ring (c : CoreId) {q : BitVec 4} (ps : List Nat) (s : State) (hq : q ≠ 0) :
    ((creditRing c q ps s).core.get c).getRing q = credited ps ((s.core.get c).getRing q) := by
  unfold creditRing
  rw [if_neg hq, State.modC_get]
  exact Vector.getElem_set_self ..

theorem latchLag_frame (c : CoreId) (o : BusOp) (b : Nat) (s : State) : (latchLag c o b s).mem = s.mem ∧ TeleKept s (latchLag c o b s) ∧
    ∀ d q, ((latchLag c o b s).core.get d).getRing q = (s.core.get d).getRing q := by
  unfold latchLag
  dsimp only
  split
  · exact ⟨rfl, .refl s, fun _ _ => rfl⟩
  · refine ⟨rfl, .modC s.pick.2 c fun _ => rfl, fun d q => ?_⟩
    rw [State.modC_get_if s.pick.2 _ c d]
    split
    · rfl
    · rfl

theorem teleKept_latchBeat (d : CoreId) (q : BusOp) (m : Nat) (cells : List (Host.Cell × Option Nat)) (s : State) :
    TeleKept s (latchBeat d q m cells s) := by
  unfold latchBeat
  dsimp only
  split
  · exact .modC s d fun _ => rfl
  · have h : TeleKept s (markWritten cells { s with mem := memWrs s.mem (cells.map (·.1)) }) :=
      .of_core (markWritten_frame cells { s with mem := memWrs s.mem (cells.map (·.1)) }).2.1
    exact (h.trans (creditRing_frame ..).2).trans (latchLag_frame ..).2.1

/-- A core that an operation of the bus has left. -/
def busLeft (o : BusOp) (k : CoreSt) : CoreSt :=
  { released k o.ring o.tok o.gen with bus := (released k o.ring o.tok o.gen).bus.filter (·.id != o.id) }

theorem busLeft_frame (o : BusOp) (k : CoreSt) : (busLeft o k).bus = k.bus.filter (·.id != o.id) ∧ (busLeft o k).cpc = k.cpc - 1 ∧
    (busLeft o k).tele = k.tele ∧ (o.tok ≠ 0 → (k.tok[o.tok.toNat]'o.tok.isLt).gen = o.gen → (busLeft o k).tokPending o.tok = false) := by
  obtain ⟨hc, hb, ht, -⟩ := released_frame k o.ring o.tok o.gen
  exact ⟨by rw [← hb]; rfl, hc, ht, fun hne hg => released_token o.ring hne hg⟩

theorem endBus_eq {c : CoreId} {id : Nat} {s : State} {o : BusOp} (h : (s.core.get c).bus.find? (·.id == id) = some o) :
    endBus c id s = s.modC c (busLeft o) := by
  have hid : o.id = id := beq_iff_eq.1 (List.find?_some h :)
  unfold endBus
  rw [h, ← hid]
  rfl

theorem endBus_frame (c : CoreId) (id : Nat) (s : State) : (endBus c id s).mem = s.mem ∧ TeleKept s (endBus c id s) ∧
    ∀ d, d ≠ c → (endBus c id s).core.get d = s.core.get d := by
  cases h : (s.core.get c).bus.find? (·.id == id) with
  | none =>
    have he : endBus c id s = s := by
      unfold endBus
      rw [h]
    rw [he]
    exact ⟨rfl, .refl s, fun _ _ => rfl⟩
  | some o =>
    rw [endBus_eq h]
    exact ⟨rfl, .modC s c fun k => (busLeft_frame o k).2.2.1, fun d hd => State.modC_get_ne s _ hd⟩

/-! What a beat does, part by part. -/

/-- Beats of the channel at this tick, of its drivers or of its open windows. -/
def beatsOf (s : State) (drive : Bool) : List (CoreId × BusOp × Nat) := (coreIds.filter fun c => islOf c == s.arg.y).flatMap fun c =>
  (s.core.get c).bus.filterMap fun o => if o.drive = drive ∧ o.ch.toNat = s.arg.k then (o.beat s.tick).map fun b => (c, o, b) else none

/-- The state in which the beats that are lost have been counted. -/
def collided (s : State) : State := ((beatsOf s true).drop 1).foldl (fun s e => s.modC e.1 fun k => k.count 15 1) s

/-- What a window takes of a driver's beat: the places of its walk, and the bytes with their errors. -/
def beatCells (s t : State) (c : CoreId) (o : BusOp) (b : Nat) (d : CoreId) (q : BusOp) (m : Nat) : List (Host.Cell × Option Nat) :=
  (List.zip (List.range 64) ((List.range 64).map fun i => memRd s.mem (o.key s c (64 * b + i)))).map fun v =>
    ((q.key t d (64 * m + v.1), v.2), s.badUnit s.arg.y (o.key s c (64 * b + v.1)) 1)

/-- The state in which the windows have latched a driver's beat. -/
def latched (s : State) (c : CoreId) (o : BusOp) (b : Nat) (s1 : State) : State :=
  (beatsOf s false).foldl (fun t e =>
      if !(t.core.get e.1).depsReady e.2.1.deps then t else latchBeat e.1 e.2.1 e.2.2 (beatCells s t c o b e.1 e.2.1 e.2.2) t)
    (if s.dev.errs.isEmpty then s1 else reachKeys s.arg.y ((List.range 64).map fun i => o.key s c (64 * b + i)) s1)

/-- The state in which the beat of the first driver, if its bytes have been read, has gone out. -/
def goneOut (s s1 : State) : State :=
  match beatsOf s true with
  | [] => s1
  | (c, o, b) :: _ => if !(beatReady c o b s1).1 then (beatReady c o b s1).2 else latched s c o b (beatReady c o b s1).2

def lastBeat (e : CoreId × BusOp × Nat) : Bool := e.2.2 + 1 == e.2.1.total / 64

/-- The state in which the windows that have had their last beat close. -/
def windowsClosed (s s2 : State) : State := ((beatsOf s false).filter lastBeat).foldl (fun s e =>
  s.after (2 * (s.core.get e.1).div.cpy) (.ev .bclatComplete { argCI e.1 e.2.1.id with u := e.2.1.seq % 8 == 5 })) s2

/-- The state in which the drivers that have sent their last beat are complete. -/
def driversDone (s s3 : State) : State := ((beatsOf s true).filter lastBeat).foldl (fun s e => endBus e.1 e.2.1.id s) s3

theorem broadcastBeat_eq (s : State) : exec .broadcastBeat s = .next (driversDone s (windowsClosed s (goneOut s (collided s)))) := by
  show execBroadcastBeat s = _
  unfold execBroadcastBeat driversDone windowsClosed goneOut latched collided beatCells beatsOf lastBeat
  generalize List.range 64 = l
  dsimp only <;> rfl

theorem beatReady_frame (c : CoreId) (o : BusOp) (b : Nat) (s : State) : (beatReady c o b s).2 = s ∨ (beatReady c o b s).2 = s.pick.2 := by
  unfold beatReady
  split
  · exact .inl rfl
  · split
    · exact .inl rfl
    · exact .inr rfl

theorem teleKept_goneOut (s s1 : State) : TeleKept s1 (goneOut s s1) := by
  have hready (c : CoreId) (o : BusOp) (b : Nat) : TeleKept s1 (beatReady c o b s1).2 := by
    rcases beatReady_frame c o b s1 with h | h
    · rw [h]
      exact .refl s1
    · rw [h]
      exact .of_core rfl
  unfold goneOut
  split
  · exact .refl s1
  next c o b _ _ =>
    split
    · exact hready c o b
    · refine (hready c o b).trans ?_
      generalize (beatReady c o b s1).2 = s2
      unfold latched
      have hreach : TeleKept s2 (if s.dev.errs.isEmpty then s2 else
          reachKeys s.arg.y ((List.range 64).map fun i => o.key s c (64 * b + i)) s2) := by
        split
        · exact .refl s2
        · exact fun d => by
            obtain ⟨l, hl⟩ := (fetches_reachKeys s.arg.y ((List.range 64).map fun i => o.key s c (64 * b + i)) s2).2 d
            rw [hl]
      refine hreach.trans (.foldl (fun t e => ?_) _ _)
      split
      · exact .refl t
      · exact teleKept_latchBeat _ _ _ _ t

theorem teleKept_windowsClosed (s t : State) : TeleKept t (windowsClosed s t) := by
  unfold windowsClosed
  refine TeleKept.foldl (fun s e => ?_) _ _
  exact .of_core rfl

theorem teleKept_driversDone (s t : State) : TeleKept t (driversDone s t) := by
  unfold driversDone
  refine TeleKept.foldl (fun s e => ?_) _ _
  exact (endBus_frame e.1 e.2.1.id s).2.1

theorem broadcastBeat_tele (s : State) : ∃ t, exec .broadcastBeat s = .next t ∧ TeleKept (collided s) t :=
  ⟨_, broadcastBeat_eq s, ((teleKept_goneOut s (collided s)).trans (teleKept_windowsClosed s _)).trans (teleKept_driversDone s _)⟩

/-! Collisions (R206). -/

theorem mem_beatsOf {s : State} {drive : Bool} {c : CoreId} {o : BusOp} {b : Nat} : (c, o, b) ∈ beatsOf s drive ↔
    islOf c = s.arg.y ∧ o ∈ (s.core.get c).bus ∧ o.drive = drive ∧ o.ch.toNat = s.arg.k ∧ o.beat s.tick = some b := by
  unfold beatsOf
  rw [List.mem_flatMap]
  constructor
  · rintro ⟨d, hd, hmem⟩
    obtain ⟨q, hq, heq⟩ := List.mem_filterMap.1 hmem
    split at heq
    next h =>
      obtain ⟨e, he, hce⟩ := Option.map_eq_some_iff.1 heq
      rw [Prod.mk.injEq, Prod.mk.injEq] at hce
      obtain ⟨rfl, rfl, rfl⟩ := hce
      exact ⟨beq_iff_eq.1 (List.mem_filter.1 hd).2, hq, h.1, h.2, he⟩
    · exact absurd heq nofun
  · rintro ⟨hy, ho, hdr, hch, hb⟩
    refine ⟨c, List.mem_filter.2 ⟨mem_coreIds c, beq_iff_eq.2 hy⟩, List.mem_filterMap.2 ⟨o, ho, ?_⟩⟩
    rw [if_pos ⟨hdr, hch⟩, hb]
    rfl

theorem filter_flatMap_tag {α β : Type} [DecidableEq α] {f : α → List (α × β)} (hf : ∀ a, ∀ e ∈ f a, e.1 = a) {c : α} : ∀ {l : List α}, l.Nodup → c ∈ l →
    (l.flatMap f).filter (·.1 == c) = f c := by
  have hother (a : α) (h : a ≠ c) : (f a).filter (·.1 == c) = [] := by
    rw [List.filter_eq_nil_iff]
    intro e he hc
    exact h ((hf a e he).symm.trans (beq_iff_eq.1 hc))
  have hown : (f c).filter (·.1 == c) = f c := List.filter_eq_self.2 fun e he => beq_iff_eq.2 (hf c e he)
  have hnone (l : List α) (h : c ∉ l) : (l.flatMap f).filter (·.1 == c) = [] := by
    rw [List.filter_eq_nil_iff]
    intro e he hc
    obtain ⟨a, ha, hea⟩ := List.mem_flatMap.1 he
    exact h ((hf a e hea).symm.trans (beq_iff_eq.1 hc) ▸ ha)
  intro l
  induction l with
  | nil => exact fun _ h => absurd h List.not_mem_nil
  | cons a l ih =>
    intro hn hc
    obtain ⟨ha, hl⟩ := List.nodup_cons.1 hn
    rw [List.flatMap_cons, List.filter_append]
    by_cases h : a = c
    · subst h
      rw [hown, hnone l ha, List.append_nil]
    · rw [hother a h, ih hl ((List.mem_cons.1 hc).resolve_left fun hca => h hca.symm), List.nil_append]

/-- The beats of one core, which has one operation on the bus. -/
theorem beatsOf_core {s : State} {c : CoreId} {o : BusOp} {b : Nat} (hy : islOf c = s.arg.y) (hbus : (s.core.get c).bus = [o])
    (hch : o.ch.toNat = s.arg.k) (hb : o.beat s.tick = some b) : (beatsOf s o.drive).filter (·.1 == c) = [(c, o, b)] := by
  unfold beatsOf
  rw [filter_flatMap_tag (fun a e he => ?_) (coreIds_nodup.filter fun c => islOf c == s.arg.y)
    (List.mem_filter.2 ⟨mem_coreIds c, beq_iff_eq.2 hy⟩), hbus]
  · rw [List.filterMap_cons, if_pos ⟨rfl, hch⟩, hb]
    rfl
  · obtain ⟨q, -, heq⟩ := List.mem_filterMap.1 he
    split at heq
    · obtain ⟨b, -, hce⟩ := Option.map_eq_some_iff.1 heq
      exact (congrArg Prod.fst hce).symm
    · exact absurd heq nofun

/-- The channel has one beat: that of the only core with an operation for it. -/
theorem beatsOf_single {s : State} {c : CoreId} {o : BusOp} {b : Nat} (hy : islOf c = s.arg.y) (hbus : (s.core.get c).bus = [o])
    (hch : o.ch.toNat = s.arg.k) (hb : o.beat s.tick = some b) (hrest : ∀ e ∈ beatsOf s o.drive, e.1 = c) : beatsOf s o.drive = [(c, o, b)] := by
  rw [← beatsOf_core hy hbus hch hb, eq_comm, List.filter_eq_self]
  exact fun e he => beq_iff_eq.2 (hrest e he)

theorem broadcastBeat_alone {s : State} {c : CoreId} {o : BusOp} {b : Nat} (hbus : (s.core.get c).bus = [o]) (hy : islOf c = s.arg.y)
    (hdr : o.drive = true) (hch : o.ch.toNat = s.arg.k) (hb : o.beat s.tick = some b)
    (hother : ∀ d, d ≠ c → islOf d = s.arg.y → ∀ q ∈ (s.core.get d).bus, q.drive = true → q.ch.toNat ≠ s.arg.k) :
    ∃ t, exec .broadcastBeat s = .next t ∧ ∀ d, tget 0 (t.core.get d).tele 15 = tget 0 (s.core.get d).tele 15 := by
  obtain ⟨t, hexec, ht⟩ := broadcastBeat_tele s
  have hone : beatsOf s true = [(c, o, b)] := by
    rw [← hdr]
    refine beatsOf_single hy hbus hch hb fun e he => ?_
    obtain ⟨d, q, m⟩ := e
    obtain ⟨hyd, hq, hqd, hqc, -⟩ := mem_beatsOf.1 he
    by_contra hne
    exact hother d hne hyd q hq (hqd.trans hdr) hqc
  have hcoll : collided s = s := by
    unfold collided
    rw [hone]
    rfl
  exact ⟨t, hexec, fun d => by rw [ht d, hcoll]⟩

theorem count_tele (k : CoreSt) (i n : Nat) : tget 0 (k.count i n).tele i = (tget 0 k.tele i + n) % 2 ^ 64 :=
  tget_tmod_self 0 k.tele i fun v => (v + n) % 2 ^ 64

/-- What counting the collisions of a list of beats does to a core: one that is not in it keeps its count, one that is in it once counts
one. -/
theorem foldl_collide {α : Type} (d : CoreId) (l : List (CoreId × α)) : ∀ s : State,
    let t := l.foldl (fun s e => s.modC e.1 fun k => k.count 15 1) s
    ((l.filter (·.1 == d)).length = 0 → tget 0 (t.core.get d).tele 15 = tget 0 (s.core.get d).tele 15) ∧
    ((l.filter (·.1 == d)).length = 1 → tget 0 (t.core.get d).tele 15 = (tget 0 (s.core.get d).tele 15 + 1) % 2 ^ 64) := by
  induction l with
  | nil => exact fun s => ⟨fun _ => rfl, nofun⟩
  | cons e l ih =>
    intro s t
    obtain ⟨h0, h1⟩ := ih (s.modC e.1 fun k => k.count 15 1)
    change _ = 0 → tget 0 (t.core.get d).tele 15 = _ at h0
    change _ = 1 → tget 0 (t.core.get d).tele 15 = _ at h1
    by_cases h : e.1 = d
    · rw [List.filter_cons, if_pos (beq_iff_eq.2 h), List.length_cons]
      refine ⟨nofun, fun hl => ?_⟩
      rw [h0 (Nat.succ_inj.1 hl), h, State.modC_get, count_tele]
    · rw [List.filter_cons, if_neg fun he => h (beq_iff_eq.1 he)]
      rw [State.modC_get_ne s _ (Ne.symm h)] at h0 h1
      exact ⟨h0, h1⟩

theorem coreIds_sorted : coreIds.Pairwise (· < ·) := List.pairwise_ofFn.2 fun _ _ h => h

theorem beatsOf_sorted (s : State) (drive : Bool) : (beatsOf s drive).Pairwise fun a b => a.1 ≤ b.1 := by
  have htag (c : CoreId) : ∀ e ∈ (s.core.get c).bus.filterMap fun o =>
      if o.drive = drive ∧ o.ch.toNat = s.arg.k then (o.beat s.tick).map fun b => (c, o, b) else none, e.1 = c := fun e he => by
    obtain ⟨q, -, heq⟩ := List.mem_filterMap.1 he
    split at heq
    · obtain ⟨b, -, hce⟩ := Option.map_eq_some_iff.1 heq
      exact (congrArg Prod.fst hce).symm
    · exact absurd heq nofun
  unfold beatsOf
  rw [List.pairwise_flatMap]
  refine ⟨fun c _ => List.pairwise_of_forall_mem_list fun a ha b hb => ?_, (coreIds_sorted.filter _).imp fun {c d} h a ha b hb => ?_⟩
  · rw [htag c a ha, htag c b hb]
  · rw [htag c a ha, htag d b hb]
    exact h.le

theorem broadcastBeat_collides {s : State} {c d : CoreId} {o q : BusOp} {b e : Nat} (hcd : c < d) (hc : islOf c = s.arg.y) (hd : islOf d = s.arg.y)
    (ho : (s.core.get c).bus = [o]) (hq : (s.core.get d).bus = [q]) (hod : o.drive = true) (hqd : q.drive = true) (hoc : o.ch.toNat = s.arg.k)
    (hqc : q.ch.toNat = s.arg.k) (hb : o.beat s.tick = some b) (he : q.beat s.tick = some e) :
    ∃ t, exec .broadcastBeat s = .next t ∧ tget 0 (t.core.get d).tele 15 = (tget 0 (s.core.get d).tele 15 + 1) % 2 ^ 64 := by
  obtain ⟨t, hexec, ht⟩ := broadcastBeat_tele s
  refine ⟨t, hexec, ?_⟩
  rw [ht d]
  refine (foldl_collide d _ s).2 ?_
  have hmine : (beatsOf s true).filter (·.1 == d) = [(d, q, e)] := by
    have h := beatsOf_core hd hq hqc he
    rwa [hqd] at h
  have hmem : (c, o, b) ∈ beatsOf s true := mem_beatsOf.2 ⟨hc, ho ▸ List.mem_singleton_self o, hod, hoc, hb⟩
  have hsorted := beatsOf_sorted s true
  generalize beatsOf s true = l at hmine hmem hsorted
  cases l with
  | nil => exact absurd hmem List.not_mem_nil
  | cons x l =>
    have hx : x.1 ≠ d := by
      intro hx
      rcases List.mem_cons.1 hmem with h | h
      · rw [← h] at hx
        exact absurd hx hcd.ne
      · have hle : x.1 ≤ c := (List.pairwise_cons.1 hsorted).1 _ h
        rw [hx] at hle
        exact absurd hcd hle.not_gt
    rw [List.filter_cons, if_neg fun h => hx (beq_iff_eq.1 h)] at hmine
    show (l.filter _).length = 1
    rw [hmine]
    rfl

/-! Latching (R207). -/

theorem beatsOf_latch {s : State} {c d : CoreId} {o q : BusOp} {b m : Nat} (hcd : c ≠ d) (hc : islOf c = s.arg.y) (hd : islOf d = s.arg.y)
    (ho : (s.core.get c).bus = [o]) (hq : (s.core.get d).bus = [q]) (hother : ∀ e, e ≠ c → e ≠ d → islOf e = s.arg.y → (s.core.get e).bus = [])
    (hod : o.drive = true) (hqd : q.drive = false) (hoc : o.ch.toNat = s.arg.k) (hqc : q.ch.toNat = s.arg.k) (hb : o.beat s.tick = some b)
    (hm : q.beat s.tick = some m) : beatsOf s true = [(c, o, b)] ∧ beatsOf s false = [(d, q, m)] := by
  have hbus {e : CoreId} {p : BusOp} (hy : islOf e = s.arg.y) (hp : p ∈ (s.core.get e).bus) : (e = c ∧ p = o) ∨ (e = d ∧ p = q) := by
    by_cases hec : e = c
    · subst hec
      rw [ho] at hp
      exact .inl ⟨rfl, List.mem_singleton.1 hp⟩
    · by_cases hed : e = d
      · subst hed
        rw [hq] at hp
        exact .inr ⟨rfl, List.mem_singleton.1 hp⟩
      · rw [hother e hec hed hy] at hp
        exact absurd hp List.not_mem_nil
  constructor
  · rw [← hod]
    refine beatsOf_single hc ho hoc hb fun e he => ?_
    obtain ⟨x, p, n⟩ := e
    obtain ⟨hy, hp, hpd, -⟩ := mem_beatsOf.1 he
    rcases hbus hy hp with ⟨hx, -⟩ | ⟨-, rfl⟩
    · exact hx
    · rw [hod, hqd] at hpd
      exact Bool.noConfusion hpd
  · rw [← hqd]
    refine beatsOf_single hd hq hqc hm fun e he => ?_
    obtain ⟨x, p, n⟩ := e
    obtain ⟨hy, hp, hpd, -⟩ := mem_beatsOf.1 he
    rcases hbus hy hp with ⟨-, rfl⟩ | ⟨hx, -⟩
    · rw [hod, hqd] at hpd
      exact Bool.noConfusion hpd
    · exact hx

theorem reachKeys_core (y : Isl) (keys : List Nat) (s : State) : (reachKeys y keys s).core = s.core := by
  unfold reachKeys
  exact foldl_keeps State.core (fun s p => (reach_frame y (64 * p) 64 s).2) _ s

/-- The bytes that a beat brings to a window, with their places. -/
theorem beatCells_map {s t : State} {c d : CoreId} {o q : BusOp} {b m : Nat} (hq : q.drive = false) :
    (beatCells s t c o b d q m).map (·.1) = (List.range 64).map fun i =>
      (padKey d (q.walk.dstAt (64 * m + i)).toNat, memRd s.mem (o.key s c (64 * b + i))) := by
  have hkey (x : Nat) : q.key t d x = padKey d (q.walk.dstAt x).toNat := by
    unfold BusOp.key
    rw [hq]
    rfl
  unfold beatCells
  generalize List.range 64 = l
  have hzip : l.zip (l.map fun i => memRd s.mem (o.key s c (64 * b + i))) = l.map fun i => (i, memRd s.mem (o.key s c (64 * b + i))) := by
    have h := List.zip_map' (f := id) (g := fun i => memRd s.mem (o.key s c (64 * b + i))) (l := l)
    rwa [List.map_id] at h
  rw [hzip, List.map_map, List.map_map]
  refine List.map_congr_left fun i _ => ?_
  show (q.key t d (64 * m + i), _) = _
  rw [hkey]

/-- A beat that nothing keeps from its window: the bytes reach the pad, and the ring has their arrivals (R203, R207). -/
theorem latchBeat_takes {d : CoreId} {q : BusOp} {m : Nat} {cells : List (Host.Cell × Option Nat)} {s : State} (hlate : q.late = [])
    (hkept : s.sideKept d 1 (cells.map (·.1.1)) true = false) : (latchBeat d q m cells s).mem = memWrs s.mem (cells.map (·.1)) ∧
    (q.ring ≠ 0 → ((latchBeat d q m cells s).core.get d).getRing q.ring =
      credited (List.range' (q.w0 + 64 * m) 64) ((s.core.get d).getRing q.ring)) := by
  have heq : latchBeat d q m cells s = latchLag d q m (creditRing d q.ring (List.range' (q.w0 + 64 * m) 64)
      (markWritten cells { s with mem := memWrs s.mem (cells.map (·.1)) })) := by
    unfold latchBeat
    dsimp only
    rw [hlate, hkept]
    exact if_neg Bool.false_ne_true
  obtain ⟨hm, hc, -⟩ := markWritten_frame cells { s with mem := memWrs s.mem (cells.map (·.1)) }
  generalize markWritten cells { s with mem := memWrs s.mem (cells.map (·.1)) } = u at heq hm hc
  obtain ⟨hlm, -, hlr⟩ := latchLag_frame d q m (creditRing d q.ring (List.range' (q.w0 + 64 * m) 64) u)
  rw [heq]
  refine ⟨hlm.trans ((creditRing_frame ..).1.trans hm), fun hq => ?_⟩
  rw [hlr, creditRing_ring d _ u hq, hc]

theorem windowsClosed_frame (s t : State) : (windowsClosed s t).core = t.core ∧ (windowsClosed s t).mem = t.mem := by
  unfold windowsClosed
  constructor
  · refine foldl_keeps State.core (fun s e => ?_) _ t
    rfl
  · refine foldl_keeps State.mem (fun s e => ?_) _ t
    rfl

theorem driversDone_frame (s t : State) {c d : CoreId} {o : BusOp} {b : Nat} (h : beatsOf s true = [(c, o, b)]) (hd : d ≠ c) :
    (driversDone s t).core.get d = t.core.get d ∧ (driversDone s t).mem = t.mem := by
  unfold driversDone
  rw [h, List.filter_cons]
  split
  · obtain ⟨hm, -, hc⟩ := endBus_frame c o.id t
    exact ⟨hc d hd, hm⟩
  · exact ⟨rfl, rfl⟩

theorem sideKept_pad {s t : State} (h : t.core = s.core) (c : CoreId) (keys : List Nat) (w : Bool) :
    t.sideKept c 1 keys w = s.sideKept c 1 keys w := by
  show (!keys.isEmpty && t.padKept c (keySpan keys).1 (keySpan keys).2 w) = (!keys.isEmpty && s.padKept c (keySpan keys).1 (keySpan keys).2 w)
  unfold State.padKept
  rw [h]

theorem goneOut_latches {s : State} {c d : CoreId} {o q : BusOp} {b m : Nat} (hdr : beatsOf s true = [(c, o, b)])
    (hwin : beatsOf s false = [(d, q, m)]) (hod : (s.core.get c).depsReady o.deps = true) (hqd : (s.core.get d).depsReady q.deps = true)
    (hsk : s.sideKept c (baseSp o.walk.src) ((List.range' (64 * b) 64).map (o.key s c)) false = false)
    (hport : portRivals s c (o.seq % 8) o.id (o.banks b) = 0) :
    ∃ u, u.core = s.core ∧ u.mem = s.mem ∧ goneOut s s = latchBeat d q m (beatCells s u c o b d q m) u := by
  have hready : beatReady c o b s = (true, s) := by
    unfold beatReady
    rw [if_neg (by rw [hod, hsk]; decide), if_pos hport]
  let u := if s.dev.errs.isEmpty then s else reachKeys s.arg.y ((List.range 64).map fun i => o.key s c (64 * b + i)) s
  have hu : u.core = s.core ∧ u.mem = s.mem := by
    show (if _ then _ else _ : State).core = _ ∧ (if _ then _ else _ : State).mem = _
    split
    · exact ⟨rfl, rfl⟩
    · exact ⟨reachKeys_core .., (fetches_reachKeys ..).1⟩
  refine ⟨u, hu.1, hu.2, ?_⟩
  have hu' : u.core = s.core := hu.1
  unfold goneOut latched
  rw [hdr]
  dsimp only
  rw [hready, if_neg (show ¬ (!true) = true by decide), hwin]
  show (if !(u.core.get d).depsReady q.deps then u else latchBeat d q m (beatCells s u c o b d q m) u) = _
  rw [hu', hqd]
  exact if_neg (by decide)

theorem broadcastBeat_latches {s : State} {c d : CoreId} {o q : BusOp} {b m : Nat} (hcd : c ≠ d) (hdr : beatsOf s true = [(c, o, b)])
    (hwin : beatsOf s false = [(d, q, m)]) (hqdr : q.drive = false) (hod : (s.core.get c).depsReady o.deps = true)
    (hqd : (s.core.get d).depsReady q.deps = true)
    (hsk : s.sideKept c (baseSp o.walk.src) ((List.range' (64 * b) 64).map (o.key s c)) false = false)
    (hport : portRivals s c (o.seq % 8) o.id (o.banks b) = 0) (hlate : q.late = [])
    (hkept : s.sideKept d 1 ((List.range 64).map fun i => padKey d (q.walk.dstAt (64 * m + i)).toNat) true = false) :
    ∃ t, exec .broadcastBeat s = .next t ∧
      t.mem = memWrs s.mem ((List.range 64).map fun i =>
        (padKey d (q.walk.dstAt (64 * m + i)).toNat, memRd s.mem (o.key s c (64 * b + i)))) ∧
      (q.ring ≠ 0 → let g := (s.core.get d).getRing q.ring
        ∀ sl, tget 0 ((t.core.get d).getRing q.ring).arrived sl =
          tget 0 g.arrived sl + (List.range 64).countP fun i => (q.w0 + 64 * m + i) / g.target % g.slots == sl) := by
  obtain ⟨u, huc, hum, hgone⟩ := goneOut_latches hdr hwin hod hqd hsk hport
  have hcoll : collided s = s := by
    unfold collided
    rw [hdr]
    rfl
  have hexec := broadcastBeat_eq s
  rw [hcoll, hgone] at hexec
  have hcells := beatCells_map (s := s) (t := u) (c := c) (d := d) (o := o) (b := b) (m := m) hqdr
  have hkeys : (beatCells s u c o b d q m).map (·.1.1) = (List.range 64).map fun i => padKey d (q.walk.dstAt (64 * m + i)).toNat := by
    have h := congrArg (List.map Prod.fst) hcells
    rw [List.map_map, List.map_map] at h
    exact h
  have hkept' : u.sideKept d 1 ((beatCells s u c o b d q m).map (·.1.1)) true = false := by
    rw [hkeys, sideKept_pad huc, hkept]
  obtain ⟨hmem, hring⟩ := latchBeat_takes hlate hkept' (m := m)
  rw [hcells, hum] at hmem
  rw [huc] at hring
  generalize latchBeat d q m (beatCells s u c o b d q m) u = v at hexec hmem hring
  obtain ⟨hwc, hwm⟩ := windowsClosed_frame s v
  obtain ⟨hdc, hdm⟩ := driversDone_frame s (windowsClosed s v) hdr hcd.symm
  refine ⟨_, hexec, hdm.trans (hwm.trans hmem), fun hq => ?_⟩
  intro g sl
  rw [hdc, hwc, hring hq, credited_arrived, List.range'_eq_map_range, List.countP_map]
  rfl

/-! BCLAT_COMPLETE (R207). -/

theorem modBus_frame (c : CoreId) (id : Nat) (f : BusOp → BusOp) (s : State) : (modBus c id f s).mem = s.mem ∧
    (modBus c id f s).core.get c = { s.core.get c with bus := (s.core.get c).bus.map fun x => if x.id = id then f x else x } :=
  ⟨rfl, State.modC_get ..⟩

/-- The core once what waited for an operation has been credited and forgotten. -/
def flushed (o : BusOp) (k : CoreSt) : CoreSt :=
  let ps := o.late.map (·.1)
  let k1 := if o.ring = 0 then k else { k with ring := k.ring.set o.ring.toNat (credited ps (k.getRing o.ring)) o.ring.isLt }
  if o.late = [] then k else { k1 with bus := k1.bus.map fun x => if x.id = o.id then { x with late := [] } else x }

theorem flushed_frame (o : BusOp) (k : CoreSt) : (flushed o k).cpc = k.cpc ∧ (flushed o k).tok = k.tok ∧ (flushed o k).div = k.div ∧
    ∃ f : BusOp → BusOp, (∀ x, (f x).id = x.id ∧ (f x).tok = x.tok ∧ (f x).gen = x.gen ∧ (f x).ring = x.ring) ∧ (∀ x, x.id ≠ o.id → f x = x) ∧
      (flushed o k).bus = k.bus.map f := by
  let f (x : BusOp) : BusOp := if x.id = o.id then { x with late := [] } else x
  have hf (x : BusOp) : (f x).id = x.id ∧ (f x).tok = x.tok ∧ (f x).gen = x.gen ∧ (f x).ring = x.ring := by
    show (if _ then _ else _ : BusOp).id = _ ∧ (if _ then _ else _ : BusOp).tok = _ ∧ (if _ then _ else _ : BusOp).gen = _ ∧
      (if _ then _ else _ : BusOp).ring = _
    split
    · exact ⟨rfl, rfl, rfl, rfl⟩
    · exact ⟨rfl, rfl, rfl, rfl⟩
  unfold flushed
  dsimp only
  split
  · exact ⟨rfl, rfl, rfl, id, fun _ => ⟨rfl, rfl, rfl, rfl⟩, fun _ _ => rfl, (List.map_id _).symm⟩
  · split
    · exact ⟨rfl, rfl, rfl, f, hf, fun x hx => if_neg hx, rfl⟩
    · exact ⟨rfl, rfl, rfl, f, hf, fun x hx => if_neg hx, rfl⟩

theorem markCells_tick (cells : List Host.Cell) (bad : Option Nat) (s : State) : (markCells cells bad s).tick = s.tick := by
  unfold markCells
  dsimp only
  split
  · rfl
  · split
    · rfl
    · rfl

theorem markWritten_tick (cells : List (Host.Cell × Option Nat)) (s : State) : (markWritten cells s).tick = s.tick := by
  unfold markWritten
  exact (foldl_keeps State.tick (fun s c => markCells_tick ..) _ _).trans (markCells_tick ..)

theorem creditRing_core (c : CoreId) (q : BitVec 4) (ps : List Nat) (s : State) : (creditRing c q ps s).tick = s.tick ∧
    (creditRing c q ps s).core.get c = if q = 0 then s.core.get c
      else { s.core.get c with ring := (s.core.get c).ring.set q.toNat (credited ps ((s.core.get c).getRing q)) q.isLt } := by
  unfold creditRing
  split
  · exact ⟨rfl, rfl⟩
  · refine ⟨rfl, ?_⟩
    rw [State.modC_get]
    rfl

theorem flushLate_spec (c : CoreId) (o : BusOp) (s : State) : (flushLate c o s).mem = memWrs s.mem (o.late.map (·.2.1)) ∧
    (flushLate c o s).tick = s.tick ∧ (flushLate c o s).core.get c = flushed o (s.core.get c) := by
  unfold flushLate flushed
  cases hl : o.late with
  | nil => exact ⟨rfl, rfl, rfl⟩
  | cons e l =>
    rw [← hl, if_neg (by rw [hl]; exact Bool.false_ne_true), if_neg (by rw [hl]; exact List.cons_ne_nil e l)]
    dsimp only
    obtain ⟨hm, hc, -⟩ := markWritten_frame (o.late.map (·.2)) { s with mem := memWrs s.mem ((o.late.map (·.2)).map (·.1)) }
    have ht := markWritten_tick (o.late.map (·.2)) { s with mem := memWrs s.mem ((o.late.map (·.2)).map (·.1)) }
    generalize markWritten (o.late.map (·.2)) { s with mem := memWrs s.mem ((o.late.map (·.2)).map (·.1)) } = v at hm hc ht ⊢
    obtain ⟨hct, hcc⟩ := creditRing_core c o.ring (o.late.map (·.1)) v
    rw [hc] at hcc
    refine ⟨?_, hct.trans ht, ?_⟩
    · exact (creditRing_frame ..).1.trans (hm.trans (congrArg (memWrs s.mem) (List.map_map ..)))
    · rw [(modBus_frame ..).2, hcc]

theorem find_map {α : Type} {p : α → Bool} {f : α → α} (hf : ∀ x, p (f x) = p x) (l : List α) : (l.map f).find? p = (l.find? p).map f := by
  rw [List.find?_map]
  refine congrArg (Option.map f) (List.find?_congr fun x _ => hf x)

theorem bclatComplete_waits {s : State} {o : BusOp} (h : (s.core.get s.arg.c).bus.find? (·.id == s.arg.id) = some o)
    (hk : s.sideKept s.arg.c 1 ((o.late.map (·.2.1)).map (·.1)) true = true) : ∃ t, exec .bclatComplete s = .next t ∧ t.core = s.core ∧
      t.mem = s.mem ∧ t.has (.ev .bclatComplete s.arg) = true := by
  refine ⟨s.after (s.core.get s.arg.c).div.cpy (.ev .bclatComplete s.arg), ?_, rfl, rfl, has_after ..⟩
  rw [List.map_map] at hk
  show execBclatComplete s = _
  unfold execBclatComplete
  dsimp only
  rw [h]
  exact if_pos hk

theorem bclatComplete_writes {s : State} {o : BusOp} (h : (s.core.get s.arg.c).bus.find? (·.id == s.arg.id) = some o)
    (hk : s.sideKept s.arg.c 1 ((o.late.map (·.2.1)).map (·.1)) true = false) :
    ∃ t, exec .bclatComplete s = .next t ∧ t.mem = memWrs s.mem (o.late.map (·.2.1)) ∧
      (o.lag = 0 → (t.core.get s.arg.c).bus = (s.core.get s.arg.c).bus.filter (·.id != s.arg.id) ∧
        (t.core.get s.arg.c).cpc = (s.core.get s.arg.c).cpc - 1 ∧
        (o.tok ≠ 0 → ((s.core.get s.arg.c).tok[o.tok.toNat]'o.tok.isLt).gen = o.gen → (t.core.get s.arg.c).tokPending o.tok = false)) ∧
      (o.lag ≠ 0 → (t.core.get s.arg.c).cpc = (s.core.get s.arg.c).cpc ∧
        ∃ e ∈ t.agenda, e.due = .ev .bclatComplete s.arg ∧ e.at_ = s.tick + o.lag * (s.core.get s.arg.c).div.cpy) := by
  have hid : o.id = s.arg.id := beq_iff_eq.1 (List.find?_some h :)
  rw [List.map_map] at hk
  have hexec : exec .bclatComplete s = if o.lag = 0 then .next (endBus s.arg.c o.id (flushLate s.arg.c o s))
      else .next ((modBus s.arg.c o.id (fun x => { x with lag := 0 }) (flushLate s.arg.c o s)).after (o.lag * (s.core.get s.arg.c).div.cpy)
        (.ev .bclatComplete s.arg)) := by
    show execBclatComplete s = _
    unfold execBclatComplete
    dsimp only
    rw [h]
    dsimp only
    exact if_neg (Bool.eq_false_iff.1 hk)
  obtain ⟨hmem, htick, hcore⟩ := flushLate_spec s.arg.c o s
  obtain ⟨hcpc, htok, -, f, hf, hfid, hbus⟩ := flushed_frame o (s.core.get s.arg.c)
  by_cases hlag : o.lag = 0
  · rw [if_pos hlag] at hexec
    have hfind : ((flushLate s.arg.c o s).core.get s.arg.c).bus.find? (·.id == o.id) = some (f o) := by
      rw [hcore, hbus, hid, find_map (fun x => by rw [(hf x).1]), h]
      rfl
    obtain ⟨hfo, hftok, hfgen, -⟩ := hf o
    rw [endBus_eq hfind] at hexec
    obtain ⟨hb, hc, -, ht⟩ := busLeft_frame (f o) (flushed o (s.core.get s.arg.c))
    rw [hftok, hfgen] at ht
    refine ⟨_, hexec, hmem, fun _ => ?_, fun hne => absurd hlag hne⟩
    rw [State.modC_get, hcore]
    refine ⟨?_, hc.trans (congrArg (· - 1) hcpc), fun hne hg => ht hne ?_⟩
    · rw [hb, hbus, hfo, hid, List.filter_map]
      refine (List.map_congr_left fun x hx => ?_).trans ((List.map_id _).trans (List.filter_congr fun x _ => ?_))
      · have hx' := (List.mem_filter.1 hx).2
        exact hfid x (by rw [hid, ← (hf x).1]; exact bne_iff_ne.1 hx')
      · show ((f x).id != s.arg.id) = _
        rw [(hf x).1]
    · rw [htok]
      exact hg
  · rw [if_neg hlag] at hexec
    refine ⟨_, hexec, hmem, fun h0 => absurd h0 hlag, fun _ => ⟨?_, _, mem_after_agenda .., rfl, ?_⟩⟩
    · show ((modBus s.arg.c o.id _ (flushLate s.arg.c o s)).core.get s.arg.c).cpc = _
      rw [(modBus_frame ..).2, hcore]
      exact hcpc
    · show (flushLate s.arg.c o s).tick + _ = _
      rw [htick]

/-! Walks (R197). -/

theorem walkOff_digit {c i : Nat} (t : Int) (l : Dims) (x : Nat) (hi : i < c) : walkOff ((c, t) :: l) (i + c * x) = i * t + walkOff l x := by
  show (((i + c * x) % c : Nat) : Int) * t + walkOff l ((i + c * x) / c) = _
  rw [Nat.add_mul_mod_self_left, Nat.mod_eq_of_lt hi, Nat.add_mul_div_left _ _ (by omega), Nat.div_eq_of_lt hi, Nat.zero_add]

/-- A sum over dimensions, taken from the left. -/
theorem foldl_add_dims (p : Int → Bool) (g : Nat × Int → Int) (l : Dims) (a : Int) :
    l.foldl (fun a d => if p d.2 then a + g d else a) a = a + l.foldl (fun a d => if p d.2 then a + g d else a) 0 := by
  induction l generalizing a with
  | nil => exact (Int.add_zero a).symm
  | cons d l ih =>
    rw [List.foldl_cons, List.foldl_cons]
    split
    · rw [ih (a + g d), ih (0 + g d)]
      omega
    · exact ih a

theorem walkLo_cons (c : Nat) (t : Int) (l : Dims) : walkLo ((c, t) :: l) = (if t < 0 then ((c - 1 : Nat) : Int) * t else 0) + walkLo l := by
  have h := foldl_add_dims (fun t => decide (t < 0)) (fun d => ((d.1 - 1 : Nat) : Int) * d.2) l
  simp only [decide_eq_true_eq] at h
  unfold walkLo
  rw [List.foldl_cons, h]
  dsimp only
  split
  · rw [Int.zero_add]
  · rfl

theorem walkHi_cons (c : Nat) (t : Int) (l : Dims) : walkHi ((c, t) :: l) = (if 0 < t then ((c - 1 : Nat) : Int) * t else 0) + walkHi l := by
  have h := foldl_add_dims (fun t => decide (0 < t)) (fun d => ((d.1 - 1 : Nat) : Int) * d.2) l
  simp only [decide_eq_true_eq] at h
  unfold walkHi
  rw [List.foldl_cons, h]
  dsimp only
  split
  · rw [Int.zero_add]
  · rfl

/-- One digit times its stride lies between what the dimension adds to the bounds. -/
theorem digit_between {c i : Nat} (t : Int) (hi : i < c) :
    (if t < 0 then ((c - 1 : Nat) : Int) * t else 0) ≤ (i : Int) * t ∧ (i : Int) * t ≤ if 0 < t then ((c - 1 : Nat) : Int) * t else 0 := by
  have hle : (i : Int) ≤ ((c - 1 : Nat) : Int) := by omega
  have h0 : (0 : Int) ≤ i := Int.natCast_nonneg i
  constructor
  · split
    next ht => exact Int.mul_le_mul_of_nonpos_right hle ht.le
    next ht => exact Int.mul_nonneg h0 (not_lt.1 ht)
  · split
    next ht => exact Int.mul_le_mul_of_nonneg_right hle ht.le
    next ht => exact Int.mul_nonpos_of_nonneg_of_nonpos h0 (not_lt.1 ht)

theorem walkOff_between (l : Dims) : ∀ x, (∀ d ∈ l, 0 < d.1) → walkLo l ≤ walkOff l x ∧ walkOff l x ≤ walkHi l := by
  induction l with
  | nil => exact fun x _ => ⟨le_refl 0, le_refl 0⟩
  | cons d l ih =>
    intro x hd
    obtain ⟨c, t⟩ := d
    obtain ⟨hlo, hhi⟩ := ih (x / c) fun d h => hd d (List.mem_cons_of_mem _ h)
    obtain ⟨hlo', hhi'⟩ := digit_between t (Nat.mod_lt x (hd (c, t) List.mem_cons_self))
    rw [walkLo_cons, walkHi_cons]
    exact ⟨add_le_add hlo' hlo, add_le_add hhi' hhi⟩

end Sys2Proof.Machine
end

section
/-! O45: a copy cycle and the bytes that it moves (R161, R197, R244, R300, R345, R349). -/

namespace Sys2Proof.Machine

/-! A byte that a coherent agent writes (R333, R349). -/

theorem findSome_mapped {α β : Type} {g h : α → Option β} {f : β → β} (hg : ∀ a, h a = (g a).map f) (l : List α) :
    l.findSome? h = (l.findSome? g).map f := by
  induction l with
  | nil => rfl
  | cons a l ih =>
    rw [List.findSome?_cons, List.findSome?_cons, hg]
    cases g a with
    | none => exact ih
    | some b => rfl

/-- Data that a copy answers with for the line: an owner's (R349). -/
def ownedBy (c : Option Copy) : Option (BitVec 1024) :=
  match c with
  | some c => if c.st = .M ∨ c.st = .O ∨ c.st = .E then some c.data else none
  | none => none

/-- A change of the line's data wherever it is held changes the line so. -/
theorem cohFrom_mapped {line : Nat} {f : BitVec 1024 → BitVec 1024} {m m' : BitVec 1024} {copies copies' : Isl → Option Copy}
    {dir : Isl → Option DirEnt} {mshr mshr' : Isl → List Mshr} {fly fly' : Option (BitVec 1024)} {wbuf wbuf' : Isl → Option (BitVec 1024)}
    (hm : m' = f (cohFrom line m copies dir mshr fly wbuf) ∨ m' = f m) (hc : ∀ y, ownedBy (copies' y) = (ownedBy (copies y)).map f)
    (hl : ∀ y, (((mshr' y).find? (·.line == line)).bind fun m => m.data.map (·.2)) =
      (((mshr y).find? (·.line == line)).bind fun m => m.data.map (·.2)).map f)
    (hf : fly' = fly.map f) (hw : ∀ y, wbuf' y = (wbuf y).map f) :
    cohFrom line m' copies' dir mshr' fly' wbuf' = f (cohFrom line m copies dir mshr fly wbuf) := by
  let busy : Bool := (dir (homeOf (line * 128))).any (·.busy.isSome)
  let new (x : Isl) : Bool := match dir (homeOf (line * 128)) with
    | some e => (e.st != .S && e.owner == x) || e.busy.any fun b => b.fwd.isSome || b.back.contains x
    | none => false
  let parts (copies : Isl → Option Copy) (mshr : Isl → List Mshr) (fly : Option (BitVec 1024)) (wbuf : Isl → Option (BitVec 1024)) :
      Option (BitVec 1024) :=
    ((islIds.findSome? fun y => ownedBy (copies y)).or
      (if busy then islIds.findSome? fun y => ((mshr y).find? (·.line == line)).bind fun m => m.data.map (·.2) else none)).or
    ((if busy then fly else none).or (islIds.findSome? fun y => if new y then wbuf y else none))
  have hparts : parts copies' mshr' fly' wbuf' = (parts copies mshr fly wbuf).map f := by
    have hif (b : Bool) (x : Option (BitVec 1024)) : (if b then x.map f else none) = (if b then x else none).map f := by
      cases b
      · rfl
      · rfl
    show (Option.or (Option.or _ _) (Option.or _ _)) = (Option.or (Option.or _ _) (Option.or _ _)).map f
    have hkept := findSome_mapped (g := fun y => if new y then wbuf y else none) (h := fun y => if new y then wbuf' y else none)
      (fun y => by rw [hw]; exact hif _ _) islIds
    rw [findSome_mapped hc, findSome_mapped hl, hf, hkept, hif, hif, Option.map_or, Option.map_or, Option.map_or]
  have h : cohFrom line m copies dir mshr fly wbuf = (parts copies mshr fly wbuf).getD m := rfl
  have h' : cohFrom line m' copies' dir mshr' fly' wbuf' = (parts copies' mshr' fly' wbuf').getD m' := rfl
  rw [h', hparts, h]
  rw [h] at hm
  cases hp : parts copies mshr fly wbuf with
  | none =>
    rw [hp] at hm
    rcases hm with hm | hm
    · exact hm
    · exact hm
  | some d => rfl

theorem memLine_written {s : State} {m : List Host.Cell} {l : Nat} (d : BitVec 1024) (hm : s.mem = memWrs m (lineCells l d)) (line : Nat) :
    memLine s line = if line = l then d else BitVec.ofNat 1024 (memRdN m (line * 128) 128) := by
  unfold memLine
  rw [hm]
  unfold lineCells
  split
  next h =>
    rw [h, memRdN_cellsOf]
    refine BitVec.eq_of_toNat_eq ?_
    have hd : d.toNat % 256 ^ 128 = d.toNat := Nat.mod_eq_of_lt (by
      have h := d.isLt
      rwa [show (256 : Nat) ^ 128 = 2 ^ 1024 by rw [show (256 : Nat) = 2 ^ 8 by rfl, ← Nat.pow_mul]])
    rw [hd, BitVec.toNat_ofNat, Nat.mod_eq_of_lt d.isLt]
  next h =>
    refine congrArg (BitVec.ofNat 1024) (memRdN_congr _ _ _ _ fun a h1 h2 => memRd_cellsOf_ne _ _ _ _ _ ?_)
    omega

theorem flyingOf_ev (line : Nat) (e : Entry) (a : Arg) (h : e.due = .ev .data a ∨ e.due = .ev .backd a) :
    flyingOf line e = if a.line = line then some a.data else none := by
  unfold flyingOf
  rcases h with h | h
  · rw [h]
  · rw [h]

theorem flyingOf_none (line : Nat) (e : Entry) (h1 : ∀ a, e.due ≠ .ev .data a) (h2 : ∀ a, e.due ≠ .ev .backd a) : flyingOf line e = none := by
  unfold flyingOf
  split
  next a h => exact absurd h (h1 a)
  next a h => exact absurd h (h2 a)
  · rfl

theorem flyingOf_flyWr (line l o n v : Nat) (e : Entry) :
    flyingOf line (flyWr l o n v e) = (flyingOf line e).map fun d => if line = l then putLine d o n v else d := by
  have harg (a : Arg) : (if (if a.line = l then { a with data := putLine a.data o n v } else a).line = line then
      some (if a.line = l then { a with data := putLine a.data o n v } else a).data else none) =
      (if a.line = line then some a.data else none).map fun d => if line = l then putLine d o n v else d := by
    by_cases hl : a.line = l
    · rw [if_pos hl]
      by_cases hline : a.line = line
      · rw [if_pos hline, if_pos hline, Option.map_some, if_pos (hline.symm.trans hl)]
      · rw [if_neg hline, if_neg hline]
        rfl
    · rw [if_neg hl]
      by_cases hline : a.line = line
      · rw [if_pos hline, Option.map_some, if_neg fun h => hl (hline.trans h)]
      · rw [if_neg hline]
        rfl
  unfold flyWr
  dsimp only
  split
  next a h => rw [flyingOf_ev line _ _ (.inl rfl), flyingOf_ev line e a (.inl h), harg]
  next a h =>
    rw [flyingOf_none line _ (fun b hb => absurd (Due.ev.inj hb).1 (by decide)) (fun b hb => absurd (Due.ev.inj hb).1 (by decide)),
      flyingOf_none line e (fun b hb => absurd (Due.ev.inj (h.symm.trans hb)).1 (by decide))
        fun b hb => absurd (Due.ev.inj (h.symm.trans hb)).1 (by decide)]
    rfl
  next a h => rw [flyingOf_ev line _ _ (.inr rfl), flyingOf_ev line e a (.inr h), harg]
  next h1 _ h3 =>
    rw [flyingOf_none line e (fun a h => h1 a h) (fun a h => h3 a h)]
    rfl

theorem tfind_map_key {α : Type} (f : α → α) (l : Tbl α) (k j : Nat) :
    tfind (l.map fun e => if e.1 = k then (e.1, f e.2) else e) j = if j = k then (tfind l j).map f else tfind l j := by
  split
  next h =>
    subst h
    exact tfind_map_at f l j
  next h =>
    induction l with
    | nil => rfl
    | cons e l ih =>
      obtain ⟨a, x⟩ := e
      rw [List.map_cons]
      by_cases hk : a = k
      · rw [if_pos hk]
        show (if a = j then some (f x) else _) = if a = j then some x else tfind l j
        rw [if_neg fun ha => h (ha.symm.trans hk), if_neg fun ha => h (ha.symm.trans hk)]
        exact ih
      · rw [if_neg hk]
        show (if a = j then some x else _) = if a = j then some x else tfind l j
        rw [ih]

/-- A tracked copy with its data changed; a region copy has none of the line's. -/
def copyWith (f : BitVec 1024 → BitVec 1024) (x : Copy) : Copy := if x.st ≠ .Rg then { x with data := f x.data } else x

theorem ownedBy_copyWith (f : BitVec 1024 → BitVec 1024) (c : Option Copy) : ownedBy (c.map (copyWith f)) = (ownedBy c).map f := by
  cases c with
  | none => rfl
  | some x =>
    unfold copyWith
    by_cases h : x.st ≠ .Rg
    · rw [Option.map_some, if_pos h]
      unfold ownedBy
      dsimp only
      split
      · rfl
      · rfl
    · rw [Option.map_some, if_neg h]
      unfold ownedBy
      dsimp only
      rw [not_not.1 h]
      rfl

/-- An island once n bytes have been written into what it holds of their line. -/
def islWr (pa n v : Nat) (i : IslandSt) : IslandSt := { i with
  copies := i.copies.map fun e =>
    if e.1 = pa / 128 ∧ e.2.st ≠ .Rg then (e.1, { e.2 with data := putLine e.2.data (pa % 128) n v }) else e
  wbuf := i.wbuf.map fun e => if e.1 = pa / 128 then (e.1, putLine e.2 (pa % 128) n v) else e
  mshr := i.mshr.map fun (m : Mshr) =>
    if m.line = pa / 128 then { m with data := m.data.map fun g => (g.1, putLine g.2 (pa % 128) n v) } else m }

/-- Memory and the messages once n bytes have been written. -/
def homeWr (s : State) (pa n v : Nat) : State := { s with
  mem := memWrs s.mem (lineCells (pa / 128) (putLine (cohLine s (pa / 128)) (pa % 128) n v))
  agenda := s.agenda.map (flyWr (pa / 128) (pa % 128) n v) }

theorem cohWr_eq (s : State) (pa n v : Nat) : cohWr s pa n v = islIds.foldl (fun s y => s.modI y (islWr pa n v)) (homeWr s pa n v) := rfl

theorem cohWr_isl (s : State) (pa n v : Nat) (y : Isl) : (cohWr s pa n v).isl.get y = islWr pa n v (s.isl.get y) := by
  rw [cohWr_eq]
  exact modI_islIds_get (fun _ => islWr pa n v) (homeWr s pa n v) y

theorem copies_islWr (pa n v : Nat) (i : IslandSt) (line : Nat) : tfind (islWr pa n v i).copies line =
    if line = pa / 128 then (tfind i.copies line).map (copyWith fun d => putLine d (pa % 128) n v) else tfind i.copies line := by
  rw [← tfind_map_key]
  refine congrArg (tfind · line) (List.map_congr_left fun e _ => ?_)
  unfold copyWith
  split
  next h => rw [if_pos h.1, if_pos h.2]
  next h =>
    split
    next h1 => rw [if_neg fun h2 => h ⟨h1, h2⟩]
    · rfl

/-- A line after a coherent write (R333). -/
theorem cohLine_cohWr (s : State) (pa n v line : Nat) :
    cohLine (cohWr s pa n v) line = if line = pa / 128 then putLine (cohLine s line) (pa % 128) n v else cohLine s line := by
  let f (d : BitVec 1024) : BitVec 1024 := if line = pa / 128 then putLine d (pa % 128) n v else d
  obtain ⟨hmem, -, -, -, -, -, hag⟩ := foldl_modI_frame (fun _ => islWr pa n v) islIds (homeWr s pa n v)
  have hline : memLine (cohWr s pa n v) line = if line = pa / 128 then putLine (cohLine s (pa / 128)) (pa % 128) n v else memLine s line :=
    memLine_written (s := cohWr s pa n v) _ (by rw [cohWr_eq]; exact hmem) line
  have hfly : (cohWr s pa n v).agenda.findSome? (flyingOf line) = (s.agenda.findSome? (flyingOf line)).map f := by
    rw [cohWr_eq, hag]
    show (s.agenda.map _).findSome? _ = _
    rw [List.findSome?_map]
    exact findSome_mapped (fun e => flyingOf_flyWr line (pa / 128) (pa % 128) n v e) s.agenda
  have hdir : (fun y => tfind ((cohWr s pa n v).isl.get y).dir line) = fun y => tfind (s.isl.get y).dir line :=
    funext fun y => by rw [cohWr_isl]; rfl
  rw [cohLine_eq, hdir]
  have hmapped (x : Option (BitVec 1024)) (h : line ≠ pa / 128) : x.map f = x := by
    have hf : f = id := funext fun d => if_neg h
    rw [hf, Option.map_id, id]
  have htarget := cohFrom_mapped (line := line) (f := f) (m := memLine s line) (m' := memLine (cohWr s pa n v) line)
    (copies := fun y => tfind (s.isl.get y).copies line) (copies' := fun y => tfind ((cohWr s pa n v).isl.get y).copies line)
    (dir := fun y => tfind (s.isl.get y).dir line) (mshr := fun y => (s.isl.get y).mshr) (mshr' := fun y => ((cohWr s pa n v).isl.get y).mshr)
    (wbuf := fun y => tfind (s.isl.get y).wbuf line) (wbuf' := fun y => tfind ((cohWr s pa n v).isl.get y).wbuf line)
    ?_ (fun y => ?_) (fun y => ?_) hfly fun y => ?_
  · rw [htarget, ← cohLine_eq]
  · rw [hline]
    by_cases h : line = pa / 128
    · refine .inl ?_
      rw [if_pos h, ← cohLine_eq, ← h]
      exact (if_pos h).symm
    · exact .inr ((if_neg h).trans (if_neg h).symm)
  · rw [cohWr_isl]
    rw [copies_islWr]
    by_cases h : line = pa / 128
    · rw [if_pos h, ownedBy_copyWith]
      exact congrArg (fun g => (ownedBy (tfind (s.isl.get y).copies line)).map g) (funext fun d => (if_pos h).symm)
    · rw [if_neg h, hmapped _ h]
  · rw [cohWr_isl]
    let G (m : Mshr) : Mshr := if m.line = pa / 128 then { m with data := m.data.map fun g => (g.1, putLine g.2 (pa % 128) n v) } else m
    have hG (m : Mshr) : (G m).line = m.line := by
      show (if _ then _ else _ : Mshr).line = _
      split
      · rfl
      · rfl
    show ((((s.isl.get y).mshr.map G).find? (·.line == line)).bind fun m => m.data.map (·.2)) = _
    rw [find_map fun m => by rw [hG]]
    cases hfind : (s.isl.get y).mshr.find? (·.line == line) with
    | none => rfl
    | some m =>
      have hm : m.line = line := beq_iff_eq.1 (List.find?_some hfind :)
      show ((G m).data.map (·.2)) = (m.data.map (·.2)).map f
      by_cases h : line = pa / 128
      · rw [show G m = _ from if_pos (hm.trans h), Option.map_map]
        rw [Option.map_map]
        exact congrArg (fun g => m.data.map g) (funext fun d => (if_pos h).symm)
      · rw [show G m = m from if_neg fun hl => h (hm.symm.trans hl), hmapped _ h]
  · rw [cohWr_isl]
    show tfind ((s.isl.get y).wbuf.map _) line = _
    rw [tfind_map_key fun d => putLine d (pa % 128) n v]
    by_cases h : line = pa / 128
    · rw [if_pos h]
      exact congrArg (fun g => (tfind (s.isl.get y).wbuf line).map g) (funext fun d => (if_pos h).symm)
    · rw [if_neg h, hmapped _ h]

/-! Bytes of a line (R333). -/

/-- Byte i of a line. -/
def byteOf (d : BitVec 1024) (i : Nat) : Byte := d.extractLsb' (8 * i) 8

theorem putLine_byte (d : BitVec 1024) {o i : Nat} (b : Byte) (ho : o < 128) (hi : i < 128) :
    byteOf (putLine d o 1 b.toNat) i = if i = o then b else byteOf d i := by
  refine BitVec.eq_of_getLsbD_eq fun j hj => ?_
  have hmask : (BitVec.ofNat 1024 ((2 ^ (8 * 1) - 1) <<< (8 * o))).getLsbD (8 * i + j) = decide (i = o) := by
    rw [BitVec.getLsbD_ofNat, Nat.testBit_shiftLeft, Nat.testBit_two_pow_sub_one]
    by_cases h : i = o
    · subst h
      simp [show 8 * i + j < 1024 by omega, hj]
    · by_cases hio : i < o
      · simp [h, show ¬ 8 * o ≤ 8 * i + j by omega]
      · simp [h, show ¬ 8 * i + j - 8 * o < 8 by omega]
  unfold byteOf putLine
  dsimp only
  rw [BitVec.getLsbD_extractLsb', BitVec.getLsbD_or, BitVec.getLsbD_and, BitVec.getLsbD_and, BitVec.getLsbD_not, hmask,
    BitVec.getLsbD_ofNat, Nat.testBit_shiftLeft]
  split
  next h =>
    subst h
    simp [hj, show 8 * i + j < 1024 by omega, BitVec.getElem_eq_testBit_toNat]
  next h =>
    rw [BitVec.getLsbD_extractLsb']
    simp [hj, h, show 8 * i + j < 1024 by omega]

theorem splitRd_one (f : Nat → BitVec 1024) (k : Nat) : splitRd f k 1 = (byteOf (f (k / 128)) (k % 128)).toNat := by
  unfold splitRd byteOf
  dsimp only
  rw [if_pos (by omega), natBits_eq, BitVec.extractLsb'_toNat, Nat.shiftRight_eq_div_pow]
  congr 2
  omega

theorem cohRd_one (s : State) (k : Nat) : cohRd s k 1 = (byteOf (cohLine s (k / 128)) (k % 128)).toNat := splitRd_one ..

/-- A byte after a coherent write of one byte. -/
theorem cohRd_cohWr (s : State) (k j : Nat) (b : Byte) : cohRd (cohWr s k 1 b.toNat) j 1 = if j = k then b.toNat else cohRd s j 1 := by
  rw [cohRd_one, cohRd_one, cohLine_cohWr]
  have hk : k % 128 < 128 := Nat.mod_lt _ (by omega)
  have hj : j % 128 < 128 := Nat.mod_lt _ (by omega)
  by_cases hl : j / 128 = k / 128
  · rw [if_pos hl, putLine_byte _ b hk hj]
    by_cases h : j = k
    · rw [if_pos h, if_pos (congrArg (· % 128) h)]
    · rw [if_neg h, if_neg (by omega)]
  · rw [if_neg hl, if_neg fun h => hl (congrArg (· / 128) h)]

/-! What holds no other data of any line (R349). -/

/-- Nothing that holds data of a line holds other data. -/
structure SameData (s t : State) : Prop where
  mem : t.mem = s.mem
  owned : ∀ y line, ownedBy (tfind (t.isl.get y).copies line) = ownedBy (tfind (s.isl.get y).copies line)
  dir : ∀ y, (t.isl.get y).dir = (s.isl.get y).dir
  mshr : ∀ y, (t.isl.get y).mshr = (s.isl.get y).mshr
  wbuf : ∀ y, (t.isl.get y).wbuf = (s.isl.get y).wbuf
  fly : ∀ line, t.agenda.findSome? (flyingOf line) = s.agenda.findSome? (flyingOf line)

namespace SameData

theorem refl (s : State) : SameData s s := ⟨rfl, fun _ _ => rfl, fun _ => rfl, fun _ => rfl, fun _ => rfl, fun _ => rfl⟩

theorem trans {s t u : State} (h : SameData s t) (h' : SameData t u) : SameData s u :=
  ⟨h'.mem.trans h.mem, fun y l => (h'.owned y l).trans (h.owned y l), fun y => (h'.dir y).trans (h.dir y), fun y => (h'.mshr y).trans (h.mshr y),
    fun y => (h'.wbuf y).trans (h.wbuf y), fun l => (h'.fly l).trans (h.fly l)⟩

/-- What changes neither storage, the islands nor the messages. -/
theorem of_parts {s t : State} (hm : t.mem = s.mem) (hi : t.isl = s.isl) (ha : t.agenda = s.agenda) : SameData s t :=
  ⟨hm, fun y l => by rw [hi], fun y => by rw [hi], fun y => by rw [hi], fun y => by rw [hi], fun l => by rw [ha]⟩

theorem modI (s : State) (y : Isl) {f : IslandSt → IslandSt} (hc : ∀ i l, ownedBy (tfind (f i).copies l) = ownedBy (tfind i.copies l))
    (hd : ∀ i, (f i).dir = i.dir) (hm : ∀ i, (f i).mshr = i.mshr) (hw : ∀ i, (f i).wbuf = i.wbuf) : SameData s (s.modI y f) := by
  have hz (z : Isl) : (s.modI y f).isl.get z = s.isl.get z ∨ (s.modI y f).isl.get z = f (s.isl.get z) := by
    rw [State.modI_get_if s f y z]
    split
    next h => exact .inr (by rw [h])
    · exact .inl rfl
  refine ⟨rfl, fun z l => ?_, fun z => ?_, fun z => ?_, fun z => ?_, fun _ => rfl⟩
  · rcases hz z with h | h
    · rw [h]
    · rw [h, hc]
  · rcases hz z with h | h
    · rw [h]
    · rw [h, hd]
  · rcases hz z with h | h
    · rw [h]
    · rw [h, hm]
  · rcases hz z with h | h
    · rw [h]
    · rw [h, hw]

theorem foldl {α : Type} {f : State → α → State} (hf : ∀ s x, SameData s (f s x)) (l : List α) (s : State) : SameData s (l.foldl f s) := by
  induction l generalizing s with
  | nil => exact .refl s
  | cons x l ih => exact (hf s x).trans (ih _)

/-- An entry of the agenda that carries no line. -/
theorem at_ (s : State) (t : Nat) (d : Due) (h : ∀ line r, flyingOf line ⟨t, r, d⟩ = none) : SameData s (s.at t d) :=
  ⟨rfl, fun _ _ => rfl, fun _ => rfl, fun _ => rfl, fun _ => rfl, fun line => findSome_insEntry (h line _) _⟩

theorem coh {s t : State} (h : SameData s t) (line : Nat) : cohLine t line = cohLine s line := by
  have hmem : memLine t line = memLine s line := by
    unfold memLine
    rw [h.mem]
  have hdir : (fun y => tfind (t.isl.get y).dir line) = fun y => tfind (s.isl.get y).dir line := funext fun y => by rw [h.dir]
  rw [cohLine_eq, cohLine_eq, hmem, h.fly, hdir]
  exact cohFrom_mapped (f := id) (.inr rfl) (fun y => (h.owned y line).trans (congrFun Option.map_id _).symm)
    (fun y => by rw [h.mshr, Option.map_id, id]) (congrFun Option.map_id _).symm fun y => by rw [h.wbuf, Option.map_id, id]

theorem cohRd {s t : State} (h : SameData s t) (k : Nat) : cohRd t k 1 = cohRd s k 1 := by
  rw [cohRd_one, cohRd_one, h.coh]

end SameData

theorem ownedBy_tag (f : Copy → Option SlotKey) (c : Option Copy) : ownedBy (c.map fun x => { x with tag := f x }) = ownedBy c := by
  cases c with
  | none => rfl
  | some x => rfl

theorem sameData_retag (k : SlotKey) (line : Nat) (s : State) : SameData s (retag k line s) := by
  obtain ⟨hm, -, -, -, -, -, ha⟩ := foldl_modI_frame (fun _ i => { i with
    shelf := i.shelf.map fun e => if e.line = line then { e with slot := retagged k e.slot } else e
    copies := i.copies.map fun e => if e.1 = line then (e.1, { e.2 with tag := retagged k e.2.tag }) else e }) islIds s
  refine ⟨hm, fun y l => ?_, fun y => by rw [retag_isl], fun y => by rw [retag_isl], fun y => by rw [retag_isl], fun l => ?_⟩
  · rw [retag_isl]
    dsimp only
    rw [tfind_map_key fun c : Copy => { c with tag := retagged k c.tag }]
    split
    · exact ownedBy_tag (fun c => retagged k c.tag) _
    · rfl
  · exact congrArg (List.findSome? (flyingOf l)) ha

theorem sameData_writeBack (e : ShelfLine) (s : State) : SameData s (writeBack e s) := by
  unfold writeBack
  split
  · split
    · exact .of_parts rfl rfl rfl
    · exact .refl s
  · exact .refl s

theorem sameData_shelf (s : State) (y : Isl) (l : List ShelfLine) : SameData s (s.modI y fun i => { i with shelf := l }) :=
  .modI s y (fun _ _ => rfl) (fun _ => rfl) (fun _ => rfl) fun _ => rfl

theorem sameData_touchShelf (line : Nat) (cls : BitVec 2) (k : Option SlotKey) (dirty : Bool) (s : State) :
    SameData s (touchShelf line cls k dirty s) := by
  have hold : ∀ old : Option ShelfLine, SameData s (old.elim s fun x => writeBack x s) := fun old => by
    cases old with
    | none => exact .refl s
    | some x => exact sameData_writeBack x s
  unfold touchShelf
  dsimp only
  split
  · exact sameData_shelf ..
  · split
    · exact ((hold _).trans (sameData_shelf ..)).trans (sameData_writeBack ..)
    · split
      · exact ((hold _).trans (sameData_writeBack ..)).trans (sameData_shelf ..)
      · exact (hold _).trans (sameData_shelf ..)

theorem sameData_touchLine (c : CoreId) (line : Nat) (cls : BitVec 2) (dirty : Bool) (s : State) : SameData s (touchLine c line cls dirty s) := by
  unfold touchLine
  dsimp only
  refine (sameData_touchShelf line cls (s.coreKey c) dirty s).trans (.modI _ _ (fun i l => ?_) (fun i => ?_) (fun i => ?_) fun i => ?_)
  · split
    next x hx =>
      split
      · rfl
      · show ownedBy (tfind (tset i.copies line _) l) = _
        by_cases h : l = line
        · rw [h, tfind_tset_self, hx]
          rfl
        · rw [tfind_tset_ne _ _ h]
    · rfl
  all_goals
    split
    · split
      · rfl
      · rfl
    · rfl

theorem sameData_markWritten (cells : List (Host.Cell × Option Nat)) (s : State) : SameData s (markWritten cells s) := by
  have hmark (cells : List Host.Cell) (bad : Option Nat) (s : State) : SameData s (markCells cells bad s) := by
    unfold markCells
    dsimp only
    split
    · exact .of_parts rfl rfl rfl
    · split
      · exact .refl s
      · exact .of_parts rfl rfl rfl
  unfold markWritten
  exact (hmark _ _ s).trans (SameData.foldl (fun s c => hmark _ _ s) _ _)

/-! Keys: a line that no context has written, or the writer alone, reads in clear under the writer's key (R345). -/

/-- What an island's caches hold of the line with the key's slot is tagged with the key. -/
def Tagged (k : SlotKey) (i : IslandSt) (line : Nat) : Prop :=
  (∀ e ∈ i.shelf, e.line = line → ∀ t, e.slot = some t → t.1 = k.1 → t = k) ∧
    ∀ c, tfind i.copies line = some c → ∀ t, c.tag = some t → t.1 = k.1 → t = k

/-- Every line reads in clear under the key. -/
def ClearTo (k : Option SlotKey) (s : State) : Prop :=
  ∀ x, k = some x → ∀ line, tfind s.dev.lineKey line = none ∨ (tfind s.dev.lineKey line = some x ∧ ∀ y, Tagged x (s.isl.get y) line)

theorem ClearTo.of_keyless {s : State} (k : Option SlotKey) (h : s.dev.lineKey = []) : ClearTo k s := fun _ _ line => .inl (by rw [h]; rfl)

theorem cachedKey_tagged {k : SlotKey} {line : Nat} {s : State} (h : ∀ y, Tagged k (s.isl.get y) line) {w : BitVec 512}
    (hw : cachedKey s k.1 line = some w) : w = k.2 := by
  unfold cachedKey at hw
  obtain ⟨y, -, hy⟩ := List.exists_of_findSome?_eq_some hw
  obtain ⟨u, hu, rfl⟩ := Option.map_eq_some_iff.1 hy
  obtain ⟨hshelf, hcopies⟩ := h y
  refine congrArg Prod.snd ?_
  rcases Option.or_eq_some_iff.1 hu with hs | ⟨-, hc⟩
  · obtain ⟨e, hfind, hslot⟩ := Option.bind_eq_some_iff.1 hs
    have htest := List.find?_some hfind
    rw [Bool.and_eq_true, beq_iff_eq, hslot] at htest
    exact hshelf e (List.mem_of_find?_eq_some hfind) htest.1 u hslot (beq_iff_eq.1 htest.2)
  · obtain ⟨c, hfind, htag⟩ := Option.bind_eq_some_iff.1 hc
    obtain ⟨ht, hslot⟩ := Option.filter_eq_some_iff.1 htag
    exact hcopies c hfind u ht (beq_iff_eq.1 hslot)

theorem ClearTo.seen {k : Option SlotKey} {s : State} (h : ClearTo k s) (line : Nat) (d : BitVec 1024) : seenLine s k line d = d := by
  cases k with
  | none => rfl
  | some x =>
    rcases h x rfl line with hn | ⟨hk, ht⟩
    · exact seenLine_clear d hn
    · rw [seenLine_key d hk]
      refine if_pos ?_
      cases hw : cachedKey s x.1 line with
      | none => rfl
      | some w => exact (cachedKey_tagged ht hw).symm

theorem tagged_retag (k : SlotKey) (l : Nat) (s : State) (y : Isl) (line : Nat) (h : line = l ∨ Tagged k (s.isl.get y) line) :
    Tagged k ((retag k l s).isl.get y) line := by
  rw [retag_isl]
  have htag {t : Option SlotKey} {u : SlotKey} (hu : retagged k t = some u) : u = k ∨ t = some u := by
    unfold retagged at hu
    split at hu
    · exact .inl (Option.some.inj hu).symm
    · exact .inr hu
  constructor
  · intro e he hline u hu huk
    obtain ⟨e0, he0, rfl⟩ := List.mem_map.1 he
    by_cases hl : e0.line = l
    · rw [if_pos hl] at hu
      exact retagged_slot hu huk
    · rw [if_neg hl] at hu hline
      rcases h with h | ⟨h, -⟩
      · exact absurd (hline.trans h) hl
      · exact h e0 he0 hline u hu huk
  · intro c hc u hu huk
    dsimp only at hc
    rw [tfind_map_key fun c : Copy => { c with tag := retagged k c.tag }] at hc
    split at hc
    · obtain ⟨c0, -, rfl⟩ := Option.map_eq_some_iff.1 hc
      exact retagged_slot hu huk
    next hl =>
      rcases h with h | ⟨-, h⟩
      · exact absurd h hl
      · exact h c hc u hu huk

/-- A line that a writer claims, where every line reads in clear under its key. -/
theorem claimLine_clear {k : Option SlotKey} {s : State} (h : ClearTo k s) (l : Nat) : ClearTo k (claimLine k l s) ∧
    SameData s (claimLine k l s) ∧ (claimLine k l s).core = s.core ∧ ∃ t, (claimLine k l s).dev = { s.dev with lineKey := t } := by
  cases k with
  | none =>
    unfold claimLine
    dsimp only
    split
    · exact ⟨h, .refl s, rfl, _, rfl⟩
    · exact ⟨fun x hx => absurd hx.symm (Option.some_ne_none x), .of_parts rfl rfl rfl, rfl, _, rfl⟩
  | some x =>
    have hs := h.seen l (cohLine s l)
    by_cases hfar : 0x60000000 ≤ l ∧ Config.deviceMemory l = false
    · rw [show claimLine (some x) l s = s from if_pos hfar]
      exact ⟨h, .refl s, rfl, _, rfl⟩
    · have hclaim : claimLine (some x) l s = (retag x l s).modD fun e => { e with lineKey := tset e.lineKey l x } := by
        unfold claimLine
        dsimp only
        rw [if_neg hfar, if_pos hs]
      rw [hclaim]
      have hdev := retag_dev x l s
      have hcore : (retag x l s).core = s.core := (foldl_modI_frame (fun _ i => { i with
        shelf := i.shelf.map fun e => if e.line = l then { e with slot := retagged x e.slot } else e
        copies := i.copies.map fun e => if e.1 = l then (e.1, { e.2 with tag := retagged x e.2.tag }) else e }) islIds s).2.1
      have hdata := sameData_retag x l s
      have htagged := tagged_retag x l s
      generalize retag x l s = u at hdev hcore hdata htagged ⊢
      refine ⟨fun z hz line => ?_, hdata.trans (.of_parts rfl rfl rfl), hcore, _, congrArg (fun d : DevSt => { d with lineKey := tset d.lineKey l x }) hdev⟩
      obtain rfl := Option.some.inj hz
      show tfind (tset u.dev.lineKey l x) line = none ∨ tfind (tset u.dev.lineKey l x) line = some x ∧ ∀ y, Tagged x (u.isl.get y) line
      by_cases hl : line = l
      · rw [hl, tfind_tset_self]
        exact .inr ⟨rfl, fun y => htagged y l (.inl rfl)⟩
      · rw [tfind_tset_ne _ _ hl, hdev]
        rcases h x rfl line with hn | ⟨hk, ht⟩
        · exact .inl hn
        · exact .inr ⟨hk, fun y => htagged y line (.inr (ht y))⟩

/-- Tags that a change of data leaves. -/
theorem tagged_of {k : SlotKey} {i j : IslandSt} {line : Nat} (hs : j.shelf = i.shelf)
    (hc : ∀ c, tfind j.copies line = some c → ∃ c0, tfind i.copies line = some c0 ∧ c0.tag = c.tag) (h : Tagged k i line) : Tagged k j line := by
  obtain ⟨h1, h2⟩ := h
  refine ⟨by rwa [hs], fun c hfind t ht => ?_⟩
  obtain ⟨c0, h0, htag⟩ := hc c hfind
  exact h2 c0 h0 t (htag.trans ht)

theorem ClearTo.of_isl {k : Option SlotKey} {s t : State} (hd : t.dev = s.dev) (ht : ∀ x y line, Tagged x (s.isl.get y) line →
    Tagged x (t.isl.get y) line) (h : ClearTo k s) : ClearTo k t := fun x hx line => by
  rw [hd]
  rcases h x hx line with hn | ⟨hk, hy⟩
  · exact .inl hn
  · exact .inr ⟨hk, fun y => ht x y line (hy y)⟩

theorem clearTo_cohWr {k : Option SlotKey} {s : State} (pa n v : Nat) (h : ClearTo k s) : ClearTo k (cohWr s pa n v) := by
  refine h.of_isl (beside_cohWr ..).2.1 fun x y line hx => tagged_of ?_ (fun c hc => ?_) hx
  · rw [cohWr_isl]
    rfl
  · rw [cohWr_isl, copies_islWr] at hc
    split at hc
    · obtain ⟨c0, h0, rfl⟩ := Option.map_eq_some_iff.1 hc
      refine ⟨c0, h0, ?_⟩
      unfold copyWith
      split
      · rfl
      · rfl
    · exact ⟨c, hc, rfl⟩

/-- The copies of a region line with a byte written into them (R260). -/
def regionWr (key : Nat) (b : Byte) (i : IslandSt) : IslandSt := { i with copies := i.copies.map fun e =>
  if e.1 = key / 128 ∧ e.2.st = .Rg then (e.1, { e.2 with data := putLine e.2.data (key % 128) 1 b.toNat }) else e }

theorem copies_regionWr (key : Nat) (b : Byte) (i : IslandSt) (line : Nat) : tfind (regionWr key b i).copies line = if line = key / 128 then
    (tfind i.copies line).map fun c => { c with data := if c.st = .Rg then putLine c.data (key % 128) 1 b.toNat else c.data }
    else tfind i.copies line := by
  rw [← tfind_map_key fun c : Copy => { c with data := if c.st = .Rg then putLine c.data (key % 128) 1 b.toNat else c.data }]
  refine congrArg (tfind · line) (List.map_congr_left fun e _ => ?_)
  split
  next h => rw [if_pos h.1, if_pos h.2]
  next h =>
    split
    next h1 => rw [if_neg fun h2 => h ⟨h1, h2⟩]
    · rfl

theorem sameData_regionWr (key : Nat) (b : Byte) (s : State) (y : Isl) : SameData s (s.modI y (regionWr key b)) := by
  refine .modI s y (fun i l => ?_) (fun _ => rfl) (fun _ => rfl) fun _ => rfl
  rw [copies_regionWr]
  split
  · cases tfind i.copies l with
    | none => rfl
    | some c =>
      obtain ⟨st, d, n, r, t⟩ := c
      cases st
      · rfl
      · rfl
      · rfl
      · rfl
      · rfl
  · rfl

theorem clearTo_regionWr {k : Option SlotKey} {s : State} (key : Nat) (b : Byte) (y : Isl) (h : ClearTo k s) : ClearTo k (s.modI y (regionWr key b)) := by
  refine ClearTo.of_isl (s := s) (t := s.modI y (regionWr key b)) rfl (fun x z line hx => ?_) h
  rw [State.modI_get_if s _ y z]
  split
  · refine tagged_of (i := s.isl.get z) rfl (fun c hc => ?_) hx
    rw [copies_regionWr] at hc
    split at hc
    · obtain ⟨c0, h0, rfl⟩ := Option.map_eq_some_iff.1 hc
      exact ⟨c0, h0, rfl⟩
    · exact ⟨c, hc, rfl⟩
  · exact hx

theorem coreKey_congr {s t : State} {l : Tbl SlotKey} (hc : t.core = s.core) (hd : t.dev = { s.dev with lineKey := l }) (c : CoreId) :
    t.coreKey c = s.coreKey c := by
  unfold State.coreKey State.ctxKey State.slotKey State.ctxOf
  rw [hc, hd]

/-- A byte that an engine of a core writes into the global space, where every line reads in clear under the core's key (R260, R345, R349). -/
theorem writeByte_global {c : CoreId} (key : Nat) (b : Byte) {s : State} (h : ClearTo (s.coreKey c) s) : let t := writeByte c true key b s
    ClearTo (t.coreKey c) t ∧ (∀ j, cohRd t j 1 = if j = key then b.toNat else cohRd s j 1) ∧ t.core = s.core ∧ t.dev.pool = s.dev.pool := by
  obtain ⟨hclear, hdata, hcore, l, hdev⟩ := claimLine_clear h (key / 128)
  have hwr : writeByte c true key b s = (cohWr (claimLine (s.coreKey c) (key / 128) s) key 1 b.toNat).modI (islOf c) (regionWr key b) := by
    unfold writeByte keyWr lineWr
    rw [if_neg (by decide)]
    dsimp only
    rw [if_pos (by omega)]
    rfl
  intro t
  have ht : t = _ := hwr
  generalize claimLine (s.coreKey c) (key / 128) s = u at hclear hdata hcore hdev ht
  obtain ⟨hcw, hdw, -⟩ := beside_cohWr u key 1 b.toNat
  have hclear' := clearTo_cohWr key 1 b.toNat hclear
  have hrd (j : Nat) := cohRd_cohWr u key j b
  generalize cohWr u key 1 b.toNat = v at hcw hdw hclear' hrd ht
  have hcore' : t.core = s.core := by
    rw [ht]
    exact hcw.trans hcore
  have hdev' : t.dev = { s.dev with lineKey := l } := by
    rw [ht]
    exact hdw.trans hdev
  refine ⟨?_, fun j => ?_, hcore', by rw [hdev']⟩
  · rw [coreKey_congr hcore' hdev', ht]
    exact clearTo_regionWr key b (islOf c) hclear'
  · rw [ht, (sameData_regionWr key b v (islOf c)).cohRd, hrd, hdata.cohRd]

/-! What leaves every byte as it reads (R300). -/

/-- No byte reads differently, and each core runs for the launch that it ran for. -/
structure Passive (s t : State) : Prop where
  data : SameData s t
  pool : t.dev.pool = s.dev.pool
  launch : ∀ d, (t.core.get d).launch = (s.core.get d).launch
  keyless : s.dev.lineKey = [] → t.dev.lineKey = []

namespace Passive

theorem refl (s : State) : Passive s s := ⟨.refl s, rfl, fun _ => rfl, id⟩

theorem trans {s t u : State} (h : Passive s t) (h' : Passive t u) : Passive s u :=
  ⟨h.data.trans h'.data, h'.pool.trans h.pool, fun d => (h'.launch d).trans (h.launch d), fun hs => h'.keyless (h.keyless hs)⟩

theorem of_data {s t : State} (hd : SameData s t) (hc : t.core = s.core) (hp : t.dev.pool = s.dev.pool) (hk : t.dev.lineKey = s.dev.lineKey) :
    Passive s t := ⟨hd, hp, fun _ => by rw [hc], fun h => hk.trans h⟩

theorem modC (s : State) (c : CoreId) {f : CoreSt → CoreSt} (hf : ∀ k, (f k).launch = k.launch) : Passive s (s.modC c f) := by
  refine ⟨.of_parts rfl rfl rfl, rfl, fun d => ?_, id⟩
  rw [State.modC_get_if s f c d]
  split
  · exact hf _
  · rfl

theorem foldl {α : Type} {f : State → α → State} (hf : ∀ s x, Passive s (f s x)) (l : List α) (s : State) : Passive s (l.foldl f s) := by
  induction l generalizing s with
  | nil => exact .refl s
  | cons x l ih => exact (hf s x).trans (ih _)

theorem at_ (s : State) (t : Nat) (d : Due) (h : ∀ line r, flyingOf line ⟨t, r, d⟩ = none) : Passive s (s.at t d) :=
  .of_data (.at_ s t d h) rfl rfl rfl

theorem pick (s : State) : Passive s s.pick.2 := .of_data (.of_parts rfl rfl rfl) rfl rfl rfl

theorem modI (s : State) (y : Isl) {f : IslandSt → IslandSt} (hf : ∀ i, (f i).copies = i.copies ∧ (f i).dir = i.dir ∧ (f i).mshr = i.mshr ∧
    (f i).wbuf = i.wbuf) : Passive s (s.modI y f) :=
  .of_data (.modI s y (fun i l => by rw [(hf i).1]) (fun i => (hf i).2.1) (fun i => (hf i).2.2.1) fun i => (hf i).2.2.2) rfl rfl rfl

end Passive

theorem touchShelf_dev (line : Nat) (cls : BitVec 2) (k : Option SlotKey) (dirty : Bool) (s : State) : let t := touchShelf line cls k dirty s
    t.dev.pool = s.dev.pool ∧ (s.dev.lineKey = [] → t.dev.lineKey = []) := by
  have hwb (e : ShelfLine) (s : State) : (writeBack e s).dev.pool = s.dev.pool ∧ (s.dev.lineKey = [] → (writeBack e s).dev.lineKey = []) := by
    unfold writeBack
    split
    · split
      next h => exact ⟨rfl, fun hk => by rw [hk] at h; exact absurd h nofun⟩
      · exact ⟨rfl, id⟩
    · exact ⟨rfl, id⟩
  have hold : ∀ old : Option ShelfLine, (old.elim s fun x => writeBack x s).dev.pool = s.dev.pool ∧
      (s.dev.lineKey = [] → (old.elim s fun x => writeBack x s).dev.lineKey = []) := fun old => by
    cases old with
    | none => exact ⟨rfl, id⟩
    | some x => exact hwb x s
  unfold touchShelf
  dsimp only
  split
  · exact ⟨rfl, id⟩
  · split
    · exact ⟨(hwb _ _).1.trans (hold _).1, fun h => (hwb _ _).2 ((hold _).2 h)⟩
    · split
      · exact ⟨(hwb _ _).1.trans (hold _).1, fun h => (hwb _ _).2 ((hold _).2 h)⟩
      · exact hold _

theorem passive_touchLine (c : CoreId) (line : Nat) (cls : BitVec 2) (dirty : Bool) (s : State) : Passive s (touchLine c line cls dirty s) := by
  obtain ⟨hp, hk⟩ := touchShelf_dev line cls (s.coreKey c) dirty s
  have hcore := touchShelf_core line cls (s.coreKey c) dirty s
  refine ⟨sameData_touchLine .., hp, fun d => ?_, hk⟩
  show ((touchShelf line cls (s.coreKey c) dirty s).core.get d).launch = _
  rw [hcore]

theorem passive_markPieces (ps : List Nat) (u : Nat) (s : State) : Passive s (markPieces ps u s) :=
  .of_data (.of_parts rfl rfl rfl) rfl rfl rfl

theorem passive_elogPut (r : BitVec 256) (s : State) : Passive s (elogPut r s) := .of_data (.of_parts rfl rfl rfl) rfl rfl rfl

theorem passive_modErrs (f : List Nat → List Nat) (s : State) : Passive s (s.modD fun d => { d with errs := f d.errs }) :=
  .of_data (.of_parts rfl rfl rfl) rfl rfl rfl

theorem passive_noteError (y : Isl) (key n : Nat) (s : State) : Passive s (noteError y key n s) := by
  unfold noteError
  refine Passive.foldl (fun s p => ?_) _ _
  have hcount : Passive s (s.modI (storageUnit s y (64 * p)).1 fun i => i.count 11 1) := .modI s _ fun _ => ⟨rfl, rfl, rfl, rfl⟩
  exact ((hcount.trans (passive_modErrs (List.filter fun x => x != p) _)).trans (passive_markPieces ..)).trans (passive_elogPut ..)

theorem passive_reachKeys (y : Isl) (keys : List Nat) (s : State) : Passive s (reachKeys y keys s) := by
  unfold reachKeys
  refine Passive.foldl (fun s p => ?_) _ _
  unfold reach
  split
  · exact (passive_markPieces ..).trans (passive_noteError ..)
  · exact passive_noteError ..

theorem passive_met (s : State) (c : CoreId) (r : CopyRun) (ps : List Nat) : Passive s (met s c r ps) := by
  unfold met
  split
  · exact .refl s
  · exact passive_reachKeys ..

/-! What a copy reads (R191, R199, R300). -/

/-- No byte of the source lies in a region whose line has another home than the core's island. -/
def HomeRegions (s : State) (c : CoreId) (r : CopyRun) : Prop := baseSp r.cmd.walk.src = 0 → ∀ y k, srcKey s c r y = some k →
  regionOf s c (r.cmd.walk.srcAt y).toNat = none ∨ lineHome (k / 128) = islOf c

theorem srcKey_global {s : State} {c : CoreId} {r : CopyRun} (h : baseSp r.cmd.walk.src = 0) (x : Nat) :
    srcKey s c r x = heldAt r.srcPg (r.cmd.walk.srcAt x).toNat := by
  unfold srcKey
  dsimp only
  rw [h] <;> rfl

theorem regionOf_congr {s t : State} {c : CoreId} (hp : t.dev.pool = s.dev.pool) (hl : (t.core.get c).launch = (s.core.get c).launch) (va : Nat) :
    regionOf t c va = regionOf s c va := by
  unfold regionOf State.launch?
  rw [hp, hl]

theorem HomeRegions.of_passive {s t : State} {c : CoreId} {r q : CopyRun} (h : HomeRegions s c r) (hp : Passive s t)
    (hq : q.cmd.walk = r.cmd.walk) (hpg : q.srcPg = r.srcPg) : HomeRegions t c q := fun hsp y k hk => by
  rw [hq] at hsp
  rw [regionOf_congr hp.pool (hp.launch c), hq]
  refine h hsp y k ?_
  rw [srcKey_global (by rw [hq]; exact hsp), hq, hpg] at hk
  rwa [srcKey_global hsp]

/-- A line of the source, read where its region, if it has one, has its home. -/
theorem readLine_home {s : State} {c : CoreId} {r : CopyRun} {x line : Nat} (h : regionOf s c (r.cmd.walk.srcAt x).toNat = none ∨
    lineHome line = islOf c) : (readLine s c r x line).1 = seenLine s (s.coreKey c) line (cohLine s line) ∧ Passive s (readLine s c r x line).2 := by
  cases hg : regionOf s c (r.cmd.walk.srcAt x).toNat with
  | none =>
    unfold readLine
    rw [hg]
    exact ⟨rfl, passive_touchLine ..⟩
  | some g =>
    have hhome : lineHome line = islOf c := h.resolve_left fun hn => absurd (hg.symm.trans hn) nofun
    have hread (key : Nat) (th : Round) : regionLine (islOf c) line key th s = (cohLine s line, s) ∧
        regionHit s (islOf c) line key th = false := by
      refine ⟨if_pos hhome, ?_⟩
      unfold regionHit
      rw [hhome, bne_self_eq_false, Bool.false_and]
    unfold readLine
    rw [hg]
    dsimp only
    rw [(hread _ _).1, (hread _ _).2]
    exact ⟨rfl, passive_touchLine ..⟩

/-- The lines that a group reads are those that the machine holds. -/
theorem readLines_home {c : CoreId} {r : CopyRun} (hsp : baseSp r.cmd.walk.src = 0) (ps : List Nat) : ∀ (t : Tbl (BitVec 1024)) (s : State),
    HomeRegions s c r → s.dev.lineKey = [] → (∀ l d, tfind t l = some d → d = cohLine s l) →
    let g := readLines c r ps t s
    Passive s g.2 ∧ (∀ l d, tfind g.1 l = some d → d = cohLine s l) ∧ (∀ l, (tfind t l).isSome = true → (tfind g.1 l).isSome = true) ∧
      ∀ x ∈ ps, ∀ k, srcKey s c r x = some k → (tfind g.1 (k / 128)).isSome = true := by
  induction ps with
  | nil => exact fun t s _ _ ht => ⟨.refl s, ht, fun _ h => h, fun x hx => absurd hx List.not_mem_nil⟩
  | cons x ps ih =>
    intro t s hreg hkey ht
    unfold readLines
    cases hk : srcKey s c r x with
    | none =>
      dsimp only
      obtain ⟨hp, hd, hkeep, hps⟩ := ih t s hreg hkey ht
      refine ⟨hp, hd, hkeep, fun y hy k hyk => ?_⟩
      rcases List.mem_cons.1 hy with rfl | hy
      · exact absurd (hk.symm.trans hyk) nofun
      · exact hps y hy k hyk
    | some k =>
      dsimp only
      by_cases hf : (tfind t (k / 128)).isSome = true
      · rw [if_pos hf]
        obtain ⟨hp, hd, hkeep, hps⟩ := ih t s hreg hkey ht
        refine ⟨hp, hd, hkeep, fun y hy k' hyk => ?_⟩
        rcases List.mem_cons.1 hy with rfl | hy
        · obtain rfl := Option.some.inj (hk.symm.trans hyk)
          exact hkeep _ hf
        · exact hps y hy k' hyk
      · rw [if_neg hf]
        obtain ⟨hval, hpass⟩ := readLine_home (hreg hsp x k hk)
        rw [(ClearTo.of_keyless (s.coreKey c) hkey).seen] at hval
        rw [hval]
        generalize (readLine s c r x (k / 128)).2 = s1 at hpass ⊢
        have ht1 : ∀ l d, tfind (tset t (k / 128) (cohLine s (k / 128))) l = some d → d = cohLine s1 l := fun l d hl => by
          rw [hpass.data.coh]
          by_cases hlk : l = k / 128
          · rw [hlk, tfind_tset_self] at hl
            rw [hlk]
            exact (Option.some.inj hl).symm
          · rw [tfind_tset_ne _ _ hlk] at hl
            exact ht l d hl
        obtain ⟨hp, hd, hkeep, hps⟩ := ih (tset t (k / 128) (cohLine s (k / 128))) s1 (hreg.of_passive hpass rfl rfl) (hpass.keyless hkey) ht1
        refine ⟨hpass.trans hp, fun l d hl => (hd l d hl).trans (hpass.data.coh l), fun l hl => hkeep l ?_, fun y hy k' hyk => ?_⟩
        · by_cases hlk : l = k / 128
          · rw [hlk, tfind_tset_self]
            rfl
          · rwa [tfind_tset_ne _ _ hlk]
        · rcases List.mem_cons.1 hy with rfl | hy
          · obtain rfl := Option.some.inj (hk.symm.trans hyk)
            exact hkeep _ (by rw [tfind_tset_self]; rfl)
          · refine hps y hy k' ?_
            rwa [srcKey_global hsp] at hyk ⊢

/-- The byte at a key of the source. -/
def sourceByte (s : State) (r : CopyRun) (k : Nat) : Byte :=
  if baseSp r.cmd.walk.src = 0 then byteOf (cohLine s (k / 128)) (k % 128) else memRd s.mem k

/-- What a group reads: the bytes of its positions, and nothing reads differently then (R300). -/
theorem readGroup_spec {s : State} {c : CoreId} {r : CopyRun} (ps : List Nat) (hreg : HomeRegions s c r) (hkey : s.dev.lineKey = []) :
    Passive s (readGroup s c r ps).2 ∧ ∀ y b, (y, b) ∈ (readGroup s c r ps).1 ↔ y ∈ ps ∧ ∃ k, srcKey s c r y = some k ∧ b = sourceByte s r k := by
  have hmem (f : Nat → Byte) (y : Nat) (b : Byte) : (y, b) ∈ (ps.filterMap fun x => (srcKey s c r x).map fun k => (x, f k)) ↔
      y ∈ ps ∧ ∃ k, srcKey s c r y = some k ∧ b = f k := by
    rw [List.mem_filterMap]
    constructor
    · rintro ⟨x, hx, hxb⟩
      obtain ⟨k, hk, he⟩ := Option.map_eq_some_iff.1 hxb
      rw [Prod.mk.injEq] at he
      obtain ⟨rfl, rfl⟩ := he
      exact ⟨hx, k, hk, rfl⟩
    · rintro ⟨hy, k, hk, rfl⟩
      exact ⟨y, hy, by rw [hk]; rfl⟩
  by_cases hsp : baseSp r.cmd.walk.src = 0
  · rw [readGroup_global hsp]
    have hmet := passive_met s c r ps
    obtain ⟨hp, hd, -, hps⟩ := readLines_home hsp ps [] (met s c r ps) (hreg.of_passive hmet rfl rfl) (hmet.keyless hkey) fun l d hl => absurd hl nofun
    refine ⟨hmet.trans hp, fun y b => (hmem _ y b).trans ?_⟩
    refine and_congr_right fun hy => exists_congr fun k => and_congr_right fun hk => ?_
    have hsome := hps y hy k (by rwa [srcKey_global hsp] at hk ⊢)
    obtain ⟨d, hfind⟩ := Option.isSome_iff_exists.1 hsome
    have hline := (hd _ d hfind).trans (hmet.data.coh _)
    rw [tget_eq_tfind, hfind, Option.getD_some, hline]
    unfold sourceByte
    rw [if_pos hsp]
    rfl
  · rw [readGroup_local hsp]
    refine ⟨passive_met .., fun y b => (hmem _ y b).trans ?_⟩
    have hbyte (k : Nat) : sourceByte s r k = memRd s.mem k := if_neg hsp
    simp only [hbyte]

/-! What follows the writes of a group: its marks, its ring, and the cycle to come (R199, R200, R300). -/

theorem passive_creditRing (c : CoreId) (q : BitVec 4) (ps : List Nat) (s : State) : Passive s (creditRing c q ps s) := by
  unfold creditRing
  split
  · exact .refl s
  · exact .modC s c fun _ => rfl

theorem passive_zeroFill (c : CoreId) (q : BitVec 4) (ps : List Nat) (s : State) : Passive s (zeroFill c q ps s) := by
  unfold zeroFill
  split
  · exact .refl s
  · exact .modC s c fun _ => rfl

theorem markWritten_dev (cells : List (Host.Cell × Option Nat)) (s : State) : (markWritten cells s).dev.pool = s.dev.pool ∧
    (markWritten cells s).dev.lineKey = s.dev.lineKey := by
  have hmark (cells : List Host.Cell) (bad : Option Nat) (s : State) : (markCells cells bad s).dev.pool = s.dev.pool ∧
      (markCells cells bad s).dev.lineKey = s.dev.lineKey := by
    unfold markCells
    dsimp only
    split
    · exact ⟨rfl, rfl⟩
    · split
      · exact ⟨rfl, rfl⟩
      · exact ⟨rfl, rfl⟩
  unfold markWritten
  dsimp only
  constructor
  · exact (foldl_keeps (fun s : State => s.dev.pool) (fun s c => (hmark _ _ s).1) _ _).trans (hmark _ _ s).1
  · exact (foldl_keeps (fun s : State => s.dev.lineKey) (fun s c => (hmark _ _ s).2) _ _).trans (hmark _ _ s).2

theorem passive_markWritten (cells : List (Host.Cell × Option Nat)) (s : State) : Passive s (markWritten cells s) :=
  .of_data (sameData_markWritten cells s) (markWritten_frame cells s).2.1 (markWritten_dev cells s).1 (markWritten_dev cells s).2

theorem passive_nextPiece (c : CoreId) (u : Bool) (n : Nat) (s : State) : Passive s (nextPiece c u n s) := by
  unfold nextPiece
  split
  · exact .refl s
  · exact .at_ s _ _ fun _ _ => rfl

theorem passive_lookNext (c : CoreId) (u : Bool) (dt : Nat) (s : State) : Passive s (lookNext c u dt s) := by
  unfold lookNext
  dsimp only
  split
  · exact .refl s
  · exact .at_ s _ _ fun _ _ => rfl

theorem passive_sendRec (y : Isl) (r : Rec) (s : State) : Passive s (sendRec y r s) :=
  (Passive.modI s y (f := fun i => { i with waiting := i.waiting ++ [r] }) fun _ => ⟨rfl, rfl, rfl, rfl⟩).trans
    ⟨⟨rfl, fun _ _ => rfl, fun _ => rfl, fun _ => rfl, fun _ => rfl, fun _ => rfl⟩, rfl, fun _ => rfl, id⟩

theorem passive_countCheck (c : CoreId) (o : BitVec 5) (fails : List Nat) (copy : Bool) (badr fadr : W64) (s : State) :
    Passive s (countCheck c o fails copy badr fadr s) := by
  unfold countCheck
  dsimp only
  have h : Passive s (s.modC c fun k => { k with cks := k.cks.set (cksIndex o).val ((k.cks.get (cksIndex o)) + 1) (cksIndex o).isLt }.count
    (21 + (cksIndex o).val) 1) := .modC s c fun _ => rfl
  split
  · exact h
  · exact h.trans (passive_sendRec ..)

theorem passive_compareSums (c : CoreId) (r : CopyRun) (s : State) : Passive s (compareSums c r s) := by
  unfold compareSums
  split
  · exact .refl s
  · exact passive_countCheck ..

theorem setUnit_launch (k : CoreSt) (u : Bool) (f : CopyUnit → CopyUnit) : (k.setUnit u f).launch = k.launch := by
  cases u
  · rfl
  · rfl

theorem passive_modUnit (c : CoreId) (u : Bool) (f : CopyUnit → CopyUnit) (s : State) : Passive s (s.modC c fun k => k.setUnit u f) :=
  .modC s c fun k => setUnit_launch k u f

theorem passive_lineDelay (r : CopyRun) (s : State) : Passive s (lineDelay r s).2 := by
  unfold lineDelay
  split
  · exact .pick s
  · exact .refl s

theorem passive_lastWrite (c : CoreId) (u : Bool) (r : CopyRun) (s : State) : Passive s (lastWrite c u r s) := by
  let s1 := compareSums c r (s.modC c fun k => k.setUnit u fun x => { x with run := none, side := x.side ++ [r] })
  have h1 : Passive s s1 := (passive_modUnit c u _ s).trans (passive_compareSums c r _)
  have h2 : Passive s1 (if baseSp r.cmd.walk.dst = 0 then s1.pick else (0, s1)).2 := by
    split
    · exact .pick s1
    · exact .refl s1
  have h3 (n : Nat) (t : State) : Passive t (t.after n (.ev .copyComplete { argCI c r.cmd.id with u := u })) := .at_ t _ _ fun _ _ => rfl
  have h4 (b : Bool) (t : State) : Passive t (if b then nextPiece c u 1 t else t) := by
    split
    · exact passive_nextPiece ..
    · exact .refl t
  exact (((h1.trans h2).trans (h3 _ _)).trans (h4 _ _)).trans (passive_lookNext c u 1 _)

theorem passive_readLines {c : CoreId} {r : CopyRun} (hsp : baseSp r.cmd.walk.src = 0) (ps : List Nat) : ∀ (t : Tbl (BitVec 1024)) (s : State),
    HomeRegions s c r → Passive s (readLines c r ps t s).2 := by
  induction ps with
  | nil => exact fun t s _ => .refl s
  | cons x ps ih =>
    intro t s hreg
    unfold readLines
    cases hk : srcKey s c r x with
    | none => exact ih t s hreg
    | some k =>
      dsimp only
      split
      · exact ih t s hreg
      · have hp := (readLine_home (hreg hsp x k hk)).2
        exact hp.trans (ih _ _ (hreg.of_passive hp rfl rfl))

theorem passive_readGroup {s : State} {c : CoreId} {r : CopyRun} (ps : List Nat) (hreg : HomeRegions s c r) : Passive s (readGroup s c r ps).2 := by
  have hmet := passive_met s c r ps
  by_cases hsp : baseSp r.cmd.walk.src = 0
  · rw [readGroup_global hsp]
    exact hmet.trans (passive_readLines hsp ps [] _ (hreg.of_passive hmet rfl rfl))
  · rw [readGroup_local hsp]
    exact hmet

theorem passive_readEarly {c : CoreId} {u : Bool} {s : State} {r : CopyRun} (hrun : ((s.core.get c).unit u).run = some r)
    (h : HomeRegions s c r) : Passive s (readEarly c u s) := by
  have hfree : Passive s { s with free := s.free + r.cmd.walk.total } := .of_data (.of_parts rfl rfl rfl) rfl rfl rfl
  rw [readEarly_reads hrun]
  exact (hfree.trans (passive_readGroup _ (h.of_passive hfree rfl rfl))).trans (passive_modUnit ..)

/-! A group that moves (R161, R197, R244). -/

/-- Bytes of the group that have not been read, with the state once they have. -/
def groupRead (c : CoreId) (r : CopyRun) (n : Nat) (zero : Bool) (s : State) : List (Nat × Byte) × State :=
  if zero then (((List.range' r.x n).filter fun y => !r.part.any (·.1 == y)).map fun y => (y, 0), s) else readGroup s c r (r.toRead n)

/-- Bytes at hand for the group. -/
def groupAll (c : CoreId) (r : CopyRun) (zero : Bool) (bs : List (Nat × Byte)) (s : State) : List (Nat × Byte × Option Nat) :=
  if zero then r.part ++ bs.map fun e => (e.1, e.2, none) else (r.take s c bs).part

/-- Those that are written now, in the order of the walk. -/
def groupDone (r : CopyRun) (n : Nat) (all : List (Nat × Byte × Option Nat)) : List (Nat × Byte × Option Nat) :=
  (all.filter fun e => decide (e.1 < r.x + n) && decide (writtenWith r.cmd.walk e.1 < r.x + n)).foldl insPart []

/-- The cells of the destination that they go to. -/
def groupCells (s : State) (c : CoreId) (r : CopyRun) (done : List (Nat × Byte × Option Nat)) : List (Host.Cell × Option Nat) :=
  done.filterMap fun e => (dstKey s c r e.1).map fun k => ((k, e.2.1), e.2.2.or ((dstKey s c r e.1).bind fun k =>
    if baseSp r.cmd.walk.dst == 0 && flitFails s c r.cmd.seq (e.1 / 64) k then some (0x2000 + (homeOf k).val) else none))

def groupWritten (c : CoreId) (r : CopyRun) (cells : List (Host.Cell × Option Nat)) (s : State) : State :=
  cells.foldl (fun s e => writeByte c (baseSp r.cmd.walk.dst == 0) e.1.1 e.1.2 s) s

/-- The marks of the written bytes. -/
def groupMarked (c : CoreId) (r : CopyRun) (zero : Bool) (bs : List (Nat × Byte)) (done : List (Nat × Byte × Option Nat))
    (cells : List (Host.Cell × Option Nat)) (s2 : State) : State :=
  let s3 := if baseSp r.cmd.walk.dst ≠ 0 then s2
    else ((cells.map fun e => e.1.1 / 128).eraseDups).foldl (fun s l => touchLine c l r.dstX.1 true s) s2
  let s4 := markWritten cells s3
  creditRing c r.cmd.ring (done.map fun e => r.cmd.w0 + e.1) (if zero then zeroFill c r.cmd.ring (bs.map fun e => r.cmd.w0 + e.1) s4 else s4)

/-- The copy goes on or has ended. -/
def groupNext (c : CoreId) (u : Bool) (r r1 : CopyRun) (s5 : State) : State :=
  if r.cmd.walk.total ≤ r1.x then lastWrite c u r1 s5
  else
    let s6 := s5.modC c fun k => k.setUnit u fun x => { x with run := some r1 }
    let (e, s7) := if newLine r.cmd.walk r1.x r.x then lineDelay r1 (readEarly c u s6) else (0, readEarly c u s6)
    nextPiece c u (1 + e) s7

theorem moveGroup_eq (c : CoreId) (u : Bool) (r : CopyRun) (n : Nat) (zero : Bool) (s0 : State) :
    let s := takePort c r.cmd.walk r.x n s0
    let g := groupRead c r n zero s
    let done := groupDone r n (groupAll c r zero g.1 s)
    let cells := groupCells s c r done
    ∃ r1 : CopyRun, r1.cmd = r.cmd ∧ r1.srcPg = r.srcPg ∧
      moveGroup c u r n zero s0 = groupNext c u r r1 (groupMarked c r zero g.1 done cells (groupWritten c r cells g.2)) := by
  intro s g done cells
  refine ⟨{ r with
    x := r.x + n
    q := match r.cmd.carry with
      | some (_, v) => done.foldl (fun q e => addSums v q e.1 [e.2.1]) r.q
      | none => r.q
    asked := []
    part := (groupAll c r zero g.1 s).filter fun e => !done.any fun d => d.1 == e.1 }, rfl, rfl, ?_⟩
  rfl

theorem passive_groupMarked (c : CoreId) (r : CopyRun) (zero : Bool) (bs : List (Nat × Byte)) (done : List (Nat × Byte × Option Nat))
    (cells : List (Host.Cell × Option Nat)) (s : State) : Passive s (groupMarked c r zero bs done cells s) := by
  have h3 : Passive s (if baseSp r.cmd.walk.dst ≠ 0 then s
      else ((cells.map fun e => e.1.1 / 128).eraseDups).foldl (fun s l => touchLine c l r.dstX.1 true s) s) := by
    split
    · exact .refl s
    · exact .foldl (fun s l => passive_touchLine c l r.dstX.1 true s) _ s
  have h4 (t : State) : Passive t (if zero then zeroFill c r.cmd.ring (bs.map fun e => r.cmd.w0 + e.1) t else t) := by
    split
    · exact passive_zeroFill ..
    · exact .refl t
  exact ((h3.trans (passive_markWritten cells _)).trans (h4 _)).trans (passive_creditRing ..)

theorem passive_groupNext {c : CoreId} {u : Bool} {r r1 : CopyRun} {s : State} (h : HomeRegions s c r1) : Passive s (groupNext c u r r1 s) := by
  unfold groupNext
  split
  · exact passive_lastWrite ..
  · have h6 := passive_modUnit c u (fun x => { x with run := some r1 }) s
    have hrun : (((s.modC c fun k => k.setUnit u fun x => { x with run := some r1 }).core.get c).unit u).run = some r1 := by
      rw [unit_modC]
    have h7 := passive_readEarly hrun (h.of_passive h6 rfl rfl)
    dsimp only
    split
    · exact ((h6.trans h7).trans (passive_lineDelay ..)).trans (passive_nextPiece ..)
    · exact (h6.trans h7).trans (passive_nextPiece ..)

/-! The order of the walk (R161, R197). -/

theorem mem_insPart (l : List (Nat × Byte × Option Nat)) (e x : Nat × Byte × Option Nat) : x ∈ insPart l e ↔ x = e ∨ x ∈ l := by
  induction l with
  | nil => exact List.mem_cons
  | cons y l ih =>
    unfold insPart
    split
    · rw [List.mem_cons, ih, List.mem_cons]
      exact or_left_comm
    · exact List.mem_cons

theorem insPart_sorted {l : List (Nat × Byte × Option Nat)} (h : l.Pairwise fun a b => a.1 ≤ b.1) (e : Nat × Byte × Option Nat) :
    (insPart l e).Pairwise fun a b => a.1 ≤ b.1 := by
  induction l with
  | nil => exact List.pairwise_singleton ..
  | cons y l ih =>
    obtain ⟨hy, hl⟩ := List.pairwise_cons.1 h
    unfold insPart
    split
    next hle =>
      refine List.pairwise_cons.2 ⟨fun x hx => ?_, ih hl⟩
      rcases (mem_insPart l e x).1 hx with rfl | hx
      · exact hle
      · exact hy x hx
    next hlt =>
      refine List.pairwise_cons.2 ⟨fun x hx => ?_, h⟩
      rcases List.mem_cons.1 hx with rfl | hx
      · exact (not_le.1 hlt).le
      · exact (not_le.1 hlt).le.trans (hy x hx)

theorem foldl_insPart (m : List (Nat × Byte × Option Nat)) : ∀ l : List (Nat × Byte × Option Nat), (l.Pairwise fun a b => a.1 ≤ b.1) →
    (m.foldl insPart l).Pairwise (fun a b => a.1 ≤ b.1) ∧ ∀ x, x ∈ m.foldl insPart l ↔ x ∈ m ∨ x ∈ l := by
  induction m with
  | nil => exact fun l h => ⟨h, fun x => by simp⟩
  | cons e m ih =>
    intro l h
    obtain ⟨hs, hm⟩ := ih (insPart l e) (insPart_sorted h e)
    refine ⟨hs, fun x => (hm x).trans ?_⟩
    rw [mem_insPart, List.mem_cons]
    tauto

theorem groupDone_sorted (r : CopyRun) (n : Nat) (all : List (Nat × Byte × Option Nat)) : (groupDone r n all).Pairwise fun a b => a.1 ≤ b.1 :=
  (foldl_insPart _ [] List.Pairwise.nil).1

theorem mem_groupDone {r : CopyRun} {n : Nat} {all : List (Nat × Byte × Option Nat)} {e : Nat × Byte × Option Nat} :
    e ∈ groupDone r n all ↔ e ∈ all ∧ e.1 < r.x + n ∧ writtenWith r.cmd.walk e.1 < r.x + n := by
  unfold groupDone
  rw [(foldl_insPart _ [] List.Pairwise.nil).2, List.mem_filter, Bool.and_eq_true, decide_eq_true_eq, decide_eq_true_eq]
  simp

/-! The writes of a group: the last one for a place remains (R197). -/

/-- A byte as the destination's space reads it. -/
def placeRd (glob : Bool) (s : State) (k : Nat) : Nat := if glob then cohRd s k 1 else (memRd s.mem k).toNat

/-- What the writes of a group need: in the global space, that every line reads in clear under the core's key. -/
def MayWrite (c : CoreId) (glob : Bool) (s : State) : Prop := glob = true → ClearTo (s.coreKey c) s

theorem writeByte_spec {c : CoreId} {glob : Bool} {s : State} (k : Nat) (b : Byte) (h : MayWrite c glob s) : let t := writeByte c glob k b s
    MayWrite c glob t ∧ (∀ j, placeRd glob t j = if j = k then b.toNat else placeRd glob s j) ∧ t.core = s.core ∧ t.dev.pool = s.dev.pool := by
  cases glob with
  | true =>
    obtain ⟨hc, hrd, hcore, hpool⟩ := writeByte_global k b (h rfl)
    exact ⟨fun _ => hc, hrd, hcore, hpool⟩
  | false =>
    refine ⟨fun hf => Bool.noConfusion hf, fun j => ?_, rfl, rfl⟩
    show (memRd (memWr s.mem k b) j).toNat = _
    rw [memRd_memWr]
    split
    · rfl
    · rfl

theorem writes_sorted {c : CoreId} {glob : Bool} (place : Nat × Byte × Option Nat → Option (Host.Cell × Option Nat)) (K : Nat → Option Nat)
    (hplace : ∀ e, (place e).map (·.1) = (K e.1).map fun k => (k, e.2.1)) {s : State} (hs : MayWrite c glob s)
    (done : List (Nat × Byte × Option Nat)) : (done.Pairwise fun a b => a.1 ≤ b.1) →
    let t := (done.filterMap place).foldl (fun s e => writeByte c glob e.1.1 e.1.2 s) s
    MayWrite c glob t ∧ t.core = s.core ∧ t.dev.pool = s.dev.pool ∧ (∀ j, (∀ e ∈ done, K e.1 ≠ some j) → placeRd glob t j = placeRd glob s j) ∧
    ∀ e ∈ done, ∀ j, K e.1 = some j → (∀ x ∈ done, e.1 < x.1 → K x.1 ≠ some j) → (∀ x ∈ done, x.1 = e.1 → x.2.1 = e.2.1) →
      placeRd glob t j = e.2.1.toNat := by
  induction done using List.reverseRecOn with
  | nil => exact fun _ => ⟨hs, rfl, rfl, fun _ _ => rfl, fun e he => absurd he List.not_mem_nil⟩
  | append_singleton l x ih =>
    intro hsorted
    obtain ⟨hl, -, hlx⟩ := List.pairwise_append.1 hsorted
    obtain ⟨hm, hcore, hpool, hother, hlast⟩ := ih hl
    have hx := hplace x
    rw [List.filterMap_append, List.foldl_append]
    generalize (l.filterMap place).foldl (fun s e => writeByte c glob e.1.1 e.1.2 s) s = u at hm hcore hpool hother hlast ⊢
    cases hkx : K x.1 with
    | none =>
      rw [hkx] at hx
      have hnone : place x = none := Option.map_eq_none_iff.1 hx
      rw [List.filterMap_cons, hnone]
      refine ⟨hm, hcore, hpool, fun j hj => hother j fun e he => hj e (List.mem_append_left _ he), fun e he j hj hlater hsame => ?_⟩
      rcases List.mem_append.1 he with he | he
      · exact hlast e he j hj (fun y hy => hlater y (List.mem_append_left _ hy)) fun y hy => hsame y (List.mem_append_left _ hy)
      · rw [List.mem_singleton.1 he, hkx] at hj
        exact absurd hj nofun
    | some k =>
      rw [hkx] at hx
      obtain ⟨p, hp, hpk⟩ := Option.map_eq_some_iff.1 hx
      have hstep : ([x].filterMap place).foldl (fun s e => writeByte c glob e.1.1 e.1.2 s) u = writeByte c glob k x.2.1 u := by
        have hone : [x].filterMap place = [p] := by
          rw [List.filterMap_cons, hp] <;> rfl
        rw [hone]
        show writeByte c glob p.1.1 p.1.2 u = _
        rw [hpk]
      rw [hstep]
      obtain ⟨hm', hrd, hcore', hpool'⟩ := writeByte_spec k x.2.1 hm
      refine ⟨hm', hcore'.trans hcore, hpool'.trans hpool, fun j hj => ?_, fun e he j hj hlater hsame => ?_⟩
      · rw [hrd, if_neg fun h => hj x (List.mem_append_right _ (List.mem_singleton_self x)) (by rw [hkx, h])]
        exact hother j fun e he => hj e (List.mem_append_left _ he)
      · rw [hrd]
        have hxmem : x ∈ l ++ [x] := List.mem_append_right _ (List.mem_singleton_self x)
        split
        next h =>
          subst h
          rcases List.mem_append.1 he with he | he
          · have hle := hlx e he x (List.mem_singleton_self x)
            have heq : x.1 = e.1 := by
              by_contra hne
              exact hlater x hxmem (lt_of_le_of_ne hle fun h => hne h.symm) hkx
            rw [hsame x hxmem heq]
          · rw [List.mem_singleton.1 he]
        next h =>
          rcases List.mem_append.1 he with he | he
          · exact hlast e he j hj (fun y hy => hlater y (List.mem_append_left _ hy)) fun y hy => hsame y (List.mem_append_left _ hy)
          · rw [List.mem_singleton.1 he, hkx] at hj
            exact absurd (Option.some.inj hj).symm h

/-! The group at hand (R244, R300). -/

theorem groupLen_succ (r : CopyRun) (m x a : Nat) (q : Int) : groupLen r (m + 1) x a q = 1 ∨
    (x + 1 < r.cmd.walk.total ∧ ∃ a' q', groupLen r (m + 1) x a q = 1 + groupLen r m (x + 1) a' q') := by
  rw [groupLen]
  dsimp only
  split
  · exact .inl rfl
  next hx =>
    have hif (p : Prop) [Decidable p] (k : Nat) : (if p then 1 + k else 1) = 1 ∨ (if p then 1 + k else 1) = 1 + k := by
      split
      · exact .inr rfl
      · exact .inl rfl
    exact or_iff_not_imp_left.2 fun hne => ⟨not_le.1 hx, _, _, (hif _ _).resolve_left hne⟩

theorem groupLen_pos (r : CopyRun) (m x a : Nat) (q : Int) : 1 ≤ groupLen r (m + 1) x a q := by
  rcases groupLen_succ r m x a q with h | ⟨-, _, _, h⟩
  · rw [h]
  · rw [h]
    exact Nat.le_add_right 1 _

theorem groupLen_le (r : CopyRun) (m : Nat) : ∀ (x a : Nat) (q : Int), x < r.cmd.walk.total → x + groupLen r m x a q ≤ r.cmd.walk.total := by
  induction m with
  | zero => exact fun x a q h => h.le
  | succ m ih =>
    intro x a q h
    rcases groupLen_succ r m x a q with he | ⟨hx, a', q', he⟩
    · rw [he]
      exact h
    · have := ih (x + 1) a' q' hx
      omega

theorem mem_readWith {w : Walk2} {x : Nat} (h : x < w.total) : x ∈ readWith w x := by
  unfold readWith Walk2.mates
  dsimp only
  refine List.mem_filter.2 ⟨?_, beq_self_eq_true _⟩
  split
  · exact List.mem_filter.2 ⟨List.mem_range.2 h, beq_self_eq_true _⟩
  · refine List.mem_filter.2 ⟨List.mem_range'_1.2 (by omega), ?_⟩
    rw [Bool.and_eq_true]
    exact ⟨decide_eq_true h, beq_self_eq_true _⟩

theorem mem_toRead {r : CopyRun} (hpart : r.part = []) (n z : Nat) : z ∈ r.toRead n ↔ ∃ y, r.x ≤ y ∧ y < r.x + n ∧ z ∈ readWith r.cmd.walk y := by
  unfold CopyRun.toRead
  rw [hpart]
  simp only [List.any_nil, Bool.not_false, List.filter_true, List.mem_eraseDups, List.mem_flatMap, List.mem_range'_1, and_assoc]

theorem srcKey_congr {s t : State} {c : CoreId} (hd : t.dev = s.dev) (hx : (t.core.get c).ctx = (s.core.get c).ctx) (r : CopyRun) (y : Nat) :
    srcKey t c r y = srcKey s c r y ∧ dstKey t c r y = dstKey s c r y := by
  have h (a : Nat) : stgOf t c a = stgOf s c a := by
    unfold stgOf State.ctxOf
    rw [hd, hx]
  unfold srcKey dstKey
  simp only [h, and_self]

theorem HomeRegions.congr {s t : State} {c : CoreId} {r q : CopyRun} (h : HomeRegions s c r) (hp : t.dev.pool = s.dev.pool)
    (hl : (t.core.get c).launch = (s.core.get c).launch) (hq : q.cmd.walk = r.cmd.walk) (hpg : q.srcPg = r.srcPg) : HomeRegions t c q :=
  fun hsp y k hk => by
  rw [hq] at hsp
  rw [regionOf_congr hp hl, hq]
  refine h hsp y k ?_
  rw [srcKey_global (by rw [hq]; exact hsp), hq, hpg] at hk
  rwa [srcKey_global hsp]

theorem placeRd_passive {s t : State} (h : Passive s t) (glob : Bool) (k : Nat) : placeRd glob t k = placeRd glob s k := by
  unfold placeRd
  rw [h.data.cohRd, h.data.mem]

/-- The byte that a position of the group moves. -/
def movedByte (s : State) (c : CoreId) (r : CopyRun) (zero : Bool) (y : Nat) : Byte :=
  if zero then 0 else ((srcKey s c r y).map (sourceByte s r)).getD 0

/-- A group that can move: nothing of it has been read, and its pieces are read and written in it. -/
structure Whole (s : State) (c : CoreId) (r : CopyRun) (n : Nat) : Prop where
  part : r.part = []
  inside : r.x + n ≤ r.cmd.walk.total
  written : ∀ y, r.x ≤ y → y < r.x + n → writtenWith r.cmd.walk y < r.x + n
  read : ∀ y, r.x ≤ y → y < r.x + n → ∀ z ∈ readWith r.cmd.walk y, r.x ≤ z
  held : ∀ y, r.x ≤ y → y < r.x + n → (srcKey s c r y).isSome = true

theorem groupRead_spec {s : State} {c : CoreId} {r : CopyRun} {n : Nat} (zero : Bool) (h : Whole s c r n) (hreg : HomeRegions s c r)
    (hkey : s.dev.lineKey = []) : let g := groupRead c r n zero s
    Passive s g.2 ∧ (∀ e ∈ groupAll c r zero g.1 s, r.x ≤ e.1 ∧ e.2.1 = movedByte s c r zero e.1) ∧
      ∀ y, r.x ≤ y → y < r.x + n → ∃ e ∈ groupAll c r zero g.1 s, e.1 = y := by
  cases zero with
  | true =>
    have hall : groupAll c r true (groupRead c r n true s).1 s =
        ((List.range' r.x n).filter fun y => !r.part.any (·.1 == y)).map fun y => (y, 0, none) := by
      show r.part ++ (List.map _ (List.map _ _)) = _
      rw [h.part, List.nil_append, List.map_map]
      rfl
    show Passive s s ∧ _
    rw [hall]
    refine ⟨.refl s, fun e he => ?_, fun y h1 h2 => ⟨(y, 0, none), List.mem_map.2 ⟨y, List.mem_filter.2 ⟨List.mem_range'_1.2 ⟨h1, h2⟩, ?_⟩, rfl⟩, rfl⟩⟩
    · obtain ⟨y, hy, rfl⟩ := List.mem_map.1 he
      exact ⟨(List.mem_range'_1.1 (List.mem_filter.1 hy).1).1, rfl⟩
    · rw [h.part]
      rfl
  | false =>
    obtain ⟨hp, hmem⟩ := readGroup_spec (r.toRead n) hreg hkey
    have hall : groupAll c r false (groupRead c r n false s).1 s = (readGroup s c r (r.toRead n)).1.map fun e => (e.1, e.2, readBad s c r e.1) := by
      show r.part ++ _ = _
      rw [h.part]
      rfl
    show Passive s (readGroup s c r (r.toRead n)).2 ∧ _
    rw [hall]
    generalize readGroup s c r (r.toRead n) = g at hp hmem ⊢
    refine ⟨hp, fun e he => ?_, fun y h1 h2 => ?_⟩
    · obtain ⟨⟨z, b⟩, hzb, rfl⟩ := List.mem_map.1 he
      obtain ⟨hz, k, hk, rfl⟩ := (hmem z b).1 hzb
      obtain ⟨y, h1, h2, hzy⟩ := (mem_toRead h.part n z).1 hz
      refine ⟨h.read y h1 h2 z hzy, ?_⟩
      show _ = ((srcKey s c r z).map (sourceByte s r)).getD 0
      rw [hk]
      rfl
    · obtain ⟨k, hk⟩ := Option.isSome_iff_exists.1 (h.held y h1 h2)
      have hy : y ∈ r.toRead n := (mem_toRead h.part n y).2 ⟨y, h1, h2, mem_readWith (by have := h.inside; omega)⟩
      exact ⟨_, List.mem_map.2 ⟨(y, sourceByte s r k), (hmem y _).2 ⟨hy, k, hk, rfl⟩, rfl⟩, rfl⟩

theorem takePort_frame (c : CoreId) (w : Walk2) (x n : Nat) (s : State) : Passive s (takePort c w x n s) ∧ (takePort c w x n s).dev = s.dev ∧
    ((takePort c w x n s).core.get c).ctx = (s.core.get c).ctx := by
  unfold takePort takeBanks
  refine ⟨.modC s c fun _ => rfl, rfl, ?_⟩
  dsimp only
  rw [State.modC_get]

/-- The cell that a position goes to. -/
def cellOf (s : State) (c : CoreId) (r : CopyRun) (e : Nat × Byte × Option Nat) : Option (Host.Cell × Option Nat) :=
  (dstKey s c r e.1).map fun k => ((k, e.2.1), e.2.2.or ((dstKey s c r e.1).bind fun k =>
    if baseSp r.cmd.walk.dst == 0 && flitFails s c r.cmd.seq (e.1 / 64) k then some (0x2000 + (homeOf k).val) else none))

theorem cellOf_place (s : State) (c : CoreId) (r : CopyRun) (e : Nat × Byte × Option Nat) :
    (cellOf s c r e).map (·.1) = (dstKey s c r e.1).map fun k => (k, e.2.1) := by
  unfold cellOf
  cases dstKey s c r e.1 with
  | none => rfl
  | some k => rfl

/-- A group that moves: each place has the byte of its last position, and every other byte reads as before (R197). -/
theorem moveGroup_moves {s : State} {c : CoreId} {r : CopyRun} {n : Nat} (u zero : Bool) (h : Whole s c r n) (hreg : HomeRegions s c r)
    (hkey : s.dev.lineKey = []) : let t := moveGroup c u r n zero s
    let glob := baseSp r.cmd.walk.dst == 0
    (∀ y k, r.x ≤ y → y < r.x + n → dstKey s c r y = some k → (∀ z, r.x ≤ z → z < r.x + n → y < z → dstKey s c r z ≠ some k) →
      placeRd glob t k = (movedByte s c r zero y).toNat) ∧
    ∀ k, (∀ y, r.x ≤ y → y < r.x + n → dstKey s c r y ≠ some k) → placeRd glob t k = placeRd glob s k := by
  intro t glob
  obtain ⟨hport, hpd, hpx⟩ := takePort_frame c r.cmd.walk r.x n s
  obtain ⟨r1, hcmd, hpg, ht⟩ := moveGroup_eq c u r n zero s
  generalize takePort c r.cmd.walk r.x n s = S at hport hpd hpx ht
  have hkeys := srcKey_congr hpd hpx r
  have hwhole : Whole S c r n := ⟨h.part, h.inside, h.written, h.read, fun y h1 h2 => by rw [(hkeys y).1]; exact h.held y h1 h2⟩
  have hmoved (y : Nat) : movedByte S c r zero y = movedByte s c r zero y := by
    unfold movedByte sourceByte
    rw [(hkeys y).1, hport.data.mem]
    simp only [hport.data.coh]
  obtain ⟨hread, hsome, hall⟩ := groupRead_spec zero hwhole (hreg.of_passive hport rfl rfl) (hport.keyless hkey)
  have hclear : MayWrite c glob (groupRead c r n zero S).2 := fun _ => .of_keyless _ (hread.keyless (hport.keyless hkey))
  generalize groupRead c r n zero S = g at *
  obtain ⟨-, hcore, hpool, hother, hlast⟩ := writes_sorted (cellOf S c r) (dstKey S c r) (cellOf_place S c r) hclear
    (groupDone r n (groupAll c r zero g.1 S)) (groupDone_sorted ..)
  have hW : groupWritten c r (groupCells S c r (groupDone r n (groupAll c r zero g.1 S))) g.2 =
    ((groupDone r n (groupAll c r zero g.1 S)).filterMap (cellOf S c r)).foldl (fun s e => writeByte c glob e.1.1 e.1.2 s) g.2 := rfl
  rw [← hW] at hcore hpool hother hlast
  generalize groupWritten c r (groupCells S c r (groupDone r n (groupAll c r zero g.1 S))) g.2 = W at *
  have hmark := passive_groupMarked c r zero g.1 (groupDone r n (groupAll c r zero g.1 S))
    (groupCells S c r (groupDone r n (groupAll c r zero g.1 S))) W
  have hnext : Passive W t := by
    show Passive W (moveGroup c u r n zero s)
    rw [ht]
    refine hmark.trans (passive_groupNext (hreg.congr ?_ ?_ (congrArg CopyCmd.walk hcmd) hpg))
    · rw [hmark.pool, hpool, hread.pool, hport.pool]
    · rw [hmark.launch, hcore, hread.launch, hport.launch]
  have hdone (e : Nat × Byte × Option Nat) (he : e ∈ groupDone r n (groupAll c r zero g.1 S)) :
      r.x ≤ e.1 ∧ e.1 < r.x + n ∧ e.2.1 = movedByte s c r zero e.1 := by
    obtain ⟨h1, h2, -⟩ := mem_groupDone.1 he
    obtain ⟨h3, h4⟩ := hsome e h1
    exact ⟨h3, h2, h4.trans (hmoved _)⟩
  refine ⟨fun y k h1 h2 hk hlater => ?_, fun k hk => ?_⟩
  · obtain ⟨e, he, rfl⟩ := hall y h1 h2
    have hmem : e ∈ groupDone r n (groupAll c r zero g.1 S) := mem_groupDone.2 ⟨he, h2, h.written _ h1 h2⟩
    rw [placeRd_passive hnext, hlast e hmem k ((hkeys _).2.trans hk) (fun x hx hlt => ?_) fun x hx hxe => ?_, (hdone e hmem).2.2]
    · obtain ⟨h3, h4, -⟩ := hdone x hx
      rw [(hkeys _).2]
      exact hlater x.1 h3 h4 hlt
    · rw [(hdone x hx).2.2, (hdone e hmem).2.2, hxe]
  · rw [placeRd_passive hnext, hother k fun e he => ?_, placeRd_passive hread, placeRd_passive hport]
    obtain ⟨h3, h4, -⟩ := hdone e he
    rw [(hkeys _).2]
    exact hk e.1 h3 h4

/-! A copy cycle (R300). -/

theorem portWait_frame (c : CoreId) (u : Bool) (r : CopyRun) (n : Nat) (s : State) : (portWait c u r n s).2 = s ∨ (portWait c u r n s).2 = s.pick.2 := by
  unfold portWait
  dsimp only
  split
  · exact .inl rfl
  · have hif (p : Prop) [Decidable p] (f : Bool) : (if p then (false, s) else (f, s.pick.2)).2 = s ∨
        (if p then (false, s) else (f, s.pick.2)).2 = s.pick.2 := by
      split
      · exact .inl rfl
      · exact .inr rfl
    exact hif _ _

theorem not_stopsHere {r : CopyRun} (h : r.stop = false) : r.stopsHere = false := by
  unfold CopyRun.stopsHere
  dsimp only
  rw [h, Bool.false_and]

theorem toRead_ne {s : State} {c : CoreId} {r : CopyRun} {n : Nat} (h : Whole s c r n) (hn : 1 ≤ n) : (r.toRead n).isEmpty = false := by
  have hmem : r.x ∈ r.toRead n := (mem_toRead h.part n r.x).2 ⟨r.x, le_refl _, by omega, mem_readWith (by have := h.inside; omega)⟩
  exact List.isEmpty_eq_false_iff.2 (List.ne_nil_of_mem hmem)

theorem pieceStep_moves {s : State} {c : CoreId} {u : Bool} {r : CopyRun} (hrun : ((s.core.get c).unit u).run = some r) (hstop : r.stop = false)
    (hpause : r.pause = none) (h : Whole s c r r.group) (hdst : (dstKey s c r r.x).isSome = true) (hkept : copyKept s c r r.group = false)
    (hask : (hostLines s c r r.group).all r.asked.contains = true) :
    ((lineWaits s c r r.x).all (fun g => !g.2) = true → (portWait c u r r.group s).1 = false →
      pieceStep c u s = moveGroup c u r r.group false (portWait c u r r.group s).2) ∧
    ∀ g, lineWaits s c r r.x = some (g, true) → g.zero = true → pieceStep c u s = moveGroup c u r r.group true s := by
  have hpos : 1 ≤ r.group := groupLen_pos r 63 r.x 1 _
  obtain ⟨k, hk⟩ := Option.isSome_iff_exists.1 (h.held r.x (le_refl _) (by omega))
  obtain ⟨j, hj⟩ := Option.isSome_iff_exists.1 hdst
  have hp : r.paused = false := by
    unfold CopyRun.paused
    rw [hpause]
    rfl
  have hfilter (l : Option (Region × Bool)) : (l.filter fun _ => !(r.toRead r.group).isEmpty) = l := by
    rw [toRead_ne h hpos]
    cases l
    · rfl
    · rfl
  constructor
  · intro hfresh hport
    unfold pieceStep
    dsimp only
    rw [hrun]
    dsimp only
    rw [if_neg (by rw [not_stopsHere hstop]; decide), if_neg (by rw [hp]; decide), hk, hj]
    dsimp only
    rw [if_neg (by rw [hkept]; decide), if_neg (by rw [hask]; decide), hfilter]
    split
    next g hg =>
      rw [hg] at hfresh
      exact absurd hfresh Bool.false_ne_true
    · rw [if_neg (by rw [hport]; decide)]
  · intro g hg hz
    unfold pieceStep
    dsimp only
    rw [hrun]
    dsimp only
    rw [if_neg (by rw [not_stopsHere hstop]; decide), if_neg (by rw [hp]; decide), hk, hj]
    dsimp only
    rw [if_neg (by rw [hkept]; decide), if_neg (by rw [hask]; decide), hfilter, hg]
    exact if_pos hz

/-- A group that moves in a state that differs in its agenda, its time and its free numbers alone. -/
theorem moveGroup_moves_of {s v : State} {c : CoreId} {r : CopyRun} {n : Nat} (hv : Passive s v) (hdev : v.dev = s.dev) (hcore : v.core = s.core)
    (u zero : Bool) (h : Whole s c r n) (hreg : HomeRegions s c r) (hkey : s.dev.lineKey = []) : let t := moveGroup c u r n zero v
    let glob := baseSp r.cmd.walk.dst == 0
    (∀ y k, (r.x ≤ y ∧ y < r.x + n) → dstKey s c r y = some k → (∀ z, (r.x ≤ z ∧ z < r.x + n) → y < z → dstKey s c r z ≠ some k) →
      placeRd glob t k = (movedByte s c r zero y).toNat) ∧
    ∀ k, (∀ y, (r.x ≤ y ∧ y < r.x + n) → dstKey s c r y ≠ some k) → placeRd glob t k = placeRd glob s k := by
  have hkeys := srcKey_congr hdev (by rw [hcore]) (s := s) (t := v) (c := c) r
  have hwhole : Whole v c r n := ⟨h.part, h.inside, h.written, h.read, fun y h1 h2 => by rw [(hkeys y).1]; exact h.held y h1 h2⟩
  have hmoved (y : Nat) : movedByte v c r zero y = movedByte s c r zero y := by
    unfold movedByte sourceByte
    rw [(hkeys y).1, hv.data.mem]
    simp only [hv.data.coh]
  obtain ⟨hin, hout⟩ := moveGroup_moves u zero hwhole (hreg.of_passive hv rfl rfl) (hv.keyless hkey)
  refine ⟨fun y k hy hk hlater => ?_, fun k hk => ?_⟩
  · rw [hin y k hy.1 hy.2 ((hkeys y).2.trans hk) fun z h1 h2 hlt => by rw [(hkeys z).2]; exact hlater z ⟨h1, h2⟩ hlt, hmoved]
  · rw [hout k fun y h1 h2 => by rw [(hkeys y).2]; exact hk y ⟨h1, h2⟩, placeRd_passive hv]

theorem movedByte_source {s : State} {c : CoreId} {r : CopyRun} (hkey : s.dev.lineKey = []) (y : Nat) : (movedByte s c r false y).toNat =
    ((srcKey s c r y).map fun k => if baseSp r.cmd.walk.src = 0 then keyRd s (s.coreKey c) k 1 else (memRd s.mem k).toNat).getD 0 := by
  show (((srcKey s c r y).map (sourceByte s r)).getD 0).toNat = _
  cases srcKey s c r y with
  | none => rfl
  | some k =>
    show (sourceByte s r k).toNat = if _ then _ else _
    unfold sourceByte keyRd
    rw [splitRd_one, (ClearTo.of_keyless (s.coreKey c) hkey).seen]
    split
    · rfl
    · rfl

/-- A copy cycle's entry of the agenda carries no line. -/
theorem passive_popped {s : State} {t0 r0 : Nat} {rest : List Entry} {c : CoreId} {u : Bool} (h : s.agenda = ⟨t0, r0, .piece c u⟩ :: rest) :
    Passive s { s with agenda := rest, tick := max s.tick t0 } := by
  refine .of_data ⟨rfl, fun _ _ => rfl, fun _ => rfl, fun _ => rfl, fun _ => rfl, fun line => ?_⟩ rfl rfl rfl
  rw [h]
  rfl

theorem placeRd_eq (sp : Nat) (s : State) (k : Nat) : placeRd (sp == 0) s k = if sp = 0 then cohRd s k 1 else (memRd s.mem k).toNat := by
  unfold placeRd
  by_cases h : sp = 0
  · rw [if_pos h, if_pos (beq_iff_eq.2 h)]
  · rw [if_neg h, if_neg fun hb => h (beq_iff_eq.1 hb)]

section
variable {s : State} {t0 r0 : Nat} {rest : List Entry} {c : CoreId} {u : Bool} {r : CopyRun}

/-- The state in which a copy cycle's entry has been taken from the agenda. -/
def popped (s : State) (t0 : Nat) (rest : List Entry) : State := { s with agenda := rest, tick := max s.tick t0 }

theorem step_piece (h : s.agenda = ⟨t0, r0, .piece c u⟩ :: rest) : step s = .next (pieceStep c u (popped s t0 rest)) := by
  unfold step
  rw [h]
  rfl

variable (hag : s.agenda = ⟨t0, r0, .piece c u⟩ :: rest) (hrun : ((s.core.get c).unit u).run = some r) (hstop : r.stop = false)
  (hpause : r.pause = none) (h : Whole s c r r.group) (hdst : (dstKey s c r r.x).isSome = true) (hreg : HomeRegions s c r)
  (hkey : s.dev.lineKey = []) (hkept : copyKept (popped s t0 rest) c r r.group = false)
  (hask : (hostLines (popped s t0 rest) c r r.group).all r.asked.contains = true)
include hag hrun hstop hpause h hdst hreg hkey hkept hask

/-- A copy cycle that nothing keeps moves its group: the bytes of the source, or zeros for a line that is zero-filled (R199, R300). -/
theorem copyCycle_moves (zero : Bool) (hmay : if zero then ∃ g, lineWaits s c r r.x = some (g, true) ∧ g.zero = true
    else (lineWaits s c r r.x).all (fun g => !g.2) = true ∧ (portWait c u r r.group (popped s t0 rest)).1 = false) :
    ∃ t, step s = .next t ∧
      (∀ y k, (r.x ≤ y ∧ y < r.x + r.group) → dstKey s c r y = some k →
        (∀ z, (r.x ≤ z ∧ z < r.x + r.group) → y < z → dstKey s c r z ≠ some k) →
        (if baseSp r.cmd.walk.dst = 0 then cohRd t k 1 else (memRd t.mem k).toNat) = (movedByte s c r zero y).toNat) ∧
      ∀ k, (∀ y, (r.x ≤ y ∧ y < r.x + r.group) → dstKey s c r y ≠ some k) →
        (if baseSp r.cmd.walk.dst = 0 then cohRd t k 1 else (memRd t.mem k).toNat) =
          if baseSp r.cmd.walk.dst = 0 then cohRd s k 1 else (memRd s.mem k).toNat := by
  have hpop : Passive s (popped s t0 rest) := passive_popped hag
  have hkeys := srcKey_congr (s := s) (t := popped s t0 rest) (c := c) rfl rfl r
  have hwhole : Whole (popped s t0 rest) c r r.group :=
    ⟨h.part, h.inside, h.written, h.read, fun y h1 h2 => by rw [(hkeys y).1]; exact h.held y h1 h2⟩
  obtain ⟨hmoves, hzero⟩ := pieceStep_moves (s := popped s t0 rest) hrun hstop hpause hwhole (by rw [(hkeys r.x).2]; exact hdst) hkept hask
  have hmoved : ∃ v, Passive s v ∧ v.dev = s.dev ∧ v.core = s.core ∧ pieceStep c u (popped s t0 rest) = moveGroup c u r r.group zero v := by
    cases zero with
    | true =>
      obtain ⟨g, hg, hz⟩ := hmay
      exact ⟨_, hpop, rfl, rfl, hzero g hg hz⟩
    | false =>
      obtain ⟨hfresh, hport⟩ := hmay
      refine ⟨_, ?_, ?_, ?_, hmoves hfresh hport⟩
      all_goals rcases portWait_frame c u r r.group (popped s t0 rest) with hp | hp
      · rw [hp]
        exact hpop
      · rw [hp]
        exact hpop.trans (.pick _)
      all_goals
        rw [hp]
        rfl
  obtain ⟨v, hv, hdev, hcore, heq⟩ := hmoved
  obtain ⟨hin, hout⟩ := moveGroup_moves_of hv hdev hcore u zero h hreg hkey
  simp only [placeRd_eq] at hin hout
  exact ⟨_, (step_piece hag).trans (congrArg Host.Outcome.next heq), hin, hout⟩

end

/-- The copy units (R197 to R200, R300, R305). -/
theorem copyUnits_step (s : State) :
    let c := s.arg.c
    let u := s.arg.u
    let k := s.core.get c
    let x := k.unit u
    (∀ m rest, x.buf = m :: rest → x.run = none → x.side = [] → k.depsReady m.deps = true → m.walk.total ≠ 0 →
      ∃ t r, exec .copyBegin s = .next t ∧ ((t.core.get c).unit u).buf = rest ∧ ((t.core.get c).unit u).run = some r ∧ r.x = 0 ∧
        r.cmd.id = m.id ∧ r.cmd.nest = m.nest ∧ t.has (.piece c u) = true ∧ (traceOn s c 8 = false → t.mem = s.mem)) ∧
    (∀ r, x.run = some r → r.paused = true → (pauseOver s c u r = true ∨ ∀ q ∈ x.side, q.paused = true → pauseOver s c u q = false) →
      ∃ t q, exec .copyResume s = .next t ∧ ((t.core.get c).unit u).run = some q ∧ q.paused = false ∧ q.x = r.x ∧ t.mem = s.mem) ∧
    (∀ r q, x.run = some r → r.paused = true → pauseOver s c u r = false →
      x.side.find? (fun e => e.paused && pauseOver s c u e) = some q → ∃ t, exec .copyResume s = .next t ∧
        ((t.core.get c).unit u).run = some { q with pause := none, slack := 0 } ∧ r ∈ ((t.core.get c).unit u).side ∧ t.mem = s.mem) ∧
    (∀ q, x.run = none → x.side.find? (fun e => e.paused && pauseOver s c u e) = some q → ∃ t, exec .copyResume s = .next t ∧
      ((t.core.get c).unit u).run = some { q with pause := none, slack := 0 } ∧
      (∀ e ∈ ((t.core.get c).unit u).side, e.cmd.id ≠ q.cmd.id) ∧ t.mem = s.mem) :=
  ⟨fun _ _ hbuf hrun hside hdeps htotal => copyBegin_begins hbuf hrun hside hdeps htotal, fun _ hrun hp hover => copyResume_resumes hrun hp hover,
    fun _ _ hrun hp hover hside => copyResume_overtakes hrun hp hover hside, fun _ hrun hside => copyResume_takes hrun hside⟩

/-- Settles O45: the copy units by what each step does to its unit, a copy cycle by the last write to each place, the broadcast bus by
what its windows take, and walks by their digits. -/
theorem copySteps : Obligations.CopySteps := by
  unfold Obligations.CopySteps
  refine ⟨fun s => ?_, fun s => ⟨?_, ?_, ?_, ?_⟩, ?_, fun c t l i x hi => walkOff_digit t l x hi, fun l x hl => walkOff_between l x hl⟩
  · obtain ⟨h1, h2, h3, h4⟩ := copyUnits_step s
    exact ⟨h1, h2, h3, h4, slackExpire_expires s, fun r b hrun hsp hheld hpage => copyPageCrossing_pauses hrun hsp hheld hpage,
      fun r p q hrun hp hq => copyPageCrossing_goes hrun hp hq, fun r h => copyComplete_completes h⟩
  · exact fun c o b hbus hy hdr hch hb hother => broadcastBeat_alone hbus hy hdr hch hb hother
  · exact fun c d o q b e hcd hc hd ho hq hod hqd hoc hqc hb he => broadcastBeat_collides hcd hc hd ho hq hod hqd hoc hqc hb he
  · intro c d o q b m hcd hc hd ho hq hother hod hqd hoc hqc hb hm hodeps hqdeps hsk hport hlate hkept
    obtain ⟨hdr, hwin⟩ := beatsOf_latch hcd hc hd ho hq hother hod hqd hoc hqc hb hm
    exact broadcastBeat_latches hcd hdr hwin hqd hodeps hqdeps hsk hport hlate hkept
  · exact fun o h => ⟨fun hk => bclatComplete_waits h hk, fun hk => bclatComplete_writes h hk⟩
  · intro s t0 r0 rest c u r hag s0 w n here rd src hrun hstop hpause hpart hkey hx hhere hregion hkept hlines moved
    have hwhole : Whole s c r r.group := ⟨hpart, groupLen_le r 64 r.x 1 _ hx, fun y h1 h2 => (hhere y ⟨h1, h2⟩).1,
      fun y h1 h2 => (hhere y ⟨h1, h2⟩).2.1, fun y h1 h2 => (hhere y ⟨h1, h2⟩).2.2.1⟩
    have hpos : 1 ≤ r.group := groupLen_pos r 63 r.x 1 _
    have hdst := (hhere r.x ⟨le_refl _, by show r.x < r.x + r.group; omega⟩).2.2.2
    have hmoves := copyCycle_moves hag hrun hstop hpause hwhole hdst hregion hkey hkept hlines
    refine ⟨fun hfresh hport => ?_, fun g hg hz => ?_⟩
    · obtain ⟨t, hstep, hin, hout⟩ := hmoves false ⟨hfresh, hport⟩
      exact ⟨t, hstep, fun y k hy hk hlater => (hin y k hy hk hlater).trans (movedByte_source hkey y), hout⟩
    · obtain ⟨t, hstep, hin, hout⟩ := hmoves true ⟨g, hg, hz⟩
      exact ⟨t, hstep, fun y k hy hk hlater => hin y k hy hk hlater, hout⟩

end Sys2Proof.Machine
end
